-- ==== Sys2Proof/Word.lean ====
section
/-! DEFINITION. The word types of the model (00_scope.md R5, R6, R9): what the manual treats as bits is a bit vector, every count, time and identifier a natural number, every exact signed quantity an integer. -/

namespace Sys2Proof

/-- One byte (R5). -/
abbrev Byte := BitVec 8

/-- A 32-bit register or error word (R451). -/
abbrev Word := BitVec 32

/-- A binary32 value, held as its 32 bits (R6). -/
abbrev F32 := BitVec 32

/-- A binary64 value, held as its 64 bits (R6). -/
abbrev F64 := BitVec 64

/-- A run of bytes in transfer order. -/
abbrev Bytes := List (BitVec 8)

end Sys2Proof
end

