-- ==== Sys2Proof/Syntax.lean ====
section
/-! DEFINITION. The commands of the block and what they carry: entries of the mailboxes, frames, messages and samples as they reach
the module. -/

namespace Sys2Proof

/-- The transport of a mailbox (R55 to R58): PCIe, or an Ethernet port with the source address and source port. -/
inductive Transport where
  | pcie
  | udp (port addr udpPort : Nat)
  deriving DecidableEq, Repr

/-- A command entry (Table 3-4) with the bulk data it carries or names. -/
structure Entry where
  mbx : Nat
  txid : BitVec 16
  opcode : Nat
  flags : BitVec 16 := 0
  argLen : Nat := 0
  bulkOffset : Nat := 0
  bulkLen : Nat := 0
  /-- Inline arguments; bytes not listed are 0. -/
  args : Bytes := []
  /-- Bulk data at BULK_OFFSET, or after the entry over UDP; bytes not listed are 0. -/
  bulk : Bytes := []
  /-- The entry came in a datagram (R57), not through the command ring of BAR4. -/
  udp : Bool := false
  deriving DecidableEq, Repr

/-- The data of an Announce message that the BMCA compares, and its sender (R94). -/
structure Announce where
  priority1 : Nat
  clockClass : Nat
  accuracy : Nat
  variance : Nat
  priority2 : Nat
  /-- grandmasterIdentity, 64 bits. -/
  gm : Nat
  stepsRemoved : Nat
  /-- sourcePortIdentity: clockIdentity × 2¹⁶ + portNumber. -/
  sender : Nat
  /-- logMessageInterval. -/
  interval : Int
  deriving DecidableEq, Repr

/-- A PTP message as it reaches an Ethernet port (R94), its two-step follow-up joined to it. -/
structure PtpMessage where
  /-- IEEE 1588 messageType: 0 Sync, 1 Delay_Req, 2 Pdelay_Req, 3 Pdelay_Resp, 9 Delay_Resp, 11 Announce. -/
  messageType : Nat
  /-- Ethernet port 0 or 1; transport 0 Annex E, 1 Annex C. -/
  port : Nat
  transport : Nat
  domainNumber : Nat
  /-- sourcePortIdentity, requestingPortIdentity and sequenceId. -/
  source : Nat
  requester : Nat := 0
  sequenceId : Nat := 0
  /-- correctionField, of the message and its follow-up, in 2⁻¹⁶ ns. -/
  correction : Int := 0
  /-- Timestamp carried, in 2⁻¹⁶ ns: origin of a Sync, receipt of a Delay_Resp, response origin of a Pdelay_Resp. -/
  timestamp : Int := 0
  /-- Request receipt timestamp of a Pdelay_Resp, in 2⁻¹⁶ ns. -/
  receipt : Int := 0
  /-- Herd time captured at the port, net of the factory latency, in 0.25 ns (R99). -/
  capture : Nat
  /-- Contents of an Announce. -/
  announce : Option Announce := none
  /-- The message needs an option that Table 4-2 does not list. -/
  unsupported : Bool := false
  deriving DecidableEq, Repr

/-- A frame as it reaches a Tahixa port or the pair port (R104 to R107). -/
structure RxFrame where
  /-- Port of Table 4-5: 0 A0, 1 A1, 2 B0, 3 B1, 4 pair. -/
  port : Nat
  /-- Herd time captured, net of the factory latency, in 0.25 ns (R99). -/
  capture : Nat
  fcsOk : Bool := true
  /-- 8b/10b code and disparity errors the PCS found in it (R143). -/
  codeErrors : Nat := 0
  etherType : Nat := 0x88B5
  /-- Tag control information of a VLAN tag. -/
  vlan : Option Nat := none
  /-- The 12 header bytes (Table 5-2). -/
  header : Bytes
  payload : Bytes
  deriving DecidableEq, Repr

/-- What an absolute encoder answers in one transaction (R348, R349). -/
structure EncoderReply where
  /-- SSI: DATA was high at the first falling edge; it went low after the last clock and was high again within the timeout. -/
  idle : Bool := true
  settled : Bool := true
  /-- SSI: the bits sampled, in the order of Table 16-2. -/
  bits : List Bool := []
  /-- LINK: the ten bytes of the response. -/
  bytes : Bytes := []
  deriving DecidableEq, Repr

/-! ### Data that the two modules of a pair exchange (19_redundant_pair.md) -/

/-- The six major modes (R36, Table 2-1), in code order 0 to 5. -/
inductive Mode where
  | boot | configure | commission | run | hold | fault
  deriving DecidableEq, Repr

/-- Where a completion goes back to: the mailbox, the TXID, the opcode, and where a bulk result goes (R59, R60). -/
structure Origin where
  mbx : Nat
  txid : BitVec 16
  opcode : Nat
  bulkOut : Bool := false
  /-- BULK_OFFSET of the entry. -/
  bulkOffset : Nat := 0
  deriving DecidableEq, Repr

/-- One plan segment (Table 7-4). -/
structure Segment where
  durationNs : Nat := 0
  kind : Nat := 0
  /-- C0 in q32.32 counts. -/
  c0 : Int := 0
  c1 : F64 := 0
  c2 : F64 := 0
  c3 : F64 := 0
  c4 : F64 := 0
  c5 : F64 := 0
  deriving DecidableEq, Repr

/-- The plan record of one arm (Table 7-5): header and 8 joints of three segments. -/
structure PlanRecord where
  seq : Nat := 0
  arm : Nat := 0
  result : Nat := 0
  origin : Nat := 0
  effect : Nat := 0
  stop : Nat := 0
  joints : List (List Segment) := []
  deriving DecidableEq, Repr

/-- One entry of a lease set (Table 9-6); `until` none is all ones. -/
structure LeaseNeed where
  zone : Nat
  first : Nat
  untilTheta : Option Nat
  deriving DecidableEq, Repr

/-- A plan that has taken effect and whose origin the arm has not reached, with its lease set (R148, R208). -/
structure PendingPlan where
  plan : PlanRecord
  needs : List LeaseNeed
  /-- The plan's snapshot found the arm in MOVE with no move active, or in STOPPED (R220). -/
  free : Bool := false
  deriving DecidableEq, Repr

/-- A lease (Table 9-2). -/
structure Lease where
  id : Nat
  arm : Nat
  zone : Nat
  planner : Bool := false
  kept : Bool := false
  followOn : Bool := false
  start : Nat
  finish : Nat
  deriving DecidableEq, Repr

/-- A pending request (R200 to R202). -/
structure ZoneRequest where
  /-- None for a planner request. -/
  origin : Option Origin
  arm : Nat
  zone : Nat
  priority : Nat
  wait : Bool
  start : Nat
  finish : Nat
  /-- Herd time at which the command executed, and its execution order. -/
  at_ : Nat
  order : Nat
  deriving DecidableEq, Repr

/-- `arm.source` (R215). -/
inductive ArmSource where
  | stand | plan | move | jog | stopped
  deriving DecidableEq, Repr

/-- The setpoint operand (Table 10-2). -/
structure Setpoint where
  pos : Int := 0
  vel : F64 := 0
  acc : F64 := 0
  velWord : Int := 0
  flags : Nat := 0
  source : Nat := 0
  tick : Nat := 0
  deriving DecidableEq, Repr

/-- A latch record (Table 16-4). -/
structure EncLatch where
  p : Int := 0
  v : F64 := 0
  t : Nat := 0
  deriving DecidableEq, Repr

/-- The control token (Table 19-1) as this module knows it. -/
structure Token where
  epoch : Nat := 0
  holder : Nat := 0
  leaseEnd : Nat := 0
  deriving DecidableEq, Repr

/-- The herd-time servo state that a pair mirrors (R103): integral in ppb, STATE, SELECTED and slew_rem in 2⁻³² ns. -/
structure ServoState where
  integral : F64
  state : Nat
  selected : Option Nat
  slewRem : Int
  deriving DecidableEq, Repr

/-- A mirror set (Table 19-4): what changed since the previous set, tagged with its tick counter. A field that is none or
empty carries no change. -/
structure MirrorSet where
  tick : Nat
  /-- Committed and pending plan records: arm, following, pending. -/
  plans : List (Nat × Option PlanRecord × List PendingPlan) := []
  /-- The plan committed last, which has not taken effect. -/
  committed : Option (List PlanRecord) := none
  /-- θ, ρ and source: arm, θ, ρ, source. -/
  arms : List (Nat × Nat × Nat × ArmSource) := []
  /-- Setpoint operands by channel. -/
  setpoints : List (Nat × Setpoint) := []
  /-- Lease table, pending planner requests, credits and lease sets. -/
  leases : Option (List Lease) := none
  requests : Option (List ZoneRequest) := none
  credits : Option (List ((Nat × Nat) × Nat)) := none
  sets : Option (List (List LeaseNeed)) := none
  nextSets : Option (List (List LeaseNeed)) := none
  /-- Herd-time servo state. -/
  servo : Option ServoState := none
  /-- `enc.latch` and `enc.age`. -/
  latches : List (Nat × EncLatch × Nat) := []
  /-- `cell.mode`, the target pending or in progress, `cell.mode_resume`. -/
  mode : Option (Mode × Option Mode × Option Mode) := none
  /-- `arm.hold`: arm, hold. -/
  holds : List (Nat × Bool) := []
  /-- Node delays: node, line A, line B; and D₁₂ of each line in 0.25 ns. -/
  delays : List (Nat × List Int × List Int) := []
  d12 : Option (List Int) := none
  /-- The image the holder checks for both (R408), and the digest and tick start of its activation. -/
  image : Option Bytes := none
  activation : Option (Bytes × Nat) := none
  /-- The set of its tick is complete with this part of it. -/
  ends : Bool := true
  deriving DecidableEq, Repr

/-! ### What the hardware finds in a start or of itself (02_modes_and_start.md) -/

/-- How the work of one start step ends, as far as the hardware decides it (R45, R461). -/
inductive StepResult where
  | ok
  /-- The step fails; part is the block of the part that failed, where Table 2-10 leaves a choice. -/
  | failed (region block : Nat)
  /-- The step overruns its budget. -/
  | timeout
  /-- A power domain that the step switches does not reach power-good (R394). -/
  | noPower (domain : Nat)
  deriving DecidableEq, Repr

/-- What a hardware part reports of itself (R16 to R18, Table 2-9). -/
inductive ErrorKind where
  /-- An element corrected a single-bit ECC error, or its one retry of a beat succeeded. -/
  | corrected
  /-- A block retried an operation once with success. -/
  | retried
  /-- The block's retry failed, or an element reports an error it cannot correct. -/
  | uncorrected
  /-- A regulator leaves its range. -/
  | regulator
  deriving DecidableEq, Repr

/-- The commands of the block: one constructor per row of the table of operations and events. `clk` counts the cycles of the
250 MHz herd-time clock since the previous command. -/
inductive Instr where
  /-- NOP (R81). Command that does nothing and completes at once; also serves as a UDP keep-alive. -/
  | nop (clk : Nat) (e : Entry)
  /-- OPEN_SESSION (R65). Opens a session on a CLOSED mailbox, increments its epoch, assigns a new SESSION_ID and binds the mailbox to its transport. -/
  | openSession (clk : Nat) (e : Entry)
  /-- CLOSE_SESSION (R66). Moves the session to CLOSING and cancels its unstarted and cancellable waiting commands. -/
  | closeSession (clk : Nat) (e : Entry)
  /-- NEW_EPOCH (R70). Increments the session epoch modulo 16 and clears the acceptance window, or completes BUSY while other commands are in flight. -/
  | newEpoch (clk : Nat) (e : Entry)
  /-- CHALLENGE (R65). Issues a module nonce for the named HMAC key slot and moves the session to CHALLENGED, unless locked out or the slot is unusable. -/
  | challenge (clk : Nat) (e : Entry)
  /-- UNLOCK (R65). Checks the host MAC against the outstanding nonce and makes the session PRIVILEGED, or counts a wrong UNLOCK. -/
  | unlock (clk : Nat) (e : Entry)
  /-- CANCEL (R72). Withdraws a target TXID of the same mailbox that has not started or is waiting and cancellable, ahead of ring order. -/
  | cancel (clk : Nat) (e : Entry)
  /-- GET_STATUS (R81). Returns mode, mode target, mode cause, tick counter and herd time. -/
  | getStatus (clk : Nat) (e : Entry)
  /-- RESET (R38). Privileged command that posts its completion and schedules a module reset at least 100 us later. -/
  | reset (clk : Nat) (e : Entry)
  /-- SET_MODE (R41). Requests a mode transition, judged against Table 2-3 preconditions and transition precedence. -/
  | setMode (clk : Nat) (e : Entry)
  /-- OBJ_READ (R80). Returns the values of 1 to 54 named objects as of one instant between tick starts. -/
  | objRead (clk : Nat) (e : Entry)
  /-- OBJ_WRITE (R78). Checks every write record in order and queues all of them to take effect together at the next tick start, or applies none. -/
  | objWrite (clk : Nat) (e : Entry)
  /-- IMAGE_BEGIN (R86). Opens a staging area for a cell image load in the session. -/
  | imageBegin (clk : Nat) (e : Entry)
  /-- IMAGE_DATA (R86). Writes image bytes into the staging area at the given offset. -/
  | imageData (clk : Nat) (e : Entry)
  /-- IMAGE_COMMIT (R86). Starts the configuration check on the staged image, optionally check-only. -/
  | imageCommit (clk : Nat) (e : Entry)
  /-- IMAGE_ABORT (R86). Discards the session's staging area and withdraws a pending IMAGE_COMMIT before its activation tick start. -/
  | imageAbort (clk : Nat) (e : Entry)
  /-- MOVE_JOINT (R227). Requests a point-to-point move of one channel, tested at the profile pass at which it takes effect. -/
  | moveJoint (clk : Nat) (e : Entry)
  /-- MOVE_LINEAR (R224). Requests a coordinated straight-line joint-space move of one arm from standstill. -/
  | moveLinear (clk : Nat) (e : Entry)
  /-- MOVE_CONVEYOR (R229). Requests a channel to follow a virtual conveyor axis with ratio, offset and end position. -/
  | moveConveyor (clk : Nat) (e : Entry)
  /-- STOP_MOVE (R232). Starts the stop profiles of the moves, jogs and conveyor following of a channel or arm at the next profile pass. -/
  | stopMove (clk : Nat) (e : Entry)
  /-- JOG (R230). Ramps a channel to a jog speed or stops it in COMMISSION. -/
  | jog (clk : Nat) (e : Entry)
  /-- TEACH (R231). Records the joint setpoints of an arm latched by the next profile pass. -/
  | teach (clk : Nat) (e : Entry)
  /-- PATH_REQUEST (R162). Queues waypoints for a planned arm, which wait for the next planner snapshot. -/
  | pathRequest (clk : Nat) (e : Entry)
  /-- ZONE_REQUEST (R200). Requests a lease on a zone for an arm, judged by the next arbiter pass or kept pending with WAIT. -/
  | zoneRequest (clk : Nat) (e : Entry)
  /-- ZONE_EXTEND (R203). Requests that a lease be extended, judged by the next arbiter pass. -/
  | zoneExtend (clk : Nat) (e : Entry)
  /-- ZONE_RELEASE (R204). Requests release of a lease, applied at the next arbiter pass unless the lease is in use or KEPT. -/
  | zoneRelease (clk : Nat) (e : Entry)
  /-- ACQ_ARM (R367). Arms, forces or aborts an acquisition capture, taking effect at the next tick start. -/
  | acqArm (clk : Nat) (e : Entry)
  /-- ACQ_READ (R372). Returns a range of the finished capture result, waiting until the capture is DONE or ABORTED. -/
  | acqRead (clk : Nat) (e : Entry)
  /-- LOG_READ (R379). Optionally acknowledges log entries up to ACK_SEQ, then returns the oldest unconsumed entries of a class. -/
  | logRead (clk : Nat) (e : Entry)
  /-- ATTEST (R427). Signs a new attestation report with the next one-time index, or returns part of the kept report or the certificate. -/
  | attest (clk : Nat) (e : Entry) (norOk : Bool)
  /-- KEY_ENROL (R420). Enrols or removes a customer key, or sets or clears an HMAC key, with SW1.1 ON in CONFIGURE. -/
  | keyEnrol (clk : Nat) (e : Entry)
  /-- LOADER_INFO (R418). Rescue loader command returning ROM version, slot versions, verification results, floor and revocation fuses. -/
  | loaderInfo (clk : Nat) (e : Entry)
  /-- LOADER_READ_RECORD (R418). Rescue loader command returning the failed-start record. -/
  | loaderReadRecord (clk : Nat) (e : Entry)
  /-- LOADER_WRITE_SLOT (R418). Rescue loader command writing firmware data to a slot and, with FINAL, verifying it and marking it valid. -/
  | loaderWriteSlot (clk : Nat) (e : Entry)
  /-- LOADER_RESTART (R51). Clears CONSEC_FAILED, mirrors the failed-start record and resets the module. -/
  | loaderRestart (clk : Nat) (e : Entry)
  /-- UNKNOWN_OPCODE (R81). Command entry with an undefined opcode, which completes with BAD_OPCODE. -/
  | unknownOpcode (clk : Nat) (e : Entry)
  /-- UDP_DATAGRAM_RX (R57). A Zewen UDP datagram is received and checked for format, binding, tag, epoch and acceptance window before its entry is taken. -/
  | udpDatagramRx (clk : Nat) (port : Nat) (addr : Nat) (udpPort : Nat) (fragmented : Bool) (data : Bytes)
  /-- CMD_TAIL_WRITE (R61). Host writes CMD_TAIL to post command entries, or the write is ignored and DB_ERR set. -/
  | cmdTailWrite (clk : Nat) (mailbox : Nat) (value : Nat)
  /-- CPL_HEAD_WRITE (R61). Host writes CPL_HEAD to consume completions, or the write is ignored and DB_ERR set. -/
  | cplHeadWrite (clk : Nat) (mailbox : Nat) (value : Nat)
  /-- HT_NOW_LO_READ (R449). Read of HT_NOW_LO that latches the high word and fraction of herd time into that BAR's latch. -/
  | htNowLoRead (clk : Nat) (privileged : Bool)
  /-- ACQ_TRIG_TIME_LO_READ (R449). Read of ACQ_TRIG_TIME_LO that latches the high word into that BAR's latch. -/
  | acqTrigTimeLoRead (clk : Nat) (privileged : Bool)
  /-- TXTS_POP (R101). Write of 1 that removes the head entry of the transmit timestamp queue. -/
  | txtsPop (clk : Nat) (privileged : Bool) (value : Nat)
  /-- TXTS_OVF_READ (R101). Read of the RC overflow counter of the timestamp queue, which clears it. -/
  | txtsOvfRead (clk : Nat) (privileged : Bool)
  /-- ERR_COUNT_READ (R452). Read of the RC error-word counter, which clears it. -/
  | errCountRead (clk : Nat) (privileged : Bool)
  /-- GATED_ACCESS_READ (R393). Read of the RC gated-access counter, which clears it. -/
  | gatedAccessRead (clk : Nat) (privileged : Bool)
  /-- CLEAR_FIRST (R452). Write of 1 to ERR_CTRL that empties ERR_FIRST. -/
  | clearFirst (clk : Nat) (privileged : Bool) (value : Nat)
  /-- VIEW_CLEAR (R76). Write of 1 in the privileged view that clears VIEW_DENIED. -/
  | viewClear (clk : Nat) (privileged : Bool) (value : Nat)
  /-- INT_STATUS_CLEAR (R454). W1C write that clears pending interrupt bits. -/
  | intStatusClear (clk : Nat) (privileged : Bool) (value : Nat)
  /-- INT_MASK_WRITE (R454). Write of the interrupt mask; unmasking a pending bit sends its MSI-X vector. -/
  | intMaskWrite (clk : Nat) (privileged : Bool) (value : Nat)
  /-- SOLVER_DONE_CLEAR (R453). W1C write that clears per-slot solver completion bits. -/
  | solverDoneClear (clk : Nat) (privileged : Bool) (value : Nat)
  /-- REGISTER_WRITE (R446). Write to any other register, applied under the access rules, views and gating rules. -/
  | registerWrite (clk : Nat) (privileged : Bool) (offset : Nat) (enables : Nat) (value : Nat)
  /-- OBJ_WRITE_EFFECT (R79). At the tick start after execution, the records of an OBJ_WRITE take effect together and the completion is posted. -/
  | objWriteEffect (clk : Nat)
  /-- GATE_REQUEST_TIMEOUT (R392). A gate request that waited 256 block cycles for a fabric access is refused with BUSY and GATE_BUSY set. -/
  | gateRequestTimeout (clk : Nat)
  /-- SOLVER_ANALYSIS_DONE (R175). Structure analysis ends and the slot becomes RESIDENT or REFUSED. -/
  | solverAnalysisDone (clk : Nat) (slot : Nat)
  /-- IPM_ITERATION_END (R181). An interior-point iterate completes with its residuals, and the run may end converged, infeasible, at the cap or by the factor guard. -/
  | ipmIterationEnd (clk : Nat) (factorNs : Nat)
  /-- SOLVER_RUN_END (R188). A solver run ends, its result record is written, SEQ increments and SOLVER_DONE is set for host runs. -/
  | solverRunEnd (clk : Nat) (slot : Nat)
  /-- SOLVE_DEADLINE (R185). A run's deadline falls, abandoning the iteration or factorisation in progress. -/
  | solveDeadline (clk : Nat) (inFactor : Bool) (suspended : Bool)
  /-- HOST_RUN_RESUME (R180). A host run suspended for a planner solve resumes where it stopped. -/
  | hostRunResume (clk : Nat)
  /-- SOLVER_SRAM_UNCORRECTABLE (R169). An uncorrectable SRAM error isolates the Ibex SRAM controller and ends a run with SOLVER_ISOLATED. -/
  | solverSramUncorrectable (clk : Nat) (element : Nat)
  /-- TICK_START (R89). Herd time reaches the next tick start: the tick counter increments and both static segments start. -/
  | tickStart
  /-- MODE_TRANSITION_COMPLETE (R40). A transition completes (domains switched, arms in SOS or STO released) and cell.mode takes the target at the next tick start. -/
  | modeTransitionComplete (clk : Nat)
  /-- PROFILE_PASS (R218). Latches plans, scales and moves, advances plan times, samples 80 channels and posts setpoint operands. -/
  | profilePass (clk : Nat)
  /-- ARBITER_PASS (R205). Piste arbiter pass: expiries, releases, extensions, arbitration, credits, per-arm lease checks and completions. -/
  | arbiterPass (clk : Nat)
  /-- LEASE_EXPIRY (R205). A lease reaches its END and is removed unless KEPT. -/
  | leaseExpiry (clk : Nat) (lease : Nat)
  /-- PLANNER_SNAPSHOT (R156). At a re-planning period start the planner takes its snapshot of leases, limits, paths and predicted states. -/
  | plannerSnapshot (clk : Nat)
  /-- PLANNER_POST (R155). The planner posts changed numeric entries to the Ibex array and its solve starts, suspending any host run. -/
  | plannerPost (clk : Nat)
  /-- COMMIT_TEST (R158). The commit test of a planner solve result completes and the plan is committed or the period fails. -/
  | commitTest (clk : Nat)
  /-- COMMIT_CUTOFF (R155). The cut-off at the arbiter pass of the period's last tick abandons a running commit test as LATE. -/
  | commitCutoff (clk : Nat)
  /-- SEPARATION_STEP (R286). Both channels latch inputs at t_s and start the separation computation. -/
  | separationStep (clk : Nat)
  /-- PROCESSOR_RESULT (R303). The processor channel's separation result is ready and its stop demands and monitoring judgements go to the safety channels. -/
  | processorResult (clk : Nat)
  /-- CHAMOIS_RESULT (R303). Chamois's separation result is ready and its stop demands and monitoring judgements go to the safety channels. -/
  | chamoisResult (clk : Nat)
  /-- SEPARATION_COMBINATION (R303). At t_x the module compares and combines both channels' results and forms applied speed scales. -/
  | separationCombination (clk : Nat)
  /-- JOINT_STALE (R288). An arm's safe joint record age exceeds its limit and the channel demands SS1. -/
  | jointStale (clk : Nat) (chamois : Bool) (arm : Nat)
  /-- SENSOR_WORST (R290). A person list that is stale or invalid is replaced by the sensor's worst-case person. -/
  | sensorWorst (clk : Nat) (sensor : Nat)
  /-- SS2_RELEASE (R299). A separation stop demand ends after resume_steps consecutive clear steps. -/
  | ss2Release (clk : Nat) (arm : Nat)
  /-- DOWNSTREAM_COMMIT_POINT (R110). At a downstream slot's commit point the MAC takes the newest payload, choosing among waiting outputs or resending with higher age. -/
  | downstreamCommitPoint (clk : Nat) (dynamic : Bool) (slot : Nat)
  /-- PROCESS_FRAME_RX (R107). An upstream PROCESS frame is received, checked and its operand posted. -/
  | processFrameRx (clk : Nat) (f : RxFrame)
  /-- SAFETY_FRAME_RX (R138). A SAFETY frame copy is received, checked for CRC and sequence, and compared with the other line's copy. -/
  | safetyFrameRx (clk : Nat) (f : RxFrame)
  /-- MESSAGE_RX (R120). An upstream dynamic MESSAGE frame is received and host frames enter the receive queue. -/
  | messageRx (clk : Nat) (f : RxFrame)
  /-- DELAY_RESP_RX (R111). A DELAY_RESP is received and the node's delay on that line is measured. -/
  | delayRespRx (clk : Nat) (f : RxFrame)
  /-- STARTUP_RX (R131). A STARTUP frame is received and drives network start-up, collision, back-off or following. -/
  | startupRx (clk : Nat) (f : RxFrame)
  /-- SLOT_WINDOW_CLOSE (R242). No valid frame by a + w: the held payload is posted with its age, or a single safety copy is posted. -/
  | slotWindowClose (clk : Nat) (slot : Nat)
  /-- DOWNSTREAM_NIT_START (R139). At the downstream NIT the module judges ring closure and may open a ring. -/
  | downstreamNitStart (clk : Nat)
  /-- RING_RESTORE_AT (R142). At RESTORE_AT the module stops sending out of A1 and clears the ring-open flag. -/
  | ringRestoreAt (clk : Nat) (ring : Nat)
  /-- LISTEN_TIMEOUT (R130). Eight cycles without a module STARTUP move the module from LISTEN to COLDSTART. -/
  | listenTimeout (clk : Nat)
  /-- START_WINDOW_CLOSE (R130). The cold-start window closes without conflict and the module leads in STARTING. -/
  | startWindowClose (clk : Nat)
  /-- BACKOFF_END (R131). The back-off after a ROUND 0 collision ends and the module resends STARTUP with ROUND 1. -/
  | backoffEnd (clk : Nat)
  /-- NODE_INTEGRATED (R134). A node completes its measurements and 16 clean ticks and becomes INTEGRATED. -/
  | nodeIntegrated (clk : Nat) (node : Nat)
  /-- NODE_LOST (R134). A node delivers no frame for node_loss_ticks ticks and becomes LOST. -/
  | nodeLost (clk : Nat) (node : Nat)
  /-- DRIFT_WARN (R114). A node reaches 16 outer cycles in a row and DRIFT_WARN is set. -/
  | driftWarn (clk : Nat) (node : Nat)
  /-- SAFETY_SINGLE (R324). A SAFETY slot's single-copy run exceeds its limit and the slot is treated as missed. -/
  | safetySingle (clk : Nat) (slot : Nat)
  /-- LINK_SYNC_LOSS (R145). A Tahixa port loses 8b/10b synchronisation and counts a link-down. -/
  | linkSyncLoss (clk : Nat) (port : Nat)
  /-- OPERAND_POST (R260). An operand is written to the matching store and may make an instance ready. -/
  | operandPost (clk : Nat)
  /-- TIMED_DUE (R264). At a 1 us boundary the scheduler releases TIMED instances that fall due. -/
  | timedDue (clk : Nat)
  /-- TASK_DISPATCH (R262). A free control core takes the highest-ranked ready instance and starts it. -/
  | taskDispatch (clk : Nat) (core : Nat)
  /-- LOOP_EXECUTION (R243). A loop instance executes: computes and places its output, then updates its observer. -/
  | loopExecution (clk : Nat) (core : Nat)
  /-- AXIS_FAULT (R250). A loop enters an axis fault on aged feedback, aged outer result, drive fault or non-finite value. -/
  | axisFault (clk : Nat) (loop : Nat)
  /-- MATCH_EXPIRED (R266). A matching store entry older than 16 ticks is freed at a tick start with a contained error word. -/
  | matchExpired (clk : Nat)
  /-- BACKPRESSURE_RELEASE (R265). A matching store entry frees and a stalled producer or held slot post proceeds. -/
  | backpressureRelease (clk : Nat)
  /-- KERNEL_RUN (R282). A DSP kernel runs: start, tap latch, execution and publication of outputs. -/
  | kernelRun (clk : Nat) (slot : Nat) (retries : Nat)
  /-- KERNEL_WINDOW_CLOSE (R284). A kernel still executing at the close of its window is aborted without publication. -/
  | kernelWindowClose (clk : Nat) (slot : Nat)
  /-- PROCESSOR_EVALUATION (R309). Every 250 us the processor channel samples inputs, updates stop states and sets its high-side switches. -/
  | processorEvaluation (clk : Nat) (a : Nat) (b : Nat) (sreset : Bool) (sw1 : Nat) (readback : Nat) (currents : List Nat)
  /-- CHAMOIS_EVALUATION (R309). Every 10,000 oscillator cycles Chamois samples inputs, updates stop states and sets its low-side switches. -/
  | chamoisEvaluation (clk : Nat) (a : Nat) (b : Nat) (sreset : Bool) (sw1 : Nat) (readback : Nat) (currents : List Nat)
  /-- SAFETY_STATUS_RX (R310). A channel receives the other channel's status message. -/
  | safetyStatusRx (clk : Nat) (toChamois : Bool)
  /-- CHANNEL_SILENT (R310). No valid status message for two evaluations: the detecting channel opens its switches. -/
  | channelSilent (clk : Nat) (byChamois : Bool)
  /-- CROSS_MISMATCH (R310). A value differs between channels for more than 8 evaluations and Chamois demands a stop. -/
  | crossMismatch (clk : Nat) (byChamois : Bool) (value : Nat)
  /-- OSCILLATOR_MISMATCH (R310). A channel counts the other's messages outside 3,990 to 4,010 in one second and Chamois demands a stop. -/
  | oscillatorMismatch (clk : Nat) (byChamois : Bool)
  /-- DISCREPANCY (R320). A safe input disagrees for N + 1 consecutive samples, latches DISCREPANCY and leads to FAULT. -/
  | discrepancy (clk : Nat) (chamois : Bool) (input : Nat)
  /-- SS1_TIMEOUT (R314). An SS1 ramp reaches t_d + T_st and the arm goes to STO. -/
  | ss1Timeout (clk : Nat) (chamois : Bool) (arm : Nat)
  /-- NET_INPUT_STALE (R323). A network safe input's age exceeds its limit and it goes OFF and STALE. -/
  | netInputStale (clk : Nat) (chamois : Bool) (entry : Nat)
  /-- DARK_PULSE_TEST (R326). A channel opens its switch of an energised output for the dark test and diagnoses STUCK if the readback stays high. -/
  | darkPulseTest (clk : Nat) (low : Bool) (output : Nat) (high : Bool)
  /-- OUTPUT_DIAGNOSIS (R327). An output overload, open wire or over-temperature is diagnosed, both switches open and FAULT is entered. -/
  | outputDiagnosis (clk : Nat) (low : Bool) (output : Nat) (kind : Nat) (present_ : Bool)
  /-- OUTPUT_CURRENT_LIMIT (R325). A safe output's current exceeds 0.7 A and its switches are opened by the current limit. -/
  | outputCurrentLimit (clk : Nat) (output : Nat)
  /-- SRESET_EDGE (R328). A valid safety reset edge completes, releasing latches and opening the FAULT exit window. -/
  | sresetEdge (clk : Nat)
  /-- RESET_EDGE_WINDOW_EXPIRY (R44). The 10 s window after a valid reset edge closes without SET_MODE CONFIGURE. -/
  | resetEdgeWindowExpiry (clk : Nat)
  /-- SW1_CHANGE (R333). A seal switch changes stably and raises an event log entry. -/
  | sw1Change (clk : Nat)
  /-- CONTAINED_ERROR_RATE (R54). A block reaches 16 contained errors within one second and is treated as failed. -/
  | containedErrorRate (clk : Nat) (region : Nat) (block : Nat)
  /-- SUPERVISOR_WATCHDOG_EXPIRY (R54). The supervisor watchdog expires, leading to FAULT and BOOT. -/
  | supervisorWatchdogExpiry (clk : Nat)
  /-- DDR_UNCORRECTABLE_ERROR (R54). An uncorrectable DDR error leads to FAULT or marks a buffer region lost. -/
  | ddrUncorrectableError (clk : Nat) (area : Nat) (first : Nat) (count : Nat)
  /-- INPUT_FILTER_STEP (R337). Every 10 us each standard input's counter filter is updated and its state may change. -/
  | inputFilterStep (clk : Nat) (raw : Nat)
  /-- INPUT_GROUP_FAULT (R338). An input group's 24V_IO supply falls below 18 V and the group fault is reported. -/
  | inputGroupFault (clk : Nat) (group : Nat) (mv : Nat)
  /-- OUTPUT_GROUP_FAULT (R340). An output group limits current, overheats or loses supply and the group fault is reported. -/
  | outputGroupFault (clk : Nat) (group : Nat) (mv : Nat)
  /-- ENCODER_EDGE (R343). A stable change of A or B updates the raw count and reported position, or is a QUAD_ERROR. -/
  | encoderEdge (clk : Nat) (encoder : Nat) (a : Bool) (b : Bool)
  /-- ENCODER_INDEX (R345). An index edge is recorded and may reset the position. -/
  | encoderIndex (clk : Nat) (encoder : Nat) (z : Bool)
  /-- LINE_FAULT (R343). An encoder differential input falls below 200 mV and counting stops while it lasts. -/
  | lineFault (clk : Nat) (encoder : Nat)
  /-- ENCODER_STANDSTILL (R346). No position change for stand_ms: the speed is forced to 0 and STANDSTILL set. -/
  | encoderStandstill (clk : Nat) (encoder : Nat)
  /-- TICK_LATCH (R350). An ABZ interface takes its tick latch of position, speed and time. -/
  | tickLatch (clk : Nat) (encoder : Nat)
  /-- ENCODER_TRANSACTION_START (R347). An SSI or LINK interface starts its per-tick transaction. -/
  | encoderTransactionStart (clk : Nat) (encoder : Nat)
  /-- ENCODER_WORD_RECEIVED (R348). An SSI or LINK transaction ends, its word is validated and unwrapped, and the tick latch is taken. -/
  | encoderWordReceived (clk : Nat) (encoder : Nat) (reply : EncoderReply)
  /-- ENCODER_TIMEOUT (R349). An SSI or LINK response does not arrive within timeout_us and counts as TIMEOUT. -/
  | encoderTimeout (clk : Nat) (encoder : Nat)
  /-- EMULATED_EDGE (R352). A queued position change is output as one quadrature edge on the repeater. -/
  | emulatedEdge (clk : Nat) (encoder : Nat)
  /-- CONVEYOR_STALE (R228). A conveyor's age exceeds its limit and its channel holds position with velocity 0. -/
  | conveyorStale (clk : Nat) (conveyor : Nat)
  /-- JOG_TIMEOUT (R230). A jog channel receives no JOG for jog_timeout_ms and starts its stop profile. -/
  | jogTimeout (clk : Nat) (channel : Nat)
  /-- CURRENT_SAMPLE (R357). A 500 ns current-sense sample drives the chopper of each bridge phase. -/
  | currentSample (clk : Nat) (axis : Nat) (a : Nat) (b : Nat)
  /-- REFERENCE_INSTANT (R356). At a 2 us reference instant the chopper takes the newest loop output as I_ref. -/
  | referenceInstant (clk : Nat) (axis : Nat)
  /-- AUX_FEEDBACK_POST (R362). An auxiliary axis's feedback operand is formed and posted. -/
  | auxFeedbackPost (clk : Nat) (axis : Nat)
  /-- CHOPPER_FALLBACK (R359). After fallback_ticks ticks the axis enters or leaves the hysteresis chopper. -/
  | chopperFallback (clk : Nat) (axis : Nat)
  /-- STALL (R361). After stall_ticks ticks at maximum current and large load angle STALL is set, possibly as a drive fault. -/
  | stall (clk : Nat) (axis : Nat)
  /-- PTP_SYNC_RX (R92). A valid Sync gives an offset measurement and the servo computes a new rate. -/
  | ptpSyncRx (clk : Nat) (m : PtpMessage)
  /-- PTP_MESSAGE_RX (R94). Another PTP message is received and handled by the domain's ordinary clock and BMCA. -/
  | ptpMessageRx (clk : Nat) (m : PtpMessage)
  /-- SOURCE_LOCKED (R93). A source has 16 consecutive measurements within lock_ns and becomes LOCKED. -/
  | sourceLocked (clk : Nat) (source : Nat)
  /-- SYNC_TIMEOUT (R96). A domain's Sync window closes without a valid Sync and the domain is LOST. -/
  | syncTimeout (clk : Nat) (domain : Nat)
  /-- ANNOUNCE_RECEIPT_TIMEOUT (R96). announceReceiptTimeout expires and the domain is LOST. -/
  | announceReceiptTimeout (clk : Nat) (domain : Nat)
  /-- REVERT_TIMER (R96). A re-locked domain has stayed LOCKED for revert_s and becomes the followed domain. -/
  | revertTimer (clk : Nat)
  /-- SLEW_END (R95). slew_rem reaches 0 and the slew term is removed. -/
  | slewEnd (clk : Nat)
  /-- PPS_IN_EDGE (R102). A PPS_IN rising edge is timestamped and used or rejected as an EXTREF measurement. -/
  | ppsInEdge (clk : Nat) (capture : Nat)
  /-- PPS_TIMEOUT (R102). No accepted PPS_IN edge for 1.5 s and the EXTREF source is LOST. -/
  | ppsTimeout (clk : Nat)
  /-- PPS_OUT_EDGE (R102). PPS_OUT rises at each whole second of herd time plus its delay. -/
  | ppsOutEdge (clk : Nat)
  /-- PAIR_TIME_EXCHANGE (R91). Once per ms a delay request-response over the pair port gives a PAIR offset measurement. -/
  | pairTimeExchange (clk : Nat) (send : Nat) (receive : Nat) (reply : Nat) (arrive : Nat)
  /-- AON_STORE (R90). Every 1 ms herd time and the servo integral are stored in AON. -/
  | aonStore (clk : Nat)
  /-- POWER_ON (R432). The 12 V input rises into range and the module starts at power-on. -/
  | powerOn (clk : Nat) (mv : Nat) (removed : Bool)
  /-- BROWN_OUT (R432). The 12 V input falls below 10.2 V for 50 us and every regulator except Chamois's shuts down. -/
  | brownOut (clk : Nat) (mv : Nat)
  /-- LOW_INPUT (R432). The 12 V input stays between 10.2 V and 10.8 V for 10 ms and a contained error word is written. -/
  | lowInput (clk : Nat) (mv : Nat)
  /-- HIGH_INPUT (R432). The 12 V input stays above 13.6 V for 1 ms, a regulator out of range. -/
  | highInput (clk : Nat) (mv : Nat)
  /-- MOD_RESET_N (R434). MOD_RESET_N held low for 10 us resets the core die and starts BOOT. -/
  | modResetN (clk : Nat)
  /-- COMMAND_RESET_BEGIN (R38). The reset scheduled by RESET or a BOOT-bound SET_MODE CONFIGURE begins and closes every session. -/
  | commandResetBegin (clk : Nat)
  /-- PERST_N (R434). PERST_N low resets the PCIe endpoint and closes PCIe-bound sessions. -/
  | perstN (clk : Nat) (low : Bool)
  /-- PCIE_LINK_DOWN (R65). PCIe link down, hot reset or function-level reset moves PCIe sessions to CLOSING. -/
  | pcieLinkDown (clk : Nat) (functionReset : Bool)
  /-- DIE_TEMPERATURE (R443). The die temperature crosses 110 or 125 C, driving THERM_N or FAULT. -/
  | dieTemperature (clk : Nat) (tenths : Int)
  /-- CRYSTAL_STABLE (R382). The crystal amplitude stays above threshold for 1 ms and the reference switches to it. -/
  | crystalStable (clk : Nat)
  /-- CLOCK_MONITOR_WINDOW (R386). A 100 us counting window of a clock source ends and its count is judged. -/
  | clockMonitorWindow (clk : Nat) (source : Nat) (count : Nat)
  /-- CLOCK_LOSS (R387). A clock source is lost: the PLLs hold over, the reference switches to the RC, and HOLD or FAULT follows. -/
  | clockLoss (clk : Nat) (source : Nat)
  /-- PLL_UNLOCK (R387). A PLL reports loss of lock for more than 1 us, leading to FAULT. -/
  | pllUnlock (clk : Nat) (pll : Nat)
  /-- CLOCK_SOURCE_RECOVERED (R386). A lost source runs for 1 s without a failed window and its OK bit is set again. -/
  | clockSourceRecovered (clk : Nat) (source : Nat)
  /-- RC_TRIM (R383). Every 1 ms the RC oscillator is trimmed against the good reference. -/
  | rcTrim (clk : Nat) (ppm : Int)
  /-- MUX_SWITCH (R389). A clock multiplexer completes a glitch-free switch to the new clock. -/
  | muxSwitch (clk : Nat)
  /-- FORCED_SWITCH (R389). 16 new-clock edges pass without an old-clock edge and the forced path completes the switch. -/
  | forcedSwitch (clk : Nat)
  /-- PLL_RELOCK (R387). A PLL in holdover relocks to the new reference. -/
  | pllRelock (clk : Nat) (pll : Nat)
  /-- DOMAIN_POWER_GOOD (R394). A power domain reaches power-good and its clocks, isolation and resets are released. -/
  | domainPowerGood (clk : Nat) (domain : Nat)
  /-- DOMAIN_POWER_GOOD_TIMEOUT (R394). A domain does not reach power-good within its on time, a regulator fault or failed start step. -/
  | domainPowerGoodTimeout (clk : Nat) (domain : Nat)
  /-- DRAIN_TIMEOUT (R394). Fabric accesses of a domain being switched off are not drained in 10 us and are cut. -/
  | drainTimeout (clk : Nat) (domain : Nat)
  /-- DOMAIN_OFF (R394). A power domain completes its switch-off and loses its state. -/
  | domainOff (clk : Nat) (domain : Nat)
  /-- START_ATTEMPT (R45). A start attempt runs steps B01 to B14 in order, keeping the failed-start record. -/
  | startAttempt (clk : Nat) (results : List StepResult)
  /-- START_STEP_TIMEOUT (R45). A start step overruns its budget and fails. -/
  | startStepTimeout (clk : Nat)
  /-- CONFIG_CHECK_DONE (R52). The configuration check ends, with the image refused and the report written, or passed. -/
  | configCheckDone (clk : Nat)
  /-- NONCE_EXPIRY (R65). A challenge nonce expires after 5 s and the session returns to OPEN. -/
  | nonceExpiry (clk : Nat) (mailbox : Nat)
  /-- LOCKOUT_END (R68). A CHALLENGE lockout ends after 10 s. -/
  | lockoutEnd (clk : Nat) (mailbox : Nat)
  /-- UDP_IDLE_TIMEOUT (R69). A UDP session receives no valid datagram for udp_idle_ms and closes. -/
  | udpIdleTimeout (clk : Nat) (mailbox : Nat)
  /-- SESSION_DRAINED (R65). The last command of a CLOSING session completes and the mailbox becomes CLOSED. -/
  | sessionDrained (clk : Nat) (mailbox : Nat)
  /-- ACQ_SAMPLE (R364). An acquisition row is sampled, judged for the trigger and stored or discarded as a gap. -/
  | acqSample (clk : Nat) (room : Bool)
  /-- INDEX_TREE_READY (R426). The identity bottom-tree computation completes and the index store leaves PREPARING. -/
  | indexTreeReady (clk : Nat)
  /-- TOKEN_RENEWAL (R401). The holder renews the control token every 500 us and sends it to the other module. -/
  | tokenRenewal (clk : Nat)
  /-- TOKEN_MESSAGE_RX (R403). A module receives a token renewal over the pair port or a ring. -/
  | tokenMessageRx (clk : Nat) (token : Token)
  /-- TOKEN_LEASE_EXPIRY (R402). The holder's token lease expires unrenewed and it stops sending. -/
  | tokenLeaseExpiry (clk : Nat)
  /-- TAKEOVER (R404). A STANDBY module takes the token at a tick start after the lease ended and drives the cell. -/
  | takeover (clk : Nat)
  /-- MIRROR_SET_RX (R406). The standby receives a mirror set from the holder over the pair port. -/
  | mirrorSetRx (clk : Nat) (set : MirrorSet)
  /-- MIRROR_AGE_LIMIT (R408). The standby's mirror age exceeds its limit and it becomes NOT_READY. -/
  | mirrorAgeLimit (clk : Nat)
  /-- PLAN_ACK_RX (R407). The holder receives the standby's acknowledgement of a plan's records. -/
  | planAckRx (clk : Nat) (seq : Nat)
  /-- PAIR_SAFETY_STATUS_RX (R409). A processor channel receives the peer module's per-arm stop states. -/
  | pairSafetyStatusRx (clk : Nat) (valid : Bool) (states : List Nat) (standby : Bool)
  /-- PEER_SILENT (R409). No valid peer status for 8 evaluations and the channel governs by its own state. -/
  | peerSilent (clk : Nat)
  /-- PAIR_REVERT_TIMER (R410). The primary has been STANDBY for revert_s and requests the token. -/
  | pairRevertTimer (clk : Nat)
  /-- HANDOVER_REQUEST_RX (R410). The holder receives a token request and answers with hand-over instant H. -/
  | handoverRequestRx (clk : Nat) (kind : Nat) (instant : Nat)
  /-- HANDOVER_ACK_TIMEOUT (R410). No acknowledgement 1 ms before H and the holder withdraws the hand-over. -/
  | handoverAckTimeout (clk : Nat)
  /-- HANDOVER_AT (R410). At H the requester takes the token and the old holder becomes STANDBY. -/
  | handoverAt (clk : Nat)
  /-- ERROR_DETECTED (R17). A hardware part detects an error of its own (ECC error, failed beat, failed block operation, fabric or regulator error) and the lowest level that can contain it corrects, retries or isolates and writes one error word. -/
  | errorDetected (clk : Nat) (kind : ErrorKind) (region : Nat) (block : Nat) (element : Nat)
  /-- PTP_TRANSMIT_INTERVAL (R94). A PTP domain's message interval runs out and the module sends its Sync and Follow_Up, Announce, Delay_Req or Pdelay_Req as the domain's role requires. -/
  | ptpTransmitInterval (clk : Nat) (domain : Nat) (kind : Nat)
  /-- LINK_SYNCHRONISED (R145). A Tahixa or pair port gains 8b/10b synchronisation and its bit in tahixa.port_link_up is set. -/
  | linkSynchronised (clk : Nat) (port : Nat)
  /-- GROUP_FAULT_CLEARED (R338). An input or output group's 24V_IO returns to 18 V or above, or its outputs stop limiting current or restart after cooling, and the group fault bit clears. -/
  | groupFaultCleared (clk : Nat) (output : Bool) (group : Nat) (mv : Nat)
  /-- VIN_BACK_IN_RANGE (R460). The 12 V input returns within its range after a high input, the regulator cause ends and MOD_PG goes high again. -/
  | vinBackInRange (clk : Nat) (supply : Nat) (mv : Nat)
  /-- ENCODER_LINE_RESTORED (R343). An encoder input's differential level returns to 200 mV or more, the LINE_FAULT ends and counting resumes, with the next absolute word taken as a fresh start. -/
  | encoderLineRestored (clk : Nat) (encoder : Nat) (a : Bool) (b : Bool) (z : Bool)
  /-- PHASE_ACCUMULATOR_CARRY (R236). A carry or borrow of an auxiliary axis's phase accumulator gives one step: a STEP pulse after its DIR setup, or a microstep that changes the bridge phase targets. -/
  | phaseAccumulatorCarry (clk : Nat) (axis : Nat)
  /-- VECTOR_SPACING_END (R64). The 1 us spacing on an MSI-X vector ends and the message held back for completions or interrupts posted in that interval is sent. -/
  | vectorSpacingEnd (clk : Nat) (vector : Nat)
  /-- DOMAIN_FREQUENCY_MEASUREMENT (R398). Every 100 ms the domain clocks are measured against the RC and clk.domain_khz is refreshed. -/
  | domainFrequencyMeasurement (clk : Nat) (khz : List Nat)
  deriving DecidableEq, Repr

end Sys2Proof
end

