-- ==== Sys2Proof/Machine/Bytes.lean ====
section
/-! DEFINITION. Byte orders, bit fields, sign extension, tables with a default, and other small helpers (R4, R5, R9, R10). -/

namespace Sys2Proof.Machine

/-- Little-endian value of bytes (R5). -/
def leNat : Bytes → Nat
  | [] => 0
  | b :: bs => b.toNat + 256 * leNat bs

/-- The n bytes of a value, little-endian (R5). -/
def leBytes : Nat → Nat → Bytes
  | 0, _ => []
  | n + 1, v => BitVec.ofNat 8 v :: leBytes n (v / 256)

/-- Big-endian value of bytes (R5). -/
def beNat (bs : Bytes) : Nat := leNat bs.reverse

/-- The n bytes of a value, big-endian (R5). -/
def beBytes (n v : Nat) : Bytes := (leBytes n v).reverse

/-- n zero bytes. -/
def zeros (n : Nat) : Bytes := List.replicate n 0

/-- `n` bytes of `bs` from offset `o`; past the end they read 0. -/
def slice (bs : Bytes) (o n : Nat) : Bytes :=
  let t := (bs.drop o).take n
  t ++ zeros (n - t.length)

/-- A little-endian field of a layout: offset and bytes. -/
def le (bs : Bytes) (o n : Nat) : Nat := leNat (slice bs o n)

/-- A big-endian field of a layout: offset and bytes. -/
def be (bs : Bytes) (o n : Nat) : Nat := beNat (slice bs o n)

/-- Bits [hi:lo] of a value (R4). -/
def bits (v hi lo : Nat) : Nat := (v / 2 ^ lo) % 2 ^ (hi + 1 - lo)

/-- Bit n of a value. -/
def bit (v n : Nat) : Bool := (v / 2 ^ n) % 2 == 1

/-- 1 for true. -/
def b2n (b : Bool) : Nat := if b then 1 else 0

/-- A value read as signed two's complement in `w` bits. -/
def sext (w v : Nat) : Int :=
  let u := v % 2 ^ w
  if 2 * u < 2 ^ w then (u : Int) else (u : Int) - (2 ^ w : Nat)

/-- The `w` bits of a signed value. -/
def wrap (w : Nat) (v : Int) : Nat := (v % (2 ^ w : Nat)).toNat

/-- A value kept within bounds. -/
def clampInt (lo hi v : Int) : Int := if v < lo then lo else if hi < v then hi else v

/-- Saturation at the top of `w` bits. -/
def satNat (w v : Nat) : Nat := min v (2 ^ w - 1)

/-- Signed difference a − b of two w-bit values (R10). -/
def sdiff (w a b : Nat) : Int := sext w (wrap w ((a : Int) - (b : Int)))

/-- ceil(a ÷ b) of natural numbers. -/
def ceilDiv (a b : Nat) : Nat := (a + b - 1) / b

/-- Nearest multiple-free rounding of n ÷ d, ties to the even quotient. -/
def roundDiv (n : Int) (d : Nat) : Int :=
  let q := n / (d : Int)
  let r := n % (d : Int)
  if 2 * r < d then q else if (d : Int) < 2 * r then q + 1 else if q % 2 = 0 then q else q + 1

/-- Nearest rounding of n ÷ d, halves away from minus infinity upwards. -/
def roundHalfUp (n : Int) (d : Nat) : Int := (2 * n + (d : Int)) / (2 * (d : Int))

/-- The entry of a table kept by rising key, or the default. -/
def tget {α : Type} (d : α) (t : List (Nat × α)) (k : Nat) : α :=
  match t with
  | [] => d
  | (j, v) :: r => if j = k then v else if k < j then d else tget d r k

/-- Writes one entry of a table kept by rising key. -/
def tput {α : Type} (t : List (Nat × α)) (k : Nat) (v : α) : List (Nat × α) :=
  match t with
  | [] => [(k, v)]
  | (j, w) :: r => if j = k then (k, v) :: r else if k < j then (k, v) :: (j, w) :: r else (j, w) :: tput r k v

/-- Removes one entry of a table kept by rising key. -/
def tdel {α : Type} (t : List (Nat × α)) (k : Nat) : List (Nat × α) := t.filter (fun e => e.1 != k)

/-- Writes one entry of a table kept by rising key, an entry equal to the default being left out: equal tables are equal data. -/
def tset {α : Type} [DecidableEq α] (d : α) (t : List (Nat × α)) (k : Nat) (v : α) : List (Nat × α) :=
  if v = d then tdel t k else tput t k v

/-- Element i of a list, or the default. -/
def nth {α : Type} (d : α) (l : List α) (i : Nat) : α := l.getD i d

/-- Element i of a list changed by a function. -/
def upd {α : Type} (l : List α) (i : Nat) (f : α → α) : List α :=
  match l, i with
  | [], _ => []
  | a :: r, 0 => f a :: r
  | a :: r, i + 1 => a :: upd r i f

/-- Sum of natural numbers. -/
def sumNat (l : List Nat) : Nat := l.foldl (· + ·) 0

/-- Sum of integers. -/
def sumInt (l : List Int) : Int := l.foldl (· + ·) 0

/-- Insertion into a list kept in order. -/
def insertBy {α : Type} (lt : α → α → Bool) (a : α) : List α → List α
  | [] => [a]
  | b :: r => if lt a b then a :: b :: r else b :: insertBy lt a r

/-- Stable sort by a strict order. -/
def sortBy {α : Type} (lt : α → α → Bool) (l : List α) : List α := l.foldl (fun acc a => insertBy lt a acc) []

/-- Pairs of a list with its indices. -/
def indexed {α : Type} (l : List α) : List (Nat × α) := (List.range l.length).zip l

/-- Largest of a list, 0 when empty. -/
def maxNat (l : List Nat) : Nat := l.foldl max 0

/-- Joins bytes. -/
def joinBytes (l : List Bytes) : Bytes := l.foldr (· ++ ·) []

/-- Bits of a list of flags, element 0 the least significant. -/
def packBits : List Bool → Nat
  | [] => 0
  | b :: r => b2n b + 2 * packBits r

/-- Data written in chunks over a buffer of `n` zero bytes, the chunk at the front written last. -/
def overlay (n : Nat) (chunks : List (Nat × Bytes)) : Bytes :=
  chunks.foldr (fun c acc => acc.take c.1 ++ c.2 ++ acc.drop (c.1 + c.2.length)) (zeros n)

/-- Whether the chunks cover every byte of [0, n). -/
def covers (n : Nat) (chunks : List (Nat × Bytes)) : Bool :=
  let sorted := sortBy (fun a b => decide (a.1 < b.1)) chunks
  n ≤ sorted.foldl (fun reach c => if c.1 ≤ reach then max reach (c.1 + c.2.length) else reach) 0

end Sys2Proof.Machine
end

