-- ==== Sys2Proof/Machine/Crypto.lean ====
section
/-! DEFINITION. SHA-256 and HMAC-SHA-256 (R67, R69, R83, R422), CRCs (R48, R124, R280), and the verification of HSS signatures with
LMS and LM-OTS over SHA-256 (R413), as the standards the spec names define them. -/

namespace Sys2Proof.Machine

/-! ### SHA-256 -/

/-- The 32-bit words of a number, the highest first. -/
def wordsOf (n v : Nat) : List (BitVec 32) := (List.range n).map (fun i => BitVec.ofNat 32 (v >>> (32 * (n - 1 - i))))

/-- The first 32 bits of the fractional parts of the cube roots of the first 64 primes, one after the other (FIPS 180-4). -/
def cubeRootBits : Nat :=
  0x428a2f9871374491b5c0fbcfe9b5dba53956c25b59f111f1923f82a4ab1c5ed5d807aa9812835b01243185be550c7dc372be5d7480deb1fe9bdc06a7c19bf174e49b69c1efbe47860fc19dc6240ca1cc2de92c6f4a7484aa5cb0a9dc76f988da983e5152a831c66db00327c8bf597fc7c6e00bf3d5a7914706ca63511429296727b70a852e1b21384d2c6dfc53380d13650a7354766a0abb81c2c92e92722c85a2bfe8a1a81a664bc24b8b70c76c51a3d192e819d6990624f40e3585106aa07019a4c1161e376c082748774c34b0bcb5391c0cb34ed8aa4a5b9cca4f682e6ff3748f82ee78a5636f84c878148cc7020890befffaa4506cebbef9a3f7c67178f2

/-- The same of the square roots of the first 8 primes. -/
def squareRootBits : Nat := 0x6a09e667bb67ae853c6ef372a54ff53a510e527f9b05688c1f83d9ab5be0cd19

/-- What a round takes in besides its state. -/
def roundConstants : List (BitVec 32) := wordsOf 64 cubeRootBits

/-- A message schedule word: a mixing of the words 2, 7, 15 and 16 places before it. -/
def scheduleWord (recent : List (BitVec 32)) : BitVec 32 :=
  let turned := fun (at_ a b c : Nat) =>
    let x := nth 0 recent (at_ - 1)
    x.rotateRight a ^^^ x.rotateRight b ^^^ (x >>> c)
  turned 2 17 19 10 + nth 0 recent 6 + turned 15 7 18 3 + nth 0 recent 15

/-- The schedule of a block, the newest word first: its sixteen big-endian words, and 48 more. -/
def schedule (blk : Bytes) : List (BitVec 32) :=
  (List.range 48).foldl (fun w _ => scheduleWord w :: w) ((List.range 16).reverse.map (fun i => BitVec.ofNat 32 (be blk (4 * i) 4)))

/-- The eight words a to h of a hash, as two halves of four: each round puts one word into each half. -/
structure HashHalves where
  left : List (BitVec 32)
  right : List (BitVec 32)

/-- One round: `kw` is the sum of its constant and its schedule word. -/
def hashRound (x : HashHalves) (kw : BitVec 32) : HashHalves :=
  let mix := fun (w : BitVec 32) (r : List Nat) => r.foldl (fun m k => m ^^^ w.rotateRight k) 0
  let at_ := fun (l : List (BitVec 32)) i => nth 0 l i
  let e := at_ x.right 0
  let a := at_ x.left 0
  let choose := at_ x.right 2 ^^^ (e &&& (at_ x.right 1 ^^^ at_ x.right 2))
  let most := (a &&& (at_ x.left 1 ||| at_ x.left 2)) ||| (at_ x.left 1 &&& at_ x.left 2)
  let t := at_ x.right 3 + mix e [6, 11, 25] + choose + kw
  { left := (t + mix a [2, 13, 22] + most) :: x.left.take 3, right := (at_ x.left 3 + t) :: x.right.take 3 }

/-- A hash after one more block. -/
def hashBlock (h : List (BitVec 32)) (blk : Bytes) : List (BitVec 32) :=
  let r := (List.zipWith (· + ·) roundConstants (schedule blk).reverse).foldl hashRound { left := h.take 4, right := h.drop 4 }
  List.zipWith (· + ·) h (r.left ++ r.right)

/-- SHA-256: the message, a 1 bit, zeros, and its length in bits fill whole blocks of 64 bytes. -/
def sha256 (m : Bytes) : Bytes :=
  let fill := (128 - (m.length + 9) % 64) % 64
  let padded := m ++ 0x80 :: zeros fill ++ beBytes 8 (m.length * 8)
  let h := (List.range (padded.length / 64)).foldl (fun h i => hashBlock h (slice padded (64 * i) 64)) (wordsOf 8 squareRootBits)
  joinBytes (h.map (fun w => beBytes 4 w.toNat))

/-- HMAC-SHA-256. -/
def hmac256 (key msg : Bytes) : Bytes :=
  let k0 := if 64 < key.length then sha256 key else key
  let k := k0 ++ zeros (64 - k0.length)
  sha256 (k.map (· ^^^ 0x5c) ++ sha256 (k.map (· ^^^ 0x36) ++ msg))

/-! ### CRCs -/

/-- One bit-reflected byte step of a CRC with a reflected polynomial. -/
def crcByteReflected (poly : Nat) (crc : Nat) (b : Byte) : Nat :=
  (List.range 8).foldl (fun c _ => if c % 2 = 1 then (c / 2) ^^^ poly else c / 2) (crc ^^^ b.toNat)

/-- CRC-32 with the IEEE 802.3 polynomial (Table 20-2). -/
def crc32 (bs : Bytes) : Nat := (bs.foldl (crcByteReflected 0xEDB88320) 0xFFFFFFFF) ^^^ 0xFFFFFFFF

/-- One byte of an MSB-first CRC of `w` bits. -/
def crcByteMsb (w poly crc : Nat) (b : Byte) : Nat :=
  (List.range 8).foldl
    (fun c _ => if bit c (w - 1) then ((c * 2) % 2 ^ w) ^^^ poly else (c * 2) % 2 ^ w)
    (crc ^^^ (b.toNat * 2 ^ (w - 8)))

/-- MSB-first CRC of `w` bits (8 or more) from an initial value. -/
def crcMsb (w poly init : Nat) (bs : Bytes) : Nat := bs.foldl (crcByteMsb w poly) init

/-- One bit of an MSB-first CRC of any width. -/
def crcBitMsb (w poly crc : Nat) (b : Bool) : Nat :=
  let top := bit crc (w - 1) != b
  let c := (crc * 2) % 2 ^ w
  if top then c ^^^ poly else c

/-- MSB-first CRC over bits. -/
def crcBits (w poly init : Nat) (bs : List Bool) : Nat := bs.foldl (crcBitMsb w poly) init

/-! ### LM-OTS, LMS and HSS (RFC 8554, NIST SP 800-208) -/

/-- w, p and ls of an LM-OTS typecode with n = 32. -/
def otsParams : Nat → Option (Nat × Nat × Nat)
  | 1 => some (1, 265, 7)
  | 2 => some (2, 133, 6)
  | 3 => some (4, 67, 4)
  | 4 => some (8, 34, 0)
  | _ => none

/-- Height of an LMS typecode with m = 32. -/
def lmsHeight : Nat → Option Nat
  | 5 => some 5
  | 6 => some 10
  | 7 => some 15
  | 8 => some 20
  | 9 => some 25
  | _ => none

/-- coef(S, i, w) of RFC 8554. -/
def otsCoef (s : Bytes) (i w : Nat) : Nat :=
  ((nth 0 s (i * w / 8)).toNat / 2 ^ (8 - (w * (i % (8 / w)) + w))) % 2 ^ w

/-- One Winternitz chain from step a for n steps. -/
def otsChain (pre : Bytes) (i : Nat) : Nat → Nat → Bytes → Bytes
  | 0, _, t => t
  | n + 1, a, t => otsChain pre i n (a + 1) (sha256 (pre ++ beBytes 2 i ++ [BitVec.ofNat 8 a] ++ t))

/-- Candidate public key of an LM-OTS signature. -/
def otsCandidate (w p ls : Nat) (ident : Bytes) (q : Nat) (sig msg : Bytes) : Bytes :=
  let pre := ident ++ beBytes 4 q
  let h := sha256 (pre ++ [0x81, 0x81] ++ slice sig 4 32 ++ msg)
  let sum := sumNat ((List.range (256 / w)).map (fun i => 2 ^ w - 1 - otsCoef h i w))
  let hs := h ++ beBytes 2 (sum * 2 ^ ls)
  let z := joinBytes ((List.range p).map (fun i =>
    let a := otsCoef hs i w
    otsChain pre i (2 ^ w - 1 - a) a (slice sig (36 + 32 * i) 32)))
  sha256 (pre ++ [0x80, 0x80] ++ z)

/-- Root computed from a leaf and its path. -/
def lmsRoot (ident : Bytes) (path : Bytes) : Nat → Nat → Nat → Bytes → Bytes
  | 0, _, _, t => t
  | n + 1, i, node, t =>
    let sib := slice path (32 * i) 32
    let pair := if node % 2 = 1 then sib ++ t else t ++ sib
    lmsRoot ident path n (i + 1) (node / 2) (sha256 (ident ++ beBytes 4 (node / 2) ++ [0x83, 0x83] ++ pair))

/-- Outcome of a verification. -/
inductive SigResult where
  | ok | parameters | bad
  deriving DecidableEq, Repr

/-- Length of an LMS signature with the given parameters. -/
def lmsSigLen (p h : Nat) : Nat := 12 + 32 * (p + 1 + h)

/-- Parameters of an LMS public key: w, p, ls, h; none for a typecode outside R413. -/
def lmsKeyParams (pub : Bytes) : Option (Nat × Nat × Nat × Nat) :=
  match lmsHeight (be pub 0 4), otsParams (be pub 4 4) with
  | some h, some (w, p, ls) => some (w, p, ls, h)
  | _, _ => none

/-- Verifies one LMS signature of a message under a 56-byte LMS public key. -/
def lmsVerify (pub sig msg : Bytes) : SigResult :=
  match lmsKeyParams pub with
  | none => .parameters
  | some (w, p, ls, h) =>
    let q := be sig 0 4
    if (otsParams (be sig 4 4)).isNone || (lmsHeight (be sig (8 + 32 * (p + 1)) 4)).isNone then .parameters
    else if sig.length ≠ lmsSigLen p h || be sig 4 4 ≠ be pub 4 4 || be sig (8 + 32 * (p + 1)) 4 ≠ be pub 0 4 || 2 ^ h ≤ q then .bad
    else
      let ident := slice pub 8 16
      let kc := otsCandidate w p ls ident q (slice sig 4 (4 + 32 * (p + 1))) msg
      let node := 2 ^ h + q
      let leaf := sha256 (ident ++ beBytes 4 node ++ [0x82, 0x82] ++ kc)
      if lmsRoot ident (sig.drop (12 + 32 * (p + 1))) h 0 node leaf = slice pub 24 32 then .ok else .bad

/-- Walks the signed public keys of an HSS signature. -/
def hssWalk : Nat → Bytes → Bytes → Bytes → SigResult
  | 0, pub, sig, msg => lmsVerify pub sig msg
  | n + 1, pub, sig, msg =>
    match lmsKeyParams pub with
    | none => .parameters
    | some (_, p, _, h) =>
      let l := lmsSigLen p h
      let next := slice sig l 56
      match lmsVerify pub (sig.take l) next with
      | .ok => hssWalk n next (sig.drop (l + 56)) msg
      | r => r

/-- Whether a 60-byte HSS public key names parameter sets of R413. -/
def hssKeyOk (pub : Bytes) : Bool :=
  1 ≤ be pub 0 4 && be pub 0 4 ≤ 3 && (lmsKeyParams (pub.drop 4)).isSome

/-- Verifies an HSS signature of a message under a 60-byte HSS public key (R413). -/
def hssVerify (pub sig msg : Bytes) : SigResult :=
  if !hssKeyOk pub then .parameters
  else if be sig 0 4 + 1 ≠ be pub 0 4 then .bad
  else hssWalk (be sig 0 4) (pub.drop 4) (sig.drop 4) msg

/-- The parts of a signature section (Table 20-1): KEY_SLOT and signature; none when malformed (R414). -/
def sigSection (sec : Bytes) : Option (Nat × Bytes) :=
  let n := le sec 8 4
  if le sec 0 4 = 0x4E474953 && 1 ≤ n && n ≤ 32768 && sec.length = 12 + (n + 3) / 4 * 4 &&
      (sec.drop (12 + n)).all (· == 0) then
    some (le sec 4 1, slice sec 12 n)
  else none

end Sys2Proof.Machine
end

