-- ==== Sys2Proof/Config.lean ====
section
/-! DEFINITION. Values the spec leaves open, as constants without a body, and figures it fixes for the part. A free value is
applied to what it depends on: its operands, or the model's own counter `freeCount`. -/

namespace Sys2Proof.Config

/-- Payload bits of a NaN an operation produces, binary32 (R6 fixes only the format). [DESIGN CHOICE, log 119] -/
opaque nanPayload32 : Nat → Nat

/-- Payload bits of a NaN an operation produces, binary64 (R6 fixes only the format). [DESIGN CHOICE, log 119] -/
opaque nanPayload64 : Nat → Nat

/-- Any other value the spec leaves open, by the count of free values drawn so far. -/
opaque freeValue : Nat → Nat

/-- Bytes the spec leaves open (nonces, R65), by the count of free values drawn so far: the n-th byte. -/
opaque freeByte : Nat → Nat → Byte

/-- A sum of products whose order of rounding the spec does not state, binary64 and binary32. [DESIGN CHOICE, log 55] -/
opaque dot64 : List (F64 × F64) → F64
/-- A sum of products in binary32 whose order the spec leaves open. [DESIGN CHOICE, log 66] -/
opaque dot32 : List (F32 × F32) → F32

/-- Sine, cosine and arc tangent of y, x as the part's arithmetic rounds them; the spec states no rounding. [DESIGN CHOICE, log 73] -/
opaque sin64 : F64 → F64
/-- Cosine in binary64, whose rounding the spec leaves open. [DESIGN CHOICE, log 73] -/
opaque cos64 : F64 → F64
/-- Sine in binary32, whose rounding the spec leaves open. [DESIGN CHOICE, log 73] -/
opaque sin32 : F32 → F32
/-- Cosine in binary32, whose rounding the spec leaves open. [DESIGN CHOICE, log 73] -/
opaque cos32 : F32 → F32
/-- Arc tangent of y ÷ x in binary32, whose rounding the spec leaves open. [DESIGN CHOICE, log 73] -/
opaque atan2f : F32 → F32 → F32

/-- Whether a count that is not whole is rounded up where the spec names no rounding (plan time, check points, displayed rates). [DESIGN
CHOICE, log 62] -/
opaque roundUp : F64 → Bool

/-- Whether a value that lies half-way between two whole numbers is rounded up, where the spec says only "nearest": the lower number.
[DESIGN CHOICE, log 46] -/
opaque tieUp : Int → Bool

/-- clockIdentity of the module's own ordinary clocks, which the spec does not give (R94). [DESIGN CHOICE, log 47] -/
opaque clockIdentity : Nat

/-- Internal egress latency of a port, a factory constant the spec does not give, in 0.25 ns (R99). [DESIGN CHOICE, log 46] -/
opaque egressLatency : Nat → Nat

/-- What a domain in role GRANDMASTER announces besides its priority1 and identity: 0 clockClass, 1 accuracy, 2 variance, 3 priority2 (R94).
[DESIGN CHOICE, log 134] -/
opaque announceField : Nat → Nat

/-- logAnnounceInterval that a domain sends with, 0 to 4; logMinDelayReqInterval from −7 to 4 is counted from the lowest (R94). [DESIGN
CHOICE, log 134] -/
opaque logAnnounce : Nat
/-- The logMinDelayReqInterval that a domain keeps. [DESIGN CHOICE, log 134] -/
opaque logDelayReq : Nat

/-- Cube root in binary64 (R221). [DESIGN CHOICE, log 63] -/
opaque cbrt64 : F64 → F64

/-- An approximate minimum-degree order of a pattern, given as its dimensions and index arrays (R173). [DESIGN CHOICE, log 56] -/
opaque amdOrder : List Nat → List Nat

/-- What a bound puts into Σ at a distance that is not positive, from its dual and the distance (R171 says only that Σ is positive). [DESIGN
CHOICE, log 55] -/
opaque weightAtBound : F64 → F64 → F64

/-- w of an SPMV run on a slot in which no K has been factorised: entry, by the count of free values drawn so far (R179). [DESIGN CHOICE,
log 151] -/
opaque productWithoutK : Nat → Nat → F64

/-- In what order the firmware lays out the columns of x (0), the equality rows (1) and the rows of G (2) of the planner's problem, from the
objects the structure depends on (R154). [DESIGN CHOICE, log 51] -/
opaque plannerOrder : Nat → List Nat → List Nat

/-- Chamois's own arithmetic on a chain (R301), whose rounding is known only within its error bound: the key names the quantity (0 to 2 a
coordinate of a point in q16.16 m, 3 the speed of a point in q16.16 m/s, 4 the angular speed of its link in q16.16 rad/s) plus 8 times the
sphere of the capsule, 8 for the TCP; then the chain's data, the safe joint records, and the capsule with its link. [DESIGN CHOICE, log 72]
-/
opaque chamoisChain : Nat → List Nat → List (Int × Int) → List Nat → Int

/-- Chamois's sine and cosine part of a sensor pose: coordinate (0 x, 1 y) of a person in q16.16 m, from the pose and the sensor's X and Y
in mm (R294, R301). [DESIGN CHOICE, log 72] -/
opaque chamoisPerson : Nat → Bytes → Int → Int → Int

/-- Whether a quantity for which R301 names no direction is rounded up in Chamois's fixed point: its value rounded down, and what it is.
[DESIGN CHOICE, log 72] -/
opaque chamoisUp : Nat → Int → Bool

/-- Direction in which a bridge phase drives, true positive, where the target or the measured current that would give it is 0 (R357).
[DESIGN CHOICE, log 89] -/
opaque driveAtZero : Bool

/-- ROM version that LOADER_INFO reports (Table 20-4). [DESIGN CHOICE, log 117] -/
opaque romVersion : Nat

/-- Whether two zones conflict whose common depth lies so close to 0.1 mm that the rounding of the module's binary64 decides (R195). [DESIGN
CHOICE, log 59] -/
opaque zoneEdge : Nat → Nat → Bool

/-- Which of the 24V_IO terminals `pwr.v24_io_mv` reads: the spec names the object and not the terminal. [DESIGN CHOICE, log 118] -/
opaque ioSupply : Nat

end Sys2Proof.Config
end

