-- ==== Sys2Proof/Machine/Float.lean ====
section
/-! DEFINITION. IEEE 754 binary32 and binary64 arithmetic (R6), computed exactly and rounded once to nearest, ties to even.
Names that begin with `f` work on binary32, with `d` on binary64. -/

namespace Sys2Proof.Machine

/-- A format: exponent bits and stored significand bits. -/
structure Fmt where
  eb : Nat
  mb : Nat

/-- binary32. -/
def fmt32 : Fmt := ⟨8, 23⟩

/-- binary64. -/
def fmt64 : Fmt := ⟨11, 52⟩

/-- A value: NaN, infinity, or (−1)^neg × m × 2^e, with signed zeros. -/
inductive Val where
  | nan
  | inf (neg : Bool)
  | fin (neg : Bool) (m : Nat) (e : Int)
  deriving DecidableEq, Repr

/-- The value of the bits of a format. -/
def unpack (f : Fmt) (b : Nat) : Val :=
  let m := b % 2 ^ f.mb
  let x := (b / 2 ^ f.mb) % 2 ^ f.eb
  let neg := (b / 2 ^ (f.mb + f.eb)) % 2 == 1
  let emin : Int := 2 - 2 ^ (f.eb - 1) - f.mb
  if x = 2 ^ f.eb - 1 then (if m = 0 then .inf neg else .nan)
  else if x = 0 then .fin neg m emin
  else .fin neg (m + 2 ^ f.mb) (emin + x - 1)

/-- Bits of an infinity. -/
def packInf (f : Fmt) (neg : Bool) : Nat := b2n neg * 2 ^ (f.mb + f.eb) + (2 ^ f.eb - 1) * 2 ^ f.mb

/-- Bits of a quiet NaN, its payload below the quiet bit free. [DESIGN CHOICE, log 119] -/
def packNan (f : Fmt) : Nat :=
  (2 ^ f.eb - 1) * 2 ^ f.mb + 2 ^ (f.mb - 1) +
    (if f.mb = 23 then Config.nanPayload32 0 else Config.nanPayload64 0) % 2 ^ (f.mb - 1)

/-- m ÷ 2^k to the nearest integer, ties to even. -/
def rneShift (m k : Nat) : Nat :=
  let q := m / 2 ^ k
  let r := m % 2 ^ k
  if k = 0 then m
  else if r < 2 ^ (k - 1) then q
  else if 2 ^ (k - 1) < r then q + 1
  else if q % 2 = 0 then q else q + 1

/-- (−1)^neg × m × 2^e rounded to a format. -/
def packFin (f : Fmt) (neg : Bool) (m : Nat) (e : Int) : Nat :=
  let sign := b2n neg * 2 ^ (f.mb + f.eb)
  if m = 0 then sign
  else
    let emin : Int := 2 - 2 ^ (f.eb - 1) - f.mb
    let q := max (e + (m.log2 : Int) - f.mb) emin
    let sig := if e < q then rneShift m (q - e).toNat else m * 2 ^ (e - q).toNat
    let q1 := if 2 ^ (f.mb + 1) ≤ sig then q + 1 else q
    let sig1 := if 2 ^ (f.mb + 1) ≤ sig then sig / 2 else sig
    if sig1 < 2 ^ f.mb then sign + sig1
    else
      let x := (q1 - emin + 1).toNat
      if 2 ^ f.eb - 1 ≤ x then packInf f neg
      else sign + x * 2 ^ f.mb + (sig1 - 2 ^ f.mb)

/-- The bits of a value. -/
def pack (f : Fmt) : Val → Nat
  | .nan => packNan f
  | .inf n => packInf f n
  | .fin n m e => packFin f n m e

/-- The signed significand of a finite value brought to exponent `e0`, not above its own. -/
def signedAt (neg : Bool) (m : Nat) (e e0 : Int) : Int :=
  let v : Int := (m * 2 ^ (e - e0).toNat : Nat)
  if neg then -v else v

/-- Exact sum of two values; an exact zero of unlike signs is +0. -/
def vAdd : Val → Val → Val
  | .nan, _ => .nan
  | _, .nan => .nan
  | .inf a, .inf b => if a = b then .inf a else .nan
  | .inf a, _ => .inf a
  | _, .inf b => .inf b
  | .fin n1 m1 e1, .fin n2 m2 e2 =>
    let e0 := min e1 e2
    let v := signedAt n1 m1 e1 e0 + signedAt n2 m2 e2 e0
    if v = 0 then .fin (n1 && n2) 0 e0 else .fin (decide (v < 0)) v.natAbs e0

/-- Exact product of two values. -/
def vMul : Val → Val → Val
  | .nan, _ => .nan
  | _, .nan => .nan
  | .inf a, .inf b => .inf (a != b)
  | .inf a, .fin n m _ => if m = 0 then .nan else .inf (a != n)
  | .fin n m _, .inf b => if m = 0 then .nan else .inf (n != b)
  | .fin n1 m1 e1, .fin n2 m2 e2 => .fin (n1 != n2) (m1 * m2) (e1 + e2)

/-- A value with its sign turned. -/
def vNeg : Val → Val
  | .nan => .nan
  | .inf a => .inf (!a)
  | .fin n m e => .fin (!n) m e

/-- Quotient, exact to far below the last place of either format, the remainder kept as a sticky bit. -/
def vDiv : Val → Val → Val
  | .nan, _ => .nan
  | _, .nan => .nan
  | .inf _, .inf _ => .nan
  | .inf a, .fin n _ _ => .inf (a != n)
  | .fin n _ _, .inf b => .fin (n != b) 0 0
  | .fin n1 m1 e1, .fin n2 m2 e2 =>
    if m2 = 0 then (if m1 = 0 then .nan else .inf (n1 != n2))
    else if m1 = 0 then .fin (n1 != n2) 0 0
    else
      let k := m2.log2 + 70
      let num := m1 * 2 ^ k
      let q := num / m2
      let r := num % m2
      .fin (n1 != n2) (2 * q + (if r = 0 then 0 else 1)) (e1 - e2 - k - 1)

/-- Integer square root: bits from the highest, by fuel. -/
def isqrtGo : Nat → Nat → Nat → Nat
  | 0, _, r => r
  | k + 1, n, r =>
    let c := r + 2 ^ k
    if c * c ≤ n then isqrtGo k n c else isqrtGo k n r

/-- Largest r with r² ≤ n. -/
def isqrt (n : Nat) : Nat := isqrtGo (n.log2 / 2 + 1) n 0

/-- Square root, with a sticky bit. -/
def vSqrt : Val → Val
  | .nan => .nan
  | .inf a => if a then .nan else .inf false
  | .fin n m e =>
    if m = 0 then .fin n 0 e
    else if n then .nan
    else
      let k : Nat := 130 + (e % 2).toNat
      let w := m * 2 ^ k
      let r := isqrt w
      .fin false (2 * r + (if r * r = w then 0 else 1)) ((e - k) / 2 - 1)

/-- Order of two values: none when either is NaN. -/
def vCmp : Val → Val → Option Ordering
  | .nan, _ => none
  | _, .nan => none
  | .inf a, .inf b => some (if a = b then .eq else if a then .lt else .gt)
  | .inf a, _ => some (if a then .lt else .gt)
  | _, .inf b => some (if b then .gt else .lt)
  | .fin n1 m1 e1, .fin n2 m2 e2 =>
    let e0 := min e1 e2
    some (compare (signedAt n1 m1 e1 e0) (signedAt n2 m2 e2 e0))

/-- A finite value rounded down to an integer; 0 otherwise. -/
def vFloor : Val → Int
  | .fin n m e =>
    let v : Int := if n then -(m : Int) else (m : Int)
    if 0 ≤ e then v * (2 ^ e.toNat : Nat) else v / (2 ^ (-e).toNat : Nat)
  | _ => 0

/-- A finite value rounded to the nearest integer, ties to even; 0 otherwise. -/
def vRne : Val → Int
  | .fin n m e =>
    let u : Nat := if 0 ≤ e then m * 2 ^ e.toNat else rneShift m (-e).toNat
    if n then -(u : Int) else (u : Int)
  | _ => 0

/-- A finite value rounded toward zero; 0 otherwise. -/
def vTrunc : Val → Int
  | .fin n m e =>
    let u : Nat := if 0 ≤ e then m * 2 ^ e.toNat else m / 2 ^ (-e).toNat
    if n then -(u : Int) else (u : Int)
  | _ => 0

/-- The value of an integer times 2^e. -/
def vInt (v : Int) (e : Int := 0) : Val := .fin (decide (v < 0)) v.natAbs e

/-! ### binary64 -/

def dVal (a : F64) : Val := unpack fmt64 a.toNat
def dPack (v : Val) : F64 := BitVec.ofNat 64 (pack fmt64 v)
def dAdd (a b : F64) : F64 := dPack (vAdd (dVal a) (dVal b))
def dSub (a b : F64) : F64 := dPack (vAdd (dVal a) (vNeg (dVal b)))
def dMul (a b : F64) : F64 := dPack (vMul (dVal a) (dVal b))
def dDiv (a b : F64) : F64 := dPack (vDiv (dVal a) (dVal b))
def dSqrt (a : F64) : F64 := dPack (vSqrt (dVal a))
/-- a × b + c with one rounding. -/
def dFma (a b c : F64) : F64 := dPack (vAdd (vMul (dVal a) (dVal b)) (dVal c))
def dNeg (a : F64) : F64 := a ^^^ (0x8000000000000000#64)
def dAbs (a : F64) : F64 := a &&& (0x7FFFFFFFFFFFFFFF#64)
def dLt (a b : F64) : Bool := vCmp (dVal a) (dVal b) == some .lt
def dEq (a b : F64) : Bool := vCmp (dVal a) (dVal b) == some .eq
def dLe (a b : F64) : Bool := dLt a b || dEq a b
def dIsNan (a : F64) : Bool := dVal a == .nan
def dFinite (a : F64) : Bool :=
  match dVal a with
  | .fin _ _ _ => true
  | _ => false
/-- The smaller; a NaN operand gives the other one. -/
def dMin (a b : F64) : F64 := if dLe a b then a else if dIsNan a then b else if dIsNan b then a else b
/-- The larger; a NaN operand gives the other one. -/
def dMax (a b : F64) : F64 := if dLe b a then a else if dIsNan a then b else if dIsNan b then a else b
def dClamp (lo hi v : F64) : F64 := if dLt v lo then lo else if dLt hi v then hi else v
/-- An integer times 2^e, rounded. -/
def dOfInt (v : Int) (e : Int := 0) : F64 := dPack (vInt v e)
def dOfNat (v : Nat) (e : Int := 0) : F64 := dOfInt v e
/-- n ÷ d rounded once. -/
def dRatio (n : Int) (d : Nat) : F64 := dPack (vDiv (vInt n) (vInt d))
def dOfF32 (a : F32) : F64 := dPack (unpack fmt32 a.toNat)
def dToF32 (a : F64) : F32 := BitVec.ofNat 32 (pack fmt32 (dVal a))
def dFloor (a : F64) : Int := vFloor (dVal a)
def dRne (a : F64) : Int := vRne (dVal a)
def dTrunc (a : F64) : Int := vTrunc (dVal a)
/-- a × 2^k, exactly where it fits. -/
def dScale (a : F64) (k : Int) : F64 :=
  match dVal a with
  | .fin n m e => dPack (.fin n m (e + k))
  | v => dPack v
/-- A finite value times 2^k to the nearest integer, ties to even: conversion to a fixed-point format. -/
def dToFix (k : Int) (a : F64) : Int :=
  match dVal a with
  | .fin n m e => vRne (.fin n m (e + k))
  | _ => 0
/-- A sum of products: 0 without a term, one product rounded once, and of more the part's own order of rounding. [DESIGN CHOICE, log 55] -/
def dDot : List (F64 × F64) → F64
  | [] => 0
  | [p] => dMul p.1 p.2
  | l => Config.dot64 l
def dNan : F64 := dPack .nan
def dInf : F64 := dPack (.inf false)
def dNegInf : F64 := dPack (.inf true)
def dZero : F64 := 0
def dOne : F64 := dOfInt 1

/-! ### binary32 -/

def fVal (a : F32) : Val := unpack fmt32 a.toNat
def fPack (v : Val) : F32 := BitVec.ofNat 32 (pack fmt32 v)
def fAdd (a b : F32) : F32 := fPack (vAdd (fVal a) (fVal b))
def fSub (a b : F32) : F32 := fPack (vAdd (fVal a) (vNeg (fVal b)))
def fMul (a b : F32) : F32 := fPack (vMul (fVal a) (fVal b))
def fDiv (a b : F32) : F32 := fPack (vDiv (fVal a) (fVal b))
def fSqrt (a : F32) : F32 := fPack (vSqrt (fVal a))
/-- a × b + c with one rounding. -/
def fFma (a b c : F32) : F32 := fPack (vAdd (vMul (fVal a) (fVal b)) (fVal c))
def fNeg (a : F32) : F32 := a ^^^ (0x80000000#32)
def fAbs (a : F32) : F32 := a &&& (0x7FFFFFFF#32)
def fLt (a b : F32) : Bool := vCmp (fVal a) (fVal b) == some .lt
def fEq (a b : F32) : Bool := vCmp (fVal a) (fVal b) == some .eq
def fLe (a b : F32) : Bool := fLt a b || fEq a b
def fIsNan (a : F32) : Bool := fVal a == .nan
def fFinite (a : F32) : Bool :=
  match fVal a with
  | .fin _ _ _ => true
  | _ => false
def fMin (a b : F32) : F32 := if fLe a b then a else if fIsNan a then b else if fIsNan b then a else b
def fMax (a b : F32) : F32 := if fLe b a then a else if fIsNan a then b else if fIsNan b then a else b
def fClamp (lo hi v : F32) : F32 := if fLt v lo then lo else if fLt hi v then hi else v
def fOfInt (v : Int) (e : Int := 0) : F32 := fPack (vInt v e)
def fFloor (a : F32) : Int := vFloor (fVal a)
def fRne (a : F32) : Int := vRne (fVal a)
def fTrunc (a : F32) : Int := vTrunc (fVal a)
/-- A finite value times 2^k to the nearest integer, ties to even. -/
def fToFix (k : Int) (a : F32) : Int :=
  match fVal a with
  | .fin n m e => vRne (.fin n m (e + k))
  | _ => 0
/-- A sum of products, likewise. [DESIGN CHOICE, log 66] -/
def fDot : List (F32 × F32) → F32
  | [] => 0
  | [p] => fMul p.1 p.2
  | l => Config.dot32 l
def fNan : F32 := fPack .nan
def fInf : F32 := fPack (.inf false)

end Sys2Proof.Machine
end

