-- ==== Sys2Proof/Machine/ObjTable.lean ====
section
/-! DEFINITION. The object tables: every member of every class with its instances, type, length, access code, default, range and the
modes and sets it belongs to (R7, R14, R76 to R78, R457 and the object table of each chapter). -/

namespace Sys2Proof.Machine

/-- Access codes (Table 0-4). -/
inductive Access where
  | ro | rw | wo | w1c | w1s | rc
  deriving DecidableEq, Repr

/-- Ranges of the "Range and unit" column. -/
inductive Rng where
  /-- No range beyond the type's own. -/
  | any
  /-- lo to hi in steps. -/
  | nat (lo hi step : Nat)
  | int (lo hi : Int)
  | oneOf (l : List Nat)
  /-- lo to hi, or one value beside. -/
  | oneOr (lo hi other : Nat)
  /-- 0 to `cell.tick_ns` less a margin. -/
  | tickLess (margin : Nat)
  | f32 (lo hi : Nat)
  | f64 (lo hi : Nat)
  /-- Above 0; at least 0; any finite value. -/
  | f32gt
  | f64gt
  | f32ge
  | f32any
  | f64any
  /-- Not 0. -/
  | f64ne
  /-- lo to hi in steps of one half, both counted in halves. -/
  | f32half (lo hi : Nat)
  /-- Every f32 of the bytes finite. -/
  | f32s
  /-- The owning chapter's own rule. -/
  | special
  deriving DecidableEq, Repr

/-- One row of an object table. -/
structure ObjRow where
  i0 : Nat
  i1 : Nat
  m0 : Nat
  m1 : Nat
  /-- Type code of Table 3-12a. -/
  ty : Nat
  len0 : Nat
  len1 : Nat
  acc : Access
  dflt : Nat := 0
  rng : Rng := .any
  /-- Writable only in CONFIGURE. -/
  conf : Bool := false
  /-- Belongs to the safety set. -/
  safety : Bool := false

/-- Objects of class 0x10. -/
def objClass10 : List ObjRow :=
  [ ⟨0x0, 0x0, 0x0, 0x0, 1, 1, 1, .rw, 0, .any, true, false⟩, -- cell.arm_mask
    ⟨0x0, 0x0, 0x1, 0x1, 4, 8, 8, .rw, 0, .any, true, false⟩, -- cell.joint_mask
    ⟨0x0, 0x0, 0x2, 0x2, 3, 4, 4, .ro, 0, .any, false, false⟩, -- cell.tick_ns
    ⟨0x0, 0x0, 0x3, 0x3, 3, 4, 4, .ro, 0, .any, false, false⟩, -- cell.tick_count
    ⟨0x0, 0x0, 0x4, 0x4, 4, 8, 8, .ro, 0, .any, false, false⟩, -- cell.activation_time
    ⟨0x0, 0x0, 0x5, 0x5, 1, 1, 1, .ro, 0, .any, false, false⟩, -- cell.sep_ticks
    ⟨0x0, 0x0, 0x6, 0x6, 1, 1, 1, .ro, 0, .any, false, false⟩, -- cell.mode
    ⟨0x0, 0x0, 0x7, 0x7, 1, 1, 1, .ro, 0, .any, false, false⟩, -- cell.mode_target
    ⟨0x0, 0x0, 0x8, 0x8, 3, 4, 4, .ro, 0, .any, false, false⟩, -- cell.mode_cause
    ⟨0x0, 0x0, 0x9, 0x9, 12, 40, 40, .ro, 0, .any, false, false⟩, -- cell.refusal_report
    ⟨0x0, 0x0, 0xa, 0xa, 12, 48, 48, .ro, 0, .any, false, false⟩, -- cell.start_record
    ⟨0x0, 0x0, 0xb, 0xb, 1, 1, 1, .ro, 0, .any, false, false⟩, -- cell.mode_resume
    ⟨0x0, 0x0, 0x20, 0x20, 3, 4, 4, .rw, 0, (.tickLess 3200), true, false⟩, -- cell.profile_offset_ns
    ⟨0x0, 0x0, 0x21, 0x21, 2, 2, 2, .rw, 500, (.nat 100 5000 1), false, false⟩, -- cell.accept_us
    ⟨0x0, 0x0, 0x22, 0x22, 2, 2, 2, .rw, 200, (.nat 50 2000 1), false, false⟩, -- cell.jog_timeout_ms
    ⟨0x0, 0x0, 0x23, 0x23, 3, 4, 4, .rc, 0, .any, false, false⟩, -- cell.moves_accepted
    ⟨0x0, 0x0, 0x24, 0x24, 3, 4, 4, .rc, 0, .any, false, false⟩, -- cell.moves_refused
    ⟨0x1, 0x1, 0x0, 0x0, 2, 2, 2, .rw, 50, (.nat 20 500 1), true, false⟩, -- sched.reserve_pm
    ⟨0x1, 0x1, 0x1, 0x1, 2, 2, 2, .rw, 1000, (.nat 10 10000 1), false, false⟩, -- sched.window_ms
    ⟨0x1, 0x1, 0x2, 0x2, 2, 2, 2, .ro, 0, .any, false, false⟩, -- sched.tasks_used
    ⟨0x1, 0x1, 0x3, 0x3, 2, 2, 2, .rw, 0, (.nat 0 1023 1), false, false⟩, -- sched.task_select
    ⟨0x1, 0x1, 0x4, 0x4, 12, 1024, 1024, .ro, 0, .any, false, false⟩, -- sched.task_page
    ⟨0x1, 0x1, 0x5, 0x5, 2, 2, 2, .ro, 0, .any, false, false⟩, -- sched.store_level
    ⟨0x1, 0x1, 0x6, 0x6, 2, 2, 2, .rc, 0, .any, false, false⟩ -- sched.store_max
  ] ++
  [ ⟨0x1, 0x1, 0x7, 0x7, 3, 4, 4, .rc, 0, .any, false, false⟩, -- sched.stalls
    ⟨0x1, 0x1, 0x8, 0x8, 3, 4, 4, .rc, 0, .any, false, false⟩, -- sched.stall_ns_max
    ⟨0x1, 0x1, 0x9, 0x9, 3, 4, 4, .rc, 0, .any, false, false⟩, -- sched.net_held
    ⟨0x1, 0x1, 0xa, 0xa, 3, 4, 4, .rc, 0, .any, false, false⟩, -- sched.match_expired
    ⟨0x1, 0x1, 0xb, 0xb, 3, 4, 4, .rc, 0, .any, false, false⟩, -- sched.operand_replaced
    ⟨0x10, 0x1f, 0x0, 0x0, 2, 2, 2, .ro, 0, .any, false, false⟩, -- sched.queue_depth
    ⟨0x10, 0x1f, 0x1, 0x1, 2, 2, 2, .rc, 0, .any, false, false⟩, -- sched.queue_max
    ⟨0x10, 0x1f, 0x2, 0x2, 3, 4, 4, .ro, 0, .any, false, false⟩, -- sched.wait_min_ns
    ⟨0x10, 0x1f, 0x3, 0x3, 3, 4, 4, .ro, 0, .any, false, false⟩, -- sched.wait_mean_ns
    ⟨0x10, 0x1f, 0x4, 0x4, 3, 4, 4, .ro, 0, .any, false, false⟩, -- sched.wait_max_ns
    ⟨0x10, 0x1f, 0x5, 0x5, 2, 2, 2, .ro, 0, .any, false, false⟩, -- sched.load_pm
    ⟨0x10, 0x1f, 0x6, 0x6, 3, 4, 4, .ro, 0, .any, false, false⟩, -- sched.charge_ns
    ⟨0x10, 0x1f, 0x7, 0x7, 3, 4, 4, .rc, 0, .any, false, false⟩, -- sched.dispatches
    ⟨0x4, 0x4, 0x0, 0x0, 3, 4, 4, .rw, 0, (.tickLess 0), true, false⟩, -- dsp.kernel_offset_ns
    ⟨0x4, 0x4, 0x1, 0x1, 3, 4, 4, .rw, 0, (.tickLess 0), true, false⟩, -- dsp.kernel_budget_ns
    ⟨0x4, 0x4, 0x2, 0x2, 3, 4, 4, .rc, 0, .any, false, false⟩, -- dsp.ecc_corrected
    ⟨0x8, 0xb, 0x0, 0x0, 12, 8, 65528, .wo, 0, .special, true, false⟩, -- dsp.load
    ⟨0x8, 0xb, 0x1, 0x1, 1, 1, 1, .ro, 0, .any, false, false⟩, -- dsp.load_state
    ⟨0x8, 0xb, 0x2, 0x2, 1, 1, 1, .ro, 0, .any, false, false⟩, -- dsp.load_error
    ⟨0x8, 0xb, 0x3, 0x3, 10, 1, 1, .rw, 0, (.nat 0 1 1), false, false⟩, -- dsp.enable
    ⟨0x8, 0xb, 0x4, 0x4, 2, 2, 2, .rw, 1, (.oneOf [1, 2, 4, 8, 16, 32, 64, 128, 256]), true, false⟩, -- dsp.rate
    ⟨0x8, 0xb, 0x5, 0x5, 2, 2, 2, .rw, 0, .special, true, false⟩, -- dsp.phase
    ⟨0x8, 0xb, 0x6, 0x6, 4, 8, 8, .ro, 0, .any, false, false⟩, -- dsp.kernel_id
    ⟨0x8, 0xb, 0x7, 0x7, 3, 4, 4, .ro, 0, .any, false, false⟩ -- dsp.exec_cycles
  ] ++
  [ ⟨0x8, 0xb, 0x8, 0x8, 1, 1, 1, .ro, 0, .any, false, false⟩, -- dsp.kernel_state
    ⟨0x8, 0xb, 0x9, 0x9, 1, 1, 1, .w1c, 0, .any, false, false⟩, -- dsp.kernel_flags
    ⟨0x8, 0xb, 0xa, 0xa, 3, 4, 4, .rc, 0, .any, false, false⟩, -- dsp.runs
    ⟨0x8, 0xb, 0xb, 0xb, 3, 4, 4, .rc, 0, .any, false, false⟩, -- dsp.aborts
    ⟨0x8, 0xb, 0xc, 0xc, 12, 1024, 1024, .ro, 0, .any, false, false⟩, -- dsp.out
    ⟨0x8, 0xb, 0xd, 0xd, 4, 8, 8, .ro, 0, .any, false, false⟩, -- dsp.out_time
    ⟨0x8, 0xb, 0xe, 0xe, 2, 2, 2, .ro, 0, .any, false, false⟩ -- dsp.fault_pc
  ]

/-- Objects of class 0x20. -/
def objClass20 : List ObjRow :=
  [ ⟨0x0, 0x7, 0x0, 0x0, 12, 24, 24, .rw, 0, .any, true, false⟩, -- arm.base_position
    ⟨0x0, 0x7, 0x1, 0x1, 12, 32, 32, .rw, 0, .any, true, false⟩, -- arm.base_rotation
    ⟨0x0, 0x7, 0x2, 0x2, 10, 1, 1, .w1c, 0, .any, false, false⟩, -- arm.hold
    ⟨0x0, 0x7, 0x3, 0x3, 3, 4, 4, .ro, 0, .any, false, false⟩, -- arm.hold_cause
    ⟨0x0, 0x7, 0x4, 0x4, 1, 1, 1, .ro, 0, .any, false, false⟩, -- arm.source
    ⟨0x0, 0x7, 0x5, 0x5, 10, 1, 1, .ro, 0, (.nat 0 1 1), false, false⟩, -- arm.stop_ramp
    ⟨0x0, 0x7, 0x10, 0x17, 12, 72, 72, .ro, 0, .any, false, true⟩, -- arm.kin
    ⟨0x0, 0x7, 0x18, 0x18, 12, 56, 56, .ro, 0, .any, false, true⟩, -- arm.flange
    ⟨0x0, 0x7, 0x19, 0x19, 12, 24, 24, .ro, 0, .any, false, true⟩ -- arm.tcp
  ]

/-- Objects of class 0x21. -/
def objClass21 : List ObjRow :=
  [ ⟨0x0, 0x4f, 0x0, 0x0, 9, 8, 8, .rw, 0, (.f64 0x3FF0000000000000 0x41CDCD6500000000), true, false⟩, -- joint.counts_per_unit
    ⟨0x0, 0x47, 0x1, 0x1, 11, 8, 8, .rw, 0, .any, true, false⟩, -- joint.soft_min
    ⟨0x0, 0x47, 0x2, 0x2, 11, 8, 8, .rw, 0, .any, true, false⟩, -- joint.soft_max
    ⟨0x0, 0x47, 0x3, 0x3, 8, 4, 4, .rw, 0, .f32gt, false, false⟩, -- joint.vel_max
    ⟨0x0, 0x47, 0x4, 0x4, 8, 4, 4, .rw, 0, .f32gt, false, false⟩, -- joint.acc_max
    ⟨0x0, 0x47, 0x5, 0x5, 8, 4, 4, .rw, 0, .f32gt, false, false⟩, -- joint.jerk_max
    ⟨0x0, 0x47, 0x6, 0x6, 8, 4, 4, .rw, 0, .f32gt, false, false⟩, -- joint.jog_vel
    ⟨0x0, 0x4f, 0x7, 0x7, 11, 8, 8, .ro, 0, .any, false, false⟩, -- joint.setpoint
    ⟨0x0, 0x4f, 0x8, 0x8, 9, 8, 8, .ro, 0, .any, false, false⟩, -- joint.velocity
    ⟨0x0, 0x4f, 0x9, 0x9, 9, 8, 8, .ro, 0, .any, false, false⟩, -- joint.acceleration
    ⟨0x0, 0x47, 0xa, 0xa, 1, 1, 1, .ro, 0, .any, false, false⟩, -- joint.state
    ⟨0x0, 0x47, 0xb, 0xb, 1, 1, 1, .w1c, 0, .any, false, false⟩, -- joint.flags
    ⟨0x0, 0x47, 0xc, 0xc, 3, 4, 4, .ro, 0, .any, false, false⟩, -- joint.move_id
    ⟨0x0, 0x47, 0xd, 0xd, 11, 8, 8, .ro, 0, .any, false, false⟩, -- joint.target
    ⟨0x0, 0x47, 0xe, 0xe, 3, 4, 4, .rc, 0, .any, false, false⟩, -- joint.limit_clamps
    ⟨0x40, 0x47, 0xf, 0xf, 1, 1, 1, .rw, 255, (.oneOr 0 7 0xFF), true, false⟩, -- joint.scale_arm
    ⟨0x40, 0x47, 0x10, 0x10, 2, 2, 2, .rw, 200, (.nat 100 2000 1), true, false⟩, -- joint.step_width_ns
    ⟨0x48, 0x4f, 0x11, 0x11, 1, 1, 1, .rw, 255, (.oneOr 0 7 0xFF), true, false⟩, -- joint.conv_encoder
    ⟨0x48, 0x4f, 0x12, 0x12, 1, 1, 1, .rw, 16, (.nat 1 255 1), false, false⟩, -- joint.conv_age_limit
    ⟨0x48, 0x4f, 0x13, 0x13, 1, 1, 1, .ro, 0, .any, false, false⟩, -- joint.conv_state
    ⟨0x48, 0x4f, 0x14, 0x14, 1, 1, 1, .ro, 0, .any, false, false⟩, -- joint.conv_age
    ⟨0x0, 0x47, 0x40, 0x40, 10, 1, 1, .rw, 0, (.nat 0 1 1), true, false⟩, -- loop.enable inner
    ⟨0x0, 0x47, 0x60, 0x60, 10, 1, 1, .rw, 0, (.nat 0 1 1), true, false⟩, -- loop.enable outer
    ⟨0x0, 0x47, 0x41, 0x41, 12, 8, 8, .rw, 0, .special, true, false⟩ -- loop.dims inner
  ] ++
  [ ⟨0x0, 0x47, 0x61, 0x61, 12, 8, 8, .rw, 0, .special, true, false⟩, -- loop.dims outer
    ⟨0x0, 0x47, 0x42, 0x42, 1, 1, 1, .rw, 1, .special, true, false⟩, -- loop.rate inner
    ⟨0x0, 0x47, 0x62, 0x62, 1, 1, 1, .rw, 4, .special, true, false⟩, -- loop.rate outer
    ⟨0x0, 0x47, 0x43, 0x43, 1, 1, 1, .rw, 0, .special, true, false⟩, -- loop.phase inner
    ⟨0x0, 0x47, 0x63, 0x63, 1, 1, 1, .rw, 0, .special, true, false⟩, -- loop.phase outer
    ⟨0x0, 0x47, 0x44, 0x44, 1, 1, 1, .rw, 0, (.nat 0 15 1), true, false⟩, -- loop.core inner
    ⟨0x0, 0x47, 0x64, 0x64, 1, 1, 1, .rw, 0, (.nat 0 15 1), true, false⟩, -- loop.core outer
    ⟨0x0, 0x47, 0x45, 0x45, 12, 256, 256, .rw, 0, .f32s, false, false⟩, -- loop.a inner
    ⟨0x0, 0x47, 0x65, 0x65, 12, 256, 256, .rw, 0, .f32s, false, false⟩, -- loop.a outer
    ⟨0x0, 0x47, 0x46, 0x46, 12, 512, 512, .rw, 0, .f32s, false, false⟩, -- loop.b0 inner
    ⟨0x0, 0x47, 0x66, 0x66, 12, 512, 512, .rw, 0, .f32s, false, false⟩, -- loop.b0 outer
    ⟨0x0, 0x47, 0x47, 0x47, 12, 512, 512, .rw, 0, .f32s, false, false⟩, -- loop.b1 inner
    ⟨0x0, 0x47, 0x67, 0x67, 12, 512, 512, .rw, 0, .f32s, false, false⟩, -- loop.b1 outer
    ⟨0x0, 0x47, 0x48, 0x48, 12, 128, 128, .rw, 0, .f32s, false, false⟩, -- loop.c inner
    ⟨0x0, 0x47, 0x68, 0x68, 12, 128, 128, .rw, 0, .f32s, false, false⟩, -- loop.c outer
    ⟨0x0, 0x47, 0x49, 0x49, 12, 128, 128, .rw, 0, .f32s, false, false⟩, -- loop.l inner
    ⟨0x0, 0x47, 0x69, 0x69, 12, 128, 128, .rw, 0, .f32s, false, false⟩, -- loop.l outer
    ⟨0x0, 0x47, 0x4a, 0x4a, 12, 64, 64, .rw, 0, .f32s, false, false⟩, -- loop.k inner
    ⟨0x0, 0x47, 0x6a, 0x6a, 12, 64, 64, .rw, 0, .f32s, false, false⟩, -- loop.k outer
    ⟨0x0, 0x47, 0x4b, 0x4b, 12, 32, 32, .rw, 0, .f32s, false, false⟩, -- loop.n inner
    ⟨0x0, 0x47, 0x6b, 0x6b, 12, 32, 32, .rw, 0, .f32s, false, false⟩, -- loop.n outer
    ⟨0x0, 0x47, 0x4c, 0x4c, 12, 16, 16, .rw, 0, .f32s, false, false⟩, -- loop.w inner
    ⟨0x0, 0x47, 0x6c, 0x6c, 12, 16, 16, .rw, 0, .f32s, false, false⟩, -- loop.w outer
    ⟨0x0, 0x47, 0x4d, 0x4d, 12, 8, 8, .rw, 0xfe967699fe967699, .f32s, false, false⟩ -- loop.u_min inner
  ] ++
  [ ⟨0x0, 0x47, 0x6d, 0x6d, 12, 8, 8, .rw, 0xfe967699fe967699, .f32s, false, false⟩, -- loop.u_min outer
    ⟨0x0, 0x47, 0x4e, 0x4e, 12, 8, 8, .rw, 0x7e9676997e967699, .f32s, false, false⟩, -- loop.u_max inner
    ⟨0x0, 0x47, 0x6e, 0x6e, 12, 8, 8, .rw, 0x7e9676997e967699, .f32s, false, false⟩, -- loop.u_max outer
    ⟨0x0, 0x47, 0x4f, 0x4f, 8, 4, 4, .rw, 0, (.f32 0x0 0x44FA0000), false, false⟩, -- loop.vdc_nominal inner
    ⟨0x0, 0x47, 0x6f, 0x6f, 8, 4, 4, .rw, 0, (.f32 0x0 0x44FA0000), false, false⟩, -- loop.vdc_nominal outer
    ⟨0x0, 0x47, 0x50, 0x50, 1, 1, 1, .rw, 2, (.nat 0 32 1), false, false⟩, -- loop.age_limit inner
    ⟨0x0, 0x47, 0x70, 0x70, 1, 1, 1, .rw, 2, (.nat 0 32 1), false, false⟩, -- loop.age_limit outer
    ⟨0x0, 0x47, 0x51, 0x51, 12, 32, 32, .ro, 0, .any, false, false⟩, -- loop.state inner
    ⟨0x0, 0x47, 0x71, 0x71, 12, 32, 32, .ro, 0, .any, false, false⟩, -- loop.state outer
    ⟨0x0, 0x47, 0x52, 0x52, 12, 8, 8, .ro, 0, .any, false, false⟩, -- loop.output inner
    ⟨0x0, 0x47, 0x72, 0x72, 12, 8, 8, .ro, 0, .any, false, false⟩, -- loop.output outer
    ⟨0x0, 0x47, 0x53, 0x53, 1, 1, 1, .w1c, 0, .any, false, false⟩, -- loop.flags inner
    ⟨0x0, 0x47, 0x73, 0x73, 1, 1, 1, .w1c, 0, .any, false, false⟩, -- loop.flags outer
    ⟨0x0, 0x47, 0x54, 0x54, 10, 1, 1, .w1c, 0, .any, false, false⟩, -- loop.fault inner
    ⟨0x0, 0x47, 0x74, 0x74, 10, 1, 1, .w1c, 0, .any, false, false⟩, -- loop.fault outer
    ⟨0x0, 0x47, 0x55, 0x55, 1, 1, 1, .ro, 0, .any, false, false⟩, -- loop.fault_cause inner
    ⟨0x0, 0x47, 0x75, 0x75, 1, 1, 1, .ro, 0, .any, false, false⟩, -- loop.fault_cause outer
    ⟨0x0, 0x47, 0x56, 0x56, 3, 4, 4, .ro, 0, .any, false, false⟩, -- loop.wcet_ns inner
    ⟨0x0, 0x47, 0x76, 0x76, 3, 4, 4, .ro, 0, .any, false, false⟩, -- loop.wcet_ns outer
    ⟨0x0, 0x47, 0x57, 0x57, 3, 4, 4, .ro, 0, .any, false, false⟩, -- loop.last_delay_ns inner
    ⟨0x0, 0x47, 0x77, 0x77, 3, 4, 4, .ro, 0, .any, false, false⟩, -- loop.last_delay_ns outer
    ⟨0x0, 0x47, 0x58, 0x58, 12, 32, 32, .rc, 0, .any, false, false⟩, -- loop.bin_counts inner
    ⟨0x0, 0x47, 0x78, 0x78, 12, 32, 32, .rc, 0, .any, false, false⟩, -- loop.bin_counts outer
    ⟨0x0, 0x47, 0x59, 0x59, 3, 4, 4, .rc, 0, .any, false, false⟩ -- loop.executions inner
  ] ++
  [ ⟨0x0, 0x47, 0x79, 0x79, 3, 4, 4, .rc, 0, .any, false, false⟩, -- loop.executions outer
    ⟨0x0, 0x47, 0x5a, 0x5a, 3, 4, 4, .rc, 0, .any, false, false⟩, -- loop.predicted inner
    ⟨0x0, 0x47, 0x7a, 0x7a, 3, 4, 4, .rc, 0, .any, false, false⟩, -- loop.predicted outer
    ⟨0x0, 0x47, 0x5b, 0x5b, 3, 4, 4, .rc, 0, .any, false, false⟩, -- loop.saturations inner
    ⟨0x0, 0x47, 0x7b, 0x7b, 3, 4, 4, .rc, 0, .any, false, false⟩, -- loop.saturations outer
    ⟨0x0, 0x47, 0x5c, 0x5c, 3, 4, 4, .rc, 0, .any, false, false⟩, -- loop.late_outputs inner
    ⟨0x0, 0x47, 0x7c, 0x7c, 3, 4, 4, .rc, 0, .any, false, false⟩, -- loop.late_outputs outer
    ⟨0x0, 0x47, 0x5d, 0x5d, 3, 4, 4, .rc, 0, .any, false, false⟩, -- loop.superseded inner
    ⟨0x0, 0x47, 0x7d, 0x7d, 3, 4, 4, .rc, 0, .any, false, false⟩ -- loop.superseded outer
  ]

/-- Objects of class 0x30. -/
def objClass30 : List ObjRow :=
  [ ⟨0x0, 0x0, 0x0, 0x0, 3, 4, 4, .rw, 4000, (.nat 2000 32000 1000), true, false⟩, -- plan.period_us
    ⟨0x0, 0x0, 0x1, 0x1, 3, 4, 4, .rw, 180, (.nat 20 2000 1), true, false⟩, -- plan.post_us
    ⟨0x0, 0x0, 0x2, 0x2, 3, 4, 4, .rw, 3750, (.nat 100 31900 1), true, false⟩, -- plan.deadline_us
    ⟨0x0, 0x0, 0x3, 0x3, 3, 4, 4, .ro, 0, .any, false, false⟩, -- plan.commit_budget_us
    ⟨0x0, 0x0, 0x4, 0x4, 2, 2, 2, .rw, 2000, (.nat 100 2000 1), true, false⟩, -- plan.horizon_ms
    ⟨0x0, 0x0, 0x5, 0x5, 1, 1, 1, .rw, 16, (.nat 8 64 1), true, false⟩, -- plan.knots
    ⟨0x0, 0x0, 0x6, 0x6, 1, 1, 1, .rw, 0, .any, true, false⟩, -- plan.planned_arms
    ⟨0x0, 0x0, 0x7, 0x7, 1, 1, 1, .rw, 36, (.nat 4 64 1), true, false⟩, -- plan.checks_per_tail
    ⟨0x0, 0x0, 0x8, 0x8, 8, 4, 4, .rw, 0x41a00000, (.f32 0x3F800000 0x43480000), true, false⟩, -- plan.zone_margin_mm
    ⟨0x0, 0x0, 0x9, 0x9, 2, 2, 2, .rw, 100, (.nat 0 1000 1), false, false⟩, -- plan.lease_margin_ms
    ⟨0x0, 0x0, 0xa, 0xa, 2, 2, 2, .rw, 500, (.nat 0 2000 1), false, false⟩, -- plan.sep_horizon_ms
    ⟨0x0, 0x0, 0xb, 0xb, 9, 8, 8, .rw, 0x3eb0c6f7a0b5ed8d, (.f64 0x3D719799812DEA11 0x3F50624DD2F1A9FC), false, false⟩, -- plan.primal_tol
    ⟨0x0, 0x0, 0xc, 0xc, 1, 1, 1, .ro, 0, .any, false, false⟩, -- plan.structure
    ⟨0x0, 0x0, 0xd, 0xd, 12, 32, 32, .rw, 0, .any, true, false⟩, -- plan.couple
    ⟨0x0, 0x0, 0x10, 0x10, 1, 1, 1, .ro, 0, .any, false, false⟩, -- plan.last_result
    ⟨0x0, 0x0, 0x11, 0x11, 3, 4, 4, .ro, 0, .any, false, false⟩, -- plan.last_commit_seq
    ⟨0x0, 0x0, 0x12, 0x12, 3, 4, 4, .rc, 0, .any, false, false⟩, -- plan.commits
    ⟨0x0, 0x0, 0x13, 0x13, 3, 4, 4, .rc, 0, .any, false, false⟩, -- plan.failed_replans
    ⟨0x0, 0x0, 0x14, 0x14, 12, 40, 40, .rc, 0, .any, false, false⟩, -- plan.fail_counts
    ⟨0x0, 0x0, 0x15, 0x15, 2, 2, 2, .ro, 0, .any, false, false⟩, -- plan.consecutive_failures
    ⟨0x0, 0x0, 0x16, 0x16, 2, 2, 2, .rw, 16, (.nat 1 1000 1), false, false⟩, -- plan.fail_alarm_n
    ⟨0x10, 0x17, 0x0, 0x0, 2, 2, 2, .rw, 300, .special, false, false⟩, -- plan.tail_ms
    ⟨0x10, 0x17, 0x1, 0x1, 8, 4, 4, .rw, 0x461c4000, .f32ge, false, false⟩, -- plan.w_pos
    ⟨0x10, 0x17, 0x2, 0x2, 8, 4, 4, .rw, 0x41200000, .f32ge, false, false⟩ -- plan.w_vel
  ] ++
  [ ⟨0x10, 0x17, 0x3, 0x3, 8, 4, 4, .rw, 0x3c23d70a, .f32ge, false, false⟩, -- plan.w_acc
    ⟨0x10, 0x17, 0x4, 0x4, 8, 4, 4, .rw, 0x358637bd, .f32gt, false, false⟩, -- plan.w_jerk
    ⟨0x10, 0x17, 0x5, 0x5, 8, 4, 4, .rw, 0x44fa0000, (.f32 0x41200000 0x461C4000), true, false⟩, -- plan.point_speed_max
    ⟨0x10, 0x17, 0x6, 0x6, 1, 1, 1, .rw, 128, (.nat 0 255 1), false, false⟩, -- plan.lease_priority
    ⟨0x10, 0x17, 0x7, 0x7, 4, 8, 8, .ro, 0, .any, false, false⟩, -- plan.theta_ns
    ⟨0x10, 0x17, 0x8, 0x8, 2, 2, 2, .ro, 0, .any, false, false⟩, -- plan.rate
    ⟨0x10, 0x17, 0x9, 0x9, 2, 2, 2, .ro, 0, .any, false, false⟩, -- plan.path_level
    ⟨0x10, 0x17, 0xa, 0xa, 3, 4, 4, .ro, 0, .any, false, false⟩, -- plan.path_id
    ⟨0x10, 0x17, 0x20, 0x20, 12, 1376, 1376, .ro, 0, .any, false, false⟩, -- plan.committed
    ⟨0x10, 0x17, 0x21, 0x21, 12, 1376, 1376, .ro, 0, .any, false, false⟩ -- plan.pending
  ]

/-- Objects of class 0x31. -/
def objClass31 : List ObjRow :=
  [ ⟨0x0, 0x0, 0x0, 0x0, 3, 4, 4, .ro, 0, .any, false, false⟩, -- solver.sram_free
    ⟨0x0, 0x0, 0x1, 0x1, 1, 1, 1, .ro, 0, .any, false, false⟩, -- solver.state
    ⟨0x0, 0x0, 0x2, 0x2, 3, 4, 4, .rc, 0, .any, false, false⟩, -- solver.ecc_corrected
    ⟨0x0, 0x0, 0x3, 0x3, 3, 4, 4, .rc, 0, .any, false, false⟩, -- solver.preemptions
    ⟨0x0, 0x0, 0x4, 0x4, 9, 8, 8, .rw, 0x3eb0c6f7a0b5ed8d, (.f64 0x3D719799812DEA11 0x3FF0000000000000), false, false⟩, -- solver.warm_floor
    ⟨0x10, 0x17, 0x0, 0x0, 12, 8, 65528, .wo, 0, .special, false, false⟩, -- solver.load
    ⟨0x10, 0x17, 0x1, 0x1, 1, 1, 1, .ro, 0, .any, false, false⟩, -- solver.load_state
    ⟨0x10, 0x17, 0x2, 0x2, 1, 1, 1, .ro, 0, .any, false, false⟩, -- solver.load_error
    ⟨0x10, 0x17, 0x3, 0x3, 10, 1, 1, .wo, 0, (.nat 1 1 1), false, false⟩, -- solver.unload
    ⟨0x10, 0x17, 0x4, 0x4, 4, 8, 8, .ro, 0, .any, false, false⟩, -- solver.structure_id
    ⟨0x10, 0x17, 0x5, 0x5, 3, 4, 4, .ro, 0, .any, false, false⟩, -- solver.order
    ⟨0x10, 0x17, 0x6, 0x6, 3, 4, 4, .ro, 0, .any, false, false⟩, -- solver.l_nonzeros
    ⟨0x10, 0x17, 0x7, 0x7, 4, 8, 8, .ro, 0, .any, false, false⟩, -- solver.factor_flops
    ⟨0x10, 0x17, 0x8, 0x8, 2, 2, 2, .ro, 0, .any, false, false⟩, -- solver.sustained_pm
    ⟨0x10, 0x17, 0x9, 0x9, 4, 8, 8, .ro, 0, .any, false, false⟩, -- solver.wcst_ns
    ⟨0x10, 0x17, 0xa, 0xa, 1, 1, 1, .rw, 20, (.nat 1 100 1), false, false⟩, -- solver.iter_cap
    ⟨0x10, 0x17, 0xb, 0xb, 9, 8, 8, .rw, 0x3e45798ee2308c3a, (.f64 0x3D06849B86A12B9B 0x3F847AE147AE147B), false, false⟩, -- solver.tol_primal
    ⟨0x10, 0x17, 0xc, 0xc, 9, 8, 8, .rw, 0x3e45798ee2308c3a, (.f64 0x3D06849B86A12B9B 0x3F847AE147AE147B), false, false⟩, -- solver.tol_dual
    ⟨0x10, 0x17, 0xd, 0xd, 9, 8, 8, .rw, 0x3e112e0be826d695, (.f64 0x3D06849B86A12B9B 0x3F847AE147AE147B), false, false⟩, -- solver.tol_gap
    ⟨0x10, 0x17, 0xe, 0xe, 9, 8, 8, .rw, 0x3ddb7cdfd9d7bdbb, (.f64 0x0 0x3F50624DD2F1A9FC), false, false⟩, -- solver.reg_primal
    ⟨0x10, 0x17, 0xf, 0xf, 9, 8, 8, .rw, 0x3ddb7cdfd9d7bdbb, (.f64 0x0 0x3F50624DD2F1A9FC), false, false⟩, -- solver.reg_dual
    ⟨0x10, 0x17, 0x10, 0x10, 12, 16, 65520, .wo, 0, .special, false, false⟩, -- solver.delta
    ⟨0x10, 0x17, 0x11, 0x11, 12, 24, 24, .wo, 0, .special, false, false⟩, -- solver.run
    ⟨0x10, 0x17, 0x12, 0x12, 12, 72, 72, .ro, 0, .any, false, false⟩ -- solver.result
  ] ++
  [ ⟨0x10, 0x17, 0x13, 0x13, 3, 4, 4, .rw, 0, .any, false, false⟩, -- solver.vec_select
    ⟨0x10, 0x17, 0x14, 0x14, 12, 4096, 4096, .ro, 0, .any, false, false⟩, -- solver.vec_data
    ⟨0x10, 0x17, 0x15, 0x15, 10, 1, 1, .rw, 1, (.nat 0 1 1), false, false⟩, -- solver.factor_guard
    ⟨0x10, 0x17, 0x16, 0x16, 3, 4, 4, .rw, 0, (.nat 0 1000000 1), true, false⟩, -- solver.window_us
    ⟨0x10, 0x17, 0x17, 0x17, 9, 8, 8, .rw, 0x4202a05f20000000, (.f64 0x412E848000000000 0x4341C37937E08000), false, false⟩, -- solver.infeas_limit
    ⟨0x10, 0x17, 0x18, 0x18, 3, 4, 4, .rc, 0, .any, false, false⟩ -- solver.runs
  ]

/-- Objects of class 0x40. -/
def objClass40 : List ObjRow :=
  [ ⟨0x0, 0xff, 0x0, 0x0, 12, 260, 260, .rw, 0, .special, true, false⟩, -- piste.zone_planes
    ⟨0x0, 0xff, 0x1, 0x1, 12, 12, 12, .rw, 0, .any, true, false⟩, -- piste.zone_point
    ⟨0x0, 0xff, 0x2, 0x2, 12, 32, 32, .ro, 0, .any, false, false⟩, -- piste.zone_conflicts
    ⟨0x0, 0xff, 0x3, 0x3, 1, 1, 1, .ro, 0, .any, false, false⟩, -- piste.zone_holders
    ⟨0x0, 0xff, 0x4, 0x4, 3, 4, 4, .rc, 0, .any, false, false⟩, -- piste.zone_grants
    ⟨0x0, 0x0, 0x80, 0x80, 3, 4, 4, .rw, 0, (.tickLess 2400), true, false⟩, -- piste.pass_offset_ns
    ⟨0x0, 0x0, 0x81, 0x81, 2, 2, 2, .rw, 5000, (.nat 100 10000 1), false, false⟩, -- piste.max_ahead_ms
    ⟨0x0, 0x0, 0x82, 0x82, 12, 24580, 24580, .ro, 0, .any, false, false⟩, -- piste.leases
    ⟨0x0, 0x0, 0x83, 0x83, 2, 2, 2, .ro, 0, .any, false, false⟩, -- piste.pending
    ⟨0x0, 0x0, 0x84, 0x84, 3, 4, 4, .rc, 0, .any, false, false⟩, -- piste.grants
    ⟨0x0, 0x0, 0x85, 0x85, 3, 4, 4, .rc, 0, .any, false, false⟩, -- piste.refusals
    ⟨0x0, 0x0, 0x86, 0x86, 3, 4, 4, .rc, 0, .any, false, false⟩, -- piste.expiries
    ⟨0x0, 0x0, 0x87, 0x87, 3, 4, 4, .rc, 0, .any, false, false⟩, -- piste.violations
    ⟨0x0, 0x0, 0x88, 0x88, 3, 4, 4, .rc, 0, .any, false, false⟩, -- piste.releases_dropped
    ⟨0x0, 0x0, 0x89, 0x89, 3, 4, 4, .rc, 0, .any, false, false⟩, -- piste.planner_dropped
    ⟨0x0, 0x7, 0xc0, 0xc0, 2, 2, 2, .rw, 65535, (.oneOr 0 255 0xFFFF), true, false⟩, -- piste.home_zone
    ⟨0x0, 0x7, 0xc1, 0xc1, 12, 512, 512, .ro, 0, .any, false, false⟩, -- piste.wait_credit
    ⟨0x0, 0x7, 0xc2, 0xc2, 12, 772, 772, .ro, 0, .any, false, false⟩, -- piste.lease_set
    ⟨0x0, 0x7, 0xc3, 0xc3, 12, 24, 24, .ro, 0, .any, false, false⟩ -- piste.last_violation
  ]

/-- Objects of class 0x50. -/
def objClass50 : List ObjRow :=
  [ ⟨0x0, 0x5f, 0x0, 0x0, 12, 32, 32, .ro, 0, .any, false, true⟩, -- sep.capsule
    ⟨0x60, 0x6f, 0x0, 0x0, 1, 1, 1, .ro, 0, (.nat 0 254 1), false, true⟩, -- sep.sensor_node
    ⟨0x60, 0x6f, 0x1, 0x1, 12, 12, 12, .ro, 0, .any, false, true⟩, -- sep.sensor_pose
    ⟨0x60, 0x6f, 0x2, 0x2, 8, 4, 4, .ro, 0, (.f32 0x0 0x44FA0000), false, true⟩, -- sep.c_mm
    ⟨0x60, 0x6f, 0x3, 0x3, 8, 4, 4, .ro, 0, (.f32 0x0 0x447A0000), false, true⟩, -- sep.zd_mm
    ⟨0x60, 0x6f, 0x4, 0x4, 12, 16, 16, .ro, 0, .any, false, true⟩, -- sep.sensor_worst
    ⟨0x60, 0x6f, 0x5, 0x5, 1, 1, 1, .ro, 16, (.nat 1 64 1), false, true⟩, -- sep.sensor_age_limit
    ⟨0x60, 0x6f, 0x6, 0x6, 1, 1, 1, .ro, 0, .any, false, false⟩, -- sep.sensor_state
    ⟨0x70, 0x77, 0x0, 0x0, 8, 4, 4, .ro, 0, (.f32 0x41200000 0x459C4000), false, true⟩, -- sep.t_stop_ms
    ⟨0x70, 0x77, 0x1, 0x1, 8, 4, 4, .ro, 0, (.f32 0x0 0x43FA0000), false, true⟩, -- sep.zr_mm
    ⟨0x70, 0x77, 0x2, 0x2, 8, 4, 4, .ro, 0, (.f32 0x41200000 0x461C4000), false, true⟩, -- sep.v_ref
    ⟨0x70, 0x77, 0x3, 0x3, 8, 4, 4, .ro, 0x42c80000, (.f32 0x3F800000 0x447A0000), false, true⟩, -- sep.v_min
    ⟨0x70, 0x77, 0x4, 0x4, 8, 4, 4, .ro, 0x43480000, (.f32 0x40000000 0x44FA0000), false, true⟩, -- sep.v_resume
    ⟨0x70, 0x77, 0x5, 0x5, 1, 1, 1, .ro, 16, (.nat 1 64 1), false, true⟩, -- sep.joint_age_limit
    ⟨0x70, 0x77, 0x6, 0x6, 12, 40, 40, .ro, 0, .any, false, false⟩, -- sep.arm_result
    ⟨0x80, 0x80, 0x0, 0x0, 1, 1, 1, .ro, 32, (.nat 1 32 1), false, true⟩, -- sep.person_max
    ⟨0x80, 0x80, 0x1, 0x1, 8, 4, 4, .ro, 0x44c80000, (.f32 0x447A0000 0x453B8000), false, true⟩, -- sep.v_human
    ⟨0x80, 0x80, 0x2, 0x2, 8, 4, 4, .ro, 0, (.f32 0x40000000 0x447A0000), false, true⟩, -- sep.t_react_ms
    ⟨0x80, 0x80, 0x3, 0x3, 8, 4, 4, .ro, 0x3f19999a, (.f32 0x3F000000 0x40000000), false, true⟩, -- sep.stop_factor
    ⟨0x80, 0x80, 0x4, 0x4, 8, 4, 4, .ro, 0x40a00000, (.f32 0x3F800000 0x42C80000), false, true⟩, -- sep.diversity_tol_mm
    ⟨0x80, 0x80, 0x5, 0x5, 8, 4, 4, .ro, 0x42c80000, (.f32 0x3F800000 0x43FA0000), false, true⟩, -- sep.latency_max_ms
    ⟨0x80, 0x80, 0x6, 0x6, 8, 4, 4, .ro, 0, .f32any, false, true⟩, -- sep.floor_z
    ⟨0x80, 0x80, 0x7, 0x7, 2, 2, 2, .ro, 2000, (.nat 500 3000 1), false, true⟩, -- sep.person_height_mm
    ⟨0x80, 0x80, 0x8, 0x8, 3, 4, 4, .rw, 32400, (.tickLess 0), true, false⟩ -- sep.step_offset_ns
  ] ++
  [ ⟨0x80, 0x80, 0x9, 0x9, 3, 4, 4, .rw, 2000, (.nat 1000 20000 1), true, false⟩, -- sep.kin_budget_ns
    ⟨0x80, 0x80, 0xa, 0xa, 2, 2, 2, .rw, 32, (.nat 1 256 1), true, false⟩, -- sep.scale_fall
    ⟨0x80, 0x80, 0xb, 0xb, 2, 2, 2, .rw, 4, (.nat 1 256 1), true, false⟩, -- sep.scale_rise
    ⟨0x80, 0x80, 0xc, 0xc, 2, 2, 2, .rw, 200, (.nat 1 10000 1), true, false⟩, -- sep.resume_steps
    ⟨0x80, 0x80, 0xd, 0xd, 3, 4, 4, .ro, 0, .any, false, false⟩, -- sep.t_proc_ns
    ⟨0x80, 0x80, 0xe, 0xe, 3, 4, 4, .ro, 0, .any, false, false⟩, -- sep.t_chamois_ns
    ⟨0x80, 0x80, 0x10, 0x10, 3, 4, 4, .rc, 0, .any, false, false⟩, -- sep.steps
    ⟨0x80, 0x80, 0x11, 0x11, 3, 4, 4, .rc, 0, .any, false, false⟩, -- sep.diversity_faults
    ⟨0x80, 0x80, 0x12, 0x12, 3, 4, 4, .rc, 0, .any, false, false⟩, -- sep.worst_case_subs
    ⟨0x80, 0x80, 0x13, 0x13, 3, 4, 4, .rc, 0, .any, false, false⟩, -- sep.person_overflow
    ⟨0x90, 0xaf, 0x0, 0x0, 12, 24, 24, .ro, 0, .any, false, false⟩ -- sep.person
  ]

/-- Objects of class 0x60. -/
def objClass60 : List ObjRow :=
  [ ⟨0x0, 0xf, 0x0, 0x0, 1, 1, 1, .ro, 0, (.nat 0 5 1), false, true⟩, -- safety.in_function
    ⟨0x0, 0xf, 0x1, 0x1, 1, 1, 1, .ro, 2, (.nat 1 2 1), false, true⟩, -- safety.in_mode
    ⟨0x0, 0xf, 0x2, 0x2, 2, 2, 2, .ro, 4, (.nat 1 4000 1), false, true⟩, -- safety.in_discrepancy
    ⟨0x0, 0xf, 0x3, 0x3, 1, 1, 1, .ro, 0, .any, false, true⟩, -- safety.in_arms
    ⟨0x0, 0xf, 0x4, 0x4, 1, 1, 1, .ro, 0, (.nat 0 2 1), false, true⟩, -- safety.in_stop
    ⟨0x0, 0xf, 0x5, 0x5, 1, 1, 1, .ro, 0, .any, false, false⟩, -- safety.in_state
    ⟨0x0, 0xf, 0x6, 0x6, 3, 4, 4, .rc, 0, .any, false, false⟩, -- safety.in_discrepancies
    ⟨0x10, 0x17, 0x0, 0x0, 1, 1, 1, .ro, 0, (.nat 0 2 1), false, true⟩, -- safety.out_function
    ⟨0x10, 0x17, 0x1, 0x1, 1, 1, 1, .ro, 0, .any, false, true⟩, -- safety.out_arms
    ⟨0x10, 0x17, 0x2, 0x2, 10, 1, 1, .ro, 1, (.nat 0 1 1), false, true⟩, -- safety.out_open_detect
    ⟨0x10, 0x17, 0x3, 0x3, 1, 1, 1, .ro, 0, .any, false, false⟩, -- safety.out_state
    ⟨0x10, 0x17, 0x4, 0x4, 2, 2, 2, .ro, 0, .any, false, false⟩, -- safety.out_current_ma
    ⟨0x10, 0x17, 0x5, 0x5, 3, 4, 4, .rc, 0, .any, false, false⟩, -- safety.out_faults
    ⟨0x20, 0x27, 0x0, 0x0, 8, 4, 4, .ro, 0, (.f32 0x41200000 0x459C4000), false, true⟩, -- safety.stop_time_ms
    ⟨0x20, 0x27, 0x1, 0x1, 8, 4, 4, .ro, 0x41a00000, (.f32 0x0 0x43FA0000), false, true⟩, -- safety.ramp_delay_ms
    ⟨0x20, 0x27, 0x2, 0x2, 8, 4, 4, .ro, 0x42480000, (.f32 0x0 0x447A0000), false, true⟩, -- safety.ramp_tol
    ⟨0x20, 0x27, 0x3, 0x3, 3, 4, 4, .ro, 5000, .any, false, true⟩, -- safety.standstill_vel
    ⟨0x20, 0x27, 0x4, 0x4, 3, 4, 4, .ro, 10000, .any, false, true⟩, -- safety.sos_pos_tol
    ⟨0x20, 0x27, 0x5, 0x5, 8, 4, 4, .ro, 0x437a0000, (.f32 0x41200000 0x447A0000), false, true⟩, -- safety.sls_limit
    ⟨0x20, 0x27, 0x6, 0x6, 8, 4, 4, .ro, 0x41a00000, (.f32 0x0 0x43480000), false, true⟩, -- safety.sls_tol
    ⟨0x20, 0x27, 0x7, 0x7, 12, 2, 2, .ro, 0, .any, false, false⟩, -- safety.arm_state
    ⟨0x20, 0x27, 0x8, 0x8, 2, 2, 2, .ro, 0, .any, false, false⟩, -- safety.arm_sources
    ⟨0x20, 0x27, 0x9, 0x9, 3, 4, 4, .rc, 0, .any, false, false⟩, -- safety.violations
    ⟨0x40, 0x4f, 0x0, 0x0, 1, 1, 1, .ro, 0, (.nat 0 254 1), false, true⟩ -- safety.net_node
  ] ++
  [ ⟨0x40, 0x4f, 0x1, 0x1, 1, 1, 1, .ro, 0, (.nat 0 5 1), false, true⟩, -- safety.net_function
    ⟨0x40, 0x4f, 0x2, 0x2, 1, 1, 1, .ro, 0, .any, false, true⟩, -- safety.net_arms
    ⟨0x40, 0x4f, 0x3, 0x3, 1, 1, 1, .ro, 0, (.nat 0 2 1), false, true⟩, -- safety.net_stop
    ⟨0x40, 0x4f, 0x4, 0x4, 1, 1, 1, .ro, 8, (.nat 1 64 1), false, true⟩, -- safety.net_age_limit
    ⟨0x40, 0x4f, 0x5, 0x5, 1, 1, 1, .ro, 0, .any, false, false⟩, -- safety.net_state
    ⟨0x40, 0x4f, 0x6, 0x6, 3, 4, 4, .rc, 0, .any, false, false⟩, -- safety.net_coding_errors
    ⟨0x80, 0x80, 0x0, 0x0, 12, 32, 32, .ro, 0, .any, false, false⟩, -- safety.set_digest
    ⟨0x80, 0x80, 0x1, 0x1, 3, 4, 4, .ro, 0, .any, false, false⟩, -- safety.connection_id
    ⟨0x80, 0x80, 0x2, 0x2, 3, 4, 4, .ro, 0, .any, false, false⟩, -- safety.set_version
    ⟨0x80, 0x80, 0x3, 0x3, 1, 1, 1, .ro, 0, .any, false, false⟩, -- safety.set_error
    ⟨0x80, 0x80, 0x4, 0x4, 1, 1, 1, .ro, 0, .any, false, false⟩, -- safety.sw1
    ⟨0x80, 0x80, 0x5, 0x5, 1, 1, 1, .ro, 16, (.nat 1 64 1), false, true⟩, -- safety.single_copy_limit
    ⟨0x80, 0x80, 0x6, 0x6, 2, 2, 2, .ro, 100, (.nat 10 1000 1), false, true⟩, -- safety.dark_period_ms
    ⟨0x80, 0x80, 0x7, 0x7, 2, 2, 2, .ro, 300, (.nat 100 500 1), false, true⟩, -- safety.dark_width_us
    ⟨0x80, 0x80, 0x8, 0x8, 3, 4, 4, .rc, 0, .any, false, false⟩, -- safety.reset_count
    ⟨0x80, 0x80, 0x9, 0x9, 3, 4, 4, .rc, 0, .any, false, false⟩, -- safety.reset_rejects
    ⟨0x80, 0x80, 0xa, 0xa, 4, 8, 8, .ro, 0, .any, false, false⟩, -- safety.last_reset_time
    ⟨0x80, 0x80, 0xb, 0xb, 3, 4, 4, .rc, 0, .any, false, false⟩, -- safety.cross_mismatches
    ⟨0x80, 0x80, 0xc, 0xc, 3, 4, 4, .ro, 0, .any, false, false⟩ -- safety.chamois_status
  ]

/-- Objects of class 0x70. -/
def objClass70 : List ObjRow :=
  [ ⟨0x0, 0x0, 0x0, 0x0, 3, 4, 4, .rw, 62500, (.oneOf [31250, 62500, 125000, 250000, 500000, 1000000]), true, false⟩, -- tahixa.cycle_ns
    ⟨0x0, 0x0, 0x1, 0x1, 1, 1, 1, .rw, 1, (.nat 1 120 1), true, false⟩, -- tahixa.static_down
    ⟨0x0, 0x0, 0x2, 0x2, 1, 1, 1, .rw, 0, (.nat 0 120 1), true, false⟩, -- tahixa.static_up
    ⟨0x0, 0x0, 0x3, 0x3, 12, 960, 960, .rw, 0, .any, true, false⟩, -- tahixa.slots_down
    ⟨0x0, 0x0, 0x4, 0x4, 12, 960, 960, .rw, 0, .any, true, false⟩, -- tahixa.slots_up
    ⟨0x0, 0x0, 0x5, 0x5, 12, 128, 128, .rw, 0, .any, true, false⟩, -- tahixa.standing
    ⟨0x0, 0x0, 0x6, 0x6, 2, 2, 2, .ro, 0, .any, false, false⟩, -- tahixa.dyn_down
    ⟨0x0, 0x0, 0x7, 0x7, 2, 2, 2, .ro, 0, .any, false, false⟩, -- tahixa.dyn_up
    ⟨0x0, 0x0, 0x8, 0x8, 3, 4, 4, .ro, 0, .any, false, false⟩, -- tahixa.nit_down_ps
    ⟨0x0, 0x0, 0x9, 0x9, 3, 4, 4, .ro, 0, .any, false, false⟩, -- tahixa.nit_up_ps
    ⟨0x0, 0x0, 0xa, 0xa, 12, 8, 1032, .wo, 0, .special, false, false⟩, -- tahixa.dyn_tx
    ⟨0x0, 0x0, 0xb, 0xb, 1, 1, 1, .ro, 0, .any, false, false⟩, -- tahixa.dyn_tx_level
    ⟨0x0, 0x0, 0xc, 0xc, 12, 16, 1040, .rc, 0, .any, false, false⟩, -- tahixa.dyn_rx
    ⟨0x0, 0x0, 0xd, 0xd, 3, 4, 4, .rc, 0, .any, false, false⟩, -- tahixa.dyn_rx_drops
    ⟨0x0, 0x0, 0xe, 0xe, 3, 4, 4, .rc, 0, .any, false, false⟩, -- tahixa.foreign_frames
    ⟨0x0, 0x0, 0xf, 0xf, 3, 4, 4, .rc, 0, .any, false, false⟩, -- tahixa.dyn_deferred
    ⟨0x0, 0x0, 0x10, 0x10, 12, 120, 120, .ro, 0, .any, false, false⟩, -- tahixa.slot_age_up
    ⟨0x0, 0x0, 0x11, 0x11, 12, 480, 480, .rc, 0, .any, false, false⟩, -- tahixa.slot_missed_up
    ⟨0x0, 0x0, 0x12, 0x12, 12, 480, 480, .rc, 0, .any, false, false⟩, -- tahixa.slot_overwrites_up
    ⟨0x1, 0xfe, 0x0, 0x0, 10, 1, 1, .rw, 0, (.nat 0 1 1), true, false⟩, -- tahixa.node_present
    ⟨0x1, 0xfe, 0x1, 0x1, 1, 1, 1, .rw, 0, .special, true, false⟩, -- tahixa.node_key_slot
    ⟨0x1, 0xfe, 0x2, 0x2, 6, 4, 4, .ro, 0, .any, false, false⟩, -- tahixa.node_delay_a_q
    ⟨0x1, 0xfe, 0x3, 0x3, 6, 4, 4, .ro, 0, .any, false, false⟩, -- tahixa.node_delay_b_q
    ⟨0x1, 0xfe, 0x4, 0x4, 3, 4, 4, .rc, 0, .any, false, false⟩ -- tahixa.delay_jumps
  ] ++
  [ ⟨0x1, 0xfe, 0x5, 0x5, 5, 2, 2, .ro, 0, .any, false, false⟩, -- tahixa.last_offset_ns
    ⟨0x1, 0xfe, 0x6, 0x6, 1, 1, 1, .ro, 0, .any, false, false⟩, -- tahixa.outer_run
    ⟨0x1, 0xfe, 0x7, 0x7, 10, 1, 1, .w1c, 0, .any, false, false⟩, -- tahixa.drift_warn
    ⟨0x1, 0xfe, 0x8, 0x8, 3, 4, 4, .rc, 0, .any, false, false⟩, -- tahixa.window_rejects
    ⟨0x1, 0xfe, 0x9, 0x9, 3, 4, 4, .rc, 0, .any, false, false⟩, -- tahixa.header_rejects
    ⟨0x1, 0xfe, 0xa, 0xa, 3, 4, 4, .rc, 0, .any, false, false⟩, -- tahixa.tag_fails
    ⟨0x1, 0xfe, 0xb, 0xb, 3, 4, 4, .rc, 0, .any, false, false⟩, -- tahixa.safety_crc_fails
    ⟨0x1, 0xfe, 0xc, 0xc, 3, 4, 4, .rc, 0, .any, false, false⟩, -- tahixa.safety_seq_errors
    ⟨0x1, 0xfe, 0xd, 0xd, 3, 4, 4, .rc, 0, .any, false, false⟩, -- tahixa.dyn_unserved
    ⟨0x0, 0x0, 0x20, 0x20, 1, 1, 1, .rw, 0, (.nat 0 3 1), true, false⟩, -- tahixa.redundancy
    ⟨0x0, 0x0, 0x21, 0x21, 1, 1, 1, .rw, 0, (.oneOr 3 254 0), true, false⟩, -- tahixa.coldstart_node
    ⟨0x0, 0x0, 0x22, 0x22, 1, 1, 1, .ro, 0, .any, false, false⟩, -- tahixa.net_state
    ⟨0x0, 0x0, 0x23, 0x23, 1, 1, 1, .ro, 0, .any, false, false⟩, -- tahixa.leader
    ⟨0x0, 0x0, 0x24, 0x24, 3, 4, 4, .rc, 0, .any, false, false⟩, -- tahixa.startup_collisions
    ⟨0x0, 0x0, 0x25, 0x25, 3, 4, 4, .rc, 0, .any, false, false⟩, -- tahixa.cycle_restarts
    ⟨0x0, 0x0, 0x26, 0x26, 1, 1, 1, .rw, 16, (.nat 2 255 1), true, false⟩, -- tahixa.node_loss_ticks
    ⟨0x0, 0x0, 0x27, 0x27, 1, 1, 1, .ro, 0, .any, false, false⟩, -- tahixa.ring_state
    ⟨0x0, 0x0, 0x28, 0x28, 12, 8, 8, .ro, 0, .any, false, false⟩, -- tahixa.ring_loop_ns
    ⟨0x0, 0x0, 0x29, 0x29, 3, 4, 4, .rc, 0, .any, false, false⟩, -- tahixa.ring_breaks
    ⟨0x0, 0x0, 0x2a, 0x2a, 1, 1, 1, .wo, 0, .any, false, false⟩, -- tahixa.ring_restore
    ⟨0x0, 0x0, 0x2b, 0x2b, 12, 20, 20, .rc, 0, .any, false, false⟩, -- tahixa.port_line_errors
    ⟨0x0, 0x0, 0x2c, 0x2c, 12, 20, 20, .rc, 0, .any, false, false⟩, -- tahixa.port_code_errors
    ⟨0x0, 0x0, 0x2d, 0x2d, 12, 20, 20, .rc, 0, .any, false, false⟩, -- tahixa.port_link_downs
    ⟨0x0, 0x0, 0x2e, 0x2e, 1, 1, 1, .ro, 0, .any, false, false⟩ -- tahixa.port_link_up
  ] ++
  [ ⟨0x0, 0x0, 0x2f, 0x2f, 12, 40, 40, .ro, 0, .any, false, false⟩, -- tahixa.port_rx_frames
    ⟨0x0, 0x0, 0x30, 0x30, 12, 8, 8, .rc, 0, .any, false, false⟩, -- tahixa.second_copies
    ⟨0x0, 0x0, 0x31, 0x31, 12, 8, 8, .rc, 0, .any, false, false⟩, -- tahixa.line_only
    ⟨0x0, 0x0, 0x32, 0x32, 3, 4, 4, .rc, 0, .any, false, false⟩, -- tahixa.copy_mismatches
    ⟨0x0, 0x0, 0x33, 0x33, 10, 1, 1, .w1c, 0, .any, false, false⟩, -- tahixa.redundancy_lost
    ⟨0x1, 0xfe, 0x10, 0x10, 1, 1, 1, .ro, 0, .any, false, false⟩, -- tahixa.node_state
    ⟨0x1, 0xfe, 0x11, 0x11, 3, 4, 4, .rc, 0, .any, false, false⟩, -- tahixa.node_integrations
    ⟨0x1, 0xfe, 0x12, 0x12, 3, 4, 4, .rc, 0, .any, false, false⟩, -- tahixa.node_losses
    ⟨0x1, 0xfe, 0x13, 0x13, 1, 1, 1, .ro, 0, .any, false, false⟩, -- tahixa.node_lines
    ⟨0x1, 0xfe, 0x14, 0x14, 6, 4, 4, .ro, 0, .any, false, false⟩, -- tahixa.node_delay_alt_q
    ⟨0x1, 0xfe, 0x15, 0x15, 3, 4, 4, .rc, 0, .any, false, false⟩, -- tahixa.safe_single
    ⟨0x1, 0xfe, 0x16, 0x16, 3, 4, 4, .rc, 0, .any, false, false⟩ -- tahixa.safe_mismatches
  ]

/-- Objects of class 0x80. -/
def objClass80 : List ObjRow :=
  [ ⟨0x0, 0x0, 0x0, 0x0, 1, 1, 1, .rw, 0, (.nat 0 3 1), true, false⟩, -- time.source
    ⟨0x0, 0x0, 0x1, 0x1, 1, 1, 1, .rw, 0, (.nat 0 1 1), true, false⟩, -- time.ref_select
    ⟨0x0, 0x0, 0x2, 0x2, 8, 4, 4, .rw, 0x3e800000, (.f32 0x3C23D70A 0x40800000), false, false⟩, -- time.kp
    ⟨0x0, 0x0, 0x3, 0x3, 8, 4, 4, .rw, 0x3ca3d70a, (.f32 0x0 0x3F800000), false, false⟩, -- time.ki
    ⟨0x0, 0x0, 0x4, 0x4, 3, 4, 4, .rw, 200000, (.nat 1000 500000 1), true, false⟩, -- time.rate_max_ppb
    ⟨0x0, 0x0, 0x5, 0x5, 3, 4, 4, .rw, 0xf4240, (.nat 1000 1000000000 1), false, false⟩, -- time.step_ns
    ⟨0x0, 0x0, 0x6, 0x6, 3, 4, 4, .rw, 10000, (.nat 100 10000 1), false, false⟩, -- time.switch_slew_ppb
    ⟨0x0, 0x0, 0x7, 0x7, 1, 1, 1, .rw, 0, (.nat 0 1 1), false, false⟩, -- time.preferred_domain
    ⟨0x0, 0x0, 0x8, 0x8, 2, 2, 2, .rw, 60, (.nat 0 3600 1), false, false⟩, -- time.revert_s
    ⟨0x0, 0x0, 0x9, 0x9, 3, 4, 4, .rw, 100, (.nat 10 100000 1), false, false⟩, -- time.lock_ns
    ⟨0x0, 0x0, 0xa, 0xa, 1, 1, 1, .ro, 0, .any, false, false⟩, -- time.state
    ⟨0x0, 0x0, 0xb, 0xb, 7, 8, 8, .ro, 0, .any, false, false⟩, -- time.slew_rem_ns
    ⟨0x0, 0x0, 0xc, 0xc, 3, 4, 4, .ro, 0, .any, false, false⟩, -- time.holdover_s
    ⟨0x0, 0x0, 0xd, 0xd, 8, 4, 4, .ro, 0, .any, false, false⟩, -- time.holdover_drift
    ⟨0x0, 0x0, 0xe, 0xe, 4, 8, 8, .ro, 0, .any, false, false⟩, -- time.holdover_error_ns
    ⟨0x0, 0x0, 0xf, 0xf, 3, 4, 4, .rw, 50, (.nat 1 10000 1), false, false⟩, -- time.holdover_stab_ppb
    ⟨0x0, 0x0, 0x10, 0x10, 2, 2, 2, .rw, 100, (.nat 1 500 1), false, false⟩, -- time.pps_width_ms
    ⟨0x0, 0x0, 0x11, 0x11, 5, 2, 2, .rw, 0, .any, false, false⟩, -- time.pps_out_q
    ⟨0x0, 0x0, 0x12, 0x12, 10, 1, 1, .rw, 0, (.nat 0 1 1), false, false⟩, -- time.clk10_out_en
    ⟨0x0, 0x0, 0x13, 0x13, 3, 4, 4, .rc, 0, .any, false, false⟩, -- time.pps_rejects
    ⟨0x0, 0x0, 0x14, 0x14, 10, 1, 1, .rw, 0, (.nat 0 1 1), false, false⟩, -- time.txts_ptp
    ⟨0x0, 0x0, 0x15, 0x15, 3, 4, 4, .ro, 0, .any, false, false⟩, -- time.txts_overflows
    ⟨0x10, 0x11, 0x0, 0x0, 1, 1, 1, .rw, 0, (.nat 0 127 1), true, false⟩, -- time.domain_number
    ⟨0x10, 0x11, 0x1, 0x1, 1, 1, 1, .rw, 0, (.nat 0 1 1), true, false⟩ -- time.domain_port
  ] ++
  [ ⟨0x10, 0x11, 0x2, 0x2, 1, 1, 1, .rw, 0, (.nat 0 2 1), true, false⟩, -- time.domain_role
    ⟨0x10, 0x11, 0x3, 0x3, 1, 1, 1, .rw, 0, (.nat 0 1 1), true, false⟩, -- time.delay_mech
    ⟨0x10, 0x11, 0x4, 0x4, 1, 1, 1, .rw, 0, (.nat 0 1 1), true, false⟩, -- time.transport
    ⟨0x10, 0x11, 0x5, 0x5, 5, 2, 2, .rw, 65533, (.int (-7) 0), false, false⟩, -- time.log_sync_interval
    ⟨0x10, 0x11, 0x6, 0x6, 1, 1, 1, .rw, 128, (.nat 0 255 1), false, false⟩, -- time.priority1
    ⟨0x10, 0x11, 0x7, 0x7, 1, 1, 1, .ro, 0, .any, false, false⟩, -- time.domain_state
    ⟨0x10, 0x11, 0x8, 0x8, 7, 8, 8, .ro, 0, .any, false, false⟩, -- time.offset_ns
    ⟨0x10, 0x11, 0x9, 0x9, 7, 8, 8, .ro, 0, .any, false, false⟩, -- time.mean_path_delay_ns
    ⟨0x10, 0x11, 0xa, 0xa, 9, 8, 8, .ro, 0, .any, false, false⟩, -- time.domain_integral
    ⟨0x10, 0x11, 0xb, 0xb, 12, 8, 8, .ro, 0, .any, false, false⟩, -- time.grandmaster_id
    ⟨0x10, 0x11, 0xc, 0xc, 3, 4, 4, .rc, 0, .any, false, false⟩, -- time.sync_timeouts
    ⟨0x20, 0x26, 0x0, 0x0, 5, 2, 2, .rw, 0, .any, true, false⟩, -- time.ingress_q
    ⟨0x20, 0x26, 0x1, 0x1, 5, 2, 2, .rw, 0, .any, true, false⟩, -- time.egress_q
    ⟨0x20, 0x26, 0x2, 0x2, 5, 2, 2, .rw, 0, .any, true, false⟩ -- time.asym_q
  ]

/-- Objects of class 0x90. -/
def objClass90 : List ObjRow :=
  [ ⟨0x0, 0x0, 0x0, 0x0, 3, 4, 4, .ro, 0, .any, false, false⟩, -- fio.in_state
    ⟨0x0, 0x0, 0x1, 0x1, 1, 1, 1, .ro, 0, .any, false, false⟩, -- fio.in_group_fault
    ⟨0x0, 0x0, 0x2, 0x2, 2, 2, 2, .rw, 0, .any, false, false⟩, -- fio.out
    ⟨0x0, 0x0, 0x3, 0x3, 2, 2, 2, .ro, 0, .any, false, false⟩, -- fio.out_state
    ⟨0x0, 0x0, 0x4, 0x4, 1, 1, 1, .ro, 0, .any, false, false⟩, -- fio.out_group_fault
    ⟨0x0, 0x0, 0x5, 0x5, 2, 2, 2, .rw, 0, .any, true, false⟩, -- fio.out_fault_hold
    ⟨0x0, 0x0, 0x6, 0x6, 3, 4, 4, .rc, 0, .any, false, false⟩, -- fio.group_faults
    ⟨0x40, 0x5f, 0x0, 0x0, 1, 1, 1, .rw, 8, (.nat 1 255 1), true, false⟩, -- fio.in_limit
    ⟨0x40, 0x5f, 0x1, 0x1, 1, 1, 1, .rw, 6, (.nat 1 255 1), true, false⟩, -- fio.in_on
    ⟨0x40, 0x5f, 0x2, 0x2, 1, 1, 1, .rw, 2, (.nat 0 254 1), true, false⟩, -- fio.in_off
    ⟨0x40, 0x5f, 0x3, 0x3, 1, 1, 1, .ro, 0, .any, false, false⟩, -- fio.in_count
    ⟨0x40, 0x5f, 0x4, 0x4, 3, 4, 4, .rc, 0, .any, false, false⟩, -- fio.in_changes
    ⟨0x40, 0x5f, 0x5, 0x5, 4, 8, 8, .ro, 0, .any, false, false⟩, -- fio.in_change_time
    ⟨0x10, 0x17, 0x0, 0x0, 1, 1, 1, .rw, 0, (.nat 0 3 1), true, false⟩, -- enc.mode
    ⟨0x10, 0x17, 0x1, 0x1, 1, 1, 1, .rw, 12, (.nat 0 100 4), false, false⟩, -- enc.glitch_ns
    ⟨0x10, 0x17, 0x2, 0x2, 10, 1, 1, .rw, 1, (.nat 0 1 1), false, false⟩, -- enc.hyst
    ⟨0x10, 0x17, 0x3, 0x3, 1, 1, 1, .rw, 4, (.nat 1 16 1), false, false⟩, -- enc.period_edges
    ⟨0x10, 0x17, 0x4, 0x4, 2, 2, 2, .rw, 100, (.nat 1 1000 1), false, false⟩, -- enc.stand_ms
    ⟨0x10, 0x17, 0x5, 0x5, 1, 1, 1, .rw, 0, (.nat 0 2 1), false, false⟩, -- enc.index_mode
    ⟨0x10, 0x17, 0x6, 0x6, 7, 8, 8, .rw, 0, .any, false, false⟩, -- enc.index_value
    ⟨0x10, 0x17, 0x7, 0x7, 10, 1, 1, .w1s, 0, .any, false, false⟩, -- enc.index_arm
    ⟨0x10, 0x17, 0x8, 0x8, 4, 8, 8, .ro, 0, .any, false, false⟩, -- enc.index_time
    ⟨0x10, 0x17, 0x9, 0x9, 3, 4, 4, .rw, 0, (.tickLess 400), true, false⟩, -- enc.latch_offset_ns
    ⟨0x10, 0x17, 0xa, 0xa, 12, 24, 24, .ro, 0, .any, false, false⟩ -- enc.latch
  ] ++
  [ ⟨0x10, 0x17, 0xb, 0xb, 1, 1, 1, .ro, 0, .any, false, false⟩, -- enc.age
    ⟨0x10, 0x17, 0xc, 0xc, 1, 1, 1, .rw, 255, (.oneOr 0 31 0xFF), true, false⟩, -- enc.probe_input
    ⟨0x10, 0x17, 0xd, 0xd, 12, 24, 24, .ro, 0, .any, false, false⟩, -- enc.probe_latch
    ⟨0x10, 0x17, 0xe, 0xe, 3, 4, 4, .rc, 0, .any, false, false⟩, -- enc.probe_count
    ⟨0x10, 0x17, 0xf, 0xf, 1, 1, 1, .rw, 0, (.nat 0 2 1), true, false⟩, -- enc.repeater
    ⟨0x10, 0x17, 0x10, 0x10, 3, 4, 4, .rw, 4096, (.nat 4 2147483648 1), false, false⟩, -- enc.emu_z_counts
    ⟨0x10, 0x17, 0x11, 0x11, 2, 2, 2, .rw, 1000, (.nat 100 10000 1), true, false⟩, -- enc.ssi_clock_khz
    ⟨0x10, 0x17, 0x12, 0x12, 1, 1, 1, .rw, 25, (.nat 8 32 1), true, false⟩, -- enc.ssi_bits
    ⟨0x10, 0x17, 0x13, 0x13, 1, 1, 1, .rw, 0, (.nat 0 7 1), true, false⟩, -- enc.ssi_format
    ⟨0x10, 0x17, 0x14, 0x14, 1, 1, 1, .rw, 0, (.nat 0 16 1), true, false⟩, -- enc.ssi_crc_bits
    ⟨0x10, 0x17, 0x15, 0x15, 2, 2, 2, .rw, 0, .any, true, false⟩, -- enc.ssi_crc_poly
    ⟨0x10, 0x17, 0x16, 0x16, 2, 2, 2, .rw, 0, (.nat 0 2000 1), false, false⟩, -- enc.line_delay_ns
    ⟨0x10, 0x17, 0x17, 0x17, 1, 1, 1, .rw, 20, (.nat 1 100 1), true, false⟩, -- enc.timeout_us
    ⟨0x10, 0x17, 0x18, 0x18, 6, 4, 4, .rw, 0, (.int (-100000) 100000), false, false⟩, -- enc.sensor_delay_ns
    ⟨0x10, 0x17, 0x19, 0x19, 1, 1, 1, .rw, 2, (.nat 0 2 1), true, false⟩, -- enc.link_rate
    ⟨0x10, 0x17, 0x1a, 0x1a, 1, 1, 1, .rw, 1, (.nat 0 255 1), true, false⟩, -- enc.link_address
    ⟨0x10, 0x17, 0x1b, 0x1b, 1, 1, 1, .ro, 0, .any, false, false⟩, -- enc.state
    ⟨0x10, 0x17, 0x1c, 0x1c, 12, 28, 28, .rc, 0, .any, false, false⟩, -- enc.errors
    ⟨0x20, 0x27, 0x0, 0x0, 1, 1, 1, .rw, 0, (.nat 0 2 1), true, false⟩, -- aux.drive_mode
    ⟨0x20, 0x27, 0x1, 0x1, 10, 1, 1, .rw, 0, (.nat 0 1 1), false, false⟩, -- aux.enable
    ⟨0x20, 0x27, 0x2, 0x2, 2, 2, 2, .rw, 64, (.nat 1 256 1), true, false⟩, -- aux.microsteps
    ⟨0x20, 0x27, 0x3, 0x3, 1, 1, 1, .rw, 255, (.oneOr 0 7 0xFF), true, false⟩, -- aux.encoder
    ⟨0x20, 0x27, 0x4, 0x4, 9, 8, 8, .rw, 0x3ff0000000000000, .f64ne, true, false⟩, -- aux.enc_ratio
    ⟨0x20, 0x27, 0x5, 0x5, 3, 4, 4, .rw, 0, (.tickLess 400), true, false⟩ -- aux.fb_offset_ns
  ] ++
  [ ⟨0x20, 0x27, 0x6, 0x6, 8, 4, 4, .rw, 0, (.f32 0x0 0x41200000), false, false⟩, -- aux.i_run
    ⟨0x20, 0x27, 0x7, 0x7, 8, 4, 4, .rw, 0, (.f32 0x0 0x41200000), false, false⟩, -- aux.i_hold
    ⟨0x20, 0x27, 0x8, 0x8, 8, 4, 4, .rw, 0, (.f32 0x3DCCCCCD 0x41200000), false, false⟩, -- aux.i_max
    ⟨0x20, 0x27, 0x9, 0x9, 8, 4, 4, .rw, 0, .f32any, true, false⟩, -- aux.sense_a_per_lsb
    ⟨0x20, 0x27, 0xa, 0xa, 1, 1, 1, .rw, 0, (.nat 0 2 1), false, false⟩, -- aux.chop_mode
    ⟨0x20, 0x27, 0xb, 0xb, 8, 4, 4, .rw, 0x41a00000, (.f32half 4 80), false, false⟩, -- aux.t_off_us
    ⟨0x20, 0x27, 0xc, 0xc, 2, 2, 2, .rw, 250, (.nat 0 1000 1), false, false⟩, -- aux.fast_pm
    ⟨0x20, 0x27, 0xd, 0xd, 2, 2, 2, .rw, 1000, (.nat 500 2000 500), false, false⟩, -- aux.blank_ns
    ⟨0x20, 0x27, 0xe, 0xe, 8, 4, 4, .rw, 0x42c80000, (.f32half 2 2000), false, false⟩, -- aux.max_on_us
    ⟨0x20, 0x27, 0xf, 0xf, 8, 4, 4, .rw, 0x3dcccccd, (.f32 0x3C23D70A 0x40000000), false, false⟩, -- aux.hyst_a
    ⟨0x20, 0x27, 0x10, 0x10, 8, 4, 4, .rw, 0x3dcccccd, (.f32 0x0 0x3F800000), false, false⟩, -- aux.k_off
    ⟨0x20, 0x27, 0x11, 0x11, 2, 2, 2, .rw, 150, (.nat 10 1000 1), false, false⟩, -- aux.reg_tol_pm
    ⟨0x20, 0x27, 0x12, 0x12, 2, 2, 2, .rw, 16, (.nat 1 10000 1), false, false⟩, -- aux.fallback_ticks
    ⟨0x20, 0x27, 0x13, 0x13, 8, 4, 4, .rw, 0, .f32any, false, false⟩, -- aux.r_ohm
    ⟨0x20, 0x27, 0x14, 0x14, 8, 4, 4, .rw, 0, .f32any, false, false⟩, -- aux.l_mh
    ⟨0x20, 0x27, 0x15, 0x15, 8, 4, 4, .rw, 0, (.f32 0x40A00000 0x42A00000), false, false⟩, -- aux.bus_v
    ⟨0x20, 0x27, 0x16, 0x16, 8, 4, 4, .rw, 0x42480000, .f32any, false, false⟩, -- aux.la_min_speed
    ⟨0x20, 0x27, 0x17, 0x17, 2, 2, 2, .rw, 32, (.nat 1 256 1), false, false⟩, -- aux.la_filter
    ⟨0x20, 0x27, 0x18, 0x18, 8, 4, 4, .rw, 0x3f800000, (.f32 0x0 0x41200000), false, false⟩, -- aux.la_gain
    ⟨0x20, 0x27, 0x19, 0x19, 8, 4, 4, .rw, 0x3f000000, (.f32 0x0 0x3FC90FDB), false, false⟩, -- aux.la_angle0
    ⟨0x20, 0x27, 0x1a, 0x1a, 8, 4, 4, .rw, 0x3fb33333, (.f32 0x0 0x40490FDB), false, false⟩, -- aux.stall_angle
    ⟨0x20, 0x27, 0x1b, 0x1b, 2, 2, 2, .rw, 64, (.nat 1 10000 1), false, false⟩, -- aux.stall_ticks
    ⟨0x20, 0x27, 0x1c, 0x1c, 10, 1, 1, .rw, 0, (.nat 0 1 1), false, false⟩, -- aux.stall_fault
    ⟨0x20, 0x27, 0x1d, 0x1d, 2, 2, 2, .rw, 100, (.nat 50 2000 1), true, false⟩ -- aux.dir_setup_ns
  ] ++
  [ ⟨0x20, 0x27, 0x1e, 0x1e, 1, 1, 1, .ro, 0, .any, false, false⟩, -- aux.flags
    ⟨0x20, 0x27, 0x1f, 0x1f, 8, 4, 4, .ro, 0, .any, false, false⟩, -- aux.i_ref
    ⟨0x20, 0x27, 0x20, 0x20, 12, 8, 8, .ro, 0, .any, false, false⟩, -- aux.i_mean
    ⟨0x20, 0x27, 0x21, 0x21, 8, 4, 4, .ro, 0, .any, false, false⟩, -- aux.load_angle
    ⟨0x20, 0x27, 0x22, 0x22, 3, 4, 4, .rc, 0, .any, false, false⟩, -- aux.stalls
    ⟨0x20, 0x27, 0x23, 0x23, 3, 4, 4, .rc, 0, .any, false, false⟩ -- aux.fallbacks
  ]

/-- Objects of class 0xA0. -/
def objClassA0 : List ObjRow :=
  [ ⟨0x0, 0x0, 0x0, 0x0, 2, 2, 2, .rw, 16, (.nat 1 256 1), true, false⟩, -- acq.buffer_mib
    ⟨0x0, 0x0, 0x1, 0x1, 1, 1, 1, .rw, 0, (.nat 0 1 1), false, false⟩, -- acq.mode
    ⟨0x0, 0x0, 0x2, 0x2, 2, 2, 2, .rw, 1, (.nat 1 256 1), false, false⟩, -- acq.tick_div
    ⟨0x0, 0x0, 0x3, 0x3, 2, 2, 2, .rw, 1, (.nat 1 1024 1), false, false⟩, -- acq.fast_div
    ⟨0x0, 0x0, 0x4, 0x4, 3, 4, 4, .rw, 0, (.tickLess 4), false, false⟩, -- acq.sample_offset_ns
    ⟨0x0, 0x0, 0x5, 0x5, 1, 1, 1, .rw, 50, (.nat 0 100 1), false, false⟩, -- acq.pre_pct
    ⟨0x0, 0x0, 0x6, 0x6, 1, 1, 1, .rw, 0, (.nat 0 5 1), false, false⟩, -- acq.trig_kind
    ⟨0x0, 0x0, 0x7, 0x7, 1, 1, 1, .rw, 0, (.nat 0 63 1), false, false⟩, -- acq.trig_signal
    ⟨0x0, 0x0, 0x8, 0x8, 9, 8, 8, .rw, 0, .f64any, false, false⟩, -- acq.trig_level
    ⟨0x0, 0x0, 0x9, 0x9, 1, 1, 1, .rw, 0, (.nat 0 31 1), false, false⟩, -- acq.trig_input
    ⟨0x0, 0x0, 0xa, 0xa, 1, 1, 1, .ro, 0, .any, false, false⟩, -- acq.state
    ⟨0x0, 0x0, 0xb, 0xb, 3, 4, 4, .ro, 0, .any, false, false⟩, -- acq.result_length
    ⟨0x0, 0x0, 0xc, 0xc, 3, 4, 4, .rc, 0, .any, false, false⟩, -- acq.rearm_ignored
    ⟨0x0, 0x0, 0xd, 0xd, 3, 4, 4, .rc, 0, .any, false, false⟩, -- acq.captures
    ⟨0x1, 0x1, 0x0, 0x0, 2, 2, 2, .rw, 1024, (.nat 32 16384 1), true, false⟩, -- log.event_kib
    ⟨0x1, 0x1, 0x1, 0x1, 2, 2, 2, .rw, 4096, (.nat 32 65535 1), true, false⟩, -- log.trace_kib
    ⟨0x1, 0x1, 0x2, 0x2, 1, 1, 1, .rw, 0, .any, false, false⟩, -- log.trace_mask
    ⟨0x1, 0x1, 0x3, 0x3, 3, 4, 4, .ro, 0, .any, false, false⟩, -- log.alarm_borrowed
    ⟨0x1, 0x1, 0x4, 0x4, 3, 4, 4, .rc, 0, .any, false, false⟩, -- log.event_dropped
    ⟨0x1, 0x1, 0x5, 0x5, 3, 4, 4, .rc, 0, .any, false, false⟩, -- log.trace_dropped
    ⟨0x1, 0x1, 0x6, 0x6, 12, 12, 12, .ro, 0, .any, false, false⟩, -- log.next_seq
    ⟨0x40, 0x7f, 0x0, 0x0, 12, 8, 8, .rw, 0, .special, false, false⟩ -- acq.signal
  ]

/-- Objects of class 0xB0. -/
def objClassB0 : List ObjRow :=
  [ ⟨0x0, 0x0, 0x0, 0x0, 1, 1, 1, .ro, 0, .any, false, false⟩, -- clk.reference
    ⟨0x0, 0x0, 0x1, 0x1, 3, 4, 4, .rc, 0, .any, false, false⟩, -- clk.losses
    ⟨0x0, 0x0, 0x2, 0x2, 3, 4, 4, .rc, 0, .any, false, false⟩, -- clk.forced_switches
    ⟨0x0, 0x0, 0x3, 0x3, 10, 1, 1, .wo, 0, (.nat 1 1 1), false, false⟩, -- clk.restore
    ⟨0x0, 0x0, 0x4, 0x4, 6, 4, 4, .ro, 0, .any, false, false⟩, -- clk.rc_trim_ppm
    ⟨0x0, 0x0, 0x5, 0x5, 12, 40, 40, .ro, 0, .any, false, false⟩, -- clk.domain_khz
    ⟨0x0, 0x0, 0x6, 0x6, 1, 1, 1, .rw, 0, (.nat 0 13 1), false, false⟩, -- clk.clkout_source
    ⟨0x0, 0x0, 0x7, 0x7, 2, 2, 2, .rw, 1, (.nat 1 1024 1), false, false⟩, -- clk.clkout_div
    ⟨0x0, 0x0, 0x8, 0x8, 1, 1, 1, .ro, 0, .any, false, false⟩, -- clk.clkout_state
    ⟨0x0, 0x0, 0x9, 0x9, 3, 4, 4, .rc, 0, .any, false, false⟩, -- clk.gate_refusals
    ⟨0x1, 0x1, 0x0, 0x0, 2, 2, 2, .ro, 0, .any, false, false⟩, -- pwr.domain_on
    ⟨0x1, 0x1, 0x1, 0x1, 2, 2, 2, .rw, 0, (.oneOf [0, 2048, 8192, 10240]), true, false⟩, -- pwr.optional_off
    ⟨0x1, 0x1, 0x2, 0x2, 12, 64, 64, .rc, 0, .any, false, false⟩, -- pwr.switch_count
    ⟨0x1, 0x1, 0x3, 0x3, 3, 4, 4, .rc, 0, .any, false, false⟩, -- pwr.forced_offs
    ⟨0x1, 0x1, 0x4, 0x4, 2, 2, 2, .ro, 0, .any, false, false⟩, -- pwr.vin_mv
    ⟨0x1, 0x1, 0x5, 0x5, 2, 2, 2, .ro, 0, .any, false, false⟩, -- pwr.v24_io_mv
    ⟨0x1, 0x1, 0x6, 0x6, 2, 2, 2, .ro, 0, .any, false, false⟩, -- pwr.v24_safe_mv
    ⟨0x1, 0x1, 0x7, 0x7, 3, 4, 4, .ro, 0, .any, false, false⟩, -- pwr.input_mw
    ⟨0x1, 0x1, 0x8, 0x8, 5, 2, 2, .ro, 0, .any, false, false⟩ -- pwr.die_temp
  ]

/-- Objects of class 0xC0. -/
def objClassC0 : List ObjRow :=
  [ ⟨0x0, 0x0, 0x0, 0x0, 10, 1, 1, .rw, 0, (.nat 0 1 1), true, false⟩, -- pair.enable
    ⟨0x0, 0x0, 0x1, 0x1, 1, 1, 1, .rw, 1, (.nat 1 2 1), true, false⟩, -- pair.primary
    ⟨0x0, 0x0, 0x2, 0x2, 1, 1, 1, .rw, 2, (.nat 1 20 1), true, false⟩, -- pair.lease_ms
    ⟨0x0, 0x0, 0x3, 0x3, 2, 2, 2, .rw, 10, (.nat 0 3600 1), false, false⟩, -- pair.revert_s
    ⟨0x0, 0x0, 0x4, 0x4, 1, 1, 1, .rw, 16, (.nat 1 64 1), true, false⟩, -- pair.mirror_age_limit
    ⟨0x0, 0x0, 0x5, 0x5, 10, 1, 1, .wo, 0, (.nat 1 1 1), false, false⟩, -- pair.swap
    ⟨0x0, 0x0, 0x6, 0x6, 1, 1, 1, .ro, 0, .any, false, false⟩, -- pair.role
    ⟨0x0, 0x0, 0x7, 0x7, 12, 16, 16, .ro, 0, .any, false, false⟩, -- pair.token
    ⟨0x0, 0x0, 0x8, 0x8, 2, 2, 2, .ro, 0, .any, false, false⟩, -- pair.gap_ticks
    ⟨0x0, 0x0, 0x9, 0x9, 1, 1, 1, .ro, 0, .any, false, false⟩, -- pair.mirror_age
    ⟨0x0, 0x0, 0xa, 0xa, 12, 8, 8, .ro, 0, .any, false, false⟩, -- pair.d12_q
    ⟨0x0, 0x0, 0xb, 0xb, 1, 1, 1, .ro, 0, .any, false, false⟩, -- pair.peer_state
    ⟨0x0, 0x0, 0xc, 0xc, 3, 4, 4, .rc, 0, .any, false, false⟩, -- pair.renewals_missed
    ⟨0x0, 0x0, 0xd, 0xd, 3, 4, 4, .rc, 0, .any, false, false⟩, -- pair.takeovers
    ⟨0x0, 0x0, 0xe, 0xe, 3, 4, 4, .rc, 0, .any, false, false⟩, -- pair.handovers
    ⟨0x0, 0x0, 0xf, 0xf, 12, 16, 16, .ro, 0, .any, false, false⟩, -- pair.last_takeover
    ⟨0x0, 0x0, 0x10, 0x10, 3, 4, 4, .rc, 0, .any, false, false⟩ -- pair.plans_unacked
  ]

/-- Objects of class 0xD0. -/
def objClassD0 : List ObjRow :=
  [ ⟨0x80, 0x87, 0x0, 0x0, 3, 4, 4, .rc, 0, .any, false, false⟩, -- security.auth_failures
    ⟨0x80, 0x87, 0x1, 0x1, 3, 4, 4, .rc, 0, .any, false, false⟩, -- security.dup_discards
    ⟨0x80, 0x87, 0x2, 0x2, 3, 4, 4, .rc, 0, .any, false, false⟩, -- security.old_discards
    ⟨0x80, 0x87, 0x3, 0x3, 3, 4, 4, .rc, 0, .any, false, false⟩, -- security.stale_epoch_discards
    ⟨0x80, 0x87, 0x4, 0x4, 3, 4, 4, .rc, 0, .any, false, false⟩, -- security.tag_discards
    ⟨0x80, 0x87, 0x5, 0x5, 3, 4, 4, .rw, 10000, (.nat 1000 60000 1), false, false⟩, -- security.udp_idle_ms
    ⟨0x90, 0x91, 0x0, 0x0, 3, 4, 4, .rw, 0, .any, false, false⟩, -- security.ipv4_address
    ⟨0x90, 0x91, 0x1, 0x1, 1, 1, 1, .rw, 24, (.nat 8 30 1), false, false⟩, -- security.ipv4_prefix
    ⟨0x0, 0x0, 0x20, 0x20, 3, 4, 4, .ro, 0, .any, false, false⟩, -- security.view_denied
    ⟨0x0, 0x0, 0x0, 0x0, 12, 128, 128, .ro, 0, .any, false, false⟩, -- security.root_hashes
    ⟨0x0, 0x0, 0x1, 0x1, 1, 1, 1, .ro, 0, .any, false, false⟩, -- security.root_revoked
    ⟨0x0, 0x0, 0x2, 0x2, 1, 1, 1, .ro, 0, .any, false, false⟩, -- security.sec_floor
    ⟨0x0, 0x0, 0x3, 0x3, 12, 60, 60, .ro, 0, .any, false, false⟩, -- security.identity_pub
    ⟨0x0, 0x0, 0x4, 0x4, 3, 4, 4, .ro, 0, .any, false, false⟩, -- security.index_next
    ⟨0x0, 0x0, 0x5, 0x5, 3, 4, 4, .ro, 0, .any, false, false⟩, -- security.index_reserved_end
    ⟨0x0, 0x0, 0x6, 0x6, 1, 1, 1, .ro, 0, .any, false, false⟩, -- security.index_state
    ⟨0x0, 0x0, 0x7, 0x7, 3, 4, 4, .rc, 0, .any, false, false⟩, -- security.attestations
    ⟨0x0, 0x0, 0x8, 0x8, 10, 1, 1, .ro, 0, (.nat 0 1 1), false, false⟩, -- security.unprovisioned
    ⟨0x10, 0x11, 0x0, 0x0, 12, 60, 60, .ro, 0, .any, false, false⟩, -- security.cust_key
    ⟨0x10, 0x11, 0x1, 0x1, 1, 1, 1, .ro, 0, .any, false, false⟩, -- security.cust_flags
    ⟨0x20, 0x21, 0x0, 0x0, 3, 4, 4, .ro, 0, .any, false, false⟩, -- security.fw_version
    ⟨0x20, 0x21, 0x1, 0x1, 1, 1, 1, .ro, 0, .any, false, false⟩, -- security.fw_verify
    ⟨0x41, 0x48, 0x0, 0x0, 1, 1, 1, .ro, 0, .any, false, false⟩, -- security.hmac_usage
    ⟨0x41, 0x48, 0x1, 0x1, 3, 4, 4, .ro, 0, .any, false, false⟩ -- security.hmac_check
  ]

/-- Blocks of Table 18-4 that have a gate, as (region, blocks); 0x80 is the region gate. -/
def gateBlocks : List (Nat × List Nat) := [(1, [0, 1, 2, 3]), (3, [1, 2, 4]), (4, [1, 2, 3])]

/-- The table of a class. -/
def objClass (c : Nat) : List ObjRow :=
  if c = 0x10 then objClass10
  else if c = 0x20 then objClass20
  else if c = 0x21 then objClass21
  else if c = 0x30 then objClass30
  else if c = 0x31 then objClass31
  else if c = 0x40 then objClass40
  else if c = 0x50 then objClass50
  else if c = 0x60 then objClass60
  else if c = 0x70 then objClass70
  else if c = 0x80 then objClass80
  else if c = 0x90 then objClass90
  else if c = 0xA0 then objClassA0
  else if c = 0xB0 then objClassB0
  else if c = 0xC0 then objClassC0
  else if c = 0xD0 then objClassD0
  else []

/-- The row of one gate (R391, R398): blocks of Table 18-4 and the gates of the five regions. -/
def gateRow : ObjRow := ⟨0x20, 0x24, 0, 0x80, 10, 1, 1, .rw, 0, .nat 0 1 1, false, false⟩

/-- The row an object key names; none where the member is undefined (R14). -/
def objRow (key : Nat) : Option ObjRow :=
  let c := key / 65536
  let i := key / 256 % 256
  let m := key % 256
  if c = 0xB0 && 0x20 ≤ i && i ≤ 0x24 then
    if m = 0x80 || (gateBlocks.any (fun g => g.1 = i - 0x20 && g.2.contains m)) then some gateRow else none
  else (objClass c).find? (fun r => decide (r.i0 ≤ i) && decide (i ≤ r.i1) && decide (r.m0 ≤ m) && decide (m ≤ r.m1))

end Sys2Proof.Machine
end

