-- ==== Sys2Proof/Machine/State.lean ====
section
/-! DEFINITION. The state of the block as plain data: every register, counter, store, latch and timer the spec names, grouped by
chapter. The default of each field is its value at reset. -/

namespace Sys2Proof.Machine

/-! ### Modes, start and escalation (02_modes_and_start.md) -/

/-- What has to end before a mode or a hold may be left (R460, Table 2-11). -/
inductive Cause where
  /-- A block isolated (R18): present until the next module reset. -/
  | isolated (region block : Nat)
  /-- Watchdog, DDR, fabric or power-controller error: present until the next module reset. -/
  | untilReset
  /-- A regulator or the 12 V input out of range. -/
  | regulator
  /-- Die temperature above 125 °C (R443). -/
  | dieTemp
  /-- CLOCK_LOSS until the reference is restored (R388). -/
  | clockLoss
  /-- Axis fault of a loop: joint channel and loop index (R250). -/
  | axisFault (channel outer : Nat)
  /-- Stall of an auxiliary axis whose loop is not enabled (R361). -/
  | stall (axis : Nat)
  /-- A HOLD_REQUEST input, wired (`net` false) or on the network. -/
  | holdRequest (net : Bool) (index : Nat)
  /-- Input DISCREPANCY (R320). -/
  | discrepancy (input : Nat)
  /-- STUCK_HS (`low` false) or STUCK_LS of a safe output. -/
  | stuck (output : Nat) (low : Bool)
  /-- OVER_TEMP of a safe output. -/
  | overTemp (output : Nat)
  /-- A safety channel silent, as seen by the processor (`byChamois` false) or by Chamois (R310). -/
  | silent (byChamois : Bool)
  /-- A cross mismatch of one value (R310). -/
  | crossMismatch (value : Nat)
  /-- Oscillator mismatch, found by the processor or by Chamois (R310). -/
  | oscMismatch (byChamois : Bool)
  /-- Any other stop Chamois demands: until Chamois reports the event ended (R44). -/
  | chamoisStop
  /-- Every error word that is present only at its own instant. -/
  | momentary
  deriving DecidableEq, Repr

/-- The hold of one arm (R37). -/
structure ArmHold where
  /-- `arm.hold`. -/
  held : Bool := false
  /-- `arm.hold_cause`: the error word of the hold, kept after it ends. -/
  cause : Word := 0
  /-- Every cause recorded since the hold was entered (R460). -/
  causes : List Cause := []
  /-- The held arm moves again from the first plan committed after the release (R37). -/
  released : Bool := false
  deriving DecidableEq, Repr

/-- A SET_MODE command that waits for its transition (Table 3-12). -/
structure ModeWait where
  origin : Origin
  target : Mode
  deriving DecidableEq, Repr

/-- Mode, transition and escalation state (R36 to R44, R54). -/
structure ModeState where
  /-- `cell.mode` (Table 2-2). -/
  mode : Mode := .boot
  /-- Accepted target that starts at the next tick start (R40, R41). -/
  accepted : Option Mode := none
  /-- Target of the transition in progress, the value of `cell.mode_target` while one is (R40). -/
  target : Option Mode := none
  /-- The transition in progress is complete; `cell.mode` takes the target at the next tick start (R40). -/
  complete : Bool := false
  /-- `cell.mode_cause` (Table 2-2). -/
  cause : Word := 0
  /-- The error word of the trigger that was accepted last and whose mode is not entered yet. -/
  triggerWord : Word := 0
  /-- The error word of the target in progress. -/
  targetWord : Word := 0
  /-- `cell.mode_resume` (Table 2-2); none reads 0. -/
  resume : Option Mode := none
  /-- Every cause recorded since HOLD or FAULT was entered or triggered (R44, R460). -/
  causes : List Cause := []
  /-- SET_MODE commands whose transition has not completed. -/
  waiting : List ModeWait := []
  /-- The FAULT in force was entered in BOOT (Table 2-3). -/
  faultInBoot : Bool := false
  /-- Herd time at which the last valid reset edge completed, while its window is open (R44). -/
  resetEdge : Option Nat := none
  /-- A HOLD that waits for the next re-planning period (Table 2-9, Ibex row): its error word. -/
  holdAtPeriod : Option Word := none
  /-- A RESET command, or the SET_MODE that leads to BOOT, has completed: the clock count at its completion (R38, R44). -/
  resetPosted : Option Nat := none
  /-- The last completion before the reset has been posted, that of the SET_MODE that leads to BOOT (R44). -/
  resetFinal : Bool := false
  /-- The eight arms' holds (R37). -/
  arms : List ArmHold := List.replicate 8 {}
  /-- Blocks isolated since the last module reset, as (region, block) (R18). -/
  isolated : List (Nat × Nat) := []
  /-- Contained errors of the last second: (region, block, herd time) (R54). -/
  contained : List (Nat × Nat × Nat) := []
  /-- `cell.refusal_report` (Table 2-8). -/
  refusal : Bytes := List.replicate 40 0
  deriving DecidableEq, Repr

/-- Outcome codes of a start step (Table 2-6). -/
inductive StepOutcome where
  | notRun | running | ok | okAlt | failed | failedAlt | timeout
  deriving DecidableEq, Repr

/-- The failed-start record (Table 2-6). -/
structure StartRecord where
  consecFailed : Nat := 0
  startSeq : Nat := 0
  slotUsed : Nat := 0xFF
  firstFailed : Nat := 0
  /-- STEP[1..14]: attempts in this attempt and outcome. -/
  steps : List (Nat × StepOutcome) := List.replicate 14 (0, .notRun)
  failWord : Word := 0
  deriving DecidableEq, Repr

/-- Start state (R45 to R51). -/
structure StartState where
  /-- The record as this attempt keeps it; `cell.start_record`. -/
  record : StartRecord := {}
  /-- The record as B02 of this attempt found it (R48). -/
  loaded : StartRecord := {}
  /-- A rescue start follows: B02 found three failed starts in a row (R51). -/
  rescueStart : Bool := false
  /-- The attempt has completed (CONFIGURE entered, or a completed start in FAULT). -/
  done : Bool := false
  /-- An attempt is in progress; steps of it that have run. -/
  running : Bool := false
  step : Nat := 0
  /-- Clock count at which the step, or its try, in progress began: its budget counts from it (R45). -/
  since : Nat := 0
  /-- A FAULT-class error has been reported during B01 to B08: the step in progress fails (R49). -/
  failDue : Bool := false
  /-- MODE_STATUS.RESCUE (R51). -/
  rescue : Bool := false
  /-- The rescue start runs on the RC and serves PCIe alone (R383). -/
  rescuePcieOnly : Bool := false
  /-- The firmware slot in use (R45, B06 and B07). -/
  slot : Nat := 0
  /-- PAIR_ID as sampled in B02. -/
  pairId : Nat := 0
  /-- The check of the stored image after B14 is still running (R47). -/
  storedCheck : Bool := false
  deriving DecidableEq, Repr

/-! ### Zewen mailboxes, sessions and objects (03_zewen_interface.md) -/

/-- Session states (Table 3-9). -/
inductive SessionState where
  | closed | opened | challenged | privileged | closing
  deriving DecidableEq, Repr

/-- A completion entry (Table 3-5) with its result data. -/
structure Completion where
  mailbox : Nat
  txid : BitVec 16
  status : Nat
  opcode : Nat
  phase : Bool
  inBulk : Bool
  resultLen : Nat
  doneTime : Nat
  /-- The inline RESULT, or the bulk data when `inBulk`. -/
  result : Bytes
  deriving DecidableEq, Repr

/-- A challenge: nonce, time and key slot (R65, R67). -/
structure Challenge where
  nonce : Bytes
  time : Nat
  slot : Nat
  deriving DecidableEq, Repr

/-- One mailbox and its session (R58 to R74). -/
structure Mailbox where
  /-- CMD_TAIL of CMD_DB. -/
  cmdTail : Nat := 0
  /-- CMD_HEAD of MBX_PTR. -/
  cmdHead : Nat := 0
  /-- CPL_TAIL of MBX_PTR. -/
  cplTail : Nat := 0
  /-- CPL_HEAD of CPL_DB. -/
  cplHead : Nat := 0
  /-- MBX_STATE.DB_ERR (R61). -/
  dbErr : Bool := false
  /-- End of the lockout; MBX_STATE.LOCKOUT while set (R68). -/
  lockoutEnd : Option Nat := none
  /-- MBX_STATE.STATE (Table 3-9). -/
  state : SessionState := .closed
  /-- The transport the session is bound to (R58). -/
  via : Transport := .pcie
  /-- MBX_STATE.DISCARDS, saturating at 0xFFFF. -/
  discards : Nat := 0
  /-- SESSION_ID of the session (R65). -/
  sessionId : Nat := 0
  /-- CPL_TAIL when the session opened, from which PHASE counts the passes (R60). -/
  phaseBase : Nat := 0
  /-- The outstanding nonce (R65). -/
  challenge : Option Challenge := none
  /-- Session key SK (R67). -/
  sk : Bytes := []
  /-- Wrong UNLOCKs in a row (R68). -/
  wrongUnlocks : Nat := 0
  /-- Key slot that the session was unlocked with (R67, R420). -/
  keySlot : Nat := 0
  /-- TXIDs in flight with their opcodes, oldest first (R71). -/
  inFlight : List Origin := []
  /-- UDP entries accepted and not started (R73). -/
  accepted : List (Transport × Entry) := []
  /-- Acceptance window: highest accepted SEQ (R73). -/
  windowHigh : Option Nat := none
  /-- Accepted SEQs inside the window (R73). -/
  seen : List Nat := []
  /-- Completions kept for resending (R74). -/
  kept : List Completion := []
  /-- Herd time of the last valid datagram (R69). -/
  lastDatagram : Nat := 0
  /-- Origin of the CLOSE_SESSION that waits for the drain (R66). -/
  closing : Option Origin := none
  /-- Command ring entries of BAR4 as they were consumed, by ring position, rising (Table 3-2). -/
  cmdRing : List (Nat × Entry) := []
  /-- Completion ring entries of BAR4, by ring position, rising (Table 3-2). -/
  cplRing : List (Nat × Completion) := []
  /-- Bulk window of BAR4: bytes that are not 0, by offset, rising (Table 3-2). -/
  window : List Host.Cell := []
  deriving DecidableEq, Repr

/-- One MSI-X table entry (R455). [DESIGN CHOICE, log 9] -/
structure MsixEntry where
  addr : Nat := 0
  data : Word := 0
  /-- Per-vector mask; set at reset as the PCI Express Base Specification has it. -/
  masked : Bool := true
  deriving DecidableEq, Repr

/-- The PCIe function: MSI-X structures and vector spacing (R55, R64, R454, R455). [DESIGN CHOICE, log 9] -/
structure MsixState where
  /-- Function mask; MSI-X itself is enabled. -/
  functionMask : Bool := false
  table : List MsixEntry := List.replicate 32 {}
  /-- Pending bit array. -/
  pba : BitVec 32 := 0
  /-- Vectors whose 1 µs spacing is running, and the clock count of each vector's last message (R64). -/
  spacing : BitVec 32 := 0
  sent : List Nat := List.replicate 32 0
  /-- Vectors with a message that waits for the end of the spacing (R64). -/
  deferred : BitVec 32 := 0
  deriving DecidableEq, Repr

/-- Views, sessions shared by all mailboxes, and queued object writes. [DESIGN CHOICE, log 6] -/
structure ZewenState where
  mbx : List Mailbox := List.replicate 8 {}
  /-- The mailbox served last (R63); 7, so that mailbox 0 is served first. -/
  lastServed : Nat := 7
  /-- VIEW_DENIED (R76). -/
  viewDenied : Nat := 0
  msix : MsixState := {}
  /-- The PCIe link is up. -/
  linkUp : Bool := false
  /-- Malformed UDP datagrams that name no mailbox (R57); those that name one count in its `security.tag_discards`. -/
  malformed : Nat := 0
  /-- Commands executed so far: the order R79 and R201 refer to. -/
  executed : Nat := 0
  deriving DecidableEq, Repr

/-- One record of an object write (R77). -/
structure WriteRecord where
  key : Nat
  type : Nat
  value : Bytes
  deriving DecidableEq, Repr

/-- An OBJ_WRITE executed and not yet in effect (R79). -/
structure QueuedWrite where
  origin : Origin
  records : List WriteRecord
  /-- Some record was skipped under VIEW_LIMITED (R78). -/
  limited : Bool
  /-- A tick has started since it was executed. -/
  due : Bool := false
  deriving DecidableEq, Repr

/-- The staging area of one session (R86). -/
structure Staging where
  mbx : Nat
  total : Nat
  imageId : Nat
  /-- The instant it was opened: objects in force then (R85). -/
  base : List (Nat × Nat)
  /-- Chunks written, newest first: offset and data. -/
  chunks : List (Nat × Bytes) := []
  deriving DecidableEq, Repr

/-- An IMAGE_COMMIT in flight, or the check of the stored image (R86, R47). -/
structure Commit where
  /-- None for the stored image of B14. -/
  origin : Option Origin
  checkOnly : Bool
  /-- The image goes into the cell image store when it is activated (STORE). -/
  store : Bool := false
  /-- The image came from the other module of a pair, whose activation instant it takes (R408). -/
  peer : Bool := false
  image : Bytes
  base : List (Nat × Nat)
  /-- The check has passed; the image is activated at the next tick start. -/
  passed : Bool := false
  deriving DecidableEq, Repr

/-- Cell images (R83 to R86). -/
structure ImageState where
  staging : Option Staging := none
  commit : Option Commit := none
  /-- IMAGE_ID of the active image. -/
  activeId : Nat := 0
  /-- `cell.activation_time`; 0 when no image is active. -/
  activation : Nat := 0
  /-- SHA-256 digest of the active image (R83). -/
  digest : Bytes := []
  deriving DecidableEq, Repr

/-! ### Registers of the device, errors and interrupts (22_register_map.md) -/

/-- ERR and INT registers and the register read latches (R449, R452 to R454). -/
structure RegState where
  errWord : Word := 0
  errFirst : Word := 0
  errCount : Nat := 0
  intStatus : BitVec 10 := 0
  intMask : BitVec 10 := 0x3FE
  solverDone : BitVec 8 := 0
  /-- HT_NOW_HI and HT_NOW_FRAC latches of BAR0 and BAR2 (R449). -/
  htHi : List Nat := [0, 0]
  htFrac : List Nat := [0, 0]
  /-- ACQ_TRIG_TIME_HI latches of BAR0 and BAR2 (R449). -/
  acqHi : List Nat := [0, 0]
  /-- GATED_ACCESS (R393). -/
  gatedAccess : Nat := 0
  deriving DecidableEq, Repr

/-- What the clock in progress has added to counters that a read clears and to bits that a 1 clears (R14, R450). -/
structure ClockNew where
  errCount : Nat := 0
  /-- First of the error words written in this clock in the order of R452, and whether ERR_FIRST has been filled in it. -/
  errMin : Option Word := none
  firstNew : Bool := false
  gated : Nat := 0
  txts : Nat := 0
  /-- INT_STATUS bits set by an event of this clock, and those among them that were set before. -/
  ints : BitVec 10 := 0
  intsAgain : BitVec 10 := 0
  done : BitVec 8 := 0
  /-- CLK_EVENT bits, likewise. -/
  clkEvent : BitVec 8 := 0
  clkAgain : BitVec 8 := 0
  stepped : Bool := false
  /-- DB_ERR of each mailbox. -/
  dbErr : BitVec 8 := 0
  /-- Counter objects by key, and what was added to each. -/
  objs : List (Nat × Nat) := []
  deriving DecidableEq, Repr

/-! ### Herd time (04_herd_time.md) -/

/-- HT_STATUS.STATE. -/
inductive HerdMode where
  | free | acquiring | locked | holdover
  deriving DecidableEq, Repr

/-- `time.domain_state` (Table 4-6). -/
inductive DomainMode where
  | disabled | listening | uncalibrated | locked | lost
  deriving DecidableEq, Repr

/-- One PTP domain's ordinary clock and its background servo (R94, R95). -/
structure PtpDomain where
  /-- `time.domain_state`. -/
  state : DomainMode := .disabled
  /-- The integral iᵈ, `time.domain_integral`. -/
  integral : F64 := 0
  /-- Last θ against herd time, in 2⁻¹⁶ ns, `time.offset_ns`. -/
  offset : Int := 0
  /-- meanPathDelay in 2⁻¹⁶ ns. -/
  meanPath : Int := 0
  /-- `time.grandmaster_id`. -/
  gm : Nat := 0
  /-- The Announce data of the parent the BMCA chose (R94). -/
  parent : Option Announce := none
  /-- Virtual clock in 2⁻³² ns, none before the first measurement (R95). -/
  virt : Option Int := none
  /-- Rate adjustment of the virtual clock (R95). -/
  virtAdj : Int := 0
  /-- Measurements in a row within `time.lock_ns` (R93). -/
  lockRun : Nat := 0
  /-- Herd time of the previous measurement (Δ of R92). -/
  lastMeasure : Option Nat := none
  /-- Senders of Announce messages that are not the parent, with the herd time of their last Announce. -/
  foreign : List (Nat × Nat) := []
  /-- Port timestamp of the last valid Sync (R96). -/
  lastSync : Option Nat := none
  /-- t₁ and t₂ of the last Sync in 2⁻¹⁶ ns, for the delay request-response mechanism. -/
  lastT1 : Int := 0
  lastT2 : Int := 0
  /-- Herd time since which the domain has stayed LOCKED (R96). -/
  lockedSince : Option Nat := none
  /-- Herd time of the last Announce of the parent (R96). -/
  lastAnnounce : Option Nat := none
  /-- logAnnounceInterval the parent carries. -/
  announceInterval : Int := 0
  /-- sequenceIds of Sync, Announce and Delay_Req or Pdelay_Req sent. -/
  syncSeq : Nat := 0
  announceSeq : Nat := 0
  delaySeq : Nat := 0
  /-- Egress timestamp t₃ of the delay request outstanding, in ns. -/
  delayReqAt : Option Nat := none
  /-- Herd time at which the domain last sent a Sync, an Announce and a delay request. -/
  syncSent : Option Nat := none
  announceSent : Option Nat := none
  delaySent : Option Nat := none
  /-- The domain has been LOCKED, and its present lock is one it has gained again (R96). -/
  everLocked : Bool := false
  relocked : Bool := false
  deriving DecidableEq, Repr

/-- One entry of the transmit timestamp queue (R101). -/
structure TxStamp where
  port : Nat
  frameId : Nat
  time : Nat
  deriving DecidableEq, Repr

/-- Holdover data (R97). -/
structure Holdover where
  entered : Nat
  integral : F64
  drift : F64
  /-- |θₕ| in 2⁻¹⁶ ns. -/
  lastOffset : Nat
  deriving DecidableEq, Repr

/-- The herd-time unit (R87 to R103). -/
structure HerdState where
  /-- HT is running (R458). -/
  running : Bool := false
  /-- HT (R87). -/
  ht : Nat := 0
  /-- HT_FRAC (R87). -/
  frac : Nat := 0
  /-- Timing-clock edges since the last tick start. -/
  edges : Nat := 0
  /-- The servo's part of ADJ (R92). -/
  servoAdj : Int := 0
  /-- slew_rem in 2⁻³² ns (R95). -/
  slewRem : Int := 0
  /-- slew_term in ADJ units (R95); 0 when no slew is in progress. -/
  slewTerm : Int := 0
  /-- The servo integral i in ppb (R92). -/
  integral : F64 := 0
  /-- HT_STATUS.STATE. -/
  state : HerdMode := .free
  /-- HT_STATUS.STEPPED. -/
  stepped : Bool := false
  /-- HT_STATUS.SELECTED: the followed PTP domain (R96). -/
  selected : Option Nat := none
  /-- Measurements of the followed source in a row within `time.lock_ns` (R93). -/
  lockRun : Nat := 0
  /-- Herd time follows its source: a measurement has been taken since it began to (R93, R95). -/
  following : Bool := false
  /-- A step that waits for the next tick start, in 2⁻³² ns (R88). -/
  stepPending : Option Int := none
  /-- Herd time of the previous measurement (Δ of R92). -/
  lastMeasure : Option Nat := none
  /-- Last offset measured, in 2⁻¹⁶ ns (R97). -/
  lastOffset : Int := 0
  /-- Herd time, time spent LOCKED in ns and integral at each measurement while LOCKED, newest first, 1,024 s (R97). -/
  history : List (Nat × Nat × F64) := []
  /-- Time spent LOCKED up to the last measurement, in ns (R97). -/
  lockedNs : Nat := 0
  holdover : Option Holdover := none
  /-- Last accepted PPS_IN edge (R102). -/
  lastPps : Option Nat := none
  /-- PPS_IN edges ignored in a row (R102). -/
  ppsRejectRun : Nat := 0
  /-- Whole second of the last PPS_OUT edge (R102). -/
  ppsSecond : Option Nat := none
  /-- Levels of PPS_OUT and CLK10_OUT at the last clock edge (R102). -/
  ppsOut : Bool := false
  clk10Out : Bool := false
  /-- Transmit timestamp queue, head first, and the timestamps of frames that are not sent yet, by time (R101). -/
  txts : List TxStamp := []
  txtsDue : List TxStamp := []
  /-- TXTS_OVF (R101). -/
  txtsOvf : Nat := 0
  /-- `time.txts_overflows`: the count that reading does not clear. -/
  txtsTotal : Nat := 0
  /-- k of the tick in progress (R89); the tick counter is k modulo 2³² (R9). -/
  tick : Nat := 0
  /-- The two PTP domains. -/
  domains : List PtpDomain := [{}, {}]
  deriving DecidableEq, Repr

/-- What the AON domain keeps across module resets (R15, R48, R65, R90, R425). -/
structure AonState where
  /-- EPOCH of each mailbox (R65). -/
  epochs : List Nat := List.replicate 8 0
  /-- SESSION_ID counter: the last one issued (R65). -/
  sessionCounter : Nat := 0
  /-- Failed-start record in retention RAM; none when its CRC is not valid (R48). -/
  record : Option StartRecord := none
  /-- The CRC of the retention RAM is right, as B02 will find it (R90). -/
  crcOk : Bool := true
  /-- HT and servo integral as stored every 1 ms; none when not valid (R90). -/
  herd : Option (Nat × F64) := none
  /-- AON timer since the value was stored, in ns (R90). -/
  timer : Nat := 0
  /-- RESERVED_END and NEXT of the index store: RESERVED_END in AON (R425). -/
  reservedEnd : Option Nat := none
  deriving DecidableEq, Repr

/-! ### Tahixa (05_tahixa_schedule.md, 06_tahixa_startup_and_redundancy.md) -/

/-- A copy of a frame accepted in an upstream static slot on one line in the tick in progress (R137, R138). -/
structure SlotCopy where
  /-- Frame start in 0.1 ns. -/
  start : Nat
  payload : Bytes
  /-- LEN of the header: the data bytes. -/
  len : Nat
  age : Nat
  notReady : Bool
  seq : Nat
  /-- DYN of the header: the request it carries (R118). -/
  dyn : Nat := 0
  deriving DecidableEq, Repr

/-- One upstream static slot: its buffer and its ages (R121, R123, R125, R138). -/
structure UpSlot where
  /-- Payload of tick m, which the consumers receive. -/
  payload : Bytes := List.replicate 60 0
  /-- The frame the buffer holds: the last one accepted, NOT_READY or not (R123). -/
  held : Bytes := []
  /-- Tick m of the last fresh frame under the active image. -/
  freshTick : Option Nat := none
  /-- AGE_m. -/
  freshAge : Nat := 0
  /-- A frame has been accepted under the active image (R123). -/
  holds : Bool := false
  /-- Copies accepted in the tick in progress, line A and line B. -/
  copyA : Option SlotCopy := none
  copyB : Option SlotCopy := none
  /-- The slot's operand of the tick in progress has been posted. -/
  posted : Bool := false
  /-- The window of the tick in progress is closed (R242). -/
  closed : Bool := false
  /-- SAFE_SEQ and tick last accepted, per line (R125). -/
  seqA : Option (Nat × Nat) := none
  seqB : Option (Nat × Nat) := none
  /-- Consecutive ticks with a single copy (R138). -/
  singleRun : Nat := 0
  /-- The two copies of this tick were discarded for disagreeing (R138). -/
  mismatch : Bool := false
  /-- The run has just passed the limit of R324; its SAFETY_SINGLE is due. -/
  singleDue : Bool := false
  /-- Data bytes of the last fresh frame (LEN). -/
  len : Nat := 0
  deriving DecidableEq, Repr

/-- A control output waiting for a downstream slot (R26, R27). -/
structure WaitingOutput where
  loop : Nat
  sampleTime : Nat
  payload : Bytes
  deriving DecidableEq, Repr

/-- One downstream static slot (R26, R122, R125). -/
structure DownSlot where
  payload : Bytes := List.replicate 60 0
  len : Nat := 0
  age : Nat := 255
  /-- A producer has delivered under the active image. -/
  arrived : Bool := false
  /-- A payload newer than the last one sent. -/
  fresh : Bool := false
  /-- Outputs waiting for the slot's next commit point, oldest first (R27). -/
  waiting : List WaitingOutput := []
  /-- SAFE_SEQ of the next frame (R125). -/
  safeSeq : Nat := 0
  /-- Tick for which the slot was last sent. -/
  sent : Option Nat := none
  deriving DecidableEq, Repr

/-- `tahixa.node_state` (R134). -/
inductive NodeMode where
  | absent | syncing | integrated | lost
  deriving DecidableEq, Repr

/-- One Tahixa node as the module sees it. -/
structure NodeState where
  state : NodeMode := .absent
  /-- Measurements since ABSENT or LOST (R134). -/
  measured : Nat := 0
  cleanTicks : Nat := 0
  silentTicks : Nat := 0
  /-- Measurements in a row without an accepted DELAY_RESP (R134). -/
  unanswered : Nat := 0
  /-- Last eight delays D in 1/8 ns, newest first: line A and line B, and the paths through A1 and through B1 (R111, R141). -/
  delayA : List Int := []
  delayB : List Int := []
  altA : List Int := []
  altB : List Int := []
  /-- Measurements in a row that jumped, newest first (R111). -/
  jumpsA : List Int := []
  jumpsB : List Int := []
  /-- The node waits for its first measurement through A1, or through B1, after a heal of that ring (R141). -/
  cutA : Bool := false
  cutB : Bool := false
  /-- δ of the last accepted frame in 0.1 ns (R113). -/
  lastOffset : Int := 0
  outerRun : Nat := 0
  /-- In the cycle in progress: a frame of the node was seen, one was outer (R114). -/
  sawFrame : Bool := false
  sawOuter : Bool := false
  /-- The count has just reached 16; its DRIFT_WARN is due. -/
  driftDue : Bool := false
  /-- `tahixa.node_lines`. -/
  lines : Nat := 0
  /-- Toggle of the last request granted (R118). -/
  grantedToggle : Bool := false
  /-- The pending request: toggle and size (R118), and the time at which its frame was posted, in 0.1 ns (R119). -/
  request : Option (Bool × Nat) := none
  requestAt : Nat := 0
  deriving DecidableEq, Repr

/-- One GRANT entry (Table 5-10). -/
structure GrantEntry where
  node : Nat
  length : Nat
  start : Nat
  deriving DecidableEq, Repr

/-- A host frame waiting to be sent (R120). -/
structure HostFrame where
  dst : Nat
  tsReq : Bool
  tagged : Bool
  frameId : Nat
  data : Bytes
  deriving DecidableEq, Repr

/-- A host frame received (R120). -/
structure RxMessage where
  src : Nat
  flags : Nat
  rxTime : Nat
  data : Bytes
  deriving DecidableEq, Repr

/-- `tahixa.net_state` (Table 6-2). -/
inductive NetMode where
  | off | listen | coldstart | backoff | starting | running | follow
  deriving DecidableEq, Repr

/-- Where the module stands in its downstream dynamic segment (R117, R129). -/
inductive DynStage where
  | grant | delayReq | startup | firmware | host | done
  deriving DecidableEq, Repr

/-- One ring (R139 to R142). -/
structure RingState where
  isOpen : Bool := false
  /-- The ring was found open in this tick and opens from the next (R139). -/
  opening : Bool := false
  /-- Last eight loop delays in 0.1 ns, newest first. -/
  loop : List Int := []
  /-- The closure copy of slot 0 was detected in this tick. -/
  closureSeen : Bool := false
  restoreAt : Option Nat := none
  deriving DecidableEq, Repr

/-- The copy of a STARTUP frame taken last (R137). -/
structure StartupCopy where
  header : Bytes
  line : Nat
  /-- Frame start in 0.1 ns. -/
  start : Int
  data : Bytes
  deriving DecidableEq, Repr

/-- The Tahixa MACs and the network state of the module. -/
structure TahixaState where
  net : NetMode := .off
  /-- `tahixa.leader`. -/
  leader : Nat := 0
  round : Nat := 0
  /-- Frame start of the module's own STARTUP in 0.1 ns, while its window is open (R130). -/
  windowStart : Option Nat := none
  /-- A provisional cycle has been heard in LISTEN (R132). -/
  provisional : Bool := false
  /-- Cycles spent in LISTEN (R130). -/
  listenCycles : Nat := 0
  /-- Time at which the back-off ends, in 0.1 ns (R131). -/
  backoffEnd : Option Nat := none
  /-- Cycle length and SCHED_ID of the cycle running (R133). -/
  cycleNs : Nat := 62500
  schedId : Nat := 0
  up : List (Nat × UpSlot) := []
  down : List (Nat × DownSlot) := []
  nodes : List (Nat × NodeState) := []
  /-- Grant in force for the cycle in progress, and the one built for the next (R119). -/
  grantNow : List GrantEntry := []
  grantNext : List GrantEntry := []
  /-- The pointer node of R119. -/
  pointer : Nat := 0
  /-- Node measured in this cycle and in the next (R111); 0 none. -/
  measuring : Nat := 0
  measureNext : Nat := 0
  lastMeasured : Nat := 0
  /-- Cut nodes that are measured before the order of R111 resumes, ascending (R141). -/
  cutQueue : List Nat := []
  /-- Frame start of the DELAY_REQ of this cycle in 0.1 ns, and a DELAY_RESP has been accepted in it. -/
  reqStart : Option Nat := none
  answered : Bool := false
  /-- Next mini-slot and stage of the downstream dynamic segment. -/
  dynNext : Nat := 0
  dynStage : DynStage := .done
  /-- Upstream dynamic frames accepted in this cycle: first mini-slot, line, frame start in 0.1 ns, data (R107, R137). -/
  dynCopies : List (Nat × Nat × Nat × Bytes) := []
  startup : Option StartupCopy := none
  hostTx : List HostFrame := []
  firmwareTx : List HostFrame := []
  hostRx : List RxMessage := []
  rings : List RingState := [{}, {}]
  /-- Synchronised links: bit per port 0 to 4. -/
  linkUp : BitVec 5 := 0
  deriving DecidableEq, Repr

/-! ### Cell planning (07_cell_planning.md) -/

/-- A queued waypoint (R162, R163). -/
structure Waypoint where
  /-- Plan time at which the reference reaches it. -/
  theta : Nat
  /-- Positions of joints 0 to 7 in joint units. -/
  q : List F32
  pathId : Nat
  deriving DecidableEq, Repr

/-- A PATH_REQUEST that waits for the next snapshot (R162). -/
structure PathWait where
  origin : Origin
  arm : Nat
  replace : Bool
  pathId : Nat
  /-- Herd time at which it was executed. -/
  at_ : Nat
  /-- DT_US and positions. -/
  points : List (Nat × List F32)
  deriving DecidableEq, Repr

/-- The look-ahead of a plan: for joints 0 to 7 position, velocity, acceleration and jerk at knots 0 to K, in joint units (R150). -/
structure LookAhead where
  /-- Plan time of knot 0. -/
  origin : Nat
  rows : List (List (F64 × F64 × F64 × F64))
  deriving DecidableEq, Repr

/-- A person as the processor channel of the separation monitor forms one, and the form of Chamois (R294). -/
structure PersonSlot where
  sensor : Nat
  worst : Bool
  /-- In the cell frame, as the processor channel forms them, m. -/
  x : F32
  y : F32
  radius : F32
  height : F32
  /-- As Chamois forms them, q16.16 m. -/
  cx : Int
  cy : Int
  cRadius : Int
  cHeight : Int
  /-- T_lat in ns. -/
  latency : Nat
  deriving DecidableEq, Repr

/-- What one arm contributed to the snapshot (R149, R156). -/
structure ArmSnapshot where
  arm : Nat
  /-- θ₀. -/
  origin : Nat
  /-- σ in 1/256. -/
  sigma : Nat
  /-- Position (q32.32 counts), velocity and acceleration (counts/s, counts/s²) of joints 0 to 7 at knot 0. -/
  knot0 : List (Int × F64 × F64)
  /-- The arm is pinned at its standstill pose (Table 7-2). -/
  pinned : Bool
  /-- The arm's approach-speed limit of the last separation step, mm/s. -/
  vlim : F64
  /-- Its source was MOVE, JOG or STOPPED: the commit test treats it as absent (R220). -/
  exempt : Bool := false
  /-- The arm stood in MOVE with no move active, or in STOPPED (R220). -/
  free : Bool := false
  /-- Look-ahead about which its part of the problem is linearised (R152). -/
  look : Option LookAhead := none
  /-- Capsule nearest to a person in the last separation step, and the person (R156). -/
  near : Option (Nat × PersonSlot) := none
  deriving DecidableEq, Repr

/-- The snapshot of a period (R156). -/
structure Snapshot where
  /-- T. -/
  time : Nat
  mode : Mode
  arms : List ArmSnapshot
  /-- Zones the arms hold or have requested at T: (arm, zone, start, end, granted). -/
  leases : List (Nat × Nat × Nat × Nat × Bool)
  /-- Objects as they were at T (R156, R165). -/
  objs : List (Nat × Nat) := []
  deriving DecidableEq, Repr

/-- Where the period stands (R155). -/
inductive PeriodPhase where
  | idle | posting | solving | testing | ended
  deriving DecidableEq, Repr

/-- Planner state of one arm. -/
structure ArmPlan where
  /-- θ, `plan.theta_ns` (R146). -/
  theta : Nat := 0
  /-- ρ in 1/256, `plan.rate` (R147). -/
  rate : Nat := 256
  /-- σ in force at the snapshot, in 1/256 (R147). -/
  sigma : Nat := 256
  /-- Plan the arm follows, `plan.committed` (R148). -/
  following : Option PlanRecord := none
  /-- Plans awaiting their origin, newest first; `plan.pending` shows the newest (R148). -/
  pending : List PendingPlan := []
  /-- Queued waypoints, oldest first (R163). -/
  path : List Waypoint := []
  /-- Where the reference comes from: the start of the running path, or the last waypoint that has left the queue (R163). -/
  pathStart : Nat × List F32 := (0, [])
  /-- `plan.path_id`. -/
  pathId : Nat := 0
  /-- Look-ahead of the plan committed last (R152). -/
  look : Option LookAhead := none
  deriving DecidableEq, Repr

/-- The planner (R146 to R165). -/
structure PlanState where
  arms : List ArmPlan := List.replicate 8 {}
  /-- A committed plan that takes effect at the next period start, with the mode of its snapshot (R30, R157). -/
  committed : Option (Mode × List PlanRecord) := none
  /-- Arms of the committed plan whose snapshot found them free (R220). -/
  committedFree : List Nat := []
  /-- Code with which the period of the committed plan ends if it takes effect: 0 or 1 (R159). -/
  committedCode : Nat := 0
  snapshot : Option Snapshot := none
  phase : PeriodPhase := .idle
  /-- PATH_REQUESTs that wait for the next snapshot (R162). -/
  waits : List PathWait := []
  /-- `plan.structure`: the planner's resident structure. -/
  slot : Nat := 0
  /-- A structure has been built for the planner under the active image (R176). -/
  resident : Bool := false
  /-- Look-ahead knots to which the structure gives speed rows (R152, R154). -/
  speedKnots : Nat := 0
  /-- `plan.last_result`. -/
  lastResult : Nat := 0
  /-- `plan.last_commit_seq`. -/
  lastSeq : Nat := 0
  /-- `plan.consecutive_failures`. -/
  failRun : Nat := 0
  /-- The alarm of R159 has been raised in this run of failures. -/
  alarmed : Bool := false
  /-- T of the period in progress. -/
  periodStart : Nat := 0
  deriving DecidableEq, Repr

/-! ### Ibex solver array (08_ibex_solver_array.md) -/

/-- `solver.load_state` (Table 8-10). -/
inductive LoadMode where
  | empty | loading | analysing | resident | refused
  deriving DecidableEq, Repr

/-- A structure description (Table 8-1). -/
structure Structure where
  nVar : Nat
  nEq : Nat
  nIneq : Nat
  pCol : List Nat
  pRow : List Nat
  aCol : List Nat
  aRow : List Nat
  gCol : List Nat
  gRow : List Nat
  /-- Elimination order of the n columns of K (R173). -/
  perm : List Nat
  deriving DecidableEq, Repr

/-- The numeric arrays of a structure (Table 8-3). -/
structure SolverValues where
  p : List F64 := []
  a : List F64 := []
  g : List F64 := []
  q : List F64 := []
  b : List F64 := []
  l : List F64 := []
  u : List F64 := []
  xlo : List F64 := []
  xhi : List F64 := []
  d : List F64 := []
  v : List F64 := []
  deriving DecidableEq, Repr

/-- An interior-point iterate: primal, duals and slacks (R170, R181, R183). -/
structure Iterate where
  x : List F64 := []
  y : List F64 := []
  /-- Slacks of the rows of G. -/
  s : List F64 := []
  /-- Duals of the lower and upper bounds of the rows, and of the variables; 0 where a bound is infinite. -/
  zl : List F64 := []
  zu : List F64 := []
  xl : List F64 := []
  xu : List F64 := []
  deriving DecidableEq, Repr

/-- K by its pattern: for each column its rows and values (R171). -/
abbrev KktMatrix := List (List (Nat × F64))

/-- One column of the factor LDLᵀ, in elimination order: the column of K, its pivot, and the entries of L below it (R171). -/
structure FactorColumn where
  col : Nat
  pivot : F64
  rows : List (Nat × F64)
  deriving DecidableEq, Repr

/-- The result record of the last run (Table 8-6). -/
structure SolverResult where
  code : Nat := 0
  iterations : Nat := 0
  warmUsed : Bool := false
  warmRejected : Bool := false
  guardStop : Bool := false
  suspended : Bool := false
  factorValid : Bool := false
  wrongSign : Nat := 0
  seq : Nat := 0
  pivotCol : Nat := 0
  pivotVar : Nat := 0
  rPrimal : F64 := 0
  rDual : F64 := 0
  gap : F64 := 0
  objective : F64 := 0
  startTime : Nat := 0
  endTime : Nat := 0
  runTag : Nat := 0
  deriving DecidableEq, Repr

/-- One structure slot (R170 to R188). -/
structure SolverSlot where
  load : LoadMode := .empty
  loadError : Nat := 0
  /-- Description chunks received, newest first: offset and data (R175). -/
  chunks : List (Nat × Bytes) := []
  structure? : Option Structure := none
  /-- Structure ID (R174), strictly lower nonzeros of L, F and bytes of SRAM reserved (R172). -/
  id : Nat := 0
  nnzL : Nat := 0
  flops : Nat := 0
  sram : Nat := 0
  values : SolverValues := {}
  /-- Staged delta entries, oldest first: target, element, value (R178). -/
  staged : List (Nat × Nat × F64) := []
  /-- The factor; none when FACTOR_VALID is clear. -/
  factor : Option (List FactorColumn) := none
  /-- The last factorised K, which SPMV multiplies with (R179). -/
  lastK : Option KktMatrix := none
  warm : Option Iterate := none
  result : SolverResult := {}
  /-- Vectors the last run left (R188): x, y, z, s and w. -/
  iterate : Iterate := {}
  w : List F64 := []
  deriving DecidableEq, Repr

/-- Operations of a run (Table 8-4). -/
inductive RunOp where
  | ipm | factor | solve | spmv
  deriving DecidableEq, Repr

/-- A run queued or executing (R179, R180). -/
structure SolverRun where
  slot : Nat
  op : RunOp
  planner : Bool
  warm : Bool
  warmSlot : Nat
  deadline : Nat
  tag : Nat
  /-- Herd time of the tick start at which it took effect (R180). -/
  since : Nat := 0
  /-- Set when the run starts. -/
  startTime : Nat := 0
  started : Bool := false
  iterations : Nat := 0
  warmUsed : Bool := false
  warmRejected : Bool := false
  suspended : Bool := false
  wrongSign : Nat := 0
  /-- The iterate completed last, with its residuals. -/
  iterate : Iterate := {}
  rPrimal : F64 := 0
  rDual : F64 := 0
  gap : F64 := 0
  /-- Values the run uses (R178). -/
  values : SolverValues := {}
  /-- Duration of the run's previous factorisation in ns (R187). -/
  lastFactorNs : Option Nat := none
  /-- Code the run has ended with; its SOLVER_RUN_END is due. -/
  ended : Option Nat := none
  guardStop : Bool := false
  pivotCol : Nat := 0xFFFFFFFF
  pivotVar : Nat := 0xFFFFFFFF
  deriving DecidableEq, Repr

/-- The Ibex array. -/
structure SolverState where
  slots : List SolverSlot := List.replicate 8 {}
  /-- The run executing. -/
  current : Option SolverRun := none
  /-- A host run suspended for the planner (R180). -/
  parked : Option SolverRun := none
  /-- Host runs waiting, in starting order (R180). -/
  queue : List SolverRun := []
  /-- OBJ_WRITEs in effect whose runs have not all started: origin, status, slots (R179). -/
  waits : List (Origin × Nat × List Nat) := []
  deriving DecidableEq, Repr

/-! ### Pistes (09_piste_reservation.md) -/

/-- A pending extension (R203) or planner extension (R164). -/
structure ZoneExtension where
  origin : Option Origin
  arm : Nat
  lease : Nat
  newEnd : Nat
  at_ : Nat
  order : Nat
  deriving DecidableEq, Repr

/-- The piste arbiter. -/
structure PisteState where
  /-- Ascending LEASE_ID (Table 9-8). -/
  leases : List Lease := []
  /-- The last LEASE_ID issued under the active image (R199). -/
  lastId : Nat := 0
  requests : List ZoneRequest := []
  extensions : List ZoneExtension := []
  /-- Releases in execution order: LEASE_ID and herd time executed (R204). -/
  releases : List (Nat × Nat) := []
  /-- Execution counter of requests and extensions. -/
  orderCount : Nat := 0
  /-- Wait credits that are not 0: (arm, zone), credit (R207). -/
  credits : List ((Nat × Nat) × Nat) := []
  /-- Lease set of the plan or move each arm follows (R208). -/
  sets : List (List LeaseNeed) := List.replicate 8 []
  /-- Lease set of the committed plan that has not taken effect, per arm. -/
  nextSets : List (List LeaseNeed) := List.replicate 8 []
  /-- Set checked in the last pass, `piste.lease_set`. -/
  checkedSets : List (List LeaseNeed) := List.replicate 8 []
  /-- `piste.last_violation` per arm: zone, t_p, θ. -/
  lastViolation : List (Nat × Nat × Nat) := List.replicate 8 (0, 0, 0)
  /-- t_p of the last pass. -/
  lastPass : Nat := 0
  /-- Conflicting pairs of used zones z ≤ z′, computed at image activation (R195). -/
  conflicts : List (Nat × Nat) := []
  /-- Home zones are held: from activation until CONFIGURE or FAULT (R196). -/
  homesHeld : Bool := false
  /-- Tick of the last pass, so that each tick runs one (R205). -/
  passTick : Option Nat := none
  /-- The lease table at the last pass start, and home zones held then (`piste.zone_holders`). -/
  passLeases : List Lease := []
  passHomes : Bool := false
  /-- Zones held or requested as the last pass left them: (arm, zone, start, end, granted) (R156). -/
  passRows : List (Nat × Nat × Nat × Nat × Bool) := []
  /-- Completions of the pass in progress, which it posts at its end: origin, status, result (R205 step 7). -/
  done : List (Origin × Nat × Bytes) := []
  deriving DecidableEq, Repr

/-! ### Motion profiles (10_motion_profiles.md) -/

/-- A profile: a run of constant-jerk phases from a start state (R221 to R223), in counts or, for a coordinated
move, in parts of the line (R224). -/
structure Profile where
  /-- Plan or herd time at which it starts. -/
  start : Nat := 0
  p : F64 := 0
  v : F64 := 0
  a : F64 := 0
  /-- Phases: duration in ns and jerk. -/
  phases : List (Nat × F64) := []
  /-- Position at its end. -/
  target : F64 := 0
  deriving DecidableEq, Repr

/-- The limits a profile runs under, in counts: V, A, J (R221). -/
structure Limits where
  v : F64 := 0
  a : F64 := 0
  j : F64 := 0
  deriving DecidableEq, Repr

/-- What one channel does besides standing or following a plan (R215, R225 to R232). -/
inductive Motion where
  /-- A MOVE_JOINT with its limits (R227). -/
  | move (id : Nat) (lim : Limits) (prof : Profile)
  /-- A stop profile (R222); `accepted` when it is part of an accepted move (Table 10-8). -/
  | stop (accepted : Bool) (lim : Limits) (prof : Profile)
  /-- Conveyor following: conveyor, RATIO, OFFSET, END_POS in counts, error profile, e = 0 reached (R229). -/
  | follow (id conveyor : Nat) (ratio : F64) (offset : Int) (endPos : F64) (lim : Limits) (err : Profile) (locked : Bool)
  /-- A jog: signed target speed in counts/s, ramp, herd time of the last JOG (R230). -/
  | jog (speed : F64) (lim : Limits) (prof : Profile) (last : Nat)
  deriving DecidableEq, Repr

/-- `joint.state` (Table 10-10). -/
inductive ChannelMode where
  | standing | plan | moving | engaging | locked | jog | stopping
  deriving DecidableEq, Repr

/-- One profile channel (R214 to R216). -/
structure Channel where
  /-- POS, VEL, ACC and VEL_WORD of the last pass (Table 10-2). -/
  pos : Int := 0
  vel : F64 := 0
  acc : F64 := 0
  velWord : Int := 0
  flags : Nat := 0
  /-- `joint.state`. -/
  state : ChannelMode := .standing
  motion : Option Motion := none
  /-- `joint.move_id` and `joint.target`. -/
  moveId : Nat := 0
  target : Int := 0
  /-- Conveyor axes: last latch (position in q32.32 counts, speed, time) and age (R228). -/
  convPos : Int := 0
  convVel : F64 := 0
  convTime : Nat := 0
  convAge : Nat := 255
  convSeen : Bool := false
  convStale : Bool := false
  deriving DecidableEq, Repr

/-- A MOVE_LINEAR in progress: starts and distances of the eight joints in counts and s(θ) (R224). -/
structure LinearMove where
  id : Nat
  starts : List F64
  dists : List F64
  /-- SCALE of the command (Table 10-6). -/
  scale : F32
  lim : Limits
  prof : Profile
  stopping : Bool := false
  deriving DecidableEq, Repr

/-- The motion of one arm. -/
structure ArmMotion where
  source : ArmSource := .stand
  /-- A stop ramp is in progress (R233), `arm.stop_ramp`. -/
  ramp : Bool := false
  linear : Option LinearMove := none
  /-- Standing at the targets of its last move (R215). -/
  moveDone : Bool := false
  /-- ρ of the last pass as a binary64 fraction (R147, R233). -/
  rho : F64 := 0x3FF0000000000000
  /-- Lease set of the jog in progress: zones that contain the arm at acceptance (R230). -/
  jogZones : List Nat := []
  deriving DecidableEq, Repr

/-- Kinds of move command waiting for their pass (R225). -/
inductive MoveArgs where
  | joint (channel : Nat) (relative : Bool) (vel acc jerk : F32) (target : F64)
  | linear (arm : Nat) (relative : Bool) (scale : F32) (target : List F64)
  | conveyor (channel conv : Nat) (ratio : F64) (offset : Int) (endPos : F64)
  | jog (channel : Nat) (dir : Int) (speed : F32)
  deriving DecidableEq, Repr

/-- A move command that takes effect at the first pass at or after `due` (R225). -/
structure MoveWait where
  origin : Origin
  /-- Herd time at which the command was executed. -/
  since : Nat
  due : Nat
  args : MoveArgs
  /-- State of the channels it names at the pass it takes effect at, as predicted when it was executed (R225, R226): POS, VEL, ACC. -/
  predicted : List (Int × F64 × F64) := []
  deriving DecidableEq, Repr

/-- The phase accumulator of an auxiliary axis (R236): C:F in 2⁻⁴⁸ counts at the last tick start, VEL_WORD, and the count up to which its
carries have been delivered as steps. -/
structure PhaseAcc where
  cf : Int := 0
  velWord : Int := 0
  count : Int := 0
  deriving DecidableEq, Repr

/-- The profile engine. -/
structure ProfileState where
  /-- Channels that differ from a standing channel at 0, by channel number. -/
  channels : List (Nat × Channel) := []
  arms : List ArmMotion := List.replicate 8 {}
  moves : List MoveWait := []
  /-- STOP_MOVE commands waiting for the next pass: origin, KIND, INDEX, herd time (R232). -/
  stops : List (Origin × Nat × Nat × Nat) := []
  /-- TEACH commands waiting for the next pass: origin, arm, herd time (R231). -/
  teaches : List (Origin × Nat × Nat) := []
  /-- Last MOVE_ID issued under the active image (R225). -/
  lastMoveId : Nat := 0
  accs : List (Nat × PhaseAcc) := []
  /-- Tick of the last pass: it produced the operands of the tick after (R217). -/
  passTick : Option Nat := none
  deriving DecidableEq, Repr

/-! ### Control engine (11_control_engine.md) -/

/-- Causes of an axis fault (`loop.fault_cause`, Table 11-7). -/
inductive LoopFault where
  | age | outerAge | numeric | drive
  deriving DecidableEq, Repr

/-- The feedback operand of a loop (Table 11-2) with its age (R242). -/
structure Feedback where
  /-- s (R242), full herd time. -/
  sampleTime : Nat := 0
  torqueOn : Bool := false
  driveFault : Bool := false
  /-- POSITION in q32.32 counts. -/
  position : Int := 0
  y1 : F32 := 0
  y2 : F32 := 0
  y3 : F32 := 0
  vdc : F32 := 0
  age : Nat := 255
  deriving DecidableEq, Repr

/-- One loop, inner or outer, of a channel (R238 to R253). -/
structure LoopState where
  /-- x̂ (`loop.state`), 8 entries. -/
  xh : List F32 := List.replicate 8 0
  /-- u_p (R249). -/
  up : List F32 := [0, 0]
  /-- Last u_s (`loop.output`). -/
  us : List F32 := [0, 0]
  /-- o of the previous execution (R245). -/
  oPrev : Int := 0
  /-- The loop has executed since loops started (R251). -/
  ran : Bool := false
  /-- `loop.flags`. -/
  flags : BitVec 4 := 0
  /-- `loop.fault`, `loop.fault_cause`. -/
  fault : Bool := false
  cause : Option LoopFault := none
  /-- A cause found by an execution whose AXIS_FAULT entry is due (R250). -/
  due : Option LoopFault := none
  /-- Executions in a row that meet every condition of R250 for clearing. -/
  cleanRun : Nat := 0
  /-- `loop.last_delay_ns`. -/
  lastDelay : Nat := 0
  deriving DecidableEq, Repr

/-- The control engine. Loop index: channel for the inner loop, 128 + channel for the outer loop. -/
structure ControlState where
  loops : List (Nat × LoopState) := []
  /-- Newest feedback and setpoint of each channel, as taps, acquisition and R234 read them. -/
  feedback : List (Nat × Feedback) := []
  setpoints : List (Nat × Setpoint) := []
  deriving DecidableEq, Repr

/-! ### Task scheduler (12_task_scheduler.md) -/

/-- A task descriptor (Table 12-1). -/
structure Descriptor where
  kind : Nat := 0
  priority : Nat := 0
  target : Nat := 0
  timed : Bool := false
  rate : Nat := 1
  phase : Nat := 0
  wcet : Nat := 0
  offset : Nat := 0
  /-- SOURCEk and MODEk. -/
  operands : List (Nat × Nat) := []
  deriving DecidableEq, Repr

/-- An operand value (R260). -/
inductive Operand where
  | feedback (f : Feedback)
  | setpoint (p : Setpoint)
  | outer (value : List F32)
  | data (bytes : Bytes)
  deriving DecidableEq, Repr

/-- A task run held in the matching store (R260). -/
structure Instance where
  descriptor : Nat
  tag : Nat
  /-- Operands present: source, value, age. -/
  operands : List (Nat × Operand × Nat)
  /-- Herd time since which it is ready (R260, R264). -/
  ready : Option Nat := none
  /-- TIMED: due time reached (R264). -/
  due : Bool := true
  deriving DecidableEq, Repr

/-- A task running on a core (R262). -/
structure Running where
  inst : Instance
  start : Nat
  /-- Herd time at which it ends. -/
  finish : Nat
  /-- What it does has come about. -/
  done : Bool := false
  /-- The loop members of its channel as latched at its start (R255). -/
  latched : List (Nat × Nat) := []
  deriving DecidableEq, Repr

/-- Statistics of one core's window (R267). -/
structure CoreStats where
  count : Nat := 0
  waitMin : Nat := 0
  waitMax : Nat := 0
  waitSum : Nat := 0
  busy : Nat := 0
  deriving DecidableEq, Repr

/-- One control core. -/
structure CoreState where
  running : Option Running := none
  /-- `sched.queue_max`. -/
  queueMax : Nat := 0
  window : CoreStats := {}
  /-- The last completed window, as the objects show it. -/
  shown : CoreStats := {}
  /-- `sched.charge_ns` (R268). -/
  charge : Nat := 0
  deriving DecidableEq, Repr

/-- An operand on its way to the matching store (R260): source, tag, value, age, herd time. -/
structure Post where
  source : Nat
  tag : Nat
  value : Operand
  age : Nat
  at_ : Nat
  deriving DecidableEq, Repr

/-- The task scheduler and matching store. -/
structure SchedState where
  descriptors : List Descriptor := []
  store : List Instance := []
  cores : List CoreState := List.replicate 16 {}
  /-- Soft operands held for the next task run: source, tag, value, age (R261). -/
  soft : List (Nat × Nat × Operand × Nat) := []
  /-- Posts held back by a full store: source, tag, value, age, herd time since (R265). -/
  held : List (Nat × Nat × Operand × Nat × Nat) := []
  /-- Operands produced and not yet written to the store, oldest first (R260). -/
  posts : List Post := []
  /-- `sched.store_max`. -/
  storeMax : Nat := 0
  /-- Start of the statistics window in progress, and the length of the one shown. -/
  windowStart : Nat := 0
  windowLen : Nat := 0
  /-- Tag of the task run of each descriptor started last (R263). -/
  lastTag : List (Nat × Nat) := []
  /-- Core and end of that task run (R263). -/
  lastRun : List (Nat × Nat × Nat) := []
  /-- Separation kinematics started in the tick in progress: descriptor, tag, end (R300). -/
  kinEnds : List (Nat × Nat × Nat) := []
  deriving DecidableEq, Repr

/-! ### DSP datapath (13_dsp_datapath.md) -/

/-- The register state of one run (R270): zero at the start of every run. -/
structure DspRegs where
  /-- A0 to A3, 72-bit signed. -/
  acc : List (BitVec 72) := List.replicate 4 0
  v : List (BitVec 32) := List.replicate 64 0
  p : List (BitVec 16) := List.replicate 8 0
  rotb : Nat := 0
  aov : Bool := false
  sat : Bool := false
  nan : Bool := false
  deriving DecidableEq, Repr

/-- `dsp.kernel_state` (Table 13-6). -/
inductive KernelMode where
  | idle | enabled | faulted
  deriving DecidableEq, Repr

/-- One kernel slot (R272, R280 to R284). -/
structure KernelSlot where
  load : LoadMode := .empty
  loadError : Nat := 0
  /-- Container chunks received, newest first. -/
  chunks : List (Nat × Bytes) := []
  kernelId : Nat := 0
  /-- DIGEST of the container (Table 13-3). -/
  digest : Bytes := List.replicate 32 0
  execCycles : Nat := 0
  inCount : Nat := 0
  outCount : Nat := 0
  inBase : Nat := 0
  outBase : Nat := 0
  dmWords : Nat := 0
  /-- Taps: KIND, CHANNEL, FIELD, EXP (Table 13-4). -/
  taps : List (Nat × Nat × Nat × Int) := []
  code : List (BitVec 32) := []
  dmInit : List (BitVec 32) := []
  /-- The data memory partition. -/
  dm : List (BitVec 32) := []
  state : KernelMode := .idle
  flags : BitVec 3 := 0
  /-- `dsp.out` and `dsp.out_time`. -/
  out : List (BitVec 32) := []
  outTime : Nat := 0
  faultPc : Nat := 0
  /-- A run that is still executing at the close of its window, and its tick (R284). -/
  overrun : Option Nat := none
  /-- Tick of the last run. -/
  lastTick : Option Nat := none
  deriving DecidableEq, Repr

/-- The DSP datapath. -/
structure DspState where
  kernels : List KernelSlot := List.replicate 4 {}
  /-- Register state left by the last run. -/
  regs : DspRegs := {}
  /-- End of the last run (R282: the runs of a tick follow one another). -/
  busyUntil : Nat := 0
  deriving DecidableEq, Repr

/-! ### Speed and separation monitoring (14_separation_monitoring.md) -/

/-- The newest valid safe joint record of one joint as one channel holds it (R287, R288). -/
structure SafeJoint where
  /-- SJ_POS and SJ_VEL in µrad or µm, and per second. -/
  pos : Int := 0
  vel : Int := 0
  /-- SJ_SEQ and the tick of the last accepted record, per line. -/
  seqA : Option (Nat × Nat) := none
  seqB : Option (Nat × Nat) := none
  /-- Tick that delivered the last valid record under the active image. -/
  tick : Option Nat := none
  deriving DecidableEq, Repr

/-- Stop demand of a channel (R297): none, SS2 or SS1, in rising strength. -/
inductive SepDemand where
  | none | ss2 | ss1
  deriving DecidableEq, Repr

/-- Result of one channel for one arm (R297, R302). -/
structure SepResult where
  /-- S_a in mm as binary64 (processor) or converted from q16.16 (Chamois); −∞ after a NaN. -/
  dist : F64 := 0
  /-- v_r in mm/s. -/
  speed : F64 := 0
  /-- TCP speed in mm/s (R314, SLS). -/
  tcpSpeed : F64 := 0
  /-- v_lim in mm/s. -/
  vlim : F64 := 0
  demand : SepDemand := .none
  /-- σ* in 1/256. -/
  target : Nat := 0
  nan : Bool := false
  stale : Bool := false
  /-- Nearest pair: capsule, person slot, and direction in the cell frame; 0xFF where there is none. -/
  capsule : Nat := 0xFF
  person : Nat := 0xFF
  dir : List F32 := [0, 0, 0]
  deriving DecidableEq, Repr

/-- Combined result of one arm (Table 14-6). -/
structure ArmResult where
  /-- σ applied, in 1/256 (R298). -/
  scale : Nat := 0
  demand : SepDemand := .none
  flags : Nat := 0
  vlim : F64 := 0
  distP : F64 := 0
  distC : F64 := 0
  dir : List F32 := [0, 0, 0]
  person : Nat := 0
  capsule : Nat := 0
  stepTime : Nat := 0
  /-- Consecutive clear steps of R299. -/
  clearRun : Nat := 0
  deriving DecidableEq, Repr

/-- Inputs latched at t_s (R286): joints of both channels, persons, joint ages per arm. -/
structure SepLatch where
  time : Nat := 0
  jointsP : List (Nat × SafeJoint) := []
  jointsC : List (Nat × SafeJoint) := []
  persons : List (Option PersonSlot) := []
  ageP : List Nat := List.replicate 8 255
  ageC : List Nat := List.replicate 8 255
  deriving DecidableEq, Repr

/-- The separation monitor of both channels. -/
structure SepState where
  /-- Safe joint records by flat index: processor channel and Chamois. -/
  jointsP : List (Nat × SafeJoint) := []
  jointsC : List (Nat × SafeJoint) := []
  latch : SepLatch := {}
  /-- A step is in progress, and which results are in (R303). -/
  active : Bool := false
  processor : Option (List SepResult) := none
  chamois : Option (List SepResult) := none
  results : List ArmResult := List.replicate 8 {}
  /-- No step has run since COMMISSION or RUN was entered from CONFIGURE (R298). -/
  firstStep : Bool := true
  /-- Demand of each channel for each arm, in force since its result (R303). -/
  demandP : List SepDemand := List.replicate 8 .none
  demandC : List SepDemand := List.replicate 8 .none
  /-- Sensors whose list is replaced by the worst case (R290). -/
  worst : BitVec 16 := 0
  /-- Sensors whose list the last step replaced and whose SENSOR_WORST is due (R290). -/
  worstDue : BitVec 16 := 0
  /-- JOINT_STALE per arm and channel, found at t_s and not yet demanded (R288). -/
  staleDueP : BitVec 8 := 0
  staleDueC : BitVec 8 := 0
  /-- Tick of the last step. -/
  stepTick : Option Nat := none
  /-- Tick in which the last step was combined. -/
  doneTick : Option Nat := none
  deriving DecidableEq, Repr

/-! ### Safety channels (15_safety_channels.md) -/

/-- Stop states of one arm, with the codes of Table 15-1. -/
inductive StopState where
  | normal | sls | ss2 | sos | ss1 | sto
  deriving DecidableEq, Repr

/-- Stop state of one arm in one channel (R312 to R315). -/
structure ArmStop where
  state : StopState := .sto
  /-- t_d of the ramp in progress; the ramp ends in STO (SS1) or SOS (SS2). -/
  demandTime : Nat := 0
  endsInSto : Bool := false
  /-- v₀ of the ramp, mm/s (R314). -/
  v0 : F64 := 0
  /-- v_r of the last completed step. -/
  lastSpeed : F64 := 0
  /-- Steps in a row at which every joint met the standstill velocity. -/
  stillRun : Nat := 0
  /-- SJ_POS of the joints at SOS entry. -/
  sosPos : List Int := []
  /-- A violation judged and not yet acted on (R314). -/
  violation : Bool := false
  /-- STO by a violation, until R44. -/
  violated : Bool := false
  /-- An SS1 ramp has reached t_d + T_st; its SS1_TIMEOUT is due (R314). -/
  timeout : Bool := false
  /-- Active sources, bits of `safety.arm_sources` (Table 15-2). -/
  sources : BitVec 13 := 0
  deriving DecidableEq, Repr

/-- One safe input in one channel (R319 to R321). -/
structure SafeInput where
  a : Bool := false
  b : Bool := false
  /-- Consecutive disagreeing samples. -/
  run : Nat := 0
  on : Bool := false
  /-- DISCREPANCY latch, and an error word that is due (R320). -/
  discrepancy : Bool := false
  due : Bool := false
  /-- Consecutive agreeing samples, up to 4 (R320). -/
  agree : Nat := 0
  /-- EMERGENCY_STOP latch (Table 15-9). -/
  latched : Bool := false
  deriving DecidableEq, Repr

/-- One network safe input in one channel (R323). -/
structure NetInput where
  on : Bool := false
  stale : Bool := false
  latched : Bool := false
  codingError : Bool := false
  /-- Newest payload bits and age posted. -/
  bits : Nat := 0
  age : Nat := 255
  deriving DecidableEq, Repr

/-- One safe output's switch in the channel that drives it (R325 to R327). -/
structure SafeSwitch where
  closed : Bool := false
  overload : Bool := false
  openWire : Bool := false
  overTemp : Bool := false
  stuck : Bool := false
  /-- The condition of STUCK, and of OVER_TEMP, is present (Table 2-11). -/
  stuckNow : Bool := false
  hotNow : Bool := false
  /-- The current limit has acted (R325). -/
  limited : Bool := false
  /-- Load current, mA. -/
  current : Nat := 0
  deriving DecidableEq, Repr

/-- The SRESET edge detector of one channel (R328). -/
structure ResetEdge where
  offRun : Nat := 0
  onRun : Nat := 0
  /-- 400 OFF samples have come before the ON run in progress. -/
  armed : Bool := false
  /-- Evaluation count and herd time at which a valid edge completed. -/
  edge : Option (Nat × Nat) := none
  deriving DecidableEq, Repr

/-- What a channel holds of the other's last status message (R310): samples of the terminals, SRESET, SW1 and the network inputs
that are ON. -/
structure PeerView where
  a : BitVec 16 := 0
  b : BitVec 16 := 0
  sreset : Bool := false
  sw1 : BitVec 8 := 0
  nets : List Nat := []
  /-- Outputs with a diagnosed fault (R327). -/
  outFaults : BitVec 8 := 0
  deriving DecidableEq, Repr

/-- One safety channel (R308 to R329). -/
structure Channel2 where
  arms : List ArmStop := List.replicate 8 {}
  inputs : List SafeInput := List.replicate 16 {}
  nets : List (Nat × NetInput) := []
  switches : List SafeSwitch := List.replicate 8 {}
  reset : ResetEdge := {}
  sreset : Bool := false
  sw1 : BitVec 8 := 0
  /-- Evaluations run. -/
  evals : Nat := 0
  /-- Evaluations since the last valid message of the other channel (R310). -/
  silentRun : Nat := 0
  silent : Bool := false
  /-- Consecutive evaluations with valid messages while silent (Table 2-11). -/
  heardRun : Nat := 0
  heard : Bool := false
  /-- Cross-mismatch runs of the compared values, and agreeing runs after a mismatch (R310). -/
  mismatch : List (Nat × Nat) := []
  agree : List (Nat × Nat) := []
  mismatched : List Nat := []
  /-- Messages counted in the second in progress, and evaluations of that second (R310). -/
  messages : Nat := 0
  secondEvals : Nat := 0
  oscillator : Bool := false
  /-- The channel's half of the safety command frame (R317). -/
  command : List Nat := List.replicate 8 5
  /-- The half has been written since the frame was last sent (R122). -/
  commandNew : Bool := false
  /-- The channel demands STO for all arms by its own fault reaction (R310). -/
  faultStop : Bool := false
  /-- The second's count was out of range; its OSCILLATOR_MISMATCH is due. -/
  oscDue : Bool := false
  /-- 250 µs period of herd time of the processor channel's last evaluation. -/
  slot : Option Nat := none
  /-- A message of the other channel has arrived since the last evaluation. -/
  fresh : Bool := false
  /-- Samples of the other channel's last message. -/
  peer : PeerView := {}
  /-- Mode that governs demands, `cell.mode`, and arm holds as the processor channel passes them (R313). -/
  peerDemand : Mode := .boot
  peerMode : Mode := .boot
  peerHold : BitVec 8 := 0
  /-- SW1 as the last SW1_CHANGE left it (R333). -/
  sw1Shown : BitVec 8 := 0
  deriving DecidableEq, Repr

/-- Chamois's own latches, which a reset of the core die leaves in place (R36, R44, R310). [DESIGN CHOICE, log 77] -/
structure ChamoisState where
  /-- Start latch: no entry into COMMISSION or RUN yet since power-on (Table 15-2). -/
  startLatch : Bool := true
  /-- STO latch. -/
  stoLatch : Bool := false
  /-- `safety.chamois_status`. -/
  fault : Word := 0
  /-- The event that set the STO latch has ended (R44). -/
  ended : Bool := true
  /-- Digest register (R332). -/
  digest : Bytes := List.replicate 32 0
  deriving DecidableEq, Repr

/-- Both safety channels and the safety set in force. -/
structure SafetyState where
  processor : Channel2 := {}
  chamois : Channel2 := {}
  /-- A set is in force: its digest, connection ID and version. -/
  inForce : Bool := false
  digest : Bytes := List.replicate 32 0
  connectionId : Nat := 0
  setVersion : Nat := 0
  /-- `safety.set_error`. -/
  setError : Nat := 0
  /-- `safety.last_reset_time`. -/
  lastReset : Nat := 0
  /-- A valid edge of both channels has completed and its SRESET_EDGE is due. -/
  edgeDue : Option Nat := none
  /-- The set of the image being checked, accepted by check 4 and taken at activation. -/
  staged : Option (Bytes × Nat × Nat) := none
  /-- HOLD_REQUEST inputs that are OFF and have triggered HOLD. -/
  holdInputs : List Cause := []
  deriving DecidableEq, Repr

/-! ### Field I/O, encoders and auxiliary axes (16_field_io_feedback_aux.md) -/

/-- One standard input (R337). -/
structure StdInput where
  count : Nat := 0
  on : Bool := false
  changeTime : Nat := 0
  deriving DecidableEq, Repr

/-- One encoder interface (R342 to R352). -/
structure Encoder where
  /-- Raw count r, reported position p and direction (R343, R344). -/
  r : Int := 0
  p : Int := 0
  up : Bool := true
  /-- Levels taken of A, B and Z. -/
  a : Bool := false
  b : Bool := false
  z : Bool := false
  /-- Instants at which p changed in the current direction, newest first, at most 17 (R346). -/
  changes : List Nat := []
  standstill : Bool := false
  armed : Bool := false
  indexDone : Bool := false
  indexTime : Nat := 0
  lineFault : Bool := false
  /-- A QUAD_ERROR or LINE_FAULT since the previous tick latch (R350). -/
  dirty : Bool := false
  /-- FRESH of `enc.state`. -/
  fresh : Bool := false
  latch : EncLatch := {}
  age : Nat := 255
  /-- Tick of the last tick latch. -/
  latchTick : Option Nat := none
  probe : EncLatch := {}
  /-- Previous valid word, its p and sample instant; none before the first (R347). -/
  word : Option (Nat × Int × Nat) := none
  /-- V of the last valid word and herd time of the last change of p (R347). -/
  wordSpeed : F64 := 0
  lastChange : Nat := 0
  /-- Reference edge of the transaction in progress (R348, R349). -/
  transaction : Option Nat := none
  /-- Position changes waiting for their repeater edge, oldest first, as signed runs (R352). -/
  emuQueue : List Int := []
  /-- Levels of QA, QB and QZ while EMULATE is set. -/
  qa : Bool := false
  qb : Bool := false
  qz : Bool := false
  lastEmu : Nat := 0
  deriving DecidableEq, Repr

/-- Where a chopper phase stands (R357, R358). -/
inductive ChopPhase where
  | on | fast | slow
  deriving DecidableEq, Repr

/-- Bridge states of a phase (Table 16-5). -/
inductive Bridge where
  | positive | negative | slowDecay | off
  deriving DecidableEq, Repr

/-- One bridge phase of an auxiliary axis. -/
structure BridgePhase where
  bridge : Bridge := .off
  phase : ChopPhase := .on
  /-- Herd time at which the on or the off phase began. -/
  since : Nat := 0
  /-- The phase runs the hysteresis chopper (R358, R359). -/
  hysteresis : Bool := false
  /-- Offset o of R358, A. -/
  offset : F32 := 0
  /-- Phase target, A. -/
  target : F32 := 0
  /-- Newest and first current-sense sample of the tick (12-bit, signed). -/
  sample : Int := 0
  first : Int := 0
  /-- Sums over the tick: samples, |samples|, |target| and time driven positive and negative. -/
  count : Nat := 0
  sum : Int := 0
  sumAbs : Nat := 0
  sumTarget : F64 := 0
  tPos : Nat := 0
  tNeg : Nat := 0
  lastSample : Nat := 0
  deriving DecidableEq, Repr

/-- One auxiliary axis (R354 to R362). -/
structure AuxAxis where
  /-- I_ref (`aux.i_ref`). -/
  iRef : F32 := 0
  phaseA : BridgePhase := {}
  phaseB : BridgePhase := {}
  /-- The axis runs the hysteresis chopper (HYSTERESIS). -/
  hysteresis : Bool := false
  /-- Ticks in a row outside the tolerance, and below half the entry speed; the change of chopper they make due (R359). -/
  fallbackRun : Nat := 0
  slowRun : Nat := 0
  chopDue : Option Bool := none
  entryVel : F64 := 0
  /-- VEL of the tick in progress. -/
  vel : F64 := 0
  /-- δ_f (`aux.load_angle`). -/
  loadAngle : F32 := 0
  stallRun : Nat := 0
  stall : Bool := false
  /-- The condition of R361 held at the last tick start; STALL is due when its run is complete. -/
  stallDue : Bool := false
  /-- `aux.i_mean`. -/
  meanA : F32 := 0
  meanB : F32 := 0
  /-- Outputs of the inner loop waiting for a reference instant: compute time, U0 (R356). -/
  outputs : List (Nat × F32) := []
  /-- DIR level, and STEP pulses sent. -/
  dir : Bool := true
  /-- Tick in which the feedback operand was last posted (R362). -/
  fbTick : Option Nat := none
  deriving DecidableEq, Repr

/-- The field region. -/
structure FieldState where
  inputs : List (Nat × StdInput) := []
  /-- Group faults of the inputs (4 bits) and outputs (2 bits). -/
  inGroup : BitVec 4 := 0
  outGroup : BitVec 2 := 0
  /-- Commands driving DO0 to DO15, `fio.out_state`. -/
  outState : BitVec 16 := 0
  encoders : List Encoder := List.replicate 8 {}
  axes : List AuxAxis := List.replicate 8 {}
  deriving DecidableEq, Repr

/-! ### Acquisition and logs (17_acquisition_and_logs.md) -/

/-- `acq.state` (R367). -/
inductive AcqMode where
  | idle | armed | triggered | done | aborted
  deriving DecidableEq, Repr

/-- A trigger event that waits for its sample (R368): herd time of the event, FORCE. -/
structure TrigEvent where
  time : Nat
  force : Bool
  deriving DecidableEq, Repr

/-- A capture (R364 to R371). -/
structure Capture where
  id : Nat := 0
  state : AcqMode := .idle
  fast : Bool := false
  t0 : Nat := 0
  period : Nat := 0
  /-- The 64 signal entries as they stood at ARM. -/
  signals : List Nat := []
  rowBytes : Nat := 0
  capacity : Nat := 0
  pre : Nat := 0
  /-- Index of the next sample. -/
  next : Nat := 0
  /-- Rows held, oldest first: sample index and bytes. -/
  rows : List (Nat × Bytes) := []
  /-- Value of the trigger signal at the last sample, binary64. -/
  lastValue : Option F64 := none
  /-- k, TRIG_SUB, TRIG_TIME, EVENT_TIME, FORCED, ACTUAL_PRE. -/
  trigIndex : Option Nat := none
  trigSub : Nat := 0
  trigTime : Nat := 0
  eventTime : Nat := 0
  forced : Bool := false
  actualPre : Nat := 0
  /-- Gap records, ascending: FIRST, COUNT, ECC. -/
  gaps : List (Nat × Nat × Bool) := []
  gapLimit : Bool := false
  eccLost : Bool := false
  /-- Events and FORCE waiting for a sample. -/
  events : List TrigEvent := []
  deriving DecidableEq, Repr

/-- An ACQ_ARM action waiting for its EFFECT_TIME (R367). -/
structure AcqAction where
  /-- 0 ARM, 1 FORCE, 2 ABORT. -/
  kind : Nat
  captureId : Nat
  deriving DecidableEq, Repr

/-- An ACQ_READ that waits for the capture (R372). -/
structure AcqWait where
  origin : Origin
  offset : Nat
  length : Nat
  deriving DecidableEq, Repr

/-- The acquisition engine. [DESIGN CHOICE, log 98] -/
structure AcqState where
  capture : Capture := {}
  actions : List AcqAction := []
  waits : List AcqWait := []
  /-- CAPTURE_ID counter (R367). -/
  lastId : Nat := 0
  /-- MiB of DDR reserved for the capture buffer at the last image activation (R366); before the first, the default. [DESIGN CHOICE, log 98] -/
  buffer : Nat := 16
  deriving DecidableEq, Repr

/-- One log entry (Table 17-3). -/
structure LogEntry where
  time : Nat
  lastTime : Nat
  word : Word
  code : Nat
  count : Nat := 1
  seq : Nat
  lost : Bool := false
  ecc : Bool := false
  borrowed : Bool := false
  merged : Bool := false
  /-- TR_PISTE: refusal reason in FLAGS[7:3]. -/
  reason : Nat := 0
  arg : Nat
  /-- The entry has been returned by LOG_READ (R377). -/
  returned : Bool := false
  /-- Room a borrowed alarm takes: 1 event, 2 trace (R376). -/
  room : Nat := 0
  deriving DecidableEq, Repr

/-- The three log classes, unconsumed entries oldest first (R374 to R379). -/
structure LogState where
  alarms : List LogEntry := []
  events : List LogEntry := []
  traces : List LogEntry := []
  seqAlarm : Nat := 0
  seqEvent : Nat := 0
  seqTrace : Nat := 0
  /-- The newest trace entry is a marker that still takes drops (R375). -/
  traceOpen : Bool := false
  deriving DecidableEq, Repr

/-! ### Clocks and power (18_clocks_and_power.md) -/

/-- Reference in force (CLK_STATUS.REFERENCE). -/
inductive ClockRef where
  | crystal | clk10 | rc
  deriving DecidableEq, Repr

/-- The clock controller (R381 to R393). -/
structure ClockState where
  reference : ClockRef := .rc
  /-- A switch of the reference multiplexer in progress, and one requested behind it (R389). -/
  switching : Option ClockRef := none
  next : Option ClockRef := none
  /-- XTAL_OK, CLK10_OK, RC_OK, REFCLK_OK: bit per source code. -/
  ok : BitVec 4 := 0
  /-- PLL_LOCK and PLLs in holdover. -/
  pllLock : BitVec 5 := 0
  pllHoldover : BitVec 5 := 0
  /-- CLK_EVENT[7:0]. -/
  event : BitVec 8 := 0
  /-- Failed windows in a row per source (R386). -/
  badWindows : List Nat := [0, 0, 0, 0]
  /-- Clock count of the last failed window or loss per source, while not OK (R386). -/
  badSince : List Nat := [0, 0, 0, 0]
  /-- Sources lost and not OK again, and clock count since which a source has been OK (R382, R386, R388). -/
  gone : BitVec 4 := 0
  okSince : List Nat := [0, 0, 0, 0]
  /-- The source whose CLOCK_LOSS is not restored yet (R388). -/
  lost : Option ClockRef := none
  /-- `clk.rc_trim_ppm`. -/
  rcTrim : Int := 0
  /-- `clk.domain_khz`. -/
  khz : List Nat := List.replicate 10 0
  /-- Gates closed: (region, member); member 0x80 the region gate. -/
  gates : List (Nat × Nat) := []
  deriving DecidableEq, Repr

/-- The power controller (R394 to R396). -/
structure PowerState where
  /-- PWR_STATUS.ON. -/
  on : BitVec 16 := 1
  /-- PWR_STATUS.SWITCHING. -/
  switching : BitVec 16 := 0
  /-- Domains still to be switched off, then on, in order, by the sequence in progress (Table 18-6). -/
  toOff : List Nat := []
  toOn : List (List Nat) := []
  deriving DecidableEq, Repr

/-! ### Redundant pair (19_redundant_pair.md) -/

/-- `pair.role` (Table 19-5). -/
inductive PairRole where
  | none | holder | standby | notReady
  deriving DecidableEq, Repr

/-- A hand-over in progress: its instant H; acknowledged or not (R410). -/
structure HandOver where
  instant : Nat
  acked : Bool := false
  /-- This module is the one that requested the token. -/
  requester : Bool := false
  deriving DecidableEq, Repr

/-- The pair unit (R399 to R412). -/
structure PairState where
  role : PairRole := .none
  token : Token := {}
  /-- Latest LEASE_END received by any path (R403). -/
  latestEnd : Nat := 0
  /-- Herd time of the last foreign downstream static frame accepted on any port (R403). -/
  lastForeign : Option Nat := none
  /-- A renewal has been received since the last renewal instant. -/
  renewalSeen : Bool := false
  /-- The setpoint operands, plan times and sources as mirrored. -/
  mirror : MirrorSet := { tick := 0 }
  /-- Tick of the last complete set; the mirror age counts from it (R406). -/
  mirrorTick : Option Nat := none
  /-- Digest and activation instant of the holder's image, as mirrored (R408). -/
  peerImage : Option (Bytes × Nat) := none
  /-- SEQs of plans the standby has acknowledged (R407). -/
  acked : List Nat := []
  /-- The other module's per-arm stop states; none before the first (R409). -/
  peerStops : List StopState := List.replicate 8 .normal
  /-- Evaluations since the last valid peer status (R409). -/
  peerRun : Nat := 0
  /-- PEER_SILENT. -/
  peerSilent : Bool := true
  /-- Pair port link. -/
  link : Bool := false
  /-- The other module is STANDBY, as its messages report it to the holder (R407). -/
  peerStandby : Bool := false
  /-- `pair.swap` has been written on the holder and the peer has been told. -/
  swap : Bool := false
  handOver : Option HandOver := none
  /-- Herd time since which the module has been STANDBY without a break (R410). -/
  standbySince : Option Nat := none
  /-- D₁₂ of each line in 0.25 ns (R400). -/
  d12 : List Int := [0, 0]
  /-- `pair.last_takeover`: EPOCH, T. -/
  lastTakeover : Nat × Nat := (0, 0)
  deriving DecidableEq, Repr

/-! ### Security (20_security.md) -/

/-- A customer key slot that holds a key (R419). -/
structure CustomerKey where
  key : Bytes
  requireCell : Bool
  deriving DecidableEq, Repr

/-- An HMAC key slot that holds a key (R422). -/
structure HmacKey where
  key : Bytes
  session : Bool
  tahixa : Bool
  deriving DecidableEq, Repr

/-- One firmware slot: its bytes in NOR and the code of its last verification (R415, R416). -/
structure FirmwareSlot where
  bytes : Bytes := []
  /-- `security.fw_verify`. -/
  verify : Nat := 0xFF
  deriving DecidableEq, Repr

/-- OTP contents (R415 to R417, R424). -/
structure OtpState where
  /-- Four root-key hashes. -/
  roots : List Bytes := List.replicate 4 (List.replicate 32 0)
  /-- Revocation fuses. -/
  revoked : BitVec 4 := 0
  /-- Fuses blown of the security floor, 0 to 64. -/
  floor : Nat := 0
  /-- Identity public key. -/
  identity : Bytes := List.replicate 60 0
  /-- The identity certificate (Table 20-6). -/
  certificate : Bytes := []
  deriving DecidableEq, Repr

/-- `security.index_state`. -/
inductive IndexMode where
  | ready | preparing | exhausted | lost
  deriving DecidableEq, Repr

/-- The index store of the identity key (R424 to R426). -/
structure IndexState where
  next : Nat := 0
  reservedEnd : Nat := 0
  /-- LOST in B02 of this or an earlier start. -/
  lost : Bool := false
  /-- The bottom tree that contains NEXT is computed. -/
  treeReady : Bool := false
  deriving DecidableEq, Repr

/-- Keys, firmware and identity. -/
structure SecurityState where
  customer : List (Option CustomerKey) := [none, none]
  /-- HMAC slots 1 to 8. -/
  hmac : List (Option HmacKey) := List.replicate 8 none
  firmware : List FirmwareSlot := [{}, {}]
  otp : OtpState := {}
  index : IndexState := {}
  /-- RESERVED_END as mirrored in NOR; none when its CRC is not valid. -/
  norReserved : Option Nat := none
  /-- OTP root-key hash slot that verified the running image. -/
  rootSlot : Nat := 0
  /-- Reports kept per mailbox (R427). -/
  reports : List (Nat × Bytes) := []
  /-- Slot being written by LOADER_WRITE_SLOT: bytes [0, 4) of its header kept back until FINAL passes. -/
  loaderHead : List Bytes := [[], []]
  deriving DecidableEq, Repr

/-! ### Module hardware (21_module_hardware.md) -/

/-- Pins, supplies and temperatures, and what the NOR devices keep besides keys and firmware. -/
structure HardwareState where
  /-- VIN_12V in mV. -/
  vin : Nat := 12000
  /-- The module is held in brown-out. -/
  brownOut : Bool := false
  /-- The input has left its operating range upwards (R432). -/
  vinHigh : Bool := false
  modPg : Bool := true
  /-- THERM_N pulled low (R443). -/
  thermLow : Bool := false
  /-- The 125 °C condition holds (R443). -/
  overTemp : Bool := false
  /-- Supplies out of range apart from the 12 V input: a power domain number, or 256 + element for a board regulator (R394, R460). -/
  supplyOut : List Nat := []
  /-- `pwr.die_temp`, 0.1 °C. -/
  dieTemp : Int := 250
  hostReady : Bool := false
  /-- PERST_N is held low. -/
  perstLow : Bool := false
  /-- PAIR_ID is tied to GND. -/
  pairIdLow : Bool := false
  /-- The 24 V supplies in mV: SAFE, IN0 to IN3, OUT0, OUT1. -/
  v24 : List Nat := List.replicate 7 0
  deriving DecidableEq, Repr

/-- NOR contents besides firmware and keys (R48, R86, R57). -/
structure NorState where
  /-- The failed-start record mirrored in NOR. -/
  record : Option StartRecord := none
  /-- The cell image stored by IMAGE_COMMIT with STORE, or none. -/
  image : Option Bytes := none
  /-- Training values of a full DDR training, and coefficients of a full SerDes calibration, are stored (Table 2-5). -/
  training : Bool := false
  coeffs : Bool := false
  deriving DecidableEq, Repr

/-! ### What leaves the block in a step, its stops, and the whole state -/

/-- What the block sends or answers in one step. -/
inductive Output where
  /-- A completion posted on its mailbox: to the completion ring, or as a datagram (R60). -/
  | completion (c : Completion)
  /-- A completion sent again unchanged (R74). -/
  | resend (c : Completion)
  /-- A UDP datagram sent to a host: Ethernet port, destination address and port, bytes (Table 3-3). -/
  | datagram (port addr udpPort : Nat) (data : Bytes)
  /-- An MSI-X message (R64, R454). -/
  | vector (v : Nat)
  /-- The value a register read returns (R446). -/
  | value (v : Nat)
  /-- A frame sent out of a Tahixa port: port, frame start in 0.1 ns, destination and source MAC, EtherType, header, payload and FCS
  (Table 5-1). -/
  | frame (port start : Nat) (dst src : Bytes) (etherType : Nat) (header payload fcs : Bytes)
  /-- A PTP message sent by a domain out of an Ethernet port (R94). -/
  | ptp (domain port messageType sequenceId : Nat) (content : List Int)
  /-- A token renewal sent to the other module (R401). -/
  | token (t : Token)
  /-- A hand-over message: request, answer H or acknowledgement of H (R410). -/
  | handOver (kind instant : Nat)
  /-- A mirror set sent over the pair port (R406). -/
  | mirror (set : MirrorSet)
  /-- Receipt of plan records acknowledged over the pair port (R407). -/
  | planAck (seq : Nat)
  /-- The module's per-arm stop states sent over the pair port (R409). -/
  | stops (states : List StopState)
  /-- A STEP pulse of an auxiliary axis with its DIR level (R236). -/
  | stepPulse (axis : Nat) (dir : Bool) (start width : Nat)
  /-- Levels of the encoder repeater QA, QB, QZ (R352). -/
  | repeater (encoder : Nat) (qa qb qz : Bool)
  /-- A transaction with an absolute encoder begins: the request sent, empty over SSI (R347 to R349). -/
  | request (encoder : Nat) (bytes : Bytes)
  /-- The rising edge of PPS_OUT (R102). -/
  | pps (time : Nat)
  /-- A PCIe Completer Abort in place of a register's value (R393). -/
  | completerAbort
  /-- CLKOUT carries a source of `clk.clkout_source`, high and low for so many of its cycles; source 0 is a pin held low (R390). -/
  | clkout (source high low : Nat)
  /-- The module has been reset. -/
  | moduleReset
  deriving DecidableEq, Repr

/-- Why a step may stop. No command of this model stops: the constructor stands for a queue entry no sender can form, and no
meaning raises it. Safe. -/
inductive Fault where
  /-- Never raised. Safe. -/
  | none
  deriving DecidableEq, Repr

/-- Why a command may have no meaning. -/
inductive Refusal where
  /-- The command has no meaning in this model yet; raised by `exec`. Safe. -/
  | notModelled (mnemonic : String)
  deriving DecidableEq, Repr

/-- The whole block. -/
structure State where
  mode : ModeState := {}
  start : StartState := {}
  zewen : ZewenState := {}
  /-- OBJ_WRITEs executed and not yet in effect, in execution order (R79). -/
  writes : List QueuedWrite := []
  image : ImageState := {}
  reg : RegState := {}
  /-- Objects that differ from their reset value, by key, rising; a value is its bytes read little-endian (R13, R457). -/
  objs : List (Nat × Nat) := []
  herd : HerdState := {}
  aon : AonState := {}
  net : TahixaState := {}
  plan : PlanState := {}
  solver : SolverState := {}
  piste : PisteState := {}
  prof : ProfileState := {}
  ctl : ControlState := {}
  sched : SchedState := {}
  dsp : DspState := {}
  sep : SepState := {}
  safety : SafetyState := {}
  cham : ChamoisState := {}
  field : FieldState := {}
  acq : AcqState := {}
  logs : LogState := {}
  clocks : ClockState := {}
  power : PowerState := {}
  pair : PairState := {}
  sec : SecurityState := {}
  hw : HardwareState := {}
  nor : NorState := {}
  /-- Cycles of the 250 MHz clock since the model began: what a budget or a delay is measured with where herd time may stand (R38, R45, R64). -/
  clock : Nat := 0
  /-- What the clock in progress has added (R14, R450). -/
  fresh : ClockNew := {}
  /-- The model's own counter of free values drawn so far; not of the spec. -/
  freeCount : Nat := 0
  /-- What the last command sent or answered. -/
  out : List Output := []
  /-- Commands waiting, first in, first out. -/
  pending : List Instr := []
  deriving DecidableEq, Repr

/-- The block after power-on, before its first start attempt (R432, R456, R457). [DESIGN CHOICE, log 5] -/
def State.reset : State := {}

end Sys2Proof.Machine
end

