-- ==== Sys2Proof/Machine/Objects.lean ====
section
/-! DEFINITION. Stored object values: reading with defaults (R13, R457), writing in canonical form, and counters. A value is the
object's bytes read little-endian. -/

namespace Sys2Proof.Machine

/-- An object key (R7). -/
def okey (cls inst mem : Nat) : Nat := cls * 65536 + inst * 256 + mem

/-- The value listed for a key, if any. -/
def olisted (objs : List (Nat × Nat)) (key : Nat) : Option Nat :=
  match objs with
  | [] => none
  | (k, v) :: r => if k = key then some v else if key < k then none else olisted r key

/-- The default of a member by its table; 0 where none is stated (R457). -/
def odefault (key : Nat) : Nat :=
  match objRow key with
  | some r => r.dflt
  | none => 0

/-- `cell.tick_ns`, which follows `tahixa.cycle_ns` (R108). [DEDUCED, log 80] -/
def otick (objs : List (Nat × Nat)) : Nat := (olisted objs 0x700000).getD 62500

/-- Value an unlisted object holds: its default, which for a few objects depends on the instance or on other objects. A default that names
another object follows that object's present value until the object is written; an IPv4 address has its first octet in bits [31:24].
[PRESUMED, log 122] [DEDUCED, log 123] -/
def ounlisted (objs : List (Nat × Nat)) (key : Nat) : Nat :=
  let i := key / 256 % 256
  if key = 0x100020 then otick objs - 6000
  else if key = 0x400080 then otick objs - 8500
  else if key = 0x801000 || key = 0x801001 then 0
  else if key = 0x801100 || key = 0x801101 then 1
  else if key = 0xD09000 || key = 0xD09100 then 0xC0A8000A + (0x40 + (i - 0x90)) * 256
  else if key / 65536 = 0x21 && key % 256 = 0x06 then
    (fDiv (BitVec.ofNat 32 ((olisted objs (key - 3)).getD 0)) (fOfInt 20)).toNat
  else odefault key

/-- The stored value of an object. -/
def oval (objs : List (Nat × Nat)) (key : Nat) : Nat := (olisted objs key).getD (ounlisted objs key)

/-- Stores a value, the default of its table being left out: equal configurations are equal data. -/
def oput (objs : List (Nat × Nat)) (key v : Nat) : List (Nat × Nat) :=
  if v = odefault key && ounlisted [] key = odefault key && key / 65536 * 256 + key % 256 ≠ 0x2106 then tdel objs key else tput objs key v

/-- The canonical form of the list of objects: keys strictly rising. -/
def objsOrdered : List (Nat × Nat) → Bool
  | [] => true
  | [_] => true
  | (a, _) :: (b, w) :: r => decide (a < b) && objsOrdered ((b, w) :: r)

/-- Member value by class, instance and member. -/
def ob (objs : List (Nat × Nat)) (cls inst mem : Nat) : Nat := oval objs (okey cls inst mem)

/-- Stored value in a state. -/
def ov (s : State) (cls inst mem : Nat) : Nat := ob s.objs cls inst mem

/-- A member as binary32, as binary64 and as bytes. -/
def obF (objs : List (Nat × Nat)) (cls inst mem : Nat) : F32 := BitVec.ofNat 32 (ob objs cls inst mem)
def obD (objs : List (Nat × Nat)) (cls inst mem : Nat) : F64 := BitVec.ofNat 64 (ob objs cls inst mem)
def obB (objs : List (Nat × Nat)) (cls inst mem n : Nat) : Bytes := leBytes n (ob objs cls inst mem)

/-- Field of a member that is a byte string: offset and bytes, little-endian. -/
def obField (objs : List (Nat × Nat)) (cls inst mem o n : Nat) : Nat := ob objs cls inst mem / 256 ^ o % 256 ^ n

/-- Writes a member. -/
def setOb (s : State) (cls inst mem v : Nat) : State := { s with objs := oput s.objs (okey cls inst mem) v }

/-- Adds to a u32 counter; the spec says only of some counters that they saturate, and the value after an overflow of another is free.
[DESIGN CHOICE, log 7] [DESIGN CHOICE, log 8] -/
def countUp (n v free : Nat) : Nat := if v + n < 2 ^ 32 then v + n else Config.freeValue free % 2 ^ 32

/-- Something is added to a counter object in the clock in progress (R14). -/
def noteCount (s : State) (key n : Nat) : State := { s with fresh := { s.fresh with objs := tput s.fresh.objs key (tget 0 s.fresh.objs key + n) } }

/-- Adds n to a counter object. [DESIGN CHOICE, log 8] -/
def bumpN (s : State) (cls inst mem n : Nat) : State :=
  noteCount { s with objs := oput s.objs (okey cls inst mem) (countUp n (ov s cls inst mem) s.freeCount)
                     freeCount := s.freeCount + 1 } (okey cls inst mem) n

/-- Adds 1 to a counter object. -/
def bump (s : State) (cls inst mem : Nat) : State := bumpN s cls inst mem 1

/-- Adds 1, saturating, to entry i of an array of u32 counters. -/
def bumpAt (s : State) (cls inst mem i : Nat) : State :=
  let v := ov s cls inst mem
  let e := v / 2 ^ (32 * i) % 2 ^ 32
  if e = 2 ^ 32 - 1 then s else noteCount (setOb s cls inst mem (v + 2 ^ (32 * i))) (okey cls inst mem) (2 ^ (32 * i))

/-- Adds n, saturating, to entry i of an array of u32 counters. -/
def bumpAtN (s : State) (cls inst mem i n : Nat) : State :=
  let v := ov s cls inst mem
  let e := v / 2 ^ (32 * i) % 2 ^ 32
  let add := min n (2 ^ 32 - 1 - e)
  noteCount (setOb s cls inst mem (v + add * 2 ^ (32 * i))) (okey cls inst mem) (add * 2 ^ (32 * i))

/-! ### Objects read in many chapters -/

/-- Length of the tick: the base cycle running (R108, R130). [DEDUCED, log 80] -/
def tickNs (s : State) : Nat := s.net.cycleNs

/-- Arms present, joints present (R23). -/
def armPresent (objs : List (Nat × Nat)) (a : Nat) : Bool := bit (ob objs 0x10 0 0) a
def jointPresent (objs : List (Nat × Nat)) (j : Nat) : Bool := bit (ob objs 0x10 0 1) j && armPresent objs (j / 8)

/-- Ticks per separation step: 1 ms ÷ `cell.tick_ns`. -/
def sepTicks (s : State) : Nat := 1000000 / tickNs s

/-- An image is active (`cell.activation_time` is not 0). -/
def imageActive (s : State) : Bool := s.image.activation != 0

/-- A module of a redundant pair (R399). -/
def pairOn (objs : List (Nat × Nat)) : Bool := ob objs 0xC0 0 0 == 1

/-- The module drives the cell: it is no standby of a redundant pair (R402, R406). -/
def drives (s : State) : Bool := !pairOn s.objs || s.pair.role == .holder

/-- Re-planning period in ns (R25). -/
def periodNs (objs : List (Nat × Nat)) : Nat := ob objs 0x30 0 0 * 1000

/-- A block isolated since the last module reset (R18). -/
def isolated (s : State) (region block : Nat) : Bool := s.mode.isolated.contains (region, block)

/-- A block's clock is gated: its own gate or its region's. -/
def gated (s : State) (region block : Nat) : Bool :=
  s.clocks.gates.contains (region, block) || s.clocks.gates.contains (region, 0x80)

/-- A power domain is on. -/
def domainOn (s : State) (d : Nat) : Bool := s.power.on.getLsbD d

/-- A block is gated, isolated or in a domain that is off (R18, R393). -/
def blockDown (s : State) (region block domain : Nat) : Bool := isolated s region block || gated s region block || !domainOn s domain

/-- The pair port takes and sends nothing (R18). -/
def pairDown (s : State) : Bool := blockDown s 3 2 9

/-- A frame is counted at its port (`tahixa.port_rx_frames`). -/
def countFrame (s : State) (p : Nat) : State :=
  let v := ov s 0x70 0 0x2F
  let e := v / 2 ^ (64 * p) % 2 ^ 64
  setOb s 0x70 0 0x2F (v - e * 2 ^ (64 * p) + (e + 1) % 2 ^ 64 * 2 ^ (64 * p))

end Sys2Proof.Machine
end

