-- ==== Sys2Proof/Machine/Ops.lean ====
section
/-! DEFINITION. The operations every command is made of: herd time going on, outputs, message-signalled interrupts, error words,
log entries and completions. -/

namespace Sys2Proof.Machine

/-! ### Herd time (R87 to R90, R95, R458) -/

/-- Units of HT:HT_FRAC per nanosecond. -/
def fracUnit : Int := 2 ^ 32

/-- Largest |ADJ| (R88): `time.rate_max_ppb` × 17.179869184, rounded down; 17.179869184 is 2³⁴ ÷ 10⁹. -/
def adjMax (objs : List (Nat × Nat)) : Int := (ob objs 0x80 0 4 * 2 ^ 34 / 1000000000 : Nat)

/-- The rate adjustment in force without the slew and with it (R92). -/
def adjServo (s : State) : Int := clampInt (-(adjMax s.objs)) (adjMax s.objs) s.herd.servoAdj
def adjTotal (s : State) : Int :=
  let term := if s.herd.slewRem = 0 then 0 else s.herd.slewTerm
  clampInt (-(adjMax s.objs)) (adjMax s.objs) (s.herd.servoAdj + term)

/-- What the slew term adds in one clock, as far as the clamp of R88 lets it. -/
def slewStep (s : State) : Int := adjTotal s - adjServo s

/-- HT:HT_FRAC. -/
def herdPos (h : HerdState) : Int := (h.ht : Int) * fracUnit + (h.frac : Int)

/-- What n clocks add to HT:HT_FRAC, and slew_rem after them: the slew removes what the clamp leaves of its term in each clock, and in its
last clock the remainder, which is less (R88, R95). [DESIGN CHOICE, log 2] -/
def herdAfter (s : State) (n : Nat) : Int × Int :=
  let rem := s.herd.slewRem
  let base := 4 * fracUnit + adjServo s
  let step := slewStep s
  if rem = 0 || step = 0 then (base * n, rem)
  else
    let m := rem.natAbs / step.natAbs
    if n ≤ m then ((base + step) * n, rem + step * n)
    else ((base + step) * m + (base - (rem + step * m)) + base * ((n : Int) - m - 1), 0)

/-- Fewest clocks after which HT:HT_FRAC reaches a target: the smallest n within the bound for which it holds, by bisection. -/
def clocksGo (s : State) (target : Int) : Nat → Nat → Nat → Nat
  | 0, _, hi => hi
  | fuel + 1, lo, hi =>
    if hi ≤ lo then hi
    else
      let mid := (lo + hi) / 2
      if target ≤ herdPos s.herd + (herdAfter s mid).1 then clocksGo s target fuel lo mid
      else clocksGo s target fuel (mid + 1) hi

/-- Clocks until the first edge at which HT:HT_FRAC has reached a target. -/
def clocksUntil (s : State) (target : Int) : Nat :=
  let gap := target - herdPos s.herd
  if gap ≤ 0 then 0
  else clocksGo s target 70 0 ((gap / (3 * fracUnit)).toNat + 2)

/-- Clocks until the first edge at which HT ≥ t (R89). [DESIGN CHOICE, log 3] -/
def clocksTo (s : State) (t : Nat) : Nat := clocksUntil s ((t : Int) * fracUnit)

/-- Start of the tick after the one in progress. [DESIGN CHOICE, log 3] -/
def nextTick (s : State) : Nat := (s.herd.tick + 1) * tickNs s

/-- The cycle runs with another length, and k counts ticks of that length (R9, R89). [DESIGN CHOICE, log 49] -/
def setCycle (s : State) (ns : Nat) : State :=
  if s.net.cycleNs = ns then s
  else { s with net := { s.net with cycleNs := ns }, herd := if s.herd.running then { s.herd with tick := s.herd.ht / ns } else s.herd }

/-- The virtual clock of a domain goes on by n clocks (R95). -/
def virtAfter (n : Nat) (d : PtpDomain) : PtpDomain :=
  { d with virt := d.virt.map (fun v => v + (4 * fracUnit + d.virtAdj) * n) }

/-- PPS_OUT at an edge with this HT: high from the first edge at or after each whole second plus `time.pps_out_q`, for
`time.pps_width_ms` (R89, R102). -/
def ppsLevel (objs : List (Nat × Nat)) (ht : Nat) : Bool :=
  decide ((4 * (ht : Int) - sext 16 (ob objs 0x80 0 0x11)) % 4000000000 < 4000000 * (ob objs 0x80 0 0x10 : Nat))

/-- CLK10_OUT at an edge with this HT: while enabled, high from the first edge at or after each multiple of 100 ns until the first edge
48 ns or more after it (R89, R102). -/
def clk10Level (objs : List (Nat × Nat)) (ht : Nat) : Bool := ob objs 0x80 0 0x12 == 1 && decide (ht % 100 < 48)

/-- Herd time goes on by n clocks, HT modulo 2⁶⁴ (R9), and the clock pins follow it. -/
def addClocks (s : State) (n : Nat) : State :=
  let r := herdAfter s n
  let p := (herdPos s.herd + r.1).toNat
  let ht := p / 2 ^ 32 % 2 ^ 64
  { s with herd := { s.herd with ht := ht, frac := p % 2 ^ 32, edges := s.herd.edges + n, slewRem := r.2
                                 ppsOut := ppsLevel s.objs ht, clk10Out := clk10Level s.objs ht
                                 domains := s.herd.domains.map (virtAfter n) } }

/-- `clk` cycles of the 250 MHz clock pass for what counts them whether or not herd time runs. -/
def countClocks (clk : Nat) (s : State) : State :=
  { s with aon := { s.aon with timer := s.aon.timer + 4 * clk }, clock := s.clock + clk, fresh := if clk = 0 then s.fresh else {} }

/-- `clk` cycles of the timing clock pass. Herd time stops short of the next tick start, which TICK_START brings; the AON timer counts the
time in every case. [DESIGN CHOICE, log 2] [DESIGN CHOICE, log 3] -/
def advance (clk : Nat) (s : State) : State :=
  let s1 := countClocks clk s
  if s1.herd.running then addClocks s1 (min clk (clocksTo s1 (nextTick s1))) else s1

/-- A command begins: time goes on, and nothing has been sent yet. [DESIGN CHOICE, log 2] -/
def begin (clk : Nat) (s : State) : State := advance clk { s with out := [] }

/-- The time every field filled with herd time takes: HT, or before B13 the value R458 states. -/
def now (s : State) : Nat :=
  if s.herd.running then s.herd.ht
  else
    match s.aon.herd with
    | none => 0
    | some v => v.1 + s.aon.timer / 10 * 10

/-- HT_STATUS.STATE. -/
def herdCode : HerdMode → Nat
  | .free => 0
  | .acquiring => 1
  | .locked => 2
  | .holdover => 3

/-- Start of the tick in progress. -/
def tickStart (s : State) : Nat := s.herd.tick * tickNs s

/-- The tick counter (R9). -/
def tickCount (s : State) : Nat := if s.herd.running then s.herd.tick % 2 ^ 32 else 0

/-! ### Outputs and message-signalled interrupts (R64, R453 to R455) -/

/-- Something leaves the block. -/
def emit (s : State) (o : Output) : State := { s with out := s.out ++ [o] }

def withMsix (s : State) (f : MsixState → MsixState) : State := { s with zewen := { s.zewen with msix := f s.zewen.msix } }

/-- A vector's table entry or the function masks it. -/
def vectorMasked (s : State) (v : Nat) : Bool :=
  s.zewen.msix.functionMask || (nth {} s.zewen.msix.table v).masked

/-- Sends a vector's message now: a masked vector sets its pending bit instead (R454). -/
def vectorNow (s : State) (v : Nat) : State :=
  if vectorMasked s v then withMsix s (fun m => { m with pba := m.pba ||| (1#32 <<< v) })
  else emit (withMsix s (fun m => { m with
    spacing := m.spacing ||| (1#32 <<< v), sent := upd m.sent v (fun _ => s.clock), pba := m.pba &&& ~~~(1#32 <<< v) })) (.vector v)

/-- The 1 µs spacing of a vector runs: fewer than 250 clocks have passed since its last message (R64). -/
def spacingRuns (s : State) (v : Nat) : Bool :=
  s.zewen.msix.spacing.getLsbD v && decide (s.clock < nth 0 s.zewen.msix.sent v + 250)

/-- Sends a vector, or holds the message back while the vector's 1 µs spacing runs (R64). -/
def sendVector (s : State) (v : Nat) : State :=
  if !s.zewen.linkUp then s
  else if spacingRuns s v then withMsix s (fun m => { m with deferred := m.deferred ||| (1#32 <<< v) })
  else vectorNow s v

/-- Changes what the clock in progress has added. -/
def withFresh (s : State) (f : ClockNew → ClockNew) : State := { s with fresh := f s.fresh }

/-- An event of Table 22-3 sets bit n of INT_STATUS and sends its vector when the bit was clear and is not masked. A write of 1 in the same
clock finds the bit new (R450). -/
def setInt (s : State) (n : Nat) : State :=
  let m := 1#10 <<< n
  if s.reg.intStatus.getLsbD n then withFresh s (fun c => { c with ints := c.ints ||| m, intsAgain := c.intsAgain ||| m })
  else
    let s1 := { s with reg := { s.reg with intStatus := s.reg.intStatus ||| m }, fresh := { s.fresh with ints := s.fresh.ints ||| m } }
    if s.reg.intMask.getLsbD n then s1 else sendVector s1 (8 + n)

/-! ### The transmit timestamp queue (R101) -/

/-- Order of the transmit timestamp queue: time, then port. -/
def stampBefore (a b : TxStamp) : Bool := decide (a.time < b.time) || (a.time = b.time && decide (a.port < b.port))

/-- An entry joins the end of the queue, or is dropped when 64 are held. -/
def pushStamp (s : State) (e : TxStamp) : State :=
  if 64 ≤ s.herd.txts.length then
    { s with herd := { s.herd with txtsOvf := satNat 32 (s.herd.txtsOvf + 1), txtsTotal := satNat 32 (s.herd.txtsTotal + 1) }
             fresh := { s.fresh with txts := s.fresh.txts + 1 } }
  else setInt { s with herd := { s.herd with txts := s.herd.txts ++ [e] } } 4

/-- A frame's timestamp waits, by time and port, until herd time has reached it. -/
def dueStamp (s : State) (e : TxStamp) : State := { s with herd := { s.herd with txtsDue := insertBy stampBefore e s.herd.txtsDue } }

/-- The timestamps that herd time has reached enter the queue in order: at each tick start, and before a command that adds to the queue or
takes from it. [DESIGN CHOICE, log 133] -/
def takeStamps (s : State) : State :=
  (s.herd.txtsDue.filter (fun e => decide (e.time ≤ s.herd.ht))).foldl pushStamp
    { s with herd := { s.herd with txtsDue := s.herd.txtsDue.filter (fun e => !decide (e.time ≤ s.herd.ht)) } }


/-! ### Error words (R17, R451, R452) -/

/-- An error word (Table 22-2). -/
def errWord (level region block reaction : Nat) (iso : Bool) (element : Nat) : Word :=
  BitVec.ofNat 32 (level * 2 ^ 30 + region * 2 ^ 27 + block * 2 ^ 22 + reaction * 2 ^ 20 + b2n iso * 2 ^ 19 + 2 ^ 18 + element % 2 ^ 16)

def wordRegion (w : Word) : Nat := bits w.toNat 29 27
def wordBlock (w : Word) : Nat := bits w.toNat 26 22
def wordReaction (w : Word) : Nat := bits w.toNat 21 20
def wordElement (w : Word) : Nat := bits w.toNat 15 0

/-- Order of error words written in the same clock (R452). -/
def wordBefore (a b : Word) : Bool :=
  let k := fun (w : Word) => ((wordReaction w * 8 + wordRegion w) * 32 + wordBlock w) * 65536 + wordElement w
  decide (k a < k b)

/-- One error word in ERR_WORD, ERR_FIRST and ERR_COUNT: among the words of one clock ERR_WORD takes the last in order and an empty
ERR_FIRST the first (R452). -/
def noteErr (s : State) (w : Word) : State :=
  let r := s.reg
  let c := s.fresh
  { s with
    reg := { r with
      errWord := if c.errMin.isSome && wordBefore w r.errWord then r.errWord else w
      errFirst := if r.errFirst = 0 || (c.firstNew && wordBefore w r.errFirst) then w else r.errFirst
      errCount := satNat 32 (r.errCount + 1) }
    fresh := { c with
      errCount := c.errCount + 1, errMin := if c.errMin.any (fun m => wordBefore m w) then c.errMin else some w
      firstNew := c.firstNew || r.errFirst == 0 } }

/-- Writes one error word to the registers; a contained word of a block is counted for R54. -/
def writeErr (s : State) (w : Word) : State :=
  let s1 := noteErr s w
  let s2 := if wordReaction w = 0 && decide (wordRegion w ≤ 4) then
      { s1 with mode := { s1.mode with
          contained := (s1.mode.contained.filter (fun e => decide (now s < e.2.2 + 1000000000))) ++ [(wordRegion w, wordBlock w, now s)] } }
    else s1
  if wordReaction w = 0 then s2 else setInt s2 2

/-! ### Log entries (R374 to R378) -/

/-- Log classes. -/
inductive LogClass where
  | alarm | event | trace
  deriving DecidableEq, Repr

/-- Entries of a class's own room (Table 17-4). -/
def eventRoom (s : State) : Nat := ov s 0xA0 1 0 * 32
def traceRoom (s : State) : Nat := ov s 0xA0 1 1 * 32

/-- Alarm entries that hold borrowed room of a kind: 1 event, 2 trace (R376). -/
def borrowedIn (s : State) (room : Nat) : Nat := (s.logs.alarms.filter (fun e => e.room = room)).length

def withLogs (s : State) (f : LogState → LogState) : State := { s with logs := f s.logs }

/-- A LOST marker (Table 17-3). [DEDUCED, log 99] -/
def lostMarker (time seq n : Nat) : LogEntry :=
  { time := time, lastTime := time, word := BitVec.ofNat 32 n, code := 0xFFFF, seq := seq, lost := true, arg := 0 }

/-- A marker takes `n` more drops. -/
def markerGrow (time n : Nat) (e : LogEntry) : LogEntry := { e with word := e.word + BitVec.ofNat 32 n, lastTime := time }

/-- Drops one event entry in favour of other room: the event policy (Table 17-4) applied to the oldest ordinary entries. -/
def dropEvent (s : State) : State :=
  let t := now s
  match s.logs.events with
  | m :: rest =>
    if m.lost then bump (withLogs s (fun l => { l with events := markerGrow t 1 m :: rest.drop 1 })) 0xA0 1 4
    else
      bumpN (withLogs s (fun l => { l with events := lostMarker t l.seqEvent 2 :: rest.drop 1, seqEvent := l.seqEvent + 1 })) 0xA0 1 4 2
  | [] => s

/-- A new event entry; the drop policy of Table 17-4 when the class is full. -/
def addEvent (s : State) (e : LogEntry) : State :=
  let own := eventRoom s - borrowedIn s 1
  let put := fun (s : State) => withLogs s (fun l => { l with events := l.events ++ [{ e with seq := l.seqEvent }], seqEvent := l.seqEvent + 1 })
  if s.logs.events.length < own then put s
  else if own ≤ 1 then
    match s.logs.events with
    | m :: rest =>
      if m.lost then bump (withLogs s (fun l => { l with events := markerGrow (now s) 1 m :: rest })) 0xA0 1 4
      else bumpN (withLogs s (fun l => { l with events := [lostMarker (now s) l.seqEvent 2], seqEvent := l.seqEvent + 1 })) 0xA0 1 4 2
    | [] => put s
  else put (dropEvent s)

/-- Drops one trace occurrence into the open marker, which is written first where there is none (Table 17-4). -/
def dropTrace (s : State) : State :=
  let t := now s
  let s1 := bump s 0xA0 1 5
  if s.logs.traceOpen then
    withLogs s1 (fun l => { l with traces := l.traces.dropLast ++ (l.traces.getLast?.map (markerGrow t 1)).toList })
  else
    withLogs s1 (fun l => { l with traces := l.traces ++ [lostMarker t l.seqTrace 1], seqTrace := l.seqTrace + 1, traceOpen := true })

/-- A new trace entry (Table 17-4). -/
def addTrace (s : State) (e : LogEntry) : State :=
  let own := traceRoom s - borrowedIn s 2
  if s.logs.traceOpen then dropTrace s
  else if s.logs.traces.length + 1 < own then
    withLogs s (fun l => { l with traces := l.traces ++ [{ e with seq := l.seqTrace }], seqTrace := l.seqTrace + 1 })
  else dropTrace s

/-- Removes the newest trace entry that is not a marker. -/
def takeNewestTrace (l : List LogEntry) : List LogEntry :=
  match l.reverse.span (fun e => e.lost) with
  | (ms, _ :: rest) => rest.reverse ++ ms.reverse
  | (ms, []) => ms.reverse

/-- Appends an alarm entry in the room named: 0 its own, 1 event, 2 trace. -/
def putAlarm (s : State) (e : LogEntry) (room : Nat) : State :=
  withLogs s (fun l => { l with alarms := l.alarms ++ [{ e with seq := l.seqAlarm, room := room, borrowed := room != 0 }],
                                seqAlarm := l.seqAlarm + 1 })

/-- Changes the newest entry that satisfies a test. -/
def updNewest (p : LogEntry → Bool) (f : LogEntry → LogEntry) (l : List LogEntry) : List LogEntry :=
  match l.reverse.span (fun e => !p e) with
  | (after, e :: before) => (after ++ f e :: before).reverse
  | (_, []) => l

/-- Counts one more occurrence in an entry. -/
def coalesce (time : Nat) (e : LogEntry) : LogEntry := { e with count := satNat 16 (e.count + 1), lastTime := time }

/-- A new alarm entry, in its own or in borrowed room, or coalesced where no room can be borrowed (R376). -/
def addAlarm (s : State) (e : LogEntry) : State :=
  let ownEvents := eventRoom s - borrowedIn s 1
  let ownTraces := traceRoom s - borrowedIn s 2
  if borrowedIn s 0 < 1024 then putAlarm s e 0
  else if 2 ≤ ownEvents then
    if s.logs.events.length < ownEvents then putAlarm s e 1 else putAlarm (dropEvent s) e 1
  else if s.logs.traces.length + b2n (!s.logs.traceOpen) < ownTraces then putAlarm s e 2
  else if s.logs.traces.any (fun t => !t.lost) then
    putAlarm (dropTrace (withLogs s (fun l => { l with traces := takeNewestTrace l.traces }))) e 2
  else if s.logs.alarms.any (fun a => a.code = e.code) then
    withLogs s (fun l => { l with alarms := updNewest (fun a => a.code = e.code) (coalesce (now s)) l.alarms })
  else
    withLogs s (fun l => { l with alarms := updNewest (fun _ => true) (fun a => { coalesce (now s) a with merged := true }) l.alarms })

/-- An entry takes a further occurrence (R377). -/
def sameOccurrence (e a : LogEntry) : Bool := a.code = e.code && a.word = e.word && a.arg = e.arg && !a.returned && !a.lost

/-- An alarm may be the trigger of a capture (R368). -/
def alarmTrigger (s : State) : State :=
  if s.acq.capture.state = .armed && ov s 0xA0 0 6 = 4 then
    { s with acq := { s.acq with capture := { s.acq.capture with events := s.acq.capture.events ++ [{ time := now s, force := false }] } } }
  else s

/-- One occurrence of a log source (R377, R378). -/
def log (s : State) (cls : LogClass) (code arg : Nat) (word : Word) (reason : Nat := 0) : State :=
  let e : LogEntry := { time := now s, lastTime := now s, word := word, code := code, seq := 0, arg := arg % 65536, reason := reason }
  match cls with
  | .alarm =>
    let s1 :=
      if s.logs.alarms.any (sameOccurrence e) then
        withLogs s (fun l => { l with alarms := updNewest (sameOccurrence e) (coalesce (now s)) l.alarms })
      else addAlarm s e
    alarmTrigger (setInt s1 6)
  | .event =>
    if s.logs.events.any (sameOccurrence e) then
      withLogs s (fun l => { l with events := updNewest (sameOccurrence e) (coalesce (now s)) l.events })
    else addEvent s e
  | .trace => addTrace s e

/-- A trace entry of a mask bit (R378). -/
def trace (s : State) (maskBit code arg word : Nat) (reason : Nat := 0) : State :=
  if bit (ov s 0xA0 1 2) maskBit then log s .trace code arg (BitVec.ofNat 32 word) reason else s

/-- One happening that writes an error word: the registers, and one log entry with the code given, or with ERROR (R378). -/
def errorAs (s : State) (w : Word) (code arg : Nat) (cls : LogClass) : State := log (writeErr s w) cls code arg w

/-- An error word that no specific log code covers. -/
def error (s : State) (w : Word) : State := errorAs s w 0x0001 0 (if wordReaction w = 0 then .event else .alarm)

/-- Several error words written in the same clock (R452). -/
def errors (s : State) (ws : List Word) : State := (sortBy wordBefore ws).foldl error s

/-! ### Mailboxes and completions (R59 to R66, R71, R74) -/

def mbx (s : State) (m : Nat) : Mailbox := nth {} s.zewen.mbx m

def setMbx (s : State) (m : Nat) (f : Mailbox → Mailbox) : State := { s with zewen := { s.zewen with mbx := upd s.zewen.mbx m f } }

/-- Completion statuses (Table 3-13). -/
def stOk : Nat := 0x0000
def stViewLimited : Nat := 0x0001
def stBadOpcode : Nat := 0x0100
def stBadLength : Nat := 0x0101
def stBadArgument : Nat := 0x0102
def stNoObject : Nat := 0x0103
def stTypeMismatch : Nat := 0x0104
def stReadOnly : Nat := 0x0105
def stRangeError : Nat := 0x0106
def stNoSession : Nat := 0x0200
def stNotPrivileged : Nat := 0x0201
def stPrecondition : Nat := 0x0202
def stModeRestricted : Nat := 0x0203
def stModeTransition : Nat := 0x0204
def stFaultResetMissing : Nat := 0x0205
def stBusy : Nat := 0x0206
def stAuthFailed : Nat := 0x0207
def stLockedOut : Nat := 0x0208
def stCancelled : Nat := 0x0300
def stCancelTooLate : Nat := 0x0301
def stNotFound : Nat := 0x0302
def stSuperseded : Nat := 0x0303
def stConfigRefused : Nat := 0x0304
def stMoveRefused : Nat := 0x0305
def stLeaseRefused : Nat := 0x0306
def stExhausted : Nat := 0x0307
def stSignatureInvalid : Nat := 0x0308
def stInternalError : Nat := 0x0309

/-- Whether a mailbox is bound to UDP. -/
def viaUdp (m : Mailbox) : Bool := m.via != .pcie

/-- The 64 bytes of a completion entry (Table 3-5). -/
def completionBytes (c : Completion) : Bytes :=
  leBytes 2 c.txid.toNat ++ leBytes 2 c.status ++ leBytes 2 c.opcode ++ leBytes 1 (b2n c.phase + 2 * b2n c.inBulk) ++ leBytes 1 c.mailbox ++
    leBytes 4 c.resultLen ++ leBytes 4 0 ++ leBytes 8 c.doneTime ++ slice (if c.inBulk then [] else c.result) 0 40

/-- TAG of a datagram: the first 16 bytes of its HMAC with TAG set to zero (R69). -/
def datagramTag (sk d : Bytes) : Bytes := (hmac256 sk (d.take 16 ++ zeros 16 ++ d.drop 32)).take 16

/-- The datagram that carries one completion, with its result data behind it, tagged once the session has been privileged (R57, R69, Table
3-3). [DESIGN CHOICE, log 127] -/
def completionDatagram (b : Mailbox) (c : Completion) : Bytes :=
  let data := if c.inBulk then c.result else []
  let head := leBytes 2 0x5A57 ++ leBytes 1 1 ++ leBytes 1 2 ++ leBytes 1 c.mailbox ++ leBytes 1 1 ++ leBytes 2 data.length ++
    leBytes 4 b.sessionId ++ zeros 4
  let body := completionBytes c ++ data
  if b.sk.isEmpty then head ++ zeros 16 ++ body else head ++ datagramTag b.sk (head ++ zeros 16 ++ body) ++ body

/-- A completion goes out over the Ethernet port its mailbox is bound to. -/
def sendCompletion (s : State) (b : Mailbox) (c : Completion) : State :=
  match b.via with
  | .pcie => s
  | .udp port addr udpPort => emit s (.datagram port addr udpPort (completionDatagram b c))

/-- Bytes written into a bulk window at an offset (Table 3-2). -/
def windowPut (w : List Host.Cell) (off : Nat) (bs : Bytes) : List Host.Cell :=
  (indexed bs).foldl (fun w x => tset 0 w (off + x.1) x.2) w

/-- One byte of a bulk window; a byte that is not listed is 0. -/
def windowByte (w : List Host.Cell) (a : Nat) : Byte := tget 0 w a

/-- Posts a completion: the entry of Table 3-5 in the completion ring, with a long result in the bulk window, or a datagram; the TXID is no
longer in flight (R60). After the SET_MODE that leads to BOOT nothing more is posted (R44). [DESIGN CHOICE, log 126] [DEDUCED, log 128] -/
def complete (s : State) (o : Origin) (status : Nat) (result : Bytes := []) : State :=
  if s.mode.resetFinal then s
  else
  let m := mbx s o.mbx
  let c : Completion := {
    mailbox := o.mbx, txid := o.txid, status := status, opcode := o.opcode
    phase := ((m.cplTail / 64 + 1024 - m.phaseBase / 64) % 1024) % 2 == 0
    inBulk := decide (40 < result.length), resultLen := result.length, doneTime := now s, result := result }
  let tail := (m.cplTail + 1) % 65536
  let s1 := setMbx s o.mbx (fun b => { b with
    inFlight := b.inFlight.erase o
    cplTail := tail
    cplHead := if viaUdp m then tail else b.cplHead
    cplRing := if viaUdp m then b.cplRing else tput b.cplRing (m.cplTail % 64) c
    window := if viaUdp m || !c.inBulk then b.window else windowPut b.window o.bulkOffset result
    kept := if viaUdp m && m.state != .closed then b.kept ++ [c] else b.kept })
  let s2 := sendCompletion (emit s1 (.completion c)) m c
  let s3 := trace s2 0 0x0100 o.opcode (o.txid.toNat * 65536 + status)
  if viaUdp m then s3 else sendVector s3 o.mbx

/-- Completes several commands in order. -/
def completeAll (s : State) (os : List Origin) (status : Nat) : State := os.foldl (fun s o => complete s o status) s

/-- OBJ_WRITEs whose runs have all started, or have ended, complete (R179). -/
def settleRuns (s : State) : State :=
  let waiting := fun (w : Origin × Nat × List Nat) => w.2.2.any (fun i => s.solver.queue.any (fun r => r.slot = i))
  (s.solver.waits.filter (fun w => !waiting w)).foldl (fun s w => complete s w.1 w.2.1)
    { s with solver := { s.solver with waits := s.solver.waits.filter waiting } }

end Sys2Proof.Machine
end

