-- ==== Sys2Proof/Machine/Mirror.lean ====
section
/-! DEFINITION. What the holder of a redundant pair mirrors to the standby (19_redundant_pair.md R406, Table 19-4). -/

namespace Sys2Proof.Machine

def withPair (s : State) (f : PairState → PairState) : State := { s with pair := f s.pair }

/-- What Table 19-4 names, as it stands at the end of a profile pass; the piste tables are those of the end of the arbiter pass (R212), and
the servo state of R103 is sent every 1 ms. -/
def mirrorNow (s : State) : MirrorSet :=
  let p := s.plan.arms
  { tick := tickCount s
    plans := (indexed p).map (fun a => (a.1, a.2.following, a.2.pending))
    committed := some ((s.plan.committed.map (·.2)).getD [])
    arms := (indexed p).map (fun a => (a.1, a.2.theta, a.2.rate, (nth {} s.prof.arms a.1).source))
    setpoints := s.ctl.setpoints
    leases := s.pair.mirror.leases, requests := s.pair.mirror.requests, credits := s.pair.mirror.credits
    sets := s.pair.mirror.sets, nextSets := s.pair.mirror.nextSets
    servo := if tickStart s % 1000000 = 0 then
        some { integral := s.herd.integral, state := herdCode s.herd.state, selected := s.herd.selected, slewRem := s.herd.slewRem }
      else s.pair.mirror.servo
    latches := (indexed s.field.encoders).map (fun e => (e.1, e.2.latch, e.2.age))
    mode := some (s.mode.mode, (s.mode.accepted <|> s.mode.target), s.mode.resume)
    holds := (indexed s.mode.arms).map (fun a => (a.1, a.2.held))
    delays := s.net.nodes.map (fun n => (n.1, n.2.delayA, n.2.delayB))
    d12 := some s.pair.d12 }

/-- What of a value has changed. -/
def changed {α : Type} [DecidableEq α] (old new : Option α) : Option α := if old = new then none else new

/-- Entries of a keyed list that are new or differ. -/
def changedRows {α : Type} [DecidableEq α] (old new : List α) : List α := new.filter (fun e => !old.contains e)

/-- The set of a tick, or the part of it of the arbiter pass: only what changed since the previous one. -/
def mirrorDiff (old new : MirrorSet) : MirrorSet :=
  { tick := new.tick, ends := new.ends
    plans := changedRows old.plans new.plans, committed := changed old.committed new.committed, arms := changedRows old.arms new.arms
    setpoints := changedRows old.setpoints new.setpoints, leases := changed old.leases new.leases, requests := changed old.requests new.requests
    credits := changed old.credits new.credits, sets := changed old.sets new.sets, nextSets := changed old.nextSets new.nextSets
    servo := changed old.servo new.servo, latches := changedRows old.latches new.latches, mode := changed old.mode new.mode
    holds := changedRows old.holds new.holds, delays := changedRows old.delays new.delays, d12 := changed old.d12 new.d12 }

/-- Rows of a keyed list after a change. -/
def mergeRows {α : Type} (key : α → Nat) (old new : List α) : List α :=
  sortBy (fun a b => decide (key a < key b)) (old.filter (fun e => !new.any (fun n => key n = key e)) ++ new)

/-- What the standby holds after a set. [DEDUCED, log 107] -/
def mirrorMerge (old new : MirrorSet) : MirrorSet :=
  { tick := new.tick
    plans := mergeRows (·.1) old.plans new.plans, committed := (new.committed <|> old.committed), arms := mergeRows (·.1) old.arms new.arms
    setpoints := mergeRows (·.1) old.setpoints new.setpoints, leases := (new.leases <|> old.leases), requests := (new.requests <|> old.requests)
    credits := (new.credits <|> old.credits), sets := (new.sets <|> old.sets), nextSets := (new.nextSets <|> old.nextSets)
    servo := (new.servo <|> old.servo), latches := mergeRows (·.1) old.latches new.latches, mode := (new.mode <|> old.mode)
    holds := mergeRows (·.1) old.holds new.holds, delays := mergeRows (·.1) old.delays new.delays, d12 := (new.d12 <|> old.d12) }

/-- The holder sends a set; what it sent last is kept to tell what changes (R406). -/
def mirrorOut (s : State) (now_ : MirrorSet) : State :=
  if pairOn s.objs && s.pair.role == .holder && !pairDown s then
    emit (withPair s (fun p => { p with mirror := now_ })) (.mirror (mirrorDiff s.pair.mirror now_))
  else s

/-- The part of the set of the arbiter pass: the piste tables and the lease sets that the pass checked (R212). [DEDUCED, log 107] -/
def mirrorPiste (s : State) : State :=
  mirrorOut s { s.pair.mirror with
    tick := tickCount s, ends := false, leases := some s.piste.leases, requests := some (s.piste.requests.filter (fun r => r.origin.isNone))
    credits := some s.piste.credits, sets := some s.piste.sets, nextSets := some s.piste.nextSets }

/-- The rest of the set, at the end of the profile pass. [DEDUCED, log 107] -/
def mirrorSend (s : State) : State := mirrorOut s (mirrorNow s)

/-- The holder passes an image or an activation to the standby (R408). [DEDUCED, log 109] -/
def mirrorImage (s : State) (image : Option Bytes) (activation : Option (Bytes × Nat)) : State :=
  if pairOn s.objs && s.pair.role == .holder && !pairDown s then
    emit s (.mirror { tick := tickCount s, image := image, activation := activation, ends := false })
  else s

end Sys2Proof.Machine
end

