-- ==== Sys2Proof/Machine/Kin.lean ====
section
/-! DEFINITION. Geometry of the cell: link frames, capsules, speeds of points, and zones (01_cell_architecture.md R21, R22;
14_separation_monitoring.md R292, R293, R295; 09_piste_reservation.md R193, R194). -/

namespace Sys2Proof.Machine

/-- The arithmetic a computation is carried out in: binary64 for the planner and the move checks, binary32 for the processor
channel of the separation monitor (R300). `dot` is a sum of products whose order the spec does not state. -/
structure Num (F : Type) where
  dot : List (F × F) → F
  add : F → F → F
  sub : F → F → F
  mul : F → F → F
  neg : F → F
  sqrt : F → F
  lt : F → F → Bool
  sin : F → F
  cos : F → F
  one : F
  two : F
  half : F
  zero : F
  of64 : F64 → F
  of32 : F32 → F

/-- Binary64. -/
def num64 : Num F64 :=
  { dot := dDot, add := dAdd, sub := dSub, mul := dMul, neg := dNeg, sqrt := dSqrt, lt := dLt, sin := Config.sin64, cos := Config.cos64
    one := dOne, two := dOfInt 2, half := dOfInt 1 (-1), zero := 0, of64 := id, of32 := dOfF32 }

/-- Binary32. -/
def num32 : Num F32 :=
  { dot := fDot, add := fAdd, sub := fSub, mul := fMul, neg := fNeg, sqrt := fSqrt, lt := fLt, sin := Config.sin32, cos := Config.cos32
    one := fOfInt 1, two := fOfInt 2, half := fOfInt 1 (-1), zero := 0, of64 := dToF32, of32 := id }

/-- A vector of three. -/
abbrev Vec (F : Type) := F × F × F

variable {F : Type}

def vecAdd (n : Num F) (a b : Vec F) : Vec F := (n.add a.1 b.1, n.add a.2.1 b.2.1, n.add a.2.2 b.2.2)
def vecSub (n : Num F) (a b : Vec F) : Vec F := (n.sub a.1 b.1, n.sub a.2.1 b.2.1, n.sub a.2.2 b.2.2)
def vecDot (n : Num F) (a b : Vec F) : F := n.dot [(a.1, b.1), (a.2.1, b.2.1), (a.2.2, b.2.2)]
def vecNorm (n : Num F) (a : Vec F) : F := n.sqrt (vecDot n a a)
def vecCross (n : Num F) (a b : Vec F) : Vec F :=
  (n.dot [(a.2.1, b.2.2), (n.neg a.2.2, b.2.1)], n.dot [(a.2.2, b.1), (n.neg a.1, b.2.2)], n.dot [(a.1, b.2.1), (n.neg a.2.1, b.1)])

/-- A quaternion w, x, y, z. -/
abbrev Quat (F : Type) := F × F × F × F

def quatMul (n : Num F) (a b : Quat F) : Quat F :=
  let (aw, ax, ay, az) := a
  let (bw, bx, bb, bz) := b
  (n.dot [(aw, bw), (n.neg ax, bx), (n.neg ay, bb), (n.neg az, bz)], n.dot [(aw, bx), (ax, bw), (ay, bz), (n.neg az, bb)],
    n.dot [(aw, bb), (n.neg ax, bz), (ay, bw), (az, bx)], n.dot [(aw, bz), (ax, bb), (n.neg ay, bx), (az, bw)])

/-- A vector turned by a unit quaternion. -/
def quatTurn (n : Num F) (q : Quat F) (v : Vec F) : Vec F :=
  let (w, x, y, z) := q
  let two := fun a b => n.mul n.two (n.dot [a, b])
  let nx := n.neg x
  let nw := n.neg w
  let one := n.one
  ( n.dot [(n.sub one (two (y, y) (z, z)), v.1), (two (x, y) (nw, z), v.2.1), (two (x, z) (w, y), v.2.2)],
    n.dot [(two (x, y) (w, z), v.1), (n.sub one (two (x, x) (z, z)), v.2.1), (two (y, z) (w, nx), v.2.2)],
    n.dot [(two (x, z) (nw, y), v.1), (two (y, z) (w, x), v.2.1), (n.sub one (two (x, x) (y, y)), v.2.2)] )

/-- A frame: origin and rotation to the cell frame. -/
structure Frame (F : Type) where
  org : Vec F
  rot : Quat F

/-- A point of a frame in the cell frame. -/
def frameApply (n : Num F) (f : Frame F) (p : Vec F) : Vec F := vecAdd n f.org (quatTurn n f.rot p)

/-- A kinematic entry (Table 14-3). -/
structure KinEntry where
  prismatic : Bool
  trans : Vec F64
  rot : Quat F64
  offset : F64

/-- Binary64 field of a byte-string object. -/
def obF64At (objs : List (Nat × Nat)) (cls inst mem o : Nat) : F64 := BitVec.ofNat 64 (obField objs cls inst mem o 8)
/-- Binary32 field of a byte-string object. -/
def obF32At (objs : List (Nat × Nat)) (cls inst mem o : Nat) : F32 := BitVec.ofNat 32 (obField objs cls inst mem o 4)

/-- Three and four binary64 values of an object. -/
def obVec (objs : List (Nat × Nat)) (cls inst mem o : Nat) : Vec F64 :=
  (obF64At objs cls inst mem o, obF64At objs cls inst mem (o + 8), obF64At objs cls inst mem (o + 16))
def obQuat (objs : List (Nat × Nat)) (cls inst mem o : Nat) : Quat F64 :=
  (obF64At objs cls inst mem o, obF64At objs cls inst mem (o + 8), obF64At objs cls inst mem (o + 16), obF64At objs cls inst mem (o + 24))

/-- `arm.kin` of joint j of an arm. -/
def kinEntry (objs : List (Nat × Nat)) (arm j : Nat) : KinEntry :=
  { prismatic := obField objs 0x20 arm (0x10 + j) 0 1 == 1, trans := obVec objs 0x20 arm (0x10 + j) 8, rot := obQuat objs 0x20 arm (0x10 + j) 32
    offset := obF64At objs 0x20 arm (0x10 + j) 64 }

def vecOf64 (n : Num F) (v : Vec F64) : Vec F := (n.of64 v.1, n.of64 v.2.1, n.of64 v.2.2)
def quatOf64 (n : Num F) (q : Quat F64) : Quat F := (n.of64 q.1, n.of64 q.2.1, n.of64 q.2.2.1, n.of64 q.2.2.2)

/-- One joint of the chain: the frame before M_j, whose z axis is the joint's axis, and the frame after it (R292). -/
def kinStep (n : Num F) (k : KinEntry) (q : F) (f : Frame F) : Frame F × Frame F :=
  let mid : Frame F := { org := frameApply n f (vecOf64 n k.trans), rot := quatMul n f.rot (quatOf64 n k.rot) }
  let next :=
    if k.prismatic then { mid with org := frameApply n mid (n.zero, n.zero, q) }
    else { mid with rot := quatMul n mid.rot (n.cos (n.mul n.half q), n.zero, n.zero, n.sin (n.mul n.half q)) }
  (mid, next)

/-- The chain of an arm: joint frames before each M_j, and link frames F₁ to F₈, joint by joint. -/
def kinGo (n : Num F) (objs : List (Nat × Nat)) (arm : Nat) : Nat → List F → Frame F → List (Frame F × Frame F)
  | _, [], _ => []
  | j, q :: rest, f =>
    let r := kinStep n (kinEntry objs arm j) q f
    r :: kinGo n objs arm (j + 1) rest r.2

/-- A pose of an arm: base, joints and flange. -/
structure Pose (F : Type) where
  base : Frame F
  joints : List (Frame F × Frame F)
  flange : Frame F

/-- Pose for joint values q (OFFSET included), joints 0 to 7 (R292). -/
def armPose (n : Num F) (objs : List (Nat × Nat)) (arm : Nat) (q : List F) : Pose F :=
  let base : Frame F := { org := vecOf64 n (obVec objs 0x20 arm 0 0), rot := quatOf64 n (obQuat objs 0x20 arm 1 0) }
  let js := kinGo n objs arm 0 q base
  let f8 := match js.getLast? with
    | some r => r.2
    | none => base
  { base := base, joints := js
    flange := { org := frameApply n f8 (vecOf64 n (obVec objs 0x20 arm 0x18 0)), rot := quatMul n f8.rot (quatOf64 n (obQuat objs 0x20 arm 0x18 24)) } }

/-- Frame of link l (R292). -/
def linkFrame (p : Pose F) (l : Nat) : Frame F :=
  if l = 0 then p.base else if 9 ≤ l then p.flange else
    match p.joints[l - 1]? with
    | some r => r.2
    | none => p.base

/-- A capsule (R293). -/
structure Capsule where
  arm : Nat
  link : Nat
  on : Bool
  p0 : Vec F32
  p1 : Vec F32
  radius : F32
  deriving DecidableEq, Repr

def capsule (objs : List (Nat × Nat)) (k : Nat) : Capsule :=
  let f := obF32At objs 0x50 k 0
  { arm := obField objs 0x50 k 0 0 1, link := obField objs 0x50 k 0 1 1, on := obField objs 0x50 k 0 2 1 % 2 == 1
    p0 := (f 4, f 8, f 12), p1 := (f 16, f 20, f 24), radius := f 28 }

/-- Enabled capsules of an arm, in ascending index. -/
def armCapsules (objs : List (Nat × Nat)) (arm : Nat) : List (Nat × Capsule) :=
  ((List.range 96).map (fun k => (k, capsule objs k))).filter (fun c => c.2.on && c.2.arm == arm)

def vecOf32 (n : Num F) (v : Vec F32) : Vec F := (n.of32 v.1, n.of32 v.2.1, n.of32 v.2.2)

/-- End centres of a capsule in the cell frame. -/
def capsuleEnds (n : Num F) (p : Pose F) (c : Capsule) : Vec F × Vec F :=
  let f := linkFrame p c.link
  (frameApply n f (vecOf32 n c.p0), frameApply n f (vecOf32 n c.p1))

/-- The TCP in the cell frame (R292). -/
def tcpPoint (n : Num F) (objs : List (Nat × Nat)) (arm : Nat) (p : Pose F) : Vec F :=
  frameApply n p.flange (vecOf64 n (obVec objs 0x20 arm 0x19 0))

/-- Axis of joint j, its origin, and whether it is prismatic. -/
def jointAxes (n : Num F) (objs : List (Nat × Nat)) (arm : Nat) (p : Pose F) : List (Vec F × Vec F × Bool) :=
  (indexed p.joints).map (fun r => (quatTurn n r.2.1.rot (n.zero, n.zero, n.one), r.2.1.org, (kinEntry objs arm r.1).prismatic))

/-- How fast each joint moves a point carried by link l: the columns of its Jacobian, joints 0 to 7. -/
def jacobian (n : Num F) (axes : List (Vec F × Vec F × Bool)) (l : Nat) (pt : Vec F) : List (Vec F) :=
  (indexed axes).map (fun r =>
    if min l 8 ≤ r.1 then (n.zero, n.zero, n.zero)
    else if r.2.2.2 then r.2.1 else vecCross n r.2.1 (vecSub n pt r.2.2.1))

/-- Velocity of a point carried by link l for joint rates qd (R295). -/
def pointVel (n : Num F) (axes : List (Vec F × Vec F × Bool)) (l : Nat) (qd : List F) (pt : Vec F) : Vec F :=
  let terms := ((axes.take (min l 8)).zip qd).map (fun r =>
    let (axis, org, pris) := r.1
    (if pris then axis else vecCross n axis (vecSub n pt org), r.2))
  (n.dot (terms.map (fun t => (t.1.1, t.2))), n.dot (terms.map (fun t => (t.1.2.1, t.2))), n.dot (terms.map (fun t => (t.1.2.2, t.2))))

/-- Angular velocity of link l (R295). -/
def linkOmega (n : Num F) (axes : List (Vec F × Vec F × Bool)) (l : Nat) (qd : List F) : Vec F :=
  let terms := ((axes.take (min l 8)).zip qd).filter (fun r => !r.1.2.2)
  (n.dot (terms.map (fun t => (t.1.1.1, t.2))), n.dot (terms.map (fun t => (t.1.1.2.1, t.2))), n.dot (terms.map (fun t => (t.1.1.2.2, t.2))))

/-! ### Zones (R193) -/

/-- Half-spaces of a zone: normal and offset. -/
def zonePlanes (objs : List (Nat × Nat)) (z : Nat) : List (Vec F32 × F32) :=
  (List.range (min 16 (obField objs 0x40 z 0 0 1))).map (fun i =>
    let f := fun o => obF32At objs 0x40 z 0 (4 + 16 * i + o)
    ((f 0, f 4, f 8), f 12))

/-- A zone is used: COUNT is not 0 (R193). -/
def zoneUsed (objs : List (Nat × Nat)) (z : Nat) : Bool := decide (z < 256) && obField objs 0x40 z 0 0 1 != 0

/-- A point lies inside every half-space of a zone by at least `by_`. -/
def pointInside (objs : List (Nat × Nat)) (z : Nat) (by_ : F64) (p : Vec F64) : Bool :=
  (zonePlanes objs z).all (fun h => dLe (vecDot num64 (vecOf32 num64 h.1) p) (dSub (dOfF32 h.2) by_))

/-- A capsule with these end centres lies inside a zone shrunk by a margin (R158 test 4, R226). -/
def capsuleInside (objs : List (Nat × Nat)) (z : Nat) (margin : F64) (ends : Vec F64 × Vec F64) (radius : F32) : Bool :=
  let m := dAdd margin (dOfF32 radius)
  pointInside objs z m ends.1 && pointInside objs z m ends.2

/-- Point of a segment reached by a fraction t. -/
def segPoint (a b : Vec F64) (t : F64) : Vec F64 :=
  (dFma t (dSub b.1 a.1) a.1, dFma t (dSub b.2.1 a.2.1) a.2.1, dFma t (dSub b.2.2 a.2.2) a.2.2)

/-- The range of t in [0, 1] in which the segment meets every half-space widened by the radius. -/
def segClip (objs : List (Nat × Nat)) (z : Nat) (radius : F32) (a b : Vec F64) : Option (F64 × F64) :=
  (zonePlanes objs z).foldl (fun acc h =>
    match acc with
    | none => none
    | some (lo, hi) =>
      let n := vecOf32 num64 h.1
      let lim := dAdd (dOfF32 h.2) (dOfF32 radius)
      let da := dSub lim (vecDot num64 n a)
      let db := dSub lim (vecDot num64 n b)
      if dLe 0 da && dLe 0 db then some (lo, hi)
      else if dLt da 0 && dLt db 0 then none
      else
        let t := dDiv da (dSub da db)
        let r := if dLt da 0 then (dMax lo t, hi) else (lo, dMin hi t)
        if dLe r.1 r.2 then some r else none) (some (0, dOne))

/-- Some capsule of an arm meets a zone: its axis meets the zone widened by its radius (R42). -/
def armMeetsZone (objs : List (Nat × Nat)) (arm : Nat) (pose : Pose F64) (z : Nat) : Bool :=
  zoneUsed objs z && (armCapsules objs arm).any (fun c =>
    let e := capsuleEnds num64 pose c.2
    (segClip objs z c.2.radius e.1 e.2).isSome)

/-- Value of joint j for the kinematics of the planner and the move checks: its position in joint units plus OFFSET, 0 for an absent
joint (R292). -/
def planJoint (objs : List (Nat × Nat)) (arm j : Nat) (unit : F64) : F64 :=
  if jointPresent objs (arm * 8 + j) then dAdd unit (kinEntry objs arm j).offset else 0

/-- Counts of a channel as its unit (R214). -/
def countsPerUnit (objs : List (Nat × Nat)) (ch : Nat) : F64 := obD objs 0x21 ch 0
def toUnit (objs : List (Nat × Nat)) (ch : Nat) (counts : F64) : F64 := dDiv counts (countsPerUnit objs ch)
def toCounts (objs : List (Nat × Nat)) (ch : Nat) (unit : F64) : F64 := dMul unit (countsPerUnit objs ch)

/-- q32.32 and binary64 counts. -/
def q32ToD (v : Int) : F64 := dOfInt v (-32)
def dToQ32 (v : F64) : Int := dToFix 32 v

end Sys2Proof.Machine
end

