-- ==== Sys2Proof/Machine/Motion.lean ====
section
/-! DEFINITION. Point-to-point profiles and their sampling (10_motion_profiles.md R219, R221 to R224), in binary64. -/

namespace Sys2Proof.Machine

/-- A count rounded to a whole number where the spec names no rounding. [DESIGN CHOICE, log 62] -/
def freeRound (x : F64) : Nat := (dFloor x).toNat + b2n (!dEq (dOfInt (dFloor x)) x && Config.roundUp x)

/-- 10⁻⁹ in binary64. -/
def nano : F64 := dRatio 1 1000000000

/-- Nanoseconds as seconds. -/
def nsToS (n : Nat) : F64 := dMul (dOfNat n) nano

/-- Seconds as nanoseconds, rounded to nearest (R221). -/
def sToNs (t : F64) : Nat := (dRne (dMul t (dOfInt 1000000000))).toNat

/-- a³ and 2a. -/
def dCube (a : F64) : F64 := dMul (dMul a a) a
def dTwice (a : F64) : F64 := dScale a 1
def dHalf (a : F64) : F64 := dScale a (-1)

/-- State after x seconds of constant jerk j. -/
def jerkStep (x j : F64) (st : F64 × F64 × F64) : F64 × F64 × F64 :=
  let (p, v, a) := st
  let x2 := dMul x x
  (dDot [(p, dOne), (v, x), (dHalf a, x2), (dDiv j (dOfInt 6), dMul x2 x)], dDot [(v, dOne), (a, x), (dHalf j, x2)],
    dDot [(a, dOne), (j, x)])

/-- State after a list of whole phases. -/
def runPhases (st : F64 × F64 × F64) (ph : List (Nat × F64)) : F64 × F64 × F64 := ph.foldl (fun s p => jerkStep (nsToS p.1) p.2 s) st

/-- State `t` ns after the start of a list of phases, none past their end. -/
def sampleGo (st : F64 × F64 × F64) : List (Nat × F64) → Nat → Option (F64 × F64 × F64)
  | [], _ => none
  | (d, j) :: rest, t => if t < d then some (jerkStep (nsToS t) j st) else sampleGo (jerkStep (nsToS d) j st) rest (t - d)

/-- Length of a profile in ns. -/
def profLen (p : Profile) : Nat := sumNat (p.phases.map (·.1))

/-- End of a profile in its own time. -/
def profEnd (p : Profile) : Nat := p.start + profLen p

/-- A profile sampled at a time; past its end it stands at its target. -/
def profSample (p : Profile) (t : Nat) : F64 × F64 × F64 := (sampleGo (p.p, p.v, p.a) p.phases (t - p.start)).getD (p.target, 0, 0)

/-- A jog sampled at a time; past its ramp it goes on at the speed reached (R230). -/
def jogSample (p : Profile) (t : Nat) : F64 × F64 × F64 :=
  match sampleGo (p.p, p.v, p.a) p.phases (t - p.start) with
  | some st => st
  | none =>
    let e := runPhases (p.p, p.v, p.a) p.phases
    (dDot [(e.1, dOne), (e.2.1, nsToS (t - profEnd p))], e.2.1, 0)

/-- Positions a profile reaches at its phase boundaries, its start and its target included. -/
def profReach (p : Profile) : List F64 :=
  (p.phases.foldl (fun (acc : List F64 × (F64 × F64 × F64)) ph =>
      let st := jerkStep (nsToS ph.1) ph.2 acc.2
      (acc.1 ++ [st.1], st)) ([p.p], (p.p, p.v, p.a))).1 ++ [p.target]

/-! ### Rest to rest (R221) -/

/-- Phase durations tj, ta, tv of a rest-to-rest profile over d > 0. [DESIGN CHOICE, log 63] -/
def restTimes (l : Limits) (d : F64) : F64 × F64 × F64 :=
  let tj := dMin (dDiv l.a l.j) (dSqrt (dDiv l.v l.j))
  let ta := dSub (dDiv l.v (dMul l.j tj)) tj
  let full := dMul l.v (dAdd ta (dTwice tj))
  if dLe full d then (tj, ta, dDiv (dSub d full) l.v)
  else if dLe (dDiv (dTwice (dCube l.a)) (dMul l.j l.j)) d then
    let tj := dDiv l.a l.j
    (tj, dAdd (dMul (dRatio (-3) 2) tj) (dSqrt (dAdd (dDiv (dMul tj tj) (dOfInt 4)) (dDiv d l.a))), 0)
  else (Config.cbrt64 (dDiv d (dTwice l.j)), 0, 0)

/-- Phase boundaries in ns, rounded to nearest, as phase lengths. -/
def boundaries (ts : List (F64 × F64)) : List (Nat × F64) :=
  (ts.foldl (fun (acc : List (Nat × F64) × F64 × Nat) p =>
      let t := dAdd acc.2.1 p.1
      let b := max (sToNs t) acc.2.2
      (acc.1 ++ [(b - acc.2.2, p.2)], t, b)) ([], 0, 0)).1

/-- Rest-to-rest profile from p0 to p1 (R221). -/
def restProfile (l : Limits) (start : Nat) (p0 p1 : F64) : Profile :=
  let d := dSub p1 p0
  if dEq d 0 then { start := start, p := p0, target := p1 }
  else
    let j := if dLt d 0 then dNeg l.j else l.j
    let (tj, ta, tv) := restTimes l (dAbs d)
    { start := start, p := p0, target := p1
      phases := boundaries [(tj, j), (ta, 0), (tj, dNeg j), (tv, 0), (tj, dNeg j), (ta, 0), (tj, j)] }

/-! ### Stop profiles (R222) -/

/-- Phases of the stop from velocity v > 0 and acceleration a, in seconds and jerk. -/
def stopForward (l : Limits) (v a : F64) : List (F64 × F64) :=
  let need := dSqrt (dAdd (dMul l.j v) (dHalf (dMul a a)))
  if dLe need l.a then
    [(dMax 0 (dDiv (dAdd a need) l.j), dNeg l.j), (dDiv need l.j, l.j)]
  else
    let t1 := dMax 0 (dDiv (dAdd a l.a) l.j)
    let v1 := dAdd v (dDiv (dSub (dMul a a) (dMul l.a l.a)) (dTwice l.j))
    [(t1, dNeg l.j), (dMax 0 (dDiv (dSub v1 (dDiv (dMul l.a l.a) (dTwice l.j))) l.a), 0), (dDiv l.a l.j, l.j)]

/-- Turns phases round for a motion towards minus. -/
def flipPhases (neg : Bool) (ph : List (F64 × F64)) : List (F64 × F64) := if neg then ph.map (fun p => (p.1, dNeg p.2)) else ph

/-- Phases of the stop from (v, a). Where the acceleration against the motion is so large that the jerk limit carries the channel through
standstill, it is brought to 0 first and the channel stops from the velocity left. -/
def stopPhases (l : Limits) (v a : F64) : List (F64 × F64) :=
  if dEq v 0 then (if dEq a 0 then [] else [(dDiv (dAbs a) l.j, if dLt a 0 then l.j else dNeg l.j)])
  else
    let neg := dLt v 0
    let av := dAbs v
    let aa := if neg then dNeg a else a
    let lost := dDiv (dMul aa aa) (dTwice l.j)
    if dLt aa 0 && dLt av lost then
      flipPhases neg ((dDiv (dAbs aa) l.j, l.j) :: flipPhases true (stopForward l (dSub lost av) 0))
    else flipPhases neg (stopForward l av aa)

/-- The stop profile from a state (R222). -/
def stopProfile (l : Limits) (start : Nat) (st : F64 × F64 × F64) : Profile :=
  let ph := boundaries (stopPhases l st.2.1 st.2.2)
  { start := start, p := st.1, v := st.2.1, a := st.2.2, phases := ph, target := (runPhases st ph).1 }

/-- The stop point of a state. -/
def stopPoint (l : Limits) (st : F64 × F64 × F64) : F64 := (stopProfile l 0 st).target

/-! ### Moving states (R223) -/

/-- Velocity ramp of R221 over Δv: phases towards plus or minus. -/
def rampPhases (l : Limits) (from_ to_ : F64) : List (F64 × F64) :=
  let dv := dAbs (dSub to_ from_)
  if dEq dv 0 then []
  else
    let tj := dMin (dDiv l.a l.j) (dSqrt (dDiv dv l.j))
    let ta := dSub (dDiv dv (dMul l.j tj)) tj
    flipPhases (dLt to_ from_) [(tj, l.j), (ta, 0), (tj, dNeg l.j)]

/-- Distance a ramp covers. -/
def rampDist (l : Limits) (from_ to_ : F64) : F64 :=
  let t := (rampPhases l from_ to_).foldl (fun t p => dAdd t p.1) 0
  dHalf (dMul (dAdd from_ to_) t)

/-- Ramps to a peak and on to 0 cover no more than d. -/
def peakFits (l : Limits) (w d peak : F64) : Bool := dLe (dAdd (rampDist l w peak) (rampDist l peak 0)) d

/-- Bisection for the peak velocity to 10⁻⁶ of V; the lower end of the last interval. -/
def peakGo (l : Limits) (w d : F64) : Nat → F64 → F64 → F64
  | 0, lo, _ => lo
  | n + 1, lo, hi =>
    if dLe (dSub hi lo) (dMul (dRatio 1 1000000) l.v) then lo
    else
      let mid := dHalf (dAdd lo hi)
      if peakFits l w d mid then peakGo l w d n mid hi else peakGo l w d n lo mid

/-- Profile from a moving state towards a target (R223). -/
def moveProfile (l : Limits) (start : Nat) (st : F64 × F64 × F64) (target : F64) : Profile :=
  let (p, v, a) := st
  if dEq v 0 && dEq a 0 then restProfile l start p target
  else
    let stp := stopProfile l start st
    let back : Profile :=
      let r := restProfile l 0 stp.target target
      { stp with phases := stp.phases ++ r.phases, target := target }
    let neg := dLt v 0 || (dEq v 0 && dLt target stp.target)
    let ahead := if neg then dLt target stp.target else dLt stp.target target
    if !ahead then back
    else
      let first : List (F64 × F64) := if dEq a 0 then [] else [(dDiv (dAbs a) l.j, if dLt a 0 then l.j else dNeg l.j)]
      let s1 := runPhases st (boundaries first)
      let w := if neg then dNeg s1.2.1 else s1.2.1
      let d := if neg then dSub s1.1 target else dSub target s1.1
      let lo := dMin w l.v
      if dLt w 0 || !peakFits l w d lo then back
      else
        let peak := if peakFits l w d l.v then l.v else peakGo l w d 64 lo l.v
        let rest := dSub d (dAdd (rampDist l w peak) (rampDist l peak 0))
        let cruise : List (F64 × F64) := if dLt 0 rest && dLt 0 peak then [(dDiv rest peak, 0)] else []
        { start := start, p := p, v := v, a := a, target := target
          phases := boundaries (first ++ flipPhases neg (rampPhases l w peak ++ cruise ++ rampPhases l peak 0)) }

/-- The ramp of a jog to a signed speed (R230). -/
def jogProfile (l : Limits) (start : Nat) (st : F64 × F64 × F64) (speed : F64) : Profile :=
  let (p, v, a) := st
  let first : List (F64 × F64) := if dEq a 0 then [] else [(dDiv (dAbs a) l.j, if dLt a 0 then l.j else dNeg l.j)]
  let w := (runPhases st (boundaries first)).2.1
  let ph := boundaries (first ++ rampPhases l w speed)
  { start := start, p := p, v := v, a := a, phases := ph, target := (runPhases st ph).1 }

/-! ### Committed plans (R219) -/

/-- Value of C1·x + … + C5·x⁵ by Horner's rule. -/
def hornerPos (g : Segment) (x : F64) : F64 :=
  dMul (dAdd (dMul (dAdd (dMul (dAdd (dMul (dAdd (dMul g.c5 x) g.c4) x) g.c3) x) g.c2) x) g.c1) x

/-- Its first and second derivatives. -/
def hornerVel (g : Segment) (x : F64) : F64 :=
  let m := fun (k : Int) c => dMul (dOfInt k) c
  dAdd (dMul (dAdd (dMul (dAdd (dMul (dAdd (dMul (m 5 g.c5) x) (m 4 g.c4)) x) (m 3 g.c3)) x) (m 2 g.c2)) x) g.c1
def hornerAcc (g : Segment) (x : F64) : F64 :=
  let m := fun (k : Int) c => dMul (dOfInt k) c
  dAdd (dMul (dAdd (dMul (dAdd (dMul (m 20 g.c5) x) (m 12 g.c4)) x) (m 6 g.c3)) x) (m 2 g.c2)

/-- A segment sampled x ns after its start: position in q32.32 counts, velocity and acceleration in plan time. -/
def segSample (g : Segment) (x : Nat) : Int × F64 × F64 :=
  let t := nsToS x
  (g.c0 + dToQ32 (hornerPos g t), hornerVel g t, hornerAcc g t)

/-- A joint of a plan sampled θ − θ₀ after the origin: the segment that contains it, and past the tail its end position at rest. -/
def planGo : List Segment → Nat → Int × F64 × F64
  | [], _ => (0, 0, 0)
  | [g], x => if x < g.durationNs then segSample g x else ((segSample g g.durationNs).1, 0, 0)
  | g :: rest, x => if x < g.durationNs then segSample g x else planGo rest (x - g.durationNs)

/-- Joint j of a plan at plan time θ. -/
def planSample (r : PlanRecord) (j θ : Nat) : Int × F64 × F64 := planGo (nth [] r.joints j) (θ - r.origin)

/-- Plan time at which a plan's tail ends. -/
def planEnd (r : PlanRecord) : Nat := r.origin + maxNat (r.joints.map (fun gs => sumNat (gs.map (·.durationNs))))

end Sys2Proof.Machine
end

