-- ==== Sys2Proof/Machine/Session.lean ====
section
/-! DEFINITION. Mailboxes and sessions (03_zewen_interface.md R55 to R75, R81, R82, R459): how an entry is taken and judged, and the
commands of the session itself. -/

namespace Sys2Proof.Machine

/-! ### Taking an entry (R58 to R63, R70, R71) -/

/-- The supervisor, or in a rescue start the ROM loader, serves a mailbox over a transport (R46, R51, R58). -/
def serving (s : State) (m : Nat) (udp : Bool) : Bool :=
  if s.start.rescue then m == 0 && domainOn s 12 && !(udp && s.start.rescuePcieOnly)
  else s.hw.hostReady && domainOn s 12 && domainOn s 1 && !isolated s 0 0 &&
    (if udp then !isolated s 3 4 && !gated s 3 4 else !isolated s 3 3 && s.zewen.linkUp)

/-- Completions a mailbox holds that the host has not consumed. -/
def unconsumed (b : Mailbox) : Nat := (b.cplTail + 65536 - b.cplHead) % 65536

/-- An entry waits in the command ring, or accepted over UDP, and R62 lets it be consumed. -/
def entryReady (s : State) (m : Nat) : Bool :=
  let b := mbx s m
  (b.cmdTail != b.cmdHead && serving s m false && decide (b.inFlight.length + unconsumed b < 64)) ||
    (!b.accepted.isEmpty && serving s m true && decide (b.inFlight.length - b.accepted.length + unconsumed b < 64))

/-- Mailbox m is the next one in the turn: none between the last one served and m has an entry ready (R63). [DESIGN CHOICE, log 6] -/
def turnOf (s : State) (m : Nat) : Bool :=
  let first := s.zewen.lastServed + 1
  (List.range ((m + 8 - first % 8) % 8)).all (fun i => !entryReady s ((first + i) % 8))

/-- The accepted datagram entry that a UDP command takes: the oldest, or for CANCEL, which executes ahead of ring order, the one with its
TXID (R72). -/
def acceptedEntry (b : Mailbox) (e : Entry) : Option (Transport × Entry) :=
  match b.accepted with
  | [] => none
  | a :: rest =>
    if a.2.txid = e.txid && a.2.opcode = e.opcode then some a
    else if e.opcode = 0x0007 then rest.find? (fun x => x.2.txid = e.txid && x.2.opcode = 0x0007) else none

/-- The bytes of the arguments: inline, or in bulk with FLAGS[0] (R59). -/
def entryArgs (e : Entry) : Bytes :=
  if e.flags.getLsbD 0 then slice e.bulk 0 e.bulkLen else slice e.args 0 e.argLen

/-- BULK_OUT of an entry. -/
def bulkOut (e : Entry) : Bool := e.flags.getLsbD 1

/-- The argument and bulk lengths of an entry are ones a ring or a datagram can carry (R57, R59). -/
def lengthsFit (e : Entry) : Bool :=
  decide (e.argLen ≤ 224) &&
    (!(e.flags.getLsbD 0 || e.flags.getLsbD 1) ||
      (if e.udp then decide (e.bulkLen ≤ 1024) else decide (e.bulkLen ≤ 65536) && decide (e.bulkOffset + e.bulkLen ≤ 65536)))

/-- Whether a result of n bytes fits where it must go (R60). -/
def resultFits (e : Entry) (n : Nat) : Bool :=
  decide (n ≤ 40) || (bulkOut e && (if e.udp then decide (n ≤ 1024) else decide (e.bulkOffset + n ≤ 65536)))

/-- Where a command's completion goes back to. -/
def originOf (e : Entry) : Origin :=
  { mbx := e.mbx, txid := e.txid, opcode := e.opcode, bulkOut := bulkOut e, bulkOffset := e.bulkOffset }

/-- Counts a discarded entry in DISCARDS. -/
def discard (s : State) (m : Nat) : State := setMbx s m (fun b => { b with discards := satNat 16 (b.discards + 1) })

/-- The bulk window with the bulk data the host has written for an entry (R59, Table 3-2). -/
def bulkWindow (b : Mailbox) (e : Entry) : List Host.Cell :=
  if e.flags.getLsbD 0 && decide (e.bulkOffset + e.bulkLen ≤ 65536) then windowPut b.window e.bulkOffset (slice e.bulk 0 e.bulkLen) else b.window

/-- The entry leaves the ring or the accepted queue, and its mailbox is the one served last. What the host wrote to BAR4 for an entry of the
ring comes with the entry: it stands in the command ring and the bulk window from here on. [DESIGN CHOICE, log 6] -/
def consumeEntry (s : State) (e : Entry) : State :=
  let s1 := setMbx s e.mbx (fun b =>
    if e.udp then { b with accepted := b.accepted.filter (fun a => a.2.txid != e.txid) }
    else { b with cmdHead := (b.cmdHead + 1) % 65536, cmdRing := tput b.cmdRing (b.cmdHead % 64) e, window := bulkWindow b e })
  { s1 with zewen := { s1.zewen with lastServed := e.mbx, executed := s1.zewen.executed + 1 } }

/-- Epoch of a mailbox (R65). -/
def epochOf (s : State) (m : Nat) : Nat := nth 0 s.aon.epochs m

/-- Epoch and sequence number of a TXID (R59). -/
def txEpoch (t : BitVec 16) : Nat := bits t.toNat 15 12
def txSeq (t : BitVec 16) : Nat := bits t.toNat 11 0

/-- A transition is pending or in progress (R41). -/
def inTransition (s : State) : Bool := s.mode.accepted.isSome || s.mode.target.isSome

/-- How the judgement of R459 treats a command (Table 3-12, Table 2-4). -/
structure CmdSpec where
  opcode : Nat
  priv : Bool := false
  /-- Modes that allow it; empty for any. -/
  modes : List Mode := []
  /-- Refused during a transition (Table 2-4). -/
  noTransition : Bool := false
  /-- A transition refuses the entry although it does not refuse the command (Table 2-4, SET_MODE). -/
  refusedBy : State → Entry → Bool := fun _ _ => false
  /-- The ROM loader executes it (R51). -/
  rescue : Bool := false
  /-- Executed in a rescue start only. -/
  loaderOnly : Bool := false
  /-- An opcode that Table 3-12 does not define. -/
  unknown : Bool := false

/-- Steps 1 to 4 of R459, and R51: the status of the first that fails. -/
def judge (c : CmdSpec) (needsPriv : Bool) (s : State) (e : Entry) : Option Nat :=
  let st := (mbx s e.mbx).state
  if st = .closed && c.opcode != 0x0002 then some stNoSession
  else if s.start.rescue && !c.rescue then some stModeRestricted
  else if c.unknown then some stBadOpcode
  else if needsPriv && st != .privileged then some stNotPrivileged
  else if c.loaderOnly && !s.start.rescue then some stModeRestricted
  else if !c.modes.isEmpty && !c.modes.contains s.mode.mode then some stModeRestricted
  else if (c.noTransition && inTransition s) || c.refusedBy s e then some stModeTransition
  else none

/-- The entry a command takes: the one waiting in the ring, or accepted in a datagram, if its mailbox may be served (R58, R62). -/
def takenEntry (opcode : Nat) (s : State) (e0 : Entry) : Option (Transport × Entry) :=
  let b := mbx s e0.mbx
  if e0.opcode != opcode || 8 ≤ e0.mbx then none
  else if e0.udp then (if b.accepted.isEmpty || !entryReady s e0.mbx then none else acceptedEntry b e0)
  else if b.cmdTail = b.cmdHead || !entryReady s e0.mbx then none else some (.pcie, e0)

/-- Why a taken entry is discarded, with the counter of its mailbox that counts it besides DISCARDS, if any (R65, R66, R70, R71). Entries of
the ring that a session in CLOSING has not consumed are discarded like new ones (Table 3-9). [DEDUCED, log 14] [DEDUCED, log 129] -/
def entryFault (s : State) (via : Transport) (e : Entry) : Option (Option Nat) :=
  let b := mbx s e.mbx
  if b.state = .closing then some none
  else if b.state != .closed && b.via != via then some none
  else if b.state != .closed && txEpoch e.txid != epochOf s e.mbx then some (some 3)
  else if !e.udp && b.inFlight.any (fun f => f.txid = e.txid) then some (some 1)
  else none

/-- A discarded entry is counted. -/
def dropEntry (s : State) (m : Nat) (counter : Option Nat) : State :=
  match counter with
  | none => discard s m
  | some k => bump (discard s m) 0xD0 (0x80 + m) k

/-- A datagram entry that is discarded on its turn is no longer in flight. -/
def leaveFlight (s : State) (e : Entry) : State :=
  if e.udp then setMbx s e.mbx (fun b => { b with inFlight := b.inFlight.filter (fun o => o.txid != e.txid) }) else s

/-- A taken entry that is not discarded is in flight, and a CLOSED mailbox answers where it came from. -/
def enterFlight (s : State) (via : Transport) (e : Entry) : State :=
  setMbx s e.mbx (fun b => { b with
    inFlight := if e.udp then b.inFlight else b.inFlight ++ [originOf e], via := if b.state = .closed then via else b.via })

/-- Takes an entry and executes it. `lenOk` is the length rule of the command's layout, `body` what the command does once R459 has let it
through; the entry given to `body` is the one taken. -/
def command (c : CmdSpec) (priv : Entry → Bool) (lenOk : Entry → Bool) (body : Entry → Transport → State → State)
    (clk : Nat) (e0 : Entry) (s0 : State) : State :=
  let s := begin clk s0
  match takenEntry c.opcode s e0 with
  | none => s
  | some (via, e) =>
    if !turnOf s e.mbx then s
    else
      match entryFault s via e with
      | some counter => dropEntry (leaveFlight (consumeEntry s e) e) e.mbx counter
      | none =>
        let s2 := enterFlight (consumeEntry s e) via e
        match judge c (priv e) s2 e with
        | some st => complete s2 (originOf e) st
        | none => if lengthsFit e && lenOk e then body e via s2 else complete s2 (originOf e) stBadLength

/-- The length rule of a fixed layout of n bytes (R459 step 5). -/
def fixedLen (n : Nat) (e : Entry) : Bool := (entryArgs e).length == n

/-- Completes with a result, or with BAD_LENGTH where it cannot fit (R60). -/
def answer (s : State) (e : Entry) (status : Nat) (result : Bytes) : State :=
  if resultFits e result.length then complete s (originOf e) status result else complete s (originOf e) stBadLength

/-! ### Closing a session (R66) -/

/-- Withdraws a waiting command that Table 3-12 marks cancellable; none when it is not one. -/
def withdraw (s : State) (o : Origin) : Option State :=
  if s.plan.waits.any (fun w => w.origin = o) then
    some { s with plan := { s.plan with waits := s.plan.waits.filter (fun w => w.origin != o) } }
  else if s.piste.requests.any (fun r => r.origin = some o) then
    some { s with piste := { s.piste with requests := s.piste.requests.filter (fun r => r.origin != some o) } }
  else if s.acq.waits.any (fun w => w.origin = o) then
    some { s with acq := { s.acq with waits := s.acq.waits.filter (fun w => w.origin != o) } }
  else
    match s.image.commit with
    | some c => if c.origin = some o then some { s with image := { s.image with commit := none } } else none
    | none => none

/-- Commands of a mailbox that have not started or can be withdrawn complete with CANCELLED. -/
def cancelAll (s : State) (m : Nat) : State :=
  let b := mbx s m
  let unstarted := b.accepted.map (fun a => originOf a.2)
  let s1 := completeAll (setMbx s m (fun b => { b with accepted := [] })) unstarted stCancelled
  b.inFlight.foldl (fun s o =>
    match withdraw s o with
    | some s' => complete s' o stCancelled
    | none => s) s1

/-- The session of a mailbox enters CLOSING (R65, R66); closing also discards its staging area (R86) and its kept report (R427). -/
def enterClosing (s : State) (m : Nat) (closer : Option Origin) : State :=
  let st := (mbx s m).state
  if st = .opened || st = .challenged || st = .privileged then
    let s1 := cancelAll (setMbx s m (fun b => { b with state := .closing, closing := closer, challenge := none })) m
    { s1 with
      image := { s1.image with staging := if s1.image.staging.any (fun g => g.mbx = m) then none else s1.image.staging }
      sec := { s1.sec with reports := s1.sec.reports.filter (fun r => r.1 != m) } }
  else s

/-- Every mailbox bound to PCIe enters CLOSING (R65). -/
def closePcie (s : State) : State :=
  (List.range 8).foldl (fun s m => if (mbx s m).via = .pcie then enterClosing s m none else s) s

/-! ### Commands of this chapter -/

/-- NOP (R81). -/
def execNop (clk : Nat) (e : Entry) (s : State) : Host.Outcome State Fault Refusal :=
  .next (command { opcode := 0x0001, rescue := true } (fun _ => false) (fixedLen 0)
    (fun e _ s => complete s (originOf e) stOk) clk e s)

/-- The next SESSION_ID; it never is 0 (R65). -/
def nextSessionId (n : Nat) : Nat := if (n + 1) % 2 ^ 32 = 0 then 1 else (n + 1) % 2 ^ 32

/-- OPEN_SESSION (R65, R70): BUSY unless the mailbox is CLOSED. -/
def openSession (e : Entry) (via : Transport) (s : State) : State :=
  if (mbx s e.mbx).state != .closed then complete s (originOf e) stBusy
  else
    let ep := (epochOf s e.mbx + 1) % 16
    let sid := nextSessionId s.aon.sessionCounter
    let s1 := { s with aon := { s.aon with epochs := upd s.aon.epochs e.mbx (fun _ => ep), sessionCounter := sid } }
    let s2 := setMbx s1 e.mbx (fun b => { b with
      state := .opened, via := via, discards := 0, sessionId := sid, phaseBase := b.cplTail, challenge := none, sk := []
      windowHigh := none, seen := [], kept := [], lastDatagram := now s, closing := none })
    complete s2 (originOf e) stOk (leBytes 1 ep ++ leBytes 4 sid)

def execOpenSession (clk : Nat) (e : Entry) (s : State) : Host.Outcome State Fault Refusal :=
  .next (command { opcode := 0x0002, rescue := true } (fun _ => false) (fixedLen 0) openSession clk e s)

/-- CLOSE_SESSION (R66): its completion is posted last, when the mailbox is CLOSED. -/
def execCloseSession (clk : Nat) (e : Entry) (s : State) : Host.Outcome State Fault Refusal :=
  .next (command { opcode := 0x0003, rescue := true } (fun _ => false) (fixedLen 0)
    (fun e _ s => enterClosing s e.mbx (some (originOf e))) clk e s)

/-- NEW_EPOCH (R70). -/
def newEpoch (e : Entry) (_ : Transport) (s : State) : State :=
  let b := mbx s e.mbx
  if b.inFlight.any (fun o => o != originOf e) then complete s (originOf e) stBusy
  else
    let ep := (epochOf s e.mbx + 1) % 16
    let s1 := { s with aon := { s.aon with epochs := upd s.aon.epochs e.mbx (fun _ => ep) } }
    let s2 := setMbx s1 e.mbx (fun b => { b with windowHigh := none, seen := [], kept := [] })
    complete s2 (originOf e) stOk (leBytes 1 ep)

def execNewEpoch (clk : Nat) (e : Entry) (s : State) : Host.Outcome State Fault Refusal :=
  .next (command { opcode := 0x0004, rescue := true } (fun _ => false) (fixedLen 0) newEpoch clk e s)

/-- HMAC slots hold no key: the module is unprovisioned (R423). -/
def unprovisioned (s : State) : Bool := s.sec.hmac.all (fun k => k.isNone)

/-- The key of a slot that CHALLENGE may name (R422, R423). -/
def challengeKey (s : State) (slot : Nat) : Option Bytes :=
  if unprovisioned s then (if slot = 0 then some (zeros 32) else none)
  else if slot = 0 then none
  else
    match nth none s.sec.hmac (slot - 1) with
    | some k => if k.session then some k.key else none
    | none => none

/-- The module's next nonce: 32 bytes the spec leaves open. [DESIGN CHOICE, log 7] [DESIGN CHOICE, log 16] -/
def freshNonce (s : State) : Bytes := (List.range 32).map (Config.freeByte s.freeCount)

/-- CHALLENGE (R65, R68, R422, R423). -/
def challenge (e : Entry) (_ : Transport) (s : State) : State :=
  let slot := le (entryArgs e) 0 1
  let b := mbx s e.mbx
  if (challengeKey s slot).isNone then complete s (originOf e) stBadArgument
  else if b.state = .privileged then complete s (originOf e) stPrecondition
  else if b.lockoutEnd.any (fun t => decide (now s < t)) then complete s (originOf e) stLockedOut
  else
    let n := freshNonce s
    let s1 := setMbx { s with freeCount := s.freeCount + 1 } e.mbx
      (fun b => { b with state := .challenged, challenge := some { nonce := n, time := now s, slot := slot } })
    complete s1 (originOf e) stOk n

def execChallenge (clk : Nat) (e : Entry) (s : State) : Host.Outcome State Fault Refusal :=
  .next (command { opcode := 0x0005, rescue := true } (fun _ => false) (fixedLen 1) challenge clk e s)

/-- The message of the MAC and of the session key after its first byte (R67). -/
def macTail (s : State) (m : Nat) (nm nh : Bytes) : Bytes :=
  nm ++ nh ++ leBytes 1 m ++ leBytes 1 (epochOf s m) ++ leBytes 4 (mbx s m).sessionId

/-- SW1.1 is ON in both safety channels. -/
def seal11 (s : State) : Bool := s.safety.processor.sw1.getLsbD 0 && s.safety.chamois.sw1.getLsbD 0

/-- UNLOCK (R65, R67, R68, R423). -/
def unlock (e : Entry) (_ : Transport) (s : State) : State :=
  let o := originOf e
  let b := mbx s e.mbx
  let a := entryArgs e
  match b.challenge with
  | none => complete s o stAuthFailed
  | some c =>
    if b.state != .challenged || c.time + 5000000000 ≤ now s then complete s o stAuthFailed
    else
      let key := if c.slot = 0 then zeros 32 else ((nth none s.sec.hmac (c.slot - 1)).map (·.key)).getD []
      let nh := slice a 0 32
      let tail := macTail s e.mbx c.nonce nh
      if hmac256 key (0 :: tail) != slice a 32 32 then
        let runs := b.wrongUnlocks + 1
        let s1 := setMbx (bump s 0xD0 (0x80 + e.mbx) 0) e.mbx (fun b => { b with
          state := .opened, challenge := none, wrongUnlocks := if 3 ≤ runs then 0 else runs
          lockoutEnd := if 3 ≤ runs then some (now s + 10000000000) else b.lockoutEnd })
        complete s1 o stAuthFailed
      else if c.slot = 0 && !seal11 s then complete s o stPrecondition
      else
        let s1 := setMbx s e.mbx (fun b => { b with
          state := .privileged, challenge := none, wrongUnlocks := 0, sk := hmac256 key (1 :: tail), keySlot := c.slot })
        complete s1 o stOk

def execUnlock (clk : Nat) (e : Entry) (s : State) : Host.Outcome State Fault Refusal :=
  .next (command { opcode := 0x0006, rescue := true } (fun _ => false) (fixedLen 64) unlock clk e s)

/-- CANCEL (R72): the target's completion is posted before CANCEL's. -/
def cancel (e : Entry) (_ : Transport) (s : State) : State :=
  let o := originOf e
  let target : BitVec 16 := BitVec.ofNat 16 (le (entryArgs e) 0 2)
  let b := mbx s e.mbx
  if target = e.txid then complete s o stBadArgument
  else
    match b.inFlight.find? (fun f => f.txid = target) with
    | none => complete s o stNotFound
    | some t =>
      if b.accepted.any (fun a => a.2.txid = target) then
        let s1 := setMbx s e.mbx (fun b => { b with accepted := b.accepted.filter (fun a => a.2.txid != target) })
        complete (complete s1 t stCancelled) o stOk
      else
        match withdraw s t with
        | some s1 => complete (complete s1 t stCancelled) o stOk
        | none => complete s o stCancelTooLate

def execCancel (clk : Nat) (e : Entry) (s : State) : Host.Outcome State Fault Refusal :=
  .next (command { opcode := 0x0007, rescue := true } (fun _ => false) (fixedLen 2) cancel clk e s)

/-- Mode codes (Table 2-1). -/
def modeCode : Mode → Nat
  | .boot => 0
  | .configure => 1
  | .commission => 2
  | .run => 3
  | .hold => 4
  | .fault => 5

/-- `cell.mode_target` (Table 2-2). -/
def modeTarget (s : State) : Mode := s.mode.target.getD s.mode.mode

/-- The result of GET_STATUS (Table 3-12). -/
def statusBytes (s : State) : Bytes :=
  leBytes 1 (modeCode s.mode.mode) ++ leBytes 1 (modeCode (modeTarget s)) ++ leBytes 2 0 ++ leBytes 4 s.mode.cause.toNat ++
    leBytes 4 (tickCount s) ++ leBytes 8 (now s)

def execGetStatus (clk : Nat) (e : Entry) (s : State) : Host.Outcome State Fault Refusal :=
  .next (command { opcode := 0x0010 } (fun _ => false) (fixedLen 0)
    (fun e _ s => complete s (originOf e) stOk (statusBytes s)) clk e s)

/-- Opcodes Table 3-12 defines. -/
def knownOpcodes : List Nat :=
  [0x01, 0x02, 0x03, 0x04, 0x05, 0x06, 0x07, 0x10, 0x11, 0x12, 0x20, 0x21, 0x30, 0x31, 0x32, 0x33, 0x40, 0x41, 0x42, 0x43, 0x44, 0x45, 0x46] ++
    [0x50, 0x51, 0x52, 0x60, 0x61, 0x62, 0x80, 0x81, 0xF0, 0xF1, 0xF2, 0xF3]

/-- An entry with an opcode that Table 3-12 does not define: BAD_OPCODE (R81, R459 step 2). -/
def execUnknownOpcode (clk : Nat) (e : Entry) (s : State) : Host.Outcome State Fault Refusal :=
  .next (if knownOpcodes.contains e.opcode then begin clk s
    else command { opcode := e.opcode, unknown := true } (fun _ => false) (fun _ => true)
      (fun e _ s => complete s (originOf e) stBadOpcode) clk e s)

/-! ### Doorbells (R61) -/

/-- A doorbell write is ignored: DB_ERR (R61). -/
def doorbellError (s : State) (m : Nat) : State :=
  withFresh (setMbx s m (fun b => { b with dbErr := true })) (fun c => { c with dbErr := c.dbErr ||| (1#8 <<< m) })

/-- CMD_TAIL written through either BAR: ignored with DB_ERR where it would pass 64 entries (R61, R76). -/
def writeCmdTail (s : State) (mailbox value : Nat) : State :=
  let v := value % 65536
  if (v + 65536 - (mbx s mailbox).cmdHead) % 65536 ≤ 64 then setMbx s mailbox (fun b => { b with cmdTail := v })
  else doorbellError s mailbox

/-- CPL_HEAD written through either BAR: ignored with DB_ERR where it would pass CPL_TAIL (R61). -/
def writeCplHead (s : State) (mailbox value : Nat) : State :=
  let b := mbx s mailbox
  let v := value % 65536
  if (v + 65536 - b.cplHead) % 65536 ≤ unconsumed b then setMbx s mailbox (fun b => { b with cplHead := v })
  else doorbellError s mailbox

/-- CMD_TAIL_WRITE: registers are reached through the PCIe link alone (R448). [DESIGN CHOICE, log 1] -/
def execCmdTailWrite (clk : Nat) (mailbox : Nat) (value : Nat) (s : State) : Host.Outcome State Fault Refusal :=
  let s1 := begin clk s
  .next (if s1.zewen.linkUp then writeCmdTail s1 mailbox value else s1)

/-- CPL_HEAD_WRITE. -/
def execCplHeadWrite (clk : Nat) (mailbox : Nat) (value : Nat) (s : State) : Host.Outcome State Fault Refusal :=
  let s1 := begin clk s
  .next (if s1.zewen.linkUp then writeCplHead s1 mailbox value else s1)

/-! ### Datagrams (R57, R69, R70, R73, R74) -/

/-- The entry of a datagram: bytes 32 to 287, and the bulk data after it. -/
def datagramEntry (d : Bytes) : Entry :=
  { mbx := le d 4 1, txid := BitVec.ofNat 16 (le d 32 2), opcode := le d 34 2, flags := BitVec.ofNat 16 (le d 36 2)
    argLen := le d 38 2, bulkOffset := le d 40 4, bulkLen := le d 44 4, args := slice d 64 224, bulk := d.drop 288, udp := true }

/-- A datagram is a well-formed command datagram: KIND, COUNT, lengths (R57, Table 3-3). -/
def datagramOk (d : Bytes) : Bool :=
  le d 3 1 == 1 && le d 5 1 == 1 && decide (le d 4 1 < 8) && decide (le d 6 2 ≤ 1024) && d.length == 288 + le d 6 2 &&
    (le d 44 4 == le d 6 2 || le d 36 2 % 2 == 0)

/-- The acceptance window after a sequence number is accepted (R73). -/
def windowAccept (b : Mailbox) (sq : Nat) : Mailbox :=
  let h := max sq (b.windowHigh.getD sq)
  { b with windowHigh := some h, seen := sq :: b.seen.filter (fun x => decide (h - x < 64))
           kept := b.kept.filter (fun c => decide (h - txSeq c.txid < 64)) }

/-- A datagram of an open session has passed the format, binding and tag: epoch, flight and window are judged (R70 to R74). -/
def datagramJudge (s : State) (via : Transport) (e : Entry) : State :=
  let m := e.mbx
  let b := mbx s m
  let sq := txSeq e.txid
  let accept := fun (s : State) =>
    setMbx s m (fun b => { windowAccept b sq with accepted := b.accepted ++ [(via, e)], inFlight := b.inFlight ++ [originOf e] })
  if txEpoch e.txid != epochOf s m then bump (discard s m) 0xD0 (0x80 + m) 3
  else
    match b.windowHigh with
    | none => accept s
    | some h =>
      if h < sq then accept s
      else if h - sq < 64 then
        if b.seen.contains sq then
          let s1 := bump (discard s m) 0xD0 (0x80 + m) 1
          match b.kept.find? (fun c => c.txid = e.txid) with
          | some c => sendCompletion (emit s1 (.resend c)) b c
          | none => s1
        else accept s
      else bump (discard s m) 0xD0 (0x80 + m) 2

/-- A UDP datagram arrives on an Ethernet port (R57, R58, R69). A malformed one counts at the mailbox its header names. [DEDUCED, log 14] -/
def datagramRx (s : State) (port addr udpPort : Nat) (fragmented : Bool) (d : Bytes) : State :=
  let e := datagramEntry d
  let m := e.mbx
  let b := mbx s m
  let via : Transport := .udp port addr udpPort
  let reject := bump (discard s m) 0xD0 (0x80 + m) 4
  if !(serving s (if s.start.rescue then m else 0) true) || (s.start.rescue && port != 0) then s
  else if 8 ≤ m then { s with zewen := { s.zewen with malformed := s.zewen.malformed + 1 } }
  else if fragmented || 1500 < d.length + 28 || le d 0 2 != 0x5A57 || le d 2 1 != 1 || !datagramOk d then reject
  else if b.state = .closed && b.inFlight.any (fun o => o.txid = e.txid) then bump (discard s m) 0xD0 (0x80 + m) 1
  else if b.state = .closed then
    setMbx s m (fun b => { b with via := via, accepted := b.accepted ++ [(via, e)], inFlight := b.inFlight ++ [originOf e] })
  else if b.via != via || (le d 8 4 != b.sessionId && !(e.opcode = 0x0002 && le d 8 4 = 0)) then reject
  else if b.state = .privileged && slice d 16 16 != datagramTag b.sk d then reject
  else
    let s1 := setMbx s m (fun b => { b with lastDatagram := now s })
    if b.state = .closing then discard s1 m else datagramJudge s1 via e

def execUdpDatagramRx (clk port addr udpPort : Nat) (fragmented : Bool) (data : Bytes) (s : State) : Host.Outcome State Fault Refusal :=
  .next (datagramRx (begin clk s) port addr udpPort fragmented data)

/-! ### Session events -/

/-- The nonce of a challenge expires 5 s after it (R65). -/
def execNonceExpiry (clk mailbox : Nat) (s : State) : Host.Outcome State Fault Refusal :=
  let s1 := begin clk s
  .next (if (mbx s1 mailbox).challenge.any (fun c => decide (c.time + 5000000000 ≤ now s1)) then
      setMbx s1 mailbox (fun b => { b with challenge := none, state := if b.state = .challenged then .opened else b.state })
    else s1)

/-- A lockout ends 10 s after the third wrong UNLOCK (R68). -/
def execLockoutEnd (clk mailbox : Nat) (s : State) : Host.Outcome State Fault Refusal :=
  let s1 := begin clk s
  .next (if (mbx s1 mailbox).lockoutEnd.any (fun t => decide (t ≤ now s1)) then
      setMbx s1 mailbox (fun b => { b with lockoutEnd := none })
    else s1)

/-- A UDP session without a valid datagram for `security.udp_idle_ms` closes (R69). -/
def execUdpIdleTimeout (clk mailbox : Nat) (s : State) : Host.Outcome State Fault Refusal :=
  let s1 := begin clk s
  let b := mbx s1 mailbox
  .next (if viaUdp b && decide (b.lastDatagram + ov s1 0xD0 (0x80 + mailbox) 5 * 1000000 ≤ now s1) then enterClosing s1 mailbox none else s1)

/-- The last command of a CLOSING session has completed: CLOSE_SESSION completes, if there is one, and the mailbox is CLOSED (R65, R66). -/
def sessionDrained (s : State) (m : Nat) : State :=
  let b := mbx s m
  if b.state = .closing && b.inFlight.all (fun o => b.closing = some o) then
    let s1 := match b.closing with
      | some o => complete s o stOk
      | none => s
    setMbx s1 m (fun b => { b with state := .closed, closing := none, sk := [], challenge := none, windowHigh := none, seen := [], kept := [] })
  else s

def execSessionDrained (clk mailbox : Nat) (s : State) : Host.Outcome State Fault Refusal := .next (sessionDrained (begin clk s) mailbox)

/-- How the PCIe link of the function goes down. -/
def pcieDown (s : State) (flr : Bool) : State :=
  let s1 := closePcie s
  let s2 := if flr then withMsix s1 (fun _ => {}) else s1
  { s2 with zewen := { s2.zewen with linkUp := flr && s2.zewen.linkUp } }

/-- Link down or hot reset, or a function-level reset: PCIe sessions enter CLOSING (R65); a function-level reset also clears the MSI-X
structures and leaves the link up (R455). -/
def execPcieLinkDown (clk : Nat) (functionReset : Bool) (s : State) : Host.Outcome State Fault Refusal :=
  .next (pcieDown (begin clk s) functionReset)

/-- PERST_N: while low the link is down; after release it trains again (R434). -/
def execPerstN (clk : Nat) (low : Bool) (s : State) : Host.Outcome State Fault Refusal :=
  let s1 := begin clk s
  .next (if low then { pcieDown s1 false with hw := { s1.hw with perstLow := true } }
    else { s1 with hw := { s1.hw with perstLow := false }
                   zewen := { s1.zewen with linkUp := s1.zewen.linkUp || ((s1.hw.hostReady || s1.start.rescue) && domainOn s1 12 && !isolated s1 3 3) } })

/-- The 1 µs spacing on a vector ends, once it has passed: a message held back is sent (R64, R454). -/
def execVectorSpacingEnd (clk vector : Nat) (s : State) : Host.Outcome State Fault Refusal :=
  let s1 := begin clk s
  let held := s1.zewen.msix.deferred.getLsbD vector
  let s2 := withMsix s1 (fun m => { m with spacing := m.spacing &&& ~~~(1#32 <<< vector), deferred := m.deferred &&& ~~~(1#32 <<< vector) })
  let due := if vector < 8 then (mbx s2 vector).cplTail != (mbx s2 vector).cplHead else true
  .next (if spacingRuns s1 vector then s1 else if held && due && s2.zewen.linkUp then vectorNow s2 vector else s2)

end Sys2Proof.Machine
end

