-- ==== Sys2Proof/Machine/Causes.lean ====
section
/-! DEFINITION. Triggers of mode changes, the causes behind them, and escalation (02_modes_and_start.md R38 to R41, R54, R460;
01_cell_architecture.md R17, R18). -/

namespace Sys2Proof.Machine

/-- Precedence of R41, BOOT highest. [DESIGN CHOICE, log 13] -/
def modeRank : Mode → Nat
  | .boot => 5
  | .fault => 4
  | .hold => 3
  | .configure => 2
  | .commission => 1
  | .run => 0

/-- The target that is pending, or else in progress (R41). -/
def targetInForce (s : State) : Option Mode :=
  match s.mode.accepted with
  | some m => some m
  | none => s.mode.target

/-- Changes the mode state. -/
def withMode (s : State) (f : ModeState → ModeState) : State := { s with mode := f s.mode }

/-- SET_MODE commands with a target complete with a status and no longer wait. -/
def settleWaits (s : State) (p : Mode → Bool) (status : Nat) : State :=
  let os := (s.mode.waiting.filter (fun w => p w.target)).map (·.origin)
  completeAll (withMode s (fun m => { m with waiting := m.waiting.filter (fun w => !p w.target) })) os status

/-- A trigger that wins under R41 is accepted: a pending target is replaced at once and its SET_MODE completes with SUPERSEDED. -/
def acceptTarget (s : State) (target : Mode) (w : Word) : State :=
  let s1 := match s.mode.accepted with
    | some old => settleWaits s (fun m => m = old) stSuperseded
    | none => s
  withMode s1 (fun m => { m with accepted := some target, triggerWord := w
                                 resetEdge := if target = .fault then none else m.resetEdge })

/-- Table 2-3: whether an error or a stop can lead from the mode to the target. A HOLD error also replaces a resumption that is under
way, because HOLD ranks above its target (R41). -/
def triggerRow (s : State) (target : Mode) : Bool :=
  match target with
  | .fault => s.mode.mode != .fault || inTransition s
  | .hold => s.mode.mode = .commission || s.mode.mode = .run || (s.mode.mode = .hold && inTransition s)
  | _ => false

/-- The mode is being entered, or is in force, and nothing above it is on its way: causes are recorded for it (R44, R460). -/
def recording (s : State) : Bool :=
  s.mode.mode = .hold || s.mode.mode = .fault || targetInForce s = some .hold || targetInForce s = some .fault

/-- Records a cause. -/
def recordCause (s : State) (c : Cause) : State :=
  withMode s (fun m => { m with causes := if m.causes.contains c then m.causes else m.causes ++ [c] })

/-- Entry into a mode is signalled and logged: MODE, DEVICE for FAULT, and the log entry of R378. -/
def noteMode (s : State) (m : Mode) : State :=
  let s1 := setInt s 1
  let s2 := if m = .fault then setInt s1 0 else s1
  log s2 (if m = .hold || m = .fault then .alarm else .event) 2 (modeCode m) s.mode.cause

/-- A start that ends in FAULT is complete (R48, R49): CONSEC_FAILED is cleared, and the record written to AON and mirrored to NOR. -/
def faultStartDone (s : State) : State :=
  let r := { s.start.record with consecFailed := 0 }
  { s with
    start := { s.start with record := r, running := false, done := true }
    aon := { s.aon with record := some r }
    nor := { s.nor with record := some r } }

/-- A FAULT-class error during a start attempt (R49): before the end of B08 it fails the step in progress, after it the attempt enters
FAULT. Before herd time runs there is no tick, and the mode changes at once; during B14, which is then not performed, the transition begins
at the next tick start (R40), and the start has ended in FAULT. [DEDUCED, log 139] -/
def bootTrigger (s : State) (w : Word) (c : Cause) : State :=
  if !s.start.running then s
  else if s.start.step < 8 then { s with start := { s.start with failDue := true } }
  else if s.herd.running then
    withMode (faultStartDone (acceptTarget s .fault w)) (fun m => { m with causes := [c], faultInBoot := true })
  else
    let s1 := noteMode (withMode s (fun m => { m with mode := .fault, cause := w, causes := [c], faultInBoot := true })) .fault
    if 13 ≤ s.start.step then faultStartDone s1 else s1

/-- An error or a stop triggers HOLD or FAULT (Table 2-3, R41, R54). One that wins starts the list of causes anew; any other is recorded
where a HOLD or a FAULT is on its way or in force. -/
def trigger (s : State) (target : Mode) (w : Word) (c : Cause) : State :=
  let wins := match targetInForce s with
    | some t => decide (modeRank t < modeRank target)
    | none => true
  if s.mode.mode = .boot && !s.start.done then (if target = .fault then bootTrigger s w c else s)
  else if triggerRow s target && wins then
    withMode (acceptTarget s target w) (fun m => { m with causes := [c] })
  else if recording s then recordCause s c
  else s

/-! ### Presence of causes (R460, Table 2-11) -/

/-- A safe input is ON in both channels: wired, or on the network. -/
def inputOnBoth (s : State) (net : Bool) (i : Nat) : Bool :=
  if net then (tget {} s.safety.processor.nets i).on && (tget {} s.safety.chamois.nets i).on
  else (nth {} s.safety.processor.inputs i).on && (nth {} s.safety.chamois.inputs i).on

/-- A cause is present (Table 2-11). -/
def causePresent (s : State) : Cause → Bool
  | .isolated r b => isolated s r b
  | .untilReset => true
  | .regulator => s.hw.vinHigh || !s.hw.supplyOut.isEmpty
  | .dieTemp => s.hw.overTemp
  | .clockLoss => s.clocks.lost.isSome
  | .axisFault ch outer => (tget {} s.ctl.loops (outer * 128 + ch)).fault
  | .stall a => (nth {} s.field.axes a).stall
  | .holdRequest net i => !inputOnBoth s net i
  | .discrepancy i => decide ((nth {} s.safety.processor.inputs i).agree < 4) || decide ((nth {} s.safety.chamois.inputs i).agree < 4)
  | .stuck o low => if low then (nth {} s.safety.chamois.switches o).stuckNow else (nth {} s.safety.processor.switches o).stuckNow
  | .overTemp o => (nth {} s.safety.processor.switches o).hotNow || (nth {} s.safety.chamois.switches o).hotNow
  | .silent byC => if byC then s.safety.chamois.silent else s.safety.processor.silent
  | .crossMismatch v => s.safety.processor.mismatched.contains v || s.safety.chamois.mismatched.contains v
  | .oscMismatch byC => if byC then s.safety.chamois.oscillator else s.safety.processor.oscillator
  | .chamoisStop => !s.cham.ended
  | .momentary => false

/-- Some recorded cause is present. -/
def anyCause (s : State) : Bool := s.mode.causes.any (causePresent s)

/-! ### Isolation (R18, R54, Table 2-9) -/

/-- Reactions of Table 2-9 with the REACTION codes of the error word. -/
inductive Reaction where
  | contained | armHold | hold | fault
  deriving DecidableEq, Repr

def reactionCode : Reaction → Nat
  | .contained => 0
  | .armHold => 1
  | .hold => 2
  | .fault => 3

/-- Lines in use: Tahixa A and B (Table 6-4); 1 DUAL_LINE and 3 DUAL_RING use both. -/
def dualLine (objs : List (Nat × Nat)) : Bool := ob objs 0x70 0 0x20 % 2 == 1

/-- Reaction to an isolated block (Table 2-9). [DESIGN CHOICE, log 40] -/
def isolationReaction (s : State) (region block : Nat) : Reaction :=
  match region with
  | 0 => if 1 ≤ block && block ≤ 16 then .hold else .fault
  | 1 => .hold
  | 2 => .fault
  | 3 =>
    if block ≤ 1 then (if dualLine s.objs && !isolated s 3 (1 - block) then .contained else .fault)
    else if block = 2 then (if pairOn s.objs then .fault else .contained)
    else if block = 5 then .fault
    else .contained
  | 4 => if block = 0 then .fault else if block = 3 then .contained else .hold
  | _ => .fault

/-- Level that reports an error of a region code (Table 1-2). -/
def regionLevel (region : Nat) : Nat := if region = 5 || region = 7 then 3 else 2

/-- A region isolates a block: the error word, and the reaction of its row of Table 2-9. HOLD for a block of the solver waits for the
start of the next re-planning period. -/
def isolate (s : State) (region block element : Nat) : State :=
  if isolated s region block then s
  else
    let r := isolationReaction s region block
    let w := errWord (regionLevel region) region block (reactionCode r) true element
    let s1 := error (withMode s (fun m => { m with isolated := m.isolated ++ [(region, block)] })) w
    let c := Cause.isolated region block
    match r with
    | .fault => trigger s1 .fault w c
    | .hold =>
      if region = 1 && imageActive s then withMode s1 (fun m => { m with holdAtPeriod := some (m.holdAtPeriod.getD w) })
      else trigger s1 .hold w c
    | _ => s1

/-- An error word with a HOLD or a FAULT reaction that is logged under a code of its own (R378). -/
def errorTrigger (s : State) (target : Mode) (w : Word) (code arg : Nat) (cls : LogClass) (c : Cause) : State :=
  trigger (errorAs s w code arg cls) target w c

/-- A FAULT-class error without a log code of its own. -/
def faultError (s : State) (w : Word) (c : Cause) : State := trigger (error s w) .fault w c

/-- A HOLD-class error without a log code of its own. -/
def holdError (s : State) (w : Word) (c : Cause) : State := trigger (error s w) .hold w c

end Sys2Proof.Machine
end

