-- ==== Sys2Proof/Machine/Piste.lean ====
section
/-! DEFINITION. Pistes (09_piste_reservation.md R193 to R213), and arm hold, which keeps an arm's leases (02_modes_and_start.md R37, R42). -/

namespace Sys2Proof.Machine

def withPiste (s : State) (f : PisteState → PisteState) : State := { s with piste := f s.piste }

/-- Refusal reasons (Table 9-4). -/
def reConflict : Nat := 1
def reTableFull : Nat := 2
def reHeld : Nat := 3
def reExpired : Nat := 4
def reMode : Nat := 5
def reLimit : Nat := 6
def reNotLatest : Nat := 7

/-- Home zone of an arm (R196). -/
def homeZone (objs : List (Nat × Nat)) (a : Nat) : Option Nat :=
  let z := ob objs 0x40 a 0xC0
  if z < 256 && armPresent objs a then some z else none

/-- The home zones: arm and zone. -/
def homeZones (objs : List (Nat × Nat)) : List (Nat × Nat) := (List.range 8).filterMap (fun a => (homeZone objs a).map (fun z => (a, z)))

/-- Home zones held now. -/
def heldHomes (s : State) : List (Nat × Nat) := if s.piste.homesHeld then homeZones s.objs else []

/-- Two zones conflict (R195). -/
def zonesConflict (s : State) (z w : Nat) : Bool := s.piste.conflicts.contains (min z w, max z w)

/-- Overlap of half-open intervals (R11). -/
def overlaps (a b c d : Nat) : Bool := decide (a < d) && decide (c < b)

/-- A lease's end as the other arms see it: a KEPT lease does not expire (R42). -/
def leaseEnd (l : Lease) : Nat := if l.kept then 2 ^ 64 else l.finish

/-- Leases of an arm on a zone, by rising start. -/
def armLeases (s : State) (a z : Nat) : List Lease :=
  sortBy (fun x y => decide (x.start < y.start)) (s.piste.leases.filter (fun l => l.arm = a && l.zone = z))

/-- An arm holds a zone through [t₀, t₁], both ends included (R198, R209). -/
def holdsThrough (s : State) (a z t0 t1 : Nat) : Bool :=
  (s.piste.homesHeld && homeZone s.objs a = some z) ||
    decide (t1 < (armLeases s a z).foldl (fun reach l => if l.start ≤ reach && reach < leaseEnd l then leaseEnd l else reach) t0)

/-- What blocks an arm's interval on a zone: arm, zone and end of each lease or home zone of another arm in conflict (R203, R206); a home zone
blocks whether or not its arm holds it now (R196). -/
def blockers (s : State) (a z from_ until_ : Nat) : List (Nat × Nat × Nat) :=
  if until_ ≤ from_ then []
  else
    ((homeZones s.objs).filter (fun h => h.1 != a && zonesConflict s z h.2)).map (fun h => (h.1, h.2, 2 ^ 64 - 1)) ++
      (s.piste.leases.filter (fun l => l.arm != a && zonesConflict s z l.zone && overlaps from_ until_ l.start (leaseEnd l))).map
        (fun l => (l.arm, l.zone, l.finish))

/-- Table 9-4. -/
def refusalBytes (reason : Nat) (b : Option (Nat × Nat × Nat)) : Bytes :=
  match b with
  | some (a, z, e) => leBytes 1 reason ++ leBytes 1 a ++ leBytes 1 z ++ zeros 5 ++ leBytes 8 e
  | none => leBytes 1 reason ++ leBytes 1 0xFF ++ zeros 6 ++ zeros 8

/-- Result of a granted request or extension (R201). -/
def leaseBytes (l : Lease) : Bytes := leBytes 4 l.id ++ zeros 4 ++ leBytes 8 l.start ++ leBytes 8 l.finish

/-- A refusal is counted, traced, and completed where the host waits for it (R201, R213, R378). -/
def refuseZone (s : State) (o : Option Origin) (arm zone reason : Nat) (b : Option (Nat × Nat × Nat)) (ends : Bool) : State :=
  let s1 := trace (bump s 0x40 0 0x85) 2 0x0102 (arm * 256 + zone) 0 reason
  match o with
  | some og => if ends then complete s1 og stLeaseRefused (refusalBytes reason b) else s1
  | none => s1

/-- The blocker a refusal names; which one, where there are several, the spec does not say. [DESIGN CHOICE, log 70] -/
def pickBlocker (s : State) (bs : List (Nat × Nat × Nat)) : State × Option (Nat × Nat × Nat) :=
  match bs with
  | [] => (s, none)
  | [b] => (s, some b)
  | b :: _ => ({ s with freeCount := s.freeCount + 1 }, some (bs.getD (Config.freeValue s.freeCount % bs.length) b))

/-! ### Holds (R37, R42, R211) -/

/-- Pending requests and extensions that satisfy a test are refused and leave the tables. -/
def refusePending (s : State) (p : Nat → Bool) (reason : Nat) : State :=
  let rs := s.piste.requests.filter (fun r => p r.arm)
  let es := s.piste.extensions.filter (fun x => p x.arm)
  let s1 := withPiste s (fun q => { q with requests := q.requests.filter (fun r => !p r.arm), extensions := q.extensions.filter (fun x => !p x.arm) })
  let s2 := rs.foldl (fun s r => if r.origin.isSome then refuseZone s r.origin r.arm r.zone reason none true else s) s1
  es.foldl (fun s x => if x.origin.isSome then refuseZone s x.origin x.arm 0 reason none true else s) s2

/-- Joint values of an arm at its setpoints, OFFSET included. -/
def setpointJoints (s : State) (a : Nat) : List F64 :=
  (List.range 8).map (fun j =>
    let ch := a * 8 + j
    planJoint s.objs a j (toUnit s.objs ch (q32ToD (tget {} s.prof.channels ch).pos)))

/-- A held arm stands: its leases on zones that contain no part of it are released (R42). -/
def releaseStanding (s : State) (a : Nat) : State :=
  let pose := armPose num64 s.objs a (setpointJoints s a)
  withPiste s (fun q => { q with leases := q.leases.filter (fun l => l.arm != a || armMeetsZone s.objs a pose l.zone) })

/-- An arm whose source is STOPPED stands: no stop ramp follows (R233). -/
def stopped (s : State) (a : Nat) : Bool := (nth {} s.prof.arms a).source == .stopped && !(nth {} s.prof.arms a).ramp

/-- Every lease of the held arms is kept until the arms stand, when those whose zone does not contain the standstill pose are released; of an
arm that stands already, at once (R42). -/
def keepLeases (s : State) (p : Nat → Bool) : State :=
  let s1 := withPiste s (fun q => { q with leases := q.leases.map (fun l => if p l.arm then { l with kept := true } else l) })
  ((List.range 8).filter (fun a => p a && stopped s a)).foldl releaseStanding s1

/-- The hold of an arm ends: each kept lease is reissued as [t, t + 2 s) (R42). -/
def reissue (s : State) (a : Nat) : State :=
  withPiste s (fun q => { q with leases := q.leases.map (fun l =>
    if l.arm = a && l.kept then { l with kept := false, start := now s, finish := now s + 2000000000 } else l) })

def armHeld (s : State) (a : Nat) : Bool := (nth {} s.mode.arms a).held

/-- HOLD lasts: it is in force or its transition is in progress (R211). -/
def holdLasts (s : State) : Bool := s.mode.mode = .hold || s.mode.target = some .hold

/-- An arm enters arm hold, or records a further cause (R37, R42, R211, R460). -/
def armHold (s : State) (a : Nat) (w : Word) (c : Cause) : State :=
  if !armPresent s.objs a || !(s.mode.mode = .commission || s.mode.mode = .run || s.mode.mode = .hold) then s
  else if armHeld s a then
    withMode s (fun m => { m with arms := upd m.arms a (fun h => { h with causes := if h.causes.contains c then h.causes else h.causes ++ [c] }) })
  else
    let s1 := withMode s (fun m => { m with arms := upd m.arms a (fun _ => { held := true, cause := w, causes := [c], released := false }) })
    keepLeases (refusePending s1 (fun b => b = a) reHeld) (fun b => b = a)

/-- An arm hold may be released: none of its causes is present (R37, R460). [DEDUCED, log 37] -/
def holdReleasable (s : State) (a : Nat) : Bool := !(nth {} s.mode.arms a).causes.any (causePresent s)

/-- Arm hold of an arm ends by a write (R37, R42). -/
def releaseHold (s : State) (a : Nat) : State :=
  if armHeld s a then
    let s1 := withMode s (fun m => { m with arms := upd m.arms a (fun h => { h with held := false, causes := [], released := true }) })
    if holdLasts s1 then s1 else reissue s1 a
  else s

/-- Entry into HOLD (R42, R211). -/
def pisteHold (s : State) : State := keepLeases (refusePending s (fun _ => true) reHeld) (fun _ => true)

/-- HOLD ends: the leases of the arms that stay in arm hold stay kept (R42). -/
def pisteHoldEnd (s : State) : State := (List.range 8).foldl (fun s a => if armHeld s a then s else reissue s a) s

/-- Entry into CONFIGURE or FAULT (R196, R211): everything is cleared. [DEDUCED, log 61] -/
def pisteClear (s : State) : State :=
  let s1 := refusePending s (fun _ => true) reMode
  withPiste s1 (fun q => { q with leases := [], requests := [], extensions := [], releases := [], credits := [], homesHeld := false, passLeases := [], passHomes := false
                                  sets := List.replicate 8 [], nextSets := List.replicate 8 [] })

/-! ### Commands (R200 to R204) -/

/-- Requests that occupy the pending-request table: those that wait beyond one pass. -/
def pendingCount (s : State) : Nat := (s.piste.requests.filter (fun r => r.wait || r.origin.isNone)).length

/-- The arguments of ZONE_REQUEST are ones R200 accepts. -/
def zoneRequestOk (s : State) (arm zone st en : Nat) : Bool :=
  armPresent s.objs arm && zoneUsed s.objs zone && decide (st < en) && decide (en - st ≤ 2000000000) &&
    decide (st ≤ now s + ov s 0x40 0 0x81 * 1000000) &&
    !((List.range 8).any (fun b => b != arm && (homeZone s.objs b).any (fun h => zonesConflict s zone h)))

/-- ZONE_REQUEST (R200). -/
def zoneRequest (e : Entry) (_ : Transport) (s : State) : State :=
  let a := entryArgs e
  let o := originOf e
  let arm := le a 0 1
  let zone := le a 1 1
  let wait := bit (le a 3 1) 0
  let st := le a 8 8
  let en := le a 16 8
  if !zoneRequestOk s arm zone st en then complete s o stBadArgument
  else if blockDown s 2 4 7 then complete s o stPrecondition
  else if wait && decide (512 ≤ pendingCount s) then refuseZone s (some o) arm zone reTableFull none true
  else
    withPiste s (fun q => { q with
      orderCount := q.orderCount + 1
      requests := q.requests ++ [{ origin := some o, arm := arm, zone := zone, priority := le a 2 1, wait := wait, start := st, finish := en
                                   at_ := now s, order := q.orderCount }] })

def motionModes : List Mode := [.commission, .run]

/-- ZONE_REQUEST (R200); reserved argument bits are ignored. [DESIGN CHOICE, log 15] -/
def execZoneRequest (clk : Nat) (e : Entry) (s : State) : Host.Outcome State Fault Refusal :=
  .next (command { opcode := 0x0050, priv := true, modes := motionModes, noTransition := true } (fun _ => true) (fixedLen 24) zoneRequest clk e s)

/-- ZONE_EXTEND (R203). -/
def zoneExtend (e : Entry) (_ : Transport) (s : State) : State :=
  let a := entryArgs e
  let o := originOf e
  let ne := le a 8 8
  match s.piste.leases.find? (fun l => l.id = le a 0 4) with
  | none => complete s o stBadArgument
  | some l =>
    if ne ≤ l.finish || 2000000000 < ne - l.finish then complete s o stBadArgument
    else if blockDown s 2 4 7 then complete s o stPrecondition
    else withPiste s (fun q => { q with
      orderCount := q.orderCount + 1
      extensions := q.extensions ++ [{ origin := some o, arm := l.arm, lease := l.id, newEnd := ne, at_ := now s, order := q.orderCount }] })

def execZoneExtend (clk : Nat) (e : Entry) (s : State) : Host.Outcome State Fault Refusal :=
  .next (command { opcode := 0x0051, priv := true, modes := motionModes, noTransition := true } (fun _ => true) (fixedLen 16) zoneExtend clk e s)

/-- ZONE_RELEASE (R204): completes at once and takes effect in the next pass. -/
def zoneRelease (e : Entry) (_ : Transport) (s : State) : State :=
  let o := originOf e
  let id := le (entryArgs e) 0 4
  if !s.piste.leases.any (fun l => l.id = id && armPresent s.objs l.arm) then complete s o stBadArgument
  else if blockDown s 2 4 7 then complete s o stPrecondition
  else complete (withPiste s (fun q => { q with releases := q.releases ++ [(id, now s)] })) o stOk

def execZoneRelease (clk : Nat) (e : Entry) (s : State) : Host.Outcome State Fault Refusal :=
  .next (command { opcode := 0x0052, priv := true, modes := motionModes, noTransition := true } (fun _ => true) (fixedLen 4) zoneRelease clk e s)

/-! ### The arbiter pass (R205 to R210) -/

/-- The next tick start begins a re-planning period (R25). -/
def periodAt (s : State) (t : Nat) : Bool :=
  imageActive s && decide (s.image.activation ≤ t) && (t - s.image.activation) % periodNs s.objs == 0

/-- Arms a committed plan holds, with their records. -/
def committedFor (s : State) (a : Nat) : Option PlanRecord :=
  match s.plan.committed with
  | some (_, rs) => rs.find? (fun r => r.arm = a)
  | none => none

/-- Plan time of an arm at the next profile pass: θ goes on by ρ × tick (R146, R147, R218). [DEDUCED, log 147] -/
def nextTheta (s : State) (a : Nat) : Nat :=
  let p := nth ({} : ArmPlan) s.plan.arms a
  let m := nth ({} : ArmMotion) s.prof.arms a
  let rho := if m.ramp then m.rho else dRatio (min (nth {} s.sep.results a).scale p.sigma) 256
  p.theta + freeRound (dMul rho (dOfNat (tickNs s)))

/-- An arm takes up a plan whose snapshot found it free or not (R148, R220). -/
def takesPlan (s : State) (a : Nat) (free : Bool) : Bool :=
  let m := nth ({} : ArmMotion) s.prof.arms a
  m.source == .plan || m.source == .stand || (((m.source == .move && m.moveDone) || m.source == .stopped) && free)

/-- The lease set of the plan or move that an arm will follow at the next profile pass (R208, R209): of the newest plan in effect whose
origin the arm then has reached, and in the last tick of a period of the plan that takes effect next (Table 1-8). -/
def nextSet (s : State) (a : Nat) : List LeaseNeed :=
  if takesPlan s a (s.plan.committedFree.contains a) && (committedFor s a).isSome && periodAt s (nextTick s) then nth [] s.piste.nextSets a
  else
    match (nth ({} : ArmPlan) s.plan.arms a).pending.find? (fun q => decide (q.plan.origin ≤ nextTheta s a)) with
    | some q => if takesPlan s a q.free then q.needs else nth [] s.piste.sets a
    | none => nth [] s.piste.sets a

/-- Removes the leases that have ended at t and are not KEPT (R205 step 1). -/
def expireLeases (s : State) (t : Nat) (p : Lease → Bool) : State :=
  let gone := s.piste.leases.filter (fun l => p l && decide (l.finish ≤ t) && !l.kept)
  gone.foldl (fun s _ => bump s 0x40 0 0x86)
    (withPiste s (fun q => { q with leases := q.leases.filter (fun l => !(p l && decide (l.finish ≤ t) && !l.kept)) }))

/-- Applies one release (R204). -/
def applyRelease (s : State) (id : Nat) : State :=
  match s.piste.leases.find? (fun l => l.id = id) with
  | none => s
  | some l =>
    if l.kept || (nextSet s l.arm).any (fun n => n.zone = l.zone) then bump s 0x40 0 0x88
    else withPiste s (fun q => { q with leases := q.leases.filter (fun x => x.id != id) })

/-- The next LEASE_ID, which skips 0 (R199). -/
def nextLeaseId (n : Nat) : Nat := if (n + 1) % 2 ^ 32 = 0 then 1 else (n + 1) % 2 ^ 32

/-- Enters a new lease, in ascending LEASE_ID, and counts it (R213). -/
def grant (s : State) (l0 : Lease) : State × Lease :=
  let l := { l0 with id := nextLeaseId s.piste.lastId }
  let s1 := withPiste s (fun q => { q with lastId := l.id, leases := insertBy (fun x y => decide (x.id < y.id)) l q.leases })
  (trace (bump (bump s1 0x40 l.zone 4) 0x40 0 0x84) 2 0x0102 (l.arm * 256 + l.zone) l.id, l)

/-- Holds a completion until the end of the pass (R205 step 7). -/
def postLater (s : State) (o : Option Origin) (st : Nat) (result : Bytes) : State :=
  match o with
  | some og => withPiste s (fun q => { q with done := q.done ++ [(og, st, result)] })
  | none => s

/-- The completions of a pass are posted, in the order of its steps. -/
def postDone (s : State) : State := s.piste.done.foldl (fun s d => complete s d.1 d.2.1 d.2.2) (withPiste s (fun q => { q with done := [] }))

/-- A pass refuses a request or an extension: counted and traced now, its completion posted at the end of the pass where it ends. -/
def refuseInPass (s : State) (o : Option Origin) (arm zone reason : Nat) (b : Option (Nat × Nat × Nat)) (ends : Bool) : State :=
  let s1 := refuseZone s none arm zone reason b false
  if ends then postLater s1 o stLeaseRefused (refusalBytes reason b) else s1

/-- Completes a granted request or extension. -/
def completeLease (s : State) (o : Option Origin) (l : Lease) : State := postLater s o stOk (leaseBytes l)

/-- Judges one extension (R203); one of the planner's reaches 2 s past the lease's END at most (R198). [DEDUCED, log 148] -/
def judgeExtension (tp : Nat) (s : State) (x : ZoneExtension) : State :=
  let refuse := fun (s : State) (zone reason : Nat) (b : Option (Nat × Nat × Nat)) => refuseInPass s x.origin x.arm zone reason b true
  match s.piste.leases.find? (fun l => l.id = x.lease) with
  | none => refuse s 0 reExpired none
  | some l =>
    if armHeld s x.arm then refuse s l.zone reHeld none
    else if l.finish ≤ tp then refuse s l.zone reExpired none
    else if (armLeases s x.arm l.zone).any (fun k => decide (l.finish ≤ k.start) && k.id != l.id) then refuse s l.zone reNotLatest none
    else
      let newEnd := if x.origin.isNone then min x.newEnd (l.finish + 2000000000) else x.newEnd
      match blockers s x.arm l.zone (max l.finish tp) newEnd with
      | b :: bs =>
        let r := pickBlocker s (b :: bs)
        refuse r.1 l.zone reConflict r.2
      | [] =>
        if newEnd - l.start ≤ 2000000000 then
          let l1 := { l with finish := newEnd }
          completeLease (withPiste s (fun q => { q with leases := q.leases.map (fun k => if k.id = l.id then l1 else k) })) x.origin l1
        else if 4 ≤ (armLeases s x.arm l.zone).length then refuse s l.zone reLimit none
        else if 1024 ≤ s.piste.leases.length then refuse s l.zone reTableFull none
        else
          let r := grant s { id := 0, arm := x.arm, zone := l.zone, planner := x.origin.isNone, followOn := true, start := l.finish, finish := newEnd }
          completeLease r.1 x.origin r.2

/-- Credit of an arm for a zone. -/
def credit (q : PisteState) (a z : Nat) : Nat :=
  match q.credits.find? (fun c => c.1 = (a, z)) with
  | some c => c.2
  | none => 0

/-- Rank of candidates (R206): the first ranks above the second. -/
def ranksAbove (q : PisteState) (a b : ZoneRequest) : Bool :=
  if a.priority != b.priority then decide (b.priority < a.priority)
  else if credit q a.arm a.zone != credit q b.arm b.zone then decide (credit q b.arm b.zone < credit q a.arm a.zone)
  else if a.arm != b.arm then decide (a.arm < b.arm)
  else if a.start != b.start then decide (a.start < b.start)
  else if a.zone != b.zone then decide (a.zone < b.zone)
  else decide (a.order < b.order)

/-- What one arbitration has done so far: the pairs refused and granted, and the requests that end. -/
structure ArbState where
  s : State
  refused : List (Nat × Nat) := []
  granted : List (Nat × Nat) := []

/-- A request leaves the table. -/
def dropRequest (s : State) (r : ZoneRequest) : State := withPiste s (fun q => { q with requests := q.requests.filter (fun x => x.order != r.order) })

/-- Start of an interval raised past the arm's own leases on the zone (R206). -/
def raiseStart (own : List Lease) (st en : Nat) : Nat :=
  own.foldl (fun st l => if overlaps st en l.start l.finish then max st l.finish else st) st

/-- Takes one candidate (R206). -/
def arbitrate (tp : Nat) (g : ArbState) (r : ZoneRequest) : ArbState :=
  let s := g.s
  let stays := r.wait || r.origin.isNone
  let st := max r.start tp
  let miss : List (Nat × Nat) := g.refused ++ [(r.arm, r.zone)]
  let end_ := fun (s : State) (reason : Nat) (b : Option (Nat × Nat × Nat)) =>
    { g with s := refuseInPass (dropRequest s r) r.origin r.arm r.zone reason b true, refused := miss }
  let keep := fun (s : State) (reason : Nat) (b : Option (Nat × Nat × Nat)) =>
    if stays then { g with s := refuseInPass s r.origin r.arm r.zone reason b false, refused := miss } else end_ s reason b
  if armHeld s r.arm then { g with s := refuseInPass (dropRequest s r) r.origin r.arm r.zone reHeld none true }
  else if r.finish ≤ tp then end_ s reExpired none
  else
    match blockers s r.arm r.zone st r.finish with
    | b :: bs =>
      let p := pickBlocker s (b :: bs)
      keep p.1 reConflict p.2
    | [] =>
      let own := armLeases s r.arm r.zone
      let st1 := raiseStart own st r.finish
      if r.finish ≤ st1 then
        let cover := own.find? (fun l => decide (r.finish ≤ l.finish) && decide (l.start < r.finish))
        { g with s := match cover with
            | some l => completeLease (dropRequest s r) r.origin l
            | none => dropRequest s r }
      else if 4 ≤ own.length then keep s reLimit none
      else if 1024 ≤ s.piste.leases.length then (if r.origin.isNone then keep s reTableFull none else end_ s reTableFull none)
      else
        let r2 := grant (dropRequest s r) { id := 0, arm := r.arm, zone := r.zone, planner := r.origin.isNone, start := st1, finish := r.finish }
        { g with s := completeLease r2.1 r.origin r2.2, granted := g.granted ++ [(r.arm, r.zone)] }

/-- Credits after step 4 (R207). -/
def newCredits (q : PisteState) (refused granted : List (Nat × Nat)) : List ((Nat × Nat) × Nat) :=
  let raised := refused.eraseDups.foldl (fun cs k =>
    let c := satNat 16 (((cs.find? (fun x => x.1 = k)).map (·.2)).getD 0 + 1)
    sortBy (fun x y => decide (x.1.1 * 256 + x.1.2 < y.1.1 * 256 + y.1.2)) (cs.filter (fun x => x.1 != k) ++ [(k, c)])) q.credits
  raised.filter (fun c => !granted.contains c.1)

/-- The zones an arm must hold now and does not, lowest first (R209). -/
def missingZones (s : State) (a tp : Nat) : List Nat :=
  let th := (nth {} s.plan.arms a).theta
  let bad := (nextSet s a).filter (fun n =>
    decide (n.first ≤ th + tickNs s) && (match n.untilTheta with
      | some u => decide (th < u)
      | none => true) && !holdsThrough s a n.zone tp (tp + tickNs s))
  sortBy (fun x y => decide (x < y)) (bad.map (·.zone))

/-- The check of one arm (R209, R210): a violation puts the arm into arm hold. -/
def checkArm (tp : Nat) (s : State) (a : Nat) : State :=
  if !armPresent s.objs a || armHeld s a || holdLasts s then s
  else
    match missingZones s a tp with
    | [] => s
    | z :: _ =>
      let w := errWord 1 2 4 1 false z
      let s1 := bump (error s w) 0x40 0 0x87
      let s2 := withPiste s1 (fun q => { q with lastViolation := upd q.lastViolation a (fun _ => (z, tp, (nth {} s.plan.arms a).theta)) })
      armHold s2 a w .momentary

/-- Start of the arbiter pass of the tick in progress. -/
def passStart (s : State) : Nat := tickStart s + ov s 0x40 0 0x80

/-- The arbiter can run: PD7 on, an image active, the block neither gated nor isolated. -/
def arbiterUp (s : State) : Bool := s.herd.running && drives s && imageActive s && domainOn s 7 && !isolated s 2 4 && !gated s 2 4

/-- Zones the arms hold or have requested: home zones, leases, pending requests. -/
def zoneRows (s : State) : List (Nat × Nat × Nat × Nat × Bool) :=
  (heldHomes s).map (fun h => (h.1, h.2, 0, 2 ^ 64 - 1, true)) ++
    s.piste.leases.map (fun l => (l.arm, l.zone, l.start, l.finish, true)) ++
    s.piste.requests.map (fun r => (r.arm, r.zone, r.start, r.finish, false))

/-- One pass with start t_p (R205); the holder of a pair mirrors at its end (R212, R406). -/
def arbiterPass (tp : Nat) (s : State) : State :=
  let s0 := withPiste s (fun q => { q with passLeases := q.leases, passHomes := q.homesHeld })
  let s1 := expireLeases s0 tp (fun _ => true)
  let due := s1.piste.releases.filter (fun r => decide (r.2 < tp))
  let s2 := due.foldl (fun s r => applyRelease s r.1)
    (withPiste s1 (fun q => { q with releases := q.releases.filter (fun r => !decide (r.2 < tp)) }))
  let s4 :=
    if holdLasts s2 then s2
    else
      let exts := sortBy (fun (x y : ZoneExtension) => decide (x.arm < y.arm) || (x.arm == y.arm && decide (x.order < y.order)))
        (s2.piste.extensions.filter (fun x => decide (x.at_ < tp)))
      let s3 := exts.foldl (judgeExtension tp)
        (withPiste s2 (fun q => { q with extensions := q.extensions.filter (fun x => !decide (x.at_ < tp)) }))
      let cands := sortBy (ranksAbove s3.piste) (s3.piste.requests.filter (fun r => r.origin.isNone || decide (r.at_ < tp)))
      let g := cands.foldl (arbitrate tp) { s := s3 }
      withPiste g.s (fun q => { q with credits := newCredits q g.refused g.granted })
  let s5 := withPiste s4 (fun q => { q with checkedSets := (List.range 8).map (nextSet s4) })
  let s6 := (List.range 8).foldl (checkArm tp) s5
  let s7 := postDone s6
  mirrorPiste (withPiste s7 (fun q => { q with lastPass := tp, passTick := some s.herd.tick, passRows := zoneRows s7 }))

/-- ARBITER_PASS (R205): one pass in a tick, at its start or as soon after it as the command comes. -/
def execArbiterPass (clk : Nat) (s : State) : Host.Outcome State Fault Refusal :=
  let s1 := begin clk s
  .next (if arbiterUp s1 && decide (passStart s1 ≤ now s1) && s1.piste.passTick != some s1.herd.tick then arbiterPass (passStart s1) s1 else s1)

/-- LEASE_EXPIRY (R205 step 1): at the start of a pass a lease whose END has come is removed, unless it is KEPT. [DESIGN CHOICE, log 4] -/
def execLeaseExpiry (clk lease : Nat) (s : State) : Host.Outcome State Fault Refusal :=
  let s1 := begin clk s
  .next (if arbiterUp s1 && decide (passStart s1 ≤ now s1) && s1.piste.passTick != some s1.herd.tick then
      expireLeases s1 (passStart s1) (fun l => l.id = lease)
    else s1)

/-- A planner request enters the pending-request table, or is dropped where it is full (R202). -/
def plannerRequest (s : State) (arm zone priority st en : Nat) : State :=
  if 512 ≤ pendingCount s then bump s 0x40 0 0x89
  else withPiste s (fun q => { q with
    orderCount := q.orderCount + 1
    requests := q.requests ++ [{ origin := none, arm := arm, zone := zone, priority := priority, wait := false, start := st, finish := en
                                 at_ := now s, order := q.orderCount }] })

/-- A planner extension (R164). -/
def plannerExtension (s : State) (arm lease ne : Nat) : State :=
  withPiste s (fun q => { q with
    orderCount := q.orderCount + 1
    extensions := q.extensions ++ [{ origin := none, arm := arm, lease := lease, newEnd := ne, at_ := now s, order := q.orderCount }] })

/-- A commit for an arm replaces its pending planner requests and extensions (R202). -/
def dropPlanner (s : State) (arm : Nat) : State :=
  withPiste s (fun q => { q with
    requests := q.requests.filter (fun r => !(r.arm = arm && r.origin.isNone))
    extensions := q.extensions.filter (fun x => !(x.arm = arm && x.origin.isNone)) })

end Sys2Proof.Machine
end

