-- ==== Sys2Proof/Machine/Profile.lean ====
section
/-! DEFINITION. The profile engine (10_motion_profiles.md R214 to R237): moves, jogs, conveyors, stop ramps and the pass of every tick. -/

namespace Sys2Proof.Machine

def withProf (s : State) (f : ProfileState → ProfileState) : State := { s with prof := f s.prof }
def chan (s : State) (ch : Nat) : Channel := tget {} s.prof.channels ch
def setChan (s : State) (ch : Nat) (f : Channel → Channel) : State :=
  withProf s (fun p => { p with channels := tset {} p.channels ch (f (tget {} p.channels ch)) })
def armMot (s : State) (a : Nat) : ArmMotion := nth {} s.prof.arms a
def setArmMot (s : State) (a : Nat) (f : ArmMotion → ArmMotion) : State := withProf s (fun p => { p with arms := upd p.arms a f })
def armPlan (s : State) (a : Nat) : ArmPlan := nth {} s.plan.arms a
def setArmPlan (s : State) (a : Nat) (f : ArmPlan → ArmPlan) : State := { s with plan := { s.plan with arms := upd s.plan.arms a f } }

/-- The arm a channel belongs to: a joint's arm, or `joint.scale_arm` of an auxiliary axis (R215). -/
def chanArm (objs : List (Nat × Nat)) (ch : Nat) : Option Nat :=
  if ch < 64 then some (ch / 8)
  else if ch < 72 then (if ob objs 0x21 ch 0x0F < 8 then some (ob objs 0x21 ch 0x0F) else none)
  else none

/-- A channel that can move exists. -/
def chanPresent (objs : List (Nat × Nat)) (ch : Nat) : Bool := if ch < 64 then jointPresent objs ch else decide (ch < 72)

/-- Channels of an arm: its present joints and the auxiliary axes that follow it. -/
def armChans (objs : List (Nat × Nat)) (a : Nat) : List Nat :=
  (List.range 72).filter (fun ch => chanPresent objs ch && chanArm objs ch == some a)

/-- Limits of a channel in counts (R221). -/
def chanLimits (objs : List (Nat × Nat)) (ch : Nat) : Limits :=
  let f := fun m => toCounts objs ch (dOfF32 (obF objs 0x21 ch m))
  { v := f 3, a := f 4, j := f 5 }

/-- Soft limits in q32.32 counts. -/
def softMin (objs : List (Nat × Nat)) (ch : Nat) : Int := sext 64 (ob objs 0x21 ch 1)
def softMax (objs : List (Nat × Nat)) (ch : Nat) : Int := sext 64 (ob objs 0x21 ch 2)

/-- A position in counts lies inside the soft limits. -/
def insideSoft (objs : List (Nat × Nat)) (ch : Nat) (p : F64) : Bool :=
  dLe (q32ToD (softMin objs ch)) p && dLe p (q32ToD (softMax objs ch))

/-- The time a channel runs in: its arm's plan time, or herd time `t`. -/
def chanTime (s : State) (ch t : Nat) : Nat :=
  match chanArm s.objs ch with
  | some a => (armPlan s a).theta
  | none => t

/-- Plan rate of a channel. -/
def chanRho (s : State) (ch : Nat) : F64 :=
  match chanArm s.objs ch with
  | some a => (armMot s a).rho
  | none => dOne

/-- State of a channel at time t of its own: position in q32.32 counts, velocity and acceleration in plan time; `ahead` is the herd time
in s by which a conveyor is extrapolated. -/
def chanState (s : State) (ch t : Nat) (ahead : F64) : Int × F64 × F64 :=
  let c := chan s ch
  let fix := fun (r : F64 × F64 × F64) => (dToQ32 r.1, r.2.1, r.2.2)
  match c.motion with
  | some (.move _ _ p) => fix (profSample p t)
  | some (.stop _ _ p) => fix (profSample p t)
  | some (.jog _ _ p _) => fix (jogSample p t)
  | some (.follow _ conv ratio off _ _ err _) =>
    let k := chan s (72 + conv)
    let e := profSample err t
    let pk := dDot [(q32ToD k.pos, dOne), (k.vel, ahead)]
    (off + dToQ32 (dMul ratio pk) + dToQ32 e.1, dDot [(ratio, k.vel), (e.2.1, dOne)], e.2.2)
  | none =>
    if 64 ≤ ch then (c.pos, 0, 0)
    else
      match (armMot s (ch / 8)).linear with
      | some lm =>
        let r := profSample lm.prof t
        let d := nth 0 lm.dists (ch % 8)
        if dEq d 0 then (c.pos, 0, 0)
        else (dToQ32 (dDot [(nth 0 lm.starts (ch % 8), dOne), (d, r.1)]), dMul d r.2.1, dMul d r.2.2)
      | none =>
        match (armMot s (ch / 8)).source, (armPlan s (ch / 8)).following with
        | .plan, some r => planSample r (ch % 8) t
        | _, _ => (c.pos, 0, 0)

/-- A channel moves under a move, jog, conveyor following or stop profile. -/
def chanBusy (s : State) (ch : Nat) : Bool :=
  (chan s ch).motion.isSome || (decide (ch < 64) && (armMot s (ch / 8)).linear.any (fun l => !dEq (nth 0 l.dists (ch % 8)) 0))

/-- A joint's arm runs a MOVE_LINEAR. -/
def linearArm (s : State) (ch : Nat) : Bool := decide (ch < 64) && (armMot s (ch / 8)).linear.isSome

/-- Some channel of an arm moves so. -/
def armBusy (s : State) (a : Nat) : Bool := (armChans s.objs a).any (chanBusy s) || (armMot s a).linear.isSome

/-- Some joint of an arm moves so. -/
def jointsBusy (s : State) (a : Nat) : Bool := (List.range 8).any (fun j => jointPresent s.objs (a * 8 + j) && chanBusy s (a * 8 + j)) || (armMot s a).linear.isSome

/-- A safety channel holds an arm in a stop state: SS1, SS2, SOS or STO. -/
def stopState (s : State) (a : Nat) : Bool :=
  let st := fun (c : Channel2) => (nth {} c.arms a).state
  let hit := fun x => x != StopState.normal && x != StopState.sls
  hit (st s.safety.processor) || hit (st s.safety.chamois)

/-- An event that stops an arm is in force (R233). -/
def stopDemand (s : State) (a : Nat) : Bool :=
  armHeld s a || holdLasts s || s.mode.accepted = some .hold || nth .none s.sep.demandP a != .none || nth .none s.sep.demandC a != .none ||
    stopState s a

/-- An arm has no torque (STO in either channel). -/
def armSto (s : State) (a : Nat) : Bool :=
  (nth {} s.safety.processor.arms a).state = .sto || (nth {} s.safety.chamois.arms a).state = .sto

/-- An arm stands: every present joint has velocity and acceleration 0 in its source (R226). -/
def armStands (s : State) (a : Nat) : Bool :=
  (List.range 8).all (fun j =>
    !jointPresent s.objs (a * 8 + j) ||
      (let r := chanState s (a * 8 + j) (armPlan s a).theta 0
       dEq r.2.1 0 && dEq r.2.2 0))

/-- The arm's plan has run out, or it has none (R226). -/
def planOver (s : State) (a : Nat) : Bool :=
  match (armPlan s a).following with
  | some r => decide (planEnd r ≤ (armPlan s a).theta)
  | none => true

/-! ### Results (Tables 10-3 and 10-4) -/

/-- Why a move is refused (Table 10-4). -/
structure MoveNo where
  reason : Nat
  channel : Nat := 0xFF
  zone : Nat := 0xFF
  capsule : Nat := 0xFF
  at_ : Nat := 0
  deriving DecidableEq, Repr

def refuseMove (s : State) (o : Origin) (ch : Nat) (r : MoveNo) : State :=
  let s1 := trace (bump s 0x10 0 0x24) 3 0x0103 ch r.reason
  complete s1 o stMoveRefused (leBytes 1 r.reason ++ leBytes 1 r.channel ++ leBytes 1 r.zone ++ leBytes 1 r.capsule ++ zeros 4 ++ leBytes 8 r.at_)

/-- The next MOVE_ID (R225). -/
def nextMoveId (s : State) : Nat := (s.prof.lastMoveId + 1) % 2 ^ 32

def acceptMove (s : State) (o : Origin) (ch : Nat) (endTheta : Option Nat) : State :=
  let id := nextMoveId s
  let s1 := trace (bump (withProf s (fun p => { p with lastMoveId := id })) 0x10 0 0x23) 3 0x0103 ch id
  complete s1 o stOk (leBytes 4 id ++ zeros 4 ++ leBytes 8 (endTheta.getD (2 ^ 64 - 1)))

/-! ### Check points (R226) -/

/-- Joint values and rates of an arm at plan time θ in a trial state. -/
def armAt (s : State) (a θ : Nat) (ahead : F64) : List F64 × List F64 :=
  let rows := (List.range 8).map (fun j =>
    let ch := a * 8 + j
    if jointPresent s.objs ch then
      let r := chanState s ch θ ahead
      (planJoint s.objs a j (toUnit s.objs ch (q32ToD r.1)), toUnit s.objs ch r.2.1)
    else (0, 0))
  (rows.map (·.1), rows.map (·.2))

/-- Smallest whole number not below x. [DESIGN CHOICE, log 62] -/
def dCeil (x : F64) : Nat := (-(dFloor (dNeg x))).toNat

/-- Number of check points of a motion of `dur` ns (R226 check 3). -/
def checkCount (objs : List (Nat × Nat)) (a dur : Nat) : Nat :=
  max 4 (dCeil (dDiv (dMul (nsToS dur) (dOfF32 (obF objs 0x30 (0x10 + a) 5))) (dOfF32 (obF objs 0x30 0 8))))

/-- Millimetres as metres. -/
def mmToM (x : F64) : F64 := dDiv x (dOfInt 1000)

/-- Speed of a point against a limit in mm/s. -/
def tooFast (v : Vec F64) (limit : F32) : Bool := dLt (mmToM (dOfF32 limit)) (vecNorm num64 v)

/-- Check 4 at one check point: the first capsule that is too fast; 0xFF for the TCP. -/
def fastAt (s : State) (a : Nat) (q qd : List F64) : Option Nat :=
  let pose := armPose num64 s.objs a q
  let axes := jointAxes num64 s.objs a pose
  let pmax := obF s.objs 0x30 (0x10 + a) 5
  let caps := armCapsules s.objs a
  match caps.find? (fun c =>
      let e := capsuleEnds num64 pose c.2
      tooFast (pointVel num64 axes c.2.link qd e.1) pmax || tooFast (pointVel num64 axes c.2.link qd e.2) pmax) with
  | some c => some c.1
  | none =>
    if s.mode.mode = .commission && tooFast (pointVel num64 axes 9 qd (tcpPoint num64 s.objs a pose)) (obF s.objs 0x60 (0x20 + a) 5) then some 0xFF
    else none

/-- Zones shrunk by the margin that contain a capsule, lowest first. -/
def zonesAround (objs : List (Nat × Nat)) (pose : Pose F64) (c : Capsule) : List Nat :=
  let m := mmToM (dOfF32 (obF objs 0x30 0 8))
  let e := capsuleEnds num64 pose c
  (List.range 256).filter (fun z => zoneUsed objs z && capsuleInside objs z m e c.radius)

/-- Check 5 at one check point: the zones used, or the capsule and zone that fail (R226). -/
def zonesAt (s : State) (a : Nat) (q : List F64) (tc tEnd : Nat) : Except (Nat × Nat) (List Nat) :=
  let pose := armPose num64 s.objs a q
  (armCapsules s.objs a).foldl (fun acc c =>
    match acc with
    | .error e => .error e
    | .ok zs =>
      let around := zonesAround s.objs pose c.2
      match around.find? (fun z => holdsThrough s a z tc (tEnd - 1)) with
      | some z => .ok (if zs.contains z then zs else zs ++ [z])
      | none => .error (c.1, around.headD 0xFF)) (.ok [])

/-- Entries of a lease set from the zones used at each check point (R208). -/
def leaseSet (θ0 : Nat) (points : List (Nat × List Nat)) : List LeaseNeed :=
  let zs := (points.flatMap (·.2)).eraseDups
  let zs := sortBy (fun x y => decide (x < y)) zs
  zs.map (fun z =>
    let firstIx := (points.findIdx? (fun p => p.2.contains z)).getD 0
    let lastIx := points.length - 1 - (points.reverse.findIdx? (fun p => p.2.contains z)).getD 0
    { zone := z, first := if firstIx = 0 then θ0 else (nth (0, []) points firstIx).1
      untilTheta := if lastIx + 1 = points.length then none else some (nth (0, []) points (lastIx + 1)).1 })

/-- Checks 3 to 5 of an arm's motion in a trial state from θ₀ over `dur` ns of plan time, where check 4 is asked for. -/
def pathChecks (s : State) (a θ0 dur t0 ch : Nat) (speed : Bool) : Except MoveNo (List LeaseNeed) :=
  let rho := (armMot s a).rho
  let n := checkCount s.objs a dur
  if 1024 < n then .error { reason := 8, channel := ch }
  else
    let herd := fun (x : Nat) => freeRound (dDiv (dOfNat x) rho)
    let tEnd := t0 + herd dur + ov s 0x30 0 9 * 1000000
    let pts := (List.range n).map (fun i =>
      let x := dur * (i + 1) / n
      let qs := armAt s a (θ0 + x) (nsToS (herd x))
      (θ0 + x, t0 + herd x, qs.1, qs.2))
    match (if speed then pts.findSome? (fun p => (fastAt s a p.2.2.1 p.2.2.2).map (fun c => (p.1, c))) else none) with
    | some (θ, c) => .error { reason := 3, channel := ch, capsule := c, at_ := θ }
    | none =>
      let r := pts.foldl (fun (acc : Except MoveNo (List (Nat × List Nat))) p =>
        match acc with
        | .error e => .error e
        | .ok l =>
          match zonesAt s a p.2.2.1 p.2.1 tEnd with
          | .ok zs => .ok (l ++ [(p.1, zs)])
          | .error (c, z) => .error { reason := 2, channel := ch, zone := z, capsule := c, at_ := p.1 }) (.ok [])
      match r with
      | .error e => .error e
      | .ok l =>
        let set := leaseSet θ0 l
        if set.length ≤ 32 then .ok set else .error { reason := 2, channel := ch }

/-! ### Acceptance (R225, R226) -/

/-- Check 1 for a move of an arm: its source and holds. A jog, conveyor following and an axis that follows the arm by `joint.scale_arm` meet
the same test, since checks 3 to 5 register the arm's lease set for them too. [DEDUCED, log 154] -/
def sourceCheck (s : State) (a : Option Nat) (ch : Nat) : Option MoveNo :=
  match a with
  | none => if holdLasts s || s.mode.accepted = some .hold then some { reason := 7, channel := ch } else none
  | some a =>
    let m := armMot s a
    if m.source = .plan && !(armStands s a && planOver s a) then some { reason := 5, channel := ch }
    else if m.ramp || stopDemand s a then some { reason := 7, channel := ch }
    else none

/-- Last part of check 1: the rate and the predicted state (R226). -/
def rateCheck (s : State) (a : Option Nat) (chs : List Nat) (w : MoveWait) (t0 ch : Nat) : Option MoveNo :=
  let zero := a.any (fun a => dEq (armMot s a).rho 0)
  let here := chs.map (fun c => chanState s c (chanTime s c t0) 0)
  if zero || (w.predicted != [] && w.predicted != here) then some { reason := 9, channel := ch } else none

/-- Installs a motion on a channel. -/
def setMotion (s : State) (ch : Nat) (m : Motion) (id : Nat) (target : Int) : State :=
  setChan s ch (fun c => { c with motion := some m, moveId := id, target := target })

/-- Latest end of the motions of an arm's channels. -/
def armEnd (s : State) (a : Nat) : Nat :=
  let ends := (armChans s.objs a).map (fun ch =>
    match (chan s ch).motion with
    | some (.move _ _ p) => profEnd p
    | some (.stop _ _ p) => profEnd p
    | some (.follow _ _ _ _ _ _ p _) => profEnd p
    | _ => 0)
  maxNat ((match (armMot s a).linear with
    | some l => profEnd l.prof
    | none => 0) :: ends)

/-- Registers the lease set of a motion accepted on a channel; a joint's motion also gives the arm its source and ends its plan, an auxiliary
axis that follows the arm does neither (R215, R226). -/
def armMoves (s : State) (ch a : Nat) (set : List LeaseNeed) (src : ArmSource) : State :=
  let s1 := withPiste s (fun q => { q with sets := upd q.sets a (fun _ => set) })
  if 64 ≤ ch then s1
  else setArmPlan (setArmMot s1 a (fun m => { m with source := src, moveDone := false })) a (fun p => { p with following := none, pending := [] })

/-- Smaller of a limit argument and the channel's own; an argument of 0 stands for the channel's (R227). -/
def limitArg (objs : List (Nat × Nat)) (ch mem : Nat) (arg : F32) : F64 :=
  toCounts objs ch (dOfF32 (if fEq arg 0 then obF objs 0x21 ch mem else arg))

/-- MOVE_JOINT at its pass. A stop profile is no move of another kind: the move starts from the state it has reached (R223). [DEDUCED, log
154] -/
def acceptJoint (s : State) (w : MoveWait) (ch : Nat) (vel acc jerk : F32) (target : F64) (t0 : Nat) : State :=
  let a := chanArm s.objs ch
  let θ0 := chanTime s ch t0
  let lim : Limits := { v := limitArg s.objs ch 3 vel, a := limitArg s.objs ch 4 acc, j := limitArg s.objs ch 5 jerk }
  let otherKind := match (chan s ch).motion with
    | some (.move _ _ _) => false
    | some (.stop _ _ _) => false
    | some _ => true
    | none => linearArm s ch
  let st := chanState s ch θ0 0
  let prof := moveProfile lim θ0 (q32ToD st.1, st.2.1, st.2.2) target
  match sourceCheck s a ch with
  | some r => refuseMove s w.origin ch r
  | none =>
    if otherKind then refuseMove s w.origin ch { reason := 6, channel := ch }
    else
      match rateCheck s a [ch] w t0 ch with
      | some r => refuseMove s w.origin ch r
      | none =>
        if !(profReach prof).all (insideSoft s.objs ch) then refuseMove s w.origin ch { reason := 1, channel := ch }
        else
          let trial := setMotion s ch (.move (nextMoveId s) lim prof) (nextMoveId s) (dToQ32 target)
          match a with
          | none => acceptMove trial w.origin ch (some (profEnd prof))
          | some a =>
            match pathChecks trial a θ0 (armEnd trial a - θ0) t0 ch true with
            | .error r => refuseMove s w.origin ch r
            | .ok set => acceptMove (armMoves trial ch a set .move) w.origin ch (some (profEnd prof))

/-- Smallest of a list of positive values. -/
def dMinList (l : List F64) : F64 :=
  match l with
  | [] => dInf
  | x :: r => r.foldl dMin x

/-- Limits of a coordinated move on s (R224). -/
def linearLimits (objs : List (Nat × Nat)) (a : Nat) (scale : F32) (dists : List F64) : Limits :=
  let rows := (indexed dists).filter (fun d => !dEq d.2 0)
  let f := fun (sel : Limits → F64) => dMinList (rows.map (fun d => dDiv (dMul (sel (chanLimits objs (a * 8 + d.1))) (dOfF32 scale)) (dAbs d.2)))
  { v := f (·.v), a := f (·.a), j := f (·.j) }

/-- MOVE_LINEAR at its pass (R224). -/
def acceptLinear (s : State) (w : MoveWait) (a : Nat) (scale : F32) (target : List F64) (t0 : Nat) : State :=
  let θ0 := (armPlan s a).theta
  let first := a * 8
  let chs := (List.range 8).map (fun j => first + j)
  let present := chs.filter (jointPresent s.objs)
  let starts := chs.map (fun ch => q32ToD (chanState s ch θ0 0).1)
  let dists := (List.range 8).map (fun j => if jointPresent s.objs (first + j) then dSub (nth 0 target j) (nth 0 starts j) else 0)
  match sourceCheck s (some a) first with
  | some r => refuseMove s w.origin first { r with channel := 0xFF }
  | none =>
    if jointsBusy s a || !armStands s a then refuseMove s w.origin first { reason := 4 }
    else
      match rateCheck s (some a) present w t0 0xFF with
      | some r => refuseMove s w.origin first r
      | none =>
        match present.find? (fun ch => !insideSoft s.objs ch (nth 0 target (ch % 8))) with
        | some ch => refuseMove s w.origin first { reason := 1, channel := ch }
        | none =>
          let still := dists.all (fun d => dEq d 0)
          let lim := linearLimits s.objs a scale dists
          let prof : Profile := if still then { start := θ0, target := 0 } else restProfile lim θ0 0 dOne
          let lm : LinearMove := { id := nextMoveId s, starts := starts, dists := dists, scale := scale, lim := lim, prof := prof }
          let trial := setArmMot (present.foldl (fun s ch => setChan s ch (fun c =>
            { c with moveId := nextMoveId s, target := dToQ32 (nth 0 target (ch % 8)) })) s) a (fun m => { m with linear := some lm })
          match pathChecks trial a θ0 (armEnd trial a - θ0) t0 0xFF true with
          | .error r => refuseMove s w.origin first r
          | .ok set => acceptMove (armMoves trial first a set .move) w.origin first (some (profEnd prof))

/-- Distance a stop covers from a velocity at acceleration 0. -/
def stopDist (l : Limits) (v : F64) : F64 := dAbs (stopPoint l (0, v, 0))

/-- Herd time, in ns, after which a conveyor-following channel passes END_POS at the conveyor's speed; none when it never does. -/
def followNs (xf speed endPos : F64) : Option Nat :=
  let t := dDiv (dSub endPos xf) speed
  if dFinite t && dLe 0 t then some (sToNs t) else none

/-- MOVE_CONVEYOR at its pass (R229). A channel that does not stand refuses with BUSY, for which Table 10-4 has no other reason. [DEDUCED,
log 154] -/
def acceptConveyor (s : State) (w : MoveWait) (ch conv : Nat) (ratio : F64) (off : Int) (endPos : F64) (t0 : Nat) : State :=
  let a := chanArm s.objs ch
  let θ0 := chanTime s ch t0
  let k := chan s (72 + conv)
  let st := chanState s ch θ0 0
  let xf := off + dToQ32 (dMul ratio (q32ToD k.pos))
  let vf := dMul ratio k.vel
  let lim := chanLimits s.objs ch
  let limE := { lim with v := dSub lim.v (dAbs vf) }
  let no := fun r => refuseMove s w.origin ch { reason := r, channel := ch }
  match sourceCheck s a ch with
  | some r => refuseMove s w.origin ch r
  | none =>
    if chanBusy s ch || linearArm s ch || !dEq st.2.1 0 || !dEq st.2.2 0 then no 6
    else if s.mode.mode != .run then no 7
    else if k.convStale || !k.convSeen then no 10
    else
      match rateCheck s a [ch] w t0 ch with
      | some r => refuseMove s w.origin ch r
      | none =>
        if a.any (fun a => !dEq (armMot s a).rho dOne) then no 9
        else if !dLt 0 limE.v then no 3
        else
          let e0 := q32ToD (st.1 - xf)
          let err := moveProfile limE θ0 (e0, dNeg vf, 0) 0
          let room := stopDist lim lim.v
          let reach := [q32ToD st.1, endPos, dAdd endPos room, dSub endPos room]
          let beyond := if dLt vf 0 then [q32ToD st.1, endPos, dSub endPos room] else if dLt 0 vf then [q32ToD st.1, endPos, dAdd endPos room] else reach
          if !beyond.all (insideSoft s.objs ch) then no 1
          else
            let trial := setMotion s ch (.follow (nextMoveId s) conv ratio off endPos lim err false) (nextMoveId s) (dToQ32 endPos)
            match a with
            | none => acceptMove trial w.origin ch none
            | some a =>
              match followNs (q32ToD xf) vf endPos with
              | none => no 8
              | some t =>
                let dur := t + profLen (stopProfile lim 0 (endPos, vf, 0))
                match pathChecks trial a θ0 dur t0 ch true with
                | .error r => refuseMove s w.origin ch r
                | .ok set => acceptMove (armMoves trial ch a set .move) w.origin ch none

/-- Zones that contain every capsule of an arm at its setpoints: each zone that contains some capsule (R230). -/
def jogZoneSet (s : State) (a : Nat) (q : List F64) : List Nat :=
  let pose := armPose num64 s.objs a q
  sortBy (fun x y => decide (x < y)) ((armCapsules s.objs a).flatMap (fun c => zonesAround s.objs pose c.2)).eraseDups

/-- Another arm has a move or a jog active. -/
def otherArmBusy (s : State) (a : Option Nat) : Bool := (List.range 8).any (fun b => a != some b && armBusy s b)

/-- How long a jog's path is checked ahead: the time-out and the stop after it (R230). -/
def jogSpan (s : State) (lim : Limits) (target : F64) : Nat := ov s 0x10 0 0x22 * 1000000 + profLen (stopProfile lim 0 (0, target, 0))

/-- A jog of an arm's joint: the checks along its path, and the zones it needs (R230). -/
def acceptArmJog (s trial : State) (o : Origin) (ch a θ0 dur t0 : Nat) : State :=
  match pathChecks trial a θ0 dur t0 ch false with
  | .error r => refuseMove s o ch r
  | .ok _ =>
    let zs := jogZoneSet s a (setpointJoints s a)
    let set : List LeaseNeed := zs.map (fun z => { zone := z, first := θ0, untilTheta := none })
    acceptMove (setArmMot (armMoves trial ch a set .jog) a (fun m => { m with jogZones := zs })) o ch none

/-- JOG at its pass (R230). -/
def acceptJog (s : State) (w : MoveWait) (ch : Nat) (dir : Int) (speed : F32) (t0 : Nat) : State :=
  let a := chanArm s.objs ch
  let θ0 := chanTime s ch t0
  let lim := chanLimits s.objs ch
  let st := chanState s ch θ0 0
  let fst : F64 × F64 × F64 := (q32ToD st.1, st.2.1, st.2.2)
  let jogging := match (chan s ch).motion with
    | some (.jog _ _ _ _) => true
    | _ => false
  let v0 := toCounts s.objs ch (dOfF32 (if fEq speed 0 then obF s.objs 0x21 ch 6 else speed))
  let target := if dir < 0 then dNeg v0 else v0
  if otherArmBusy s a then refuseMove s w.origin ch { reason := 11, channel := ch }
  else
    match sourceCheck s a ch with
    | some r => refuseMove s w.origin ch r
    | none =>
      if (chanBusy s ch && !jogging) || linearArm s ch then refuseMove s w.origin ch { reason := 6, channel := ch }
      else
        match rateCheck s a [ch] w t0 ch with
        | some r => refuseMove s w.origin ch r
        | none =>
          if dir = 0 then
            let s1 := if jogging then setMotion s ch (.stop false lim (stopProfile lim θ0 fst)) (nextMoveId s) (chan s ch).target else s
            acceptMove s1 w.origin ch none
          else
            let prof := jogProfile lim θ0 fst target
            let trial := setMotion s ch (.jog target lim prof w.since) (nextMoveId s) 0
            match a with
            | none => acceptMove trial w.origin ch none
            | some a => acceptArmJog s trial w.origin ch a θ0 (jogSpan s lim target) t0

/-! ### Commands (R225, R227, R229 to R232) -/

/-- Herd time of the profile pass in a tick. -/
def profStart (s : State) (tick : Nat) : Nat := tick * tickNs s + ov s 0x10 0 0x20

/-- The first pass that starts at or after `due`, by the tick it runs in. [DEDUCED, log 64] -/
def passAt (s : State) (due : Nat) : Nat := ceilDiv (due - ov s 0x10 0 0x20) (tickNs s)

/-- State of channels at the pass of a tick under the rates latched last (R225). [DEDUCED, log 64] -/
def predict (s : State) (chs : List Nat) (tick : Nat) : List (Int × F64 × F64) :=
  match s.prof.passTick with
  | none => []
  | some last =>
    let k := tick - last
    chs.map (fun ch =>
      let adv := match chanArm s.objs ch with
        | some _ => freeRound (dMul (chanRho s ch) (dOfNat (tickNs s)))
        | none => tickNs s
      let t := (match chanArm s.objs ch with
        | some a => (armPlan s a).theta
        | none => (last + 1) * tickNs s)
      chanState s ch (t + k * adv) 0)

/-- Queues a move command for its pass (R225). -/
def queueMove (s : State) (o : Origin) (chs : List Nat) (args : MoveArgs) : State :=
  let due := now s + ov s 0x10 0 0x21 * 1000
  withProf s (fun p => { p with moves := p.moves ++ [{ origin := o, since := now s, due := due, args := args, predicted := predict s chs (passAt s due) }] })

/-- A binary32 argument is not negative, not NaN and not above a channel's limit (R227). -/
def argLimitOk (s : State) (ch mem : Nat) (x : F32) : Bool := fLe 0 x && fLe x (obF s.objs 0x21 ch mem)

/-- The profile engine is served: PD7 on, not gated, not isolated (R393). -/
def profDown (s : State) : Bool := blockDown s 2 0 7

/-- Target in force of a channel, or its setpoint (Table 10-5). -/
def targetOf (s : State) (ch : Nat) : Int :=
  match (chan s ch).motion with
  | some (.move _ _ _) => (chan s ch).target
  | _ => if linearArm s ch then (chan s ch).target else (chan s ch).pos

/-- MOVE_JOINT (R227). -/
def moveJoint (e : Entry) (_ : Transport) (s : State) : State :=
  let a := entryArgs e
  let o := originOf e
  let ch := le a 0 1
  let f := fun i => BitVec.ofNat 32 (le a i 4)
  let t0 := toCounts s.objs ch (BitVec.ofNat 64 (le a 16 8))
  let target := if bit (le a 1 1) 0 then dAdd (q32ToD (targetOf s ch)) t0 else t0
  if !chanPresent s.objs ch || !argLimitOk s ch 3 (f 4) || !argLimitOk s ch 4 (f 8) || !argLimitOk s ch 5 (f 12) || !insideSoft s.objs ch target then
    complete s o stBadArgument
  else if profDown s then complete s o stPrecondition
  else queueMove s o [ch] (.joint ch false (f 4) (f 8) (f 12) target)

def execMoveJoint (clk : Nat) (e : Entry) (s : State) : Host.Outcome State Fault Refusal :=
  .next (command { opcode := 0x0040, priv := true, modes := motionModes, noTransition := true } (fun _ => true) (fixedLen 24) moveJoint clk e s)

/-- MOVE_LINEAR (R227). -/
def moveLinear (e : Entry) (_ : Transport) (s : State) : State :=
  let a := entryArgs e
  let o := originOf e
  let arm := le a 0 1
  let scale : F32 := BitVec.ofNat 32 (le a 4 4)
  let chs := (List.range 8).map (fun j => arm * 8 + j)
  let target := chs.map (fun ch =>
    let t := toCounts s.objs ch (BitVec.ofNat 64 (le a (8 + 8 * (ch % 8)) 8))
    if bit (le a 1 1) 0 then dAdd (q32ToD (targetOf s ch)) t else t)
  let present := chs.filter (jointPresent s.objs)
  if 8 ≤ arm || !armPresent s.objs arm || !fLt 0 scale || !fLe scale (fOfInt 1) ||
      !present.all (fun ch => insideSoft s.objs ch (nth 0 target (ch % 8))) then
    complete s o stBadArgument
  else if profDown s then complete s o stPrecondition
  else queueMove s o present (.linear arm false scale target)

def execMoveLinear (clk : Nat) (e : Entry) (s : State) : Host.Outcome State Fault Refusal :=
  .next (command { opcode := 0x0041, priv := true, modes := motionModes, noTransition := true } (fun _ => true) (fixedLen 72) moveLinear clk e s)

/-- MOVE_CONVEYOR (R229). -/
def moveConveyor (e : Entry) (_ : Transport) (s : State) : State :=
  let a := entryArgs e
  let o := originOf e
  let ch := le a 0 1
  let conv := le a 1 1
  let ratio : F64 := BitVec.ofNat 64 (le a 8 8)
  let endPos := toCounts s.objs ch (BitVec.ofNat 64 (le a 24 8))
  if !chanPresent s.objs ch || 8 ≤ conv || dEq ratio 0 || !dFinite ratio || !insideSoft s.objs ch endPos then complete s o stBadArgument
  else if profDown s then complete s o stPrecondition
  else queueMove s o [ch] (.conveyor ch conv ratio (sext 64 (le a 16 8)) endPos)

def execMoveConveyor (clk : Nat) (e : Entry) (s : State) : Host.Outcome State Fault Refusal :=
  .next (command { opcode := 0x0042, priv := true, modes := [.run], noTransition := true } (fun _ => true) (fixedLen 32) moveConveyor clk e s)

/-- JOG (R230); it also renews a jog in progress. -/
def jog (e : Entry) (_ : Transport) (s : State) : State :=
  let a := entryArgs e
  let o := originOf e
  let ch := le a 0 1
  let dir := sext 8 (le a 1 1)
  let speed : F32 := BitVec.ofNat 32 (le a 4 4)
  if !chanPresent s.objs ch || dir < -1 || 1 < dir || !fLe 0 speed || !fLe speed (obF s.objs 0x21 ch 6) then complete s o stBadArgument
  else if profDown s then complete s o stPrecondition
  else
    let s1 := setChan s ch (fun c => match c.motion with
      | some (.jog v l p _) => { c with motion := some (.jog v l p (now s)) }
      | _ => c)
    queueMove s1 o [ch] (.jog ch dir speed)

def execJog (clk : Nat) (e : Entry) (s : State) : Host.Outcome State Fault Refusal :=
  .next (command { opcode := 0x0044, priv := true, modes := [.commission], noTransition := true } (fun _ => true) (fixedLen 8) jog clk e s)

/-- TEACH (R231): without BULK_OUT the result of 72 bytes cannot fit. -/
def teach (e : Entry) (_ : Transport) (s : State) : State :=
  let o := originOf e
  let arm := le (entryArgs e) 0 1
  if !resultFits e 72 then complete s o stBadLength
  else if 8 ≤ arm || !armPresent s.objs arm then complete s o stBadArgument
  else if profDown s then complete s o stPrecondition
  else withProf s (fun p => { p with teaches := p.teaches ++ [(o, arm, now s)] })

def execTeach (clk : Nat) (e : Entry) (s : State) : Host.Outcome State Fault Refusal :=
  .next (command { opcode := 0x0045, priv := true, modes := [.commission], noTransition := true } (fun _ => true) (fixedLen 1) teach clk e s)

/-- STOP_MOVE (R232). -/
def stopMove (e : Entry) (_ : Transport) (s : State) : State :=
  let a := entryArgs e
  let o := originOf e
  let kind := le a 0 1
  let ix := le a 1 1
  if 1 < kind || (kind == 0 && !chanPresent s.objs ix) || (kind == 1 && (decide (8 ≤ ix) || !armPresent s.objs ix)) then complete s o stBadArgument
  else if profDown s then complete s o stPrecondition
  else withProf s (fun p => { p with stops := p.stops ++ [(o, kind, ix, now s)] })

def execStopMove (clk : Nat) (e : Entry) (s : State) : Host.Outcome State Fault Refusal :=
  .next (command { opcode := 0x0043, priv := true, modes := motionModes } (fun _ => true) (fixedLen 2) stopMove clk e s)

/-! ### The pass (R218) -/

/-- Starts the stop profile of a channel from its state at its present time; one already running goes on (R222, R232). -/
def startStop (s : State) (ch t0 : Nat) (released : Bool) : State :=
  let t := chanTime s ch t0
  let st := chanState s ch t 0
  let go := fun (lim : Limits) =>
    setChan s ch (fun c => { c with motion := some (.stop false lim (stopProfile lim t (q32ToD st.1, st.2.1, st.2.2)))
                                    flags := if released then c.flags ||| 4 else c.flags })
  match (chan s ch).motion with
  | some (.move _ lim _) => go { lim with v := (chanLimits s.objs ch).v }
  | some (.follow _ _ _ _ _ _ _ _) => go (chanLimits s.objs ch)
  | some (.jog _ lim _ _) => go lim
  | _ => s

/-- Starts the stop of a coordinated move on s (R224). -/
def stopLinear (s : State) (a : Nat) : State :=
  let θ := (armPlan s a).theta
  setArmMot s a (fun m => match m.linear with
    | some l => if l.stopping then m else
        { m with linear := some { l with prof := stopProfile l.lim θ (profSample l.prof θ), stopping := true } }
    | none => m)

/-- One STOP_MOVE at its pass (R232). -/
def applyStop (t0 : Nat) (s : State) (c : Origin × Nat × Nat × Nat) : State :=
  let (o, kind, ix, _) := c
  let arm := if kind = 1 then some ix else if ix < 64 then some (ix / 8) else none
  if arm.any (fun a => (armMot s a).source = .plan) then refuseMove s o ix { reason := 5, channel := if kind = 0 then ix else 0xFF }
  else
    let chs := if kind = 1 then armChans s.objs ix else [ix]
    let s1 := chs.foldl (fun s ch => startStop s ch t0 false) s
    let s2 := if kind = 1 then stopLinear s1 ix else if ix < 64 then stopLinear s1 (ix / 8) else s1
    complete s2 o stOk

/-- Channels a move command names. -/
def moveChans (s : State) : MoveArgs → List Nat
  | .joint ch _ _ _ _ _ => [ch]
  | .linear a _ _ _ => ((List.range 8).map (fun j => a * 8 + j)).filter (jointPresent s.objs)
  | .conveyor ch _ _ _ _ => [ch]
  | .jog ch _ _ => [ch]

/-- One move command at its pass; `later` are those executed after it that take effect at the same pass (R225). -/
def applyMove (t0 : Nat) (later : List MoveWait) (s : State) (w : MoveWait) : State :=
  let mine := moveChans s w.args
  if later.any (fun l => (moveChans s l.args).any (fun c => mine.contains c)) then
    refuseMove s w.origin (mine.headD 0) { reason := 12, channel := mine.headD 0xFF }
  else
    match w.args with
    | .joint ch _ v a j t => acceptJoint s w ch v a j t t0
    | .linear arm _ sc t => acceptLinear s w arm sc t t0
    | .conveyor ch k r o en => acceptConveyor s w ch k r o en t0
    | .jog ch d sp => acceptJog s w ch d sp t0

/-- A move command, with those executed after it, or a STOP_MOVE that takes effect at a pass. -/
inductive PassEvent where
  | move (w : MoveWait) (later : List MoveWait)
  | stop (c : Origin × Nat × Nat × Nat)
  deriving DecidableEq, Repr

/-- The move commands of a pass with the herd time each was executed at. -/
def moveEvents : List MoveWait → List (Nat × PassEvent)
  | [] => []
  | w :: rest => (w.since, .move w rest) :: moveEvents rest

/-- The commands that take effect at a pass, in the order they were executed in. -/
def passEvents (moves : List MoveWait) (stops : List (Origin × Nat × Nat × Nat)) : List (Nat × PassEvent) :=
  sortBy (fun x y => decide (x.1 < y.1)) (moveEvents moves ++ stops.map (fun c => (c.2.2.2, .stop c)))

/-- One of them. -/
def applyEvent (t0 : Nat) (s : State) (e : Nat × PassEvent) : State :=
  match e.2 with
  | .move w later => applyMove t0 later s w
  | .stop c => applyStop t0 s c

/-- Plan rate of an arm at a pass, and whether its stop ramp runs (R147, R233). -/
def newRate (s : State) (a t0 : Nat) : F64 × Bool :=
  let m := armMot s a
  let demand := stopDemand s a
  let plain := dRatio (min (nth {} s.sep.results a).scale (armPlan s a).sigma) 256
  if m.ramp || (demand && m.source != .stopped) then
    let rows := (armChans s.objs a).filterMap (fun ch =>
      let v := (chanState s ch (chanTime s ch t0) 0).2.1
      if dEq v 0 then none else some (dDiv (chanLimits s.objs ch).a (dAbs v)))
    let rho := if m.ramp then m.rho else if m.source = .stopped then 0 else m.rho
    (match rows with
      | [] => 0
      | _ => dMax 0 (dSub rho (dMul (nsToS (tickNs s)) (dMinList rows))), true)
  else if demand then (0, false)
  else (plain, false)

/-- Waypoints that plan time has passed leave the queue; the reference goes on from the last of them, and the path that runs is that of the
next waypoint (R162, R163). -/
def leavePath (p : ArmPlan) : ArmPlan :=
  let rest := p.path.dropWhile (fun w => decide (w.theta < p.theta))
  { p with
    path := rest, pathId := (rest.head?.map (·.pathId)).getD p.pathId
    pathStart := (((p.path.takeWhile (fun w => decide (w.theta < p.theta))).getLast?).map (fun w => (w.theta, w.q))).getD p.pathStart }

/-- Step 1 and 2 for one arm: the rate, and plan time going on by ρ × tick (R146, R147, R233). -/
def rateStep (t0 : Nat) (s : State) (a : Nat) : State :=
  let r := newRate s a t0
  let adv := freeRound (dMul r.1 (dOfNat (tickNs s)))
  let shown := freeRound (dMul r.1 (dOfInt 256))
  let s1 := setArmMot s a (fun m => { m with rho := r.1, ramp := r.2 })
  setArmPlan s1 a (fun p => leavePath { p with theta := (p.theta + adv) % 2 ^ 64, rate := shown })

/-- A stop ramp has run to its end: the source is STOPPED, the plan in force and the moves end, and a held arm keeps the leases it stands
in (R42, R233). -/
def endRamp (s : State) (a : Nat) : State :=
  let s1 := (armChans s.objs a).foldl (fun s ch => setChan s ch (fun c => { c with motion := none })) s
  let s2 := setArmMot s1 a (fun m => { m with source := .stopped, ramp := false, linear := none, moveDone := false })
  let s3 := setArmPlan s2 a (fun p => { p with following := none, pending := [] })
  if armHeld s3 a || holdLasts s3 then releaseStanding s3 a else s3

/-- The arm takes up the newest plan whose origin it has reached (R148, R220). A move or jog accepted at this pass has dropped the plans
that wait. [DEDUCED, log 154] -/
def takePlan (s : State) (a : Nat) : State :=
  let m := armMot s a
  let p := armPlan s a
  match p.pending.span (fun q => decide (p.theta < q.plan.origin)) with
  | (_, []) => s
  | (newer, q :: _) =>
    let free := (m.source = .move && !jointsBusy s a) || m.source = .stopped
    let follow := m.source = .plan || m.source = .stand || (free && q.free && !stopDemand s a)
    let s1 := setArmPlan s a (fun p => { p with pending := newer, following := if follow then some q.plan else p.following })
    if follow then
      withPiste (setArmMot s1 a (fun m => { m with source := .plan, moveDone := false })) (fun z => { z with sets := upd z.sets a (fun _ => q.needs) })
    else s1

/-- Step 3: a conveyor channel at t₀ (R228). -/
def conveyorStep (t0 : Nat) (s : State) (c : Nat) : State :=
  let ch := 72 + c
  let en := ov s 0x21 ch 0x11
  if 8 ≤ en then setChan s ch (fun k => { k with vel := 0, acc := 0, convSeen := false, convStale := false })
  else
    let enc := nth {} s.field.encoders en
    let seen := enc.age != 255 || enc.latch.t != 0
    let stale := decide (ov s 0x21 ch 0x12 < enc.age)
    if stale || !seen then setChan s ch (fun k => { k with vel := 0, acc := 0, convAge := enc.age, convStale := stale, convSeen := seen })
    else
      let dt := dMul (dOfInt ((t0 : Int) - enc.latch.t)) nano
      setChan s ch (fun k => { k with
        pos := enc.latch.p * 2 ^ 32 + dToQ32 (dMul enc.latch.v dt), vel := enc.latch.v, acc := 0
        convPos := enc.latch.p * 2 ^ 32, convVel := enc.latch.v, convTime := enc.latch.t, convAge := enc.age, convSeen := true, convStale := false })

/-- Conveyor following that must end at this pass, with CONV_RELEASED where the conveyor or the rate ends it (R229). -/
def followEnds (s : State) (ch : Nat) : Option Bool :=
  match (chan s ch).motion with
  | some (.follow _ conv ratio off endPos _ _ _) =>
    let k := chan s (72 + conv)
    let xf := q32ToD (off + dToQ32 (dMul ratio (q32ToD k.pos)))
    let vf := dMul ratio k.vel
    if k.convStale || dLt (chanRho s ch) dOne then some true
    else if (dLt 0 vf && dLe endPos xf) || (dLt vf 0 && dLe xf endPos) then some false
    else none
  | _ => none

/-- A channel's own time after `ns` of herd time at its present rate. [DESIGN CHOICE, log 62] -/
def laterTime (s : State) (ch t0 ns : Nat) : Nat :=
  chanTime s ch t0 + (if (chanArm s.objs ch).isSome then freeRound (dMul (chanRho s ch) (dOfNat ns)) else ns)

/-- A jog whose stop point, from the state one tick later, would cross a soft limit (R230). -/
def jogAtLimit (s : State) (ch t0 : Nat) : Bool :=
  match (chan s ch).motion with
  | some (.jog _ lim p _) => !insideSoft s.objs ch (stopPoint lim (jogSample p (laterTime s ch t0 (tickNs s))))
  | _ => false

/-- Where a channel comes to rest when the stop of its jog starts from the state 1 ms later (R230). -/
def restPoint (s : State) (t0 ch : Nat) : F64 :=
  let t := laterTime s ch t0 1000000
  match (chan s ch).motion with
  | some (.jog _ lim p _) => stopPoint lim (jogSample p t)
  | some (.stop _ _ p) => p.target
  | _ => q32ToD (chanState s ch t 0).1

/-- In a tick that holds a separation step: a capsule of a jogged arm would leave the zones of the jog's lease set (R230). The stop starts
at the tick's profile pass. [DEDUCED, log 154] -/
def jogLeaves (s : State) (a t0 : Nat) : Bool :=
  let q := (List.range 8).map (fun j =>
    if jointPresent s.objs (a * 8 + j) then planJoint s.objs a j (toUnit s.objs (a * 8 + j) (restPoint s t0 (a * 8 + j))) else 0)
  let pose := armPose num64 s.objs a q
  s.sep.stepTick = some s.herd.tick && (armMot s a).source = .jog &&
    (armCapsules s.objs a).any (fun c => !(zonesAround s.objs pose c.2).any ((armMot s a).jogZones.contains ·))

/-- The jog of a channel stops at this pass. -/
def jogStops (s : State) (ch t0 : Nat) : Bool :=
  jogAtLimit s ch t0 || (match (chan s ch).motion, chanArm s.objs ch with
    | some (.jog _ _ _ _), some a => jogLeaves s a t0
    | _, _ => false)

/-- A stop profile that is no part of an accepted move is recomputed where its limits have been raised (R235). -/
def stopRaised (t0 : Nat) (s : State) (ch : Nat) : State :=
  match (chan s ch).motion with
  | some (.stop false lim p) =>
    let l := chanLimits s.objs ch
    let up : Limits := { lim with a := dMax lim.a l.a, j := dMax lim.j l.j }
    if up = lim then s
    else
      let t := chanTime s ch t0
      setChan s ch (fun c => { c with motion := some (.stop false up (stopProfile up t (profSample p t))) })
  | _ => s

/-- The same for the stop of a coordinated move on s (R224, R235). -/
def linearRaised (s : State) (a : Nat) : State :=
  match (armMot s a).linear with
  | some l =>
    let n := linearLimits s.objs a l.scale l.dists
    let up : Limits := { l.lim with a := dMax l.lim.a n.a, j := dMax l.lim.j n.j }
    if !l.stopping || up = l.lim then s
    else setArmMot s a (fun m => { m with linear := some { l with lim := up, prof := stopProfile up (armPlan s a).theta (profSample l.prof (armPlan s a).theta) } })
  | none => s

/-- Motions that have come to their end leave the channel; e = 0 locks a conveyor-following channel (R221, R229). -/
def finishChan (t0 : Nat) (s : State) (ch : Nat) : State :=
  let t := chanTime s ch t0
  match (chan s ch).motion with
  | some (.move _ _ p) => if profEnd p ≤ t then setChan s ch (fun c => { c with motion := none, pos := dToQ32 p.target, moveId := 0 }) else s
  | some (.stop _ _ p) => if profEnd p ≤ t then setChan s ch (fun c => { c with motion := none, pos := dToQ32 p.target, moveId := 0 }) else s
  | some (.follow id k r o e l p false) =>
    if profEnd p ≤ t then setChan s ch (fun c => { c with motion := some (.follow id k r o e l p true) }) else s
  | _ => s

/-- A coordinated move that has come to its end. -/
def finishLinear (s : State) (a : Nat) : State :=
  match (armMot s a).linear with
  | some l =>
    if profEnd l.prof ≤ (armPlan s a).theta then
      let ends := (List.range 8).map (fun j => (chanState s (a * 8 + j) (armPlan s a).theta 0).1)
      let s1 := (List.range 8).foldl (fun s j =>
        if jointPresent s.objs (a * 8 + j) then setChan s (a * 8 + j) (fun c => { c with pos := nth c.pos ends j, moveId := 0 }) else s) s
      setArmMot s1 a (fun m => { m with linear := none })
    else s
  | none => s

/-- An arm whose last move or jog has ended stands in MOVE (R215), a jog as a move. [DEDUCED, log 154] -/
def settleSource (s : State) (a : Nat) : State :=
  let m := armMot s a
  if (m.source = .move || m.source = .jog) && !jointsBusy s a then setArmMot s a (fun m => { m with source := .move, moveDone := true }) else s

/-- Codes of `arm.source`. -/
def sourceCode : ArmSource → Nat
  | .stand => 0
  | .plan => 1
  | .move => 2
  | .jog => 3
  | .stopped => 4

/-- Activity of a channel (Table 10-10). -/
def chanModeOf (s : State) (ch : Nat) : ChannelMode :=
  match (chan s ch).motion with
  | some (.move _ _ _) => .moving
  | some (.stop _ _ _) => .stopping
  | some (.follow _ _ _ _ _ _ _ lock) => if lock then .locked else .engaging
  | some (.jog _ _ _ _) => .jog
  | none =>
    if 64 ≤ ch then .standing
    else
      match (armMot s (ch / 8)).linear with
      | some l => if l.stopping then .stopping else .moving
      | none => if (armMot s (ch / 8)).source = .plan then .plan else .standing

/-- VEL_WORD of a velocity (Table 10-2). -/
def velWord (v : F64) : Int := clampInt (-(2 ^ 47 - 1)) (2 ^ 47 - 1) (dRne (dScale (dMul v (dRatio 4 1000000000)) 48))

/-- Post of an operand on its way to the matching store (R260). -/
def post (s : State) (source tag age : Nat) (v : Operand) : State :=
  { s with sched := { s.sched with posts := s.sched.posts ++ [{ source := source, tag := tag, value := v, age := age, at_ := now s }] } }

/-- Posts a setpoint operand and keeps it as the newest of its channel (R216, R218 step 6). -/
def postSetpoint (s : State) (ch tag src : Nat) (flags : Nat) : State :=
  let c := chan s ch
  let sp : Setpoint := { pos := c.pos, vel := c.vel, acc := c.acc, velWord := c.velWord, flags := flags, source := src, tick := tag }
  post { s with ctl := { s.ctl with setpoints := tput s.ctl.setpoints ch sp } } (0x2000 + ch) tag 0 (.setpoint sp)

/-- Position last reported in a joint's feedback; none before the first. -/
def measuredPos (s : State) (ch : Nat) : Option Int :=
  if s.ctl.feedback.any (fun f => f.1 = ch) then some (tget {} s.ctl.feedback ch).position else none

/-- An auxiliary channel's newest feedback has TORQUE_ON clear (R362). -/
def noTorque (s : State) (ch : Nat) : Bool := s.ctl.feedback.any (fun f => f.1 = ch && !f.2.torqueOn)

/-- Steps 4 to 6 for a joint or an auxiliary channel: its state, the soft limits and its operand (R218, R219, R234, R235). -/
def sampleChan (t0 tag : Nat) (s : State) (ch : Nat) : State :=
  if !chanPresent s.objs ch then postSetpoint s ch tag 0 1
  else
    let arm := chanArm s.objs ch
    let sto := if ch < 64 then armSto s (ch / 8) else noTorque s ch
    let st0 := chanState s ch (chanTime s ch t0) 0
    let rho := chanRho s ch
    let st : Int × F64 × F64 := if sto then ((measuredPos s ch).getD (chan s ch).pos, 0, 0) else (st0.1, dMul rho st0.2.1, dMul (dMul rho rho) st0.2.2)
    let out := !sto && (decide (st.1 < softMin s.objs ch) || decide (softMax s.objs ch < st.1))
    let fin : Int × F64 × F64 := if out then (clampInt (softMin s.objs ch) (softMax s.objs ch) st.1, 0, 0) else st
    let s1 := setChan s ch (fun c => { c with
      pos := fin.1, vel := fin.2.1, acc := fin.2.2, velWord := velWord fin.2.1
      flags := if out then c.flags ||| 2 else c.flags, state := chanModeOf s ch
      motion := if sto && decide (64 ≤ ch) then none else c.motion })
    let s2 := if out then log (bump s1 0x21 ch 0x0E) .event 0x0022 ch 0 else s1
    let act := chanModeOf s ch
    let stopping := act = .stopping || arm.any (fun a => (armMot s a).ramp)
    let flags := b2n (dEq fin.2.1 0 && dEq fin.2.2 0) + 2 * b2n stopping + 4 * b2n (act = .locked) + 8 * b2n out
    let src := if ch < 64 then sourceCode (armMot s (ch / 8)).source else if act = .standing then 0 else 2
    postSetpoint s2 ch tag src flags

/-- Step 6 for a conveyor channel. -/
def sampleConveyor (tag : Nat) (s : State) (c : Nat) : State :=
  let ch := 72 + c
  let s1 := setChan s ch (fun k => { k with velWord := velWord k.vel })
  postSetpoint s1 ch tag 0xFF (b2n (dEq (chan s1 ch).vel 0))

/-- An arm without torque stands at its measured position in STOPPED (R234, R315). -/
def stoStop (s : State) (a : Nat) : State := if armSto s a && ((armMot s a).source != .stopped || (armMot s a).ramp) then endRamp s a else s

/-- TEACH at its pass (R231). -/
def applyTeach (t0 : Nat) (s : State) (t : Origin × Nat × Nat) : State :=
  let a := t.2.1
  let vals := (List.range 8).map (fun j =>
    let ch := a * 8 + j
    if jointPresent s.objs ch then toUnit s.objs ch (q32ToD (chan s ch).pos) else 0)
  complete s t.1 stOk (leBytes 8 t0 ++ joinBytes (vals.map (fun v => leBytes 8 v.toNat)))

/-- One profile pass with start `tp` for the tick `tag` that starts at t₀ (R217, R218). -/
def profilePass (tp : Nat) (s : State) : State :=
  let tag := s.herd.tick + 1
  let t0 := nextTick s
  let arms := (List.range 8).filter (armPresent s.objs)
  let due := s.prof.moves.filter (fun w => decide (w.due ≤ tp))
  let stops := s.prof.stops.filter (fun c => decide (c.2.2.2 < tp))
  let teaches := s.prof.teaches.filter (fun c => decide (c.2.2 < tp))
  let s0 := withProf s (fun p => { p with
    moves := p.moves.filter (fun w => !decide (w.due ≤ tp)), stops := p.stops.filter (fun c => !decide (c.2.2.2 < tp))
    teaches := p.teaches.filter (fun c => !decide (c.2.2 < tp)) })
  let s1 := arms.foldl (rateStep t0) s0
  let s2 := arms.foldl stoStop (arms.foldl (fun s a => if (armMot s a).ramp && dEq (armMot s a).rho 0 then endRamp s a else s) s1)
  let s4 := (List.range 8).foldl (conveyorStep t0) s2
  let chs := (List.range 72).filter (chanPresent s.objs)
  let free := chs.filter (fun ch => (chanArm s.objs ch).isNone)
  let s5 := if holdLasts s4 || s4.mode.accepted = some .hold then free.foldl (fun s ch => startStop s ch t0 false) s4 else s4
  let s6 := chs.foldl (fun s ch =>
    match followEnds s ch with
    | some rel => startStop s ch t0 rel
    | none => if jogStops s ch t0 then startStop s ch t0 false else stopRaised t0 s ch) (arms.foldl linearRaised s5)
  let s7 := (passEvents due stops).foldl (applyEvent t0) s6
  let s8 := arms.foldl takePlan s7
  let s9 := (List.range 72).foldl (sampleChan t0 tag) s8
  let s10 := (List.range 8).foldl (sampleConveyor tag) s9
  let s11 := arms.foldl settleSource (arms.foldl finishLinear (chs.foldl (finishChan t0) s10))
  let s12 := teaches.foldl (applyTeach t0) s11
  withProf s12 (fun p => { p with passTick := some s.herd.tick })

/-- The engine can run: PD7 on, an image active, the block neither gated nor isolated; a standby takes the operands of the holder instead
(R406). -/
def profUp (s : State) : Bool := s.herd.running && drives s && imageActive s && !profDown s

/-- PROFILE_PASS (R217): one pass in a tick; the holder of a pair mirrors at its end (R406). -/
def execProfilePass (clk : Nat) (s : State) : Host.Outcome State Fault Refusal :=
  let s1 := begin clk s
  let tp := profStart s1 s1.herd.tick
  .next (if profUp s1 && decide (tp ≤ now s1) && s1.prof.passTick != some s1.herd.tick then mirrorSend (profilePass tp s1) else s1)

/-- JOG_TIMEOUT (R230): a jog that has had no JOG for `cell.jog_timeout_ms` starts its stop profile. -/
def execJogTimeout (clk channel : Nat) (s : State) : Host.Outcome State Fault Refusal :=
  let s1 := begin clk s
  .next (match (chan s1 channel).motion with
    | some (.jog _ _ _ last) =>
      if last + ov s1 0x10 0 0x22 * 1000000 ≤ now s1 then startStop s1 channel (nextTick s1) false else s1
    | _ => s1)

/-- CONVEYOR_STALE (R228): the conveyor's age exceeds its limit; its channel holds its position with velocity 0. -/
def execConveyorStale (clk conveyor : Nat) (s : State) : Host.Outcome State Fault Refusal :=
  let s1 := begin clk s
  let ch := 72 + conveyor
  let en := ov s1 0x21 ch 0x11
  let age := (nth {} s1.field.encoders en).age
  .next (if conveyor < 8 && en < 8 && decide (ov s1 0x21 ch 0x12 < age) then
      setChan s1 ch (fun k => { k with vel := 0, acc := 0, convAge := age, convStale := true })
    else s1)

/-- A limit of a channel is written: ACC_DEFERRED where it is lowered during a move that keeps the limits it was accepted with, or, for
acceleration and jerk, during a stop profile (R235). -/
def limitWritten (s : State) (ch mem old new : Nat) : State :=
  let lowered := fLt (BitVec.ofNat 32 new) (BitVec.ofNat 32 old)
  let hit := match (chan s ch).motion with
    | some (.move _ _ _) => true
    | some (.follow _ _ _ _ _ _ _ _) => true
    | some (.stop acc _ _) => acc || mem != 3
    | some (.jog _ _ _ _) => false
    | none => decide (ch < 64) && (armMot s (ch / 8)).linear.any (fun l => !l.stopping || mem != 3)
  if lowered && hit then setChan s ch (fun c => { c with flags := c.flags ||| 1 }) else s

end Sys2Proof.Machine
end

