-- ==== Sys2Proof/Machine/Separation.lean ====
section
/-! DEFINITION. Speed and separation monitoring on both channels (14_separation_monitoring.md R286 to R306), and the monitoring of the arms
at each separation step (15_safety_channels.md R314). -/

namespace Sys2Proof.Machine

def withSep (s : State) (f : SepState → SepState) : State := { s with sep := f s.sep }

/-- A safety channel: the processor channel, or Chamois. -/
def safeCh (s : State) (chamois : Bool) : Channel2 := if chamois then s.safety.chamois else s.safety.processor
def setSafeCh (s : State) (chamois : Bool) (f : Channel2 → Channel2) : State :=
  { s with safety := if chamois then { s.safety with chamois := f s.safety.chamois } else { s.safety with processor := f s.safety.processor } }

/-- Stop state of an arm in a channel. -/
def armStop (s : State) (chamois : Bool) (a : Nat) : ArmStop := nth {} (safeCh s chamois).arms a
def setArmStop (s : State) (chamois : Bool) (a : Nat) (f : ArmStop → ArmStop) : State :=
  setSafeCh s chamois (fun c => { c with arms := upd c.arms a f })

/-- Codes of Table 15-1. -/
def stopCode : StopState → Nat
  | .normal => 0
  | .sls => 1
  | .ss2 => 2
  | .sos => 3
  | .ss1 => 4
  | .sto => 5

/-- `safety.arm_sources`: active in either channel (Table 15-2). -/
def armSources (s : State) (a : Nat) : Nat := ((armStop s false a).sources ||| (armStop s true a).sources).toNat

/-- An arm takes a stop state in a channel. In the processor channel an onset of SS1, SS2 or STO is logged and raises the safety interrupt
(R378, Table 22-3). -/
def takeStop (s : State) (chamois : Bool) (a : Nat) (st : StopState) : State :=
  let old := (armStop s chamois a).state
  let s1 := setArmStop s chamois a (fun x => { x with state := st })
  if !chamois && old != st && (st = .ss1 || st = .ss2 || st = .sto) then
    setInt (log s1 .alarm 0x0003 (a * 256 + stopCode st) (BitVec.ofNat 32 (armSources s1 a))) 9
  else s1

/-- Chamois latches a stop as its own fault reaction (R310, R314): its STO latch and `safety.chamois_status`. [DEDUCED, log 39] -/
def chamoisLatch (s : State) (w : Word) : State :=
  { s with cham := { s.cham with stoLatch := true, fault := if s.cham.stoLatch then s.cham.fault else w, ended := false } }

/-- Error words of the channels (R311): separation monitoring by the processor channel, and every word of Chamois. -/
def sepWord (element : Nat) : Word := errWord 1 2 3 3 false element
def chamoisWord (element : Nat) : Word := errWord 2 6 0 3 false element

/-! ### Inputs (R287 to R291) -/

/-- Fields of an upstream slot entry (Table 5-8). -/
def upEntry (objs : List (Nat × Nat)) (k o n : Nat) : Nat := obField objs 0x70 0 4 (8 * k + o) n
def upNode (objs : List (Nat × Nat)) (k : Nat) : Nat := upEntry objs k 0 1
def upKind (objs : List (Nat × Nat)) (k : Nat) : Nat := upEntry objs k 1 1
def upFlags (objs : List (Nat × Nat)) (k : Nat) : Nat := upEntry objs k 2 1
def upBinding (objs : List (Nat × Nat)) (k : Nat) : Nat := upEntry objs k 4 2

/-- Upstream static slots in use. -/
def upSlots (objs : List (Nat × Nat)) : List Nat := (List.range (ob objs 0x70 0 2)).filter (fun k => upNode objs k != 0)

/-- Upstream slots bound to a source, ascending. -/
def slotsBound (objs : List (Nat × Nat)) (source : Nat) : List Nat := (upSlots objs).filter (fun k => upBinding objs k = source)

/-- Age of an upstream slot's operand in the tick in progress (R121). [DEDUCED, log 82] -/
def slotAge (s : State) (u : UpSlot) : Nat :=
  match u.freshTick with
  | none => 255
  | some m => min 255 (s.herd.tick - m + u.freshAge)

/-- Joint age of an arm in a channel's records (R288). -/
def jointAge (s : State) (recs : List (Nat × SafeJoint)) (a : Nat) : Nat :=
  maxNat (((List.range 8).filter (fun j => jointPresent s.objs (a * 8 + j))).map (fun j =>
    match (tget {} recs (a * 8 + j)).tick with
    | none => 255
    | some m => min 255 (s.herd.tick - m)))

/-- Age limit of an arm's records. -/
def jointLimit (objs : List (Nat × Nat)) (a : Nat) : Nat := ob objs 0x50 (0x70 + a) 5

/-- Arms the monitor works on: present, with an enabled capsule. -/
def sepArms (objs : List (Nat × Nat)) : List Nat := (List.range 8).filter (fun a => armPresent objs a && !(armCapsules objs a).isEmpty)

/-- Sensors present (R289). -/
def sensorPresent (objs : List (Nat × Nat)) (k : Nat) : Bool := ob objs 0x50 (0x60 + k) 0 != 0

/-- A binary32 object as an exact value. -/
def obV (objs : List (Nat × Nat)) (cls inst mem : Nat) : Val := fVal (obF objs cls inst mem)

/-- An exact value in units of Chamois's fixed point: up, or with the direction left open. -/
def vCeil (v : Val) : Int := -(vFloor (vNeg v))
def chamRound (what : Nat) (v : Val) : Int :=
  let f := vFloor v
  if vCmp v (vInt f) == some .eq then f else f + (b2n (Config.chamoisUp what f) : Nat)

/-- A length in mm, and in m, as q16.16 m. -/
def q16OfMm (v : Val) : Val := vDiv (vMul v (vInt 65536)) (vInt 1000)
def q16OfM (v : Val) : Val := vMul v (vInt 65536)

/-- T_lat limit in ns (R290). -/
def latencyMax (objs : List (Nat × Nat)) : Val := vMul (obV objs 0x50 0x80 5) (vInt 1000000)

/-- The worst-case person of a sensor (R290). -/
def worstPerson (objs : List (Nat × Nat)) (k : Nat) : PersonSlot :=
  let f := fun i => obF32At objs 0x50 (0x60 + k) 4 (4 * i)
  { sensor := k, worst := true, x := f 0, y := f 1, radius := f 2, height := f 3
    cx := chamRound 0 (q16OfM (fVal (f 0))), cy := chamRound 1 (q16OfM (fVal (f 1))), cRadius := vCeil (q16OfM (fVal (f 2)))
    cHeight := chamRound 2 (q16OfM (fVal (f 3))), latency := (vFloor (latencyMax objs)).toNat }

/-- A person of a list (Table 14-2, R294). -/
def listPerson (objs : List (Nat × Nat)) (k : Nat) (latency : Nat) (d : Bytes) (i : Nat) : PersonSlot :=
  let xi := sext 16 (be d (12 + 8 * i) 2)
  let yi := sext 16 (be d (14 + 8 * i) 2)
  let r := be d (16 + 8 * i) 2
  let h0 := be d (18 + 8 * i) 2
  let h := if h0 = 0 then ob objs 0x50 0x80 7 else h0
  let m := fun (v : Int) => fDiv (fOfInt v) (fOfInt 1000)
  let pose := obB objs 0x50 (0x60 + k) 1 12
  let f := fun o => obF32At objs 0x50 (0x60 + k) 1 o
  let c := Config.cos32 (f 8)
  let sn := Config.sin32 (f 8)
  { sensor := k, worst := false, x := fDot [(fOfInt 1, f 0), (m xi, c), (fNeg (m yi), sn)]
    y := fDot [(fOfInt 1, f 4), (m xi, sn), (m yi, c)], radius := m r, height := m h
    cx := Config.chamoisPerson 0 pose xi yi, cy := Config.chamoisPerson 1 pose xi yi
    cRadius := vCeil (q16OfMm (vInt r)), cHeight := chamRound 2 (q16OfMm (vInt h)), latency := latency }

/-- The list of a sensor at t_s: none where R290 replaces it by the worst case. -/
def personList (s : State) (ts k : Nat) : Option (List PersonSlot) :=
  let slots := slotsBound s.objs (0x4000 + k)
  let us := slots.map (tget ({} : UpSlot) s.net.up)
  let ds := us.map (·.payload)
  let n := ds.length
  let head := (ds.map (fun d => d.take 7)).head?.getD []
  let lat := sext 48 (wrap 48 ((ts : Int) - (be head 0 6 : Int)))
  let ok := n != 0 && us.all (·.holds) && ds.all (fun d => d.take 7 == head) && ds.map (fun d => be d 7 1 / 16) == List.range n &&
    ds.all (fun d => be d 7 1 % 16 == n && decide (be d 8 1 ≤ 5) && !bit (be d 9 1) 0)
  let old := decide (ob s.objs 0x50 (0x60 + k) 5 < maxNat (us.map (slotAge s)))
  if !ok || old || decide (lat < 0) || vCmp (latencyMax s.objs) (vInt lat) == some .lt then none
  else some ((ds.map (fun d => (List.range (be d 8 1)).map (listPerson s.objs k lat.toNat d))).flatten)

/-- The person slots filled so far, the sensors replaced, and how many lists did not fit (R291). -/
structure PersonFill where
  slots : List PersonSlot := []
  worst : List Nat := []
  overflow : Nat := 0

/-- One sensor takes its slots (R291). -/
def fillSensor (s : State) (ts : Nat) (f : PersonFill) (k : Nat) : PersonFill :=
  let above := ((List.range 16).filter (fun j => decide (k < j) && sensorPresent s.objs j)).length
  let room := ob s.objs 0x50 0x80 0 - f.slots.length - above
  match personList s ts k with
  | none => { f with slots := f.slots ++ [worstPerson s.objs k], worst := f.worst ++ [k] }
  | some l =>
    if l.length ≤ room then { f with slots := f.slots ++ l }
    else { f with slots := f.slots ++ [worstPerson s.objs k], overflow := f.overflow + 1 }

def fillPersons (s : State) (ts : Nat) : PersonFill := ((List.range 16).filter (sensorPresent s.objs)).foldl (fillSensor s ts) {}

/-! ### The step (R286) -/

/-- Steps run: PD8 powered, an image active, and a mode or a target that needs them. -/
def sepRuns (s : State) : Bool :=
  let on := fun m => m = Mode.commission || m = .run || m = .hold
  s.herd.running && domainOn s 8 && imageActive s && (on s.mode.mode || s.mode.target.any on)

/-- The tick in progress is a separation tick (R25). -/
def sepTick (s : State) : Bool := decide (s.image.activation ≤ tickStart s) && (tickStart s - s.image.activation) % 1000000 == 0

/-- t_s of the tick in progress. -/
def sepStart (s : State) : Nat := tickStart s + ov s 0x50 0x80 8

/-- Both channels latch their inputs at t_s and start (R286, R288, R290, R291). -/
def separationStep (s : State) : State :=
  let ts := sepStart s
  let f := fillPersons s ts
  let ageP := (List.range 8).map (jointAge s s.sep.jointsP)
  let ageC := (List.range 8).map (jointAge s s.sep.jointsC)
  let stale := fun ages => BitVec.ofNat 8 (packBits ((List.range 8).map (fun a =>
    armPresent s.objs a && decide (jointLimit s.objs a < nth 255 ages a))))
  let slots := f.slots.map some ++ List.replicate (ob s.objs 0x50 0x80 0 - f.slots.length) none
  let bad := BitVec.ofNat 16 (packBits ((List.range 16).map (f.worst.contains ·)))
  let s1 := withSep s (fun p => { p with
    latch := { time := ts, jointsP := p.jointsP, jointsC := p.jointsC, persons := slots, ageP := ageP, ageC := ageC }
    active := true, processor := none, chamois := none, worst := p.worst &&& bad, worstDue := bad
    staleDueP := stale ageP, staleDueC := stale ageC, stepTick := some s.herd.tick })
  bumpN s1 0x50 0x80 0x13 f.overflow

def execSeparationStep (clk : Nat) (s : State) : Host.Outcome State Fault Refusal :=
  let s1 := begin clk s
  .next (if sepRuns s1 && sepTick s1 && s1.sep.stepTick != some s1.herd.tick && decide (sepStart s1 ≤ now s1) then separationStep s1 else s1)

/-- SENSOR_WORST (R290): the replacement of a list is counted, and logged where the sensor enters WORST. -/
def execSensorWorst (clk sensor : Nat) (s : State) : Host.Outcome State Fault Refusal :=
  let s1 := begin clk s
  .next (if s1.sep.worstDue.getLsbD sensor then
      let s2 := bump (withSep s1 (fun p => { p with worstDue := p.worstDue &&& ~~~(1#16 <<< sensor), worst := p.worst ||| (1#16 <<< sensor) })) 0x50 0x80 0x12
      if s1.sep.worst.getLsbD sensor then s2 else log s2 .event 0x0014 sensor 0
    else s1)

/-- The stronger of two demands. -/
def demandMax : SepDemand → SepDemand → SepDemand
  | .ss1, _ => .ss1
  | _, .ss1 => .ss1
  | .ss2, _ => .ss2
  | _, .ss2 => .ss2
  | .none, .none => .none

/-- A channel passes a demand to the safety channels (R303); it stays in force until R299 ends it. -/
def demand (s : State) (chamois : Bool) (a : Nat) (d : SepDemand) : State :=
  withSep s (fun p => if chamois then { p with demandC := upd p.demandC a (demandMax d) } else { p with demandP := upd p.demandP a (demandMax d) })

/-- JOINT_STALE (R288): the channel demands SS1 for the arm. -/
def execJointStale (clk : Nat) (chamois : Bool) (arm : Nat) (s : State) : Host.Outcome State Fault Refusal :=
  let s1 := begin clk s
  let due := if chamois then s1.sep.staleDueC else s1.sep.staleDueP
  let off := due &&& ~~~(1#8 <<< arm)
  .next (if due.getLsbD arm then
      demand (withSep s1 (fun p => if chamois then { p with staleDueC := off } else { p with staleDueP := off })) chamois arm .ss1
    else s1)

/-! ### The processor channel (R292, R295 to R297, R300) -/

/-- A value kept in [0, 1]. -/
def unit32 (x : F32) : F32 := fClamp 0 (fOfInt 1) x

/-- The points of two segments that are nearest to each other. -/
def nearest32 (p0 p1 a0 a1 : Vec F32) : Vec F32 × Vec F32 :=
  let d1 := vecSub num32 p1 p0
  let d2 := vecSub num32 a1 a0
  let r := vecSub num32 p0 a0
  let a := vecDot num32 d1 d1
  let e := vecDot num32 d2 d2
  let f := vecDot num32 d2 r
  let c := vecDot num32 d1 r
  let b := vecDot num32 d1 d2
  let den := fDot [(a, e), (fNeg b, b)]
  let st : F32 × F32 :=
    if fLe a 0 && fLe e 0 then (0, 0)
    else if fLe a 0 then (0, unit32 (fDiv f e))
    else if fLe e 0 then (unit32 (fDiv (fNeg c) a), 0)
    else
      let s0 := if fLe den 0 then 0 else unit32 (fDiv (fDot [(b, f), (fNeg c, e)]) den)
      let t := fDiv (fDot [(b, s0), (f, fOfInt 1)]) e
      if fLt t 0 then (unit32 (fDiv (fNeg c) a), 0)
      else if fLt (fOfInt 1) t then (unit32 (fDiv (fSub b c) a), fOfInt 1)
      else (s0, t)
  let at_ := fun (p d : Vec F32) (k : F32) => (fFma k d.1 p.1, fFma k d.2.1 p.2.1, fFma k d.2.2 p.2.2)
  (at_ p0 d1 st.1, at_ a0 d2 st.2)

/-- The axis of a person in the cell frame (R294). -/
def personAxis (objs : List (Nat × Nat)) (p : PersonSlot) : Vec F32 × Vec F32 :=
  let zf := obF objs 0x50 0x80 6
  ((p.x, p.y, zf), (p.x, p.y, fAdd zf p.height))

/-- Metres, or m/s, as mm. -/
def mm32 (x : F32) : F32 := fMul (fOfInt 1000) x

/-- Distance in mm between a capsule and a person, and the direction of R303. -/
def capsuleDist (objs : List (Nat × Nat)) (ends : Vec F32 × Vec F32) (radius : F32) (p : PersonSlot) : F32 × List F32 :=
  let ax := personAxis objs p
  let n := nearest32 ends.1 ends.2 ax.1 ax.2
  let gap := vecNorm num32 (vecSub num32 n.1 n.2)
  let th := fOfInt 1000
  let dx := fSub p.x n.1.1
  let dy := fSub p.y n.1.2.1
  let h := fSqrt (fDot [(dx, dx), (dy, dy)])
  (fDot [(th, gap), (fNeg th, radius), (fNeg th, p.radius)], [fDiv dx h, fDiv dy h, 0])

/-- MINX with F set (R279): a NaN ranks below every number, and the lowest element wins a tie. -/
def minx32 (l : List (F32 × Nat × Nat × List F32)) : Option (F32 × Nat × Nat × List F32) :=
  l.foldl (fun acc x =>
    match acc with
    | none => some x
    | some b => if !fIsNan b.1 && (fIsNan x.1 || fLt x.1 b.1) then some x else some b) none

/-- Largest of a list, a NaN among them giving a NaN. -/
def max32 (l : List F32) : F32 := l.foldl (fun m x => if fIsNan m then m else if fIsNan x then x else fMax m x) 0

/-- Joint values and rates of an arm from safe joint records: q_j = SJ_POS × 10⁻⁶ + OFFSET (R292). -/
def sepJoints (objs : List (Nat × Nat)) (recs : List (Nat × SafeJoint)) (a : Nat) : List F32 × List F32 :=
  let micro := fDiv (fOfInt 1) (fOfInt 1000000)
  let rows := (List.range 8).map (fun j =>
    if jointPresent objs (a * 8 + j) then
      let r := tget {} recs (a * 8 + j)
      (fDot [(fOfInt r.pos, micro), (fOfInt 1, dToF32 (kinEntry objs a j).offset)], fMul (fOfInt r.vel) micro)
    else (0, 0))
  (rows.map (·.1), rows.map (·.2))

/-- Milliseconds as seconds. -/
def sec32 (x : F32) : F32 := fDiv x (fOfInt 1000)

/-- A_ap in mm (R296). -/
def termA (s : State) (a age : Nat) (p : PersonSlot) : F32 :=
  let g := fun m => obF s.objs 0x50 0x80 m
  let arm := fun m => obF s.objs 0x50 (0x70 + a) m
  let sen := fun m => obF s.objs 0x50 (0x60 + p.sensor) m
  let lat := if p.worst then sec32 (g 5) else fDiv (fOfInt p.latency) (fOfInt 1000000000)
  let one := fOfInt 1
  fDot [(g 1, sec32 (g 2)), (g 1, sec32 (arm 0)), (g 1, lat), (one, sen 2), (one, sen 3), (one, arm 1),
    (arm 2, fDiv (fOfInt (age * tickNs s : Nat)) (fOfInt 1000000000))]

/-- B_a in s (R296). -/
def termB (s : State) (a : Nat) : F32 :=
  fDot [(fOfInt 1, sec32 (obF s.objs 0x50 0x80 2)), (obF s.objs 0x50 0x80 3, sec32 (obF s.objs 0x50 (0x70 + a) 0))]

/-- The demand and the target scale of an arm (R288, R297). -/
def sepDecide (stale tooNear fast below : Bool) (scale : Nat) : SepDemand × Nat :=
  if stale || (tooNear && fast) then (.ss1, 0) else if below then (.ss2, 0) else (.none, scale)

/-- The processor channel's result for an arm (R300). -/
def processorArm (s : State) (a : Nat) : SepResult :=
  let l := s.sep.latch
  let objs := s.objs
  let q := sepJoints objs l.jointsP a
  let pose := armPose num32 objs a q.1
  let axes := jointAxes num32 objs a pose
  let caps := (armCapsules objs a).map (fun c => (c.1, c.2, capsuleEnds num32 pose c.2))
  let vr := mm32 (max32 (caps.map (fun c =>
    let v := fun p => vecNorm num32 (pointVel num32 axes c.2.1.link q.2 p)
    fDot [(fOfInt 1, max32 [v c.2.2.1, v c.2.2.2]), (vecNorm num32 (linkOmega num32 axes c.2.1.link q.2), c.2.1.radius)])))
  let tcp := mm32 (vecNorm num32 (pointVel num32 axes 9 q.2 (tcpPoint num32 objs a pose)))
  let age := nth 255 l.ageP a
  let stale := decide (jointLimit objs a < age)
  let b := termB s a
  let rows := (indexed l.persons).filterMap (fun r => r.2.bind (fun p =>
    (minx32 (caps.map (fun c =>
      let d := capsuleDist objs c.2.2 c.2.1.radius p
      (d.1, c.1, r.1, d.2)))).map (fun m => (m, termA s a age p))))
  let bad := !fFinite b || !fFinite vr || rows.any (fun r => fIsNan r.1.1 || !fFinite r.2)
  let one := fOfInt 1
  let lim := rows.foldl (fun m r => fMin m (fMax 0 (fDiv (fSub r.1.1 r.2) b))) fInf
  let near := minx32 (rows.map (·.1))
  let vlim : F32 := if bad then 0 else lim
  let under := bad || rows.any (fun r => fLt (fDot [(one, r.1.1), (fNeg one, r.2), (fNeg b, vr)]) 0)
  let vmin := obF objs 0x50 (0x70 + a) 3
  let scale := (fFloor (fMul (fOfInt 256) (fMin one (fDiv vlim (obF objs 0x50 (0x70 + a) 2))))).toNat
  let d := sepDecide stale under (fLe vmin vr) (fLt vlim vmin) scale
  { dist := if bad then dNegInf else (near.map (fun n => dOfF32 n.1)).getD dInf, speed := dOfF32 vr, tcpSpeed := dOfF32 tcp, vlim := dOfF32 vlim
    demand := d.1, target := d.2, nan := bad, stale := stale
    capsule := (near.map (fun n => n.2.1)).getD 0xFF, person := (near.map (fun n => n.2.2.1)).getD 0xFF, dir := (near.map (fun n => n.2.2.2)).getD [0, 0, 0] }

/-! ### Chamois (R301) -/

/-- Chamois's copies of an arm's chain: joints present, base, kinematic entries, flange and TCP. [DESIGN CHOICE, log 72] -/
def chainData (objs : List (Nat × Nat)) (a : Nat) : List Nat :=
  [packBits ((List.range 8).map (fun j => jointPresent objs (a * 8 + j))), ob objs 0x20 a 0, ob objs 0x20 a 1] ++
    (List.range 10).map (fun i => ob objs 0x20 a (0x10 + i))

/-- Safe joint records of an arm. -/
def chainRecords (recs : List (Nat × SafeJoint)) (a : Nat) : List (Int × Int) :=
  (List.range 8).map (fun j => ((tget {} recs (a * 8 + j)).pos, (tget {} recs (a * 8 + j)).vel))

/-- Radius of the spheres of a capsule: RADIUS + L/16 + 0.5 mm, rounded up. -/
def sphereRadius (c : Capsule) : Int :=
  let d := fun (a b : F32) => vAdd (fVal b) (vNeg (fVal a))
  let sq := fun v => vMul v v
  let len := vSqrt (vAdd (vAdd (sq (d c.p0.1 c.p1.1)) (sq (d c.p0.2.1 c.p1.2.1))) (sq (d c.p0.2.2 c.p1.2.2)))
  vCeil (vAdd (vAdd (vMul (fVal c.radius) (vInt 65536)) (vMul len (vInt 4096))) (vDiv (vInt 32768) (vInt 1000)))

/-- One sphere: its centre, its radius, and the speed of R295 at it, q16.16. -/
structure Sphere where
  x : Int
  y : Int
  z : Int
  r : Int
  speed : Int

/-- The 8 spheres of a capsule. -/
def spheres (objs : List (Nat × Nat)) (recs : List (Nat × SafeJoint)) (a k : Nat) (c : Capsule) : List Sphere :=
  let q := fun key i => Config.chamoisChain (key + 8 * i) (chainData objs a) (chainRecords recs a) [ob objs 0x50 k 0]
  let r := sphereRadius c
  (List.range 8).map (fun i => { x := q 0 i, y := q 1 i, z := q 2 i, r := r, speed := q 3 i + -(-(q 4 i * r) / 65536) })

/-- Distance from a sphere to a person capsule in q16.16 m, rounded toward −∞. -/
def sphereDist (zf : Int) (p : PersonSlot) (b : Sphere) : Int :=
  let dz := max (max (zf - b.z) (b.z - (zf + p.cHeight))) 0
  (isqrt ((b.x - p.cx) ^ 2 + (b.y - p.cy) ^ 2 + dz ^ 2).toNat : Int) - b.r - p.cRadius

/-- Least of a list of integers. -/
def minInt (l : List Int) : Option Int := l.foldl (fun m x => some (match m with | none => x | some y => min x y)) none

/-- A_ap in q16.16 m: the exact sum of R296, the direction of its rounding open. -/
def chamA (s : State) (a age : Nat) (p : PersonSlot) : Int :=
  let g := fun m => obV s.objs 0x50 0x80 m
  let arm := fun m => obV s.objs 0x50 (0x70 + a) m
  let sen := fun m => obV s.objs 0x50 (0x60 + p.sensor) m
  let lat := if p.worst then latencyMax s.objs else vInt p.latency
  let time := vAdd (vMul (vAdd (g 2) (arm 0)) (vInt 1000000)) lat
  let nano := vAdd (vAdd (vMul (g 1) time) (vMul (vAdd (vAdd (sen 2) (sen 3)) (arm 1)) (vInt 1000000000))) (vMul (arm 2) (vInt (age * tickNs s : Nat)))
  chamRound 3 (vDiv (vMul nano (vInt 65536)) (vInt 1000000000000))

/-- Chamois's result for an arm. -/
def chamoisArm (s : State) (a : Nat) : SepResult :=
  let l := s.sep.latch
  let objs := s.objs
  let zf := chamRound 4 (q16OfM (obV objs 0x50 0x80 6))
  let balls := ((armCapsules objs a).map (fun c => spheres objs l.jointsC a c.1 c.2)).flatten
  let vr := (balls.map (·.speed)).foldl max 0
  let tcp := Config.chamoisChain (3 + 8 * 8) (chainData objs a) (chainRecords l.jointsC a) []
  let age := nth 255 l.ageC a
  let stale := decide (jointLimit objs a < age)
  let b := vAdd (obV objs 0x50 0x80 2) (vMul (obV objs 0x50 0x80 3) (obV objs 0x50 (0x70 + a) 0))
  let rows := l.persons.filterMap (fun o => o.bind (fun p => (minInt (balls.map (sphereDist zf p))).map (fun d => (d, chamA s a age p))))
  let lim := minInt (rows.map (fun r => max 0 (chamRound 5 (vDiv (vInt ((r.1 - r.2) * 1000)) b))))
  let under := rows.any (fun r => vCmp (vInt ((r.1 - r.2) * 1000)) (vMul b (vInt vr)) == some .lt)
  let scaled := fun (m : Nat) => vMul (obV objs 0x50 (0x70 + a) m) (vInt 65536)
  let below := fun (x : Int) (m : Nat) => vCmp (vInt (x * 1000)) (scaled m) == some .lt
  let scale := match lim with
    | none => 256
    | some v => min 256 (vFloor (vDiv (vInt (v * 256000)) (scaled 2))).toNat
  let d := sepDecide stale under (!below vr 3) (lim.any (fun v => below v 3)) scale
  let mm := fun (v : Int) => dRatio (v * 1000) 65536
  { dist := ((minInt (rows.map (·.1))).map mm).getD dInf, speed := mm vr, tcpSpeed := mm tcp, vlim := (lim.map mm).getD dInf
    demand := d.1, target := d.2, stale := stale }

/-! ### Monitoring of the arms (R314) -/

/-- Milliseconds of an arm's safety object as ns, binary64. -/
def safeNs (objs : List (Nat × Nat)) (a mem : Nat) : F64 := dMul (dOfF32 (obF objs 0x60 (0x20 + a) mem)) (dOfInt 1000000)

/-- t_s lies at or after t_d plus a time. -/
def reached (ts td : Nat) (t : F64) : Bool := dLe (dAdd (dOfNat td) t) (dOfNat ts)

/-- The ramp bound of Table 15-3 is broken. -/
def rampBroken (s : State) (a : Nat) (x : ArmStop) (ts : Nat) (speed : F64) : Bool :=
  let dly := safeNs s.objs a 1
  let st := safeNs s.objs a 0
  if !reached ts x.demandTime dly then false
  else
    let frac := dMax 0 (dSub dOne (dDiv (dSub (dSub (dOfNat ts) (dOfNat x.demandTime)) dly) (dSub st dly)))
    let bound := dDot [(x.v0, frac), (dOfF32 (obF s.objs 0x60 (0x20 + a) 2), dOne)]
    !dLe speed bound

/-- Positions of the present joints of an arm, and whether each meets the standstill velocity. -/
def armRecords (s : State) (recs : List (Nat × SafeJoint)) (a : Nat) : List SafeJoint :=
  ((List.range 8).filter (fun j => jointPresent s.objs (a * 8 + j))).map (fun j => tget {} recs (a * 8 + j))

def jointStill (s : State) (a : Nat) (r : SafeJoint) : Bool := r.tick.isSome && decide (r.vel.natAbs ≤ ob s.objs 0x60 (0x20 + a) 3)

/-- The SOS condition of Table 15-3 is broken; an arm that entered SOS out of STO has its entry values from its first step there. -/
def sosBroken (s : State) (a : Nat) (x : ArmStop) (recs : List SafeJoint) : Bool :=
  (recs.zip x.sosPos).any (fun r => decide (ob s.objs 0x60 (0x20 + a) 4 < (r.1.pos - r.2).natAbs)) || recs.any (fun r => !jointStill s a r)

/-- The SLS condition is broken. -/
def slsBroken (s : State) (a : Nat) (speed : F64) : Bool :=
  !dLe speed (dAdd (dOfF32 (obF s.objs 0x60 (0x20 + a) 5)) (dOfF32 (obF s.objs 0x60 (0x20 + a) 6)))

/-- MONITORING_VIOLATION (R314): the word and the count; the arm goes to STO at the channel's next evaluation, Chamois latches it, and the
module enters FAULT. -/
def violate (s : State) (chamois : Bool) (a : Nat) : State :=
  if (armStop s chamois a).violation || (armStop s chamois a).violated then s
  else
    let w := if chamois then chamoisWord (40 + a) else sepWord (40 + a)
    let s1 := bump (setArmStop s chamois a (fun x => { x with violation := true })) 0x60 (0x20 + a) 9
    let s2 := if chamois then chamoisLatch s1 w else s1
    faultError s2 w (if chamois then .chamoisStop else .momentary)

/-- One arm is judged at a channel's result instant (Table 15-3). -/
def monitorArm (chamois : Bool) (rs : List SepResult) (s : State) (a : Nat) : State :=
  let l := s.sep.latch
  let ts := l.time
  let res := nth {} rs a
  let recs := armRecords s (if chamois then l.jointsC else l.jointsP) a
  let old := armStop s chamois a
  let run := if recs.all (jointStill s a) then old.stillRun + 1 else 0
  let s1 := setArmStop s chamois a (fun x => { x with stillRun := run, lastSpeed := res.speed })
  let still := decide (2 ≤ run)
  let past := reached ts old.demandTime (safeNs s.objs a 0)
  let moving := old.state = .ss1 || old.state = .ss2
  if moving && rampBroken s a old ts res.speed then violate s1 chamois a
  else if old.state = .ss1 || (old.state = .ss2 && old.endsInSto) then
    if still then takeStop s1 chamois a .sto
    else if past then setArmStop s1 chamois a (fun x => { x with timeout := true }) else s1
  else
    let entry := fun (s : State) => setArmStop s chamois a (fun x => { x with sosPos := recs.map (·.pos) })
    match old.state with
    | .ss2 => if past then violate s1 chamois a else if still then entry (takeStop s1 chamois a .sos) else s1
    | .sos =>
      if sosBroken s a old recs then violate s1 chamois a
      else if old.sosPos.isEmpty then entry s1 else s1
    | .sls => if slsBroken s a res.tcpSpeed then violate s1 chamois a else s1
    | _ => s1

/-- A channel's results are in: its demands, and the monitoring of every present arm. -/
def channelResult (s : State) (chamois : Bool) (rs : List SepResult) : State :=
  let s1 := (List.range 8).foldl (fun s a => demand s chamois a (nth {} rs a).demand) s
  ((List.range 8).filter (armPresent s.objs)).foldl (monitorArm chamois rs) s1

/-- The results of all arms; those without an enabled capsule have none. -/
def sepResults (s : State) (f : State → Nat → SepResult) : List SepResult :=
  (List.range 8).map (fun a => if (sepArms s.objs).contains a then f s a else { dist := dInf, vlim := dInf, target := 256 })

/-- Firmware's descriptors of the separation kinematics (R300). -/
def kinDescriptors (s : State) : List Nat := ((indexed s.sched.descriptors).filter (fun d => d.2.kind = 3 && d.2.priority = 4)).map (·.1)

/-- Every kinematic task of the step has ended by t_s + `sep.kin_budget_ns` (R300). -/
def kinReady (s : State) : Bool :=
  (kinDescriptors s).all (fun d => s.sched.kinEnds.any (fun k =>
    k.1 = d && k.2.1 = s.herd.tick && decide (k.2.2 ≤ s.sep.latch.time + ov s 0x50 0x80 9) && decide (k.2.2 ≤ now s)))

/-- PROCESSOR_RESULT: an isolated monitor has none (R18), and the step then ends as one whose result is late (R302). -/
def execProcessorResult (clk : Nat) (s : State) : Host.Outcome State Fault Refusal :=
  let s1 := begin clk s
  .next (if s1.sep.active && s1.sep.processor.isNone && domainOn s1 8 && !isolated s1 2 3 && kinReady s1 then
      let rs := sepResults s1 processorArm
      channelResult (withSep s1 (fun p => { p with processor := some rs })) false rs
    else s1)

def execChamoisResult (clk : Nat) (s : State) : Host.Outcome State Fault Refusal :=
  let s1 := begin clk s
  .next (if s1.sep.active && s1.sep.chamois.isNone then
      let rs := sepResults s1 chamoisArm
      channelResult (withSep s1 (fun p => { p with chamois := some rs })) true rs
    else s1)

/-! ### Combination (R298, R299, R302, R303, R306) -/

/-- t_P and t_C (R304). -/
def sepTimeP (objs : List (Nat × Nat)) : Nat :=
  let p := ob objs 0x50 0x80 0
  let arms := (List.range 8).map (fun a => (armCapsules objs a).length)
  let used := arms.filter (fun n => n != 0)
  ob objs 0x50 0x80 9 + (16 + 25 * p) + 4 * sumNat arms * p + sumNat (used.map (fun n => 2 * p * (4 + ceilDiv n 4))) + (200 + 220 * used.length)
def sepTimeC (objs : List (Nat × Nat)) : Nat :=
  1600 + 25 * ceilDiv (sumNat ((List.range 8).map (fun a => (armCapsules objs a).length)) * ob objs 0x50 0x80 0) 4

/-- The processor channel's distance lies below Chamois's bound: as the processor compares, and as Chamois does (R302). -/
def divergesP (s : State) (p c : F64) : Bool := dLt p (dSub c (dOfF32 (obF s.objs 0x50 0x80 4)))
def divergesC (s : State) (p c : F64) : Bool :=
  let q := fun x => dRne (dDiv (dMul x (dOfInt 65536)) (dOfInt 1000))
  let tol := chamRound 6 (q16OfMm (obV s.objs 0x50 0x80 4))
  if dFinite p && dFinite c then decide (q p < q c - tol) else divergesP s p c

/-- DIVERSITY_FAULTs of the arms (R302): the words of one instant in the order of R452, those of the processor channel before Chamois's (R17). -/
def diversity (s : State) (arms : List Nat) (ps cs : List SepResult) : State :=
  let dist := fun (l : List SepResult) (a : Nat) => (nth {} l a).dist
  let onP := arms.filter (fun a => divergesP s (dist ps a) (dist cs a))
  let onC := arms.filter (fun a => divergesC s (dist ps a) (dist cs a))
  let s1 := bumpN s 0x50 0x80 0x11 (arms.filter (fun a => onP.contains a || onC.contains a)).length
  let s2 := onP.foldl (fun s a => faultError s (sepWord a) .momentary) s1
  onC.foldl (fun s a => faultError s (chamoisWord a) .momentary) s2

/-- One arm is combined (R298, R303). -/
def combineArm (ps cs : List SepResult) (s : State) (a : Nat) : State :=
  let p := nth {} ps a
  let c := nth {} cs a
  let old := nth {} s.sep.results a
  let target := min p.target c.target
  let d := demandMax (nth .none s.sep.demandP a) (nth .none s.sep.demandC a)
  let fall := ov s 0x50 0x80 0x0A
  let free := if target < old.scale then max target (old.scale - fall) else min target (old.scale + ov s 0x50 0x80 0x0B)
  let scale := if d != .none || s.sep.firstStep then 0 else free
  let vres := dOfF32 (obF s.objs 0x50 (0x70 + a) 4)
  let clear := dLe vres p.vlim && dLe vres c.vlim && p.demand = .none && c.demand = .none
  let flags := packBits [decide (target < old.scale) && decide (target < scale), p.demand = .ss2, c.demand = .ss2, p.demand = .ss1, c.demand = .ss1, p.stale || c.stale]
  withSep s (fun x => { x with results := upd x.results a (fun _ =>
    { scale := scale, demand := d, flags := flags, vlim := dMin p.vlim c.vlim, distP := p.dist, distC := c.dist, dir := p.dir, person := p.person
      capsule := p.capsule, stepTime := s.sep.latch.time, clearRun := if clear then old.clearRun + 1 else 0 }) })

/-- A channel's result missing at t_x: distance −∞ and no speed. -/
def missingResult : SepResult := { dist := dNegInf, vlim := 0, target := 0 }

/-- SEPARATION_COMBINATION at t_x: comparison, combination and applied scales. A processor result that is missing is a DIVERSITY_FAULT
(cause LATE). -/
def combine (s : State) : State :=
  let ps := s.sep.processor.getD (List.replicate 8 missingResult)
  let cs := s.sep.chamois.getD (List.replicate 8 missingResult)
  let arms := sepArms s.objs
  let s1 := withSep s (fun p => { p with active := false })
  let s2 := diversity s1 arms ps cs
  let s3 := arms.foldl (combineArm ps cs) s2
  bump (withSep s3 (fun p => { p with firstStep := false, doneTick := some s.herd.tick })) 0x50 0x80 0x10

def execSeparationCombination (clk : Nat) (s : State) : Host.Outcome State Fault Refusal :=
  let s1 := begin clk s
  let tx := s1.sep.latch.time + max (sepTimeP s1.objs) (sepTimeC s1.objs) + 200
  .next (if s1.sep.active && decide (tx ≤ now s1) then combine s1 else s1)

/-- SS2_RELEASE (R299, Table 15-2): the separation demands of an arm end after `sep.resume_steps` clear steps. -/
def execSs2Release (clk arm : Nat) (s : State) : Host.Outcome State Fault Refusal :=
  let s1 := begin clk s
  .next (if ov s1 0x50 0x80 0x0C ≤ (nth {} s1.sep.results arm).clearRun then
      withSep s1 (fun p => { p with demandP := upd p.demandP arm (fun _ => .none), demandC := upd p.demandC arm (fun _ => .none) })
    else s1)

end Sys2Proof.Machine
end

