-- ==== Sys2Proof/Machine/Sparse.lean ====
section
/-! DEFINITION. Structures of the Ibex array: their description, the pattern of K and its symbolic factor, and the figures that follow from
them (08_ibex_solver_array.md R171 to R174, R189 to R191). -/

namespace Sys2Proof.Machine

/-- u32 values of a description from an offset. -/
def words (bs : Bytes) (o n : Nat) : List Nat := (List.range n).map (fun i => le bs (o + 4 * i) 4)

/-- Rows of column j of a compressed-column pattern. -/
def colRows (ptr row : List Nat) (j : Nat) : List Nat := (row.drop (nth 0 ptr j)).take (nth 0 ptr (j + 1) - nth 0 ptr j)

def risingStrict : List Nat → Bool
  | a :: b :: r => decide (a < b) && risingStrict (b :: r)
  | _ => true

def risingWeak : List Nat → Bool
  | a :: b :: r => decide (a ≤ b) && risingWeak (b :: r)
  | _ => true

/-- A pattern is well formed: pointers from 0 to the count, rows strictly ascending and in range. -/
def patternOk (nCol nRow nnz : Nat) (ptr row : List Nat) (low : Bool) : Bool :=
  nth 0 ptr 0 == 0 && nth 0 ptr nCol == nnz && risingWeak ptr &&
    (List.range nCol).all (fun j =>
      let r := colRows ptr row j
      risingStrict r && r.all (fun i => decide (i < nRow) && (!low || decide (j ≤ i))))

/-- Columns of K with which each column has an entry (R171): by P, GᵀG and A. -/
def kktAdj (st : Structure) : List (List Nat) :=
  let n := st.nVar + st.nEq
  let edges : List (Nat × Nat) :=
    (List.range st.nVar).flatMap (fun j => (colRows st.pCol st.pRow j).map (fun i => (i, j))) ++
    (List.range st.nVar).flatMap (fun j => (colRows st.aCol st.aRow j).map (fun i => (st.nVar + i, j))) ++
    (List.range st.nVar).flatMap (fun j =>
      let rows := colRows st.gCol st.gRow j
      ((List.range st.nVar).filter (fun k => decide (j < k) && (colRows st.gCol st.gRow k).any (fun r => rows.contains r))).map (fun k => (k, j)))
  (List.range n).map (fun v =>
    ((edges.filterMap (fun e => if e.1 = v then some e.2 else if e.2 = v then some e.1 else none)).filter (fun u => u != v)).eraseDups)

/-- The symbolic factor in an elimination order: each column of K with the later columns in which L has an entry below it. -/
def elimGo (adj : List (List Nat)) : List Nat → List (Nat × List Nat)
  | [] => []
  | v :: rest =>
    let nb := (nth [] adj v).filter (fun u => rest.contains u)
    let adj1 := (indexed adj).map (fun r => if nb.contains r.1 then (r.2 ++ nb.filter (fun u => u != r.1)).eraseDups else r.2)
    (v, nb) :: elimGo adj1 rest

/-- The symbolic factor of a structure. -/
def symbolicFactor (st : Structure) : List (Nat × List Nat) := elimGo (kktAdj st) st.perm

/-- Counts of strictly lower nonzeros per column of L, in elimination order. -/
def colCounts (st : Structure) : List Nat := (symbolicFactor st).map (·.2.length)

/-- SRAM a structure needs (R172). -/
def sramNeed (st : Structure) (nnzL : Nat) : Nat :=
  let raw := 12 * (nnzL + st.pRow.length + st.aRow.length + st.gRow.length) + 80 * (st.nVar + st.nEq) + 48 * st.nIneq + 65536
  ceilDiv raw 65536 * 65536

/-- Sustained fraction in per mille (Table 8-8). -/
def sustainedPm (nnzL n : Nat) : Nat :=
  if nnzL < 4 * n then 150 else if nnzL < 8 * n then 250 else if nnzL < 16 * n then 350 else if nnzL < 32 * n then 450
  else if nnzL < 64 * n then 550 else 600

/-- Flops of the factorisation (R189). -/
def factorFlops (counts : List Nat) : Nat := sumNat (counts.map (fun c => c * (c + 3)))

/-- t_wc in ns (R191). -/
def worstCase (flops cap pm : Nat) : Nat := ceilDiv (flops * cap * 10000) (pm * 768)

/-- A list orders the n columns of K. -/
def ordersColumns (n : Nat) (l : List Nat) : Bool := l.length == n && (List.range n).all (fun v => l.contains v)

/-- The order the module computes where PERM is not given: an approximate minimum-degree order (R173). [DESIGN CHOICE, log 56] -/
def computedOrder (n : Nat) (pattern : List Nat) : List Nat :=
  if ordersColumns n (Config.amdOrder pattern) then Config.amdOrder pattern else List.range n

/-- The dimensions keep the limits of R172 that need no symbolic factor. -/
def dimensionsFit (nv ne ni zp za zg : Nat) : Bool :=
  decide (nv + ne ≤ 8192) && decide (ni ≤ 65536) && decide (zp ≤ 131072) && decide (za ≤ 131072) && decide (zg ≤ 524288)

/-- A description parsed, or its load error (Table 8-10). [DESIGN CHOICE, log 56] -/
def parseStructure (bs : Bytes) : Except Nat Structure :=
  let nv := le bs 8 4
  let ne := le bs 12 4
  let ni := le bs 16 4
  let zp := le bs 20 4
  let za := le bs 24 4
  let zg := le bs 28 4
  let given := bit (le bs 32 4) 0
  let n := nv + ne
  let need := 40 + 4 * (3 * (nv + 1) + zp + za + zg) + (if given then 4 * n else 0)
  if le bs 0 4 != 0x58454249 || le bs 4 4 != need || bs.length != need then .error 1
  else if nv = 0 || !dimensionsFit nv ne ni zp za zg then .error 2
  else
    let o1 := 40
    let o2 := o1 + 4 * (nv + 1)
    let o3 := o2 + 4 * zp
    let o4 := o3 + 4 * (nv + 1)
    let o5 := o4 + 4 * za
    let o6 := o5 + 4 * (nv + 1)
    let o7 := o6 + 4 * zg
    let pc := words bs o1 (nv + 1)
    let pr := words bs o2 zp
    let ac := words bs o3 (nv + 1)
    let ar := words bs o4 za
    let gc := words bs o5 (nv + 1)
    let gr := words bs o6 zg
    let perm := if given then words bs o7 n else computedOrder n ([nv, ne, ni] ++ pc ++ pr ++ ac ++ ar ++ gc ++ gr)
    if !(patternOk nv nv zp pc pr true && patternOk nv ne za ac ar false && patternOk nv ni zg gc gr false && ordersColumns n perm) then .error 3
    else .ok { nVar := nv, nEq := ne, nIneq := ni, pCol := pc, pRow := pr, aCol := ac, aRow := ar, gCol := gc, gRow := gr, perm := perm }

/-- Structure ID (R174). -/
def structureId (st : Structure) : Nat :=
  let w := fun (l : List Nat) => joinBytes (l.map (leBytes 4))
  le (sha256 (w [st.nVar, st.nEq, st.nIneq, st.pRow.length, st.aRow.length, st.gRow.length] ++ w st.pCol ++ w st.pRow ++ w st.aCol ++ w st.aRow ++
    w st.gCol ++ w st.gRow)) 0 8

/-- Values of a structure just loaded (R177). -/
def freshValues (st : Structure) : SolverValues :=
  let z := fun n => List.replicate n (0 : F64)
  let n := st.nVar + st.nEq
  { p := z st.pRow.length, a := z st.aRow.length, g := z st.gRow.length, q := z st.nVar, b := z st.nEq
    l := List.replicate st.nIneq dNegInf, u := List.replicate st.nIneq dInf, xlo := List.replicate st.nVar dNegInf, xhi := List.replicate st.nVar dInf
    d := z n, v := z n }

end Sys2Proof.Machine
end

