-- ==== Sys2Proof/Machine/Problem.lean ====
section
/-! DEFINITION. The cell problem of the planner: its variables, equalities, cost, bounds and inequality rows, and the structure they form in
the Ibex array (07_cell_planning.md R149 to R154, R163). Coefficients are rounded once; a sum of products rounds in the part's order. What the
spec leaves open of the layout is in log 51, of the numbers in log 52. [DESIGN CHOICE, log 51] -/

namespace Sys2Proof.Machine

/-! ### Arms, joints and knots -/

/-- Arms of the problem: planned and present. -/
def plannedArms (objs : List (Nat × Nat)) : List Nat := (List.range 8).filter (fun a => bit (ob objs 0x30 0 6) a && armPresent objs a)

/-- Objects the structure depends on (R154). -/
def plannerKey (objs : List (Nat × Nat)) : List Nat := [ob objs 0x30 0 6, ob objs 0x10 0 1, ob objs 0x30 0 5, ob objs 0x30 0 0x0D]

/-- Present joints of an arm, by flat index. -/
def armJoints (objs : List (Nat × Nat)) (a : Nat) : List Nat := ((List.range 8).map (fun j => a * 8 + j)).filter (jointPresent objs)

/-- Joints of the problem. -/
def problemJoints (objs : List (Nat × Nat)) : List Nat := (plannedArms objs).flatMap (armJoints objs)

/-- K. -/
def knotCount (objs : List (Nat × Nat)) : Nat := ob objs 0x30 0 5

/-- Constrained knots: 0 stands for the branch state, K + 1 and K + 2 for the tail knots. -/
def zoneKnots (objs : List (Nat × Nat)) : List Nat :=
  let K := knotCount objs
  [0, K + 1, K + 2] ++ (List.range K).map (· + 1)

/-- How many look-ahead knots lie within `plan.sep_horizon_ms` (Table 7-2). -/
def sepKnots (objs : List (Nat × Nat)) : Nat :=
  ((List.range (knotCount objs)).filter (fun k => decide ((k + 1) * ob objs 0x30 0 4 ≤ ob objs 0x30 0 0x0A * knotCount objs))).length

/-- Knots with speed rows in a structure that gives rows to n look-ahead knots, beside the branch state and the tail. -/
def speedKnots (objs : List (Nat × Nat)) (n : Nat) : List Nat := [0, knotCount objs + 1, knotCount objs + 2] ++ (List.range n).map (· + 1)

/-- Plan time of a knot after the origin, in ns. -/
def knotTime (objs : List (Nat × Nat)) (a k : Nat) : Nat :=
  let K := knotCount objs
  if k = 0 then periodNs objs
  else if k ≤ K then k * ob objs 0x30 0 4 * 1000000 / K
  else periodNs objs + (k - K) * ob objs 0x30 (0x10 + a) 0 * 500000

/-! ### Variables (Table 7-1) -/

/-- Variables and equalities of one joint. -/
def jointVars (objs : List (Nat × Nat)) : Nat := 4 * knotCount objs + 8
def jointRows (objs : List (Nat × Nat)) : Nat := 3 * knotCount objs + 6

/-- Place among its joint's variables of position (i = 0), velocity (1) or acceleration (2) at knot k. -/
def stateVar (K k i : Nat) : Nat := if k ≤ K then 3 * (k - 1) + i else 4 * K + 3 * (k - K - 1) + i

/-- Place of the jerk of interval k; K and K + 1 are those of the tail. -/
def jerkVar (K k : Nat) : Nat := if k < K then 3 * K + k else 4 * K + 6 + (k - K)

/-- A list that puts n things in order, or their own order. -/
def freeOrder (what : Nat) (key : List Nat) (n : Nat) : List Nat :=
  if ordersColumns n (Config.plannerOrder what key) then Config.plannerOrder what key else List.range n

/-- Columns of x: entry i is the column of the i-th variable, joint by joint. -/
def variableColumns (objs : List (Nat × Nat)) : List Nat := freeOrder 0 (plannerKey objs) ((problemJoints objs).length * jointVars objs)

/-- Column of a joint's variable. -/
def columnOf (objs : List (Nat × Nat)) (ch v : Nat) : Nat :=
  nth 0 (variableColumns objs) (((problemJoints objs).findIdx (fun c => c == ch)) * jointVars objs + v)

/-- Value of a joint's variable in a vector x. -/
def variableOf (objs : List (Nat × Nat)) (x : List F64) (ch v : Nat) : F64 := nth 0 x (columnOf objs ch v)

/-! ### Durations and the constant-jerk equations (R150) -/

/-- A duration in s as a fraction. -/
abbrev Duration := Nat × Nat

/-- h, P and τ. -/
def knotSpacing (objs : List (Nat × Nat)) : Duration := (ob objs 0x30 0 4, 1000 * knotCount objs)
def activeTime (objs : List (Nat × Nat)) : Duration := (ob objs 0x30 0 0, 1000000)
def tailInterval (objs : List (Nat × Nat)) (a : Nat) : Duration := (ob objs 0x30 (0x10 + a) 0 * 500, 1000000)

/-- d, d²/2 and d³/6. -/
def power1 (d : Duration) : F64 := dRatio d.1 d.2
def power2 (d : Duration) : F64 := dRatio (d.1 ^ 2 : Nat) (2 * d.2 ^ 2)
def power3 (d : Duration) : F64 := dRatio (d.1 ^ 3 : Nat) (6 * d.2 ^ 3)

/-- A row of an equality: coefficients of a joint's variables, and the right-hand side. -/
abbrev EqRow := List (Nat × F64) × F64

/-- The three rows of an interval of duration d from a knot, or from knot 0 in a given state, under a jerk. -/
def intervalRows (K : Nat) (from_ : Option Nat) (k0 : F64 × F64 × F64) (to_ jerk : Nat) (d : Duration) : List EqRow :=
  let u := jerkVar K jerk
  let old := fun (l : List (Nat × F64)) => match from_ with
    | some k => l.map (fun e => (stateVar K k e.1, dNeg e.2))
    | none => []
  let start := fun (l : List (F64 × F64)) => if from_.isNone then dDot l else 0
  [([(stateVar K to_ 0, dOne)] ++ old [(0, dOne), (1, power1 d), (2, power2 d)] ++ [(u, dNeg (power3 d))],
      start [(k0.1, dOne), (k0.2.1, power1 d), (k0.2.2, power2 d)]),
    ([(stateVar K to_ 1, dOne)] ++ old [(1, dOne), (2, power1 d)] ++ [(u, dNeg (power2 d))], start [(k0.2.1, dOne), (k0.2.2, power1 d)]),
    ([(stateVar K to_ 2, dOne)] ++ old [(2, dOne)] ++ [(u, dNeg (power1 d))], start [(k0.2.2, dOne)])]

/-- The rows of tail knot 1, which starts from the branch state: an affine function of knot 0 and u₀. -/
def branchRows (K : Nat) (k0 : F64 × F64 × F64) (P τ : Duration) : List EqRow :=
  let p := P.1
  let t := τ.1
  let D := P.2
  let both : Duration := (p + t, D)
  let k := K + 1
  [([(stateVar K k 0, dOne), (jerkVar K 0, dNeg (dRatio (p ^ 3 + 3 * t * p ^ 2 + 3 * t ^ 2 * p : Nat) (6 * D ^ 3))), (jerkVar K K, dNeg (power3 τ))],
      dDot [(k0.1, dOne), (k0.2.1, power1 both), (k0.2.2, power2 both)]),
    ([(stateVar K k 1, dOne), (jerkVar K 0, dNeg (dRatio (p ^ 2 + 2 * t * p : Nat) (2 * D ^ 2))), (jerkVar K K, dNeg (power2 τ))],
      dDot [(k0.2.1, dOne), (k0.2.2, power1 both)]),
    ([(stateVar K k 2, dOne), (jerkVar K 0, dNeg (power1 P)), (jerkVar K K, dNeg (power1 τ))], k0.2.2)]

/-- Every equality of a joint (Table 7-1). -/
def jointEquations (objs : List (Nat × Nat)) (ch : Nat) (k0 : F64 × F64 × F64) : List EqRow :=
  let K := knotCount objs
  (List.range K).flatMap (fun k => intervalRows K (if k = 0 then none else some k) k0 (k + 1) k (knotSpacing objs)) ++
    branchRows K k0 (activeTime objs) (tailInterval objs (ch / 8)) ++ intervalRows K (some (K + 1)) k0 (K + 2) (K + 1) (tailInterval objs (ch / 8))

/-! ### What an arm brings (R149, R151, R163) -/

/-- Knot 0 of a joint in joint units. -/
def knot0Of (objs : List (Nat × Nat)) (sn : ArmSnapshot) (ch : Nat) : F64 × F64 × F64 :=
  let k := nth (0, 0, 0) sn.knot0 (ch % 8)
  (toUnit objs ch (q32ToD k.1), toUnit objs ch k.2.1, toUnit objs ch k.2.2)

/-- The reference and its slope at a plan time, from the points ahead of it (R163). -/
def referenceGo (j θ : Nat) : Nat × List F32 → List (Nat × List F32) → F64 × F64
  | p, [] => (dOfF32 (nth 0 p.2 j), 0)
  | p, q :: rest =>
    if q.1 ≤ θ then referenceGo j θ q rest
    else if θ < p.1 then (dOfF32 (nth 0 p.2 j), 0)
    else
      let slope := dDiv (dSub (dOfF32 (nth 0 q.2 j)) (dOfF32 (nth 0 p.2 j))) (nsToS (q.1 - p.1))
      (dFma slope (nsToS (θ - p.1)) (dOfF32 (nth 0 p.2 j)), slope)

/-- r and ṙ of a joint; an arm that has had no path is referred to its knot-0 position. [DESIGN CHOICE, log 52] -/
def referenceAt (p : ArmPlan) (start : F64) (j θ : Nat) : F64 × F64 :=
  if p.pathStart.2.isEmpty then (start, 0) else referenceGo j θ p.pathStart (p.path.map (fun w => (w.theta, w.q)))

/-- 2 × h × weight: the entry of P that a term h × weight × y² of the cost gives. -/
def costWeight (objs : List (Nat × Nat)) (a mem : Nat) : F64 :=
  dMul (dRatio (2 * (knotSpacing objs).1 : Nat) (knotSpacing objs).2) (dOfF32 (obF objs 0x30 (0x10 + a) mem))

/-- Terms of the cost of a joint (R151): variable, entry of P, entry of q. -/
def jointCost (objs : List (Nat × Nat)) (p : ArmPlan) (sn : ArmSnapshot) (ch : Nat) : List (Nat × F64 × F64) :=
  let K := knotCount objs
  let a := ch / 8
  (List.range K).flatMap (fun k0 =>
    let k := k0 + 1
    let r := referenceAt p (knot0Of objs sn ch).1 (ch % 8) (sn.origin + knotTime objs a k)
    [(stateVar K k 0, costWeight objs a 1, dNeg (dMul (costWeight objs a 1) r.1)),
      (stateVar K k 1, costWeight objs a 2, dNeg (dMul (costWeight objs a 2) r.2)),
      (stateVar K k 2, costWeight objs a 3, 0), (jerkVar K k0, costWeight objs a 4, 0)])

/-! ### Bounds (Table 7-2) -/

/-- The part of an interval that both hold. -/
def meetBounds (a b : F64 × F64) : F64 × F64 := (dMax a.1 b.1, dMin a.2 b.2)

/-- ±limit. -/
def within (x : F32) : F64 × F64 := (dNeg (dOfF32 x), dOfF32 x)

/-- Soft limits in joint units. -/
def softBounds (objs : List (Nat × Nat)) (ch : Nat) : F64 × F64 :=
  let a := toUnit objs ch (q32ToD (softMin objs ch))
  let b := toUnit objs ch (q32ToD (softMax objs ch))
  (dMin a b, dMax a b)

/-- Bounds on c + κu as bounds on u. -/
def throughJerk (b : F64 × F64) (c κ : F64) : F64 × F64 := (dDiv (dSub b.1 c) κ, dDiv (dSub b.2 c) κ)

/-- Bounds of u₀: the jerk limit, and the limits of the branch state. -/
def firstJerkBounds (objs : List (Nat × Nat)) (ch : Nat) (k0 : F64 × F64 × F64) : F64 × F64 :=
  let P := activeTime objs
  let lim := fun m => within (obF objs 0x21 ch m)
  let q := throughJerk (softBounds objs ch) (dDot [(k0.1, dOne), (k0.2.1, power1 P), (k0.2.2, power2 P)]) (power3 P)
  let v := throughJerk (lim 3) (dDot [(k0.2.1, dOne), (k0.2.2, power1 P)]) (power2 P)
  let a := throughJerk (lim 4) k0.2.2 (power1 P)
  meetBounds (lim 5) (meetBounds q (meetBounds v a))

/-- Box bounds of a joint's variables, in their order: soft and dynamic limits, or the standstill pose of a pinned arm. -/
def jointBounds (objs : List (Nat × Nat)) (sn : ArmSnapshot) (ch : Nat) : List (F64 × F64) :=
  let K := knotCount objs
  let k0 := knot0Of objs sn ch
  let lim := fun m => within (obF objs 0x21 ch m)
  let still := [(k0.1, k0.1), ((0 : F64), (0 : F64)), (0, 0)]
  let free := [softBounds objs ch, lim 3, lim 4]
  if sn.pinned then (List.replicate K still).flatten ++ List.replicate K (0, 0) ++ still ++ still ++ [(0, 0), (0, 0)]
  else
    (List.replicate K free).flatten ++ [firstJerkBounds objs ch k0] ++ List.replicate (K - 1) (lim 5) ++ free ++
      [softBounds objs ch, (0, 0), (0, 0), lim 5, lim 5]

/-! ### Linearisation (R152) -/

/-- Position of a joint in a look-ahead at a plan time; past the horizon that of the last knot. [DESIGN CHOICE, log 52] -/
def lookPosition (objs : List (Nat × Nat)) (l : LookAhead) (j θ : Nat) : F64 :=
  let knots := nth [] l.rows j
  let K := knots.length - 1
  let H := ob objs 0x30 0 4 * 1000000
  let x := θ - l.origin
  let k := x * K / H
  if K ≤ k then (nth (0, 0, 0, 0) knots K).1
  else
    let (q, v, a, u) := nth (0, 0, 0, 0) knots k
    (jerkStep (dRatio (x * K - k * H : Nat) (K * 1000000000)) u (q, v, a)).1

/-- The joint positions about which an arm's rows at a knot are linearised. -/
def linearisedAt (objs : List (Nat × Nat)) (sn : ArmSnapshot) (k : Nat) : List F64 :=
  (List.range 8).map (fun j =>
    match sn.look with
    | some l => lookPosition objs l j (sn.origin + knotTime objs sn.arm k)
    | none => (knot0Of objs sn (sn.arm * 8 + j)).1)

/-- Pose and joint axes of an arm at joint positions in joint units. -/
def poseAt (objs : List (Nat × Nat)) (a : Nat) (q : List F64) : Pose F64 × List (Vec F64 × Vec F64 × Bool) :=
  let pose := armPose num64 objs a ((List.range 8).map (fun j => planJoint objs a j (nth 0 q j)))
  (pose, jointAxes num64 objs a pose)

/-- Capsule end centres of an arm that the problem constrains: link, point of its frame, radius. Link capsules form a chain, so beside the
first P0 it takes every P1; at most 11 (Table 7-8). [DESIGN CHOICE, log 51] -/
def endCentres (objs : List (Nat × Nat)) (a : Nat) : List (Nat × Vec F32 × F32) :=
  match (armCapsules objs a).map (·.2) with
  | [] => []
  | c :: rest => ((c.link, c.p0, c.radius) :: (c :: rest).map (fun d => (d.link, d.p1, d.radius))).take 11

/-- A point of a link in the cell frame. -/
def linkPoint (pose : Pose F64) (l : Nat) (p : Vec F32) : Vec F64 := frameApply num64 (linkFrame pose l) (vecOf32 num64 p)

/-- What a direction makes of the columns of a Jacobian, for the present joints of an arm. -/
def alongJoints (objs : List (Nat × Nat)) (a : Nat) (n : Vec F64) (jac : List (Vec F64)) : List F64 :=
  (armJoints objs a).map (fun ch => vecDot num64 n (nth (0, 0, 0) jac (ch % 8)))

/-! ### Zones (R153) -/

/-- Predicted herd time after E of plan time x after the origin (R155). -/
def predicted (σ x : Nat) : Nat := if σ = 0 then (if x = 0 then 0 else 2 ^ 64) else freeRound (dDiv (dOfNat x) (dRatio σ 256))

/-- Zone assigned to a capsule end centre and how it was found (R153): 1 held, 2 requested, 3 free. -/
def assignZone (snap : Snapshot) (conflict : Nat → Nat → Bool) (a t : Nat) (p : Vec F64) : Option (Nat × Nat) :=
  let around := (List.range 256).filter (fun z => zoneUsed snap.objs z && pointInside snap.objs z 0 p)
  let at_ := fun (l : Nat × Nat × Nat × Nat × Bool) => decide (l.2.2.1 ≤ t) && decide (t < l.2.2.2.1)
  let held := fun z => snap.leases.any (fun l => l.1 = a && l.2.1 = z && l.2.2.2.2 && at_ l)
  let asked := fun z => snap.leases.any (fun l => l.1 = a && l.2.1 = z && !l.2.2.2.2 && at_ l)
  let taken := fun z => snap.leases.any (fun l => l.1 != a && conflict z l.2.1 && l.2.2.2.2 && at_ l)
  match around.find? held with
  | some z => some (z, 1)
  | none =>
    match around.find? asked with
    | some z => some (z, 2)
    | none => (around.find? (fun z => !taken z)).map (fun z => (z, 3))

/-- The zones of an end centre at the knots of a list: at a knot where none qualifies, that of the knot before. -/
def zonesAlong (find : Nat → Option Nat) : Option Nat → List Nat → List (Nat × Option Nat)
  | _, [] => []
  | old, k :: rest =>
    let z := (find k).orElse (fun _ => old)
    (k, z) :: zonesAlong find z rest

/-- The zone of an end centre at every constrained knot: the branch state and the tail use zones of the first kind only. -/
def centreZones (s : State) (snap : Snapshot) (sn : ArmSnapshot) (c : Nat × Vec F32 × F32) : List (Nat × Option Nat) :=
  let objs := snap.objs
  let K := knotCount objs
  let E := snap.time + periodNs objs
  let find := fun (heldOnly : Bool) (k : Nat) =>
    let p := linkPoint (poseAt objs sn.arm (linearisedAt objs sn k)).1 c.1 c.2.1
    ((assignZone snap (zonesConflict s) sn.arm (E + predicted sn.sigma (knotTime objs sn.arm k)) p).filter (fun r => !heldOnly || r.2 = 1)).map (·.1)
  let near := zonesAlong (find true) none [0, K + 1, K + 2]
  near ++ zonesAlong (find false) (near.head?.bind (·.2)) ((List.range K).map (· + 1))

/-! ### Inequality rows (R152) -/

/-- Coefficients of the joints of its pattern, and the bounds of a row. -/
abbrev RowValue := List F64 × F64 × F64

/-- A row that constrains nothing. -/
def openRow : RowValue := ([], dNegInf, dInf)

/-- Lower and upper ends of a sum moved by a constant. -/
def shiftRow (r : RowValue) (c : F64) : RowValue := (r.1, dSub r.2.1 c, dSub r.2.2 c)

/-- A row over joint positions (i = 0) or velocities (1) at a knot; at the branch state it is one over u₀. -/
def atKnot (objs : List (Nat × Nat)) (sn : ArmSnapshot) (k i : Nat) (r : RowValue) : RowValue :=
  if k != 0 then r
  else
    let P := activeTime objs
    let consts := (armJoints objs sn.arm).map (fun ch =>
      let k0 := knot0Of objs sn ch
      if i = 0 then dDot [(k0.1, dOne), (k0.2.1, power1 P), (k0.2.2, power2 P)] else dDot [(k0.2.1, dOne), (k0.2.2, power1 P)])
    let κ := if i = 0 then power3 P else power2 P
    shiftRow (r.1.map (fun x => dMul x κ), r.2) (dDot (r.1.zip consts))

/-- The 26 directions of a speed bound: faces, edges and corners of a cube. -/
def cubeDirections : List (Vec F64) :=
  let all : List (Int × Int × Int) := [-1, 0, 1].flatMap (fun x => [-1, 0, 1].flatMap (fun y => [-1, 0, 1].map (fun z => (x, y, z))))
  (all.filter (fun v => v != (0, 0, 0))).map (fun v =>
    let l := dSqrt (dOfNat (v.1.natAbs + v.2.1.natAbs + v.2.2.natAbs))
    (dDiv (dOfInt v.1) l, dDiv (dOfInt v.2.1) l, dDiv (dOfInt v.2.2) l))

/-- How far the faces of the polytope stand from its centre, of a sphere of radius 1 through its corners: 1 ÷ √(9 − 2√2 − 2√6). -/
def polytopeDepth : F64 :=
  dDiv dOne (dSqrt (dSub (dSub (dOfInt 9) (dTwice (dSqrt (dOfInt 2)))) (dTwice (dSqrt (dOfInt 6)))))

/-- Rows of one end centre in its zone: sixteen, those beyond the zone's half-spaces open. -/
def containRows (objs : List (Nat × Nat)) (sn : ArmSnapshot) (k : Nat) (c : Nat × Vec F32 × F32) (z : Option Nat) : List RowValue :=
  let q := linearisedAt objs sn k
  let pa := poseAt objs sn.arm q
  let pt := linkPoint pa.1 c.1 c.2.1
  let jac := jacobian num64 pa.2 c.1 pt
  let here := (armJoints objs sn.arm).map (fun ch => nth 0 q (ch % 8))
  let margin := dAdd (mmToM (dMul (dRatio 5 4) (dOfF32 (obF objs 0x30 0 8)))) (dOfF32 c.2.2)
  let rows := match z with
    | some z => (zonePlanes objs z).map (fun h =>
        let n := vecOf32 num64 h.1
        let w := alongJoints objs sn.arm n jac
        atKnot objs sn k 0 (w, dNegInf, dDot ([(dOfF32 h.2, dOne), (margin, dNeg dOne), (vecDot num64 n pt, dNeg dOne)] ++ w.zip here)))
    | none => []
  (rows ++ List.replicate 16 openRow).take 16

/-- Rows of a speed bound on a point carried by a link. -/
def speedRows (objs : List (Nat × Nat)) (sn : ArmSnapshot) (k link : Nat) (pt : Pose F64 → Vec F64) (limit : F32) : List RowValue :=
  let pa := poseAt objs sn.arm (linearisedAt objs sn k)
  let jac := jacobian num64 pa.2 link (pt pa.1)
  cubeDirections.map (fun n => atKnot objs sn k 1 (alongJoints objs sn.arm n jac, dNegInf, dMul polytopeDepth (mmToM (dOfF32 limit))))

/-- Point speed at a knot: 26 rows of each end centre that moves, and in COMMISSION of the TCP; eleven places. -/
def pointSpeedRows (snap : Snapshot) (sn : ArmSnapshot) (k : Nat) : List RowValue :=
  let objs := snap.objs
  let tcp := if snap.mode = .commission then
      [speedRows objs sn k 9 (tcpPoint num64 objs sn.arm) (obF objs 0x60 (0x20 + sn.arm) 5)] else []
  let ends := ((endCentres objs sn.arm).filter (fun c => c.1 != 0)).map (fun c =>
    speedRows objs sn k c.1 (fun p => linkPoint p c.1 c.2.1) (obF objs 0x30 (0x10 + sn.arm) 5))
  ((tcp ++ ends).take 11 ++ List.replicate 11 (List.replicate 26 openRow)).take 11 |>.flatten

/-- The point of a capsule nearest to a person, and the unit vector towards that person. -/
def nearestPoint (objs : List (Nat × Nat)) (pose : Pose F64) (c : Capsule) (p : PersonSlot) : Vec F64 × Vec F64 :=
  let e := capsuleEnds num64 pose c
  let small := fun (v : Vec F64) => (dToF32 v.1, dToF32 v.2.1, dToF32 v.2.2)
  let ax := personAxis objs p
  let n := nearest32 (small e.1) (small e.2) ax.1 ax.2
  let a := vecOf32 num64 n.1
  let d := vecSub num64 (vecOf32 num64 n.2) a
  let l := vecNorm num64 d
  (a, (dDiv d.1 l, dDiv d.2.1 l, dDiv d.2.2 l))

/-- Approach speed at a knot: one row. -/
def approachRow (objs : List (Nat × Nat)) (sn : ArmSnapshot) (k : Nat) : RowValue :=
  match sn.near with
  | none => openRow
  | some (i, p) =>
    let pa := poseAt objs sn.arm (linearisedAt objs sn k)
    let c := capsule objs i
    let r := nearestPoint objs pa.1 c p
    atKnot objs sn k 1 (alongJoints objs sn.arm r.2 (jacobian num64 pa.2 c.link r.1), dNegInf, mmToM sn.vlim)

/-- Coupling pairs of arms that are both in the problem: arms and tolerance (`plan.couple`). -/
def couplePairs (objs : List (Nat × Nat)) : List (Nat × Nat × F32) :=
  ((List.range 4).map (fun i => (obField objs 0x30 0 0x0D (8 * i) 1, obField objs 0x30 0 0x0D (8 * i + 1) 1, obF32At objs 0x30 0 0x0D (8 * i + 4)))).filter
    (fun c => c.1 != c.2.1 && (plannedArms objs).contains c.1 && (plannedArms objs).contains c.2.1)

/-- Coupling at a knot: one row per axis, over the joints of both arms. -/
def coupleRows (objs : List (Nat × Nat)) (a b : ArmSnapshot) (tol : F32) (k : Nat) : List RowValue :=
  let start := fun (sn : ArmSnapshot) => tcpPoint num64 objs sn.arm (poseAt objs sn.arm ((List.range 8).map (fun j => (knot0Of objs sn (sn.arm * 8 + j)).1))).1
  let gap0 := vecSub num64 (start a) (start b)
  let axes : List (Vec F64 × F64) := [((dOne, 0, 0), gap0.1), ((0, dOne, 0), gap0.2.1), ((0, 0, dOne), gap0.2.2)]
  let part := fun (sn : ArmSnapshot) (n : Vec F64) =>
    let q := linearisedAt objs sn k
    let pa := poseAt objs sn.arm q
    let pt := tcpPoint num64 objs sn.arm pa.1
    let w := alongJoints objs sn.arm n (jacobian num64 pa.2 9 pt)
    let here := (armJoints objs sn.arm).map (fun ch => nth 0 q (ch % 8))
    let c := dSub (dDot (w.zip here)) (vecDot num64 n pt)
    atKnot objs sn k 0 (w, c, c)
  axes.map (fun ax =>
    let pa := part a ax.1
    let pb := part b ax.1
    let mid := dAdd ax.2 (dSub pa.2.1 pb.2.1)
    let t := mmToM (dOfF32 tol)
    (pa.1 ++ pb.1.map dNeg, dSub mid t, dAdd mid t))

/-! ### The structure (R154, R176) -/

/-- Variables of an arm's joints that a row over positions (i = 0) or velocities (1) at a knot touches. -/
def rowColumns (objs : List (Nat × Nat)) (a k i : Nat) : List Nat :=
  let K := knotCount objs
  (armJoints objs a).map (fun ch => columnOf objs ch (if k = 0 then jerkVar K 0 else stateVar K k i))

/-- Columns of every row of G: zone rows, point-speed rows and the approach row of each arm, then the coupling rows. -/
def rowPatterns (objs : List (Nat × Nat)) (speed : Nat) : List (List Nat) :=
  (plannedArms objs).flatMap (fun a =>
      (zoneKnots objs).flatMap (fun k => List.replicate (11 * 16) (rowColumns objs a k 0)) ++
      (speedKnots objs speed).flatMap (fun k => List.replicate (11 * 26 + 1) (rowColumns objs a k 1))) ++
    (couplePairs objs).flatMap (fun c =>
      (zoneKnots objs).flatMap (fun k => List.replicate 3 (rowColumns objs c.1 k 0 ++ rowColumns objs c.2.1 k 0)))

/-- Entries (row, column, value) in compressed columns. -/
def compress (nCol : Nat) (es : List (Nat × Nat × F64)) : List Nat × List Nat × List F64 :=
  let cols := (List.range nCol).map (fun j => sortBy (fun a b => decide (a.1 < b.1)) (es.filter (fun e => e.2.1 = j)))
  ((cols.foldl (fun acc c => acc ++ [acc.getLastD 0 + c.length]) [0]), cols.flatten.map (·.1), cols.flatten.map (·.2.2))

/-- Entries of P, A and G of the problem with some values of the joints and rows. -/
def costEntries (objs : List (Nat × Nat)) (cost : Nat → List (Nat × F64 × F64)) : List (Nat × Nat × F64) :=
  (problemJoints objs).flatMap (fun ch => (cost ch).map (fun t => (columnOf objs ch t.1, columnOf objs ch t.1, t.2.1)))

def equalityOrder (objs : List (Nat × Nat)) : List Nat := freeOrder 1 (plannerKey objs) ((problemJoints objs).length * jointRows objs)

def equalityEntries (objs : List (Nat × Nat)) (eqs : Nat → List EqRow) : List (Nat × Nat × F64) :=
  (indexed (problemJoints objs)).flatMap (fun j => (indexed (eqs j.2)).flatMap (fun r =>
    r.2.1.map (fun e => (nth 0 (equalityOrder objs) (j.1 * jointRows objs + r.1), columnOf objs j.2 e.1, e.2))))

def rowOrder (objs : List (Nat × Nat)) (speed : Nat) : List Nat := freeOrder 2 (plannerKey objs) (rowPatterns objs speed).length

def rowEntries (objs : List (Nat × Nat)) (speed : Nat) (vals : List RowValue) : List (Nat × Nat × F64) :=
  (indexed (rowPatterns objs speed)).flatMap (fun r => (indexed r.2).map (fun c =>
    (nth 0 (rowOrder objs speed) r.1, c.2, nth 0 (nth openRow vals r.1).1 c.1)))

/-- The planner's structure, which the firmware forms from the objects it depends on (R154, R176). -/
def plannerStructure (objs : List (Nat × Nat)) : Structure :=
  let n := (problemJoints objs).length * jointVars objs
  let m := (problemJoints objs).length * jointRows objs
  let still : ArmSnapshot := { arm := 0, origin := 0, sigma := 0, knot0 := [], pinned := true, vlim := 0 }
  let p := compress n (costEntries objs (jointCost objs {} still))
  let a := compress n (equalityEntries objs (fun ch => jointEquations objs ch (0, 0, 0)))
  let rows := (rowPatterns objs (sepKnots objs)).length
  let g := compress n (rowEntries objs (sepKnots objs) [])
  { nVar := n, nEq := m, nIneq := rows, pCol := p.1, pRow := p.2.1, aCol := a.1, aRow := a.2.1, gCol := g.1, gRow := g.2.1
    perm := computedOrder (n + m) ([n, m, rows] ++ p.1 ++ p.2.1 ++ a.1 ++ a.2.1 ++ g.1 ++ g.2.1) }

/-! ### The numbers of a period (R155) -/

/-- What an arm of the problem brings: its snapshot; one that is not planned because it does not stand is pinned at its setpoints. -/
def armOfProblem (s : State) (snap : Snapshot) (a : Nat) : ArmSnapshot :=
  (snap.arms.find? (fun sn => sn.arm = a)).getD
    { arm := a, origin := 0, sigma := 0, pinned := true, exempt := true, vlim := dInf, knot0 := (List.range 8).map (fun j => ((chan s (a * 8 + j)).pos, 0, 0)) }

/-- Rows of G of a problem; those of a pinned arm are open. [DESIGN CHOICE, log 52] -/
def rowValues (s : State) (snap : Snapshot) : List RowValue :=
  let objs := snap.objs
  let armRows := fun (a : Nat) =>
    let sn := armOfProblem s snap a
    let zones := (endCentres objs a).map (fun c => (c, centreZones s snap sn c))
    let contain := (zoneKnots objs).flatMap (fun k =>
      let rows := zones.flatMap (fun c => containRows objs sn k c.1 ((c.2.find? (fun e => e.1 = k)).bind (·.2)))
      (rows ++ List.replicate (11 * 16) openRow).take (11 * 16))
    let fast := (speedKnots objs s.plan.speedKnots).flatMap (fun k =>
      let rows := pointSpeedRows snap sn k ++ [approachRow objs sn k]
      if sepKnots objs < k && k ≤ knotCount objs then rows.map (fun _ => openRow) else rows)
    if sn.pinned then (contain ++ fast).map (fun _ => openRow) else contain ++ fast
  let pairs := (couplePairs objs).flatMap (fun c =>
    (zoneKnots objs).flatMap (coupleRows objs (armOfProblem s snap c.1) (armOfProblem s snap c.2.1) c.2.2))
  (plannedArms objs).flatMap armRows ++ pairs

/-- Values put at their places, the rest as they were. -/
def scatter (old : List F64) (es : List (Nat × F64)) : List F64 := es.foldl (fun l e => upd l e.1 (fun _ => e.2)) old

/-- The numeric arrays of a problem. `old` are those of the slot, whose D and V stay. -/
def problemValues (s : State) (snap : Snapshot) (old : SolverValues) : SolverValues :=
  let objs := snap.objs
  let n := (problemJoints objs).length * jointVars objs
  let sn := fun (ch : Nat) => armOfProblem s snap (ch / 8)
  let cost := fun (ch : Nat) => jointCost objs (nth {} s.plan.arms (ch / 8)) (sn ch) ch
  let eqs := fun (ch : Nat) => jointEquations objs ch (knot0Of objs (sn ch) ch)
  let rows := rowValues s snap
  let bounds := (problemJoints objs).flatMap (fun ch => (indexed (jointBounds objs (sn ch) ch)).map (fun b => (columnOf objs ch b.1, b.2)))
  let ends := fun (f : RowValue → F64) => scatter (rows.map (fun _ => 0)) ((indexed rows).map (fun r => (nth 0 (rowOrder objs s.plan.speedKnots) r.1, f r.2)))
  { old with
    p := (compress n (costEntries objs cost)).2.2, a := (compress n (equalityEntries objs eqs)).2.2, g := (compress n (rowEntries objs s.plan.speedKnots rows)).2.2
    q := scatter (List.replicate n 0) ((problemJoints objs).flatMap (fun ch => (cost ch).map (fun t => (columnOf objs ch t.1, t.2.2))))
    b := scatter (List.replicate ((problemJoints objs).length * jointRows objs) 0) ((indexed (problemJoints objs)).flatMap (fun j =>
      (indexed (eqs j.2)).map (fun r => (nth 0 (equalityOrder objs) (j.1 * jointRows objs + r.1), r.2.2))))
    l := ends (·.2.1), u := ends (·.2.2)
    xlo := scatter (List.replicate n dNegInf) (bounds.map (fun b => (b.1, b.2.1)))
    xhi := scatter (List.replicate n dInf) (bounds.map (fun b => (b.1, b.2.2))) }

/-- The look-ahead of a solution (R150). -/
def lookAheadOf (objs : List (Nat × Nat)) (sn : ArmSnapshot) (x : List F64) : LookAhead :=
  let K := knotCount objs
  { origin := sn.origin
    rows := (List.range 8).map (fun j =>
      let ch := sn.arm * 8 + j
      let v := variableOf objs x ch
      if !jointPresent objs ch then []
      else
        let k0 := knot0Of objs sn ch
        (k0.1, k0.2.1, k0.2.2, v (jerkVar K 0)) :: (List.range K).map (fun i =>
          (v (stateVar K (i + 1) 0), v (stateVar K (i + 1) 1), v (stateVar K (i + 1) 2), if i + 1 < K then v (jerkVar K (i + 1)) else 0))) }

end Sys2Proof.Machine
end

