-- ==== Sys2Proof/Machine/Ipm.lean ====
section
/-! DEFINITION. The arithmetic of the Ibex array: residuals, starting points, the factorisation LDLᵀ, and one iteration of Mehrotra's
predictor-corrector method (08_ibex_solver_array.md R167, R168, R170, R171, R181 to R184). What the spec leaves to the part is the order of
rounding in a sum of products (`dDot`); how the other operations of a formula follow one another is the model's. [DESIGN CHOICE, log 55] -/

namespace Sys2Proof.Machine

/-! ### Operations (R167) -/

/-- The quiet NaN of an invalid operation. -/
def solverNan : F64 := 0x7FF8000000000000#64

/-- The result of an operation on some operands: a NaN among them yields a quiet NaN, whose payload the spec leaves open. -/
def arith (ins : List F64) (r : F64) : F64 := if ins.any dIsNan then dNan else if dIsNan r then solverNan else r

def sSub (a b : F64) : F64 := arith [a, b] (dSub a b)
def sAdd (a b : F64) : F64 := arith [a, b] (dAdd a b)
def sMul (a b : F64) : F64 := arith [a, b] (dMul a b)
def sDiv (a b : F64) : F64 := arith [a, b] (dDiv a b)
def sFma (a b c : F64) : F64 := arith [a, b, c] (dFma a b c)
def sMax (a b : F64) : F64 := arith [a, b] (dMax a b)
def sMin (a b : F64) : F64 := arith [a, b] (dMin a b)

/-- A sum of products. -/
def sDot (l : List (F64 × F64)) : F64 :=
  if l.any (fun t => dIsNan t.1 || dIsNan t.2) then dNan
  else if dIsNan (dDot l) then (if l.length ≤ 1 then solverNan else dNan) else dDot l

/-- Largest magnitude; 0 of an empty vector. -/
def normInf (l : List F64) : F64 := l.foldl (fun m x => sMax m (dAbs x)) 0

/-! ### Products with the matrices (R170, R173) -/

/-- Terms of each row of a matrix in compressed columns times x. -/
def rowTerms (ptr row : List Nat) (vals x : List F64) (nCol r : Nat) : List (F64 × F64) :=
  (List.range nCol).flatMap (fun j =>
    ((indexed (colRows ptr row j)).filter (fun e => e.2 = r)).map (fun e => (nth 0 vals (nth 0 ptr j + e.1), nth 0 x j)))

/-- Terms of column j of a matrix times y: the transposed product. -/
def colTerms (ptr row : List Nat) (vals y : List F64) (j : Nat) : List (F64 × F64) :=
  (indexed (colRows ptr row j)).map (fun e => (nth 0 vals (nth 0 ptr j + e.1), nth 0 y e.2))

/-- Terms of row i of the symmetric P times x, P held by its lower triangle. -/
def symTerms (st : Structure) (vals x : List F64) (i : Nat) : List (F64 × F64) :=
  rowTerms st.pCol st.pRow vals x st.nVar i ++
    ((indexed (colRows st.pCol st.pRow i)).filter (fun e => e.2 != i)).map (fun e => (nth 0 vals (nth 0 st.pCol i + e.1), nth 0 x e.2))

/-- Signed duals of the rows and of the bounds. -/
def signedDual (lo hi : List F64) : List F64 := (hi.zip lo).map (fun p => sSub p.1 p.2)

/-- Ax − b. -/
def primalGap (st : Structure) (v : SolverValues) (it : Iterate) : List F64 :=
  (List.range st.nEq).map (fun r => sSub (sDot (rowTerms st.aCol st.aRow v.a it.x st.nVar r)) (nth 0 v.b r))

/-- Gx − s. -/
def slackGap (st : Structure) (v : SolverValues) (it : Iterate) : List F64 :=
  (List.range st.nIneq).map (fun r => sSub (sDot (rowTerms st.gCol st.gRow v.g it.x st.nVar r)) (nth 0 it.s r))

/-- Px + q + Aᵀy + Gᵀz + z_x. -/
def dualGap (st : Structure) (v : SolverValues) (it : Iterate) : List F64 :=
  let z := signedDual it.zl it.zu
  let zx := signedDual it.xl it.xu
  (List.range st.nVar).map (fun i =>
    sDot (symTerms st v.p it.x i ++ [(nth 0 v.q i, dOne)] ++ colTerms st.aCol st.aRow v.a it.y i ++ colTerms st.gCol st.gRow v.g z i ++
      [(nth 0 zx i, dOne)]))

/-! ### Bounds and their duals -/

/-- Something of every lower and upper bound: of the rows of G, and of the variables. -/
structure Sides (α : Type) where
  rowLo : List α
  rowHi : List α
  varLo : List α
  varHi : List α

/-- Distances of a point to bounds below or above it; none where a bound is infinite. -/
def distances (low : Bool) (bounds at_ : List F64) : List (Option F64) :=
  (bounds.zip at_).map (fun e => if dFinite e.1 then some (if low then sSub e.2 e.1 else sSub e.1 e.2) else none)

/-- Distances of an iterate to its bounds. -/
def distancesOf (v : SolverValues) (it : Iterate) : Sides (Option F64) :=
  { rowLo := distances true v.l it.s, rowHi := distances false v.u it.s, varLo := distances true v.xlo it.x, varHi := distances false v.xhi it.x }

def dualsOf (it : Iterate) : Sides F64 := { rowLo := it.zl, rowHi := it.zu, varLo := it.xl, varHi := it.xu }

/-- The complementarity pairs: distance and dual of every finite bound. -/
def pairsOf (g : Sides (Option F64)) (z : Sides F64) : List (F64 × F64) :=
  let pick := fun (a : List (Option F64)) (b : List F64) => (a.zip b).filterMap (fun e => e.1.map (fun d => (d, e.2)))
  pick g.rowLo z.rowLo ++ pick g.rowHi z.rowHi ++ pick g.varLo z.varLo ++ pick g.varHi z.varHi

/-- r_p, r_d and μ (Table 8-5). -/
def residuals (st : Structure) (v : SolverValues) (it : Iterate) : F64 × F64 × F64 :=
  let rp := sDiv (sMax (normInf (primalGap st v it)) (normInf (slackGap st v it))) (sAdd dOne (sMax (normInf v.b) (normInf it.s)))
  let rd := sDiv (normInf (dualGap st v it)) (sAdd dOne (normInf v.q))
  let ps := pairsOf (distancesOf v it) (dualsOf it)
  (rp, rd, if ps.isEmpty then 0 else sDiv (sDot ps) (dOfNat ps.length))

/-- ½ xᵀPx + qᵀx. -/
def objective (st : Structure) (v : SolverValues) (x : List F64) : F64 :=
  sDot ((List.range st.nVar).map (fun i => (dHalf (sDot (symTerms st v.p x i)), nth 0 x i)) ++ v.q.zip x)

/-! ### Starting points (R182, R183) -/

/-- A slack moved at least `floor` inside its bounds; the midpoint of a narrower interval (R183). -/
def moveInside (floor lo hi x : F64) : F64 :=
  if dFinite lo && dFinite hi && dLt (sSub hi lo) (dTwice floor) then dHalf (sAdd lo hi)
  else
    let a := if dFinite lo then sMax x (sAdd lo floor) else x
    if dFinite hi then sMin a (sSub hi floor) else a

/-- The cold starting point (R183). -/
def coldStart (floor : F64) (st : Structure) (v : SolverValues) : Iterate :=
  let x := (List.range st.nVar).map (fun i => sMin (sMax 0 (nth 0 v.xlo i)) (nth 0 v.xhi i))
  let s := (List.range st.nIneq).map (fun r =>
    moveInside floor (nth 0 v.l r) (nth 0 v.u r) (sDot (rowTerms st.gCol st.gRow v.g x st.nVar r)))
  let ones := fun (b : List F64) => b.map (fun e => if dFinite e then dOne else 0)
  { x := x, y := List.replicate st.nEq 0, s := s, zl := ones v.l, zu := ones v.u, xl := ones v.xlo, xu := ones v.xhi }

/-- The warm starting point (R183). -/
def warmStart (floor : F64) (v : SolverValues) (w : Iterate) : Iterate :=
  let up := fun (b d : List F64) => (b.zip d).map (fun e => if dFinite e.1 then sMax floor e.2 else 0)
  { w with
    s := (indexed w.s).map (fun e => moveInside floor (nth 0 v.l e.1) (nth 0 v.u e.1) e.2)
    zl := up v.l w.zl, zu := up v.u w.zu, xl := up v.xlo w.xl, xu := up v.xhi w.xu }

/-- Bounds that contradict each other (R182). -/
def crossed (v : SolverValues) : Bool :=
  (v.l.zip v.u).any (fun p => dLt p.2 p.1) || (v.xlo.zip v.xhi).any (fun p => dLt p.2 p.1)

/-- Every entry of an iterate, in one list. -/
def iterateList (it : Iterate) : List F64 := it.x ++ it.y ++ it.s ++ it.zl ++ it.zu ++ it.xl ++ it.xu

/-! ### K and its factor (R171, R179, R184) -/

/-- The value of a sparse column at a row, if the pattern has one. -/
def entryAt (col : List (Nat × F64)) (i : Nat) : Option F64 := (col.find? (fun e => e.1 = i)).map (·.2)

/-- Column j of a matrix with its values. -/
def column (ptr row : List Nat) (vals : List F64) (j : Nat) : List (Nat × F64) :=
  (indexed (colRows ptr row j)).map (fun e => (e.2, nth 0 vals (nth 0 ptr j + e.1)))

/-- One entry of K, i ≥ j: `sigma` are the weights of the rows of G where they enter, `top` what is added to the diagonal of the (1,1) block
and `bottom` what is taken from that of the (2,2) block. -/
def kktEntry (st : Structure) (v : SolverValues) (sigma : Option (List F64)) (top : Nat → List (F64 × F64)) (bottom : Nat → F64) (i j : Nat) : F64 :=
  if i < st.nVar then
    let gi := column st.gCol st.gRow v.g i
    let gj := column st.gCol st.gRow v.g j
    let rows := match sigma with
      | some w => gi.filterMap (fun e => (entryAt gj e.1).map (fun x => (sMul (nth 0 w e.1) e.2, x)))
      | none => []
    sDot ((entryAt (column st.pCol st.pRow v.p j) i).toList.map (fun x => (x, dOne)) ++ rows ++ (if i = j then top i else []))
  else if j < st.nVar then (entryAt (column st.aCol st.aRow v.a j) (i - st.nVar)).getD 0
  else if i = j then dNeg (bottom i) else 0

/-- K, column by column, by its pattern. -/
def kktMatrix (st : Structure) (v : SolverValues) (sigma : Option (List F64)) (top : Nat → List (F64 × F64)) (bottom : Nat → F64) : KktMatrix :=
  (indexed (kktAdj st)).map (fun c => (c.1 :: c.2).map (fun u => (u, kktEntry st v sigma top bottom (max u c.1) (min u c.1))))

/-- What a bound puts into Σ (R171): its dual over the distance. At a distance that is not positive, as of a variable whose bounds coincide,
the spec says only that Σ is positive. [DESIGN CHOICE, log 55] -/
def boundWeight (z d : F64) : F64 :=
  if dLt 0 d then sDiv z d
  else
    let w := Config.weightAtBound z d
    if dFinite w && dLt 0 w then w else dOne

/-- A number over the distance of a bound with dual z. -/
def overDistance (t z d : F64) : F64 := if dLt 0 d then sDiv t d else sMul (sDiv t z) (boundWeight z d)

/-- Terms of Σ at index i. -/
def barrierTerms (lo hi : List (Option F64)) (zlo zhi : List F64) (i : Nat) : List (F64 × F64) :=
  ((nth none lo i).map (fun d => (boundWeight (nth 0 zlo i) d, dOne))).toList ++ ((nth none hi i).map (fun d => (boundWeight (nth 0 zhi i) d, dOne))).toList

/-- Σ_G at an iterate. -/
def rowSigma (st : Structure) (g : Sides (Option F64)) (z : Sides F64) : List F64 :=
  (List.range st.nIneq).map (fun r => sDot (barrierTerms g.rowLo g.rowHi z.rowLo z.rowHi r))

/-- K of the loop at an iterate (R171). -/
def loopMatrix (st : Structure) (v : SolverValues) (it : Iterate) (regP regD : F64) : KktMatrix :=
  let g := distancesOf v it
  let z := dualsOf it
  kktMatrix st v (some (rowSigma st g z)) (fun i => barrierTerms g.varLo g.varHi z.varLo z.varHi i ++ [(regP, dOne)]) (fun _ => regD)

/-- K of a FACTOR run (Table 8-4). -/
def factorMatrix (st : Structure) (v : SolverValues) : KktMatrix := kktMatrix st v none (fun i => [(nth 0 v.d i, dOne)]) (fun i => nth 0 v.d i)

/-- One column of L and its pivot, from the columns before it; a pivot that is zero or not finite is replaced by NaN (R184). -/
def factorColumn (k : KktMatrix) (done : List FactorColumn) (c : Nat × List Nat) : FactorColumn :=
  let left := fun (u : Nat) =>
    sDot ((entryAt (nth [] k c.1) u).toList.map (fun x => (x, dOne)) ++ done.filterMap (fun f =>
      let here := if u = c.1 then entryAt f.rows c.1 else entryAt f.rows u
      match here, entryAt f.rows c.1 with
      | some a, some b => some (dNeg (sMul a f.pivot), b)
      | _, _ => none))
  let d := left c.1
  let pivot := if dFinite d && !dEq d 0 then d else dNan
  { col := c.1, pivot := pivot, rows := c.2.map (fun u => (u, sDiv (left u) pivot)) }

/-- LDLᵀ in the structure's elimination order, to the last column. -/
def factorise (st : Structure) (k : KktMatrix) : List FactorColumn :=
  (symbolicFactor st).foldl (fun done c => done ++ [factorColumn k done c]) []

/-- The lowest bad pivot, in elimination order. -/
def badColumn (fs : List FactorColumn) : Option Nat := fs.findIdx? (fun f => dIsNan f.pivot)

/-- Pivots of the wrong sign. -/
def wrongSigns (st : Structure) (fs : List FactorColumn) : Nat :=
  (fs.filter (fun f => if f.col < st.nVar then dLt f.pivot 0 else dLt 0 f.pivot)).length

/-- K⁻¹ times a vector, with a factor. -/
def ldlSolve (fs : List FactorColumn) (rhs : List F64) : List F64 :=
  let down := fs.foldl (fun (acc : List (FactorColumn × F64)) f =>
    acc ++ [(f, sDot ((nth 0 rhs f.col, dOne) :: acc.filterMap (fun p => (entryAt p.1.rows f.col).map (fun l => (dNeg l, p.2)))))]) []
  let up := down.foldr (fun p (acc : List (Nat × F64)) =>
    (p.1.col, sDot ((sDiv p.2 p.1.pivot, dOne) :: p.1.rows.map (fun r => (dNeg r.2, (entryAt acc r.1).getD 0)))) :: acc) []
  (List.range rhs.length).map (fun i => (entryAt up i).getD 0)

/-- Row i of K times a vector; K is symmetric. -/
def kktRow (k : KktMatrix) (x : List F64) (i : Nat) : F64 := sDot ((nth [] k i).map (fun e => (e.2, nth 0 x e.1)))

/-! ### One iteration (the loop of 08_ibex_solver_array.md) -/

/-- A step of every part of an iterate. -/
structure Direction where
  x : List F64
  y : List F64
  s : List F64
  duals : Sides F64

/-- Terms t ÷ d − z of the bounds at index i, with the sign of the dual they belong to. -/
def pullTerms (lo hi : List (Option F64)) (tlo thi zlo zhi : List F64) (i : Nat) : List (F64 × F64) :=
  (match nth none hi i with
    | some d => [(overDistance (nth 0 thi i) (nth 0 zhi i) d, dOne), (dNeg (nth 0 zhi i), dOne)]
    | none => []) ++
  (match nth none lo i with
    | some d => [(dNeg (overDistance (nth 0 tlo i) (nth 0 zlo i) d), dOne), (nth 0 zlo i, dOne)]
    | none => [])

/-- Step of the duals of bounds for a step `dp` of the point, towards complementarity products t. -/
def dualStep (low : Bool) (g : List (Option F64)) (t z dp : List F64) : List F64 :=
  (indexed g).map (fun e =>
    match e.2 with
    | none => 0
    | some d =>
      let zi := nth 0 z e.1
      sSub (overDistance (sFma (if low then dNeg zi else zi) (nth 0 dp e.1) (nth 0 t e.1)) zi d) zi)

/-- The Newton direction towards complementarity products t, with a factor of K (R171). -/
def newton (st : Structure) (v : SolverValues) (it : Iterate) (fs : List FactorColumn) (g : Sides (Option F64)) (t : Sides F64) : Direction :=
  let z := dualsOf it
  let sigma := rowSigma st g z
  let rg := slackGap st v it
  let w := (List.range st.nIneq).map (fun r => sDot ((nth 0 sigma r, nth 0 rg r) :: pullTerms g.rowLo g.rowHi t.rowLo t.rowHi z.rowLo z.rowHi r))
  let top := (indexed (dualGap st v it)).map (fun e => dNeg (sDot ((e.2, dOne) :: colTerms st.gCol st.gRow v.g w e.1 ++
    pullTerms g.varLo g.varHi t.varLo t.varHi z.varLo z.varHi e.1)))
  let d := ldlSolve fs (top ++ (primalGap st v it).map dNeg)
  let dx := d.take st.nVar
  let ds := (List.range st.nIneq).map (fun r => sDot (rowTerms st.gCol st.gRow v.g dx st.nVar r ++ [(nth 0 rg r, dOne)]))
  { x := dx, y := d.drop st.nVar, s := ds
    duals := { rowLo := dualStep true g.rowLo t.rowLo z.rowLo ds, rowHi := dualStep false g.rowHi t.rowHi z.rowHi ds
               varLo := dualStep true g.varLo t.varLo z.varLo dx, varHi := dualStep false g.varHi t.varHi z.varHi dx } }

/-- How a direction moves the distances to the bounds. -/
def distanceSteps (d : Direction) : Sides F64 := { rowLo := d.s, rowHi := d.s.map dNeg, varLo := d.x, varHi := d.x.map dNeg }

/-- Values of finite bounds in one list, in the order of the complementarity pairs. -/
def onFinite (g : Sides (Option F64)) (z : Sides F64) : List F64 := (pairsOf g z).map (·.2)

/-- The largest step that keeps distances and duals positive, of those that are; +∞ when none of them falls. -/
def maxStep (held moved : List F64) : F64 :=
  (held.zip moved).foldl (fun m e =>
    if dIsNan e.2 then dNan else if dLt 0 e.1 && dLt e.2 0 then sMin m (sDiv (dNeg e.1) e.2) else m) dInf

/-- Distances and duals of the finite bounds, and how a direction moves them. -/
def heldAndMoved (g : Sides (Option F64)) (z : Sides F64) (d : Direction) : List F64 × List F64 :=
  ((pairsOf g z).map (·.1) ++ onFinite g z, onFinite g (distanceSteps d) ++ onFinite g d.duals)

/-- A vector moved along a direction. -/
def stepped (a : F64) (x d : List F64) : List F64 := (x.zip d).map (fun e => sFma a e.2 e.1)

/-- An iterate moved along a direction. -/
def moveIterate (a : F64) (it : Iterate) (d : Direction) : Iterate :=
  { x := stepped a it.x d.x, y := stepped a it.y d.y, s := stepped a it.s d.s, zl := stepped a it.zl d.duals.rowLo
    zu := stepped a it.zu d.duals.rowHi, xl := stepped a it.xl d.duals.varLo, xu := stepped a it.xu d.duals.varHi }

/-- Targets of the corrector: sig × μ less the products of the predictor's steps. -/
def correctorTargets (goal : F64) (d : Direction) : Sides F64 :=
  let q := distanceSteps d
  let f := fun (a b : List F64) => (a.zip b).map (fun e => sFma (dNeg e.1) e.2 goal)
  { rowLo := f q.rowLo d.duals.rowLo, rowHi := f q.rowHi d.duals.rowHi, varLo := f q.varLo d.duals.varLo, varHi := f q.varHi d.duals.varHi }

/-- Every entry of a direction. -/
def directionList (d : Direction) : List F64 := d.x ++ d.y ++ d.s ++ d.duals.rowLo ++ d.duals.rowHi ++ d.duals.varLo ++ d.duals.varHi

/-- The iterate after an iteration with a factor of K, and every number on the way that must be finite (R184). -/
def ipmStep (st : Structure) (v : SolverValues) (it : Iterate) (mu : F64) (fs : List FactorColumn) : Iterate × List F64 :=
  let g := distancesOf v it
  let z := dualsOf it
  let ps := pairsOf g z
  let zero := { rowLo := v.l.map (fun _ => 0), rowHi := v.u.map (fun _ => 0), varLo := v.xlo.map (fun _ => 0), varHi := v.xhi.map (fun _ => 0) }
  let aff := newton st v it fs g zero
  let moveAff := heldAndMoved g z aff
  let aAff := sMin dOne (maxStep moveAff.1 moveAff.2)
  let after := stepped aAff moveAff.1 moveAff.2
  let muAff := sDiv (sDot ((after.take ps.length).zip (after.drop ps.length))) (dOfNat ps.length)
  let ratio := sDiv muAff mu
  let sig := if ps.isEmpty then 0 else sMul (sMul ratio ratio) ratio
  let d := newton st v it fs g (correctorTargets (sMul sig mu) aff)
  let move := heldAndMoved g z d
  let a := sMin dOne (sMul (dRatio 995 1000) (maxStep move.1 move.2))
  (moveIterate a it d, directionList aff ++ [aAff, sig] ++ directionList d ++ [a])

end Sys2Proof.Machine
end

