-- ==== Sys2Proof/Machine/Solver.lean ====
section
/-! DEFINITION. The Ibex solver array (08_ibex_solver_array.md R166 to R192). -/

namespace Sys2Proof.Machine

def withSolver (s : State) (f : SolverState → SolverState) : State := { s with solver := f s.solver }
def slotOf (s : State) (i : Nat) : SolverSlot := nth {} s.solver.slots i
def setSlot (s : State) (i : Nat) (f : SolverSlot → SolverSlot) : State := withSolver s (fun v => { v with slots := upd v.slots i f })

/-! ### Loading (R175) -/

/-- SRAM not reserved by any slot. -/
def sramFree (s : State) : Nat := 33554432 - sumNat (s.solver.slots.map (·.sram))

/-- A slot that holds nothing. -/
def emptySlot (r : SolverResult) : SolverSlot := { result := { r with factorValid := false } }

/-- Ends the run in progress on a slot with a code, the one executing or the suspended one; its end comes with SOLVER_RUN_END (R175). -/
def endRun (s : State) (slot code : Nat) : State :=
  let f := fun (r : SolverRun) => if r.slot = slot && r.ended.isNone then { r with ended := some code } else r
  withSolver s (fun v => { v with current := v.current.map f, parked := v.parked.map f })

/-- ABORT ends a slot's run, or takes it out of the queue (R179). -/
def abortRun (s : State) (slot : Nat) : State :=
  withSolver (endRun s slot 10) (fun v => { v with queue := v.queue.map (fun r => if r.slot = slot then { r with ended := some 10 } else r) })

/-- A description chunk (R175). -/
def solverLoad (s : State) (slot : Nat) (chunk : Bytes) : State :=
  let off := le chunk 0 4
  let data := chunk.drop 8
  let s1 := if off = 0 then setSlot (endRun s slot 10) slot (fun g => { emptySlot g.result with load := .loading, chunks := [(0, data)] })
    else setSlot s slot (fun g => if g.load = .loading then { g with chunks := (off, data) :: g.chunks } else g)
  let g := slotOf s1 slot
  let len := le (overlay 8 g.chunks) 4 4
  if g.load = .loading && covers 8 g.chunks && covers len g.chunks then setSlot s1 slot (fun g => { g with load := .analysing }) else s1

/-- Writing 1 to `solver.unload` (R175). -/
def solverUnload (s : State) (slot : Nat) : State := setSlot (endRun s slot 10) slot (fun g => emptySlot g.result)

/-- The end of the analysis of a slot (R172, R175). -/
def analysisDone (s : State) (slot : Nat) : State :=
  let g := slotOf s slot
  if g.load != .analysing then s
  else
    let parsed : Except Nat Structure := match g.structure? with
      | some st => .ok st
      | none => parseStructure (overlay (le (overlay 8 g.chunks) 4 4) g.chunks)
    match parsed with
    | .error n => setSlot s slot (fun g => { emptySlot g.result with load := .refused, loadError := n })
    | .ok st =>
      let cc := colCounts st
      let nnz := sumNat cc
      let need := sramNeed st nnz
      if !dimensionsFit st.nVar st.nEq st.nIneq st.pRow.length st.aRow.length st.gRow.length then
        setSlot s slot (fun g => { emptySlot g.result with load := .refused, loadError := 2 })
      else if 262144 < nnz then setSlot s slot (fun g => { emptySlot g.result with load := .refused, loadError := 4 })
      else if sramFree s < need then setSlot s slot (fun g => { emptySlot g.result with load := .refused, loadError := 5 })
      else setSlot s slot (fun g => { emptySlot { g.result with seq := 0 } with
        load := .resident, structure? := some st, id := structureId st, nnzL := nnz, flops := factorFlops cc, sram := need, values := freshValues st })

def execSolverAnalysisDone (clk slot : Nat) (s : State) : Host.Outcome State Fault Refusal := .next (analysisDone (begin clk s) slot)

/-! ### Delta entries (R177, R178) -/

/-- Length of a delta target of a structure (Table 8-3). -/
def targetLen (st : Structure) (t : Nat) : Nat :=
  match t with
  | 0 => st.pRow.length
  | 1 => st.aRow.length
  | 2 => st.gRow.length
  | 3 => st.nVar
  | 4 => st.nEq
  | 5 => st.nIneq
  | 6 => st.nIneq
  | 7 => st.nVar
  | 8 => st.nVar
  | 9 => st.nVar + st.nEq
  | 10 => st.nVar + st.nEq
  | _ => 0

/-- Entries of a delta record: target, element, value. -/
def deltaEntries (bs : Bytes) : List (Nat × Nat × F64) :=
  (List.range (bs.length / 16)).map (fun i =>
    let w := le bs (16 * i) 4
    (w / 2 ^ 28, w % 2 ^ 28, BitVec.ofNat 64 (le bs (16 * i + 8) 8)))

/-- An entry is one check 6 accepts (R177). -/
def deltaOk (st : Structure) (e : Nat × Nat × F64) : Bool :=
  let (t, i, v) := e
  decide (i < targetLen st t) && !dIsNan v && (dFinite v || (5 ≤ t && t ≤ 8)) &&
    !((t = 5 || t = 7) && v = dInf) && !((t = 6 || t = 8) && v = dNegInf)

/-- Applies one entry. -/
def putDelta (v : SolverValues) (e : Nat × Nat × F64) : SolverValues :=
  let set := fun (l : List F64) => upd l e.2.1 (fun _ => e.2.2)
  match e.1 with
  | 0 => { v with p := set v.p }
  | 1 => { v with a := set v.a }
  | 2 => { v with g := set v.g }
  | 3 => { v with q := set v.q }
  | 4 => { v with b := set v.b }
  | 5 => { v with l := set v.l }
  | 6 => { v with u := set v.u }
  | 7 => { v with xlo := set v.xlo }
  | 8 => { v with xhi := set v.xhi }
  | 9 => { v with d := set v.d }
  | 10 => { v with v := set v.v }
  | _ => v

/-- Stages the entries of a record (R178). -/
def solverDelta (s : State) (slot : Nat) (bs : Bytes) : State := setSlot s slot (fun g => { g with staged := g.staged ++ deltaEntries bs })

/-! ### Runs (R179 to R188) -/

/-- Options of a slot. -/
def slotF (s : State) (slot mem : Nat) : F64 := obD s.objs 0x31 (0x10 + slot) mem
def slotN (s : State) (slot mem : Nat) : Nat := ov s 0x31 (0x10 + slot) mem

/-- Ends the run that is executing. -/
def stopCurrent (s : State) (code : Nat) (guard : Bool) : State :=
  withSolver s (fun v => { v with current := v.current.map (fun r => if r.ended.isNone then { r with ended := some code, guardStop := guard } else r) })

/-- The guard of R187 keeps the next factorisation from starting. -/
def guardStops (s : State) (r : SolverRun) : Bool :=
  let g := slotOf s r.slot
  let pm := sustainedPm g.nnzL (match g.structure? with
    | some st => st.nVar + st.nEq
    | none => 1)
  (r.planner || slotN s r.slot 0x15 == 1) && r.deadline != 0 &&
    (match r.lastFactorNs with
      | some d => decide (r.deadline ≤ now s + d + 2000)
      | none => decide (r.deadline * (pm * 768) ≤ (now s + 2000) * (pm * 768) + g.flops * 10000))

/-- Tests of R181 and R182 on the iterate just completed, and the guard; what the run ends with, if it ends. -/
def loopTests (s : State) (r : SolverRun) : Option (Nat × Bool) :=
  let conv := dLe r.rPrimal (slotF s r.slot 0x0B) && dLe r.rDual (slotF s r.slot 0x0C) && dLe r.gap (slotF s r.slot 0x0D)
  let it := r.iterate
  let sum := sDot [(normInf it.y, dOne), (normInf (signedDual it.zl it.zu), dOne), (normInf (signedDual it.xl it.xu), dOne)]
  if conv then some (0, false)
  else if 0 < r.iterations && dLt (slotF s r.slot 0x17) sum && dLt (slotF s r.slot 0x0B) r.rPrimal then some (3, false)
  else if slotN s r.slot 0x0A ≤ r.iterations then some (2, false)
  else if guardStops s r then some (1, true)
  else none

/-- Puts a run's iterate and residuals in place. -/
def withIterate (st : Structure) (r : SolverRun) (it : Iterate) : SolverRun :=
  let q := residuals st r.values it
  { r with iterate := it, rPrimal := q.1, rDual := q.2.1, gap := q.2.2 }

/-- Some part of the solver a run needs is isolated. -/
def solverIsolated (s : State) : Bool := (List.range 5).any (isolated s 1)

/-- A block of the array is isolated: the runs in progress end with SOLVER_ISOLATED, the suspended one with them (R169, Table 8-7). -/
def runsIsolated (s : State) : State :=
  let f := fun (r : SolverRun) => if r.ended.isNone then { r with ended := some 7 } else r
  withSolver s (fun v => { v with current := v.current.map f, parked := v.parked.map f })

/-- The deadline of a run has come (R185). -/
def runLate (s : State) (r : SolverRun) : Bool := r.deadline != 0 && decide (r.deadline ≤ now s)

/-- A factorisation of a slot has completed: K, and the factor where no pivot is bad (R179, R184). -/
def recordFactor (s : State) (slot : Nat) (k : KktMatrix) (fs : List FactorColumn) : State :=
  setSlot s slot (fun g => { g with lastK := some k, factor := if (badColumn fs).isSome then none else some fs })

/-- K of a run's iteration with its factor. -/
def loopFactor (s : State) (st : Structure) (r : SolverRun) : KktMatrix × List FactorColumn :=
  let k := loopMatrix st r.values r.iterate (slotF s r.slot 0x0E) (slotF s r.slot 0x0F)
  (k, factorise st k)

/-- The residuals of a run's iterate are finite (R184). -/
def residualsFinite (r : SolverRun) : Bool := dFinite r.rPrimal && dFinite r.rDual && dFinite r.gap

/-- Iteration 0 of an IPM run: the starting point and its residuals (R181 to R185, R187). [DESIGN CHOICE, log 152] -/
def iterationZero (s : State) (st : Structure) (id : Nat) (r : SolverRun) : State :=
  let put := fun (r : SolverRun) => withSolver s (fun v => { v with current := some r })
  let floor := obD s.objs 0x31 0 4
  let src := slotOf s r.warmSlot
  let warm := if r.warm && src.load = .resident && src.id = id then src.warm else none
  let r1 := { r with warmUsed := warm.isSome, warmRejected := r.warm && warm.isNone }
  let it := match warm with
    | some w => warmStart floor r.values w
    | none => coldStart floor st r.values
  let r2 := withIterate st r1 it
  if runLate s r then put { r2 with ended := some 1 }
  else if crossed r.values then put { r2 with ended := some 3 }
  else if !(iterateList it).all dFinite || !residualsFinite r2 then put { r2 with ended := some 5 }
  else
    match loopTests (put r2) r2 with
    | some (c, gd) => stopCurrent (put r2) c gd
    | none => put r2

/-- A run starts: the staged entries are applied, and an IPM run evaluates iteration 0 (R178, R179). -/
def startRun (s : State) (r0 : SolverRun) : State :=
  let g := slotOf s r0.slot
  let put := fun (s : State) (r : SolverRun) => withSolver s (fun v => { v with current := some r })
  let r1 := { r0 with started := true, startTime := now s }
  if r0.ended.isSome then put s r0
  else if solverIsolated s then put s { r1 with ended := some 7 }
  else
    match g.load, g.structure? with
    | .resident, some st =>
      let vals := g.staged.foldl putDelta g.values
      let s1 := setSlot s r0.slot (fun g => { g with values := vals, staged := [] })
      let r2 := { r1 with values := vals }
      match r0.op with
      | .ipm => iterationZero s1 st g.id r2
      | .solve => put s1 (if g.factor.isNone then { r2 with ended := some 11 } else r2)
      | _ => put s1 r2
    | _, _ => put s { r1 with ended := some 8 }

/-- Starts what waits when nothing executes: the queue's first run, no run being suspended (R180). -/
def startNext (s : State) : State :=
  match s.solver.current, s.solver.parked, s.solver.queue with
  | none, none, r :: rest => startRun (withSolver s (fun v => { v with queue := rest })) r
  | _, _, _ => s

/-- A slot has a run that has not ended (R179). -/
def runBusy (s : State) (slot : Nat) : Bool :=
  (s.solver.current.toList ++ s.solver.parked.toList ++ s.solver.queue).any (fun r => r.slot = slot)

/-- Operation of a run record. -/
def runOp (n : Nat) : Option RunOp :=
  match n with
  | 1 => some .ipm
  | 2 => some .factor
  | 3 => some .solve
  | 4 => some .spmv
  | _ => none

/-- A run as it was before it started. -/
def unstarted (r : SolverRun) : SolverRun :=
  { slot := r.slot, op := r.op, planner := r.planner, warm := r.warm, warmSlot := r.warmSlot, deadline := r.deadline, tag := r.tag, since := r.since }

/-- Host runs start in the order of the tick starts at which they took effect, and in ascending slots within one (R180). -/
def runBefore (a b : SolverRun) : Bool := decide (a.since < b.since) || (a.since = b.since && decide (a.slot < b.slot))

/-- A write of `solver.run` takes effect (Table 8-4, R179, R180): a host run that has started at this very instant gives way to one of a lower
slot. -/
def solverRun (s : State) (slot : Nat) (bs : Bytes) : State :=
  match runOp (le bs 0 1) with
  | none => if le bs 0 1 = 0 then abortRun s slot else s
  | some op =>
    let r : SolverRun := { slot := slot, op := op, planner := false, warm := bit (le bs 1 1) 0, warmSlot := le bs 2 1 % 8
                           deadline := le bs 8 8, tag := le bs 16 8, since := now s }
    let waits := fun (s : State) (q : SolverRun) => withSolver s (fun v => { v with queue := insertBy runBefore q v.queue })
    match s.solver.current with
    | none => if s.solver.parked.isNone && s.solver.queue.isEmpty then startRun s r else waits s r
    | some c =>
      if !c.planner && c.startTime = now s && runBefore r c then startRun (withSolver (waits s (unstarted c)) (fun v => { v with current := none })) r
      else waits s r

/-- The planner's solve starts; a host run that executes is suspended, and one that has started at this very instant goes second (R180). -/
def startPlanner (s : State) (slot deadline : Nat) : State :=
  let r : SolverRun := { slot := slot, op := .ipm, planner := true, warm := true, warmSlot := slot, deadline := deadline, tag := 0, since := now s }
  match s.solver.current with
  | some h =>
    if h.startTime = now s then startRun (withSolver s (fun v => { v with queue := insertBy runBefore (unstarted h) v.queue, current := none })) r
    else startRun (bump (withSolver s (fun v => { v with parked := some { h with suspended := true }, current := none })) 0x31 0 3) r
  | none => startRun s r

/-- An iterate of the loop completes, or the run meets a bad pivot or a value that is not finite (R181, R182, R184, R185, R187).
`factorNs` is how long the iteration's factorisation took, which R189 only bounds. An iteration whose residuals become known at the deadline
or later is abandoned; its factor has been completed. -/
def iterationEnd (s : State) (factorNs : Nat) : State :=
  match s.solver.current with
  | none => s
  | some r =>
    match (slotOf s r.slot).structure? with
    | none => stopCurrent s 8 false
    | some st =>
      if r.op != .ipm || r.ended.isSome || !r.started then s
      else
        let put := fun (s : State) (r : SolverRun) => withSolver s (fun v => { v with current := some r })
        let (k, fs) := loopFactor s st r
        let s1 := recordFactor s r.slot k fs
        let step := ipmStep st r.values r.iterate r.gap fs
        let r1 := { r with wrongSign := r.wrongSign + wrongSigns st fs }
        let r2 := withIterate st r1 step.1
        if runLate s r then put s1 { r1 with ended := some 1 }
        else
          match badColumn fs with
          | some col => put s1 { r2 with ended := some 4, pivotCol := col, pivotVar := nth 0 st.perm col }
          | none =>
            if !(k.all (fun c => c.all (fun e => dFinite e.2)) && fs.all (fun f => f.rows.all (fun e => dFinite e.2)) && step.2.all dFinite &&
                (iterateList step.1).all dFinite && residualsFinite r2) then put s1 { r2 with ended := some 5 }
            else
              let r3 := { r2 with iterations := r.iterations + 1, lastFactorNs := some factorNs }
              let s2 := setSlot (put s1 r3) r.slot (fun g => { g with warm := some step.1 })
              match loopTests s2 r3 with
              | some (c, gd) => stopCurrent s2 c gd
              | none => s2

def execIpmIterationEnd (clk factorNs : Nat) (s : State) : Host.Outcome State Fault Refusal := .next (iterationEnd (begin clk s) factorNs)

/-- A run that reaches its deadline (R185, R186). `inFactor` says that it falls inside a factorisation. -/
def lateRun (inFactor : Bool) (r : SolverRun) : SolverRun :=
  match r.op with
  | .ipm => { r with ended := some (if inFactor then 6 else 1) }
  | .factor => { r with ended := some 6 }
  | _ => { r with ended := some 10 }

/-- The deadline of a run falls, of the one executing or of the suspended one (R180, R185, R186). Outside a factorisation, the one of the
iteration in progress has completed. -/
def solveDeadline (s : State) (inFactor suspended : Bool) : State :=
  match (if suspended then s.solver.parked else s.solver.current) with
  | none => s
  | some r =>
    if r.ended.isSome || !runLate s r then s
    else
      let put := fun (s : State) (r : SolverRun) => withSolver s (fun v => if suspended then { v with parked := some r } else { v with current := some r })
      match r.op, (slotOf s r.slot).structure? with
      | .ipm, some st =>
        if inFactor then put s (lateRun true r)
        else
          let f := loopFactor s st r
          put (recordFactor s r.slot f.1 f.2) (lateRun false { r with wrongSign := r.wrongSign + wrongSigns st f.2 })
      | _, _ => put s (lateRun inFactor r)

def execSolveDeadline (clk : Nat) (inFactor suspended : Bool) (s : State) : Host.Outcome State Fault Refusal :=
  .next (solveDeadline (begin clk s) inFactor suspended)

/-- The suspended host run goes on once the planner's solve has ended (R180). -/
def hostResume (s : State) : State :=
  match s.solver.current, s.solver.parked with
  | none, some r => if r.ended.isSome then s else withSolver s (fun v => { v with current := some r, parked := none })
  | _, _ => s

def execHostRunResume (clk : Nat) (s : State) : Host.Outcome State Fault Refusal := .next (hostResume (begin clk s))

/-- w of a SOLVE or SPMV run (R179). [DESIGN CHOICE, log 151] -/
def vectorResult (st : Structure) (g : SolverSlot) (r : SolverRun) (n : Nat) : List F64 :=
  if r.op = .solve then ldlSolve (g.factor.getD []) r.values.v
  else
    (List.range (st.nVar + st.nEq)).map (fun i =>
      match g.lastK with
      | some k => kktRow k r.values.v i
      | none => Config.productWithoutK n i)

/-- The work of a FACTOR, SOLVE or SPMV run that has not ended otherwise is done: its code, and the slot after it. Work registered at the
deadline or later is late (R185). -/
def plainWork (s : State) (r : SolverRun) : State × SolverRun :=
  let g := slotOf s r.slot
  match g.structure?, r.ended with
  | some st, none =>
    if runLate s r then (s, lateRun false r)
    else if r.op = .factor then
      let k := factorMatrix st r.values
      let fs := factorise st k
      let r1 := { r with ended := some 9, wrongSign := wrongSigns st fs }
      (recordFactor s r.slot k fs,
        match badColumn fs with
        | some col => { r1 with ended := some 4, pivotCol := col, pivotVar := nth 0 st.perm col }
        | none => r1)
    else
      let s1 := setSlot s r.slot (fun g => { g with w := vectorResult st g r s.freeCount })
      ({ s1 with freeCount := s.freeCount + 1 }, { r with ended := some 9 })
  | _, _ => (s, r)

/-- The result record of a run that ends (Table 8-6). -/
def resultOf (s : State) (r : SolverRun) (code : Nat) : SolverResult :=
  let g := slotOf s r.slot
  let obj := match g.structure? with
    | some st => if r.op = .ipm then objective st r.values r.iterate.x else 0
    | none => 0
  { code := code, iterations := r.iterations, warmUsed := r.warmUsed, warmRejected := r.warmRejected, guardStop := r.guardStop
    suspended := r.suspended, factorValid := g.factor.isSome, wrongSign := satNat 8 r.wrongSign, seq := (g.result.seq + 1) % 2 ^ 32
    pivotCol := r.pivotCol, pivotVar := r.pivotVar, rPrimal := r.rPrimal, rDual := r.rDual, gap := r.gap, objective := obj
    startTime := r.startTime, endTime := now s, runTag := r.tag }

/-- A bit of SOLVER_DONE goes to 1 (R179, R453). -/
def solverDone (s : State) (slot : Nat) : State :=
  let m := 1#8 <<< slot
  let s1 := withFresh s (fun c => { c with done := c.done ||| m })
  if s.reg.solverDone.getLsbD slot then s1 else setInt { s1 with reg := { s1.reg with solverDone := s1.reg.solverDone ||| m } } 3

/-- A run ends: its record, its vectors, SEQ, the host's bit, and for the planner's solve the commit test (R155, R179, R188). -/
def runEnd (s : State) (slot : Nat) : State :=
  let due := fun (r : SolverRun) (current : Bool) => r.slot = slot && (r.ended.isSome || (current && r.started && r.op != .ipm))
  let pick : Option (SolverRun × Nat) := match s.solver.current, s.solver.parked with
    | some r, p => if due r true then some (r, 0) else
        (match p with
          | some q => if due q false then some (q, 1) else (s.solver.queue.find? (fun x => due x false)).map (fun x => (x, 2))
          | none => (s.solver.queue.find? (fun x => due x false)).map (fun x => (x, 2)))
    | none, some q => if due q false then some (q, 1) else (s.solver.queue.find? (fun x => due x false)).map (fun x => (x, 2))
    | none, none => (s.solver.queue.find? (fun x => due x false)).map (fun x => (x, 2))
  match pick with
  | none => s
  | some (r0, place) =>
    let (s1, r) := plainWork s r0
    let code := r.ended.getD 9
    let res := resultOf s1 r code
    let s2 := setSlot s1 slot (fun g => { g with result := res, iterate := if r.op = .ipm && r.started then r.iterate else g.iterate })
    let s3 := withSolver s2 (fun v => match place with
      | 0 => { v with current := none }
      | 1 => { v with parked := none }
      | _ => { v with queue := v.queue.filter (fun x => x != r0) })
    let s4 := bump s3 0x31 (0x10 + slot) 0x18
    let s5 := if r.planner then { s4 with plan := { s4.plan with phase := if s4.plan.phase = .solving then .testing else s4.plan.phase } }
      else solverDone s4 slot
    settleRuns (startNext s5)

def execSolverRunEnd (clk slot : Nat) (s : State) : Host.Outcome State Fault Refusal := .next (runEnd (begin clk s) slot)

/-- An uncorrectable error of the array's SRAM isolates its controller, and a run in progress ends with SOLVER_ISOLATED (R169). -/
def execSolverSramUncorrectable (clk element : Nat) (s : State) : Host.Outcome State Fault Refusal :=
  let s1 := begin clk s
  .next (runsIsolated (isolate s1 1 4 element))

end Sys2Proof.Machine
end

