-- ==== Sys2Proof/Machine/Planner.lean ====
section
/-! DEFINITION. Cell planning (07_cell_planning.md R146 to R165): the snapshot, the posting, the commit test and what a period ends with. -/

namespace Sys2Proof.Machine

def withPlan (s : State) (f : PlanState → PlanState) : State := { s with plan := f s.plan }

/-! ### Results (R159) -/

/-- A value of an object as the snapshot of the period has it (R165). -/
def planValue (s : State) (cls inst mem : Nat) : Nat := ob ((s.plan.snapshot.map (·.objs)).getD s.objs) cls inst mem

/-- The period ends with a failure: codes 2 to 9. -/
def planFails (s : State) (code : Nat) : State :=
  let run := satNat 16 (s.plan.failRun + 1)
  let s1 := bumpAt (bump s 0x30 0 0x13) 0x30 0 0x14 code
  let s2 := withPlan s1 (fun p => { p with lastResult := code, failRun := run, phase := .ended })
  let s3 := trace (log s2 .event 0x0020 code 0) 1 0x0101 code s2.plan.lastSeq
  if planValue s 0x30 0 0x16 ≤ run && !s3.plan.alarmed then
    withPlan (log s3 .alarm 0x0021 run 0) (fun p => { p with alarmed := true })
  else s3

/-- The period ends with code 0 or 1: its plan takes effect. [DEDUCED, log 153] -/
def planSucceeds (s : State) : State :=
  let code := s.plan.committedCode
  trace (withPlan (bump s 0x30 0 0x12) (fun p => { p with lastResult := code, failRun := 0, alarmed := false })) 1 0x0101 code s.plan.lastSeq

/-! ### The snapshot (R149, R153, R156, R157, R162, R163) -/

/-- Speed scale in force of an arm, in 1/256. -/
def scaleOf (s : State) (a : Nat) : Nat := (nth {} s.sep.results a).scale

/-- Plan that the arm will follow at a plan time (R148). -/
def planAt (p : ArmPlan) (θ : Nat) : Option PlanRecord :=
  match p.pending.find? (fun q => decide (q.plan.origin ≤ θ)) with
  | some q => some q.plan
  | none => p.following

/-- Capsule nearest to a person in the last separation step, with that person. -/
def nearestOf (s : State) (a : Nat) : Option (Nat × PersonSlot) :=
  let r := nth ({} : ArmResult) s.sep.results a
  if 96 ≤ r.capsule then none else (nth none s.sep.latch.persons r.person).map (fun p => (r.capsule, p))

/-- What an arm contributes to a snapshot; none for an arm that is held and does not stand yet. An arm that moves by a basic-level move, stands
after one or has stopped is pinned, and the commit test passes it over (R220). -/
def armSnapshot (s : State) (a : Nat) : Option ArmSnapshot :=
  let m := armMot s a
  let p := armPlan s a
  let σ := scaleOf s a
  let θ0 := (p.theta + freeRound (dMul (dRatio σ 256) (dOfNat (periodNs s.objs)))) % 2 ^ 64
  let here : List (Int × F64 × F64) := (List.range 8).map (fun j => ((chan s (a * 8 + j)).pos, 0, 0))
  let exempt := !(m.source = .plan || m.source = .stand)
  let held := armHeld s a
  let plan := if held || exempt then none else planAt p θ0
  if held && !armStands s a then none
  else
    some { arm := a, origin := θ0, sigma := σ, pinned := held || exempt, exempt := exempt, vlim := (nth {} s.sep.results a).vlim
           free := (m.source = .move && !jointsBusy s a) || m.source = .stopped
           look := if plan.isSome then p.look else none
           near := nearestOf s a
           knot0 := match plan with
             | some r => (List.range 8).map (fun j => if jointPresent s.objs (a * 8 + j) then planSample r j θ0 else (0, 0, 0))
             | none => here }

/-- Positions of knot 0 in joint units as binary32. [DESIGN CHOICE, log 52] -/
def knotUnits (s : State) (a : Nat) (k : List (Int × F64 × F64)) : List F32 :=
  (List.range 8).map (fun j => dToF32 (toUnit s.objs (a * 8 + j) (q32ToD (nth (0, 0, 0) k j).1)))

/-- Waypoints of a request in plan time from a start. -/
def waypointsFrom (θ id : Nat) : List (Nat × List F32) → List Waypoint
  | [] => []
  | (dt, q) :: rest => { theta := θ + dt * 1000, q := q, pathId := id } :: waypointsFrom (θ + dt * 1000) id rest

/-- A path request enters the queue of its arm (R162, R163). -/
def takePath (snap : Snapshot) (s : State) (w : PathWait) : State :=
  let p := armPlan s w.arm
  let fresh := w.replace || p.path.isEmpty
  let sn := snap.arms.find? (fun a => a.arm = w.arm)
  let θ0 := (sn.map (·.origin)).getD (p.theta + periodNs s.objs)
  let q0 := match sn with
    | some a => knotUnits s w.arm a.knot0
    | none => knotUnits s w.arm ((List.range 8).map (fun j => ((chan s (w.arm * 8 + j)).pos, 0, 0)))
  let from_ := if fresh then θ0 else (p.path.getLast?.map (·.theta)).getD θ0
  let pts := waypointsFrom from_ w.pathId w.points
  let s1 := setArmPlan s w.arm (fun p => { p with
    path := if fresh then pts else p.path ++ pts, pathStart := if fresh then (θ0, q0) else p.pathStart, pathId := if fresh then w.pathId else p.pathId })
  complete s1 w.origin stOk (leBytes 4 w.pathId ++ zeros 4 ++ leBytes 8 ((pts.head?.map (·.theta)).getD θ0))

/-- The snapshot at T. [DEDUCED, log 150] -/
def plannerSnapshot (s : State) : State :=
  let T := tickStart s
  let arms := (plannedArms s.objs).filterMap (armSnapshot s)
  let snap : Snapshot := { time := T, mode := s.mode.mode, arms := arms, leases := s.piste.passRows, objs := s.objs }
  let s1 := (List.range 8).foldl (fun s a => if armPresent s.objs a then setArmPlan s a (fun p => { p with sigma := scaleOf s a }) else s) s
  let due := s1.plan.waits.filter (fun w => decide (w.at_ < T))
  let s2 := due.foldl (takePath snap) (withPlan s1 (fun p => { p with waits := p.waits.filter (fun w => !decide (w.at_ < T)) }))
  withPlan s2 (fun p => { p with
    snapshot := some snap, periodStart := T, phase := .posting })

/-- The state is that of the tick start: the object writes due there have taken effect, and no pass nor combination of the tick has run, so
that leases, scales and plan times are as the tick before left them (R156). -/
def atTickStart (s : State) : Bool :=
  let t := some s.herd.tick
  !s.writes.any (·.due) && s.piste.passTick != t && s.prof.passTick != t && s.sep.doneTick != t

/-- PLANNER_SNAPSHOT (R156, R157): one at a period start, in COMMISSION or RUN outside a transition. -/
def execPlannerSnapshot (clk : Nat) (s : State) : Host.Outcome State Fault Refusal :=
  let s1 := begin clk s
  .next (if s1.herd.running && drives s1 && domainOn s1 7 && periodAt s1 (tickStart s1) && s1.plan.periodStart != tickStart s1 && atTickStart s1 &&
      (s1.mode.mode = .commission || s1.mode.mode = .run) && modeTarget s1 = s1.mode.mode then plannerSnapshot s1 else s1)

/-! ### Posting (R155, R178, R180) -/

/-- The planner's numeric entries go to its slot and the solve starts; NO_SOLVER where the structure is not resident. [DESIGN CHOICE, log
52] -/
def plannerPost (s : State) : State :=
  let i := s.plan.slot
  match s.plan.snapshot with
  | none => planFails s 9
  | some snap =>
    if !s.plan.resident || solverIsolated s || !domainOn s 5 || (slotOf s i).load != .resident then planFails s 9
    else
      let s1 := setSlot s i (fun g => { g with values := problemValues s snap g.values })
      let s2 := withSolver s1 (fun v => { v with current := v.current.filter (fun r => !r.planner) })
      startPlanner (withPlan s2 (fun p => { p with phase := .solving })) i (s.plan.periodStart + ob snap.objs 0x30 0 2 * 1000)

def execPlannerPost (clk : Nat) (s : State) : Host.Outcome State Fault Refusal :=
  let s1 := begin clk s
  .next (if s1.plan.phase = .posting then plannerPost s1 else s1)

/-! ### The commit test (R158, R160, R161) -/

/-- Constant-jerk segment from a state in counts with jerk u in counts/s³ (R160). -/
def jerkSegment (kind dur : Nat) (st : Int × F64 × F64) (u : F64) : Segment :=
  { durationNs := dur, kind := kind, c0 := st.1, c1 := st.2.1, c2 := dHalf st.2.2, c3 := dDiv u (dOfInt 6) }

/-- Active segment and tail of a joint from knot 0 and the three jerks. -/
def jointSegments (P τ : Nat) (k0 : Int × F64 × F64) (u0 u1 u2 : F64) : List Segment :=
  let a := jerkSegment 0 P k0 u0
  let b := jerkSegment 1 τ (segSample a P) u1
  let c := jerkSegment 2 τ (segSample b τ) u2
  [a, b, c]

/-- Times inside a segment, in s, at which its velocity or its acceleration is 0: the interior extrema of test 3. -/
def segExtrema (g : Segment) : List F64 :=
  let a := dTwice g.c2
  let u := dMul (dOfInt 6) g.c3
  let len := nsToS g.durationNs
  let disc := dSub (dMul a a) (dTwice (dMul u g.c1))
  let roots :=
    if dEq u 0 then (if dEq a 0 then [] else [dDiv (dNeg g.c1) a])
    else dDiv (dNeg a) u :: (if dLt disc 0 then [] else [dDiv (dSub (dNeg a) (dSqrt disc)) u, dDiv (dAdd (dNeg a) (dSqrt disc)) u])
  roots.filter (fun x => dLt 0 x && dLt x len)

/-- Test 3 for one segment. -/
def segWithin (objs : List (Nat × Nat)) (ch : Nat) (lim : Limits) (g : Segment) : Bool :=
  (0 :: nsToS g.durationNs :: segExtrema g).all (fun x =>
    insideSoft objs ch (dAdd (q32ToD g.c0) (hornerPos g x)) && dLe (dAbs (hornerVel g x)) lim.v && dLe (dAbs (hornerAcc g x)) lim.a)

/-- |v| and |a| at the tail end. -/
def tailAtRest (lim : Limits) (gs : List Segment) : Bool :=
  match gs.getLast? with
  | none => true
  | some g =>
    let e := segSample g g.durationNs
    let eps := dRatio 1 1000000
    dLe (dAbs e.2.1) (dMul eps lim.v) && dLe (dAbs e.2.2) (dMul eps lim.a)

/-- Check points of an arm's plan, as plan time from the origin (R158 test 4). -/
def checkPoints (objs : List (Nat × Nat)) (a : Nat) : List Nat :=
  let P := periodNs objs
  let tail := ob objs 0x30 (0x10 + a) 0 * 1000000
  let n := ob objs 0x30 0 7
  (List.range 4).map (fun i => (i + 1) * P / 4) ++ (List.range n).map (fun i => P + (i + 1) * tail / n)

/-- Joint values and rates of a plan at θ. -/
def recordAt (s : State) (a : Nat) (r : PlanRecord) (θ : Nat) : List F64 × List F64 :=
  let rows := (List.range 8).map (fun j =>
    let ch := a * 8 + j
    if jointPresent s.objs ch then
      let p := planSample r j θ
      (planJoint s.objs a j (toUnit s.objs ch (q32ToD p.1)), toUnit s.objs ch p.2.1)
    else ((0 : F64), (0 : F64)))
  (rows.map (·.1), rows.map (·.2))

/-- How an arm holds a zone from t_c to the end asked for (R158 test 5): as its home (none), or by a lease. -/
def heldBy (s : State) (a z tc until_ : Nat) : Option (Option Nat) :=
  if s.piste.homesHeld && homeZone s.objs a = some z then some none
  else ((armLeases s a z).find? (fun l => decide (l.start ≤ tc) && decide (until_ ≤ l.finish))).map (fun l => some l.id)

/-- Tests 4 and 5 at one check point: the zones used with the leases that hold them, or none where a capsule finds no zone. -/
def zonesUsed (s : State) (a : Nat) (q : List F64) (tc until_ : Nat) : Option (List (Nat × Option Nat)) :=
  let pose := armPose num64 s.objs a q
  (armCapsules s.objs a).foldl (fun acc c =>
    match acc with
    | none => none
    | some zs =>
      match (zonesAround s.objs pose c.2).findSome? (fun z => (heldBy s a z tc until_).map (fun l => (z, l))) with
      | some r => some (if zs.contains r then zs else zs ++ [r])
      | none => none) (some [])

/-- An arm's part of a plan that has passed: its record, its lease set, and the leases that tests 4 and 5 used. -/
structure ArmPassed where
  arm : ArmSnapshot
  record : PlanRecord
  needs : List LeaseNeed
  leases : List Nat
  look : Option LookAhead

/-- Segments of an arm's joints from knot 0 and a solution, absent joints zero (R160, R161). -/
def armSegments (objs : List (Nat × Nat)) (sn : ArmSnapshot) (x : List F64) : List (List Segment) :=
  let K := knotCount objs
  let P := periodNs objs
  let τ := ob objs 0x30 (0x10 + sn.arm) 0 * 500000
  (List.range 8).map (fun j =>
    let ch := sn.arm * 8 + j
    let u := fun (k : Nat) => if sn.pinned then 0 else toCounts objs ch (variableOf objs x ch (jerkVar K k))
    if jointPresent objs ch then jointSegments P τ (nth (0, 0, 0) sn.knot0 j) (u 0) (u K) (u (K + 1)) else [{}, {}, {}])

/-- An arm that the commit test passes over: it stands, in the zones it holds (R220). -/
def standingArm (s : State) (E : Nat) (sn : ArmSnapshot) (r : PlanRecord) : ArmPassed :=
  let a := sn.arm
  let pose := armPose num64 s.objs a (recordAt s a r sn.origin).1
  let zs := ((armCapsules s.objs a).filterMap (fun c => (zonesAround s.objs pose c.2).find? (fun z => holdsThrough s a z (now s) E))).eraseDups
  { arm := sn, record := r, look := none
    needs := if sn.free then (sortBy (fun x y => decide (x < y)) zs).map (fun z => { zone := z, first := sn.origin, untilTheta := none }) else []
    leases := if sn.free then (s.piste.leases.filter (fun l => l.arm = a && zs.contains l.zone)).map (·.id) else [] }

/-- An arm's part of a plan; none where tests 3 to 6 fail. The objects of `s` are those of the snapshot. -/
def testArm (s : State) (E seq code : Nat) (x : List F64) (sn : ArmSnapshot) : Option ArmPassed :=
  let a := sn.arm
  let P := periodNs s.objs
  let tail := ov s 0x30 (0x10 + a) 0 * 1000000
  let joints := armSegments s.objs sn x
  let tStop := E + predicted (if sn.sigma = 0 then 256 else sn.sigma) (P + tail)
  let margin := ov s 0x30 0 9 * 1000000
  let rec_ : PlanRecord := { seq := seq, arm := a, result := code, origin := sn.origin, effect := E, stop := tStop % 2 ^ 64, joints := joints }
  if sn.exempt then some (standingArm s E sn rec_)
  else if sn.sigma = 0 then none
  else
    let present := (List.range 8).filter (fun j => jointPresent s.objs (a * 8 + j))
    let t3 := present.all (fun j =>
      let lim := chanLimits s.objs (a * 8 + j)
      (nth [] joints j).all (segWithin s.objs (a * 8 + j) lim) && tailAtRest lim (nth [] joints j))
    let pts := (checkPoints s.objs a).map (fun x => (sn.origin + x, E + predicted sn.sigma x, recordAt s a rec_ (sn.origin + x)))
    let used := pts.foldl (fun (acc : Option (List (Nat × List (Nat × Option Nat)))) p =>
      match acc with
      | none => none
      | some l => (zonesUsed s a p.2.2.1 p.2.1 (tStop + margin)).map (fun zs => l ++ [(p.1, zs)])) (some [])
    let slow := pts.all (fun p => (fastAt s a p.2.2.1 p.2.2.2).isNone)
    match used with
    | some l =>
      let set := leaseSet sn.origin (l.map (fun p => (p.1, (p.2.map (·.1)).eraseDups)))
      if t3 && slow && decide (set.length ≤ 32) then
        some { arm := sn, record := rec_, needs := set, leases := (l.flatMap (fun p => p.2.filterMap (·.2))).eraseDups, look := some (lookAheadOf s.objs sn x) }
      else none
    | none => none

/-- Result code of a solver status, before tests 2 to 6 (Table 8-7, R158 test 1). -/
def statusCode (s : State) (r : SolverResult) : Nat :=
  match r.code with
  | 0 => 0
  | 1 => if dLe r.rPrimal (BitVec.ofNat 64 (planValue s 0x30 0 0x0B)) then 1 else 5
  | 2 => 5
  | 3 => 2
  | 4 => 3
  | 5 => 3
  | 6 => 4
  | _ => 9

/-! ### Leases asked for after a commit (R153, R164) -/

/-- Zones the look-ahead assigns under the second or third kind: zone, predicted entry and exit. -/
def wantedZones (s : State) (snap : Snapshot) (E : Nat) (sn : ArmSnapshot) (look : LookAhead) : List (Nat × Nat × Nat) :=
  let objs := snap.objs
  let a := sn.arm
  let K := knotCount objs
  let at_ := fun (k : Nat) => E + predicted sn.sigma (knotTime objs a k)
  let hits := (List.range K).flatMap (fun k0 =>
    let k := k0 + 1
    let pose := (poseAt objs a (look.rows.map (fun r => (nth (0, 0, 0, 0) r k).1))).1
    ((endCentres objs a).filterMap (fun c => assignZone snap (zonesConflict s) a (at_ k) (linkPoint pose c.1 c.2.1))).filterMap (fun r =>
      if 2 ≤ r.2 then some (r.1, k) else none))
  (hits.map (·.1)).eraseDups.map (fun z =>
    let ks := (hits.filter (fun r => r.1 = z)).map (·.2)
    (z, at_ (ks.headD 1), at_ (min K (maxNat ks + 1))))

/-- What the planner posts for one arm after a commit (R164). -/
def askLeases (snap : Snapshot) (E : Nat) (s : State) (r : ArmPassed) : State :=
  let a := r.arm.arm
  let P := periodNs snap.objs
  let margin := ob snap.objs 0x30 0 9 * 1000000
  let s1 := dropPlanner s a
  let s2 : State := match r.look with
    | none => s1
    | some look => (wantedZones s1 snap E r.arm look).foldl (fun (s : State) (w : Nat × Nat × Nat) =>
        let st := w.2.1 - P
        plannerRequest s a w.1 (ob snap.objs 0x30 (0x10 + a) 6) st (min (w.2.2 + margin) (st + 2000000000))) s1
  let goal := r.record.stop + 2 * P + margin
  let ends := (s2.piste.leases.filter (fun l => r.leases.contains l.id && decide (l.finish < goal))).map (·.id)
  ends.foldl (fun s id => plannerExtension s a id goal) s2

/-- Everything a commit does (R30, R164, R208); its period ends with its code when the plan takes effect. -/
def planCommits (s : State) (snap : Snapshot) (E seq code : Nat) (rs : List ArmPassed) : State :=
  let s1 := withPlan s (fun p => { p with
    committed := some (snap.mode, rs.map (·.record)), committedFree := (rs.filter (fun r => r.arm.free)).map (·.arm.arm), committedCode := code
    lastSeq := seq, phase := .ended })
  let s2 := withPiste s1 (fun q => { q with nextSets := (List.range 8).map (fun a =>
    match rs.find? (fun r => r.arm.arm = a) with
    | some r => r.needs
    | none => nth [] q.nextSets a) })
  rs.foldl (askLeases snap E) (rs.foldl (fun s r => setArmPlan s r.arm.arm (fun p => { p with look := r.look })) s2)

/-- The commit test (R158). -/
def commitTest (s : State) : State :=
  match s.plan.snapshot with
  | none => planFails s 9
  | some snap =>
    let g := slotOf s s.plan.slot
    let code := statusCode s g.result
    if 2 ≤ code then planFails s code
    else if !(iterateList g.iterate).all dFinite then planFails s 3
    else
      let E := snap.time + periodNs snap.objs
      let seq := (s.plan.lastSeq + 1) % 2 ^ 32
      let rs := snap.arms.map (testArm { s with objs := snap.objs } E seq code g.iterate.x)
      if rs.all (·.isSome) then planCommits s snap E seq code (rs.filterMap id) else planFails s 6

/-- The cut-off has come: the arbiter pass of the period's last tick (R155). -/
def cutOff (s : State) : Bool := periodAt s (nextTick s) && decide (passStart s ≤ now s)

/-- COMMIT_TEST (R158): runs once the solve has ended. -/
def execCommitTest (clk : Nat) (s : State) : Host.Outcome State Fault Refusal :=
  let s1 := begin clk s
  .next (if s1.plan.phase = .testing then (if cutOff s1 then planFails s1 7 else commitTest s1) else s1)

/-- COMMIT_CUTOFF (R155): what has not been committed by then is LATE. -/
def execCommitCutoff (clk : Nat) (s : State) : Host.Outcome State Fault Refusal :=
  let s1 := begin clk s
  .next (if cutOff s1 && (s1.plan.phase = .posting || s1.plan.phase = .solving || s1.plan.phase = .testing) then planFails s1 7 else s1)

/-! ### PATH_REQUEST (R162) -/

/-- Waypoints of the arguments. -/
def pathPoints (a : Bytes) (n : Nat) : List (Nat × List F32) :=
  (List.range n).map (fun i => (le a (8 + 36 * i) 4, (List.range 8).map (fun j => BitVec.ofNat 32 (le a (12 + 36 * i + 4 * j) 4))))

/-- Queue level of an arm with the requests that wait. -/
def pathLevel (s : State) (arm : Nat) : Nat :=
  s.plan.waits.foldl (fun n w => if w.arm = arm then (if w.replace then w.points.length else n + w.points.length) else n) (armPlan s arm).path.length

/-- The positions of present joints lie inside their soft limits. -/
def pointOk (s : State) (arm : Nat) (q : List F32) : Bool :=
  (List.range 8).all (fun j =>
    !jointPresent s.objs (arm * 8 + j) || insideSoft s.objs (arm * 8 + j) (toCounts s.objs (arm * 8 + j) (dOfF32 (nth 0 q j))))

def pathRequest (e : Entry) (_ : Transport) (s : State) : State :=
  let a := entryArgs e
  let o := originOf e
  let arm := le a 0 1
  let rep := bit (le a 1 1) 0
  let n := le a 2 2
  let pts := pathPoints a n
  if !(plannedArms s.objs).contains arm || n = 0 || 256 < n || (pts.drop 1).any (fun p => p.1 = 0) || !pts.all (fun p => pointOk s arm p.2) then
    complete s o stBadArgument
  else if 1024 < (if rep then 0 else pathLevel s arm) + n then complete s o stBusy
  else withPlan s (fun p => { p with
    waits := p.waits ++ [{ origin := o, arm := arm, replace := rep, pathId := le a 4 4, at_ := now s, points := pts }] })

def execPathRequest (clk : Nat) (e : Entry) (s : State) : Host.Outcome State Fault Refusal :=
  .next (command { opcode := 0x0046, priv := true, modes := [.run] } (fun _ => true)
    (fun e => decide (8 ≤ (entryArgs e).length) && (entryArgs e).length == 8 + 36 * le (entryArgs e) 2 2) pathRequest clk e s)

end Sys2Proof.Machine
end

