-- ==== Sys2Proof/Machine/Sched.lean ====
section
/-! DEFINITION. The task scheduler and the matching store (12_task_scheduler.md R256 to R269). -/

namespace Sys2Proof.Machine

def withSched (s : State) (f : SchedState → SchedState) : State := { s with sched := f s.sched }

/-! ### Descriptors (R254, R256, R259, R300) -/

/-- Dimensions of a loop (Table 11-5): N_STATE, N_IN, N_OUT, N_REF, N_FF, POS_STATES. `off` is 0x40 for the inner and 0x60 for the outer
loop. -/
structure Dims where
  n : Nat
  m : Nat
  p : Nat
  q : Nat
  g : Nat
  pos : Nat

def loopDims (objs : List (Nat × Nat)) (ch off : Nat) : Dims :=
  let f := fun o => obField objs 0x21 ch (off + 1) o 1
  { n := f 0, m := f 1, p := f 2, q := f 3, g := f 4, pos := f 5 }

/-- t_out and t_upd (R254). -/
def timeOut (d : Dims) : Nat := 348 + 2 * (d.m * d.n + d.m * d.q + d.m * d.g)
def timeUpd (d : Dims) : Nat := 60 + 2 * (d.n * d.n + 2 * d.n * d.m + 2 * d.n * d.p)

/-- `loop.wcet_ns`. -/
def loopWcet (objs : List (Nat × Nat)) (ch off : Nat) : Nat := timeOut (loopDims objs ch off) + timeUpd (loopDims objs ch off)

/-- Period in ticks of a loop: D, or D × G. -/
def loopRate (objs : List (Nat × Nat)) (ch off : Nat) : Nat :=
  let d := ob objs 0x21 ch 0x42
  if off = 0x40 then d else d * ob objs 0x21 ch 0x62

/-- Descriptor of an enabled loop. -/
def loopDescriptor (objs : List (Nat × Nat)) (ch off : Nat) : Option Descriptor :=
  if ob objs 0x21 ch off = 1 then
    some { kind := if off = 0x40 then 1 else 2, priority := if off = 0x40 then 6 else 5, target := ob objs 0x21 ch (off + 4)
           rate := loopRate objs ch off, phase := ob objs 0x21 ch (off + 3), wcet := loopWcet objs ch off
           operands := [(0x1000 + ch, 1), (0x2000 + ch, 1)] ++ (if off = 0x40 && ob objs 0x21 ch 0x60 = 1 then [(0x3000 + ch, 2)] else []) }
  else none

/-- Descriptor of the separation kinematics of an arm (R300). The spec gives firmware's housekeeping tasks no period and no work: the model
has none. [DESIGN CHOICE, log 156] -/
def kinDescriptor (objs : List (Nat × Nat)) : Descriptor :=
  { kind := 3, priority := 4, target := 17, timed := true, rate := 1000000 / otick objs, phase := 0, wcet := 960, offset := ob objs 0x50 0x80 8 }

/-- The descriptors firmware builds at image activation: the loops by channel, then the kinematics by arm. -/
def buildDescriptors (objs : List (Nat × Nat)) : List Descriptor :=
  (List.range 72).flatMap (fun ch => (loopDescriptor objs ch 0x40).toList ++ (loopDescriptor objs ch 0x60).toList) ++
    (sepArms objs).map (fun _ => kinDescriptor objs)

/-! ### Admission (R268) -/

/-- Charge of the 256 ticks of one core. -/
def addCharge (d : Descriptor) (load : List Nat) : List Nat := (indexed load).map (fun r => if r.1 % d.rate = d.phase then r.2 + d.wcet else r.2)

/-- The member of a group whose charge so far is lowest in its worst tick; the lower core number wins a tie. -/
def lightest (loads : List (List Nat)) (lo : Nat) : Nat :=
  (List.range 8).foldl (fun best i => if maxNat (nth [] loads (lo + i)) < maxNat (nth [] loads best) then lo + i else best) lo

/-- The charge of every core: core descriptors first, then the group descriptors, longest first. -/
def coreLoads (ds : List Descriptor) : List (List Nat) :=
  let base := ds.foldl (fun l d => if d.target < 16 then upd l d.target (addCharge d) else l) (List.replicate 16 (List.replicate 256 0))
  let groups := sortBy (fun (a b : Nat × Descriptor) => decide (b.2.wcet < a.2.wcet) || (a.2.wcet = b.2.wcet && decide (a.1 < b.1)))
    ((indexed ds).filter (fun d => decide (16 ≤ d.2.target)))
  groups.foldl (fun l d => upd l (lightest l (if d.2.target = 16 then 0 else 8)) (addCharge d.2)) base

/-- REQUIRED_NS of every core, and AVAILABLE_NS. -/
def coreCharges (ds : List Descriptor) : List Nat := (coreLoads ds).map maxNat
def coreBudget (objs : List (Nat × Nat)) : Nat := otick objs * (1000 - ob objs 0x10 1 0) / 1000

/-! ### When loops run (R239, R266) -/

/-- Tick index of R239 of the tick with number k, none before the image's activation. -/
def tickIndex (s : State) (k : Nat) : Option Nat :=
  let first := s.image.activation / tickNs s
  if imageActive s && decide (first ≤ k) then some (k - first) else none

/-- A descriptor executes in a tick (R256). -/
def executes (s : State) (d : Descriptor) (tag : Nat) : Bool := (tickIndex s tag).any (fun i => i % d.rate == d.phase)

/-- The scheduler can take operands: PD4 on, the block neither isolated nor gated, loops running. -/
def schedUp (s : State) : Bool := imageActive s && domainOn s 7 && domainOn s 4 && !isolated s 0 17 && !gated s 0 17

/-- Loops stop, or an image is activated: the store, the ready lists and the delay lists are emptied (R266), and the next execution of
every loop is its first (R251). -/
def loopsStop (s : State) : State :=
  let s1 := withSched s (fun c => { c with
    store := [], soft := [], held := [], posts := [], lastTag := [], lastRun := [], kinEnds := [], cores := c.cores.map (fun k => { k with running := none }) })
  { s1 with ctl := { s1.ctl with loops := s1.ctl.loops.map (fun l => (l.1, { l.2 with ran := false })) } }

/-! ### The matching store (R260, R261, R265) -/

/-- Entries of the store. -/
def storeSize : Nat := 4096

/-- An operand a task run lacks before it is ready. -/
def lacks (d : Descriptor) (x : Instance) : Bool := d.operands.any (fun o => o.2 = 1 && !x.operands.any (fun p => p.1 = o.1))

/-- Marks a task run ready once nothing is lacking. -/
def settle (d : Descriptor) (t : Nat) (x : Instance) : Instance :=
  if x.ready.isNone && x.due && !lacks d x then { x with ready := some t } else x

/-- The entry of a descriptor and a tag. -/
def entryOf (s : State) (i tag : Nat) : Option Instance := s.sched.store.find? (fun x => x.descriptor = i && x.tag = tag)

/-- Changes the entry of a descriptor and a tag. -/
def updEntry (s : State) (i tag : Nat) (f : Instance → Instance) : State :=
  withSched s (fun c => { c with store := c.store.map (fun x => if x.descriptor = i && x.tag = tag then f x else x) })

/-- Allocates an entry. -/
def allocate (s : State) (x : Instance) : State :=
  withSched s (fun c => { c with store := c.store ++ [x], storeMax := max c.storeMax (c.store.length + 1) })

/-- Depth of a core's own ready lists. -/
def queueDepth (s : State) (core : Nat) : Nat :=
  (s.sched.store.filter (fun x => x.ready.isSome && (nth {} s.sched.descriptors x.descriptor).target = core)).length

/-- Keeps the largest depth of every core's ready lists (R267). -/
def noteDepths (s : State) : State :=
  withSched s (fun c => { c with cores := (indexed c.cores).map (fun k => { k.2 with queueMax := max k.2.queueMax (queueDepth s k.1) }) })

/-- One operand is entered for one descriptor. -/
def enterOperand (p : Post) (s : State) (i : Nat) : State :=
  let d := nth {} s.sched.descriptors i
  match entryOf s i p.tag with
  | some x =>
    let had := x.operands.any (fun o => o.1 = p.source)
    let s1 := updEntry s i p.tag (fun x =>
      settle d (now s) { x with operands := x.operands.filter (fun o => o.1 != p.source) ++ [(p.source, p.value, p.age)] })
    if had then bump s1 0x10 1 0x0B else s1
  | none => allocate s (settle d (now s) { descriptor := i, tag := p.tag, operands := [(p.source, p.value, p.age)], due := !d.timed })

/-- Descriptors an operand is posted to: those that declare its source and execute in its tag. A soft operand whose task run has started
allocates nothing: it is held for the next task run (R261). -/
def takers (s : State) (p : Post) : List Nat :=
  ((indexed s.sched.descriptors).filter (fun d =>
    d.2.operands.any (fun o => o.1 = p.source && (o.2 = 1 || !s.sched.lastTag.any (fun l => l.1 = d.1 && decide (p.tag ≤ l.2)))) &&
      executes s d.2 p.tag)).map (·.1)

/-- The newest values of a soft source are kept for the instances that follow (R261). -/
def keepSoft (s : State) (p : Post) : State :=
  if s.sched.descriptors.any (fun d => d.operands.any (fun o => o.1 = p.source && o.2 = 2)) then
    withSched s (fun c => { c with soft := c.soft.filter (fun x => x.1 != p.source || (x.2.1 != p.tag && decide (p.tag ≤ x.2.1 + 512))) ++ [(p.source, p.tag, p.value, p.age)] })
  else s

/-- Entries an operand would have to allocate. [DEDUCED, log 67] -/
def needsRoom (s : State) (p : Post) : Bool := (takers s p).any (fun i => (entryOf s i p.tag).isNone) && decide (storeSize ≤ s.sched.store.length)

/-- A source from the network: its slot buffer keeps the frame and retries (R265). -/
def fromNet (source : Nat) : Bool := source / 0x1000 = 1 || source / 0x1000 = 4 || source / 0x1000 = 5 || source / 0x1000 = 6

/-- An operand is written to the store. -/
def writeOperand (s : State) (p : Post) : State :=
  noteDepths ((takers s p).foldl (enterOperand p) (keepSoft s p))

/-- An operand reaches the scheduler: written, or held back by a full store (R265). [DEDUCED, log 67] -/
def takePost (s : State) (p : Post) : State :=
  if !schedUp s then s
  else if needsRoom s p then
    let keep := s.sched.held.filter (fun h => !(fromNet p.source && h.1 = p.source))
    bump (withSched s (fun c => { c with held := keep ++ [(p.source, p.tag, p.value, p.age, now s)] })) 0x10 1 (if fromNet p.source then 9 else 7)
  else writeOperand s p

/-- Order of writes: by time, and within one clock by ascending source. -/
def postBefore (a b : Post) : Bool := decide (a.at_ < b.at_) || (a.at_ = b.at_ && decide (a.source < b.source))

/-- OPERAND_POST (R260): the operand next in order is written, once it has been posted. -/
def execOperandPost (clk : Nat) (s : State) : Host.Outcome State Fault Refusal :=
  let s1 := begin clk s
  .next (match sortBy postBefore s1.sched.posts with
    | [] => s1
    | p :: rest => if p.at_ ≤ now s1 then takePost (withSched s1 (fun c => { c with posts := rest })) p else s1)

/-- BACKPRESSURE_RELEASE (R265): an entry is free and the operand held back longest proceeds. -/
def execBackpressureRelease (clk : Nat) (s : State) : Host.Outcome State Fault Refusal :=
  let s1 := begin clk s
  .next (match s1.sched.held with
    | [] => s1
    | h :: rest =>
      let p : Post := { source := h.1, tag := h.2.1, value := h.2.2.1, age := h.2.2.2.1, at_ := h.2.2.2.2 }
      if needsRoom s1 p then s1
      else
        let s2 := writeOperand (withSched s1 (fun c => { c with held := rest })) p
        if fromNet p.source then s2 else setOb s2 0x10 1 8 (max (ov s2 0x10 1 8) (satNat 32 (now s1 - p.at_))))

/-! ### Delay lists (R264) -/

/-- TIMED descriptors that fall due in the tick in progress up to now and have not been released: due time and index. -/
def dueTimed (s : State) : List (Nat × Nat) :=
  (indexed s.sched.descriptors).filterMap (fun d =>
    let t := tickStart s + d.2.offset
    let done := s.sched.lastTag.any (fun l => l.1 = d.1 && decide (s.herd.tick ≤ l.2)) || (entryOf s d.1 s.herd.tick).any (·.due)
    if d.2.timed && executes s d.2 s.herd.tick && decide (t ≤ now s) && !done then some (t, d.1) else none)

/-- Order of a delay list: due time, priority, index. -/
def timedBefore (s : State) (a b : Nat × Nat) : Bool :=
  let pa := (nth {} s.sched.descriptors a.2).priority
  let pb := (nth {} s.sched.descriptors b.2).priority
  decide (a.1 < b.1) || (a.1 = b.1 && (decide (pb < pa) || (pa = pb && decide (a.2 < b.2))))

/-- One TIMED task run is released at its due time. -/
def releaseTimed (s : State) (r : Nat × Nat) : State :=
  let d := nth {} s.sched.descriptors r.2
  match entryOf s r.2 s.herd.tick with
  | some _ => updEntry s r.2 s.herd.tick (fun x => settle d (max r.1 (now s)) { x with due := true })
  | none =>
    if storeSize ≤ s.sched.store.length then bump s 0x10 1 7
    else allocate s (settle d r.1 { descriptor := r.2, tag := s.herd.tick, operands := [], due := true })

def execTimedDue (clk : Nat) (s : State) : Host.Outcome State Fault Refusal :=
  let s1 := begin clk s
  .next (if schedUp s1 then noteDepths ((sortBy (timedBefore s1) (dueTimed s1)).foldl releaseTimed s1) else s1)

/-! ### Dispatch (R262, R263, R267) -/

/-- A core that has no task in progress; core c is block c + 1 of the compute region. -/
def coreFree (s : State) (c : Nat) : Bool := !isolated s 0 (c + 1) && (nth {} s.sched.cores c).running.all (fun r => decide (r.finish ≤ now s))

/-- When a free core last ended a task. -/
def coreIdleSince (s : State) (c : Nat) : Nat := ((nth {} s.sched.cores c).running.map (·.finish)).getD 0

/-- A core may take instances of a target. [DESIGN CHOICE, log 68] -/
def serves (c target : Nat) : Bool := target = c || (target = 16 && c < 8) || (target = 17 && 8 ≤ c && c < 16)

/-- A task run that was ready before its predecessor ended starts on the core where that one ran (R263). -/
def staysOn (s : State) (c : Nat) (x : Instance) : Bool :=
  match s.sched.lastRun.find? (fun r => r.1 = x.descriptor) with
  | some r => r.2.1 = c || x.ready.any (fun t => decide (r.2.2 ≤ t))
  | none => true

/-- A task run that a free core may start now: ready, its predecessors started, and none of them still running elsewhere. An idle core
starts it 20 ns after it became ready. -/
def startable (s : State) (c : Nat) (x : Instance) : Bool :=
  let d := nth {} s.sched.descriptors x.descriptor
  let wait := fun (r : Nat) => if coreIdleSince s c ≤ r then r + 20 else r
  serves c d.target && staysOn s c x && x.ready.any (fun r => decide (wait r ≤ now s)) &&
    !s.sched.store.any (fun y => y.descriptor = x.descriptor && decide (y.tag < x.tag)) &&
    (List.range 16).all (fun k => k = c || (nth {} s.sched.cores k).running.all (fun r => r.inst.descriptor != x.descriptor || decide (r.finish ≤ now s)))

/-- Rank of two instances (R262). -/
def startsBefore (s : State) (x y : Instance) : Bool :=
  let px := (nth {} s.sched.descriptors x.descriptor).priority
  let py := (nth {} s.sched.descriptors y.descriptor).priority
  let rx := x.ready.getD 0
  let ry := y.ready.getD 0
  decide (py < px) || (px = py && (decide (rx < ry) || (rx = ry && decide (x.descriptor < y.descriptor))))

/-- The task run a free core takes. -/
def pickFor (s : State) (c : Nat) : Option Instance := (sortBy (startsBefore s) (s.sched.store.filter (startable s c))).head?

/-- A core of the same group with a lower number is free and has a task run to take: it chooses first. -/
def lowerFirst (s : State) (c : Nat) : Bool := (List.range c).any (fun k => k / 8 = c / 8 && coreFree s k && (pickFor s k).isSome)

/-- The value of a soft source that a task run takes: the newest with a tag not above its own (R261). -/
def softFor (s : State) (source tag : Nat) : Option (Nat × Operand × Nat) :=
  (s.sched.soft.filter (fun x => x.1 = source && decide (x.2.1 ≤ tag))).foldl (fun acc x =>
    match acc with
    | some (t, _, _) => if t < x.2.1 then some (x.2.1, x.2.2.1, x.2.2.2) else acc
    | none => some (x.2.1, x.2.2.1, x.2.2.2)) none

/-- First tick at or after k in which an outer result of a channel is due: the inner execution one period D after an outer execution
(R253). -/
def outerDue (s : State) (ch k : Nat) : Nat :=
  let objs := s.objs
  let d := loopRate objs ch 0x40
  let dg := loopRate objs ch 0x60
  let want := (ob objs 0x21 ch 0x63 + d) % dg
  match tickIndex s k with
  | some i => k + (want + dg - i % dg) % dg
  | none => s.image.activation / tickNs s + want

/-- Age of an outer result in tick n (R253): n − n_d + 1 from the first due execution it missed. -/
def outerAge (s : State) (ch n : Nat) (tag : Option Nat) : Nat :=
  let missed := match tag with
    | some t => t + loopRate s.objs ch 0x60
    | none => outerDue s ch (s.image.activation / tickNs s + 1)
  if missed ≤ n then min 255 (n - missed + 1) else 0

/-- The soft operands of a task run as it starts. -/
def withSoft (s : State) (x : Instance) : Instance :=
  let d := nth {} s.sched.descriptors x.descriptor
  let soft := (d.operands.filter (fun o => o.2 = 2)).filterMap (fun o =>
    let v := softFor s o.1 x.tag
    let age := outerAge s (o.1 % 0x1000) x.tag (v.map (·.1))
    match v with
    | some r => some (o.1, r.2.1, age)
    | none => some (o.1, Operand.data [], age))
  { x with operands := x.operands.filter (fun o => d.operands.any (fun q => q.1 = o.1 && q.2 = 1)) ++ soft }

/-- The channel of a loop's descriptor. -/
def loopChannel (d : Descriptor) : Nat := ((d.operands.head?).map (fun o => o.1 % 0x1000)).getD 0

/-- Loop members of a channel as stored now. -/
def loopMembers (objs : List (Nat × Nat)) (ch : Nat) : List (Nat × Nat) := objs.filter (fun o => o.1 / 256 = 0x2100 + ch)

/-- A task run starts on a core: its entry is freed, and the wait and the busy time enter the core's window (R267). [DESIGN CHOICE, log 68]
-/
def startTask (s : State) (c : Nat) (x : Instance) : State :=
  let d := nth {} s.sched.descriptors x.descriptor
  let t := now s
  let wait := t - x.ready.getD t
  let kin := d.kind = 3 && d.priority = 4
  let r : Running := { inst := withSoft s x, start := t, finish := t + d.wcet, done := d.kind = 3
                       latched := if d.kind = 3 then [] else loopMembers s.objs (loopChannel d) }
  let stats := fun (w : CoreStats) =>
    { count := w.count + 1, waitMin := if w.count = 0 then wait else min w.waitMin wait, waitMax := max w.waitMax wait, waitSum := w.waitSum + wait
      busy := w.busy + d.wcet : CoreStats }
  let s1 := withSched s (fun q => { q with
    store := q.store.filter (fun y => !(y.descriptor = x.descriptor && y.tag = x.tag)), lastTag := tput q.lastTag x.descriptor x.tag, lastRun := tput q.lastRun x.descriptor (c, t + d.wcet)
    cores := upd q.cores c (fun k => { k with running := some r, window := stats k.window })
    kinEnds := if kin then q.kinEnds.filter (fun e => e.2.1 = x.tag) ++ [(x.descriptor, x.tag, t + d.wcet)] else q.kinEnds })
  bump s1 0x10 (0x10 + c) 7

/-- TASK_DISPATCH (R262): a free core starts the task run ranked first. -/
def execTaskDispatch (clk core : Nat) (s : State) : Host.Outcome State Fault Refusal :=
  let s1 := begin clk s
  .next (if core < 16 && schedUp s1 && coreFree s1 core && (nth {} s1.sched.cores core).running.all (·.done) && !lowerFirst s1 core then
      match pickFor s1 core with
      | some x => startTask s1 core x
      | none => s1
    else s1)

/-- MATCH_EXPIRED (R266): the first entry whose tag lies more than 16 ticks back is freed. -/
def execMatchExpired (clk : Nat) (s : State) : Host.Outcome State Fault Refusal :=
  let s1 := begin clk s
  .next (match s1.sched.store.find? (fun x => decide (x.tag + 16 < s1.herd.tick)) with
    | some x =>
      let s2 := withSched s1 (fun c => { c with store := c.store.filter (fun y => !(y.descriptor = x.descriptor && y.tag = x.tag)) })
      error (bump s2 0x10 1 0x0A) (errWord 1 0 17 0 false x.descriptor)
    | none => s1)

/-- Statistics windows are aligned to `cell.activation_time` and so end at tick starts: the window that ends is shown, and the part of a
task that reaches beyond it counts in the next (R267). -/
def rollWindow (s : State) : State :=
  let t := tickStart s
  let len := ov s 0x10 1 1 * 1000000
  let at0 := fun (x : Nat) => (x - s.image.activation) / len
  if imageActive s && at0 s.sched.windowStart != at0 t then
    withSched s (fun c => { c with
      windowStart := t, windowLen := t - c.windowStart
      cores := c.cores.map (fun k =>
        let rest := (k.running.map (fun r => r.finish - t)).getD 0
        { k with shown := { k.window with busy := k.window.busy - rest }, window := { busy := rest } }) })
  else s

/-- Image activation: the descriptors, the charges, and empty lists (R256, R266, R267). -/
def schedActivate (s : State) : State :=
  let ds := buildDescriptors s.objs
  let charges := coreCharges ds
  withSched (loopsStop s) (fun c => { c with
    descriptors := ds, windowStart := s.image.activation
    cores := (indexed c.cores).map (fun k => { k.2 with window := {}, shown := {}, charge := nth 0 charges k.1 }) })

end Sys2Proof.Machine
end

