-- ==== Sys2Proof/Machine/Loop.lean ====
section
/-! DEFINITION. The closed-loop control engine (11_control_engine.md R238 to R255) and the placing of its outputs (01_cell_architecture.md
R26, R27). -/

namespace Sys2Proof.Machine

/-! ### Downstream slots (R26, R110) -/

/-- Fields of a downstream slot entry (Table 5-8). -/
def downEntry (objs : List (Nat × Nat)) (k o n : Nat) : Nat := obField objs 0x70 0 3 (8 * k + o) n
def downNode (objs : List (Nat × Nat)) (k : Nat) : Nat := downEntry objs k 0 1
def downKind (objs : List (Nat × Nat)) (k : Nat) : Nat := downEntry objs k 1 1
def downFlags (objs : List (Nat × Nat)) (k : Nat) : Nat := downEntry objs k 2 1
def downBinding (objs : List (Nat × Nat)) (k : Nat) : Nat := downEntry objs k 4 2

/-- Assigned downstream static slots. -/
def downSlots (objs : List (Nat × Nat)) : List Nat := (List.range (ob objs 0x70 0 1)).filter (fun k => downNode objs k != 0)

/-- Action point of a static slot after its tick start, and the lead of the commit point of a frame the module sends (R110). -/
def slotAction (k : Nat) : Nat := 448 * k
def commitLead (tagged : Bool) : Nat := if tagged then 256 else 160

/-- Commit points of the channel's command slots in the tick in progress and the next that have not passed at t: slot and action point. -/
def openSlots (s : State) (ch t : Nat) : List (Nat × Nat) :=
  ((downSlots s.objs).filter (fun k => downBinding s.objs k = 0x8000 + ch)).flatMap (fun k =>
    ([tickStart s, nextTick s].map (fun t0 => (k, t0 + slotAction k))).filter (fun c => decide (t + commitLead (bit (downFlags s.objs k) 0) < c.2)))

/-- The slot an output takes (R26): the first one still open. -/
def chooseSlot (s : State) (ch t : Nat) : Option (Nat × Nat) :=
  (openSlots s ch t).foldl (fun acc c =>
    match acc with
    | none => some c
    | some b => if c.2 < b.2 then some c else some b) none

/-- Setpoint at a later instant t of its tick (R216), q32.32 counts rounded from 2⁻⁴⁸; the floor of a negative offset is taken (R245). -/
def setpointRaw (s : State) (p : Setpoint) (t : Nat) : Int := p.velWord * (((t : Int) - ((p.tick * tickNs s : Nat) : Int)) / 4)
def setpointAt (s : State) (p : Setpoint) (t : Nat) : Int := p.pos + roundDiv (setpointRaw s p t) (2 ^ 16)

/-! ### One execution (R243 to R253) -/

def loopState (s : State) (i : Nat) : LoopState := tget {} s.ctl.loops i
def setLoop (s : State) (i : Nat) (f : LoopState → LoopState) : State :=
  { s with ctl := { s.ctl with loops := tset {} s.ctl.loops i (f (loopState s i)) } }

/-- Matrix entry of a loop member: row r, column j of a matrix with `cols` columns, from byte `base`. -/
def matAt (objs : List (Nat × Nat)) (ch mem base cols r j : Nat) : F32 := obF32At objs 0x21 ch mem (base + 4 * (r * cols + j))

/-- A row of fused multiply-adds in ascending column order (R244). -/
def fmaRow (acc : F32) (l : List (F32 × F32)) : F32 := l.foldl (fun a x => fFma x.1 x.2 a) acc

/-- A count difference in units of 2^(−k), rounded once to binary32 (R244). -/
def countsF (v : Int) (k : Nat) : F32 := fPack (vInt v (-(k : Int)))

/-- What an execution reads. -/
structure LoopIn where
  ch : Nat
  /-- 0x40 inner, 0x60 outer. -/
  off : Nat
  objs : List (Nat × Nat)
  tag : Nat
  fb : Feedback
  sp : Setpoint
  outer : List F32
  outerAge : Nat

/-- The matrix products of R243 with the latched members. -/
def rowOf (x : LoopIn) (mem base cols r : Nat) (v : List F32) : List (F32 × F32) :=
  (indexed v).map (fun e => (matAt x.objs x.ch (x.off + mem) base cols r e.1, e.2))

/-- Position-type states get y₀, the others 0 (R251). -/
def trackState (d : Dims) (y0 : F32) : List F32 := (List.range 8).map (fun i => if i < d.n && bit d.pos i then y0 else 0)

/-- Result of the computation up to the output (R243, R246, R247, R251, R252). -/
structure LoopOut where
  xh : List F32
  us : List F32
  e : List F32
  y0 : F32
  tracking : Bool
  saturated : Bool
  /-- An element of u is not finite. -/
  numeric : Bool

/-- The output: u = −K x̂ + N r + W f and e = y − C x̂, each row one sum in the order written. [DEDUCED, log 155] -/
def computeOut (st : LoopState) (x : LoopIn) (origin : Int) (spRaw : Int) : LoopOut :=
  let d := loopDims x.objs x.ch x.off
  let y0 := countsF (x.fb.position - origin) 32
  let shift := countsF (origin - st.oPrev) 32
  let xh := (indexed st.xh).map (fun r => if st.ran && r.1 < d.n && bit d.pos r.1 then fSub r.2 shift else r.2)
  if !st.ran || !x.fb.torqueOn then
    { xh := trackState d y0, us := [0, 0], e := [], y0 := y0, tracking := true, saturated := false, numeric := false }
  else
    let xs := xh.take d.n
    let y := [y0, x.fb.y1, x.fb.y2, x.fb.y3].take d.p
    let ref := [countsF spRaw 48, dToF32 x.sp.vel, nth 0 x.outer 0, nth 0 x.outer 1].take d.q
    let ff := [dToF32 x.sp.acc, fSub x.fb.vdc (obF x.objs 0x21 x.ch (x.off + 0x0F))].take d.g
    let negRow := fun mem cols r => (rowOf x mem 0 cols r xs).map (fun p => (fNeg p.1, p.2))
    let e := (indexed y).map (fun r => fmaRow r.2 (negRow 0x08 8 r.1))
    let u := (List.range d.m).map (fun r => fmaRow (fmaRow (fmaRow 0 (negRow 0x0A 8 r)) (rowOf x 0x0B 0 4 r ref)) (rowOf x 0x0C 0 2 r ff))
    let us := (indexed u).map (fun r => fClamp (obF32At x.objs 0x21 x.ch (x.off + 0x0D) (4 * r.1)) (obF32At x.objs 0x21 x.ch (x.off + 0x0E) (4 * r.1)) r.2)
    let bad := u.any (fun v => !fFinite v)
    { xh := xh, us := if bad then st.us else us ++ List.replicate (2 - us.length) 0, e := e, y0 := y0, tracking := false
      saturated := !bad && us != u, numeric := bad }

/-- B0[0] + B1[0] of a late output, row r, with the input held (R249). -/
def heldRow (x : LoopIn) (r : Nat) (v : List F32) : List (F32 × F32) :=
  (indexed v).map (fun e => (fAdd (matAt x.objs x.ch (x.off + 0x06) 0 2 r e.1) (matAt x.objs x.ch (x.off + 0x07) 0 2 r e.1), e.2))

/-- The observer update (R243, R249, R250): `bin` none for a late output. A row's sums go on from one matrix to the next, in the order the
rule writes them. [DEDUCED, log 155] -/
def observe (st : LoopState) (x : LoopIn) (o : LoopOut) (bin : Option Nat) : List F32 :=
  let d := loopDims x.objs x.ch x.off
  let xs := o.xh.take d.n
  let row := fun r =>
    let a1 := fmaRow 0 (rowOf x 0x05 0 8 r xs)
    let a3 := match bin with
      | some b => fmaRow (fmaRow a1 (rowOf x 0x06 (64 * b) 2 r (o.us.take d.m))) (rowOf x 0x07 (64 * b) 2 r (st.up.take d.m))
      | none => fmaRow a1 (heldRow x r (st.up.take d.m))
    if x.fb.age = 0 then fmaRow a3 (rowOf x 0x09 0 4 r (o.e.take d.p)) else a3
  (List.range 8).map (fun r => if r < d.n then row r else nth 0 o.xh r)

/-- Bin of R249: none when the output is late. A delay below 0, of a sample after the slot, falls in bin 0. -/
def delayBin (d : Int) (h : Nat) : Option Nat := if (h : Int) ≤ d then none else some (8 * d / (h : Int)).toNat

/-- The command payload (Table 11-3). -/
def commandPayload (x : LoopIn) (flags compute : Nat) (bin : Option Nat) (us : List F32) (setpoint : Int) : Bytes :=
  let m := (loopDims x.objs x.ch x.off).m
  beBytes 6 (x.fb.sampleTime % 2 ^ 48) ++ beBytes 2 flags ++ beBytes 6 (compute % 2 ^ 48) ++ beBytes 1 x.fb.age ++ beBytes 1 (bin.getD 0xFF) ++
    beBytes 4 (nth 0 us 0).toNat ++ beBytes 4 (if m = 2 then (nth 0 us 1).toNat else 0) ++ beBytes 8 (wrap 64 setpoint) ++
    beBytes 4 (dToF32 x.sp.vel).toNat ++ beBytes 4 (dToF32 x.sp.acc).toNat ++ zeros 20

/-- The reference instant at which a chopper takes an output computed at t (R356). -/
def referenceAfter (s : State) (t : Nat) : Nat :=
  let t1 := t + 40
  let t0 := t1 / tickNs s * tickNs s
  min (t0 + ceilDiv (t1 - t0) 2000 * 2000) (t0 + tickNs s)

/-- Where an output goes and its delay (R248): the state with the output placed, and d; none where no slot is assigned. -/
def placeOutput (s : State) (x : LoopIn) (flags compute h : Nat) (us : List F32) : State × Option Int :=
  let sample := x.fb.sampleTime
  let tick := tickNs s
  if x.off = 0x60 then
    let p : Post := { source := 0x3000 + x.ch, tag := x.tag + loopRate x.objs x.ch 0x40, value := .outer us, age := 0, at_ := now s }
    (withSched s (fun c => { c with posts := c.posts ++ [p] }), some ((loopRate x.objs x.ch 0x40 * tick : Nat) : Int))
  else if 64 ≤ x.ch then
    let t := referenceAfter s compute
    ({ s with field := { s.field with axes := upd s.field.axes (x.ch - 64) (fun a => { a with outputs := a.outputs ++ [(compute, nth 0 us 0)] }) } },
      some ((t : Int) - sample))
  else
    match chooseSlot s x.ch compute with
    | none => (s, none)
    | some (k, a) =>
      let d := (a : Int) - sample
      let w : WaitingOutput := { loop := x.ch, sampleTime := sample
                                 payload := commandPayload x flags compute (delayBin d h) us (setpointAt s x.sp a) }
      let s1 := if drives s then
          { s with net := { s.net with down := tput s.net.down k { tget {} s.net.down k with waiting := (tget {} s.net.down k).waiting ++ [w] } } }
        else s
      (s1, some d)

/-- A cause found by an execution, the first of R250's list; a loop whose fault is set does not enter it again. -/
def faultFound (st : LoopState) (x : LoopIn) (numeric : Bool) : Option LoopFault :=
  let lim := ob x.objs 0x21 x.ch (x.off + 0x10)
  if st.fault then none
  else if lim < x.fb.age then some .age
  else if lim < x.outerAge then some .outerAge
  else if x.fb.driveFault then some .drive
  else if numeric then some .numeric
  else none

/-- One execution whose output is computed at `compute`. -/
def executeLoop (s : State) (x : LoopIn) (compute : Nat) : State :=
  let i := (if x.off = 0x60 then 128 else 0) + x.ch
  let st := loopState s i
  let d := loopDims x.objs x.ch x.off
  let h := loopRate x.objs x.ch x.off * tickNs s
  let o := computeOut st x x.sp.pos (setpointRaw s x.sp x.fb.sampleTime)
  let due0 := faultFound st x o.numeric
  let flags := b2n (0 < x.fb.age) + 2 * b2n o.saturated + 4 * b2n (st.fault || st.due.isSome || due0.isSome) + 8 * b2n o.tracking
  let r := placeOutput s x flags compute h o.us
  let dly := r.2.getD h
  let bin := delayBin dly h
  let xh1 := if o.tracking then o.xh else if o.numeric then trackState d o.y0 else observe st x o bin
  let badX := xh1.any (fun v => !fFinite v)
  let xh2 := if badX then trackState d o.y0 else xh1
  let due := match due0 with
    | some c => some c
    | none => if badX && !st.fault then some .numeric else none
  let finite := !o.numeric && !badX
  let clean := x.fb.age = 0 && x.outerAge = 0 && !x.fb.driveFault && finite
  let late := bin.isNone
  let fl : BitVec 4 := BitVec.ofNat 4 (b2n o.saturated + 2 * b2n (0 < x.fb.age) + 4 * b2n late + 8 * b2n o.tracking)
  let s1 := setLoop r.1 i (fun l => { l with
    xh := xh2, us := o.us, up := if o.tracking then [0, 0] else if late then l.up else o.us, oPrev := x.sp.pos, ran := true
    flags := l.flags ||| fl, due := match l.due with | some c => some c | none => due
    cleanRun := if clean then min 16 (l.cleanRun + 1) else 0, lastDelay := min (2 ^ 32 - 1) dly.toNat })
  let m := fun k => x.off + k
  let s2 := bump s1 0x21 x.ch (m 0x19)
  let s3 := match bin with
    | some b => bumpAt s2 0x21 x.ch (m 0x18) b
    | none => bump s2 0x21 x.ch (m 0x1C)
  let s4 := if 0 < x.fb.age then bump s3 0x21 x.ch (m 0x1A) else s3
  let s5 := if o.saturated then bump s4 0x21 x.ch (m 0x1B) else s4
  if 0 < x.fb.age || late then trace s5 4 0x0104 x.ch fl.toNat else s5

/-- The operands of a task as a loop reads them. An outer result of which the cascade has produced none is a value the spec leaves open.
[DESIGN CHOICE, log 157] -/
def loopInput (s : State) (r : Running) : Option LoopIn :=
  let d := nth {} s.sched.descriptors r.inst.descriptor
  let ch := loopChannel d
  let find := fun (k : Nat) => r.inst.operands.find? (fun o => o.1 = k)
  match find (0x1000 + ch), find (0x2000 + ch) with
  | some (_, .feedback fb, age), some (_, .setpoint sp, _) =>
    let out := find (0x3000 + ch)
    let vals := match out with
      | some (_, .outer v, _) => v
      | some _ => [BitVec.ofNat 32 (Config.freeValue s.freeCount), BitVec.ofNat 32 (Config.freeValue (s.freeCount + 1))]
      | none => [0, 0]
    some { ch := ch, off := if d.kind = 1 then 0x40 else 0x60, objs := r.latched, tag := r.inst.tag, fb := { fb with age := age }, sp := sp
           outer := vals, outerAge := (out.map (fun o => o.2.2)).getD 0 }
  | _, _ => none

/-- LOOP_EXECUTION (R243): the execution in progress on a core computes its output, t_out after its start, places it and updates its
observer. -/
def execLoopExecution (clk core : Nat) (s : State) : Host.Outcome State Fault Refusal :=
  let s1 := begin clk s
  .next (match (nth {} s1.sched.cores core).running with
    | none => s1
    | some r =>
      match loopInput s1 r with
      | none => s1
      | some x =>
        let t := r.start + timeOut (loopDims x.objs x.ch x.off)
        if r.done || isolated s1 2 1 || gated s1 2 1 || now s1 < t then s1
        else
          let s2 := withSched s1 (fun c => { c with cores := upd c.cores core (fun k => { k with running := some { r with done := true } }) })
          executeLoop { s2 with freeCount := s2.freeCount + 2 } x t)

/-- The axis fault of a channel acts on its arm, or as HOLD where it follows none (Table 2-9); `say` writes and logs its error word. -/
def axisReactionAs (say : State → Word → State) (s : State) (ch : Nat) (w : Nat → Word) (c : Cause) : State :=
  let arm := if ch < 64 then some (ch / 8) else if ob s.objs 0x21 ch 0x0F < 8 then some (ob s.objs 0x21 ch 0x0F) else none
  match arm with
  | some a => armHold (say s (w 1)) a (w 1) c
  | none => trigger (say s (w 2)) .hold (w 2) c

def axisReaction (s : State) (ch : Nat) (w : Nat → Word) (c : Cause) : State := axisReactionAs error s ch w c

/-- AXIS_FAULT (R250): a loop with a cause found enters its axis fault. -/
def execAxisFault (clk loop : Nat) (s : State) : Host.Outcome State Fault Refusal :=
  let s1 := begin clk s
  let l := loopState s1 loop
  .next (match l.due with
    | none => s1
    | some c =>
      let s2 := setLoop s1 loop (fun l => { l with due := none, fault := true, cause := some c })
      axisReaction s2 (loop % 128) (fun r => errWord 1 2 1 r false loop) (.axisFault (loop % 128) (loop / 128)))

/-- A write of 1 to `loop.fault` that the rule of 16 clean executions lets through (R250). -/
def faultClears (s : State) (loop : Nat) : Bool := !(loopState s loop).fault || (loopState s loop).cleanRun = 16
/-- A write of 1 to `loop.fault` ends the fault of a loop (R250); without one it has no effect. [DESIGN CHOICE, log 43] -/
def clearFault (s : State) (loop : Nat) : State := setLoop s loop (fun l => { l with fault := false, cause := none })

/-- Code of `loop.fault_cause` (Table 11-7). -/
def loopFaultCode : Option LoopFault → Nat
  | none => 0
  | some .age => 1
  | some .outerAge => 2
  | some .numeric => 3
  | some .drive => 4

end Sys2Proof.Machine
end

