-- ==== Sys2Proof/Machine/Encoder.lean ====
section
/-! DEFINITION. Encoder interfaces: incremental counting, absolute words, latches and repeaters (16_field_io_feedback_aux.md R342 to R353). -/

namespace Sys2Proof.Machine

def withField (s : State) (f : FieldState → FieldState) : State := { s with field := f s.field }

/-- A block of the field region is powered and runs. -/
def fieldUp (s : State) (block : Nat) : Bool := domainOn s 15 && !isolated s 4 block && !gated s 4 block

def encOf (s : State) (e : Nat) : Encoder := nth {} s.field.encoders e
def setEnc (s : State) (e : Nat) (f : Encoder → Encoder) : State := withField s (fun d => { d with encoders := upd d.encoders e f })

/-- Member of an interface. -/
def eo (s : State) (e m : Nat) : Nat := ov s 0x90 (0x10 + e) m

/-- Entries of `enc.errors` (Table 16-7). -/
def encError (s : State) (e i : Nat) : State := bumpAt s 0x90 (0x10 + e) 0x1C i

/-- `enc.stand_ms` in ns. -/
def standNs (s : State) (e : Nat) : Nat := eo s e 4 * 1000000

/-- Speed an ABZ interface reports at an instant (R346). [DESIGN CHOICE, log 86] -/
def edgeSpeed (s : State) (e t : Nat) : F64 :=
  let x := encOf s e
  let m := min (eo s e 3) (x.changes.length - 1)
  if m = 0 then 0
  else
    let last := nth 0 x.changes 0
    let den := max (last - nth 0 x.changes m) (m * (t - last))
    dRatio ((if x.up then 1 else -1) * (m * 1000000000 : Nat)) den

/-- Speed an interface reports at an instant (R346, R347). -/
def encSpeed (s : State) (e t : Nat) : F64 :=
  let x := encOf s e
  if x.standstill || decide (x.lastChange + standNs s e ≤ t) then 0
  else if eo s e 0 = 1 then edgeSpeed s e t else x.wordSpeed

/-- Counts waiting for their repeater edge. -/
def emuCount (q : List Int) : Nat := sumNat (q.map Int.natAbs)

/-- A run of position changes joins the queue; what passes 1,024 counts is dropped (R352): the queue and the counts dropped. -/
def emuPush (q : List Int) (d : Int) : List Int × Nat :=
  let room := 1024 - emuCount q
  let n := min d.natAbs room
  (if n = 0 then q else q ++ [if d < 0 then -(n : Int) else n], d.natAbs - n)

/-- Position changes by counting or by a word: standstill ends, and the repeater takes the counts (R346, R352). [PRESUMED, log 83] -/
def movePos (s : State) (e : Nat) (p : Int) (up : Bool) (t : Nat) : State :=
  let x := encOf s e
  if p = x.p then s
  else
    let emu := if eo s e 0x0F = 2 then emuPush x.emuQueue (p - x.p) else (x.emuQueue, 0)
    let s1 := setEnc s e (fun x => { x with
      p := p, up := up, standstill := false, lastChange := t, emuQueue := emu.1
      changes := ((t :: (if up = x.up then x.changes else [])).take 17) })
    (List.range emu.2).foldl (fun s _ => encError s e 6) s1

/-- The reported position and the direction after the raw count (R344). -/
def hysteresis (on : Bool) (p r : Int) (up : Bool) : Int × Bool :=
  if !on then (r, if p < r then true else if r < p then false else up)
  else if up then (if p < r then (r, true) else if r ≤ p - 2 then (r + 1, false) else (p, true))
  else (if r < p then (r, false) else if p + 2 ≤ r then (r - 1, true) else (p, false))

/-- Place of two levels in the quadrature sequence, counting up while A leads B. [PRESUMED, log 83] -/
def quadPhase (a b : Bool) : Nat := if !a then (if b then 3 else 0) else if b then 2 else 1

/-- Levels at a place of the sequence. -/
def quadLevels (n : Nat) : Bool × Bool := (n % 4 = 1 || n % 4 = 2, n % 4 = 2 || n % 4 = 3)

/-- The repeater follows the received levels while PASS is set (R352). -/
def passLevels (s : State) (e : Nat) : State :=
  let x := encOf s e
  if eo s e 0x0F = 1 then emit s (.repeater e x.a x.b x.z) else s

/-- ENCODER_EDGE (R343, R344): levels of A and B taken after the glitch filter. -/
def execEncoderEdge (clk encoder : Nat) (a b : Bool) (s : State) : Host.Outcome State Fault Refusal :=
  let s1 := begin clk s
  let x := encOf s1 encoder
  .next (if !fieldUp s1 2 || eo s1 encoder 0 != 1 || x.lineFault || (x.a = a && x.b = b) then s1
    else
      let s2 := setEnc s1 encoder (fun x => { x with a := a, b := b })
      let step := (quadPhase a b + 4 - quadPhase x.a x.b) % 4
      let s3 :=
        if step = 2 then encError (setEnc s2 encoder (fun x => { x with dirty := true })) encoder 0
        else
          let r := if step = 1 then x.r + 1 else x.r - 1
          let h := hysteresis (eo s1 encoder 2 == 1) x.p r x.up
          setEnc (movePos (setEnc s2 encoder (fun x => { x with r := r })) encoder h.1 h.2 (now s2)) encoder (fun x => { x with up := h.2 })
      passLevels s3 encoder)

/-- An index is recorded and may reset the position (R345). [DEDUCED, log 85] -/
def takeIndex (s : State) (e : Nat) : State :=
  let x := encOf s e
  let mode := eo s e 5
  let reset := mode = 1 || (mode = 2 && x.armed)
  let v := sext 64 (eo s e 6)
  setEnc s e (fun x => { x with
    indexTime := now s, changes := [], r := if reset then v else x.r, p := if reset then v else x.p
    armed := if mode = 2 then false else x.armed, indexDone := x.indexDone || (mode = 2 && x.armed) })

/-- ENCODER_INDEX (R345): a level of Z is taken; a rising edge while A = B = 1 is an index. -/
def execEncoderIndex (clk encoder : Nat) (z : Bool) (s : State) : Host.Outcome State Fault Refusal :=
  let s1 := begin clk s
  let x := encOf s1 encoder
  .next (if !fieldUp s1 2 || eo s1 encoder 0 != 1 || x.lineFault then s1
    else
      let s2 := setEnc s1 encoder (fun x => { x with z := z })
      passLevels (if z && !x.z && x.a && x.b then takeIndex s2 encoder else s2) encoder)

/-- A write of 1 to `enc.index_arm` (R345). -/
def armIndex (s : State) (e : Nat) : State :=
  setEnc s e (fun x => if x.armed then x else { x with armed := true, indexDone := false })

/-- LINE_FAULT (R343): a differential input has fallen below 200 mV. -/
def execLineFault (clk encoder : Nat) (s : State) : Host.Outcome State Fault Refusal :=
  let s1 := begin clk s
  .next (if !fieldUp s1 2 || eo s1 encoder 0 = 0 || (encOf s1 encoder).lineFault then s1
    else
      let s2 := setEnc s1 encoder (fun x => { x with lineFault := true, dirty := true })
      error (encError s2 encoder 1) (errWord 1 4 2 0 false encoder))

/-- ENCODER_LINE_RESTORED (R343, R347): the level is back, with the levels of A, B and Z as they are taken then. [DEDUCED, log 88] -/
def execEncoderLineRestored (clk encoder : Nat) (a b z : Bool) (s : State) : Host.Outcome State Fault Refusal :=
  let s1 := begin clk s
  .next (if !fieldUp s1 2 || !(encOf s1 encoder).lineFault then s1
    else passLevels (setEnc s1 encoder (fun x => { x with lineFault := false, word := none, a := a, b := b, z := z })) encoder)

/-- ENCODER_STANDSTILL (R346, R347): no change of p for `enc.stand_ms`. -/
def execEncoderStandstill (clk encoder : Nat) (s : State) : Host.Outcome State Fault Refusal :=
  let s1 := begin clk s
  .next (if !fieldUp s1 2 || eo s1 encoder 0 = 0 || now s1 < (encOf s1 encoder).lastChange + standNs s1 encoder then s1
    else setEnc s1 encoder (fun x => { x with standstill := true }))

/-- The tick latch of an interface, fresh with a record or not (R350). -/
def latchTick (s : State) (e : Nat) (v : Option EncLatch) : State :=
  setEnc s e (fun x => { x with
    latch := v.getD x.latch, fresh := v.isSome, dirty := false, latchTick := some s.herd.tick
    age := if v.isSome then 0 else min 255 (x.age + 1) })

/-- An interface that made no latch in the tick that ends is one tick older (R12, R350). -/
def encAges (s : State) : State :=
  withField s (fun d => { d with encoders := d.encoders.map (fun x =>
    if x.latchTick = some s.herd.tick then x else { x with fresh := false, age := min 255 (x.age + 1) }) })

/-- TICK_LATCH (R350): an ABZ interface, at t₀ + `enc.latch_offset_ns`. -/
def execTickLatch (clk encoder : Nat) (s : State) : Host.Outcome State Fault Refusal :=
  let s1 := begin clk s
  let x := encOf s1 encoder
  let t := tickStart s1 + eo s1 encoder 9
  .next (if !s1.herd.running || !fieldUp s1 2 || eo s1 encoder 0 != 1 || x.latchTick = some s1.herd.tick || now s1 < t then s1
    else latchTick s1 encoder (if x.dirty || x.lineFault then none else some { p := x.p, v := encSpeed s1 encoder t, t := t }))

/-! ### Absolute words (R347 to R349) -/

/-- Bit time of the link in ns (R349). -/
def linkBit (s : State) (e : Nat) : Nat := match eo s e 0x19 with | 0 => 400 | 1 => 200 | _ => 100

/-- Request of Table 16-3. -/
def linkRequest (s : State) (e : Nat) : Bytes :=
  let body : Bytes := leBytes 1 (eo s e 0x1A) ++ [0x01#8]
  [0xA5#8] ++ body ++ leBytes 1 (crcMsb 8 0x07 0 body)

/-- ENCODER_TRANSACTION_START (R347): the reference edge is the first falling clock edge, or the end of the request's last stop bit. -/
def execEncoderTransactionStart (clk encoder : Nat) (s : State) : Host.Outcome State Fault Refusal :=
  let s1 := begin clk s
  let t := tickStart s1 + eo s1 encoder 9
  .next (if !s1.herd.running || !fieldUp s1 2 || eo s1 encoder 0 < 2 || now s1 < t then s1
    else if eo s1 encoder 0 = 2 then emit (setEnc s1 encoder (fun x => { x with transaction := some t })) (.request encoder [])
    else emit (setEnc s1 encoder (fun x => { x with transaction := some (t + 40 * linkBit s1 encoder) })) (.request encoder (linkRequest s1 encoder)))

/-- Number of bits, first bit most significant. -/
def msbNat (bs : List Bool) : Nat := bs.foldl (fun v b => 2 * v + b2n b) 0

/-- Binary value of a Gray word of n bits (R348). -/
def grayNat (bs : List Bool) : Nat :=
  msbNat ((bs.foldl (fun (acc : List Bool × Bool) g => (acc.1 ++ [acc.2 != g], acc.2 != g)) ([], false)).1)

/-- What an SSI transaction gives: the word, and the entries of `enc.errors` it counts in (R348). [DEDUCED, log 87] -/
def ssiWord (s : State) (e : Nat) (r : EncoderReply) : Nat × List Nat :=
  let n := eo s e 0x12
  let fmt := eo s e 0x13
  let k := eo s e 0x14
  let hasErr := bit fmt 1
  let data := r.bits.take n
  let errBit := nth false r.bits n
  let covered := r.bits.take (n + b2n hasErr)
  let crc := msbNat ((r.bits.drop (n + b2n hasErr)).take k)
  let bad := (if r.idle then [] else [5]) ++
    (if k != 0 && crc != crcBits k (eo s e 0x15) 0 covered then [2] else []) ++
    (if hasErr && (if bit fmt 2 then !errBit else errBit) then [3] else []) ++ (if r.settled then [] else [4])
  (if bit fmt 0 then grayNat data else msbNat data, bad)

/-- What a link response gives (R349). [DEDUCED, log 87] -/
def linkWord (s : State) (e : Nat) (r : EncoderReply) : Nat × List Nat :=
  let p := r.bytes
  let crcOk := be p 8 2 = crcMsb 16 0x1021 0xFFFF (slice p 1 7)
  let bad := if be p 0 1 != 0x5A || be p 1 1 != eo s e 0x1A || !crcOk then [2] else if bit (be p 2 1) 0 then [3] else []
  (be p 3 5, bad)

/-- A valid word of n bits is unwrapped (R347); the speed of a first word, which has no word before it, is a value the spec leaves open.
[DESIGN CHOICE, log 86] -/
def takeWord (s : State) (e n w ref : Nat) : State :=
  let x := encOf s e
  let t := ((ref : Int) + sext 32 (eo s e 0x18)).toNat
  let r : Int × F64 := match x.word with
    | none => ((w : Int), BitVec.ofNat 64 (Config.freeValue s.freeCount))
    | some (w0, p0, t0) =>
      let p := x.p + sdiff n w w0
      (p, dDiv (dOfInt ((p - p0) * 1000000000)) (dOfInt ((t : Int) - t0)))
  let s1 := movePos { s with freeCount := s.freeCount + 1 } e r.1 (decide (x.p ≤ r.1)) (now s)
  let s2 := setEnc s1 e (fun x => { x with r := r.1, word := some (w, r.1, t), wordSpeed := r.2, transaction := none })
  latchTick s2 e (some { p := r.1, v := encSpeed s2 e (now s), t := t })

/-- ENCODER_WORD_RECEIVED (R347 to R350): the transaction ends, its word is judged, and the tick latch is taken. -/
def execEncoderWordReceived (clk encoder : Nat) (reply : EncoderReply) (s : State) : Host.Outcome State Fault Refusal :=
  let s1 := begin clk s
  let x := encOf s1 encoder
  let ssi := eo s1 encoder 0 = 2
  .next (match x.transaction with
    | none => s1
    | some ref =>
      if !fieldUp s1 2 || eo s1 encoder 0 < 2 then s1
      else
        let w := if ssi then ssiWord s1 encoder reply else linkWord s1 encoder reply
        let s2 := w.2.foldl (fun s i => encError s encoder i) s1
        if w.2.isEmpty && !x.lineFault then takeWord s2 encoder (if ssi then eo s1 encoder 0x12 else 40) w.1 ref
        else latchTick (setEnc s2 encoder (fun x => { x with transaction := none })) encoder none)

/-- ENCODER_TIMEOUT (R349, R350): no response has started within `enc.timeout_us`. -/
def execEncoderTimeout (clk encoder : Nat) (s : State) : Host.Outcome State Fault Refusal :=
  let s1 := begin clk s
  .next (match (encOf s1 encoder).transaction with
    | none => s1
    | some ref =>
      if !fieldUp s1 2 || eo s1 encoder 0 != 3 || now s1 < ref + eo s1 encoder 0x17 * 1000 then s1
      else latchTick (setEnc (encError s1 encoder 4) encoder (fun x => { x with transaction := none })) encoder none)

/-! ### Repeaters (R352) -/

/-- Takes the first count of the queue: its sign and the queue left. [DEDUCED, log 85] -/
def emuTake : List Int → Int × List Int
  | [] => (0, [])
  | d :: r => if d.natAbs ≤ 1 then (d, r) else (if d < 0 then -1 else 1, (if d < 0 then d + 1 else d - 1) :: r)

/-- EMULATED_EDGE (R352): one quadrature edge, 50 ns or more after the edge before it. -/
def execEmulatedEdge (clk encoder : Nat) (s : State) : Host.Outcome State Fault Refusal :=
  let s1 := begin clk s
  let x := encOf s1 encoder
  let q := emuTake x.emuQueue
  .next (if !domainOn s1 15 || eo s1 encoder 0x0F != 2 || q.1 = 0 || (x.lastEmu != 0 && now s1 < x.lastEmu + 50) then s1
    else
      let lv := quadLevels (quadPhase x.qa x.qb + (if 0 < q.1 then 1 else 3))
      let z := (x.p - sumInt q.2) % (eo s1 encoder 0x10 : Nat) = 0
      emit (setEnc s1 encoder (fun x => { x with emuQueue := q.2, qa := lv.1, qb := lv.2, qz := z, lastEmu := now s1 }))
        (.repeater encoder lv.1 lv.2 z))

end Sys2Proof.Machine
end

