-- ==== Sys2Proof/Machine/SafetyChannels.lean ====
section
/-! DEFINITION. The two safety channels (15_safety_channels.md R308 to R333): evaluations, status messages, safe inputs and outputs, the safety
reset, and what each detects in the other. -/

namespace Sys2Proof.Machine

/-! ### Modes as the channels see them (R313, R40) -/

/-- The mode whose demands are in force: stop functions do not wait for a tick boundary, and a mode on its way out to COMMISSION or RUN has
released its demand (R40). -/
def demandMode (s : State) : Mode :=
  let base := modeTarget s
  if s.mode.accepted = some .fault then .fault
  else if base = .boot || base = .configure || base = .fault then base
  else if s.mode.mode = .hold || s.mode.accepted = some .hold || base = .hold then .hold
  else base

/-- Arm holds as a mask. -/
def holdMask (s : State) : Nat := packBits (s.mode.arms.map (·.held))

/-- Mode that governs, `cell.mode` and arm holds in a channel's view. -/
def viewMode (s : State) (chamois : Bool) : Mode := if chamois then s.safety.chamois.peerDemand else demandMode s
def viewCell (s : State) (chamois : Bool) : Mode := if chamois then s.safety.chamois.peerMode else s.mode.mode
def viewHolds (s : State) (chamois : Bool) : Nat := if chamois then s.safety.chamois.peerHold.toNat else holdMask s

/-! ### Objects -/

def inFunction (objs : List (Nat × Nat)) (n : Nat) : Nat := ob objs 0x60 n 0
def inArms (objs : List (Nat × Nat)) (n : Nat) : Nat := ob objs 0x60 n 3
def inStop (objs : List (Nat × Nat)) (n : Nat) : Nat := ob objs 0x60 n 4
def netNode (objs : List (Nat × Nat)) (e : Nat) : Nat := ob objs 0x60 (0x40 + e) 0
def netFunction (objs : List (Nat × Nat)) (e : Nat) : Nat := ob objs 0x60 (0x40 + e) 1
def netArms (objs : List (Nat × Nat)) (e : Nat) : Nat := ob objs 0x60 (0x40 + e) 2
def netStop (objs : List (Nat × Nat)) (e : Nat) : Nat := ob objs 0x60 (0x40 + e) 3
def outFunction (objs : List (Nat × Nat)) (n : Nat) : Nat := ob objs 0x60 (0x10 + n) 0
def outArms (objs : List (Nat × Nat)) (n : Nat) : Nat := ob objs 0x60 (0x10 + n) 1

/-- Safe inputs that are evaluated (R321), network inputs in use (R323). -/
def usedInputs (objs : List (Nat × Nat)) : List Nat := (List.range 16).filter (fun n => inFunction objs n != 0)
def usedNets (objs : List (Nat × Nat)) : List Nat := (List.range 64).filter (fun e => netNode objs e != 0 && netFunction objs e != 0)

/-- Error word of a channel for safe I/O (R311). -/
def ioWord (chamois : Bool) (element : Nat) : Word := if chamois then chamoisWord element else errWord 1 4 0 3 false element

/-! ### Inputs (R319 to R323) -/

/-- Table 15-6: the terminals agree on ON, and agree at all. -/
def terminalsOn (anti a b : Bool) : Bool := a && (if anti then !b else b)
def terminalsAgree (anti a b : Bool) : Bool := if anti then a != b else a == b

/-- One sample of an input (R320, R321). -/
def stepInput (objs : List (Nat × Nat)) (n : Nat) (a b : Bool) (x : SafeInput) : SafeInput :=
  if inFunction objs n = 0 then { x with a := a, b := b }
  else
    let anti := ob objs 0x60 n 1 == 2
    let agrees := terminalsAgree anti a b
    let run := if agrees then 0 else x.run + 1
    let newly := decide (ob objs 0x60 n 2 < run) && !x.discrepancy
    let disc := x.discrepancy || newly
    let on := terminalsOn anti a b && !disc
    { a := a, b := b, run := run, on := on, discrepancy := disc, due := x.due || newly, agree := if agrees then min 4 (x.agree + 1) else 0
      latched := x.latched || (decide (inFunction objs n = 1) && !on) }

/-- One evaluation of a network input (R323). -/
def stepNet (objs : List (Nat × Nat)) (e : Nat) (x : NetInput) : NetInput :=
  let old := decide (ob objs 0x60 (0x40 + e) 4 < x.age)
  let on := x.bits % 4 == 1 && !old
  { x with on := on, stale := x.stale && old, latched := x.latched || (decide (netFunction objs e = 1) && !on) }

/-- Every HOLD_REQUEST input, with its state in a channel (Table 15-9). [DESIGN CHOICE, log 38] -/
def holdRequests (s : State) : List (Cause × Bool) :=
  ((usedInputs s.objs).filter (fun n => inFunction s.objs n = 3)).map (fun n => (.holdRequest false n, (nth {} s.safety.processor.inputs n).on)) ++
    ((usedNets s.objs).filter (fun e => netFunction s.objs e = 3)).map (fun e => (.holdRequest true e, (tget {} s.safety.processor.nets e).on))

/-- A HOLD_REQUEST input that is OFF in COMMISSION or RUN triggers HOLD, and in HOLD replaces a transition out of it or is recorded as a
cause (R41, R460); no error word goes with it (Table 2-3, Table 15-9). [DESIGN CHOICE, log 38] -/
def askHold (s : State) (r : Cause × Bool) : State :=
  let put := fun (s : State) (l : List Cause) => { s with safety := { s.safety with holdInputs := l } }
  if r.2 then put s (s.safety.holdInputs.filter (fun c => c != r.1))
  else if s.safety.holdInputs.contains r.1 then s
  else if s.mode.mode = .commission || s.mode.mode = .run || s.mode.mode = .hold then trigger (put s (s.safety.holdInputs ++ [r.1])) .hold 0 r.1
  else s

/-! ### The safety reset (R328) -/

/-- One sample of SRESET. -/
def stepReset (evals time : Nat) (on : Bool) (r : ResetEdge) : ResetEdge × Bool :=
  if on then
    ({ r with armed := if r.onRun = 0 then decide (400 ≤ r.offRun) else r.armed, onRun := r.onRun + 1, offRun := 0 }, false)
  else if r.onRun = 0 then ({ r with offRun := r.offRun + 1 }, false)
  else if r.armed && decide (400 ≤ r.onRun) && decide (r.onRun ≤ 8000) then
    ({ offRun := 1, onRun := 0, armed := false, edge := some (evals, time) }, false)
  else ({ offRun := 1, onRun := 0, armed := false, edge := r.edge }, true)

/-- Both channels have completed an edge within four evaluations of each other; its time is the processor channel's. -/
def pairEdges (s : State) : State :=
  match s.safety.processor.reset.edge, s.safety.chamois.reset.edge with
  | some p, some c =>
    if decide (p.2 ≤ c.2 + 1000000) && decide (c.2 ≤ p.2 + 1000000) then
      let off := fun (ch : Channel2) => { ch with reset := { ch.reset with edge := none } }
      { s with safety := { s.safety with processor := off s.safety.processor, chamois := off s.safety.chamois, edgeDue := some p.2 } }
    else s
  | _, _ => s

/-- An edge of a channel that the other has not matched within four evaluations is none; the processor channel's counts as another end of an
ON run. -/
def expireEdge (s : State) (chamois : Bool) : State :=
  let c := safeCh s chamois
  if c.reset.edge.any (fun e => decide (e.1 + 5 < c.evals)) then
    let s1 := setSafeCh s chamois (fun c => { c with reset := { c.reset with edge := none } })
    if chamois then s1 else bump s1 0x60 0x80 9
  else s

/-! ### Demands and stop states (R312, R313, R315) -/

/-- Ranks of demands (R312): 4 STO, 3 SS1, 2 SS2, 1 SLS. -/
def stopRank (code : Nat) : Nat := if code = 0 then 4 else if code = 1 then 3 else 2

/-- The sources of Table 15-2 active for an arm in a channel: bit of `safety.arm_sources` and rank. -/
def armDemands (s : State) (chamois : Bool) (a : Nat) : List (Nat × Nat) :=
  let c := safeCh s chamois
  let m := viewMode s chamois
  let sto := m = .boot || m = .configure || m = .fault
  let sep := nth .none (if chamois then s.sep.demandC else s.sep.demandP) a
  let input := fun (f : Nat) (on latched : Bool) (stop : Nat) =>
    if f = 1 then (if latched then [(5, stopRank stop)] else [])
    else if f = 2 then (if on then [] else [(6, stopRank stop)])
    else if f = 3 then (if on then [] else [(7, 2)])
    else if f = 4 && m = .commission then (if on then [] else [(8, 2)])
    else []
  (if sto then [(0, 4)] else []) ++
    (if chamois && s.cham.startLatch then [(1, 4)] else []) ++
    (if m = .hold then [(2, 2)] else []) ++
    (if bit (viewHolds s chamois) a then [(3, 2)] else []) ++
    (if m = .commission then [(4, 1)] else []) ++
    ((usedInputs s.objs).filter (fun n => bit (inArms s.objs n) a)).flatMap (fun n =>
      input (inFunction s.objs n) (nth {} c.inputs n).on (nth {} c.inputs n).latched (inStop s.objs n)) ++
    ((usedNets s.objs).filter (fun e => bit (netArms s.objs e) a)).flatMap (fun e =>
      input (netFunction s.objs e) (tget {} c.nets e).on (tget {} c.nets e).latched (netStop s.objs e)) ++
    (match sep with | .ss1 => [(9, 3)] | .ss2 => [(10, 2)] | .none => []) ++
    (if (nth {} c.arms a).violated then [(11, 4)] else []) ++
    (if chamois && s.cham.stoLatch then [(if 40 ≤ wordElement s.cham.fault && wordElement s.cham.fault < 48 then 11 else 12, 4)] else []) ++
    (if c.faultStop || c.silent then [(12, 4)] else [])

/-- The next stop state under the strongest demand (R312, R315); the flag says that a ramp starts. -/
def nextStop (d : Nat) (x : ArmStop) : StopState × Bool :=
  match x.state with
  | .sto => if 3 ≤ d then (.sto, false) else if d = 2 then (.sos, false) else if d = 1 then (.sls, false) else (.normal, false)
  | st =>
    if d = 4 then (.sto, false)
    else if d = 3 then (if st = .ss1 || st = .ss2 then (st, false) else (.ss1, true))
    else if d = 2 then (if st = .normal || st = .sls then (.ss2, true) else (st, false))
    else if st = .ss1 || st = .ss2 then (st, false)
    else if d = 1 then (.sls, false) else (.normal, false)

/-- One arm in one evaluation that starts at `t`. -/
def stepArm (chamois : Bool) (t : Nat) (s : State) (a : Nat) : State :=
  let s0 := setArmStop s chamois a (fun x => { x with violated := x.violated || x.violation, violation := false })
  if !armPresent s0.objs a then setArmStop s0 chamois a (fun x => { x with state := .sto, sources := 0 })
  else
    let ds := armDemands s0 chamois a
    let d := maxNat (ds.map (·.2))
    let src : BitVec 13 := ds.foldl (fun m r => m ||| (1#13 <<< r.1)) 0
    let old := armStop s0 chamois a
    let n := nextStop d old
    let s1 := setArmStop s0 chamois a (fun x =>
      { x with sources := src, endsInSto := if n.2 then false else x.endsInSto || (decide (d = 3) && old.state = .ss2)
               demandTime := if n.2 then t else x.demandTime, v0 := if n.2 then x.lastSpeed else x.v0
               sosPos := if n.1 = .sos && old.state = .sto then [] else x.sosPos, timeout := x.timeout && n.1 = old.state })
    takeStop s1 chamois a n.1

/-- The stop state by which a channel governs an arm: the stronger of its own and the other module's (R409). -/
def governed (s : State) (chamois : Bool) (a : Nat) : Nat :=
  let own := stopCode (armStop s chamois a).state
  if pairOn s.objs && !s.pair.peerSilent then max own (stopCode (nth .normal s.pair.peerStops a)) else own

/-! ### Outputs (R315, R325 to R327) -/

/-- A switch with a diagnosed fault, or whose current limit has acted. -/
def switchFaulty (w : SafeSwitch) : Bool := w.overload || w.openWire || w.overTemp || w.stuck || w.limited

/-- The function of an output asks for its switch to be closed. -/
def switchWanted (s : State) (chamois : Bool) (n : Nat) : Bool :=
  let m := viewCell s chamois
  if (safeCh s chamois).silent then false
  else if outFunction s.objs n = 1 then (List.range 8).all (fun a => !bit (outArms s.objs n) a || governed s chamois a != 5)
  else if outFunction s.objs n = 2 then m != .boot && m != .fault
  else false

/-- STUCK of a switch: the latch, the word, the count and FAULT (R326, R327); a standing fault is not reported again. -/
def switchStuck (s : State) (low : Bool) (n : Nat) : State :=
  let w := nth {} (safeCh s low).switches n
  let s1 := setSafeCh s low (fun c => { c with switches := upd c.switches n (fun w => { w with stuck := true, stuckNow := true, closed := false }) })
  if w.stuck then s1 else faultError (bump s1 0x60 (0x10 + n) 5) (ioWord low (16 + n)) (.stuck n low)

/-- One output in an evaluation: an open switch must read open, then the switch is set. -/
def stepSwitch (chamois : Bool) (readback : Nat) (currents : List Nat) (s : State) (n : Nat) : State :=
  let w := nth {} (safeCh s chamois).switches n
  let s1 :=
    if w.closed || outFunction s.objs n = 0 then s
    else if bit readback n then switchStuck s chamois n
    else setSafeCh s chamois (fun c => { c with switches := upd c.switches n (fun w => { w with stuckNow := false }) })
  let close := switchWanted s1 chamois n && !switchFaulty (nth {} (safeCh s1 chamois).switches n) && !(safeCh s1 chamois).peer.outFaults.getLsbD n
  setSafeCh s1 chamois (fun c => { c with switches := upd c.switches n (fun w => { w with closed := close, current := nth 0 currents n }) })

/-! ### Comparison of the channels (R310) -/

/-- The values a channel compares with the other's last message, and whether each agrees: terminals A n and B 16 + n of used inputs, SRESET
32, SW1 33, network inputs 40 + e. -/
def crossValues (s : State) (chamois : Bool) : List (Nat × Bool) :=
  let c := safeCh s chamois
  (usedInputs s.objs).flatMap (fun n =>
      [(n, (nth {} c.inputs n).a == c.peer.a.getLsbD n), (16 + n, (nth {} c.inputs n).b == c.peer.b.getLsbD n)]) ++
    [(32, c.sreset == c.peer.sreset), (33, c.sw1 == c.peer.sw1)] ++
    (usedNets s.objs).map (fun e => (40 + e, (tget {} c.nets e).on == c.peer.nets.contains e))

/-- Runs of differing and of agreeing evaluations. -/
def stepCross (vals : List (Nat × Bool)) (c : Channel2) : Channel2 :=
  let run := fun (old : List (Nat × Nat)) (hit : Bool → Bool) =>
    (vals.filter (fun v => hit v.2)).map (fun v => (v.1, ((old.find? (fun o => o.1 = v.1)).map (·.2)).getD 0 + 1))
  let agree := run c.agree id
  { c with mismatch := run c.mismatch (!·), agree := (agree.filter (fun r => c.mismatched.contains r.1)).map (fun r => (r.1, min 8 r.2))
           mismatched := c.mismatched.filter (fun v => !agree.any (fun r => r.1 = v && decide (8 ≤ r.2))) }

/-- The second of a channel's own clock goes on by one evaluation; a count outside 3,990 to 4,010 is due. A second in which the other is
silent is not judged. [DEDUCED, log 76] -/
def stepSecond (c : Channel2) : Channel2 :=
  if c.silent || 2 ≤ c.silentRun then { c with messages := 0, secondEvals := 0 }
  else if c.secondEvals + 1 < 4000 then { c with secondEvals := c.secondEvals + 1 }
  else
    let bad := decide (c.messages < 3990) || decide (4010 < c.messages)
    { c with messages := 0, secondEvals := 0, oscDue := bad, oscillator := c.oscillator && bad }

/-! ### Digests (R332, R333) -/

/-- The safety-set section of an image (Table 3-14). -/
def safetySection (img : Bytes) : Bytes := if bit (le img 6 2) 1 then slice img (le img 24 4) (le img 28 4) else []

/-- Digest of the safety set in the cell image store. [DEDUCED, log 75] -/
def storeDigest (s : State) : Option Bytes :=
  match s.nor.image with
  | some img => if (safetySection img).isEmpty then none else some (sha256 (safetySection img))
  | none => none

/-- SW1.2 to SW1.8 equal bits [0] to [6] of byte 0 of a digest (R331). -/
def sealMatches (sw1 : BitVec 8) (digest : Bytes) : Bool := sw1.toNat / 2 == (digest.headD 0).toNat % 128

/-- The digests of the store and of Chamois's register, and the seal switches, agree (R333); a register that was never written is all zero
and agrees with a store without a set. [DEDUCED, log 75] -/
def digestsAgree (s : State) : Bool :=
  match storeDigest s with
  | some d => d == s.cham.digest && sealMatches s.safety.chamois.sw1 d
  | none => s.cham.digest == zeros 32

/-! ### Evaluations (R309) -/

/-- The event that set Chamois's latch has ended (R44, Table 2-11). -/
def chamoisEnded (s : State) : Bool :=
  let e := wordElement s.cham.fault
  if 40 ≤ e && e < 48 then (armStop s true (e - 40)).state = .sto
  else if e = 60 then !s.safety.chamois.silent
  else if e = 62 then s.safety.chamois.mismatched.isEmpty && s.safety.processor.mismatched.isEmpty
  else if e = 63 then !s.safety.chamois.oscillator && !s.safety.processor.oscillator
  else if e = 64 then digestsAgree s && !s.safety.chamois.silent
  else true

/-- What an evaluation samples. -/
structure Samples where
  a : Nat
  b : Nat
  sreset : Bool
  sw1 : Nat
  readback : Nat
  currents : List Nat

/-- One evaluation of a channel that starts now. [DEDUCED, log 78] -/
def evaluate (chamois : Bool) (x : Samples) (s : State) : State :=
  let t := now s
  let s1 := setSafeCh s chamois (fun c =>
    let silentRun := if c.fresh then 0 else c.silentRun + 1
    let heard := if c.fresh then min 2 (c.heardRun + 1) else 0
    let r := stepReset c.evals t x.sreset c.reset
    { c with
      evals := c.evals + 1, silentRun := silentRun, heardRun := heard, fresh := false, silent := c.silent && decide (heard < 2)
      inputs := (indexed c.inputs).map (fun i => stepInput s.objs i.1 (bit x.a i.1) (bit x.b i.1) i.2)
      nets := (usedNets s.objs).map (fun e => (e, stepNet s.objs e (tget {} c.nets e)))
      sreset := x.sreset, sw1 := BitVec.ofNat 8 x.sw1, reset := r.1 })
  let rejected := (stepReset 0 t x.sreset (safeCh s chamois).reset).2
  let s2 := if rejected && !chamois then bump s1 0x60 0x80 9 else s1
  let s3 := setSafeCh (expireEdge (pairEdges s2) chamois) chamois stepSecond
  let s4 := if (safeCh s3 chamois).silentRun = 0 then setSafeCh s3 chamois (stepCross (crossValues s3 chamois)) else s3
  let s5 := if chamois then s4 else (holdRequests s4).foldl askHold s4
  let s6 := (List.range 8).foldl (stepArm chamois t) s5
  let s7 := (List.range 8).foldl (stepSwitch chamois x.readback x.currents) s6
  setSafeCh s7 chamois (fun c => { c with commandNew := true, command := (List.range 8).map (fun a => if armPresent s7.objs a then governed s7 chamois a else 5) })

/-- PROCESSOR_EVALUATION: at every herd time that is a multiple of 250,000 ns. In a pair it sends its stop states to the other module
(R409). -/
def execProcessorEvaluation (clk a b : Nat) (sreset : Bool) (sw1 readback : Nat) (currents : List Nat) (s : State) : Host.Outcome State Fault Refusal :=
  let s1 := begin clk s
  let period := now s1 / 250000
  .next (if s1.herd.running && s1.safety.processor.slot != some period then
      let s2 := evaluate false { a := a, b := b, sreset := sreset, sw1 := sw1, readback := readback, currents := currents } s1
      let s3 := setSafeCh s2 false (fun c => { c with slot := some period })
      let s4 := { s3 with pair := { s3.pair with peerRun := s3.pair.peerRun + b2n (pairOn s3.objs) } }
      if pairOn s4.objs && !pairDown s4 then emit s4 (.stops (s4.safety.processor.arms.map (·.state))) else s4
    else s1)

/-- CHAMOIS_EVALUATION: every 10,000 cycles of Chamois's own oscillator, whatever the state of the core die. -/
def execChamoisEvaluation (clk a b : Nat) (sreset : Bool) (sw1 readback : Nat) (currents : List Nat) (s : State) : Host.Outcome State Fault Refusal :=
  let s1 := begin clk s
  let s2 := evaluate true { a := a, b := b, sreset := sreset, sw1 := sw1, readback := readback, currents := currents } s1
  .next { s2 with cham := { s2.cham with ended := s2.cham.ended || chamoisEnded s2 } }

/-! ### Status messages (R310, R313, R314) -/

/-- What a channel's status message shows of its samples and latched output faults. -/
def viewOf (c : Channel2) : PeerView :=
  { a := BitVec.ofNat 16 (packBits (c.inputs.map (·.a))), b := BitVec.ofNat 16 (packBits (c.inputs.map (·.b))), sreset := c.sreset, sw1 := c.sw1
    nets := (c.nets.filter (fun e => e.2.on)).map (·.1), outFaults := BitVec.ofNat 8 (packBits (c.switches.map switchFaulty)) }

/-- A valid status message arrives: the processor channel's message also carries the mode, HOLD, the arm holds and its violations, which
Chamois latches. -/
def execSafetyStatusRx (clk : Nat) (toChamois : Bool) (s : State) : Host.Outcome State Fault Refusal :=
  let s1 := begin clk s
  let v := viewOf (safeCh s1 (!toChamois))
  let s2 := setSafeCh s1 toChamois (fun c => { c with fresh := true, messages := c.messages + 1, peer := v })
  .next (if toChamois then
      let s3 := setSafeCh s2 true (fun c => { c with peerDemand := demandMode s2, peerMode := s2.mode.mode, peerHold := BitVec.ofNat 8 (holdMask s2) })
      (List.range 8).foldl (fun s a =>
        if (armStop s false a).violation || (armStop s false a).violated then (if s.cham.stoLatch then s else chamoisLatch s (chamoisWord (40 + a))) else s) s3
    else s2)

/-- All switches of a channel open. -/
def openAll (s : State) (chamois : Bool) : State :=
  setSafeCh s chamois (fun c => { c with switches := c.switches.map (fun w => { w with closed := false }) })

/-- Chamois hears the processor channel no more (R310, R311): in a mode that moves it latches the stop as a fault reaction. -/
def silentToChamois (s : State) (moving : Bool) : State :=
  let w := errWord 2 6 0 (if moving then 3 else 0) false 60
  let s1 := if moving then chamoisLatch s w else s
  if s1.mode.mode = .boot then s1
  else if moving then faultError s1 w (.silent true) else error s1 w

/-- CHANNEL_SILENT: no valid message for two evaluations. Chamois latches STO while the last mode it received is COMMISSION, RUN or HOLD; the
processor channel treats the silence as a stop demanded by Chamois. -/
def execChannelSilent (clk : Nat) (byChamois : Bool) (s : State) : Host.Outcome State Fault Refusal :=
  let s1 := begin clk s
  let c := safeCh s1 byChamois
  .next (if decide (2 ≤ c.silentRun) && !c.silent then
      let s2 := openAll (setSafeCh s1 byChamois (fun c => { c with silent := true, heardRun := 0 })) byChamois
      if byChamois then
        silentToChamois s2 (c.peerMode = .commission || c.peerMode = .run || c.peerMode = .hold)
      else
        faultError (setSafeCh s2 false (fun c => { c with faultStop := true })) (ioWord false 61) (.silent false)
    else s1)

/-- CROSS_MISMATCH: the value has differed in more than 8 consecutive evaluations; Chamois demands a stop. -/
def execCrossMismatch (clk : Nat) (byChamois : Bool) (value : Nat) (s : State) : Host.Outcome State Fault Refusal :=
  let s1 := begin clk s
  let c := safeCh s1 byChamois
  .next (if c.mismatch.any (fun r => r.1 = value && decide (8 < r.2)) && !c.mismatched.contains value then
      let s2 := bump (setSafeCh s1 byChamois (fun c => { c with mismatched := c.mismatched ++ [value], faultStop := true })) 0x60 0x80 0x0B
      faultError (chamoisLatch s2 (chamoisWord 62)) (ioWord byChamois 62) (.crossMismatch value)
    else s1)

/-- OSCILLATOR_MISMATCH: Chamois demands a stop. -/
def execOscillatorMismatch (clk : Nat) (byChamois : Bool) (s : State) : Host.Outcome State Fault Refusal :=
  let s1 := begin clk s
  .next (if (safeCh s1 byChamois).oscDue then
      let s2 := setSafeCh s1 byChamois (fun c => { c with oscDue := false, oscillator := true, faultStop := true })
      faultError (chamoisLatch s2 (chamoisWord 63)) (ioWord byChamois 63) (.oscMismatch byChamois)
    else s1)

/-! ### Inputs and outputs: faults (R320, R323, R325 to R327) -/

/-- DISCREPANCY: the input has disagreed in N + 1 consecutive samples. -/
def execDiscrepancy (clk : Nat) (chamois : Bool) (input : Nat) (s : State) : Host.Outcome State Fault Refusal :=
  let s1 := begin clk s
  .next (if (nth {} (safeCh s1 chamois).inputs input).due then
      let s2 := setSafeCh s1 chamois (fun c => { c with inputs := upd c.inputs input (fun i => { i with due := false }) })
      let known := (nth {} (safeCh s1 (!chamois)).inputs input).discrepancy && !(nth {} (safeCh s1 (!chamois)).inputs input).due
      let s3 := if known then s2 else bump s2 0x60 input 6
      faultError s3 (ioWord chamois input) (.discrepancy input)
    else s1)

/-- SS1_TIMEOUT (R314): an SS1 ramp has reached t_d + T_st; the arm goes to STO without a violation. -/
def execSs1Timeout (clk : Nat) (chamois : Bool) (arm : Nat) (s : State) : Host.Outcome State Fault Refusal :=
  let s1 := begin clk s
  .next (if (armStop s1 chamois arm).timeout then takeStop (setArmStop s1 chamois arm (fun x => { x with timeout := false })) chamois arm .sto else s1)

/-- NET_INPUT_STALE (R323): the age of a network input exceeds its limit. -/
def execNetInputStale (clk : Nat) (chamois : Bool) (entry : Nat) (s : State) : Host.Outcome State Fault Refusal :=
  let s1 := begin clk s
  .next (if (usedNets s1.objs).contains entry && decide (ob s1.objs 0x60 (0x40 + entry) 4 < (tget {} (safeCh s1 chamois).nets entry).age) then
      let x := tget {} (safeCh s1 chamois).nets entry
      let y : NetInput := { x with on := false, stale := true, latched := x.latched || netFunction s1.objs entry = 1 }
      setSafeCh s1 chamois (fun c => { c with nets := tput c.nets entry y })
    else s1)

/-- An output is energised: both its switches are closed (R308). -/
def energised (s : State) (n : Nat) : Bool := (nth {} s.safety.processor.switches n).closed && (nth {} s.safety.chamois.switches n).closed

/-- DARK_PULSE_TEST (R326): the channel opens its own switch of an energised output; a readback that stays high is STUCK. -/
def execDarkPulseTest (clk : Nat) (low : Bool) (output : Nat) (high : Bool) (s : State) : Host.Outcome State Fault Refusal :=
  let s1 := begin clk s
  .next (if energised s1 output then
      if high then switchStuck s1 low output
      else setSafeCh s1 low (fun c => { c with switches := upd c.switches output (fun w => { w with stuckNow := false }) })
    else s1)

/-- OUTPUT_DIAGNOSIS (Table 15-10): `kind` 0 OVERLOAD, 1 OPEN_WIRE, 2 OVER_TEMP. The last also ends, when `present_` is false. -/
def outputDiagnosis (low : Bool) (n kind : Nat) (present_ : Bool) (s : State) : State :=
  let w := nth {} (safeCh s low).switches n
  let set := fun (s : State) (f : SafeSwitch → SafeSwitch) => setSafeCh s low (fun c => { c with switches := upd c.switches n f })
  let fault := fun (s : State) (c : Cause) => faultError (bump s 0x60 (0x10 + n) 5) (ioWord low (16 + n)) c
  if outFunction s.objs n = 0 then s
  else if kind = 2 then
    if !present_ then set s (fun w => { w with hotNow := false })
    else
      let s1 := set s (fun w => { w with hotNow := true, overTemp := true, closed := false })
      if w.overTemp then s1 else fault s1 (.overTemp n)
  else if !present_ then s
  else if kind = 0 then
    if (w.limited || decide (600 < w.current)) && !w.overload then fault (set s (fun w => { w with overload := true, closed := false })) .momentary else s
  else if kind = 1 && energised s n && decide (w.current < 2) && ov s 0x60 (0x10 + n) 2 == 1 && !w.openWire then
    fault (set s (fun w => { w with openWire := true, closed := false })) .momentary
  else s

def execOutputDiagnosis (clk : Nat) (low : Bool) (output kind : Nat) (present_ : Bool) (s : State) : Host.Outcome State Fault Refusal :=
  .next (outputDiagnosis low output kind present_ (begin clk s))

/-- OUTPUT_CURRENT_LIMIT (R325): above 0.7 A the current limit opens the output's switches. -/
def execOutputCurrentLimit (clk output : Nat) (s : State) : Host.Outcome State Fault Refusal :=
  let s1 := begin clk s
  let cut := fun (c : Channel2) => { c with switches := upd c.switches output (fun w => { w with closed := false, limited := true }) }
  .next (if energised s1 output then setSafeCh (setSafeCh s1 false cut) true cut else s1)

/-! ### The safety reset and the seal switches (R329, R333) -/

/-- A valid reset edge releases what it may in one channel: EMERGENCY_STOP latches of inputs that are ON, and DISCREPANCY latches whose
cause is gone in both. -/
def releaseLatches (objs : List (Nat × Nat)) (gone : Nat → Bool) (c : Channel2) : Channel2 :=
  { c with
    inputs := (indexed c.inputs).map (fun i =>
      let anti := ob objs 0x60 i.1 1 == 2
      { i.2 with latched := i.2.latched && !i.2.on, discrepancy := i.2.discrepancy && !gone i.1
                 on := i.2.on || (i.2.discrepancy && gone i.1 && terminalsOn anti i.2.a i.2.b) })
    nets := c.nets.map (fun e => (e.1, { e.2 with latched := e.2.latched && !e.2.on })) }

/-- The FAULT in force may not be left (R44 step 1): a recorded cause is present or Chamois's event lasts; of a FAULT entered in BOOT
Chamois's own status alone is judged. -/
def faultLasts (s : State) : Bool := !s.cham.ended || (!s.mode.faultInBoot && anyCause s)

/-- SRESET_EDGE (R328, R329, R44): the latches, the count, and in FAULT with no cause present the window of R44. -/
def sresetEdge (s : State) : State :=
  match s.safety.edgeDue with
  | none => s
  | some t =>
    let gone := fun n => !causePresent s (.discrepancy n)
    let s1 := { s with safety := { s.safety with
      processor := releaseLatches s.objs gone s.safety.processor, chamois := releaseLatches s.objs gone s.safety.chamois, edgeDue := none, lastReset := t } }
    let s2 := bump s1 0x60 0x80 8
    if s2.mode.mode = .fault && !faultLasts s2 then withMode s2 (fun m => { m with resetEdge := some t }) else s2

def execSresetEdge (clk : Nat) (s : State) : Host.Outcome State Fault Refusal := .next (sresetEdge (begin clk s))

/-- SW1_CHANGE (R333): a seal switch has moved since the last entry; nothing else changes. -/
def execSw1Change (clk : Nat) (s : State) : Host.Outcome State Fault Refusal :=
  let s1 := begin clk s
  let p := s1.safety.processor
  .next (if p.sw1 != p.sw1Shown then
      log (setSafeCh s1 false (fun c => { c with sw1Shown := c.sw1 })) .event 0x0025 p.sw1.toNat 0
    else s1)

end Sys2Proof.Machine
end

