-- ==== Sys2Proof/Machine/AuxAxes.lean ====
section
/-! DEFINITION. Auxiliary axes: phase accumulator, current reference, choppers, load angle, stall and feedback (16_field_io_feedback_aux.md
R354 to R362, 10_motion_profiles.md R236). -/

namespace Sys2Proof.Machine

def axisOf (s : State) (k : Nat) : AuxAxis := nth {} s.field.axes k
def setAxis (s : State) (k : Nat) (f : AuxAxis → AuxAxis) : State := withField s (fun d => { d with axes := upd d.axes k f })

/-- Members of an axis. -/
def ao (s : State) (k m : Nat) : Nat := ov s 0x90 (0x20 + k) m
def aoF (s : State) (k m : Nat) : F32 := obF s.objs 0x90 (0x20 + k) m

/-- An axis is enabled (R355); a standby holds its own axes disabled (R409). -/
def auxEnabled (s : State) (k : Nat) : Bool :=
  let arm := ov s 0x21 (64 + k) 0x0F
  ao s k 1 == 1 && ao s k 0 != 0 && (s.mode.mode == .commission || s.mode.mode == .run || s.mode.mode == .hold) &&
    !(decide (arm < 8) && (nth {} s.safety.processor.arms arm).state == .sto) && fieldUp s 1 && drives s

/-- The bridge lines are switched by the chopper. -/
def auxDrives (s : State) (k : Nat) : Bool := auxEnabled s k && ao s k 0 == 1

/-! ### Phase accumulator (R236) -/

def accOf (s : State) (k : Nat) : PhaseAcc := tget {} s.prof.accs k
def setAcc (s : State) (k : Nat) (f : PhaseAcc → PhaseAcc) : State :=
  { s with prof := { s.prof with accs := tset {} s.prof.accs k (f (tget {} s.prof.accs k)) } }

/-- C:F in 2⁻⁴⁸ counts after n edges, and C. -/
def accAfter (a : PhaseAcc) (n : Nat) : Int := a.cf + a.velWord * n
def accCount (v : Int) : Int := v / 2 ^ 48

/-- C of an axis now. -/
def accNow (s : State) (k : Nat) : Int := accCount (accAfter (accOf s k) s.herd.edges)

/-- Electrical angle of a count (R354). -/
def twoPi32 : F32 := 0x40C90FDB
def pi32 : F32 := 0x40490FDB
def elecAngle (s : State) (k : Nat) (c : Int) : F32 :=
  let m := 4 * ao s k 2
  fDiv (fMul twoPi32 (fOfInt (c % (m : Int)))) (fOfInt (m : Nat))

/-- The phase targets follow I_ref and the electrical angle (R354). -/
def setTargets (s : State) (k : Nat) : State :=
  if ao s k 0 = 1 then
    let t := elecAngle s k (accNow s k)
    setAxis s k (fun x => { x with phaseA := { x.phaseA with target := fMul x.iRef (Config.cos32 t) }
                                   phaseB := { x.phaseB with target := fMul x.iRef (Config.sin32 t) } })
  else s

/-- The edges of the tick just ended go into C:F, and a new VEL_WORD takes the accumulator to the setpoint of the tick that starts; called at
the tick start, with `n` the edges of the tick just ended. -/
def accTick (n : Nat) (s : State) (k : Nat) : State :=
  let cf := accAfter (accOf s k) n
  let sp : Setpoint := tget {} s.ctl.setpoints (64 + k)
  let edges := max 1 (clocksTo s (nextTick s))
  let v := roundDiv (sp.pos * 2 ^ 16 - cf) edges
  let lim : Int := 2 ^ 48 / 50
  let s1 := setAcc s k (fun a => { a with cf := cf, velWord := clampInt (-lim) lim v })
  if v < -lim || lim < v then bump s1 0x21 (64 + k) 0x0E else s1

/-- PHASE_ACCUMULATOR_CARRY (R236, R354): one step, as a STEP pulse that starts `aux.dir_setup_ns` later and is `joint.step_width_ns` wide, or as a
microstep. -/
def execPhaseAccumulatorCarry (clk axis : Nat) (s : State) : Host.Outcome State Fault Refusal :=
  let s1 := begin clk s
  let c := accNow s1 axis
  let a := accOf s1 axis
  .next (if 8 ≤ axis || c = a.count || !fieldUp s1 1 then s1
    else
      let up := decide (a.count < c)
      let s2 := setAcc s1 axis (fun a => { a with count := if up then a.count + 1 else a.count - 1 })
      let s3 := setAxis s2 axis (fun x => { x with dir := up })
      if ao s1 axis 0 = 2 then (if auxEnabled s1 axis then emit s3 (.stepPulse axis up (now s3 + ao s3 axis 0x1D) (ov s3 0x21 (64 + axis) 0x10)) else s3) else setTargets s3 axis)

/-! ### Choppers (R357 to R359) -/

/-- Measured current of a sample. -/
def phaseAmps (s : State) (k : Nat) (v : Int) : F32 := fMul (fOfInt v) (aoF s k 9)

/-- Drive towards the sign of a quantity; where it is 0 the spec names no direction. -/
def driveToward (v : F32) : Bridge :=
  if fLt 0 v then .positive else if fLt v 0 then .negative else if Config.driveAtZero then .positive else .negative

/-- Opposite to the sign of a quantity. -/
def driveAgainst (v : F32) : Bridge := match driveToward v with | .positive => .negative | _ => .positive

/-- A time member in µs as ns. -/
def usNs (s : State) (k m : Nat) : Nat := (fRne (fMul (aoF s k m) (fOfInt 1000))).toNat

/-- Length of the fast decay, rounded to the 500 ns grid (R357). -/
def fastNs (s : State) (k : Nat) : Nat := (roundDiv ((usNs s k 0x0B * ao s k 0x0C : Nat) : Int) 500000).toNat * 500

/-- An on phase begins; a change of chopper comes about here (R359). [DEDUCED, log 90] -/
def startOn (hyst : Bool) (t : Nat) (p : BridgePhase) : BridgePhase :=
  { p with phase := .on, since := t, bridge := driveToward p.target, hysteresis := hyst }

/-- One sample of a phase at an instant (R357, R358). [DESIGN CHOICE, log 89] -/
def chopPhase (s : State) (k t : Nat) (hyst : Bool) (v : Int) (p : BridgePhase) : BridgePhase :=
  let i := phaseAmps s k v
  let h2 := fDiv (aoF s k 0x0F) (fOfInt 2)
  let mag := fAbs i
  let want := fAbs p.target
  let judged := decide (p.since + ao s k 0x0D ≤ t)
  match p.phase, p.hysteresis with
  | .on, false =>
    if (judged && fLe want mag) || decide (p.since + usNs s k 0x0E ≤ t) then
      { p with phase := if fastNs s k = 0 then .slow else .fast, since := t, bridge := if fastNs s k = 0 then .slowDecay else driveAgainst i }
    else { p with bridge := driveToward p.target }
  | .on, true =>
    if judged && fLe (fAdd (fAdd want p.offset) h2) mag then { p with phase := .fast, since := t, bridge := driveAgainst i }
    else { p with bridge := driveToward p.target }
  | .fast, true => if fLe mag (fSub (fAdd want p.offset) h2) then startOn hyst t p else { p with bridge := driveAgainst i }
  | _, _ =>
    if p.since + usNs s k 0x0B ≤ t then startOn hyst t p
    else if p.since + fastNs s k ≤ t then { p with phase := .slow, bridge := .slowDecay }
    else { p with bridge := driveAgainst i }

/-- Time driven since the last sample joins the sums of the tick (R360). [DESIGN CHOICE, log 89] -/
def driveTime (t : Nat) (p : BridgePhase) : BridgePhase :=
  let dt := t - p.lastSample
  { p with lastSample := t, tPos := if p.bridge = .positive then p.tPos + dt else p.tPos, tNeg := if p.bridge = .negative then p.tNeg + dt else p.tNeg }

/-- A sample joins the sums of the tick. -/
def addSample (v : Int) (p : BridgePhase) : BridgePhase :=
  { p with sample := v, first := if p.count = 0 then v else p.first, count := p.count + 1, sum := p.sum + v, sumAbs := p.sumAbs + v.natAbs
           sumTarget := dAdd p.sumTarget (dOfF32 (fAbs p.target)) }

/-- One current-sense sample of a phase. [DEDUCED, log 90] -/
def samplePhase (s : State) (k t : Nat) (v : Int) (p : BridgePhase) : BridgePhase :=
  let p1 := addSample v (driveTime t p)
  if !auxDrives s k then { p1 with bridge := .off }
  else if p1.bridge = .off then startOn (axisOf s k).hysteresis t p1
  else chopPhase s k t (axisOf s k).hysteresis v p1

/-- CURRENT_SAMPLE (R354, R357, R358): the converter codes of both phases; the sample is the code minus 2,048 (R440). -/
def execCurrentSample (clk axis a b : Nat) (s : State) : Host.Outcome State Fault Refusal :=
  let s1 := begin clk s
  .next (if !fieldUp s1 1 || 8 ≤ axis then s1
    else
      setAxis s1 axis (fun x => { x with phaseA := samplePhase s1 axis (now s1) ((a % 4096 : Nat) - 2048) x.phaseA
                                         phaseB := samplePhase s1 axis (now s1) ((b % 4096 : Nat) - 2048) x.phaseB }))

/-! ### Current reference (R356) -/

/-- The inner loop of an axis is enabled. -/
def auxLoop (s : State) (k : Nat) : Bool := ov s 0x21 (64 + k) 0x40 == 1

/-- REFERENCE_INSTANT (R356): at t₀ + 2,000 × j ns the chopper takes the newest output computed 40 ns or more before. -/
def execReferenceInstant (clk axis : Nat) (s : State) : Host.Outcome State Fault Refusal :=
  let s1 := begin clk s
  let t := tickStart s1 + (now s1 - tickStart s1) / 2000 * 2000
  let ready := (axisOf s1 axis).outputs.filter (fun o => decide (o.1 + 40 ≤ t))
  .next (if !fieldUp s1 1 || !auxLoop s1 axis then s1
    else match ready.getLast? with
      | none => s1
      | some (_, u) =>
        setTargets (setAxis s1 axis (fun x => { x with
          iRef := fClamp 0 (aoF s1 axis 8) u, outputs := x.outputs.filter (fun o => decide (t < o.1 + 40)) })) axis)

/-- I_ref of an axis without an inner loop at a tick start (R356). -/
def baseReference (s : State) (k : Nat) : F32 :=
  let sp : Setpoint := tget {} s.ctl.setpoints (64 + k)
  let base := if bit sp.flags 0 then aoF s k 7 else aoF s k 6
  let excess := fMax 0 (fSub (axisOf s k).loadAngle (aoF s k 0x19))
  fClamp base (aoF s k 8) (fMul base (fAdd (fOfInt 1) (fMul (aoF s k 0x18) excess)))

/-! ### Tick update: means, offset, load angle, stall (R358 to R362) -/

/-- Means of a tick in A: of i, of |i| and of |target|. [DESIGN CHOICE, log 66] -/
def meanAmps (s : State) (k : Nat) (p : BridgePhase) : F32 := if p.count = 0 then 0 else fMul (fDiv (fOfInt p.sum) (fOfInt p.count)) (aoF s k 9)
def meanAbs (s : State) (k : Nat) (p : BridgePhase) : F32 := if p.count = 0 then 0 else fMul (fDiv (fOfInt p.sumAbs) (fOfInt p.count)) (aoF s k 9)
def meanTarget (p : BridgePhase) : F32 := if p.count = 0 then 0 else dToF32 (dDiv p.sumTarget (dOfNat p.count))

/-- e_x of a phase (R360). -/
def backEmf (s : State) (k : Nat) (p : BridgePhase) : F32 :=
  let tick := fOfInt (tickNs s : Nat)
  let u := fDiv (fMul (aoF s k 0x15) (fOfInt ((p.tPos : Int) - p.tNeg))) tick
  let di := fSub (phaseAmps s k p.sample) (phaseAmps s k p.first)
  let l := fMul (aoF s k 0x14) (dToF32 (dRatio 1 1000))
  let dt := fMul tick (dToF32 (dRatio 1 1000000000))
  fSub (fSub u (fMul (aoF s k 0x13) (meanAmps s k p))) (fDiv (fMul l di) dt)

/-- An angle wrapped into (−π, π]. -/
def wrapAngle (v : F32) : F32 :=
  let turns := fDiv v twoPi32
  let n := -(fFloor (fSub (fOfInt 1 (-1)) turns))
  fSub v (fMul twoPi32 (fOfInt n))

/-- The load angle of the tick just ended (R360); `mid` is C at mid-tick. -/
def loadEstimate (s : State) (k : Nat) (mid : Int) : F32 :=
  let x := axisOf s k
  let w : F32 := if dLt 0 x.vel then fOfInt 1 else if dLt x.vel 0 then fOfInt (-1) else 0
  let ang := Config.atan2f (backEmf s k x.phaseB) (backEmf s k x.phaseA)
  wrapAngle (fMul w (wrapAngle (fAdd (fSub (elecAngle s k mid) ang) (fMul w (fDiv pi32 (fOfInt 2))))))

/-- δ_f after the tick just ended (R360, R361). -/
def loadAngle (s : State) (k : Nat) (mid : Int) : F32 :=
  let x := axisOf s k
  if ao s k 0 = 2 then 0
  else if ao s k 0 = 1 && dLe (dOfF32 (aoF s k 0x16)) (dDiv (dAbs x.vel) (dOfNat (ao s k 2))) then
    fAdd x.loadAngle (fDiv (fSub (loadEstimate s k mid) x.loadAngle) (fOfInt (ao s k 0x17 : Nat)))
  else x.loadAngle

/-- Mean currents off their targets by more than the tolerance in either phase (R359). -/
def offTarget (s : State) (k : Nat) : Bool :=
  let x := axisOf s k
  let tol := fMul (fDiv (fOfInt (ao s k 0x11 : Nat)) (fOfInt 1000)) x.iRef
  let off := fun (p : BridgePhase) => fLt tol (fAbs (fSub (meanAbs s k p) (meanTarget p)))
  off x.phaseA || off x.phaseB

/-- The chopper of an axis in AUTO: runs of ticks, and the change they make due (R359). -/
def chopperRuns (s : State) (k : Nat) (x : AuxAxis) : AuxAxis :=
  match ao s k 0x0A with
  | 1 => { x with hysteresis := false, chopDue := none, fallbackRun := 0, slowRun := 0 }
  | 2 => { x with hysteresis := true, chopDue := none, fallbackRun := 0, slowRun := 0 }
  | _ =>
    let n := ao s k 0x12
    let fb := if !x.hysteresis && auxDrives s k && offTarget s k then x.fallbackRun + 1 else 0
    let sl := if x.hysteresis && dLt (dAbs x.vel) (dScale (dAbs x.entryVel) (-1)) then x.slowRun + 1 else 0
    { x with fallbackRun := fb, slowRun := sl
             chopDue := if !x.hysteresis && decide (n ≤ fb) then some true else if x.hysteresis && decide (n ≤ sl) then some false else none }

/-- Offset of R358 at a tick start. -/
def hystOffset (s : State) (k : Nat) (p : BridgePhase) : F32 :=
  let h := aoF s k 0x0F
  if p.hysteresis then fClamp (fNeg h) h (fAdd p.offset (fMul (aoF s k 0x10) (fSub (meanTarget p) (meanAbs s k p)))) else 0

/-- A phase's sums start anew. -/
def clearSums (p : BridgePhase) : BridgePhase := { p with count := 0, sum := 0, sumAbs := 0, sumTarget := 0, tPos := 0, tNeg := 0 }

/-- AUX_TICK_UPDATE of one axis (R356, R358 to R361); `mid` is C in the middle of the tick just ended, `t` the tick start. -/
def auxTick (t : Nat) (mid : Int) (s0 : State) (k : Nat) : State :=
  let s := setAxis s0 k (fun x => { x with phaseA := driveTime t x.phaseA, phaseB := driveTime t x.phaseB })
  let angle := loadAngle s k mid
  let x := axisOf s k
  let stalled := ao s k 0 != 2 && fEq x.iRef (aoF s k 8) && fLt (aoF s k 0x1A) angle
  let run := if stalled then x.stallRun + 1 else 0
  let y := chopperRuns s k x
  let fresh := fun (p : BridgePhase) => clearSums { p with offset := hystOffset s k p }
  let sp : Setpoint := tget {} s.ctl.setpoints (64 + k)
  let s1 := setAxis s k (fun _ => { y with
    loadAngle := angle, meanA := meanAmps s k x.phaseA, meanB := meanAmps s k x.phaseB
    stallRun := run, stall := x.stall && stalled, stallDue := stalled && !x.stall && decide (ao s k 0x1B ≤ run)
    phaseA := fresh x.phaseA, phaseB := fresh x.phaseB, vel := sp.vel })
  setTargets (if auxLoop s1 k then s1 else setAxis s1 k (fun x => { x with iRef := baseReference s1 k })) k

/-- All axes at a tick start; `n` is the number of edges of the tick just ended (R236, R360). -/
def auxTicks (n : Nat) (s : State) : State :=
  if fieldUp s 1 then
    (List.range 8).foldl (fun s k =>
      let mid := accCount (accAfter (accOf s k) (n / 2))
      auxTick (tickStart s) mid (accTick n s k) k) s
  else s

/-- CHOPPER_FALLBACK (R359): the change of chopper that the tick start made due. -/
def execChopperFallback (clk axis : Nat) (s : State) : Host.Outcome State Fault Refusal :=
  let s1 := begin clk s
  let x := axisOf s1 axis
  .next (match x.chopDue with
    | none => s1
    | some h =>
      let s2 := setAxis s1 axis (fun x => { x with hysteresis := h, chopDue := none, fallbackRun := 0, slowRun := 0, entryVel := if h then x.vel else x.entryVel })
      if h then bump s2 0x90 (0x20 + axis) 0x23 else s2)

/-- STALL (R361): the stall that the tick start found. -/
def execStall (clk axis : Nat) (s : State) : Host.Outcome State Fault Refusal :=
  let s1 := begin clk s
  .next (if !(axisOf s1 axis).stallDue then s1
    else
      let s2 := bump (setAxis s1 axis (fun x => { x with stall := true, stallDue := false })) 0x90 (0x20 + axis) 0x22
      if ao s1 axis 0x1C = 1 then
        let say := fun (s : State) (w : Word) => errorAs s w 0x0023 axis .event
        let ch := 64 + axis
        let w := fun r => errWord 1 4 1 r false axis
        if auxLoop s1 axis then
          axisReactionAs say (setLoop s2 ch (fun l => { l with due := none, fault := true, cause := some .drive })) ch w (.axisFault ch 0)
        else axisReactionAs say s2 ch w (.stall axis)
      else log s2 .event 0x0023 axis 0)

/-! ### Feedback (R362) -/

/-- AUX_FEEDBACK_POST (R362): the operand is formed at its sample instant, or at the tick latch of an absolute encoder, and reaches the
matching store 400 ns later. -/
def execAuxFeedbackPost (clk axis : Nat) (s : State) : Host.Outcome State Fault Refusal :=
  let s1 := begin clk s
  let e := ao s1 axis 3
  let x := axisOf s1 axis
  let enc := encOf s1 e
  let absolute := decide (e < 8) && decide (2 ≤ eo s1 e 0)
  let at_ := tickStart s1 + ao s1 axis 5
  let p : Int := if 8 ≤ e then accNow s1 axis * 2 ^ 32
    else vRne (vMul (vMul (vInt (if absolute then enc.latch.p else enc.p)) (dVal (obD s1.objs 0x90 (0x20 + axis) 4))) (vInt 1 32))
  let fb : Feedback := {
    sampleTime := if absolute then enc.latch.t else at_, torqueOn := auxEnabled s1 axis, driveFault := x.stall && ao s1 axis 0x1C == 1
    position := sext 64 (wrap 64 p), y1 := x.meanA, y2 := x.meanB, y3 := x.loadAngle, vdc := aoF s1 axis 0x15
    age := if 8 ≤ e then 0 else enc.age }
  .next (if !s1.herd.running || !fieldUp s1 1 || 8 ≤ axis || x.fbTick = some s1.herd.tick || now s1 < at_ ||
        (absolute && enc.latchTick != some s1.herd.tick) then s1
    else
      let s2 := setAxis s1 axis (fun x => { x with fbTick := some s1.herd.tick })
      withSched { s2 with ctl := { s2.ctl with feedback := tput s2.ctl.feedback (64 + axis) fb } } (fun c => { c with
        posts := c.posts ++ [{ source := 0x1000 + 64 + axis, tag := s1.herd.tick, value := .feedback fb, age := fb.age
                               at_ := (if absolute then now s1 else at_) + 400 }] }))

end Sys2Proof.Machine
end

