-- ==== Sys2Proof/Machine/Time.lean ====
section
/-! DEFINITION. Herd time: the servo, its sources, the PTP domains, holdover, timestamps and the clock pins (04_herd_time.md R87 to R103). -/

namespace Sys2Proof.Machine

def withHerd (s : State) (f : HerdState → HerdState) : State := { s with herd := f s.herd }
def domainOf (s : State) (d : Nat) : PtpDomain := nth {} s.herd.domains d
def setDomain (s : State) (d : Nat) (f : PtpDomain → PtpDomain) : State := withHerd s (fun h => { h with domains := upd h.domains d f })
def timeSource (s : State) : Nat :=
  if pairOn s.objs && (s.pair.role == .standby || s.pair.role == .notReady) then 3 else ov s 0x80 0 0
def domainRole (s : State) (d : Nat) : Nat := ov s 0x80 (0x10 + d) 2

/-! ### Timestamps (R98, R99) -/

/-- A time in 0.25 ns rounded to the nearest ns. [DESIGN CHOICE, log 46] -/
def nearestNs (q : Int) : Nat :=
  (if q % 4 < 2 then q / 4 else if q % 4 = 2 && !Config.tieUp (q / 4) then q / 4 else q / 4 + 1).toNat

/-- A time in 2⁻³² ns rounded to the nearest ns. [DESIGN CHOICE, log 46] -/
def nearestFrac (p : Int) : Nat :=
  let r := p % fracUnit
  (if 2 * r < fracUnit || (2 * r = fracUnit && !Config.tieUp (p / fracUnit)) then p / fracUnit else p / fracUnit + 1).toNat

/-- Egress latency of a port in 0.25 ns: the module's own and the carrier's (R99). -/
def egressQ (s : State) (port : Nat) : Int := (Config.egressLatency port : Int) + sext 16 (ov s 0x80 (0x20 + port) 1)

/-- Port timestamp of a frame received, whose capture is net of the module's own latency, and of one sent at this instant (R98, R99). -/
def rxStamp (s : State) (port capture : Nat) : Nat := nearestNs ((capture : Int) - sext 16 (ov s 0x80 (0x20 + port) 0))
def txStamp (s : State) (port : Nat) : Nat := nearestFrac (herdPos s.herd + egressQ s port * 2 ^ 30)

/-- The Ethernet MACs or the herd-time unit take no work: gated, isolated or without power (R18, R393). [DESIGN CHOICE, log 137] -/
def ptpDown (s : State) : Bool := blockDown s 3 4 12 || isolated s 3 5

/-- `time.asym_q` of a port in 2⁻¹⁶ ns. -/
def asymOf (s : State) (port : Nat) : Int := sext 16 (ov s 0x80 (0x20 + port) 2) * 16384

/-! ### The servo (R92, R95) -/

/-- ppb in ADJ units, rounded: × 17.179869184. -/
def ppbAdj (p : F64) : Int :=
  match dVal p with
  | .fin neg m e =>
    let n : Int := if neg then -(m : Int) else m
    let k := e + 34
    if 0 ≤ k then roundDiv (n * (2 ^ k.toNat : Nat)) 1000000000 else roundDiv n (1000000000 * 2 ^ (-k).toNat)
  | _ => 0

/-- Rate clamp R of R92. -/
def rateMax (s : State) : F64 := dOfNat (ov s 0x80 0 4)

/-- One step of the servo of R92: the integral and the rate after a corrected offset and a time in seconds. -/
def servoStep (s : State) (i0 th dt : F64) : F64 × F64 :=
  let r := rateMax s
  let i := dClamp (dNeg r) r (dAdd i0 (dMul (dMul (dOfF32 (obF s.objs 0x80 0 3)) th) dt))
  (i, dClamp (dNeg r) r (dNeg (dAdd (dMul (dOfF32 (obF s.objs 0x80 0 2)) th) i)))

/-- Seconds since an instant; 0 where there is none. -/
def secondsSince (s : State) (t : Option Nat) : F64 := dRatio ((t.map (fun u => (now s : Int) - u)).getD 0) 1000000000

/-- An offset in 2⁻¹⁶ ns as binary64 ns. -/
def offsetD (o : Int) : F64 := dOfInt o (-16)

/-- |o| ≤ n ns, for an offset in 2⁻¹⁶ ns. -/
def withinNs (o : Int) (n : Nat) : Bool := decide (o.natAbs ≤ n * 65536)

/-- slew_rem in 2⁻¹⁶ ns, rounded down. -/
def slewRem16 (s : State) : Int := s.herd.slewRem / 65536

/-- A slew of an offset in 2⁻¹⁶ ns begins (R95). -/
def startSlew (s : State) (o : Int) : State :=
  let t := ppbAdj (dOfNat (ov s 0x80 0 6))
  withHerd s (fun h => { h with slewRem := o * 65536, slewTerm := if 0 < o then -t else if o < 0 then t else 0 })

/-- Herd time starts following a source at an offset (R93): a step waits for the next tick start where R88 allows one, else a slew.
[DEDUCED, log 45] -/
def removeOffset (s : State) (o : Int) : State :=
  if !withinNs o (ov s 0x80 0 5) && !imageActive s then
    withHerd s (fun h => { h with stepPending := some (-o * 65536), slewRem := 0, slewTerm := 0 })
  else startSlew s o

/-- The servo's rate takes effect. -/
def setRate (s : State) (p : F64) : State := withHerd s (fun h => { h with servoAdj := ppbAdj p })

/-- History of the integral while LOCKED (R97): the newest 1,024 s spent LOCKED. -/
def noteHistory (s : State) : State :=
  let h := s.herd
  let since := (h.lastMeasure.map (fun t => now s - t)).getD 0
  let spent := h.lockedNs + since
  withHerd s (fun h => { h with
    lockedNs := spent, history := (now s, spent, h.integral) :: h.history.filter (fun e => decide (spent - e.2.1 ≤ 1024000000000)) })

/-- Measurements in a row within the lock threshold (R93). -/
def lockCount (s : State) (th : Int) (locked : Bool) (run : Nat) : Nat :=
  if withinNs th (ov s 0x80 0 9) then min 16 (run + 1) else if locked then run else 0

/-- An offset measurement of the source herd time follows (R92, R93). -/
def herdMeasure (s : State) (o : Int) : State :=
  let s1 := if s.herd.following then s else
    removeOffset (withHerd s (fun h => { h with following := true, lockRun := 0, state := .acquiring, holdover := none })) o
  let th := if s.herd.following then o - slewRem16 s else 0
  let r := servoStep s1 s1.herd.integral (offsetD th) (secondsSince s1 s1.herd.lastMeasure)
  let locked := s1.herd.state = .locked
  let s2 := withHerd (setRate s1 r.2) (fun h => { h with integral := r.1, lockRun := lockCount s1 th locked h.lockRun, lastOffset := o })
  let s3 := if locked then noteHistory s2 else s2
  let s4 := withHerd s3 (fun h => { h with lastMeasure := some (now s) })
  if locked && !withinNs th (4 * ov s 0x80 0 9) then withHerd s4 (fun h => { h with state := .acquiring, lockRun := 0 }) else s4

/-! ### Holdover (R97) -/

/-- Mean of the integral over the last 64 s spent LOCKED; a free value where no measurement was taken LOCKED. [DESIGN CHOICE, log 71] -/
def holdMean (s : State) : F64 :=
  let newest := (s.herd.history.head?.map (·.2.1)).getD 0
  let l := s.herd.history.filter (fun e => decide (newest - e.2.1 ≤ 64000000000))
  if l.isEmpty then dOfInt (sext 32 (Config.freeValue s.freeCount))
  else dDiv (dDot (l.map (fun e => (e.2.2, dOne)))) (dOfNat l.length)

/-- Least-squares slope of the integral over the history in ppb/s, clamped to ±1; 0 with less than 256 s of it. Its time axis is herd time
at each measurement. [UNVERIFIED, log 44] [DESIGN CHOICE, log 131] -/
def holdDrift (s : State) : F64 :=
  let l := s.herd.history
  let spent := (l.head?.map (·.2.1)).getD 0 - (l.getLast?.map (·.2.1)).getD 0
  if spent < 256000000000 then 0
  else
    let n := l.length
    let t := fun (e : Nat × Nat × F64) => dRatio e.1 1000000000
    let mean := dDiv (dDot (l.map (fun e => (t e, dOne)))) (dOfNat n)
    let dev := l.map (fun e => (dSub (t e) mean, e.2.2))
    dClamp (dOfInt (-1)) dOne (dDiv (dDot dev) (dDot (dev.map (fun e => (e.1, e.1)))))

/-- The servo rate of R97 at the present instant, which takes effect on entry and at every tick start of the holdover. [UNVERIFIED, log 44]
[DESIGN CHOICE, log 132] -/
def holdRate (s : State) : State :=
  match s.herd.holdover with
  | some h =>
    let r := rateMax s
    setRate s (dClamp (dNeg r) r (dAdd h.integral (dMul h.drift (secondsSince s (some h.entered)))))
  | none => s

/-- Herd time enters holdover (HOLDOVER, R96, R97). -/
def enterHoldover (s : State) : State :=
  if s.herd.state = .holdover then s
  else
    let h : Holdover := { entered := now s, integral := holdMean s, drift := holdDrift s, lastOffset := s.herd.lastOffset.natAbs }
    let s1 := withHerd s (fun u => { u with state := .holdover, selected := none, following := false, lockRun := 0, holdover := some h, lastMeasure := none })
    holdRate (log { s1 with freeCount := s1.freeCount + 1 } .event 0x0010 0 0)

/-- `time.holdover_error_ns`: the last offset rounded to the nearest ns, the drift term rounded down. [DESIGN CHOICE, log 132] -/
def holdoverError (s : State) : Nat :=
  match s.herd.holdover with
  | some h => (roundDiv h.lastOffset 65536).toNat + ov s 0x80 0 0x0F * (now s - h.entered) / 1000000000
  | none => 0

/-! ### Following a PTP domain (R95, R96) -/

def domainLocked (s : State) (d : Nat) : Bool := domainRole s d = 1 && (domainOf s d).state = .locked

/-- θ of a domain at this instant: herd time against its virtual clock, in 2⁻¹⁶ ns. -/
def offsetNow (s : State) (d : Nat) : Int :=
  match (domainOf s d).virt with
  | some v => (herdPos s.herd - v) / 65536
  | none => (domainOf s d).offset

/-- Herd time starts following a domain (R95); HT_STATUS.STATE is ACQUIRING until 16 measurements in a row. [DESIGN CHOICE, log 130] -/
def followDomain (s : State) (d : Nat) : State :=
  let p := domainOf s d
  let r := rateMax s
  let o := offsetNow s d
  let s1 := withHerd s (fun h => { h with
    selected := some d, following := true, integral := p.integral, state := .acquiring, lockRun := 0, holdover := none
    lastMeasure := p.lastMeasure, lastOffset := o })
  setRate (removeOffset s1 o) (dClamp (dNeg r) r (dNeg p.integral))

/-- A LOCKED domain may replace the one herd time follows (R96): at its first lock, or once it has stayed LOCKED again for `time.revert_s`,
which is not 0. -/
def mayReplace (s : State) (d : Nat) : Bool :=
  let p := domainOf s d
  let wait := ov s 0x80 0 8
  domainLocked s d && (!p.relocked || (wait != 0 && p.lockedSince.any (fun t => decide (t + wait * 1000000000 ≤ now s))))

/-- The domain herd time follows (R96): the preferred one, or, while that may not replace it, a LOCKED one it follows; else the other. -/
def reselect (s : State) : State :=
  let p := ov s 0x80 0 7
  if timeSource s != 1 then s
  else if s.herd.selected.any (fun d => domainLocked s d && (d == p || !mayReplace s p)) then s
  else
    if domainLocked s p then followDomain s p
    else if domainLocked s (1 - p) then followDomain s (1 - p)
    else enterHoldover s

/-- A domain is LOST (R96). -/
def loseDomain (s : State) (d : Nat) : State :=
  reselect (bump (setDomain s d (fun p => { p with state := .lost, lockRun := 0, lockedSince := none, lastSync := none, lastMeasure := none })) 0x80 (0x10 + d) 0x0C)

/-- The EXTREF or PAIR source is LOST (R96, R102). -/
def loseSource (s : State) : State := enterHoldover s

/-- What a change of the time objects means: a changed source starts anew, FREE leaves ADJ at 0, and a domain whose identity or role
changed starts anew. -/
def retime (old s : State) : State :=
  let moved := fun (d m : Nat) => ov old 0x80 (0x10 + d) m != ov s 0x80 (0x10 + d) m
  let s1 := [0, 1].foldl (fun (s : State) d =>
    if (List.range 5).any (moved d) then setDomain s d (fun _ => { state := if domainRole s d = 0 then .disabled else .listening }) else s) s
  if timeSource old != timeSource s then
    let s2 := withHerd s1 (fun h => { h with selected := none, following := false, lockRun := 0, lastMeasure := none, holdover := none, state := .acquiring })
    if timeSource s = 0 then withHerd s2 (fun h => { h with state := .free, servoAdj := 0, slewRem := 0, slewTerm := 0 })
    else if timeSource s = 1 then reselect s2
    else s2
  else reselect s1

/-! ### PTP messages (R94, R95, R99) -/

/-- 2^k seconds in ns. -/
def logInterval (k : Int) : Nat := if 0 ≤ k then 1000000000 * 2 ^ k.toNat else 1000000000 / 2 ^ (-k).toNat

/-- A domain can be lost: it is a SLAVE that has measured. -/
def measuring (s : State) (d : Nat) : Bool :=
  domainRole s d = 1 && ((domainOf s d).state = .locked || (domainOf s d).state = .uncalibrated)

/-- The Sync window of a domain is closed at an instant (R96, R100). -/
def syncClosed (s : State) (d t : Nat) : Bool :=
  measuring s d && (domainOf s d).lastSync.any (fun u => decide (u + 3 * logInterval (sext 16 (ov s 0x80 (0x10 + d) 5)) ≤ t))

/-- A message belongs to a domain: its number, Ethernet port and transport. -/
def forDomain (s : State) (m : PtpMessage) (d : Nat) : Bool :=
  domainRole s d != 0 && ov s 0x80 (0x10 + d) 0 = m.domainNumber && ov s 0x80 (0x10 + d) 1 = m.port && ov s 0x80 (0x10 + d) 4 = m.transport

/-- A valid Sync of the parent is measured in a domain (R95, R99). -/
def takeSync (m : PtpMessage) (s : State) (d stamp : Nat) : State :=
    let p := domainOf s d
    let t2 := (stamp : Int) * 65536
    let o := t2 - m.timestamp - (p.meanPath + asymOf s (5 + m.port)) - m.correction
    let again := p.virt.isNone || p.state = .listening || p.state = .lost
    let virt := if again then herdPos s.herd - o * 65536 else p.virt.getD 0
    let ov' := o + (virt - herdPos s.herd) / 65536
    let r := servoStep s p.integral (offsetD ov') (secondsSince s p.lastMeasure)
    let state := if again then DomainMode.uncalibrated else p.state
    let locked := state = .locked
    let s1 := setDomain s d (fun p => { p with
      state := state, virt := some virt, integral := r.1, virtAdj := clampInt (-(adjMax s.objs)) (adjMax s.objs) (ppbAdj r.2)
      lockRun := lockCount s ov' locked (if again then 0 else p.lockRun), offset := o, lastSync := some stamp
      lastT1 := m.timestamp + m.correction, lastT2 := t2, lastMeasure := some (now s) })
    if locked && !withinNs ov' (4 * ov s 0x80 0 9) then loseDomain s1 d
    else if timeSource s1 = 1 && s1.herd.selected = some d then herdMeasure s1 o
    else s1

/-- A Sync in a domain: one stamped at or after the close of the window finds the domain LOST and begins it anew (R96, R100). -/
def domainSync (m : PtpMessage) (s : State) (d : Nat) : State :=
  if !(forDomain s m d && domainRole s d = 1 && (domainOf s d).parent.any (fun a => a.sender = m.source)) then s
  else
    let stamp := rxStamp s (5 + m.port) m.capture
    takeSync m (if syncClosed s d stamp then loseDomain s d else s) d stamp

/-- The module takes a PTP message: its blocks work, and it needs no option that Table 4-2 does not list (R18, R94). -/
def takesPtp (s : State) (m : PtpMessage) : Bool := s.herd.running && !ptpDown s && !m.unsupported

/-- PTP_SYNC_RX. -/
def execPtpSyncRx (clk : Nat) (m : PtpMessage) (s : State) : Host.Outcome State Fault Refusal :=
  let s1 := begin clk s
  .next (if takesPtp s1 m && m.messageType = 0 then [0, 1].foldl (domainSync m) s1 else s1)

/-- Order of Announce data under the default best master clock algorithm. -/
def announceKey (a : Announce) : List Nat := [a.priority1, a.clockClass, a.accuracy, a.variance, a.priority2, a.gm, a.stepsRemoved, a.sender]

def lexLess : List Nat → List Nat → Bool
  | a :: as, b :: bs => decide (a < b) || (a == b && lexLess as bs)
  | _, _ => false

/-- The parent changes or repeats its Announce. -/
def takeParent (s : State) (d : Nat) (a : Announce) : State :=
  let p := domainOf s d
  let s1 := setDomain s d (fun p => { p with
    parent := some a, gm := a.gm, lastAnnounce := some (now s), announceInterval := a.interval
    state := if p.state = .listening then .uncalibrated else p.state
    foreign := p.foreign.filter (fun f => f.1 != a.sender) })
  if timeSource s = 1 && s.herd.selected = some d && p.gm != a.gm then withHerd s1 (fun h => { h with following := false }) else s1

/-- An Announce in a domain of role SLAVE; a sender other than the parent counts from its second Announce within four intervals. [DEDUCED,
log 48] -/
def domainAnnounce (s : State) (d : Nat) (a : Announce) : State :=
  let p := domainOf s d
  if p.parent.any (fun b => b.sender = a.sender) then takeParent s d a
  else if p.foreign.any (fun f => f.1 = a.sender && decide (now s < f.2 + 4 * logInterval a.interval)) then
    if p.parent.all (fun b => lexLess (announceKey a) (announceKey b)) then takeParent s d a
    else setDomain s d (fun p => { p with foreign := (a.sender, now s) :: p.foreign.filter (fun f => f.1 != a.sender) })
  else setDomain s d (fun p => { p with foreign := (a.sender, now s) :: p.foreign.filter (fun f => f.1 != a.sender) })

/-- The module's sourcePortIdentity in a domain. [DESIGN CHOICE, log 47] -/
def ownPort : Nat := Config.clockIdentity * 65536 + 1

/-- Any other PTP message in a domain. -/
def domainMessage (m : PtpMessage) (s : State) (d : Nat) : State :=
  let p := domainOf s d
  let port := 5 + m.port
  let mech := ov s 0x80 (0x10 + d) 3
  let t := (rxStamp s port m.capture : Int) * 65536
  if !forDomain s m d then s
  else match m.messageType with
    | 1 => if domainRole s d = 2 && mech = 0 then emit s (.ptp d m.port 9 m.sequenceId [t - m.correction, m.source]) else s
    | 2 =>
      if mech = 1 then
        let sent := txStamp s port
        let s1 := emit (emit s (.ptp d m.port 3 m.sequenceId [t, m.source])) (.ptp d m.port 10 m.sequenceId [(sent : Int) * 65536, m.source])
        if ov s 0x80 0 0x14 = 1 then dueStamp s1 { port := port, frameId := m.sequenceId, time := sent } else s1
      else s
    | 3 =>
      match p.delayReqAt with
      | some t1 =>
        if mech = 1 && m.requester = ownPort && (m.sequenceId + 1) % 65536 = p.delaySeq then
          setDomain s d (fun p => { p with meanPath := ((t - t1 * 65536) - (m.timestamp - m.receipt) - m.correction) / 2, delayReqAt := none })
        else s
      | none => s
    | 9 =>
      match p.delayReqAt with
      | some t3 =>
        if mech = 0 && domainRole s d = 1 && m.requester = ownPort && (m.sequenceId + 1) % 65536 = p.delaySeq && p.lastSync.isSome then
          setDomain s d (fun p => { p with meanPath := ((p.lastT2 - p.lastT1) + (m.timestamp - m.correction - t3 * 65536)) / 2, delayReqAt := none })
        else s
      | none => s
    | 11 => match m.announce with
      | some a => if domainRole s d = 1 then domainAnnounce s d a else s
      | none => s
    | _ => s

/-- PTP_MESSAGE_RX. -/
def execPtpMessageRx (clk : Nat) (m : PtpMessage) (s : State) : Host.Outcome State Fault Refusal :=
  let s1 := begin clk s
  .next (if takesPtp s1 m then [0, 1].foldl (domainMessage m) s1 else s1)

/-- An event message leaves a port: its sequenceId and timestamp, queued while `time.txts_ptp` is 1 (R101). -/
def sendEvent (s : State) (d kind seq : Nat) (content : List Int) : State :=
  let port := ov s 0x80 (0x10 + d) 1
  let s1 := emit s (.ptp d port kind seq content)
  if ov s 0x80 0 0x14 = 1 then dueStamp s1 { port := 5 + port, frameId := seq, time := txStamp s (5 + port) } else s1

/-- An interval of 2^k s has passed since an instant, if there is one. -/
def intervalOver (s : State) (last : Option Nat) (k : Int) : Bool := last.all (fun t => decide (t + logInterval k ≤ now s))

/-- The two-step Sync of a GRANDMASTER with its Follow_Up. -/
def sendSync (s : State) (d : Nat) : State :=
  let p := domainOf s d
  let port := ov s 0x80 (0x10 + d) 1
  let s1 := setDomain s d (fun p => { p with syncSeq := (p.syncSeq + 1) % 65536, syncSent := some (now s) })
  emit (sendEvent s1 d 0 p.syncSeq []) (.ptp d port 8 p.syncSeq [(txStamp s (5 + port) : Int) * 65536])

/-- The Announce of a GRANDMASTER: priority1, clockClass, accuracy, variance, priority2, identity and stepsRemoved 0. [DESIGN CHOICE, log
134] -/
def sendAnnounce (s : State) (d : Nat) : State :=
  let p := domainOf s d
  let f := fun (i : Nat) => (Config.announceField i : Int)
  emit (setDomain s d (fun p => { p with announceSeq := (p.announceSeq + 1) % 65536, announceSent := some (now s) }))
    (.ptp d (ov s 0x80 (0x10 + d) 1) 11 p.announceSeq [(ov s 0x80 (0x10 + d) 6 : Int), f 0, f 1, f 2, f 3, (Config.clockIdentity : Int), 0])

/-- The delay request of a domain's mechanism: Delay_Req or Pdelay_Req. -/
def sendDelayReq (s : State) (d : Nat) : State :=
  let p := domainOf s d
  let sent := txStamp s (5 + ov s 0x80 (0x10 + d) 1)
  let s1 := setDomain s d (fun p => { p with delaySeq := (p.delaySeq + 1) % 65536, delayReqAt := some sent, delaySent := some (now s) })
  sendEvent s1 d (if ov s 0x80 (0x10 + d) 3 = 0 then 1 else 2) p.delaySeq []

/-- PTP_TRANSMIT_INTERVAL (R94), once the message's interval has passed: 0 Sync and Follow_Up, 1 Announce, 2 the delay request. -/
def transmit (s : State) (d kind : Nat) : State :=
  let p := domainOf s d
  let role := domainRole s d
  let mech := ov s 0x80 (0x10 + d) 3
  match kind with
  | 0 => if role = 2 && intervalOver s p.syncSent (sext 16 (ov s 0x80 (0x10 + d) 5)) then sendSync s d else s
  | 1 => if role = 2 && intervalOver s p.announceSent (Config.logAnnounce % 5 : Nat) then sendAnnounce s d else s
  | _ =>
    if ((role = 1 && mech = 0 && p.parent.isSome) || (role != 0 && mech = 1)) &&
        intervalOver s p.delaySent (((Config.logDelayReq % 12 : Nat) : Int) - 7) then sendDelayReq s d
    else s

/-- PTP_TRANSMIT_INTERVAL. -/
def execPtpTransmitInterval (clk domain kind : Nat) (s : State) : Host.Outcome State Fault Refusal :=
  let s1 := begin clk s
  .next (if s1.herd.running && !ptpDown s1 && decide (domain < 2) then transmit (takeStamps s1) domain kind else s1)

/-! ### Locks, losses and reverts (R93, R96) -/

/-- SOURCE_LOCKED: domain 0 or 1 on its virtual clock, or 2 the source herd time follows. -/
def sourceLocked (s : State) (source : Nat) : State :=
  if source < 2 then
    let p := domainOf s source
    if p.lockRun = 16 && p.state = .uncalibrated then
      reselect (setDomain s source (fun p => { p with
        state := .locked, lockedSince := some (now s), relocked := p.everLocked, everLocked := true }))
    else s
  else if s.herd.lockRun = 16 && s.herd.state = .acquiring then withHerd s (fun h => { h with state := .locked })
  else s

/-- SOURCE_LOCKED. -/
def execSourceLocked (clk source : Nat) (s : State) : Host.Outcome State Fault Refusal := .next (sourceLocked (begin clk s) source)

/-- SYNC_TIMEOUT (R96): the window of three Sync intervals has closed. -/
def execSyncTimeout (clk domain : Nat) (s : State) : Host.Outcome State Fault Refusal :=
  let s1 := begin clk s
  .next (if decide (domain < 2) && syncClosed s1 domain (now s1) then loseDomain s1 domain else s1)

/-- ANNOUNCE_RECEIPT_TIMEOUT (R96): announceReceiptTimeout is 3. -/
def execAnnounceReceiptTimeout (clk domain : Nat) (s : State) : Host.Outcome State Fault Refusal :=
  let s1 := begin clk s
  let p := domainOf s1 domain
  let due := p.lastAnnounce.any (fun t => decide (t + 3 * logInterval p.announceInterval ≤ now s1))
  .next (if decide (domain < 2) && domainRole s1 domain = 1 && due then
      let s2 := setDomain s1 domain (fun p => { p with parent := none, lastAnnounce := none })
      if measuring s1 domain then loseDomain s2 domain else s2
    else s1)

/-- REVERT_TIMER (R96): the preferred domain has stayed LOCKED for `time.revert_s`, which is not 0. -/
def execRevertTimer (clk : Nat) (s : State) : Host.Outcome State Fault Refusal :=
  let s1 := begin clk s
  let p := ov s1 0x80 0 7
  .next (if timeSource s1 = 1 && mayReplace s1 p && s1.herd.selected = some (1 - p) then followDomain s1 p else s1)

/-- SLEW_END (R95): slew_rem has reached 0. -/
def execSlewEnd (clk : Nat) (s : State) : Host.Outcome State Fault Refusal :=
  let s1 := begin clk s
  .next (if s1.herd.slewRem = 0 then withHerd s1 (fun h => { h with slewTerm := 0 }) else s1)

/-! ### EXTREF, PPS and the pair port (R91, R102) -/

/-- A PPS_IN edge is accepted or rejected (R102): θ is the distance to the nearest whole second. -/
def takePps (s : State) (stamp : Nat) : State :=
  let k := stamp / 1000000000
  let r := stamp % 1000000000
  let up := decide (500000000 < r) || (r = 500000000 && Config.tieUp k)
  let o : Int := ((r : Int) - (if up then 1000000000 else 0)) * 65536
  let accept := withHerd s (fun h => { h with lastPps := some stamp, ppsRejectRun := 0 })
  if timeSource s != 2 then accept
  else if s.herd.state = .locked && !withinNs (o - slewRem16 s) 1000 then
    let s1 := bump (withHerd s (fun h => { h with ppsRejectRun := h.ppsRejectRun + 1 })) 0x80 0 0x13
    if s1.herd.ppsRejectRun = 3 then loseSource (withHerd s1 (fun h => { h with ppsRejectRun := 0 })) else s1
  else herdMeasure accept o

/-- The window of the last accepted PPS_IN edge is closed at an instant (R102). -/
def ppsClosed (s : State) (t : Nat) : Bool := s.herd.lastPps.any (fun u => decide (u + 1500000000 ≤ t))

/-- 1.5 s have passed without an accepted edge: PPS_IN_OK goes out, and a source EXTREF is LOST. -/
def ppsLost (s : State) : State :=
  let s1 := withHerd s (fun h => { h with lastPps := none })
  if timeSource s1 = 2 && s1.herd.following then loseSource s1 else s1

/-- PPS_IN_EDGE (R102): one stamped at or after the close of the window finds the source LOST and begins it anew (R100). -/
def ppsEdge (s : State) (capture : Nat) : State :=
  let stamp := nearestNs capture
  takePps (if ppsClosed s stamp then ppsLost s else s) stamp

/-- PPS_IN_EDGE. -/
def execPpsInEdge (clk capture : Nat) (s : State) : Host.Outcome State Fault Refusal :=
  let s1 := begin clk s
  .next (if s1.herd.running && !isolated s1 3 5 then ppsEdge s1 capture else s1)

/-- PPS_TIMEOUT (R102). -/
def execPpsTimeout (clk : Nat) (s : State) : Host.Outcome State Fault Refusal :=
  let s1 := begin clk s
  .next (if ppsClosed s1 (now s1) then ppsLost s1 else s1)

/-- Instant of the rising edge of PPS_OUT for a whole second, in 2⁻³² ns (R102). -/
def ppsInstant (s : State) (second : Int) : Int := (4000000000 * second + sext 16 (ov s 0x80 0 0x11)) * 2 ^ 30

/-- Whole second of the next PPS_OUT edge that has not been given, and the clocks until the first clock edge at or after it (R89). -/
def nextPps (s : State) : Int × Nat :=
  let k := (herdPos s.herd - sext 16 (ov s 0x80 0 0x11) * 2 ^ 30) / (1000000000 * fracUnit)
  let here := herdPos s.herd - (4 * fracUnit + adjTotal s) < ppsInstant s k
  if here && s.herd.ppsSecond != some k.toNat && decide (0 ≤ k) then (k, 0) else (k + 1, clocksUntil s (ppsInstant s (k + 1)))

/-- PPS_OUT_EDGE (R102, R89): herd time goes on to the edge, which lies before the next tick start. [DESIGN CHOICE, log 2] -/
def execPpsOutEdge (clk : Nat) (s : State) : Host.Outcome State Fault Refusal :=
  let s1 := begin clk s
  let e := nextPps s1
  .next (if s1.herd.running && !isolated s1 3 5 && decide (e.2 ≤ clocksTo s1 (nextTick s1)) then
      let s2 := advance e.2 s1
      emit (withHerd s2 (fun h => { h with ppsSecond := some e.1.toNat })) (.pps (now s2))
    else s1)

/-- PAIR_TIME_EXCHANGE (R91): the other module's message left at its herd time `send` and arrived at `receive` here; the request left here
at `reply` and arrived there at `arrive`; captures here in 0.25 ns, herd times there in ns. -/
def pairExchange (s : State) (send receive reply arrive : Nat) : State :=
  let t2 := (rxStamp s 4 receive : Int) * 65536
  let t1 := (send : Int) * 65536
  let t3 := (nearestNs ((reply : Int) + egressQ s 4) : Int) * 65536
  let t4 := (arrive : Int) * 65536
  herdMeasure s (t2 - t1 - ((t2 - t1 + t4 - t3) / 2 + asymOf s 4))

/-- PAIR_TIME_EXCHANGE: with source PAIR. -/
def execPairTimeExchange (clk send receive reply arrive : Nat) (s : State) : Host.Outcome State Fault Refusal :=
  let s1 := begin clk s
  .next (if s1.herd.running && timeSource s1 = 3 && !pairDown s1 && !isolated s1 3 5 then
      pairExchange (countFrame s1 4) send receive reply arrive
    else s1)

/-- AON_STORE (R90): every 1 ms. -/
def execAonStore (clk : Nat) (s : State) : Host.Outcome State Fault Refusal :=
  let s1 := begin clk s
  .next (if s1.herd.running && s1.aon.herd.all (fun v => decide (v.1 + 1000000 ≤ now s1) || decide (now s1 < v.1)) then
      { s1 with aon := { s1.aon with herd := some (now s1, s1.herd.integral), timer := 0 } }
    else s1)

end Sys2Proof.Machine
end

