-- ==== Sys2Proof/Machine/Clocks.lean ====
section
/-! DEFINITION. Clock sources, monitors, the reference multiplexer, gates and power domains (18_clocks_and_power.md). -/

namespace Sys2Proof.Machine

def withClocks (s : State) (f : ClockState → ClockState) : State := { s with clocks := f s.clocks }
def withPower (s : State) (f : PowerState → PowerState) : State := { s with power := f s.power }

/-- Cycles of the 250 MHz clock in 1 s: what a monitor waits, whatever herd time does (R386, R388). -/
def clkSecond : Nat := 250000000

/-- Source code of a reference (Table 18-1). -/
def refCode : ClockRef → Nat
  | .crystal => 0
  | .clk10 => 1
  | .rc => 2

/-- Error word of a lost source or PLL (R387). -/
def clockWord (reaction element : Nat) : Word := errWord 3 5 3 reaction false element

/-! ### The reference multiplexer (R389) -/

/-- The reference that will be in force once the switches under way are done. -/
def refAhead (c : ClockState) : ClockRef := c.next.getD (c.switching.getD c.reference)

/-- A request to switch: at once, or when the switch in progress ends. -/
def switchTo (s : State) (r : ClockRef) : State :=
  if refAhead s.clocks = r then s
  else withClocks s (fun c => match c.switching with
    | some _ => { c with next := some r }
    | none => { c with switching := some r })

/-- A switch ends: the new reference is in force, and a request behind it begins; a lost reference back in force ends its loss (R388). -/
def switchDone (s : State) : State :=
  withClocks s (fun c => match c.switching with
    | none => c
    | some r => { c with reference := r, switching := if c.next = some r then none else c.next, next := none
                         lost := if c.lost = some r then none else c.lost })

/-- Sets a bit of CLK_EVENT; a LOSS or PLL_UNLOCK bit that goes from 0 to 1 signals DEVICE (Table 22-3). [DEDUCED, log 100] -/
def clkEvent (s : State) (n : Nat) : State :=
  let m := 1#8 <<< n
  let again := s.clocks.event.getLsbD n && decide (n < 5)
  let s1 := withFresh (withClocks s (fun c => { c with event := c.event ||| m }))
    (fun c => { c with clkEvent := c.clkEvent ||| m, clkAgain := if again then c.clkAgain ||| m else c.clkAgain })
  if s.clocks.event.getLsbD n || 5 ≤ n then s1 else setInt s1 0

/-- MUX_SWITCH (R389). -/
def execMuxSwitch (clk : Nat) (s : State) : Host.Outcome State Fault Refusal := .next (switchDone (begin clk s))

/-- FORCED_SWITCH (R389): the forced path completes the switch, sets its event bit and counts. -/
def execForcedSwitch (clk : Nat) (s : State) : Host.Outcome State Fault Refusal :=
  let s1 := begin clk s
  .next (if s1.clocks.switching.isNone then s1
    else bump (clkEvent (switchDone s1) 5) 0xB0 0 2)

/-! ### Monitors (R382, R383, R386, R387) -/

/-- B03 is the step in progress (R382). -/
def inB03 (s : State) : Bool := s.start.running && s.start.step == 2

/-- CRYSTAL_STABLE (R382): 1 ms of amplitude above the threshold, at most 4.5 ms after B03 began; the PLLs go over to the crystal. -/
def execCrystalStable (clk : Nat) (s : State) : Host.Outcome State Fault Refusal :=
  let s1 := begin clk s
  let n := s1.clock - s1.start.since
  .next (if !inB03 s1 || n < 250000 || 1125000 < n || s1.clocks.reference != .rc || s1.clocks.lost.isSome then s1
    else switchTo (withClocks s1 (fun c => { c with
      ok := c.ok ||| 1, gone := c.gone &&& ~~~1#4, okSince := upd c.okSince 0 (fun _ => s1.clock) })) .crystal)

/-- PLL_RELOCK (R382, R387): a PLL locks to the reference in force; in B03 within 0.5 ms of the crystal being judged stable. -/
def execPllRelock (clk pll : Nat) (s : State) : Host.Outcome State Fault Refusal :=
  let s1 := begin clk s
  .next (if 5 ≤ pll || s1.clocks.switching.isSome || (inB03 s1 && decide (nth 0 s1.clocks.okSince 0 + 125000 < s1.clock)) then s1
    else withClocks s1 (fun c => { c with pllLock := c.pllLock ||| (1#5 <<< pll), pllHoldover := c.pllHoldover &&& ~~~(1#5 <<< pll) }))

/-- What a loss of a source sets before its reaction. -/
def markLoss (s : State) (src : Nat) : State :=
  bump (withClocks (clkEvent s src) (fun c => { c with
    ok := c.ok &&& ~~~(1#4 <<< src), gone := c.gone ||| (1#4 <<< src)
    badWindows := upd c.badWindows src (fun _ => 0), badSince := upd c.badSince src (fun _ => s.clock) })) 0xB0 0 1

/-- A source is lost (R387). [DEDUCED, log 100] -/
def loseClock (s : State) (src : Nat) : State :=
  let s1 := markLoss s src
  let selected : Option ClockRef :=
    if src = 0 && (s.clocks.reference = .crystal || refAhead s.clocks = .crystal) then some .crystal
    else if src = 1 && (s.clocks.reference = .clk10 || refAhead s.clocks = .clk10) then some .clk10 else none
  match selected with
  | some r =>
    let s2 := withClocks s1 (fun c => { c with lost := some r, pllHoldover := 0x1F, pllLock := 0 })
    let s3 := switchTo s2 .rc
    let s4 := if timeSource s3 = 2 then loseSource s3 else s3
    errorTrigger s4 .hold (clockWord 2 src) 0x0001 0 .alarm .clockLoss
  | none =>
    if src = 2 then faultError s1 (clockWord 3 2) .momentary
    else if src = 3 then error (pcieDown s1 false) (clockWord 0 3)
    else error s1 (clockWord 0 src)

/-- CLOCK_LOSS (R386, R387): 16 monitoring cycles without an edge of a source. -/
def execClockLoss (clk source : Nat) (s : State) : Host.Outcome State Fault Refusal :=
  let s1 := begin clk s
  .next (if 4 ≤ source || !s1.clocks.ok.getLsbD source then s1 else loseClock s1 source)

/-- Expected count of a source's edges in 100 µs. -/
def expectedEdges (source : Nat) : Nat := match source with | 0 => 2500 | 1 => 1000 | _ => 10000

/-- CLOCK_MONITOR_WINDOW (R386): the edges counted in one window; the fourth bad window in a row is a loss. -/
def execClockMonitorWindow (clk source count : Nat) (s : State) : Host.Outcome State Fault Refusal :=
  let s1 := begin clk s
  let e := expectedEdges source
  let bad := decide (e < 200 * ((count : Int) - e).natAbs)
  .next (if 4 ≤ source then s1
    else if bad then
      let run := nth 0 s1.clocks.badWindows source + 1
      let s2 := withClocks s1 (fun c => { c with badWindows := upd c.badWindows source (fun _ => run), badSince := upd c.badSince source (fun _ => s1.clock) })
      if run = 4 && s1.clocks.ok.getLsbD source then loseClock s2 source else s2
    else withClocks s1 (fun c => { c with
      badWindows := upd c.badWindows source (fun _ => 0), ok := if c.gone.getLsbD source then c.ok else c.ok ||| (1#4 <<< source) }))

/-- CLOCK_SOURCE_RECOVERED (R386): 1 s without a failed window. -/
def execClockSourceRecovered (clk source : Nat) (s : State) : Host.Outcome State Fault Refusal :=
  let s1 := begin clk s
  .next (if 4 ≤ source || !s1.clocks.gone.getLsbD source || s1.clock < nth 0 s1.clocks.badSince source + clkSecond then s1
    else withClocks s1 (fun c => { c with
      ok := c.ok ||| (1#4 <<< source), gone := c.gone &&& ~~~(1#4 <<< source), okSince := upd c.okSince source (fun _ => s1.clock) }))

/-- PLL_UNLOCK (R386, R387): loss of lock for more than 1 µs of a PLL that is not in holdover. -/
def execPllUnlock (clk pll : Nat) (s : State) : Host.Outcome State Fault Refusal :=
  let s1 := begin clk s
  .next (if 5 ≤ pll || s1.clocks.pllHoldover.getLsbD pll || !s1.clocks.pllLock.getLsbD pll then s1
    else
      let s2 := bump (withClocks (clkEvent s1 4) (fun c => { c with pllLock := c.pllLock &&& ~~~(1#5 <<< pll) })) 0xB0 0 1
      faultError s2 (clockWord 3 (8 + pll)) .momentary)

/-- RC_TRIM (R383): every 1 ms while the selected reference is good, the trim measured. -/
def execRcTrim (clk : Nat) (ppm : Int) (s : State) : Host.Outcome State Fault Refusal :=
  let s1 := begin clk s
  .next (if s1.clocks.reference = .rc || !s1.clocks.ok.getLsbD (refCode s1.clocks.reference) then s1
    else withClocks s1 (fun c => { c with rcTrim := ppm }))

/-- DOMAIN_FREQUENCY_MEASUREMENT (R398): kHz per domain from Supervisor to PCIe, measured against the RC. -/
def execDomainFrequencyMeasurement (clk : Nat) (khz : List Nat) (s : State) : Host.Outcome State Fault Refusal :=
  .next (withClocks (begin clk s) (fun c => { c with khz := (List.range 10).map (fun i => nth 0 khz i % 2 ^ 32) }))

/-- A write of 1 to `clk.restore` (R388): its status. -/
def clkRestoreOk (s : State) : Option ClockRef :=
  match s.clocks.lost with
  | none => none
  | some r =>
    if (s.mode.mode = .configure || s.mode.mode = .hold) && s.clocks.ok.getLsbD (refCode r) &&
      decide (nth 0 s.clocks.okSince (refCode r) + clkSecond ≤ s.clock) then some r else none

def clkRestore (s : State) : State :=
  match clkRestoreOk s with
  | none => s
  | some r => withClocks (switchTo s r) (fun c => { c with pllHoldover := 0x1F, pllLock := 0 })

/-- An activation that changes `time.ref_select` switches the reference (R383). -/
def clocksActivate (s : State) : State :=
  if s.clocks.lost.isSome then s else switchTo s (if ov s 0x80 0 1 = 1 then .clk10 else .crystal)

/-- Nominal frequency in kHz of a CLKOUT source (Table 18-2). -/
def clkoutKhz (source : Nat) : Nat :=
  nth 0 [0, 1000000, 800000, 500000, 1200000, 250000, 125000, 50000, 312500, 2133000, 250000, 25000, 10000, 100000] source

/-- `clk.clkout_state` (R390). -/
def clkoutState (s : State) : Nat :=
  let src := ov s 0xB0 0 6
  if src = 0 then 0 else if 125000 * ov s 0xB0 0 7 < clkoutKhz src then 2 else 1

/-- What CLKOUT carries: its source, and the source cycles high and low of one period; held low while off or out of range (R390). -/
def clkoutPin (s : State) : Nat × Nat × Nat :=
  if clkoutState s = 1 then (ov s 0xB0 0 6, (ov s 0xB0 0 7 + 1) / 2, ov s 0xB0 0 7 / 2) else (0, 0, 0)

/-- CLKOUT follows its objects (R390). -/
def clkoutFollow (old s : State) : State :=
  if clkoutPin old = clkoutPin s then s else emit s (.clkout (clkoutPin s).1 (clkoutPin s).2.1 (clkoutPin s).2.2)

/-! ### Gates (R391 to R393) -/

/-- The blocks of Table 18-4. -/
def gateable (region block : Nat) : Bool :=
  (region = 1 && decide (block < 4)) || (region = 3 && (block = 1 || block = 2 || block = 4)) || (region = 4 && (block = 1 || block = 2 || block = 3))

/-- A block is in use (Table 18-4). -/
def gateInUse (s : State) (region block : Nat) : Bool :=
  if region = 1 then s.solver.slots.any (fun g => g.load == .resident) || s.solver.current.isSome
  else if region = 3 && block = 1 then dualLine s.objs
  else if region = 3 && block = 2 then imageActive s && pairOn s.objs
  else if region = 3 then
    s.zewen.mbx.any (fun b => b.state != .closed && viaUdp b) || [0, 1].any (fun d => (domainOf s d).state != .disabled)
  else if block = 1 then (List.range 8).any (fun k => ao s k 0 != 0)
  else if block = 2 then (List.range 8).any (fun e => eo s e 0 != 0 || eo s e 0x0F != 0)
  else s.acq.capture.state == .armed || s.acq.capture.state == .triggered

/-- Blocks of a region (Table 1-2). -/
def regionBlocks (region : Nat) : Nat := match region with | 0 => 18 | 1 => 5 | 2 => 5 | 3 => 6 | 4 => 4 | _ => 0

/-- A request to close a gate is refused (R391). [DEDUCED, log 101] -/
def gateRefused (s : State) (region member : Nat) : Bool :=
  if member = 0x80 then (List.range (regionBlocks region)).any (fun b => !s.clocks.gates.contains (region, b))
  else gateInUse s region member

/-- Closes or opens a gate. [DEDUCED, log 101] -/
def setGate (s : State) (region member : Nat) (close : Bool) : State :=
  withClocks s (fun c => { c with
    gates := if close then (if c.gates.contains (region, member) then c.gates else c.gates ++ [(region, member)])
             else c.gates.filter (fun g => g != (region, member)) })

/-- Image activation ungates every block the new image puts in use (R391). [DEDUCED, log 101] -/
def ungateUsed (s : State) : State :=
  let open_ := s.clocks.gates.filter (fun g => g.2 != 0x80 && gateInUse s g.1 g.2)
  withClocks s (fun c => { c with gates := c.gates.filter (fun g => !open_.contains g && !(g.2 = 0x80 && open_.any (fun o => o.1 = g.1))) })

/-! ### Power domains (R394 to R396) -/

/-- What a domain loses when it is switched off (R394). Objects keep their values (R457). [DEDUCED, log 104] -/
def domainLoses (s : State) (d : Nat) : State :=
  match d with
  | 2 => withSched s (fun c => { c with cores := List.replicate 8 {} ++ c.cores.drop 8 })
  | 3 => withSched s (fun c => { c with cores := c.cores.take 8 ++ List.replicate 8 {} })
  | 5 => settleRuns { s with solver := { waits := s.solver.waits } }
  | 6 => settleRuns { s with solver := { waits := s.solver.waits } }
  | 7 =>
    let s1 := loopsStop s
    { s1 with prof := { s1.prof with channels := [], arms := List.replicate 8 {}, moves := [], stops := [], teaches := [], passTick := none }
              ctl := {}, dsp := { s1.dsp with regs := {}, busyUntil := 0 } }
  | 8 => withSep s (fun p => { p with jointsP := [], processor := none, active := false, latch := {}, results := List.replicate 8 {} })
  | 13 => { s with acq := { s.acq with capture := {}, actions := [] } }
  | 15 => { s with field := {} }
  | _ => s

/-- The domains of a group are switching. -/
def groupMask (ds : List Nat) : BitVec 16 := ds.foldl (fun m d => m ||| (1#16 <<< d)) 0

/-- Starts a sequence of Table 18-6, leaving out the domains that are off or on already. -/
def startSequence (s : State) (off : List Nat) (on : List (List Nat)) : State :=
  withPower s (fun p =>
    let toOff := off.filter (fun d => p.on.getLsbD d)
    let toOn := (on.map (fun g => g.filter (fun d => !p.on.getLsbD d || toOff.contains d))).filter (fun g => !g.isEmpty)
    { p with toOff := toOff, toOn := toOn
             switching := groupMask (match toOff with | d :: _ => [d] | [] => toOn.headD []) })

/-- The sequence in progress has ended. -/
def sequenceDone (s : State) : Bool := s.power.toOff.isEmpty && s.power.toOn.isEmpty

/-- The domains switching once the head of the sequence is done. -/
def nextSwitching (p : PowerState) : BitVec 16 := groupMask (match p.toOff with | d :: _ => [d] | [] => p.toOn.headD [])

/-- DOMAIN_OFF (R394, R395): the first domain of the sequence is off and has lost its state. -/
def execDomainOff (clk domain : Nat) (s : State) : Host.Outcome State Fault Refusal :=
  let s1 := begin clk s
  .next (if s1.power.toOff.head? != some domain then s1
    else
      let s2 := withPower s1 (fun p => { p with on := p.on &&& ~~~(1#16 <<< domain), toOff := p.toOff.drop 1 })
      withPower (domainLoses s2 domain) (fun p => { p with switching := nextSwitching p }))

/-- Switch-on of a domain counts in `pwr.switch_count`. -/
def domainUp (s : State) (d : Nat) : State :=
  bumpAt (withPower s (fun p => { p with on := p.on ||| (1#16 <<< d) })) 0xB0 1 2 d

/-- DOMAIN_POWER_GOOD (R394, R395). -/
def execDomainPowerGood (clk domain : Nat) (s : State) : Host.Outcome State Fault Refusal :=
  let s1 := begin clk s
  let group := s1.power.toOn.headD []
  let s2 := { s1 with hw := { s1.hw with supplyOut := s1.hw.supplyOut.filter (fun d => d != domain) } }
  .next (if !s1.power.toOff.isEmpty || !group.contains domain then s1
    else
      let rest := group.filter (fun d => d != domain)
      let s3 := withPower (domainUp s2 domain) (fun p => { p with toOn := if rest.isEmpty then p.toOn.drop 1 else rest :: p.toOn.drop 1 })
      withPower s3 (fun p => { p with switching := nextSwitching p }))

/-- DRAIN_TIMEOUT (R394): accesses still outstanding after 10 µs are cut. -/
def execDrainTimeout (clk domain : Nat) (s : State) : Host.Outcome State Fault Refusal :=
  let s1 := begin clk s
  .next (if s1.power.toOff.head? = some domain then bump s1 0xB0 1 3 else s1)

/-- DOMAIN_POWER_GOOD_TIMEOUT (R394): a regulator out of range; during a start it fails the step in progress. [DEDUCED, log 32] -/
def powerGoodTimeout (s : State) (domain : Nat) : State :=
  let s1 := { s with hw := { s.hw with supplyOut := if s.hw.supplyOut.contains domain then s.hw.supplyOut else s.hw.supplyOut ++ [domain] } }
  faultError s1 (errWord 3 5 2 3 false (0x100 + domain)) .regulator

end Sys2Proof.Machine
end

