-- ==== Sys2Proof/Machine/Dsp.lean ====
section
/-! DEFINITION. The DSP datapath: its instructions, their issue cycles, kernel containers and kernel runs (13_dsp_datapath.md R270 to R285). -/

namespace Sys2Proof.Machine

def withDsp (s : State) (f : DspState → DspState) : State := { s with dsp := f s.dsp }
def kernelOf (s : State) (k : Nat) : KernelSlot := nth {} s.dsp.kernels k
def setKernel (s : State) (k : Nat) (f : KernelSlot → KernelSlot) : State := withDsp s (fun d => { d with kernels := upd d.kernels k f })

/-! ### Instruction fields (R275, Table 13-1) -/

def insOp (w : BitVec 32) : Nat := bits w.toNat 31 26
def insA (w : BitVec 32) : Nat := bits w.toNat 25 24
def insD (w : BitVec 32) : Nat := bits w.toNat 23 18
def insS (w : BitVec 32) : Nat := bits w.toNat 17 12
def insT (w : BitVec 32) : Nat := bits w.toNat 11 6
def insU (w : BitVec 32) : Nat := bits w.toNat 5 0
def insP (w : BitVec 32) : Nat := bits w.toNat 25 23
def insV (w : BitVec 32) : Nat := bits w.toNat 22 17
def insImm (w : BitVec 32) : Nat := bits w.toNat 15 0
/-- D of form I. -/
def insDI (w : BitVec 32) : Nat := bits w.toNat 25 20
/-- COUNT and BODY of form L. -/
def insCount (w : BitVec 32) : Nat := bits w.toNat 23 12
def insBody (w : BitVec 32) : Nat := bits w.toNat 11 0
/-- Step of RSTEP: 0, 1, 2 or 4 (R271). -/
def insStep (w : BitVec 32) : Nat := nth 0 [0, 1, 2, 4] (bits w.toNat 25 24)

/-! ### Arithmetic (R271, R273, R274) -/

/-- Physical entry of register n (R271). -/
def physical (rotb n : Nat) : Nat := if n < 16 then n else 16 + (n - 16 + rotb) % 48

/-- An exact value into a 72-bit accumulator; true where it wraps (R273). -/
def toAcc (v : Int) : BitVec 72 × Bool := (BitVec.ofInt 72 v, decide (v < -(2 ^ 71)) || decide (2 ^ 71 ≤ v))

/-- Saturation to 32 bits; true where it acts (R274). -/
def sat32 (v : Int) : BitVec 32 × Bool := (BitVec.ofInt 32 (clampInt (-(2 ^ 31)) (2 ^ 31 - 1) v), decide (v < -(2 ^ 31)) || decide (2 ^ 31 ≤ v))

/-- Store of an accumulator with shift U (R274). -/
def storeAcc (a : BitVec 72) (u : Nat) : BitVec 32 × Bool := sat32 (roundDiv a.toInt (2 ^ u))

/-! ### The machine of one run -/

/-- Where a run stands: the datapath, its partition, the loops it is in and the cycle from which each value is available. -/
structure KernelRun where
  regs : DspRegs := {}
  dm : List (BitVec 32)
  pc : Nat := 0
  /-- Innermost first: first instruction of the body, instruction after it, iterations left, step. -/
  loops : List (Nat × Nat × Nat × Nat) := []
  /-- First cycle in which the next instruction may issue. -/
  cycle : Nat := 0
  /-- Cycle from which registers, pointers, and accumulators to be stored and to be added to, are available (R278). -/
  vReady : List Nat := List.replicate 64 0
  pReady : List Nat := List.replicate 8 0
  aStore : List Nat := List.replicate 4 0
  aAdd : List Nat := List.replicate 4 0
  /-- Issue cycle of END, once it has issued. -/
  ended : Option Nat := none
  /-- Instruction index of a kernel fault (R284). -/
  fault : Option Nat := none
  /-- The cycles are only counted, over the code alone: no access faults (R278). -/
  counting : Bool := false

def runV (r : KernelRun) (n : Nat) : BitVec 32 := nth 0 r.regs.v (physical r.regs.rotb n)
def readyV (r : KernelRun) (n : Nat) : Nat := nth 0 r.vReady (physical r.regs.rotb n)
def runP (r : KernelRun) (p : Nat) : Nat := (nth 0 r.regs.p p).toNat
def runA (r : KernelRun) (k : Nat) : BitVec 72 := nth 0 r.regs.acc k

/-- Writes register n, available from a cycle. -/
def putV (n : Nat) (v : BitVec 32) (ready : Nat) (r : KernelRun) : KernelRun :=
  { r with regs := { r.regs with v := r.regs.v.set (physical r.regs.rotb n) v }, vReady := r.vReady.set (physical r.regs.rotb n) ready }

def putP (p : Nat) (v : BitVec 16) (ready : Nat) (r : KernelRun) : KernelRun :=
  { r with regs := { r.regs with p := r.regs.p.set p v }, pReady := r.pReady.set p ready }

/-- Writes an accumulator in issue cycle c: stored 3 cycles later at the earliest, added to 1 cycle later (R278). -/
def putA (k : Nat) (v : BitVec 72 × Bool) (c : Nat) (r : KernelRun) : KernelRun :=
  { r with regs := { r.regs with acc := r.regs.acc.set k v.1, aov := r.regs.aov || v.2 }, aStore := r.aStore.set k (c + 3), aAdd := r.aAdd.set k (c + 1) }

/-- Writes a register with a saturation flag. -/
def putSat (n : Nat) (v : BitVec 32 × Bool) (ready : Nat) (r : KernelRun) : KernelRun :=
  putV n v.1 ready { r with regs := { r.regs with sat := r.regs.sat || v.2 } }

/-- One multiply into accumulator k (R273): 0 MUL, 1 MAC, 2 MSU. -/
def mulInto (kind k : Nat) (x y : BitVec 32) (c : Nat) (r : KernelRun) : KernelRun :=
  let p := x.toInt * y.toInt
  let a := (runA r k).toInt
  putA k (toAcc (if kind = 0 then p else if kind = 1 then a + p else a - p)) c r

/-- Ranks for the search with F set: smaller is more extreme for MINX (R279): a NaN below, then by value. -/
def rankLess (nanFirst : Bool) (a b : F32) : Bool :=
  if fIsNan a then nanFirst && !fIsNan b
  else if fIsNan b then !nanFirst
  else fLt a b

/-- x is more extreme than y. -/
def moreExtreme (isMax float : Bool) (x y : BitVec 32) : Bool :=
  if float then (if isMax then rankLess false y x else rankLess true x y)
  else if isMax then decide (y.toInt < x.toInt) else decide (x.toInt < y.toInt)

/-- The extreme of words and its element number, the lowest winning a tie (R279). -/
def searchGo (isMax float : Bool) : List (BitVec 32) → Nat → BitVec 32 × Nat → BitVec 32 × Nat
  | [], _, best => best
  | x :: r, i, best => searchGo isMax float r (i + 1) (if moreExtreme isMax float x best.1 then (x, i) else best)

/-- Cycles a search occupies (R279). -/
def searchCycles (count stride p : Nat) : Nat := if stride = 1 && p % 4 = 0 then 4 + ceilDiv count 4 else 4 + count

/-- The address of an M-form access (R276). -/
def accessAddr (r : KernelRun) (w : BitVec 32) : Int := (runP r (insP w) : Int) + sext 8 (bits w.toNat 15 8)

/-- Whether n words from an address lie in the partition, at a multiple of n (R284). -/
def accessOk (r : KernelRun) (a : Int) (n : Nat) : Bool := decide (0 ≤ a) && decide (a + n ≤ r.dm.length) && a % (n : Int) == 0

def loadWords (a : Nat) : List Nat → KernelRun → Nat → BitVec 32 → KernelRun
  | [], r, _, _ => r
  | k :: ks, r, ready, w => loadWords a ks (putV (insV w + k) (nth 0 r.dm (a + k)) ready r) ready w

def storeWords (a : Nat) : List Nat → KernelRun → BitVec 32 → KernelRun
  | [], r, _ => r
  | k :: ks, r, w => storeWords a ks { r with dm := r.dm.set (a + k) (runV r (insV w + k)) } w

/-- Element numbers of a form: one, or the four of a four-wide instruction. -/
def elements (four : Bool) : List Nat := if four then [0, 1, 2, 3] else [0]

/-- Register T of element k: itself where a multiply broadcasts (R276). -/
def elemT (w : BitVec 32) (four : Bool) (k : Nat) : Nat := if four && insU w = 1 then insT w else insT w + k

/-- Accumulator of element k. -/
def elemA (w : BitVec 32) (four : Bool) (k : Nat) : Nat := if four then k else insA w

/-- First cycle in which an instruction's sources are available (R278). -/
def sourcesReady (r : KernelRun) (w : BitVec 32) : Nat :=
  let op := insOp w
  let regs := fun (l : List Nat) => maxNat (l.map (readyV r))
  let four := decide (0x18 ≤ op)
  let accs := fun (l : List Nat) => maxNat ((elements four).map (fun k => nth 0 l (elemA w four k)))
  let factors := regs ((elements four).flatMap (fun k => [insS w + k, elemT w four k]))
  if op = 0x05 then readyV r (insDI w)
  else if op = 0x08 || op = 0x0B || op = 0x13 then readyV r (insS w)
  else if op = 0x09 || op = 0x0A then regs [insS w, insT w]
  else if op = 0x10 || op = 0x18 then factors
  else if op = 0x11 || op = 0x12 || op = 0x19 || op = 0x1A then max factors (accs r.aAdd)
  else if op = 0x14 || op = 0x1C then accs r.aStore
  else if op = 0x20 || op = 0x22 || op = 0x30 || op = 0x31 then nth 0 r.pReady (insP w)
  else if op = 0x21 || op = 0x23 then max (nth 0 r.pReady (insP w)) (regs ((elements (op = 0x23)).map (fun k => insV w + k)))
  else 0

/-- What an instruction does when it issues in cycle c (Table 13-2); the cycles it occupies beyond the first are added to `cycle`. [DESIGN
CHOICE, log 69] -/
def issue (free : Nat) (r : KernelRun) (w : BitVec 32) (c : Nat) : KernelRun :=
  let op := insOp w
  let four := decide (0x18 ≤ op)
  match op with
  | 0x01 => { r with ended := some c }
  | 0x02 => { r with loops := (r.pc + 1, r.pc + 1 + insBody w, insCount w, insStep w) :: r.loops }
  | 0x03 => { r with regs := { r.regs with rotb := insImm w } }
  | 0x04 => putV (insDI w) (BitVec.ofInt 32 (sext 16 (insImm w))) (c + 1) r
  | 0x05 => putV (insDI w) (BitVec.ofNat 32 (insImm w * 65536 + (runV r (insDI w)).toNat % 65536)) (c + 1) r
  | 0x06 => putP (insDI w) (BitVec.ofNat 16 (insImm w)) (c + 1) r
  | 0x08 => putV (insD w) (runV r (insS w)) (c + 1) r
  | 0x09 => putSat (insD w) (sat32 ((runV r (insS w)).toInt + (runV r (insT w)).toInt)) (c + 1) r
  | 0x0A => putSat (insD w) (sat32 ((runV r (insS w)).toInt - (runV r (insT w)).toInt)) (c + 1) r
  | 0x0B => putV (insD w) (BitVec.ofInt 32 ((runV r (insS w)).toInt / (2 ^ insU w : Nat))) (c + 1) r
  | 0x13 => putA (insA w) (toAcc ((runV r (insS w)).toInt * (2 ^ insU w : Nat))) c r
  | 0x10 | 0x11 | 0x12 | 0x18 | 0x19 | 0x1A =>
    (elements four).foldl (fun q k => mulInto (op % 8) (elemA w four k) (runV r (insS w + k)) (runV r (elemT w four k)) c q) r
  | 0x14 | 0x1C => (elements four).foldl (fun q k => putSat (insD w + k) (storeAcc (runA r (elemA w four k)) (insU w)) (c + 2) q) r
  | 0x20 | 0x21 | 0x22 | 0x23 =>
    let wide := decide (0x22 ≤ op)
    let a := accessAddr r w
    if !accessOk r a (if wide then 4 else 1) && !r.counting then { r with fault := some r.pc }
    else
      let r1 := if op % 2 = 0 then loadWords a.toNat (elements wide) r (c + 2) w else storeWords a.toNat (elements wide) r w
      putP (insP w) (BitVec.ofInt 16 ((runP r (insP w) : Int) + sext 8 (bits w.toNat 7 0))) (c + 1) r1
  | 0x30 | 0x31 =>
    let d := bits w.toNat 22 17
    let float := bit w.toNat 16
    let stride := bits w.toNat 15 12
    let count := bits w.toNat 11 0
    let p := runP r (insP w)
    if decide (r.dm.length < p + (count - 1) * stride + 1) && decide (0 < count) && !r.counting then { r with fault := some r.pc }
    else
      let ws := (List.range count).map (fun i => nth 0 r.dm (p + i * stride))
      let done := c + searchCycles count stride p
      match ws with
      | [] => { putV (d + 1) (BitVec.ofNat 32 (Config.freeValue (free + 1))) done (putV d (BitVec.ofNat 32 (Config.freeValue free)) done r) with cycle := done }
      | x :: rest =>
        let best := searchGo (op = 0x31) float rest 1 (x, 0)
        let r1 := if float && fIsNan best.1 then { r with regs := { r.regs with nan := true } } else r
        { putV (d + 1) (BitVec.ofNat 32 best.2) done (putV d best.1 done r1) with cycle := done }
  | _ => r

/-- Ends of iterations and of loops at the instruction just passed (R271); each loop applies its own step. -/
def closeLoops : List (Nat × Nat × Nat × Nat) → KernelRun → KernelRun
  | [], r => { r with loops := [] }
  | (b, e, n, st) :: rest, r =>
    if r.pc = e then
      let r1 := { r with regs := { r.regs with rotb := (r.regs.rotb + 48 - st) % 48 } }
      if 1 < n then { r1 with pc := b, loops := (b, e, n - 1, st) :: rest }
      else closeLoops rest r1
    else { r with loops := (b, e, n, st) :: rest }

/-- Issues one instruction, unless its issue cycle lies at or past a limit. -/
def kernelStep (code : List (BitVec 32)) (free limit : Nat) (r : KernelRun) : KernelRun :=
  let w := nth 0 code r.pc
  let c := max r.cycle (sourcesReady r w)
  if limit ≤ c then { r with cycle := limit }
  else
    let r1 := issue free { r with cycle := c + 1 } w c
    if r1.ended.isSome || r1.fault.isSome then r1
    else closeLoops r1.loops { r1 with pc := r.pc + 1 }

/-- Runs until END, a fault or the limit of cycles; every instruction takes at least one cycle. -/
def kernelGo (code : List (BitVec 32)) (free limit : Nat) : Nat → KernelRun → KernelRun
  | 0, r => r
  | fuel + 1, r =>
    if r.ended.isSome || r.fault.isSome || limit ≤ r.cycle then r
    else kernelGo code free limit fuel (kernelStep code free limit r)

/-! ### Encoding checks and the cycle count (R275 to R278) -/

/-- Every instruction on its own: opcode, reserved bits, fields and four-wide registers. -/
def insOk (w : BitVec 32) : Bool :=
  let op := insOp w
  let v := w.toNat
  match op with
  | 0x00 | 0x01 | 0x08 | 0x09 | 0x0A | 0x0B | 0x10 | 0x11 | 0x12 | 0x13 | 0x14 => true
  | 0x02 => decide (1 ≤ insCount w) && decide (1 ≤ insBody w)
  | 0x03 => bits v 19 16 == 0 && decide (insImm w < 48)
  | 0x04 | 0x05 => bits v 19 16 == 0
  | 0x06 => bits v 19 16 == 0 && decide (insDI w < 8)
  | 0x18 | 0x19 | 0x1A => decide (insU w < 2) && decide (insS w ≤ 60) && (insU w == 1 || decide (insT w ≤ 60))
  | 0x1C => decide (insD w ≤ 60)
  | 0x20 | 0x21 => !bit v 16
  | 0x22 | 0x23 => !bit v 16 && decide (insV w ≤ 60)
  | 0x30 | 0x31 => decide (1 ≤ bits v 15 12) && decide (bits v 22 17 ≤ 62)
  | _ => false

/-- Bodies nest at most two deep and inside one another, before END (R277): the ends of the bodies an instruction stands in, innermost
first. -/
def nestOk (last : Nat) : List (BitVec 32) → Nat → List Nat → Bool
  | [], _, _ => true
  | w :: rest, i, open_ =>
    let inside := open_.filter (fun e => decide (i < e))
    if insOp w = 0x02 then
      let e := i + 1 + insBody w
      decide (inside.length < 2) && decide (e ≤ last) && inside.all (fun x => decide (e ≤ x)) && nestOk last rest (i + 1) (e :: inside)
    else nestOk last rest (i + 1) inside

/-- R275 to R277 for the code. -/
def codeOk (code : List (BitVec 32)) : Bool :=
  code.all insOk && (code.getLast?.map insOp) == some 0x01 && (code.filter (fun w => insOp w = 0x01)).length == 1 && nestOk (code.length - 1) code 0 []

/-- Whether the code counts to `cycles` under R278, which depends on the code alone. -/
def countIs (code : List (BitVec 32)) (cycles : Nat) : Bool :=
  (kernelGo code 0 cycles cycles { dm := [], counting := true }).ended == some (cycles - 1)

/-! ### Containers (R280, R281, R421) -/

/-- The four bytes of a tap (Table 13-4). -/
def tapAt (img : Bytes) (j : Nat) : Nat × Nat × Nat × Int :=
  let o := 80 + 4 * j
  (le img o 1, le img (o + 1) 1, le img (o + 2) 1, sext 8 (le img (o + 3) 1))

/-- A tap names a present channel, an enabled loop where KIND is LOOP, and a field. -/
def tapOk (objs : List (Nat × Nat)) (t : Nat × Nat × Nat × Int) : Bool :=
  chanPresent objs t.2.1 &&
    ((t.1 == 1 && decide (t.2.2.1 ≤ 4)) || (t.1 == 2 && decide (t.2.2.1 ≤ 1)) || (t.1 == 3 && decide (t.2.2.1 ≤ 1) && ob objs 0x21 t.2.1 0x40 == 1))

/-- Header, lengths and sections of a container. -/
def kernelForm (img : Bytes) : Bool :=
  let code := le img 24 2
  let dm := le img 26 2
  let ni := le img 28 2
  let no := le img 30 2
  let sg := le img 36 4
  le img 0 4 == 0x4E524B44 && le img 4 2 == 1 && le img 6 2 == 0 && le img 44 4 == 0 && le img 8 4 == img.length &&
    decide (1 ≤ code) && decide (code ≤ 4096) && decide (1 ≤ dm) && decide (dm ≤ 4096) && decide (ni ≤ 256) && decide (no ≤ 256) &&
    decide (le img 32 2 + ni ≤ dm) && decide (le img 34 2 + no ≤ dm) && sg == 80 + 4 * (ni + code + dm) && sg + le img 40 4 == img.length &&
    (sigSection (img.drop sg)).isSome

/-- The slot a container loads, or the error of the first check that fails (R281), with the objects and customer keys in force. -/
def parseKernel (objs : List (Nat × Nat)) (keys : List (Option CustomerKey)) (img : Bytes) : Except Nat KernelSlot :=
  let nc := le img 24 2
  let nd := le img 26 2
  let ni := le img 28 2
  let sg := le img 36 4
  let code := (List.range nc).map (fun i => BitVec.ofNat 32 (le img (80 + 4 * (ni + i)) 4))
  let taps := (List.range ni).map (tapAt img)
  if !kernelForm img then .error 1
  else if sha256 (img.take 48 ++ (img.take sg).drop 80) != slice img 48 32 then .error 2
  else if keys.all (·.isNone) then .error 4
  else if !((sigSection (img.drop sg)).any (fun g => (nth none keys g.1).any (fun k => hssVerify k.key g.2 (img.take sg) == .ok))) then .error 3
  else if !codeOk code then .error 5
  else if !taps.all (tapOk objs) then .error 7
  else if !countIs code (le img 12 4) then .error 6
  else .ok {
    load := .resident, kernelId := le img 16 8, digest := slice img 48 32, execCycles := le img 12 4, inCount := ni, outCount := le img 30 2
    inBase := le img 32 2, outBase := le img 34 2, dmWords := nd, taps := taps, code := code
    dmInit := (List.range nd).map (fun i => BitVec.ofNat 32 (le img (80 + 4 * (ni + nc + i)) 4)) }

/-- A partition of n words keeps what its memory held; a word that nothing has written is 0. [DESIGN CHOICE, log 159] -/
def partition (n : Nat) (dm : List (BitVec 32)) : List (BitVec 32) := (dm ++ List.replicate n 0).take n

/-- A container chunk (R281); the objects decide whether a tap's channel is present. -/
def loadChunk (objs : List (Nat × Nat)) (keys : List (Option CustomerKey)) (chunk : Bytes) (g0 : KernelSlot) : KernelSlot :=
  let off := le chunk 0 4
  let data := chunk.drop 8
  let kept : KernelSlot := { dm := g0.dm, flags := g0.flags, out := g0.out, outTime := g0.outTime, faultPc := g0.faultPc }
  let g := if off = 0 then { kept with load := .loading, chunks := [(0, data)] }
    else if g0.load = .loading then { g0 with chunks := (off, data) :: g0.chunks } else g0
  let len := le (overlay 12 g.chunks) 8 4
  if g.load = .loading && decide (12 ≤ len) && covers len g.chunks then
    match parseKernel objs keys (overlay len g.chunks) with
    | .error n => { kept with load := .refused, loadError := n }
    | .ok k => { k with dm := partition k.dmWords g.dm, flags := g.flags, out := g.out, outTime := g.outTime, faultPc := g.faultPc }
  else g

/-- A write of `dsp.load` (DSP_LOAD); a slot that starts a new load no longer runs. -/
def dspLoad (s : State) (k : Nat) (chunk : Bytes) : State :=
  let s1 := setKernel s k (loadChunk s.objs s.sec.customer chunk)
  setKernel s1 k (fun g => { g with state := if ov s 0x10 (8 + k) 3 = 1 then .enabled else .idle })

/-- A slot's partition filled from DM_INIT. -/
def refill (g : KernelSlot) : KernelSlot := { g with dm := g.dmInit }

/-- A write of `dsp.enable` (DSP_ENABLE). -/
def dspEnable (s : State) (k v : Nat) : State :=
  let s1 := setOb s 0x10 (8 + k) 3 v
  setKernel s1 k (fun g =>
    let g1 := if v = 1 && g.state = .faulted then refill g else g
    { g1 with state := if v = 1 then .enabled else if g.state = .faulted then .faulted else .idle })

/-- Image activation fills every loaded partition (R281). -/
def dspActivate (s : State) : State := withDsp s (fun d => { d with kernels := d.kernels.map refill })

/-! ### Runs (R282 to R284) -/

/-- Charge of one run in ns (R283). -/
def kernelCharge (g : KernelSlot) : Nat := 2 * g.execCycles + 100 + 4 * (g.inCount + g.outCount)

/-- Kernels can run: PD7 on, the datapath neither isolated nor gated. -/
def dspUp (s : State) : Bool := domainOn s 7 && !isolated s 2 2 && !gated s 2 2

/-- A slot runs in the tick in progress (R282). -/
def kernelDue (s : State) (k : Nat) : Bool :=
  (kernelOf s k).load = .resident && ov s 0x10 (8 + k) 3 = 1 && (kernelOf s k).lastTick != some s.herd.tick &&
    (tickIndex s s.herd.tick).any (fun i => i % ov s 0x10 (8 + k) 4 == ov s 0x10 (8 + k) 5)

/-- Opening and close of the tick's window. -/
def windowOpen (s : State) : Nat := tickStart s + ov s 0x10 4 0
def windowClose (s : State) : Nat := windowOpen s + ov s 0x10 4 1

/-- Newest value of a tap as exact number or non-finite value. -/
def tapValue (s : State) (t : Nat × Nat × Nat × Int) : Val :=
  let fb : Feedback := tget {} s.ctl.feedback t.2.1
  let sp : Setpoint := tget {} s.ctl.setpoints t.2.1
  match t.1, t.2.2.1 with
  | 1, 0 => vInt (fb.position - sp.pos) (-32)
  | 1, 1 => fVal fb.y1
  | 1, 2 => fVal fb.y2
  | 1, 3 => fVal fb.y3
  | 1, _ => fVal fb.vdc
  | 2, 0 => dVal sp.vel
  | 2, _ => dVal sp.acc
  | _, f => fVal (nth 0 (loopState s t.2.1).us f)

/-- The 32-bit word of a tap, and whether the value was not finite (R282). -/
def tapWord (s : State) (t : Nat × Nat × Nat × Int) : BitVec 32 × Bool :=
  match tapValue s t with
  | .fin neg m e => ((sat32 (vRne (.fin neg m (e + t.2.2.2)))).1, false)
  | _ => (0, true)

/-- The element of a kernel slot's error word (R284): level 1, region 2, block 2. -/
def kernelWord (k : Nat) : Word := errWord 1 2 2 0 false (16 + k)

/-- One run of a slot from its start to its end, its faults and its publication, with the cycles that retried beats add. A run that would
still be executing at the close of its window writes its partition up to there and waits for the close. The row runs all of it at one
instant: every tap is latched there. [DESIGN CHOICE, log 158] -/
def kernelRun (s : State) (k retries : Nat) : State :=
  let g := kernelOf s k
  let start := max (windowOpen s) s.dsp.busyUntil
  let words := g.taps.map (tapWord s)
  let dm := g.dm.take g.inBase ++ words.map (·.1) ++ g.dm.drop (g.inBase + g.inCount)
  let exec0 := start + 100 + 4 * g.inCount
  let room := (windowClose s - exec0 + 1) / 2 - retries
  let r := kernelGo g.code s.freeCount (min room g.execCycles) g.execCycles
    { dm := dm, regs := { nan := words.any (·.2) } }
  let s1 := { withDsp s (fun d => { d with regs := r.regs }) with freeCount := s.freeCount + 2 }
  match r.fault with
  | some pc =>
    let s2 := withDsp (setKernel s1 k (fun g => { g with dm := r.dm, state := .faulted, faultPc := pc, lastTick := some s.herd.tick }))
      (fun d => { d with busyUntil := exec0 + 2 * (r.cycle + retries) })
    error (setOb s2 0x10 (8 + k) 3 0) (kernelWord k)
  | none =>
    let finish := exec0 + 2 * (g.execCycles + retries) + 4 * g.outCount
    if r.ended.isSome && decide (finish ≤ windowClose s) then
      let flags : BitVec 3 := BitVec.ofNat 3 (packBits [r.regs.aov, r.regs.sat, r.regs.nan])
      bump (withDsp (setKernel s1 k (fun g => { g with
        dm := r.dm, out := (r.dm.drop g.outBase).take g.outCount, outTime := start, flags := g.flags ||| flags, lastTick := some s.herd.tick }))
        (fun d => { d with busyUntil := finish })) 0x10 (8 + k) 0x0A
    else
      withDsp (setKernel s1 k (fun g => { g with dm := r.dm, overrun := some s.herd.tick, lastTick := some s.herd.tick }))
        (fun d => { d with busyUntil := windowClose s })

/-- KERNEL_RUN (R282): the lowest slot that is due, from its start on. -/
def execKernelRun (clk slot retries : Nat) (s : State) : Host.Outcome State Fault Refusal :=
  let s1 := begin clk s
  .next (if dspUp s1 && kernelDue s1 slot && (List.range slot).all (fun k => !kernelDue s1 k) &&
        decide (max (windowOpen s1) s1.dsp.busyUntil ≤ now s1) && decide (now s1 < windowClose s1) && decide (s1.dsp.busyUntil < windowClose s1) then
      kernelRun s1 slot retries
    else s1)

/-- KERNEL_WINDOW_CLOSE (R284): a run that has not ended is aborted. A slot whose turn never came counts nothing. -/
def execKernelWindowClose (clk slot : Nat) (s : State) : Host.Outcome State Fault Refusal :=
  let s1 := begin clk s
  .next (if (kernelOf s1 slot).overrun.any (fun k => k != s1.herd.tick || decide (windowClose s1 ≤ now s1)) then
      error (bump (setKernel s1 slot (fun g => { g with overrun := none })) 0x10 (8 + slot) 0x0B) (kernelWord slot)
    else s1)

end Sys2Proof.Machine
end

