-- ==== Sys2Proof/Machine/FieldIo.lean ====
section
/-! DEFINITION. Standard inputs and outputs (16_field_io_feedback_aux.md R336 to R341) and probe latches (R351). -/

namespace Sys2Proof.Machine

def inputOf (s : State) (n : Nat) : StdInput := tget {} s.field.inputs n

/-- One filter step of an input (R337). [DEDUCED, log 84] -/
def filterInput (objs : List (Nat × Nat)) (n t : Nat) (raw : Bool) (x : StdInput) : StdInput :=
  let c := if raw then min (x.count + 1) (ob objs 0x90 (0x40 + n) 0) else x.count - 1
  let x1 := { x with count := c }
  let x2 := if !x1.on && decide (ob objs 0x90 (0x40 + n) 1 ≤ c) then { x1 with on := true, changeTime := t } else x1
  if x2.on && decide (c ≤ ob objs 0x90 (0x40 + n) 2) then { x2 with on := false, changeTime := t } else x2

/-- PROBE_LATCH (R351): an OFF-to-ON change of an input latches every interface that names it. -/
def probeLatch (s : State) (n t : Nat) : State :=
  (List.range 8).foldl (fun s e =>
    if eo s e 0x0C = n then
      bump (setEnc s e (fun x => { x with probe := { p := x.p, v := encSpeed s e t, t := t } })) 0x90 (0x10 + e) 0x0E
    else s) s

/-- An input that comes ON may be the trigger of a capture (R368). -/
def inputTrigger (s : State) (n t : Nat) (on : Bool) : State :=
  if on && s.acq.capture.state == .armed && ov s 0xA0 0 6 == 5 && ov s 0xA0 0 9 == n then
    { s with acq := { s.acq with capture := { s.acq.capture with events := s.acq.capture.events ++ [{ time := t, force := false }] } } }
  else s

/-- What a change of an input's state does: it is counted, and one that comes ON may trigger a capture and latches probes. -/
def inputMoved (t : Nat) (s : State) (n : Nat) (was is : Bool) : State :=
  if was = is then s
  else
    let s1 := inputTrigger (bump s 0x90 (0x40 + n) 4) n t is
    if is && fieldUp s 2 then probeLatch s1 n t else s1

/-- A table by rising key, the entries equal to the default left out. -/
def inputTable (f : Nat → StdInput) (l : List Nat) : List (Nat × StdInput) := l.foldr (fun n r => if f n = {} then r else (n, f n) :: r) []

/-- INPUT_FILTER_STEP (R336, R337, R351): the raw samples taken at a whole multiple of 10,000 ns of herd time. [DEDUCED, log 84] -/
def execInputFilterStep (clk raw : Nat) (s : State) : Host.Outcome State Fault Refusal :=
  let s1 := begin clk s
  let t := now s1 / 10000 * 10000
  let f := fun (n : Nat) => filterInput s1.objs n t (bit raw n && !s1.field.inGroup.getLsbD (n / 8)) (inputOf s1 n)
  .next (if fieldUp s1 0 then
      (List.range 32).foldl (fun s n => inputMoved t s n (inputOf s1 n).on (f n).on)
        (withField s1 (fun d => { d with inputs := inputTable f (List.range 32) }))
    else s1)

/-- The onset of a group fault (R338): element 32 + g of an input group, 36 + g of an output group. -/
def groupFault (s : State) (element group : Nat) : State :=
  errorAs (bump s 0x90 0 6) (errWord 1 4 0 0 false element) 0x0024 group .event

/-- Index of a group's 24 V supply among the supplies of `pwr.v24`. -/
def groupSupply (output : Bool) (group : Nat) : Nat := if output then 5 + group else 1 + group

def setSupply (s : State) (i mv : Nat) : State := { s with hw := { s.hw with v24 := upd s.hw.v24 i (fun _ => mv) } }

/-- INPUT_GROUP_FAULT (R338): the group's supply has fallen below 18 V. -/
def execInputGroupFault (clk group mv : Nat) (s : State) : Host.Outcome State Fault Refusal :=
  let s1 := begin clk s
  .next (if !fieldUp s1 0 || 4 ≤ group || 18000 ≤ mv then s1
    else
      let s2 := setSupply s1 (groupSupply false group) mv
      if s1.field.inGroup.getLsbD group then s2
      else groupFault (withField s2 (fun d => { d with inGroup := d.inGroup ||| (1#4 <<< group) })) (32 + group) group)

/-- OUTPUT_GROUP_FAULT (R340): an output of the group limits its current or is off by temperature, or the supply is below 18 V. -/
def execOutputGroupFault (clk group mv : Nat) (s : State) : Host.Outcome State Fault Refusal :=
  let s1 := begin clk s
  .next (if !fieldUp s1 0 || 2 ≤ group then s1
    else
      let s2 := setSupply s1 (groupSupply true group) mv
      if s1.field.outGroup.getLsbD group then s2
      else groupFault (withField s2 (fun d => { d with outGroup := d.outGroup ||| (1#2 <<< group) })) (36 + group) group)

/-- GROUP_FAULT_CLEARED (R338, R340). -/
def execGroupFaultCleared (clk : Nat) (output : Bool) (group mv : Nat) (s : State) : Host.Outcome State Fault Refusal :=
  let s1 := begin clk s
  .next (if !fieldUp s1 0 || mv < 18000 || (if output then 2 else 4) ≤ group then s1
    else
      withField (setSupply s1 (groupSupply output group) mv) (fun d =>
        if output then { d with outGroup := d.outGroup &&& ~~~(1#2 <<< group) } else { d with inGroup := d.inGroup &&& ~~~(1#4 <<< group) }))

/-- The outputs follow `fio.out` from a tick start on while an image is active (R339, R341); those of a standby are off
(R409). -/
def driveOutputs (s : State) : State :=
  withField s (fun d => { d with
    outState := if imageActive s && s.mode.mode != .boot && drives s && fieldUp s 0 then BitVec.ofNat 16 (ov s 0x90 0 2) else if fieldUp s 0 then 0 else d.outState })

/-- Entry into FAULT: outputs that do not keep their state are switched off and leave `fio.out` (R341). -/
def outputsFault (s : State) : State := driveOutputs (setOb s 0x90 0 2 ((ov s 0x90 0 2) &&& (ov s 0x90 0 5)))

/-- Image activation: every filter starts anew, and the next absolute word is a first word (R337, R347). -/
def fieldActivate (s : State) : State :=
  driveOutputs (withField s (fun d => { d with
    inputs := (d.inputs.map (fun x => (x.1, { x.2 with count := 0, on := false }))).filter (fun x => x.2 != {})
    encoders := d.encoders.map (fun x => { x with word := none }) }))

end Sys2Proof.Machine
end

