-- ==== Sys2Proof/Machine/Tahixa.lean ====
section
/-! DEFINITION. Tahixa frames and slots: the checks of a received frame, copies and ages, the grant and the frames the module sends
(05_tahixa_schedule.md R104 to R127; 06_tahixa_startup_and_redundancy.md R137 to R141). -/

namespace Sys2Proof.Machine

def withNet (s : State) (f : TahixaState → TahixaState) : State := { s with net := f s.net }
def nodeOf (s : State) (n : Nat) : NodeState := tget {} s.net.nodes n
def setNode (s : State) (n : Nat) (f : NodeState → NodeState) : State := withNet s (fun t => { t with nodes := tset {} t.nodes n (f (nodeOf s n)) })
def upOf (s : State) (k : Nat) : UpSlot := tget {} s.net.up k
def setUp (s : State) (k : Nat) (f : UpSlot → UpSlot) : State := withNet s (fun t => { t with up := tset {} t.up k (f (upOf s k)) })
def downOf (s : State) (k : Nat) : DownSlot := tget {} s.net.down k
def setDown (s : State) (k : Nat) (f : DownSlot → DownSlot) : State := withNet s (fun t => { t with down := tset {} t.down k (f (downOf s k)) })

/-! ### The cycle, lines and ports (R108, R109, R136, R139, R399, R400) -/

/-- Node ID of the module and of its partner (R128, R399). -/
def nodeId (s : State) : Nat := if s.start.pairId = 2 then 2 else 1
def otherId (s : State) : Nat := 3 - nodeId s

/-- A node of the cell (`tahixa.node_present`). -/
def nodePresent (objs : List (Nat × Nat)) (n : Nat) : Bool := decide (1 ≤ n) && decide (n ≤ 254) && ob objs 0x70 n 0 == 1

/-- Present nodes, ascending. -/
def presentNodes (objs : List (Nat × Nat)) : List Nat := (List.range 255).filter (nodePresent objs)

/-- S of a direction in force: the reset schedule while no image is active (R129). -/
def staticDown (s : State) : Nat := if imageActive s then ov s 0x70 0 1 else 1
def staticUp (s : State) : Nat := if imageActive s then ov s 0x70 0 2 else 0

/-- M and the NIT in ps of a direction (R109). -/
def miniSlots (cycle st : Nat) : Nat := (cycle - 448 * st - 2000) * 10 / 1024
def nitPs (cycle st : Nat) : Nat := (cycle - 448 * st) * 1000 - miniSlots cycle st * 102400

/-- `tahixa.redundancy`; ring modes (Table 6-4). -/
def ringMode (objs : List (Nat × Nat)) : Bool := decide (2 ≤ ob objs 0x70 0 0x20)

/-- Module 2 of a pair as the holder runs each ring as a line (R399). -/
def asLine (s : State) : Bool := pairOn s.objs && s.pair.role == .holder && nodeId s = 2

/-- A ring is open in a tick: one found open opens from the next tick, one restored closes at RESTORE_AT (R139, R142); module 2 as the
holder shows each as open (R399). -/
def ringOpenAt (s : State) (r tick : Nat) : Bool :=
  let x := nth {} s.net.rings r
  asLine s || ((x.isOpen || (x.opening && decide (s.herd.tick < tick))) && !x.restoreAt.any (fun k => decide (k ≤ tick)))

def ringOpen (s : State) (r : Nat) : Bool := ringOpenAt s r s.herd.tick

/-- A MAC takes and sends no frame: isolated, gated or without power (R18, R391). -/
def macDown (s : State) (p : Nat) : Bool := isolated s 3 (p / 2) || gated s 3 (p / 2) || !domainOn s 9

/-- Ports the module sends by in a tick (R136, R139): those of the mode whose MAC works. -/
def sendPortsAt (s : State) (tick : Nat) : List Nat :=
  let red := ov s 0x70 0 0x20
  let far := fun (r : Nat) => !asLine s && ringOpenAt s r tick
  ([0] ++ (if decide (2 ≤ red) && far 0 then [1] else []) ++ (if red % 2 = 1 then [2] else []) ++
    (if red = 3 && far 1 then [3] else [])).filter (fun p => !macDown s p)

def sendPorts (s : State) : List Nat := sendPortsAt s s.herd.tick

/-- A port's closure side of a ring that is closed: what arrives there is the module's own frame come round (R139). -/
def closurePort (s : State) (p : Nat) : Bool := ringMode s.objs && (p = 1 && !ringOpen s 0 || (p = 3 && ov s 0x70 0 0x20 = 3 && !ringOpen s 1))

/-- Cycles run for this module: it leads, or follows the other module of a pair. -/
def netRuns (s : State) : Bool := s.net.net = .starting || s.net.net = .running || s.net.net = .follow

/-- The module sends downstream frames: it leads the cycle, and in a pair holds the token (R402). -/
def netLeads (s : State) : Bool :=
  (s.net.net = .coldstart || s.net.net = .starting || s.net.net = .running) && drives s &&
    (!pairOn s.objs || decide (tickStart s < s.pair.token.leaseEnd))

/-- Asymmetry term of a port in 0.25 ns. -/
def alphaQ (s : State) (port : Nat) : Int := sext 16 (ov s 0x80 (0x20 + port) 2)

/-- Module 2 as the holder shifts downstream frames later and upstream windows earlier by D₁₂ of the line (R400), in 0.25 ns. [DESIGN
CHOICE, log 46] -/
def shiftQ (s : State) (line : Nat) : Int := if pairOn s.objs && s.pair.role = .holder && nodeId s = 2 then nth 0 s.pair.d12 line else 0
def shiftDown (s : State) (port : Nat) : Int := if shiftQ s (port / 2) = 0 then 0 else roundDiv ((shiftQ s (port / 2) - alphaQ s port) * 5) 2
def shiftUp (s : State) (port : Nat) : Int := if shiftQ s (port / 2) = 0 then 0 else roundDiv ((shiftQ s (port / 2) + alphaQ s port) * 5) 2

/-- Nearest whole number of n ÷ d. [DEDUCED, log 79] -/
def nearestDiv (n : Int) (d : Nat) : Int :=
  let q := n / (d : Int)
  let r := n % (d : Int)
  if 2 * r < d then q else if (d : Int) < 2 * r then q + 1 else if Config.tieUp q then q + 1 else q

/-- Port timestamp of a frame the module sends, from its frame start in 0.1 ns (R99, R110). -/
def sentStamp (s : State) (port : Nat) (start : Nat) : Nat := (nearestDiv (2 * ((start : Int) + 256) + 5 * sext 16 (ov s 0x80 (0x20 + port) 1)) 20).toNat

/-- Frame start of a received frame in 0.1 ns (R110). -/
def frameStart (s : State) (f : RxFrame) : Int := (rxStamp s f.port f.capture : Int) * 10 - 256

/-! ### Header fields (Table 5-2) -/

def hdrVersion (f : RxFrame) : Nat := be f.header 0 1 / 16
def hdrType (f : RxFrame) : Nat := be f.header 0 1 % 16
def hdrFlags (f : RxFrame) : Nat := be f.header 1 1
def hdrSrc (f : RxFrame) : Nat := be f.header 2 1
def hdrCycle (f : RxFrame) : Nat := be f.header 4 2
def hdrDynamic (f : RxFrame) : Bool := bit (be f.header 6 2) 15
def hdrSlot (f : RxFrame) : Nat := be f.header 6 2 % 32768
def hdrLen (f : RxFrame) : Nat := be f.header 8 2
def hdrAge (f : RxFrame) : Nat := be f.header 10 1
def hdrDyn (f : RxFrame) : Nat := be f.header 11 1

/-- The 12 header bytes of a frame the module sends. -/
def header (s : State) (type flags dst tick slot len age : Nat) : Bytes :=
  beBytes 1 (16 + type) ++ beBytes 1 flags ++ beBytes 1 (nodeId s) ++ beBytes 1 dst ++ beBytes 2 (tick % 65536) ++ beBytes 2 slot ++
    beBytes 2 len ++ beBytes 1 age ++ beBytes 1 0

/-! ### Checks of a received frame (R107) -/

/-- A counter of the sender, or of foreign frames when the sender is no present node. -/
def countNode (s : State) (src mem : Nat) : State := if nodePresent s.objs src then bump s 0x70 src mem else bump s 0x70 0 0x0E

/-- The frame at its port: counted, with its code errors and its FCS (R143, R145). -/
def countPort (s : State) (f : RxFrame) : State :=
  let s1 := if f.codeErrors = 0 then countFrame s f.port else bumpAtN (countFrame s f.port) 0x70 0 0x2C f.port f.codeErrors
  if f.fcsOk then s1 else bumpAt s1 0x70 0 0x2B f.port

/-- Checks 1 and 2 of a counted frame: FCS, EtherType, VLAN tag, VERSION and TYPE (R104, R106); true where the frame passes. -/
def frameForm (s1 : State) (f : RxFrame) : State × Bool :=
  if !f.fcsOk || f.codeErrors != 0 then (s1, false)
  else if f.etherType != 0x88B5 || f.vlan.isSome || hdrVersion f != 1 || hdrType f = 0 || 7 < hdrType f then (bump s1 0x70 0 0x0E, false)
  else (s1, true)

/-- The mode takes upstream frames at the port (R136, R139). -/
def portServes (s : State) (p : Nat) : Bool := (sendPorts s).contains p

/-- A frame of a node is outer or not in this cycle (R114). -/
def noteDrift (s : State) (n : Nat) (outer : Bool) : State :=
  setNode s n (fun x =>
    if outer && !x.sawOuter then
      { x with sawFrame := true, sawOuter := true, outerRun := min 16 (x.outerRun + 1), driftDue := x.driftDue || x.outerRun = 15 }
    else { x with sawFrame := true })

/-- Action point of an upstream slot of the tick in progress at a port, in 0.1 ns. [DEDUCED, log 79] -/
def upAction (s : State) (port k : Nat) : Int := (tickStart s : Int) * 10 + 4480 * k - shiftUp s port

/-- Action point of an upstream mini-slot. -/
def miniAction (s : State) (port k : Nat) : Int := (tickStart s : Int) * 10 + 4480 * staticUp s + 1024 * k - shiftUp s port

/-- Half the acceptance window of a static slot in 0.1 ns (R113, R141). -/
def halfWindow (s : State) (line k : Nat) : Int :=
  let n := nodeOf s (upNode s.objs k)
  if bit (upFlags s.objs k) 1 || (if line = 0 then n.cutA else n.cutB) then 960 else 480

/-- The tag key of a node (R126, R422). -/
def tagKey (s : State) (n : Nat) : Option Bytes :=
  match ob s.objs 0x70 n 1 with
  | 0 => none
  | k => ((nth none s.sec.hmac (k - 1)).filter (·.tahixa)).map (·.key)

/-- A tag (R126). -/
def tagOf (key : Bytes) (tick : Nat) (hdr data : Bytes) : Bytes := (hmac256 key (beBytes 4 (tick % 2 ^ 32) ++ hdr ++ data)).take 8

/-- The tag of a received frame is right. -/
def tagOk (s : State) (f : RxFrame) : Bool :=
  let at_ := if hdrDynamic f then hdrLen f else 52
  (tagKey s (hdrSrc f)).any (fun k => tagOf k s.herd.tick f.header (f.payload.take at_) == slice f.payload at_ 8)

/-- The safety CRC of R124 over the connection ID, header bytes 2 to 9 and some data. -/
def safeCrc (conn : Nat) (hdr data : Bytes) : Nat := crcMsb 32 0x741B8CD7 0xFFFFFFFF (beBytes 4 conn ++ slice hdr 2 8 ++ data) ^^^ 0xFFFFFFFF

/-- Sequence rule of R125. -/
def seqOk (s : State) (last : Option (Nat × Nat)) (q : Nat) : Bool := last.all (fun l => (l.1 + (s.herd.tick - l.2)) % 65536 == q)

/-- What a received static frame is found to be. -/
inductive Verdict where
  /-- Discarded, with its counter. -/
  | discard (s : State)
  /-- Accepted in a slot with its offset in 0.1 ns. -/
  | accept (s : State) (slot : Nat) (start : Int)

/-- The line of a port: its copy of a slot. -/
def copyOf (u : UpSlot) (line : Nat) : Option SlotCopy := if line = 0 then u.copyA else u.copyB

/-- The offset of an accepted frame (R113, R114). -/
def noteOffset (s : State) (n : Nat) (d w : Int) : State :=
  noteDrift (setNode s n (fun x => { x with lastOffset := d })) n (decide (4 * d < -3 * w) || decide (3 * w ≤ 4 * d))

/-- A static frame has passed every check of R107. -/
def noteAccepted (s : State) (k : Nat) (f : RxFrame) (start : Int) : State :=
  noteOffset s (hdrSrc f) (start - upAction s f.port k) (halfWindow s (f.port / 2) k)

/-- Checks 3 to 5 of a static frame. -/
def checkStatic (s : State) (f : RxFrame) (kind : Nat) : Verdict :=
  let k := hdrSlot f
  let src := hdrSrc f
  let start := frameStart s f
  let tagged := bit (upFlags s.objs k) 0 || bit (hdrFlags f) 1
  let w := halfWindow s (f.port / 2) k
  let d := start - upAction s f.port k
  if !(hdrCycle f = tickCount s % 65536 && !hdrDynamic f && decide (k < staticUp s) && decide (start < upAction s f.port (staticUp s)) &&
      upNode s.objs k = src && upKind s.objs k = kind && hdrType f = kind && (copyOf (upOf s k) (f.port / 2)).isNone) then
    .discard (countNode s src 9)
  else if d < -w || w ≤ d then .discard (noteDrift (countNode s src 8) src true)
  else if tagged && !tagOk s f then .discard (countNode s src 0x0A)
  else .accept s k start

/-! ### What an accepted frame brings (R118, R121, R123, R241, R242, R287, R288, R323) -/

/-- A request in an upstream static frame posted at a time in 0.1 ns (R118, R119). -/
def takeRequest (s : State) (n dyn at_ : Nat) : State :=
  setNode s n (fun x =>
    if bit dyn 7 = x.grantedToggle then x
    else if dyn % 128 = 0 then { x with request := none }
    else { x with request := some (bit dyn 7, dyn % 128), requestAt := if x.request.any (fun r => r.1 = bit dyn 7) then x.requestAt else at_ })

/-- A node's lines (`tahixa.node_lines`). -/
def noteLine (s : State) (n port : Nat) (first : Bool) : State :=
  let b := (if port / 2 = 0 then 1 else 2) ||| (if port % 2 = 1 then 4 else 0)
  setNode s n (fun x => { x with lines := if first then b else x.lines ||| b })

/-- A copy becomes the frame the slot holds; one with NOT_READY leaves the last fresh frame and its tick unchanged (R121, R123). -/
def putFrame (s : State) (k : Nat) (c : SlotCopy) : State :=
  setUp s k (fun u =>
    if c.notReady then { u with held := c.payload, holds := true }
    else { u with held := c.payload, payload := c.payload, freshTick := some s.herd.tick, freshAge := c.age, holds := true, len := c.len })

/-- The slot holds an accepted frame, and a frame held before is replaced (R123). -/
def holdFrame (s : State) (k : Nat) (c : SlotCopy) : State := putFrame (if (upOf s k).holds then bumpAt s 0x70 0 0x12 k else s) k c

/-- A 48-bit time as the full herd time nearest the present (R10). -/
def widen48 (s : State) (v : Nat) : Nat := ((now s : Int) + sdiff 48 v (now s % 2 ^ 48)).toNat

/-- The feedback operand of a payload at an age (Table 11-2, R242). -/
def feedbackOf (s : State) (p : Bytes) (age : Nat) : Feedback :=
  { sampleTime := widen48 s (be p 0 6) + age * tickNs s, torqueOn := bit (be p 6 2) 0, driveFault := bit (be p 6 2) 1
    position := sext 64 (be p 8 8), y1 := BitVec.ofNat 32 (be p 16 4), y2 := BitVec.ofNat 32 (be p 20 4), y3 := BitVec.ofNat 32 (be p 24 4)
    vdc := BitVec.ofNat 32 (be p 28 4), age := age }

/-- A network input takes its payload bits and age in both channels; a pair that is no code counts (R323). -/
def postSafeIn (s : State) (e : Nat) (p : Bytes) (age : Nat) : State :=
  let v := be p 0 1 % 4
  let bad := age = 0 && (v = 0 || v = 3)
  let put := fun (c : Channel2) => { c with nets := tput c.nets e { tget {} c.nets e with bits := v, age := age, codingError := v = 0 || v = 3 } }
  let s1 := setSafeCh (setSafeCh s false put) true put
  if bad then bump s1 0x60 (0x40 + e) 6 else s1

/-- The operand of a slot is posted at an instant, with the age of R121. -/
def postSlot (s : State) (k at_ : Nat) : State :=
  let u := upOf s k
  let age := slotAge s u
  let b := upBinding s.objs k
  let i := b % 4096
  let s1 := setUp s k (fun u => { u with posted := true })
  match b / 4096 with
  | 1 =>
    let fb := feedbackOf s u.payload age
    withSched { s1 with ctl := { s1.ctl with feedback := tput s1.ctl.feedback i fb } }
      (fun c => { c with posts := c.posts.filter (fun p => !(p.source = b && p.tag = s.herd.tick)) ++
                                    [{ source := b, tag := s.herd.tick, value := .feedback fb, age := age, at_ := at_ }] })
  | 5 => postSafeIn s1 i u.payload age
  | _ => s1

/-- Time from a frame's start to the posting of its operand in 0.1 ns (R110). -/
def postLag (s : State) (k : Nat) : Int := if bit (upFlags s.objs k) 0 then 4760 else 3800

/-- The instant at which an accepted frame's operand is posted, in ns (R110). -/
def postAt (s : State) (k : Nat) (start : Int) : Nat := ((start + postLag s k) / 10).toNat

/-- One channel checks a copy of a feedback frame for its safe joint record (R287, R288). -/
def jointCheck (s : State) (f : RxFrame) (r : SafeJoint) : SafeJoint :=
  let p := f.payload
  let q := be p 40 2
  let last := if f.port / 2 = 0 then r.seqA else r.seqB
  if be p 44 4 = safeCrc s.safety.connectionId f.header (slice p 0 8 ++ slice p 32 12) && seqOk s last q && bit (be p 42 1) 0 then
    let r1 := if f.port / 2 = 0 then { r with seqA := some (q, s.herd.tick) } else { r with seqB := some (q, s.herd.tick) }
    if r.tick = some s.herd.tick then r1 else { r1 with pos := sext 32 (be p 32 4), vel := sext 32 (be p 36 4), tick := some s.herd.tick }
  else r

/-- Both channels check a copy of the feedback of a joint. -/
def jointRecord (s : State) (k : Nat) (f : RxFrame) : State :=
  let b := upBinding s.objs k
  let ch := b % 4096
  if b / 4096 = 1 && decide (ch < 64) then
    withSep s (fun e => { e with jointsP := tput e.jointsP ch (jointCheck s f (tget {} e.jointsP ch))
                                 jointsC := tput e.jointsC ch (jointCheck s f (tget {} e.jointsC ch)) })
  else s

/-- The copy a frame is, on its line. -/
def copyFrom (f : RxFrame) (start : Int) : SlotCopy :=
  { start := start.toNat, payload := f.payload, len := hdrLen f, age := hdrAge f, notReady := bit (hdrFlags f) 0, seq := 0, dyn := hdrDyn f }

/-- Records a copy on its line. -/
def putCopy (s : State) (k line : Nat) (c : SlotCopy) : State :=
  setUp s k (fun u => if line = 0 then { u with copyA := some c } else { u with copyB := some c })

/-- What every accepted copy brings besides its data: lines and the safe joint record. -/
def noteCopy (s : State) (k : Nat) (f : RxFrame) (first : Bool) : State := jointRecord (noteLine s (hdrSrc f) f.port first) k f

/-- A PROCESS copy: the first valid one is taken, that of line A where two start together; the second is counted (R137). -/
def takeProcess (s : State) (k : Nat) (f : RxFrame) (start : Int) : State :=
  let line := f.port / 2
  let c := copyFrom f start
  let other := copyOf (upOf s k) (1 - line)
  let s1 := takeRequest (noteCopy (putCopy s k line c) k f other.isNone) (hdrSrc f) c.dyn (start + postLag s k).toNat
  match other with
  | none => postSlot (holdFrame s1 k c) k (postAt s k start)
  | some o =>
    let swap := line = 0 && o.start = c.start
    let s2 := if swap then postSlot (putFrame s1 k c) k (postAt s k start) else s1
    let s3 := bumpAt s2 0x70 0 0x30 (if swap then 1 else line)
    if o.payload.take o.len == c.payload.take c.len then s3 else bump s3 0x70 0 0x32

/-! ### Closure copies (R139) -/

/-- The module's own slot 0 come round a closed ring: the loop delay, and the proof that the ring is closed. -/
def closureCopy (s : State) (f : RxFrame) : State :=
  let r := f.port / 2
  if hdrSlot f = 0 && !hdrDynamic f && (!f.fcsOk || hdrSrc f = nodeId s) then
    let l := frameStart s f - (tickStart s : Int) * 10
    withNet s (fun t => { t with rings := upd t.rings r (fun x =>
      { x with closureSeen := true, loop := if x.closureSeen then x.loop else (l :: x.loop).take 8 }) })
  else s

/-- A frame of the module's own come round a closed ring, or one of the other module that passes a module of a pair on its way: it is
counted at its port and no frame of a node. [DEDUCED, log 142] -/
def passing (s : State) (f : RxFrame) : Bool :=
  (closurePort s f.port && hdrSrc f = nodeId s) || (pairOn s.objs && hdrSrc f = otherId s && 1 ≤ hdrType f && hdrType f ≤ 5 && hdrType f != 3)

/-- A frame at a port: counted, its closure copy noted, and checked for form; false where it goes no further. Port 4 takes part in the
counts alone. -/
def received (s : State) (f : RxFrame) : State × Bool :=
  if macDown s f.port then (s, false)
  else
    let s1 := countPort s f
    let s2 := if closurePort s f.port then closureCopy s1 f else s1
    if f.fcsOk && passing s f then (s2, false)
    else ((frameForm s2 f).1, (frameForm s2 f).2 && decide (f.port < 4))

/-- A downstream static frame of the other module is noted (R403). -/
def noteForeign (s : State) (f : RxFrame) : State :=
  if pairOn s.objs && f.fcsOk && f.etherType = 0x88B5 && hdrSrc f = otherId s && !hdrDynamic f then { s with pair := { s.pair with lastForeign := some (now s) } } else s

/-- PROCESS_FRAME_RX (R107): at the instant its operand is posted. -/
def execProcessFrameRx (clk : Nat) (f : RxFrame) (s : State) : Host.Outcome State Fault Refusal :=
  let s1 := noteForeign (begin clk s) f
  let r := received s1 f
  .next (if !r.2 then r.1 else
    match checkStatic r.1 f 1 with
    | .discard s2 => s2
    | .accept s2 k start => if netRuns s2 && portServes s2 f.port then takeProcess (noteAccepted s2 k f start) k f start else s2)

/-! ### Safety frames (R124, R125, R138, R324) -/

/-- Offset of the safety trailer: before the tag of a tagged frame (R124). -/
def trailerAt (s : State) (k : Nat) (f : RxFrame) : Nat := if bit (upFlags s.objs k) 0 || bit (hdrFlags f) 1 then 44 else 52

/-- The slot of a SAFETY frame missed: the held payload is posted with its age. -/
def missSlot (s : State) (k at_ : Nat) : State := postSlot (bumpAt s 0x70 0 0x11 k) k at_

/-- Both copies of a safety frame are in: they must agree byte for byte (R138). -/
def pairCopies (s : State) (k : Nat) (a b : SlotCopy) (at_ : Nat) : State :=
  if a.payload == b.payload then
    let last := if a.start < b.start then b else a
    let s1 := takeRequest (setUp s k (fun u => { u with singleRun := 0, singleDue := false })) (upNode s.objs k) last.dyn (10 * at_)
    postSlot (holdFrame s1 k a) k at_
  else missSlot (bump (setUp s k (fun u => { u with mismatch := true })) 0x70 (upNode s.objs k) 0x16) k at_

/-- SAFETY_FRAME_RX (R138): check 6, then the comparison with the other line's copy. -/
def takeSafety (s : State) (k : Nat) (f : RxFrame) (start : Int) : State :=
  let o := trailerAt s k f
  let line := f.port / 2
  let u := upOf s k
  let q := be f.payload o 2
  let src := hdrSrc f
  if be f.payload (o + 4) 4 != safeCrc s.safety.connectionId f.header (f.payload.take (o + 4)) || be f.payload (o + 2) 1 != src then
    countNode s src 0x0B
  else if !seqOk s (if line = 0 then u.seqA else u.seqB) q then countNode s src 0x0C
  else
    let c := { copyFrom f start with seq := q }
    let s0 := noteAccepted s k f start
    let s1 := setUp (putCopy s0 k line c) k (fun u => if line = 0 then { u with seqA := some (q, s.herd.tick) } else { u with seqB := some (q, s.herd.tick) })
    let s2 := noteCopy s1 k f (copyOf u (1 - line)).isNone
    match copyOf u (1 - line) with
    | some other => if u.posted || u.closed then s2 else pairCopies s2 k (if line = 0 then c else other) (if line = 0 then other else c) (postAt s k start)
    | none => s2

/-- SAFETY_FRAME_RX. -/
def execSafetyFrameRx (clk : Nat) (f : RxFrame) (s : State) : Host.Outcome State Fault Refusal :=
  let s1 := noteForeign (begin clk s) f
  let r := received s1 f
  .next (if !r.2 then r.1 else
    match checkStatic r.1 f 2 with
    | .discard s2 => s2
    | .accept s2 k start => if netRuns s2 && portServes s2 f.port then takeSafety s2 k f start else s2)

/-- A single copy of a safety frame at the close of its window: fresh, unless the run has passed the limit (R138, R324). -/
def singleCopy (s : State) (k : Nat) (c : SlotCopy) (at_ : Nat) : State :=
  let run := (upOf s k).singleRun + 1
  let limit := ov s 0x60 0x80 5
  let s1 := bump (setUp s k (fun u => { u with singleRun := run, singleDue := u.singleDue || run = limit + 1 })) 0x70 (upNode s.objs k) 0x15
  if limit < run then missSlot s1 k at_
  else postSlot (holdFrame (takeRequest s1 (upNode s.objs k) c.dyn (10 * at_)) k c) k at_

/-- The instant in 0.1 ns by which every frame that starts inside a slot's window has been posted, on every line: a + w + 380 ns (R121, R138,
R242). -/
def slotClose (s : State) (k : Nat) : Int :=
  [0, 2].foldl (fun m p => max m (upAction s p k + halfWindow s (p / 2) k)) (upAction s 0 k) + postLag s k

/-- SLOT_WINDOW_CLOSE (R242, R138): no frame of the slot has started by a + w, or a single copy of a safety frame has come. -/
def windowShut (s : State) (k : Nat) : State :=
  let u := upOf s k
  let at_ := (slotClose s k / 10).toNat
  let s1 := setUp s k (fun u => { u with closed := true })
  if u.posted then s1
  else match u.copyA, u.copyB with
    | none, none => missSlot s1 k at_
    | some c, none => if upKind s.objs k = 2 then singleCopy s1 k c at_ else s1
    | none, some c => if upKind s.objs k = 2 then singleCopy s1 k c at_ else s1
    | some _, some _ => s1

/-- SLOT_WINDOW_CLOSE. [DESIGN CHOICE, log 4] -/
def execSlotWindowClose (clk slot : Nat) (s : State) : Host.Outcome State Fault Refusal :=
  let s1 := begin clk s
  .next (if netRuns s1 && imageActive s1 && (upSlots s1.objs).contains slot && !(upOf s1 slot).closed &&
      decide (slotClose s1 slot ≤ (now s1 : Int) * 10) then windowShut s1 slot else s1)

/-- SAFETY_SINGLE (R324): the run has passed its limit. -/
def execSafetySingle (clk slot : Nat) (s : State) : Host.Outcome State Fault Refusal :=
  let s1 := begin clk s
  .next (if (upOf s1 slot).singleDue then log (setUp s1 slot (fun u => { u with singleDue := false })) .event 0x0013 slot 0 else s1)

/-! ### Upstream dynamic frames (R113, R120) -/

/-- Mini-slots of a dynamic frame with a payload of p bytes, its guard included (R110). -/
def dynSize (p : Nat) : Nat := ceilDiv (50 + p) 32 + 1

/-- Checks 3 to 5 of a dynamic frame; true where it is accepted. -/
def checkDynamic (s : State) (f : RxFrame) : State × Bool :=
  let k := hdrSlot f
  let src := hdrSrc f
  let start := frameStart s f
  let d := start - miniAction s f.port k
  let granted := fun (i : Nat) => s.net.grantNow.any (fun e => e.node = src && decide (e.start ≤ i) && decide (i < e.start + e.length))
  let m := miniSlots (tickNs s) (staticUp s)
  if !(hdrCycle f = tickCount s % 65536 && hdrDynamic f && decide (miniAction s f.port 0 - 480 ≤ start) &&
      decide (start < miniAction s f.port m) && granted k && !s.net.dynCopies.any (fun c => c.1 = k && c.2.1 = f.port / 2)) then (countNode s src 9, false)
  else if d < -480 || 480 ≤ d || !(List.range (dynSize f.payload.length)).all (fun i => granted (k + i)) then
    (noteDrift (countNode s src 8) src true, false)
  else if bit (hdrFlags f) 1 && !tagOk s f then (countNode s src 0x0A, false)
  else if !portServes s f.port then (s, false)
  else (noteOffset s src d 480, true)

/-- A host frame enters the receive queue, or is dropped (R120). -/
def queueHost (s : State) (f : RxFrame) (start : Int) : State :=
  if 16 ≤ s.net.hostRx.length then bump s 0x70 0 0x0D
  else
    let m : RxMessage := { src := hdrSrc f, flags := hdrFlags f, rxTime := (nearestDiv start 10).toNat, data := slice f.payload 0 (hdrLen f) }
    setInt (withNet s (fun t => { t with hostRx := t.hostRx ++ [m] })) 7

/-- The copy of line A is taken where the two start together, with its data in the queue in place of the other's (R137). -/
def swapMessage (s : State) (f : RxFrame) (start : Int) (data : Bytes) : State :=
  withNet s (fun t => { t with hostRx := t.hostRx.map (fun m =>
    if m.src = hdrSrc f && m.rxTime = (nearestDiv start 10).toNat then { m with data := data, flags := hdrFlags f } else m) })

/-- MESSAGE_RX (R120, R137): the copy taken of a frame with HOST set enters the receive queue. -/
def messageRx (s : State) (f : RxFrame) : State :=
  let start := frameStart s f
  let k := hdrSlot f
  let data := slice f.payload 0 (hdrLen f)
  let s1 := withNet s (fun t => { t with dynCopies := t.dynCopies ++ [(k, f.port / 2, start.toNat, data)] })
  match s.net.dynCopies.find? (fun c => c.1 = k) with
  | none => if bit (hdrFlags f) 3 then queueHost s1 f start else s1
  | some c =>
    let swap := f.port / 2 = 0 && c.2.2.1 = start.toNat
    let s2 := bumpAt (if swap then swapMessage s1 f start data else s1) 0x70 0 0x30 (if swap then 1 else f.port / 2)
    if c.2.2.2 == data then s2 else bump s2 0x70 0 0x32

/-- MESSAGE_RX. -/
def execMessageRx (clk : Nat) (f : RxFrame) (s : State) : Host.Outcome State Fault Refusal :=
  let s1 := begin clk s
  let r := received s1 f
  .next (if !r.2 then r.1
    else if hdrType f != 3 then countNode r.1 (hdrSrc f) 9
    else
      let c := checkDynamic r.1 f
      if c.2 && netRuns c.1 then messageRx c.1 f else c.1)

/-! ### Node delays (R111, R134, R141) -/

/-- The mean of delays held in 1/8 ns as a sum and a count. [DEDUCED, log 79] -/
def meanQ (l : List Int) (extra : Int) : Int := if l.isEmpty then 0 else roundDiv (sumInt l + 2 * extra * l.length) (2 * l.length)

/-- A measurement joins the mean, or is left out as a jump; four in a row start it anew (R111). -/
def takeDelay (l jumps : List Int) (d : Int) : List Int × List Int × Bool :=
  let n := l.length
  let far := n != 0 && decide (64 * n < (d * n - sumInt l).natAbs)
  if !far then ((d :: l).take 8, [], false)
  else if jumps.length = 3 then (d :: jumps, [], true)
  else (l, d :: jumps, true)

/-- Counts a jump. -/
def noteJump (s : State) (n : Nat) (j : Bool) : State := if j then bump s 0x70 n 4 else s

/-- A DELAY_RESP copy measures its own line, or the path through A1 or B1 (R111, R141). -/
def measure (s : State) (f : RxFrame) (req : Nat) : State :=
  let n := hdrSrc f
  let t1 := sentStamp s f.port ((req : Int) + shiftDown s f.port).toNat
  let t4 := rxStamp s f.port f.capture
  let d : Int := 4 * ((t4 : Int) - t1) - be f.payload 0 4
  let first := !s.net.answered
  let s1 := withNet s (fun t => { t with answered := true })
  let s2 := setNode s1 n (fun x => { x with
    state := if x.state = .absent || x.state = .lost then .syncing else x.state
    measured := if first then x.measured + 1 else x.measured, unanswered := 0 })
  if f.port = 1 then setNode s2 n (fun x => { x with altA := (d :: x.altA).take 8, cutA := false })
  else if f.port = 3 then setNode s2 n (fun x => { x with altB := (d :: x.altB).take 8, cutB := false })
  else if f.port = 0 then
    let x := nodeOf s n
    let r := takeDelay x.delayA x.jumpsA d
    noteJump (setNode s2 n (fun x => { x with delayA := r.1, jumpsA := r.2.1 })) n r.2.2
  else
    let x := nodeOf s n
    let r := takeDelay x.delayB x.jumpsB d
    noteJump (setNode s2 n (fun x => { x with delayB := r.1, jumpsB := r.2.1 })) n r.2.2

/-- Module 1 measures module 2 as node 2: D₁₂ is its mean delay on each line (R400). -/
def noteD12 (s : State) : State :=
  if nodeId s = 1 then { s with pair := { s.pair with d12 := [meanQ (nodeOf s 2).delayA 0, meanQ (nodeOf s 2).delayB 0] } } else s

/-- DELAY_RESP_RX (R111): from the node measured in this cycle, in the last four mini-slots. -/
def execDelayRespRx (clk : Nat) (f : RxFrame) (s : State) : Host.Outcome State Fault Refusal :=
  let s1 := begin clk s
  let r := received s1 f
  .next (if !r.2 then r.1
    else if hdrType f != 6 || hdrSrc f != s1.net.measuring then countNode r.1 (hdrSrc f) 9
    else
      let c := checkDynamic r.1 f
      match c.2, s1.net.reqStart with
      | true, some req =>
        noteD12 (measure (withNet c.1 (fun t => { t with dynCopies := t.dynCopies ++ [(hdrSlot f, f.port / 2, (frameStart s1 f).toNat, [])] })) f req)
      | _, _ => c.1)

/-! ### The grant (R119) -/

/-- Standing allotments, by node. -/
def standing (objs : List (Nat × Nat)) : List (Nat × Nat) :=
  sortBy (fun a b => decide (a.1 < b.1))
    (((List.range 32).map (fun i => (obField objs 0x70 0 5 (4 * i) 1, obField objs 0x70 0 5 (4 * i + 1) 1))).filter (fun e => e.1 != 0))

/-- Entries one after the other from a mini-slot. -/
def place : Nat → List (Nat × Nat) → List GrantEntry
  | _, [] => []
  | k, (n, l) :: r => { node := n, length := l, start := k } :: place (k + l) r

/-- The build in progress: entries, next mini-slot, first node not served, last node granted. -/
structure Build where
  entries : List GrantEntry
  next : Nat
  unserved : Option Nat := none
  last : Option Nat := none

/-- One pending request posted before the commit point (0.1 ns): the whole of it, where it fits before the last four mini-slots and in the
frame's 64 entries, or none of it. -/
def serve (m commit : Nat) (s : State) (b : Build) (n : Nat) : State × Build :=
  match (nodeOf s n).request with
  | none => (s, b)
  | some (toggle, size) =>
    if commit ≤ (nodeOf s n).requestAt then (s, b)
    else if b.next + size + 4 ≤ m && decide (b.entries.length < 63) then
      (setNode s n (fun x => { x with request := none, grantedToggle := toggle }),
        { b with entries := b.entries ++ [{ node := n, length := size, start := b.next }], next := b.next + size, last := some n })
    else (bump s 0x70 n 0x0D, { b with unserved := some (b.unserved.getD n) })

def serveAll (m commit : Nat) : List Nat → State × Build → State × Build
  | [], r => r
  | n :: ns, r => serveAll m commit ns (serve m commit r.1 r.2 n)

/-- The next node to measure: cut nodes of an open ring first, then the present nodes in turn (R111, R141). -/
def nextMeasured (s : State) : Nat × Bool :=
  let p := presentNodes s.objs
  match s.net.cutQueue.filter p.contains with
  | n :: _ => (n, true)
  | [] =>
    match p.filter (fun n => decide (s.net.lastMeasured < n)) with
    | n :: _ => (n, false)
    | [] => (p.headD 0, false)

/-- GRANT_BUILD (R119): the grant of the next cycle. -/
def buildGrant (s : State) : State :=
  let m := miniSlots (tickNs s) (staticUp s)
  let base := place 0 (standing s.objs)
  let nodes := List.range 255
  let order := nodes.filter (fun n => decide (s.net.pointer ≤ n)) ++ nodes.filter (fun n => decide (n < s.net.pointer))
  let commit := tickStart s * 10 + 4480 * staticDown s - 1600
  let r := serveAll m commit order (s, { entries := base, next := sumNat (base.map (·.length)) })
  let nm := nextMeasured s
  let entries := r.2.entries ++ (if nm.1 = 0 then [] else [{ node := nm.1, length := 4, start := m - 4 }])
  let pointer := match r.2.unserved with
    | some n => n
    | none => match r.2.last with
      | some n => n + 1
      | none => s.net.pointer
  withNet r.1 (fun t => { t with grantNext := entries, measureNext := nm.1, pointer := pointer
                                 lastMeasured := if nm.2 then t.lastMeasured else nm.1, cutQueue := t.cutQueue.filter (fun n => n != nm.1) })

/-- GRANT payload (Table 5-10). -/
def grantPayload (s : State) : Bytes :=
  beBytes 2 ((s.herd.tick + 1) % 65536) ++ beBytes 1 s.net.grantNext.length ++ beBytes 1 0 ++
    joinBytes (s.net.grantNext.map (fun e => beBytes 1 e.node ++ beBytes 1 e.length ++ beBytes 2 e.start))

/-! ### Frames the module sends (R110, R117, R122, R124 to R126, R129, R317) -/

/-- A frame on the wire (Table 5-1), its FCS in the order of IEEE 802.3. [PRESUMED, log 143] -/
def wireFrame (s : State) (port start : Nat) (hdr payload : Bytes) : Output :=
  let dst := beBytes 6 0x03005A540000
  let src := beBytes 6 (0x02005A540000 + nodeId s)
  .frame port start dst src 0x88B5 hdr payload (leBytes 4 (crc32 (dst ++ src ++ beBytes 2 0x88B5 ++ hdr ++ payload)))

/-- A frame leaves by the given ports, at its action point in 0.1 ns. -/
def sendBy (ports : List Nat) (s : State) (action : Nat) (hdr payload : Bytes) : State :=
  ports.foldl (fun s p => emit s (wireFrame s p ((action : Int) + shiftDown s p).toNat hdr payload)) s

/-- A frame of the tick in progress leaves by the ports of the mode. -/
def sendFrame (s : State) (action : Nat) (hdr payload : Bytes) : State := sendBy (sendPorts s) s action hdr payload

/-- Safety command data (Table 15-5), both halves as last written, for the tick of the frame. [DEDUCED, log 78] -/
def safetyCommand (s : State) (tick : Nat) : Bytes :=
  let half := fun (c : Channel2) => joinBytes (c.command.map (beBytes 1))
  let c := half s.safety.chamois
  half s.safety.processor ++ c ++
    beBytes 4 (crcMsb 32 0x741B8CD7 0xFFFFFFFF (beBytes 4 s.safety.connectionId ++ beBytes 4 (tick % 2 ^ 32) ++ c) ^^^ 0xFFFFFFFF)

/-- The output of a command slot at its commit point: the one with the latest sample time, and of two with one sample time the one placed
later (R27). [DESIGN CHOICE, log 138] -/
def newestOutput : List WaitingOutput → Option WaitingOutput
  | [] => none
  | w :: r =>
    match newestOutput r with
    | none => some w
    | some v => if w.sampleTime ≤ v.sampleTime then some v else some w

/-- What a downstream static slot carries: payload, LEN, AGE, NOT_READY, and the state with it taken. -/
def takeDown (s : State) (k tick : Nat) : State × Bytes × Nat × Nat × Bool :=
  let d := downOf s k
  if downBinding s.objs k = 0x9000 then
    if s.safety.processor.commandNew || s.safety.chamois.commandNew then
      let sent := fun (c : Channel2) => { c with commandNew := false }
      (setSafeCh (setSafeCh (setDown s k (fun d => { d with arrived := true, age := 0 })) false sent) true sent, safetyCommand s tick, 20, 0, false)
    else if d.arrived then
      (setDown s k (fun d => { d with age := min 255 (d.age + 1) }), safetyCommand s tick, 20, min 255 (d.age + 1), false)
    else (s, zeros 60, 0, 255, true)
  else match newestOutput d.waiting with
    | some w =>
      let s1 := if 1 < d.waiting.length then bumpN s 0x21 w.loop 0x5D (d.waiting.length - 1) else s
      (setDown s1 k (fun d => { d with payload := w.payload, len := 40, age := 0, arrived := true, waiting := [] }), w.payload, 40, 0, false)
    | none =>
      if d.arrived then
        let age := min 255 (d.age + 1)
        (setDown s k (fun d => { d with age := age }), d.payload, d.len, age, false)
      else (s, zeros 60, 0, 255, true)

/-- The bytes of a static payload with its safety trailer and its tag. -/
def sealPayload (s : State) (k tick seq : Nat) (hdr p : Bytes) : Bytes :=
  let tagged := bit (downFlags s.objs k) 0
  let room := if tagged then 52 else 60
  let body := if downKind s.objs k = 2 then
      let d := slice p 0 (room - 8) ++ beBytes 2 seq ++ beBytes 1 (nodeId s) ++ beBytes 1 0
      d ++ beBytes 4 (safeCrc s.safety.connectionId hdr d)
    else slice p 0 room
  if tagged then body ++ (((tagKey s (downNode s.objs k)).map (fun key => tagOf key tick hdr body)).getD (zeros 8)) else body

/-- A downstream static slot at its commit point for a tick (R122). -/
def sendStatic (s : State) (k tick : Nat) : State :=
  let action := tick * tickNs s * 10 + 4480 * k
  if !imageActive s then
    sendBy (sendPortsAt s tick) (setDown s k (fun d => { d with sent := some tick })) action (header s 1 1 0xFF tick 0 0 255) (zeros 60)
  else
    let r := takeDown s k tick
    let kind := downKind s.objs k
    let flags := b2n r.2.2.2.2 + (if bit (downFlags s.objs k) 0 then 2 else 0)
    let hdr := header s kind flags (downNode s.objs k) tick k r.2.2.1 r.2.2.2.1
    let seq := (downOf r.1 k).safeSeq
    let s1 := setDown r.1 k (fun d => { d with sent := some tick, safeSeq := if kind = 2 then (seq + 1) % 65536 else seq })
    sendBy (sendPortsAt s tick) s1 action hdr (sealPayload s k tick seq hdr r.2.1)

/-- Commit point of a downstream static slot in ns: of the tick in progress, and for slot 0 of the next tick (R110). -/
def staticCommit (s : State) (k : Nat) : Nat × Nat :=
  let tick := if k = 0 then s.herd.tick + 1 else s.herd.tick
  (tick, tick * tickNs s + 448 * k - commitLead (imageActive s && bit (downFlags s.objs k) 0))

/-- Downstream static slots in force. -/
def downInForce (s : State) : List Nat := if imageActive s then downSlots s.objs else [0]

/-- A STARTUP frame is due in the cycle (R129). -/
def startupDue (s : State) : Bool :=
  !imageActive s || s.net.net = .coldstart || s.net.net = .starting || s.net.rings.any (fun r => r.restoreAt.isSome) || s.herd.tick % 64 == 0

/-- SCHED_ID of the active image (Table 6-1). -/
def schedId (s : State) : Nat := if imageActive s then crc32 (obB s.objs 0x70 0 3 960 ++ obB s.objs 0x70 0 4 960) else 0

/-- STARTUP payload (Table 6-1). -/
def startupPayload (s : State) : Bytes :=
  let ring := fun (r : Nat) => nth ({} : RingState) s.net.rings r
  let restore := s.net.rings.filterMap (·.restoreAt)
  beBytes 4 (tickNs s) ++ beBytes 4 (tickCount s) ++ beBytes 8 (tickStart s) ++ beBytes 1 s.net.round ++
    beBytes 1 (2 * b2n (ring 0).isOpen + 4 * b2n (ring 1).isOpen + 8 * b2n (!restore.isEmpty)) ++ beBytes 1 (ov s 0x70 0 0x20) ++ beBytes 1 0 ++
    beBytes 4 (restore.headD 0 % 2 ^ 32) ++ beBytes 4 s.net.schedId ++ zeros 6

/-- L of a ring in 0.25 ns: the mean of its last eight loop delays. -/
def loopQ (r : RingState) : Int := if r.loop.isEmpty then 0 else roundDiv (sumInt r.loop * 2) (5 * r.loop.length)

/-- D_alt of a node on a line in 0.25 ns: measured through A1 or B1, or provisional (R141). -/
def altOf (s : State) (n line : Nat) : Int :=
  let x := nodeOf s n
  let l := if line = 0 then x.altA else x.altB
  if l.isEmpty then loopQ (nth {} s.net.rings line) - meanQ (if line = 0 then x.delayA else x.delayB) 0 else meanQ l 0

/-- A delay as DELAY_REQ carries it, or 0x8000_0000 where it is not measured (R135). -/
def delayField (known : Bool) (v : Int) : Bytes := if known then beBytes 4 (wrap 32 v) else beBytes 4 0x80000000

/-- DELAY_REQ payload for a port (Table 5-6, R141, R400). -/
def requestPayload (s : State) (n port : Nat) : Bytes :=
  let x := nodeOf s n
  let line := port / 2
  let l := if line = 0 then x.delayA else x.delayB
  let known := !l.isEmpty
  let a := alphaQ s (2 * line)
  let a1 := alphaQ s (2 * line + 1)
  let add := shiftQ s line
  let main := delayField known (meanQ l (-a) + add) ++ delayField known (meanQ l a + add)
  if ringMode s.objs then
    let alt := altOf s n line
    main ++ delayField known (alt - a1 + add) ++ delayField known (alt + a1 + add)
  else main

/-- Padding of a dynamic payload. -/
def padDyn (p : Bytes) : Bytes := p ++ zeros (34 - p.length)

/-- What waits next in the downstream dynamic segment, in the order of R117 and R129: its stage and payload length. [DEDUCED, log 81] -/
def nextDynamic (s : State) : Option (DynStage × Nat) :=
  let grant : List (DynStage × Nat) := [(.grant, max 34 (grantPayload s).length)]
  let req : List (DynStage × Nat) := if s.net.measuring = 0 then [] else [(.delayReq, 34)]
  let start : List (DynStage × Nat) := if startupDue s then [(.startup, 34)] else []
  let msg := fun (h : HostFrame) => max 34 (h.data.length + (if h.tagged then 8 else 0))
  let firm : List (DynStage × Nat) := (s.net.firmwareTx.take 1).map (fun h => (.firmware, msg h))
  let host : List (DynStage × Nat) := (s.net.hostTx.take 1).map (fun h => (.host, msg h))
  (match s.net.dynStage with
    | .grant => grant ++ req ++ start ++ firm ++ host
    | .delayReq => req ++ start ++ firm ++ host
    | .startup => start ++ firm ++ host
    | .firmware => firm ++ host
    | .host => host
    | .done => []).head?

/-- Records a STARTUP of the module's own in COLDSTART: its window opens (R130). -/
def openWindow (s : State) (action : Nat) : State :=
  if s.net.net = .coldstart && s.net.windowStart.isNone then withNet s (fun t => { t with windowStart := some action }) else s

/-- A MESSAGE frame of firmware or the host. -/
def sendMessage (s : State) (h : HostFrame) (host : Bool) (action slot : Nat) : State :=
  let hdr := header s 3 ((if host then 8 else 0) + (if h.tagged then 2 else 0)) h.dst s.herd.tick (32768 + slot) h.data.length 0
  let body := if h.tagged then h.data ++ (((tagKey s h.dst).map (fun key => tagOf key s.herd.tick hdr h.data)).getD (zeros 8)) else h.data
  let s1 := sendFrame s action hdr (padDyn body)
  if h.tsReq then
    (sendPorts s).foldl (fun s p => dueStamp s { port := p, frameId := h.frameId, time := sentStamp s p ((action : Int) + shiftDown s p).toNat }) s1
  else s1

/-- The next dynamic frame at its commit point; one that does not fit is held, with all behind it, for the next cycle (R117). -/
def sendDynamic (s : State) : State :=
  let m := miniSlots (tickNs s) (staticDown s)
  let slot := s.net.dynNext
  let action := tickStart s * 10 + 4480 * staticDown s + 1024 * slot
  match nextDynamic s with
  | none => s
  | some (stage, len) =>
    if m < slot + dynSize len then bump (withNet s (fun t => { t with dynStage := .done })) 0x70 0 0x0F
    else
      let go := fun (after : DynStage) (s : State) => withNet s (fun t => { t with dynNext := slot + dynSize len, dynStage := after })
      let dynHdr := fun (type dst n : Nat) => header s type 0 dst s.herd.tick (32768 + slot) n 0
      match stage with
      | .grant => go .delayReq (sendFrame s action (dynHdr 4 0xFF (grantPayload s).length) (padDyn (grantPayload s)))
      | .delayReq =>
        let n := s.net.measuring
        let s1 := (sendPorts s).foldl (fun s p =>
          let body := requestPayload s n p
          emit s (wireFrame s p ((action : Int) + shiftDown s p).toNat (dynHdr 5 n body.length) (padDyn body))) s
        go .startup (withNet s1 (fun t => { t with reqStart := some action }))
      | .startup => go .firmware (openWindow (sendFrame s action (dynHdr 7 0xFF 28) (startupPayload s)) action)
      | .firmware =>
        match s.net.firmwareTx with
        | [] => s
        | h :: rest => go .firmware (sendMessage (withNet s (fun t => { t with firmwareTx := rest })) h false action slot)
      | .host =>
        match s.net.hostTx with
        | [] => s
        | h :: rest => go .host (sendMessage (withNet s (fun t => { t with hostTx := rest })) h true action slot)
      | .done => s

/-- Commit point of the next dynamic frame in 0.1 ns. [DEDUCED, log 81] -/
def dynamicCommit (s : State) : Nat :=
  let tagged := match nextDynamic s with
    | some (.host, _) => s.net.hostTx.head?.any (·.tagged)
    | _ => false
  tickStart s * 10 + 4480 * staticDown s + 1024 * s.net.dynNext - 10 * commitLead tagged

/-- DOWNSTREAM_COMMIT_POINT (R110, R117, R119, R122): of a static slot, or of the next dynamic frame. -/
def commitPoint (s : State) (dynamic : Bool) (slot : Nat) : State :=
  if !netLeads s then s
  else if dynamic then
    if s.net.dynStage != .done && decide (dynamicCommit s ≤ now s * 10) then
      sendDynamic (if s.net.dynStage = .grant then buildGrant s else s)
    else s
  else
    let c := staticCommit s slot
    if (downInForce s).contains slot && (downOf s slot).sent != some c.1 && decide (c.2 ≤ now s) then sendStatic s slot c.1 else s

/-- DOWNSTREAM_COMMIT_POINT. -/
def execDownstreamCommitPoint (clk : Nat) (dynamic : Bool) (slot : Nat) (s : State) : Host.Outcome State Fault Refusal :=
  .next (commitPoint (begin clk s) dynamic slot)

end Sys2Proof.Machine
end

