-- ==== Sys2Proof/Machine/TahixaStart.lean ====
section
/-! DEFINITION. Tahixa start-up, node states, rings and links, and what a tick start does to the network
(06_tahixa_startup_and_redundancy.md R128 to R145). -/

namespace Sys2Proof.Machine

/-- Line loss of any kind is remembered (R137). -/
def lineLost (s : State) : State := setOb s 0x70 0 0x33 1

/-! ### Start-up (R128 to R133) -/

/-- STARTING leaves to RUNNING when every present node is INTEGRATED, or no image is active (Table 6-2). -/
def settleStart (s : State) : State :=
  if s.net.net = .starting && (!imageActive s || (presentNodes s.objs).all (fun n => (nodeOf s n).state = .integrated)) then
    withNet s (fun t => { t with net := .running })
  else s

/-- The module follows the cycle of a leader. -/
def followLeader (s : State) (src : Nat) : State :=
  withNet s (fun t => { t with net := .follow, leader := src, windowStart := none, backoffEnd := none, dynStage := .done })

/-- A STARTUP of the other module (Table 6-2, R131). -/
def moduleStartup (s : State) (src round : Nat) (start : Int) : State :=
  match s.net.net with
  | .listen => followLeader s src
  | .coldstart =>
    if !s.net.windowStart.any (fun w => decide ((w : Int) ≤ start) && decide (start < w + tickNs s * 10)) then s
    else if round = 0 && s.net.round = 0 then
      bump (withNet s (fun t => { t with
        net := .backoff, windowStart := none, dynStage := .done, backoffEnd := some (start.toNat + tickNs s * 10 + 3 * nodeId s * 1024) })) 0x70 0 0x24
    else if src < nodeId s then followLeader s src
    else s
  | .backoff => if src < nodeId s then followLeader s src else s
  | _ => if pairOn s.objs && s.pair.role != .holder then followLeader s src else s

/-- Node 2, or 1 for module 2, is the partner of a pair; before an image is active the module does not know whether it has one (R128).
[DEDUCED, log 144] -/
def partner (s : State) : Bool := !imageActive s || pairOn s.objs

/-- A second STARTUP copy (R137), or a second one on the line of the first. -/
def secondStartup (s : State) (f : RxFrame) (c : StartupCopy) : State :=
  let line := f.port / 2
  if c.line = line then countNode s (hdrSrc f) 9
  else
    let s1 := bumpAt s 0x70 0 0x30 (if line = 0 && c.start = frameStart s f then 1 else line)
    if c.data == slice f.payload 0 (hdrLen f) then s1 else bump s1 0x70 0 0x32

/-- STARTUP_RX (R128): from the partner module or the cold-start drive. -/
def firstStartup (s0 : State) (f : RxFrame) : State :=
  let src := hdrSrc f
  let s := withNet s0 (fun t => { t with
    startup := some { header := f.header, line := f.port / 2, start := frameStart s0 f, data := slice f.payload 0 (hdrLen f) } })
  let provisional := bit (be f.payload 17 1) 0
  if src = otherId s && !provisional && partner s then moduleStartup s src (be f.payload 16 1) (frameStart s f)
  else if src = ov s 0x70 0 0x21 && src != 0 && provisional then
    (if s.net.net = .listen then withNet s (fun t => { t with provisional := true }) else s)
  else countNode s src 9

/-- A frame at the row for STARTUP frames: its type, tag and copies are judged first (R126, R128, R137). -/
def startupRx (s : State) (f : RxFrame) : State :=
  if hdrType f != 7 then countNode s (hdrSrc f) 9
  else if hdrSrc f = nodeId s then s
  else if bit (hdrFlags f) 1 && !tagOk s f then countNode s (hdrSrc f) 0x0A
  else
    match s.net.startup.filter (fun c => c.header = f.header && decide ((frameStart s f - c.start).natAbs < tickNs s * 10)) with
    | some c => secondStartup s f c
    | none => firstStartup s f

/-- STARTUP_RX. -/
def execStartupRx (clk : Nat) (f : RxFrame) (s : State) : Host.Outcome State Fault Refusal :=
  let r := received (begin clk s) f
  .next (if r.2 then startupRx r.1 f else r.1)

/-- LISTEN leaves to COLDSTART. -/
def coldStart' (s : State) (round : Nat) : State :=
  withNet s (fun t => { t with net := .coldstart, round := round, windowStart := none, backoffEnd := none, provisional := false })

/-- LISTEN_TIMEOUT (R130): eight cycles without a STARTUP of a module-led cycle. -/
def execListenTimeout (clk : Nat) (s : State) : Host.Outcome State Fault Refusal :=
  let s1 := begin clk s
  .next (if s1.net.net = .listen && decide (8 ≤ s1.net.listenCycles) then coldStart' s1 0 else s1)

/-- START_WINDOW_CLOSE (R130): no conflict; the module leads. -/
def execStartWindowClose (clk : Nat) (s : State) : Host.Outcome State Fault Refusal :=
  let s1 := begin clk s
  .next (if s1.net.net = .coldstart && s1.net.windowStart.any (fun w => decide (w + tickNs s1 * 10 ≤ now s1 * 10)) then
      settleStart (withNet s1 (fun t => { t with net := .starting, leader := nodeId s1, windowStart := none }))
    else s1)

/-- BACKOFF_END (R131): the STARTUP of ROUND 1 leaves at the end of the back-off. -/
def execBackoffEnd (clk : Nat) (s : State) : Host.Outcome State Fault Refusal :=
  let s1 := begin clk s
  .next (match s1.net.net, s1.net.backoffEnd with
    | .backoff, some e =>
      if e ≤ now s1 * 10 then
        let s2 := withNet (coldStart' s1 1) (fun t => { t with windowStart := some e })
        sendFrame s2 e (header s2 7 0 0xFF s2.herd.tick 32768 28 0) (startupPayload s2)
      else s1
    | _, _ => s1)

/-- A cycle restart (R133): every present node is ABSENT again and the leader enters STARTING. -/
def restartCycle (s : State) : State :=
  let s1 := bump s 0x70 0 0x25
  withNet s1 (fun t => { t with
    nodes := t.nodes.map (fun n => (n.1, { n.2 with state := .absent, measured := 0, cleanTicks := 0, silentTicks := 0, unanswered := 0 }))
    net := if t.net = .starting || t.net = .running then .starting else t.net
    schedId := schedId s, grantNow := [], grantNext := [], measuring := 0, measureNext := 0 })

/-- Image activation: slots start anew under the image, and a changed cycle or schedule restarts the cycle (R121 to R125, R133). -/
def netActivate (s : State) : State :=
  let s0 := withNet s (fun t => { t with up := [], down := t.down.map (fun d => (d.1, { ({} : DownSlot) with safeSeq := d.2.safeSeq, sent := d.2.sent })) })
  let old := fun (c : Channel2) => { c with commandNew := false }
  let s1 := setSafeCh (setSafeCh s0 false old) true old
  let ns := otick s.objs
  let s2 := if s.net.cycleNs != ns || s.net.schedId != schedId s then restartCycle (setCycle s1 ns) else s1
  settleStart s2

/-! ### Nodes (R114, R134) -/

/-- Upstream static slots of a node. -/
def slotsOf (s : State) (n : Nat) : List Nat := if imageActive s then (upSlots s.objs).filter (fun k => upNode s.objs k = n) else []

/-- NODE_INTEGRATED (R134): measured twice, then 16 clean ticks where it has upstream static slots. -/
def execNodeIntegrated (clk node : Nat) (s : State) : Host.Outcome State Fault Refusal :=
  let s1 := begin clk s
  let x := nodeOf s1 node
  .next (if nodePresent s1.objs node && x.state = .syncing && decide (2 ≤ x.measured) && ((slotsOf s1 node).isEmpty || decide (16 ≤ x.cleanTicks)) then
      settleStart (bump (setNode s1 node (fun x => { x with state := .integrated, silentTicks := 0 })) 0x70 node 0x11)
    else s1)

/-- NODE_LOST (R134): silent for `tahixa.node_loss_ticks` ticks, or without an upstream slot for two measurements. -/
def execNodeLost (clk node : Nat) (s : State) : Host.Outcome State Fault Refusal :=
  let s1 := begin clk s
  let x := nodeOf s1 node
  let due := if (slotsOf s1 node).isEmpty then decide (2 ≤ x.unanswered) else decide (ov s1 0x70 0 0x26 ≤ x.silentTicks)
  .next (if nodePresent s1.objs node && x.state = .integrated && due then
      log (bump (setNode s1 node (fun x => { x with state := .lost, measured := 0, cleanTicks := 0 })) 0x70 node 0x12) .event 0x0012 node 0
    else s1)

/-- DRIFT_WARN (R114): the count of outer cycles has reached 16. -/
def execDriftWarn (clk node : Nat) (s : State) : Host.Outcome State Fault Refusal :=
  let s1 := begin clk s
  .next (if (nodeOf s1 node).driftDue then
      log (setOb (setNode s1 node (fun x => { x with driftDue := false })) 0x70 node 7 1) .event 0x0011 node 0
    else s1)

/-- One node at the end of a tick: clean and silent ticks, the answer to its measurement, and its inner cycle. -/
def nodeTick (s : State) (n : Nat) : State :=
  let slots := slotsOf s n
  let got := slots.map (fun k => (upOf s k).copyA.isSome || (upOf s k).copyB.isSome)
  setNode s n (fun x => { x with
    cleanTicks := if decide (2 ≤ x.measured) && !(x.measured = 2 && s.net.measuring = n && s.net.answered) && got.all id then min 16 (x.cleanTicks + 1) else 0
    silentTicks := if got.any id then 0 else min 255 (x.silentTicks + 1)
    unanswered := if s.net.measuring = n && s.net.reqStart.isSome && !s.net.answered then x.unanswered + 1 else x.unanswered
    outerRun := if x.sawFrame && !x.sawOuter then 0 else x.outerRun
    sawFrame := false, sawOuter := false })

/-- A slot accepted on one line only, where the mode has two (R137). -/
def lineOnly (s : State) (k : Nat) : State :=
  match (upOf s k).copyA.isSome, (upOf s k).copyB.isSome with
  | true, false => lineLost (bumpAt s 0x70 0 0x31 0)
  | false, true => lineLost (bumpAt s 0x70 0 0x31 1)
  | _, _ => s

/-- The end of a tick in the network. -/
def netTickEnd (s : State) : State :=
  let s1 := if netRuns s then (presentNodes s.objs).foldl nodeTick s else s
  if netRuns s && dualLine s.objs && imageActive s then (upSlots s.objs).foldl lineOnly s1 else s1

/-- The start of a tick in the network: a new cycle, the grant of the cycle before in force, rings found open now open (R119, R139). -/
def netTickStart (s : State) : State :=
  let breaks := (s.net.rings.filter (·.opening)).length
  let s1 := if breaks = 0 then s else lineLost (bumpN s 0x70 0 0x29 breaks)
  let s2 := withNet s1 (fun t => { t with
    up := t.up.map (fun u => (u.1, { u.2 with copyA := none, copyB := none, posted := false, closed := false, mismatch := false }))
    grantNow := t.grantNext, grantNext := [], measuring := t.measureNext, measureNext := 0, reqStart := none, answered := false
    dynCopies := [], dynNext := 0, dynStage := .grant
    listenCycles := if t.net = .listen then min 8 (t.listenCycles + 1) else t.listenCycles
    rings := t.rings.map (fun r => { r with isOpen := r.isOpen || r.opening, opening := false, closureSeen := false }) })
  settleStart (if s2.net.net = .listen && s2.net.provisional then coldStart' s2 0 else s2)

/-! ### Rings and links (R139, R141, R142, R145) -/

/-- A node with upstream slots was heard on a line in this tick. -/
def heardOn (s : State) (line n : Nat) : Bool := (slotsOf s n).any (fun k => (copyOf (upOf s k) line).isSome)

/-- A node is cut off on a line: its slots stayed empty on it in this tick, or it has none and lies farther than every node heard (R141).
[DEDUCED, log 145] -/
def isCut (s : State) (line n : Nat) : Bool :=
  let d := fun (n : Nat) => meanQ (if line = 0 then (nodeOf s n).delayA else (nodeOf s n).delayB) 0
  if (slotsOf s n).isEmpty then (presentNodes s.objs).all (fun m => !heardOn s line m || decide (d m < d n)) else !heardOn s line n

/-- The nodes of a line that are cut off: they are measured first, in ascending order (R141). -/
def cutNodes (s : State) (line : Nat) : State :=
  let cut := (presentNodes s.objs).filter (isCut s line)
  withNet (cut.foldl (fun s n => setNode s n (fun x => if line = 0 then { x with cutA := true, altA := [] } else { x with cutB := true, altB := [] })) s)
    (fun t => { t with cutQueue := (List.range 255).filter (fun n => t.cutQueue.contains n || cut.contains n) })

/-- One ring judged at the downstream NIT: open when its closure copy was not detected in this tick (R139). -/
def judgeRing (s : State) (r : Nat) : State :=
  let x := nth {} s.net.rings r
  if ringOpen s r || x.opening || x.closureSeen then s
  else cutNodes (withNet s (fun t => { t with rings := upd t.rings r (fun x => { x with opening := true }) })) r

/-- DOWNSTREAM_NIT_START (R139). -/
def execDownstreamNitStart (clk : Nat) (s : State) : Host.Outcome State Fault Refusal :=
  let s1 := begin clk s
  let nit := tickStart s1 * 10 + 4480 * staticDown s1 + 1024 * miniSlots (tickNs s1) (staticDown s1)
  .next (if netLeads s1 && ringMode s1.objs && (downOf s1 0).sent.any (fun k => decide (s1.herd.tick ≤ k)) && decide (nit ≤ now s1 * 10) then
      (if ov s1 0x70 0 0x20 = 3 then [0, 1] else [0]).foldl judgeRing s1
    else s1)

/-- A write to `tahixa.ring_restore` (RING_RESTORE, R142): an open ring is restored 64 ticks later. -/
def ringRestore (s : State) (v : Nat) : State :=
  [0, 1].foldl (fun (s : State) r =>
    if bit v r && ringOpen s r then withNet s (fun t => { t with rings := upd t.rings r (fun x => { x with restoreAt := some (s.herd.tick + 64) }) })
    else s) s

/-- RING_RESTORE_AT (R142). -/
def execRingRestoreAt (clk ring : Nat) (s : State) : Host.Outcome State Fault Refusal :=
  let s1 := begin clk s
  .next (if (nth {} s1.net.rings ring).restoreAt.any (fun k => decide (k ≤ s1.herd.tick)) then
      withNet s1 (fun t => { t with
        rings := upd t.rings ring (fun x => { x with isOpen := false, restoreAt := none })
        nodes := t.nodes.map (fun n => (n.1, if ring = 0 then { n.2 with cutA := false } else { n.2 with cutB := false })) })
    else s1)

/-- A port that a redundant mode uses. -/
def redundantPort (s : State) (p : Nat) : Bool :=
  let red := ov s 0x70 0 0x20
  (p = 0 && red != 0) || (p = 1 && decide (2 ≤ red)) || (p = 2 && red % 2 = 1) || (p = 3 && red = 3)

/-- LINK_SYNC_LOSS (R145); the pair port is port 4. [DEDUCED, log 136] -/
def execLinkSyncLoss (clk port : Nat) (s : State) : Host.Outcome State Fault Refusal :=
  let s1 := begin clk s
  .next (if s1.net.linkUp.getLsbD port then
      let s2 := bumpAt (withNet s1 (fun t => { t with linkUp := t.linkUp &&& ~~~(1#5 <<< port) })) 0x70 0 0x2D port
      let s3 := if port = 4 then
          (let s4 := { s2 with pair := { s2.pair with link := false } }
           if timeSource s4 = 3 then loseSource s4 else s4)
        else s2
      if redundantPort s3 port then lineLost s3 else s3
    else s1)

/-- LINK_SYNCHRONISED (R145). -/
def execLinkSynchronised (clk port : Nat) (s : State) : Host.Outcome State Fault Refusal :=
  let s1 := begin clk s
  .next (if domainOn s1 9 && decide (port < 5) then
      let s2 := withNet s1 (fun t => { t with linkUp := t.linkUp ||| (1#5 <<< port) })
      if port = 4 then { s2 with pair := { s2.pair with link := true } } else s2
    else s1)

/-! ### Host frames (R120) -/

/-- A record of `tahixa.dyn_tx` joins the host queue (DYN_TX); the queue has room. -/
def dynTx (s : State) (v : Bytes) : State :=
  let h : HostFrame := { dst := le v 0 1, tsReq := bit (le v 1 1) 0, tagged := bit (le v 1 1) 1, frameId := le v 2 2, data := slice v 8 (le v 4 2) }
  withNet s (fun t => { t with hostTx := t.hostTx ++ [h] })

/-- A record that is no host frame (Table 5-11): 16 frames queued is judged apart. -/
def dynTxOk (v : Bytes) : Bool :=
  let tagged := bit (le v 1 1) 1
  decide (le v 4 2 ≤ (if tagged then 1016 else 1024)) && !(tagged && le v 0 1 = 0xFF) && v.length == 8 + le v 4 2

/-- Value of `tahixa.dyn_rx` and the state with its entry removed (DYN_RX_READ). -/
def dynRxRead (s : State) : Bytes × State :=
  match s.net.hostRx with
  | [] => (zeros 16, s)
  | m :: rest =>
    (leBytes 1 m.src ++ leBytes 1 m.flags ++ zeros 2 ++ leBytes 2 m.data.length ++ zeros 2 ++ leBytes 8 m.rxTime ++ m.data,
      withNet s (fun t => { t with hostRx := rest }))

end Sys2Proof.Machine
end

