-- ==== Sys2Proof/Machine/Pair.lean ====
section
/-! DEFINITION. The redundant pair: token, take-over, mirroring and hand-over (19_redundant_pair.md). -/

namespace Sys2Proof.Machine

/-- The tick a 32-bit tick counter names, the one nearest the present (R10). -/
def widenTick (s : State) (v : Nat) : Nat := ((s.herd.tick : Int) + sdiff 32 v (tickCount s)).toNat

/-- Ticks since the last complete mirror set, saturating (R406); 0 where the set's tick lies ahead of the module's own. [DESIGN CHOICE, log
141] -/
def mirrorAge (s : State) : Nat := match s.pair.mirrorTick with | none => 255 | some t => min 255 (s.herd.tick - t)

/-- The other module's image is the one active here, activated at the same tick start (R408). -/
def imageEqual (s : State) : Bool := imageActive s && s.pair.peerImage == some (s.image.digest, s.image.activation)

/-- A module that does not hold the token may be STANDBY (R408). -/
def standbyOk (s : State) : Bool :=
  decide (mirrorAge s ≤ ov s 0xC0 0 4) && imageEqual s && s.mode.mode != .boot && s.mode.mode != .fault && !s.pair.peerSilent

/-- A change of `pair.role` (bit 8 of INT_STATUS); herd time takes the source that goes with the role (R404, R410). -/
def setRole (s : State) (r : PairRole) : State :=
  if s.pair.role = r then s
  else
    let s1 := withPair s (fun p => { p with role := r, standbySince := if r = .standby then some (now s) else none })
    retime s (setInt s1 8)

/-- STANDBY or NOT_READY, for a module that does not hold (R402, R408). -/
def judgeRole (s : State) : State :=
  if pairOn s.objs && s.pair.role != .holder && imageActive s then setRole s (if standbyOk s then .standby else .notReady) else s

/-- The lease in ns. -/
def leaseNs (s : State) : Nat := ov s 0xC0 0 2 * 1000000

/-- `pair.gap_ticks` (R404). -/
def gapTicks (s : State) : Nat := ceilDiv (leaseNs s) (tickNs s) + 1

/-- Token record as an object value (Table 19-1). [DEDUCED, log 110] -/
def tokenBytes (t : Token) : Bytes := leBytes 4 t.epoch ++ leBytes 1 t.holder ++ zeros 3 ++ leBytes 8 t.leaseEnd

/-- The token record as the payload of a Tahixa frame (R5). -/
def tokenPayload (t : Token) : Bytes := beBytes 4 t.epoch ++ beBytes 1 t.holder ++ zeros 3 ++ beBytes 8 t.leaseEnd

/-- Sends over the pair port, where it works (R18). -/
def pairEmit (s : State) (o : Output) : State := if pairDown s then s else emit s o

/-- A message over the pair port: ignored where the port is down, and otherwise counted at port 4 (R18, R145). [DESIGN CHOICE, log 146] -/
def overPair (s : State) (f : State → State) : State := if !pairOn s.objs || pairDown s then s else f (countFrame s 4)

/-- Image activation: in a pair, EPOCH is 0 and the designated primary holds, where the module had no role before (R401, R410). [DESIGN
CHOICE, log 105] -/
def pairActivate (s : State) : State :=
  if !pairOn s.objs then setRole (withPair s (fun p => { p with token := {}, handOver := none })) .none
  else
    let holds := s.pair.role = .holder || (s.pair.role = .none && nodeId s = ov s 0xC0 0 1)
    let holder := if holds then nodeId s else otherId s
    let s1 := withPair s (fun p => { p with
      token := { epoch := 0, holder := holder, leaseEnd := s.image.activation + leaseNs s }, latestEnd := s.image.activation + leaseNs s
      mirror := { tick := 0 }, acked := [], handOver := none })
    if holds then setRole s1 .holder else setRole s1 (if standbyOk s1 then .standby else .notReady)

/-! ### Renewal and expiry (R401, R402) -/

/-- The holder may renew (R402). -/
def mayRenew (s : State) : Bool :=
  s.mode.mode != .boot && s.mode.mode != .fault &&
    [(0, 0), (0, 17), (2, 0), (2, 1), (3, 0), (3, 1)].all (fun b => !isolated s b.1 b.2) &&
    (s.net.linkUp.getLsbD 0 || s.net.linkUp.getLsbD 2)

/-- TOKEN_RENEWAL (R401, R410): a renewal instant. The holder renews and sends its renewal; a standby counts one it has not seen. -/
def execTokenRenewal (clk : Nat) (s : State) : Host.Outcome State Fault Refusal :=
  let s1 := begin clk s
  let t := now s1 / 500000 * 500000
  .next (if !pairOn s1.objs || !imageActive s1 then s1
    else if s1.pair.role = .holder then
      if !mayRenew s1 || s1.pair.token.leaseEnd ≤ now s1 then s1
      else
        let fin := match s1.pair.handOver with
          | some h => if h.acked then h.instant else t + leaseNs s1
          | none => t + leaseNs s1
        let tok := { s1.pair.token with leaseEnd := fin }
        let s2 := withPair s1 (fun p => { p with token := tok, latestEnd := fin })
        let msg : HostFrame := { dst := otherId s1, tsReq := false, tagged := false, frameId := 0, data := tokenPayload tok }
        pairEmit { s2 with net := { s2.net with firmwareTx := s2.net.firmwareTx ++ [msg] } } (.token tok)
    else
      let s2 := withPair s1 (fun p => { p with renewalSeen := false })
      if s1.pair.renewalSeen || s1.pair.role != .standby then s2 else bump s2 0xC0 0 0x0C)

/-- TOKEN_MESSAGE_RX (R403): a renewal of the other module, over the pair port or a ring. -/
def execTokenMessageRx (clk : Nat) (token : Token) (s : State) : Host.Outcome State Fault Refusal :=
  let s1 := begin clk s
  .next (if !pairOn s1.objs || s1.pair.role = .holder || (pairDown s1 && [0, 1].all (fun b => blockDown s1 3 b 9)) then s1
    else withPair s1 (fun p => { p with
      token := if p.latestEnd < token.leaseEnd then token else p.token, latestEnd := max p.latestEnd token.leaseEnd, renewalSeen := true }))

/-- TOKEN_LEASE_EXPIRY (R402): the holder's lease has run out; it stops sending and becomes STANDBY or NOT_READY. -/
def execTokenLeaseExpiry (clk : Nat) (s : State) : Host.Outcome State Fault Refusal :=
  let s1 := begin clk s
  .next (if pairOn s1.objs && s1.pair.role = .holder && decide (s1.pair.token.leaseEnd ≤ tickStart s1) then
      setRole (withPair s1 (fun p => { p with handOver := none })) (if standbyOk s1 then .standby else .notReady)
    else s1)

/-! ### Take-over (R403, R404) -/

/-- Step 4 of R404 for one arm: its plans, its plan time advanced from the last mirrored tick, and its source. -/
def takeArm (ticks : Nat) (s : State) (a : Nat × Nat × Nat × ArmSource) : State :=
  let adv := freeRound (dRatio ((ticks * a.2.2.1 * tickNs s : Nat) : Int) 256)
  let plans := s.pair.mirror.plans.find? (fun p => p.1 = a.1)
  let s1 := { s with plan := { s.plan with arms := upd s.plan.arms a.1 (fun p => { p with
      theta := (a.2.1 + adv) % 2 ^ 64, rate := a.2.2.1
      following := (plans.map (·.2.1)).getD p.following, pending := (plans.map (·.2.2)).getD p.pending }) } }
  setArmMot s1 a.1 (fun m => { m with source := a.2.2.2, ramp := false, linear := none })

/-- Step 5 of R404 for one channel; without `stops`, the channel takes the mirrored setpoint only. -/
def takeChannel (stops : Bool) (t : Nat) (s : State) (c : Nat × Setpoint) : State :=
  let sp := c.2
  let moving := stops && (sp.source = 2 || sp.source = 3) && decide (c.1 < 72)
  let s1 := setChan s c.1 (fun k => { k with
    pos := sp.pos, vel := sp.vel, acc := sp.acc, velWord := sp.velWord
    motion := if moving then some (.stop false (chanLimits s.objs c.1) (stopProfile (chanLimits s.objs c.1) t (dOfInt sp.pos (-32), sp.vel, sp.acc))) else none })
  if moving && decide (c.1 < 64) then setArmMot s1 (c.1 / 8) (fun m => { m with source := .stopped }) else s1

/-- Steps 1 to 7 of R404 at an instant; a hand-over leaves out step 5. [DEDUCED, log 108] -/
def takeToken (s : State) (t : Nat) (stops : Bool) : State :=
  let m := s.pair.mirror
  let epoch := (s.pair.token.epoch + 1) % 2 ^ 32
  let fin := t + leaseNs s
  let s1 := withPair s (fun p => { p with
    token := { epoch := epoch, holder := nodeId s, leaseEnd := fin }, latestEnd := fin, lastTakeover := (epoch, t), handOver := none
    mirror := { tick := 0 }, d12 := m.d12.getD p.d12, acked := [], swap := false })
  let delay := fun (ns : List (Nat × NodeState)) (d : Nat × List Int × List Int) =>
    tput ns d.1 { tget ({} : NodeState) ns d.1 with delayA := d.2.1, delayB := d.2.2 }
  let s2 := { s1 with net := { s1.net with net := .running, leader := nodeId s1, nodes := m.delays.foldl delay s1.net.nodes } }
  let s3 := setRole { s2 with herd := { s2.herd with integral := (m.servo.map (·.integral)).getD s2.herd.integral } } .holder
  let ticks := s3.herd.tick - (s.pair.mirrorTick.getD s3.herd.tick)
  let s4 := m.arms.foldl (takeArm ticks) s3
  let s5 := m.setpoints.foldl (takeChannel stops t) s4
  let s6 := { s5 with piste := { s5.piste with
    leases := m.leases.getD s5.piste.leases, requests := m.requests.getD [], credits := m.credits.getD [], extensions := [], releases := []
    sets := m.sets.getD s5.piste.sets, nextSets := m.nextSets.getD s5.piste.nextSets, passTick := none } }
  let s7 := { s6 with
    field := { s6.field with encoders := (indexed s6.field.encoders).map (fun e =>
      if e.2.latchTick.isSome then e.2 else match m.latches.find? (fun l => l.1 = e.1) with
        | some l => { e.2 with latch := l.2.1, age := l.2.2 }
        | none => e.2) }
    solver := { s6.solver with slots := (indexed s6.solver.slots).map (fun g =>
      if s6.plan.resident && g.1 = s6.plan.slot then { g.2 with warm := none } else g.2) }
    plan := { s6.plan with phase := .idle, snapshot := none, committed := none } }
  m.holds.foldl (fun s h => withMode s (fun k => { k with arms := upd k.arms h.1 (fun a => { a with held := h.2 }) })) s7

/-- A standby takes the token at a tick start (R403). -/
def mayTake (s : State) : Bool :=
  let t := tickStart s
  pairOn s.objs && s.pair.role = .standby && decide (s.pair.latestEnd + tickNs s ≤ t) &&
    !s.pair.lastForeign.any (fun f => decide (s.pair.latestEnd ≤ f) && decide (f < t))

/-- TAKEOVER (R403, R404). -/
def execTakeover (clk : Nat) (s : State) : Host.Outcome State Fault Refusal :=
  let s1 := begin clk s
  .next (if s1.herd.running && mayTake s1 then
      error (bump (takeToken s1 (tickStart s1) true) 0xC0 0 0x0D) (errWord 2 3 2 0 false 1)
    else s1)

/-! ### Mirroring (R406 to R408) -/

/-- The standby makes the transition of the holder at the same tick start (R406); out of its own FAULT or BOOT it leads as R44 and R47 say. -/
def followMode (s : State) (m : Mode × Option Mode × Option Mode) : State :=
  let s1 := withMode s (fun k => { k with resume := m.2.2 })
  match m.2.1 with
  | some t =>
    if targetInForce s1 = some t || s1.mode.mode = t || s1.mode.mode = .fault || s1.mode.mode = .boot then s1 else acceptTarget s1 t 0
  | none => s1

/-- The standby starts its own check of the holder's image (R408). [DEDUCED, log 109] -/
def peerCheck (s : State) (img : Bytes) : State :=
  if s.image.commit.any (fun c => !c.peer) then s
  else { s with image := { s.image with commit := some { origin := none, checkOnly := false, peer := true, image := img, base := s.objs } } }

/-- MIRROR_SET_RX (R406 to R408): a set of the holder; its plan records are acknowledged. -/
def execMirrorSetRx (clk : Nat) (set : MirrorSet) (s : State) : Host.Outcome State Fault Refusal :=
  let s1 := begin clk s
  .next (overPair s1 (fun s1 =>
    if s1.pair.role = .holder then s1
    else
      let s2 := withPair s1 (fun p => { p with
        mirror := mirrorMerge p.mirror set, mirrorTick := if set.ends then some (widenTick s1 set.tick) else p.mirrorTick
        peerImage := (set.activation <|> p.peerImage) })
      let s3 := match set.image with | some b => peerCheck s2 b | none => s2
      let s4 := match set.mode with | some m => followMode s3 m | none => s3
      let s5 := match set.committed with
        | some (r :: rs) =>
          pairEmit { s4 with plan := { s4.plan with committed := some (s4.mode.mode, r :: rs), committedCode := r.result } } (.planAck r.seq)
        | _ => s4
      judgeRole s5))

/-- MIRROR_AGE_LIMIT (R408). -/
def execMirrorAgeLimit (clk : Nat) (s : State) : Host.Outcome State Fault Refusal :=
  let s1 := begin clk s
  .next (if pairOn s1.objs && decide (ov s1 0xC0 0 4 < mirrorAge s1) then judgeRole s1 else s1)

/-- PLAN_ACK_RX (R407). -/
def execPlanAckRx (clk seq : Nat) (s : State) : Host.Outcome State Fault Refusal :=
  let s1 := begin clk s
  .next (overPair s1 (fun s1 =>
    if s1.pair.role = .holder then withPair s1 (fun p => { p with acked := if p.acked.contains seq then p.acked else p.acked ++ [seq] }) else s1))

/-- A committed plan may take effect in a pair (R407). -/
def planAcked (s : State) (seq : Nat) : Bool :=
  !pairOn s.objs || s.pair.role != .holder || !s.pair.peerStandby || s.pair.acked.contains seq

/-! ### Safety status of the other module (R409) -/

/-- Stop state of a code of Table 15-1. -/
def stopOfCode (n : Nat) : StopState := match n with | 0 => .normal | 1 => .sls | 2 => .ss2 | 3 => .sos | 4 => .ss1 | _ => .sto

/-- PAIR_SAFETY_STATUS_RX (R409): the other module's stop states; one that fails its safety CRC is no status. -/
def execPairSafetyStatusRx (clk : Nat) (valid : Bool) (states : List Nat) (standby : Bool) (s : State) : Host.Outcome State Fault Refusal :=
  let s1 := begin clk s
  .next (overPair s1 (fun s1 =>
    if !valid then s1
    else judgeRole (withPair s1 (fun p => { p with
      peerStops := (List.range 8).map (fun a => stopOfCode (nth 5 states a)), peerRun := 0, peerSilent := false, peerStandby := standby }))))

/-- PEER_SILENT (R409): eight evaluations without a valid status. -/
def execPeerSilent (clk : Nat) (s : State) : Host.Outcome State Fault Refusal :=
  let s1 := begin clk s
  .next (if pairOn s1.objs && !s1.pair.peerSilent && decide (8 ≤ s1.pair.peerRun) then
      judgeRole (withPair s1 (fun p => { p with peerSilent := true, peerStandby := false }))
    else s1)

/-! ### Hand-over (R410) -/

/-- PAIR_REVERT_TIMER (R410 step 1): the designated primary has been STANDBY long enough. -/
def execPairRevertTimer (clk : Nat) (s : State) : Host.Outcome State Fault Refusal :=
  let s1 := begin clk s
  let wait := ov s1 0xC0 0 3 * 1000000000
  .next (if pairOn s1.objs && s1.pair.role = .standby && nodeId s1 = ov s1 0xC0 0 1 && wait != 0 && s1.pair.handOver.isNone &&
        s1.pair.standbySince.any (fun t => decide (t + wait ≤ now s1)) then pairEmit s1 (.handOver 0 0)
    else s1)

/-- The second period start after an instant (R410 step 2). -/
def secondPeriod (s : State) (t : Nat) : Nat :=
  let p := periodNs s.objs
  s.image.activation + ((t - s.image.activation) / p + 2) * p

/-- HANDOVER_REQUEST_RX (R410 steps 1 to 3): a message of the exchange: 0 the request, 1 the answer with H, 2 its acknowledgement, 3 the
holder's word to the standby that a swap is wanted. [DESIGN CHOICE, log 106] -/
def execHandoverRequestRx (clk kind instant : Nat) (s : State) : Host.Outcome State Fault Refusal :=
  let s1 := begin clk s
  let holder := s1.pair.role = .holder
  let standby := s1.pair.role = .standby
  .next (overPair s1 (fun s1 =>
    if kind = 0 && holder && !s1.pair.handOver.any (fun h => h.acked) then
      let h := secondPeriod s1 (now s1)
      pairEmit (withPair s1 (fun p => { p with handOver := some { instant := h } })) (.handOver 1 h)
    else if kind = 1 && standby then
      pairEmit (withPair s1 (fun p => { p with handOver := some { instant := instant, acked := true, requester := true } })) (.handOver 2 instant)
    else if kind = 2 && holder then
      withPair s1 (fun p => { p with handOver := p.handOver.map (fun h =>
        if h.instant = instant && decide (now s1 + 1000000 ≤ h.instant) then { h with acked := true } else h) })
    else if kind = 3 && standby then pairEmit s1 (.handOver 0 0)
    else s1))

/-- HANDOVER_ACK_TIMEOUT (R410): no acknowledgement 1 ms before H. -/
def execHandoverAckTimeout (clk : Nat) (s : State) : Host.Outcome State Fault Refusal :=
  let s1 := begin clk s
  .next (match s1.pair.handOver with
    | none => s1
    | some h =>
      if s1.pair.role = .holder && !h.acked && decide (h.instant ≤ now s1 + 1000000) then withPair s1 (fun p => { p with handOver := none, swap := false })
      else s1)

/-- HANDOVER_AT (R410 steps 5 and 6): at H the requester takes the token and the old holder becomes STANDBY. [DEDUCED, log 108] -/
def execHandoverAt (clk : Nat) (s : State) : Host.Outcome State Fault Refusal :=
  let s1 := begin clk s
  .next (match s1.pair.handOver with
    | none => s1
    | some h =>
      if !h.acked || tickStart s1 < h.instant || !pairOn s1.objs then s1
      else if h.requester then (if s1.pair.role = .standby then bump (takeToken s1 h.instant false) 0xC0 0 0x0E else s1)
      else if s1.pair.role = .holder then
        let s2 := withPair s1 (fun p => { p with
          handOver := none, swap := false, latestEnd := h.instant, mirrorTick := some s1.herd.tick, peerImage := some (s1.image.digest, s1.image.activation)
          token := { p.token with epoch := (p.token.epoch + 1) % 2 ^ 32, holder := otherId s1 } })
        let s2 := withNet s2 (fun t => { t with net := .follow, leader := otherId s1, dynStage := .done })
        bump (setRole s2 (if standbyOk s2 then .standby else .notReady)) 0xC0 0 0x0E
      else s1)

/-- A write of 1 to `pair.swap` on the holder (R410). [DESIGN CHOICE, log 106] -/
def pairSwap (s : State) : State :=
  if pairOn s.objs && s.pair.role = .holder then pairEmit (withPair s (fun p => { p with swap := true })) (.handOver 3 0) else s

end Sys2Proof.Machine
end

