-- ==== Sys2Proof/Machine/Records.lean ====
section
/-! DEFINITION. Write records of objects: their form, the judgement of R78, and what a record does when it takes effect
(03_zewen_interface.md R76 to R79; the object table of each chapter). -/

namespace Sys2Proof.Machine

/-! ### The form of records (R77) -/

/-- A length padded to a multiple of 4. -/
def padded (n : Nat) : Nat := (n + 3) / 4 * 4

/-- The bytes of one record (R77). -/
def recordForm (key type : Nat) (value : Bytes) : Bytes :=
  leBytes 4 (key + type * 2 ^ 24) ++ leBytes 2 value.length ++ zeros 2 ++ value ++ zeros (padded value.length - value.length)

/-- Records that fill the bytes exactly, with the offset of each; at most `fuel` of them. -/
def parseGo : Nat → Nat → Bytes → Option (List (Nat × WriteRecord))
  | 0, _, bs => if bs.isEmpty then some [] else none
  | fuel + 1, at_, bs =>
    if bs.isEmpty then some []
    else
      let n := le bs 4 2
      let size := 8 + padded n
      if bs.length < size then none
      else
        let r : WriteRecord := { key := le bs 0 4 % 2 ^ 24, type := le bs 0 4 / 2 ^ 24, value := slice bs 8 n }
        (parseGo fuel (at_ + size) (bs.drop size)).map (fun rs => (at_, r) :: rs)

/-- Records with their offsets in the bytes. -/
def parseRecords (bs : Bytes) : Option (List (Nat × WriteRecord)) := parseGo (bs.length / 8) 0 bs

/-- KEY_TYPE of a record. -/
def keyType (r : WriteRecord) : Nat := r.key + r.type * 2 ^ 24

/-! ### Views (R76) -/

def writable (r : ObjRow) : Bool := r.acc == .rw || r.acc == .wo || r.acc == .w1c || r.acc == .w1s

/-- Privileged-only for writes: class 0xD0 but `security.view_denied`, and everything that can be written. -/
def writeLimited (key : Nat) (r : ObjRow) : Bool := (key / 65536 == 0xD0 && key != 0xD00020) || writable r

/-- Privileged-only for reads: class 0xD0 but `security.view_denied`, and the members whose chapter marks them so. -/
def readLimited (key : Nat) (r : ObjRow) : Bool :=
  let c := key / 65536
  let i := key / 256 % 256
  let stores := r.acc == .rw || r.acc == .wo
  if c = 0xD0 then key != 0xD00020
  else if c = 0x31 || c = 0xB0 || c = 0xC0 then stores
  else if c = 0x10 then stores && (i = 4 || (8 ≤ i && i ≤ 0x0B))
  else if c = 0x60 then r.acc == .rw
  else c = 0x70 && 1 ≤ i && key % 256 = 1

/-- The session of a mailbox is privileged. -/
def sessionPriv (s : State) (m : Nat) : Bool := (mbx s m).state == .privileged

/-- Counts one access to a privileged-only item in the unprivileged view (VIEW_DENIED). [DEDUCED, log 18] -/
def countDenied (s : State) : State := { s with zewen := { s.zewen with viewDenied := satNat 32 (s.zewen.viewDenied + 1) } }

/-! ### Blocks that serve objects (R393) -/

/-- The block that owns an object, with its power domain; none for those the supervisor serves. [DEDUCED, log 103] -/
def ownerOf (key : Nat) : Option (Nat × Nat × Nat) :=
  let i := key / 256 % 256
  let m := key % 256
  match key / 65536 with
  | 0x10 =>
    if i = 0 then (if 0x20 ≤ m then some (2, 0, 7) else none)
    else if i = 4 || (8 ≤ i && i ≤ 0x0B) then some (2, 2, 7) else some (0, 17, 4)
  | 0x20 => if m = 4 || m = 5 then some (2, 0, 7) else none
  | 0x21 => if m < 0x40 then some (2, 0, 7) else some (2, 1, 7)
  | 0x31 => some (1, 4, 5)
  | 0x40 => some (2, 4, 7)
  | 0x50 => some (2, 3, 8)
  | 0x70 => some (3, 0, 10)
  | 0x80 => some (3, 5, 9)
  | 0x90 => if 0x10 ≤ i && i < 0x18 then some (4, 2, 15) else if 0x20 ≤ i && i < 0x28 then some (4, 1, 15) else some (4, 0, 15)
  | 0xA0 => if i = 1 then none else some (4, 3, 13)
  | 0xC0 => some (3, 2, 9)
  | _ => none

/-- The object's block is gated, isolated, or in a power domain that is off. The objects of PD7 and PD8 answer while these domains are off:
their members marked CONFIGURE can be written in that mode, in which Table 2-1 has both off. [DEDUCED, log 103] -/
def objectDown (s : State) (key : Nat) : Bool :=
  match ownerOf key with
  | none => false
  | some (r, b, d) => isolated s r b || gated s r b || (d != 7 && d != 8 && !domainOn s d)

/-! ### Ranges (R78 step 6, R457) -/

/-- Every f32 of some bytes is finite. -/
def f32sOk (bs : Bytes) : Bool := (List.range (bs.length / 4)).all (fun i => fFinite (BitVec.ofNat 32 (le bs (4 * i) 4)))

/-- Zone planes (Table 9-1). -/
def planesOk (v : Bytes) : Bool :=
  let n := le v 0 1
  (n == 0 || (4 ≤ n && n ≤ 16)) && f32sOk (v.drop 4) && (v.drop (4 + 16 * n)).all (· == 0)

/-- Loop dimensions (Table 11-5). -/
def dimsOk (v : Bytes) : Bool :=
  1 ≤ le v 0 1 && le v 0 1 ≤ 8 && 1 ≤ le v 1 1 && le v 1 1 ≤ 2 && le v 2 1 ≤ 4 && le v 3 1 ≤ 4 && le v 4 1 ≤ 2

/-- D of an inner and G of an outer loop (R240). -/
def rateOk (final : List (Nat × Nat)) (outer : Bool) (v : Nat) : Bool :=
  if outer then [2, 4, 8, 16].contains v else [1, 2, 4, 8, 16].contains v && decide (62500 ≤ v * otick final)

/-- A loop's phase (R240). -/
def phaseOk (final : List (Nat × Nat)) (ch : Nat) (outer : Bool) (v : Nat) : Bool :=
  let d := ob final 0x21 ch 0x42
  if outer then decide (v < d * ob final 0x21 ch 0x62) && v % d == ob final 0x21 ch 0x43 else decide (v < d)

/-- A signal entry (Table 17-1, R365). -/
def signalOk (v : Bytes) : Bool :=
  let key := le v 4 4
  match le v 0 1 with
  | 0 => le v 1 1 == 0 && key == 0
  | 1 => le v 1 1 == 0 && (match objRow (key % 2 ^ 24) with | some r => decide (r.ty ≤ 11) | none => false)
  | 2 => decide (le v 1 1 ≤ 15) && key == 0
  | _ => false

/-- The conditions of R154 that name `plan.tail_ms`: P fits behind the tail, and the zone margin covers the distance between
check points. -/
def tailFits (objs : List (Nat × Nat)) (tail : Nat) : Bool := decide (tail * 1000 + ob objs 0x30 0 0 ≤ ob objs 0x30 0 4 * 1000)

def marginFits (objs : List (Nat × Nat)) (a tail : Nat) : Bool :=
  let margin := fVal (obF objs 0x30 0 8)
  let speed := fVal (obF objs 0x30 (0x10 + a) 5)
  vCmp (vMul margin (vInt 4000000)) (vMul speed (vInt (ob objs 0x30 0 0))) != some .lt &&
    vCmp (vMul margin (vInt (1000 * ob objs 0x30 0 7))) (vMul speed (vInt tail)) != some .lt

/-- Ranges a chapter states in its own words. `final` is what the objects hold when the write takes effect. -/
def specialOk (s : State) (final : List (Nat × Nat)) (key : Nat) (v : Bytes) : Bool :=
  let i := key / 256 % 256
  let m := key % 256
  let n := leNat v
  match key / 65536 with
  | 0x10 => if m = 5 then decide (n < ob final 0x10 i 4) else true
  | 0x21 =>
    let outer := decide (0x60 ≤ m)
    if m % 32 = 1 then dimsOk v else if m % 32 = 2 then rateOk final outer n else phaseOk final i outer n
  | 0x30 =>
    20 ≤ n && n ≤ 2000 && (s.mode.mode == .configure || (tailFits s.objs n && marginFits s.objs (i - 0x10) n))
  | 0x31 =>
    let g := slotOf s (i - 0x10)
    if m = 0x10 then
      (match g.structure? with
       | some st => g.load == .resident && (deltaEntries v).all (deltaOk st)
       | none => false)
    else if m = 0x11 then decide (le v 0 1 ≤ 4) && decide (le v 2 1 ≤ 7)
    else true
  | 0x40 => planesOk v
  | 0x70 => if i = 0 then dynTxOk v else n == 0 || (match nth none s.sec.hmac (n - 1) with | some k => k.tahixa | none => false)
  | _ => signalOk v

/-- A value lies in the range of its row. -/
def rangeOk (s : State) (final : List (Nat × Nat)) (row : ObjRow) (key : Nat) (v : Bytes) : Bool :=
  let n := leNat v
  let f : F32 := BitVec.ofNat 32 n
  let d : F64 := BitVec.ofNat 64 n
  let typed := match row.ty with
    | 8 => fFinite f
    | 9 => dFinite d
    | 10 => decide (n ≤ 1)
    | _ => true
  typed && (match row.rng with
    | .any => true
    | .nat lo hi step => decide (lo ≤ n) && decide (n ≤ hi) && (n - lo) % step == 0
    | .int lo hi => decide (lo ≤ sext (8 * v.length) n) && decide (sext (8 * v.length) n ≤ hi)
    | .oneOf l => l.contains n
    | .oneOr lo hi other => (decide (lo ≤ n) && decide (n ≤ hi)) || n == other
    | .tickLess margin => decide (n + margin ≤ otick final)
    | .f32 lo hi => fLe (BitVec.ofNat 32 lo) f && fLe f (BitVec.ofNat 32 hi)
    | .f64 lo hi => dLe (BitVec.ofNat 64 lo) d && dLe d (BitVec.ofNat 64 hi)
    | .f32gt => fLt 0 f
    | .f64gt => dLt 0 d
    | .f32ge => fLe 0 f
    | .f32any => true
    | .f64any => true
    | .f64ne => !dEq d 0
    | .f32half lo hi =>
      let twice := fMul f (fOfInt 2)
      fLe (fOfInt lo) twice && fLe twice (fOfInt hi) && fEq (fOfInt (fFloor twice)) twice
    | .f32s => f32sOk v
    | .special => specialOk s final key v)

/-! ### Judgement of a record (R78) -/

/-- LENGTH of a record is the one its object takes (R77, and R78 step 4 as R120, R175 and R177 change it). -/
def lengthOk (row : ObjRow) (key : Nat) (v : Bytes) : Bool :=
  decide (row.len0 ≤ v.length) && decide (v.length ≤ row.len1) &&
    (if key = 0x70000A then v.length == 8 + le v 4 2
     else if key / 65536 = 0x31 && key % 256 = 0x10 then v.length % 16 == 0
     else true)

/-- Slot the planner holds (R176). [DEDUCED, log 58] -/
def plannerHolds (s : State) (key : Nat) : Bool :=
  key / 65536 == 0x31 && 0x10 ≤ key / 256 % 256 && s.plan.resident && s.plan.slot == key / 256 % 256 - 0x10

/-- Steps 1 to 4 of R78: the status of the first that fails. `host` is false for the records of an image, which R176 does not keep from the
planner's slot: the image decides anew which slots it loads. -/
def judgeForm (s : State) (priv host : Bool) (r : WriteRecord) : Option Nat :=
  match objRow r.key with
  | none => some stNoObject
  | some row =>
    if !priv && writeLimited r.key row then some stViewLimited
    else if !writable row || row.safety || (host && plannerHolds s r.key) then some stReadOnly
    else if r.type != row.ty || !lengthOk row r.key r.value then some stTypeMismatch
    else none

/-- Step 5 of R78: what the mode makes of a member that is writable in CONFIGURE only (R43). -/
def judgeMode (s : State) (row : ObjRow) : Option Nat :=
  if !row.conf then none
  else if inTransition s then
    (if s.mode.mode = .configure && targetInForce s = some .configure then none else some stModeTransition)
  else if s.mode.mode = .configure then none
  else some stModeRestricted

/-- Runs accepted for a slot and not ended, those that wait for the tick start included (R179). -/
def runWaiting (s : State) (slot : Nat) : Bool :=
  runBusy s slot || s.writes.any (fun q => q.records.any (fun r => r.key = okey 0x31 (0x10 + slot) 0x11 && le r.value 0 1 != 0))

/-- Host frames queued, those that wait for the tick start included (R120). -/
def framesWaiting (s : State) : Nat :=
  s.net.hostTx.length + sumNat (s.writes.map (fun q => (q.records.filter (fun r => r.key = 0x70000A)).length))

/-- The capture keeps its configuration (R367). -/
def captureBusy (s : State) : Bool := s.acq.capture.state == .armed || s.acq.capture.state == .triggered

/-- Step 7 of R78: the conditions the chapters place on a write. `before` are the records of the same OBJ_WRITE ahead of it. -/
def judgeMoment (s : State) (before : List WriteRecord) (r : WriteRecord) : Option Nat :=
  let i := r.key / 256 % 256
  let m := r.key % 256
  let n := leNat r.value
  match r.key / 65536 with
  | 0x20 => if m = 2 && n = 1 && !holdReleasable s i then some stPrecondition else none
  | 0x21 => if (m = 0x54 || m = 0x74) && n = 1 && !faultClears s ((m - 0x54) * 4 + i) then some stPrecondition else none
  | 0x31 =>
    if m = 0x11 && le r.value 0 1 != 0 && (runWaiting s (i - 0x10) || before.any (fun b => b.key = r.key && le b.value 0 1 != 0)) then some stBusy
    else none
  | 0x70 => if r.key = 0x70000A && 16 ≤ framesWaiting s + (before.filter (fun b => b.key = r.key)).length then some stBusy else none
  | 0xA0 => if i != 1 && captureBusy s then some stBusy else none
  | 0xB0 =>
    if i = 0 then (if m = 3 && (clkRestoreOk s).isNone then some stPrecondition else none)
    else if 0x20 ≤ i && n = 1 && gateRefused s (i - 0x20) m then some stPrecondition
    else none
  | _ => none

/-! ### What a record does (R13, R79) -/

/-- Effect of a record on one of its objects that starts an action or clears bits; none for an object that only takes the value. -/
def actionOf (s : State) (r : WriteRecord) : Option State :=
  let i := r.key / 256 % 256
  let m := r.key % 256
  let v := r.value
  let n := leNat v
  match r.key / 65536 with
  | 0x10 =>
    if 8 ≤ i && i ≤ 0x0B then
      (match m with
       | 0 => some (dspLoad s (i - 8) v)
       | 3 => some (dspEnable s (i - 8) n)
       | 9 => some (setKernel s (i - 8) (fun g => { g with flags := g.flags &&& ~~~(BitVec.ofNat 3 n) }))
       | _ => none)
    else none
  | 0x20 => if m = 2 then some (if n = 1 then releaseHold s i else s) else none
  | 0x21 =>
    let loop := (if 0x60 ≤ m then 128 else 0) + i
    if m = 0x0B then some (setChan s i (fun c => { c with flags := c.flags &&& (255 - n % 256) }))
    else if m = 0x53 || m = 0x73 then some (setLoop s loop (fun l => { l with flags := l.flags &&& ~~~(BitVec.ofNat 4 n) }))
    else if m = 0x54 || m = 0x74 then some (if n = 1 then clearFault s loop else s)
    else if 3 ≤ m && m ≤ 5 then
      let old := ov s 0x21 i m
      some (limitWritten { s with objs := oput s.objs r.key n } i m old n)
    else none
  | 0x31 =>
    if 0x10 ≤ i then
      (match m with
       | 0 => some (solverLoad s (i - 0x10) v)
       | 3 => some (solverUnload s (i - 0x10))
       | 0x10 => some (solverDelta s (i - 0x10) v)
       | 0x11 => some (solverRun s (i - 0x10) v)
       | _ => none)
    else none
  | 0x70 =>
    if r.key = 0x70000A then some (dynTx s v)
    else if r.key = 0x70002A then some (ringRestore s n)
    else if m = 7 && i != 0 || r.key = 0x700033 then some { s with objs := oput s.objs r.key (if n = 1 then 0 else oval s.objs r.key) }
    else none
  | 0x90 => if 0x10 ≤ i && i < 0x18 && m = 7 then some (if n = 1 then armIndex s (i - 0x10) else s) else none
  | 0xB0 =>
    if i = 0 && m = 3 then some (clkRestore s)
    else if 0x20 ≤ i then some (setGate s (i - 0x20) m (n == 1))
    else none
  | 0xC0 => if m = 5 then some (pairSwap s) else none
  | _ => none

/-- One record takes effect. -/
def applyRecord (s : State) (r : WriteRecord) : State :=
  match actionOf s r with
  | some s1 => s1
  | none => { s with objs := oput s.objs r.key (leNat r.value) }

/-- A record that starts a run: those take effect after the deltas of the same OBJ_WRITE (R178). -/
def startsRun (r : WriteRecord) : Bool := r.key / 65536 == 0x31 && 0x10 ≤ r.key / 256 % 256 && r.key % 256 == 0x11

/-- The cycle follows a write of `tahixa.cycle_ns`. [DEDUCED, log 80] -/
def retick (old s : State) : State := if otick old.objs = otick s.objs then s else setCycle s (otick s.objs)

/-- Records take effect together (R79). -/
def applyRecords (s : State) (rs : List WriteRecord) : State :=
  let s1 := (rs.filter (fun r => startsRun r)).foldl applyRecord ((rs.filter (fun r => !startsRun r)).foldl applyRecord s)
  let s2 := if rs.any (fun r => r.key / 65536 == 0x80) then retime s s1 else s1
  let s3 := if rs.any (fun r => r.key / 65536 == 0x90) then driveOutputs s2 else s2
  clkoutFollow s (retick s s3)

/-- Objects after records that only set a value: what a range that depends on another object is judged against. -/
def stageObjs (objs : List (Nat × Nat)) (rs : List WriteRecord) : List (Nat × Nat) :=
  rs.foldl (fun o r =>
    match objRow r.key with
    | some row => if row.acc == .rw && r.type == row.ty && lengthOk row r.key r.value then oput o r.key (leNat r.value) else o
    | none => o) objs

end Sys2Proof.Machine
end

