-- ==== Sys2Proof/Machine/Reset.lean ====
section
/-! DEFINITION. The module reset, the failed-start record and the verification of firmware slots (02_modes_and_start.md R48, R461;
20_security.md R413 to R416; 00_scope.md R15, R457). -/

namespace Sys2Proof.Machine

/-! ### The failed-start record (Table 2-6) -/

/-- Outcome codes of Table 2-6. -/
def outcomeCode : StepOutcome → Nat
  | .notRun => 0
  | .running => 1
  | .ok => 2
  | .okAlt => 3
  | .failed => 4
  | .failedAlt => 5
  | .timeout => 6

/-- The 48 bytes of the record (Table 2-6). -/
def recordBytes (r : StartRecord) : Bytes :=
  let body := leBytes 2 0x5346 ++ leBytes 1 1 ++ leBytes 1 r.consecFailed ++ leBytes 4 r.startSeq ++ leBytes 1 r.slotUsed ++
    leBytes 1 r.firstFailed ++ leBytes 2 0 ++
    joinBytes (r.steps.map (fun p => leBytes 1 p.1 ++ leBytes 1 (outcomeCode p.2))) ++ leBytes 4 r.failWord.toNat
  body ++ leBytes 4 (crc32 body)

/-- Changes the start state. -/
def withStart (s : State) (f : StartState → StartState) : State := { s with start := f s.start }

/-- Writes the record to AON, as at the start and the end of every step from B02 on (R48). -/
def keepRecord (s : State) : State := { s with aon := { s.aon with record := some s.start.record } }

/-- Changes the record of the attempt and writes it to AON. -/
def editRecord (s : State) (f : StartRecord → StartRecord) : State :=
  keepRecord (withStart s (fun b => { b with record := f b.record }))

/-- Mirrors the record to NOR (R48). -/
def mirrorRecord (s : State) : State := { s with nor := { s.nor with record := some s.start.record } }

/-! ### The module reset (R15, R38, R457) -/

/-- Objects whose chapter says that they are stored in NOR: the IPv4 address and prefix of each port (R457, Table 3-10). -/
def norObject (key : Nat) : Bool := key = 0xD09000 || key = 0xD09001 || key = 0xD09100 || key = 0xD09101

/-- What the reset of the core die leaves of the security state: OTP, NOR, and the state of the index store. -/
def keptSecurity (k : SecurityState) : SecurityState :=
  { k with firmware := k.firmware.map (fun f => { f with verify := 0xFF }), index := { k.index with treeReady := false }
           reports := [], loaderHead := [[], []], rootSlot := 0 }

/-- A module reset: every register and object takes its reset value, every session is CLOSED and no domain but PD0 is on. AON, NOR, OTP,
Chamois and what the pins and supplies bring are not touched, and `arm.hold_cause` keeps its word (R37); the commands that wait outside
stay. [DESIGN CHOICE, log 77] -/
def moduleReset (s : State) : State :=
  emit { State.reset with
    mode := { arms := s.mode.arms.map (fun h => { cause := h.cause }) }
    objs := s.objs.filter (fun e => norObject e.1)
    aon := s.aon
    nor := s.nor
    sec := keptSecurity s.sec
    hw := { s.hw with hostReady := false }
    cham := s.cham
    safety := { chamois := s.safety.chamois }
    clock := s.clock
    fresh := s.fresh
    freeCount := s.freeCount
    out := s.out
    pending := s.pending } .moduleReset

/-! ### Firmware slots (Table 20-2, Table 20-3) -/

def firmware (s : State) (slot : Nat) : FirmwareSlot := nth {} s.sec.firmware slot

/-- Changes one firmware slot. -/
def setFirmware (s : State) (slot : Nat) (f : FirmwareSlot → FirmwareSlot) : State :=
  { s with sec := { s.sec with firmware := upd s.sec.firmware slot f } }

/-- A header is valid under R415. -/
def headerOk (b : Bytes) : Bool :=
  le b 0 4 == 0x57464C4D && le b 4 2 == 1 && le b 92 4 == crc32 (slice b 0 92) && decide (le b 8 4 ≤ 4194304) &&
    le b 20 4 % 4 == 0 && decide (128 ≤ le b 20 4) && le b 20 4 + le b 24 4 == le b 8 4

/-- VERSION of a slot; 0 when its header is invalid (Table 20-9). -/
def slotVersion (b : Bytes) : Nat := if headerOk b then le b 12 4 else 0

/-- SEC_VERSION, RAISE_FLOOR and DIGEST of a header. -/
def slotSecVersion (b : Bytes) : Nat := le b 16 4
def slotRaisesFloor (b : Bytes) : Bool := bit (le b 6 2) 0
def slotDigest (b : Bytes) : Bytes := slice b 96 32

/-- The typecodes of every level of an HSS signature are ones of R413: `levels` signed keys, then the last signature. -/
def sigTypesOk : Nat → Bytes → Bool
  | levels, sig =>
    match otsParams (be sig 4 4) with
    | none => false
    | some (_, p, _) =>
      match lmsHeight (be sig (8 + 32 * (p + 1)) 4) with
      | none => false
      | some h =>
        match levels with
        | 0 => true
        | n + 1 =>
          let rest := sig.drop (lmsSigLen p h)
          (lmsKeyParams rest).isSome && sigTypesOk n (rest.drop 56)

/-- A signature names L from 1 to 3 and only parameter sets of R413. -/
def sigParamsOk (sig : Bytes) : Bool := decide (be sig 0 4 ≤ 2) && sigTypesOk (be sig 0 4) (sig.drop 4)

/-- OTP slot whose hash the root key has (Table 20-3 step 2). -/
def rootSlotOf (s : State) (b : Bytes) : Option Nat :=
  (List.range 4).find? (fun i => nth [] s.sec.otp.roots i == sha256 (slice b 32 60))

/-- Verifies the bytes of a slot in the order of Table 20-3: the failure code, 0 when the slot passes (R416). -/
def verifySlot (s : State) (b : Bytes) : Nat :=
  let off := le b 20 4
  let pub := slice b 32 60
  if !headerOk b then 1
  else
    let section_ := sigSection (slice b off (le b 24 4))
    match rootSlotOf s b with
    | none => 2
    | some r =>
      if s.sec.otp.revoked.getLsbD r then 3
      else if slotSecVersion b < s.sec.otp.floor then 4
      else if slotDigest b != sha256 (slice b 128 (off - 128)) then 5
      else if !hssKeyOk pub || section_.any (fun x => !sigParamsOk x.2) then 6
      else
        match section_ with
        | none => 7
        | some (slot, sig) =>
          if slot != 0xFF then 7
          else if hssVerify pub sig (slice b 0 off) = .ok then 0 else 8

end Sys2Proof.Machine
end

