-- ==== Sys2Proof/Machine/Security.lean ====
section
/-! DEFINITION. Attestation, the index store, key enrolment and the commands of the rescue loader (20_security.md R417 to R427). -/

namespace Sys2Proof.Machine

def withSec (s : State) (f : SecurityState → SecurityState) : State := { s with sec := f s.sec }

/-! ### The index store (R424 to R426) -/

/-- One-time indices of the identity key. -/
def indexEnd : Nat := 2 ^ 25

/-- `security.index_state`. [DEDUCED, log 116] -/
def indexMode (s : State) : IndexMode :=
  if s.sec.index.lost then .lost
  else if indexEnd ≤ s.sec.index.next then .exhausted
  else if s.sec.index.treeReady then .ready
  else .preparing

/-- B02 takes RESERVED_END from whichever valid copy holds the larger value; with neither the store is LOST (R425). -/
def loadIndex (s : State) : State :=
  let kept := match s.aon.reservedEnd, s.sec.norReserved with
    | some a, some n => some (max a n)
    | some a, none => some a
    | none, n => n
  withSec s (fun k => { k with index := match kept with
    | some v => { next := v, reservedEnd := v, lost := k.index.lost, treeReady := false }
    | none => { k.index with lost := true, treeReady := false } })

/-- INDEX_TREE_READY (R426): the root of the bottom tree that contains NEXT, and its signature, are computed. [DEDUCED, log 116] -/
def execIndexTreeReady (clk : Nat) (s : State) : Host.Outcome State Fault Refusal :=
  let s1 := begin clk s
  .next (if indexMode s1 = .preparing && s1.start.record.startSeq != 0 && !s1.start.rescue then
      withSec s1 (fun k => { k with index := { k.index with treeReady := true } })
    else s1)

/-- Step 2 of R425: before the first signature of a reservation, the next one is written to AON and then to NOR and read back; none when
the NOR write or its read-back fails. -/
def reserveIndex (s : State) (norOk : Bool) : State × Bool :=
  let k := s.sec.index
  if k.next < k.reservedEnd then (s, true)
  else
    let v := k.reservedEnd + 256
    let s1 := { s with aon := { s.aon with reservedEnd := some v } }
    if norOk then (withSec s1 (fun k => { k with norReserved := some v, index := { k.index with reservedEnd := v } }), true)
    else (s1, false)

/-- NEXT is used: it is incremented, and the tree of a new bottom tree has to be computed first (R425, R426). -/
def issueIndex (s : State) : State :=
  withSec s (fun k => { k with index := { k.index with
    next := k.index.next + 1
    treeReady := k.index.treeReady && (k.index.next + 1) % 32768 != 0 } })

/-! ### Attestation (R427) -/

/-- `pair.role` (Table 19-5). -/
def roleCode : PairRole → Nat
  | .none => 0
  | .holder => 1
  | .standby => 2
  | .notReady => 3

/-- The bytes of the firmware slot that runs. -/
def runningFirmware (s : State) : Bytes := (firmware s s.start.slot).bytes

/-- Bytes [0, 408) of a report (Table 20-8). -/
def reportBody (s : State) (privileged : Bool) (nonce : Bytes) : Bytes :=
  let fw := runningFirmware s
  let active := imageActive s
  let d32 := fun (b : Bytes) => slice b 0 32
  leBytes 4 0x54535441 ++ leBytes 2 1 ++ leBytes 2 (b2n privileged + 2 * b2n active + 4 * b2n (unprovisioned s)) ++ leBytes 4 3532 ++
    leBytes 4 s.sec.index.next ++ nonce ++ leBytes 8 (now s) ++ slice s.sec.otp.certificate 8 16 ++
    leBytes 1 s.start.slot ++ leBytes 1 (modeCode s.mode.mode) ++ leBytes 1 (roleCode s.pair.role) ++ [0] ++
    leBytes 4 (slotVersion fw) ++ leBytes 4 (slotSecVersion fw) ++ leBytes 4 s.sec.otp.floor ++ slotDigest fw ++
    (if active then d32 s.image.digest else zeros 32) ++ leBytes 8 (if active then s.image.activeId else 0) ++ leBytes 8 s.image.activation ++
    d32 s.safety.digest ++
    joinBytes (s.sec.customer.map (fun c => match c with | some k => sha256 k.key | none => zeros 32)) ++
    joinBytes (s.dsp.kernels.map (fun g => if g.load = .resident then d32 g.digest else zeros 32)) ++
    leBytes 4 s.start.record.startSeq ++ leBytes 1 s.sec.rootSlot ++ leBytes 1 s.sec.otp.revoked.toNat ++ zeros 10

/-- The identity signature of 3,124 bytes under the module's private key, which never leaves the die: bytes the spec leaves open. [DESIGN
CHOICE, log 115] -/
def identitySignature (s : State) : Bytes := (List.range 3124).map (Config.freeByte s.freeCount)

/-- Signs a new report and answers its range; the report is kept for the session. [DESIGN CHOICE, log 115] -/
def newReport (e : Entry) (off : Nat) (norOk : Bool) (s : State) : State :=
  let o := originOf e
  if indexMode s = .lost || indexMode s = .exhausted then complete s o stExhausted
  else if indexMode s = .preparing then complete s o stBusy
  else
    match reserveIndex s norOk with
    | (s1, false) =>
      complete { s1 with freeCount := s1.freeCount + 1 } o stInternalError (leBytes 4 (Config.freeValue s1.freeCount))
    | (s1, true) =>
      let report := reportBody s1 ((mbx s e.mbx).state == .privileged) (slice (entryArgs e) 8 32) ++ identitySignature s1
      let s2 := bump (issueIndex { s1 with freeCount := s1.freeCount + 1 }) 0xD0 0 7
      let s3 := withSec s2 (fun k => { k with reports := (k.reports.filter (fun r => r.1 != e.mbx)) ++ [(e.mbx, report)] })
      answer s3 e stOk (slice report off e.bulkLen)

/-- ATTEST (R427). [DEDUCED, log 111] -/
def attest (norOk : Bool) (e : Entry) (_ : Transport) (s : State) : State :=
  let a := entryArgs e
  let o := originOf e
  let flags := le a 0 1
  let off := le a 4 4
  let range := fun (b : Bytes) =>
    if b.length < off + e.bulkLen then complete s o stBadArgument else answer s e stOk (slice b off e.bulkLen)
  if bit flags 0 then
    if 3532 < off + e.bulkLen then complete s o stBadArgument
    else
      match s.sec.reports.find? (fun r => r.1 = e.mbx) with
      | none => complete s o stPrecondition
      | some r => range r.2
  else if bit flags 1 then range s.sec.otp.certificate
  else if 3532 < off + e.bulkLen then complete s o stBadArgument
  else newReport e off norOk s

def notBoot : List Mode := [.configure, .commission, .run, .hold, .fault]

def execAttest (clk : Nat) (e : Entry) (norOk : Bool) (s : State) : Host.Outcome State Fault Refusal :=
  .next (command { opcode := 0x0080, modes := notBoot } (fun _ => false) (fun e => fixedLen 40 e && bulkOut e) (attest norOk) clk e s)

/-! ### Key enrolment (R419 to R422) -/

/-- Argument length of an action (R420 step 2). -/
def enrolLength (action : Nat) : Nat := match action with | 1 => 68 | 3 => 40 | _ => 8

/-- The arguments of KEY_ENROL are in range (R420 step 3). -/
def enrolOk (action slot flags : Nat) (a : Bytes) : Bool :=
  match action with
  | 1 => decide (slot < 2) && decide (flags < 2) && hssKeyOk (slice a 8 60)
  | 2 => decide (slot < 2) && flags == 0
  | 3 => decide (1 ≤ slot) && decide (slot ≤ 8) && decide (flags < 4)
  | _ => decide (1 ≤ slot) && decide (slot ≤ 8) && flags == 0

/-- A key that SET_HMAC carries, unwrapped with the session key (R422). -/
def unwrapKey (sk : Bytes) (slot : Nat) (txid : BitVec 16) (wrapped : Bytes) : Bytes :=
  List.zipWith (· ^^^ ·) wrapped (hmac256 sk ([2] ++ leBytes 1 slot ++ leBytes 2 txid.toNat))

/-- The effect of an action. -/
def enrol (s : State) (action slot flags : Nat) (data sk : Bytes) (txid : BitVec 16) : State :=
  withSec s (fun k =>
    match action with
    | 1 => { k with customer := upd k.customer slot (fun _ => some { key := slice data 0 60, requireCell := bit flags 0 }) }
    | 2 => { k with customer := upd k.customer slot (fun _ => none) }
    | 3 => { k with hmac := upd k.hmac (slot - 1) (fun _ =>
              some { key := unwrapKey sk slot txid (slice data 0 32), session := bit flags 0, tahixa := bit flags 1 }) }
    | _ => { k with hmac := upd k.hmac (slot - 1) (fun _ => none) })

/-- KEY_ENROL (R420). -/
def keyEnrol (e : Entry) (_ : Transport) (s : State) : State :=
  let a := entryArgs e
  let o := originOf e
  let action := le a 0 1
  let slot := le a 1 1
  if action < 1 || 4 < action then complete s o stBadArgument
  else if a.length != enrolLength action then complete s o stBadLength
  else if !enrolOk action slot (le a 2 2) a then complete s o stBadArgument
  else if !seal11 s then complete s o stPrecondition
  else if action == 1 && (nth none s.sec.customer slot).isSome then complete s o stPrecondition
  else complete (enrol s action slot (le a 2 2) (a.drop 8) (mbx s e.mbx).sk e.txid) o stOk

def execKeyEnrol (clk : Nat) (e : Entry) (s : State) : Host.Outcome State Fault Refusal :=
  .next (command { opcode := 0x0081, priv := true, modes := [.configure] } (fun _ => true) (fun _ => true) keyEnrol clk e s)

/-! ### Rescue loader (R418, R51) -/

/-- The result of LOADER_INFO (Table 20-4). [DESIGN CHOICE, log 117] -/
def loaderInfoBytes (s : State) : Bytes :=
  leBytes 4 Config.romVersion ++ leBytes 4 (slotVersion (firmware s 0).bytes) ++ leBytes 4 (slotVersion (firmware s 1).bytes) ++
    leBytes 1 (firmware s 0).verify ++ leBytes 1 (firmware s 1).verify ++ leBytes 2 0 ++ leBytes 4 s.sec.otp.floor ++
    leBytes 1 s.sec.otp.revoked.toNat ++ zeros 3

def loaderSpec (opcode : Nat) : CmdSpec := { opcode := opcode, priv := true, rescue := true, loaderOnly := true }

def execLoaderInfo (clk : Nat) (e : Entry) (s : State) : Host.Outcome State Fault Refusal :=
  .next (command (loaderSpec 0x00F0) (fun _ => true) (fixedLen 0)
    (fun e _ s => complete s (originOf e) stOk (loaderInfoBytes s)) clk e s)

def execLoaderReadRecord (clk : Nat) (e : Entry) (s : State) : Host.Outcome State Fault Refusal :=
  .next (command (loaderSpec 0x00F1) (fun _ => true) (fun e => fixedLen 0 e && bulkOut e)
    (fun e _ s => answer s e stOk (recordBytes s.start.record)) clk e s)

/-- The inline arguments of a command whose data travel in bulk. -/
def inlineArgs (e : Entry) : Bytes := slice e.args 0 e.argLen
def bulkData (e : Entry) : Bytes := if e.flags.getLsbD 0 then slice e.bulk 0 e.bulkLen else []

/-- Data written over bytes that read 0 where nothing has been written. -/
def writeAt (old : Bytes) (off : Nat) (data : Bytes) : Bytes :=
  slice old 0 off ++ data ++ old.drop (off + data.length)

/-- Writes firmware data to a slot. A write at OFFSET 0 erases the header first; its first four bytes are kept back until the slot has
been verified (Table 20-4). -/
def loaderData (s : State) (slot off : Nat) (data : Bytes) : State :=
  if data.isEmpty && off != 0 then s
  else if off = 0 then
    let s1 := setFirmware s slot (fun f => { f with bytes := zeros 4 ++ data.drop 4 ++ zeros (128 - max 4 data.length) ++ f.bytes.drop (max 128 data.length) })
    withSec s1 (fun k => { k with loaderHead := upd k.loaderHead slot (fun _ => slice data 0 4) })
  else setFirmware s slot (fun f => { f with bytes := writeAt f.bytes off data })

/-- The slot as the loader verifies it: with the bytes kept back in place. [DEDUCED, log 112] -/
def loaderImage (s : State) (slot : Nat) : Bytes :=
  let head := nth [] s.sec.loaderHead slot
  let b := (firmware s slot).bytes
  if head.isEmpty then b else head ++ b.drop 4

/-- LOADER_WRITE_SLOT (Table 20-4). [DEDUCED, log 112] -/
def loaderWriteSlot (e : Entry) (_ : Transport) (s : State) : State :=
  let a := inlineArgs e
  let o := originOf e
  let slot := le a 0 1
  let off := le a 4 4
  let data := bulkData e
  if 1 < slot || 4194304 < off + data.length then complete s o stBadArgument
  else
    let s1 := loaderData s slot off data
    if !bit (le a 1 1) 0 then complete s1 o stOk
    else
      let img := loaderImage s1 slot
      let code := verifySlot s1 img
      let s2 := setFirmware s1 slot (fun f => { f with verify := code, bytes := if code = 0 then img else f.bytes })
      if code = 0 then complete (withSec s2 (fun k => { k with loaderHead := upd k.loaderHead slot (fun _ => []) })) o stOk
      else complete s2 o stSignatureInvalid (leBytes 1 code)

def execLoaderWriteSlot (clk : Nat) (e : Entry) (s : State) : Host.Outcome State Fault Refusal :=
  .next (command (loaderSpec 0x00F2) (fun _ => true) (fun e => e.argLen == 8) loaderWriteSlot clk e s)

/-- LOADER_RESTART (R51): the completion is posted, CONSEC_FAILED is cleared, the record is mirrored and the module resets. [DEDUCED, log
113] -/
def loaderRestart (e : Entry) (_ : Transport) (s : State) : State :=
  moduleReset (mirrorRecord (editRecord (complete s (originOf e) stOk) (fun r => { r with consecFailed := 0 })))

def execLoaderRestart (clk : Nat) (e : Entry) (s : State) : Host.Outcome State Fault Refusal :=
  .next (command (loaderSpec 0x00F3) (fun _ => true) (fixedLen 0) loaderRestart clk e s)

end Sys2Proof.Machine
end

