-- ==== Sys2Proof/Machine/ObjRead.lean ====
section
/-! DEFINITION. What every readable object shows, and OBJ_READ (03_zewen_interface.md R76, R77, R80, R82; the object table of each chapter).
An object that no chapter derives from the machine shows the value stored for it. -/

namespace Sys2Proof.Machine

/-! ### Layouts -/

def f32Bytes (x : F32) : Bytes := leBytes 4 x.toNat
def f64Bytes (x : F64) : Bytes := leBytes 8 x.toNat
def intBytes (n : Nat) (v : Int) : Bytes := leBytes n (wrap (8 * n) v)
def boolByte (b : Bool) : Bytes := [BitVec.ofNat 8 (b2n b)]

/-- Bytes cut or filled up to a length. -/
def fit (n : Nat) (b : Bytes) : Bytes := slice b 0 n

/-- A plan segment (Table 7-4). -/
def segmentBytes (g : Segment) : Bytes :=
  leBytes 4 g.durationNs ++ leBytes 1 g.kind ++ zeros 3 ++ intBytes 8 g.c0 ++ f64Bytes g.c1 ++ f64Bytes g.c2 ++ f64Bytes g.c3 ++
    f64Bytes g.c4 ++ f64Bytes g.c5

/-- A plan record of `plan.committed` and `plan.pending` (Table 7-5); zero when empty (R161). -/
def planBytes (p : Option PlanRecord) : Bytes :=
  match p with
  | none => zeros 1376
  | some r =>
    leBytes 4 r.seq ++ leBytes 1 r.arm ++ leBytes 1 r.result ++ zeros 2 ++ leBytes 8 r.origin ++ leBytes 8 r.effect ++ leBytes 8 r.stop ++
      joinBytes ((List.range 8).map (fun j => fit 168 (joinBytes ((nth [] r.joints j).map segmentBytes))))

/-- A task descriptor (Table 12-1). -/
def descriptorBytes (d : Descriptor) : Bytes :=
  leBytes 1 d.kind ++ leBytes 1 d.priority ++ leBytes 1 d.target ++ leBytes 1 (1 + 2 * b2n d.timed) ++ leBytes 2 d.rate ++ leBytes 2 d.phase ++
    leBytes 4 d.wcet ++ leBytes 4 d.offset ++
    joinBytes ((List.range 4).map (fun k =>
      match d.operands[k]? with
      | some o => leBytes 2 o.1 ++ leBytes 1 o.2 ++ [0]
      | none => leBytes 2 0xFFFF ++ zeros 2))

/-- A run result (Table 8-6). -/
def resultBytes (r : SolverResult) : Bytes :=
  let flags := b2n r.warmUsed + 2 * b2n r.warmRejected + 4 * b2n r.guardStop + 8 * b2n r.suspended + 16 * b2n r.factorValid
  leBytes 1 r.code ++ leBytes 1 r.iterations ++ leBytes 1 flags ++ leBytes 1 (min r.wrongSign 255) ++ leBytes 4 r.seq ++
    leBytes 4 r.pivotCol ++ leBytes 4 r.pivotVar ++ f64Bytes r.rPrimal ++ f64Bytes r.rDual ++ f64Bytes r.gap ++ f64Bytes r.objective ++
    leBytes 8 r.startTime ++ leBytes 8 r.endTime ++ leBytes 8 r.runTag

/-- A lease entry (Table 9-2). -/
def leaseEntry (l : Lease) : Bytes :=
  leBytes 4 l.id ++ leBytes 1 l.arm ++ leBytes 1 l.zone ++ leBytes 1 (b2n l.planner + 2 * b2n l.kept + 4 * b2n l.followOn) ++ [0] ++
    leBytes 8 l.start ++ leBytes 8 l.finish

/-- A lease set (Table 9-6). -/
def leaseSetBytes (l : List LeaseNeed) : Bytes :=
  fit 772 (leBytes 1 l.length ++ zeros 3 ++
    joinBytes (l.map (fun n => leBytes 1 n.zone ++ zeros 7 ++ leBytes 8 n.first ++ leBytes 8 (n.untilTheta.getD (2 ^ 64 - 1)))))

/-- A latch record (Table 16-4). -/
def latchBytes (l : EncLatch) : Bytes := intBytes 8 l.p ++ f64Bytes l.v ++ leBytes 8 l.t

/-- An arm result (Table 14-6). -/
def armResultBytes (r : ArmResult) : Bytes :=
  let d : Nat := match r.demand with | .none => 0 | .ss2 => 1 | .ss1 => 2
  leBytes 2 r.scale ++ leBytes 1 d ++ leBytes 1 r.flags ++ f32Bytes (dToF32 r.vlim) ++ f32Bytes (dToF32 r.distP) ++ f32Bytes (dToF32 r.distC) ++
    fit 12 (joinBytes (r.dir.map f32Bytes)) ++ leBytes 1 r.person ++ leBytes 1 r.capsule ++ zeros 2 ++ leBytes 8 r.stepTime

/-- A person slot (Table 14-7); zero when the slot is empty. -/
def personBytes (p : Option PersonSlot) : Bytes :=
  match p with
  | none => zeros 24
  | some x =>
    leBytes 1 x.sensor ++ boolByte x.worst ++ zeros 2 ++ f32Bytes x.x ++ f32Bytes x.y ++ f32Bytes x.radius ++ f32Bytes x.height ++
      leBytes 4 (x.latency / 1000)

/-! ### Derived objects by class -/

/-- `solver.load_state` and `dsp.load_state`. -/
def loadCode : LoadMode → Nat
  | .empty => 0
  | .loading => 1
  | .analysing => 2
  | .resident => 3
  | .refused => 4

/-- `dsp.load_state`, which knows no analysis (Table 13-6). -/
def kernelLoadCode : LoadMode → Nat
  | .empty => 0
  | .loading | .analysing => 1
  | .resident => 2
  | .refused => 3

/-- Mean of the waiting times of a window. -/
def meanWait (c : CoreStats) : Nat := if c.count = 0 then 0 else freeRound (dRatio c.waitSum c.count)

/-- Class 0x10: cell, scheduler and DSP. -/
def read10 (s : State) (i m : Nat) : Option Bytes :=
  if i = 0 then
    match m with
    | 2 => some (leBytes 4 (tickNs s))
    | 3 => some (leBytes 4 (tickCount s))
    | 4 => some (leBytes 8 s.image.activation)
    | 5 => some (leBytes 1 (sepTicks s))
    | 6 => some (leBytes 1 (modeCode s.mode.mode))
    | 7 => some (leBytes 1 (modeCode (modeTarget s)))
    | 8 => some (leBytes 4 s.mode.cause.toNat)
    | 9 => some (fit 40 s.mode.refusal)
    | 0x0A => some (fit 48 (recordBytes s.start.record))
    | 0x0B => some (leBytes 1 ((s.mode.resume.map modeCode).getD 0))
    | _ => none
  else if i = 1 then
    match m with
    | 2 => some (leBytes 2 s.sched.descriptors.length)
    | 4 => some (fit 1024 (joinBytes (((s.sched.descriptors.drop (ov s 0x10 1 3)).take 32).map descriptorBytes)))
    | 5 => some (leBytes 2 s.sched.store.length)
    | 6 => some (leBytes 2 s.sched.storeMax)
    | _ => none
  else if 0x10 ≤ i then
    let c := nth {} s.sched.cores (i - 0x10)
    match m with
    | 0 => some (leBytes 2 (queueDepth s (i - 0x10)))
    | 1 => some (leBytes 2 c.queueMax)
    | 2 => some (leBytes 4 c.shown.waitMin)
    | 3 => some (leBytes 4 (meanWait c.shown))
    | 4 => some (leBytes 4 c.shown.waitMax)
    | 5 => some (leBytes 2 (c.shown.busy * 1000 / s.sched.windowLen))
    | 6 => some (leBytes 4 c.charge)
    | _ => none
  else if 8 ≤ i then
    let k := kernelOf s (i - 8)
    match m with
    | 1 => some (leBytes 1 (kernelLoadCode k.load))
    | 2 => some (leBytes 1 k.loadError)
    | 6 => some (leBytes 8 k.kernelId)
    | 7 => some (leBytes 4 k.execCycles)
    | 8 => some (leBytes 1 (match k.state with | .idle => 0 | .enabled => 1 | .faulted => 2))
    | 9 => some (leBytes 1 k.flags.toNat)
    | 0x0C => some (fit 1024 (joinBytes (k.out.map (fun w => leBytes 4 w.toNat))))
    | 0x0D => some (leBytes 8 k.outTime)
    | 0x0E => some (leBytes 2 k.faultPc)
    | _ => none
  else none

/-- Classes 0x20 and 0x21: arms, joints, channels and loops. [DEDUCED, log 120] -/
def read20 (s : State) (i m : Nat) : Option Bytes :=
  let h := nth {} s.mode.arms i
  match m with
  | 2 => some (boolByte h.held)
  | 3 => some (leBytes 4 h.cause.toNat)
  | 4 => some (leBytes 1 (sourceCode (armMot s i).source))
  | 5 => some (boolByte (armMot s i).ramp)
  | _ => none

/-- `joint.state` codes (Table 10-10). -/
def chanCode : ChannelMode → Nat
  | .standing => 0
  | .plan => 1
  | .moving => 2
  | .engaging => 3
  | .locked => 4
  | .jog => 5
  | .stopping => 6

def readLoop (s : State) (ch outer m : Nat) : Option Bytes :=
  let l := loopState s (outer * 128 + ch)
  match m with
  | 0x51 => some (fit 32 (joinBytes (l.xh.map f32Bytes)))
  | 0x52 => some (fit 8 (joinBytes (l.us.map f32Bytes)))
  | 0x53 => some (leBytes 1 l.flags.toNat)
  | 0x54 => some (boolByte l.fault)
  | 0x55 => some (leBytes 1 (loopFaultCode l.cause))
  | 0x56 => some (leBytes 4 (loopWcet s.objs ch (outer * 0x20)))
  | 0x57 => some (leBytes 4 l.lastDelay)
  | _ => none

def read21 (s : State) (i m : Nat) : Option Bytes :=
  if 0x40 ≤ m then readLoop s i ((m - 0x40) / 0x20) (0x40 + m % 0x20)
  else
    let c := chan s i
    match m with
    | 7 => some (intBytes 8 c.pos)
    | 8 => some (f64Bytes c.vel)
    | 9 => some (f64Bytes c.acc)
    | 0x0A => some (leBytes 1 (chanCode c.state))
    | 0x0B => some (leBytes 1 c.flags)
    | 0x0C => some (leBytes 4 c.moveId)
    | 0x0D => some (intBytes 8 c.target)
    | 0x13 => some (leBytes 1 (if c.convStale then 2 else if c.convSeen then 1 else 0))
    | 0x14 => some (leBytes 1 (min c.convAge 255))
    | _ => none

/-- `plan.commit_budget_us` in ns (R155). -/
def commitBudgetNs (objs : List (Nat × Nat)) : Nat := 10000 + 125 * (plannedArms objs).length * (4 + ob objs 0x30 0 7)

/-- Class 0x30: the planner. -/
def read30 (s : State) (i m : Nat) : Option Bytes :=
  if i = 0 then
    match m with
    | 3 => some (leBytes 4 (freeRound (dRatio (commitBudgetNs s.objs) 1000)))
    | 0x0C => some (leBytes 1 s.plan.slot)
    | 0x10 => some (leBytes 1 s.plan.lastResult)
    | 0x11 => some (leBytes 4 s.plan.lastSeq)
    | 0x15 => some (leBytes 2 (min s.plan.failRun 65535))
    | _ => none
  else
    let p := armPlan s (i - 0x10)
    match m with
    | 7 => some (leBytes 8 p.theta)
    | 8 => some (leBytes 2 p.rate)
    | 9 => some (leBytes 2 (pathLevel s (i - 0x10)))
    | 0x0A => some (leBytes 4 p.pathId)
    | 0x20 => some (planBytes p.following)
    | 0x21 => some (planBytes (p.pending.head?.map (·.plan)))
    | _ => none

/-- A vector of a slot (R188): x, y, z, s or w. -/
def slotVector (g : SolverSlot) (v : Nat) : List F64 :=
  match v with
  | 0 => g.iterate.x
  | 1 => g.iterate.y
  | 2 => signedDual g.iterate.zl g.iterate.zu
  | 3 => g.iterate.s
  | 4 => g.w
  | _ => []

/-- `solver.state` (Table 8-10). -/
def solverActivity (s : State) : Nat :=
  match s.solver.current with
  | some r => if r.planner then (if s.solver.parked.isSome then 3 else 1) else 2
  | none => if s.solver.parked.isSome then 3 else 0

/-- Class 0x31: the solver array. [DEDUCED, log 120] -/
def read31 (s : State) (i m : Nat) : Option Bytes :=
  if i = 0 then
    match m with
    | 0 => some (leBytes 4 (sramFree s))
    | 1 => some (leBytes 1 (solverActivity s))
    | _ => none
  else
    let g := slotOf s (i - 0x10)
    let n := match g.structure? with | some st => st.nVar + st.nEq | none => 0
    let pm := if n = 0 then 0 else sustainedPm g.nnzL n
    let sel := ov s 0x31 i 0x13
    match m with
    | 1 => some (leBytes 1 (loadCode g.load))
    | 2 => some (leBytes 1 g.loadError)
    | 4 => some (leBytes 8 g.id)
    | 5 => some (leBytes 4 n)
    | 6 => some (leBytes 4 g.nnzL)
    | 7 => some (leBytes 8 g.flops)
    | 8 => some (leBytes 2 pm)
    | 9 => some (leBytes 8 (if pm = 0 then 0 else worstCase g.flops (ov s 0x31 i 0x0A) pm))
    | 0x12 => some (resultBytes g.result)
    | 0x14 => some (fit 4096 (joinBytes (((slotVector g (sel / 2 ^ 28)).drop (sel % 2 ^ 28)).take 512 |>.map f64Bytes)))
    | _ => none

/-- Arms that held a zone at the last pass start: by a lease, or as their home zone. [DEDUCED, log 60] -/
def zoneHolders (s : State) (z : Nat) : Nat :=
  let t := s.piste.lastPass
  packBits ((List.range 8).map (fun a =>
    s.piste.passLeases.any (fun l => l.arm = a && l.zone = z && decide (l.start ≤ t) && decide (t < leaseEnd l)) ||
      (s.piste.passHomes && (homeZones s.objs).any (fun h => h.1 = a && h.2 = z))))

/-- Class 0x40: pistes. -/
def read40 (s : State) (i m : Nat) : Option Bytes :=
  match m with
  | 2 => some (leBytes 32 (packBits ((List.range 256).map (fun w => zonesConflict s i w))))
  | 3 => some (leBytes 1 (zoneHolders s i))
  | 0x82 => some (fit 24580 (leBytes 2 s.piste.leases.length ++ zeros 2 ++ joinBytes (s.piste.leases.map leaseEntry)))
  | 0x83 => some (leBytes 2 (pendingCount s))
  | 0xC1 => some (joinBytes ((List.range 256).map (fun z => leBytes 2 (credit s.piste i z))))
  | 0xC2 => some (leaseSetBytes (nth [] s.piste.checkedSets i))
  | 0xC3 =>
    let v := nth (0, 0, 0) s.piste.lastViolation i
    some (leBytes 1 v.1 ++ zeros 7 ++ leBytes 8 v.2.1 ++ leBytes 8 v.2.2)
  | _ => none

/-- Class 0x50: separation monitoring. -/
def read50 (s : State) (i m : Nat) : Option Bytes :=
  if i = 0x80 then
    match m with
    | 0x0D => some (leBytes 4 (sepTimeP s.objs))
    | 0x0E => some (leBytes 4 (sepTimeC s.objs))
    | _ => none
  else if 0x90 ≤ i then some (personBytes (nth none s.sep.latch.persons (i - 0x90)))
  else if 0x70 ≤ i then (if m = 6 then some (armResultBytes (nth {} s.sep.results (i - 0x70))) else none)
  else if 0x60 ≤ i then
    (if m = 6 then some (leBytes 1 (if ov s 0x50 i 0 = 0 then 0 else if s.sep.worst.getLsbD (i - 0x60) then 2 else 1)) else none)
  else none

/-- Class 0x60: safety, in the processor channel's view. The processor channel drives the high-side switches, Chamois the low-side ones. -/
def read60 (s : State) (i m : Nat) : Option Bytes :=
  let p := s.safety.processor
  let c := s.safety.chamois
  if i = 0x80 then
    match m with
    | 0 => some (fit 32 s.safety.digest)
    | 1 => some (leBytes 4 s.safety.connectionId)
    | 2 => some (leBytes 4 s.safety.setVersion)
    | 3 => some (leBytes 1 s.safety.setError)
    | 4 => some (leBytes 1 p.sw1.toNat)
    | 0x0A => some (leBytes 8 s.safety.lastReset)
    | 0x0C => some (leBytes 4 s.cham.fault.toNat)
    | _ => none
  else if 0x40 ≤ i then
    let n := tget {} p.nets (i - 0x40)
    if m = 5 then some (leBytes 1 (packBits [n.on, n.stale, n.latched, n.codingError])) else none
  else if 0x20 ≤ i then
    match m with
    | 7 => some (leBytes 1 (stopCode (armStop s false (i - 0x20)).state) ++ leBytes 1 (stopCode (armStop s true (i - 0x20)).state))
    | 8 => some (leBytes 2 (armSources s (i - 0x20)))
    | _ => none
  else if 0x10 ≤ i then
    let h := nth {} p.switches (i - 0x10)
    let l := nth {} c.switches (i - 0x10)
    match m with
    | 3 => some (leBytes 1 (packBits [h.closed && l.closed, h.closed, l.closed, h.overload || l.overload || h.limited || l.limited,
        h.openWire || l.openWire, h.overTemp || l.overTemp, h.stuck, l.stuck]))
    | 4 => some (leBytes 2 h.current)
    | _ => none
  else
    let n := nth {} p.inputs i
    if m = 5 then some (leBytes 1 (packBits [n.on, n.a, n.b, n.discrepancy, n.latched])) else none

/-- `tahixa.net_state` (Table 6-2). -/
def netCode : NetMode → Nat
  | .off => 0
  | .listen => 1
  | .coldstart => 2
  | .backoff => 3
  | .starting => 4
  | .running => 5
  | .follow => 6

def nodeCode : NodeMode → Nat
  | .absent => 0
  | .syncing => 1
  | .integrated => 2
  | .lost => 3

/-- Mean of the loop delays of a ring in ns (R139). -/
def loopNs (r : RingState) : Nat := if r.loop.isEmpty then 0 else (nearestDiv (sumInt r.loop) (10 * r.loop.length)).toNat

/-- Class 0x70: Tahixa. [DEDUCED, log 82] -/
def read70 (s : State) (i m : Nat) : Option Bytes :=
  if i = 0 then
    match m with
    | 6 => some (leBytes 2 (miniSlots (tickNs s) (staticDown s)))
    | 7 => some (leBytes 2 (miniSlots (tickNs s) (staticUp s)))
    | 8 => some (leBytes 4 (nitPs (tickNs s) (staticDown s)))
    | 9 => some (leBytes 4 (nitPs (tickNs s) (staticUp s)))
    | 0x0B => some (leBytes 1 s.net.hostTx.length)
    | 0x0C => some (dynRxRead s).1
    | 0x10 => some (joinBytes ((List.range 120).map (fun k => leBytes 1 (slotAge s (upOf s k)))))
    | 0x22 => some (leBytes 1 (netCode s.net.net))
    | 0x23 => some (leBytes 1 s.net.leader)
    | 0x27 => some (leBytes 1 (packBits [ringOpen s 0, ringOpen s 1]))
    | 0x28 => some (leBytes 4 (loopNs (nth {} s.net.rings 0)) ++ leBytes 4 (loopNs (nth {} s.net.rings 1)))
    | 0x2E => some (leBytes 1 s.net.linkUp.toNat)
    | _ => none
  else
    let n := nodeOf s i
    match m with
    | 2 => some (intBytes 4 (meanQ n.delayA 0))
    | 3 => some (intBytes 4 (meanQ n.delayB 0))
    | 5 => some (intBytes 2 (nearestDiv n.lastOffset 10))
    | 6 => some (leBytes 1 n.outerRun)
    | 0x10 => some (leBytes 1 (nodeCode n.state))
    | 0x13 => some (leBytes 1 n.lines)
    | 0x14 => some (intBytes 4 (if ringMode s.objs then altOf s i 0 else 0))
    | _ => none

def domainCode : DomainMode → Nat
  | .disabled => 0
  | .listening => 1
  | .uncalibrated => 2
  | .locked => 3
  | .lost => 4

/-- Class 0x80: herd time. [DEDUCED, log 48] -/
def read80 (s : State) (i m : Nat) : Option Bytes :=
  if i = 0 then
    match m with
    | 0x0A => some (leBytes 1 (herdCode s.herd.state))
    | 0x0B => some (intBytes 8 (nearestDiv s.herd.slewRem (2 ^ 32)))
    | 0x0C => some (leBytes 4 ((s.herd.holdover.map (fun h => (now s - h.entered) / 1000000000)).getD 0))
    | 0x0D => some (f32Bytes ((s.herd.holdover.map (fun h => dToF32 h.drift)).getD 0))
    | 0x0E => some (leBytes 8 (holdoverError s))
    | 0x15 => some (leBytes 4 s.herd.txtsTotal)
    | _ => none
  else if i < 0x20 then
    let d := nth {} s.herd.domains (i - 0x10)
    match m with
    | 7 => some (leBytes 1 (domainCode d.state))
    | 8 => some (intBytes 8 (nearestDiv d.offset 65536))
    | 9 => some (intBytes 8 (nearestDiv d.meanPath 65536))
    | 0x0A => some (f64Bytes d.integral)
    | 0x0B => some (beBytes 8 d.gm)
    | _ => none
  else none

/-- Class 0x90: field I/O, encoders and auxiliary axes. -/
def read90 (s : State) (i m : Nat) : Option Bytes :=
  if i = 0 then
    match m with
    | 0 => some (leBytes 4 (packBits ((List.range 32).map (fun n => (inputOf s n).on))))
    | 1 => some (leBytes 1 s.field.inGroup.toNat)
    | 3 => some (leBytes 2 s.field.outState.toNat)
    | 4 => some (leBytes 1 s.field.outGroup.toNat)
    | _ => none
  else if 0x40 ≤ i then
    match m with
    | 3 => some (leBytes 1 (inputOf s (i - 0x40)).count)
    | 5 => some (leBytes 8 (inputOf s (i - 0x40)).changeTime)
    | _ => none
  else if 0x20 ≤ i then
    let x := axisOf s (i - 0x20)
    match m with
    | 0x1E => some (leBytes 1 (packBits [auxEnabled s (i - 0x20), x.hysteresis, x.stall]))
    | 0x1F => some (f32Bytes x.iRef)
    | 0x20 => some (f32Bytes x.meanA ++ f32Bytes x.meanB)
    | 0x21 => some (f32Bytes x.loadAngle)
    | _ => none
  else
    let x := encOf s (i - 0x10)
    match m with
    | 7 => some (boolByte x.armed)
    | 8 => some (leBytes 8 x.indexTime)
    | 0x0A => some (latchBytes x.latch)
    | 0x0B => some (leBytes 1 (min x.age 255))
    | 0x0D => some (latchBytes x.probe)
    | 0x1B => some (leBytes 1 (packBits [x.fresh, x.lineFault, x.standstill, x.armed, x.indexDone]))
    | _ => none

/-- `acq.state` and ACQ_STATUS.STATE. -/
def acqCode : AcqMode → Nat
  | .idle => 0
  | .armed => 1
  | .triggered => 2
  | .done => 3
  | .aborted => 4

/-- Bytes of the result of a capture that has ended (R371); 0 while there is none. -/
def acqLength (c : Capture) : Nat :=
  if c.state = .done || c.state = .aborted then 584 + 16 * c.gaps.length + c.rowBytes * c.rows.length else 0

/-- Alarm entries in borrowed room (R376). -/
def borrowedAlarms (s : State) : Nat := (s.logs.alarms.filter (·.borrowed)).length

/-- Class 0xA0: acquisition and logs. -/
def readA0 (s : State) (i m : Nat) : Option Bytes :=
  if i = 0 then
    match m with
    | 0x0A => some (leBytes 1 (acqCode s.acq.capture.state))
    | 0x0B => some (leBytes 4 (acqLength s.acq.capture))
    | _ => none
  else if i = 1 then
    match m with
    | 3 => some (leBytes 4 (borrowedAlarms s))
    | 6 => some (leBytes 4 s.logs.seqAlarm ++ leBytes 4 s.logs.seqEvent ++ leBytes 4 s.logs.seqTrace)
    | _ => none
  else none

/-- Class 0xB0: clocks and power. The field supply and the input power are what the module measures. -/
def readB0 (s : State) (i m : Nat) : Option Bytes :=
  if i = 0 then
    match m with
    | 0 => some (leBytes 1 (refCode s.clocks.reference))
    | 4 => some (intBytes 4 s.clocks.rcTrim)
    | 5 => some (fit 40 (joinBytes (s.clocks.khz.map (leBytes 4))))
    | 8 => some (leBytes 1 (clkoutState s))
    | _ => none
  else if i = 1 then
    match m with
    | 0 => some (leBytes 2 s.power.on.toNat)
    | 4 => some (leBytes 2 s.hw.vin)
    | 5 => some (leBytes 2 (nth 0 s.hw.v24 (1 + Config.ioSupply % 6)))
    | 6 => some (leBytes 2 (Config.freeValue s.freeCount))
    | 7 => some (leBytes 4 (Config.freeValue s.freeCount))
    | 8 => some (intBytes 2 s.hw.dieTemp)
    | _ => none
  else some (boolByte (s.clocks.gates.contains (i - 0x20, m)))

/-- Class 0xC0: the redundant pair. -/
def readC0 (s : State) (m : Nat) : Option Bytes :=
  let p := s.pair
  match m with
  | 6 => some (leBytes 1 (roleCode p.role))
  | 7 => some (fit 16 (tokenBytes p.token))
  | 8 => some (leBytes 2 (gapTicks s))
  | 9 => some (leBytes 1 (mirrorAge s))
  | 0x0A => some (intBytes 4 (nth 0 p.d12 0) ++ intBytes 4 (nth 0 p.d12 1))
  | 0x0B => some (leBytes 1 (packBits [p.peerSilent, p.link, imageEqual s]))
  | 0x0F => some (leBytes 4 p.lastTakeover.1 ++ zeros 4 ++ leBytes 8 p.lastTakeover.2)
  | _ => none

/-- `security.index_state`. -/
def indexCode : IndexMode → Nat
  | .ready => 0
  | .preparing => 1
  | .exhausted => 2
  | .lost => 3

/-- Class 0xD0: security. -/
def readD0 (s : State) (i m : Nat) : Option Bytes :=
  let k := s.sec
  if i = 0 then
    match m with
    | 0 => some (fit 128 (joinBytes (k.otp.roots.map (fit 32))))
    | 1 => some (leBytes 1 k.otp.revoked.toNat)
    | 2 => some (leBytes 1 k.otp.floor)
    | 3 => some (fit 60 k.otp.identity)
    | 4 => some (leBytes 4 k.index.next)
    | 5 => some (leBytes 4 k.index.reservedEnd)
    | 6 => some (leBytes 1 (indexCode (indexMode s)))
    | 8 => some (boolByte (unprovisioned s))
    | 0x20 => some (leBytes 4 s.zewen.viewDenied)
    | _ => none
  else if i < 0x20 then
    let c := nth none k.customer (i - 0x10)
    match m with
    | 0 => some (fit 60 ((c.map (·.key)).getD []))
    | _ => some (leBytes 1 (match c with | some x => 1 + 2 * b2n x.requireCell | none => 0))
  else if i < 0x30 then
    let f := firmware s (i - 0x20)
    if m = 0 then some (leBytes 4 (slotVersion f.bytes)) else some (leBytes 1 f.verify)
  else if 0x41 ≤ i && i ≤ 0x48 then
    match nth none k.hmac (i - 0x41) with
    | none => some (zeros (if m = 0 then 1 else 4))
    | some h => if m = 0 then some (leBytes 1 (b2n h.session + 2 * b2n h.tahixa)) else some (fit 4 (hmac256 h.key [3]))
  else none

/-- Value an object derives from the machine; none where it shows a stored value. -/
def derived (s : State) (key : Nat) : Option Bytes :=
  let i := key / 256 % 256
  let m := key % 256
  match key / 65536 with
  | 0x10 => read10 s i m
  | 0x20 => read20 s i m
  | 0x21 => read21 s i m
  | 0x30 => read30 s i m
  | 0x31 => read31 s i m
  | 0x40 => read40 s i m
  | 0x50 => read50 s i m
  | 0x60 => read60 s i m
  | 0x70 => read70 s i m
  | 0x80 => read80 s i m
  | 0x90 => read90 s i m
  | 0xA0 => readA0 s i m
  | 0xB0 => readB0 s i m
  | 0xC0 => readC0 s m
  | 0xD0 => readD0 s i m
  | _ => none

/-- The value an object returns: WO members read zero (R13). -/
def objValue (s : State) (row : ObjRow) (key : Nat) : Bytes :=
  if row.acc == .wo then zeros row.len0 else (derived s key).getD (leBytes row.len0 (oval s.objs key))

/-! ### Reading (R13, R80, R393) -/

/-- What was added to a counter object in the clock in progress (R14). -/
def freshCount (s : State) (key : Nat) : Nat := tget 0 s.fresh.objs key

/-- The value a read returns: an RC counter shows no increment of the same clock (R14). [DESIGN CHOICE, log 124] -/
def readValue (s : State) (row : ObjRow) (key : Nat) : Bytes :=
  if row.acc == .rc && (derived s key).isNone then leBytes row.len0 (oval s.objs key - freshCount s key) else objValue s row key

/-- What a read does: an RC item is cleared but for an increment of the same clock (R13, R14), and the oldest host frame is removed
(R120). -/
def readEffect (s : State) (row : ObjRow) (key : Nat) : State :=
  if row.acc != .rc then s
  else if key = 0x70000C then (dynRxRead s).2
  else if key = 0x100106 then withSched s (fun c => { c with storeMax := 0 })
  else if key / 65536 = 0x10 && 0x1010 ≤ key / 256 && key % 256 = 1 then
    withSched s (fun c => { c with cores := upd c.cores (key / 256 % 256 - 0x10) (fun k => { k with queueMax := 0 }) })
  else { s with objs := oput s.objs key (min (freshCount s key) (oval s.objs key)) }

/-- Counts one unprivileged access to a gated block (R393). [DEDUCED, log 102] -/
def countGated (s : State) : State :=
  withFresh { s with reg := { s.reg with gatedAccess := satNat 32 (s.reg.gatedAccess + 1) } } (fun c => { c with gated := c.gated + 1 })

/-- How a key of an OBJ_READ is read. -/
inductive ReadCase where
  | full | denied | closed
  deriving DecidableEq, Repr

def readCase (s : State) (priv : Bool) (row : ObjRow) (key : Nat) : ReadCase :=
  if !priv && readLimited key row then .denied else if objectDown s key then .closed else .full

/-- Bytes a key adds to the result. -/
def readSize (s : State) (priv : Bool) (row : ObjRow) (key : Nat) : Nat :=
  8 + padded (if readCase s priv row key = .full then (objValue s row key).length else row.len0)

/-- One key is read: its record is appended. -/
def readOne (priv : Bool) (x : State × Bytes × Bool) (key : Nat) : State × Bytes × Bool :=
  let (s, out, limited) := x
  match objRow key with
  | none => x
  | some row =>
    match readCase s priv row key with
    | .denied => (countDenied s, out ++ recordForm key row.ty (zeros row.len0), true)
    | .closed => (countGated s, out ++ recordForm key row.ty (zeros row.len0), limited)
    | .full => (readEffect s row key, out ++ recordForm key row.ty (readValue s row key), limited)

/-- Keys of an OBJ_READ. -/
def readKeys (a : Bytes) : List Nat := (List.range (le a 0 2)).map (fun i => le a (4 + 4 * i) 4 % 2 ^ 24)

/-- OBJ_READ (R80). -/
def objRead (e : Entry) (_ : Transport) (s : State) : State :=
  let o := originOf e
  let priv := sessionPriv s e.mbx
  let keys := readKeys (entryArgs e)
  if keys.isEmpty || 54 < keys.length then complete s o stBadArgument
  else
    match (indexed keys).find? (fun k => (objRow k.2).isNone) with
    | some k => complete s o stNoObject (leBytes 4 k.1)
    | none =>
      let size := sumNat (keys.map (fun k => match objRow k with | some row => readSize s priv row k | none => 0))
      if !resultFits e size then complete s o stBadLength
      else
        match keys.find? (fun k => priv && objectDown s k) with
        | some k => complete s o stPrecondition (leBytes 4 k)
        | none =>
          let r := keys.foldl (readOne priv) (s, [], false)
          complete r.1 o (if r.2.2 then stViewLimited else stOk) r.2.1

/-- The arguments hold COUNT keys. -/
def objReadLen (e : Entry) : Bool :=
  let a := entryArgs e
  decide (4 ≤ a.length) && a.length == 4 + 4 * le a 0 2

def execObjRead (clk : Nat) (e : Entry) (s : State) : Host.Outcome State Fault Refusal :=
  .next (command { opcode := 0x0020 } (fun _ => false) objReadLen objRead clk e s)

end Sys2Proof.Machine
end

