-- ==== Sys2Proof/Machine/Zones.lean ====
section
/-! DEFINITION. The conditions a zone must meet and the conflicts between zones (09_piste_reservation.md R194 to R196), in exact
arithmetic on the values the objects hold. -/

namespace Sys2Proof.Machine

/-! ### Exact vectors -/

/-- Comparison of values that are numbers. -/
def vLe (a b : Val) : Bool :=
  match vCmp a b with
  | some .lt => true
  | some .eq => true
  | _ => false

def vLt (a b : Val) : Bool := vCmp a b == some .lt

/-- Exact sum. -/
def vSum (l : List Val) : Val := l.foldl vAdd (vInt 0)

/-- A vector of exact numbers. -/
abbrev Exact := Val × Val × Val

def exDot (a b : Exact) : Val := vSum [vMul a.1 b.1, vMul a.2.1 b.2.1, vMul a.2.2 b.2.2]
def exNeg (a : Exact) : Exact := (vNeg a.1, vNeg a.2.1, vNeg a.2.2)
def exCross (a b : Exact) : Exact :=
  let minus := fun (x y z w : Val) => vAdd (vMul x y) (vNeg (vMul z w))
  (minus a.2.1 b.2.2 a.2.2 b.2.1, minus a.2.2 b.1 a.1 b.2.2, minus a.1 b.2.1 a.2.1 b.1)

def vZero (a : Val) : Bool := vCmp a (vInt 0) == some .eq
def exZero (a : Exact) : Bool := vZero a.1 && vZero a.2.1 && vZero a.2.2

def exOf (v : Vec F32) : Exact := (fVal v.1, fVal v.2.1, fVal v.2.2)

/-- The length of a vector whose squares sum to `n` lies within 10^(−k) of 1. -/
def unitWithin (k : Nat) (n : Val) : Bool :=
  let m := vMul n (vInt ((10 ^ (2 * k) : Nat)))
  vLe (vInt (((10 ^ k - 1) ^ 2 : Nat))) m && vLe m (vInt (((10 ^ k + 1) ^ 2 : Nat)))

/-- A quaternion of binary64 passes the test of R24. -/
def unitQuat (q : Quat F64) : Bool :=
  let sq := fun (x : F64) => vMul (dVal x) (dVal x)
  unitWithin 9 (vSum [sq q.1, sq q.2.1, sq q.2.2.1, sq q.2.2.2])

/-! ### R194 -/

/-- Half-spaces of a zone, exact. -/
def exPlanes (objs : List (Nat × Nat)) (z : Nat) : List (Exact × Val) := (zonePlanes objs z).map (fun h => (exOf h.1, fVal h.2))

/-- Every normal has unit length within 10⁻⁶. -/
def normalsOk (hs : List (Exact × Val)) : Bool := hs.all (fun h => unitWithin 6 (exDot h.1 h.1))

/-- No non-zero direction v has n·v ≤ 0 for every half-space. Such a cone, where it exists, holds an edge along which two of the normals
vanish, unless all the normals are parallel. -/
def boundedZone (hs : List (Exact × Val)) : Bool :=
  let edges := ((indexed hs).flatMap (fun a => (hs.drop (a.1 + 1)).map (fun b => exCross a.2.1 b.1))).filter (fun v => !exZero v)
  let inCone := fun (v : Exact) => hs.all (fun h => vLe (exDot h.1 v) (vInt 0))
  !edges.isEmpty && edges.all (fun v => !inCone v && !inCone (exNeg v))

/-- `piste.zone_point` lies inside every half-space by at least `plan.zone_margin_mm`. -/
def pointOkFor (objs : List (Nat × Nat)) (z : Nat) (hs : List (Exact × Val)) : Bool :=
  let f := fun o => fVal (obF32At objs 0x40 z 1 o)
  let p : Exact := (f 0, f 4, f 8)
  hs.all (fun h => vLe (fVal (obF objs 0x30 0 8)) (vMul (vInt 1000) (vAdd h.2 (vNeg (exDot h.1 p)))))

/-! ### R195 -/

/-- Some point lies at least `depth` pm inside every half-space. A bounded region that is not empty has a corner, where three of its
planes meet. -/
def meetAt (depth : Int) (hs : List (Exact × Val)) : Bool :=
  let up := fun (v : Val) => vMul (vInt 1000000000000) v
  let scaled : List (Exact × Val) := hs.map (fun h => ((up h.1.1, up h.1.2.1, up h.1.2.2), vAdd (up h.2) (vInt (-depth))))
  let triples := (indexed scaled).flatMap (fun a => (indexed (scaled.drop (a.1 + 1))).flatMap (fun b =>
    (scaled.drop (a.1 + 1 + b.1 + 1)).map (fun c => (a.2, b.2, c))))
  triples.any (fun t =>
    let (a, b, c) := t
    let bc := exCross b.1 c.1
    let ca := exCross c.1 a.1
    let ab := exCross a.1 b.1
    let det := exDot a.1 bc
    let coord := fun (x y z : Val) => vSum [vMul a.2 x, vMul b.2 y, vMul c.2 z]
    let p : Exact := (coord bc.1 ca.1 ab.1, coord bc.2.1 ca.2.1 ab.2.1, coord bc.2.2 ca.2.2 ab.2.2)
    !vZero det && scaled.all (fun h =>
      if vLt (vInt 0) det then vLe (exDot h.1 p) (vMul h.2 det) else vLe (vMul h.2 det) (exDot h.1 p)))

/-- Two used zones conflict (R195). The module decides in binary64: within 1 nm of the 0.1 mm the outcome is free. [DESIGN CHOICE, log 59]
-/
def zonesMeet (objs : List (Nat × Nat)) (z w : Nat) : Bool :=
  z == w ||
    (let hs := exPlanes objs z ++ exPlanes objs w
     meetAt 100001000 hs || (meetAt 99999000 hs && Config.zoneEdge (min z w) (max z w)))

/-- The conflicting pairs z ≤ w of used zones. -/
def zoneConflicts (objs : List (Nat × Nat)) : List (Nat × Nat) :=
  let used := (List.range 256).filter (zoneUsed objs)
  used.flatMap (fun z => (used.filter (fun w => decide (z ≤ w) && zonesMeet objs z w)).map (fun w => (z, w)))

end Sys2Proof.Machine
end

