-- ==== Sys2Proof/Machine/Check.lean ====
section
/-! DEFINITION. The configuration check: its parts, the staged configuration and the refusal report (02_modes_and_start.md R52, R53;
03_zewen_interface.md R83 to R85; the rules each part names). -/

namespace Sys2Proof.Machine

/-! ### Findings and the refusal report (R53) -/

/-- IMAGE_OFFSET, and INDEX of the second pass of check 3, where there is none. -/
def noOffset : Nat := 0xFFFFFFFF

/-- The first failing item of a check. -/
structure Finding where
  check : Nat
  kind : Nat
  key : Nat := 0
  index : Nat := 0
  offset : Nat := noOffset
  required : Nat := 0
  available : Nat := 0
  /-- Code of check 4 for `safety.set_error`. -/
  setError : Nat := 0

/-- `cell.refusal_report` (Table 2-8). -/
def reportBytes (f : Finding) : Bytes :=
  let times := if f.kind = 2 then (f.required, f.available) else (0, 0)
  leBytes 1 f.check ++ leBytes 1 f.kind ++ zeros 2 ++ leBytes 4 f.key ++ leBytes 4 f.index ++ leBytes 4 f.offset ++ leBytes 8 times.1 ++
    leBytes 8 times.2 ++ leBytes 8 (times.1 - times.2)

/-! ### Check 1: header, length, sections, digest (R83, R84) -/

/-- Sections of an image: offset and length of the records, the safety set and the signature. -/
def writesAt (img : Bytes) : Nat × Nat := (le img 12 4, le img 20 4)
def safetyAt (img : Bytes) : Nat × Nat := (le img 24 4, le img 28 4)
def sigAt (img : Bytes) : Nat × Nat := (le img 32 4, le img 36 4)
def imageSigned (img : Bytes) : Bool := bit (le img 6 2) 0
def imageSafety (img : Bytes) : Bool := bit (le img 6 2) 1

/-- First record that does not fit, by its offset. -/
def badRecord : Nat → Nat → Bytes → Option Nat
  | 0, at_, bs => if bs.isEmpty then none else some at_
  | fuel + 1, at_, bs =>
    if bs.isEmpty then none
    else
      let size := 8 + padded (le bs 4 2)
      if bs.length < size then some at_ else badRecord fuel (at_ + size) (bs.drop size)

/-- A flag is set exactly when its section has a length, and the offset is 0 where it is clear. -/
def flagOk (flag : Bool) (sec : Nat × Nat) : Bool := (flag == (sec.2 != 0)) && (flag || sec.1 == 0)

/-- A section starts on a 4-byte boundary at or after `from_` and ends inside the image. -/
def sectionOk (from_ : Nat) (sec : Nat × Nat) (img : Bytes) : Bool :=
  decide (from_ ≤ sec.1) && sec.1 % 4 == 0 && decide (sec.1 + sec.2 ≤ img.length)

/-- DIGEST of Table 3-14. -/
def imageDigest (img : Bytes) : Bytes :=
  let e := if imageSigned img then (sigAt img).1 else img.length
  sha256 (img.take 64 ++ (img.take e).drop 96)

/-- Check 1 on the bytes delivered. -/
def check1 (img : Bytes) : Option Finding :=
  let fail := fun (o : Nat) => some ({ check := 1, kind := 0, offset := o } : Finding)
  let w := writesAt img
  let sf := safetyAt img
  let sg := sigAt img
  let afterW := w.1 + w.2
  let afterS := if imageSafety img then sf.1 + sf.2 else afterW
  let records := (img.drop w.1).take w.2
  if img.length < 96 || le img 0 4 != 0x4D49435A || le img 4 2 != 1 || le img 8 4 != img.length || 33554432 < img.length || w.1 != 96 ||
      !flagOk (imageSafety img) sf || !flagOk (imageSigned img) sg then fail 0
  else if !sectionOk 96 w img then fail w.1
  else if imageSafety img && !sectionOk afterW sf img then fail sf.1
  else if imageSigned img && !sectionOk afterS sg img then fail sg.1
  else
    match badRecord (w.2 / 8) w.1 records with
    | some o => fail o
    | none =>
      if ((parseRecords records).map (·.length)) != some (le img 16 4) then fail w.1
      else if imageDigest img != slice img 64 32 then fail 0
      else none

/-- The write records of an image that passed check 1, with their offsets in the image. -/
def imageRecords (img : Bytes) : List (Nat × WriteRecord) :=
  ((parseRecords ((img.drop 96).take (writesAt img).2)).getD []).map (fun r => (96 + r.1, r.2))

/-! ### Check 2: the customer's signature (R421) -/

def check2 (s : State) (img : Bytes) : Option Finding :=
  let required := (List.range 2).find? (fun i => (nth none s.sec.customer i).any (·.requireCell))
  let at_ := sigAt img
  let section_ := slice img at_.1 at_.2
  let fail := fun (kind slot o : Nat) => some ({ check := 2, kind := kind, index := slot, offset := o } : Finding)
  if !imageSigned img then required.bind (fun slot => fail 0 slot noOffset)
  else
    let named := le section_ 4 1
    match sigSection section_ with
    | none => fail 0 named at_.1
    | some (slot, sig) =>
      match nth none s.sec.customer slot with
      | none => fail 0 slot at_.1
      | some k => if hssVerify k.key sig (img.take at_.1) == .ok then none else fail 1 slot at_.1

/-! ### The safety-set section (R330) -/

/-- A well-formed safety set: records, connection ID and version. -/
structure SafetySet where
  records : List WriteRecord
  connectionId : Nat
  version : Nat

/-- A record of the set names an object of the set with its type and length. -/
def setRecordOk (r : WriteRecord) : Bool :=
  match objRow r.key with
  | some row => row.safety && r.type == row.ty && decide (row.len0 ≤ r.value.length) && decide (r.value.length ≤ row.len1)
  | none => false

/-- Key of the first record of the set that breaks R330. -/
def badSetRecord : Option Nat → List WriteRecord → Option Nat
  | _, [] => none
  | last, r :: rest => if setRecordOk r && last.all (fun k => decide (k < r.key)) then badSetRecord (some r.key) rest else some r.key

/-- The set of a section, or the key of what is wrong with it; 0 for its header. -/
def parseSet (sec : Bytes) : Except Nat SafetySet :=
  if sec.length < 32 || le sec 0 4 != 0x45464153 || le sec 4 2 != 1 || le sec 8 4 = 0 || le sec 16 4 + 32 != sec.length then .error 0
  else
    match parseRecords (sec.drop 32) with
    | none => .error 0
    | some rs =>
      if rs.length != le sec 12 4 then .error 0
      else
        match badSetRecord none (rs.map (·.2)) with
        | some k => .error k
        | none => .ok { records := rs.map (·.2), connectionId := le sec 8 4, version := le sec 20 4 }

def setOf (sec : Bytes) : Option SafetySet :=
  match parseSet sec with
  | .ok x => some x
  | .error _ => none

/-- An object of the safety set. -/
def safetyKey (key : Nat) : Bool := (objRow key).any (·.safety)

/-- Objects with a safety set in place of the one they hold: what the set does not name takes its default. -/
def withSet (objs : List (Nat × Nat)) (x : SafetySet) : List (Nat × Nat) :=
  x.records.foldl (fun o r => oput o r.key (leNat r.value)) (objs.filter (fun e => !safetyKey e.1))

/-- Objects of the set that have no default and that a present arm, sensor, input or output needs (R330). [DEDUCED, log 121] -/
def neededKeys (objs : List (Nat × Nat)) : List Nat :=
  (((List.range 8).filter (armPresent objs)).flatMap (fun a =>
      (List.range 8).map (fun j => okey 0x20 a (0x10 + j)) ++
        [okey 0x20 a 0x18, okey 0x20 a 0x19, okey 0x50 (0x70 + a) 0, okey 0x50 (0x70 + a) 1, okey 0x50 (0x70 + a) 2, okey 0x60 (0x20 + a) 0])) ++
    ((List.range 16).filter (sensorPresent objs)).flatMap (fun k => [1, 2, 3, 4].map (fun m => okey 0x50 (0x60 + k) m)) ++
    [okey 0x50 0x80 2] ++
    ((List.range 16).filter (fun n => decide (1 ≤ inFunction objs n) && decide (inFunction objs n ≤ 4))).map (fun n => okey 0x60 n 3) ++
    ((List.range 8).filter (fun n => outFunction objs n = 1)).map (fun n => okey 0x60 (0x10 + n) 1)

/-! ### The staged configuration (R85) -/

/-- An object a cell image configures. -/
def configKey (key : Nat) : Bool := (objRow key).any (fun r => r.acc == .rw || r.safety)

/-- Configuration objects of one list and every other object of another. -/
def mixObjs (config other : List (Nat × Nat)) : List (Nat × Nat) :=
  (config.filter (fun e => configKey e.1)).foldl (fun o e => tput o e.1 e.2) (other.filter (fun e => !configKey e.1))

/-- A record that loads or unloads a solver structure, or loads a kernel. [DEDUCED, log 57] -/
def loadsProgram (r : WriteRecord) : Bool :=
  let i := r.key / 256 % 256
  let m := r.key % 256
  (r.key / 65536 == 0x31 && 0x10 ≤ i && i ≤ 0x17 && (m == 0 || m == 3)) || (r.key / 65536 == 0x10 && 8 ≤ i && i ≤ 0x0B && m == 0)

/-- A record of the right form. -/
def wellFormedRecord (r : WriteRecord) : Bool := (objRow r.key).any (fun row => writable row && r.type == row.ty && lengthOk row r.key r.value)

/-- Solver slots the records load. -/
def imageSlots (rs : List WriteRecord) : List Nat :=
  (List.range 8).filter (fun i => rs.any (fun r => r.key = okey 0x31 (0x10 + i) 0))

/-- Analysis of every slot whose description is complete. [DEDUCED, log 57] -/
def analyseAll (s : State) : State := (List.range 8).foldl analysisDone s

/-- Slot of the planner: the lowest one the image does not load (R176). -/
def plannerSlot (rs : List WriteRecord) : Option Nat := (List.range 8).find? (fun i => !(imageSlots rs).contains i)

/-- The planner's structure is built and loaded, where there are arms to plan. -/
def loadPlanner (s : State) (rs : List WriteRecord) : State :=
  match plannerSlot rs with
  | none => withPlan s (fun p => { p with resident := false })
  | some i =>
    if (plannedArms s.objs).isEmpty then withPlan s (fun p => { p with slot := i, resident := false })
    else
      let s1 := setSlot (solverUnload s i) i (fun g => { g with load := .analysing, structure? := some (plannerStructure s.objs) })
      withPlan (analysisDone s1 i) (fun p => { p with slot := i, resident := true, speedKnots := sepKnots s.objs })

/-- A slot that the planner leaves is empty. -/
def unloadPlanner (s : State) : State := if s.plan.resident then solverUnload s s.plan.slot else s

/-- Objects with those an image writes: its records in order, and its safety set (R85, R457). -/
def imageObjs (objs : List (Nat × Nat)) (img : Bytes) : List (Nat × Nat) :=
  let objs0 := stageObjs objs (((imageRecords img).map (·.2)).filter wellFormedRecord)
  match setOf (safetySection img) with
  | some x => withSet objs0 x
  | none => objs0

/-- The state in which the ranges and rules are judged: the staged configuration in CONFIGURE, with the image's kernels and structures. -/
def stagedState (s : State) (c : Commit) : State :=
  let rs := ((imageRecords c.image).map (·.2)).filter wellFormedRecord
  let objs1 := imageObjs (mixObjs c.base s.objs) c.image
  let s1 := unloadPlanner { s with
    objs := objs1, mode := { s.mode with mode := .configure, target := none, accepted := none }, net := { s.net with cycleNs := otick objs1 } }
  let s2 := (rs.filter loadsProgram).foldl applyRecord s1
  loadPlanner (analyseAll s2) rs

/-- The staged configuration holds a safety set: the image's or the one in force. [DEDUCED, log 74] -/
def stagedSet (s : State) (img : Bytes) : Bool :=
  if imageSafety img then (setOf (safetySection img)).isSome else s.safety.inForce

/-! ### Check 3, first pass (R78, R85) -/

/-- KIND of a record that fails; none for one that passes. A kernel that the record completes is verified with it (R281). [DEDUCED, log 58]
-/
def recordFails (g : State) (done : State) (r : WriteRecord) : Option Nat :=
  match judgeForm { g with mode := { g.mode with mode := .configure } } true false r with
  | some st => some (if st = stReadOnly then 1 else 0)
  | none =>
    match objRow r.key with
    | none => some 0
    | some row =>
      if !rangeOk g g.objs row r.key r.value then some 1
      else if r.key / 65536 = 0x10 && r.key % 256 = 0 && loadsProgram r then
        (let k := r.key / 256 % 256 - 8
         let was := (nth {} done.dsp.kernels k).load
         let is := (nth {} (applyRecord done r).dsp.kernels k).load
         if is = .refused && was != .refused then some 1 else none)
      else none

/-- The first record that fails: `g` is the staged state, `done` the staged objects with the records before applied. -/
def firstRecord (g : State) : State → Nat → List (Nat × WriteRecord) → Option Finding
  | _, _, [] => none
  | done, i, r :: rest =>
    match recordFails g done r.2 with
    | some kind => some { check := 3, kind := kind, key := r.2.key, index := i, offset := r.1 }
    | none => firstRecord g (if loadsProgram r.2 then applyRecord done r.2 else done) (i + 1) rest

/-! ### Check 3, second pass: ranges of the items in use (R457) -/

/-- A channel whose objects are in use: a present joint, an auxiliary axis with lines or a loop, a conveyor axis with an encoder. -/
def channelUsed (objs : List (Nat × Nat)) (ch : Nat) : Bool :=
  if ch < 64 then jointPresent objs ch
  else if ch < 72 then ob objs 0x90 (0x20 + (ch - 64)) 0 != 0 || ob objs 0x21 ch 0x40 == 1 || ob objs 0x21 ch 0x60 == 1
  else ob objs 0x21 ch 0x11 != 0xFF

/-- An object belongs to an item in use. -/
def itemUsed (objs : List (Nat × Nat)) (key : Nat) : Bool :=
  let i := key / 256 % 256
  let m := key % 256
  match key / 65536 with
  | 0x10 => if 8 ≤ i && i ≤ 0x0B then ob objs 0x10 i 3 == 1 else true
  | 0x20 => armPresent objs i
  | 0x21 => if m < 0x40 then channelUsed objs i else if m < 0x60 then ob objs 0x21 i 0x40 == 1 else ob objs 0x21 i 0x60 == 1
  | 0x30 => if i = 0 then true else armPresent objs (i - 0x10)
  | 0x40 => if m = 0 || m = 1 then zoneUsed objs i else if m = 0xC0 then armPresent objs i else true
  | 0x70 => if i = 0 then true else nodePresent objs i
  | 0x90 =>
    if 0x10 ≤ i && i < 0x18 then ob objs 0x90 i 0 != 0 || ob objs 0x90 i 0x0F != 0
    else if 0x20 ≤ i && i < 0x28 then ob objs 0x90 i 0 != 0
    else true
  | _ => true

/-- Stored members of a class that can be configured, by key. [DEDUCED, log 121] -/
def storedKeys (c : Nat) : List (Nat × ObjRow) :=
  let rows := (objClass c).filter (fun r => r.acc == .rw)
  (List.range 256).flatMap (fun i =>
    let ms := (rows.filter (fun r => decide (r.i0 ≤ i) && decide (i ≤ r.i1))).flatMap (fun r => (List.range (r.m1 + 1 - r.m0)).map (fun d => (r.m0 + d, r)))
    (sortBy (fun (a b : Nat × ObjRow) => decide (a.1 < b.1)) ms).map (fun m => (okey c i m.1, m.2)))

/-- Classes in ascending order. -/
def objClasses : List Nat := [0x10, 0x20, 0x21, 0x30, 0x31, 0x40, 0x50, 0x60, 0x70, 0x80, 0x90, 0xA0, 0xB0, 0xC0, 0xD0]

/-- The lowest key of an item in use whose value is out of range. -/
def rangeFinding (g : State) : Option Nat :=
  ((objClasses.flatMap storedKeys).find? (fun k =>
    itemUsed g.objs k.1 && !rangeOk g g.objs k.2 k.1 (leBytes k.2.len1 (oval g.objs k.1)))).map (·.1)

/-! ### Check 3, second pass: the rules by label -/

/-- The first key of a list of conditions, each with the key it names. -/
def firstBroken (l : List (Bool × Nat)) : Option Nat := (l.find? (·.1)).map (·.2)

/-- An absent joint has a slot or a capsule: a FEEDBACK or COMMAND slot of its channel, or an enabled capsule of the link it moves (R23,
R292). [DEDUCED, log 149] -/
def absentJointUsed (o : List (Nat × Nat)) (j : Nat) : Bool :=
  let bound := fun (node bind : Nat → Nat) (b : Nat) => (List.range 120).any (fun k => node k != 0 && bind k == b)
  !jointPresent o j && (bound (upNode o) (upBinding o) (0x1000 + j) || bound (downNode o) (downBinding o) (0x8000 + j) ||
    (capsule o (10 * (j / 8) + j % 8 + 1)).on)

/-- R23, R24, R91 and R136. -/
def cellRules (g : State) : List (Bool × Nat) :=
  let o := g.objs
  let entries := fun (node kind : Nat → Nat) => (List.range 120).any (fun k => node k != 0 && kind k == 2)
  [((List.range 64).any (fun j => bit (ob o 0x10 0 1) j && !armPresent o (j / 8)), okey 0x10 0 1),
    ((List.range 64).any (absentJointUsed o), okey 0x10 0 1)] ++
    (List.range 8).map (fun a => (armPresent o a && !unitQuat (obQuat o 0x20 a 1 0), okey 0x20 a 1)) ++
    [(ob o 0x80 0 0 == 1 && ob o 0x80 0x10 2 != 1 && ob o 0x80 0x11 2 != 1, okey 0x80 0 0),
     ((ob o 0x70 0 0x20 == 0 || ob o 0x70 0 0x20 == 2) && (entries (downNode o) (downKind o) || entries (upNode o) (upKind o)), okey 0x70 0 0x20)]

/-- R154 and R176. [DEDUCED, log 53] -/
def plannerRules (g : State) (rs : List WriteRecord) : List (Bool × Nat) :=
  let o := g.objs
  let arms := List.range 8
  [(decide (ob o 0x30 0 4 * 1000 < ob o 0x30 0 0 * ob o 0x30 0 5), okey 0x30 0 4)] ++
    arms.map (fun a => (!tailFits o (ob o 0x30 (0x10 + a) 0), okey 0x30 (0x10 + a) 0)) ++
    [(decide (ob o 0x30 0 2 ≤ ob o 0x30 0 1), okey 0x30 0 1),
     (decide (periodNs o + ob o 0x40 0 0x80 < ob o 0x30 0 2 * 1000 + commitBudgetNs o + otick o), okey 0x30 0 2),
     (arms.any (fun a => !marginFits o a (ob o 0x30 (0x10 + a) 0)), okey 0x30 0 8),
     (ob o 0x30 0 6 != 0 && (plannerSlot rs).isNone, okey 0x30 0 6)]

/-- R194 and R196. -/
def zoneRules (g : State) : List (Bool × Nat) :=
  let o := g.objs
  let homeBroken := fun a => match homeZone o a with
    | none => false
    | some z => !zoneUsed o z || (List.range 8).any (fun b => b != a && (homeZone o b).any (fun w => zoneUsed o w && zonesMeet o z w))
  ((List.range 256).filter (zoneUsed o)).flatMap (fun z =>
      let hs := exPlanes o z
      [(!normalsOk hs || !boundedZone hs, okey 0x40 z 0), (!pointOkFor o z hs, okey 0x40 z 1)]) ++
    (List.range 8).map (fun a => (homeBroken a, okey 0x40 a 0xC0))

/-- R237: limits of a channel in use. -/
def channelRules (g : State) : List (Bool × Nat) :=
  let o := g.objs
  ((List.range 72).filter (channelUsed o)).flatMap (fun ch =>
    let speed := vMul (obV o 0x21 ch 3) (dVal (obD o 0x21 ch 0))
    [(!decide (softMin o ch < sext 64 (ob o 0x21 ch 2)), okey 0x21 ch 1),
     (!vLe speed (vInt (if ch < 64 then 100000000 else 5000000)), okey 0x21 ch 3),
     (decide (64 ≤ ch) && !vLe (vMul (vInt (2 * (ob o 0x21 ch 0x10 : Nat))) speed) (vInt 1000000000), okey 0x21 ch 0x10)])

/-- A matrix object of a loop: member offset, blocks, rows and columns it has room for, and those in use. -/
def loopMatrices (d : Dims) : List (Nat × Nat × Nat × Nat × Nat × Nat) :=
  [(5, 1, 8, 8, d.n, d.n), (6, 8, 8, 2, d.n, d.m), (7, 8, 8, 2, d.n, d.m), (8, 1, 4, 8, d.p, d.n), (9, 1, 8, 4, d.n, d.p),
   (0x0A, 1, 2, 8, d.m, d.n), (0x0B, 1, 2, 4, d.m, d.q), (0x0C, 1, 2, 2, d.m, d.g)]

/-- Some entry outside the dimensions is not 0. -/
def matrixSpills (o : List (Nat × Nat)) (ch mem blocks rows cols r c : Nat) : Bool :=
  (List.range (blocks * rows * cols)).any (fun i =>
    (decide (r ≤ i / cols % rows) || decide (c ≤ i % cols)) && !fEq (obF32At o 0x21 ch mem (4 * i)) 0)

/-- R240 for one enabled loop; `off` is 0x40 for the inner and 0x60 for the outer loop. -/
def loopRules (o : List (Nat × Nat)) (ch off : Nat) : List (Bool × Nat) :=
  let d := loopDims o ch off
  let inner := loopDims o ch 0x40
  let outer := loopDims o ch 0x60
  let key := fun m => okey 0x21 ch m
  let limit := fun m i => obF32At o 0x21 ch (off + m) (4 * i)
  let v := fun m => leBytes 8 (ob o 0x21 ch m)
  [(!dimsOk (v (off + 1)), key (off + 1)), (decide (0 < d.pos / 2 ^ d.n), key (off + 1))] ++
    (loopMatrices d).map (fun x => (matrixSpills o ch (off + x.1) x.2.1 x.2.2.1 x.2.2.2.1 x.2.2.2.2.1 x.2.2.2.2.2, key (off + x.1))) ++
    [(!(fLt (limit 0x0D 0) (limit 0x0E 0) && fLt (limit 0x0D 1) (limit 0x0E 1)), key (off + 0x0D)),
     (!rateOk o (off = 0x60) (ob o 0x21 ch (off + 2)), key (off + 2))] ++
    (if off = 0x60 then [(ob o 0x21 ch 0x40 != 1, key 0x40)] else []) ++
    [(!phaseOk o ch (off = 0x60) (ob o 0x21 ch (off + 3)), key (off + 3))] ++
    (if off = 0x60 then [(decide (2 < d.q), key 0x61)]
     else [(decide (3 ≤ d.q) && !(ob o 0x21 ch 0x60 == 1 && decide (inner.q ≤ outer.m + 2)), key 0x41)]) ++
    [(decide (ch < 64) && !jointPresent o ch, okey 0x10 0 1)]

/-- R240. -/
def controlRules (g : State) : List (Bool × Nat) :=
  (List.range 72).flatMap (fun ch => [0x40, 0x60].flatMap (fun off => if ob g.objs 0x21 ch off = 1 then loopRules g.objs ch off else []))

/-- A BINDING names a source of its direction (Table 12-2). [DEDUCED, log 65] -/
def bindingOk (up : Bool) (b : Nat) : Bool :=
  let i := b % 0x1000
  match b / 0x1000 with
  | 1 => up && decide (i < 72)
  | 4 => up && decide (i < 16)
  | 5 => up && decide (i < 64)
  | 6 => up && decide (i < 256)
  | 8 => !up && decide (i < 72)
  | 9 => !up && i == 0
  | 0x0A => !up && decide (i < 256)
  | _ => false

/-- A SAFETY slot is bound to SAFE_IN, PERSONS or SAFE_CMD. -/
def safetyBinding (b : Nat) : Bool := b / 0x1000 == 4 || b / 0x1000 == 5 || b / 0x1000 == 9

/-- R258. The parts of one person list share their source (R289). [DEDUCED, log 65] -/
def bindingRules (g : State) : List (Bool × Nat) :=
  let o := g.objs
  let slots := fun (node bind : Nat → Nat) => (List.range 120).filter (fun k => node k != 0 && bind k != 0xFFFF)
  let ups := slots (upNode o) (upBinding o)
  let downs := slots (downNode o) (downBinding o)
  let shared := fun k => decide (upBinding o k / 0x1000 ≠ 4) && ups.any (fun j => decide (j < k) && upBinding o j == upBinding o k)
  downs.map (fun k => (!bindingOk false (downBinding o k) || (downKind o k == 2 && !safetyBinding (downBinding o k)), okey 0x70 0 3)) ++
    ups.map (fun k => (!bindingOk true (upBinding o k) || shared k || (upKind o k == 2 && !safetyBinding (upBinding o k)), okey 0x70 0 4)) ++
    (List.range 64).flatMap (fun ch => [0x40, 0x60].map (fun off =>
      (ob o 0x21 ch off == 1 && !(ups.any (fun k => upBinding o k = 0x1000 + ch) && downs.any (fun k => downBinding o k = 0x8000 + ch)), okey 0x21 ch off)))

/-- An enabled capsule breaks R293. -/
def capsuleBroken (o : List (Nat × Nat)) (k : Nat) : Bool :=
  let c := capsule o k
  c.on && ((decide (k < 80) && (c.arm != k / 10 || c.link != k % 10)) || decide (7 < c.arm) || decide (9 < c.link) ||
    !(fLt 0 c.radius && fLe c.radius (fOfInt 1)))

/-- R293 and R296, where there is a safety set. [DEDUCED, log 74] -/
def separationRules (g : State) : List (Bool × Nat) :=
  let o := g.objs
  (List.range 96).map (fun k => (capsuleBroken o k, okey 0x50 k 0)) ++
    ((List.range 8).filter (armPresent o)).flatMap (fun a =>
      (List.range 8).map (fun j => (!unitQuat (kinEntry o a j).rot, okey 0x20 a (0x10 + j))) ++ [(!unitQuat (obQuat o 0x20 a 0x18 24), okey 0x20 a 0x18)]) ++
    [(decide (ob o 0x50 0x80 0 < ((List.range 16).filter (sensorPresent o)).length), okey 0x50 0x80 0)] ++
    (List.range 16).map (fun k => (sensorPresent o k && (slotsBound o (0x4000 + k)).isEmpty, okey 0x50 (0x60 + k) 0)) ++
    (List.range 8).map (fun a => (!vLt (obV o 0x50 (0x70 + a) 3) (obV o 0x50 (0x70 + a) 4), okey 0x50 (0x70 + a) 4)) ++
    [(!vLe (vInt 2) (obV o 0x50 0x80 2), okey 0x50 0x80 2)]

/-- Mode of an encoder interface; 0 OFF for a number that is none. -/
def encoderMode (o : List (Nat × Nat)) (e : Nat) : Nat := if e < 8 then ob o 0x90 (0x10 + e) 0 else 0

/-- The transaction of an absolute encoder does not fit its tick (R353): SSI as R348 has it, LINK with 14 characters of 10 bits. -/
def transactionLate (o : List (Nat × Nat)) (e : Nat) : Bool :=
  let f := fun m => ob o 0x90 (0x10 + e) m
  let rest := f 9 + 400 + 1000 * f 0x17
  if f 0 = 2 then
    let bits_ := 1 + f 0x12 + b2n (bit (f 0x13) 1) + f 0x14
    decide (otick o * f 0x11 < rest * f 0x11 + bits_ * 1000000)
  else if f 0 = 3 then decide (otick o < rest + 140 * (match f 0x19 with | 0 => 400 | 1 => 200 | _ => 100))
  else false

/-- R337, R353 and R356. -/
def fieldRules (g : State) : List (Bool × Nat) :=
  let o := g.objs
  let named := fun e => e != 0xFF && encoderMode o e == 0
  (List.range 32).map (fun i =>
      let f := fun m => ob o 0x90 (0x40 + i) m
      (!(decide (f 2 < f 1) && decide (f 1 ≤ f 0)), okey 0x90 (0x40 + i) 2)) ++
    (List.range 8).map (fun c => (named (ob o 0x21 (72 + c) 0x11), okey 0x21 (72 + c) 0x11)) ++
    (List.range 8).map (fun k => (named (ob o 0x90 (0x20 + k) 3), okey 0x90 (0x20 + k) 3)) ++
    (List.range 8).map (fun e => (ob o 0x90 (0x10 + e) 0x0C != 0xFF && encoderMode o e == 0, okey 0x90 (0x10 + e) 0x0C)) ++
    (List.range 8).map (fun e => (ob o 0x90 (0x10 + e) 0x0F == 1 && encoderMode o e != 1, okey 0x90 (0x10 + e) 0x0F)) ++
    (List.range 8).map (fun e => (transactionLate o e, okey 0x90 (0x10 + e) 9)) ++
    (List.range 8).map (fun k =>
      let f := fun m => obF o 0x90 (0x20 + k) m
      (ob o 0x90 (0x20 + k) 0 != 0 && !(fLe (f 7) (f 6) && fLe (f 6) (f 8)), okey 0x90 (0x20 + k) 7))

/-- R383, R396, R399 and R434. -/
def moduleRules (g : State) : List (Bool × Nat) :=
  let o := g.objs
  let ring := ob o 0x70 0 0x20
  let cold := ob o 0x70 0 0x21
  [(ob o 0x80 0 1 == 1 && !g.clocks.ok.getLsbD 1, okey 0x80 0 1),
   ((bit (ob o 0xB0 1 1) 11 && !(ring == 0 || ring == 2)) || [0x0000, 0x0800, 0x2000, 0x2800].all (· != ob o 0xB0 1 1), okey 0xB0 1 1),
   (pairOn o && ring != 3, okey 0x70 0 0x20), (pairOn o && ob o 0x30 0 6 == 0, okey 0x30 0 6), (pairOn o && (cold == 1 || cold == 2), okey 0x70 0 0x21),
   (!pairOn o && g.start.pairId == 2, okey 0xC0 0 0)]

/-- The key of the first rule broken, in the order of the labels. -/
def ruleFinding (g : State) (set_ : Bool) (rs : List WriteRecord) : Option Nat :=
  firstBroken (cellRules g ++ plannerRules g rs ++ zoneRules g ++ channelRules g ++ controlRules g ++ bindingRules g ++
    (if set_ then separationRules g else []) ++ fieldRules g ++ moduleRules g)

/-- The key the second pass names. -/
def consistencyKey (s g : State) (img : Bytes) : Option Nat :=
  match rangeFinding g with
  | some k => some k
  | none => ruleFinding g (stagedSet s img) ((imageRecords img).map (·.2))

/-- Offset of the last record that wrote a key. -/
def lastWrite (img : Bytes) (k : Nat) : Nat := ((((imageRecords img).filter (·.2.key = k)).getLast?).map (·.1)).getD noOffset

/-- Check 3. [DEDUCED, log 53] -/
def check3 (s g : State) (img : Bytes) : Option Finding :=
  match firstRecord g { s with objs := g.objs } 0 (imageRecords img) with
  | some f => some f
  | none => (consistencyKey s g img).map (fun k => { check := 3, kind := 1, key := k, index := noOffset, offset := lastWrite img k })

/-! ### Check 4: the safety set (R332) -/

/-- Step 6: the key of the first value that is not consistent. -/
def setInconsistent (g : State) (x : SafetySet) : Option Nat :=
  let o := g.objs
  let arms := (List.range 8).filter (armPresent o)
  let torque := fun a => (List.range 8).any (fun n => outFunction o n = 1 && bit (outArms o n) a)
  let range := x.records.map (fun r => (!(objRow r.key).any (fun row => rangeOk g o row r.key r.value), r.key))
  firstBroken (range ++
    arms.flatMap (fun a => [((armCapsules o a).isEmpty, okey 0x50 (10 * a) 0), (!torque a, okey 0x60 0x10 1)]) ++
    arms.flatMap (fun a =>
      [(!vLe (obV o 0x60 (0x20 + a) 0) (obV o 0x50 (0x70 + a) 0), okey 0x50 (0x70 + a) 0),
       (!vLt (obV o 0x60 (0x20 + a) 1) (obV o 0x60 (0x20 + a) 0), okey 0x60 (0x20 + a) 1)]) ++
    [(!(downNode o 0 == 0xFF && downKind o 0 == 2 && downBinding o 0 == 0x9000), okey 0x70 0 3)] ++
    (List.range 64).map (fun e =>
      (netFunction o e != 0 && !(upSlots o).any (fun k => upKind o k == 2 && upBinding o k == 0x5000 + e && upNode o k == netNode o e),
        okey 0x60 (0x40 + e) 0)))

/-- Check 4: the finding, or the set to be taken at activation. [DEDUCED, log 75] -/
def check4 (s g : State) (img : Bytes) : Except Finding (Option (Bytes × Nat × Nat)) :=
  let sec := safetySection img
  let fail := fun (code kind key : Nat) =>
    Except.error ({ check := 4, kind := kind, key := key, offset := if imageSafety img then (safetyAt img).1 else noOffset, setError := code } : Finding)
  if !imageSafety img then (if s.safety.inForce then .ok none else fail 1 1 0)
  else
    let d := sha256 sec
    let known := (s.safety.inForce && d == s.safety.digest) || d == s.cham.digest
    if !known && !seal11 s then fail 2 1 0
    else if !known && !(sealMatches s.safety.processor.sw1 d && sealMatches s.safety.chamois.sw1 d) then fail 3 1 0
    else
      match parseSet sec with
      | .error k => fail 4 0 k
      | .ok x =>
        let taken := some (d, x.connectionId, x.version)
        if known then .ok taken
        else
          match (neededKeys g.objs).find? (fun k => !x.records.any (fun r => r.key = k)) with
          | some k => fail 4 0 k
          | none =>
            match setInconsistent g x with
            | some k => fail 5 1 k
            | none => if s.safety.processor.silent || s.safety.chamois.silent then fail 6 1 0 else .ok taken

/-! ### Check 5: the Tahixa schedule (R116) -/

/-- Largest S of Table 5-4. -/
def largestS (cycle : Nat) : Nat := if cycle = 31250 then 57 else 120

/-- Nodes of the safety set (R317). -/
def safetyNodes (o : List (Nat × Nat)) : List Nat :=
  0xFF :: (((List.range 16).map (fun k => ob o 0x50 (0x60 + k) 0)) ++ ((List.range 64).map (netNode o))).filter (· != 0)

/-- The rules of Table 5-9 on one slot. -/
def slotFinding (g : State) (up : Bool) (k : Nat) : Option Finding :=
  let o := g.objs
  let node := if up then upNode o k else downNode o k
  let kind := if up then upKind o k else downKind o k
  let flags := if up then upFlags o k else downFlags o k
  let size := if up then ob o 0x70 0 2 else ob o 0x70 0 1
  let item : Finding := { check := 5, kind := 1, key := okey 0x70 0 (if up then 4 else 3), index := (if up then 128 else 0) + k }
  let broadcast := !up && node == 0xFF
  let neighbour := fun j => upNode o j == 0 || upNode o j == node
  let wideOk := (k = 0 || neighbour (k - 1)) && (119 ≤ k || neighbour (k + 1))
  let keySlot := ob o 0x70 node 1
  let keyOk := node != 0xFF && keySlot != 0 && (nth none g.sec.hmac (keySlot - 1)).any (·.tahixa)
  if !up && k = 0 && (node = 0 || node != 0xFF) then some item
  else if (decide (size ≤ k) && node != 0) || 2 < kind || 4 ≤ flags || (node == 0) != (kind == 0) ||
      (node != 0 && !broadcast && (!nodePresent o node || node = nodeId g)) then some item
  else if largestS (otick o) ≤ k && k < size then
    some { item with kind := 2, required := 448 * size + 5584, available := otick o }
  else if up && bit flags 1 && !wideOk then some item
  else if kind = 2 && !(safetyNodes o).contains node then some item
  else if bit flags 0 && !keyOk then some item
  else none

/-- Rule 7 on one entry of `tahixa.standing`. -/
def standingFinding (g : State) (i : Nat) : Option Finding :=
  let o := g.objs
  let entry := fun j => (obField o 0x70 0 5 (4 * j) 1, obField o 0x70 0 5 (4 * j + 1) 1)
  let e := entry i
  let total := sumNat (((List.range 32).map entry).map (fun x => if x.1 = 0 then 0 else x.2))
  let m := miniSlots (otick o) (ob o 0x70 0 2)
  let item : Finding := { check := 5, kind := 1, key := okey 0x70 0 5, index := 256 + i }
  if e.1 = 0 then none
  else if !nodePresent o e.1 || e.2 < 4 then some item
  else if m < total + 4 then some { item with kind := 2, required := ceilDiv ((total + 4) * 1024) 10, available := m * 1024 / 10 }
  else none

def check5 (g : State) : Option Finding :=
  match (List.range 120).findSome? (slotFinding g false) with
  | some f => some f
  | none =>
    match (List.range 120).findSome? (slotFinding g true) with
    | some f => some f
    | none => (List.range 32).findSome? (standingFinding g)

/-! ### Checks 6 to 9 -/

/-- Check 6 (R268). -/
def check6 (g : State) : Option Finding :=
  let budget := coreBudget g.objs
  ((indexed (coreCharges (buildDescriptors g.objs))).find? (fun c => decide (budget < c.2))).map (fun c =>
    { check := 6, kind := 2, index := c.1, required := c.2, available := budget })

/-- Largest sum of the charges of the loaded kernels over ticks 0 to 255 (R283). -/
def kernelLoad (g : State) : Nat :=
  maxNat ((List.range 256).map (fun i => sumNat ((indexed g.dsp.kernels).map (fun k =>
    if k.2.load == .resident && i % ob g.objs 0x10 (8 + k.1) 4 == ob g.objs 0x10 (8 + k.1) 5 then kernelCharge k.2 else 0))))

/-- Post instant of an upstream slot in its tick (R242): window end, and the reception of one copy. -/
def latestPost (o : List (Nat × Nat)) (k : Nat) : Nat :=
  448 * k + (if bit (upFlags o k) 1 then 96 else 48) + (if bit (upFlags o k) 0 then 476 else 380)

/-- Check 7 (R217, R283, R305). -/
def check7 (g : State) : Option Finding :=
  let o := g.objs
  let tick := otick o
  let prof := ob o 0x10 0 0x20
  let arb := ob o 0x40 0 0x80
  let koff := ob o 0x10 4 0
  let kbud := ob o 0x10 4 1
  let ts := ob o 0x50 0x80 8
  let tp := sepTimeP o
  let load := kernelLoad g
  let waits := fun k =>
    let b := upBinding o k
    b / 0x1000 = 4 || (b / 0x1000 = 1 && decide (b % 0x1000 < 64) && !(armCapsules o (b % 0x1000 / 8)).isEmpty)
  let timing := fun (key required available : Nat) => some ({ check := 7, kind := 2, key := key, required := required, available := available } : Finding)
  let value := fun (key : Nat) => some ({ check := 7, kind := 1, key := key } : Finding)
  if prof < arb + 2400 then timing (okey 0x10 0 0x20) (arb + 2400) prof
  else if tick < prof + 3200 then timing (okey 0x10 0 0x20) (prof + 3200) tick
  else if kbud < load then timing (okey 0x10 4 1) load kbud
  else if tick < koff + kbud || (kbud != 0 && koff < ts + tp && ts < koff + kbud) then value (okey 0x10 4 1)
  else if (upSlots o).any (fun k => waits k && decide (ts < latestPost o k)) || tick < ts + tp then value (okey 0x50 0x80 8)
  else none

/-- Check 8 (R305). -/
def check8 (g : State) : Option Finding :=
  let o := g.objs
  let available := ob o 0x10 0 0x20 - ob o 0x50 0x80 8
  [(0, sepTimeP o + 200), (1, sepTimeC o + 200)].findSome? (fun x =>
    if available < x.2 then some ({ check := 8, kind := 2, index := x.1, required := x.2, available := available } : Finding) else none)

/-- t_wc of a slot (R191). -/
def slotWorst (g : State) (i : Nat) : Nat :=
  let x := slotOf g i
  worstCase x.flops (ob g.objs 0x31 (0x10 + i) 0x0A) (sustainedPm x.nnzL ((x.structure?.map (fun st => st.nVar + st.nEq)).getD 0))

/-- Check 9 (R191). -/
def check9 (g : State) : Option Finding :=
  let o := g.objs
  let planner := g.plan.resident && (slotOf g g.plan.slot).load == .resident
  (List.range 8).findSome? (fun i =>
    let t := slotWorst g i
    let window := ob o 0x31 (0x10 + i) 0x16
    let mine := planner && i == g.plan.slot
    let required := if mine then t else t + (if planner then ceilDiv window (ob o 0x30 0 0) * slotWorst g g.plan.slot else 0)
    let available := if mine then (ob o 0x30 0 2 - ob o 0x30 0 1) * 1000 else window * 1000
    if (slotOf g i).load != .resident || (!mine && window = 0) || required ≤ available then none
    else some ({ check := 9, kind := 2, index := i, required := required, available := available } : Finding))

/-! ### The whole check (R52) -/

/-- The checks of Table 2-7 in their order: the first finding, or what check 4 took. -/
def configCheck (s : State) (c : Commit) : Except Finding (Option (Bytes × Nat × Nat)) :=
  match check1 c.image with
  | some f => .error f
  | none =>
    match check2 s c.image with
    | some f => .error f
    | none =>
      let g := stagedState s c
      match check3 s g c.image with
      | some f => .error f
      | none =>
        match check4 s g c.image with
        | .error f => .error f
        | .ok taken =>
          match [check5, check6, check7, check8, check9].findSome? (fun x => x g) with
          | some f => .error f
          | none => .ok taken

end Sys2Proof.Machine
end

