-- ==== Sys2Proof/Machine/Image.lean ====
section
/-! DEFINITION. Loading a cell image, the end of its check, and its activation (03_zewen_interface.md R86; 02_modes_and_start.md R47, R52,
R53; 19_redundant_pair.md R408; what each chapter ties to image activation). -/

namespace Sys2Proof.Machine

def withImage (s : State) (f : ImageState → ImageState) : State := { s with image := f s.image }

/-! ### Commands (R86) -/

/-- The staging area of a session. -/
def ownStaging (s : State) (m : Nat) : Option Staging := s.image.staging.filter (fun g => g.mbx = m)

/-- IMAGE_BEGIN: TOTAL_LENGTH, a reserved word, IMAGE_ID. -/
def imageBegin (e : Entry) (_ : Transport) (s : State) : State :=
  let a := entryArgs e
  let o := originOf e
  let total := le a 0 4
  if total < 96 || 33554432 < total then complete s o stBadArgument
  else if s.start.storedCheck || s.image.staging.any (fun g => g.mbx != e.mbx) || s.image.commit.any (fun c => c.origin.any (fun x => x.mbx = e.mbx)) then
    complete s o stBusy
  else complete (withImage s (fun i => { i with staging := some { mbx := e.mbx, total := total, imageId := le a 8 8, base := s.objs } })) o stOk

def execImageBegin (clk : Nat) (e : Entry) (s : State) : Host.Outcome State Fault Refusal :=
  .next (command { opcode := 0x0030, priv := true, modes := [.configure], noTransition := true } (fun _ => true) (fixedLen 16) imageBegin clk e s)

/-- Offset and data of IMAGE_DATA: inline after the 8 argument bytes, in bulk beside them, or the whole in bulk. [DEDUCED, log 20] -/
def imageChunk (e : Entry) : Nat × Bytes :=
  if e.flags.getLsbD 0 && e.argLen = 8 then (le (slice e.args 0 8) 0 4, slice e.bulk 0 e.bulkLen)
  else (le (entryArgs e) 0 4, (entryArgs e).drop 8)

/-- IMAGE_DATA: a commit in flight has taken its own copy of the staging area, which stays open to data. [DEDUCED, log 19] -/
def imageData (e : Entry) (_ : Transport) (s : State) : State :=
  let o := originOf e
  let (off, data) := imageChunk e
  match ownStaging s e.mbx with
  | none => complete s o stPrecondition
  | some g =>
    if g.total < off + data.length then complete s o stBadLength
    else complete (withImage s (fun i => { i with staging := some { g with chunks := (off, data) :: g.chunks } })) o stOk

/-- IMAGE_DATA (R86): with BULK_IN the ARG_LEN may be 8 or 0; with 0 the bulk data begin with the offset. [DEDUCED, log 20] -/
def execImageData (clk : Nat) (e : Entry) (s : State) : Host.Outcome State Fault Refusal :=
  .next (command { opcode := 0x0031, priv := true, modes := [.configure], noTransition := true } (fun _ => true)
    (fun e => if e.flags.getLsbD 0 then e.argLen = 8 || (e.argLen = 0 && decide (8 ≤ e.bulkLen)) else decide (8 ≤ e.argLen)) imageData clk e s)

/-- Bytes delivered: up to the first byte that no chunk has brought. -/
def deliveredLength (g : Staging) : Nat :=
  min g.total ((sortBy (fun (a b : Nat × Bytes) => decide (a.1 < b.1)) g.chunks).foldl
    (fun reach c => if c.1 ≤ reach then max reach (c.1 + c.2.length) else reach) 0)

/-- IMAGE_COMMIT: FLAGS with CHECK_ONLY; the check begins. [DEDUCED, log 19] [DESIGN CHOICE, log 21] -/
def imageCommit (e : Entry) (_ : Transport) (s : State) : State :=
  let o := originOf e
  let only := bit (le (entryArgs e) 0 1) 0
  if s.start.storedCheck then complete s o stBusy
  else
    match ownStaging s e.mbx with
    | none => complete s o stPrecondition
    | some g =>
      if s.image.commit.isSome then complete s o stBusy
      else
      let img := (overlay g.total g.chunks).take (deliveredLength g)
      let s1 := withImage s (fun i => { i with commit := some { origin := some o, checkOnly := only, store := !only, image := img, base := g.base } })
      if only then s1 else mirrorImage s1 (some img) none

def execImageCommit (clk : Nat) (e : Entry) (s : State) : Host.Outcome State Fault Refusal :=
  .next (command { opcode := 0x0032, priv := true, modes := [.configure], noTransition := true } (fun _ => true) (fixedLen 1) imageCommit clk e s)

/-- IMAGE_ABORT: the staging area is discarded, and a commit of the session that has not activated its image is withdrawn. -/
def imageAbort (e : Entry) (_ : Transport) (s : State) : State :=
  let s1 := withImage s (fun i => { i with staging := i.staging.filter (fun g => g.mbx != e.mbx) })
  let mine := (s1.image.commit.bind (·.origin)).filter (fun x => x.mbx = e.mbx)
  let s2 := match mine with
    | some t => complete (withImage s1 (fun i => { i with commit := none })) t stCancelled
    | none => s1
  complete s2 (originOf e) stOk

def execImageAbort (clk : Nat) (e : Entry) (s : State) : Host.Outcome State Fault Refusal :=
  .next (command { opcode := 0x0033, priv := true, modes := [.configure] } (fun _ => true) (fixedLen 0) imageAbort clk e s)

/-! ### The end of the check (R52, R53, R47) -/

/-- The image is refused: its report is written, and a host's command completes with the same bytes. -/
def imageRefused (s : State) (c : Commit) (f : Finding) : State :=
  let report := reportBytes f
  let s1 := withImage (withMode s (fun m => { m with refusal := report })) (fun i => { i with commit := none })
  let s2 := if f.check = 4 then { s1 with safety := { s1.safety with setError := f.setError } }
    else if 4 < f.check then { s1 with safety := { s1.safety with setError := 0 } } else s1
  let s3 := if c.peer || c.origin.isSome then s2 else { s2 with start := { s2.start with storedCheck := false } }
  match c.origin with
  | some o => complete s3 o stConfigRefused report
  | none => s3

/-- The image has passed: under CHECK_ONLY the command completes; otherwise the image waits for the next tick start. -/
def imagePassed (s : State) (c : Commit) (taken : Option (Bytes × Nat × Nat)) : State :=
  let s1 := { s with safety := { s.safety with setError := 0 } }
  if c.checkOnly then
    let s2 := withImage s1 (fun i => { i with commit := none })
    match c.origin with
    | some o => complete s2 o stOk
    | none => s2
  else
    let s2 := withImage s1 (fun i => { i with commit := some { c with passed := true } })
    let s3 := { s2 with safety := { s2.safety with staged := taken } }
    if c.peer then s3
    else
      let s4 := if c.origin.isSome then s3 else { s3 with start := { s3.start with storedCheck := false } }
      mirrorImage s4 none (some (slice c.image 64 32, nextTick s4))

/-- CONFIG_CHECK_DONE. -/
def execConfigCheckDone (clk : Nat) (s : State) : Host.Outcome State Fault Refusal :=
  let s1 := begin clk s
  .next (match s1.image.commit with
    | none => s1
    | some c =>
      if c.passed || s1.mode.mode != .configure then s1
      else
        match configCheck s1 c with
        | .error f => imageRefused s1 c f
        | .ok taken => imagePassed s1 c taken)

/-! ### Activation (R85, R86) -/

/-- A record of the image that does more than set a value takes its action; the values are in place. -/
def imageAction (s : State) (r : WriteRecord) : State :=
  match objRow r.key with
  | none => s
  | some row =>
    let acts := row.acc != .rw || (r.key / 65536 == 0x10 && decide (8 ≤ r.key / 256 % 256) && r.key % 256 == 3) ||
      (r.key / 65536 == 0xB0 && decide (0x20 ≤ r.key / 256 % 256))
    if acts && !row.safety then applyRecord s r else s

/-- The actions of an image's records: loads and the rest in order, runs after the deltas (R178). -/
def imageActions (s : State) (rs : List WriteRecord) : State :=
  let s1 := (rs.filter (fun r => !startsRun r)).foldl imageAction s
  (rs.filter (fun r => startsRun r)).foldl imageAction (analyseAll s1)

/-- The accepted safety set comes into force; Chamois writes its register, which it does only while it reads SW1.1 ON (R332). -/
def takeSet (s : State) : State :=
  match s.safety.staged with
  | none => s
  | some (d, cid, version) =>
    { s with
      safety := { s.safety with inForce := true, digest := d, connectionId := cid, setVersion := version, staged := none }
      cham := { s.cham with digest := if s.safety.chamois.sw1.getLsbD 0 then d else s.cham.digest } }

/-- Domains that an image keeps off, or no longer does (R396). -/
def optionalDomains (s : State) : State :=
  let mask := ov s 0xB0 1 1
  let off := [11, 13].filter (fun d => bit mask d)
  let on := [11, 13].filter (fun d => !bit mask d)
  if sequenceDone s then startSequence s off [on]
  else
    withPower s (fun p =>
      let more := on.filter (fun d => !p.on.getLsbD d && !p.toOn.any (fun g => g.contains d))
      { p with toOff := p.toOff ++ off.filter (fun d => p.on.getLsbD d && !p.toOff.contains d)
               toOn := (p.toOn.map (fun g => g.filter (fun d => !off.contains d)) ++ [more]).filter (fun g => !g.isEmpty) })

/-- What starts anew under an image in the chapters that count from its activation. -/
def freshUnderImage (s : State) : State :=
  let s1 := withPlan s (fun p => { p with
    arms := List.replicate 8 {}, committed := none, committedFree := [], snapshot := none, phase := .idle, lastSeq := 0, periodStart := 0 })
  let s2 := { s1 with
    prof := { s1.prof with lastMoveId := 0 }
    piste := { s1.piste with leases := [], lastId := 0, credits := [], conflicts := zoneConflicts s1.objs, homesHeld := true
                             sets := List.replicate 8 [], nextSets := List.replicate 8 [], passRows := [] }
    ctl := { s1.ctl with feedback := [] }
    sep := { s1.sep with jointsP := [], jointsC := [], firstStep := true } }
  let c := s2.acq.capture
  let c1 := if c.state == .armed || c.state == .triggered then { c with state := .aborted } else c
  { s2 with acq := { s2.acq with capture := c1, buffer := ov s2 0xA0 0 0 } }

/-- The units that take an image over at its activation. [DEDUCED, log 54] -/
def unitsActivate (old s : State) : State :=
  let s2 := dspActivate (schedActivate (netActivate s))
  let s3 := fieldActivate (retime old s2)
  clkoutFollow old (optionalDomains (pairActivate (ungateUsed (clocksActivate s3))))

/-- The activation tick start of a checked image has come: the first tick start after its check (R86), or for an image of the other module
its instant (R408). -/
def activationDue (s : State) (c : Commit) : Bool :=
  c.passed && s.mode.mode == .configure && (!c.peer || s.pair.peerImage.any (fun p => p.1 == slice c.image 64 32 && decide (p.2 ≤ tickStart s)))

/-- IMAGE_ACTIVATION, at a tick start (R86): an object that the image does not write keeps the value in force (R457). -/
def imageActivation (s : State) : State :=
  match s.image.commit with
  | none => s
  | some c =>
    if !activationDue s c then s
    else
      let rs := ((imageRecords c.image).map (·.2)).filter wellFormedRecord
      let s1 := unloadPlanner { s with objs := imageObjs s.objs c.image }
      let s2 := loadPlanner (imageActions s1 rs) rs
      let s3 := withImage s2 (fun i => { i with
        commit := none, staging := i.staging.filter (fun g => !c.origin.any (fun o => o.mbx = g.mbx))
        activation := tickStart s, digest := slice c.image 64 32, activeId := le c.image 40 8 })
      let s4 := takeSet { s3 with nor := { s3.nor with image := if c.store then some c.image else s3.nor.image } }
      let s5 := unitsActivate s (freshUnderImage s4)
      match c.origin with
      | some o => complete s5 o stOk
      | none => s5

end Sys2Proof.Machine
end

