-- ==== Sys2Proof/Machine/Acq.lean ====
section
/-! DEFINITION. Acquisition and the reading of captures and logs (17_acquisition_and_logs.md R364 to R372, R379). -/

namespace Sys2Proof.Machine

def acqDown (s : State) : Bool := blockDown s 4 3 13

def withCapture (s : State) (f : Capture → Capture) : State := { s with acq := { s.acq with capture := f s.acq.capture } }

/-- One row joins the gap records: the last record it continues, or a new one; none when that would be the 257th. [DEDUCED, log 96] -/
def gapRow (ecc : Bool) (gs : List (Nat × Nat × Bool)) (i : Nat) : Option (List (Nat × Nat × Bool)) :=
  if gs.any (fun g => g.1 + g.2.1 = i && g.2.2 = ecc) then
    some (gs.map (fun g => if g.1 + g.2.1 = i && g.2.2 = ecc then (g.1, g.2.1 + 1, ecc) else g))
  else if 256 ≤ gs.length then none
  else some (sortBy (fun a b => decide (a.1 < b.1)) (gs ++ [(i, 1, ecc)]))

/-- Rows join the gap records in ascending order, as far as records last; whether one was missing. [DEDUCED, log 96] -/
def gapRows (ecc : Bool) : List (Nat × Nat × Bool) → List Nat → List (Nat × Nat × Bool) × Bool
  | gs, [] => (gs, false)
  | gs, i :: rest =>
    match gapRow ecc gs i with
    | some gs' => gapRows ecc gs' rest
    | none => (gs, true)

/-- Object of class 0xA0, instance 0. -/
def ao0 (s : State) (m : Nat) : Nat := ov s 0xA0 0 m

/-! ### Signals and rows (R364 to R366) -/

/-- KIND, ADC and KEY of a signal entry (Table 17-1). -/
def sigKind (v : Nat) : Nat := v % 256
def sigAdc (v : Nat) : Nat := v / 256 % 256
def sigKey (v : Nat) : Nat := v / 2 ^ 32 % 2 ^ 24

/-- Newest sample of a converter: 0 to 7 ISA, 8 to 15 ISB (R365). [DEDUCED, log 93] -/
def adcSample (s : State) (n : Nat) : Int :=
  let x := nth {} s.field.axes (n % 8)
  if n < 8 then x.phaseA.sample else x.phaseB.sample

/-- Stored 64-bit value of a row's object (R365): extended by its sign or by zeros, an f32 widened to binary64. [DEDUCED, log 93] -/
def storedValue (ty : Nat) (b : Bytes) : Nat :=
  match ty with
  | 5 | 6 | 7 | 11 => wrap 64 (sext (8 * b.length) (leNat b))
  | 8 => (dOfF32 (BitVec.ofNat 32 (leNat b))).toNat
  | _ => leNat b

/-- The value of a row's object as a number (R368). -/
def numberOf (ty : Nat) (b : Bytes) : F64 :=
  match ty with
  | 5 | 6 | 7 => dOfInt (sext (8 * b.length) (leNat b))
  | 8 => dOfF32 (BitVec.ofNat 32 (leNat b))
  | 9 => BitVec.ofNat 64 (leNat b)
  | 11 => dOfInt (sext 64 (leNat b)) (-32)
  | _ => dOfNat (leNat b)

/-- One signal at a sample: its bytes in the row and its value as a number. -/
def sampleSignal (s : State) (fast : Bool) (v : Nat) : Bytes × F64 :=
  if sigKind v = 2 then
    let x := adcSample s (sigAdc v)
    (leBytes (if fast then 2 else 8) (wrap 12 x), dOfInt x)
  else
    match objRow (sigKey v) with
    | none => (zeros 8, dZero)
    | some row =>
      let b := objValue s row (sigKey v)
      (leBytes 8 (storedValue row.ty b), numberOf row.ty b)

/-- One row: the samples of the signals in use, in ascending order. -/
def sampleRow (s : State) (c : Capture) : Bytes :=
  joinBytes ((c.signals.filter (fun v => sigKind v != 0)).map (fun v => (sampleSignal s c.fast v).1))

/-- Rows from the trigger sample onward (R366). [DEDUCED, log 95] -/
def postRows (c : Capture) : Nat := c.capacity - c.pre

/-! ### The end of a capture (R367, R372) -/

/-- The result of a capture as one byte sequence (R371). -/
def captureBytes (c : Capture) : Bytes :=
  let n := (c.signals.filter (fun v => sigKind v != 0)).length
  let firstIndex := (c.rows.head?.map (fun r => r.1)).getD 0
  leBytes 4 0x51414341 ++ leBytes 2 1 ++ leBytes 1 (b2n c.fast) ++ leBytes 1 n ++ leBytes 2 c.rowBytes ++
    leBytes 2 (b2n c.trigIndex.isSome + 2 * b2n c.forced + 4 * b2n c.gapLimit + 8 * b2n c.eccLost) ++ leBytes 2 c.gaps.length ++
    leBytes 2 c.trigSub ++ leBytes 8 c.t0 ++ leBytes 4 c.period ++ leBytes 4 c.actualPre ++ leBytes 8 firstIndex ++
    leBytes 8 (c.trigIndex.getD (2 ^ 64 - 1)) ++ leBytes 4 c.rows.length ++ leBytes 4 c.id ++ leBytes 8 c.trigTime ++ leBytes 8 c.eventTime ++
    joinBytes (c.signals.map (leBytes 8)) ++
    joinBytes (c.gaps.map (fun g => leBytes 8 g.1 ++ leBytes 4 g.2.1 ++ leBytes 4 (b2n g.2.2))) ++
    joinBytes (c.rows.map (fun r => r.2))

/-- A waiting or new ACQ_READ of an ended capture completes. -/
def answerRead (s : State) (w : AcqWait) : State :=
  let b := captureBytes s.acq.capture
  if b.length < w.offset + w.length then complete s w.origin stBadArgument
  else complete s w.origin stOk (slice b w.offset w.length)

/-- ACQ_READs that wait complete once the capture has ended. -/
def settleReads (s : State) : State :=
  if s.acq.capture.state == .done || s.acq.capture.state == .aborted then
    s.acq.waits.foldl answerRead { s with acq := { s.acq with waits := [] } }
  else s

/-- A capture ends in DONE or ABORTED (CAPTURE_DONE). [DEDUCED, log 95] -/
def captureEnds (s : State) (how : AcqMode) : State :=
  let s1 := withCapture s (fun c => { c with state := how, events := [] })
  settleReads (setInt (if how == .done then bump s1 0xA0 0 0x0D else s1) 5)

/-! ### Triggers (R368, R369) -/

/-- The level is crossed from value a to value b; a NaN never crosses. [DEDUCED, log 92] -/
def crosses (kind : Nat) (level a b : F64) : Bool :=
  let rising := dLt a level && dLe level b
  let falling := dLt level a && dLe b level
  (kind == 1 && rising) || (kind == 2 && falling) || (kind == 3 && (rising || falling))

/-- A trigger at sample k: index, TRIG_SUB, TRIG_TIME, EVENT_TIME, FORCED. -/
structure Trig where
  sub : Nat := 0
  time : Nat
  event : Nat := 0
  forced : Bool := false

/-- f of a crossing (R368). [DEDUCED, log 94] -/
def crossFraction (level a b : F64) : F64 := dDiv (dSub level a) (dSub b a)

/-- What triggers at sample k of the capture, whose trigger signal has gone to `value`; a FORCE waits for sample 8 (R369). [DEDUCED, log 92]
-/
def trigOf (s : State) (c : Capture) (value : Option F64) : Option Trig :=
  let k := c.next
  let events := c.events.filter (fun e => !e.force)
  let event := events.foldl (fun (m : Option Nat) e => some (min (m.getD e.time) e.time)) none
  let level : F64 := BitVec.ofNat 64 (ao0 s 8)
  let cross := match c.lastValue, value with
    | some a, some b => if crosses (ao0 s 6) level a b then some (crossFraction level a b) else none
    | _, _ => none
  if c.events.any (fun e => e.force) && 8 ≤ k then
    some { time := c.t0 + k * c.period, event := event.getD 0, forced := true }
  else
    match event, cross with
    | some t, _ => some { time := t, event := t }
    | none, some f =>
      some { sub := (dRne (dScale f 8)).toNat
             time := (((c.t0 + (k - 1) * c.period : Nat) : Int) + dRne (dMul f (dOfNat c.period))).toNat }
    | none, none => none

/-- Rows before the trigger: the newest `pre` of them; a gap record whose rows have all been overwritten is freed (R366, R370). [DEDUCED,
log 91] -/
def keepRows (c : Capture) (n : Nat) : Capture :=
  let dropped := c.rows.length - n
  if dropped = 0 then c
  else
    let last := ((c.rows.take dropped).getLast?.map (fun r => r.1)).getD 0
    { c with rows := c.rows.drop dropped, gaps := c.gaps.filter (fun g => decide (last < g.1 + g.2.1)) }

/-- A trigger at sample k is taken: the capture is TRIGGERED (ACQ_TRIGGER). [DEDUCED, log 91] -/
def takeTrigger (s : State) (t : Trig) : State :=
  let s1 := withCapture s (fun c =>
    let c1 := keepRows c c.pre
    { c1 with state := .triggered, trigIndex := some c.next, trigSub := t.sub, trigTime := t.time, eventTime := t.event
              forced := t.forced, actualPre := c1.rows.length, events := [] })
  setInt s1 5

/-- The row of sample k is stored, or lost for want of room in the staging queue (R370). -/
def storeRow (s : State) (room : Bool) (row : Bytes) : State :=
  let c := s.acq.capture
  if room then
    let c1 := if c.state == .armed then keepRows c (c.capacity - 1) else c
    withCapture s (fun _ => { c1 with rows := c1.rows ++ [(c.next, row)] })
  else
    match gapRow false c.gaps c.next with
    | some gs => withCapture s (fun c => { c with gaps := gs })
    | none => captureEnds (withCapture s (fun c => { c with gapLimit := true })) .aborted

/-- One sample of a capture that is ARMED or TRIGGERED. -/
def takeSample (s : State) (room : Bool) : State :=
  let c := s.acq.capture
  let k := c.next
  let kind := ao0 s 6
  let value := if 1 ≤ kind && kind ≤ 3 then
      (let v := nth 0 c.signals (ao0 s 7)
       if sigKind v = 0 then none else some (sampleSignal s c.fast v).2) else none
  let trig := if c.state == .armed then trigOf s c value else none
  let s1 := withCapture s (fun c => { c with lastValue := value, events := c.events.filter (fun e => e.force) })
  let s2 := match trig with
    | none => s1
    | some t => if k < 8 then bump s1 0xA0 0 0x0C else takeTrigger s1 t
  let full := fun (s : State) => s.acq.capture.trigIndex.any (fun k0 => decide (k0 + postRows s.acq.capture ≤ s.acq.capture.next))
  if full s2 then captureEnds s2 .done
  else
    let s3 := storeRow s2 room (sampleRow s2 s2.acq.capture)
    let s4 := withCapture s3 (fun c => { c with next := c.next + 1 })
    if captureBusy s4 && full s4 then captureEnds s4 .done else s4

/-- ACQ_SAMPLE: the instant of the next sample has come; `room` says whether the staging queue takes its row. -/
def execAcqSample (clk : Nat) (room : Bool) (s : State) : Host.Outcome State Fault Refusal :=
  let s1 := begin clk s
  let c := s1.acq.capture
  .next (if captureBusy s1 && decide (c.t0 + c.next * c.period ≤ now s1) && !acqDown s1 then takeSample s1 room else s1)

/-! ### Arming (R367) -/

/-- Signal entries as they stand. -/
def signalsNow (s : State) : List Nat := (List.range 64).map (fun i => ov s 0xA0 (0x40 + i) 0)

/-- A capture may be started: a signal is in use, and FAST mode has no OBJECT signal. -/
def armOk (s : State) : Bool :=
  let vs := signalsNow s
  vs.any (fun v => sigKind v != 0) && (ao0 s 1 != 1 || vs.all (fun v => sigKind v != 1))

/-- First tick at or after tick k whose index of R239, counted from tick `first`, is a multiple of `div`. -/
def alignUp (first k div : Nat) : Nat := first + ceilDiv (k - first) (max 1 div) * max 1 div

/-- A new capture at the tick start that begins tick k (R364, R366). [DESIGN CHOICE, log 98] -/
def freshCapture (s : State) (id : Nat) (forced : Bool) : Capture :=
  let vs := signalsNow s
  let fast := ao0 s 1 = 1
  let used := (vs.filter (fun v => sigKind v != 0)).length
  let rowBytes := used * (if fast then 2 else 8)
  let n := s.acq.buffer * 1048576 / max 1 rowBytes
  let start := tickStart s
  { id := id, state := .armed, fast := fast, signals := vs, rowBytes := rowBytes, capacity := n, pre := n * ao0 s 5 / 100
    t0 := if fast then start else alignUp (s.image.activation / tickNs s) s.herd.tick (ao0 s 2) * tickNs s + ao0 s 4
    period := if fast then 500 * ao0 s 3 else ao0 s 2 * tickNs s
    events := if forced then [{ time := now s, force := true }] else [] }

/-- One action takes effect at a tick start. [DESIGN CHOICE, log 98] -/
def acqAct (s : State) (a : AcqAction) : State :=
  let st := s.acq.capture.state
  match a.kind with
  | 0 => withCapture s (fun _ => freshCapture s a.captureId false)
  | 1 =>
    if st == .armed then withCapture s (fun c => { c with events := c.events ++ [{ time := now s, force := true }] })
    else if st == .triggered then s
    else withCapture s (fun _ => freshCapture s a.captureId true)
  | _ => if captureBusy s then captureEnds s .aborted else s

/-- Actions whose EFFECT_TIME is this tick start. -/
def acqTick (s : State) : State :=
  if acqDown s then { s with acq := { s.acq with actions := [] } }
  else s.acq.actions.foldl acqAct { s with acq := { s.acq with actions := [] } }

/-- State of the capture once the actions that wait have taken effect. -/
def acqAhead (s : State) : AcqMode :=
  s.acq.actions.foldl (fun st a =>
    match a.kind with
    | 0 => .armed
    | 1 => if st == .triggered then st else .armed
    | _ => if st == .armed || st == .triggered then .aborted else st) s.acq.capture.state

/-- ACQ_ARM (R367). -/
def acqArm (e : Entry) (_ : Transport) (s : State) : State :=
  let o := originOf e
  let action := le (entryArgs e) 0 1
  let ahead := acqAhead s
  let starts := action = 0 || (action = 1 && ahead != .armed && ahead != .triggered)
  if 3 ≤ action || (starts && !armOk s) then complete s o stBadArgument
  else if acqDown s then complete s o stPrecondition
  else
    let id := if starts then s.acq.lastId + 1 else s.acq.lastId
    let s1 := { s with acq := { s.acq with lastId := id, actions := s.acq.actions ++ [{ kind := if starts && action = 1 then 1 else action, captureId := id }] } }
    answer s1 e stOk (leBytes 4 id ++ leBytes 4 0 ++ leBytes 8 (nextTick s))

/-- ACQ_ARM (R367); reserved argument bits are ignored. [DESIGN CHOICE, log 15] -/
def execAcqArm (clk : Nat) (e : Entry) (s : State) : Host.Outcome State Fault Refusal :=
  .next (command { opcode := 0x0060, priv := true, modes := [.configure, .commission, .run, .hold, .fault] } (fun _ => true) (fixedLen 4) acqArm clk e s)

/-! ### Reading (R372, R379) -/

/-- ACQ_READ: at once when the capture has ended, otherwise when it ends. -/
def acqRead (e : Entry) (_ : Transport) (s : State) : State :=
  let a := entryArgs e
  let o := originOf e
  let off := le a 0 4
  let len := le a 4 4
  if acqDown s then complete s o stPrecondition
  else if !resultFits e len then complete s o stBadLength
  else
    settleReads { s with acq := { s.acq with waits := s.acq.waits ++ [{ origin := o, offset := off, length := len }] } }

def execAcqRead (clk : Nat) (e : Entry) (s : State) : Host.Outcome State Fault Refusal :=
  .next (command { opcode := 0x0061, modes := [.configure, .commission, .run, .hold, .fault] } (fun _ => false)
    (fun e => fixedLen 8 e && bulkOut e) acqRead clk e s)

/-- Bytes of a log entry (Table 17-3). -/
def entryBytes (cls : Nat) (e : LogEntry) : Bytes :=
  leBytes 8 e.time ++ leBytes 8 e.lastTime ++ leBytes 4 e.word.toNat ++ leBytes 2 e.code ++ leBytes 2 e.count ++ leBytes 4 (e.seq % 2 ^ 32) ++
    leBytes 1 cls ++ leBytes 1 (b2n e.lost + 2 * b2n e.ecc + 4 * b2n e.borrowed + 8 * b2n e.merged + 8 * (e.reason % 32)) ++ leBytes 2 e.arg

/-- Entries of a class. -/
def classEntries (s : State) (cls : Nat) : List LogEntry :=
  match cls with | 0 => s.logs.alarms | 1 => s.logs.events | _ => s.logs.traces

def setClass (s : State) (cls : Nat) (l : List LogEntry) : State :=
  withLogs s (fun g => match cls with
    | 0 => { g with alarms := l }
    | 1 => { g with events := l }
    | _ => { g with traces := l, traceOpen := g.traceOpen && l.length == g.traces.length })

/-- SEQ is at or before the acknowledged one, compared as R10 compares ticks. -/
def acked (ackSeq : Nat) (e : LogEntry) : Bool := decide (0 ≤ sdiff 32 ackSeq e.seq)

/-- LOG_READ: acknowledged entries are consumed, then the oldest unconsumed ones returned (R379). [DEDUCED, log 97] -/
def logRead (e : Entry) (_ : Transport) (s : State) : State :=
  let a := entryArgs e
  let o := originOf e
  let cls := le a 0 1
  let count := le a 2 2
  let l := classEntries s cls
  let kept := if bit (le a 1 1) 0 then l.filter (fun x => !acked (le a 4 4) x) else l
  if 3 ≤ cls || 2048 < count || (e.udp && 32 < count) then complete s o stBadArgument
  else if !resultFits e (32 * min count kept.length) then complete s o stBadLength
  else
    let s1 := if kept.length = l.length then s else setClass s cls kept
    let out := kept.take count
    let s2 := withLogs s1 (fun g =>
      let mark := fun (l : List LogEntry) => (l.take count).map (fun x => { x with returned := true }) ++ l.drop count
      match cls with
      | 0 => { g with alarms := mark g.alarms }
      | 1 => { g with events := mark g.events }
      | _ => { g with traces := mark g.traces })
    answer s2 e stOk (joinBytes (out.map (entryBytes cls)))

def execLogRead (clk : Nat) (e : Entry) (s : State) : Host.Outcome State Fault Refusal :=
  .next (command { opcode := 0x0062, modes := [.configure, .commission, .run, .hold, .fault] } (fun _ => false)
    (fun e => fixedLen 8 e && (decide (le (entryArgs e) 2 2 ≤ 1) || bulkOut e)) logRead clk e s)

end Sys2Proof.Machine
end

