-- ==== Sys2Proof/Machine/Start.lean ====
section
/-! DEFINITION. The start: steps B01 to B14, the failed-start record, rescue and the start that ends in FAULT (02_modes_and_start.md R45
to R51, R461; 04_herd_time.md R90; 15_safety_channels.md R333; 20_security.md R413 to R417). -/

namespace Sys2Proof.Machine

/-! ### The record of the attempt (R48, R461) -/

/-- Number of the step in progress. -/
def stepNow (s : State) : Nat := s.start.step + 1

/-- Steps leave a trace in the record from B02 on, and none in a rescue start. -/
def leavesTrace (s : State) (k : Nat) : Bool := decide (2 ≤ k) && !s.start.rescueStart

/-- Attempts of a step in this attempt. -/
def stepTries (s : State) (k : Nat) : Nat := (nth (0, .notRun) s.start.record.steps (k - 1)).1

/-- Writes a step's entry. [DEDUCED, log 26] -/
def markStep (s : State) (k tries : Nat) (o : StepOutcome) : State :=
  if leavesTrace s k then editRecord s (fun r => { r with steps := upd r.steps (k - 1) (fun _ => (tries, o)) }) else s

/-- Writes FAIL_WORD at the first failure. [DEDUCED, log 24] -/
def noteFailWord (s : State) (k : Nat) (w : Word) : State :=
  if leavesTrace s k then editRecord s (fun r => { r with failWord := if r.failWord = 0 then w else r.failWord }) else s

/-- Writes FIRST_FAILED at the first failed step. [DEDUCED, log 24] -/
def noteFirstFailed (s : State) (k : Nat) : State :=
  if leavesTrace s k then editRecord s (fun r => { r with firstFailed := if r.firstFailed = 0 then k else r.firstFailed }) else s

/-- B02 finds the CRC of the retention RAM wrong: nothing stored there is valid (R48, R90). -/
def checkRetention (s : State) : State :=
  if s.aon.crcOk then s else { s with aon := { s.aon with record := none, herd := none, reservedEnd := none, crcOk := true } }

/-- The start of B02: the record is loaded and a new attempt is counted, unless a rescue start follows (R48, R51, R461). -/
def loadRecord (s0 : State) : State :=
  let s := checkRetention s0
  let found := (s.aon.record.orElse (fun _ => s.nor.record)).getD {}
  let s1 := loadIndex (withStart s (fun b => { b with loaded := found, record := found, pairId := if s.hw.pairIdLow then 2 else 1
                                                      rescueStart := decide (3 ≤ found.consecFailed) }))
  if s1.start.rescueStart then s1
  else
    mirrorRecord (editRecord s1 (fun _ => { consecFailed := satNat 8 (found.consecFailed + 1), startSeq := (found.startSeq + 1) % 2 ^ 32 }))

/-- A step, or a further try of it, begins: its budget counts from here. -/
def stampStep (s : State) : State := withStart s (fun b => { b with since := s.clock })

/-- A step begins. -/
def beginStep (s : State) (k : Nat) : State := markStep (stampStep (if k = 2 then loadRecord s else s)) k 1 .running

/-! ### Failure (R49, R461, Table 2-10) -/

/-- A failed attempt ends in a module reset; its record is mirrored. -/
def attemptFails (s : State) : State := moduleReset (if leavesTrace s (stepNow s) then mirrorRecord s else s)

/-- Domains a step switches (Table 2-5), in groups that ramp together (Table 18-6). -/
def stepGroups (k : Nat) : List (List Nat) :=
  match k with
  | 4 => [[14]]
  | 8 => [[1]]
  | 10 => [[4], [9], [10, 11], [15]]
  | 12 => [[12]]
  | _ => []

/-- Domains up once a step has switched its domains; one that stays without power ends the sequence with its group. -/
def stepUp (s : State) (k : Nat) (without : Option Nat) : State :=
  let groups := stepGroups k
  let full := groups.takeWhile (fun g => !without.any (fun d => g.contains d))
  let rest := (groups.drop full.length).headD []
  (full.flatten ++ rest.filter (fun d => some d != without)).foldl
    (fun s d => if s.power.on.getLsbD d then s else domainUp s d) s

/-- The block whose failure is reported where the result does not say which (B10, B11): one that the spec leaves open among Table 2-10's. -/
def openBlock (s : State) (k : Nat) : Nat × Nat :=
  let n := Config.freeValue s.freeCount % 3
  if k = 10 then nth (3, 0) [(3, 0), (3, 1), (0, 17)] n else (3, n)

/-- Parts a step may name (Table 2-10). -/
def stepParts (k : Nat) : List (Nat × Nat) :=
  match k with
  | 10 => [(3, 0), (3, 1), (0, 17)]
  | 11 => [(3, 0), (3, 1), (3, 2)]
  | _ => []

/-- The part that Table 2-10 names for a failed step. [DESIGN CHOICE, log 23] -/
def failPart (s : State) (k : Nat) (r : StepResult) : Nat × Nat :=
  match k with
  | 2 => (5, 4)
  | 3 => if s.clocks.ok.getLsbD 0 then (5, 3) else (7, 3)
  | 4 => (5, 1)
  | 5 => (5, 1)
  | 6 => (7, 0)
  | 12 => (3, 3)
  | 13 => (3, 5)
  | 10 | 11 =>
    match r with
    | .failed region block => if (stepParts k).contains (region, block) then (region, block) else openBlock s k
    | _ => openBlock s k
  | _ => (0, 0)

/-- A result names a domain that the step switches. [DEDUCED, log 32] -/
def missingPower (k : Nat) (r : StepResult) : Option Nat :=
  match r with
  | .noPower d => if (stepGroups k).flatten.contains d then some d else none
  | _ => none

/-- FAIL_WORD of a failed step (R461). -/
def failWordOf (s : State) (k : Nat) (r : StepResult) : Word :=
  let reaction := if s.mode.mode = .fault then 3 else 0
  match missingPower k r with
  | some d => errWord 3 5 2 reaction false (0x100 + d)
  | none => let p := failPart s k r; errWord 3 p.1 p.2 reaction false k

/-- Outcome of a failed step that was performed in full or by its alternative (R461). -/
def failOutcome (alt : Bool) (r : StepResult) : StepOutcome :=
  if alt then .failedAlt else if r == .timeout then .timeout else .failed

/-- An optional step is performed by its alternative (R50). -/
def byAlternative (s : State) (k : Nat) : Bool :=
  let o := (nth (0, .notRun) s.start.loaded.steps (k - 1)).2
  (o == .failed || o == .timeout) && ((k == 4 && s.nor.training) || (k == 11 && s.nor.coeffs) || k == 12)

/-- The step in progress is performed by its alternative: an optional step on a repeat, the other slot of B07, the retry of B09 (R461). -/
def onAlternative (s : State) (k : Nat) : Bool := byAlternative s k || ((k == 7 || k == 9) && decide (1 < stepTries s k))

/-- Budget of a step, or of one of its tries, in ns (Table 2-5). -/
def budgetNs (s : State) (k : Nat) : Nat :=
  let ms := match k with
    | 1 => 4 | 2 => 2 | 3 => 6
    | 4 => if byAlternative s 4 then 10 else 150
    | 5 => 60 | 6 => 5 | 7 => 60 | 8 => 200 | 9 => 20 | 10 => 30
    | 11 => if byAlternative s 11 then 2 else 40
    | 12 => if byAlternative s 12 then 60 else 100
    | 13 => 10
    | _ => 50
  ms * 1000000

/-- Time the step in progress has taken, in ns. -/
def stepSpent (s : State) : Nat := 4 * (s.clock - s.start.since)

/-! ### Going on -/

/-- B03 of a rescue start is over: PD12 alone is switched on and the ROM loader started, with PCIe alone where B03 has failed (R51, R383,
RESCUE_START). [DEDUCED, log 25] -/
def rescueStart (s : State) (ethernet : Bool) : State :=
  let s1 := domainUp (withStart s (fun b => { b with rescue := true, rescuePcieOnly := !ethernet, running := false })) 12
  { s1 with zewen := { s1.zewen with linkUp := !s1.hw.perstLow } }

/-- A step is over: the next one begins, or the start has ended in FAULT (R49) or goes over to the rescue loader. -/
def stepOver (s : State) (k : Nat) : State :=
  let s1 := withStart s (fun b => { b with step := k })
  if k = 3 && s1.start.rescueStart then rescueStart s1 true
  else if 13 ≤ k && s1.mode.mode = .fault then faultStartDone s1
  else if 14 ≤ k then s1
  else beginStep s1 (k + 1)

/-- A step has failed: the attempt fails, or in FAULT passes it over, B12 apart (R49); a rescue start whose B03 fails goes on with PCIe
alone (R383). [DEDUCED, log 25] -/
def stepFails (s : State) (k tries : Nat) (o : StepOutcome) (w : Word) : State :=
  let s1 := noteFirstFailed (noteFailWord (markStep s k tries o) k w) k
  if k = 3 && s1.start.rescueStart then rescueStart (withStart s1 (fun b => { b with step := k })) false
  else if s1.mode.mode = .fault && 9 ≤ k && k != 12 then stepOver s1 k else attemptFails s1

/-- A step has passed. -/
def stepPasses (s : State) (k : Nat) : State := stepOver (markStep s k (stepTries s k) (if byAlternative s k then .okAlt else .ok)) k

/-! ### Steps with tests of their own -/

/-- B06: the slot with the valid header of the higher version, slot A on equal versions; none without a valid header. -/
def bootSlot (s : State) : Option Nat :=
  let a := (firmware s 0).bytes
  let b := (firmware s 1).bytes
  match headerOk a, headerOk b with
  | true, true => some (if slotVersion a < slotVersion b then 1 else 0)
  | true, false => some 0
  | false, true => some 1
  | false, false => none

/-- The slot's word of R416. -/
def slotWord (slot code : Nat) : Word := errWord 3 7 slot 0 false code

/-- One verification of B07 fails: the other slot is taken, or the step has failed (R461). [DESIGN CHOICE, log 23] -/
def slotFails (s : State) (code : Nat) : State :=
  let s1 := noteFailWord s 7 (slotWord s.start.slot code)
  if stepTries s1 7 ≤ 1 then markStep (stampStep (withStart s1 (fun b => { b with slot := 1 - b.slot }))) 7 2 .running
  else stepFails s1 7 2 .failedAlt (slotWord s.start.slot code)

/-- One verification of B07 (Table 20-3); a slot that overruns its budget or cannot be read fails with a code the spec leaves open. -/
def stepB07 (s : State) (r : StepResult) : State :=
  match r with
  | .ok =>
    let b := (firmware s s.start.slot).bytes
    let code := verifySlot s b
    let s1 := setFirmware s s.start.slot (fun f => { f with verify := code })
    if code = 0 then
      let s2 := withSec (editRecord s1 (fun r => { r with slotUsed := s.start.slot })) (fun k => { k with rootSlot := (rootSlotOf s b).getD 0 })
      stepOver (markStep s2 7 (stepTries s2 7) (if stepTries s2 7 ≤ 1 then .ok else .okAlt)) 7
    else slotFails s1 code
  | _ => slotFails { s with freeCount := s.freeCount + 1 } (Config.freeValue s.freeCount % 65536)

/-- One try of B09: the handshake, Chamois's comparison of digests and its STO latch (R44, R333); a second failure enters FAULT. -/
def stepB09 (s : State) (r : StepResult) : State :=
  if r == .ok && digestsAgree s && !s.cham.stoLatch then
    stepOver (markStep s 9 (stepTries s 9) (if stepTries s 9 ≤ 1 then .ok else .okAlt)) 9
  else if stepTries s 9 ≤ 1 then markStep (stampStep s) 9 2 .running
  else
    let w := chamoisWord 64
    let s1 := if s.mode.mode = .fault then s else trigger (error (chamoisLatch s w) w) .fault w .chamoisStop
    stepFails s1 9 2 .failedAlt w

/-- A step other than B07 and B09 does its work: none where the result, or what the step finds, fails it. [DESIGN CHOICE, log 22] -/
def stepWork (s : State) (k : Nat) : Option State :=
  match k with
  | 3 => if s.clocks.reference = .crystal && s.clocks.pllLock = 0x1F then some s else none
  | 4 => some { s with nor := { s.nor with training := s.nor.training || !byAlternative s 4 } }
  | 6 => (bootSlot s).map (fun slot => withStart s (fun b => { b with slot := slot }))
  | 10 => if isolated s 3 0 || isolated s 3 1 || isolated s 0 17 then none else some s
  | 11 => some { s with nor := { s.nor with coeffs := s.nor.coeffs || !byAlternative s 11 } }
  | 12 => some { s with hw := { s.hw with hostReady := true }, zewen := { s.zewen with linkUp := !s.hw.perstLow } }
  | 13 =>
    if !domainOn s 9 || isolated s 3 5 then none
    else
      let t := now s
      some { s with
        herd := { s.herd with running := true, ht := t, frac := 0, edges := 0, tick := t / tickNs s
                              integral := (s.aon.herd.map (fun v => v.2)).getD 0 }
        net := { s.net with net := .listen } }
  | _ => some s

/-- The floor rises with an image that asks for it (R417). [DEDUCED, log 114] -/
def raiseFloor (s : State) : State :=
  let b := runningFirmware s
  if slotRaisesFloor b && decide (s.sec.otp.floor < slotSecVersion b) then
    withSec s (fun k => { k with otp := { k.otp with floor := min 64 (slotSecVersion b) } })
  else s

/-- The end of B14: CONSEC_FAILED is cleared, the stored image staged for its check, and CONFIGURE entered (R47, R48, R130, R417). [DEDUCED,
log 26] -/
def startComplete (s : State) : State :=
  let s1 := mirrorRecord (editRecord s (fun r => { r with consecFailed := 0 }))
  let s2 := raiseFloor (withStart s1 (fun b => { b with running := false, done := true }))
  let s3 := match s2.nor.image with
    | none => s2
    | some img =>
      let c : Commit := { origin := none, checkOnly := false, image := img, base := s2.objs }
      let s3 := withStart (withImage s2 (fun i => { i with commit := some c })) (fun b => { b with storedCheck := true })
      setCycle s3 (tickNs (stagedState s3 c))
  acceptTarget s3 .configure 0

/-- The step in progress ends with a result; one that has overrun its budget has failed (R45). -/
def stepEnds (s : State) (r0 : StepResult) : State :=
  let k := stepNow s
  let r := if budgetNs s k < stepSpent s then .timeout else r0
  if !s.start.running then s
  else if s.start.failDue then
    stepFails s k (stepTries s k) (if onAlternative s k then .failedAlt else .failed)
      (if k = 7 then slotWord s.start.slot (Config.freeValue s.freeCount % 65536) else failWordOf s k (.failed 0 0))
  else if k = 7 then stepB07 s r
  else if k = 9 then stepB09 s r
  else
    let s1 := if k = 4 || k = 8 || k = 10 || k = 12 then stepUp s k (missingPower k r) else s
    match (if r == .ok then stepWork s1 k else none) with
    | none =>
      stepFails { s1 with freeCount := s1.freeCount + 1 } k (stepTries s1 k) (failOutcome (byAlternative s1 k) r) (failWordOf s1 k r)
    | some s2 => if k = 14 then startComplete (stepPasses s2 14) else stepPasses s2 k

/-- START_ATTEMPT (R45 to R50): an attempt begins, and its steps end with the results given, one per step or try; results that follow in a
later command go on with the attempt in progress. [DESIGN CHOICE, log 22] -/
def execStartAttempt (clk : Nat) (results : List StepResult) (s : State) : Host.Outcome State Fault Refusal :=
  let s1 := begin clk s
  let ready := !s1.start.done && !s1.start.rescue && !s1.hw.brownOut
  let s2 := if ready && !s1.start.running then stampStep (withStart s1 (fun b => { b with running := true, step := 0 })) else s1
  .next (if ready then results.foldl stepEnds s2 else s1)

/-- START_STEP_TIMEOUT (R45): the step in progress has used up its budget. -/
def execStartStepTimeout (clk : Nat) (s : State) : Host.Outcome State Fault Refusal :=
  let s1 := begin clk s
  .next (if budgetNs s1 (stepNow s1) ≤ stepSpent s1 then stepEnds s1 .timeout else s1)

/-- DOMAIN_POWER_GOOD_TIMEOUT (R394): a regulator out of range, which during a start attempt fails the step in progress instead. -/
def execDomainPowerGoodTimeout (clk domain : Nat) (s : State) : Host.Outcome State Fault Refusal :=
  let s1 := begin clk s
  .next (if s1.start.running then stepEnds s1 (.noPower domain)
    else if 1 ≤ domain && domain ≤ 15 then powerGoodTimeout s1 domain else s1)

/-! ### Resets and supplies (R15, R38, R432 to R434, R443) -/

/-- A reset that cuts an attempt short leaves that attempt failed (R434, R49). [DESIGN CHOICE, log 23] -/
def cutShort (s : State) : State := if s.start.running then attemptFails s else moduleReset s

/-- MOD_RESET_N (R434). -/
def execModResetN (clk : Nat) (s : State) : Host.Outcome State Fault Refusal :=
  let s1 := begin clk s
  .next (if s1.hw.brownOut then s1 else cutShort s1)

/-- COMMAND_RESET_BEGIN (R38, R44): at least 100 µs after the completion of the command that posted it. -/
def execCommandResetBegin (clk : Nat) (s : State) : Host.Outcome State Fault Refusal :=
  let s1 := begin clk s
  .next (if s1.mode.resetPosted.any (fun c => decide (c + 25000 ≤ s1.clock)) then cutShort s1 else s1)

/-- SUPERVISOR_WATCHDOG_EXPIRY (Table 2-3, Table 2-9): the error word is written, and BOOT, which ranks above FAULT, begins at once.
[DEDUCED, log 30] -/
def execSupervisorWatchdogExpiry (clk : Nat) (s : State) : Host.Outcome State Fault Refusal :=
  let s1 := begin clk s
  .next (if domainOn s1 1 then cutShort (error s1 (errWord 3 0 0 3 false 0)) else s1)

/-- VIN_12V lies in its operating range (Table 21-4). -/
def vinGood (mv : Nat) : Bool := decide (10800 ≤ mv) && decide (mv ≤ 13200)

def withHw (s : State) (f : HardwareState → HardwareState) : State := { s with hw := f s.hw }

/-- MOD_PG follows the input and the brown-out (Table 21-5). -/
def setVin (s : State) (mv : Nat) : State := withHw s (fun h => { h with vin := mv, modPg := vinGood mv && !h.brownOut })

/-- The core die and AON have lost their supply. [DESIGN CHOICE, log 28] -/
def coreLost (s : State) : State := { moduleReset s with mode := {}, aon := {} }

/-- POWER_ON (R432, R433): the input reaches 10.8 V after a brown-out, or after it was removed, which clears Chamois as well. [DESIGN
CHOICE, log 28] -/
def execPowerOn (clk mv : Nat) (removed : Bool) (s : State) : Host.Outcome State Fault Refusal :=
  let s1 := begin clk s
  .next (if mv < 10800 || !(removed || s1.hw.brownOut) then s1
    else
      let s2 := coreLost s1
      let s3 := if removed then { s2 with cham := { digest := s2.cham.digest }, safety := {} } else s2
      setVin (withHw s3 (fun h => { h with brownOut := false, vinHigh := false, supplyOut := [] })) mv)

/-- BROWN_OUT (R432): every regulator but Chamois's is shut down. [DESIGN CHOICE, log 28] -/
def execBrownOut (clk mv : Nat) (s : State) : Host.Outcome State Fault Refusal :=
  let s1 := begin clk s
  .next (if 10200 ≤ mv then s1
    else
      let s2 := coreLost s1
      setVin { s2 with hw := { s2.hw with brownOut := true }, power := { s2.power with on := 0 } } mv)

/-- Error word of the 12 V input. [DESIGN CHOICE, log 29] -/
def vinWord (reaction : Nat) : Word := errWord 3 7 2 reaction false 0

/-- LOW_INPUT (R432). -/
def execLowInput (clk mv : Nat) (s : State) : Host.Outcome State Fault Refusal :=
  let s1 := begin clk s
  .next (if mv < 10200 || 10800 ≤ mv || s1.hw.brownOut then s1 else error (setVin s1 mv) (vinWord 0))

/-- HIGH_INPUT (R432): a regulator out of range. -/
def execHighInput (clk mv : Nat) (s : State) : Host.Outcome State Fault Refusal :=
  let s1 := begin clk s
  .next (if mv ≤ 13600 || s1.hw.brownOut then s1
    else faultError (withHw (setVin s1 mv) (fun h => { h with vinHigh := true })) (vinWord 3) .regulator)

/-- VIN_BACK_IN_RANGE (R460): the 12 V input (supply 0), or a regulator, is back in range. -/
def execVinBackInRange (clk supply mv : Nat) (s : State) : Host.Outcome State Fault Refusal :=
  let s1 := begin clk s
  .next (if supply = 0 then
      (if vinGood mv && !s1.hw.brownOut then withHw (setVin s1 mv) (fun h => { h with vinHigh := false }) else s1)
    else withHw s1 (fun h => { h with supplyOut := h.supplyOut.filter (fun d => d != supply) }))

/-- DIE_TEMPERATURE (R443): `pwr.die_temp`, THERM_N and the FAULT above 125 °C, each threshold with 5 °C of hysteresis. [DESIGN CHOICE, log
29] -/
def execDieTemperature (clk : Nat) (tenths : Int) (s : State) : Host.Outcome State Fault Refusal :=
  let s1 := begin clk s
  let therm := if s1.hw.thermLow then decide (1050 ≤ tenths) else decide (1100 < tenths)
  let hot := if s1.hw.overTemp then decide (1200 ≤ tenths) else decide (1250 < tenths)
  let s2 := withHw s1 (fun h => { h with dieTemp := tenths, thermLow := therm, overTemp := hot })
  let s3 := if therm && !s1.hw.thermLow then error s2 (errWord 3 5 2 0 false 16) else s2
  .next (if hot && !s1.hw.overTemp then
      faultError { s3 with freeCount := s3.freeCount + 1 } (errWord 3 5 2 3 false (Config.freeValue s3.freeCount)) .dieTemp
    else s3)

end Sys2Proof.Machine
end

