-- ==== Sys2Proof/Machine/Errors.lean ====
section
/-! DEFINITION. Errors that the hardware finds of itself, and what contains them (01_cell_architecture.md R16 to R18;
02_modes_and_start.md R54; 17_acquisition_and_logs.md R370, R375). -/

namespace Sys2Proof.Machine

/-- A block code of Table 1-2. -/
def blockKnown (region block : Nat) : Bool :=
  match region with
  | 5 => decide (block < 5)
  | 6 => block == 0
  | 7 => decide (block < 6)
  | _ => decide (block < regionBlocks region)

/-- Level of a word of a region's own parts: the parts outside the five regions report at their row's level (R19). -/
def partLevel (region level : Nat) : Nat := if region = 5 || region = 7 then 3 else if region = 6 then 2 else level

/-- A corrected error is counted where its chapter has a count: `solver.ecc_corrected`, `dsp.ecc_corrected`. -/
def countCorrected (s : State) (region block : Nat) : State :=
  if region = 1 && block = 4 then bump s 0x31 0 2 else if region = 2 && block = 2 then bump s 0x10 4 2 else s

/-- A block that cannot be repaired is isolated (R18), with what ends because of it: a solver run with the array's controller or a cluster
(R169, Table 8-7), the PCIe link with its endpoint. [DESIGN CHOICE, log 41] -/
def blockFails (s : State) (region block element : Nat) : State :=
  let s1 := isolate s region block element
  if region = 1 then runsIsolated s1
  else if region = 3 && block = 3 then pcieDown s1 false
  else s1

/-- A part of codes 5 to 7 fails (Table 2-9); what the AON logic holds in retention RAM no longer has a valid CRC (R90). [DESIGN CHOICE, log
41] -/
def partFails (s0 : State) (region block element : Nat) : State :=
  let s := if region = 5 && block = 4 then { s0 with aon := { s0.aon with crcOk := false } } else s0
  let w := fun (reaction : Nat) => errWord (partLevel region 3) region block reaction false element
  match region with
  | 5 => faultError s (w 3) .untilReset
  | 6 => faultError s (w 3) .momentary
  | _ => if block = 2 then faultError s (w 3) .regulator else error s (w 0)

/-- ERROR_DETECTED (R17, R54). -/
def execErrorDetected (clk : Nat) (kind : ErrorKind) (region block element : Nat) (s : State) : Host.Outcome State Fault Refusal :=
  let s1 := begin clk s
  .next (if !blockKnown region block || isolated s1 region block || s1.hw.brownOut then s1
    else
      match kind with
      | .corrected => countCorrected (error s1 (errWord (partLevel region 0) region block 0 false element)) region block
      | .retried => error s1 (errWord (partLevel region 1) region block 0 false element)
      | .uncorrected => if region ≤ 4 then blockFails s1 region block element else partFails s1 region block element
      | .regulator =>
        let id := 256 + element
        let s2 := withHw s1 (fun h => { h with supplyOut := if h.supplyOut.contains id then h.supplyOut else h.supplyOut ++ [id] })
        faultError s2 (errWord 3 7 2 3 false element) .regulator)

/-- Contained errors of a block in the last second. -/
def containedCount (s : State) (region block : Nat) : Nat :=
  (s.mode.contained.filter (fun e => e.1 = region && e.2.1 = block && decide (now s < e.2.2 + 1000000000))).length

/-- CONTAINED_ERROR_RATE (R54): 16 contained errors of a block within one second count as its failure; the word's element is left open.
[DESIGN CHOICE, log 42] -/
def execContainedErrorRate (clk region block : Nat) (s : State) : Host.Outcome State Fault Refusal :=
  let s1 := begin clk s
  .next (if 4 < region || containedCount s1 region block < 16 || isolated s1 region block then s1
    else blockFails { s1 with freeCount := s1.freeCount + 1 } region block (Config.freeValue s1.freeCount))

/-! ### Uncorrectable DDR errors (R54, R370, R375) -/

/-- Rows of the capture that cannot be read become a gap (R370). -/
def captureRowsLost (s : State) (first count : Nat) : State :=
  let hit := fun (i : Nat) => decide (first ≤ i) && decide (i < first + count)
  let c := s.acq.capture
  let gone := (c.rows.filter (fun r => hit r.1)).map (fun r => r.1)
  if gone.isEmpty then s
  else
    let g := gapRows true c.gaps gone
    let s1 := withCapture s (fun c => { c with
      rows := c.rows.filter (fun r => !hit r.1), gaps := g.1, eccLost := true, gapLimit := c.gapLimit || g.2 })
    if g.2 && captureBusy s then captureEnds s1 .aborted else s1

/-- Entries of a class that cannot be read are replaced by one LOST marker with ECC set (R375). [DEDUCED, log 99] -/
def entriesLost (time seq first count : Nat) (l : List LogEntry) : Option (List LogEntry) :=
  let hit := fun (e : LogEntry) => decide (first ≤ e.seq) && decide (e.seq < first + count)
  let n := (l.filter hit).length
  if n = 0 then none
  else
    let before := l.takeWhile (fun e => !hit e)
    let after := (l.drop before.length).filter (fun e => !hit e)
    some (before ++ { lostMarker time seq n with ecc := true } :: after)

/-- Log memory of a class (0 alarm, 1 event, 2 trace) is lost from SEQ `first` on. -/
def logLost (s : State) (cls first count : Nat) : State :=
  let t := now s
  match cls with
  | 0 =>
    match entriesLost t s.logs.seqAlarm first count s.logs.alarms with
    | some l => withLogs s (fun g => { g with alarms := l, seqAlarm := g.seqAlarm + 1 })
    | none => s
  | 1 =>
    match entriesLost t s.logs.seqEvent first count s.logs.events with
    | some l => withLogs s (fun g => { g with events := l, seqEvent := g.seqEvent + 1 })
    | none => s
  | _ =>
    let open_ := s.logs.traceOpen && !s.logs.traces.getLast?.any (fun e => decide (first ≤ e.seq) && decide (e.seq < first + count))
    match entriesLost t s.logs.seqTrace first count s.logs.traces with
    | some l => withLogs s (fun g => { g with traces := l, seqTrace := g.seqTrace + 1, traceOpen := open_ })
    | none => s

/-- DDR_UNCORRECTABLE_ERROR (R54): area 0 supervisor code, 1 plan memory, 2 cell image; 3 the acquisition buffer from sample index `first`
on; 4 to 6 the memory of the alarm, event and trace classes from SEQ `first` on. The element of the word is left open. [DESIGN CHOICE, log
42] -/
def execDdrUncorrectableError (clk area first count : Nat) (s : State) : Host.Outcome State Fault Refusal :=
  let s1 := begin clk s
  let w := fun (reaction : Nat) => errWord 3 5 1 reaction false (Config.freeValue s1.freeCount)
  let s2 := { s1 with freeCount := s1.freeCount + 1 }
  .next (if !domainOn s1 14 && !s1.start.running then s1
    else if area ≤ 2 then faultError s2 (w 3) .untilReset
    else if area = 3 then error (captureRowsLost s2 first count) (w 0)
    else if area ≤ 6 then error (logLost s2 (area - 4) first count) (w 0)
    else s1)

end Sys2Proof.Machine
end

