-- ==== Sys2Proof/Machine/Modes.lean ====
section
/-! DEFINITION. Mode commands and transitions (02_modes_and_start.md R36 to R44; 18_clocks_and_power.md R395). -/

namespace Sys2Proof.Machine

/-! ### Conditions of Table 2-3 and R40 -/

/-- A condition of every present arm in both channels. -/
def allArms (s : State) (p : StopState → Bool) : Bool :=
  (List.range 8).all (fun a => !armPresent s.objs a || (p (armStop s false a).state && p (armStop s true a).state))

/-- Every present arm is at standstill (R38). [DEDUCED, log 34] -/
def atStandstill (s : State) : Bool :=
  (List.range 8).all (fun a => !armPresent s.objs a || decide (2 ≤ (armStop s false a).stillRun))

/-- A jog or teach move is in progress. -/
def jogging (s : State) : Bool :=
  !s.prof.teaches.isEmpty || (List.range 80).any (fun ch => match (chan s ch).motion with | some (.jog _ _ _ _) => true | _ => false)

/-- A channel holds a latched fault: a fault reaction, an input DISCREPANCY or an output diagnosis. [DEDUCED, log 33] -/
def faultLatched (c : Channel2) : Bool :=
  c.faultStop || c.inputs.any (fun i => i.discrepancy) || c.switches.any (fun w => w.overload || w.openWire || w.overTemp || w.stuck)

/-- CONFIGURE may be left to COMMISSION or RUN (Table 2-3). [DEDUCED, log 33] -/
def configureLeavable (s : State) : Bool :=
  imageActive s && s.image.commit.isNone && !s.start.storedCheck && s.safety.inForce &&
    !faultLatched s.safety.processor && !faultLatched s.safety.chamois && !s.cham.stoLatch &&
    (presentNodes s.objs).all (fun n => (nodeOf s n).state = .integrated)

/-- The target in progress is reached (R40). [DEDUCED, log 35] -/
def targetReached (s : State) (t : Mode) : Bool :=
  match t with
  | .hold => allArms s (fun x => x == .sos)
  | .commission => domainOn s 7 && domainOn s 8 && allArms s (fun x => x != .sto)
  | .run => domainOn s 7 && domainOn s 8 && allArms s (fun x => x != .sto)
  | .boot => false
  | _ => sequenceDone s

/-! ### The start of a transition (R40, R395) -/

/-- An IMAGE_COMMIT that a transition to FAULT or BOOT meets is abandoned (R86). [DESIGN CHOICE, log 27] -/
def abandonCommit (s : State) : State :=
  match s.image.commit with
  | none => s
  | some c =>
    let s1 := withImage s (fun i => { i with commit := none })
    match c.origin with
    | some o => complete s1 o stModeTransition
    | none => if c.peer then s1 else withStart s1 (fun b => { b with storedCheck := false })

/-- Domains that `pwr.optional_off` keeps off are left out of a sequence (R396). -/
def withoutOptional (s : State) (on : List (List Nat)) : List (List Nat) :=
  let mask := if imageActive s then ov s 0xB0 1 1 else 0
  on.map (fun g => g.filter (fun d => !((d = 11 || d = 13) && bit mask d)))

/-- The domains of a target (Table 18-6); domains that stand as they should are left out. HOLD has the domains of RUN, which a CONFIGURE
that it replaces may have begun to switch off (Table 2-1); a FAULT entered in BOOT switches none (R49). [DEDUCED, log 140] -/
def switchFor (s : State) (t : Mode) : State :=
  match t with
  | .configure => startSequence s [8, 7] (withoutOptional s [[2, 3], [5, 6], [13]])
  | .commission | .run | .hold => startSequence s [] [[7], [8]]
  | .fault => if s.mode.faultInBoot then s else startSequence s [6, 5] (withoutOptional s [[2, 3], [13]])
  | .boot => s

/-- What a target brings about when its transition starts (R42, R44, R86, R211, Table 15-2). -/
def targetEntry (s : State) (t : Mode) : State :=
  match t with
  | .hold => pisteHold s
  | .configure => pisteClear s
  | .fault => abandonCommit (pisteClear s)
  | .boot =>
    withMode (settleWaits (abandonCommit s) (fun m => m = .boot) stOk) (fun m => { m with
      resetPosted := some (m.resetPosted.getD s.clock), resetFinal := s.mode.waiting.any (fun w => w.target = .boot) })
  | _ => { s with cham := { s.cham with startLatch := false } }

/-- A pending transition starts (MODE_TRANSITION_START); the SET_MODE of a target it replaces completes with SUPERSEDED (R41). [DEDUCED, log
31] [DEDUCED, log 39] -/
def startTransition (s : State) : State :=
  match s.mode.accepted with
  | none => s
  | some t =>
    let s1 := match s.mode.target with
      | some old => settleWaits s (fun m => m = old && m != t) stSuperseded
      | none => s
    let s2 := withMode s1 (fun m => { m with accepted := none, target := some t, complete := false, targetWord := m.triggerWord })
    switchFor (targetEntry (setInt s2 1) t) t

/-! ### Entry into a mode (R36, R37, R40) -/

/-- Every arm hold ends; `arm.hold_cause` keeps its word (R37). [DEDUCED, log 36] -/
def endArmHolds (s : State) : State :=
  withMode s (fun m => { m with arms := m.arms.map (fun h => { h with held := false, causes := [], released := false }) })

/-- The separation monitor starts anew once motion has ended for good (R298). -/
def sepAnew (s : State) : State :=
  withSep s (fun p => { p with firstStep := true, demandP := List.replicate 8 .none, demandC := List.replicate 8 .none })

/-- What the entry into a mode brings about. [DEDUCED, log 36] -/
def modeEntry (s : State) (t : Mode) : State :=
  match t with
  | .configure => sepAnew (endArmHolds { s with herd := { s.herd with txts := [] } })
  | .fault => sepAnew (endArmHolds (outputsFault s))
  | _ => s

/-- `cell.mode` takes the value of a completed target. -/
def takeMode (s : State) (t : Mode) : State :=
  let old := s.mode.mode
  let s1 := withMode s (fun m => { m with
    mode := t, target := none, complete := false, faultInBoot := t = .fault && old = .boot && m.faultInBoot
    cause := if t = .hold || t = .fault then m.targetWord else m.cause
    resume := if t = .hold && old != .hold then some old else m.resume
    causes := if t = .hold || t = .fault || m.accepted = some .hold || m.accepted = some .fault then m.causes else [] })
  let s2 := if old = .hold && t != .hold then pisteHoldEnd s1 else s1
  noteMode (modeEntry s2 t) t

/-- The mode part of a tick start: a completed target is taken, then a pending one starts (R40). -/
def modeTick (s : State) : State :=
  let s1 := match s.mode.target with
    | some t => if s.mode.complete then takeMode s t else s
    | none => s
  startTransition s1

/-- MODE_TRANSITION_COMPLETE (R40): the SET_MODE commands of the target complete; `cell.mode` follows at the next tick start. -/
def modeTransitionComplete (s : State) : State :=
  match s.mode.target with
  | none => s
  | some t =>
    if s.mode.complete || !targetReached s t then s
    else settleWaits (withMode s (fun m => { m with complete := true })) (fun m => m = t) stOk

def execModeTransitionComplete (clk : Nat) (s : State) : Host.Outcome State Fault Refusal :=
  .next (modeTransitionComplete (begin clk s))

/-! ### SET_MODE (R38, R39, R41, R43, R44) -/

/-- Mode of a code of Table 2-1. -/
def modeOf : Nat → Mode
  | 0 => .boot
  | 1 => .configure
  | 2 => .commission
  | 3 => .run
  | 4 => .hold
  | _ => .fault

/-- HOLD may be resumed (Table 2-3): its causes are gone, no HOLD_REQUEST input is in its safe state and every arm is in SOS. -/
def holdLeavable (s : State) : Bool := !anyCause s && s.safety.holdInputs.isEmpty && allArms s (fun x => x == .sos)

/-- The preconditions of a row of Table 2-3 that SET_MODE triggers, FAULT apart; within a transition a target above the one in force may be
the present mode itself (Table 2-4). [DEDUCED, log 12] -/
def rowOpen (s : State) (m : Mode) : Bool :=
  let cur := s.mode.mode
  match m with
  | .hold => cur == .commission || cur == .run || cur == .hold
  | .configure => cur == .configure || ((cur == .commission || cur == .run || cur == .hold) && atStandstill s)
  | .commission =>
    cur == .commission || (cur == .configure && configureLeavable s) || (cur == .run && atStandstill s) ||
      (cur == .hold && s.mode.resume == some .commission && holdLeavable s)
  | .run =>
    (cur == .configure && configureLeavable s) || (cur == .commission && !jogging s && atStandstill s) ||
      (cur == .hold && s.mode.resume == some .run && holdLeavable s)
  | _ => false

/-- A SET_MODE is accepted and waits for its transition. [DESIGN CHOICE, log 13] -/
def acceptMode (s : State) (o : Origin) (m : Mode) : State :=
  let s1 := acceptTarget s m 0
  withMode s1 (fun x => { x with
    waiting := x.waiting ++ [{ origin := o, target := m }], causes := if m = .hold then [] else x.causes })

/-- Latches of the safe outputs' diagnosis are cleared where their cause is gone (R44). -/
def clearOutputLatches (c : Channel2) : Channel2 :=
  { c with switches := c.switches.map (fun w => { w with
      overload := false, openWire := false, limited := false, overTemp := w.overTemp && w.hotNow, stuck := w.stuck && w.stuckNow }) }

/-- Both channels clear the faults they latched in the FAULT that ends (R44). -/
def clearLatches (s : State) : State :=
  let f := fun (c : Channel2) => clearOutputLatches { c with faultStop := false, arms := c.arms.map (fun a => { a with violated := false, violation := false }) }
  { s with
    safety := { s.safety with processor := f s.safety.processor, chamois := f s.safety.chamois }
    cham := { s.cham with stoLatch := false, fault := 0, ended := true } }

/-- SET_MODE CONFIGURE in FAULT (R44). [DEDUCED, log 11] [DEDUCED, log 31] -/
def leaveFault (s : State) (o : Origin) : State :=
  if !s.mode.resetEdge.any (fun e => decide (now s < e + 10000000000)) then complete s o stFaultResetMissing
  else if faultLasts s then complete s o stPrecondition
  else
    let s1 := withMode (clearLatches s) (fun m => { m with resetEdge := none })
    if s1.mode.faultInBoot then
      let s2 := acceptMode s1 o .boot
      if s2.herd.running then s2 else startTransition s2
    else acceptMode s1 o .configure

/-- During a transition a SET_MODE that names no mode above its target is refused (R41, Table 2-4). [DEDUCED, log 12] -/
def modeRefused (s : State) (e : Entry) : Bool :=
  (targetInForce s).any (fun t => !fixedLen 1 e || decide (modeRank (modeOf (le (entryArgs e) 0 1)) ≤ modeRank t))

/-- SET_MODE, which no transition refuses. [DEDUCED, log 11] [DEDUCED, log 12] -/
def setMode (e : Entry) (_ : Transport) (s : State) : State :=
  let code := le (entryArgs e) 0 1
  let o := originOf e
  let m := modeOf code
  if 6 ≤ code then complete s o stBadArgument
  else if m = s.mode.mode && !inTransition s then complete s o stOk
  else if m = .configure && s.mode.mode = .fault && !inTransition s then leaveFault s o
  else if rowOpen s m then acceptMode s o m
  else complete s o stPrecondition

/-- SET_MODE (R39): one argument byte. [DEDUCED, log 10] -/
def execSetMode (clk : Nat) (e : Entry) (s : State) : Host.Outcome State Fault Refusal :=
  .next (command { opcode := 0x0012, refusedBy := modeRefused } (fun e => le (entryArgs e) 0 1 != 4) (fixedLen 1) setMode clk e s)

/-- RESET (Table 2-3, Table 2-4): BOOT ranks above every target, and the reset begins at least 100 µs after the completion. -/
def resetCommand (e : Entry) (_ : Transport) (s : State) : State :=
  let s1 := complete s (originOf e) stOk
  if s1.mode.resetPosted.isSome then s1
  else withMode (acceptTarget s1 .boot 0) (fun m => { m with resetPosted := some s1.clock })

def execReset (clk : Nat) (e : Entry) (s : State) : Host.Outcome State Fault Refusal :=
  .next (command { opcode := 0x0011, priv := true } (fun _ => true) (fixedLen 0) resetCommand clk e s)

/-- RESET_EDGE_WINDOW_EXPIRY (R44): 10 s after a valid reset edge. -/
def execResetEdgeWindowExpiry (clk : Nat) (s : State) : Host.Outcome State Fault Refusal :=
  let s1 := begin clk s
  .next (if s1.mode.resetEdge.any (fun e => decide (e + 10000000000 ≤ now s1)) then withMode s1 (fun m => { m with resetEdge := none }) else s1)

end Sys2Proof.Machine
end

