-- ==== Sys2Proof/Machine/ObjWrite.lean ====
section
/-! DEFINITION. OBJ_WRITE, the tick start at which its records take effect, and the gate request that is refused
(03_zewen_interface.md R76 to R79; 18_clocks_and_power.md R391 to R393). -/

namespace Sys2Proof.Machine



/-- Steps 6 and 7 of R78 and the block that serves the object (R393), for a record that steps 1 to 5 let through. -/
def judgeValue (s : State) (final : List (Nat × Nat)) (row : ObjRow) (before : List WriteRecord) (r : WriteRecord) : Option (Nat × Bool) :=
  if !rangeOk s final row r.key r.value then some (stRangeError, false)
  else if objectDown s r.key then some (stPrecondition, true)
  else (judgeMoment s before r).map (fun st => (st, false))

/-- One record of an OBJ_WRITE: none when it is applied or skipped, else the status, and whether RESULT holds the key alone (R393). -/
def judgeRecord (s : State) (priv : Bool) (final : List (Nat × Nat)) (before : List WriteRecord) (r : WriteRecord) : Option (Nat × Bool) :=
  match judgeForm s priv true r with
  | some st => if st = stViewLimited then none else some (st, false)
  | none =>
    match objRow r.key with
    | none => some (stNoObject, false)
    | some row =>
      match judgeMode s row with
      | some st => some (st, false)
      | none => judgeValue s final row before r

/-- The first record that fails: its index, itself, its status, and whether RESULT holds the key alone. -/
def firstFailing (s : State) (priv : Bool) (final : List (Nat × Nat)) :
    Nat → List WriteRecord → List WriteRecord → Option (Nat × WriteRecord × Nat × Bool)
  | _, _, [] => none
  | i, before, r :: rest =>
    match judgeRecord s priv final before r with
    | some (st, key) => some (i, r, st, key)
    | none => firstFailing s priv final (i + 1) (before ++ [r]) rest

/-- A refused request to close a gate counts (R391). -/
def closesGate (r : WriteRecord) : Bool :=
  r.key / 65536 == 0xB0 && decide (0x20 ≤ r.key / 256 % 256) && leNat r.value == 1

/-- OBJ_WRITE (R77 to R79): judged now, in effect at the next tick start. [DEDUCED, log 18] -/
def objWrite (e : Entry) (_ : Transport) (s : State) : State :=
  let o := originOf e
  let priv := sessionPriv s e.mbx
  match parseRecords (entryArgs e) with
  | none => complete s o stBadLength
  | some [] => complete s o stBadLength
  | some (p :: ps) =>
    let rs := (p :: ps).map (·.2)
    let applied := rs.filter (fun r => judgeForm s priv true r != some stViewLimited)
    let final := stageObjs (s.writes.foldl (fun f q => stageObjs f q.records) s.objs) applied
    match firstFailing s priv final 0 [] rs with
    | some (i, r, st, key) =>
      let s1 := if closesGate r && st = stPrecondition && !key then bump s 0xB0 0 9 else s
      complete s1 o st (if key then leBytes 4 r.key else leBytes 4 i ++ leBytes 4 (keyType r))
    | none =>
      let skipped := rs.length - applied.length
      let s1 := (List.range skipped).foldl (fun s _ => countDenied s) s
      { s1 with writes := s1.writes ++ [{ origin := o, records := applied, limited := decide (0 < skipped) }] }

def execObjWrite (clk : Nat) (e : Entry) (s : State) : Host.Outcome State Fault Refusal :=
  .next (command { opcode := 0x0021 } (fun _ => false) (fun _ => true) objWrite clk e s)

/-- Slots in which a write starts a run. -/
def runSlots (rs : List WriteRecord) : List Nat :=
  (rs.filter (fun r => startsRun r && le r.value 0 1 != 0)).map (fun r => r.key / 256 % 256 - 0x10)

/-- The OBJ_WRITE executed first of those that wait takes effect, once a tick has started since; it completes at once, or when the last of
its runs has started (R79, R179). [DEDUCED, log 17] -/
def objWriteEffect (s : State) : State :=
  match s.writes with
  | [] => s
  | q :: rest =>
    if !s.herd.running || !q.due then s
    else
      let s1 := applyRecords { s with writes := rest } q.records
      settleRuns (withSolver s1 (fun v => { v with waits := v.waits ++
        [(q.origin, if q.limited then stViewLimited else stOk, runSlots q.records)] }))

def execObjWriteEffect (clk : Nat) (s : State) : Host.Outcome State Fault Refusal := .next (objWriteEffect (begin clk s))

/-- A gate request that has waited 256 cycles of its block's clock for an access is refused (R392): BUSY, GATE_BUSY in CLK_EVENT, and
nothing of its OBJ_WRITE is applied. [DEDUCED, log 17] -/
def gateTimeout (s : State) : State :=
  match s.writes with
  | [] => s
  | q :: rest =>
    if q.records.any closesGate then
      complete (clkEvent (bump { s with writes := rest } 0xB0 0 9) 6) q.origin stBusy
    else s

def execGateRequestTimeout (clk : Nat) (s : State) : Host.Outcome State Fault Refusal := .next (gateTimeout (begin clk s))

end Sys2Proof.Machine
end

