-- ==== Sys2Proof/Machine/Registers.lean ====
section
/-! DEFINITION. The registers of BAR0 and BAR2: reads with a side effect and writes (22_register_map.md R445 to R456; 03_zewen_interface.md
R76; 18_clocks_and_power.md R393). -/

namespace Sys2Proof.Machine

/-! ### Access rules (R76, R393, R445 to R448) -/

/-- The block that serves a register, with its power domain (Table 22-1); none for those that are always powered. -/
abbrev Server := Option (Nat × Nat × Nat)

def servedBy (offset : Nat) : Server :=
  if 0x0100 ≤ offset && offset < 0x0180 then some (3, 3, 12)
  else if 0x0800 ≤ offset && offset < 0x0838 then some (3, 5, 9)
  else if offset = 0x0904 then some (0, 0, 1)
  else if 0x0900 ≤ offset && offset < 0x0910 then some (4, 3, 13)
  else if 0xF000 ≤ offset then some (3, 3, 12)
  else none

/-- The serving block is gated, isolated or without power. -/
def serverDown (s : State) (b : Server) : Bool :=
  match b with
  | none => false
  | some (r, k, d) => blockDown s r k d

/-- An access through BAR2 has the privileged view while a mailbox bound to PCIe holds a PRIVILEGED session; otherwise BAR2 acts as BAR0
(R56). -/
def privView (s : State) (bar2 : Bool) : Bool := bar2 && s.zewen.mbx.any (fun b => b.via = .pcie && b.state = .privileged)

/-- A register read (R393): `act` gives the value and the state after it; an access to a block that is down reads zero and counts in the
unprivileged view, and ends in a Completer Abort without a value in the privileged view. Without a link no access arrives (R448). [DEDUCED,
log 102] -/
def readReg (s : State) (b : Server) (bar2 : Bool) (act : State → Nat × State) : State :=
  if !s.zewen.linkUp then s
  else if serverDown s b then (if privView s bar2 then emit s .completerAbort else emit (countGated s) (.value 0))
  else emit (act s).2 (.value (act s).1)

/-- A register write (R76, R393). `priv` marks a privileged-only item, which an unprivileged write does not reach and VIEW_DENIED counts.
[DEDUCED, log 102] -/
def writeReg (s : State) (b : Server) (bar2 priv : Bool) (act : State → State) : State :=
  if !s.zewen.linkUp then s
  else if priv && !privView s bar2 then countDenied s
  else if serverDown s b then (if privView s bar2 then clkEvent s 7 else countGated s)
  else act s

/-- Index of a BAR's own latches: 0 for BAR0, 1 for BAR2 (R449). -/
def barIndex (privileged : Bool) : Nat := if privileged then 1 else 0

/-! ### What each register holds (R445, R447, R456, Table 22-4) -/

/-- Chamois's latches are known once the handshake of B09 has passed. [DEDUCED, log 160] -/
def chamoisKnown (s : State) : Bool := s.start.done || decide (9 ≤ s.start.step)

/-- MODE_STATUS. -/
def modeStatus (s : State) : Nat :=
  let t := modeTarget s
  modeCode s.mode.mode + 16 * modeCode t + 256 * b2n (t != s.mode.mode) + 512 * b2n s.start.rescue + 1024 * b2n (imageActive s) +
    2048 * b2n s.safety.inForce + 32768 * b2n (chamoisKnown s && (s.cham.startLatch || s.cham.stoLatch))

/-- STATE of a session (Table 3-9). -/
def sessionCode : SessionState → Nat
  | .closed => 0
  | .opened => 1
  | .challenged => 2
  | .privileged => 3
  | .closing => 4

/-- MBX_STATE of mailbox m. -/
def mbxState (s : State) (m : Nat) : Nat :=
  let b := mbx s m
  sessionCode b.state + 8 * b2n b.dbErr + 16 * (nth 0 s.aon.epochs m % 16) + 256 * b2n (b.state != .closed && viaUdp b) +
    512 * b2n b.lockoutEnd.isSome + 65536 * b.discards

/-- HT_STATUS. -/
def herdStatus (s : State) : Nat :=
  let h := s.herd
  ov s 0x80 0 0 + 16 * herdCode h.state + 128 * b2n (h.slewRem != 0) + 256 * h.selected.getD 3 + 4096 * b2n (s.clocks.ok.getLsbD 1) +
    8192 * b2n (h.lastPps.any (fun t => decide (now s < t + 1500000000))) + 32768 * b2n h.stepped

/-- ACQ_STATUS. -/
def acqStatus (s : State) : Nat :=
  let c := s.acq.capture
  acqCode c.state + 8 * b2n c.trigIndex.isSome + 16 * b2n (!c.gaps.isEmpty) + 256 * (100 * c.rows.length / max 1 c.capacity) +
    65536 * (c.id % 65536)

/-- Per-cent of a log class's own room in use; alarms that have borrowed it count. [DEDUCED, log 160] -/
def logPct (s : State) (entries room kind : Nat) : Nat := 100 * (entries + borrowedIn s kind) / max 1 room

/-- LOG_STATUS. -/
def logStatus (s : State) : Nat :=
  let g := s.logs
  min 255 g.alarms.length + 256 * logPct s g.events.length (eventRoom s) 1 + 65536 * logPct s g.traces.length (traceRoom s) 2 +
    2 ^ 24 * b2n (borrowedAlarms s != 0) + 2 ^ 25 * b2n (g.events.any (fun e => e.lost)) + 2 ^ 26 * b2n g.traceOpen

/-- CLK_STATUS. -/
def clkStatus (s : State) : Nat := refCode s.clocks.reference + 16 * s.clocks.ok.toNat + 2048 * s.clocks.pllLock.toNat

/-- Doorbell and state registers of a mailbox. -/
def mbxReg (s : State) (m field : Nat) : Nat :=
  let b := mbx s m
  match field with
  | 0 => b.cmdTail % 65536
  | 1 => b.cplHead % 65536
  | 2 => b.cmdHead % 65536 + 65536 * (b.cplTail % 65536)
  | _ => mbxState s m

/-- One doubleword of the MSI-X table. -/
def msixReg (s : State) (v field : Nat) : Nat :=
  let e := nth {} s.zewen.msix.table v
  match field with
  | 0 => e.addr % 2 ^ 32
  | 1 => e.addr / 2 ^ 32
  | 2 => e.data.toNat
  | _ => b2n e.masked

/-- The value of the register at an offset in the view of a BAR, as a read in no clock of an update returns it; 0 at a reserved offset and
of a WO register (R447, R449, R456). -/
def regValue (s : State) (bar offset : Nat) : Nat :=
  let head := s.herd.txts.headD ⟨0, 0, 0⟩
  match offset with
  | 0x0000 => 0x08640100
  | 0x0004 => modeStatus s
  | 0x0008 => s.mode.cause.toNat
  | 0x000C => tickCount s
  | 0x0010 => s.reg.errWord.toNat
  | 0x0014 => s.reg.errFirst.toNat
  | 0x0018 => s.reg.errCount
  | 0x0020 => s.reg.intStatus.toNat
  | 0x0024 => s.reg.intMask.toNat
  | 0x0028 => s.reg.solverDone.toNat
  | 0x0040 => s.zewen.viewDenied
  | 0x0800 => now s % 2 ^ 32
  | 0x0804 => nth 0 s.reg.htHi bar
  | 0x0808 => nth 0 s.reg.htFrac bar
  | 0x080C => herdStatus s
  | 0x0810 => (BitVec.ofInt 32 (adjTotal s)).toNat
  | 0x0820 => s.herd.txts.length
  | 0x0824 => if s.herd.txts.isEmpty then 0 else 2 ^ 31 + 65536 * (head.port % 8) + head.frameId % 65536
  | 0x0828 => head.time % 2 ^ 32
  | 0x082C => head.time / 2 ^ 32 % 2 ^ 32
  | 0x0834 => s.herd.txtsOvf
  | 0x0900 => acqStatus s
  | 0x0904 => logStatus s
  | 0x0908 => s.acq.capture.trigTime % 2 ^ 32
  | 0x090C => nth 0 s.reg.acqHi bar
  | 0x0A00 => clkStatus s
  | 0x0A04 => s.clocks.event.toNat
  | 0x0A08 => s.power.on.toNat + 65536 * s.power.switching.toNat
  | 0x0A0C => s.reg.gatedAccess
  | 0xF800 => s.zewen.msix.pba.toNat
  | _ =>
    if offset % 4 != 0 then 0
    else if 0x0100 ≤ offset && offset < 0x0180 then mbxReg s ((offset - 0x0100) / 16) (offset / 4 % 4)
    else if 0xF000 ≤ offset && offset < 0xF200 then msixReg s ((offset - 0xF000) / 16) (offset / 4 % 4)
    else 0

def withReg (s : State) (f : RegState → RegState) : State := { s with reg := f s.reg }

/-! ### Reads: an RC counter keeps, and does not show, an increment of the same clock (R14, R450). [DESIGN CHOICE, log 124] -/

/-- HT_NOW_LO_READ (R87, R449). -/
def execHtNowLoRead (clk : Nat) (privileged : Bool) (s : State) : Host.Outcome State Fault Refusal :=
  .next (readReg (begin clk s) (servedBy 0x0800) privileged (fun s =>
    let t := now s
    (regValue s (barIndex privileged) 0x0800, withReg s (fun r => { r with
      htHi := upd r.htHi (barIndex privileged) (fun _ => t / 2 ^ 32 % 2 ^ 32)
      htFrac := upd r.htFrac (barIndex privileged) (fun _ => if s.herd.running then s.herd.frac else 0) }))))

/-- ACQ_TRIG_TIME_LO_READ (R449). -/
def execAcqTrigTimeLoRead (clk : Nat) (privileged : Bool) (s : State) : Host.Outcome State Fault Refusal :=
  .next (readReg (begin clk s) (servedBy 0x0908) privileged (fun s =>
    let t := s.acq.capture.trigTime
    (regValue s (barIndex privileged) 0x0908, withReg s (fun r => { r with acqHi := upd r.acqHi (barIndex privileged) (fun _ => t / 2 ^ 32 % 2 ^ 32) }))))

/-- TXTS_OVF_READ (R101). -/
def execTxtsOvfRead (clk : Nat) (privileged : Bool) (s : State) : Host.Outcome State Fault Refusal :=
  .next (readReg (begin clk s) (servedBy 0x0834) privileged (fun s =>
    (regValue s (barIndex privileged) 0x0834 - s.fresh.txts, { s with herd := { s.herd with txtsOvf := min s.herd.txtsOvf s.fresh.txts } })))

/-- ERR_COUNT_READ (R452). -/
def execErrCountRead (clk : Nat) (privileged : Bool) (s : State) : Host.Outcome State Fault Refusal :=
  .next (readReg (begin clk s) (servedBy 0x0018) privileged (fun s =>
    (regValue s (barIndex privileged) 0x0018 - s.fresh.errCount, withReg s (fun r => { r with errCount := min r.errCount s.fresh.errCount }))))

/-- GATED_ACCESS_READ (R393). -/
def execGatedAccessRead (clk : Nat) (privileged : Bool) (s : State) : Host.Outcome State Fault Refusal :=
  .next (readReg (begin clk s) (servedBy 0x0A0C) privileged (fun s =>
    (regValue s (barIndex privileged) 0x0A0C - s.fresh.gated, withReg s (fun r => { r with gatedAccess := min r.gatedAccess s.fresh.gated }))))

/-! ### Writes -/

/-- TXTS_POP (R101): the head entry leaves the queue. -/
def popStamp (value : Nat) (s : State) : State :=
  if bit value 0 then { s with herd := { s.herd with txts := s.herd.txts.drop 1 } } else s

def execTxtsPop (clk : Nat) (privileged : Bool) (value : Nat) (s : State) : Host.Outcome State Fault Refusal :=
  .next (writeReg (takeStamps (begin clk s)) (servedBy 0x0830) privileged true (popStamp value))

/-- ERR_CTRL.CLEAR_FIRST: an error word of the same clock becomes the new ERR_FIRST (R452). -/
def clearFirst (value : Nat) (s : State) : State :=
  if bit value 0 then
    withFresh (withReg s (fun r => { r with errFirst := s.fresh.errMin.getD 0 })) (fun c => { c with firstNew := c.errMin.isSome })
  else s

def execClearFirst (clk : Nat) (privileged : Bool) (value : Nat) (s : State) : Host.Outcome State Fault Refusal :=
  .next (writeReg (begin clk s) (servedBy 0x001C) privileged true (clearFirst value))

/-- VIEW_CLEAR (R76). -/
def viewClear (value : Nat) (s : State) : State :=
  if bit value 0 then { s with zewen := { s.zewen with viewDenied := 0 } } else s

def execViewClear (clk : Nat) (privileged : Bool) (value : Nat) (s : State) : Host.Outcome State Fault Refusal :=
  .next (writeReg (begin clk s) (servedBy 0x0044) privileged true (viewClear value))

/-- INT_STATUS: a 1 clears its bit (R454). A bit that an event of the same clock has set stays set, and an event that found it set before is
signalled now (R450). -/
def clearInt (value : Nat) (s : State) : State :=
  let v := BitVec.ofNat 10 value
  let again := s.fresh.intsAgain &&& v
  let s1 := withFresh (withReg s (fun r => { r with intStatus := r.intStatus &&& ~~~(v &&& ~~~s.fresh.ints) }))
    (fun c => { c with intsAgain := c.intsAgain &&& ~~~v })
  ((List.range 10).filter (fun n => again.getLsbD n && !s.reg.intMask.getLsbD n)).foldl (fun s n => sendVector s (8 + n)) s1

def execIntStatusClear (clk : Nat) (privileged : Bool) (value : Nat) (s : State) : Host.Outcome State Fault Refusal :=
  .next (writeReg (begin clk s) (servedBy 0x0020) privileged true (clearInt value))

/-- INT_MASK: DEVICE cannot be masked; a bit that goes from 1 to 0 while its INT_STATUS bit is set sends its vector (R454). -/
def writeMask (value : Nat) (s : State) : State :=
  let m := BitVec.ofNat 10 value &&& 0x3FE
  let freed := (List.range 10).filter (fun n => s.reg.intMask.getLsbD n && !m.getLsbD n && s.reg.intStatus.getLsbD n)
  freed.foldl (fun s n => sendVector s (8 + n)) (withReg s (fun r => { r with intMask := m }))

def execIntMaskWrite (clk : Nat) (privileged : Bool) (value : Nat) (s : State) : Host.Outcome State Fault Refusal :=
  .next (writeReg (begin clk s) (servedBy 0x0024) privileged true (writeMask value))

/-- SOLVER_DONE: a 1 clears its bit (R453), unless a run of the same clock has set it (R450). -/
def clearDone (value : Nat) (s : State) : State :=
  withReg s (fun r => { r with solverDone := r.solverDone &&& ~~~(BitVec.ofNat 8 value &&& ~~~s.fresh.done) })

def execSolverDoneClear (clk : Nat) (privileged : Bool) (value : Nat) (s : State) : Host.Outcome State Fault Refusal :=
  .next (writeReg (begin clk s) (servedBy 0x0028) privileged true (clearDone value))

/-- CLK_EVENT: a 1 clears its bit, unless an event of the same clock has set it, which then signals DEVICE as if the bit had been clear
(R450). -/
def clearClk (value : Nat) (s : State) : State :=
  let v := BitVec.ofNat 8 value
  let again := s.fresh.clkAgain &&& v
  let s1 := withFresh (withClocks s (fun c => { c with event := c.event &&& ~~~(v &&& ~~~s.fresh.clkEvent) }))
    (fun c => { c with clkAgain := c.clkAgain &&& ~~~v })
  if again != 0 then setInt s1 0 else s1

/-- The doubleword of an MSI-X table entry; unmasking an entry with its message pending sends the message (R454, R455). -/
def writeMsix (offset value : Nat) (s : State) : State :=
  let v := (offset - 0xF000) / 16
  let low := fun (a : Nat) => a / 2 ^ 32 * 2 ^ 32 + value
  let high := fun (a : Nat) => a % 2 ^ 32 + value * 2 ^ 32
  let s1 := withMsix s (fun m => { m with table := upd m.table v (fun e =>
    match offset / 4 % 4 with
    | 0 => { e with addr := low e.addr }
    | 1 => { e with addr := high e.addr }
    | 2 => { e with data := BitVec.ofNat 32 value }
    | _ => { e with masked := bit value 0 }) })
  if s1.zewen.msix.pba.getLsbD v && !vectorMasked s1 v then sendVector (withMsix s1 (fun m => { m with pba := m.pba &&& ~~~(1#32 <<< v) })) v
  else s1

/-- Registers of Table 22-4 that ignore writes (RO and RC). -/
def readOnlyReg (offset : Nat) : Bool :=
  offset < 0x001C || offset = 0x0040 || (0x0100 ≤ offset && offset < 0x0180) ||
    (0x0800 ≤ offset && offset ≤ 0x0810) || (0x0820 ≤ offset && offset ≤ 0x0834) || (0x0900 ≤ offset && offset < 0x0910) ||
    (0x0A00 ≤ offset && offset < 0x0A10) || offset = 0xF800 || offset = 0xF804

/-- One doubleword written (R446, R447, R456): what the register at an offset does with it, none for a reserved offset; the flag says
whether the item is privileged-only for writes. -/
def regEffect (offset value : Nat) : Option (Bool × (State → State)) :=
  match offset with
  | 0x001C => some (true, clearFirst value)
  | 0x0020 => some (true, clearInt value)
  | 0x0024 => some (true, writeMask value)
  | 0x0028 => some (true, clearDone value)
  | 0x0044 => some (true, viewClear value)
  | 0x0830 => some (true, popStamp value)
  | 0x080C => some (true, fun s => if bit value 15 then { s with herd := { s.herd with stepped := s.fresh.stepped } } else s)
  | 0x0A04 => some (true, clearClk value)
  | _ =>
    if 0x0100 ≤ offset && offset < 0x0180 then
      let m := (offset - 0x0100) / 16
      match offset / 4 % 4 with
      | 0 => some (false, fun s => writeCmdTail s m value)
      | 1 => some (false, fun s => writeCplHead s m value)
      | 3 => some (false, fun s => if bit value 3 then setMbx s m (fun b => { b with dbErr := s.fresh.dbErr.getLsbD m }) else s)
      | _ => some (false, fun s => s)
    else if 0xF000 ≤ offset && offset < 0xF200 then some (false, writeMsix offset value)
    else if readOnlyReg offset then some (false, fun s => s)
    else none

/-- REGISTER_WRITE (R446, R447): only a doubleword with its four byte enables set is written; a reserved offset ignores the write. -/
def execRegisterWrite (clk : Nat) (privileged : Bool) (offset enables value : Nat) (s : State) : Host.Outcome State Fault Refusal :=
  let s1 := begin clk s
  .next (if enables % 16 != 15 || offset % 4 != 0 then s1
    else
      match regEffect offset (value % 2 ^ 32) with
      | none => s1
      | some (priv, act) => writeReg s1 (servedBy offset) privileged priv act)

end Sys2Proof.Machine
end

