-- ==== Sys2Proof/Machine/Tick.lean ====
section
/-! DEFINITION. TICK_START and what happens at a tick start (04_herd_time.md R88, R89; 01_cell_architecture.md R30; 02_modes_and_start.md
R40; 03_zewen_interface.md R86; 07_cell_planning.md R157; 19_redundant_pair.md R407). -/

namespace Sys2Proof.Machine

/-- n clocks pass, for herd time and for what counts them besides. -/
def passClocks (s : State) (n : Nat) : State := addClocks (countClocks n s) n

/-- Herd time goes on to the edge at which the next tick starts, and so does the AON timer. -/
def toTickStart (s : State) : State := passClocks s (clocksTo s (nextTick s))

/-- A time the time unit has measured moves with a step of d ns, so that Δ of R92 and the windows of R96 and R102 keep their length. -/
def shiftTime (d : Int) (t : Nat) : Nat := ((t : Int) + d).toNat

/-- The measurements of a domain move with a step. -/
def shiftDomain (d : Int) (p : PtpDomain) : PtpDomain :=
  let m := fun (t : Option Nat) => t.map (shiftTime d)
  { p with lastMeasure := m p.lastMeasure, lastSync := m p.lastSync, lockedSince := m p.lockedSince, lastAnnounce := m p.lastAnnounce
           delayReqAt := m p.delayReqAt, syncSent := m p.syncSent, announceSent := m p.announceSent, delaySent := m p.delaySent
           lastT2 := p.lastT2 + d * 65536, foreign := p.foreign.map (fun f => (f.1, shiftTime d f.2)) }

/-- The instants the time unit holds move with a step of herd time. [DESIGN CHOICE, log 135] -/
def shiftHerd (d : Int) (h : HerdState) : HerdState :=
  { h with lastMeasure := h.lastMeasure.map (shiftTime d), lastPps := h.lastPps.map (shiftTime d), domains := h.domains.map (shiftDomain d)
           history := h.history.map (fun e => (shiftTime d e.1, e.2)), txtsDue := h.txtsDue.map (fun e => { e with time := shiftTime d e.time }) }

/-- HERD_TIME_STEP (R88): a step that waits is made while no image is active and restarts the Tahixa cycle; under an image that has become
active since it was asked for, the offset is slewed instead (R93). -/
def herdStep (s : State) : State :=
  match s.herd.stepPending with
  | none => s
  | some d =>
    let s1 := withHerd s (fun h => { h with stepPending := none })
    if imageActive s1 then startSlew s1 (-d / 65536)
    else
      let p := (herdPos s1.herd + d).toNat
      let s2 := withHerd s1 (fun h => { shiftHerd (d / fracUnit) h with ht := p / 2 ^ 32 % 2 ^ 64, frac := p % 2 ^ 32, stepped := true })
      let s3 := withFresh s2 (fun c => { c with stepped := true })
      restartCycle (withHerd s3 (fun h => { h with tick := h.ht / tickNs s3 }))

/-- IMAGE_ACTIVATION, with the end of a capture that it meets (R367). [DEDUCED, log 45] -/
def activationTickStart (s : State) : State :=
  let s1 := imageActivation s
  if captureBusy s && s1.acq.capture.state == .aborted then settleReads (setInt s1 5) else s1

/-- The committed plan is handed to the arms it plans; each takes it up when it has reached the plan's origin (R30, R148). [DEDUCED, log 50]
-/
def handOutPlan (s : State) (rs : List PlanRecord) : State :=
  let s1 := rs.foldl (fun s r =>
    setArmPlan s r.arm (fun p => { p with
      pending := { plan := r, needs := nth [] s.piste.nextSets r.arm, free := s.plan.committedFree.contains r.arm } :: p.pending })) s
  withPlan s1 (fun p => { p with committed := none, committedFree := [] })

/-- PLAN_TAKES_EFFECT (R30, R157, R159, R407). -/
def planTakesEffect (s : State) : State :=
  match s.plan.committed with
  | some (m, rs) =>
    let dropped := withPlan s (fun p => { p with committed := none, committedFree := [] })
    if m != s.mode.mode then planFails dropped 8
    else if !planAcked s s.plan.lastSeq then planFails (bump dropped 0xC0 0 0x10) 7
    else planSucceeds (handOutPlan s rs)
  | none => if s.plan.phase = .posting || s.plan.phase = .solving || s.plan.phase = .testing then planFails s 7 else s

/-- A HOLD that waited for the start of a re-planning period is triggered (Table 2-9). [DESIGN CHOICE, log 40] -/
def holdAtPeriod (s : State) : State :=
  match s.mode.holdAtPeriod with
  | none => s
  | some w => trigger (withMode s (fun m => { m with holdAtPeriod := none })) .hold w (.isolated (wordRegion w) (wordBlock w))

/-- What a tick start does that begins a re-planning period. [DEDUCED, log 50] -/
def periodTick (s : State) : State := if periodAt s (tickStart s) then holdAtPeriod (planTakesEffect s) else s

/-- k of the tick that starts; once HT has wrapped, k counts from 0 with it (R9, R89). [DESIGN CHOICE, log 125] -/
def tickAfter (s : State) : Nat := if 2 ^ 64 ≤ nextTick s then 0 else s.herd.tick + 1

/-- OBJ_WRITEs executed before a tick start are due at it (R79). -/
def writesDue (s : State) : State := { s with writes := s.writes.map (fun q => { q with due := true }) }

/-- TICK_START, while herd time runs: the tick that ends, herd time and the tick counter, then what takes effect at the tick start. -/
def tickStarts (s : State) : State :=
  let s1 := encAges (netTickEnd (takeStamps (writesDue (toTickStart s))))
  let edges := s1.herd.edges
  let s2 := holdRate (herdStep (withHerd s1 (fun h => { h with tick := tickAfter s, edges := 0 })))
  let s3 := activationTickStart (modeTick (netTickStart s2))
  let s4 := auxTicks edges (periodTick s3)
  acqTick (judgeRole (rollWindow (driveOutputs s4)))

/-- TICK_START (R89): time goes on to the next tick start, and what starts with the tick happens. [DESIGN CHOICE, log 4] -/
def execTickStart (s : State) : Host.Outcome State Fault Refusal :=
  let s1 := { s with out := [] }
  .next (if s1.herd.running then tickStarts s1 else s1)

end Sys2Proof.Machine
end

