-- ==== Sys2Proof/Machine/Dispatch.lean ====
section
/-! DEFINITION. One arm per command (22_register_map.md and every chapter): what a command does to everything but the queue. -/

namespace Sys2Proof.Machine

/-- The effect of one command. -/
def exec (i : Instr) (s : State) : Host.Outcome State Fault Refusal :=
  match i with
  | .nop clk e => Sys2Proof.Machine.execNop clk e s
  | .openSession clk e => Sys2Proof.Machine.execOpenSession clk e s
  | .closeSession clk e => Sys2Proof.Machine.execCloseSession clk e s
  | .newEpoch clk e => Sys2Proof.Machine.execNewEpoch clk e s
  | .challenge clk e => Sys2Proof.Machine.execChallenge clk e s
  | .unlock clk e => Sys2Proof.Machine.execUnlock clk e s
  | .cancel clk e => Sys2Proof.Machine.execCancel clk e s
  | .getStatus clk e => Sys2Proof.Machine.execGetStatus clk e s
  | .reset clk e => Sys2Proof.Machine.execReset clk e s
  | .setMode clk e => Sys2Proof.Machine.execSetMode clk e s
  | .objRead clk e => Sys2Proof.Machine.execObjRead clk e s
  | .objWrite clk e => Sys2Proof.Machine.execObjWrite clk e s
  | .imageBegin clk e => Sys2Proof.Machine.execImageBegin clk e s
  | .imageData clk e => Sys2Proof.Machine.execImageData clk e s
  | .imageCommit clk e => Sys2Proof.Machine.execImageCommit clk e s
  | .imageAbort clk e => Sys2Proof.Machine.execImageAbort clk e s
  | .moveJoint clk e => Sys2Proof.Machine.execMoveJoint clk e s
  | .moveLinear clk e => Sys2Proof.Machine.execMoveLinear clk e s
  | .moveConveyor clk e => Sys2Proof.Machine.execMoveConveyor clk e s
  | .stopMove clk e => Sys2Proof.Machine.execStopMove clk e s
  | .jog clk e => Sys2Proof.Machine.execJog clk e s
  | .teach clk e => Sys2Proof.Machine.execTeach clk e s
  | .pathRequest clk e => Sys2Proof.Machine.execPathRequest clk e s
  | .zoneRequest clk e => Sys2Proof.Machine.execZoneRequest clk e s
  | .zoneExtend clk e => Sys2Proof.Machine.execZoneExtend clk e s
  | .zoneRelease clk e => Sys2Proof.Machine.execZoneRelease clk e s
  | .acqArm clk e => Sys2Proof.Machine.execAcqArm clk e s
  | .acqRead clk e => Sys2Proof.Machine.execAcqRead clk e s
  | .logRead clk e => Sys2Proof.Machine.execLogRead clk e s
  | .attest clk e norOk => Sys2Proof.Machine.execAttest clk e norOk s
  | .keyEnrol clk e => Sys2Proof.Machine.execKeyEnrol clk e s
  | .loaderInfo clk e => Sys2Proof.Machine.execLoaderInfo clk e s
  | .loaderReadRecord clk e => Sys2Proof.Machine.execLoaderReadRecord clk e s
  | .loaderWriteSlot clk e => Sys2Proof.Machine.execLoaderWriteSlot clk e s
  | .loaderRestart clk e => Sys2Proof.Machine.execLoaderRestart clk e s
  | .unknownOpcode clk e => Sys2Proof.Machine.execUnknownOpcode clk e s
  | .udpDatagramRx clk port addr udpPort fragmented data => Sys2Proof.Machine.execUdpDatagramRx clk port addr udpPort fragmented data s
  | .cmdTailWrite clk mailbox value => Sys2Proof.Machine.execCmdTailWrite clk mailbox value s
  | .cplHeadWrite clk mailbox value => Sys2Proof.Machine.execCplHeadWrite clk mailbox value s
  | .htNowLoRead clk privileged => Sys2Proof.Machine.execHtNowLoRead clk privileged s
  | .acqTrigTimeLoRead clk privileged => Sys2Proof.Machine.execAcqTrigTimeLoRead clk privileged s
  | .txtsPop clk privileged value => Sys2Proof.Machine.execTxtsPop clk privileged value s
  | .txtsOvfRead clk privileged => Sys2Proof.Machine.execTxtsOvfRead clk privileged s
  | .errCountRead clk privileged => Sys2Proof.Machine.execErrCountRead clk privileged s
  | .gatedAccessRead clk privileged => Sys2Proof.Machine.execGatedAccessRead clk privileged s
  | .clearFirst clk privileged value => Sys2Proof.Machine.execClearFirst clk privileged value s
  | .viewClear clk privileged value => Sys2Proof.Machine.execViewClear clk privileged value s
  | .intStatusClear clk privileged value => Sys2Proof.Machine.execIntStatusClear clk privileged value s
  | .intMaskWrite clk privileged value => Sys2Proof.Machine.execIntMaskWrite clk privileged value s
  | .solverDoneClear clk privileged value => Sys2Proof.Machine.execSolverDoneClear clk privileged value s
  | .registerWrite clk privileged offset enables value => Sys2Proof.Machine.execRegisterWrite clk privileged offset enables value s
  | .objWriteEffect clk => Sys2Proof.Machine.execObjWriteEffect clk s
  | .gateRequestTimeout clk => Sys2Proof.Machine.execGateRequestTimeout clk s
  | .solverAnalysisDone clk slot => Sys2Proof.Machine.execSolverAnalysisDone clk slot s
  | .ipmIterationEnd clk factorNs => Sys2Proof.Machine.execIpmIterationEnd clk factorNs s
  | .solverRunEnd clk slot => Sys2Proof.Machine.execSolverRunEnd clk slot s
  | .solveDeadline clk inFactor suspended => Sys2Proof.Machine.execSolveDeadline clk inFactor suspended s
  | .hostRunResume clk => Sys2Proof.Machine.execHostRunResume clk s
  | .solverSramUncorrectable clk element => Sys2Proof.Machine.execSolverSramUncorrectable clk element s
  | .tickStart => Sys2Proof.Machine.execTickStart s
  | .modeTransitionComplete clk => Sys2Proof.Machine.execModeTransitionComplete clk s
  | .profilePass clk => Sys2Proof.Machine.execProfilePass clk s
  | .arbiterPass clk => Sys2Proof.Machine.execArbiterPass clk s
  | .leaseExpiry clk lease => Sys2Proof.Machine.execLeaseExpiry clk lease s
  | .plannerSnapshot clk => Sys2Proof.Machine.execPlannerSnapshot clk s
  | .plannerPost clk => Sys2Proof.Machine.execPlannerPost clk s
  | .commitTest clk => Sys2Proof.Machine.execCommitTest clk s
  | .commitCutoff clk => Sys2Proof.Machine.execCommitCutoff clk s
  | .separationStep clk => Sys2Proof.Machine.execSeparationStep clk s
  | .processorResult clk => Sys2Proof.Machine.execProcessorResult clk s
  | .chamoisResult clk => Sys2Proof.Machine.execChamoisResult clk s
  | .separationCombination clk => Sys2Proof.Machine.execSeparationCombination clk s
  | .jointStale clk chamois arm => Sys2Proof.Machine.execJointStale clk chamois arm s
  | .sensorWorst clk sensor => Sys2Proof.Machine.execSensorWorst clk sensor s
  | .ss2Release clk arm => Sys2Proof.Machine.execSs2Release clk arm s
  | .downstreamCommitPoint clk dynamic slot => Sys2Proof.Machine.execDownstreamCommitPoint clk dynamic slot s
  | .processFrameRx clk f => Sys2Proof.Machine.execProcessFrameRx clk f s
  | .safetyFrameRx clk f => Sys2Proof.Machine.execSafetyFrameRx clk f s
  | .messageRx clk f => Sys2Proof.Machine.execMessageRx clk f s
  | .delayRespRx clk f => Sys2Proof.Machine.execDelayRespRx clk f s
  | .startupRx clk f => Sys2Proof.Machine.execStartupRx clk f s
  | .slotWindowClose clk slot => Sys2Proof.Machine.execSlotWindowClose clk slot s
  | .downstreamNitStart clk => Sys2Proof.Machine.execDownstreamNitStart clk s
  | .ringRestoreAt clk ring => Sys2Proof.Machine.execRingRestoreAt clk ring s
  | .listenTimeout clk => Sys2Proof.Machine.execListenTimeout clk s
  | .startWindowClose clk => Sys2Proof.Machine.execStartWindowClose clk s
  | .backoffEnd clk => Sys2Proof.Machine.execBackoffEnd clk s
  | .nodeIntegrated clk node => Sys2Proof.Machine.execNodeIntegrated clk node s
  | .nodeLost clk node => Sys2Proof.Machine.execNodeLost clk node s
  | .driftWarn clk node => Sys2Proof.Machine.execDriftWarn clk node s
  | .safetySingle clk slot => Sys2Proof.Machine.execSafetySingle clk slot s
  | .linkSyncLoss clk port => Sys2Proof.Machine.execLinkSyncLoss clk port s
  | .operandPost clk => Sys2Proof.Machine.execOperandPost clk s
  | .timedDue clk => Sys2Proof.Machine.execTimedDue clk s
  | .taskDispatch clk core => Sys2Proof.Machine.execTaskDispatch clk core s
  | .loopExecution clk core => Sys2Proof.Machine.execLoopExecution clk core s
  | .axisFault clk loop => Sys2Proof.Machine.execAxisFault clk loop s
  | .matchExpired clk => Sys2Proof.Machine.execMatchExpired clk s
  | .backpressureRelease clk => Sys2Proof.Machine.execBackpressureRelease clk s
  | .kernelRun clk slot retries => Sys2Proof.Machine.execKernelRun clk slot retries s
  | .kernelWindowClose clk slot => Sys2Proof.Machine.execKernelWindowClose clk slot s
  | .processorEvaluation clk a b sreset sw1 readback currents => Sys2Proof.Machine.execProcessorEvaluation clk a b sreset sw1 readback currents s
  | .chamoisEvaluation clk a b sreset sw1 readback currents => Sys2Proof.Machine.execChamoisEvaluation clk a b sreset sw1 readback currents s
  | .safetyStatusRx clk toChamois => Sys2Proof.Machine.execSafetyStatusRx clk toChamois s
  | .channelSilent clk byChamois => Sys2Proof.Machine.execChannelSilent clk byChamois s
  | .crossMismatch clk byChamois value => Sys2Proof.Machine.execCrossMismatch clk byChamois value s
  | .oscillatorMismatch clk byChamois => Sys2Proof.Machine.execOscillatorMismatch clk byChamois s
  | .discrepancy clk chamois input => Sys2Proof.Machine.execDiscrepancy clk chamois input s
  | .ss1Timeout clk chamois arm => Sys2Proof.Machine.execSs1Timeout clk chamois arm s
  | .netInputStale clk chamois entry => Sys2Proof.Machine.execNetInputStale clk chamois entry s
  | .darkPulseTest clk low output high => Sys2Proof.Machine.execDarkPulseTest clk low output high s
  | .outputDiagnosis clk low output kind present_ => Sys2Proof.Machine.execOutputDiagnosis clk low output kind present_ s
  | .outputCurrentLimit clk output => Sys2Proof.Machine.execOutputCurrentLimit clk output s
  | .sresetEdge clk => Sys2Proof.Machine.execSresetEdge clk s
  | .resetEdgeWindowExpiry clk => Sys2Proof.Machine.execResetEdgeWindowExpiry clk s
  | .sw1Change clk => Sys2Proof.Machine.execSw1Change clk s
  | .containedErrorRate clk region block => Sys2Proof.Machine.execContainedErrorRate clk region block s
  | .supervisorWatchdogExpiry clk => Sys2Proof.Machine.execSupervisorWatchdogExpiry clk s
  | .ddrUncorrectableError clk area first count => Sys2Proof.Machine.execDdrUncorrectableError clk area first count s
  | .inputFilterStep clk raw => Sys2Proof.Machine.execInputFilterStep clk raw s
  | .inputGroupFault clk group mv => Sys2Proof.Machine.execInputGroupFault clk group mv s
  | .outputGroupFault clk group mv => Sys2Proof.Machine.execOutputGroupFault clk group mv s
  | .encoderEdge clk encoder a b => Sys2Proof.Machine.execEncoderEdge clk encoder a b s
  | .encoderIndex clk encoder z => Sys2Proof.Machine.execEncoderIndex clk encoder z s
  | .lineFault clk encoder => Sys2Proof.Machine.execLineFault clk encoder s
  | .encoderStandstill clk encoder => Sys2Proof.Machine.execEncoderStandstill clk encoder s
  | .tickLatch clk encoder => Sys2Proof.Machine.execTickLatch clk encoder s
  | .encoderTransactionStart clk encoder => Sys2Proof.Machine.execEncoderTransactionStart clk encoder s
  | .encoderWordReceived clk encoder reply => Sys2Proof.Machine.execEncoderWordReceived clk encoder reply s
  | .encoderTimeout clk encoder => Sys2Proof.Machine.execEncoderTimeout clk encoder s
  | .emulatedEdge clk encoder => Sys2Proof.Machine.execEmulatedEdge clk encoder s
  | .conveyorStale clk conveyor => Sys2Proof.Machine.execConveyorStale clk conveyor s
  | .jogTimeout clk channel => Sys2Proof.Machine.execJogTimeout clk channel s
  | .currentSample clk axis a b => Sys2Proof.Machine.execCurrentSample clk axis a b s
  | .referenceInstant clk axis => Sys2Proof.Machine.execReferenceInstant clk axis s
  | .auxFeedbackPost clk axis => Sys2Proof.Machine.execAuxFeedbackPost clk axis s
  | .chopperFallback clk axis => Sys2Proof.Machine.execChopperFallback clk axis s
  | .stall clk axis => Sys2Proof.Machine.execStall clk axis s
  | .ptpSyncRx clk m => Sys2Proof.Machine.execPtpSyncRx clk m s
  | .ptpMessageRx clk m => Sys2Proof.Machine.execPtpMessageRx clk m s
  | .sourceLocked clk source => Sys2Proof.Machine.execSourceLocked clk source s
  | .syncTimeout clk domain => Sys2Proof.Machine.execSyncTimeout clk domain s
  | .announceReceiptTimeout clk domain => Sys2Proof.Machine.execAnnounceReceiptTimeout clk domain s
  | .revertTimer clk => Sys2Proof.Machine.execRevertTimer clk s
  | .slewEnd clk => Sys2Proof.Machine.execSlewEnd clk s
  | .ppsInEdge clk capture => Sys2Proof.Machine.execPpsInEdge clk capture s
  | .ppsTimeout clk => Sys2Proof.Machine.execPpsTimeout clk s
  | .ppsOutEdge clk => Sys2Proof.Machine.execPpsOutEdge clk s
  | .pairTimeExchange clk send receive reply arrive => Sys2Proof.Machine.execPairTimeExchange clk send receive reply arrive s
  | .aonStore clk => Sys2Proof.Machine.execAonStore clk s
  | .powerOn clk mv removed => Sys2Proof.Machine.execPowerOn clk mv removed s
  | .brownOut clk mv => Sys2Proof.Machine.execBrownOut clk mv s
  | .lowInput clk mv => Sys2Proof.Machine.execLowInput clk mv s
  | .highInput clk mv => Sys2Proof.Machine.execHighInput clk mv s
  | .modResetN clk => Sys2Proof.Machine.execModResetN clk s
  | .commandResetBegin clk => Sys2Proof.Machine.execCommandResetBegin clk s
  | .perstN clk low => Sys2Proof.Machine.execPerstN clk low s
  | .pcieLinkDown clk functionReset => Sys2Proof.Machine.execPcieLinkDown clk functionReset s
  | .dieTemperature clk tenths => Sys2Proof.Machine.execDieTemperature clk tenths s
  | .crystalStable clk => Sys2Proof.Machine.execCrystalStable clk s
  | .clockMonitorWindow clk source count => Sys2Proof.Machine.execClockMonitorWindow clk source count s
  | .clockLoss clk source => Sys2Proof.Machine.execClockLoss clk source s
  | .pllUnlock clk pll => Sys2Proof.Machine.execPllUnlock clk pll s
  | .clockSourceRecovered clk source => Sys2Proof.Machine.execClockSourceRecovered clk source s
  | .rcTrim clk ppm => Sys2Proof.Machine.execRcTrim clk ppm s
  | .muxSwitch clk => Sys2Proof.Machine.execMuxSwitch clk s
  | .forcedSwitch clk => Sys2Proof.Machine.execForcedSwitch clk s
  | .pllRelock clk pll => Sys2Proof.Machine.execPllRelock clk pll s
  | .domainPowerGood clk domain => Sys2Proof.Machine.execDomainPowerGood clk domain s
  | .domainPowerGoodTimeout clk domain => Sys2Proof.Machine.execDomainPowerGoodTimeout clk domain s
  | .drainTimeout clk domain => Sys2Proof.Machine.execDrainTimeout clk domain s
  | .domainOff clk domain => Sys2Proof.Machine.execDomainOff clk domain s
  | .startAttempt clk results => Sys2Proof.Machine.execStartAttempt clk results s
  | .startStepTimeout clk => Sys2Proof.Machine.execStartStepTimeout clk s
  | .configCheckDone clk => Sys2Proof.Machine.execConfigCheckDone clk s
  | .nonceExpiry clk mailbox => Sys2Proof.Machine.execNonceExpiry clk mailbox s
  | .lockoutEnd clk mailbox => Sys2Proof.Machine.execLockoutEnd clk mailbox s
  | .udpIdleTimeout clk mailbox => Sys2Proof.Machine.execUdpIdleTimeout clk mailbox s
  | .sessionDrained clk mailbox => Sys2Proof.Machine.execSessionDrained clk mailbox s
  | .acqSample clk room => Sys2Proof.Machine.execAcqSample clk room s
  | .indexTreeReady clk => Sys2Proof.Machine.execIndexTreeReady clk s
  | .tokenRenewal clk => Sys2Proof.Machine.execTokenRenewal clk s
  | .tokenMessageRx clk token => Sys2Proof.Machine.execTokenMessageRx clk token s
  | .tokenLeaseExpiry clk => Sys2Proof.Machine.execTokenLeaseExpiry clk s
  | .takeover clk => Sys2Proof.Machine.execTakeover clk s
  | .mirrorSetRx clk set => Sys2Proof.Machine.execMirrorSetRx clk set s
  | .mirrorAgeLimit clk => Sys2Proof.Machine.execMirrorAgeLimit clk s
  | .planAckRx clk seq => Sys2Proof.Machine.execPlanAckRx clk seq s
  | .pairSafetyStatusRx clk valid states standby => Sys2Proof.Machine.execPairSafetyStatusRx clk valid states standby s
  | .peerSilent clk => Sys2Proof.Machine.execPeerSilent clk s
  | .pairRevertTimer clk => Sys2Proof.Machine.execPairRevertTimer clk s
  | .handoverRequestRx clk kind instant => Sys2Proof.Machine.execHandoverRequestRx clk kind instant s
  | .handoverAckTimeout clk => Sys2Proof.Machine.execHandoverAckTimeout clk s
  | .handoverAt clk => Sys2Proof.Machine.execHandoverAt clk s
  | .errorDetected clk kind region block element => Sys2Proof.Machine.execErrorDetected clk kind region block element s
  | .ptpTransmitInterval clk domain kind => Sys2Proof.Machine.execPtpTransmitInterval clk domain kind s
  | .linkSynchronised clk port => Sys2Proof.Machine.execLinkSynchronised clk port s
  | .groupFaultCleared clk output group mv => Sys2Proof.Machine.execGroupFaultCleared clk output group mv s
  | .vinBackInRange clk supply mv => Sys2Proof.Machine.execVinBackInRange clk supply mv s
  | .encoderLineRestored clk encoder a b z => Sys2Proof.Machine.execEncoderLineRestored clk encoder a b z s
  | .phaseAccumulatorCarry clk axis => Sys2Proof.Machine.execPhaseAccumulatorCarry clk axis s
  | .vectorSpacingEnd clk vector => Sys2Proof.Machine.execVectorSpacingEnd clk vector s
  | .domainFrequencyMeasurement clk khz => Sys2Proof.Machine.execDomainFrequencyMeasurement clk khz s

end Sys2Proof.Machine
end

