-- ==== Sys2Proof/WellFormed.lean ====
section
/-! DEFINITION. Well-formed commands: every field lies in the width or the range that its chapter gives it. A command outside them is one no
sender can form; its meaning is total all the same. -/

namespace Sys2Proof

/-- An entry's fields have the widths of Table 3-4; bulk data fits the window (R59). -/
def Entry.wf (e : Entry) : Bool :=
  decide (e.mbx < 8) && decide (e.opcode < 65536) && decide (e.argLen < 65536) && decide (e.bulkOffset < 2 ^ 32) && decide (e.bulkLen < 2 ^ 32) &&
    decide (e.args.length ≤ 224) && decide (e.bulk.length ≤ 65536)

/-- A frame comes from a port of Table 4-5 with the fields of Table 5-1: a 12-byte header and at most 1,488 bytes of payload. -/
def RxFrame.wf (f : RxFrame) : Bool :=
  decide (f.port < 5) && decide (f.etherType < 65536) && f.header.length == 12 && decide (f.payload.length ≤ 1488) && f.vlan.all (fun v => decide (v < 65536))

/-- A PTP message comes from an Ethernet port over a transport of R94. -/
def PtpMessage.wf (m : PtpMessage) : Bool :=
  decide (m.messageType < 16) && decide (m.port < 2) && decide (m.transport < 2) && decide (m.domainNumber < 256) && decide (m.sequenceId < 65536)

/-- A step's result names a block of Table 1-2 or a power domain of Table 18-5. -/
def StepResult.wf : StepResult → Bool
  | .ok => true
  | .failed region block => decide (region < 8) && decide (block < 32)
  | .timeout => true
  | .noPower domain => decide (1 ≤ domain) && decide (domain < 16)

/-- Every field of a command lies in its range. -/
def Instr.wf : Instr → Bool
  | .nop _ e => e.wf
  | .openSession _ e => e.wf
  | .closeSession _ e => e.wf
  | .newEpoch _ e => e.wf
  | .challenge _ e => e.wf
  | .unlock _ e => e.wf
  | .cancel _ e => e.wf
  | .getStatus _ e => e.wf
  | .reset _ e => e.wf
  | .setMode _ e => e.wf
  | .objRead _ e => e.wf
  | .objWrite _ e => e.wf
  | .imageBegin _ e => e.wf
  | .imageData _ e => e.wf
  | .imageCommit _ e => e.wf
  | .imageAbort _ e => e.wf
  | .moveJoint _ e => e.wf
  | .moveLinear _ e => e.wf
  | .moveConveyor _ e => e.wf
  | .stopMove _ e => e.wf
  | .jog _ e => e.wf
  | .teach _ e => e.wf
  | .pathRequest _ e => e.wf
  | .zoneRequest _ e => e.wf
  | .zoneExtend _ e => e.wf
  | .zoneRelease _ e => e.wf
  | .acqArm _ e => e.wf
  | .acqRead _ e => e.wf
  | .logRead _ e => e.wf
  | .attest _ e _ => e.wf
  | .keyEnrol _ e => e.wf
  | .loaderInfo _ e => e.wf
  | .loaderReadRecord _ e => e.wf
  | .loaderWriteSlot _ e => e.wf
  | .loaderRestart _ e => e.wf
  | .unknownOpcode _ e => e.wf
  | .udpDatagramRx _ port addr udpPort _ data => decide (port < 2) && decide (addr < 2 ^ 32) && decide (udpPort < 2 ^ 16) && decide (data.length ≤ 1312)
  | .cmdTailWrite _ mailbox value => decide (mailbox < 8) && decide (value < 2 ^ 16)
  | .cplHeadWrite _ mailbox value => decide (mailbox < 8) && decide (value < 2 ^ 16)
  | .htNowLoRead _ _ => true
  | .acqTrigTimeLoRead _ _ => true
  | .txtsPop _ _ value => decide (value < 2 ^ 32)
  | .txtsOvfRead _ _ => true
  | .errCountRead _ _ => true
  | .gatedAccessRead _ _ => true
  | .clearFirst _ _ value => decide (value < 2 ^ 32)
  | .viewClear _ _ value => decide (value < 2 ^ 32)
  | .intStatusClear _ _ value => decide (value < 2 ^ 32)
  | .intMaskWrite _ _ value => decide (value < 2 ^ 32)
  | .solverDoneClear _ _ value => decide (value < 2 ^ 32)
  | .registerWrite _ _ offset enables value => decide (offset < 2 ^ 16) && decide (enables < 16) && decide (value < 2 ^ 32)
  | .objWriteEffect _ => true
  | .gateRequestTimeout _ => true
  | .solverAnalysisDone _ slot => decide (slot < 8)
  | .ipmIterationEnd _ _ => true
  | .solverRunEnd _ slot => decide (slot < 8)
  | .solveDeadline _ _ _ => true
  | .hostRunResume _ => true
  | .solverSramUncorrectable _ element => decide (element < 2 ^ 16)
  | .tickStart => true
  | .modeTransitionComplete _ => true
  | .profilePass _ => true
  | .arbiterPass _ => true
  | .leaseExpiry _ lease => decide (lease < 2 ^ 32)
  | .plannerSnapshot _ => true
  | .plannerPost _ => true
  | .commitTest _ => true
  | .commitCutoff _ => true
  | .separationStep _ => true
  | .processorResult _ => true
  | .chamoisResult _ => true
  | .separationCombination _ => true
  | .jointStale _ _ arm => decide (arm < 8)
  | .sensorWorst _ sensor => decide (sensor < 16)
  | .ss2Release _ arm => decide (arm < 8)
  | .downstreamCommitPoint _ _ slot => decide (slot < 2 ^ 12)
  | .processFrameRx _ f => f.wf
  | .safetyFrameRx _ f => f.wf
  | .messageRx _ f => f.wf
  | .delayRespRx _ f => f.wf
  | .startupRx _ f => f.wf
  | .slotWindowClose _ slot => decide (slot < 256)
  | .downstreamNitStart _ => true
  | .ringRestoreAt _ ring => decide (ring < 2)
  | .listenTimeout _ => true
  | .startWindowClose _ => true
  | .backoffEnd _ => true
  | .nodeIntegrated _ node => decide (node < 256)
  | .nodeLost _ node => decide (node < 256)
  | .driftWarn _ node => decide (node < 256)
  | .safetySingle _ slot => decide (slot < 256)
  | .linkSyncLoss _ port => decide (port < 5)
  | .operandPost _ => true
  | .timedDue _ => true
  | .taskDispatch _ core => decide (core < 16)
  | .loopExecution _ core => decide (core < 16)
  | .axisFault _ loop => decide (loop < 256)
  | .matchExpired _ => true
  | .backpressureRelease _ => true
  | .kernelRun _ slot _ => decide (slot < 4)
  | .kernelWindowClose _ slot => decide (slot < 4)
  | .processorEvaluation _ a b _ sw1 readback currents => decide (a < 2 ^ 16) && decide (b < 2 ^ 16) && decide (sw1 < 256) && decide (readback < 256) && decide (currents.length ≤ 8)
  | .chamoisEvaluation _ a b _ sw1 readback currents => decide (a < 2 ^ 16) && decide (b < 2 ^ 16) && decide (sw1 < 256) && decide (readback < 256) && decide (currents.length ≤ 8)
  | .safetyStatusRx _ _ => true
  | .channelSilent _ _ => true
  | .crossMismatch _ _ value => decide (value < 256)
  | .oscillatorMismatch _ _ => true
  | .discrepancy _ _ input => decide (input < 16)
  | .ss1Timeout _ _ arm => decide (arm < 8)
  | .netInputStale _ _ entry => decide (entry < 64)
  | .darkPulseTest _ _ output _ => decide (output < 8)
  | .outputDiagnosis _ _ output kind _ => decide (output < 8) && decide (kind < 4)
  | .outputCurrentLimit _ output => decide (output < 8)
  | .sresetEdge _ => true
  | .resetEdgeWindowExpiry _ => true
  | .sw1Change _ => true
  | .containedErrorRate _ region block => decide (region < 8) && decide (block < 32)
  | .supervisorWatchdogExpiry _ => true
  | .ddrUncorrectableError _ area _ _ => decide (area < 7)
  | .inputFilterStep _ raw => decide (raw < 2 ^ 32)
  | .inputGroupFault _ group mv => decide (group < 4) && decide (mv < 2 ^ 14)
  | .outputGroupFault _ group mv => decide (group < 2) && decide (mv < 2 ^ 14)
  | .encoderEdge _ encoder _ _ => decide (encoder < 8)
  | .encoderIndex _ encoder _ => decide (encoder < 8)
  | .lineFault _ encoder => decide (encoder < 8)
  | .encoderStandstill _ encoder => decide (encoder < 8)
  | .tickLatch _ encoder => decide (encoder < 8)
  | .encoderTransactionStart _ encoder => decide (encoder < 8)
  | .encoderWordReceived _ encoder reply => decide (encoder < 8) && decide (reply.bits.length ≤ 64) && decide (reply.bytes.length ≤ 10)
  | .encoderTimeout _ encoder => decide (encoder < 8)
  | .emulatedEdge _ encoder => decide (encoder < 8)
  | .conveyorStale _ conveyor => decide (conveyor < 8)
  | .jogTimeout _ channel => decide (channel < 80)
  | .currentSample _ axis a b => decide (axis < 8) && decide (a < 2 ^ 12) && decide (b < 2 ^ 12)
  | .referenceInstant _ axis => decide (axis < 8)
  | .auxFeedbackPost _ axis => decide (axis < 8)
  | .chopperFallback _ axis => decide (axis < 8)
  | .stall _ axis => decide (axis < 8)
  | .ptpSyncRx _ m => m.wf
  | .ptpMessageRx _ m => m.wf
  | .sourceLocked _ source => decide (source < 4)
  | .syncTimeout _ domain => decide (domain < 2)
  | .announceReceiptTimeout _ domain => decide (domain < 2)
  | .revertTimer _ => true
  | .slewEnd _ => true
  | .ppsInEdge _ _ => true
  | .ppsTimeout _ => true
  | .ppsOutEdge _ => true
  | .pairTimeExchange _ _ _ _ _ => true
  | .aonStore _ => true
  | .powerOn _ mv _ => decide (mv < 2 ^ 14)
  | .brownOut _ mv => decide (mv < 2 ^ 14)
  | .lowInput _ mv => decide (mv < 2 ^ 14)
  | .highInput _ mv => decide (mv < 2 ^ 14)
  | .modResetN _ => true
  | .commandResetBegin _ => true
  | .perstN _ _ => true
  | .pcieLinkDown _ _ => true
  | .dieTemperature _ _ => true
  | .crystalStable _ => true
  | .clockMonitorWindow _ source _ => decide (source < 4)
  | .clockLoss _ source => decide (source < 4)
  | .pllUnlock _ pll => decide (pll < 5)
  | .clockSourceRecovered _ source => decide (source < 4)
  | .rcTrim _ _ => true
  | .muxSwitch _ => true
  | .forcedSwitch _ => true
  | .pllRelock _ pll => decide (pll < 5)
  | .domainPowerGood _ domain => decide (domain < 16)
  | .domainPowerGoodTimeout _ domain => decide (domain < 16)
  | .drainTimeout _ domain => decide (domain < 16)
  | .domainOff _ domain => decide (domain < 16)
  | .startAttempt _ results => results.all StepResult.wf
  | .startStepTimeout _ => true
  | .configCheckDone _ => true
  | .nonceExpiry _ mailbox => decide (mailbox < 8)
  | .lockoutEnd _ mailbox => decide (mailbox < 8)
  | .udpIdleTimeout _ mailbox => decide (mailbox < 8)
  | .sessionDrained _ mailbox => decide (mailbox < 8)
  | .acqSample _ _ => true
  | .indexTreeReady _ => true
  | .tokenRenewal _ => true
  | .tokenMessageRx _ token => decide (token.epoch < 2 ^ 32) && decide (token.holder < 3)
  | .tokenLeaseExpiry _ => true
  | .takeover _ => true
  | .mirrorSetRx _ set => decide (set.tick < 2 ^ 32)
  | .mirrorAgeLimit _ => true
  | .planAckRx _ seq => decide (seq < 2 ^ 32)
  | .pairSafetyStatusRx _ _ states _ => states.all (fun v => decide (v < 6))
  | .peerSilent _ => true
  | .pairRevertTimer _ => true
  | .handoverRequestRx _ kind _ => decide (kind < 4)
  | .handoverAckTimeout _ => true
  | .handoverAt _ => true
  | .errorDetected _ _ region block element => decide (region < 8) && decide (block < 32) && decide (element < 2 ^ 16)
  | .ptpTransmitInterval _ domain kind => decide (domain < 2) && decide (kind < 4)
  | .linkSynchronised _ port => decide (port < 5)
  | .groupFaultCleared _ _ group mv => decide (group < 4) && decide (mv < 2 ^ 14)
  | .vinBackInRange _ supply mv => decide (supply < 65792) && decide (mv < 2 ^ 14)
  | .encoderLineRestored _ encoder _ _ _ => decide (encoder < 8)
  | .phaseAccumulatorCarry _ axis => decide (axis < 8)
  | .vectorSpacingEnd _ vector => decide (vector < 32)
  | .domainFrequencyMeasurement _ khz => decide (khz.length ≤ 10)

end Sys2Proof
end

