-- ==== Sys2Proof/Safety.lean ====
section
/-! DEFINITION. The terms in which the statements about the block are made: when a command is admitted, what it posts, and what the
invariants of the block are. -/

namespace Sys2Proof.Machine

/-! ### Commands of the mailboxes -/

/-- The entry `e` is the one a command with this opcode takes from state `s` over transport `via`, in the turn of its mailbox, and it is
not discarded (R58, R61 to R63, R65, R70, R71); the lengths of its arguments and of its bulk data are ones R57 and R59 allow; no SET_MODE
that leads to BOOT has posted the last completion before the reset (R44). -/
structure Admitted (s : State) (opcode : Nat) (e0 : Entry) (via : Transport) (e : Entry) : Prop where
  taken : takenEntry opcode s e0 = some (via, e)
  turn : turnOf s e.mbx = true
  kept : entryFault s via e = none
  box : e.mbx < s.zewen.mbx.length
  fits : lengthsFit e = true
  open_ : s.mode.resetFinal = false

/-- Its session is open, and the start is no rescue start, so that R81 judges the command. -/
def Open (s : State) (e : Entry) : Prop := (mbx s e.mbx).state ≠ .closed ∧ s.start.rescue = false

/-- Its session is privileged. -/
def Privileged (s : State) (e : Entry) : Prop := (mbx s e.mbx).state = .privileged ∧ s.start.rescue = false

/-- The state a command's own effect starts from: time has gone on, the entry is consumed and in flight. -/
def entered (clk : Nat) (s : State) (via : Transport) (e : Entry) : State := enterFlight (consumeEntry (begin clk s) e) via e

/-- The outputs hold a completion of the entry with this status and result (Table 3-5). -/
def Posts (t : State) (e : Entry) (status : Nat) (result : Bytes) : Prop :=
  ∃ c : Completion, Output.completion c ∈ t.out ∧ c.mailbox = e.mbx ∧ c.txid = e.txid ∧ c.opcode = e.opcode ∧ c.status = status ∧
    c.result = result

/-- An access that R393 lets reach its register: the link is up and the block that serves the register is neither gated, isolated nor
without power. -/
def Reached (s : State) (offset : Nat) : Prop := s.zewen.linkUp = true ∧ serverDown s (servedBy offset) = false

/-- ERR_WORD once the word w is written: of the words of one clock it holds the last in their order (R452). -/
def errWordNow (s : State) (w : Word) : Word := if s.fresh.errMin.isSome && wordBefore w s.reg.errWord then s.reg.errWord else w

/-! ### Invariants -/

/-- What every step keeps: the security floor lies within its 64 fuses (R417). -/
def FloorInv (s : State) : Prop := s.sec.otp.floor ≤ 64

/-- The canonical form of a bulk window: offsets strictly rise, and no byte listed is 0, which a byte not listed reads as (Table 3-2). -/
abbrev windowWf (w : List Host.Cell) : Prop := w.Pairwise (fun a b => a.1 < b.1) ∧ ∀ c ∈ w, c.2 ≠ 0

/-! ### The parts of the block -/

/-- The parts of the state, but for the queue, the outputs and the counts of clocks, which every command moves. -/
inductive Part where
  /-- Modes, transitions and causes. -/
  | mode
  /-- Start attempts. -/
  | start
  /-- Mailboxes, sessions and MSI-X. -/
  | zewen
  /-- Queued object writes. -/
  | writes
  /-- Cell images and their checks. -/
  | image
  /-- Registers of Table 22-4. -/
  | reg
  /-- Object values and counters. -/
  | objs
  /-- Herd time, PTP and timestamps. -/
  | herd
  /-- The always-on domain. -/
  | aon
  /-- Tahixa. -/
  | net
  /-- The planner. -/
  | plan
  /-- The solver array. -/
  | solver
  /-- Piste. -/
  | piste
  /-- The profile generator. -/
  | prof
  /-- Control loops. -/
  | ctl
  /-- Task scheduler and matching store. -/
  | sched
  /-- DSP kernels. -/
  | dsp
  /-- Separation monitoring. -/
  | sep
  /-- Both safety channels. -/
  | safety
  /-- Chamois's own latches. -/
  | cham
  /-- Field I/O, encoders and auxiliary axes. -/
  | field
  /-- Acquisition. -/
  | acq
  /-- The three logs. -/
  | logs
  /-- Clocks and gates. -/
  | clocks
  /-- Power domains. -/
  | power
  /-- The redundant pair. -/
  | pair
  /-- Keys, firmware slots, OTP and the index store. -/
  | sec
  /-- Pins, supplies and temperatures. -/
  | hw
  /-- The other contents of NOR. -/
  | nor
  /-- The model's own counter of free values. -/
  | freeCount
  deriving DecidableEq, Repr

/-- A part is the same in two states. -/
def Part.same (s t : State) : Part → Prop
  | .mode => t.mode = s.mode
  | .start => t.start = s.start
  | .zewen => t.zewen = s.zewen
  | .writes => t.writes = s.writes
  | .image => t.image = s.image
  | .reg => t.reg = s.reg
  | .objs => t.objs = s.objs
  | .herd => t.herd = s.herd
  | .aon => t.aon = s.aon
  | .net => t.net = s.net
  | .plan => t.plan = s.plan
  | .solver => t.solver = s.solver
  | .piste => t.piste = s.piste
  | .prof => t.prof = s.prof
  | .ctl => t.ctl = s.ctl
  | .sched => t.sched = s.sched
  | .dsp => t.dsp = s.dsp
  | .sep => t.sep = s.sep
  | .safety => t.safety = s.safety
  | .cham => t.cham = s.cham
  | .field => t.field = s.field
  | .acq => t.acq = s.acq
  | .logs => t.logs = s.logs
  | .clocks => t.clocks = s.clocks
  | .power => t.power = s.power
  | .pair => t.pair = s.pair
  | .sec => t.sec = s.sec
  | .hw => t.hw = s.hw
  | .nor => t.nor = s.nor
  | .freeCount => t.freeCount = s.freeCount

/-- What posting a completion can change: the mailbox and its vector, and with a trace entry the logs, their counters and interrupt. -/
def posting : List Part := [.zewen, .herd, .aon, .logs, .acq, .objs, .reg, .freeCount]

/-- What posting can change, and other parts. -/
def postingAnd (l : List Part) : List Part := posting ++ l

end Sys2Proof.Machine

namespace Sys2Proof

open Machine

/-- The parts of the block each command may change; herd time and the AON timer go on with every command. -/
def Instr.acts : Instr → List Part
  | .nop _ _ => posting
  | .openSession _ _ => posting
  | .closeSession _ _ => postingAnd [.image, .plan, .piste, .sec]
  | .newEpoch _ _ => posting
  | .challenge _ _ => posting
  | .unlock _ _ => posting
  | .cancel _ _ => postingAnd [.image, .plan, .piste]
  | .getStatus _ _ => posting
  | .reset _ _ => postingAnd [.mode]
  | .setMode _ _ => postingAnd [.mode, .start, .image, .piste, .safety, .cham, .power]
  | .objRead _ _ => postingAnd [.net, .sched]
  | .objWrite _ _ => postingAnd [.writes]
  | .imageBegin _ _ => postingAnd [.image]
  | .imageData _ _ => postingAnd [.image]
  | .imageCommit _ _ => postingAnd [.image]
  | .imageAbort _ _ => postingAnd [.image]
  | .moveJoint _ _ => postingAnd [.prof]
  | .moveLinear _ _ => postingAnd [.prof]
  | .moveConveyor _ _ => postingAnd [.prof]
  | .stopMove _ _ => postingAnd [.prof]
  | .jog _ _ => postingAnd [.prof]
  | .teach _ _ => postingAnd [.prof]
  | .pathRequest _ _ => postingAnd [.plan]
  | .zoneRequest _ _ => postingAnd [.piste]
  | .zoneExtend _ _ => postingAnd [.piste]
  | .zoneRelease _ _ => postingAnd [.piste]
  | .acqArm _ _ => posting
  | .acqRead _ _ => posting
  | .logRead _ _ => posting
  | .attest _ _ _ => postingAnd [.sec]
  | .keyEnrol _ _ => postingAnd [.sec]
  | .loaderInfo _ _ => posting
  | .loaderReadRecord _ _ => posting
  | .loaderWriteSlot _ _ => postingAnd [.sec]
  | .loaderRestart _ _ => postingAnd [.mode, .start, .writes, .image, .net, .plan, .solver, .piste, .prof, .ctl, .sched, .dsp, .sep, .safety, .field, .clocks, .power, .pair, .sec, .hw, .nor]
  | .unknownOpcode _ _ => posting
  | .udpDatagramRx _ _ _ _ _ _ => [.zewen, .objs, .herd, .aon, .freeCount]
  | .cmdTailWrite _ _ _ => [.zewen, .herd, .aon]
  | .cplHeadWrite _ _ _ => [.zewen, .herd, .aon]
  | .htNowLoRead _ _ => [.reg, .herd, .aon]
  | .acqTrigTimeLoRead _ _ => [.reg, .herd, .aon]
  | .txtsPop _ _ _ => [.zewen, .reg, .herd, .aon, .clocks]
  | .txtsOvfRead _ _ => [.reg, .herd, .aon]
  | .errCountRead _ _ => [.reg, .herd, .aon]
  | .gatedAccessRead _ _ => [.reg, .herd, .aon]
  | .clearFirst _ _ _ => [.zewen, .reg, .herd, .aon, .clocks]
  | .viewClear _ _ _ => [.zewen, .reg, .herd, .aon, .clocks]
  | .intStatusClear _ _ _ => [.zewen, .reg, .herd, .aon, .clocks]
  | .intMaskWrite _ _ _ => [.zewen, .reg, .herd, .aon, .clocks]
  | .solverDoneClear _ _ _ => [.zewen, .reg, .herd, .aon, .clocks]
  | .registerWrite _ _ _ _ _ => [.zewen, .reg, .herd, .aon, .clocks]
  | .objWriteEffect _ => postingAnd [.mode, .writes, .net, .solver, .piste, .prof, .ctl, .dsp, .field, .clocks, .pair]
  | .gateRequestTimeout _ => postingAnd [.writes, .clocks]
  | .solverAnalysisDone _ _ => [.herd, .aon, .solver]
  | .ipmIterationEnd _ _ => [.herd, .aon, .solver]
  | .solverRunEnd _ _ => postingAnd [.plan, .solver]
  | .solveDeadline _ _ _ => [.herd, .aon, .solver]
  | .hostRunResume _ => [.herd, .aon, .solver]
  | .solverSramUncorrectable _ _ => postingAnd [.mode, .start, .solver, .nor]
  | .tickStart => postingAnd [.mode, .start, .writes, .image, .net, .plan, .solver, .piste, .prof, .ctl, .sched, .dsp, .sep, .safety, .cham, .field, .clocks, .power, .pair, .nor]
  | .modeTransitionComplete _ => postingAnd [.mode]
  | .profilePass _ => postingAnd [.plan, .piste, .prof, .ctl, .sched, .pair]
  | .arbiterPass _ => postingAnd [.mode, .piste, .pair]
  | .leaseExpiry _ _ => [.objs, .herd, .aon, .piste, .freeCount]
  | .plannerSnapshot _ => postingAnd [.plan]
  | .plannerPost _ => postingAnd [.plan, .solver]
  | .commitTest _ => postingAnd [.plan, .piste]
  | .commitCutoff _ => postingAnd [.plan]
  | .separationStep _ => [.objs, .herd, .aon, .sep, .freeCount]
  | .processorResult _ => postingAnd [.mode, .start, .sep, .safety, .cham, .nor]
  | .chamoisResult _ => postingAnd [.mode, .start, .sep, .safety, .cham, .nor]
  | .separationCombination _ => postingAnd [.mode, .start, .sep, .nor]
  | .jointStale _ _ _ => [.herd, .aon, .sep]
  | .sensorWorst _ _ => postingAnd [.sep]
  | .ss2Release _ _ => [.herd, .aon, .sep]
  | .downstreamCommitPoint _ _ _ => [.objs, .herd, .aon, .net, .safety, .freeCount]
  | .processFrameRx _ _ => [.objs, .herd, .aon, .net, .ctl, .sched, .sep, .safety, .pair, .freeCount]
  | .safetyFrameRx _ _ => [.objs, .herd, .aon, .net, .ctl, .sched, .sep, .safety, .pair, .freeCount]
  | .messageRx _ _ => [.zewen, .reg, .objs, .herd, .aon, .net, .freeCount]
  | .delayRespRx _ _ => [.objs, .herd, .aon, .net, .pair, .freeCount]
  | .startupRx _ _ => [.objs, .herd, .aon, .net, .freeCount]
  | .slotWindowClose _ _ => [.objs, .herd, .aon, .net, .ctl, .sched, .safety, .freeCount]
  | .downstreamNitStart _ => [.herd, .aon, .net]
  | .ringRestoreAt _ _ => [.herd, .aon, .net]
  | .listenTimeout _ => [.herd, .aon, .net]
  | .startWindowClose _ => [.herd, .aon, .net]
  | .backoffEnd _ => [.herd, .aon, .net]
  | .nodeIntegrated _ _ => [.objs, .herd, .aon, .net, .freeCount]
  | .nodeLost _ _ => postingAnd [.net]
  | .driftWarn _ _ => postingAnd [.net]
  | .safetySingle _ _ => postingAnd [.net]
  | .linkSyncLoss _ _ => postingAnd [.net, .pair]
  | .operandPost _ => [.objs, .herd, .aon, .sched, .freeCount]
  | .timedDue _ => [.objs, .herd, .aon, .sched, .freeCount]
  | .taskDispatch _ _ => [.objs, .herd, .aon, .sched, .freeCount]
  | .loopExecution _ _ => postingAnd [.net, .ctl, .sched, .field]
  | .axisFault _ _ => postingAnd [.mode, .start, .piste, .ctl, .nor]
  | .matchExpired _ => postingAnd [.mode, .sched]
  | .backpressureRelease _ => [.objs, .herd, .aon, .sched, .freeCount]
  | .kernelRun _ _ _ => postingAnd [.mode, .dsp]
  | .kernelWindowClose _ _ => postingAnd [.mode, .dsp]
  | .processorEvaluation _ _ _ _ _ _ _ => postingAnd [.mode, .start, .safety, .pair, .nor]
  | .chamoisEvaluation _ _ _ _ _ _ _ => postingAnd [.mode, .start, .safety, .cham, .nor]
  | .safetyStatusRx _ _ => [.herd, .aon, .safety, .cham]
  | .channelSilent _ _ => postingAnd [.mode, .start, .safety, .cham, .nor]
  | .crossMismatch _ _ _ => postingAnd [.mode, .start, .safety, .cham, .nor]
  | .oscillatorMismatch _ _ => postingAnd [.mode, .start, .safety, .cham, .nor]
  | .discrepancy _ _ _ => postingAnd [.mode, .start, .safety, .nor]
  | .ss1Timeout _ _ _ => postingAnd [.safety]
  | .netInputStale _ _ _ => [.herd, .aon, .safety]
  | .darkPulseTest _ _ _ _ => postingAnd [.mode, .start, .safety, .nor]
  | .outputDiagnosis _ _ _ _ _ => postingAnd [.mode, .start, .safety, .nor]
  | .outputCurrentLimit _ _ => [.herd, .aon, .safety]
  | .sresetEdge _ => [.mode, .objs, .herd, .aon, .safety, .freeCount]
  | .resetEdgeWindowExpiry _ => [.mode, .herd, .aon]
  | .sw1Change _ => postingAnd [.safety]
  | .containedErrorRate _ _ _ => postingAnd [.mode, .start, .image, .plan, .solver, .piste, .sec, .nor]
  | .supervisorWatchdogExpiry _ => postingAnd [.mode, .start, .writes, .image, .net, .plan, .solver, .piste, .prof, .ctl, .sched, .dsp, .sep, .safety, .field, .clocks, .power, .pair, .sec, .hw, .nor]
  | .ddrUncorrectableError _ _ _ _ => postingAnd [.mode, .start, .nor]
  | .inputFilterStep _ _ => [.objs, .herd, .aon, .field, .acq, .freeCount]
  | .inputGroupFault _ _ _ => postingAnd [.mode, .field, .hw]
  | .outputGroupFault _ _ _ => postingAnd [.mode, .field, .hw]
  | .encoderEdge _ _ _ _ => [.objs, .herd, .aon, .field]
  | .encoderIndex _ _ _ => [.herd, .aon, .field]
  | .lineFault _ _ => postingAnd [.mode, .field]
  | .encoderStandstill _ _ => [.herd, .aon, .field]
  | .tickLatch _ _ => [.herd, .aon, .field]
  | .encoderTransactionStart _ _ => [.herd, .aon, .field]
  | .encoderWordReceived _ _ _ => [.objs, .herd, .aon, .field, .freeCount]
  | .encoderTimeout _ _ => [.objs, .herd, .aon, .field]
  | .emulatedEdge _ _ => [.herd, .aon, .field]
  | .conveyorStale _ _ => [.herd, .aon, .prof]
  | .jogTimeout _ _ => [.herd, .aon, .prof]
  | .currentSample _ _ _ _ => [.herd, .aon, .field]
  | .referenceInstant _ _ => [.herd, .aon, .field]
  | .auxFeedbackPost _ _ => [.herd, .aon, .ctl, .sched, .field]
  | .chopperFallback _ _ => [.objs, .herd, .aon, .field, .freeCount]
  | .stall _ _ => postingAnd [.mode, .start, .piste, .ctl, .field, .nor]
  | .ptpSyncRx _ _ => posting
  | .ptpMessageRx _ _ => [.herd, .aon]
  | .sourceLocked _ _ => posting
  | .syncTimeout _ _ => posting
  | .announceReceiptTimeout _ _ => posting
  | .revertTimer _ => [.herd, .aon]
  | .slewEnd _ => [.herd, .aon]
  | .ppsInEdge _ _ => posting
  | .ppsTimeout _ => posting
  | .ppsOutEdge _ => [.herd, .aon]
  | .pairTimeExchange _ _ _ _ _ => [.objs, .herd, .aon]
  | .aonStore _ => [.herd, .aon]
  | .powerOn _ _ _ => [.mode, .start, .zewen, .writes, .image, .reg, .objs, .herd, .aon, .net, .plan, .solver, .piste, .prof, .ctl, .sched, .dsp, .sep, .safety, .cham, .field, .acq, .logs, .clocks, .power, .pair, .sec, .hw]
  | .brownOut _ _ => [.mode, .start, .zewen, .writes, .image, .reg, .objs, .herd, .aon, .net, .plan, .solver, .piste, .prof, .ctl, .sched, .dsp, .sep, .safety, .field, .acq, .logs, .clocks, .power, .pair, .sec, .hw]
  | .lowInput _ _ => postingAnd [.mode, .hw]
  | .highInput _ _ => postingAnd [.mode, .start, .hw, .nor]
  | .modResetN _ => [.mode, .start, .zewen, .writes, .image, .reg, .objs, .herd, .aon, .net, .plan, .solver, .piste, .prof, .ctl, .sched, .dsp, .sep, .safety, .field, .acq, .logs, .clocks, .power, .pair, .sec, .hw, .nor]
  | .commandResetBegin _ => [.mode, .start, .zewen, .writes, .image, .reg, .objs, .herd, .aon, .net, .plan, .solver, .piste, .prof, .ctl, .sched, .dsp, .sep, .safety, .field, .acq, .logs, .clocks, .power, .pair, .sec, .hw, .nor]
  | .perstN _ _ => postingAnd [.image, .plan, .piste, .sec, .hw]
  | .pcieLinkDown _ _ => postingAnd [.image, .plan, .piste, .sec]
  | .dieTemperature _ _ => postingAnd [.mode, .start, .hw, .nor]
  | .crystalStable _ => [.herd, .aon, .clocks]
  | .clockMonitorWindow _ _ _ => postingAnd [.mode, .start, .image, .plan, .piste, .clocks, .sec, .nor]
  | .clockLoss _ _ => postingAnd [.mode, .start, .image, .plan, .piste, .clocks, .sec, .nor]
  | .pllUnlock _ _ => postingAnd [.mode, .start, .clocks, .nor]
  | .clockSourceRecovered _ _ => [.herd, .aon, .clocks]
  | .rcTrim _ _ => [.herd, .aon, .clocks]
  | .muxSwitch _ => [.herd, .aon, .clocks]
  | .forcedSwitch _ => [.zewen, .reg, .objs, .herd, .aon, .clocks, .freeCount]
  | .pllRelock _ _ => [.herd, .aon, .clocks]
  | .domainPowerGood _ _ => [.objs, .herd, .aon, .power, .hw]
  | .domainPowerGoodTimeout _ _ => postingAnd [.mode, .start, .writes, .image, .net, .plan, .solver, .piste, .prof, .ctl, .sched, .dsp, .sep, .safety, .cham, .field, .clocks, .power, .pair, .sec, .hw, .nor]
  | .drainTimeout _ _ => [.objs, .herd, .aon, .freeCount]
  | .domainOff _ _ => postingAnd [.solver, .prof, .ctl, .sched, .dsp, .sep, .field, .power]
  | .startAttempt _ _ => postingAnd [.mode, .start, .writes, .image, .net, .plan, .solver, .piste, .prof, .ctl, .sched, .dsp, .sep, .safety, .cham, .field, .clocks, .power, .pair, .sec, .hw, .nor]
  | .startStepTimeout _ => postingAnd [.mode, .start, .writes, .image, .net, .plan, .solver, .piste, .prof, .ctl, .sched, .dsp, .sep, .safety, .cham, .field, .clocks, .power, .pair, .sec, .hw, .nor]
  | .configCheckDone _ => postingAnd [.mode, .start, .image, .net, .plan, .solver, .piste, .prof, .ctl, .dsp, .safety, .field, .clocks, .pair]
  | .nonceExpiry _ _ => [.zewen, .herd, .aon]
  | .lockoutEnd _ _ => [.zewen, .herd, .aon]
  | .udpIdleTimeout _ _ => postingAnd [.image, .plan, .piste, .sec]
  | .sessionDrained _ _ => posting
  | .acqSample _ _ => postingAnd [.net]
  | .indexTreeReady _ => [.herd, .aon, .sec]
  | .tokenRenewal _ => [.objs, .herd, .aon, .net, .pair, .freeCount]
  | .tokenMessageRx _ _ => [.herd, .aon, .pair]
  | .tokenLeaseExpiry _ => postingAnd [.pair]
  | .takeover _ => postingAnd [.mode, .net, .plan, .solver, .piste, .prof, .field, .pair]
  | .mirrorSetRx _ _ => postingAnd [.mode, .image, .plan, .pair]
  | .mirrorAgeLimit _ => postingAnd [.pair]
  | .planAckRx _ _ => [.objs, .herd, .aon, .pair]
  | .pairSafetyStatusRx _ _ _ _ => postingAnd [.pair]
  | .peerSilent _ => postingAnd [.pair]
  | .pairRevertTimer _ => [.herd, .aon]
  | .handoverRequestRx _ _ _ => [.objs, .herd, .aon, .pair]
  | .handoverAckTimeout _ => [.herd, .aon, .pair]
  | .handoverAt _ => postingAnd [.mode, .net, .plan, .solver, .piste, .prof, .field, .pair]
  | .errorDetected _ _ _ _ _ => postingAnd [.mode, .start, .image, .plan, .solver, .piste, .sec, .hw, .nor]
  | .ptpTransmitInterval _ _ _ => [.zewen, .reg, .herd, .aon]
  | .linkSynchronised _ _ => [.herd, .aon, .net, .pair]
  | .groupFaultCleared _ _ _ _ => [.herd, .aon, .field, .hw]
  | .vinBackInRange _ _ _ => [.herd, .aon, .hw]
  | .encoderLineRestored _ _ _ _ _ => [.herd, .aon, .field]
  | .phaseAccumulatorCarry _ _ => [.herd, .aon, .prof, .field]
  | .vectorSpacingEnd _ _ => [.zewen, .herd, .aon]
  | .domainFrequencyMeasurement _ _ => [.herd, .aon, .clocks]

end Sys2Proof
end

