-- ==== Sys2Proof/Certificates/Slice0/Obligations.lean ====
section
/-! DEFINITION. The statements about the block. -/

open Sys2Proof Sys2Proof.Machine

/-! ### The whole block -/

/-- A step takes the command at the front of the queue and runs it with the rest of the queue left waiting. -/
def Obligations.StepTakesFront : Prop :=
  ∀ (c : Instr) (rest : List Instr) (s : State), step { s with pending := c :: rest } = exec c { s with pending := rest }

/-- With nothing waiting the block idles. The model's own choice (log entry 1). -/
def Obligations.EmptyQueueIdles : Prop :=
  ∀ s : State, s.pending = [] → step s = .next s

/-- No command is refused and none faults: the spec gives every row of its table an effect. A command's effect never touches the queue of
the commands that wait behind it. -/
def Obligations.EveryCommandAnswers : Prop :=
  (∀ (c : Instr) (s : State), ∃ t, exec c s = .next t) ∧
  (∀ (c : Instr) (s t : State), exec c s = .next t → t.pending = s.pending)

/-- What reset leaves, where the spec states it: BOOT with no transition, every mailbox CLOSED with empty rings, no interrupt pending and
DEVICE unmasked, empty error registers, herd time not running, Chamois with its start latch set, the objects at their defaults; the
registers of Table 22-4 read as its Reset column says, in both views (R456). The queue is empty. -/
def Obligations.ResetState : Prop :=
  let s := State.reset
  (s.mode.mode = .boot ∧ s.mode.target = none ∧ s.mode.accepted = none ∧
    s.zewen.mbx.length = 8 ∧ (∀ m, m < 8 → (mbx s m).state = .closed ∧ (mbx s m).inFlight = [] ∧ (mbx s m).cmdTail = (mbx s m).cmdHead ∧
      (mbx s m).cplTail = (mbx s m).cplHead) ∧
    s.reg.intStatus = 0 ∧ s.reg.intMask.getLsbD 0 = false ∧ s.reg.errWord = 0 ∧ s.reg.errFirst = 0 ∧ s.reg.errCount = 0 ∧
    s.herd.running = false ∧ s.cham.startLatch = true ∧ s.objs = [] ∧ s.pending = []) ∧
  (∀ bar, regValue s bar 0x0000 = 0x08640100 ∧ regValue s bar 0x0024 = 0x03FE ∧ regValue s bar 0x080C = 0x0300 ∧
    regValue s bar 0x0A00 = 0x0002 ∧ regValue s bar 0x0A08 = 0x0001 ∧
    (∀ offset ∈ [0x0004, 0x0008, 0x000C, 0x0010, 0x0014, 0x0018, 0x001C, 0x0020, 0x0028, 0x0040, 0x0044, 0x0810, 0x0820, 0x0824, 0x0828,
        0x082C, 0x0830, 0x0834, 0x0900, 0x0904, 0x0908, 0x090C, 0x0A04, 0x0A0C, 0xF800, 0xF804], regValue s bar offset = 0) ∧
    (∀ m < 8, ∀ field < 4, regValue s bar (0x0100 + 16 * m + 4 * field) = 0))

/-- Table 20-3's floor within its 64 fuses, the invariant of `FloorOnlyRises`, holds after reset. -/
def Obligations.FloorInvAtReset : Prop :=
  FloorInv State.reset

/-- R417 over every step, whatever the command: the OTP memory changes in nothing but the security floor, so no command blows a revocation
fuse; the floor never decreases, and it stays within its 64 fuses. -/
def Obligations.FloorOnlyRises : Prop :=
  ∀ s t : State, FloorInv s → step s = .next t →
    FloorInv t ∧ s.sec.otp.floor ≤ t.sec.otp.floor ∧ t.sec.otp = { s.sec.otp with floor := t.sec.otp.floor }

/-- The customer keys and the HMAC keys change by KEY_ENROL alone, over every step: no reset, loss of power or fault changes a key slot. -/
def Obligations.KeysOnlyByEnrol : Prop :=
  ∀ s t : State, step s = .next t → (∀ clk e rest, s.pending ≠ .keyEnrol clk e :: rest) →
    t.sec.customer = s.sec.customer ∧ t.sec.hmac = s.sec.hmac

/-- Chamois's STO latch, once set, stays set through every step but a SET_MODE (R44) and a POWER_ON. -/
def Obligations.StoLatchLasts : Prop :=
  ∀ s t : State, step s = .next t → (∀ clk e rest, s.pending ≠ .setMode clk e :: rest) →
    (∀ clk mv r rest, s.pending ≠ .powerOn clk mv r :: rest) → s.cham.stoLatch = true → t.cham.stoLatch = true

/-- The frame of every command: whatever becomes of it, it changes none of the parts of the block that are not listed for it. -/
def Obligations.PartsLeftAlone : Prop :=
  ∀ (c : Instr) (s t : State), exec c s = .next t → ∀ p : Part, p ∉ c.acts → p.same s t

/-! ### Sessions and mailboxes -/

/-- R65, first row: OPEN_SESSION on a CLOSED mailbox opens the session, raises the mailbox's epoch by 1 modulo 16, takes the next SESSION_ID
of the module, which is never 0, binds the mailbox to the transport, and completes with both. R65: OPEN_SESSION on a mailbox that is not
CLOSED completes with BUSY and leaves the session as it is. -/
def Obligations.SessionsOpen : Prop :=
  (∀ (clk : Nat) (e0 e : Entry) (via : Transport) (s : State), Admitted (begin clk s) 0x0002 e0 via e →
    (mbx (begin clk s) e.mbx).state = .closed → (entryArgs e).length = 0 → e.mbx < s.aon.epochs.length →
    ∃ t, exec (.openSession clk e0) s = .next t ∧ (mbx t e.mbx).state = .opened ∧ (mbx t e.mbx).via = via ∧
      epochOf t e.mbx = (epochOf s e.mbx + 1) % 16 ∧ t.aon.sessionCounter = nextSessionId s.aon.sessionCounter ∧
      t.aon.sessionCounter ≠ 0 ∧ (mbx t e.mbx).sessionId = t.aon.sessionCounter ∧
      Posts t e 0x0000 (leBytes 1 (epochOf t e.mbx) ++ leBytes 4 t.aon.sessionCounter)) ∧
  (∀ (clk : Nat) (e0 e : Entry) (via : Transport) (s : State), Admitted (begin clk s) 0x0002 e0 via e →
    (mbx (begin clk s) e.mbx).state ≠ .closed → (entryArgs e).length = 0 →
    ∃ t, exec (.openSession clk e0) s = .next t ∧ (mbx t e.mbx).state = (mbx s e.mbx).state ∧
      (mbx t e.mbx).sessionId = (mbx s e.mbx).sessionId ∧ t.aon.epochs = s.aon.epochs ∧ t.aon.sessionCounter = s.aon.sessionCounter ∧
      Posts t e 0x0206 [])

/-- NOP, GET_STATUS and an opcode that Table 3-12 does not define complete at once: OK, OK with the status of the module, and BAD_OPCODE
(R81). -/
def Obligations.PlainCommands : Prop :=
  (∀ (clk : Nat) (e0 e : Entry) (via : Transport) (s : State), Admitted (begin clk s) 0x0001 e0 via e →
    (mbx (begin clk s) e.mbx).state ≠ .closed → (entryArgs e).length = 0 →
    ∃ t, exec (.nop clk e0) s = .next t ∧ Posts t e 0x0000 []) ∧
  (∀ (clk : Nat) (e0 e : Entry) (via : Transport) (s : State), Admitted (begin clk s) 0x0010 e0 via e → Open (begin clk s) e →
    (entryArgs e).length = 0 →
    ∃ t, exec (.getStatus clk e0) s = .next t ∧
      Posts t e 0x0000 (leBytes 1 (modeCode s.mode.mode) ++ leBytes 1 (modeCode (modeTarget s)) ++ leBytes 2 0 ++
        leBytes 4 s.mode.cause.toNat ++ leBytes 4 (tickCount (begin clk s)) ++ leBytes 8 (now (begin clk s)))) ∧
  (∀ (clk : Nat) (e0 e : Entry) (via : Transport) (s : State), Admitted (begin clk s) e0.opcode e0 via e → Open (begin clk s) e →
    e0.opcode ∉ knownOpcodes →
    ∃ t, exec (.unknownOpcode clk e0) s = .next t ∧ Posts t e 0x0100 [])

/-- NEW_EPOCH: with another command of the session in flight BUSY; otherwise the epoch goes up by 1 modulo 16 and the acceptance window is
cleared, while the session keeps its state and its key (R70). CLOSE_SESSION puts an open session into CLOSING and is the command that
completes last there (R65, R66); it discards the staging area and the attestation report of the session, and stops no motion and releases no lease. -/
def Obligations.EpochsAndClosing : Prop :=
  (∀ (clk : Nat) (e0 e : Entry) (via : Transport) (s : State), Admitted (begin clk s) 0x0004 e0 via e →
    (mbx (begin clk s) e.mbx).state ≠ .closed → (entryArgs e).length = 0 → e.mbx < s.aon.epochs.length →
    ((∀ o ∈ (mbx s e.mbx).inFlight, o = originOf e) →
      ∃ t, exec (.newEpoch clk e0) s = .next t ∧ epochOf t e.mbx = (epochOf s e.mbx + 1) % 16 ∧ (mbx t e.mbx).windowHigh = none ∧
        (mbx t e.mbx).seen = [] ∧ (mbx t e.mbx).state = (mbx s e.mbx).state ∧ (mbx t e.mbx).sk = (mbx s e.mbx).sk ∧
        (mbx t e.mbx).sessionId = (mbx s e.mbx).sessionId ∧ Posts t e 0x0000 (leBytes 1 (epochOf t e.mbx))) ∧
    ((∃ o ∈ (mbx s e.mbx).inFlight, o ≠ originOf e) →
      ∃ t, exec (.newEpoch clk e0) s = .next t ∧ t.aon.epochs = s.aon.epochs ∧ Posts t e 0x0206 [])) ∧
  (∀ (clk : Nat) (e0 e : Entry) (via : Transport) (s : State), Admitted (begin clk s) 0x0003 e0 via e →
    (mbx (begin clk s) e.mbx).state ≠ .closed → (entryArgs e).length = 0 →
    ∃ t, exec (.closeSession clk e0) s = .next t ∧ (mbx t e.mbx).state = .closing ∧ (mbx t e.mbx).closing = some (originOf e) ∧
      (∀ g, t.image.staging = some g → g.mbx ≠ e.mbx) ∧ (∀ r ∈ t.sec.reports, r.1 ≠ e.mbx) ∧
      t.prof = s.prof ∧ t.piste.leases = s.piste.leases)

/-- CHALLENGE with a key slot that may be used, outside PRIVILEGED and outside a lockout: a new nonce of 32 bytes is outstanding for that
slot, the session is CHALLENGED, and the completion carries the nonce (R65, R68). -/
def Obligations.ChallengeIssues : Prop :=
  ∀ (clk : Nat) (e0 e : Entry) (via : Transport) (s : State), Admitted (begin clk s) 0x0005 e0 via e →
    (mbx (begin clk s) e.mbx).state ≠ .closed → (entryArgs e).length = 1 → (mbx s e.mbx).state ≠ .privileged →
    (challengeKey s (le (entryArgs e) 0 1)).isSome = true → (∀ f, (mbx s e.mbx).lockoutEnd = some f → f ≤ now (begin clk s)) →
    ∃ t n, exec (.challenge clk e0) s = .next t ∧ n.length = 32 ∧ (mbx t e.mbx).state = .challenged ∧
      (mbx t e.mbx).challenge = some { nonce := n, time := now (begin clk s), slot := le (entryArgs e) 0 1 } ∧ Posts t e 0x0000 n

/-- UNLOCK within 5 s of the challenge, with the MAC of R67: the session is PRIVILEGED and its key is that of R67. With slot 0, that of a
module without keys, SW1.1 must be ON in both channels (R423). UNLOCK with a wrong MAC: AUTH_FAILED, the session is OPEN and the nonce
spent; the third wrong one in a row starts a lockout of 10 s and a new run (R68). -/
def Obligations.UnlockJudged : Prop :=
  (∀ (clk : Nat) (e0 e : Entry) (via : Transport) (s : State) (c : Challenge) (key : Bytes), Admitted (begin clk s) 0x0006 e0 via e →
    (entryArgs e).length = 64 → (mbx s e.mbx).state = .challenged → (mbx s e.mbx).challenge = some c →
    now (begin clk s) < c.time + 5000000000 →
    key = (if c.slot = 0 then zeros 32 else ((nth none s.sec.hmac (c.slot - 1)).map (·.key)).getD []) →
    slice (entryArgs e) 32 32 =
      hmac256 key ([0] ++ c.nonce ++ slice (entryArgs e) 0 32 ++ leBytes 1 e.mbx ++ leBytes 1 (epochOf s e.mbx) ++
        leBytes 4 (mbx s e.mbx).sessionId) →
    (c.slot = 0 → seal11 s = true) →
    ∃ t, exec (.unlock clk e0) s = .next t ∧ (mbx t e.mbx).state = .privileged ∧ (mbx t e.mbx).challenge = none ∧
      (mbx t e.mbx).wrongUnlocks = 0 ∧
      (mbx t e.mbx).sk = hmac256 key ([1] ++ c.nonce ++ slice (entryArgs e) 0 32 ++ leBytes 1 e.mbx ++ leBytes 1 (epochOf s e.mbx) ++
        leBytes 4 (mbx s e.mbx).sessionId) ∧ Posts t e 0x0000 []) ∧
  (∀ (clk : Nat) (e0 e : Entry) (via : Transport) (s : State) (c : Challenge) (key : Bytes), Admitted (begin clk s) 0x0006 e0 via e →
    (entryArgs e).length = 64 → (mbx s e.mbx).state = .challenged → (mbx s e.mbx).challenge = some c →
    now (begin clk s) < c.time + 5000000000 →
    key = (if c.slot = 0 then zeros 32 else ((nth none s.sec.hmac (c.slot - 1)).map (·.key)).getD []) →
    slice (entryArgs e) 32 32 ≠
      hmac256 key ([0] ++ c.nonce ++ slice (entryArgs e) 0 32 ++ leBytes 1 e.mbx ++ leBytes 1 (epochOf s e.mbx) ++
        leBytes 4 (mbx s e.mbx).sessionId) →
    ∃ t, exec (.unlock clk e0) s = .next t ∧ (mbx t e.mbx).state = .opened ∧ (mbx t e.mbx).challenge = none ∧ Posts t e 0x0207 [] ∧
      ((mbx s e.mbx).wrongUnlocks < 2 →
        (mbx t e.mbx).wrongUnlocks = (mbx s e.mbx).wrongUnlocks + 1 ∧ (mbx t e.mbx).lockoutEnd = (mbx s e.mbx).lockoutEnd) ∧
      (2 ≤ (mbx s e.mbx).wrongUnlocks →
        (mbx t e.mbx).wrongUnlocks = 0 ∧ (mbx t e.mbx).lockoutEnd = some (now (begin clk s) + 10000000000)))

/-- CANCEL (R72): its own TXID BAD_ARGUMENT, a TXID that is not in flight NOT_FOUND; a command accepted over UDP that has not started, and a
waiting command that Table 3-12 marks cancellable, is withdrawn and completes with CANCELLED before CANCEL completes with OK; one that cannot
be withdrawn leaves CANCEL_TOO_LATE. -/
def Obligations.CancelAnswers : Prop :=
  ∀ (clk : Nat) (e0 e : Entry) (via : Transport) (s : State), Admitted (begin clk s) 0x0007 e0 via e → Open (begin clk s) e →
    (entryArgs e).length = 2 →
    let u := entered clk s via e
    let target : BitVec 16 := BitVec.ofNat 16 (le (entryArgs e) 0 2)
    (target = e.txid → ∃ t, exec (.cancel clk e0) s = .next t ∧ t.plan = s.plan ∧ t.piste = s.piste ∧ t.image = s.image ∧ Posts t e 0x0102 []) ∧
    (target ≠ e.txid → (mbx u e.mbx).inFlight.find? (fun f => f.txid = target) = none →
      ∃ t, exec (.cancel clk e0) s = .next t ∧ t.plan = s.plan ∧ t.piste = s.piste ∧ t.image = s.image ∧ Posts t e 0x0302 []) ∧
    (∀ o, target ≠ e.txid → (mbx u e.mbx).inFlight.find? (fun f => f.txid = target) = some o →
      (∀ a ∈ (mbx u e.mbx).accepted, a.2.txid ≠ target) → withdraw u o = none →
      ∃ t, exec (.cancel clk e0) s = .next t ∧ t.plan = s.plan ∧ t.piste = s.piste ∧ t.image = s.image ∧ Posts t e 0x0301 []) ∧
    (∀ o, target ≠ e.txid → (mbx u e.mbx).inFlight.find? (fun f => f.txid = target) = some o →
      (∃ a ∈ (mbx u e.mbx).accepted, a.2.txid = target) →
      ∃ (t : State) (l r : List Output) (m : Completion), exec (.cancel clk e0) s = .next t ∧ t.plan = s.plan ∧ t.piste = s.piste ∧
        t.image = s.image ∧ (∀ a ∈ (mbx t e.mbx).accepted, a.2.txid ≠ target) ∧
        t.out = l ++ .completion m :: r ∧ m.mailbox = o.mbx ∧ m.txid = o.txid ∧ m.status = 0x0300 ∧
        ∃ c, .completion c ∈ r ∧ c.mailbox = e.mbx ∧ c.txid = e.txid ∧ c.status = 0x0000) ∧
    (∀ o v, target ≠ e.txid → (mbx u e.mbx).inFlight.find? (fun f => f.txid = target) = some o →
      (∀ a ∈ (mbx u e.mbx).accepted, a.2.txid ≠ target) → withdraw u o = some v →
      ∃ (t : State) (l r : List Output) (m : Completion), exec (.cancel clk e0) s = .next t ∧ t.plan = v.plan ∧ t.piste = v.piste ∧ t.image = v.image ∧
        t.out = l ++ .completion m :: r ∧ m.mailbox = o.mbx ∧ m.txid = o.txid ∧ m.status = 0x0300 ∧
        ∃ c, .completion c ∈ r ∧ c.mailbox = e.mbx ∧ c.txid = e.txid ∧ c.status = 0x0000)

/-- R61 and R76: through the link, CMD_TAIL_WRITE is taken unless it would leave more than 64 entries, and CPL_HEAD_WRITE unless it would pass
CPL_TAIL; a write that is not taken changes no pointer and sets DB_ERR. No other mailbox changes. VECTOR_SPACING_END once 1 µs has passed
(R64): with a message held back, not masked, and for a mailbox's vector with a completion not yet consumed, the message is sent and the
spacing runs again; with none held back nothing is sent and the spacing has ended. Sooner, nothing happens. -/
def Obligations.DoorbellsAndVectors : Prop :=
  (∀ (clk m value : Nat) (s : State), s.zewen.linkUp = true → m < s.zewen.mbx.length → value < 65536 →
    let b := mbx s m
    (∃ t, exec (.cmdTailWrite clk m value) s = .next t ∧ (∀ k, k ≠ m → mbx t k = mbx s k) ∧
      mbx t m = if (value + 65536 - b.cmdHead) % 65536 ≤ 64 then { b with cmdTail := value } else { b with dbErr := true }) ∧
    (∃ t, exec (.cplHeadWrite clk m value) s = .next t ∧ (∀ k, k ≠ m → mbx t k = mbx s k) ∧
      mbx t m = if (value + 65536 - b.cplHead) % 65536 ≤ (b.cplTail + 65536 - b.cplHead) % 65536 then { b with cplHead := value }
        else { b with dbErr := true })) ∧
  (∀ (clk v : Nat) (s : State), v < 32 →
    let s1 := begin clk s
    (s.zewen.msix.spacing.getLsbD v = true → s1.clock < nth 0 s.zewen.msix.sent v + 250 → exec (.vectorSpacingEnd clk v) s = .next s1) ∧
    (nth 0 s.zewen.msix.sent v + 250 ≤ s1.clock → s.zewen.msix.deferred.getLsbD v = true → s.zewen.linkUp = true →
      vectorMasked s v = false → (v < 8 → (mbx s v).cplTail ≠ (mbx s v).cplHead) → v < s.zewen.msix.sent.length →
      ∃ t, exec (.vectorSpacingEnd clk v) s = .next t ∧ t.out = [.vector v] ∧ t.zewen.msix.deferred.getLsbD v = false ∧
        t.zewen.msix.spacing.getLsbD v = true ∧ nth 0 t.zewen.msix.sent v = s1.clock ∧ t.zewen.mbx = s.zewen.mbx) ∧
    (nth 0 s.zewen.msix.sent v + 250 ≤ s1.clock → s.zewen.msix.deferred.getLsbD v = false →
      ∃ t, exec (.vectorSpacingEnd clk v) s = .next t ∧ t.out = [] ∧ t.zewen.msix.spacing.getLsbD v = false ∧ t.zewen.mbx = s.zewen.mbx))

/-- The clocks of a session run out (R65, R68, R69): a nonce 5 s after its challenge, a lockout 10 s after the third wrong UNLOCK, and a UDP
session without a valid datagram for `security.udp_idle_ms`, which enters CLOSING. The last command of a CLOSING session has completed: the
CLOSE_SESSION that closed it completes last, and the mailbox is CLOSED without key or nonce (R65, R66). -/
def Obligations.SessionsEnd : Prop :=
  ((∀ (clk m : Nat) (s : State) (c : Challenge), m < s.zewen.mbx.length → (mbx s m).challenge = some c → (mbx s m).state = .challenged →
    c.time + 5000000000 ≤ now (begin clk s) →
    ∃ t, exec (.nonceExpiry clk m) s = .next t ∧ mbx t m = { mbx s m with challenge := none, state := .opened } ∧ ∀ k, k ≠ m → mbx t k = mbx s k) ∧
  (∀ (clk m f : Nat) (s : State), m < s.zewen.mbx.length → (mbx s m).lockoutEnd = some f → f ≤ now (begin clk s) →
    ∃ t, exec (.lockoutEnd clk m) s = .next t ∧ mbx t m = { mbx s m with lockoutEnd := none } ∧ ∀ k, k ≠ m → mbx t k = mbx s k) ∧
  (∀ (clk m : Nat) (s : State), m < s.zewen.mbx.length → viaUdp (mbx s m) = true →
    (mbx s m).state = .opened ∨ (mbx s m).state = .challenged ∨ (mbx s m).state = .privileged →
    (mbx s m).lastDatagram + ov s 0xD0 (0x80 + m) 5 * 1000000 ≤ now (begin clk s) →
    ∃ t, exec (.udpIdleTimeout clk m) s = .next t ∧ (mbx t m).state = .closing ∧ (mbx t m).closing = none ∧ t.prof = s.prof)) ∧
  ((∀ (clk m : Nat) (s : State), m < s.zewen.mbx.length → (mbx s m).state = .closing → (mbx s m).closing = none → (mbx s m).inFlight = [] →
    ∃ t, exec (.sessionDrained clk m) s = .next t ∧ (mbx t m).state = .closed ∧ (mbx t m).sk = [] ∧ (mbx t m).challenge = none ∧ t.out = []) ∧
  (∀ (clk m : Nat) (s : State) (o : Origin), m < s.zewen.mbx.length → (mbx s m).state = .closing → (mbx s m).closing = some o → o.mbx = m →
    (mbx s m).inFlight = [o] → s.mode.resetFinal = false →
    ∃ t c, exec (.sessionDrained clk m) s = .next t ∧ (mbx t m).state = .closed ∧ (mbx t m).sk = [] ∧ (mbx t m).challenge = none ∧
      (mbx t m).inFlight = [] ∧ Output.completion c ∈ t.out ∧ c.mailbox = m ∧ c.txid = o.txid ∧ c.status = 0x0000))

/-- The PCIe link (R65, R434, R455): PERST_N low and a link down take the link down, a function-level reset leaves it as it is and clears
the MSI-X structures, PERST_N released brings it up again where the module serves it; a session bound to PCIe enters CLOSING with
either. -/
def Obligations.PcieLink : Prop :=
  (∀ (clk : Nat) (s : State), ∃ t, exec (.perstN clk true) s = .next t ∧ t.zewen.linkUp = false ∧ t.hw.perstLow = true) ∧
  (∀ (clk : Nat) (s : State), s.hw.hostReady = true → domainOn s 12 = true → isolated s 3 3 = false →
    ∃ t, exec (.perstN clk false) s = .next t ∧ t.zewen.linkUp = true ∧ t.hw.perstLow = false ∧ t.zewen.mbx = s.zewen.mbx) ∧
  (∀ (clk : Nat) (s : State), ∃ t, exec (.pcieLinkDown clk false) s = .next t ∧ t.zewen.linkUp = false) ∧
  (∀ (clk : Nat) (s : State), ∃ t, exec (.pcieLinkDown clk true) s = .next t ∧ t.zewen.linkUp = s.zewen.linkUp ∧ t.zewen.msix = {}) ∧
  (∀ (clk m : Nat) (flr : Bool) (s : State), s.zewen.mbx.length = 8 → m < 8 → (mbx s m).via = .pcie →
    (mbx s m).state = .opened ∨ (mbx s m).state = .challenged ∨ (mbx s m).state = .privileged →
    ∃ t, exec (.pcieLinkDown clk flr) s = .next t ∧ (mbx t m).state = .closing)

/-- R73: a datagram of an open session, well formed, from the endpoint the session is bound to, with its SESSION_ID, its epoch and, in a
privileged session, its tag. With the window empty, with a sequence number above the window's highest, and with one less than 64 below it
that has not been accepted yet, it is accepted; one accepted before is discarded, and its completion, while it is kept, is sent again; one 64 or
more below is discarded. The discards are counted as duplicate and as old. -/
def Obligations.DatagramWindow : Prop :=
  ∀ (clk port addr udpPort : Nat) (data : Bytes) (s : State),
    let s1 := begin clk s
    let e := datagramEntry data
    let b := mbx s e.mbx
    let q := txSeq e.txid
    serving s1 (if s.start.rescue then e.mbx else 0) true = true → (s.start.rescue = true → port = 0) → data.length ≤ 1472 →
    le data 0 2 = 0x5A57 → le data 2 1 = 1 → datagramOk data = true → e.mbx < s.zewen.mbx.length →
    b.state = .opened ∨ b.state = .challenged ∨ (b.state = .privileged ∧ slice data 16 16 = datagramTag b.sk data) →
    b.via = .udp port addr udpPort → le data 8 4 = b.sessionId → txEpoch e.txid = epochOf s e.mbx →
    (b.windowHigh = none ∨ (∃ h, b.windowHigh = some h ∧ (h < q ∨ (h - q < 64 ∧ b.seen.contains q = false))) →
      ∃ t, exec (.udpDatagramRx clk port addr udpPort false data) s = .next t ∧
        (mbx t e.mbx).windowHigh = some (max q (b.windowHigh.getD q)) ∧ q ∈ (mbx t e.mbx).seen ∧
        (mbx t e.mbx).accepted = b.accepted ++ [(.udp port addr udpPort, e)] ∧ (mbx t e.mbx).inFlight = b.inFlight ++ [originOf e]) ∧
    (∀ h, b.windowHigh = some h → q ≤ h → h - q < 64 → b.seen.contains q = true →
      ∃ t, exec (.udpDatagramRx clk port addr udpPort false data) s = .next t ∧ (mbx t e.mbx).accepted = b.accepted ∧
        (mbx t e.mbx).inFlight = b.inFlight ∧ (mbx t e.mbx).windowHigh = some h ∧ (mbx t e.mbx).seen = b.seen ∧
        (mbx t e.mbx).discards = satNat 16 (b.discards + 1) ∧
        (∀ c, b.kept.find? (fun c => c.txid = e.txid) = some c → .resend c ∈ t.out) ∧
        t.objs = oput s.objs (okey 0xD0 (0x80 + e.mbx) 1) (countUp 1 (ov s 0xD0 (0x80 + e.mbx) 1) s.freeCount)) ∧
    (∀ h, b.windowHigh = some h → 64 ≤ h - q →
      ∃ t, exec (.udpDatagramRx clk port addr udpPort false data) s = .next t ∧ (mbx t e.mbx).accepted = b.accepted ∧
        (mbx t e.mbx).inFlight = b.inFlight ∧ (mbx t e.mbx).windowHigh = some h ∧ (mbx t e.mbx).seen = b.seen ∧
        (mbx t e.mbx).discards = satNat 16 (b.discards + 1) ∧ t.out = [] ∧
        t.objs = oput s.objs (okey 0xD0 (0x80 + e.mbx) 2) (countUp 1 (ov s 0xD0 (0x80 + e.mbx) 2) s.freeCount))

/-- An entry of an open session with another epoch than the session's is discarded: it is counted in DISCARDS and in
`security.stale_epoch_discards`, nothing is posted, and it is not executed (R70); here for SET_MODE. -/
def Obligations.StaleEpochDiscarded : Prop :=
  ∀ (clk : Nat) (e0 e : Entry) (via : Transport) (s : State), takenEntry 0x0012 (begin clk s) e0 = some (via, e) →
    turnOf (begin clk s) e.mbx = true → e.mbx < s.zewen.mbx.length → (mbx s e.mbx).state ≠ .closed → (mbx s e.mbx).state ≠ .closing →
    (mbx s e.mbx).via = via → txEpoch e.txid ≠ epochOf s e.mbx →
    ∃ t, exec (.setMode clk e0) s = .next t ∧ (mbx t e.mbx).discards = satNat 16 ((mbx s e.mbx).discards + 1) ∧ t.mode = s.mode ∧ t.out = [] ∧
      t.objs = oput s.objs (okey 0xD0 (0x80 + e.mbx) 3) (countUp 1 (ov s 0xD0 (0x80 + e.mbx) 3) s.freeCount)

/-! ### Registers -/

/-- A read of HT_NOW_LO or of ACQ_TRIG_TIME_LO gives the low word of the time and latches the rest for the BAR it came through; the other
BAR's latch stays (R87, R449). A read of an RC register gives its count and clears it, and changes no other register: ERR_COUNT (R452),
GATED_ACCESS (R393) and TXTS_OVF (R101). What was counted in the same clock is not shown, and is kept (R14, R450). -/
def Obligations.ReadsLatchAndClear : Prop :=
  (∀ (clk : Nat) (p : Bool) (s : State), s.reg.htHi.length = 2 → s.reg.htFrac.length = 2 → s.reg.acqHi.length = 2 →
    let s1 := begin clk s
    (Reached s1 0x0800 →
      ∃ t, exec (.htNowLoRead clk p) s = .next t ∧ t.out = [.value (now s1 % 2 ^ 32)] ∧ t.herd = s1.herd ∧
        nth 0 t.reg.htHi (barIndex p) = now s1 / 2 ^ 32 % 2 ^ 32 ∧
        nth 0 t.reg.htFrac (barIndex p) = (if s1.herd.running then s1.herd.frac else 0) ∧
        nth 0 t.reg.htHi (barIndex !p) = nth 0 s.reg.htHi (barIndex !p) ∧ nth 0 t.reg.htFrac (barIndex !p) = nth 0 s.reg.htFrac (barIndex !p) ∧
        t.reg.acqHi = s.reg.acqHi) ∧
    (Reached s1 0x0908 →
      ∃ t, exec (.acqTrigTimeLoRead clk p) s = .next t ∧ t.out = [.value (s.acq.capture.trigTime % 2 ^ 32)] ∧ t.acq = s.acq ∧
        nth 0 t.reg.acqHi (barIndex p) = s.acq.capture.trigTime / 2 ^ 32 % 2 ^ 32 ∧
        nth 0 t.reg.acqHi (barIndex !p) = nth 0 s.reg.acqHi (barIndex !p) ∧ t.reg.htHi = s.reg.htHi ∧ t.reg.htFrac = s.reg.htFrac)) ∧
  (∀ (clk : Nat) (p : Bool) (s : State),
    let s1 := begin clk s
    (Reached s1 0x0018 → exec (.errCountRead clk p) s =
      .next { s1 with reg := { s1.reg with errCount := min s.reg.errCount s1.fresh.errCount }, out := [.value (s.reg.errCount - s1.fresh.errCount)] }) ∧
    (Reached s1 0x0A0C → exec (.gatedAccessRead clk p) s =
      .next { s1 with reg := { s1.reg with gatedAccess := min s.reg.gatedAccess s1.fresh.gated }, out := [.value (s.reg.gatedAccess - s1.fresh.gated)] }) ∧
    (Reached s1 0x0834 → exec (.txtsOvfRead clk p) s =
      .next { s1 with herd := { s1.herd with txtsOvf := min s1.herd.txtsOvf s1.fresh.txts }, out := [.value (s1.herd.txtsOvf - s1.fresh.txts)] }))

/-- Writes through the privileged view: a 1 takes the head of the timestamp queue (TXTS_POP, R101), empties ERR_FIRST (CLEAR_FIRST, R452) and
VIEW_DENIED (VIEW_CLEAR, R76), and clears its bits of INT_STATUS and of SOLVER_DONE (R453); a 0 leaves them, and no other register changes.
What an event of the same clock has written or set stays (R450, R452). -/
def Obligations.OnesClear : Prop :=
  ∀ (clk v : Nat) (s : State), s.zewen.linkUp = true → privView s true = true →
    let s1 := begin clk s
    let s2 := takeStamps s1
    (Reached s1 0x0830 →
      exec (.txtsPop clk true v) s = .next { s2 with herd := { s2.herd with txts := if v % 2 = 1 then s2.herd.txts.drop 1 else s2.herd.txts } }) ∧
    (∃ f, exec (.clearFirst clk true v) s =
      .next { s1 with reg := { s1.reg with errFirst := if v % 2 = 1 then s1.fresh.errMin.getD 0 else s1.reg.errFirst }, fresh := f }) ∧
    exec (.viewClear clk true v) s =
      .next { s1 with zewen := { s1.zewen with viewDenied := if v % 2 = 1 then 0 else s1.zewen.viewDenied } } ∧
    (∃ t, exec (.intStatusClear clk true v) s = .next t ∧
      t.reg = { s.reg with intStatus := s.reg.intStatus &&& ~~~(BitVec.ofNat 10 v &&& ~~~s1.fresh.ints) } ∧
      (s1.fresh.intsAgain = 0 → t = { s1 with reg := t.reg, fresh := t.fresh })) ∧
    exec (.solverDoneClear clk true v) s =
      .next { s1 with reg := { s1.reg with solverDone := s1.reg.solverDone &&& ~~~(BitVec.ofNat 8 v &&& ~~~s1.fresh.done) } }

/-- INT_MASK written through the privileged view takes the value with bit 0, DEVICE, held at 0, and a bit that it unmasks while it is
pending has its vector sent, where that is neither masked nor within its 1 µs spacing; with nothing unmasked that is pending nothing is sent
(R454). -/
def Obligations.MaskWrites : Prop :=
  ∀ (clk v : Nat) (s : State), s.zewen.linkUp = true → privView s true = true →
    (∃ t, exec (.intMaskWrite clk true v) s = .next t ∧ t.reg = { s.reg with intMask := BitVec.ofNat 10 v &&& 0x3FE }) ∧
    (∀ n, n < 10 → s.reg.intMask.getLsbD n = true → (BitVec.ofNat 10 v &&& 0x3FE).getLsbD n = false → s.reg.intStatus.getLsbD n = true →
      spacingRuns (begin clk s) (8 + n) = false → vectorMasked s (8 + n) = false →
      ∃ t, exec (.intMaskWrite clk true v) s = .next t ∧ .vector (8 + n) ∈ t.out) ∧
    ((∀ n, n < 10 → s.reg.intMask.getLsbD n = true → (BitVec.ofNat 10 v &&& 0x3FE).getLsbD n = false → s.reg.intStatus.getLsbD n = false) →
      ∃ t, exec (.intMaskWrite clk true v) s = .next t ∧ t.out = [] ∧ t.zewen = s.zewen)

/-- R446: a write that does not carry all four byte enables of its doubleword is dropped without effect. A whole one to CLK_EVENT through
the privileged view clears the bits written as 1 that no event of the same clock has set (R450), one to HT_STATUS clears STEPPED by a 1 in
bit 15, likewise, and one to CMD_TAIL or CPL_HEAD of a mailbox acts as the doorbell does in either view. -/
def Obligations.RegisterWrites : Prop :=
  ∀ (clk off en v : Nat) (p : Bool) (s : State),
    let s1 := begin clk s
    (en % 16 ≠ 15 → exec (.registerWrite clk p off en v) s = .next s1) ∧
    (en % 16 = 15 → v < 2 ^ 32 → s.zewen.linkUp = true →
      (privView s true = true → Reached s1 0x0A04 → ∃ t, exec (.registerWrite clk true 0x0A04 en v) s = .next t ∧
        t.clocks = { s.clocks with event := s.clocks.event &&& ~~~(BitVec.ofNat 8 v &&& ~~~s1.fresh.clkEvent) }) ∧
      (privView s true = true → Reached s1 0x080C → v / 2 ^ 15 % 2 = 1 →
        exec (.registerWrite clk true 0x080C en v) s = .next { s1 with herd := { s1.herd with stepped := s1.fresh.stepped } }) ∧
      (∀ m, m < 8 → Reached s1 (0x0100 + 16 * m) →
        exec (.registerWrite clk p (0x0100 + 16 * m) en v) s = exec (.cmdTailWrite clk m v) s ∧
        exec (.registerWrite clk p (0x0104 + 16 * m) en v) s = exec (.cplHeadWrite clk m v) s))

/-- The views (R56, R76): a privileged-only register written through BAR0, or through BAR2 while no mailbox bound to PCIe is PRIVILEGED, is
not written, and the write is counted in VIEW_DENIED. An access to a register whose block is gated, isolated or without power (R393): an
unprivileged read gives zero and an unprivileged write is ignored, both counted in GATED_ACCESS; a privileged read ends in a Completer Abort
without a value, and a privileged write is dropped with GATED_WRITE set in CLK_EVENT. Shown for HT_NOW_LO, CMD_TAIL and HT_STATUS. -/
def Obligations.ViewsAndGatesProtect : Prop :=
  (∀ (clk v : Nat) (bar2 : Bool) (s : State), s.zewen.linkUp = true → privView s bar2 = false →
    let s1 := begin clk s
    let s2 := takeStamps s1
    (∀ c ∈ [Instr.clearFirst clk bar2 v, .viewClear clk bar2 v, .intStatusClear clk bar2 v, .intMaskWrite clk bar2 v, .solverDoneClear clk bar2 v],
      exec c s = .next { s1 with zewen := { s1.zewen with viewDenied := satNat 32 (s1.zewen.viewDenied + 1) } }) ∧
    exec (.txtsPop clk bar2 v) s = .next { s2 with zewen := { s2.zewen with viewDenied := satNat 32 (s2.zewen.viewDenied + 1) } }) ∧
  (∀ (clk v m : Nat) (bar2 : Bool) (s : State), s.zewen.linkUp = true → privView s bar2 = false →
    (serverDown s (some (3, 5, 9)) = true →
      ∃ t, exec (.htNowLoRead clk bar2) s = .next t ∧ t.out = [.value 0] ∧
        t.reg = { s.reg with gatedAccess := satNat 32 (s.reg.gatedAccess + 1) }) ∧
    (m < 8 → serverDown s (some (3, 3, 12)) = true →
      ∃ t, exec (.registerWrite clk bar2 (0x0100 + 16 * m) 15 v) s = .next t ∧ t.zewen = s.zewen ∧ t.out = [] ∧
        t.reg = { s.reg with gatedAccess := satNat 32 (s.reg.gatedAccess + 1) })) ∧
  (∀ (clk v : Nat) (s : State), s.zewen.linkUp = true → privView s true = true → serverDown s (some (3, 5, 9)) = true →
    (∃ t, exec (.htNowLoRead clk true) s = .next t ∧ t.out = [.completerAbort] ∧ t.reg = s.reg) ∧
    (∃ t, exec (.registerWrite clk true 0x080C 15 v) s = .next t ∧ t.herd.stepped = s.herd.stepped ∧ t.clocks.event.getLsbD 7 = true))

/-! ### Objects, images and modes -/

/-- OBJ_READ of 1 to 54 objects that exist, the result fitting where it goes and, in a privileged session, no object of a block that is down
(R80): it completes at once with one record per key in the order named, each as `readOne` reads it, with OK, or with VIEW_LIMITED where the
view hides one. One key that is read in full gives its record with its value. One RC counter of the object memory gives its count and is
0 afterwards, but for what was counted in the same clock (R13, R14; the trace of completions being off). Turned away, nothing is read (R80,
R82): BAD_ARGUMENT with no key or more than 54, NO_OBJECT with the index of the first key that is undefined, BAD_LENGTH where the result
does not fit, and in a privileged session PRECONDITION with the first key whose block is down (R393). -/
def Obligations.ObjectsRead : Prop :=
  ∀ (clk : Nat) (e0 e : Entry) (via : Transport) (s : State), Admitted (begin clk s) 0x0020 e0 via e → Open (begin clk s) e →
    objReadLen e = true →
    let u := entered clk s via e
    let ks := readKeys (entryArgs e)
    let priv := sessionPriv u e.mbx
    let r := ks.foldl (readOne priv) (u, [], false)
    let size := sumNat (ks.map (fun k => match objRow k with | some row => readSize u priv row k | none => 0))
    (ks ≠ [] → ks.length ≤ 54 → (∀ k ∈ ks, (objRow k).isSome = true) → (priv = true → ∀ k ∈ ks, objectDown u k = false) →
      resultFits e size = true →
      ∃ t, exec (.objRead clk e0) s = .next t ∧ Posts t e (if r.2.2 then 0x0001 else 0x0000) r.2.1) ∧
    (∀ k row, ks = [k] → objRow k = some row → readCase u priv row k = .full → resultFits e size = true →
      ∃ t, exec (.objRead clk e0) s = .next t ∧ Posts t e 0x0000 (recordForm k row.ty (readValue u row k))) ∧
    (∀ k row, ks = [k] → objRow k = some row → row.acc = .rc → derived u k = none → readCase u priv row k = .full →
      k ≠ 0x70000C → k ≠ 0x100106 → (k / 65536 ≠ 0x10 ∨ k / 256 < 0x1010 ∨ k % 256 ≠ 1) → resultFits e size = true →
      let objs := oput s.objs k (min (freshCount u k) (oval s.objs k))
      bit (oval objs (okey 0xA0 1 2)) 0 = false →
      ∃ t, exec (.objRead clk e0) s = .next t ∧ t.objs = objs ∧
        Posts t e 0x0000 (recordForm k row.ty (leBytes row.len0 (oval s.objs k - freshCount u k)))) ∧
    (ks = [] ∨ 54 < ks.length →
      ∃ t, exec (.objRead clk e0) s = .next t ∧ t.net = s.net ∧ t.sched = s.sched ∧ (bit (ov s 0xA0 1 2) 0 = false → t.objs = s.objs) ∧
        Posts t e 0x0102 []) ∧
    (∀ k, ks ≠ [] → ks.length ≤ 54 → (indexed ks).find? (fun k => (objRow k.2).isNone) = some k →
      ∃ t, exec (.objRead clk e0) s = .next t ∧ t.net = s.net ∧ t.sched = s.sched ∧ (bit (ov s 0xA0 1 2) 0 = false → t.objs = s.objs) ∧
        Posts t e 0x0103 (leBytes 4 k.1)) ∧
    (ks ≠ [] → ks.length ≤ 54 → (∀ k ∈ ks, (objRow k).isSome = true) → resultFits e size = false →
      ∃ t, exec (.objRead clk e0) s = .next t ∧ t.net = s.net ∧ t.sched = s.sched ∧ (bit (ov s 0xA0 1 2) 0 = false → t.objs = s.objs) ∧
        Posts t e 0x0101 []) ∧
    (∀ k, ks ≠ [] → ks.length ≤ 54 → (∀ k ∈ ks, (objRow k).isSome = true) → resultFits e size = true → priv = true →
      ks.find? (fun k => objectDown u k) = some k →
      ∃ t, exec (.objRead clk e0) s = .next t ∧ t.net = s.net ∧ t.sched = s.sched ∧ (bit (ov s 0xA0 1 2) 0 = false → t.objs = s.objs) ∧
        Posts t e 0x0202 (leBytes 4 k))

/-- OBJ_WRITE (R78, R79): with every record passing its checks the records wait together for the next tick start, those the view hides left
out, and no object has changed yet; with a record that fails nothing is queued, and the completion has the status of the first record that
fails and names it by index and key, or by its key alone where its block is down (R393). Arguments that are no records: BAD_LENGTH. -/
def Obligations.ObjectWritesWait : Prop :=
  (∀ (clk : Nat) (e0 e : Entry) (via : Transport) (s : State) (p : Nat × WriteRecord) (ps : List (Nat × WriteRecord)),
    Admitted (begin clk s) 0x0021 e0 via e → Open (begin clk s) e → parseRecords (entryArgs e) = some (p :: ps) →
    let u := entered clk s via e
    let priv := sessionPriv u e.mbx
    let rs := (p :: ps).map (·.2)
    let applied := rs.filter (fun r => judgeForm u priv true r != some stViewLimited)
    let final := stageObjs (u.writes.foldl (fun f q => stageObjs f q.records) u.objs) applied
    (firstFailing u priv final 0 [] rs = none →
      ∃ t, exec (.objWrite clk e0) s = .next t ∧ t.objs = s.objs ∧ t.out = [] ∧
        t.writes = s.writes ++ [{ origin := originOf e, records := applied, limited := decide (applied.length < rs.length), due := false }]) ∧
    (∀ i r st key, firstFailing u priv final 0 [] rs = some (i, r, st, key) →
      ∃ t, exec (.objWrite clk e0) s = .next t ∧ t.writes = s.writes ∧
        Posts t e st (if key then leBytes 4 r.key else leBytes 4 i ++ leBytes 4 (keyType r)))) ∧
  (∀ (clk : Nat) (e0 e : Entry) (via : Transport) (s : State), Admitted (begin clk s) 0x0021 e0 via e → Open (begin clk s) e →
    (parseRecords (entryArgs e)).getD [] = [] → ∃ t, exec (.objWrite clk e0) s = .next t ∧ t.writes = s.writes ∧ Posts t e 0x0101 [])

/-- OBJ_WRITE_EFFECT (R79): once a tick has started since the OBJ_WRITE, which TICK_START marks in it, its one record, of an object without
an effect of its own, is the object's value, no other object changes (the trace of completions being off), and the completion is posted;
before that tick start nothing happens. GATE_REQUEST_TIMEOUT (R392): the OBJ_WRITE that waits to close a gate is refused with BUSY, GATE_BUSY
is set in CLK_EVENT, and no gate changes. -/
def Obligations.ObjectWritesApplied : Prop :=
  (∀ (clk : Nat) (s : State) (q : QueuedWrite) (rest : List QueuedWrite) (r : WriteRecord), s.writes = q :: rest → q.records = [r] →
    s.herd.running = true → s.solver.waits = [] → actionOf { begin clk s with writes := rest } r = none → startsRun r = false →
    r.key / 65536 ∉ [0x80, 0x90] → s.mode.resetFinal = false →
    let objs := oput s.objs r.key (leNat r.value)
    (q.due = true → bit (oval objs (okey 0xA0 1 2)) 0 = false →
      ∃ t c, exec (.objWriteEffect clk) s = .next t ∧ t.writes = rest ∧ t.objs = objs ∧ Output.completion c ∈ t.out ∧
        c.mailbox = q.origin.mbx ∧ c.txid = q.origin.txid ∧ c.status = (if q.limited then 0x0001 else 0x0000) ∧ t.prof = s.prof) ∧
    (q.due = false → exec (.objWriteEffect clk) s = .next (begin clk s))) ∧
  (∀ (clk : Nat) (s : State) (q : QueuedWrite) (rest : List QueuedWrite), s.writes = q :: rest → q.records.any closesGate = true →
    s.mode.resetFinal = false →
    ∃ t c, exec (.gateRequestTimeout clk) s = .next t ∧ t.writes = rest ∧ t.clocks.gates = s.clocks.gates ∧
      t.clocks.event = s.clocks.event ||| 0x40 ∧ Output.completion c ∈ t.out ∧ c.mailbox = q.origin.mbx ∧ c.txid = q.origin.txid ∧
      c.status = 0x0206)

/-- Loading a cell image in a privileged session in CONFIGURE (R86). IMAGE_BEGIN opens the session's staging area; IMAGE_DATA, inline or in
bulk, adds its bytes there; IMAGE_COMMIT hands the image to the check and waits for it; IMAGE_ABORT discards the session's area and withdraws
its commit that waits, which completes with CANCELLED, and completes with OK in either case. With the trace of completions off none of them
changes an object. -/
def Obligations.ImagesLoaded : Prop :=
  (∀ (clk : Nat) (e0 e : Entry) (via : Transport) (s : State), Admitted (begin clk s) 0x0030 e0 via e → Privileged (begin clk s) e →
    s.mode.mode = .configure → inTransition s = false → (entryArgs e).length = 16 →
    96 ≤ le (entryArgs e) 0 4 → le (entryArgs e) 0 4 ≤ 33554432 → s.start.storedCheck = false → (∀ g, s.image.staging = some g → g.mbx = e.mbx) →
    (∀ c o, s.image.commit = some c → c.origin = some o → o.mbx ≠ e.mbx) →
    ∃ t, exec (.imageBegin clk e0) s = .next t ∧
      t.image = { s.image with staging := some { mbx := e.mbx, total := le (entryArgs e) 0 4, imageId := le (entryArgs e) 8 8, base := s.objs } } ∧
      (bit (ov s 0xA0 1 2) 0 = false → t.objs = s.objs) ∧ Posts t e 0x0000 []) ∧
  (∀ (clk : Nat) (e0 e : Entry) (via : Transport) (s : State) (g : Staging), Admitted (begin clk s) 0x0031 e0 via e →
    Privileged (begin clk s) e → s.mode.mode = .configure → inTransition s = false →
    (if e.flags.getLsbD 0 then e.argLen = 8 ∨ (e.argLen = 0 ∧ 8 ≤ e.bulkLen) else 8 ≤ e.argLen) →
    s.image.staging = some g → g.mbx = e.mbx → (imageChunk e).1 + (imageChunk e).2.length ≤ g.total →
    ∃ t, exec (.imageData clk e0) s = .next t ∧ t.image = { s.image with staging := some { g with chunks := imageChunk e :: g.chunks } } ∧
      (bit (ov s 0xA0 1 2) 0 = false → t.objs = s.objs) ∧ Posts t e 0x0000 []) ∧
  (∀ (clk : Nat) (e0 e : Entry) (via : Transport) (s : State) (g : Staging), Admitted (begin clk s) 0x0032 e0 via e →
    Privileged (begin clk s) e → s.mode.mode = .configure → inTransition s = false → (entryArgs e).length = 1 → s.start.storedCheck = false →
    s.image.staging = some g → g.mbx = e.mbx → s.image.commit = none →
    ∃ t c, exec (.imageCommit clk e0) s = .next t ∧ t.image = { s.image with commit := some c } ∧ c.origin = some (originOf e) ∧
      c.checkOnly = (le (entryArgs e) 0 1 % 2 == 1) ∧ c.image = (overlay g.total g.chunks).take (deliveredLength g) ∧ c.base = g.base ∧
      c.passed = false ∧ t.objs = s.objs) ∧
  (∀ (clk : Nat) (e0 e : Entry) (via : Transport) (s : State), Admitted (begin clk s) 0x0033 e0 via e →
    Privileged (begin clk s) e → s.mode.mode = .configure → (entryArgs e).length = 0 →
    (∀ c o, s.image.commit = some c → c.origin = some o → o.mbx = e.mbx →
      ∃ t k, exec (.imageAbort clk e0) s = .next t ∧ t.image.staging = s.image.staging.filter (fun g => g.mbx != e.mbx) ∧
        t.image.commit = none ∧ (bit (ov s 0xA0 1 2) 0 = false → t.objs = s.objs) ∧
        Output.completion k ∈ t.out ∧ k.txid = o.txid ∧ k.mailbox = o.mbx ∧ k.status = 0x0300 ∧ Posts t e 0x0000 []) ∧
    ((∀ c o, s.image.commit = some c → c.origin = some o → o.mbx ≠ e.mbx) →
      ∃ t, exec (.imageAbort clk e0) s = .next t ∧ t.image.staging = s.image.staging.filter (fun g => g.mbx != e.mbx) ∧
        t.image.commit = s.image.commit ∧ (bit (ov s 0xA0 1 2) 0 = false → t.objs = s.objs) ∧ Posts t e 0x0000 []))

/-- CONFIG_CHECK_DONE in CONFIGURE (R47, R52, R86). An image that the check refuses is not activated: no commit is left, the finding is kept
as the report of the refusal, and its IMAGE_COMMIT completes with CONFIG_REFUSED and that report. One that passes under CHECK_ONLY completes
with OK and is gone; one that passes otherwise waits for the next tick start. The mode stays. -/
def Obligations.ImagesChecked : Prop :=
  ∀ (clk : Nat) (s : State) (c : Commit) (o : Origin), s.image.commit = some c → c.passed = false → s.mode.mode = .configure →
    s.mode.resetFinal = false → c.origin = some o →
    (∀ f, configCheck (begin clk s) c = .error f →
      ∃ t k, exec (.configCheckDone clk) s = .next t ∧ t.image = { s.image with commit := none } ∧ t.mode.refusal = reportBytes f ∧
        t.mode.mode = .configure ∧ Output.completion k ∈ t.out ∧ k.txid = o.txid ∧ k.mailbox = o.mbx ∧ k.status = 0x0304 ∧
        k.result = reportBytes f) ∧
    (∀ taken, configCheck (begin clk s) c = .ok taken → c.checkOnly = true →
      ∃ t k, exec (.configCheckDone clk) s = .next t ∧ t.image = { s.image with commit := none } ∧ t.mode = s.mode ∧
        Output.completion k ∈ t.out ∧ k.txid = o.txid ∧ k.mailbox = o.mbx ∧ k.status = 0x0000) ∧
    (∀ taken, configCheck (begin clk s) c = .ok taken → c.checkOnly = false → c.peer = false →
      ∃ t, exec (.configCheckDone clk) s = .next t ∧ t.image = { s.image with commit := some { c with passed := true } } ∧ t.mode = s.mode ∧
        t.safety.staged = taken ∧ t.objs = s.objs)

/-- SET_MODE (R39, R41, R43): a code that names no mode BAD_ARGUMENT; during a transition a target that does not outrank the one in force
MODE_TRANSITION; the mode the module is in, outside a transition, OK; a row of Table 2-3 whose precondition holds is accepted, replaces a
target it outranks, and the command waits; otherwise PRECONDITION. A SET_MODE that is turned away changes nothing of the mode. Leaving FAULT
is `FaultLeft`. -/
def Obligations.SetModeJudged : Prop :=
  ∀ (clk : Nat) (e0 e : Entry) (via : Transport) (s : State), Admitted (begin clk s) 0x0012 e0 via e → Open (begin clk s) e →
    (entryArgs e).length = 1 → ((mbx s e.mbx).state = .privileged ∨ le (entryArgs e) 0 1 = 4) →
    let u := entered clk s via e
    let code := le (entryArgs e) 0 1
    let m := modeOf code
    (inTransition s = false → 6 ≤ code → ∃ t, exec (.setMode clk e0) s = .next t ∧ t.mode = s.mode ∧ Posts t e 0x0102 []) ∧
    (∀ x, targetInForce s = some x → modeRank m ≤ modeRank x →
      ∃ t, exec (.setMode clk e0) s = .next t ∧ t.mode = s.mode ∧ Posts t e 0x0204 []) ∧
    (code < 6 → m = s.mode.mode → inTransition s = false → ∃ t, exec (.setMode clk e0) s = .next t ∧ t.mode = s.mode ∧ Posts t e 0x0000 []) ∧
    (code < 6 → m ≠ s.mode.mode → inTransition s = false → rowOpen u m = true → ¬(m = .configure ∧ s.mode.mode = .fault) →
      ∃ t, exec (.setMode clk e0) s = .next t ∧ t.mode.accepted = some m ∧ t.mode.mode = s.mode.mode ∧ t.out = [] ∧
        t.mode.waiting = s.mode.waiting ++ [{ origin := originOf e, target := m }]) ∧
    (∀ x, code < 6 → targetInForce s = some x → modeRank x < modeRank m → rowOpen u m = true →
      ∃ t, exec (.setMode clk e0) s = .next t ∧ t.mode.accepted = some m ∧ t.mode.mode = s.mode.mode ∧ t.mode.target = s.mode.target ∧
        { origin := originOf e, target := m } ∈ t.mode.waiting) ∧
    (code < 6 → m ≠ s.mode.mode → inTransition s = false → rowOpen u m = false → ¬(m = .configure ∧ s.mode.mode = .fault) →
      ∃ t, exec (.setMode clk e0) s = .next t ∧ t.mode = s.mode ∧ Posts t e 0x0202 [])

/-- SET_MODE CONFIGURE in FAULT (R44): without a valid reset edge in the 10 s before it FAULT_RESET_MISSING; with one, but a cause still
present, PRECONDITION and nothing is cleared; otherwise Chamois's STO latch and its fault are cleared and the transition to CONFIGURE is
accepted, or to BOOT where FAULT was entered from BOOT, which starts at once while herd time does not run. -/
def Obligations.FaultLeft : Prop :=
  ∀ (clk : Nat) (e0 e : Entry) (via : Transport) (s : State), Admitted (begin clk s) 0x0012 e0 via e → Privileged (begin clk s) e →
    (entryArgs e).length = 1 → le (entryArgs e) 0 1 = 1 → s.mode.mode = .fault → inTransition s = false →
    let u := entered clk s via e
    ((∀ x, s.mode.resetEdge = some x → x + 10000000000 ≤ now (begin clk s)) →
      ∃ t, exec (.setMode clk e0) s = .next t ∧ t.mode = s.mode ∧ t.cham = s.cham ∧ Posts t e 0x0205 []) ∧
    (∀ x, s.mode.resetEdge = some x → now (begin clk s) < x + 10000000000 → faultLasts u = true →
      ∃ t, exec (.setMode clk e0) s = .next t ∧ t.mode = s.mode ∧ t.cham = s.cham ∧ Posts t e 0x0202 []) ∧
    (∀ x, s.mode.resetEdge = some x → now (begin clk s) < x + 10000000000 → faultLasts u = false →
      (s.mode.faultInBoot = false →
        ∃ t, exec (.setMode clk e0) s = .next t ∧ t.mode.accepted = some .configure ∧ t.cham.stoLatch = false ∧ t.cham.fault = 0 ∧
          t.mode.resetEdge = none) ∧
      (s.mode.faultInBoot = true → s.herd.running = true →
        ∃ t, exec (.setMode clk e0) s = .next t ∧ t.mode.accepted = some .boot ∧ t.cham.stoLatch = false ∧ t.cham.fault = 0 ∧
          t.mode.resetEdge = none) ∧
      (s.mode.faultInBoot = true → s.herd.running = false →
        ∃ t, exec (.setMode clk e0) s = .next t ∧ t.mode.target = some .boot ∧ t.mode.resetPosted.isSome = true ∧
          t.cham.stoLatch = false ∧ t.cham.fault = 0 ∧ t.mode.resetEdge = none))

/-- RESET (R38) completes with OK, takes BOOT as its target and posts the reset, once. COMMAND_RESET_BEGIN does nothing for 100 µs (25,000
clocks) after that, and then resets the module: it is in BOOT, every session is CLOSED, and Chamois's STO latch, the keys and the epochs
stay. A reset that a SET_MODE posted lets no completion follow its own (R44). MODE_TRANSITION_COMPLETE, once the target is reached, completes
with OK each SET_MODE that waits for it, and leaves the mode for the next tick start (R40); before, it does nothing. RESET_EDGE_WINDOW_EXPIRY
takes a reset edge away 10 s after it (R44). -/
def Obligations.ResetsAndTransitions : Prop :=
  ((∀ (clk : Nat) (e0 e : Entry) (via : Transport) (s : State), Admitted (begin clk s) 0x0011 e0 via e → Privileged (begin clk s) e →
    (entryArgs e).length = 0 →
    (s.mode.resetPosted = none →
      ∃ t, exec (.reset clk e0) s = .next t ∧ t.mode.accepted = some .boot ∧ t.mode.mode = s.mode.mode ∧
        t.mode.resetPosted = some (begin clk s).clock ∧ Posts t e 0x0000 []) ∧
    (s.mode.resetPosted.isSome = true → ∃ t, exec (.reset clk e0) s = .next t ∧ t.mode = s.mode ∧ Posts t e 0x0000 [])) ∧
  (∀ (clk c : Nat) (s : State), s.mode.resetPosted = some c → (begin clk s).clock < c + 25000 →
    exec (.commandResetBegin clk) s = .next (begin clk s)) ∧
  (∀ (clk c : Nat) (s : State), s.mode.resetPosted = some c → c + 25000 ≤ (begin clk s).clock → s.start.running = false →
    ∃ t, exec (.commandResetBegin clk) s = .next t ∧ t.mode.mode = .boot ∧ (∀ m, m < 8 → (mbx t m).state = .closed) ∧
      t.cham.stoLatch = s.cham.stoLatch ∧ t.sec.hmac = s.sec.hmac ∧ t.sec.customer = s.sec.customer ∧ t.aon.epochs = s.aon.epochs ∧
      Output.moduleReset ∈ t.out) ∧
  (∀ (s : State) (o : Origin) (status : Nat) (result : Bytes), s.mode.resetFinal = true → complete s o status result = s)) ∧
  ((∀ (clk : Nat) (s : State) (x : Mode), s.mode.target = some x → s.mode.complete = false →
    (targetReached (begin clk s) x = true → s.mode.resetFinal = false →
      ∃ t, exec (.modeTransitionComplete clk) s = .next t ∧ t.mode.complete = true ∧ t.mode.mode = s.mode.mode ∧
        (∀ w ∈ t.mode.waiting, w.target ≠ x) ∧
        (∀ w ∈ s.mode.waiting, w.target = x →
          ∃ c, Output.completion c ∈ t.out ∧ c.mailbox = w.origin.mbx ∧ c.txid = w.origin.txid ∧ c.status = 0x0000)) ∧
    (targetReached (begin clk s) x = false → exec (.modeTransitionComplete clk) s = .next (begin clk s))) ∧
  (∀ (clk x : Nat) (s : State), s.mode.resetEdge = some x → x + 10000000000 ≤ now (begin clk s) →
    exec (.resetEdgeWindowExpiry clk) s = .next { begin clk s with mode := { (begin clk s).mode with resetEdge := none } }))

/-! ### Motion, paths, zones and acquisition -/

/-- The three moves (R224, R227, R229), in a privileged session in a mode of Table 3-12 and outside a transition: a request whose arguments
are in range waits for the profile pass that comes `cell.move_latency_us` after it; it has not moved anything yet, and nothing is posted.
JOG, STOP_MOVE and TEACH (R230 to R232) with arguments in range wait for the profile pass: the jog with its direction and speed, the stop
for its channel or arm, the teach for its arm. -/
def Obligations.MotionCommandsWait : Prop :=
  (∀ (clk : Nat) (e0 e : Entry) (via : Transport) (s : State), Privileged (begin clk s) e → inTransition s = false →
    profDown (entered clk s via e) = false →
    let u := entered clk s via e
    let a := entryArgs e
    let f := fun i => (BitVec.ofNat 32 (le a i 4) : F32)
    let queued := fun (t : State) (args : MoveArgs) => ∃ w, t.prof = { s.prof with moves := s.prof.moves ++ [w] } ∧ w.origin = originOf e ∧
      w.args = args ∧ w.due = now (begin clk s) + ov s 0x10 0 0x21 * 1000 ∧ t.out = [] ∧ t.piste = s.piste ∧ t.ctl = s.ctl
    (Admitted (begin clk s) 0x0040 e0 via e → motionModes.contains s.mode.mode = true → a.length = 24 →
      let ch := le a 0 1
      let t0 := toCounts s.objs ch (BitVec.ofNat 64 (le a 16 8))
      let target := if bit (le a 1 1) 0 then dAdd (q32ToD (targetOf u ch)) t0 else t0
      chanPresent s.objs ch = true → argLimitOk u ch 3 (f 4) = true → argLimitOk u ch 4 (f 8) = true → argLimitOk u ch 5 (f 12) = true →
      insideSoft s.objs ch target = true →
      ∃ t, exec (.moveJoint clk e0) s = .next t ∧ queued t (.joint ch false (f 4) (f 8) (f 12) target)) ∧
    (Admitted (begin clk s) 0x0041 e0 via e → motionModes.contains s.mode.mode = true → a.length = 72 →
      let arm := le a 0 1
      let target := ((List.range 8).map (fun j => arm * 8 + j)).map (fun ch =>
        let x := toCounts s.objs ch (BitVec.ofNat 64 (le a (8 + 8 * (ch % 8)) 8))
        if bit (le a 1 1) 0 then dAdd (q32ToD (targetOf u ch)) x else x)
      arm < 8 → armPresent s.objs arm = true → fLt 0 (f 4) = true → fLe (f 4) (fOfInt 1) = true →
      (((List.range 8).map (fun j => arm * 8 + j)).filter (jointPresent s.objs)).all (fun ch => insideSoft s.objs ch (nth 0 target (ch % 8))) = true →
      ∃ t, exec (.moveLinear clk e0) s = .next t ∧ queued t (.linear arm false (f 4) target)) ∧
    (Admitted (begin clk s) 0x0042 e0 via e → s.mode.mode = .run → a.length = 32 →
      let ch := le a 0 1
      let ratio : F64 := BitVec.ofNat 64 (le a 8 8)
      let endPos := toCounts s.objs ch (BitVec.ofNat 64 (le a 24 8))
      chanPresent s.objs ch = true → le a 1 1 < 8 → dEq ratio 0 = false → dFinite ratio = true → insideSoft s.objs ch endPos = true →
      ∃ t, exec (.moveConveyor clk e0) s = .next t ∧ queued t (.conveyor ch (le a 1 1) ratio (sext 64 (le a 16 8)) endPos))) ∧
  (∀ (clk : Nat) (e0 e : Entry) (via : Transport) (s : State), Privileged (begin clk s) e → profDown (entered clk s via e) = false →
    let a := entryArgs e
    (Admitted (begin clk s) 0x0044 e0 via e → s.mode.mode = .commission → inTransition s = false → a.length = 8 →
      chanPresent s.objs (le a 0 1) = true → -1 ≤ sext 8 (le a 1 1) → sext 8 (le a 1 1) ≤ 1 → fLe 0 (BitVec.ofNat 32 (le a 4 4)) = true →
      fLe (BitVec.ofNat 32 (le a 4 4)) (obF s.objs 0x21 (le a 0 1) 6) = true →
      ∃ t w, exec (.jog clk e0) s = .next t ∧ t.prof.moves = s.prof.moves ++ [w] ∧ w.origin = originOf e ∧
        w.args = .jog (le a 0 1) (sext 8 (le a 1 1)) (BitVec.ofNat 32 (le a 4 4)) ∧ t.out = []) ∧
    (Admitted (begin clk s) 0x0043 e0 via e → motionModes.contains s.mode.mode = true → a.length = 2 →
      (le a 0 1 = 0 ∧ chanPresent s.objs (le a 1 1) = true) ∨ (le a 0 1 = 1 ∧ le a 1 1 < 8 ∧ armPresent s.objs (le a 1 1) = true) →
      ∃ t, exec (.stopMove clk e0) s = .next t ∧
        t.prof = { s.prof with stops := s.prof.stops ++ [(originOf e, le a 0 1, le a 1 1, now (begin clk s))] } ∧ t.out = []) ∧
    (Admitted (begin clk s) 0x0045 e0 via e → s.mode.mode = .commission → inTransition s = false → a.length = 1 → resultFits e 72 = true →
      le a 0 1 < 8 → armPresent s.objs (le a 0 1) = true →
      ∃ t, exec (.teach clk e0) s = .next t ∧ t.prof = { s.prof with teaches := s.prof.teaches ++ [(originOf e, le a 0 1, now (begin clk s))] } ∧
        t.out = []))

/-- The zone commands ZONE_REQUEST (R200), ZONE_EXTEND (R203) and ZONE_RELEASE (R204) in a privileged session in a mode of Table 3-12, with the arbiter powered: a request in range waits
for the next arbiter pass, an extension by at most 2 s of a lease that exists waits for it, and a release of a lease that exists completes
at once and is applied by that pass. None of them changes a lease yet. PATH_REQUEST in RUN (R162): points in range for a planned arm, within
the 1024 points an arm may hold, wait for the planner's next snapshot. -/
def Obligations.ZonesAndPathsWait : Prop :=
  (∀ (clk : Nat) (e0 e : Entry) (via : Transport) (s : State), Privileged (begin clk s) e → inTransition s = false →
    motionModes.contains s.mode.mode = true → blockDown s 2 4 7 = false →
    let a := entryArgs e
    (Admitted (begin clk s) 0x0050 e0 via e → a.length = 24 →
      zoneRequestOk (entered clk s via e) (le a 0 1) (le a 1 1) (le a 8 8) (le a 16 8) = true →
      (bit (le a 3 1) 0 = true → pendingCount s < 512) →
      ∃ t r, exec (.zoneRequest clk e0) s = .next t ∧ t.out = [] ∧ t.piste.leases = s.piste.leases ∧ t.piste.requests = s.piste.requests ++ [r] ∧
        r.origin = some (originOf e) ∧ r.arm = le a 0 1 ∧ r.zone = le a 1 1 ∧ r.priority = le a 2 1 ∧ r.wait = bit (le a 3 1) 0 ∧
        r.start = le a 8 8 ∧ r.finish = le a 16 8 ∧ r.at_ = now (begin clk s)) ∧
    (∀ l, Admitted (begin clk s) 0x0051 e0 via e → a.length = 16 → s.piste.leases.find? (fun l => l.id = le a 0 4) = some l →
      l.finish < le a 8 8 → le a 8 8 - l.finish ≤ 2000000000 →
      ∃ t x, exec (.zoneExtend clk e0) s = .next t ∧ t.out = [] ∧ t.piste.leases = s.piste.leases ∧
        t.piste.extensions = s.piste.extensions ++ [x] ∧ x.origin = some (originOf e) ∧ x.lease = le a 0 4 ∧ x.newEnd = le a 8 8) ∧
    (∀ l ∈ s.piste.leases, Admitted (begin clk s) 0x0052 e0 via e → a.length = 4 → l.id = le a 0 4 → armPresent s.objs l.arm = true →
      ∃ t, exec (.zoneRelease clk e0) s = .next t ∧ t.piste = { s.piste with releases := s.piste.releases ++ [(le a 0 4, now (begin clk s))] } ∧
        Posts t e 0x0000 [])) ∧
  (∀ (clk : Nat) (e0 e : Entry) (via : Transport) (s : State), Admitted (begin clk s) 0x0046 e0 via e → Privileged (begin clk s) e →
    s.mode.mode = .run →
    let a := entryArgs e
    let pts := pathPoints a (le a 2 2)
    a.length = 8 + 36 * le a 2 2 → (plannedArms s.objs).contains (le a 0 1) = true → 1 ≤ le a 2 2 → le a 2 2 ≤ 256 →
    (pts.drop 1).all (fun p => p.1 != 0) = true → pts.all (fun p => pointOk (entered clk s via e) (le a 0 1) p.2) = true →
    (if bit (le a 1 1) 0 then 0 else pathLevel (entered clk s via e) (le a 0 1)) + le a 2 2 ≤ 1024 →
    ∃ t, exec (.pathRequest clk e0) s = .next t ∧ t.out = [] ∧ t.solver = s.solver ∧
      t.plan = { s.plan with waits := s.plan.waits ++
        [{ origin := originOf e, arm := le a 0 1, replace := bit (le a 1 1) 0, pathId := le a 4 4, at_ := now (begin clk s), points := pts }] })

/-- ACQ_ARM (R367), each of ARM, FORCE and ABORT: it completes with the capture ID, a new one where the action starts a capture, and with the
next tick start, at which the action takes effect; the capture is as it was until then. ACQ_READ (R372) of a capture that is DONE or ABORTED
completes at once with the bytes named, and of one that is ARMED or TRIGGERED waits. LOG_READ (R379) completes at once with the oldest
entries of its class that its ACK has not consumed. ACQ_SAMPLE (R364, R366, R370): at its instant the row of a capture that is TRIGGERED is
stored under its index, or a gap is recorded where the staging queue has no room, and the next index follows; the last row ends the capture
in DONE. -/
def Obligations.CapturesTaken : Prop :=
  (∀ (clk : Nat) (e0 e : Entry) (via : Transport) (s : State), Open (begin clk s) e → s.mode.mode ≠ .boot →
    let u := entered clk s via e
    let a := entryArgs e
    (Admitted (begin clk s) 0x0060 e0 via e → Privileged (begin clk s) e → a.length = 4 → acqDown s = false → le a 0 1 < 3 →
      let starts := le a 0 1 = 0 ∨ (le a 0 1 = 1 ∧ acqAhead s ≠ .armed ∧ acqAhead s ≠ .triggered)
      let id := if starts then s.acq.lastId + 1 else s.acq.lastId
      (starts → armOk u = true) →
      ∃ t, exec (.acqArm clk e0) s = .next t ∧ t.acq.lastId = id ∧ t.acq.actions = s.acq.actions ++ [{ kind := le a 0 1, captureId := id }] ∧
        t.acq.capture = s.acq.capture ∧ Posts t e 0x0000 (leBytes 4 id ++ leBytes 4 0 ++ leBytes 8 (nextTick u))) ∧
    (Admitted (begin clk s) 0x0061 e0 via e → a.length = 8 → bulkOut e = true → acqDown s = false → resultFits e (le a 4 4) = true →
      s.acq.waits = [] →
      let b := captureBytes s.acq.capture
      (s.acq.capture.state = .done ∨ s.acq.capture.state = .aborted → le a 0 4 + le a 4 4 ≤ b.length →
        ∃ t, exec (.acqRead clk e0) s = .next t ∧ t.acq = s.acq ∧ Posts t e 0x0000 (slice b (le a 0 4) (le a 4 4))) ∧
      (s.acq.capture.state = .triggered ∨ s.acq.capture.state = .armed →
        ∃ t, exec (.acqRead clk e0) s = .next t ∧ t.out = [] ∧
          t.acq = { s.acq with waits := [{ origin := originOf e, offset := le a 0 4, length := le a 4 4 }] })) ∧
    (Admitted (begin clk s) 0x0062 e0 via e → a.length = 8 → (1 < le a 2 2 → bulkOut e = true) → le a 0 1 < 3 → le a 2 2 ≤ 2048 →
      (e.udp = true → le a 2 2 ≤ 32) →
      let kept := if bit (le a 1 1) 0 then (classEntries u (le a 0 1)).filter (fun x => !acked (le a 4 4) x) else classEntries u (le a 0 1)
      resultFits e (32 * min (le a 2 2) kept.length) = true →
      ∃ t, exec (.logRead clk e0) s = .next t ∧ Posts t e 0x0000 (joinBytes ((kept.take (le a 2 2)).map (entryBytes (le a 0 1)))))) ∧
  (∀ (clk k0 : Nat) (room : Bool) (s : State), let c := s.acq.capture
    c.state = .triggered → c.trigIndex = some k0 → c.t0 + c.next * c.period ≤ now (begin clk s) → acqDown s = false →
    (c.next + 1 < k0 + postRows c → (room = true ∨ (∃ gs, gapRow false c.gaps c.next = some gs)) →
      ∃ t, exec (.acqSample clk room) s = .next t ∧ t.acq.capture.next = c.next + 1 ∧ t.acq.capture.state = .triggered ∧
        (room = true → ∃ row, t.acq.capture.rows = c.rows ++ [(c.next, row)]) ∧
        (room = false → t.acq.capture.rows = c.rows ∧ gapRow false c.gaps c.next = some t.acq.capture.gaps)) ∧
    (c.next + 1 = k0 + postRows c → room = true →
      ∃ t row, exec (.acqSample clk room) s = .next t ∧ t.acq.capture.state = .done ∧ t.acq.capture.rows = c.rows ++ [(c.next, row)]))

/-! ### Security -/

/-- ATTEST of a new report (R425 to R427). While the index store is READY the report of Table 20-8 with a signature of 3,124 bytes completes
with OK, NEXT is used up and the report is kept for the session; before the first signature of a reservation the next 256 indices are
reserved in AON and NOR, and where the NOR write fails no index is used and the command completes with INTERNAL_ERROR. A store that is LOST
or EXHAUSTED completes with EXHAUSTED, one that is not ready with BUSY. -/
def Obligations.AttestSigns : Prop :=
  ∀ (clk : Nat) (e0 e : Entry) (via : Transport) (ok : Bool) (s : State), Admitted (begin clk s) 0x0080 e0 via e → Open (begin clk s) e →
    s.mode.mode ≠ .boot → bulkOut e = true → (entryArgs e).length = 40 → le (entryArgs e) 0 1 % 4 = 0 →
    le (entryArgs e) 4 4 + e.bulkLen ≤ 3532 →
    let u := entered clk s via e
    let off := le (entryArgs e) 4 4
    (indexMode s = .ready → s.sec.index.next < s.sec.index.reservedEnd →
      ∃ t sig, exec (.attest clk e0 ok) s = .next t ∧ sig.length = 3124 ∧
        t.sec.index = { s.sec.index with
          next := s.sec.index.next + 1, treeReady := s.sec.index.treeReady && (s.sec.index.next + 1) % 32768 != 0 } ∧
        t.sec.norReserved = s.sec.norReserved ∧ t.aon.reservedEnd = s.aon.reservedEnd ∧
        (e.mbx, reportBody u ((mbx u e.mbx).state == .privileged) (slice (entryArgs e) 8 32) ++ sig) ∈ t.sec.reports ∧
        Posts t e 0x0000 (slice (reportBody u ((mbx u e.mbx).state == .privileged) (slice (entryArgs e) 8 32) ++ sig) off e.bulkLen)) ∧
    (indexMode s = .ready → s.sec.index.reservedEnd ≤ s.sec.index.next →
      ∃ t, exec (.attest clk e0 ok) s = .next t ∧ t.aon.reservedEnd = some (s.sec.index.reservedEnd + 256) ∧
        (ok = true → t.sec.norReserved = some (s.sec.index.reservedEnd + 256) ∧ t.sec.index.reservedEnd = s.sec.index.reservedEnd + 256 ∧
          t.sec.index.next = s.sec.index.next + 1) ∧
        (ok = false → t.sec = s.sec ∧ ∃ b, Posts t e 0x0309 b)) ∧
    (indexMode s = .lost ∨ indexMode s = .exhausted → ∃ t, exec (.attest clk e0 ok) s = .next t ∧ t.sec = s.sec ∧ Posts t e 0x0307 []) ∧
    (indexMode s = .preparing → ∃ t, exec (.attest clk e0 ok) s = .next t ∧ t.sec = s.sec ∧ Posts t e 0x0206 [])

/-- KEY_ENROL in a privileged session in CONFIGURE (R420): with SW1.1 ON in both channels its four actions set and clear a customer slot and
an HMAC slot, whose key comes wrapped under the session key (R422); with SW1.1 OFF in either it completes with PRECONDITION and no key
changes. No completion carries a key. -/
def Obligations.KeysEnrolled : Prop :=
  ∀ (clk : Nat) (e0 e : Entry) (via : Transport) (s : State), Admitted (begin clk s) 0x0081 e0 via e → Privileged (begin clk s) e →
    s.mode.mode = .configure →
    let a := entryArgs e
    let n := le a 1 1
    let done := fun (k : SecurityState) => ∃ t, exec (.keyEnrol clk e0) s = .next t ∧ t.sec = k ∧ Posts t e 0x0000 []
    (seal11 s = true →
      (a.length = 68 → le a 0 1 = 1 → n < 2 → le a 2 2 < 2 → hssKeyOk (slice a 8 60) = true → nth none s.sec.customer n = none →
        done { s.sec with customer := upd s.sec.customer n (fun _ => some { key := slice (a.drop 8) 0 60, requireCell := bit (le a 2 2) 0 }) }) ∧
      (a.length = 8 → le a 0 1 = 2 → n < 2 → le a 2 2 = 0 → done { s.sec with customer := upd s.sec.customer n (fun _ => none) }) ∧
      (a.length = 40 → le a 0 1 = 3 → 1 ≤ n → n ≤ 8 → le a 2 2 < 4 →
        done { s.sec with hmac := upd s.sec.hmac (n - 1) (fun _ => some {
          key := unwrapKey (mbx s e.mbx).sk n e.txid (slice (a.drop 8) 0 32), session := bit (le a 2 2) 0, tahixa := bit (le a 2 2) 1 }) }) ∧
      (a.length = 8 → le a 0 1 = 4 → 1 ≤ n → n ≤ 8 → le a 2 2 = 0 → done { s.sec with hmac := upd s.sec.hmac (n - 1) (fun _ => none) })) ∧
    (seal11 s = false → a.length = 8 → (le a 0 1 = 2 ∧ n < 2 ∨ le a 0 1 = 4 ∧ 1 ≤ n ∧ n ≤ 8) → le a 2 2 = 0 →
      ∃ t, exec (.keyEnrol clk e0) s = .next t ∧ t.sec = s.sec ∧ Posts t e 0x0202 [])

/-- The commands of the rescue loader in a privileged session of a rescue start (R51, R418): LOADER_INFO and LOADER_READ_RECORD complete
with their records, LOADER_WRITE_SLOT writes its data to the slot and to no other, and LOADER_RESTART completes, clears CONSEC_FAILED in the
record in AON and NOR and resets the module. Outside a rescue start they complete with MODE_RESTRICTED. The tree of the index store becomes
READY while it is PREPARING in a start that is no rescue start (R426). -/
def Obligations.LoaderCommands : Prop :=
  (∀ (clk : Nat) (e0 e : Entry) (via : Transport) (s : State), (mbx (begin clk s) e.mbx).state = .privileged → s.start.rescue = true →
    (Admitted (begin clk s) 0x00F0 e0 via e → (entryArgs e).length = 0 →
      ∃ t, exec (.loaderInfo clk e0) s = .next t ∧ t.sec = s.sec ∧ Posts t e 0x0000 (loaderInfoBytes s)) ∧
    (Admitted (begin clk s) 0x00F1 e0 via e → (entryArgs e).length = 0 → bulkOut e = true → resultFits e 48 = true →
      s.start.record.steps.length = 14 →
      ∃ t, exec (.loaderReadRecord clk e0) s = .next t ∧ t.start = s.start ∧ Posts t e 0x0000 (recordBytes s.start.record)) ∧
    (Admitted (begin clk s) 0x00F2 e0 via e → e.argLen = 8 → le (inlineArgs e) 0 1 < 2 → bit (le (inlineArgs e) 1 1) 0 = false →
      0 < le (inlineArgs e) 4 4 → bulkData e ≠ [] → le (inlineArgs e) 4 4 + (bulkData e).length ≤ 4194304 →
      let slot := le (inlineArgs e) 0 1
      ∃ t, exec (.loaderWriteSlot clk e0) s = .next t ∧ Posts t e 0x0000 [] ∧
        t.sec = { s.sec with firmware := upd s.sec.firmware slot (fun f =>
          { f with bytes := writeAt f.bytes (le (inlineArgs e) 4 4) (bulkData e) }) }) ∧
    (Admitted (begin clk s) 0x00F3 e0 via e → (entryArgs e).length = 0 →
      ∃ t, exec (.loaderRestart clk e0) s = .next t ∧ Posts t e 0x0000 [] ∧ Output.moduleReset ∈ t.out ∧
        t.aon.record = some { s.start.record with consecFailed := 0 } ∧ t.nor.record = some { s.start.record with consecFailed := 0 } ∧
        t.mode.mode = .boot ∧ (∀ m, m < 8 → (mbx t m).state = .closed) ∧ t.cham = s.cham)) ∧
  (∀ (clk : Nat) (e0 e : Entry) (via : Transport) (s : State), Admitted (begin clk s) 0x00F0 e0 via e → Privileged (begin clk s) e →
    ∃ t, exec (.loaderInfo clk e0) s = .next t ∧ t.sec = s.sec ∧ Posts t e 0x0203 []) ∧
  (∀ (clk : Nat) (s : State), indexMode s = .preparing → s.start.record.startSeq ≠ 0 → s.start.rescue = false →
    ∃ t, exec (.indexTreeReady clk) s = .next t ∧ indexMode t = .ready ∧ t.sec.index.next = s.sec.index.next ∧
      t.sec.index.reservedEnd = s.sec.index.reservedEnd)

/-! ### The solver array -/

/-- SOLVER_ANALYSIS_DONE, the end of an analysis (R172, R175). The structure is the planner's own, or the one that the description in the slot
spells; where the description spells none the slot is REFUSED with the error of the parse. A structure within the limits, with a factor of at
most 262,144 entries and its SRAM free, makes the slot RESIDENT with its structure ID, fresh values (R177) and SEQ zero; outside the limits of
dimensions it is REFUSED with error 2, with a larger factor with error 4, and without the SRAM with error 5. No other slot changes, and a slot
that is not being analysed is left alone. -/
def Obligations.StructureAnalysed : Prop :=
  ∀ (clk i : Nat) (s : State), i < s.solver.slots.length →
    let g := slotOf s i
    let bs := overlay (le (overlay 8 g.chunks) 4 4) g.chunks
    (∀ st, g.load = .analysing → g.structure? = some st ∨ (g.structure? = none ∧ parseStructure bs = .ok st) →
      let nnz := sumNat (colCounts st)
      let fits := dimensionsFit st.nVar st.nEq st.nIneq st.pRow.length st.aRow.length st.gRow.length
      ∃ t, exec (.solverAnalysisDone clk i) s = .next t ∧ (∀ j, j ≠ i → slotOf t j = slotOf s j) ∧
        (fits = true → nnz ≤ 262144 → sramNeed st nnz ≤ sramFree s →
          (slotOf t i).load = .resident ∧ (slotOf t i).structure? = some st ∧ (slotOf t i).id = structureId st ∧
          (slotOf t i).values = freshValues st ∧ (slotOf t i).result.seq = 0) ∧
        (fits = false → (slotOf t i).load = .refused ∧ (slotOf t i).loadError = 2) ∧
        (fits = true → 262144 < nnz → (slotOf t i).load = .refused ∧ (slotOf t i).loadError = 4) ∧
        (fits = true → nnz ≤ 262144 → sramFree s < sramNeed st nnz → (slotOf t i).load = .refused ∧ (slotOf t i).loadError = 5)) ∧
    (∀ n, g.load = .analysing → g.structure? = none → parseStructure bs = .error n →
      ∃ t, exec (.solverAnalysisDone clk i) s = .next t ∧ (slotOf t i).load = .refused ∧ (slotOf t i).loadError = n ∧
        ∀ j, j ≠ i → slotOf t j = slotOf s j) ∧
    (g.load ≠ .analysing → exec (.solverAnalysisDone clk i) s = .next (begin clk s))

/-- The events of a run (R169, R180 to R188). IPM_ITERATION_END at the deadline or later ends the run with DEADLINE_NOT_CONVERGED; before it, a
bad pivot of the factor ends it with NAN_PIVOT and the pivot's column and variable, a number that is not finite with NAN_VALUE, and otherwise
the step of the loop is the new iterate and the slot's warm one, one iteration more is counted, residuals within the tolerances end the run
with CONVERGED, and the last iteration allowed ends it with ITER_LIMIT where it has neither converged nor is found infeasible.
SOLVE_DEADLINE at the deadline of the executing or the suspended run ends an IPM run with DEADLINE_IN_FACTOR inside a factorisation and with
DEADLINE_NOT_CONVERGED outside, a FACTOR run with DEADLINE_IN_FACTOR, and a SOLVE or SPMV run with ABORTED. HOST_RUN_RESUME: the suspended run goes
on once nothing executes. SOLVER_SRAM_UNCORRECTABLE isolates the controller and ends the executing and the suspended run with
SOLVER_ISOLATED. SOLVER_RUN_END of a run that has ended writes its code, iterations and tag into the slot's record and counts SEQ up, the run
no longer executes, no other slot changes, and a host run sets the slot's bit of SOLVER_DONE, where the planner's goes on to the commit test;
of a FACTOR run whose work is done it keeps the factor, with DONE or, at a bad pivot, NAN_PIVOT; of a SOLVE or SPMV run it keeps w, with
DONE. -/
def Obligations.SolverRuns : Prop :=
  (∀ (clk ns : Nat) (s : State) (r : SolverRun) (st : Structure), s.solver.current = some r → (slotOf s r.slot).structure? = some st →
    r.op = .ipm → r.ended = none → r.started = true → r.slot < s.solver.slots.length →
    let k := (loopFactor s st r).1
    let fs := (loopFactor s st r).2
    let step := ipmStep st r.values r.iterate r.gap fs
    let rest := residuals st r.values step.1
    let finite := k.all (fun c => c.all (fun e => dFinite e.2)) && fs.all (fun f => f.rows.all (fun e => dFinite e.2)) &&
      step.2.all dFinite && (iterateList step.1).all dFinite && (dFinite rest.1 && dFinite rest.2.1 && dFinite rest.2.2)
    (runLate (begin clk s) r = true →
      ∃ t q, exec (.ipmIterationEnd clk ns) s = .next t ∧ t.solver.current = some q ∧ q.ended = some 1 ∧ q.iterations = r.iterations ∧
        q.iterate = r.iterate) ∧
    (runLate (begin clk s) r = false →
      (∀ col, badColumn fs = some col →
        ∃ t q, exec (.ipmIterationEnd clk ns) s = .next t ∧ t.solver.current = some q ∧ q.ended = some 4 ∧ q.pivotCol = col ∧
          q.pivotVar = nth 0 st.perm col ∧ q.iterations = r.iterations ∧ (slotOf t r.slot).factor = none) ∧
      (badColumn fs = none → finite = false →
        ∃ t q, exec (.ipmIterationEnd clk ns) s = .next t ∧ t.solver.current = some q ∧ q.ended = some 5 ∧ q.iterations = r.iterations) ∧
      (badColumn fs = none → finite = true →
        let conv := dLe rest.1 (slotF s r.slot 0x0B) && dLe rest.2.1 (slotF s r.slot 0x0C) && dLe rest.2.2 (slotF s r.slot 0x0D)
        let infeasible := dLt (slotF s r.slot 0x17) (sDot [(normInf step.1.y, dOne), (normInf (signedDual step.1.zl step.1.zu), dOne),
          (normInf (signedDual step.1.xl step.1.xu), dOne)]) && dLt (slotF s r.slot 0x0B) rest.1
        ∃ t q, exec (.ipmIterationEnd clk ns) s = .next t ∧ t.solver.current = some q ∧ q.iterate = step.1 ∧ q.iterations = r.iterations + 1 ∧
          (slotOf t r.slot).warm = some step.1 ∧ (slotOf t r.slot).factor = some fs ∧ (conv = true → q.ended = some 0) ∧
          (conv = false → infeasible = false → slotN s r.slot 0x0A ≤ r.iterations + 1 → q.ended = some 2)))) ∧
  (∀ (clk : Nat) (inFactor suspended : Bool) (s : State) (r : SolverRun), (if suspended then s.solver.parked else s.solver.current) = some r →
    r.ended = none → runLate (begin clk s) r = true →
    ∃ t q, exec (.solveDeadline clk inFactor suspended) s = .next t ∧
      (if suspended then t.solver.parked = some q ∧ t.solver.current = s.solver.current
        else t.solver.current = some q ∧ t.solver.parked = s.solver.parked) ∧
      q.iterations = r.iterations ∧ q.ended = some (match r.op with
        | .ipm => if inFactor then 6 else 1
        | .factor => 6
        | _ => 10)) ∧
  (∀ (clk : Nat) (s : State) (r : SolverRun), s.solver.current = none → s.solver.parked = some r → r.ended = none →
    ∃ t, exec (.hostRunResume clk) s = .next t ∧ t.solver = { s.solver with current := some r, parked := none }) ∧
  (∀ (clk element : Nat) (s : State) (r : SolverRun), r.ended = none →
    ∃ t, exec (.solverSramUncorrectable clk element) s = .next t ∧ isolated t 1 4 = true ∧
      (s.solver.current = some r → t.solver.current = some { r with ended := some 7 }) ∧
      (s.solver.parked = some r → t.solver.parked = some { r with ended := some 7 })) ∧
  (∀ (clk : Nat) (s : State) (r : SolverRun), s.solver.current = some r → r.slot < s.solver.slots.length → r.slot < 8 →
    s.solver.parked = none → s.solver.queue = [] →
    (∀ code, r.ended = some code →
      ∃ t, exec (.solverRunEnd clk r.slot) s = .next t ∧ t.solver.current = none ∧ (slotOf t r.slot).result.code = code ∧
        (slotOf t r.slot).result.iterations = r.iterations ∧ (slotOf t r.slot).result.runTag = r.tag ∧
        (slotOf t r.slot).result.seq = ((slotOf s r.slot).result.seq + 1) % 2 ^ 32 ∧ (∀ j, j ≠ r.slot → slotOf t j = slotOf s j) ∧
        (r.planner = false → t.reg.solverDone.getLsbD r.slot = true) ∧ (r.planner = true → s.plan.phase = .solving → t.plan.phase = .testing)) ∧
    (∀ st, r.ended = none → r.started = true → (slotOf s r.slot).structure? = some st → runLate (begin clk s) r = false →
      (r.op = .factor →
        let fs := factorise st (factorMatrix st r.values)
        ∃ t, exec (.solverRunEnd clk r.slot) s = .next t ∧
          (slotOf t r.slot).result.code = (if (badColumn fs).isSome then 4 else 9) ∧
          (slotOf t r.slot).factor = (if (badColumn fs).isSome then none else some fs)) ∧
      (r.op = .solve ∨ r.op = .spmv →
        ∃ t, exec (.solverRunEnd clk r.slot) s = .next t ∧ (slotOf t r.slot).result.code = 9 ∧
          (slotOf t r.slot).w = vectorResult st (slotOf s r.slot) r s.freeCount)))

/-! ### Ticks, planning, arbitration and profiles -/

/-- TICK_START (R9, R89) while herd time runs, with no step of herd time waiting, no adjustment by the slew, no IMAGE_COMMIT in flight and no
image active: herd time goes on by the fewest clocks of 250 MHz after which HT:HT_FRAC has reached the start of the next tick, each adding 4 ns
and the rate adjustment, the AON timer by 4 ns for each of them, and the tick counter goes up by one; k and HT start again from 0 at 2^64 ns. While
herd time does not run there is no tick. -/
def Obligations.TicksStart : Prop :=
  (∀ s : State, s.herd.running = true → s.herd.stepPending = none → s.herd.slewRem = 0 → s.image.commit = none → imageActive s = false →
    -2147483648 ≤ adjServo s → nextTick s < 2 ^ 65 →
    let after := fun (n : Nat) => herdPos s.herd + (4 * fracUnit + adjServo s) * n
    ∃ t n, exec .tickStart s = .next t ∧ (nextTick s : Int) * fracUnit ≤ after n ∧ (∀ m < n, after m < (nextTick s : Int) * fracUnit) ∧
      t.herd.ht = (after n).toNat / 2 ^ 32 % 2 ^ 64 ∧ t.herd.tick = (if 2 ^ 64 ≤ nextTick s then 0 else s.herd.tick + 1) ∧
      t.herd.running = true ∧ t.aon.timer = s.aon.timer + 4 * n) ∧
  (∀ s : State, s.herd.running = false → exec .tickStart s = .next { s with out := [] })

/-- A re-planning period (R155 to R159, R161). PLANNER_SNAPSHOT at its start opens it, with the mode, the objects, the lease table and the arms as
they stand, and takes the path requests that came before it. PLANNER_POST starts the planner's solve in its slot with the deadline of the
period and the problem of the snapshot, and fails with NO_SOLVER where the planner has no structure, the solver is isolated or unpowered or the
slot not resident. COMMIT_TEST
commits the plan, with its sequence number and code, when the solver's status is OK or DEADLINE, the iterate is finite and every arm's tests
pass; otherwise it fails with the status's code, with NAN for an iterate that is not finite and with CHECK_FAILED where an arm's tests do not
pass. At the cut-off, COMMIT_CUTOFF or a COMMIT_TEST makes LATE what has not been committed. A failed period leaves the plan that is committed
alone. -/
def Obligations.PlanPeriod : Prop :=
  (∀ (clk : Nat) (s : State), let s1 := begin clk s
    s.herd.running = true → drives s1 = true → domainOn s 7 = true → periodAt s1 (tickStart s1) = true → s.plan.periodStart ≠ tickStart s1 →
    atTickStart s1 = true → s.mode.mode = .commission ∨ s.mode.mode = .run → modeTarget s = s.mode.mode →
    ∃ t, exec (.plannerSnapshot clk) s = .next t ∧ t.plan.snapshot = some
        { time := tickStart s1, mode := s.mode.mode, objs := s.objs, leases := s.piste.passRows, arms := (plannedArms s.objs).filterMap (armSnapshot s1) } ∧
      t.plan.periodStart = tickStart s1 ∧ t.plan.phase = .posting ∧
      t.plan.waits = s.plan.waits.filter (fun w => decide (tickStart s1 ≤ w.at_)) ∧ t.solver = s.solver ∧ t.piste = s.piste) ∧
  (∀ (clk : Nat) (s : State) (snap : Snapshot), s.plan.phase = .posting → s.plan.snapshot = some snap →
    let g := slotOf s s.plan.slot
    (∀ st, s.plan.resident = true → solverIsolated s = false → domainOn s 5 = true → g.load = .resident → g.structure? = some st → g.staged = [] →
      s.plan.slot < s.solver.slots.length → s.solver.current = none →
      ∃ t r, exec (.plannerPost clk) s = .next t ∧ t.plan.phase = .solving ∧ t.solver.current = some r ∧ r.planner = true ∧ r.op = .ipm ∧
        r.slot = s.plan.slot ∧ r.deadline = s.plan.periodStart + ob snap.objs 0x30 0 2 * 1000 ∧ r.started = true ∧
        r.values = problemValues (begin clk s) snap g.values) ∧
    (s.plan.resident = false ∨ solverIsolated s = true ∨ domainOn s 5 = false ∨ g.load ≠ .resident →
      ∃ t, exec (.plannerPost clk) s = .next t ∧ t.plan.phase = .ended ∧ t.plan.lastResult = 9 ∧ t.plan.committed = s.plan.committed ∧
        t.solver = s.solver)) ∧
  (∀ (clk : Nat) (s : State) (snap : Snapshot), let s1 := begin clk s
    let g := slotOf s s.plan.slot
    let code := statusCode s1 g.result
    s.plan.phase = .testing → s.plan.snapshot = some snap →
    let E := snap.time + periodNs snap.objs
    let seq := (s.plan.lastSeq + 1) % 2 ^ 32
    let test := testArm { s1 with objs := snap.objs } E seq code g.iterate.x
    let fails := fun (n : Nat) => ∃ t, exec (.commitTest clk) s = .next t ∧ t.plan.phase = .ended ∧ t.plan.lastResult = n ∧
      t.plan.committed = s.plan.committed ∧ t.piste = s.piste
    (cutOff s1 = true → fails 7) ∧
    (cutOff s1 = false → 2 ≤ code → fails code) ∧
    (cutOff s1 = false → code < 2 → (iterateList g.iterate).all dFinite = false → fails 3) ∧
    (cutOff s1 = false → code < 2 → (iterateList g.iterate).all dFinite = true → (∃ sn ∈ snap.arms, test sn = none) → fails 6) ∧
    (cutOff s1 = false → code < 2 → (iterateList g.iterate).all dFinite = true → (∀ sn ∈ snap.arms, (test sn).isSome = true) →
      ∃ t, exec (.commitTest clk) s = .next t ∧ t.plan.phase = .ended ∧ t.plan.committedCode = code ∧ t.plan.lastSeq = seq ∧
        t.plan.committed = some (snap.mode, (snap.arms.filterMap test).map (·.record)))) ∧
  (∀ (clk : Nat) (s : State), cutOff (begin clk s) = true → s.plan.phase = .posting ∨ s.plan.phase = .solving ∨ s.plan.phase = .testing →
    ∃ t, exec (.commitCutoff clk) s = .next t ∧ t.plan.phase = .ended ∧ t.plan.lastResult = 7 ∧ t.plan.committed = s.plan.committed ∧
      t.piste = s.piste)

/-- The arbiter (R205, R206, R209): ARBITER_PASS makes one pass in a tick, from its start on. LEASE_EXPIRY: a lease whose end has come and that is
not KEPT expires. With no lease set to check, no release and no extension waiting, and HOLD not lasting, a request that stands alone, that
nothing blocks and whose arm is not held becomes a lease from the later of its start and the pass, under the next LEASE_ID, and no lease that
has not ended is lost. -/
def Obligations.ArbiterPasses : Prop :=
  ∀ (clk : Nat) (s : State), let s1 := begin clk s
    let tp := passStart s1
    arbiterUp s1 = true → tp ≤ now s1 → s.piste.passTick ≠ some s.herd.tick →
    (∀ id, ∃ t, exec (.leaseExpiry clk id) s = .next t ∧ t.piste = { s.piste with
      leases := s.piste.leases.filter (fun l => !(l.id = id && decide (l.finish ≤ tp) && !l.kept)) }) ∧
    (∀ r, s.piste.requests = [r] → s.piste.releases = [] → s.piste.extensions = [] → (∀ a, nth [] s.piste.sets a = []) →
      (∀ a, nth [] s.piste.nextSets a = []) → (∀ a, (armPlan s a).pending = []) → holdLasts s = false → armHeld s r.arm = false → (r.origin.isSome = true → r.at_ < tp) →
      tp < r.finish → r.start < r.finish → (∀ l ∈ s.piste.leases, l.kept = true ∨ tp < l.finish) →
      (∀ l ∈ s.piste.leases, ¬(l.arm = r.arm ∧ l.zone = r.zone)) → s.piste.leases.length < 1024 →
      blockers s1 r.arm r.zone (max r.start tp) r.finish = [] →
      ∃ t, exec (.arbiterPass clk) s = .next t ∧ t.piste.requests = [] ∧ t.piste.lastPass = tp ∧ t.piste.passTick = some s.herd.tick ∧
        t.piste.lastId = nextLeaseId s.piste.lastId ∧ (∀ l ∈ s.piste.leases, l ∈ t.piste.leases) ∧
        ∃ l ∈ t.piste.leases, l.id = nextLeaseId s.piste.lastId ∧ l.arm = r.arm ∧ l.zone = r.zone ∧ l.start = max r.start tp ∧
          l.finish = r.finish)

/-- The profile generator (R217, R218, R222, R228, R230). PROFILE_PASS, one in a tick: it takes every move that is due out of the queue and posts a
setpoint for every channel for the tick to come, and grants no lease. JOG_TIMEOUT: a jog without a JOG for `cell.jog_timeout_ms` starts its stop
profile. CONVEYOR_STALE: a conveyor whose age passes its limit holds its position with velocity 0. -/
def Obligations.ProfilePasses : Prop :=
  ∀ (clk : Nat) (s : State), let s1 := begin clk s
    (profUp s1 = true → profStart s1 s.herd.tick ≤ now s1 → s.prof.passTick ≠ some s.herd.tick →
      ∃ t, exec (.profilePass clk) s = .next t ∧ t.prof.passTick = some s.herd.tick ∧
        t.prof.moves = s.prof.moves.filter (fun w => !decide (w.due ≤ profStart s1 s.herd.tick)) ∧
        (∀ ch, ch < 80 → (tget {} t.ctl.setpoints ch).tick = s.herd.tick + 1) ∧ ∀ l ∈ t.piste.leases, l ∈ s.piste.leases) ∧
    (∀ (ch : Nat) d lim p last, (chan s ch).motion = some (.jog d lim p last) → last + ov s 0x10 0 0x22 * 1000000 ≤ now s1 →
      ∃ t q, exec (.jogTimeout clk ch) s = .next t ∧ (chan t ch).motion = some (.stop false lim q) ∧ ∀ k, k ≠ ch → chan t k = chan s k) ∧
    (∀ c : Nat, c < 8 → ov s 0x21 (72 + c) 0x11 < 8 → ov s 0x21 (72 + c) 0x12 < (nth {} s.field.encoders (ov s 0x21 (72 + c) 0x11)).age →
      ∃ t, exec (.conveyorStale clk c) s = .next t ∧ (chan t (72 + c)).vel = 0 ∧ (chan t (72 + c)).acc = 0 ∧
        (chan t (72 + c)).pos = (chan s (72 + c)).pos ∧ (chan t (72 + c)).convStale = true ∧ ∀ k, k ≠ 72 + c → chan t k = chan s k)

/-! ### Separation monitoring and the safety channels -/

/-- A separation step (R286, R288, R290, R297 to R299, R303). SEPARATION_STEP: at its instant both channels latch their inputs and start.
JOINT_STALE: a stale joint record makes its channel demand SS1 for the arm. SENSOR_WORST: a sensor whose list was replaced is WORST.
PROCESSOR_RESULT and CHAMOIS_RESULT: each channel's results add to its demands, of which the stronger stays. SEPARATION_COMBINATION ends the
step: an arm with a demand of either channel has scale 0, and one with none, after the first step, a scale that goes from the old one toward the smaller of
both targets and not past it. SS2_RELEASE: a demand ends after `sep.resume_steps` clear steps. -/
def Obligations.SeparationSteps : Prop :=
  ∀ (clk : Nat) (s : State), let s1 := begin clk s
    (sepRuns s1 = true → sepTick s1 = true → s.sep.stepTick ≠ some s.herd.tick → sepStart s1 ≤ now s1 →
      ∃ t, exec (.separationStep clk) s = .next t ∧ t.sep.active = true ∧ t.sep.processor = none ∧ t.sep.chamois = none ∧
        t.sep.stepTick = some s.herd.tick ∧ t.sep.latch.time = sepStart s1 ∧ t.sep.latch.jointsP = s.sep.jointsP ∧
        t.sep.latch.jointsC = s.sep.jointsC ∧ t.sep.demandP = s.sep.demandP ∧ t.sep.demandC = s.sep.demandC ∧ t.sep.results = s.sep.results) ∧
    (∀ (ch : Bool) (a : Nat), a < 8 → s.sep.demandP.length = 8 → s.sep.demandC.length = 8 →
      (if ch then s.sep.staleDueC else s.sep.staleDueP).getLsbD a = true →
      ∃ t, exec (.jointStale clk ch a) s = .next t ∧ nth .none (if ch then t.sep.demandC else t.sep.demandP) a = .ss1 ∧
        (if ch then t.sep.staleDueC else t.sep.staleDueP).getLsbD a = false) ∧
    (∀ k : Nat, k < 16 → s.sep.worstDue.getLsbD k = true →
      ∃ t, exec (.sensorWorst clk k) s = .next t ∧ t.sep.worst.getLsbD k = true ∧ t.sep.worstDue.getLsbD k = false) ∧
    (s.sep.active = true → s.sep.processor = none → domainOn s 8 = true → isolated s 2 3 = false → kinReady s1 = true → s.sep.demandP.length = 8 →
      ∃ t, exec (.processorResult clk) s = .next t ∧ t.sep.processor = some (sepResults s1 processorArm) ∧ t.sep.demandC = s.sep.demandC ∧
        ∀ a, a < 8 → nth .none t.sep.demandP a = demandMax (nth {} (sepResults s1 processorArm) a).demand (nth .none s.sep.demandP a)) ∧
    (s.sep.active = true → s.sep.chamois = none → s.sep.demandC.length = 8 →
      ∃ t, exec (.chamoisResult clk) s = .next t ∧ t.sep.chamois = some (sepResults s1 chamoisArm) ∧ t.sep.demandP = s.sep.demandP ∧
        ∀ a, a < 8 → nth .none t.sep.demandC a = demandMax (nth {} (sepResults s1 chamoisArm) a).demand (nth .none s.sep.demandC a)) ∧
    (s.sep.active = true → s.sep.latch.time + max (sepTimeP s.objs) (sepTimeC s.objs) + 200 ≤ now s1 → s.sep.results.length = 8 →
      let rs := fun (r : Option (List SepResult)) (a : Nat) => nth {} (r.getD (List.replicate 8 missingResult)) a
      ∃ t, exec (.separationCombination clk) s = .next t ∧ t.sep.active = false ∧ t.sep.demandP = s.sep.demandP ∧ t.sep.demandC = s.sep.demandC ∧
        ∀ a ∈ sepArms s.objs, (nth {} t.sep.results a).stepTime = s.sep.latch.time ∧
          (nth {} t.sep.results a).demand = demandMax (nth .none s.sep.demandP a) (nth .none s.sep.demandC a) ∧
          (nth .none s.sep.demandP a ≠ .none ∨ nth .none s.sep.demandC a ≠ .none → (nth {} t.sep.results a).scale = 0) ∧
          (nth .none s.sep.demandP a = .none → nth .none s.sep.demandC a = .none → s.sep.firstStep = false →
            let target := min (rs s.sep.processor a).target (rs s.sep.chamois a).target
            let old := (nth {} s.sep.results a).scale
            min old target ≤ (nth {} t.sep.results a).scale ∧ (nth {} t.sep.results a).scale ≤ max old target)) ∧
    (∀ a : Nat, a < 8 → s.sep.demandP.length = 8 → s.sep.demandC.length = 8 → ov s 0x50 0x80 0x0C ≤ (nth {} s.sep.results a).clearRun →
      ∃ t, exec (.ss2Release clk a) s = .next t ∧ nth .none t.sep.demandP a = .none ∧ nth .none t.sep.demandC a = .none ∧
        ∀ b, b ≠ a → nth .none t.sep.demandP b = nth .none s.sep.demandP b ∧ nth .none t.sep.demandC b = nth .none s.sep.demandC b)

/-- PROCESSOR_EVALUATION and CHAMOIS_EVALUATION put every arm into STO that a source of rank STO names (R309, R312, R313, Table 15-2): in the
processor channel while the mode that governs is BOOT, CONFIGURE or FAULT; in Chamois while the mode it was told is one of these, while its
start latch is set, and while its STO latch is set. SAFETY_STATUS_RX brings the other channel's samples, and to Chamois the mode and the mode
that governs. What a channel finds wrong in the other (R310, R311, Table 2-9): at CHANNEL_SILENT, no message for two evaluations, the channel's
switches open, and Chamois latches STO while the mode it was told moves the cell; at CROSS_MISMATCH, a value that has differed in more than 8
evaluations, and at OSCILLATOR_MISMATCH, a count of messages out of range, Chamois latches STO and the channel demands STO for all arms.
Outside BOOT and FAULT, with no transition, FAULT is accepted. -/
def Obligations.ChannelsEvaluate : Prop :=
  (∀ (clk a b : Nat) (sr : Bool) (sw rb : Nat) (cs : List Nat) (s : State),
    (s.herd.running = true → s.safety.processor.slot ≠ some (now (begin clk s) / 250000) → s.safety.processor.arms.length = 8 →
      ∃ t, exec (.processorEvaluation clk a b sr sw rb cs) s = .next t ∧ t.safety.processor.evals = s.safety.processor.evals + 1 ∧
        t.safety.processor.slot = some (now (begin clk s) / 250000) ∧ t.safety.processor.sw1 = BitVec.ofNat 8 sw ∧
        t.safety.processor.sreset = sr ∧ t.cham = s.cham ∧
        (demandMode s = .boot ∨ demandMode s = .configure ∨ demandMode s = .fault → ∀ k, k < 8 → (armStop t false k).state = .sto)) ∧
    (s.safety.chamois.arms.length = 8 →
      ∃ t, exec (.chamoisEvaluation clk a b sr sw rb cs) s = .next t ∧ t.safety.chamois.evals = s.safety.chamois.evals + 1 ∧
        t.safety.chamois.sw1 = BitVec.ofNat 8 sw ∧ t.safety.chamois.sreset = sr ∧ t.cham.stoLatch = s.cham.stoLatch ∧
        (s.cham.startLatch = true ∨ s.cham.stoLatch = true ∨ s.safety.chamois.peerDemand = .boot ∨ s.safety.chamois.peerDemand = .configure ∨
          s.safety.chamois.peerDemand = .fault → ∀ k, k < 8 → (armStop t true k).state = .sto)) ∧
    (∃ t, exec (.safetyStatusRx clk false) s = .next t ∧ t.safety.processor.fresh = true ∧ t.safety.processor.peer = viewOf s.safety.chamois ∧
      t.safety.processor.messages = s.safety.processor.messages + 1 ∧ t.safety.chamois = s.safety.chamois ∧ t.cham = s.cham) ∧
    (∃ t, exec (.safetyStatusRx clk true) s = .next t ∧ t.safety.chamois.fresh = true ∧ t.safety.chamois.peer = viewOf s.safety.processor ∧
      t.safety.chamois.messages = s.safety.chamois.messages + 1 ∧ t.safety.chamois.peerMode = s.mode.mode ∧
      t.safety.chamois.peerDemand = demandMode s ∧ t.safety.processor = s.safety.processor)) ∧
  (∀ (clk : Nat) (by_ : Bool) (s : State),
    let faults := fun (t : State) => s.mode.mode ≠ .boot → s.mode.mode ≠ .fault → targetInForce s = none → t.mode.accepted = some .fault
    (2 ≤ (safeCh s by_).silentRun → (safeCh s by_).silent = false →
      ∃ t, exec (.channelSilent clk by_) s = .next t ∧ (safeCh t by_).silent = true ∧ (∀ w ∈ (safeCh t by_).switches, w.closed = false) ∧
        (by_ = true → s.safety.chamois.peerMode = .commission ∨ s.safety.chamois.peerMode = .run ∨ s.safety.chamois.peerMode = .hold →
          t.cham.stoLatch = true ∧ faults t) ∧
        (by_ = false → t.safety.processor.faultStop = true ∧ faults t)) ∧
    (∀ v n, (v, n) ∈ (safeCh s by_).mismatch → 8 < n → v ∉ (safeCh s by_).mismatched →
      ∃ t, exec (.crossMismatch clk by_ v) s = .next t ∧ v ∈ (safeCh t by_).mismatched ∧ (safeCh t by_).faultStop = true ∧
        t.cham.stoLatch = true ∧ faults t) ∧
    ((safeCh s by_).oscDue = true →
      ∃ t, exec (.oscillatorMismatch clk by_) s = .next t ∧ (safeCh t by_).oscDue = false ∧ (safeCh t by_).oscillator = true ∧
        (safeCh t by_).faultStop = true ∧ t.cham.stoLatch = true ∧ faults t))

/-- Safe inputs and outputs (R314, R320, R323, R325 to R327, R329). DISCREPANCY: one that is due writes its error word. SS1_TIMEOUT: an SS1 ramp
that has run out ends in STO. NET_INPUT_STALE: a network input past its age limit is OFF. DARK_PULSE_TEST: an energised output whose switch
stays closed under a dark pulse is STUCK and open. OUTPUT_DIAGNOSIS: an output that is too hot is opened and reported once.
OUTPUT_CURRENT_LIMIT opens both switches of an energised output. SRESET_EDGE: a valid reset edge is recorded and releases the EMERGENCY_STOP
latches of the inputs that are ON. SW1_CHANGE: a moved seal switch is shown. An error word is in ERR_WORD unless a later word of the same clock
stands there. -/
def Obligations.SafeInputsOutputs : Prop :=
  ∀ (clk : Nat) (ch : Bool) (s : State),
    (∀ n, n < 16 → (safeCh s ch).inputs.length = 16 → (nth {} (safeCh s ch).inputs n).due = true →
      ∃ t, exec (.discrepancy clk ch n) s = .next t ∧ (nth {} (safeCh t ch).inputs n).due = false ∧ t.reg.errWord = errWordNow (begin clk s) (ioWord ch n) ∧
        t.reg.errCount = satNat 32 (s.reg.errCount + 1)) ∧
    (∀ a, a < 8 → (safeCh s ch).arms.length = 8 → (armStop s ch a).timeout = true →
      ∃ t, exec (.ss1Timeout clk ch a) s = .next t ∧ (armStop t ch a).state = .sto ∧ (armStop t ch a).timeout = false ∧
        (armStop t ch a).violated = (armStop s ch a).violated) ∧
    (∀ e, e ∈ usedNets s.objs → ob s.objs 0x60 (0x40 + e) 4 < (tget {} (safeCh s ch).nets e).age →
      ∃ t, exec (.netInputStale clk ch e) s = .next t ∧ (tget {} (safeCh t ch).nets e).on = false ∧ (tget {} (safeCh t ch).nets e).stale = true ∧
        (netFunction s.objs e = 1 → (tget {} (safeCh t ch).nets e).latched = true)) ∧
    (∀ n, n < 8 → s.safety.processor.switches.length = 8 → s.safety.chamois.switches.length = 8 →
      (energised s n = true →
        (∃ t, exec (.darkPulseTest clk ch n true) s = .next t ∧ (nth {} (safeCh t ch).switches n).stuck = true ∧
          (nth {} (safeCh t ch).switches n).closed = false ∧ energised t n = false) ∧
        (∃ t, exec (.darkPulseTest clk ch n false) s = .next t ∧ (nth {} (safeCh t ch).switches n).stuckNow = false ∧
          (nth {} (safeCh t ch).switches n).closed = true ∧ t.mode = s.mode) ∧
        (∃ t, exec (.outputCurrentLimit clk n) s = .next t ∧ energised t n = false ∧ (nth {} t.safety.processor.switches n).limited = true ∧
          (nth {} t.safety.chamois.switches n).limited = true)) ∧
      (outFunction s.objs n ≠ 0 → (nth {} (safeCh s ch).switches n).overTemp = false →
        ∃ t, exec (.outputDiagnosis clk ch n 2 true) s = .next t ∧ (nth {} (safeCh t ch).switches n).overTemp = true ∧
          (nth {} (safeCh t ch).switches n).closed = false ∧ t.reg.errWord = errWordNow (begin clk s) (ioWord ch (16 + n)))) ∧
    (∀ x, s.safety.edgeDue = some x →
      ∃ t, exec (.sresetEdge clk) s = .next t ∧ t.safety.edgeDue = none ∧ t.safety.lastReset = x ∧
        (∀ n, n < 16 → s.safety.processor.inputs.length = 16 → (nth {} s.safety.processor.inputs n).on = true →
          (nth {} t.safety.processor.inputs n).latched = false)) ∧
    (s.safety.processor.sw1 ≠ s.safety.processor.sw1Shown →
      ∃ t, exec (.sw1Change clk) s = .next t ∧ t.safety.processor.sw1Shown = s.safety.processor.sw1 ∧
        t.safety.processor.sw1 = s.safety.processor.sw1 ∧ t.safety.chamois = s.safety.chamois)

/-! ### Tahixa -/

/-- Frames of the cycle (R107, R110, R119 to R124, R137, R138). DOWNSTREAM_COMMIT_POINT sends a static slot once for its tick, at its commit
point, one frame by each port of the mode, at the action point shifted for the port. PROCESS_FRAME_RX: the first frame of a slot that passes the
checks is held and its operand posted; a frame with NOT_READY is held and leaves the payload and its tick as they were. SAFETY_FRAME_RX: the
second copy is compared with the first; copies that agree are held and posted, copies that differ set the mismatch and leave the payload held.
MESSAGE_RX: a host frame that passes enters the receive queue and sets interrupt status bit 7. DELAY_RESP_RX: the answer of the node being
measured counts once as a measurement and brings an absent or lost node back to SYNCING. SLOT_WINDOW_CLOSE: a slot that no frame reached posts
the payload held before. SAFETY_SINGLE: a single run past its limit is reported once. -/
def Obligations.TahixaFrames : Prop :=
  ∀ (clk : Nat) (s : State), let s1 := begin clk s
    (∀ k, netLeads s1 = true → k ∈ downInForce s1 → (downOf s k).sent ≠ some (staticCommit s1 k).1 → (staticCommit s1 k).2 ≤ now s1 →
      let tick := (staticCommit s1 k).1
      ∃ t hdr pay, exec (.downstreamCommitPoint clk false k) s = .next t ∧ (downOf t k).sent = some tick ∧
        t.out = (sendPortsAt s1 tick).map (fun p =>
          wireFrame t p ((tick * tickNs s1 * 10 + 4480 * k : Nat) + shiftDown t p : Int).toNat hdr pay)) ∧
    (∀ f : RxFrame, let r := received (noteForeign s1 f) f
      r.2 = true → netRuns s = true → portServes r.1 f.port = true →
      (∀ s2 k start, checkStatic r.1 f 1 = .accept s2 k start → copyOf (upOf s k) (1 - f.port / 2) = none →
        ∃ t, exec (.processFrameRx clk f) s = .next t ∧ (upOf t k).posted = true ∧ (upOf t k).holds = true ∧ (upOf t k).held = f.payload ∧
          (bit (hdrFlags f) 0 = false →
            (upOf t k).payload = f.payload ∧ (upOf t k).freshTick = some s1.herd.tick ∧ (upOf t k).freshAge = hdrAge f) ∧
          (bit (hdrFlags f) 0 = true →
            (upOf t k).payload = (upOf s k).payload ∧ (upOf t k).freshTick = (upOf s k).freshTick)) ∧
      (∀ s2 k start (c : SlotCopy), checkStatic r.1 f 2 = .accept s2 k start → let o := trailerAt r.1 k f
        be f.payload (o + 4) 4 = safeCrc s.safety.connectionId f.header (f.payload.take (o + 4)) → be f.payload (o + 2) 1 = hdrSrc f →
        seqOk s1 (if f.port / 2 = 0 then (upOf s k).seqA else (upOf s k).seqB) (be f.payload o 2) = true →
        copyOf (upOf s k) (1 - f.port / 2) = some c → (upOf s k).posted = false → (upOf s k).closed = false →
        ∃ t, exec (.safetyFrameRx clk f) s = .next t ∧ (upOf t k).posted = true ∧
          (c.payload = f.payload → c.notReady = false → bit (hdrFlags f) 0 = false →
            (upOf t k).payload = f.payload ∧ (upOf t k).freshTick = some s1.herd.tick ∧ (upOf t k).singleRun = 0) ∧
          (c.payload ≠ f.payload → (upOf t k).mismatch = true ∧ (upOf t k).payload = (upOf s k).payload ∧
            (upOf t k).freshTick = (upOf s k).freshTick))) ∧
    (∀ f : RxFrame, let r := received s1 f
      r.2 = true → (checkDynamic r.1 f).2 = true →
      (hdrType f = 3 → bit (hdrFlags f) 3 = true → netRuns s = true →
        s.net.dynCopies.find? (fun c => c.1 = hdrSlot f) = none → s.net.hostRx.length < 16 →
        ∃ t m, exec (.messageRx clk f) s = .next t ∧ t.net.hostRx = s.net.hostRx ++ [m] ∧ m.src = hdrSrc f ∧ m.flags = hdrFlags f ∧
          m.data = slice f.payload 0 (hdrLen f) ∧ t.reg.intStatus.getLsbD 7 = true) ∧
      (∀ req, hdrType f = 6 → hdrSrc f = s.net.measuring → s.net.reqStart = some req →
        ∃ t, exec (.delayRespRx clk f) s = .next t ∧ t.net.answered = true ∧ (nodeOf t (hdrSrc f)).unanswered = 0 ∧
          (nodeOf t (hdrSrc f)).state = (if (nodeOf s (hdrSrc f)).state = .absent ∨ (nodeOf s (hdrSrc f)).state = .lost then .syncing
            else (nodeOf s (hdrSrc f)).state) ∧
          (nodeOf t (hdrSrc f)).measured = (nodeOf s (hdrSrc f)).measured + (if s.net.answered then 0 else 1))) ∧
    (∀ k, netRuns s = true → imageActive s1 = true → k ∈ upSlots s.objs → (upOf s k).closed = false → slotClose s1 k ≤ (now s1 : Int) * 10 →
      (upOf s k).copyA = none → (upOf s k).copyB = none → (upOf s k).posted = false →
      ∃ t, exec (.slotWindowClose clk k) s = .next t ∧ (upOf t k).closed = true ∧ (upOf t k).posted = true ∧
        (upOf t k).payload = (upOf s k).payload ∧ (upOf t k).freshTick = (upOf s k).freshTick) ∧
    (∀ k, (upOf s k).singleDue = true →
      ∃ t, exec (.safetySingle clk k) s = .next t ∧ (upOf t k).singleDue = false ∧ (upOf t k).payload = (upOf s k).payload)

/-- The network's states (R114, R128, R130, R131, R134, R139, R142, R145, Table 6-2). STARTUP_RX: in LISTEN the module follows the other module
that leads; two modules that start in one window with ROUND 0 both go to BACKOFF. LISTEN_TIMEOUT: eight cycles without a leader lead to
COLDSTART. START_WINDOW_CLOSE: a window without a conflict makes the module the leader, RUNNING where no image is active. BACKOFF_END: COLDSTART
again with ROUND 1, a STARTUP sent by every port. NODE_INTEGRATED: after two measurements and 16 clean ticks, where the node has slots.
NODE_LOST: a node that is silent for the ticks of `tahixa.node_loss_ticks`, or two measurements where it has no slot. DRIFT_WARN: a drift is
reported once. DOWNSTREAM_NIT_START: a ring whose closure copy did not come opens from the next tick. RING_RESTORE_AT: a ring that is restored
is closed again. LINK_SYNC_LOSS and LINK_SYNCHRONISED: a link is down or up, port 4 being the pair port. -/
def Obligations.TahixaStates : Prop :=
  ∀ (clk : Nat) (s : State), let s1 := begin clk s
    (∀ f : RxFrame, let r := received s1 f
      r.2 = true → hdrType f = 7 → hdrSrc f = otherId s → bit (be f.payload 17 1) 0 = false → partner r.1 = true →
      (bit (hdrFlags f) 1 = true → tagOk r.1 f = true) → (∀ c, s.net.startup = some c → c.header ≠ f.header) →
      (s.net.net = .listen →
        ∃ t, exec (.startupRx clk f) s = .next t ∧ t.net.net = .follow ∧ t.net.leader = hdrSrc f) ∧
      (∀ w, s.net.net = .coldstart → s.net.windowStart = some w → (w : Int) ≤ frameStart r.1 f → frameStart r.1 f < w + tickNs s * 10 →
        be f.payload 16 1 = 0 → s.net.round = 0 →
        ∃ t, exec (.startupRx clk f) s = .next t ∧ t.net.net = .backoff ∧
          t.net.backoffEnd = some ((frameStart r.1 f).toNat + tickNs s * 10 + 3 * nodeId s * 1024))) ∧
    (s.net.net = .listen → 8 ≤ s.net.listenCycles →
      ∃ t, exec (.listenTimeout clk) s = .next t ∧ t.net = { s.net with
        net := .coldstart, round := 0, windowStart := none, backoffEnd := none, provisional := false }) ∧
    (∀ w, s.net.net = .coldstart → s.net.windowStart = some w → w + tickNs s * 10 ≤ now s1 * 10 →
      ∃ t, exec (.startWindowClose clk) s = .next t ∧ t.net.leader = nodeId s ∧ t.net.windowStart = none ∧
        (imageActive s = false → t.net.net = .running) ∧ (t.net.net = .starting ∨ t.net.net = .running)) ∧
    (∀ e, s.net.net = .backoff → s.net.backoffEnd = some e → e ≤ now s1 * 10 →
      ∃ t pay, exec (.backoffEnd clk) s = .next t ∧ t.net.net = .coldstart ∧ t.net.round = 1 ∧ t.net.windowStart = some e ∧
        t.out = (sendPorts s1).map (fun p => wireFrame t p ((e : Int) + shiftDown t p).toNat (header s1 7 0 0xFF s1.herd.tick 32768 28 0) pay)) ∧
    (∀ n, nodePresent s.objs n = true → (nodeOf s n).state = .syncing → 2 ≤ (nodeOf s n).measured →
      (slotsOf s n = [] ∨ 16 ≤ (nodeOf s n).cleanTicks) →
      ∃ t, exec (.nodeIntegrated clk n) s = .next t ∧ (nodeOf t n).state = .integrated ∧ ∀ m, m ≠ n → nodeOf t m = nodeOf s m) ∧
    (∀ n, nodePresent s.objs n = true → (nodeOf s n).state = .integrated →
      (if (slotsOf s n).isEmpty then 2 ≤ (nodeOf s n).unanswered else ov s 0x70 0 0x26 ≤ (nodeOf s n).silentTicks) →
      ∃ t, exec (.nodeLost clk n) s = .next t ∧ (nodeOf t n).state = .lost ∧ ∀ m, m ≠ n → nodeOf t m = nodeOf s m) ∧
    (∀ n, (nodeOf s n).driftDue = true →
      ∃ t, exec (.driftWarn clk n) s = .next t ∧ (nodeOf t n).driftDue = false ∧ (nodeOf t n).state = (nodeOf s n).state) ∧
    (netLeads s1 = true → ringMode s.objs = true → (∃ k, (downOf s 0).sent = some k ∧ s.herd.tick ≤ k) →
      tickStart s1 * 10 + 4480 * staticDown s + 1024 * miniSlots (tickNs s) (staticDown s) ≤ now s1 * 10 →
      0 < s.net.rings.length → ringOpen s1 0 = false → (nth {} s.net.rings 0).closureSeen = false →
      ∃ t, exec (.downstreamNitStart clk) s = .next t ∧ (nth {} t.net.rings 0).opening = true ∧
        (nth {} t.net.rings 0).isOpen = (nth {} s.net.rings 0).isOpen) ∧
    (∀ r k, r < s.net.rings.length → (nth {} s.net.rings r).restoreAt = some k → k ≤ s.herd.tick →
      ∃ t, exec (.ringRestoreAt clk r) s = .next t ∧ (nth {} t.net.rings r).isOpen = false ∧ (nth {} t.net.rings r).restoreAt = none) ∧
    (∀ p, p < 5 → s.net.linkUp.getLsbD p = true →
      ∃ t, exec (.linkSyncLoss clk p) s = .next t ∧ t.net.linkUp = s.net.linkUp &&& ~~~(1#5 <<< p) ∧ t.pair.link = (if p = 4 then false else s.pair.link)) ∧
    (∀ p, p < 5 → domainOn s 9 = true →
      ∃ t, exec (.linkSynchronised clk p) s = .next t ∧ t.net.linkUp = s.net.linkUp ||| (1#5 <<< p) ∧ t.pair.link = (if p = 4 then true else s.pair.link))

/-! ### Tasks, loops and kernels -/

/-- The scheduler (R260 to R266). OPERAND_POST: the posted operand next in order is taken; with room for it, every task run that takes it
holds it, and else it is held back and the store stays as it is. TIMED_DUE: a TIMED task run that falls due is marked so, and is allocated where
it has no entry and the store has room. TASK_DISPATCH: a free core starts the task run ranked first, which leaves the store, for its worst-case
time. MATCH_EXPIRED: a task run whose tag lies more than 16 ticks back is freed with an error word, which stands in ERR_WORD unless a word
before it in its clock does. BACKPRESSURE_RELEASE: the operand held back longest stays without room, and is written once there is room. -/
def Obligations.TasksRun : Prop :=
  ∀ (clk : Nat) (s : State), let s1 := begin clk s
    let taken := fun (p : Post) (t : State) => ∀ i ∈ takers s1 p, ∃ x ∈ t.sched.store, x.descriptor = i ∧ x.tag = p.tag ∧ (p.source, p.value, p.age) ∈ x.operands
    (∀ p rest, sortBy postBefore s.sched.posts = p :: rest → p.at_ ≤ now s1 → schedUp s = true →
      ∃ t, exec (.operandPost clk) s = .next t ∧ t.sched.posts = rest ∧
        (needsRoom s1 p = true → (p.source, p.tag, p.value, p.age, now s1) ∈ t.sched.held ∧ t.sched.store = s.sched.store) ∧
        (needsRoom s1 p = false → t.sched.held = s.sched.held ∧ taken p t)) ∧
    (schedUp s = true → ∃ t, exec (.timedDue clk) s = .next t ∧
      (∀ d ∈ dueTimed s1, (entryOf s d.2 s.herd.tick).isSome = true ∨ s.sched.store.length + (dueTimed s1).length ≤ storeSize →
        ∃ x ∈ t.sched.store, x.descriptor = d.2 ∧ x.tag = s.herd.tick ∧ x.due = true) ∧
      ∀ x ∈ s.sched.store, (∀ d ∈ dueTimed s1, d.2 = x.descriptor → x.tag ≠ s.herd.tick) → x ∈ t.sched.store) ∧
    (∀ c x, c < 16 → s.sched.cores.length = 16 → schedUp s = true → coreFree s1 c = true →
      (nth {} s.sched.cores c).running.all (·.done) = true → lowerFirst s1 c = false → pickFor s1 c = some x →
      ∃ t r, exec (.taskDispatch clk c) s = .next t ∧ (nth {} t.sched.cores c).running = some r ∧ r.inst.descriptor = x.descriptor ∧
        r.inst.tag = x.tag ∧ r.start = now s1 ∧ r.finish = now s1 + (nth {} s.sched.descriptors x.descriptor).wcet ∧
        t.sched.store = s.sched.store.filter (fun y => !(y.descriptor = x.descriptor && y.tag = x.tag)) ∧
        ∀ k, k ≠ c → nth {} t.sched.cores k = nth {} s.sched.cores k) ∧
    (∀ x, s.sched.store.find? (fun x => decide (x.tag + 16 < s.herd.tick)) = some x →
      ∃ t, exec (.matchExpired clk) s = .next t ∧
        t.sched.store = s.sched.store.filter (fun y => !(y.descriptor = x.descriptor && y.tag = x.tag)) ∧
        t.reg.errWord = errWordNow s1 (errWord 1 0 17 0 false x.descriptor)) ∧
    (∀ (h : Nat × Nat × Operand × Nat × Nat) rest, s.sched.held = h :: rest →
      let p : Post := { source := h.1, tag := h.2.1, value := h.2.2.1, age := h.2.2.2.1, at_ := h.2.2.2.2 }
      (needsRoom s1 p = true → exec (.backpressureRelease clk) s = .next s1) ∧
      (needsRoom s1 p = false → ∃ t, exec (.backpressureRelease clk) s = .next t ∧ t.sched.held = rest ∧ taken p t))

/-- Loops and kernels (R243, R250, R282, R284). LOOP_EXECUTION: an execution whose operands are in computes its output once its output time
has passed, is done, and keeps the output and its setpoint, the origin of the next. AXIS_FAULT: a loop with a cause found enters its axis fault
with that cause. KERNEL_RUN: the lowest slot due runs once in its tick, after the window opens and the run before it ends; no other slot
changes. KERNEL_WINDOW_CLOSE: a run that has not ended at the close is aborted with an error word, which stands in ERR_WORD unless a word before
it in its clock does. -/
def Obligations.LoopsAndKernels : Prop :=
  ∀ (clk : Nat) (s : State), let s1 := begin clk s
    (∀ c r x, c < s.sched.cores.length → (nth {} s.sched.cores c).running = some r → loopInput s1 r = some x → r.done = false →
      isolated s 2 1 = false → gated s 2 1 = false → r.start + timeOut (loopDims x.objs x.ch x.off) ≤ now s1 →
      ∃ t, exec (.loopExecution clk c) s = .next t ∧ (nth {} t.sched.cores c).running = some { r with done := true } ∧
        (loopState t ((if x.off = 0x60 then 128 else 0) + x.ch)).ran = true ∧
        (loopState t ((if x.off = 0x60 then 128 else 0) + x.ch)).oPrev = x.sp.pos ∧
        (loopState t ((if x.off = 0x60 then 128 else 0) + x.ch)).us =
          (computeOut (loopState s ((if x.off = 0x60 then 128 else 0) + x.ch)) x x.sp.pos (setpointRaw s1 x.sp x.fb.sampleTime)).us) ∧
    (∀ l c, (loopState s l).due = some c →
      ∃ t, exec (.axisFault clk l) s = .next t ∧ (loopState t l).fault = true ∧ (loopState t l).cause = some c ∧ (loopState t l).due = none) ∧
    (∀ k n, dspUp s = true → kernelDue s1 k = true → (∀ j, j < k → kernelDue s1 j = false) → max (windowOpen s1) s.dsp.busyUntil ≤ now s1 →
      now s1 < windowClose s1 → s.dsp.busyUntil < windowClose s1 → k < s.dsp.kernels.length →
      ∃ t, exec (.kernelRun clk k n) s = .next t ∧ (kernelOf t k).lastTick = some s.herd.tick ∧ s.dsp.busyUntil ≤ t.dsp.busyUntil ∧
        ∀ j, j ≠ k → kernelOf t j = kernelOf s j) ∧
    (∀ k m, (kernelOf s k).overrun = some m → m ≠ s.herd.tick ∨ windowClose s1 ≤ now s1 →
      ∃ t, exec (.kernelWindowClose clk k) s = .next t ∧ (kernelOf t k).overrun = none ∧ t.reg.errWord = errWordNow s1 (kernelWord k))

/-! ### Errors, field, encoders and auxiliary axes -/

/-- Errors the hardware finds of itself (R17, R18, R19, R54). ERROR_DETECTED: a corrected or a retried error of a block writes a contained word
at its level, and isolates nothing; one that cannot be repaired isolates its block in the five regions, and writes the word of its part outside
them; a regulator out of range keeps its number among the supplies that are out, and writes a FAULT word. CONTAINED_ERROR_RATE: 16 contained
errors of a block in a second isolate it. DDR_UNCORRECTABLE_ERROR: one in code, plan or image writes a FAULT word, and one in the memory of the
alarms takes the lost entries out and no other. Standard inputs and outputs (R337, R338, R340). INPUT_FILTER_STEP: a raw sample steps the filter
of every input, one of a faulted group as OFF. INPUT_GROUP_FAULT and OUTPUT_GROUP_FAULT: a group is faulted, and that is reported once.
GROUP_FAULT_CLEARED: it comes back with its supply. Every error word is in ERR_WORD unless a word before it in its clock stands there. -/
def Obligations.ErrorsAndInputs : Prop :=
  (∀ (clk : Nat) (s : State), let s1 := begin clk s
    (∀ r b x, blockKnown r b = true → isolated s r b = false → s.hw.brownOut = false →
      (∃ t, exec (.errorDetected clk .corrected r b x) s = .next t ∧ t.reg.errWord = errWordNow s1 (errWord (partLevel r 0) r b 0 false x) ∧
        t.mode.isolated = s.mode.isolated) ∧
      (∃ t, exec (.errorDetected clk .retried r b x) s = .next t ∧ t.reg.errWord = errWordNow s1 (errWord (partLevel r 1) r b 0 false x) ∧
        t.mode.isolated = s.mode.isolated) ∧
      (r ≤ 4 → ∃ t, exec (.errorDetected clk .uncorrected r b x) s = .next t ∧ isolated t r b = true) ∧
      (r = 5 ∨ r = 6 ∨ r = 7 → ∃ t, exec (.errorDetected clk .uncorrected r b x) s = .next t ∧
        t.reg.errWord = errWordNow s1 (errWord (partLevel r 3) r b (if r = 7 ∧ b ≠ 2 then 0 else 3) false x)) ∧
      (∃ t, exec (.errorDetected clk .regulator r b x) s = .next t ∧ (256 + x) ∈ t.hw.supplyOut ∧
        t.reg.errWord = errWordNow s1 (errWord 3 7 2 3 false x)) ∧
      (r ≤ 4 → 16 ≤ containedCount s1 r b → ∃ t, exec (.containedErrorRate clk r b) s = .next t ∧ isolated t r b = true)) ∧
    (∀ area first n, domainOn s 14 = true ∨ s.start.running = true →
      (area ≤ 2 → ∃ t e, exec (.ddrUncorrectableError clk area first n) s = .next t ∧ t.reg.errWord = errWordNow s1 (errWord 3 5 1 3 false e)) ∧
      (area = 4 →
        ∃ t e, exec (.ddrUncorrectableError clk area first n) s = .next t ∧ t.reg.errWord = errWordNow s1 (errWord 3 5 1 0 false e) ∧
          (∀ e ∈ t.logs.alarms, e.ecc = true ∨ (e ∈ s.logs.alarms ∧ ¬(first ≤ e.seq ∧ e.seq < first + n))) ∧
          ∀ e ∈ s.logs.alarms, ¬(first ≤ e.seq ∧ e.seq < first + n) → e ∈ t.logs.alarms))) ∧
  (∀ (clk : Nat) (s : State), let s1 := begin clk s
    fieldUp s 0 = true →
    (∀ raw, ∃ t, exec (.inputFilterStep clk raw) s = .next t ∧
      ∀ n, n < 32 → inputOf t n = filterInput s.objs n (now s1 / 10000 * 10000) (bit raw n && !s.field.inGroup.getLsbD (n / 8)) (inputOf s n)) ∧
    (∀ g mv, g < 4 → mv < 18000 →
      ∃ t, exec (.inputGroupFault clk g mv) s = .next t ∧ t.field.inGroup = s.field.inGroup ||| (1#4 <<< g) ∧
        (s.field.inGroup.getLsbD g = true → t.reg = s.reg) ∧
        (s.field.inGroup.getLsbD g = false → t.reg.errWord = errWordNow s1 (errWord 1 4 0 0 false (32 + g)))) ∧
    (∀ g mv, g < 2 →
      ∃ t, exec (.outputGroupFault clk g mv) s = .next t ∧ t.field.outGroup = s.field.outGroup ||| (1#2 <<< g) ∧
        (s.field.outGroup.getLsbD g = true → t.reg = s.reg) ∧
        (s.field.outGroup.getLsbD g = false → t.reg.errWord = errWordNow s1 (errWord 1 4 0 0 false (36 + g)))) ∧
    (∀ g mv, 18000 ≤ mv →
      (g < 4 → ∃ t, exec (.groupFaultCleared clk false g mv) s = .next t ∧ t.field.inGroup = s.field.inGroup &&& ~~~(1#4 <<< g) ∧
        t.field.outGroup = s.field.outGroup) ∧
      (g < 2 → ∃ t, exec (.groupFaultCleared clk true g mv) s = .next t ∧ t.field.outGroup = s.field.outGroup &&& ~~~(1#2 <<< g) ∧
        t.field.inGroup = s.field.inGroup)))

/-- Encoder interfaces (R343 to R352). On an ABZ interface: ENCODER_EDGE counts an edge of A or B up where A leads B and down where B does, and
two changes at once as an error that makes the next latch stale; ENCODER_INDEX with mode 1 puts the position at its value; LINE_FAULT stops the
counting, with an error word that is in ERR_WORD unless a word before it in its clock is, and ENCODER_LINE_RESTORED ends the fault with the
levels found; ENCODER_STANDSTILL notes standstill after `enc.stand_ms`; TICK_LATCH takes the position at its offset. On an absolute interface:
ENCODER_TRANSACTION_START clocks it or sends its request, ENCODER_WORD_RECEIVED with a valid word gives its latch, an invalid one leaves the
latch stale, and ENCODER_TIMEOUT ends a transaction without an answer. EMULATED_EDGE sends one edge of a repeater for each count. -/
def Obligations.EncodersCount : Prop :=
  ∀ (clk e : Nat) (s : State), let s1 := begin clk s
    let x := encOf s e
    fieldUp s 2 = true → e < s.field.encoders.length →
    (eo s e 0 = 1 → x.lineFault = false →
      (∀ a b, (x.a, x.b) ≠ (a, b) →
        ∃ t, exec (.encoderEdge clk e a b) s = .next t ∧ (encOf t e).a = a ∧ (encOf t e).b = b ∧
          (quadPhase a b = (quadPhase x.a x.b + 1) % 4 → (encOf t e).r = x.r + 1 ∧ (eo s e 2 ≠ 1 → (encOf t e).p = x.r + 1)) ∧
          (quadPhase x.a x.b = (quadPhase a b + 1) % 4 → (encOf t e).r = x.r - 1 ∧ (eo s e 2 ≠ 1 → (encOf t e).p = x.r - 1)) ∧
          (quadPhase a b = (quadPhase x.a x.b + 2) % 4 → (encOf t e).r = x.r ∧ (encOf t e).p = x.p ∧ (encOf t e).dirty = true)) ∧
      (x.a = true → x.b = true → x.z = false →
        ∃ t, exec (.encoderIndex clk e true) s = .next t ∧ (encOf t e).indexTime = now s1 ∧ (encOf t e).z = true ∧
          (eo s e 5 = 1 → (encOf t e).p = sext 64 (eo s e 6) ∧ (encOf t e).r = sext 64 (eo s e 6)) ∧
          (eo s e 5 = 0 → (encOf t e).p = x.p))) ∧
    (eo s e 0 ≠ 0 → x.lineFault = false →
      ∃ t, exec (.lineFault clk e) s = .next t ∧ (encOf t e).lineFault = true ∧ (encOf t e).dirty = true ∧ (encOf t e).p = x.p ∧
        t.reg.errWord = errWordNow s1 (errWord 1 4 2 0 false e)) ∧
    (∀ a b z, x.lineFault = true →
      ∃ t, exec (.encoderLineRestored clk e a b z) s = .next t ∧
        encOf t e = { x with lineFault := false, word := none, a := a, b := b, z := z }) ∧
    (eo s e 0 ≠ 0 → x.lastChange + standNs s e ≤ now s1 →
      ∃ t, exec (.encoderStandstill clk e) s = .next t ∧ encOf t e = { x with standstill := true }) ∧
    (s.herd.running = true → eo s e 0 = 1 → x.latchTick ≠ some s.herd.tick → tickStart s1 + eo s e 9 ≤ now s1 →
      ∃ t, exec (.tickLatch clk e) s = .next t ∧ (encOf t e).latchTick = some s.herd.tick ∧ (encOf t e).dirty = false ∧
        (x.dirty = false → x.lineFault = false → (encOf t e).latch.p = x.p ∧ (encOf t e).fresh = true ∧ (encOf t e).age = 0) ∧
        (x.dirty = true ∨ x.lineFault = true → (encOf t e).latch = x.latch ∧ (encOf t e).fresh = false ∧ (encOf t e).age = min 255 (x.age + 1))) ∧
    (s.herd.running = true → tickStart s1 + eo s e 9 ≤ now s1 →
      (eo s e 0 = 2 → ∃ t, exec (.encoderTransactionStart clk e) s = .next t ∧ (encOf t e).transaction = some (tickStart s1 + eo s e 9) ∧
        t.out = [.request e []]) ∧
      (eo s e 0 = 3 → ∃ t, exec (.encoderTransactionStart clk e) s = .next t ∧
        (encOf t e).transaction = some (tickStart s1 + eo s e 9 + 40 * linkBit s e) ∧ t.out = [.request e (linkRequest s e)])) ∧
    (∀ ref (reply : EncoderReply), x.transaction = some ref → 2 ≤ eo s e 0 →
      let w := if eo s e 0 = 2 then ssiWord s e reply else linkWord s e reply
      (w.2 = [] → x.lineFault = false →
        ∃ t, exec (.encoderWordReceived clk e reply) s = .next t ∧ (encOf t e).transaction = none ∧ (encOf t e).fresh = true ∧
          (encOf t e).latch.t = ((ref : Int) + sext 32 (eo s e 0x18)).toNat ∧
          (x.word = none → (encOf t e).p = (w.1 : Int) ∧ (encOf t e).latch.p = (w.1 : Int))) ∧
      (w.2 ≠ [] →
        ∃ t, exec (.encoderWordReceived clk e reply) s = .next t ∧ (encOf t e).transaction = none ∧ (encOf t e).fresh = false ∧
          (encOf t e).latch = x.latch ∧ (encOf t e).p = x.p)) ∧
    (∀ ref, x.transaction = some ref → eo s e 0 = 3 → ref + eo s e 0x17 * 1000 ≤ now s1 →
      ∃ t, exec (.encoderTimeout clk e) s = .next t ∧ (encOf t e).transaction = none ∧ (encOf t e).fresh = false ∧
        (encOf t e).age = min 255 (x.age + 1)) ∧
    (∀ d r, eo s e 0x0F = 2 → x.emuQueue = d :: r → d ≠ 0 → (x.lastEmu = 0 ∨ x.lastEmu + 50 ≤ now s1) →
      ∃ t, exec (.emulatedEdge clk e) s = .next t ∧ (encOf t e).lastEmu = now s1 ∧ emuCount (encOf t e).emuQueue + 1 = emuCount x.emuQueue ∧
        quadPhase (encOf t e).qa (encOf t e).qb = (quadPhase x.qa x.qb + (if 0 < d then 1 else 3)) % 4)

/-- Auxiliary axes (R236, R354 to R362). PHASE_ACCUMULATOR_CARRY: a count that the accumulator has passed steps the axis by one in its
direction, on an enabled STEP/DIR axis with a STEP pulse of the width of `joint.step_width_ns` after `aux.dir_setup_ns`. CURRENT_SAMPLE: the
codes of both phases less 2,048 join the sums of the tick, and the bridges of an axis that does not drive are off. REFERENCE_INSTANT: the
reference takes the newest output of the loop that is 40 ns old, between 0 and the largest current. CHOPPER_FALLBACK: the change of chopper that
is due is made. STALL: a stall that is due is noted. AUX_FEEDBACK_POST: the feedback operand is formed, of the accumulator where the axis has no
encoder, and posted 400 ns later. -/
def Obligations.AuxiliaryAxes : Prop :=
  ∀ (clk k : Nat) (s : State), let s1 := begin clk s
    fieldUp s 1 = true → k < 8 → s.field.axes.length = 8 →
    (accNow s1 k ≠ (accOf s k).count → let up := decide ((accOf s k).count < accNow s1 k)
      ∃ t, exec (.phaseAccumulatorCarry clk k) s = .next t ∧ (accOf t k).count = (if up then (accOf s k).count + 1 else (accOf s k).count - 1) ∧
        (axisOf t k).dir = up ∧
        (ao s k 0 = 2 → auxEnabled s k = true → t.out = [.stepPulse k up (now s1 + ao s k 0x1D) (ov s 0x21 (64 + k) 0x10)])) ∧
    (∀ a b, ∃ t, exec (.currentSample clk k a b) s = .next t ∧ (axisOf t k).phaseA.sample = ((a % 4096 : Nat) : Int) - 2048 ∧
      (axisOf t k).phaseB.sample = ((b % 4096 : Nat) : Int) - 2048 ∧ (axisOf t k).phaseA.count = (axisOf s k).phaseA.count + 1 ∧
      (axisOf t k).phaseA.sum = (axisOf s k).phaseA.sum + (((a % 4096 : Nat) : Int) - 2048) ∧
      (axisOf t k).phaseB.count = (axisOf s k).phaseB.count + 1 ∧
      (axisOf t k).phaseB.sum = (axisOf s k).phaseB.sum + (((b % 4096 : Nat) : Int) - 2048) ∧
      (auxDrives s k = false → (axisOf t k).phaseA.bridge = .off ∧ (axisOf t k).phaseB.bridge = .off)) ∧
    (∀ c u, auxLoop s k = true →
      ((axisOf s k).outputs.filter (fun o => decide (o.1 + 40 ≤ tickStart s1 + (now s1 - tickStart s1) / 2000 * 2000))).getLast? = some (c, u) →
      ∃ t, exec (.referenceInstant clk k) s = .next t ∧ (axisOf t k).iRef = fClamp 0 (aoF s k 8) u) ∧
    (∀ h, (axisOf s k).chopDue = some h →
      ∃ t, exec (.chopperFallback clk k) s = .next t ∧ (axisOf t k).hysteresis = h ∧ (axisOf t k).chopDue = none) ∧
    ((axisOf s k).stallDue = true → ∃ t, exec (.stall clk k) s = .next t ∧ (axisOf t k).stall = true ∧ (axisOf t k).stallDue = false) ∧
    (let e := ao s k 3
     let absolute := decide (e < 8) && decide (2 ≤ eo s e 0)
     s.herd.running = true → (axisOf s k).fbTick ≠ some s.herd.tick → tickStart s1 + ao s k 5 ≤ now s1 →
      (absolute = true → (encOf s e).latchTick = some s.herd.tick) →
      ∃ t fb, exec (.auxFeedbackPost clk k) s = .next t ∧ tget {} t.ctl.feedback (64 + k) = fb ∧ (axisOf t k).fbTick = some s.herd.tick ∧
        (8 ≤ e → fb.position = sext 64 (wrap 64 (accNow s1 k * 2 ^ 32)) ∧ fb.age = 0) ∧ (e < 8 → fb.age = (encOf s e).age) ∧
        fb.sampleTime = (if absolute then (encOf s e).latch.t else tickStart s1 + ao s k 5) ∧ fb.torqueOn = auxEnabled s k ∧
        ∃ p ∈ t.sched.posts, p.source = 0x1000 + 64 + k ∧ p.tag = s.herd.tick ∧
          p.at_ = (if absolute then now s1 else tickStart s1 + ao s k 5) + 400)

/-! ### Time -/

/-- The sources of herd time (R89 to R97, R102). PTP_SYNC_RX: a Sync of the parent measures a LISTENING domain, which is UNCALIBRATED after it.
PTP_MESSAGE_RX: a domain of role GRANDMASTER with delay mechanism 0 answers a Delay_Req. PTP_TRANSMIT_INTERVAL: a GRANDMASTER whose Sync interval
has passed sends a Sync and a Follow_Up with its port timestamp. SOURCE_LOCKED: a domain with 16 measurements in a row within the threshold is
LOCKED, and the preferred domain is followed at its first lock; herd time with 16 is LOCKED. SYNC_TIMEOUT: without a Sync for three intervals a
measuring domain is LOST. ANNOUNCE_RECEIPT_TIMEOUT: without an Announce for three intervals the parent is forgotten. REVERT_TIMER: the preferred
domain is followed again once it has stayed LOCKED for `time.revert_s`. SLEW_END: a slew that has ended leaves no term. PPS_IN_EDGE: an
accepted edge is kept, and measures herd time where the source is EXTREF. PPS_TIMEOUT: 1.5 s without an edge lose PPS_IN and a followed EXTREF.
PPS_OUT_EDGE: herd time goes on to the next edge of PPS_OUT before the next tick start, and a second that was given is not given again.
PAIR_TIME_EXCHANGE: a time exchange over the pair port is measured. AON_STORE: every millisecond AON takes herd time and the integral. -/
def Obligations.HerdTimeSources : Prop :=
  (∀ (clk d : Nat) (s : State), let s1 := begin clk s
    d < 2 → s.herd.domains.length = 2 →
    (∀ m a, takesPtp s m = true → m.messageType = 0 → forDomain s m d = true → forDomain s m (1 - d) = false → domainRole s d = 1 →
      (domainOf s d).parent = some a → a.sender = m.source → (domainOf s d).state = .listening →
      (timeSource s = 1 → s.herd.selected ≠ some d) →
      ∃ t, exec (.ptpSyncRx clk m) s = .next t ∧ (domainOf t d).state = .uncalibrated ∧
        (domainOf t d).lastSync = some (rxStamp s (5 + m.port) m.capture) ∧ (domainOf t d).lastMeasure = some (now s1) ∧
        (domainOf t d).offset = (rxStamp s (5 + m.port) m.capture : Int) * 65536 - m.timestamp -
          ((domainOf s d).meanPath + asymOf s (5 + m.port)) - m.correction) ∧
    (∀ m, takesPtp s m = true → m.messageType = 1 → forDomain s m d = true → forDomain s m (1 - d) = false → domainRole s d = 2 →
      ov s 0x80 (0x10 + d) 3 = 0 →
      ∃ t, exec (.ptpMessageRx clk m) s = .next t ∧
        t.out = [.ptp d m.port 9 m.sequenceId [(rxStamp s (5 + m.port) m.capture : Int) * 65536 - m.correction, m.source]]) ∧
    (s.herd.running = true → ptpDown s = false → domainRole s d = 2 → ov s 0x80 0 0x14 ≠ 1 →
      (∀ x, (domainOf s d).syncSent = some x → x + logInterval (sext 16 (ov s 0x80 (0x10 + d) 5)) ≤ now s1) →
      ∃ t, exec (.ptpTransmitInterval clk d 0) s = .next t ∧ (domainOf t d).syncSeq = ((domainOf s d).syncSeq + 1) % 65536 ∧
        (domainOf t d).syncSent = some (now s1) ∧
        t.out = (takeStamps s1).out ++ [.ptp d (ov s 0x80 (0x10 + d) 1) 0 (domainOf s d).syncSeq [],
          .ptp d (ov s 0x80 (0x10 + d) 1) 8 (domainOf s d).syncSeq [(txStamp s1 (5 + ov s 0x80 (0x10 + d) 1) : Int) * 65536]]) ∧
    ((domainOf s d).lockRun = 16 → (domainOf s d).state = .uncalibrated →
      ∃ t, exec (.sourceLocked clk d) s = .next t ∧ (domainOf t d).state = .locked ∧ (domainOf t d).lockedSince = some (now s1) ∧
        (timeSource s = 1 → domainRole s d = 1 → ov s 0x80 0 7 = d → (domainOf s d).everLocked = false → t.herd.selected = some d)) ∧
    (s.herd.lockRun = 16 → s.herd.state = .acquiring → ∃ t, exec (.sourceLocked clk 2) s = .next t ∧ t.herd.state = .locked) ∧
    (∀ x, measuring s d = true → (domainOf s d).lastSync = some x → x + 3 * logInterval (sext 16 (ov s 0x80 (0x10 + d) 5)) ≤ now s1 →
      ∃ t, exec (.syncTimeout clk d) s = .next t ∧ (domainOf t d).state = .lost ∧ (domainOf t d).lastSync = none) ∧
    (∀ x, domainRole s d = 1 → (domainOf s d).lastAnnounce = some x → x + 3 * logInterval (domainOf s d).announceInterval ≤ now s1 →
      ∃ t, exec (.announceReceiptTimeout clk d) s = .next t ∧ (domainOf t d).parent = none ∧ (domainOf t d).lastAnnounce = none)) ∧
  (∀ (clk : Nat) (s : State), let s1 := begin clk s
    (∀ x, timeSource s = 1 → ov s 0x80 0 8 ≠ 0 → domainLocked s (ov s 0x80 0 7) = true →
      s.herd.selected = some (1 - ov s 0x80 0 7) → (domainOf s (ov s 0x80 0 7)).lockedSince = some x → x + ov s 0x80 0 8 * 1000000000 ≤ now s1 →
      ∃ t, exec (.revertTimer clk) s = .next t ∧ t.herd.selected = some (ov s 0x80 0 7) ∧ t.herd.state = .acquiring ∧
        t.herd.integral = (domainOf s (ov s 0x80 0 7)).integral) ∧
    (s1.herd.slewRem = 0 → ∃ t, exec (.slewEnd clk) s = .next t ∧ t.herd = { s1.herd with slewTerm := 0 }) ∧
    (∀ q, s.herd.running = true → isolated s 3 5 = false →
      (timeSource s ≠ 2 →
        ∃ t, exec (.ppsInEdge clk q) s = .next t ∧ t.herd = { s1.herd with lastPps := some (nearestNs q), ppsRejectRun := 0 }) ∧
      (timeSource s = 2 → s.herd.state ≠ .locked → ppsClosed s1 (nearestNs q) = false →
        ∃ t, exec (.ppsInEdge clk q) s = .next t ∧ t.herd.lastPps = some (nearestNs q) ∧ t.herd.ppsRejectRun = 0 ∧
          t.herd.lastMeasure = some (now s1) ∧ t.herd.following = true)) ∧
    (∀ x, s.herd.lastPps = some x → x + 1500000000 ≤ now s1 →
      ∃ t, exec (.ppsTimeout clk) s = .next t ∧ t.herd.lastPps = none ∧
        (timeSource s = 2 → s.herd.following = true → t.herd.state = .holdover)) ∧
    (let e := nextPps s1
     let s2 := advance e.2 s1
     (s.herd.running = true → isolated s 3 5 = false → e.2 ≤ clocksTo s1 (nextTick s1) →
      ∃ t, exec (.ppsOutEdge clk) s = .next t ∧ t.out = [.pps (now s2)] ∧ t.herd = { s2.herd with ppsSecond := some e.1.toNat }) ∧
     (let k := (herdPos s1.herd - sext 16 (ov s 0x80 0 0x11) * 2 ^ 30) / (1000000000 * fracUnit)
      s.herd.ppsSecond = some k.toNat → e.1 = k + 1)) ∧
    (∀ a b c d, s.herd.running = true → timeSource s = 3 → pairDown s = false → isolated s 3 5 = false → s.herd.following = true →
      s.herd.state = .acquiring →
      ∃ t, exec (.pairTimeExchange clk a b c d) s = .next t ∧ t.herd.lastMeasure = some (now s1) ∧ t.herd.following = true ∧
        t.herd.lastOffset = (let t1 := (a : Int) * 65536; let t2 := (rxStamp s 4 b : Int) * 65536;
          let t3 := (nearestNs ((c : Int) + egressQ s 4) : Int) * 65536; let t4 := (d : Int) * 65536;
          t2 - t1 - ((t2 - t1 + t4 - t3) / 2 + asymOf s 4))) ∧
    (s.herd.running = true → (∀ v, s.aon.herd = some v → v.1 + 1000000 ≤ now s1 ∨ now s1 < v.1) →
      ∃ t, exec (.aonStore clk) s = .next t ∧ t.aon.herd = some (now s1, s.herd.integral) ∧ t.aon.timer = 0 ∧ t.herd = s1.herd))

/-! ### Supplies, resets, clocks and power -/

/-- What every reset of the core die leaves (R15, R38, R432, R434, R443, R457): BOOT with no row begun, every session CLOSED, no image active,
no interrupt pending, herd time at rest, and nothing of the keys, of the image in NOR or of the commands that wait changed. MOD_RESET_N and
SUPERVISOR_WATCHDOG_EXPIRY keep Chamois and AON as they were; so does BROWN_OUT Chamois, and it loses AON and every
domain. POWER_ON after a brown-out brings the same with the new input; after a removed input it clears Chamois's stop latch and sets its start
latch. LOW_INPUT takes MOD_PG away and writes an error word; HIGH_INPUT takes it away too. VIN_BACK_IN_RANGE brings it back, or a regulator into
range. DIE_TEMPERATURE is taken as it is, each of its two thresholds with its hysteresis. -/
def Obligations.ResetsAndSupplies : Prop :=
  ∀ (clk mv : Nat) (s : State), let s1 := begin clk s
    let bare := fun (t : State) => t.mode.mode = .boot ∧ t.mode.accepted = none ∧ t.mode.target = none ∧ (∀ m, m < 8 → (mbx t m).state = .closed) ∧
      imageActive t = false ∧ t.reg.intStatus = 0 ∧ t.herd.running = false ∧ t.sec.hmac = s.sec.hmac ∧ t.sec.customer = s.sec.customer ∧
      t.sec.otp = s.sec.otp ∧ t.nor.image = s.nor.image ∧ t.pending = s.pending
    (s.hw.brownOut = false →
      ∃ t, exec (.modResetN clk) s = .next t ∧ bare t ∧ t.cham = s.cham ∧ t.aon = s1.aon) ∧
    (domainOn s 1 = true →
      ∃ t, exec (.supervisorWatchdogExpiry clk) s = .next t ∧ bare t ∧ t.cham = s.cham ∧ t.aon = s1.aon) ∧
    (mv < 10200 → ∃ t, exec (.brownOut clk mv) s = .next t ∧ bare t ∧ t.hw.brownOut = true ∧ t.power.on = 0 ∧ t.aon = {} ∧ t.cham = s.cham ∧
      t.hw.vin = mv ∧ t.hw.modPg = false) ∧
    (10800 ≤ mv → s.hw.brownOut = true →
      ∃ t, exec (.powerOn clk mv false) s = .next t ∧ bare t ∧ t.hw.brownOut = false ∧ t.aon = {} ∧ t.cham = s.cham ∧ t.hw.vin = mv) ∧
    (10800 ≤ mv → ∃ t, exec (.powerOn clk mv true) s = .next t ∧ bare t ∧ t.hw.brownOut = false ∧ t.aon = {} ∧ t.hw.vin = mv ∧
      t.cham.startLatch = true ∧ t.cham.stoLatch = false ∧ t.cham.digest = s.cham.digest) ∧
    (10200 ≤ mv → mv < 10800 → s.hw.brownOut = false →
      ∃ t, exec (.lowInput clk mv) s = .next t ∧ t.hw.vin = mv ∧ t.hw.modPg = false ∧ t.reg.errWord = errWordNow s1 (vinWord 0)) ∧
    (13600 < mv → s.hw.brownOut = false →
      ∃ t, exec (.highInput clk mv) s = .next t ∧ t.hw.vin = mv ∧ t.hw.vinHigh = true ∧ t.hw.modPg = false) ∧
    (10800 ≤ mv → mv ≤ 13200 → s.hw.brownOut = false →
      ∃ t, exec (.vinBackInRange clk 0 mv) s = .next t ∧ t.hw.vin = mv ∧ t.hw.vinHigh = false ∧ t.hw.modPg = true) ∧
    (∀ n, n ≠ 0 → ∃ t, exec (.vinBackInRange clk n mv) s = .next t ∧ n ∉ t.hw.supplyOut ∧ t.hw.vin = s.hw.vin) ∧
    (∀ x : Int, ∃ t, exec (.dieTemperature clk x) s = .next t ∧ t.hw.dieTemp = x ∧
      t.hw.thermLow = (if s.hw.thermLow then decide (1050 ≤ x) else decide (1100 < x)) ∧
      t.hw.overTemp = (if s.hw.overTemp then decide (1200 ≤ x) else decide (1250 < x)))

/-- Clocks (R382, R383, R386 to R389, R398). CRYSTAL_STABLE: a crystal that is stable between 1 ms and 4.5 ms after B03 began is OK, and the
reference to switch to. MUX_SWITCH: a switch that ends is in force; FORCED_SWITCH: a forced one sets its event bit as well. PLL_RELOCK: outside
a switch, and in B03 within 0.5 ms of the crystal, a PLL relocks; PLL_UNLOCK: a locked one outside holdover loses its lock, with its event bit
and an error word. CLOCK_LOSS: a source without edges is not OK. CLOCK_MONITOR_WINDOW: the fourth bad window in a row is a loss, and a good one
begins the row again and makes a source that was not lost OK. CLOCK_SOURCE_RECOVERED: a second without a bad window makes a lost source OK
again. RC_TRIM and DOMAIN_FREQUENCY_MEASUREMENT are taken as they are. -/
def Obligations.ClocksWatched : Prop :=
  ∀ (clk : Nat) (s : State), let s1 := begin clk s
    (inB03 s = true → s.start.since + 250000 ≤ s1.clock → s1.clock ≤ s.start.since + 1125000 → s.clocks.reference = .rc → s.clocks.lost = none →
      s.clocks.switching = none → s.clocks.next = none →
      ∃ t, exec (.crystalStable clk) s = .next t ∧ t.clocks.switching = some .crystal ∧ t.clocks.ok.getLsbD 0 = true ∧ t.clocks.reference = .rc) ∧
    (∀ r, s.clocks.switching = some r →
      (∃ t, exec (.muxSwitch clk) s = .next t ∧ t.clocks.reference = r ∧ t.clocks.next = none) ∧
      (∃ t, exec (.forcedSwitch clk) s = .next t ∧ t.clocks.reference = r ∧ t.clocks.event.getLsbD 5 = true)) ∧
    (∀ n, n < 5 →
      (s.clocks.switching = none → (inB03 s = true → s1.clock ≤ nth 0 s.clocks.okSince 0 + 125000) →
        ∃ t, exec (.pllRelock clk n) s = .next t ∧ t.clocks = { s.clocks with
          pllLock := s.clocks.pllLock ||| (1#5 <<< n), pllHoldover := s.clocks.pllHoldover &&& ~~~(1#5 <<< n) }) ∧
      (s.clocks.pllHoldover.getLsbD n = false → s.clocks.pllLock.getLsbD n = true →
        ∃ t, exec (.pllUnlock clk n) s = .next t ∧ t.clocks.pllLock.getLsbD n = false ∧ t.clocks.event.getLsbD 4 = true ∧
          t.reg.errWord = errWordNow s1 (clockWord 3 (8 + n)))) ∧
    (∀ n, n < 4 →
      (s.clocks.ok.getLsbD n = true → ∃ t, exec (.clockLoss clk n) s = .next t ∧ t.clocks.ok.getLsbD n = false ∧
        t.clocks.gone.getLsbD n = true ∧ t.clocks.event.getLsbD n = true) ∧
      (∀ c : Nat, 200 * ((c : Int) - expectedEdges n).natAbs ≤ expectedEdges n → s.clocks.badWindows.length = 4 →
        ∃ t, exec (.clockMonitorWindow clk n c) s = .next t ∧ nth 0 t.clocks.badWindows n = 0 ∧
          (s.clocks.gone.getLsbD n = false → t.clocks.ok.getLsbD n = true)) ∧
      (∀ c : Nat, expectedEdges n < 200 * ((c : Int) - expectedEdges n).natAbs → nth 0 s.clocks.badWindows n = 3 → s.clocks.ok.getLsbD n = true →
        ∃ t, exec (.clockMonitorWindow clk n c) s = .next t ∧ t.clocks.ok.getLsbD n = false ∧ t.clocks.gone.getLsbD n = true) ∧
      (s.clocks.gone.getLsbD n = true → nth 0 s.clocks.badSince n + clkSecond ≤ s1.clock →
        ∃ t, exec (.clockSourceRecovered clk n) s = .next t ∧ t.clocks.ok.getLsbD n = true ∧ t.clocks.gone.getLsbD n = false)) ∧
    (∀ x : Int, s.clocks.reference ≠ .rc → s.clocks.ok.getLsbD (refCode s.clocks.reference) = true →
      ∃ t, exec (.rcTrim clk x) s = .next t ∧ t.clocks = { s.clocks with rcTrim := x }) ∧
    (∀ l : List Nat, ∃ t, exec (.domainFrequencyMeasurement clk l) s = .next t ∧ t.clocks.khz.length = 10 ∧
      ∀ i, i < 10 → nth 0 t.clocks.khz i = nth 0 l i % 2 ^ 32)

/-- Power domains and the start (R45, R48, R51, R383, R394, R395). DOMAIN_OFF: the first domain of a sequence goes off. DOMAIN_POWER_GOOD: a
domain of the group that ramps comes on. DRAIN_TIMEOUT: a drain that takes too long is counted. DOMAIN_POWER_GOOD_TIMEOUT: outside a start
attempt, a regulator that does not come up is out of range. START_ATTEMPT: an attempt begins with B01 when nothing has started, and a good
result of B01 begins B02, which loads the record that is valid, counts the attempt and goes over to a rescue start after three failures.
START_STEP_TIMEOUT: a step that has used up its budget before B07 ends in a module reset, but B03 of a rescue start goes on with PCIe alone. -/
def Obligations.DomainsAndStart : Prop :=
  ∀ (clk d : Nat) (s : State), let s1 := begin clk s
    (∀ rest, d < 16 → s.power.toOff = d :: rest →
      ∃ t, exec (.domainOff clk d) s = .next t ∧ t.power.on = s.power.on &&& ~~~(1#16 <<< d) ∧ t.power.toOff = rest) ∧
    (∀ rest, d < 16 → s.power.toOff = [] → s.power.toOn = [d] :: rest →
      ∃ t, exec (.domainPowerGood clk d) s = .next t ∧ t.power.on = s.power.on ||| (1#16 <<< d) ∧ t.power.toOn = rest ∧ d ∉ t.hw.supplyOut) ∧
    (∀ rest, s.power.toOff = d :: rest → ∃ t, exec (.drainTimeout clk d) s = .next t ∧ t.power = s.power ∧
      t.objs = oput s.objs (okey 0xB0 1 3) (countUp 1 (ov s 0xB0 1 3) s.freeCount)) ∧
    (1 ≤ d → d ≤ 15 → s.start.running = false →
      ∃ t, exec (.domainPowerGoodTimeout clk d) s = .next t ∧ d ∈ t.hw.supplyOut ∧
        t.reg.errWord = errWordNow s1 (errWord 3 5 2 3 false (0x100 + d))) ∧
    (s.start.done = false → s.start.rescue = false → s.start.running = false → s.start.failDue = false → s.hw.brownOut = false →
      (∃ t, exec (.startAttempt clk []) s = .next t ∧ t.start.running = true ∧ t.start.step = 0) ∧
      (∃ t, exec (.startAttempt clk [.ok]) s = .next t ∧ t.start.running = true ∧ t.start.step = 1 ∧
        t.start.loaded = ((if s.aon.crcOk then s.aon.record else none).orElse (fun _ => s.nor.record)).getD {} ∧
        t.start.rescueStart = decide (3 ≤ t.start.loaded.consecFailed) ∧
        (t.start.rescueStart = false → t.start.record.consecFailed = satNat 8 (t.start.loaded.consecFailed + 1) ∧
          t.start.record.startSeq = (t.start.loaded.startSeq + 1) % 2 ^ 32))) ∧
    (s.start.running = true → s.start.step < 6 → s.mode.mode = .boot → budgetNs s1 (stepNow s1) ≤ stepSpent s1 →
      (s.start.step = 2 ∧ s.start.rescueStart = true →
        ∃ t, exec (.startStepTimeout clk) s = .next t ∧ t.start.rescue = true ∧ t.start.rescuePcieOnly = true ∧ t.start.running = false) ∧
      (¬(s.start.step = 2 ∧ s.start.rescueStart = true) →
        ∃ t, exec (.startStepTimeout clk) s = .next t ∧ Output.moduleReset ∈ t.out ∧ t.mode.mode = .boot ∧ t.start.running = false))

/-! ### Captures and the redundant pair -/

/-- The redundant pair (R5, R401 to R410). TOKEN_RENEWAL: the holder renews its token at a renewal instant and sends it over the pair port and
as a frame with its fields big-endian; a standby counts a renewal it has not seen. TOKEN_MESSAGE_RX: a renewal of the other module extends the
latest end. TOKEN_LEASE_EXPIRY: its lease run out, the holder holds no more. TAKEOVER: a standby takes the token when it may, with the next
epoch. MIRROR_SET_RX: a mirrored set joins the mirror, and its tick is the mirror's where the set is complete. MIRROR_AGE_LIMIT: a mirror that is
too old makes the module NOT_READY. PLAN_ACK_RX: the holder notes the acknowledgement of a plan. PAIR_SAFETY_STATUS_RX: the other module's
status brings its stop states. PEER_SILENT: it is silent after eight evaluations. PAIR_REVERT_TIMER: a hand-over is asked for by the designated
primary. HANDOVER_REQUEST_RX: a request is answered with the second period start, the answer with an acknowledgement, which the holder notes, and
the word of a swap with a request. HANDOVER_ACK_TIMEOUT: without its acknowledgement a hand-over is dropped. HANDOVER_AT: it is made at its
instant, on both sides. -/
def Obligations.PairWorks : Prop :=
  ∀ (clk : Nat) (s : State), let s1 := begin clk s
    pairOn s.objs = true →
    (imageActive s = true →
      (s.pair.role = .holder → mayRenew s = true → now s1 < s.pair.token.leaseEnd → s.pair.handOver = none → pairDown s = false →
        ∃ t, exec (.tokenRenewal clk) s = .next t ∧ t.pair.token = { s.pair.token with leaseEnd := now s1 / 500000 * 500000 + leaseNs s } ∧
          t.pair.latestEnd = t.pair.token.leaseEnd ∧ t.out = [.token t.pair.token] ∧
          (let data := beBytes 4 t.pair.token.epoch ++ beBytes 1 t.pair.token.holder ++ zeros 3 ++ beBytes 8 t.pair.token.leaseEnd
           t.net.firmwareTx = s.net.firmwareTx ++ [{ dst := otherId s, tsReq := false, tagged := false, frameId := 0, data := data }])) ∧
      (s.pair.role = .standby → s.pair.renewalSeen = false →
        ∃ t, exec (.tokenRenewal clk) s = .next t ∧ t.pair = s.pair ∧
          t.objs = oput s.objs (okey 0xC0 0 0x0C) (countUp 1 (ov s 0xC0 0 0x0C) s.freeCount))) ∧
    (∀ tok : Token, s.pair.role ≠ .holder → (pairDown s && [0, 1].all (fun b => blockDown s 3 b 9)) = false →
      ∃ t, exec (.tokenMessageRx clk tok) s = .next t ∧ t.pair.latestEnd = max s.pair.latestEnd tok.leaseEnd ∧
        t.pair.token = (if s.pair.latestEnd < tok.leaseEnd then tok else s.pair.token) ∧ t.pair.role = s.pair.role) ∧
    (s.pair.role = .holder → s.pair.token.leaseEnd ≤ tickStart s1 →
      ∃ t, exec (.tokenLeaseExpiry clk) s = .next t ∧ (t.pair.role = .standby ∨ t.pair.role = .notReady) ∧ t.pair.handOver = none) ∧
    (s.herd.running = true → mayTake s1 = true →
      ∃ t, exec (.takeover clk) s = .next t ∧ t.pair.role = .holder ∧ t.pair.token.epoch = (s.pair.token.epoch + 1) % 2 ^ 32 ∧
        t.pair.token.holder = nodeId s ∧ t.pair.token.leaseEnd = tickStart s1 + leaseNs s ∧ t.net.net = .running) ∧
    (∀ set : MirrorSet, s.pair.role ≠ .holder → pairDown s = false →
      ∃ t, exec (.mirrorSetRx clk set) s = .next t ∧ t.pair.mirror = mirrorMerge s.pair.mirror set ∧
        t.pair.mirrorTick = (if set.ends then some (widenTick s set.tick) else s.pair.mirrorTick)) ∧
    (s.pair.role = .standby → imageActive s = true → ov s 0xC0 0 4 < mirrorAge s1 →
      ∃ t, exec (.mirrorAgeLimit clk) s = .next t ∧ t.pair.role = .notReady) ∧
    (∀ n, s.pair.role = .holder → pairDown s = false →
      ∃ t, exec (.planAckRx clk n) s = .next t ∧ n ∈ t.pair.acked ∧ ∀ m ∈ s.pair.acked, m ∈ t.pair.acked) ∧
    (∀ l sb, pairDown s = false →
      ∃ t, exec (.pairSafetyStatusRx clk true l sb) s = .next t ∧ t.pair.peerStops = (List.range 8).map (fun a => stopOfCode (nth 5 l a)) ∧
        t.pair.peerRun = 0 ∧ t.pair.peerSilent = false ∧ t.pair.peerStandby = sb) ∧
    (s.pair.peerSilent = false → 8 ≤ s.pair.peerRun →
      ∃ t, exec (.peerSilent clk) s = .next t ∧ t.pair.peerSilent = true ∧ t.pair.peerStandby = false) ∧
    (∀ x, s.pair.role = .standby → nodeId s = ov s 0xC0 0 1 → ov s 0xC0 0 3 ≠ 0 → s.pair.handOver = none → s.pair.standbySince = some x →
      x + ov s 0xC0 0 3 * 1000000000 ≤ now s1 → pairDown s = false →
      ∃ t, exec (.pairRevertTimer clk) s = .next t ∧ t.out = [.handOver 0 0] ∧ t.pair = s.pair) ∧
    (pairDown s = false → let s2 := countFrame s1 4
      (s.pair.role = .holder → (∀ h, s.pair.handOver = some h → h.acked = false) →
        ∃ t, exec (.handoverRequestRx clk 0 0) s = .next t ∧ t.pair.handOver = some { instant := secondPeriod s2 (now s2) } ∧
          t.out = [.handOver 1 (secondPeriod s2 (now s2))]) ∧
      (∀ h, s.pair.role = .standby →
        ∃ t, exec (.handoverRequestRx clk 1 h) s = .next t ∧ t.pair.handOver = some { instant := h, acked := true, requester := true } ∧
          t.out = [.handOver 2 h]) ∧
      (∀ h, s.pair.role = .holder → s.pair.handOver = some h → now s2 + 1000000 ≤ h.instant →
        ∃ t, exec (.handoverRequestRx clk 2 h.instant) s = .next t ∧ t.pair.handOver = some { h with acked := true }) ∧
      (∀ h, s.pair.role = .standby →
        ∃ t, exec (.handoverRequestRx clk 3 h) s = .next t ∧ t.pair = s.pair ∧ t.out = [.handOver 0 0])) ∧
    (∀ h, s.pair.role = .holder → s.pair.handOver = some h → h.acked = false → h.instant ≤ now s1 + 1000000 →
      ∃ t, exec (.handoverAckTimeout clk) s = .next t ∧ t.pair.handOver = none ∧ t.pair.role = .holder) ∧
    (∀ h, s.pair.handOver = some h → h.acked = true → h.instant ≤ tickStart s1 →
      (s.pair.role = .holder → h.requester = false →
        ∃ t, exec (.handoverAt clk) s = .next t ∧ (t.pair.role = .standby ∨ t.pair.role = .notReady) ∧ t.pair.token.holder = otherId s ∧
          t.pair.token.epoch = (s.pair.token.epoch + 1) % 2 ^ 32) ∧
      (s.pair.role = .standby → h.requester = true →
        ∃ t, exec (.handoverAt clk) s = .next t ∧ t.pair.role = .holder ∧
          t.pair.token = { epoch := (s.pair.token.epoch + 1) % 2 ^ 32, holder := nodeId s, leaseEnd := h.instant + leaseNs s }))
end

