-- ==== Sys2Proof/Laws/Kept.lean ====
section
/-! SUPPORT. What no operation of the block changes: the queue of waiting commands, the OTP memory and the keys. One
lemma per operation; the few operations that change one of them are stated with what they change. -/

namespace Sys2Proof.Machine

/-- The parts of the state that almost no operation changes. -/
structure Kept where
  pending : List Instr
  otp : OtpState
  customer : List (Option CustomerKey)
  hmac : List (Option HmacKey)
  sto : Bool

/-- They are read from a state. -/
def kept (s : State) : Kept := ⟨s.pending, s.sec.otp, s.sec.customer, s.sec.hmac, s.cham.stoLatch⟩

set_option linter.unusedVariables false in
@[simp] theorem kept_mk x0 x1 x2 x3 x4 x5 x6 x7 x8 x9 x10 x11 x12 x13 x14 x15 x16 x17 x18 x19 x20 x21 x22 x23 x24 x25 x26 x27 x28 x29 x30 x31 x32 x33 :
    kept (State.mk x0 x1 x2 x3 x4 x5 x6 x7 x8 x9 x10 x11 x12 x13 x14 x15 x16 x17 x18 x19 x20 x21 x22 x23 x24 x25 x26 x27 x28 x29 x30 x31 x32 x33) = Kept.mk x33 x26.otp x26.customer x26.hmac x19.stoLatch := rfl

@[simp] theorem kept_fold (s : State) : Kept.mk s.pending s.sec.otp s.sec.customer s.sec.hmac s.cham.stoLatch = kept s := rfl

@[simp] theorem kept_ite {c : Prop} [Decidable c] (a b : State) : kept (if c then a else b) = if c then kept a else kept b := apply_ite kept c a b

@[simp] theorem kept_foldl {α : Type} (f : State → α → State) (l : List α) (s : State) (h : ∀ s a, kept (f s a) = kept s) :
    kept (l.foldl f s) = kept s := by
  induction l generalizing s with
  | nil => rfl
  | cons a l ih => simp [ih, h]

/-- What every command but KEY_ENROL, SET_MODE and POWER_ON leaves as it was, or changes one way only: the security floor rises (R417) and
Chamois's STO latch stays set (R44). -/
structure Follows (s t : State) : Prop where
  pending : t.pending = s.pending
  customer : t.sec.customer = s.sec.customer
  hmac : t.sec.hmac = s.sec.hmac
  otp : t.sec.otp = { s.sec.otp with floor := t.sec.otp.floor }
  floor : s.sec.otp.floor ≤ 64 → s.sec.otp.floor ≤ t.sec.otp.floor ∧ t.sec.otp.floor ≤ 64
  sto : s.cham.stoLatch = true → t.cham.stoLatch = true

theorem Follows.refl (s : State) : Follows s s := ⟨rfl, rfl, rfl, rfl, fun h => ⟨Nat.le_refl _, h⟩, id⟩

theorem Follows.trans {s t u : State} (h : Follows s t) (g : Follows t u) : Follows s u :=
  ⟨g.pending.trans h.pending, g.customer.trans h.customer, g.hmac.trans h.hmac, by rw [g.otp, h.otp],
    fun k => ⟨Nat.le_trans (h.floor k).1 (g.floor (h.floor k).2).1, (g.floor (h.floor k).2).2⟩, fun k => g.sto (h.sto k)⟩

theorem Follows.of_kept {s t : State} (h : kept t = kept s) : Follows s t := by
  simp only [kept, Kept.mk.injEq] at h
  obtain ⟨hp, ho, hc, hh, hs⟩ := h
  exact ⟨hp, hc, hh, by rw [ho], fun k => by rw [ho]; exact ⟨Nat.le_refl _, k⟩, fun k => by rw [hs]; exact k⟩

theorem Follows.foldl {α : Type} (f : State → α → State) (h : ∀ s a, Follows s (f s a)) (l : List α) (s : State) :
    Follows s (l.foldl f s) := by
  induction l generalizing s with
  | nil => exact .refl s
  | cons a l ih => exact (h s a).trans (ih (f s a))

/-! ### Objects -/

@[simp] theorem setOb_kept (s : State) (cls : ℕ) (inst : ℕ) (mem : ℕ) (v : ℕ) : kept (setOb s cls inst mem v) = kept s := by
  unfold setOb
  simp

@[simp] theorem noteCount_kept (s : State) (key : ℕ) (n : ℕ) : kept (noteCount s key n) = kept s := by
  unfold noteCount
  simp

@[simp] theorem bumpN_kept (s : State) (cls : ℕ) (inst : ℕ) (mem : ℕ) (n : ℕ) : kept (bumpN s cls inst mem n) = kept s := by
  unfold bumpN
  simp

@[simp] theorem bump_kept (s : State) (cls : ℕ) (inst : ℕ) (mem : ℕ) : kept (bump s cls inst mem) = kept s := by
  unfold bump
  simp

@[simp] theorem bumpAt_kept (s : State) (cls : ℕ) (inst : ℕ) (mem : ℕ) (i : ℕ) : kept (bumpAt s cls inst mem i) = kept s := by
  unfold bumpAt
  simp

@[simp] theorem bumpAtN_kept (s : State) (cls : ℕ) (inst : ℕ) (mem : ℕ) (i : ℕ) (n : ℕ) : kept (bumpAtN s cls inst mem i n) = kept s := by
  unfold bumpAtN
  simp

@[simp] theorem countFrame_kept (s : State) (p : ℕ) : kept (countFrame s p) = kept s := by
  unfold countFrame
  simp

/-! ### Ops -/

@[simp] theorem setCycle_kept (s : State) (ns : ℕ) : kept (setCycle s ns) = kept s := by
  unfold setCycle
  simp

@[simp] theorem addClocks_kept (s : State) (n : ℕ) : kept (addClocks s n) = kept s := by
  unfold addClocks
  simp

@[simp] theorem countClocks_kept (clk : ℕ) (s : State) : kept (countClocks clk s) = kept s := by
  unfold countClocks
  simp

@[simp] theorem advance_kept (clk : ℕ) (s : State) : kept (advance clk s) = kept s := by
  unfold advance
  simp

@[simp] theorem begin_kept (clk : ℕ) (s : State) : kept (begin clk s) = kept s := by
  unfold begin
  simp

@[simp] theorem emit_kept (s : State) (o : Output) : kept (emit s o) = kept s := by
  unfold emit
  simp

@[simp] theorem withMsix_kept (s : State) (f : MsixState → MsixState) : kept (withMsix s f) = kept s := by
  unfold withMsix
  simp

@[simp] theorem vectorNow_kept (s : State) (v : ℕ) : kept (vectorNow s v) = kept s := by
  unfold vectorNow
  simp

@[simp] theorem sendVector_kept (s : State) (v : ℕ) : kept (sendVector s v) = kept s := by
  unfold sendVector
  simp

@[simp] theorem withFresh_kept (s : State) (f : ClockNew → ClockNew) : kept (withFresh s f) = kept s := by
  unfold withFresh
  simp

@[simp] theorem setInt_kept (s : State) (n : ℕ) : kept (setInt s n) = kept s := by
  unfold setInt
  simp

@[simp] theorem pushStamp_kept (s : State) (e : TxStamp) : kept (pushStamp s e) = kept s := by
  unfold pushStamp
  simp

@[simp] theorem dueStamp_kept (s : State) (e : TxStamp) : kept (dueStamp s e) = kept s := by
  unfold dueStamp
  simp

@[simp] theorem takeStamps_kept (s : State) : kept (takeStamps s) = kept s := by
  unfold takeStamps
  simp

@[simp] theorem noteErr_kept (s : State) (w : Word) : kept (noteErr s w) = kept s := by
  unfold noteErr
  simp

@[simp] theorem writeErr_kept (s : State) (w : Word) : kept (writeErr s w) = kept s := by
  unfold writeErr
  simp

@[simp] theorem withLogs_kept (s : State) (f : LogState → LogState) : kept (withLogs s f) = kept s := by
  unfold withLogs
  simp

@[simp] theorem dropEvent_kept (s : State) : kept (dropEvent s) = kept s := by
  unfold dropEvent
  split <;> simp

@[simp] theorem addEvent_kept (s : State) (e : LogEntry) : kept (addEvent s e) = kept s := by
  unfold addEvent
  split <;> simp

@[simp] theorem dropTrace_kept (s : State) : kept (dropTrace s) = kept s := by
  unfold dropTrace
  simp

@[simp] theorem addTrace_kept (s : State) (e : LogEntry) : kept (addTrace s e) = kept s := by
  unfold addTrace
  simp

@[simp] theorem putAlarm_kept (s : State) (e : LogEntry) (room : ℕ) : kept (putAlarm s e room) = kept s := by
  unfold putAlarm
  simp

@[simp] theorem addAlarm_kept (s : State) (e : LogEntry) : kept (addAlarm s e) = kept s := by
  unfold addAlarm
  simp

@[simp] theorem alarmTrigger_kept (s : State) : kept (alarmTrigger s) = kept s := by
  unfold alarmTrigger
  simp

@[simp] theorem log_kept (s : State) (cls : LogClass) (code : ℕ) (arg : ℕ) (word : Word) (reason : ℕ) : kept (log s cls code arg word reason) = kept s := by
  unfold log
  split <;> simp

@[simp] theorem trace_kept (s : State) (maskBit : ℕ) (code : ℕ) (arg : ℕ) (word : ℕ) (reason : ℕ) : kept (trace s maskBit code arg word reason) = kept s := by
  unfold trace
  simp

@[simp] theorem errorAs_kept (s : State) (w : Word) (code : ℕ) (arg : ℕ) (cls : LogClass) : kept (errorAs s w code arg cls) = kept s := by
  unfold errorAs
  simp

@[simp] theorem error_kept (s : State) (w : Word) : kept (error s w) = kept s := by
  unfold error
  simp

@[simp] theorem errors_kept (s : State) (ws : List Word) : kept (errors s ws) = kept s := by
  unfold errors
  simp

@[simp] theorem setMbx_kept (s : State) (m : ℕ) (f : Mailbox → Mailbox) : kept (setMbx s m f) = kept s := by
  unfold setMbx
  simp

@[simp] theorem sendCompletion_kept (s : State) (b : Mailbox) (c : Completion) : kept (sendCompletion s b c) = kept s := by
  unfold sendCompletion
  split <;> simp

@[simp] theorem complete_kept (s : State) (o : Origin) (status : ℕ) (result : Bytes) : kept (complete s o status result) = kept s := by
  unfold complete
  simp

@[simp] theorem completeAll_kept (s : State) (os : List Origin) (status : ℕ) : kept (completeAll s os status) = kept s := by
  unfold completeAll
  simp

@[simp] theorem settleRuns_kept (s : State) : kept (settleRuns s) = kept s := by
  unfold settleRuns
  simp

/-! ### Session -/

@[simp] theorem discard_kept (s : State) (m : ℕ) : kept (discard s m) = kept s := by
  unfold discard
  simp

@[simp] theorem consumeEntry_kept (s : State) (e : Entry) : kept (consumeEntry s e) = kept s := by
  unfold consumeEntry
  simp

@[simp] theorem dropEntry_kept (s : State) (m : ℕ) (counter : Option ℕ) : kept (dropEntry s m counter) = kept s := by
  unfold dropEntry
  split <;> simp

@[simp] theorem leaveFlight_kept (s : State) (e : Entry) : kept (leaveFlight s e) = kept s := by
  unfold leaveFlight
  simp

@[simp] theorem enterFlight_kept (s : State) (via : Transport) (e : Entry) : kept (enterFlight s via e) = kept s := by
  unfold enterFlight
  simp

/-- A command changes what its body changes. -/
theorem command_kept (c : CmdSpec) (priv lenOk : Entry → Bool) (body : Entry → Transport → State → State) (clk : Nat) (e0 : Entry)
    (s0 : State) (h : ∀ e v s, kept (body e v s) = kept s) : kept (command c priv lenOk body clk e0 s0) = kept s0 := by
  unfold command
  dsimp only
  repeat' split
  all_goals simp [h]

@[simp] theorem answer_kept (s : State) (e : Entry) (status : ℕ) (result : Bytes) : kept (answer s e status result) = kept s := by
  unfold answer
  simp

theorem withdraw_kept (s : State) (o : Origin) {t : State} (h : withdraw s o = some t) : kept t = kept s := by
  unfold withdraw at h
  repeat' split at h
  all_goals simp_all
  all_goals (subst h; simp)

@[simp] theorem cancelAll_kept (s : State) (m : Nat) : kept (cancelAll s m) = kept s := by
  unfold cancelAll
  dsimp only
  rw [kept_foldl]
  · simp
  · intro s a
    split
    · rename_i h
      simp [withdraw_kept s a h]
    · rfl

@[simp] theorem enterClosing_kept (s : State) (m : ℕ) (closer : Option Origin) : kept (enterClosing s m closer) = kept s := by
  unfold enterClosing
  simp

@[simp] theorem closePcie_kept (s : State) : kept (closePcie s) = kept s := by
  unfold closePcie
  simp

@[simp] theorem openSession_kept (e : Entry) (via : Transport) (s : State) : kept (openSession e via s) = kept s := by
  unfold openSession
  simp

@[simp] theorem newEpoch_kept (e : Entry) (x1 : Transport) (s : State) : kept (newEpoch e x1 s) = kept s := by
  unfold newEpoch
  simp

@[simp] theorem challenge_kept (e : Entry) (x1 : Transport) (s : State) : kept (challenge e x1 s) = kept s := by
  unfold challenge
  simp

@[simp] theorem unlock_kept (e : Entry) (x1 : Transport) (s : State) : kept (unlock e x1 s) = kept s := by
  unfold unlock
  dsimp only
  split <;> simp

@[simp] theorem cancel_kept (e : Entry) (v : Transport) (s : State) : kept (cancel e v s) = kept s := by
  unfold cancel
  dsimp only
  repeat' split
  all_goals simp
  rename_i h
  exact withdraw_kept _ _ h

@[simp] theorem doorbellError_kept (s : State) (m : ℕ) : kept (doorbellError s m) = kept s := by
  unfold doorbellError
  simp

@[simp] theorem writeCmdTail_kept (s : State) (mailbox : ℕ) (value : ℕ) : kept (writeCmdTail s mailbox value) = kept s := by
  unfold writeCmdTail
  simp

@[simp] theorem writeCplHead_kept (s : State) (mailbox : ℕ) (value : ℕ) : kept (writeCplHead s mailbox value) = kept s := by
  unfold writeCplHead
  simp

@[simp] theorem datagramJudge_kept (s : State) (via : Transport) (e : Entry) : kept (datagramJudge s via e) = kept s := by
  unfold datagramJudge
  dsimp only
  (repeat' split) <;> simp

@[simp] theorem datagramRx_kept (s : State) (port : ℕ) (addr : ℕ) (udpPort : ℕ) (fragmented : Bool) (d : Bytes) : kept (datagramRx s port addr udpPort fragmented d) = kept s := by
  unfold datagramRx
  simp

@[simp] theorem sessionDrained_kept (s : State) (m : ℕ) : kept (sessionDrained s m) = kept s := by
  unfold sessionDrained
  dsimp only
  (repeat' split) <;> simp

@[simp] theorem pcieDown_kept (s : State) (flr : Bool) : kept (pcieDown s flr) = kept s := by
  unfold pcieDown
  simp

/-! ### Causes -/

@[simp] theorem withMode_kept (s : State) (f : ModeState → ModeState) : kept (withMode s f) = kept s := by
  unfold withMode
  simp

@[simp] theorem settleWaits_kept (s : State) (p : Mode → Bool) (status : ℕ) : kept (settleWaits s p status) = kept s := by
  unfold settleWaits
  simp

@[simp] theorem acceptTarget_kept (s : State) (target : Mode) (w : Word) : kept (acceptTarget s target w) = kept s := by
  unfold acceptTarget
  split <;> simp

@[simp] theorem recordCause_kept (s : State) (c : Cause) : kept (recordCause s c) = kept s := by
  unfold recordCause
  simp

@[simp] theorem noteMode_kept (s : State) (m : Mode) : kept (noteMode s m) = kept s := by
  unfold noteMode
  simp

@[simp] theorem faultStartDone_kept (s : State) : kept (faultStartDone s) = kept s := by
  unfold faultStartDone
  simp

@[simp] theorem bootTrigger_kept (s : State) (w : Word) (c : Cause) : kept (bootTrigger s w c) = kept s := by
  unfold bootTrigger
  simp

@[simp] theorem trigger_kept (s : State) (target : Mode) (w : Word) (c : Cause) : kept (trigger s target w c) = kept s := by
  unfold trigger
  simp

@[simp] theorem isolate_kept (s : State) (region : ℕ) (block : ℕ) (element : ℕ) : kept (isolate s region block element) = kept s := by
  unfold isolate
  dsimp only
  (repeat' split) <;> simp

@[simp] theorem errorTrigger_kept (s : State) (target : Mode) (w : Word) (code : ℕ) (arg : ℕ) (cls : LogClass) (c : Cause) : kept (errorTrigger s target w code arg cls c) = kept s := by
  unfold errorTrigger
  simp

@[simp] theorem faultError_kept (s : State) (w : Word) (c : Cause) : kept (faultError s w c) = kept s := by
  unfold faultError
  simp

@[simp] theorem holdError_kept (s : State) (w : Word) (c : Cause) : kept (holdError s w c) = kept s := by
  unfold holdError
  simp

/-! ### Time -/

@[simp] theorem withHerd_kept (s : State) (f : HerdState → HerdState) : kept (withHerd s f) = kept s := by
  unfold withHerd
  simp

@[simp] theorem setDomain_kept (s : State) (d : ℕ) (f : PtpDomain → PtpDomain) : kept (setDomain s d f) = kept s := by
  unfold setDomain
  simp

@[simp] theorem startSlew_kept (s : State) (o : ℤ) : kept (startSlew s o) = kept s := by
  unfold startSlew
  simp

@[simp] theorem removeOffset_kept (s : State) (o : ℤ) : kept (removeOffset s o) = kept s := by
  unfold removeOffset
  simp

@[simp] theorem setRate_kept (s : State) (p : F64) : kept (setRate s p) = kept s := by
  unfold setRate
  simp

@[simp] theorem noteHistory_kept (s : State) : kept (noteHistory s) = kept s := by
  unfold noteHistory
  simp

@[simp] theorem herdMeasure_kept (s : State) (o : ℤ) : kept (herdMeasure s o) = kept s := by
  unfold herdMeasure
  simp

@[simp] theorem holdRate_kept (s : State) : kept (holdRate s) = kept s := by
  unfold holdRate
  split <;> simp

@[simp] theorem enterHoldover_kept (s : State) : kept (enterHoldover s) = kept s := by
  unfold enterHoldover
  simp

@[simp] theorem followDomain_kept (s : State) (d : ℕ) : kept (followDomain s d) = kept s := by
  unfold followDomain
  simp

@[simp] theorem reselect_kept (s : State) : kept (reselect s) = kept s := by
  unfold reselect
  simp

@[simp] theorem loseDomain_kept (s : State) (d : ℕ) : kept (loseDomain s d) = kept s := by
  unfold loseDomain
  simp

@[simp] theorem loseSource_kept (s : State) : kept (loseSource s) = kept s := by
  unfold loseSource
  simp

@[simp] theorem retime_kept (old s : State) : kept (retime old s) = kept s := by
  unfold retime
  simp

@[simp] theorem takeSync_kept (m : PtpMessage) (s : State) (d : ℕ) (stamp : ℕ) : kept (takeSync m s d stamp) = kept s := by
  unfold takeSync
  simp

@[simp] theorem domainSync_kept (m : PtpMessage) (s : State) (d : ℕ) : kept (domainSync m s d) = kept s := by
  unfold domainSync
  simp

@[simp] theorem takeParent_kept (s : State) (d : ℕ) (a : Announce) : kept (takeParent s d a) = kept s := by
  unfold takeParent
  simp

@[simp] theorem domainAnnounce_kept (s : State) (d : ℕ) (a : Announce) : kept (domainAnnounce s d a) = kept s := by
  unfold domainAnnounce
  simp

@[simp] theorem domainMessage_kept (m : PtpMessage) (s : State) (d : ℕ) : kept (domainMessage m s d) = kept s := by
  unfold domainMessage
  dsimp only
  (repeat' split) <;> simp

@[simp] theorem sendEvent_kept (s : State) (d : ℕ) (kind : ℕ) (seq : ℕ) (content : List ℤ) : kept (sendEvent s d kind seq content) = kept s := by
  unfold sendEvent
  simp

@[simp] theorem sendSync_kept (s : State) (d : ℕ) : kept (sendSync s d) = kept s := by
  unfold sendSync
  simp

@[simp] theorem sendAnnounce_kept (s : State) (d : ℕ) : kept (sendAnnounce s d) = kept s := by
  unfold sendAnnounce
  simp

@[simp] theorem sendDelayReq_kept (s : State) (d : ℕ) : kept (sendDelayReq s d) = kept s := by
  unfold sendDelayReq
  simp

@[simp] theorem transmit_kept (s : State) (d : ℕ) (kind : ℕ) : kept (transmit s d kind) = kept s := by
  unfold transmit
  split <;> simp

@[simp] theorem sourceLocked_kept (s : State) (source : ℕ) : kept (sourceLocked s source) = kept s := by
  unfold sourceLocked
  simp

@[simp] theorem takePps_kept (s : State) (stamp : ℕ) : kept (takePps s stamp) = kept s := by
  unfold takePps
  simp

@[simp] theorem ppsLost_kept (s : State) : kept (ppsLost s) = kept s := by
  unfold ppsLost
  simp

@[simp] theorem ppsEdge_kept (s : State) (capture : ℕ) : kept (ppsEdge s capture) = kept s := by
  unfold ppsEdge
  simp

@[simp] theorem pairExchange_kept (s : State) (send : ℕ) (receive : ℕ) (reply : ℕ) (arrive : ℕ) : kept (pairExchange s send receive reply arrive) = kept s := by
  unfold pairExchange
  simp

/-! ### Separation -/

@[simp] theorem withSep_kept (s : State) (f : SepState → SepState) : kept (withSep s f) = kept s := by
  unfold withSep
  simp

@[simp] theorem setSafeCh_kept (s : State) (chamois : Bool) (f : Channel2 → Channel2) : kept (setSafeCh s chamois f) = kept s := by
  unfold setSafeCh
  simp

@[simp] theorem setArmStop_kept (s : State) (chamois : Bool) (a : ℕ) (f : ArmStop → ArmStop) : kept (setArmStop s chamois a f) = kept s := by
  unfold setArmStop
  simp

@[simp] theorem takeStop_kept (s : State) (chamois : Bool) (a : ℕ) (st : StopState) : kept (takeStop s chamois a st) = kept s := by
  unfold takeStop
  simp

theorem chamoisLatch_follows (s : State) (w : Word) : Follows s (chamoisLatch s w) :=
  ⟨rfl, rfl, rfl, rfl, fun h => ⟨Nat.le_refl _, h⟩, fun _ => rfl⟩

@[simp] theorem separationStep_kept (s : State) : kept (separationStep s) = kept s := by
  unfold separationStep
  simp

@[simp] theorem demand_kept (s : State) (chamois : Bool) (a : ℕ) (d : SepDemand) : kept (demand s chamois a d) = kept s := by
  unfold demand
  simp

theorem violate_follows (s : State) (chamois : Bool) (a : Nat) : Follows s (violate s chamois a) := by
  unfold violate
  dsimp only
  split
  · exact .refl s
  · split
    · refine Follows.trans (Follows.trans (t := bump (setArmStop s chamois a (fun x => { x with violation := true })) 0x60 (0x20 + a) 9)
        (.of_kept (by simp)) (chamoisLatch_follows _ (chamoisWord (40 + a)))) (.of_kept ?_)
      rename_i h
      subst h
      simp
    · exact .of_kept (by simp)

theorem monitorArm_follows (chamois : Bool) (rs : List SepResult) (s : State) (a : Nat) : Follows s (monitorArm chamois rs s a) := by
  unfold monitorArm
  dsimp only
  repeat' split
  all_goals first
    | (apply Follows.of_kept; simp; done)
    | exact (Follows.of_kept (by simp)).trans (violate_follows _ chamois a)

theorem channelResult_follows (s : State) (chamois : Bool) (rs : List SepResult) : Follows s (channelResult s chamois rs) := by
  unfold channelResult
  extract_lets s1
  have h1 : kept s1 = kept s := by simp [s1]
  clear_value s1
  generalize (List.range 8).filter (armPresent s.objs) = l
  exact (Follows.of_kept h1).trans (Follows.foldl (monitorArm chamois rs) (monitorArm_follows chamois rs) l s1)

@[simp] theorem diversity_kept (s : State) (arms : List ℕ) (ps : List SepResult) (cs : List SepResult) : kept (diversity s arms ps cs) = kept s := by
  unfold diversity
  simp

@[simp] theorem combineArm_kept (ps : List SepResult) (cs : List SepResult) (s : State) (a : ℕ) : kept (combineArm ps cs s a) = kept s := by
  unfold combineArm
  simp

@[simp] theorem combine_kept (s : State) : kept (combine s) = kept s := by
  unfold combine
  simp

/-! ### Sched -/

@[simp] theorem withSched_kept (s : State) (f : SchedState → SchedState) : kept (withSched s f) = kept s := by
  unfold withSched
  simp

@[simp] theorem loopsStop_kept (s : State) : kept (loopsStop s) = kept s := by
  unfold loopsStop
  simp

@[simp] theorem updEntry_kept (s : State) (i : ℕ) (tag : ℕ) (f : Instance → Instance) : kept (updEntry s i tag f) = kept s := by
  unfold updEntry
  simp

@[simp] theorem allocate_kept (s : State) (x : Instance) : kept (allocate s x) = kept s := by
  unfold allocate
  simp

@[simp] theorem noteDepths_kept (s : State) : kept (noteDepths s) = kept s := by
  unfold noteDepths
  simp

@[simp] theorem enterOperand_kept (p : Post) (s : State) (i : ℕ) : kept (enterOperand p s i) = kept s := by
  unfold enterOperand
  split <;> simp

@[simp] theorem keepSoft_kept (s : State) (p : Post) : kept (keepSoft s p) = kept s := by
  unfold keepSoft
  simp

@[simp] theorem writeOperand_kept (s : State) (p : Post) : kept (writeOperand s p) = kept s := by
  unfold writeOperand
  simp

@[simp] theorem takePost_kept (s : State) (p : Post) : kept (takePost s p) = kept s := by
  unfold takePost
  simp

@[simp] theorem releaseTimed_kept (s : State) (r : ℕ × ℕ) : kept (releaseTimed s r) = kept s := by
  unfold releaseTimed
  split <;> simp

@[simp] theorem startTask_kept (s : State) (c : ℕ) (x : Instance) : kept (startTask s c x) = kept s := by
  unfold startTask
  simp

@[simp] theorem rollWindow_kept (s : State) : kept (rollWindow s) = kept s := by
  unfold rollWindow
  simp

@[simp] theorem schedActivate_kept (s : State) : kept (schedActivate s) = kept s := by
  unfold schedActivate
  simp

/-! ### Mirror -/

@[simp] theorem withPair_kept (s : State) (f : PairState → PairState) : kept (withPair s f) = kept s := by
  unfold withPair
  simp

@[simp] theorem mirrorOut_kept (s : State) (now_ : MirrorSet) : kept (mirrorOut s now_) = kept s := by
  unfold mirrorOut
  simp

@[simp] theorem mirrorPiste_kept (s : State) : kept (mirrorPiste s) = kept s := by
  unfold mirrorPiste
  simp

@[simp] theorem mirrorSend_kept (s : State) : kept (mirrorSend s) = kept s := by
  unfold mirrorSend
  simp

@[simp] theorem mirrorImage_kept (s : State) (image : Option Bytes) (activation : Option (Bytes × ℕ)) : kept (mirrorImage s image activation) = kept s := by
  unfold mirrorImage
  simp

/-! ### Piste -/

@[simp] theorem withPiste_kept (s : State) (f : PisteState → PisteState) : kept (withPiste s f) = kept s := by
  unfold withPiste
  simp

@[simp] theorem refuseZone_kept (s : State) (o : Option Origin) (arm : ℕ) (zone : ℕ) (reason : ℕ) (b : Option (ℕ × ℕ × ℕ)) (ends : Bool) : kept (refuseZone s o arm zone reason b ends) = kept s := by
  unfold refuseZone
  split <;> simp

@[simp] theorem pickBlocker_kept (s : State) (bs : List (ℕ × ℕ × ℕ)) : kept (pickBlocker s bs).1 = kept s := by
  unfold pickBlocker
  split <;> simp

@[simp] theorem refusePending_kept (s : State) (p : ℕ → Bool) (reason : ℕ) : kept (refusePending s p reason) = kept s := by
  unfold refusePending
  simp

@[simp] theorem releaseStanding_kept (s : State) (a : ℕ) : kept (releaseStanding s a) = kept s := by
  unfold releaseStanding
  simp

@[simp] theorem keepLeases_kept (s : State) (p : ℕ → Bool) : kept (keepLeases s p) = kept s := by
  unfold keepLeases
  simp

@[simp] theorem reissue_kept (s : State) (a : ℕ) : kept (reissue s a) = kept s := by
  unfold reissue
  simp

@[simp] theorem armHold_kept (s : State) (a : ℕ) (w : Word) (c : Cause) : kept (armHold s a w c) = kept s := by
  unfold armHold
  simp

@[simp] theorem releaseHold_kept (s : State) (a : ℕ) : kept (releaseHold s a) = kept s := by
  unfold releaseHold
  simp

@[simp] theorem pisteHold_kept (s : State) : kept (pisteHold s) = kept s := by
  unfold pisteHold
  simp

@[simp] theorem pisteHoldEnd_kept (s : State) : kept (pisteHoldEnd s) = kept s := by
  unfold pisteHoldEnd
  simp

@[simp] theorem pisteClear_kept (s : State) : kept (pisteClear s) = kept s := by
  unfold pisteClear
  simp

@[simp] theorem zoneRequest_kept (e : Entry) (x1 : Transport) (s : State) : kept (zoneRequest e x1 s) = kept s := by
  unfold zoneRequest
  simp

@[simp] theorem zoneExtend_kept (e : Entry) (x1 : Transport) (s : State) : kept (zoneExtend e x1 s) = kept s := by
  unfold zoneExtend
  dsimp only
  split <;> simp

@[simp] theorem zoneRelease_kept (e : Entry) (x1 : Transport) (s : State) : kept (zoneRelease e x1 s) = kept s := by
  unfold zoneRelease
  simp

@[simp] theorem expireLeases_kept (s : State) (t : ℕ) (p : Lease → Bool) : kept (expireLeases s t p) = kept s := by
  unfold expireLeases
  simp

@[simp] theorem applyRelease_kept (s : State) (id : ℕ) : kept (applyRelease s id) = kept s := by
  unfold applyRelease
  split <;> simp

@[simp] theorem grant_kept (s : State) (l0 : Lease) : kept (grant s l0).1 = kept s := by
  unfold grant
  simp

@[simp] theorem postLater_kept (s : State) (o : Option Origin) (st : ℕ) (result : Bytes) : kept (postLater s o st result) = kept s := by
  unfold postLater
  split <;> simp

@[simp] theorem postDone_kept (s : State) : kept (postDone s) = kept s := by
  unfold postDone
  simp

@[simp] theorem refuseInPass_kept (s : State) (o : Option Origin) (arm : ℕ) (zone : ℕ) (reason : ℕ) (b : Option (ℕ × ℕ × ℕ)) (ends : Bool) : kept (refuseInPass s o arm zone reason b ends) = kept s := by
  unfold refuseInPass
  simp

@[simp] theorem completeLease_kept (s : State) (o : Option Origin) (l : Lease) : kept (completeLease s o l) = kept s := by
  unfold completeLease
  simp

@[simp] theorem judgeExtension_kept (tp : ℕ) (s : State) (x : ZoneExtension) : kept (judgeExtension tp s x) = kept s := by
  unfold judgeExtension
  dsimp only
  (repeat' split) <;> simp

@[simp] theorem dropRequest_kept (s : State) (r : ZoneRequest) : kept (dropRequest s r) = kept s := by
  unfold dropRequest
  simp

theorem arbitrate_kept (tp : Nat) (g : ArbState) (r : ZoneRequest) : kept (arbitrate tp g r).s = kept g.s := by
  unfold arbitrate
  dsimp only
  (repeat' split) <;> simp

theorem arbitrate_fold_kept (tp : Nat) (l : List ZoneRequest) (g : ArbState) : kept (l.foldl (arbitrate tp) g).s = kept g.s := by
  induction l generalizing g with
  | nil => rfl
  | cons a l ih => simp [ih, arbitrate_kept]

@[simp] theorem checkArm_kept (tp : ℕ) (s : State) (a : ℕ) : kept (checkArm tp s a) = kept s := by
  unfold checkArm
  (repeat' split) <;> simp

@[simp] theorem arbiterPass_kept (tp : Nat) (s : State) : kept (arbiterPass tp s) = kept s := by
  unfold arbiterPass
  dsimp only
  split <;> simp [arbitrate_fold_kept]

@[simp] theorem plannerRequest_kept (s : State) (arm : ℕ) (zone : ℕ) (priority : ℕ) (st : ℕ) (en : ℕ) : kept (plannerRequest s arm zone priority st en) = kept s := by
  unfold plannerRequest
  simp

@[simp] theorem plannerExtension_kept (s : State) (arm : ℕ) (lease : ℕ) (ne : ℕ) : kept (plannerExtension s arm lease ne) = kept s := by
  unfold plannerExtension
  simp

@[simp] theorem dropPlanner_kept (s : State) (arm : ℕ) : kept (dropPlanner s arm) = kept s := by
  unfold dropPlanner
  simp

/-! ### Loop -/

@[simp] theorem setLoop_kept (s : State) (i : ℕ) (f : LoopState → LoopState) : kept (setLoop s i f) = kept s := by
  unfold setLoop
  simp

@[simp] theorem placeOutput_kept (s : State) (x : LoopIn) (flags : ℕ) (compute : ℕ) (h : ℕ) (us : List F32) : kept (placeOutput s x flags compute h us).1 = kept s := by
  unfold placeOutput
  (repeat' split) <;> simp

@[simp] theorem executeLoop_kept (s : State) (x : LoopIn) (compute : Nat) : kept (executeLoop s x compute) = kept s := by
  unfold executeLoop
  extract_lets i st d h o due0 flags r dly bin xh1 badX xh2 due finite clean late fl s1 m s2 s3 s4 s5
  have h2 : kept s2 = kept s := by
    simp only [s2, s1, bump_kept, setLoop_kept]
    exact placeOutput_kept _ _ _ _ _ _
  have h3 : kept s3 = kept s2 := by
    have g : ∀ b : Option Nat, kept (match b with | some b => bumpAt s2 0x21 x.ch (m 0x18) b | none => bump s2 0x21 x.ch (m 0x1C)) = kept s2 := by
      intro b
      cases b <;> simp
    exact g bin
  have h4 : kept s4 = kept s3 := by simp [s4]
  have h5 : kept s5 = kept s4 := by simp [s5]
  have h6 : kept s5 = kept s := by rw [h5, h4, h3, h2]
  split
  · exact (trace_kept _ _ _ _ _ _).trans h6
  · exact h6

theorem axisReactionAs_kept (say : State → Word → State) (h : ∀ s w, kept (say s w) = kept s) (s : State) (ch : Nat) (w : Nat → Word)
    (c : Cause) : kept (axisReactionAs say s ch w c) = kept s := by
  unfold axisReactionAs
  dsimp only
  split <;> simp [h]

@[simp] theorem axisReaction_kept (s : State) (ch : Nat) (w : Nat → Word) (c : Cause) : kept (axisReaction s ch w c) = kept s := by
  unfold axisReaction
  exact axisReactionAs_kept _ (by simp) s ch w c

@[simp] theorem clearFault_kept (s : State) (loop : ℕ) : kept (clearFault s loop) = kept s := by
  unfold clearFault
  simp

/-! ### Encoder -/

@[simp] theorem withField_kept (s : State) (f : FieldState → FieldState) : kept (withField s f) = kept s := by
  unfold withField
  simp

@[simp] theorem setEnc_kept (s : State) (e : ℕ) (f : Encoder → Encoder) : kept (setEnc s e f) = kept s := by
  unfold setEnc
  simp

@[simp] theorem encError_kept (s : State) (e : ℕ) (i : ℕ) : kept (encError s e i) = kept s := by
  unfold encError
  simp

@[simp] theorem movePos_kept (s : State) (e : ℕ) (p : ℤ) (up : Bool) (t : ℕ) : kept (movePos s e p up t) = kept s := by
  unfold movePos
  simp

@[simp] theorem passLevels_kept (s : State) (e : ℕ) : kept (passLevels s e) = kept s := by
  unfold passLevels
  simp

@[simp] theorem takeIndex_kept (s : State) (e : ℕ) : kept (takeIndex s e) = kept s := by
  unfold takeIndex
  simp

@[simp] theorem armIndex_kept (s : State) (e : ℕ) : kept (armIndex s e) = kept s := by
  unfold armIndex
  simp

@[simp] theorem latchTick_kept (s : State) (e : ℕ) (v : Option EncLatch) : kept (latchTick s e v) = kept s := by
  unfold latchTick
  simp

@[simp] theorem encAges_kept (s : State) : kept (encAges s) = kept s := by
  unfold encAges
  simp

@[simp] theorem takeWord_kept (s : State) (e : ℕ) (n : ℕ) (w : ℕ) (ref : ℕ) : kept (takeWord s e n w ref) = kept s := by
  unfold takeWord
  simp

/-! ### SafetyChannels -/

@[simp] theorem askHold_kept (s : State) (r : Cause × Bool) : kept (askHold s r) = kept s := by
  unfold askHold
  simp

@[simp] theorem pairEdges_kept (s : State) : kept (pairEdges s) = kept s := by
  unfold pairEdges
  split <;> simp

@[simp] theorem expireEdge_kept (s : State) (chamois : Bool) : kept (expireEdge s chamois) = kept s := by
  unfold expireEdge
  simp

@[simp] theorem stepArm_kept (chamois : Bool) (t : ℕ) (s : State) (a : ℕ) : kept (stepArm chamois t s a) = kept s := by
  unfold stepArm
  simp

@[simp] theorem switchStuck_kept (s : State) (low : Bool) (n : ℕ) : kept (switchStuck s low n) = kept s := by
  unfold switchStuck
  simp

@[simp] theorem stepSwitch_kept (chamois : Bool) (readback : ℕ) (currents : List ℕ) (s : State) (n : ℕ) : kept (stepSwitch chamois readback currents s n) = kept s := by
  unfold stepSwitch
  simp

@[simp] theorem evaluate_kept (chamois : Bool) (x : Samples) (s : State) : kept (evaluate chamois x s) = kept s := by
  unfold evaluate
  simp

@[simp] theorem openAll_kept (s : State) (chamois : Bool) : kept (openAll s chamois) = kept s := by
  unfold openAll
  simp

theorem silentToChamois_follows (s : State) (moving : Bool) : Follows s (silentToChamois s moving) := by
  unfold silentToChamois
  extract_lets w s1
  have h1 : Follows s s1 := by
    simp only [s1]
    split
    · exact chamoisLatch_follows s w
    · exact .refl s
  clear_value s1
  split
  · exact h1
  · split <;> exact h1.trans (.of_kept (by simp))

@[simp] theorem outputDiagnosis_kept (low : Bool) (n : ℕ) (kind : ℕ) (present_ : Bool) (s : State) : kept (outputDiagnosis low n kind present_ s) = kept s := by
  unfold outputDiagnosis
  simp

@[simp] theorem sresetEdge_kept (s : State) : kept (sresetEdge s) = kept s := by
  unfold sresetEdge
  split <;> simp

/-! ### AuxAxes -/

@[simp] theorem setAxis_kept (s : State) (k : ℕ) (f : AuxAxis → AuxAxis) : kept (setAxis s k f) = kept s := by
  unfold setAxis
  simp

@[simp] theorem setAcc_kept (s : State) (k : ℕ) (f : PhaseAcc → PhaseAcc) : kept (setAcc s k f) = kept s := by
  unfold setAcc
  simp

@[simp] theorem setTargets_kept (s : State) (k : ℕ) : kept (setTargets s k) = kept s := by
  unfold setTargets
  simp

@[simp] theorem accTick_kept (n : ℕ) (s : State) (k : ℕ) : kept (accTick n s k) = kept s := by
  unfold accTick
  simp

@[simp] theorem auxTick_kept (t : ℕ) (mid : ℤ) (s0 : State) (k : ℕ) : kept (auxTick t mid s0 k) = kept s0 := by
  unfold auxTick
  simp

@[simp] theorem auxTicks_kept (n : ℕ) (s : State) : kept (auxTicks n s) = kept s := by
  unfold auxTicks
  simp

/-! ### Clocks -/

@[simp] theorem withClocks_kept (s : State) (f : ClockState → ClockState) : kept (withClocks s f) = kept s := by
  unfold withClocks
  simp

@[simp] theorem withPower_kept (s : State) (f : PowerState → PowerState) : kept (withPower s f) = kept s := by
  unfold withPower
  simp

@[simp] theorem switchTo_kept (s : State) (r : ClockRef) : kept (switchTo s r) = kept s := by
  unfold switchTo
  simp

@[simp] theorem switchDone_kept (s : State) : kept (switchDone s) = kept s := by
  unfold switchDone
  simp

@[simp] theorem clkEvent_kept (s : State) (n : ℕ) : kept (clkEvent s n) = kept s := by
  unfold clkEvent
  simp

@[simp] theorem markLoss_kept (s : State) (src : ℕ) : kept (markLoss s src) = kept s := by
  unfold markLoss
  simp

@[simp] theorem loseClock_kept (s : State) (src : ℕ) : kept (loseClock s src) = kept s := by
  unfold loseClock
  (repeat' split) <;> simp

@[simp] theorem clkRestore_kept (s : State) : kept (clkRestore s) = kept s := by
  unfold clkRestore
  split <;> simp

@[simp] theorem clocksActivate_kept (s : State) : kept (clocksActivate s) = kept s := by
  unfold clocksActivate
  simp

@[simp] theorem clkoutFollow_kept (old s : State) : kept (clkoutFollow old s) = kept s := by
  unfold clkoutFollow
  split <;> simp

@[simp] theorem setGate_kept (s : State) (region : ℕ) (member : ℕ) (close : Bool) : kept (setGate s region member close) = kept s := by
  unfold setGate
  simp

@[simp] theorem ungateUsed_kept (s : State) : kept (ungateUsed s) = kept s := by
  unfold ungateUsed
  simp

@[simp] theorem domainLoses_kept (s : State) (d : ℕ) : kept (domainLoses s d) = kept s := by
  unfold domainLoses
  split <;> simp

@[simp] theorem startSequence_kept (s : State) (off : List ℕ) (on : List (List ℕ)) : kept (startSequence s off on) = kept s := by
  unfold startSequence
  simp

@[simp] theorem domainUp_kept (s : State) (d : ℕ) : kept (domainUp s d) = kept s := by
  unfold domainUp
  simp

@[simp] theorem powerGoodTimeout_kept (s : State) (domain : ℕ) : kept (powerGoodTimeout s domain) = kept s := by
  unfold powerGoodTimeout
  simp

/-! ### Profile -/

@[simp] theorem withProf_kept (s : State) (f : ProfileState → ProfileState) : kept (withProf s f) = kept s := by
  unfold withProf
  simp

@[simp] theorem setChan_kept (s : State) (ch : ℕ) (f : Channel → Channel) : kept (setChan s ch f) = kept s := by
  unfold setChan
  simp

@[simp] theorem setArmMot_kept (s : State) (a : ℕ) (f : ArmMotion → ArmMotion) : kept (setArmMot s a f) = kept s := by
  unfold setArmMot
  simp

@[simp] theorem setArmPlan_kept (s : State) (a : ℕ) (f : ArmPlan → ArmPlan) : kept (setArmPlan s a f) = kept s := by
  unfold setArmPlan
  simp

@[simp] theorem refuseMove_kept (s : State) (o : Origin) (ch : ℕ) (r : MoveNo) : kept (refuseMove s o ch r) = kept s := by
  unfold refuseMove
  simp

@[simp] theorem acceptMove_kept (s : State) (o : Origin) (ch : ℕ) (endTheta : Option ℕ) : kept (acceptMove s o ch endTheta) = kept s := by
  unfold acceptMove
  simp

@[simp] theorem setMotion_kept (s : State) (ch : ℕ) (m : Motion) (id : ℕ) (target : ℤ) : kept (setMotion s ch m id target) = kept s := by
  unfold setMotion
  simp

@[simp] theorem armMoves_kept (s : State) (ch : ℕ) (a : ℕ) (set : List LeaseNeed) (src : ArmSource) : kept (armMoves s ch a set src) = kept s := by
  unfold armMoves
  simp

@[simp] theorem acceptJoint_kept (s : State) (w : MoveWait) (ch : ℕ) (vel : F32) (acc : F32) (jerk : F32) (target : F64) (t0 : ℕ) : kept (acceptJoint s w ch vel acc jerk target t0) = kept s := by
  unfold acceptJoint
  dsimp only
  (repeat' split) <;> simp

@[simp] theorem acceptLinear_kept (s : State) (w : MoveWait) (a : ℕ) (scale : F32) (target : List F64) (t0 : ℕ) : kept (acceptLinear s w a scale target t0) = kept s := by
  unfold acceptLinear
  dsimp only
  (repeat' split) <;> simp

@[simp] theorem acceptConveyor_kept (s : State) (w : MoveWait) (ch : ℕ) (conv : ℕ) (ratio : F64) (off : ℤ) (endPos : F64) (t0 : ℕ) : kept (acceptConveyor s w ch conv ratio off endPos t0) = kept s := by
  unfold acceptConveyor
  dsimp only
  (repeat' split) <;> simp

theorem acceptArmJog_kept (s trial : State) (o : Origin) (ch a θ0 dur t0 : Nat) (h : kept trial = kept s) :
    kept (acceptArmJog s trial o ch a θ0 dur t0) = kept s := by
  unfold acceptArmJog
  split <;> simp [h]

@[simp] theorem acceptJog_kept (s : State) (w : MoveWait) (ch : Nat) (dir : Int) (speed : F32) (t0 : Nat) :
    kept (acceptJog s w ch dir speed t0) = kept s := by
  unfold acceptJog
  extract_lets a θ0 lim st fst jogging v0 target s1 prof trial
  have h1 : kept s1 = kept s := by simp [s1]
  have h2 : kept trial = kept s := by simp [trial]
  clear_value s1 trial a θ0 lim st fst jogging v0 target prof
  repeat' split
  all_goals first
    | exact acceptArmJog_kept _ _ _ _ _ _ _ _ h2
    | simp [h1, h2]

@[simp] theorem queueMove_kept (s : State) (o : Origin) (chs : List ℕ) (args : MoveArgs) : kept (queueMove s o chs args) = kept s := by
  unfold queueMove
  simp

@[simp] theorem moveJoint_kept (e : Entry) (x1 : Transport) (s : State) : kept (moveJoint e x1 s) = kept s := by
  unfold moveJoint
  simp

@[simp] theorem moveLinear_kept (e : Entry) (x1 : Transport) (s : State) : kept (moveLinear e x1 s) = kept s := by
  unfold moveLinear
  simp

@[simp] theorem moveConveyor_kept (e : Entry) (x1 : Transport) (s : State) : kept (moveConveyor e x1 s) = kept s := by
  unfold moveConveyor
  simp

@[simp] theorem jog_kept (e : Entry) (x1 : Transport) (s : State) : kept (jog e x1 s) = kept s := by
  unfold jog
  simp

@[simp] theorem teach_kept (e : Entry) (x1 : Transport) (s : State) : kept (teach e x1 s) = kept s := by
  unfold teach
  simp

@[simp] theorem stopMove_kept (e : Entry) (x1 : Transport) (s : State) : kept (stopMove e x1 s) = kept s := by
  unfold stopMove
  simp

@[simp] theorem startStop_kept (s : State) (ch : ℕ) (t0 : ℕ) (released : Bool) : kept (startStop s ch t0 released) = kept s := by
  unfold startStop
  (repeat' split) <;> simp

@[simp] theorem stopLinear_kept (s : State) (a : ℕ) : kept (stopLinear s a) = kept s := by
  unfold stopLinear
  simp

@[simp] theorem applyStop_kept (t0 : ℕ) (s : State) (c : Origin × ℕ × ℕ × ℕ) : kept (applyStop t0 s c) = kept s := by
  unfold applyStop
  simp

@[simp] theorem applyMove_kept (t0 : ℕ) (later : List MoveWait) (s : State) (w : MoveWait) : kept (applyMove t0 later s w) = kept s := by
  unfold applyMove
  split <;> simp

@[simp] theorem applyEvent_kept (t0 : ℕ) (s : State) (e : ℕ × PassEvent) : kept (applyEvent t0 s e) = kept s := by
  unfold applyEvent
  split <;> simp

@[simp] theorem rateStep_kept (t0 : ℕ) (s : State) (a : ℕ) : kept (rateStep t0 s a) = kept s := by
  unfold rateStep
  simp

@[simp] theorem endRamp_kept (s : State) (a : ℕ) : kept (endRamp s a) = kept s := by
  unfold endRamp
  simp

@[simp] theorem takePlan_kept (s : State) (a : ℕ) : kept (takePlan s a) = kept s := by
  unfold takePlan
  dsimp only
  split <;> simp

@[simp] theorem conveyorStep_kept (t0 : ℕ) (s : State) (c : ℕ) : kept (conveyorStep t0 s c) = kept s := by
  unfold conveyorStep
  simp

@[simp] theorem stopRaised_kept (t0 : ℕ) (s : State) (ch : ℕ) : kept (stopRaised t0 s ch) = kept s := by
  unfold stopRaised
  split <;> simp

@[simp] theorem linearRaised_kept (s : State) (a : ℕ) : kept (linearRaised s a) = kept s := by
  unfold linearRaised
  split <;> simp

@[simp] theorem finishChan_kept (t0 : ℕ) (s : State) (ch : ℕ) : kept (finishChan t0 s ch) = kept s := by
  unfold finishChan
  split <;> simp

@[simp] theorem finishLinear_kept (s : State) (a : ℕ) : kept (finishLinear s a) = kept s := by
  unfold finishLinear
  split <;> simp

@[simp] theorem settleSource_kept (s : State) (a : ℕ) : kept (settleSource s a) = kept s := by
  unfold settleSource
  simp

@[simp] theorem post_kept (s : State) (source : ℕ) (tag : ℕ) (age : ℕ) (v : Operand) : kept (post s source tag age v) = kept s := by
  unfold post
  simp

@[simp] theorem postSetpoint_kept (s : State) (ch : ℕ) (tag : ℕ) (src : ℕ) (flags : ℕ) : kept (postSetpoint s ch tag src flags) = kept s := by
  unfold postSetpoint
  simp

@[simp] theorem sampleChan_kept (t0 : ℕ) (tag : ℕ) (s : State) (ch : ℕ) : kept (sampleChan t0 tag s ch) = kept s := by
  unfold sampleChan
  simp

@[simp] theorem sampleConveyor_kept (tag : ℕ) (s : State) (c : ℕ) : kept (sampleConveyor tag s c) = kept s := by
  unfold sampleConveyor
  simp

@[simp] theorem stoStop_kept (s : State) (a : ℕ) : kept (stoStop s a) = kept s := by
  unfold stoStop
  simp

@[simp] theorem applyTeach_kept (t0 : ℕ) (s : State) (t : Origin × ℕ × ℕ) : kept (applyTeach t0 s t) = kept s := by
  unfold applyTeach
  simp

@[simp] theorem profilePass_kept (tp : Nat) (s : State) : kept (profilePass tp s) = kept s := by
  unfold profilePass
  dsimp only
  split
  · simp
    rw [kept_foldl]
    · simp
    · intro s a
      split <;> simp
  · simp
    rw [kept_foldl]
    · simp
    · intro s a
      split <;> simp

@[simp] theorem limitWritten_kept (s : State) (ch : ℕ) (mem : ℕ) (old : ℕ) (new : ℕ) : kept (limitWritten s ch mem old new) = kept s := by
  unfold limitWritten
  simp

/-! ### Dsp -/

@[simp] theorem withDsp_kept (s : State) (f : DspState → DspState) : kept (withDsp s f) = kept s := by
  unfold withDsp
  simp

@[simp] theorem setKernel_kept (s : State) (k : ℕ) (f : KernelSlot → KernelSlot) : kept (setKernel s k f) = kept s := by
  unfold setKernel
  simp

@[simp] theorem dspLoad_kept (s : State) (k : ℕ) (chunk : Bytes) : kept (dspLoad s k chunk) = kept s := by
  unfold dspLoad
  simp

@[simp] theorem dspEnable_kept (s : State) (k : ℕ) (v : ℕ) : kept (dspEnable s k v) = kept s := by
  unfold dspEnable
  simp

@[simp] theorem dspActivate_kept (s : State) : kept (dspActivate s) = kept s := by
  unfold dspActivate
  simp

@[simp] theorem kernelRun_kept (s : State) (k : ℕ) (retries : ℕ) : kept (kernelRun s k retries) = kept s := by
  unfold kernelRun
  dsimp only
  split <;> simp

/-! ### FieldIo -/

@[simp] theorem probeLatch_kept (s : State) (n : ℕ) (t : ℕ) : kept (probeLatch s n t) = kept s := by
  unfold probeLatch
  simp

@[simp] theorem inputTrigger_kept (s : State) (n : ℕ) (t : ℕ) (on : Bool) : kept (inputTrigger s n t on) = kept s := by
  unfold inputTrigger
  simp

@[simp] theorem inputMoved_kept (t : ℕ) (s : State) (n : ℕ) (was : Bool) (is : Bool) : kept (inputMoved t s n was is) = kept s := by
  unfold inputMoved
  simp

@[simp] theorem groupFault_kept (s : State) (element : ℕ) (group : ℕ) : kept (groupFault s element group) = kept s := by
  unfold groupFault
  simp

@[simp] theorem setSupply_kept (s : State) (i : ℕ) (mv : ℕ) : kept (setSupply s i mv) = kept s := by
  unfold setSupply
  simp

@[simp] theorem driveOutputs_kept (s : State) : kept (driveOutputs s) = kept s := by
  unfold driveOutputs
  simp

@[simp] theorem outputsFault_kept (s : State) : kept (outputsFault s) = kept s := by
  unfold outputsFault
  simp

@[simp] theorem fieldActivate_kept (s : State) : kept (fieldActivate s) = kept s := by
  unfold fieldActivate
  simp

/-! ### Tahixa -/

@[simp] theorem withNet_kept (s : State) (f : TahixaState → TahixaState) : kept (withNet s f) = kept s := by
  unfold withNet
  simp

@[simp] theorem setNode_kept (s : State) (n : ℕ) (f : NodeState → NodeState) : kept (setNode s n f) = kept s := by
  unfold setNode
  simp

@[simp] theorem setUp_kept (s : State) (k : ℕ) (f : UpSlot → UpSlot) : kept (setUp s k f) = kept s := by
  unfold setUp
  simp

@[simp] theorem setDown_kept (s : State) (k : ℕ) (f : DownSlot → DownSlot) : kept (setDown s k f) = kept s := by
  unfold setDown
  simp

@[simp] theorem countNode_kept (s : State) (src : ℕ) (mem : ℕ) : kept (countNode s src mem) = kept s := by
  unfold countNode
  simp

@[simp] theorem countPort_kept (s : State) (f : RxFrame) : kept (countPort s f) = kept s := by
  unfold countPort
  simp

@[simp] theorem frameForm_kept (s1 : State) (f : RxFrame) : kept (frameForm s1 f).1 = kept s1 := by
  unfold frameForm
  (repeat' split) <;> simp

@[simp] theorem noteDrift_kept (s : State) (n : ℕ) (outer : Bool) : kept (noteDrift s n outer) = kept s := by
  unfold noteDrift
  simp

@[simp] theorem noteOffset_kept (s : State) (n : ℕ) (d : ℤ) (w : ℤ) : kept (noteOffset s n d w) = kept s := by
  unfold noteOffset
  simp

@[simp] theorem noteAccepted_kept (s : State) (k : ℕ) (f : RxFrame) (start : ℤ) : kept (noteAccepted s k f start) = kept s := by
  unfold noteAccepted
  simp

@[simp] theorem takeRequest_kept (s : State) (n : ℕ) (dyn : ℕ) (at_ : ℕ) : kept (takeRequest s n dyn at_) = kept s := by
  unfold takeRequest
  simp

@[simp] theorem noteLine_kept (s : State) (n : ℕ) (port : ℕ) (first : Bool) : kept (noteLine s n port first) = kept s := by
  unfold noteLine
  simp

@[simp] theorem putFrame_kept (s : State) (k : ℕ) (c : SlotCopy) : kept (putFrame s k c) = kept s := by
  unfold putFrame
  simp

@[simp] theorem holdFrame_kept (s : State) (k : ℕ) (c : SlotCopy) : kept (holdFrame s k c) = kept s := by
  unfold holdFrame
  simp

@[simp] theorem postSafeIn_kept (s : State) (e : ℕ) (p : Bytes) (age : ℕ) : kept (postSafeIn s e p age) = kept s := by
  unfold postSafeIn
  simp

@[simp] theorem postSlot_kept (s : State) (k : ℕ) (at_ : ℕ) : kept (postSlot s k at_) = kept s := by
  unfold postSlot
  dsimp only
  split <;> simp

@[simp] theorem jointRecord_kept (s : State) (k : ℕ) (f : RxFrame) : kept (jointRecord s k f) = kept s := by
  unfold jointRecord
  simp

@[simp] theorem putCopy_kept (s : State) (k : ℕ) (line : ℕ) (c : SlotCopy) : kept (putCopy s k line c) = kept s := by
  unfold putCopy
  simp

@[simp] theorem noteCopy_kept (s : State) (k : ℕ) (f : RxFrame) (first : Bool) : kept (noteCopy s k f first) = kept s := by
  unfold noteCopy
  simp

@[simp] theorem takeProcess_kept (s : State) (k : ℕ) (f : RxFrame) (start : ℤ) : kept (takeProcess s k f start) = kept s := by
  unfold takeProcess
  dsimp only
  split <;> simp

@[simp] theorem closureCopy_kept (s : State) (f : RxFrame) : kept (closureCopy s f) = kept s := by
  unfold closureCopy
  simp

@[simp] theorem received_kept (s : State) (f : RxFrame) : kept (received s f).1 = kept s := by
  unfold received
  (repeat' split) <;> simp

@[simp] theorem noteForeign_kept (s : State) (f : RxFrame) : kept (noteForeign s f) = kept s := by
  unfold noteForeign
  simp

@[simp] theorem missSlot_kept (s : State) (k : ℕ) (at_ : ℕ) : kept (missSlot s k at_) = kept s := by
  unfold missSlot
  simp

@[simp] theorem pairCopies_kept (s : State) (k : ℕ) (a : SlotCopy) (b : SlotCopy) (at_ : ℕ) : kept (pairCopies s k a b at_) = kept s := by
  unfold pairCopies
  simp

@[simp] theorem takeSafety_kept (s : State) (k : Nat) (f : RxFrame) (start : Int) : kept (takeSafety s k f start) = kept s := by
  unfold takeSafety
  dsimp only
  (repeat' split) <;> simp

theorem checkStatic_discard {s t : State} {f : RxFrame} {kind : Nat} (h : checkStatic s f kind = .discard t) : kept t = kept s := by
  unfold checkStatic at h
  dsimp only at h
  repeat' split at h
  all_goals first
    | (cases h; done)
    | (cases h; simp)

theorem checkStatic_accept {s t : State} {f : RxFrame} {kind k : Nat} {start : Int} (h : checkStatic s f kind = .accept t k start) :
    kept t = kept s := by
  unfold checkStatic at h
  dsimp only at h
  repeat' split at h
  all_goals first
    | (cases h; done)
    | (cases h; simp)

@[simp] theorem singleCopy_kept (s : State) (k : ℕ) (c : SlotCopy) (at_ : ℕ) : kept (singleCopy s k c at_) = kept s := by
  unfold singleCopy
  simp

@[simp] theorem windowShut_kept (s : State) (k : ℕ) : kept (windowShut s k) = kept s := by
  unfold windowShut
  dsimp only
  (repeat' split) <;> simp

@[simp] theorem checkDynamic_kept (s : State) (f : RxFrame) : kept (checkDynamic s f).1 = kept s := by
  unfold checkDynamic
  dsimp only
  (repeat' split) <;> simp

@[simp] theorem queueHost_kept (s : State) (f : RxFrame) (start : ℤ) : kept (queueHost s f start) = kept s := by
  unfold queueHost
  simp

@[simp] theorem swapMessage_kept (s : State) (f : RxFrame) (start : ℤ) (data : Bytes) : kept (swapMessage s f start data) = kept s := by
  unfold swapMessage
  simp

@[simp] theorem messageRx_kept (s : State) (f : RxFrame) : kept (messageRx s f) = kept s := by
  unfold messageRx
  dsimp only
  split <;> simp

@[simp] theorem noteJump_kept (s : State) (n : ℕ) (j : Bool) : kept (noteJump s n j) = kept s := by
  unfold noteJump
  simp

@[simp] theorem measure_kept (s : State) (f : RxFrame) (req : ℕ) : kept (measure s f req) = kept s := by
  unfold measure
  simp

@[simp] theorem noteD12_kept (s : State) : kept (noteD12 s) = kept s := by
  unfold noteD12
  simp

@[simp] theorem serve_kept (m : ℕ) (commit : ℕ) (s : State) (b : Build) (n : ℕ) : kept (serve m commit s b n).1 = kept s := by
  unfold serve
  (repeat' split) <;> simp

@[simp] theorem serveAll_kept (m c : Nat) (l : List Nat) (r : State × Build) : kept (serveAll m c l r).1 = kept r.1 := by
  induction l generalizing r with
  | nil => rfl
  | cons a l ih => simp [serveAll, ih]

@[simp] theorem buildGrant_kept (s : State) : kept (buildGrant s) = kept s := by
  unfold buildGrant
  simp

@[simp] theorem sendBy_kept (ports : List ℕ) (s : State) (action : ℕ) (hdr : Bytes) (payload : Bytes) : kept (sendBy ports s action hdr payload) = kept s := by
  unfold sendBy
  simp

@[simp] theorem sendFrame_kept (s : State) (action : ℕ) (hdr : Bytes) (payload : Bytes) : kept (sendFrame s action hdr payload) = kept s := by
  unfold sendFrame
  simp

@[simp] theorem takeDown_kept (s : State) (k : ℕ) (tick : ℕ) : kept (takeDown s k tick).1 = kept s := by
  unfold takeDown
  dsimp only
  (repeat' split) <;> simp

@[simp] theorem sendStatic_kept (s : State) (k : ℕ) (tick : ℕ) : kept (sendStatic s k tick) = kept s := by
  unfold sendStatic
  simp

@[simp] theorem openWindow_kept (s : State) (action : ℕ) : kept (openWindow s action) = kept s := by
  unfold openWindow
  simp

@[simp] theorem sendMessage_kept (s : State) (h : HostFrame) (host : Bool) (action : ℕ) (slot : ℕ) : kept (sendMessage s h host action slot) = kept s := by
  unfold sendMessage
  simp

@[simp] theorem sendDynamic_kept (s : State) : kept (sendDynamic s) = kept s := by
  unfold sendDynamic
  (repeat' split) <;> simp

@[simp] theorem commitPoint_kept (s : State) (dynamic : Bool) (slot : ℕ) : kept (commitPoint s dynamic slot) = kept s := by
  unfold commitPoint
  simp

/-! ### TahixaStart -/

@[simp] theorem lineLost_kept (s : State) : kept (lineLost s) = kept s := by
  unfold lineLost
  simp

@[simp] theorem settleStart_kept (s : State) : kept (settleStart s) = kept s := by
  unfold settleStart
  simp

@[simp] theorem followLeader_kept (s : State) (src : ℕ) : kept (followLeader s src) = kept s := by
  unfold followLeader
  simp

@[simp] theorem moduleStartup_kept (s : State) (src : ℕ) (round : ℕ) (start : ℤ) : kept (moduleStartup s src round start) = kept s := by
  unfold moduleStartup
  split <;> simp

@[simp] theorem secondStartup_kept (s : State) (f : RxFrame) (c : StartupCopy) : kept (secondStartup s f c) = kept s := by
  unfold secondStartup
  simp

@[simp] theorem firstStartup_kept (s0 : State) (f : RxFrame) : kept (firstStartup s0 f) = kept s0 := by
  unfold firstStartup
  simp

@[simp] theorem startupRx_kept (s : State) (f : RxFrame) : kept (startupRx s f) = kept s := by
  unfold startupRx
  (repeat' split) <;> simp

@[simp] theorem coldStart'_kept (s : State) (round : ℕ) : kept (coldStart' s round) = kept s := by
  unfold coldStart'
  simp

@[simp] theorem restartCycle_kept (s : State) : kept (restartCycle s) = kept s := by
  unfold restartCycle
  simp

@[simp] theorem netActivate_kept (s : State) : kept (netActivate s) = kept s := by
  unfold netActivate
  simp

@[simp] theorem nodeTick_kept (s : State) (n : ℕ) : kept (nodeTick s n) = kept s := by
  unfold nodeTick
  simp

@[simp] theorem lineOnly_kept (s : State) (k : ℕ) : kept (lineOnly s k) = kept s := by
  unfold lineOnly
  split <;> simp

@[simp] theorem netTickEnd_kept (s : State) : kept (netTickEnd s) = kept s := by
  unfold netTickEnd
  simp

@[simp] theorem netTickStart_kept (s : State) : kept (netTickStart s) = kept s := by
  unfold netTickStart
  simp

@[simp] theorem cutNodes_kept (s : State) (line : ℕ) : kept (cutNodes s line) = kept s := by
  unfold cutNodes
  simp

@[simp] theorem judgeRing_kept (s : State) (r : ℕ) : kept (judgeRing s r) = kept s := by
  unfold judgeRing
  simp

@[simp] theorem ringRestore_kept (s : State) (v : ℕ) : kept (ringRestore s v) = kept s := by
  unfold ringRestore
  simp

@[simp] theorem dynTx_kept (s : State) (v : Bytes) : kept (dynTx s v) = kept s := by
  unfold dynTx
  simp

/-! ### Pair -/

@[simp] theorem setRole_kept (s : State) (r : PairRole) : kept (setRole s r) = kept s := by
  unfold setRole
  simp

@[simp] theorem judgeRole_kept (s : State) : kept (judgeRole s) = kept s := by
  unfold judgeRole
  simp

@[simp] theorem pairEmit_kept (s : State) (o : Output) : kept (pairEmit s o) = kept s := by
  unfold pairEmit
  simp

theorem overPair_kept (s : State) (f : State → State) (h : ∀ u, kept (f u) = kept u) : kept (overPair s f) = kept s := by
  unfold overPair
  split <;> simp [h]

@[simp] theorem pairActivate_kept (s : State) : kept (pairActivate s) = kept s := by
  unfold pairActivate
  simp

@[simp] theorem takeArm_kept (ticks : ℕ) (s : State) (a : ℕ × ℕ × ℕ × ArmSource) : kept (takeArm ticks s a) = kept s := by
  unfold takeArm
  simp

@[simp] theorem takeChannel_kept (stops : Bool) (t : ℕ) (s : State) (c : ℕ × Setpoint) : kept (takeChannel stops t s c) = kept s := by
  unfold takeChannel
  simp

@[simp] theorem takeToken_kept (s : State) (t : ℕ) (stops : Bool) : kept (takeToken s t stops) = kept s := by
  unfold takeToken
  simp

@[simp] theorem followMode_kept (s : State) (m : Mode × Option Mode × Option Mode) : kept (followMode s m) = kept s := by
  unfold followMode
  split <;> simp

@[simp] theorem peerCheck_kept (s : State) (img : Bytes) : kept (peerCheck s img) = kept s := by
  unfold peerCheck
  simp

@[simp] theorem pairSwap_kept (s : State) : kept (pairSwap s) = kept s := by
  unfold pairSwap
  simp

/-! ### Solver -/

@[simp] theorem withSolver_kept (s : State) (f : SolverState → SolverState) : kept (withSolver s f) = kept s := by
  unfold withSolver
  simp

@[simp] theorem setSlot_kept (s : State) (i : ℕ) (f : SolverSlot → SolverSlot) : kept (setSlot s i f) = kept s := by
  unfold setSlot
  simp

@[simp] theorem endRun_kept (s : State) (slot : ℕ) (code : ℕ) : kept (endRun s slot code) = kept s := by
  unfold endRun
  simp

@[simp] theorem abortRun_kept (s : State) (slot : ℕ) : kept (abortRun s slot) = kept s := by
  unfold abortRun
  simp

@[simp] theorem solverLoad_kept (s : State) (slot : ℕ) (chunk : Bytes) : kept (solverLoad s slot chunk) = kept s := by
  unfold solverLoad
  simp

@[simp] theorem solverUnload_kept (s : State) (slot : ℕ) : kept (solverUnload s slot) = kept s := by
  unfold solverUnload
  simp

@[simp] theorem analysisDone_kept (s : State) (slot : ℕ) : kept (analysisDone s slot) = kept s := by
  unfold analysisDone
  dsimp only
  (repeat' split) <;> simp

@[simp] theorem solverDelta_kept (s : State) (slot : ℕ) (bs : Bytes) : kept (solverDelta s slot bs) = kept s := by
  unfold solverDelta
  simp

@[simp] theorem stopCurrent_kept (s : State) (code : ℕ) (guard : Bool) : kept (stopCurrent s code guard) = kept s := by
  unfold stopCurrent
  simp

@[simp] theorem runsIsolated_kept (s : State) : kept (runsIsolated s) = kept s := by
  unfold runsIsolated
  simp

@[simp] theorem recordFactor_kept (s : State) (slot : ℕ) (k : KktMatrix) (fs : List FactorColumn) : kept (recordFactor s slot k fs) = kept s := by
  unfold recordFactor
  simp

@[simp] theorem iterationZero_kept (s : State) (st : Structure) (id : ℕ) (r : SolverRun) : kept (iterationZero s st id r) = kept s := by
  unfold iterationZero
  dsimp only
  (repeat' split) <;> simp

@[simp] theorem startRun_kept (s : State) (r0 : SolverRun) : kept (startRun s r0) = kept s := by
  unfold startRun
  dsimp only
  (repeat' split) <;> simp

@[simp] theorem startNext_kept (s : State) : kept (startNext s) = kept s := by
  unfold startNext
  split <;> simp

@[simp] theorem solverRun_kept (s : State) (slot : ℕ) (bs : Bytes) : kept (solverRun s slot bs) = kept s := by
  unfold solverRun
  (repeat' split) <;> simp

@[simp] theorem startPlanner_kept (s : State) (slot : ℕ) (deadline : ℕ) : kept (startPlanner s slot deadline) = kept s := by
  unfold startPlanner
  split <;> simp

@[simp] theorem iterationEnd_kept (s : State) (factorNs : ℕ) : kept (iterationEnd s factorNs) = kept s := by
  unfold iterationEnd
  dsimp only
  (repeat' split) <;> simp

@[simp] theorem solveDeadline_kept (s : State) (inFactor : Bool) (suspended : Bool) : kept (solveDeadline s inFactor suspended) = kept s := by
  unfold solveDeadline
  (repeat' split) <;> simp

@[simp] theorem hostResume_kept (s : State) : kept (hostResume s) = kept s := by
  unfold hostResume
  split <;> simp

@[simp] theorem plainWork_kept (s : State) (r : SolverRun) : kept (plainWork s r).1 = kept s := by
  unfold plainWork
  dsimp only
  (repeat' split) <;> simp

@[simp] theorem solverDone_kept (s : State) (slot : ℕ) : kept (solverDone s slot) = kept s := by
  unfold solverDone
  simp

@[simp] theorem runEnd_kept (s : State) (slot : ℕ) : kept (runEnd s slot) = kept s := by
  unfold runEnd
  dsimp only
  split <;> simp

/-! ### Records -/

@[simp] theorem countDenied_kept (s : State) : kept (countDenied s) = kept s := by
  unfold countDenied
  simp

theorem actionOf_kept (s : State) (r : WriteRecord) {t : State} (h : actionOf s r = some t) : kept t = kept s := by
  unfold actionOf at h
  dsimp only at h
  repeat' split at h
  all_goals cases h
  all_goals simp

@[simp] theorem applyRecord_kept (s : State) (r : WriteRecord) : kept (applyRecord s r) = kept s := by
  unfold applyRecord
  split
  · rename_i h
    exact actionOf_kept s r h
  · simp

@[simp] theorem retick_kept (old s : State) : kept (retick old s) = kept s := by
  unfold retick
  simp

@[simp] theorem applyRecords_kept (s : State) (rs : List WriteRecord) : kept (applyRecords s rs) = kept s := by
  unfold applyRecords
  simp

/-! ### Planner -/

@[simp] theorem withPlan_kept (s : State) (f : PlanState → PlanState) : kept (withPlan s f) = kept s := by
  unfold withPlan
  simp

@[simp] theorem planFails_kept (s : State) (code : ℕ) : kept (planFails s code) = kept s := by
  unfold planFails
  simp

@[simp] theorem planSucceeds_kept (s : State) : kept (planSucceeds s) = kept s := by
  unfold planSucceeds
  simp

@[simp] theorem takePath_kept (snap : Snapshot) (s : State) (w : PathWait) : kept (takePath snap s w) = kept s := by
  unfold takePath
  simp

@[simp] theorem plannerSnapshot_kept (s : State) : kept (plannerSnapshot s) = kept s := by
  unfold plannerSnapshot
  simp

@[simp] theorem plannerPost_kept (s : State) : kept (plannerPost s) = kept s := by
  unfold plannerPost
  split <;> simp

@[simp] theorem askLeases_kept (snap : Snapshot) (E : ℕ) (s : State) (r : ArmPassed) : kept (askLeases snap E s r) = kept s := by
  unfold askLeases
  split <;> simp

@[simp] theorem planCommits_kept (s : State) (snap : Snapshot) (E : ℕ) (seq : ℕ) (code : ℕ) (rs : List ArmPassed) : kept (planCommits s snap E seq code rs) = kept s := by
  unfold planCommits
  simp

@[simp] theorem commitTest_kept (s : State) : kept (commitTest s) = kept s := by
  unfold commitTest
  split <;> simp

@[simp] theorem pathRequest_kept (e : Entry) (x1 : Transport) (s : State) : kept (pathRequest e x1 s) = kept s := by
  unfold pathRequest
  simp

/-! ### Reset -/

@[simp] theorem withStart_kept (s : State) (f : StartState → StartState) : kept (withStart s f) = kept s := by
  unfold withStart
  simp

@[simp] theorem keepRecord_kept (s : State) : kept (keepRecord s) = kept s := by
  unfold keepRecord
  simp

@[simp] theorem editRecord_kept (s : State) (f : StartRecord → StartRecord) : kept (editRecord s f) = kept s := by
  unfold editRecord
  simp

@[simp] theorem mirrorRecord_kept (s : State) : kept (mirrorRecord s) = kept s := by
  unfold mirrorRecord
  simp

@[simp] theorem moduleReset_kept (s : State) : kept (moduleReset s) = kept s := by
  unfold moduleReset
  simp [keptSecurity]

@[simp] theorem setFirmware_kept (s : State) (slot : ℕ) (f : FirmwareSlot → FirmwareSlot) : kept (setFirmware s slot f) = kept s := by
  unfold setFirmware
  simp

/-! ### Security -/

@[simp] theorem withSec_kept (s : State) (f : SecurityState → SecurityState) :
    kept (withSec s f) = Kept.mk s.pending (f s.sec).otp (f s.sec).customer (f s.sec).hmac s.cham.stoLatch := rfl

@[simp] theorem loadIndex_kept (s : State) : kept (loadIndex s) = kept s := by
  unfold loadIndex
  simp

@[simp] theorem reserveIndex_kept (s : State) (norOk : Bool) : kept (reserveIndex s norOk).1 = kept s := by
  unfold reserveIndex
  dsimp only
  (repeat' split) <;> simp

@[simp] theorem issueIndex_kept (s : State) : kept (issueIndex s) = kept s := by
  unfold issueIndex
  simp

@[simp] theorem newReport_kept (e : Entry) (off : Nat) (norOk : Bool) (s : State) : kept (newReport e off norOk s) = kept s := by
  unfold newReport
  dsimp only
  split
  · simp
  · split
    · simp
    · have h := reserveIndex_kept s norOk
      split <;> (rename_i g; rw [g] at h; simp_all)

@[simp] theorem attest_kept (norOk : Bool) (e : Entry) (x2 : Transport) (s : State) : kept (attest norOk e x2 s) = kept s := by
  unfold attest
  split <;> simp

/-- KEY_ENROL changes the keys alone. -/
theorem enrol_kept (s : State) (action slot flags : Nat) (data sk : Bytes) (txid : BitVec 16) :
    (kept (enrol s action slot flags data sk txid)).pending = s.pending ∧
      (kept (enrol s action slot flags data sk txid)).otp = s.sec.otp ∧
      (kept (enrol s action slot flags data sk txid)).sto = s.cham.stoLatch := by
  unfold enrol
  simp only [withSec_kept]
  split <;> simp

@[simp] theorem loaderData_kept (s : State) (slot : ℕ) (off : ℕ) (data : Bytes) : kept (loaderData s slot off data) = kept s := by
  unfold loaderData
  simp

@[simp] theorem loaderWriteSlot_kept (e : Entry) (x1 : Transport) (s : State) : kept (loaderWriteSlot e x1 s) = kept s := by
  unfold loaderWriteSlot
  simp

@[simp] theorem loaderRestart_kept (e : Entry) (x1 : Transport) (s : State) : kept (loaderRestart e x1 s) = kept s := by
  unfold loaderRestart
  simp

/-! ### ObjRead -/

@[simp] theorem readEffect_kept (s : State) (row : ObjRow) (key : Nat) : kept (readEffect s row key) = kept s := by
  unfold readEffect dynRxRead
  (repeat' split) <;> simp

@[simp] theorem countGated_kept (s : State) : kept (countGated s) = kept s := by
  unfold countGated
  simp

@[simp] theorem readOne_kept (priv : Bool) (x : State × Bytes × Bool) (key : Nat) : kept (readOne priv x key).1 = kept x.1 := by
  unfold readOne
  (repeat' split) <;> simp

theorem readOne_fold_kept (priv : Bool) (l : List Nat) (x : State × Bytes × Bool) : kept (l.foldl (readOne priv) x).1 = kept x.1 := by
  induction l generalizing x with
  | nil => rfl
  | cons a l ih => simp [ih]

@[simp] theorem objRead_kept (e : Entry) (v : Transport) (s : State) : kept (objRead e v s) = kept s := by
  unfold objRead
  dsimp only
  repeat' split
  all_goals simp [readOne_fold_kept]

/-! ### Check -/

@[simp] theorem analyseAll_kept (s : State) : kept (analyseAll s) = kept s := by
  unfold analyseAll
  simp

@[simp] theorem loadPlanner_kept (s : State) (rs : List WriteRecord) : kept (loadPlanner s rs) = kept s := by
  unfold loadPlanner
  split <;> simp

@[simp] theorem unloadPlanner_kept (s : State) : kept (unloadPlanner s) = kept s := by
  unfold unloadPlanner
  simp

@[simp] theorem stagedState_kept (s : State) (c : Commit) : kept (stagedState s c) = kept s := by
  unfold stagedState
  simp

/-! ### Image -/

@[simp] theorem withImage_kept (s : State) (f : ImageState → ImageState) : kept (withImage s f) = kept s := by
  unfold withImage
  simp

@[simp] theorem imageBegin_kept (e : Entry) (x1 : Transport) (s : State) : kept (imageBegin e x1 s) = kept s := by
  unfold imageBegin
  simp

@[simp] theorem imageData_kept (e : Entry) (x1 : Transport) (s : State) : kept (imageData e x1 s) = kept s := by
  unfold imageData
  (repeat' split) <;> simp

@[simp] theorem imageCommit_kept (e : Entry) (x1 : Transport) (s : State) : kept (imageCommit e x1 s) = kept s := by
  unfold imageCommit
  (repeat' split) <;> simp

@[simp] theorem imageAbort_kept (e : Entry) (x1 : Transport) (s : State) : kept (imageAbort e x1 s) = kept s := by
  unfold imageAbort
  dsimp only
  split <;> simp

@[simp] theorem imageRefused_kept (s : State) (c : Commit) (f : Finding) : kept (imageRefused s c f) = kept s := by
  unfold imageRefused
  (repeat' split) <;> simp

@[simp] theorem imagePassed_kept (s : State) (c : Commit) (taken : Option (Bytes × ℕ × ℕ)) : kept (imagePassed s c taken) = kept s := by
  unfold imagePassed
  (repeat' split) <;> simp

@[simp] theorem imageAction_kept (s : State) (r : WriteRecord) : kept (imageAction s r) = kept s := by
  unfold imageAction
  split <;> simp

@[simp] theorem imageActions_kept (s : State) (rs : List WriteRecord) : kept (imageActions s rs) = kept s := by
  unfold imageActions
  simp

@[simp] theorem takeSet_kept (s : State) : kept (takeSet s) = kept s := by
  unfold takeSet
  split <;> simp

@[simp] theorem optionalDomains_kept (s : State) : kept (optionalDomains s) = kept s := by
  unfold optionalDomains
  simp

@[simp] theorem freshUnderImage_kept (s : State) : kept (freshUnderImage s) = kept s := by
  unfold freshUnderImage
  simp

@[simp] theorem unitsActivate_kept (old s : State) : kept (unitsActivate old s) = kept s := by
  unfold unitsActivate
  simp

@[simp] theorem imageActivation_kept (s : State) : kept (imageActivation s) = kept s := by
  unfold imageActivation
  (repeat' split) <;> simp

/-! ### Acq -/

@[simp] theorem withCapture_kept (s : State) (f : Capture → Capture) : kept (withCapture s f) = kept s := by
  unfold withCapture
  simp

@[simp] theorem answerRead_kept (s : State) (w : AcqWait) : kept (answerRead s w) = kept s := by
  unfold answerRead
  simp

@[simp] theorem settleReads_kept (s : State) : kept (settleReads s) = kept s := by
  unfold settleReads
  simp

@[simp] theorem captureEnds_kept (s : State) (how : AcqMode) : kept (captureEnds s how) = kept s := by
  unfold captureEnds
  simp

@[simp] theorem takeTrigger_kept (s : State) (t : Trig) : kept (takeTrigger s t) = kept s := by
  unfold takeTrigger
  simp

@[simp] theorem storeRow_kept (s : State) (room : Bool) (row : Bytes) : kept (storeRow s room row) = kept s := by
  unfold storeRow
  dsimp only
  (repeat' split) <;> simp

@[simp] theorem takeSample_kept (s : State) (room : Bool) : kept (takeSample s room) = kept s := by
  unfold takeSample
  dsimp only
  split <;> simp

@[simp] theorem acqAct_kept (s : State) (a : AcqAction) : kept (acqAct s a) = kept s := by
  unfold acqAct
  split <;> simp

@[simp] theorem acqTick_kept (s : State) : kept (acqTick s) = kept s := by
  unfold acqTick
  simp

@[simp] theorem acqArm_kept (e : Entry) (x1 : Transport) (s : State) : kept (acqArm e x1 s) = kept s := by
  unfold acqArm
  simp

@[simp] theorem acqRead_kept (e : Entry) (x1 : Transport) (s : State) : kept (acqRead e x1 s) = kept s := by
  unfold acqRead
  simp

@[simp] theorem setClass_kept (s : State) (cls : ℕ) (l : List LogEntry) : kept (setClass s cls l) = kept s := by
  unfold setClass
  simp

@[simp] theorem logRead_kept (e : Entry) (x1 : Transport) (s : State) : kept (logRead e x1 s) = kept s := by
  unfold logRead
  simp

/-! ### Start -/

@[simp] theorem markStep_kept (s : State) (k : ℕ) (tries : ℕ) (o : StepOutcome) : kept (markStep s k tries o) = kept s := by
  unfold markStep
  simp

@[simp] theorem noteFailWord_kept (s : State) (k : ℕ) (w : Word) : kept (noteFailWord s k w) = kept s := by
  unfold noteFailWord
  simp

@[simp] theorem noteFirstFailed_kept (s : State) (k : ℕ) : kept (noteFirstFailed s k) = kept s := by
  unfold noteFirstFailed
  simp

@[simp] theorem checkRetention_kept (s : State) : kept (checkRetention s) = kept s := by
  unfold checkRetention
  simp

@[simp] theorem loadRecord_kept (s0 : State) : kept (loadRecord s0) = kept s0 := by
  unfold loadRecord
  simp

@[simp] theorem stampStep_kept (s : State) : kept (stampStep s) = kept s := by
  unfold stampStep
  simp

@[simp] theorem beginStep_kept (s : State) (k : ℕ) : kept (beginStep s k) = kept s := by
  unfold beginStep
  simp

@[simp] theorem attemptFails_kept (s : State) : kept (attemptFails s) = kept s := by
  unfold attemptFails
  simp

@[simp] theorem stepUp_kept (s : State) (k : ℕ) (without : Option ℕ) : kept (stepUp s k without) = kept s := by
  unfold stepUp
  simp

@[simp] theorem rescueStart_kept (s : State) (ethernet : Bool) : kept (rescueStart s ethernet) = kept s := by
  unfold rescueStart
  simp

@[simp] theorem stepOver_kept (s : State) (k : ℕ) : kept (stepOver s k) = kept s := by
  unfold stepOver
  simp

@[simp] theorem stepFails_kept (s : State) (k : ℕ) (tries : ℕ) (o : StepOutcome) (w : Word) : kept (stepFails s k tries o w) = kept s := by
  unfold stepFails
  simp

@[simp] theorem stepPasses_kept (s : State) (k : ℕ) : kept (stepPasses s k) = kept s := by
  unfold stepPasses
  simp

@[simp] theorem slotFails_kept (s : State) (code : ℕ) : kept (slotFails s code) = kept s := by
  unfold slotFails
  simp

@[simp] theorem stepB07_kept (s : State) (r : StepResult) : kept (stepB07 s r) = kept s := by
  unfold stepB07
  split <;> simp

theorem stepB09_follows (s : State) (r : StepResult) : Follows s (stepB09 s r) := by
  unfold stepB09
  dsimp only
  repeat' split
  all_goals first
    | (apply Follows.of_kept; simp; done)
    | exact (chamoisLatch_follows s (chamoisWord 64)).trans (.of_kept (by simp))

theorem stepWork_kept (s : State) (k : Nat) {t : State} (h : stepWork s k = some t) : kept t = kept s := by
  unfold stepWork at h
  repeat' split at h
  all_goals simp_all
  all_goals first
    | (subst h; simp)
    | (obtain ⟨a, -, rfl⟩ := h; simp)

/-- The security floor goes up; nothing else of these changes. -/
theorem raiseFloor_follows (s : State) : Follows s (raiseFloor s) := by
  unfold raiseFloor
  dsimp only
  split
  · rename_i g
    simp only [Bool.and_eq_true, decide_eq_true_eq] at g
    exact ⟨rfl, rfl, rfl, rfl, fun h => by simp only [withSec]; omega, id⟩
  · exact .refl s

theorem startComplete_follows (s : State) : Follows s (startComplete s) := by
  unfold startComplete
  dsimp only
  split
  · exact ((Follows.of_kept (by simp)).trans (raiseFloor_follows (withStart (mirrorRecord (editRecord s (fun r => { r with consecFailed := 0 })))
      (fun b => { b with running := false, done := true })))).trans (.of_kept (by simp))
  · exact ((Follows.of_kept (by simp)).trans (raiseFloor_follows (withStart (mirrorRecord (editRecord s (fun r => { r with consecFailed := 0 })))
      (fun b => { b with running := false, done := true })))).trans (.of_kept (by simp))

theorem stepEnds_follows (s : State) (r : StepResult) : Follows s (stepEnds s r) := by
  unfold stepEnds
  extract_lets k r1 s1
  have h1 : kept s1 = kept s := by simp [s1]
  clear_value s1 r1
  split
  · exact .refl s
  split
  · exact .of_kept (by simp)
  split
  · exact .of_kept (by simp)
  split
  · exact stepB09_follows s r1
  split
  · exact .of_kept (by simp [h1])
  · rename_i s2 h
    have h2 : kept s2 = kept s := by
      split at h
      · exact (stepWork_kept s1 k h).trans h1
      · cases h
    split
    · exact (Follows.of_kept (by simp [h2])).trans (startComplete_follows (stepPasses s2 14))
    · exact .of_kept (by simp [h2])

@[simp] theorem cutShort_kept (s : State) : kept (cutShort s) = kept s := by
  unfold cutShort
  simp

@[simp] theorem withHw_kept (s : State) (f : HardwareState → HardwareState) : kept (withHw s f) = kept s := by
  unfold withHw
  simp

@[simp] theorem setVin_kept (s : State) (mv : ℕ) : kept (setVin s mv) = kept s := by
  unfold setVin
  simp

@[simp] theorem coreLost_kept (s : State) : kept (coreLost s) = kept s := by
  unfold coreLost
  simp

/-! ### Errors -/

@[simp] theorem countCorrected_kept (s : State) (region : ℕ) (block : ℕ) : kept (countCorrected s region block) = kept s := by
  unfold countCorrected
  simp

@[simp] theorem blockFails_kept (s : State) (region : ℕ) (block : ℕ) (element : ℕ) : kept (blockFails s region block element) = kept s := by
  unfold blockFails
  simp

@[simp] theorem partFails_kept (s0 : State) (region : ℕ) (block : ℕ) (element : ℕ) : kept (partFails s0 region block element) = kept s0 := by
  unfold partFails
  (repeat' split) <;> simp

@[simp] theorem captureRowsLost_kept (s : State) (first : ℕ) (count : ℕ) : kept (captureRowsLost s first count) = kept s := by
  unfold captureRowsLost
  simp

@[simp] theorem logLost_kept (s : State) (cls : ℕ) (first : ℕ) (count : ℕ) : kept (logLost s cls first count) = kept s := by
  unfold logLost
  dsimp only
  (repeat' split) <;> simp

/-! ### Modes -/

@[simp] theorem abandonCommit_kept (s : State) : kept (abandonCommit s) = kept s := by
  unfold abandonCommit
  (repeat' split) <;> simp

@[simp] theorem switchFor_kept (s : State) (t : Mode) : kept (switchFor s t) = kept s := by
  unfold switchFor
  split <;> simp

@[simp] theorem targetEntry_kept (s : State) (t : Mode) : kept (targetEntry s t) = kept s := by
  unfold targetEntry
  split <;> simp

@[simp] theorem startTransition_kept (s : State) : kept (startTransition s) = kept s := by
  unfold startTransition
  (repeat' split) <;> simp

@[simp] theorem endArmHolds_kept (s : State) : kept (endArmHolds s) = kept s := by
  unfold endArmHolds
  simp

@[simp] theorem sepAnew_kept (s : State) : kept (sepAnew s) = kept s := by
  unfold sepAnew
  simp

@[simp] theorem modeEntry_kept (s : State) (t : Mode) : kept (modeEntry s t) = kept s := by
  unfold modeEntry
  split <;> simp

@[simp] theorem takeMode_kept (s : State) (t : Mode) : kept (takeMode s t) = kept s := by
  unfold takeMode
  simp

@[simp] theorem modeTick_kept (s : State) : kept (modeTick s) = kept s := by
  unfold modeTick
  split <;> simp

@[simp] theorem modeTransitionComplete_kept (s : State) : kept (modeTransitionComplete s) = kept s := by
  unfold modeTransitionComplete
  split <;> simp

@[simp] theorem acceptMode_kept (s : State) (o : Origin) (m : Mode) : kept (acceptMode s o m) = kept s := by
  unfold acceptMode
  simp

/-- SET_MODE CONFIGURE in FAULT clears Chamois's STO latch (R44). -/
theorem clearLatches_kept (s : State) : kept (clearLatches s) = { kept s with sto := false } := by
  rfl

@[simp] theorem resetCommand_kept (e : Entry) (x1 : Transport) (s : State) : kept (resetCommand e x1 s) = kept s := by
  unfold resetCommand
  simp

/-! ### ObjWrite -/

@[simp] theorem objWrite_kept (e : Entry) (x1 : Transport) (s : State) : kept (objWrite e x1 s) = kept s := by
  unfold objWrite
  dsimp only
  (repeat' split) <;> simp

@[simp] theorem objWriteEffect_kept (s : State) : kept (objWriteEffect s) = kept s := by
  unfold objWriteEffect
  split <;> simp

@[simp] theorem gateTimeout_kept (s : State) : kept (gateTimeout s) = kept s := by
  unfold gateTimeout
  split <;> simp

/-! ### Registers -/

theorem readReg_kept (s : State) (b : Server) (privileged : Bool) (act : State → Nat × State) (h : ∀ s, kept (act s).2 = kept s) :
    kept (readReg s b privileged act) = kept s := by
  unfold readReg
  (repeat' split) <;> simp [h]

theorem writeReg_kept (s : State) (b : Server) (privileged priv : Bool) (act : State → State) (h : ∀ s, kept (act s) = kept s) :
    kept (writeReg s b privileged priv act) = kept s := by
  unfold writeReg
  (repeat' split) <;> simp [h]

@[simp] theorem withReg_kept (s : State) (f : RegState → RegState) : kept (withReg s f) = kept s := by
  unfold withReg
  simp

@[simp] theorem popStamp_kept (value : ℕ) (s : State) : kept (popStamp value s) = kept s := by
  unfold popStamp
  simp

@[simp] theorem clearFirst_kept (value : ℕ) (s : State) : kept (clearFirst value s) = kept s := by
  unfold clearFirst
  simp

@[simp] theorem viewClear_kept (value : ℕ) (s : State) : kept (viewClear value s) = kept s := by
  unfold viewClear
  simp

@[simp] theorem clearInt_kept (value : ℕ) (s : State) : kept (clearInt value s) = kept s := by
  unfold clearInt
  simp

@[simp] theorem writeMask_kept (value : ℕ) (s : State) : kept (writeMask value s) = kept s := by
  unfold writeMask
  simp

@[simp] theorem clearDone_kept (value : ℕ) (s : State) : kept (clearDone value s) = kept s := by
  unfold clearDone
  simp

@[simp] theorem clearClk_kept (value : ℕ) (s : State) : kept (clearClk value s) = kept s := by
  unfold clearClk
  simp

@[simp] theorem writeMsix_kept (offset : ℕ) (value : ℕ) (s : State) : kept (writeMsix offset value s) = kept s := by
  unfold writeMsix
  simp

theorem regEffect_kept {offset value : Nat} {p : Bool} {act : State → State} (h : regEffect offset value = some (p, act)) (s : State) :
    kept (act s) = kept s := by
  unfold regEffect at h
  dsimp only at h
  repeat' split at h
  all_goals cases h
  all_goals simp

/-! ### Tick -/

@[simp] theorem passClocks_kept (s : State) (n : ℕ) : kept (passClocks s n) = kept s := by
  unfold passClocks
  simp

@[simp] theorem toTickStart_kept (s : State) : kept (toTickStart s) = kept s := by
  unfold toTickStart
  simp

@[simp] theorem herdStep_kept (s : State) : kept (herdStep s) = kept s := by
  unfold herdStep
  split <;> simp

@[simp] theorem activationTickStart_kept (s : State) : kept (activationTickStart s) = kept s := by
  unfold activationTickStart
  simp

@[simp] theorem handOutPlan_kept (s : State) (rs : List PlanRecord) : kept (handOutPlan s rs) = kept s := by
  unfold handOutPlan
  simp

@[simp] theorem planTakesEffect_kept (s : State) : kept (planTakesEffect s) = kept s := by
  unfold planTakesEffect
  split <;> simp

@[simp] theorem holdAtPeriod_kept (s : State) : kept (holdAtPeriod s) = kept s := by
  unfold holdAtPeriod
  split <;> simp

@[simp] theorem periodTick_kept (s : State) : kept (periodTick s) = kept s := by
  unfold periodTick
  simp

@[simp] theorem writesDue_kept (s : State) : kept (writesDue s) = kept s := by
  unfold writesDue
  simp

@[simp] theorem tickStarts_kept (s : State) : kept (tickStarts s) = kept s := by
  unfold tickStarts
  simp

/-! ### The three commands that change one of them -/

/-- The queue and the OTP memory, which no command changes but for the floor. -/
structure Fixed (s t : State) : Prop where
  pending : t.pending = s.pending
  otp : t.sec.otp = { s.sec.otp with floor := t.sec.otp.floor }
  floor : s.sec.otp.floor ≤ 64 → s.sec.otp.floor ≤ t.sec.otp.floor ∧ t.sec.otp.floor ≤ 64

theorem Follows.fixed {s t : State} (h : Follows s t) : Fixed s t := ⟨h.pending, h.otp, h.floor⟩

theorem Fixed.trans {s t u : State} (h : Fixed s t) (g : Fixed t u) : Fixed s u :=
  ⟨g.pending.trans h.pending, by rw [g.otp, h.otp],
    fun k => ⟨Nat.le_trans (h.floor k).1 (g.floor (h.floor k).2).1, (g.floor (h.floor k).2).2⟩⟩

/-- A command does what its body does, for any relation that the state before its body cannot break. -/
theorem command_rel (R : State → State → Prop) (hk : ∀ s t, kept t = kept s → R s t) (ht : ∀ s t u, R s t → R t u → R s u) (c : CmdSpec)
    (priv lenOk : Entry → Bool) (body : Entry → Transport → State → State) (clk : Nat) (e0 : Entry) (s0 : State)
    (hb : ∀ e v s, R s (body e v s)) : R s0 (command c priv lenOk body clk e0 s0) := by
  unfold command
  dsimp only
  repeat' split
  all_goals first
    | exact hk _ _ (by simp)
    | exact ht _ _ _ (hk _ _ (by simp)) (hb _ _ _)

theorem enrol_fixed (s : State) (action slot flags : Nat) (data sk : Bytes) (txid : BitVec 16) :
    Fixed s (enrol s action slot flags data sk txid) := by
  obtain ⟨hp, ho, -⟩ := enrol_kept s action slot flags data sk txid
  change (enrol s action slot flags data sk txid).sec.otp = s.sec.otp at ho
  exact ⟨hp, by rw [ho], fun h => by rw [ho]; exact ⟨Nat.le_refl _, h⟩⟩

theorem keyEnrol_fixed (e : Entry) (v : Transport) (s : State) : Fixed s (keyEnrol e v s) := by
  unfold keyEnrol
  dsimp only
  repeat' split
  all_goals first
    | (refine (Follows.of_kept ?_).fixed; simp; done)
    | exact (enrol_fixed _ _ _ _ _ _ _).trans (Follows.of_kept (complete_kept _ _ _ _)).fixed

theorem Fixed.of_sto {s t : State} {b : Bool} (h : kept t = { kept s with sto := b }) : Fixed s t := by
  simp only [kept, Kept.mk.injEq] at h
  obtain ⟨hp, ho, -⟩ := h
  exact ⟨hp, by rw [ho], fun h => by rw [ho]; exact ⟨Nat.le_refl _, h⟩⟩

theorem leaveFault_fixed (s : State) (o : Origin) : Fixed s (leaveFault s o) := by
  unfold leaveFault
  dsimp only
  repeat' split
  all_goals first
    | (refine (Follows.of_kept ?_).fixed; simp; done)
    | exact (Fixed.of_sto (clearLatches_kept s)).trans (Follows.of_kept (by simp)).fixed

theorem setMode_fixed (e : Entry) (v : Transport) (s : State) : Fixed s (setMode e v s) := by
  unfold setMode
  dsimp only
  repeat' split
  all_goals first
    | exact leaveFault_fixed _ _
    | exact (Follows.of_kept (by simp)).fixed

/-- No command takes from the queue or changes the OTP memory but to raise the floor (R417). -/
theorem execKeyEnrol_fixed (clk : Nat) (e : Entry) (s : State) {t : State} (h : execKeyEnrol clk e s = .next t) : Fixed s t := by
  cases h
  exact command_rel Fixed (fun _ _ h => (Follows.of_kept h).fixed) (fun _ _ _ h g => h.trans g) _ _ _ _ _ _ _ keyEnrol_fixed

theorem execSetMode_fixed (clk : Nat) (e : Entry) (s : State) {t : State} (h : execSetMode clk e s = .next t) : Fixed s t := by
  cases h
  exact command_rel Fixed (fun _ _ h => (Follows.of_kept h).fixed) (fun _ _ _ h g => h.trans g) _ _ _ _ _ _ _ setMode_fixed

theorem execPowerOn_fixed (clk mv : Nat) (removed : Bool) (s : State) {t : State} (h : execPowerOn clk mv removed s = .next t) : Fixed s t := by
  cases h
  dsimp only
  repeat' split
  all_goals first
    | (refine (Follows.of_kept ?_).fixed; simp; done)
    | exact Fixed.trans (t := coreLost (begin clk s)) (Follows.of_kept (by simp)).fixed (Fixed.of_sto (b := false) (by rfl))

end Sys2Proof.Machine
end

