-- ==== Sys2Proof/Laws/Steps.lean ====
section
/-! SUPPORT. One lemma per command: none but KEY_ENROL, SET_MODE and POWER_ON changes the queue, the keys or the OTP memory, lowers the
security floor or clears Chamois's STO latch. -/

set_option Elab.async false

namespace Sys2Proof.Machine

theorem execNop_follows {x0 : Nat} {x1 : Entry} {s t : State} (h : exec (.nop x0 x1) s = .next t) : Follows s t := by
  simp only [exec, execNop, Host.Outcome.next.injEq] at h
  subst h
  exact .of_kept (command_kept _ _ _ _ _ _ _ (by intro e v s; simp))

theorem execOpenSession_follows {x0 : Nat} {x1 : Entry} {s t : State} (h : exec (.openSession x0 x1) s = .next t) : Follows s t := by
  simp only [exec, execOpenSession, Host.Outcome.next.injEq] at h
  subst h
  exact .of_kept (command_kept _ _ _ _ _ _ _ (by intro e v s; simp))

theorem execCloseSession_follows {x0 : Nat} {x1 : Entry} {s t : State} (h : exec (.closeSession x0 x1) s = .next t) : Follows s t := by
  simp only [exec, execCloseSession, Host.Outcome.next.injEq] at h
  subst h
  exact .of_kept (command_kept _ _ _ _ _ _ _ (by intro e v s; simp))

theorem execNewEpoch_follows {x0 : Nat} {x1 : Entry} {s t : State} (h : exec (.newEpoch x0 x1) s = .next t) : Follows s t := by
  simp only [exec, execNewEpoch, Host.Outcome.next.injEq] at h
  subst h
  exact .of_kept (command_kept _ _ _ _ _ _ _ (by intro e v s; simp))

theorem execChallenge_follows {x0 : Nat} {x1 : Entry} {s t : State} (h : exec (.challenge x0 x1) s = .next t) : Follows s t := by
  simp only [exec, execChallenge, Host.Outcome.next.injEq] at h
  subst h
  exact .of_kept (command_kept _ _ _ _ _ _ _ (by intro e v s; simp))

theorem execUnlock_follows {x0 : Nat} {x1 : Entry} {s t : State} (h : exec (.unlock x0 x1) s = .next t) : Follows s t := by
  simp only [exec, execUnlock, Host.Outcome.next.injEq] at h
  subst h
  exact .of_kept (command_kept _ _ _ _ _ _ _ (by intro e v s; simp))

theorem execCancel_follows {x0 : Nat} {x1 : Entry} {s t : State} (h : exec (.cancel x0 x1) s = .next t) : Follows s t := by
  simp only [exec, execCancel, Host.Outcome.next.injEq] at h
  subst h
  exact .of_kept (command_kept _ _ _ _ _ _ _ (by intro e v s; simp))

theorem execGetStatus_follows {x0 : Nat} {x1 : Entry} {s t : State} (h : exec (.getStatus x0 x1) s = .next t) : Follows s t := by
  simp only [exec, execGetStatus, Host.Outcome.next.injEq] at h
  subst h
  exact .of_kept (command_kept _ _ _ _ _ _ _ (by intro e v s; simp))

theorem execReset_follows {x0 : Nat} {x1 : Entry} {s t : State} (h : exec (.reset x0 x1) s = .next t) : Follows s t := by
  simp only [exec, execReset, Host.Outcome.next.injEq] at h
  subst h
  exact .of_kept (command_kept _ _ _ _ _ _ _ (by intro e v s; simp))

theorem execObjRead_follows {x0 : Nat} {x1 : Entry} {s t : State} (h : exec (.objRead x0 x1) s = .next t) : Follows s t := by
  simp only [exec, execObjRead, Host.Outcome.next.injEq] at h
  subst h
  exact .of_kept (command_kept _ _ _ _ _ _ _ (by intro e v s; simp))

theorem execObjWrite_follows {x0 : Nat} {x1 : Entry} {s t : State} (h : exec (.objWrite x0 x1) s = .next t) : Follows s t := by
  simp only [exec, execObjWrite, Host.Outcome.next.injEq] at h
  subst h
  exact .of_kept (command_kept _ _ _ _ _ _ _ (by intro e v s; simp))

theorem execImageBegin_follows {x0 : Nat} {x1 : Entry} {s t : State} (h : exec (.imageBegin x0 x1) s = .next t) : Follows s t := by
  simp only [exec, execImageBegin, Host.Outcome.next.injEq] at h
  subst h
  exact .of_kept (command_kept _ _ _ _ _ _ _ (by intro e v s; simp))

theorem execImageData_follows {x0 : Nat} {x1 : Entry} {s t : State} (h : exec (.imageData x0 x1) s = .next t) : Follows s t := by
  simp only [exec, execImageData, Host.Outcome.next.injEq] at h
  subst h
  exact .of_kept (command_kept _ _ _ _ _ _ _ (by intro e v s; simp))

theorem execImageCommit_follows {x0 : Nat} {x1 : Entry} {s t : State} (h : exec (.imageCommit x0 x1) s = .next t) : Follows s t := by
  simp only [exec, execImageCommit, Host.Outcome.next.injEq] at h
  subst h
  exact .of_kept (command_kept _ _ _ _ _ _ _ (by intro e v s; simp))

theorem execImageAbort_follows {x0 : Nat} {x1 : Entry} {s t : State} (h : exec (.imageAbort x0 x1) s = .next t) : Follows s t := by
  simp only [exec, execImageAbort, Host.Outcome.next.injEq] at h
  subst h
  exact .of_kept (command_kept _ _ _ _ _ _ _ (by intro e v s; simp))

theorem execMoveJoint_follows {x0 : Nat} {x1 : Entry} {s t : State} (h : exec (.moveJoint x0 x1) s = .next t) : Follows s t := by
  simp only [exec, execMoveJoint, Host.Outcome.next.injEq] at h
  subst h
  exact .of_kept (command_kept _ _ _ _ _ _ _ (by intro e v s; simp))

theorem execMoveLinear_follows {x0 : Nat} {x1 : Entry} {s t : State} (h : exec (.moveLinear x0 x1) s = .next t) : Follows s t := by
  simp only [exec, execMoveLinear, Host.Outcome.next.injEq] at h
  subst h
  exact .of_kept (command_kept _ _ _ _ _ _ _ (by intro e v s; simp))

theorem execMoveConveyor_follows {x0 : Nat} {x1 : Entry} {s t : State} (h : exec (.moveConveyor x0 x1) s = .next t) : Follows s t := by
  simp only [exec, execMoveConveyor, Host.Outcome.next.injEq] at h
  subst h
  exact .of_kept (command_kept _ _ _ _ _ _ _ (by intro e v s; simp))

theorem execStopMove_follows {x0 : Nat} {x1 : Entry} {s t : State} (h : exec (.stopMove x0 x1) s = .next t) : Follows s t := by
  simp only [exec, execStopMove, Host.Outcome.next.injEq] at h
  subst h
  exact .of_kept (command_kept _ _ _ _ _ _ _ (by intro e v s; simp))

theorem execJog_follows {x0 : Nat} {x1 : Entry} {s t : State} (h : exec (.jog x0 x1) s = .next t) : Follows s t := by
  simp only [exec, execJog, Host.Outcome.next.injEq] at h
  subst h
  exact .of_kept (command_kept _ _ _ _ _ _ _ (by intro e v s; simp))

theorem execTeach_follows {x0 : Nat} {x1 : Entry} {s t : State} (h : exec (.teach x0 x1) s = .next t) : Follows s t := by
  simp only [exec, execTeach, Host.Outcome.next.injEq] at h
  subst h
  exact .of_kept (command_kept _ _ _ _ _ _ _ (by intro e v s; simp))

theorem execPathRequest_follows {x0 : Nat} {x1 : Entry} {s t : State} (h : exec (.pathRequest x0 x1) s = .next t) : Follows s t := by
  simp only [exec, execPathRequest, Host.Outcome.next.injEq] at h
  subst h
  exact .of_kept (command_kept _ _ _ _ _ _ _ (by intro e v s; simp))

theorem execZoneRequest_follows {x0 : Nat} {x1 : Entry} {s t : State} (h : exec (.zoneRequest x0 x1) s = .next t) : Follows s t := by
  simp only [exec, execZoneRequest, Host.Outcome.next.injEq] at h
  subst h
  exact .of_kept (command_kept _ _ _ _ _ _ _ (by intro e v s; simp))

theorem execZoneExtend_follows {x0 : Nat} {x1 : Entry} {s t : State} (h : exec (.zoneExtend x0 x1) s = .next t) : Follows s t := by
  simp only [exec, execZoneExtend, Host.Outcome.next.injEq] at h
  subst h
  exact .of_kept (command_kept _ _ _ _ _ _ _ (by intro e v s; simp))

theorem execZoneRelease_follows {x0 : Nat} {x1 : Entry} {s t : State} (h : exec (.zoneRelease x0 x1) s = .next t) : Follows s t := by
  simp only [exec, execZoneRelease, Host.Outcome.next.injEq] at h
  subst h
  exact .of_kept (command_kept _ _ _ _ _ _ _ (by intro e v s; simp))

theorem execAcqArm_follows {x0 : Nat} {x1 : Entry} {s t : State} (h : exec (.acqArm x0 x1) s = .next t) : Follows s t := by
  simp only [exec, execAcqArm, Host.Outcome.next.injEq] at h
  subst h
  exact .of_kept (command_kept _ _ _ _ _ _ _ (by intro e v s; simp))

theorem execAcqRead_follows {x0 : Nat} {x1 : Entry} {s t : State} (h : exec (.acqRead x0 x1) s = .next t) : Follows s t := by
  simp only [exec, execAcqRead, Host.Outcome.next.injEq] at h
  subst h
  exact .of_kept (command_kept _ _ _ _ _ _ _ (by intro e v s; simp))

theorem execLogRead_follows {x0 : Nat} {x1 : Entry} {s t : State} (h : exec (.logRead x0 x1) s = .next t) : Follows s t := by
  simp only [exec, execLogRead, Host.Outcome.next.injEq] at h
  subst h
  exact .of_kept (command_kept _ _ _ _ _ _ _ (by intro e v s; simp))

theorem execAttest_follows {x0 : Nat} {x1 : Entry} {x2 : Bool} {s t : State} (h : exec (.attest x0 x1 x2) s = .next t) : Follows s t := by
  simp only [exec, execAttest, Host.Outcome.next.injEq] at h
  subst h
  exact .of_kept (command_kept _ _ _ _ _ _ _ (by intro e v s; simp))

theorem execLoaderInfo_follows {x0 : Nat} {x1 : Entry} {s t : State} (h : exec (.loaderInfo x0 x1) s = .next t) : Follows s t := by
  simp only [exec, execLoaderInfo, Host.Outcome.next.injEq] at h
  subst h
  exact .of_kept (command_kept _ _ _ _ _ _ _ (by intro e v s; simp))

theorem execLoaderReadRecord_follows {x0 : Nat} {x1 : Entry} {s t : State} (h : exec (.loaderReadRecord x0 x1) s = .next t) : Follows s t := by
  simp only [exec, execLoaderReadRecord, Host.Outcome.next.injEq] at h
  subst h
  exact .of_kept (command_kept _ _ _ _ _ _ _ (by intro e v s; simp))

theorem execLoaderWriteSlot_follows {x0 : Nat} {x1 : Entry} {s t : State} (h : exec (.loaderWriteSlot x0 x1) s = .next t) : Follows s t := by
  simp only [exec, execLoaderWriteSlot, Host.Outcome.next.injEq] at h
  subst h
  exact .of_kept (command_kept _ _ _ _ _ _ _ (by intro e v s; simp))

theorem execLoaderRestart_follows {x0 : Nat} {x1 : Entry} {s t : State} (h : exec (.loaderRestart x0 x1) s = .next t) : Follows s t := by
  simp only [exec, execLoaderRestart, Host.Outcome.next.injEq] at h
  subst h
  exact .of_kept (command_kept _ _ _ _ _ _ _ (by intro e v s; simp))

theorem execUnknownOpcode_follows {x0 : Nat} {x1 : Entry} {s t : State} (h : exec (.unknownOpcode x0 x1) s = .next t) : Follows s t := by
  simp only [exec, execUnknownOpcode, Host.Outcome.next.injEq] at h
  subst h
  split
  · exact .of_kept (by simp)
  · exact .of_kept (command_kept _ _ _ _ _ _ _ (by intro e v s; simp))

theorem execUdpDatagramRx_follows {x0 : Nat} {x1 : Nat} {x2 : Nat} {x3 : Nat} {x4 : Bool} {x5 : Bytes} {s t : State} (h : exec (.udpDatagramRx x0 x1 x2 x3 x4 x5) s = .next t) : Follows s t := by
  simp only [exec, execUdpDatagramRx, Host.Outcome.next.injEq] at h
  subst h
  exact .of_kept (by simp)

theorem execCmdTailWrite_follows {x0 : Nat} {x1 : Nat} {x2 : Nat} {s t : State} (h : exec (.cmdTailWrite x0 x1 x2) s = .next t) : Follows s t := by
  simp only [exec, execCmdTailWrite, Host.Outcome.next.injEq] at h
  subst h
  exact .of_kept (by simp)

theorem execCplHeadWrite_follows {x0 : Nat} {x1 : Nat} {x2 : Nat} {s t : State} (h : exec (.cplHeadWrite x0 x1 x2) s = .next t) : Follows s t := by
  simp only [exec, execCplHeadWrite, Host.Outcome.next.injEq] at h
  subst h
  exact .of_kept (by simp)

theorem execHtNowLoRead_follows {x0 : Nat} {x1 : Bool} {s t : State} (h : exec (.htNowLoRead x0 x1) s = .next t) : Follows s t := by
  simp only [exec, execHtNowLoRead, Host.Outcome.next.injEq] at h
  subst h
  exact .of_kept ((readReg_kept _ _ _ _ (by intro s; rfl)).trans (by simp))

theorem execAcqTrigTimeLoRead_follows {x0 : Nat} {x1 : Bool} {s t : State} (h : exec (.acqTrigTimeLoRead x0 x1) s = .next t) : Follows s t := by
  simp only [exec, execAcqTrigTimeLoRead, Host.Outcome.next.injEq] at h
  subst h
  exact .of_kept ((readReg_kept _ _ _ _ (by intro s; rfl)).trans (by simp))

theorem execTxtsPop_follows {x0 : Nat} {x1 : Bool} {x2 : Nat} {s t : State} (h : exec (.txtsPop x0 x1 x2) s = .next t) : Follows s t := by
  simp only [exec, execTxtsPop, Host.Outcome.next.injEq] at h
  subst h
  exact .of_kept ((writeReg_kept _ _ _ _ _ (by intro s; simp)).trans (by simp))

theorem execTxtsOvfRead_follows {x0 : Nat} {x1 : Bool} {s t : State} (h : exec (.txtsOvfRead x0 x1) s = .next t) : Follows s t := by
  simp only [exec, execTxtsOvfRead, Host.Outcome.next.injEq] at h
  subst h
  exact .of_kept ((readReg_kept _ _ _ _ (by intro s; rfl)).trans (by simp))

theorem execErrCountRead_follows {x0 : Nat} {x1 : Bool} {s t : State} (h : exec (.errCountRead x0 x1) s = .next t) : Follows s t := by
  simp only [exec, execErrCountRead, Host.Outcome.next.injEq] at h
  subst h
  exact .of_kept ((readReg_kept _ _ _ _ (by intro s; rfl)).trans (by simp))

theorem execGatedAccessRead_follows {x0 : Nat} {x1 : Bool} {s t : State} (h : exec (.gatedAccessRead x0 x1) s = .next t) : Follows s t := by
  simp only [exec, execGatedAccessRead, Host.Outcome.next.injEq] at h
  subst h
  exact .of_kept ((readReg_kept _ _ _ _ (by intro s; rfl)).trans (by simp))

theorem execClearFirst_follows {x0 : Nat} {x1 : Bool} {x2 : Nat} {s t : State} (h : exec (.clearFirst x0 x1 x2) s = .next t) : Follows s t := by
  simp only [exec, execClearFirst, Host.Outcome.next.injEq] at h
  subst h
  exact .of_kept ((writeReg_kept _ _ _ _ _ (by intro s; simp)).trans (by simp))

theorem execViewClear_follows {x0 : Nat} {x1 : Bool} {x2 : Nat} {s t : State} (h : exec (.viewClear x0 x1 x2) s = .next t) : Follows s t := by
  simp only [exec, execViewClear, Host.Outcome.next.injEq] at h
  subst h
  exact .of_kept ((writeReg_kept _ _ _ _ _ (by intro s; simp)).trans (by simp))

theorem execIntStatusClear_follows {x0 : Nat} {x1 : Bool} {x2 : Nat} {s t : State} (h : exec (.intStatusClear x0 x1 x2) s = .next t) : Follows s t := by
  simp only [exec, execIntStatusClear, Host.Outcome.next.injEq] at h
  subst h
  exact .of_kept ((writeReg_kept _ _ _ _ _ (by intro s; simp)).trans (by simp))

theorem execIntMaskWrite_follows {x0 : Nat} {x1 : Bool} {x2 : Nat} {s t : State} (h : exec (.intMaskWrite x0 x1 x2) s = .next t) : Follows s t := by
  simp only [exec, execIntMaskWrite, Host.Outcome.next.injEq] at h
  subst h
  exact .of_kept ((writeReg_kept _ _ _ _ _ (by intro s; simp)).trans (by simp))

theorem execSolverDoneClear_follows {x0 : Nat} {x1 : Bool} {x2 : Nat} {s t : State} (h : exec (.solverDoneClear x0 x1 x2) s = .next t) : Follows s t := by
  simp only [exec, execSolverDoneClear, Host.Outcome.next.injEq] at h
  subst h
  exact .of_kept ((writeReg_kept _ _ _ _ _ (by intro s; simp)).trans (by simp))

theorem execRegisterWrite_follows {x0 : Nat} {x1 : Bool} {x2 : Nat} {x3 : Nat} {x4 : Nat} {s t : State} (h : exec (.registerWrite x0 x1 x2 x3 x4) s = .next t) : Follows s t := by
  simp only [exec, execRegisterWrite, Host.Outcome.next.injEq] at h
  subst h
  split
  · exact .of_kept (by simp)
  · split
    · exact .of_kept (by simp)
    · rename_i h
      exact .of_kept ((writeReg_kept _ _ _ _ _ (regEffect_kept h)).trans (by simp))

theorem execObjWriteEffect_follows {x0 : Nat} {s t : State} (h : exec (.objWriteEffect x0) s = .next t) : Follows s t := by
  simp only [exec, execObjWriteEffect, Host.Outcome.next.injEq] at h
  subst h
  exact .of_kept (by simp)

theorem execGateRequestTimeout_follows {x0 : Nat} {s t : State} (h : exec (.gateRequestTimeout x0) s = .next t) : Follows s t := by
  simp only [exec, execGateRequestTimeout, Host.Outcome.next.injEq] at h
  subst h
  exact .of_kept (by simp)

theorem execSolverAnalysisDone_follows {x0 : Nat} {x1 : Nat} {s t : State} (h : exec (.solverAnalysisDone x0 x1) s = .next t) : Follows s t := by
  simp only [exec, execSolverAnalysisDone, Host.Outcome.next.injEq] at h
  subst h
  exact .of_kept (by simp)

theorem execIpmIterationEnd_follows {x0 : Nat} {x1 : Nat} {s t : State} (h : exec (.ipmIterationEnd x0 x1) s = .next t) : Follows s t := by
  simp only [exec, execIpmIterationEnd, Host.Outcome.next.injEq] at h
  subst h
  exact .of_kept (by simp)

theorem execSolverRunEnd_follows {x0 : Nat} {x1 : Nat} {s t : State} (h : exec (.solverRunEnd x0 x1) s = .next t) : Follows s t := by
  simp only [exec, execSolverRunEnd, Host.Outcome.next.injEq] at h
  subst h
  exact .of_kept (by simp)

theorem execSolveDeadline_follows {x0 : Nat} {x1 : Bool} {x2 : Bool} {s t : State} (h : exec (.solveDeadline x0 x1 x2) s = .next t) : Follows s t := by
  simp only [exec, execSolveDeadline, Host.Outcome.next.injEq] at h
  subst h
  exact .of_kept (by simp)

theorem execHostRunResume_follows {x0 : Nat} {s t : State} (h : exec (.hostRunResume x0) s = .next t) : Follows s t := by
  simp only [exec, execHostRunResume, Host.Outcome.next.injEq] at h
  subst h
  exact .of_kept (by simp)

theorem execSolverSramUncorrectable_follows {x0 : Nat} {x1 : Nat} {s t : State} (h : exec (.solverSramUncorrectable x0 x1) s = .next t) : Follows s t := by
  simp only [exec, execSolverSramUncorrectable, Host.Outcome.next.injEq] at h
  subst h
  exact .of_kept (by simp)

theorem execTickStart_follows  {s t : State} (h : exec (.tickStart) s = .next t) : Follows s t := by
  simp only [exec, execTickStart, Host.Outcome.next.injEq] at h
  subst h
  exact .of_kept (by simp)

theorem execModeTransitionComplete_follows {x0 : Nat} {s t : State} (h : exec (.modeTransitionComplete x0) s = .next t) : Follows s t := by
  simp only [exec, execModeTransitionComplete, Host.Outcome.next.injEq] at h
  subst h
  exact .of_kept (by simp)

theorem execProfilePass_follows {x0 : Nat} {s t : State} (h : exec (.profilePass x0) s = .next t) : Follows s t := by
  simp only [exec, execProfilePass, Host.Outcome.next.injEq] at h
  subst h
  exact .of_kept (by simp)

theorem execArbiterPass_follows {x0 : Nat} {s t : State} (h : exec (.arbiterPass x0) s = .next t) : Follows s t := by
  simp only [exec, execArbiterPass, Host.Outcome.next.injEq] at h
  subst h
  exact .of_kept (by simp)

theorem execLeaseExpiry_follows {x0 : Nat} {x1 : Nat} {s t : State} (h : exec (.leaseExpiry x0 x1) s = .next t) : Follows s t := by
  simp only [exec, execLeaseExpiry, Host.Outcome.next.injEq] at h
  subst h
  exact .of_kept (by simp)

theorem execPlannerSnapshot_follows {x0 : Nat} {s t : State} (h : exec (.plannerSnapshot x0) s = .next t) : Follows s t := by
  simp only [exec, execPlannerSnapshot, Host.Outcome.next.injEq] at h
  subst h
  exact .of_kept (by simp)

theorem execPlannerPost_follows {x0 : Nat} {s t : State} (h : exec (.plannerPost x0) s = .next t) : Follows s t := by
  simp only [exec, execPlannerPost, Host.Outcome.next.injEq] at h
  subst h
  exact .of_kept (by simp)

theorem execCommitTest_follows {x0 : Nat} {s t : State} (h : exec (.commitTest x0) s = .next t) : Follows s t := by
  simp only [exec, execCommitTest, Host.Outcome.next.injEq] at h
  subst h
  exact .of_kept (by simp)

theorem execCommitCutoff_follows {x0 : Nat} {s t : State} (h : exec (.commitCutoff x0) s = .next t) : Follows s t := by
  simp only [exec, execCommitCutoff, Host.Outcome.next.injEq] at h
  subst h
  exact .of_kept (by simp)

theorem execSeparationStep_follows {x0 : Nat} {s t : State} (h : exec (.separationStep x0) s = .next t) : Follows s t := by
  simp only [exec, execSeparationStep, Host.Outcome.next.injEq] at h
  subst h
  exact .of_kept (by simp)

theorem execProcessorResult_follows {x0 : Nat} {s t : State} (h : exec (.processorResult x0) s = .next t) : Follows s t := by
  simp only [exec, execProcessorResult, Host.Outcome.next.injEq] at h
  subst h
  split
  · exact (Follows.of_kept (by simp)).trans (channelResult_follows _ _ _)
  · exact .of_kept (by simp)

theorem execChamoisResult_follows {x0 : Nat} {s t : State} (h : exec (.chamoisResult x0) s = .next t) : Follows s t := by
  simp only [exec, execChamoisResult, Host.Outcome.next.injEq] at h
  subst h
  split
  · exact (Follows.of_kept (by simp)).trans (channelResult_follows _ _ _)
  · exact .of_kept (by simp)

theorem execSeparationCombination_follows {x0 : Nat} {s t : State} (h : exec (.separationCombination x0) s = .next t) : Follows s t := by
  simp only [exec, execSeparationCombination, Host.Outcome.next.injEq] at h
  subst h
  exact .of_kept (by simp)

theorem execJointStale_follows {x0 : Nat} {x1 : Bool} {x2 : Nat} {s t : State} (h : exec (.jointStale x0 x1 x2) s = .next t) : Follows s t := by
  simp only [exec, execJointStale, Host.Outcome.next.injEq] at h
  subst h
  exact .of_kept (by simp)

theorem execSensorWorst_follows {x0 : Nat} {x1 : Nat} {s t : State} (h : exec (.sensorWorst x0 x1) s = .next t) : Follows s t := by
  simp only [exec, execSensorWorst, Host.Outcome.next.injEq] at h
  subst h
  exact .of_kept (by simp)

theorem execSs2Release_follows {x0 : Nat} {x1 : Nat} {s t : State} (h : exec (.ss2Release x0 x1) s = .next t) : Follows s t := by
  simp only [exec, execSs2Release, Host.Outcome.next.injEq] at h
  subst h
  exact .of_kept (by simp)

theorem execDownstreamCommitPoint_follows {x0 : Nat} {x1 : Bool} {x2 : Nat} {s t : State} (h : exec (.downstreamCommitPoint x0 x1 x2) s = .next t) : Follows s t := by
  simp only [exec, execDownstreamCommitPoint, Host.Outcome.next.injEq] at h
  subst h
  exact .of_kept (by simp)

theorem execProcessFrameRx_follows {x0 : Nat} {x1 : RxFrame} {s t : State} (h : exec (.processFrameRx x0 x1) s = .next t) : Follows s t := by
  simp only [exec, execProcessFrameRx, Host.Outcome.next.injEq] at h
  subst h
  split
  · exact .of_kept (by simp)
  · split <;> rename_i g
    · exact .of_kept ((checkStatic_discard g).trans (by simp))
    · split
      · exact .of_kept ((takeProcess_kept _ _ _ _).trans ((checkStatic_accept g).trans (by simp)))
      · exact .of_kept ((checkStatic_accept g).trans (by simp))

theorem execSafetyFrameRx_follows {x0 : Nat} {x1 : RxFrame} {s t : State} (h : exec (.safetyFrameRx x0 x1) s = .next t) : Follows s t := by
  simp only [exec, execSafetyFrameRx, Host.Outcome.next.injEq] at h
  subst h
  split
  · exact .of_kept (by simp)
  · split <;> rename_i g
    · exact .of_kept ((checkStatic_discard g).trans (by simp))
    · split
      · exact .of_kept ((takeSafety_kept _ _ _ _).trans ((checkStatic_accept g).trans (by simp)))
      · exact .of_kept ((checkStatic_accept g).trans (by simp))

theorem execMessageRx_follows {x0 : Nat} {x1 : RxFrame} {s t : State} (h : exec (.messageRx x0 x1) s = .next t) : Follows s t := by
  simp only [exec, execMessageRx, Host.Outcome.next.injEq] at h
  subst h
  exact .of_kept (by simp)

theorem execDelayRespRx_follows {x0 : Nat} {x1 : RxFrame} {s t : State} (h : exec (.delayRespRx x0 x1) s = .next t) : Follows s t := by
  simp only [exec, execDelayRespRx, Host.Outcome.next.injEq] at h
  subst h
  (repeat' split) <;> exact .of_kept (by simp)

theorem execStartupRx_follows {x0 : Nat} {x1 : RxFrame} {s t : State} (h : exec (.startupRx x0 x1) s = .next t) : Follows s t := by
  simp only [exec, execStartupRx, Host.Outcome.next.injEq] at h
  subst h
  exact .of_kept (by simp)

theorem execSlotWindowClose_follows {x0 : Nat} {x1 : Nat} {s t : State} (h : exec (.slotWindowClose x0 x1) s = .next t) : Follows s t := by
  simp only [exec, execSlotWindowClose, Host.Outcome.next.injEq] at h
  subst h
  exact .of_kept (by simp)

theorem execDownstreamNitStart_follows {x0 : Nat} {s t : State} (h : exec (.downstreamNitStart x0) s = .next t) : Follows s t := by
  simp only [exec, execDownstreamNitStart, Host.Outcome.next.injEq] at h
  subst h
  exact .of_kept (by simp)

theorem execRingRestoreAt_follows {x0 : Nat} {x1 : Nat} {s t : State} (h : exec (.ringRestoreAt x0 x1) s = .next t) : Follows s t := by
  simp only [exec, execRingRestoreAt, Host.Outcome.next.injEq] at h
  subst h
  exact .of_kept (by simp)

theorem execListenTimeout_follows {x0 : Nat} {s t : State} (h : exec (.listenTimeout x0) s = .next t) : Follows s t := by
  simp only [exec, execListenTimeout, Host.Outcome.next.injEq] at h
  subst h
  exact .of_kept (by simp)

theorem execStartWindowClose_follows {x0 : Nat} {s t : State} (h : exec (.startWindowClose x0) s = .next t) : Follows s t := by
  simp only [exec, execStartWindowClose, Host.Outcome.next.injEq] at h
  subst h
  exact .of_kept (by simp)

theorem execBackoffEnd_follows {x0 : Nat} {s t : State} (h : exec (.backoffEnd x0) s = .next t) : Follows s t := by
  simp only [exec, execBackoffEnd, Host.Outcome.next.injEq] at h
  subst h
  split <;> exact .of_kept (by simp)

theorem execNodeIntegrated_follows {x0 : Nat} {x1 : Nat} {s t : State} (h : exec (.nodeIntegrated x0 x1) s = .next t) : Follows s t := by
  simp only [exec, execNodeIntegrated, Host.Outcome.next.injEq] at h
  subst h
  exact .of_kept (by simp)

theorem execNodeLost_follows {x0 : Nat} {x1 : Nat} {s t : State} (h : exec (.nodeLost x0 x1) s = .next t) : Follows s t := by
  simp only [exec, execNodeLost, Host.Outcome.next.injEq] at h
  subst h
  exact .of_kept (by simp)

theorem execDriftWarn_follows {x0 : Nat} {x1 : Nat} {s t : State} (h : exec (.driftWarn x0 x1) s = .next t) : Follows s t := by
  simp only [exec, execDriftWarn, Host.Outcome.next.injEq] at h
  subst h
  exact .of_kept (by simp)

theorem execSafetySingle_follows {x0 : Nat} {x1 : Nat} {s t : State} (h : exec (.safetySingle x0 x1) s = .next t) : Follows s t := by
  simp only [exec, execSafetySingle, Host.Outcome.next.injEq] at h
  subst h
  exact .of_kept (by simp)

theorem execLinkSyncLoss_follows {x0 : Nat} {x1 : Nat} {s t : State} (h : exec (.linkSyncLoss x0 x1) s = .next t) : Follows s t := by
  simp only [exec, execLinkSyncLoss, Host.Outcome.next.injEq] at h
  subst h
  exact .of_kept (by simp)

theorem execOperandPost_follows {x0 : Nat} {s t : State} (h : exec (.operandPost x0) s = .next t) : Follows s t := by
  simp only [exec, execOperandPost, Host.Outcome.next.injEq] at h
  subst h
  split <;> exact .of_kept (by simp)

theorem execTimedDue_follows {x0 : Nat} {s t : State} (h : exec (.timedDue x0) s = .next t) : Follows s t := by
  simp only [exec, execTimedDue, Host.Outcome.next.injEq] at h
  subst h
  exact .of_kept (by simp)

theorem execTaskDispatch_follows {x0 : Nat} {x1 : Nat} {s t : State} (h : exec (.taskDispatch x0 x1) s = .next t) : Follows s t := by
  simp only [exec, execTaskDispatch, Host.Outcome.next.injEq] at h
  subst h
  (repeat' split) <;> exact .of_kept (by simp)

theorem execLoopExecution_follows {x0 : Nat} {x1 : Nat} {s t : State} (h : exec (.loopExecution x0 x1) s = .next t) : Follows s t := by
  simp only [exec, execLoopExecution, Host.Outcome.next.injEq] at h
  subst h
  (repeat' split) <;> exact .of_kept (by simp)

theorem execAxisFault_follows {x0 : Nat} {x1 : Nat} {s t : State} (h : exec (.axisFault x0 x1) s = .next t) : Follows s t := by
  simp only [exec, execAxisFault, Host.Outcome.next.injEq] at h
  subst h
  split <;> exact .of_kept (by simp)

theorem execMatchExpired_follows {x0 : Nat} {s t : State} (h : exec (.matchExpired x0) s = .next t) : Follows s t := by
  simp only [exec, execMatchExpired, Host.Outcome.next.injEq] at h
  subst h
  split <;> exact .of_kept (by simp)

theorem execBackpressureRelease_follows {x0 : Nat} {s t : State} (h : exec (.backpressureRelease x0) s = .next t) : Follows s t := by
  simp only [exec, execBackpressureRelease, Host.Outcome.next.injEq] at h
  subst h
  split <;> exact .of_kept (by simp)

theorem execKernelRun_follows {x0 : Nat} {x1 : Nat} {x2 : Nat} {s t : State} (h : exec (.kernelRun x0 x1 x2) s = .next t) : Follows s t := by
  simp only [exec, execKernelRun, Host.Outcome.next.injEq] at h
  subst h
  exact .of_kept (by simp)

theorem execKernelWindowClose_follows {x0 : Nat} {x1 : Nat} {s t : State} (h : exec (.kernelWindowClose x0 x1) s = .next t) : Follows s t := by
  simp only [exec, execKernelWindowClose, Host.Outcome.next.injEq] at h
  subst h
  exact .of_kept (by simp)

theorem execProcessorEvaluation_follows {x0 : Nat} {x1 : Nat} {x2 : Nat} {x3 : Bool} {x4 : Nat} {x5 : Nat} {x6 : List Nat} {s t : State} (h : exec (.processorEvaluation x0 x1 x2 x3 x4 x5 x6) s = .next t) : Follows s t := by
  simp only [exec, execProcessorEvaluation, Host.Outcome.next.injEq] at h
  subst h
  exact .of_kept (by simp)

theorem execChamoisEvaluation_follows {x0 : Nat} {x1 : Nat} {x2 : Nat} {x3 : Bool} {x4 : Nat} {x5 : Nat} {x6 : List Nat} {s t : State} (h : exec (.chamoisEvaluation x0 x1 x2 x3 x4 x5 x6) s = .next t) : Follows s t := by
  simp only [exec, execChamoisEvaluation, Host.Outcome.next.injEq] at h
  subst h
  exact .of_kept (by simp)

theorem execSafetyStatusRx_follows {x0 : Nat} {x1 : Bool} {s t : State} (h : exec (.safetyStatusRx x0 x1) s = .next t) : Follows s t := by
  simp only [exec, execSafetyStatusRx, Host.Outcome.next.injEq] at h
  subst h
  split
  · refine Follows.trans (.of_kept (by simp)) (Follows.foldl _ ?_ _ _)
    intro s a
    split
    · split
      · exact .refl s
      · exact chamoisLatch_follows s _
    · exact .refl s
  · exact .of_kept (by simp)

theorem execChannelSilent_follows {x0 : Nat} {x1 : Bool} {s t : State} (h : exec (.channelSilent x0 x1) s = .next t) : Follows s t := by
  simp only [exec, execChannelSilent, Host.Outcome.next.injEq] at h
  subst h
  split
  · split
    · exact (Follows.of_kept (by simp)).trans (silentToChamois_follows _ _)
    · exact .of_kept (by simp)
  · exact .of_kept (by simp)

theorem execCrossMismatch_follows {x0 : Nat} {x1 : Bool} {x2 : Nat} {s t : State} (h : exec (.crossMismatch x0 x1 x2) s = .next t) : Follows s t := by
  simp only [exec, execCrossMismatch, Host.Outcome.next.injEq] at h
  subst h
  split
  · refine Follows.trans (Follows.trans (.of_kept ?_) (chamoisLatch_follows (bump (setSafeCh (begin x0 s) x1 (fun c => { c with mismatched := c.mismatched ++ [x2], faultStop := true })) 0x60 0x80 0x0B) (chamoisWord 62))) (.of_kept ?_)
    · simp
    · simp
  · exact .of_kept (by simp)

theorem execOscillatorMismatch_follows {x0 : Nat} {x1 : Bool} {s t : State} (h : exec (.oscillatorMismatch x0 x1) s = .next t) : Follows s t := by
  simp only [exec, execOscillatorMismatch, Host.Outcome.next.injEq] at h
  subst h
  split
  · refine Follows.trans (Follows.trans (.of_kept ?_) (chamoisLatch_follows (setSafeCh (begin x0 s) x1 (fun c => { c with oscDue := false, oscillator := true, faultStop := true })) (chamoisWord 63))) (.of_kept ?_)
    · simp
    · simp
  · exact .of_kept (by simp)

theorem execDiscrepancy_follows {x0 : Nat} {x1 : Bool} {x2 : Nat} {s t : State} (h : exec (.discrepancy x0 x1 x2) s = .next t) : Follows s t := by
  simp only [exec, execDiscrepancy, Host.Outcome.next.injEq] at h
  subst h
  exact .of_kept (by simp)

theorem execSs1Timeout_follows {x0 : Nat} {x1 : Bool} {x2 : Nat} {s t : State} (h : exec (.ss1Timeout x0 x1 x2) s = .next t) : Follows s t := by
  simp only [exec, execSs1Timeout, Host.Outcome.next.injEq] at h
  subst h
  exact .of_kept (by simp)

theorem execNetInputStale_follows {x0 : Nat} {x1 : Bool} {x2 : Nat} {s t : State} (h : exec (.netInputStale x0 x1 x2) s = .next t) : Follows s t := by
  simp only [exec, execNetInputStale, Host.Outcome.next.injEq] at h
  subst h
  exact .of_kept (by simp)

theorem execDarkPulseTest_follows {x0 : Nat} {x1 : Bool} {x2 : Nat} {x3 : Bool} {s t : State} (h : exec (.darkPulseTest x0 x1 x2 x3) s = .next t) : Follows s t := by
  simp only [exec, execDarkPulseTest, Host.Outcome.next.injEq] at h
  subst h
  exact .of_kept (by simp)

theorem execOutputDiagnosis_follows {x0 : Nat} {x1 : Bool} {x2 : Nat} {x3 : Nat} {x4 : Bool} {s t : State} (h : exec (.outputDiagnosis x0 x1 x2 x3 x4) s = .next t) : Follows s t := by
  simp only [exec, execOutputDiagnosis, Host.Outcome.next.injEq] at h
  subst h
  exact .of_kept (by simp)

theorem execOutputCurrentLimit_follows {x0 : Nat} {x1 : Nat} {s t : State} (h : exec (.outputCurrentLimit x0 x1) s = .next t) : Follows s t := by
  simp only [exec, execOutputCurrentLimit, Host.Outcome.next.injEq] at h
  subst h
  exact .of_kept (by simp)

theorem execSresetEdge_follows {x0 : Nat} {s t : State} (h : exec (.sresetEdge x0) s = .next t) : Follows s t := by
  simp only [exec, execSresetEdge, Host.Outcome.next.injEq] at h
  subst h
  exact .of_kept (by simp)

theorem execResetEdgeWindowExpiry_follows {x0 : Nat} {s t : State} (h : exec (.resetEdgeWindowExpiry x0) s = .next t) : Follows s t := by
  simp only [exec, execResetEdgeWindowExpiry, Host.Outcome.next.injEq] at h
  subst h
  exact .of_kept (by simp)

theorem execSw1Change_follows {x0 : Nat} {s t : State} (h : exec (.sw1Change x0) s = .next t) : Follows s t := by
  simp only [exec, execSw1Change, Host.Outcome.next.injEq] at h
  subst h
  exact .of_kept (by simp)

theorem execContainedErrorRate_follows {x0 : Nat} {x1 : Nat} {x2 : Nat} {s t : State} (h : exec (.containedErrorRate x0 x1 x2) s = .next t) : Follows s t := by
  simp only [exec, execContainedErrorRate, Host.Outcome.next.injEq] at h
  subst h
  exact .of_kept (by simp)

theorem execSupervisorWatchdogExpiry_follows {x0 : Nat} {s t : State} (h : exec (.supervisorWatchdogExpiry x0) s = .next t) : Follows s t := by
  simp only [exec, execSupervisorWatchdogExpiry, Host.Outcome.next.injEq] at h
  subst h
  exact .of_kept (by simp)

theorem execDdrUncorrectableError_follows {x0 : Nat} {x1 : Nat} {x2 : Nat} {x3 : Nat} {s t : State} (h : exec (.ddrUncorrectableError x0 x1 x2 x3) s = .next t) : Follows s t := by
  simp only [exec, execDdrUncorrectableError, Host.Outcome.next.injEq] at h
  subst h
  exact .of_kept (by simp)

theorem execInputFilterStep_follows {x0 : Nat} {x1 : Nat} {s t : State} (h : exec (.inputFilterStep x0 x1) s = .next t) : Follows s t := by
  simp only [exec, execInputFilterStep, Host.Outcome.next.injEq] at h
  subst h
  exact .of_kept (by simp)

theorem execInputGroupFault_follows {x0 : Nat} {x1 : Nat} {x2 : Nat} {s t : State} (h : exec (.inputGroupFault x0 x1 x2) s = .next t) : Follows s t := by
  simp only [exec, execInputGroupFault, Host.Outcome.next.injEq] at h
  subst h
  exact .of_kept (by simp)

theorem execOutputGroupFault_follows {x0 : Nat} {x1 : Nat} {x2 : Nat} {s t : State} (h : exec (.outputGroupFault x0 x1 x2) s = .next t) : Follows s t := by
  simp only [exec, execOutputGroupFault, Host.Outcome.next.injEq] at h
  subst h
  exact .of_kept (by simp)

theorem execEncoderEdge_follows {x0 : Nat} {x1 : Nat} {x2 : Bool} {x3 : Bool} {s t : State} (h : exec (.encoderEdge x0 x1 x2 x3) s = .next t) : Follows s t := by
  simp only [exec, execEncoderEdge, Host.Outcome.next.injEq] at h
  subst h
  exact .of_kept (by simp)

theorem execEncoderIndex_follows {x0 : Nat} {x1 : Nat} {x2 : Bool} {s t : State} (h : exec (.encoderIndex x0 x1 x2) s = .next t) : Follows s t := by
  simp only [exec, execEncoderIndex, Host.Outcome.next.injEq] at h
  subst h
  exact .of_kept (by simp)

theorem execLineFault_follows {x0 : Nat} {x1 : Nat} {s t : State} (h : exec (.lineFault x0 x1) s = .next t) : Follows s t := by
  simp only [exec, execLineFault, Host.Outcome.next.injEq] at h
  subst h
  exact .of_kept (by simp)

theorem execEncoderStandstill_follows {x0 : Nat} {x1 : Nat} {s t : State} (h : exec (.encoderStandstill x0 x1) s = .next t) : Follows s t := by
  simp only [exec, execEncoderStandstill, Host.Outcome.next.injEq] at h
  subst h
  exact .of_kept (by simp)

theorem execTickLatch_follows {x0 : Nat} {x1 : Nat} {s t : State} (h : exec (.tickLatch x0 x1) s = .next t) : Follows s t := by
  simp only [exec, execTickLatch, Host.Outcome.next.injEq] at h
  subst h
  exact .of_kept (by simp)

theorem execEncoderTransactionStart_follows {x0 : Nat} {x1 : Nat} {s t : State} (h : exec (.encoderTransactionStart x0 x1) s = .next t) : Follows s t := by
  simp only [exec, execEncoderTransactionStart, Host.Outcome.next.injEq] at h
  subst h
  exact .of_kept (by simp)

theorem execEncoderWordReceived_follows {x0 : Nat} {x1 : Nat} {x2 : EncoderReply} {s t : State} (h : exec (.encoderWordReceived x0 x1 x2) s = .next t) : Follows s t := by
  simp only [exec, execEncoderWordReceived, Host.Outcome.next.injEq] at h
  subst h
  split <;> exact .of_kept (by simp)

theorem execEncoderTimeout_follows {x0 : Nat} {x1 : Nat} {s t : State} (h : exec (.encoderTimeout x0 x1) s = .next t) : Follows s t := by
  simp only [exec, execEncoderTimeout, Host.Outcome.next.injEq] at h
  subst h
  split <;> exact .of_kept (by simp)

theorem execEmulatedEdge_follows {x0 : Nat} {x1 : Nat} {s t : State} (h : exec (.emulatedEdge x0 x1) s = .next t) : Follows s t := by
  simp only [exec, execEmulatedEdge, Host.Outcome.next.injEq] at h
  subst h
  exact .of_kept (by simp)

theorem execConveyorStale_follows {x0 : Nat} {x1 : Nat} {s t : State} (h : exec (.conveyorStale x0 x1) s = .next t) : Follows s t := by
  simp only [exec, execConveyorStale, Host.Outcome.next.injEq] at h
  subst h
  exact .of_kept (by simp)

theorem execJogTimeout_follows {x0 : Nat} {x1 : Nat} {s t : State} (h : exec (.jogTimeout x0 x1) s = .next t) : Follows s t := by
  simp only [exec, execJogTimeout, Host.Outcome.next.injEq] at h
  subst h
  split <;> exact .of_kept (by simp)

theorem execCurrentSample_follows {x0 : Nat} {x1 : Nat} {x2 : Nat} {x3 : Nat} {s t : State} (h : exec (.currentSample x0 x1 x2 x3) s = .next t) : Follows s t := by
  simp only [exec, execCurrentSample, Host.Outcome.next.injEq] at h
  subst h
  exact .of_kept (by simp)

theorem execReferenceInstant_follows {x0 : Nat} {x1 : Nat} {s t : State} (h : exec (.referenceInstant x0 x1) s = .next t) : Follows s t := by
  simp only [exec, execReferenceInstant, Host.Outcome.next.injEq] at h
  subst h
  (repeat' split) <;> exact .of_kept (by simp)

theorem execAuxFeedbackPost_follows {x0 : Nat} {x1 : Nat} {s t : State} (h : exec (.auxFeedbackPost x0 x1) s = .next t) : Follows s t := by
  simp only [exec, execAuxFeedbackPost, Host.Outcome.next.injEq] at h
  subst h
  exact .of_kept (by simp)

theorem execChopperFallback_follows {x0 : Nat} {x1 : Nat} {s t : State} (h : exec (.chopperFallback x0 x1) s = .next t) : Follows s t := by
  simp only [exec, execChopperFallback, Host.Outcome.next.injEq] at h
  subst h
  split <;> exact .of_kept (by simp)

theorem execStall_follows {x0 : Nat} {x1 : Nat} {s t : State} (h : exec (.stall x0 x1) s = .next t) : Follows s t := by
  simp only [exec, execStall, Host.Outcome.next.injEq] at h
  subst h
  split
  · exact .of_kept (by simp)
  · split
    · split
      · exact .of_kept ((axisReactionAs_kept _ (by intro s w; simp) _ _ _ _).trans (by simp))
      · exact .of_kept ((axisReactionAs_kept _ (by intro s w; simp) _ _ _ _).trans (by simp))
    · exact .of_kept (by simp)

theorem execPtpSyncRx_follows {x0 : Nat} {x1 : PtpMessage} {s t : State} (h : exec (.ptpSyncRx x0 x1) s = .next t) : Follows s t := by
  simp only [exec, execPtpSyncRx, Host.Outcome.next.injEq] at h
  subst h
  exact .of_kept (by simp)

theorem execPtpMessageRx_follows {x0 : Nat} {x1 : PtpMessage} {s t : State} (h : exec (.ptpMessageRx x0 x1) s = .next t) : Follows s t := by
  simp only [exec, execPtpMessageRx, Host.Outcome.next.injEq] at h
  subst h
  exact .of_kept (by simp)

theorem execSourceLocked_follows {x0 : Nat} {x1 : Nat} {s t : State} (h : exec (.sourceLocked x0 x1) s = .next t) : Follows s t := by
  simp only [exec, execSourceLocked, Host.Outcome.next.injEq] at h
  subst h
  exact .of_kept (by simp)

theorem execSyncTimeout_follows {x0 : Nat} {x1 : Nat} {s t : State} (h : exec (.syncTimeout x0 x1) s = .next t) : Follows s t := by
  simp only [exec, execSyncTimeout, Host.Outcome.next.injEq] at h
  subst h
  exact .of_kept (by simp)

theorem execAnnounceReceiptTimeout_follows {x0 : Nat} {x1 : Nat} {s t : State} (h : exec (.announceReceiptTimeout x0 x1) s = .next t) : Follows s t := by
  simp only [exec, execAnnounceReceiptTimeout, Host.Outcome.next.injEq] at h
  subst h
  exact .of_kept (by simp)

theorem execRevertTimer_follows {x0 : Nat} {s t : State} (h : exec (.revertTimer x0) s = .next t) : Follows s t := by
  simp only [exec, execRevertTimer, Host.Outcome.next.injEq] at h
  subst h
  exact .of_kept (by simp)

theorem execSlewEnd_follows {x0 : Nat} {s t : State} (h : exec (.slewEnd x0) s = .next t) : Follows s t := by
  simp only [exec, execSlewEnd, Host.Outcome.next.injEq] at h
  subst h
  exact .of_kept (by simp)

theorem execPpsInEdge_follows {x0 : Nat} {x1 : Nat} {s t : State} (h : exec (.ppsInEdge x0 x1) s = .next t) : Follows s t := by
  simp only [exec, execPpsInEdge, Host.Outcome.next.injEq] at h
  subst h
  exact .of_kept (by simp)

theorem execPpsTimeout_follows {x0 : Nat} {s t : State} (h : exec (.ppsTimeout x0) s = .next t) : Follows s t := by
  simp only [exec, execPpsTimeout, Host.Outcome.next.injEq] at h
  subst h
  exact .of_kept (by simp)

theorem execPpsOutEdge_follows {x0 : Nat} {s t : State} (h : exec (.ppsOutEdge x0) s = .next t) : Follows s t := by
  simp only [exec, execPpsOutEdge, Host.Outcome.next.injEq] at h
  subst h
  exact .of_kept (by simp)

theorem execPairTimeExchange_follows {x0 : Nat} {x1 : Nat} {x2 : Nat} {x3 : Nat} {x4 : Nat} {s t : State} (h : exec (.pairTimeExchange x0 x1 x2 x3 x4) s = .next t) : Follows s t := by
  simp only [exec, execPairTimeExchange, Host.Outcome.next.injEq] at h
  subst h
  exact .of_kept (by simp)

theorem execAonStore_follows {x0 : Nat} {s t : State} (h : exec (.aonStore x0) s = .next t) : Follows s t := by
  simp only [exec, execAonStore, Host.Outcome.next.injEq] at h
  subst h
  exact .of_kept (by simp)

theorem execBrownOut_follows {x0 : Nat} {x1 : Nat} {s t : State} (h : exec (.brownOut x0 x1) s = .next t) : Follows s t := by
  simp only [exec, execBrownOut, Host.Outcome.next.injEq] at h
  subst h
  exact .of_kept (by simp)

theorem execLowInput_follows {x0 : Nat} {x1 : Nat} {s t : State} (h : exec (.lowInput x0 x1) s = .next t) : Follows s t := by
  simp only [exec, execLowInput, Host.Outcome.next.injEq] at h
  subst h
  exact .of_kept (by simp)

theorem execHighInput_follows {x0 : Nat} {x1 : Nat} {s t : State} (h : exec (.highInput x0 x1) s = .next t) : Follows s t := by
  simp only [exec, execHighInput, Host.Outcome.next.injEq] at h
  subst h
  exact .of_kept (by simp)

theorem execModResetN_follows {x0 : Nat} {s t : State} (h : exec (.modResetN x0) s = .next t) : Follows s t := by
  simp only [exec, execModResetN, Host.Outcome.next.injEq] at h
  subst h
  exact .of_kept (by simp)

theorem execCommandResetBegin_follows {x0 : Nat} {s t : State} (h : exec (.commandResetBegin x0) s = .next t) : Follows s t := by
  simp only [exec, execCommandResetBegin, Host.Outcome.next.injEq] at h
  subst h
  exact .of_kept (by simp)

theorem execPerstN_follows {x0 : Nat} {x1 : Bool} {s t : State} (h : exec (.perstN x0 x1) s = .next t) : Follows s t := by
  simp only [exec, execPerstN, Host.Outcome.next.injEq] at h
  subst h
  exact .of_kept (by simp)

theorem execPcieLinkDown_follows {x0 : Nat} {x1 : Bool} {s t : State} (h : exec (.pcieLinkDown x0 x1) s = .next t) : Follows s t := by
  simp only [exec, execPcieLinkDown, Host.Outcome.next.injEq] at h
  subst h
  exact .of_kept (by simp)

theorem execDieTemperature_follows {x0 : Nat} {x1 : Int} {s t : State} (h : exec (.dieTemperature x0 x1) s = .next t) : Follows s t := by
  simp only [exec, execDieTemperature, Host.Outcome.next.injEq] at h
  subst h
  exact .of_kept (by simp)

theorem execCrystalStable_follows {x0 : Nat} {s t : State} (h : exec (.crystalStable x0) s = .next t) : Follows s t := by
  simp only [exec, execCrystalStable, Host.Outcome.next.injEq] at h
  subst h
  exact .of_kept (by simp)

theorem execClockMonitorWindow_follows {x0 : Nat} {x1 : Nat} {x2 : Nat} {s t : State} (h : exec (.clockMonitorWindow x0 x1 x2) s = .next t) : Follows s t := by
  simp only [exec, execClockMonitorWindow, Host.Outcome.next.injEq] at h
  subst h
  exact .of_kept (by simp)

theorem execClockLoss_follows {x0 : Nat} {x1 : Nat} {s t : State} (h : exec (.clockLoss x0 x1) s = .next t) : Follows s t := by
  simp only [exec, execClockLoss, Host.Outcome.next.injEq] at h
  subst h
  exact .of_kept (by simp)

theorem execPllUnlock_follows {x0 : Nat} {x1 : Nat} {s t : State} (h : exec (.pllUnlock x0 x1) s = .next t) : Follows s t := by
  simp only [exec, execPllUnlock, Host.Outcome.next.injEq] at h
  subst h
  exact .of_kept (by simp)

theorem execClockSourceRecovered_follows {x0 : Nat} {x1 : Nat} {s t : State} (h : exec (.clockSourceRecovered x0 x1) s = .next t) : Follows s t := by
  simp only [exec, execClockSourceRecovered, Host.Outcome.next.injEq] at h
  subst h
  exact .of_kept (by simp)

theorem execRcTrim_follows {x0 : Nat} {x1 : Int} {s t : State} (h : exec (.rcTrim x0 x1) s = .next t) : Follows s t := by
  simp only [exec, execRcTrim, Host.Outcome.next.injEq] at h
  subst h
  exact .of_kept (by simp)

theorem execMuxSwitch_follows {x0 : Nat} {s t : State} (h : exec (.muxSwitch x0) s = .next t) : Follows s t := by
  simp only [exec, execMuxSwitch, Host.Outcome.next.injEq] at h
  subst h
  exact .of_kept (by simp)

theorem execForcedSwitch_follows {x0 : Nat} {s t : State} (h : exec (.forcedSwitch x0) s = .next t) : Follows s t := by
  simp only [exec, execForcedSwitch, Host.Outcome.next.injEq] at h
  subst h
  exact .of_kept (by simp)

theorem execPllRelock_follows {x0 : Nat} {x1 : Nat} {s t : State} (h : exec (.pllRelock x0 x1) s = .next t) : Follows s t := by
  simp only [exec, execPllRelock, Host.Outcome.next.injEq] at h
  subst h
  exact .of_kept (by simp)

theorem execDomainPowerGood_follows {x0 : Nat} {x1 : Nat} {s t : State} (h : exec (.domainPowerGood x0 x1) s = .next t) : Follows s t := by
  simp only [exec, execDomainPowerGood, Host.Outcome.next.injEq] at h
  subst h
  exact .of_kept (by simp)

theorem execDomainPowerGoodTimeout_follows {x0 : Nat} {x1 : Nat} {s t : State} (h : exec (.domainPowerGoodTimeout x0 x1) s = .next t) : Follows s t := by
  simp only [exec, execDomainPowerGoodTimeout, Host.Outcome.next.injEq] at h
  subst h
  split
  · exact (Follows.of_kept (by simp)).trans (stepEnds_follows _ _)
  · split <;> exact .of_kept (by simp)

theorem execDrainTimeout_follows {x0 : Nat} {x1 : Nat} {s t : State} (h : exec (.drainTimeout x0 x1) s = .next t) : Follows s t := by
  simp only [exec, execDrainTimeout, Host.Outcome.next.injEq] at h
  subst h
  exact .of_kept (by simp)

theorem execDomainOff_follows {x0 : Nat} {x1 : Nat} {s t : State} (h : exec (.domainOff x0 x1) s = .next t) : Follows s t := by
  simp only [exec, execDomainOff, Host.Outcome.next.injEq] at h
  subst h
  exact .of_kept (by simp)

theorem execStartAttempt_follows {x0 : Nat} {x1 : List StepResult} {s t : State} (h : exec (.startAttempt x0 x1) s = .next t) : Follows s t := by
  simp only [exec, execStartAttempt, Host.Outcome.next.injEq] at h
  subst h
  split
  · refine Follows.trans (.of_kept ?_) (Follows.foldl _ stepEnds_follows _ _)
    split <;> simp
  · exact .of_kept (by simp)

theorem execStartStepTimeout_follows {x0 : Nat} {s t : State} (h : exec (.startStepTimeout x0) s = .next t) : Follows s t := by
  simp only [exec, execStartStepTimeout, Host.Outcome.next.injEq] at h
  subst h
  split
  · exact (Follows.of_kept (by simp)).trans (stepEnds_follows _ _)
  · exact .of_kept (by simp)

theorem execConfigCheckDone_follows {x0 : Nat} {s t : State} (h : exec (.configCheckDone x0) s = .next t) : Follows s t := by
  simp only [exec, execConfigCheckDone, Host.Outcome.next.injEq] at h
  subst h
  (repeat' split) <;> exact .of_kept (by simp)

theorem execNonceExpiry_follows {x0 : Nat} {x1 : Nat} {s t : State} (h : exec (.nonceExpiry x0 x1) s = .next t) : Follows s t := by
  simp only [exec, execNonceExpiry, Host.Outcome.next.injEq] at h
  subst h
  exact .of_kept (by simp)

theorem execLockoutEnd_follows {x0 : Nat} {x1 : Nat} {s t : State} (h : exec (.lockoutEnd x0 x1) s = .next t) : Follows s t := by
  simp only [exec, execLockoutEnd, Host.Outcome.next.injEq] at h
  subst h
  exact .of_kept (by simp)

theorem execUdpIdleTimeout_follows {x0 : Nat} {x1 : Nat} {s t : State} (h : exec (.udpIdleTimeout x0 x1) s = .next t) : Follows s t := by
  simp only [exec, execUdpIdleTimeout, Host.Outcome.next.injEq] at h
  subst h
  exact .of_kept (by simp)

theorem execSessionDrained_follows {x0 : Nat} {x1 : Nat} {s t : State} (h : exec (.sessionDrained x0 x1) s = .next t) : Follows s t := by
  simp only [exec, execSessionDrained, Host.Outcome.next.injEq] at h
  subst h
  exact .of_kept (by simp)

theorem execAcqSample_follows {x0 : Nat} {x1 : Bool} {s t : State} (h : exec (.acqSample x0 x1) s = .next t) : Follows s t := by
  simp only [exec, execAcqSample, Host.Outcome.next.injEq] at h
  subst h
  exact .of_kept (by simp)

theorem execIndexTreeReady_follows {x0 : Nat} {s t : State} (h : exec (.indexTreeReady x0) s = .next t) : Follows s t := by
  simp only [exec, execIndexTreeReady, Host.Outcome.next.injEq] at h
  subst h
  exact .of_kept (by simp)

theorem execTokenRenewal_follows {x0 : Nat} {s t : State} (h : exec (.tokenRenewal x0) s = .next t) : Follows s t := by
  simp only [exec, execTokenRenewal, Host.Outcome.next.injEq] at h
  subst h
  exact .of_kept (by simp)

theorem execTokenMessageRx_follows {x0 : Nat} {x1 : Token} {s t : State} (h : exec (.tokenMessageRx x0 x1) s = .next t) : Follows s t := by
  simp only [exec, execTokenMessageRx, Host.Outcome.next.injEq] at h
  subst h
  exact .of_kept (by simp)

theorem execTokenLeaseExpiry_follows {x0 : Nat} {s t : State} (h : exec (.tokenLeaseExpiry x0) s = .next t) : Follows s t := by
  simp only [exec, execTokenLeaseExpiry, Host.Outcome.next.injEq] at h
  subst h
  exact .of_kept (by simp)

theorem execTakeover_follows {x0 : Nat} {s t : State} (h : exec (.takeover x0) s = .next t) : Follows s t := by
  simp only [exec, execTakeover, Host.Outcome.next.injEq] at h
  subst h
  exact .of_kept (by simp)

theorem execMirrorSetRx_follows {x0 : Nat} {x1 : MirrorSet} {s t : State} (h : exec (.mirrorSetRx x0 x1) s = .next t) : Follows s t := by
  simp only [exec, execMirrorSetRx, Host.Outcome.next.injEq] at h
  subst h
  exact .of_kept ((overPair_kept _ _ (by intro u; (repeat' split) <;> simp)).trans (by simp))

theorem execMirrorAgeLimit_follows {x0 : Nat} {s t : State} (h : exec (.mirrorAgeLimit x0) s = .next t) : Follows s t := by
  simp only [exec, execMirrorAgeLimit, Host.Outcome.next.injEq] at h
  subst h
  exact .of_kept (by simp)

theorem execPlanAckRx_follows {x0 : Nat} {x1 : Nat} {s t : State} (h : exec (.planAckRx x0 x1) s = .next t) : Follows s t := by
  simp only [exec, execPlanAckRx, Host.Outcome.next.injEq] at h
  subst h
  exact .of_kept ((overPair_kept _ _ (by intro u; (repeat' split) <;> simp)).trans (by simp))

theorem execPairSafetyStatusRx_follows {x0 : Nat} {x1 : Bool} {x2 : List Nat} {x3 : Bool} {s t : State} (h : exec (.pairSafetyStatusRx x0 x1 x2 x3) s = .next t) : Follows s t := by
  simp only [exec, execPairSafetyStatusRx, Host.Outcome.next.injEq] at h
  subst h
  exact .of_kept ((overPair_kept _ _ (by intro u; (repeat' split) <;> simp)).trans (by simp))

theorem execPeerSilent_follows {x0 : Nat} {s t : State} (h : exec (.peerSilent x0) s = .next t) : Follows s t := by
  simp only [exec, execPeerSilent, Host.Outcome.next.injEq] at h
  subst h
  exact .of_kept (by simp)

theorem execPairRevertTimer_follows {x0 : Nat} {s t : State} (h : exec (.pairRevertTimer x0) s = .next t) : Follows s t := by
  simp only [exec, execPairRevertTimer, Host.Outcome.next.injEq] at h
  subst h
  exact .of_kept (by simp)

theorem execHandoverRequestRx_follows {x0 : Nat} {x1 : Nat} {x2 : Nat} {s t : State} (h : exec (.handoverRequestRx x0 x1 x2) s = .next t) : Follows s t := by
  simp only [exec, execHandoverRequestRx, Host.Outcome.next.injEq] at h
  subst h
  exact .of_kept ((overPair_kept _ _ (by intro u; (repeat' split) <;> simp)).trans (by simp))

theorem execHandoverAckTimeout_follows {x0 : Nat} {s t : State} (h : exec (.handoverAckTimeout x0) s = .next t) : Follows s t := by
  simp only [exec, execHandoverAckTimeout, Host.Outcome.next.injEq] at h
  subst h
  split <;> exact .of_kept (by simp)

theorem execHandoverAt_follows {x0 : Nat} {s t : State} (h : exec (.handoverAt x0) s = .next t) : Follows s t := by
  simp only [exec, execHandoverAt, Host.Outcome.next.injEq] at h
  subst h
  split <;> exact .of_kept (by simp)

theorem execErrorDetected_follows {x0 : Nat} {x1 : ErrorKind} {x2 : Nat} {x3 : Nat} {x4 : Nat} {s t : State} (h : exec (.errorDetected x0 x1 x2 x3 x4) s = .next t) : Follows s t := by
  simp only [exec, execErrorDetected, Host.Outcome.next.injEq] at h
  subst h
  (repeat' split) <;> exact .of_kept (by simp)

theorem execPtpTransmitInterval_follows {x0 : Nat} {x1 : Nat} {x2 : Nat} {s t : State} (h : exec (.ptpTransmitInterval x0 x1 x2) s = .next t) : Follows s t := by
  simp only [exec, execPtpTransmitInterval, Host.Outcome.next.injEq] at h
  subst h
  exact .of_kept (by simp)

theorem execLinkSynchronised_follows {x0 : Nat} {x1 : Nat} {s t : State} (h : exec (.linkSynchronised x0 x1) s = .next t) : Follows s t := by
  simp only [exec, execLinkSynchronised, Host.Outcome.next.injEq] at h
  subst h
  exact .of_kept (by simp)

theorem execGroupFaultCleared_follows {x0 : Nat} {x1 : Bool} {x2 : Nat} {x3 : Nat} {s t : State} (h : exec (.groupFaultCleared x0 x1 x2 x3) s = .next t) : Follows s t := by
  simp only [exec, execGroupFaultCleared, Host.Outcome.next.injEq] at h
  subst h
  exact .of_kept (by simp)

theorem execVinBackInRange_follows {x0 : Nat} {x1 : Nat} {x2 : Nat} {s t : State} (h : exec (.vinBackInRange x0 x1 x2) s = .next t) : Follows s t := by
  simp only [exec, execVinBackInRange, Host.Outcome.next.injEq] at h
  subst h
  exact .of_kept (by simp)

theorem execEncoderLineRestored_follows {x0 : Nat} {x1 : Nat} {x2 : Bool} {x3 : Bool} {x4 : Bool} {s t : State} (h : exec (.encoderLineRestored x0 x1 x2 x3 x4) s = .next t) : Follows s t := by
  simp only [exec, execEncoderLineRestored, Host.Outcome.next.injEq] at h
  subst h
  exact .of_kept (by simp)

theorem execPhaseAccumulatorCarry_follows {x0 : Nat} {x1 : Nat} {s t : State} (h : exec (.phaseAccumulatorCarry x0 x1) s = .next t) : Follows s t := by
  simp only [exec, execPhaseAccumulatorCarry, Host.Outcome.next.injEq] at h
  subst h
  exact .of_kept (by simp)

theorem execVectorSpacingEnd_follows {x0 : Nat} {x1 : Nat} {s t : State} (h : exec (.vectorSpacingEnd x0 x1) s = .next t) : Follows s t := by
  simp only [exec, execVectorSpacingEnd, Host.Outcome.next.injEq] at h
  subst h
  exact .of_kept (by simp)

theorem execDomainFrequencyMeasurement_follows {x0 : Nat} {x1 : List Nat} {s t : State} (h : exec (.domainFrequencyMeasurement x0 x1) s = .next t) : Follows s t := by
  simp only [exec, execDomainFrequencyMeasurement, Host.Outcome.next.injEq] at h
  subst h
  exact .of_kept (by simp)

end Sys2Proof.Machine
end

