-- ==== Sys2Proof/Laws/Frames.lean ====
section
/-! SUPPORT. What each operation leaves alone: one lemma per operation, naming every part of the state that it does not change. -/

set_option Elab.async false
set_option linter.unusedSimpArgs false

namespace Sys2Proof.Machine

@[simp] theorem ite_mode {c : Prop} [Decidable c] (a b : State) : (if c then a else b).mode = if c then a.mode else b.mode := apply_ite State.mode c a b

@[simp] theorem foldl_mode {α : Type} (f : State → α → State) (l : List α) (s : State) (h : ∀ s a, (f s a).mode = s.mode) :
    (l.foldl f s).mode = s.mode := by
  induction l generalizing s with
  | nil => rfl
  | cons a l ih => simp [ih, h]

@[simp] theorem ite_start {c : Prop} [Decidable c] (a b : State) : (if c then a else b).start = if c then a.start else b.start := apply_ite State.start c a b

@[simp] theorem foldl_start {α : Type} (f : State → α → State) (l : List α) (s : State) (h : ∀ s a, (f s a).start = s.start) :
    (l.foldl f s).start = s.start := by
  induction l generalizing s with
  | nil => rfl
  | cons a l ih => simp [ih, h]

@[simp] theorem ite_zewen {c : Prop} [Decidable c] (a b : State) : (if c then a else b).zewen = if c then a.zewen else b.zewen := apply_ite State.zewen c a b

@[simp] theorem foldl_zewen {α : Type} (f : State → α → State) (l : List α) (s : State) (h : ∀ s a, (f s a).zewen = s.zewen) :
    (l.foldl f s).zewen = s.zewen := by
  induction l generalizing s with
  | nil => rfl
  | cons a l ih => simp [ih, h]

@[simp] theorem ite_writes {c : Prop} [Decidable c] (a b : State) : (if c then a else b).writes = if c then a.writes else b.writes := apply_ite State.writes c a b

@[simp] theorem foldl_writes {α : Type} (f : State → α → State) (l : List α) (s : State) (h : ∀ s a, (f s a).writes = s.writes) :
    (l.foldl f s).writes = s.writes := by
  induction l generalizing s with
  | nil => rfl
  | cons a l ih => simp [ih, h]

@[simp] theorem ite_image {c : Prop} [Decidable c] (a b : State) : (if c then a else b).image = if c then a.image else b.image := apply_ite State.image c a b

@[simp] theorem foldl_image {α : Type} (f : State → α → State) (l : List α) (s : State) (h : ∀ s a, (f s a).image = s.image) :
    (l.foldl f s).image = s.image := by
  induction l generalizing s with
  | nil => rfl
  | cons a l ih => simp [ih, h]

@[simp] theorem ite_reg {c : Prop} [Decidable c] (a b : State) : (if c then a else b).reg = if c then a.reg else b.reg := apply_ite State.reg c a b

@[simp] theorem foldl_reg {α : Type} (f : State → α → State) (l : List α) (s : State) (h : ∀ s a, (f s a).reg = s.reg) :
    (l.foldl f s).reg = s.reg := by
  induction l generalizing s with
  | nil => rfl
  | cons a l ih => simp [ih, h]

@[simp] theorem ite_objs {c : Prop} [Decidable c] (a b : State) : (if c then a else b).objs = if c then a.objs else b.objs := apply_ite State.objs c a b

@[simp] theorem foldl_objs {α : Type} (f : State → α → State) (l : List α) (s : State) (h : ∀ s a, (f s a).objs = s.objs) :
    (l.foldl f s).objs = s.objs := by
  induction l generalizing s with
  | nil => rfl
  | cons a l ih => simp [ih, h]

@[simp] theorem ite_herd {c : Prop} [Decidable c] (a b : State) : (if c then a else b).herd = if c then a.herd else b.herd := apply_ite State.herd c a b

@[simp] theorem foldl_herd {α : Type} (f : State → α → State) (l : List α) (s : State) (h : ∀ s a, (f s a).herd = s.herd) :
    (l.foldl f s).herd = s.herd := by
  induction l generalizing s with
  | nil => rfl
  | cons a l ih => simp [ih, h]

@[simp] theorem ite_aon {c : Prop} [Decidable c] (a b : State) : (if c then a else b).aon = if c then a.aon else b.aon := apply_ite State.aon c a b

@[simp] theorem foldl_aon {α : Type} (f : State → α → State) (l : List α) (s : State) (h : ∀ s a, (f s a).aon = s.aon) :
    (l.foldl f s).aon = s.aon := by
  induction l generalizing s with
  | nil => rfl
  | cons a l ih => simp [ih, h]

@[simp] theorem ite_net {c : Prop} [Decidable c] (a b : State) : (if c then a else b).net = if c then a.net else b.net := apply_ite State.net c a b

@[simp] theorem foldl_net {α : Type} (f : State → α → State) (l : List α) (s : State) (h : ∀ s a, (f s a).net = s.net) :
    (l.foldl f s).net = s.net := by
  induction l generalizing s with
  | nil => rfl
  | cons a l ih => simp [ih, h]

@[simp] theorem ite_plan {c : Prop} [Decidable c] (a b : State) : (if c then a else b).plan = if c then a.plan else b.plan := apply_ite State.plan c a b

@[simp] theorem foldl_plan {α : Type} (f : State → α → State) (l : List α) (s : State) (h : ∀ s a, (f s a).plan = s.plan) :
    (l.foldl f s).plan = s.plan := by
  induction l generalizing s with
  | nil => rfl
  | cons a l ih => simp [ih, h]

@[simp] theorem ite_solver {c : Prop} [Decidable c] (a b : State) : (if c then a else b).solver = if c then a.solver else b.solver := apply_ite State.solver c a b

@[simp] theorem foldl_solver {α : Type} (f : State → α → State) (l : List α) (s : State) (h : ∀ s a, (f s a).solver = s.solver) :
    (l.foldl f s).solver = s.solver := by
  induction l generalizing s with
  | nil => rfl
  | cons a l ih => simp [ih, h]

@[simp] theorem ite_piste {c : Prop} [Decidable c] (a b : State) : (if c then a else b).piste = if c then a.piste else b.piste := apply_ite State.piste c a b

@[simp] theorem foldl_piste {α : Type} (f : State → α → State) (l : List α) (s : State) (h : ∀ s a, (f s a).piste = s.piste) :
    (l.foldl f s).piste = s.piste := by
  induction l generalizing s with
  | nil => rfl
  | cons a l ih => simp [ih, h]

@[simp] theorem ite_prof {c : Prop} [Decidable c] (a b : State) : (if c then a else b).prof = if c then a.prof else b.prof := apply_ite State.prof c a b

@[simp] theorem foldl_prof {α : Type} (f : State → α → State) (l : List α) (s : State) (h : ∀ s a, (f s a).prof = s.prof) :
    (l.foldl f s).prof = s.prof := by
  induction l generalizing s with
  | nil => rfl
  | cons a l ih => simp [ih, h]

@[simp] theorem ite_ctl {c : Prop} [Decidable c] (a b : State) : (if c then a else b).ctl = if c then a.ctl else b.ctl := apply_ite State.ctl c a b

@[simp] theorem foldl_ctl {α : Type} (f : State → α → State) (l : List α) (s : State) (h : ∀ s a, (f s a).ctl = s.ctl) :
    (l.foldl f s).ctl = s.ctl := by
  induction l generalizing s with
  | nil => rfl
  | cons a l ih => simp [ih, h]

@[simp] theorem ite_sched {c : Prop} [Decidable c] (a b : State) : (if c then a else b).sched = if c then a.sched else b.sched := apply_ite State.sched c a b

@[simp] theorem foldl_sched {α : Type} (f : State → α → State) (l : List α) (s : State) (h : ∀ s a, (f s a).sched = s.sched) :
    (l.foldl f s).sched = s.sched := by
  induction l generalizing s with
  | nil => rfl
  | cons a l ih => simp [ih, h]

@[simp] theorem ite_dsp {c : Prop} [Decidable c] (a b : State) : (if c then a else b).dsp = if c then a.dsp else b.dsp := apply_ite State.dsp c a b

@[simp] theorem foldl_dsp {α : Type} (f : State → α → State) (l : List α) (s : State) (h : ∀ s a, (f s a).dsp = s.dsp) :
    (l.foldl f s).dsp = s.dsp := by
  induction l generalizing s with
  | nil => rfl
  | cons a l ih => simp [ih, h]

@[simp] theorem ite_sep {c : Prop} [Decidable c] (a b : State) : (if c then a else b).sep = if c then a.sep else b.sep := apply_ite State.sep c a b

@[simp] theorem foldl_sep {α : Type} (f : State → α → State) (l : List α) (s : State) (h : ∀ s a, (f s a).sep = s.sep) :
    (l.foldl f s).sep = s.sep := by
  induction l generalizing s with
  | nil => rfl
  | cons a l ih => simp [ih, h]

@[simp] theorem ite_safety {c : Prop} [Decidable c] (a b : State) : (if c then a else b).safety = if c then a.safety else b.safety := apply_ite State.safety c a b

@[simp] theorem foldl_safety {α : Type} (f : State → α → State) (l : List α) (s : State) (h : ∀ s a, (f s a).safety = s.safety) :
    (l.foldl f s).safety = s.safety := by
  induction l generalizing s with
  | nil => rfl
  | cons a l ih => simp [ih, h]

@[simp] theorem ite_cham {c : Prop} [Decidable c] (a b : State) : (if c then a else b).cham = if c then a.cham else b.cham := apply_ite State.cham c a b

@[simp] theorem foldl_cham {α : Type} (f : State → α → State) (l : List α) (s : State) (h : ∀ s a, (f s a).cham = s.cham) :
    (l.foldl f s).cham = s.cham := by
  induction l generalizing s with
  | nil => rfl
  | cons a l ih => simp [ih, h]

@[simp] theorem ite_field {c : Prop} [Decidable c] (a b : State) : (if c then a else b).field = if c then a.field else b.field := apply_ite State.field c a b

@[simp] theorem foldl_field {α : Type} (f : State → α → State) (l : List α) (s : State) (h : ∀ s a, (f s a).field = s.field) :
    (l.foldl f s).field = s.field := by
  induction l generalizing s with
  | nil => rfl
  | cons a l ih => simp [ih, h]

@[simp] theorem ite_acq {c : Prop} [Decidable c] (a b : State) : (if c then a else b).acq = if c then a.acq else b.acq := apply_ite State.acq c a b

@[simp] theorem foldl_acq {α : Type} (f : State → α → State) (l : List α) (s : State) (h : ∀ s a, (f s a).acq = s.acq) :
    (l.foldl f s).acq = s.acq := by
  induction l generalizing s with
  | nil => rfl
  | cons a l ih => simp [ih, h]

@[simp] theorem ite_logs {c : Prop} [Decidable c] (a b : State) : (if c then a else b).logs = if c then a.logs else b.logs := apply_ite State.logs c a b

@[simp] theorem foldl_logs {α : Type} (f : State → α → State) (l : List α) (s : State) (h : ∀ s a, (f s a).logs = s.logs) :
    (l.foldl f s).logs = s.logs := by
  induction l generalizing s with
  | nil => rfl
  | cons a l ih => simp [ih, h]

@[simp] theorem ite_clocks {c : Prop} [Decidable c] (a b : State) : (if c then a else b).clocks = if c then a.clocks else b.clocks := apply_ite State.clocks c a b

@[simp] theorem foldl_clocks {α : Type} (f : State → α → State) (l : List α) (s : State) (h : ∀ s a, (f s a).clocks = s.clocks) :
    (l.foldl f s).clocks = s.clocks := by
  induction l generalizing s with
  | nil => rfl
  | cons a l ih => simp [ih, h]

@[simp] theorem ite_power {c : Prop} [Decidable c] (a b : State) : (if c then a else b).power = if c then a.power else b.power := apply_ite State.power c a b

@[simp] theorem foldl_power {α : Type} (f : State → α → State) (l : List α) (s : State) (h : ∀ s a, (f s a).power = s.power) :
    (l.foldl f s).power = s.power := by
  induction l generalizing s with
  | nil => rfl
  | cons a l ih => simp [ih, h]

@[simp] theorem ite_pair {c : Prop} [Decidable c] (a b : State) : (if c then a else b).pair = if c then a.pair else b.pair := apply_ite State.pair c a b

@[simp] theorem foldl_pair {α : Type} (f : State → α → State) (l : List α) (s : State) (h : ∀ s a, (f s a).pair = s.pair) :
    (l.foldl f s).pair = s.pair := by
  induction l generalizing s with
  | nil => rfl
  | cons a l ih => simp [ih, h]

@[simp] theorem ite_sec {c : Prop} [Decidable c] (a b : State) : (if c then a else b).sec = if c then a.sec else b.sec := apply_ite State.sec c a b

@[simp] theorem foldl_sec {α : Type} (f : State → α → State) (l : List α) (s : State) (h : ∀ s a, (f s a).sec = s.sec) :
    (l.foldl f s).sec = s.sec := by
  induction l generalizing s with
  | nil => rfl
  | cons a l ih => simp [ih, h]

@[simp] theorem ite_hw {c : Prop} [Decidable c] (a b : State) : (if c then a else b).hw = if c then a.hw else b.hw := apply_ite State.hw c a b

@[simp] theorem foldl_hw {α : Type} (f : State → α → State) (l : List α) (s : State) (h : ∀ s a, (f s a).hw = s.hw) :
    (l.foldl f s).hw = s.hw := by
  induction l generalizing s with
  | nil => rfl
  | cons a l ih => simp [ih, h]

@[simp] theorem ite_nor {c : Prop} [Decidable c] (a b : State) : (if c then a else b).nor = if c then a.nor else b.nor := apply_ite State.nor c a b

@[simp] theorem foldl_nor {α : Type} (f : State → α → State) (l : List α) (s : State) (h : ∀ s a, (f s a).nor = s.nor) :
    (l.foldl f s).nor = s.nor := by
  induction l generalizing s with
  | nil => rfl
  | cons a l ih => simp [ih, h]

@[simp] theorem ite_freeCount {c : Prop} [Decidable c] (a b : State) : (if c then a else b).freeCount = if c then a.freeCount else b.freeCount := apply_ite State.freeCount c a b

@[simp] theorem foldl_freeCount {α : Type} (f : State → α → State) (l : List α) (s : State) (h : ∀ s a, (f s a).freeCount = s.freeCount) :
    (l.foldl f s).freeCount = s.freeCount := by
  induction l generalizing s with
  | nil => rfl
  | cons a l ih => simp [ih, h]

/-! ### Objects -/

theorem setOb_frame (s : State) (cls : ℕ) (inst : ℕ) (mem : ℕ) (v : ℕ) :
    (setOb s cls inst mem v).mode = s.mode ∧ (setOb s cls inst mem v).start = s.start ∧ (setOb s cls inst mem v).zewen = s.zewen ∧ (setOb s cls inst mem v).writes = s.writes ∧ (setOb s cls inst mem v).image = s.image ∧ (setOb s cls inst mem v).reg = s.reg ∧ (setOb s cls inst mem v).herd = s.herd ∧ (setOb s cls inst mem v).aon = s.aon ∧ (setOb s cls inst mem v).net = s.net ∧ (setOb s cls inst mem v).plan = s.plan ∧ (setOb s cls inst mem v).solver = s.solver ∧ (setOb s cls inst mem v).piste = s.piste ∧ (setOb s cls inst mem v).prof = s.prof ∧ (setOb s cls inst mem v).ctl = s.ctl ∧ (setOb s cls inst mem v).sched = s.sched ∧ (setOb s cls inst mem v).dsp = s.dsp ∧ (setOb s cls inst mem v).sep = s.sep ∧ (setOb s cls inst mem v).safety = s.safety ∧ (setOb s cls inst mem v).cham = s.cham ∧ (setOb s cls inst mem v).field = s.field ∧ (setOb s cls inst mem v).acq = s.acq ∧ (setOb s cls inst mem v).logs = s.logs ∧ (setOb s cls inst mem v).clocks = s.clocks ∧ (setOb s cls inst mem v).power = s.power ∧ (setOb s cls inst mem v).pair = s.pair ∧ (setOb s cls inst mem v).sec = s.sec ∧ (setOb s cls inst mem v).hw = s.hw ∧ (setOb s cls inst mem v).nor = s.nor ∧ (setOb s cls inst mem v).freeCount = s.freeCount := by
  unfold setOb
  simp

theorem noteCount_frame (s : State) (key : ℕ) (n : ℕ) :
    (noteCount s key n).mode = s.mode ∧ (noteCount s key n).start = s.start ∧ (noteCount s key n).zewen = s.zewen ∧ (noteCount s key n).writes = s.writes ∧ (noteCount s key n).image = s.image ∧ (noteCount s key n).reg = s.reg ∧ (noteCount s key n).objs = s.objs ∧ (noteCount s key n).herd = s.herd ∧ (noteCount s key n).aon = s.aon ∧ (noteCount s key n).net = s.net ∧ (noteCount s key n).plan = s.plan ∧ (noteCount s key n).solver = s.solver ∧ (noteCount s key n).piste = s.piste ∧ (noteCount s key n).prof = s.prof ∧ (noteCount s key n).ctl = s.ctl ∧ (noteCount s key n).sched = s.sched ∧ (noteCount s key n).dsp = s.dsp ∧ (noteCount s key n).sep = s.sep ∧ (noteCount s key n).safety = s.safety ∧ (noteCount s key n).cham = s.cham ∧ (noteCount s key n).field = s.field ∧ (noteCount s key n).acq = s.acq ∧ (noteCount s key n).logs = s.logs ∧ (noteCount s key n).clocks = s.clocks ∧ (noteCount s key n).power = s.power ∧ (noteCount s key n).pair = s.pair ∧ (noteCount s key n).sec = s.sec ∧ (noteCount s key n).hw = s.hw ∧ (noteCount s key n).nor = s.nor ∧ (noteCount s key n).freeCount = s.freeCount := by
  unfold noteCount
  simp

theorem bumpN_frame (s : State) (cls : ℕ) (inst : ℕ) (mem : ℕ) (n : ℕ) :
    (bumpN s cls inst mem n).mode = s.mode ∧ (bumpN s cls inst mem n).start = s.start ∧ (bumpN s cls inst mem n).zewen = s.zewen ∧ (bumpN s cls inst mem n).writes = s.writes ∧ (bumpN s cls inst mem n).image = s.image ∧ (bumpN s cls inst mem n).reg = s.reg ∧ (bumpN s cls inst mem n).herd = s.herd ∧ (bumpN s cls inst mem n).aon = s.aon ∧ (bumpN s cls inst mem n).net = s.net ∧ (bumpN s cls inst mem n).plan = s.plan ∧ (bumpN s cls inst mem n).solver = s.solver ∧ (bumpN s cls inst mem n).piste = s.piste ∧ (bumpN s cls inst mem n).prof = s.prof ∧ (bumpN s cls inst mem n).ctl = s.ctl ∧ (bumpN s cls inst mem n).sched = s.sched ∧ (bumpN s cls inst mem n).dsp = s.dsp ∧ (bumpN s cls inst mem n).sep = s.sep ∧ (bumpN s cls inst mem n).safety = s.safety ∧ (bumpN s cls inst mem n).cham = s.cham ∧ (bumpN s cls inst mem n).field = s.field ∧ (bumpN s cls inst mem n).acq = s.acq ∧ (bumpN s cls inst mem n).logs = s.logs ∧ (bumpN s cls inst mem n).clocks = s.clocks ∧ (bumpN s cls inst mem n).power = s.power ∧ (bumpN s cls inst mem n).pair = s.pair ∧ (bumpN s cls inst mem n).sec = s.sec ∧ (bumpN s cls inst mem n).hw = s.hw ∧ (bumpN s cls inst mem n).nor = s.nor := by
  have fr1 := @noteCount_frame
  unfold bumpN
  simp [fr1]

theorem bump_frame (s : State) (cls : ℕ) (inst : ℕ) (mem : ℕ) :
    (bump s cls inst mem).mode = s.mode ∧ (bump s cls inst mem).start = s.start ∧ (bump s cls inst mem).zewen = s.zewen ∧ (bump s cls inst mem).writes = s.writes ∧ (bump s cls inst mem).image = s.image ∧ (bump s cls inst mem).reg = s.reg ∧ (bump s cls inst mem).herd = s.herd ∧ (bump s cls inst mem).aon = s.aon ∧ (bump s cls inst mem).net = s.net ∧ (bump s cls inst mem).plan = s.plan ∧ (bump s cls inst mem).solver = s.solver ∧ (bump s cls inst mem).piste = s.piste ∧ (bump s cls inst mem).prof = s.prof ∧ (bump s cls inst mem).ctl = s.ctl ∧ (bump s cls inst mem).sched = s.sched ∧ (bump s cls inst mem).dsp = s.dsp ∧ (bump s cls inst mem).sep = s.sep ∧ (bump s cls inst mem).safety = s.safety ∧ (bump s cls inst mem).cham = s.cham ∧ (bump s cls inst mem).field = s.field ∧ (bump s cls inst mem).acq = s.acq ∧ (bump s cls inst mem).logs = s.logs ∧ (bump s cls inst mem).clocks = s.clocks ∧ (bump s cls inst mem).power = s.power ∧ (bump s cls inst mem).pair = s.pair ∧ (bump s cls inst mem).sec = s.sec ∧ (bump s cls inst mem).hw = s.hw ∧ (bump s cls inst mem).nor = s.nor := by
  have fr1 := @bumpN_frame
  unfold bump
  simp [fr1]

theorem bumpAt_frame (s : State) (cls : ℕ) (inst : ℕ) (mem : ℕ) (i : ℕ) :
    (bumpAt s cls inst mem i).mode = s.mode ∧ (bumpAt s cls inst mem i).start = s.start ∧ (bumpAt s cls inst mem i).zewen = s.zewen ∧ (bumpAt s cls inst mem i).writes = s.writes ∧ (bumpAt s cls inst mem i).image = s.image ∧ (bumpAt s cls inst mem i).reg = s.reg ∧ (bumpAt s cls inst mem i).herd = s.herd ∧ (bumpAt s cls inst mem i).aon = s.aon ∧ (bumpAt s cls inst mem i).net = s.net ∧ (bumpAt s cls inst mem i).plan = s.plan ∧ (bumpAt s cls inst mem i).solver = s.solver ∧ (bumpAt s cls inst mem i).piste = s.piste ∧ (bumpAt s cls inst mem i).prof = s.prof ∧ (bumpAt s cls inst mem i).ctl = s.ctl ∧ (bumpAt s cls inst mem i).sched = s.sched ∧ (bumpAt s cls inst mem i).dsp = s.dsp ∧ (bumpAt s cls inst mem i).sep = s.sep ∧ (bumpAt s cls inst mem i).safety = s.safety ∧ (bumpAt s cls inst mem i).cham = s.cham ∧ (bumpAt s cls inst mem i).field = s.field ∧ (bumpAt s cls inst mem i).acq = s.acq ∧ (bumpAt s cls inst mem i).logs = s.logs ∧ (bumpAt s cls inst mem i).clocks = s.clocks ∧ (bumpAt s cls inst mem i).power = s.power ∧ (bumpAt s cls inst mem i).pair = s.pair ∧ (bumpAt s cls inst mem i).sec = s.sec ∧ (bumpAt s cls inst mem i).hw = s.hw ∧ (bumpAt s cls inst mem i).nor = s.nor ∧ (bumpAt s cls inst mem i).freeCount = s.freeCount := by
  have fr1 := @noteCount_frame; have fr2 := @setOb_frame
  unfold bumpAt
  simp [fr1, fr2]

theorem bumpAtN_frame (s : State) (cls : ℕ) (inst : ℕ) (mem : ℕ) (i : ℕ) (n : ℕ) :
    (bumpAtN s cls inst mem i n).mode = s.mode ∧ (bumpAtN s cls inst mem i n).start = s.start ∧ (bumpAtN s cls inst mem i n).zewen = s.zewen ∧ (bumpAtN s cls inst mem i n).writes = s.writes ∧ (bumpAtN s cls inst mem i n).image = s.image ∧ (bumpAtN s cls inst mem i n).reg = s.reg ∧ (bumpAtN s cls inst mem i n).herd = s.herd ∧ (bumpAtN s cls inst mem i n).aon = s.aon ∧ (bumpAtN s cls inst mem i n).net = s.net ∧ (bumpAtN s cls inst mem i n).plan = s.plan ∧ (bumpAtN s cls inst mem i n).solver = s.solver ∧ (bumpAtN s cls inst mem i n).piste = s.piste ∧ (bumpAtN s cls inst mem i n).prof = s.prof ∧ (bumpAtN s cls inst mem i n).ctl = s.ctl ∧ (bumpAtN s cls inst mem i n).sched = s.sched ∧ (bumpAtN s cls inst mem i n).dsp = s.dsp ∧ (bumpAtN s cls inst mem i n).sep = s.sep ∧ (bumpAtN s cls inst mem i n).safety = s.safety ∧ (bumpAtN s cls inst mem i n).cham = s.cham ∧ (bumpAtN s cls inst mem i n).field = s.field ∧ (bumpAtN s cls inst mem i n).acq = s.acq ∧ (bumpAtN s cls inst mem i n).logs = s.logs ∧ (bumpAtN s cls inst mem i n).clocks = s.clocks ∧ (bumpAtN s cls inst mem i n).power = s.power ∧ (bumpAtN s cls inst mem i n).pair = s.pair ∧ (bumpAtN s cls inst mem i n).sec = s.sec ∧ (bumpAtN s cls inst mem i n).hw = s.hw ∧ (bumpAtN s cls inst mem i n).nor = s.nor ∧ (bumpAtN s cls inst mem i n).freeCount = s.freeCount := by
  have fr1 := @noteCount_frame; have fr2 := @setOb_frame
  unfold bumpAtN
  simp [fr1, fr2]

theorem countFrame_frame (s : State) (p : ℕ) :
    (countFrame s p).mode = s.mode ∧ (countFrame s p).start = s.start ∧ (countFrame s p).zewen = s.zewen ∧ (countFrame s p).writes = s.writes ∧ (countFrame s p).image = s.image ∧ (countFrame s p).reg = s.reg ∧ (countFrame s p).herd = s.herd ∧ (countFrame s p).aon = s.aon ∧ (countFrame s p).net = s.net ∧ (countFrame s p).plan = s.plan ∧ (countFrame s p).solver = s.solver ∧ (countFrame s p).piste = s.piste ∧ (countFrame s p).prof = s.prof ∧ (countFrame s p).ctl = s.ctl ∧ (countFrame s p).sched = s.sched ∧ (countFrame s p).dsp = s.dsp ∧ (countFrame s p).sep = s.sep ∧ (countFrame s p).safety = s.safety ∧ (countFrame s p).cham = s.cham ∧ (countFrame s p).field = s.field ∧ (countFrame s p).acq = s.acq ∧ (countFrame s p).logs = s.logs ∧ (countFrame s p).clocks = s.clocks ∧ (countFrame s p).power = s.power ∧ (countFrame s p).pair = s.pair ∧ (countFrame s p).sec = s.sec ∧ (countFrame s p).hw = s.hw ∧ (countFrame s p).nor = s.nor ∧ (countFrame s p).freeCount = s.freeCount := by
  have fr1 := @setOb_frame
  unfold countFrame
  simp [fr1]

/-! ### Ops -/

theorem setCycle_frame (s : State) (ns : ℕ) :
    (setCycle s ns).mode = s.mode ∧ (setCycle s ns).start = s.start ∧ (setCycle s ns).zewen = s.zewen ∧ (setCycle s ns).writes = s.writes ∧ (setCycle s ns).image = s.image ∧ (setCycle s ns).reg = s.reg ∧ (setCycle s ns).objs = s.objs ∧ (setCycle s ns).aon = s.aon ∧ (setCycle s ns).plan = s.plan ∧ (setCycle s ns).solver = s.solver ∧ (setCycle s ns).piste = s.piste ∧ (setCycle s ns).prof = s.prof ∧ (setCycle s ns).ctl = s.ctl ∧ (setCycle s ns).sched = s.sched ∧ (setCycle s ns).dsp = s.dsp ∧ (setCycle s ns).sep = s.sep ∧ (setCycle s ns).safety = s.safety ∧ (setCycle s ns).cham = s.cham ∧ (setCycle s ns).field = s.field ∧ (setCycle s ns).acq = s.acq ∧ (setCycle s ns).logs = s.logs ∧ (setCycle s ns).clocks = s.clocks ∧ (setCycle s ns).power = s.power ∧ (setCycle s ns).pair = s.pair ∧ (setCycle s ns).sec = s.sec ∧ (setCycle s ns).hw = s.hw ∧ (setCycle s ns).nor = s.nor ∧ (setCycle s ns).freeCount = s.freeCount := by
  unfold setCycle
  simp

theorem addClocks_frame (s : State) (n : ℕ) :
    (addClocks s n).mode = s.mode ∧ (addClocks s n).start = s.start ∧ (addClocks s n).zewen = s.zewen ∧ (addClocks s n).writes = s.writes ∧ (addClocks s n).image = s.image ∧ (addClocks s n).reg = s.reg ∧ (addClocks s n).objs = s.objs ∧ (addClocks s n).aon = s.aon ∧ (addClocks s n).net = s.net ∧ (addClocks s n).plan = s.plan ∧ (addClocks s n).solver = s.solver ∧ (addClocks s n).piste = s.piste ∧ (addClocks s n).prof = s.prof ∧ (addClocks s n).ctl = s.ctl ∧ (addClocks s n).sched = s.sched ∧ (addClocks s n).dsp = s.dsp ∧ (addClocks s n).sep = s.sep ∧ (addClocks s n).safety = s.safety ∧ (addClocks s n).cham = s.cham ∧ (addClocks s n).field = s.field ∧ (addClocks s n).acq = s.acq ∧ (addClocks s n).logs = s.logs ∧ (addClocks s n).clocks = s.clocks ∧ (addClocks s n).power = s.power ∧ (addClocks s n).pair = s.pair ∧ (addClocks s n).sec = s.sec ∧ (addClocks s n).hw = s.hw ∧ (addClocks s n).nor = s.nor ∧ (addClocks s n).freeCount = s.freeCount := by
  unfold addClocks
  simp

theorem countClocks_frame (clk : ℕ) (s : State) :
    (countClocks clk s).mode = s.mode ∧ (countClocks clk s).start = s.start ∧ (countClocks clk s).zewen = s.zewen ∧ (countClocks clk s).writes = s.writes ∧ (countClocks clk s).image = s.image ∧ (countClocks clk s).reg = s.reg ∧ (countClocks clk s).objs = s.objs ∧ (countClocks clk s).herd = s.herd ∧ (countClocks clk s).net = s.net ∧ (countClocks clk s).plan = s.plan ∧ (countClocks clk s).solver = s.solver ∧ (countClocks clk s).piste = s.piste ∧ (countClocks clk s).prof = s.prof ∧ (countClocks clk s).ctl = s.ctl ∧ (countClocks clk s).sched = s.sched ∧ (countClocks clk s).dsp = s.dsp ∧ (countClocks clk s).sep = s.sep ∧ (countClocks clk s).safety = s.safety ∧ (countClocks clk s).cham = s.cham ∧ (countClocks clk s).field = s.field ∧ (countClocks clk s).acq = s.acq ∧ (countClocks clk s).logs = s.logs ∧ (countClocks clk s).clocks = s.clocks ∧ (countClocks clk s).power = s.power ∧ (countClocks clk s).pair = s.pair ∧ (countClocks clk s).sec = s.sec ∧ (countClocks clk s).hw = s.hw ∧ (countClocks clk s).nor = s.nor ∧ (countClocks clk s).freeCount = s.freeCount := by
  unfold countClocks
  simp

theorem advance_frame (clk : ℕ) (s : State) :
    (advance clk s).mode = s.mode ∧ (advance clk s).start = s.start ∧ (advance clk s).zewen = s.zewen ∧ (advance clk s).writes = s.writes ∧ (advance clk s).image = s.image ∧ (advance clk s).reg = s.reg ∧ (advance clk s).objs = s.objs ∧ (advance clk s).net = s.net ∧ (advance clk s).plan = s.plan ∧ (advance clk s).solver = s.solver ∧ (advance clk s).piste = s.piste ∧ (advance clk s).prof = s.prof ∧ (advance clk s).ctl = s.ctl ∧ (advance clk s).sched = s.sched ∧ (advance clk s).dsp = s.dsp ∧ (advance clk s).sep = s.sep ∧ (advance clk s).safety = s.safety ∧ (advance clk s).cham = s.cham ∧ (advance clk s).field = s.field ∧ (advance clk s).acq = s.acq ∧ (advance clk s).logs = s.logs ∧ (advance clk s).clocks = s.clocks ∧ (advance clk s).power = s.power ∧ (advance clk s).pair = s.pair ∧ (advance clk s).sec = s.sec ∧ (advance clk s).hw = s.hw ∧ (advance clk s).nor = s.nor ∧ (advance clk s).freeCount = s.freeCount := by
  have fr1 := @countClocks_frame; have fr2 := @addClocks_frame
  unfold advance
  simp [fr1, fr2]

theorem begin_frame (clk : ℕ) (s : State) :
    (begin clk s).mode = s.mode ∧ (begin clk s).start = s.start ∧ (begin clk s).zewen = s.zewen ∧ (begin clk s).writes = s.writes ∧ (begin clk s).image = s.image ∧ (begin clk s).reg = s.reg ∧ (begin clk s).objs = s.objs ∧ (begin clk s).net = s.net ∧ (begin clk s).plan = s.plan ∧ (begin clk s).solver = s.solver ∧ (begin clk s).piste = s.piste ∧ (begin clk s).prof = s.prof ∧ (begin clk s).ctl = s.ctl ∧ (begin clk s).sched = s.sched ∧ (begin clk s).dsp = s.dsp ∧ (begin clk s).sep = s.sep ∧ (begin clk s).safety = s.safety ∧ (begin clk s).cham = s.cham ∧ (begin clk s).field = s.field ∧ (begin clk s).acq = s.acq ∧ (begin clk s).logs = s.logs ∧ (begin clk s).clocks = s.clocks ∧ (begin clk s).power = s.power ∧ (begin clk s).pair = s.pair ∧ (begin clk s).sec = s.sec ∧ (begin clk s).hw = s.hw ∧ (begin clk s).nor = s.nor ∧ (begin clk s).freeCount = s.freeCount := by
  have fr1 := @advance_frame
  unfold begin
  simp [fr1]

theorem emit_frame (s : State) (o : Output) :
    (emit s o).mode = s.mode ∧ (emit s o).start = s.start ∧ (emit s o).zewen = s.zewen ∧ (emit s o).writes = s.writes ∧ (emit s o).image = s.image ∧ (emit s o).reg = s.reg ∧ (emit s o).objs = s.objs ∧ (emit s o).herd = s.herd ∧ (emit s o).aon = s.aon ∧ (emit s o).net = s.net ∧ (emit s o).plan = s.plan ∧ (emit s o).solver = s.solver ∧ (emit s o).piste = s.piste ∧ (emit s o).prof = s.prof ∧ (emit s o).ctl = s.ctl ∧ (emit s o).sched = s.sched ∧ (emit s o).dsp = s.dsp ∧ (emit s o).sep = s.sep ∧ (emit s o).safety = s.safety ∧ (emit s o).cham = s.cham ∧ (emit s o).field = s.field ∧ (emit s o).acq = s.acq ∧ (emit s o).logs = s.logs ∧ (emit s o).clocks = s.clocks ∧ (emit s o).power = s.power ∧ (emit s o).pair = s.pair ∧ (emit s o).sec = s.sec ∧ (emit s o).hw = s.hw ∧ (emit s o).nor = s.nor ∧ (emit s o).freeCount = s.freeCount := by
  unfold emit
  simp

theorem withMsix_frame (s : State) (f : MsixState → MsixState) :
    (withMsix s f).mode = s.mode ∧ (withMsix s f).start = s.start ∧ (withMsix s f).writes = s.writes ∧ (withMsix s f).image = s.image ∧ (withMsix s f).reg = s.reg ∧ (withMsix s f).objs = s.objs ∧ (withMsix s f).herd = s.herd ∧ (withMsix s f).aon = s.aon ∧ (withMsix s f).net = s.net ∧ (withMsix s f).plan = s.plan ∧ (withMsix s f).solver = s.solver ∧ (withMsix s f).piste = s.piste ∧ (withMsix s f).prof = s.prof ∧ (withMsix s f).ctl = s.ctl ∧ (withMsix s f).sched = s.sched ∧ (withMsix s f).dsp = s.dsp ∧ (withMsix s f).sep = s.sep ∧ (withMsix s f).safety = s.safety ∧ (withMsix s f).cham = s.cham ∧ (withMsix s f).field = s.field ∧ (withMsix s f).acq = s.acq ∧ (withMsix s f).logs = s.logs ∧ (withMsix s f).clocks = s.clocks ∧ (withMsix s f).power = s.power ∧ (withMsix s f).pair = s.pair ∧ (withMsix s f).sec = s.sec ∧ (withMsix s f).hw = s.hw ∧ (withMsix s f).nor = s.nor ∧ (withMsix s f).freeCount = s.freeCount := by
  unfold withMsix
  simp

theorem vectorNow_frame (s : State) (v : ℕ) :
    (vectorNow s v).mode = s.mode ∧ (vectorNow s v).start = s.start ∧ (vectorNow s v).writes = s.writes ∧ (vectorNow s v).image = s.image ∧ (vectorNow s v).reg = s.reg ∧ (vectorNow s v).objs = s.objs ∧ (vectorNow s v).herd = s.herd ∧ (vectorNow s v).aon = s.aon ∧ (vectorNow s v).net = s.net ∧ (vectorNow s v).plan = s.plan ∧ (vectorNow s v).solver = s.solver ∧ (vectorNow s v).piste = s.piste ∧ (vectorNow s v).prof = s.prof ∧ (vectorNow s v).ctl = s.ctl ∧ (vectorNow s v).sched = s.sched ∧ (vectorNow s v).dsp = s.dsp ∧ (vectorNow s v).sep = s.sep ∧ (vectorNow s v).safety = s.safety ∧ (vectorNow s v).cham = s.cham ∧ (vectorNow s v).field = s.field ∧ (vectorNow s v).acq = s.acq ∧ (vectorNow s v).logs = s.logs ∧ (vectorNow s v).clocks = s.clocks ∧ (vectorNow s v).power = s.power ∧ (vectorNow s v).pair = s.pair ∧ (vectorNow s v).sec = s.sec ∧ (vectorNow s v).hw = s.hw ∧ (vectorNow s v).nor = s.nor ∧ (vectorNow s v).freeCount = s.freeCount := by
  have fr1 := @withMsix_frame; have fr2 := @emit_frame
  unfold vectorNow
  simp [fr1, fr2]

theorem sendVector_frame (s : State) (v : ℕ) :
    (sendVector s v).mode = s.mode ∧ (sendVector s v).start = s.start ∧ (sendVector s v).writes = s.writes ∧ (sendVector s v).image = s.image ∧ (sendVector s v).reg = s.reg ∧ (sendVector s v).objs = s.objs ∧ (sendVector s v).herd = s.herd ∧ (sendVector s v).aon = s.aon ∧ (sendVector s v).net = s.net ∧ (sendVector s v).plan = s.plan ∧ (sendVector s v).solver = s.solver ∧ (sendVector s v).piste = s.piste ∧ (sendVector s v).prof = s.prof ∧ (sendVector s v).ctl = s.ctl ∧ (sendVector s v).sched = s.sched ∧ (sendVector s v).dsp = s.dsp ∧ (sendVector s v).sep = s.sep ∧ (sendVector s v).safety = s.safety ∧ (sendVector s v).cham = s.cham ∧ (sendVector s v).field = s.field ∧ (sendVector s v).acq = s.acq ∧ (sendVector s v).logs = s.logs ∧ (sendVector s v).clocks = s.clocks ∧ (sendVector s v).power = s.power ∧ (sendVector s v).pair = s.pair ∧ (sendVector s v).sec = s.sec ∧ (sendVector s v).hw = s.hw ∧ (sendVector s v).nor = s.nor ∧ (sendVector s v).freeCount = s.freeCount := by
  have fr1 := @withMsix_frame; have fr2 := @vectorNow_frame
  unfold sendVector
  simp [fr1, fr2]

theorem withFresh_frame (s : State) (f : ClockNew → ClockNew) :
    (withFresh s f).mode = s.mode ∧ (withFresh s f).start = s.start ∧ (withFresh s f).zewen = s.zewen ∧ (withFresh s f).writes = s.writes ∧ (withFresh s f).image = s.image ∧ (withFresh s f).reg = s.reg ∧ (withFresh s f).objs = s.objs ∧ (withFresh s f).herd = s.herd ∧ (withFresh s f).aon = s.aon ∧ (withFresh s f).net = s.net ∧ (withFresh s f).plan = s.plan ∧ (withFresh s f).solver = s.solver ∧ (withFresh s f).piste = s.piste ∧ (withFresh s f).prof = s.prof ∧ (withFresh s f).ctl = s.ctl ∧ (withFresh s f).sched = s.sched ∧ (withFresh s f).dsp = s.dsp ∧ (withFresh s f).sep = s.sep ∧ (withFresh s f).safety = s.safety ∧ (withFresh s f).cham = s.cham ∧ (withFresh s f).field = s.field ∧ (withFresh s f).acq = s.acq ∧ (withFresh s f).logs = s.logs ∧ (withFresh s f).clocks = s.clocks ∧ (withFresh s f).power = s.power ∧ (withFresh s f).pair = s.pair ∧ (withFresh s f).sec = s.sec ∧ (withFresh s f).hw = s.hw ∧ (withFresh s f).nor = s.nor ∧ (withFresh s f).freeCount = s.freeCount := by
  unfold withFresh
  simp

theorem setInt_frame (s : State) (n : ℕ) :
    (setInt s n).mode = s.mode ∧ (setInt s n).start = s.start ∧ (setInt s n).writes = s.writes ∧ (setInt s n).image = s.image ∧ (setInt s n).objs = s.objs ∧ (setInt s n).herd = s.herd ∧ (setInt s n).aon = s.aon ∧ (setInt s n).net = s.net ∧ (setInt s n).plan = s.plan ∧ (setInt s n).solver = s.solver ∧ (setInt s n).piste = s.piste ∧ (setInt s n).prof = s.prof ∧ (setInt s n).ctl = s.ctl ∧ (setInt s n).sched = s.sched ∧ (setInt s n).dsp = s.dsp ∧ (setInt s n).sep = s.sep ∧ (setInt s n).safety = s.safety ∧ (setInt s n).cham = s.cham ∧ (setInt s n).field = s.field ∧ (setInt s n).acq = s.acq ∧ (setInt s n).logs = s.logs ∧ (setInt s n).clocks = s.clocks ∧ (setInt s n).power = s.power ∧ (setInt s n).pair = s.pair ∧ (setInt s n).sec = s.sec ∧ (setInt s n).hw = s.hw ∧ (setInt s n).nor = s.nor ∧ (setInt s n).freeCount = s.freeCount := by
  have fr1 := @withFresh_frame; have fr2 := @sendVector_frame
  unfold setInt
  simp [fr1, fr2]

theorem pushStamp_frame (s : State) (e : TxStamp) :
    (pushStamp s e).mode = s.mode ∧ (pushStamp s e).start = s.start ∧ (pushStamp s e).writes = s.writes ∧ (pushStamp s e).image = s.image ∧ (pushStamp s e).objs = s.objs ∧ (pushStamp s e).aon = s.aon ∧ (pushStamp s e).net = s.net ∧ (pushStamp s e).plan = s.plan ∧ (pushStamp s e).solver = s.solver ∧ (pushStamp s e).piste = s.piste ∧ (pushStamp s e).prof = s.prof ∧ (pushStamp s e).ctl = s.ctl ∧ (pushStamp s e).sched = s.sched ∧ (pushStamp s e).dsp = s.dsp ∧ (pushStamp s e).sep = s.sep ∧ (pushStamp s e).safety = s.safety ∧ (pushStamp s e).cham = s.cham ∧ (pushStamp s e).field = s.field ∧ (pushStamp s e).acq = s.acq ∧ (pushStamp s e).logs = s.logs ∧ (pushStamp s e).clocks = s.clocks ∧ (pushStamp s e).power = s.power ∧ (pushStamp s e).pair = s.pair ∧ (pushStamp s e).sec = s.sec ∧ (pushStamp s e).hw = s.hw ∧ (pushStamp s e).nor = s.nor ∧ (pushStamp s e).freeCount = s.freeCount := by
  have fr1 := @setInt_frame
  unfold pushStamp
  simp [fr1]

theorem dueStamp_frame (s : State) (e : TxStamp) :
    (dueStamp s e).mode = s.mode ∧ (dueStamp s e).start = s.start ∧ (dueStamp s e).zewen = s.zewen ∧ (dueStamp s e).writes = s.writes ∧ (dueStamp s e).image = s.image ∧ (dueStamp s e).reg = s.reg ∧ (dueStamp s e).objs = s.objs ∧ (dueStamp s e).aon = s.aon ∧ (dueStamp s e).net = s.net ∧ (dueStamp s e).plan = s.plan ∧ (dueStamp s e).solver = s.solver ∧ (dueStamp s e).piste = s.piste ∧ (dueStamp s e).prof = s.prof ∧ (dueStamp s e).ctl = s.ctl ∧ (dueStamp s e).sched = s.sched ∧ (dueStamp s e).dsp = s.dsp ∧ (dueStamp s e).sep = s.sep ∧ (dueStamp s e).safety = s.safety ∧ (dueStamp s e).cham = s.cham ∧ (dueStamp s e).field = s.field ∧ (dueStamp s e).acq = s.acq ∧ (dueStamp s e).logs = s.logs ∧ (dueStamp s e).clocks = s.clocks ∧ (dueStamp s e).power = s.power ∧ (dueStamp s e).pair = s.pair ∧ (dueStamp s e).sec = s.sec ∧ (dueStamp s e).hw = s.hw ∧ (dueStamp s e).nor = s.nor ∧ (dueStamp s e).freeCount = s.freeCount := by
  unfold dueStamp
  simp

theorem takeStamps_frame (s : State) :
    (takeStamps s).mode = s.mode ∧ (takeStamps s).start = s.start ∧ (takeStamps s).writes = s.writes ∧ (takeStamps s).image = s.image ∧ (takeStamps s).objs = s.objs ∧ (takeStamps s).aon = s.aon ∧ (takeStamps s).net = s.net ∧ (takeStamps s).plan = s.plan ∧ (takeStamps s).solver = s.solver ∧ (takeStamps s).piste = s.piste ∧ (takeStamps s).prof = s.prof ∧ (takeStamps s).ctl = s.ctl ∧ (takeStamps s).sched = s.sched ∧ (takeStamps s).dsp = s.dsp ∧ (takeStamps s).sep = s.sep ∧ (takeStamps s).safety = s.safety ∧ (takeStamps s).cham = s.cham ∧ (takeStamps s).field = s.field ∧ (takeStamps s).acq = s.acq ∧ (takeStamps s).logs = s.logs ∧ (takeStamps s).clocks = s.clocks ∧ (takeStamps s).power = s.power ∧ (takeStamps s).pair = s.pair ∧ (takeStamps s).sec = s.sec ∧ (takeStamps s).hw = s.hw ∧ (takeStamps s).nor = s.nor ∧ (takeStamps s).freeCount = s.freeCount := by
  have fr1 := @pushStamp_frame
  unfold takeStamps
  simp [fr1]

theorem noteErr_frame (s : State) (w : Word) :
    (noteErr s w).mode = s.mode ∧ (noteErr s w).start = s.start ∧ (noteErr s w).zewen = s.zewen ∧ (noteErr s w).writes = s.writes ∧ (noteErr s w).image = s.image ∧ (noteErr s w).objs = s.objs ∧ (noteErr s w).herd = s.herd ∧ (noteErr s w).aon = s.aon ∧ (noteErr s w).net = s.net ∧ (noteErr s w).plan = s.plan ∧ (noteErr s w).solver = s.solver ∧ (noteErr s w).piste = s.piste ∧ (noteErr s w).prof = s.prof ∧ (noteErr s w).ctl = s.ctl ∧ (noteErr s w).sched = s.sched ∧ (noteErr s w).dsp = s.dsp ∧ (noteErr s w).sep = s.sep ∧ (noteErr s w).safety = s.safety ∧ (noteErr s w).cham = s.cham ∧ (noteErr s w).field = s.field ∧ (noteErr s w).acq = s.acq ∧ (noteErr s w).logs = s.logs ∧ (noteErr s w).clocks = s.clocks ∧ (noteErr s w).power = s.power ∧ (noteErr s w).pair = s.pair ∧ (noteErr s w).sec = s.sec ∧ (noteErr s w).hw = s.hw ∧ (noteErr s w).nor = s.nor ∧ (noteErr s w).freeCount = s.freeCount := by
  unfold noteErr
  simp

theorem writeErr_frame (s : State) (w : Word) :
    (writeErr s w).start = s.start ∧ (writeErr s w).writes = s.writes ∧ (writeErr s w).image = s.image ∧ (writeErr s w).objs = s.objs ∧ (writeErr s w).herd = s.herd ∧ (writeErr s w).aon = s.aon ∧ (writeErr s w).net = s.net ∧ (writeErr s w).plan = s.plan ∧ (writeErr s w).solver = s.solver ∧ (writeErr s w).piste = s.piste ∧ (writeErr s w).prof = s.prof ∧ (writeErr s w).ctl = s.ctl ∧ (writeErr s w).sched = s.sched ∧ (writeErr s w).dsp = s.dsp ∧ (writeErr s w).sep = s.sep ∧ (writeErr s w).safety = s.safety ∧ (writeErr s w).cham = s.cham ∧ (writeErr s w).field = s.field ∧ (writeErr s w).acq = s.acq ∧ (writeErr s w).logs = s.logs ∧ (writeErr s w).clocks = s.clocks ∧ (writeErr s w).power = s.power ∧ (writeErr s w).pair = s.pair ∧ (writeErr s w).sec = s.sec ∧ (writeErr s w).hw = s.hw ∧ (writeErr s w).nor = s.nor ∧ (writeErr s w).freeCount = s.freeCount := by
  have fr1 := @noteErr_frame; have fr2 := @setInt_frame
  unfold writeErr
  simp [fr1, fr2]

theorem withLogs_frame (s : State) (f : LogState → LogState) :
    (withLogs s f).mode = s.mode ∧ (withLogs s f).start = s.start ∧ (withLogs s f).zewen = s.zewen ∧ (withLogs s f).writes = s.writes ∧ (withLogs s f).image = s.image ∧ (withLogs s f).reg = s.reg ∧ (withLogs s f).objs = s.objs ∧ (withLogs s f).herd = s.herd ∧ (withLogs s f).aon = s.aon ∧ (withLogs s f).net = s.net ∧ (withLogs s f).plan = s.plan ∧ (withLogs s f).solver = s.solver ∧ (withLogs s f).piste = s.piste ∧ (withLogs s f).prof = s.prof ∧ (withLogs s f).ctl = s.ctl ∧ (withLogs s f).sched = s.sched ∧ (withLogs s f).dsp = s.dsp ∧ (withLogs s f).sep = s.sep ∧ (withLogs s f).safety = s.safety ∧ (withLogs s f).cham = s.cham ∧ (withLogs s f).field = s.field ∧ (withLogs s f).acq = s.acq ∧ (withLogs s f).clocks = s.clocks ∧ (withLogs s f).power = s.power ∧ (withLogs s f).pair = s.pair ∧ (withLogs s f).sec = s.sec ∧ (withLogs s f).hw = s.hw ∧ (withLogs s f).nor = s.nor ∧ (withLogs s f).freeCount = s.freeCount := by
  unfold withLogs
  simp

theorem dropEvent_frame (s : State) :
    (dropEvent s).mode = s.mode ∧ (dropEvent s).start = s.start ∧ (dropEvent s).zewen = s.zewen ∧ (dropEvent s).writes = s.writes ∧ (dropEvent s).image = s.image ∧ (dropEvent s).reg = s.reg ∧ (dropEvent s).herd = s.herd ∧ (dropEvent s).aon = s.aon ∧ (dropEvent s).net = s.net ∧ (dropEvent s).plan = s.plan ∧ (dropEvent s).solver = s.solver ∧ (dropEvent s).piste = s.piste ∧ (dropEvent s).prof = s.prof ∧ (dropEvent s).ctl = s.ctl ∧ (dropEvent s).sched = s.sched ∧ (dropEvent s).dsp = s.dsp ∧ (dropEvent s).sep = s.sep ∧ (dropEvent s).safety = s.safety ∧ (dropEvent s).cham = s.cham ∧ (dropEvent s).field = s.field ∧ (dropEvent s).acq = s.acq ∧ (dropEvent s).clocks = s.clocks ∧ (dropEvent s).power = s.power ∧ (dropEvent s).pair = s.pair ∧ (dropEvent s).sec = s.sec ∧ (dropEvent s).hw = s.hw ∧ (dropEvent s).nor = s.nor := by
  have fr1 := @bump_frame; have fr2 := @withLogs_frame; have fr3 := @bumpN_frame
  unfold dropEvent
  split <;> simp [fr1, fr2, fr3]

theorem addEvent_frame (s : State) (e : LogEntry) :
    (addEvent s e).mode = s.mode ∧ (addEvent s e).start = s.start ∧ (addEvent s e).zewen = s.zewen ∧ (addEvent s e).writes = s.writes ∧ (addEvent s e).image = s.image ∧ (addEvent s e).reg = s.reg ∧ (addEvent s e).herd = s.herd ∧ (addEvent s e).aon = s.aon ∧ (addEvent s e).net = s.net ∧ (addEvent s e).plan = s.plan ∧ (addEvent s e).solver = s.solver ∧ (addEvent s e).piste = s.piste ∧ (addEvent s e).prof = s.prof ∧ (addEvent s e).ctl = s.ctl ∧ (addEvent s e).sched = s.sched ∧ (addEvent s e).dsp = s.dsp ∧ (addEvent s e).sep = s.sep ∧ (addEvent s e).safety = s.safety ∧ (addEvent s e).cham = s.cham ∧ (addEvent s e).field = s.field ∧ (addEvent s e).acq = s.acq ∧ (addEvent s e).clocks = s.clocks ∧ (addEvent s e).power = s.power ∧ (addEvent s e).pair = s.pair ∧ (addEvent s e).sec = s.sec ∧ (addEvent s e).hw = s.hw ∧ (addEvent s e).nor = s.nor := by
  have fr1 := @withLogs_frame; have fr2 := @bump_frame; have fr3 := @bumpN_frame; have fr4 := @dropEvent_frame
  unfold addEvent
  split <;> simp [fr1, fr2, fr3, fr4]

theorem dropTrace_frame (s : State) :
    (dropTrace s).mode = s.mode ∧ (dropTrace s).start = s.start ∧ (dropTrace s).zewen = s.zewen ∧ (dropTrace s).writes = s.writes ∧ (dropTrace s).image = s.image ∧ (dropTrace s).reg = s.reg ∧ (dropTrace s).herd = s.herd ∧ (dropTrace s).aon = s.aon ∧ (dropTrace s).net = s.net ∧ (dropTrace s).plan = s.plan ∧ (dropTrace s).solver = s.solver ∧ (dropTrace s).piste = s.piste ∧ (dropTrace s).prof = s.prof ∧ (dropTrace s).ctl = s.ctl ∧ (dropTrace s).sched = s.sched ∧ (dropTrace s).dsp = s.dsp ∧ (dropTrace s).sep = s.sep ∧ (dropTrace s).safety = s.safety ∧ (dropTrace s).cham = s.cham ∧ (dropTrace s).field = s.field ∧ (dropTrace s).acq = s.acq ∧ (dropTrace s).clocks = s.clocks ∧ (dropTrace s).power = s.power ∧ (dropTrace s).pair = s.pair ∧ (dropTrace s).sec = s.sec ∧ (dropTrace s).hw = s.hw ∧ (dropTrace s).nor = s.nor := by
  have fr1 := @bump_frame; have fr2 := @withLogs_frame
  unfold dropTrace
  simp [fr1, fr2]

theorem addTrace_frame (s : State) (e : LogEntry) :
    (addTrace s e).mode = s.mode ∧ (addTrace s e).start = s.start ∧ (addTrace s e).zewen = s.zewen ∧ (addTrace s e).writes = s.writes ∧ (addTrace s e).image = s.image ∧ (addTrace s e).reg = s.reg ∧ (addTrace s e).herd = s.herd ∧ (addTrace s e).aon = s.aon ∧ (addTrace s e).net = s.net ∧ (addTrace s e).plan = s.plan ∧ (addTrace s e).solver = s.solver ∧ (addTrace s e).piste = s.piste ∧ (addTrace s e).prof = s.prof ∧ (addTrace s e).ctl = s.ctl ∧ (addTrace s e).sched = s.sched ∧ (addTrace s e).dsp = s.dsp ∧ (addTrace s e).sep = s.sep ∧ (addTrace s e).safety = s.safety ∧ (addTrace s e).cham = s.cham ∧ (addTrace s e).field = s.field ∧ (addTrace s e).acq = s.acq ∧ (addTrace s e).clocks = s.clocks ∧ (addTrace s e).power = s.power ∧ (addTrace s e).pair = s.pair ∧ (addTrace s e).sec = s.sec ∧ (addTrace s e).hw = s.hw ∧ (addTrace s e).nor = s.nor := by
  have fr1 := @dropTrace_frame; have fr2 := @withLogs_frame
  unfold addTrace
  simp [fr1, fr2]

theorem putAlarm_frame (s : State) (e : LogEntry) (room : ℕ) :
    (putAlarm s e room).mode = s.mode ∧ (putAlarm s e room).start = s.start ∧ (putAlarm s e room).zewen = s.zewen ∧ (putAlarm s e room).writes = s.writes ∧ (putAlarm s e room).image = s.image ∧ (putAlarm s e room).reg = s.reg ∧ (putAlarm s e room).objs = s.objs ∧ (putAlarm s e room).herd = s.herd ∧ (putAlarm s e room).aon = s.aon ∧ (putAlarm s e room).net = s.net ∧ (putAlarm s e room).plan = s.plan ∧ (putAlarm s e room).solver = s.solver ∧ (putAlarm s e room).piste = s.piste ∧ (putAlarm s e room).prof = s.prof ∧ (putAlarm s e room).ctl = s.ctl ∧ (putAlarm s e room).sched = s.sched ∧ (putAlarm s e room).dsp = s.dsp ∧ (putAlarm s e room).sep = s.sep ∧ (putAlarm s e room).safety = s.safety ∧ (putAlarm s e room).cham = s.cham ∧ (putAlarm s e room).field = s.field ∧ (putAlarm s e room).acq = s.acq ∧ (putAlarm s e room).clocks = s.clocks ∧ (putAlarm s e room).power = s.power ∧ (putAlarm s e room).pair = s.pair ∧ (putAlarm s e room).sec = s.sec ∧ (putAlarm s e room).hw = s.hw ∧ (putAlarm s e room).nor = s.nor ∧ (putAlarm s e room).freeCount = s.freeCount := by
  have fr1 := @withLogs_frame
  unfold putAlarm
  simp [fr1]

theorem addAlarm_frame (s : State) (e : LogEntry) :
    (addAlarm s e).mode = s.mode ∧ (addAlarm s e).start = s.start ∧ (addAlarm s e).zewen = s.zewen ∧ (addAlarm s e).writes = s.writes ∧ (addAlarm s e).image = s.image ∧ (addAlarm s e).reg = s.reg ∧ (addAlarm s e).herd = s.herd ∧ (addAlarm s e).aon = s.aon ∧ (addAlarm s e).net = s.net ∧ (addAlarm s e).plan = s.plan ∧ (addAlarm s e).solver = s.solver ∧ (addAlarm s e).piste = s.piste ∧ (addAlarm s e).prof = s.prof ∧ (addAlarm s e).ctl = s.ctl ∧ (addAlarm s e).sched = s.sched ∧ (addAlarm s e).dsp = s.dsp ∧ (addAlarm s e).sep = s.sep ∧ (addAlarm s e).safety = s.safety ∧ (addAlarm s e).cham = s.cham ∧ (addAlarm s e).field = s.field ∧ (addAlarm s e).acq = s.acq ∧ (addAlarm s e).clocks = s.clocks ∧ (addAlarm s e).power = s.power ∧ (addAlarm s e).pair = s.pair ∧ (addAlarm s e).sec = s.sec ∧ (addAlarm s e).hw = s.hw ∧ (addAlarm s e).nor = s.nor := by
  have fr1 := @putAlarm_frame; have fr2 := @dropEvent_frame; have fr3 := @dropTrace_frame; have fr4 := @withLogs_frame
  unfold addAlarm
  simp [fr1, fr2, fr3, fr4]

theorem alarmTrigger_frame (s : State) :
    (alarmTrigger s).mode = s.mode ∧ (alarmTrigger s).start = s.start ∧ (alarmTrigger s).zewen = s.zewen ∧ (alarmTrigger s).writes = s.writes ∧ (alarmTrigger s).image = s.image ∧ (alarmTrigger s).reg = s.reg ∧ (alarmTrigger s).objs = s.objs ∧ (alarmTrigger s).herd = s.herd ∧ (alarmTrigger s).aon = s.aon ∧ (alarmTrigger s).net = s.net ∧ (alarmTrigger s).plan = s.plan ∧ (alarmTrigger s).solver = s.solver ∧ (alarmTrigger s).piste = s.piste ∧ (alarmTrigger s).prof = s.prof ∧ (alarmTrigger s).ctl = s.ctl ∧ (alarmTrigger s).sched = s.sched ∧ (alarmTrigger s).dsp = s.dsp ∧ (alarmTrigger s).sep = s.sep ∧ (alarmTrigger s).safety = s.safety ∧ (alarmTrigger s).cham = s.cham ∧ (alarmTrigger s).field = s.field ∧ (alarmTrigger s).logs = s.logs ∧ (alarmTrigger s).clocks = s.clocks ∧ (alarmTrigger s).power = s.power ∧ (alarmTrigger s).pair = s.pair ∧ (alarmTrigger s).sec = s.sec ∧ (alarmTrigger s).hw = s.hw ∧ (alarmTrigger s).nor = s.nor ∧ (alarmTrigger s).freeCount = s.freeCount := by
  unfold alarmTrigger
  simp

theorem log_frame (s : State) (cls : LogClass) (code : ℕ) (arg : ℕ) (word : Word) (reason : ℕ) :
    (log s cls code arg word reason).mode = s.mode ∧ (log s cls code arg word reason).start = s.start ∧ (log s cls code arg word reason).writes = s.writes ∧ (log s cls code arg word reason).image = s.image ∧ (log s cls code arg word reason).herd = s.herd ∧ (log s cls code arg word reason).aon = s.aon ∧ (log s cls code arg word reason).net = s.net ∧ (log s cls code arg word reason).plan = s.plan ∧ (log s cls code arg word reason).solver = s.solver ∧ (log s cls code arg word reason).piste = s.piste ∧ (log s cls code arg word reason).prof = s.prof ∧ (log s cls code arg word reason).ctl = s.ctl ∧ (log s cls code arg word reason).sched = s.sched ∧ (log s cls code arg word reason).dsp = s.dsp ∧ (log s cls code arg word reason).sep = s.sep ∧ (log s cls code arg word reason).safety = s.safety ∧ (log s cls code arg word reason).cham = s.cham ∧ (log s cls code arg word reason).field = s.field ∧ (log s cls code arg word reason).clocks = s.clocks ∧ (log s cls code arg word reason).power = s.power ∧ (log s cls code arg word reason).pair = s.pair ∧ (log s cls code arg word reason).sec = s.sec ∧ (log s cls code arg word reason).hw = s.hw ∧ (log s cls code arg word reason).nor = s.nor := by
  have fr1 := @withLogs_frame; have fr2 := @addAlarm_frame; have fr3 := @alarmTrigger_frame; have fr4 := @setInt_frame; have fr5 := @addEvent_frame; have fr6 := @addTrace_frame
  unfold log
  split <;> simp [fr1, fr2, fr3, fr4, fr5, fr6]

theorem trace_frame (s : State) (maskBit : ℕ) (code : ℕ) (arg : ℕ) (word : ℕ) (reason : ℕ) :
    (trace s maskBit code arg word reason).mode = s.mode ∧ (trace s maskBit code arg word reason).start = s.start ∧ (trace s maskBit code arg word reason).writes = s.writes ∧ (trace s maskBit code arg word reason).image = s.image ∧ (trace s maskBit code arg word reason).herd = s.herd ∧ (trace s maskBit code arg word reason).aon = s.aon ∧ (trace s maskBit code arg word reason).net = s.net ∧ (trace s maskBit code arg word reason).plan = s.plan ∧ (trace s maskBit code arg word reason).solver = s.solver ∧ (trace s maskBit code arg word reason).piste = s.piste ∧ (trace s maskBit code arg word reason).prof = s.prof ∧ (trace s maskBit code arg word reason).ctl = s.ctl ∧ (trace s maskBit code arg word reason).sched = s.sched ∧ (trace s maskBit code arg word reason).dsp = s.dsp ∧ (trace s maskBit code arg word reason).sep = s.sep ∧ (trace s maskBit code arg word reason).safety = s.safety ∧ (trace s maskBit code arg word reason).cham = s.cham ∧ (trace s maskBit code arg word reason).field = s.field ∧ (trace s maskBit code arg word reason).clocks = s.clocks ∧ (trace s maskBit code arg word reason).power = s.power ∧ (trace s maskBit code arg word reason).pair = s.pair ∧ (trace s maskBit code arg word reason).sec = s.sec ∧ (trace s maskBit code arg word reason).hw = s.hw ∧ (trace s maskBit code arg word reason).nor = s.nor := by
  have fr1 := @log_frame
  unfold trace
  simp [fr1]

theorem errorAs_frame (s : State) (w : Word) (code : ℕ) (arg : ℕ) (cls : LogClass) :
    (errorAs s w code arg cls).start = s.start ∧ (errorAs s w code arg cls).writes = s.writes ∧ (errorAs s w code arg cls).image = s.image ∧ (errorAs s w code arg cls).herd = s.herd ∧ (errorAs s w code arg cls).aon = s.aon ∧ (errorAs s w code arg cls).net = s.net ∧ (errorAs s w code arg cls).plan = s.plan ∧ (errorAs s w code arg cls).solver = s.solver ∧ (errorAs s w code arg cls).piste = s.piste ∧ (errorAs s w code arg cls).prof = s.prof ∧ (errorAs s w code arg cls).ctl = s.ctl ∧ (errorAs s w code arg cls).sched = s.sched ∧ (errorAs s w code arg cls).dsp = s.dsp ∧ (errorAs s w code arg cls).sep = s.sep ∧ (errorAs s w code arg cls).safety = s.safety ∧ (errorAs s w code arg cls).cham = s.cham ∧ (errorAs s w code arg cls).field = s.field ∧ (errorAs s w code arg cls).clocks = s.clocks ∧ (errorAs s w code arg cls).power = s.power ∧ (errorAs s w code arg cls).pair = s.pair ∧ (errorAs s w code arg cls).sec = s.sec ∧ (errorAs s w code arg cls).hw = s.hw ∧ (errorAs s w code arg cls).nor = s.nor := by
  have fr1 := @log_frame; have fr2 := @writeErr_frame
  unfold errorAs
  simp [fr1, fr2]

theorem error_frame (s : State) (w : Word) :
    (error s w).start = s.start ∧ (error s w).writes = s.writes ∧ (error s w).image = s.image ∧ (error s w).herd = s.herd ∧ (error s w).aon = s.aon ∧ (error s w).net = s.net ∧ (error s w).plan = s.plan ∧ (error s w).solver = s.solver ∧ (error s w).piste = s.piste ∧ (error s w).prof = s.prof ∧ (error s w).ctl = s.ctl ∧ (error s w).sched = s.sched ∧ (error s w).dsp = s.dsp ∧ (error s w).sep = s.sep ∧ (error s w).safety = s.safety ∧ (error s w).cham = s.cham ∧ (error s w).field = s.field ∧ (error s w).clocks = s.clocks ∧ (error s w).power = s.power ∧ (error s w).pair = s.pair ∧ (error s w).sec = s.sec ∧ (error s w).hw = s.hw ∧ (error s w).nor = s.nor := by
  have fr1 := @errorAs_frame
  unfold error
  simp [fr1]

theorem errors_frame (s : State) (ws : List Word) :
    (errors s ws).start = s.start ∧ (errors s ws).writes = s.writes ∧ (errors s ws).image = s.image ∧ (errors s ws).herd = s.herd ∧ (errors s ws).aon = s.aon ∧ (errors s ws).net = s.net ∧ (errors s ws).plan = s.plan ∧ (errors s ws).solver = s.solver ∧ (errors s ws).piste = s.piste ∧ (errors s ws).prof = s.prof ∧ (errors s ws).ctl = s.ctl ∧ (errors s ws).sched = s.sched ∧ (errors s ws).dsp = s.dsp ∧ (errors s ws).sep = s.sep ∧ (errors s ws).safety = s.safety ∧ (errors s ws).cham = s.cham ∧ (errors s ws).field = s.field ∧ (errors s ws).clocks = s.clocks ∧ (errors s ws).power = s.power ∧ (errors s ws).pair = s.pair ∧ (errors s ws).sec = s.sec ∧ (errors s ws).hw = s.hw ∧ (errors s ws).nor = s.nor := by
  have fr1 := @error_frame
  unfold errors
  simp [fr1]

theorem setMbx_frame (s : State) (m : ℕ) (f : Mailbox → Mailbox) :
    (setMbx s m f).mode = s.mode ∧ (setMbx s m f).start = s.start ∧ (setMbx s m f).writes = s.writes ∧ (setMbx s m f).image = s.image ∧ (setMbx s m f).reg = s.reg ∧ (setMbx s m f).objs = s.objs ∧ (setMbx s m f).herd = s.herd ∧ (setMbx s m f).aon = s.aon ∧ (setMbx s m f).net = s.net ∧ (setMbx s m f).plan = s.plan ∧ (setMbx s m f).solver = s.solver ∧ (setMbx s m f).piste = s.piste ∧ (setMbx s m f).prof = s.prof ∧ (setMbx s m f).ctl = s.ctl ∧ (setMbx s m f).sched = s.sched ∧ (setMbx s m f).dsp = s.dsp ∧ (setMbx s m f).sep = s.sep ∧ (setMbx s m f).safety = s.safety ∧ (setMbx s m f).cham = s.cham ∧ (setMbx s m f).field = s.field ∧ (setMbx s m f).acq = s.acq ∧ (setMbx s m f).logs = s.logs ∧ (setMbx s m f).clocks = s.clocks ∧ (setMbx s m f).power = s.power ∧ (setMbx s m f).pair = s.pair ∧ (setMbx s m f).sec = s.sec ∧ (setMbx s m f).hw = s.hw ∧ (setMbx s m f).nor = s.nor ∧ (setMbx s m f).freeCount = s.freeCount := by
  unfold setMbx
  simp

theorem sendCompletion_frame (s : State) (b : Mailbox) (c : Completion) :
    (sendCompletion s b c).mode = s.mode ∧ (sendCompletion s b c).start = s.start ∧ (sendCompletion s b c).zewen = s.zewen ∧ (sendCompletion s b c).writes = s.writes ∧ (sendCompletion s b c).image = s.image ∧ (sendCompletion s b c).reg = s.reg ∧ (sendCompletion s b c).objs = s.objs ∧ (sendCompletion s b c).herd = s.herd ∧ (sendCompletion s b c).aon = s.aon ∧ (sendCompletion s b c).net = s.net ∧ (sendCompletion s b c).plan = s.plan ∧ (sendCompletion s b c).solver = s.solver ∧ (sendCompletion s b c).piste = s.piste ∧ (sendCompletion s b c).prof = s.prof ∧ (sendCompletion s b c).ctl = s.ctl ∧ (sendCompletion s b c).sched = s.sched ∧ (sendCompletion s b c).dsp = s.dsp ∧ (sendCompletion s b c).sep = s.sep ∧ (sendCompletion s b c).safety = s.safety ∧ (sendCompletion s b c).cham = s.cham ∧ (sendCompletion s b c).field = s.field ∧ (sendCompletion s b c).acq = s.acq ∧ (sendCompletion s b c).logs = s.logs ∧ (sendCompletion s b c).clocks = s.clocks ∧ (sendCompletion s b c).power = s.power ∧ (sendCompletion s b c).pair = s.pair ∧ (sendCompletion s b c).sec = s.sec ∧ (sendCompletion s b c).hw = s.hw ∧ (sendCompletion s b c).nor = s.nor ∧ (sendCompletion s b c).freeCount = s.freeCount := by
  have fr1 := @emit_frame
  unfold sendCompletion
  split <;> simp [fr1]

theorem complete_frame (s : State) (o : Origin) (status : ℕ) (result : Bytes) :
    (complete s o status result).mode = s.mode ∧ (complete s o status result).start = s.start ∧ (complete s o status result).writes = s.writes ∧ (complete s o status result).image = s.image ∧ (complete s o status result).herd = s.herd ∧ (complete s o status result).aon = s.aon ∧ (complete s o status result).net = s.net ∧ (complete s o status result).plan = s.plan ∧ (complete s o status result).solver = s.solver ∧ (complete s o status result).piste = s.piste ∧ (complete s o status result).prof = s.prof ∧ (complete s o status result).ctl = s.ctl ∧ (complete s o status result).sched = s.sched ∧ (complete s o status result).dsp = s.dsp ∧ (complete s o status result).sep = s.sep ∧ (complete s o status result).safety = s.safety ∧ (complete s o status result).cham = s.cham ∧ (complete s o status result).field = s.field ∧ (complete s o status result).clocks = s.clocks ∧ (complete s o status result).power = s.power ∧ (complete s o status result).pair = s.pair ∧ (complete s o status result).sec = s.sec ∧ (complete s o status result).hw = s.hw ∧ (complete s o status result).nor = s.nor := by
  have fr1 := @setMbx_frame; have fr2 := @sendCompletion_frame; have fr3 := @emit_frame; have fr4 := @trace_frame; have fr5 := @sendVector_frame
  unfold complete
  simp [fr1, fr2, fr3, fr4, fr5]

theorem completeAll_frame (s : State) (os : List Origin) (status : ℕ) :
    (completeAll s os status).mode = s.mode ∧ (completeAll s os status).start = s.start ∧ (completeAll s os status).writes = s.writes ∧ (completeAll s os status).image = s.image ∧ (completeAll s os status).herd = s.herd ∧ (completeAll s os status).aon = s.aon ∧ (completeAll s os status).net = s.net ∧ (completeAll s os status).plan = s.plan ∧ (completeAll s os status).solver = s.solver ∧ (completeAll s os status).piste = s.piste ∧ (completeAll s os status).prof = s.prof ∧ (completeAll s os status).ctl = s.ctl ∧ (completeAll s os status).sched = s.sched ∧ (completeAll s os status).dsp = s.dsp ∧ (completeAll s os status).sep = s.sep ∧ (completeAll s os status).safety = s.safety ∧ (completeAll s os status).cham = s.cham ∧ (completeAll s os status).field = s.field ∧ (completeAll s os status).clocks = s.clocks ∧ (completeAll s os status).power = s.power ∧ (completeAll s os status).pair = s.pair ∧ (completeAll s os status).sec = s.sec ∧ (completeAll s os status).hw = s.hw ∧ (completeAll s os status).nor = s.nor := by
  have fr1 := @complete_frame
  unfold completeAll
  simp [fr1]

theorem settleRuns_frame (s : State) :
    (settleRuns s).mode = s.mode ∧ (settleRuns s).start = s.start ∧ (settleRuns s).writes = s.writes ∧ (settleRuns s).image = s.image ∧ (settleRuns s).herd = s.herd ∧ (settleRuns s).aon = s.aon ∧ (settleRuns s).net = s.net ∧ (settleRuns s).plan = s.plan ∧ (settleRuns s).piste = s.piste ∧ (settleRuns s).prof = s.prof ∧ (settleRuns s).ctl = s.ctl ∧ (settleRuns s).sched = s.sched ∧ (settleRuns s).dsp = s.dsp ∧ (settleRuns s).sep = s.sep ∧ (settleRuns s).safety = s.safety ∧ (settleRuns s).cham = s.cham ∧ (settleRuns s).field = s.field ∧ (settleRuns s).clocks = s.clocks ∧ (settleRuns s).power = s.power ∧ (settleRuns s).pair = s.pair ∧ (settleRuns s).sec = s.sec ∧ (settleRuns s).hw = s.hw ∧ (settleRuns s).nor = s.nor := by
  have fr1 := @complete_frame
  unfold settleRuns
  simp [fr1]

/-! ### Session -/

theorem discard_frame (s : State) (m : ℕ) :
    (discard s m).mode = s.mode ∧ (discard s m).start = s.start ∧ (discard s m).writes = s.writes ∧ (discard s m).image = s.image ∧ (discard s m).reg = s.reg ∧ (discard s m).objs = s.objs ∧ (discard s m).herd = s.herd ∧ (discard s m).aon = s.aon ∧ (discard s m).net = s.net ∧ (discard s m).plan = s.plan ∧ (discard s m).solver = s.solver ∧ (discard s m).piste = s.piste ∧ (discard s m).prof = s.prof ∧ (discard s m).ctl = s.ctl ∧ (discard s m).sched = s.sched ∧ (discard s m).dsp = s.dsp ∧ (discard s m).sep = s.sep ∧ (discard s m).safety = s.safety ∧ (discard s m).cham = s.cham ∧ (discard s m).field = s.field ∧ (discard s m).acq = s.acq ∧ (discard s m).logs = s.logs ∧ (discard s m).clocks = s.clocks ∧ (discard s m).power = s.power ∧ (discard s m).pair = s.pair ∧ (discard s m).sec = s.sec ∧ (discard s m).hw = s.hw ∧ (discard s m).nor = s.nor ∧ (discard s m).freeCount = s.freeCount := by
  have fr1 := @setMbx_frame
  unfold discard
  simp [fr1]

theorem consumeEntry_frame (s : State) (e : Entry) :
    (consumeEntry s e).mode = s.mode ∧ (consumeEntry s e).start = s.start ∧ (consumeEntry s e).writes = s.writes ∧ (consumeEntry s e).image = s.image ∧ (consumeEntry s e).reg = s.reg ∧ (consumeEntry s e).objs = s.objs ∧ (consumeEntry s e).herd = s.herd ∧ (consumeEntry s e).aon = s.aon ∧ (consumeEntry s e).net = s.net ∧ (consumeEntry s e).plan = s.plan ∧ (consumeEntry s e).solver = s.solver ∧ (consumeEntry s e).piste = s.piste ∧ (consumeEntry s e).prof = s.prof ∧ (consumeEntry s e).ctl = s.ctl ∧ (consumeEntry s e).sched = s.sched ∧ (consumeEntry s e).dsp = s.dsp ∧ (consumeEntry s e).sep = s.sep ∧ (consumeEntry s e).safety = s.safety ∧ (consumeEntry s e).cham = s.cham ∧ (consumeEntry s e).field = s.field ∧ (consumeEntry s e).acq = s.acq ∧ (consumeEntry s e).logs = s.logs ∧ (consumeEntry s e).clocks = s.clocks ∧ (consumeEntry s e).power = s.power ∧ (consumeEntry s e).pair = s.pair ∧ (consumeEntry s e).sec = s.sec ∧ (consumeEntry s e).hw = s.hw ∧ (consumeEntry s e).nor = s.nor ∧ (consumeEntry s e).freeCount = s.freeCount := by
  have fr1 := @setMbx_frame
  unfold consumeEntry
  simp [fr1]

theorem dropEntry_frame (s : State) (m : ℕ) (counter : Option ℕ) :
    (dropEntry s m counter).mode = s.mode ∧ (dropEntry s m counter).start = s.start ∧ (dropEntry s m counter).writes = s.writes ∧ (dropEntry s m counter).image = s.image ∧ (dropEntry s m counter).reg = s.reg ∧ (dropEntry s m counter).herd = s.herd ∧ (dropEntry s m counter).aon = s.aon ∧ (dropEntry s m counter).net = s.net ∧ (dropEntry s m counter).plan = s.plan ∧ (dropEntry s m counter).solver = s.solver ∧ (dropEntry s m counter).piste = s.piste ∧ (dropEntry s m counter).prof = s.prof ∧ (dropEntry s m counter).ctl = s.ctl ∧ (dropEntry s m counter).sched = s.sched ∧ (dropEntry s m counter).dsp = s.dsp ∧ (dropEntry s m counter).sep = s.sep ∧ (dropEntry s m counter).safety = s.safety ∧ (dropEntry s m counter).cham = s.cham ∧ (dropEntry s m counter).field = s.field ∧ (dropEntry s m counter).acq = s.acq ∧ (dropEntry s m counter).logs = s.logs ∧ (dropEntry s m counter).clocks = s.clocks ∧ (dropEntry s m counter).power = s.power ∧ (dropEntry s m counter).pair = s.pair ∧ (dropEntry s m counter).sec = s.sec ∧ (dropEntry s m counter).hw = s.hw ∧ (dropEntry s m counter).nor = s.nor := by
  have fr1 := @discard_frame; have fr2 := @bump_frame
  unfold dropEntry
  split <;> simp [fr1, fr2]

theorem leaveFlight_frame (s : State) (e : Entry) :
    (leaveFlight s e).mode = s.mode ∧ (leaveFlight s e).start = s.start ∧ (leaveFlight s e).writes = s.writes ∧ (leaveFlight s e).image = s.image ∧ (leaveFlight s e).reg = s.reg ∧ (leaveFlight s e).objs = s.objs ∧ (leaveFlight s e).herd = s.herd ∧ (leaveFlight s e).aon = s.aon ∧ (leaveFlight s e).net = s.net ∧ (leaveFlight s e).plan = s.plan ∧ (leaveFlight s e).solver = s.solver ∧ (leaveFlight s e).piste = s.piste ∧ (leaveFlight s e).prof = s.prof ∧ (leaveFlight s e).ctl = s.ctl ∧ (leaveFlight s e).sched = s.sched ∧ (leaveFlight s e).dsp = s.dsp ∧ (leaveFlight s e).sep = s.sep ∧ (leaveFlight s e).safety = s.safety ∧ (leaveFlight s e).cham = s.cham ∧ (leaveFlight s e).field = s.field ∧ (leaveFlight s e).acq = s.acq ∧ (leaveFlight s e).logs = s.logs ∧ (leaveFlight s e).clocks = s.clocks ∧ (leaveFlight s e).power = s.power ∧ (leaveFlight s e).pair = s.pair ∧ (leaveFlight s e).sec = s.sec ∧ (leaveFlight s e).hw = s.hw ∧ (leaveFlight s e).nor = s.nor ∧ (leaveFlight s e).freeCount = s.freeCount := by
  have fr1 := @setMbx_frame
  unfold leaveFlight
  simp [fr1]

theorem enterFlight_frame (s : State) (via : Transport) (e : Entry) :
    (enterFlight s via e).mode = s.mode ∧ (enterFlight s via e).start = s.start ∧ (enterFlight s via e).writes = s.writes ∧ (enterFlight s via e).image = s.image ∧ (enterFlight s via e).reg = s.reg ∧ (enterFlight s via e).objs = s.objs ∧ (enterFlight s via e).herd = s.herd ∧ (enterFlight s via e).aon = s.aon ∧ (enterFlight s via e).net = s.net ∧ (enterFlight s via e).plan = s.plan ∧ (enterFlight s via e).solver = s.solver ∧ (enterFlight s via e).piste = s.piste ∧ (enterFlight s via e).prof = s.prof ∧ (enterFlight s via e).ctl = s.ctl ∧ (enterFlight s via e).sched = s.sched ∧ (enterFlight s via e).dsp = s.dsp ∧ (enterFlight s via e).sep = s.sep ∧ (enterFlight s via e).safety = s.safety ∧ (enterFlight s via e).cham = s.cham ∧ (enterFlight s via e).field = s.field ∧ (enterFlight s via e).acq = s.acq ∧ (enterFlight s via e).logs = s.logs ∧ (enterFlight s via e).clocks = s.clocks ∧ (enterFlight s via e).power = s.power ∧ (enterFlight s via e).pair = s.pair ∧ (enterFlight s via e).sec = s.sec ∧ (enterFlight s via e).hw = s.hw ∧ (enterFlight s via e).nor = s.nor ∧ (enterFlight s via e).freeCount = s.freeCount := by
  have fr1 := @setMbx_frame
  unfold enterFlight
  simp [fr1]

theorem command_frame (c : CmdSpec) (priv : Entry → Bool) (lenOk : Entry → Bool) (body : Entry → Transport → State → State) (clk : ℕ) (e0 : Entry) (s0 : State)
    (h : ∀ e v s, (body e v s).mode = s.mode ∧ (body e v s).start = s.start ∧ (body e v s).writes = s.writes ∧ (body e v s).image = s.image ∧ (body e v s).net = s.net ∧ (body e v s).plan = s.plan ∧ (body e v s).solver = s.solver ∧ (body e v s).piste = s.piste ∧ (body e v s).prof = s.prof ∧ (body e v s).ctl = s.ctl ∧ (body e v s).sched = s.sched ∧ (body e v s).dsp = s.dsp ∧ (body e v s).sep = s.sep ∧ (body e v s).safety = s.safety ∧ (body e v s).cham = s.cham ∧ (body e v s).field = s.field ∧ (body e v s).clocks = s.clocks ∧ (body e v s).power = s.power ∧ (body e v s).pair = s.pair ∧ (body e v s).sec = s.sec ∧ (body e v s).hw = s.hw ∧ (body e v s).nor = s.nor) :
    (command c priv lenOk body clk e0 s0).mode = s0.mode ∧ (command c priv lenOk body clk e0 s0).start = s0.start ∧ (command c priv lenOk body clk e0 s0).writes = s0.writes ∧ (command c priv lenOk body clk e0 s0).image = s0.image ∧ (command c priv lenOk body clk e0 s0).net = s0.net ∧ (command c priv lenOk body clk e0 s0).plan = s0.plan ∧ (command c priv lenOk body clk e0 s0).solver = s0.solver ∧ (command c priv lenOk body clk e0 s0).piste = s0.piste ∧ (command c priv lenOk body clk e0 s0).prof = s0.prof ∧ (command c priv lenOk body clk e0 s0).ctl = s0.ctl ∧ (command c priv lenOk body clk e0 s0).sched = s0.sched ∧ (command c priv lenOk body clk e0 s0).dsp = s0.dsp ∧ (command c priv lenOk body clk e0 s0).sep = s0.sep ∧ (command c priv lenOk body clk e0 s0).safety = s0.safety ∧ (command c priv lenOk body clk e0 s0).cham = s0.cham ∧ (command c priv lenOk body clk e0 s0).field = s0.field ∧ (command c priv lenOk body clk e0 s0).clocks = s0.clocks ∧ (command c priv lenOk body clk e0 s0).power = s0.power ∧ (command c priv lenOk body clk e0 s0).pair = s0.pair ∧ (command c priv lenOk body clk e0 s0).sec = s0.sec ∧ (command c priv lenOk body clk e0 s0).hw = s0.hw ∧ (command c priv lenOk body clk e0 s0).nor = s0.nor := by
  have fr1 := @begin_frame; have fr2 := @dropEntry_frame; have fr3 := @leaveFlight_frame; have fr4 := @consumeEntry_frame; have fr5 := @enterFlight_frame; have fr6 := @complete_frame
  unfold command
  dsimp only
  repeat' split
  all_goals simp [h, fr1, fr2, fr3, fr4, fr5, fr6]

theorem answer_frame (s : State) (e : Entry) (status : ℕ) (result : Bytes) :
    (answer s e status result).mode = s.mode ∧ (answer s e status result).start = s.start ∧ (answer s e status result).writes = s.writes ∧ (answer s e status result).image = s.image ∧ (answer s e status result).herd = s.herd ∧ (answer s e status result).aon = s.aon ∧ (answer s e status result).net = s.net ∧ (answer s e status result).plan = s.plan ∧ (answer s e status result).solver = s.solver ∧ (answer s e status result).piste = s.piste ∧ (answer s e status result).prof = s.prof ∧ (answer s e status result).ctl = s.ctl ∧ (answer s e status result).sched = s.sched ∧ (answer s e status result).dsp = s.dsp ∧ (answer s e status result).sep = s.sep ∧ (answer s e status result).safety = s.safety ∧ (answer s e status result).cham = s.cham ∧ (answer s e status result).field = s.field ∧ (answer s e status result).clocks = s.clocks ∧ (answer s e status result).power = s.power ∧ (answer s e status result).pair = s.pair ∧ (answer s e status result).sec = s.sec ∧ (answer s e status result).hw = s.hw ∧ (answer s e status result).nor = s.nor := by
  have fr1 := @complete_frame
  unfold answer
  simp [fr1]

theorem withdraw_frame (s : State) (o : Origin) {t : State} (h : withdraw s o = some t) : (t).mode = s.mode ∧ (t).start = s.start ∧ (t).zewen = s.zewen ∧ (t).writes = s.writes ∧ (t).reg = s.reg ∧ (t).objs = s.objs ∧ (t).herd = s.herd ∧ (t).aon = s.aon ∧ (t).net = s.net ∧ (t).solver = s.solver ∧ (t).prof = s.prof ∧ (t).ctl = s.ctl ∧ (t).sched = s.sched ∧ (t).dsp = s.dsp ∧ (t).sep = s.sep ∧ (t).safety = s.safety ∧ (t).cham = s.cham ∧ (t).field = s.field ∧ (t).logs = s.logs ∧ (t).clocks = s.clocks ∧ (t).power = s.power ∧ (t).pair = s.pair ∧ (t).sec = s.sec ∧ (t).hw = s.hw ∧ (t).nor = s.nor ∧ (t).freeCount = s.freeCount := by
  unfold withdraw at h
  (repeat' split at h) <;> first | (simp at h; done) | (simp at h; subst h; simp)

theorem cancelAll_frame (s : State) (m : ℕ) :
    (cancelAll s m).mode = s.mode ∧ (cancelAll s m).start = s.start ∧ (cancelAll s m).writes = s.writes ∧ (cancelAll s m).herd = s.herd ∧ (cancelAll s m).aon = s.aon ∧ (cancelAll s m).net = s.net ∧ (cancelAll s m).solver = s.solver ∧ (cancelAll s m).prof = s.prof ∧ (cancelAll s m).ctl = s.ctl ∧ (cancelAll s m).sched = s.sched ∧ (cancelAll s m).dsp = s.dsp ∧ (cancelAll s m).sep = s.sep ∧ (cancelAll s m).safety = s.safety ∧ (cancelAll s m).cham = s.cham ∧ (cancelAll s m).field = s.field ∧ (cancelAll s m).clocks = s.clocks ∧ (cancelAll s m).power = s.power ∧ (cancelAll s m).pair = s.pair ∧ (cancelAll s m).sec = s.sec ∧ (cancelAll s m).hw = s.hw ∧ (cancelAll s m).nor = s.nor := by
  have fr1 := @completeAll_frame; have fr2 := @setMbx_frame; have fr3 := @complete_frame
  unfold cancelAll
  dsimp only
  have hf : ∀ (l : List Origin) (s : State), let u := l.foldl (fun s o => match withdraw s o with | some s' => complete s' o stCancelled | none => s) s
      (u).mode = s.mode ∧ (u).start = s.start ∧ (u).writes = s.writes ∧ (u).herd = s.herd ∧ (u).aon = s.aon ∧ (u).net = s.net ∧ (u).solver = s.solver ∧ (u).prof = s.prof ∧ (u).ctl = s.ctl ∧ (u).sched = s.sched ∧ (u).dsp = s.dsp ∧ (u).sep = s.sep ∧ (u).safety = s.safety ∧ (u).cham = s.cham ∧ (u).field = s.field ∧ (u).clocks = s.clocks ∧ (u).power = s.power ∧ (u).pair = s.pair ∧ (u).sec = s.sec ∧ (u).hw = s.hw ∧ (u).nor = s.nor := by
    intro l
    induction l with
    | nil => intro s; simp
    | cons a l ih =>
      intro s
      have := ih (match withdraw s a with | some s' => complete s' a stCancelled | none => s)
      simp only [List.foldl_cons]
      cases hw : withdraw s a with
      | none => simp_all
      | some s' =>
        have hs := withdraw_frame s a hw
        simp_all
  have := hf (mbx s m).inFlight (completeAll (setMbx s m (fun b => { b with accepted := [] })) ((mbx s m).accepted.map (fun a => originOf a.2)) stCancelled)
  dsimp only at this
  simp only [fr1, fr2, fr3] at this
  exact this

theorem enterClosing_frame (s : State) (m : ℕ) (closer : Option Origin) :
    (enterClosing s m closer).mode = s.mode ∧ (enterClosing s m closer).start = s.start ∧ (enterClosing s m closer).writes = s.writes ∧ (enterClosing s m closer).herd = s.herd ∧ (enterClosing s m closer).aon = s.aon ∧ (enterClosing s m closer).net = s.net ∧ (enterClosing s m closer).solver = s.solver ∧ (enterClosing s m closer).prof = s.prof ∧ (enterClosing s m closer).ctl = s.ctl ∧ (enterClosing s m closer).sched = s.sched ∧ (enterClosing s m closer).dsp = s.dsp ∧ (enterClosing s m closer).sep = s.sep ∧ (enterClosing s m closer).safety = s.safety ∧ (enterClosing s m closer).cham = s.cham ∧ (enterClosing s m closer).field = s.field ∧ (enterClosing s m closer).clocks = s.clocks ∧ (enterClosing s m closer).power = s.power ∧ (enterClosing s m closer).pair = s.pair ∧ (enterClosing s m closer).hw = s.hw ∧ (enterClosing s m closer).nor = s.nor := by
  have fr1 := @cancelAll_frame; have fr2 := @setMbx_frame
  unfold enterClosing
  simp [fr1, fr2]

theorem closePcie_frame (s : State) :
    (closePcie s).mode = s.mode ∧ (closePcie s).start = s.start ∧ (closePcie s).writes = s.writes ∧ (closePcie s).herd = s.herd ∧ (closePcie s).aon = s.aon ∧ (closePcie s).net = s.net ∧ (closePcie s).solver = s.solver ∧ (closePcie s).prof = s.prof ∧ (closePcie s).ctl = s.ctl ∧ (closePcie s).sched = s.sched ∧ (closePcie s).dsp = s.dsp ∧ (closePcie s).sep = s.sep ∧ (closePcie s).safety = s.safety ∧ (closePcie s).cham = s.cham ∧ (closePcie s).field = s.field ∧ (closePcie s).clocks = s.clocks ∧ (closePcie s).power = s.power ∧ (closePcie s).pair = s.pair ∧ (closePcie s).hw = s.hw ∧ (closePcie s).nor = s.nor := by
  have fr1 := @enterClosing_frame
  unfold closePcie
  simp [fr1]

theorem openSession_frame (e : Entry) (via : Transport) (s : State) :
    (openSession e via s).mode = s.mode ∧ (openSession e via s).start = s.start ∧ (openSession e via s).writes = s.writes ∧ (openSession e via s).image = s.image ∧ (openSession e via s).herd = s.herd ∧ (openSession e via s).net = s.net ∧ (openSession e via s).plan = s.plan ∧ (openSession e via s).solver = s.solver ∧ (openSession e via s).piste = s.piste ∧ (openSession e via s).prof = s.prof ∧ (openSession e via s).ctl = s.ctl ∧ (openSession e via s).sched = s.sched ∧ (openSession e via s).dsp = s.dsp ∧ (openSession e via s).sep = s.sep ∧ (openSession e via s).safety = s.safety ∧ (openSession e via s).cham = s.cham ∧ (openSession e via s).field = s.field ∧ (openSession e via s).clocks = s.clocks ∧ (openSession e via s).power = s.power ∧ (openSession e via s).pair = s.pair ∧ (openSession e via s).sec = s.sec ∧ (openSession e via s).hw = s.hw ∧ (openSession e via s).nor = s.nor := by
  have fr1 := @complete_frame; have fr2 := @setMbx_frame
  unfold openSession
  simp [fr1, fr2]

theorem newEpoch_frame (e : Entry) (x1 : Transport) (s : State) :
    (newEpoch e x1 s).mode = s.mode ∧ (newEpoch e x1 s).start = s.start ∧ (newEpoch e x1 s).writes = s.writes ∧ (newEpoch e x1 s).image = s.image ∧ (newEpoch e x1 s).herd = s.herd ∧ (newEpoch e x1 s).net = s.net ∧ (newEpoch e x1 s).plan = s.plan ∧ (newEpoch e x1 s).solver = s.solver ∧ (newEpoch e x1 s).piste = s.piste ∧ (newEpoch e x1 s).prof = s.prof ∧ (newEpoch e x1 s).ctl = s.ctl ∧ (newEpoch e x1 s).sched = s.sched ∧ (newEpoch e x1 s).dsp = s.dsp ∧ (newEpoch e x1 s).sep = s.sep ∧ (newEpoch e x1 s).safety = s.safety ∧ (newEpoch e x1 s).cham = s.cham ∧ (newEpoch e x1 s).field = s.field ∧ (newEpoch e x1 s).clocks = s.clocks ∧ (newEpoch e x1 s).power = s.power ∧ (newEpoch e x1 s).pair = s.pair ∧ (newEpoch e x1 s).sec = s.sec ∧ (newEpoch e x1 s).hw = s.hw ∧ (newEpoch e x1 s).nor = s.nor := by
  have fr1 := @complete_frame; have fr2 := @setMbx_frame
  unfold newEpoch
  simp [fr1, fr2]

theorem challenge_frame (e : Entry) (x1 : Transport) (s : State) :
    (challenge e x1 s).mode = s.mode ∧ (challenge e x1 s).start = s.start ∧ (challenge e x1 s).writes = s.writes ∧ (challenge e x1 s).image = s.image ∧ (challenge e x1 s).herd = s.herd ∧ (challenge e x1 s).aon = s.aon ∧ (challenge e x1 s).net = s.net ∧ (challenge e x1 s).plan = s.plan ∧ (challenge e x1 s).solver = s.solver ∧ (challenge e x1 s).piste = s.piste ∧ (challenge e x1 s).prof = s.prof ∧ (challenge e x1 s).ctl = s.ctl ∧ (challenge e x1 s).sched = s.sched ∧ (challenge e x1 s).dsp = s.dsp ∧ (challenge e x1 s).sep = s.sep ∧ (challenge e x1 s).safety = s.safety ∧ (challenge e x1 s).cham = s.cham ∧ (challenge e x1 s).field = s.field ∧ (challenge e x1 s).clocks = s.clocks ∧ (challenge e x1 s).power = s.power ∧ (challenge e x1 s).pair = s.pair ∧ (challenge e x1 s).sec = s.sec ∧ (challenge e x1 s).hw = s.hw ∧ (challenge e x1 s).nor = s.nor := by
  have fr1 := @complete_frame; have fr2 := @setMbx_frame
  unfold challenge
  simp [fr1, fr2]

theorem unlock_frame (e : Entry) (x1 : Transport) (s : State) :
    (unlock e x1 s).mode = s.mode ∧ (unlock e x1 s).start = s.start ∧ (unlock e x1 s).writes = s.writes ∧ (unlock e x1 s).image = s.image ∧ (unlock e x1 s).herd = s.herd ∧ (unlock e x1 s).aon = s.aon ∧ (unlock e x1 s).net = s.net ∧ (unlock e x1 s).plan = s.plan ∧ (unlock e x1 s).solver = s.solver ∧ (unlock e x1 s).piste = s.piste ∧ (unlock e x1 s).prof = s.prof ∧ (unlock e x1 s).ctl = s.ctl ∧ (unlock e x1 s).sched = s.sched ∧ (unlock e x1 s).dsp = s.dsp ∧ (unlock e x1 s).sep = s.sep ∧ (unlock e x1 s).safety = s.safety ∧ (unlock e x1 s).cham = s.cham ∧ (unlock e x1 s).field = s.field ∧ (unlock e x1 s).clocks = s.clocks ∧ (unlock e x1 s).power = s.power ∧ (unlock e x1 s).pair = s.pair ∧ (unlock e x1 s).sec = s.sec ∧ (unlock e x1 s).hw = s.hw ∧ (unlock e x1 s).nor = s.nor := by
  have fr1 := @complete_frame; have fr2 := @setMbx_frame; have fr3 := @bump_frame
  unfold unlock
  dsimp only
  split <;> simp [fr1, fr2, fr3]

theorem cancel_frame (e : Entry) (x1 : Transport) (s : State) :
    (cancel e x1 s).mode = s.mode ∧ (cancel e x1 s).start = s.start ∧ (cancel e x1 s).writes = s.writes ∧ (cancel e x1 s).herd = s.herd ∧ (cancel e x1 s).aon = s.aon ∧ (cancel e x1 s).net = s.net ∧ (cancel e x1 s).solver = s.solver ∧ (cancel e x1 s).prof = s.prof ∧ (cancel e x1 s).ctl = s.ctl ∧ (cancel e x1 s).sched = s.sched ∧ (cancel e x1 s).dsp = s.dsp ∧ (cancel e x1 s).sep = s.sep ∧ (cancel e x1 s).safety = s.safety ∧ (cancel e x1 s).cham = s.cham ∧ (cancel e x1 s).field = s.field ∧ (cancel e x1 s).clocks = s.clocks ∧ (cancel e x1 s).power = s.power ∧ (cancel e x1 s).pair = s.pair ∧ (cancel e x1 s).sec = s.sec ∧ (cancel e x1 s).hw = s.hw ∧ (cancel e x1 s).nor = s.nor := by
  have fr1 := @complete_frame; have fr2 := @setMbx_frame
  unfold cancel
  dsimp only
  split
  · simp [fr1, fr2]
  · split
    · simp [fr1, fr2]
    · split
      · simp [fr1, fr2]
      · split
        · rename_i hw
          have hs := withdraw_frame _ _ hw
          simp_all
        · simp [fr1, fr2]

theorem doorbellError_frame (s : State) (m : ℕ) :
    (doorbellError s m).mode = s.mode ∧ (doorbellError s m).start = s.start ∧ (doorbellError s m).writes = s.writes ∧ (doorbellError s m).image = s.image ∧ (doorbellError s m).reg = s.reg ∧ (doorbellError s m).objs = s.objs ∧ (doorbellError s m).herd = s.herd ∧ (doorbellError s m).aon = s.aon ∧ (doorbellError s m).net = s.net ∧ (doorbellError s m).plan = s.plan ∧ (doorbellError s m).solver = s.solver ∧ (doorbellError s m).piste = s.piste ∧ (doorbellError s m).prof = s.prof ∧ (doorbellError s m).ctl = s.ctl ∧ (doorbellError s m).sched = s.sched ∧ (doorbellError s m).dsp = s.dsp ∧ (doorbellError s m).sep = s.sep ∧ (doorbellError s m).safety = s.safety ∧ (doorbellError s m).cham = s.cham ∧ (doorbellError s m).field = s.field ∧ (doorbellError s m).acq = s.acq ∧ (doorbellError s m).logs = s.logs ∧ (doorbellError s m).clocks = s.clocks ∧ (doorbellError s m).power = s.power ∧ (doorbellError s m).pair = s.pair ∧ (doorbellError s m).sec = s.sec ∧ (doorbellError s m).hw = s.hw ∧ (doorbellError s m).nor = s.nor ∧ (doorbellError s m).freeCount = s.freeCount := by
  have fr1 := @withFresh_frame; have fr2 := @setMbx_frame
  unfold doorbellError
  simp [fr1, fr2]

theorem writeCmdTail_frame (s : State) (mailbox : ℕ) (value : ℕ) :
    (writeCmdTail s mailbox value).mode = s.mode ∧ (writeCmdTail s mailbox value).start = s.start ∧ (writeCmdTail s mailbox value).writes = s.writes ∧ (writeCmdTail s mailbox value).image = s.image ∧ (writeCmdTail s mailbox value).reg = s.reg ∧ (writeCmdTail s mailbox value).objs = s.objs ∧ (writeCmdTail s mailbox value).herd = s.herd ∧ (writeCmdTail s mailbox value).aon = s.aon ∧ (writeCmdTail s mailbox value).net = s.net ∧ (writeCmdTail s mailbox value).plan = s.plan ∧ (writeCmdTail s mailbox value).solver = s.solver ∧ (writeCmdTail s mailbox value).piste = s.piste ∧ (writeCmdTail s mailbox value).prof = s.prof ∧ (writeCmdTail s mailbox value).ctl = s.ctl ∧ (writeCmdTail s mailbox value).sched = s.sched ∧ (writeCmdTail s mailbox value).dsp = s.dsp ∧ (writeCmdTail s mailbox value).sep = s.sep ∧ (writeCmdTail s mailbox value).safety = s.safety ∧ (writeCmdTail s mailbox value).cham = s.cham ∧ (writeCmdTail s mailbox value).field = s.field ∧ (writeCmdTail s mailbox value).acq = s.acq ∧ (writeCmdTail s mailbox value).logs = s.logs ∧ (writeCmdTail s mailbox value).clocks = s.clocks ∧ (writeCmdTail s mailbox value).power = s.power ∧ (writeCmdTail s mailbox value).pair = s.pair ∧ (writeCmdTail s mailbox value).sec = s.sec ∧ (writeCmdTail s mailbox value).hw = s.hw ∧ (writeCmdTail s mailbox value).nor = s.nor ∧ (writeCmdTail s mailbox value).freeCount = s.freeCount := by
  have fr1 := @setMbx_frame; have fr2 := @doorbellError_frame
  unfold writeCmdTail
  simp [fr1, fr2]

theorem writeCplHead_frame (s : State) (mailbox : ℕ) (value : ℕ) :
    (writeCplHead s mailbox value).mode = s.mode ∧ (writeCplHead s mailbox value).start = s.start ∧ (writeCplHead s mailbox value).writes = s.writes ∧ (writeCplHead s mailbox value).image = s.image ∧ (writeCplHead s mailbox value).reg = s.reg ∧ (writeCplHead s mailbox value).objs = s.objs ∧ (writeCplHead s mailbox value).herd = s.herd ∧ (writeCplHead s mailbox value).aon = s.aon ∧ (writeCplHead s mailbox value).net = s.net ∧ (writeCplHead s mailbox value).plan = s.plan ∧ (writeCplHead s mailbox value).solver = s.solver ∧ (writeCplHead s mailbox value).piste = s.piste ∧ (writeCplHead s mailbox value).prof = s.prof ∧ (writeCplHead s mailbox value).ctl = s.ctl ∧ (writeCplHead s mailbox value).sched = s.sched ∧ (writeCplHead s mailbox value).dsp = s.dsp ∧ (writeCplHead s mailbox value).sep = s.sep ∧ (writeCplHead s mailbox value).safety = s.safety ∧ (writeCplHead s mailbox value).cham = s.cham ∧ (writeCplHead s mailbox value).field = s.field ∧ (writeCplHead s mailbox value).acq = s.acq ∧ (writeCplHead s mailbox value).logs = s.logs ∧ (writeCplHead s mailbox value).clocks = s.clocks ∧ (writeCplHead s mailbox value).power = s.power ∧ (writeCplHead s mailbox value).pair = s.pair ∧ (writeCplHead s mailbox value).sec = s.sec ∧ (writeCplHead s mailbox value).hw = s.hw ∧ (writeCplHead s mailbox value).nor = s.nor ∧ (writeCplHead s mailbox value).freeCount = s.freeCount := by
  have fr1 := @setMbx_frame; have fr2 := @doorbellError_frame
  unfold writeCplHead
  simp [fr1, fr2]

theorem datagramJudge_frame (s : State) (via : Transport) (e : Entry) :
    (datagramJudge s via e).mode = s.mode ∧ (datagramJudge s via e).start = s.start ∧ (datagramJudge s via e).writes = s.writes ∧ (datagramJudge s via e).image = s.image ∧ (datagramJudge s via e).reg = s.reg ∧ (datagramJudge s via e).herd = s.herd ∧ (datagramJudge s via e).aon = s.aon ∧ (datagramJudge s via e).net = s.net ∧ (datagramJudge s via e).plan = s.plan ∧ (datagramJudge s via e).solver = s.solver ∧ (datagramJudge s via e).piste = s.piste ∧ (datagramJudge s via e).prof = s.prof ∧ (datagramJudge s via e).ctl = s.ctl ∧ (datagramJudge s via e).sched = s.sched ∧ (datagramJudge s via e).dsp = s.dsp ∧ (datagramJudge s via e).sep = s.sep ∧ (datagramJudge s via e).safety = s.safety ∧ (datagramJudge s via e).cham = s.cham ∧ (datagramJudge s via e).field = s.field ∧ (datagramJudge s via e).acq = s.acq ∧ (datagramJudge s via e).logs = s.logs ∧ (datagramJudge s via e).clocks = s.clocks ∧ (datagramJudge s via e).power = s.power ∧ (datagramJudge s via e).pair = s.pair ∧ (datagramJudge s via e).sec = s.sec ∧ (datagramJudge s via e).hw = s.hw ∧ (datagramJudge s via e).nor = s.nor := by
  have fr1 := @setMbx_frame; have fr2 := @bump_frame; have fr3 := @discard_frame; have fr4 := @sendCompletion_frame; have fr5 := @emit_frame
  unfold datagramJudge
  dsimp only
  (repeat' split) <;> simp [fr1, fr2, fr3, fr4, fr5]

theorem datagramRx_frame (s : State) (port : ℕ) (addr : ℕ) (udpPort : ℕ) (fragmented : Bool) (d : Bytes) :
    (datagramRx s port addr udpPort fragmented d).mode = s.mode ∧ (datagramRx s port addr udpPort fragmented d).start = s.start ∧ (datagramRx s port addr udpPort fragmented d).writes = s.writes ∧ (datagramRx s port addr udpPort fragmented d).image = s.image ∧ (datagramRx s port addr udpPort fragmented d).reg = s.reg ∧ (datagramRx s port addr udpPort fragmented d).herd = s.herd ∧ (datagramRx s port addr udpPort fragmented d).aon = s.aon ∧ (datagramRx s port addr udpPort fragmented d).net = s.net ∧ (datagramRx s port addr udpPort fragmented d).plan = s.plan ∧ (datagramRx s port addr udpPort fragmented d).solver = s.solver ∧ (datagramRx s port addr udpPort fragmented d).piste = s.piste ∧ (datagramRx s port addr udpPort fragmented d).prof = s.prof ∧ (datagramRx s port addr udpPort fragmented d).ctl = s.ctl ∧ (datagramRx s port addr udpPort fragmented d).sched = s.sched ∧ (datagramRx s port addr udpPort fragmented d).dsp = s.dsp ∧ (datagramRx s port addr udpPort fragmented d).sep = s.sep ∧ (datagramRx s port addr udpPort fragmented d).safety = s.safety ∧ (datagramRx s port addr udpPort fragmented d).cham = s.cham ∧ (datagramRx s port addr udpPort fragmented d).field = s.field ∧ (datagramRx s port addr udpPort fragmented d).acq = s.acq ∧ (datagramRx s port addr udpPort fragmented d).logs = s.logs ∧ (datagramRx s port addr udpPort fragmented d).clocks = s.clocks ∧ (datagramRx s port addr udpPort fragmented d).power = s.power ∧ (datagramRx s port addr udpPort fragmented d).pair = s.pair ∧ (datagramRx s port addr udpPort fragmented d).sec = s.sec ∧ (datagramRx s port addr udpPort fragmented d).hw = s.hw ∧ (datagramRx s port addr udpPort fragmented d).nor = s.nor := by
  have fr1 := @bump_frame; have fr2 := @discard_frame; have fr3 := @setMbx_frame; have fr4 := @datagramJudge_frame
  unfold datagramRx
  simp [fr1, fr2, fr3, fr4]

theorem sessionDrained_frame (s : State) (m : ℕ) :
    (sessionDrained s m).mode = s.mode ∧ (sessionDrained s m).start = s.start ∧ (sessionDrained s m).writes = s.writes ∧ (sessionDrained s m).image = s.image ∧ (sessionDrained s m).herd = s.herd ∧ (sessionDrained s m).aon = s.aon ∧ (sessionDrained s m).net = s.net ∧ (sessionDrained s m).plan = s.plan ∧ (sessionDrained s m).solver = s.solver ∧ (sessionDrained s m).piste = s.piste ∧ (sessionDrained s m).prof = s.prof ∧ (sessionDrained s m).ctl = s.ctl ∧ (sessionDrained s m).sched = s.sched ∧ (sessionDrained s m).dsp = s.dsp ∧ (sessionDrained s m).sep = s.sep ∧ (sessionDrained s m).safety = s.safety ∧ (sessionDrained s m).cham = s.cham ∧ (sessionDrained s m).field = s.field ∧ (sessionDrained s m).clocks = s.clocks ∧ (sessionDrained s m).power = s.power ∧ (sessionDrained s m).pair = s.pair ∧ (sessionDrained s m).sec = s.sec ∧ (sessionDrained s m).hw = s.hw ∧ (sessionDrained s m).nor = s.nor := by
  have fr1 := @complete_frame; have fr2 := @setMbx_frame
  unfold sessionDrained
  dsimp only
  (repeat' split) <;> simp [fr1, fr2]

theorem pcieDown_frame (s : State) (flr : Bool) :
    (pcieDown s flr).mode = s.mode ∧ (pcieDown s flr).start = s.start ∧ (pcieDown s flr).writes = s.writes ∧ (pcieDown s flr).herd = s.herd ∧ (pcieDown s flr).aon = s.aon ∧ (pcieDown s flr).net = s.net ∧ (pcieDown s flr).solver = s.solver ∧ (pcieDown s flr).prof = s.prof ∧ (pcieDown s flr).ctl = s.ctl ∧ (pcieDown s flr).sched = s.sched ∧ (pcieDown s flr).dsp = s.dsp ∧ (pcieDown s flr).sep = s.sep ∧ (pcieDown s flr).safety = s.safety ∧ (pcieDown s flr).cham = s.cham ∧ (pcieDown s flr).field = s.field ∧ (pcieDown s flr).clocks = s.clocks ∧ (pcieDown s flr).power = s.power ∧ (pcieDown s flr).pair = s.pair ∧ (pcieDown s flr).hw = s.hw ∧ (pcieDown s flr).nor = s.nor := by
  have fr1 := @closePcie_frame; have fr2 := @withMsix_frame
  unfold pcieDown
  simp [fr1, fr2]

/-! ### Causes -/

theorem withMode_frame (s : State) (f : ModeState → ModeState) :
    (withMode s f).start = s.start ∧ (withMode s f).zewen = s.zewen ∧ (withMode s f).writes = s.writes ∧ (withMode s f).image = s.image ∧ (withMode s f).reg = s.reg ∧ (withMode s f).objs = s.objs ∧ (withMode s f).herd = s.herd ∧ (withMode s f).aon = s.aon ∧ (withMode s f).net = s.net ∧ (withMode s f).plan = s.plan ∧ (withMode s f).solver = s.solver ∧ (withMode s f).piste = s.piste ∧ (withMode s f).prof = s.prof ∧ (withMode s f).ctl = s.ctl ∧ (withMode s f).sched = s.sched ∧ (withMode s f).dsp = s.dsp ∧ (withMode s f).sep = s.sep ∧ (withMode s f).safety = s.safety ∧ (withMode s f).cham = s.cham ∧ (withMode s f).field = s.field ∧ (withMode s f).acq = s.acq ∧ (withMode s f).logs = s.logs ∧ (withMode s f).clocks = s.clocks ∧ (withMode s f).power = s.power ∧ (withMode s f).pair = s.pair ∧ (withMode s f).sec = s.sec ∧ (withMode s f).hw = s.hw ∧ (withMode s f).nor = s.nor ∧ (withMode s f).freeCount = s.freeCount := by
  unfold withMode
  simp

theorem settleWaits_frame (s : State) (p : Mode → Bool) (status : ℕ) :
    (settleWaits s p status).start = s.start ∧ (settleWaits s p status).writes = s.writes ∧ (settleWaits s p status).image = s.image ∧ (settleWaits s p status).herd = s.herd ∧ (settleWaits s p status).aon = s.aon ∧ (settleWaits s p status).net = s.net ∧ (settleWaits s p status).plan = s.plan ∧ (settleWaits s p status).solver = s.solver ∧ (settleWaits s p status).piste = s.piste ∧ (settleWaits s p status).prof = s.prof ∧ (settleWaits s p status).ctl = s.ctl ∧ (settleWaits s p status).sched = s.sched ∧ (settleWaits s p status).dsp = s.dsp ∧ (settleWaits s p status).sep = s.sep ∧ (settleWaits s p status).safety = s.safety ∧ (settleWaits s p status).cham = s.cham ∧ (settleWaits s p status).field = s.field ∧ (settleWaits s p status).clocks = s.clocks ∧ (settleWaits s p status).power = s.power ∧ (settleWaits s p status).pair = s.pair ∧ (settleWaits s p status).sec = s.sec ∧ (settleWaits s p status).hw = s.hw ∧ (settleWaits s p status).nor = s.nor := by
  have fr1 := @completeAll_frame; have fr2 := @withMode_frame
  unfold settleWaits
  simp [fr1, fr2]

theorem acceptTarget_frame (s : State) (target : Mode) (w : Word) :
    (acceptTarget s target w).start = s.start ∧ (acceptTarget s target w).writes = s.writes ∧ (acceptTarget s target w).image = s.image ∧ (acceptTarget s target w).herd = s.herd ∧ (acceptTarget s target w).aon = s.aon ∧ (acceptTarget s target w).net = s.net ∧ (acceptTarget s target w).plan = s.plan ∧ (acceptTarget s target w).solver = s.solver ∧ (acceptTarget s target w).piste = s.piste ∧ (acceptTarget s target w).prof = s.prof ∧ (acceptTarget s target w).ctl = s.ctl ∧ (acceptTarget s target w).sched = s.sched ∧ (acceptTarget s target w).dsp = s.dsp ∧ (acceptTarget s target w).sep = s.sep ∧ (acceptTarget s target w).safety = s.safety ∧ (acceptTarget s target w).cham = s.cham ∧ (acceptTarget s target w).field = s.field ∧ (acceptTarget s target w).clocks = s.clocks ∧ (acceptTarget s target w).power = s.power ∧ (acceptTarget s target w).pair = s.pair ∧ (acceptTarget s target w).sec = s.sec ∧ (acceptTarget s target w).hw = s.hw ∧ (acceptTarget s target w).nor = s.nor := by
  have fr1 := @settleWaits_frame; have fr2 := @withMode_frame
  unfold acceptTarget
  split <;> simp [fr1, fr2]

theorem recordCause_frame (s : State) (c : Cause) :
    (recordCause s c).start = s.start ∧ (recordCause s c).zewen = s.zewen ∧ (recordCause s c).writes = s.writes ∧ (recordCause s c).image = s.image ∧ (recordCause s c).reg = s.reg ∧ (recordCause s c).objs = s.objs ∧ (recordCause s c).herd = s.herd ∧ (recordCause s c).aon = s.aon ∧ (recordCause s c).net = s.net ∧ (recordCause s c).plan = s.plan ∧ (recordCause s c).solver = s.solver ∧ (recordCause s c).piste = s.piste ∧ (recordCause s c).prof = s.prof ∧ (recordCause s c).ctl = s.ctl ∧ (recordCause s c).sched = s.sched ∧ (recordCause s c).dsp = s.dsp ∧ (recordCause s c).sep = s.sep ∧ (recordCause s c).safety = s.safety ∧ (recordCause s c).cham = s.cham ∧ (recordCause s c).field = s.field ∧ (recordCause s c).acq = s.acq ∧ (recordCause s c).logs = s.logs ∧ (recordCause s c).clocks = s.clocks ∧ (recordCause s c).power = s.power ∧ (recordCause s c).pair = s.pair ∧ (recordCause s c).sec = s.sec ∧ (recordCause s c).hw = s.hw ∧ (recordCause s c).nor = s.nor ∧ (recordCause s c).freeCount = s.freeCount := by
  have fr1 := @withMode_frame
  unfold recordCause
  simp [fr1]

theorem noteMode_frame (s : State) (m : Mode) :
    (noteMode s m).mode = s.mode ∧ (noteMode s m).start = s.start ∧ (noteMode s m).writes = s.writes ∧ (noteMode s m).image = s.image ∧ (noteMode s m).herd = s.herd ∧ (noteMode s m).aon = s.aon ∧ (noteMode s m).net = s.net ∧ (noteMode s m).plan = s.plan ∧ (noteMode s m).solver = s.solver ∧ (noteMode s m).piste = s.piste ∧ (noteMode s m).prof = s.prof ∧ (noteMode s m).ctl = s.ctl ∧ (noteMode s m).sched = s.sched ∧ (noteMode s m).dsp = s.dsp ∧ (noteMode s m).sep = s.sep ∧ (noteMode s m).safety = s.safety ∧ (noteMode s m).cham = s.cham ∧ (noteMode s m).field = s.field ∧ (noteMode s m).clocks = s.clocks ∧ (noteMode s m).power = s.power ∧ (noteMode s m).pair = s.pair ∧ (noteMode s m).sec = s.sec ∧ (noteMode s m).hw = s.hw ∧ (noteMode s m).nor = s.nor := by
  have fr1 := @setInt_frame; have fr2 := @log_frame
  unfold noteMode
  simp [fr1, fr2]

theorem faultStartDone_frame (s : State) :
    (faultStartDone s).mode = s.mode ∧ (faultStartDone s).zewen = s.zewen ∧ (faultStartDone s).writes = s.writes ∧ (faultStartDone s).image = s.image ∧ (faultStartDone s).reg = s.reg ∧ (faultStartDone s).objs = s.objs ∧ (faultStartDone s).herd = s.herd ∧ (faultStartDone s).net = s.net ∧ (faultStartDone s).plan = s.plan ∧ (faultStartDone s).solver = s.solver ∧ (faultStartDone s).piste = s.piste ∧ (faultStartDone s).prof = s.prof ∧ (faultStartDone s).ctl = s.ctl ∧ (faultStartDone s).sched = s.sched ∧ (faultStartDone s).dsp = s.dsp ∧ (faultStartDone s).sep = s.sep ∧ (faultStartDone s).safety = s.safety ∧ (faultStartDone s).cham = s.cham ∧ (faultStartDone s).field = s.field ∧ (faultStartDone s).acq = s.acq ∧ (faultStartDone s).logs = s.logs ∧ (faultStartDone s).clocks = s.clocks ∧ (faultStartDone s).power = s.power ∧ (faultStartDone s).pair = s.pair ∧ (faultStartDone s).sec = s.sec ∧ (faultStartDone s).hw = s.hw ∧ (faultStartDone s).freeCount = s.freeCount := by
  unfold faultStartDone
  simp

theorem bootTrigger_frame (s : State) (w : Word) (c : Cause) :
    (bootTrigger s w c).writes = s.writes ∧ (bootTrigger s w c).image = s.image ∧ (bootTrigger s w c).herd = s.herd ∧ (bootTrigger s w c).net = s.net ∧ (bootTrigger s w c).plan = s.plan ∧ (bootTrigger s w c).solver = s.solver ∧ (bootTrigger s w c).piste = s.piste ∧ (bootTrigger s w c).prof = s.prof ∧ (bootTrigger s w c).ctl = s.ctl ∧ (bootTrigger s w c).sched = s.sched ∧ (bootTrigger s w c).dsp = s.dsp ∧ (bootTrigger s w c).sep = s.sep ∧ (bootTrigger s w c).safety = s.safety ∧ (bootTrigger s w c).cham = s.cham ∧ (bootTrigger s w c).field = s.field ∧ (bootTrigger s w c).clocks = s.clocks ∧ (bootTrigger s w c).power = s.power ∧ (bootTrigger s w c).pair = s.pair ∧ (bootTrigger s w c).sec = s.sec ∧ (bootTrigger s w c).hw = s.hw := by
  have fr1 := @withMode_frame; have fr2 := @faultStartDone_frame; have fr3 := @acceptTarget_frame; have fr4 := @noteMode_frame
  unfold bootTrigger
  simp [fr1, fr2, fr3, fr4]

theorem trigger_frame (s : State) (target : Mode) (w : Word) (c : Cause) :
    (trigger s target w c).writes = s.writes ∧ (trigger s target w c).image = s.image ∧ (trigger s target w c).herd = s.herd ∧ (trigger s target w c).net = s.net ∧ (trigger s target w c).plan = s.plan ∧ (trigger s target w c).solver = s.solver ∧ (trigger s target w c).piste = s.piste ∧ (trigger s target w c).prof = s.prof ∧ (trigger s target w c).ctl = s.ctl ∧ (trigger s target w c).sched = s.sched ∧ (trigger s target w c).dsp = s.dsp ∧ (trigger s target w c).sep = s.sep ∧ (trigger s target w c).safety = s.safety ∧ (trigger s target w c).cham = s.cham ∧ (trigger s target w c).field = s.field ∧ (trigger s target w c).clocks = s.clocks ∧ (trigger s target w c).power = s.power ∧ (trigger s target w c).pair = s.pair ∧ (trigger s target w c).sec = s.sec ∧ (trigger s target w c).hw = s.hw := by
  have fr1 := @bootTrigger_frame; have fr2 := @withMode_frame; have fr3 := @acceptTarget_frame; have fr4 := @recordCause_frame
  unfold trigger
  simp [fr1, fr2, fr3, fr4]

theorem isolate_frame (s : State) (region : ℕ) (block : ℕ) (element : ℕ) :
    (isolate s region block element).writes = s.writes ∧ (isolate s region block element).image = s.image ∧ (isolate s region block element).herd = s.herd ∧ (isolate s region block element).net = s.net ∧ (isolate s region block element).plan = s.plan ∧ (isolate s region block element).solver = s.solver ∧ (isolate s region block element).piste = s.piste ∧ (isolate s region block element).prof = s.prof ∧ (isolate s region block element).ctl = s.ctl ∧ (isolate s region block element).sched = s.sched ∧ (isolate s region block element).dsp = s.dsp ∧ (isolate s region block element).sep = s.sep ∧ (isolate s region block element).safety = s.safety ∧ (isolate s region block element).cham = s.cham ∧ (isolate s region block element).field = s.field ∧ (isolate s region block element).clocks = s.clocks ∧ (isolate s region block element).power = s.power ∧ (isolate s region block element).pair = s.pair ∧ (isolate s region block element).sec = s.sec ∧ (isolate s region block element).hw = s.hw := by
  have fr1 := @error_frame; have fr2 := @withMode_frame; have fr3 := @trigger_frame
  unfold isolate
  dsimp only
  (repeat' split) <;> simp [fr1, fr2, fr3]

theorem errorTrigger_frame (s : State) (target : Mode) (w : Word) (code : ℕ) (arg : ℕ) (cls : LogClass) (c : Cause) :
    (errorTrigger s target w code arg cls c).writes = s.writes ∧ (errorTrigger s target w code arg cls c).image = s.image ∧ (errorTrigger s target w code arg cls c).herd = s.herd ∧ (errorTrigger s target w code arg cls c).net = s.net ∧ (errorTrigger s target w code arg cls c).plan = s.plan ∧ (errorTrigger s target w code arg cls c).solver = s.solver ∧ (errorTrigger s target w code arg cls c).piste = s.piste ∧ (errorTrigger s target w code arg cls c).prof = s.prof ∧ (errorTrigger s target w code arg cls c).ctl = s.ctl ∧ (errorTrigger s target w code arg cls c).sched = s.sched ∧ (errorTrigger s target w code arg cls c).dsp = s.dsp ∧ (errorTrigger s target w code arg cls c).sep = s.sep ∧ (errorTrigger s target w code arg cls c).safety = s.safety ∧ (errorTrigger s target w code arg cls c).cham = s.cham ∧ (errorTrigger s target w code arg cls c).field = s.field ∧ (errorTrigger s target w code arg cls c).clocks = s.clocks ∧ (errorTrigger s target w code arg cls c).power = s.power ∧ (errorTrigger s target w code arg cls c).pair = s.pair ∧ (errorTrigger s target w code arg cls c).sec = s.sec ∧ (errorTrigger s target w code arg cls c).hw = s.hw := by
  have fr1 := @trigger_frame; have fr2 := @errorAs_frame
  unfold errorTrigger
  simp [fr1, fr2]

theorem faultError_frame (s : State) (w : Word) (c : Cause) :
    (faultError s w c).writes = s.writes ∧ (faultError s w c).image = s.image ∧ (faultError s w c).herd = s.herd ∧ (faultError s w c).net = s.net ∧ (faultError s w c).plan = s.plan ∧ (faultError s w c).solver = s.solver ∧ (faultError s w c).piste = s.piste ∧ (faultError s w c).prof = s.prof ∧ (faultError s w c).ctl = s.ctl ∧ (faultError s w c).sched = s.sched ∧ (faultError s w c).dsp = s.dsp ∧ (faultError s w c).sep = s.sep ∧ (faultError s w c).safety = s.safety ∧ (faultError s w c).cham = s.cham ∧ (faultError s w c).field = s.field ∧ (faultError s w c).clocks = s.clocks ∧ (faultError s w c).power = s.power ∧ (faultError s w c).pair = s.pair ∧ (faultError s w c).sec = s.sec ∧ (faultError s w c).hw = s.hw := by
  have fr1 := @trigger_frame; have fr2 := @error_frame
  unfold faultError
  simp [fr1, fr2]

theorem holdError_frame (s : State) (w : Word) (c : Cause) :
    (holdError s w c).writes = s.writes ∧ (holdError s w c).image = s.image ∧ (holdError s w c).herd = s.herd ∧ (holdError s w c).net = s.net ∧ (holdError s w c).plan = s.plan ∧ (holdError s w c).solver = s.solver ∧ (holdError s w c).piste = s.piste ∧ (holdError s w c).prof = s.prof ∧ (holdError s w c).ctl = s.ctl ∧ (holdError s w c).sched = s.sched ∧ (holdError s w c).dsp = s.dsp ∧ (holdError s w c).sep = s.sep ∧ (holdError s w c).safety = s.safety ∧ (holdError s w c).cham = s.cham ∧ (holdError s w c).field = s.field ∧ (holdError s w c).clocks = s.clocks ∧ (holdError s w c).power = s.power ∧ (holdError s w c).pair = s.pair ∧ (holdError s w c).sec = s.sec ∧ (holdError s w c).hw = s.hw := by
  have fr1 := @trigger_frame; have fr2 := @error_frame
  unfold holdError
  simp [fr1, fr2]

/-! ### Time -/

theorem withHerd_frame (s : State) (f : HerdState → HerdState) :
    (withHerd s f).mode = s.mode ∧ (withHerd s f).start = s.start ∧ (withHerd s f).zewen = s.zewen ∧ (withHerd s f).writes = s.writes ∧ (withHerd s f).image = s.image ∧ (withHerd s f).reg = s.reg ∧ (withHerd s f).objs = s.objs ∧ (withHerd s f).aon = s.aon ∧ (withHerd s f).net = s.net ∧ (withHerd s f).plan = s.plan ∧ (withHerd s f).solver = s.solver ∧ (withHerd s f).piste = s.piste ∧ (withHerd s f).prof = s.prof ∧ (withHerd s f).ctl = s.ctl ∧ (withHerd s f).sched = s.sched ∧ (withHerd s f).dsp = s.dsp ∧ (withHerd s f).sep = s.sep ∧ (withHerd s f).safety = s.safety ∧ (withHerd s f).cham = s.cham ∧ (withHerd s f).field = s.field ∧ (withHerd s f).acq = s.acq ∧ (withHerd s f).logs = s.logs ∧ (withHerd s f).clocks = s.clocks ∧ (withHerd s f).power = s.power ∧ (withHerd s f).pair = s.pair ∧ (withHerd s f).sec = s.sec ∧ (withHerd s f).hw = s.hw ∧ (withHerd s f).nor = s.nor ∧ (withHerd s f).freeCount = s.freeCount := by
  unfold withHerd
  simp

theorem setDomain_frame (s : State) (d : ℕ) (f : PtpDomain → PtpDomain) :
    (setDomain s d f).mode = s.mode ∧ (setDomain s d f).start = s.start ∧ (setDomain s d f).zewen = s.zewen ∧ (setDomain s d f).writes = s.writes ∧ (setDomain s d f).image = s.image ∧ (setDomain s d f).reg = s.reg ∧ (setDomain s d f).objs = s.objs ∧ (setDomain s d f).aon = s.aon ∧ (setDomain s d f).net = s.net ∧ (setDomain s d f).plan = s.plan ∧ (setDomain s d f).solver = s.solver ∧ (setDomain s d f).piste = s.piste ∧ (setDomain s d f).prof = s.prof ∧ (setDomain s d f).ctl = s.ctl ∧ (setDomain s d f).sched = s.sched ∧ (setDomain s d f).dsp = s.dsp ∧ (setDomain s d f).sep = s.sep ∧ (setDomain s d f).safety = s.safety ∧ (setDomain s d f).cham = s.cham ∧ (setDomain s d f).field = s.field ∧ (setDomain s d f).acq = s.acq ∧ (setDomain s d f).logs = s.logs ∧ (setDomain s d f).clocks = s.clocks ∧ (setDomain s d f).power = s.power ∧ (setDomain s d f).pair = s.pair ∧ (setDomain s d f).sec = s.sec ∧ (setDomain s d f).hw = s.hw ∧ (setDomain s d f).nor = s.nor ∧ (setDomain s d f).freeCount = s.freeCount := by
  have fr1 := @withHerd_frame
  unfold setDomain
  simp [fr1]

theorem startSlew_frame (s : State) (o : ℤ) :
    (startSlew s o).mode = s.mode ∧ (startSlew s o).start = s.start ∧ (startSlew s o).zewen = s.zewen ∧ (startSlew s o).writes = s.writes ∧ (startSlew s o).image = s.image ∧ (startSlew s o).reg = s.reg ∧ (startSlew s o).objs = s.objs ∧ (startSlew s o).aon = s.aon ∧ (startSlew s o).net = s.net ∧ (startSlew s o).plan = s.plan ∧ (startSlew s o).solver = s.solver ∧ (startSlew s o).piste = s.piste ∧ (startSlew s o).prof = s.prof ∧ (startSlew s o).ctl = s.ctl ∧ (startSlew s o).sched = s.sched ∧ (startSlew s o).dsp = s.dsp ∧ (startSlew s o).sep = s.sep ∧ (startSlew s o).safety = s.safety ∧ (startSlew s o).cham = s.cham ∧ (startSlew s o).field = s.field ∧ (startSlew s o).acq = s.acq ∧ (startSlew s o).logs = s.logs ∧ (startSlew s o).clocks = s.clocks ∧ (startSlew s o).power = s.power ∧ (startSlew s o).pair = s.pair ∧ (startSlew s o).sec = s.sec ∧ (startSlew s o).hw = s.hw ∧ (startSlew s o).nor = s.nor ∧ (startSlew s o).freeCount = s.freeCount := by
  have fr1 := @withHerd_frame
  unfold startSlew
  simp [fr1]

theorem removeOffset_frame (s : State) (o : ℤ) :
    (removeOffset s o).mode = s.mode ∧ (removeOffset s o).start = s.start ∧ (removeOffset s o).zewen = s.zewen ∧ (removeOffset s o).writes = s.writes ∧ (removeOffset s o).image = s.image ∧ (removeOffset s o).reg = s.reg ∧ (removeOffset s o).objs = s.objs ∧ (removeOffset s o).aon = s.aon ∧ (removeOffset s o).net = s.net ∧ (removeOffset s o).plan = s.plan ∧ (removeOffset s o).solver = s.solver ∧ (removeOffset s o).piste = s.piste ∧ (removeOffset s o).prof = s.prof ∧ (removeOffset s o).ctl = s.ctl ∧ (removeOffset s o).sched = s.sched ∧ (removeOffset s o).dsp = s.dsp ∧ (removeOffset s o).sep = s.sep ∧ (removeOffset s o).safety = s.safety ∧ (removeOffset s o).cham = s.cham ∧ (removeOffset s o).field = s.field ∧ (removeOffset s o).acq = s.acq ∧ (removeOffset s o).logs = s.logs ∧ (removeOffset s o).clocks = s.clocks ∧ (removeOffset s o).power = s.power ∧ (removeOffset s o).pair = s.pair ∧ (removeOffset s o).sec = s.sec ∧ (removeOffset s o).hw = s.hw ∧ (removeOffset s o).nor = s.nor ∧ (removeOffset s o).freeCount = s.freeCount := by
  have fr1 := @withHerd_frame; have fr2 := @startSlew_frame
  unfold removeOffset
  simp [fr1, fr2]

theorem setRate_frame (s : State) (p : F64) :
    (setRate s p).mode = s.mode ∧ (setRate s p).start = s.start ∧ (setRate s p).zewen = s.zewen ∧ (setRate s p).writes = s.writes ∧ (setRate s p).image = s.image ∧ (setRate s p).reg = s.reg ∧ (setRate s p).objs = s.objs ∧ (setRate s p).aon = s.aon ∧ (setRate s p).net = s.net ∧ (setRate s p).plan = s.plan ∧ (setRate s p).solver = s.solver ∧ (setRate s p).piste = s.piste ∧ (setRate s p).prof = s.prof ∧ (setRate s p).ctl = s.ctl ∧ (setRate s p).sched = s.sched ∧ (setRate s p).dsp = s.dsp ∧ (setRate s p).sep = s.sep ∧ (setRate s p).safety = s.safety ∧ (setRate s p).cham = s.cham ∧ (setRate s p).field = s.field ∧ (setRate s p).acq = s.acq ∧ (setRate s p).logs = s.logs ∧ (setRate s p).clocks = s.clocks ∧ (setRate s p).power = s.power ∧ (setRate s p).pair = s.pair ∧ (setRate s p).sec = s.sec ∧ (setRate s p).hw = s.hw ∧ (setRate s p).nor = s.nor ∧ (setRate s p).freeCount = s.freeCount := by
  have fr1 := @withHerd_frame
  unfold setRate
  simp [fr1]

theorem noteHistory_frame (s : State) :
    (noteHistory s).mode = s.mode ∧ (noteHistory s).start = s.start ∧ (noteHistory s).zewen = s.zewen ∧ (noteHistory s).writes = s.writes ∧ (noteHistory s).image = s.image ∧ (noteHistory s).reg = s.reg ∧ (noteHistory s).objs = s.objs ∧ (noteHistory s).aon = s.aon ∧ (noteHistory s).net = s.net ∧ (noteHistory s).plan = s.plan ∧ (noteHistory s).solver = s.solver ∧ (noteHistory s).piste = s.piste ∧ (noteHistory s).prof = s.prof ∧ (noteHistory s).ctl = s.ctl ∧ (noteHistory s).sched = s.sched ∧ (noteHistory s).dsp = s.dsp ∧ (noteHistory s).sep = s.sep ∧ (noteHistory s).safety = s.safety ∧ (noteHistory s).cham = s.cham ∧ (noteHistory s).field = s.field ∧ (noteHistory s).acq = s.acq ∧ (noteHistory s).logs = s.logs ∧ (noteHistory s).clocks = s.clocks ∧ (noteHistory s).power = s.power ∧ (noteHistory s).pair = s.pair ∧ (noteHistory s).sec = s.sec ∧ (noteHistory s).hw = s.hw ∧ (noteHistory s).nor = s.nor ∧ (noteHistory s).freeCount = s.freeCount := by
  have fr1 := @withHerd_frame
  unfold noteHistory
  simp [fr1]

theorem herdMeasure_frame (s : State) (o : ℤ) :
    (herdMeasure s o).mode = s.mode ∧ (herdMeasure s o).start = s.start ∧ (herdMeasure s o).zewen = s.zewen ∧ (herdMeasure s o).writes = s.writes ∧ (herdMeasure s o).image = s.image ∧ (herdMeasure s o).reg = s.reg ∧ (herdMeasure s o).objs = s.objs ∧ (herdMeasure s o).aon = s.aon ∧ (herdMeasure s o).net = s.net ∧ (herdMeasure s o).plan = s.plan ∧ (herdMeasure s o).solver = s.solver ∧ (herdMeasure s o).piste = s.piste ∧ (herdMeasure s o).prof = s.prof ∧ (herdMeasure s o).ctl = s.ctl ∧ (herdMeasure s o).sched = s.sched ∧ (herdMeasure s o).dsp = s.dsp ∧ (herdMeasure s o).sep = s.sep ∧ (herdMeasure s o).safety = s.safety ∧ (herdMeasure s o).cham = s.cham ∧ (herdMeasure s o).field = s.field ∧ (herdMeasure s o).acq = s.acq ∧ (herdMeasure s o).logs = s.logs ∧ (herdMeasure s o).clocks = s.clocks ∧ (herdMeasure s o).power = s.power ∧ (herdMeasure s o).pair = s.pair ∧ (herdMeasure s o).sec = s.sec ∧ (herdMeasure s o).hw = s.hw ∧ (herdMeasure s o).nor = s.nor ∧ (herdMeasure s o).freeCount = s.freeCount := by
  have fr1 := @removeOffset_frame; have fr2 := @withHerd_frame; have fr3 := @setRate_frame; have fr4 := @noteHistory_frame
  unfold herdMeasure
  simp [fr1, fr2, fr3, fr4]

theorem holdRate_frame (s : State) :
    (holdRate s).mode = s.mode ∧ (holdRate s).start = s.start ∧ (holdRate s).zewen = s.zewen ∧ (holdRate s).writes = s.writes ∧ (holdRate s).image = s.image ∧ (holdRate s).reg = s.reg ∧ (holdRate s).objs = s.objs ∧ (holdRate s).aon = s.aon ∧ (holdRate s).net = s.net ∧ (holdRate s).plan = s.plan ∧ (holdRate s).solver = s.solver ∧ (holdRate s).piste = s.piste ∧ (holdRate s).prof = s.prof ∧ (holdRate s).ctl = s.ctl ∧ (holdRate s).sched = s.sched ∧ (holdRate s).dsp = s.dsp ∧ (holdRate s).sep = s.sep ∧ (holdRate s).safety = s.safety ∧ (holdRate s).cham = s.cham ∧ (holdRate s).field = s.field ∧ (holdRate s).acq = s.acq ∧ (holdRate s).logs = s.logs ∧ (holdRate s).clocks = s.clocks ∧ (holdRate s).power = s.power ∧ (holdRate s).pair = s.pair ∧ (holdRate s).sec = s.sec ∧ (holdRate s).hw = s.hw ∧ (holdRate s).nor = s.nor ∧ (holdRate s).freeCount = s.freeCount := by
  have fr1 := @setRate_frame
  unfold holdRate
  split <;> simp [fr1]

theorem enterHoldover_frame (s : State) :
    (enterHoldover s).mode = s.mode ∧ (enterHoldover s).start = s.start ∧ (enterHoldover s).writes = s.writes ∧ (enterHoldover s).image = s.image ∧ (enterHoldover s).aon = s.aon ∧ (enterHoldover s).net = s.net ∧ (enterHoldover s).plan = s.plan ∧ (enterHoldover s).solver = s.solver ∧ (enterHoldover s).piste = s.piste ∧ (enterHoldover s).prof = s.prof ∧ (enterHoldover s).ctl = s.ctl ∧ (enterHoldover s).sched = s.sched ∧ (enterHoldover s).dsp = s.dsp ∧ (enterHoldover s).sep = s.sep ∧ (enterHoldover s).safety = s.safety ∧ (enterHoldover s).cham = s.cham ∧ (enterHoldover s).field = s.field ∧ (enterHoldover s).clocks = s.clocks ∧ (enterHoldover s).power = s.power ∧ (enterHoldover s).pair = s.pair ∧ (enterHoldover s).sec = s.sec ∧ (enterHoldover s).hw = s.hw ∧ (enterHoldover s).nor = s.nor := by
  have fr1 := @withHerd_frame; have fr2 := @holdRate_frame; have fr3 := @log_frame
  unfold enterHoldover
  simp [fr1, fr2, fr3]

theorem followDomain_frame (s : State) (d : ℕ) :
    (followDomain s d).mode = s.mode ∧ (followDomain s d).start = s.start ∧ (followDomain s d).zewen = s.zewen ∧ (followDomain s d).writes = s.writes ∧ (followDomain s d).image = s.image ∧ (followDomain s d).reg = s.reg ∧ (followDomain s d).objs = s.objs ∧ (followDomain s d).aon = s.aon ∧ (followDomain s d).net = s.net ∧ (followDomain s d).plan = s.plan ∧ (followDomain s d).solver = s.solver ∧ (followDomain s d).piste = s.piste ∧ (followDomain s d).prof = s.prof ∧ (followDomain s d).ctl = s.ctl ∧ (followDomain s d).sched = s.sched ∧ (followDomain s d).dsp = s.dsp ∧ (followDomain s d).sep = s.sep ∧ (followDomain s d).safety = s.safety ∧ (followDomain s d).cham = s.cham ∧ (followDomain s d).field = s.field ∧ (followDomain s d).acq = s.acq ∧ (followDomain s d).logs = s.logs ∧ (followDomain s d).clocks = s.clocks ∧ (followDomain s d).power = s.power ∧ (followDomain s d).pair = s.pair ∧ (followDomain s d).sec = s.sec ∧ (followDomain s d).hw = s.hw ∧ (followDomain s d).nor = s.nor ∧ (followDomain s d).freeCount = s.freeCount := by
  have fr1 := @withHerd_frame; have fr2 := @setRate_frame; have fr3 := @removeOffset_frame
  unfold followDomain
  simp [fr1, fr2, fr3]

theorem reselect_frame (s : State) :
    (reselect s).mode = s.mode ∧ (reselect s).start = s.start ∧ (reselect s).writes = s.writes ∧ (reselect s).image = s.image ∧ (reselect s).aon = s.aon ∧ (reselect s).net = s.net ∧ (reselect s).plan = s.plan ∧ (reselect s).solver = s.solver ∧ (reselect s).piste = s.piste ∧ (reselect s).prof = s.prof ∧ (reselect s).ctl = s.ctl ∧ (reselect s).sched = s.sched ∧ (reselect s).dsp = s.dsp ∧ (reselect s).sep = s.sep ∧ (reselect s).safety = s.safety ∧ (reselect s).cham = s.cham ∧ (reselect s).field = s.field ∧ (reselect s).clocks = s.clocks ∧ (reselect s).power = s.power ∧ (reselect s).pair = s.pair ∧ (reselect s).sec = s.sec ∧ (reselect s).hw = s.hw ∧ (reselect s).nor = s.nor := by
  have fr1 := @followDomain_frame; have fr2 := @enterHoldover_frame
  unfold reselect
  simp [fr1, fr2]

theorem loseDomain_frame (s : State) (d : ℕ) :
    (loseDomain s d).mode = s.mode ∧ (loseDomain s d).start = s.start ∧ (loseDomain s d).writes = s.writes ∧ (loseDomain s d).image = s.image ∧ (loseDomain s d).aon = s.aon ∧ (loseDomain s d).net = s.net ∧ (loseDomain s d).plan = s.plan ∧ (loseDomain s d).solver = s.solver ∧ (loseDomain s d).piste = s.piste ∧ (loseDomain s d).prof = s.prof ∧ (loseDomain s d).ctl = s.ctl ∧ (loseDomain s d).sched = s.sched ∧ (loseDomain s d).dsp = s.dsp ∧ (loseDomain s d).sep = s.sep ∧ (loseDomain s d).safety = s.safety ∧ (loseDomain s d).cham = s.cham ∧ (loseDomain s d).field = s.field ∧ (loseDomain s d).clocks = s.clocks ∧ (loseDomain s d).power = s.power ∧ (loseDomain s d).pair = s.pair ∧ (loseDomain s d).sec = s.sec ∧ (loseDomain s d).hw = s.hw ∧ (loseDomain s d).nor = s.nor := by
  have fr1 := @reselect_frame; have fr2 := @bump_frame; have fr3 := @setDomain_frame
  unfold loseDomain
  simp [fr1, fr2, fr3]

theorem loseSource_frame (s : State) :
    (loseSource s).mode = s.mode ∧ (loseSource s).start = s.start ∧ (loseSource s).writes = s.writes ∧ (loseSource s).image = s.image ∧ (loseSource s).aon = s.aon ∧ (loseSource s).net = s.net ∧ (loseSource s).plan = s.plan ∧ (loseSource s).solver = s.solver ∧ (loseSource s).piste = s.piste ∧ (loseSource s).prof = s.prof ∧ (loseSource s).ctl = s.ctl ∧ (loseSource s).sched = s.sched ∧ (loseSource s).dsp = s.dsp ∧ (loseSource s).sep = s.sep ∧ (loseSource s).safety = s.safety ∧ (loseSource s).cham = s.cham ∧ (loseSource s).field = s.field ∧ (loseSource s).clocks = s.clocks ∧ (loseSource s).power = s.power ∧ (loseSource s).pair = s.pair ∧ (loseSource s).sec = s.sec ∧ (loseSource s).hw = s.hw ∧ (loseSource s).nor = s.nor := by
  have fr1 := @enterHoldover_frame
  unfold loseSource
  simp [fr1]

theorem retime_frame (old : State) (s : State) :
    (retime old s).mode = s.mode ∧ (retime old s).start = s.start ∧ (retime old s).writes = s.writes ∧ (retime old s).image = s.image ∧ (retime old s).aon = s.aon ∧ (retime old s).net = s.net ∧ (retime old s).plan = s.plan ∧ (retime old s).solver = s.solver ∧ (retime old s).piste = s.piste ∧ (retime old s).prof = s.prof ∧ (retime old s).ctl = s.ctl ∧ (retime old s).sched = s.sched ∧ (retime old s).dsp = s.dsp ∧ (retime old s).sep = s.sep ∧ (retime old s).safety = s.safety ∧ (retime old s).cham = s.cham ∧ (retime old s).field = s.field ∧ (retime old s).clocks = s.clocks ∧ (retime old s).power = s.power ∧ (retime old s).pair = s.pair ∧ (retime old s).sec = s.sec ∧ (retime old s).hw = s.hw ∧ (retime old s).nor = s.nor := by
  have fr1 := @setDomain_frame; have fr2 := @withHerd_frame; have fr3 := @reselect_frame
  unfold retime
  simp [fr1, fr2, fr3]

theorem takeSync_frame (m : PtpMessage) (s : State) (d : ℕ) (stamp : ℕ) :
    (takeSync m s d stamp).mode = s.mode ∧ (takeSync m s d stamp).start = s.start ∧ (takeSync m s d stamp).writes = s.writes ∧ (takeSync m s d stamp).image = s.image ∧ (takeSync m s d stamp).aon = s.aon ∧ (takeSync m s d stamp).net = s.net ∧ (takeSync m s d stamp).plan = s.plan ∧ (takeSync m s d stamp).solver = s.solver ∧ (takeSync m s d stamp).piste = s.piste ∧ (takeSync m s d stamp).prof = s.prof ∧ (takeSync m s d stamp).ctl = s.ctl ∧ (takeSync m s d stamp).sched = s.sched ∧ (takeSync m s d stamp).dsp = s.dsp ∧ (takeSync m s d stamp).sep = s.sep ∧ (takeSync m s d stamp).safety = s.safety ∧ (takeSync m s d stamp).cham = s.cham ∧ (takeSync m s d stamp).field = s.field ∧ (takeSync m s d stamp).clocks = s.clocks ∧ (takeSync m s d stamp).power = s.power ∧ (takeSync m s d stamp).pair = s.pair ∧ (takeSync m s d stamp).sec = s.sec ∧ (takeSync m s d stamp).hw = s.hw ∧ (takeSync m s d stamp).nor = s.nor := by
  have fr1 := @setDomain_frame; have fr2 := @loseDomain_frame; have fr3 := @herdMeasure_frame
  unfold takeSync
  simp [fr1, fr2, fr3]

theorem domainSync_frame (m : PtpMessage) (s : State) (d : ℕ) :
    (domainSync m s d).mode = s.mode ∧ (domainSync m s d).start = s.start ∧ (domainSync m s d).writes = s.writes ∧ (domainSync m s d).image = s.image ∧ (domainSync m s d).aon = s.aon ∧ (domainSync m s d).net = s.net ∧ (domainSync m s d).plan = s.plan ∧ (domainSync m s d).solver = s.solver ∧ (domainSync m s d).piste = s.piste ∧ (domainSync m s d).prof = s.prof ∧ (domainSync m s d).ctl = s.ctl ∧ (domainSync m s d).sched = s.sched ∧ (domainSync m s d).dsp = s.dsp ∧ (domainSync m s d).sep = s.sep ∧ (domainSync m s d).safety = s.safety ∧ (domainSync m s d).cham = s.cham ∧ (domainSync m s d).field = s.field ∧ (domainSync m s d).clocks = s.clocks ∧ (domainSync m s d).power = s.power ∧ (domainSync m s d).pair = s.pair ∧ (domainSync m s d).sec = s.sec ∧ (domainSync m s d).hw = s.hw ∧ (domainSync m s d).nor = s.nor := by
  have fr1 := @takeSync_frame; have fr2 := @loseDomain_frame
  unfold domainSync
  simp [fr1, fr2]

theorem takeParent_frame (s : State) (d : ℕ) (a : Announce) :
    (takeParent s d a).mode = s.mode ∧ (takeParent s d a).start = s.start ∧ (takeParent s d a).zewen = s.zewen ∧ (takeParent s d a).writes = s.writes ∧ (takeParent s d a).image = s.image ∧ (takeParent s d a).reg = s.reg ∧ (takeParent s d a).objs = s.objs ∧ (takeParent s d a).aon = s.aon ∧ (takeParent s d a).net = s.net ∧ (takeParent s d a).plan = s.plan ∧ (takeParent s d a).solver = s.solver ∧ (takeParent s d a).piste = s.piste ∧ (takeParent s d a).prof = s.prof ∧ (takeParent s d a).ctl = s.ctl ∧ (takeParent s d a).sched = s.sched ∧ (takeParent s d a).dsp = s.dsp ∧ (takeParent s d a).sep = s.sep ∧ (takeParent s d a).safety = s.safety ∧ (takeParent s d a).cham = s.cham ∧ (takeParent s d a).field = s.field ∧ (takeParent s d a).acq = s.acq ∧ (takeParent s d a).logs = s.logs ∧ (takeParent s d a).clocks = s.clocks ∧ (takeParent s d a).power = s.power ∧ (takeParent s d a).pair = s.pair ∧ (takeParent s d a).sec = s.sec ∧ (takeParent s d a).hw = s.hw ∧ (takeParent s d a).nor = s.nor ∧ (takeParent s d a).freeCount = s.freeCount := by
  have fr1 := @setDomain_frame; have fr2 := @withHerd_frame
  unfold takeParent
  simp [fr1, fr2]

theorem domainAnnounce_frame (s : State) (d : ℕ) (a : Announce) :
    (domainAnnounce s d a).mode = s.mode ∧ (domainAnnounce s d a).start = s.start ∧ (domainAnnounce s d a).zewen = s.zewen ∧ (domainAnnounce s d a).writes = s.writes ∧ (domainAnnounce s d a).image = s.image ∧ (domainAnnounce s d a).reg = s.reg ∧ (domainAnnounce s d a).objs = s.objs ∧ (domainAnnounce s d a).aon = s.aon ∧ (domainAnnounce s d a).net = s.net ∧ (domainAnnounce s d a).plan = s.plan ∧ (domainAnnounce s d a).solver = s.solver ∧ (domainAnnounce s d a).piste = s.piste ∧ (domainAnnounce s d a).prof = s.prof ∧ (domainAnnounce s d a).ctl = s.ctl ∧ (domainAnnounce s d a).sched = s.sched ∧ (domainAnnounce s d a).dsp = s.dsp ∧ (domainAnnounce s d a).sep = s.sep ∧ (domainAnnounce s d a).safety = s.safety ∧ (domainAnnounce s d a).cham = s.cham ∧ (domainAnnounce s d a).field = s.field ∧ (domainAnnounce s d a).acq = s.acq ∧ (domainAnnounce s d a).logs = s.logs ∧ (domainAnnounce s d a).clocks = s.clocks ∧ (domainAnnounce s d a).power = s.power ∧ (domainAnnounce s d a).pair = s.pair ∧ (domainAnnounce s d a).sec = s.sec ∧ (domainAnnounce s d a).hw = s.hw ∧ (domainAnnounce s d a).nor = s.nor ∧ (domainAnnounce s d a).freeCount = s.freeCount := by
  have fr1 := @takeParent_frame; have fr2 := @setDomain_frame
  unfold domainAnnounce
  simp [fr1, fr2]

theorem domainMessage_frame (m : PtpMessage) (s : State) (d : ℕ) :
    (domainMessage m s d).mode = s.mode ∧ (domainMessage m s d).start = s.start ∧ (domainMessage m s d).zewen = s.zewen ∧ (domainMessage m s d).writes = s.writes ∧ (domainMessage m s d).image = s.image ∧ (domainMessage m s d).reg = s.reg ∧ (domainMessage m s d).objs = s.objs ∧ (domainMessage m s d).aon = s.aon ∧ (domainMessage m s d).net = s.net ∧ (domainMessage m s d).plan = s.plan ∧ (domainMessage m s d).solver = s.solver ∧ (domainMessage m s d).piste = s.piste ∧ (domainMessage m s d).prof = s.prof ∧ (domainMessage m s d).ctl = s.ctl ∧ (domainMessage m s d).sched = s.sched ∧ (domainMessage m s d).dsp = s.dsp ∧ (domainMessage m s d).sep = s.sep ∧ (domainMessage m s d).safety = s.safety ∧ (domainMessage m s d).cham = s.cham ∧ (domainMessage m s d).field = s.field ∧ (domainMessage m s d).acq = s.acq ∧ (domainMessage m s d).logs = s.logs ∧ (domainMessage m s d).clocks = s.clocks ∧ (domainMessage m s d).power = s.power ∧ (domainMessage m s d).pair = s.pair ∧ (domainMessage m s d).sec = s.sec ∧ (domainMessage m s d).hw = s.hw ∧ (domainMessage m s d).nor = s.nor ∧ (domainMessage m s d).freeCount = s.freeCount := by
  have fr1 := @emit_frame; have fr2 := @dueStamp_frame; have fr3 := @setDomain_frame; have fr4 := @domainAnnounce_frame
  unfold domainMessage
  dsimp only
  (repeat' split) <;> simp [fr1, fr2, fr3, fr4]

theorem sendEvent_frame (s : State) (d : ℕ) (kind : ℕ) (seq : ℕ) (content : List ℤ) :
    (sendEvent s d kind seq content).mode = s.mode ∧ (sendEvent s d kind seq content).start = s.start ∧ (sendEvent s d kind seq content).zewen = s.zewen ∧ (sendEvent s d kind seq content).writes = s.writes ∧ (sendEvent s d kind seq content).image = s.image ∧ (sendEvent s d kind seq content).reg = s.reg ∧ (sendEvent s d kind seq content).objs = s.objs ∧ (sendEvent s d kind seq content).aon = s.aon ∧ (sendEvent s d kind seq content).net = s.net ∧ (sendEvent s d kind seq content).plan = s.plan ∧ (sendEvent s d kind seq content).solver = s.solver ∧ (sendEvent s d kind seq content).piste = s.piste ∧ (sendEvent s d kind seq content).prof = s.prof ∧ (sendEvent s d kind seq content).ctl = s.ctl ∧ (sendEvent s d kind seq content).sched = s.sched ∧ (sendEvent s d kind seq content).dsp = s.dsp ∧ (sendEvent s d kind seq content).sep = s.sep ∧ (sendEvent s d kind seq content).safety = s.safety ∧ (sendEvent s d kind seq content).cham = s.cham ∧ (sendEvent s d kind seq content).field = s.field ∧ (sendEvent s d kind seq content).acq = s.acq ∧ (sendEvent s d kind seq content).logs = s.logs ∧ (sendEvent s d kind seq content).clocks = s.clocks ∧ (sendEvent s d kind seq content).power = s.power ∧ (sendEvent s d kind seq content).pair = s.pair ∧ (sendEvent s d kind seq content).sec = s.sec ∧ (sendEvent s d kind seq content).hw = s.hw ∧ (sendEvent s d kind seq content).nor = s.nor ∧ (sendEvent s d kind seq content).freeCount = s.freeCount := by
  have fr1 := @emit_frame; have fr2 := @dueStamp_frame
  unfold sendEvent
  simp [fr1, fr2]

theorem sendSync_frame (s : State) (d : ℕ) :
    (sendSync s d).mode = s.mode ∧ (sendSync s d).start = s.start ∧ (sendSync s d).zewen = s.zewen ∧ (sendSync s d).writes = s.writes ∧ (sendSync s d).image = s.image ∧ (sendSync s d).reg = s.reg ∧ (sendSync s d).objs = s.objs ∧ (sendSync s d).aon = s.aon ∧ (sendSync s d).net = s.net ∧ (sendSync s d).plan = s.plan ∧ (sendSync s d).solver = s.solver ∧ (sendSync s d).piste = s.piste ∧ (sendSync s d).prof = s.prof ∧ (sendSync s d).ctl = s.ctl ∧ (sendSync s d).sched = s.sched ∧ (sendSync s d).dsp = s.dsp ∧ (sendSync s d).sep = s.sep ∧ (sendSync s d).safety = s.safety ∧ (sendSync s d).cham = s.cham ∧ (sendSync s d).field = s.field ∧ (sendSync s d).acq = s.acq ∧ (sendSync s d).logs = s.logs ∧ (sendSync s d).clocks = s.clocks ∧ (sendSync s d).power = s.power ∧ (sendSync s d).pair = s.pair ∧ (sendSync s d).sec = s.sec ∧ (sendSync s d).hw = s.hw ∧ (sendSync s d).nor = s.nor ∧ (sendSync s d).freeCount = s.freeCount := by
  have fr1 := @setDomain_frame; have fr2 := @emit_frame; have fr3 := @sendEvent_frame
  unfold sendSync
  simp [fr1, fr2, fr3]

theorem sendAnnounce_frame (s : State) (d : ℕ) :
    (sendAnnounce s d).mode = s.mode ∧ (sendAnnounce s d).start = s.start ∧ (sendAnnounce s d).zewen = s.zewen ∧ (sendAnnounce s d).writes = s.writes ∧ (sendAnnounce s d).image = s.image ∧ (sendAnnounce s d).reg = s.reg ∧ (sendAnnounce s d).objs = s.objs ∧ (sendAnnounce s d).aon = s.aon ∧ (sendAnnounce s d).net = s.net ∧ (sendAnnounce s d).plan = s.plan ∧ (sendAnnounce s d).solver = s.solver ∧ (sendAnnounce s d).piste = s.piste ∧ (sendAnnounce s d).prof = s.prof ∧ (sendAnnounce s d).ctl = s.ctl ∧ (sendAnnounce s d).sched = s.sched ∧ (sendAnnounce s d).dsp = s.dsp ∧ (sendAnnounce s d).sep = s.sep ∧ (sendAnnounce s d).safety = s.safety ∧ (sendAnnounce s d).cham = s.cham ∧ (sendAnnounce s d).field = s.field ∧ (sendAnnounce s d).acq = s.acq ∧ (sendAnnounce s d).logs = s.logs ∧ (sendAnnounce s d).clocks = s.clocks ∧ (sendAnnounce s d).power = s.power ∧ (sendAnnounce s d).pair = s.pair ∧ (sendAnnounce s d).sec = s.sec ∧ (sendAnnounce s d).hw = s.hw ∧ (sendAnnounce s d).nor = s.nor ∧ (sendAnnounce s d).freeCount = s.freeCount := by
  have fr1 := @emit_frame; have fr2 := @setDomain_frame
  unfold sendAnnounce
  simp [fr1, fr2]

theorem sendDelayReq_frame (s : State) (d : ℕ) :
    (sendDelayReq s d).mode = s.mode ∧ (sendDelayReq s d).start = s.start ∧ (sendDelayReq s d).zewen = s.zewen ∧ (sendDelayReq s d).writes = s.writes ∧ (sendDelayReq s d).image = s.image ∧ (sendDelayReq s d).reg = s.reg ∧ (sendDelayReq s d).objs = s.objs ∧ (sendDelayReq s d).aon = s.aon ∧ (sendDelayReq s d).net = s.net ∧ (sendDelayReq s d).plan = s.plan ∧ (sendDelayReq s d).solver = s.solver ∧ (sendDelayReq s d).piste = s.piste ∧ (sendDelayReq s d).prof = s.prof ∧ (sendDelayReq s d).ctl = s.ctl ∧ (sendDelayReq s d).sched = s.sched ∧ (sendDelayReq s d).dsp = s.dsp ∧ (sendDelayReq s d).sep = s.sep ∧ (sendDelayReq s d).safety = s.safety ∧ (sendDelayReq s d).cham = s.cham ∧ (sendDelayReq s d).field = s.field ∧ (sendDelayReq s d).acq = s.acq ∧ (sendDelayReq s d).logs = s.logs ∧ (sendDelayReq s d).clocks = s.clocks ∧ (sendDelayReq s d).power = s.power ∧ (sendDelayReq s d).pair = s.pair ∧ (sendDelayReq s d).sec = s.sec ∧ (sendDelayReq s d).hw = s.hw ∧ (sendDelayReq s d).nor = s.nor ∧ (sendDelayReq s d).freeCount = s.freeCount := by
  have fr1 := @setDomain_frame; have fr2 := @sendEvent_frame
  unfold sendDelayReq
  simp [fr1, fr2]

theorem transmit_frame (s : State) (d : ℕ) (kind : ℕ) :
    (transmit s d kind).mode = s.mode ∧ (transmit s d kind).start = s.start ∧ (transmit s d kind).zewen = s.zewen ∧ (transmit s d kind).writes = s.writes ∧ (transmit s d kind).image = s.image ∧ (transmit s d kind).reg = s.reg ∧ (transmit s d kind).objs = s.objs ∧ (transmit s d kind).aon = s.aon ∧ (transmit s d kind).net = s.net ∧ (transmit s d kind).plan = s.plan ∧ (transmit s d kind).solver = s.solver ∧ (transmit s d kind).piste = s.piste ∧ (transmit s d kind).prof = s.prof ∧ (transmit s d kind).ctl = s.ctl ∧ (transmit s d kind).sched = s.sched ∧ (transmit s d kind).dsp = s.dsp ∧ (transmit s d kind).sep = s.sep ∧ (transmit s d kind).safety = s.safety ∧ (transmit s d kind).cham = s.cham ∧ (transmit s d kind).field = s.field ∧ (transmit s d kind).acq = s.acq ∧ (transmit s d kind).logs = s.logs ∧ (transmit s d kind).clocks = s.clocks ∧ (transmit s d kind).power = s.power ∧ (transmit s d kind).pair = s.pair ∧ (transmit s d kind).sec = s.sec ∧ (transmit s d kind).hw = s.hw ∧ (transmit s d kind).nor = s.nor ∧ (transmit s d kind).freeCount = s.freeCount := by
  have fr1 := @sendSync_frame; have fr2 := @sendAnnounce_frame; have fr3 := @sendDelayReq_frame
  unfold transmit
  split <;> simp [fr1, fr2, fr3]

theorem sourceLocked_frame (s : State) (source : ℕ) :
    (sourceLocked s source).mode = s.mode ∧ (sourceLocked s source).start = s.start ∧ (sourceLocked s source).writes = s.writes ∧ (sourceLocked s source).image = s.image ∧ (sourceLocked s source).aon = s.aon ∧ (sourceLocked s source).net = s.net ∧ (sourceLocked s source).plan = s.plan ∧ (sourceLocked s source).solver = s.solver ∧ (sourceLocked s source).piste = s.piste ∧ (sourceLocked s source).prof = s.prof ∧ (sourceLocked s source).ctl = s.ctl ∧ (sourceLocked s source).sched = s.sched ∧ (sourceLocked s source).dsp = s.dsp ∧ (sourceLocked s source).sep = s.sep ∧ (sourceLocked s source).safety = s.safety ∧ (sourceLocked s source).cham = s.cham ∧ (sourceLocked s source).field = s.field ∧ (sourceLocked s source).clocks = s.clocks ∧ (sourceLocked s source).power = s.power ∧ (sourceLocked s source).pair = s.pair ∧ (sourceLocked s source).sec = s.sec ∧ (sourceLocked s source).hw = s.hw ∧ (sourceLocked s source).nor = s.nor := by
  have fr1 := @reselect_frame; have fr2 := @setDomain_frame; have fr3 := @withHerd_frame
  unfold sourceLocked
  simp [fr1, fr2, fr3]

theorem takePps_frame (s : State) (stamp : ℕ) :
    (takePps s stamp).mode = s.mode ∧ (takePps s stamp).start = s.start ∧ (takePps s stamp).writes = s.writes ∧ (takePps s stamp).image = s.image ∧ (takePps s stamp).aon = s.aon ∧ (takePps s stamp).net = s.net ∧ (takePps s stamp).plan = s.plan ∧ (takePps s stamp).solver = s.solver ∧ (takePps s stamp).piste = s.piste ∧ (takePps s stamp).prof = s.prof ∧ (takePps s stamp).ctl = s.ctl ∧ (takePps s stamp).sched = s.sched ∧ (takePps s stamp).dsp = s.dsp ∧ (takePps s stamp).sep = s.sep ∧ (takePps s stamp).safety = s.safety ∧ (takePps s stamp).cham = s.cham ∧ (takePps s stamp).field = s.field ∧ (takePps s stamp).clocks = s.clocks ∧ (takePps s stamp).power = s.power ∧ (takePps s stamp).pair = s.pair ∧ (takePps s stamp).sec = s.sec ∧ (takePps s stamp).hw = s.hw ∧ (takePps s stamp).nor = s.nor := by
  have fr1 := @withHerd_frame; have fr2 := @bump_frame; have fr3 := @loseSource_frame; have fr4 := @herdMeasure_frame
  unfold takePps
  simp [fr1, fr2, fr3, fr4]

theorem ppsLost_frame (s : State) :
    (ppsLost s).mode = s.mode ∧ (ppsLost s).start = s.start ∧ (ppsLost s).writes = s.writes ∧ (ppsLost s).image = s.image ∧ (ppsLost s).aon = s.aon ∧ (ppsLost s).net = s.net ∧ (ppsLost s).plan = s.plan ∧ (ppsLost s).solver = s.solver ∧ (ppsLost s).piste = s.piste ∧ (ppsLost s).prof = s.prof ∧ (ppsLost s).ctl = s.ctl ∧ (ppsLost s).sched = s.sched ∧ (ppsLost s).dsp = s.dsp ∧ (ppsLost s).sep = s.sep ∧ (ppsLost s).safety = s.safety ∧ (ppsLost s).cham = s.cham ∧ (ppsLost s).field = s.field ∧ (ppsLost s).clocks = s.clocks ∧ (ppsLost s).power = s.power ∧ (ppsLost s).pair = s.pair ∧ (ppsLost s).sec = s.sec ∧ (ppsLost s).hw = s.hw ∧ (ppsLost s).nor = s.nor := by
  have fr1 := @withHerd_frame; have fr2 := @loseSource_frame
  unfold ppsLost
  simp [fr1, fr2]

theorem ppsEdge_frame (s : State) (capture : ℕ) :
    (ppsEdge s capture).mode = s.mode ∧ (ppsEdge s capture).start = s.start ∧ (ppsEdge s capture).writes = s.writes ∧ (ppsEdge s capture).image = s.image ∧ (ppsEdge s capture).aon = s.aon ∧ (ppsEdge s capture).net = s.net ∧ (ppsEdge s capture).plan = s.plan ∧ (ppsEdge s capture).solver = s.solver ∧ (ppsEdge s capture).piste = s.piste ∧ (ppsEdge s capture).prof = s.prof ∧ (ppsEdge s capture).ctl = s.ctl ∧ (ppsEdge s capture).sched = s.sched ∧ (ppsEdge s capture).dsp = s.dsp ∧ (ppsEdge s capture).sep = s.sep ∧ (ppsEdge s capture).safety = s.safety ∧ (ppsEdge s capture).cham = s.cham ∧ (ppsEdge s capture).field = s.field ∧ (ppsEdge s capture).clocks = s.clocks ∧ (ppsEdge s capture).power = s.power ∧ (ppsEdge s capture).pair = s.pair ∧ (ppsEdge s capture).sec = s.sec ∧ (ppsEdge s capture).hw = s.hw ∧ (ppsEdge s capture).nor = s.nor := by
  have fr1 := @takePps_frame; have fr2 := @ppsLost_frame
  unfold ppsEdge
  simp [fr1, fr2]

theorem pairExchange_frame (s : State) (send : ℕ) (receive : ℕ) (reply : ℕ) (arrive : ℕ) :
    (pairExchange s send receive reply arrive).mode = s.mode ∧ (pairExchange s send receive reply arrive).start = s.start ∧ (pairExchange s send receive reply arrive).zewen = s.zewen ∧ (pairExchange s send receive reply arrive).writes = s.writes ∧ (pairExchange s send receive reply arrive).image = s.image ∧ (pairExchange s send receive reply arrive).reg = s.reg ∧ (pairExchange s send receive reply arrive).objs = s.objs ∧ (pairExchange s send receive reply arrive).aon = s.aon ∧ (pairExchange s send receive reply arrive).net = s.net ∧ (pairExchange s send receive reply arrive).plan = s.plan ∧ (pairExchange s send receive reply arrive).solver = s.solver ∧ (pairExchange s send receive reply arrive).piste = s.piste ∧ (pairExchange s send receive reply arrive).prof = s.prof ∧ (pairExchange s send receive reply arrive).ctl = s.ctl ∧ (pairExchange s send receive reply arrive).sched = s.sched ∧ (pairExchange s send receive reply arrive).dsp = s.dsp ∧ (pairExchange s send receive reply arrive).sep = s.sep ∧ (pairExchange s send receive reply arrive).safety = s.safety ∧ (pairExchange s send receive reply arrive).cham = s.cham ∧ (pairExchange s send receive reply arrive).field = s.field ∧ (pairExchange s send receive reply arrive).acq = s.acq ∧ (pairExchange s send receive reply arrive).logs = s.logs ∧ (pairExchange s send receive reply arrive).clocks = s.clocks ∧ (pairExchange s send receive reply arrive).power = s.power ∧ (pairExchange s send receive reply arrive).pair = s.pair ∧ (pairExchange s send receive reply arrive).sec = s.sec ∧ (pairExchange s send receive reply arrive).hw = s.hw ∧ (pairExchange s send receive reply arrive).nor = s.nor ∧ (pairExchange s send receive reply arrive).freeCount = s.freeCount := by
  have fr1 := @herdMeasure_frame
  unfold pairExchange
  simp [fr1]

/-! ### Separation -/

theorem withSep_frame (s : State) (f : SepState → SepState) :
    (withSep s f).mode = s.mode ∧ (withSep s f).start = s.start ∧ (withSep s f).zewen = s.zewen ∧ (withSep s f).writes = s.writes ∧ (withSep s f).image = s.image ∧ (withSep s f).reg = s.reg ∧ (withSep s f).objs = s.objs ∧ (withSep s f).herd = s.herd ∧ (withSep s f).aon = s.aon ∧ (withSep s f).net = s.net ∧ (withSep s f).plan = s.plan ∧ (withSep s f).solver = s.solver ∧ (withSep s f).piste = s.piste ∧ (withSep s f).prof = s.prof ∧ (withSep s f).ctl = s.ctl ∧ (withSep s f).sched = s.sched ∧ (withSep s f).dsp = s.dsp ∧ (withSep s f).safety = s.safety ∧ (withSep s f).cham = s.cham ∧ (withSep s f).field = s.field ∧ (withSep s f).acq = s.acq ∧ (withSep s f).logs = s.logs ∧ (withSep s f).clocks = s.clocks ∧ (withSep s f).power = s.power ∧ (withSep s f).pair = s.pair ∧ (withSep s f).sec = s.sec ∧ (withSep s f).hw = s.hw ∧ (withSep s f).nor = s.nor ∧ (withSep s f).freeCount = s.freeCount := by
  unfold withSep
  simp

theorem setSafeCh_frame (s : State) (chamois : Bool) (f : Channel2 → Channel2) :
    (setSafeCh s chamois f).mode = s.mode ∧ (setSafeCh s chamois f).start = s.start ∧ (setSafeCh s chamois f).zewen = s.zewen ∧ (setSafeCh s chamois f).writes = s.writes ∧ (setSafeCh s chamois f).image = s.image ∧ (setSafeCh s chamois f).reg = s.reg ∧ (setSafeCh s chamois f).objs = s.objs ∧ (setSafeCh s chamois f).herd = s.herd ∧ (setSafeCh s chamois f).aon = s.aon ∧ (setSafeCh s chamois f).net = s.net ∧ (setSafeCh s chamois f).plan = s.plan ∧ (setSafeCh s chamois f).solver = s.solver ∧ (setSafeCh s chamois f).piste = s.piste ∧ (setSafeCh s chamois f).prof = s.prof ∧ (setSafeCh s chamois f).ctl = s.ctl ∧ (setSafeCh s chamois f).sched = s.sched ∧ (setSafeCh s chamois f).dsp = s.dsp ∧ (setSafeCh s chamois f).sep = s.sep ∧ (setSafeCh s chamois f).cham = s.cham ∧ (setSafeCh s chamois f).field = s.field ∧ (setSafeCh s chamois f).acq = s.acq ∧ (setSafeCh s chamois f).logs = s.logs ∧ (setSafeCh s chamois f).clocks = s.clocks ∧ (setSafeCh s chamois f).power = s.power ∧ (setSafeCh s chamois f).pair = s.pair ∧ (setSafeCh s chamois f).sec = s.sec ∧ (setSafeCh s chamois f).hw = s.hw ∧ (setSafeCh s chamois f).nor = s.nor ∧ (setSafeCh s chamois f).freeCount = s.freeCount := by
  unfold setSafeCh
  simp

theorem setArmStop_frame (s : State) (chamois : Bool) (a : ℕ) (f : ArmStop → ArmStop) :
    (setArmStop s chamois a f).mode = s.mode ∧ (setArmStop s chamois a f).start = s.start ∧ (setArmStop s chamois a f).zewen = s.zewen ∧ (setArmStop s chamois a f).writes = s.writes ∧ (setArmStop s chamois a f).image = s.image ∧ (setArmStop s chamois a f).reg = s.reg ∧ (setArmStop s chamois a f).objs = s.objs ∧ (setArmStop s chamois a f).herd = s.herd ∧ (setArmStop s chamois a f).aon = s.aon ∧ (setArmStop s chamois a f).net = s.net ∧ (setArmStop s chamois a f).plan = s.plan ∧ (setArmStop s chamois a f).solver = s.solver ∧ (setArmStop s chamois a f).piste = s.piste ∧ (setArmStop s chamois a f).prof = s.prof ∧ (setArmStop s chamois a f).ctl = s.ctl ∧ (setArmStop s chamois a f).sched = s.sched ∧ (setArmStop s chamois a f).dsp = s.dsp ∧ (setArmStop s chamois a f).sep = s.sep ∧ (setArmStop s chamois a f).cham = s.cham ∧ (setArmStop s chamois a f).field = s.field ∧ (setArmStop s chamois a f).acq = s.acq ∧ (setArmStop s chamois a f).logs = s.logs ∧ (setArmStop s chamois a f).clocks = s.clocks ∧ (setArmStop s chamois a f).power = s.power ∧ (setArmStop s chamois a f).pair = s.pair ∧ (setArmStop s chamois a f).sec = s.sec ∧ (setArmStop s chamois a f).hw = s.hw ∧ (setArmStop s chamois a f).nor = s.nor ∧ (setArmStop s chamois a f).freeCount = s.freeCount := by
  have fr1 := @setSafeCh_frame
  unfold setArmStop
  simp [fr1]

theorem takeStop_frame (s : State) (chamois : Bool) (a : ℕ) (st : StopState) :
    (takeStop s chamois a st).mode = s.mode ∧ (takeStop s chamois a st).start = s.start ∧ (takeStop s chamois a st).writes = s.writes ∧ (takeStop s chamois a st).image = s.image ∧ (takeStop s chamois a st).herd = s.herd ∧ (takeStop s chamois a st).aon = s.aon ∧ (takeStop s chamois a st).net = s.net ∧ (takeStop s chamois a st).plan = s.plan ∧ (takeStop s chamois a st).solver = s.solver ∧ (takeStop s chamois a st).piste = s.piste ∧ (takeStop s chamois a st).prof = s.prof ∧ (takeStop s chamois a st).ctl = s.ctl ∧ (takeStop s chamois a st).sched = s.sched ∧ (takeStop s chamois a st).dsp = s.dsp ∧ (takeStop s chamois a st).sep = s.sep ∧ (takeStop s chamois a st).cham = s.cham ∧ (takeStop s chamois a st).field = s.field ∧ (takeStop s chamois a st).clocks = s.clocks ∧ (takeStop s chamois a st).power = s.power ∧ (takeStop s chamois a st).pair = s.pair ∧ (takeStop s chamois a st).sec = s.sec ∧ (takeStop s chamois a st).hw = s.hw ∧ (takeStop s chamois a st).nor = s.nor := by
  have fr1 := @setArmStop_frame; have fr2 := @setInt_frame; have fr3 := @log_frame
  unfold takeStop
  simp [fr1, fr2, fr3]

theorem chamoisLatch_frame (s : State) (w : Word) :
    (chamoisLatch s w).mode = s.mode ∧ (chamoisLatch s w).start = s.start ∧ (chamoisLatch s w).zewen = s.zewen ∧ (chamoisLatch s w).writes = s.writes ∧ (chamoisLatch s w).image = s.image ∧ (chamoisLatch s w).reg = s.reg ∧ (chamoisLatch s w).objs = s.objs ∧ (chamoisLatch s w).herd = s.herd ∧ (chamoisLatch s w).aon = s.aon ∧ (chamoisLatch s w).net = s.net ∧ (chamoisLatch s w).plan = s.plan ∧ (chamoisLatch s w).solver = s.solver ∧ (chamoisLatch s w).piste = s.piste ∧ (chamoisLatch s w).prof = s.prof ∧ (chamoisLatch s w).ctl = s.ctl ∧ (chamoisLatch s w).sched = s.sched ∧ (chamoisLatch s w).dsp = s.dsp ∧ (chamoisLatch s w).sep = s.sep ∧ (chamoisLatch s w).safety = s.safety ∧ (chamoisLatch s w).field = s.field ∧ (chamoisLatch s w).acq = s.acq ∧ (chamoisLatch s w).logs = s.logs ∧ (chamoisLatch s w).clocks = s.clocks ∧ (chamoisLatch s w).power = s.power ∧ (chamoisLatch s w).pair = s.pair ∧ (chamoisLatch s w).sec = s.sec ∧ (chamoisLatch s w).hw = s.hw ∧ (chamoisLatch s w).nor = s.nor ∧ (chamoisLatch s w).freeCount = s.freeCount := by
  unfold chamoisLatch
  simp

theorem separationStep_frame (s : State) :
    (separationStep s).mode = s.mode ∧ (separationStep s).start = s.start ∧ (separationStep s).zewen = s.zewen ∧ (separationStep s).writes = s.writes ∧ (separationStep s).image = s.image ∧ (separationStep s).reg = s.reg ∧ (separationStep s).herd = s.herd ∧ (separationStep s).aon = s.aon ∧ (separationStep s).net = s.net ∧ (separationStep s).plan = s.plan ∧ (separationStep s).solver = s.solver ∧ (separationStep s).piste = s.piste ∧ (separationStep s).prof = s.prof ∧ (separationStep s).ctl = s.ctl ∧ (separationStep s).sched = s.sched ∧ (separationStep s).dsp = s.dsp ∧ (separationStep s).safety = s.safety ∧ (separationStep s).cham = s.cham ∧ (separationStep s).field = s.field ∧ (separationStep s).acq = s.acq ∧ (separationStep s).logs = s.logs ∧ (separationStep s).clocks = s.clocks ∧ (separationStep s).power = s.power ∧ (separationStep s).pair = s.pair ∧ (separationStep s).sec = s.sec ∧ (separationStep s).hw = s.hw ∧ (separationStep s).nor = s.nor := by
  have fr1 := @withSep_frame; have fr2 := @bumpN_frame
  unfold separationStep
  simp [fr1, fr2]

theorem demand_frame (s : State) (chamois : Bool) (a : ℕ) (d : SepDemand) :
    (demand s chamois a d).mode = s.mode ∧ (demand s chamois a d).start = s.start ∧ (demand s chamois a d).zewen = s.zewen ∧ (demand s chamois a d).writes = s.writes ∧ (demand s chamois a d).image = s.image ∧ (demand s chamois a d).reg = s.reg ∧ (demand s chamois a d).objs = s.objs ∧ (demand s chamois a d).herd = s.herd ∧ (demand s chamois a d).aon = s.aon ∧ (demand s chamois a d).net = s.net ∧ (demand s chamois a d).plan = s.plan ∧ (demand s chamois a d).solver = s.solver ∧ (demand s chamois a d).piste = s.piste ∧ (demand s chamois a d).prof = s.prof ∧ (demand s chamois a d).ctl = s.ctl ∧ (demand s chamois a d).sched = s.sched ∧ (demand s chamois a d).dsp = s.dsp ∧ (demand s chamois a d).safety = s.safety ∧ (demand s chamois a d).cham = s.cham ∧ (demand s chamois a d).field = s.field ∧ (demand s chamois a d).acq = s.acq ∧ (demand s chamois a d).logs = s.logs ∧ (demand s chamois a d).clocks = s.clocks ∧ (demand s chamois a d).power = s.power ∧ (demand s chamois a d).pair = s.pair ∧ (demand s chamois a d).sec = s.sec ∧ (demand s chamois a d).hw = s.hw ∧ (demand s chamois a d).nor = s.nor ∧ (demand s chamois a d).freeCount = s.freeCount := by
  have fr1 := @withSep_frame
  unfold demand
  simp [fr1]

theorem violate_frame (s : State) (chamois : Bool) (a : ℕ) :
    (violate s chamois a).writes = s.writes ∧ (violate s chamois a).image = s.image ∧ (violate s chamois a).herd = s.herd ∧ (violate s chamois a).net = s.net ∧ (violate s chamois a).plan = s.plan ∧ (violate s chamois a).solver = s.solver ∧ (violate s chamois a).piste = s.piste ∧ (violate s chamois a).prof = s.prof ∧ (violate s chamois a).ctl = s.ctl ∧ (violate s chamois a).sched = s.sched ∧ (violate s chamois a).dsp = s.dsp ∧ (violate s chamois a).sep = s.sep ∧ (violate s chamois a).field = s.field ∧ (violate s chamois a).clocks = s.clocks ∧ (violate s chamois a).power = s.power ∧ (violate s chamois a).pair = s.pair ∧ (violate s chamois a).sec = s.sec ∧ (violate s chamois a).hw = s.hw := by
  have fr1 := @bump_frame; have fr2 := @setArmStop_frame; have fr3 := @chamoisLatch_frame; have fr4 := @faultError_frame
  unfold violate
  simp [fr1, fr2, fr3, fr4]

theorem monitorArm_frame (chamois : Bool) (rs : List SepResult) (s : State) (a : ℕ) :
    (monitorArm chamois rs s a).writes = s.writes ∧ (monitorArm chamois rs s a).image = s.image ∧ (monitorArm chamois rs s a).herd = s.herd ∧ (monitorArm chamois rs s a).net = s.net ∧ (monitorArm chamois rs s a).plan = s.plan ∧ (monitorArm chamois rs s a).solver = s.solver ∧ (monitorArm chamois rs s a).piste = s.piste ∧ (monitorArm chamois rs s a).prof = s.prof ∧ (monitorArm chamois rs s a).ctl = s.ctl ∧ (monitorArm chamois rs s a).sched = s.sched ∧ (monitorArm chamois rs s a).dsp = s.dsp ∧ (monitorArm chamois rs s a).sep = s.sep ∧ (monitorArm chamois rs s a).field = s.field ∧ (monitorArm chamois rs s a).clocks = s.clocks ∧ (monitorArm chamois rs s a).power = s.power ∧ (monitorArm chamois rs s a).pair = s.pair ∧ (monitorArm chamois rs s a).sec = s.sec ∧ (monitorArm chamois rs s a).hw = s.hw := by
  have fr1 := @setArmStop_frame; have fr2 := @violate_frame; have fr3 := @takeStop_frame
  unfold monitorArm
  dsimp only
  (repeat' split) <;> simp [fr1, fr2, fr3]

theorem channelResult_frame (s : State) (chamois : Bool) (rs : List SepResult) :
    (channelResult s chamois rs).writes = s.writes ∧ (channelResult s chamois rs).image = s.image ∧ (channelResult s chamois rs).herd = s.herd ∧ (channelResult s chamois rs).net = s.net ∧ (channelResult s chamois rs).plan = s.plan ∧ (channelResult s chamois rs).solver = s.solver ∧ (channelResult s chamois rs).piste = s.piste ∧ (channelResult s chamois rs).prof = s.prof ∧ (channelResult s chamois rs).ctl = s.ctl ∧ (channelResult s chamois rs).sched = s.sched ∧ (channelResult s chamois rs).dsp = s.dsp ∧ (channelResult s chamois rs).field = s.field ∧ (channelResult s chamois rs).clocks = s.clocks ∧ (channelResult s chamois rs).power = s.power ∧ (channelResult s chamois rs).pair = s.pair ∧ (channelResult s chamois rs).sec = s.sec ∧ (channelResult s chamois rs).hw = s.hw := by
  have fr1 := @demand_frame; have fr2 := @monitorArm_frame
  unfold channelResult
  simp [fr1, fr2]

theorem diversity_frame (s : State) (arms : List ℕ) (ps : List SepResult) (cs : List SepResult) :
    (diversity s arms ps cs).writes = s.writes ∧ (diversity s arms ps cs).image = s.image ∧ (diversity s arms ps cs).herd = s.herd ∧ (diversity s arms ps cs).net = s.net ∧ (diversity s arms ps cs).plan = s.plan ∧ (diversity s arms ps cs).solver = s.solver ∧ (diversity s arms ps cs).piste = s.piste ∧ (diversity s arms ps cs).prof = s.prof ∧ (diversity s arms ps cs).ctl = s.ctl ∧ (diversity s arms ps cs).sched = s.sched ∧ (diversity s arms ps cs).dsp = s.dsp ∧ (diversity s arms ps cs).sep = s.sep ∧ (diversity s arms ps cs).safety = s.safety ∧ (diversity s arms ps cs).cham = s.cham ∧ (diversity s arms ps cs).field = s.field ∧ (diversity s arms ps cs).clocks = s.clocks ∧ (diversity s arms ps cs).power = s.power ∧ (diversity s arms ps cs).pair = s.pair ∧ (diversity s arms ps cs).sec = s.sec ∧ (diversity s arms ps cs).hw = s.hw := by
  have fr1 := @bumpN_frame; have fr2 := @faultError_frame
  unfold diversity
  simp [fr1, fr2]

theorem combineArm_frame (ps : List SepResult) (cs : List SepResult) (s : State) (a : ℕ) :
    (combineArm ps cs s a).mode = s.mode ∧ (combineArm ps cs s a).start = s.start ∧ (combineArm ps cs s a).zewen = s.zewen ∧ (combineArm ps cs s a).writes = s.writes ∧ (combineArm ps cs s a).image = s.image ∧ (combineArm ps cs s a).reg = s.reg ∧ (combineArm ps cs s a).objs = s.objs ∧ (combineArm ps cs s a).herd = s.herd ∧ (combineArm ps cs s a).aon = s.aon ∧ (combineArm ps cs s a).net = s.net ∧ (combineArm ps cs s a).plan = s.plan ∧ (combineArm ps cs s a).solver = s.solver ∧ (combineArm ps cs s a).piste = s.piste ∧ (combineArm ps cs s a).prof = s.prof ∧ (combineArm ps cs s a).ctl = s.ctl ∧ (combineArm ps cs s a).sched = s.sched ∧ (combineArm ps cs s a).dsp = s.dsp ∧ (combineArm ps cs s a).safety = s.safety ∧ (combineArm ps cs s a).cham = s.cham ∧ (combineArm ps cs s a).field = s.field ∧ (combineArm ps cs s a).acq = s.acq ∧ (combineArm ps cs s a).logs = s.logs ∧ (combineArm ps cs s a).clocks = s.clocks ∧ (combineArm ps cs s a).power = s.power ∧ (combineArm ps cs s a).pair = s.pair ∧ (combineArm ps cs s a).sec = s.sec ∧ (combineArm ps cs s a).hw = s.hw ∧ (combineArm ps cs s a).nor = s.nor ∧ (combineArm ps cs s a).freeCount = s.freeCount := by
  have fr1 := @withSep_frame
  unfold combineArm
  simp [fr1]

theorem combine_frame (s : State) :
    (combine s).writes = s.writes ∧ (combine s).image = s.image ∧ (combine s).herd = s.herd ∧ (combine s).net = s.net ∧ (combine s).plan = s.plan ∧ (combine s).solver = s.solver ∧ (combine s).piste = s.piste ∧ (combine s).prof = s.prof ∧ (combine s).ctl = s.ctl ∧ (combine s).sched = s.sched ∧ (combine s).dsp = s.dsp ∧ (combine s).safety = s.safety ∧ (combine s).cham = s.cham ∧ (combine s).field = s.field ∧ (combine s).clocks = s.clocks ∧ (combine s).power = s.power ∧ (combine s).pair = s.pair ∧ (combine s).sec = s.sec ∧ (combine s).hw = s.hw := by
  have fr1 := @withSep_frame; have fr2 := @diversity_frame; have fr3 := @combineArm_frame; have fr4 := @bump_frame
  unfold combine
  simp [fr1, fr2, fr3, fr4]

/-! ### Sched -/

theorem withSched_frame (s : State) (f : SchedState → SchedState) :
    (withSched s f).mode = s.mode ∧ (withSched s f).start = s.start ∧ (withSched s f).zewen = s.zewen ∧ (withSched s f).writes = s.writes ∧ (withSched s f).image = s.image ∧ (withSched s f).reg = s.reg ∧ (withSched s f).objs = s.objs ∧ (withSched s f).herd = s.herd ∧ (withSched s f).aon = s.aon ∧ (withSched s f).net = s.net ∧ (withSched s f).plan = s.plan ∧ (withSched s f).solver = s.solver ∧ (withSched s f).piste = s.piste ∧ (withSched s f).prof = s.prof ∧ (withSched s f).ctl = s.ctl ∧ (withSched s f).dsp = s.dsp ∧ (withSched s f).sep = s.sep ∧ (withSched s f).safety = s.safety ∧ (withSched s f).cham = s.cham ∧ (withSched s f).field = s.field ∧ (withSched s f).acq = s.acq ∧ (withSched s f).logs = s.logs ∧ (withSched s f).clocks = s.clocks ∧ (withSched s f).power = s.power ∧ (withSched s f).pair = s.pair ∧ (withSched s f).sec = s.sec ∧ (withSched s f).hw = s.hw ∧ (withSched s f).nor = s.nor ∧ (withSched s f).freeCount = s.freeCount := by
  unfold withSched
  simp

theorem loopsStop_frame (s : State) :
    (loopsStop s).mode = s.mode ∧ (loopsStop s).start = s.start ∧ (loopsStop s).zewen = s.zewen ∧ (loopsStop s).writes = s.writes ∧ (loopsStop s).image = s.image ∧ (loopsStop s).reg = s.reg ∧ (loopsStop s).objs = s.objs ∧ (loopsStop s).herd = s.herd ∧ (loopsStop s).aon = s.aon ∧ (loopsStop s).net = s.net ∧ (loopsStop s).plan = s.plan ∧ (loopsStop s).solver = s.solver ∧ (loopsStop s).piste = s.piste ∧ (loopsStop s).prof = s.prof ∧ (loopsStop s).dsp = s.dsp ∧ (loopsStop s).sep = s.sep ∧ (loopsStop s).safety = s.safety ∧ (loopsStop s).cham = s.cham ∧ (loopsStop s).field = s.field ∧ (loopsStop s).acq = s.acq ∧ (loopsStop s).logs = s.logs ∧ (loopsStop s).clocks = s.clocks ∧ (loopsStop s).power = s.power ∧ (loopsStop s).pair = s.pair ∧ (loopsStop s).sec = s.sec ∧ (loopsStop s).hw = s.hw ∧ (loopsStop s).nor = s.nor ∧ (loopsStop s).freeCount = s.freeCount := by
  have fr1 := @withSched_frame
  unfold loopsStop
  simp [fr1]

theorem updEntry_frame (s : State) (i : ℕ) (tag : ℕ) (f : Instance → Instance) :
    (updEntry s i tag f).mode = s.mode ∧ (updEntry s i tag f).start = s.start ∧ (updEntry s i tag f).zewen = s.zewen ∧ (updEntry s i tag f).writes = s.writes ∧ (updEntry s i tag f).image = s.image ∧ (updEntry s i tag f).reg = s.reg ∧ (updEntry s i tag f).objs = s.objs ∧ (updEntry s i tag f).herd = s.herd ∧ (updEntry s i tag f).aon = s.aon ∧ (updEntry s i tag f).net = s.net ∧ (updEntry s i tag f).plan = s.plan ∧ (updEntry s i tag f).solver = s.solver ∧ (updEntry s i tag f).piste = s.piste ∧ (updEntry s i tag f).prof = s.prof ∧ (updEntry s i tag f).ctl = s.ctl ∧ (updEntry s i tag f).dsp = s.dsp ∧ (updEntry s i tag f).sep = s.sep ∧ (updEntry s i tag f).safety = s.safety ∧ (updEntry s i tag f).cham = s.cham ∧ (updEntry s i tag f).field = s.field ∧ (updEntry s i tag f).acq = s.acq ∧ (updEntry s i tag f).logs = s.logs ∧ (updEntry s i tag f).clocks = s.clocks ∧ (updEntry s i tag f).power = s.power ∧ (updEntry s i tag f).pair = s.pair ∧ (updEntry s i tag f).sec = s.sec ∧ (updEntry s i tag f).hw = s.hw ∧ (updEntry s i tag f).nor = s.nor ∧ (updEntry s i tag f).freeCount = s.freeCount := by
  have fr1 := @withSched_frame
  unfold updEntry
  simp [fr1]

theorem allocate_frame (s : State) (x : Instance) :
    (allocate s x).mode = s.mode ∧ (allocate s x).start = s.start ∧ (allocate s x).zewen = s.zewen ∧ (allocate s x).writes = s.writes ∧ (allocate s x).image = s.image ∧ (allocate s x).reg = s.reg ∧ (allocate s x).objs = s.objs ∧ (allocate s x).herd = s.herd ∧ (allocate s x).aon = s.aon ∧ (allocate s x).net = s.net ∧ (allocate s x).plan = s.plan ∧ (allocate s x).solver = s.solver ∧ (allocate s x).piste = s.piste ∧ (allocate s x).prof = s.prof ∧ (allocate s x).ctl = s.ctl ∧ (allocate s x).dsp = s.dsp ∧ (allocate s x).sep = s.sep ∧ (allocate s x).safety = s.safety ∧ (allocate s x).cham = s.cham ∧ (allocate s x).field = s.field ∧ (allocate s x).acq = s.acq ∧ (allocate s x).logs = s.logs ∧ (allocate s x).clocks = s.clocks ∧ (allocate s x).power = s.power ∧ (allocate s x).pair = s.pair ∧ (allocate s x).sec = s.sec ∧ (allocate s x).hw = s.hw ∧ (allocate s x).nor = s.nor ∧ (allocate s x).freeCount = s.freeCount := by
  have fr1 := @withSched_frame
  unfold allocate
  simp [fr1]

theorem noteDepths_frame (s : State) :
    (noteDepths s).mode = s.mode ∧ (noteDepths s).start = s.start ∧ (noteDepths s).zewen = s.zewen ∧ (noteDepths s).writes = s.writes ∧ (noteDepths s).image = s.image ∧ (noteDepths s).reg = s.reg ∧ (noteDepths s).objs = s.objs ∧ (noteDepths s).herd = s.herd ∧ (noteDepths s).aon = s.aon ∧ (noteDepths s).net = s.net ∧ (noteDepths s).plan = s.plan ∧ (noteDepths s).solver = s.solver ∧ (noteDepths s).piste = s.piste ∧ (noteDepths s).prof = s.prof ∧ (noteDepths s).ctl = s.ctl ∧ (noteDepths s).dsp = s.dsp ∧ (noteDepths s).sep = s.sep ∧ (noteDepths s).safety = s.safety ∧ (noteDepths s).cham = s.cham ∧ (noteDepths s).field = s.field ∧ (noteDepths s).acq = s.acq ∧ (noteDepths s).logs = s.logs ∧ (noteDepths s).clocks = s.clocks ∧ (noteDepths s).power = s.power ∧ (noteDepths s).pair = s.pair ∧ (noteDepths s).sec = s.sec ∧ (noteDepths s).hw = s.hw ∧ (noteDepths s).nor = s.nor ∧ (noteDepths s).freeCount = s.freeCount := by
  have fr1 := @withSched_frame
  unfold noteDepths
  simp [fr1]

theorem enterOperand_frame (p : Post) (s : State) (i : ℕ) :
    (enterOperand p s i).mode = s.mode ∧ (enterOperand p s i).start = s.start ∧ (enterOperand p s i).zewen = s.zewen ∧ (enterOperand p s i).writes = s.writes ∧ (enterOperand p s i).image = s.image ∧ (enterOperand p s i).reg = s.reg ∧ (enterOperand p s i).herd = s.herd ∧ (enterOperand p s i).aon = s.aon ∧ (enterOperand p s i).net = s.net ∧ (enterOperand p s i).plan = s.plan ∧ (enterOperand p s i).solver = s.solver ∧ (enterOperand p s i).piste = s.piste ∧ (enterOperand p s i).prof = s.prof ∧ (enterOperand p s i).ctl = s.ctl ∧ (enterOperand p s i).dsp = s.dsp ∧ (enterOperand p s i).sep = s.sep ∧ (enterOperand p s i).safety = s.safety ∧ (enterOperand p s i).cham = s.cham ∧ (enterOperand p s i).field = s.field ∧ (enterOperand p s i).acq = s.acq ∧ (enterOperand p s i).logs = s.logs ∧ (enterOperand p s i).clocks = s.clocks ∧ (enterOperand p s i).power = s.power ∧ (enterOperand p s i).pair = s.pair ∧ (enterOperand p s i).sec = s.sec ∧ (enterOperand p s i).hw = s.hw ∧ (enterOperand p s i).nor = s.nor := by
  have fr1 := @updEntry_frame; have fr2 := @bump_frame; have fr3 := @allocate_frame
  unfold enterOperand
  split <;> simp [fr1, fr2, fr3]

theorem keepSoft_frame (s : State) (p : Post) :
    (keepSoft s p).mode = s.mode ∧ (keepSoft s p).start = s.start ∧ (keepSoft s p).zewen = s.zewen ∧ (keepSoft s p).writes = s.writes ∧ (keepSoft s p).image = s.image ∧ (keepSoft s p).reg = s.reg ∧ (keepSoft s p).objs = s.objs ∧ (keepSoft s p).herd = s.herd ∧ (keepSoft s p).aon = s.aon ∧ (keepSoft s p).net = s.net ∧ (keepSoft s p).plan = s.plan ∧ (keepSoft s p).solver = s.solver ∧ (keepSoft s p).piste = s.piste ∧ (keepSoft s p).prof = s.prof ∧ (keepSoft s p).ctl = s.ctl ∧ (keepSoft s p).dsp = s.dsp ∧ (keepSoft s p).sep = s.sep ∧ (keepSoft s p).safety = s.safety ∧ (keepSoft s p).cham = s.cham ∧ (keepSoft s p).field = s.field ∧ (keepSoft s p).acq = s.acq ∧ (keepSoft s p).logs = s.logs ∧ (keepSoft s p).clocks = s.clocks ∧ (keepSoft s p).power = s.power ∧ (keepSoft s p).pair = s.pair ∧ (keepSoft s p).sec = s.sec ∧ (keepSoft s p).hw = s.hw ∧ (keepSoft s p).nor = s.nor ∧ (keepSoft s p).freeCount = s.freeCount := by
  have fr1 := @withSched_frame
  unfold keepSoft
  simp [fr1]

theorem writeOperand_frame (s : State) (p : Post) :
    (writeOperand s p).mode = s.mode ∧ (writeOperand s p).start = s.start ∧ (writeOperand s p).zewen = s.zewen ∧ (writeOperand s p).writes = s.writes ∧ (writeOperand s p).image = s.image ∧ (writeOperand s p).reg = s.reg ∧ (writeOperand s p).herd = s.herd ∧ (writeOperand s p).aon = s.aon ∧ (writeOperand s p).net = s.net ∧ (writeOperand s p).plan = s.plan ∧ (writeOperand s p).solver = s.solver ∧ (writeOperand s p).piste = s.piste ∧ (writeOperand s p).prof = s.prof ∧ (writeOperand s p).ctl = s.ctl ∧ (writeOperand s p).dsp = s.dsp ∧ (writeOperand s p).sep = s.sep ∧ (writeOperand s p).safety = s.safety ∧ (writeOperand s p).cham = s.cham ∧ (writeOperand s p).field = s.field ∧ (writeOperand s p).acq = s.acq ∧ (writeOperand s p).logs = s.logs ∧ (writeOperand s p).clocks = s.clocks ∧ (writeOperand s p).power = s.power ∧ (writeOperand s p).pair = s.pair ∧ (writeOperand s p).sec = s.sec ∧ (writeOperand s p).hw = s.hw ∧ (writeOperand s p).nor = s.nor := by
  have fr1 := @noteDepths_frame; have fr2 := @enterOperand_frame; have fr3 := @keepSoft_frame
  unfold writeOperand
  simp [fr1, fr2, fr3]

theorem takePost_frame (s : State) (p : Post) :
    (takePost s p).mode = s.mode ∧ (takePost s p).start = s.start ∧ (takePost s p).zewen = s.zewen ∧ (takePost s p).writes = s.writes ∧ (takePost s p).image = s.image ∧ (takePost s p).reg = s.reg ∧ (takePost s p).herd = s.herd ∧ (takePost s p).aon = s.aon ∧ (takePost s p).net = s.net ∧ (takePost s p).plan = s.plan ∧ (takePost s p).solver = s.solver ∧ (takePost s p).piste = s.piste ∧ (takePost s p).prof = s.prof ∧ (takePost s p).ctl = s.ctl ∧ (takePost s p).dsp = s.dsp ∧ (takePost s p).sep = s.sep ∧ (takePost s p).safety = s.safety ∧ (takePost s p).cham = s.cham ∧ (takePost s p).field = s.field ∧ (takePost s p).acq = s.acq ∧ (takePost s p).logs = s.logs ∧ (takePost s p).clocks = s.clocks ∧ (takePost s p).power = s.power ∧ (takePost s p).pair = s.pair ∧ (takePost s p).sec = s.sec ∧ (takePost s p).hw = s.hw ∧ (takePost s p).nor = s.nor := by
  have fr1 := @bump_frame; have fr2 := @withSched_frame; have fr3 := @writeOperand_frame
  unfold takePost
  simp [fr1, fr2, fr3]

theorem releaseTimed_frame (s : State) (r : ℕ × ℕ) :
    (releaseTimed s r).mode = s.mode ∧ (releaseTimed s r).start = s.start ∧ (releaseTimed s r).zewen = s.zewen ∧ (releaseTimed s r).writes = s.writes ∧ (releaseTimed s r).image = s.image ∧ (releaseTimed s r).reg = s.reg ∧ (releaseTimed s r).herd = s.herd ∧ (releaseTimed s r).aon = s.aon ∧ (releaseTimed s r).net = s.net ∧ (releaseTimed s r).plan = s.plan ∧ (releaseTimed s r).solver = s.solver ∧ (releaseTimed s r).piste = s.piste ∧ (releaseTimed s r).prof = s.prof ∧ (releaseTimed s r).ctl = s.ctl ∧ (releaseTimed s r).dsp = s.dsp ∧ (releaseTimed s r).sep = s.sep ∧ (releaseTimed s r).safety = s.safety ∧ (releaseTimed s r).cham = s.cham ∧ (releaseTimed s r).field = s.field ∧ (releaseTimed s r).acq = s.acq ∧ (releaseTimed s r).logs = s.logs ∧ (releaseTimed s r).clocks = s.clocks ∧ (releaseTimed s r).power = s.power ∧ (releaseTimed s r).pair = s.pair ∧ (releaseTimed s r).sec = s.sec ∧ (releaseTimed s r).hw = s.hw ∧ (releaseTimed s r).nor = s.nor := by
  have fr1 := @updEntry_frame; have fr2 := @bump_frame; have fr3 := @allocate_frame
  unfold releaseTimed
  split <;> simp [fr1, fr2, fr3]

theorem startTask_frame (s : State) (c : ℕ) (x : Instance) :
    (startTask s c x).mode = s.mode ∧ (startTask s c x).start = s.start ∧ (startTask s c x).zewen = s.zewen ∧ (startTask s c x).writes = s.writes ∧ (startTask s c x).image = s.image ∧ (startTask s c x).reg = s.reg ∧ (startTask s c x).herd = s.herd ∧ (startTask s c x).aon = s.aon ∧ (startTask s c x).net = s.net ∧ (startTask s c x).plan = s.plan ∧ (startTask s c x).solver = s.solver ∧ (startTask s c x).piste = s.piste ∧ (startTask s c x).prof = s.prof ∧ (startTask s c x).ctl = s.ctl ∧ (startTask s c x).dsp = s.dsp ∧ (startTask s c x).sep = s.sep ∧ (startTask s c x).safety = s.safety ∧ (startTask s c x).cham = s.cham ∧ (startTask s c x).field = s.field ∧ (startTask s c x).acq = s.acq ∧ (startTask s c x).logs = s.logs ∧ (startTask s c x).clocks = s.clocks ∧ (startTask s c x).power = s.power ∧ (startTask s c x).pair = s.pair ∧ (startTask s c x).sec = s.sec ∧ (startTask s c x).hw = s.hw ∧ (startTask s c x).nor = s.nor := by
  have fr1 := @withSched_frame; have fr2 := @bump_frame
  unfold startTask
  simp [fr1, fr2]

theorem rollWindow_frame (s : State) :
    (rollWindow s).mode = s.mode ∧ (rollWindow s).start = s.start ∧ (rollWindow s).zewen = s.zewen ∧ (rollWindow s).writes = s.writes ∧ (rollWindow s).image = s.image ∧ (rollWindow s).reg = s.reg ∧ (rollWindow s).objs = s.objs ∧ (rollWindow s).herd = s.herd ∧ (rollWindow s).aon = s.aon ∧ (rollWindow s).net = s.net ∧ (rollWindow s).plan = s.plan ∧ (rollWindow s).solver = s.solver ∧ (rollWindow s).piste = s.piste ∧ (rollWindow s).prof = s.prof ∧ (rollWindow s).ctl = s.ctl ∧ (rollWindow s).dsp = s.dsp ∧ (rollWindow s).sep = s.sep ∧ (rollWindow s).safety = s.safety ∧ (rollWindow s).cham = s.cham ∧ (rollWindow s).field = s.field ∧ (rollWindow s).acq = s.acq ∧ (rollWindow s).logs = s.logs ∧ (rollWindow s).clocks = s.clocks ∧ (rollWindow s).power = s.power ∧ (rollWindow s).pair = s.pair ∧ (rollWindow s).sec = s.sec ∧ (rollWindow s).hw = s.hw ∧ (rollWindow s).nor = s.nor ∧ (rollWindow s).freeCount = s.freeCount := by
  have fr1 := @withSched_frame
  unfold rollWindow
  simp [fr1]

theorem schedActivate_frame (s : State) :
    (schedActivate s).mode = s.mode ∧ (schedActivate s).start = s.start ∧ (schedActivate s).zewen = s.zewen ∧ (schedActivate s).writes = s.writes ∧ (schedActivate s).image = s.image ∧ (schedActivate s).reg = s.reg ∧ (schedActivate s).objs = s.objs ∧ (schedActivate s).herd = s.herd ∧ (schedActivate s).aon = s.aon ∧ (schedActivate s).net = s.net ∧ (schedActivate s).plan = s.plan ∧ (schedActivate s).solver = s.solver ∧ (schedActivate s).piste = s.piste ∧ (schedActivate s).prof = s.prof ∧ (schedActivate s).dsp = s.dsp ∧ (schedActivate s).sep = s.sep ∧ (schedActivate s).safety = s.safety ∧ (schedActivate s).cham = s.cham ∧ (schedActivate s).field = s.field ∧ (schedActivate s).acq = s.acq ∧ (schedActivate s).logs = s.logs ∧ (schedActivate s).clocks = s.clocks ∧ (schedActivate s).power = s.power ∧ (schedActivate s).pair = s.pair ∧ (schedActivate s).sec = s.sec ∧ (schedActivate s).hw = s.hw ∧ (schedActivate s).nor = s.nor ∧ (schedActivate s).freeCount = s.freeCount := by
  have fr1 := @withSched_frame; have fr2 := @loopsStop_frame
  unfold schedActivate
  simp [fr1, fr2]

/-! ### Mirror -/

theorem withPair_frame (s : State) (f : PairState → PairState) :
    (withPair s f).mode = s.mode ∧ (withPair s f).start = s.start ∧ (withPair s f).zewen = s.zewen ∧ (withPair s f).writes = s.writes ∧ (withPair s f).image = s.image ∧ (withPair s f).reg = s.reg ∧ (withPair s f).objs = s.objs ∧ (withPair s f).herd = s.herd ∧ (withPair s f).aon = s.aon ∧ (withPair s f).net = s.net ∧ (withPair s f).plan = s.plan ∧ (withPair s f).solver = s.solver ∧ (withPair s f).piste = s.piste ∧ (withPair s f).prof = s.prof ∧ (withPair s f).ctl = s.ctl ∧ (withPair s f).sched = s.sched ∧ (withPair s f).dsp = s.dsp ∧ (withPair s f).sep = s.sep ∧ (withPair s f).safety = s.safety ∧ (withPair s f).cham = s.cham ∧ (withPair s f).field = s.field ∧ (withPair s f).acq = s.acq ∧ (withPair s f).logs = s.logs ∧ (withPair s f).clocks = s.clocks ∧ (withPair s f).power = s.power ∧ (withPair s f).sec = s.sec ∧ (withPair s f).hw = s.hw ∧ (withPair s f).nor = s.nor ∧ (withPair s f).freeCount = s.freeCount := by
  unfold withPair
  simp

theorem mirrorOut_frame (s : State) (now_ : MirrorSet) :
    (mirrorOut s now_).mode = s.mode ∧ (mirrorOut s now_).start = s.start ∧ (mirrorOut s now_).zewen = s.zewen ∧ (mirrorOut s now_).writes = s.writes ∧ (mirrorOut s now_).image = s.image ∧ (mirrorOut s now_).reg = s.reg ∧ (mirrorOut s now_).objs = s.objs ∧ (mirrorOut s now_).herd = s.herd ∧ (mirrorOut s now_).aon = s.aon ∧ (mirrorOut s now_).net = s.net ∧ (mirrorOut s now_).plan = s.plan ∧ (mirrorOut s now_).solver = s.solver ∧ (mirrorOut s now_).piste = s.piste ∧ (mirrorOut s now_).prof = s.prof ∧ (mirrorOut s now_).ctl = s.ctl ∧ (mirrorOut s now_).sched = s.sched ∧ (mirrorOut s now_).dsp = s.dsp ∧ (mirrorOut s now_).sep = s.sep ∧ (mirrorOut s now_).safety = s.safety ∧ (mirrorOut s now_).cham = s.cham ∧ (mirrorOut s now_).field = s.field ∧ (mirrorOut s now_).acq = s.acq ∧ (mirrorOut s now_).logs = s.logs ∧ (mirrorOut s now_).clocks = s.clocks ∧ (mirrorOut s now_).power = s.power ∧ (mirrorOut s now_).sec = s.sec ∧ (mirrorOut s now_).hw = s.hw ∧ (mirrorOut s now_).nor = s.nor ∧ (mirrorOut s now_).freeCount = s.freeCount := by
  have fr1 := @emit_frame; have fr2 := @withPair_frame
  unfold mirrorOut
  simp [fr1, fr2]

theorem mirrorPiste_frame (s : State) :
    (mirrorPiste s).mode = s.mode ∧ (mirrorPiste s).start = s.start ∧ (mirrorPiste s).zewen = s.zewen ∧ (mirrorPiste s).writes = s.writes ∧ (mirrorPiste s).image = s.image ∧ (mirrorPiste s).reg = s.reg ∧ (mirrorPiste s).objs = s.objs ∧ (mirrorPiste s).herd = s.herd ∧ (mirrorPiste s).aon = s.aon ∧ (mirrorPiste s).net = s.net ∧ (mirrorPiste s).plan = s.plan ∧ (mirrorPiste s).solver = s.solver ∧ (mirrorPiste s).piste = s.piste ∧ (mirrorPiste s).prof = s.prof ∧ (mirrorPiste s).ctl = s.ctl ∧ (mirrorPiste s).sched = s.sched ∧ (mirrorPiste s).dsp = s.dsp ∧ (mirrorPiste s).sep = s.sep ∧ (mirrorPiste s).safety = s.safety ∧ (mirrorPiste s).cham = s.cham ∧ (mirrorPiste s).field = s.field ∧ (mirrorPiste s).acq = s.acq ∧ (mirrorPiste s).logs = s.logs ∧ (mirrorPiste s).clocks = s.clocks ∧ (mirrorPiste s).power = s.power ∧ (mirrorPiste s).sec = s.sec ∧ (mirrorPiste s).hw = s.hw ∧ (mirrorPiste s).nor = s.nor ∧ (mirrorPiste s).freeCount = s.freeCount := by
  have fr1 := @mirrorOut_frame
  unfold mirrorPiste
  simp [fr1]

theorem mirrorSend_frame (s : State) :
    (mirrorSend s).mode = s.mode ∧ (mirrorSend s).start = s.start ∧ (mirrorSend s).zewen = s.zewen ∧ (mirrorSend s).writes = s.writes ∧ (mirrorSend s).image = s.image ∧ (mirrorSend s).reg = s.reg ∧ (mirrorSend s).objs = s.objs ∧ (mirrorSend s).herd = s.herd ∧ (mirrorSend s).aon = s.aon ∧ (mirrorSend s).net = s.net ∧ (mirrorSend s).plan = s.plan ∧ (mirrorSend s).solver = s.solver ∧ (mirrorSend s).piste = s.piste ∧ (mirrorSend s).prof = s.prof ∧ (mirrorSend s).ctl = s.ctl ∧ (mirrorSend s).sched = s.sched ∧ (mirrorSend s).dsp = s.dsp ∧ (mirrorSend s).sep = s.sep ∧ (mirrorSend s).safety = s.safety ∧ (mirrorSend s).cham = s.cham ∧ (mirrorSend s).field = s.field ∧ (mirrorSend s).acq = s.acq ∧ (mirrorSend s).logs = s.logs ∧ (mirrorSend s).clocks = s.clocks ∧ (mirrorSend s).power = s.power ∧ (mirrorSend s).sec = s.sec ∧ (mirrorSend s).hw = s.hw ∧ (mirrorSend s).nor = s.nor ∧ (mirrorSend s).freeCount = s.freeCount := by
  have fr1 := @mirrorOut_frame
  unfold mirrorSend
  simp [fr1]

theorem mirrorImage_frame (s : State) (image : Option Bytes) (activation : Option (Bytes × ℕ)) :
    (mirrorImage s image activation).mode = s.mode ∧ (mirrorImage s image activation).start = s.start ∧ (mirrorImage s image activation).zewen = s.zewen ∧ (mirrorImage s image activation).writes = s.writes ∧ (mirrorImage s image activation).image = s.image ∧ (mirrorImage s image activation).reg = s.reg ∧ (mirrorImage s image activation).objs = s.objs ∧ (mirrorImage s image activation).herd = s.herd ∧ (mirrorImage s image activation).aon = s.aon ∧ (mirrorImage s image activation).net = s.net ∧ (mirrorImage s image activation).plan = s.plan ∧ (mirrorImage s image activation).solver = s.solver ∧ (mirrorImage s image activation).piste = s.piste ∧ (mirrorImage s image activation).prof = s.prof ∧ (mirrorImage s image activation).ctl = s.ctl ∧ (mirrorImage s image activation).sched = s.sched ∧ (mirrorImage s image activation).dsp = s.dsp ∧ (mirrorImage s image activation).sep = s.sep ∧ (mirrorImage s image activation).safety = s.safety ∧ (mirrorImage s image activation).cham = s.cham ∧ (mirrorImage s image activation).field = s.field ∧ (mirrorImage s image activation).acq = s.acq ∧ (mirrorImage s image activation).logs = s.logs ∧ (mirrorImage s image activation).clocks = s.clocks ∧ (mirrorImage s image activation).power = s.power ∧ (mirrorImage s image activation).pair = s.pair ∧ (mirrorImage s image activation).sec = s.sec ∧ (mirrorImage s image activation).hw = s.hw ∧ (mirrorImage s image activation).nor = s.nor ∧ (mirrorImage s image activation).freeCount = s.freeCount := by
  have fr1 := @emit_frame
  unfold mirrorImage
  simp [fr1]

/-! ### Piste -/

theorem withPiste_frame (s : State) (f : PisteState → PisteState) :
    (withPiste s f).mode = s.mode ∧ (withPiste s f).start = s.start ∧ (withPiste s f).zewen = s.zewen ∧ (withPiste s f).writes = s.writes ∧ (withPiste s f).image = s.image ∧ (withPiste s f).reg = s.reg ∧ (withPiste s f).objs = s.objs ∧ (withPiste s f).herd = s.herd ∧ (withPiste s f).aon = s.aon ∧ (withPiste s f).net = s.net ∧ (withPiste s f).plan = s.plan ∧ (withPiste s f).solver = s.solver ∧ (withPiste s f).prof = s.prof ∧ (withPiste s f).ctl = s.ctl ∧ (withPiste s f).sched = s.sched ∧ (withPiste s f).dsp = s.dsp ∧ (withPiste s f).sep = s.sep ∧ (withPiste s f).safety = s.safety ∧ (withPiste s f).cham = s.cham ∧ (withPiste s f).field = s.field ∧ (withPiste s f).acq = s.acq ∧ (withPiste s f).logs = s.logs ∧ (withPiste s f).clocks = s.clocks ∧ (withPiste s f).power = s.power ∧ (withPiste s f).pair = s.pair ∧ (withPiste s f).sec = s.sec ∧ (withPiste s f).hw = s.hw ∧ (withPiste s f).nor = s.nor ∧ (withPiste s f).freeCount = s.freeCount := by
  unfold withPiste
  simp

theorem refuseZone_frame (s : State) (o : Option Origin) (arm : ℕ) (zone : ℕ) (reason : ℕ) (b : Option (ℕ × ℕ × ℕ)) (ends : Bool) :
    (refuseZone s o arm zone reason b ends).mode = s.mode ∧ (refuseZone s o arm zone reason b ends).start = s.start ∧ (refuseZone s o arm zone reason b ends).writes = s.writes ∧ (refuseZone s o arm zone reason b ends).image = s.image ∧ (refuseZone s o arm zone reason b ends).herd = s.herd ∧ (refuseZone s o arm zone reason b ends).aon = s.aon ∧ (refuseZone s o arm zone reason b ends).net = s.net ∧ (refuseZone s o arm zone reason b ends).plan = s.plan ∧ (refuseZone s o arm zone reason b ends).solver = s.solver ∧ (refuseZone s o arm zone reason b ends).piste = s.piste ∧ (refuseZone s o arm zone reason b ends).prof = s.prof ∧ (refuseZone s o arm zone reason b ends).ctl = s.ctl ∧ (refuseZone s o arm zone reason b ends).sched = s.sched ∧ (refuseZone s o arm zone reason b ends).dsp = s.dsp ∧ (refuseZone s o arm zone reason b ends).sep = s.sep ∧ (refuseZone s o arm zone reason b ends).safety = s.safety ∧ (refuseZone s o arm zone reason b ends).cham = s.cham ∧ (refuseZone s o arm zone reason b ends).field = s.field ∧ (refuseZone s o arm zone reason b ends).clocks = s.clocks ∧ (refuseZone s o arm zone reason b ends).power = s.power ∧ (refuseZone s o arm zone reason b ends).pair = s.pair ∧ (refuseZone s o arm zone reason b ends).sec = s.sec ∧ (refuseZone s o arm zone reason b ends).hw = s.hw ∧ (refuseZone s o arm zone reason b ends).nor = s.nor := by
  have fr1 := @trace_frame; have fr2 := @bump_frame; have fr3 := @complete_frame
  unfold refuseZone
  split <;> simp [fr1, fr2, fr3]

theorem pickBlocker_frame (s : State) (bs : List (ℕ × ℕ × ℕ)) :
    ((pickBlocker s bs).1).mode = s.mode ∧ ((pickBlocker s bs).1).start = s.start ∧ ((pickBlocker s bs).1).zewen = s.zewen ∧ ((pickBlocker s bs).1).writes = s.writes ∧ ((pickBlocker s bs).1).image = s.image ∧ ((pickBlocker s bs).1).reg = s.reg ∧ ((pickBlocker s bs).1).objs = s.objs ∧ ((pickBlocker s bs).1).herd = s.herd ∧ ((pickBlocker s bs).1).aon = s.aon ∧ ((pickBlocker s bs).1).net = s.net ∧ ((pickBlocker s bs).1).plan = s.plan ∧ ((pickBlocker s bs).1).solver = s.solver ∧ ((pickBlocker s bs).1).piste = s.piste ∧ ((pickBlocker s bs).1).prof = s.prof ∧ ((pickBlocker s bs).1).ctl = s.ctl ∧ ((pickBlocker s bs).1).sched = s.sched ∧ ((pickBlocker s bs).1).dsp = s.dsp ∧ ((pickBlocker s bs).1).sep = s.sep ∧ ((pickBlocker s bs).1).safety = s.safety ∧ ((pickBlocker s bs).1).cham = s.cham ∧ ((pickBlocker s bs).1).field = s.field ∧ ((pickBlocker s bs).1).acq = s.acq ∧ ((pickBlocker s bs).1).logs = s.logs ∧ ((pickBlocker s bs).1).clocks = s.clocks ∧ ((pickBlocker s bs).1).power = s.power ∧ ((pickBlocker s bs).1).pair = s.pair ∧ ((pickBlocker s bs).1).sec = s.sec ∧ ((pickBlocker s bs).1).hw = s.hw ∧ ((pickBlocker s bs).1).nor = s.nor := by
  unfold pickBlocker
  split <;> simp

theorem refusePending_frame (s : State) (p : ℕ → Bool) (reason : ℕ) :
    (refusePending s p reason).mode = s.mode ∧ (refusePending s p reason).start = s.start ∧ (refusePending s p reason).writes = s.writes ∧ (refusePending s p reason).image = s.image ∧ (refusePending s p reason).herd = s.herd ∧ (refusePending s p reason).aon = s.aon ∧ (refusePending s p reason).net = s.net ∧ (refusePending s p reason).plan = s.plan ∧ (refusePending s p reason).solver = s.solver ∧ (refusePending s p reason).prof = s.prof ∧ (refusePending s p reason).ctl = s.ctl ∧ (refusePending s p reason).sched = s.sched ∧ (refusePending s p reason).dsp = s.dsp ∧ (refusePending s p reason).sep = s.sep ∧ (refusePending s p reason).safety = s.safety ∧ (refusePending s p reason).cham = s.cham ∧ (refusePending s p reason).field = s.field ∧ (refusePending s p reason).clocks = s.clocks ∧ (refusePending s p reason).power = s.power ∧ (refusePending s p reason).pair = s.pair ∧ (refusePending s p reason).sec = s.sec ∧ (refusePending s p reason).hw = s.hw ∧ (refusePending s p reason).nor = s.nor := by
  have fr1 := @withPiste_frame; have fr2 := @refuseZone_frame
  unfold refusePending
  simp [fr1, fr2]

theorem releaseStanding_frame (s : State) (a : ℕ) :
    (releaseStanding s a).mode = s.mode ∧ (releaseStanding s a).start = s.start ∧ (releaseStanding s a).zewen = s.zewen ∧ (releaseStanding s a).writes = s.writes ∧ (releaseStanding s a).image = s.image ∧ (releaseStanding s a).reg = s.reg ∧ (releaseStanding s a).objs = s.objs ∧ (releaseStanding s a).herd = s.herd ∧ (releaseStanding s a).aon = s.aon ∧ (releaseStanding s a).net = s.net ∧ (releaseStanding s a).plan = s.plan ∧ (releaseStanding s a).solver = s.solver ∧ (releaseStanding s a).prof = s.prof ∧ (releaseStanding s a).ctl = s.ctl ∧ (releaseStanding s a).sched = s.sched ∧ (releaseStanding s a).dsp = s.dsp ∧ (releaseStanding s a).sep = s.sep ∧ (releaseStanding s a).safety = s.safety ∧ (releaseStanding s a).cham = s.cham ∧ (releaseStanding s a).field = s.field ∧ (releaseStanding s a).acq = s.acq ∧ (releaseStanding s a).logs = s.logs ∧ (releaseStanding s a).clocks = s.clocks ∧ (releaseStanding s a).power = s.power ∧ (releaseStanding s a).pair = s.pair ∧ (releaseStanding s a).sec = s.sec ∧ (releaseStanding s a).hw = s.hw ∧ (releaseStanding s a).nor = s.nor ∧ (releaseStanding s a).freeCount = s.freeCount := by
  have fr1 := @withPiste_frame
  unfold releaseStanding
  simp [fr1]

theorem keepLeases_frame (s : State) (p : ℕ → Bool) :
    (keepLeases s p).mode = s.mode ∧ (keepLeases s p).start = s.start ∧ (keepLeases s p).zewen = s.zewen ∧ (keepLeases s p).writes = s.writes ∧ (keepLeases s p).image = s.image ∧ (keepLeases s p).reg = s.reg ∧ (keepLeases s p).objs = s.objs ∧ (keepLeases s p).herd = s.herd ∧ (keepLeases s p).aon = s.aon ∧ (keepLeases s p).net = s.net ∧ (keepLeases s p).plan = s.plan ∧ (keepLeases s p).solver = s.solver ∧ (keepLeases s p).prof = s.prof ∧ (keepLeases s p).ctl = s.ctl ∧ (keepLeases s p).sched = s.sched ∧ (keepLeases s p).dsp = s.dsp ∧ (keepLeases s p).sep = s.sep ∧ (keepLeases s p).safety = s.safety ∧ (keepLeases s p).cham = s.cham ∧ (keepLeases s p).field = s.field ∧ (keepLeases s p).acq = s.acq ∧ (keepLeases s p).logs = s.logs ∧ (keepLeases s p).clocks = s.clocks ∧ (keepLeases s p).power = s.power ∧ (keepLeases s p).pair = s.pair ∧ (keepLeases s p).sec = s.sec ∧ (keepLeases s p).hw = s.hw ∧ (keepLeases s p).nor = s.nor ∧ (keepLeases s p).freeCount = s.freeCount := by
  have fr1 := @withPiste_frame; have fr2 := @releaseStanding_frame
  unfold keepLeases
  simp [fr1, fr2]

theorem reissue_frame (s : State) (a : ℕ) :
    (reissue s a).mode = s.mode ∧ (reissue s a).start = s.start ∧ (reissue s a).zewen = s.zewen ∧ (reissue s a).writes = s.writes ∧ (reissue s a).image = s.image ∧ (reissue s a).reg = s.reg ∧ (reissue s a).objs = s.objs ∧ (reissue s a).herd = s.herd ∧ (reissue s a).aon = s.aon ∧ (reissue s a).net = s.net ∧ (reissue s a).plan = s.plan ∧ (reissue s a).solver = s.solver ∧ (reissue s a).prof = s.prof ∧ (reissue s a).ctl = s.ctl ∧ (reissue s a).sched = s.sched ∧ (reissue s a).dsp = s.dsp ∧ (reissue s a).sep = s.sep ∧ (reissue s a).safety = s.safety ∧ (reissue s a).cham = s.cham ∧ (reissue s a).field = s.field ∧ (reissue s a).acq = s.acq ∧ (reissue s a).logs = s.logs ∧ (reissue s a).clocks = s.clocks ∧ (reissue s a).power = s.power ∧ (reissue s a).pair = s.pair ∧ (reissue s a).sec = s.sec ∧ (reissue s a).hw = s.hw ∧ (reissue s a).nor = s.nor ∧ (reissue s a).freeCount = s.freeCount := by
  have fr1 := @withPiste_frame
  unfold reissue
  simp [fr1]

theorem armHold_frame (s : State) (a : ℕ) (w : Word) (c : Cause) :
    (armHold s a w c).start = s.start ∧ (armHold s a w c).writes = s.writes ∧ (armHold s a w c).image = s.image ∧ (armHold s a w c).herd = s.herd ∧ (armHold s a w c).aon = s.aon ∧ (armHold s a w c).net = s.net ∧ (armHold s a w c).plan = s.plan ∧ (armHold s a w c).solver = s.solver ∧ (armHold s a w c).prof = s.prof ∧ (armHold s a w c).ctl = s.ctl ∧ (armHold s a w c).sched = s.sched ∧ (armHold s a w c).dsp = s.dsp ∧ (armHold s a w c).sep = s.sep ∧ (armHold s a w c).safety = s.safety ∧ (armHold s a w c).cham = s.cham ∧ (armHold s a w c).field = s.field ∧ (armHold s a w c).clocks = s.clocks ∧ (armHold s a w c).power = s.power ∧ (armHold s a w c).pair = s.pair ∧ (armHold s a w c).sec = s.sec ∧ (armHold s a w c).hw = s.hw ∧ (armHold s a w c).nor = s.nor := by
  have fr1 := @withMode_frame; have fr2 := @keepLeases_frame; have fr3 := @refusePending_frame
  unfold armHold
  simp [fr1, fr2, fr3]

theorem releaseHold_frame (s : State) (a : ℕ) :
    (releaseHold s a).start = s.start ∧ (releaseHold s a).zewen = s.zewen ∧ (releaseHold s a).writes = s.writes ∧ (releaseHold s a).image = s.image ∧ (releaseHold s a).reg = s.reg ∧ (releaseHold s a).objs = s.objs ∧ (releaseHold s a).herd = s.herd ∧ (releaseHold s a).aon = s.aon ∧ (releaseHold s a).net = s.net ∧ (releaseHold s a).plan = s.plan ∧ (releaseHold s a).solver = s.solver ∧ (releaseHold s a).prof = s.prof ∧ (releaseHold s a).ctl = s.ctl ∧ (releaseHold s a).sched = s.sched ∧ (releaseHold s a).dsp = s.dsp ∧ (releaseHold s a).sep = s.sep ∧ (releaseHold s a).safety = s.safety ∧ (releaseHold s a).cham = s.cham ∧ (releaseHold s a).field = s.field ∧ (releaseHold s a).acq = s.acq ∧ (releaseHold s a).logs = s.logs ∧ (releaseHold s a).clocks = s.clocks ∧ (releaseHold s a).power = s.power ∧ (releaseHold s a).pair = s.pair ∧ (releaseHold s a).sec = s.sec ∧ (releaseHold s a).hw = s.hw ∧ (releaseHold s a).nor = s.nor ∧ (releaseHold s a).freeCount = s.freeCount := by
  have fr1 := @withMode_frame; have fr2 := @reissue_frame
  unfold releaseHold
  simp [fr1, fr2]

theorem pisteHold_frame (s : State) :
    (pisteHold s).mode = s.mode ∧ (pisteHold s).start = s.start ∧ (pisteHold s).writes = s.writes ∧ (pisteHold s).image = s.image ∧ (pisteHold s).herd = s.herd ∧ (pisteHold s).aon = s.aon ∧ (pisteHold s).net = s.net ∧ (pisteHold s).plan = s.plan ∧ (pisteHold s).solver = s.solver ∧ (pisteHold s).prof = s.prof ∧ (pisteHold s).ctl = s.ctl ∧ (pisteHold s).sched = s.sched ∧ (pisteHold s).dsp = s.dsp ∧ (pisteHold s).sep = s.sep ∧ (pisteHold s).safety = s.safety ∧ (pisteHold s).cham = s.cham ∧ (pisteHold s).field = s.field ∧ (pisteHold s).clocks = s.clocks ∧ (pisteHold s).power = s.power ∧ (pisteHold s).pair = s.pair ∧ (pisteHold s).sec = s.sec ∧ (pisteHold s).hw = s.hw ∧ (pisteHold s).nor = s.nor := by
  have fr1 := @keepLeases_frame; have fr2 := @refusePending_frame
  unfold pisteHold
  simp [fr1, fr2]

theorem pisteHoldEnd_frame (s : State) :
    (pisteHoldEnd s).mode = s.mode ∧ (pisteHoldEnd s).start = s.start ∧ (pisteHoldEnd s).zewen = s.zewen ∧ (pisteHoldEnd s).writes = s.writes ∧ (pisteHoldEnd s).image = s.image ∧ (pisteHoldEnd s).reg = s.reg ∧ (pisteHoldEnd s).objs = s.objs ∧ (pisteHoldEnd s).herd = s.herd ∧ (pisteHoldEnd s).aon = s.aon ∧ (pisteHoldEnd s).net = s.net ∧ (pisteHoldEnd s).plan = s.plan ∧ (pisteHoldEnd s).solver = s.solver ∧ (pisteHoldEnd s).prof = s.prof ∧ (pisteHoldEnd s).ctl = s.ctl ∧ (pisteHoldEnd s).sched = s.sched ∧ (pisteHoldEnd s).dsp = s.dsp ∧ (pisteHoldEnd s).sep = s.sep ∧ (pisteHoldEnd s).safety = s.safety ∧ (pisteHoldEnd s).cham = s.cham ∧ (pisteHoldEnd s).field = s.field ∧ (pisteHoldEnd s).acq = s.acq ∧ (pisteHoldEnd s).logs = s.logs ∧ (pisteHoldEnd s).clocks = s.clocks ∧ (pisteHoldEnd s).power = s.power ∧ (pisteHoldEnd s).pair = s.pair ∧ (pisteHoldEnd s).sec = s.sec ∧ (pisteHoldEnd s).hw = s.hw ∧ (pisteHoldEnd s).nor = s.nor ∧ (pisteHoldEnd s).freeCount = s.freeCount := by
  have fr1 := @reissue_frame
  unfold pisteHoldEnd
  simp [fr1]

theorem pisteClear_frame (s : State) :
    (pisteClear s).mode = s.mode ∧ (pisteClear s).start = s.start ∧ (pisteClear s).writes = s.writes ∧ (pisteClear s).image = s.image ∧ (pisteClear s).herd = s.herd ∧ (pisteClear s).aon = s.aon ∧ (pisteClear s).net = s.net ∧ (pisteClear s).plan = s.plan ∧ (pisteClear s).solver = s.solver ∧ (pisteClear s).prof = s.prof ∧ (pisteClear s).ctl = s.ctl ∧ (pisteClear s).sched = s.sched ∧ (pisteClear s).dsp = s.dsp ∧ (pisteClear s).sep = s.sep ∧ (pisteClear s).safety = s.safety ∧ (pisteClear s).cham = s.cham ∧ (pisteClear s).field = s.field ∧ (pisteClear s).clocks = s.clocks ∧ (pisteClear s).power = s.power ∧ (pisteClear s).pair = s.pair ∧ (pisteClear s).sec = s.sec ∧ (pisteClear s).hw = s.hw ∧ (pisteClear s).nor = s.nor := by
  have fr1 := @refusePending_frame; have fr2 := @withPiste_frame
  unfold pisteClear
  simp [fr1, fr2]

theorem zoneRequest_frame (e : Entry) (x1 : Transport) (s : State) :
    (zoneRequest e x1 s).mode = s.mode ∧ (zoneRequest e x1 s).start = s.start ∧ (zoneRequest e x1 s).writes = s.writes ∧ (zoneRequest e x1 s).image = s.image ∧ (zoneRequest e x1 s).herd = s.herd ∧ (zoneRequest e x1 s).aon = s.aon ∧ (zoneRequest e x1 s).net = s.net ∧ (zoneRequest e x1 s).plan = s.plan ∧ (zoneRequest e x1 s).solver = s.solver ∧ (zoneRequest e x1 s).prof = s.prof ∧ (zoneRequest e x1 s).ctl = s.ctl ∧ (zoneRequest e x1 s).sched = s.sched ∧ (zoneRequest e x1 s).dsp = s.dsp ∧ (zoneRequest e x1 s).sep = s.sep ∧ (zoneRequest e x1 s).safety = s.safety ∧ (zoneRequest e x1 s).cham = s.cham ∧ (zoneRequest e x1 s).field = s.field ∧ (zoneRequest e x1 s).clocks = s.clocks ∧ (zoneRequest e x1 s).power = s.power ∧ (zoneRequest e x1 s).pair = s.pair ∧ (zoneRequest e x1 s).sec = s.sec ∧ (zoneRequest e x1 s).hw = s.hw ∧ (zoneRequest e x1 s).nor = s.nor := by
  have fr1 := @complete_frame; have fr2 := @refuseZone_frame; have fr3 := @withPiste_frame
  unfold zoneRequest
  simp [fr1, fr2, fr3]

theorem zoneExtend_frame (e : Entry) (x1 : Transport) (s : State) :
    (zoneExtend e x1 s).mode = s.mode ∧ (zoneExtend e x1 s).start = s.start ∧ (zoneExtend e x1 s).writes = s.writes ∧ (zoneExtend e x1 s).image = s.image ∧ (zoneExtend e x1 s).herd = s.herd ∧ (zoneExtend e x1 s).aon = s.aon ∧ (zoneExtend e x1 s).net = s.net ∧ (zoneExtend e x1 s).plan = s.plan ∧ (zoneExtend e x1 s).solver = s.solver ∧ (zoneExtend e x1 s).prof = s.prof ∧ (zoneExtend e x1 s).ctl = s.ctl ∧ (zoneExtend e x1 s).sched = s.sched ∧ (zoneExtend e x1 s).dsp = s.dsp ∧ (zoneExtend e x1 s).sep = s.sep ∧ (zoneExtend e x1 s).safety = s.safety ∧ (zoneExtend e x1 s).cham = s.cham ∧ (zoneExtend e x1 s).field = s.field ∧ (zoneExtend e x1 s).clocks = s.clocks ∧ (zoneExtend e x1 s).power = s.power ∧ (zoneExtend e x1 s).pair = s.pair ∧ (zoneExtend e x1 s).sec = s.sec ∧ (zoneExtend e x1 s).hw = s.hw ∧ (zoneExtend e x1 s).nor = s.nor := by
  have fr1 := @complete_frame; have fr2 := @withPiste_frame
  unfold zoneExtend
  dsimp only
  split <;> simp [fr1, fr2]

theorem zoneRelease_frame (e : Entry) (x1 : Transport) (s : State) :
    (zoneRelease e x1 s).mode = s.mode ∧ (zoneRelease e x1 s).start = s.start ∧ (zoneRelease e x1 s).writes = s.writes ∧ (zoneRelease e x1 s).image = s.image ∧ (zoneRelease e x1 s).herd = s.herd ∧ (zoneRelease e x1 s).aon = s.aon ∧ (zoneRelease e x1 s).net = s.net ∧ (zoneRelease e x1 s).plan = s.plan ∧ (zoneRelease e x1 s).solver = s.solver ∧ (zoneRelease e x1 s).prof = s.prof ∧ (zoneRelease e x1 s).ctl = s.ctl ∧ (zoneRelease e x1 s).sched = s.sched ∧ (zoneRelease e x1 s).dsp = s.dsp ∧ (zoneRelease e x1 s).sep = s.sep ∧ (zoneRelease e x1 s).safety = s.safety ∧ (zoneRelease e x1 s).cham = s.cham ∧ (zoneRelease e x1 s).field = s.field ∧ (zoneRelease e x1 s).clocks = s.clocks ∧ (zoneRelease e x1 s).power = s.power ∧ (zoneRelease e x1 s).pair = s.pair ∧ (zoneRelease e x1 s).sec = s.sec ∧ (zoneRelease e x1 s).hw = s.hw ∧ (zoneRelease e x1 s).nor = s.nor := by
  have fr1 := @complete_frame; have fr2 := @withPiste_frame
  unfold zoneRelease
  simp [fr1, fr2]

theorem expireLeases_frame (s : State) (t : ℕ) (p : Lease → Bool) :
    (expireLeases s t p).mode = s.mode ∧ (expireLeases s t p).start = s.start ∧ (expireLeases s t p).zewen = s.zewen ∧ (expireLeases s t p).writes = s.writes ∧ (expireLeases s t p).image = s.image ∧ (expireLeases s t p).reg = s.reg ∧ (expireLeases s t p).herd = s.herd ∧ (expireLeases s t p).aon = s.aon ∧ (expireLeases s t p).net = s.net ∧ (expireLeases s t p).plan = s.plan ∧ (expireLeases s t p).solver = s.solver ∧ (expireLeases s t p).prof = s.prof ∧ (expireLeases s t p).ctl = s.ctl ∧ (expireLeases s t p).sched = s.sched ∧ (expireLeases s t p).dsp = s.dsp ∧ (expireLeases s t p).sep = s.sep ∧ (expireLeases s t p).safety = s.safety ∧ (expireLeases s t p).cham = s.cham ∧ (expireLeases s t p).field = s.field ∧ (expireLeases s t p).acq = s.acq ∧ (expireLeases s t p).logs = s.logs ∧ (expireLeases s t p).clocks = s.clocks ∧ (expireLeases s t p).power = s.power ∧ (expireLeases s t p).pair = s.pair ∧ (expireLeases s t p).sec = s.sec ∧ (expireLeases s t p).hw = s.hw ∧ (expireLeases s t p).nor = s.nor := by
  have fr1 := @bump_frame; have fr2 := @withPiste_frame
  unfold expireLeases
  simp [fr1, fr2]

theorem applyRelease_frame (s : State) (id : ℕ) :
    (applyRelease s id).mode = s.mode ∧ (applyRelease s id).start = s.start ∧ (applyRelease s id).zewen = s.zewen ∧ (applyRelease s id).writes = s.writes ∧ (applyRelease s id).image = s.image ∧ (applyRelease s id).reg = s.reg ∧ (applyRelease s id).herd = s.herd ∧ (applyRelease s id).aon = s.aon ∧ (applyRelease s id).net = s.net ∧ (applyRelease s id).plan = s.plan ∧ (applyRelease s id).solver = s.solver ∧ (applyRelease s id).prof = s.prof ∧ (applyRelease s id).ctl = s.ctl ∧ (applyRelease s id).sched = s.sched ∧ (applyRelease s id).dsp = s.dsp ∧ (applyRelease s id).sep = s.sep ∧ (applyRelease s id).safety = s.safety ∧ (applyRelease s id).cham = s.cham ∧ (applyRelease s id).field = s.field ∧ (applyRelease s id).acq = s.acq ∧ (applyRelease s id).logs = s.logs ∧ (applyRelease s id).clocks = s.clocks ∧ (applyRelease s id).power = s.power ∧ (applyRelease s id).pair = s.pair ∧ (applyRelease s id).sec = s.sec ∧ (applyRelease s id).hw = s.hw ∧ (applyRelease s id).nor = s.nor := by
  have fr1 := @bump_frame; have fr2 := @withPiste_frame
  unfold applyRelease
  split <;> simp [fr1, fr2]

theorem grant_frame (s : State) (l0 : Lease) :
    ((grant s l0).1).mode = s.mode ∧ ((grant s l0).1).start = s.start ∧ ((grant s l0).1).writes = s.writes ∧ ((grant s l0).1).image = s.image ∧ ((grant s l0).1).herd = s.herd ∧ ((grant s l0).1).aon = s.aon ∧ ((grant s l0).1).net = s.net ∧ ((grant s l0).1).plan = s.plan ∧ ((grant s l0).1).solver = s.solver ∧ ((grant s l0).1).prof = s.prof ∧ ((grant s l0).1).ctl = s.ctl ∧ ((grant s l0).1).sched = s.sched ∧ ((grant s l0).1).dsp = s.dsp ∧ ((grant s l0).1).sep = s.sep ∧ ((grant s l0).1).safety = s.safety ∧ ((grant s l0).1).cham = s.cham ∧ ((grant s l0).1).field = s.field ∧ ((grant s l0).1).clocks = s.clocks ∧ ((grant s l0).1).power = s.power ∧ ((grant s l0).1).pair = s.pair ∧ ((grant s l0).1).sec = s.sec ∧ ((grant s l0).1).hw = s.hw ∧ ((grant s l0).1).nor = s.nor := by
  have fr1 := @withPiste_frame; have fr2 := @trace_frame; have fr3 := @bump_frame
  unfold grant
  simp [fr1, fr2, fr3]

theorem postLater_frame (s : State) (o : Option Origin) (st : ℕ) (result : Bytes) :
    (postLater s o st result).mode = s.mode ∧ (postLater s o st result).start = s.start ∧ (postLater s o st result).zewen = s.zewen ∧ (postLater s o st result).writes = s.writes ∧ (postLater s o st result).image = s.image ∧ (postLater s o st result).reg = s.reg ∧ (postLater s o st result).objs = s.objs ∧ (postLater s o st result).herd = s.herd ∧ (postLater s o st result).aon = s.aon ∧ (postLater s o st result).net = s.net ∧ (postLater s o st result).plan = s.plan ∧ (postLater s o st result).solver = s.solver ∧ (postLater s o st result).prof = s.prof ∧ (postLater s o st result).ctl = s.ctl ∧ (postLater s o st result).sched = s.sched ∧ (postLater s o st result).dsp = s.dsp ∧ (postLater s o st result).sep = s.sep ∧ (postLater s o st result).safety = s.safety ∧ (postLater s o st result).cham = s.cham ∧ (postLater s o st result).field = s.field ∧ (postLater s o st result).acq = s.acq ∧ (postLater s o st result).logs = s.logs ∧ (postLater s o st result).clocks = s.clocks ∧ (postLater s o st result).power = s.power ∧ (postLater s o st result).pair = s.pair ∧ (postLater s o st result).sec = s.sec ∧ (postLater s o st result).hw = s.hw ∧ (postLater s o st result).nor = s.nor ∧ (postLater s o st result).freeCount = s.freeCount := by
  have fr1 := @withPiste_frame
  unfold postLater
  split <;> simp [fr1]

theorem postDone_frame (s : State) :
    (postDone s).mode = s.mode ∧ (postDone s).start = s.start ∧ (postDone s).writes = s.writes ∧ (postDone s).image = s.image ∧ (postDone s).herd = s.herd ∧ (postDone s).aon = s.aon ∧ (postDone s).net = s.net ∧ (postDone s).plan = s.plan ∧ (postDone s).solver = s.solver ∧ (postDone s).prof = s.prof ∧ (postDone s).ctl = s.ctl ∧ (postDone s).sched = s.sched ∧ (postDone s).dsp = s.dsp ∧ (postDone s).sep = s.sep ∧ (postDone s).safety = s.safety ∧ (postDone s).cham = s.cham ∧ (postDone s).field = s.field ∧ (postDone s).clocks = s.clocks ∧ (postDone s).power = s.power ∧ (postDone s).pair = s.pair ∧ (postDone s).sec = s.sec ∧ (postDone s).hw = s.hw ∧ (postDone s).nor = s.nor := by
  have fr1 := @complete_frame; have fr2 := @withPiste_frame
  unfold postDone
  simp [fr1, fr2]

theorem refuseInPass_frame (s : State) (o : Option Origin) (arm : ℕ) (zone : ℕ) (reason : ℕ) (b : Option (ℕ × ℕ × ℕ)) (ends : Bool) :
    (refuseInPass s o arm zone reason b ends).mode = s.mode ∧ (refuseInPass s o arm zone reason b ends).start = s.start ∧ (refuseInPass s o arm zone reason b ends).writes = s.writes ∧ (refuseInPass s o arm zone reason b ends).image = s.image ∧ (refuseInPass s o arm zone reason b ends).herd = s.herd ∧ (refuseInPass s o arm zone reason b ends).aon = s.aon ∧ (refuseInPass s o arm zone reason b ends).net = s.net ∧ (refuseInPass s o arm zone reason b ends).plan = s.plan ∧ (refuseInPass s o arm zone reason b ends).solver = s.solver ∧ (refuseInPass s o arm zone reason b ends).prof = s.prof ∧ (refuseInPass s o arm zone reason b ends).ctl = s.ctl ∧ (refuseInPass s o arm zone reason b ends).sched = s.sched ∧ (refuseInPass s o arm zone reason b ends).dsp = s.dsp ∧ (refuseInPass s o arm zone reason b ends).sep = s.sep ∧ (refuseInPass s o arm zone reason b ends).safety = s.safety ∧ (refuseInPass s o arm zone reason b ends).cham = s.cham ∧ (refuseInPass s o arm zone reason b ends).field = s.field ∧ (refuseInPass s o arm zone reason b ends).clocks = s.clocks ∧ (refuseInPass s o arm zone reason b ends).power = s.power ∧ (refuseInPass s o arm zone reason b ends).pair = s.pair ∧ (refuseInPass s o arm zone reason b ends).sec = s.sec ∧ (refuseInPass s o arm zone reason b ends).hw = s.hw ∧ (refuseInPass s o arm zone reason b ends).nor = s.nor := by
  have fr1 := @refuseZone_frame; have fr2 := @postLater_frame
  unfold refuseInPass
  simp [fr1, fr2]

theorem completeLease_frame (s : State) (o : Option Origin) (l : Lease) :
    (completeLease s o l).mode = s.mode ∧ (completeLease s o l).start = s.start ∧ (completeLease s o l).zewen = s.zewen ∧ (completeLease s o l).writes = s.writes ∧ (completeLease s o l).image = s.image ∧ (completeLease s o l).reg = s.reg ∧ (completeLease s o l).objs = s.objs ∧ (completeLease s o l).herd = s.herd ∧ (completeLease s o l).aon = s.aon ∧ (completeLease s o l).net = s.net ∧ (completeLease s o l).plan = s.plan ∧ (completeLease s o l).solver = s.solver ∧ (completeLease s o l).prof = s.prof ∧ (completeLease s o l).ctl = s.ctl ∧ (completeLease s o l).sched = s.sched ∧ (completeLease s o l).dsp = s.dsp ∧ (completeLease s o l).sep = s.sep ∧ (completeLease s o l).safety = s.safety ∧ (completeLease s o l).cham = s.cham ∧ (completeLease s o l).field = s.field ∧ (completeLease s o l).acq = s.acq ∧ (completeLease s o l).logs = s.logs ∧ (completeLease s o l).clocks = s.clocks ∧ (completeLease s o l).power = s.power ∧ (completeLease s o l).pair = s.pair ∧ (completeLease s o l).sec = s.sec ∧ (completeLease s o l).hw = s.hw ∧ (completeLease s o l).nor = s.nor ∧ (completeLease s o l).freeCount = s.freeCount := by
  have fr1 := @postLater_frame
  unfold completeLease
  simp [fr1]

theorem judgeExtension_frame (tp : ℕ) (s : State) (x : ZoneExtension) :
    (judgeExtension tp s x).mode = s.mode ∧ (judgeExtension tp s x).start = s.start ∧ (judgeExtension tp s x).writes = s.writes ∧ (judgeExtension tp s x).image = s.image ∧ (judgeExtension tp s x).herd = s.herd ∧ (judgeExtension tp s x).aon = s.aon ∧ (judgeExtension tp s x).net = s.net ∧ (judgeExtension tp s x).plan = s.plan ∧ (judgeExtension tp s x).solver = s.solver ∧ (judgeExtension tp s x).prof = s.prof ∧ (judgeExtension tp s x).ctl = s.ctl ∧ (judgeExtension tp s x).sched = s.sched ∧ (judgeExtension tp s x).dsp = s.dsp ∧ (judgeExtension tp s x).sep = s.sep ∧ (judgeExtension tp s x).safety = s.safety ∧ (judgeExtension tp s x).cham = s.cham ∧ (judgeExtension tp s x).field = s.field ∧ (judgeExtension tp s x).clocks = s.clocks ∧ (judgeExtension tp s x).power = s.power ∧ (judgeExtension tp s x).pair = s.pair ∧ (judgeExtension tp s x).sec = s.sec ∧ (judgeExtension tp s x).hw = s.hw ∧ (judgeExtension tp s x).nor = s.nor := by
  have fr1 := @refuseInPass_frame; have fr2 := @pickBlocker_frame; have fr3 := @completeLease_frame; have fr4 := @withPiste_frame; have fr5 := @grant_frame
  unfold judgeExtension
  dsimp only
  (repeat' split) <;> simp [fr1, fr2, fr3, fr4, fr5]

theorem dropRequest_frame (s : State) (r : ZoneRequest) :
    (dropRequest s r).mode = s.mode ∧ (dropRequest s r).start = s.start ∧ (dropRequest s r).zewen = s.zewen ∧ (dropRequest s r).writes = s.writes ∧ (dropRequest s r).image = s.image ∧ (dropRequest s r).reg = s.reg ∧ (dropRequest s r).objs = s.objs ∧ (dropRequest s r).herd = s.herd ∧ (dropRequest s r).aon = s.aon ∧ (dropRequest s r).net = s.net ∧ (dropRequest s r).plan = s.plan ∧ (dropRequest s r).solver = s.solver ∧ (dropRequest s r).prof = s.prof ∧ (dropRequest s r).ctl = s.ctl ∧ (dropRequest s r).sched = s.sched ∧ (dropRequest s r).dsp = s.dsp ∧ (dropRequest s r).sep = s.sep ∧ (dropRequest s r).safety = s.safety ∧ (dropRequest s r).cham = s.cham ∧ (dropRequest s r).field = s.field ∧ (dropRequest s r).acq = s.acq ∧ (dropRequest s r).logs = s.logs ∧ (dropRequest s r).clocks = s.clocks ∧ (dropRequest s r).power = s.power ∧ (dropRequest s r).pair = s.pair ∧ (dropRequest s r).sec = s.sec ∧ (dropRequest s r).hw = s.hw ∧ (dropRequest s r).nor = s.nor ∧ (dropRequest s r).freeCount = s.freeCount := by
  have fr1 := @withPiste_frame
  unfold dropRequest
  simp [fr1]

theorem checkArm_frame (tp : ℕ) (s : State) (a : ℕ) :
    (checkArm tp s a).start = s.start ∧ (checkArm tp s a).writes = s.writes ∧ (checkArm tp s a).image = s.image ∧ (checkArm tp s a).herd = s.herd ∧ (checkArm tp s a).aon = s.aon ∧ (checkArm tp s a).net = s.net ∧ (checkArm tp s a).plan = s.plan ∧ (checkArm tp s a).solver = s.solver ∧ (checkArm tp s a).prof = s.prof ∧ (checkArm tp s a).ctl = s.ctl ∧ (checkArm tp s a).sched = s.sched ∧ (checkArm tp s a).dsp = s.dsp ∧ (checkArm tp s a).sep = s.sep ∧ (checkArm tp s a).safety = s.safety ∧ (checkArm tp s a).cham = s.cham ∧ (checkArm tp s a).field = s.field ∧ (checkArm tp s a).clocks = s.clocks ∧ (checkArm tp s a).power = s.power ∧ (checkArm tp s a).pair = s.pair ∧ (checkArm tp s a).sec = s.sec ∧ (checkArm tp s a).hw = s.hw ∧ (checkArm tp s a).nor = s.nor := by
  have fr1 := @bump_frame; have fr2 := @error_frame; have fr3 := @withPiste_frame; have fr4 := @armHold_frame
  unfold checkArm
  (repeat' split) <;> simp [fr1, fr2, fr3, fr4]

theorem arbitrate_frame (tp : Nat) (g : ArbState) (r : ZoneRequest) : ((arbitrate tp g r).s).start = g.s.start ∧ ((arbitrate tp g r).s).writes = g.s.writes ∧ ((arbitrate tp g r).s).image = g.s.image ∧ ((arbitrate tp g r).s).herd = g.s.herd ∧ ((arbitrate tp g r).s).aon = g.s.aon ∧ ((arbitrate tp g r).s).net = g.s.net ∧ ((arbitrate tp g r).s).plan = g.s.plan ∧ ((arbitrate tp g r).s).solver = g.s.solver ∧ ((arbitrate tp g r).s).prof = g.s.prof ∧ ((arbitrate tp g r).s).ctl = g.s.ctl ∧ ((arbitrate tp g r).s).sched = g.s.sched ∧ ((arbitrate tp g r).s).dsp = g.s.dsp ∧ ((arbitrate tp g r).s).sep = g.s.sep ∧ ((arbitrate tp g r).s).safety = g.s.safety ∧ ((arbitrate tp g r).s).cham = g.s.cham ∧ ((arbitrate tp g r).s).field = g.s.field ∧ ((arbitrate tp g r).s).clocks = g.s.clocks ∧ ((arbitrate tp g r).s).power = g.s.power ∧ ((arbitrate tp g r).s).sec = g.s.sec ∧ ((arbitrate tp g r).s).hw = g.s.hw ∧ ((arbitrate tp g r).s).nor = g.s.nor := by
  have fr1 := @refuseInPass_frame; have fr2 := @dropRequest_frame; have fr3 := @pickBlocker_frame; have fr4 := @completeLease_frame; have fr5 := @grant_frame
  unfold arbitrate
  dsimp only
  (repeat' split) <;> simp [fr1, fr2, fr3, fr4, fr5]

theorem arbiterPass_frame (tp : ℕ) (s : State) :
    (arbiterPass tp s).start = s.start ∧ (arbiterPass tp s).writes = s.writes ∧ (arbiterPass tp s).image = s.image ∧ (arbiterPass tp s).herd = s.herd ∧ (arbiterPass tp s).aon = s.aon ∧ (arbiterPass tp s).net = s.net ∧ (arbiterPass tp s).plan = s.plan ∧ (arbiterPass tp s).solver = s.solver ∧ (arbiterPass tp s).prof = s.prof ∧ (arbiterPass tp s).ctl = s.ctl ∧ (arbiterPass tp s).sched = s.sched ∧ (arbiterPass tp s).dsp = s.dsp ∧ (arbiterPass tp s).sep = s.sep ∧ (arbiterPass tp s).safety = s.safety ∧ (arbiterPass tp s).cham = s.cham ∧ (arbiterPass tp s).field = s.field ∧ (arbiterPass tp s).clocks = s.clocks ∧ (arbiterPass tp s).power = s.power ∧ (arbiterPass tp s).sec = s.sec ∧ (arbiterPass tp s).hw = s.hw ∧ (arbiterPass tp s).nor = s.nor := by
  have fr1 := @withPiste_frame; have fr2 := @expireLeases_frame; have fr3 := @applyRelease_frame; have fr4 := @judgeExtension_frame; have fr5 := @checkArm_frame; have fr6 := @postDone_frame; have fr7 := @mirrorPiste_frame
  unfold arbiterPass
  have ha : ∀ (tp : Nat) (l : List ZoneRequest) (g : ArbState), ((l.foldl (arbitrate tp) g).s).start = g.s.start ∧ ((l.foldl (arbitrate tp) g).s).writes = g.s.writes ∧ ((l.foldl (arbitrate tp) g).s).image = g.s.image ∧ ((l.foldl (arbitrate tp) g).s).herd = g.s.herd ∧ ((l.foldl (arbitrate tp) g).s).aon = g.s.aon ∧ ((l.foldl (arbitrate tp) g).s).net = g.s.net ∧ ((l.foldl (arbitrate tp) g).s).plan = g.s.plan ∧ ((l.foldl (arbitrate tp) g).s).solver = g.s.solver ∧ ((l.foldl (arbitrate tp) g).s).prof = g.s.prof ∧ ((l.foldl (arbitrate tp) g).s).ctl = g.s.ctl ∧ ((l.foldl (arbitrate tp) g).s).sched = g.s.sched ∧ ((l.foldl (arbitrate tp) g).s).dsp = g.s.dsp ∧ ((l.foldl (arbitrate tp) g).s).sep = g.s.sep ∧ ((l.foldl (arbitrate tp) g).s).safety = g.s.safety ∧ ((l.foldl (arbitrate tp) g).s).cham = g.s.cham ∧ ((l.foldl (arbitrate tp) g).s).field = g.s.field ∧ ((l.foldl (arbitrate tp) g).s).clocks = g.s.clocks ∧ ((l.foldl (arbitrate tp) g).s).power = g.s.power ∧ ((l.foldl (arbitrate tp) g).s).sec = g.s.sec ∧ ((l.foldl (arbitrate tp) g).s).hw = g.s.hw ∧ ((l.foldl (arbitrate tp) g).s).nor = g.s.nor := by
    intro tp l
    induction l with
    | nil => intro g; simp
    | cons a l ih =>
      intro g
      have h1 := ih (arbitrate tp g a)
      have h2 := arbitrate_frame tp g a
      simp_all
  dsimp only
  split
  · simp [fr1, fr2, fr3, fr4, fr5, fr6, fr7]
  · simp [ha, fr1, fr2, fr3, fr4, fr5, fr6, fr7]

theorem plannerRequest_frame (s : State) (arm : ℕ) (zone : ℕ) (priority : ℕ) (st : ℕ) (en : ℕ) :
    (plannerRequest s arm zone priority st en).mode = s.mode ∧ (plannerRequest s arm zone priority st en).start = s.start ∧ (plannerRequest s arm zone priority st en).zewen = s.zewen ∧ (plannerRequest s arm zone priority st en).writes = s.writes ∧ (plannerRequest s arm zone priority st en).image = s.image ∧ (plannerRequest s arm zone priority st en).reg = s.reg ∧ (plannerRequest s arm zone priority st en).herd = s.herd ∧ (plannerRequest s arm zone priority st en).aon = s.aon ∧ (plannerRequest s arm zone priority st en).net = s.net ∧ (plannerRequest s arm zone priority st en).plan = s.plan ∧ (plannerRequest s arm zone priority st en).solver = s.solver ∧ (plannerRequest s arm zone priority st en).prof = s.prof ∧ (plannerRequest s arm zone priority st en).ctl = s.ctl ∧ (plannerRequest s arm zone priority st en).sched = s.sched ∧ (plannerRequest s arm zone priority st en).dsp = s.dsp ∧ (plannerRequest s arm zone priority st en).sep = s.sep ∧ (plannerRequest s arm zone priority st en).safety = s.safety ∧ (plannerRequest s arm zone priority st en).cham = s.cham ∧ (plannerRequest s arm zone priority st en).field = s.field ∧ (plannerRequest s arm zone priority st en).acq = s.acq ∧ (plannerRequest s arm zone priority st en).logs = s.logs ∧ (plannerRequest s arm zone priority st en).clocks = s.clocks ∧ (plannerRequest s arm zone priority st en).power = s.power ∧ (plannerRequest s arm zone priority st en).pair = s.pair ∧ (plannerRequest s arm zone priority st en).sec = s.sec ∧ (plannerRequest s arm zone priority st en).hw = s.hw ∧ (plannerRequest s arm zone priority st en).nor = s.nor := by
  have fr1 := @bump_frame; have fr2 := @withPiste_frame
  unfold plannerRequest
  simp [fr1, fr2]

theorem plannerExtension_frame (s : State) (arm : ℕ) (lease : ℕ) (ne : ℕ) :
    (plannerExtension s arm lease ne).mode = s.mode ∧ (plannerExtension s arm lease ne).start = s.start ∧ (plannerExtension s arm lease ne).zewen = s.zewen ∧ (plannerExtension s arm lease ne).writes = s.writes ∧ (plannerExtension s arm lease ne).image = s.image ∧ (plannerExtension s arm lease ne).reg = s.reg ∧ (plannerExtension s arm lease ne).objs = s.objs ∧ (plannerExtension s arm lease ne).herd = s.herd ∧ (plannerExtension s arm lease ne).aon = s.aon ∧ (plannerExtension s arm lease ne).net = s.net ∧ (plannerExtension s arm lease ne).plan = s.plan ∧ (plannerExtension s arm lease ne).solver = s.solver ∧ (plannerExtension s arm lease ne).prof = s.prof ∧ (plannerExtension s arm lease ne).ctl = s.ctl ∧ (plannerExtension s arm lease ne).sched = s.sched ∧ (plannerExtension s arm lease ne).dsp = s.dsp ∧ (plannerExtension s arm lease ne).sep = s.sep ∧ (plannerExtension s arm lease ne).safety = s.safety ∧ (plannerExtension s arm lease ne).cham = s.cham ∧ (plannerExtension s arm lease ne).field = s.field ∧ (plannerExtension s arm lease ne).acq = s.acq ∧ (plannerExtension s arm lease ne).logs = s.logs ∧ (plannerExtension s arm lease ne).clocks = s.clocks ∧ (plannerExtension s arm lease ne).power = s.power ∧ (plannerExtension s arm lease ne).pair = s.pair ∧ (plannerExtension s arm lease ne).sec = s.sec ∧ (plannerExtension s arm lease ne).hw = s.hw ∧ (plannerExtension s arm lease ne).nor = s.nor ∧ (plannerExtension s arm lease ne).freeCount = s.freeCount := by
  have fr1 := @withPiste_frame
  unfold plannerExtension
  simp [fr1]

theorem dropPlanner_frame (s : State) (arm : ℕ) :
    (dropPlanner s arm).mode = s.mode ∧ (dropPlanner s arm).start = s.start ∧ (dropPlanner s arm).zewen = s.zewen ∧ (dropPlanner s arm).writes = s.writes ∧ (dropPlanner s arm).image = s.image ∧ (dropPlanner s arm).reg = s.reg ∧ (dropPlanner s arm).objs = s.objs ∧ (dropPlanner s arm).herd = s.herd ∧ (dropPlanner s arm).aon = s.aon ∧ (dropPlanner s arm).net = s.net ∧ (dropPlanner s arm).plan = s.plan ∧ (dropPlanner s arm).solver = s.solver ∧ (dropPlanner s arm).prof = s.prof ∧ (dropPlanner s arm).ctl = s.ctl ∧ (dropPlanner s arm).sched = s.sched ∧ (dropPlanner s arm).dsp = s.dsp ∧ (dropPlanner s arm).sep = s.sep ∧ (dropPlanner s arm).safety = s.safety ∧ (dropPlanner s arm).cham = s.cham ∧ (dropPlanner s arm).field = s.field ∧ (dropPlanner s arm).acq = s.acq ∧ (dropPlanner s arm).logs = s.logs ∧ (dropPlanner s arm).clocks = s.clocks ∧ (dropPlanner s arm).power = s.power ∧ (dropPlanner s arm).pair = s.pair ∧ (dropPlanner s arm).sec = s.sec ∧ (dropPlanner s arm).hw = s.hw ∧ (dropPlanner s arm).nor = s.nor ∧ (dropPlanner s arm).freeCount = s.freeCount := by
  have fr1 := @withPiste_frame
  unfold dropPlanner
  simp [fr1]

/-! ### Loop -/

theorem setLoop_frame (s : State) (i : ℕ) (f : LoopState → LoopState) :
    (setLoop s i f).mode = s.mode ∧ (setLoop s i f).start = s.start ∧ (setLoop s i f).zewen = s.zewen ∧ (setLoop s i f).writes = s.writes ∧ (setLoop s i f).image = s.image ∧ (setLoop s i f).reg = s.reg ∧ (setLoop s i f).objs = s.objs ∧ (setLoop s i f).herd = s.herd ∧ (setLoop s i f).aon = s.aon ∧ (setLoop s i f).net = s.net ∧ (setLoop s i f).plan = s.plan ∧ (setLoop s i f).solver = s.solver ∧ (setLoop s i f).piste = s.piste ∧ (setLoop s i f).prof = s.prof ∧ (setLoop s i f).sched = s.sched ∧ (setLoop s i f).dsp = s.dsp ∧ (setLoop s i f).sep = s.sep ∧ (setLoop s i f).safety = s.safety ∧ (setLoop s i f).cham = s.cham ∧ (setLoop s i f).field = s.field ∧ (setLoop s i f).acq = s.acq ∧ (setLoop s i f).logs = s.logs ∧ (setLoop s i f).clocks = s.clocks ∧ (setLoop s i f).power = s.power ∧ (setLoop s i f).pair = s.pair ∧ (setLoop s i f).sec = s.sec ∧ (setLoop s i f).hw = s.hw ∧ (setLoop s i f).nor = s.nor ∧ (setLoop s i f).freeCount = s.freeCount := by
  unfold setLoop
  simp

theorem placeOutput_frame (s : State) (x : LoopIn) (flags : ℕ) (compute : ℕ) (h : ℕ) (us : List F32) :
    ((placeOutput s x flags compute h us).1).mode = s.mode ∧ ((placeOutput s x flags compute h us).1).start = s.start ∧ ((placeOutput s x flags compute h us).1).zewen = s.zewen ∧ ((placeOutput s x flags compute h us).1).writes = s.writes ∧ ((placeOutput s x flags compute h us).1).image = s.image ∧ ((placeOutput s x flags compute h us).1).reg = s.reg ∧ ((placeOutput s x flags compute h us).1).objs = s.objs ∧ ((placeOutput s x flags compute h us).1).herd = s.herd ∧ ((placeOutput s x flags compute h us).1).aon = s.aon ∧ ((placeOutput s x flags compute h us).1).plan = s.plan ∧ ((placeOutput s x flags compute h us).1).solver = s.solver ∧ ((placeOutput s x flags compute h us).1).piste = s.piste ∧ ((placeOutput s x flags compute h us).1).prof = s.prof ∧ ((placeOutput s x flags compute h us).1).ctl = s.ctl ∧ ((placeOutput s x flags compute h us).1).dsp = s.dsp ∧ ((placeOutput s x flags compute h us).1).sep = s.sep ∧ ((placeOutput s x flags compute h us).1).safety = s.safety ∧ ((placeOutput s x flags compute h us).1).cham = s.cham ∧ ((placeOutput s x flags compute h us).1).acq = s.acq ∧ ((placeOutput s x flags compute h us).1).logs = s.logs ∧ ((placeOutput s x flags compute h us).1).clocks = s.clocks ∧ ((placeOutput s x flags compute h us).1).power = s.power ∧ ((placeOutput s x flags compute h us).1).pair = s.pair ∧ ((placeOutput s x flags compute h us).1).sec = s.sec ∧ ((placeOutput s x flags compute h us).1).hw = s.hw ∧ ((placeOutput s x flags compute h us).1).nor = s.nor ∧ ((placeOutput s x flags compute h us).1).freeCount = s.freeCount := by
  have fr1 := @withSched_frame
  unfold placeOutput
  (repeat' split) <;> simp [fr1]

theorem executeLoop_frame (s : State) (x : LoopIn) (compute : ℕ) :
    (executeLoop s x compute).mode = s.mode ∧ (executeLoop s x compute).start = s.start ∧ (executeLoop s x compute).writes = s.writes ∧ (executeLoop s x compute).image = s.image ∧ (executeLoop s x compute).herd = s.herd ∧ (executeLoop s x compute).aon = s.aon ∧ (executeLoop s x compute).plan = s.plan ∧ (executeLoop s x compute).solver = s.solver ∧ (executeLoop s x compute).piste = s.piste ∧ (executeLoop s x compute).prof = s.prof ∧ (executeLoop s x compute).dsp = s.dsp ∧ (executeLoop s x compute).sep = s.sep ∧ (executeLoop s x compute).safety = s.safety ∧ (executeLoop s x compute).cham = s.cham ∧ (executeLoop s x compute).clocks = s.clocks ∧ (executeLoop s x compute).power = s.power ∧ (executeLoop s x compute).pair = s.pair ∧ (executeLoop s x compute).sec = s.sec ∧ (executeLoop s x compute).hw = s.hw ∧ (executeLoop s x compute).nor = s.nor := by
  have fr1 := @placeOutput_frame; have fr2 := @setLoop_frame; have fr3 := @bump_frame; have fr4 := @bumpAt_frame; have fr5 := @trace_frame
  unfold executeLoop
  extract_lets i st d h o due0 flags r dly bin xh1 badX xh2 due finite clean late fl s1 m s2 s3 s4 s5
  have h2 : (s2).mode = s.mode ∧ (s2).start = s.start ∧ (s2).writes = s.writes ∧ (s2).image = s.image ∧ (s2).herd = s.herd ∧ (s2).aon = s.aon ∧ (s2).plan = s.plan ∧ (s2).solver = s.solver ∧ (s2).piste = s.piste ∧ (s2).prof = s.prof ∧ (s2).dsp = s.dsp ∧ (s2).sep = s.sep ∧ (s2).safety = s.safety ∧ (s2).cham = s.cham ∧ (s2).clocks = s.clocks ∧ (s2).power = s.power ∧ (s2).pair = s.pair ∧ (s2).sec = s.sec ∧ (s2).hw = s.hw ∧ (s2).nor = s.nor := by simp [s2, s1, r, fr1, fr2, fr3, fr4, fr5]
  have g : ∀ b : Option Nat, (let u := match b with | some b => bumpAt s2 0x21 x.ch (m 0x18) b | none => bump s2 0x21 x.ch (m 0x1C)
      (u).mode = s2.mode ∧ (u).start = s2.start ∧ (u).writes = s2.writes ∧ (u).image = s2.image ∧ (u).herd = s2.herd ∧ (u).aon = s2.aon ∧ (u).plan = s2.plan ∧ (u).solver = s2.solver ∧ (u).piste = s2.piste ∧ (u).prof = s2.prof ∧ (u).dsp = s2.dsp ∧ (u).sep = s2.sep ∧ (u).safety = s2.safety ∧ (u).cham = s2.cham ∧ (u).clocks = s2.clocks ∧ (u).power = s2.power ∧ (u).pair = s2.pair ∧ (u).sec = s2.sec ∧ (u).hw = s2.hw ∧ (u).nor = s2.nor) := by
    intro b
    cases b <;> simp [fr1, fr2, fr3, fr4, fr5]
  have h3 : (s3).mode = s2.mode ∧ (s3).start = s2.start ∧ (s3).writes = s2.writes ∧ (s3).image = s2.image ∧ (s3).herd = s2.herd ∧ (s3).aon = s2.aon ∧ (s3).plan = s2.plan ∧ (s3).solver = s2.solver ∧ (s3).piste = s2.piste ∧ (s3).prof = s2.prof ∧ (s3).dsp = s2.dsp ∧ (s3).sep = s2.sep ∧ (s3).safety = s2.safety ∧ (s3).cham = s2.cham ∧ (s3).clocks = s2.clocks ∧ (s3).power = s2.power ∧ (s3).pair = s2.pair ∧ (s3).sec = s2.sec ∧ (s3).hw = s2.hw ∧ (s3).nor = s2.nor := g bin
  have h5 : (s5).mode = s3.mode ∧ (s5).start = s3.start ∧ (s5).writes = s3.writes ∧ (s5).image = s3.image ∧ (s5).herd = s3.herd ∧ (s5).aon = s3.aon ∧ (s5).plan = s3.plan ∧ (s5).solver = s3.solver ∧ (s5).piste = s3.piste ∧ (s5).prof = s3.prof ∧ (s5).dsp = s3.dsp ∧ (s5).sep = s3.sep ∧ (s5).safety = s3.safety ∧ (s5).cham = s3.cham ∧ (s5).clocks = s3.clocks ∧ (s5).power = s3.power ∧ (s5).pair = s3.pair ∧ (s5).sec = s3.sec ∧ (s5).hw = s3.hw ∧ (s5).nor = s3.nor := by simp [s5, s4, fr1, fr2, fr3, fr4, fr5]
  clear_value s5 s3 s2
  split <;> simp_all

theorem axisReactionAs_frame (say : State → Word → State) (s : State) (ch : ℕ) (w : ℕ → Word) (c : Cause)
    (h : ∀ s w, (say s w).writes = s.writes ∧ (say s w).image = s.image ∧ (say s w).herd = s.herd ∧ (say s w).net = s.net ∧ (say s w).plan = s.plan ∧ (say s w).solver = s.solver ∧ (say s w).prof = s.prof ∧ (say s w).ctl = s.ctl ∧ (say s w).sched = s.sched ∧ (say s w).dsp = s.dsp ∧ (say s w).sep = s.sep ∧ (say s w).safety = s.safety ∧ (say s w).cham = s.cham ∧ (say s w).field = s.field ∧ (say s w).clocks = s.clocks ∧ (say s w).power = s.power ∧ (say s w).pair = s.pair ∧ (say s w).sec = s.sec ∧ (say s w).hw = s.hw) :
    (axisReactionAs say s ch w c).writes = s.writes ∧ (axisReactionAs say s ch w c).image = s.image ∧ (axisReactionAs say s ch w c).herd = s.herd ∧ (axisReactionAs say s ch w c).net = s.net ∧ (axisReactionAs say s ch w c).plan = s.plan ∧ (axisReactionAs say s ch w c).solver = s.solver ∧ (axisReactionAs say s ch w c).prof = s.prof ∧ (axisReactionAs say s ch w c).ctl = s.ctl ∧ (axisReactionAs say s ch w c).sched = s.sched ∧ (axisReactionAs say s ch w c).dsp = s.dsp ∧ (axisReactionAs say s ch w c).sep = s.sep ∧ (axisReactionAs say s ch w c).safety = s.safety ∧ (axisReactionAs say s ch w c).cham = s.cham ∧ (axisReactionAs say s ch w c).field = s.field ∧ (axisReactionAs say s ch w c).clocks = s.clocks ∧ (axisReactionAs say s ch w c).power = s.power ∧ (axisReactionAs say s ch w c).pair = s.pair ∧ (axisReactionAs say s ch w c).sec = s.sec ∧ (axisReactionAs say s ch w c).hw = s.hw := by
  have fr1 := @armHold_frame; have fr2 := @trigger_frame
  unfold axisReactionAs
  dsimp only
  split <;> simp [h, fr1, fr2]

theorem axisReaction_frame (s : State) (ch : ℕ) (w : ℕ → Word) (c : Cause) :
    (axisReaction s ch w c).writes = s.writes ∧ (axisReaction s ch w c).image = s.image ∧ (axisReaction s ch w c).herd = s.herd ∧ (axisReaction s ch w c).net = s.net ∧ (axisReaction s ch w c).plan = s.plan ∧ (axisReaction s ch w c).solver = s.solver ∧ (axisReaction s ch w c).prof = s.prof ∧ (axisReaction s ch w c).ctl = s.ctl ∧ (axisReaction s ch w c).sched = s.sched ∧ (axisReaction s ch w c).dsp = s.dsp ∧ (axisReaction s ch w c).sep = s.sep ∧ (axisReaction s ch w c).safety = s.safety ∧ (axisReaction s ch w c).cham = s.cham ∧ (axisReaction s ch w c).field = s.field ∧ (axisReaction s ch w c).clocks = s.clocks ∧ (axisReaction s ch w c).power = s.power ∧ (axisReaction s ch w c).pair = s.pair ∧ (axisReaction s ch w c).sec = s.sec ∧ (axisReaction s ch w c).hw = s.hw := by
  have fr1 := @armHold_frame; have fr2 := @trigger_frame; have fr3 := @error_frame
  unfold axisReaction axisReactionAs
  dsimp only
  split <;> simp [fr1, fr2, fr3]

theorem clearFault_frame (s : State) (loop : ℕ) :
    (clearFault s loop).mode = s.mode ∧ (clearFault s loop).start = s.start ∧ (clearFault s loop).zewen = s.zewen ∧ (clearFault s loop).writes = s.writes ∧ (clearFault s loop).image = s.image ∧ (clearFault s loop).reg = s.reg ∧ (clearFault s loop).objs = s.objs ∧ (clearFault s loop).herd = s.herd ∧ (clearFault s loop).aon = s.aon ∧ (clearFault s loop).net = s.net ∧ (clearFault s loop).plan = s.plan ∧ (clearFault s loop).solver = s.solver ∧ (clearFault s loop).piste = s.piste ∧ (clearFault s loop).prof = s.prof ∧ (clearFault s loop).sched = s.sched ∧ (clearFault s loop).dsp = s.dsp ∧ (clearFault s loop).sep = s.sep ∧ (clearFault s loop).safety = s.safety ∧ (clearFault s loop).cham = s.cham ∧ (clearFault s loop).field = s.field ∧ (clearFault s loop).acq = s.acq ∧ (clearFault s loop).logs = s.logs ∧ (clearFault s loop).clocks = s.clocks ∧ (clearFault s loop).power = s.power ∧ (clearFault s loop).pair = s.pair ∧ (clearFault s loop).sec = s.sec ∧ (clearFault s loop).hw = s.hw ∧ (clearFault s loop).nor = s.nor ∧ (clearFault s loop).freeCount = s.freeCount := by
  have fr1 := @setLoop_frame
  unfold clearFault
  simp [fr1]

/-! ### Encoder -/

theorem withField_frame (s : State) (f : FieldState → FieldState) :
    (withField s f).mode = s.mode ∧ (withField s f).start = s.start ∧ (withField s f).zewen = s.zewen ∧ (withField s f).writes = s.writes ∧ (withField s f).image = s.image ∧ (withField s f).reg = s.reg ∧ (withField s f).objs = s.objs ∧ (withField s f).herd = s.herd ∧ (withField s f).aon = s.aon ∧ (withField s f).net = s.net ∧ (withField s f).plan = s.plan ∧ (withField s f).solver = s.solver ∧ (withField s f).piste = s.piste ∧ (withField s f).prof = s.prof ∧ (withField s f).ctl = s.ctl ∧ (withField s f).sched = s.sched ∧ (withField s f).dsp = s.dsp ∧ (withField s f).sep = s.sep ∧ (withField s f).safety = s.safety ∧ (withField s f).cham = s.cham ∧ (withField s f).acq = s.acq ∧ (withField s f).logs = s.logs ∧ (withField s f).clocks = s.clocks ∧ (withField s f).power = s.power ∧ (withField s f).pair = s.pair ∧ (withField s f).sec = s.sec ∧ (withField s f).hw = s.hw ∧ (withField s f).nor = s.nor ∧ (withField s f).freeCount = s.freeCount := by
  unfold withField
  simp

theorem setEnc_frame (s : State) (e : ℕ) (f : Encoder → Encoder) :
    (setEnc s e f).mode = s.mode ∧ (setEnc s e f).start = s.start ∧ (setEnc s e f).zewen = s.zewen ∧ (setEnc s e f).writes = s.writes ∧ (setEnc s e f).image = s.image ∧ (setEnc s e f).reg = s.reg ∧ (setEnc s e f).objs = s.objs ∧ (setEnc s e f).herd = s.herd ∧ (setEnc s e f).aon = s.aon ∧ (setEnc s e f).net = s.net ∧ (setEnc s e f).plan = s.plan ∧ (setEnc s e f).solver = s.solver ∧ (setEnc s e f).piste = s.piste ∧ (setEnc s e f).prof = s.prof ∧ (setEnc s e f).ctl = s.ctl ∧ (setEnc s e f).sched = s.sched ∧ (setEnc s e f).dsp = s.dsp ∧ (setEnc s e f).sep = s.sep ∧ (setEnc s e f).safety = s.safety ∧ (setEnc s e f).cham = s.cham ∧ (setEnc s e f).acq = s.acq ∧ (setEnc s e f).logs = s.logs ∧ (setEnc s e f).clocks = s.clocks ∧ (setEnc s e f).power = s.power ∧ (setEnc s e f).pair = s.pair ∧ (setEnc s e f).sec = s.sec ∧ (setEnc s e f).hw = s.hw ∧ (setEnc s e f).nor = s.nor ∧ (setEnc s e f).freeCount = s.freeCount := by
  have fr1 := @withField_frame
  unfold setEnc
  simp [fr1]

theorem encError_frame (s : State) (e : ℕ) (i : ℕ) :
    (encError s e i).mode = s.mode ∧ (encError s e i).start = s.start ∧ (encError s e i).zewen = s.zewen ∧ (encError s e i).writes = s.writes ∧ (encError s e i).image = s.image ∧ (encError s e i).reg = s.reg ∧ (encError s e i).herd = s.herd ∧ (encError s e i).aon = s.aon ∧ (encError s e i).net = s.net ∧ (encError s e i).plan = s.plan ∧ (encError s e i).solver = s.solver ∧ (encError s e i).piste = s.piste ∧ (encError s e i).prof = s.prof ∧ (encError s e i).ctl = s.ctl ∧ (encError s e i).sched = s.sched ∧ (encError s e i).dsp = s.dsp ∧ (encError s e i).sep = s.sep ∧ (encError s e i).safety = s.safety ∧ (encError s e i).cham = s.cham ∧ (encError s e i).field = s.field ∧ (encError s e i).acq = s.acq ∧ (encError s e i).logs = s.logs ∧ (encError s e i).clocks = s.clocks ∧ (encError s e i).power = s.power ∧ (encError s e i).pair = s.pair ∧ (encError s e i).sec = s.sec ∧ (encError s e i).hw = s.hw ∧ (encError s e i).nor = s.nor ∧ (encError s e i).freeCount = s.freeCount := by
  have fr1 := @bumpAt_frame
  unfold encError
  simp [fr1]

theorem movePos_frame (s : State) (e : ℕ) (p : ℤ) (up : Bool) (t : ℕ) :
    (movePos s e p up t).mode = s.mode ∧ (movePos s e p up t).start = s.start ∧ (movePos s e p up t).zewen = s.zewen ∧ (movePos s e p up t).writes = s.writes ∧ (movePos s e p up t).image = s.image ∧ (movePos s e p up t).reg = s.reg ∧ (movePos s e p up t).herd = s.herd ∧ (movePos s e p up t).aon = s.aon ∧ (movePos s e p up t).net = s.net ∧ (movePos s e p up t).plan = s.plan ∧ (movePos s e p up t).solver = s.solver ∧ (movePos s e p up t).piste = s.piste ∧ (movePos s e p up t).prof = s.prof ∧ (movePos s e p up t).ctl = s.ctl ∧ (movePos s e p up t).sched = s.sched ∧ (movePos s e p up t).dsp = s.dsp ∧ (movePos s e p up t).sep = s.sep ∧ (movePos s e p up t).safety = s.safety ∧ (movePos s e p up t).cham = s.cham ∧ (movePos s e p up t).acq = s.acq ∧ (movePos s e p up t).logs = s.logs ∧ (movePos s e p up t).clocks = s.clocks ∧ (movePos s e p up t).power = s.power ∧ (movePos s e p up t).pair = s.pair ∧ (movePos s e p up t).sec = s.sec ∧ (movePos s e p up t).hw = s.hw ∧ (movePos s e p up t).nor = s.nor ∧ (movePos s e p up t).freeCount = s.freeCount := by
  have fr1 := @setEnc_frame; have fr2 := @encError_frame
  unfold movePos
  simp [fr1, fr2]

theorem passLevels_frame (s : State) (e : ℕ) :
    (passLevels s e).mode = s.mode ∧ (passLevels s e).start = s.start ∧ (passLevels s e).zewen = s.zewen ∧ (passLevels s e).writes = s.writes ∧ (passLevels s e).image = s.image ∧ (passLevels s e).reg = s.reg ∧ (passLevels s e).objs = s.objs ∧ (passLevels s e).herd = s.herd ∧ (passLevels s e).aon = s.aon ∧ (passLevels s e).net = s.net ∧ (passLevels s e).plan = s.plan ∧ (passLevels s e).solver = s.solver ∧ (passLevels s e).piste = s.piste ∧ (passLevels s e).prof = s.prof ∧ (passLevels s e).ctl = s.ctl ∧ (passLevels s e).sched = s.sched ∧ (passLevels s e).dsp = s.dsp ∧ (passLevels s e).sep = s.sep ∧ (passLevels s e).safety = s.safety ∧ (passLevels s e).cham = s.cham ∧ (passLevels s e).field = s.field ∧ (passLevels s e).acq = s.acq ∧ (passLevels s e).logs = s.logs ∧ (passLevels s e).clocks = s.clocks ∧ (passLevels s e).power = s.power ∧ (passLevels s e).pair = s.pair ∧ (passLevels s e).sec = s.sec ∧ (passLevels s e).hw = s.hw ∧ (passLevels s e).nor = s.nor ∧ (passLevels s e).freeCount = s.freeCount := by
  have fr1 := @emit_frame
  unfold passLevels
  simp [fr1]

theorem takeIndex_frame (s : State) (e : ℕ) :
    (takeIndex s e).mode = s.mode ∧ (takeIndex s e).start = s.start ∧ (takeIndex s e).zewen = s.zewen ∧ (takeIndex s e).writes = s.writes ∧ (takeIndex s e).image = s.image ∧ (takeIndex s e).reg = s.reg ∧ (takeIndex s e).objs = s.objs ∧ (takeIndex s e).herd = s.herd ∧ (takeIndex s e).aon = s.aon ∧ (takeIndex s e).net = s.net ∧ (takeIndex s e).plan = s.plan ∧ (takeIndex s e).solver = s.solver ∧ (takeIndex s e).piste = s.piste ∧ (takeIndex s e).prof = s.prof ∧ (takeIndex s e).ctl = s.ctl ∧ (takeIndex s e).sched = s.sched ∧ (takeIndex s e).dsp = s.dsp ∧ (takeIndex s e).sep = s.sep ∧ (takeIndex s e).safety = s.safety ∧ (takeIndex s e).cham = s.cham ∧ (takeIndex s e).acq = s.acq ∧ (takeIndex s e).logs = s.logs ∧ (takeIndex s e).clocks = s.clocks ∧ (takeIndex s e).power = s.power ∧ (takeIndex s e).pair = s.pair ∧ (takeIndex s e).sec = s.sec ∧ (takeIndex s e).hw = s.hw ∧ (takeIndex s e).nor = s.nor ∧ (takeIndex s e).freeCount = s.freeCount := by
  have fr1 := @setEnc_frame
  unfold takeIndex
  simp [fr1]

theorem armIndex_frame (s : State) (e : ℕ) :
    (armIndex s e).mode = s.mode ∧ (armIndex s e).start = s.start ∧ (armIndex s e).zewen = s.zewen ∧ (armIndex s e).writes = s.writes ∧ (armIndex s e).image = s.image ∧ (armIndex s e).reg = s.reg ∧ (armIndex s e).objs = s.objs ∧ (armIndex s e).herd = s.herd ∧ (armIndex s e).aon = s.aon ∧ (armIndex s e).net = s.net ∧ (armIndex s e).plan = s.plan ∧ (armIndex s e).solver = s.solver ∧ (armIndex s e).piste = s.piste ∧ (armIndex s e).prof = s.prof ∧ (armIndex s e).ctl = s.ctl ∧ (armIndex s e).sched = s.sched ∧ (armIndex s e).dsp = s.dsp ∧ (armIndex s e).sep = s.sep ∧ (armIndex s e).safety = s.safety ∧ (armIndex s e).cham = s.cham ∧ (armIndex s e).acq = s.acq ∧ (armIndex s e).logs = s.logs ∧ (armIndex s e).clocks = s.clocks ∧ (armIndex s e).power = s.power ∧ (armIndex s e).pair = s.pair ∧ (armIndex s e).sec = s.sec ∧ (armIndex s e).hw = s.hw ∧ (armIndex s e).nor = s.nor ∧ (armIndex s e).freeCount = s.freeCount := by
  have fr1 := @setEnc_frame
  unfold armIndex
  simp [fr1]

theorem latchTick_frame (s : State) (e : ℕ) (v : Option EncLatch) :
    (latchTick s e v).mode = s.mode ∧ (latchTick s e v).start = s.start ∧ (latchTick s e v).zewen = s.zewen ∧ (latchTick s e v).writes = s.writes ∧ (latchTick s e v).image = s.image ∧ (latchTick s e v).reg = s.reg ∧ (latchTick s e v).objs = s.objs ∧ (latchTick s e v).herd = s.herd ∧ (latchTick s e v).aon = s.aon ∧ (latchTick s e v).net = s.net ∧ (latchTick s e v).plan = s.plan ∧ (latchTick s e v).solver = s.solver ∧ (latchTick s e v).piste = s.piste ∧ (latchTick s e v).prof = s.prof ∧ (latchTick s e v).ctl = s.ctl ∧ (latchTick s e v).sched = s.sched ∧ (latchTick s e v).dsp = s.dsp ∧ (latchTick s e v).sep = s.sep ∧ (latchTick s e v).safety = s.safety ∧ (latchTick s e v).cham = s.cham ∧ (latchTick s e v).acq = s.acq ∧ (latchTick s e v).logs = s.logs ∧ (latchTick s e v).clocks = s.clocks ∧ (latchTick s e v).power = s.power ∧ (latchTick s e v).pair = s.pair ∧ (latchTick s e v).sec = s.sec ∧ (latchTick s e v).hw = s.hw ∧ (latchTick s e v).nor = s.nor ∧ (latchTick s e v).freeCount = s.freeCount := by
  have fr1 := @setEnc_frame
  unfold latchTick
  simp [fr1]

theorem encAges_frame (s : State) :
    (encAges s).mode = s.mode ∧ (encAges s).start = s.start ∧ (encAges s).zewen = s.zewen ∧ (encAges s).writes = s.writes ∧ (encAges s).image = s.image ∧ (encAges s).reg = s.reg ∧ (encAges s).objs = s.objs ∧ (encAges s).herd = s.herd ∧ (encAges s).aon = s.aon ∧ (encAges s).net = s.net ∧ (encAges s).plan = s.plan ∧ (encAges s).solver = s.solver ∧ (encAges s).piste = s.piste ∧ (encAges s).prof = s.prof ∧ (encAges s).ctl = s.ctl ∧ (encAges s).sched = s.sched ∧ (encAges s).dsp = s.dsp ∧ (encAges s).sep = s.sep ∧ (encAges s).safety = s.safety ∧ (encAges s).cham = s.cham ∧ (encAges s).acq = s.acq ∧ (encAges s).logs = s.logs ∧ (encAges s).clocks = s.clocks ∧ (encAges s).power = s.power ∧ (encAges s).pair = s.pair ∧ (encAges s).sec = s.sec ∧ (encAges s).hw = s.hw ∧ (encAges s).nor = s.nor ∧ (encAges s).freeCount = s.freeCount := by
  have fr1 := @withField_frame
  unfold encAges
  simp [fr1]

theorem takeWord_frame (s : State) (e : ℕ) (n : ℕ) (w : ℕ) (ref : ℕ) :
    (takeWord s e n w ref).mode = s.mode ∧ (takeWord s e n w ref).start = s.start ∧ (takeWord s e n w ref).zewen = s.zewen ∧ (takeWord s e n w ref).writes = s.writes ∧ (takeWord s e n w ref).image = s.image ∧ (takeWord s e n w ref).reg = s.reg ∧ (takeWord s e n w ref).herd = s.herd ∧ (takeWord s e n w ref).aon = s.aon ∧ (takeWord s e n w ref).net = s.net ∧ (takeWord s e n w ref).plan = s.plan ∧ (takeWord s e n w ref).solver = s.solver ∧ (takeWord s e n w ref).piste = s.piste ∧ (takeWord s e n w ref).prof = s.prof ∧ (takeWord s e n w ref).ctl = s.ctl ∧ (takeWord s e n w ref).sched = s.sched ∧ (takeWord s e n w ref).dsp = s.dsp ∧ (takeWord s e n w ref).sep = s.sep ∧ (takeWord s e n w ref).safety = s.safety ∧ (takeWord s e n w ref).cham = s.cham ∧ (takeWord s e n w ref).acq = s.acq ∧ (takeWord s e n w ref).logs = s.logs ∧ (takeWord s e n w ref).clocks = s.clocks ∧ (takeWord s e n w ref).power = s.power ∧ (takeWord s e n w ref).pair = s.pair ∧ (takeWord s e n w ref).sec = s.sec ∧ (takeWord s e n w ref).hw = s.hw ∧ (takeWord s e n w ref).nor = s.nor := by
  have fr1 := @movePos_frame; have fr2 := @setEnc_frame; have fr3 := @latchTick_frame
  unfold takeWord
  simp [fr1, fr2, fr3]

/-! ### SafetyChannels -/

theorem askHold_frame (s : State) (r : Cause × Bool) :
    (askHold s r).writes = s.writes ∧ (askHold s r).image = s.image ∧ (askHold s r).herd = s.herd ∧ (askHold s r).net = s.net ∧ (askHold s r).plan = s.plan ∧ (askHold s r).solver = s.solver ∧ (askHold s r).piste = s.piste ∧ (askHold s r).prof = s.prof ∧ (askHold s r).ctl = s.ctl ∧ (askHold s r).sched = s.sched ∧ (askHold s r).dsp = s.dsp ∧ (askHold s r).sep = s.sep ∧ (askHold s r).cham = s.cham ∧ (askHold s r).field = s.field ∧ (askHold s r).clocks = s.clocks ∧ (askHold s r).power = s.power ∧ (askHold s r).pair = s.pair ∧ (askHold s r).sec = s.sec ∧ (askHold s r).hw = s.hw := by
  have fr1 := @trigger_frame
  unfold askHold
  simp [fr1]

theorem pairEdges_frame (s : State) :
    (pairEdges s).mode = s.mode ∧ (pairEdges s).start = s.start ∧ (pairEdges s).zewen = s.zewen ∧ (pairEdges s).writes = s.writes ∧ (pairEdges s).image = s.image ∧ (pairEdges s).reg = s.reg ∧ (pairEdges s).objs = s.objs ∧ (pairEdges s).herd = s.herd ∧ (pairEdges s).aon = s.aon ∧ (pairEdges s).net = s.net ∧ (pairEdges s).plan = s.plan ∧ (pairEdges s).solver = s.solver ∧ (pairEdges s).piste = s.piste ∧ (pairEdges s).prof = s.prof ∧ (pairEdges s).ctl = s.ctl ∧ (pairEdges s).sched = s.sched ∧ (pairEdges s).dsp = s.dsp ∧ (pairEdges s).sep = s.sep ∧ (pairEdges s).cham = s.cham ∧ (pairEdges s).field = s.field ∧ (pairEdges s).acq = s.acq ∧ (pairEdges s).logs = s.logs ∧ (pairEdges s).clocks = s.clocks ∧ (pairEdges s).power = s.power ∧ (pairEdges s).pair = s.pair ∧ (pairEdges s).sec = s.sec ∧ (pairEdges s).hw = s.hw ∧ (pairEdges s).nor = s.nor ∧ (pairEdges s).freeCount = s.freeCount := by
  unfold pairEdges
  split <;> simp

theorem expireEdge_frame (s : State) (chamois : Bool) :
    (expireEdge s chamois).mode = s.mode ∧ (expireEdge s chamois).start = s.start ∧ (expireEdge s chamois).zewen = s.zewen ∧ (expireEdge s chamois).writes = s.writes ∧ (expireEdge s chamois).image = s.image ∧ (expireEdge s chamois).reg = s.reg ∧ (expireEdge s chamois).herd = s.herd ∧ (expireEdge s chamois).aon = s.aon ∧ (expireEdge s chamois).net = s.net ∧ (expireEdge s chamois).plan = s.plan ∧ (expireEdge s chamois).solver = s.solver ∧ (expireEdge s chamois).piste = s.piste ∧ (expireEdge s chamois).prof = s.prof ∧ (expireEdge s chamois).ctl = s.ctl ∧ (expireEdge s chamois).sched = s.sched ∧ (expireEdge s chamois).dsp = s.dsp ∧ (expireEdge s chamois).sep = s.sep ∧ (expireEdge s chamois).cham = s.cham ∧ (expireEdge s chamois).field = s.field ∧ (expireEdge s chamois).acq = s.acq ∧ (expireEdge s chamois).logs = s.logs ∧ (expireEdge s chamois).clocks = s.clocks ∧ (expireEdge s chamois).power = s.power ∧ (expireEdge s chamois).pair = s.pair ∧ (expireEdge s chamois).sec = s.sec ∧ (expireEdge s chamois).hw = s.hw ∧ (expireEdge s chamois).nor = s.nor := by
  have fr1 := @setSafeCh_frame; have fr2 := @bump_frame
  unfold expireEdge
  simp [fr1, fr2]

theorem stepArm_frame (chamois : Bool) (t : ℕ) (s : State) (a : ℕ) :
    (stepArm chamois t s a).mode = s.mode ∧ (stepArm chamois t s a).start = s.start ∧ (stepArm chamois t s a).writes = s.writes ∧ (stepArm chamois t s a).image = s.image ∧ (stepArm chamois t s a).herd = s.herd ∧ (stepArm chamois t s a).aon = s.aon ∧ (stepArm chamois t s a).net = s.net ∧ (stepArm chamois t s a).plan = s.plan ∧ (stepArm chamois t s a).solver = s.solver ∧ (stepArm chamois t s a).piste = s.piste ∧ (stepArm chamois t s a).prof = s.prof ∧ (stepArm chamois t s a).ctl = s.ctl ∧ (stepArm chamois t s a).sched = s.sched ∧ (stepArm chamois t s a).dsp = s.dsp ∧ (stepArm chamois t s a).sep = s.sep ∧ (stepArm chamois t s a).cham = s.cham ∧ (stepArm chamois t s a).field = s.field ∧ (stepArm chamois t s a).clocks = s.clocks ∧ (stepArm chamois t s a).power = s.power ∧ (stepArm chamois t s a).pair = s.pair ∧ (stepArm chamois t s a).sec = s.sec ∧ (stepArm chamois t s a).hw = s.hw ∧ (stepArm chamois t s a).nor = s.nor := by
  have fr1 := @setArmStop_frame; have fr2 := @takeStop_frame
  unfold stepArm
  simp [fr1, fr2]

theorem switchStuck_frame (s : State) (low : Bool) (n : ℕ) :
    (switchStuck s low n).writes = s.writes ∧ (switchStuck s low n).image = s.image ∧ (switchStuck s low n).herd = s.herd ∧ (switchStuck s low n).net = s.net ∧ (switchStuck s low n).plan = s.plan ∧ (switchStuck s low n).solver = s.solver ∧ (switchStuck s low n).piste = s.piste ∧ (switchStuck s low n).prof = s.prof ∧ (switchStuck s low n).ctl = s.ctl ∧ (switchStuck s low n).sched = s.sched ∧ (switchStuck s low n).dsp = s.dsp ∧ (switchStuck s low n).sep = s.sep ∧ (switchStuck s low n).cham = s.cham ∧ (switchStuck s low n).field = s.field ∧ (switchStuck s low n).clocks = s.clocks ∧ (switchStuck s low n).power = s.power ∧ (switchStuck s low n).pair = s.pair ∧ (switchStuck s low n).sec = s.sec ∧ (switchStuck s low n).hw = s.hw := by
  have fr1 := @setSafeCh_frame; have fr2 := @faultError_frame; have fr3 := @bump_frame
  unfold switchStuck
  simp [fr1, fr2, fr3]

theorem stepSwitch_frame (chamois : Bool) (readback : ℕ) (currents : List ℕ) (s : State) (n : ℕ) :
    (stepSwitch chamois readback currents s n).writes = s.writes ∧ (stepSwitch chamois readback currents s n).image = s.image ∧ (stepSwitch chamois readback currents s n).herd = s.herd ∧ (stepSwitch chamois readback currents s n).net = s.net ∧ (stepSwitch chamois readback currents s n).plan = s.plan ∧ (stepSwitch chamois readback currents s n).solver = s.solver ∧ (stepSwitch chamois readback currents s n).piste = s.piste ∧ (stepSwitch chamois readback currents s n).prof = s.prof ∧ (stepSwitch chamois readback currents s n).ctl = s.ctl ∧ (stepSwitch chamois readback currents s n).sched = s.sched ∧ (stepSwitch chamois readback currents s n).dsp = s.dsp ∧ (stepSwitch chamois readback currents s n).sep = s.sep ∧ (stepSwitch chamois readback currents s n).cham = s.cham ∧ (stepSwitch chamois readback currents s n).field = s.field ∧ (stepSwitch chamois readback currents s n).clocks = s.clocks ∧ (stepSwitch chamois readback currents s n).power = s.power ∧ (stepSwitch chamois readback currents s n).pair = s.pair ∧ (stepSwitch chamois readback currents s n).sec = s.sec ∧ (stepSwitch chamois readback currents s n).hw = s.hw := by
  have fr1 := @switchStuck_frame; have fr2 := @setSafeCh_frame
  unfold stepSwitch
  simp [fr1, fr2]

theorem evaluate_frame (chamois : Bool) (x : Samples) (s : State) :
    (evaluate chamois x s).writes = s.writes ∧ (evaluate chamois x s).image = s.image ∧ (evaluate chamois x s).herd = s.herd ∧ (evaluate chamois x s).net = s.net ∧ (evaluate chamois x s).plan = s.plan ∧ (evaluate chamois x s).solver = s.solver ∧ (evaluate chamois x s).piste = s.piste ∧ (evaluate chamois x s).prof = s.prof ∧ (evaluate chamois x s).ctl = s.ctl ∧ (evaluate chamois x s).sched = s.sched ∧ (evaluate chamois x s).dsp = s.dsp ∧ (evaluate chamois x s).sep = s.sep ∧ (evaluate chamois x s).cham = s.cham ∧ (evaluate chamois x s).field = s.field ∧ (evaluate chamois x s).clocks = s.clocks ∧ (evaluate chamois x s).power = s.power ∧ (evaluate chamois x s).pair = s.pair ∧ (evaluate chamois x s).sec = s.sec ∧ (evaluate chamois x s).hw = s.hw := by
  have fr1 := @setSafeCh_frame; have fr2 := @bump_frame; have fr3 := @expireEdge_frame; have fr4 := @pairEdges_frame; have fr5 := @askHold_frame; have fr6 := @stepArm_frame; have fr7 := @stepSwitch_frame
  unfold evaluate
  simp [fr1, fr2, fr3, fr4, fr5, fr6, fr7]

theorem openAll_frame (s : State) (chamois : Bool) :
    (openAll s chamois).mode = s.mode ∧ (openAll s chamois).start = s.start ∧ (openAll s chamois).zewen = s.zewen ∧ (openAll s chamois).writes = s.writes ∧ (openAll s chamois).image = s.image ∧ (openAll s chamois).reg = s.reg ∧ (openAll s chamois).objs = s.objs ∧ (openAll s chamois).herd = s.herd ∧ (openAll s chamois).aon = s.aon ∧ (openAll s chamois).net = s.net ∧ (openAll s chamois).plan = s.plan ∧ (openAll s chamois).solver = s.solver ∧ (openAll s chamois).piste = s.piste ∧ (openAll s chamois).prof = s.prof ∧ (openAll s chamois).ctl = s.ctl ∧ (openAll s chamois).sched = s.sched ∧ (openAll s chamois).dsp = s.dsp ∧ (openAll s chamois).sep = s.sep ∧ (openAll s chamois).cham = s.cham ∧ (openAll s chamois).field = s.field ∧ (openAll s chamois).acq = s.acq ∧ (openAll s chamois).logs = s.logs ∧ (openAll s chamois).clocks = s.clocks ∧ (openAll s chamois).power = s.power ∧ (openAll s chamois).pair = s.pair ∧ (openAll s chamois).sec = s.sec ∧ (openAll s chamois).hw = s.hw ∧ (openAll s chamois).nor = s.nor ∧ (openAll s chamois).freeCount = s.freeCount := by
  have fr1 := @setSafeCh_frame
  unfold openAll
  simp [fr1]

theorem silentToChamois_frame (s : State) (moving : Bool) :
    (silentToChamois s moving).writes = s.writes ∧ (silentToChamois s moving).image = s.image ∧ (silentToChamois s moving).herd = s.herd ∧ (silentToChamois s moving).net = s.net ∧ (silentToChamois s moving).plan = s.plan ∧ (silentToChamois s moving).solver = s.solver ∧ (silentToChamois s moving).piste = s.piste ∧ (silentToChamois s moving).prof = s.prof ∧ (silentToChamois s moving).ctl = s.ctl ∧ (silentToChamois s moving).sched = s.sched ∧ (silentToChamois s moving).dsp = s.dsp ∧ (silentToChamois s moving).sep = s.sep ∧ (silentToChamois s moving).safety = s.safety ∧ (silentToChamois s moving).field = s.field ∧ (silentToChamois s moving).clocks = s.clocks ∧ (silentToChamois s moving).power = s.power ∧ (silentToChamois s moving).pair = s.pair ∧ (silentToChamois s moving).sec = s.sec ∧ (silentToChamois s moving).hw = s.hw := by
  have fr1 := @chamoisLatch_frame; have fr2 := @faultError_frame; have fr3 := @error_frame
  unfold silentToChamois
  simp [fr1, fr2, fr3]

theorem outputDiagnosis_frame (low : Bool) (n : ℕ) (kind : ℕ) (present_ : Bool) (s : State) :
    (outputDiagnosis low n kind present_ s).writes = s.writes ∧ (outputDiagnosis low n kind present_ s).image = s.image ∧ (outputDiagnosis low n kind present_ s).herd = s.herd ∧ (outputDiagnosis low n kind present_ s).net = s.net ∧ (outputDiagnosis low n kind present_ s).plan = s.plan ∧ (outputDiagnosis low n kind present_ s).solver = s.solver ∧ (outputDiagnosis low n kind present_ s).piste = s.piste ∧ (outputDiagnosis low n kind present_ s).prof = s.prof ∧ (outputDiagnosis low n kind present_ s).ctl = s.ctl ∧ (outputDiagnosis low n kind present_ s).sched = s.sched ∧ (outputDiagnosis low n kind present_ s).dsp = s.dsp ∧ (outputDiagnosis low n kind present_ s).sep = s.sep ∧ (outputDiagnosis low n kind present_ s).cham = s.cham ∧ (outputDiagnosis low n kind present_ s).field = s.field ∧ (outputDiagnosis low n kind present_ s).clocks = s.clocks ∧ (outputDiagnosis low n kind present_ s).power = s.power ∧ (outputDiagnosis low n kind present_ s).pair = s.pair ∧ (outputDiagnosis low n kind present_ s).sec = s.sec ∧ (outputDiagnosis low n kind present_ s).hw = s.hw := by
  have fr1 := @setSafeCh_frame; have fr2 := @faultError_frame; have fr3 := @bump_frame
  unfold outputDiagnosis
  simp [fr1, fr2, fr3]

theorem sresetEdge_frame (s : State) :
    (sresetEdge s).start = s.start ∧ (sresetEdge s).zewen = s.zewen ∧ (sresetEdge s).writes = s.writes ∧ (sresetEdge s).image = s.image ∧ (sresetEdge s).reg = s.reg ∧ (sresetEdge s).herd = s.herd ∧ (sresetEdge s).aon = s.aon ∧ (sresetEdge s).net = s.net ∧ (sresetEdge s).plan = s.plan ∧ (sresetEdge s).solver = s.solver ∧ (sresetEdge s).piste = s.piste ∧ (sresetEdge s).prof = s.prof ∧ (sresetEdge s).ctl = s.ctl ∧ (sresetEdge s).sched = s.sched ∧ (sresetEdge s).dsp = s.dsp ∧ (sresetEdge s).sep = s.sep ∧ (sresetEdge s).cham = s.cham ∧ (sresetEdge s).field = s.field ∧ (sresetEdge s).acq = s.acq ∧ (sresetEdge s).logs = s.logs ∧ (sresetEdge s).clocks = s.clocks ∧ (sresetEdge s).power = s.power ∧ (sresetEdge s).pair = s.pair ∧ (sresetEdge s).sec = s.sec ∧ (sresetEdge s).hw = s.hw ∧ (sresetEdge s).nor = s.nor := by
  have fr1 := @bump_frame; have fr2 := @withMode_frame
  unfold sresetEdge
  split <;> simp [fr1, fr2]

/-! ### AuxAxes -/

theorem setAxis_frame (s : State) (k : ℕ) (f : AuxAxis → AuxAxis) :
    (setAxis s k f).mode = s.mode ∧ (setAxis s k f).start = s.start ∧ (setAxis s k f).zewen = s.zewen ∧ (setAxis s k f).writes = s.writes ∧ (setAxis s k f).image = s.image ∧ (setAxis s k f).reg = s.reg ∧ (setAxis s k f).objs = s.objs ∧ (setAxis s k f).herd = s.herd ∧ (setAxis s k f).aon = s.aon ∧ (setAxis s k f).net = s.net ∧ (setAxis s k f).plan = s.plan ∧ (setAxis s k f).solver = s.solver ∧ (setAxis s k f).piste = s.piste ∧ (setAxis s k f).prof = s.prof ∧ (setAxis s k f).ctl = s.ctl ∧ (setAxis s k f).sched = s.sched ∧ (setAxis s k f).dsp = s.dsp ∧ (setAxis s k f).sep = s.sep ∧ (setAxis s k f).safety = s.safety ∧ (setAxis s k f).cham = s.cham ∧ (setAxis s k f).acq = s.acq ∧ (setAxis s k f).logs = s.logs ∧ (setAxis s k f).clocks = s.clocks ∧ (setAxis s k f).power = s.power ∧ (setAxis s k f).pair = s.pair ∧ (setAxis s k f).sec = s.sec ∧ (setAxis s k f).hw = s.hw ∧ (setAxis s k f).nor = s.nor ∧ (setAxis s k f).freeCount = s.freeCount := by
  have fr1 := @withField_frame
  unfold setAxis
  simp [fr1]

theorem setAcc_frame (s : State) (k : ℕ) (f : PhaseAcc → PhaseAcc) :
    (setAcc s k f).mode = s.mode ∧ (setAcc s k f).start = s.start ∧ (setAcc s k f).zewen = s.zewen ∧ (setAcc s k f).writes = s.writes ∧ (setAcc s k f).image = s.image ∧ (setAcc s k f).reg = s.reg ∧ (setAcc s k f).objs = s.objs ∧ (setAcc s k f).herd = s.herd ∧ (setAcc s k f).aon = s.aon ∧ (setAcc s k f).net = s.net ∧ (setAcc s k f).plan = s.plan ∧ (setAcc s k f).solver = s.solver ∧ (setAcc s k f).piste = s.piste ∧ (setAcc s k f).ctl = s.ctl ∧ (setAcc s k f).sched = s.sched ∧ (setAcc s k f).dsp = s.dsp ∧ (setAcc s k f).sep = s.sep ∧ (setAcc s k f).safety = s.safety ∧ (setAcc s k f).cham = s.cham ∧ (setAcc s k f).field = s.field ∧ (setAcc s k f).acq = s.acq ∧ (setAcc s k f).logs = s.logs ∧ (setAcc s k f).clocks = s.clocks ∧ (setAcc s k f).power = s.power ∧ (setAcc s k f).pair = s.pair ∧ (setAcc s k f).sec = s.sec ∧ (setAcc s k f).hw = s.hw ∧ (setAcc s k f).nor = s.nor ∧ (setAcc s k f).freeCount = s.freeCount := by
  unfold setAcc
  simp

theorem setTargets_frame (s : State) (k : ℕ) :
    (setTargets s k).mode = s.mode ∧ (setTargets s k).start = s.start ∧ (setTargets s k).zewen = s.zewen ∧ (setTargets s k).writes = s.writes ∧ (setTargets s k).image = s.image ∧ (setTargets s k).reg = s.reg ∧ (setTargets s k).objs = s.objs ∧ (setTargets s k).herd = s.herd ∧ (setTargets s k).aon = s.aon ∧ (setTargets s k).net = s.net ∧ (setTargets s k).plan = s.plan ∧ (setTargets s k).solver = s.solver ∧ (setTargets s k).piste = s.piste ∧ (setTargets s k).prof = s.prof ∧ (setTargets s k).ctl = s.ctl ∧ (setTargets s k).sched = s.sched ∧ (setTargets s k).dsp = s.dsp ∧ (setTargets s k).sep = s.sep ∧ (setTargets s k).safety = s.safety ∧ (setTargets s k).cham = s.cham ∧ (setTargets s k).acq = s.acq ∧ (setTargets s k).logs = s.logs ∧ (setTargets s k).clocks = s.clocks ∧ (setTargets s k).power = s.power ∧ (setTargets s k).pair = s.pair ∧ (setTargets s k).sec = s.sec ∧ (setTargets s k).hw = s.hw ∧ (setTargets s k).nor = s.nor ∧ (setTargets s k).freeCount = s.freeCount := by
  have fr1 := @setAxis_frame
  unfold setTargets
  simp [fr1]

theorem accTick_frame (n : ℕ) (s : State) (k : ℕ) :
    (accTick n s k).mode = s.mode ∧ (accTick n s k).start = s.start ∧ (accTick n s k).zewen = s.zewen ∧ (accTick n s k).writes = s.writes ∧ (accTick n s k).image = s.image ∧ (accTick n s k).reg = s.reg ∧ (accTick n s k).herd = s.herd ∧ (accTick n s k).aon = s.aon ∧ (accTick n s k).net = s.net ∧ (accTick n s k).plan = s.plan ∧ (accTick n s k).solver = s.solver ∧ (accTick n s k).piste = s.piste ∧ (accTick n s k).ctl = s.ctl ∧ (accTick n s k).sched = s.sched ∧ (accTick n s k).dsp = s.dsp ∧ (accTick n s k).sep = s.sep ∧ (accTick n s k).safety = s.safety ∧ (accTick n s k).cham = s.cham ∧ (accTick n s k).field = s.field ∧ (accTick n s k).acq = s.acq ∧ (accTick n s k).logs = s.logs ∧ (accTick n s k).clocks = s.clocks ∧ (accTick n s k).power = s.power ∧ (accTick n s k).pair = s.pair ∧ (accTick n s k).sec = s.sec ∧ (accTick n s k).hw = s.hw ∧ (accTick n s k).nor = s.nor := by
  have fr1 := @setAcc_frame; have fr2 := @bump_frame
  unfold accTick
  simp [fr1, fr2]

theorem auxTick_frame (t : ℕ) (mid : ℤ) (s0 : State) (k : ℕ) :
    (auxTick t mid s0 k).mode = s0.mode ∧ (auxTick t mid s0 k).start = s0.start ∧ (auxTick t mid s0 k).zewen = s0.zewen ∧ (auxTick t mid s0 k).writes = s0.writes ∧ (auxTick t mid s0 k).image = s0.image ∧ (auxTick t mid s0 k).reg = s0.reg ∧ (auxTick t mid s0 k).objs = s0.objs ∧ (auxTick t mid s0 k).herd = s0.herd ∧ (auxTick t mid s0 k).aon = s0.aon ∧ (auxTick t mid s0 k).net = s0.net ∧ (auxTick t mid s0 k).plan = s0.plan ∧ (auxTick t mid s0 k).solver = s0.solver ∧ (auxTick t mid s0 k).piste = s0.piste ∧ (auxTick t mid s0 k).prof = s0.prof ∧ (auxTick t mid s0 k).ctl = s0.ctl ∧ (auxTick t mid s0 k).sched = s0.sched ∧ (auxTick t mid s0 k).dsp = s0.dsp ∧ (auxTick t mid s0 k).sep = s0.sep ∧ (auxTick t mid s0 k).safety = s0.safety ∧ (auxTick t mid s0 k).cham = s0.cham ∧ (auxTick t mid s0 k).acq = s0.acq ∧ (auxTick t mid s0 k).logs = s0.logs ∧ (auxTick t mid s0 k).clocks = s0.clocks ∧ (auxTick t mid s0 k).power = s0.power ∧ (auxTick t mid s0 k).pair = s0.pair ∧ (auxTick t mid s0 k).sec = s0.sec ∧ (auxTick t mid s0 k).hw = s0.hw ∧ (auxTick t mid s0 k).nor = s0.nor ∧ (auxTick t mid s0 k).freeCount = s0.freeCount := by
  have fr1 := @setAxis_frame; have fr2 := @setTargets_frame
  unfold auxTick
  simp [fr1, fr2]

theorem auxTicks_frame (n : ℕ) (s : State) :
    (auxTicks n s).mode = s.mode ∧ (auxTicks n s).start = s.start ∧ (auxTicks n s).zewen = s.zewen ∧ (auxTicks n s).writes = s.writes ∧ (auxTicks n s).image = s.image ∧ (auxTicks n s).reg = s.reg ∧ (auxTicks n s).herd = s.herd ∧ (auxTicks n s).aon = s.aon ∧ (auxTicks n s).net = s.net ∧ (auxTicks n s).plan = s.plan ∧ (auxTicks n s).solver = s.solver ∧ (auxTicks n s).piste = s.piste ∧ (auxTicks n s).ctl = s.ctl ∧ (auxTicks n s).sched = s.sched ∧ (auxTicks n s).dsp = s.dsp ∧ (auxTicks n s).sep = s.sep ∧ (auxTicks n s).safety = s.safety ∧ (auxTicks n s).cham = s.cham ∧ (auxTicks n s).acq = s.acq ∧ (auxTicks n s).logs = s.logs ∧ (auxTicks n s).clocks = s.clocks ∧ (auxTicks n s).power = s.power ∧ (auxTicks n s).pair = s.pair ∧ (auxTicks n s).sec = s.sec ∧ (auxTicks n s).hw = s.hw ∧ (auxTicks n s).nor = s.nor := by
  have fr1 := @auxTick_frame; have fr2 := @accTick_frame
  unfold auxTicks
  simp [fr1, fr2]

/-! ### Clocks -/

theorem withClocks_frame (s : State) (f : ClockState → ClockState) :
    (withClocks s f).mode = s.mode ∧ (withClocks s f).start = s.start ∧ (withClocks s f).zewen = s.zewen ∧ (withClocks s f).writes = s.writes ∧ (withClocks s f).image = s.image ∧ (withClocks s f).reg = s.reg ∧ (withClocks s f).objs = s.objs ∧ (withClocks s f).herd = s.herd ∧ (withClocks s f).aon = s.aon ∧ (withClocks s f).net = s.net ∧ (withClocks s f).plan = s.plan ∧ (withClocks s f).solver = s.solver ∧ (withClocks s f).piste = s.piste ∧ (withClocks s f).prof = s.prof ∧ (withClocks s f).ctl = s.ctl ∧ (withClocks s f).sched = s.sched ∧ (withClocks s f).dsp = s.dsp ∧ (withClocks s f).sep = s.sep ∧ (withClocks s f).safety = s.safety ∧ (withClocks s f).cham = s.cham ∧ (withClocks s f).field = s.field ∧ (withClocks s f).acq = s.acq ∧ (withClocks s f).logs = s.logs ∧ (withClocks s f).power = s.power ∧ (withClocks s f).pair = s.pair ∧ (withClocks s f).sec = s.sec ∧ (withClocks s f).hw = s.hw ∧ (withClocks s f).nor = s.nor ∧ (withClocks s f).freeCount = s.freeCount := by
  unfold withClocks
  simp

theorem withPower_frame (s : State) (f : PowerState → PowerState) :
    (withPower s f).mode = s.mode ∧ (withPower s f).start = s.start ∧ (withPower s f).zewen = s.zewen ∧ (withPower s f).writes = s.writes ∧ (withPower s f).image = s.image ∧ (withPower s f).reg = s.reg ∧ (withPower s f).objs = s.objs ∧ (withPower s f).herd = s.herd ∧ (withPower s f).aon = s.aon ∧ (withPower s f).net = s.net ∧ (withPower s f).plan = s.plan ∧ (withPower s f).solver = s.solver ∧ (withPower s f).piste = s.piste ∧ (withPower s f).prof = s.prof ∧ (withPower s f).ctl = s.ctl ∧ (withPower s f).sched = s.sched ∧ (withPower s f).dsp = s.dsp ∧ (withPower s f).sep = s.sep ∧ (withPower s f).safety = s.safety ∧ (withPower s f).cham = s.cham ∧ (withPower s f).field = s.field ∧ (withPower s f).acq = s.acq ∧ (withPower s f).logs = s.logs ∧ (withPower s f).clocks = s.clocks ∧ (withPower s f).pair = s.pair ∧ (withPower s f).sec = s.sec ∧ (withPower s f).hw = s.hw ∧ (withPower s f).nor = s.nor ∧ (withPower s f).freeCount = s.freeCount := by
  unfold withPower
  simp

theorem switchTo_frame (s : State) (r : ClockRef) :
    (switchTo s r).mode = s.mode ∧ (switchTo s r).start = s.start ∧ (switchTo s r).zewen = s.zewen ∧ (switchTo s r).writes = s.writes ∧ (switchTo s r).image = s.image ∧ (switchTo s r).reg = s.reg ∧ (switchTo s r).objs = s.objs ∧ (switchTo s r).herd = s.herd ∧ (switchTo s r).aon = s.aon ∧ (switchTo s r).net = s.net ∧ (switchTo s r).plan = s.plan ∧ (switchTo s r).solver = s.solver ∧ (switchTo s r).piste = s.piste ∧ (switchTo s r).prof = s.prof ∧ (switchTo s r).ctl = s.ctl ∧ (switchTo s r).sched = s.sched ∧ (switchTo s r).dsp = s.dsp ∧ (switchTo s r).sep = s.sep ∧ (switchTo s r).safety = s.safety ∧ (switchTo s r).cham = s.cham ∧ (switchTo s r).field = s.field ∧ (switchTo s r).acq = s.acq ∧ (switchTo s r).logs = s.logs ∧ (switchTo s r).power = s.power ∧ (switchTo s r).pair = s.pair ∧ (switchTo s r).sec = s.sec ∧ (switchTo s r).hw = s.hw ∧ (switchTo s r).nor = s.nor ∧ (switchTo s r).freeCount = s.freeCount := by
  have fr1 := @withClocks_frame
  unfold switchTo
  simp [fr1]

theorem switchDone_frame (s : State) :
    (switchDone s).mode = s.mode ∧ (switchDone s).start = s.start ∧ (switchDone s).zewen = s.zewen ∧ (switchDone s).writes = s.writes ∧ (switchDone s).image = s.image ∧ (switchDone s).reg = s.reg ∧ (switchDone s).objs = s.objs ∧ (switchDone s).herd = s.herd ∧ (switchDone s).aon = s.aon ∧ (switchDone s).net = s.net ∧ (switchDone s).plan = s.plan ∧ (switchDone s).solver = s.solver ∧ (switchDone s).piste = s.piste ∧ (switchDone s).prof = s.prof ∧ (switchDone s).ctl = s.ctl ∧ (switchDone s).sched = s.sched ∧ (switchDone s).dsp = s.dsp ∧ (switchDone s).sep = s.sep ∧ (switchDone s).safety = s.safety ∧ (switchDone s).cham = s.cham ∧ (switchDone s).field = s.field ∧ (switchDone s).acq = s.acq ∧ (switchDone s).logs = s.logs ∧ (switchDone s).power = s.power ∧ (switchDone s).pair = s.pair ∧ (switchDone s).sec = s.sec ∧ (switchDone s).hw = s.hw ∧ (switchDone s).nor = s.nor ∧ (switchDone s).freeCount = s.freeCount := by
  have fr1 := @withClocks_frame
  unfold switchDone
  simp [fr1]

theorem clkEvent_frame (s : State) (n : ℕ) :
    (clkEvent s n).mode = s.mode ∧ (clkEvent s n).start = s.start ∧ (clkEvent s n).writes = s.writes ∧ (clkEvent s n).image = s.image ∧ (clkEvent s n).objs = s.objs ∧ (clkEvent s n).herd = s.herd ∧ (clkEvent s n).aon = s.aon ∧ (clkEvent s n).net = s.net ∧ (clkEvent s n).plan = s.plan ∧ (clkEvent s n).solver = s.solver ∧ (clkEvent s n).piste = s.piste ∧ (clkEvent s n).prof = s.prof ∧ (clkEvent s n).ctl = s.ctl ∧ (clkEvent s n).sched = s.sched ∧ (clkEvent s n).dsp = s.dsp ∧ (clkEvent s n).sep = s.sep ∧ (clkEvent s n).safety = s.safety ∧ (clkEvent s n).cham = s.cham ∧ (clkEvent s n).field = s.field ∧ (clkEvent s n).acq = s.acq ∧ (clkEvent s n).logs = s.logs ∧ (clkEvent s n).power = s.power ∧ (clkEvent s n).pair = s.pair ∧ (clkEvent s n).sec = s.sec ∧ (clkEvent s n).hw = s.hw ∧ (clkEvent s n).nor = s.nor ∧ (clkEvent s n).freeCount = s.freeCount := by
  have fr1 := @withFresh_frame; have fr2 := @withClocks_frame; have fr3 := @setInt_frame
  unfold clkEvent
  simp [fr1, fr2, fr3]

theorem markLoss_frame (s : State) (src : ℕ) :
    (markLoss s src).mode = s.mode ∧ (markLoss s src).start = s.start ∧ (markLoss s src).writes = s.writes ∧ (markLoss s src).image = s.image ∧ (markLoss s src).herd = s.herd ∧ (markLoss s src).aon = s.aon ∧ (markLoss s src).net = s.net ∧ (markLoss s src).plan = s.plan ∧ (markLoss s src).solver = s.solver ∧ (markLoss s src).piste = s.piste ∧ (markLoss s src).prof = s.prof ∧ (markLoss s src).ctl = s.ctl ∧ (markLoss s src).sched = s.sched ∧ (markLoss s src).dsp = s.dsp ∧ (markLoss s src).sep = s.sep ∧ (markLoss s src).safety = s.safety ∧ (markLoss s src).cham = s.cham ∧ (markLoss s src).field = s.field ∧ (markLoss s src).acq = s.acq ∧ (markLoss s src).logs = s.logs ∧ (markLoss s src).power = s.power ∧ (markLoss s src).pair = s.pair ∧ (markLoss s src).sec = s.sec ∧ (markLoss s src).hw = s.hw ∧ (markLoss s src).nor = s.nor := by
  have fr1 := @bump_frame; have fr2 := @withClocks_frame; have fr3 := @clkEvent_frame
  unfold markLoss
  simp [fr1, fr2, fr3]

theorem loseClock_frame (s : State) (src : ℕ) :
    (loseClock s src).writes = s.writes ∧ (loseClock s src).net = s.net ∧ (loseClock s src).solver = s.solver ∧ (loseClock s src).prof = s.prof ∧ (loseClock s src).ctl = s.ctl ∧ (loseClock s src).sched = s.sched ∧ (loseClock s src).dsp = s.dsp ∧ (loseClock s src).sep = s.sep ∧ (loseClock s src).safety = s.safety ∧ (loseClock s src).cham = s.cham ∧ (loseClock s src).field = s.field ∧ (loseClock s src).power = s.power ∧ (loseClock s src).pair = s.pair ∧ (loseClock s src).hw = s.hw := by
  have fr1 := @markLoss_frame; have fr2 := @withClocks_frame; have fr3 := @switchTo_frame; have fr4 := @loseSource_frame; have fr5 := @errorTrigger_frame; have fr6 := @faultError_frame; have fr7 := @error_frame; have fr8 := @pcieDown_frame
  unfold loseClock
  (repeat' split) <;> simp [fr1, fr2, fr3, fr4, fr5, fr6, fr7, fr8]

theorem clkRestore_frame (s : State) :
    (clkRestore s).mode = s.mode ∧ (clkRestore s).start = s.start ∧ (clkRestore s).zewen = s.zewen ∧ (clkRestore s).writes = s.writes ∧ (clkRestore s).image = s.image ∧ (clkRestore s).reg = s.reg ∧ (clkRestore s).objs = s.objs ∧ (clkRestore s).herd = s.herd ∧ (clkRestore s).aon = s.aon ∧ (clkRestore s).net = s.net ∧ (clkRestore s).plan = s.plan ∧ (clkRestore s).solver = s.solver ∧ (clkRestore s).piste = s.piste ∧ (clkRestore s).prof = s.prof ∧ (clkRestore s).ctl = s.ctl ∧ (clkRestore s).sched = s.sched ∧ (clkRestore s).dsp = s.dsp ∧ (clkRestore s).sep = s.sep ∧ (clkRestore s).safety = s.safety ∧ (clkRestore s).cham = s.cham ∧ (clkRestore s).field = s.field ∧ (clkRestore s).acq = s.acq ∧ (clkRestore s).logs = s.logs ∧ (clkRestore s).power = s.power ∧ (clkRestore s).pair = s.pair ∧ (clkRestore s).sec = s.sec ∧ (clkRestore s).hw = s.hw ∧ (clkRestore s).nor = s.nor ∧ (clkRestore s).freeCount = s.freeCount := by
  have fr1 := @withClocks_frame; have fr2 := @switchTo_frame
  unfold clkRestore
  split <;> simp [fr1, fr2]

theorem clocksActivate_frame (s : State) :
    (clocksActivate s).mode = s.mode ∧ (clocksActivate s).start = s.start ∧ (clocksActivate s).zewen = s.zewen ∧ (clocksActivate s).writes = s.writes ∧ (clocksActivate s).image = s.image ∧ (clocksActivate s).reg = s.reg ∧ (clocksActivate s).objs = s.objs ∧ (clocksActivate s).herd = s.herd ∧ (clocksActivate s).aon = s.aon ∧ (clocksActivate s).net = s.net ∧ (clocksActivate s).plan = s.plan ∧ (clocksActivate s).solver = s.solver ∧ (clocksActivate s).piste = s.piste ∧ (clocksActivate s).prof = s.prof ∧ (clocksActivate s).ctl = s.ctl ∧ (clocksActivate s).sched = s.sched ∧ (clocksActivate s).dsp = s.dsp ∧ (clocksActivate s).sep = s.sep ∧ (clocksActivate s).safety = s.safety ∧ (clocksActivate s).cham = s.cham ∧ (clocksActivate s).field = s.field ∧ (clocksActivate s).acq = s.acq ∧ (clocksActivate s).logs = s.logs ∧ (clocksActivate s).power = s.power ∧ (clocksActivate s).pair = s.pair ∧ (clocksActivate s).sec = s.sec ∧ (clocksActivate s).hw = s.hw ∧ (clocksActivate s).nor = s.nor ∧ (clocksActivate s).freeCount = s.freeCount := by
  have fr1 := @switchTo_frame
  unfold clocksActivate
  simp [fr1]

theorem clkoutFollow_frame (old : State) (s : State) :
    (clkoutFollow old s).mode = s.mode ∧ (clkoutFollow old s).start = s.start ∧ (clkoutFollow old s).zewen = s.zewen ∧ (clkoutFollow old s).writes = s.writes ∧ (clkoutFollow old s).image = s.image ∧ (clkoutFollow old s).reg = s.reg ∧ (clkoutFollow old s).objs = s.objs ∧ (clkoutFollow old s).herd = s.herd ∧ (clkoutFollow old s).aon = s.aon ∧ (clkoutFollow old s).net = s.net ∧ (clkoutFollow old s).plan = s.plan ∧ (clkoutFollow old s).solver = s.solver ∧ (clkoutFollow old s).piste = s.piste ∧ (clkoutFollow old s).prof = s.prof ∧ (clkoutFollow old s).ctl = s.ctl ∧ (clkoutFollow old s).sched = s.sched ∧ (clkoutFollow old s).dsp = s.dsp ∧ (clkoutFollow old s).sep = s.sep ∧ (clkoutFollow old s).safety = s.safety ∧ (clkoutFollow old s).cham = s.cham ∧ (clkoutFollow old s).field = s.field ∧ (clkoutFollow old s).acq = s.acq ∧ (clkoutFollow old s).logs = s.logs ∧ (clkoutFollow old s).clocks = s.clocks ∧ (clkoutFollow old s).power = s.power ∧ (clkoutFollow old s).pair = s.pair ∧ (clkoutFollow old s).sec = s.sec ∧ (clkoutFollow old s).hw = s.hw ∧ (clkoutFollow old s).nor = s.nor ∧ (clkoutFollow old s).freeCount = s.freeCount := by
  have fr1 := @emit_frame
  unfold clkoutFollow
  simp [fr1]

theorem setGate_frame (s : State) (region : ℕ) (member : ℕ) (close : Bool) :
    (setGate s region member close).mode = s.mode ∧ (setGate s region member close).start = s.start ∧ (setGate s region member close).zewen = s.zewen ∧ (setGate s region member close).writes = s.writes ∧ (setGate s region member close).image = s.image ∧ (setGate s region member close).reg = s.reg ∧ (setGate s region member close).objs = s.objs ∧ (setGate s region member close).herd = s.herd ∧ (setGate s region member close).aon = s.aon ∧ (setGate s region member close).net = s.net ∧ (setGate s region member close).plan = s.plan ∧ (setGate s region member close).solver = s.solver ∧ (setGate s region member close).piste = s.piste ∧ (setGate s region member close).prof = s.prof ∧ (setGate s region member close).ctl = s.ctl ∧ (setGate s region member close).sched = s.sched ∧ (setGate s region member close).dsp = s.dsp ∧ (setGate s region member close).sep = s.sep ∧ (setGate s region member close).safety = s.safety ∧ (setGate s region member close).cham = s.cham ∧ (setGate s region member close).field = s.field ∧ (setGate s region member close).acq = s.acq ∧ (setGate s region member close).logs = s.logs ∧ (setGate s region member close).power = s.power ∧ (setGate s region member close).pair = s.pair ∧ (setGate s region member close).sec = s.sec ∧ (setGate s region member close).hw = s.hw ∧ (setGate s region member close).nor = s.nor ∧ (setGate s region member close).freeCount = s.freeCount := by
  have fr1 := @withClocks_frame
  unfold setGate
  simp [fr1]

theorem ungateUsed_frame (s : State) :
    (ungateUsed s).mode = s.mode ∧ (ungateUsed s).start = s.start ∧ (ungateUsed s).zewen = s.zewen ∧ (ungateUsed s).writes = s.writes ∧ (ungateUsed s).image = s.image ∧ (ungateUsed s).reg = s.reg ∧ (ungateUsed s).objs = s.objs ∧ (ungateUsed s).herd = s.herd ∧ (ungateUsed s).aon = s.aon ∧ (ungateUsed s).net = s.net ∧ (ungateUsed s).plan = s.plan ∧ (ungateUsed s).solver = s.solver ∧ (ungateUsed s).piste = s.piste ∧ (ungateUsed s).prof = s.prof ∧ (ungateUsed s).ctl = s.ctl ∧ (ungateUsed s).sched = s.sched ∧ (ungateUsed s).dsp = s.dsp ∧ (ungateUsed s).sep = s.sep ∧ (ungateUsed s).safety = s.safety ∧ (ungateUsed s).cham = s.cham ∧ (ungateUsed s).field = s.field ∧ (ungateUsed s).acq = s.acq ∧ (ungateUsed s).logs = s.logs ∧ (ungateUsed s).power = s.power ∧ (ungateUsed s).pair = s.pair ∧ (ungateUsed s).sec = s.sec ∧ (ungateUsed s).hw = s.hw ∧ (ungateUsed s).nor = s.nor ∧ (ungateUsed s).freeCount = s.freeCount := by
  have fr1 := @withClocks_frame
  unfold ungateUsed
  simp [fr1]

theorem domainLoses_frame (s : State) (d : ℕ) :
    (domainLoses s d).mode = s.mode ∧ (domainLoses s d).start = s.start ∧ (domainLoses s d).writes = s.writes ∧ (domainLoses s d).image = s.image ∧ (domainLoses s d).herd = s.herd ∧ (domainLoses s d).aon = s.aon ∧ (domainLoses s d).net = s.net ∧ (domainLoses s d).plan = s.plan ∧ (domainLoses s d).piste = s.piste ∧ (domainLoses s d).safety = s.safety ∧ (domainLoses s d).cham = s.cham ∧ (domainLoses s d).clocks = s.clocks ∧ (domainLoses s d).power = s.power ∧ (domainLoses s d).pair = s.pair ∧ (domainLoses s d).sec = s.sec ∧ (domainLoses s d).hw = s.hw ∧ (domainLoses s d).nor = s.nor := by
  have fr1 := @withSched_frame; have fr2 := @settleRuns_frame; have fr3 := @loopsStop_frame; have fr4 := @withSep_frame
  unfold domainLoses
  split <;> simp [fr1, fr2, fr3, fr4]

theorem startSequence_frame (s : State) (off : List ℕ) (on : List (List ℕ)) :
    (startSequence s off on).mode = s.mode ∧ (startSequence s off on).start = s.start ∧ (startSequence s off on).zewen = s.zewen ∧ (startSequence s off on).writes = s.writes ∧ (startSequence s off on).image = s.image ∧ (startSequence s off on).reg = s.reg ∧ (startSequence s off on).objs = s.objs ∧ (startSequence s off on).herd = s.herd ∧ (startSequence s off on).aon = s.aon ∧ (startSequence s off on).net = s.net ∧ (startSequence s off on).plan = s.plan ∧ (startSequence s off on).solver = s.solver ∧ (startSequence s off on).piste = s.piste ∧ (startSequence s off on).prof = s.prof ∧ (startSequence s off on).ctl = s.ctl ∧ (startSequence s off on).sched = s.sched ∧ (startSequence s off on).dsp = s.dsp ∧ (startSequence s off on).sep = s.sep ∧ (startSequence s off on).safety = s.safety ∧ (startSequence s off on).cham = s.cham ∧ (startSequence s off on).field = s.field ∧ (startSequence s off on).acq = s.acq ∧ (startSequence s off on).logs = s.logs ∧ (startSequence s off on).clocks = s.clocks ∧ (startSequence s off on).pair = s.pair ∧ (startSequence s off on).sec = s.sec ∧ (startSequence s off on).hw = s.hw ∧ (startSequence s off on).nor = s.nor ∧ (startSequence s off on).freeCount = s.freeCount := by
  have fr1 := @withPower_frame
  unfold startSequence
  simp [fr1]

theorem domainUp_frame (s : State) (d : ℕ) :
    (domainUp s d).mode = s.mode ∧ (domainUp s d).start = s.start ∧ (domainUp s d).zewen = s.zewen ∧ (domainUp s d).writes = s.writes ∧ (domainUp s d).image = s.image ∧ (domainUp s d).reg = s.reg ∧ (domainUp s d).herd = s.herd ∧ (domainUp s d).aon = s.aon ∧ (domainUp s d).net = s.net ∧ (domainUp s d).plan = s.plan ∧ (domainUp s d).solver = s.solver ∧ (domainUp s d).piste = s.piste ∧ (domainUp s d).prof = s.prof ∧ (domainUp s d).ctl = s.ctl ∧ (domainUp s d).sched = s.sched ∧ (domainUp s d).dsp = s.dsp ∧ (domainUp s d).sep = s.sep ∧ (domainUp s d).safety = s.safety ∧ (domainUp s d).cham = s.cham ∧ (domainUp s d).field = s.field ∧ (domainUp s d).acq = s.acq ∧ (domainUp s d).logs = s.logs ∧ (domainUp s d).clocks = s.clocks ∧ (domainUp s d).pair = s.pair ∧ (domainUp s d).sec = s.sec ∧ (domainUp s d).hw = s.hw ∧ (domainUp s d).nor = s.nor ∧ (domainUp s d).freeCount = s.freeCount := by
  have fr1 := @bumpAt_frame; have fr2 := @withPower_frame
  unfold domainUp
  simp [fr1, fr2]

theorem powerGoodTimeout_frame (s : State) (domain : ℕ) :
    (powerGoodTimeout s domain).writes = s.writes ∧ (powerGoodTimeout s domain).image = s.image ∧ (powerGoodTimeout s domain).herd = s.herd ∧ (powerGoodTimeout s domain).net = s.net ∧ (powerGoodTimeout s domain).plan = s.plan ∧ (powerGoodTimeout s domain).solver = s.solver ∧ (powerGoodTimeout s domain).piste = s.piste ∧ (powerGoodTimeout s domain).prof = s.prof ∧ (powerGoodTimeout s domain).ctl = s.ctl ∧ (powerGoodTimeout s domain).sched = s.sched ∧ (powerGoodTimeout s domain).dsp = s.dsp ∧ (powerGoodTimeout s domain).sep = s.sep ∧ (powerGoodTimeout s domain).safety = s.safety ∧ (powerGoodTimeout s domain).cham = s.cham ∧ (powerGoodTimeout s domain).field = s.field ∧ (powerGoodTimeout s domain).clocks = s.clocks ∧ (powerGoodTimeout s domain).power = s.power ∧ (powerGoodTimeout s domain).pair = s.pair ∧ (powerGoodTimeout s domain).sec = s.sec := by
  have fr1 := @faultError_frame
  unfold powerGoodTimeout
  simp [fr1]

/-! ### Profile -/

theorem withProf_frame (s : State) (f : ProfileState → ProfileState) :
    (withProf s f).mode = s.mode ∧ (withProf s f).start = s.start ∧ (withProf s f).zewen = s.zewen ∧ (withProf s f).writes = s.writes ∧ (withProf s f).image = s.image ∧ (withProf s f).reg = s.reg ∧ (withProf s f).objs = s.objs ∧ (withProf s f).herd = s.herd ∧ (withProf s f).aon = s.aon ∧ (withProf s f).net = s.net ∧ (withProf s f).plan = s.plan ∧ (withProf s f).solver = s.solver ∧ (withProf s f).piste = s.piste ∧ (withProf s f).ctl = s.ctl ∧ (withProf s f).sched = s.sched ∧ (withProf s f).dsp = s.dsp ∧ (withProf s f).sep = s.sep ∧ (withProf s f).safety = s.safety ∧ (withProf s f).cham = s.cham ∧ (withProf s f).field = s.field ∧ (withProf s f).acq = s.acq ∧ (withProf s f).logs = s.logs ∧ (withProf s f).clocks = s.clocks ∧ (withProf s f).power = s.power ∧ (withProf s f).pair = s.pair ∧ (withProf s f).sec = s.sec ∧ (withProf s f).hw = s.hw ∧ (withProf s f).nor = s.nor ∧ (withProf s f).freeCount = s.freeCount := by
  unfold withProf
  simp

theorem setChan_frame (s : State) (ch : ℕ) (f : Channel → Channel) :
    (setChan s ch f).mode = s.mode ∧ (setChan s ch f).start = s.start ∧ (setChan s ch f).zewen = s.zewen ∧ (setChan s ch f).writes = s.writes ∧ (setChan s ch f).image = s.image ∧ (setChan s ch f).reg = s.reg ∧ (setChan s ch f).objs = s.objs ∧ (setChan s ch f).herd = s.herd ∧ (setChan s ch f).aon = s.aon ∧ (setChan s ch f).net = s.net ∧ (setChan s ch f).plan = s.plan ∧ (setChan s ch f).solver = s.solver ∧ (setChan s ch f).piste = s.piste ∧ (setChan s ch f).ctl = s.ctl ∧ (setChan s ch f).sched = s.sched ∧ (setChan s ch f).dsp = s.dsp ∧ (setChan s ch f).sep = s.sep ∧ (setChan s ch f).safety = s.safety ∧ (setChan s ch f).cham = s.cham ∧ (setChan s ch f).field = s.field ∧ (setChan s ch f).acq = s.acq ∧ (setChan s ch f).logs = s.logs ∧ (setChan s ch f).clocks = s.clocks ∧ (setChan s ch f).power = s.power ∧ (setChan s ch f).pair = s.pair ∧ (setChan s ch f).sec = s.sec ∧ (setChan s ch f).hw = s.hw ∧ (setChan s ch f).nor = s.nor ∧ (setChan s ch f).freeCount = s.freeCount := by
  have fr1 := @withProf_frame
  unfold setChan
  simp [fr1]

theorem setArmMot_frame (s : State) (a : ℕ) (f : ArmMotion → ArmMotion) :
    (setArmMot s a f).mode = s.mode ∧ (setArmMot s a f).start = s.start ∧ (setArmMot s a f).zewen = s.zewen ∧ (setArmMot s a f).writes = s.writes ∧ (setArmMot s a f).image = s.image ∧ (setArmMot s a f).reg = s.reg ∧ (setArmMot s a f).objs = s.objs ∧ (setArmMot s a f).herd = s.herd ∧ (setArmMot s a f).aon = s.aon ∧ (setArmMot s a f).net = s.net ∧ (setArmMot s a f).plan = s.plan ∧ (setArmMot s a f).solver = s.solver ∧ (setArmMot s a f).piste = s.piste ∧ (setArmMot s a f).ctl = s.ctl ∧ (setArmMot s a f).sched = s.sched ∧ (setArmMot s a f).dsp = s.dsp ∧ (setArmMot s a f).sep = s.sep ∧ (setArmMot s a f).safety = s.safety ∧ (setArmMot s a f).cham = s.cham ∧ (setArmMot s a f).field = s.field ∧ (setArmMot s a f).acq = s.acq ∧ (setArmMot s a f).logs = s.logs ∧ (setArmMot s a f).clocks = s.clocks ∧ (setArmMot s a f).power = s.power ∧ (setArmMot s a f).pair = s.pair ∧ (setArmMot s a f).sec = s.sec ∧ (setArmMot s a f).hw = s.hw ∧ (setArmMot s a f).nor = s.nor ∧ (setArmMot s a f).freeCount = s.freeCount := by
  have fr1 := @withProf_frame
  unfold setArmMot
  simp [fr1]

theorem setArmPlan_frame (s : State) (a : ℕ) (f : ArmPlan → ArmPlan) :
    (setArmPlan s a f).mode = s.mode ∧ (setArmPlan s a f).start = s.start ∧ (setArmPlan s a f).zewen = s.zewen ∧ (setArmPlan s a f).writes = s.writes ∧ (setArmPlan s a f).image = s.image ∧ (setArmPlan s a f).reg = s.reg ∧ (setArmPlan s a f).objs = s.objs ∧ (setArmPlan s a f).herd = s.herd ∧ (setArmPlan s a f).aon = s.aon ∧ (setArmPlan s a f).net = s.net ∧ (setArmPlan s a f).solver = s.solver ∧ (setArmPlan s a f).piste = s.piste ∧ (setArmPlan s a f).prof = s.prof ∧ (setArmPlan s a f).ctl = s.ctl ∧ (setArmPlan s a f).sched = s.sched ∧ (setArmPlan s a f).dsp = s.dsp ∧ (setArmPlan s a f).sep = s.sep ∧ (setArmPlan s a f).safety = s.safety ∧ (setArmPlan s a f).cham = s.cham ∧ (setArmPlan s a f).field = s.field ∧ (setArmPlan s a f).acq = s.acq ∧ (setArmPlan s a f).logs = s.logs ∧ (setArmPlan s a f).clocks = s.clocks ∧ (setArmPlan s a f).power = s.power ∧ (setArmPlan s a f).pair = s.pair ∧ (setArmPlan s a f).sec = s.sec ∧ (setArmPlan s a f).hw = s.hw ∧ (setArmPlan s a f).nor = s.nor ∧ (setArmPlan s a f).freeCount = s.freeCount := by
  unfold setArmPlan
  simp

theorem refuseMove_frame (s : State) (o : Origin) (ch : ℕ) (r : MoveNo) :
    (refuseMove s o ch r).mode = s.mode ∧ (refuseMove s o ch r).start = s.start ∧ (refuseMove s o ch r).writes = s.writes ∧ (refuseMove s o ch r).image = s.image ∧ (refuseMove s o ch r).herd = s.herd ∧ (refuseMove s o ch r).aon = s.aon ∧ (refuseMove s o ch r).net = s.net ∧ (refuseMove s o ch r).plan = s.plan ∧ (refuseMove s o ch r).solver = s.solver ∧ (refuseMove s o ch r).piste = s.piste ∧ (refuseMove s o ch r).prof = s.prof ∧ (refuseMove s o ch r).ctl = s.ctl ∧ (refuseMove s o ch r).sched = s.sched ∧ (refuseMove s o ch r).dsp = s.dsp ∧ (refuseMove s o ch r).sep = s.sep ∧ (refuseMove s o ch r).safety = s.safety ∧ (refuseMove s o ch r).cham = s.cham ∧ (refuseMove s o ch r).field = s.field ∧ (refuseMove s o ch r).clocks = s.clocks ∧ (refuseMove s o ch r).power = s.power ∧ (refuseMove s o ch r).pair = s.pair ∧ (refuseMove s o ch r).sec = s.sec ∧ (refuseMove s o ch r).hw = s.hw ∧ (refuseMove s o ch r).nor = s.nor := by
  have fr1 := @trace_frame; have fr2 := @bump_frame; have fr3 := @complete_frame
  unfold refuseMove
  simp [fr1, fr2, fr3]

theorem acceptMove_frame (s : State) (o : Origin) (ch : ℕ) (endTheta : Option ℕ) :
    (acceptMove s o ch endTheta).mode = s.mode ∧ (acceptMove s o ch endTheta).start = s.start ∧ (acceptMove s o ch endTheta).writes = s.writes ∧ (acceptMove s o ch endTheta).image = s.image ∧ (acceptMove s o ch endTheta).herd = s.herd ∧ (acceptMove s o ch endTheta).aon = s.aon ∧ (acceptMove s o ch endTheta).net = s.net ∧ (acceptMove s o ch endTheta).plan = s.plan ∧ (acceptMove s o ch endTheta).solver = s.solver ∧ (acceptMove s o ch endTheta).piste = s.piste ∧ (acceptMove s o ch endTheta).ctl = s.ctl ∧ (acceptMove s o ch endTheta).sched = s.sched ∧ (acceptMove s o ch endTheta).dsp = s.dsp ∧ (acceptMove s o ch endTheta).sep = s.sep ∧ (acceptMove s o ch endTheta).safety = s.safety ∧ (acceptMove s o ch endTheta).cham = s.cham ∧ (acceptMove s o ch endTheta).field = s.field ∧ (acceptMove s o ch endTheta).clocks = s.clocks ∧ (acceptMove s o ch endTheta).power = s.power ∧ (acceptMove s o ch endTheta).pair = s.pair ∧ (acceptMove s o ch endTheta).sec = s.sec ∧ (acceptMove s o ch endTheta).hw = s.hw ∧ (acceptMove s o ch endTheta).nor = s.nor := by
  have fr1 := @trace_frame; have fr2 := @bump_frame; have fr3 := @withProf_frame; have fr4 := @complete_frame
  unfold acceptMove
  simp [fr1, fr2, fr3, fr4]

theorem setMotion_frame (s : State) (ch : ℕ) (m : Motion) (id : ℕ) (target : ℤ) :
    (setMotion s ch m id target).mode = s.mode ∧ (setMotion s ch m id target).start = s.start ∧ (setMotion s ch m id target).zewen = s.zewen ∧ (setMotion s ch m id target).writes = s.writes ∧ (setMotion s ch m id target).image = s.image ∧ (setMotion s ch m id target).reg = s.reg ∧ (setMotion s ch m id target).objs = s.objs ∧ (setMotion s ch m id target).herd = s.herd ∧ (setMotion s ch m id target).aon = s.aon ∧ (setMotion s ch m id target).net = s.net ∧ (setMotion s ch m id target).plan = s.plan ∧ (setMotion s ch m id target).solver = s.solver ∧ (setMotion s ch m id target).piste = s.piste ∧ (setMotion s ch m id target).ctl = s.ctl ∧ (setMotion s ch m id target).sched = s.sched ∧ (setMotion s ch m id target).dsp = s.dsp ∧ (setMotion s ch m id target).sep = s.sep ∧ (setMotion s ch m id target).safety = s.safety ∧ (setMotion s ch m id target).cham = s.cham ∧ (setMotion s ch m id target).field = s.field ∧ (setMotion s ch m id target).acq = s.acq ∧ (setMotion s ch m id target).logs = s.logs ∧ (setMotion s ch m id target).clocks = s.clocks ∧ (setMotion s ch m id target).power = s.power ∧ (setMotion s ch m id target).pair = s.pair ∧ (setMotion s ch m id target).sec = s.sec ∧ (setMotion s ch m id target).hw = s.hw ∧ (setMotion s ch m id target).nor = s.nor ∧ (setMotion s ch m id target).freeCount = s.freeCount := by
  have fr1 := @setChan_frame
  unfold setMotion
  simp [fr1]

theorem armMoves_frame (s : State) (ch : ℕ) (a : ℕ) (set : List LeaseNeed) (src : ArmSource) :
    (armMoves s ch a set src).mode = s.mode ∧ (armMoves s ch a set src).start = s.start ∧ (armMoves s ch a set src).zewen = s.zewen ∧ (armMoves s ch a set src).writes = s.writes ∧ (armMoves s ch a set src).image = s.image ∧ (armMoves s ch a set src).reg = s.reg ∧ (armMoves s ch a set src).objs = s.objs ∧ (armMoves s ch a set src).herd = s.herd ∧ (armMoves s ch a set src).aon = s.aon ∧ (armMoves s ch a set src).net = s.net ∧ (armMoves s ch a set src).solver = s.solver ∧ (armMoves s ch a set src).ctl = s.ctl ∧ (armMoves s ch a set src).sched = s.sched ∧ (armMoves s ch a set src).dsp = s.dsp ∧ (armMoves s ch a set src).sep = s.sep ∧ (armMoves s ch a set src).safety = s.safety ∧ (armMoves s ch a set src).cham = s.cham ∧ (armMoves s ch a set src).field = s.field ∧ (armMoves s ch a set src).acq = s.acq ∧ (armMoves s ch a set src).logs = s.logs ∧ (armMoves s ch a set src).clocks = s.clocks ∧ (armMoves s ch a set src).power = s.power ∧ (armMoves s ch a set src).pair = s.pair ∧ (armMoves s ch a set src).sec = s.sec ∧ (armMoves s ch a set src).hw = s.hw ∧ (armMoves s ch a set src).nor = s.nor ∧ (armMoves s ch a set src).freeCount = s.freeCount := by
  have fr1 := @withPiste_frame; have fr2 := @setArmPlan_frame; have fr3 := @setArmMot_frame
  unfold armMoves
  simp [fr1, fr2, fr3]

theorem acceptJoint_frame (s : State) (w : MoveWait) (ch : ℕ) (vel : F32) (acc : F32) (jerk : F32) (target : F64) (t0 : ℕ) :
    (acceptJoint s w ch vel acc jerk target t0).mode = s.mode ∧ (acceptJoint s w ch vel acc jerk target t0).start = s.start ∧ (acceptJoint s w ch vel acc jerk target t0).writes = s.writes ∧ (acceptJoint s w ch vel acc jerk target t0).image = s.image ∧ (acceptJoint s w ch vel acc jerk target t0).herd = s.herd ∧ (acceptJoint s w ch vel acc jerk target t0).aon = s.aon ∧ (acceptJoint s w ch vel acc jerk target t0).net = s.net ∧ (acceptJoint s w ch vel acc jerk target t0).solver = s.solver ∧ (acceptJoint s w ch vel acc jerk target t0).ctl = s.ctl ∧ (acceptJoint s w ch vel acc jerk target t0).sched = s.sched ∧ (acceptJoint s w ch vel acc jerk target t0).dsp = s.dsp ∧ (acceptJoint s w ch vel acc jerk target t0).sep = s.sep ∧ (acceptJoint s w ch vel acc jerk target t0).safety = s.safety ∧ (acceptJoint s w ch vel acc jerk target t0).cham = s.cham ∧ (acceptJoint s w ch vel acc jerk target t0).field = s.field ∧ (acceptJoint s w ch vel acc jerk target t0).clocks = s.clocks ∧ (acceptJoint s w ch vel acc jerk target t0).power = s.power ∧ (acceptJoint s w ch vel acc jerk target t0).pair = s.pair ∧ (acceptJoint s w ch vel acc jerk target t0).sec = s.sec ∧ (acceptJoint s w ch vel acc jerk target t0).hw = s.hw ∧ (acceptJoint s w ch vel acc jerk target t0).nor = s.nor := by
  have fr1 := @refuseMove_frame; have fr2 := @setMotion_frame; have fr3 := @acceptMove_frame; have fr4 := @armMoves_frame
  unfold acceptJoint
  dsimp only
  (repeat' split) <;> simp [fr1, fr2, fr3, fr4]

theorem acceptLinear_frame (s : State) (w : MoveWait) (a : ℕ) (scale : F32) (target : List F64) (t0 : ℕ) :
    (acceptLinear s w a scale target t0).mode = s.mode ∧ (acceptLinear s w a scale target t0).start = s.start ∧ (acceptLinear s w a scale target t0).writes = s.writes ∧ (acceptLinear s w a scale target t0).image = s.image ∧ (acceptLinear s w a scale target t0).herd = s.herd ∧ (acceptLinear s w a scale target t0).aon = s.aon ∧ (acceptLinear s w a scale target t0).net = s.net ∧ (acceptLinear s w a scale target t0).solver = s.solver ∧ (acceptLinear s w a scale target t0).ctl = s.ctl ∧ (acceptLinear s w a scale target t0).sched = s.sched ∧ (acceptLinear s w a scale target t0).dsp = s.dsp ∧ (acceptLinear s w a scale target t0).sep = s.sep ∧ (acceptLinear s w a scale target t0).safety = s.safety ∧ (acceptLinear s w a scale target t0).cham = s.cham ∧ (acceptLinear s w a scale target t0).field = s.field ∧ (acceptLinear s w a scale target t0).clocks = s.clocks ∧ (acceptLinear s w a scale target t0).power = s.power ∧ (acceptLinear s w a scale target t0).pair = s.pair ∧ (acceptLinear s w a scale target t0).sec = s.sec ∧ (acceptLinear s w a scale target t0).hw = s.hw ∧ (acceptLinear s w a scale target t0).nor = s.nor := by
  have fr1 := @refuseMove_frame; have fr2 := @setArmMot_frame; have fr3 := @setChan_frame; have fr4 := @acceptMove_frame; have fr5 := @armMoves_frame
  unfold acceptLinear
  dsimp only
  (repeat' split) <;> simp [fr1, fr2, fr3, fr4, fr5]

theorem acceptConveyor_frame (s : State) (w : MoveWait) (ch : ℕ) (conv : ℕ) (ratio : F64) (off : ℤ) (endPos : F64) (t0 : ℕ) :
    (acceptConveyor s w ch conv ratio off endPos t0).mode = s.mode ∧ (acceptConveyor s w ch conv ratio off endPos t0).start = s.start ∧ (acceptConveyor s w ch conv ratio off endPos t0).writes = s.writes ∧ (acceptConveyor s w ch conv ratio off endPos t0).image = s.image ∧ (acceptConveyor s w ch conv ratio off endPos t0).herd = s.herd ∧ (acceptConveyor s w ch conv ratio off endPos t0).aon = s.aon ∧ (acceptConveyor s w ch conv ratio off endPos t0).net = s.net ∧ (acceptConveyor s w ch conv ratio off endPos t0).solver = s.solver ∧ (acceptConveyor s w ch conv ratio off endPos t0).ctl = s.ctl ∧ (acceptConveyor s w ch conv ratio off endPos t0).sched = s.sched ∧ (acceptConveyor s w ch conv ratio off endPos t0).dsp = s.dsp ∧ (acceptConveyor s w ch conv ratio off endPos t0).sep = s.sep ∧ (acceptConveyor s w ch conv ratio off endPos t0).safety = s.safety ∧ (acceptConveyor s w ch conv ratio off endPos t0).cham = s.cham ∧ (acceptConveyor s w ch conv ratio off endPos t0).field = s.field ∧ (acceptConveyor s w ch conv ratio off endPos t0).clocks = s.clocks ∧ (acceptConveyor s w ch conv ratio off endPos t0).power = s.power ∧ (acceptConveyor s w ch conv ratio off endPos t0).pair = s.pair ∧ (acceptConveyor s w ch conv ratio off endPos t0).sec = s.sec ∧ (acceptConveyor s w ch conv ratio off endPos t0).hw = s.hw ∧ (acceptConveyor s w ch conv ratio off endPos t0).nor = s.nor := by
  have fr1 := @refuseMove_frame; have fr2 := @setMotion_frame; have fr3 := @acceptMove_frame; have fr4 := @armMoves_frame
  unfold acceptConveyor
  dsimp only
  (repeat' split) <;> simp [fr1, fr2, fr3, fr4]

theorem acceptArmJog_frame (s : State) (trial : State) (o : Origin) (ch : ℕ) (a : ℕ) (x5 : ℕ) (dur : ℕ) (t0 : ℕ)
    (h : (trial).mode = s.mode ∧ (trial).start = s.start ∧ (trial).writes = s.writes ∧ (trial).image = s.image ∧ (trial).herd = s.herd ∧ (trial).aon = s.aon ∧ (trial).net = s.net ∧ (trial).solver = s.solver ∧ (trial).ctl = s.ctl ∧ (trial).sched = s.sched ∧ (trial).dsp = s.dsp ∧ (trial).sep = s.sep ∧ (trial).safety = s.safety ∧ (trial).cham = s.cham ∧ (trial).field = s.field ∧ (trial).clocks = s.clocks ∧ (trial).power = s.power ∧ (trial).pair = s.pair ∧ (trial).sec = s.sec ∧ (trial).hw = s.hw ∧ (trial).nor = s.nor) :
    (acceptArmJog s trial o ch a x5 dur t0).mode = s.mode ∧ (acceptArmJog s trial o ch a x5 dur t0).start = s.start ∧ (acceptArmJog s trial o ch a x5 dur t0).writes = s.writes ∧ (acceptArmJog s trial o ch a x5 dur t0).image = s.image ∧ (acceptArmJog s trial o ch a x5 dur t0).herd = s.herd ∧ (acceptArmJog s trial o ch a x5 dur t0).aon = s.aon ∧ (acceptArmJog s trial o ch a x5 dur t0).net = s.net ∧ (acceptArmJog s trial o ch a x5 dur t0).solver = s.solver ∧ (acceptArmJog s trial o ch a x5 dur t0).ctl = s.ctl ∧ (acceptArmJog s trial o ch a x5 dur t0).sched = s.sched ∧ (acceptArmJog s trial o ch a x5 dur t0).dsp = s.dsp ∧ (acceptArmJog s trial o ch a x5 dur t0).sep = s.sep ∧ (acceptArmJog s trial o ch a x5 dur t0).safety = s.safety ∧ (acceptArmJog s trial o ch a x5 dur t0).cham = s.cham ∧ (acceptArmJog s trial o ch a x5 dur t0).field = s.field ∧ (acceptArmJog s trial o ch a x5 dur t0).clocks = s.clocks ∧ (acceptArmJog s trial o ch a x5 dur t0).power = s.power ∧ (acceptArmJog s trial o ch a x5 dur t0).pair = s.pair ∧ (acceptArmJog s trial o ch a x5 dur t0).sec = s.sec ∧ (acceptArmJog s trial o ch a x5 dur t0).hw = s.hw ∧ (acceptArmJog s trial o ch a x5 dur t0).nor = s.nor := by
  have fr1 := @refuseMove_frame; have fr2 := @acceptMove_frame; have fr3 := @setArmMot_frame; have fr4 := @armMoves_frame
  unfold acceptArmJog
  split <;> simp [h, fr1, fr2, fr3, fr4]

theorem acceptJog_frame (s : State) (w : MoveWait) (ch : ℕ) (dir : ℤ) (speed : F32) (t0 : ℕ) :
    (acceptJog s w ch dir speed t0).mode = s.mode ∧ (acceptJog s w ch dir speed t0).start = s.start ∧ (acceptJog s w ch dir speed t0).writes = s.writes ∧ (acceptJog s w ch dir speed t0).image = s.image ∧ (acceptJog s w ch dir speed t0).herd = s.herd ∧ (acceptJog s w ch dir speed t0).aon = s.aon ∧ (acceptJog s w ch dir speed t0).net = s.net ∧ (acceptJog s w ch dir speed t0).solver = s.solver ∧ (acceptJog s w ch dir speed t0).ctl = s.ctl ∧ (acceptJog s w ch dir speed t0).sched = s.sched ∧ (acceptJog s w ch dir speed t0).dsp = s.dsp ∧ (acceptJog s w ch dir speed t0).sep = s.sep ∧ (acceptJog s w ch dir speed t0).safety = s.safety ∧ (acceptJog s w ch dir speed t0).cham = s.cham ∧ (acceptJog s w ch dir speed t0).field = s.field ∧ (acceptJog s w ch dir speed t0).clocks = s.clocks ∧ (acceptJog s w ch dir speed t0).power = s.power ∧ (acceptJog s w ch dir speed t0).pair = s.pair ∧ (acceptJog s w ch dir speed t0).sec = s.sec ∧ (acceptJog s w ch dir speed t0).hw = s.hw ∧ (acceptJog s w ch dir speed t0).nor = s.nor := by
  have fr1 := @refuseMove_frame; have fr2 := @setMotion_frame; have fr3 := @acceptMove_frame
  unfold acceptJog
  extract_lets a θ0 lim st fst jogging v0 target s1 prof trial
  have h1 : (s1).mode = s.mode ∧ (s1).start = s.start ∧ (s1).writes = s.writes ∧ (s1).image = s.image ∧ (s1).herd = s.herd ∧ (s1).aon = s.aon ∧ (s1).net = s.net ∧ (s1).solver = s.solver ∧ (s1).ctl = s.ctl ∧ (s1).sched = s.sched ∧ (s1).dsp = s.dsp ∧ (s1).sep = s.sep ∧ (s1).safety = s.safety ∧ (s1).cham = s.cham ∧ (s1).field = s.field ∧ (s1).clocks = s.clocks ∧ (s1).power = s.power ∧ (s1).pair = s.pair ∧ (s1).sec = s.sec ∧ (s1).hw = s.hw ∧ (s1).nor = s.nor := by simp [s1, fr1, fr2, fr3]
  have h2 : (trial).mode = s.mode ∧ (trial).start = s.start ∧ (trial).writes = s.writes ∧ (trial).image = s.image ∧ (trial).herd = s.herd ∧ (trial).aon = s.aon ∧ (trial).net = s.net ∧ (trial).solver = s.solver ∧ (trial).ctl = s.ctl ∧ (trial).sched = s.sched ∧ (trial).dsp = s.dsp ∧ (trial).sep = s.sep ∧ (trial).safety = s.safety ∧ (trial).cham = s.cham ∧ (trial).field = s.field ∧ (trial).clocks = s.clocks ∧ (trial).power = s.power ∧ (trial).pair = s.pair ∧ (trial).sec = s.sec ∧ (trial).hw = s.hw ∧ (trial).nor = s.nor := by simp [trial, fr1, fr2, fr3]
  clear_value s1 trial a θ0 lim st fst jogging v0 target prof
  repeat' split
  all_goals first
    | exact acceptArmJog_frame _ _ _ _ _ _ _ _ h2
    | simp [h1, h2, fr1, fr2, fr3]

theorem queueMove_frame (s : State) (o : Origin) (chs : List ℕ) (args : MoveArgs) :
    (queueMove s o chs args).mode = s.mode ∧ (queueMove s o chs args).start = s.start ∧ (queueMove s o chs args).zewen = s.zewen ∧ (queueMove s o chs args).writes = s.writes ∧ (queueMove s o chs args).image = s.image ∧ (queueMove s o chs args).reg = s.reg ∧ (queueMove s o chs args).objs = s.objs ∧ (queueMove s o chs args).herd = s.herd ∧ (queueMove s o chs args).aon = s.aon ∧ (queueMove s o chs args).net = s.net ∧ (queueMove s o chs args).plan = s.plan ∧ (queueMove s o chs args).solver = s.solver ∧ (queueMove s o chs args).piste = s.piste ∧ (queueMove s o chs args).ctl = s.ctl ∧ (queueMove s o chs args).sched = s.sched ∧ (queueMove s o chs args).dsp = s.dsp ∧ (queueMove s o chs args).sep = s.sep ∧ (queueMove s o chs args).safety = s.safety ∧ (queueMove s o chs args).cham = s.cham ∧ (queueMove s o chs args).field = s.field ∧ (queueMove s o chs args).acq = s.acq ∧ (queueMove s o chs args).logs = s.logs ∧ (queueMove s o chs args).clocks = s.clocks ∧ (queueMove s o chs args).power = s.power ∧ (queueMove s o chs args).pair = s.pair ∧ (queueMove s o chs args).sec = s.sec ∧ (queueMove s o chs args).hw = s.hw ∧ (queueMove s o chs args).nor = s.nor ∧ (queueMove s o chs args).freeCount = s.freeCount := by
  have fr1 := @withProf_frame
  unfold queueMove
  simp [fr1]

theorem moveJoint_frame (e : Entry) (x1 : Transport) (s : State) :
    (moveJoint e x1 s).mode = s.mode ∧ (moveJoint e x1 s).start = s.start ∧ (moveJoint e x1 s).writes = s.writes ∧ (moveJoint e x1 s).image = s.image ∧ (moveJoint e x1 s).herd = s.herd ∧ (moveJoint e x1 s).aon = s.aon ∧ (moveJoint e x1 s).net = s.net ∧ (moveJoint e x1 s).plan = s.plan ∧ (moveJoint e x1 s).solver = s.solver ∧ (moveJoint e x1 s).piste = s.piste ∧ (moveJoint e x1 s).ctl = s.ctl ∧ (moveJoint e x1 s).sched = s.sched ∧ (moveJoint e x1 s).dsp = s.dsp ∧ (moveJoint e x1 s).sep = s.sep ∧ (moveJoint e x1 s).safety = s.safety ∧ (moveJoint e x1 s).cham = s.cham ∧ (moveJoint e x1 s).field = s.field ∧ (moveJoint e x1 s).clocks = s.clocks ∧ (moveJoint e x1 s).power = s.power ∧ (moveJoint e x1 s).pair = s.pair ∧ (moveJoint e x1 s).sec = s.sec ∧ (moveJoint e x1 s).hw = s.hw ∧ (moveJoint e x1 s).nor = s.nor := by
  have fr1 := @complete_frame; have fr2 := @queueMove_frame
  unfold moveJoint
  simp [fr1, fr2]

theorem moveLinear_frame (e : Entry) (x1 : Transport) (s : State) :
    (moveLinear e x1 s).mode = s.mode ∧ (moveLinear e x1 s).start = s.start ∧ (moveLinear e x1 s).writes = s.writes ∧ (moveLinear e x1 s).image = s.image ∧ (moveLinear e x1 s).herd = s.herd ∧ (moveLinear e x1 s).aon = s.aon ∧ (moveLinear e x1 s).net = s.net ∧ (moveLinear e x1 s).plan = s.plan ∧ (moveLinear e x1 s).solver = s.solver ∧ (moveLinear e x1 s).piste = s.piste ∧ (moveLinear e x1 s).ctl = s.ctl ∧ (moveLinear e x1 s).sched = s.sched ∧ (moveLinear e x1 s).dsp = s.dsp ∧ (moveLinear e x1 s).sep = s.sep ∧ (moveLinear e x1 s).safety = s.safety ∧ (moveLinear e x1 s).cham = s.cham ∧ (moveLinear e x1 s).field = s.field ∧ (moveLinear e x1 s).clocks = s.clocks ∧ (moveLinear e x1 s).power = s.power ∧ (moveLinear e x1 s).pair = s.pair ∧ (moveLinear e x1 s).sec = s.sec ∧ (moveLinear e x1 s).hw = s.hw ∧ (moveLinear e x1 s).nor = s.nor := by
  have fr1 := @complete_frame; have fr2 := @queueMove_frame
  unfold moveLinear
  simp [fr1, fr2]

theorem moveConveyor_frame (e : Entry) (x1 : Transport) (s : State) :
    (moveConveyor e x1 s).mode = s.mode ∧ (moveConveyor e x1 s).start = s.start ∧ (moveConveyor e x1 s).writes = s.writes ∧ (moveConveyor e x1 s).image = s.image ∧ (moveConveyor e x1 s).herd = s.herd ∧ (moveConveyor e x1 s).aon = s.aon ∧ (moveConveyor e x1 s).net = s.net ∧ (moveConveyor e x1 s).plan = s.plan ∧ (moveConveyor e x1 s).solver = s.solver ∧ (moveConveyor e x1 s).piste = s.piste ∧ (moveConveyor e x1 s).ctl = s.ctl ∧ (moveConveyor e x1 s).sched = s.sched ∧ (moveConveyor e x1 s).dsp = s.dsp ∧ (moveConveyor e x1 s).sep = s.sep ∧ (moveConveyor e x1 s).safety = s.safety ∧ (moveConveyor e x1 s).cham = s.cham ∧ (moveConveyor e x1 s).field = s.field ∧ (moveConveyor e x1 s).clocks = s.clocks ∧ (moveConveyor e x1 s).power = s.power ∧ (moveConveyor e x1 s).pair = s.pair ∧ (moveConveyor e x1 s).sec = s.sec ∧ (moveConveyor e x1 s).hw = s.hw ∧ (moveConveyor e x1 s).nor = s.nor := by
  have fr1 := @complete_frame; have fr2 := @queueMove_frame
  unfold moveConveyor
  simp [fr1, fr2]

theorem jog_frame (e : Entry) (x1 : Transport) (s : State) :
    (jog e x1 s).mode = s.mode ∧ (jog e x1 s).start = s.start ∧ (jog e x1 s).writes = s.writes ∧ (jog e x1 s).image = s.image ∧ (jog e x1 s).herd = s.herd ∧ (jog e x1 s).aon = s.aon ∧ (jog e x1 s).net = s.net ∧ (jog e x1 s).plan = s.plan ∧ (jog e x1 s).solver = s.solver ∧ (jog e x1 s).piste = s.piste ∧ (jog e x1 s).ctl = s.ctl ∧ (jog e x1 s).sched = s.sched ∧ (jog e x1 s).dsp = s.dsp ∧ (jog e x1 s).sep = s.sep ∧ (jog e x1 s).safety = s.safety ∧ (jog e x1 s).cham = s.cham ∧ (jog e x1 s).field = s.field ∧ (jog e x1 s).clocks = s.clocks ∧ (jog e x1 s).power = s.power ∧ (jog e x1 s).pair = s.pair ∧ (jog e x1 s).sec = s.sec ∧ (jog e x1 s).hw = s.hw ∧ (jog e x1 s).nor = s.nor := by
  have fr1 := @complete_frame; have fr2 := @setChan_frame; have fr3 := @queueMove_frame
  unfold jog
  simp [fr1, fr2, fr3]

theorem teach_frame (e : Entry) (x1 : Transport) (s : State) :
    (teach e x1 s).mode = s.mode ∧ (teach e x1 s).start = s.start ∧ (teach e x1 s).writes = s.writes ∧ (teach e x1 s).image = s.image ∧ (teach e x1 s).herd = s.herd ∧ (teach e x1 s).aon = s.aon ∧ (teach e x1 s).net = s.net ∧ (teach e x1 s).plan = s.plan ∧ (teach e x1 s).solver = s.solver ∧ (teach e x1 s).piste = s.piste ∧ (teach e x1 s).ctl = s.ctl ∧ (teach e x1 s).sched = s.sched ∧ (teach e x1 s).dsp = s.dsp ∧ (teach e x1 s).sep = s.sep ∧ (teach e x1 s).safety = s.safety ∧ (teach e x1 s).cham = s.cham ∧ (teach e x1 s).field = s.field ∧ (teach e x1 s).clocks = s.clocks ∧ (teach e x1 s).power = s.power ∧ (teach e x1 s).pair = s.pair ∧ (teach e x1 s).sec = s.sec ∧ (teach e x1 s).hw = s.hw ∧ (teach e x1 s).nor = s.nor := by
  have fr1 := @complete_frame; have fr2 := @withProf_frame
  unfold teach
  simp [fr1, fr2]

theorem stopMove_frame (e : Entry) (x1 : Transport) (s : State) :
    (stopMove e x1 s).mode = s.mode ∧ (stopMove e x1 s).start = s.start ∧ (stopMove e x1 s).writes = s.writes ∧ (stopMove e x1 s).image = s.image ∧ (stopMove e x1 s).herd = s.herd ∧ (stopMove e x1 s).aon = s.aon ∧ (stopMove e x1 s).net = s.net ∧ (stopMove e x1 s).plan = s.plan ∧ (stopMove e x1 s).solver = s.solver ∧ (stopMove e x1 s).piste = s.piste ∧ (stopMove e x1 s).ctl = s.ctl ∧ (stopMove e x1 s).sched = s.sched ∧ (stopMove e x1 s).dsp = s.dsp ∧ (stopMove e x1 s).sep = s.sep ∧ (stopMove e x1 s).safety = s.safety ∧ (stopMove e x1 s).cham = s.cham ∧ (stopMove e x1 s).field = s.field ∧ (stopMove e x1 s).clocks = s.clocks ∧ (stopMove e x1 s).power = s.power ∧ (stopMove e x1 s).pair = s.pair ∧ (stopMove e x1 s).sec = s.sec ∧ (stopMove e x1 s).hw = s.hw ∧ (stopMove e x1 s).nor = s.nor := by
  have fr1 := @complete_frame; have fr2 := @withProf_frame
  unfold stopMove
  simp [fr1, fr2]

theorem startStop_frame (s : State) (ch : ℕ) (t0 : ℕ) (released : Bool) :
    (startStop s ch t0 released).mode = s.mode ∧ (startStop s ch t0 released).start = s.start ∧ (startStop s ch t0 released).zewen = s.zewen ∧ (startStop s ch t0 released).writes = s.writes ∧ (startStop s ch t0 released).image = s.image ∧ (startStop s ch t0 released).reg = s.reg ∧ (startStop s ch t0 released).objs = s.objs ∧ (startStop s ch t0 released).herd = s.herd ∧ (startStop s ch t0 released).aon = s.aon ∧ (startStop s ch t0 released).net = s.net ∧ (startStop s ch t0 released).plan = s.plan ∧ (startStop s ch t0 released).solver = s.solver ∧ (startStop s ch t0 released).piste = s.piste ∧ (startStop s ch t0 released).ctl = s.ctl ∧ (startStop s ch t0 released).sched = s.sched ∧ (startStop s ch t0 released).dsp = s.dsp ∧ (startStop s ch t0 released).sep = s.sep ∧ (startStop s ch t0 released).safety = s.safety ∧ (startStop s ch t0 released).cham = s.cham ∧ (startStop s ch t0 released).field = s.field ∧ (startStop s ch t0 released).acq = s.acq ∧ (startStop s ch t0 released).logs = s.logs ∧ (startStop s ch t0 released).clocks = s.clocks ∧ (startStop s ch t0 released).power = s.power ∧ (startStop s ch t0 released).pair = s.pair ∧ (startStop s ch t0 released).sec = s.sec ∧ (startStop s ch t0 released).hw = s.hw ∧ (startStop s ch t0 released).nor = s.nor ∧ (startStop s ch t0 released).freeCount = s.freeCount := by
  have fr1 := @setChan_frame
  unfold startStop
  (repeat' split) <;> simp [fr1]

theorem stopLinear_frame (s : State) (a : ℕ) :
    (stopLinear s a).mode = s.mode ∧ (stopLinear s a).start = s.start ∧ (stopLinear s a).zewen = s.zewen ∧ (stopLinear s a).writes = s.writes ∧ (stopLinear s a).image = s.image ∧ (stopLinear s a).reg = s.reg ∧ (stopLinear s a).objs = s.objs ∧ (stopLinear s a).herd = s.herd ∧ (stopLinear s a).aon = s.aon ∧ (stopLinear s a).net = s.net ∧ (stopLinear s a).plan = s.plan ∧ (stopLinear s a).solver = s.solver ∧ (stopLinear s a).piste = s.piste ∧ (stopLinear s a).ctl = s.ctl ∧ (stopLinear s a).sched = s.sched ∧ (stopLinear s a).dsp = s.dsp ∧ (stopLinear s a).sep = s.sep ∧ (stopLinear s a).safety = s.safety ∧ (stopLinear s a).cham = s.cham ∧ (stopLinear s a).field = s.field ∧ (stopLinear s a).acq = s.acq ∧ (stopLinear s a).logs = s.logs ∧ (stopLinear s a).clocks = s.clocks ∧ (stopLinear s a).power = s.power ∧ (stopLinear s a).pair = s.pair ∧ (stopLinear s a).sec = s.sec ∧ (stopLinear s a).hw = s.hw ∧ (stopLinear s a).nor = s.nor ∧ (stopLinear s a).freeCount = s.freeCount := by
  have fr1 := @setArmMot_frame
  unfold stopLinear
  simp [fr1]

theorem applyStop_frame (t0 : ℕ) (s : State) (c : Origin × ℕ × ℕ × ℕ) :
    (applyStop t0 s c).mode = s.mode ∧ (applyStop t0 s c).start = s.start ∧ (applyStop t0 s c).writes = s.writes ∧ (applyStop t0 s c).image = s.image ∧ (applyStop t0 s c).herd = s.herd ∧ (applyStop t0 s c).aon = s.aon ∧ (applyStop t0 s c).net = s.net ∧ (applyStop t0 s c).plan = s.plan ∧ (applyStop t0 s c).solver = s.solver ∧ (applyStop t0 s c).piste = s.piste ∧ (applyStop t0 s c).ctl = s.ctl ∧ (applyStop t0 s c).sched = s.sched ∧ (applyStop t0 s c).dsp = s.dsp ∧ (applyStop t0 s c).sep = s.sep ∧ (applyStop t0 s c).safety = s.safety ∧ (applyStop t0 s c).cham = s.cham ∧ (applyStop t0 s c).field = s.field ∧ (applyStop t0 s c).clocks = s.clocks ∧ (applyStop t0 s c).power = s.power ∧ (applyStop t0 s c).pair = s.pair ∧ (applyStop t0 s c).sec = s.sec ∧ (applyStop t0 s c).hw = s.hw ∧ (applyStop t0 s c).nor = s.nor := by
  have fr1 := @refuseMove_frame; have fr2 := @startStop_frame; have fr3 := @stopLinear_frame; have fr4 := @complete_frame
  unfold applyStop
  simp [fr1, fr2, fr3, fr4]

theorem applyMove_frame (t0 : ℕ) (later : List MoveWait) (s : State) (w : MoveWait) :
    (applyMove t0 later s w).mode = s.mode ∧ (applyMove t0 later s w).start = s.start ∧ (applyMove t0 later s w).writes = s.writes ∧ (applyMove t0 later s w).image = s.image ∧ (applyMove t0 later s w).herd = s.herd ∧ (applyMove t0 later s w).aon = s.aon ∧ (applyMove t0 later s w).net = s.net ∧ (applyMove t0 later s w).solver = s.solver ∧ (applyMove t0 later s w).ctl = s.ctl ∧ (applyMove t0 later s w).sched = s.sched ∧ (applyMove t0 later s w).dsp = s.dsp ∧ (applyMove t0 later s w).sep = s.sep ∧ (applyMove t0 later s w).safety = s.safety ∧ (applyMove t0 later s w).cham = s.cham ∧ (applyMove t0 later s w).field = s.field ∧ (applyMove t0 later s w).clocks = s.clocks ∧ (applyMove t0 later s w).power = s.power ∧ (applyMove t0 later s w).pair = s.pair ∧ (applyMove t0 later s w).sec = s.sec ∧ (applyMove t0 later s w).hw = s.hw ∧ (applyMove t0 later s w).nor = s.nor := by
  have fr1 := @refuseMove_frame; have fr2 := @acceptJoint_frame; have fr3 := @acceptLinear_frame; have fr4 := @acceptConveyor_frame; have fr5 := @acceptJog_frame
  unfold applyMove
  split <;> simp [fr1, fr2, fr3, fr4, fr5]

theorem applyEvent_frame (t0 : ℕ) (s : State) (e : ℕ × PassEvent) :
    (applyEvent t0 s e).mode = s.mode ∧ (applyEvent t0 s e).start = s.start ∧ (applyEvent t0 s e).writes = s.writes ∧ (applyEvent t0 s e).image = s.image ∧ (applyEvent t0 s e).herd = s.herd ∧ (applyEvent t0 s e).aon = s.aon ∧ (applyEvent t0 s e).net = s.net ∧ (applyEvent t0 s e).solver = s.solver ∧ (applyEvent t0 s e).ctl = s.ctl ∧ (applyEvent t0 s e).sched = s.sched ∧ (applyEvent t0 s e).dsp = s.dsp ∧ (applyEvent t0 s e).sep = s.sep ∧ (applyEvent t0 s e).safety = s.safety ∧ (applyEvent t0 s e).cham = s.cham ∧ (applyEvent t0 s e).field = s.field ∧ (applyEvent t0 s e).clocks = s.clocks ∧ (applyEvent t0 s e).power = s.power ∧ (applyEvent t0 s e).pair = s.pair ∧ (applyEvent t0 s e).sec = s.sec ∧ (applyEvent t0 s e).hw = s.hw ∧ (applyEvent t0 s e).nor = s.nor := by
  have fr1 := @applyMove_frame; have fr2 := @applyStop_frame
  unfold applyEvent
  split <;> simp [fr1, fr2]

theorem rateStep_frame (t0 : ℕ) (s : State) (a : ℕ) :
    (rateStep t0 s a).mode = s.mode ∧ (rateStep t0 s a).start = s.start ∧ (rateStep t0 s a).zewen = s.zewen ∧ (rateStep t0 s a).writes = s.writes ∧ (rateStep t0 s a).image = s.image ∧ (rateStep t0 s a).reg = s.reg ∧ (rateStep t0 s a).objs = s.objs ∧ (rateStep t0 s a).herd = s.herd ∧ (rateStep t0 s a).aon = s.aon ∧ (rateStep t0 s a).net = s.net ∧ (rateStep t0 s a).solver = s.solver ∧ (rateStep t0 s a).piste = s.piste ∧ (rateStep t0 s a).ctl = s.ctl ∧ (rateStep t0 s a).sched = s.sched ∧ (rateStep t0 s a).dsp = s.dsp ∧ (rateStep t0 s a).sep = s.sep ∧ (rateStep t0 s a).safety = s.safety ∧ (rateStep t0 s a).cham = s.cham ∧ (rateStep t0 s a).field = s.field ∧ (rateStep t0 s a).acq = s.acq ∧ (rateStep t0 s a).logs = s.logs ∧ (rateStep t0 s a).clocks = s.clocks ∧ (rateStep t0 s a).power = s.power ∧ (rateStep t0 s a).pair = s.pair ∧ (rateStep t0 s a).sec = s.sec ∧ (rateStep t0 s a).hw = s.hw ∧ (rateStep t0 s a).nor = s.nor ∧ (rateStep t0 s a).freeCount = s.freeCount := by
  have fr1 := @setArmMot_frame; have fr2 := @setArmPlan_frame
  unfold rateStep
  simp [fr1, fr2]

theorem endRamp_frame (s : State) (a : ℕ) :
    (endRamp s a).mode = s.mode ∧ (endRamp s a).start = s.start ∧ (endRamp s a).zewen = s.zewen ∧ (endRamp s a).writes = s.writes ∧ (endRamp s a).image = s.image ∧ (endRamp s a).reg = s.reg ∧ (endRamp s a).objs = s.objs ∧ (endRamp s a).herd = s.herd ∧ (endRamp s a).aon = s.aon ∧ (endRamp s a).net = s.net ∧ (endRamp s a).solver = s.solver ∧ (endRamp s a).ctl = s.ctl ∧ (endRamp s a).sched = s.sched ∧ (endRamp s a).dsp = s.dsp ∧ (endRamp s a).sep = s.sep ∧ (endRamp s a).safety = s.safety ∧ (endRamp s a).cham = s.cham ∧ (endRamp s a).field = s.field ∧ (endRamp s a).acq = s.acq ∧ (endRamp s a).logs = s.logs ∧ (endRamp s a).clocks = s.clocks ∧ (endRamp s a).power = s.power ∧ (endRamp s a).pair = s.pair ∧ (endRamp s a).sec = s.sec ∧ (endRamp s a).hw = s.hw ∧ (endRamp s a).nor = s.nor ∧ (endRamp s a).freeCount = s.freeCount := by
  have fr1 := @setChan_frame; have fr2 := @setArmMot_frame; have fr3 := @setArmPlan_frame; have fr4 := @releaseStanding_frame
  unfold endRamp
  simp [fr1, fr2, fr3, fr4]

theorem takePlan_frame (s : State) (a : ℕ) :
    (takePlan s a).mode = s.mode ∧ (takePlan s a).start = s.start ∧ (takePlan s a).zewen = s.zewen ∧ (takePlan s a).writes = s.writes ∧ (takePlan s a).image = s.image ∧ (takePlan s a).reg = s.reg ∧ (takePlan s a).objs = s.objs ∧ (takePlan s a).herd = s.herd ∧ (takePlan s a).aon = s.aon ∧ (takePlan s a).net = s.net ∧ (takePlan s a).solver = s.solver ∧ (takePlan s a).ctl = s.ctl ∧ (takePlan s a).sched = s.sched ∧ (takePlan s a).dsp = s.dsp ∧ (takePlan s a).sep = s.sep ∧ (takePlan s a).safety = s.safety ∧ (takePlan s a).cham = s.cham ∧ (takePlan s a).field = s.field ∧ (takePlan s a).acq = s.acq ∧ (takePlan s a).logs = s.logs ∧ (takePlan s a).clocks = s.clocks ∧ (takePlan s a).power = s.power ∧ (takePlan s a).pair = s.pair ∧ (takePlan s a).sec = s.sec ∧ (takePlan s a).hw = s.hw ∧ (takePlan s a).nor = s.nor ∧ (takePlan s a).freeCount = s.freeCount := by
  have fr1 := @setArmPlan_frame; have fr2 := @withPiste_frame; have fr3 := @setArmMot_frame
  unfold takePlan
  dsimp only
  split <;> simp [fr1, fr2, fr3]

theorem conveyorStep_frame (t0 : ℕ) (s : State) (c : ℕ) :
    (conveyorStep t0 s c).mode = s.mode ∧ (conveyorStep t0 s c).start = s.start ∧ (conveyorStep t0 s c).zewen = s.zewen ∧ (conveyorStep t0 s c).writes = s.writes ∧ (conveyorStep t0 s c).image = s.image ∧ (conveyorStep t0 s c).reg = s.reg ∧ (conveyorStep t0 s c).objs = s.objs ∧ (conveyorStep t0 s c).herd = s.herd ∧ (conveyorStep t0 s c).aon = s.aon ∧ (conveyorStep t0 s c).net = s.net ∧ (conveyorStep t0 s c).plan = s.plan ∧ (conveyorStep t0 s c).solver = s.solver ∧ (conveyorStep t0 s c).piste = s.piste ∧ (conveyorStep t0 s c).ctl = s.ctl ∧ (conveyorStep t0 s c).sched = s.sched ∧ (conveyorStep t0 s c).dsp = s.dsp ∧ (conveyorStep t0 s c).sep = s.sep ∧ (conveyorStep t0 s c).safety = s.safety ∧ (conveyorStep t0 s c).cham = s.cham ∧ (conveyorStep t0 s c).field = s.field ∧ (conveyorStep t0 s c).acq = s.acq ∧ (conveyorStep t0 s c).logs = s.logs ∧ (conveyorStep t0 s c).clocks = s.clocks ∧ (conveyorStep t0 s c).power = s.power ∧ (conveyorStep t0 s c).pair = s.pair ∧ (conveyorStep t0 s c).sec = s.sec ∧ (conveyorStep t0 s c).hw = s.hw ∧ (conveyorStep t0 s c).nor = s.nor ∧ (conveyorStep t0 s c).freeCount = s.freeCount := by
  have fr1 := @setChan_frame
  unfold conveyorStep
  simp [fr1]

theorem stopRaised_frame (t0 : ℕ) (s : State) (ch : ℕ) :
    (stopRaised t0 s ch).mode = s.mode ∧ (stopRaised t0 s ch).start = s.start ∧ (stopRaised t0 s ch).zewen = s.zewen ∧ (stopRaised t0 s ch).writes = s.writes ∧ (stopRaised t0 s ch).image = s.image ∧ (stopRaised t0 s ch).reg = s.reg ∧ (stopRaised t0 s ch).objs = s.objs ∧ (stopRaised t0 s ch).herd = s.herd ∧ (stopRaised t0 s ch).aon = s.aon ∧ (stopRaised t0 s ch).net = s.net ∧ (stopRaised t0 s ch).plan = s.plan ∧ (stopRaised t0 s ch).solver = s.solver ∧ (stopRaised t0 s ch).piste = s.piste ∧ (stopRaised t0 s ch).ctl = s.ctl ∧ (stopRaised t0 s ch).sched = s.sched ∧ (stopRaised t0 s ch).dsp = s.dsp ∧ (stopRaised t0 s ch).sep = s.sep ∧ (stopRaised t0 s ch).safety = s.safety ∧ (stopRaised t0 s ch).cham = s.cham ∧ (stopRaised t0 s ch).field = s.field ∧ (stopRaised t0 s ch).acq = s.acq ∧ (stopRaised t0 s ch).logs = s.logs ∧ (stopRaised t0 s ch).clocks = s.clocks ∧ (stopRaised t0 s ch).power = s.power ∧ (stopRaised t0 s ch).pair = s.pair ∧ (stopRaised t0 s ch).sec = s.sec ∧ (stopRaised t0 s ch).hw = s.hw ∧ (stopRaised t0 s ch).nor = s.nor ∧ (stopRaised t0 s ch).freeCount = s.freeCount := by
  have fr1 := @setChan_frame
  unfold stopRaised
  split <;> simp [fr1]

theorem linearRaised_frame (s : State) (a : ℕ) :
    (linearRaised s a).mode = s.mode ∧ (linearRaised s a).start = s.start ∧ (linearRaised s a).zewen = s.zewen ∧ (linearRaised s a).writes = s.writes ∧ (linearRaised s a).image = s.image ∧ (linearRaised s a).reg = s.reg ∧ (linearRaised s a).objs = s.objs ∧ (linearRaised s a).herd = s.herd ∧ (linearRaised s a).aon = s.aon ∧ (linearRaised s a).net = s.net ∧ (linearRaised s a).plan = s.plan ∧ (linearRaised s a).solver = s.solver ∧ (linearRaised s a).piste = s.piste ∧ (linearRaised s a).ctl = s.ctl ∧ (linearRaised s a).sched = s.sched ∧ (linearRaised s a).dsp = s.dsp ∧ (linearRaised s a).sep = s.sep ∧ (linearRaised s a).safety = s.safety ∧ (linearRaised s a).cham = s.cham ∧ (linearRaised s a).field = s.field ∧ (linearRaised s a).acq = s.acq ∧ (linearRaised s a).logs = s.logs ∧ (linearRaised s a).clocks = s.clocks ∧ (linearRaised s a).power = s.power ∧ (linearRaised s a).pair = s.pair ∧ (linearRaised s a).sec = s.sec ∧ (linearRaised s a).hw = s.hw ∧ (linearRaised s a).nor = s.nor ∧ (linearRaised s a).freeCount = s.freeCount := by
  have fr1 := @setArmMot_frame
  unfold linearRaised
  split <;> simp [fr1]

theorem finishChan_frame (t0 : ℕ) (s : State) (ch : ℕ) :
    (finishChan t0 s ch).mode = s.mode ∧ (finishChan t0 s ch).start = s.start ∧ (finishChan t0 s ch).zewen = s.zewen ∧ (finishChan t0 s ch).writes = s.writes ∧ (finishChan t0 s ch).image = s.image ∧ (finishChan t0 s ch).reg = s.reg ∧ (finishChan t0 s ch).objs = s.objs ∧ (finishChan t0 s ch).herd = s.herd ∧ (finishChan t0 s ch).aon = s.aon ∧ (finishChan t0 s ch).net = s.net ∧ (finishChan t0 s ch).plan = s.plan ∧ (finishChan t0 s ch).solver = s.solver ∧ (finishChan t0 s ch).piste = s.piste ∧ (finishChan t0 s ch).ctl = s.ctl ∧ (finishChan t0 s ch).sched = s.sched ∧ (finishChan t0 s ch).dsp = s.dsp ∧ (finishChan t0 s ch).sep = s.sep ∧ (finishChan t0 s ch).safety = s.safety ∧ (finishChan t0 s ch).cham = s.cham ∧ (finishChan t0 s ch).field = s.field ∧ (finishChan t0 s ch).acq = s.acq ∧ (finishChan t0 s ch).logs = s.logs ∧ (finishChan t0 s ch).clocks = s.clocks ∧ (finishChan t0 s ch).power = s.power ∧ (finishChan t0 s ch).pair = s.pair ∧ (finishChan t0 s ch).sec = s.sec ∧ (finishChan t0 s ch).hw = s.hw ∧ (finishChan t0 s ch).nor = s.nor ∧ (finishChan t0 s ch).freeCount = s.freeCount := by
  have fr1 := @setChan_frame
  unfold finishChan
  split <;> simp [fr1]

theorem finishLinear_frame (s : State) (a : ℕ) :
    (finishLinear s a).mode = s.mode ∧ (finishLinear s a).start = s.start ∧ (finishLinear s a).zewen = s.zewen ∧ (finishLinear s a).writes = s.writes ∧ (finishLinear s a).image = s.image ∧ (finishLinear s a).reg = s.reg ∧ (finishLinear s a).objs = s.objs ∧ (finishLinear s a).herd = s.herd ∧ (finishLinear s a).aon = s.aon ∧ (finishLinear s a).net = s.net ∧ (finishLinear s a).plan = s.plan ∧ (finishLinear s a).solver = s.solver ∧ (finishLinear s a).piste = s.piste ∧ (finishLinear s a).ctl = s.ctl ∧ (finishLinear s a).sched = s.sched ∧ (finishLinear s a).dsp = s.dsp ∧ (finishLinear s a).sep = s.sep ∧ (finishLinear s a).safety = s.safety ∧ (finishLinear s a).cham = s.cham ∧ (finishLinear s a).field = s.field ∧ (finishLinear s a).acq = s.acq ∧ (finishLinear s a).logs = s.logs ∧ (finishLinear s a).clocks = s.clocks ∧ (finishLinear s a).power = s.power ∧ (finishLinear s a).pair = s.pair ∧ (finishLinear s a).sec = s.sec ∧ (finishLinear s a).hw = s.hw ∧ (finishLinear s a).nor = s.nor ∧ (finishLinear s a).freeCount = s.freeCount := by
  have fr1 := @setChan_frame; have fr2 := @setArmMot_frame
  unfold finishLinear
  split <;> simp [fr1, fr2]

theorem settleSource_frame (s : State) (a : ℕ) :
    (settleSource s a).mode = s.mode ∧ (settleSource s a).start = s.start ∧ (settleSource s a).zewen = s.zewen ∧ (settleSource s a).writes = s.writes ∧ (settleSource s a).image = s.image ∧ (settleSource s a).reg = s.reg ∧ (settleSource s a).objs = s.objs ∧ (settleSource s a).herd = s.herd ∧ (settleSource s a).aon = s.aon ∧ (settleSource s a).net = s.net ∧ (settleSource s a).plan = s.plan ∧ (settleSource s a).solver = s.solver ∧ (settleSource s a).piste = s.piste ∧ (settleSource s a).ctl = s.ctl ∧ (settleSource s a).sched = s.sched ∧ (settleSource s a).dsp = s.dsp ∧ (settleSource s a).sep = s.sep ∧ (settleSource s a).safety = s.safety ∧ (settleSource s a).cham = s.cham ∧ (settleSource s a).field = s.field ∧ (settleSource s a).acq = s.acq ∧ (settleSource s a).logs = s.logs ∧ (settleSource s a).clocks = s.clocks ∧ (settleSource s a).power = s.power ∧ (settleSource s a).pair = s.pair ∧ (settleSource s a).sec = s.sec ∧ (settleSource s a).hw = s.hw ∧ (settleSource s a).nor = s.nor ∧ (settleSource s a).freeCount = s.freeCount := by
  have fr1 := @setArmMot_frame
  unfold settleSource
  simp [fr1]

theorem post_frame (s : State) (source : ℕ) (tag : ℕ) (age : ℕ) (v : Operand) :
    (post s source tag age v).mode = s.mode ∧ (post s source tag age v).start = s.start ∧ (post s source tag age v).zewen = s.zewen ∧ (post s source tag age v).writes = s.writes ∧ (post s source tag age v).image = s.image ∧ (post s source tag age v).reg = s.reg ∧ (post s source tag age v).objs = s.objs ∧ (post s source tag age v).herd = s.herd ∧ (post s source tag age v).aon = s.aon ∧ (post s source tag age v).net = s.net ∧ (post s source tag age v).plan = s.plan ∧ (post s source tag age v).solver = s.solver ∧ (post s source tag age v).piste = s.piste ∧ (post s source tag age v).prof = s.prof ∧ (post s source tag age v).ctl = s.ctl ∧ (post s source tag age v).dsp = s.dsp ∧ (post s source tag age v).sep = s.sep ∧ (post s source tag age v).safety = s.safety ∧ (post s source tag age v).cham = s.cham ∧ (post s source tag age v).field = s.field ∧ (post s source tag age v).acq = s.acq ∧ (post s source tag age v).logs = s.logs ∧ (post s source tag age v).clocks = s.clocks ∧ (post s source tag age v).power = s.power ∧ (post s source tag age v).pair = s.pair ∧ (post s source tag age v).sec = s.sec ∧ (post s source tag age v).hw = s.hw ∧ (post s source tag age v).nor = s.nor ∧ (post s source tag age v).freeCount = s.freeCount := by
  unfold post
  simp

theorem postSetpoint_frame (s : State) (ch : ℕ) (tag : ℕ) (src : ℕ) (flags : ℕ) :
    (postSetpoint s ch tag src flags).mode = s.mode ∧ (postSetpoint s ch tag src flags).start = s.start ∧ (postSetpoint s ch tag src flags).zewen = s.zewen ∧ (postSetpoint s ch tag src flags).writes = s.writes ∧ (postSetpoint s ch tag src flags).image = s.image ∧ (postSetpoint s ch tag src flags).reg = s.reg ∧ (postSetpoint s ch tag src flags).objs = s.objs ∧ (postSetpoint s ch tag src flags).herd = s.herd ∧ (postSetpoint s ch tag src flags).aon = s.aon ∧ (postSetpoint s ch tag src flags).net = s.net ∧ (postSetpoint s ch tag src flags).plan = s.plan ∧ (postSetpoint s ch tag src flags).solver = s.solver ∧ (postSetpoint s ch tag src flags).piste = s.piste ∧ (postSetpoint s ch tag src flags).prof = s.prof ∧ (postSetpoint s ch tag src flags).dsp = s.dsp ∧ (postSetpoint s ch tag src flags).sep = s.sep ∧ (postSetpoint s ch tag src flags).safety = s.safety ∧ (postSetpoint s ch tag src flags).cham = s.cham ∧ (postSetpoint s ch tag src flags).field = s.field ∧ (postSetpoint s ch tag src flags).acq = s.acq ∧ (postSetpoint s ch tag src flags).logs = s.logs ∧ (postSetpoint s ch tag src flags).clocks = s.clocks ∧ (postSetpoint s ch tag src flags).power = s.power ∧ (postSetpoint s ch tag src flags).pair = s.pair ∧ (postSetpoint s ch tag src flags).sec = s.sec ∧ (postSetpoint s ch tag src flags).hw = s.hw ∧ (postSetpoint s ch tag src flags).nor = s.nor ∧ (postSetpoint s ch tag src flags).freeCount = s.freeCount := by
  have fr1 := @post_frame
  unfold postSetpoint
  simp [fr1]

theorem sampleChan_frame (t0 : ℕ) (tag : ℕ) (s : State) (ch : ℕ) :
    (sampleChan t0 tag s ch).mode = s.mode ∧ (sampleChan t0 tag s ch).start = s.start ∧ (sampleChan t0 tag s ch).writes = s.writes ∧ (sampleChan t0 tag s ch).image = s.image ∧ (sampleChan t0 tag s ch).herd = s.herd ∧ (sampleChan t0 tag s ch).aon = s.aon ∧ (sampleChan t0 tag s ch).net = s.net ∧ (sampleChan t0 tag s ch).plan = s.plan ∧ (sampleChan t0 tag s ch).solver = s.solver ∧ (sampleChan t0 tag s ch).piste = s.piste ∧ (sampleChan t0 tag s ch).dsp = s.dsp ∧ (sampleChan t0 tag s ch).sep = s.sep ∧ (sampleChan t0 tag s ch).safety = s.safety ∧ (sampleChan t0 tag s ch).cham = s.cham ∧ (sampleChan t0 tag s ch).field = s.field ∧ (sampleChan t0 tag s ch).clocks = s.clocks ∧ (sampleChan t0 tag s ch).power = s.power ∧ (sampleChan t0 tag s ch).pair = s.pair ∧ (sampleChan t0 tag s ch).sec = s.sec ∧ (sampleChan t0 tag s ch).hw = s.hw ∧ (sampleChan t0 tag s ch).nor = s.nor := by
  have fr1 := @postSetpoint_frame; have fr2 := @setChan_frame; have fr3 := @log_frame; have fr4 := @bump_frame
  unfold sampleChan
  simp [fr1, fr2, fr3, fr4]

theorem sampleConveyor_frame (tag : ℕ) (s : State) (c : ℕ) :
    (sampleConveyor tag s c).mode = s.mode ∧ (sampleConveyor tag s c).start = s.start ∧ (sampleConveyor tag s c).zewen = s.zewen ∧ (sampleConveyor tag s c).writes = s.writes ∧ (sampleConveyor tag s c).image = s.image ∧ (sampleConveyor tag s c).reg = s.reg ∧ (sampleConveyor tag s c).objs = s.objs ∧ (sampleConveyor tag s c).herd = s.herd ∧ (sampleConveyor tag s c).aon = s.aon ∧ (sampleConveyor tag s c).net = s.net ∧ (sampleConveyor tag s c).plan = s.plan ∧ (sampleConveyor tag s c).solver = s.solver ∧ (sampleConveyor tag s c).piste = s.piste ∧ (sampleConveyor tag s c).dsp = s.dsp ∧ (sampleConveyor tag s c).sep = s.sep ∧ (sampleConveyor tag s c).safety = s.safety ∧ (sampleConveyor tag s c).cham = s.cham ∧ (sampleConveyor tag s c).field = s.field ∧ (sampleConveyor tag s c).acq = s.acq ∧ (sampleConveyor tag s c).logs = s.logs ∧ (sampleConveyor tag s c).clocks = s.clocks ∧ (sampleConveyor tag s c).power = s.power ∧ (sampleConveyor tag s c).pair = s.pair ∧ (sampleConveyor tag s c).sec = s.sec ∧ (sampleConveyor tag s c).hw = s.hw ∧ (sampleConveyor tag s c).nor = s.nor ∧ (sampleConveyor tag s c).freeCount = s.freeCount := by
  have fr1 := @setChan_frame; have fr2 := @postSetpoint_frame
  unfold sampleConveyor
  simp [fr1, fr2]

theorem stoStop_frame (s : State) (a : ℕ) :
    (stoStop s a).mode = s.mode ∧ (stoStop s a).start = s.start ∧ (stoStop s a).zewen = s.zewen ∧ (stoStop s a).writes = s.writes ∧ (stoStop s a).image = s.image ∧ (stoStop s a).reg = s.reg ∧ (stoStop s a).objs = s.objs ∧ (stoStop s a).herd = s.herd ∧ (stoStop s a).aon = s.aon ∧ (stoStop s a).net = s.net ∧ (stoStop s a).solver = s.solver ∧ (stoStop s a).ctl = s.ctl ∧ (stoStop s a).sched = s.sched ∧ (stoStop s a).dsp = s.dsp ∧ (stoStop s a).sep = s.sep ∧ (stoStop s a).safety = s.safety ∧ (stoStop s a).cham = s.cham ∧ (stoStop s a).field = s.field ∧ (stoStop s a).acq = s.acq ∧ (stoStop s a).logs = s.logs ∧ (stoStop s a).clocks = s.clocks ∧ (stoStop s a).power = s.power ∧ (stoStop s a).pair = s.pair ∧ (stoStop s a).sec = s.sec ∧ (stoStop s a).hw = s.hw ∧ (stoStop s a).nor = s.nor ∧ (stoStop s a).freeCount = s.freeCount := by
  have fr1 := @endRamp_frame
  unfold stoStop
  simp [fr1]

theorem applyTeach_frame (t0 : ℕ) (s : State) (t : Origin × ℕ × ℕ) :
    (applyTeach t0 s t).mode = s.mode ∧ (applyTeach t0 s t).start = s.start ∧ (applyTeach t0 s t).writes = s.writes ∧ (applyTeach t0 s t).image = s.image ∧ (applyTeach t0 s t).herd = s.herd ∧ (applyTeach t0 s t).aon = s.aon ∧ (applyTeach t0 s t).net = s.net ∧ (applyTeach t0 s t).plan = s.plan ∧ (applyTeach t0 s t).solver = s.solver ∧ (applyTeach t0 s t).piste = s.piste ∧ (applyTeach t0 s t).prof = s.prof ∧ (applyTeach t0 s t).ctl = s.ctl ∧ (applyTeach t0 s t).sched = s.sched ∧ (applyTeach t0 s t).dsp = s.dsp ∧ (applyTeach t0 s t).sep = s.sep ∧ (applyTeach t0 s t).safety = s.safety ∧ (applyTeach t0 s t).cham = s.cham ∧ (applyTeach t0 s t).field = s.field ∧ (applyTeach t0 s t).clocks = s.clocks ∧ (applyTeach t0 s t).power = s.power ∧ (applyTeach t0 s t).pair = s.pair ∧ (applyTeach t0 s t).sec = s.sec ∧ (applyTeach t0 s t).hw = s.hw ∧ (applyTeach t0 s t).nor = s.nor := by
  have fr1 := @complete_frame
  unfold applyTeach
  simp [fr1]

theorem profilePass_frame (tp : ℕ) (s : State) :
    (profilePass tp s).mode = s.mode ∧ (profilePass tp s).start = s.start ∧ (profilePass tp s).writes = s.writes ∧ (profilePass tp s).image = s.image ∧ (profilePass tp s).herd = s.herd ∧ (profilePass tp s).aon = s.aon ∧ (profilePass tp s).net = s.net ∧ (profilePass tp s).solver = s.solver ∧ (profilePass tp s).dsp = s.dsp ∧ (profilePass tp s).sep = s.sep ∧ (profilePass tp s).safety = s.safety ∧ (profilePass tp s).cham = s.cham ∧ (profilePass tp s).field = s.field ∧ (profilePass tp s).clocks = s.clocks ∧ (profilePass tp s).power = s.power ∧ (profilePass tp s).pair = s.pair ∧ (profilePass tp s).sec = s.sec ∧ (profilePass tp s).hw = s.hw ∧ (profilePass tp s).nor = s.nor := by
  have fr1 := @withProf_frame; have fr2 := @rateStep_frame; have fr3 := @stoStop_frame; have fr4 := @endRamp_frame; have fr5 := @conveyorStep_frame; have fr6 := @startStop_frame; have fr7 := @stopRaised_frame; have fr8 := @linearRaised_frame; have fr9 := @applyEvent_frame; have fr10 := @takePlan_frame; have fr11 := @sampleChan_frame; have fr12 := @sampleConveyor_frame; have fr13 := @settleSource_frame; have fr14 := @finishLinear_frame; have fr15 := @finishChan_frame; have fr16 := @applyTeach_frame
  unfold profilePass
  extract_lets tag t0 arms due stops teaches s0 s1 s2 s4 chs free s5 s6 s7 s8 s9 s10 s11 s12
  have h4 : (s4).mode = s.mode ∧ (s4).start = s.start ∧ (s4).writes = s.writes ∧ (s4).image = s.image ∧ (s4).herd = s.herd ∧ (s4).aon = s.aon ∧ (s4).net = s.net ∧ (s4).solver = s.solver ∧ (s4).dsp = s.dsp ∧ (s4).sep = s.sep ∧ (s4).safety = s.safety ∧ (s4).cham = s.cham ∧ (s4).field = s.field ∧ (s4).clocks = s.clocks ∧ (s4).power = s.power ∧ (s4).pair = s.pair ∧ (s4).sec = s.sec ∧ (s4).hw = s.hw ∧ (s4).nor = s.nor := by simp [s4, s2, s1, s0, fr1, fr2, fr3, fr4, fr5, fr6, fr7, fr8, fr9, fr10, fr11, fr12, fr13, fr14, fr15, fr16]
  have h5 : (s5).mode = s4.mode ∧ (s5).start = s4.start ∧ (s5).writes = s4.writes ∧ (s5).image = s4.image ∧ (s5).herd = s4.herd ∧ (s5).aon = s4.aon ∧ (s5).net = s4.net ∧ (s5).solver = s4.solver ∧ (s5).dsp = s4.dsp ∧ (s5).sep = s4.sep ∧ (s5).safety = s4.safety ∧ (s5).cham = s4.cham ∧ (s5).field = s4.field ∧ (s5).clocks = s4.clocks ∧ (s5).power = s4.power ∧ (s5).pair = s4.pair ∧ (s5).sec = s4.sec ∧ (s5).hw = s4.hw ∧ (s5).nor = s4.nor := by
    simp only [s5]
    split <;> simp [fr1, fr2, fr3, fr4, fr5, fr6, fr7, fr8, fr9, fr10, fr11, fr12, fr13, fr14, fr15, fr16]
  have h6 : (s6).mode = s5.mode ∧ (s6).start = s5.start ∧ (s6).writes = s5.writes ∧ (s6).image = s5.image ∧ (s6).herd = s5.herd ∧ (s6).aon = s5.aon ∧ (s6).net = s5.net ∧ (s6).solver = s5.solver ∧ (s6).dsp = s5.dsp ∧ (s6).sep = s5.sep ∧ (s6).safety = s5.safety ∧ (s6).cham = s5.cham ∧ (s6).field = s5.field ∧ (s6).clocks = s5.clocks ∧ (s6).power = s5.power ∧ (s6).pair = s5.pair ∧ (s6).sec = s5.sec ∧ (s6).hw = s5.hw ∧ (s6).nor = s5.nor := by
    have hf : ∀ (l : List Nat) (s : State), ((l.foldl (fun s ch => match followEnds s ch with | some rel => startStop s ch t0 rel | none => if jogStops s ch t0 then startStop s ch t0 false else stopRaised t0 s ch) s)).mode = s.mode ∧ ((l.foldl (fun s ch => match followEnds s ch with | some rel => startStop s ch t0 rel | none => if jogStops s ch t0 then startStop s ch t0 false else stopRaised t0 s ch) s)).start = s.start ∧ ((l.foldl (fun s ch => match followEnds s ch with | some rel => startStop s ch t0 rel | none => if jogStops s ch t0 then startStop s ch t0 false else stopRaised t0 s ch) s)).writes = s.writes ∧ ((l.foldl (fun s ch => match followEnds s ch with | some rel => startStop s ch t0 rel | none => if jogStops s ch t0 then startStop s ch t0 false else stopRaised t0 s ch) s)).image = s.image ∧ ((l.foldl (fun s ch => match followEnds s ch with | some rel => startStop s ch t0 rel | none => if jogStops s ch t0 then startStop s ch t0 false else stopRaised t0 s ch) s)).herd = s.herd ∧ ((l.foldl (fun s ch => match followEnds s ch with | some rel => startStop s ch t0 rel | none => if jogStops s ch t0 then startStop s ch t0 false else stopRaised t0 s ch) s)).aon = s.aon ∧ ((l.foldl (fun s ch => match followEnds s ch with | some rel => startStop s ch t0 rel | none => if jogStops s ch t0 then startStop s ch t0 false else stopRaised t0 s ch) s)).net = s.net ∧ ((l.foldl (fun s ch => match followEnds s ch with | some rel => startStop s ch t0 rel | none => if jogStops s ch t0 then startStop s ch t0 false else stopRaised t0 s ch) s)).solver = s.solver ∧ ((l.foldl (fun s ch => match followEnds s ch with | some rel => startStop s ch t0 rel | none => if jogStops s ch t0 then startStop s ch t0 false else stopRaised t0 s ch) s)).dsp = s.dsp ∧ ((l.foldl (fun s ch => match followEnds s ch with | some rel => startStop s ch t0 rel | none => if jogStops s ch t0 then startStop s ch t0 false else stopRaised t0 s ch) s)).sep = s.sep ∧ ((l.foldl (fun s ch => match followEnds s ch with | some rel => startStop s ch t0 rel | none => if jogStops s ch t0 then startStop s ch t0 false else stopRaised t0 s ch) s)).safety = s.safety ∧ ((l.foldl (fun s ch => match followEnds s ch with | some rel => startStop s ch t0 rel | none => if jogStops s ch t0 then startStop s ch t0 false else stopRaised t0 s ch) s)).cham = s.cham ∧ ((l.foldl (fun s ch => match followEnds s ch with | some rel => startStop s ch t0 rel | none => if jogStops s ch t0 then startStop s ch t0 false else stopRaised t0 s ch) s)).field = s.field ∧ ((l.foldl (fun s ch => match followEnds s ch with | some rel => startStop s ch t0 rel | none => if jogStops s ch t0 then startStop s ch t0 false else stopRaised t0 s ch) s)).clocks = s.clocks ∧ ((l.foldl (fun s ch => match followEnds s ch with | some rel => startStop s ch t0 rel | none => if jogStops s ch t0 then startStop s ch t0 false else stopRaised t0 s ch) s)).power = s.power ∧ ((l.foldl (fun s ch => match followEnds s ch with | some rel => startStop s ch t0 rel | none => if jogStops s ch t0 then startStop s ch t0 false else stopRaised t0 s ch) s)).pair = s.pair ∧ ((l.foldl (fun s ch => match followEnds s ch with | some rel => startStop s ch t0 rel | none => if jogStops s ch t0 then startStop s ch t0 false else stopRaised t0 s ch) s)).sec = s.sec ∧ ((l.foldl (fun s ch => match followEnds s ch with | some rel => startStop s ch t0 rel | none => if jogStops s ch t0 then startStop s ch t0 false else stopRaised t0 s ch) s)).hw = s.hw ∧ ((l.foldl (fun s ch => match followEnds s ch with | some rel => startStop s ch t0 rel | none => if jogStops s ch t0 then startStop s ch t0 false else stopRaised t0 s ch) s)).nor = s.nor := by
      intro l
      induction l with
      | nil => intro s; simp
      | cons a l ih =>
        intro s
        have := ih (match followEnds s a with | some rel => startStop s a t0 rel | none => if jogStops s a t0 then startStop s a t0 false else stopRaised t0 s a)
        simp only [List.foldl_cons]
        cases hw : followEnds s a <;> simp only [hw] at this ⊢ <;> simp only [this] <;> simp [fr1, fr2, fr3, fr4, fr5, fr6, fr7, fr8, fr9, fr10, fr11, fr12, fr13, fr14, fr15, fr16]
    have h6b : (arms.foldl linearRaised s5).mode = s5.mode ∧ (arms.foldl linearRaised s5).start = s5.start ∧ (arms.foldl linearRaised s5).writes = s5.writes ∧ (arms.foldl linearRaised s5).image = s5.image ∧ (arms.foldl linearRaised s5).herd = s5.herd ∧ (arms.foldl linearRaised s5).aon = s5.aon ∧ (arms.foldl linearRaised s5).net = s5.net ∧ (arms.foldl linearRaised s5).solver = s5.solver ∧ (arms.foldl linearRaised s5).dsp = s5.dsp ∧ (arms.foldl linearRaised s5).sep = s5.sep ∧ (arms.foldl linearRaised s5).safety = s5.safety ∧ (arms.foldl linearRaised s5).cham = s5.cham ∧ (arms.foldl linearRaised s5).field = s5.field ∧ (arms.foldl linearRaised s5).clocks = s5.clocks ∧ (arms.foldl linearRaised s5).power = s5.power ∧ (arms.foldl linearRaised s5).pair = s5.pair ∧ (arms.foldl linearRaised s5).sec = s5.sec ∧ (arms.foldl linearRaised s5).hw = s5.hw ∧ (arms.foldl linearRaised s5).nor = s5.nor := by simp [fr1, fr2, fr3, fr4, fr5, fr6, fr7, fr8, fr9, fr10, fr11, fr12, fr13, fr14, fr15, fr16]
    have h6a := hf chs (arms.foldl linearRaised s5)
    simp only [h6b] at h6a
    exact h6a
  have h8 : (s8).mode = s6.mode ∧ (s8).start = s6.start ∧ (s8).writes = s6.writes ∧ (s8).image = s6.image ∧ (s8).herd = s6.herd ∧ (s8).aon = s6.aon ∧ (s8).net = s6.net ∧ (s8).solver = s6.solver ∧ (s8).dsp = s6.dsp ∧ (s8).sep = s6.sep ∧ (s8).safety = s6.safety ∧ (s8).cham = s6.cham ∧ (s8).field = s6.field ∧ (s8).clocks = s6.clocks ∧ (s8).power = s6.power ∧ (s8).pair = s6.pair ∧ (s8).sec = s6.sec ∧ (s8).hw = s6.hw ∧ (s8).nor = s6.nor := by simp [s8, s7, fr1, fr2, fr3, fr4, fr5, fr6, fr7, fr8, fr9, fr10, fr11, fr12, fr13, fr14, fr15, fr16]
  have h12 : (s12).mode = s8.mode ∧ (s12).start = s8.start ∧ (s12).writes = s8.writes ∧ (s12).image = s8.image ∧ (s12).herd = s8.herd ∧ (s12).aon = s8.aon ∧ (s12).net = s8.net ∧ (s12).solver = s8.solver ∧ (s12).dsp = s8.dsp ∧ (s12).sep = s8.sep ∧ (s12).safety = s8.safety ∧ (s12).cham = s8.cham ∧ (s12).field = s8.field ∧ (s12).clocks = s8.clocks ∧ (s12).power = s8.power ∧ (s12).pair = s8.pair ∧ (s12).sec = s8.sec ∧ (s12).hw = s8.hw ∧ (s12).nor = s8.nor := by simp [s12, s11, s10, s9, fr1, fr2, fr3, fr4, fr5, fr6, fr7, fr8, fr9, fr10, fr11, fr12, fr13, fr14, fr15, fr16]
  clear_value s12 s8 s6 s5 s4
  simp_all

theorem limitWritten_frame (s : State) (ch : ℕ) (mem : ℕ) (old : ℕ) (new : ℕ) :
    (limitWritten s ch mem old new).mode = s.mode ∧ (limitWritten s ch mem old new).start = s.start ∧ (limitWritten s ch mem old new).zewen = s.zewen ∧ (limitWritten s ch mem old new).writes = s.writes ∧ (limitWritten s ch mem old new).image = s.image ∧ (limitWritten s ch mem old new).reg = s.reg ∧ (limitWritten s ch mem old new).objs = s.objs ∧ (limitWritten s ch mem old new).herd = s.herd ∧ (limitWritten s ch mem old new).aon = s.aon ∧ (limitWritten s ch mem old new).net = s.net ∧ (limitWritten s ch mem old new).plan = s.plan ∧ (limitWritten s ch mem old new).solver = s.solver ∧ (limitWritten s ch mem old new).piste = s.piste ∧ (limitWritten s ch mem old new).ctl = s.ctl ∧ (limitWritten s ch mem old new).sched = s.sched ∧ (limitWritten s ch mem old new).dsp = s.dsp ∧ (limitWritten s ch mem old new).sep = s.sep ∧ (limitWritten s ch mem old new).safety = s.safety ∧ (limitWritten s ch mem old new).cham = s.cham ∧ (limitWritten s ch mem old new).field = s.field ∧ (limitWritten s ch mem old new).acq = s.acq ∧ (limitWritten s ch mem old new).logs = s.logs ∧ (limitWritten s ch mem old new).clocks = s.clocks ∧ (limitWritten s ch mem old new).power = s.power ∧ (limitWritten s ch mem old new).pair = s.pair ∧ (limitWritten s ch mem old new).sec = s.sec ∧ (limitWritten s ch mem old new).hw = s.hw ∧ (limitWritten s ch mem old new).nor = s.nor ∧ (limitWritten s ch mem old new).freeCount = s.freeCount := by
  have fr1 := @setChan_frame
  unfold limitWritten
  simp [fr1]

/-! ### Dsp -/

theorem withDsp_frame (s : State) (f : DspState → DspState) :
    (withDsp s f).mode = s.mode ∧ (withDsp s f).start = s.start ∧ (withDsp s f).zewen = s.zewen ∧ (withDsp s f).writes = s.writes ∧ (withDsp s f).image = s.image ∧ (withDsp s f).reg = s.reg ∧ (withDsp s f).objs = s.objs ∧ (withDsp s f).herd = s.herd ∧ (withDsp s f).aon = s.aon ∧ (withDsp s f).net = s.net ∧ (withDsp s f).plan = s.plan ∧ (withDsp s f).solver = s.solver ∧ (withDsp s f).piste = s.piste ∧ (withDsp s f).prof = s.prof ∧ (withDsp s f).ctl = s.ctl ∧ (withDsp s f).sched = s.sched ∧ (withDsp s f).sep = s.sep ∧ (withDsp s f).safety = s.safety ∧ (withDsp s f).cham = s.cham ∧ (withDsp s f).field = s.field ∧ (withDsp s f).acq = s.acq ∧ (withDsp s f).logs = s.logs ∧ (withDsp s f).clocks = s.clocks ∧ (withDsp s f).power = s.power ∧ (withDsp s f).pair = s.pair ∧ (withDsp s f).sec = s.sec ∧ (withDsp s f).hw = s.hw ∧ (withDsp s f).nor = s.nor ∧ (withDsp s f).freeCount = s.freeCount := by
  unfold withDsp
  simp

theorem setKernel_frame (s : State) (k : ℕ) (f : KernelSlot → KernelSlot) :
    (setKernel s k f).mode = s.mode ∧ (setKernel s k f).start = s.start ∧ (setKernel s k f).zewen = s.zewen ∧ (setKernel s k f).writes = s.writes ∧ (setKernel s k f).image = s.image ∧ (setKernel s k f).reg = s.reg ∧ (setKernel s k f).objs = s.objs ∧ (setKernel s k f).herd = s.herd ∧ (setKernel s k f).aon = s.aon ∧ (setKernel s k f).net = s.net ∧ (setKernel s k f).plan = s.plan ∧ (setKernel s k f).solver = s.solver ∧ (setKernel s k f).piste = s.piste ∧ (setKernel s k f).prof = s.prof ∧ (setKernel s k f).ctl = s.ctl ∧ (setKernel s k f).sched = s.sched ∧ (setKernel s k f).sep = s.sep ∧ (setKernel s k f).safety = s.safety ∧ (setKernel s k f).cham = s.cham ∧ (setKernel s k f).field = s.field ∧ (setKernel s k f).acq = s.acq ∧ (setKernel s k f).logs = s.logs ∧ (setKernel s k f).clocks = s.clocks ∧ (setKernel s k f).power = s.power ∧ (setKernel s k f).pair = s.pair ∧ (setKernel s k f).sec = s.sec ∧ (setKernel s k f).hw = s.hw ∧ (setKernel s k f).nor = s.nor ∧ (setKernel s k f).freeCount = s.freeCount := by
  have fr1 := @withDsp_frame
  unfold setKernel
  simp [fr1]

theorem dspLoad_frame (s : State) (k : ℕ) (chunk : Bytes) :
    (dspLoad s k chunk).mode = s.mode ∧ (dspLoad s k chunk).start = s.start ∧ (dspLoad s k chunk).zewen = s.zewen ∧ (dspLoad s k chunk).writes = s.writes ∧ (dspLoad s k chunk).image = s.image ∧ (dspLoad s k chunk).reg = s.reg ∧ (dspLoad s k chunk).objs = s.objs ∧ (dspLoad s k chunk).herd = s.herd ∧ (dspLoad s k chunk).aon = s.aon ∧ (dspLoad s k chunk).net = s.net ∧ (dspLoad s k chunk).plan = s.plan ∧ (dspLoad s k chunk).solver = s.solver ∧ (dspLoad s k chunk).piste = s.piste ∧ (dspLoad s k chunk).prof = s.prof ∧ (dspLoad s k chunk).ctl = s.ctl ∧ (dspLoad s k chunk).sched = s.sched ∧ (dspLoad s k chunk).sep = s.sep ∧ (dspLoad s k chunk).safety = s.safety ∧ (dspLoad s k chunk).cham = s.cham ∧ (dspLoad s k chunk).field = s.field ∧ (dspLoad s k chunk).acq = s.acq ∧ (dspLoad s k chunk).logs = s.logs ∧ (dspLoad s k chunk).clocks = s.clocks ∧ (dspLoad s k chunk).power = s.power ∧ (dspLoad s k chunk).pair = s.pair ∧ (dspLoad s k chunk).sec = s.sec ∧ (dspLoad s k chunk).hw = s.hw ∧ (dspLoad s k chunk).nor = s.nor ∧ (dspLoad s k chunk).freeCount = s.freeCount := by
  have fr1 := @setKernel_frame
  unfold dspLoad
  simp [fr1]

theorem dspEnable_frame (s : State) (k : ℕ) (v : ℕ) :
    (dspEnable s k v).mode = s.mode ∧ (dspEnable s k v).start = s.start ∧ (dspEnable s k v).zewen = s.zewen ∧ (dspEnable s k v).writes = s.writes ∧ (dspEnable s k v).image = s.image ∧ (dspEnable s k v).reg = s.reg ∧ (dspEnable s k v).herd = s.herd ∧ (dspEnable s k v).aon = s.aon ∧ (dspEnable s k v).net = s.net ∧ (dspEnable s k v).plan = s.plan ∧ (dspEnable s k v).solver = s.solver ∧ (dspEnable s k v).piste = s.piste ∧ (dspEnable s k v).prof = s.prof ∧ (dspEnable s k v).ctl = s.ctl ∧ (dspEnable s k v).sched = s.sched ∧ (dspEnable s k v).sep = s.sep ∧ (dspEnable s k v).safety = s.safety ∧ (dspEnable s k v).cham = s.cham ∧ (dspEnable s k v).field = s.field ∧ (dspEnable s k v).acq = s.acq ∧ (dspEnable s k v).logs = s.logs ∧ (dspEnable s k v).clocks = s.clocks ∧ (dspEnable s k v).power = s.power ∧ (dspEnable s k v).pair = s.pair ∧ (dspEnable s k v).sec = s.sec ∧ (dspEnable s k v).hw = s.hw ∧ (dspEnable s k v).nor = s.nor ∧ (dspEnable s k v).freeCount = s.freeCount := by
  have fr1 := @setOb_frame; have fr2 := @setKernel_frame
  unfold dspEnable
  simp [fr1, fr2]

theorem dspActivate_frame (s : State) :
    (dspActivate s).mode = s.mode ∧ (dspActivate s).start = s.start ∧ (dspActivate s).zewen = s.zewen ∧ (dspActivate s).writes = s.writes ∧ (dspActivate s).image = s.image ∧ (dspActivate s).reg = s.reg ∧ (dspActivate s).objs = s.objs ∧ (dspActivate s).herd = s.herd ∧ (dspActivate s).aon = s.aon ∧ (dspActivate s).net = s.net ∧ (dspActivate s).plan = s.plan ∧ (dspActivate s).solver = s.solver ∧ (dspActivate s).piste = s.piste ∧ (dspActivate s).prof = s.prof ∧ (dspActivate s).ctl = s.ctl ∧ (dspActivate s).sched = s.sched ∧ (dspActivate s).sep = s.sep ∧ (dspActivate s).safety = s.safety ∧ (dspActivate s).cham = s.cham ∧ (dspActivate s).field = s.field ∧ (dspActivate s).acq = s.acq ∧ (dspActivate s).logs = s.logs ∧ (dspActivate s).clocks = s.clocks ∧ (dspActivate s).power = s.power ∧ (dspActivate s).pair = s.pair ∧ (dspActivate s).sec = s.sec ∧ (dspActivate s).hw = s.hw ∧ (dspActivate s).nor = s.nor ∧ (dspActivate s).freeCount = s.freeCount := by
  have fr1 := @withDsp_frame
  unfold dspActivate
  simp [fr1]

theorem kernelRun_frame (s : State) (k : ℕ) (retries : ℕ) :
    (kernelRun s k retries).start = s.start ∧ (kernelRun s k retries).writes = s.writes ∧ (kernelRun s k retries).image = s.image ∧ (kernelRun s k retries).herd = s.herd ∧ (kernelRun s k retries).aon = s.aon ∧ (kernelRun s k retries).net = s.net ∧ (kernelRun s k retries).plan = s.plan ∧ (kernelRun s k retries).solver = s.solver ∧ (kernelRun s k retries).piste = s.piste ∧ (kernelRun s k retries).prof = s.prof ∧ (kernelRun s k retries).ctl = s.ctl ∧ (kernelRun s k retries).sched = s.sched ∧ (kernelRun s k retries).sep = s.sep ∧ (kernelRun s k retries).safety = s.safety ∧ (kernelRun s k retries).cham = s.cham ∧ (kernelRun s k retries).field = s.field ∧ (kernelRun s k retries).clocks = s.clocks ∧ (kernelRun s k retries).power = s.power ∧ (kernelRun s k retries).pair = s.pair ∧ (kernelRun s k retries).sec = s.sec ∧ (kernelRun s k retries).hw = s.hw ∧ (kernelRun s k retries).nor = s.nor := by
  have fr1 := @withDsp_frame; have fr2 := @setKernel_frame; have fr3 := @error_frame; have fr4 := @setOb_frame; have fr5 := @bump_frame
  unfold kernelRun
  dsimp only
  split <;> simp [fr1, fr2, fr3, fr4, fr5]

/-! ### FieldIo -/

theorem probeLatch_frame (s : State) (n : ℕ) (t : ℕ) :
    (probeLatch s n t).mode = s.mode ∧ (probeLatch s n t).start = s.start ∧ (probeLatch s n t).zewen = s.zewen ∧ (probeLatch s n t).writes = s.writes ∧ (probeLatch s n t).image = s.image ∧ (probeLatch s n t).reg = s.reg ∧ (probeLatch s n t).herd = s.herd ∧ (probeLatch s n t).aon = s.aon ∧ (probeLatch s n t).net = s.net ∧ (probeLatch s n t).plan = s.plan ∧ (probeLatch s n t).solver = s.solver ∧ (probeLatch s n t).piste = s.piste ∧ (probeLatch s n t).prof = s.prof ∧ (probeLatch s n t).ctl = s.ctl ∧ (probeLatch s n t).sched = s.sched ∧ (probeLatch s n t).dsp = s.dsp ∧ (probeLatch s n t).sep = s.sep ∧ (probeLatch s n t).safety = s.safety ∧ (probeLatch s n t).cham = s.cham ∧ (probeLatch s n t).acq = s.acq ∧ (probeLatch s n t).logs = s.logs ∧ (probeLatch s n t).clocks = s.clocks ∧ (probeLatch s n t).power = s.power ∧ (probeLatch s n t).pair = s.pair ∧ (probeLatch s n t).sec = s.sec ∧ (probeLatch s n t).hw = s.hw ∧ (probeLatch s n t).nor = s.nor := by
  have fr1 := @bump_frame; have fr2 := @setEnc_frame
  unfold probeLatch
  simp [fr1, fr2]

theorem inputTrigger_frame (s : State) (n : ℕ) (t : ℕ) (on : Bool) :
    (inputTrigger s n t on).mode = s.mode ∧ (inputTrigger s n t on).start = s.start ∧ (inputTrigger s n t on).zewen = s.zewen ∧ (inputTrigger s n t on).writes = s.writes ∧ (inputTrigger s n t on).image = s.image ∧ (inputTrigger s n t on).reg = s.reg ∧ (inputTrigger s n t on).objs = s.objs ∧ (inputTrigger s n t on).herd = s.herd ∧ (inputTrigger s n t on).aon = s.aon ∧ (inputTrigger s n t on).net = s.net ∧ (inputTrigger s n t on).plan = s.plan ∧ (inputTrigger s n t on).solver = s.solver ∧ (inputTrigger s n t on).piste = s.piste ∧ (inputTrigger s n t on).prof = s.prof ∧ (inputTrigger s n t on).ctl = s.ctl ∧ (inputTrigger s n t on).sched = s.sched ∧ (inputTrigger s n t on).dsp = s.dsp ∧ (inputTrigger s n t on).sep = s.sep ∧ (inputTrigger s n t on).safety = s.safety ∧ (inputTrigger s n t on).cham = s.cham ∧ (inputTrigger s n t on).field = s.field ∧ (inputTrigger s n t on).logs = s.logs ∧ (inputTrigger s n t on).clocks = s.clocks ∧ (inputTrigger s n t on).power = s.power ∧ (inputTrigger s n t on).pair = s.pair ∧ (inputTrigger s n t on).sec = s.sec ∧ (inputTrigger s n t on).hw = s.hw ∧ (inputTrigger s n t on).nor = s.nor ∧ (inputTrigger s n t on).freeCount = s.freeCount := by
  unfold inputTrigger
  simp

theorem inputMoved_frame (t : ℕ) (s : State) (n : ℕ) (was : Bool) (is : Bool) :
    (inputMoved t s n was is).mode = s.mode ∧ (inputMoved t s n was is).start = s.start ∧ (inputMoved t s n was is).zewen = s.zewen ∧ (inputMoved t s n was is).writes = s.writes ∧ (inputMoved t s n was is).image = s.image ∧ (inputMoved t s n was is).reg = s.reg ∧ (inputMoved t s n was is).herd = s.herd ∧ (inputMoved t s n was is).aon = s.aon ∧ (inputMoved t s n was is).net = s.net ∧ (inputMoved t s n was is).plan = s.plan ∧ (inputMoved t s n was is).solver = s.solver ∧ (inputMoved t s n was is).piste = s.piste ∧ (inputMoved t s n was is).prof = s.prof ∧ (inputMoved t s n was is).ctl = s.ctl ∧ (inputMoved t s n was is).sched = s.sched ∧ (inputMoved t s n was is).dsp = s.dsp ∧ (inputMoved t s n was is).sep = s.sep ∧ (inputMoved t s n was is).safety = s.safety ∧ (inputMoved t s n was is).cham = s.cham ∧ (inputMoved t s n was is).logs = s.logs ∧ (inputMoved t s n was is).clocks = s.clocks ∧ (inputMoved t s n was is).power = s.power ∧ (inputMoved t s n was is).pair = s.pair ∧ (inputMoved t s n was is).sec = s.sec ∧ (inputMoved t s n was is).hw = s.hw ∧ (inputMoved t s n was is).nor = s.nor := by
  have fr1 := @inputTrigger_frame; have fr2 := @bump_frame; have fr3 := @probeLatch_frame
  unfold inputMoved
  simp [fr1, fr2, fr3]

theorem groupFault_frame (s : State) (element : ℕ) (group : ℕ) :
    (groupFault s element group).start = s.start ∧ (groupFault s element group).writes = s.writes ∧ (groupFault s element group).image = s.image ∧ (groupFault s element group).herd = s.herd ∧ (groupFault s element group).aon = s.aon ∧ (groupFault s element group).net = s.net ∧ (groupFault s element group).plan = s.plan ∧ (groupFault s element group).solver = s.solver ∧ (groupFault s element group).piste = s.piste ∧ (groupFault s element group).prof = s.prof ∧ (groupFault s element group).ctl = s.ctl ∧ (groupFault s element group).sched = s.sched ∧ (groupFault s element group).dsp = s.dsp ∧ (groupFault s element group).sep = s.sep ∧ (groupFault s element group).safety = s.safety ∧ (groupFault s element group).cham = s.cham ∧ (groupFault s element group).field = s.field ∧ (groupFault s element group).clocks = s.clocks ∧ (groupFault s element group).power = s.power ∧ (groupFault s element group).pair = s.pair ∧ (groupFault s element group).sec = s.sec ∧ (groupFault s element group).hw = s.hw ∧ (groupFault s element group).nor = s.nor := by
  have fr1 := @errorAs_frame; have fr2 := @bump_frame
  unfold groupFault
  simp [fr1, fr2]

theorem setSupply_frame (s : State) (i : ℕ) (mv : ℕ) :
    (setSupply s i mv).mode = s.mode ∧ (setSupply s i mv).start = s.start ∧ (setSupply s i mv).zewen = s.zewen ∧ (setSupply s i mv).writes = s.writes ∧ (setSupply s i mv).image = s.image ∧ (setSupply s i mv).reg = s.reg ∧ (setSupply s i mv).objs = s.objs ∧ (setSupply s i mv).herd = s.herd ∧ (setSupply s i mv).aon = s.aon ∧ (setSupply s i mv).net = s.net ∧ (setSupply s i mv).plan = s.plan ∧ (setSupply s i mv).solver = s.solver ∧ (setSupply s i mv).piste = s.piste ∧ (setSupply s i mv).prof = s.prof ∧ (setSupply s i mv).ctl = s.ctl ∧ (setSupply s i mv).sched = s.sched ∧ (setSupply s i mv).dsp = s.dsp ∧ (setSupply s i mv).sep = s.sep ∧ (setSupply s i mv).safety = s.safety ∧ (setSupply s i mv).cham = s.cham ∧ (setSupply s i mv).field = s.field ∧ (setSupply s i mv).acq = s.acq ∧ (setSupply s i mv).logs = s.logs ∧ (setSupply s i mv).clocks = s.clocks ∧ (setSupply s i mv).power = s.power ∧ (setSupply s i mv).pair = s.pair ∧ (setSupply s i mv).sec = s.sec ∧ (setSupply s i mv).nor = s.nor ∧ (setSupply s i mv).freeCount = s.freeCount := by
  unfold setSupply
  simp

theorem driveOutputs_frame (s : State) :
    (driveOutputs s).mode = s.mode ∧ (driveOutputs s).start = s.start ∧ (driveOutputs s).zewen = s.zewen ∧ (driveOutputs s).writes = s.writes ∧ (driveOutputs s).image = s.image ∧ (driveOutputs s).reg = s.reg ∧ (driveOutputs s).objs = s.objs ∧ (driveOutputs s).herd = s.herd ∧ (driveOutputs s).aon = s.aon ∧ (driveOutputs s).net = s.net ∧ (driveOutputs s).plan = s.plan ∧ (driveOutputs s).solver = s.solver ∧ (driveOutputs s).piste = s.piste ∧ (driveOutputs s).prof = s.prof ∧ (driveOutputs s).ctl = s.ctl ∧ (driveOutputs s).sched = s.sched ∧ (driveOutputs s).dsp = s.dsp ∧ (driveOutputs s).sep = s.sep ∧ (driveOutputs s).safety = s.safety ∧ (driveOutputs s).cham = s.cham ∧ (driveOutputs s).acq = s.acq ∧ (driveOutputs s).logs = s.logs ∧ (driveOutputs s).clocks = s.clocks ∧ (driveOutputs s).power = s.power ∧ (driveOutputs s).pair = s.pair ∧ (driveOutputs s).sec = s.sec ∧ (driveOutputs s).hw = s.hw ∧ (driveOutputs s).nor = s.nor ∧ (driveOutputs s).freeCount = s.freeCount := by
  have fr1 := @withField_frame
  unfold driveOutputs
  simp [fr1]

theorem outputsFault_frame (s : State) :
    (outputsFault s).mode = s.mode ∧ (outputsFault s).start = s.start ∧ (outputsFault s).zewen = s.zewen ∧ (outputsFault s).writes = s.writes ∧ (outputsFault s).image = s.image ∧ (outputsFault s).reg = s.reg ∧ (outputsFault s).herd = s.herd ∧ (outputsFault s).aon = s.aon ∧ (outputsFault s).net = s.net ∧ (outputsFault s).plan = s.plan ∧ (outputsFault s).solver = s.solver ∧ (outputsFault s).piste = s.piste ∧ (outputsFault s).prof = s.prof ∧ (outputsFault s).ctl = s.ctl ∧ (outputsFault s).sched = s.sched ∧ (outputsFault s).dsp = s.dsp ∧ (outputsFault s).sep = s.sep ∧ (outputsFault s).safety = s.safety ∧ (outputsFault s).cham = s.cham ∧ (outputsFault s).acq = s.acq ∧ (outputsFault s).logs = s.logs ∧ (outputsFault s).clocks = s.clocks ∧ (outputsFault s).power = s.power ∧ (outputsFault s).pair = s.pair ∧ (outputsFault s).sec = s.sec ∧ (outputsFault s).hw = s.hw ∧ (outputsFault s).nor = s.nor ∧ (outputsFault s).freeCount = s.freeCount := by
  have fr1 := @driveOutputs_frame; have fr2 := @setOb_frame
  unfold outputsFault
  simp [fr1, fr2]

theorem fieldActivate_frame (s : State) :
    (fieldActivate s).mode = s.mode ∧ (fieldActivate s).start = s.start ∧ (fieldActivate s).zewen = s.zewen ∧ (fieldActivate s).writes = s.writes ∧ (fieldActivate s).image = s.image ∧ (fieldActivate s).reg = s.reg ∧ (fieldActivate s).objs = s.objs ∧ (fieldActivate s).herd = s.herd ∧ (fieldActivate s).aon = s.aon ∧ (fieldActivate s).net = s.net ∧ (fieldActivate s).plan = s.plan ∧ (fieldActivate s).solver = s.solver ∧ (fieldActivate s).piste = s.piste ∧ (fieldActivate s).prof = s.prof ∧ (fieldActivate s).ctl = s.ctl ∧ (fieldActivate s).sched = s.sched ∧ (fieldActivate s).dsp = s.dsp ∧ (fieldActivate s).sep = s.sep ∧ (fieldActivate s).safety = s.safety ∧ (fieldActivate s).cham = s.cham ∧ (fieldActivate s).acq = s.acq ∧ (fieldActivate s).logs = s.logs ∧ (fieldActivate s).clocks = s.clocks ∧ (fieldActivate s).power = s.power ∧ (fieldActivate s).pair = s.pair ∧ (fieldActivate s).sec = s.sec ∧ (fieldActivate s).hw = s.hw ∧ (fieldActivate s).nor = s.nor ∧ (fieldActivate s).freeCount = s.freeCount := by
  have fr1 := @driveOutputs_frame; have fr2 := @withField_frame
  unfold fieldActivate
  simp [fr1, fr2]

/-! ### Tahixa -/

theorem withNet_frame (s : State) (f : TahixaState → TahixaState) :
    (withNet s f).mode = s.mode ∧ (withNet s f).start = s.start ∧ (withNet s f).zewen = s.zewen ∧ (withNet s f).writes = s.writes ∧ (withNet s f).image = s.image ∧ (withNet s f).reg = s.reg ∧ (withNet s f).objs = s.objs ∧ (withNet s f).herd = s.herd ∧ (withNet s f).aon = s.aon ∧ (withNet s f).plan = s.plan ∧ (withNet s f).solver = s.solver ∧ (withNet s f).piste = s.piste ∧ (withNet s f).prof = s.prof ∧ (withNet s f).ctl = s.ctl ∧ (withNet s f).sched = s.sched ∧ (withNet s f).dsp = s.dsp ∧ (withNet s f).sep = s.sep ∧ (withNet s f).safety = s.safety ∧ (withNet s f).cham = s.cham ∧ (withNet s f).field = s.field ∧ (withNet s f).acq = s.acq ∧ (withNet s f).logs = s.logs ∧ (withNet s f).clocks = s.clocks ∧ (withNet s f).power = s.power ∧ (withNet s f).pair = s.pair ∧ (withNet s f).sec = s.sec ∧ (withNet s f).hw = s.hw ∧ (withNet s f).nor = s.nor ∧ (withNet s f).freeCount = s.freeCount := by
  unfold withNet
  simp

theorem setNode_frame (s : State) (n : ℕ) (f : NodeState → NodeState) :
    (setNode s n f).mode = s.mode ∧ (setNode s n f).start = s.start ∧ (setNode s n f).zewen = s.zewen ∧ (setNode s n f).writes = s.writes ∧ (setNode s n f).image = s.image ∧ (setNode s n f).reg = s.reg ∧ (setNode s n f).objs = s.objs ∧ (setNode s n f).herd = s.herd ∧ (setNode s n f).aon = s.aon ∧ (setNode s n f).plan = s.plan ∧ (setNode s n f).solver = s.solver ∧ (setNode s n f).piste = s.piste ∧ (setNode s n f).prof = s.prof ∧ (setNode s n f).ctl = s.ctl ∧ (setNode s n f).sched = s.sched ∧ (setNode s n f).dsp = s.dsp ∧ (setNode s n f).sep = s.sep ∧ (setNode s n f).safety = s.safety ∧ (setNode s n f).cham = s.cham ∧ (setNode s n f).field = s.field ∧ (setNode s n f).acq = s.acq ∧ (setNode s n f).logs = s.logs ∧ (setNode s n f).clocks = s.clocks ∧ (setNode s n f).power = s.power ∧ (setNode s n f).pair = s.pair ∧ (setNode s n f).sec = s.sec ∧ (setNode s n f).hw = s.hw ∧ (setNode s n f).nor = s.nor ∧ (setNode s n f).freeCount = s.freeCount := by
  have fr1 := @withNet_frame
  unfold setNode
  simp [fr1]

theorem setUp_frame (s : State) (k : ℕ) (f : UpSlot → UpSlot) :
    (setUp s k f).mode = s.mode ∧ (setUp s k f).start = s.start ∧ (setUp s k f).zewen = s.zewen ∧ (setUp s k f).writes = s.writes ∧ (setUp s k f).image = s.image ∧ (setUp s k f).reg = s.reg ∧ (setUp s k f).objs = s.objs ∧ (setUp s k f).herd = s.herd ∧ (setUp s k f).aon = s.aon ∧ (setUp s k f).plan = s.plan ∧ (setUp s k f).solver = s.solver ∧ (setUp s k f).piste = s.piste ∧ (setUp s k f).prof = s.prof ∧ (setUp s k f).ctl = s.ctl ∧ (setUp s k f).sched = s.sched ∧ (setUp s k f).dsp = s.dsp ∧ (setUp s k f).sep = s.sep ∧ (setUp s k f).safety = s.safety ∧ (setUp s k f).cham = s.cham ∧ (setUp s k f).field = s.field ∧ (setUp s k f).acq = s.acq ∧ (setUp s k f).logs = s.logs ∧ (setUp s k f).clocks = s.clocks ∧ (setUp s k f).power = s.power ∧ (setUp s k f).pair = s.pair ∧ (setUp s k f).sec = s.sec ∧ (setUp s k f).hw = s.hw ∧ (setUp s k f).nor = s.nor ∧ (setUp s k f).freeCount = s.freeCount := by
  have fr1 := @withNet_frame
  unfold setUp
  simp [fr1]

theorem setDown_frame (s : State) (k : ℕ) (f : DownSlot → DownSlot) :
    (setDown s k f).mode = s.mode ∧ (setDown s k f).start = s.start ∧ (setDown s k f).zewen = s.zewen ∧ (setDown s k f).writes = s.writes ∧ (setDown s k f).image = s.image ∧ (setDown s k f).reg = s.reg ∧ (setDown s k f).objs = s.objs ∧ (setDown s k f).herd = s.herd ∧ (setDown s k f).aon = s.aon ∧ (setDown s k f).plan = s.plan ∧ (setDown s k f).solver = s.solver ∧ (setDown s k f).piste = s.piste ∧ (setDown s k f).prof = s.prof ∧ (setDown s k f).ctl = s.ctl ∧ (setDown s k f).sched = s.sched ∧ (setDown s k f).dsp = s.dsp ∧ (setDown s k f).sep = s.sep ∧ (setDown s k f).safety = s.safety ∧ (setDown s k f).cham = s.cham ∧ (setDown s k f).field = s.field ∧ (setDown s k f).acq = s.acq ∧ (setDown s k f).logs = s.logs ∧ (setDown s k f).clocks = s.clocks ∧ (setDown s k f).power = s.power ∧ (setDown s k f).pair = s.pair ∧ (setDown s k f).sec = s.sec ∧ (setDown s k f).hw = s.hw ∧ (setDown s k f).nor = s.nor ∧ (setDown s k f).freeCount = s.freeCount := by
  have fr1 := @withNet_frame
  unfold setDown
  simp [fr1]

theorem countNode_frame (s : State) (src : ℕ) (mem : ℕ) :
    (countNode s src mem).mode = s.mode ∧ (countNode s src mem).start = s.start ∧ (countNode s src mem).zewen = s.zewen ∧ (countNode s src mem).writes = s.writes ∧ (countNode s src mem).image = s.image ∧ (countNode s src mem).reg = s.reg ∧ (countNode s src mem).herd = s.herd ∧ (countNode s src mem).aon = s.aon ∧ (countNode s src mem).net = s.net ∧ (countNode s src mem).plan = s.plan ∧ (countNode s src mem).solver = s.solver ∧ (countNode s src mem).piste = s.piste ∧ (countNode s src mem).prof = s.prof ∧ (countNode s src mem).ctl = s.ctl ∧ (countNode s src mem).sched = s.sched ∧ (countNode s src mem).dsp = s.dsp ∧ (countNode s src mem).sep = s.sep ∧ (countNode s src mem).safety = s.safety ∧ (countNode s src mem).cham = s.cham ∧ (countNode s src mem).field = s.field ∧ (countNode s src mem).acq = s.acq ∧ (countNode s src mem).logs = s.logs ∧ (countNode s src mem).clocks = s.clocks ∧ (countNode s src mem).power = s.power ∧ (countNode s src mem).pair = s.pair ∧ (countNode s src mem).sec = s.sec ∧ (countNode s src mem).hw = s.hw ∧ (countNode s src mem).nor = s.nor := by
  have fr1 := @bump_frame
  unfold countNode
  simp [fr1]

theorem countPort_frame (s : State) (f : RxFrame) :
    (countPort s f).mode = s.mode ∧ (countPort s f).start = s.start ∧ (countPort s f).zewen = s.zewen ∧ (countPort s f).writes = s.writes ∧ (countPort s f).image = s.image ∧ (countPort s f).reg = s.reg ∧ (countPort s f).herd = s.herd ∧ (countPort s f).aon = s.aon ∧ (countPort s f).net = s.net ∧ (countPort s f).plan = s.plan ∧ (countPort s f).solver = s.solver ∧ (countPort s f).piste = s.piste ∧ (countPort s f).prof = s.prof ∧ (countPort s f).ctl = s.ctl ∧ (countPort s f).sched = s.sched ∧ (countPort s f).dsp = s.dsp ∧ (countPort s f).sep = s.sep ∧ (countPort s f).safety = s.safety ∧ (countPort s f).cham = s.cham ∧ (countPort s f).field = s.field ∧ (countPort s f).acq = s.acq ∧ (countPort s f).logs = s.logs ∧ (countPort s f).clocks = s.clocks ∧ (countPort s f).power = s.power ∧ (countPort s f).pair = s.pair ∧ (countPort s f).sec = s.sec ∧ (countPort s f).hw = s.hw ∧ (countPort s f).nor = s.nor ∧ (countPort s f).freeCount = s.freeCount := by
  have fr1 := @countFrame_frame; have fr2 := @bumpAtN_frame; have fr3 := @bumpAt_frame
  unfold countPort
  simp [fr1, fr2, fr3]

theorem frameForm_frame (s1 : State) (f : RxFrame) :
    ((frameForm s1 f).1).mode = s1.mode ∧ ((frameForm s1 f).1).start = s1.start ∧ ((frameForm s1 f).1).zewen = s1.zewen ∧ ((frameForm s1 f).1).writes = s1.writes ∧ ((frameForm s1 f).1).image = s1.image ∧ ((frameForm s1 f).1).reg = s1.reg ∧ ((frameForm s1 f).1).herd = s1.herd ∧ ((frameForm s1 f).1).aon = s1.aon ∧ ((frameForm s1 f).1).net = s1.net ∧ ((frameForm s1 f).1).plan = s1.plan ∧ ((frameForm s1 f).1).solver = s1.solver ∧ ((frameForm s1 f).1).piste = s1.piste ∧ ((frameForm s1 f).1).prof = s1.prof ∧ ((frameForm s1 f).1).ctl = s1.ctl ∧ ((frameForm s1 f).1).sched = s1.sched ∧ ((frameForm s1 f).1).dsp = s1.dsp ∧ ((frameForm s1 f).1).sep = s1.sep ∧ ((frameForm s1 f).1).safety = s1.safety ∧ ((frameForm s1 f).1).cham = s1.cham ∧ ((frameForm s1 f).1).field = s1.field ∧ ((frameForm s1 f).1).acq = s1.acq ∧ ((frameForm s1 f).1).logs = s1.logs ∧ ((frameForm s1 f).1).clocks = s1.clocks ∧ ((frameForm s1 f).1).power = s1.power ∧ ((frameForm s1 f).1).pair = s1.pair ∧ ((frameForm s1 f).1).sec = s1.sec ∧ ((frameForm s1 f).1).hw = s1.hw ∧ ((frameForm s1 f).1).nor = s1.nor := by
  have fr1 := @bump_frame
  unfold frameForm
  (repeat' split) <;> simp [fr1]

theorem noteDrift_frame (s : State) (n : ℕ) (outer : Bool) :
    (noteDrift s n outer).mode = s.mode ∧ (noteDrift s n outer).start = s.start ∧ (noteDrift s n outer).zewen = s.zewen ∧ (noteDrift s n outer).writes = s.writes ∧ (noteDrift s n outer).image = s.image ∧ (noteDrift s n outer).reg = s.reg ∧ (noteDrift s n outer).objs = s.objs ∧ (noteDrift s n outer).herd = s.herd ∧ (noteDrift s n outer).aon = s.aon ∧ (noteDrift s n outer).plan = s.plan ∧ (noteDrift s n outer).solver = s.solver ∧ (noteDrift s n outer).piste = s.piste ∧ (noteDrift s n outer).prof = s.prof ∧ (noteDrift s n outer).ctl = s.ctl ∧ (noteDrift s n outer).sched = s.sched ∧ (noteDrift s n outer).dsp = s.dsp ∧ (noteDrift s n outer).sep = s.sep ∧ (noteDrift s n outer).safety = s.safety ∧ (noteDrift s n outer).cham = s.cham ∧ (noteDrift s n outer).field = s.field ∧ (noteDrift s n outer).acq = s.acq ∧ (noteDrift s n outer).logs = s.logs ∧ (noteDrift s n outer).clocks = s.clocks ∧ (noteDrift s n outer).power = s.power ∧ (noteDrift s n outer).pair = s.pair ∧ (noteDrift s n outer).sec = s.sec ∧ (noteDrift s n outer).hw = s.hw ∧ (noteDrift s n outer).nor = s.nor ∧ (noteDrift s n outer).freeCount = s.freeCount := by
  have fr1 := @setNode_frame
  unfold noteDrift
  simp [fr1]

theorem noteOffset_frame (s : State) (n : ℕ) (d : ℤ) (w : ℤ) :
    (noteOffset s n d w).mode = s.mode ∧ (noteOffset s n d w).start = s.start ∧ (noteOffset s n d w).zewen = s.zewen ∧ (noteOffset s n d w).writes = s.writes ∧ (noteOffset s n d w).image = s.image ∧ (noteOffset s n d w).reg = s.reg ∧ (noteOffset s n d w).objs = s.objs ∧ (noteOffset s n d w).herd = s.herd ∧ (noteOffset s n d w).aon = s.aon ∧ (noteOffset s n d w).plan = s.plan ∧ (noteOffset s n d w).solver = s.solver ∧ (noteOffset s n d w).piste = s.piste ∧ (noteOffset s n d w).prof = s.prof ∧ (noteOffset s n d w).ctl = s.ctl ∧ (noteOffset s n d w).sched = s.sched ∧ (noteOffset s n d w).dsp = s.dsp ∧ (noteOffset s n d w).sep = s.sep ∧ (noteOffset s n d w).safety = s.safety ∧ (noteOffset s n d w).cham = s.cham ∧ (noteOffset s n d w).field = s.field ∧ (noteOffset s n d w).acq = s.acq ∧ (noteOffset s n d w).logs = s.logs ∧ (noteOffset s n d w).clocks = s.clocks ∧ (noteOffset s n d w).power = s.power ∧ (noteOffset s n d w).pair = s.pair ∧ (noteOffset s n d w).sec = s.sec ∧ (noteOffset s n d w).hw = s.hw ∧ (noteOffset s n d w).nor = s.nor ∧ (noteOffset s n d w).freeCount = s.freeCount := by
  have fr1 := @noteDrift_frame; have fr2 := @setNode_frame
  unfold noteOffset
  simp [fr1, fr2]

theorem noteAccepted_frame (s : State) (k : ℕ) (f : RxFrame) (start : ℤ) :
    (noteAccepted s k f start).mode = s.mode ∧ (noteAccepted s k f start).start = s.start ∧ (noteAccepted s k f start).zewen = s.zewen ∧ (noteAccepted s k f start).writes = s.writes ∧ (noteAccepted s k f start).image = s.image ∧ (noteAccepted s k f start).reg = s.reg ∧ (noteAccepted s k f start).objs = s.objs ∧ (noteAccepted s k f start).herd = s.herd ∧ (noteAccepted s k f start).aon = s.aon ∧ (noteAccepted s k f start).plan = s.plan ∧ (noteAccepted s k f start).solver = s.solver ∧ (noteAccepted s k f start).piste = s.piste ∧ (noteAccepted s k f start).prof = s.prof ∧ (noteAccepted s k f start).ctl = s.ctl ∧ (noteAccepted s k f start).sched = s.sched ∧ (noteAccepted s k f start).dsp = s.dsp ∧ (noteAccepted s k f start).sep = s.sep ∧ (noteAccepted s k f start).safety = s.safety ∧ (noteAccepted s k f start).cham = s.cham ∧ (noteAccepted s k f start).field = s.field ∧ (noteAccepted s k f start).acq = s.acq ∧ (noteAccepted s k f start).logs = s.logs ∧ (noteAccepted s k f start).clocks = s.clocks ∧ (noteAccepted s k f start).power = s.power ∧ (noteAccepted s k f start).pair = s.pair ∧ (noteAccepted s k f start).sec = s.sec ∧ (noteAccepted s k f start).hw = s.hw ∧ (noteAccepted s k f start).nor = s.nor ∧ (noteAccepted s k f start).freeCount = s.freeCount := by
  have fr1 := @noteOffset_frame
  unfold noteAccepted
  simp [fr1]

theorem takeRequest_frame (s : State) (n : ℕ) (dyn : ℕ) (at_ : ℕ) :
    (takeRequest s n dyn at_).mode = s.mode ∧ (takeRequest s n dyn at_).start = s.start ∧ (takeRequest s n dyn at_).zewen = s.zewen ∧ (takeRequest s n dyn at_).writes = s.writes ∧ (takeRequest s n dyn at_).image = s.image ∧ (takeRequest s n dyn at_).reg = s.reg ∧ (takeRequest s n dyn at_).objs = s.objs ∧ (takeRequest s n dyn at_).herd = s.herd ∧ (takeRequest s n dyn at_).aon = s.aon ∧ (takeRequest s n dyn at_).plan = s.plan ∧ (takeRequest s n dyn at_).solver = s.solver ∧ (takeRequest s n dyn at_).piste = s.piste ∧ (takeRequest s n dyn at_).prof = s.prof ∧ (takeRequest s n dyn at_).ctl = s.ctl ∧ (takeRequest s n dyn at_).sched = s.sched ∧ (takeRequest s n dyn at_).dsp = s.dsp ∧ (takeRequest s n dyn at_).sep = s.sep ∧ (takeRequest s n dyn at_).safety = s.safety ∧ (takeRequest s n dyn at_).cham = s.cham ∧ (takeRequest s n dyn at_).field = s.field ∧ (takeRequest s n dyn at_).acq = s.acq ∧ (takeRequest s n dyn at_).logs = s.logs ∧ (takeRequest s n dyn at_).clocks = s.clocks ∧ (takeRequest s n dyn at_).power = s.power ∧ (takeRequest s n dyn at_).pair = s.pair ∧ (takeRequest s n dyn at_).sec = s.sec ∧ (takeRequest s n dyn at_).hw = s.hw ∧ (takeRequest s n dyn at_).nor = s.nor ∧ (takeRequest s n dyn at_).freeCount = s.freeCount := by
  have fr1 := @setNode_frame
  unfold takeRequest
  simp [fr1]

theorem noteLine_frame (s : State) (n : ℕ) (port : ℕ) (first : Bool) :
    (noteLine s n port first).mode = s.mode ∧ (noteLine s n port first).start = s.start ∧ (noteLine s n port first).zewen = s.zewen ∧ (noteLine s n port first).writes = s.writes ∧ (noteLine s n port first).image = s.image ∧ (noteLine s n port first).reg = s.reg ∧ (noteLine s n port first).objs = s.objs ∧ (noteLine s n port first).herd = s.herd ∧ (noteLine s n port first).aon = s.aon ∧ (noteLine s n port first).plan = s.plan ∧ (noteLine s n port first).solver = s.solver ∧ (noteLine s n port first).piste = s.piste ∧ (noteLine s n port first).prof = s.prof ∧ (noteLine s n port first).ctl = s.ctl ∧ (noteLine s n port first).sched = s.sched ∧ (noteLine s n port first).dsp = s.dsp ∧ (noteLine s n port first).sep = s.sep ∧ (noteLine s n port first).safety = s.safety ∧ (noteLine s n port first).cham = s.cham ∧ (noteLine s n port first).field = s.field ∧ (noteLine s n port first).acq = s.acq ∧ (noteLine s n port first).logs = s.logs ∧ (noteLine s n port first).clocks = s.clocks ∧ (noteLine s n port first).power = s.power ∧ (noteLine s n port first).pair = s.pair ∧ (noteLine s n port first).sec = s.sec ∧ (noteLine s n port first).hw = s.hw ∧ (noteLine s n port first).nor = s.nor ∧ (noteLine s n port first).freeCount = s.freeCount := by
  have fr1 := @setNode_frame
  unfold noteLine
  simp [fr1]

theorem putFrame_frame (s : State) (k : ℕ) (c : SlotCopy) :
    (putFrame s k c).mode = s.mode ∧ (putFrame s k c).start = s.start ∧ (putFrame s k c).zewen = s.zewen ∧ (putFrame s k c).writes = s.writes ∧ (putFrame s k c).image = s.image ∧ (putFrame s k c).reg = s.reg ∧ (putFrame s k c).objs = s.objs ∧ (putFrame s k c).herd = s.herd ∧ (putFrame s k c).aon = s.aon ∧ (putFrame s k c).plan = s.plan ∧ (putFrame s k c).solver = s.solver ∧ (putFrame s k c).piste = s.piste ∧ (putFrame s k c).prof = s.prof ∧ (putFrame s k c).ctl = s.ctl ∧ (putFrame s k c).sched = s.sched ∧ (putFrame s k c).dsp = s.dsp ∧ (putFrame s k c).sep = s.sep ∧ (putFrame s k c).safety = s.safety ∧ (putFrame s k c).cham = s.cham ∧ (putFrame s k c).field = s.field ∧ (putFrame s k c).acq = s.acq ∧ (putFrame s k c).logs = s.logs ∧ (putFrame s k c).clocks = s.clocks ∧ (putFrame s k c).power = s.power ∧ (putFrame s k c).pair = s.pair ∧ (putFrame s k c).sec = s.sec ∧ (putFrame s k c).hw = s.hw ∧ (putFrame s k c).nor = s.nor ∧ (putFrame s k c).freeCount = s.freeCount := by
  have fr1 := @setUp_frame
  unfold putFrame
  simp [fr1]

theorem holdFrame_frame (s : State) (k : ℕ) (c : SlotCopy) :
    (holdFrame s k c).mode = s.mode ∧ (holdFrame s k c).start = s.start ∧ (holdFrame s k c).zewen = s.zewen ∧ (holdFrame s k c).writes = s.writes ∧ (holdFrame s k c).image = s.image ∧ (holdFrame s k c).reg = s.reg ∧ (holdFrame s k c).herd = s.herd ∧ (holdFrame s k c).aon = s.aon ∧ (holdFrame s k c).plan = s.plan ∧ (holdFrame s k c).solver = s.solver ∧ (holdFrame s k c).piste = s.piste ∧ (holdFrame s k c).prof = s.prof ∧ (holdFrame s k c).ctl = s.ctl ∧ (holdFrame s k c).sched = s.sched ∧ (holdFrame s k c).dsp = s.dsp ∧ (holdFrame s k c).sep = s.sep ∧ (holdFrame s k c).safety = s.safety ∧ (holdFrame s k c).cham = s.cham ∧ (holdFrame s k c).field = s.field ∧ (holdFrame s k c).acq = s.acq ∧ (holdFrame s k c).logs = s.logs ∧ (holdFrame s k c).clocks = s.clocks ∧ (holdFrame s k c).power = s.power ∧ (holdFrame s k c).pair = s.pair ∧ (holdFrame s k c).sec = s.sec ∧ (holdFrame s k c).hw = s.hw ∧ (holdFrame s k c).nor = s.nor ∧ (holdFrame s k c).freeCount = s.freeCount := by
  have fr1 := @putFrame_frame; have fr2 := @bumpAt_frame
  unfold holdFrame
  simp [fr1, fr2]

theorem postSafeIn_frame (s : State) (e : ℕ) (p : Bytes) (age : ℕ) :
    (postSafeIn s e p age).mode = s.mode ∧ (postSafeIn s e p age).start = s.start ∧ (postSafeIn s e p age).zewen = s.zewen ∧ (postSafeIn s e p age).writes = s.writes ∧ (postSafeIn s e p age).image = s.image ∧ (postSafeIn s e p age).reg = s.reg ∧ (postSafeIn s e p age).herd = s.herd ∧ (postSafeIn s e p age).aon = s.aon ∧ (postSafeIn s e p age).net = s.net ∧ (postSafeIn s e p age).plan = s.plan ∧ (postSafeIn s e p age).solver = s.solver ∧ (postSafeIn s e p age).piste = s.piste ∧ (postSafeIn s e p age).prof = s.prof ∧ (postSafeIn s e p age).ctl = s.ctl ∧ (postSafeIn s e p age).sched = s.sched ∧ (postSafeIn s e p age).dsp = s.dsp ∧ (postSafeIn s e p age).sep = s.sep ∧ (postSafeIn s e p age).cham = s.cham ∧ (postSafeIn s e p age).field = s.field ∧ (postSafeIn s e p age).acq = s.acq ∧ (postSafeIn s e p age).logs = s.logs ∧ (postSafeIn s e p age).clocks = s.clocks ∧ (postSafeIn s e p age).power = s.power ∧ (postSafeIn s e p age).pair = s.pair ∧ (postSafeIn s e p age).sec = s.sec ∧ (postSafeIn s e p age).hw = s.hw ∧ (postSafeIn s e p age).nor = s.nor := by
  have fr1 := @setSafeCh_frame; have fr2 := @bump_frame
  unfold postSafeIn
  simp [fr1, fr2]

theorem postSlot_frame (s : State) (k : ℕ) (at_ : ℕ) :
    (postSlot s k at_).mode = s.mode ∧ (postSlot s k at_).start = s.start ∧ (postSlot s k at_).zewen = s.zewen ∧ (postSlot s k at_).writes = s.writes ∧ (postSlot s k at_).image = s.image ∧ (postSlot s k at_).reg = s.reg ∧ (postSlot s k at_).herd = s.herd ∧ (postSlot s k at_).aon = s.aon ∧ (postSlot s k at_).plan = s.plan ∧ (postSlot s k at_).solver = s.solver ∧ (postSlot s k at_).piste = s.piste ∧ (postSlot s k at_).prof = s.prof ∧ (postSlot s k at_).dsp = s.dsp ∧ (postSlot s k at_).sep = s.sep ∧ (postSlot s k at_).cham = s.cham ∧ (postSlot s k at_).field = s.field ∧ (postSlot s k at_).acq = s.acq ∧ (postSlot s k at_).logs = s.logs ∧ (postSlot s k at_).clocks = s.clocks ∧ (postSlot s k at_).power = s.power ∧ (postSlot s k at_).pair = s.pair ∧ (postSlot s k at_).sec = s.sec ∧ (postSlot s k at_).hw = s.hw ∧ (postSlot s k at_).nor = s.nor := by
  have fr1 := @setUp_frame; have fr2 := @withSched_frame; have fr3 := @postSafeIn_frame
  unfold postSlot
  dsimp only
  split <;> simp [fr1, fr2, fr3]

theorem jointRecord_frame (s : State) (k : ℕ) (f : RxFrame) :
    (jointRecord s k f).mode = s.mode ∧ (jointRecord s k f).start = s.start ∧ (jointRecord s k f).zewen = s.zewen ∧ (jointRecord s k f).writes = s.writes ∧ (jointRecord s k f).image = s.image ∧ (jointRecord s k f).reg = s.reg ∧ (jointRecord s k f).objs = s.objs ∧ (jointRecord s k f).herd = s.herd ∧ (jointRecord s k f).aon = s.aon ∧ (jointRecord s k f).net = s.net ∧ (jointRecord s k f).plan = s.plan ∧ (jointRecord s k f).solver = s.solver ∧ (jointRecord s k f).piste = s.piste ∧ (jointRecord s k f).prof = s.prof ∧ (jointRecord s k f).ctl = s.ctl ∧ (jointRecord s k f).sched = s.sched ∧ (jointRecord s k f).dsp = s.dsp ∧ (jointRecord s k f).safety = s.safety ∧ (jointRecord s k f).cham = s.cham ∧ (jointRecord s k f).field = s.field ∧ (jointRecord s k f).acq = s.acq ∧ (jointRecord s k f).logs = s.logs ∧ (jointRecord s k f).clocks = s.clocks ∧ (jointRecord s k f).power = s.power ∧ (jointRecord s k f).pair = s.pair ∧ (jointRecord s k f).sec = s.sec ∧ (jointRecord s k f).hw = s.hw ∧ (jointRecord s k f).nor = s.nor ∧ (jointRecord s k f).freeCount = s.freeCount := by
  have fr1 := @withSep_frame
  unfold jointRecord
  simp [fr1]

theorem putCopy_frame (s : State) (k : ℕ) (line : ℕ) (c : SlotCopy) :
    (putCopy s k line c).mode = s.mode ∧ (putCopy s k line c).start = s.start ∧ (putCopy s k line c).zewen = s.zewen ∧ (putCopy s k line c).writes = s.writes ∧ (putCopy s k line c).image = s.image ∧ (putCopy s k line c).reg = s.reg ∧ (putCopy s k line c).objs = s.objs ∧ (putCopy s k line c).herd = s.herd ∧ (putCopy s k line c).aon = s.aon ∧ (putCopy s k line c).plan = s.plan ∧ (putCopy s k line c).solver = s.solver ∧ (putCopy s k line c).piste = s.piste ∧ (putCopy s k line c).prof = s.prof ∧ (putCopy s k line c).ctl = s.ctl ∧ (putCopy s k line c).sched = s.sched ∧ (putCopy s k line c).dsp = s.dsp ∧ (putCopy s k line c).sep = s.sep ∧ (putCopy s k line c).safety = s.safety ∧ (putCopy s k line c).cham = s.cham ∧ (putCopy s k line c).field = s.field ∧ (putCopy s k line c).acq = s.acq ∧ (putCopy s k line c).logs = s.logs ∧ (putCopy s k line c).clocks = s.clocks ∧ (putCopy s k line c).power = s.power ∧ (putCopy s k line c).pair = s.pair ∧ (putCopy s k line c).sec = s.sec ∧ (putCopy s k line c).hw = s.hw ∧ (putCopy s k line c).nor = s.nor ∧ (putCopy s k line c).freeCount = s.freeCount := by
  have fr1 := @setUp_frame
  unfold putCopy
  simp [fr1]

theorem noteCopy_frame (s : State) (k : ℕ) (f : RxFrame) (first : Bool) :
    (noteCopy s k f first).mode = s.mode ∧ (noteCopy s k f first).start = s.start ∧ (noteCopy s k f first).zewen = s.zewen ∧ (noteCopy s k f first).writes = s.writes ∧ (noteCopy s k f first).image = s.image ∧ (noteCopy s k f first).reg = s.reg ∧ (noteCopy s k f first).objs = s.objs ∧ (noteCopy s k f first).herd = s.herd ∧ (noteCopy s k f first).aon = s.aon ∧ (noteCopy s k f first).plan = s.plan ∧ (noteCopy s k f first).solver = s.solver ∧ (noteCopy s k f first).piste = s.piste ∧ (noteCopy s k f first).prof = s.prof ∧ (noteCopy s k f first).ctl = s.ctl ∧ (noteCopy s k f first).sched = s.sched ∧ (noteCopy s k f first).dsp = s.dsp ∧ (noteCopy s k f first).safety = s.safety ∧ (noteCopy s k f first).cham = s.cham ∧ (noteCopy s k f first).field = s.field ∧ (noteCopy s k f first).acq = s.acq ∧ (noteCopy s k f first).logs = s.logs ∧ (noteCopy s k f first).clocks = s.clocks ∧ (noteCopy s k f first).power = s.power ∧ (noteCopy s k f first).pair = s.pair ∧ (noteCopy s k f first).sec = s.sec ∧ (noteCopy s k f first).hw = s.hw ∧ (noteCopy s k f first).nor = s.nor ∧ (noteCopy s k f first).freeCount = s.freeCount := by
  have fr1 := @jointRecord_frame; have fr2 := @noteLine_frame
  unfold noteCopy
  simp [fr1, fr2]

theorem takeProcess_frame (s : State) (k : ℕ) (f : RxFrame) (start : ℤ) :
    (takeProcess s k f start).mode = s.mode ∧ (takeProcess s k f start).start = s.start ∧ (takeProcess s k f start).zewen = s.zewen ∧ (takeProcess s k f start).writes = s.writes ∧ (takeProcess s k f start).image = s.image ∧ (takeProcess s k f start).reg = s.reg ∧ (takeProcess s k f start).herd = s.herd ∧ (takeProcess s k f start).aon = s.aon ∧ (takeProcess s k f start).plan = s.plan ∧ (takeProcess s k f start).solver = s.solver ∧ (takeProcess s k f start).piste = s.piste ∧ (takeProcess s k f start).prof = s.prof ∧ (takeProcess s k f start).dsp = s.dsp ∧ (takeProcess s k f start).cham = s.cham ∧ (takeProcess s k f start).field = s.field ∧ (takeProcess s k f start).acq = s.acq ∧ (takeProcess s k f start).logs = s.logs ∧ (takeProcess s k f start).clocks = s.clocks ∧ (takeProcess s k f start).power = s.power ∧ (takeProcess s k f start).pair = s.pair ∧ (takeProcess s k f start).sec = s.sec ∧ (takeProcess s k f start).hw = s.hw ∧ (takeProcess s k f start).nor = s.nor := by
  have fr1 := @takeRequest_frame; have fr2 := @noteCopy_frame; have fr3 := @putCopy_frame; have fr4 := @postSlot_frame; have fr5 := @holdFrame_frame; have fr6 := @putFrame_frame; have fr7 := @bumpAt_frame; have fr8 := @bump_frame
  unfold takeProcess
  dsimp only
  split <;> simp [fr1, fr2, fr3, fr4, fr5, fr6, fr7, fr8]

theorem closureCopy_frame (s : State) (f : RxFrame) :
    (closureCopy s f).mode = s.mode ∧ (closureCopy s f).start = s.start ∧ (closureCopy s f).zewen = s.zewen ∧ (closureCopy s f).writes = s.writes ∧ (closureCopy s f).image = s.image ∧ (closureCopy s f).reg = s.reg ∧ (closureCopy s f).objs = s.objs ∧ (closureCopy s f).herd = s.herd ∧ (closureCopy s f).aon = s.aon ∧ (closureCopy s f).plan = s.plan ∧ (closureCopy s f).solver = s.solver ∧ (closureCopy s f).piste = s.piste ∧ (closureCopy s f).prof = s.prof ∧ (closureCopy s f).ctl = s.ctl ∧ (closureCopy s f).sched = s.sched ∧ (closureCopy s f).dsp = s.dsp ∧ (closureCopy s f).sep = s.sep ∧ (closureCopy s f).safety = s.safety ∧ (closureCopy s f).cham = s.cham ∧ (closureCopy s f).field = s.field ∧ (closureCopy s f).acq = s.acq ∧ (closureCopy s f).logs = s.logs ∧ (closureCopy s f).clocks = s.clocks ∧ (closureCopy s f).power = s.power ∧ (closureCopy s f).pair = s.pair ∧ (closureCopy s f).sec = s.sec ∧ (closureCopy s f).hw = s.hw ∧ (closureCopy s f).nor = s.nor ∧ (closureCopy s f).freeCount = s.freeCount := by
  have fr1 := @withNet_frame
  unfold closureCopy
  simp [fr1]

theorem received_frame (s : State) (f : RxFrame) :
    ((received s f).1).mode = s.mode ∧ ((received s f).1).start = s.start ∧ ((received s f).1).zewen = s.zewen ∧ ((received s f).1).writes = s.writes ∧ ((received s f).1).image = s.image ∧ ((received s f).1).reg = s.reg ∧ ((received s f).1).herd = s.herd ∧ ((received s f).1).aon = s.aon ∧ ((received s f).1).plan = s.plan ∧ ((received s f).1).solver = s.solver ∧ ((received s f).1).piste = s.piste ∧ ((received s f).1).prof = s.prof ∧ ((received s f).1).ctl = s.ctl ∧ ((received s f).1).sched = s.sched ∧ ((received s f).1).dsp = s.dsp ∧ ((received s f).1).sep = s.sep ∧ ((received s f).1).safety = s.safety ∧ ((received s f).1).cham = s.cham ∧ ((received s f).1).field = s.field ∧ ((received s f).1).acq = s.acq ∧ ((received s f).1).logs = s.logs ∧ ((received s f).1).clocks = s.clocks ∧ ((received s f).1).power = s.power ∧ ((received s f).1).pair = s.pair ∧ ((received s f).1).sec = s.sec ∧ ((received s f).1).hw = s.hw ∧ ((received s f).1).nor = s.nor := by
  have fr1 := @countPort_frame; have fr2 := @closureCopy_frame; have fr3 := @frameForm_frame
  unfold received
  (repeat' split) <;> simp [fr1, fr2, fr3]

theorem noteForeign_frame (s : State) (f : RxFrame) :
    (noteForeign s f).mode = s.mode ∧ (noteForeign s f).start = s.start ∧ (noteForeign s f).zewen = s.zewen ∧ (noteForeign s f).writes = s.writes ∧ (noteForeign s f).image = s.image ∧ (noteForeign s f).reg = s.reg ∧ (noteForeign s f).objs = s.objs ∧ (noteForeign s f).herd = s.herd ∧ (noteForeign s f).aon = s.aon ∧ (noteForeign s f).net = s.net ∧ (noteForeign s f).plan = s.plan ∧ (noteForeign s f).solver = s.solver ∧ (noteForeign s f).piste = s.piste ∧ (noteForeign s f).prof = s.prof ∧ (noteForeign s f).ctl = s.ctl ∧ (noteForeign s f).sched = s.sched ∧ (noteForeign s f).dsp = s.dsp ∧ (noteForeign s f).sep = s.sep ∧ (noteForeign s f).safety = s.safety ∧ (noteForeign s f).cham = s.cham ∧ (noteForeign s f).field = s.field ∧ (noteForeign s f).acq = s.acq ∧ (noteForeign s f).logs = s.logs ∧ (noteForeign s f).clocks = s.clocks ∧ (noteForeign s f).power = s.power ∧ (noteForeign s f).sec = s.sec ∧ (noteForeign s f).hw = s.hw ∧ (noteForeign s f).nor = s.nor ∧ (noteForeign s f).freeCount = s.freeCount := by
  unfold noteForeign
  simp

theorem missSlot_frame (s : State) (k : ℕ) (at_ : ℕ) :
    (missSlot s k at_).mode = s.mode ∧ (missSlot s k at_).start = s.start ∧ (missSlot s k at_).zewen = s.zewen ∧ (missSlot s k at_).writes = s.writes ∧ (missSlot s k at_).image = s.image ∧ (missSlot s k at_).reg = s.reg ∧ (missSlot s k at_).herd = s.herd ∧ (missSlot s k at_).aon = s.aon ∧ (missSlot s k at_).plan = s.plan ∧ (missSlot s k at_).solver = s.solver ∧ (missSlot s k at_).piste = s.piste ∧ (missSlot s k at_).prof = s.prof ∧ (missSlot s k at_).dsp = s.dsp ∧ (missSlot s k at_).sep = s.sep ∧ (missSlot s k at_).cham = s.cham ∧ (missSlot s k at_).field = s.field ∧ (missSlot s k at_).acq = s.acq ∧ (missSlot s k at_).logs = s.logs ∧ (missSlot s k at_).clocks = s.clocks ∧ (missSlot s k at_).power = s.power ∧ (missSlot s k at_).pair = s.pair ∧ (missSlot s k at_).sec = s.sec ∧ (missSlot s k at_).hw = s.hw ∧ (missSlot s k at_).nor = s.nor := by
  have fr1 := @postSlot_frame; have fr2 := @bumpAt_frame
  unfold missSlot
  simp [fr1, fr2]

theorem pairCopies_frame (s : State) (k : ℕ) (a : SlotCopy) (b : SlotCopy) (at_ : ℕ) :
    (pairCopies s k a b at_).mode = s.mode ∧ (pairCopies s k a b at_).start = s.start ∧ (pairCopies s k a b at_).zewen = s.zewen ∧ (pairCopies s k a b at_).writes = s.writes ∧ (pairCopies s k a b at_).image = s.image ∧ (pairCopies s k a b at_).reg = s.reg ∧ (pairCopies s k a b at_).herd = s.herd ∧ (pairCopies s k a b at_).aon = s.aon ∧ (pairCopies s k a b at_).plan = s.plan ∧ (pairCopies s k a b at_).solver = s.solver ∧ (pairCopies s k a b at_).piste = s.piste ∧ (pairCopies s k a b at_).prof = s.prof ∧ (pairCopies s k a b at_).dsp = s.dsp ∧ (pairCopies s k a b at_).sep = s.sep ∧ (pairCopies s k a b at_).cham = s.cham ∧ (pairCopies s k a b at_).field = s.field ∧ (pairCopies s k a b at_).acq = s.acq ∧ (pairCopies s k a b at_).logs = s.logs ∧ (pairCopies s k a b at_).clocks = s.clocks ∧ (pairCopies s k a b at_).power = s.power ∧ (pairCopies s k a b at_).pair = s.pair ∧ (pairCopies s k a b at_).sec = s.sec ∧ (pairCopies s k a b at_).hw = s.hw ∧ (pairCopies s k a b at_).nor = s.nor := by
  have fr1 := @takeRequest_frame; have fr2 := @setUp_frame; have fr3 := @postSlot_frame; have fr4 := @holdFrame_frame; have fr5 := @missSlot_frame; have fr6 := @bump_frame
  unfold pairCopies
  simp [fr1, fr2, fr3, fr4, fr5, fr6]

theorem takeSafety_frame (s : State) (k : ℕ) (f : RxFrame) (start : ℤ) :
    (takeSafety s k f start).mode = s.mode ∧ (takeSafety s k f start).start = s.start ∧ (takeSafety s k f start).zewen = s.zewen ∧ (takeSafety s k f start).writes = s.writes ∧ (takeSafety s k f start).image = s.image ∧ (takeSafety s k f start).reg = s.reg ∧ (takeSafety s k f start).herd = s.herd ∧ (takeSafety s k f start).aon = s.aon ∧ (takeSafety s k f start).plan = s.plan ∧ (takeSafety s k f start).solver = s.solver ∧ (takeSafety s k f start).piste = s.piste ∧ (takeSafety s k f start).prof = s.prof ∧ (takeSafety s k f start).dsp = s.dsp ∧ (takeSafety s k f start).cham = s.cham ∧ (takeSafety s k f start).field = s.field ∧ (takeSafety s k f start).acq = s.acq ∧ (takeSafety s k f start).logs = s.logs ∧ (takeSafety s k f start).clocks = s.clocks ∧ (takeSafety s k f start).power = s.power ∧ (takeSafety s k f start).pair = s.pair ∧ (takeSafety s k f start).sec = s.sec ∧ (takeSafety s k f start).hw = s.hw ∧ (takeSafety s k f start).nor = s.nor := by
  have fr1 := @countNode_frame; have fr2 := @noteAccepted_frame; have fr3 := @setUp_frame; have fr4 := @putCopy_frame; have fr5 := @noteCopy_frame; have fr6 := @pairCopies_frame
  unfold takeSafety
  dsimp only
  (repeat' split) <;> simp [fr1, fr2, fr3, fr4, fr5, fr6]

theorem singleCopy_frame (s : State) (k : ℕ) (c : SlotCopy) (at_ : ℕ) :
    (singleCopy s k c at_).mode = s.mode ∧ (singleCopy s k c at_).start = s.start ∧ (singleCopy s k c at_).zewen = s.zewen ∧ (singleCopy s k c at_).writes = s.writes ∧ (singleCopy s k c at_).image = s.image ∧ (singleCopy s k c at_).reg = s.reg ∧ (singleCopy s k c at_).herd = s.herd ∧ (singleCopy s k c at_).aon = s.aon ∧ (singleCopy s k c at_).plan = s.plan ∧ (singleCopy s k c at_).solver = s.solver ∧ (singleCopy s k c at_).piste = s.piste ∧ (singleCopy s k c at_).prof = s.prof ∧ (singleCopy s k c at_).dsp = s.dsp ∧ (singleCopy s k c at_).sep = s.sep ∧ (singleCopy s k c at_).cham = s.cham ∧ (singleCopy s k c at_).field = s.field ∧ (singleCopy s k c at_).acq = s.acq ∧ (singleCopy s k c at_).logs = s.logs ∧ (singleCopy s k c at_).clocks = s.clocks ∧ (singleCopy s k c at_).power = s.power ∧ (singleCopy s k c at_).pair = s.pair ∧ (singleCopy s k c at_).sec = s.sec ∧ (singleCopy s k c at_).hw = s.hw ∧ (singleCopy s k c at_).nor = s.nor := by
  have fr1 := @bump_frame; have fr2 := @setUp_frame; have fr3 := @missSlot_frame; have fr4 := @postSlot_frame; have fr5 := @holdFrame_frame; have fr6 := @takeRequest_frame
  unfold singleCopy
  simp [fr1, fr2, fr3, fr4, fr5, fr6]

theorem windowShut_frame (s : State) (k : ℕ) :
    (windowShut s k).mode = s.mode ∧ (windowShut s k).start = s.start ∧ (windowShut s k).zewen = s.zewen ∧ (windowShut s k).writes = s.writes ∧ (windowShut s k).image = s.image ∧ (windowShut s k).reg = s.reg ∧ (windowShut s k).herd = s.herd ∧ (windowShut s k).aon = s.aon ∧ (windowShut s k).plan = s.plan ∧ (windowShut s k).solver = s.solver ∧ (windowShut s k).piste = s.piste ∧ (windowShut s k).prof = s.prof ∧ (windowShut s k).dsp = s.dsp ∧ (windowShut s k).sep = s.sep ∧ (windowShut s k).cham = s.cham ∧ (windowShut s k).field = s.field ∧ (windowShut s k).acq = s.acq ∧ (windowShut s k).logs = s.logs ∧ (windowShut s k).clocks = s.clocks ∧ (windowShut s k).power = s.power ∧ (windowShut s k).pair = s.pair ∧ (windowShut s k).sec = s.sec ∧ (windowShut s k).hw = s.hw ∧ (windowShut s k).nor = s.nor := by
  have fr1 := @setUp_frame; have fr2 := @missSlot_frame; have fr3 := @singleCopy_frame
  unfold windowShut
  dsimp only
  (repeat' split) <;> simp [fr1, fr2, fr3]

theorem checkDynamic_frame (s : State) (f : RxFrame) :
    ((checkDynamic s f).1).mode = s.mode ∧ ((checkDynamic s f).1).start = s.start ∧ ((checkDynamic s f).1).zewen = s.zewen ∧ ((checkDynamic s f).1).writes = s.writes ∧ ((checkDynamic s f).1).image = s.image ∧ ((checkDynamic s f).1).reg = s.reg ∧ ((checkDynamic s f).1).herd = s.herd ∧ ((checkDynamic s f).1).aon = s.aon ∧ ((checkDynamic s f).1).plan = s.plan ∧ ((checkDynamic s f).1).solver = s.solver ∧ ((checkDynamic s f).1).piste = s.piste ∧ ((checkDynamic s f).1).prof = s.prof ∧ ((checkDynamic s f).1).ctl = s.ctl ∧ ((checkDynamic s f).1).sched = s.sched ∧ ((checkDynamic s f).1).dsp = s.dsp ∧ ((checkDynamic s f).1).sep = s.sep ∧ ((checkDynamic s f).1).safety = s.safety ∧ ((checkDynamic s f).1).cham = s.cham ∧ ((checkDynamic s f).1).field = s.field ∧ ((checkDynamic s f).1).acq = s.acq ∧ ((checkDynamic s f).1).logs = s.logs ∧ ((checkDynamic s f).1).clocks = s.clocks ∧ ((checkDynamic s f).1).power = s.power ∧ ((checkDynamic s f).1).pair = s.pair ∧ ((checkDynamic s f).1).sec = s.sec ∧ ((checkDynamic s f).1).hw = s.hw ∧ ((checkDynamic s f).1).nor = s.nor := by
  have fr1 := @countNode_frame; have fr2 := @noteDrift_frame; have fr3 := @noteOffset_frame
  unfold checkDynamic
  dsimp only
  (repeat' split) <;> simp [fr1, fr2, fr3]

theorem queueHost_frame (s : State) (f : RxFrame) (start : ℤ) :
    (queueHost s f start).mode = s.mode ∧ (queueHost s f start).start = s.start ∧ (queueHost s f start).writes = s.writes ∧ (queueHost s f start).image = s.image ∧ (queueHost s f start).herd = s.herd ∧ (queueHost s f start).aon = s.aon ∧ (queueHost s f start).plan = s.plan ∧ (queueHost s f start).solver = s.solver ∧ (queueHost s f start).piste = s.piste ∧ (queueHost s f start).prof = s.prof ∧ (queueHost s f start).ctl = s.ctl ∧ (queueHost s f start).sched = s.sched ∧ (queueHost s f start).dsp = s.dsp ∧ (queueHost s f start).sep = s.sep ∧ (queueHost s f start).safety = s.safety ∧ (queueHost s f start).cham = s.cham ∧ (queueHost s f start).field = s.field ∧ (queueHost s f start).acq = s.acq ∧ (queueHost s f start).logs = s.logs ∧ (queueHost s f start).clocks = s.clocks ∧ (queueHost s f start).power = s.power ∧ (queueHost s f start).pair = s.pair ∧ (queueHost s f start).sec = s.sec ∧ (queueHost s f start).hw = s.hw ∧ (queueHost s f start).nor = s.nor := by
  have fr1 := @bump_frame; have fr2 := @setInt_frame; have fr3 := @withNet_frame
  unfold queueHost
  simp [fr1, fr2, fr3]

theorem swapMessage_frame (s : State) (f : RxFrame) (start : ℤ) (data : Bytes) :
    (swapMessage s f start data).mode = s.mode ∧ (swapMessage s f start data).start = s.start ∧ (swapMessage s f start data).zewen = s.zewen ∧ (swapMessage s f start data).writes = s.writes ∧ (swapMessage s f start data).image = s.image ∧ (swapMessage s f start data).reg = s.reg ∧ (swapMessage s f start data).objs = s.objs ∧ (swapMessage s f start data).herd = s.herd ∧ (swapMessage s f start data).aon = s.aon ∧ (swapMessage s f start data).plan = s.plan ∧ (swapMessage s f start data).solver = s.solver ∧ (swapMessage s f start data).piste = s.piste ∧ (swapMessage s f start data).prof = s.prof ∧ (swapMessage s f start data).ctl = s.ctl ∧ (swapMessage s f start data).sched = s.sched ∧ (swapMessage s f start data).dsp = s.dsp ∧ (swapMessage s f start data).sep = s.sep ∧ (swapMessage s f start data).safety = s.safety ∧ (swapMessage s f start data).cham = s.cham ∧ (swapMessage s f start data).field = s.field ∧ (swapMessage s f start data).acq = s.acq ∧ (swapMessage s f start data).logs = s.logs ∧ (swapMessage s f start data).clocks = s.clocks ∧ (swapMessage s f start data).power = s.power ∧ (swapMessage s f start data).pair = s.pair ∧ (swapMessage s f start data).sec = s.sec ∧ (swapMessage s f start data).hw = s.hw ∧ (swapMessage s f start data).nor = s.nor ∧ (swapMessage s f start data).freeCount = s.freeCount := by
  have fr1 := @withNet_frame
  unfold swapMessage
  simp [fr1]

theorem messageRx_frame (s : State) (f : RxFrame) :
    (messageRx s f).mode = s.mode ∧ (messageRx s f).start = s.start ∧ (messageRx s f).writes = s.writes ∧ (messageRx s f).image = s.image ∧ (messageRx s f).herd = s.herd ∧ (messageRx s f).aon = s.aon ∧ (messageRx s f).plan = s.plan ∧ (messageRx s f).solver = s.solver ∧ (messageRx s f).piste = s.piste ∧ (messageRx s f).prof = s.prof ∧ (messageRx s f).ctl = s.ctl ∧ (messageRx s f).sched = s.sched ∧ (messageRx s f).dsp = s.dsp ∧ (messageRx s f).sep = s.sep ∧ (messageRx s f).safety = s.safety ∧ (messageRx s f).cham = s.cham ∧ (messageRx s f).field = s.field ∧ (messageRx s f).acq = s.acq ∧ (messageRx s f).logs = s.logs ∧ (messageRx s f).clocks = s.clocks ∧ (messageRx s f).power = s.power ∧ (messageRx s f).pair = s.pair ∧ (messageRx s f).sec = s.sec ∧ (messageRx s f).hw = s.hw ∧ (messageRx s f).nor = s.nor := by
  have fr1 := @withNet_frame; have fr2 := @queueHost_frame; have fr3 := @bumpAt_frame; have fr4 := @swapMessage_frame; have fr5 := @bump_frame
  unfold messageRx
  dsimp only
  split <;> simp [fr1, fr2, fr3, fr4, fr5]

theorem noteJump_frame (s : State) (n : ℕ) (j : Bool) :
    (noteJump s n j).mode = s.mode ∧ (noteJump s n j).start = s.start ∧ (noteJump s n j).zewen = s.zewen ∧ (noteJump s n j).writes = s.writes ∧ (noteJump s n j).image = s.image ∧ (noteJump s n j).reg = s.reg ∧ (noteJump s n j).herd = s.herd ∧ (noteJump s n j).aon = s.aon ∧ (noteJump s n j).net = s.net ∧ (noteJump s n j).plan = s.plan ∧ (noteJump s n j).solver = s.solver ∧ (noteJump s n j).piste = s.piste ∧ (noteJump s n j).prof = s.prof ∧ (noteJump s n j).ctl = s.ctl ∧ (noteJump s n j).sched = s.sched ∧ (noteJump s n j).dsp = s.dsp ∧ (noteJump s n j).sep = s.sep ∧ (noteJump s n j).safety = s.safety ∧ (noteJump s n j).cham = s.cham ∧ (noteJump s n j).field = s.field ∧ (noteJump s n j).acq = s.acq ∧ (noteJump s n j).logs = s.logs ∧ (noteJump s n j).clocks = s.clocks ∧ (noteJump s n j).power = s.power ∧ (noteJump s n j).pair = s.pair ∧ (noteJump s n j).sec = s.sec ∧ (noteJump s n j).hw = s.hw ∧ (noteJump s n j).nor = s.nor := by
  have fr1 := @bump_frame
  unfold noteJump
  simp [fr1]

theorem measure_frame (s : State) (f : RxFrame) (req : ℕ) :
    (measure s f req).mode = s.mode ∧ (measure s f req).start = s.start ∧ (measure s f req).zewen = s.zewen ∧ (measure s f req).writes = s.writes ∧ (measure s f req).image = s.image ∧ (measure s f req).reg = s.reg ∧ (measure s f req).herd = s.herd ∧ (measure s f req).aon = s.aon ∧ (measure s f req).plan = s.plan ∧ (measure s f req).solver = s.solver ∧ (measure s f req).piste = s.piste ∧ (measure s f req).prof = s.prof ∧ (measure s f req).ctl = s.ctl ∧ (measure s f req).sched = s.sched ∧ (measure s f req).dsp = s.dsp ∧ (measure s f req).sep = s.sep ∧ (measure s f req).safety = s.safety ∧ (measure s f req).cham = s.cham ∧ (measure s f req).field = s.field ∧ (measure s f req).acq = s.acq ∧ (measure s f req).logs = s.logs ∧ (measure s f req).clocks = s.clocks ∧ (measure s f req).power = s.power ∧ (measure s f req).pair = s.pair ∧ (measure s f req).sec = s.sec ∧ (measure s f req).hw = s.hw ∧ (measure s f req).nor = s.nor := by
  have fr1 := @withNet_frame; have fr2 := @setNode_frame; have fr3 := @noteJump_frame
  unfold measure
  simp [fr1, fr2, fr3]

theorem noteD12_frame (s : State) :
    (noteD12 s).mode = s.mode ∧ (noteD12 s).start = s.start ∧ (noteD12 s).zewen = s.zewen ∧ (noteD12 s).writes = s.writes ∧ (noteD12 s).image = s.image ∧ (noteD12 s).reg = s.reg ∧ (noteD12 s).objs = s.objs ∧ (noteD12 s).herd = s.herd ∧ (noteD12 s).aon = s.aon ∧ (noteD12 s).net = s.net ∧ (noteD12 s).plan = s.plan ∧ (noteD12 s).solver = s.solver ∧ (noteD12 s).piste = s.piste ∧ (noteD12 s).prof = s.prof ∧ (noteD12 s).ctl = s.ctl ∧ (noteD12 s).sched = s.sched ∧ (noteD12 s).dsp = s.dsp ∧ (noteD12 s).sep = s.sep ∧ (noteD12 s).safety = s.safety ∧ (noteD12 s).cham = s.cham ∧ (noteD12 s).field = s.field ∧ (noteD12 s).acq = s.acq ∧ (noteD12 s).logs = s.logs ∧ (noteD12 s).clocks = s.clocks ∧ (noteD12 s).power = s.power ∧ (noteD12 s).sec = s.sec ∧ (noteD12 s).hw = s.hw ∧ (noteD12 s).nor = s.nor ∧ (noteD12 s).freeCount = s.freeCount := by
  unfold noteD12
  simp

theorem serve_frame (m : ℕ) (commit : ℕ) (s : State) (b : Build) (n : ℕ) :
    ((serve m commit s b n).1).mode = s.mode ∧ ((serve m commit s b n).1).start = s.start ∧ ((serve m commit s b n).1).zewen = s.zewen ∧ ((serve m commit s b n).1).writes = s.writes ∧ ((serve m commit s b n).1).image = s.image ∧ ((serve m commit s b n).1).reg = s.reg ∧ ((serve m commit s b n).1).herd = s.herd ∧ ((serve m commit s b n).1).aon = s.aon ∧ ((serve m commit s b n).1).plan = s.plan ∧ ((serve m commit s b n).1).solver = s.solver ∧ ((serve m commit s b n).1).piste = s.piste ∧ ((serve m commit s b n).1).prof = s.prof ∧ ((serve m commit s b n).1).ctl = s.ctl ∧ ((serve m commit s b n).1).sched = s.sched ∧ ((serve m commit s b n).1).dsp = s.dsp ∧ ((serve m commit s b n).1).sep = s.sep ∧ ((serve m commit s b n).1).safety = s.safety ∧ ((serve m commit s b n).1).cham = s.cham ∧ ((serve m commit s b n).1).field = s.field ∧ ((serve m commit s b n).1).acq = s.acq ∧ ((serve m commit s b n).1).logs = s.logs ∧ ((serve m commit s b n).1).clocks = s.clocks ∧ ((serve m commit s b n).1).power = s.power ∧ ((serve m commit s b n).1).pair = s.pair ∧ ((serve m commit s b n).1).sec = s.sec ∧ ((serve m commit s b n).1).hw = s.hw ∧ ((serve m commit s b n).1).nor = s.nor := by
  have fr1 := @setNode_frame; have fr2 := @bump_frame
  unfold serve
  (repeat' split) <;> simp [fr1, fr2]

theorem serveAll_frame (m c : Nat) (l : List Nat) (r : State × Build) : ((serveAll m c l r).1).mode = r.1.mode ∧ ((serveAll m c l r).1).start = r.1.start ∧ ((serveAll m c l r).1).zewen = r.1.zewen ∧ ((serveAll m c l r).1).writes = r.1.writes ∧ ((serveAll m c l r).1).image = r.1.image ∧ ((serveAll m c l r).1).reg = r.1.reg ∧ ((serveAll m c l r).1).herd = r.1.herd ∧ ((serveAll m c l r).1).aon = r.1.aon ∧ ((serveAll m c l r).1).plan = r.1.plan ∧ ((serveAll m c l r).1).solver = r.1.solver ∧ ((serveAll m c l r).1).piste = r.1.piste ∧ ((serveAll m c l r).1).prof = r.1.prof ∧ ((serveAll m c l r).1).ctl = r.1.ctl ∧ ((serveAll m c l r).1).sched = r.1.sched ∧ ((serveAll m c l r).1).dsp = r.1.dsp ∧ ((serveAll m c l r).1).sep = r.1.sep ∧ ((serveAll m c l r).1).safety = r.1.safety ∧ ((serveAll m c l r).1).cham = r.1.cham ∧ ((serveAll m c l r).1).field = r.1.field ∧ ((serveAll m c l r).1).acq = r.1.acq ∧ ((serveAll m c l r).1).logs = r.1.logs ∧ ((serveAll m c l r).1).clocks = r.1.clocks ∧ ((serveAll m c l r).1).power = r.1.power ∧ ((serveAll m c l r).1).pair = r.1.pair ∧ ((serveAll m c l r).1).sec = r.1.sec ∧ ((serveAll m c l r).1).hw = r.1.hw ∧ ((serveAll m c l r).1).nor = r.1.nor := by
  have fr1 := @serve_frame
  induction l generalizing r with
  | nil => simp [serveAll, fr1]
  | cons a l ih => simp [serveAll, ih, fr1]

theorem buildGrant_frame (s : State) :
    (buildGrant s).mode = s.mode ∧ (buildGrant s).start = s.start ∧ (buildGrant s).zewen = s.zewen ∧ (buildGrant s).writes = s.writes ∧ (buildGrant s).image = s.image ∧ (buildGrant s).reg = s.reg ∧ (buildGrant s).herd = s.herd ∧ (buildGrant s).aon = s.aon ∧ (buildGrant s).plan = s.plan ∧ (buildGrant s).solver = s.solver ∧ (buildGrant s).piste = s.piste ∧ (buildGrant s).prof = s.prof ∧ (buildGrant s).ctl = s.ctl ∧ (buildGrant s).sched = s.sched ∧ (buildGrant s).dsp = s.dsp ∧ (buildGrant s).sep = s.sep ∧ (buildGrant s).safety = s.safety ∧ (buildGrant s).cham = s.cham ∧ (buildGrant s).field = s.field ∧ (buildGrant s).acq = s.acq ∧ (buildGrant s).logs = s.logs ∧ (buildGrant s).clocks = s.clocks ∧ (buildGrant s).power = s.power ∧ (buildGrant s).pair = s.pair ∧ (buildGrant s).sec = s.sec ∧ (buildGrant s).hw = s.hw ∧ (buildGrant s).nor = s.nor := by
  have fr1 := @serveAll_frame; have fr2 := @withNet_frame
  unfold buildGrant
  simp [fr1, fr2]

theorem sendBy_frame (ports : List ℕ) (s : State) (action : ℕ) (hdr : Bytes) (payload : Bytes) :
    (sendBy ports s action hdr payload).mode = s.mode ∧ (sendBy ports s action hdr payload).start = s.start ∧ (sendBy ports s action hdr payload).zewen = s.zewen ∧ (sendBy ports s action hdr payload).writes = s.writes ∧ (sendBy ports s action hdr payload).image = s.image ∧ (sendBy ports s action hdr payload).reg = s.reg ∧ (sendBy ports s action hdr payload).objs = s.objs ∧ (sendBy ports s action hdr payload).herd = s.herd ∧ (sendBy ports s action hdr payload).aon = s.aon ∧ (sendBy ports s action hdr payload).net = s.net ∧ (sendBy ports s action hdr payload).plan = s.plan ∧ (sendBy ports s action hdr payload).solver = s.solver ∧ (sendBy ports s action hdr payload).piste = s.piste ∧ (sendBy ports s action hdr payload).prof = s.prof ∧ (sendBy ports s action hdr payload).ctl = s.ctl ∧ (sendBy ports s action hdr payload).sched = s.sched ∧ (sendBy ports s action hdr payload).dsp = s.dsp ∧ (sendBy ports s action hdr payload).sep = s.sep ∧ (sendBy ports s action hdr payload).safety = s.safety ∧ (sendBy ports s action hdr payload).cham = s.cham ∧ (sendBy ports s action hdr payload).field = s.field ∧ (sendBy ports s action hdr payload).acq = s.acq ∧ (sendBy ports s action hdr payload).logs = s.logs ∧ (sendBy ports s action hdr payload).clocks = s.clocks ∧ (sendBy ports s action hdr payload).power = s.power ∧ (sendBy ports s action hdr payload).pair = s.pair ∧ (sendBy ports s action hdr payload).sec = s.sec ∧ (sendBy ports s action hdr payload).hw = s.hw ∧ (sendBy ports s action hdr payload).nor = s.nor ∧ (sendBy ports s action hdr payload).freeCount = s.freeCount := by
  have fr1 := @emit_frame
  unfold sendBy
  simp [fr1]

theorem sendFrame_frame (s : State) (action : ℕ) (hdr : Bytes) (payload : Bytes) :
    (sendFrame s action hdr payload).mode = s.mode ∧ (sendFrame s action hdr payload).start = s.start ∧ (sendFrame s action hdr payload).zewen = s.zewen ∧ (sendFrame s action hdr payload).writes = s.writes ∧ (sendFrame s action hdr payload).image = s.image ∧ (sendFrame s action hdr payload).reg = s.reg ∧ (sendFrame s action hdr payload).objs = s.objs ∧ (sendFrame s action hdr payload).herd = s.herd ∧ (sendFrame s action hdr payload).aon = s.aon ∧ (sendFrame s action hdr payload).net = s.net ∧ (sendFrame s action hdr payload).plan = s.plan ∧ (sendFrame s action hdr payload).solver = s.solver ∧ (sendFrame s action hdr payload).piste = s.piste ∧ (sendFrame s action hdr payload).prof = s.prof ∧ (sendFrame s action hdr payload).ctl = s.ctl ∧ (sendFrame s action hdr payload).sched = s.sched ∧ (sendFrame s action hdr payload).dsp = s.dsp ∧ (sendFrame s action hdr payload).sep = s.sep ∧ (sendFrame s action hdr payload).safety = s.safety ∧ (sendFrame s action hdr payload).cham = s.cham ∧ (sendFrame s action hdr payload).field = s.field ∧ (sendFrame s action hdr payload).acq = s.acq ∧ (sendFrame s action hdr payload).logs = s.logs ∧ (sendFrame s action hdr payload).clocks = s.clocks ∧ (sendFrame s action hdr payload).power = s.power ∧ (sendFrame s action hdr payload).pair = s.pair ∧ (sendFrame s action hdr payload).sec = s.sec ∧ (sendFrame s action hdr payload).hw = s.hw ∧ (sendFrame s action hdr payload).nor = s.nor ∧ (sendFrame s action hdr payload).freeCount = s.freeCount := by
  have fr1 := @sendBy_frame
  unfold sendFrame
  simp [fr1]

theorem takeDown_frame (s : State) (k : ℕ) (tick : ℕ) :
    ((takeDown s k tick).1).mode = s.mode ∧ ((takeDown s k tick).1).start = s.start ∧ ((takeDown s k tick).1).zewen = s.zewen ∧ ((takeDown s k tick).1).writes = s.writes ∧ ((takeDown s k tick).1).image = s.image ∧ ((takeDown s k tick).1).reg = s.reg ∧ ((takeDown s k tick).1).herd = s.herd ∧ ((takeDown s k tick).1).aon = s.aon ∧ ((takeDown s k tick).1).plan = s.plan ∧ ((takeDown s k tick).1).solver = s.solver ∧ ((takeDown s k tick).1).piste = s.piste ∧ ((takeDown s k tick).1).prof = s.prof ∧ ((takeDown s k tick).1).ctl = s.ctl ∧ ((takeDown s k tick).1).sched = s.sched ∧ ((takeDown s k tick).1).dsp = s.dsp ∧ ((takeDown s k tick).1).sep = s.sep ∧ ((takeDown s k tick).1).cham = s.cham ∧ ((takeDown s k tick).1).field = s.field ∧ ((takeDown s k tick).1).acq = s.acq ∧ ((takeDown s k tick).1).logs = s.logs ∧ ((takeDown s k tick).1).clocks = s.clocks ∧ ((takeDown s k tick).1).power = s.power ∧ ((takeDown s k tick).1).pair = s.pair ∧ ((takeDown s k tick).1).sec = s.sec ∧ ((takeDown s k tick).1).hw = s.hw ∧ ((takeDown s k tick).1).nor = s.nor := by
  have fr1 := @setSafeCh_frame; have fr2 := @setDown_frame; have fr3 := @bumpN_frame
  unfold takeDown
  dsimp only
  (repeat' split) <;> simp [fr1, fr2, fr3]

theorem sendStatic_frame (s : State) (k : ℕ) (tick : ℕ) :
    (sendStatic s k tick).mode = s.mode ∧ (sendStatic s k tick).start = s.start ∧ (sendStatic s k tick).zewen = s.zewen ∧ (sendStatic s k tick).writes = s.writes ∧ (sendStatic s k tick).image = s.image ∧ (sendStatic s k tick).reg = s.reg ∧ (sendStatic s k tick).herd = s.herd ∧ (sendStatic s k tick).aon = s.aon ∧ (sendStatic s k tick).plan = s.plan ∧ (sendStatic s k tick).solver = s.solver ∧ (sendStatic s k tick).piste = s.piste ∧ (sendStatic s k tick).prof = s.prof ∧ (sendStatic s k tick).ctl = s.ctl ∧ (sendStatic s k tick).sched = s.sched ∧ (sendStatic s k tick).dsp = s.dsp ∧ (sendStatic s k tick).sep = s.sep ∧ (sendStatic s k tick).cham = s.cham ∧ (sendStatic s k tick).field = s.field ∧ (sendStatic s k tick).acq = s.acq ∧ (sendStatic s k tick).logs = s.logs ∧ (sendStatic s k tick).clocks = s.clocks ∧ (sendStatic s k tick).power = s.power ∧ (sendStatic s k tick).pair = s.pair ∧ (sendStatic s k tick).sec = s.sec ∧ (sendStatic s k tick).hw = s.hw ∧ (sendStatic s k tick).nor = s.nor := by
  have fr1 := @sendBy_frame; have fr2 := @setDown_frame; have fr3 := @takeDown_frame
  unfold sendStatic
  simp [fr1, fr2, fr3]

theorem openWindow_frame (s : State) (action : ℕ) :
    (openWindow s action).mode = s.mode ∧ (openWindow s action).start = s.start ∧ (openWindow s action).zewen = s.zewen ∧ (openWindow s action).writes = s.writes ∧ (openWindow s action).image = s.image ∧ (openWindow s action).reg = s.reg ∧ (openWindow s action).objs = s.objs ∧ (openWindow s action).herd = s.herd ∧ (openWindow s action).aon = s.aon ∧ (openWindow s action).plan = s.plan ∧ (openWindow s action).solver = s.solver ∧ (openWindow s action).piste = s.piste ∧ (openWindow s action).prof = s.prof ∧ (openWindow s action).ctl = s.ctl ∧ (openWindow s action).sched = s.sched ∧ (openWindow s action).dsp = s.dsp ∧ (openWindow s action).sep = s.sep ∧ (openWindow s action).safety = s.safety ∧ (openWindow s action).cham = s.cham ∧ (openWindow s action).field = s.field ∧ (openWindow s action).acq = s.acq ∧ (openWindow s action).logs = s.logs ∧ (openWindow s action).clocks = s.clocks ∧ (openWindow s action).power = s.power ∧ (openWindow s action).pair = s.pair ∧ (openWindow s action).sec = s.sec ∧ (openWindow s action).hw = s.hw ∧ (openWindow s action).nor = s.nor ∧ (openWindow s action).freeCount = s.freeCount := by
  have fr1 := @withNet_frame
  unfold openWindow
  simp [fr1]

theorem sendMessage_frame (s : State) (h : HostFrame) (host : Bool) (action : ℕ) (slot : ℕ) :
    (sendMessage s h host action slot).mode = s.mode ∧ (sendMessage s h host action slot).start = s.start ∧ (sendMessage s h host action slot).zewen = s.zewen ∧ (sendMessage s h host action slot).writes = s.writes ∧ (sendMessage s h host action slot).image = s.image ∧ (sendMessage s h host action slot).reg = s.reg ∧ (sendMessage s h host action slot).objs = s.objs ∧ (sendMessage s h host action slot).aon = s.aon ∧ (sendMessage s h host action slot).net = s.net ∧ (sendMessage s h host action slot).plan = s.plan ∧ (sendMessage s h host action slot).solver = s.solver ∧ (sendMessage s h host action slot).piste = s.piste ∧ (sendMessage s h host action slot).prof = s.prof ∧ (sendMessage s h host action slot).ctl = s.ctl ∧ (sendMessage s h host action slot).sched = s.sched ∧ (sendMessage s h host action slot).dsp = s.dsp ∧ (sendMessage s h host action slot).sep = s.sep ∧ (sendMessage s h host action slot).safety = s.safety ∧ (sendMessage s h host action slot).cham = s.cham ∧ (sendMessage s h host action slot).field = s.field ∧ (sendMessage s h host action slot).acq = s.acq ∧ (sendMessage s h host action slot).logs = s.logs ∧ (sendMessage s h host action slot).clocks = s.clocks ∧ (sendMessage s h host action slot).power = s.power ∧ (sendMessage s h host action slot).pair = s.pair ∧ (sendMessage s h host action slot).sec = s.sec ∧ (sendMessage s h host action slot).hw = s.hw ∧ (sendMessage s h host action slot).nor = s.nor ∧ (sendMessage s h host action slot).freeCount = s.freeCount := by
  have fr1 := @sendFrame_frame; have fr2 := @dueStamp_frame
  unfold sendMessage
  simp [fr1, fr2]

theorem sendDynamic_frame (s : State) :
    (sendDynamic s).mode = s.mode ∧ (sendDynamic s).start = s.start ∧ (sendDynamic s).zewen = s.zewen ∧ (sendDynamic s).writes = s.writes ∧ (sendDynamic s).image = s.image ∧ (sendDynamic s).reg = s.reg ∧ (sendDynamic s).aon = s.aon ∧ (sendDynamic s).plan = s.plan ∧ (sendDynamic s).solver = s.solver ∧ (sendDynamic s).piste = s.piste ∧ (sendDynamic s).prof = s.prof ∧ (sendDynamic s).ctl = s.ctl ∧ (sendDynamic s).sched = s.sched ∧ (sendDynamic s).dsp = s.dsp ∧ (sendDynamic s).sep = s.sep ∧ (sendDynamic s).safety = s.safety ∧ (sendDynamic s).cham = s.cham ∧ (sendDynamic s).field = s.field ∧ (sendDynamic s).acq = s.acq ∧ (sendDynamic s).logs = s.logs ∧ (sendDynamic s).clocks = s.clocks ∧ (sendDynamic s).power = s.power ∧ (sendDynamic s).pair = s.pair ∧ (sendDynamic s).sec = s.sec ∧ (sendDynamic s).hw = s.hw ∧ (sendDynamic s).nor = s.nor := by
  have fr1 := @bump_frame; have fr2 := @withNet_frame; have fr3 := @sendFrame_frame; have fr4 := @emit_frame; have fr5 := @openWindow_frame; have fr6 := @sendMessage_frame
  unfold sendDynamic
  (repeat' split) <;> simp [fr1, fr2, fr3, fr4, fr5, fr6]

theorem commitPoint_frame (s : State) (dynamic : Bool) (slot : ℕ) :
    (commitPoint s dynamic slot).mode = s.mode ∧ (commitPoint s dynamic slot).start = s.start ∧ (commitPoint s dynamic slot).zewen = s.zewen ∧ (commitPoint s dynamic slot).writes = s.writes ∧ (commitPoint s dynamic slot).image = s.image ∧ (commitPoint s dynamic slot).reg = s.reg ∧ (commitPoint s dynamic slot).aon = s.aon ∧ (commitPoint s dynamic slot).plan = s.plan ∧ (commitPoint s dynamic slot).solver = s.solver ∧ (commitPoint s dynamic slot).piste = s.piste ∧ (commitPoint s dynamic slot).prof = s.prof ∧ (commitPoint s dynamic slot).ctl = s.ctl ∧ (commitPoint s dynamic slot).sched = s.sched ∧ (commitPoint s dynamic slot).dsp = s.dsp ∧ (commitPoint s dynamic slot).sep = s.sep ∧ (commitPoint s dynamic slot).cham = s.cham ∧ (commitPoint s dynamic slot).field = s.field ∧ (commitPoint s dynamic slot).acq = s.acq ∧ (commitPoint s dynamic slot).logs = s.logs ∧ (commitPoint s dynamic slot).clocks = s.clocks ∧ (commitPoint s dynamic slot).power = s.power ∧ (commitPoint s dynamic slot).pair = s.pair ∧ (commitPoint s dynamic slot).sec = s.sec ∧ (commitPoint s dynamic slot).hw = s.hw ∧ (commitPoint s dynamic slot).nor = s.nor := by
  have fr1 := @sendDynamic_frame; have fr2 := @buildGrant_frame; have fr3 := @sendStatic_frame
  unfold commitPoint
  simp [fr1, fr2, fr3]

/-! ### TahixaStart -/

theorem lineLost_frame (s : State) :
    (lineLost s).mode = s.mode ∧ (lineLost s).start = s.start ∧ (lineLost s).zewen = s.zewen ∧ (lineLost s).writes = s.writes ∧ (lineLost s).image = s.image ∧ (lineLost s).reg = s.reg ∧ (lineLost s).herd = s.herd ∧ (lineLost s).aon = s.aon ∧ (lineLost s).net = s.net ∧ (lineLost s).plan = s.plan ∧ (lineLost s).solver = s.solver ∧ (lineLost s).piste = s.piste ∧ (lineLost s).prof = s.prof ∧ (lineLost s).ctl = s.ctl ∧ (lineLost s).sched = s.sched ∧ (lineLost s).dsp = s.dsp ∧ (lineLost s).sep = s.sep ∧ (lineLost s).safety = s.safety ∧ (lineLost s).cham = s.cham ∧ (lineLost s).field = s.field ∧ (lineLost s).acq = s.acq ∧ (lineLost s).logs = s.logs ∧ (lineLost s).clocks = s.clocks ∧ (lineLost s).power = s.power ∧ (lineLost s).pair = s.pair ∧ (lineLost s).sec = s.sec ∧ (lineLost s).hw = s.hw ∧ (lineLost s).nor = s.nor ∧ (lineLost s).freeCount = s.freeCount := by
  have fr1 := @setOb_frame
  unfold lineLost
  simp [fr1]

theorem settleStart_frame (s : State) :
    (settleStart s).mode = s.mode ∧ (settleStart s).start = s.start ∧ (settleStart s).zewen = s.zewen ∧ (settleStart s).writes = s.writes ∧ (settleStart s).image = s.image ∧ (settleStart s).reg = s.reg ∧ (settleStart s).objs = s.objs ∧ (settleStart s).herd = s.herd ∧ (settleStart s).aon = s.aon ∧ (settleStart s).plan = s.plan ∧ (settleStart s).solver = s.solver ∧ (settleStart s).piste = s.piste ∧ (settleStart s).prof = s.prof ∧ (settleStart s).ctl = s.ctl ∧ (settleStart s).sched = s.sched ∧ (settleStart s).dsp = s.dsp ∧ (settleStart s).sep = s.sep ∧ (settleStart s).safety = s.safety ∧ (settleStart s).cham = s.cham ∧ (settleStart s).field = s.field ∧ (settleStart s).acq = s.acq ∧ (settleStart s).logs = s.logs ∧ (settleStart s).clocks = s.clocks ∧ (settleStart s).power = s.power ∧ (settleStart s).pair = s.pair ∧ (settleStart s).sec = s.sec ∧ (settleStart s).hw = s.hw ∧ (settleStart s).nor = s.nor ∧ (settleStart s).freeCount = s.freeCount := by
  have fr1 := @withNet_frame
  unfold settleStart
  simp [fr1]

theorem followLeader_frame (s : State) (src : ℕ) :
    (followLeader s src).mode = s.mode ∧ (followLeader s src).start = s.start ∧ (followLeader s src).zewen = s.zewen ∧ (followLeader s src).writes = s.writes ∧ (followLeader s src).image = s.image ∧ (followLeader s src).reg = s.reg ∧ (followLeader s src).objs = s.objs ∧ (followLeader s src).herd = s.herd ∧ (followLeader s src).aon = s.aon ∧ (followLeader s src).plan = s.plan ∧ (followLeader s src).solver = s.solver ∧ (followLeader s src).piste = s.piste ∧ (followLeader s src).prof = s.prof ∧ (followLeader s src).ctl = s.ctl ∧ (followLeader s src).sched = s.sched ∧ (followLeader s src).dsp = s.dsp ∧ (followLeader s src).sep = s.sep ∧ (followLeader s src).safety = s.safety ∧ (followLeader s src).cham = s.cham ∧ (followLeader s src).field = s.field ∧ (followLeader s src).acq = s.acq ∧ (followLeader s src).logs = s.logs ∧ (followLeader s src).clocks = s.clocks ∧ (followLeader s src).power = s.power ∧ (followLeader s src).pair = s.pair ∧ (followLeader s src).sec = s.sec ∧ (followLeader s src).hw = s.hw ∧ (followLeader s src).nor = s.nor ∧ (followLeader s src).freeCount = s.freeCount := by
  have fr1 := @withNet_frame
  unfold followLeader
  simp [fr1]

theorem moduleStartup_frame (s : State) (src : ℕ) (round : ℕ) (start : ℤ) :
    (moduleStartup s src round start).mode = s.mode ∧ (moduleStartup s src round start).start = s.start ∧ (moduleStartup s src round start).zewen = s.zewen ∧ (moduleStartup s src round start).writes = s.writes ∧ (moduleStartup s src round start).image = s.image ∧ (moduleStartup s src round start).reg = s.reg ∧ (moduleStartup s src round start).herd = s.herd ∧ (moduleStartup s src round start).aon = s.aon ∧ (moduleStartup s src round start).plan = s.plan ∧ (moduleStartup s src round start).solver = s.solver ∧ (moduleStartup s src round start).piste = s.piste ∧ (moduleStartup s src round start).prof = s.prof ∧ (moduleStartup s src round start).ctl = s.ctl ∧ (moduleStartup s src round start).sched = s.sched ∧ (moduleStartup s src round start).dsp = s.dsp ∧ (moduleStartup s src round start).sep = s.sep ∧ (moduleStartup s src round start).safety = s.safety ∧ (moduleStartup s src round start).cham = s.cham ∧ (moduleStartup s src round start).field = s.field ∧ (moduleStartup s src round start).acq = s.acq ∧ (moduleStartup s src round start).logs = s.logs ∧ (moduleStartup s src round start).clocks = s.clocks ∧ (moduleStartup s src round start).power = s.power ∧ (moduleStartup s src round start).pair = s.pair ∧ (moduleStartup s src round start).sec = s.sec ∧ (moduleStartup s src round start).hw = s.hw ∧ (moduleStartup s src round start).nor = s.nor := by
  have fr1 := @followLeader_frame; have fr2 := @bump_frame; have fr3 := @withNet_frame
  unfold moduleStartup
  split <;> simp [fr1, fr2, fr3]

theorem secondStartup_frame (s : State) (f : RxFrame) (c : StartupCopy) :
    (secondStartup s f c).mode = s.mode ∧ (secondStartup s f c).start = s.start ∧ (secondStartup s f c).zewen = s.zewen ∧ (secondStartup s f c).writes = s.writes ∧ (secondStartup s f c).image = s.image ∧ (secondStartup s f c).reg = s.reg ∧ (secondStartup s f c).herd = s.herd ∧ (secondStartup s f c).aon = s.aon ∧ (secondStartup s f c).net = s.net ∧ (secondStartup s f c).plan = s.plan ∧ (secondStartup s f c).solver = s.solver ∧ (secondStartup s f c).piste = s.piste ∧ (secondStartup s f c).prof = s.prof ∧ (secondStartup s f c).ctl = s.ctl ∧ (secondStartup s f c).sched = s.sched ∧ (secondStartup s f c).dsp = s.dsp ∧ (secondStartup s f c).sep = s.sep ∧ (secondStartup s f c).safety = s.safety ∧ (secondStartup s f c).cham = s.cham ∧ (secondStartup s f c).field = s.field ∧ (secondStartup s f c).acq = s.acq ∧ (secondStartup s f c).logs = s.logs ∧ (secondStartup s f c).clocks = s.clocks ∧ (secondStartup s f c).power = s.power ∧ (secondStartup s f c).pair = s.pair ∧ (secondStartup s f c).sec = s.sec ∧ (secondStartup s f c).hw = s.hw ∧ (secondStartup s f c).nor = s.nor := by
  have fr1 := @countNode_frame; have fr2 := @bumpAt_frame; have fr3 := @bump_frame
  unfold secondStartup
  simp [fr1, fr2, fr3]

theorem firstStartup_frame (s0 : State) (f : RxFrame) :
    (firstStartup s0 f).mode = s0.mode ∧ (firstStartup s0 f).start = s0.start ∧ (firstStartup s0 f).zewen = s0.zewen ∧ (firstStartup s0 f).writes = s0.writes ∧ (firstStartup s0 f).image = s0.image ∧ (firstStartup s0 f).reg = s0.reg ∧ (firstStartup s0 f).herd = s0.herd ∧ (firstStartup s0 f).aon = s0.aon ∧ (firstStartup s0 f).plan = s0.plan ∧ (firstStartup s0 f).solver = s0.solver ∧ (firstStartup s0 f).piste = s0.piste ∧ (firstStartup s0 f).prof = s0.prof ∧ (firstStartup s0 f).ctl = s0.ctl ∧ (firstStartup s0 f).sched = s0.sched ∧ (firstStartup s0 f).dsp = s0.dsp ∧ (firstStartup s0 f).sep = s0.sep ∧ (firstStartup s0 f).safety = s0.safety ∧ (firstStartup s0 f).cham = s0.cham ∧ (firstStartup s0 f).field = s0.field ∧ (firstStartup s0 f).acq = s0.acq ∧ (firstStartup s0 f).logs = s0.logs ∧ (firstStartup s0 f).clocks = s0.clocks ∧ (firstStartup s0 f).power = s0.power ∧ (firstStartup s0 f).pair = s0.pair ∧ (firstStartup s0 f).sec = s0.sec ∧ (firstStartup s0 f).hw = s0.hw ∧ (firstStartup s0 f).nor = s0.nor := by
  have fr1 := @withNet_frame; have fr2 := @moduleStartup_frame; have fr3 := @countNode_frame
  unfold firstStartup
  simp [fr1, fr2, fr3]

theorem startupRx_frame (s : State) (f : RxFrame) :
    (startupRx s f).mode = s.mode ∧ (startupRx s f).start = s.start ∧ (startupRx s f).zewen = s.zewen ∧ (startupRx s f).writes = s.writes ∧ (startupRx s f).image = s.image ∧ (startupRx s f).reg = s.reg ∧ (startupRx s f).herd = s.herd ∧ (startupRx s f).aon = s.aon ∧ (startupRx s f).plan = s.plan ∧ (startupRx s f).solver = s.solver ∧ (startupRx s f).piste = s.piste ∧ (startupRx s f).prof = s.prof ∧ (startupRx s f).ctl = s.ctl ∧ (startupRx s f).sched = s.sched ∧ (startupRx s f).dsp = s.dsp ∧ (startupRx s f).sep = s.sep ∧ (startupRx s f).safety = s.safety ∧ (startupRx s f).cham = s.cham ∧ (startupRx s f).field = s.field ∧ (startupRx s f).acq = s.acq ∧ (startupRx s f).logs = s.logs ∧ (startupRx s f).clocks = s.clocks ∧ (startupRx s f).power = s.power ∧ (startupRx s f).pair = s.pair ∧ (startupRx s f).sec = s.sec ∧ (startupRx s f).hw = s.hw ∧ (startupRx s f).nor = s.nor := by
  have fr1 := @countNode_frame; have fr2 := @secondStartup_frame; have fr3 := @firstStartup_frame
  unfold startupRx
  (repeat' split) <;> simp [fr1, fr2, fr3]

theorem coldStart'_frame (s : State) (round : ℕ) :
    (coldStart' s round).mode = s.mode ∧ (coldStart' s round).start = s.start ∧ (coldStart' s round).zewen = s.zewen ∧ (coldStart' s round).writes = s.writes ∧ (coldStart' s round).image = s.image ∧ (coldStart' s round).reg = s.reg ∧ (coldStart' s round).objs = s.objs ∧ (coldStart' s round).herd = s.herd ∧ (coldStart' s round).aon = s.aon ∧ (coldStart' s round).plan = s.plan ∧ (coldStart' s round).solver = s.solver ∧ (coldStart' s round).piste = s.piste ∧ (coldStart' s round).prof = s.prof ∧ (coldStart' s round).ctl = s.ctl ∧ (coldStart' s round).sched = s.sched ∧ (coldStart' s round).dsp = s.dsp ∧ (coldStart' s round).sep = s.sep ∧ (coldStart' s round).safety = s.safety ∧ (coldStart' s round).cham = s.cham ∧ (coldStart' s round).field = s.field ∧ (coldStart' s round).acq = s.acq ∧ (coldStart' s round).logs = s.logs ∧ (coldStart' s round).clocks = s.clocks ∧ (coldStart' s round).power = s.power ∧ (coldStart' s round).pair = s.pair ∧ (coldStart' s round).sec = s.sec ∧ (coldStart' s round).hw = s.hw ∧ (coldStart' s round).nor = s.nor ∧ (coldStart' s round).freeCount = s.freeCount := by
  have fr1 := @withNet_frame
  unfold coldStart'
  simp [fr1]

theorem restartCycle_frame (s : State) :
    (restartCycle s).mode = s.mode ∧ (restartCycle s).start = s.start ∧ (restartCycle s).zewen = s.zewen ∧ (restartCycle s).writes = s.writes ∧ (restartCycle s).image = s.image ∧ (restartCycle s).reg = s.reg ∧ (restartCycle s).herd = s.herd ∧ (restartCycle s).aon = s.aon ∧ (restartCycle s).plan = s.plan ∧ (restartCycle s).solver = s.solver ∧ (restartCycle s).piste = s.piste ∧ (restartCycle s).prof = s.prof ∧ (restartCycle s).ctl = s.ctl ∧ (restartCycle s).sched = s.sched ∧ (restartCycle s).dsp = s.dsp ∧ (restartCycle s).sep = s.sep ∧ (restartCycle s).safety = s.safety ∧ (restartCycle s).cham = s.cham ∧ (restartCycle s).field = s.field ∧ (restartCycle s).acq = s.acq ∧ (restartCycle s).logs = s.logs ∧ (restartCycle s).clocks = s.clocks ∧ (restartCycle s).power = s.power ∧ (restartCycle s).pair = s.pair ∧ (restartCycle s).sec = s.sec ∧ (restartCycle s).hw = s.hw ∧ (restartCycle s).nor = s.nor := by
  have fr1 := @bump_frame; have fr2 := @withNet_frame
  unfold restartCycle
  simp [fr1, fr2]

theorem netActivate_frame (s : State) :
    (netActivate s).mode = s.mode ∧ (netActivate s).start = s.start ∧ (netActivate s).zewen = s.zewen ∧ (netActivate s).writes = s.writes ∧ (netActivate s).image = s.image ∧ (netActivate s).reg = s.reg ∧ (netActivate s).aon = s.aon ∧ (netActivate s).plan = s.plan ∧ (netActivate s).solver = s.solver ∧ (netActivate s).piste = s.piste ∧ (netActivate s).prof = s.prof ∧ (netActivate s).ctl = s.ctl ∧ (netActivate s).sched = s.sched ∧ (netActivate s).dsp = s.dsp ∧ (netActivate s).sep = s.sep ∧ (netActivate s).cham = s.cham ∧ (netActivate s).field = s.field ∧ (netActivate s).acq = s.acq ∧ (netActivate s).logs = s.logs ∧ (netActivate s).clocks = s.clocks ∧ (netActivate s).power = s.power ∧ (netActivate s).pair = s.pair ∧ (netActivate s).sec = s.sec ∧ (netActivate s).hw = s.hw ∧ (netActivate s).nor = s.nor := by
  have fr1 := @withNet_frame; have fr2 := @setSafeCh_frame; have fr3 := @restartCycle_frame; have fr4 := @setCycle_frame; have fr5 := @settleStart_frame
  unfold netActivate
  simp [fr1, fr2, fr3, fr4, fr5]

theorem nodeTick_frame (s : State) (n : ℕ) :
    (nodeTick s n).mode = s.mode ∧ (nodeTick s n).start = s.start ∧ (nodeTick s n).zewen = s.zewen ∧ (nodeTick s n).writes = s.writes ∧ (nodeTick s n).image = s.image ∧ (nodeTick s n).reg = s.reg ∧ (nodeTick s n).objs = s.objs ∧ (nodeTick s n).herd = s.herd ∧ (nodeTick s n).aon = s.aon ∧ (nodeTick s n).plan = s.plan ∧ (nodeTick s n).solver = s.solver ∧ (nodeTick s n).piste = s.piste ∧ (nodeTick s n).prof = s.prof ∧ (nodeTick s n).ctl = s.ctl ∧ (nodeTick s n).sched = s.sched ∧ (nodeTick s n).dsp = s.dsp ∧ (nodeTick s n).sep = s.sep ∧ (nodeTick s n).safety = s.safety ∧ (nodeTick s n).cham = s.cham ∧ (nodeTick s n).field = s.field ∧ (nodeTick s n).acq = s.acq ∧ (nodeTick s n).logs = s.logs ∧ (nodeTick s n).clocks = s.clocks ∧ (nodeTick s n).power = s.power ∧ (nodeTick s n).pair = s.pair ∧ (nodeTick s n).sec = s.sec ∧ (nodeTick s n).hw = s.hw ∧ (nodeTick s n).nor = s.nor ∧ (nodeTick s n).freeCount = s.freeCount := by
  have fr1 := @setNode_frame
  unfold nodeTick
  simp [fr1]

theorem lineOnly_frame (s : State) (k : ℕ) :
    (lineOnly s k).mode = s.mode ∧ (lineOnly s k).start = s.start ∧ (lineOnly s k).zewen = s.zewen ∧ (lineOnly s k).writes = s.writes ∧ (lineOnly s k).image = s.image ∧ (lineOnly s k).reg = s.reg ∧ (lineOnly s k).herd = s.herd ∧ (lineOnly s k).aon = s.aon ∧ (lineOnly s k).net = s.net ∧ (lineOnly s k).plan = s.plan ∧ (lineOnly s k).solver = s.solver ∧ (lineOnly s k).piste = s.piste ∧ (lineOnly s k).prof = s.prof ∧ (lineOnly s k).ctl = s.ctl ∧ (lineOnly s k).sched = s.sched ∧ (lineOnly s k).dsp = s.dsp ∧ (lineOnly s k).sep = s.sep ∧ (lineOnly s k).safety = s.safety ∧ (lineOnly s k).cham = s.cham ∧ (lineOnly s k).field = s.field ∧ (lineOnly s k).acq = s.acq ∧ (lineOnly s k).logs = s.logs ∧ (lineOnly s k).clocks = s.clocks ∧ (lineOnly s k).power = s.power ∧ (lineOnly s k).pair = s.pair ∧ (lineOnly s k).sec = s.sec ∧ (lineOnly s k).hw = s.hw ∧ (lineOnly s k).nor = s.nor ∧ (lineOnly s k).freeCount = s.freeCount := by
  have fr1 := @lineLost_frame; have fr2 := @bumpAt_frame
  unfold lineOnly
  split <;> simp [fr1, fr2]

theorem netTickEnd_frame (s : State) :
    (netTickEnd s).mode = s.mode ∧ (netTickEnd s).start = s.start ∧ (netTickEnd s).zewen = s.zewen ∧ (netTickEnd s).writes = s.writes ∧ (netTickEnd s).image = s.image ∧ (netTickEnd s).reg = s.reg ∧ (netTickEnd s).herd = s.herd ∧ (netTickEnd s).aon = s.aon ∧ (netTickEnd s).plan = s.plan ∧ (netTickEnd s).solver = s.solver ∧ (netTickEnd s).piste = s.piste ∧ (netTickEnd s).prof = s.prof ∧ (netTickEnd s).ctl = s.ctl ∧ (netTickEnd s).sched = s.sched ∧ (netTickEnd s).dsp = s.dsp ∧ (netTickEnd s).sep = s.sep ∧ (netTickEnd s).safety = s.safety ∧ (netTickEnd s).cham = s.cham ∧ (netTickEnd s).field = s.field ∧ (netTickEnd s).acq = s.acq ∧ (netTickEnd s).logs = s.logs ∧ (netTickEnd s).clocks = s.clocks ∧ (netTickEnd s).power = s.power ∧ (netTickEnd s).pair = s.pair ∧ (netTickEnd s).sec = s.sec ∧ (netTickEnd s).hw = s.hw ∧ (netTickEnd s).nor = s.nor ∧ (netTickEnd s).freeCount = s.freeCount := by
  have fr1 := @nodeTick_frame; have fr2 := @lineOnly_frame
  unfold netTickEnd
  simp [fr1, fr2]

theorem netTickStart_frame (s : State) :
    (netTickStart s).mode = s.mode ∧ (netTickStart s).start = s.start ∧ (netTickStart s).zewen = s.zewen ∧ (netTickStart s).writes = s.writes ∧ (netTickStart s).image = s.image ∧ (netTickStart s).reg = s.reg ∧ (netTickStart s).herd = s.herd ∧ (netTickStart s).aon = s.aon ∧ (netTickStart s).plan = s.plan ∧ (netTickStart s).solver = s.solver ∧ (netTickStart s).piste = s.piste ∧ (netTickStart s).prof = s.prof ∧ (netTickStart s).ctl = s.ctl ∧ (netTickStart s).sched = s.sched ∧ (netTickStart s).dsp = s.dsp ∧ (netTickStart s).sep = s.sep ∧ (netTickStart s).safety = s.safety ∧ (netTickStart s).cham = s.cham ∧ (netTickStart s).field = s.field ∧ (netTickStart s).acq = s.acq ∧ (netTickStart s).logs = s.logs ∧ (netTickStart s).clocks = s.clocks ∧ (netTickStart s).power = s.power ∧ (netTickStart s).pair = s.pair ∧ (netTickStart s).sec = s.sec ∧ (netTickStart s).hw = s.hw ∧ (netTickStart s).nor = s.nor := by
  have fr1 := @lineLost_frame; have fr2 := @bumpN_frame; have fr3 := @withNet_frame; have fr4 := @settleStart_frame; have fr5 := @coldStart'_frame
  unfold netTickStart
  simp [fr1, fr2, fr3, fr4, fr5]

theorem cutNodes_frame (s : State) (line : ℕ) :
    (cutNodes s line).mode = s.mode ∧ (cutNodes s line).start = s.start ∧ (cutNodes s line).zewen = s.zewen ∧ (cutNodes s line).writes = s.writes ∧ (cutNodes s line).image = s.image ∧ (cutNodes s line).reg = s.reg ∧ (cutNodes s line).objs = s.objs ∧ (cutNodes s line).herd = s.herd ∧ (cutNodes s line).aon = s.aon ∧ (cutNodes s line).plan = s.plan ∧ (cutNodes s line).solver = s.solver ∧ (cutNodes s line).piste = s.piste ∧ (cutNodes s line).prof = s.prof ∧ (cutNodes s line).ctl = s.ctl ∧ (cutNodes s line).sched = s.sched ∧ (cutNodes s line).dsp = s.dsp ∧ (cutNodes s line).sep = s.sep ∧ (cutNodes s line).safety = s.safety ∧ (cutNodes s line).cham = s.cham ∧ (cutNodes s line).field = s.field ∧ (cutNodes s line).acq = s.acq ∧ (cutNodes s line).logs = s.logs ∧ (cutNodes s line).clocks = s.clocks ∧ (cutNodes s line).power = s.power ∧ (cutNodes s line).pair = s.pair ∧ (cutNodes s line).sec = s.sec ∧ (cutNodes s line).hw = s.hw ∧ (cutNodes s line).nor = s.nor ∧ (cutNodes s line).freeCount = s.freeCount := by
  have fr1 := @withNet_frame; have fr2 := @setNode_frame
  unfold cutNodes
  simp [fr1, fr2]

theorem judgeRing_frame (s : State) (r : ℕ) :
    (judgeRing s r).mode = s.mode ∧ (judgeRing s r).start = s.start ∧ (judgeRing s r).zewen = s.zewen ∧ (judgeRing s r).writes = s.writes ∧ (judgeRing s r).image = s.image ∧ (judgeRing s r).reg = s.reg ∧ (judgeRing s r).objs = s.objs ∧ (judgeRing s r).herd = s.herd ∧ (judgeRing s r).aon = s.aon ∧ (judgeRing s r).plan = s.plan ∧ (judgeRing s r).solver = s.solver ∧ (judgeRing s r).piste = s.piste ∧ (judgeRing s r).prof = s.prof ∧ (judgeRing s r).ctl = s.ctl ∧ (judgeRing s r).sched = s.sched ∧ (judgeRing s r).dsp = s.dsp ∧ (judgeRing s r).sep = s.sep ∧ (judgeRing s r).safety = s.safety ∧ (judgeRing s r).cham = s.cham ∧ (judgeRing s r).field = s.field ∧ (judgeRing s r).acq = s.acq ∧ (judgeRing s r).logs = s.logs ∧ (judgeRing s r).clocks = s.clocks ∧ (judgeRing s r).power = s.power ∧ (judgeRing s r).pair = s.pair ∧ (judgeRing s r).sec = s.sec ∧ (judgeRing s r).hw = s.hw ∧ (judgeRing s r).nor = s.nor ∧ (judgeRing s r).freeCount = s.freeCount := by
  have fr1 := @cutNodes_frame; have fr2 := @withNet_frame
  unfold judgeRing
  simp [fr1, fr2]

theorem ringRestore_frame (s : State) (v : ℕ) :
    (ringRestore s v).mode = s.mode ∧ (ringRestore s v).start = s.start ∧ (ringRestore s v).zewen = s.zewen ∧ (ringRestore s v).writes = s.writes ∧ (ringRestore s v).image = s.image ∧ (ringRestore s v).reg = s.reg ∧ (ringRestore s v).objs = s.objs ∧ (ringRestore s v).herd = s.herd ∧ (ringRestore s v).aon = s.aon ∧ (ringRestore s v).plan = s.plan ∧ (ringRestore s v).solver = s.solver ∧ (ringRestore s v).piste = s.piste ∧ (ringRestore s v).prof = s.prof ∧ (ringRestore s v).ctl = s.ctl ∧ (ringRestore s v).sched = s.sched ∧ (ringRestore s v).dsp = s.dsp ∧ (ringRestore s v).sep = s.sep ∧ (ringRestore s v).safety = s.safety ∧ (ringRestore s v).cham = s.cham ∧ (ringRestore s v).field = s.field ∧ (ringRestore s v).acq = s.acq ∧ (ringRestore s v).logs = s.logs ∧ (ringRestore s v).clocks = s.clocks ∧ (ringRestore s v).power = s.power ∧ (ringRestore s v).pair = s.pair ∧ (ringRestore s v).sec = s.sec ∧ (ringRestore s v).hw = s.hw ∧ (ringRestore s v).nor = s.nor ∧ (ringRestore s v).freeCount = s.freeCount := by
  have fr1 := @withNet_frame
  unfold ringRestore
  simp [fr1]

theorem dynTx_frame (s : State) (v : Bytes) :
    (dynTx s v).mode = s.mode ∧ (dynTx s v).start = s.start ∧ (dynTx s v).zewen = s.zewen ∧ (dynTx s v).writes = s.writes ∧ (dynTx s v).image = s.image ∧ (dynTx s v).reg = s.reg ∧ (dynTx s v).objs = s.objs ∧ (dynTx s v).herd = s.herd ∧ (dynTx s v).aon = s.aon ∧ (dynTx s v).plan = s.plan ∧ (dynTx s v).solver = s.solver ∧ (dynTx s v).piste = s.piste ∧ (dynTx s v).prof = s.prof ∧ (dynTx s v).ctl = s.ctl ∧ (dynTx s v).sched = s.sched ∧ (dynTx s v).dsp = s.dsp ∧ (dynTx s v).sep = s.sep ∧ (dynTx s v).safety = s.safety ∧ (dynTx s v).cham = s.cham ∧ (dynTx s v).field = s.field ∧ (dynTx s v).acq = s.acq ∧ (dynTx s v).logs = s.logs ∧ (dynTx s v).clocks = s.clocks ∧ (dynTx s v).power = s.power ∧ (dynTx s v).pair = s.pair ∧ (dynTx s v).sec = s.sec ∧ (dynTx s v).hw = s.hw ∧ (dynTx s v).nor = s.nor ∧ (dynTx s v).freeCount = s.freeCount := by
  have fr1 := @withNet_frame
  unfold dynTx
  simp [fr1]

/-! ### Pair -/

theorem setRole_frame (s : State) (r : PairRole) :
    (setRole s r).mode = s.mode ∧ (setRole s r).start = s.start ∧ (setRole s r).writes = s.writes ∧ (setRole s r).image = s.image ∧ (setRole s r).aon = s.aon ∧ (setRole s r).net = s.net ∧ (setRole s r).plan = s.plan ∧ (setRole s r).solver = s.solver ∧ (setRole s r).piste = s.piste ∧ (setRole s r).prof = s.prof ∧ (setRole s r).ctl = s.ctl ∧ (setRole s r).sched = s.sched ∧ (setRole s r).dsp = s.dsp ∧ (setRole s r).sep = s.sep ∧ (setRole s r).safety = s.safety ∧ (setRole s r).cham = s.cham ∧ (setRole s r).field = s.field ∧ (setRole s r).clocks = s.clocks ∧ (setRole s r).power = s.power ∧ (setRole s r).sec = s.sec ∧ (setRole s r).hw = s.hw ∧ (setRole s r).nor = s.nor := by
  have fr1 := @withPair_frame; have fr2 := @retime_frame; have fr3 := @setInt_frame
  unfold setRole
  simp [fr1, fr2, fr3]

theorem judgeRole_frame (s : State) :
    (judgeRole s).mode = s.mode ∧ (judgeRole s).start = s.start ∧ (judgeRole s).writes = s.writes ∧ (judgeRole s).image = s.image ∧ (judgeRole s).aon = s.aon ∧ (judgeRole s).net = s.net ∧ (judgeRole s).plan = s.plan ∧ (judgeRole s).solver = s.solver ∧ (judgeRole s).piste = s.piste ∧ (judgeRole s).prof = s.prof ∧ (judgeRole s).ctl = s.ctl ∧ (judgeRole s).sched = s.sched ∧ (judgeRole s).dsp = s.dsp ∧ (judgeRole s).sep = s.sep ∧ (judgeRole s).safety = s.safety ∧ (judgeRole s).cham = s.cham ∧ (judgeRole s).field = s.field ∧ (judgeRole s).clocks = s.clocks ∧ (judgeRole s).power = s.power ∧ (judgeRole s).sec = s.sec ∧ (judgeRole s).hw = s.hw ∧ (judgeRole s).nor = s.nor := by
  have fr1 := @setRole_frame
  unfold judgeRole
  simp [fr1]

theorem pairEmit_frame (s : State) (o : Output) :
    (pairEmit s o).mode = s.mode ∧ (pairEmit s o).start = s.start ∧ (pairEmit s o).zewen = s.zewen ∧ (pairEmit s o).writes = s.writes ∧ (pairEmit s o).image = s.image ∧ (pairEmit s o).reg = s.reg ∧ (pairEmit s o).objs = s.objs ∧ (pairEmit s o).herd = s.herd ∧ (pairEmit s o).aon = s.aon ∧ (pairEmit s o).net = s.net ∧ (pairEmit s o).plan = s.plan ∧ (pairEmit s o).solver = s.solver ∧ (pairEmit s o).piste = s.piste ∧ (pairEmit s o).prof = s.prof ∧ (pairEmit s o).ctl = s.ctl ∧ (pairEmit s o).sched = s.sched ∧ (pairEmit s o).dsp = s.dsp ∧ (pairEmit s o).sep = s.sep ∧ (pairEmit s o).safety = s.safety ∧ (pairEmit s o).cham = s.cham ∧ (pairEmit s o).field = s.field ∧ (pairEmit s o).acq = s.acq ∧ (pairEmit s o).logs = s.logs ∧ (pairEmit s o).clocks = s.clocks ∧ (pairEmit s o).power = s.power ∧ (pairEmit s o).pair = s.pair ∧ (pairEmit s o).sec = s.sec ∧ (pairEmit s o).hw = s.hw ∧ (pairEmit s o).nor = s.nor ∧ (pairEmit s o).freeCount = s.freeCount := by
  have fr1 := @emit_frame
  unfold pairEmit
  simp [fr1]

theorem overPair_frame (s : State) (f : State → State)
    (h : ∀ u, (f u).mode = u.mode ∧ (f u).start = u.start ∧ (f u).zewen = u.zewen ∧ (f u).writes = u.writes ∧ (f u).image = u.image ∧ (f u).reg = u.reg ∧ (f u).herd = u.herd ∧ (f u).aon = u.aon ∧ (f u).net = u.net ∧ (f u).plan = u.plan ∧ (f u).solver = u.solver ∧ (f u).piste = u.piste ∧ (f u).prof = u.prof ∧ (f u).ctl = u.ctl ∧ (f u).sched = u.sched ∧ (f u).dsp = u.dsp ∧ (f u).sep = u.sep ∧ (f u).safety = u.safety ∧ (f u).cham = u.cham ∧ (f u).field = u.field ∧ (f u).acq = u.acq ∧ (f u).logs = u.logs ∧ (f u).clocks = u.clocks ∧ (f u).power = u.power ∧ (f u).pair = u.pair ∧ (f u).sec = u.sec ∧ (f u).hw = u.hw ∧ (f u).nor = u.nor ∧ (f u).freeCount = u.freeCount) :
    (overPair s f).mode = s.mode ∧ (overPair s f).start = s.start ∧ (overPair s f).zewen = s.zewen ∧ (overPair s f).writes = s.writes ∧ (overPair s f).image = s.image ∧ (overPair s f).reg = s.reg ∧ (overPair s f).herd = s.herd ∧ (overPair s f).aon = s.aon ∧ (overPair s f).net = s.net ∧ (overPair s f).plan = s.plan ∧ (overPair s f).solver = s.solver ∧ (overPair s f).piste = s.piste ∧ (overPair s f).prof = s.prof ∧ (overPair s f).ctl = s.ctl ∧ (overPair s f).sched = s.sched ∧ (overPair s f).dsp = s.dsp ∧ (overPair s f).sep = s.sep ∧ (overPair s f).safety = s.safety ∧ (overPair s f).cham = s.cham ∧ (overPair s f).field = s.field ∧ (overPair s f).acq = s.acq ∧ (overPair s f).logs = s.logs ∧ (overPair s f).clocks = s.clocks ∧ (overPair s f).power = s.power ∧ (overPair s f).pair = s.pair ∧ (overPair s f).sec = s.sec ∧ (overPair s f).hw = s.hw ∧ (overPair s f).nor = s.nor ∧ (overPair s f).freeCount = s.freeCount := by
  have fr1 := @countFrame_frame
  unfold overPair
  split <;> simp [h, fr1]

theorem pairActivate_frame (s : State) :
    (pairActivate s).mode = s.mode ∧ (pairActivate s).start = s.start ∧ (pairActivate s).writes = s.writes ∧ (pairActivate s).image = s.image ∧ (pairActivate s).aon = s.aon ∧ (pairActivate s).net = s.net ∧ (pairActivate s).plan = s.plan ∧ (pairActivate s).solver = s.solver ∧ (pairActivate s).piste = s.piste ∧ (pairActivate s).prof = s.prof ∧ (pairActivate s).ctl = s.ctl ∧ (pairActivate s).sched = s.sched ∧ (pairActivate s).dsp = s.dsp ∧ (pairActivate s).sep = s.sep ∧ (pairActivate s).safety = s.safety ∧ (pairActivate s).cham = s.cham ∧ (pairActivate s).field = s.field ∧ (pairActivate s).clocks = s.clocks ∧ (pairActivate s).power = s.power ∧ (pairActivate s).sec = s.sec ∧ (pairActivate s).hw = s.hw ∧ (pairActivate s).nor = s.nor := by
  have fr1 := @setRole_frame; have fr2 := @withPair_frame
  unfold pairActivate
  simp [fr1, fr2]

theorem takeArm_frame (ticks : ℕ) (s : State) (a : ℕ × ℕ × ℕ × ArmSource) :
    (takeArm ticks s a).mode = s.mode ∧ (takeArm ticks s a).start = s.start ∧ (takeArm ticks s a).zewen = s.zewen ∧ (takeArm ticks s a).writes = s.writes ∧ (takeArm ticks s a).image = s.image ∧ (takeArm ticks s a).reg = s.reg ∧ (takeArm ticks s a).objs = s.objs ∧ (takeArm ticks s a).herd = s.herd ∧ (takeArm ticks s a).aon = s.aon ∧ (takeArm ticks s a).net = s.net ∧ (takeArm ticks s a).solver = s.solver ∧ (takeArm ticks s a).piste = s.piste ∧ (takeArm ticks s a).ctl = s.ctl ∧ (takeArm ticks s a).sched = s.sched ∧ (takeArm ticks s a).dsp = s.dsp ∧ (takeArm ticks s a).sep = s.sep ∧ (takeArm ticks s a).safety = s.safety ∧ (takeArm ticks s a).cham = s.cham ∧ (takeArm ticks s a).field = s.field ∧ (takeArm ticks s a).acq = s.acq ∧ (takeArm ticks s a).logs = s.logs ∧ (takeArm ticks s a).clocks = s.clocks ∧ (takeArm ticks s a).power = s.power ∧ (takeArm ticks s a).pair = s.pair ∧ (takeArm ticks s a).sec = s.sec ∧ (takeArm ticks s a).hw = s.hw ∧ (takeArm ticks s a).nor = s.nor ∧ (takeArm ticks s a).freeCount = s.freeCount := by
  have fr1 := @setArmMot_frame
  unfold takeArm
  simp [fr1]

theorem takeChannel_frame (stops : Bool) (t : ℕ) (s : State) (c : ℕ × Setpoint) :
    (takeChannel stops t s c).mode = s.mode ∧ (takeChannel stops t s c).start = s.start ∧ (takeChannel stops t s c).zewen = s.zewen ∧ (takeChannel stops t s c).writes = s.writes ∧ (takeChannel stops t s c).image = s.image ∧ (takeChannel stops t s c).reg = s.reg ∧ (takeChannel stops t s c).objs = s.objs ∧ (takeChannel stops t s c).herd = s.herd ∧ (takeChannel stops t s c).aon = s.aon ∧ (takeChannel stops t s c).net = s.net ∧ (takeChannel stops t s c).plan = s.plan ∧ (takeChannel stops t s c).solver = s.solver ∧ (takeChannel stops t s c).piste = s.piste ∧ (takeChannel stops t s c).ctl = s.ctl ∧ (takeChannel stops t s c).sched = s.sched ∧ (takeChannel stops t s c).dsp = s.dsp ∧ (takeChannel stops t s c).sep = s.sep ∧ (takeChannel stops t s c).safety = s.safety ∧ (takeChannel stops t s c).cham = s.cham ∧ (takeChannel stops t s c).field = s.field ∧ (takeChannel stops t s c).acq = s.acq ∧ (takeChannel stops t s c).logs = s.logs ∧ (takeChannel stops t s c).clocks = s.clocks ∧ (takeChannel stops t s c).power = s.power ∧ (takeChannel stops t s c).pair = s.pair ∧ (takeChannel stops t s c).sec = s.sec ∧ (takeChannel stops t s c).hw = s.hw ∧ (takeChannel stops t s c).nor = s.nor ∧ (takeChannel stops t s c).freeCount = s.freeCount := by
  have fr1 := @setChan_frame; have fr2 := @setArmMot_frame
  unfold takeChannel
  simp [fr1, fr2]

theorem takeToken_frame (s : State) (t : ℕ) (stops : Bool) :
    (takeToken s t stops).start = s.start ∧ (takeToken s t stops).writes = s.writes ∧ (takeToken s t stops).image = s.image ∧ (takeToken s t stops).aon = s.aon ∧ (takeToken s t stops).ctl = s.ctl ∧ (takeToken s t stops).sched = s.sched ∧ (takeToken s t stops).dsp = s.dsp ∧ (takeToken s t stops).sep = s.sep ∧ (takeToken s t stops).safety = s.safety ∧ (takeToken s t stops).cham = s.cham ∧ (takeToken s t stops).clocks = s.clocks ∧ (takeToken s t stops).power = s.power ∧ (takeToken s t stops).sec = s.sec ∧ (takeToken s t stops).hw = s.hw ∧ (takeToken s t stops).nor = s.nor := by
  have fr1 := @withPair_frame; have fr2 := @setRole_frame; have fr3 := @takeArm_frame; have fr4 := @takeChannel_frame; have fr5 := @withMode_frame
  unfold takeToken
  simp [fr1, fr2, fr3, fr4, fr5]

theorem followMode_frame (s : State) (m : Mode × Option Mode × Option Mode) :
    (followMode s m).start = s.start ∧ (followMode s m).writes = s.writes ∧ (followMode s m).image = s.image ∧ (followMode s m).herd = s.herd ∧ (followMode s m).aon = s.aon ∧ (followMode s m).net = s.net ∧ (followMode s m).plan = s.plan ∧ (followMode s m).solver = s.solver ∧ (followMode s m).piste = s.piste ∧ (followMode s m).prof = s.prof ∧ (followMode s m).ctl = s.ctl ∧ (followMode s m).sched = s.sched ∧ (followMode s m).dsp = s.dsp ∧ (followMode s m).sep = s.sep ∧ (followMode s m).safety = s.safety ∧ (followMode s m).cham = s.cham ∧ (followMode s m).field = s.field ∧ (followMode s m).clocks = s.clocks ∧ (followMode s m).power = s.power ∧ (followMode s m).pair = s.pair ∧ (followMode s m).sec = s.sec ∧ (followMode s m).hw = s.hw ∧ (followMode s m).nor = s.nor := by
  have fr1 := @withMode_frame; have fr2 := @acceptTarget_frame
  unfold followMode
  split <;> simp [fr1, fr2]

theorem peerCheck_frame (s : State) (img : Bytes) :
    (peerCheck s img).mode = s.mode ∧ (peerCheck s img).start = s.start ∧ (peerCheck s img).zewen = s.zewen ∧ (peerCheck s img).writes = s.writes ∧ (peerCheck s img).reg = s.reg ∧ (peerCheck s img).objs = s.objs ∧ (peerCheck s img).herd = s.herd ∧ (peerCheck s img).aon = s.aon ∧ (peerCheck s img).net = s.net ∧ (peerCheck s img).plan = s.plan ∧ (peerCheck s img).solver = s.solver ∧ (peerCheck s img).piste = s.piste ∧ (peerCheck s img).prof = s.prof ∧ (peerCheck s img).ctl = s.ctl ∧ (peerCheck s img).sched = s.sched ∧ (peerCheck s img).dsp = s.dsp ∧ (peerCheck s img).sep = s.sep ∧ (peerCheck s img).safety = s.safety ∧ (peerCheck s img).cham = s.cham ∧ (peerCheck s img).field = s.field ∧ (peerCheck s img).acq = s.acq ∧ (peerCheck s img).logs = s.logs ∧ (peerCheck s img).clocks = s.clocks ∧ (peerCheck s img).power = s.power ∧ (peerCheck s img).pair = s.pair ∧ (peerCheck s img).sec = s.sec ∧ (peerCheck s img).hw = s.hw ∧ (peerCheck s img).nor = s.nor ∧ (peerCheck s img).freeCount = s.freeCount := by
  unfold peerCheck
  simp

theorem pairSwap_frame (s : State) :
    (pairSwap s).mode = s.mode ∧ (pairSwap s).start = s.start ∧ (pairSwap s).zewen = s.zewen ∧ (pairSwap s).writes = s.writes ∧ (pairSwap s).image = s.image ∧ (pairSwap s).reg = s.reg ∧ (pairSwap s).objs = s.objs ∧ (pairSwap s).herd = s.herd ∧ (pairSwap s).aon = s.aon ∧ (pairSwap s).net = s.net ∧ (pairSwap s).plan = s.plan ∧ (pairSwap s).solver = s.solver ∧ (pairSwap s).piste = s.piste ∧ (pairSwap s).prof = s.prof ∧ (pairSwap s).ctl = s.ctl ∧ (pairSwap s).sched = s.sched ∧ (pairSwap s).dsp = s.dsp ∧ (pairSwap s).sep = s.sep ∧ (pairSwap s).safety = s.safety ∧ (pairSwap s).cham = s.cham ∧ (pairSwap s).field = s.field ∧ (pairSwap s).acq = s.acq ∧ (pairSwap s).logs = s.logs ∧ (pairSwap s).clocks = s.clocks ∧ (pairSwap s).power = s.power ∧ (pairSwap s).sec = s.sec ∧ (pairSwap s).hw = s.hw ∧ (pairSwap s).nor = s.nor ∧ (pairSwap s).freeCount = s.freeCount := by
  have fr1 := @pairEmit_frame; have fr2 := @withPair_frame
  unfold pairSwap
  simp [fr1, fr2]

/-! ### Solver -/

theorem withSolver_frame (s : State) (f : SolverState → SolverState) :
    (withSolver s f).mode = s.mode ∧ (withSolver s f).start = s.start ∧ (withSolver s f).zewen = s.zewen ∧ (withSolver s f).writes = s.writes ∧ (withSolver s f).image = s.image ∧ (withSolver s f).reg = s.reg ∧ (withSolver s f).objs = s.objs ∧ (withSolver s f).herd = s.herd ∧ (withSolver s f).aon = s.aon ∧ (withSolver s f).net = s.net ∧ (withSolver s f).plan = s.plan ∧ (withSolver s f).piste = s.piste ∧ (withSolver s f).prof = s.prof ∧ (withSolver s f).ctl = s.ctl ∧ (withSolver s f).sched = s.sched ∧ (withSolver s f).dsp = s.dsp ∧ (withSolver s f).sep = s.sep ∧ (withSolver s f).safety = s.safety ∧ (withSolver s f).cham = s.cham ∧ (withSolver s f).field = s.field ∧ (withSolver s f).acq = s.acq ∧ (withSolver s f).logs = s.logs ∧ (withSolver s f).clocks = s.clocks ∧ (withSolver s f).power = s.power ∧ (withSolver s f).pair = s.pair ∧ (withSolver s f).sec = s.sec ∧ (withSolver s f).hw = s.hw ∧ (withSolver s f).nor = s.nor ∧ (withSolver s f).freeCount = s.freeCount := by
  unfold withSolver
  simp

theorem setSlot_frame (s : State) (i : ℕ) (f : SolverSlot → SolverSlot) :
    (setSlot s i f).mode = s.mode ∧ (setSlot s i f).start = s.start ∧ (setSlot s i f).zewen = s.zewen ∧ (setSlot s i f).writes = s.writes ∧ (setSlot s i f).image = s.image ∧ (setSlot s i f).reg = s.reg ∧ (setSlot s i f).objs = s.objs ∧ (setSlot s i f).herd = s.herd ∧ (setSlot s i f).aon = s.aon ∧ (setSlot s i f).net = s.net ∧ (setSlot s i f).plan = s.plan ∧ (setSlot s i f).piste = s.piste ∧ (setSlot s i f).prof = s.prof ∧ (setSlot s i f).ctl = s.ctl ∧ (setSlot s i f).sched = s.sched ∧ (setSlot s i f).dsp = s.dsp ∧ (setSlot s i f).sep = s.sep ∧ (setSlot s i f).safety = s.safety ∧ (setSlot s i f).cham = s.cham ∧ (setSlot s i f).field = s.field ∧ (setSlot s i f).acq = s.acq ∧ (setSlot s i f).logs = s.logs ∧ (setSlot s i f).clocks = s.clocks ∧ (setSlot s i f).power = s.power ∧ (setSlot s i f).pair = s.pair ∧ (setSlot s i f).sec = s.sec ∧ (setSlot s i f).hw = s.hw ∧ (setSlot s i f).nor = s.nor ∧ (setSlot s i f).freeCount = s.freeCount := by
  have fr1 := @withSolver_frame
  unfold setSlot
  simp [fr1]

theorem endRun_frame (s : State) (slot : ℕ) (code : ℕ) :
    (endRun s slot code).mode = s.mode ∧ (endRun s slot code).start = s.start ∧ (endRun s slot code).zewen = s.zewen ∧ (endRun s slot code).writes = s.writes ∧ (endRun s slot code).image = s.image ∧ (endRun s slot code).reg = s.reg ∧ (endRun s slot code).objs = s.objs ∧ (endRun s slot code).herd = s.herd ∧ (endRun s slot code).aon = s.aon ∧ (endRun s slot code).net = s.net ∧ (endRun s slot code).plan = s.plan ∧ (endRun s slot code).piste = s.piste ∧ (endRun s slot code).prof = s.prof ∧ (endRun s slot code).ctl = s.ctl ∧ (endRun s slot code).sched = s.sched ∧ (endRun s slot code).dsp = s.dsp ∧ (endRun s slot code).sep = s.sep ∧ (endRun s slot code).safety = s.safety ∧ (endRun s slot code).cham = s.cham ∧ (endRun s slot code).field = s.field ∧ (endRun s slot code).acq = s.acq ∧ (endRun s slot code).logs = s.logs ∧ (endRun s slot code).clocks = s.clocks ∧ (endRun s slot code).power = s.power ∧ (endRun s slot code).pair = s.pair ∧ (endRun s slot code).sec = s.sec ∧ (endRun s slot code).hw = s.hw ∧ (endRun s slot code).nor = s.nor ∧ (endRun s slot code).freeCount = s.freeCount := by
  have fr1 := @withSolver_frame
  unfold endRun
  simp [fr1]

theorem abortRun_frame (s : State) (slot : ℕ) :
    (abortRun s slot).mode = s.mode ∧ (abortRun s slot).start = s.start ∧ (abortRun s slot).zewen = s.zewen ∧ (abortRun s slot).writes = s.writes ∧ (abortRun s slot).image = s.image ∧ (abortRun s slot).reg = s.reg ∧ (abortRun s slot).objs = s.objs ∧ (abortRun s slot).herd = s.herd ∧ (abortRun s slot).aon = s.aon ∧ (abortRun s slot).net = s.net ∧ (abortRun s slot).plan = s.plan ∧ (abortRun s slot).piste = s.piste ∧ (abortRun s slot).prof = s.prof ∧ (abortRun s slot).ctl = s.ctl ∧ (abortRun s slot).sched = s.sched ∧ (abortRun s slot).dsp = s.dsp ∧ (abortRun s slot).sep = s.sep ∧ (abortRun s slot).safety = s.safety ∧ (abortRun s slot).cham = s.cham ∧ (abortRun s slot).field = s.field ∧ (abortRun s slot).acq = s.acq ∧ (abortRun s slot).logs = s.logs ∧ (abortRun s slot).clocks = s.clocks ∧ (abortRun s slot).power = s.power ∧ (abortRun s slot).pair = s.pair ∧ (abortRun s slot).sec = s.sec ∧ (abortRun s slot).hw = s.hw ∧ (abortRun s slot).nor = s.nor ∧ (abortRun s slot).freeCount = s.freeCount := by
  have fr1 := @withSolver_frame; have fr2 := @endRun_frame
  unfold abortRun
  simp [fr1, fr2]

theorem solverLoad_frame (s : State) (slot : ℕ) (chunk : Bytes) :
    (solverLoad s slot chunk).mode = s.mode ∧ (solverLoad s slot chunk).start = s.start ∧ (solverLoad s slot chunk).zewen = s.zewen ∧ (solverLoad s slot chunk).writes = s.writes ∧ (solverLoad s slot chunk).image = s.image ∧ (solverLoad s slot chunk).reg = s.reg ∧ (solverLoad s slot chunk).objs = s.objs ∧ (solverLoad s slot chunk).herd = s.herd ∧ (solverLoad s slot chunk).aon = s.aon ∧ (solverLoad s slot chunk).net = s.net ∧ (solverLoad s slot chunk).plan = s.plan ∧ (solverLoad s slot chunk).piste = s.piste ∧ (solverLoad s slot chunk).prof = s.prof ∧ (solverLoad s slot chunk).ctl = s.ctl ∧ (solverLoad s slot chunk).sched = s.sched ∧ (solverLoad s slot chunk).dsp = s.dsp ∧ (solverLoad s slot chunk).sep = s.sep ∧ (solverLoad s slot chunk).safety = s.safety ∧ (solverLoad s slot chunk).cham = s.cham ∧ (solverLoad s slot chunk).field = s.field ∧ (solverLoad s slot chunk).acq = s.acq ∧ (solverLoad s slot chunk).logs = s.logs ∧ (solverLoad s slot chunk).clocks = s.clocks ∧ (solverLoad s slot chunk).power = s.power ∧ (solverLoad s slot chunk).pair = s.pair ∧ (solverLoad s slot chunk).sec = s.sec ∧ (solverLoad s slot chunk).hw = s.hw ∧ (solverLoad s slot chunk).nor = s.nor ∧ (solverLoad s slot chunk).freeCount = s.freeCount := by
  have fr1 := @setSlot_frame; have fr2 := @endRun_frame
  unfold solverLoad
  simp [fr1, fr2]

theorem solverUnload_frame (s : State) (slot : ℕ) :
    (solverUnload s slot).mode = s.mode ∧ (solverUnload s slot).start = s.start ∧ (solverUnload s slot).zewen = s.zewen ∧ (solverUnload s slot).writes = s.writes ∧ (solverUnload s slot).image = s.image ∧ (solverUnload s slot).reg = s.reg ∧ (solverUnload s slot).objs = s.objs ∧ (solverUnload s slot).herd = s.herd ∧ (solverUnload s slot).aon = s.aon ∧ (solverUnload s slot).net = s.net ∧ (solverUnload s slot).plan = s.plan ∧ (solverUnload s slot).piste = s.piste ∧ (solverUnload s slot).prof = s.prof ∧ (solverUnload s slot).ctl = s.ctl ∧ (solverUnload s slot).sched = s.sched ∧ (solverUnload s slot).dsp = s.dsp ∧ (solverUnload s slot).sep = s.sep ∧ (solverUnload s slot).safety = s.safety ∧ (solverUnload s slot).cham = s.cham ∧ (solverUnload s slot).field = s.field ∧ (solverUnload s slot).acq = s.acq ∧ (solverUnload s slot).logs = s.logs ∧ (solverUnload s slot).clocks = s.clocks ∧ (solverUnload s slot).power = s.power ∧ (solverUnload s slot).pair = s.pair ∧ (solverUnload s slot).sec = s.sec ∧ (solverUnload s slot).hw = s.hw ∧ (solverUnload s slot).nor = s.nor ∧ (solverUnload s slot).freeCount = s.freeCount := by
  have fr1 := @setSlot_frame; have fr2 := @endRun_frame
  unfold solverUnload
  simp [fr1, fr2]

theorem analysisDone_frame (s : State) (slot : ℕ) :
    (analysisDone s slot).mode = s.mode ∧ (analysisDone s slot).start = s.start ∧ (analysisDone s slot).zewen = s.zewen ∧ (analysisDone s slot).writes = s.writes ∧ (analysisDone s slot).image = s.image ∧ (analysisDone s slot).reg = s.reg ∧ (analysisDone s slot).objs = s.objs ∧ (analysisDone s slot).herd = s.herd ∧ (analysisDone s slot).aon = s.aon ∧ (analysisDone s slot).net = s.net ∧ (analysisDone s slot).plan = s.plan ∧ (analysisDone s slot).piste = s.piste ∧ (analysisDone s slot).prof = s.prof ∧ (analysisDone s slot).ctl = s.ctl ∧ (analysisDone s slot).sched = s.sched ∧ (analysisDone s slot).dsp = s.dsp ∧ (analysisDone s slot).sep = s.sep ∧ (analysisDone s slot).safety = s.safety ∧ (analysisDone s slot).cham = s.cham ∧ (analysisDone s slot).field = s.field ∧ (analysisDone s slot).acq = s.acq ∧ (analysisDone s slot).logs = s.logs ∧ (analysisDone s slot).clocks = s.clocks ∧ (analysisDone s slot).power = s.power ∧ (analysisDone s slot).pair = s.pair ∧ (analysisDone s slot).sec = s.sec ∧ (analysisDone s slot).hw = s.hw ∧ (analysisDone s slot).nor = s.nor ∧ (analysisDone s slot).freeCount = s.freeCount := by
  have fr1 := @setSlot_frame
  unfold analysisDone
  dsimp only
  (repeat' split) <;> simp [fr1]

theorem solverDelta_frame (s : State) (slot : ℕ) (bs : Bytes) :
    (solverDelta s slot bs).mode = s.mode ∧ (solverDelta s slot bs).start = s.start ∧ (solverDelta s slot bs).zewen = s.zewen ∧ (solverDelta s slot bs).writes = s.writes ∧ (solverDelta s slot bs).image = s.image ∧ (solverDelta s slot bs).reg = s.reg ∧ (solverDelta s slot bs).objs = s.objs ∧ (solverDelta s slot bs).herd = s.herd ∧ (solverDelta s slot bs).aon = s.aon ∧ (solverDelta s slot bs).net = s.net ∧ (solverDelta s slot bs).plan = s.plan ∧ (solverDelta s slot bs).piste = s.piste ∧ (solverDelta s slot bs).prof = s.prof ∧ (solverDelta s slot bs).ctl = s.ctl ∧ (solverDelta s slot bs).sched = s.sched ∧ (solverDelta s slot bs).dsp = s.dsp ∧ (solverDelta s slot bs).sep = s.sep ∧ (solverDelta s slot bs).safety = s.safety ∧ (solverDelta s slot bs).cham = s.cham ∧ (solverDelta s slot bs).field = s.field ∧ (solverDelta s slot bs).acq = s.acq ∧ (solverDelta s slot bs).logs = s.logs ∧ (solverDelta s slot bs).clocks = s.clocks ∧ (solverDelta s slot bs).power = s.power ∧ (solverDelta s slot bs).pair = s.pair ∧ (solverDelta s slot bs).sec = s.sec ∧ (solverDelta s slot bs).hw = s.hw ∧ (solverDelta s slot bs).nor = s.nor ∧ (solverDelta s slot bs).freeCount = s.freeCount := by
  have fr1 := @setSlot_frame
  unfold solverDelta
  simp [fr1]

theorem stopCurrent_frame (s : State) (code : ℕ) (guard : Bool) :
    (stopCurrent s code guard).mode = s.mode ∧ (stopCurrent s code guard).start = s.start ∧ (stopCurrent s code guard).zewen = s.zewen ∧ (stopCurrent s code guard).writes = s.writes ∧ (stopCurrent s code guard).image = s.image ∧ (stopCurrent s code guard).reg = s.reg ∧ (stopCurrent s code guard).objs = s.objs ∧ (stopCurrent s code guard).herd = s.herd ∧ (stopCurrent s code guard).aon = s.aon ∧ (stopCurrent s code guard).net = s.net ∧ (stopCurrent s code guard).plan = s.plan ∧ (stopCurrent s code guard).piste = s.piste ∧ (stopCurrent s code guard).prof = s.prof ∧ (stopCurrent s code guard).ctl = s.ctl ∧ (stopCurrent s code guard).sched = s.sched ∧ (stopCurrent s code guard).dsp = s.dsp ∧ (stopCurrent s code guard).sep = s.sep ∧ (stopCurrent s code guard).safety = s.safety ∧ (stopCurrent s code guard).cham = s.cham ∧ (stopCurrent s code guard).field = s.field ∧ (stopCurrent s code guard).acq = s.acq ∧ (stopCurrent s code guard).logs = s.logs ∧ (stopCurrent s code guard).clocks = s.clocks ∧ (stopCurrent s code guard).power = s.power ∧ (stopCurrent s code guard).pair = s.pair ∧ (stopCurrent s code guard).sec = s.sec ∧ (stopCurrent s code guard).hw = s.hw ∧ (stopCurrent s code guard).nor = s.nor ∧ (stopCurrent s code guard).freeCount = s.freeCount := by
  have fr1 := @withSolver_frame
  unfold stopCurrent
  simp [fr1]

theorem runsIsolated_frame (s : State) :
    (runsIsolated s).mode = s.mode ∧ (runsIsolated s).start = s.start ∧ (runsIsolated s).zewen = s.zewen ∧ (runsIsolated s).writes = s.writes ∧ (runsIsolated s).image = s.image ∧ (runsIsolated s).reg = s.reg ∧ (runsIsolated s).objs = s.objs ∧ (runsIsolated s).herd = s.herd ∧ (runsIsolated s).aon = s.aon ∧ (runsIsolated s).net = s.net ∧ (runsIsolated s).plan = s.plan ∧ (runsIsolated s).piste = s.piste ∧ (runsIsolated s).prof = s.prof ∧ (runsIsolated s).ctl = s.ctl ∧ (runsIsolated s).sched = s.sched ∧ (runsIsolated s).dsp = s.dsp ∧ (runsIsolated s).sep = s.sep ∧ (runsIsolated s).safety = s.safety ∧ (runsIsolated s).cham = s.cham ∧ (runsIsolated s).field = s.field ∧ (runsIsolated s).acq = s.acq ∧ (runsIsolated s).logs = s.logs ∧ (runsIsolated s).clocks = s.clocks ∧ (runsIsolated s).power = s.power ∧ (runsIsolated s).pair = s.pair ∧ (runsIsolated s).sec = s.sec ∧ (runsIsolated s).hw = s.hw ∧ (runsIsolated s).nor = s.nor ∧ (runsIsolated s).freeCount = s.freeCount := by
  have fr1 := @withSolver_frame
  unfold runsIsolated
  simp [fr1]

theorem recordFactor_frame (s : State) (slot : ℕ) (k : KktMatrix) (fs : List FactorColumn) :
    (recordFactor s slot k fs).mode = s.mode ∧ (recordFactor s slot k fs).start = s.start ∧ (recordFactor s slot k fs).zewen = s.zewen ∧ (recordFactor s slot k fs).writes = s.writes ∧ (recordFactor s slot k fs).image = s.image ∧ (recordFactor s slot k fs).reg = s.reg ∧ (recordFactor s slot k fs).objs = s.objs ∧ (recordFactor s slot k fs).herd = s.herd ∧ (recordFactor s slot k fs).aon = s.aon ∧ (recordFactor s slot k fs).net = s.net ∧ (recordFactor s slot k fs).plan = s.plan ∧ (recordFactor s slot k fs).piste = s.piste ∧ (recordFactor s slot k fs).prof = s.prof ∧ (recordFactor s slot k fs).ctl = s.ctl ∧ (recordFactor s slot k fs).sched = s.sched ∧ (recordFactor s slot k fs).dsp = s.dsp ∧ (recordFactor s slot k fs).sep = s.sep ∧ (recordFactor s slot k fs).safety = s.safety ∧ (recordFactor s slot k fs).cham = s.cham ∧ (recordFactor s slot k fs).field = s.field ∧ (recordFactor s slot k fs).acq = s.acq ∧ (recordFactor s slot k fs).logs = s.logs ∧ (recordFactor s slot k fs).clocks = s.clocks ∧ (recordFactor s slot k fs).power = s.power ∧ (recordFactor s slot k fs).pair = s.pair ∧ (recordFactor s slot k fs).sec = s.sec ∧ (recordFactor s slot k fs).hw = s.hw ∧ (recordFactor s slot k fs).nor = s.nor ∧ (recordFactor s slot k fs).freeCount = s.freeCount := by
  have fr1 := @setSlot_frame
  unfold recordFactor
  simp [fr1]

theorem iterationZero_frame (s : State) (st : Structure) (id : ℕ) (r : SolverRun) :
    (iterationZero s st id r).mode = s.mode ∧ (iterationZero s st id r).start = s.start ∧ (iterationZero s st id r).zewen = s.zewen ∧ (iterationZero s st id r).writes = s.writes ∧ (iterationZero s st id r).image = s.image ∧ (iterationZero s st id r).reg = s.reg ∧ (iterationZero s st id r).objs = s.objs ∧ (iterationZero s st id r).herd = s.herd ∧ (iterationZero s st id r).aon = s.aon ∧ (iterationZero s st id r).net = s.net ∧ (iterationZero s st id r).plan = s.plan ∧ (iterationZero s st id r).piste = s.piste ∧ (iterationZero s st id r).prof = s.prof ∧ (iterationZero s st id r).ctl = s.ctl ∧ (iterationZero s st id r).sched = s.sched ∧ (iterationZero s st id r).dsp = s.dsp ∧ (iterationZero s st id r).sep = s.sep ∧ (iterationZero s st id r).safety = s.safety ∧ (iterationZero s st id r).cham = s.cham ∧ (iterationZero s st id r).field = s.field ∧ (iterationZero s st id r).acq = s.acq ∧ (iterationZero s st id r).logs = s.logs ∧ (iterationZero s st id r).clocks = s.clocks ∧ (iterationZero s st id r).power = s.power ∧ (iterationZero s st id r).pair = s.pair ∧ (iterationZero s st id r).sec = s.sec ∧ (iterationZero s st id r).hw = s.hw ∧ (iterationZero s st id r).nor = s.nor ∧ (iterationZero s st id r).freeCount = s.freeCount := by
  have fr1 := @withSolver_frame; have fr2 := @stopCurrent_frame
  unfold iterationZero
  dsimp only
  (repeat' split) <;> simp [fr1, fr2]

theorem startRun_frame (s : State) (r0 : SolverRun) :
    (startRun s r0).mode = s.mode ∧ (startRun s r0).start = s.start ∧ (startRun s r0).zewen = s.zewen ∧ (startRun s r0).writes = s.writes ∧ (startRun s r0).image = s.image ∧ (startRun s r0).reg = s.reg ∧ (startRun s r0).objs = s.objs ∧ (startRun s r0).herd = s.herd ∧ (startRun s r0).aon = s.aon ∧ (startRun s r0).net = s.net ∧ (startRun s r0).plan = s.plan ∧ (startRun s r0).piste = s.piste ∧ (startRun s r0).prof = s.prof ∧ (startRun s r0).ctl = s.ctl ∧ (startRun s r0).sched = s.sched ∧ (startRun s r0).dsp = s.dsp ∧ (startRun s r0).sep = s.sep ∧ (startRun s r0).safety = s.safety ∧ (startRun s r0).cham = s.cham ∧ (startRun s r0).field = s.field ∧ (startRun s r0).acq = s.acq ∧ (startRun s r0).logs = s.logs ∧ (startRun s r0).clocks = s.clocks ∧ (startRun s r0).power = s.power ∧ (startRun s r0).pair = s.pair ∧ (startRun s r0).sec = s.sec ∧ (startRun s r0).hw = s.hw ∧ (startRun s r0).nor = s.nor ∧ (startRun s r0).freeCount = s.freeCount := by
  have fr1 := @withSolver_frame; have fr2 := @setSlot_frame; have fr3 := @iterationZero_frame
  unfold startRun
  dsimp only
  (repeat' split) <;> simp [fr1, fr2, fr3]

theorem startNext_frame (s : State) :
    (startNext s).mode = s.mode ∧ (startNext s).start = s.start ∧ (startNext s).zewen = s.zewen ∧ (startNext s).writes = s.writes ∧ (startNext s).image = s.image ∧ (startNext s).reg = s.reg ∧ (startNext s).objs = s.objs ∧ (startNext s).herd = s.herd ∧ (startNext s).aon = s.aon ∧ (startNext s).net = s.net ∧ (startNext s).plan = s.plan ∧ (startNext s).piste = s.piste ∧ (startNext s).prof = s.prof ∧ (startNext s).ctl = s.ctl ∧ (startNext s).sched = s.sched ∧ (startNext s).dsp = s.dsp ∧ (startNext s).sep = s.sep ∧ (startNext s).safety = s.safety ∧ (startNext s).cham = s.cham ∧ (startNext s).field = s.field ∧ (startNext s).acq = s.acq ∧ (startNext s).logs = s.logs ∧ (startNext s).clocks = s.clocks ∧ (startNext s).power = s.power ∧ (startNext s).pair = s.pair ∧ (startNext s).sec = s.sec ∧ (startNext s).hw = s.hw ∧ (startNext s).nor = s.nor ∧ (startNext s).freeCount = s.freeCount := by
  have fr1 := @startRun_frame; have fr2 := @withSolver_frame
  unfold startNext
  split <;> simp [fr1, fr2]

theorem solverRun_frame (s : State) (slot : ℕ) (bs : Bytes) :
    (solverRun s slot bs).mode = s.mode ∧ (solverRun s slot bs).start = s.start ∧ (solverRun s slot bs).zewen = s.zewen ∧ (solverRun s slot bs).writes = s.writes ∧ (solverRun s slot bs).image = s.image ∧ (solverRun s slot bs).reg = s.reg ∧ (solverRun s slot bs).objs = s.objs ∧ (solverRun s slot bs).herd = s.herd ∧ (solverRun s slot bs).aon = s.aon ∧ (solverRun s slot bs).net = s.net ∧ (solverRun s slot bs).plan = s.plan ∧ (solverRun s slot bs).piste = s.piste ∧ (solverRun s slot bs).prof = s.prof ∧ (solverRun s slot bs).ctl = s.ctl ∧ (solverRun s slot bs).sched = s.sched ∧ (solverRun s slot bs).dsp = s.dsp ∧ (solverRun s slot bs).sep = s.sep ∧ (solverRun s slot bs).safety = s.safety ∧ (solverRun s slot bs).cham = s.cham ∧ (solverRun s slot bs).field = s.field ∧ (solverRun s slot bs).acq = s.acq ∧ (solverRun s slot bs).logs = s.logs ∧ (solverRun s slot bs).clocks = s.clocks ∧ (solverRun s slot bs).power = s.power ∧ (solverRun s slot bs).pair = s.pair ∧ (solverRun s slot bs).sec = s.sec ∧ (solverRun s slot bs).hw = s.hw ∧ (solverRun s slot bs).nor = s.nor ∧ (solverRun s slot bs).freeCount = s.freeCount := by
  have fr1 := @abortRun_frame; have fr2 := @withSolver_frame; have fr3 := @startRun_frame
  unfold solverRun
  (repeat' split) <;> simp [fr1, fr2, fr3]

theorem startPlanner_frame (s : State) (slot : ℕ) (deadline : ℕ) :
    (startPlanner s slot deadline).mode = s.mode ∧ (startPlanner s slot deadline).start = s.start ∧ (startPlanner s slot deadline).zewen = s.zewen ∧ (startPlanner s slot deadline).writes = s.writes ∧ (startPlanner s slot deadline).image = s.image ∧ (startPlanner s slot deadline).reg = s.reg ∧ (startPlanner s slot deadline).herd = s.herd ∧ (startPlanner s slot deadline).aon = s.aon ∧ (startPlanner s slot deadline).net = s.net ∧ (startPlanner s slot deadline).plan = s.plan ∧ (startPlanner s slot deadline).piste = s.piste ∧ (startPlanner s slot deadline).prof = s.prof ∧ (startPlanner s slot deadline).ctl = s.ctl ∧ (startPlanner s slot deadline).sched = s.sched ∧ (startPlanner s slot deadline).dsp = s.dsp ∧ (startPlanner s slot deadline).sep = s.sep ∧ (startPlanner s slot deadline).safety = s.safety ∧ (startPlanner s slot deadline).cham = s.cham ∧ (startPlanner s slot deadline).field = s.field ∧ (startPlanner s slot deadline).acq = s.acq ∧ (startPlanner s slot deadline).logs = s.logs ∧ (startPlanner s slot deadline).clocks = s.clocks ∧ (startPlanner s slot deadline).power = s.power ∧ (startPlanner s slot deadline).pair = s.pair ∧ (startPlanner s slot deadline).sec = s.sec ∧ (startPlanner s slot deadline).hw = s.hw ∧ (startPlanner s slot deadline).nor = s.nor := by
  have fr1 := @startRun_frame; have fr2 := @withSolver_frame; have fr3 := @bump_frame
  unfold startPlanner
  split <;> simp [fr1, fr2, fr3]

theorem iterationEnd_frame (s : State) (factorNs : ℕ) :
    (iterationEnd s factorNs).mode = s.mode ∧ (iterationEnd s factorNs).start = s.start ∧ (iterationEnd s factorNs).zewen = s.zewen ∧ (iterationEnd s factorNs).writes = s.writes ∧ (iterationEnd s factorNs).image = s.image ∧ (iterationEnd s factorNs).reg = s.reg ∧ (iterationEnd s factorNs).objs = s.objs ∧ (iterationEnd s factorNs).herd = s.herd ∧ (iterationEnd s factorNs).aon = s.aon ∧ (iterationEnd s factorNs).net = s.net ∧ (iterationEnd s factorNs).plan = s.plan ∧ (iterationEnd s factorNs).piste = s.piste ∧ (iterationEnd s factorNs).prof = s.prof ∧ (iterationEnd s factorNs).ctl = s.ctl ∧ (iterationEnd s factorNs).sched = s.sched ∧ (iterationEnd s factorNs).dsp = s.dsp ∧ (iterationEnd s factorNs).sep = s.sep ∧ (iterationEnd s factorNs).safety = s.safety ∧ (iterationEnd s factorNs).cham = s.cham ∧ (iterationEnd s factorNs).field = s.field ∧ (iterationEnd s factorNs).acq = s.acq ∧ (iterationEnd s factorNs).logs = s.logs ∧ (iterationEnd s factorNs).clocks = s.clocks ∧ (iterationEnd s factorNs).power = s.power ∧ (iterationEnd s factorNs).pair = s.pair ∧ (iterationEnd s factorNs).sec = s.sec ∧ (iterationEnd s factorNs).hw = s.hw ∧ (iterationEnd s factorNs).nor = s.nor ∧ (iterationEnd s factorNs).freeCount = s.freeCount := by
  have fr1 := @stopCurrent_frame; have fr2 := @withSolver_frame; have fr3 := @recordFactor_frame; have fr4 := @setSlot_frame
  unfold iterationEnd
  dsimp only
  (repeat' split) <;> simp [fr1, fr2, fr3, fr4]

theorem solveDeadline_frame (s : State) (inFactor : Bool) (suspended : Bool) :
    (solveDeadline s inFactor suspended).mode = s.mode ∧ (solveDeadline s inFactor suspended).start = s.start ∧ (solveDeadline s inFactor suspended).zewen = s.zewen ∧ (solveDeadline s inFactor suspended).writes = s.writes ∧ (solveDeadline s inFactor suspended).image = s.image ∧ (solveDeadline s inFactor suspended).reg = s.reg ∧ (solveDeadline s inFactor suspended).objs = s.objs ∧ (solveDeadline s inFactor suspended).herd = s.herd ∧ (solveDeadline s inFactor suspended).aon = s.aon ∧ (solveDeadline s inFactor suspended).net = s.net ∧ (solveDeadline s inFactor suspended).plan = s.plan ∧ (solveDeadline s inFactor suspended).piste = s.piste ∧ (solveDeadline s inFactor suspended).prof = s.prof ∧ (solveDeadline s inFactor suspended).ctl = s.ctl ∧ (solveDeadline s inFactor suspended).sched = s.sched ∧ (solveDeadline s inFactor suspended).dsp = s.dsp ∧ (solveDeadline s inFactor suspended).sep = s.sep ∧ (solveDeadline s inFactor suspended).safety = s.safety ∧ (solveDeadline s inFactor suspended).cham = s.cham ∧ (solveDeadline s inFactor suspended).field = s.field ∧ (solveDeadline s inFactor suspended).acq = s.acq ∧ (solveDeadline s inFactor suspended).logs = s.logs ∧ (solveDeadline s inFactor suspended).clocks = s.clocks ∧ (solveDeadline s inFactor suspended).power = s.power ∧ (solveDeadline s inFactor suspended).pair = s.pair ∧ (solveDeadline s inFactor suspended).sec = s.sec ∧ (solveDeadline s inFactor suspended).hw = s.hw ∧ (solveDeadline s inFactor suspended).nor = s.nor ∧ (solveDeadline s inFactor suspended).freeCount = s.freeCount := by
  have fr1 := @withSolver_frame; have fr2 := @recordFactor_frame
  unfold solveDeadline
  (repeat' split) <;> simp [fr1, fr2]

theorem hostResume_frame (s : State) :
    (hostResume s).mode = s.mode ∧ (hostResume s).start = s.start ∧ (hostResume s).zewen = s.zewen ∧ (hostResume s).writes = s.writes ∧ (hostResume s).image = s.image ∧ (hostResume s).reg = s.reg ∧ (hostResume s).objs = s.objs ∧ (hostResume s).herd = s.herd ∧ (hostResume s).aon = s.aon ∧ (hostResume s).net = s.net ∧ (hostResume s).plan = s.plan ∧ (hostResume s).piste = s.piste ∧ (hostResume s).prof = s.prof ∧ (hostResume s).ctl = s.ctl ∧ (hostResume s).sched = s.sched ∧ (hostResume s).dsp = s.dsp ∧ (hostResume s).sep = s.sep ∧ (hostResume s).safety = s.safety ∧ (hostResume s).cham = s.cham ∧ (hostResume s).field = s.field ∧ (hostResume s).acq = s.acq ∧ (hostResume s).logs = s.logs ∧ (hostResume s).clocks = s.clocks ∧ (hostResume s).power = s.power ∧ (hostResume s).pair = s.pair ∧ (hostResume s).sec = s.sec ∧ (hostResume s).hw = s.hw ∧ (hostResume s).nor = s.nor ∧ (hostResume s).freeCount = s.freeCount := by
  have fr1 := @withSolver_frame
  unfold hostResume
  split <;> simp [fr1]

theorem plainWork_frame (s : State) (r : SolverRun) :
    ((plainWork s r).1).mode = s.mode ∧ ((plainWork s r).1).start = s.start ∧ ((plainWork s r).1).zewen = s.zewen ∧ ((plainWork s r).1).writes = s.writes ∧ ((plainWork s r).1).image = s.image ∧ ((plainWork s r).1).reg = s.reg ∧ ((plainWork s r).1).objs = s.objs ∧ ((plainWork s r).1).herd = s.herd ∧ ((plainWork s r).1).aon = s.aon ∧ ((plainWork s r).1).net = s.net ∧ ((plainWork s r).1).plan = s.plan ∧ ((plainWork s r).1).piste = s.piste ∧ ((plainWork s r).1).prof = s.prof ∧ ((plainWork s r).1).ctl = s.ctl ∧ ((plainWork s r).1).sched = s.sched ∧ ((plainWork s r).1).dsp = s.dsp ∧ ((plainWork s r).1).sep = s.sep ∧ ((plainWork s r).1).safety = s.safety ∧ ((plainWork s r).1).cham = s.cham ∧ ((plainWork s r).1).field = s.field ∧ ((plainWork s r).1).acq = s.acq ∧ ((plainWork s r).1).logs = s.logs ∧ ((plainWork s r).1).clocks = s.clocks ∧ ((plainWork s r).1).power = s.power ∧ ((plainWork s r).1).pair = s.pair ∧ ((plainWork s r).1).sec = s.sec ∧ ((plainWork s r).1).hw = s.hw ∧ ((plainWork s r).1).nor = s.nor := by
  have fr1 := @recordFactor_frame; have fr2 := @setSlot_frame
  unfold plainWork
  dsimp only
  (repeat' split) <;> simp [fr1, fr2]

theorem solverDone_frame (s : State) (slot : ℕ) :
    (solverDone s slot).mode = s.mode ∧ (solverDone s slot).start = s.start ∧ (solverDone s slot).writes = s.writes ∧ (solverDone s slot).image = s.image ∧ (solverDone s slot).objs = s.objs ∧ (solverDone s slot).herd = s.herd ∧ (solverDone s slot).aon = s.aon ∧ (solverDone s slot).net = s.net ∧ (solverDone s slot).plan = s.plan ∧ (solverDone s slot).solver = s.solver ∧ (solverDone s slot).piste = s.piste ∧ (solverDone s slot).prof = s.prof ∧ (solverDone s slot).ctl = s.ctl ∧ (solverDone s slot).sched = s.sched ∧ (solverDone s slot).dsp = s.dsp ∧ (solverDone s slot).sep = s.sep ∧ (solverDone s slot).safety = s.safety ∧ (solverDone s slot).cham = s.cham ∧ (solverDone s slot).field = s.field ∧ (solverDone s slot).acq = s.acq ∧ (solverDone s slot).logs = s.logs ∧ (solverDone s slot).clocks = s.clocks ∧ (solverDone s slot).power = s.power ∧ (solverDone s slot).pair = s.pair ∧ (solverDone s slot).sec = s.sec ∧ (solverDone s slot).hw = s.hw ∧ (solverDone s slot).nor = s.nor ∧ (solverDone s slot).freeCount = s.freeCount := by
  have fr1 := @withFresh_frame; have fr2 := @setInt_frame
  unfold solverDone
  simp [fr1, fr2]

theorem runEnd_frame (s : State) (slot : ℕ) :
    (runEnd s slot).mode = s.mode ∧ (runEnd s slot).start = s.start ∧ (runEnd s slot).writes = s.writes ∧ (runEnd s slot).image = s.image ∧ (runEnd s slot).herd = s.herd ∧ (runEnd s slot).aon = s.aon ∧ (runEnd s slot).net = s.net ∧ (runEnd s slot).piste = s.piste ∧ (runEnd s slot).prof = s.prof ∧ (runEnd s slot).ctl = s.ctl ∧ (runEnd s slot).sched = s.sched ∧ (runEnd s slot).dsp = s.dsp ∧ (runEnd s slot).sep = s.sep ∧ (runEnd s slot).safety = s.safety ∧ (runEnd s slot).cham = s.cham ∧ (runEnd s slot).field = s.field ∧ (runEnd s slot).clocks = s.clocks ∧ (runEnd s slot).power = s.power ∧ (runEnd s slot).pair = s.pair ∧ (runEnd s slot).sec = s.sec ∧ (runEnd s slot).hw = s.hw ∧ (runEnd s slot).nor = s.nor := by
  have fr1 := @plainWork_frame; have fr2 := @setSlot_frame; have fr3 := @withSolver_frame; have fr4 := @bump_frame; have fr5 := @solverDone_frame; have fr6 := @settleRuns_frame; have fr7 := @startNext_frame
  unfold runEnd
  dsimp only
  split <;> simp [fr1, fr2, fr3, fr4, fr5, fr6, fr7]

/-! ### Records -/

theorem countDenied_frame (s : State) :
    (countDenied s).mode = s.mode ∧ (countDenied s).start = s.start ∧ (countDenied s).writes = s.writes ∧ (countDenied s).image = s.image ∧ (countDenied s).reg = s.reg ∧ (countDenied s).objs = s.objs ∧ (countDenied s).herd = s.herd ∧ (countDenied s).aon = s.aon ∧ (countDenied s).net = s.net ∧ (countDenied s).plan = s.plan ∧ (countDenied s).solver = s.solver ∧ (countDenied s).piste = s.piste ∧ (countDenied s).prof = s.prof ∧ (countDenied s).ctl = s.ctl ∧ (countDenied s).sched = s.sched ∧ (countDenied s).dsp = s.dsp ∧ (countDenied s).sep = s.sep ∧ (countDenied s).safety = s.safety ∧ (countDenied s).cham = s.cham ∧ (countDenied s).field = s.field ∧ (countDenied s).acq = s.acq ∧ (countDenied s).logs = s.logs ∧ (countDenied s).clocks = s.clocks ∧ (countDenied s).power = s.power ∧ (countDenied s).pair = s.pair ∧ (countDenied s).sec = s.sec ∧ (countDenied s).hw = s.hw ∧ (countDenied s).nor = s.nor ∧ (countDenied s).freeCount = s.freeCount := by
  unfold countDenied
  simp

theorem actionOf_frame (s : State) (r : WriteRecord) {t : State} (h : actionOf s r = some t) :
    (t).start = s.start ∧ (t).zewen = s.zewen ∧ (t).writes = s.writes ∧ (t).image = s.image ∧ (t).reg = s.reg ∧ (t).herd = s.herd ∧ (t).aon = s.aon ∧ (t).plan = s.plan ∧ (t).sched = s.sched ∧ (t).sep = s.sep ∧ (t).safety = s.safety ∧ (t).cham = s.cham ∧ (t).acq = s.acq ∧ (t).logs = s.logs ∧ (t).power = s.power ∧ (t).sec = s.sec ∧ (t).hw = s.hw ∧ (t).nor = s.nor ∧ (t).freeCount = s.freeCount := by
  have fr1 := @dspLoad_frame; have fr2 := @dspEnable_frame; have fr3 := @setKernel_frame; have fr4 := @releaseHold_frame; have fr5 := @setChan_frame; have fr6 := @setLoop_frame; have fr7 := @clearFault_frame; have fr8 := @limitWritten_frame; have fr9 := @solverLoad_frame; have fr10 := @solverUnload_frame; have fr11 := @solverDelta_frame; have fr12 := @solverRun_frame; have fr13 := @dynTx_frame; have fr14 := @ringRestore_frame; have fr15 := @armIndex_frame; have fr16 := @clkRestore_frame; have fr17 := @setGate_frame; have fr18 := @pairSwap_frame
  unfold actionOf at h
  dsimp only at h
  repeat' split at h
  all_goals cases h
  all_goals simp [fr1, fr2, fr3, fr4, fr5, fr6, fr7, fr8, fr9, fr10, fr11, fr12, fr13, fr14, fr15, fr16, fr17, fr18]

theorem applyRecord_frame (s : State) (r : WriteRecord) :
    (applyRecord s r).start = s.start ∧ (applyRecord s r).zewen = s.zewen ∧ (applyRecord s r).writes = s.writes ∧ (applyRecord s r).image = s.image ∧ (applyRecord s r).reg = s.reg ∧ (applyRecord s r).herd = s.herd ∧ (applyRecord s r).aon = s.aon ∧ (applyRecord s r).plan = s.plan ∧ (applyRecord s r).sched = s.sched ∧ (applyRecord s r).sep = s.sep ∧ (applyRecord s r).safety = s.safety ∧ (applyRecord s r).cham = s.cham ∧ (applyRecord s r).acq = s.acq ∧ (applyRecord s r).logs = s.logs ∧ (applyRecord s r).power = s.power ∧ (applyRecord s r).sec = s.sec ∧ (applyRecord s r).hw = s.hw ∧ (applyRecord s r).nor = s.nor ∧ (applyRecord s r).freeCount = s.freeCount := by
  unfold applyRecord
  split
  · rename_i h
    exact actionOf_frame s r h
  · simp []

theorem retick_frame (old : State) (s : State) :
    (retick old s).mode = s.mode ∧ (retick old s).start = s.start ∧ (retick old s).zewen = s.zewen ∧ (retick old s).writes = s.writes ∧ (retick old s).image = s.image ∧ (retick old s).reg = s.reg ∧ (retick old s).objs = s.objs ∧ (retick old s).aon = s.aon ∧ (retick old s).plan = s.plan ∧ (retick old s).solver = s.solver ∧ (retick old s).piste = s.piste ∧ (retick old s).prof = s.prof ∧ (retick old s).ctl = s.ctl ∧ (retick old s).sched = s.sched ∧ (retick old s).dsp = s.dsp ∧ (retick old s).sep = s.sep ∧ (retick old s).safety = s.safety ∧ (retick old s).cham = s.cham ∧ (retick old s).field = s.field ∧ (retick old s).acq = s.acq ∧ (retick old s).logs = s.logs ∧ (retick old s).clocks = s.clocks ∧ (retick old s).power = s.power ∧ (retick old s).pair = s.pair ∧ (retick old s).sec = s.sec ∧ (retick old s).hw = s.hw ∧ (retick old s).nor = s.nor ∧ (retick old s).freeCount = s.freeCount := by
  have fr1 := @setCycle_frame
  unfold retick
  simp [fr1]

theorem applyRecords_frame (s : State) (rs : List WriteRecord) :
    (applyRecords s rs).start = s.start ∧ (applyRecords s rs).writes = s.writes ∧ (applyRecords s rs).image = s.image ∧ (applyRecords s rs).aon = s.aon ∧ (applyRecords s rs).plan = s.plan ∧ (applyRecords s rs).sched = s.sched ∧ (applyRecords s rs).sep = s.sep ∧ (applyRecords s rs).safety = s.safety ∧ (applyRecords s rs).cham = s.cham ∧ (applyRecords s rs).power = s.power ∧ (applyRecords s rs).sec = s.sec ∧ (applyRecords s rs).hw = s.hw ∧ (applyRecords s rs).nor = s.nor := by
  have fr1 := @applyRecord_frame; have fr2 := @retime_frame; have fr3 := @driveOutputs_frame; have fr4 := @clkoutFollow_frame; have fr5 := @retick_frame
  unfold applyRecords
  simp [fr1, fr2, fr3, fr4, fr5]

/-! ### Planner -/

theorem withPlan_frame (s : State) (f : PlanState → PlanState) :
    (withPlan s f).mode = s.mode ∧ (withPlan s f).start = s.start ∧ (withPlan s f).zewen = s.zewen ∧ (withPlan s f).writes = s.writes ∧ (withPlan s f).image = s.image ∧ (withPlan s f).reg = s.reg ∧ (withPlan s f).objs = s.objs ∧ (withPlan s f).herd = s.herd ∧ (withPlan s f).aon = s.aon ∧ (withPlan s f).net = s.net ∧ (withPlan s f).solver = s.solver ∧ (withPlan s f).piste = s.piste ∧ (withPlan s f).prof = s.prof ∧ (withPlan s f).ctl = s.ctl ∧ (withPlan s f).sched = s.sched ∧ (withPlan s f).dsp = s.dsp ∧ (withPlan s f).sep = s.sep ∧ (withPlan s f).safety = s.safety ∧ (withPlan s f).cham = s.cham ∧ (withPlan s f).field = s.field ∧ (withPlan s f).acq = s.acq ∧ (withPlan s f).logs = s.logs ∧ (withPlan s f).clocks = s.clocks ∧ (withPlan s f).power = s.power ∧ (withPlan s f).pair = s.pair ∧ (withPlan s f).sec = s.sec ∧ (withPlan s f).hw = s.hw ∧ (withPlan s f).nor = s.nor ∧ (withPlan s f).freeCount = s.freeCount := by
  unfold withPlan
  simp

theorem planFails_frame (s : State) (code : ℕ) :
    (planFails s code).mode = s.mode ∧ (planFails s code).start = s.start ∧ (planFails s code).writes = s.writes ∧ (planFails s code).image = s.image ∧ (planFails s code).herd = s.herd ∧ (planFails s code).aon = s.aon ∧ (planFails s code).net = s.net ∧ (planFails s code).solver = s.solver ∧ (planFails s code).piste = s.piste ∧ (planFails s code).prof = s.prof ∧ (planFails s code).ctl = s.ctl ∧ (planFails s code).sched = s.sched ∧ (planFails s code).dsp = s.dsp ∧ (planFails s code).sep = s.sep ∧ (planFails s code).safety = s.safety ∧ (planFails s code).cham = s.cham ∧ (planFails s code).field = s.field ∧ (planFails s code).clocks = s.clocks ∧ (planFails s code).power = s.power ∧ (planFails s code).pair = s.pair ∧ (planFails s code).sec = s.sec ∧ (planFails s code).hw = s.hw ∧ (planFails s code).nor = s.nor := by
  have fr1 := @bumpAt_frame; have fr2 := @bump_frame; have fr3 := @withPlan_frame; have fr4 := @trace_frame; have fr5 := @log_frame
  unfold planFails
  simp [fr1, fr2, fr3, fr4, fr5]

theorem planSucceeds_frame (s : State) :
    (planSucceeds s).mode = s.mode ∧ (planSucceeds s).start = s.start ∧ (planSucceeds s).writes = s.writes ∧ (planSucceeds s).image = s.image ∧ (planSucceeds s).herd = s.herd ∧ (planSucceeds s).aon = s.aon ∧ (planSucceeds s).net = s.net ∧ (planSucceeds s).solver = s.solver ∧ (planSucceeds s).piste = s.piste ∧ (planSucceeds s).prof = s.prof ∧ (planSucceeds s).ctl = s.ctl ∧ (planSucceeds s).sched = s.sched ∧ (planSucceeds s).dsp = s.dsp ∧ (planSucceeds s).sep = s.sep ∧ (planSucceeds s).safety = s.safety ∧ (planSucceeds s).cham = s.cham ∧ (planSucceeds s).field = s.field ∧ (planSucceeds s).clocks = s.clocks ∧ (planSucceeds s).power = s.power ∧ (planSucceeds s).pair = s.pair ∧ (planSucceeds s).sec = s.sec ∧ (planSucceeds s).hw = s.hw ∧ (planSucceeds s).nor = s.nor := by
  have fr1 := @trace_frame; have fr2 := @withPlan_frame; have fr3 := @bump_frame
  unfold planSucceeds
  simp [fr1, fr2, fr3]

theorem takePath_frame (snap : Snapshot) (s : State) (w : PathWait) :
    (takePath snap s w).mode = s.mode ∧ (takePath snap s w).start = s.start ∧ (takePath snap s w).writes = s.writes ∧ (takePath snap s w).image = s.image ∧ (takePath snap s w).herd = s.herd ∧ (takePath snap s w).aon = s.aon ∧ (takePath snap s w).net = s.net ∧ (takePath snap s w).solver = s.solver ∧ (takePath snap s w).piste = s.piste ∧ (takePath snap s w).prof = s.prof ∧ (takePath snap s w).ctl = s.ctl ∧ (takePath snap s w).sched = s.sched ∧ (takePath snap s w).dsp = s.dsp ∧ (takePath snap s w).sep = s.sep ∧ (takePath snap s w).safety = s.safety ∧ (takePath snap s w).cham = s.cham ∧ (takePath snap s w).field = s.field ∧ (takePath snap s w).clocks = s.clocks ∧ (takePath snap s w).power = s.power ∧ (takePath snap s w).pair = s.pair ∧ (takePath snap s w).sec = s.sec ∧ (takePath snap s w).hw = s.hw ∧ (takePath snap s w).nor = s.nor := by
  have fr1 := @setArmPlan_frame; have fr2 := @complete_frame
  unfold takePath
  simp [fr1, fr2]

theorem plannerSnapshot_frame (s : State) :
    (plannerSnapshot s).mode = s.mode ∧ (plannerSnapshot s).start = s.start ∧ (plannerSnapshot s).writes = s.writes ∧ (plannerSnapshot s).image = s.image ∧ (plannerSnapshot s).herd = s.herd ∧ (plannerSnapshot s).aon = s.aon ∧ (plannerSnapshot s).net = s.net ∧ (plannerSnapshot s).solver = s.solver ∧ (plannerSnapshot s).piste = s.piste ∧ (plannerSnapshot s).prof = s.prof ∧ (plannerSnapshot s).ctl = s.ctl ∧ (plannerSnapshot s).sched = s.sched ∧ (plannerSnapshot s).dsp = s.dsp ∧ (plannerSnapshot s).sep = s.sep ∧ (plannerSnapshot s).safety = s.safety ∧ (plannerSnapshot s).cham = s.cham ∧ (plannerSnapshot s).field = s.field ∧ (plannerSnapshot s).clocks = s.clocks ∧ (plannerSnapshot s).power = s.power ∧ (plannerSnapshot s).pair = s.pair ∧ (plannerSnapshot s).sec = s.sec ∧ (plannerSnapshot s).hw = s.hw ∧ (plannerSnapshot s).nor = s.nor := by
  have fr1 := @setArmPlan_frame; have fr2 := @takePath_frame; have fr3 := @withPlan_frame
  unfold plannerSnapshot
  simp [fr1, fr2, fr3]

theorem plannerPost_frame (s : State) :
    (plannerPost s).mode = s.mode ∧ (plannerPost s).start = s.start ∧ (plannerPost s).writes = s.writes ∧ (plannerPost s).image = s.image ∧ (plannerPost s).herd = s.herd ∧ (plannerPost s).aon = s.aon ∧ (plannerPost s).net = s.net ∧ (plannerPost s).piste = s.piste ∧ (plannerPost s).prof = s.prof ∧ (plannerPost s).ctl = s.ctl ∧ (plannerPost s).sched = s.sched ∧ (plannerPost s).dsp = s.dsp ∧ (plannerPost s).sep = s.sep ∧ (plannerPost s).safety = s.safety ∧ (plannerPost s).cham = s.cham ∧ (plannerPost s).field = s.field ∧ (plannerPost s).clocks = s.clocks ∧ (plannerPost s).power = s.power ∧ (plannerPost s).pair = s.pair ∧ (plannerPost s).sec = s.sec ∧ (plannerPost s).hw = s.hw ∧ (plannerPost s).nor = s.nor := by
  have fr1 := @planFails_frame; have fr2 := @setSlot_frame; have fr3 := @withSolver_frame; have fr4 := @startPlanner_frame; have fr5 := @withPlan_frame
  unfold plannerPost
  split <;> simp [fr1, fr2, fr3, fr4, fr5]

theorem askLeases_frame (snap : Snapshot) (E : ℕ) (s : State) (r : ArmPassed) :
    (askLeases snap E s r).mode = s.mode ∧ (askLeases snap E s r).start = s.start ∧ (askLeases snap E s r).zewen = s.zewen ∧ (askLeases snap E s r).writes = s.writes ∧ (askLeases snap E s r).image = s.image ∧ (askLeases snap E s r).reg = s.reg ∧ (askLeases snap E s r).herd = s.herd ∧ (askLeases snap E s r).aon = s.aon ∧ (askLeases snap E s r).net = s.net ∧ (askLeases snap E s r).plan = s.plan ∧ (askLeases snap E s r).solver = s.solver ∧ (askLeases snap E s r).prof = s.prof ∧ (askLeases snap E s r).ctl = s.ctl ∧ (askLeases snap E s r).sched = s.sched ∧ (askLeases snap E s r).dsp = s.dsp ∧ (askLeases snap E s r).sep = s.sep ∧ (askLeases snap E s r).safety = s.safety ∧ (askLeases snap E s r).cham = s.cham ∧ (askLeases snap E s r).field = s.field ∧ (askLeases snap E s r).acq = s.acq ∧ (askLeases snap E s r).logs = s.logs ∧ (askLeases snap E s r).clocks = s.clocks ∧ (askLeases snap E s r).power = s.power ∧ (askLeases snap E s r).pair = s.pair ∧ (askLeases snap E s r).sec = s.sec ∧ (askLeases snap E s r).hw = s.hw ∧ (askLeases snap E s r).nor = s.nor := by
  have fr1 := @dropPlanner_frame; have fr2 := @plannerRequest_frame; have fr3 := @plannerExtension_frame
  unfold askLeases
  split <;> simp [fr1, fr2, fr3]

theorem planCommits_frame (s : State) (snap : Snapshot) (E : ℕ) (seq : ℕ) (code : ℕ) (rs : List ArmPassed) :
    (planCommits s snap E seq code rs).mode = s.mode ∧ (planCommits s snap E seq code rs).start = s.start ∧ (planCommits s snap E seq code rs).zewen = s.zewen ∧ (planCommits s snap E seq code rs).writes = s.writes ∧ (planCommits s snap E seq code rs).image = s.image ∧ (planCommits s snap E seq code rs).reg = s.reg ∧ (planCommits s snap E seq code rs).herd = s.herd ∧ (planCommits s snap E seq code rs).aon = s.aon ∧ (planCommits s snap E seq code rs).net = s.net ∧ (planCommits s snap E seq code rs).solver = s.solver ∧ (planCommits s snap E seq code rs).prof = s.prof ∧ (planCommits s snap E seq code rs).ctl = s.ctl ∧ (planCommits s snap E seq code rs).sched = s.sched ∧ (planCommits s snap E seq code rs).dsp = s.dsp ∧ (planCommits s snap E seq code rs).sep = s.sep ∧ (planCommits s snap E seq code rs).safety = s.safety ∧ (planCommits s snap E seq code rs).cham = s.cham ∧ (planCommits s snap E seq code rs).field = s.field ∧ (planCommits s snap E seq code rs).acq = s.acq ∧ (planCommits s snap E seq code rs).logs = s.logs ∧ (planCommits s snap E seq code rs).clocks = s.clocks ∧ (planCommits s snap E seq code rs).power = s.power ∧ (planCommits s snap E seq code rs).pair = s.pair ∧ (planCommits s snap E seq code rs).sec = s.sec ∧ (planCommits s snap E seq code rs).hw = s.hw ∧ (planCommits s snap E seq code rs).nor = s.nor := by
  have fr1 := @withPlan_frame; have fr2 := @withPiste_frame; have fr3 := @askLeases_frame; have fr4 := @setArmPlan_frame
  unfold planCommits
  simp [fr1, fr2, fr3, fr4]

theorem commitTest_frame (s : State) :
    (commitTest s).mode = s.mode ∧ (commitTest s).start = s.start ∧ (commitTest s).writes = s.writes ∧ (commitTest s).image = s.image ∧ (commitTest s).herd = s.herd ∧ (commitTest s).aon = s.aon ∧ (commitTest s).net = s.net ∧ (commitTest s).solver = s.solver ∧ (commitTest s).prof = s.prof ∧ (commitTest s).ctl = s.ctl ∧ (commitTest s).sched = s.sched ∧ (commitTest s).dsp = s.dsp ∧ (commitTest s).sep = s.sep ∧ (commitTest s).safety = s.safety ∧ (commitTest s).cham = s.cham ∧ (commitTest s).field = s.field ∧ (commitTest s).clocks = s.clocks ∧ (commitTest s).power = s.power ∧ (commitTest s).pair = s.pair ∧ (commitTest s).sec = s.sec ∧ (commitTest s).hw = s.hw ∧ (commitTest s).nor = s.nor := by
  have fr1 := @planFails_frame; have fr2 := @planCommits_frame
  unfold commitTest
  split <;> simp [fr1, fr2]

theorem pathRequest_frame (e : Entry) (x1 : Transport) (s : State) :
    (pathRequest e x1 s).mode = s.mode ∧ (pathRequest e x1 s).start = s.start ∧ (pathRequest e x1 s).writes = s.writes ∧ (pathRequest e x1 s).image = s.image ∧ (pathRequest e x1 s).herd = s.herd ∧ (pathRequest e x1 s).aon = s.aon ∧ (pathRequest e x1 s).net = s.net ∧ (pathRequest e x1 s).solver = s.solver ∧ (pathRequest e x1 s).piste = s.piste ∧ (pathRequest e x1 s).prof = s.prof ∧ (pathRequest e x1 s).ctl = s.ctl ∧ (pathRequest e x1 s).sched = s.sched ∧ (pathRequest e x1 s).dsp = s.dsp ∧ (pathRequest e x1 s).sep = s.sep ∧ (pathRequest e x1 s).safety = s.safety ∧ (pathRequest e x1 s).cham = s.cham ∧ (pathRequest e x1 s).field = s.field ∧ (pathRequest e x1 s).clocks = s.clocks ∧ (pathRequest e x1 s).power = s.power ∧ (pathRequest e x1 s).pair = s.pair ∧ (pathRequest e x1 s).sec = s.sec ∧ (pathRequest e x1 s).hw = s.hw ∧ (pathRequest e x1 s).nor = s.nor := by
  have fr1 := @complete_frame; have fr2 := @withPlan_frame
  unfold pathRequest
  simp [fr1, fr2]

/-! ### Reset -/

theorem withStart_frame (s : State) (f : StartState → StartState) :
    (withStart s f).mode = s.mode ∧ (withStart s f).zewen = s.zewen ∧ (withStart s f).writes = s.writes ∧ (withStart s f).image = s.image ∧ (withStart s f).reg = s.reg ∧ (withStart s f).objs = s.objs ∧ (withStart s f).herd = s.herd ∧ (withStart s f).aon = s.aon ∧ (withStart s f).net = s.net ∧ (withStart s f).plan = s.plan ∧ (withStart s f).solver = s.solver ∧ (withStart s f).piste = s.piste ∧ (withStart s f).prof = s.prof ∧ (withStart s f).ctl = s.ctl ∧ (withStart s f).sched = s.sched ∧ (withStart s f).dsp = s.dsp ∧ (withStart s f).sep = s.sep ∧ (withStart s f).safety = s.safety ∧ (withStart s f).cham = s.cham ∧ (withStart s f).field = s.field ∧ (withStart s f).acq = s.acq ∧ (withStart s f).logs = s.logs ∧ (withStart s f).clocks = s.clocks ∧ (withStart s f).power = s.power ∧ (withStart s f).pair = s.pair ∧ (withStart s f).sec = s.sec ∧ (withStart s f).hw = s.hw ∧ (withStart s f).nor = s.nor ∧ (withStart s f).freeCount = s.freeCount := by
  unfold withStart
  simp

theorem keepRecord_frame (s : State) :
    (keepRecord s).mode = s.mode ∧ (keepRecord s).start = s.start ∧ (keepRecord s).zewen = s.zewen ∧ (keepRecord s).writes = s.writes ∧ (keepRecord s).image = s.image ∧ (keepRecord s).reg = s.reg ∧ (keepRecord s).objs = s.objs ∧ (keepRecord s).herd = s.herd ∧ (keepRecord s).net = s.net ∧ (keepRecord s).plan = s.plan ∧ (keepRecord s).solver = s.solver ∧ (keepRecord s).piste = s.piste ∧ (keepRecord s).prof = s.prof ∧ (keepRecord s).ctl = s.ctl ∧ (keepRecord s).sched = s.sched ∧ (keepRecord s).dsp = s.dsp ∧ (keepRecord s).sep = s.sep ∧ (keepRecord s).safety = s.safety ∧ (keepRecord s).cham = s.cham ∧ (keepRecord s).field = s.field ∧ (keepRecord s).acq = s.acq ∧ (keepRecord s).logs = s.logs ∧ (keepRecord s).clocks = s.clocks ∧ (keepRecord s).power = s.power ∧ (keepRecord s).pair = s.pair ∧ (keepRecord s).sec = s.sec ∧ (keepRecord s).hw = s.hw ∧ (keepRecord s).nor = s.nor ∧ (keepRecord s).freeCount = s.freeCount := by
  unfold keepRecord
  simp

theorem editRecord_frame (s : State) (f : StartRecord → StartRecord) :
    (editRecord s f).mode = s.mode ∧ (editRecord s f).zewen = s.zewen ∧ (editRecord s f).writes = s.writes ∧ (editRecord s f).image = s.image ∧ (editRecord s f).reg = s.reg ∧ (editRecord s f).objs = s.objs ∧ (editRecord s f).herd = s.herd ∧ (editRecord s f).net = s.net ∧ (editRecord s f).plan = s.plan ∧ (editRecord s f).solver = s.solver ∧ (editRecord s f).piste = s.piste ∧ (editRecord s f).prof = s.prof ∧ (editRecord s f).ctl = s.ctl ∧ (editRecord s f).sched = s.sched ∧ (editRecord s f).dsp = s.dsp ∧ (editRecord s f).sep = s.sep ∧ (editRecord s f).safety = s.safety ∧ (editRecord s f).cham = s.cham ∧ (editRecord s f).field = s.field ∧ (editRecord s f).acq = s.acq ∧ (editRecord s f).logs = s.logs ∧ (editRecord s f).clocks = s.clocks ∧ (editRecord s f).power = s.power ∧ (editRecord s f).pair = s.pair ∧ (editRecord s f).sec = s.sec ∧ (editRecord s f).hw = s.hw ∧ (editRecord s f).nor = s.nor ∧ (editRecord s f).freeCount = s.freeCount := by
  have fr1 := @keepRecord_frame; have fr2 := @withStart_frame
  unfold editRecord
  simp [fr1, fr2]

theorem mirrorRecord_frame (s : State) :
    (mirrorRecord s).mode = s.mode ∧ (mirrorRecord s).start = s.start ∧ (mirrorRecord s).zewen = s.zewen ∧ (mirrorRecord s).writes = s.writes ∧ (mirrorRecord s).image = s.image ∧ (mirrorRecord s).reg = s.reg ∧ (mirrorRecord s).objs = s.objs ∧ (mirrorRecord s).herd = s.herd ∧ (mirrorRecord s).aon = s.aon ∧ (mirrorRecord s).net = s.net ∧ (mirrorRecord s).plan = s.plan ∧ (mirrorRecord s).solver = s.solver ∧ (mirrorRecord s).piste = s.piste ∧ (mirrorRecord s).prof = s.prof ∧ (mirrorRecord s).ctl = s.ctl ∧ (mirrorRecord s).sched = s.sched ∧ (mirrorRecord s).dsp = s.dsp ∧ (mirrorRecord s).sep = s.sep ∧ (mirrorRecord s).safety = s.safety ∧ (mirrorRecord s).cham = s.cham ∧ (mirrorRecord s).field = s.field ∧ (mirrorRecord s).acq = s.acq ∧ (mirrorRecord s).logs = s.logs ∧ (mirrorRecord s).clocks = s.clocks ∧ (mirrorRecord s).power = s.power ∧ (mirrorRecord s).pair = s.pair ∧ (mirrorRecord s).sec = s.sec ∧ (mirrorRecord s).hw = s.hw ∧ (mirrorRecord s).freeCount = s.freeCount := by
  unfold mirrorRecord
  simp

theorem moduleReset_frame (s : State) :
    (moduleReset s).aon = s.aon ∧ (moduleReset s).cham = s.cham ∧ (moduleReset s).nor = s.nor ∧ (moduleReset s).freeCount = s.freeCount := by
  have fr1 := @emit_frame
  unfold moduleReset
  simp [fr1]

theorem setFirmware_frame (s : State) (slot : ℕ) (f : FirmwareSlot → FirmwareSlot) :
    (setFirmware s slot f).mode = s.mode ∧ (setFirmware s slot f).start = s.start ∧ (setFirmware s slot f).zewen = s.zewen ∧ (setFirmware s slot f).writes = s.writes ∧ (setFirmware s slot f).image = s.image ∧ (setFirmware s slot f).reg = s.reg ∧ (setFirmware s slot f).objs = s.objs ∧ (setFirmware s slot f).herd = s.herd ∧ (setFirmware s slot f).aon = s.aon ∧ (setFirmware s slot f).net = s.net ∧ (setFirmware s slot f).plan = s.plan ∧ (setFirmware s slot f).solver = s.solver ∧ (setFirmware s slot f).piste = s.piste ∧ (setFirmware s slot f).prof = s.prof ∧ (setFirmware s slot f).ctl = s.ctl ∧ (setFirmware s slot f).sched = s.sched ∧ (setFirmware s slot f).dsp = s.dsp ∧ (setFirmware s slot f).sep = s.sep ∧ (setFirmware s slot f).safety = s.safety ∧ (setFirmware s slot f).cham = s.cham ∧ (setFirmware s slot f).field = s.field ∧ (setFirmware s slot f).acq = s.acq ∧ (setFirmware s slot f).logs = s.logs ∧ (setFirmware s slot f).clocks = s.clocks ∧ (setFirmware s slot f).power = s.power ∧ (setFirmware s slot f).pair = s.pair ∧ (setFirmware s slot f).hw = s.hw ∧ (setFirmware s slot f).nor = s.nor ∧ (setFirmware s slot f).freeCount = s.freeCount := by
  unfold setFirmware
  simp

/-! ### Security -/

theorem withSec_frame (s : State) (f : SecurityState → SecurityState) :
    (withSec s f).mode = s.mode ∧ (withSec s f).start = s.start ∧ (withSec s f).zewen = s.zewen ∧ (withSec s f).writes = s.writes ∧ (withSec s f).image = s.image ∧ (withSec s f).reg = s.reg ∧ (withSec s f).objs = s.objs ∧ (withSec s f).herd = s.herd ∧ (withSec s f).aon = s.aon ∧ (withSec s f).net = s.net ∧ (withSec s f).plan = s.plan ∧ (withSec s f).solver = s.solver ∧ (withSec s f).piste = s.piste ∧ (withSec s f).prof = s.prof ∧ (withSec s f).ctl = s.ctl ∧ (withSec s f).sched = s.sched ∧ (withSec s f).dsp = s.dsp ∧ (withSec s f).sep = s.sep ∧ (withSec s f).safety = s.safety ∧ (withSec s f).cham = s.cham ∧ (withSec s f).field = s.field ∧ (withSec s f).acq = s.acq ∧ (withSec s f).logs = s.logs ∧ (withSec s f).clocks = s.clocks ∧ (withSec s f).power = s.power ∧ (withSec s f).pair = s.pair ∧ (withSec s f).hw = s.hw ∧ (withSec s f).nor = s.nor ∧ (withSec s f).freeCount = s.freeCount := by
  unfold withSec
  simp

theorem loadIndex_frame (s : State) :
    (loadIndex s).mode = s.mode ∧ (loadIndex s).start = s.start ∧ (loadIndex s).zewen = s.zewen ∧ (loadIndex s).writes = s.writes ∧ (loadIndex s).image = s.image ∧ (loadIndex s).reg = s.reg ∧ (loadIndex s).objs = s.objs ∧ (loadIndex s).herd = s.herd ∧ (loadIndex s).aon = s.aon ∧ (loadIndex s).net = s.net ∧ (loadIndex s).plan = s.plan ∧ (loadIndex s).solver = s.solver ∧ (loadIndex s).piste = s.piste ∧ (loadIndex s).prof = s.prof ∧ (loadIndex s).ctl = s.ctl ∧ (loadIndex s).sched = s.sched ∧ (loadIndex s).dsp = s.dsp ∧ (loadIndex s).sep = s.sep ∧ (loadIndex s).safety = s.safety ∧ (loadIndex s).cham = s.cham ∧ (loadIndex s).field = s.field ∧ (loadIndex s).acq = s.acq ∧ (loadIndex s).logs = s.logs ∧ (loadIndex s).clocks = s.clocks ∧ (loadIndex s).power = s.power ∧ (loadIndex s).pair = s.pair ∧ (loadIndex s).hw = s.hw ∧ (loadIndex s).nor = s.nor ∧ (loadIndex s).freeCount = s.freeCount := by
  have fr1 := @withSec_frame
  unfold loadIndex
  simp [fr1]

theorem reserveIndex_frame (s : State) (norOk : Bool) :
    ((reserveIndex s norOk).1).mode = s.mode ∧ ((reserveIndex s norOk).1).start = s.start ∧ ((reserveIndex s norOk).1).zewen = s.zewen ∧ ((reserveIndex s norOk).1).writes = s.writes ∧ ((reserveIndex s norOk).1).image = s.image ∧ ((reserveIndex s norOk).1).reg = s.reg ∧ ((reserveIndex s norOk).1).objs = s.objs ∧ ((reserveIndex s norOk).1).herd = s.herd ∧ ((reserveIndex s norOk).1).net = s.net ∧ ((reserveIndex s norOk).1).plan = s.plan ∧ ((reserveIndex s norOk).1).solver = s.solver ∧ ((reserveIndex s norOk).1).piste = s.piste ∧ ((reserveIndex s norOk).1).prof = s.prof ∧ ((reserveIndex s norOk).1).ctl = s.ctl ∧ ((reserveIndex s norOk).1).sched = s.sched ∧ ((reserveIndex s norOk).1).dsp = s.dsp ∧ ((reserveIndex s norOk).1).sep = s.sep ∧ ((reserveIndex s norOk).1).safety = s.safety ∧ ((reserveIndex s norOk).1).cham = s.cham ∧ ((reserveIndex s norOk).1).field = s.field ∧ ((reserveIndex s norOk).1).acq = s.acq ∧ ((reserveIndex s norOk).1).logs = s.logs ∧ ((reserveIndex s norOk).1).clocks = s.clocks ∧ ((reserveIndex s norOk).1).power = s.power ∧ ((reserveIndex s norOk).1).pair = s.pair ∧ ((reserveIndex s norOk).1).hw = s.hw ∧ ((reserveIndex s norOk).1).nor = s.nor ∧ ((reserveIndex s norOk).1).freeCount = s.freeCount := by
  have fr1 := @withSec_frame
  unfold reserveIndex
  dsimp only
  (repeat' split) <;> simp [fr1]

theorem issueIndex_frame (s : State) :
    (issueIndex s).mode = s.mode ∧ (issueIndex s).start = s.start ∧ (issueIndex s).zewen = s.zewen ∧ (issueIndex s).writes = s.writes ∧ (issueIndex s).image = s.image ∧ (issueIndex s).reg = s.reg ∧ (issueIndex s).objs = s.objs ∧ (issueIndex s).herd = s.herd ∧ (issueIndex s).aon = s.aon ∧ (issueIndex s).net = s.net ∧ (issueIndex s).plan = s.plan ∧ (issueIndex s).solver = s.solver ∧ (issueIndex s).piste = s.piste ∧ (issueIndex s).prof = s.prof ∧ (issueIndex s).ctl = s.ctl ∧ (issueIndex s).sched = s.sched ∧ (issueIndex s).dsp = s.dsp ∧ (issueIndex s).sep = s.sep ∧ (issueIndex s).safety = s.safety ∧ (issueIndex s).cham = s.cham ∧ (issueIndex s).field = s.field ∧ (issueIndex s).acq = s.acq ∧ (issueIndex s).logs = s.logs ∧ (issueIndex s).clocks = s.clocks ∧ (issueIndex s).power = s.power ∧ (issueIndex s).pair = s.pair ∧ (issueIndex s).hw = s.hw ∧ (issueIndex s).nor = s.nor ∧ (issueIndex s).freeCount = s.freeCount := by
  have fr1 := @withSec_frame
  unfold issueIndex
  simp [fr1]

theorem newReport_frame (e : Entry) (off : ℕ) (norOk : Bool) (s : State) :
    (newReport e off norOk s).mode = s.mode ∧ (newReport e off norOk s).start = s.start ∧ (newReport e off norOk s).writes = s.writes ∧ (newReport e off norOk s).image = s.image ∧ (newReport e off norOk s).herd = s.herd ∧ (newReport e off norOk s).net = s.net ∧ (newReport e off norOk s).plan = s.plan ∧ (newReport e off norOk s).solver = s.solver ∧ (newReport e off norOk s).piste = s.piste ∧ (newReport e off norOk s).prof = s.prof ∧ (newReport e off norOk s).ctl = s.ctl ∧ (newReport e off norOk s).sched = s.sched ∧ (newReport e off norOk s).dsp = s.dsp ∧ (newReport e off norOk s).sep = s.sep ∧ (newReport e off norOk s).safety = s.safety ∧ (newReport e off norOk s).cham = s.cham ∧ (newReport e off norOk s).field = s.field ∧ (newReport e off norOk s).clocks = s.clocks ∧ (newReport e off norOk s).power = s.power ∧ (newReport e off norOk s).pair = s.pair ∧ (newReport e off norOk s).hw = s.hw ∧ (newReport e off norOk s).nor = s.nor := by
  have fr1 := @complete_frame; have fr2 := @reserveIndex_frame; have fr3 := @bump_frame; have fr4 := @issueIndex_frame; have fr5 := @withSec_frame; have fr6 := @answer_frame
  unfold newReport
  dsimp only
  split
  · simp [fr1, fr2, fr3, fr4, fr5, fr6]
  · split
    · simp [fr1, fr2, fr3, fr4, fr5, fr6]
    · have h := reserveIndex_frame s norOk
      split <;> (rename_i g; rw [g] at h; simp_all)

theorem attest_frame (norOk : Bool) (e : Entry) (x2 : Transport) (s : State) :
    (attest norOk e x2 s).mode = s.mode ∧ (attest norOk e x2 s).start = s.start ∧ (attest norOk e x2 s).writes = s.writes ∧ (attest norOk e x2 s).image = s.image ∧ (attest norOk e x2 s).herd = s.herd ∧ (attest norOk e x2 s).net = s.net ∧ (attest norOk e x2 s).plan = s.plan ∧ (attest norOk e x2 s).solver = s.solver ∧ (attest norOk e x2 s).piste = s.piste ∧ (attest norOk e x2 s).prof = s.prof ∧ (attest norOk e x2 s).ctl = s.ctl ∧ (attest norOk e x2 s).sched = s.sched ∧ (attest norOk e x2 s).dsp = s.dsp ∧ (attest norOk e x2 s).sep = s.sep ∧ (attest norOk e x2 s).safety = s.safety ∧ (attest norOk e x2 s).cham = s.cham ∧ (attest norOk e x2 s).field = s.field ∧ (attest norOk e x2 s).clocks = s.clocks ∧ (attest norOk e x2 s).power = s.power ∧ (attest norOk e x2 s).pair = s.pair ∧ (attest norOk e x2 s).hw = s.hw ∧ (attest norOk e x2 s).nor = s.nor := by
  have fr1 := @complete_frame; have fr2 := @answer_frame; have fr3 := @newReport_frame
  unfold attest
  split <;> simp [fr1, fr2, fr3]

theorem enrol_frame (s : State) (action : ℕ) (slot : ℕ) (flags : ℕ) (data : Bytes) (sk : Bytes) (txid : BitVec 16) :
    (enrol s action slot flags data sk txid).mode = s.mode ∧ (enrol s action slot flags data sk txid).start = s.start ∧ (enrol s action slot flags data sk txid).zewen = s.zewen ∧ (enrol s action slot flags data sk txid).writes = s.writes ∧ (enrol s action slot flags data sk txid).image = s.image ∧ (enrol s action slot flags data sk txid).reg = s.reg ∧ (enrol s action slot flags data sk txid).objs = s.objs ∧ (enrol s action slot flags data sk txid).herd = s.herd ∧ (enrol s action slot flags data sk txid).aon = s.aon ∧ (enrol s action slot flags data sk txid).net = s.net ∧ (enrol s action slot flags data sk txid).plan = s.plan ∧ (enrol s action slot flags data sk txid).solver = s.solver ∧ (enrol s action slot flags data sk txid).piste = s.piste ∧ (enrol s action slot flags data sk txid).prof = s.prof ∧ (enrol s action slot flags data sk txid).ctl = s.ctl ∧ (enrol s action slot flags data sk txid).sched = s.sched ∧ (enrol s action slot flags data sk txid).dsp = s.dsp ∧ (enrol s action slot flags data sk txid).sep = s.sep ∧ (enrol s action slot flags data sk txid).safety = s.safety ∧ (enrol s action slot flags data sk txid).cham = s.cham ∧ (enrol s action slot flags data sk txid).field = s.field ∧ (enrol s action slot flags data sk txid).acq = s.acq ∧ (enrol s action slot flags data sk txid).logs = s.logs ∧ (enrol s action slot flags data sk txid).clocks = s.clocks ∧ (enrol s action slot flags data sk txid).power = s.power ∧ (enrol s action slot flags data sk txid).pair = s.pair ∧ (enrol s action slot flags data sk txid).hw = s.hw ∧ (enrol s action slot flags data sk txid).nor = s.nor ∧ (enrol s action slot flags data sk txid).freeCount = s.freeCount := by
  have fr1 := @withSec_frame
  unfold enrol
  simp [fr1]

theorem keyEnrol_frame (e : Entry) (x1 : Transport) (s : State) :
    (keyEnrol e x1 s).mode = s.mode ∧ (keyEnrol e x1 s).start = s.start ∧ (keyEnrol e x1 s).writes = s.writes ∧ (keyEnrol e x1 s).image = s.image ∧ (keyEnrol e x1 s).herd = s.herd ∧ (keyEnrol e x1 s).aon = s.aon ∧ (keyEnrol e x1 s).net = s.net ∧ (keyEnrol e x1 s).plan = s.plan ∧ (keyEnrol e x1 s).solver = s.solver ∧ (keyEnrol e x1 s).piste = s.piste ∧ (keyEnrol e x1 s).prof = s.prof ∧ (keyEnrol e x1 s).ctl = s.ctl ∧ (keyEnrol e x1 s).sched = s.sched ∧ (keyEnrol e x1 s).dsp = s.dsp ∧ (keyEnrol e x1 s).sep = s.sep ∧ (keyEnrol e x1 s).safety = s.safety ∧ (keyEnrol e x1 s).cham = s.cham ∧ (keyEnrol e x1 s).field = s.field ∧ (keyEnrol e x1 s).clocks = s.clocks ∧ (keyEnrol e x1 s).power = s.power ∧ (keyEnrol e x1 s).pair = s.pair ∧ (keyEnrol e x1 s).hw = s.hw ∧ (keyEnrol e x1 s).nor = s.nor := by
  have fr1 := @complete_frame; have fr2 := @enrol_frame
  unfold keyEnrol
  simp [fr1, fr2]

theorem loaderData_frame (s : State) (slot : ℕ) (off : ℕ) (data : Bytes) :
    (loaderData s slot off data).mode = s.mode ∧ (loaderData s slot off data).start = s.start ∧ (loaderData s slot off data).zewen = s.zewen ∧ (loaderData s slot off data).writes = s.writes ∧ (loaderData s slot off data).image = s.image ∧ (loaderData s slot off data).reg = s.reg ∧ (loaderData s slot off data).objs = s.objs ∧ (loaderData s slot off data).herd = s.herd ∧ (loaderData s slot off data).aon = s.aon ∧ (loaderData s slot off data).net = s.net ∧ (loaderData s slot off data).plan = s.plan ∧ (loaderData s slot off data).solver = s.solver ∧ (loaderData s slot off data).piste = s.piste ∧ (loaderData s slot off data).prof = s.prof ∧ (loaderData s slot off data).ctl = s.ctl ∧ (loaderData s slot off data).sched = s.sched ∧ (loaderData s slot off data).dsp = s.dsp ∧ (loaderData s slot off data).sep = s.sep ∧ (loaderData s slot off data).safety = s.safety ∧ (loaderData s slot off data).cham = s.cham ∧ (loaderData s slot off data).field = s.field ∧ (loaderData s slot off data).acq = s.acq ∧ (loaderData s slot off data).logs = s.logs ∧ (loaderData s slot off data).clocks = s.clocks ∧ (loaderData s slot off data).power = s.power ∧ (loaderData s slot off data).pair = s.pair ∧ (loaderData s slot off data).hw = s.hw ∧ (loaderData s slot off data).nor = s.nor ∧ (loaderData s slot off data).freeCount = s.freeCount := by
  have fr1 := @setFirmware_frame; have fr2 := @withSec_frame
  unfold loaderData
  simp [fr1, fr2]

theorem loaderWriteSlot_frame (e : Entry) (x1 : Transport) (s : State) :
    (loaderWriteSlot e x1 s).mode = s.mode ∧ (loaderWriteSlot e x1 s).start = s.start ∧ (loaderWriteSlot e x1 s).writes = s.writes ∧ (loaderWriteSlot e x1 s).image = s.image ∧ (loaderWriteSlot e x1 s).herd = s.herd ∧ (loaderWriteSlot e x1 s).aon = s.aon ∧ (loaderWriteSlot e x1 s).net = s.net ∧ (loaderWriteSlot e x1 s).plan = s.plan ∧ (loaderWriteSlot e x1 s).solver = s.solver ∧ (loaderWriteSlot e x1 s).piste = s.piste ∧ (loaderWriteSlot e x1 s).prof = s.prof ∧ (loaderWriteSlot e x1 s).ctl = s.ctl ∧ (loaderWriteSlot e x1 s).sched = s.sched ∧ (loaderWriteSlot e x1 s).dsp = s.dsp ∧ (loaderWriteSlot e x1 s).sep = s.sep ∧ (loaderWriteSlot e x1 s).safety = s.safety ∧ (loaderWriteSlot e x1 s).cham = s.cham ∧ (loaderWriteSlot e x1 s).field = s.field ∧ (loaderWriteSlot e x1 s).clocks = s.clocks ∧ (loaderWriteSlot e x1 s).power = s.power ∧ (loaderWriteSlot e x1 s).pair = s.pair ∧ (loaderWriteSlot e x1 s).hw = s.hw ∧ (loaderWriteSlot e x1 s).nor = s.nor := by
  have fr1 := @complete_frame; have fr2 := @loaderData_frame; have fr3 := @setFirmware_frame; have fr4 := @withSec_frame
  unfold loaderWriteSlot
  simp [fr1, fr2, fr3, fr4]

theorem loaderRestart_frame (e : Entry) (x1 : Transport) (s : State) :
    (loaderRestart e x1 s).cham = s.cham := by
  have fr1 := @moduleReset_frame; have fr2 := @mirrorRecord_frame; have fr3 := @editRecord_frame; have fr4 := @complete_frame
  unfold loaderRestart
  simp [fr1, fr2, fr3, fr4]

/-! ### ObjRead -/

theorem readEffect_frame (s : State) (row : ObjRow) (key : ℕ) :
    (readEffect s row key).mode = s.mode ∧ (readEffect s row key).start = s.start ∧ (readEffect s row key).zewen = s.zewen ∧ (readEffect s row key).writes = s.writes ∧ (readEffect s row key).image = s.image ∧ (readEffect s row key).reg = s.reg ∧ (readEffect s row key).herd = s.herd ∧ (readEffect s row key).aon = s.aon ∧ (readEffect s row key).plan = s.plan ∧ (readEffect s row key).solver = s.solver ∧ (readEffect s row key).piste = s.piste ∧ (readEffect s row key).prof = s.prof ∧ (readEffect s row key).ctl = s.ctl ∧ (readEffect s row key).dsp = s.dsp ∧ (readEffect s row key).sep = s.sep ∧ (readEffect s row key).safety = s.safety ∧ (readEffect s row key).cham = s.cham ∧ (readEffect s row key).field = s.field ∧ (readEffect s row key).acq = s.acq ∧ (readEffect s row key).logs = s.logs ∧ (readEffect s row key).clocks = s.clocks ∧ (readEffect s row key).power = s.power ∧ (readEffect s row key).pair = s.pair ∧ (readEffect s row key).sec = s.sec ∧ (readEffect s row key).hw = s.hw ∧ (readEffect s row key).nor = s.nor ∧ (readEffect s row key).freeCount = s.freeCount := by
  have fr1 := @withSched_frame; have fr2 := @withNet_frame
  unfold readEffect dynRxRead
  (repeat' split) <;> simp [fr1, fr2]

theorem countGated_frame (s : State) :
    (countGated s).mode = s.mode ∧ (countGated s).start = s.start ∧ (countGated s).zewen = s.zewen ∧ (countGated s).writes = s.writes ∧ (countGated s).image = s.image ∧ (countGated s).objs = s.objs ∧ (countGated s).herd = s.herd ∧ (countGated s).aon = s.aon ∧ (countGated s).net = s.net ∧ (countGated s).plan = s.plan ∧ (countGated s).solver = s.solver ∧ (countGated s).piste = s.piste ∧ (countGated s).prof = s.prof ∧ (countGated s).ctl = s.ctl ∧ (countGated s).sched = s.sched ∧ (countGated s).dsp = s.dsp ∧ (countGated s).sep = s.sep ∧ (countGated s).safety = s.safety ∧ (countGated s).cham = s.cham ∧ (countGated s).field = s.field ∧ (countGated s).acq = s.acq ∧ (countGated s).logs = s.logs ∧ (countGated s).clocks = s.clocks ∧ (countGated s).power = s.power ∧ (countGated s).pair = s.pair ∧ (countGated s).sec = s.sec ∧ (countGated s).hw = s.hw ∧ (countGated s).nor = s.nor ∧ (countGated s).freeCount = s.freeCount := by
  have fr1 := @withFresh_frame
  unfold countGated
  simp [fr1]

theorem readOne_folds (priv : Bool) (l : List Nat) (x : State × Bytes × Bool) : ((l.foldl (readOne priv) x).1).mode = x.1.mode ∧ ((l.foldl (readOne priv) x).1).start = x.1.start ∧ ((l.foldl (readOne priv) x).1).writes = x.1.writes ∧ ((l.foldl (readOne priv) x).1).image = x.1.image ∧ ((l.foldl (readOne priv) x).1).herd = x.1.herd ∧ ((l.foldl (readOne priv) x).1).aon = x.1.aon ∧ ((l.foldl (readOne priv) x).1).plan = x.1.plan ∧ ((l.foldl (readOne priv) x).1).solver = x.1.solver ∧ ((l.foldl (readOne priv) x).1).piste = x.1.piste ∧ ((l.foldl (readOne priv) x).1).prof = x.1.prof ∧ ((l.foldl (readOne priv) x).1).ctl = x.1.ctl ∧ ((l.foldl (readOne priv) x).1).dsp = x.1.dsp ∧ ((l.foldl (readOne priv) x).1).sep = x.1.sep ∧ ((l.foldl (readOne priv) x).1).safety = x.1.safety ∧ ((l.foldl (readOne priv) x).1).cham = x.1.cham ∧ ((l.foldl (readOne priv) x).1).field = x.1.field ∧ ((l.foldl (readOne priv) x).1).acq = x.1.acq ∧ ((l.foldl (readOne priv) x).1).logs = x.1.logs ∧ ((l.foldl (readOne priv) x).1).clocks = x.1.clocks ∧ ((l.foldl (readOne priv) x).1).power = x.1.power ∧ ((l.foldl (readOne priv) x).1).pair = x.1.pair ∧ ((l.foldl (readOne priv) x).1).sec = x.1.sec ∧ ((l.foldl (readOne priv) x).1).hw = x.1.hw ∧ ((l.foldl (readOne priv) x).1).nor = x.1.nor ∧ ((l.foldl (readOne priv) x).1).freeCount = x.1.freeCount := by
  have fr1 := @countDenied_frame; have fr2 := @countGated_frame; have fr3 := @readEffect_frame
  induction l generalizing x with
  | nil => simp
  | cons a l ih =>
    have h : ((readOne priv x a).1).mode = x.1.mode ∧ ((readOne priv x a).1).start = x.1.start ∧ ((readOne priv x a).1).writes = x.1.writes ∧ ((readOne priv x a).1).image = x.1.image ∧ ((readOne priv x a).1).herd = x.1.herd ∧ ((readOne priv x a).1).aon = x.1.aon ∧ ((readOne priv x a).1).plan = x.1.plan ∧ ((readOne priv x a).1).solver = x.1.solver ∧ ((readOne priv x a).1).piste = x.1.piste ∧ ((readOne priv x a).1).prof = x.1.prof ∧ ((readOne priv x a).1).ctl = x.1.ctl ∧ ((readOne priv x a).1).dsp = x.1.dsp ∧ ((readOne priv x a).1).sep = x.1.sep ∧ ((readOne priv x a).1).safety = x.1.safety ∧ ((readOne priv x a).1).cham = x.1.cham ∧ ((readOne priv x a).1).field = x.1.field ∧ ((readOne priv x a).1).acq = x.1.acq ∧ ((readOne priv x a).1).logs = x.1.logs ∧ ((readOne priv x a).1).clocks = x.1.clocks ∧ ((readOne priv x a).1).power = x.1.power ∧ ((readOne priv x a).1).pair = x.1.pair ∧ ((readOne priv x a).1).sec = x.1.sec ∧ ((readOne priv x a).1).hw = x.1.hw ∧ ((readOne priv x a).1).nor = x.1.nor ∧ ((readOne priv x a).1).freeCount = x.1.freeCount := by
      unfold readOne
      dsimp only
      (repeat' split) <;> simp [fr1, fr2, fr3]
    have h2 := ih (readOne priv x a)
    simp only [List.foldl_cons]
    simp_all

theorem objRead_frame (e : Entry) (x1 : Transport) (s : State) :
    (objRead e x1 s).mode = s.mode ∧ (objRead e x1 s).start = s.start ∧ (objRead e x1 s).writes = s.writes ∧ (objRead e x1 s).image = s.image ∧ (objRead e x1 s).herd = s.herd ∧ (objRead e x1 s).aon = s.aon ∧ (objRead e x1 s).plan = s.plan ∧ (objRead e x1 s).solver = s.solver ∧ (objRead e x1 s).piste = s.piste ∧ (objRead e x1 s).prof = s.prof ∧ (objRead e x1 s).ctl = s.ctl ∧ (objRead e x1 s).dsp = s.dsp ∧ (objRead e x1 s).sep = s.sep ∧ (objRead e x1 s).safety = s.safety ∧ (objRead e x1 s).cham = s.cham ∧ (objRead e x1 s).field = s.field ∧ (objRead e x1 s).clocks = s.clocks ∧ (objRead e x1 s).power = s.power ∧ (objRead e x1 s).pair = s.pair ∧ (objRead e x1 s).sec = s.sec ∧ (objRead e x1 s).hw = s.hw ∧ (objRead e x1 s).nor = s.nor := by
  have fr1 := @complete_frame
  unfold objRead
  dsimp only
  repeat' split
  all_goals simp [readOne_folds, fr1]

/-! ### Check -/

theorem analyseAll_frame (s : State) :
    (analyseAll s).mode = s.mode ∧ (analyseAll s).start = s.start ∧ (analyseAll s).zewen = s.zewen ∧ (analyseAll s).writes = s.writes ∧ (analyseAll s).image = s.image ∧ (analyseAll s).reg = s.reg ∧ (analyseAll s).objs = s.objs ∧ (analyseAll s).herd = s.herd ∧ (analyseAll s).aon = s.aon ∧ (analyseAll s).net = s.net ∧ (analyseAll s).plan = s.plan ∧ (analyseAll s).piste = s.piste ∧ (analyseAll s).prof = s.prof ∧ (analyseAll s).ctl = s.ctl ∧ (analyseAll s).sched = s.sched ∧ (analyseAll s).dsp = s.dsp ∧ (analyseAll s).sep = s.sep ∧ (analyseAll s).safety = s.safety ∧ (analyseAll s).cham = s.cham ∧ (analyseAll s).field = s.field ∧ (analyseAll s).acq = s.acq ∧ (analyseAll s).logs = s.logs ∧ (analyseAll s).clocks = s.clocks ∧ (analyseAll s).power = s.power ∧ (analyseAll s).pair = s.pair ∧ (analyseAll s).sec = s.sec ∧ (analyseAll s).hw = s.hw ∧ (analyseAll s).nor = s.nor ∧ (analyseAll s).freeCount = s.freeCount := by
  have fr1 := @analysisDone_frame
  unfold analyseAll
  simp [fr1]

theorem loadPlanner_frame (s : State) (rs : List WriteRecord) :
    (loadPlanner s rs).mode = s.mode ∧ (loadPlanner s rs).start = s.start ∧ (loadPlanner s rs).zewen = s.zewen ∧ (loadPlanner s rs).writes = s.writes ∧ (loadPlanner s rs).image = s.image ∧ (loadPlanner s rs).reg = s.reg ∧ (loadPlanner s rs).objs = s.objs ∧ (loadPlanner s rs).herd = s.herd ∧ (loadPlanner s rs).aon = s.aon ∧ (loadPlanner s rs).net = s.net ∧ (loadPlanner s rs).piste = s.piste ∧ (loadPlanner s rs).prof = s.prof ∧ (loadPlanner s rs).ctl = s.ctl ∧ (loadPlanner s rs).sched = s.sched ∧ (loadPlanner s rs).dsp = s.dsp ∧ (loadPlanner s rs).sep = s.sep ∧ (loadPlanner s rs).safety = s.safety ∧ (loadPlanner s rs).cham = s.cham ∧ (loadPlanner s rs).field = s.field ∧ (loadPlanner s rs).acq = s.acq ∧ (loadPlanner s rs).logs = s.logs ∧ (loadPlanner s rs).clocks = s.clocks ∧ (loadPlanner s rs).power = s.power ∧ (loadPlanner s rs).pair = s.pair ∧ (loadPlanner s rs).sec = s.sec ∧ (loadPlanner s rs).hw = s.hw ∧ (loadPlanner s rs).nor = s.nor ∧ (loadPlanner s rs).freeCount = s.freeCount := by
  have fr1 := @withPlan_frame; have fr2 := @setSlot_frame; have fr3 := @solverUnload_frame; have fr4 := @analysisDone_frame
  unfold loadPlanner
  split <;> simp [fr1, fr2, fr3, fr4]

theorem unloadPlanner_frame (s : State) :
    (unloadPlanner s).mode = s.mode ∧ (unloadPlanner s).start = s.start ∧ (unloadPlanner s).zewen = s.zewen ∧ (unloadPlanner s).writes = s.writes ∧ (unloadPlanner s).image = s.image ∧ (unloadPlanner s).reg = s.reg ∧ (unloadPlanner s).objs = s.objs ∧ (unloadPlanner s).herd = s.herd ∧ (unloadPlanner s).aon = s.aon ∧ (unloadPlanner s).net = s.net ∧ (unloadPlanner s).plan = s.plan ∧ (unloadPlanner s).piste = s.piste ∧ (unloadPlanner s).prof = s.prof ∧ (unloadPlanner s).ctl = s.ctl ∧ (unloadPlanner s).sched = s.sched ∧ (unloadPlanner s).dsp = s.dsp ∧ (unloadPlanner s).sep = s.sep ∧ (unloadPlanner s).safety = s.safety ∧ (unloadPlanner s).cham = s.cham ∧ (unloadPlanner s).field = s.field ∧ (unloadPlanner s).acq = s.acq ∧ (unloadPlanner s).logs = s.logs ∧ (unloadPlanner s).clocks = s.clocks ∧ (unloadPlanner s).power = s.power ∧ (unloadPlanner s).pair = s.pair ∧ (unloadPlanner s).sec = s.sec ∧ (unloadPlanner s).hw = s.hw ∧ (unloadPlanner s).nor = s.nor ∧ (unloadPlanner s).freeCount = s.freeCount := by
  have fr1 := @solverUnload_frame
  unfold unloadPlanner
  simp [fr1]

theorem stagedState_frame (s : State) (c : Commit) :
    (stagedState s c).start = s.start ∧ (stagedState s c).zewen = s.zewen ∧ (stagedState s c).writes = s.writes ∧ (stagedState s c).image = s.image ∧ (stagedState s c).reg = s.reg ∧ (stagedState s c).herd = s.herd ∧ (stagedState s c).aon = s.aon ∧ (stagedState s c).sched = s.sched ∧ (stagedState s c).sep = s.sep ∧ (stagedState s c).safety = s.safety ∧ (stagedState s c).cham = s.cham ∧ (stagedState s c).acq = s.acq ∧ (stagedState s c).logs = s.logs ∧ (stagedState s c).power = s.power ∧ (stagedState s c).sec = s.sec ∧ (stagedState s c).hw = s.hw ∧ (stagedState s c).nor = s.nor ∧ (stagedState s c).freeCount = s.freeCount := by
  have fr1 := @unloadPlanner_frame; have fr2 := @applyRecord_frame; have fr3 := @loadPlanner_frame; have fr4 := @analyseAll_frame
  unfold stagedState
  simp [fr1, fr2, fr3, fr4]

/-! ### Image -/

theorem withImage_frame (s : State) (f : ImageState → ImageState) :
    (withImage s f).mode = s.mode ∧ (withImage s f).start = s.start ∧ (withImage s f).zewen = s.zewen ∧ (withImage s f).writes = s.writes ∧ (withImage s f).reg = s.reg ∧ (withImage s f).objs = s.objs ∧ (withImage s f).herd = s.herd ∧ (withImage s f).aon = s.aon ∧ (withImage s f).net = s.net ∧ (withImage s f).plan = s.plan ∧ (withImage s f).solver = s.solver ∧ (withImage s f).piste = s.piste ∧ (withImage s f).prof = s.prof ∧ (withImage s f).ctl = s.ctl ∧ (withImage s f).sched = s.sched ∧ (withImage s f).dsp = s.dsp ∧ (withImage s f).sep = s.sep ∧ (withImage s f).safety = s.safety ∧ (withImage s f).cham = s.cham ∧ (withImage s f).field = s.field ∧ (withImage s f).acq = s.acq ∧ (withImage s f).logs = s.logs ∧ (withImage s f).clocks = s.clocks ∧ (withImage s f).power = s.power ∧ (withImage s f).pair = s.pair ∧ (withImage s f).sec = s.sec ∧ (withImage s f).hw = s.hw ∧ (withImage s f).nor = s.nor ∧ (withImage s f).freeCount = s.freeCount := by
  unfold withImage
  simp

theorem imageBegin_frame (e : Entry) (x1 : Transport) (s : State) :
    (imageBegin e x1 s).mode = s.mode ∧ (imageBegin e x1 s).start = s.start ∧ (imageBegin e x1 s).writes = s.writes ∧ (imageBegin e x1 s).herd = s.herd ∧ (imageBegin e x1 s).aon = s.aon ∧ (imageBegin e x1 s).net = s.net ∧ (imageBegin e x1 s).plan = s.plan ∧ (imageBegin e x1 s).solver = s.solver ∧ (imageBegin e x1 s).piste = s.piste ∧ (imageBegin e x1 s).prof = s.prof ∧ (imageBegin e x1 s).ctl = s.ctl ∧ (imageBegin e x1 s).sched = s.sched ∧ (imageBegin e x1 s).dsp = s.dsp ∧ (imageBegin e x1 s).sep = s.sep ∧ (imageBegin e x1 s).safety = s.safety ∧ (imageBegin e x1 s).cham = s.cham ∧ (imageBegin e x1 s).field = s.field ∧ (imageBegin e x1 s).clocks = s.clocks ∧ (imageBegin e x1 s).power = s.power ∧ (imageBegin e x1 s).pair = s.pair ∧ (imageBegin e x1 s).sec = s.sec ∧ (imageBegin e x1 s).hw = s.hw ∧ (imageBegin e x1 s).nor = s.nor := by
  have fr1 := @complete_frame; have fr2 := @withImage_frame
  unfold imageBegin
  simp [fr1, fr2]

theorem imageData_frame (e : Entry) (x1 : Transport) (s : State) :
    (imageData e x1 s).mode = s.mode ∧ (imageData e x1 s).start = s.start ∧ (imageData e x1 s).writes = s.writes ∧ (imageData e x1 s).herd = s.herd ∧ (imageData e x1 s).aon = s.aon ∧ (imageData e x1 s).net = s.net ∧ (imageData e x1 s).plan = s.plan ∧ (imageData e x1 s).solver = s.solver ∧ (imageData e x1 s).piste = s.piste ∧ (imageData e x1 s).prof = s.prof ∧ (imageData e x1 s).ctl = s.ctl ∧ (imageData e x1 s).sched = s.sched ∧ (imageData e x1 s).dsp = s.dsp ∧ (imageData e x1 s).sep = s.sep ∧ (imageData e x1 s).safety = s.safety ∧ (imageData e x1 s).cham = s.cham ∧ (imageData e x1 s).field = s.field ∧ (imageData e x1 s).clocks = s.clocks ∧ (imageData e x1 s).power = s.power ∧ (imageData e x1 s).pair = s.pair ∧ (imageData e x1 s).sec = s.sec ∧ (imageData e x1 s).hw = s.hw ∧ (imageData e x1 s).nor = s.nor := by
  have fr1 := @complete_frame; have fr2 := @withImage_frame
  unfold imageData
  (repeat' split) <;> simp [fr1, fr2]

theorem imageCommit_frame (e : Entry) (x1 : Transport) (s : State) :
    (imageCommit e x1 s).mode = s.mode ∧ (imageCommit e x1 s).start = s.start ∧ (imageCommit e x1 s).writes = s.writes ∧ (imageCommit e x1 s).herd = s.herd ∧ (imageCommit e x1 s).aon = s.aon ∧ (imageCommit e x1 s).net = s.net ∧ (imageCommit e x1 s).plan = s.plan ∧ (imageCommit e x1 s).solver = s.solver ∧ (imageCommit e x1 s).piste = s.piste ∧ (imageCommit e x1 s).prof = s.prof ∧ (imageCommit e x1 s).ctl = s.ctl ∧ (imageCommit e x1 s).sched = s.sched ∧ (imageCommit e x1 s).dsp = s.dsp ∧ (imageCommit e x1 s).sep = s.sep ∧ (imageCommit e x1 s).safety = s.safety ∧ (imageCommit e x1 s).cham = s.cham ∧ (imageCommit e x1 s).field = s.field ∧ (imageCommit e x1 s).clocks = s.clocks ∧ (imageCommit e x1 s).power = s.power ∧ (imageCommit e x1 s).pair = s.pair ∧ (imageCommit e x1 s).sec = s.sec ∧ (imageCommit e x1 s).hw = s.hw ∧ (imageCommit e x1 s).nor = s.nor := by
  have fr1 := @complete_frame; have fr2 := @withImage_frame; have fr3 := @mirrorImage_frame
  unfold imageCommit
  (repeat' split) <;> simp [fr1, fr2, fr3]

theorem imageAbort_frame (e : Entry) (x1 : Transport) (s : State) :
    (imageAbort e x1 s).mode = s.mode ∧ (imageAbort e x1 s).start = s.start ∧ (imageAbort e x1 s).writes = s.writes ∧ (imageAbort e x1 s).herd = s.herd ∧ (imageAbort e x1 s).aon = s.aon ∧ (imageAbort e x1 s).net = s.net ∧ (imageAbort e x1 s).plan = s.plan ∧ (imageAbort e x1 s).solver = s.solver ∧ (imageAbort e x1 s).piste = s.piste ∧ (imageAbort e x1 s).prof = s.prof ∧ (imageAbort e x1 s).ctl = s.ctl ∧ (imageAbort e x1 s).sched = s.sched ∧ (imageAbort e x1 s).dsp = s.dsp ∧ (imageAbort e x1 s).sep = s.sep ∧ (imageAbort e x1 s).safety = s.safety ∧ (imageAbort e x1 s).cham = s.cham ∧ (imageAbort e x1 s).field = s.field ∧ (imageAbort e x1 s).clocks = s.clocks ∧ (imageAbort e x1 s).power = s.power ∧ (imageAbort e x1 s).pair = s.pair ∧ (imageAbort e x1 s).sec = s.sec ∧ (imageAbort e x1 s).hw = s.hw ∧ (imageAbort e x1 s).nor = s.nor := by
  have fr1 := @withImage_frame; have fr2 := @complete_frame
  unfold imageAbort
  dsimp only
  split <;> simp [fr1, fr2]

theorem imageRefused_frame (s : State) (c : Commit) (f : Finding) :
    (imageRefused s c f).writes = s.writes ∧ (imageRefused s c f).herd = s.herd ∧ (imageRefused s c f).aon = s.aon ∧ (imageRefused s c f).net = s.net ∧ (imageRefused s c f).plan = s.plan ∧ (imageRefused s c f).solver = s.solver ∧ (imageRefused s c f).piste = s.piste ∧ (imageRefused s c f).prof = s.prof ∧ (imageRefused s c f).ctl = s.ctl ∧ (imageRefused s c f).sched = s.sched ∧ (imageRefused s c f).dsp = s.dsp ∧ (imageRefused s c f).sep = s.sep ∧ (imageRefused s c f).cham = s.cham ∧ (imageRefused s c f).field = s.field ∧ (imageRefused s c f).clocks = s.clocks ∧ (imageRefused s c f).power = s.power ∧ (imageRefused s c f).pair = s.pair ∧ (imageRefused s c f).sec = s.sec ∧ (imageRefused s c f).hw = s.hw ∧ (imageRefused s c f).nor = s.nor := by
  have fr1 := @withImage_frame; have fr2 := @withMode_frame; have fr3 := @complete_frame
  unfold imageRefused
  (repeat' split) <;> simp [fr1, fr2, fr3]

theorem imagePassed_frame (s : State) (c : Commit) (taken : Option (Bytes × ℕ × ℕ)) :
    (imagePassed s c taken).mode = s.mode ∧ (imagePassed s c taken).writes = s.writes ∧ (imagePassed s c taken).herd = s.herd ∧ (imagePassed s c taken).aon = s.aon ∧ (imagePassed s c taken).net = s.net ∧ (imagePassed s c taken).plan = s.plan ∧ (imagePassed s c taken).solver = s.solver ∧ (imagePassed s c taken).piste = s.piste ∧ (imagePassed s c taken).prof = s.prof ∧ (imagePassed s c taken).ctl = s.ctl ∧ (imagePassed s c taken).sched = s.sched ∧ (imagePassed s c taken).dsp = s.dsp ∧ (imagePassed s c taken).sep = s.sep ∧ (imagePassed s c taken).cham = s.cham ∧ (imagePassed s c taken).field = s.field ∧ (imagePassed s c taken).clocks = s.clocks ∧ (imagePassed s c taken).power = s.power ∧ (imagePassed s c taken).pair = s.pair ∧ (imagePassed s c taken).sec = s.sec ∧ (imagePassed s c taken).hw = s.hw ∧ (imagePassed s c taken).nor = s.nor := by
  have fr1 := @withImage_frame; have fr2 := @complete_frame; have fr3 := @mirrorImage_frame
  unfold imagePassed
  (repeat' split) <;> simp [fr1, fr2, fr3]

theorem imageAction_frame (s : State) (r : WriteRecord) :
    (imageAction s r).start = s.start ∧ (imageAction s r).zewen = s.zewen ∧ (imageAction s r).writes = s.writes ∧ (imageAction s r).image = s.image ∧ (imageAction s r).reg = s.reg ∧ (imageAction s r).herd = s.herd ∧ (imageAction s r).aon = s.aon ∧ (imageAction s r).plan = s.plan ∧ (imageAction s r).sched = s.sched ∧ (imageAction s r).sep = s.sep ∧ (imageAction s r).safety = s.safety ∧ (imageAction s r).cham = s.cham ∧ (imageAction s r).acq = s.acq ∧ (imageAction s r).logs = s.logs ∧ (imageAction s r).power = s.power ∧ (imageAction s r).sec = s.sec ∧ (imageAction s r).hw = s.hw ∧ (imageAction s r).nor = s.nor ∧ (imageAction s r).freeCount = s.freeCount := by
  have fr1 := @applyRecord_frame
  unfold imageAction
  split <;> simp [fr1]

theorem imageActions_frame (s : State) (rs : List WriteRecord) :
    (imageActions s rs).start = s.start ∧ (imageActions s rs).zewen = s.zewen ∧ (imageActions s rs).writes = s.writes ∧ (imageActions s rs).image = s.image ∧ (imageActions s rs).reg = s.reg ∧ (imageActions s rs).herd = s.herd ∧ (imageActions s rs).aon = s.aon ∧ (imageActions s rs).plan = s.plan ∧ (imageActions s rs).sched = s.sched ∧ (imageActions s rs).sep = s.sep ∧ (imageActions s rs).safety = s.safety ∧ (imageActions s rs).cham = s.cham ∧ (imageActions s rs).acq = s.acq ∧ (imageActions s rs).logs = s.logs ∧ (imageActions s rs).power = s.power ∧ (imageActions s rs).sec = s.sec ∧ (imageActions s rs).hw = s.hw ∧ (imageActions s rs).nor = s.nor ∧ (imageActions s rs).freeCount = s.freeCount := by
  have fr1 := @imageAction_frame; have fr2 := @analyseAll_frame
  unfold imageActions
  simp [fr1, fr2]

theorem takeSet_frame (s : State) :
    (takeSet s).mode = s.mode ∧ (takeSet s).start = s.start ∧ (takeSet s).zewen = s.zewen ∧ (takeSet s).writes = s.writes ∧ (takeSet s).image = s.image ∧ (takeSet s).reg = s.reg ∧ (takeSet s).objs = s.objs ∧ (takeSet s).herd = s.herd ∧ (takeSet s).aon = s.aon ∧ (takeSet s).net = s.net ∧ (takeSet s).plan = s.plan ∧ (takeSet s).solver = s.solver ∧ (takeSet s).piste = s.piste ∧ (takeSet s).prof = s.prof ∧ (takeSet s).ctl = s.ctl ∧ (takeSet s).sched = s.sched ∧ (takeSet s).dsp = s.dsp ∧ (takeSet s).sep = s.sep ∧ (takeSet s).field = s.field ∧ (takeSet s).acq = s.acq ∧ (takeSet s).logs = s.logs ∧ (takeSet s).clocks = s.clocks ∧ (takeSet s).power = s.power ∧ (takeSet s).pair = s.pair ∧ (takeSet s).sec = s.sec ∧ (takeSet s).hw = s.hw ∧ (takeSet s).nor = s.nor ∧ (takeSet s).freeCount = s.freeCount := by
  unfold takeSet
  split <;> simp

theorem optionalDomains_frame (s : State) :
    (optionalDomains s).mode = s.mode ∧ (optionalDomains s).start = s.start ∧ (optionalDomains s).zewen = s.zewen ∧ (optionalDomains s).writes = s.writes ∧ (optionalDomains s).image = s.image ∧ (optionalDomains s).reg = s.reg ∧ (optionalDomains s).objs = s.objs ∧ (optionalDomains s).herd = s.herd ∧ (optionalDomains s).aon = s.aon ∧ (optionalDomains s).net = s.net ∧ (optionalDomains s).plan = s.plan ∧ (optionalDomains s).solver = s.solver ∧ (optionalDomains s).piste = s.piste ∧ (optionalDomains s).prof = s.prof ∧ (optionalDomains s).ctl = s.ctl ∧ (optionalDomains s).sched = s.sched ∧ (optionalDomains s).dsp = s.dsp ∧ (optionalDomains s).sep = s.sep ∧ (optionalDomains s).safety = s.safety ∧ (optionalDomains s).cham = s.cham ∧ (optionalDomains s).field = s.field ∧ (optionalDomains s).acq = s.acq ∧ (optionalDomains s).logs = s.logs ∧ (optionalDomains s).clocks = s.clocks ∧ (optionalDomains s).pair = s.pair ∧ (optionalDomains s).sec = s.sec ∧ (optionalDomains s).hw = s.hw ∧ (optionalDomains s).nor = s.nor ∧ (optionalDomains s).freeCount = s.freeCount := by
  have fr1 := @startSequence_frame; have fr2 := @withPower_frame
  unfold optionalDomains
  simp [fr1, fr2]

theorem freshUnderImage_frame (s : State) :
    (freshUnderImage s).mode = s.mode ∧ (freshUnderImage s).start = s.start ∧ (freshUnderImage s).zewen = s.zewen ∧ (freshUnderImage s).writes = s.writes ∧ (freshUnderImage s).image = s.image ∧ (freshUnderImage s).reg = s.reg ∧ (freshUnderImage s).objs = s.objs ∧ (freshUnderImage s).herd = s.herd ∧ (freshUnderImage s).aon = s.aon ∧ (freshUnderImage s).net = s.net ∧ (freshUnderImage s).solver = s.solver ∧ (freshUnderImage s).sched = s.sched ∧ (freshUnderImage s).dsp = s.dsp ∧ (freshUnderImage s).safety = s.safety ∧ (freshUnderImage s).cham = s.cham ∧ (freshUnderImage s).field = s.field ∧ (freshUnderImage s).logs = s.logs ∧ (freshUnderImage s).clocks = s.clocks ∧ (freshUnderImage s).power = s.power ∧ (freshUnderImage s).pair = s.pair ∧ (freshUnderImage s).sec = s.sec ∧ (freshUnderImage s).hw = s.hw ∧ (freshUnderImage s).nor = s.nor ∧ (freshUnderImage s).freeCount = s.freeCount := by
  have fr1 := @withPlan_frame
  unfold freshUnderImage
  simp [fr1]

theorem unitsActivate_frame (old : State) (s : State) :
    (unitsActivate old s).mode = s.mode ∧ (unitsActivate old s).start = s.start ∧ (unitsActivate old s).writes = s.writes ∧ (unitsActivate old s).image = s.image ∧ (unitsActivate old s).aon = s.aon ∧ (unitsActivate old s).plan = s.plan ∧ (unitsActivate old s).solver = s.solver ∧ (unitsActivate old s).piste = s.piste ∧ (unitsActivate old s).prof = s.prof ∧ (unitsActivate old s).sep = s.sep ∧ (unitsActivate old s).cham = s.cham ∧ (unitsActivate old s).sec = s.sec ∧ (unitsActivate old s).hw = s.hw ∧ (unitsActivate old s).nor = s.nor := by
  have fr1 := @dspActivate_frame; have fr2 := @schedActivate_frame; have fr3 := @netActivate_frame; have fr4 := @fieldActivate_frame; have fr5 := @retime_frame; have fr6 := @clkoutFollow_frame; have fr7 := @optionalDomains_frame; have fr8 := @pairActivate_frame; have fr9 := @ungateUsed_frame; have fr10 := @clocksActivate_frame
  unfold unitsActivate
  simp [fr1, fr2, fr3, fr4, fr5, fr6, fr7, fr8, fr9, fr10]

theorem imageActivation_frame (s : State) :
    (imageActivation s).start = s.start ∧ (imageActivation s).writes = s.writes ∧ (imageActivation s).aon = s.aon ∧ (imageActivation s).sec = s.sec ∧ (imageActivation s).hw = s.hw := by
  have fr1 := @unloadPlanner_frame; have fr2 := @loadPlanner_frame; have fr3 := @imageActions_frame; have fr4 := @withImage_frame; have fr5 := @takeSet_frame; have fr6 := @unitsActivate_frame; have fr7 := @freshUnderImage_frame; have fr8 := @complete_frame
  unfold imageActivation
  (repeat' split) <;> simp [fr1, fr2, fr3, fr4, fr5, fr6, fr7, fr8]

/-! ### Acq -/

theorem withCapture_frame (s : State) (f : Capture → Capture) :
    (withCapture s f).mode = s.mode ∧ (withCapture s f).start = s.start ∧ (withCapture s f).zewen = s.zewen ∧ (withCapture s f).writes = s.writes ∧ (withCapture s f).image = s.image ∧ (withCapture s f).reg = s.reg ∧ (withCapture s f).objs = s.objs ∧ (withCapture s f).herd = s.herd ∧ (withCapture s f).aon = s.aon ∧ (withCapture s f).net = s.net ∧ (withCapture s f).plan = s.plan ∧ (withCapture s f).solver = s.solver ∧ (withCapture s f).piste = s.piste ∧ (withCapture s f).prof = s.prof ∧ (withCapture s f).ctl = s.ctl ∧ (withCapture s f).sched = s.sched ∧ (withCapture s f).dsp = s.dsp ∧ (withCapture s f).sep = s.sep ∧ (withCapture s f).safety = s.safety ∧ (withCapture s f).cham = s.cham ∧ (withCapture s f).field = s.field ∧ (withCapture s f).logs = s.logs ∧ (withCapture s f).clocks = s.clocks ∧ (withCapture s f).power = s.power ∧ (withCapture s f).pair = s.pair ∧ (withCapture s f).sec = s.sec ∧ (withCapture s f).hw = s.hw ∧ (withCapture s f).nor = s.nor ∧ (withCapture s f).freeCount = s.freeCount := by
  unfold withCapture
  simp

theorem answerRead_frame (s : State) (w : AcqWait) :
    (answerRead s w).mode = s.mode ∧ (answerRead s w).start = s.start ∧ (answerRead s w).writes = s.writes ∧ (answerRead s w).image = s.image ∧ (answerRead s w).herd = s.herd ∧ (answerRead s w).aon = s.aon ∧ (answerRead s w).net = s.net ∧ (answerRead s w).plan = s.plan ∧ (answerRead s w).solver = s.solver ∧ (answerRead s w).piste = s.piste ∧ (answerRead s w).prof = s.prof ∧ (answerRead s w).ctl = s.ctl ∧ (answerRead s w).sched = s.sched ∧ (answerRead s w).dsp = s.dsp ∧ (answerRead s w).sep = s.sep ∧ (answerRead s w).safety = s.safety ∧ (answerRead s w).cham = s.cham ∧ (answerRead s w).field = s.field ∧ (answerRead s w).clocks = s.clocks ∧ (answerRead s w).power = s.power ∧ (answerRead s w).pair = s.pair ∧ (answerRead s w).sec = s.sec ∧ (answerRead s w).hw = s.hw ∧ (answerRead s w).nor = s.nor := by
  have fr1 := @complete_frame
  unfold answerRead
  simp [fr1]

theorem settleReads_frame (s : State) :
    (settleReads s).mode = s.mode ∧ (settleReads s).start = s.start ∧ (settleReads s).writes = s.writes ∧ (settleReads s).image = s.image ∧ (settleReads s).herd = s.herd ∧ (settleReads s).aon = s.aon ∧ (settleReads s).net = s.net ∧ (settleReads s).plan = s.plan ∧ (settleReads s).solver = s.solver ∧ (settleReads s).piste = s.piste ∧ (settleReads s).prof = s.prof ∧ (settleReads s).ctl = s.ctl ∧ (settleReads s).sched = s.sched ∧ (settleReads s).dsp = s.dsp ∧ (settleReads s).sep = s.sep ∧ (settleReads s).safety = s.safety ∧ (settleReads s).cham = s.cham ∧ (settleReads s).field = s.field ∧ (settleReads s).clocks = s.clocks ∧ (settleReads s).power = s.power ∧ (settleReads s).pair = s.pair ∧ (settleReads s).sec = s.sec ∧ (settleReads s).hw = s.hw ∧ (settleReads s).nor = s.nor := by
  have fr1 := @answerRead_frame
  unfold settleReads
  simp [fr1]

theorem captureEnds_frame (s : State) (how : AcqMode) :
    (captureEnds s how).mode = s.mode ∧ (captureEnds s how).start = s.start ∧ (captureEnds s how).writes = s.writes ∧ (captureEnds s how).image = s.image ∧ (captureEnds s how).herd = s.herd ∧ (captureEnds s how).aon = s.aon ∧ (captureEnds s how).net = s.net ∧ (captureEnds s how).plan = s.plan ∧ (captureEnds s how).solver = s.solver ∧ (captureEnds s how).piste = s.piste ∧ (captureEnds s how).prof = s.prof ∧ (captureEnds s how).ctl = s.ctl ∧ (captureEnds s how).sched = s.sched ∧ (captureEnds s how).dsp = s.dsp ∧ (captureEnds s how).sep = s.sep ∧ (captureEnds s how).safety = s.safety ∧ (captureEnds s how).cham = s.cham ∧ (captureEnds s how).field = s.field ∧ (captureEnds s how).clocks = s.clocks ∧ (captureEnds s how).power = s.power ∧ (captureEnds s how).pair = s.pair ∧ (captureEnds s how).sec = s.sec ∧ (captureEnds s how).hw = s.hw ∧ (captureEnds s how).nor = s.nor := by
  have fr1 := @withCapture_frame; have fr2 := @settleReads_frame; have fr3 := @setInt_frame; have fr4 := @bump_frame
  unfold captureEnds
  simp [fr1, fr2, fr3, fr4]

theorem takeTrigger_frame (s : State) (t : Trig) :
    (takeTrigger s t).mode = s.mode ∧ (takeTrigger s t).start = s.start ∧ (takeTrigger s t).writes = s.writes ∧ (takeTrigger s t).image = s.image ∧ (takeTrigger s t).objs = s.objs ∧ (takeTrigger s t).herd = s.herd ∧ (takeTrigger s t).aon = s.aon ∧ (takeTrigger s t).net = s.net ∧ (takeTrigger s t).plan = s.plan ∧ (takeTrigger s t).solver = s.solver ∧ (takeTrigger s t).piste = s.piste ∧ (takeTrigger s t).prof = s.prof ∧ (takeTrigger s t).ctl = s.ctl ∧ (takeTrigger s t).sched = s.sched ∧ (takeTrigger s t).dsp = s.dsp ∧ (takeTrigger s t).sep = s.sep ∧ (takeTrigger s t).safety = s.safety ∧ (takeTrigger s t).cham = s.cham ∧ (takeTrigger s t).field = s.field ∧ (takeTrigger s t).logs = s.logs ∧ (takeTrigger s t).clocks = s.clocks ∧ (takeTrigger s t).power = s.power ∧ (takeTrigger s t).pair = s.pair ∧ (takeTrigger s t).sec = s.sec ∧ (takeTrigger s t).hw = s.hw ∧ (takeTrigger s t).nor = s.nor ∧ (takeTrigger s t).freeCount = s.freeCount := by
  have fr1 := @withCapture_frame; have fr2 := @setInt_frame
  unfold takeTrigger
  simp [fr1, fr2]

theorem storeRow_frame (s : State) (room : Bool) (row : Bytes) :
    (storeRow s room row).mode = s.mode ∧ (storeRow s room row).start = s.start ∧ (storeRow s room row).writes = s.writes ∧ (storeRow s room row).image = s.image ∧ (storeRow s room row).herd = s.herd ∧ (storeRow s room row).aon = s.aon ∧ (storeRow s room row).net = s.net ∧ (storeRow s room row).plan = s.plan ∧ (storeRow s room row).solver = s.solver ∧ (storeRow s room row).piste = s.piste ∧ (storeRow s room row).prof = s.prof ∧ (storeRow s room row).ctl = s.ctl ∧ (storeRow s room row).sched = s.sched ∧ (storeRow s room row).dsp = s.dsp ∧ (storeRow s room row).sep = s.sep ∧ (storeRow s room row).safety = s.safety ∧ (storeRow s room row).cham = s.cham ∧ (storeRow s room row).field = s.field ∧ (storeRow s room row).clocks = s.clocks ∧ (storeRow s room row).power = s.power ∧ (storeRow s room row).pair = s.pair ∧ (storeRow s room row).sec = s.sec ∧ (storeRow s room row).hw = s.hw ∧ (storeRow s room row).nor = s.nor := by
  have fr1 := @withCapture_frame; have fr2 := @captureEnds_frame
  unfold storeRow
  dsimp only
  (repeat' split) <;> simp [fr1, fr2]

theorem takeSample_frame (s : State) (room : Bool) :
    (takeSample s room).mode = s.mode ∧ (takeSample s room).start = s.start ∧ (takeSample s room).writes = s.writes ∧ (takeSample s room).image = s.image ∧ (takeSample s room).herd = s.herd ∧ (takeSample s room).aon = s.aon ∧ (takeSample s room).plan = s.plan ∧ (takeSample s room).solver = s.solver ∧ (takeSample s room).piste = s.piste ∧ (takeSample s room).prof = s.prof ∧ (takeSample s room).ctl = s.ctl ∧ (takeSample s room).sched = s.sched ∧ (takeSample s room).dsp = s.dsp ∧ (takeSample s room).sep = s.sep ∧ (takeSample s room).safety = s.safety ∧ (takeSample s room).cham = s.cham ∧ (takeSample s room).field = s.field ∧ (takeSample s room).clocks = s.clocks ∧ (takeSample s room).power = s.power ∧ (takeSample s room).pair = s.pair ∧ (takeSample s room).sec = s.sec ∧ (takeSample s room).hw = s.hw ∧ (takeSample s room).nor = s.nor := by
  have fr1 := @withCapture_frame; have fr2 := @bump_frame; have fr3 := @takeTrigger_frame; have fr4 := @captureEnds_frame; have fr5 := @storeRow_frame
  unfold takeSample
  dsimp only
  split <;> simp [fr1, fr2, fr3, fr4, fr5]

theorem acqAct_frame (s : State) (a : AcqAction) :
    (acqAct s a).mode = s.mode ∧ (acqAct s a).start = s.start ∧ (acqAct s a).writes = s.writes ∧ (acqAct s a).image = s.image ∧ (acqAct s a).herd = s.herd ∧ (acqAct s a).aon = s.aon ∧ (acqAct s a).net = s.net ∧ (acqAct s a).plan = s.plan ∧ (acqAct s a).solver = s.solver ∧ (acqAct s a).piste = s.piste ∧ (acqAct s a).prof = s.prof ∧ (acqAct s a).ctl = s.ctl ∧ (acqAct s a).sched = s.sched ∧ (acqAct s a).dsp = s.dsp ∧ (acqAct s a).sep = s.sep ∧ (acqAct s a).safety = s.safety ∧ (acqAct s a).cham = s.cham ∧ (acqAct s a).field = s.field ∧ (acqAct s a).clocks = s.clocks ∧ (acqAct s a).power = s.power ∧ (acqAct s a).pair = s.pair ∧ (acqAct s a).sec = s.sec ∧ (acqAct s a).hw = s.hw ∧ (acqAct s a).nor = s.nor := by
  have fr1 := @withCapture_frame; have fr2 := @captureEnds_frame
  unfold acqAct
  split <;> simp [fr1, fr2]

theorem acqTick_frame (s : State) :
    (acqTick s).mode = s.mode ∧ (acqTick s).start = s.start ∧ (acqTick s).writes = s.writes ∧ (acqTick s).image = s.image ∧ (acqTick s).herd = s.herd ∧ (acqTick s).aon = s.aon ∧ (acqTick s).net = s.net ∧ (acqTick s).plan = s.plan ∧ (acqTick s).solver = s.solver ∧ (acqTick s).piste = s.piste ∧ (acqTick s).prof = s.prof ∧ (acqTick s).ctl = s.ctl ∧ (acqTick s).sched = s.sched ∧ (acqTick s).dsp = s.dsp ∧ (acqTick s).sep = s.sep ∧ (acqTick s).safety = s.safety ∧ (acqTick s).cham = s.cham ∧ (acqTick s).field = s.field ∧ (acqTick s).clocks = s.clocks ∧ (acqTick s).power = s.power ∧ (acqTick s).pair = s.pair ∧ (acqTick s).sec = s.sec ∧ (acqTick s).hw = s.hw ∧ (acqTick s).nor = s.nor := by
  have fr1 := @acqAct_frame
  unfold acqTick
  simp [fr1]

theorem acqArm_frame (e : Entry) (x1 : Transport) (s : State) :
    (acqArm e x1 s).mode = s.mode ∧ (acqArm e x1 s).start = s.start ∧ (acqArm e x1 s).writes = s.writes ∧ (acqArm e x1 s).image = s.image ∧ (acqArm e x1 s).herd = s.herd ∧ (acqArm e x1 s).aon = s.aon ∧ (acqArm e x1 s).net = s.net ∧ (acqArm e x1 s).plan = s.plan ∧ (acqArm e x1 s).solver = s.solver ∧ (acqArm e x1 s).piste = s.piste ∧ (acqArm e x1 s).prof = s.prof ∧ (acqArm e x1 s).ctl = s.ctl ∧ (acqArm e x1 s).sched = s.sched ∧ (acqArm e x1 s).dsp = s.dsp ∧ (acqArm e x1 s).sep = s.sep ∧ (acqArm e x1 s).safety = s.safety ∧ (acqArm e x1 s).cham = s.cham ∧ (acqArm e x1 s).field = s.field ∧ (acqArm e x1 s).clocks = s.clocks ∧ (acqArm e x1 s).power = s.power ∧ (acqArm e x1 s).pair = s.pair ∧ (acqArm e x1 s).sec = s.sec ∧ (acqArm e x1 s).hw = s.hw ∧ (acqArm e x1 s).nor = s.nor := by
  have fr1 := @complete_frame; have fr2 := @answer_frame
  unfold acqArm
  simp [fr1, fr2]

theorem acqRead_frame (e : Entry) (x1 : Transport) (s : State) :
    (acqRead e x1 s).mode = s.mode ∧ (acqRead e x1 s).start = s.start ∧ (acqRead e x1 s).writes = s.writes ∧ (acqRead e x1 s).image = s.image ∧ (acqRead e x1 s).herd = s.herd ∧ (acqRead e x1 s).aon = s.aon ∧ (acqRead e x1 s).net = s.net ∧ (acqRead e x1 s).plan = s.plan ∧ (acqRead e x1 s).solver = s.solver ∧ (acqRead e x1 s).piste = s.piste ∧ (acqRead e x1 s).prof = s.prof ∧ (acqRead e x1 s).ctl = s.ctl ∧ (acqRead e x1 s).sched = s.sched ∧ (acqRead e x1 s).dsp = s.dsp ∧ (acqRead e x1 s).sep = s.sep ∧ (acqRead e x1 s).safety = s.safety ∧ (acqRead e x1 s).cham = s.cham ∧ (acqRead e x1 s).field = s.field ∧ (acqRead e x1 s).clocks = s.clocks ∧ (acqRead e x1 s).power = s.power ∧ (acqRead e x1 s).pair = s.pair ∧ (acqRead e x1 s).sec = s.sec ∧ (acqRead e x1 s).hw = s.hw ∧ (acqRead e x1 s).nor = s.nor := by
  have fr1 := @complete_frame; have fr2 := @settleReads_frame
  unfold acqRead
  simp [fr1, fr2]

theorem setClass_frame (s : State) (cls : ℕ) (l : List LogEntry) :
    (setClass s cls l).mode = s.mode ∧ (setClass s cls l).start = s.start ∧ (setClass s cls l).zewen = s.zewen ∧ (setClass s cls l).writes = s.writes ∧ (setClass s cls l).image = s.image ∧ (setClass s cls l).reg = s.reg ∧ (setClass s cls l).objs = s.objs ∧ (setClass s cls l).herd = s.herd ∧ (setClass s cls l).aon = s.aon ∧ (setClass s cls l).net = s.net ∧ (setClass s cls l).plan = s.plan ∧ (setClass s cls l).solver = s.solver ∧ (setClass s cls l).piste = s.piste ∧ (setClass s cls l).prof = s.prof ∧ (setClass s cls l).ctl = s.ctl ∧ (setClass s cls l).sched = s.sched ∧ (setClass s cls l).dsp = s.dsp ∧ (setClass s cls l).sep = s.sep ∧ (setClass s cls l).safety = s.safety ∧ (setClass s cls l).cham = s.cham ∧ (setClass s cls l).field = s.field ∧ (setClass s cls l).acq = s.acq ∧ (setClass s cls l).clocks = s.clocks ∧ (setClass s cls l).power = s.power ∧ (setClass s cls l).pair = s.pair ∧ (setClass s cls l).sec = s.sec ∧ (setClass s cls l).hw = s.hw ∧ (setClass s cls l).nor = s.nor ∧ (setClass s cls l).freeCount = s.freeCount := by
  have fr1 := @withLogs_frame
  unfold setClass
  simp [fr1]

theorem logRead_frame (e : Entry) (x1 : Transport) (s : State) :
    (logRead e x1 s).mode = s.mode ∧ (logRead e x1 s).start = s.start ∧ (logRead e x1 s).writes = s.writes ∧ (logRead e x1 s).image = s.image ∧ (logRead e x1 s).herd = s.herd ∧ (logRead e x1 s).aon = s.aon ∧ (logRead e x1 s).net = s.net ∧ (logRead e x1 s).plan = s.plan ∧ (logRead e x1 s).solver = s.solver ∧ (logRead e x1 s).piste = s.piste ∧ (logRead e x1 s).prof = s.prof ∧ (logRead e x1 s).ctl = s.ctl ∧ (logRead e x1 s).sched = s.sched ∧ (logRead e x1 s).dsp = s.dsp ∧ (logRead e x1 s).sep = s.sep ∧ (logRead e x1 s).safety = s.safety ∧ (logRead e x1 s).cham = s.cham ∧ (logRead e x1 s).field = s.field ∧ (logRead e x1 s).clocks = s.clocks ∧ (logRead e x1 s).power = s.power ∧ (logRead e x1 s).pair = s.pair ∧ (logRead e x1 s).sec = s.sec ∧ (logRead e x1 s).hw = s.hw ∧ (logRead e x1 s).nor = s.nor := by
  have fr1 := @complete_frame; have fr2 := @setClass_frame; have fr3 := @withLogs_frame; have fr4 := @answer_frame
  unfold logRead
  simp [fr1, fr2, fr3, fr4]

/-! ### Start -/

theorem markStep_frame (s : State) (k : ℕ) (tries : ℕ) (o : StepOutcome) :
    (markStep s k tries o).mode = s.mode ∧ (markStep s k tries o).zewen = s.zewen ∧ (markStep s k tries o).writes = s.writes ∧ (markStep s k tries o).image = s.image ∧ (markStep s k tries o).reg = s.reg ∧ (markStep s k tries o).objs = s.objs ∧ (markStep s k tries o).herd = s.herd ∧ (markStep s k tries o).net = s.net ∧ (markStep s k tries o).plan = s.plan ∧ (markStep s k tries o).solver = s.solver ∧ (markStep s k tries o).piste = s.piste ∧ (markStep s k tries o).prof = s.prof ∧ (markStep s k tries o).ctl = s.ctl ∧ (markStep s k tries o).sched = s.sched ∧ (markStep s k tries o).dsp = s.dsp ∧ (markStep s k tries o).sep = s.sep ∧ (markStep s k tries o).safety = s.safety ∧ (markStep s k tries o).cham = s.cham ∧ (markStep s k tries o).field = s.field ∧ (markStep s k tries o).acq = s.acq ∧ (markStep s k tries o).logs = s.logs ∧ (markStep s k tries o).clocks = s.clocks ∧ (markStep s k tries o).power = s.power ∧ (markStep s k tries o).pair = s.pair ∧ (markStep s k tries o).sec = s.sec ∧ (markStep s k tries o).hw = s.hw ∧ (markStep s k tries o).nor = s.nor ∧ (markStep s k tries o).freeCount = s.freeCount := by
  have fr1 := @editRecord_frame
  unfold markStep
  simp [fr1]

theorem noteFailWord_frame (s : State) (k : ℕ) (w : Word) :
    (noteFailWord s k w).mode = s.mode ∧ (noteFailWord s k w).zewen = s.zewen ∧ (noteFailWord s k w).writes = s.writes ∧ (noteFailWord s k w).image = s.image ∧ (noteFailWord s k w).reg = s.reg ∧ (noteFailWord s k w).objs = s.objs ∧ (noteFailWord s k w).herd = s.herd ∧ (noteFailWord s k w).net = s.net ∧ (noteFailWord s k w).plan = s.plan ∧ (noteFailWord s k w).solver = s.solver ∧ (noteFailWord s k w).piste = s.piste ∧ (noteFailWord s k w).prof = s.prof ∧ (noteFailWord s k w).ctl = s.ctl ∧ (noteFailWord s k w).sched = s.sched ∧ (noteFailWord s k w).dsp = s.dsp ∧ (noteFailWord s k w).sep = s.sep ∧ (noteFailWord s k w).safety = s.safety ∧ (noteFailWord s k w).cham = s.cham ∧ (noteFailWord s k w).field = s.field ∧ (noteFailWord s k w).acq = s.acq ∧ (noteFailWord s k w).logs = s.logs ∧ (noteFailWord s k w).clocks = s.clocks ∧ (noteFailWord s k w).power = s.power ∧ (noteFailWord s k w).pair = s.pair ∧ (noteFailWord s k w).sec = s.sec ∧ (noteFailWord s k w).hw = s.hw ∧ (noteFailWord s k w).nor = s.nor ∧ (noteFailWord s k w).freeCount = s.freeCount := by
  have fr1 := @editRecord_frame
  unfold noteFailWord
  simp [fr1]

theorem noteFirstFailed_frame (s : State) (k : ℕ) :
    (noteFirstFailed s k).mode = s.mode ∧ (noteFirstFailed s k).zewen = s.zewen ∧ (noteFirstFailed s k).writes = s.writes ∧ (noteFirstFailed s k).image = s.image ∧ (noteFirstFailed s k).reg = s.reg ∧ (noteFirstFailed s k).objs = s.objs ∧ (noteFirstFailed s k).herd = s.herd ∧ (noteFirstFailed s k).net = s.net ∧ (noteFirstFailed s k).plan = s.plan ∧ (noteFirstFailed s k).solver = s.solver ∧ (noteFirstFailed s k).piste = s.piste ∧ (noteFirstFailed s k).prof = s.prof ∧ (noteFirstFailed s k).ctl = s.ctl ∧ (noteFirstFailed s k).sched = s.sched ∧ (noteFirstFailed s k).dsp = s.dsp ∧ (noteFirstFailed s k).sep = s.sep ∧ (noteFirstFailed s k).safety = s.safety ∧ (noteFirstFailed s k).cham = s.cham ∧ (noteFirstFailed s k).field = s.field ∧ (noteFirstFailed s k).acq = s.acq ∧ (noteFirstFailed s k).logs = s.logs ∧ (noteFirstFailed s k).clocks = s.clocks ∧ (noteFirstFailed s k).power = s.power ∧ (noteFirstFailed s k).pair = s.pair ∧ (noteFirstFailed s k).sec = s.sec ∧ (noteFirstFailed s k).hw = s.hw ∧ (noteFirstFailed s k).nor = s.nor ∧ (noteFirstFailed s k).freeCount = s.freeCount := by
  have fr1 := @editRecord_frame
  unfold noteFirstFailed
  simp [fr1]

theorem checkRetention_frame (s : State) :
    (checkRetention s).mode = s.mode ∧ (checkRetention s).start = s.start ∧ (checkRetention s).zewen = s.zewen ∧ (checkRetention s).writes = s.writes ∧ (checkRetention s).image = s.image ∧ (checkRetention s).reg = s.reg ∧ (checkRetention s).objs = s.objs ∧ (checkRetention s).herd = s.herd ∧ (checkRetention s).net = s.net ∧ (checkRetention s).plan = s.plan ∧ (checkRetention s).solver = s.solver ∧ (checkRetention s).piste = s.piste ∧ (checkRetention s).prof = s.prof ∧ (checkRetention s).ctl = s.ctl ∧ (checkRetention s).sched = s.sched ∧ (checkRetention s).dsp = s.dsp ∧ (checkRetention s).sep = s.sep ∧ (checkRetention s).safety = s.safety ∧ (checkRetention s).cham = s.cham ∧ (checkRetention s).field = s.field ∧ (checkRetention s).acq = s.acq ∧ (checkRetention s).logs = s.logs ∧ (checkRetention s).clocks = s.clocks ∧ (checkRetention s).power = s.power ∧ (checkRetention s).pair = s.pair ∧ (checkRetention s).sec = s.sec ∧ (checkRetention s).hw = s.hw ∧ (checkRetention s).nor = s.nor ∧ (checkRetention s).freeCount = s.freeCount := by
  unfold checkRetention
  simp

theorem loadRecord_frame (s0 : State) :
    (loadRecord s0).mode = s0.mode ∧ (loadRecord s0).zewen = s0.zewen ∧ (loadRecord s0).writes = s0.writes ∧ (loadRecord s0).image = s0.image ∧ (loadRecord s0).reg = s0.reg ∧ (loadRecord s0).objs = s0.objs ∧ (loadRecord s0).herd = s0.herd ∧ (loadRecord s0).net = s0.net ∧ (loadRecord s0).plan = s0.plan ∧ (loadRecord s0).solver = s0.solver ∧ (loadRecord s0).piste = s0.piste ∧ (loadRecord s0).prof = s0.prof ∧ (loadRecord s0).ctl = s0.ctl ∧ (loadRecord s0).sched = s0.sched ∧ (loadRecord s0).dsp = s0.dsp ∧ (loadRecord s0).sep = s0.sep ∧ (loadRecord s0).safety = s0.safety ∧ (loadRecord s0).cham = s0.cham ∧ (loadRecord s0).field = s0.field ∧ (loadRecord s0).acq = s0.acq ∧ (loadRecord s0).logs = s0.logs ∧ (loadRecord s0).clocks = s0.clocks ∧ (loadRecord s0).power = s0.power ∧ (loadRecord s0).pair = s0.pair ∧ (loadRecord s0).hw = s0.hw ∧ (loadRecord s0).freeCount = s0.freeCount := by
  have fr1 := @checkRetention_frame; have fr2 := @loadIndex_frame; have fr3 := @withStart_frame; have fr4 := @mirrorRecord_frame; have fr5 := @editRecord_frame
  unfold loadRecord
  simp [fr1, fr2, fr3, fr4, fr5]

theorem stampStep_frame (s : State) :
    (stampStep s).mode = s.mode ∧ (stampStep s).zewen = s.zewen ∧ (stampStep s).writes = s.writes ∧ (stampStep s).image = s.image ∧ (stampStep s).reg = s.reg ∧ (stampStep s).objs = s.objs ∧ (stampStep s).herd = s.herd ∧ (stampStep s).aon = s.aon ∧ (stampStep s).net = s.net ∧ (stampStep s).plan = s.plan ∧ (stampStep s).solver = s.solver ∧ (stampStep s).piste = s.piste ∧ (stampStep s).prof = s.prof ∧ (stampStep s).ctl = s.ctl ∧ (stampStep s).sched = s.sched ∧ (stampStep s).dsp = s.dsp ∧ (stampStep s).sep = s.sep ∧ (stampStep s).safety = s.safety ∧ (stampStep s).cham = s.cham ∧ (stampStep s).field = s.field ∧ (stampStep s).acq = s.acq ∧ (stampStep s).logs = s.logs ∧ (stampStep s).clocks = s.clocks ∧ (stampStep s).power = s.power ∧ (stampStep s).pair = s.pair ∧ (stampStep s).sec = s.sec ∧ (stampStep s).hw = s.hw ∧ (stampStep s).nor = s.nor ∧ (stampStep s).freeCount = s.freeCount := by
  have fr1 := @withStart_frame
  unfold stampStep
  simp [fr1]

theorem beginStep_frame (s : State) (k : ℕ) :
    (beginStep s k).mode = s.mode ∧ (beginStep s k).zewen = s.zewen ∧ (beginStep s k).writes = s.writes ∧ (beginStep s k).image = s.image ∧ (beginStep s k).reg = s.reg ∧ (beginStep s k).objs = s.objs ∧ (beginStep s k).herd = s.herd ∧ (beginStep s k).net = s.net ∧ (beginStep s k).plan = s.plan ∧ (beginStep s k).solver = s.solver ∧ (beginStep s k).piste = s.piste ∧ (beginStep s k).prof = s.prof ∧ (beginStep s k).ctl = s.ctl ∧ (beginStep s k).sched = s.sched ∧ (beginStep s k).dsp = s.dsp ∧ (beginStep s k).sep = s.sep ∧ (beginStep s k).safety = s.safety ∧ (beginStep s k).cham = s.cham ∧ (beginStep s k).field = s.field ∧ (beginStep s k).acq = s.acq ∧ (beginStep s k).logs = s.logs ∧ (beginStep s k).clocks = s.clocks ∧ (beginStep s k).power = s.power ∧ (beginStep s k).pair = s.pair ∧ (beginStep s k).hw = s.hw ∧ (beginStep s k).freeCount = s.freeCount := by
  have fr1 := @markStep_frame; have fr2 := @stampStep_frame; have fr3 := @loadRecord_frame
  unfold beginStep
  simp [fr1, fr2, fr3]

theorem attemptFails_frame (s : State) :
    (attemptFails s).aon = s.aon ∧ (attemptFails s).cham = s.cham ∧ (attemptFails s).freeCount = s.freeCount := by
  have fr1 := @moduleReset_frame; have fr2 := @mirrorRecord_frame
  unfold attemptFails
  simp [fr1, fr2]

theorem stepUp_frame (s : State) (k : ℕ) (without : Option ℕ) :
    (stepUp s k without).mode = s.mode ∧ (stepUp s k without).start = s.start ∧ (stepUp s k without).zewen = s.zewen ∧ (stepUp s k without).writes = s.writes ∧ (stepUp s k without).image = s.image ∧ (stepUp s k without).reg = s.reg ∧ (stepUp s k without).herd = s.herd ∧ (stepUp s k without).aon = s.aon ∧ (stepUp s k without).net = s.net ∧ (stepUp s k without).plan = s.plan ∧ (stepUp s k without).solver = s.solver ∧ (stepUp s k without).piste = s.piste ∧ (stepUp s k without).prof = s.prof ∧ (stepUp s k without).ctl = s.ctl ∧ (stepUp s k without).sched = s.sched ∧ (stepUp s k without).dsp = s.dsp ∧ (stepUp s k without).sep = s.sep ∧ (stepUp s k without).safety = s.safety ∧ (stepUp s k without).cham = s.cham ∧ (stepUp s k without).field = s.field ∧ (stepUp s k without).acq = s.acq ∧ (stepUp s k without).logs = s.logs ∧ (stepUp s k without).clocks = s.clocks ∧ (stepUp s k without).pair = s.pair ∧ (stepUp s k without).sec = s.sec ∧ (stepUp s k without).hw = s.hw ∧ (stepUp s k without).nor = s.nor ∧ (stepUp s k without).freeCount = s.freeCount := by
  have fr1 := @domainUp_frame
  unfold stepUp
  simp [fr1]

theorem rescueStart_frame (s : State) (ethernet : Bool) :
    (rescueStart s ethernet).mode = s.mode ∧ (rescueStart s ethernet).writes = s.writes ∧ (rescueStart s ethernet).image = s.image ∧ (rescueStart s ethernet).reg = s.reg ∧ (rescueStart s ethernet).herd = s.herd ∧ (rescueStart s ethernet).aon = s.aon ∧ (rescueStart s ethernet).net = s.net ∧ (rescueStart s ethernet).plan = s.plan ∧ (rescueStart s ethernet).solver = s.solver ∧ (rescueStart s ethernet).piste = s.piste ∧ (rescueStart s ethernet).prof = s.prof ∧ (rescueStart s ethernet).ctl = s.ctl ∧ (rescueStart s ethernet).sched = s.sched ∧ (rescueStart s ethernet).dsp = s.dsp ∧ (rescueStart s ethernet).sep = s.sep ∧ (rescueStart s ethernet).safety = s.safety ∧ (rescueStart s ethernet).cham = s.cham ∧ (rescueStart s ethernet).field = s.field ∧ (rescueStart s ethernet).acq = s.acq ∧ (rescueStart s ethernet).logs = s.logs ∧ (rescueStart s ethernet).clocks = s.clocks ∧ (rescueStart s ethernet).pair = s.pair ∧ (rescueStart s ethernet).sec = s.sec ∧ (rescueStart s ethernet).hw = s.hw ∧ (rescueStart s ethernet).nor = s.nor ∧ (rescueStart s ethernet).freeCount = s.freeCount := by
  have fr1 := @domainUp_frame; have fr2 := @withStart_frame
  unfold rescueStart
  simp [fr1, fr2]

theorem stepOver_frame (s : State) (k : ℕ) :
    (stepOver s k).mode = s.mode ∧ (stepOver s k).writes = s.writes ∧ (stepOver s k).image = s.image ∧ (stepOver s k).reg = s.reg ∧ (stepOver s k).herd = s.herd ∧ (stepOver s k).net = s.net ∧ (stepOver s k).plan = s.plan ∧ (stepOver s k).solver = s.solver ∧ (stepOver s k).piste = s.piste ∧ (stepOver s k).prof = s.prof ∧ (stepOver s k).ctl = s.ctl ∧ (stepOver s k).sched = s.sched ∧ (stepOver s k).dsp = s.dsp ∧ (stepOver s k).sep = s.sep ∧ (stepOver s k).safety = s.safety ∧ (stepOver s k).cham = s.cham ∧ (stepOver s k).field = s.field ∧ (stepOver s k).acq = s.acq ∧ (stepOver s k).logs = s.logs ∧ (stepOver s k).clocks = s.clocks ∧ (stepOver s k).pair = s.pair ∧ (stepOver s k).hw = s.hw ∧ (stepOver s k).freeCount = s.freeCount := by
  have fr1 := @withStart_frame; have fr2 := @rescueStart_frame; have fr3 := @faultStartDone_frame; have fr4 := @beginStep_frame
  unfold stepOver
  simp [fr1, fr2, fr3, fr4]

theorem stepFails_frame (s : State) (k : ℕ) (tries : ℕ) (o : StepOutcome) (w : Word) :
    (stepFails s k tries o w).cham = s.cham ∧ (stepFails s k tries o w).freeCount = s.freeCount := by
  have fr1 := @noteFirstFailed_frame; have fr2 := @noteFailWord_frame; have fr3 := @markStep_frame; have fr4 := @rescueStart_frame; have fr5 := @withStart_frame; have fr6 := @stepOver_frame; have fr7 := @attemptFails_frame
  unfold stepFails
  simp [fr1, fr2, fr3, fr4, fr5, fr6, fr7]

theorem stepPasses_frame (s : State) (k : ℕ) :
    (stepPasses s k).mode = s.mode ∧ (stepPasses s k).writes = s.writes ∧ (stepPasses s k).image = s.image ∧ (stepPasses s k).reg = s.reg ∧ (stepPasses s k).herd = s.herd ∧ (stepPasses s k).net = s.net ∧ (stepPasses s k).plan = s.plan ∧ (stepPasses s k).solver = s.solver ∧ (stepPasses s k).piste = s.piste ∧ (stepPasses s k).prof = s.prof ∧ (stepPasses s k).ctl = s.ctl ∧ (stepPasses s k).sched = s.sched ∧ (stepPasses s k).dsp = s.dsp ∧ (stepPasses s k).sep = s.sep ∧ (stepPasses s k).safety = s.safety ∧ (stepPasses s k).cham = s.cham ∧ (stepPasses s k).field = s.field ∧ (stepPasses s k).acq = s.acq ∧ (stepPasses s k).logs = s.logs ∧ (stepPasses s k).clocks = s.clocks ∧ (stepPasses s k).pair = s.pair ∧ (stepPasses s k).hw = s.hw ∧ (stepPasses s k).freeCount = s.freeCount := by
  have fr1 := @stepOver_frame; have fr2 := @markStep_frame
  unfold stepPasses
  simp [fr1, fr2]

theorem slotFails_frame (s : State) (code : ℕ) :
    (slotFails s code).cham = s.cham ∧ (slotFails s code).freeCount = s.freeCount := by
  have fr1 := @noteFailWord_frame; have fr2 := @markStep_frame; have fr3 := @stampStep_frame; have fr4 := @withStart_frame; have fr5 := @stepFails_frame
  unfold slotFails
  simp [fr1, fr2, fr3, fr4, fr5]

theorem stepB07_frame (s : State) (r : StepResult) :
    (stepB07 s r).cham = s.cham := by
  have fr1 := @setFirmware_frame; have fr2 := @withSec_frame; have fr3 := @editRecord_frame; have fr4 := @stepOver_frame; have fr5 := @markStep_frame; have fr6 := @slotFails_frame
  unfold stepB07
  split <;> simp [fr1, fr2, fr3, fr4, fr5, fr6]

theorem stepWork_frame (s : State) (k : ℕ) {t : State} (h : stepWork s k = some t) :
    (t).mode = s.mode ∧ (t).writes = s.writes ∧ (t).image = s.image ∧ (t).reg = s.reg ∧ (t).objs = s.objs ∧ (t).aon = s.aon ∧ (t).plan = s.plan ∧ (t).solver = s.solver ∧ (t).piste = s.piste ∧ (t).prof = s.prof ∧ (t).ctl = s.ctl ∧ (t).sched = s.sched ∧ (t).dsp = s.dsp ∧ (t).sep = s.sep ∧ (t).safety = s.safety ∧ (t).cham = s.cham ∧ (t).field = s.field ∧ (t).acq = s.acq ∧ (t).logs = s.logs ∧ (t).clocks = s.clocks ∧ (t).power = s.power ∧ (t).pair = s.pair ∧ (t).sec = s.sec ∧ (t).freeCount = s.freeCount := by
  have fr1 := @withStart_frame
  unfold stepWork at h
  repeat' split at h
  all_goals simp_all
  all_goals first
    | (subst h; simp [fr1])
    | (obtain ⟨a, -, rfl⟩ := h; simp [fr1])

theorem raiseFloor_frame (s : State) :
    (raiseFloor s).mode = s.mode ∧ (raiseFloor s).start = s.start ∧ (raiseFloor s).zewen = s.zewen ∧ (raiseFloor s).writes = s.writes ∧ (raiseFloor s).image = s.image ∧ (raiseFloor s).reg = s.reg ∧ (raiseFloor s).objs = s.objs ∧ (raiseFloor s).herd = s.herd ∧ (raiseFloor s).aon = s.aon ∧ (raiseFloor s).net = s.net ∧ (raiseFloor s).plan = s.plan ∧ (raiseFloor s).solver = s.solver ∧ (raiseFloor s).piste = s.piste ∧ (raiseFloor s).prof = s.prof ∧ (raiseFloor s).ctl = s.ctl ∧ (raiseFloor s).sched = s.sched ∧ (raiseFloor s).dsp = s.dsp ∧ (raiseFloor s).sep = s.sep ∧ (raiseFloor s).safety = s.safety ∧ (raiseFloor s).cham = s.cham ∧ (raiseFloor s).field = s.field ∧ (raiseFloor s).acq = s.acq ∧ (raiseFloor s).logs = s.logs ∧ (raiseFloor s).clocks = s.clocks ∧ (raiseFloor s).power = s.power ∧ (raiseFloor s).pair = s.pair ∧ (raiseFloor s).hw = s.hw ∧ (raiseFloor s).nor = s.nor ∧ (raiseFloor s).freeCount = s.freeCount := by
  have fr1 := @withSec_frame
  unfold raiseFloor
  simp [fr1]

theorem startComplete_frame (s : State) :
    (startComplete s).writes = s.writes ∧ (startComplete s).sched = s.sched ∧ (startComplete s).sep = s.sep ∧ (startComplete s).safety = s.safety ∧ (startComplete s).cham = s.cham ∧ (startComplete s).power = s.power ∧ (startComplete s).hw = s.hw := by
  have fr1 := @mirrorRecord_frame; have fr2 := @editRecord_frame; have fr3 := @raiseFloor_frame; have fr4 := @withStart_frame; have fr5 := @withImage_frame; have fr6 := @setCycle_frame; have fr7 := @stagedState_frame; have fr8 := @acceptTarget_frame
  unfold startComplete
  dsimp only
  split <;> simp [fr1, fr2, fr3, fr4, fr5, fr6, fr7, fr8]

theorem cutShort_frame (s : State) :
    (cutShort s).aon = s.aon ∧ (cutShort s).cham = s.cham ∧ (cutShort s).freeCount = s.freeCount := by
  have fr1 := @attemptFails_frame; have fr2 := @moduleReset_frame
  unfold cutShort
  simp [fr1, fr2]

theorem withHw_frame (s : State) (f : HardwareState → HardwareState) :
    (withHw s f).mode = s.mode ∧ (withHw s f).start = s.start ∧ (withHw s f).zewen = s.zewen ∧ (withHw s f).writes = s.writes ∧ (withHw s f).image = s.image ∧ (withHw s f).reg = s.reg ∧ (withHw s f).objs = s.objs ∧ (withHw s f).herd = s.herd ∧ (withHw s f).aon = s.aon ∧ (withHw s f).net = s.net ∧ (withHw s f).plan = s.plan ∧ (withHw s f).solver = s.solver ∧ (withHw s f).piste = s.piste ∧ (withHw s f).prof = s.prof ∧ (withHw s f).ctl = s.ctl ∧ (withHw s f).sched = s.sched ∧ (withHw s f).dsp = s.dsp ∧ (withHw s f).sep = s.sep ∧ (withHw s f).safety = s.safety ∧ (withHw s f).cham = s.cham ∧ (withHw s f).field = s.field ∧ (withHw s f).acq = s.acq ∧ (withHw s f).logs = s.logs ∧ (withHw s f).clocks = s.clocks ∧ (withHw s f).power = s.power ∧ (withHw s f).pair = s.pair ∧ (withHw s f).sec = s.sec ∧ (withHw s f).nor = s.nor ∧ (withHw s f).freeCount = s.freeCount := by
  unfold withHw
  simp

theorem setVin_frame (s : State) (mv : ℕ) :
    (setVin s mv).mode = s.mode ∧ (setVin s mv).start = s.start ∧ (setVin s mv).zewen = s.zewen ∧ (setVin s mv).writes = s.writes ∧ (setVin s mv).image = s.image ∧ (setVin s mv).reg = s.reg ∧ (setVin s mv).objs = s.objs ∧ (setVin s mv).herd = s.herd ∧ (setVin s mv).aon = s.aon ∧ (setVin s mv).net = s.net ∧ (setVin s mv).plan = s.plan ∧ (setVin s mv).solver = s.solver ∧ (setVin s mv).piste = s.piste ∧ (setVin s mv).prof = s.prof ∧ (setVin s mv).ctl = s.ctl ∧ (setVin s mv).sched = s.sched ∧ (setVin s mv).dsp = s.dsp ∧ (setVin s mv).sep = s.sep ∧ (setVin s mv).safety = s.safety ∧ (setVin s mv).cham = s.cham ∧ (setVin s mv).field = s.field ∧ (setVin s mv).acq = s.acq ∧ (setVin s mv).logs = s.logs ∧ (setVin s mv).clocks = s.clocks ∧ (setVin s mv).power = s.power ∧ (setVin s mv).pair = s.pair ∧ (setVin s mv).sec = s.sec ∧ (setVin s mv).nor = s.nor ∧ (setVin s mv).freeCount = s.freeCount := by
  have fr1 := @withHw_frame
  unfold setVin
  simp [fr1]

theorem coreLost_frame (s : State) :
    (coreLost s).cham = s.cham ∧ (coreLost s).nor = s.nor ∧ (coreLost s).freeCount = s.freeCount := by
  have fr1 := @moduleReset_frame
  unfold coreLost
  simp [fr1]

/-! ### Errors -/

theorem countCorrected_frame (s : State) (region : ℕ) (block : ℕ) :
    (countCorrected s region block).mode = s.mode ∧ (countCorrected s region block).start = s.start ∧ (countCorrected s region block).zewen = s.zewen ∧ (countCorrected s region block).writes = s.writes ∧ (countCorrected s region block).image = s.image ∧ (countCorrected s region block).reg = s.reg ∧ (countCorrected s region block).herd = s.herd ∧ (countCorrected s region block).aon = s.aon ∧ (countCorrected s region block).net = s.net ∧ (countCorrected s region block).plan = s.plan ∧ (countCorrected s region block).solver = s.solver ∧ (countCorrected s region block).piste = s.piste ∧ (countCorrected s region block).prof = s.prof ∧ (countCorrected s region block).ctl = s.ctl ∧ (countCorrected s region block).sched = s.sched ∧ (countCorrected s region block).dsp = s.dsp ∧ (countCorrected s region block).sep = s.sep ∧ (countCorrected s region block).safety = s.safety ∧ (countCorrected s region block).cham = s.cham ∧ (countCorrected s region block).field = s.field ∧ (countCorrected s region block).acq = s.acq ∧ (countCorrected s region block).logs = s.logs ∧ (countCorrected s region block).clocks = s.clocks ∧ (countCorrected s region block).power = s.power ∧ (countCorrected s region block).pair = s.pair ∧ (countCorrected s region block).sec = s.sec ∧ (countCorrected s region block).hw = s.hw ∧ (countCorrected s region block).nor = s.nor := by
  have fr1 := @bump_frame
  unfold countCorrected
  simp [fr1]

theorem blockFails_frame (s : State) (region : ℕ) (block : ℕ) (element : ℕ) :
    (blockFails s region block element).writes = s.writes ∧ (blockFails s region block element).herd = s.herd ∧ (blockFails s region block element).net = s.net ∧ (blockFails s region block element).prof = s.prof ∧ (blockFails s region block element).ctl = s.ctl ∧ (blockFails s region block element).sched = s.sched ∧ (blockFails s region block element).dsp = s.dsp ∧ (blockFails s region block element).sep = s.sep ∧ (blockFails s region block element).safety = s.safety ∧ (blockFails s region block element).cham = s.cham ∧ (blockFails s region block element).field = s.field ∧ (blockFails s region block element).clocks = s.clocks ∧ (blockFails s region block element).power = s.power ∧ (blockFails s region block element).pair = s.pair ∧ (blockFails s region block element).hw = s.hw := by
  have fr1 := @isolate_frame; have fr2 := @runsIsolated_frame; have fr3 := @pcieDown_frame
  unfold blockFails
  simp [fr1, fr2, fr3]

theorem partFails_frame (s0 : State) (region : ℕ) (block : ℕ) (element : ℕ) :
    (partFails s0 region block element).writes = s0.writes ∧ (partFails s0 region block element).image = s0.image ∧ (partFails s0 region block element).herd = s0.herd ∧ (partFails s0 region block element).net = s0.net ∧ (partFails s0 region block element).plan = s0.plan ∧ (partFails s0 region block element).solver = s0.solver ∧ (partFails s0 region block element).piste = s0.piste ∧ (partFails s0 region block element).prof = s0.prof ∧ (partFails s0 region block element).ctl = s0.ctl ∧ (partFails s0 region block element).sched = s0.sched ∧ (partFails s0 region block element).dsp = s0.dsp ∧ (partFails s0 region block element).sep = s0.sep ∧ (partFails s0 region block element).safety = s0.safety ∧ (partFails s0 region block element).cham = s0.cham ∧ (partFails s0 region block element).field = s0.field ∧ (partFails s0 region block element).clocks = s0.clocks ∧ (partFails s0 region block element).power = s0.power ∧ (partFails s0 region block element).pair = s0.pair ∧ (partFails s0 region block element).sec = s0.sec ∧ (partFails s0 region block element).hw = s0.hw := by
  have fr1 := @faultError_frame; have fr2 := @error_frame
  unfold partFails
  dsimp only
  split <;> simp [fr1, fr2]

theorem captureRowsLost_frame (s : State) (first : ℕ) (count : ℕ) :
    (captureRowsLost s first count).mode = s.mode ∧ (captureRowsLost s first count).start = s.start ∧ (captureRowsLost s first count).writes = s.writes ∧ (captureRowsLost s first count).image = s.image ∧ (captureRowsLost s first count).herd = s.herd ∧ (captureRowsLost s first count).aon = s.aon ∧ (captureRowsLost s first count).net = s.net ∧ (captureRowsLost s first count).plan = s.plan ∧ (captureRowsLost s first count).solver = s.solver ∧ (captureRowsLost s first count).piste = s.piste ∧ (captureRowsLost s first count).prof = s.prof ∧ (captureRowsLost s first count).ctl = s.ctl ∧ (captureRowsLost s first count).sched = s.sched ∧ (captureRowsLost s first count).dsp = s.dsp ∧ (captureRowsLost s first count).sep = s.sep ∧ (captureRowsLost s first count).safety = s.safety ∧ (captureRowsLost s first count).cham = s.cham ∧ (captureRowsLost s first count).field = s.field ∧ (captureRowsLost s first count).clocks = s.clocks ∧ (captureRowsLost s first count).power = s.power ∧ (captureRowsLost s first count).pair = s.pair ∧ (captureRowsLost s first count).sec = s.sec ∧ (captureRowsLost s first count).hw = s.hw ∧ (captureRowsLost s first count).nor = s.nor := by
  have fr1 := @withCapture_frame; have fr2 := @captureEnds_frame
  unfold captureRowsLost
  simp [fr1, fr2]

theorem logLost_frame (s : State) (cls : ℕ) (first : ℕ) (count : ℕ) :
    (logLost s cls first count).mode = s.mode ∧ (logLost s cls first count).start = s.start ∧ (logLost s cls first count).zewen = s.zewen ∧ (logLost s cls first count).writes = s.writes ∧ (logLost s cls first count).image = s.image ∧ (logLost s cls first count).reg = s.reg ∧ (logLost s cls first count).objs = s.objs ∧ (logLost s cls first count).herd = s.herd ∧ (logLost s cls first count).aon = s.aon ∧ (logLost s cls first count).net = s.net ∧ (logLost s cls first count).plan = s.plan ∧ (logLost s cls first count).solver = s.solver ∧ (logLost s cls first count).piste = s.piste ∧ (logLost s cls first count).prof = s.prof ∧ (logLost s cls first count).ctl = s.ctl ∧ (logLost s cls first count).sched = s.sched ∧ (logLost s cls first count).dsp = s.dsp ∧ (logLost s cls first count).sep = s.sep ∧ (logLost s cls first count).safety = s.safety ∧ (logLost s cls first count).cham = s.cham ∧ (logLost s cls first count).field = s.field ∧ (logLost s cls first count).acq = s.acq ∧ (logLost s cls first count).clocks = s.clocks ∧ (logLost s cls first count).power = s.power ∧ (logLost s cls first count).pair = s.pair ∧ (logLost s cls first count).sec = s.sec ∧ (logLost s cls first count).hw = s.hw ∧ (logLost s cls first count).nor = s.nor ∧ (logLost s cls first count).freeCount = s.freeCount := by
  have fr1 := @withLogs_frame
  unfold logLost
  dsimp only
  (repeat' split) <;> simp [fr1]

/-! ### Modes -/

theorem abandonCommit_frame (s : State) :
    (abandonCommit s).mode = s.mode ∧ (abandonCommit s).writes = s.writes ∧ (abandonCommit s).herd = s.herd ∧ (abandonCommit s).aon = s.aon ∧ (abandonCommit s).net = s.net ∧ (abandonCommit s).plan = s.plan ∧ (abandonCommit s).solver = s.solver ∧ (abandonCommit s).piste = s.piste ∧ (abandonCommit s).prof = s.prof ∧ (abandonCommit s).ctl = s.ctl ∧ (abandonCommit s).sched = s.sched ∧ (abandonCommit s).dsp = s.dsp ∧ (abandonCommit s).sep = s.sep ∧ (abandonCommit s).safety = s.safety ∧ (abandonCommit s).cham = s.cham ∧ (abandonCommit s).field = s.field ∧ (abandonCommit s).clocks = s.clocks ∧ (abandonCommit s).power = s.power ∧ (abandonCommit s).pair = s.pair ∧ (abandonCommit s).sec = s.sec ∧ (abandonCommit s).hw = s.hw ∧ (abandonCommit s).nor = s.nor := by
  have fr1 := @withImage_frame; have fr2 := @complete_frame; have fr3 := @withStart_frame
  unfold abandonCommit
  (repeat' split) <;> simp [fr1, fr2, fr3]

theorem switchFor_frame (s : State) (t : Mode) :
    (switchFor s t).mode = s.mode ∧ (switchFor s t).start = s.start ∧ (switchFor s t).zewen = s.zewen ∧ (switchFor s t).writes = s.writes ∧ (switchFor s t).image = s.image ∧ (switchFor s t).reg = s.reg ∧ (switchFor s t).objs = s.objs ∧ (switchFor s t).herd = s.herd ∧ (switchFor s t).aon = s.aon ∧ (switchFor s t).net = s.net ∧ (switchFor s t).plan = s.plan ∧ (switchFor s t).solver = s.solver ∧ (switchFor s t).piste = s.piste ∧ (switchFor s t).prof = s.prof ∧ (switchFor s t).ctl = s.ctl ∧ (switchFor s t).sched = s.sched ∧ (switchFor s t).dsp = s.dsp ∧ (switchFor s t).sep = s.sep ∧ (switchFor s t).safety = s.safety ∧ (switchFor s t).cham = s.cham ∧ (switchFor s t).field = s.field ∧ (switchFor s t).acq = s.acq ∧ (switchFor s t).logs = s.logs ∧ (switchFor s t).clocks = s.clocks ∧ (switchFor s t).pair = s.pair ∧ (switchFor s t).sec = s.sec ∧ (switchFor s t).hw = s.hw ∧ (switchFor s t).nor = s.nor ∧ (switchFor s t).freeCount = s.freeCount := by
  have fr1 := @startSequence_frame
  unfold switchFor
  split <;> simp [fr1]

theorem targetEntry_frame (s : State) (t : Mode) :
    (targetEntry s t).writes = s.writes ∧ (targetEntry s t).herd = s.herd ∧ (targetEntry s t).aon = s.aon ∧ (targetEntry s t).net = s.net ∧ (targetEntry s t).plan = s.plan ∧ (targetEntry s t).solver = s.solver ∧ (targetEntry s t).prof = s.prof ∧ (targetEntry s t).ctl = s.ctl ∧ (targetEntry s t).sched = s.sched ∧ (targetEntry s t).dsp = s.dsp ∧ (targetEntry s t).sep = s.sep ∧ (targetEntry s t).safety = s.safety ∧ (targetEntry s t).field = s.field ∧ (targetEntry s t).clocks = s.clocks ∧ (targetEntry s t).power = s.power ∧ (targetEntry s t).pair = s.pair ∧ (targetEntry s t).sec = s.sec ∧ (targetEntry s t).hw = s.hw ∧ (targetEntry s t).nor = s.nor := by
  have fr1 := @pisteHold_frame; have fr2 := @pisteClear_frame; have fr3 := @abandonCommit_frame; have fr4 := @withMode_frame; have fr5 := @settleWaits_frame
  unfold targetEntry
  split <;> simp [fr1, fr2, fr3, fr4, fr5]

theorem startTransition_frame (s : State) :
    (startTransition s).writes = s.writes ∧ (startTransition s).herd = s.herd ∧ (startTransition s).aon = s.aon ∧ (startTransition s).net = s.net ∧ (startTransition s).plan = s.plan ∧ (startTransition s).solver = s.solver ∧ (startTransition s).prof = s.prof ∧ (startTransition s).ctl = s.ctl ∧ (startTransition s).sched = s.sched ∧ (startTransition s).dsp = s.dsp ∧ (startTransition s).sep = s.sep ∧ (startTransition s).safety = s.safety ∧ (startTransition s).field = s.field ∧ (startTransition s).clocks = s.clocks ∧ (startTransition s).pair = s.pair ∧ (startTransition s).sec = s.sec ∧ (startTransition s).hw = s.hw ∧ (startTransition s).nor = s.nor := by
  have fr1 := @settleWaits_frame; have fr2 := @withMode_frame; have fr3 := @switchFor_frame; have fr4 := @targetEntry_frame; have fr5 := @setInt_frame
  unfold startTransition
  (repeat' split) <;> simp [fr1, fr2, fr3, fr4, fr5]

theorem endArmHolds_frame (s : State) :
    (endArmHolds s).start = s.start ∧ (endArmHolds s).zewen = s.zewen ∧ (endArmHolds s).writes = s.writes ∧ (endArmHolds s).image = s.image ∧ (endArmHolds s).reg = s.reg ∧ (endArmHolds s).objs = s.objs ∧ (endArmHolds s).herd = s.herd ∧ (endArmHolds s).aon = s.aon ∧ (endArmHolds s).net = s.net ∧ (endArmHolds s).plan = s.plan ∧ (endArmHolds s).solver = s.solver ∧ (endArmHolds s).piste = s.piste ∧ (endArmHolds s).prof = s.prof ∧ (endArmHolds s).ctl = s.ctl ∧ (endArmHolds s).sched = s.sched ∧ (endArmHolds s).dsp = s.dsp ∧ (endArmHolds s).sep = s.sep ∧ (endArmHolds s).safety = s.safety ∧ (endArmHolds s).cham = s.cham ∧ (endArmHolds s).field = s.field ∧ (endArmHolds s).acq = s.acq ∧ (endArmHolds s).logs = s.logs ∧ (endArmHolds s).clocks = s.clocks ∧ (endArmHolds s).power = s.power ∧ (endArmHolds s).pair = s.pair ∧ (endArmHolds s).sec = s.sec ∧ (endArmHolds s).hw = s.hw ∧ (endArmHolds s).nor = s.nor ∧ (endArmHolds s).freeCount = s.freeCount := by
  have fr1 := @withMode_frame
  unfold endArmHolds
  simp [fr1]

theorem sepAnew_frame (s : State) :
    (sepAnew s).mode = s.mode ∧ (sepAnew s).start = s.start ∧ (sepAnew s).zewen = s.zewen ∧ (sepAnew s).writes = s.writes ∧ (sepAnew s).image = s.image ∧ (sepAnew s).reg = s.reg ∧ (sepAnew s).objs = s.objs ∧ (sepAnew s).herd = s.herd ∧ (sepAnew s).aon = s.aon ∧ (sepAnew s).net = s.net ∧ (sepAnew s).plan = s.plan ∧ (sepAnew s).solver = s.solver ∧ (sepAnew s).piste = s.piste ∧ (sepAnew s).prof = s.prof ∧ (sepAnew s).ctl = s.ctl ∧ (sepAnew s).sched = s.sched ∧ (sepAnew s).dsp = s.dsp ∧ (sepAnew s).safety = s.safety ∧ (sepAnew s).cham = s.cham ∧ (sepAnew s).field = s.field ∧ (sepAnew s).acq = s.acq ∧ (sepAnew s).logs = s.logs ∧ (sepAnew s).clocks = s.clocks ∧ (sepAnew s).power = s.power ∧ (sepAnew s).pair = s.pair ∧ (sepAnew s).sec = s.sec ∧ (sepAnew s).hw = s.hw ∧ (sepAnew s).nor = s.nor ∧ (sepAnew s).freeCount = s.freeCount := by
  have fr1 := @withSep_frame
  unfold sepAnew
  simp [fr1]

theorem modeEntry_frame (s : State) (t : Mode) :
    (modeEntry s t).start = s.start ∧ (modeEntry s t).zewen = s.zewen ∧ (modeEntry s t).writes = s.writes ∧ (modeEntry s t).image = s.image ∧ (modeEntry s t).reg = s.reg ∧ (modeEntry s t).aon = s.aon ∧ (modeEntry s t).net = s.net ∧ (modeEntry s t).plan = s.plan ∧ (modeEntry s t).solver = s.solver ∧ (modeEntry s t).piste = s.piste ∧ (modeEntry s t).prof = s.prof ∧ (modeEntry s t).ctl = s.ctl ∧ (modeEntry s t).sched = s.sched ∧ (modeEntry s t).dsp = s.dsp ∧ (modeEntry s t).safety = s.safety ∧ (modeEntry s t).cham = s.cham ∧ (modeEntry s t).acq = s.acq ∧ (modeEntry s t).logs = s.logs ∧ (modeEntry s t).clocks = s.clocks ∧ (modeEntry s t).power = s.power ∧ (modeEntry s t).pair = s.pair ∧ (modeEntry s t).sec = s.sec ∧ (modeEntry s t).hw = s.hw ∧ (modeEntry s t).nor = s.nor ∧ (modeEntry s t).freeCount = s.freeCount := by
  have fr1 := @sepAnew_frame; have fr2 := @endArmHolds_frame; have fr3 := @outputsFault_frame
  unfold modeEntry
  split <;> simp [fr1, fr2, fr3]

theorem takeMode_frame (s : State) (t : Mode) :
    (takeMode s t).start = s.start ∧ (takeMode s t).writes = s.writes ∧ (takeMode s t).image = s.image ∧ (takeMode s t).aon = s.aon ∧ (takeMode s t).net = s.net ∧ (takeMode s t).plan = s.plan ∧ (takeMode s t).solver = s.solver ∧ (takeMode s t).prof = s.prof ∧ (takeMode s t).ctl = s.ctl ∧ (takeMode s t).sched = s.sched ∧ (takeMode s t).dsp = s.dsp ∧ (takeMode s t).safety = s.safety ∧ (takeMode s t).cham = s.cham ∧ (takeMode s t).clocks = s.clocks ∧ (takeMode s t).power = s.power ∧ (takeMode s t).pair = s.pair ∧ (takeMode s t).sec = s.sec ∧ (takeMode s t).hw = s.hw ∧ (takeMode s t).nor = s.nor := by
  have fr1 := @withMode_frame; have fr2 := @pisteHoldEnd_frame; have fr3 := @noteMode_frame; have fr4 := @modeEntry_frame
  unfold takeMode
  simp [fr1, fr2, fr3, fr4]

theorem modeTick_frame (s : State) :
    (modeTick s).writes = s.writes ∧ (modeTick s).aon = s.aon ∧ (modeTick s).net = s.net ∧ (modeTick s).plan = s.plan ∧ (modeTick s).solver = s.solver ∧ (modeTick s).prof = s.prof ∧ (modeTick s).ctl = s.ctl ∧ (modeTick s).sched = s.sched ∧ (modeTick s).dsp = s.dsp ∧ (modeTick s).safety = s.safety ∧ (modeTick s).clocks = s.clocks ∧ (modeTick s).pair = s.pair ∧ (modeTick s).sec = s.sec ∧ (modeTick s).hw = s.hw ∧ (modeTick s).nor = s.nor := by
  have fr1 := @takeMode_frame; have fr2 := @startTransition_frame
  unfold modeTick
  split <;> simp [fr1, fr2]

theorem modeTransitionComplete_frame (s : State) :
    (modeTransitionComplete s).start = s.start ∧ (modeTransitionComplete s).writes = s.writes ∧ (modeTransitionComplete s).image = s.image ∧ (modeTransitionComplete s).herd = s.herd ∧ (modeTransitionComplete s).aon = s.aon ∧ (modeTransitionComplete s).net = s.net ∧ (modeTransitionComplete s).plan = s.plan ∧ (modeTransitionComplete s).solver = s.solver ∧ (modeTransitionComplete s).piste = s.piste ∧ (modeTransitionComplete s).prof = s.prof ∧ (modeTransitionComplete s).ctl = s.ctl ∧ (modeTransitionComplete s).sched = s.sched ∧ (modeTransitionComplete s).dsp = s.dsp ∧ (modeTransitionComplete s).sep = s.sep ∧ (modeTransitionComplete s).safety = s.safety ∧ (modeTransitionComplete s).cham = s.cham ∧ (modeTransitionComplete s).field = s.field ∧ (modeTransitionComplete s).clocks = s.clocks ∧ (modeTransitionComplete s).power = s.power ∧ (modeTransitionComplete s).pair = s.pair ∧ (modeTransitionComplete s).sec = s.sec ∧ (modeTransitionComplete s).hw = s.hw ∧ (modeTransitionComplete s).nor = s.nor := by
  have fr1 := @settleWaits_frame; have fr2 := @withMode_frame
  unfold modeTransitionComplete
  split <;> simp [fr1, fr2]

theorem acceptMode_frame (s : State) (o : Origin) (m : Mode) :
    (acceptMode s o m).start = s.start ∧ (acceptMode s o m).writes = s.writes ∧ (acceptMode s o m).image = s.image ∧ (acceptMode s o m).herd = s.herd ∧ (acceptMode s o m).aon = s.aon ∧ (acceptMode s o m).net = s.net ∧ (acceptMode s o m).plan = s.plan ∧ (acceptMode s o m).solver = s.solver ∧ (acceptMode s o m).piste = s.piste ∧ (acceptMode s o m).prof = s.prof ∧ (acceptMode s o m).ctl = s.ctl ∧ (acceptMode s o m).sched = s.sched ∧ (acceptMode s o m).dsp = s.dsp ∧ (acceptMode s o m).sep = s.sep ∧ (acceptMode s o m).safety = s.safety ∧ (acceptMode s o m).cham = s.cham ∧ (acceptMode s o m).field = s.field ∧ (acceptMode s o m).clocks = s.clocks ∧ (acceptMode s o m).power = s.power ∧ (acceptMode s o m).pair = s.pair ∧ (acceptMode s o m).sec = s.sec ∧ (acceptMode s o m).hw = s.hw ∧ (acceptMode s o m).nor = s.nor := by
  have fr1 := @acceptTarget_frame; have fr2 := @withMode_frame
  unfold acceptMode
  simp [fr1, fr2]

theorem clearLatches_frame (s : State) :
    (clearLatches s).mode = s.mode ∧ (clearLatches s).start = s.start ∧ (clearLatches s).zewen = s.zewen ∧ (clearLatches s).writes = s.writes ∧ (clearLatches s).image = s.image ∧ (clearLatches s).reg = s.reg ∧ (clearLatches s).objs = s.objs ∧ (clearLatches s).herd = s.herd ∧ (clearLatches s).aon = s.aon ∧ (clearLatches s).net = s.net ∧ (clearLatches s).plan = s.plan ∧ (clearLatches s).solver = s.solver ∧ (clearLatches s).piste = s.piste ∧ (clearLatches s).prof = s.prof ∧ (clearLatches s).ctl = s.ctl ∧ (clearLatches s).sched = s.sched ∧ (clearLatches s).dsp = s.dsp ∧ (clearLatches s).sep = s.sep ∧ (clearLatches s).field = s.field ∧ (clearLatches s).acq = s.acq ∧ (clearLatches s).logs = s.logs ∧ (clearLatches s).clocks = s.clocks ∧ (clearLatches s).power = s.power ∧ (clearLatches s).pair = s.pair ∧ (clearLatches s).sec = s.sec ∧ (clearLatches s).hw = s.hw ∧ (clearLatches s).nor = s.nor ∧ (clearLatches s).freeCount = s.freeCount := by
  unfold clearLatches
  simp

theorem leaveFault_frame (s : State) (o : Origin) :
    (leaveFault s o).writes = s.writes ∧ (leaveFault s o).herd = s.herd ∧ (leaveFault s o).aon = s.aon ∧ (leaveFault s o).net = s.net ∧ (leaveFault s o).plan = s.plan ∧ (leaveFault s o).solver = s.solver ∧ (leaveFault s o).prof = s.prof ∧ (leaveFault s o).ctl = s.ctl ∧ (leaveFault s o).sched = s.sched ∧ (leaveFault s o).dsp = s.dsp ∧ (leaveFault s o).sep = s.sep ∧ (leaveFault s o).field = s.field ∧ (leaveFault s o).clocks = s.clocks ∧ (leaveFault s o).pair = s.pair ∧ (leaveFault s o).sec = s.sec ∧ (leaveFault s o).hw = s.hw ∧ (leaveFault s o).nor = s.nor := by
  have fr1 := @complete_frame; have fr2 := @withMode_frame; have fr3 := @clearLatches_frame; have fr4 := @acceptMode_frame; have fr5 := @startTransition_frame
  unfold leaveFault
  simp [fr1, fr2, fr3, fr4, fr5]

theorem setMode_frame (e : Entry) (x1 : Transport) (s : State) :
    (setMode e x1 s).writes = s.writes ∧ (setMode e x1 s).herd = s.herd ∧ (setMode e x1 s).aon = s.aon ∧ (setMode e x1 s).net = s.net ∧ (setMode e x1 s).plan = s.plan ∧ (setMode e x1 s).solver = s.solver ∧ (setMode e x1 s).prof = s.prof ∧ (setMode e x1 s).ctl = s.ctl ∧ (setMode e x1 s).sched = s.sched ∧ (setMode e x1 s).dsp = s.dsp ∧ (setMode e x1 s).sep = s.sep ∧ (setMode e x1 s).field = s.field ∧ (setMode e x1 s).clocks = s.clocks ∧ (setMode e x1 s).pair = s.pair ∧ (setMode e x1 s).sec = s.sec ∧ (setMode e x1 s).hw = s.hw ∧ (setMode e x1 s).nor = s.nor := by
  have fr1 := @complete_frame; have fr2 := @leaveFault_frame; have fr3 := @acceptMode_frame
  unfold setMode
  simp [fr1, fr2, fr3]

theorem resetCommand_frame (e : Entry) (x1 : Transport) (s : State) :
    (resetCommand e x1 s).start = s.start ∧ (resetCommand e x1 s).writes = s.writes ∧ (resetCommand e x1 s).image = s.image ∧ (resetCommand e x1 s).herd = s.herd ∧ (resetCommand e x1 s).aon = s.aon ∧ (resetCommand e x1 s).net = s.net ∧ (resetCommand e x1 s).plan = s.plan ∧ (resetCommand e x1 s).solver = s.solver ∧ (resetCommand e x1 s).piste = s.piste ∧ (resetCommand e x1 s).prof = s.prof ∧ (resetCommand e x1 s).ctl = s.ctl ∧ (resetCommand e x1 s).sched = s.sched ∧ (resetCommand e x1 s).dsp = s.dsp ∧ (resetCommand e x1 s).sep = s.sep ∧ (resetCommand e x1 s).safety = s.safety ∧ (resetCommand e x1 s).cham = s.cham ∧ (resetCommand e x1 s).field = s.field ∧ (resetCommand e x1 s).clocks = s.clocks ∧ (resetCommand e x1 s).power = s.power ∧ (resetCommand e x1 s).pair = s.pair ∧ (resetCommand e x1 s).sec = s.sec ∧ (resetCommand e x1 s).hw = s.hw ∧ (resetCommand e x1 s).nor = s.nor := by
  have fr1 := @complete_frame; have fr2 := @withMode_frame; have fr3 := @acceptTarget_frame
  unfold resetCommand
  simp [fr1, fr2, fr3]

/-! ### ObjWrite -/

theorem objWrite_frame (e : Entry) (x1 : Transport) (s : State) :
    (objWrite e x1 s).mode = s.mode ∧ (objWrite e x1 s).start = s.start ∧ (objWrite e x1 s).image = s.image ∧ (objWrite e x1 s).herd = s.herd ∧ (objWrite e x1 s).aon = s.aon ∧ (objWrite e x1 s).net = s.net ∧ (objWrite e x1 s).plan = s.plan ∧ (objWrite e x1 s).solver = s.solver ∧ (objWrite e x1 s).piste = s.piste ∧ (objWrite e x1 s).prof = s.prof ∧ (objWrite e x1 s).ctl = s.ctl ∧ (objWrite e x1 s).sched = s.sched ∧ (objWrite e x1 s).dsp = s.dsp ∧ (objWrite e x1 s).sep = s.sep ∧ (objWrite e x1 s).safety = s.safety ∧ (objWrite e x1 s).cham = s.cham ∧ (objWrite e x1 s).field = s.field ∧ (objWrite e x1 s).clocks = s.clocks ∧ (objWrite e x1 s).power = s.power ∧ (objWrite e x1 s).pair = s.pair ∧ (objWrite e x1 s).sec = s.sec ∧ (objWrite e x1 s).hw = s.hw ∧ (objWrite e x1 s).nor = s.nor := by
  have fr1 := @complete_frame; have fr2 := @bump_frame; have fr3 := @countDenied_frame
  unfold objWrite
  dsimp only
  (repeat' split) <;> simp [fr1, fr2, fr3]

theorem objWriteEffect_frame (s : State) :
    (objWriteEffect s).start = s.start ∧ (objWriteEffect s).image = s.image ∧ (objWriteEffect s).aon = s.aon ∧ (objWriteEffect s).plan = s.plan ∧ (objWriteEffect s).sched = s.sched ∧ (objWriteEffect s).sep = s.sep ∧ (objWriteEffect s).safety = s.safety ∧ (objWriteEffect s).cham = s.cham ∧ (objWriteEffect s).power = s.power ∧ (objWriteEffect s).sec = s.sec ∧ (objWriteEffect s).hw = s.hw ∧ (objWriteEffect s).nor = s.nor := by
  have fr1 := @applyRecords_frame; have fr2 := @settleRuns_frame; have fr3 := @withSolver_frame
  unfold objWriteEffect
  split <;> simp [fr1, fr2, fr3]

theorem gateTimeout_frame (s : State) :
    (gateTimeout s).mode = s.mode ∧ (gateTimeout s).start = s.start ∧ (gateTimeout s).image = s.image ∧ (gateTimeout s).herd = s.herd ∧ (gateTimeout s).aon = s.aon ∧ (gateTimeout s).net = s.net ∧ (gateTimeout s).plan = s.plan ∧ (gateTimeout s).solver = s.solver ∧ (gateTimeout s).piste = s.piste ∧ (gateTimeout s).prof = s.prof ∧ (gateTimeout s).ctl = s.ctl ∧ (gateTimeout s).sched = s.sched ∧ (gateTimeout s).dsp = s.dsp ∧ (gateTimeout s).sep = s.sep ∧ (gateTimeout s).safety = s.safety ∧ (gateTimeout s).cham = s.cham ∧ (gateTimeout s).field = s.field ∧ (gateTimeout s).power = s.power ∧ (gateTimeout s).pair = s.pair ∧ (gateTimeout s).sec = s.sec ∧ (gateTimeout s).hw = s.hw ∧ (gateTimeout s).nor = s.nor := by
  have fr1 := @complete_frame; have fr2 := @clkEvent_frame; have fr3 := @bump_frame
  unfold gateTimeout
  split <;> simp [fr1, fr2, fr3]

/-! ### Registers -/

theorem readReg_frame (s : State) (b : Server) (bar2 : Bool) (act : State → ℕ × State)
    (h : ∀ s, ((act s).2).mode = s.mode ∧ ((act s).2).start = s.start ∧ ((act s).2).zewen = s.zewen ∧ ((act s).2).writes = s.writes ∧ ((act s).2).image = s.image ∧ ((act s).2).objs = s.objs ∧ ((act s).2).herd = s.herd ∧ ((act s).2).aon = s.aon ∧ ((act s).2).net = s.net ∧ ((act s).2).plan = s.plan ∧ ((act s).2).solver = s.solver ∧ ((act s).2).piste = s.piste ∧ ((act s).2).prof = s.prof ∧ ((act s).2).ctl = s.ctl ∧ ((act s).2).sched = s.sched ∧ ((act s).2).dsp = s.dsp ∧ ((act s).2).sep = s.sep ∧ ((act s).2).safety = s.safety ∧ ((act s).2).cham = s.cham ∧ ((act s).2).field = s.field ∧ ((act s).2).acq = s.acq ∧ ((act s).2).logs = s.logs ∧ ((act s).2).clocks = s.clocks ∧ ((act s).2).power = s.power ∧ ((act s).2).pair = s.pair ∧ ((act s).2).sec = s.sec ∧ ((act s).2).hw = s.hw ∧ ((act s).2).nor = s.nor ∧ ((act s).2).freeCount = s.freeCount) :
    (readReg s b bar2 act).mode = s.mode ∧ (readReg s b bar2 act).start = s.start ∧ (readReg s b bar2 act).zewen = s.zewen ∧ (readReg s b bar2 act).writes = s.writes ∧ (readReg s b bar2 act).image = s.image ∧ (readReg s b bar2 act).objs = s.objs ∧ (readReg s b bar2 act).herd = s.herd ∧ (readReg s b bar2 act).aon = s.aon ∧ (readReg s b bar2 act).net = s.net ∧ (readReg s b bar2 act).plan = s.plan ∧ (readReg s b bar2 act).solver = s.solver ∧ (readReg s b bar2 act).piste = s.piste ∧ (readReg s b bar2 act).prof = s.prof ∧ (readReg s b bar2 act).ctl = s.ctl ∧ (readReg s b bar2 act).sched = s.sched ∧ (readReg s b bar2 act).dsp = s.dsp ∧ (readReg s b bar2 act).sep = s.sep ∧ (readReg s b bar2 act).safety = s.safety ∧ (readReg s b bar2 act).cham = s.cham ∧ (readReg s b bar2 act).field = s.field ∧ (readReg s b bar2 act).acq = s.acq ∧ (readReg s b bar2 act).logs = s.logs ∧ (readReg s b bar2 act).clocks = s.clocks ∧ (readReg s b bar2 act).power = s.power ∧ (readReg s b bar2 act).pair = s.pair ∧ (readReg s b bar2 act).sec = s.sec ∧ (readReg s b bar2 act).hw = s.hw ∧ (readReg s b bar2 act).nor = s.nor ∧ (readReg s b bar2 act).freeCount = s.freeCount := by
  have fr1 := @emit_frame; have fr2 := @countGated_frame
  unfold readReg
  (repeat' split) <;> simp [h, fr1, fr2]

theorem writeReg_frame (s : State) (b : Server) (bar2 : Bool) (priv : Bool) (act : State → State)
    (h : ∀ s, (act s).mode = s.mode ∧ (act s).start = s.start ∧ (act s).writes = s.writes ∧ (act s).image = s.image ∧ (act s).objs = s.objs ∧ (act s).herd = s.herd ∧ (act s).aon = s.aon ∧ (act s).net = s.net ∧ (act s).plan = s.plan ∧ (act s).solver = s.solver ∧ (act s).piste = s.piste ∧ (act s).prof = s.prof ∧ (act s).ctl = s.ctl ∧ (act s).sched = s.sched ∧ (act s).dsp = s.dsp ∧ (act s).sep = s.sep ∧ (act s).safety = s.safety ∧ (act s).cham = s.cham ∧ (act s).field = s.field ∧ (act s).acq = s.acq ∧ (act s).logs = s.logs ∧ (act s).power = s.power ∧ (act s).pair = s.pair ∧ (act s).sec = s.sec ∧ (act s).hw = s.hw ∧ (act s).nor = s.nor ∧ (act s).freeCount = s.freeCount) :
    (writeReg s b bar2 priv act).mode = s.mode ∧ (writeReg s b bar2 priv act).start = s.start ∧ (writeReg s b bar2 priv act).writes = s.writes ∧ (writeReg s b bar2 priv act).image = s.image ∧ (writeReg s b bar2 priv act).objs = s.objs ∧ (writeReg s b bar2 priv act).herd = s.herd ∧ (writeReg s b bar2 priv act).aon = s.aon ∧ (writeReg s b bar2 priv act).net = s.net ∧ (writeReg s b bar2 priv act).plan = s.plan ∧ (writeReg s b bar2 priv act).solver = s.solver ∧ (writeReg s b bar2 priv act).piste = s.piste ∧ (writeReg s b bar2 priv act).prof = s.prof ∧ (writeReg s b bar2 priv act).ctl = s.ctl ∧ (writeReg s b bar2 priv act).sched = s.sched ∧ (writeReg s b bar2 priv act).dsp = s.dsp ∧ (writeReg s b bar2 priv act).sep = s.sep ∧ (writeReg s b bar2 priv act).safety = s.safety ∧ (writeReg s b bar2 priv act).cham = s.cham ∧ (writeReg s b bar2 priv act).field = s.field ∧ (writeReg s b bar2 priv act).acq = s.acq ∧ (writeReg s b bar2 priv act).logs = s.logs ∧ (writeReg s b bar2 priv act).power = s.power ∧ (writeReg s b bar2 priv act).pair = s.pair ∧ (writeReg s b bar2 priv act).sec = s.sec ∧ (writeReg s b bar2 priv act).hw = s.hw ∧ (writeReg s b bar2 priv act).nor = s.nor ∧ (writeReg s b bar2 priv act).freeCount = s.freeCount := by
  have fr1 := @countDenied_frame; have fr2 := @clkEvent_frame; have fr3 := @countGated_frame
  unfold writeReg
  (repeat' split) <;> simp [h, fr1, fr2, fr3]

theorem withReg_frame (s : State) (f : RegState → RegState) :
    (withReg s f).mode = s.mode ∧ (withReg s f).start = s.start ∧ (withReg s f).zewen = s.zewen ∧ (withReg s f).writes = s.writes ∧ (withReg s f).image = s.image ∧ (withReg s f).objs = s.objs ∧ (withReg s f).herd = s.herd ∧ (withReg s f).aon = s.aon ∧ (withReg s f).net = s.net ∧ (withReg s f).plan = s.plan ∧ (withReg s f).solver = s.solver ∧ (withReg s f).piste = s.piste ∧ (withReg s f).prof = s.prof ∧ (withReg s f).ctl = s.ctl ∧ (withReg s f).sched = s.sched ∧ (withReg s f).dsp = s.dsp ∧ (withReg s f).sep = s.sep ∧ (withReg s f).safety = s.safety ∧ (withReg s f).cham = s.cham ∧ (withReg s f).field = s.field ∧ (withReg s f).acq = s.acq ∧ (withReg s f).logs = s.logs ∧ (withReg s f).clocks = s.clocks ∧ (withReg s f).power = s.power ∧ (withReg s f).pair = s.pair ∧ (withReg s f).sec = s.sec ∧ (withReg s f).hw = s.hw ∧ (withReg s f).nor = s.nor ∧ (withReg s f).freeCount = s.freeCount := by
  unfold withReg
  simp

theorem popStamp_frame (value : ℕ) (s : State) :
    (popStamp value s).mode = s.mode ∧ (popStamp value s).start = s.start ∧ (popStamp value s).zewen = s.zewen ∧ (popStamp value s).writes = s.writes ∧ (popStamp value s).image = s.image ∧ (popStamp value s).reg = s.reg ∧ (popStamp value s).objs = s.objs ∧ (popStamp value s).aon = s.aon ∧ (popStamp value s).net = s.net ∧ (popStamp value s).plan = s.plan ∧ (popStamp value s).solver = s.solver ∧ (popStamp value s).piste = s.piste ∧ (popStamp value s).prof = s.prof ∧ (popStamp value s).ctl = s.ctl ∧ (popStamp value s).sched = s.sched ∧ (popStamp value s).dsp = s.dsp ∧ (popStamp value s).sep = s.sep ∧ (popStamp value s).safety = s.safety ∧ (popStamp value s).cham = s.cham ∧ (popStamp value s).field = s.field ∧ (popStamp value s).acq = s.acq ∧ (popStamp value s).logs = s.logs ∧ (popStamp value s).clocks = s.clocks ∧ (popStamp value s).power = s.power ∧ (popStamp value s).pair = s.pair ∧ (popStamp value s).sec = s.sec ∧ (popStamp value s).hw = s.hw ∧ (popStamp value s).nor = s.nor ∧ (popStamp value s).freeCount = s.freeCount := by
  unfold popStamp
  simp

theorem clearFirst_frame (value : ℕ) (s : State) :
    (clearFirst value s).mode = s.mode ∧ (clearFirst value s).start = s.start ∧ (clearFirst value s).zewen = s.zewen ∧ (clearFirst value s).writes = s.writes ∧ (clearFirst value s).image = s.image ∧ (clearFirst value s).objs = s.objs ∧ (clearFirst value s).herd = s.herd ∧ (clearFirst value s).aon = s.aon ∧ (clearFirst value s).net = s.net ∧ (clearFirst value s).plan = s.plan ∧ (clearFirst value s).solver = s.solver ∧ (clearFirst value s).piste = s.piste ∧ (clearFirst value s).prof = s.prof ∧ (clearFirst value s).ctl = s.ctl ∧ (clearFirst value s).sched = s.sched ∧ (clearFirst value s).dsp = s.dsp ∧ (clearFirst value s).sep = s.sep ∧ (clearFirst value s).safety = s.safety ∧ (clearFirst value s).cham = s.cham ∧ (clearFirst value s).field = s.field ∧ (clearFirst value s).acq = s.acq ∧ (clearFirst value s).logs = s.logs ∧ (clearFirst value s).clocks = s.clocks ∧ (clearFirst value s).power = s.power ∧ (clearFirst value s).pair = s.pair ∧ (clearFirst value s).sec = s.sec ∧ (clearFirst value s).hw = s.hw ∧ (clearFirst value s).nor = s.nor ∧ (clearFirst value s).freeCount = s.freeCount := by
  have fr1 := @withFresh_frame; have fr2 := @withReg_frame
  unfold clearFirst
  simp [fr1, fr2]

theorem viewClear_frame (value : ℕ) (s : State) :
    (viewClear value s).mode = s.mode ∧ (viewClear value s).start = s.start ∧ (viewClear value s).writes = s.writes ∧ (viewClear value s).image = s.image ∧ (viewClear value s).reg = s.reg ∧ (viewClear value s).objs = s.objs ∧ (viewClear value s).herd = s.herd ∧ (viewClear value s).aon = s.aon ∧ (viewClear value s).net = s.net ∧ (viewClear value s).plan = s.plan ∧ (viewClear value s).solver = s.solver ∧ (viewClear value s).piste = s.piste ∧ (viewClear value s).prof = s.prof ∧ (viewClear value s).ctl = s.ctl ∧ (viewClear value s).sched = s.sched ∧ (viewClear value s).dsp = s.dsp ∧ (viewClear value s).sep = s.sep ∧ (viewClear value s).safety = s.safety ∧ (viewClear value s).cham = s.cham ∧ (viewClear value s).field = s.field ∧ (viewClear value s).acq = s.acq ∧ (viewClear value s).logs = s.logs ∧ (viewClear value s).clocks = s.clocks ∧ (viewClear value s).power = s.power ∧ (viewClear value s).pair = s.pair ∧ (viewClear value s).sec = s.sec ∧ (viewClear value s).hw = s.hw ∧ (viewClear value s).nor = s.nor ∧ (viewClear value s).freeCount = s.freeCount := by
  unfold viewClear
  simp

theorem clearInt_frame (value : ℕ) (s : State) :
    (clearInt value s).mode = s.mode ∧ (clearInt value s).start = s.start ∧ (clearInt value s).writes = s.writes ∧ (clearInt value s).image = s.image ∧ (clearInt value s).objs = s.objs ∧ (clearInt value s).herd = s.herd ∧ (clearInt value s).aon = s.aon ∧ (clearInt value s).net = s.net ∧ (clearInt value s).plan = s.plan ∧ (clearInt value s).solver = s.solver ∧ (clearInt value s).piste = s.piste ∧ (clearInt value s).prof = s.prof ∧ (clearInt value s).ctl = s.ctl ∧ (clearInt value s).sched = s.sched ∧ (clearInt value s).dsp = s.dsp ∧ (clearInt value s).sep = s.sep ∧ (clearInt value s).safety = s.safety ∧ (clearInt value s).cham = s.cham ∧ (clearInt value s).field = s.field ∧ (clearInt value s).acq = s.acq ∧ (clearInt value s).logs = s.logs ∧ (clearInt value s).clocks = s.clocks ∧ (clearInt value s).power = s.power ∧ (clearInt value s).pair = s.pair ∧ (clearInt value s).sec = s.sec ∧ (clearInt value s).hw = s.hw ∧ (clearInt value s).nor = s.nor ∧ (clearInt value s).freeCount = s.freeCount := by
  have fr1 := @withFresh_frame; have fr2 := @withReg_frame; have fr3 := @sendVector_frame
  unfold clearInt
  simp [fr1, fr2, fr3]

theorem writeMask_frame (value : ℕ) (s : State) :
    (writeMask value s).mode = s.mode ∧ (writeMask value s).start = s.start ∧ (writeMask value s).writes = s.writes ∧ (writeMask value s).image = s.image ∧ (writeMask value s).objs = s.objs ∧ (writeMask value s).herd = s.herd ∧ (writeMask value s).aon = s.aon ∧ (writeMask value s).net = s.net ∧ (writeMask value s).plan = s.plan ∧ (writeMask value s).solver = s.solver ∧ (writeMask value s).piste = s.piste ∧ (writeMask value s).prof = s.prof ∧ (writeMask value s).ctl = s.ctl ∧ (writeMask value s).sched = s.sched ∧ (writeMask value s).dsp = s.dsp ∧ (writeMask value s).sep = s.sep ∧ (writeMask value s).safety = s.safety ∧ (writeMask value s).cham = s.cham ∧ (writeMask value s).field = s.field ∧ (writeMask value s).acq = s.acq ∧ (writeMask value s).logs = s.logs ∧ (writeMask value s).clocks = s.clocks ∧ (writeMask value s).power = s.power ∧ (writeMask value s).pair = s.pair ∧ (writeMask value s).sec = s.sec ∧ (writeMask value s).hw = s.hw ∧ (writeMask value s).nor = s.nor ∧ (writeMask value s).freeCount = s.freeCount := by
  have fr1 := @sendVector_frame; have fr2 := @withReg_frame
  unfold writeMask
  simp [fr1, fr2]

theorem clearDone_frame (value : ℕ) (s : State) :
    (clearDone value s).mode = s.mode ∧ (clearDone value s).start = s.start ∧ (clearDone value s).zewen = s.zewen ∧ (clearDone value s).writes = s.writes ∧ (clearDone value s).image = s.image ∧ (clearDone value s).objs = s.objs ∧ (clearDone value s).herd = s.herd ∧ (clearDone value s).aon = s.aon ∧ (clearDone value s).net = s.net ∧ (clearDone value s).plan = s.plan ∧ (clearDone value s).solver = s.solver ∧ (clearDone value s).piste = s.piste ∧ (clearDone value s).prof = s.prof ∧ (clearDone value s).ctl = s.ctl ∧ (clearDone value s).sched = s.sched ∧ (clearDone value s).dsp = s.dsp ∧ (clearDone value s).sep = s.sep ∧ (clearDone value s).safety = s.safety ∧ (clearDone value s).cham = s.cham ∧ (clearDone value s).field = s.field ∧ (clearDone value s).acq = s.acq ∧ (clearDone value s).logs = s.logs ∧ (clearDone value s).clocks = s.clocks ∧ (clearDone value s).power = s.power ∧ (clearDone value s).pair = s.pair ∧ (clearDone value s).sec = s.sec ∧ (clearDone value s).hw = s.hw ∧ (clearDone value s).nor = s.nor ∧ (clearDone value s).freeCount = s.freeCount := by
  have fr1 := @withReg_frame
  unfold clearDone
  simp [fr1]

theorem clearClk_frame (value : ℕ) (s : State) :
    (clearClk value s).mode = s.mode ∧ (clearClk value s).start = s.start ∧ (clearClk value s).writes = s.writes ∧ (clearClk value s).image = s.image ∧ (clearClk value s).objs = s.objs ∧ (clearClk value s).herd = s.herd ∧ (clearClk value s).aon = s.aon ∧ (clearClk value s).net = s.net ∧ (clearClk value s).plan = s.plan ∧ (clearClk value s).solver = s.solver ∧ (clearClk value s).piste = s.piste ∧ (clearClk value s).prof = s.prof ∧ (clearClk value s).ctl = s.ctl ∧ (clearClk value s).sched = s.sched ∧ (clearClk value s).dsp = s.dsp ∧ (clearClk value s).sep = s.sep ∧ (clearClk value s).safety = s.safety ∧ (clearClk value s).cham = s.cham ∧ (clearClk value s).field = s.field ∧ (clearClk value s).acq = s.acq ∧ (clearClk value s).logs = s.logs ∧ (clearClk value s).power = s.power ∧ (clearClk value s).pair = s.pair ∧ (clearClk value s).sec = s.sec ∧ (clearClk value s).hw = s.hw ∧ (clearClk value s).nor = s.nor ∧ (clearClk value s).freeCount = s.freeCount := by
  have fr1 := @withFresh_frame; have fr2 := @withClocks_frame; have fr3 := @setInt_frame
  unfold clearClk
  simp [fr1, fr2, fr3]

theorem writeMsix_frame (offset : ℕ) (value : ℕ) (s : State) :
    (writeMsix offset value s).mode = s.mode ∧ (writeMsix offset value s).start = s.start ∧ (writeMsix offset value s).writes = s.writes ∧ (writeMsix offset value s).image = s.image ∧ (writeMsix offset value s).reg = s.reg ∧ (writeMsix offset value s).objs = s.objs ∧ (writeMsix offset value s).herd = s.herd ∧ (writeMsix offset value s).aon = s.aon ∧ (writeMsix offset value s).net = s.net ∧ (writeMsix offset value s).plan = s.plan ∧ (writeMsix offset value s).solver = s.solver ∧ (writeMsix offset value s).piste = s.piste ∧ (writeMsix offset value s).prof = s.prof ∧ (writeMsix offset value s).ctl = s.ctl ∧ (writeMsix offset value s).sched = s.sched ∧ (writeMsix offset value s).dsp = s.dsp ∧ (writeMsix offset value s).sep = s.sep ∧ (writeMsix offset value s).safety = s.safety ∧ (writeMsix offset value s).cham = s.cham ∧ (writeMsix offset value s).field = s.field ∧ (writeMsix offset value s).acq = s.acq ∧ (writeMsix offset value s).logs = s.logs ∧ (writeMsix offset value s).clocks = s.clocks ∧ (writeMsix offset value s).power = s.power ∧ (writeMsix offset value s).pair = s.pair ∧ (writeMsix offset value s).sec = s.sec ∧ (writeMsix offset value s).hw = s.hw ∧ (writeMsix offset value s).nor = s.nor ∧ (writeMsix offset value s).freeCount = s.freeCount := by
  have fr1 := @withMsix_frame; have fr2 := @sendVector_frame
  unfold writeMsix
  simp [fr1, fr2]

/-! ### Tick -/

theorem passClocks_frame (s : State) (n : ℕ) :
    (passClocks s n).mode = s.mode ∧ (passClocks s n).start = s.start ∧ (passClocks s n).zewen = s.zewen ∧ (passClocks s n).writes = s.writes ∧ (passClocks s n).image = s.image ∧ (passClocks s n).reg = s.reg ∧ (passClocks s n).objs = s.objs ∧ (passClocks s n).net = s.net ∧ (passClocks s n).plan = s.plan ∧ (passClocks s n).solver = s.solver ∧ (passClocks s n).piste = s.piste ∧ (passClocks s n).prof = s.prof ∧ (passClocks s n).ctl = s.ctl ∧ (passClocks s n).sched = s.sched ∧ (passClocks s n).dsp = s.dsp ∧ (passClocks s n).sep = s.sep ∧ (passClocks s n).safety = s.safety ∧ (passClocks s n).cham = s.cham ∧ (passClocks s n).field = s.field ∧ (passClocks s n).acq = s.acq ∧ (passClocks s n).logs = s.logs ∧ (passClocks s n).clocks = s.clocks ∧ (passClocks s n).power = s.power ∧ (passClocks s n).pair = s.pair ∧ (passClocks s n).sec = s.sec ∧ (passClocks s n).hw = s.hw ∧ (passClocks s n).nor = s.nor ∧ (passClocks s n).freeCount = s.freeCount := by
  have fr1 := @addClocks_frame; have fr2 := @countClocks_frame
  unfold passClocks
  simp [fr1, fr2]

theorem toTickStart_frame (s : State) :
    (toTickStart s).mode = s.mode ∧ (toTickStart s).start = s.start ∧ (toTickStart s).zewen = s.zewen ∧ (toTickStart s).writes = s.writes ∧ (toTickStart s).image = s.image ∧ (toTickStart s).reg = s.reg ∧ (toTickStart s).objs = s.objs ∧ (toTickStart s).net = s.net ∧ (toTickStart s).plan = s.plan ∧ (toTickStart s).solver = s.solver ∧ (toTickStart s).piste = s.piste ∧ (toTickStart s).prof = s.prof ∧ (toTickStart s).ctl = s.ctl ∧ (toTickStart s).sched = s.sched ∧ (toTickStart s).dsp = s.dsp ∧ (toTickStart s).sep = s.sep ∧ (toTickStart s).safety = s.safety ∧ (toTickStart s).cham = s.cham ∧ (toTickStart s).field = s.field ∧ (toTickStart s).acq = s.acq ∧ (toTickStart s).logs = s.logs ∧ (toTickStart s).clocks = s.clocks ∧ (toTickStart s).power = s.power ∧ (toTickStart s).pair = s.pair ∧ (toTickStart s).sec = s.sec ∧ (toTickStart s).hw = s.hw ∧ (toTickStart s).nor = s.nor ∧ (toTickStart s).freeCount = s.freeCount := by
  have fr1 := @passClocks_frame
  unfold toTickStart
  simp [fr1]

theorem herdStep_frame (s : State) :
    (herdStep s).mode = s.mode ∧ (herdStep s).start = s.start ∧ (herdStep s).zewen = s.zewen ∧ (herdStep s).writes = s.writes ∧ (herdStep s).image = s.image ∧ (herdStep s).reg = s.reg ∧ (herdStep s).aon = s.aon ∧ (herdStep s).plan = s.plan ∧ (herdStep s).solver = s.solver ∧ (herdStep s).piste = s.piste ∧ (herdStep s).prof = s.prof ∧ (herdStep s).ctl = s.ctl ∧ (herdStep s).sched = s.sched ∧ (herdStep s).dsp = s.dsp ∧ (herdStep s).sep = s.sep ∧ (herdStep s).safety = s.safety ∧ (herdStep s).cham = s.cham ∧ (herdStep s).field = s.field ∧ (herdStep s).acq = s.acq ∧ (herdStep s).logs = s.logs ∧ (herdStep s).clocks = s.clocks ∧ (herdStep s).power = s.power ∧ (herdStep s).pair = s.pair ∧ (herdStep s).sec = s.sec ∧ (herdStep s).hw = s.hw ∧ (herdStep s).nor = s.nor := by
  have fr1 := @withHerd_frame; have fr2 := @startSlew_frame; have fr3 := @withFresh_frame; have fr4 := @restartCycle_frame
  unfold herdStep
  (repeat' split) <;> simp [fr1, fr2, fr3, fr4]

theorem activationTickStart_frame (s : State) :
    (activationTickStart s).start = s.start ∧ (activationTickStart s).writes = s.writes ∧ (activationTickStart s).aon = s.aon ∧ (activationTickStart s).sec = s.sec ∧ (activationTickStart s).hw = s.hw := by
  have fr1 := @imageActivation_frame; have fr2 := @settleReads_frame; have fr3 := @setInt_frame
  unfold activationTickStart
  simp [fr1, fr2, fr3]

theorem handOutPlan_frame (s : State) (rs : List PlanRecord) :
    (handOutPlan s rs).mode = s.mode ∧ (handOutPlan s rs).start = s.start ∧ (handOutPlan s rs).zewen = s.zewen ∧ (handOutPlan s rs).writes = s.writes ∧ (handOutPlan s rs).image = s.image ∧ (handOutPlan s rs).reg = s.reg ∧ (handOutPlan s rs).objs = s.objs ∧ (handOutPlan s rs).herd = s.herd ∧ (handOutPlan s rs).aon = s.aon ∧ (handOutPlan s rs).net = s.net ∧ (handOutPlan s rs).solver = s.solver ∧ (handOutPlan s rs).piste = s.piste ∧ (handOutPlan s rs).prof = s.prof ∧ (handOutPlan s rs).ctl = s.ctl ∧ (handOutPlan s rs).sched = s.sched ∧ (handOutPlan s rs).dsp = s.dsp ∧ (handOutPlan s rs).sep = s.sep ∧ (handOutPlan s rs).safety = s.safety ∧ (handOutPlan s rs).cham = s.cham ∧ (handOutPlan s rs).field = s.field ∧ (handOutPlan s rs).acq = s.acq ∧ (handOutPlan s rs).logs = s.logs ∧ (handOutPlan s rs).clocks = s.clocks ∧ (handOutPlan s rs).power = s.power ∧ (handOutPlan s rs).pair = s.pair ∧ (handOutPlan s rs).sec = s.sec ∧ (handOutPlan s rs).hw = s.hw ∧ (handOutPlan s rs).nor = s.nor ∧ (handOutPlan s rs).freeCount = s.freeCount := by
  have fr1 := @setArmPlan_frame; have fr2 := @withPlan_frame
  unfold handOutPlan
  simp [fr1, fr2]

theorem planTakesEffect_frame (s : State) :
    (planTakesEffect s).mode = s.mode ∧ (planTakesEffect s).start = s.start ∧ (planTakesEffect s).writes = s.writes ∧ (planTakesEffect s).image = s.image ∧ (planTakesEffect s).herd = s.herd ∧ (planTakesEffect s).aon = s.aon ∧ (planTakesEffect s).net = s.net ∧ (planTakesEffect s).solver = s.solver ∧ (planTakesEffect s).piste = s.piste ∧ (planTakesEffect s).prof = s.prof ∧ (planTakesEffect s).ctl = s.ctl ∧ (planTakesEffect s).sched = s.sched ∧ (planTakesEffect s).dsp = s.dsp ∧ (planTakesEffect s).sep = s.sep ∧ (planTakesEffect s).safety = s.safety ∧ (planTakesEffect s).cham = s.cham ∧ (planTakesEffect s).field = s.field ∧ (planTakesEffect s).clocks = s.clocks ∧ (planTakesEffect s).power = s.power ∧ (planTakesEffect s).pair = s.pair ∧ (planTakesEffect s).sec = s.sec ∧ (planTakesEffect s).hw = s.hw ∧ (planTakesEffect s).nor = s.nor := by
  have fr1 := @withPlan_frame; have fr2 := @planFails_frame; have fr3 := @bump_frame; have fr4 := @planSucceeds_frame; have fr5 := @handOutPlan_frame
  unfold planTakesEffect
  (repeat' split) <;> simp [fr1, fr2, fr3, fr4, fr5]

theorem holdAtPeriod_frame (s : State) :
    (holdAtPeriod s).writes = s.writes ∧ (holdAtPeriod s).image = s.image ∧ (holdAtPeriod s).herd = s.herd ∧ (holdAtPeriod s).net = s.net ∧ (holdAtPeriod s).plan = s.plan ∧ (holdAtPeriod s).solver = s.solver ∧ (holdAtPeriod s).piste = s.piste ∧ (holdAtPeriod s).prof = s.prof ∧ (holdAtPeriod s).ctl = s.ctl ∧ (holdAtPeriod s).sched = s.sched ∧ (holdAtPeriod s).dsp = s.dsp ∧ (holdAtPeriod s).sep = s.sep ∧ (holdAtPeriod s).safety = s.safety ∧ (holdAtPeriod s).cham = s.cham ∧ (holdAtPeriod s).field = s.field ∧ (holdAtPeriod s).clocks = s.clocks ∧ (holdAtPeriod s).power = s.power ∧ (holdAtPeriod s).pair = s.pair ∧ (holdAtPeriod s).sec = s.sec ∧ (holdAtPeriod s).hw = s.hw := by
  have fr1 := @trigger_frame; have fr2 := @withMode_frame
  unfold holdAtPeriod
  (repeat' split) <;> simp [fr1, fr2]

theorem periodTick_frame (s : State) :
    (periodTick s).writes = s.writes ∧ (periodTick s).image = s.image ∧ (periodTick s).herd = s.herd ∧ (periodTick s).net = s.net ∧ (periodTick s).solver = s.solver ∧ (periodTick s).piste = s.piste ∧ (periodTick s).prof = s.prof ∧ (periodTick s).ctl = s.ctl ∧ (periodTick s).sched = s.sched ∧ (periodTick s).dsp = s.dsp ∧ (periodTick s).sep = s.sep ∧ (periodTick s).safety = s.safety ∧ (periodTick s).cham = s.cham ∧ (periodTick s).field = s.field ∧ (periodTick s).clocks = s.clocks ∧ (periodTick s).power = s.power ∧ (periodTick s).pair = s.pair ∧ (periodTick s).sec = s.sec ∧ (periodTick s).hw = s.hw := by
  have fr1 := @holdAtPeriod_frame; have fr2 := @planTakesEffect_frame
  unfold periodTick
  simp [fr1, fr2]

theorem writesDue_frame (s : State) :
    (writesDue s).mode = s.mode ∧ (writesDue s).start = s.start ∧ (writesDue s).zewen = s.zewen ∧ (writesDue s).image = s.image ∧ (writesDue s).reg = s.reg ∧ (writesDue s).objs = s.objs ∧ (writesDue s).herd = s.herd ∧ (writesDue s).aon = s.aon ∧ (writesDue s).net = s.net ∧ (writesDue s).plan = s.plan ∧ (writesDue s).solver = s.solver ∧ (writesDue s).piste = s.piste ∧ (writesDue s).prof = s.prof ∧ (writesDue s).ctl = s.ctl ∧ (writesDue s).sched = s.sched ∧ (writesDue s).dsp = s.dsp ∧ (writesDue s).sep = s.sep ∧ (writesDue s).safety = s.safety ∧ (writesDue s).cham = s.cham ∧ (writesDue s).field = s.field ∧ (writesDue s).acq = s.acq ∧ (writesDue s).logs = s.logs ∧ (writesDue s).clocks = s.clocks ∧ (writesDue s).power = s.power ∧ (writesDue s).pair = s.pair ∧ (writesDue s).sec = s.sec ∧ (writesDue s).hw = s.hw ∧ (writesDue s).nor = s.nor ∧ (writesDue s).freeCount = s.freeCount := by
  unfold writesDue
  simp

theorem tickStarts_frame (s : State) :
    (tickStarts s).sec = s.sec ∧ (tickStarts s).hw = s.hw := by
  have fr1 := @encAges_frame; have fr2 := @netTickEnd_frame; have fr3 := @takeStamps_frame; have fr4 := @writesDue_frame; have fr5 := @toTickStart_frame; have fr6 := @holdRate_frame; have fr7 := @herdStep_frame; have fr8 := @withHerd_frame; have fr9 := @activationTickStart_frame; have fr10 := @modeTick_frame; have fr11 := @netTickStart_frame; have fr12 := @auxTicks_frame; have fr13 := @periodTick_frame; have fr14 := @acqTick_frame; have fr15 := @judgeRole_frame; have fr16 := @rollWindow_frame; have fr17 := @driveOutputs_frame
  unfold tickStarts
  simp [fr1, fr2, fr3, fr4, fr5, fr6, fr7, fr8, fr9, fr10, fr11, fr12, fr13, fr14, fr15, fr16, fr17]

end Sys2Proof.Machine
end

