-- ==== Sys2Proof/Laws/StepFrames.lean ====
section
/-! SUPPORT. What each command leaves alone, whatever becomes of it. -/

set_option Elab.async false
set_option linter.unusedSimpArgs false

namespace Sys2Proof.Machine

theorem command_mode (c : CmdSpec) (priv lenOk : Entry → Bool) (body : Entry → Transport → State → State) (clk : Nat) (e0 : Entry) (s0 : State)
    (h : ∀ e v s, (body e v s).mode = s.mode) : (command c priv lenOk body clk e0 s0).mode = s0.mode := by
  have fr1 := @begin_frame; have fr2 := @dropEntry_frame; have fr3 := @leaveFlight_frame; have fr4 := @consumeEntry_frame; have fr5 := @enterFlight_frame; have fr6 := @complete_frame
  unfold command
  dsimp only
  repeat' split
  all_goals simp [h, fr1, fr2, fr3, fr4, fr5, fr6]

theorem command_start (c : CmdSpec) (priv lenOk : Entry → Bool) (body : Entry → Transport → State → State) (clk : Nat) (e0 : Entry) (s0 : State)
    (h : ∀ e v s, (body e v s).start = s.start) : (command c priv lenOk body clk e0 s0).start = s0.start := by
  have fr1 := @begin_frame; have fr2 := @dropEntry_frame; have fr3 := @leaveFlight_frame; have fr4 := @consumeEntry_frame; have fr5 := @enterFlight_frame; have fr6 := @complete_frame
  unfold command
  dsimp only
  repeat' split
  all_goals simp [h, fr1, fr2, fr3, fr4, fr5, fr6]

theorem command_writes (c : CmdSpec) (priv lenOk : Entry → Bool) (body : Entry → Transport → State → State) (clk : Nat) (e0 : Entry) (s0 : State)
    (h : ∀ e v s, (body e v s).writes = s.writes) : (command c priv lenOk body clk e0 s0).writes = s0.writes := by
  have fr1 := @begin_frame; have fr2 := @dropEntry_frame; have fr3 := @leaveFlight_frame; have fr4 := @consumeEntry_frame; have fr5 := @enterFlight_frame; have fr6 := @complete_frame
  unfold command
  dsimp only
  repeat' split
  all_goals simp [h, fr1, fr2, fr3, fr4, fr5, fr6]

theorem command_image (c : CmdSpec) (priv lenOk : Entry → Bool) (body : Entry → Transport → State → State) (clk : Nat) (e0 : Entry) (s0 : State)
    (h : ∀ e v s, (body e v s).image = s.image) : (command c priv lenOk body clk e0 s0).image = s0.image := by
  have fr1 := @begin_frame; have fr2 := @dropEntry_frame; have fr3 := @leaveFlight_frame; have fr4 := @consumeEntry_frame; have fr5 := @enterFlight_frame; have fr6 := @complete_frame
  unfold command
  dsimp only
  repeat' split
  all_goals simp [h, fr1, fr2, fr3, fr4, fr5, fr6]

theorem command_net (c : CmdSpec) (priv lenOk : Entry → Bool) (body : Entry → Transport → State → State) (clk : Nat) (e0 : Entry) (s0 : State)
    (h : ∀ e v s, (body e v s).net = s.net) : (command c priv lenOk body clk e0 s0).net = s0.net := by
  have fr1 := @begin_frame; have fr2 := @dropEntry_frame; have fr3 := @leaveFlight_frame; have fr4 := @consumeEntry_frame; have fr5 := @enterFlight_frame; have fr6 := @complete_frame
  unfold command
  dsimp only
  repeat' split
  all_goals simp [h, fr1, fr2, fr3, fr4, fr5, fr6]

theorem command_plan (c : CmdSpec) (priv lenOk : Entry → Bool) (body : Entry → Transport → State → State) (clk : Nat) (e0 : Entry) (s0 : State)
    (h : ∀ e v s, (body e v s).plan = s.plan) : (command c priv lenOk body clk e0 s0).plan = s0.plan := by
  have fr1 := @begin_frame; have fr2 := @dropEntry_frame; have fr3 := @leaveFlight_frame; have fr4 := @consumeEntry_frame; have fr5 := @enterFlight_frame; have fr6 := @complete_frame
  unfold command
  dsimp only
  repeat' split
  all_goals simp [h, fr1, fr2, fr3, fr4, fr5, fr6]

theorem command_solver (c : CmdSpec) (priv lenOk : Entry → Bool) (body : Entry → Transport → State → State) (clk : Nat) (e0 : Entry) (s0 : State)
    (h : ∀ e v s, (body e v s).solver = s.solver) : (command c priv lenOk body clk e0 s0).solver = s0.solver := by
  have fr1 := @begin_frame; have fr2 := @dropEntry_frame; have fr3 := @leaveFlight_frame; have fr4 := @consumeEntry_frame; have fr5 := @enterFlight_frame; have fr6 := @complete_frame
  unfold command
  dsimp only
  repeat' split
  all_goals simp [h, fr1, fr2, fr3, fr4, fr5, fr6]

theorem command_piste (c : CmdSpec) (priv lenOk : Entry → Bool) (body : Entry → Transport → State → State) (clk : Nat) (e0 : Entry) (s0 : State)
    (h : ∀ e v s, (body e v s).piste = s.piste) : (command c priv lenOk body clk e0 s0).piste = s0.piste := by
  have fr1 := @begin_frame; have fr2 := @dropEntry_frame; have fr3 := @leaveFlight_frame; have fr4 := @consumeEntry_frame; have fr5 := @enterFlight_frame; have fr6 := @complete_frame
  unfold command
  dsimp only
  repeat' split
  all_goals simp [h, fr1, fr2, fr3, fr4, fr5, fr6]

theorem command_prof (c : CmdSpec) (priv lenOk : Entry → Bool) (body : Entry → Transport → State → State) (clk : Nat) (e0 : Entry) (s0 : State)
    (h : ∀ e v s, (body e v s).prof = s.prof) : (command c priv lenOk body clk e0 s0).prof = s0.prof := by
  have fr1 := @begin_frame; have fr2 := @dropEntry_frame; have fr3 := @leaveFlight_frame; have fr4 := @consumeEntry_frame; have fr5 := @enterFlight_frame; have fr6 := @complete_frame
  unfold command
  dsimp only
  repeat' split
  all_goals simp [h, fr1, fr2, fr3, fr4, fr5, fr6]

theorem command_ctl (c : CmdSpec) (priv lenOk : Entry → Bool) (body : Entry → Transport → State → State) (clk : Nat) (e0 : Entry) (s0 : State)
    (h : ∀ e v s, (body e v s).ctl = s.ctl) : (command c priv lenOk body clk e0 s0).ctl = s0.ctl := by
  have fr1 := @begin_frame; have fr2 := @dropEntry_frame; have fr3 := @leaveFlight_frame; have fr4 := @consumeEntry_frame; have fr5 := @enterFlight_frame; have fr6 := @complete_frame
  unfold command
  dsimp only
  repeat' split
  all_goals simp [h, fr1, fr2, fr3, fr4, fr5, fr6]

theorem command_sched (c : CmdSpec) (priv lenOk : Entry → Bool) (body : Entry → Transport → State → State) (clk : Nat) (e0 : Entry) (s0 : State)
    (h : ∀ e v s, (body e v s).sched = s.sched) : (command c priv lenOk body clk e0 s0).sched = s0.sched := by
  have fr1 := @begin_frame; have fr2 := @dropEntry_frame; have fr3 := @leaveFlight_frame; have fr4 := @consumeEntry_frame; have fr5 := @enterFlight_frame; have fr6 := @complete_frame
  unfold command
  dsimp only
  repeat' split
  all_goals simp [h, fr1, fr2, fr3, fr4, fr5, fr6]

theorem command_dsp (c : CmdSpec) (priv lenOk : Entry → Bool) (body : Entry → Transport → State → State) (clk : Nat) (e0 : Entry) (s0 : State)
    (h : ∀ e v s, (body e v s).dsp = s.dsp) : (command c priv lenOk body clk e0 s0).dsp = s0.dsp := by
  have fr1 := @begin_frame; have fr2 := @dropEntry_frame; have fr3 := @leaveFlight_frame; have fr4 := @consumeEntry_frame; have fr5 := @enterFlight_frame; have fr6 := @complete_frame
  unfold command
  dsimp only
  repeat' split
  all_goals simp [h, fr1, fr2, fr3, fr4, fr5, fr6]

theorem command_sep (c : CmdSpec) (priv lenOk : Entry → Bool) (body : Entry → Transport → State → State) (clk : Nat) (e0 : Entry) (s0 : State)
    (h : ∀ e v s, (body e v s).sep = s.sep) : (command c priv lenOk body clk e0 s0).sep = s0.sep := by
  have fr1 := @begin_frame; have fr2 := @dropEntry_frame; have fr3 := @leaveFlight_frame; have fr4 := @consumeEntry_frame; have fr5 := @enterFlight_frame; have fr6 := @complete_frame
  unfold command
  dsimp only
  repeat' split
  all_goals simp [h, fr1, fr2, fr3, fr4, fr5, fr6]

theorem command_safety (c : CmdSpec) (priv lenOk : Entry → Bool) (body : Entry → Transport → State → State) (clk : Nat) (e0 : Entry) (s0 : State)
    (h : ∀ e v s, (body e v s).safety = s.safety) : (command c priv lenOk body clk e0 s0).safety = s0.safety := by
  have fr1 := @begin_frame; have fr2 := @dropEntry_frame; have fr3 := @leaveFlight_frame; have fr4 := @consumeEntry_frame; have fr5 := @enterFlight_frame; have fr6 := @complete_frame
  unfold command
  dsimp only
  repeat' split
  all_goals simp [h, fr1, fr2, fr3, fr4, fr5, fr6]

theorem command_cham (c : CmdSpec) (priv lenOk : Entry → Bool) (body : Entry → Transport → State → State) (clk : Nat) (e0 : Entry) (s0 : State)
    (h : ∀ e v s, (body e v s).cham = s.cham) : (command c priv lenOk body clk e0 s0).cham = s0.cham := by
  have fr1 := @begin_frame; have fr2 := @dropEntry_frame; have fr3 := @leaveFlight_frame; have fr4 := @consumeEntry_frame; have fr5 := @enterFlight_frame; have fr6 := @complete_frame
  unfold command
  dsimp only
  repeat' split
  all_goals simp [h, fr1, fr2, fr3, fr4, fr5, fr6]

theorem command_field (c : CmdSpec) (priv lenOk : Entry → Bool) (body : Entry → Transport → State → State) (clk : Nat) (e0 : Entry) (s0 : State)
    (h : ∀ e v s, (body e v s).field = s.field) : (command c priv lenOk body clk e0 s0).field = s0.field := by
  have fr1 := @begin_frame; have fr2 := @dropEntry_frame; have fr3 := @leaveFlight_frame; have fr4 := @consumeEntry_frame; have fr5 := @enterFlight_frame; have fr6 := @complete_frame
  unfold command
  dsimp only
  repeat' split
  all_goals simp [h, fr1, fr2, fr3, fr4, fr5, fr6]

theorem command_clocks (c : CmdSpec) (priv lenOk : Entry → Bool) (body : Entry → Transport → State → State) (clk : Nat) (e0 : Entry) (s0 : State)
    (h : ∀ e v s, (body e v s).clocks = s.clocks) : (command c priv lenOk body clk e0 s0).clocks = s0.clocks := by
  have fr1 := @begin_frame; have fr2 := @dropEntry_frame; have fr3 := @leaveFlight_frame; have fr4 := @consumeEntry_frame; have fr5 := @enterFlight_frame; have fr6 := @complete_frame
  unfold command
  dsimp only
  repeat' split
  all_goals simp [h, fr1, fr2, fr3, fr4, fr5, fr6]

theorem command_power (c : CmdSpec) (priv lenOk : Entry → Bool) (body : Entry → Transport → State → State) (clk : Nat) (e0 : Entry) (s0 : State)
    (h : ∀ e v s, (body e v s).power = s.power) : (command c priv lenOk body clk e0 s0).power = s0.power := by
  have fr1 := @begin_frame; have fr2 := @dropEntry_frame; have fr3 := @leaveFlight_frame; have fr4 := @consumeEntry_frame; have fr5 := @enterFlight_frame; have fr6 := @complete_frame
  unfold command
  dsimp only
  repeat' split
  all_goals simp [h, fr1, fr2, fr3, fr4, fr5, fr6]

theorem command_pair (c : CmdSpec) (priv lenOk : Entry → Bool) (body : Entry → Transport → State → State) (clk : Nat) (e0 : Entry) (s0 : State)
    (h : ∀ e v s, (body e v s).pair = s.pair) : (command c priv lenOk body clk e0 s0).pair = s0.pair := by
  have fr1 := @begin_frame; have fr2 := @dropEntry_frame; have fr3 := @leaveFlight_frame; have fr4 := @consumeEntry_frame; have fr5 := @enterFlight_frame; have fr6 := @complete_frame
  unfold command
  dsimp only
  repeat' split
  all_goals simp [h, fr1, fr2, fr3, fr4, fr5, fr6]

theorem command_sec (c : CmdSpec) (priv lenOk : Entry → Bool) (body : Entry → Transport → State → State) (clk : Nat) (e0 : Entry) (s0 : State)
    (h : ∀ e v s, (body e v s).sec = s.sec) : (command c priv lenOk body clk e0 s0).sec = s0.sec := by
  have fr1 := @begin_frame; have fr2 := @dropEntry_frame; have fr3 := @leaveFlight_frame; have fr4 := @consumeEntry_frame; have fr5 := @enterFlight_frame; have fr6 := @complete_frame
  unfold command
  dsimp only
  repeat' split
  all_goals simp [h, fr1, fr2, fr3, fr4, fr5, fr6]

theorem command_hw (c : CmdSpec) (priv lenOk : Entry → Bool) (body : Entry → Transport → State → State) (clk : Nat) (e0 : Entry) (s0 : State)
    (h : ∀ e v s, (body e v s).hw = s.hw) : (command c priv lenOk body clk e0 s0).hw = s0.hw := by
  have fr1 := @begin_frame; have fr2 := @dropEntry_frame; have fr3 := @leaveFlight_frame; have fr4 := @consumeEntry_frame; have fr5 := @enterFlight_frame; have fr6 := @complete_frame
  unfold command
  dsimp only
  repeat' split
  all_goals simp [h, fr1, fr2, fr3, fr4, fr5, fr6]

theorem command_nor (c : CmdSpec) (priv lenOk : Entry → Bool) (body : Entry → Transport → State → State) (clk : Nat) (e0 : Entry) (s0 : State)
    (h : ∀ e v s, (body e v s).nor = s.nor) : (command c priv lenOk body clk e0 s0).nor = s0.nor := by
  have fr1 := @begin_frame; have fr2 := @dropEntry_frame; have fr3 := @leaveFlight_frame; have fr4 := @consumeEntry_frame; have fr5 := @enterFlight_frame; have fr6 := @complete_frame
  unfold command
  dsimp only
  repeat' split
  all_goals simp [h, fr1, fr2, fr3, fr4, fr5, fr6]

theorem readReg_mode (s : State) (b : Server) (privileged : Bool) (act : State → Nat × State)
    (h : ∀ s, (act s).2.mode = s.mode) : (readReg s b privileged act).mode = s.mode := by
  have fr1 := @emit_frame; have fr2 := @countGated_frame
  unfold readReg
  (repeat' split) <;> simp [h, fr1, fr2]

theorem readReg_start (s : State) (b : Server) (privileged : Bool) (act : State → Nat × State)
    (h : ∀ s, (act s).2.start = s.start) : (readReg s b privileged act).start = s.start := by
  have fr1 := @emit_frame; have fr2 := @countGated_frame
  unfold readReg
  (repeat' split) <;> simp [h, fr1, fr2]

theorem readReg_zewen (s : State) (b : Server) (privileged : Bool) (act : State → Nat × State)
    (h : ∀ s, (act s).2.zewen = s.zewen) : (readReg s b privileged act).zewen = s.zewen := by
  have fr1 := @emit_frame; have fr2 := @countGated_frame
  unfold readReg
  (repeat' split) <;> simp [h, fr1, fr2]

theorem readReg_writes (s : State) (b : Server) (privileged : Bool) (act : State → Nat × State)
    (h : ∀ s, (act s).2.writes = s.writes) : (readReg s b privileged act).writes = s.writes := by
  have fr1 := @emit_frame; have fr2 := @countGated_frame
  unfold readReg
  (repeat' split) <;> simp [h, fr1, fr2]

theorem readReg_image (s : State) (b : Server) (privileged : Bool) (act : State → Nat × State)
    (h : ∀ s, (act s).2.image = s.image) : (readReg s b privileged act).image = s.image := by
  have fr1 := @emit_frame; have fr2 := @countGated_frame
  unfold readReg
  (repeat' split) <;> simp [h, fr1, fr2]

theorem readReg_objs (s : State) (b : Server) (privileged : Bool) (act : State → Nat × State)
    (h : ∀ s, (act s).2.objs = s.objs) : (readReg s b privileged act).objs = s.objs := by
  have fr1 := @emit_frame; have fr2 := @countGated_frame
  unfold readReg
  (repeat' split) <;> simp [h, fr1, fr2]

theorem readReg_herd (s : State) (b : Server) (privileged : Bool) (act : State → Nat × State)
    (h : ∀ s, (act s).2.herd = s.herd) : (readReg s b privileged act).herd = s.herd := by
  have fr1 := @emit_frame; have fr2 := @countGated_frame
  unfold readReg
  (repeat' split) <;> simp [h, fr1, fr2]

theorem readReg_aon (s : State) (b : Server) (privileged : Bool) (act : State → Nat × State)
    (h : ∀ s, (act s).2.aon = s.aon) : (readReg s b privileged act).aon = s.aon := by
  have fr1 := @emit_frame; have fr2 := @countGated_frame
  unfold readReg
  (repeat' split) <;> simp [h, fr1, fr2]

theorem readReg_net (s : State) (b : Server) (privileged : Bool) (act : State → Nat × State)
    (h : ∀ s, (act s).2.net = s.net) : (readReg s b privileged act).net = s.net := by
  have fr1 := @emit_frame; have fr2 := @countGated_frame
  unfold readReg
  (repeat' split) <;> simp [h, fr1, fr2]

theorem readReg_plan (s : State) (b : Server) (privileged : Bool) (act : State → Nat × State)
    (h : ∀ s, (act s).2.plan = s.plan) : (readReg s b privileged act).plan = s.plan := by
  have fr1 := @emit_frame; have fr2 := @countGated_frame
  unfold readReg
  (repeat' split) <;> simp [h, fr1, fr2]

theorem readReg_solver (s : State) (b : Server) (privileged : Bool) (act : State → Nat × State)
    (h : ∀ s, (act s).2.solver = s.solver) : (readReg s b privileged act).solver = s.solver := by
  have fr1 := @emit_frame; have fr2 := @countGated_frame
  unfold readReg
  (repeat' split) <;> simp [h, fr1, fr2]

theorem readReg_piste (s : State) (b : Server) (privileged : Bool) (act : State → Nat × State)
    (h : ∀ s, (act s).2.piste = s.piste) : (readReg s b privileged act).piste = s.piste := by
  have fr1 := @emit_frame; have fr2 := @countGated_frame
  unfold readReg
  (repeat' split) <;> simp [h, fr1, fr2]

theorem readReg_prof (s : State) (b : Server) (privileged : Bool) (act : State → Nat × State)
    (h : ∀ s, (act s).2.prof = s.prof) : (readReg s b privileged act).prof = s.prof := by
  have fr1 := @emit_frame; have fr2 := @countGated_frame
  unfold readReg
  (repeat' split) <;> simp [h, fr1, fr2]

theorem readReg_ctl (s : State) (b : Server) (privileged : Bool) (act : State → Nat × State)
    (h : ∀ s, (act s).2.ctl = s.ctl) : (readReg s b privileged act).ctl = s.ctl := by
  have fr1 := @emit_frame; have fr2 := @countGated_frame
  unfold readReg
  (repeat' split) <;> simp [h, fr1, fr2]

theorem readReg_sched (s : State) (b : Server) (privileged : Bool) (act : State → Nat × State)
    (h : ∀ s, (act s).2.sched = s.sched) : (readReg s b privileged act).sched = s.sched := by
  have fr1 := @emit_frame; have fr2 := @countGated_frame
  unfold readReg
  (repeat' split) <;> simp [h, fr1, fr2]

theorem readReg_dsp (s : State) (b : Server) (privileged : Bool) (act : State → Nat × State)
    (h : ∀ s, (act s).2.dsp = s.dsp) : (readReg s b privileged act).dsp = s.dsp := by
  have fr1 := @emit_frame; have fr2 := @countGated_frame
  unfold readReg
  (repeat' split) <;> simp [h, fr1, fr2]

theorem readReg_sep (s : State) (b : Server) (privileged : Bool) (act : State → Nat × State)
    (h : ∀ s, (act s).2.sep = s.sep) : (readReg s b privileged act).sep = s.sep := by
  have fr1 := @emit_frame; have fr2 := @countGated_frame
  unfold readReg
  (repeat' split) <;> simp [h, fr1, fr2]

theorem readReg_safety (s : State) (b : Server) (privileged : Bool) (act : State → Nat × State)
    (h : ∀ s, (act s).2.safety = s.safety) : (readReg s b privileged act).safety = s.safety := by
  have fr1 := @emit_frame; have fr2 := @countGated_frame
  unfold readReg
  (repeat' split) <;> simp [h, fr1, fr2]

theorem readReg_cham (s : State) (b : Server) (privileged : Bool) (act : State → Nat × State)
    (h : ∀ s, (act s).2.cham = s.cham) : (readReg s b privileged act).cham = s.cham := by
  have fr1 := @emit_frame; have fr2 := @countGated_frame
  unfold readReg
  (repeat' split) <;> simp [h, fr1, fr2]

theorem readReg_field (s : State) (b : Server) (privileged : Bool) (act : State → Nat × State)
    (h : ∀ s, (act s).2.field = s.field) : (readReg s b privileged act).field = s.field := by
  have fr1 := @emit_frame; have fr2 := @countGated_frame
  unfold readReg
  (repeat' split) <;> simp [h, fr1, fr2]

theorem readReg_acq (s : State) (b : Server) (privileged : Bool) (act : State → Nat × State)
    (h : ∀ s, (act s).2.acq = s.acq) : (readReg s b privileged act).acq = s.acq := by
  have fr1 := @emit_frame; have fr2 := @countGated_frame
  unfold readReg
  (repeat' split) <;> simp [h, fr1, fr2]

theorem readReg_logs (s : State) (b : Server) (privileged : Bool) (act : State → Nat × State)
    (h : ∀ s, (act s).2.logs = s.logs) : (readReg s b privileged act).logs = s.logs := by
  have fr1 := @emit_frame; have fr2 := @countGated_frame
  unfold readReg
  (repeat' split) <;> simp [h, fr1, fr2]

theorem readReg_clocks (s : State) (b : Server) (privileged : Bool) (act : State → Nat × State)
    (h : ∀ s, (act s).2.clocks = s.clocks) : (readReg s b privileged act).clocks = s.clocks := by
  have fr1 := @emit_frame; have fr2 := @countGated_frame
  unfold readReg
  (repeat' split) <;> simp [h, fr1, fr2]

theorem readReg_power (s : State) (b : Server) (privileged : Bool) (act : State → Nat × State)
    (h : ∀ s, (act s).2.power = s.power) : (readReg s b privileged act).power = s.power := by
  have fr1 := @emit_frame; have fr2 := @countGated_frame
  unfold readReg
  (repeat' split) <;> simp [h, fr1, fr2]

theorem readReg_pair (s : State) (b : Server) (privileged : Bool) (act : State → Nat × State)
    (h : ∀ s, (act s).2.pair = s.pair) : (readReg s b privileged act).pair = s.pair := by
  have fr1 := @emit_frame; have fr2 := @countGated_frame
  unfold readReg
  (repeat' split) <;> simp [h, fr1, fr2]

theorem readReg_sec (s : State) (b : Server) (privileged : Bool) (act : State → Nat × State)
    (h : ∀ s, (act s).2.sec = s.sec) : (readReg s b privileged act).sec = s.sec := by
  have fr1 := @emit_frame; have fr2 := @countGated_frame
  unfold readReg
  (repeat' split) <;> simp [h, fr1, fr2]

theorem readReg_hw (s : State) (b : Server) (privileged : Bool) (act : State → Nat × State)
    (h : ∀ s, (act s).2.hw = s.hw) : (readReg s b privileged act).hw = s.hw := by
  have fr1 := @emit_frame; have fr2 := @countGated_frame
  unfold readReg
  (repeat' split) <;> simp [h, fr1, fr2]

theorem readReg_nor (s : State) (b : Server) (privileged : Bool) (act : State → Nat × State)
    (h : ∀ s, (act s).2.nor = s.nor) : (readReg s b privileged act).nor = s.nor := by
  have fr1 := @emit_frame; have fr2 := @countGated_frame
  unfold readReg
  (repeat' split) <;> simp [h, fr1, fr2]

theorem readReg_freeCount (s : State) (b : Server) (privileged : Bool) (act : State → Nat × State)
    (h : ∀ s, (act s).2.freeCount = s.freeCount) : (readReg s b privileged act).freeCount = s.freeCount := by
  have fr1 := @emit_frame; have fr2 := @countGated_frame
  unfold readReg
  (repeat' split) <;> simp [h, fr1, fr2]

theorem writeReg_mode (s : State) (b : Server) (privileged priv : Bool) (act : State → State)
    (h : ∀ s, (act s).mode = s.mode) : (writeReg s b privileged priv act).mode = s.mode := by
  have fr1 := @countDenied_frame; have fr2 := @clkEvent_frame; have fr3 := @countGated_frame
  unfold writeReg
  (repeat' split) <;> simp [h, fr1, fr2, fr3]

theorem writeReg_start (s : State) (b : Server) (privileged priv : Bool) (act : State → State)
    (h : ∀ s, (act s).start = s.start) : (writeReg s b privileged priv act).start = s.start := by
  have fr1 := @countDenied_frame; have fr2 := @clkEvent_frame; have fr3 := @countGated_frame
  unfold writeReg
  (repeat' split) <;> simp [h, fr1, fr2, fr3]

theorem writeReg_writes (s : State) (b : Server) (privileged priv : Bool) (act : State → State)
    (h : ∀ s, (act s).writes = s.writes) : (writeReg s b privileged priv act).writes = s.writes := by
  have fr1 := @countDenied_frame; have fr2 := @clkEvent_frame; have fr3 := @countGated_frame
  unfold writeReg
  (repeat' split) <;> simp [h, fr1, fr2, fr3]

theorem writeReg_image (s : State) (b : Server) (privileged priv : Bool) (act : State → State)
    (h : ∀ s, (act s).image = s.image) : (writeReg s b privileged priv act).image = s.image := by
  have fr1 := @countDenied_frame; have fr2 := @clkEvent_frame; have fr3 := @countGated_frame
  unfold writeReg
  (repeat' split) <;> simp [h, fr1, fr2, fr3]

theorem writeReg_objs (s : State) (b : Server) (privileged priv : Bool) (act : State → State)
    (h : ∀ s, (act s).objs = s.objs) : (writeReg s b privileged priv act).objs = s.objs := by
  have fr1 := @countDenied_frame; have fr2 := @clkEvent_frame; have fr3 := @countGated_frame
  unfold writeReg
  (repeat' split) <;> simp [h, fr1, fr2, fr3]

theorem writeReg_herd (s : State) (b : Server) (privileged priv : Bool) (act : State → State)
    (h : ∀ s, (act s).herd = s.herd) : (writeReg s b privileged priv act).herd = s.herd := by
  have fr1 := @countDenied_frame; have fr2 := @clkEvent_frame; have fr3 := @countGated_frame
  unfold writeReg
  (repeat' split) <;> simp [h, fr1, fr2, fr3]

theorem writeReg_aon (s : State) (b : Server) (privileged priv : Bool) (act : State → State)
    (h : ∀ s, (act s).aon = s.aon) : (writeReg s b privileged priv act).aon = s.aon := by
  have fr1 := @countDenied_frame; have fr2 := @clkEvent_frame; have fr3 := @countGated_frame
  unfold writeReg
  (repeat' split) <;> simp [h, fr1, fr2, fr3]

theorem writeReg_net (s : State) (b : Server) (privileged priv : Bool) (act : State → State)
    (h : ∀ s, (act s).net = s.net) : (writeReg s b privileged priv act).net = s.net := by
  have fr1 := @countDenied_frame; have fr2 := @clkEvent_frame; have fr3 := @countGated_frame
  unfold writeReg
  (repeat' split) <;> simp [h, fr1, fr2, fr3]

theorem writeReg_plan (s : State) (b : Server) (privileged priv : Bool) (act : State → State)
    (h : ∀ s, (act s).plan = s.plan) : (writeReg s b privileged priv act).plan = s.plan := by
  have fr1 := @countDenied_frame; have fr2 := @clkEvent_frame; have fr3 := @countGated_frame
  unfold writeReg
  (repeat' split) <;> simp [h, fr1, fr2, fr3]

theorem writeReg_solver (s : State) (b : Server) (privileged priv : Bool) (act : State → State)
    (h : ∀ s, (act s).solver = s.solver) : (writeReg s b privileged priv act).solver = s.solver := by
  have fr1 := @countDenied_frame; have fr2 := @clkEvent_frame; have fr3 := @countGated_frame
  unfold writeReg
  (repeat' split) <;> simp [h, fr1, fr2, fr3]

theorem writeReg_piste (s : State) (b : Server) (privileged priv : Bool) (act : State → State)
    (h : ∀ s, (act s).piste = s.piste) : (writeReg s b privileged priv act).piste = s.piste := by
  have fr1 := @countDenied_frame; have fr2 := @clkEvent_frame; have fr3 := @countGated_frame
  unfold writeReg
  (repeat' split) <;> simp [h, fr1, fr2, fr3]

theorem writeReg_prof (s : State) (b : Server) (privileged priv : Bool) (act : State → State)
    (h : ∀ s, (act s).prof = s.prof) : (writeReg s b privileged priv act).prof = s.prof := by
  have fr1 := @countDenied_frame; have fr2 := @clkEvent_frame; have fr3 := @countGated_frame
  unfold writeReg
  (repeat' split) <;> simp [h, fr1, fr2, fr3]

theorem writeReg_ctl (s : State) (b : Server) (privileged priv : Bool) (act : State → State)
    (h : ∀ s, (act s).ctl = s.ctl) : (writeReg s b privileged priv act).ctl = s.ctl := by
  have fr1 := @countDenied_frame; have fr2 := @clkEvent_frame; have fr3 := @countGated_frame
  unfold writeReg
  (repeat' split) <;> simp [h, fr1, fr2, fr3]

theorem writeReg_sched (s : State) (b : Server) (privileged priv : Bool) (act : State → State)
    (h : ∀ s, (act s).sched = s.sched) : (writeReg s b privileged priv act).sched = s.sched := by
  have fr1 := @countDenied_frame; have fr2 := @clkEvent_frame; have fr3 := @countGated_frame
  unfold writeReg
  (repeat' split) <;> simp [h, fr1, fr2, fr3]

theorem writeReg_dsp (s : State) (b : Server) (privileged priv : Bool) (act : State → State)
    (h : ∀ s, (act s).dsp = s.dsp) : (writeReg s b privileged priv act).dsp = s.dsp := by
  have fr1 := @countDenied_frame; have fr2 := @clkEvent_frame; have fr3 := @countGated_frame
  unfold writeReg
  (repeat' split) <;> simp [h, fr1, fr2, fr3]

theorem writeReg_sep (s : State) (b : Server) (privileged priv : Bool) (act : State → State)
    (h : ∀ s, (act s).sep = s.sep) : (writeReg s b privileged priv act).sep = s.sep := by
  have fr1 := @countDenied_frame; have fr2 := @clkEvent_frame; have fr3 := @countGated_frame
  unfold writeReg
  (repeat' split) <;> simp [h, fr1, fr2, fr3]

theorem writeReg_safety (s : State) (b : Server) (privileged priv : Bool) (act : State → State)
    (h : ∀ s, (act s).safety = s.safety) : (writeReg s b privileged priv act).safety = s.safety := by
  have fr1 := @countDenied_frame; have fr2 := @clkEvent_frame; have fr3 := @countGated_frame
  unfold writeReg
  (repeat' split) <;> simp [h, fr1, fr2, fr3]

theorem writeReg_cham (s : State) (b : Server) (privileged priv : Bool) (act : State → State)
    (h : ∀ s, (act s).cham = s.cham) : (writeReg s b privileged priv act).cham = s.cham := by
  have fr1 := @countDenied_frame; have fr2 := @clkEvent_frame; have fr3 := @countGated_frame
  unfold writeReg
  (repeat' split) <;> simp [h, fr1, fr2, fr3]

theorem writeReg_field (s : State) (b : Server) (privileged priv : Bool) (act : State → State)
    (h : ∀ s, (act s).field = s.field) : (writeReg s b privileged priv act).field = s.field := by
  have fr1 := @countDenied_frame; have fr2 := @clkEvent_frame; have fr3 := @countGated_frame
  unfold writeReg
  (repeat' split) <;> simp [h, fr1, fr2, fr3]

theorem writeReg_acq (s : State) (b : Server) (privileged priv : Bool) (act : State → State)
    (h : ∀ s, (act s).acq = s.acq) : (writeReg s b privileged priv act).acq = s.acq := by
  have fr1 := @countDenied_frame; have fr2 := @clkEvent_frame; have fr3 := @countGated_frame
  unfold writeReg
  (repeat' split) <;> simp [h, fr1, fr2, fr3]

theorem writeReg_logs (s : State) (b : Server) (privileged priv : Bool) (act : State → State)
    (h : ∀ s, (act s).logs = s.logs) : (writeReg s b privileged priv act).logs = s.logs := by
  have fr1 := @countDenied_frame; have fr2 := @clkEvent_frame; have fr3 := @countGated_frame
  unfold writeReg
  (repeat' split) <;> simp [h, fr1, fr2, fr3]

theorem writeReg_power (s : State) (b : Server) (privileged priv : Bool) (act : State → State)
    (h : ∀ s, (act s).power = s.power) : (writeReg s b privileged priv act).power = s.power := by
  have fr1 := @countDenied_frame; have fr2 := @clkEvent_frame; have fr3 := @countGated_frame
  unfold writeReg
  (repeat' split) <;> simp [h, fr1, fr2, fr3]

theorem writeReg_pair (s : State) (b : Server) (privileged priv : Bool) (act : State → State)
    (h : ∀ s, (act s).pair = s.pair) : (writeReg s b privileged priv act).pair = s.pair := by
  have fr1 := @countDenied_frame; have fr2 := @clkEvent_frame; have fr3 := @countGated_frame
  unfold writeReg
  (repeat' split) <;> simp [h, fr1, fr2, fr3]

theorem writeReg_sec (s : State) (b : Server) (privileged priv : Bool) (act : State → State)
    (h : ∀ s, (act s).sec = s.sec) : (writeReg s b privileged priv act).sec = s.sec := by
  have fr1 := @countDenied_frame; have fr2 := @clkEvent_frame; have fr3 := @countGated_frame
  unfold writeReg
  (repeat' split) <;> simp [h, fr1, fr2, fr3]

theorem writeReg_hw (s : State) (b : Server) (privileged priv : Bool) (act : State → State)
    (h : ∀ s, (act s).hw = s.hw) : (writeReg s b privileged priv act).hw = s.hw := by
  have fr1 := @countDenied_frame; have fr2 := @clkEvent_frame; have fr3 := @countGated_frame
  unfold writeReg
  (repeat' split) <;> simp [h, fr1, fr2, fr3]

theorem writeReg_nor (s : State) (b : Server) (privileged priv : Bool) (act : State → State)
    (h : ∀ s, (act s).nor = s.nor) : (writeReg s b privileged priv act).nor = s.nor := by
  have fr1 := @countDenied_frame; have fr2 := @clkEvent_frame; have fr3 := @countGated_frame
  unfold writeReg
  (repeat' split) <;> simp [h, fr1, fr2, fr3]

theorem writeReg_freeCount (s : State) (b : Server) (privileged priv : Bool) (act : State → State)
    (h : ∀ s, (act s).freeCount = s.freeCount) : (writeReg s b privileged priv act).freeCount = s.freeCount := by
  have fr1 := @countDenied_frame; have fr2 := @clkEvent_frame; have fr3 := @countGated_frame
  unfold writeReg
  (repeat' split) <;> simp [h, fr1, fr2, fr3]

theorem regEffect_frame {offset value : Nat} {p : Bool} {act : State → State} (h : regEffect offset value = some (p, act)) (s : State) :
    (act s).mode = s.mode ∧ (act s).start = s.start ∧ (act s).writes = s.writes ∧ (act s).image = s.image ∧ (act s).objs = s.objs ∧ (act s).net = s.net ∧ (act s).plan = s.plan ∧ (act s).solver = s.solver ∧ (act s).piste = s.piste ∧ (act s).prof = s.prof ∧ (act s).ctl = s.ctl ∧ (act s).sched = s.sched ∧ (act s).dsp = s.dsp ∧ (act s).sep = s.sep ∧ (act s).safety = s.safety ∧ (act s).cham = s.cham ∧ (act s).field = s.field ∧ (act s).acq = s.acq ∧ (act s).logs = s.logs ∧ (act s).power = s.power ∧ (act s).pair = s.pair ∧ (act s).sec = s.sec ∧ (act s).hw = s.hw ∧ (act s).nor = s.nor ∧ (act s).freeCount = s.freeCount := by
  have fr1 := @clearFirst_frame; have fr2 := @clearInt_frame; have fr3 := @writeMask_frame; have fr4 := @clearDone_frame; have fr5 := @viewClear_frame; have fr6 := @popStamp_frame; have fr7 := @clearClk_frame; have fr8 := @writeCmdTail_frame; have fr9 := @writeCplHead_frame; have fr10 := @setMbx_frame; have fr11 := @writeMsix_frame
  unfold regEffect at h
  dsimp only at h
  repeat' split at h
  all_goals cases h
  all_goals simp [fr1, fr2, fr3, fr4, fr5, fr6, fr7, fr8, fr9, fr10, fr11]

theorem checkStatic_discard_frame {s t : State} {f : RxFrame} {kind : Nat} (h : checkStatic s f kind = .discard t) :
    (t).mode = s.mode ∧ (t).start = s.start ∧ (t).zewen = s.zewen ∧ (t).writes = s.writes ∧ (t).image = s.image ∧ (t).reg = s.reg ∧ (t).plan = s.plan ∧ (t).solver = s.solver ∧ (t).piste = s.piste ∧ (t).prof = s.prof ∧ (t).dsp = s.dsp ∧ (t).cham = s.cham ∧ (t).field = s.field ∧ (t).acq = s.acq ∧ (t).logs = s.logs ∧ (t).clocks = s.clocks ∧ (t).power = s.power ∧ (t).sec = s.sec ∧ (t).hw = s.hw ∧ (t).nor = s.nor := by
  have fr1 := @countNode_frame; have fr2 := @noteDrift_frame
  unfold checkStatic at h
  dsimp only at h
  repeat' split at h
  all_goals first
    | (cases h; done)
    | (cases h; simp [fr1, fr2])

theorem checkStatic_accept_frame {s t : State} {f : RxFrame} {kind k : Nat} {start : Int} (h : checkStatic s f kind = .accept t k start) :
    (t).mode = s.mode ∧ (t).start = s.start ∧ (t).zewen = s.zewen ∧ (t).writes = s.writes ∧ (t).image = s.image ∧ (t).reg = s.reg ∧ (t).plan = s.plan ∧ (t).solver = s.solver ∧ (t).piste = s.piste ∧ (t).prof = s.prof ∧ (t).dsp = s.dsp ∧ (t).cham = s.cham ∧ (t).field = s.field ∧ (t).acq = s.acq ∧ (t).logs = s.logs ∧ (t).clocks = s.clocks ∧ (t).power = s.power ∧ (t).sec = s.sec ∧ (t).hw = s.hw ∧ (t).nor = s.nor := by
  have fr1 := @countNode_frame; have fr2 := @noteDrift_frame
  unfold checkStatic at h
  dsimp only at h
  repeat' split at h
  all_goals first
    | (cases h; done)
    | (cases h; simp [fr1, fr2])

theorem execNop_frame {x0 : Nat} {x1 : Entry} {s t : State} (h : exec (.nop x0 x1) s = .next t) :
    t.mode = s.mode ∧ t.start = s.start ∧ t.writes = s.writes ∧ t.image = s.image ∧ t.net = s.net ∧ t.plan = s.plan ∧ t.solver = s.solver ∧ t.piste = s.piste ∧ t.prof = s.prof ∧ t.ctl = s.ctl ∧ t.sched = s.sched ∧ t.dsp = s.dsp ∧ t.sep = s.sep ∧ t.safety = s.safety ∧ t.cham = s.cham ∧ t.field = s.field ∧ t.clocks = s.clocks ∧ t.power = s.power ∧ t.pair = s.pair ∧ t.sec = s.sec ∧ t.hw = s.hw ∧ t.nor = s.nor := by
  have fr1 := @complete_frame
  simp only [exec, execNop, Host.Outcome.next.injEq] at h
  subst h
  refine ⟨command_mode _ _ _ _ _ _ _ ?_, command_start _ _ _ _ _ _ _ ?_, command_writes _ _ _ _ _ _ _ ?_, command_image _ _ _ _ _ _ _ ?_, command_net _ _ _ _ _ _ _ ?_, command_plan _ _ _ _ _ _ _ ?_, command_solver _ _ _ _ _ _ _ ?_, command_piste _ _ _ _ _ _ _ ?_, command_prof _ _ _ _ _ _ _ ?_, command_ctl _ _ _ _ _ _ _ ?_, command_sched _ _ _ _ _ _ _ ?_, command_dsp _ _ _ _ _ _ _ ?_, command_sep _ _ _ _ _ _ _ ?_, command_safety _ _ _ _ _ _ _ ?_, command_cham _ _ _ _ _ _ _ ?_, command_field _ _ _ _ _ _ _ ?_, command_clocks _ _ _ _ _ _ _ ?_, command_power _ _ _ _ _ _ _ ?_, command_pair _ _ _ _ _ _ _ ?_, command_sec _ _ _ _ _ _ _ ?_, command_hw _ _ _ _ _ _ _ ?_, command_nor _ _ _ _ _ _ _ ?_⟩
  all_goals (intro e v s; simp [fr1])

theorem execOpenSession_frame {x0 : Nat} {x1 : Entry} {s t : State} (h : exec (.openSession x0 x1) s = .next t) :
    t.mode = s.mode ∧ t.start = s.start ∧ t.writes = s.writes ∧ t.image = s.image ∧ t.net = s.net ∧ t.plan = s.plan ∧ t.solver = s.solver ∧ t.piste = s.piste ∧ t.prof = s.prof ∧ t.ctl = s.ctl ∧ t.sched = s.sched ∧ t.dsp = s.dsp ∧ t.sep = s.sep ∧ t.safety = s.safety ∧ t.cham = s.cham ∧ t.field = s.field ∧ t.clocks = s.clocks ∧ t.power = s.power ∧ t.pair = s.pair ∧ t.sec = s.sec ∧ t.hw = s.hw ∧ t.nor = s.nor := by
  have fr1 := @openSession_frame
  simp only [exec, execOpenSession, Host.Outcome.next.injEq] at h
  subst h
  refine ⟨command_mode _ _ _ _ _ _ _ ?_, command_start _ _ _ _ _ _ _ ?_, command_writes _ _ _ _ _ _ _ ?_, command_image _ _ _ _ _ _ _ ?_, command_net _ _ _ _ _ _ _ ?_, command_plan _ _ _ _ _ _ _ ?_, command_solver _ _ _ _ _ _ _ ?_, command_piste _ _ _ _ _ _ _ ?_, command_prof _ _ _ _ _ _ _ ?_, command_ctl _ _ _ _ _ _ _ ?_, command_sched _ _ _ _ _ _ _ ?_, command_dsp _ _ _ _ _ _ _ ?_, command_sep _ _ _ _ _ _ _ ?_, command_safety _ _ _ _ _ _ _ ?_, command_cham _ _ _ _ _ _ _ ?_, command_field _ _ _ _ _ _ _ ?_, command_clocks _ _ _ _ _ _ _ ?_, command_power _ _ _ _ _ _ _ ?_, command_pair _ _ _ _ _ _ _ ?_, command_sec _ _ _ _ _ _ _ ?_, command_hw _ _ _ _ _ _ _ ?_, command_nor _ _ _ _ _ _ _ ?_⟩
  all_goals (intro e v s; simp [fr1])

theorem execCloseSession_frame {x0 : Nat} {x1 : Entry} {s t : State} (h : exec (.closeSession x0 x1) s = .next t) :
    t.mode = s.mode ∧ t.start = s.start ∧ t.writes = s.writes ∧ t.net = s.net ∧ t.solver = s.solver ∧ t.prof = s.prof ∧ t.ctl = s.ctl ∧ t.sched = s.sched ∧ t.dsp = s.dsp ∧ t.sep = s.sep ∧ t.safety = s.safety ∧ t.cham = s.cham ∧ t.field = s.field ∧ t.clocks = s.clocks ∧ t.power = s.power ∧ t.pair = s.pair ∧ t.hw = s.hw ∧ t.nor = s.nor := by
  have fr1 := @enterClosing_frame
  simp only [exec, execCloseSession, Host.Outcome.next.injEq] at h
  subst h
  refine ⟨command_mode _ _ _ _ _ _ _ ?_, command_start _ _ _ _ _ _ _ ?_, command_writes _ _ _ _ _ _ _ ?_, command_net _ _ _ _ _ _ _ ?_, command_solver _ _ _ _ _ _ _ ?_, command_prof _ _ _ _ _ _ _ ?_, command_ctl _ _ _ _ _ _ _ ?_, command_sched _ _ _ _ _ _ _ ?_, command_dsp _ _ _ _ _ _ _ ?_, command_sep _ _ _ _ _ _ _ ?_, command_safety _ _ _ _ _ _ _ ?_, command_cham _ _ _ _ _ _ _ ?_, command_field _ _ _ _ _ _ _ ?_, command_clocks _ _ _ _ _ _ _ ?_, command_power _ _ _ _ _ _ _ ?_, command_pair _ _ _ _ _ _ _ ?_, command_hw _ _ _ _ _ _ _ ?_, command_nor _ _ _ _ _ _ _ ?_⟩
  all_goals (intro e v s; simp [fr1])

theorem execNewEpoch_frame {x0 : Nat} {x1 : Entry} {s t : State} (h : exec (.newEpoch x0 x1) s = .next t) :
    t.mode = s.mode ∧ t.start = s.start ∧ t.writes = s.writes ∧ t.image = s.image ∧ t.net = s.net ∧ t.plan = s.plan ∧ t.solver = s.solver ∧ t.piste = s.piste ∧ t.prof = s.prof ∧ t.ctl = s.ctl ∧ t.sched = s.sched ∧ t.dsp = s.dsp ∧ t.sep = s.sep ∧ t.safety = s.safety ∧ t.cham = s.cham ∧ t.field = s.field ∧ t.clocks = s.clocks ∧ t.power = s.power ∧ t.pair = s.pair ∧ t.sec = s.sec ∧ t.hw = s.hw ∧ t.nor = s.nor := by
  have fr1 := @newEpoch_frame
  simp only [exec, execNewEpoch, Host.Outcome.next.injEq] at h
  subst h
  refine ⟨command_mode _ _ _ _ _ _ _ ?_, command_start _ _ _ _ _ _ _ ?_, command_writes _ _ _ _ _ _ _ ?_, command_image _ _ _ _ _ _ _ ?_, command_net _ _ _ _ _ _ _ ?_, command_plan _ _ _ _ _ _ _ ?_, command_solver _ _ _ _ _ _ _ ?_, command_piste _ _ _ _ _ _ _ ?_, command_prof _ _ _ _ _ _ _ ?_, command_ctl _ _ _ _ _ _ _ ?_, command_sched _ _ _ _ _ _ _ ?_, command_dsp _ _ _ _ _ _ _ ?_, command_sep _ _ _ _ _ _ _ ?_, command_safety _ _ _ _ _ _ _ ?_, command_cham _ _ _ _ _ _ _ ?_, command_field _ _ _ _ _ _ _ ?_, command_clocks _ _ _ _ _ _ _ ?_, command_power _ _ _ _ _ _ _ ?_, command_pair _ _ _ _ _ _ _ ?_, command_sec _ _ _ _ _ _ _ ?_, command_hw _ _ _ _ _ _ _ ?_, command_nor _ _ _ _ _ _ _ ?_⟩
  all_goals (intro e v s; simp [fr1])

theorem execChallenge_frame {x0 : Nat} {x1 : Entry} {s t : State} (h : exec (.challenge x0 x1) s = .next t) :
    t.mode = s.mode ∧ t.start = s.start ∧ t.writes = s.writes ∧ t.image = s.image ∧ t.net = s.net ∧ t.plan = s.plan ∧ t.solver = s.solver ∧ t.piste = s.piste ∧ t.prof = s.prof ∧ t.ctl = s.ctl ∧ t.sched = s.sched ∧ t.dsp = s.dsp ∧ t.sep = s.sep ∧ t.safety = s.safety ∧ t.cham = s.cham ∧ t.field = s.field ∧ t.clocks = s.clocks ∧ t.power = s.power ∧ t.pair = s.pair ∧ t.sec = s.sec ∧ t.hw = s.hw ∧ t.nor = s.nor := by
  have fr1 := @challenge_frame
  simp only [exec, execChallenge, Host.Outcome.next.injEq] at h
  subst h
  refine ⟨command_mode _ _ _ _ _ _ _ ?_, command_start _ _ _ _ _ _ _ ?_, command_writes _ _ _ _ _ _ _ ?_, command_image _ _ _ _ _ _ _ ?_, command_net _ _ _ _ _ _ _ ?_, command_plan _ _ _ _ _ _ _ ?_, command_solver _ _ _ _ _ _ _ ?_, command_piste _ _ _ _ _ _ _ ?_, command_prof _ _ _ _ _ _ _ ?_, command_ctl _ _ _ _ _ _ _ ?_, command_sched _ _ _ _ _ _ _ ?_, command_dsp _ _ _ _ _ _ _ ?_, command_sep _ _ _ _ _ _ _ ?_, command_safety _ _ _ _ _ _ _ ?_, command_cham _ _ _ _ _ _ _ ?_, command_field _ _ _ _ _ _ _ ?_, command_clocks _ _ _ _ _ _ _ ?_, command_power _ _ _ _ _ _ _ ?_, command_pair _ _ _ _ _ _ _ ?_, command_sec _ _ _ _ _ _ _ ?_, command_hw _ _ _ _ _ _ _ ?_, command_nor _ _ _ _ _ _ _ ?_⟩
  all_goals (intro e v s; simp [fr1])

theorem execUnlock_frame {x0 : Nat} {x1 : Entry} {s t : State} (h : exec (.unlock x0 x1) s = .next t) :
    t.mode = s.mode ∧ t.start = s.start ∧ t.writes = s.writes ∧ t.image = s.image ∧ t.net = s.net ∧ t.plan = s.plan ∧ t.solver = s.solver ∧ t.piste = s.piste ∧ t.prof = s.prof ∧ t.ctl = s.ctl ∧ t.sched = s.sched ∧ t.dsp = s.dsp ∧ t.sep = s.sep ∧ t.safety = s.safety ∧ t.cham = s.cham ∧ t.field = s.field ∧ t.clocks = s.clocks ∧ t.power = s.power ∧ t.pair = s.pair ∧ t.sec = s.sec ∧ t.hw = s.hw ∧ t.nor = s.nor := by
  have fr1 := @unlock_frame
  simp only [exec, execUnlock, Host.Outcome.next.injEq] at h
  subst h
  refine ⟨command_mode _ _ _ _ _ _ _ ?_, command_start _ _ _ _ _ _ _ ?_, command_writes _ _ _ _ _ _ _ ?_, command_image _ _ _ _ _ _ _ ?_, command_net _ _ _ _ _ _ _ ?_, command_plan _ _ _ _ _ _ _ ?_, command_solver _ _ _ _ _ _ _ ?_, command_piste _ _ _ _ _ _ _ ?_, command_prof _ _ _ _ _ _ _ ?_, command_ctl _ _ _ _ _ _ _ ?_, command_sched _ _ _ _ _ _ _ ?_, command_dsp _ _ _ _ _ _ _ ?_, command_sep _ _ _ _ _ _ _ ?_, command_safety _ _ _ _ _ _ _ ?_, command_cham _ _ _ _ _ _ _ ?_, command_field _ _ _ _ _ _ _ ?_, command_clocks _ _ _ _ _ _ _ ?_, command_power _ _ _ _ _ _ _ ?_, command_pair _ _ _ _ _ _ _ ?_, command_sec _ _ _ _ _ _ _ ?_, command_hw _ _ _ _ _ _ _ ?_, command_nor _ _ _ _ _ _ _ ?_⟩
  all_goals (intro e v s; simp [fr1])

theorem execCancel_frame {x0 : Nat} {x1 : Entry} {s t : State} (h : exec (.cancel x0 x1) s = .next t) :
    t.mode = s.mode ∧ t.start = s.start ∧ t.writes = s.writes ∧ t.net = s.net ∧ t.solver = s.solver ∧ t.prof = s.prof ∧ t.ctl = s.ctl ∧ t.sched = s.sched ∧ t.dsp = s.dsp ∧ t.sep = s.sep ∧ t.safety = s.safety ∧ t.cham = s.cham ∧ t.field = s.field ∧ t.clocks = s.clocks ∧ t.power = s.power ∧ t.pair = s.pair ∧ t.sec = s.sec ∧ t.hw = s.hw ∧ t.nor = s.nor := by
  have fr1 := @cancel_frame
  simp only [exec, execCancel, Host.Outcome.next.injEq] at h
  subst h
  refine ⟨command_mode _ _ _ _ _ _ _ ?_, command_start _ _ _ _ _ _ _ ?_, command_writes _ _ _ _ _ _ _ ?_, command_net _ _ _ _ _ _ _ ?_, command_solver _ _ _ _ _ _ _ ?_, command_prof _ _ _ _ _ _ _ ?_, command_ctl _ _ _ _ _ _ _ ?_, command_sched _ _ _ _ _ _ _ ?_, command_dsp _ _ _ _ _ _ _ ?_, command_sep _ _ _ _ _ _ _ ?_, command_safety _ _ _ _ _ _ _ ?_, command_cham _ _ _ _ _ _ _ ?_, command_field _ _ _ _ _ _ _ ?_, command_clocks _ _ _ _ _ _ _ ?_, command_power _ _ _ _ _ _ _ ?_, command_pair _ _ _ _ _ _ _ ?_, command_sec _ _ _ _ _ _ _ ?_, command_hw _ _ _ _ _ _ _ ?_, command_nor _ _ _ _ _ _ _ ?_⟩
  all_goals (intro e v s; simp [fr1])

theorem execGetStatus_frame {x0 : Nat} {x1 : Entry} {s t : State} (h : exec (.getStatus x0 x1) s = .next t) :
    t.mode = s.mode ∧ t.start = s.start ∧ t.writes = s.writes ∧ t.image = s.image ∧ t.net = s.net ∧ t.plan = s.plan ∧ t.solver = s.solver ∧ t.piste = s.piste ∧ t.prof = s.prof ∧ t.ctl = s.ctl ∧ t.sched = s.sched ∧ t.dsp = s.dsp ∧ t.sep = s.sep ∧ t.safety = s.safety ∧ t.cham = s.cham ∧ t.field = s.field ∧ t.clocks = s.clocks ∧ t.power = s.power ∧ t.pair = s.pair ∧ t.sec = s.sec ∧ t.hw = s.hw ∧ t.nor = s.nor := by
  have fr1 := @complete_frame
  simp only [exec, execGetStatus, Host.Outcome.next.injEq] at h
  subst h
  refine ⟨command_mode _ _ _ _ _ _ _ ?_, command_start _ _ _ _ _ _ _ ?_, command_writes _ _ _ _ _ _ _ ?_, command_image _ _ _ _ _ _ _ ?_, command_net _ _ _ _ _ _ _ ?_, command_plan _ _ _ _ _ _ _ ?_, command_solver _ _ _ _ _ _ _ ?_, command_piste _ _ _ _ _ _ _ ?_, command_prof _ _ _ _ _ _ _ ?_, command_ctl _ _ _ _ _ _ _ ?_, command_sched _ _ _ _ _ _ _ ?_, command_dsp _ _ _ _ _ _ _ ?_, command_sep _ _ _ _ _ _ _ ?_, command_safety _ _ _ _ _ _ _ ?_, command_cham _ _ _ _ _ _ _ ?_, command_field _ _ _ _ _ _ _ ?_, command_clocks _ _ _ _ _ _ _ ?_, command_power _ _ _ _ _ _ _ ?_, command_pair _ _ _ _ _ _ _ ?_, command_sec _ _ _ _ _ _ _ ?_, command_hw _ _ _ _ _ _ _ ?_, command_nor _ _ _ _ _ _ _ ?_⟩
  all_goals (intro e v s; simp [fr1])

theorem execReset_frame {x0 : Nat} {x1 : Entry} {s t : State} (h : exec (.reset x0 x1) s = .next t) :
    t.start = s.start ∧ t.writes = s.writes ∧ t.image = s.image ∧ t.net = s.net ∧ t.plan = s.plan ∧ t.solver = s.solver ∧ t.piste = s.piste ∧ t.prof = s.prof ∧ t.ctl = s.ctl ∧ t.sched = s.sched ∧ t.dsp = s.dsp ∧ t.sep = s.sep ∧ t.safety = s.safety ∧ t.cham = s.cham ∧ t.field = s.field ∧ t.clocks = s.clocks ∧ t.power = s.power ∧ t.pair = s.pair ∧ t.sec = s.sec ∧ t.hw = s.hw ∧ t.nor = s.nor := by
  have fr1 := @resetCommand_frame
  simp only [exec, execReset, Host.Outcome.next.injEq] at h
  subst h
  refine ⟨command_start _ _ _ _ _ _ _ ?_, command_writes _ _ _ _ _ _ _ ?_, command_image _ _ _ _ _ _ _ ?_, command_net _ _ _ _ _ _ _ ?_, command_plan _ _ _ _ _ _ _ ?_, command_solver _ _ _ _ _ _ _ ?_, command_piste _ _ _ _ _ _ _ ?_, command_prof _ _ _ _ _ _ _ ?_, command_ctl _ _ _ _ _ _ _ ?_, command_sched _ _ _ _ _ _ _ ?_, command_dsp _ _ _ _ _ _ _ ?_, command_sep _ _ _ _ _ _ _ ?_, command_safety _ _ _ _ _ _ _ ?_, command_cham _ _ _ _ _ _ _ ?_, command_field _ _ _ _ _ _ _ ?_, command_clocks _ _ _ _ _ _ _ ?_, command_power _ _ _ _ _ _ _ ?_, command_pair _ _ _ _ _ _ _ ?_, command_sec _ _ _ _ _ _ _ ?_, command_hw _ _ _ _ _ _ _ ?_, command_nor _ _ _ _ _ _ _ ?_⟩
  all_goals (intro e v s; simp [fr1])

theorem execSetMode_frame {x0 : Nat} {x1 : Entry} {s t : State} (h : exec (.setMode x0 x1) s = .next t) :
    t.writes = s.writes ∧ t.net = s.net ∧ t.plan = s.plan ∧ t.solver = s.solver ∧ t.prof = s.prof ∧ t.ctl = s.ctl ∧ t.sched = s.sched ∧ t.dsp = s.dsp ∧ t.sep = s.sep ∧ t.field = s.field ∧ t.clocks = s.clocks ∧ t.pair = s.pair ∧ t.sec = s.sec ∧ t.hw = s.hw ∧ t.nor = s.nor := by
  have fr1 := @setMode_frame
  simp only [exec, execSetMode, Host.Outcome.next.injEq] at h
  subst h
  refine ⟨command_writes _ _ _ _ _ _ _ ?_, command_net _ _ _ _ _ _ _ ?_, command_plan _ _ _ _ _ _ _ ?_, command_solver _ _ _ _ _ _ _ ?_, command_prof _ _ _ _ _ _ _ ?_, command_ctl _ _ _ _ _ _ _ ?_, command_sched _ _ _ _ _ _ _ ?_, command_dsp _ _ _ _ _ _ _ ?_, command_sep _ _ _ _ _ _ _ ?_, command_field _ _ _ _ _ _ _ ?_, command_clocks _ _ _ _ _ _ _ ?_, command_pair _ _ _ _ _ _ _ ?_, command_sec _ _ _ _ _ _ _ ?_, command_hw _ _ _ _ _ _ _ ?_, command_nor _ _ _ _ _ _ _ ?_⟩
  all_goals (intro e v s; simp [fr1])

theorem execObjRead_frame {x0 : Nat} {x1 : Entry} {s t : State} (h : exec (.objRead x0 x1) s = .next t) :
    t.mode = s.mode ∧ t.start = s.start ∧ t.writes = s.writes ∧ t.image = s.image ∧ t.plan = s.plan ∧ t.solver = s.solver ∧ t.piste = s.piste ∧ t.prof = s.prof ∧ t.ctl = s.ctl ∧ t.dsp = s.dsp ∧ t.sep = s.sep ∧ t.safety = s.safety ∧ t.cham = s.cham ∧ t.field = s.field ∧ t.clocks = s.clocks ∧ t.power = s.power ∧ t.pair = s.pair ∧ t.sec = s.sec ∧ t.hw = s.hw ∧ t.nor = s.nor := by
  have fr1 := @objRead_frame
  simp only [exec, execObjRead, Host.Outcome.next.injEq] at h
  subst h
  refine ⟨command_mode _ _ _ _ _ _ _ ?_, command_start _ _ _ _ _ _ _ ?_, command_writes _ _ _ _ _ _ _ ?_, command_image _ _ _ _ _ _ _ ?_, command_plan _ _ _ _ _ _ _ ?_, command_solver _ _ _ _ _ _ _ ?_, command_piste _ _ _ _ _ _ _ ?_, command_prof _ _ _ _ _ _ _ ?_, command_ctl _ _ _ _ _ _ _ ?_, command_dsp _ _ _ _ _ _ _ ?_, command_sep _ _ _ _ _ _ _ ?_, command_safety _ _ _ _ _ _ _ ?_, command_cham _ _ _ _ _ _ _ ?_, command_field _ _ _ _ _ _ _ ?_, command_clocks _ _ _ _ _ _ _ ?_, command_power _ _ _ _ _ _ _ ?_, command_pair _ _ _ _ _ _ _ ?_, command_sec _ _ _ _ _ _ _ ?_, command_hw _ _ _ _ _ _ _ ?_, command_nor _ _ _ _ _ _ _ ?_⟩
  all_goals (intro e v s; simp [fr1])

theorem execObjWrite_frame {x0 : Nat} {x1 : Entry} {s t : State} (h : exec (.objWrite x0 x1) s = .next t) :
    t.mode = s.mode ∧ t.start = s.start ∧ t.image = s.image ∧ t.net = s.net ∧ t.plan = s.plan ∧ t.solver = s.solver ∧ t.piste = s.piste ∧ t.prof = s.prof ∧ t.ctl = s.ctl ∧ t.sched = s.sched ∧ t.dsp = s.dsp ∧ t.sep = s.sep ∧ t.safety = s.safety ∧ t.cham = s.cham ∧ t.field = s.field ∧ t.clocks = s.clocks ∧ t.power = s.power ∧ t.pair = s.pair ∧ t.sec = s.sec ∧ t.hw = s.hw ∧ t.nor = s.nor := by
  have fr1 := @objWrite_frame
  simp only [exec, execObjWrite, Host.Outcome.next.injEq] at h
  subst h
  refine ⟨command_mode _ _ _ _ _ _ _ ?_, command_start _ _ _ _ _ _ _ ?_, command_image _ _ _ _ _ _ _ ?_, command_net _ _ _ _ _ _ _ ?_, command_plan _ _ _ _ _ _ _ ?_, command_solver _ _ _ _ _ _ _ ?_, command_piste _ _ _ _ _ _ _ ?_, command_prof _ _ _ _ _ _ _ ?_, command_ctl _ _ _ _ _ _ _ ?_, command_sched _ _ _ _ _ _ _ ?_, command_dsp _ _ _ _ _ _ _ ?_, command_sep _ _ _ _ _ _ _ ?_, command_safety _ _ _ _ _ _ _ ?_, command_cham _ _ _ _ _ _ _ ?_, command_field _ _ _ _ _ _ _ ?_, command_clocks _ _ _ _ _ _ _ ?_, command_power _ _ _ _ _ _ _ ?_, command_pair _ _ _ _ _ _ _ ?_, command_sec _ _ _ _ _ _ _ ?_, command_hw _ _ _ _ _ _ _ ?_, command_nor _ _ _ _ _ _ _ ?_⟩
  all_goals (intro e v s; simp [fr1])

theorem execImageBegin_frame {x0 : Nat} {x1 : Entry} {s t : State} (h : exec (.imageBegin x0 x1) s = .next t) :
    t.mode = s.mode ∧ t.start = s.start ∧ t.writes = s.writes ∧ t.net = s.net ∧ t.plan = s.plan ∧ t.solver = s.solver ∧ t.piste = s.piste ∧ t.prof = s.prof ∧ t.ctl = s.ctl ∧ t.sched = s.sched ∧ t.dsp = s.dsp ∧ t.sep = s.sep ∧ t.safety = s.safety ∧ t.cham = s.cham ∧ t.field = s.field ∧ t.clocks = s.clocks ∧ t.power = s.power ∧ t.pair = s.pair ∧ t.sec = s.sec ∧ t.hw = s.hw ∧ t.nor = s.nor := by
  have fr1 := @imageBegin_frame
  simp only [exec, execImageBegin, Host.Outcome.next.injEq] at h
  subst h
  refine ⟨command_mode _ _ _ _ _ _ _ ?_, command_start _ _ _ _ _ _ _ ?_, command_writes _ _ _ _ _ _ _ ?_, command_net _ _ _ _ _ _ _ ?_, command_plan _ _ _ _ _ _ _ ?_, command_solver _ _ _ _ _ _ _ ?_, command_piste _ _ _ _ _ _ _ ?_, command_prof _ _ _ _ _ _ _ ?_, command_ctl _ _ _ _ _ _ _ ?_, command_sched _ _ _ _ _ _ _ ?_, command_dsp _ _ _ _ _ _ _ ?_, command_sep _ _ _ _ _ _ _ ?_, command_safety _ _ _ _ _ _ _ ?_, command_cham _ _ _ _ _ _ _ ?_, command_field _ _ _ _ _ _ _ ?_, command_clocks _ _ _ _ _ _ _ ?_, command_power _ _ _ _ _ _ _ ?_, command_pair _ _ _ _ _ _ _ ?_, command_sec _ _ _ _ _ _ _ ?_, command_hw _ _ _ _ _ _ _ ?_, command_nor _ _ _ _ _ _ _ ?_⟩
  all_goals (intro e v s; simp [fr1])

theorem execImageData_frame {x0 : Nat} {x1 : Entry} {s t : State} (h : exec (.imageData x0 x1) s = .next t) :
    t.mode = s.mode ∧ t.start = s.start ∧ t.writes = s.writes ∧ t.net = s.net ∧ t.plan = s.plan ∧ t.solver = s.solver ∧ t.piste = s.piste ∧ t.prof = s.prof ∧ t.ctl = s.ctl ∧ t.sched = s.sched ∧ t.dsp = s.dsp ∧ t.sep = s.sep ∧ t.safety = s.safety ∧ t.cham = s.cham ∧ t.field = s.field ∧ t.clocks = s.clocks ∧ t.power = s.power ∧ t.pair = s.pair ∧ t.sec = s.sec ∧ t.hw = s.hw ∧ t.nor = s.nor := by
  have fr1 := @imageData_frame
  simp only [exec, execImageData, Host.Outcome.next.injEq] at h
  subst h
  refine ⟨command_mode _ _ _ _ _ _ _ ?_, command_start _ _ _ _ _ _ _ ?_, command_writes _ _ _ _ _ _ _ ?_, command_net _ _ _ _ _ _ _ ?_, command_plan _ _ _ _ _ _ _ ?_, command_solver _ _ _ _ _ _ _ ?_, command_piste _ _ _ _ _ _ _ ?_, command_prof _ _ _ _ _ _ _ ?_, command_ctl _ _ _ _ _ _ _ ?_, command_sched _ _ _ _ _ _ _ ?_, command_dsp _ _ _ _ _ _ _ ?_, command_sep _ _ _ _ _ _ _ ?_, command_safety _ _ _ _ _ _ _ ?_, command_cham _ _ _ _ _ _ _ ?_, command_field _ _ _ _ _ _ _ ?_, command_clocks _ _ _ _ _ _ _ ?_, command_power _ _ _ _ _ _ _ ?_, command_pair _ _ _ _ _ _ _ ?_, command_sec _ _ _ _ _ _ _ ?_, command_hw _ _ _ _ _ _ _ ?_, command_nor _ _ _ _ _ _ _ ?_⟩
  all_goals (intro e v s; simp [fr1])

theorem execImageCommit_frame {x0 : Nat} {x1 : Entry} {s t : State} (h : exec (.imageCommit x0 x1) s = .next t) :
    t.mode = s.mode ∧ t.start = s.start ∧ t.writes = s.writes ∧ t.net = s.net ∧ t.plan = s.plan ∧ t.solver = s.solver ∧ t.piste = s.piste ∧ t.prof = s.prof ∧ t.ctl = s.ctl ∧ t.sched = s.sched ∧ t.dsp = s.dsp ∧ t.sep = s.sep ∧ t.safety = s.safety ∧ t.cham = s.cham ∧ t.field = s.field ∧ t.clocks = s.clocks ∧ t.power = s.power ∧ t.pair = s.pair ∧ t.sec = s.sec ∧ t.hw = s.hw ∧ t.nor = s.nor := by
  have fr1 := @imageCommit_frame
  simp only [exec, execImageCommit, Host.Outcome.next.injEq] at h
  subst h
  refine ⟨command_mode _ _ _ _ _ _ _ ?_, command_start _ _ _ _ _ _ _ ?_, command_writes _ _ _ _ _ _ _ ?_, command_net _ _ _ _ _ _ _ ?_, command_plan _ _ _ _ _ _ _ ?_, command_solver _ _ _ _ _ _ _ ?_, command_piste _ _ _ _ _ _ _ ?_, command_prof _ _ _ _ _ _ _ ?_, command_ctl _ _ _ _ _ _ _ ?_, command_sched _ _ _ _ _ _ _ ?_, command_dsp _ _ _ _ _ _ _ ?_, command_sep _ _ _ _ _ _ _ ?_, command_safety _ _ _ _ _ _ _ ?_, command_cham _ _ _ _ _ _ _ ?_, command_field _ _ _ _ _ _ _ ?_, command_clocks _ _ _ _ _ _ _ ?_, command_power _ _ _ _ _ _ _ ?_, command_pair _ _ _ _ _ _ _ ?_, command_sec _ _ _ _ _ _ _ ?_, command_hw _ _ _ _ _ _ _ ?_, command_nor _ _ _ _ _ _ _ ?_⟩
  all_goals (intro e v s; simp [fr1])

theorem execImageAbort_frame {x0 : Nat} {x1 : Entry} {s t : State} (h : exec (.imageAbort x0 x1) s = .next t) :
    t.mode = s.mode ∧ t.start = s.start ∧ t.writes = s.writes ∧ t.net = s.net ∧ t.plan = s.plan ∧ t.solver = s.solver ∧ t.piste = s.piste ∧ t.prof = s.prof ∧ t.ctl = s.ctl ∧ t.sched = s.sched ∧ t.dsp = s.dsp ∧ t.sep = s.sep ∧ t.safety = s.safety ∧ t.cham = s.cham ∧ t.field = s.field ∧ t.clocks = s.clocks ∧ t.power = s.power ∧ t.pair = s.pair ∧ t.sec = s.sec ∧ t.hw = s.hw ∧ t.nor = s.nor := by
  have fr1 := @imageAbort_frame
  simp only [exec, execImageAbort, Host.Outcome.next.injEq] at h
  subst h
  refine ⟨command_mode _ _ _ _ _ _ _ ?_, command_start _ _ _ _ _ _ _ ?_, command_writes _ _ _ _ _ _ _ ?_, command_net _ _ _ _ _ _ _ ?_, command_plan _ _ _ _ _ _ _ ?_, command_solver _ _ _ _ _ _ _ ?_, command_piste _ _ _ _ _ _ _ ?_, command_prof _ _ _ _ _ _ _ ?_, command_ctl _ _ _ _ _ _ _ ?_, command_sched _ _ _ _ _ _ _ ?_, command_dsp _ _ _ _ _ _ _ ?_, command_sep _ _ _ _ _ _ _ ?_, command_safety _ _ _ _ _ _ _ ?_, command_cham _ _ _ _ _ _ _ ?_, command_field _ _ _ _ _ _ _ ?_, command_clocks _ _ _ _ _ _ _ ?_, command_power _ _ _ _ _ _ _ ?_, command_pair _ _ _ _ _ _ _ ?_, command_sec _ _ _ _ _ _ _ ?_, command_hw _ _ _ _ _ _ _ ?_, command_nor _ _ _ _ _ _ _ ?_⟩
  all_goals (intro e v s; simp [fr1])

theorem execMoveJoint_frame {x0 : Nat} {x1 : Entry} {s t : State} (h : exec (.moveJoint x0 x1) s = .next t) :
    t.mode = s.mode ∧ t.start = s.start ∧ t.writes = s.writes ∧ t.image = s.image ∧ t.net = s.net ∧ t.plan = s.plan ∧ t.solver = s.solver ∧ t.piste = s.piste ∧ t.ctl = s.ctl ∧ t.sched = s.sched ∧ t.dsp = s.dsp ∧ t.sep = s.sep ∧ t.safety = s.safety ∧ t.cham = s.cham ∧ t.field = s.field ∧ t.clocks = s.clocks ∧ t.power = s.power ∧ t.pair = s.pair ∧ t.sec = s.sec ∧ t.hw = s.hw ∧ t.nor = s.nor := by
  have fr1 := @moveJoint_frame
  simp only [exec, execMoveJoint, Host.Outcome.next.injEq] at h
  subst h
  refine ⟨command_mode _ _ _ _ _ _ _ ?_, command_start _ _ _ _ _ _ _ ?_, command_writes _ _ _ _ _ _ _ ?_, command_image _ _ _ _ _ _ _ ?_, command_net _ _ _ _ _ _ _ ?_, command_plan _ _ _ _ _ _ _ ?_, command_solver _ _ _ _ _ _ _ ?_, command_piste _ _ _ _ _ _ _ ?_, command_ctl _ _ _ _ _ _ _ ?_, command_sched _ _ _ _ _ _ _ ?_, command_dsp _ _ _ _ _ _ _ ?_, command_sep _ _ _ _ _ _ _ ?_, command_safety _ _ _ _ _ _ _ ?_, command_cham _ _ _ _ _ _ _ ?_, command_field _ _ _ _ _ _ _ ?_, command_clocks _ _ _ _ _ _ _ ?_, command_power _ _ _ _ _ _ _ ?_, command_pair _ _ _ _ _ _ _ ?_, command_sec _ _ _ _ _ _ _ ?_, command_hw _ _ _ _ _ _ _ ?_, command_nor _ _ _ _ _ _ _ ?_⟩
  all_goals (intro e v s; simp [fr1])

theorem execMoveLinear_frame {x0 : Nat} {x1 : Entry} {s t : State} (h : exec (.moveLinear x0 x1) s = .next t) :
    t.mode = s.mode ∧ t.start = s.start ∧ t.writes = s.writes ∧ t.image = s.image ∧ t.net = s.net ∧ t.plan = s.plan ∧ t.solver = s.solver ∧ t.piste = s.piste ∧ t.ctl = s.ctl ∧ t.sched = s.sched ∧ t.dsp = s.dsp ∧ t.sep = s.sep ∧ t.safety = s.safety ∧ t.cham = s.cham ∧ t.field = s.field ∧ t.clocks = s.clocks ∧ t.power = s.power ∧ t.pair = s.pair ∧ t.sec = s.sec ∧ t.hw = s.hw ∧ t.nor = s.nor := by
  have fr1 := @moveLinear_frame
  simp only [exec, execMoveLinear, Host.Outcome.next.injEq] at h
  subst h
  refine ⟨command_mode _ _ _ _ _ _ _ ?_, command_start _ _ _ _ _ _ _ ?_, command_writes _ _ _ _ _ _ _ ?_, command_image _ _ _ _ _ _ _ ?_, command_net _ _ _ _ _ _ _ ?_, command_plan _ _ _ _ _ _ _ ?_, command_solver _ _ _ _ _ _ _ ?_, command_piste _ _ _ _ _ _ _ ?_, command_ctl _ _ _ _ _ _ _ ?_, command_sched _ _ _ _ _ _ _ ?_, command_dsp _ _ _ _ _ _ _ ?_, command_sep _ _ _ _ _ _ _ ?_, command_safety _ _ _ _ _ _ _ ?_, command_cham _ _ _ _ _ _ _ ?_, command_field _ _ _ _ _ _ _ ?_, command_clocks _ _ _ _ _ _ _ ?_, command_power _ _ _ _ _ _ _ ?_, command_pair _ _ _ _ _ _ _ ?_, command_sec _ _ _ _ _ _ _ ?_, command_hw _ _ _ _ _ _ _ ?_, command_nor _ _ _ _ _ _ _ ?_⟩
  all_goals (intro e v s; simp [fr1])

theorem execMoveConveyor_frame {x0 : Nat} {x1 : Entry} {s t : State} (h : exec (.moveConveyor x0 x1) s = .next t) :
    t.mode = s.mode ∧ t.start = s.start ∧ t.writes = s.writes ∧ t.image = s.image ∧ t.net = s.net ∧ t.plan = s.plan ∧ t.solver = s.solver ∧ t.piste = s.piste ∧ t.ctl = s.ctl ∧ t.sched = s.sched ∧ t.dsp = s.dsp ∧ t.sep = s.sep ∧ t.safety = s.safety ∧ t.cham = s.cham ∧ t.field = s.field ∧ t.clocks = s.clocks ∧ t.power = s.power ∧ t.pair = s.pair ∧ t.sec = s.sec ∧ t.hw = s.hw ∧ t.nor = s.nor := by
  have fr1 := @moveConveyor_frame
  simp only [exec, execMoveConveyor, Host.Outcome.next.injEq] at h
  subst h
  refine ⟨command_mode _ _ _ _ _ _ _ ?_, command_start _ _ _ _ _ _ _ ?_, command_writes _ _ _ _ _ _ _ ?_, command_image _ _ _ _ _ _ _ ?_, command_net _ _ _ _ _ _ _ ?_, command_plan _ _ _ _ _ _ _ ?_, command_solver _ _ _ _ _ _ _ ?_, command_piste _ _ _ _ _ _ _ ?_, command_ctl _ _ _ _ _ _ _ ?_, command_sched _ _ _ _ _ _ _ ?_, command_dsp _ _ _ _ _ _ _ ?_, command_sep _ _ _ _ _ _ _ ?_, command_safety _ _ _ _ _ _ _ ?_, command_cham _ _ _ _ _ _ _ ?_, command_field _ _ _ _ _ _ _ ?_, command_clocks _ _ _ _ _ _ _ ?_, command_power _ _ _ _ _ _ _ ?_, command_pair _ _ _ _ _ _ _ ?_, command_sec _ _ _ _ _ _ _ ?_, command_hw _ _ _ _ _ _ _ ?_, command_nor _ _ _ _ _ _ _ ?_⟩
  all_goals (intro e v s; simp [fr1])

theorem execStopMove_frame {x0 : Nat} {x1 : Entry} {s t : State} (h : exec (.stopMove x0 x1) s = .next t) :
    t.mode = s.mode ∧ t.start = s.start ∧ t.writes = s.writes ∧ t.image = s.image ∧ t.net = s.net ∧ t.plan = s.plan ∧ t.solver = s.solver ∧ t.piste = s.piste ∧ t.ctl = s.ctl ∧ t.sched = s.sched ∧ t.dsp = s.dsp ∧ t.sep = s.sep ∧ t.safety = s.safety ∧ t.cham = s.cham ∧ t.field = s.field ∧ t.clocks = s.clocks ∧ t.power = s.power ∧ t.pair = s.pair ∧ t.sec = s.sec ∧ t.hw = s.hw ∧ t.nor = s.nor := by
  have fr1 := @stopMove_frame
  simp only [exec, execStopMove, Host.Outcome.next.injEq] at h
  subst h
  refine ⟨command_mode _ _ _ _ _ _ _ ?_, command_start _ _ _ _ _ _ _ ?_, command_writes _ _ _ _ _ _ _ ?_, command_image _ _ _ _ _ _ _ ?_, command_net _ _ _ _ _ _ _ ?_, command_plan _ _ _ _ _ _ _ ?_, command_solver _ _ _ _ _ _ _ ?_, command_piste _ _ _ _ _ _ _ ?_, command_ctl _ _ _ _ _ _ _ ?_, command_sched _ _ _ _ _ _ _ ?_, command_dsp _ _ _ _ _ _ _ ?_, command_sep _ _ _ _ _ _ _ ?_, command_safety _ _ _ _ _ _ _ ?_, command_cham _ _ _ _ _ _ _ ?_, command_field _ _ _ _ _ _ _ ?_, command_clocks _ _ _ _ _ _ _ ?_, command_power _ _ _ _ _ _ _ ?_, command_pair _ _ _ _ _ _ _ ?_, command_sec _ _ _ _ _ _ _ ?_, command_hw _ _ _ _ _ _ _ ?_, command_nor _ _ _ _ _ _ _ ?_⟩
  all_goals (intro e v s; simp [fr1])

theorem execJog_frame {x0 : Nat} {x1 : Entry} {s t : State} (h : exec (.jog x0 x1) s = .next t) :
    t.mode = s.mode ∧ t.start = s.start ∧ t.writes = s.writes ∧ t.image = s.image ∧ t.net = s.net ∧ t.plan = s.plan ∧ t.solver = s.solver ∧ t.piste = s.piste ∧ t.ctl = s.ctl ∧ t.sched = s.sched ∧ t.dsp = s.dsp ∧ t.sep = s.sep ∧ t.safety = s.safety ∧ t.cham = s.cham ∧ t.field = s.field ∧ t.clocks = s.clocks ∧ t.power = s.power ∧ t.pair = s.pair ∧ t.sec = s.sec ∧ t.hw = s.hw ∧ t.nor = s.nor := by
  have fr1 := @jog_frame
  simp only [exec, execJog, Host.Outcome.next.injEq] at h
  subst h
  refine ⟨command_mode _ _ _ _ _ _ _ ?_, command_start _ _ _ _ _ _ _ ?_, command_writes _ _ _ _ _ _ _ ?_, command_image _ _ _ _ _ _ _ ?_, command_net _ _ _ _ _ _ _ ?_, command_plan _ _ _ _ _ _ _ ?_, command_solver _ _ _ _ _ _ _ ?_, command_piste _ _ _ _ _ _ _ ?_, command_ctl _ _ _ _ _ _ _ ?_, command_sched _ _ _ _ _ _ _ ?_, command_dsp _ _ _ _ _ _ _ ?_, command_sep _ _ _ _ _ _ _ ?_, command_safety _ _ _ _ _ _ _ ?_, command_cham _ _ _ _ _ _ _ ?_, command_field _ _ _ _ _ _ _ ?_, command_clocks _ _ _ _ _ _ _ ?_, command_power _ _ _ _ _ _ _ ?_, command_pair _ _ _ _ _ _ _ ?_, command_sec _ _ _ _ _ _ _ ?_, command_hw _ _ _ _ _ _ _ ?_, command_nor _ _ _ _ _ _ _ ?_⟩
  all_goals (intro e v s; simp [fr1])

theorem execTeach_frame {x0 : Nat} {x1 : Entry} {s t : State} (h : exec (.teach x0 x1) s = .next t) :
    t.mode = s.mode ∧ t.start = s.start ∧ t.writes = s.writes ∧ t.image = s.image ∧ t.net = s.net ∧ t.plan = s.plan ∧ t.solver = s.solver ∧ t.piste = s.piste ∧ t.ctl = s.ctl ∧ t.sched = s.sched ∧ t.dsp = s.dsp ∧ t.sep = s.sep ∧ t.safety = s.safety ∧ t.cham = s.cham ∧ t.field = s.field ∧ t.clocks = s.clocks ∧ t.power = s.power ∧ t.pair = s.pair ∧ t.sec = s.sec ∧ t.hw = s.hw ∧ t.nor = s.nor := by
  have fr1 := @teach_frame
  simp only [exec, execTeach, Host.Outcome.next.injEq] at h
  subst h
  refine ⟨command_mode _ _ _ _ _ _ _ ?_, command_start _ _ _ _ _ _ _ ?_, command_writes _ _ _ _ _ _ _ ?_, command_image _ _ _ _ _ _ _ ?_, command_net _ _ _ _ _ _ _ ?_, command_plan _ _ _ _ _ _ _ ?_, command_solver _ _ _ _ _ _ _ ?_, command_piste _ _ _ _ _ _ _ ?_, command_ctl _ _ _ _ _ _ _ ?_, command_sched _ _ _ _ _ _ _ ?_, command_dsp _ _ _ _ _ _ _ ?_, command_sep _ _ _ _ _ _ _ ?_, command_safety _ _ _ _ _ _ _ ?_, command_cham _ _ _ _ _ _ _ ?_, command_field _ _ _ _ _ _ _ ?_, command_clocks _ _ _ _ _ _ _ ?_, command_power _ _ _ _ _ _ _ ?_, command_pair _ _ _ _ _ _ _ ?_, command_sec _ _ _ _ _ _ _ ?_, command_hw _ _ _ _ _ _ _ ?_, command_nor _ _ _ _ _ _ _ ?_⟩
  all_goals (intro e v s; simp [fr1])

theorem execPathRequest_frame {x0 : Nat} {x1 : Entry} {s t : State} (h : exec (.pathRequest x0 x1) s = .next t) :
    t.mode = s.mode ∧ t.start = s.start ∧ t.writes = s.writes ∧ t.image = s.image ∧ t.net = s.net ∧ t.solver = s.solver ∧ t.piste = s.piste ∧ t.prof = s.prof ∧ t.ctl = s.ctl ∧ t.sched = s.sched ∧ t.dsp = s.dsp ∧ t.sep = s.sep ∧ t.safety = s.safety ∧ t.cham = s.cham ∧ t.field = s.field ∧ t.clocks = s.clocks ∧ t.power = s.power ∧ t.pair = s.pair ∧ t.sec = s.sec ∧ t.hw = s.hw ∧ t.nor = s.nor := by
  have fr1 := @pathRequest_frame
  simp only [exec, execPathRequest, Host.Outcome.next.injEq] at h
  subst h
  refine ⟨command_mode _ _ _ _ _ _ _ ?_, command_start _ _ _ _ _ _ _ ?_, command_writes _ _ _ _ _ _ _ ?_, command_image _ _ _ _ _ _ _ ?_, command_net _ _ _ _ _ _ _ ?_, command_solver _ _ _ _ _ _ _ ?_, command_piste _ _ _ _ _ _ _ ?_, command_prof _ _ _ _ _ _ _ ?_, command_ctl _ _ _ _ _ _ _ ?_, command_sched _ _ _ _ _ _ _ ?_, command_dsp _ _ _ _ _ _ _ ?_, command_sep _ _ _ _ _ _ _ ?_, command_safety _ _ _ _ _ _ _ ?_, command_cham _ _ _ _ _ _ _ ?_, command_field _ _ _ _ _ _ _ ?_, command_clocks _ _ _ _ _ _ _ ?_, command_power _ _ _ _ _ _ _ ?_, command_pair _ _ _ _ _ _ _ ?_, command_sec _ _ _ _ _ _ _ ?_, command_hw _ _ _ _ _ _ _ ?_, command_nor _ _ _ _ _ _ _ ?_⟩
  all_goals (intro e v s; simp [fr1])

theorem execZoneRequest_frame {x0 : Nat} {x1 : Entry} {s t : State} (h : exec (.zoneRequest x0 x1) s = .next t) :
    t.mode = s.mode ∧ t.start = s.start ∧ t.writes = s.writes ∧ t.image = s.image ∧ t.net = s.net ∧ t.plan = s.plan ∧ t.solver = s.solver ∧ t.prof = s.prof ∧ t.ctl = s.ctl ∧ t.sched = s.sched ∧ t.dsp = s.dsp ∧ t.sep = s.sep ∧ t.safety = s.safety ∧ t.cham = s.cham ∧ t.field = s.field ∧ t.clocks = s.clocks ∧ t.power = s.power ∧ t.pair = s.pair ∧ t.sec = s.sec ∧ t.hw = s.hw ∧ t.nor = s.nor := by
  have fr1 := @zoneRequest_frame
  simp only [exec, execZoneRequest, Host.Outcome.next.injEq] at h
  subst h
  refine ⟨command_mode _ _ _ _ _ _ _ ?_, command_start _ _ _ _ _ _ _ ?_, command_writes _ _ _ _ _ _ _ ?_, command_image _ _ _ _ _ _ _ ?_, command_net _ _ _ _ _ _ _ ?_, command_plan _ _ _ _ _ _ _ ?_, command_solver _ _ _ _ _ _ _ ?_, command_prof _ _ _ _ _ _ _ ?_, command_ctl _ _ _ _ _ _ _ ?_, command_sched _ _ _ _ _ _ _ ?_, command_dsp _ _ _ _ _ _ _ ?_, command_sep _ _ _ _ _ _ _ ?_, command_safety _ _ _ _ _ _ _ ?_, command_cham _ _ _ _ _ _ _ ?_, command_field _ _ _ _ _ _ _ ?_, command_clocks _ _ _ _ _ _ _ ?_, command_power _ _ _ _ _ _ _ ?_, command_pair _ _ _ _ _ _ _ ?_, command_sec _ _ _ _ _ _ _ ?_, command_hw _ _ _ _ _ _ _ ?_, command_nor _ _ _ _ _ _ _ ?_⟩
  all_goals (intro e v s; simp [fr1])

theorem execZoneExtend_frame {x0 : Nat} {x1 : Entry} {s t : State} (h : exec (.zoneExtend x0 x1) s = .next t) :
    t.mode = s.mode ∧ t.start = s.start ∧ t.writes = s.writes ∧ t.image = s.image ∧ t.net = s.net ∧ t.plan = s.plan ∧ t.solver = s.solver ∧ t.prof = s.prof ∧ t.ctl = s.ctl ∧ t.sched = s.sched ∧ t.dsp = s.dsp ∧ t.sep = s.sep ∧ t.safety = s.safety ∧ t.cham = s.cham ∧ t.field = s.field ∧ t.clocks = s.clocks ∧ t.power = s.power ∧ t.pair = s.pair ∧ t.sec = s.sec ∧ t.hw = s.hw ∧ t.nor = s.nor := by
  have fr1 := @zoneExtend_frame
  simp only [exec, execZoneExtend, Host.Outcome.next.injEq] at h
  subst h
  refine ⟨command_mode _ _ _ _ _ _ _ ?_, command_start _ _ _ _ _ _ _ ?_, command_writes _ _ _ _ _ _ _ ?_, command_image _ _ _ _ _ _ _ ?_, command_net _ _ _ _ _ _ _ ?_, command_plan _ _ _ _ _ _ _ ?_, command_solver _ _ _ _ _ _ _ ?_, command_prof _ _ _ _ _ _ _ ?_, command_ctl _ _ _ _ _ _ _ ?_, command_sched _ _ _ _ _ _ _ ?_, command_dsp _ _ _ _ _ _ _ ?_, command_sep _ _ _ _ _ _ _ ?_, command_safety _ _ _ _ _ _ _ ?_, command_cham _ _ _ _ _ _ _ ?_, command_field _ _ _ _ _ _ _ ?_, command_clocks _ _ _ _ _ _ _ ?_, command_power _ _ _ _ _ _ _ ?_, command_pair _ _ _ _ _ _ _ ?_, command_sec _ _ _ _ _ _ _ ?_, command_hw _ _ _ _ _ _ _ ?_, command_nor _ _ _ _ _ _ _ ?_⟩
  all_goals (intro e v s; simp [fr1])

theorem execZoneRelease_frame {x0 : Nat} {x1 : Entry} {s t : State} (h : exec (.zoneRelease x0 x1) s = .next t) :
    t.mode = s.mode ∧ t.start = s.start ∧ t.writes = s.writes ∧ t.image = s.image ∧ t.net = s.net ∧ t.plan = s.plan ∧ t.solver = s.solver ∧ t.prof = s.prof ∧ t.ctl = s.ctl ∧ t.sched = s.sched ∧ t.dsp = s.dsp ∧ t.sep = s.sep ∧ t.safety = s.safety ∧ t.cham = s.cham ∧ t.field = s.field ∧ t.clocks = s.clocks ∧ t.power = s.power ∧ t.pair = s.pair ∧ t.sec = s.sec ∧ t.hw = s.hw ∧ t.nor = s.nor := by
  have fr1 := @zoneRelease_frame
  simp only [exec, execZoneRelease, Host.Outcome.next.injEq] at h
  subst h
  refine ⟨command_mode _ _ _ _ _ _ _ ?_, command_start _ _ _ _ _ _ _ ?_, command_writes _ _ _ _ _ _ _ ?_, command_image _ _ _ _ _ _ _ ?_, command_net _ _ _ _ _ _ _ ?_, command_plan _ _ _ _ _ _ _ ?_, command_solver _ _ _ _ _ _ _ ?_, command_prof _ _ _ _ _ _ _ ?_, command_ctl _ _ _ _ _ _ _ ?_, command_sched _ _ _ _ _ _ _ ?_, command_dsp _ _ _ _ _ _ _ ?_, command_sep _ _ _ _ _ _ _ ?_, command_safety _ _ _ _ _ _ _ ?_, command_cham _ _ _ _ _ _ _ ?_, command_field _ _ _ _ _ _ _ ?_, command_clocks _ _ _ _ _ _ _ ?_, command_power _ _ _ _ _ _ _ ?_, command_pair _ _ _ _ _ _ _ ?_, command_sec _ _ _ _ _ _ _ ?_, command_hw _ _ _ _ _ _ _ ?_, command_nor _ _ _ _ _ _ _ ?_⟩
  all_goals (intro e v s; simp [fr1])

theorem execAcqArm_frame {x0 : Nat} {x1 : Entry} {s t : State} (h : exec (.acqArm x0 x1) s = .next t) :
    t.mode = s.mode ∧ t.start = s.start ∧ t.writes = s.writes ∧ t.image = s.image ∧ t.net = s.net ∧ t.plan = s.plan ∧ t.solver = s.solver ∧ t.piste = s.piste ∧ t.prof = s.prof ∧ t.ctl = s.ctl ∧ t.sched = s.sched ∧ t.dsp = s.dsp ∧ t.sep = s.sep ∧ t.safety = s.safety ∧ t.cham = s.cham ∧ t.field = s.field ∧ t.clocks = s.clocks ∧ t.power = s.power ∧ t.pair = s.pair ∧ t.sec = s.sec ∧ t.hw = s.hw ∧ t.nor = s.nor := by
  have fr1 := @acqArm_frame
  simp only [exec, execAcqArm, Host.Outcome.next.injEq] at h
  subst h
  refine ⟨command_mode _ _ _ _ _ _ _ ?_, command_start _ _ _ _ _ _ _ ?_, command_writes _ _ _ _ _ _ _ ?_, command_image _ _ _ _ _ _ _ ?_, command_net _ _ _ _ _ _ _ ?_, command_plan _ _ _ _ _ _ _ ?_, command_solver _ _ _ _ _ _ _ ?_, command_piste _ _ _ _ _ _ _ ?_, command_prof _ _ _ _ _ _ _ ?_, command_ctl _ _ _ _ _ _ _ ?_, command_sched _ _ _ _ _ _ _ ?_, command_dsp _ _ _ _ _ _ _ ?_, command_sep _ _ _ _ _ _ _ ?_, command_safety _ _ _ _ _ _ _ ?_, command_cham _ _ _ _ _ _ _ ?_, command_field _ _ _ _ _ _ _ ?_, command_clocks _ _ _ _ _ _ _ ?_, command_power _ _ _ _ _ _ _ ?_, command_pair _ _ _ _ _ _ _ ?_, command_sec _ _ _ _ _ _ _ ?_, command_hw _ _ _ _ _ _ _ ?_, command_nor _ _ _ _ _ _ _ ?_⟩
  all_goals (intro e v s; simp [fr1])

theorem execAcqRead_frame {x0 : Nat} {x1 : Entry} {s t : State} (h : exec (.acqRead x0 x1) s = .next t) :
    t.mode = s.mode ∧ t.start = s.start ∧ t.writes = s.writes ∧ t.image = s.image ∧ t.net = s.net ∧ t.plan = s.plan ∧ t.solver = s.solver ∧ t.piste = s.piste ∧ t.prof = s.prof ∧ t.ctl = s.ctl ∧ t.sched = s.sched ∧ t.dsp = s.dsp ∧ t.sep = s.sep ∧ t.safety = s.safety ∧ t.cham = s.cham ∧ t.field = s.field ∧ t.clocks = s.clocks ∧ t.power = s.power ∧ t.pair = s.pair ∧ t.sec = s.sec ∧ t.hw = s.hw ∧ t.nor = s.nor := by
  have fr1 := @acqRead_frame
  simp only [exec, execAcqRead, Host.Outcome.next.injEq] at h
  subst h
  refine ⟨command_mode _ _ _ _ _ _ _ ?_, command_start _ _ _ _ _ _ _ ?_, command_writes _ _ _ _ _ _ _ ?_, command_image _ _ _ _ _ _ _ ?_, command_net _ _ _ _ _ _ _ ?_, command_plan _ _ _ _ _ _ _ ?_, command_solver _ _ _ _ _ _ _ ?_, command_piste _ _ _ _ _ _ _ ?_, command_prof _ _ _ _ _ _ _ ?_, command_ctl _ _ _ _ _ _ _ ?_, command_sched _ _ _ _ _ _ _ ?_, command_dsp _ _ _ _ _ _ _ ?_, command_sep _ _ _ _ _ _ _ ?_, command_safety _ _ _ _ _ _ _ ?_, command_cham _ _ _ _ _ _ _ ?_, command_field _ _ _ _ _ _ _ ?_, command_clocks _ _ _ _ _ _ _ ?_, command_power _ _ _ _ _ _ _ ?_, command_pair _ _ _ _ _ _ _ ?_, command_sec _ _ _ _ _ _ _ ?_, command_hw _ _ _ _ _ _ _ ?_, command_nor _ _ _ _ _ _ _ ?_⟩
  all_goals (intro e v s; simp [fr1])

theorem execLogRead_frame {x0 : Nat} {x1 : Entry} {s t : State} (h : exec (.logRead x0 x1) s = .next t) :
    t.mode = s.mode ∧ t.start = s.start ∧ t.writes = s.writes ∧ t.image = s.image ∧ t.net = s.net ∧ t.plan = s.plan ∧ t.solver = s.solver ∧ t.piste = s.piste ∧ t.prof = s.prof ∧ t.ctl = s.ctl ∧ t.sched = s.sched ∧ t.dsp = s.dsp ∧ t.sep = s.sep ∧ t.safety = s.safety ∧ t.cham = s.cham ∧ t.field = s.field ∧ t.clocks = s.clocks ∧ t.power = s.power ∧ t.pair = s.pair ∧ t.sec = s.sec ∧ t.hw = s.hw ∧ t.nor = s.nor := by
  have fr1 := @logRead_frame
  simp only [exec, execLogRead, Host.Outcome.next.injEq] at h
  subst h
  refine ⟨command_mode _ _ _ _ _ _ _ ?_, command_start _ _ _ _ _ _ _ ?_, command_writes _ _ _ _ _ _ _ ?_, command_image _ _ _ _ _ _ _ ?_, command_net _ _ _ _ _ _ _ ?_, command_plan _ _ _ _ _ _ _ ?_, command_solver _ _ _ _ _ _ _ ?_, command_piste _ _ _ _ _ _ _ ?_, command_prof _ _ _ _ _ _ _ ?_, command_ctl _ _ _ _ _ _ _ ?_, command_sched _ _ _ _ _ _ _ ?_, command_dsp _ _ _ _ _ _ _ ?_, command_sep _ _ _ _ _ _ _ ?_, command_safety _ _ _ _ _ _ _ ?_, command_cham _ _ _ _ _ _ _ ?_, command_field _ _ _ _ _ _ _ ?_, command_clocks _ _ _ _ _ _ _ ?_, command_power _ _ _ _ _ _ _ ?_, command_pair _ _ _ _ _ _ _ ?_, command_sec _ _ _ _ _ _ _ ?_, command_hw _ _ _ _ _ _ _ ?_, command_nor _ _ _ _ _ _ _ ?_⟩
  all_goals (intro e v s; simp [fr1])

theorem execAttest_frame {x0 : Nat} {x1 : Entry} {x2 : Bool} {s t : State} (h : exec (.attest x0 x1 x2) s = .next t) :
    t.mode = s.mode ∧ t.start = s.start ∧ t.writes = s.writes ∧ t.image = s.image ∧ t.net = s.net ∧ t.plan = s.plan ∧ t.solver = s.solver ∧ t.piste = s.piste ∧ t.prof = s.prof ∧ t.ctl = s.ctl ∧ t.sched = s.sched ∧ t.dsp = s.dsp ∧ t.sep = s.sep ∧ t.safety = s.safety ∧ t.cham = s.cham ∧ t.field = s.field ∧ t.clocks = s.clocks ∧ t.power = s.power ∧ t.pair = s.pair ∧ t.hw = s.hw ∧ t.nor = s.nor := by
  have fr1 := @attest_frame
  simp only [exec, execAttest, Host.Outcome.next.injEq] at h
  subst h
  refine ⟨command_mode _ _ _ _ _ _ _ ?_, command_start _ _ _ _ _ _ _ ?_, command_writes _ _ _ _ _ _ _ ?_, command_image _ _ _ _ _ _ _ ?_, command_net _ _ _ _ _ _ _ ?_, command_plan _ _ _ _ _ _ _ ?_, command_solver _ _ _ _ _ _ _ ?_, command_piste _ _ _ _ _ _ _ ?_, command_prof _ _ _ _ _ _ _ ?_, command_ctl _ _ _ _ _ _ _ ?_, command_sched _ _ _ _ _ _ _ ?_, command_dsp _ _ _ _ _ _ _ ?_, command_sep _ _ _ _ _ _ _ ?_, command_safety _ _ _ _ _ _ _ ?_, command_cham _ _ _ _ _ _ _ ?_, command_field _ _ _ _ _ _ _ ?_, command_clocks _ _ _ _ _ _ _ ?_, command_power _ _ _ _ _ _ _ ?_, command_pair _ _ _ _ _ _ _ ?_, command_hw _ _ _ _ _ _ _ ?_, command_nor _ _ _ _ _ _ _ ?_⟩
  all_goals (intro e v s; simp [fr1])

theorem execKeyEnrol_frame {x0 : Nat} {x1 : Entry} {s t : State} (h : exec (.keyEnrol x0 x1) s = .next t) :
    t.mode = s.mode ∧ t.start = s.start ∧ t.writes = s.writes ∧ t.image = s.image ∧ t.net = s.net ∧ t.plan = s.plan ∧ t.solver = s.solver ∧ t.piste = s.piste ∧ t.prof = s.prof ∧ t.ctl = s.ctl ∧ t.sched = s.sched ∧ t.dsp = s.dsp ∧ t.sep = s.sep ∧ t.safety = s.safety ∧ t.cham = s.cham ∧ t.field = s.field ∧ t.clocks = s.clocks ∧ t.power = s.power ∧ t.pair = s.pair ∧ t.hw = s.hw ∧ t.nor = s.nor := by
  have fr1 := @keyEnrol_frame
  simp only [exec, execKeyEnrol, Host.Outcome.next.injEq] at h
  subst h
  refine ⟨command_mode _ _ _ _ _ _ _ ?_, command_start _ _ _ _ _ _ _ ?_, command_writes _ _ _ _ _ _ _ ?_, command_image _ _ _ _ _ _ _ ?_, command_net _ _ _ _ _ _ _ ?_, command_plan _ _ _ _ _ _ _ ?_, command_solver _ _ _ _ _ _ _ ?_, command_piste _ _ _ _ _ _ _ ?_, command_prof _ _ _ _ _ _ _ ?_, command_ctl _ _ _ _ _ _ _ ?_, command_sched _ _ _ _ _ _ _ ?_, command_dsp _ _ _ _ _ _ _ ?_, command_sep _ _ _ _ _ _ _ ?_, command_safety _ _ _ _ _ _ _ ?_, command_cham _ _ _ _ _ _ _ ?_, command_field _ _ _ _ _ _ _ ?_, command_clocks _ _ _ _ _ _ _ ?_, command_power _ _ _ _ _ _ _ ?_, command_pair _ _ _ _ _ _ _ ?_, command_hw _ _ _ _ _ _ _ ?_, command_nor _ _ _ _ _ _ _ ?_⟩
  all_goals (intro e v s; simp [fr1])

theorem execLoaderInfo_frame {x0 : Nat} {x1 : Entry} {s t : State} (h : exec (.loaderInfo x0 x1) s = .next t) :
    t.mode = s.mode ∧ t.start = s.start ∧ t.writes = s.writes ∧ t.image = s.image ∧ t.net = s.net ∧ t.plan = s.plan ∧ t.solver = s.solver ∧ t.piste = s.piste ∧ t.prof = s.prof ∧ t.ctl = s.ctl ∧ t.sched = s.sched ∧ t.dsp = s.dsp ∧ t.sep = s.sep ∧ t.safety = s.safety ∧ t.cham = s.cham ∧ t.field = s.field ∧ t.clocks = s.clocks ∧ t.power = s.power ∧ t.pair = s.pair ∧ t.sec = s.sec ∧ t.hw = s.hw ∧ t.nor = s.nor := by
  have fr1 := @complete_frame
  simp only [exec, execLoaderInfo, Host.Outcome.next.injEq] at h
  subst h
  refine ⟨command_mode _ _ _ _ _ _ _ ?_, command_start _ _ _ _ _ _ _ ?_, command_writes _ _ _ _ _ _ _ ?_, command_image _ _ _ _ _ _ _ ?_, command_net _ _ _ _ _ _ _ ?_, command_plan _ _ _ _ _ _ _ ?_, command_solver _ _ _ _ _ _ _ ?_, command_piste _ _ _ _ _ _ _ ?_, command_prof _ _ _ _ _ _ _ ?_, command_ctl _ _ _ _ _ _ _ ?_, command_sched _ _ _ _ _ _ _ ?_, command_dsp _ _ _ _ _ _ _ ?_, command_sep _ _ _ _ _ _ _ ?_, command_safety _ _ _ _ _ _ _ ?_, command_cham _ _ _ _ _ _ _ ?_, command_field _ _ _ _ _ _ _ ?_, command_clocks _ _ _ _ _ _ _ ?_, command_power _ _ _ _ _ _ _ ?_, command_pair _ _ _ _ _ _ _ ?_, command_sec _ _ _ _ _ _ _ ?_, command_hw _ _ _ _ _ _ _ ?_, command_nor _ _ _ _ _ _ _ ?_⟩
  all_goals (intro e v s; simp [fr1])

theorem execLoaderReadRecord_frame {x0 : Nat} {x1 : Entry} {s t : State} (h : exec (.loaderReadRecord x0 x1) s = .next t) :
    t.mode = s.mode ∧ t.start = s.start ∧ t.writes = s.writes ∧ t.image = s.image ∧ t.net = s.net ∧ t.plan = s.plan ∧ t.solver = s.solver ∧ t.piste = s.piste ∧ t.prof = s.prof ∧ t.ctl = s.ctl ∧ t.sched = s.sched ∧ t.dsp = s.dsp ∧ t.sep = s.sep ∧ t.safety = s.safety ∧ t.cham = s.cham ∧ t.field = s.field ∧ t.clocks = s.clocks ∧ t.power = s.power ∧ t.pair = s.pair ∧ t.sec = s.sec ∧ t.hw = s.hw ∧ t.nor = s.nor := by
  have fr1 := @answer_frame
  simp only [exec, execLoaderReadRecord, Host.Outcome.next.injEq] at h
  subst h
  refine ⟨command_mode _ _ _ _ _ _ _ ?_, command_start _ _ _ _ _ _ _ ?_, command_writes _ _ _ _ _ _ _ ?_, command_image _ _ _ _ _ _ _ ?_, command_net _ _ _ _ _ _ _ ?_, command_plan _ _ _ _ _ _ _ ?_, command_solver _ _ _ _ _ _ _ ?_, command_piste _ _ _ _ _ _ _ ?_, command_prof _ _ _ _ _ _ _ ?_, command_ctl _ _ _ _ _ _ _ ?_, command_sched _ _ _ _ _ _ _ ?_, command_dsp _ _ _ _ _ _ _ ?_, command_sep _ _ _ _ _ _ _ ?_, command_safety _ _ _ _ _ _ _ ?_, command_cham _ _ _ _ _ _ _ ?_, command_field _ _ _ _ _ _ _ ?_, command_clocks _ _ _ _ _ _ _ ?_, command_power _ _ _ _ _ _ _ ?_, command_pair _ _ _ _ _ _ _ ?_, command_sec _ _ _ _ _ _ _ ?_, command_hw _ _ _ _ _ _ _ ?_, command_nor _ _ _ _ _ _ _ ?_⟩
  all_goals (intro e v s; simp [fr1])

theorem execLoaderWriteSlot_frame {x0 : Nat} {x1 : Entry} {s t : State} (h : exec (.loaderWriteSlot x0 x1) s = .next t) :
    t.mode = s.mode ∧ t.start = s.start ∧ t.writes = s.writes ∧ t.image = s.image ∧ t.net = s.net ∧ t.plan = s.plan ∧ t.solver = s.solver ∧ t.piste = s.piste ∧ t.prof = s.prof ∧ t.ctl = s.ctl ∧ t.sched = s.sched ∧ t.dsp = s.dsp ∧ t.sep = s.sep ∧ t.safety = s.safety ∧ t.cham = s.cham ∧ t.field = s.field ∧ t.clocks = s.clocks ∧ t.power = s.power ∧ t.pair = s.pair ∧ t.hw = s.hw ∧ t.nor = s.nor := by
  have fr1 := @loaderWriteSlot_frame
  simp only [exec, execLoaderWriteSlot, Host.Outcome.next.injEq] at h
  subst h
  refine ⟨command_mode _ _ _ _ _ _ _ ?_, command_start _ _ _ _ _ _ _ ?_, command_writes _ _ _ _ _ _ _ ?_, command_image _ _ _ _ _ _ _ ?_, command_net _ _ _ _ _ _ _ ?_, command_plan _ _ _ _ _ _ _ ?_, command_solver _ _ _ _ _ _ _ ?_, command_piste _ _ _ _ _ _ _ ?_, command_prof _ _ _ _ _ _ _ ?_, command_ctl _ _ _ _ _ _ _ ?_, command_sched _ _ _ _ _ _ _ ?_, command_dsp _ _ _ _ _ _ _ ?_, command_sep _ _ _ _ _ _ _ ?_, command_safety _ _ _ _ _ _ _ ?_, command_cham _ _ _ _ _ _ _ ?_, command_field _ _ _ _ _ _ _ ?_, command_clocks _ _ _ _ _ _ _ ?_, command_power _ _ _ _ _ _ _ ?_, command_pair _ _ _ _ _ _ _ ?_, command_hw _ _ _ _ _ _ _ ?_, command_nor _ _ _ _ _ _ _ ?_⟩
  all_goals (intro e v s; simp [fr1])

theorem execLoaderRestart_frame {x0 : Nat} {x1 : Entry} {s t : State} (h : exec (.loaderRestart x0 x1) s = .next t) :
    t.cham = s.cham := by
  have fr1 := @loaderRestart_frame
  simp only [exec, execLoaderRestart, Host.Outcome.next.injEq] at h
  subst h
  refine command_cham _ _ _ _ _ _ _ ?_
  all_goals (intro e v s; simp [fr1])

theorem execUnknownOpcode_frame {x0 : Nat} {x1 : Entry} {s t : State} (h : exec (.unknownOpcode x0 x1) s = .next t) :
    t.mode = s.mode ∧ t.start = s.start ∧ t.writes = s.writes ∧ t.image = s.image ∧ t.net = s.net ∧ t.plan = s.plan ∧ t.solver = s.solver ∧ t.piste = s.piste ∧ t.prof = s.prof ∧ t.ctl = s.ctl ∧ t.sched = s.sched ∧ t.dsp = s.dsp ∧ t.sep = s.sep ∧ t.safety = s.safety ∧ t.cham = s.cham ∧ t.field = s.field ∧ t.clocks = s.clocks ∧ t.power = s.power ∧ t.pair = s.pair ∧ t.sec = s.sec ∧ t.hw = s.hw ∧ t.nor = s.nor := by
  have fr1 := @begin_frame; have fr2 := @complete_frame
  simp only [exec, execUnknownOpcode, Host.Outcome.next.injEq] at h
  subst h
  split
  · simp [fr1, fr2]
  · refine ⟨command_mode _ _ _ _ _ _ _ ?_, command_start _ _ _ _ _ _ _ ?_, command_writes _ _ _ _ _ _ _ ?_, command_image _ _ _ _ _ _ _ ?_, command_net _ _ _ _ _ _ _ ?_, command_plan _ _ _ _ _ _ _ ?_, command_solver _ _ _ _ _ _ _ ?_, command_piste _ _ _ _ _ _ _ ?_, command_prof _ _ _ _ _ _ _ ?_, command_ctl _ _ _ _ _ _ _ ?_, command_sched _ _ _ _ _ _ _ ?_, command_dsp _ _ _ _ _ _ _ ?_, command_sep _ _ _ _ _ _ _ ?_, command_safety _ _ _ _ _ _ _ ?_, command_cham _ _ _ _ _ _ _ ?_, command_field _ _ _ _ _ _ _ ?_, command_clocks _ _ _ _ _ _ _ ?_, command_power _ _ _ _ _ _ _ ?_, command_pair _ _ _ _ _ _ _ ?_, command_sec _ _ _ _ _ _ _ ?_, command_hw _ _ _ _ _ _ _ ?_, command_nor _ _ _ _ _ _ _ ?_⟩
    all_goals (intro e v s; simp [fr1, fr2])

theorem execUdpDatagramRx_frame {x0 : Nat} {x1 : Nat} {x2 : Nat} {x3 : Nat} {x4 : Bool} {x5 : Bytes} {s t : State} (h : exec (.udpDatagramRx x0 x1 x2 x3 x4 x5) s = .next t) :
    t.mode = s.mode ∧ t.start = s.start ∧ t.writes = s.writes ∧ t.image = s.image ∧ t.reg = s.reg ∧ t.net = s.net ∧ t.plan = s.plan ∧ t.solver = s.solver ∧ t.piste = s.piste ∧ t.prof = s.prof ∧ t.ctl = s.ctl ∧ t.sched = s.sched ∧ t.dsp = s.dsp ∧ t.sep = s.sep ∧ t.safety = s.safety ∧ t.cham = s.cham ∧ t.field = s.field ∧ t.acq = s.acq ∧ t.logs = s.logs ∧ t.clocks = s.clocks ∧ t.power = s.power ∧ t.pair = s.pair ∧ t.sec = s.sec ∧ t.hw = s.hw ∧ t.nor = s.nor := by
  have fr1 := @datagramRx_frame; have fr2 := @begin_frame
  simp only [exec, execUdpDatagramRx, Host.Outcome.next.injEq] at h
  subst h
  simp [fr1, fr2]

theorem execCmdTailWrite_frame {x0 : Nat} {x1 : Nat} {x2 : Nat} {s t : State} (h : exec (.cmdTailWrite x0 x1 x2) s = .next t) :
    t.mode = s.mode ∧ t.start = s.start ∧ t.writes = s.writes ∧ t.image = s.image ∧ t.reg = s.reg ∧ t.objs = s.objs ∧ t.net = s.net ∧ t.plan = s.plan ∧ t.solver = s.solver ∧ t.piste = s.piste ∧ t.prof = s.prof ∧ t.ctl = s.ctl ∧ t.sched = s.sched ∧ t.dsp = s.dsp ∧ t.sep = s.sep ∧ t.safety = s.safety ∧ t.cham = s.cham ∧ t.field = s.field ∧ t.acq = s.acq ∧ t.logs = s.logs ∧ t.clocks = s.clocks ∧ t.power = s.power ∧ t.pair = s.pair ∧ t.sec = s.sec ∧ t.hw = s.hw ∧ t.nor = s.nor ∧ t.freeCount = s.freeCount := by
  have fr1 := @begin_frame; have fr2 := @writeCmdTail_frame
  simp only [exec, execCmdTailWrite, Host.Outcome.next.injEq] at h
  subst h
  simp [fr1, fr2]

theorem execCplHeadWrite_frame {x0 : Nat} {x1 : Nat} {x2 : Nat} {s t : State} (h : exec (.cplHeadWrite x0 x1 x2) s = .next t) :
    t.mode = s.mode ∧ t.start = s.start ∧ t.writes = s.writes ∧ t.image = s.image ∧ t.reg = s.reg ∧ t.objs = s.objs ∧ t.net = s.net ∧ t.plan = s.plan ∧ t.solver = s.solver ∧ t.piste = s.piste ∧ t.prof = s.prof ∧ t.ctl = s.ctl ∧ t.sched = s.sched ∧ t.dsp = s.dsp ∧ t.sep = s.sep ∧ t.safety = s.safety ∧ t.cham = s.cham ∧ t.field = s.field ∧ t.acq = s.acq ∧ t.logs = s.logs ∧ t.clocks = s.clocks ∧ t.power = s.power ∧ t.pair = s.pair ∧ t.sec = s.sec ∧ t.hw = s.hw ∧ t.nor = s.nor ∧ t.freeCount = s.freeCount := by
  have fr1 := @begin_frame; have fr2 := @writeCplHead_frame
  simp only [exec, execCplHeadWrite, Host.Outcome.next.injEq] at h
  subst h
  simp [fr1, fr2]

theorem execHtNowLoRead_frame {x0 : Nat} {x1 : Bool} {s t : State} (h : exec (.htNowLoRead x0 x1) s = .next t) :
    t.mode = s.mode ∧ t.start = s.start ∧ t.zewen = s.zewen ∧ t.writes = s.writes ∧ t.image = s.image ∧ t.objs = s.objs ∧ t.net = s.net ∧ t.plan = s.plan ∧ t.solver = s.solver ∧ t.piste = s.piste ∧ t.prof = s.prof ∧ t.ctl = s.ctl ∧ t.sched = s.sched ∧ t.dsp = s.dsp ∧ t.sep = s.sep ∧ t.safety = s.safety ∧ t.cham = s.cham ∧ t.field = s.field ∧ t.acq = s.acq ∧ t.logs = s.logs ∧ t.clocks = s.clocks ∧ t.power = s.power ∧ t.pair = s.pair ∧ t.sec = s.sec ∧ t.hw = s.hw ∧ t.nor = s.nor ∧ t.freeCount = s.freeCount := by
  have fr1 := @begin_frame; have fr2 := @withReg_frame
  simp only [exec, execHtNowLoRead, Host.Outcome.next.injEq] at h
  subst h
  exact ⟨(readReg_mode _ _ _ _ (by intro s; rfl)).trans (by simp [fr1, fr2]),
    (readReg_start _ _ _ _ (by intro s; rfl)).trans (by simp [fr1, fr2]),
    (readReg_zewen _ _ _ _ (by intro s; rfl)).trans (by simp [fr1, fr2]),
    (readReg_writes _ _ _ _ (by intro s; rfl)).trans (by simp [fr1, fr2]),
    (readReg_image _ _ _ _ (by intro s; rfl)).trans (by simp [fr1, fr2]),
    (readReg_objs _ _ _ _ (by intro s; rfl)).trans (by simp [fr1, fr2]),
    (readReg_net _ _ _ _ (by intro s; rfl)).trans (by simp [fr1, fr2]),
    (readReg_plan _ _ _ _ (by intro s; rfl)).trans (by simp [fr1, fr2]),
    (readReg_solver _ _ _ _ (by intro s; rfl)).trans (by simp [fr1, fr2]),
    (readReg_piste _ _ _ _ (by intro s; rfl)).trans (by simp [fr1, fr2]),
    (readReg_prof _ _ _ _ (by intro s; rfl)).trans (by simp [fr1, fr2]),
    (readReg_ctl _ _ _ _ (by intro s; rfl)).trans (by simp [fr1, fr2]),
    (readReg_sched _ _ _ _ (by intro s; rfl)).trans (by simp [fr1, fr2]),
    (readReg_dsp _ _ _ _ (by intro s; rfl)).trans (by simp [fr1, fr2]),
    (readReg_sep _ _ _ _ (by intro s; rfl)).trans (by simp [fr1, fr2]),
    (readReg_safety _ _ _ _ (by intro s; rfl)).trans (by simp [fr1, fr2]),
    (readReg_cham _ _ _ _ (by intro s; rfl)).trans (by simp [fr1, fr2]),
    (readReg_field _ _ _ _ (by intro s; rfl)).trans (by simp [fr1, fr2]),
    (readReg_acq _ _ _ _ (by intro s; rfl)).trans (by simp [fr1, fr2]),
    (readReg_logs _ _ _ _ (by intro s; rfl)).trans (by simp [fr1, fr2]),
    (readReg_clocks _ _ _ _ (by intro s; rfl)).trans (by simp [fr1, fr2]),
    (readReg_power _ _ _ _ (by intro s; rfl)).trans (by simp [fr1, fr2]),
    (readReg_pair _ _ _ _ (by intro s; rfl)).trans (by simp [fr1, fr2]),
    (readReg_sec _ _ _ _ (by intro s; rfl)).trans (by simp [fr1, fr2]),
    (readReg_hw _ _ _ _ (by intro s; rfl)).trans (by simp [fr1, fr2]),
    (readReg_nor _ _ _ _ (by intro s; rfl)).trans (by simp [fr1, fr2]),
    (readReg_freeCount _ _ _ _ (by intro s; rfl)).trans (by simp [fr1, fr2])⟩

theorem execAcqTrigTimeLoRead_frame {x0 : Nat} {x1 : Bool} {s t : State} (h : exec (.acqTrigTimeLoRead x0 x1) s = .next t) :
    t.mode = s.mode ∧ t.start = s.start ∧ t.zewen = s.zewen ∧ t.writes = s.writes ∧ t.image = s.image ∧ t.objs = s.objs ∧ t.net = s.net ∧ t.plan = s.plan ∧ t.solver = s.solver ∧ t.piste = s.piste ∧ t.prof = s.prof ∧ t.ctl = s.ctl ∧ t.sched = s.sched ∧ t.dsp = s.dsp ∧ t.sep = s.sep ∧ t.safety = s.safety ∧ t.cham = s.cham ∧ t.field = s.field ∧ t.acq = s.acq ∧ t.logs = s.logs ∧ t.clocks = s.clocks ∧ t.power = s.power ∧ t.pair = s.pair ∧ t.sec = s.sec ∧ t.hw = s.hw ∧ t.nor = s.nor ∧ t.freeCount = s.freeCount := by
  have fr1 := @begin_frame; have fr2 := @withReg_frame
  simp only [exec, execAcqTrigTimeLoRead, Host.Outcome.next.injEq] at h
  subst h
  exact ⟨(readReg_mode _ _ _ _ (by intro s; rfl)).trans (by simp [fr1, fr2]),
    (readReg_start _ _ _ _ (by intro s; rfl)).trans (by simp [fr1, fr2]),
    (readReg_zewen _ _ _ _ (by intro s; rfl)).trans (by simp [fr1, fr2]),
    (readReg_writes _ _ _ _ (by intro s; rfl)).trans (by simp [fr1, fr2]),
    (readReg_image _ _ _ _ (by intro s; rfl)).trans (by simp [fr1, fr2]),
    (readReg_objs _ _ _ _ (by intro s; rfl)).trans (by simp [fr1, fr2]),
    (readReg_net _ _ _ _ (by intro s; rfl)).trans (by simp [fr1, fr2]),
    (readReg_plan _ _ _ _ (by intro s; rfl)).trans (by simp [fr1, fr2]),
    (readReg_solver _ _ _ _ (by intro s; rfl)).trans (by simp [fr1, fr2]),
    (readReg_piste _ _ _ _ (by intro s; rfl)).trans (by simp [fr1, fr2]),
    (readReg_prof _ _ _ _ (by intro s; rfl)).trans (by simp [fr1, fr2]),
    (readReg_ctl _ _ _ _ (by intro s; rfl)).trans (by simp [fr1, fr2]),
    (readReg_sched _ _ _ _ (by intro s; rfl)).trans (by simp [fr1, fr2]),
    (readReg_dsp _ _ _ _ (by intro s; rfl)).trans (by simp [fr1, fr2]),
    (readReg_sep _ _ _ _ (by intro s; rfl)).trans (by simp [fr1, fr2]),
    (readReg_safety _ _ _ _ (by intro s; rfl)).trans (by simp [fr1, fr2]),
    (readReg_cham _ _ _ _ (by intro s; rfl)).trans (by simp [fr1, fr2]),
    (readReg_field _ _ _ _ (by intro s; rfl)).trans (by simp [fr1, fr2]),
    (readReg_acq _ _ _ _ (by intro s; rfl)).trans (by simp [fr1, fr2]),
    (readReg_logs _ _ _ _ (by intro s; rfl)).trans (by simp [fr1, fr2]),
    (readReg_clocks _ _ _ _ (by intro s; rfl)).trans (by simp [fr1, fr2]),
    (readReg_power _ _ _ _ (by intro s; rfl)).trans (by simp [fr1, fr2]),
    (readReg_pair _ _ _ _ (by intro s; rfl)).trans (by simp [fr1, fr2]),
    (readReg_sec _ _ _ _ (by intro s; rfl)).trans (by simp [fr1, fr2]),
    (readReg_hw _ _ _ _ (by intro s; rfl)).trans (by simp [fr1, fr2]),
    (readReg_nor _ _ _ _ (by intro s; rfl)).trans (by simp [fr1, fr2]),
    (readReg_freeCount _ _ _ _ (by intro s; rfl)).trans (by simp [fr1, fr2])⟩

theorem execTxtsPop_frame {x0 : Nat} {x1 : Bool} {x2 : Nat} {s t : State} (h : exec (.txtsPop x0 x1 x2) s = .next t) :
    t.mode = s.mode ∧ t.start = s.start ∧ t.writes = s.writes ∧ t.image = s.image ∧ t.objs = s.objs ∧ t.net = s.net ∧ t.plan = s.plan ∧ t.solver = s.solver ∧ t.piste = s.piste ∧ t.prof = s.prof ∧ t.ctl = s.ctl ∧ t.sched = s.sched ∧ t.dsp = s.dsp ∧ t.sep = s.sep ∧ t.safety = s.safety ∧ t.cham = s.cham ∧ t.field = s.field ∧ t.acq = s.acq ∧ t.logs = s.logs ∧ t.power = s.power ∧ t.pair = s.pair ∧ t.sec = s.sec ∧ t.hw = s.hw ∧ t.nor = s.nor ∧ t.freeCount = s.freeCount := by
  have fr1 := @takeStamps_frame; have fr2 := @begin_frame; have fr3 := @popStamp_frame
  simp only [exec, execTxtsPop, Host.Outcome.next.injEq] at h
  subst h
  exact ⟨(writeReg_mode _ _ _ _ _ (by intro s; simp [fr1, fr2, fr3])).trans (by simp [fr1, fr2, fr3]),
    (writeReg_start _ _ _ _ _ (by intro s; simp [fr1, fr2, fr3])).trans (by simp [fr1, fr2, fr3]),
    (writeReg_writes _ _ _ _ _ (by intro s; simp [fr1, fr2, fr3])).trans (by simp [fr1, fr2, fr3]),
    (writeReg_image _ _ _ _ _ (by intro s; simp [fr1, fr2, fr3])).trans (by simp [fr1, fr2, fr3]),
    (writeReg_objs _ _ _ _ _ (by intro s; simp [fr1, fr2, fr3])).trans (by simp [fr1, fr2, fr3]),
    (writeReg_net _ _ _ _ _ (by intro s; simp [fr1, fr2, fr3])).trans (by simp [fr1, fr2, fr3]),
    (writeReg_plan _ _ _ _ _ (by intro s; simp [fr1, fr2, fr3])).trans (by simp [fr1, fr2, fr3]),
    (writeReg_solver _ _ _ _ _ (by intro s; simp [fr1, fr2, fr3])).trans (by simp [fr1, fr2, fr3]),
    (writeReg_piste _ _ _ _ _ (by intro s; simp [fr1, fr2, fr3])).trans (by simp [fr1, fr2, fr3]),
    (writeReg_prof _ _ _ _ _ (by intro s; simp [fr1, fr2, fr3])).trans (by simp [fr1, fr2, fr3]),
    (writeReg_ctl _ _ _ _ _ (by intro s; simp [fr1, fr2, fr3])).trans (by simp [fr1, fr2, fr3]),
    (writeReg_sched _ _ _ _ _ (by intro s; simp [fr1, fr2, fr3])).trans (by simp [fr1, fr2, fr3]),
    (writeReg_dsp _ _ _ _ _ (by intro s; simp [fr1, fr2, fr3])).trans (by simp [fr1, fr2, fr3]),
    (writeReg_sep _ _ _ _ _ (by intro s; simp [fr1, fr2, fr3])).trans (by simp [fr1, fr2, fr3]),
    (writeReg_safety _ _ _ _ _ (by intro s; simp [fr1, fr2, fr3])).trans (by simp [fr1, fr2, fr3]),
    (writeReg_cham _ _ _ _ _ (by intro s; simp [fr1, fr2, fr3])).trans (by simp [fr1, fr2, fr3]),
    (writeReg_field _ _ _ _ _ (by intro s; simp [fr1, fr2, fr3])).trans (by simp [fr1, fr2, fr3]),
    (writeReg_acq _ _ _ _ _ (by intro s; simp [fr1, fr2, fr3])).trans (by simp [fr1, fr2, fr3]),
    (writeReg_logs _ _ _ _ _ (by intro s; simp [fr1, fr2, fr3])).trans (by simp [fr1, fr2, fr3]),
    (writeReg_power _ _ _ _ _ (by intro s; simp [fr1, fr2, fr3])).trans (by simp [fr1, fr2, fr3]),
    (writeReg_pair _ _ _ _ _ (by intro s; simp [fr1, fr2, fr3])).trans (by simp [fr1, fr2, fr3]),
    (writeReg_sec _ _ _ _ _ (by intro s; simp [fr1, fr2, fr3])).trans (by simp [fr1, fr2, fr3]),
    (writeReg_hw _ _ _ _ _ (by intro s; simp [fr1, fr2, fr3])).trans (by simp [fr1, fr2, fr3]),
    (writeReg_nor _ _ _ _ _ (by intro s; simp [fr1, fr2, fr3])).trans (by simp [fr1, fr2, fr3]),
    (writeReg_freeCount _ _ _ _ _ (by intro s; simp [fr1, fr2, fr3])).trans (by simp [fr1, fr2, fr3])⟩

theorem execTxtsOvfRead_frame {x0 : Nat} {x1 : Bool} {s t : State} (h : exec (.txtsOvfRead x0 x1) s = .next t) :
    t.mode = s.mode ∧ t.start = s.start ∧ t.zewen = s.zewen ∧ t.writes = s.writes ∧ t.image = s.image ∧ t.objs = s.objs ∧ t.net = s.net ∧ t.plan = s.plan ∧ t.solver = s.solver ∧ t.piste = s.piste ∧ t.prof = s.prof ∧ t.ctl = s.ctl ∧ t.sched = s.sched ∧ t.dsp = s.dsp ∧ t.sep = s.sep ∧ t.safety = s.safety ∧ t.cham = s.cham ∧ t.field = s.field ∧ t.acq = s.acq ∧ t.logs = s.logs ∧ t.clocks = s.clocks ∧ t.power = s.power ∧ t.pair = s.pair ∧ t.sec = s.sec ∧ t.hw = s.hw ∧ t.nor = s.nor ∧ t.freeCount = s.freeCount := by
  have fr1 := @begin_frame
  simp only [exec, execTxtsOvfRead, Host.Outcome.next.injEq] at h
  subst h
  exact ⟨(readReg_mode _ _ _ _ (by intro s; rfl)).trans (by simp [fr1]),
    (readReg_start _ _ _ _ (by intro s; rfl)).trans (by simp [fr1]),
    (readReg_zewen _ _ _ _ (by intro s; rfl)).trans (by simp [fr1]),
    (readReg_writes _ _ _ _ (by intro s; rfl)).trans (by simp [fr1]),
    (readReg_image _ _ _ _ (by intro s; rfl)).trans (by simp [fr1]),
    (readReg_objs _ _ _ _ (by intro s; rfl)).trans (by simp [fr1]),
    (readReg_net _ _ _ _ (by intro s; rfl)).trans (by simp [fr1]),
    (readReg_plan _ _ _ _ (by intro s; rfl)).trans (by simp [fr1]),
    (readReg_solver _ _ _ _ (by intro s; rfl)).trans (by simp [fr1]),
    (readReg_piste _ _ _ _ (by intro s; rfl)).trans (by simp [fr1]),
    (readReg_prof _ _ _ _ (by intro s; rfl)).trans (by simp [fr1]),
    (readReg_ctl _ _ _ _ (by intro s; rfl)).trans (by simp [fr1]),
    (readReg_sched _ _ _ _ (by intro s; rfl)).trans (by simp [fr1]),
    (readReg_dsp _ _ _ _ (by intro s; rfl)).trans (by simp [fr1]),
    (readReg_sep _ _ _ _ (by intro s; rfl)).trans (by simp [fr1]),
    (readReg_safety _ _ _ _ (by intro s; rfl)).trans (by simp [fr1]),
    (readReg_cham _ _ _ _ (by intro s; rfl)).trans (by simp [fr1]),
    (readReg_field _ _ _ _ (by intro s; rfl)).trans (by simp [fr1]),
    (readReg_acq _ _ _ _ (by intro s; rfl)).trans (by simp [fr1]),
    (readReg_logs _ _ _ _ (by intro s; rfl)).trans (by simp [fr1]),
    (readReg_clocks _ _ _ _ (by intro s; rfl)).trans (by simp [fr1]),
    (readReg_power _ _ _ _ (by intro s; rfl)).trans (by simp [fr1]),
    (readReg_pair _ _ _ _ (by intro s; rfl)).trans (by simp [fr1]),
    (readReg_sec _ _ _ _ (by intro s; rfl)).trans (by simp [fr1]),
    (readReg_hw _ _ _ _ (by intro s; rfl)).trans (by simp [fr1]),
    (readReg_nor _ _ _ _ (by intro s; rfl)).trans (by simp [fr1]),
    (readReg_freeCount _ _ _ _ (by intro s; rfl)).trans (by simp [fr1])⟩

theorem execErrCountRead_frame {x0 : Nat} {x1 : Bool} {s t : State} (h : exec (.errCountRead x0 x1) s = .next t) :
    t.mode = s.mode ∧ t.start = s.start ∧ t.zewen = s.zewen ∧ t.writes = s.writes ∧ t.image = s.image ∧ t.objs = s.objs ∧ t.net = s.net ∧ t.plan = s.plan ∧ t.solver = s.solver ∧ t.piste = s.piste ∧ t.prof = s.prof ∧ t.ctl = s.ctl ∧ t.sched = s.sched ∧ t.dsp = s.dsp ∧ t.sep = s.sep ∧ t.safety = s.safety ∧ t.cham = s.cham ∧ t.field = s.field ∧ t.acq = s.acq ∧ t.logs = s.logs ∧ t.clocks = s.clocks ∧ t.power = s.power ∧ t.pair = s.pair ∧ t.sec = s.sec ∧ t.hw = s.hw ∧ t.nor = s.nor ∧ t.freeCount = s.freeCount := by
  have fr1 := @begin_frame; have fr2 := @withReg_frame
  simp only [exec, execErrCountRead, Host.Outcome.next.injEq] at h
  subst h
  exact ⟨(readReg_mode _ _ _ _ (by intro s; rfl)).trans (by simp [fr1, fr2]),
    (readReg_start _ _ _ _ (by intro s; rfl)).trans (by simp [fr1, fr2]),
    (readReg_zewen _ _ _ _ (by intro s; rfl)).trans (by simp [fr1, fr2]),
    (readReg_writes _ _ _ _ (by intro s; rfl)).trans (by simp [fr1, fr2]),
    (readReg_image _ _ _ _ (by intro s; rfl)).trans (by simp [fr1, fr2]),
    (readReg_objs _ _ _ _ (by intro s; rfl)).trans (by simp [fr1, fr2]),
    (readReg_net _ _ _ _ (by intro s; rfl)).trans (by simp [fr1, fr2]),
    (readReg_plan _ _ _ _ (by intro s; rfl)).trans (by simp [fr1, fr2]),
    (readReg_solver _ _ _ _ (by intro s; rfl)).trans (by simp [fr1, fr2]),
    (readReg_piste _ _ _ _ (by intro s; rfl)).trans (by simp [fr1, fr2]),
    (readReg_prof _ _ _ _ (by intro s; rfl)).trans (by simp [fr1, fr2]),
    (readReg_ctl _ _ _ _ (by intro s; rfl)).trans (by simp [fr1, fr2]),
    (readReg_sched _ _ _ _ (by intro s; rfl)).trans (by simp [fr1, fr2]),
    (readReg_dsp _ _ _ _ (by intro s; rfl)).trans (by simp [fr1, fr2]),
    (readReg_sep _ _ _ _ (by intro s; rfl)).trans (by simp [fr1, fr2]),
    (readReg_safety _ _ _ _ (by intro s; rfl)).trans (by simp [fr1, fr2]),
    (readReg_cham _ _ _ _ (by intro s; rfl)).trans (by simp [fr1, fr2]),
    (readReg_field _ _ _ _ (by intro s; rfl)).trans (by simp [fr1, fr2]),
    (readReg_acq _ _ _ _ (by intro s; rfl)).trans (by simp [fr1, fr2]),
    (readReg_logs _ _ _ _ (by intro s; rfl)).trans (by simp [fr1, fr2]),
    (readReg_clocks _ _ _ _ (by intro s; rfl)).trans (by simp [fr1, fr2]),
    (readReg_power _ _ _ _ (by intro s; rfl)).trans (by simp [fr1, fr2]),
    (readReg_pair _ _ _ _ (by intro s; rfl)).trans (by simp [fr1, fr2]),
    (readReg_sec _ _ _ _ (by intro s; rfl)).trans (by simp [fr1, fr2]),
    (readReg_hw _ _ _ _ (by intro s; rfl)).trans (by simp [fr1, fr2]),
    (readReg_nor _ _ _ _ (by intro s; rfl)).trans (by simp [fr1, fr2]),
    (readReg_freeCount _ _ _ _ (by intro s; rfl)).trans (by simp [fr1, fr2])⟩

theorem execGatedAccessRead_frame {x0 : Nat} {x1 : Bool} {s t : State} (h : exec (.gatedAccessRead x0 x1) s = .next t) :
    t.mode = s.mode ∧ t.start = s.start ∧ t.zewen = s.zewen ∧ t.writes = s.writes ∧ t.image = s.image ∧ t.objs = s.objs ∧ t.net = s.net ∧ t.plan = s.plan ∧ t.solver = s.solver ∧ t.piste = s.piste ∧ t.prof = s.prof ∧ t.ctl = s.ctl ∧ t.sched = s.sched ∧ t.dsp = s.dsp ∧ t.sep = s.sep ∧ t.safety = s.safety ∧ t.cham = s.cham ∧ t.field = s.field ∧ t.acq = s.acq ∧ t.logs = s.logs ∧ t.clocks = s.clocks ∧ t.power = s.power ∧ t.pair = s.pair ∧ t.sec = s.sec ∧ t.hw = s.hw ∧ t.nor = s.nor ∧ t.freeCount = s.freeCount := by
  have fr1 := @begin_frame; have fr2 := @withReg_frame
  simp only [exec, execGatedAccessRead, Host.Outcome.next.injEq] at h
  subst h
  exact ⟨(readReg_mode _ _ _ _ (by intro s; rfl)).trans (by simp [fr1, fr2]),
    (readReg_start _ _ _ _ (by intro s; rfl)).trans (by simp [fr1, fr2]),
    (readReg_zewen _ _ _ _ (by intro s; rfl)).trans (by simp [fr1, fr2]),
    (readReg_writes _ _ _ _ (by intro s; rfl)).trans (by simp [fr1, fr2]),
    (readReg_image _ _ _ _ (by intro s; rfl)).trans (by simp [fr1, fr2]),
    (readReg_objs _ _ _ _ (by intro s; rfl)).trans (by simp [fr1, fr2]),
    (readReg_net _ _ _ _ (by intro s; rfl)).trans (by simp [fr1, fr2]),
    (readReg_plan _ _ _ _ (by intro s; rfl)).trans (by simp [fr1, fr2]),
    (readReg_solver _ _ _ _ (by intro s; rfl)).trans (by simp [fr1, fr2]),
    (readReg_piste _ _ _ _ (by intro s; rfl)).trans (by simp [fr1, fr2]),
    (readReg_prof _ _ _ _ (by intro s; rfl)).trans (by simp [fr1, fr2]),
    (readReg_ctl _ _ _ _ (by intro s; rfl)).trans (by simp [fr1, fr2]),
    (readReg_sched _ _ _ _ (by intro s; rfl)).trans (by simp [fr1, fr2]),
    (readReg_dsp _ _ _ _ (by intro s; rfl)).trans (by simp [fr1, fr2]),
    (readReg_sep _ _ _ _ (by intro s; rfl)).trans (by simp [fr1, fr2]),
    (readReg_safety _ _ _ _ (by intro s; rfl)).trans (by simp [fr1, fr2]),
    (readReg_cham _ _ _ _ (by intro s; rfl)).trans (by simp [fr1, fr2]),
    (readReg_field _ _ _ _ (by intro s; rfl)).trans (by simp [fr1, fr2]),
    (readReg_acq _ _ _ _ (by intro s; rfl)).trans (by simp [fr1, fr2]),
    (readReg_logs _ _ _ _ (by intro s; rfl)).trans (by simp [fr1, fr2]),
    (readReg_clocks _ _ _ _ (by intro s; rfl)).trans (by simp [fr1, fr2]),
    (readReg_power _ _ _ _ (by intro s; rfl)).trans (by simp [fr1, fr2]),
    (readReg_pair _ _ _ _ (by intro s; rfl)).trans (by simp [fr1, fr2]),
    (readReg_sec _ _ _ _ (by intro s; rfl)).trans (by simp [fr1, fr2]),
    (readReg_hw _ _ _ _ (by intro s; rfl)).trans (by simp [fr1, fr2]),
    (readReg_nor _ _ _ _ (by intro s; rfl)).trans (by simp [fr1, fr2]),
    (readReg_freeCount _ _ _ _ (by intro s; rfl)).trans (by simp [fr1, fr2])⟩

theorem execClearFirst_frame {x0 : Nat} {x1 : Bool} {x2 : Nat} {s t : State} (h : exec (.clearFirst x0 x1 x2) s = .next t) :
    t.mode = s.mode ∧ t.start = s.start ∧ t.writes = s.writes ∧ t.image = s.image ∧ t.objs = s.objs ∧ t.net = s.net ∧ t.plan = s.plan ∧ t.solver = s.solver ∧ t.piste = s.piste ∧ t.prof = s.prof ∧ t.ctl = s.ctl ∧ t.sched = s.sched ∧ t.dsp = s.dsp ∧ t.sep = s.sep ∧ t.safety = s.safety ∧ t.cham = s.cham ∧ t.field = s.field ∧ t.acq = s.acq ∧ t.logs = s.logs ∧ t.power = s.power ∧ t.pair = s.pair ∧ t.sec = s.sec ∧ t.hw = s.hw ∧ t.nor = s.nor ∧ t.freeCount = s.freeCount := by
  have fr1 := @begin_frame; have fr2 := @clearFirst_frame
  simp only [exec, execClearFirst, Host.Outcome.next.injEq] at h
  subst h
  exact ⟨(writeReg_mode _ _ _ _ _ (by intro s; simp [fr1, fr2])).trans (by simp [fr1, fr2]),
    (writeReg_start _ _ _ _ _ (by intro s; simp [fr1, fr2])).trans (by simp [fr1, fr2]),
    (writeReg_writes _ _ _ _ _ (by intro s; simp [fr1, fr2])).trans (by simp [fr1, fr2]),
    (writeReg_image _ _ _ _ _ (by intro s; simp [fr1, fr2])).trans (by simp [fr1, fr2]),
    (writeReg_objs _ _ _ _ _ (by intro s; simp [fr1, fr2])).trans (by simp [fr1, fr2]),
    (writeReg_net _ _ _ _ _ (by intro s; simp [fr1, fr2])).trans (by simp [fr1, fr2]),
    (writeReg_plan _ _ _ _ _ (by intro s; simp [fr1, fr2])).trans (by simp [fr1, fr2]),
    (writeReg_solver _ _ _ _ _ (by intro s; simp [fr1, fr2])).trans (by simp [fr1, fr2]),
    (writeReg_piste _ _ _ _ _ (by intro s; simp [fr1, fr2])).trans (by simp [fr1, fr2]),
    (writeReg_prof _ _ _ _ _ (by intro s; simp [fr1, fr2])).trans (by simp [fr1, fr2]),
    (writeReg_ctl _ _ _ _ _ (by intro s; simp [fr1, fr2])).trans (by simp [fr1, fr2]),
    (writeReg_sched _ _ _ _ _ (by intro s; simp [fr1, fr2])).trans (by simp [fr1, fr2]),
    (writeReg_dsp _ _ _ _ _ (by intro s; simp [fr1, fr2])).trans (by simp [fr1, fr2]),
    (writeReg_sep _ _ _ _ _ (by intro s; simp [fr1, fr2])).trans (by simp [fr1, fr2]),
    (writeReg_safety _ _ _ _ _ (by intro s; simp [fr1, fr2])).trans (by simp [fr1, fr2]),
    (writeReg_cham _ _ _ _ _ (by intro s; simp [fr1, fr2])).trans (by simp [fr1, fr2]),
    (writeReg_field _ _ _ _ _ (by intro s; simp [fr1, fr2])).trans (by simp [fr1, fr2]),
    (writeReg_acq _ _ _ _ _ (by intro s; simp [fr1, fr2])).trans (by simp [fr1, fr2]),
    (writeReg_logs _ _ _ _ _ (by intro s; simp [fr1, fr2])).trans (by simp [fr1, fr2]),
    (writeReg_power _ _ _ _ _ (by intro s; simp [fr1, fr2])).trans (by simp [fr1, fr2]),
    (writeReg_pair _ _ _ _ _ (by intro s; simp [fr1, fr2])).trans (by simp [fr1, fr2]),
    (writeReg_sec _ _ _ _ _ (by intro s; simp [fr1, fr2])).trans (by simp [fr1, fr2]),
    (writeReg_hw _ _ _ _ _ (by intro s; simp [fr1, fr2])).trans (by simp [fr1, fr2]),
    (writeReg_nor _ _ _ _ _ (by intro s; simp [fr1, fr2])).trans (by simp [fr1, fr2]),
    (writeReg_freeCount _ _ _ _ _ (by intro s; simp [fr1, fr2])).trans (by simp [fr1, fr2])⟩

theorem execViewClear_frame {x0 : Nat} {x1 : Bool} {x2 : Nat} {s t : State} (h : exec (.viewClear x0 x1 x2) s = .next t) :
    t.mode = s.mode ∧ t.start = s.start ∧ t.writes = s.writes ∧ t.image = s.image ∧ t.objs = s.objs ∧ t.net = s.net ∧ t.plan = s.plan ∧ t.solver = s.solver ∧ t.piste = s.piste ∧ t.prof = s.prof ∧ t.ctl = s.ctl ∧ t.sched = s.sched ∧ t.dsp = s.dsp ∧ t.sep = s.sep ∧ t.safety = s.safety ∧ t.cham = s.cham ∧ t.field = s.field ∧ t.acq = s.acq ∧ t.logs = s.logs ∧ t.power = s.power ∧ t.pair = s.pair ∧ t.sec = s.sec ∧ t.hw = s.hw ∧ t.nor = s.nor ∧ t.freeCount = s.freeCount := by
  have fr1 := @begin_frame; have fr2 := @viewClear_frame
  simp only [exec, execViewClear, Host.Outcome.next.injEq] at h
  subst h
  exact ⟨(writeReg_mode _ _ _ _ _ (by intro s; simp [fr1, fr2])).trans (by simp [fr1, fr2]),
    (writeReg_start _ _ _ _ _ (by intro s; simp [fr1, fr2])).trans (by simp [fr1, fr2]),
    (writeReg_writes _ _ _ _ _ (by intro s; simp [fr1, fr2])).trans (by simp [fr1, fr2]),
    (writeReg_image _ _ _ _ _ (by intro s; simp [fr1, fr2])).trans (by simp [fr1, fr2]),
    (writeReg_objs _ _ _ _ _ (by intro s; simp [fr1, fr2])).trans (by simp [fr1, fr2]),
    (writeReg_net _ _ _ _ _ (by intro s; simp [fr1, fr2])).trans (by simp [fr1, fr2]),
    (writeReg_plan _ _ _ _ _ (by intro s; simp [fr1, fr2])).trans (by simp [fr1, fr2]),
    (writeReg_solver _ _ _ _ _ (by intro s; simp [fr1, fr2])).trans (by simp [fr1, fr2]),
    (writeReg_piste _ _ _ _ _ (by intro s; simp [fr1, fr2])).trans (by simp [fr1, fr2]),
    (writeReg_prof _ _ _ _ _ (by intro s; simp [fr1, fr2])).trans (by simp [fr1, fr2]),
    (writeReg_ctl _ _ _ _ _ (by intro s; simp [fr1, fr2])).trans (by simp [fr1, fr2]),
    (writeReg_sched _ _ _ _ _ (by intro s; simp [fr1, fr2])).trans (by simp [fr1, fr2]),
    (writeReg_dsp _ _ _ _ _ (by intro s; simp [fr1, fr2])).trans (by simp [fr1, fr2]),
    (writeReg_sep _ _ _ _ _ (by intro s; simp [fr1, fr2])).trans (by simp [fr1, fr2]),
    (writeReg_safety _ _ _ _ _ (by intro s; simp [fr1, fr2])).trans (by simp [fr1, fr2]),
    (writeReg_cham _ _ _ _ _ (by intro s; simp [fr1, fr2])).trans (by simp [fr1, fr2]),
    (writeReg_field _ _ _ _ _ (by intro s; simp [fr1, fr2])).trans (by simp [fr1, fr2]),
    (writeReg_acq _ _ _ _ _ (by intro s; simp [fr1, fr2])).trans (by simp [fr1, fr2]),
    (writeReg_logs _ _ _ _ _ (by intro s; simp [fr1, fr2])).trans (by simp [fr1, fr2]),
    (writeReg_power _ _ _ _ _ (by intro s; simp [fr1, fr2])).trans (by simp [fr1, fr2]),
    (writeReg_pair _ _ _ _ _ (by intro s; simp [fr1, fr2])).trans (by simp [fr1, fr2]),
    (writeReg_sec _ _ _ _ _ (by intro s; simp [fr1, fr2])).trans (by simp [fr1, fr2]),
    (writeReg_hw _ _ _ _ _ (by intro s; simp [fr1, fr2])).trans (by simp [fr1, fr2]),
    (writeReg_nor _ _ _ _ _ (by intro s; simp [fr1, fr2])).trans (by simp [fr1, fr2]),
    (writeReg_freeCount _ _ _ _ _ (by intro s; simp [fr1, fr2])).trans (by simp [fr1, fr2])⟩

theorem execIntStatusClear_frame {x0 : Nat} {x1 : Bool} {x2 : Nat} {s t : State} (h : exec (.intStatusClear x0 x1 x2) s = .next t) :
    t.mode = s.mode ∧ t.start = s.start ∧ t.writes = s.writes ∧ t.image = s.image ∧ t.objs = s.objs ∧ t.net = s.net ∧ t.plan = s.plan ∧ t.solver = s.solver ∧ t.piste = s.piste ∧ t.prof = s.prof ∧ t.ctl = s.ctl ∧ t.sched = s.sched ∧ t.dsp = s.dsp ∧ t.sep = s.sep ∧ t.safety = s.safety ∧ t.cham = s.cham ∧ t.field = s.field ∧ t.acq = s.acq ∧ t.logs = s.logs ∧ t.power = s.power ∧ t.pair = s.pair ∧ t.sec = s.sec ∧ t.hw = s.hw ∧ t.nor = s.nor ∧ t.freeCount = s.freeCount := by
  have fr1 := @begin_frame; have fr2 := @clearInt_frame
  simp only [exec, execIntStatusClear, Host.Outcome.next.injEq] at h
  subst h
  exact ⟨(writeReg_mode _ _ _ _ _ (by intro s; simp [fr1, fr2])).trans (by simp [fr1, fr2]),
    (writeReg_start _ _ _ _ _ (by intro s; simp [fr1, fr2])).trans (by simp [fr1, fr2]),
    (writeReg_writes _ _ _ _ _ (by intro s; simp [fr1, fr2])).trans (by simp [fr1, fr2]),
    (writeReg_image _ _ _ _ _ (by intro s; simp [fr1, fr2])).trans (by simp [fr1, fr2]),
    (writeReg_objs _ _ _ _ _ (by intro s; simp [fr1, fr2])).trans (by simp [fr1, fr2]),
    (writeReg_net _ _ _ _ _ (by intro s; simp [fr1, fr2])).trans (by simp [fr1, fr2]),
    (writeReg_plan _ _ _ _ _ (by intro s; simp [fr1, fr2])).trans (by simp [fr1, fr2]),
    (writeReg_solver _ _ _ _ _ (by intro s; simp [fr1, fr2])).trans (by simp [fr1, fr2]),
    (writeReg_piste _ _ _ _ _ (by intro s; simp [fr1, fr2])).trans (by simp [fr1, fr2]),
    (writeReg_prof _ _ _ _ _ (by intro s; simp [fr1, fr2])).trans (by simp [fr1, fr2]),
    (writeReg_ctl _ _ _ _ _ (by intro s; simp [fr1, fr2])).trans (by simp [fr1, fr2]),
    (writeReg_sched _ _ _ _ _ (by intro s; simp [fr1, fr2])).trans (by simp [fr1, fr2]),
    (writeReg_dsp _ _ _ _ _ (by intro s; simp [fr1, fr2])).trans (by simp [fr1, fr2]),
    (writeReg_sep _ _ _ _ _ (by intro s; simp [fr1, fr2])).trans (by simp [fr1, fr2]),
    (writeReg_safety _ _ _ _ _ (by intro s; simp [fr1, fr2])).trans (by simp [fr1, fr2]),
    (writeReg_cham _ _ _ _ _ (by intro s; simp [fr1, fr2])).trans (by simp [fr1, fr2]),
    (writeReg_field _ _ _ _ _ (by intro s; simp [fr1, fr2])).trans (by simp [fr1, fr2]),
    (writeReg_acq _ _ _ _ _ (by intro s; simp [fr1, fr2])).trans (by simp [fr1, fr2]),
    (writeReg_logs _ _ _ _ _ (by intro s; simp [fr1, fr2])).trans (by simp [fr1, fr2]),
    (writeReg_power _ _ _ _ _ (by intro s; simp [fr1, fr2])).trans (by simp [fr1, fr2]),
    (writeReg_pair _ _ _ _ _ (by intro s; simp [fr1, fr2])).trans (by simp [fr1, fr2]),
    (writeReg_sec _ _ _ _ _ (by intro s; simp [fr1, fr2])).trans (by simp [fr1, fr2]),
    (writeReg_hw _ _ _ _ _ (by intro s; simp [fr1, fr2])).trans (by simp [fr1, fr2]),
    (writeReg_nor _ _ _ _ _ (by intro s; simp [fr1, fr2])).trans (by simp [fr1, fr2]),
    (writeReg_freeCount _ _ _ _ _ (by intro s; simp [fr1, fr2])).trans (by simp [fr1, fr2])⟩

theorem execIntMaskWrite_frame {x0 : Nat} {x1 : Bool} {x2 : Nat} {s t : State} (h : exec (.intMaskWrite x0 x1 x2) s = .next t) :
    t.mode = s.mode ∧ t.start = s.start ∧ t.writes = s.writes ∧ t.image = s.image ∧ t.objs = s.objs ∧ t.net = s.net ∧ t.plan = s.plan ∧ t.solver = s.solver ∧ t.piste = s.piste ∧ t.prof = s.prof ∧ t.ctl = s.ctl ∧ t.sched = s.sched ∧ t.dsp = s.dsp ∧ t.sep = s.sep ∧ t.safety = s.safety ∧ t.cham = s.cham ∧ t.field = s.field ∧ t.acq = s.acq ∧ t.logs = s.logs ∧ t.power = s.power ∧ t.pair = s.pair ∧ t.sec = s.sec ∧ t.hw = s.hw ∧ t.nor = s.nor ∧ t.freeCount = s.freeCount := by
  have fr1 := @begin_frame; have fr2 := @writeMask_frame
  simp only [exec, execIntMaskWrite, Host.Outcome.next.injEq] at h
  subst h
  exact ⟨(writeReg_mode _ _ _ _ _ (by intro s; simp [fr1, fr2])).trans (by simp [fr1, fr2]),
    (writeReg_start _ _ _ _ _ (by intro s; simp [fr1, fr2])).trans (by simp [fr1, fr2]),
    (writeReg_writes _ _ _ _ _ (by intro s; simp [fr1, fr2])).trans (by simp [fr1, fr2]),
    (writeReg_image _ _ _ _ _ (by intro s; simp [fr1, fr2])).trans (by simp [fr1, fr2]),
    (writeReg_objs _ _ _ _ _ (by intro s; simp [fr1, fr2])).trans (by simp [fr1, fr2]),
    (writeReg_net _ _ _ _ _ (by intro s; simp [fr1, fr2])).trans (by simp [fr1, fr2]),
    (writeReg_plan _ _ _ _ _ (by intro s; simp [fr1, fr2])).trans (by simp [fr1, fr2]),
    (writeReg_solver _ _ _ _ _ (by intro s; simp [fr1, fr2])).trans (by simp [fr1, fr2]),
    (writeReg_piste _ _ _ _ _ (by intro s; simp [fr1, fr2])).trans (by simp [fr1, fr2]),
    (writeReg_prof _ _ _ _ _ (by intro s; simp [fr1, fr2])).trans (by simp [fr1, fr2]),
    (writeReg_ctl _ _ _ _ _ (by intro s; simp [fr1, fr2])).trans (by simp [fr1, fr2]),
    (writeReg_sched _ _ _ _ _ (by intro s; simp [fr1, fr2])).trans (by simp [fr1, fr2]),
    (writeReg_dsp _ _ _ _ _ (by intro s; simp [fr1, fr2])).trans (by simp [fr1, fr2]),
    (writeReg_sep _ _ _ _ _ (by intro s; simp [fr1, fr2])).trans (by simp [fr1, fr2]),
    (writeReg_safety _ _ _ _ _ (by intro s; simp [fr1, fr2])).trans (by simp [fr1, fr2]),
    (writeReg_cham _ _ _ _ _ (by intro s; simp [fr1, fr2])).trans (by simp [fr1, fr2]),
    (writeReg_field _ _ _ _ _ (by intro s; simp [fr1, fr2])).trans (by simp [fr1, fr2]),
    (writeReg_acq _ _ _ _ _ (by intro s; simp [fr1, fr2])).trans (by simp [fr1, fr2]),
    (writeReg_logs _ _ _ _ _ (by intro s; simp [fr1, fr2])).trans (by simp [fr1, fr2]),
    (writeReg_power _ _ _ _ _ (by intro s; simp [fr1, fr2])).trans (by simp [fr1, fr2]),
    (writeReg_pair _ _ _ _ _ (by intro s; simp [fr1, fr2])).trans (by simp [fr1, fr2]),
    (writeReg_sec _ _ _ _ _ (by intro s; simp [fr1, fr2])).trans (by simp [fr1, fr2]),
    (writeReg_hw _ _ _ _ _ (by intro s; simp [fr1, fr2])).trans (by simp [fr1, fr2]),
    (writeReg_nor _ _ _ _ _ (by intro s; simp [fr1, fr2])).trans (by simp [fr1, fr2]),
    (writeReg_freeCount _ _ _ _ _ (by intro s; simp [fr1, fr2])).trans (by simp [fr1, fr2])⟩

theorem execSolverDoneClear_frame {x0 : Nat} {x1 : Bool} {x2 : Nat} {s t : State} (h : exec (.solverDoneClear x0 x1 x2) s = .next t) :
    t.mode = s.mode ∧ t.start = s.start ∧ t.writes = s.writes ∧ t.image = s.image ∧ t.objs = s.objs ∧ t.net = s.net ∧ t.plan = s.plan ∧ t.solver = s.solver ∧ t.piste = s.piste ∧ t.prof = s.prof ∧ t.ctl = s.ctl ∧ t.sched = s.sched ∧ t.dsp = s.dsp ∧ t.sep = s.sep ∧ t.safety = s.safety ∧ t.cham = s.cham ∧ t.field = s.field ∧ t.acq = s.acq ∧ t.logs = s.logs ∧ t.power = s.power ∧ t.pair = s.pair ∧ t.sec = s.sec ∧ t.hw = s.hw ∧ t.nor = s.nor ∧ t.freeCount = s.freeCount := by
  have fr1 := @begin_frame; have fr2 := @clearDone_frame
  simp only [exec, execSolverDoneClear, Host.Outcome.next.injEq] at h
  subst h
  exact ⟨(writeReg_mode _ _ _ _ _ (by intro s; simp [fr1, fr2])).trans (by simp [fr1, fr2]),
    (writeReg_start _ _ _ _ _ (by intro s; simp [fr1, fr2])).trans (by simp [fr1, fr2]),
    (writeReg_writes _ _ _ _ _ (by intro s; simp [fr1, fr2])).trans (by simp [fr1, fr2]),
    (writeReg_image _ _ _ _ _ (by intro s; simp [fr1, fr2])).trans (by simp [fr1, fr2]),
    (writeReg_objs _ _ _ _ _ (by intro s; simp [fr1, fr2])).trans (by simp [fr1, fr2]),
    (writeReg_net _ _ _ _ _ (by intro s; simp [fr1, fr2])).trans (by simp [fr1, fr2]),
    (writeReg_plan _ _ _ _ _ (by intro s; simp [fr1, fr2])).trans (by simp [fr1, fr2]),
    (writeReg_solver _ _ _ _ _ (by intro s; simp [fr1, fr2])).trans (by simp [fr1, fr2]),
    (writeReg_piste _ _ _ _ _ (by intro s; simp [fr1, fr2])).trans (by simp [fr1, fr2]),
    (writeReg_prof _ _ _ _ _ (by intro s; simp [fr1, fr2])).trans (by simp [fr1, fr2]),
    (writeReg_ctl _ _ _ _ _ (by intro s; simp [fr1, fr2])).trans (by simp [fr1, fr2]),
    (writeReg_sched _ _ _ _ _ (by intro s; simp [fr1, fr2])).trans (by simp [fr1, fr2]),
    (writeReg_dsp _ _ _ _ _ (by intro s; simp [fr1, fr2])).trans (by simp [fr1, fr2]),
    (writeReg_sep _ _ _ _ _ (by intro s; simp [fr1, fr2])).trans (by simp [fr1, fr2]),
    (writeReg_safety _ _ _ _ _ (by intro s; simp [fr1, fr2])).trans (by simp [fr1, fr2]),
    (writeReg_cham _ _ _ _ _ (by intro s; simp [fr1, fr2])).trans (by simp [fr1, fr2]),
    (writeReg_field _ _ _ _ _ (by intro s; simp [fr1, fr2])).trans (by simp [fr1, fr2]),
    (writeReg_acq _ _ _ _ _ (by intro s; simp [fr1, fr2])).trans (by simp [fr1, fr2]),
    (writeReg_logs _ _ _ _ _ (by intro s; simp [fr1, fr2])).trans (by simp [fr1, fr2]),
    (writeReg_power _ _ _ _ _ (by intro s; simp [fr1, fr2])).trans (by simp [fr1, fr2]),
    (writeReg_pair _ _ _ _ _ (by intro s; simp [fr1, fr2])).trans (by simp [fr1, fr2]),
    (writeReg_sec _ _ _ _ _ (by intro s; simp [fr1, fr2])).trans (by simp [fr1, fr2]),
    (writeReg_hw _ _ _ _ _ (by intro s; simp [fr1, fr2])).trans (by simp [fr1, fr2]),
    (writeReg_nor _ _ _ _ _ (by intro s; simp [fr1, fr2])).trans (by simp [fr1, fr2]),
    (writeReg_freeCount _ _ _ _ _ (by intro s; simp [fr1, fr2])).trans (by simp [fr1, fr2])⟩

theorem execRegisterWrite_frame {x0 : Nat} {x1 : Bool} {x2 : Nat} {x3 : Nat} {x4 : Nat} {s t : State} (h : exec (.registerWrite x0 x1 x2 x3 x4) s = .next t) :
    t.mode = s.mode ∧ t.start = s.start ∧ t.writes = s.writes ∧ t.image = s.image ∧ t.objs = s.objs ∧ t.net = s.net ∧ t.plan = s.plan ∧ t.solver = s.solver ∧ t.piste = s.piste ∧ t.prof = s.prof ∧ t.ctl = s.ctl ∧ t.sched = s.sched ∧ t.dsp = s.dsp ∧ t.sep = s.sep ∧ t.safety = s.safety ∧ t.cham = s.cham ∧ t.field = s.field ∧ t.acq = s.acq ∧ t.logs = s.logs ∧ t.power = s.power ∧ t.pair = s.pair ∧ t.sec = s.sec ∧ t.hw = s.hw ∧ t.nor = s.nor ∧ t.freeCount = s.freeCount := by
  have fr1 := @begin_frame
  simp only [exec, execRegisterWrite, Host.Outcome.next.injEq] at h
  subst h
  split
  · simp [fr1]
  · split
    · simp [fr1]
    · rename_i h
      have g := regEffect_frame h
      exact ⟨(writeReg_mode _ _ _ _ _ (fun s => by simp [g s])).trans (by simp [fr1]),
        (writeReg_start _ _ _ _ _ (fun s => by simp [g s])).trans (by simp [fr1]),
        (writeReg_writes _ _ _ _ _ (fun s => by simp [g s])).trans (by simp [fr1]),
        (writeReg_image _ _ _ _ _ (fun s => by simp [g s])).trans (by simp [fr1]),
        (writeReg_objs _ _ _ _ _ (fun s => by simp [g s])).trans (by simp [fr1]),
        (writeReg_net _ _ _ _ _ (fun s => by simp [g s])).trans (by simp [fr1]),
        (writeReg_plan _ _ _ _ _ (fun s => by simp [g s])).trans (by simp [fr1]),
        (writeReg_solver _ _ _ _ _ (fun s => by simp [g s])).trans (by simp [fr1]),
        (writeReg_piste _ _ _ _ _ (fun s => by simp [g s])).trans (by simp [fr1]),
        (writeReg_prof _ _ _ _ _ (fun s => by simp [g s])).trans (by simp [fr1]),
        (writeReg_ctl _ _ _ _ _ (fun s => by simp [g s])).trans (by simp [fr1]),
        (writeReg_sched _ _ _ _ _ (fun s => by simp [g s])).trans (by simp [fr1]),
        (writeReg_dsp _ _ _ _ _ (fun s => by simp [g s])).trans (by simp [fr1]),
        (writeReg_sep _ _ _ _ _ (fun s => by simp [g s])).trans (by simp [fr1]),
        (writeReg_safety _ _ _ _ _ (fun s => by simp [g s])).trans (by simp [fr1]),
        (writeReg_cham _ _ _ _ _ (fun s => by simp [g s])).trans (by simp [fr1]),
        (writeReg_field _ _ _ _ _ (fun s => by simp [g s])).trans (by simp [fr1]),
        (writeReg_acq _ _ _ _ _ (fun s => by simp [g s])).trans (by simp [fr1]),
        (writeReg_logs _ _ _ _ _ (fun s => by simp [g s])).trans (by simp [fr1]),
        (writeReg_power _ _ _ _ _ (fun s => by simp [g s])).trans (by simp [fr1]),
        (writeReg_pair _ _ _ _ _ (fun s => by simp [g s])).trans (by simp [fr1]),
        (writeReg_sec _ _ _ _ _ (fun s => by simp [g s])).trans (by simp [fr1]),
        (writeReg_hw _ _ _ _ _ (fun s => by simp [g s])).trans (by simp [fr1]),
        (writeReg_nor _ _ _ _ _ (fun s => by simp [g s])).trans (by simp [fr1]),
        (writeReg_freeCount _ _ _ _ _ (fun s => by simp [g s])).trans (by simp [fr1])⟩

theorem execObjWriteEffect_frame {x0 : Nat} {s t : State} (h : exec (.objWriteEffect x0) s = .next t) :
    t.start = s.start ∧ t.image = s.image ∧ t.plan = s.plan ∧ t.sched = s.sched ∧ t.sep = s.sep ∧ t.safety = s.safety ∧ t.cham = s.cham ∧ t.power = s.power ∧ t.sec = s.sec ∧ t.hw = s.hw ∧ t.nor = s.nor := by
  have fr1 := @objWriteEffect_frame; have fr2 := @begin_frame
  simp only [exec, execObjWriteEffect, Host.Outcome.next.injEq] at h
  subst h
  simp [fr1, fr2]

theorem execGateRequestTimeout_frame {x0 : Nat} {s t : State} (h : exec (.gateRequestTimeout x0) s = .next t) :
    t.mode = s.mode ∧ t.start = s.start ∧ t.image = s.image ∧ t.net = s.net ∧ t.plan = s.plan ∧ t.solver = s.solver ∧ t.piste = s.piste ∧ t.prof = s.prof ∧ t.ctl = s.ctl ∧ t.sched = s.sched ∧ t.dsp = s.dsp ∧ t.sep = s.sep ∧ t.safety = s.safety ∧ t.cham = s.cham ∧ t.field = s.field ∧ t.power = s.power ∧ t.pair = s.pair ∧ t.sec = s.sec ∧ t.hw = s.hw ∧ t.nor = s.nor := by
  have fr1 := @gateTimeout_frame; have fr2 := @begin_frame
  simp only [exec, execGateRequestTimeout, Host.Outcome.next.injEq] at h
  subst h
  simp [fr1, fr2]

theorem execSolverAnalysisDone_frame {x0 : Nat} {x1 : Nat} {s t : State} (h : exec (.solverAnalysisDone x0 x1) s = .next t) :
    t.mode = s.mode ∧ t.start = s.start ∧ t.zewen = s.zewen ∧ t.writes = s.writes ∧ t.image = s.image ∧ t.reg = s.reg ∧ t.objs = s.objs ∧ t.net = s.net ∧ t.plan = s.plan ∧ t.piste = s.piste ∧ t.prof = s.prof ∧ t.ctl = s.ctl ∧ t.sched = s.sched ∧ t.dsp = s.dsp ∧ t.sep = s.sep ∧ t.safety = s.safety ∧ t.cham = s.cham ∧ t.field = s.field ∧ t.acq = s.acq ∧ t.logs = s.logs ∧ t.clocks = s.clocks ∧ t.power = s.power ∧ t.pair = s.pair ∧ t.sec = s.sec ∧ t.hw = s.hw ∧ t.nor = s.nor ∧ t.freeCount = s.freeCount := by
  have fr1 := @analysisDone_frame; have fr2 := @begin_frame
  simp only [exec, execSolverAnalysisDone, Host.Outcome.next.injEq] at h
  subst h
  simp [fr1, fr2]

theorem execIpmIterationEnd_frame {x0 : Nat} {x1 : Nat} {s t : State} (h : exec (.ipmIterationEnd x0 x1) s = .next t) :
    t.mode = s.mode ∧ t.start = s.start ∧ t.zewen = s.zewen ∧ t.writes = s.writes ∧ t.image = s.image ∧ t.reg = s.reg ∧ t.objs = s.objs ∧ t.net = s.net ∧ t.plan = s.plan ∧ t.piste = s.piste ∧ t.prof = s.prof ∧ t.ctl = s.ctl ∧ t.sched = s.sched ∧ t.dsp = s.dsp ∧ t.sep = s.sep ∧ t.safety = s.safety ∧ t.cham = s.cham ∧ t.field = s.field ∧ t.acq = s.acq ∧ t.logs = s.logs ∧ t.clocks = s.clocks ∧ t.power = s.power ∧ t.pair = s.pair ∧ t.sec = s.sec ∧ t.hw = s.hw ∧ t.nor = s.nor ∧ t.freeCount = s.freeCount := by
  have fr1 := @iterationEnd_frame; have fr2 := @begin_frame
  simp only [exec, execIpmIterationEnd, Host.Outcome.next.injEq] at h
  subst h
  simp [fr1, fr2]

theorem execSolverRunEnd_frame {x0 : Nat} {x1 : Nat} {s t : State} (h : exec (.solverRunEnd x0 x1) s = .next t) :
    t.mode = s.mode ∧ t.start = s.start ∧ t.writes = s.writes ∧ t.image = s.image ∧ t.net = s.net ∧ t.piste = s.piste ∧ t.prof = s.prof ∧ t.ctl = s.ctl ∧ t.sched = s.sched ∧ t.dsp = s.dsp ∧ t.sep = s.sep ∧ t.safety = s.safety ∧ t.cham = s.cham ∧ t.field = s.field ∧ t.clocks = s.clocks ∧ t.power = s.power ∧ t.pair = s.pair ∧ t.sec = s.sec ∧ t.hw = s.hw ∧ t.nor = s.nor := by
  have fr1 := @runEnd_frame; have fr2 := @begin_frame
  simp only [exec, execSolverRunEnd, Host.Outcome.next.injEq] at h
  subst h
  simp [fr1, fr2]

theorem execSolveDeadline_frame {x0 : Nat} {x1 : Bool} {x2 : Bool} {s t : State} (h : exec (.solveDeadline x0 x1 x2) s = .next t) :
    t.mode = s.mode ∧ t.start = s.start ∧ t.zewen = s.zewen ∧ t.writes = s.writes ∧ t.image = s.image ∧ t.reg = s.reg ∧ t.objs = s.objs ∧ t.net = s.net ∧ t.plan = s.plan ∧ t.piste = s.piste ∧ t.prof = s.prof ∧ t.ctl = s.ctl ∧ t.sched = s.sched ∧ t.dsp = s.dsp ∧ t.sep = s.sep ∧ t.safety = s.safety ∧ t.cham = s.cham ∧ t.field = s.field ∧ t.acq = s.acq ∧ t.logs = s.logs ∧ t.clocks = s.clocks ∧ t.power = s.power ∧ t.pair = s.pair ∧ t.sec = s.sec ∧ t.hw = s.hw ∧ t.nor = s.nor ∧ t.freeCount = s.freeCount := by
  have fr1 := @solveDeadline_frame; have fr2 := @begin_frame
  simp only [exec, execSolveDeadline, Host.Outcome.next.injEq] at h
  subst h
  simp [fr1, fr2]

theorem execHostRunResume_frame {x0 : Nat} {s t : State} (h : exec (.hostRunResume x0) s = .next t) :
    t.mode = s.mode ∧ t.start = s.start ∧ t.zewen = s.zewen ∧ t.writes = s.writes ∧ t.image = s.image ∧ t.reg = s.reg ∧ t.objs = s.objs ∧ t.net = s.net ∧ t.plan = s.plan ∧ t.piste = s.piste ∧ t.prof = s.prof ∧ t.ctl = s.ctl ∧ t.sched = s.sched ∧ t.dsp = s.dsp ∧ t.sep = s.sep ∧ t.safety = s.safety ∧ t.cham = s.cham ∧ t.field = s.field ∧ t.acq = s.acq ∧ t.logs = s.logs ∧ t.clocks = s.clocks ∧ t.power = s.power ∧ t.pair = s.pair ∧ t.sec = s.sec ∧ t.hw = s.hw ∧ t.nor = s.nor ∧ t.freeCount = s.freeCount := by
  have fr1 := @hostResume_frame; have fr2 := @begin_frame
  simp only [exec, execHostRunResume, Host.Outcome.next.injEq] at h
  subst h
  simp [fr1, fr2]

theorem execSolverSramUncorrectable_frame {x0 : Nat} {x1 : Nat} {s t : State} (h : exec (.solverSramUncorrectable x0 x1) s = .next t) :
    t.writes = s.writes ∧ t.image = s.image ∧ t.net = s.net ∧ t.plan = s.plan ∧ t.piste = s.piste ∧ t.prof = s.prof ∧ t.ctl = s.ctl ∧ t.sched = s.sched ∧ t.dsp = s.dsp ∧ t.sep = s.sep ∧ t.safety = s.safety ∧ t.cham = s.cham ∧ t.field = s.field ∧ t.clocks = s.clocks ∧ t.power = s.power ∧ t.pair = s.pair ∧ t.sec = s.sec ∧ t.hw = s.hw := by
  have fr1 := @begin_frame; have fr2 := @runsIsolated_frame; have fr3 := @isolate_frame
  simp only [exec, execSolverSramUncorrectable, Host.Outcome.next.injEq] at h
  subst h
  simp [fr1, fr2, fr3]

theorem execTickStart_frame  {s t : State} (h : exec (.tickStart) s = .next t) :
    t.sec = s.sec ∧ t.hw = s.hw := by
  have fr1 := @tickStarts_frame
  simp only [exec, execTickStart, Host.Outcome.next.injEq] at h
  subst h
  simp [fr1]

theorem execModeTransitionComplete_frame {x0 : Nat} {s t : State} (h : exec (.modeTransitionComplete x0) s = .next t) :
    t.start = s.start ∧ t.writes = s.writes ∧ t.image = s.image ∧ t.net = s.net ∧ t.plan = s.plan ∧ t.solver = s.solver ∧ t.piste = s.piste ∧ t.prof = s.prof ∧ t.ctl = s.ctl ∧ t.sched = s.sched ∧ t.dsp = s.dsp ∧ t.sep = s.sep ∧ t.safety = s.safety ∧ t.cham = s.cham ∧ t.field = s.field ∧ t.clocks = s.clocks ∧ t.power = s.power ∧ t.pair = s.pair ∧ t.sec = s.sec ∧ t.hw = s.hw ∧ t.nor = s.nor := by
  have fr1 := @modeTransitionComplete_frame; have fr2 := @begin_frame
  simp only [exec, execModeTransitionComplete, Host.Outcome.next.injEq] at h
  subst h
  simp [fr1, fr2]

theorem execProfilePass_frame {x0 : Nat} {s t : State} (h : exec (.profilePass x0) s = .next t) :
    t.mode = s.mode ∧ t.start = s.start ∧ t.writes = s.writes ∧ t.image = s.image ∧ t.net = s.net ∧ t.solver = s.solver ∧ t.dsp = s.dsp ∧ t.sep = s.sep ∧ t.safety = s.safety ∧ t.cham = s.cham ∧ t.field = s.field ∧ t.clocks = s.clocks ∧ t.power = s.power ∧ t.sec = s.sec ∧ t.hw = s.hw ∧ t.nor = s.nor := by
  have fr1 := @begin_frame; have fr2 := @mirrorSend_frame; have fr3 := @profilePass_frame
  simp only [exec, execProfilePass, Host.Outcome.next.injEq] at h
  subst h
  simp [fr1, fr2, fr3]

theorem execArbiterPass_frame {x0 : Nat} {s t : State} (h : exec (.arbiterPass x0) s = .next t) :
    t.start = s.start ∧ t.writes = s.writes ∧ t.image = s.image ∧ t.net = s.net ∧ t.plan = s.plan ∧ t.solver = s.solver ∧ t.prof = s.prof ∧ t.ctl = s.ctl ∧ t.sched = s.sched ∧ t.dsp = s.dsp ∧ t.sep = s.sep ∧ t.safety = s.safety ∧ t.cham = s.cham ∧ t.field = s.field ∧ t.clocks = s.clocks ∧ t.power = s.power ∧ t.sec = s.sec ∧ t.hw = s.hw ∧ t.nor = s.nor := by
  have fr1 := @begin_frame; have fr2 := @arbiterPass_frame
  simp only [exec, execArbiterPass, Host.Outcome.next.injEq] at h
  subst h
  simp [fr1, fr2]

theorem execLeaseExpiry_frame {x0 : Nat} {x1 : Nat} {s t : State} (h : exec (.leaseExpiry x0 x1) s = .next t) :
    t.mode = s.mode ∧ t.start = s.start ∧ t.zewen = s.zewen ∧ t.writes = s.writes ∧ t.image = s.image ∧ t.reg = s.reg ∧ t.net = s.net ∧ t.plan = s.plan ∧ t.solver = s.solver ∧ t.prof = s.prof ∧ t.ctl = s.ctl ∧ t.sched = s.sched ∧ t.dsp = s.dsp ∧ t.sep = s.sep ∧ t.safety = s.safety ∧ t.cham = s.cham ∧ t.field = s.field ∧ t.acq = s.acq ∧ t.logs = s.logs ∧ t.clocks = s.clocks ∧ t.power = s.power ∧ t.pair = s.pair ∧ t.sec = s.sec ∧ t.hw = s.hw ∧ t.nor = s.nor := by
  have fr1 := @begin_frame; have fr2 := @expireLeases_frame
  simp only [exec, execLeaseExpiry, Host.Outcome.next.injEq] at h
  subst h
  simp [fr1, fr2]

theorem execPlannerSnapshot_frame {x0 : Nat} {s t : State} (h : exec (.plannerSnapshot x0) s = .next t) :
    t.mode = s.mode ∧ t.start = s.start ∧ t.writes = s.writes ∧ t.image = s.image ∧ t.net = s.net ∧ t.solver = s.solver ∧ t.piste = s.piste ∧ t.prof = s.prof ∧ t.ctl = s.ctl ∧ t.sched = s.sched ∧ t.dsp = s.dsp ∧ t.sep = s.sep ∧ t.safety = s.safety ∧ t.cham = s.cham ∧ t.field = s.field ∧ t.clocks = s.clocks ∧ t.power = s.power ∧ t.pair = s.pair ∧ t.sec = s.sec ∧ t.hw = s.hw ∧ t.nor = s.nor := by
  have fr1 := @begin_frame; have fr2 := @plannerSnapshot_frame
  simp only [exec, execPlannerSnapshot, Host.Outcome.next.injEq] at h
  subst h
  simp [fr1, fr2]

theorem execPlannerPost_frame {x0 : Nat} {s t : State} (h : exec (.plannerPost x0) s = .next t) :
    t.mode = s.mode ∧ t.start = s.start ∧ t.writes = s.writes ∧ t.image = s.image ∧ t.net = s.net ∧ t.piste = s.piste ∧ t.prof = s.prof ∧ t.ctl = s.ctl ∧ t.sched = s.sched ∧ t.dsp = s.dsp ∧ t.sep = s.sep ∧ t.safety = s.safety ∧ t.cham = s.cham ∧ t.field = s.field ∧ t.clocks = s.clocks ∧ t.power = s.power ∧ t.pair = s.pair ∧ t.sec = s.sec ∧ t.hw = s.hw ∧ t.nor = s.nor := by
  have fr1 := @begin_frame; have fr2 := @plannerPost_frame
  simp only [exec, execPlannerPost, Host.Outcome.next.injEq] at h
  subst h
  simp [fr1, fr2]

theorem execCommitTest_frame {x0 : Nat} {s t : State} (h : exec (.commitTest x0) s = .next t) :
    t.mode = s.mode ∧ t.start = s.start ∧ t.writes = s.writes ∧ t.image = s.image ∧ t.net = s.net ∧ t.solver = s.solver ∧ t.prof = s.prof ∧ t.ctl = s.ctl ∧ t.sched = s.sched ∧ t.dsp = s.dsp ∧ t.sep = s.sep ∧ t.safety = s.safety ∧ t.cham = s.cham ∧ t.field = s.field ∧ t.clocks = s.clocks ∧ t.power = s.power ∧ t.pair = s.pair ∧ t.sec = s.sec ∧ t.hw = s.hw ∧ t.nor = s.nor := by
  have fr1 := @begin_frame; have fr2 := @planFails_frame; have fr3 := @commitTest_frame
  simp only [exec, execCommitTest, Host.Outcome.next.injEq] at h
  subst h
  simp [fr1, fr2, fr3]

theorem execCommitCutoff_frame {x0 : Nat} {s t : State} (h : exec (.commitCutoff x0) s = .next t) :
    t.mode = s.mode ∧ t.start = s.start ∧ t.writes = s.writes ∧ t.image = s.image ∧ t.net = s.net ∧ t.solver = s.solver ∧ t.piste = s.piste ∧ t.prof = s.prof ∧ t.ctl = s.ctl ∧ t.sched = s.sched ∧ t.dsp = s.dsp ∧ t.sep = s.sep ∧ t.safety = s.safety ∧ t.cham = s.cham ∧ t.field = s.field ∧ t.clocks = s.clocks ∧ t.power = s.power ∧ t.pair = s.pair ∧ t.sec = s.sec ∧ t.hw = s.hw ∧ t.nor = s.nor := by
  have fr1 := @begin_frame; have fr2 := @planFails_frame
  simp only [exec, execCommitCutoff, Host.Outcome.next.injEq] at h
  subst h
  simp [fr1, fr2]

theorem execSeparationStep_frame {x0 : Nat} {s t : State} (h : exec (.separationStep x0) s = .next t) :
    t.mode = s.mode ∧ t.start = s.start ∧ t.zewen = s.zewen ∧ t.writes = s.writes ∧ t.image = s.image ∧ t.reg = s.reg ∧ t.net = s.net ∧ t.plan = s.plan ∧ t.solver = s.solver ∧ t.piste = s.piste ∧ t.prof = s.prof ∧ t.ctl = s.ctl ∧ t.sched = s.sched ∧ t.dsp = s.dsp ∧ t.safety = s.safety ∧ t.cham = s.cham ∧ t.field = s.field ∧ t.acq = s.acq ∧ t.logs = s.logs ∧ t.clocks = s.clocks ∧ t.power = s.power ∧ t.pair = s.pair ∧ t.sec = s.sec ∧ t.hw = s.hw ∧ t.nor = s.nor := by
  have fr1 := @begin_frame; have fr2 := @separationStep_frame
  simp only [exec, execSeparationStep, Host.Outcome.next.injEq] at h
  subst h
  simp [fr1, fr2]

theorem execProcessorResult_frame {x0 : Nat} {s t : State} (h : exec (.processorResult x0) s = .next t) :
    t.writes = s.writes ∧ t.image = s.image ∧ t.net = s.net ∧ t.plan = s.plan ∧ t.solver = s.solver ∧ t.piste = s.piste ∧ t.prof = s.prof ∧ t.ctl = s.ctl ∧ t.sched = s.sched ∧ t.dsp = s.dsp ∧ t.field = s.field ∧ t.clocks = s.clocks ∧ t.power = s.power ∧ t.pair = s.pair ∧ t.sec = s.sec ∧ t.hw = s.hw := by
  have fr1 := @begin_frame; have fr2 := @channelResult_frame; have fr3 := @withSep_frame
  simp only [exec, execProcessorResult, Host.Outcome.next.injEq] at h
  subst h
  simp [fr1, fr2, fr3]

theorem execChamoisResult_frame {x0 : Nat} {s t : State} (h : exec (.chamoisResult x0) s = .next t) :
    t.writes = s.writes ∧ t.image = s.image ∧ t.net = s.net ∧ t.plan = s.plan ∧ t.solver = s.solver ∧ t.piste = s.piste ∧ t.prof = s.prof ∧ t.ctl = s.ctl ∧ t.sched = s.sched ∧ t.dsp = s.dsp ∧ t.field = s.field ∧ t.clocks = s.clocks ∧ t.power = s.power ∧ t.pair = s.pair ∧ t.sec = s.sec ∧ t.hw = s.hw := by
  have fr1 := @begin_frame; have fr2 := @channelResult_frame; have fr3 := @withSep_frame
  simp only [exec, execChamoisResult, Host.Outcome.next.injEq] at h
  subst h
  simp [fr1, fr2, fr3]

theorem execSeparationCombination_frame {x0 : Nat} {s t : State} (h : exec (.separationCombination x0) s = .next t) :
    t.writes = s.writes ∧ t.image = s.image ∧ t.net = s.net ∧ t.plan = s.plan ∧ t.solver = s.solver ∧ t.piste = s.piste ∧ t.prof = s.prof ∧ t.ctl = s.ctl ∧ t.sched = s.sched ∧ t.dsp = s.dsp ∧ t.safety = s.safety ∧ t.cham = s.cham ∧ t.field = s.field ∧ t.clocks = s.clocks ∧ t.power = s.power ∧ t.pair = s.pair ∧ t.sec = s.sec ∧ t.hw = s.hw := by
  have fr1 := @begin_frame; have fr2 := @combine_frame
  simp only [exec, execSeparationCombination, Host.Outcome.next.injEq] at h
  subst h
  simp [fr1, fr2]

theorem execJointStale_frame {x0 : Nat} {x1 : Bool} {x2 : Nat} {s t : State} (h : exec (.jointStale x0 x1 x2) s = .next t) :
    t.mode = s.mode ∧ t.start = s.start ∧ t.zewen = s.zewen ∧ t.writes = s.writes ∧ t.image = s.image ∧ t.reg = s.reg ∧ t.objs = s.objs ∧ t.net = s.net ∧ t.plan = s.plan ∧ t.solver = s.solver ∧ t.piste = s.piste ∧ t.prof = s.prof ∧ t.ctl = s.ctl ∧ t.sched = s.sched ∧ t.dsp = s.dsp ∧ t.safety = s.safety ∧ t.cham = s.cham ∧ t.field = s.field ∧ t.acq = s.acq ∧ t.logs = s.logs ∧ t.clocks = s.clocks ∧ t.power = s.power ∧ t.pair = s.pair ∧ t.sec = s.sec ∧ t.hw = s.hw ∧ t.nor = s.nor ∧ t.freeCount = s.freeCount := by
  have fr1 := @begin_frame; have fr2 := @demand_frame; have fr3 := @withSep_frame
  simp only [exec, execJointStale, Host.Outcome.next.injEq] at h
  subst h
  simp [fr1, fr2, fr3]

theorem execSensorWorst_frame {x0 : Nat} {x1 : Nat} {s t : State} (h : exec (.sensorWorst x0 x1) s = .next t) :
    t.mode = s.mode ∧ t.start = s.start ∧ t.writes = s.writes ∧ t.image = s.image ∧ t.net = s.net ∧ t.plan = s.plan ∧ t.solver = s.solver ∧ t.piste = s.piste ∧ t.prof = s.prof ∧ t.ctl = s.ctl ∧ t.sched = s.sched ∧ t.dsp = s.dsp ∧ t.safety = s.safety ∧ t.cham = s.cham ∧ t.field = s.field ∧ t.clocks = s.clocks ∧ t.power = s.power ∧ t.pair = s.pair ∧ t.sec = s.sec ∧ t.hw = s.hw ∧ t.nor = s.nor := by
  have fr1 := @begin_frame; have fr2 := @bump_frame; have fr3 := @withSep_frame; have fr4 := @log_frame
  simp only [exec, execSensorWorst, Host.Outcome.next.injEq] at h
  subst h
  simp [fr1, fr2, fr3, fr4]

theorem execSs2Release_frame {x0 : Nat} {x1 : Nat} {s t : State} (h : exec (.ss2Release x0 x1) s = .next t) :
    t.mode = s.mode ∧ t.start = s.start ∧ t.zewen = s.zewen ∧ t.writes = s.writes ∧ t.image = s.image ∧ t.reg = s.reg ∧ t.objs = s.objs ∧ t.net = s.net ∧ t.plan = s.plan ∧ t.solver = s.solver ∧ t.piste = s.piste ∧ t.prof = s.prof ∧ t.ctl = s.ctl ∧ t.sched = s.sched ∧ t.dsp = s.dsp ∧ t.safety = s.safety ∧ t.cham = s.cham ∧ t.field = s.field ∧ t.acq = s.acq ∧ t.logs = s.logs ∧ t.clocks = s.clocks ∧ t.power = s.power ∧ t.pair = s.pair ∧ t.sec = s.sec ∧ t.hw = s.hw ∧ t.nor = s.nor ∧ t.freeCount = s.freeCount := by
  have fr1 := @begin_frame; have fr2 := @withSep_frame
  simp only [exec, execSs2Release, Host.Outcome.next.injEq] at h
  subst h
  simp [fr1, fr2]

theorem execDownstreamCommitPoint_frame {x0 : Nat} {x1 : Bool} {x2 : Nat} {s t : State} (h : exec (.downstreamCommitPoint x0 x1 x2) s = .next t) :
    t.mode = s.mode ∧ t.start = s.start ∧ t.zewen = s.zewen ∧ t.writes = s.writes ∧ t.image = s.image ∧ t.reg = s.reg ∧ t.plan = s.plan ∧ t.solver = s.solver ∧ t.piste = s.piste ∧ t.prof = s.prof ∧ t.ctl = s.ctl ∧ t.sched = s.sched ∧ t.dsp = s.dsp ∧ t.sep = s.sep ∧ t.cham = s.cham ∧ t.field = s.field ∧ t.acq = s.acq ∧ t.logs = s.logs ∧ t.clocks = s.clocks ∧ t.power = s.power ∧ t.pair = s.pair ∧ t.sec = s.sec ∧ t.hw = s.hw ∧ t.nor = s.nor := by
  have fr1 := @commitPoint_frame; have fr2 := @begin_frame
  simp only [exec, execDownstreamCommitPoint, Host.Outcome.next.injEq] at h
  subst h
  simp [fr1, fr2]

theorem execProcessFrameRx_frame {x0 : Nat} {x1 : RxFrame} {s t : State} (h : exec (.processFrameRx x0 x1) s = .next t) :
    t.mode = s.mode ∧ t.start = s.start ∧ t.zewen = s.zewen ∧ t.writes = s.writes ∧ t.image = s.image ∧ t.reg = s.reg ∧ t.plan = s.plan ∧ t.solver = s.solver ∧ t.piste = s.piste ∧ t.prof = s.prof ∧ t.dsp = s.dsp ∧ t.cham = s.cham ∧ t.field = s.field ∧ t.acq = s.acq ∧ t.logs = s.logs ∧ t.clocks = s.clocks ∧ t.power = s.power ∧ t.sec = s.sec ∧ t.hw = s.hw ∧ t.nor = s.nor := by
  have fr1 := @noteForeign_frame; have fr2 := @begin_frame; have fr3 := @received_frame; have fr4 := @takeProcess_frame; have fr5 := @noteAccepted_frame
  simp only [exec, execProcessFrameRx, Host.Outcome.next.injEq] at h
  subst h
  split
  · simp [fr1, fr2, fr3, fr4, fr5]
  · split <;> rename_i g
    · have := checkStatic_discard_frame g
      simp_all
    · have := checkStatic_accept_frame g
      split <;> simp_all

theorem execSafetyFrameRx_frame {x0 : Nat} {x1 : RxFrame} {s t : State} (h : exec (.safetyFrameRx x0 x1) s = .next t) :
    t.mode = s.mode ∧ t.start = s.start ∧ t.zewen = s.zewen ∧ t.writes = s.writes ∧ t.image = s.image ∧ t.reg = s.reg ∧ t.plan = s.plan ∧ t.solver = s.solver ∧ t.piste = s.piste ∧ t.prof = s.prof ∧ t.dsp = s.dsp ∧ t.cham = s.cham ∧ t.field = s.field ∧ t.acq = s.acq ∧ t.logs = s.logs ∧ t.clocks = s.clocks ∧ t.power = s.power ∧ t.sec = s.sec ∧ t.hw = s.hw ∧ t.nor = s.nor := by
  have fr1 := @noteForeign_frame; have fr2 := @begin_frame; have fr3 := @received_frame; have fr4 := @takeSafety_frame
  simp only [exec, execSafetyFrameRx, Host.Outcome.next.injEq] at h
  subst h
  split
  · simp [fr1, fr2, fr3, fr4]
  · split <;> rename_i g
    · have := checkStatic_discard_frame g
      simp_all
    · have := checkStatic_accept_frame g
      split <;> simp_all

theorem execMessageRx_frame {x0 : Nat} {x1 : RxFrame} {s t : State} (h : exec (.messageRx x0 x1) s = .next t) :
    t.mode = s.mode ∧ t.start = s.start ∧ t.writes = s.writes ∧ t.image = s.image ∧ t.plan = s.plan ∧ t.solver = s.solver ∧ t.piste = s.piste ∧ t.prof = s.prof ∧ t.ctl = s.ctl ∧ t.sched = s.sched ∧ t.dsp = s.dsp ∧ t.sep = s.sep ∧ t.safety = s.safety ∧ t.cham = s.cham ∧ t.field = s.field ∧ t.acq = s.acq ∧ t.logs = s.logs ∧ t.clocks = s.clocks ∧ t.power = s.power ∧ t.pair = s.pair ∧ t.sec = s.sec ∧ t.hw = s.hw ∧ t.nor = s.nor := by
  have fr1 := @begin_frame; have fr2 := @received_frame; have fr3 := @countNode_frame; have fr4 := @checkDynamic_frame; have fr5 := @messageRx_frame
  simp only [exec, execMessageRx, Host.Outcome.next.injEq] at h
  subst h
  simp [fr1, fr2, fr3, fr4, fr5]

theorem execDelayRespRx_frame {x0 : Nat} {x1 : RxFrame} {s t : State} (h : exec (.delayRespRx x0 x1) s = .next t) :
    t.mode = s.mode ∧ t.start = s.start ∧ t.zewen = s.zewen ∧ t.writes = s.writes ∧ t.image = s.image ∧ t.reg = s.reg ∧ t.plan = s.plan ∧ t.solver = s.solver ∧ t.piste = s.piste ∧ t.prof = s.prof ∧ t.ctl = s.ctl ∧ t.sched = s.sched ∧ t.dsp = s.dsp ∧ t.sep = s.sep ∧ t.safety = s.safety ∧ t.cham = s.cham ∧ t.field = s.field ∧ t.acq = s.acq ∧ t.logs = s.logs ∧ t.clocks = s.clocks ∧ t.power = s.power ∧ t.sec = s.sec ∧ t.hw = s.hw ∧ t.nor = s.nor := by
  have fr1 := @begin_frame; have fr2 := @received_frame; have fr3 := @countNode_frame; have fr4 := @checkDynamic_frame; have fr5 := @noteD12_frame; have fr6 := @measure_frame; have fr7 := @withNet_frame
  simp only [exec, execDelayRespRx, Host.Outcome.next.injEq] at h
  subst h
  (repeat' split) <;> simp [fr1, fr2, fr3, fr4, fr5, fr6, fr7]

theorem execStartupRx_frame {x0 : Nat} {x1 : RxFrame} {s t : State} (h : exec (.startupRx x0 x1) s = .next t) :
    t.mode = s.mode ∧ t.start = s.start ∧ t.zewen = s.zewen ∧ t.writes = s.writes ∧ t.image = s.image ∧ t.reg = s.reg ∧ t.plan = s.plan ∧ t.solver = s.solver ∧ t.piste = s.piste ∧ t.prof = s.prof ∧ t.ctl = s.ctl ∧ t.sched = s.sched ∧ t.dsp = s.dsp ∧ t.sep = s.sep ∧ t.safety = s.safety ∧ t.cham = s.cham ∧ t.field = s.field ∧ t.acq = s.acq ∧ t.logs = s.logs ∧ t.clocks = s.clocks ∧ t.power = s.power ∧ t.pair = s.pair ∧ t.sec = s.sec ∧ t.hw = s.hw ∧ t.nor = s.nor := by
  have fr1 := @received_frame; have fr2 := @begin_frame; have fr3 := @startupRx_frame
  simp only [exec, execStartupRx, Host.Outcome.next.injEq] at h
  subst h
  simp [fr1, fr2, fr3]

theorem execSlotWindowClose_frame {x0 : Nat} {x1 : Nat} {s t : State} (h : exec (.slotWindowClose x0 x1) s = .next t) :
    t.mode = s.mode ∧ t.start = s.start ∧ t.zewen = s.zewen ∧ t.writes = s.writes ∧ t.image = s.image ∧ t.reg = s.reg ∧ t.plan = s.plan ∧ t.solver = s.solver ∧ t.piste = s.piste ∧ t.prof = s.prof ∧ t.dsp = s.dsp ∧ t.sep = s.sep ∧ t.cham = s.cham ∧ t.field = s.field ∧ t.acq = s.acq ∧ t.logs = s.logs ∧ t.clocks = s.clocks ∧ t.power = s.power ∧ t.pair = s.pair ∧ t.sec = s.sec ∧ t.hw = s.hw ∧ t.nor = s.nor := by
  have fr1 := @begin_frame; have fr2 := @windowShut_frame
  simp only [exec, execSlotWindowClose, Host.Outcome.next.injEq] at h
  subst h
  simp [fr1, fr2]

theorem execDownstreamNitStart_frame {x0 : Nat} {s t : State} (h : exec (.downstreamNitStart x0) s = .next t) :
    t.mode = s.mode ∧ t.start = s.start ∧ t.zewen = s.zewen ∧ t.writes = s.writes ∧ t.image = s.image ∧ t.reg = s.reg ∧ t.objs = s.objs ∧ t.plan = s.plan ∧ t.solver = s.solver ∧ t.piste = s.piste ∧ t.prof = s.prof ∧ t.ctl = s.ctl ∧ t.sched = s.sched ∧ t.dsp = s.dsp ∧ t.sep = s.sep ∧ t.safety = s.safety ∧ t.cham = s.cham ∧ t.field = s.field ∧ t.acq = s.acq ∧ t.logs = s.logs ∧ t.clocks = s.clocks ∧ t.power = s.power ∧ t.pair = s.pair ∧ t.sec = s.sec ∧ t.hw = s.hw ∧ t.nor = s.nor ∧ t.freeCount = s.freeCount := by
  have fr1 := @begin_frame; have fr2 := @judgeRing_frame
  simp only [exec, execDownstreamNitStart, Host.Outcome.next.injEq] at h
  subst h
  simp [fr1, fr2]

theorem execRingRestoreAt_frame {x0 : Nat} {x1 : Nat} {s t : State} (h : exec (.ringRestoreAt x0 x1) s = .next t) :
    t.mode = s.mode ∧ t.start = s.start ∧ t.zewen = s.zewen ∧ t.writes = s.writes ∧ t.image = s.image ∧ t.reg = s.reg ∧ t.objs = s.objs ∧ t.plan = s.plan ∧ t.solver = s.solver ∧ t.piste = s.piste ∧ t.prof = s.prof ∧ t.ctl = s.ctl ∧ t.sched = s.sched ∧ t.dsp = s.dsp ∧ t.sep = s.sep ∧ t.safety = s.safety ∧ t.cham = s.cham ∧ t.field = s.field ∧ t.acq = s.acq ∧ t.logs = s.logs ∧ t.clocks = s.clocks ∧ t.power = s.power ∧ t.pair = s.pair ∧ t.sec = s.sec ∧ t.hw = s.hw ∧ t.nor = s.nor ∧ t.freeCount = s.freeCount := by
  have fr1 := @begin_frame; have fr2 := @withNet_frame
  simp only [exec, execRingRestoreAt, Host.Outcome.next.injEq] at h
  subst h
  simp [fr1, fr2]

theorem execListenTimeout_frame {x0 : Nat} {s t : State} (h : exec (.listenTimeout x0) s = .next t) :
    t.mode = s.mode ∧ t.start = s.start ∧ t.zewen = s.zewen ∧ t.writes = s.writes ∧ t.image = s.image ∧ t.reg = s.reg ∧ t.objs = s.objs ∧ t.plan = s.plan ∧ t.solver = s.solver ∧ t.piste = s.piste ∧ t.prof = s.prof ∧ t.ctl = s.ctl ∧ t.sched = s.sched ∧ t.dsp = s.dsp ∧ t.sep = s.sep ∧ t.safety = s.safety ∧ t.cham = s.cham ∧ t.field = s.field ∧ t.acq = s.acq ∧ t.logs = s.logs ∧ t.clocks = s.clocks ∧ t.power = s.power ∧ t.pair = s.pair ∧ t.sec = s.sec ∧ t.hw = s.hw ∧ t.nor = s.nor ∧ t.freeCount = s.freeCount := by
  have fr1 := @begin_frame; have fr2 := @coldStart'_frame
  simp only [exec, execListenTimeout, Host.Outcome.next.injEq] at h
  subst h
  simp [fr1, fr2]

theorem execStartWindowClose_frame {x0 : Nat} {s t : State} (h : exec (.startWindowClose x0) s = .next t) :
    t.mode = s.mode ∧ t.start = s.start ∧ t.zewen = s.zewen ∧ t.writes = s.writes ∧ t.image = s.image ∧ t.reg = s.reg ∧ t.objs = s.objs ∧ t.plan = s.plan ∧ t.solver = s.solver ∧ t.piste = s.piste ∧ t.prof = s.prof ∧ t.ctl = s.ctl ∧ t.sched = s.sched ∧ t.dsp = s.dsp ∧ t.sep = s.sep ∧ t.safety = s.safety ∧ t.cham = s.cham ∧ t.field = s.field ∧ t.acq = s.acq ∧ t.logs = s.logs ∧ t.clocks = s.clocks ∧ t.power = s.power ∧ t.pair = s.pair ∧ t.sec = s.sec ∧ t.hw = s.hw ∧ t.nor = s.nor ∧ t.freeCount = s.freeCount := by
  have fr1 := @begin_frame; have fr2 := @settleStart_frame; have fr3 := @withNet_frame
  simp only [exec, execStartWindowClose, Host.Outcome.next.injEq] at h
  subst h
  simp [fr1, fr2, fr3]

theorem execBackoffEnd_frame {x0 : Nat} {s t : State} (h : exec (.backoffEnd x0) s = .next t) :
    t.mode = s.mode ∧ t.start = s.start ∧ t.zewen = s.zewen ∧ t.writes = s.writes ∧ t.image = s.image ∧ t.reg = s.reg ∧ t.objs = s.objs ∧ t.plan = s.plan ∧ t.solver = s.solver ∧ t.piste = s.piste ∧ t.prof = s.prof ∧ t.ctl = s.ctl ∧ t.sched = s.sched ∧ t.dsp = s.dsp ∧ t.sep = s.sep ∧ t.safety = s.safety ∧ t.cham = s.cham ∧ t.field = s.field ∧ t.acq = s.acq ∧ t.logs = s.logs ∧ t.clocks = s.clocks ∧ t.power = s.power ∧ t.pair = s.pair ∧ t.sec = s.sec ∧ t.hw = s.hw ∧ t.nor = s.nor ∧ t.freeCount = s.freeCount := by
  have fr1 := @begin_frame; have fr2 := @withNet_frame; have fr3 := @coldStart'_frame; have fr4 := @sendFrame_frame
  simp only [exec, execBackoffEnd, Host.Outcome.next.injEq] at h
  subst h
  split <;> simp [fr1, fr2, fr3, fr4]

theorem execNodeIntegrated_frame {x0 : Nat} {x1 : Nat} {s t : State} (h : exec (.nodeIntegrated x0 x1) s = .next t) :
    t.mode = s.mode ∧ t.start = s.start ∧ t.zewen = s.zewen ∧ t.writes = s.writes ∧ t.image = s.image ∧ t.reg = s.reg ∧ t.plan = s.plan ∧ t.solver = s.solver ∧ t.piste = s.piste ∧ t.prof = s.prof ∧ t.ctl = s.ctl ∧ t.sched = s.sched ∧ t.dsp = s.dsp ∧ t.sep = s.sep ∧ t.safety = s.safety ∧ t.cham = s.cham ∧ t.field = s.field ∧ t.acq = s.acq ∧ t.logs = s.logs ∧ t.clocks = s.clocks ∧ t.power = s.power ∧ t.pair = s.pair ∧ t.sec = s.sec ∧ t.hw = s.hw ∧ t.nor = s.nor := by
  have fr1 := @begin_frame; have fr2 := @settleStart_frame; have fr3 := @bump_frame; have fr4 := @setNode_frame
  simp only [exec, execNodeIntegrated, Host.Outcome.next.injEq] at h
  subst h
  simp [fr1, fr2, fr3, fr4]

theorem execNodeLost_frame {x0 : Nat} {x1 : Nat} {s t : State} (h : exec (.nodeLost x0 x1) s = .next t) :
    t.mode = s.mode ∧ t.start = s.start ∧ t.writes = s.writes ∧ t.image = s.image ∧ t.plan = s.plan ∧ t.solver = s.solver ∧ t.piste = s.piste ∧ t.prof = s.prof ∧ t.ctl = s.ctl ∧ t.sched = s.sched ∧ t.dsp = s.dsp ∧ t.sep = s.sep ∧ t.safety = s.safety ∧ t.cham = s.cham ∧ t.field = s.field ∧ t.clocks = s.clocks ∧ t.power = s.power ∧ t.pair = s.pair ∧ t.sec = s.sec ∧ t.hw = s.hw ∧ t.nor = s.nor := by
  have fr1 := @begin_frame; have fr2 := @log_frame; have fr3 := @bump_frame; have fr4 := @setNode_frame
  simp only [exec, execNodeLost, Host.Outcome.next.injEq] at h
  subst h
  simp [fr1, fr2, fr3, fr4]

theorem execDriftWarn_frame {x0 : Nat} {x1 : Nat} {s t : State} (h : exec (.driftWarn x0 x1) s = .next t) :
    t.mode = s.mode ∧ t.start = s.start ∧ t.writes = s.writes ∧ t.image = s.image ∧ t.plan = s.plan ∧ t.solver = s.solver ∧ t.piste = s.piste ∧ t.prof = s.prof ∧ t.ctl = s.ctl ∧ t.sched = s.sched ∧ t.dsp = s.dsp ∧ t.sep = s.sep ∧ t.safety = s.safety ∧ t.cham = s.cham ∧ t.field = s.field ∧ t.clocks = s.clocks ∧ t.power = s.power ∧ t.pair = s.pair ∧ t.sec = s.sec ∧ t.hw = s.hw ∧ t.nor = s.nor := by
  have fr1 := @begin_frame; have fr2 := @log_frame; have fr3 := @setOb_frame; have fr4 := @setNode_frame
  simp only [exec, execDriftWarn, Host.Outcome.next.injEq] at h
  subst h
  simp [fr1, fr2, fr3, fr4]

theorem execSafetySingle_frame {x0 : Nat} {x1 : Nat} {s t : State} (h : exec (.safetySingle x0 x1) s = .next t) :
    t.mode = s.mode ∧ t.start = s.start ∧ t.writes = s.writes ∧ t.image = s.image ∧ t.plan = s.plan ∧ t.solver = s.solver ∧ t.piste = s.piste ∧ t.prof = s.prof ∧ t.ctl = s.ctl ∧ t.sched = s.sched ∧ t.dsp = s.dsp ∧ t.sep = s.sep ∧ t.safety = s.safety ∧ t.cham = s.cham ∧ t.field = s.field ∧ t.clocks = s.clocks ∧ t.power = s.power ∧ t.pair = s.pair ∧ t.sec = s.sec ∧ t.hw = s.hw ∧ t.nor = s.nor := by
  have fr1 := @begin_frame; have fr2 := @log_frame; have fr3 := @setUp_frame
  simp only [exec, execSafetySingle, Host.Outcome.next.injEq] at h
  subst h
  simp [fr1, fr2, fr3]

theorem execLinkSyncLoss_frame {x0 : Nat} {x1 : Nat} {s t : State} (h : exec (.linkSyncLoss x0 x1) s = .next t) :
    t.mode = s.mode ∧ t.start = s.start ∧ t.writes = s.writes ∧ t.image = s.image ∧ t.plan = s.plan ∧ t.solver = s.solver ∧ t.piste = s.piste ∧ t.prof = s.prof ∧ t.ctl = s.ctl ∧ t.sched = s.sched ∧ t.dsp = s.dsp ∧ t.sep = s.sep ∧ t.safety = s.safety ∧ t.cham = s.cham ∧ t.field = s.field ∧ t.clocks = s.clocks ∧ t.power = s.power ∧ t.sec = s.sec ∧ t.hw = s.hw ∧ t.nor = s.nor := by
  have fr1 := @begin_frame; have fr2 := @bumpAt_frame; have fr3 := @withNet_frame; have fr4 := @loseSource_frame; have fr5 := @lineLost_frame
  simp only [exec, execLinkSyncLoss, Host.Outcome.next.injEq] at h
  subst h
  simp [fr1, fr2, fr3, fr4, fr5]

theorem execOperandPost_frame {x0 : Nat} {s t : State} (h : exec (.operandPost x0) s = .next t) :
    t.mode = s.mode ∧ t.start = s.start ∧ t.zewen = s.zewen ∧ t.writes = s.writes ∧ t.image = s.image ∧ t.reg = s.reg ∧ t.net = s.net ∧ t.plan = s.plan ∧ t.solver = s.solver ∧ t.piste = s.piste ∧ t.prof = s.prof ∧ t.ctl = s.ctl ∧ t.dsp = s.dsp ∧ t.sep = s.sep ∧ t.safety = s.safety ∧ t.cham = s.cham ∧ t.field = s.field ∧ t.acq = s.acq ∧ t.logs = s.logs ∧ t.clocks = s.clocks ∧ t.power = s.power ∧ t.pair = s.pair ∧ t.sec = s.sec ∧ t.hw = s.hw ∧ t.nor = s.nor := by
  have fr1 := @begin_frame; have fr2 := @takePost_frame; have fr3 := @withSched_frame
  simp only [exec, execOperandPost, Host.Outcome.next.injEq] at h
  subst h
  split <;> simp [fr1, fr2, fr3]

theorem execTimedDue_frame {x0 : Nat} {s t : State} (h : exec (.timedDue x0) s = .next t) :
    t.mode = s.mode ∧ t.start = s.start ∧ t.zewen = s.zewen ∧ t.writes = s.writes ∧ t.image = s.image ∧ t.reg = s.reg ∧ t.net = s.net ∧ t.plan = s.plan ∧ t.solver = s.solver ∧ t.piste = s.piste ∧ t.prof = s.prof ∧ t.ctl = s.ctl ∧ t.dsp = s.dsp ∧ t.sep = s.sep ∧ t.safety = s.safety ∧ t.cham = s.cham ∧ t.field = s.field ∧ t.acq = s.acq ∧ t.logs = s.logs ∧ t.clocks = s.clocks ∧ t.power = s.power ∧ t.pair = s.pair ∧ t.sec = s.sec ∧ t.hw = s.hw ∧ t.nor = s.nor := by
  have fr1 := @begin_frame; have fr2 := @noteDepths_frame; have fr3 := @releaseTimed_frame
  simp only [exec, execTimedDue, Host.Outcome.next.injEq] at h
  subst h
  simp [fr1, fr2, fr3]

theorem execTaskDispatch_frame {x0 : Nat} {x1 : Nat} {s t : State} (h : exec (.taskDispatch x0 x1) s = .next t) :
    t.mode = s.mode ∧ t.start = s.start ∧ t.zewen = s.zewen ∧ t.writes = s.writes ∧ t.image = s.image ∧ t.reg = s.reg ∧ t.net = s.net ∧ t.plan = s.plan ∧ t.solver = s.solver ∧ t.piste = s.piste ∧ t.prof = s.prof ∧ t.ctl = s.ctl ∧ t.dsp = s.dsp ∧ t.sep = s.sep ∧ t.safety = s.safety ∧ t.cham = s.cham ∧ t.field = s.field ∧ t.acq = s.acq ∧ t.logs = s.logs ∧ t.clocks = s.clocks ∧ t.power = s.power ∧ t.pair = s.pair ∧ t.sec = s.sec ∧ t.hw = s.hw ∧ t.nor = s.nor := by
  have fr1 := @begin_frame; have fr2 := @startTask_frame
  simp only [exec, execTaskDispatch, Host.Outcome.next.injEq] at h
  subst h
  (repeat' split) <;> simp [fr1, fr2]

theorem execLoopExecution_frame {x0 : Nat} {x1 : Nat} {s t : State} (h : exec (.loopExecution x0 x1) s = .next t) :
    t.mode = s.mode ∧ t.start = s.start ∧ t.writes = s.writes ∧ t.image = s.image ∧ t.plan = s.plan ∧ t.solver = s.solver ∧ t.piste = s.piste ∧ t.prof = s.prof ∧ t.dsp = s.dsp ∧ t.sep = s.sep ∧ t.safety = s.safety ∧ t.cham = s.cham ∧ t.clocks = s.clocks ∧ t.power = s.power ∧ t.pair = s.pair ∧ t.sec = s.sec ∧ t.hw = s.hw ∧ t.nor = s.nor := by
  have fr1 := @begin_frame; have fr2 := @withSched_frame; have fr3 := @executeLoop_frame
  simp only [exec, execLoopExecution, Host.Outcome.next.injEq] at h
  subst h
  (repeat' split) <;> simp [fr1, fr2, fr3]

theorem execAxisFault_frame {x0 : Nat} {x1 : Nat} {s t : State} (h : exec (.axisFault x0 x1) s = .next t) :
    t.writes = s.writes ∧ t.image = s.image ∧ t.net = s.net ∧ t.plan = s.plan ∧ t.solver = s.solver ∧ t.prof = s.prof ∧ t.sched = s.sched ∧ t.dsp = s.dsp ∧ t.sep = s.sep ∧ t.safety = s.safety ∧ t.cham = s.cham ∧ t.field = s.field ∧ t.clocks = s.clocks ∧ t.power = s.power ∧ t.pair = s.pair ∧ t.sec = s.sec ∧ t.hw = s.hw := by
  have fr1 := @begin_frame; have fr2 := @setLoop_frame; have fr3 := @axisReaction_frame
  simp only [exec, execAxisFault, Host.Outcome.next.injEq] at h
  subst h
  split <;> simp [fr1, fr2, fr3]

theorem execMatchExpired_frame {x0 : Nat} {s t : State} (h : exec (.matchExpired x0) s = .next t) :
    t.start = s.start ∧ t.writes = s.writes ∧ t.image = s.image ∧ t.net = s.net ∧ t.plan = s.plan ∧ t.solver = s.solver ∧ t.piste = s.piste ∧ t.prof = s.prof ∧ t.ctl = s.ctl ∧ t.dsp = s.dsp ∧ t.sep = s.sep ∧ t.safety = s.safety ∧ t.cham = s.cham ∧ t.field = s.field ∧ t.clocks = s.clocks ∧ t.power = s.power ∧ t.pair = s.pair ∧ t.sec = s.sec ∧ t.hw = s.hw ∧ t.nor = s.nor := by
  have fr1 := @begin_frame; have fr2 := @withSched_frame; have fr3 := @error_frame; have fr4 := @bump_frame
  simp only [exec, execMatchExpired, Host.Outcome.next.injEq] at h
  subst h
  split <;> simp [fr1, fr2, fr3, fr4]

theorem execBackpressureRelease_frame {x0 : Nat} {s t : State} (h : exec (.backpressureRelease x0) s = .next t) :
    t.mode = s.mode ∧ t.start = s.start ∧ t.zewen = s.zewen ∧ t.writes = s.writes ∧ t.image = s.image ∧ t.reg = s.reg ∧ t.net = s.net ∧ t.plan = s.plan ∧ t.solver = s.solver ∧ t.piste = s.piste ∧ t.prof = s.prof ∧ t.ctl = s.ctl ∧ t.dsp = s.dsp ∧ t.sep = s.sep ∧ t.safety = s.safety ∧ t.cham = s.cham ∧ t.field = s.field ∧ t.acq = s.acq ∧ t.logs = s.logs ∧ t.clocks = s.clocks ∧ t.power = s.power ∧ t.pair = s.pair ∧ t.sec = s.sec ∧ t.hw = s.hw ∧ t.nor = s.nor := by
  have fr1 := @begin_frame; have fr2 := @writeOperand_frame; have fr3 := @withSched_frame; have fr4 := @setOb_frame
  simp only [exec, execBackpressureRelease, Host.Outcome.next.injEq] at h
  subst h
  split <;> simp [fr1, fr2, fr3, fr4]

theorem execKernelRun_frame {x0 : Nat} {x1 : Nat} {x2 : Nat} {s t : State} (h : exec (.kernelRun x0 x1 x2) s = .next t) :
    t.start = s.start ∧ t.writes = s.writes ∧ t.image = s.image ∧ t.net = s.net ∧ t.plan = s.plan ∧ t.solver = s.solver ∧ t.piste = s.piste ∧ t.prof = s.prof ∧ t.ctl = s.ctl ∧ t.sched = s.sched ∧ t.sep = s.sep ∧ t.safety = s.safety ∧ t.cham = s.cham ∧ t.field = s.field ∧ t.clocks = s.clocks ∧ t.power = s.power ∧ t.pair = s.pair ∧ t.sec = s.sec ∧ t.hw = s.hw ∧ t.nor = s.nor := by
  have fr1 := @begin_frame; have fr2 := @kernelRun_frame
  simp only [exec, execKernelRun, Host.Outcome.next.injEq] at h
  subst h
  simp [fr1, fr2]

theorem execKernelWindowClose_frame {x0 : Nat} {x1 : Nat} {s t : State} (h : exec (.kernelWindowClose x0 x1) s = .next t) :
    t.start = s.start ∧ t.writes = s.writes ∧ t.image = s.image ∧ t.net = s.net ∧ t.plan = s.plan ∧ t.solver = s.solver ∧ t.piste = s.piste ∧ t.prof = s.prof ∧ t.ctl = s.ctl ∧ t.sched = s.sched ∧ t.sep = s.sep ∧ t.safety = s.safety ∧ t.cham = s.cham ∧ t.field = s.field ∧ t.clocks = s.clocks ∧ t.power = s.power ∧ t.pair = s.pair ∧ t.sec = s.sec ∧ t.hw = s.hw ∧ t.nor = s.nor := by
  have fr1 := @begin_frame; have fr2 := @error_frame; have fr3 := @bump_frame; have fr4 := @setKernel_frame
  simp only [exec, execKernelWindowClose, Host.Outcome.next.injEq] at h
  subst h
  simp [fr1, fr2, fr3, fr4]

theorem execProcessorEvaluation_frame {x0 : Nat} {x1 : Nat} {x2 : Nat} {x3 : Bool} {x4 : Nat} {x5 : Nat} {x6 : List Nat} {s t : State} (h : exec (.processorEvaluation x0 x1 x2 x3 x4 x5 x6) s = .next t) :
    t.writes = s.writes ∧ t.image = s.image ∧ t.net = s.net ∧ t.plan = s.plan ∧ t.solver = s.solver ∧ t.piste = s.piste ∧ t.prof = s.prof ∧ t.ctl = s.ctl ∧ t.sched = s.sched ∧ t.dsp = s.dsp ∧ t.sep = s.sep ∧ t.cham = s.cham ∧ t.field = s.field ∧ t.clocks = s.clocks ∧ t.power = s.power ∧ t.sec = s.sec ∧ t.hw = s.hw := by
  have fr1 := @begin_frame; have fr2 := @evaluate_frame; have fr3 := @setSafeCh_frame; have fr4 := @emit_frame
  simp only [exec, execProcessorEvaluation, Host.Outcome.next.injEq] at h
  subst h
  simp [fr1, fr2, fr3, fr4]

theorem execChamoisEvaluation_frame {x0 : Nat} {x1 : Nat} {x2 : Nat} {x3 : Bool} {x4 : Nat} {x5 : Nat} {x6 : List Nat} {s t : State} (h : exec (.chamoisEvaluation x0 x1 x2 x3 x4 x5 x6) s = .next t) :
    t.writes = s.writes ∧ t.image = s.image ∧ t.net = s.net ∧ t.plan = s.plan ∧ t.solver = s.solver ∧ t.piste = s.piste ∧ t.prof = s.prof ∧ t.ctl = s.ctl ∧ t.sched = s.sched ∧ t.dsp = s.dsp ∧ t.sep = s.sep ∧ t.field = s.field ∧ t.clocks = s.clocks ∧ t.power = s.power ∧ t.pair = s.pair ∧ t.sec = s.sec ∧ t.hw = s.hw := by
  have fr1 := @begin_frame; have fr2 := @evaluate_frame
  simp only [exec, execChamoisEvaluation, Host.Outcome.next.injEq] at h
  subst h
  simp [fr1, fr2]

theorem execSafetyStatusRx_frame {x0 : Nat} {x1 : Bool} {s t : State} (h : exec (.safetyStatusRx x0 x1) s = .next t) :
    t.mode = s.mode ∧ t.start = s.start ∧ t.zewen = s.zewen ∧ t.writes = s.writes ∧ t.image = s.image ∧ t.reg = s.reg ∧ t.objs = s.objs ∧ t.net = s.net ∧ t.plan = s.plan ∧ t.solver = s.solver ∧ t.piste = s.piste ∧ t.prof = s.prof ∧ t.ctl = s.ctl ∧ t.sched = s.sched ∧ t.dsp = s.dsp ∧ t.sep = s.sep ∧ t.field = s.field ∧ t.acq = s.acq ∧ t.logs = s.logs ∧ t.clocks = s.clocks ∧ t.power = s.power ∧ t.pair = s.pair ∧ t.sec = s.sec ∧ t.hw = s.hw ∧ t.nor = s.nor ∧ t.freeCount = s.freeCount := by
  have fr1 := @begin_frame; have fr2 := @setSafeCh_frame; have fr3 := @chamoisLatch_frame
  simp only [exec, execSafetyStatusRx, Host.Outcome.next.injEq] at h
  subst h
  simp [fr1, fr2, fr3]

theorem execChannelSilent_frame {x0 : Nat} {x1 : Bool} {s t : State} (h : exec (.channelSilent x0 x1) s = .next t) :
    t.writes = s.writes ∧ t.image = s.image ∧ t.net = s.net ∧ t.plan = s.plan ∧ t.solver = s.solver ∧ t.piste = s.piste ∧ t.prof = s.prof ∧ t.ctl = s.ctl ∧ t.sched = s.sched ∧ t.dsp = s.dsp ∧ t.sep = s.sep ∧ t.field = s.field ∧ t.clocks = s.clocks ∧ t.power = s.power ∧ t.pair = s.pair ∧ t.sec = s.sec ∧ t.hw = s.hw := by
  have fr1 := @begin_frame; have fr2 := @openAll_frame; have fr3 := @setSafeCh_frame; have fr4 := @silentToChamois_frame; have fr5 := @faultError_frame
  simp only [exec, execChannelSilent, Host.Outcome.next.injEq] at h
  subst h
  simp [fr1, fr2, fr3, fr4, fr5]

theorem execCrossMismatch_frame {x0 : Nat} {x1 : Bool} {x2 : Nat} {s t : State} (h : exec (.crossMismatch x0 x1 x2) s = .next t) :
    t.writes = s.writes ∧ t.image = s.image ∧ t.net = s.net ∧ t.plan = s.plan ∧ t.solver = s.solver ∧ t.piste = s.piste ∧ t.prof = s.prof ∧ t.ctl = s.ctl ∧ t.sched = s.sched ∧ t.dsp = s.dsp ∧ t.sep = s.sep ∧ t.field = s.field ∧ t.clocks = s.clocks ∧ t.power = s.power ∧ t.pair = s.pair ∧ t.sec = s.sec ∧ t.hw = s.hw := by
  have fr1 := @begin_frame; have fr2 := @bump_frame; have fr3 := @setSafeCh_frame; have fr4 := @faultError_frame; have fr5 := @chamoisLatch_frame
  simp only [exec, execCrossMismatch, Host.Outcome.next.injEq] at h
  subst h
  simp [fr1, fr2, fr3, fr4, fr5]

theorem execOscillatorMismatch_frame {x0 : Nat} {x1 : Bool} {s t : State} (h : exec (.oscillatorMismatch x0 x1) s = .next t) :
    t.writes = s.writes ∧ t.image = s.image ∧ t.net = s.net ∧ t.plan = s.plan ∧ t.solver = s.solver ∧ t.piste = s.piste ∧ t.prof = s.prof ∧ t.ctl = s.ctl ∧ t.sched = s.sched ∧ t.dsp = s.dsp ∧ t.sep = s.sep ∧ t.field = s.field ∧ t.clocks = s.clocks ∧ t.power = s.power ∧ t.pair = s.pair ∧ t.sec = s.sec ∧ t.hw = s.hw := by
  have fr1 := @begin_frame; have fr2 := @setSafeCh_frame; have fr3 := @faultError_frame; have fr4 := @chamoisLatch_frame
  simp only [exec, execOscillatorMismatch, Host.Outcome.next.injEq] at h
  subst h
  simp [fr1, fr2, fr3, fr4]

theorem execDiscrepancy_frame {x0 : Nat} {x1 : Bool} {x2 : Nat} {s t : State} (h : exec (.discrepancy x0 x1 x2) s = .next t) :
    t.writes = s.writes ∧ t.image = s.image ∧ t.net = s.net ∧ t.plan = s.plan ∧ t.solver = s.solver ∧ t.piste = s.piste ∧ t.prof = s.prof ∧ t.ctl = s.ctl ∧ t.sched = s.sched ∧ t.dsp = s.dsp ∧ t.sep = s.sep ∧ t.cham = s.cham ∧ t.field = s.field ∧ t.clocks = s.clocks ∧ t.power = s.power ∧ t.pair = s.pair ∧ t.sec = s.sec ∧ t.hw = s.hw := by
  have fr1 := @begin_frame; have fr2 := @setSafeCh_frame; have fr3 := @bump_frame; have fr4 := @faultError_frame
  simp only [exec, execDiscrepancy, Host.Outcome.next.injEq] at h
  subst h
  simp [fr1, fr2, fr3, fr4]

theorem execSs1Timeout_frame {x0 : Nat} {x1 : Bool} {x2 : Nat} {s t : State} (h : exec (.ss1Timeout x0 x1 x2) s = .next t) :
    t.mode = s.mode ∧ t.start = s.start ∧ t.writes = s.writes ∧ t.image = s.image ∧ t.net = s.net ∧ t.plan = s.plan ∧ t.solver = s.solver ∧ t.piste = s.piste ∧ t.prof = s.prof ∧ t.ctl = s.ctl ∧ t.sched = s.sched ∧ t.dsp = s.dsp ∧ t.sep = s.sep ∧ t.cham = s.cham ∧ t.field = s.field ∧ t.clocks = s.clocks ∧ t.power = s.power ∧ t.pair = s.pair ∧ t.sec = s.sec ∧ t.hw = s.hw ∧ t.nor = s.nor := by
  have fr1 := @begin_frame; have fr2 := @takeStop_frame; have fr3 := @setArmStop_frame
  simp only [exec, execSs1Timeout, Host.Outcome.next.injEq] at h
  subst h
  simp [fr1, fr2, fr3]

theorem execNetInputStale_frame {x0 : Nat} {x1 : Bool} {x2 : Nat} {s t : State} (h : exec (.netInputStale x0 x1 x2) s = .next t) :
    t.mode = s.mode ∧ t.start = s.start ∧ t.zewen = s.zewen ∧ t.writes = s.writes ∧ t.image = s.image ∧ t.reg = s.reg ∧ t.objs = s.objs ∧ t.net = s.net ∧ t.plan = s.plan ∧ t.solver = s.solver ∧ t.piste = s.piste ∧ t.prof = s.prof ∧ t.ctl = s.ctl ∧ t.sched = s.sched ∧ t.dsp = s.dsp ∧ t.sep = s.sep ∧ t.cham = s.cham ∧ t.field = s.field ∧ t.acq = s.acq ∧ t.logs = s.logs ∧ t.clocks = s.clocks ∧ t.power = s.power ∧ t.pair = s.pair ∧ t.sec = s.sec ∧ t.hw = s.hw ∧ t.nor = s.nor ∧ t.freeCount = s.freeCount := by
  have fr1 := @begin_frame; have fr2 := @setSafeCh_frame
  simp only [exec, execNetInputStale, Host.Outcome.next.injEq] at h
  subst h
  simp [fr1, fr2]

theorem execDarkPulseTest_frame {x0 : Nat} {x1 : Bool} {x2 : Nat} {x3 : Bool} {s t : State} (h : exec (.darkPulseTest x0 x1 x2 x3) s = .next t) :
    t.writes = s.writes ∧ t.image = s.image ∧ t.net = s.net ∧ t.plan = s.plan ∧ t.solver = s.solver ∧ t.piste = s.piste ∧ t.prof = s.prof ∧ t.ctl = s.ctl ∧ t.sched = s.sched ∧ t.dsp = s.dsp ∧ t.sep = s.sep ∧ t.cham = s.cham ∧ t.field = s.field ∧ t.clocks = s.clocks ∧ t.power = s.power ∧ t.pair = s.pair ∧ t.sec = s.sec ∧ t.hw = s.hw := by
  have fr1 := @begin_frame; have fr2 := @switchStuck_frame; have fr3 := @setSafeCh_frame
  simp only [exec, execDarkPulseTest, Host.Outcome.next.injEq] at h
  subst h
  simp [fr1, fr2, fr3]

theorem execOutputDiagnosis_frame {x0 : Nat} {x1 : Bool} {x2 : Nat} {x3 : Nat} {x4 : Bool} {s t : State} (h : exec (.outputDiagnosis x0 x1 x2 x3 x4) s = .next t) :
    t.writes = s.writes ∧ t.image = s.image ∧ t.net = s.net ∧ t.plan = s.plan ∧ t.solver = s.solver ∧ t.piste = s.piste ∧ t.prof = s.prof ∧ t.ctl = s.ctl ∧ t.sched = s.sched ∧ t.dsp = s.dsp ∧ t.sep = s.sep ∧ t.cham = s.cham ∧ t.field = s.field ∧ t.clocks = s.clocks ∧ t.power = s.power ∧ t.pair = s.pair ∧ t.sec = s.sec ∧ t.hw = s.hw := by
  have fr1 := @outputDiagnosis_frame; have fr2 := @begin_frame
  simp only [exec, execOutputDiagnosis, Host.Outcome.next.injEq] at h
  subst h
  simp [fr1, fr2]

theorem execOutputCurrentLimit_frame {x0 : Nat} {x1 : Nat} {s t : State} (h : exec (.outputCurrentLimit x0 x1) s = .next t) :
    t.mode = s.mode ∧ t.start = s.start ∧ t.zewen = s.zewen ∧ t.writes = s.writes ∧ t.image = s.image ∧ t.reg = s.reg ∧ t.objs = s.objs ∧ t.net = s.net ∧ t.plan = s.plan ∧ t.solver = s.solver ∧ t.piste = s.piste ∧ t.prof = s.prof ∧ t.ctl = s.ctl ∧ t.sched = s.sched ∧ t.dsp = s.dsp ∧ t.sep = s.sep ∧ t.cham = s.cham ∧ t.field = s.field ∧ t.acq = s.acq ∧ t.logs = s.logs ∧ t.clocks = s.clocks ∧ t.power = s.power ∧ t.pair = s.pair ∧ t.sec = s.sec ∧ t.hw = s.hw ∧ t.nor = s.nor ∧ t.freeCount = s.freeCount := by
  have fr1 := @begin_frame; have fr2 := @setSafeCh_frame
  simp only [exec, execOutputCurrentLimit, Host.Outcome.next.injEq] at h
  subst h
  simp [fr1, fr2]

theorem execSresetEdge_frame {x0 : Nat} {s t : State} (h : exec (.sresetEdge x0) s = .next t) :
    t.start = s.start ∧ t.zewen = s.zewen ∧ t.writes = s.writes ∧ t.image = s.image ∧ t.reg = s.reg ∧ t.net = s.net ∧ t.plan = s.plan ∧ t.solver = s.solver ∧ t.piste = s.piste ∧ t.prof = s.prof ∧ t.ctl = s.ctl ∧ t.sched = s.sched ∧ t.dsp = s.dsp ∧ t.sep = s.sep ∧ t.cham = s.cham ∧ t.field = s.field ∧ t.acq = s.acq ∧ t.logs = s.logs ∧ t.clocks = s.clocks ∧ t.power = s.power ∧ t.pair = s.pair ∧ t.sec = s.sec ∧ t.hw = s.hw ∧ t.nor = s.nor := by
  have fr1 := @sresetEdge_frame; have fr2 := @begin_frame
  simp only [exec, execSresetEdge, Host.Outcome.next.injEq] at h
  subst h
  simp [fr1, fr2]

theorem execResetEdgeWindowExpiry_frame {x0 : Nat} {s t : State} (h : exec (.resetEdgeWindowExpiry x0) s = .next t) :
    t.start = s.start ∧ t.zewen = s.zewen ∧ t.writes = s.writes ∧ t.image = s.image ∧ t.reg = s.reg ∧ t.objs = s.objs ∧ t.net = s.net ∧ t.plan = s.plan ∧ t.solver = s.solver ∧ t.piste = s.piste ∧ t.prof = s.prof ∧ t.ctl = s.ctl ∧ t.sched = s.sched ∧ t.dsp = s.dsp ∧ t.sep = s.sep ∧ t.safety = s.safety ∧ t.cham = s.cham ∧ t.field = s.field ∧ t.acq = s.acq ∧ t.logs = s.logs ∧ t.clocks = s.clocks ∧ t.power = s.power ∧ t.pair = s.pair ∧ t.sec = s.sec ∧ t.hw = s.hw ∧ t.nor = s.nor ∧ t.freeCount = s.freeCount := by
  have fr1 := @begin_frame; have fr2 := @withMode_frame
  simp only [exec, execResetEdgeWindowExpiry, Host.Outcome.next.injEq] at h
  subst h
  simp [fr1, fr2]

theorem execSw1Change_frame {x0 : Nat} {s t : State} (h : exec (.sw1Change x0) s = .next t) :
    t.mode = s.mode ∧ t.start = s.start ∧ t.writes = s.writes ∧ t.image = s.image ∧ t.net = s.net ∧ t.plan = s.plan ∧ t.solver = s.solver ∧ t.piste = s.piste ∧ t.prof = s.prof ∧ t.ctl = s.ctl ∧ t.sched = s.sched ∧ t.dsp = s.dsp ∧ t.sep = s.sep ∧ t.cham = s.cham ∧ t.field = s.field ∧ t.clocks = s.clocks ∧ t.power = s.power ∧ t.pair = s.pair ∧ t.sec = s.sec ∧ t.hw = s.hw ∧ t.nor = s.nor := by
  have fr1 := @begin_frame; have fr2 := @log_frame; have fr3 := @setSafeCh_frame
  simp only [exec, execSw1Change, Host.Outcome.next.injEq] at h
  subst h
  simp [fr1, fr2, fr3]

theorem execContainedErrorRate_frame {x0 : Nat} {x1 : Nat} {x2 : Nat} {s t : State} (h : exec (.containedErrorRate x0 x1 x2) s = .next t) :
    t.writes = s.writes ∧ t.net = s.net ∧ t.prof = s.prof ∧ t.ctl = s.ctl ∧ t.sched = s.sched ∧ t.dsp = s.dsp ∧ t.sep = s.sep ∧ t.safety = s.safety ∧ t.cham = s.cham ∧ t.field = s.field ∧ t.clocks = s.clocks ∧ t.power = s.power ∧ t.pair = s.pair ∧ t.hw = s.hw := by
  have fr1 := @begin_frame; have fr2 := @blockFails_frame
  simp only [exec, execContainedErrorRate, Host.Outcome.next.injEq] at h
  subst h
  simp [fr1, fr2]

theorem execSupervisorWatchdogExpiry_frame {x0 : Nat} {s t : State} (h : exec (.supervisorWatchdogExpiry x0) s = .next t) :
    t.cham = s.cham := by
  have fr1 := @begin_frame; have fr2 := @cutShort_frame; have fr3 := @error_frame
  simp only [exec, execSupervisorWatchdogExpiry, Host.Outcome.next.injEq] at h
  subst h
  simp [fr1, fr2, fr3]

theorem execDdrUncorrectableError_frame {x0 : Nat} {x1 : Nat} {x2 : Nat} {x3 : Nat} {s t : State} (h : exec (.ddrUncorrectableError x0 x1 x2 x3) s = .next t) :
    t.writes = s.writes ∧ t.image = s.image ∧ t.net = s.net ∧ t.plan = s.plan ∧ t.solver = s.solver ∧ t.piste = s.piste ∧ t.prof = s.prof ∧ t.ctl = s.ctl ∧ t.sched = s.sched ∧ t.dsp = s.dsp ∧ t.sep = s.sep ∧ t.safety = s.safety ∧ t.cham = s.cham ∧ t.field = s.field ∧ t.clocks = s.clocks ∧ t.power = s.power ∧ t.pair = s.pair ∧ t.sec = s.sec ∧ t.hw = s.hw := by
  have fr1 := @begin_frame; have fr2 := @faultError_frame; have fr3 := @error_frame; have fr4 := @captureRowsLost_frame; have fr5 := @logLost_frame
  simp only [exec, execDdrUncorrectableError, Host.Outcome.next.injEq] at h
  subst h
  simp [fr1, fr2, fr3, fr4, fr5]

theorem execInputFilterStep_frame {x0 : Nat} {x1 : Nat} {s t : State} (h : exec (.inputFilterStep x0 x1) s = .next t) :
    t.mode = s.mode ∧ t.start = s.start ∧ t.zewen = s.zewen ∧ t.writes = s.writes ∧ t.image = s.image ∧ t.reg = s.reg ∧ t.net = s.net ∧ t.plan = s.plan ∧ t.solver = s.solver ∧ t.piste = s.piste ∧ t.prof = s.prof ∧ t.ctl = s.ctl ∧ t.sched = s.sched ∧ t.dsp = s.dsp ∧ t.sep = s.sep ∧ t.safety = s.safety ∧ t.cham = s.cham ∧ t.logs = s.logs ∧ t.clocks = s.clocks ∧ t.power = s.power ∧ t.pair = s.pair ∧ t.sec = s.sec ∧ t.hw = s.hw ∧ t.nor = s.nor := by
  have fr1 := @begin_frame; have fr2 := @inputMoved_frame; have fr3 := @withField_frame
  simp only [exec, execInputFilterStep, Host.Outcome.next.injEq] at h
  subst h
  simp [fr1, fr2, fr3]

theorem execInputGroupFault_frame {x0 : Nat} {x1 : Nat} {x2 : Nat} {s t : State} (h : exec (.inputGroupFault x0 x1 x2) s = .next t) :
    t.start = s.start ∧ t.writes = s.writes ∧ t.image = s.image ∧ t.net = s.net ∧ t.plan = s.plan ∧ t.solver = s.solver ∧ t.piste = s.piste ∧ t.prof = s.prof ∧ t.ctl = s.ctl ∧ t.sched = s.sched ∧ t.dsp = s.dsp ∧ t.sep = s.sep ∧ t.safety = s.safety ∧ t.cham = s.cham ∧ t.clocks = s.clocks ∧ t.power = s.power ∧ t.pair = s.pair ∧ t.sec = s.sec ∧ t.nor = s.nor := by
  have fr1 := @begin_frame; have fr2 := @setSupply_frame; have fr3 := @groupFault_frame; have fr4 := @withField_frame
  simp only [exec, execInputGroupFault, Host.Outcome.next.injEq] at h
  subst h
  simp [fr1, fr2, fr3, fr4]

theorem execOutputGroupFault_frame {x0 : Nat} {x1 : Nat} {x2 : Nat} {s t : State} (h : exec (.outputGroupFault x0 x1 x2) s = .next t) :
    t.start = s.start ∧ t.writes = s.writes ∧ t.image = s.image ∧ t.net = s.net ∧ t.plan = s.plan ∧ t.solver = s.solver ∧ t.piste = s.piste ∧ t.prof = s.prof ∧ t.ctl = s.ctl ∧ t.sched = s.sched ∧ t.dsp = s.dsp ∧ t.sep = s.sep ∧ t.safety = s.safety ∧ t.cham = s.cham ∧ t.clocks = s.clocks ∧ t.power = s.power ∧ t.pair = s.pair ∧ t.sec = s.sec ∧ t.nor = s.nor := by
  have fr1 := @begin_frame; have fr2 := @setSupply_frame; have fr3 := @groupFault_frame; have fr4 := @withField_frame
  simp only [exec, execOutputGroupFault, Host.Outcome.next.injEq] at h
  subst h
  simp [fr1, fr2, fr3, fr4]

theorem execEncoderEdge_frame {x0 : Nat} {x1 : Nat} {x2 : Bool} {x3 : Bool} {s t : State} (h : exec (.encoderEdge x0 x1 x2 x3) s = .next t) :
    t.mode = s.mode ∧ t.start = s.start ∧ t.zewen = s.zewen ∧ t.writes = s.writes ∧ t.image = s.image ∧ t.reg = s.reg ∧ t.net = s.net ∧ t.plan = s.plan ∧ t.solver = s.solver ∧ t.piste = s.piste ∧ t.prof = s.prof ∧ t.ctl = s.ctl ∧ t.sched = s.sched ∧ t.dsp = s.dsp ∧ t.sep = s.sep ∧ t.safety = s.safety ∧ t.cham = s.cham ∧ t.acq = s.acq ∧ t.logs = s.logs ∧ t.clocks = s.clocks ∧ t.power = s.power ∧ t.pair = s.pair ∧ t.sec = s.sec ∧ t.hw = s.hw ∧ t.nor = s.nor ∧ t.freeCount = s.freeCount := by
  have fr1 := @begin_frame; have fr2 := @setEnc_frame; have fr3 := @encError_frame; have fr4 := @movePos_frame; have fr5 := @passLevels_frame
  simp only [exec, execEncoderEdge, Host.Outcome.next.injEq] at h
  subst h
  simp [fr1, fr2, fr3, fr4, fr5]

theorem execEncoderIndex_frame {x0 : Nat} {x1 : Nat} {x2 : Bool} {s t : State} (h : exec (.encoderIndex x0 x1 x2) s = .next t) :
    t.mode = s.mode ∧ t.start = s.start ∧ t.zewen = s.zewen ∧ t.writes = s.writes ∧ t.image = s.image ∧ t.reg = s.reg ∧ t.objs = s.objs ∧ t.net = s.net ∧ t.plan = s.plan ∧ t.solver = s.solver ∧ t.piste = s.piste ∧ t.prof = s.prof ∧ t.ctl = s.ctl ∧ t.sched = s.sched ∧ t.dsp = s.dsp ∧ t.sep = s.sep ∧ t.safety = s.safety ∧ t.cham = s.cham ∧ t.acq = s.acq ∧ t.logs = s.logs ∧ t.clocks = s.clocks ∧ t.power = s.power ∧ t.pair = s.pair ∧ t.sec = s.sec ∧ t.hw = s.hw ∧ t.nor = s.nor ∧ t.freeCount = s.freeCount := by
  have fr1 := @begin_frame; have fr2 := @setEnc_frame; have fr3 := @passLevels_frame; have fr4 := @takeIndex_frame
  simp only [exec, execEncoderIndex, Host.Outcome.next.injEq] at h
  subst h
  simp [fr1, fr2, fr3, fr4]

theorem execLineFault_frame {x0 : Nat} {x1 : Nat} {s t : State} (h : exec (.lineFault x0 x1) s = .next t) :
    t.start = s.start ∧ t.writes = s.writes ∧ t.image = s.image ∧ t.net = s.net ∧ t.plan = s.plan ∧ t.solver = s.solver ∧ t.piste = s.piste ∧ t.prof = s.prof ∧ t.ctl = s.ctl ∧ t.sched = s.sched ∧ t.dsp = s.dsp ∧ t.sep = s.sep ∧ t.safety = s.safety ∧ t.cham = s.cham ∧ t.clocks = s.clocks ∧ t.power = s.power ∧ t.pair = s.pair ∧ t.sec = s.sec ∧ t.hw = s.hw ∧ t.nor = s.nor := by
  have fr1 := @begin_frame; have fr2 := @setEnc_frame; have fr3 := @error_frame; have fr4 := @encError_frame
  simp only [exec, execLineFault, Host.Outcome.next.injEq] at h
  subst h
  simp [fr1, fr2, fr3, fr4]

theorem execEncoderStandstill_frame {x0 : Nat} {x1 : Nat} {s t : State} (h : exec (.encoderStandstill x0 x1) s = .next t) :
    t.mode = s.mode ∧ t.start = s.start ∧ t.zewen = s.zewen ∧ t.writes = s.writes ∧ t.image = s.image ∧ t.reg = s.reg ∧ t.objs = s.objs ∧ t.net = s.net ∧ t.plan = s.plan ∧ t.solver = s.solver ∧ t.piste = s.piste ∧ t.prof = s.prof ∧ t.ctl = s.ctl ∧ t.sched = s.sched ∧ t.dsp = s.dsp ∧ t.sep = s.sep ∧ t.safety = s.safety ∧ t.cham = s.cham ∧ t.acq = s.acq ∧ t.logs = s.logs ∧ t.clocks = s.clocks ∧ t.power = s.power ∧ t.pair = s.pair ∧ t.sec = s.sec ∧ t.hw = s.hw ∧ t.nor = s.nor ∧ t.freeCount = s.freeCount := by
  have fr1 := @begin_frame; have fr2 := @setEnc_frame
  simp only [exec, execEncoderStandstill, Host.Outcome.next.injEq] at h
  subst h
  simp [fr1, fr2]

theorem execTickLatch_frame {x0 : Nat} {x1 : Nat} {s t : State} (h : exec (.tickLatch x0 x1) s = .next t) :
    t.mode = s.mode ∧ t.start = s.start ∧ t.zewen = s.zewen ∧ t.writes = s.writes ∧ t.image = s.image ∧ t.reg = s.reg ∧ t.objs = s.objs ∧ t.net = s.net ∧ t.plan = s.plan ∧ t.solver = s.solver ∧ t.piste = s.piste ∧ t.prof = s.prof ∧ t.ctl = s.ctl ∧ t.sched = s.sched ∧ t.dsp = s.dsp ∧ t.sep = s.sep ∧ t.safety = s.safety ∧ t.cham = s.cham ∧ t.acq = s.acq ∧ t.logs = s.logs ∧ t.clocks = s.clocks ∧ t.power = s.power ∧ t.pair = s.pair ∧ t.sec = s.sec ∧ t.hw = s.hw ∧ t.nor = s.nor ∧ t.freeCount = s.freeCount := by
  have fr1 := @begin_frame; have fr2 := @latchTick_frame
  simp only [exec, execTickLatch, Host.Outcome.next.injEq] at h
  subst h
  simp [fr1, fr2]

theorem execEncoderTransactionStart_frame {x0 : Nat} {x1 : Nat} {s t : State} (h : exec (.encoderTransactionStart x0 x1) s = .next t) :
    t.mode = s.mode ∧ t.start = s.start ∧ t.zewen = s.zewen ∧ t.writes = s.writes ∧ t.image = s.image ∧ t.reg = s.reg ∧ t.objs = s.objs ∧ t.net = s.net ∧ t.plan = s.plan ∧ t.solver = s.solver ∧ t.piste = s.piste ∧ t.prof = s.prof ∧ t.ctl = s.ctl ∧ t.sched = s.sched ∧ t.dsp = s.dsp ∧ t.sep = s.sep ∧ t.safety = s.safety ∧ t.cham = s.cham ∧ t.acq = s.acq ∧ t.logs = s.logs ∧ t.clocks = s.clocks ∧ t.power = s.power ∧ t.pair = s.pair ∧ t.sec = s.sec ∧ t.hw = s.hw ∧ t.nor = s.nor ∧ t.freeCount = s.freeCount := by
  have fr1 := @begin_frame; have fr2 := @emit_frame; have fr3 := @setEnc_frame
  simp only [exec, execEncoderTransactionStart, Host.Outcome.next.injEq] at h
  subst h
  simp [fr1, fr2, fr3]

theorem execEncoderWordReceived_frame {x0 : Nat} {x1 : Nat} {x2 : EncoderReply} {s t : State} (h : exec (.encoderWordReceived x0 x1 x2) s = .next t) :
    t.mode = s.mode ∧ t.start = s.start ∧ t.zewen = s.zewen ∧ t.writes = s.writes ∧ t.image = s.image ∧ t.reg = s.reg ∧ t.net = s.net ∧ t.plan = s.plan ∧ t.solver = s.solver ∧ t.piste = s.piste ∧ t.prof = s.prof ∧ t.ctl = s.ctl ∧ t.sched = s.sched ∧ t.dsp = s.dsp ∧ t.sep = s.sep ∧ t.safety = s.safety ∧ t.cham = s.cham ∧ t.acq = s.acq ∧ t.logs = s.logs ∧ t.clocks = s.clocks ∧ t.power = s.power ∧ t.pair = s.pair ∧ t.sec = s.sec ∧ t.hw = s.hw ∧ t.nor = s.nor := by
  have fr1 := @begin_frame; have fr2 := @encError_frame; have fr3 := @takeWord_frame; have fr4 := @latchTick_frame; have fr5 := @setEnc_frame
  simp only [exec, execEncoderWordReceived, Host.Outcome.next.injEq] at h
  subst h
  split <;> simp [fr1, fr2, fr3, fr4, fr5]

theorem execEncoderTimeout_frame {x0 : Nat} {x1 : Nat} {s t : State} (h : exec (.encoderTimeout x0 x1) s = .next t) :
    t.mode = s.mode ∧ t.start = s.start ∧ t.zewen = s.zewen ∧ t.writes = s.writes ∧ t.image = s.image ∧ t.reg = s.reg ∧ t.net = s.net ∧ t.plan = s.plan ∧ t.solver = s.solver ∧ t.piste = s.piste ∧ t.prof = s.prof ∧ t.ctl = s.ctl ∧ t.sched = s.sched ∧ t.dsp = s.dsp ∧ t.sep = s.sep ∧ t.safety = s.safety ∧ t.cham = s.cham ∧ t.acq = s.acq ∧ t.logs = s.logs ∧ t.clocks = s.clocks ∧ t.power = s.power ∧ t.pair = s.pair ∧ t.sec = s.sec ∧ t.hw = s.hw ∧ t.nor = s.nor ∧ t.freeCount = s.freeCount := by
  have fr1 := @begin_frame; have fr2 := @latchTick_frame; have fr3 := @setEnc_frame; have fr4 := @encError_frame
  simp only [exec, execEncoderTimeout, Host.Outcome.next.injEq] at h
  subst h
  split <;> simp [fr1, fr2, fr3, fr4]

theorem execEmulatedEdge_frame {x0 : Nat} {x1 : Nat} {s t : State} (h : exec (.emulatedEdge x0 x1) s = .next t) :
    t.mode = s.mode ∧ t.start = s.start ∧ t.zewen = s.zewen ∧ t.writes = s.writes ∧ t.image = s.image ∧ t.reg = s.reg ∧ t.objs = s.objs ∧ t.net = s.net ∧ t.plan = s.plan ∧ t.solver = s.solver ∧ t.piste = s.piste ∧ t.prof = s.prof ∧ t.ctl = s.ctl ∧ t.sched = s.sched ∧ t.dsp = s.dsp ∧ t.sep = s.sep ∧ t.safety = s.safety ∧ t.cham = s.cham ∧ t.acq = s.acq ∧ t.logs = s.logs ∧ t.clocks = s.clocks ∧ t.power = s.power ∧ t.pair = s.pair ∧ t.sec = s.sec ∧ t.hw = s.hw ∧ t.nor = s.nor ∧ t.freeCount = s.freeCount := by
  have fr1 := @begin_frame; have fr2 := @emit_frame; have fr3 := @setEnc_frame
  simp only [exec, execEmulatedEdge, Host.Outcome.next.injEq] at h
  subst h
  simp [fr1, fr2, fr3]

theorem execConveyorStale_frame {x0 : Nat} {x1 : Nat} {s t : State} (h : exec (.conveyorStale x0 x1) s = .next t) :
    t.mode = s.mode ∧ t.start = s.start ∧ t.zewen = s.zewen ∧ t.writes = s.writes ∧ t.image = s.image ∧ t.reg = s.reg ∧ t.objs = s.objs ∧ t.net = s.net ∧ t.plan = s.plan ∧ t.solver = s.solver ∧ t.piste = s.piste ∧ t.ctl = s.ctl ∧ t.sched = s.sched ∧ t.dsp = s.dsp ∧ t.sep = s.sep ∧ t.safety = s.safety ∧ t.cham = s.cham ∧ t.field = s.field ∧ t.acq = s.acq ∧ t.logs = s.logs ∧ t.clocks = s.clocks ∧ t.power = s.power ∧ t.pair = s.pair ∧ t.sec = s.sec ∧ t.hw = s.hw ∧ t.nor = s.nor ∧ t.freeCount = s.freeCount := by
  have fr1 := @begin_frame; have fr2 := @setChan_frame
  simp only [exec, execConveyorStale, Host.Outcome.next.injEq] at h
  subst h
  simp [fr1, fr2]

theorem execJogTimeout_frame {x0 : Nat} {x1 : Nat} {s t : State} (h : exec (.jogTimeout x0 x1) s = .next t) :
    t.mode = s.mode ∧ t.start = s.start ∧ t.zewen = s.zewen ∧ t.writes = s.writes ∧ t.image = s.image ∧ t.reg = s.reg ∧ t.objs = s.objs ∧ t.net = s.net ∧ t.plan = s.plan ∧ t.solver = s.solver ∧ t.piste = s.piste ∧ t.ctl = s.ctl ∧ t.sched = s.sched ∧ t.dsp = s.dsp ∧ t.sep = s.sep ∧ t.safety = s.safety ∧ t.cham = s.cham ∧ t.field = s.field ∧ t.acq = s.acq ∧ t.logs = s.logs ∧ t.clocks = s.clocks ∧ t.power = s.power ∧ t.pair = s.pair ∧ t.sec = s.sec ∧ t.hw = s.hw ∧ t.nor = s.nor ∧ t.freeCount = s.freeCount := by
  have fr1 := @begin_frame; have fr2 := @startStop_frame
  simp only [exec, execJogTimeout, Host.Outcome.next.injEq] at h
  subst h
  split <;> simp [fr1, fr2]

theorem execCurrentSample_frame {x0 : Nat} {x1 : Nat} {x2 : Nat} {x3 : Nat} {s t : State} (h : exec (.currentSample x0 x1 x2 x3) s = .next t) :
    t.mode = s.mode ∧ t.start = s.start ∧ t.zewen = s.zewen ∧ t.writes = s.writes ∧ t.image = s.image ∧ t.reg = s.reg ∧ t.objs = s.objs ∧ t.net = s.net ∧ t.plan = s.plan ∧ t.solver = s.solver ∧ t.piste = s.piste ∧ t.prof = s.prof ∧ t.ctl = s.ctl ∧ t.sched = s.sched ∧ t.dsp = s.dsp ∧ t.sep = s.sep ∧ t.safety = s.safety ∧ t.cham = s.cham ∧ t.acq = s.acq ∧ t.logs = s.logs ∧ t.clocks = s.clocks ∧ t.power = s.power ∧ t.pair = s.pair ∧ t.sec = s.sec ∧ t.hw = s.hw ∧ t.nor = s.nor ∧ t.freeCount = s.freeCount := by
  have fr1 := @begin_frame; have fr2 := @setAxis_frame
  simp only [exec, execCurrentSample, Host.Outcome.next.injEq] at h
  subst h
  simp [fr1, fr2]

theorem execReferenceInstant_frame {x0 : Nat} {x1 : Nat} {s t : State} (h : exec (.referenceInstant x0 x1) s = .next t) :
    t.mode = s.mode ∧ t.start = s.start ∧ t.zewen = s.zewen ∧ t.writes = s.writes ∧ t.image = s.image ∧ t.reg = s.reg ∧ t.objs = s.objs ∧ t.net = s.net ∧ t.plan = s.plan ∧ t.solver = s.solver ∧ t.piste = s.piste ∧ t.prof = s.prof ∧ t.ctl = s.ctl ∧ t.sched = s.sched ∧ t.dsp = s.dsp ∧ t.sep = s.sep ∧ t.safety = s.safety ∧ t.cham = s.cham ∧ t.acq = s.acq ∧ t.logs = s.logs ∧ t.clocks = s.clocks ∧ t.power = s.power ∧ t.pair = s.pair ∧ t.sec = s.sec ∧ t.hw = s.hw ∧ t.nor = s.nor ∧ t.freeCount = s.freeCount := by
  have fr1 := @begin_frame; have fr2 := @setTargets_frame; have fr3 := @setAxis_frame
  simp only [exec, execReferenceInstant, Host.Outcome.next.injEq] at h
  subst h
  (repeat' split) <;> simp [fr1, fr2, fr3]

theorem execAuxFeedbackPost_frame {x0 : Nat} {x1 : Nat} {s t : State} (h : exec (.auxFeedbackPost x0 x1) s = .next t) :
    t.mode = s.mode ∧ t.start = s.start ∧ t.zewen = s.zewen ∧ t.writes = s.writes ∧ t.image = s.image ∧ t.reg = s.reg ∧ t.objs = s.objs ∧ t.net = s.net ∧ t.plan = s.plan ∧ t.solver = s.solver ∧ t.piste = s.piste ∧ t.prof = s.prof ∧ t.dsp = s.dsp ∧ t.sep = s.sep ∧ t.safety = s.safety ∧ t.cham = s.cham ∧ t.acq = s.acq ∧ t.logs = s.logs ∧ t.clocks = s.clocks ∧ t.power = s.power ∧ t.pair = s.pair ∧ t.sec = s.sec ∧ t.hw = s.hw ∧ t.nor = s.nor ∧ t.freeCount = s.freeCount := by
  have fr1 := @begin_frame; have fr2 := @setAxis_frame; have fr3 := @withSched_frame
  simp only [exec, execAuxFeedbackPost, Host.Outcome.next.injEq] at h
  subst h
  simp [fr1, fr2, fr3]

theorem execChopperFallback_frame {x0 : Nat} {x1 : Nat} {s t : State} (h : exec (.chopperFallback x0 x1) s = .next t) :
    t.mode = s.mode ∧ t.start = s.start ∧ t.zewen = s.zewen ∧ t.writes = s.writes ∧ t.image = s.image ∧ t.reg = s.reg ∧ t.net = s.net ∧ t.plan = s.plan ∧ t.solver = s.solver ∧ t.piste = s.piste ∧ t.prof = s.prof ∧ t.ctl = s.ctl ∧ t.sched = s.sched ∧ t.dsp = s.dsp ∧ t.sep = s.sep ∧ t.safety = s.safety ∧ t.cham = s.cham ∧ t.acq = s.acq ∧ t.logs = s.logs ∧ t.clocks = s.clocks ∧ t.power = s.power ∧ t.pair = s.pair ∧ t.sec = s.sec ∧ t.hw = s.hw ∧ t.nor = s.nor := by
  have fr1 := @begin_frame; have fr2 := @setAxis_frame; have fr3 := @bump_frame
  simp only [exec, execChopperFallback, Host.Outcome.next.injEq] at h
  subst h
  split <;> simp [fr1, fr2, fr3]

theorem execStall_frame {x0 : Nat} {x1 : Nat} {s t : State} (h : exec (.stall x0 x1) s = .next t) :
    t.writes = s.writes ∧ t.image = s.image ∧ t.net = s.net ∧ t.plan = s.plan ∧ t.solver = s.solver ∧ t.prof = s.prof ∧ t.sched = s.sched ∧ t.dsp = s.dsp ∧ t.sep = s.sep ∧ t.safety = s.safety ∧ t.cham = s.cham ∧ t.clocks = s.clocks ∧ t.power = s.power ∧ t.pair = s.pair ∧ t.sec = s.sec ∧ t.hw = s.hw := by
  have fr1 := @begin_frame; have fr2 := @bump_frame; have fr3 := @setAxis_frame; have fr4 := @errorAs_frame; have fr5 := @setLoop_frame; have fr6 := @log_frame; have fr7 := @armHold_frame; have fr8 := @trigger_frame
  simp only [exec, execStall, Host.Outcome.next.injEq] at h
  subst h
  split
  · simp [fr1, fr2, fr3, fr4, fr5, fr6, fr7, fr8]
  · split
    · split <;> simp only [axisReactionAs] <;> split <;> simp [fr1, fr2, fr3, fr4, fr5, fr6, fr7, fr8]
    · simp [fr1, fr2, fr3, fr4, fr5, fr6, fr7, fr8]

theorem execPtpSyncRx_frame {x0 : Nat} {x1 : PtpMessage} {s t : State} (h : exec (.ptpSyncRx x0 x1) s = .next t) :
    t.mode = s.mode ∧ t.start = s.start ∧ t.writes = s.writes ∧ t.image = s.image ∧ t.net = s.net ∧ t.plan = s.plan ∧ t.solver = s.solver ∧ t.piste = s.piste ∧ t.prof = s.prof ∧ t.ctl = s.ctl ∧ t.sched = s.sched ∧ t.dsp = s.dsp ∧ t.sep = s.sep ∧ t.safety = s.safety ∧ t.cham = s.cham ∧ t.field = s.field ∧ t.clocks = s.clocks ∧ t.power = s.power ∧ t.pair = s.pair ∧ t.sec = s.sec ∧ t.hw = s.hw ∧ t.nor = s.nor := by
  have fr1 := @begin_frame; have fr2 := @domainSync_frame
  simp only [exec, execPtpSyncRx, Host.Outcome.next.injEq] at h
  subst h
  simp [fr1, fr2]

theorem execPtpMessageRx_frame {x0 : Nat} {x1 : PtpMessage} {s t : State} (h : exec (.ptpMessageRx x0 x1) s = .next t) :
    t.mode = s.mode ∧ t.start = s.start ∧ t.zewen = s.zewen ∧ t.writes = s.writes ∧ t.image = s.image ∧ t.reg = s.reg ∧ t.objs = s.objs ∧ t.net = s.net ∧ t.plan = s.plan ∧ t.solver = s.solver ∧ t.piste = s.piste ∧ t.prof = s.prof ∧ t.ctl = s.ctl ∧ t.sched = s.sched ∧ t.dsp = s.dsp ∧ t.sep = s.sep ∧ t.safety = s.safety ∧ t.cham = s.cham ∧ t.field = s.field ∧ t.acq = s.acq ∧ t.logs = s.logs ∧ t.clocks = s.clocks ∧ t.power = s.power ∧ t.pair = s.pair ∧ t.sec = s.sec ∧ t.hw = s.hw ∧ t.nor = s.nor ∧ t.freeCount = s.freeCount := by
  have fr1 := @begin_frame; have fr2 := @domainMessage_frame
  simp only [exec, execPtpMessageRx, Host.Outcome.next.injEq] at h
  subst h
  simp [fr1, fr2]

theorem execSourceLocked_frame {x0 : Nat} {x1 : Nat} {s t : State} (h : exec (.sourceLocked x0 x1) s = .next t) :
    t.mode = s.mode ∧ t.start = s.start ∧ t.writes = s.writes ∧ t.image = s.image ∧ t.net = s.net ∧ t.plan = s.plan ∧ t.solver = s.solver ∧ t.piste = s.piste ∧ t.prof = s.prof ∧ t.ctl = s.ctl ∧ t.sched = s.sched ∧ t.dsp = s.dsp ∧ t.sep = s.sep ∧ t.safety = s.safety ∧ t.cham = s.cham ∧ t.field = s.field ∧ t.clocks = s.clocks ∧ t.power = s.power ∧ t.pair = s.pair ∧ t.sec = s.sec ∧ t.hw = s.hw ∧ t.nor = s.nor := by
  have fr1 := @sourceLocked_frame; have fr2 := @begin_frame
  simp only [exec, execSourceLocked, Host.Outcome.next.injEq] at h
  subst h
  simp [fr1, fr2]

theorem execSyncTimeout_frame {x0 : Nat} {x1 : Nat} {s t : State} (h : exec (.syncTimeout x0 x1) s = .next t) :
    t.mode = s.mode ∧ t.start = s.start ∧ t.writes = s.writes ∧ t.image = s.image ∧ t.net = s.net ∧ t.plan = s.plan ∧ t.solver = s.solver ∧ t.piste = s.piste ∧ t.prof = s.prof ∧ t.ctl = s.ctl ∧ t.sched = s.sched ∧ t.dsp = s.dsp ∧ t.sep = s.sep ∧ t.safety = s.safety ∧ t.cham = s.cham ∧ t.field = s.field ∧ t.clocks = s.clocks ∧ t.power = s.power ∧ t.pair = s.pair ∧ t.sec = s.sec ∧ t.hw = s.hw ∧ t.nor = s.nor := by
  have fr1 := @begin_frame; have fr2 := @loseDomain_frame
  simp only [exec, execSyncTimeout, Host.Outcome.next.injEq] at h
  subst h
  simp [fr1, fr2]

theorem execAnnounceReceiptTimeout_frame {x0 : Nat} {x1 : Nat} {s t : State} (h : exec (.announceReceiptTimeout x0 x1) s = .next t) :
    t.mode = s.mode ∧ t.start = s.start ∧ t.writes = s.writes ∧ t.image = s.image ∧ t.net = s.net ∧ t.plan = s.plan ∧ t.solver = s.solver ∧ t.piste = s.piste ∧ t.prof = s.prof ∧ t.ctl = s.ctl ∧ t.sched = s.sched ∧ t.dsp = s.dsp ∧ t.sep = s.sep ∧ t.safety = s.safety ∧ t.cham = s.cham ∧ t.field = s.field ∧ t.clocks = s.clocks ∧ t.power = s.power ∧ t.pair = s.pair ∧ t.sec = s.sec ∧ t.hw = s.hw ∧ t.nor = s.nor := by
  have fr1 := @begin_frame; have fr2 := @setDomain_frame; have fr3 := @loseDomain_frame
  simp only [exec, execAnnounceReceiptTimeout, Host.Outcome.next.injEq] at h
  subst h
  simp [fr1, fr2, fr3]

theorem execRevertTimer_frame {x0 : Nat} {s t : State} (h : exec (.revertTimer x0) s = .next t) :
    t.mode = s.mode ∧ t.start = s.start ∧ t.zewen = s.zewen ∧ t.writes = s.writes ∧ t.image = s.image ∧ t.reg = s.reg ∧ t.objs = s.objs ∧ t.net = s.net ∧ t.plan = s.plan ∧ t.solver = s.solver ∧ t.piste = s.piste ∧ t.prof = s.prof ∧ t.ctl = s.ctl ∧ t.sched = s.sched ∧ t.dsp = s.dsp ∧ t.sep = s.sep ∧ t.safety = s.safety ∧ t.cham = s.cham ∧ t.field = s.field ∧ t.acq = s.acq ∧ t.logs = s.logs ∧ t.clocks = s.clocks ∧ t.power = s.power ∧ t.pair = s.pair ∧ t.sec = s.sec ∧ t.hw = s.hw ∧ t.nor = s.nor ∧ t.freeCount = s.freeCount := by
  have fr1 := @begin_frame; have fr2 := @followDomain_frame
  simp only [exec, execRevertTimer, Host.Outcome.next.injEq] at h
  subst h
  simp [fr1, fr2]

theorem execSlewEnd_frame {x0 : Nat} {s t : State} (h : exec (.slewEnd x0) s = .next t) :
    t.mode = s.mode ∧ t.start = s.start ∧ t.zewen = s.zewen ∧ t.writes = s.writes ∧ t.image = s.image ∧ t.reg = s.reg ∧ t.objs = s.objs ∧ t.net = s.net ∧ t.plan = s.plan ∧ t.solver = s.solver ∧ t.piste = s.piste ∧ t.prof = s.prof ∧ t.ctl = s.ctl ∧ t.sched = s.sched ∧ t.dsp = s.dsp ∧ t.sep = s.sep ∧ t.safety = s.safety ∧ t.cham = s.cham ∧ t.field = s.field ∧ t.acq = s.acq ∧ t.logs = s.logs ∧ t.clocks = s.clocks ∧ t.power = s.power ∧ t.pair = s.pair ∧ t.sec = s.sec ∧ t.hw = s.hw ∧ t.nor = s.nor ∧ t.freeCount = s.freeCount := by
  have fr1 := @begin_frame; have fr2 := @withHerd_frame
  simp only [exec, execSlewEnd, Host.Outcome.next.injEq] at h
  subst h
  simp [fr1, fr2]

theorem execPpsInEdge_frame {x0 : Nat} {x1 : Nat} {s t : State} (h : exec (.ppsInEdge x0 x1) s = .next t) :
    t.mode = s.mode ∧ t.start = s.start ∧ t.writes = s.writes ∧ t.image = s.image ∧ t.net = s.net ∧ t.plan = s.plan ∧ t.solver = s.solver ∧ t.piste = s.piste ∧ t.prof = s.prof ∧ t.ctl = s.ctl ∧ t.sched = s.sched ∧ t.dsp = s.dsp ∧ t.sep = s.sep ∧ t.safety = s.safety ∧ t.cham = s.cham ∧ t.field = s.field ∧ t.clocks = s.clocks ∧ t.power = s.power ∧ t.pair = s.pair ∧ t.sec = s.sec ∧ t.hw = s.hw ∧ t.nor = s.nor := by
  have fr1 := @begin_frame; have fr2 := @ppsEdge_frame
  simp only [exec, execPpsInEdge, Host.Outcome.next.injEq] at h
  subst h
  simp [fr1, fr2]

theorem execPpsTimeout_frame {x0 : Nat} {s t : State} (h : exec (.ppsTimeout x0) s = .next t) :
    t.mode = s.mode ∧ t.start = s.start ∧ t.writes = s.writes ∧ t.image = s.image ∧ t.net = s.net ∧ t.plan = s.plan ∧ t.solver = s.solver ∧ t.piste = s.piste ∧ t.prof = s.prof ∧ t.ctl = s.ctl ∧ t.sched = s.sched ∧ t.dsp = s.dsp ∧ t.sep = s.sep ∧ t.safety = s.safety ∧ t.cham = s.cham ∧ t.field = s.field ∧ t.clocks = s.clocks ∧ t.power = s.power ∧ t.pair = s.pair ∧ t.sec = s.sec ∧ t.hw = s.hw ∧ t.nor = s.nor := by
  have fr1 := @begin_frame; have fr2 := @ppsLost_frame
  simp only [exec, execPpsTimeout, Host.Outcome.next.injEq] at h
  subst h
  simp [fr1, fr2]

theorem execPpsOutEdge_frame {x0 : Nat} {s t : State} (h : exec (.ppsOutEdge x0) s = .next t) :
    t.mode = s.mode ∧ t.start = s.start ∧ t.zewen = s.zewen ∧ t.writes = s.writes ∧ t.image = s.image ∧ t.reg = s.reg ∧ t.objs = s.objs ∧ t.net = s.net ∧ t.plan = s.plan ∧ t.solver = s.solver ∧ t.piste = s.piste ∧ t.prof = s.prof ∧ t.ctl = s.ctl ∧ t.sched = s.sched ∧ t.dsp = s.dsp ∧ t.sep = s.sep ∧ t.safety = s.safety ∧ t.cham = s.cham ∧ t.field = s.field ∧ t.acq = s.acq ∧ t.logs = s.logs ∧ t.clocks = s.clocks ∧ t.power = s.power ∧ t.pair = s.pair ∧ t.sec = s.sec ∧ t.hw = s.hw ∧ t.nor = s.nor ∧ t.freeCount = s.freeCount := by
  have fr1 := @begin_frame; have fr2 := @advance_frame; have fr3 := @emit_frame; have fr4 := @withHerd_frame
  simp only [exec, execPpsOutEdge, Host.Outcome.next.injEq] at h
  subst h
  simp [fr1, fr2, fr3, fr4]

theorem execPairTimeExchange_frame {x0 : Nat} {x1 : Nat} {x2 : Nat} {x3 : Nat} {x4 : Nat} {s t : State} (h : exec (.pairTimeExchange x0 x1 x2 x3 x4) s = .next t) :
    t.mode = s.mode ∧ t.start = s.start ∧ t.zewen = s.zewen ∧ t.writes = s.writes ∧ t.image = s.image ∧ t.reg = s.reg ∧ t.net = s.net ∧ t.plan = s.plan ∧ t.solver = s.solver ∧ t.piste = s.piste ∧ t.prof = s.prof ∧ t.ctl = s.ctl ∧ t.sched = s.sched ∧ t.dsp = s.dsp ∧ t.sep = s.sep ∧ t.safety = s.safety ∧ t.cham = s.cham ∧ t.field = s.field ∧ t.acq = s.acq ∧ t.logs = s.logs ∧ t.clocks = s.clocks ∧ t.power = s.power ∧ t.pair = s.pair ∧ t.sec = s.sec ∧ t.hw = s.hw ∧ t.nor = s.nor ∧ t.freeCount = s.freeCount := by
  have fr1 := @begin_frame; have fr2 := @pairExchange_frame; have fr3 := @countFrame_frame
  simp only [exec, execPairTimeExchange, Host.Outcome.next.injEq] at h
  subst h
  simp [fr1, fr2, fr3]

theorem execAonStore_frame {x0 : Nat} {s t : State} (h : exec (.aonStore x0) s = .next t) :
    t.mode = s.mode ∧ t.start = s.start ∧ t.zewen = s.zewen ∧ t.writes = s.writes ∧ t.image = s.image ∧ t.reg = s.reg ∧ t.objs = s.objs ∧ t.net = s.net ∧ t.plan = s.plan ∧ t.solver = s.solver ∧ t.piste = s.piste ∧ t.prof = s.prof ∧ t.ctl = s.ctl ∧ t.sched = s.sched ∧ t.dsp = s.dsp ∧ t.sep = s.sep ∧ t.safety = s.safety ∧ t.cham = s.cham ∧ t.field = s.field ∧ t.acq = s.acq ∧ t.logs = s.logs ∧ t.clocks = s.clocks ∧ t.power = s.power ∧ t.pair = s.pair ∧ t.sec = s.sec ∧ t.hw = s.hw ∧ t.nor = s.nor ∧ t.freeCount = s.freeCount := by
  have fr1 := @begin_frame
  simp only [exec, execAonStore, Host.Outcome.next.injEq] at h
  subst h
  simp [fr1]

theorem execPowerOn_frame {x0 : Nat} {x1 : Nat} {x2 : Bool} {s t : State} (h : exec (.powerOn x0 x1 x2) s = .next t) :
    t.nor = s.nor ∧ t.freeCount = s.freeCount := by
  have fr1 := @begin_frame; have fr2 := @coreLost_frame; have fr3 := @setVin_frame; have fr4 := @withHw_frame
  simp only [exec, execPowerOn, Host.Outcome.next.injEq] at h
  subst h
  simp [fr1, fr2, fr3, fr4]

theorem execBrownOut_frame {x0 : Nat} {x1 : Nat} {s t : State} (h : exec (.brownOut x0 x1) s = .next t) :
    t.cham = s.cham ∧ t.nor = s.nor ∧ t.freeCount = s.freeCount := by
  have fr1 := @begin_frame; have fr2 := @coreLost_frame; have fr3 := @setVin_frame
  simp only [exec, execBrownOut, Host.Outcome.next.injEq] at h
  subst h
  simp [fr1, fr2, fr3]

theorem execLowInput_frame {x0 : Nat} {x1 : Nat} {s t : State} (h : exec (.lowInput x0 x1) s = .next t) :
    t.start = s.start ∧ t.writes = s.writes ∧ t.image = s.image ∧ t.net = s.net ∧ t.plan = s.plan ∧ t.solver = s.solver ∧ t.piste = s.piste ∧ t.prof = s.prof ∧ t.ctl = s.ctl ∧ t.sched = s.sched ∧ t.dsp = s.dsp ∧ t.sep = s.sep ∧ t.safety = s.safety ∧ t.cham = s.cham ∧ t.field = s.field ∧ t.clocks = s.clocks ∧ t.power = s.power ∧ t.pair = s.pair ∧ t.sec = s.sec ∧ t.nor = s.nor := by
  have fr1 := @begin_frame; have fr2 := @error_frame; have fr3 := @setVin_frame
  simp only [exec, execLowInput, Host.Outcome.next.injEq] at h
  subst h
  simp [fr1, fr2, fr3]

theorem execHighInput_frame {x0 : Nat} {x1 : Nat} {s t : State} (h : exec (.highInput x0 x1) s = .next t) :
    t.writes = s.writes ∧ t.image = s.image ∧ t.net = s.net ∧ t.plan = s.plan ∧ t.solver = s.solver ∧ t.piste = s.piste ∧ t.prof = s.prof ∧ t.ctl = s.ctl ∧ t.sched = s.sched ∧ t.dsp = s.dsp ∧ t.sep = s.sep ∧ t.safety = s.safety ∧ t.cham = s.cham ∧ t.field = s.field ∧ t.clocks = s.clocks ∧ t.power = s.power ∧ t.pair = s.pair ∧ t.sec = s.sec := by
  have fr1 := @begin_frame; have fr2 := @faultError_frame; have fr3 := @withHw_frame; have fr4 := @setVin_frame
  simp only [exec, execHighInput, Host.Outcome.next.injEq] at h
  subst h
  simp [fr1, fr2, fr3, fr4]

theorem execModResetN_frame {x0 : Nat} {s t : State} (h : exec (.modResetN x0) s = .next t) :
    t.cham = s.cham ∧ t.freeCount = s.freeCount := by
  have fr1 := @begin_frame; have fr2 := @cutShort_frame
  simp only [exec, execModResetN, Host.Outcome.next.injEq] at h
  subst h
  simp [fr1, fr2]

theorem execCommandResetBegin_frame {x0 : Nat} {s t : State} (h : exec (.commandResetBegin x0) s = .next t) :
    t.cham = s.cham ∧ t.freeCount = s.freeCount := by
  have fr1 := @begin_frame; have fr2 := @cutShort_frame
  simp only [exec, execCommandResetBegin, Host.Outcome.next.injEq] at h
  subst h
  simp [fr1, fr2]

theorem execPerstN_frame {x0 : Nat} {x1 : Bool} {s t : State} (h : exec (.perstN x0 x1) s = .next t) :
    t.mode = s.mode ∧ t.start = s.start ∧ t.writes = s.writes ∧ t.net = s.net ∧ t.solver = s.solver ∧ t.prof = s.prof ∧ t.ctl = s.ctl ∧ t.sched = s.sched ∧ t.dsp = s.dsp ∧ t.sep = s.sep ∧ t.safety = s.safety ∧ t.cham = s.cham ∧ t.field = s.field ∧ t.clocks = s.clocks ∧ t.power = s.power ∧ t.pair = s.pair ∧ t.nor = s.nor := by
  have fr1 := @begin_frame; have fr2 := @pcieDown_frame
  simp only [exec, execPerstN, Host.Outcome.next.injEq] at h
  subst h
  simp [fr1, fr2]

theorem execPcieLinkDown_frame {x0 : Nat} {x1 : Bool} {s t : State} (h : exec (.pcieLinkDown x0 x1) s = .next t) :
    t.mode = s.mode ∧ t.start = s.start ∧ t.writes = s.writes ∧ t.net = s.net ∧ t.solver = s.solver ∧ t.prof = s.prof ∧ t.ctl = s.ctl ∧ t.sched = s.sched ∧ t.dsp = s.dsp ∧ t.sep = s.sep ∧ t.safety = s.safety ∧ t.cham = s.cham ∧ t.field = s.field ∧ t.clocks = s.clocks ∧ t.power = s.power ∧ t.pair = s.pair ∧ t.hw = s.hw ∧ t.nor = s.nor := by
  have fr1 := @pcieDown_frame; have fr2 := @begin_frame
  simp only [exec, execPcieLinkDown, Host.Outcome.next.injEq] at h
  subst h
  simp [fr1, fr2]

theorem execDieTemperature_frame {x0 : Nat} {x1 : Int} {s t : State} (h : exec (.dieTemperature x0 x1) s = .next t) :
    t.writes = s.writes ∧ t.image = s.image ∧ t.net = s.net ∧ t.plan = s.plan ∧ t.solver = s.solver ∧ t.piste = s.piste ∧ t.prof = s.prof ∧ t.ctl = s.ctl ∧ t.sched = s.sched ∧ t.dsp = s.dsp ∧ t.sep = s.sep ∧ t.safety = s.safety ∧ t.cham = s.cham ∧ t.field = s.field ∧ t.clocks = s.clocks ∧ t.power = s.power ∧ t.pair = s.pair ∧ t.sec = s.sec := by
  have fr1 := @begin_frame; have fr2 := @withHw_frame; have fr3 := @error_frame; have fr4 := @faultError_frame
  simp only [exec, execDieTemperature, Host.Outcome.next.injEq] at h
  subst h
  simp [fr1, fr2, fr3, fr4]

theorem execCrystalStable_frame {x0 : Nat} {s t : State} (h : exec (.crystalStable x0) s = .next t) :
    t.mode = s.mode ∧ t.start = s.start ∧ t.zewen = s.zewen ∧ t.writes = s.writes ∧ t.image = s.image ∧ t.reg = s.reg ∧ t.objs = s.objs ∧ t.net = s.net ∧ t.plan = s.plan ∧ t.solver = s.solver ∧ t.piste = s.piste ∧ t.prof = s.prof ∧ t.ctl = s.ctl ∧ t.sched = s.sched ∧ t.dsp = s.dsp ∧ t.sep = s.sep ∧ t.safety = s.safety ∧ t.cham = s.cham ∧ t.field = s.field ∧ t.acq = s.acq ∧ t.logs = s.logs ∧ t.power = s.power ∧ t.pair = s.pair ∧ t.sec = s.sec ∧ t.hw = s.hw ∧ t.nor = s.nor ∧ t.freeCount = s.freeCount := by
  have fr1 := @begin_frame; have fr2 := @switchTo_frame; have fr3 := @withClocks_frame
  simp only [exec, execCrystalStable, Host.Outcome.next.injEq] at h
  subst h
  simp [fr1, fr2, fr3]

theorem execClockMonitorWindow_frame {x0 : Nat} {x1 : Nat} {x2 : Nat} {s t : State} (h : exec (.clockMonitorWindow x0 x1 x2) s = .next t) :
    t.writes = s.writes ∧ t.net = s.net ∧ t.solver = s.solver ∧ t.prof = s.prof ∧ t.ctl = s.ctl ∧ t.sched = s.sched ∧ t.dsp = s.dsp ∧ t.sep = s.sep ∧ t.safety = s.safety ∧ t.cham = s.cham ∧ t.field = s.field ∧ t.power = s.power ∧ t.pair = s.pair ∧ t.hw = s.hw := by
  have fr1 := @begin_frame; have fr2 := @withClocks_frame; have fr3 := @loseClock_frame
  simp only [exec, execClockMonitorWindow, Host.Outcome.next.injEq] at h
  subst h
  simp [fr1, fr2, fr3]

theorem execClockLoss_frame {x0 : Nat} {x1 : Nat} {s t : State} (h : exec (.clockLoss x0 x1) s = .next t) :
    t.writes = s.writes ∧ t.net = s.net ∧ t.solver = s.solver ∧ t.prof = s.prof ∧ t.ctl = s.ctl ∧ t.sched = s.sched ∧ t.dsp = s.dsp ∧ t.sep = s.sep ∧ t.safety = s.safety ∧ t.cham = s.cham ∧ t.field = s.field ∧ t.power = s.power ∧ t.pair = s.pair ∧ t.hw = s.hw := by
  have fr1 := @begin_frame; have fr2 := @loseClock_frame
  simp only [exec, execClockLoss, Host.Outcome.next.injEq] at h
  subst h
  simp [fr1, fr2]

theorem execPllUnlock_frame {x0 : Nat} {x1 : Nat} {s t : State} (h : exec (.pllUnlock x0 x1) s = .next t) :
    t.writes = s.writes ∧ t.image = s.image ∧ t.net = s.net ∧ t.plan = s.plan ∧ t.solver = s.solver ∧ t.piste = s.piste ∧ t.prof = s.prof ∧ t.ctl = s.ctl ∧ t.sched = s.sched ∧ t.dsp = s.dsp ∧ t.sep = s.sep ∧ t.safety = s.safety ∧ t.cham = s.cham ∧ t.field = s.field ∧ t.power = s.power ∧ t.pair = s.pair ∧ t.sec = s.sec ∧ t.hw = s.hw := by
  have fr1 := @begin_frame; have fr2 := @bump_frame; have fr3 := @withClocks_frame; have fr4 := @clkEvent_frame; have fr5 := @faultError_frame
  simp only [exec, execPllUnlock, Host.Outcome.next.injEq] at h
  subst h
  simp [fr1, fr2, fr3, fr4, fr5]

theorem execClockSourceRecovered_frame {x0 : Nat} {x1 : Nat} {s t : State} (h : exec (.clockSourceRecovered x0 x1) s = .next t) :
    t.mode = s.mode ∧ t.start = s.start ∧ t.zewen = s.zewen ∧ t.writes = s.writes ∧ t.image = s.image ∧ t.reg = s.reg ∧ t.objs = s.objs ∧ t.net = s.net ∧ t.plan = s.plan ∧ t.solver = s.solver ∧ t.piste = s.piste ∧ t.prof = s.prof ∧ t.ctl = s.ctl ∧ t.sched = s.sched ∧ t.dsp = s.dsp ∧ t.sep = s.sep ∧ t.safety = s.safety ∧ t.cham = s.cham ∧ t.field = s.field ∧ t.acq = s.acq ∧ t.logs = s.logs ∧ t.power = s.power ∧ t.pair = s.pair ∧ t.sec = s.sec ∧ t.hw = s.hw ∧ t.nor = s.nor ∧ t.freeCount = s.freeCount := by
  have fr1 := @begin_frame; have fr2 := @withClocks_frame
  simp only [exec, execClockSourceRecovered, Host.Outcome.next.injEq] at h
  subst h
  simp [fr1, fr2]

theorem execRcTrim_frame {x0 : Nat} {x1 : Int} {s t : State} (h : exec (.rcTrim x0 x1) s = .next t) :
    t.mode = s.mode ∧ t.start = s.start ∧ t.zewen = s.zewen ∧ t.writes = s.writes ∧ t.image = s.image ∧ t.reg = s.reg ∧ t.objs = s.objs ∧ t.net = s.net ∧ t.plan = s.plan ∧ t.solver = s.solver ∧ t.piste = s.piste ∧ t.prof = s.prof ∧ t.ctl = s.ctl ∧ t.sched = s.sched ∧ t.dsp = s.dsp ∧ t.sep = s.sep ∧ t.safety = s.safety ∧ t.cham = s.cham ∧ t.field = s.field ∧ t.acq = s.acq ∧ t.logs = s.logs ∧ t.power = s.power ∧ t.pair = s.pair ∧ t.sec = s.sec ∧ t.hw = s.hw ∧ t.nor = s.nor ∧ t.freeCount = s.freeCount := by
  have fr1 := @begin_frame; have fr2 := @withClocks_frame
  simp only [exec, execRcTrim, Host.Outcome.next.injEq] at h
  subst h
  simp [fr1, fr2]

theorem execMuxSwitch_frame {x0 : Nat} {s t : State} (h : exec (.muxSwitch x0) s = .next t) :
    t.mode = s.mode ∧ t.start = s.start ∧ t.zewen = s.zewen ∧ t.writes = s.writes ∧ t.image = s.image ∧ t.reg = s.reg ∧ t.objs = s.objs ∧ t.net = s.net ∧ t.plan = s.plan ∧ t.solver = s.solver ∧ t.piste = s.piste ∧ t.prof = s.prof ∧ t.ctl = s.ctl ∧ t.sched = s.sched ∧ t.dsp = s.dsp ∧ t.sep = s.sep ∧ t.safety = s.safety ∧ t.cham = s.cham ∧ t.field = s.field ∧ t.acq = s.acq ∧ t.logs = s.logs ∧ t.power = s.power ∧ t.pair = s.pair ∧ t.sec = s.sec ∧ t.hw = s.hw ∧ t.nor = s.nor ∧ t.freeCount = s.freeCount := by
  have fr1 := @switchDone_frame; have fr2 := @begin_frame
  simp only [exec, execMuxSwitch, Host.Outcome.next.injEq] at h
  subst h
  simp [fr1, fr2]

theorem execForcedSwitch_frame {x0 : Nat} {s t : State} (h : exec (.forcedSwitch x0) s = .next t) :
    t.mode = s.mode ∧ t.start = s.start ∧ t.writes = s.writes ∧ t.image = s.image ∧ t.net = s.net ∧ t.plan = s.plan ∧ t.solver = s.solver ∧ t.piste = s.piste ∧ t.prof = s.prof ∧ t.ctl = s.ctl ∧ t.sched = s.sched ∧ t.dsp = s.dsp ∧ t.sep = s.sep ∧ t.safety = s.safety ∧ t.cham = s.cham ∧ t.field = s.field ∧ t.acq = s.acq ∧ t.logs = s.logs ∧ t.power = s.power ∧ t.pair = s.pair ∧ t.sec = s.sec ∧ t.hw = s.hw ∧ t.nor = s.nor := by
  have fr1 := @begin_frame; have fr2 := @bump_frame; have fr3 := @clkEvent_frame; have fr4 := @switchDone_frame
  simp only [exec, execForcedSwitch, Host.Outcome.next.injEq] at h
  subst h
  simp [fr1, fr2, fr3, fr4]

theorem execPllRelock_frame {x0 : Nat} {x1 : Nat} {s t : State} (h : exec (.pllRelock x0 x1) s = .next t) :
    t.mode = s.mode ∧ t.start = s.start ∧ t.zewen = s.zewen ∧ t.writes = s.writes ∧ t.image = s.image ∧ t.reg = s.reg ∧ t.objs = s.objs ∧ t.net = s.net ∧ t.plan = s.plan ∧ t.solver = s.solver ∧ t.piste = s.piste ∧ t.prof = s.prof ∧ t.ctl = s.ctl ∧ t.sched = s.sched ∧ t.dsp = s.dsp ∧ t.sep = s.sep ∧ t.safety = s.safety ∧ t.cham = s.cham ∧ t.field = s.field ∧ t.acq = s.acq ∧ t.logs = s.logs ∧ t.power = s.power ∧ t.pair = s.pair ∧ t.sec = s.sec ∧ t.hw = s.hw ∧ t.nor = s.nor ∧ t.freeCount = s.freeCount := by
  have fr1 := @begin_frame; have fr2 := @withClocks_frame
  simp only [exec, execPllRelock, Host.Outcome.next.injEq] at h
  subst h
  simp [fr1, fr2]

theorem execDomainPowerGood_frame {x0 : Nat} {x1 : Nat} {s t : State} (h : exec (.domainPowerGood x0 x1) s = .next t) :
    t.mode = s.mode ∧ t.start = s.start ∧ t.zewen = s.zewen ∧ t.writes = s.writes ∧ t.image = s.image ∧ t.reg = s.reg ∧ t.net = s.net ∧ t.plan = s.plan ∧ t.solver = s.solver ∧ t.piste = s.piste ∧ t.prof = s.prof ∧ t.ctl = s.ctl ∧ t.sched = s.sched ∧ t.dsp = s.dsp ∧ t.sep = s.sep ∧ t.safety = s.safety ∧ t.cham = s.cham ∧ t.field = s.field ∧ t.acq = s.acq ∧ t.logs = s.logs ∧ t.clocks = s.clocks ∧ t.pair = s.pair ∧ t.sec = s.sec ∧ t.nor = s.nor ∧ t.freeCount = s.freeCount := by
  have fr1 := @begin_frame; have fr2 := @withPower_frame; have fr3 := @domainUp_frame
  simp only [exec, execDomainPowerGood, Host.Outcome.next.injEq] at h
  subst h
  simp [fr1, fr2, fr3]

theorem execDrainTimeout_frame {x0 : Nat} {x1 : Nat} {s t : State} (h : exec (.drainTimeout x0 x1) s = .next t) :
    t.mode = s.mode ∧ t.start = s.start ∧ t.zewen = s.zewen ∧ t.writes = s.writes ∧ t.image = s.image ∧ t.reg = s.reg ∧ t.net = s.net ∧ t.plan = s.plan ∧ t.solver = s.solver ∧ t.piste = s.piste ∧ t.prof = s.prof ∧ t.ctl = s.ctl ∧ t.sched = s.sched ∧ t.dsp = s.dsp ∧ t.sep = s.sep ∧ t.safety = s.safety ∧ t.cham = s.cham ∧ t.field = s.field ∧ t.acq = s.acq ∧ t.logs = s.logs ∧ t.clocks = s.clocks ∧ t.power = s.power ∧ t.pair = s.pair ∧ t.sec = s.sec ∧ t.hw = s.hw ∧ t.nor = s.nor := by
  have fr1 := @begin_frame; have fr2 := @bump_frame
  simp only [exec, execDrainTimeout, Host.Outcome.next.injEq] at h
  subst h
  simp [fr1, fr2]

theorem execDomainOff_frame {x0 : Nat} {x1 : Nat} {s t : State} (h : exec (.domainOff x0 x1) s = .next t) :
    t.mode = s.mode ∧ t.start = s.start ∧ t.writes = s.writes ∧ t.image = s.image ∧ t.net = s.net ∧ t.plan = s.plan ∧ t.piste = s.piste ∧ t.safety = s.safety ∧ t.cham = s.cham ∧ t.clocks = s.clocks ∧ t.pair = s.pair ∧ t.sec = s.sec ∧ t.hw = s.hw ∧ t.nor = s.nor := by
  have fr1 := @begin_frame; have fr2 := @withPower_frame; have fr3 := @domainLoses_frame
  simp only [exec, execDomainOff, Host.Outcome.next.injEq] at h
  subst h
  simp [fr1, fr2, fr3]

theorem execConfigCheckDone_frame {x0 : Nat} {s t : State} (h : exec (.configCheckDone x0) s = .next t) :
    t.writes = s.writes ∧ t.sched = s.sched ∧ t.sep = s.sep ∧ t.cham = s.cham ∧ t.power = s.power ∧ t.sec = s.sec ∧ t.hw = s.hw ∧ t.nor = s.nor := by
  have fr1 := @begin_frame; have fr2 := @imageRefused_frame; have fr3 := @imagePassed_frame
  simp only [exec, execConfigCheckDone, Host.Outcome.next.injEq] at h
  subst h
  (repeat' split) <;> simp [fr1, fr2, fr3]

theorem execNonceExpiry_frame {x0 : Nat} {x1 : Nat} {s t : State} (h : exec (.nonceExpiry x0 x1) s = .next t) :
    t.mode = s.mode ∧ t.start = s.start ∧ t.writes = s.writes ∧ t.image = s.image ∧ t.reg = s.reg ∧ t.objs = s.objs ∧ t.net = s.net ∧ t.plan = s.plan ∧ t.solver = s.solver ∧ t.piste = s.piste ∧ t.prof = s.prof ∧ t.ctl = s.ctl ∧ t.sched = s.sched ∧ t.dsp = s.dsp ∧ t.sep = s.sep ∧ t.safety = s.safety ∧ t.cham = s.cham ∧ t.field = s.field ∧ t.acq = s.acq ∧ t.logs = s.logs ∧ t.clocks = s.clocks ∧ t.power = s.power ∧ t.pair = s.pair ∧ t.sec = s.sec ∧ t.hw = s.hw ∧ t.nor = s.nor ∧ t.freeCount = s.freeCount := by
  have fr1 := @begin_frame; have fr2 := @setMbx_frame
  simp only [exec, execNonceExpiry, Host.Outcome.next.injEq] at h
  subst h
  simp [fr1, fr2]

theorem execLockoutEnd_frame {x0 : Nat} {x1 : Nat} {s t : State} (h : exec (.lockoutEnd x0 x1) s = .next t) :
    t.mode = s.mode ∧ t.start = s.start ∧ t.writes = s.writes ∧ t.image = s.image ∧ t.reg = s.reg ∧ t.objs = s.objs ∧ t.net = s.net ∧ t.plan = s.plan ∧ t.solver = s.solver ∧ t.piste = s.piste ∧ t.prof = s.prof ∧ t.ctl = s.ctl ∧ t.sched = s.sched ∧ t.dsp = s.dsp ∧ t.sep = s.sep ∧ t.safety = s.safety ∧ t.cham = s.cham ∧ t.field = s.field ∧ t.acq = s.acq ∧ t.logs = s.logs ∧ t.clocks = s.clocks ∧ t.power = s.power ∧ t.pair = s.pair ∧ t.sec = s.sec ∧ t.hw = s.hw ∧ t.nor = s.nor ∧ t.freeCount = s.freeCount := by
  have fr1 := @begin_frame; have fr2 := @setMbx_frame
  simp only [exec, execLockoutEnd, Host.Outcome.next.injEq] at h
  subst h
  simp [fr1, fr2]

theorem execUdpIdleTimeout_frame {x0 : Nat} {x1 : Nat} {s t : State} (h : exec (.udpIdleTimeout x0 x1) s = .next t) :
    t.mode = s.mode ∧ t.start = s.start ∧ t.writes = s.writes ∧ t.net = s.net ∧ t.solver = s.solver ∧ t.prof = s.prof ∧ t.ctl = s.ctl ∧ t.sched = s.sched ∧ t.dsp = s.dsp ∧ t.sep = s.sep ∧ t.safety = s.safety ∧ t.cham = s.cham ∧ t.field = s.field ∧ t.clocks = s.clocks ∧ t.power = s.power ∧ t.pair = s.pair ∧ t.hw = s.hw ∧ t.nor = s.nor := by
  have fr1 := @begin_frame; have fr2 := @enterClosing_frame
  simp only [exec, execUdpIdleTimeout, Host.Outcome.next.injEq] at h
  subst h
  simp [fr1, fr2]

theorem execSessionDrained_frame {x0 : Nat} {x1 : Nat} {s t : State} (h : exec (.sessionDrained x0 x1) s = .next t) :
    t.mode = s.mode ∧ t.start = s.start ∧ t.writes = s.writes ∧ t.image = s.image ∧ t.net = s.net ∧ t.plan = s.plan ∧ t.solver = s.solver ∧ t.piste = s.piste ∧ t.prof = s.prof ∧ t.ctl = s.ctl ∧ t.sched = s.sched ∧ t.dsp = s.dsp ∧ t.sep = s.sep ∧ t.safety = s.safety ∧ t.cham = s.cham ∧ t.field = s.field ∧ t.clocks = s.clocks ∧ t.power = s.power ∧ t.pair = s.pair ∧ t.sec = s.sec ∧ t.hw = s.hw ∧ t.nor = s.nor := by
  have fr1 := @sessionDrained_frame; have fr2 := @begin_frame
  simp only [exec, execSessionDrained, Host.Outcome.next.injEq] at h
  subst h
  simp [fr1, fr2]

theorem execAcqSample_frame {x0 : Nat} {x1 : Bool} {s t : State} (h : exec (.acqSample x0 x1) s = .next t) :
    t.mode = s.mode ∧ t.start = s.start ∧ t.writes = s.writes ∧ t.image = s.image ∧ t.plan = s.plan ∧ t.solver = s.solver ∧ t.piste = s.piste ∧ t.prof = s.prof ∧ t.ctl = s.ctl ∧ t.sched = s.sched ∧ t.dsp = s.dsp ∧ t.sep = s.sep ∧ t.safety = s.safety ∧ t.cham = s.cham ∧ t.field = s.field ∧ t.clocks = s.clocks ∧ t.power = s.power ∧ t.pair = s.pair ∧ t.sec = s.sec ∧ t.hw = s.hw ∧ t.nor = s.nor := by
  have fr1 := @begin_frame; have fr2 := @takeSample_frame
  simp only [exec, execAcqSample, Host.Outcome.next.injEq] at h
  subst h
  simp [fr1, fr2]

theorem execIndexTreeReady_frame {x0 : Nat} {s t : State} (h : exec (.indexTreeReady x0) s = .next t) :
    t.mode = s.mode ∧ t.start = s.start ∧ t.zewen = s.zewen ∧ t.writes = s.writes ∧ t.image = s.image ∧ t.reg = s.reg ∧ t.objs = s.objs ∧ t.net = s.net ∧ t.plan = s.plan ∧ t.solver = s.solver ∧ t.piste = s.piste ∧ t.prof = s.prof ∧ t.ctl = s.ctl ∧ t.sched = s.sched ∧ t.dsp = s.dsp ∧ t.sep = s.sep ∧ t.safety = s.safety ∧ t.cham = s.cham ∧ t.field = s.field ∧ t.acq = s.acq ∧ t.logs = s.logs ∧ t.clocks = s.clocks ∧ t.power = s.power ∧ t.pair = s.pair ∧ t.hw = s.hw ∧ t.nor = s.nor ∧ t.freeCount = s.freeCount := by
  have fr1 := @begin_frame; have fr2 := @withSec_frame
  simp only [exec, execIndexTreeReady, Host.Outcome.next.injEq] at h
  subst h
  simp [fr1, fr2]

theorem execTokenRenewal_frame {x0 : Nat} {s t : State} (h : exec (.tokenRenewal x0) s = .next t) :
    t.mode = s.mode ∧ t.start = s.start ∧ t.zewen = s.zewen ∧ t.writes = s.writes ∧ t.image = s.image ∧ t.reg = s.reg ∧ t.plan = s.plan ∧ t.solver = s.solver ∧ t.piste = s.piste ∧ t.prof = s.prof ∧ t.ctl = s.ctl ∧ t.sched = s.sched ∧ t.dsp = s.dsp ∧ t.sep = s.sep ∧ t.safety = s.safety ∧ t.cham = s.cham ∧ t.field = s.field ∧ t.acq = s.acq ∧ t.logs = s.logs ∧ t.clocks = s.clocks ∧ t.power = s.power ∧ t.sec = s.sec ∧ t.hw = s.hw ∧ t.nor = s.nor := by
  have fr1 := @begin_frame; have fr2 := @withPair_frame; have fr3 := @pairEmit_frame; have fr4 := @bump_frame
  simp only [exec, execTokenRenewal, Host.Outcome.next.injEq] at h
  subst h
  simp [fr1, fr2, fr3, fr4]

theorem execTokenMessageRx_frame {x0 : Nat} {x1 : Token} {s t : State} (h : exec (.tokenMessageRx x0 x1) s = .next t) :
    t.mode = s.mode ∧ t.start = s.start ∧ t.zewen = s.zewen ∧ t.writes = s.writes ∧ t.image = s.image ∧ t.reg = s.reg ∧ t.objs = s.objs ∧ t.net = s.net ∧ t.plan = s.plan ∧ t.solver = s.solver ∧ t.piste = s.piste ∧ t.prof = s.prof ∧ t.ctl = s.ctl ∧ t.sched = s.sched ∧ t.dsp = s.dsp ∧ t.sep = s.sep ∧ t.safety = s.safety ∧ t.cham = s.cham ∧ t.field = s.field ∧ t.acq = s.acq ∧ t.logs = s.logs ∧ t.clocks = s.clocks ∧ t.power = s.power ∧ t.sec = s.sec ∧ t.hw = s.hw ∧ t.nor = s.nor ∧ t.freeCount = s.freeCount := by
  have fr1 := @begin_frame; have fr2 := @withPair_frame
  simp only [exec, execTokenMessageRx, Host.Outcome.next.injEq] at h
  subst h
  simp [fr1, fr2]

theorem execTokenLeaseExpiry_frame {x0 : Nat} {s t : State} (h : exec (.tokenLeaseExpiry x0) s = .next t) :
    t.mode = s.mode ∧ t.start = s.start ∧ t.writes = s.writes ∧ t.image = s.image ∧ t.net = s.net ∧ t.plan = s.plan ∧ t.solver = s.solver ∧ t.piste = s.piste ∧ t.prof = s.prof ∧ t.ctl = s.ctl ∧ t.sched = s.sched ∧ t.dsp = s.dsp ∧ t.sep = s.sep ∧ t.safety = s.safety ∧ t.cham = s.cham ∧ t.field = s.field ∧ t.clocks = s.clocks ∧ t.power = s.power ∧ t.sec = s.sec ∧ t.hw = s.hw ∧ t.nor = s.nor := by
  have fr1 := @begin_frame; have fr2 := @setRole_frame; have fr3 := @withPair_frame
  simp only [exec, execTokenLeaseExpiry, Host.Outcome.next.injEq] at h
  subst h
  simp [fr1, fr2, fr3]

theorem execTakeover_frame {x0 : Nat} {s t : State} (h : exec (.takeover x0) s = .next t) :
    t.start = s.start ∧ t.writes = s.writes ∧ t.image = s.image ∧ t.ctl = s.ctl ∧ t.sched = s.sched ∧ t.dsp = s.dsp ∧ t.sep = s.sep ∧ t.safety = s.safety ∧ t.cham = s.cham ∧ t.clocks = s.clocks ∧ t.power = s.power ∧ t.sec = s.sec ∧ t.hw = s.hw ∧ t.nor = s.nor := by
  have fr1 := @begin_frame; have fr2 := @error_frame; have fr3 := @bump_frame; have fr4 := @takeToken_frame
  simp only [exec, execTakeover, Host.Outcome.next.injEq] at h
  subst h
  simp [fr1, fr2, fr3, fr4]

theorem execMirrorSetRx_frame {x0 : Nat} {x1 : MirrorSet} {s t : State} (h : exec (.mirrorSetRx x0 x1) s = .next t) :
    t.start = s.start ∧ t.writes = s.writes ∧ t.net = s.net ∧ t.solver = s.solver ∧ t.piste = s.piste ∧ t.prof = s.prof ∧ t.ctl = s.ctl ∧ t.sched = s.sched ∧ t.dsp = s.dsp ∧ t.sep = s.sep ∧ t.safety = s.safety ∧ t.cham = s.cham ∧ t.field = s.field ∧ t.clocks = s.clocks ∧ t.power = s.power ∧ t.sec = s.sec ∧ t.hw = s.hw ∧ t.nor = s.nor := by
  have fr1 := @begin_frame; have fr2 := @withPair_frame; have fr3 := @peerCheck_frame; have fr4 := @followMode_frame; have fr5 := @pairEmit_frame; have fr6 := @judgeRole_frame; have fr7 := @countFrame_frame
  simp only [exec, execMirrorSetRx, Host.Outcome.next.injEq] at h
  subst h
  unfold overPair
  (repeat' split) <;> simp [fr1, fr2, fr3, fr4, fr5, fr6, fr7]

theorem execMirrorAgeLimit_frame {x0 : Nat} {s t : State} (h : exec (.mirrorAgeLimit x0) s = .next t) :
    t.mode = s.mode ∧ t.start = s.start ∧ t.writes = s.writes ∧ t.image = s.image ∧ t.net = s.net ∧ t.plan = s.plan ∧ t.solver = s.solver ∧ t.piste = s.piste ∧ t.prof = s.prof ∧ t.ctl = s.ctl ∧ t.sched = s.sched ∧ t.dsp = s.dsp ∧ t.sep = s.sep ∧ t.safety = s.safety ∧ t.cham = s.cham ∧ t.field = s.field ∧ t.clocks = s.clocks ∧ t.power = s.power ∧ t.sec = s.sec ∧ t.hw = s.hw ∧ t.nor = s.nor := by
  have fr1 := @begin_frame; have fr2 := @judgeRole_frame
  simp only [exec, execMirrorAgeLimit, Host.Outcome.next.injEq] at h
  subst h
  simp [fr1, fr2]

theorem execPlanAckRx_frame {x0 : Nat} {x1 : Nat} {s t : State} (h : exec (.planAckRx x0 x1) s = .next t) :
    t.mode = s.mode ∧ t.start = s.start ∧ t.zewen = s.zewen ∧ t.writes = s.writes ∧ t.image = s.image ∧ t.reg = s.reg ∧ t.net = s.net ∧ t.plan = s.plan ∧ t.solver = s.solver ∧ t.piste = s.piste ∧ t.prof = s.prof ∧ t.ctl = s.ctl ∧ t.sched = s.sched ∧ t.dsp = s.dsp ∧ t.sep = s.sep ∧ t.safety = s.safety ∧ t.cham = s.cham ∧ t.field = s.field ∧ t.acq = s.acq ∧ t.logs = s.logs ∧ t.clocks = s.clocks ∧ t.power = s.power ∧ t.sec = s.sec ∧ t.hw = s.hw ∧ t.nor = s.nor ∧ t.freeCount = s.freeCount := by
  have fr1 := @begin_frame; have fr2 := @withPair_frame; have fr3 := @countFrame_frame
  simp only [exec, execPlanAckRx, Host.Outcome.next.injEq] at h
  subst h
  unfold overPair
  (repeat' split) <;> simp [fr1, fr2, fr3]

theorem execPairSafetyStatusRx_frame {x0 : Nat} {x1 : Bool} {x2 : List Nat} {x3 : Bool} {s t : State} (h : exec (.pairSafetyStatusRx x0 x1 x2 x3) s = .next t) :
    t.mode = s.mode ∧ t.start = s.start ∧ t.writes = s.writes ∧ t.image = s.image ∧ t.net = s.net ∧ t.plan = s.plan ∧ t.solver = s.solver ∧ t.piste = s.piste ∧ t.prof = s.prof ∧ t.ctl = s.ctl ∧ t.sched = s.sched ∧ t.dsp = s.dsp ∧ t.sep = s.sep ∧ t.safety = s.safety ∧ t.cham = s.cham ∧ t.field = s.field ∧ t.clocks = s.clocks ∧ t.power = s.power ∧ t.sec = s.sec ∧ t.hw = s.hw ∧ t.nor = s.nor := by
  have fr1 := @begin_frame; have fr2 := @judgeRole_frame; have fr3 := @withPair_frame; have fr4 := @countFrame_frame
  simp only [exec, execPairSafetyStatusRx, Host.Outcome.next.injEq] at h
  subst h
  unfold overPair
  cases x1 <;> split <;> simp [fr1, fr2, fr3, fr4]

theorem execPeerSilent_frame {x0 : Nat} {s t : State} (h : exec (.peerSilent x0) s = .next t) :
    t.mode = s.mode ∧ t.start = s.start ∧ t.writes = s.writes ∧ t.image = s.image ∧ t.net = s.net ∧ t.plan = s.plan ∧ t.solver = s.solver ∧ t.piste = s.piste ∧ t.prof = s.prof ∧ t.ctl = s.ctl ∧ t.sched = s.sched ∧ t.dsp = s.dsp ∧ t.sep = s.sep ∧ t.safety = s.safety ∧ t.cham = s.cham ∧ t.field = s.field ∧ t.clocks = s.clocks ∧ t.power = s.power ∧ t.sec = s.sec ∧ t.hw = s.hw ∧ t.nor = s.nor := by
  have fr1 := @begin_frame; have fr2 := @judgeRole_frame; have fr3 := @withPair_frame
  simp only [exec, execPeerSilent, Host.Outcome.next.injEq] at h
  subst h
  simp [fr1, fr2, fr3]

theorem execPairRevertTimer_frame {x0 : Nat} {s t : State} (h : exec (.pairRevertTimer x0) s = .next t) :
    t.mode = s.mode ∧ t.start = s.start ∧ t.zewen = s.zewen ∧ t.writes = s.writes ∧ t.image = s.image ∧ t.reg = s.reg ∧ t.objs = s.objs ∧ t.net = s.net ∧ t.plan = s.plan ∧ t.solver = s.solver ∧ t.piste = s.piste ∧ t.prof = s.prof ∧ t.ctl = s.ctl ∧ t.sched = s.sched ∧ t.dsp = s.dsp ∧ t.sep = s.sep ∧ t.safety = s.safety ∧ t.cham = s.cham ∧ t.field = s.field ∧ t.acq = s.acq ∧ t.logs = s.logs ∧ t.clocks = s.clocks ∧ t.power = s.power ∧ t.pair = s.pair ∧ t.sec = s.sec ∧ t.hw = s.hw ∧ t.nor = s.nor ∧ t.freeCount = s.freeCount := by
  have fr1 := @begin_frame; have fr2 := @pairEmit_frame
  simp only [exec, execPairRevertTimer, Host.Outcome.next.injEq] at h
  subst h
  simp [fr1, fr2]

theorem execHandoverRequestRx_frame {x0 : Nat} {x1 : Nat} {x2 : Nat} {s t : State} (h : exec (.handoverRequestRx x0 x1 x2) s = .next t) :
    t.mode = s.mode ∧ t.start = s.start ∧ t.zewen = s.zewen ∧ t.writes = s.writes ∧ t.image = s.image ∧ t.reg = s.reg ∧ t.net = s.net ∧ t.plan = s.plan ∧ t.solver = s.solver ∧ t.piste = s.piste ∧ t.prof = s.prof ∧ t.ctl = s.ctl ∧ t.sched = s.sched ∧ t.dsp = s.dsp ∧ t.sep = s.sep ∧ t.safety = s.safety ∧ t.cham = s.cham ∧ t.field = s.field ∧ t.acq = s.acq ∧ t.logs = s.logs ∧ t.clocks = s.clocks ∧ t.power = s.power ∧ t.sec = s.sec ∧ t.hw = s.hw ∧ t.nor = s.nor ∧ t.freeCount = s.freeCount := by
  have fr1 := @begin_frame; have fr2 := @pairEmit_frame; have fr3 := @withPair_frame; have fr4 := @countFrame_frame
  simp only [exec, execHandoverRequestRx, Host.Outcome.next.injEq] at h
  subst h
  unfold overPair
  (repeat' split) <;> simp [fr1, fr2, fr3, fr4]

theorem execHandoverAckTimeout_frame {x0 : Nat} {s t : State} (h : exec (.handoverAckTimeout x0) s = .next t) :
    t.mode = s.mode ∧ t.start = s.start ∧ t.zewen = s.zewen ∧ t.writes = s.writes ∧ t.image = s.image ∧ t.reg = s.reg ∧ t.objs = s.objs ∧ t.net = s.net ∧ t.plan = s.plan ∧ t.solver = s.solver ∧ t.piste = s.piste ∧ t.prof = s.prof ∧ t.ctl = s.ctl ∧ t.sched = s.sched ∧ t.dsp = s.dsp ∧ t.sep = s.sep ∧ t.safety = s.safety ∧ t.cham = s.cham ∧ t.field = s.field ∧ t.acq = s.acq ∧ t.logs = s.logs ∧ t.clocks = s.clocks ∧ t.power = s.power ∧ t.sec = s.sec ∧ t.hw = s.hw ∧ t.nor = s.nor ∧ t.freeCount = s.freeCount := by
  have fr1 := @begin_frame; have fr2 := @withPair_frame
  simp only [exec, execHandoverAckTimeout, Host.Outcome.next.injEq] at h
  subst h
  split <;> simp [fr1, fr2]

theorem execHandoverAt_frame {x0 : Nat} {s t : State} (h : exec (.handoverAt x0) s = .next t) :
    t.start = s.start ∧ t.writes = s.writes ∧ t.image = s.image ∧ t.ctl = s.ctl ∧ t.sched = s.sched ∧ t.dsp = s.dsp ∧ t.sep = s.sep ∧ t.safety = s.safety ∧ t.cham = s.cham ∧ t.clocks = s.clocks ∧ t.power = s.power ∧ t.sec = s.sec ∧ t.hw = s.hw ∧ t.nor = s.nor := by
  have fr1 := @begin_frame; have fr2 := @bump_frame; have fr3 := @takeToken_frame; have fr4 := @withPair_frame; have fr5 := @withNet_frame; have fr6 := @setRole_frame
  simp only [exec, execHandoverAt, Host.Outcome.next.injEq] at h
  subst h
  split <;> simp [fr1, fr2, fr3, fr4, fr5, fr6]

theorem execErrorDetected_frame {x0 : Nat} {x1 : ErrorKind} {x2 : Nat} {x3 : Nat} {x4 : Nat} {s t : State} (h : exec (.errorDetected x0 x1 x2 x3 x4) s = .next t) :
    t.writes = s.writes ∧ t.net = s.net ∧ t.prof = s.prof ∧ t.ctl = s.ctl ∧ t.sched = s.sched ∧ t.dsp = s.dsp ∧ t.sep = s.sep ∧ t.safety = s.safety ∧ t.cham = s.cham ∧ t.field = s.field ∧ t.clocks = s.clocks ∧ t.power = s.power ∧ t.pair = s.pair := by
  have fr1 := @begin_frame; have fr2 := @countCorrected_frame; have fr3 := @error_frame; have fr4 := @blockFails_frame; have fr5 := @partFails_frame; have fr6 := @withHw_frame; have fr7 := @faultError_frame
  simp only [exec, execErrorDetected, Host.Outcome.next.injEq] at h
  subst h
  (repeat' split) <;> simp [fr1, fr2, fr3, fr4, fr5, fr6, fr7]

theorem execPtpTransmitInterval_frame {x0 : Nat} {x1 : Nat} {x2 : Nat} {s t : State} (h : exec (.ptpTransmitInterval x0 x1 x2) s = .next t) :
    t.mode = s.mode ∧ t.start = s.start ∧ t.writes = s.writes ∧ t.image = s.image ∧ t.objs = s.objs ∧ t.net = s.net ∧ t.plan = s.plan ∧ t.solver = s.solver ∧ t.piste = s.piste ∧ t.prof = s.prof ∧ t.ctl = s.ctl ∧ t.sched = s.sched ∧ t.dsp = s.dsp ∧ t.sep = s.sep ∧ t.safety = s.safety ∧ t.cham = s.cham ∧ t.field = s.field ∧ t.acq = s.acq ∧ t.logs = s.logs ∧ t.clocks = s.clocks ∧ t.power = s.power ∧ t.pair = s.pair ∧ t.sec = s.sec ∧ t.hw = s.hw ∧ t.nor = s.nor ∧ t.freeCount = s.freeCount := by
  have fr1 := @begin_frame; have fr2 := @transmit_frame; have fr3 := @takeStamps_frame
  simp only [exec, execPtpTransmitInterval, Host.Outcome.next.injEq] at h
  subst h
  simp [fr1, fr2, fr3]

theorem execLinkSynchronised_frame {x0 : Nat} {x1 : Nat} {s t : State} (h : exec (.linkSynchronised x0 x1) s = .next t) :
    t.mode = s.mode ∧ t.start = s.start ∧ t.zewen = s.zewen ∧ t.writes = s.writes ∧ t.image = s.image ∧ t.reg = s.reg ∧ t.objs = s.objs ∧ t.plan = s.plan ∧ t.solver = s.solver ∧ t.piste = s.piste ∧ t.prof = s.prof ∧ t.ctl = s.ctl ∧ t.sched = s.sched ∧ t.dsp = s.dsp ∧ t.sep = s.sep ∧ t.safety = s.safety ∧ t.cham = s.cham ∧ t.field = s.field ∧ t.acq = s.acq ∧ t.logs = s.logs ∧ t.clocks = s.clocks ∧ t.power = s.power ∧ t.sec = s.sec ∧ t.hw = s.hw ∧ t.nor = s.nor ∧ t.freeCount = s.freeCount := by
  have fr1 := @begin_frame; have fr2 := @withNet_frame
  simp only [exec, execLinkSynchronised, Host.Outcome.next.injEq] at h
  subst h
  simp [fr1, fr2]

theorem execGroupFaultCleared_frame {x0 : Nat} {x1 : Bool} {x2 : Nat} {x3 : Nat} {s t : State} (h : exec (.groupFaultCleared x0 x1 x2 x3) s = .next t) :
    t.mode = s.mode ∧ t.start = s.start ∧ t.zewen = s.zewen ∧ t.writes = s.writes ∧ t.image = s.image ∧ t.reg = s.reg ∧ t.objs = s.objs ∧ t.net = s.net ∧ t.plan = s.plan ∧ t.solver = s.solver ∧ t.piste = s.piste ∧ t.prof = s.prof ∧ t.ctl = s.ctl ∧ t.sched = s.sched ∧ t.dsp = s.dsp ∧ t.sep = s.sep ∧ t.safety = s.safety ∧ t.cham = s.cham ∧ t.acq = s.acq ∧ t.logs = s.logs ∧ t.clocks = s.clocks ∧ t.power = s.power ∧ t.pair = s.pair ∧ t.sec = s.sec ∧ t.nor = s.nor ∧ t.freeCount = s.freeCount := by
  have fr1 := @begin_frame; have fr2 := @withField_frame; have fr3 := @setSupply_frame
  simp only [exec, execGroupFaultCleared, Host.Outcome.next.injEq] at h
  subst h
  simp [fr1, fr2, fr3]

theorem execVinBackInRange_frame {x0 : Nat} {x1 : Nat} {x2 : Nat} {s t : State} (h : exec (.vinBackInRange x0 x1 x2) s = .next t) :
    t.mode = s.mode ∧ t.start = s.start ∧ t.zewen = s.zewen ∧ t.writes = s.writes ∧ t.image = s.image ∧ t.reg = s.reg ∧ t.objs = s.objs ∧ t.net = s.net ∧ t.plan = s.plan ∧ t.solver = s.solver ∧ t.piste = s.piste ∧ t.prof = s.prof ∧ t.ctl = s.ctl ∧ t.sched = s.sched ∧ t.dsp = s.dsp ∧ t.sep = s.sep ∧ t.safety = s.safety ∧ t.cham = s.cham ∧ t.field = s.field ∧ t.acq = s.acq ∧ t.logs = s.logs ∧ t.clocks = s.clocks ∧ t.power = s.power ∧ t.pair = s.pair ∧ t.sec = s.sec ∧ t.nor = s.nor ∧ t.freeCount = s.freeCount := by
  have fr1 := @begin_frame; have fr2 := @withHw_frame; have fr3 := @setVin_frame
  simp only [exec, execVinBackInRange, Host.Outcome.next.injEq] at h
  subst h
  simp [fr1, fr2, fr3]

theorem execEncoderLineRestored_frame {x0 : Nat} {x1 : Nat} {x2 : Bool} {x3 : Bool} {x4 : Bool} {s t : State} (h : exec (.encoderLineRestored x0 x1 x2 x3 x4) s = .next t) :
    t.mode = s.mode ∧ t.start = s.start ∧ t.zewen = s.zewen ∧ t.writes = s.writes ∧ t.image = s.image ∧ t.reg = s.reg ∧ t.objs = s.objs ∧ t.net = s.net ∧ t.plan = s.plan ∧ t.solver = s.solver ∧ t.piste = s.piste ∧ t.prof = s.prof ∧ t.ctl = s.ctl ∧ t.sched = s.sched ∧ t.dsp = s.dsp ∧ t.sep = s.sep ∧ t.safety = s.safety ∧ t.cham = s.cham ∧ t.acq = s.acq ∧ t.logs = s.logs ∧ t.clocks = s.clocks ∧ t.power = s.power ∧ t.pair = s.pair ∧ t.sec = s.sec ∧ t.hw = s.hw ∧ t.nor = s.nor ∧ t.freeCount = s.freeCount := by
  have fr1 := @begin_frame; have fr2 := @passLevels_frame; have fr3 := @setEnc_frame
  simp only [exec, execEncoderLineRestored, Host.Outcome.next.injEq] at h
  subst h
  simp [fr1, fr2, fr3]

theorem execPhaseAccumulatorCarry_frame {x0 : Nat} {x1 : Nat} {s t : State} (h : exec (.phaseAccumulatorCarry x0 x1) s = .next t) :
    t.mode = s.mode ∧ t.start = s.start ∧ t.zewen = s.zewen ∧ t.writes = s.writes ∧ t.image = s.image ∧ t.reg = s.reg ∧ t.objs = s.objs ∧ t.net = s.net ∧ t.plan = s.plan ∧ t.solver = s.solver ∧ t.piste = s.piste ∧ t.ctl = s.ctl ∧ t.sched = s.sched ∧ t.dsp = s.dsp ∧ t.sep = s.sep ∧ t.safety = s.safety ∧ t.cham = s.cham ∧ t.acq = s.acq ∧ t.logs = s.logs ∧ t.clocks = s.clocks ∧ t.power = s.power ∧ t.pair = s.pair ∧ t.sec = s.sec ∧ t.hw = s.hw ∧ t.nor = s.nor ∧ t.freeCount = s.freeCount := by
  have fr1 := @begin_frame; have fr2 := @setAcc_frame; have fr3 := @setAxis_frame; have fr4 := @emit_frame; have fr5 := @setTargets_frame
  simp only [exec, execPhaseAccumulatorCarry, Host.Outcome.next.injEq] at h
  subst h
  simp [fr1, fr2, fr3, fr4, fr5]

theorem execVectorSpacingEnd_frame {x0 : Nat} {x1 : Nat} {s t : State} (h : exec (.vectorSpacingEnd x0 x1) s = .next t) :
    t.mode = s.mode ∧ t.start = s.start ∧ t.writes = s.writes ∧ t.image = s.image ∧ t.reg = s.reg ∧ t.objs = s.objs ∧ t.net = s.net ∧ t.plan = s.plan ∧ t.solver = s.solver ∧ t.piste = s.piste ∧ t.prof = s.prof ∧ t.ctl = s.ctl ∧ t.sched = s.sched ∧ t.dsp = s.dsp ∧ t.sep = s.sep ∧ t.safety = s.safety ∧ t.cham = s.cham ∧ t.field = s.field ∧ t.acq = s.acq ∧ t.logs = s.logs ∧ t.clocks = s.clocks ∧ t.power = s.power ∧ t.pair = s.pair ∧ t.sec = s.sec ∧ t.hw = s.hw ∧ t.nor = s.nor ∧ t.freeCount = s.freeCount := by
  have fr1 := @begin_frame; have fr2 := @withMsix_frame; have fr3 := @vectorNow_frame
  simp only [exec, execVectorSpacingEnd, Host.Outcome.next.injEq] at h
  subst h
  simp [fr1, fr2, fr3]

theorem execDomainFrequencyMeasurement_frame {x0 : Nat} {x1 : List Nat} {s t : State} (h : exec (.domainFrequencyMeasurement x0 x1) s = .next t) :
    t.mode = s.mode ∧ t.start = s.start ∧ t.zewen = s.zewen ∧ t.writes = s.writes ∧ t.image = s.image ∧ t.reg = s.reg ∧ t.objs = s.objs ∧ t.net = s.net ∧ t.plan = s.plan ∧ t.solver = s.solver ∧ t.piste = s.piste ∧ t.prof = s.prof ∧ t.ctl = s.ctl ∧ t.sched = s.sched ∧ t.dsp = s.dsp ∧ t.sep = s.sep ∧ t.safety = s.safety ∧ t.cham = s.cham ∧ t.field = s.field ∧ t.acq = s.acq ∧ t.logs = s.logs ∧ t.power = s.power ∧ t.pair = s.pair ∧ t.sec = s.sec ∧ t.hw = s.hw ∧ t.nor = s.nor ∧ t.freeCount = s.freeCount := by
  have fr1 := @withClocks_frame; have fr2 := @begin_frame
  simp only [exec, execDomainFrequencyMeasurement, Host.Outcome.next.injEq] at h
  subst h
  simp [fr1, fr2]

end Sys2Proof.Machine
end

