-- ==== Sys2Proof/Laws/Block.lean ====
section
/-! SUPPORT. Over all commands: what every one keeps, what none but KEY_ENROL, SET_MODE and POWER_ON changes, and for each command that
it leaves alone every part of the block that is not listed for it. -/

set_option Elab.async false

namespace Sys2Proof.Machine

/-- The commands that follow the general rule: all but three. -/
theorem follows_of (c : Instr) (s t : State) (h : exec c s = .next t) (h1 : ∀ a b, c ≠ .keyEnrol a b)
    (h2 : ∀ a b, c ≠ .setMode a b) (h3 : ∀ a b d, c ≠ .powerOn a b d) : Follows s t := by
  cases c
  case nop => exact execNop_follows h
  case openSession => exact execOpenSession_follows h
  case closeSession => exact execCloseSession_follows h
  case newEpoch => exact execNewEpoch_follows h
  case challenge => exact execChallenge_follows h
  case unlock => exact execUnlock_follows h
  case cancel => exact execCancel_follows h
  case getStatus => exact execGetStatus_follows h
  case reset => exact execReset_follows h
  case setMode => exact absurd rfl (h2 _ _)
  case objRead => exact execObjRead_follows h
  case objWrite => exact execObjWrite_follows h
  case imageBegin => exact execImageBegin_follows h
  case imageData => exact execImageData_follows h
  case imageCommit => exact execImageCommit_follows h
  case imageAbort => exact execImageAbort_follows h
  case moveJoint => exact execMoveJoint_follows h
  case moveLinear => exact execMoveLinear_follows h
  case moveConveyor => exact execMoveConveyor_follows h
  case stopMove => exact execStopMove_follows h
  case jog => exact execJog_follows h
  case teach => exact execTeach_follows h
  case pathRequest => exact execPathRequest_follows h
  case zoneRequest => exact execZoneRequest_follows h
  case zoneExtend => exact execZoneExtend_follows h
  case zoneRelease => exact execZoneRelease_follows h
  case acqArm => exact execAcqArm_follows h
  case acqRead => exact execAcqRead_follows h
  case logRead => exact execLogRead_follows h
  case attest => exact execAttest_follows h
  case keyEnrol => exact absurd rfl (h1 _ _)
  case loaderInfo => exact execLoaderInfo_follows h
  case loaderReadRecord => exact execLoaderReadRecord_follows h
  case loaderWriteSlot => exact execLoaderWriteSlot_follows h
  case loaderRestart => exact execLoaderRestart_follows h
  case unknownOpcode => exact execUnknownOpcode_follows h
  case udpDatagramRx => exact execUdpDatagramRx_follows h
  case cmdTailWrite => exact execCmdTailWrite_follows h
  case cplHeadWrite => exact execCplHeadWrite_follows h
  case htNowLoRead => exact execHtNowLoRead_follows h
  case acqTrigTimeLoRead => exact execAcqTrigTimeLoRead_follows h
  case txtsPop => exact execTxtsPop_follows h
  case txtsOvfRead => exact execTxtsOvfRead_follows h
  case errCountRead => exact execErrCountRead_follows h
  case gatedAccessRead => exact execGatedAccessRead_follows h
  case clearFirst => exact execClearFirst_follows h
  case viewClear => exact execViewClear_follows h
  case intStatusClear => exact execIntStatusClear_follows h
  case intMaskWrite => exact execIntMaskWrite_follows h
  case solverDoneClear => exact execSolverDoneClear_follows h
  case registerWrite => exact execRegisterWrite_follows h
  case objWriteEffect => exact execObjWriteEffect_follows h
  case gateRequestTimeout => exact execGateRequestTimeout_follows h
  case solverAnalysisDone => exact execSolverAnalysisDone_follows h
  case ipmIterationEnd => exact execIpmIterationEnd_follows h
  case solverRunEnd => exact execSolverRunEnd_follows h
  case solveDeadline => exact execSolveDeadline_follows h
  case hostRunResume => exact execHostRunResume_follows h
  case solverSramUncorrectable => exact execSolverSramUncorrectable_follows h
  case tickStart => exact execTickStart_follows h
  case modeTransitionComplete => exact execModeTransitionComplete_follows h
  case profilePass => exact execProfilePass_follows h
  case arbiterPass => exact execArbiterPass_follows h
  case leaseExpiry => exact execLeaseExpiry_follows h
  case plannerSnapshot => exact execPlannerSnapshot_follows h
  case plannerPost => exact execPlannerPost_follows h
  case commitTest => exact execCommitTest_follows h
  case commitCutoff => exact execCommitCutoff_follows h
  case separationStep => exact execSeparationStep_follows h
  case processorResult => exact execProcessorResult_follows h
  case chamoisResult => exact execChamoisResult_follows h
  case separationCombination => exact execSeparationCombination_follows h
  case jointStale => exact execJointStale_follows h
  case sensorWorst => exact execSensorWorst_follows h
  case ss2Release => exact execSs2Release_follows h
  case downstreamCommitPoint => exact execDownstreamCommitPoint_follows h
  case processFrameRx => exact execProcessFrameRx_follows h
  case safetyFrameRx => exact execSafetyFrameRx_follows h
  case messageRx => exact execMessageRx_follows h
  case delayRespRx => exact execDelayRespRx_follows h
  case startupRx => exact execStartupRx_follows h
  case slotWindowClose => exact execSlotWindowClose_follows h
  case downstreamNitStart => exact execDownstreamNitStart_follows h
  case ringRestoreAt => exact execRingRestoreAt_follows h
  case listenTimeout => exact execListenTimeout_follows h
  case startWindowClose => exact execStartWindowClose_follows h
  case backoffEnd => exact execBackoffEnd_follows h
  case nodeIntegrated => exact execNodeIntegrated_follows h
  case nodeLost => exact execNodeLost_follows h
  case driftWarn => exact execDriftWarn_follows h
  case safetySingle => exact execSafetySingle_follows h
  case linkSyncLoss => exact execLinkSyncLoss_follows h
  case operandPost => exact execOperandPost_follows h
  case timedDue => exact execTimedDue_follows h
  case taskDispatch => exact execTaskDispatch_follows h
  case loopExecution => exact execLoopExecution_follows h
  case axisFault => exact execAxisFault_follows h
  case matchExpired => exact execMatchExpired_follows h
  case backpressureRelease => exact execBackpressureRelease_follows h
  case kernelRun => exact execKernelRun_follows h
  case kernelWindowClose => exact execKernelWindowClose_follows h
  case processorEvaluation => exact execProcessorEvaluation_follows h
  case chamoisEvaluation => exact execChamoisEvaluation_follows h
  case safetyStatusRx => exact execSafetyStatusRx_follows h
  case channelSilent => exact execChannelSilent_follows h
  case crossMismatch => exact execCrossMismatch_follows h
  case oscillatorMismatch => exact execOscillatorMismatch_follows h
  case discrepancy => exact execDiscrepancy_follows h
  case ss1Timeout => exact execSs1Timeout_follows h
  case netInputStale => exact execNetInputStale_follows h
  case darkPulseTest => exact execDarkPulseTest_follows h
  case outputDiagnosis => exact execOutputDiagnosis_follows h
  case outputCurrentLimit => exact execOutputCurrentLimit_follows h
  case sresetEdge => exact execSresetEdge_follows h
  case resetEdgeWindowExpiry => exact execResetEdgeWindowExpiry_follows h
  case sw1Change => exact execSw1Change_follows h
  case containedErrorRate => exact execContainedErrorRate_follows h
  case supervisorWatchdogExpiry => exact execSupervisorWatchdogExpiry_follows h
  case ddrUncorrectableError => exact execDdrUncorrectableError_follows h
  case inputFilterStep => exact execInputFilterStep_follows h
  case inputGroupFault => exact execInputGroupFault_follows h
  case outputGroupFault => exact execOutputGroupFault_follows h
  case encoderEdge => exact execEncoderEdge_follows h
  case encoderIndex => exact execEncoderIndex_follows h
  case lineFault => exact execLineFault_follows h
  case encoderStandstill => exact execEncoderStandstill_follows h
  case tickLatch => exact execTickLatch_follows h
  case encoderTransactionStart => exact execEncoderTransactionStart_follows h
  case encoderWordReceived => exact execEncoderWordReceived_follows h
  case encoderTimeout => exact execEncoderTimeout_follows h
  case emulatedEdge => exact execEmulatedEdge_follows h
  case conveyorStale => exact execConveyorStale_follows h
  case jogTimeout => exact execJogTimeout_follows h
  case currentSample => exact execCurrentSample_follows h
  case referenceInstant => exact execReferenceInstant_follows h
  case auxFeedbackPost => exact execAuxFeedbackPost_follows h
  case chopperFallback => exact execChopperFallback_follows h
  case stall => exact execStall_follows h
  case ptpSyncRx => exact execPtpSyncRx_follows h
  case ptpMessageRx => exact execPtpMessageRx_follows h
  case sourceLocked => exact execSourceLocked_follows h
  case syncTimeout => exact execSyncTimeout_follows h
  case announceReceiptTimeout => exact execAnnounceReceiptTimeout_follows h
  case revertTimer => exact execRevertTimer_follows h
  case slewEnd => exact execSlewEnd_follows h
  case ppsInEdge => exact execPpsInEdge_follows h
  case ppsTimeout => exact execPpsTimeout_follows h
  case ppsOutEdge => exact execPpsOutEdge_follows h
  case pairTimeExchange => exact execPairTimeExchange_follows h
  case aonStore => exact execAonStore_follows h
  case powerOn => exact absurd rfl (h3 _ _ _)
  case brownOut => exact execBrownOut_follows h
  case lowInput => exact execLowInput_follows h
  case highInput => exact execHighInput_follows h
  case modResetN => exact execModResetN_follows h
  case commandResetBegin => exact execCommandResetBegin_follows h
  case perstN => exact execPerstN_follows h
  case pcieLinkDown => exact execPcieLinkDown_follows h
  case dieTemperature => exact execDieTemperature_follows h
  case crystalStable => exact execCrystalStable_follows h
  case clockMonitorWindow => exact execClockMonitorWindow_follows h
  case clockLoss => exact execClockLoss_follows h
  case pllUnlock => exact execPllUnlock_follows h
  case clockSourceRecovered => exact execClockSourceRecovered_follows h
  case rcTrim => exact execRcTrim_follows h
  case muxSwitch => exact execMuxSwitch_follows h
  case forcedSwitch => exact execForcedSwitch_follows h
  case pllRelock => exact execPllRelock_follows h
  case domainPowerGood => exact execDomainPowerGood_follows h
  case domainPowerGoodTimeout => exact execDomainPowerGoodTimeout_follows h
  case drainTimeout => exact execDrainTimeout_follows h
  case domainOff => exact execDomainOff_follows h
  case startAttempt => exact execStartAttempt_follows h
  case startStepTimeout => exact execStartStepTimeout_follows h
  case configCheckDone => exact execConfigCheckDone_follows h
  case nonceExpiry => exact execNonceExpiry_follows h
  case lockoutEnd => exact execLockoutEnd_follows h
  case udpIdleTimeout => exact execUdpIdleTimeout_follows h
  case sessionDrained => exact execSessionDrained_follows h
  case acqSample => exact execAcqSample_follows h
  case indexTreeReady => exact execIndexTreeReady_follows h
  case tokenRenewal => exact execTokenRenewal_follows h
  case tokenMessageRx => exact execTokenMessageRx_follows h
  case tokenLeaseExpiry => exact execTokenLeaseExpiry_follows h
  case takeover => exact execTakeover_follows h
  case mirrorSetRx => exact execMirrorSetRx_follows h
  case mirrorAgeLimit => exact execMirrorAgeLimit_follows h
  case planAckRx => exact execPlanAckRx_follows h
  case pairSafetyStatusRx => exact execPairSafetyStatusRx_follows h
  case peerSilent => exact execPeerSilent_follows h
  case pairRevertTimer => exact execPairRevertTimer_follows h
  case handoverRequestRx => exact execHandoverRequestRx_follows h
  case handoverAckTimeout => exact execHandoverAckTimeout_follows h
  case handoverAt => exact execHandoverAt_follows h
  case errorDetected => exact execErrorDetected_follows h
  case ptpTransmitInterval => exact execPtpTransmitInterval_follows h
  case linkSynchronised => exact execLinkSynchronised_follows h
  case groupFaultCleared => exact execGroupFaultCleared_follows h
  case vinBackInRange => exact execVinBackInRange_follows h
  case encoderLineRestored => exact execEncoderLineRestored_follows h
  case phaseAccumulatorCarry => exact execPhaseAccumulatorCarry_follows h
  case vectorSpacingEnd => exact execVectorSpacingEnd_follows h
  case domainFrequencyMeasurement => exact execDomainFrequencyMeasurement_follows h

/-- What every command keeps: the queue, and of the OTP memory all but the floor, which only rises. -/
theorem fixed_of (c : Instr) (s t : State) (h : exec c s = .next t) : Fixed s t := by
  cases c
  case keyEnrol => exact execKeyEnrol_fixed _ _ _ h
  case setMode => exact execSetMode_fixed _ _ _ h
  case powerOn => exact execPowerOn_fixed _ _ _ _ h
  all_goals exact (follows_of _ _ _ h (by simp) (by simp) (by simp)).fixed

theorem coreLost_keys (s : State) : (coreLost s).sec.customer = s.sec.customer ∧ (coreLost s).sec.hmac = s.sec.hmac := by
  have h := coreLost_kept s
  unfold kept at h
  rw [Kept.mk.injEq] at h
  exact ⟨h.2.2.1, h.2.2.2.1⟩

/-! ### Each command and the parts it leaves alone -/

/-- Every part, in the order of the state. -/
def Part.all : List Part :=
  [.mode, .start, .zewen, .writes, .image, .reg, .objs, .herd, .aon, .net, .plan, .solver, .piste, .prof, .ctl, .sched, .dsp, .sep, .safety,
    .cham, .field, .acq, .logs, .clocks, .power, .pair, .sec, .hw, .nor, .freeCount]

/-- Every part is the same that is in a list of equal ones, and what is not in it is listed. -/
theorem parts_of (m l : List Part) {s t : State} (h : m.Forall (fun p => p.same s t))
    (hm : Part.all.all (fun p => m.contains p || l.contains p) = true) : ∀ p, p ∉ l → p.same s t := by
  intro p hp
  rw [List.forall_iff_forall_mem] at h
  rw [List.all_eq_true] at hm
  have := hm p (by cases p <;> decide)
  simp only [List.contains_iff_mem, Bool.or_eq_true] at this
  exact h p (this.resolve_right hp)

theorem nop_parts {x0 : Nat} {x1 : Entry} {s t : State} (h : exec (.nop x0 x1) s = .next t) : ∀ p, p ∉ Instr.acts (.nop x0 x1) → p.same s t :=
  parts_of [.mode, .start, .writes, .image, .net, .plan, .solver, .piste, .prof, .ctl, .sched, .dsp, .sep, .safety, .cham, .field, .clocks, .power, .pair, .sec, .hw, .nor] (posting)
    (execNop_frame h) (by decide +kernel)

theorem openSession_parts {x0 : Nat} {x1 : Entry} {s t : State} (h : exec (.openSession x0 x1) s = .next t) : ∀ p, p ∉ Instr.acts (.openSession x0 x1) → p.same s t :=
  parts_of [.mode, .start, .writes, .image, .net, .plan, .solver, .piste, .prof, .ctl, .sched, .dsp, .sep, .safety, .cham, .field, .clocks, .power, .pair, .sec, .hw, .nor] (posting)
    (execOpenSession_frame h) (by decide +kernel)

theorem closeSession_parts {x0 : Nat} {x1 : Entry} {s t : State} (h : exec (.closeSession x0 x1) s = .next t) : ∀ p, p ∉ Instr.acts (.closeSession x0 x1) → p.same s t :=
  parts_of [.mode, .start, .writes, .net, .solver, .prof, .ctl, .sched, .dsp, .sep, .safety, .cham, .field, .clocks, .power, .pair, .hw, .nor] (postingAnd [.image, .plan, .piste, .sec])
    (execCloseSession_frame h) (by decide +kernel)

theorem newEpoch_parts {x0 : Nat} {x1 : Entry} {s t : State} (h : exec (.newEpoch x0 x1) s = .next t) : ∀ p, p ∉ Instr.acts (.newEpoch x0 x1) → p.same s t :=
  parts_of [.mode, .start, .writes, .image, .net, .plan, .solver, .piste, .prof, .ctl, .sched, .dsp, .sep, .safety, .cham, .field, .clocks, .power, .pair, .sec, .hw, .nor] (posting)
    (execNewEpoch_frame h) (by decide +kernel)

theorem challenge_parts {x0 : Nat} {x1 : Entry} {s t : State} (h : exec (.challenge x0 x1) s = .next t) : ∀ p, p ∉ Instr.acts (.challenge x0 x1) → p.same s t :=
  parts_of [.mode, .start, .writes, .image, .net, .plan, .solver, .piste, .prof, .ctl, .sched, .dsp, .sep, .safety, .cham, .field, .clocks, .power, .pair, .sec, .hw, .nor] (posting)
    (execChallenge_frame h) (by decide +kernel)

theorem unlock_parts {x0 : Nat} {x1 : Entry} {s t : State} (h : exec (.unlock x0 x1) s = .next t) : ∀ p, p ∉ Instr.acts (.unlock x0 x1) → p.same s t :=
  parts_of [.mode, .start, .writes, .image, .net, .plan, .solver, .piste, .prof, .ctl, .sched, .dsp, .sep, .safety, .cham, .field, .clocks, .power, .pair, .sec, .hw, .nor] (posting)
    (execUnlock_frame h) (by decide +kernel)

theorem cancel_parts {x0 : Nat} {x1 : Entry} {s t : State} (h : exec (.cancel x0 x1) s = .next t) : ∀ p, p ∉ Instr.acts (.cancel x0 x1) → p.same s t :=
  parts_of [.mode, .start, .writes, .net, .solver, .prof, .ctl, .sched, .dsp, .sep, .safety, .cham, .field, .clocks, .power, .pair, .sec, .hw, .nor] (postingAnd [.image, .plan, .piste])
    (execCancel_frame h) (by decide +kernel)

theorem getStatus_parts {x0 : Nat} {x1 : Entry} {s t : State} (h : exec (.getStatus x0 x1) s = .next t) : ∀ p, p ∉ Instr.acts (.getStatus x0 x1) → p.same s t :=
  parts_of [.mode, .start, .writes, .image, .net, .plan, .solver, .piste, .prof, .ctl, .sched, .dsp, .sep, .safety, .cham, .field, .clocks, .power, .pair, .sec, .hw, .nor] (posting)
    (execGetStatus_frame h) (by decide +kernel)

theorem reset_parts {x0 : Nat} {x1 : Entry} {s t : State} (h : exec (.reset x0 x1) s = .next t) : ∀ p, p ∉ Instr.acts (.reset x0 x1) → p.same s t :=
  parts_of [.start, .writes, .image, .net, .plan, .solver, .piste, .prof, .ctl, .sched, .dsp, .sep, .safety, .cham, .field, .clocks, .power, .pair, .sec, .hw, .nor] (postingAnd [.mode])
    (execReset_frame h) (by decide +kernel)

theorem setMode_parts {x0 : Nat} {x1 : Entry} {s t : State} (h : exec (.setMode x0 x1) s = .next t) : ∀ p, p ∉ Instr.acts (.setMode x0 x1) → p.same s t :=
  parts_of [.writes, .net, .plan, .solver, .prof, .ctl, .sched, .dsp, .sep, .field, .clocks, .pair, .sec, .hw, .nor] (postingAnd [.mode, .start, .image, .piste, .safety, .cham, .power])
    (execSetMode_frame h) (by decide +kernel)

theorem objRead_parts {x0 : Nat} {x1 : Entry} {s t : State} (h : exec (.objRead x0 x1) s = .next t) : ∀ p, p ∉ Instr.acts (.objRead x0 x1) → p.same s t :=
  parts_of [.mode, .start, .writes, .image, .plan, .solver, .piste, .prof, .ctl, .dsp, .sep, .safety, .cham, .field, .clocks, .power, .pair, .sec, .hw, .nor] (postingAnd [.net, .sched])
    (execObjRead_frame h) (by decide +kernel)

theorem objWrite_parts {x0 : Nat} {x1 : Entry} {s t : State} (h : exec (.objWrite x0 x1) s = .next t) : ∀ p, p ∉ Instr.acts (.objWrite x0 x1) → p.same s t :=
  parts_of [.mode, .start, .image, .net, .plan, .solver, .piste, .prof, .ctl, .sched, .dsp, .sep, .safety, .cham, .field, .clocks, .power, .pair, .sec, .hw, .nor] (postingAnd [.writes])
    (execObjWrite_frame h) (by decide +kernel)

theorem imageBegin_parts {x0 : Nat} {x1 : Entry} {s t : State} (h : exec (.imageBegin x0 x1) s = .next t) : ∀ p, p ∉ Instr.acts (.imageBegin x0 x1) → p.same s t :=
  parts_of [.mode, .start, .writes, .net, .plan, .solver, .piste, .prof, .ctl, .sched, .dsp, .sep, .safety, .cham, .field, .clocks, .power, .pair, .sec, .hw, .nor] (postingAnd [.image])
    (execImageBegin_frame h) (by decide +kernel)

theorem imageData_parts {x0 : Nat} {x1 : Entry} {s t : State} (h : exec (.imageData x0 x1) s = .next t) : ∀ p, p ∉ Instr.acts (.imageData x0 x1) → p.same s t :=
  parts_of [.mode, .start, .writes, .net, .plan, .solver, .piste, .prof, .ctl, .sched, .dsp, .sep, .safety, .cham, .field, .clocks, .power, .pair, .sec, .hw, .nor] (postingAnd [.image])
    (execImageData_frame h) (by decide +kernel)

theorem imageCommit_parts {x0 : Nat} {x1 : Entry} {s t : State} (h : exec (.imageCommit x0 x1) s = .next t) : ∀ p, p ∉ Instr.acts (.imageCommit x0 x1) → p.same s t :=
  parts_of [.mode, .start, .writes, .net, .plan, .solver, .piste, .prof, .ctl, .sched, .dsp, .sep, .safety, .cham, .field, .clocks, .power, .pair, .sec, .hw, .nor] (postingAnd [.image])
    (execImageCommit_frame h) (by decide +kernel)

theorem imageAbort_parts {x0 : Nat} {x1 : Entry} {s t : State} (h : exec (.imageAbort x0 x1) s = .next t) : ∀ p, p ∉ Instr.acts (.imageAbort x0 x1) → p.same s t :=
  parts_of [.mode, .start, .writes, .net, .plan, .solver, .piste, .prof, .ctl, .sched, .dsp, .sep, .safety, .cham, .field, .clocks, .power, .pair, .sec, .hw, .nor] (postingAnd [.image])
    (execImageAbort_frame h) (by decide +kernel)

theorem moveJoint_parts {x0 : Nat} {x1 : Entry} {s t : State} (h : exec (.moveJoint x0 x1) s = .next t) : ∀ p, p ∉ Instr.acts (.moveJoint x0 x1) → p.same s t :=
  parts_of [.mode, .start, .writes, .image, .net, .plan, .solver, .piste, .ctl, .sched, .dsp, .sep, .safety, .cham, .field, .clocks, .power, .pair, .sec, .hw, .nor] (postingAnd [.prof])
    (execMoveJoint_frame h) (by decide +kernel)

theorem moveLinear_parts {x0 : Nat} {x1 : Entry} {s t : State} (h : exec (.moveLinear x0 x1) s = .next t) : ∀ p, p ∉ Instr.acts (.moveLinear x0 x1) → p.same s t :=
  parts_of [.mode, .start, .writes, .image, .net, .plan, .solver, .piste, .ctl, .sched, .dsp, .sep, .safety, .cham, .field, .clocks, .power, .pair, .sec, .hw, .nor] (postingAnd [.prof])
    (execMoveLinear_frame h) (by decide +kernel)

theorem moveConveyor_parts {x0 : Nat} {x1 : Entry} {s t : State} (h : exec (.moveConveyor x0 x1) s = .next t) : ∀ p, p ∉ Instr.acts (.moveConveyor x0 x1) → p.same s t :=
  parts_of [.mode, .start, .writes, .image, .net, .plan, .solver, .piste, .ctl, .sched, .dsp, .sep, .safety, .cham, .field, .clocks, .power, .pair, .sec, .hw, .nor] (postingAnd [.prof])
    (execMoveConveyor_frame h) (by decide +kernel)

theorem stopMove_parts {x0 : Nat} {x1 : Entry} {s t : State} (h : exec (.stopMove x0 x1) s = .next t) : ∀ p, p ∉ Instr.acts (.stopMove x0 x1) → p.same s t :=
  parts_of [.mode, .start, .writes, .image, .net, .plan, .solver, .piste, .ctl, .sched, .dsp, .sep, .safety, .cham, .field, .clocks, .power, .pair, .sec, .hw, .nor] (postingAnd [.prof])
    (execStopMove_frame h) (by decide +kernel)

theorem jog_parts {x0 : Nat} {x1 : Entry} {s t : State} (h : exec (.jog x0 x1) s = .next t) : ∀ p, p ∉ Instr.acts (.jog x0 x1) → p.same s t :=
  parts_of [.mode, .start, .writes, .image, .net, .plan, .solver, .piste, .ctl, .sched, .dsp, .sep, .safety, .cham, .field, .clocks, .power, .pair, .sec, .hw, .nor] (postingAnd [.prof])
    (execJog_frame h) (by decide +kernel)

theorem teach_parts {x0 : Nat} {x1 : Entry} {s t : State} (h : exec (.teach x0 x1) s = .next t) : ∀ p, p ∉ Instr.acts (.teach x0 x1) → p.same s t :=
  parts_of [.mode, .start, .writes, .image, .net, .plan, .solver, .piste, .ctl, .sched, .dsp, .sep, .safety, .cham, .field, .clocks, .power, .pair, .sec, .hw, .nor] (postingAnd [.prof])
    (execTeach_frame h) (by decide +kernel)

theorem pathRequest_parts {x0 : Nat} {x1 : Entry} {s t : State} (h : exec (.pathRequest x0 x1) s = .next t) : ∀ p, p ∉ Instr.acts (.pathRequest x0 x1) → p.same s t :=
  parts_of [.mode, .start, .writes, .image, .net, .solver, .piste, .prof, .ctl, .sched, .dsp, .sep, .safety, .cham, .field, .clocks, .power, .pair, .sec, .hw, .nor] (postingAnd [.plan])
    (execPathRequest_frame h) (by decide +kernel)

theorem zoneRequest_parts {x0 : Nat} {x1 : Entry} {s t : State} (h : exec (.zoneRequest x0 x1) s = .next t) : ∀ p, p ∉ Instr.acts (.zoneRequest x0 x1) → p.same s t :=
  parts_of [.mode, .start, .writes, .image, .net, .plan, .solver, .prof, .ctl, .sched, .dsp, .sep, .safety, .cham, .field, .clocks, .power, .pair, .sec, .hw, .nor] (postingAnd [.piste])
    (execZoneRequest_frame h) (by decide +kernel)

theorem zoneExtend_parts {x0 : Nat} {x1 : Entry} {s t : State} (h : exec (.zoneExtend x0 x1) s = .next t) : ∀ p, p ∉ Instr.acts (.zoneExtend x0 x1) → p.same s t :=
  parts_of [.mode, .start, .writes, .image, .net, .plan, .solver, .prof, .ctl, .sched, .dsp, .sep, .safety, .cham, .field, .clocks, .power, .pair, .sec, .hw, .nor] (postingAnd [.piste])
    (execZoneExtend_frame h) (by decide +kernel)

theorem zoneRelease_parts {x0 : Nat} {x1 : Entry} {s t : State} (h : exec (.zoneRelease x0 x1) s = .next t) : ∀ p, p ∉ Instr.acts (.zoneRelease x0 x1) → p.same s t :=
  parts_of [.mode, .start, .writes, .image, .net, .plan, .solver, .prof, .ctl, .sched, .dsp, .sep, .safety, .cham, .field, .clocks, .power, .pair, .sec, .hw, .nor] (postingAnd [.piste])
    (execZoneRelease_frame h) (by decide +kernel)

theorem acqArm_parts {x0 : Nat} {x1 : Entry} {s t : State} (h : exec (.acqArm x0 x1) s = .next t) : ∀ p, p ∉ Instr.acts (.acqArm x0 x1) → p.same s t :=
  parts_of [.mode, .start, .writes, .image, .net, .plan, .solver, .piste, .prof, .ctl, .sched, .dsp, .sep, .safety, .cham, .field, .clocks, .power, .pair, .sec, .hw, .nor] (posting)
    (execAcqArm_frame h) (by decide +kernel)

theorem acqRead_parts {x0 : Nat} {x1 : Entry} {s t : State} (h : exec (.acqRead x0 x1) s = .next t) : ∀ p, p ∉ Instr.acts (.acqRead x0 x1) → p.same s t :=
  parts_of [.mode, .start, .writes, .image, .net, .plan, .solver, .piste, .prof, .ctl, .sched, .dsp, .sep, .safety, .cham, .field, .clocks, .power, .pair, .sec, .hw, .nor] (posting)
    (execAcqRead_frame h) (by decide +kernel)

theorem logRead_parts {x0 : Nat} {x1 : Entry} {s t : State} (h : exec (.logRead x0 x1) s = .next t) : ∀ p, p ∉ Instr.acts (.logRead x0 x1) → p.same s t :=
  parts_of [.mode, .start, .writes, .image, .net, .plan, .solver, .piste, .prof, .ctl, .sched, .dsp, .sep, .safety, .cham, .field, .clocks, .power, .pair, .sec, .hw, .nor] (posting)
    (execLogRead_frame h) (by decide +kernel)

theorem attest_parts {x0 : Nat} {x1 : Entry} {x2 : Bool} {s t : State} (h : exec (.attest x0 x1 x2) s = .next t) : ∀ p, p ∉ Instr.acts (.attest x0 x1 x2) → p.same s t :=
  parts_of [.mode, .start, .writes, .image, .net, .plan, .solver, .piste, .prof, .ctl, .sched, .dsp, .sep, .safety, .cham, .field, .clocks, .power, .pair, .hw, .nor] (postingAnd [.sec])
    (execAttest_frame h) (by decide +kernel)

theorem keyEnrol_parts {x0 : Nat} {x1 : Entry} {s t : State} (h : exec (.keyEnrol x0 x1) s = .next t) : ∀ p, p ∉ Instr.acts (.keyEnrol x0 x1) → p.same s t :=
  parts_of [.mode, .start, .writes, .image, .net, .plan, .solver, .piste, .prof, .ctl, .sched, .dsp, .sep, .safety, .cham, .field, .clocks, .power, .pair, .hw, .nor] (postingAnd [.sec])
    (execKeyEnrol_frame h) (by decide +kernel)

theorem loaderInfo_parts {x0 : Nat} {x1 : Entry} {s t : State} (h : exec (.loaderInfo x0 x1) s = .next t) : ∀ p, p ∉ Instr.acts (.loaderInfo x0 x1) → p.same s t :=
  parts_of [.mode, .start, .writes, .image, .net, .plan, .solver, .piste, .prof, .ctl, .sched, .dsp, .sep, .safety, .cham, .field, .clocks, .power, .pair, .sec, .hw, .nor] (posting)
    (execLoaderInfo_frame h) (by decide +kernel)

theorem loaderReadRecord_parts {x0 : Nat} {x1 : Entry} {s t : State} (h : exec (.loaderReadRecord x0 x1) s = .next t) : ∀ p, p ∉ Instr.acts (.loaderReadRecord x0 x1) → p.same s t :=
  parts_of [.mode, .start, .writes, .image, .net, .plan, .solver, .piste, .prof, .ctl, .sched, .dsp, .sep, .safety, .cham, .field, .clocks, .power, .pair, .sec, .hw, .nor] (posting)
    (execLoaderReadRecord_frame h) (by decide +kernel)

theorem loaderWriteSlot_parts {x0 : Nat} {x1 : Entry} {s t : State} (h : exec (.loaderWriteSlot x0 x1) s = .next t) : ∀ p, p ∉ Instr.acts (.loaderWriteSlot x0 x1) → p.same s t :=
  parts_of [.mode, .start, .writes, .image, .net, .plan, .solver, .piste, .prof, .ctl, .sched, .dsp, .sep, .safety, .cham, .field, .clocks, .power, .pair, .hw, .nor] (postingAnd [.sec])
    (execLoaderWriteSlot_frame h) (by decide +kernel)

theorem loaderRestart_parts {x0 : Nat} {x1 : Entry} {s t : State} (h : exec (.loaderRestart x0 x1) s = .next t) : ∀ p, p ∉ Instr.acts (.loaderRestart x0 x1) → p.same s t :=
  parts_of [.cham] (postingAnd [.mode, .start, .writes, .image, .net, .plan, .solver, .piste, .prof, .ctl, .sched, .dsp, .sep, .safety, .field, .clocks, .power, .pair, .sec, .hw, .nor])
    (execLoaderRestart_frame h) (by decide +kernel)

theorem unknownOpcode_parts {x0 : Nat} {x1 : Entry} {s t : State} (h : exec (.unknownOpcode x0 x1) s = .next t) : ∀ p, p ∉ Instr.acts (.unknownOpcode x0 x1) → p.same s t :=
  parts_of [.mode, .start, .writes, .image, .net, .plan, .solver, .piste, .prof, .ctl, .sched, .dsp, .sep, .safety, .cham, .field, .clocks, .power, .pair, .sec, .hw, .nor] (posting)
    (execUnknownOpcode_frame h) (by decide +kernel)

theorem udpDatagramRx_parts {x0 : Nat} {x1 : Nat} {x2 : Nat} {x3 : Nat} {x4 : Bool} {x5 : Bytes} {s t : State} (h : exec (.udpDatagramRx x0 x1 x2 x3 x4 x5) s = .next t) : ∀ p, p ∉ Instr.acts (.udpDatagramRx x0 x1 x2 x3 x4 x5) → p.same s t :=
  parts_of [.mode, .start, .writes, .image, .reg, .net, .plan, .solver, .piste, .prof, .ctl, .sched, .dsp, .sep, .safety, .cham, .field, .acq, .logs, .clocks, .power, .pair, .sec, .hw, .nor] ([.zewen, .objs, .herd, .aon, .freeCount])
    (execUdpDatagramRx_frame h) (by decide +kernel)

theorem cmdTailWrite_parts {x0 : Nat} {x1 : Nat} {x2 : Nat} {s t : State} (h : exec (.cmdTailWrite x0 x1 x2) s = .next t) : ∀ p, p ∉ Instr.acts (.cmdTailWrite x0 x1 x2) → p.same s t :=
  parts_of [.mode, .start, .writes, .image, .reg, .objs, .net, .plan, .solver, .piste, .prof, .ctl, .sched, .dsp, .sep, .safety, .cham, .field, .acq, .logs, .clocks, .power, .pair, .sec, .hw, .nor, .freeCount] ([.zewen, .herd, .aon])
    (execCmdTailWrite_frame h) (by decide +kernel)

theorem cplHeadWrite_parts {x0 : Nat} {x1 : Nat} {x2 : Nat} {s t : State} (h : exec (.cplHeadWrite x0 x1 x2) s = .next t) : ∀ p, p ∉ Instr.acts (.cplHeadWrite x0 x1 x2) → p.same s t :=
  parts_of [.mode, .start, .writes, .image, .reg, .objs, .net, .plan, .solver, .piste, .prof, .ctl, .sched, .dsp, .sep, .safety, .cham, .field, .acq, .logs, .clocks, .power, .pair, .sec, .hw, .nor, .freeCount] ([.zewen, .herd, .aon])
    (execCplHeadWrite_frame h) (by decide +kernel)

theorem htNowLoRead_parts {x0 : Nat} {x1 : Bool} {s t : State} (h : exec (.htNowLoRead x0 x1) s = .next t) : ∀ p, p ∉ Instr.acts (.htNowLoRead x0 x1) → p.same s t :=
  parts_of [.mode, .start, .zewen, .writes, .image, .objs, .net, .plan, .solver, .piste, .prof, .ctl, .sched, .dsp, .sep, .safety, .cham, .field, .acq, .logs, .clocks, .power, .pair, .sec, .hw, .nor, .freeCount] ([.reg, .herd, .aon])
    (execHtNowLoRead_frame h) (by decide +kernel)

theorem acqTrigTimeLoRead_parts {x0 : Nat} {x1 : Bool} {s t : State} (h : exec (.acqTrigTimeLoRead x0 x1) s = .next t) : ∀ p, p ∉ Instr.acts (.acqTrigTimeLoRead x0 x1) → p.same s t :=
  parts_of [.mode, .start, .zewen, .writes, .image, .objs, .net, .plan, .solver, .piste, .prof, .ctl, .sched, .dsp, .sep, .safety, .cham, .field, .acq, .logs, .clocks, .power, .pair, .sec, .hw, .nor, .freeCount] ([.reg, .herd, .aon])
    (execAcqTrigTimeLoRead_frame h) (by decide +kernel)

theorem txtsPop_parts {x0 : Nat} {x1 : Bool} {x2 : Nat} {s t : State} (h : exec (.txtsPop x0 x1 x2) s = .next t) : ∀ p, p ∉ Instr.acts (.txtsPop x0 x1 x2) → p.same s t :=
  parts_of [.mode, .start, .writes, .image, .objs, .net, .plan, .solver, .piste, .prof, .ctl, .sched, .dsp, .sep, .safety, .cham, .field, .acq, .logs, .power, .pair, .sec, .hw, .nor, .freeCount] ([.zewen, .reg, .herd, .aon, .clocks])
    (execTxtsPop_frame h) (by decide +kernel)

theorem txtsOvfRead_parts {x0 : Nat} {x1 : Bool} {s t : State} (h : exec (.txtsOvfRead x0 x1) s = .next t) : ∀ p, p ∉ Instr.acts (.txtsOvfRead x0 x1) → p.same s t :=
  parts_of [.mode, .start, .zewen, .writes, .image, .objs, .net, .plan, .solver, .piste, .prof, .ctl, .sched, .dsp, .sep, .safety, .cham, .field, .acq, .logs, .clocks, .power, .pair, .sec, .hw, .nor, .freeCount] ([.reg, .herd, .aon])
    (execTxtsOvfRead_frame h) (by decide +kernel)

theorem errCountRead_parts {x0 : Nat} {x1 : Bool} {s t : State} (h : exec (.errCountRead x0 x1) s = .next t) : ∀ p, p ∉ Instr.acts (.errCountRead x0 x1) → p.same s t :=
  parts_of [.mode, .start, .zewen, .writes, .image, .objs, .net, .plan, .solver, .piste, .prof, .ctl, .sched, .dsp, .sep, .safety, .cham, .field, .acq, .logs, .clocks, .power, .pair, .sec, .hw, .nor, .freeCount] ([.reg, .herd, .aon])
    (execErrCountRead_frame h) (by decide +kernel)

theorem gatedAccessRead_parts {x0 : Nat} {x1 : Bool} {s t : State} (h : exec (.gatedAccessRead x0 x1) s = .next t) : ∀ p, p ∉ Instr.acts (.gatedAccessRead x0 x1) → p.same s t :=
  parts_of [.mode, .start, .zewen, .writes, .image, .objs, .net, .plan, .solver, .piste, .prof, .ctl, .sched, .dsp, .sep, .safety, .cham, .field, .acq, .logs, .clocks, .power, .pair, .sec, .hw, .nor, .freeCount] ([.reg, .herd, .aon])
    (execGatedAccessRead_frame h) (by decide +kernel)

theorem clearFirst_parts {x0 : Nat} {x1 : Bool} {x2 : Nat} {s t : State} (h : exec (.clearFirst x0 x1 x2) s = .next t) : ∀ p, p ∉ Instr.acts (.clearFirst x0 x1 x2) → p.same s t :=
  parts_of [.mode, .start, .writes, .image, .objs, .net, .plan, .solver, .piste, .prof, .ctl, .sched, .dsp, .sep, .safety, .cham, .field, .acq, .logs, .power, .pair, .sec, .hw, .nor, .freeCount] ([.zewen, .reg, .herd, .aon, .clocks])
    (execClearFirst_frame h) (by decide +kernel)

theorem viewClear_parts {x0 : Nat} {x1 : Bool} {x2 : Nat} {s t : State} (h : exec (.viewClear x0 x1 x2) s = .next t) : ∀ p, p ∉ Instr.acts (.viewClear x0 x1 x2) → p.same s t :=
  parts_of [.mode, .start, .writes, .image, .objs, .net, .plan, .solver, .piste, .prof, .ctl, .sched, .dsp, .sep, .safety, .cham, .field, .acq, .logs, .power, .pair, .sec, .hw, .nor, .freeCount] ([.zewen, .reg, .herd, .aon, .clocks])
    (execViewClear_frame h) (by decide +kernel)

theorem intStatusClear_parts {x0 : Nat} {x1 : Bool} {x2 : Nat} {s t : State} (h : exec (.intStatusClear x0 x1 x2) s = .next t) : ∀ p, p ∉ Instr.acts (.intStatusClear x0 x1 x2) → p.same s t :=
  parts_of [.mode, .start, .writes, .image, .objs, .net, .plan, .solver, .piste, .prof, .ctl, .sched, .dsp, .sep, .safety, .cham, .field, .acq, .logs, .power, .pair, .sec, .hw, .nor, .freeCount] ([.zewen, .reg, .herd, .aon, .clocks])
    (execIntStatusClear_frame h) (by decide +kernel)

theorem intMaskWrite_parts {x0 : Nat} {x1 : Bool} {x2 : Nat} {s t : State} (h : exec (.intMaskWrite x0 x1 x2) s = .next t) : ∀ p, p ∉ Instr.acts (.intMaskWrite x0 x1 x2) → p.same s t :=
  parts_of [.mode, .start, .writes, .image, .objs, .net, .plan, .solver, .piste, .prof, .ctl, .sched, .dsp, .sep, .safety, .cham, .field, .acq, .logs, .power, .pair, .sec, .hw, .nor, .freeCount] ([.zewen, .reg, .herd, .aon, .clocks])
    (execIntMaskWrite_frame h) (by decide +kernel)

theorem solverDoneClear_parts {x0 : Nat} {x1 : Bool} {x2 : Nat} {s t : State} (h : exec (.solverDoneClear x0 x1 x2) s = .next t) : ∀ p, p ∉ Instr.acts (.solverDoneClear x0 x1 x2) → p.same s t :=
  parts_of [.mode, .start, .writes, .image, .objs, .net, .plan, .solver, .piste, .prof, .ctl, .sched, .dsp, .sep, .safety, .cham, .field, .acq, .logs, .power, .pair, .sec, .hw, .nor, .freeCount] ([.zewen, .reg, .herd, .aon, .clocks])
    (execSolverDoneClear_frame h) (by decide +kernel)

theorem registerWrite_parts {x0 : Nat} {x1 : Bool} {x2 : Nat} {x3 : Nat} {x4 : Nat} {s t : State} (h : exec (.registerWrite x0 x1 x2 x3 x4) s = .next t) : ∀ p, p ∉ Instr.acts (.registerWrite x0 x1 x2 x3 x4) → p.same s t :=
  parts_of [.mode, .start, .writes, .image, .objs, .net, .plan, .solver, .piste, .prof, .ctl, .sched, .dsp, .sep, .safety, .cham, .field, .acq, .logs, .power, .pair, .sec, .hw, .nor, .freeCount] ([.zewen, .reg, .herd, .aon, .clocks])
    (execRegisterWrite_frame h) (by decide +kernel)

theorem objWriteEffect_parts {x0 : Nat} {s t : State} (h : exec (.objWriteEffect x0) s = .next t) : ∀ p, p ∉ Instr.acts (.objWriteEffect x0) → p.same s t :=
  parts_of [.start, .image, .plan, .sched, .sep, .safety, .cham, .power, .sec, .hw, .nor] (postingAnd [.mode, .writes, .net, .solver, .piste, .prof, .ctl, .dsp, .field, .clocks, .pair])
    (execObjWriteEffect_frame h) (by decide +kernel)

theorem gateRequestTimeout_parts {x0 : Nat} {s t : State} (h : exec (.gateRequestTimeout x0) s = .next t) : ∀ p, p ∉ Instr.acts (.gateRequestTimeout x0) → p.same s t :=
  parts_of [.mode, .start, .image, .net, .plan, .solver, .piste, .prof, .ctl, .sched, .dsp, .sep, .safety, .cham, .field, .power, .pair, .sec, .hw, .nor] (postingAnd [.writes, .clocks])
    (execGateRequestTimeout_frame h) (by decide +kernel)

theorem solverAnalysisDone_parts {x0 : Nat} {x1 : Nat} {s t : State} (h : exec (.solverAnalysisDone x0 x1) s = .next t) : ∀ p, p ∉ Instr.acts (.solverAnalysisDone x0 x1) → p.same s t :=
  parts_of [.mode, .start, .zewen, .writes, .image, .reg, .objs, .net, .plan, .piste, .prof, .ctl, .sched, .dsp, .sep, .safety, .cham, .field, .acq, .logs, .clocks, .power, .pair, .sec, .hw, .nor, .freeCount] ([.herd, .aon, .solver])
    (execSolverAnalysisDone_frame h) (by decide +kernel)

theorem ipmIterationEnd_parts {x0 : Nat} {x1 : Nat} {s t : State} (h : exec (.ipmIterationEnd x0 x1) s = .next t) : ∀ p, p ∉ Instr.acts (.ipmIterationEnd x0 x1) → p.same s t :=
  parts_of [.mode, .start, .zewen, .writes, .image, .reg, .objs, .net, .plan, .piste, .prof, .ctl, .sched, .dsp, .sep, .safety, .cham, .field, .acq, .logs, .clocks, .power, .pair, .sec, .hw, .nor, .freeCount] ([.herd, .aon, .solver])
    (execIpmIterationEnd_frame h) (by decide +kernel)

theorem solverRunEnd_parts {x0 : Nat} {x1 : Nat} {s t : State} (h : exec (.solverRunEnd x0 x1) s = .next t) : ∀ p, p ∉ Instr.acts (.solverRunEnd x0 x1) → p.same s t :=
  parts_of [.mode, .start, .writes, .image, .net, .piste, .prof, .ctl, .sched, .dsp, .sep, .safety, .cham, .field, .clocks, .power, .pair, .sec, .hw, .nor] (postingAnd [.plan, .solver])
    (execSolverRunEnd_frame h) (by decide +kernel)

theorem solveDeadline_parts {x0 : Nat} {x1 : Bool} {x2 : Bool} {s t : State} (h : exec (.solveDeadline x0 x1 x2) s = .next t) : ∀ p, p ∉ Instr.acts (.solveDeadline x0 x1 x2) → p.same s t :=
  parts_of [.mode, .start, .zewen, .writes, .image, .reg, .objs, .net, .plan, .piste, .prof, .ctl, .sched, .dsp, .sep, .safety, .cham, .field, .acq, .logs, .clocks, .power, .pair, .sec, .hw, .nor, .freeCount] ([.herd, .aon, .solver])
    (execSolveDeadline_frame h) (by decide +kernel)

theorem hostRunResume_parts {x0 : Nat} {s t : State} (h : exec (.hostRunResume x0) s = .next t) : ∀ p, p ∉ Instr.acts (.hostRunResume x0) → p.same s t :=
  parts_of [.mode, .start, .zewen, .writes, .image, .reg, .objs, .net, .plan, .piste, .prof, .ctl, .sched, .dsp, .sep, .safety, .cham, .field, .acq, .logs, .clocks, .power, .pair, .sec, .hw, .nor, .freeCount] ([.herd, .aon, .solver])
    (execHostRunResume_frame h) (by decide +kernel)

theorem solverSramUncorrectable_parts {x0 : Nat} {x1 : Nat} {s t : State} (h : exec (.solverSramUncorrectable x0 x1) s = .next t) : ∀ p, p ∉ Instr.acts (.solverSramUncorrectable x0 x1) → p.same s t :=
  parts_of [.writes, .image, .net, .plan, .piste, .prof, .ctl, .sched, .dsp, .sep, .safety, .cham, .field, .clocks, .power, .pair, .sec, .hw] (postingAnd [.mode, .start, .solver, .nor])
    (execSolverSramUncorrectable_frame h) (by decide +kernel)

theorem tickStart_parts {s t : State} (h : exec .tickStart s = .next t) : ∀ p, p ∉ Instr.acts .tickStart → p.same s t :=
  parts_of [.sec, .hw] (postingAnd [.mode, .start, .writes, .image, .net, .plan, .solver, .piste, .prof, .ctl, .sched, .dsp, .sep, .safety, .cham, .field, .clocks, .power, .pair, .nor])
    (execTickStart_frame h) (by decide +kernel)

theorem modeTransitionComplete_parts {x0 : Nat} {s t : State} (h : exec (.modeTransitionComplete x0) s = .next t) : ∀ p, p ∉ Instr.acts (.modeTransitionComplete x0) → p.same s t :=
  parts_of [.start, .writes, .image, .net, .plan, .solver, .piste, .prof, .ctl, .sched, .dsp, .sep, .safety, .cham, .field, .clocks, .power, .pair, .sec, .hw, .nor] (postingAnd [.mode])
    (execModeTransitionComplete_frame h) (by decide +kernel)

theorem profilePass_parts {x0 : Nat} {s t : State} (h : exec (.profilePass x0) s = .next t) : ∀ p, p ∉ Instr.acts (.profilePass x0) → p.same s t :=
  parts_of [.mode, .start, .writes, .image, .net, .solver, .dsp, .sep, .safety, .cham, .field, .clocks, .power, .sec, .hw, .nor] (postingAnd [.plan, .piste, .prof, .ctl, .sched, .pair])
    (execProfilePass_frame h) (by decide +kernel)

theorem arbiterPass_parts {x0 : Nat} {s t : State} (h : exec (.arbiterPass x0) s = .next t) : ∀ p, p ∉ Instr.acts (.arbiterPass x0) → p.same s t :=
  parts_of [.start, .writes, .image, .net, .plan, .solver, .prof, .ctl, .sched, .dsp, .sep, .safety, .cham, .field, .clocks, .power, .sec, .hw, .nor] (postingAnd [.mode, .piste, .pair])
    (execArbiterPass_frame h) (by decide +kernel)

theorem leaseExpiry_parts {x0 : Nat} {x1 : Nat} {s t : State} (h : exec (.leaseExpiry x0 x1) s = .next t) : ∀ p, p ∉ Instr.acts (.leaseExpiry x0 x1) → p.same s t :=
  parts_of [.mode, .start, .zewen, .writes, .image, .reg, .net, .plan, .solver, .prof, .ctl, .sched, .dsp, .sep, .safety, .cham, .field, .acq, .logs, .clocks, .power, .pair, .sec, .hw, .nor] ([.objs, .herd, .aon, .piste, .freeCount])
    (execLeaseExpiry_frame h) (by decide +kernel)

theorem plannerSnapshot_parts {x0 : Nat} {s t : State} (h : exec (.plannerSnapshot x0) s = .next t) : ∀ p, p ∉ Instr.acts (.plannerSnapshot x0) → p.same s t :=
  parts_of [.mode, .start, .writes, .image, .net, .solver, .piste, .prof, .ctl, .sched, .dsp, .sep, .safety, .cham, .field, .clocks, .power, .pair, .sec, .hw, .nor] (postingAnd [.plan])
    (execPlannerSnapshot_frame h) (by decide +kernel)

theorem plannerPost_parts {x0 : Nat} {s t : State} (h : exec (.plannerPost x0) s = .next t) : ∀ p, p ∉ Instr.acts (.plannerPost x0) → p.same s t :=
  parts_of [.mode, .start, .writes, .image, .net, .piste, .prof, .ctl, .sched, .dsp, .sep, .safety, .cham, .field, .clocks, .power, .pair, .sec, .hw, .nor] (postingAnd [.plan, .solver])
    (execPlannerPost_frame h) (by decide +kernel)

theorem commitTest_parts {x0 : Nat} {s t : State} (h : exec (.commitTest x0) s = .next t) : ∀ p, p ∉ Instr.acts (.commitTest x0) → p.same s t :=
  parts_of [.mode, .start, .writes, .image, .net, .solver, .prof, .ctl, .sched, .dsp, .sep, .safety, .cham, .field, .clocks, .power, .pair, .sec, .hw, .nor] (postingAnd [.plan, .piste])
    (execCommitTest_frame h) (by decide +kernel)

theorem commitCutoff_parts {x0 : Nat} {s t : State} (h : exec (.commitCutoff x0) s = .next t) : ∀ p, p ∉ Instr.acts (.commitCutoff x0) → p.same s t :=
  parts_of [.mode, .start, .writes, .image, .net, .solver, .piste, .prof, .ctl, .sched, .dsp, .sep, .safety, .cham, .field, .clocks, .power, .pair, .sec, .hw, .nor] (postingAnd [.plan])
    (execCommitCutoff_frame h) (by decide +kernel)

theorem separationStep_parts {x0 : Nat} {s t : State} (h : exec (.separationStep x0) s = .next t) : ∀ p, p ∉ Instr.acts (.separationStep x0) → p.same s t :=
  parts_of [.mode, .start, .zewen, .writes, .image, .reg, .net, .plan, .solver, .piste, .prof, .ctl, .sched, .dsp, .safety, .cham, .field, .acq, .logs, .clocks, .power, .pair, .sec, .hw, .nor] ([.objs, .herd, .aon, .sep, .freeCount])
    (execSeparationStep_frame h) (by decide +kernel)

theorem processorResult_parts {x0 : Nat} {s t : State} (h : exec (.processorResult x0) s = .next t) : ∀ p, p ∉ Instr.acts (.processorResult x0) → p.same s t :=
  parts_of [.writes, .image, .net, .plan, .solver, .piste, .prof, .ctl, .sched, .dsp, .field, .clocks, .power, .pair, .sec, .hw] (postingAnd [.mode, .start, .sep, .safety, .cham, .nor])
    (execProcessorResult_frame h) (by decide +kernel)

theorem chamoisResult_parts {x0 : Nat} {s t : State} (h : exec (.chamoisResult x0) s = .next t) : ∀ p, p ∉ Instr.acts (.chamoisResult x0) → p.same s t :=
  parts_of [.writes, .image, .net, .plan, .solver, .piste, .prof, .ctl, .sched, .dsp, .field, .clocks, .power, .pair, .sec, .hw] (postingAnd [.mode, .start, .sep, .safety, .cham, .nor])
    (execChamoisResult_frame h) (by decide +kernel)

theorem separationCombination_parts {x0 : Nat} {s t : State} (h : exec (.separationCombination x0) s = .next t) : ∀ p, p ∉ Instr.acts (.separationCombination x0) → p.same s t :=
  parts_of [.writes, .image, .net, .plan, .solver, .piste, .prof, .ctl, .sched, .dsp, .safety, .cham, .field, .clocks, .power, .pair, .sec, .hw] (postingAnd [.mode, .start, .sep, .nor])
    (execSeparationCombination_frame h) (by decide +kernel)

theorem jointStale_parts {x0 : Nat} {x1 : Bool} {x2 : Nat} {s t : State} (h : exec (.jointStale x0 x1 x2) s = .next t) : ∀ p, p ∉ Instr.acts (.jointStale x0 x1 x2) → p.same s t :=
  parts_of [.mode, .start, .zewen, .writes, .image, .reg, .objs, .net, .plan, .solver, .piste, .prof, .ctl, .sched, .dsp, .safety, .cham, .field, .acq, .logs, .clocks, .power, .pair, .sec, .hw, .nor, .freeCount] ([.herd, .aon, .sep])
    (execJointStale_frame h) (by decide +kernel)

theorem sensorWorst_parts {x0 : Nat} {x1 : Nat} {s t : State} (h : exec (.sensorWorst x0 x1) s = .next t) : ∀ p, p ∉ Instr.acts (.sensorWorst x0 x1) → p.same s t :=
  parts_of [.mode, .start, .writes, .image, .net, .plan, .solver, .piste, .prof, .ctl, .sched, .dsp, .safety, .cham, .field, .clocks, .power, .pair, .sec, .hw, .nor] (postingAnd [.sep])
    (execSensorWorst_frame h) (by decide +kernel)

theorem ss2Release_parts {x0 : Nat} {x1 : Nat} {s t : State} (h : exec (.ss2Release x0 x1) s = .next t) : ∀ p, p ∉ Instr.acts (.ss2Release x0 x1) → p.same s t :=
  parts_of [.mode, .start, .zewen, .writes, .image, .reg, .objs, .net, .plan, .solver, .piste, .prof, .ctl, .sched, .dsp, .safety, .cham, .field, .acq, .logs, .clocks, .power, .pair, .sec, .hw, .nor, .freeCount] ([.herd, .aon, .sep])
    (execSs2Release_frame h) (by decide +kernel)

theorem downstreamCommitPoint_parts {x0 : Nat} {x1 : Bool} {x2 : Nat} {s t : State} (h : exec (.downstreamCommitPoint x0 x1 x2) s = .next t) : ∀ p, p ∉ Instr.acts (.downstreamCommitPoint x0 x1 x2) → p.same s t :=
  parts_of [.mode, .start, .zewen, .writes, .image, .reg, .plan, .solver, .piste, .prof, .ctl, .sched, .dsp, .sep, .cham, .field, .acq, .logs, .clocks, .power, .pair, .sec, .hw, .nor] ([.objs, .herd, .aon, .net, .safety, .freeCount])
    (execDownstreamCommitPoint_frame h) (by decide +kernel)

theorem processFrameRx_parts {x0 : Nat} {x1 : RxFrame} {s t : State} (h : exec (.processFrameRx x0 x1) s = .next t) : ∀ p, p ∉ Instr.acts (.processFrameRx x0 x1) → p.same s t :=
  parts_of [.mode, .start, .zewen, .writes, .image, .reg, .plan, .solver, .piste, .prof, .dsp, .cham, .field, .acq, .logs, .clocks, .power, .sec, .hw, .nor] ([.objs, .herd, .aon, .net, .ctl, .sched, .sep, .safety, .pair, .freeCount])
    (execProcessFrameRx_frame h) (by decide +kernel)

theorem safetyFrameRx_parts {x0 : Nat} {x1 : RxFrame} {s t : State} (h : exec (.safetyFrameRx x0 x1) s = .next t) : ∀ p, p ∉ Instr.acts (.safetyFrameRx x0 x1) → p.same s t :=
  parts_of [.mode, .start, .zewen, .writes, .image, .reg, .plan, .solver, .piste, .prof, .dsp, .cham, .field, .acq, .logs, .clocks, .power, .sec, .hw, .nor] ([.objs, .herd, .aon, .net, .ctl, .sched, .sep, .safety, .pair, .freeCount])
    (execSafetyFrameRx_frame h) (by decide +kernel)

theorem messageRx_parts {x0 : Nat} {x1 : RxFrame} {s t : State} (h : exec (.messageRx x0 x1) s = .next t) : ∀ p, p ∉ Instr.acts (.messageRx x0 x1) → p.same s t :=
  parts_of [.mode, .start, .writes, .image, .plan, .solver, .piste, .prof, .ctl, .sched, .dsp, .sep, .safety, .cham, .field, .acq, .logs, .clocks, .power, .pair, .sec, .hw, .nor] ([.zewen, .reg, .objs, .herd, .aon, .net, .freeCount])
    (execMessageRx_frame h) (by decide +kernel)

theorem delayRespRx_parts {x0 : Nat} {x1 : RxFrame} {s t : State} (h : exec (.delayRespRx x0 x1) s = .next t) : ∀ p, p ∉ Instr.acts (.delayRespRx x0 x1) → p.same s t :=
  parts_of [.mode, .start, .zewen, .writes, .image, .reg, .plan, .solver, .piste, .prof, .ctl, .sched, .dsp, .sep, .safety, .cham, .field, .acq, .logs, .clocks, .power, .sec, .hw, .nor] ([.objs, .herd, .aon, .net, .pair, .freeCount])
    (execDelayRespRx_frame h) (by decide +kernel)

theorem startupRx_parts {x0 : Nat} {x1 : RxFrame} {s t : State} (h : exec (.startupRx x0 x1) s = .next t) : ∀ p, p ∉ Instr.acts (.startupRx x0 x1) → p.same s t :=
  parts_of [.mode, .start, .zewen, .writes, .image, .reg, .plan, .solver, .piste, .prof, .ctl, .sched, .dsp, .sep, .safety, .cham, .field, .acq, .logs, .clocks, .power, .pair, .sec, .hw, .nor] ([.objs, .herd, .aon, .net, .freeCount])
    (execStartupRx_frame h) (by decide +kernel)

theorem slotWindowClose_parts {x0 : Nat} {x1 : Nat} {s t : State} (h : exec (.slotWindowClose x0 x1) s = .next t) : ∀ p, p ∉ Instr.acts (.slotWindowClose x0 x1) → p.same s t :=
  parts_of [.mode, .start, .zewen, .writes, .image, .reg, .plan, .solver, .piste, .prof, .dsp, .sep, .cham, .field, .acq, .logs, .clocks, .power, .pair, .sec, .hw, .nor] ([.objs, .herd, .aon, .net, .ctl, .sched, .safety, .freeCount])
    (execSlotWindowClose_frame h) (by decide +kernel)

theorem downstreamNitStart_parts {x0 : Nat} {s t : State} (h : exec (.downstreamNitStart x0) s = .next t) : ∀ p, p ∉ Instr.acts (.downstreamNitStart x0) → p.same s t :=
  parts_of [.mode, .start, .zewen, .writes, .image, .reg, .objs, .plan, .solver, .piste, .prof, .ctl, .sched, .dsp, .sep, .safety, .cham, .field, .acq, .logs, .clocks, .power, .pair, .sec, .hw, .nor, .freeCount] ([.herd, .aon, .net])
    (execDownstreamNitStart_frame h) (by decide +kernel)

theorem ringRestoreAt_parts {x0 : Nat} {x1 : Nat} {s t : State} (h : exec (.ringRestoreAt x0 x1) s = .next t) : ∀ p, p ∉ Instr.acts (.ringRestoreAt x0 x1) → p.same s t :=
  parts_of [.mode, .start, .zewen, .writes, .image, .reg, .objs, .plan, .solver, .piste, .prof, .ctl, .sched, .dsp, .sep, .safety, .cham, .field, .acq, .logs, .clocks, .power, .pair, .sec, .hw, .nor, .freeCount] ([.herd, .aon, .net])
    (execRingRestoreAt_frame h) (by decide +kernel)

theorem listenTimeout_parts {x0 : Nat} {s t : State} (h : exec (.listenTimeout x0) s = .next t) : ∀ p, p ∉ Instr.acts (.listenTimeout x0) → p.same s t :=
  parts_of [.mode, .start, .zewen, .writes, .image, .reg, .objs, .plan, .solver, .piste, .prof, .ctl, .sched, .dsp, .sep, .safety, .cham, .field, .acq, .logs, .clocks, .power, .pair, .sec, .hw, .nor, .freeCount] ([.herd, .aon, .net])
    (execListenTimeout_frame h) (by decide +kernel)

theorem startWindowClose_parts {x0 : Nat} {s t : State} (h : exec (.startWindowClose x0) s = .next t) : ∀ p, p ∉ Instr.acts (.startWindowClose x0) → p.same s t :=
  parts_of [.mode, .start, .zewen, .writes, .image, .reg, .objs, .plan, .solver, .piste, .prof, .ctl, .sched, .dsp, .sep, .safety, .cham, .field, .acq, .logs, .clocks, .power, .pair, .sec, .hw, .nor, .freeCount] ([.herd, .aon, .net])
    (execStartWindowClose_frame h) (by decide +kernel)

theorem backoffEnd_parts {x0 : Nat} {s t : State} (h : exec (.backoffEnd x0) s = .next t) : ∀ p, p ∉ Instr.acts (.backoffEnd x0) → p.same s t :=
  parts_of [.mode, .start, .zewen, .writes, .image, .reg, .objs, .plan, .solver, .piste, .prof, .ctl, .sched, .dsp, .sep, .safety, .cham, .field, .acq, .logs, .clocks, .power, .pair, .sec, .hw, .nor, .freeCount] ([.herd, .aon, .net])
    (execBackoffEnd_frame h) (by decide +kernel)

theorem nodeIntegrated_parts {x0 : Nat} {x1 : Nat} {s t : State} (h : exec (.nodeIntegrated x0 x1) s = .next t) : ∀ p, p ∉ Instr.acts (.nodeIntegrated x0 x1) → p.same s t :=
  parts_of [.mode, .start, .zewen, .writes, .image, .reg, .plan, .solver, .piste, .prof, .ctl, .sched, .dsp, .sep, .safety, .cham, .field, .acq, .logs, .clocks, .power, .pair, .sec, .hw, .nor] ([.objs, .herd, .aon, .net, .freeCount])
    (execNodeIntegrated_frame h) (by decide +kernel)

theorem nodeLost_parts {x0 : Nat} {x1 : Nat} {s t : State} (h : exec (.nodeLost x0 x1) s = .next t) : ∀ p, p ∉ Instr.acts (.nodeLost x0 x1) → p.same s t :=
  parts_of [.mode, .start, .writes, .image, .plan, .solver, .piste, .prof, .ctl, .sched, .dsp, .sep, .safety, .cham, .field, .clocks, .power, .pair, .sec, .hw, .nor] (postingAnd [.net])
    (execNodeLost_frame h) (by decide +kernel)

theorem driftWarn_parts {x0 : Nat} {x1 : Nat} {s t : State} (h : exec (.driftWarn x0 x1) s = .next t) : ∀ p, p ∉ Instr.acts (.driftWarn x0 x1) → p.same s t :=
  parts_of [.mode, .start, .writes, .image, .plan, .solver, .piste, .prof, .ctl, .sched, .dsp, .sep, .safety, .cham, .field, .clocks, .power, .pair, .sec, .hw, .nor] (postingAnd [.net])
    (execDriftWarn_frame h) (by decide +kernel)

theorem safetySingle_parts {x0 : Nat} {x1 : Nat} {s t : State} (h : exec (.safetySingle x0 x1) s = .next t) : ∀ p, p ∉ Instr.acts (.safetySingle x0 x1) → p.same s t :=
  parts_of [.mode, .start, .writes, .image, .plan, .solver, .piste, .prof, .ctl, .sched, .dsp, .sep, .safety, .cham, .field, .clocks, .power, .pair, .sec, .hw, .nor] (postingAnd [.net])
    (execSafetySingle_frame h) (by decide +kernel)

theorem linkSyncLoss_parts {x0 : Nat} {x1 : Nat} {s t : State} (h : exec (.linkSyncLoss x0 x1) s = .next t) : ∀ p, p ∉ Instr.acts (.linkSyncLoss x0 x1) → p.same s t :=
  parts_of [.mode, .start, .writes, .image, .plan, .solver, .piste, .prof, .ctl, .sched, .dsp, .sep, .safety, .cham, .field, .clocks, .power, .sec, .hw, .nor] (postingAnd [.net, .pair])
    (execLinkSyncLoss_frame h) (by decide +kernel)

theorem operandPost_parts {x0 : Nat} {s t : State} (h : exec (.operandPost x0) s = .next t) : ∀ p, p ∉ Instr.acts (.operandPost x0) → p.same s t :=
  parts_of [.mode, .start, .zewen, .writes, .image, .reg, .net, .plan, .solver, .piste, .prof, .ctl, .dsp, .sep, .safety, .cham, .field, .acq, .logs, .clocks, .power, .pair, .sec, .hw, .nor] ([.objs, .herd, .aon, .sched, .freeCount])
    (execOperandPost_frame h) (by decide +kernel)

theorem timedDue_parts {x0 : Nat} {s t : State} (h : exec (.timedDue x0) s = .next t) : ∀ p, p ∉ Instr.acts (.timedDue x0) → p.same s t :=
  parts_of [.mode, .start, .zewen, .writes, .image, .reg, .net, .plan, .solver, .piste, .prof, .ctl, .dsp, .sep, .safety, .cham, .field, .acq, .logs, .clocks, .power, .pair, .sec, .hw, .nor] ([.objs, .herd, .aon, .sched, .freeCount])
    (execTimedDue_frame h) (by decide +kernel)

theorem taskDispatch_parts {x0 : Nat} {x1 : Nat} {s t : State} (h : exec (.taskDispatch x0 x1) s = .next t) : ∀ p, p ∉ Instr.acts (.taskDispatch x0 x1) → p.same s t :=
  parts_of [.mode, .start, .zewen, .writes, .image, .reg, .net, .plan, .solver, .piste, .prof, .ctl, .dsp, .sep, .safety, .cham, .field, .acq, .logs, .clocks, .power, .pair, .sec, .hw, .nor] ([.objs, .herd, .aon, .sched, .freeCount])
    (execTaskDispatch_frame h) (by decide +kernel)

theorem loopExecution_parts {x0 : Nat} {x1 : Nat} {s t : State} (h : exec (.loopExecution x0 x1) s = .next t) : ∀ p, p ∉ Instr.acts (.loopExecution x0 x1) → p.same s t :=
  parts_of [.mode, .start, .writes, .image, .plan, .solver, .piste, .prof, .dsp, .sep, .safety, .cham, .clocks, .power, .pair, .sec, .hw, .nor] (postingAnd [.net, .ctl, .sched, .field])
    (execLoopExecution_frame h) (by decide +kernel)

theorem axisFault_parts {x0 : Nat} {x1 : Nat} {s t : State} (h : exec (.axisFault x0 x1) s = .next t) : ∀ p, p ∉ Instr.acts (.axisFault x0 x1) → p.same s t :=
  parts_of [.writes, .image, .net, .plan, .solver, .prof, .sched, .dsp, .sep, .safety, .cham, .field, .clocks, .power, .pair, .sec, .hw] (postingAnd [.mode, .start, .piste, .ctl, .nor])
    (execAxisFault_frame h) (by decide +kernel)

theorem matchExpired_parts {x0 : Nat} {s t : State} (h : exec (.matchExpired x0) s = .next t) : ∀ p, p ∉ Instr.acts (.matchExpired x0) → p.same s t :=
  parts_of [.start, .writes, .image, .net, .plan, .solver, .piste, .prof, .ctl, .dsp, .sep, .safety, .cham, .field, .clocks, .power, .pair, .sec, .hw, .nor] (postingAnd [.mode, .sched])
    (execMatchExpired_frame h) (by decide +kernel)

theorem backpressureRelease_parts {x0 : Nat} {s t : State} (h : exec (.backpressureRelease x0) s = .next t) : ∀ p, p ∉ Instr.acts (.backpressureRelease x0) → p.same s t :=
  parts_of [.mode, .start, .zewen, .writes, .image, .reg, .net, .plan, .solver, .piste, .prof, .ctl, .dsp, .sep, .safety, .cham, .field, .acq, .logs, .clocks, .power, .pair, .sec, .hw, .nor] ([.objs, .herd, .aon, .sched, .freeCount])
    (execBackpressureRelease_frame h) (by decide +kernel)

theorem kernelRun_parts {x0 : Nat} {x1 : Nat} {x2 : Nat} {s t : State} (h : exec (.kernelRun x0 x1 x2) s = .next t) : ∀ p, p ∉ Instr.acts (.kernelRun x0 x1 x2) → p.same s t :=
  parts_of [.start, .writes, .image, .net, .plan, .solver, .piste, .prof, .ctl, .sched, .sep, .safety, .cham, .field, .clocks, .power, .pair, .sec, .hw, .nor] (postingAnd [.mode, .dsp])
    (execKernelRun_frame h) (by decide +kernel)

theorem kernelWindowClose_parts {x0 : Nat} {x1 : Nat} {s t : State} (h : exec (.kernelWindowClose x0 x1) s = .next t) : ∀ p, p ∉ Instr.acts (.kernelWindowClose x0 x1) → p.same s t :=
  parts_of [.start, .writes, .image, .net, .plan, .solver, .piste, .prof, .ctl, .sched, .sep, .safety, .cham, .field, .clocks, .power, .pair, .sec, .hw, .nor] (postingAnd [.mode, .dsp])
    (execKernelWindowClose_frame h) (by decide +kernel)

theorem processorEvaluation_parts {x0 : Nat} {x1 : Nat} {x2 : Nat} {x3 : Bool} {x4 : Nat} {x5 : Nat} {x6 : List Nat} {s t : State} (h : exec (.processorEvaluation x0 x1 x2 x3 x4 x5 x6) s = .next t) : ∀ p, p ∉ Instr.acts (.processorEvaluation x0 x1 x2 x3 x4 x5 x6) → p.same s t :=
  parts_of [.writes, .image, .net, .plan, .solver, .piste, .prof, .ctl, .sched, .dsp, .sep, .cham, .field, .clocks, .power, .sec, .hw] (postingAnd [.mode, .start, .safety, .pair, .nor])
    (execProcessorEvaluation_frame h) (by decide +kernel)

theorem chamoisEvaluation_parts {x0 : Nat} {x1 : Nat} {x2 : Nat} {x3 : Bool} {x4 : Nat} {x5 : Nat} {x6 : List Nat} {s t : State} (h : exec (.chamoisEvaluation x0 x1 x2 x3 x4 x5 x6) s = .next t) : ∀ p, p ∉ Instr.acts (.chamoisEvaluation x0 x1 x2 x3 x4 x5 x6) → p.same s t :=
  parts_of [.writes, .image, .net, .plan, .solver, .piste, .prof, .ctl, .sched, .dsp, .sep, .field, .clocks, .power, .pair, .sec, .hw] (postingAnd [.mode, .start, .safety, .cham, .nor])
    (execChamoisEvaluation_frame h) (by decide +kernel)

theorem safetyStatusRx_parts {x0 : Nat} {x1 : Bool} {s t : State} (h : exec (.safetyStatusRx x0 x1) s = .next t) : ∀ p, p ∉ Instr.acts (.safetyStatusRx x0 x1) → p.same s t :=
  parts_of [.mode, .start, .zewen, .writes, .image, .reg, .objs, .net, .plan, .solver, .piste, .prof, .ctl, .sched, .dsp, .sep, .field, .acq, .logs, .clocks, .power, .pair, .sec, .hw, .nor, .freeCount] ([.herd, .aon, .safety, .cham])
    (execSafetyStatusRx_frame h) (by decide +kernel)

theorem channelSilent_parts {x0 : Nat} {x1 : Bool} {s t : State} (h : exec (.channelSilent x0 x1) s = .next t) : ∀ p, p ∉ Instr.acts (.channelSilent x0 x1) → p.same s t :=
  parts_of [.writes, .image, .net, .plan, .solver, .piste, .prof, .ctl, .sched, .dsp, .sep, .field, .clocks, .power, .pair, .sec, .hw] (postingAnd [.mode, .start, .safety, .cham, .nor])
    (execChannelSilent_frame h) (by decide +kernel)

theorem crossMismatch_parts {x0 : Nat} {x1 : Bool} {x2 : Nat} {s t : State} (h : exec (.crossMismatch x0 x1 x2) s = .next t) : ∀ p, p ∉ Instr.acts (.crossMismatch x0 x1 x2) → p.same s t :=
  parts_of [.writes, .image, .net, .plan, .solver, .piste, .prof, .ctl, .sched, .dsp, .sep, .field, .clocks, .power, .pair, .sec, .hw] (postingAnd [.mode, .start, .safety, .cham, .nor])
    (execCrossMismatch_frame h) (by decide +kernel)

theorem oscillatorMismatch_parts {x0 : Nat} {x1 : Bool} {s t : State} (h : exec (.oscillatorMismatch x0 x1) s = .next t) : ∀ p, p ∉ Instr.acts (.oscillatorMismatch x0 x1) → p.same s t :=
  parts_of [.writes, .image, .net, .plan, .solver, .piste, .prof, .ctl, .sched, .dsp, .sep, .field, .clocks, .power, .pair, .sec, .hw] (postingAnd [.mode, .start, .safety, .cham, .nor])
    (execOscillatorMismatch_frame h) (by decide +kernel)

theorem discrepancy_parts {x0 : Nat} {x1 : Bool} {x2 : Nat} {s t : State} (h : exec (.discrepancy x0 x1 x2) s = .next t) : ∀ p, p ∉ Instr.acts (.discrepancy x0 x1 x2) → p.same s t :=
  parts_of [.writes, .image, .net, .plan, .solver, .piste, .prof, .ctl, .sched, .dsp, .sep, .cham, .field, .clocks, .power, .pair, .sec, .hw] (postingAnd [.mode, .start, .safety, .nor])
    (execDiscrepancy_frame h) (by decide +kernel)

theorem ss1Timeout_parts {x0 : Nat} {x1 : Bool} {x2 : Nat} {s t : State} (h : exec (.ss1Timeout x0 x1 x2) s = .next t) : ∀ p, p ∉ Instr.acts (.ss1Timeout x0 x1 x2) → p.same s t :=
  parts_of [.mode, .start, .writes, .image, .net, .plan, .solver, .piste, .prof, .ctl, .sched, .dsp, .sep, .cham, .field, .clocks, .power, .pair, .sec, .hw, .nor] (postingAnd [.safety])
    (execSs1Timeout_frame h) (by decide +kernel)

theorem netInputStale_parts {x0 : Nat} {x1 : Bool} {x2 : Nat} {s t : State} (h : exec (.netInputStale x0 x1 x2) s = .next t) : ∀ p, p ∉ Instr.acts (.netInputStale x0 x1 x2) → p.same s t :=
  parts_of [.mode, .start, .zewen, .writes, .image, .reg, .objs, .net, .plan, .solver, .piste, .prof, .ctl, .sched, .dsp, .sep, .cham, .field, .acq, .logs, .clocks, .power, .pair, .sec, .hw, .nor, .freeCount] ([.herd, .aon, .safety])
    (execNetInputStale_frame h) (by decide +kernel)

theorem darkPulseTest_parts {x0 : Nat} {x1 : Bool} {x2 : Nat} {x3 : Bool} {s t : State} (h : exec (.darkPulseTest x0 x1 x2 x3) s = .next t) : ∀ p, p ∉ Instr.acts (.darkPulseTest x0 x1 x2 x3) → p.same s t :=
  parts_of [.writes, .image, .net, .plan, .solver, .piste, .prof, .ctl, .sched, .dsp, .sep, .cham, .field, .clocks, .power, .pair, .sec, .hw] (postingAnd [.mode, .start, .safety, .nor])
    (execDarkPulseTest_frame h) (by decide +kernel)

theorem outputDiagnosis_parts {x0 : Nat} {x1 : Bool} {x2 : Nat} {x3 : Nat} {x4 : Bool} {s t : State} (h : exec (.outputDiagnosis x0 x1 x2 x3 x4) s = .next t) : ∀ p, p ∉ Instr.acts (.outputDiagnosis x0 x1 x2 x3 x4) → p.same s t :=
  parts_of [.writes, .image, .net, .plan, .solver, .piste, .prof, .ctl, .sched, .dsp, .sep, .cham, .field, .clocks, .power, .pair, .sec, .hw] (postingAnd [.mode, .start, .safety, .nor])
    (execOutputDiagnosis_frame h) (by decide +kernel)

theorem outputCurrentLimit_parts {x0 : Nat} {x1 : Nat} {s t : State} (h : exec (.outputCurrentLimit x0 x1) s = .next t) : ∀ p, p ∉ Instr.acts (.outputCurrentLimit x0 x1) → p.same s t :=
  parts_of [.mode, .start, .zewen, .writes, .image, .reg, .objs, .net, .plan, .solver, .piste, .prof, .ctl, .sched, .dsp, .sep, .cham, .field, .acq, .logs, .clocks, .power, .pair, .sec, .hw, .nor, .freeCount] ([.herd, .aon, .safety])
    (execOutputCurrentLimit_frame h) (by decide +kernel)

theorem sresetEdge_parts {x0 : Nat} {s t : State} (h : exec (.sresetEdge x0) s = .next t) : ∀ p, p ∉ Instr.acts (.sresetEdge x0) → p.same s t :=
  parts_of [.start, .zewen, .writes, .image, .reg, .net, .plan, .solver, .piste, .prof, .ctl, .sched, .dsp, .sep, .cham, .field, .acq, .logs, .clocks, .power, .pair, .sec, .hw, .nor] ([.mode, .objs, .herd, .aon, .safety, .freeCount])
    (execSresetEdge_frame h) (by decide +kernel)

theorem resetEdgeWindowExpiry_parts {x0 : Nat} {s t : State} (h : exec (.resetEdgeWindowExpiry x0) s = .next t) : ∀ p, p ∉ Instr.acts (.resetEdgeWindowExpiry x0) → p.same s t :=
  parts_of [.start, .zewen, .writes, .image, .reg, .objs, .net, .plan, .solver, .piste, .prof, .ctl, .sched, .dsp, .sep, .safety, .cham, .field, .acq, .logs, .clocks, .power, .pair, .sec, .hw, .nor, .freeCount] ([.mode, .herd, .aon])
    (execResetEdgeWindowExpiry_frame h) (by decide +kernel)

theorem sw1Change_parts {x0 : Nat} {s t : State} (h : exec (.sw1Change x0) s = .next t) : ∀ p, p ∉ Instr.acts (.sw1Change x0) → p.same s t :=
  parts_of [.mode, .start, .writes, .image, .net, .plan, .solver, .piste, .prof, .ctl, .sched, .dsp, .sep, .cham, .field, .clocks, .power, .pair, .sec, .hw, .nor] (postingAnd [.safety])
    (execSw1Change_frame h) (by decide +kernel)

theorem containedErrorRate_parts {x0 : Nat} {x1 : Nat} {x2 : Nat} {s t : State} (h : exec (.containedErrorRate x0 x1 x2) s = .next t) : ∀ p, p ∉ Instr.acts (.containedErrorRate x0 x1 x2) → p.same s t :=
  parts_of [.writes, .net, .prof, .ctl, .sched, .dsp, .sep, .safety, .cham, .field, .clocks, .power, .pair, .hw] (postingAnd [.mode, .start, .image, .plan, .solver, .piste, .sec, .nor])
    (execContainedErrorRate_frame h) (by decide +kernel)

theorem supervisorWatchdogExpiry_parts {x0 : Nat} {s t : State} (h : exec (.supervisorWatchdogExpiry x0) s = .next t) : ∀ p, p ∉ Instr.acts (.supervisorWatchdogExpiry x0) → p.same s t :=
  parts_of [.cham] (postingAnd [.mode, .start, .writes, .image, .net, .plan, .solver, .piste, .prof, .ctl, .sched, .dsp, .sep, .safety, .field, .clocks, .power, .pair, .sec, .hw, .nor])
    (execSupervisorWatchdogExpiry_frame h) (by decide +kernel)

theorem ddrUncorrectableError_parts {x0 : Nat} {x1 : Nat} {x2 : Nat} {x3 : Nat} {s t : State} (h : exec (.ddrUncorrectableError x0 x1 x2 x3) s = .next t) : ∀ p, p ∉ Instr.acts (.ddrUncorrectableError x0 x1 x2 x3) → p.same s t :=
  parts_of [.writes, .image, .net, .plan, .solver, .piste, .prof, .ctl, .sched, .dsp, .sep, .safety, .cham, .field, .clocks, .power, .pair, .sec, .hw] (postingAnd [.mode, .start, .nor])
    (execDdrUncorrectableError_frame h) (by decide +kernel)

theorem inputFilterStep_parts {x0 : Nat} {x1 : Nat} {s t : State} (h : exec (.inputFilterStep x0 x1) s = .next t) : ∀ p, p ∉ Instr.acts (.inputFilterStep x0 x1) → p.same s t :=
  parts_of [.mode, .start, .zewen, .writes, .image, .reg, .net, .plan, .solver, .piste, .prof, .ctl, .sched, .dsp, .sep, .safety, .cham, .logs, .clocks, .power, .pair, .sec, .hw, .nor] ([.objs, .herd, .aon, .field, .acq, .freeCount])
    (execInputFilterStep_frame h) (by decide +kernel)

theorem inputGroupFault_parts {x0 : Nat} {x1 : Nat} {x2 : Nat} {s t : State} (h : exec (.inputGroupFault x0 x1 x2) s = .next t) : ∀ p, p ∉ Instr.acts (.inputGroupFault x0 x1 x2) → p.same s t :=
  parts_of [.start, .writes, .image, .net, .plan, .solver, .piste, .prof, .ctl, .sched, .dsp, .sep, .safety, .cham, .clocks, .power, .pair, .sec, .nor] (postingAnd [.mode, .field, .hw])
    (execInputGroupFault_frame h) (by decide +kernel)

theorem outputGroupFault_parts {x0 : Nat} {x1 : Nat} {x2 : Nat} {s t : State} (h : exec (.outputGroupFault x0 x1 x2) s = .next t) : ∀ p, p ∉ Instr.acts (.outputGroupFault x0 x1 x2) → p.same s t :=
  parts_of [.start, .writes, .image, .net, .plan, .solver, .piste, .prof, .ctl, .sched, .dsp, .sep, .safety, .cham, .clocks, .power, .pair, .sec, .nor] (postingAnd [.mode, .field, .hw])
    (execOutputGroupFault_frame h) (by decide +kernel)

theorem encoderEdge_parts {x0 : Nat} {x1 : Nat} {x2 : Bool} {x3 : Bool} {s t : State} (h : exec (.encoderEdge x0 x1 x2 x3) s = .next t) : ∀ p, p ∉ Instr.acts (.encoderEdge x0 x1 x2 x3) → p.same s t :=
  parts_of [.mode, .start, .zewen, .writes, .image, .reg, .net, .plan, .solver, .piste, .prof, .ctl, .sched, .dsp, .sep, .safety, .cham, .acq, .logs, .clocks, .power, .pair, .sec, .hw, .nor, .freeCount] ([.objs, .herd, .aon, .field])
    (execEncoderEdge_frame h) (by decide +kernel)

theorem encoderIndex_parts {x0 : Nat} {x1 : Nat} {x2 : Bool} {s t : State} (h : exec (.encoderIndex x0 x1 x2) s = .next t) : ∀ p, p ∉ Instr.acts (.encoderIndex x0 x1 x2) → p.same s t :=
  parts_of [.mode, .start, .zewen, .writes, .image, .reg, .objs, .net, .plan, .solver, .piste, .prof, .ctl, .sched, .dsp, .sep, .safety, .cham, .acq, .logs, .clocks, .power, .pair, .sec, .hw, .nor, .freeCount] ([.herd, .aon, .field])
    (execEncoderIndex_frame h) (by decide +kernel)

theorem lineFault_parts {x0 : Nat} {x1 : Nat} {s t : State} (h : exec (.lineFault x0 x1) s = .next t) : ∀ p, p ∉ Instr.acts (.lineFault x0 x1) → p.same s t :=
  parts_of [.start, .writes, .image, .net, .plan, .solver, .piste, .prof, .ctl, .sched, .dsp, .sep, .safety, .cham, .clocks, .power, .pair, .sec, .hw, .nor] (postingAnd [.mode, .field])
    (execLineFault_frame h) (by decide +kernel)

theorem encoderStandstill_parts {x0 : Nat} {x1 : Nat} {s t : State} (h : exec (.encoderStandstill x0 x1) s = .next t) : ∀ p, p ∉ Instr.acts (.encoderStandstill x0 x1) → p.same s t :=
  parts_of [.mode, .start, .zewen, .writes, .image, .reg, .objs, .net, .plan, .solver, .piste, .prof, .ctl, .sched, .dsp, .sep, .safety, .cham, .acq, .logs, .clocks, .power, .pair, .sec, .hw, .nor, .freeCount] ([.herd, .aon, .field])
    (execEncoderStandstill_frame h) (by decide +kernel)

theorem tickLatch_parts {x0 : Nat} {x1 : Nat} {s t : State} (h : exec (.tickLatch x0 x1) s = .next t) : ∀ p, p ∉ Instr.acts (.tickLatch x0 x1) → p.same s t :=
  parts_of [.mode, .start, .zewen, .writes, .image, .reg, .objs, .net, .plan, .solver, .piste, .prof, .ctl, .sched, .dsp, .sep, .safety, .cham, .acq, .logs, .clocks, .power, .pair, .sec, .hw, .nor, .freeCount] ([.herd, .aon, .field])
    (execTickLatch_frame h) (by decide +kernel)

theorem encoderTransactionStart_parts {x0 : Nat} {x1 : Nat} {s t : State} (h : exec (.encoderTransactionStart x0 x1) s = .next t) : ∀ p, p ∉ Instr.acts (.encoderTransactionStart x0 x1) → p.same s t :=
  parts_of [.mode, .start, .zewen, .writes, .image, .reg, .objs, .net, .plan, .solver, .piste, .prof, .ctl, .sched, .dsp, .sep, .safety, .cham, .acq, .logs, .clocks, .power, .pair, .sec, .hw, .nor, .freeCount] ([.herd, .aon, .field])
    (execEncoderTransactionStart_frame h) (by decide +kernel)

theorem encoderWordReceived_parts {x0 : Nat} {x1 : Nat} {x2 : EncoderReply} {s t : State} (h : exec (.encoderWordReceived x0 x1 x2) s = .next t) : ∀ p, p ∉ Instr.acts (.encoderWordReceived x0 x1 x2) → p.same s t :=
  parts_of [.mode, .start, .zewen, .writes, .image, .reg, .net, .plan, .solver, .piste, .prof, .ctl, .sched, .dsp, .sep, .safety, .cham, .acq, .logs, .clocks, .power, .pair, .sec, .hw, .nor] ([.objs, .herd, .aon, .field, .freeCount])
    (execEncoderWordReceived_frame h) (by decide +kernel)

theorem encoderTimeout_parts {x0 : Nat} {x1 : Nat} {s t : State} (h : exec (.encoderTimeout x0 x1) s = .next t) : ∀ p, p ∉ Instr.acts (.encoderTimeout x0 x1) → p.same s t :=
  parts_of [.mode, .start, .zewen, .writes, .image, .reg, .net, .plan, .solver, .piste, .prof, .ctl, .sched, .dsp, .sep, .safety, .cham, .acq, .logs, .clocks, .power, .pair, .sec, .hw, .nor, .freeCount] ([.objs, .herd, .aon, .field])
    (execEncoderTimeout_frame h) (by decide +kernel)

theorem emulatedEdge_parts {x0 : Nat} {x1 : Nat} {s t : State} (h : exec (.emulatedEdge x0 x1) s = .next t) : ∀ p, p ∉ Instr.acts (.emulatedEdge x0 x1) → p.same s t :=
  parts_of [.mode, .start, .zewen, .writes, .image, .reg, .objs, .net, .plan, .solver, .piste, .prof, .ctl, .sched, .dsp, .sep, .safety, .cham, .acq, .logs, .clocks, .power, .pair, .sec, .hw, .nor, .freeCount] ([.herd, .aon, .field])
    (execEmulatedEdge_frame h) (by decide +kernel)

theorem conveyorStale_parts {x0 : Nat} {x1 : Nat} {s t : State} (h : exec (.conveyorStale x0 x1) s = .next t) : ∀ p, p ∉ Instr.acts (.conveyorStale x0 x1) → p.same s t :=
  parts_of [.mode, .start, .zewen, .writes, .image, .reg, .objs, .net, .plan, .solver, .piste, .ctl, .sched, .dsp, .sep, .safety, .cham, .field, .acq, .logs, .clocks, .power, .pair, .sec, .hw, .nor, .freeCount] ([.herd, .aon, .prof])
    (execConveyorStale_frame h) (by decide +kernel)

theorem jogTimeout_parts {x0 : Nat} {x1 : Nat} {s t : State} (h : exec (.jogTimeout x0 x1) s = .next t) : ∀ p, p ∉ Instr.acts (.jogTimeout x0 x1) → p.same s t :=
  parts_of [.mode, .start, .zewen, .writes, .image, .reg, .objs, .net, .plan, .solver, .piste, .ctl, .sched, .dsp, .sep, .safety, .cham, .field, .acq, .logs, .clocks, .power, .pair, .sec, .hw, .nor, .freeCount] ([.herd, .aon, .prof])
    (execJogTimeout_frame h) (by decide +kernel)

theorem currentSample_parts {x0 : Nat} {x1 : Nat} {x2 : Nat} {x3 : Nat} {s t : State} (h : exec (.currentSample x0 x1 x2 x3) s = .next t) : ∀ p, p ∉ Instr.acts (.currentSample x0 x1 x2 x3) → p.same s t :=
  parts_of [.mode, .start, .zewen, .writes, .image, .reg, .objs, .net, .plan, .solver, .piste, .prof, .ctl, .sched, .dsp, .sep, .safety, .cham, .acq, .logs, .clocks, .power, .pair, .sec, .hw, .nor, .freeCount] ([.herd, .aon, .field])
    (execCurrentSample_frame h) (by decide +kernel)

theorem referenceInstant_parts {x0 : Nat} {x1 : Nat} {s t : State} (h : exec (.referenceInstant x0 x1) s = .next t) : ∀ p, p ∉ Instr.acts (.referenceInstant x0 x1) → p.same s t :=
  parts_of [.mode, .start, .zewen, .writes, .image, .reg, .objs, .net, .plan, .solver, .piste, .prof, .ctl, .sched, .dsp, .sep, .safety, .cham, .acq, .logs, .clocks, .power, .pair, .sec, .hw, .nor, .freeCount] ([.herd, .aon, .field])
    (execReferenceInstant_frame h) (by decide +kernel)

theorem auxFeedbackPost_parts {x0 : Nat} {x1 : Nat} {s t : State} (h : exec (.auxFeedbackPost x0 x1) s = .next t) : ∀ p, p ∉ Instr.acts (.auxFeedbackPost x0 x1) → p.same s t :=
  parts_of [.mode, .start, .zewen, .writes, .image, .reg, .objs, .net, .plan, .solver, .piste, .prof, .dsp, .sep, .safety, .cham, .acq, .logs, .clocks, .power, .pair, .sec, .hw, .nor, .freeCount] ([.herd, .aon, .ctl, .sched, .field])
    (execAuxFeedbackPost_frame h) (by decide +kernel)

theorem chopperFallback_parts {x0 : Nat} {x1 : Nat} {s t : State} (h : exec (.chopperFallback x0 x1) s = .next t) : ∀ p, p ∉ Instr.acts (.chopperFallback x0 x1) → p.same s t :=
  parts_of [.mode, .start, .zewen, .writes, .image, .reg, .net, .plan, .solver, .piste, .prof, .ctl, .sched, .dsp, .sep, .safety, .cham, .acq, .logs, .clocks, .power, .pair, .sec, .hw, .nor] ([.objs, .herd, .aon, .field, .freeCount])
    (execChopperFallback_frame h) (by decide +kernel)

theorem stall_parts {x0 : Nat} {x1 : Nat} {s t : State} (h : exec (.stall x0 x1) s = .next t) : ∀ p, p ∉ Instr.acts (.stall x0 x1) → p.same s t :=
  parts_of [.writes, .image, .net, .plan, .solver, .prof, .sched, .dsp, .sep, .safety, .cham, .clocks, .power, .pair, .sec, .hw] (postingAnd [.mode, .start, .piste, .ctl, .field, .nor])
    (execStall_frame h) (by decide +kernel)

theorem ptpSyncRx_parts {x0 : Nat} {x1 : PtpMessage} {s t : State} (h : exec (.ptpSyncRx x0 x1) s = .next t) : ∀ p, p ∉ Instr.acts (.ptpSyncRx x0 x1) → p.same s t :=
  parts_of [.mode, .start, .writes, .image, .net, .plan, .solver, .piste, .prof, .ctl, .sched, .dsp, .sep, .safety, .cham, .field, .clocks, .power, .pair, .sec, .hw, .nor] (posting)
    (execPtpSyncRx_frame h) (by decide +kernel)

theorem ptpMessageRx_parts {x0 : Nat} {x1 : PtpMessage} {s t : State} (h : exec (.ptpMessageRx x0 x1) s = .next t) : ∀ p, p ∉ Instr.acts (.ptpMessageRx x0 x1) → p.same s t :=
  parts_of [.mode, .start, .zewen, .writes, .image, .reg, .objs, .net, .plan, .solver, .piste, .prof, .ctl, .sched, .dsp, .sep, .safety, .cham, .field, .acq, .logs, .clocks, .power, .pair, .sec, .hw, .nor, .freeCount] ([.herd, .aon])
    (execPtpMessageRx_frame h) (by decide +kernel)

theorem sourceLocked_parts {x0 : Nat} {x1 : Nat} {s t : State} (h : exec (.sourceLocked x0 x1) s = .next t) : ∀ p, p ∉ Instr.acts (.sourceLocked x0 x1) → p.same s t :=
  parts_of [.mode, .start, .writes, .image, .net, .plan, .solver, .piste, .prof, .ctl, .sched, .dsp, .sep, .safety, .cham, .field, .clocks, .power, .pair, .sec, .hw, .nor] (posting)
    (execSourceLocked_frame h) (by decide +kernel)

theorem syncTimeout_parts {x0 : Nat} {x1 : Nat} {s t : State} (h : exec (.syncTimeout x0 x1) s = .next t) : ∀ p, p ∉ Instr.acts (.syncTimeout x0 x1) → p.same s t :=
  parts_of [.mode, .start, .writes, .image, .net, .plan, .solver, .piste, .prof, .ctl, .sched, .dsp, .sep, .safety, .cham, .field, .clocks, .power, .pair, .sec, .hw, .nor] (posting)
    (execSyncTimeout_frame h) (by decide +kernel)

theorem announceReceiptTimeout_parts {x0 : Nat} {x1 : Nat} {s t : State} (h : exec (.announceReceiptTimeout x0 x1) s = .next t) : ∀ p, p ∉ Instr.acts (.announceReceiptTimeout x0 x1) → p.same s t :=
  parts_of [.mode, .start, .writes, .image, .net, .plan, .solver, .piste, .prof, .ctl, .sched, .dsp, .sep, .safety, .cham, .field, .clocks, .power, .pair, .sec, .hw, .nor] (posting)
    (execAnnounceReceiptTimeout_frame h) (by decide +kernel)

theorem revertTimer_parts {x0 : Nat} {s t : State} (h : exec (.revertTimer x0) s = .next t) : ∀ p, p ∉ Instr.acts (.revertTimer x0) → p.same s t :=
  parts_of [.mode, .start, .zewen, .writes, .image, .reg, .objs, .net, .plan, .solver, .piste, .prof, .ctl, .sched, .dsp, .sep, .safety, .cham, .field, .acq, .logs, .clocks, .power, .pair, .sec, .hw, .nor, .freeCount] ([.herd, .aon])
    (execRevertTimer_frame h) (by decide +kernel)

theorem slewEnd_parts {x0 : Nat} {s t : State} (h : exec (.slewEnd x0) s = .next t) : ∀ p, p ∉ Instr.acts (.slewEnd x0) → p.same s t :=
  parts_of [.mode, .start, .zewen, .writes, .image, .reg, .objs, .net, .plan, .solver, .piste, .prof, .ctl, .sched, .dsp, .sep, .safety, .cham, .field, .acq, .logs, .clocks, .power, .pair, .sec, .hw, .nor, .freeCount] ([.herd, .aon])
    (execSlewEnd_frame h) (by decide +kernel)

theorem ppsInEdge_parts {x0 : Nat} {x1 : Nat} {s t : State} (h : exec (.ppsInEdge x0 x1) s = .next t) : ∀ p, p ∉ Instr.acts (.ppsInEdge x0 x1) → p.same s t :=
  parts_of [.mode, .start, .writes, .image, .net, .plan, .solver, .piste, .prof, .ctl, .sched, .dsp, .sep, .safety, .cham, .field, .clocks, .power, .pair, .sec, .hw, .nor] (posting)
    (execPpsInEdge_frame h) (by decide +kernel)

theorem ppsTimeout_parts {x0 : Nat} {s t : State} (h : exec (.ppsTimeout x0) s = .next t) : ∀ p, p ∉ Instr.acts (.ppsTimeout x0) → p.same s t :=
  parts_of [.mode, .start, .writes, .image, .net, .plan, .solver, .piste, .prof, .ctl, .sched, .dsp, .sep, .safety, .cham, .field, .clocks, .power, .pair, .sec, .hw, .nor] (posting)
    (execPpsTimeout_frame h) (by decide +kernel)

theorem ppsOutEdge_parts {x0 : Nat} {s t : State} (h : exec (.ppsOutEdge x0) s = .next t) : ∀ p, p ∉ Instr.acts (.ppsOutEdge x0) → p.same s t :=
  parts_of [.mode, .start, .zewen, .writes, .image, .reg, .objs, .net, .plan, .solver, .piste, .prof, .ctl, .sched, .dsp, .sep, .safety, .cham, .field, .acq, .logs, .clocks, .power, .pair, .sec, .hw, .nor, .freeCount] ([.herd, .aon])
    (execPpsOutEdge_frame h) (by decide +kernel)

theorem pairTimeExchange_parts {x0 : Nat} {x1 : Nat} {x2 : Nat} {x3 : Nat} {x4 : Nat} {s t : State} (h : exec (.pairTimeExchange x0 x1 x2 x3 x4) s = .next t) : ∀ p, p ∉ Instr.acts (.pairTimeExchange x0 x1 x2 x3 x4) → p.same s t :=
  parts_of [.mode, .start, .zewen, .writes, .image, .reg, .net, .plan, .solver, .piste, .prof, .ctl, .sched, .dsp, .sep, .safety, .cham, .field, .acq, .logs, .clocks, .power, .pair, .sec, .hw, .nor, .freeCount] ([.objs, .herd, .aon])
    (execPairTimeExchange_frame h) (by decide +kernel)

theorem aonStore_parts {x0 : Nat} {s t : State} (h : exec (.aonStore x0) s = .next t) : ∀ p, p ∉ Instr.acts (.aonStore x0) → p.same s t :=
  parts_of [.mode, .start, .zewen, .writes, .image, .reg, .objs, .net, .plan, .solver, .piste, .prof, .ctl, .sched, .dsp, .sep, .safety, .cham, .field, .acq, .logs, .clocks, .power, .pair, .sec, .hw, .nor, .freeCount] ([.herd, .aon])
    (execAonStore_frame h) (by decide +kernel)

theorem powerOn_parts {x0 : Nat} {x1 : Nat} {x2 : Bool} {s t : State} (h : exec (.powerOn x0 x1 x2) s = .next t) : ∀ p, p ∉ Instr.acts (.powerOn x0 x1 x2) → p.same s t :=
  parts_of [.nor, .freeCount] ([.mode, .start, .zewen, .writes, .image, .reg, .objs, .herd, .aon, .net, .plan, .solver, .piste, .prof, .ctl, .sched, .dsp, .sep, .safety, .cham, .field, .acq, .logs, .clocks, .power, .pair, .sec, .hw])
    (execPowerOn_frame h) (by decide +kernel)

theorem brownOut_parts {x0 : Nat} {x1 : Nat} {s t : State} (h : exec (.brownOut x0 x1) s = .next t) : ∀ p, p ∉ Instr.acts (.brownOut x0 x1) → p.same s t :=
  parts_of [.cham, .nor, .freeCount] ([.mode, .start, .zewen, .writes, .image, .reg, .objs, .herd, .aon, .net, .plan, .solver, .piste, .prof, .ctl, .sched, .dsp, .sep, .safety, .field, .acq, .logs, .clocks, .power, .pair, .sec, .hw])
    (execBrownOut_frame h) (by decide +kernel)

theorem lowInput_parts {x0 : Nat} {x1 : Nat} {s t : State} (h : exec (.lowInput x0 x1) s = .next t) : ∀ p, p ∉ Instr.acts (.lowInput x0 x1) → p.same s t :=
  parts_of [.start, .writes, .image, .net, .plan, .solver, .piste, .prof, .ctl, .sched, .dsp, .sep, .safety, .cham, .field, .clocks, .power, .pair, .sec, .nor] (postingAnd [.mode, .hw])
    (execLowInput_frame h) (by decide +kernel)

theorem highInput_parts {x0 : Nat} {x1 : Nat} {s t : State} (h : exec (.highInput x0 x1) s = .next t) : ∀ p, p ∉ Instr.acts (.highInput x0 x1) → p.same s t :=
  parts_of [.writes, .image, .net, .plan, .solver, .piste, .prof, .ctl, .sched, .dsp, .sep, .safety, .cham, .field, .clocks, .power, .pair, .sec] (postingAnd [.mode, .start, .hw, .nor])
    (execHighInput_frame h) (by decide +kernel)

theorem modResetN_parts {x0 : Nat} {s t : State} (h : exec (.modResetN x0) s = .next t) : ∀ p, p ∉ Instr.acts (.modResetN x0) → p.same s t :=
  parts_of [.cham, .freeCount] ([.mode, .start, .zewen, .writes, .image, .reg, .objs, .herd, .aon, .net, .plan, .solver, .piste, .prof, .ctl, .sched, .dsp, .sep, .safety, .field, .acq, .logs, .clocks, .power, .pair, .sec, .hw, .nor])
    (execModResetN_frame h) (by decide +kernel)

theorem commandResetBegin_parts {x0 : Nat} {s t : State} (h : exec (.commandResetBegin x0) s = .next t) : ∀ p, p ∉ Instr.acts (.commandResetBegin x0) → p.same s t :=
  parts_of [.cham, .freeCount] ([.mode, .start, .zewen, .writes, .image, .reg, .objs, .herd, .aon, .net, .plan, .solver, .piste, .prof, .ctl, .sched, .dsp, .sep, .safety, .field, .acq, .logs, .clocks, .power, .pair, .sec, .hw, .nor])
    (execCommandResetBegin_frame h) (by decide +kernel)

theorem perstN_parts {x0 : Nat} {x1 : Bool} {s t : State} (h : exec (.perstN x0 x1) s = .next t) : ∀ p, p ∉ Instr.acts (.perstN x0 x1) → p.same s t :=
  parts_of [.mode, .start, .writes, .net, .solver, .prof, .ctl, .sched, .dsp, .sep, .safety, .cham, .field, .clocks, .power, .pair, .nor] (postingAnd [.image, .plan, .piste, .sec, .hw])
    (execPerstN_frame h) (by decide +kernel)

theorem pcieLinkDown_parts {x0 : Nat} {x1 : Bool} {s t : State} (h : exec (.pcieLinkDown x0 x1) s = .next t) : ∀ p, p ∉ Instr.acts (.pcieLinkDown x0 x1) → p.same s t :=
  parts_of [.mode, .start, .writes, .net, .solver, .prof, .ctl, .sched, .dsp, .sep, .safety, .cham, .field, .clocks, .power, .pair, .hw, .nor] (postingAnd [.image, .plan, .piste, .sec])
    (execPcieLinkDown_frame h) (by decide +kernel)

theorem dieTemperature_parts {x0 : Nat} {x1 : Int} {s t : State} (h : exec (.dieTemperature x0 x1) s = .next t) : ∀ p, p ∉ Instr.acts (.dieTemperature x0 x1) → p.same s t :=
  parts_of [.writes, .image, .net, .plan, .solver, .piste, .prof, .ctl, .sched, .dsp, .sep, .safety, .cham, .field, .clocks, .power, .pair, .sec] (postingAnd [.mode, .start, .hw, .nor])
    (execDieTemperature_frame h) (by decide +kernel)

theorem crystalStable_parts {x0 : Nat} {s t : State} (h : exec (.crystalStable x0) s = .next t) : ∀ p, p ∉ Instr.acts (.crystalStable x0) → p.same s t :=
  parts_of [.mode, .start, .zewen, .writes, .image, .reg, .objs, .net, .plan, .solver, .piste, .prof, .ctl, .sched, .dsp, .sep, .safety, .cham, .field, .acq, .logs, .power, .pair, .sec, .hw, .nor, .freeCount] ([.herd, .aon, .clocks])
    (execCrystalStable_frame h) (by decide +kernel)

theorem clockMonitorWindow_parts {x0 : Nat} {x1 : Nat} {x2 : Nat} {s t : State} (h : exec (.clockMonitorWindow x0 x1 x2) s = .next t) : ∀ p, p ∉ Instr.acts (.clockMonitorWindow x0 x1 x2) → p.same s t :=
  parts_of [.writes, .net, .solver, .prof, .ctl, .sched, .dsp, .sep, .safety, .cham, .field, .power, .pair, .hw] (postingAnd [.mode, .start, .image, .plan, .piste, .clocks, .sec, .nor])
    (execClockMonitorWindow_frame h) (by decide +kernel)

theorem clockLoss_parts {x0 : Nat} {x1 : Nat} {s t : State} (h : exec (.clockLoss x0 x1) s = .next t) : ∀ p, p ∉ Instr.acts (.clockLoss x0 x1) → p.same s t :=
  parts_of [.writes, .net, .solver, .prof, .ctl, .sched, .dsp, .sep, .safety, .cham, .field, .power, .pair, .hw] (postingAnd [.mode, .start, .image, .plan, .piste, .clocks, .sec, .nor])
    (execClockLoss_frame h) (by decide +kernel)

theorem pllUnlock_parts {x0 : Nat} {x1 : Nat} {s t : State} (h : exec (.pllUnlock x0 x1) s = .next t) : ∀ p, p ∉ Instr.acts (.pllUnlock x0 x1) → p.same s t :=
  parts_of [.writes, .image, .net, .plan, .solver, .piste, .prof, .ctl, .sched, .dsp, .sep, .safety, .cham, .field, .power, .pair, .sec, .hw] (postingAnd [.mode, .start, .clocks, .nor])
    (execPllUnlock_frame h) (by decide +kernel)

theorem clockSourceRecovered_parts {x0 : Nat} {x1 : Nat} {s t : State} (h : exec (.clockSourceRecovered x0 x1) s = .next t) : ∀ p, p ∉ Instr.acts (.clockSourceRecovered x0 x1) → p.same s t :=
  parts_of [.mode, .start, .zewen, .writes, .image, .reg, .objs, .net, .plan, .solver, .piste, .prof, .ctl, .sched, .dsp, .sep, .safety, .cham, .field, .acq, .logs, .power, .pair, .sec, .hw, .nor, .freeCount] ([.herd, .aon, .clocks])
    (execClockSourceRecovered_frame h) (by decide +kernel)

theorem rcTrim_parts {x0 : Nat} {x1 : Int} {s t : State} (h : exec (.rcTrim x0 x1) s = .next t) : ∀ p, p ∉ Instr.acts (.rcTrim x0 x1) → p.same s t :=
  parts_of [.mode, .start, .zewen, .writes, .image, .reg, .objs, .net, .plan, .solver, .piste, .prof, .ctl, .sched, .dsp, .sep, .safety, .cham, .field, .acq, .logs, .power, .pair, .sec, .hw, .nor, .freeCount] ([.herd, .aon, .clocks])
    (execRcTrim_frame h) (by decide +kernel)

theorem muxSwitch_parts {x0 : Nat} {s t : State} (h : exec (.muxSwitch x0) s = .next t) : ∀ p, p ∉ Instr.acts (.muxSwitch x0) → p.same s t :=
  parts_of [.mode, .start, .zewen, .writes, .image, .reg, .objs, .net, .plan, .solver, .piste, .prof, .ctl, .sched, .dsp, .sep, .safety, .cham, .field, .acq, .logs, .power, .pair, .sec, .hw, .nor, .freeCount] ([.herd, .aon, .clocks])
    (execMuxSwitch_frame h) (by decide +kernel)

theorem forcedSwitch_parts {x0 : Nat} {s t : State} (h : exec (.forcedSwitch x0) s = .next t) : ∀ p, p ∉ Instr.acts (.forcedSwitch x0) → p.same s t :=
  parts_of [.mode, .start, .writes, .image, .net, .plan, .solver, .piste, .prof, .ctl, .sched, .dsp, .sep, .safety, .cham, .field, .acq, .logs, .power, .pair, .sec, .hw, .nor] ([.zewen, .reg, .objs, .herd, .aon, .clocks, .freeCount])
    (execForcedSwitch_frame h) (by decide +kernel)

theorem pllRelock_parts {x0 : Nat} {x1 : Nat} {s t : State} (h : exec (.pllRelock x0 x1) s = .next t) : ∀ p, p ∉ Instr.acts (.pllRelock x0 x1) → p.same s t :=
  parts_of [.mode, .start, .zewen, .writes, .image, .reg, .objs, .net, .plan, .solver, .piste, .prof, .ctl, .sched, .dsp, .sep, .safety, .cham, .field, .acq, .logs, .power, .pair, .sec, .hw, .nor, .freeCount] ([.herd, .aon, .clocks])
    (execPllRelock_frame h) (by decide +kernel)

theorem domainPowerGood_parts {x0 : Nat} {x1 : Nat} {s t : State} (h : exec (.domainPowerGood x0 x1) s = .next t) : ∀ p, p ∉ Instr.acts (.domainPowerGood x0 x1) → p.same s t :=
  parts_of [.mode, .start, .zewen, .writes, .image, .reg, .net, .plan, .solver, .piste, .prof, .ctl, .sched, .dsp, .sep, .safety, .cham, .field, .acq, .logs, .clocks, .pair, .sec, .nor, .freeCount] ([.objs, .herd, .aon, .power, .hw])
    (execDomainPowerGood_frame h) (by decide +kernel)

theorem domainPowerGoodTimeout_parts {x0 : Nat} {x1 : Nat} {s t : State} (_ : exec (.domainPowerGoodTimeout x0 x1) s = .next t) : ∀ p, p ∉ Instr.acts (.domainPowerGoodTimeout x0 x1) → p.same s t :=
  parts_of (s := s) (t := t) [] (postingAnd [.mode, .start, .writes, .image, .net, .plan, .solver, .piste, .prof, .ctl, .sched, .dsp, .sep, .safety, .cham, .field, .clocks, .power, .pair, .sec, .hw, .nor]) trivial (by decide +kernel)

theorem drainTimeout_parts {x0 : Nat} {x1 : Nat} {s t : State} (h : exec (.drainTimeout x0 x1) s = .next t) : ∀ p, p ∉ Instr.acts (.drainTimeout x0 x1) → p.same s t :=
  parts_of [.mode, .start, .zewen, .writes, .image, .reg, .net, .plan, .solver, .piste, .prof, .ctl, .sched, .dsp, .sep, .safety, .cham, .field, .acq, .logs, .clocks, .power, .pair, .sec, .hw, .nor] ([.objs, .herd, .aon, .freeCount])
    (execDrainTimeout_frame h) (by decide +kernel)

theorem domainOff_parts {x0 : Nat} {x1 : Nat} {s t : State} (h : exec (.domainOff x0 x1) s = .next t) : ∀ p, p ∉ Instr.acts (.domainOff x0 x1) → p.same s t :=
  parts_of [.mode, .start, .writes, .image, .net, .plan, .piste, .safety, .cham, .clocks, .pair, .sec, .hw, .nor] (postingAnd [.solver, .prof, .ctl, .sched, .dsp, .sep, .field, .power])
    (execDomainOff_frame h) (by decide +kernel)

theorem startAttempt_parts {x0 : Nat} {x1 : List StepResult} {s t : State} (_ : exec (.startAttempt x0 x1) s = .next t) : ∀ p, p ∉ Instr.acts (.startAttempt x0 x1) → p.same s t :=
  parts_of (s := s) (t := t) [] (postingAnd [.mode, .start, .writes, .image, .net, .plan, .solver, .piste, .prof, .ctl, .sched, .dsp, .sep, .safety, .cham, .field, .clocks, .power, .pair, .sec, .hw, .nor]) trivial (by decide +kernel)

theorem startStepTimeout_parts {x0 : Nat} {s t : State} (_ : exec (.startStepTimeout x0) s = .next t) : ∀ p, p ∉ Instr.acts (.startStepTimeout x0) → p.same s t :=
  parts_of (s := s) (t := t) [] (postingAnd [.mode, .start, .writes, .image, .net, .plan, .solver, .piste, .prof, .ctl, .sched, .dsp, .sep, .safety, .cham, .field, .clocks, .power, .pair, .sec, .hw, .nor]) trivial (by decide +kernel)

theorem configCheckDone_parts {x0 : Nat} {s t : State} (h : exec (.configCheckDone x0) s = .next t) : ∀ p, p ∉ Instr.acts (.configCheckDone x0) → p.same s t :=
  parts_of [.writes, .sched, .sep, .cham, .power, .sec, .hw, .nor] (postingAnd [.mode, .start, .image, .net, .plan, .solver, .piste, .prof, .ctl, .dsp, .safety, .field, .clocks, .pair])
    (execConfigCheckDone_frame h) (by decide +kernel)

theorem nonceExpiry_parts {x0 : Nat} {x1 : Nat} {s t : State} (h : exec (.nonceExpiry x0 x1) s = .next t) : ∀ p, p ∉ Instr.acts (.nonceExpiry x0 x1) → p.same s t :=
  parts_of [.mode, .start, .writes, .image, .reg, .objs, .net, .plan, .solver, .piste, .prof, .ctl, .sched, .dsp, .sep, .safety, .cham, .field, .acq, .logs, .clocks, .power, .pair, .sec, .hw, .nor, .freeCount] ([.zewen, .herd, .aon])
    (execNonceExpiry_frame h) (by decide +kernel)

theorem lockoutEnd_parts {x0 : Nat} {x1 : Nat} {s t : State} (h : exec (.lockoutEnd x0 x1) s = .next t) : ∀ p, p ∉ Instr.acts (.lockoutEnd x0 x1) → p.same s t :=
  parts_of [.mode, .start, .writes, .image, .reg, .objs, .net, .plan, .solver, .piste, .prof, .ctl, .sched, .dsp, .sep, .safety, .cham, .field, .acq, .logs, .clocks, .power, .pair, .sec, .hw, .nor, .freeCount] ([.zewen, .herd, .aon])
    (execLockoutEnd_frame h) (by decide +kernel)

theorem udpIdleTimeout_parts {x0 : Nat} {x1 : Nat} {s t : State} (h : exec (.udpIdleTimeout x0 x1) s = .next t) : ∀ p, p ∉ Instr.acts (.udpIdleTimeout x0 x1) → p.same s t :=
  parts_of [.mode, .start, .writes, .net, .solver, .prof, .ctl, .sched, .dsp, .sep, .safety, .cham, .field, .clocks, .power, .pair, .hw, .nor] (postingAnd [.image, .plan, .piste, .sec])
    (execUdpIdleTimeout_frame h) (by decide +kernel)

theorem sessionDrained_parts {x0 : Nat} {x1 : Nat} {s t : State} (h : exec (.sessionDrained x0 x1) s = .next t) : ∀ p, p ∉ Instr.acts (.sessionDrained x0 x1) → p.same s t :=
  parts_of [.mode, .start, .writes, .image, .net, .plan, .solver, .piste, .prof, .ctl, .sched, .dsp, .sep, .safety, .cham, .field, .clocks, .power, .pair, .sec, .hw, .nor] (posting)
    (execSessionDrained_frame h) (by decide +kernel)

theorem acqSample_parts {x0 : Nat} {x1 : Bool} {s t : State} (h : exec (.acqSample x0 x1) s = .next t) : ∀ p, p ∉ Instr.acts (.acqSample x0 x1) → p.same s t :=
  parts_of [.mode, .start, .writes, .image, .plan, .solver, .piste, .prof, .ctl, .sched, .dsp, .sep, .safety, .cham, .field, .clocks, .power, .pair, .sec, .hw, .nor] (postingAnd [.net])
    (execAcqSample_frame h) (by decide +kernel)

theorem indexTreeReady_parts {x0 : Nat} {s t : State} (h : exec (.indexTreeReady x0) s = .next t) : ∀ p, p ∉ Instr.acts (.indexTreeReady x0) → p.same s t :=
  parts_of [.mode, .start, .zewen, .writes, .image, .reg, .objs, .net, .plan, .solver, .piste, .prof, .ctl, .sched, .dsp, .sep, .safety, .cham, .field, .acq, .logs, .clocks, .power, .pair, .hw, .nor, .freeCount] ([.herd, .aon, .sec])
    (execIndexTreeReady_frame h) (by decide +kernel)

theorem tokenRenewal_parts {x0 : Nat} {s t : State} (h : exec (.tokenRenewal x0) s = .next t) : ∀ p, p ∉ Instr.acts (.tokenRenewal x0) → p.same s t :=
  parts_of [.mode, .start, .zewen, .writes, .image, .reg, .plan, .solver, .piste, .prof, .ctl, .sched, .dsp, .sep, .safety, .cham, .field, .acq, .logs, .clocks, .power, .sec, .hw, .nor] ([.objs, .herd, .aon, .net, .pair, .freeCount])
    (execTokenRenewal_frame h) (by decide +kernel)

theorem tokenMessageRx_parts {x0 : Nat} {x1 : Token} {s t : State} (h : exec (.tokenMessageRx x0 x1) s = .next t) : ∀ p, p ∉ Instr.acts (.tokenMessageRx x0 x1) → p.same s t :=
  parts_of [.mode, .start, .zewen, .writes, .image, .reg, .objs, .net, .plan, .solver, .piste, .prof, .ctl, .sched, .dsp, .sep, .safety, .cham, .field, .acq, .logs, .clocks, .power, .sec, .hw, .nor, .freeCount] ([.herd, .aon, .pair])
    (execTokenMessageRx_frame h) (by decide +kernel)

theorem tokenLeaseExpiry_parts {x0 : Nat} {s t : State} (h : exec (.tokenLeaseExpiry x0) s = .next t) : ∀ p, p ∉ Instr.acts (.tokenLeaseExpiry x0) → p.same s t :=
  parts_of [.mode, .start, .writes, .image, .net, .plan, .solver, .piste, .prof, .ctl, .sched, .dsp, .sep, .safety, .cham, .field, .clocks, .power, .sec, .hw, .nor] (postingAnd [.pair])
    (execTokenLeaseExpiry_frame h) (by decide +kernel)

theorem takeover_parts {x0 : Nat} {s t : State} (h : exec (.takeover x0) s = .next t) : ∀ p, p ∉ Instr.acts (.takeover x0) → p.same s t :=
  parts_of [.start, .writes, .image, .ctl, .sched, .dsp, .sep, .safety, .cham, .clocks, .power, .sec, .hw, .nor] (postingAnd [.mode, .net, .plan, .solver, .piste, .prof, .field, .pair])
    (execTakeover_frame h) (by decide +kernel)

theorem mirrorSetRx_parts {x0 : Nat} {x1 : MirrorSet} {s t : State} (h : exec (.mirrorSetRx x0 x1) s = .next t) : ∀ p, p ∉ Instr.acts (.mirrorSetRx x0 x1) → p.same s t :=
  parts_of [.start, .writes, .net, .solver, .piste, .prof, .ctl, .sched, .dsp, .sep, .safety, .cham, .field, .clocks, .power, .sec, .hw, .nor] (postingAnd [.mode, .image, .plan, .pair])
    (execMirrorSetRx_frame h) (by decide +kernel)

theorem mirrorAgeLimit_parts {x0 : Nat} {s t : State} (h : exec (.mirrorAgeLimit x0) s = .next t) : ∀ p, p ∉ Instr.acts (.mirrorAgeLimit x0) → p.same s t :=
  parts_of [.mode, .start, .writes, .image, .net, .plan, .solver, .piste, .prof, .ctl, .sched, .dsp, .sep, .safety, .cham, .field, .clocks, .power, .sec, .hw, .nor] (postingAnd [.pair])
    (execMirrorAgeLimit_frame h) (by decide +kernel)

theorem planAckRx_parts {x0 : Nat} {x1 : Nat} {s t : State} (h : exec (.planAckRx x0 x1) s = .next t) : ∀ p, p ∉ Instr.acts (.planAckRx x0 x1) → p.same s t :=
  parts_of [.mode, .start, .zewen, .writes, .image, .reg, .net, .plan, .solver, .piste, .prof, .ctl, .sched, .dsp, .sep, .safety, .cham, .field, .acq, .logs, .clocks, .power, .sec, .hw, .nor, .freeCount] ([.objs, .herd, .aon, .pair])
    (execPlanAckRx_frame h) (by decide +kernel)

theorem pairSafetyStatusRx_parts {x0 : Nat} {x1 : Bool} {x2 : List Nat} {x3 : Bool} {s t : State} (h : exec (.pairSafetyStatusRx x0 x1 x2 x3) s = .next t) : ∀ p, p ∉ Instr.acts (.pairSafetyStatusRx x0 x1 x2 x3) → p.same s t :=
  parts_of [.mode, .start, .writes, .image, .net, .plan, .solver, .piste, .prof, .ctl, .sched, .dsp, .sep, .safety, .cham, .field, .clocks, .power, .sec, .hw, .nor] (postingAnd [.pair])
    (execPairSafetyStatusRx_frame h) (by decide +kernel)

theorem peerSilent_parts {x0 : Nat} {s t : State} (h : exec (.peerSilent x0) s = .next t) : ∀ p, p ∉ Instr.acts (.peerSilent x0) → p.same s t :=
  parts_of [.mode, .start, .writes, .image, .net, .plan, .solver, .piste, .prof, .ctl, .sched, .dsp, .sep, .safety, .cham, .field, .clocks, .power, .sec, .hw, .nor] (postingAnd [.pair])
    (execPeerSilent_frame h) (by decide +kernel)

theorem pairRevertTimer_parts {x0 : Nat} {s t : State} (h : exec (.pairRevertTimer x0) s = .next t) : ∀ p, p ∉ Instr.acts (.pairRevertTimer x0) → p.same s t :=
  parts_of [.mode, .start, .zewen, .writes, .image, .reg, .objs, .net, .plan, .solver, .piste, .prof, .ctl, .sched, .dsp, .sep, .safety, .cham, .field, .acq, .logs, .clocks, .power, .pair, .sec, .hw, .nor, .freeCount] ([.herd, .aon])
    (execPairRevertTimer_frame h) (by decide +kernel)

theorem handoverRequestRx_parts {x0 : Nat} {x1 : Nat} {x2 : Nat} {s t : State} (h : exec (.handoverRequestRx x0 x1 x2) s = .next t) : ∀ p, p ∉ Instr.acts (.handoverRequestRx x0 x1 x2) → p.same s t :=
  parts_of [.mode, .start, .zewen, .writes, .image, .reg, .net, .plan, .solver, .piste, .prof, .ctl, .sched, .dsp, .sep, .safety, .cham, .field, .acq, .logs, .clocks, .power, .sec, .hw, .nor, .freeCount] ([.objs, .herd, .aon, .pair])
    (execHandoverRequestRx_frame h) (by decide +kernel)

theorem handoverAckTimeout_parts {x0 : Nat} {s t : State} (h : exec (.handoverAckTimeout x0) s = .next t) : ∀ p, p ∉ Instr.acts (.handoverAckTimeout x0) → p.same s t :=
  parts_of [.mode, .start, .zewen, .writes, .image, .reg, .objs, .net, .plan, .solver, .piste, .prof, .ctl, .sched, .dsp, .sep, .safety, .cham, .field, .acq, .logs, .clocks, .power, .sec, .hw, .nor, .freeCount] ([.herd, .aon, .pair])
    (execHandoverAckTimeout_frame h) (by decide +kernel)

theorem handoverAt_parts {x0 : Nat} {s t : State} (h : exec (.handoverAt x0) s = .next t) : ∀ p, p ∉ Instr.acts (.handoverAt x0) → p.same s t :=
  parts_of [.start, .writes, .image, .ctl, .sched, .dsp, .sep, .safety, .cham, .clocks, .power, .sec, .hw, .nor] (postingAnd [.mode, .net, .plan, .solver, .piste, .prof, .field, .pair])
    (execHandoverAt_frame h) (by decide +kernel)

theorem errorDetected_parts {x0 : Nat} {x1 : ErrorKind} {x2 : Nat} {x3 : Nat} {x4 : Nat} {s t : State} (h : exec (.errorDetected x0 x1 x2 x3 x4) s = .next t) : ∀ p, p ∉ Instr.acts (.errorDetected x0 x1 x2 x3 x4) → p.same s t :=
  parts_of [.writes, .net, .prof, .ctl, .sched, .dsp, .sep, .safety, .cham, .field, .clocks, .power, .pair] (postingAnd [.mode, .start, .image, .plan, .solver, .piste, .sec, .hw, .nor])
    (execErrorDetected_frame h) (by decide +kernel)

theorem ptpTransmitInterval_parts {x0 : Nat} {x1 : Nat} {x2 : Nat} {s t : State} (h : exec (.ptpTransmitInterval x0 x1 x2) s = .next t) : ∀ p, p ∉ Instr.acts (.ptpTransmitInterval x0 x1 x2) → p.same s t :=
  parts_of [.mode, .start, .writes, .image, .objs, .net, .plan, .solver, .piste, .prof, .ctl, .sched, .dsp, .sep, .safety, .cham, .field, .acq, .logs, .clocks, .power, .pair, .sec, .hw, .nor, .freeCount] ([.zewen, .reg, .herd, .aon])
    (execPtpTransmitInterval_frame h) (by decide +kernel)

theorem linkSynchronised_parts {x0 : Nat} {x1 : Nat} {s t : State} (h : exec (.linkSynchronised x0 x1) s = .next t) : ∀ p, p ∉ Instr.acts (.linkSynchronised x0 x1) → p.same s t :=
  parts_of [.mode, .start, .zewen, .writes, .image, .reg, .objs, .plan, .solver, .piste, .prof, .ctl, .sched, .dsp, .sep, .safety, .cham, .field, .acq, .logs, .clocks, .power, .sec, .hw, .nor, .freeCount] ([.herd, .aon, .net, .pair])
    (execLinkSynchronised_frame h) (by decide +kernel)

theorem groupFaultCleared_parts {x0 : Nat} {x1 : Bool} {x2 : Nat} {x3 : Nat} {s t : State} (h : exec (.groupFaultCleared x0 x1 x2 x3) s = .next t) : ∀ p, p ∉ Instr.acts (.groupFaultCleared x0 x1 x2 x3) → p.same s t :=
  parts_of [.mode, .start, .zewen, .writes, .image, .reg, .objs, .net, .plan, .solver, .piste, .prof, .ctl, .sched, .dsp, .sep, .safety, .cham, .acq, .logs, .clocks, .power, .pair, .sec, .nor, .freeCount] ([.herd, .aon, .field, .hw])
    (execGroupFaultCleared_frame h) (by decide +kernel)

theorem vinBackInRange_parts {x0 : Nat} {x1 : Nat} {x2 : Nat} {s t : State} (h : exec (.vinBackInRange x0 x1 x2) s = .next t) : ∀ p, p ∉ Instr.acts (.vinBackInRange x0 x1 x2) → p.same s t :=
  parts_of [.mode, .start, .zewen, .writes, .image, .reg, .objs, .net, .plan, .solver, .piste, .prof, .ctl, .sched, .dsp, .sep, .safety, .cham, .field, .acq, .logs, .clocks, .power, .pair, .sec, .nor, .freeCount] ([.herd, .aon, .hw])
    (execVinBackInRange_frame h) (by decide +kernel)

theorem encoderLineRestored_parts {x0 : Nat} {x1 : Nat} {x2 : Bool} {x3 : Bool} {x4 : Bool} {s t : State} (h : exec (.encoderLineRestored x0 x1 x2 x3 x4) s = .next t) : ∀ p, p ∉ Instr.acts (.encoderLineRestored x0 x1 x2 x3 x4) → p.same s t :=
  parts_of [.mode, .start, .zewen, .writes, .image, .reg, .objs, .net, .plan, .solver, .piste, .prof, .ctl, .sched, .dsp, .sep, .safety, .cham, .acq, .logs, .clocks, .power, .pair, .sec, .hw, .nor, .freeCount] ([.herd, .aon, .field])
    (execEncoderLineRestored_frame h) (by decide +kernel)

theorem phaseAccumulatorCarry_parts {x0 : Nat} {x1 : Nat} {s t : State} (h : exec (.phaseAccumulatorCarry x0 x1) s = .next t) : ∀ p, p ∉ Instr.acts (.phaseAccumulatorCarry x0 x1) → p.same s t :=
  parts_of [.mode, .start, .zewen, .writes, .image, .reg, .objs, .net, .plan, .solver, .piste, .ctl, .sched, .dsp, .sep, .safety, .cham, .acq, .logs, .clocks, .power, .pair, .sec, .hw, .nor, .freeCount] ([.herd, .aon, .prof, .field])
    (execPhaseAccumulatorCarry_frame h) (by decide +kernel)

theorem vectorSpacingEnd_parts {x0 : Nat} {x1 : Nat} {s t : State} (h : exec (.vectorSpacingEnd x0 x1) s = .next t) : ∀ p, p ∉ Instr.acts (.vectorSpacingEnd x0 x1) → p.same s t :=
  parts_of [.mode, .start, .writes, .image, .reg, .objs, .net, .plan, .solver, .piste, .prof, .ctl, .sched, .dsp, .sep, .safety, .cham, .field, .acq, .logs, .clocks, .power, .pair, .sec, .hw, .nor, .freeCount] ([.zewen, .herd, .aon])
    (execVectorSpacingEnd_frame h) (by decide +kernel)

theorem domainFrequencyMeasurement_parts {x0 : Nat} {x1 : List Nat} {s t : State} (h : exec (.domainFrequencyMeasurement x0 x1) s = .next t) : ∀ p, p ∉ Instr.acts (.domainFrequencyMeasurement x0 x1) → p.same s t :=
  parts_of [.mode, .start, .zewen, .writes, .image, .reg, .objs, .net, .plan, .solver, .piste, .prof, .ctl, .sched, .dsp, .sep, .safety, .cham, .field, .acq, .logs, .power, .pair, .sec, .hw, .nor, .freeCount] ([.herd, .aon, .clocks])
    (execDomainFrequencyMeasurement_frame h) (by decide +kernel)

end Sys2Proof.Machine
end

