-- ==== Sys2Proof/Laws/State.lean ====
section
/-! SUPPORT. Reading what has just been written: the named updates of the parts of the state, lists of fixed places, tables by key and
the canonical list of object values. -/

set_option Elab.async false

namespace Sys2Proof.Machine

/-! ### Named updates -/

@[simp] theorem withClocks_clocks (s : State) (f : ClockState → ClockState) : (withClocks s f).clocks = f s.clocks := rfl

@[simp] theorem withClocks_out (s : State) (f : ClockState → ClockState) : (withClocks s f).out = s.out := rfl

@[simp] theorem withDsp_dsp (s : State) (f : DspState → DspState) : (withDsp s f).dsp = f s.dsp := rfl

@[simp] theorem withDsp_out (s : State) (f : DspState → DspState) : (withDsp s f).out = s.out := rfl

@[simp] theorem withField_field (s : State) (f : FieldState → FieldState) : (withField s f).field = f s.field := rfl

@[simp] theorem withField_out (s : State) (f : FieldState → FieldState) : (withField s f).out = s.out := rfl

@[simp] theorem withHerd_herd (s : State) (f : HerdState → HerdState) : (withHerd s f).herd = f s.herd := rfl

@[simp] theorem withHerd_out (s : State) (f : HerdState → HerdState) : (withHerd s f).out = s.out := rfl

@[simp] theorem withHw_hw (s : State) (f : HardwareState → HardwareState) : (withHw s f).hw = f s.hw := rfl

@[simp] theorem withHw_out (s : State) (f : HardwareState → HardwareState) : (withHw s f).out = s.out := rfl

@[simp] theorem withImage_image (s : State) (f : ImageState → ImageState) : (withImage s f).image = f s.image := rfl

@[simp] theorem withImage_out (s : State) (f : ImageState → ImageState) : (withImage s f).out = s.out := rfl

@[simp] theorem withLogs_logs (s : State) (f : LogState → LogState) : (withLogs s f).logs = f s.logs := rfl

@[simp] theorem withLogs_out (s : State) (f : LogState → LogState) : (withLogs s f).out = s.out := rfl

@[simp] theorem withMode_mode (s : State) (f : ModeState → ModeState) : (withMode s f).mode = f s.mode := rfl

@[simp] theorem withMode_out (s : State) (f : ModeState → ModeState) : (withMode s f).out = s.out := rfl

@[simp] theorem withNet_net (s : State) (f : TahixaState → TahixaState) : (withNet s f).net = f s.net := rfl

@[simp] theorem withNet_out (s : State) (f : TahixaState → TahixaState) : (withNet s f).out = s.out := rfl

@[simp] theorem withPair_pair (s : State) (f : PairState → PairState) : (withPair s f).pair = f s.pair := rfl

@[simp] theorem withPair_out (s : State) (f : PairState → PairState) : (withPair s f).out = s.out := rfl

@[simp] theorem withPiste_piste (s : State) (f : PisteState → PisteState) : (withPiste s f).piste = f s.piste := rfl

@[simp] theorem withPiste_out (s : State) (f : PisteState → PisteState) : (withPiste s f).out = s.out := rfl

@[simp] theorem withPlan_plan (s : State) (f : PlanState → PlanState) : (withPlan s f).plan = f s.plan := rfl

@[simp] theorem withPlan_out (s : State) (f : PlanState → PlanState) : (withPlan s f).out = s.out := rfl

@[simp] theorem withPower_power (s : State) (f : PowerState → PowerState) : (withPower s f).power = f s.power := rfl

@[simp] theorem withPower_out (s : State) (f : PowerState → PowerState) : (withPower s f).out = s.out := rfl

@[simp] theorem withProf_prof (s : State) (f : ProfileState → ProfileState) : (withProf s f).prof = f s.prof := rfl

@[simp] theorem withProf_out (s : State) (f : ProfileState → ProfileState) : (withProf s f).out = s.out := rfl

@[simp] theorem withReg_reg (s : State) (f : RegState → RegState) : (withReg s f).reg = f s.reg := rfl

@[simp] theorem withReg_out (s : State) (f : RegState → RegState) : (withReg s f).out = s.out := rfl

@[simp] theorem withSched_sched (s : State) (f : SchedState → SchedState) : (withSched s f).sched = f s.sched := rfl

@[simp] theorem withSched_out (s : State) (f : SchedState → SchedState) : (withSched s f).out = s.out := rfl

@[simp] theorem withSec_sec (s : State) (f : SecurityState → SecurityState) : (withSec s f).sec = f s.sec := rfl

@[simp] theorem withSec_out (s : State) (f : SecurityState → SecurityState) : (withSec s f).out = s.out := rfl

@[simp] theorem withSep_sep (s : State) (f : SepState → SepState) : (withSep s f).sep = f s.sep := rfl

@[simp] theorem withSep_out (s : State) (f : SepState → SepState) : (withSep s f).out = s.out := rfl

@[simp] theorem withSolver_solver (s : State) (f : SolverState → SolverState) : (withSolver s f).solver = f s.solver := rfl

@[simp] theorem withSolver_out (s : State) (f : SolverState → SolverState) : (withSolver s f).out = s.out := rfl

@[simp] theorem withStart_start (s : State) (f : StartState → StartState) : (withStart s f).start = f s.start := rfl

@[simp] theorem withStart_out (s : State) (f : StartState → StartState) : (withStart s f).out = s.out := rfl

@[simp] theorem withMsix_zewen (s : State) (f : MsixState → MsixState) : (withMsix s f).zewen = { s.zewen with msix := f s.zewen.msix } := rfl

@[simp] theorem withMsix_out (s : State) (f : MsixState → MsixState) : (withMsix s f).out = s.out := rfl

@[simp] theorem withFresh_fresh (s : State) (f : ClockNew → ClockNew) : (withFresh s f).fresh = f s.fresh := rfl

@[simp] theorem withFresh_out (s : State) (f : ClockNew → ClockNew) : (withFresh s f).out = s.out := rfl

@[simp] theorem withFresh_zewen (s : State) (f : ClockNew → ClockNew) : (withFresh s f).zewen = s.zewen := rfl

@[simp] theorem withFresh_reg (s : State) (f : ClockNew → ClockNew) : (withFresh s f).reg = s.reg := rfl

@[simp] theorem noteCount_objs (s : State) (key n : Nat) : (noteCount s key n).objs = s.objs := rfl

@[simp] theorem noteCount_out (s : State) (key n : Nat) : (noteCount s key n).out = s.out := rfl

@[simp] theorem noteErr_out (s : State) (w : Word) : (noteErr s w).out = s.out := rfl

@[simp] theorem noteErr_zewen (s : State) (w : Word) : (noteErr s w).zewen = s.zewen := rfl

@[simp] theorem noteErr_count (s : State) (w : Word) : (noteErr s w).reg.errCount = satNat 32 (s.reg.errCount + 1) := rfl

@[simp] theorem setMbx_out (s : State) (m : Nat) (f : Mailbox → Mailbox) : (setMbx s m f).out = s.out := rfl

@[simp] theorem setOb_out (s : State) (cls inst mem v : Nat) : (setOb s cls inst mem v).out = s.out := rfl

@[simp] theorem setMbx_zewen (s : State) (m : Nat) (f : Mailbox → Mailbox) :
    (setMbx s m f).zewen = { s.zewen with mbx := upd s.zewen.mbx m f } := rfl

@[simp] theorem setOb_objs (s : State) (cls inst mem v : Nat) : (setOb s cls inst mem v).objs = oput s.objs (okey cls inst mem) v := rfl

@[simp] theorem emit_out (s : State) (o : Output) : (emit s o).out = s.out ++ [o] := rfl

/-! ### Lists of fixed places -/

@[simp] theorem upd_length {α : Type} (l : List α) (i : Nat) (f : α → α) : (upd l i f).length = l.length := by
  induction l generalizing i with
  | nil => rfl
  | cons a l ih => cases i <;> simp [upd, ih]

theorem nth_upd_same {α : Type} (d : α) (l : List α) (i : Nat) (f : α → α) (h : i < l.length) : nth d (upd l i f) i = f (nth d l i) := by
  induction l generalizing i with
  | nil => cases h
  | cons a l ih =>
    cases i with
    | zero => rfl
    | succ i => exact ih i (Nat.lt_of_succ_lt_succ h)

theorem nth_upd_other {α : Type} (d : α) (l : List α) (i j : Nat) (f : α → α) (h : j ≠ i) : nth d (upd l i f) j = nth d l j := by
  induction l generalizing i j with
  | nil => rfl
  | cons a l ih =>
    cases i with
    | zero =>
      cases j with
      | zero => exact absurd rfl h
      | succ j => rfl
    | succ i =>
      cases j with
      | zero => rfl
      | succ j => exact ih i j (fun e => h (congrArg Nat.succ e))

/-! ### Tables by key -/

theorem tget_tput_same {α : Type} (d : α) (t : List (Nat × α)) (k : Nat) (v : α) : tget d (tput t k v) k = v := by
  induction t with
  | nil => simp [tput, tget]
  | cons e t ih =>
    obtain ⟨j, w⟩ := e
    simp only [tput]
    split
    · simp [tget]
    · split
      · simp [tget]
      · simp_all [tget]

theorem tget_tput_other {α : Type} (d : α) (t : List (Nat × α)) (k j : Nat) (v : α) (h : j ≠ k) : tget d (tput t k v) j = tget d t j := by
  induction t with
  | nil => simp [tput, tget, h.symm]
  | cons e t ih =>
    obtain ⟨i, w⟩ := e
    simp only [tput]
    split
    · rename_i g
      subst g
      simp [tget, h.symm]
    · split
      · simp only [tget]
        split
        · omega
        · split
          · rename_i h1
            split
            · omega
            · split
              · rfl
              · omega
          · rfl
      · simp [tget, ih]

/-! ### Mailboxes -/

theorem mbx_setMbx_same (s : State) (m : Nat) (f : Mailbox → Mailbox) (h : m < s.zewen.mbx.length) : mbx (setMbx s m f) m = f (mbx s m) :=
  nth_upd_same _ _ _ _ h

theorem mbx_setMbx_other (s : State) (m k : Nat) (f : Mailbox → Mailbox) (h : k ≠ m) : mbx (setMbx s m f) k = mbx s k :=
  nth_upd_other _ _ _ _ _ h

/-! ### Object values -/

/-- The head of a list of object values after a write: it stays above any bound that the key and the old head keep. -/
theorem objsOrdered_tput (l : List (Nat × Nat)) (k v : Nat) (h : objsOrdered l = true) : objsOrdered (tput l k v) = true := by
  induction l with
  | nil => rfl
  | cons e l ih =>
    obtain ⟨j, w⟩ := e
    simp only [tput]
    split
    · rename_i g
      subst g
      cases l with
      | nil => rfl
      | cons b l => obtain ⟨b, x⟩ := b; simpa [objsOrdered] using h
    · split
      · rename_i g
        simp [objsOrdered, g, h]
      · rename_i g1 g2
        cases l with
        | nil => simp [tput, objsOrdered]; omega
        | cons b l =>
          obtain ⟨b, x⟩ := b
          simp only [objsOrdered, Bool.and_eq_true, decide_eq_true_eq] at h
          have hi := ih h.2
          simp only [tput] at hi ⊢
          split
          · rename_i e
            subst e
            simp_all [objsOrdered]
          · split
            · simp_all [objsOrdered]
              omega
            · simp_all [objsOrdered]

theorem objsOrdered_tail (e : Nat × Nat) (l : List (Nat × Nat)) (h : objsOrdered (e :: l) = true) : objsOrdered l = true := by
  cases l with
  | nil => rfl
  | cons b l =>
    obtain ⟨a, w⟩ := e
    obtain ⟨b, x⟩ := b
    simp only [objsOrdered, Bool.and_eq_true] at h
    exact h.2

theorem objsOrdered_iff (e : Nat × Nat) (l : List (Nat × Nat)) :
    objsOrdered (e :: l) = true ↔ (∀ b ∈ l, e.1 < b.1) ∧ objsOrdered l = true := by
  induction l generalizing e with
  | nil => simp [objsOrdered]
  | cons b l ih =>
    obtain ⟨a, w⟩ := e
    obtain ⟨b, x⟩ := b
    simp only [objsOrdered, Bool.and_eq_true, decide_eq_true_eq, List.mem_cons, forall_eq_or_imp]
    constructor
    · rintro ⟨h, g⟩
      exact ⟨⟨h, fun c hc => Nat.lt_trans h (((ih (b, x)).1 g).1 c hc)⟩, g⟩
    · rintro ⟨⟨h, -⟩, g⟩
      exact ⟨h, g⟩

theorem objsOrdered_tdel (l : List (Nat × Nat)) (k : Nat) (h : objsOrdered l = true) : objsOrdered (tdel l k) = true := by
  induction l with
  | nil => rfl
  | cons e l ih =>
    obtain ⟨h1, h2⟩ := (objsOrdered_iff e l).1 h
    simp only [tdel, List.filter_cons] at ih ⊢
    split
    · exact (objsOrdered_iff _ _).2 ⟨fun b hb => h1 b (List.mem_filter.1 hb).1, ih h2⟩
    · exact ih h2

/-- Writing an object value keeps the canonical order. -/
theorem objsOrdered_oput (l : List (Nat × Nat)) (k v : Nat) (h : objsOrdered l = true) : objsOrdered (oput l k v) = true := by
  unfold oput
  split
  · exact objsOrdered_tdel l k h
  · exact objsOrdered_tput l k v h

/-! ### Bulk windows -/

theorem tput_mem {α : Type} (t : List (Nat × α)) (k : Nat) (v : α) : ∀ c ∈ tput t k v, c = (k, v) ∨ c ∈ t := by
  induction t with
  | nil => simp [tput]
  | cons e t ih =>
    obtain ⟨j, w⟩ := e
    simp only [tput]
    split
    · simp_all
    · split
      · simp
      · intro c hc
        rcases List.mem_cons.1 hc with rfl | hc
        · exact .inr (by simp)
        · exact (ih c hc).imp_right (List.mem_cons_of_mem _)

theorem tput_rising {α : Type} (t : List (Nat × α)) (k : Nat) (v : α) (h : t.Pairwise (fun a b => a.1 < b.1)) :
    (tput t k v).Pairwise (fun a b => a.1 < b.1) := by
  induction t with
  | nil => simp [tput]
  | cons e t ih =>
    obtain ⟨j, w⟩ := e
    obtain ⟨h1, h2⟩ := List.pairwise_cons.1 h
    simp only [tput]
    split
    · rename_i g
      exact List.pairwise_cons.2 ⟨g ▸ h1, h2⟩
    · split
      · rename_i g
        exact List.pairwise_cons.2 ⟨fun c hc => by
          rcases List.mem_cons.1 hc with rfl | hc
          · exact g
          · exact Nat.lt_trans g (h1 c hc), h⟩
      · exact List.pairwise_cons.2 ⟨fun c hc => by
          rcases tput_mem t k v c hc with rfl | hc
          · omega
          · exact h1 c hc, ih h2⟩

/-- Writing one byte keeps the canonical form. -/
theorem windowWf_tset (w : List Host.Cell) (k : Nat) (v : Byte) (h : windowWf w) : windowWf (tset 0 w k v) := by
  unfold tset
  split
  · exact ⟨h.1.filter _, fun c hc => h.2 c (List.mem_filter.1 hc).1⟩
  · rename_i g
    exact ⟨tput_rising w k v h.1, fun c hc => by
      rcases tput_mem w k v c hc with rfl | hc
      · exact g
      · exact h.2 c hc⟩

/-- Writing bytes into a bulk window keeps its canonical form. -/
theorem windowWf_windowPut (w : List Host.Cell) (off : Nat) (bs : Bytes) (h : windowWf w) : windowWf (windowPut w off bs) := by
  unfold windowPut
  induction indexed bs generalizing w with
  | nil => exact h
  | cons a l ih => exact ih _ (windowWf_tset w _ _ h)

theorem tget_tset_same {α : Type} [DecidableEq α] (d : α) (t : List (Nat × α)) (k : Nat) (v : α) : tget d (tset d t k v) k = v := by
  unfold tset
  split
  · rename_i g
    subst g
    induction t with
    | nil => rfl
    | cons e t ih =>
      obtain ⟨j, w⟩ := e
      simp only [tdel, List.filter_cons] at ih ⊢
      split
      · rename_i g
        simp only [bne_iff_ne, ne_eq] at g
        simp [tget, g, ih]
      · exact ih
  · exact tget_tput_same d t k v

theorem tget_small {α : Type} (d : α) (t : List (Nat × α)) (k : Nat) (h : ∀ c ∈ t, k < c.1) : tget d t k = d := by
  cases t with
  | nil => rfl
  | cons e t =>
    obtain ⟨j, w⟩ := e
    have := h (j, w) (by simp)
    simp only at this
    simp [tget, this, show j ≠ k by omega]

theorem tget_tset_other {α : Type} [DecidableEq α] (d : α) (t : List (Nat × α)) (k j : Nat) (v : α) (h : j ≠ k)
    (ht : t.Pairwise (fun a b => a.1 < b.1)) : tget d (tset d t k v) j = tget d t j := by
  unfold tset
  split
  · induction t with
    | nil => rfl
    | cons e t ih =>
      obtain ⟨i, w⟩ := e
      obtain ⟨h1, h2⟩ := List.pairwise_cons.1 ht
      have ih := ih h2
      simp only [tdel, List.filter_cons] at ih ⊢
      split
      · simp [tget, ih]
      · rename_i g
        simp only [bne_iff_ne, ne_eq, Decidable.not_not] at g
        subst g
        rw [ih]
        simp only [tget, h.symm, if_false]
        split
        · rename_i g
          exact tget_small d t j (fun c hc => Nat.lt_trans g (h1 c hc))
        · rfl
  · exact tget_tput_other d t k j v h

end Sys2Proof.Machine
end

