-- ==== Sys2Proof/Laws/Ops.lean ====
section
/-! SUPPORT. What the shared operations do: outputs are only added to, a completion leaves the block with the status and the result
given, and its command is taken out of flight. -/

set_option Elab.async false
set_option linter.unusedSimpArgs false

namespace Sys2Proof.Machine

/-! ### Outputs are only added to -/

theorem out_trans {a b c : List Output} (h : ∃ l, b = a ++ l) (g : ∃ l, c = b ++ l) : ∃ l, c = a ++ l := by
  obtain ⟨l, rfl⟩ := h
  obtain ⟨m, rfl⟩ := g
  exact ⟨l ++ m, List.append_assoc _ _ _⟩

theorem vectorNow_out (s : State) (v : Nat) : ∃ l, (vectorNow s v).out = s.out ++ l := by
  unfold vectorNow
  split
  · exact ⟨[], by simp [withMsix]⟩
  · exact ⟨[.vector v], rfl⟩

theorem sendVector_out (s : State) (v : Nat) : ∃ l, (sendVector s v).out = s.out ++ l := by
  unfold sendVector
  split
  · exact ⟨[], by simp⟩
  · split
    · exact ⟨[], by simp [withMsix]⟩
    · exact vectorNow_out s v

theorem setInt_out (s : State) (n : Nat) : ∃ l, (setInt s n).out = s.out ++ l := by
  unfold setInt
  dsimp only
  split
  · exact ⟨[], by simp⟩
  · split
    · exact ⟨[], by simp⟩
    · exact sendVector_out _ _

@[simp] theorem bumpN_out (s : State) (cls inst mem n : Nat) : (bumpN s cls inst mem n).out = s.out := rfl

@[simp] theorem bump_out (s : State) (cls inst mem : Nat) : (bump s cls inst mem).out = s.out := rfl

@[simp] theorem dropEvent_out (s : State) : (dropEvent s).out = s.out := by
  unfold dropEvent
  dsimp only
  split
  · split <;> simp
  · rfl

@[simp] theorem addEvent_out (s : State) (e : LogEntry) : (addEvent s e).out = s.out := by
  unfold addEvent
  dsimp only
  split
  · simp
  · split
    · split
      · split <;> simp
      · simp
    · simp

@[simp] theorem dropTrace_out (s : State) : (dropTrace s).out = s.out := by
  unfold dropTrace
  dsimp only
  split <;> simp

@[simp] theorem addTrace_out (s : State) (e : LogEntry) : (addTrace s e).out = s.out := by
  unfold addTrace
  dsimp only
  split
  · simp
  · split <;> simp

@[simp] theorem putAlarm_out (s : State) (e : LogEntry) (room : Nat) : (putAlarm s e room).out = s.out := rfl

@[simp] theorem addAlarm_out (s : State) (e : LogEntry) : (addAlarm s e).out = s.out := by
  unfold addAlarm
  dsimp only
  repeat' split
  all_goals simp

@[simp] theorem alarmTrigger_out (s : State) : (alarmTrigger s).out = s.out := by
  unfold alarmTrigger
  split <;> rfl

theorem log_out (s : State) (cls : LogClass) (code arg : Nat) (word : Word) (reason : Nat) : ∃ l, (log s cls code arg word reason).out = s.out ++ l := by
  unfold log
  dsimp only
  split
  · rw [alarmTrigger_out]
    split
    · exact setInt_out _ 6
    · have h := setInt_out (addAlarm s { time := now s, lastTime := now s, word := word, code := code, seq := 0, arg := arg % 65536, reason := reason }) 6
      rwa [addAlarm_out] at h
  · split
    · exact ⟨[], by simp⟩
    · exact ⟨[], by simp⟩
  · exact ⟨[], by simp⟩

theorem trace_out (s : State) (b code arg word reason : Nat) : ∃ l, (trace s b code arg word reason).out = s.out ++ l := by
  unfold trace
  split
  · exact log_out _ _ _ _ _ _
  · exact ⟨[], by simp⟩

theorem writeErr_out (s : State) (w : Word) : ∃ l, (writeErr s w).out = s.out ++ l := by
  unfold writeErr
  dsimp only
  repeat' split
  all_goals first
    | exact setInt_out _ 2
    | exact ⟨[], by simp⟩

theorem errorAs_out (s : State) (w : Word) (code arg : Nat) (cls : LogClass) : ∃ l, (errorAs s w code arg cls).out = s.out ++ l :=
  out_trans (writeErr_out s w) (log_out _ _ _ _ _ _)

theorem error_out (s : State) (w : Word) : ∃ l, (error s w).out = s.out ++ l := errorAs_out _ _ _ _ _

/-! ### Mailboxes through the operations that only send -/

@[simp] theorem vectorNow_mbx (s : State) (v : Nat) : (vectorNow s v).zewen.mbx = s.zewen.mbx := by
  unfold vectorNow
  split <;> rfl

@[simp] theorem sendVector_mbx (s : State) (v : Nat) : (sendVector s v).zewen.mbx = s.zewen.mbx := by
  unfold sendVector
  repeat' split
  all_goals simp

@[simp] theorem setInt_mbx (s : State) (n : Nat) : (setInt s n).zewen.mbx = s.zewen.mbx := by
  unfold setInt
  dsimp only
  repeat' split
  all_goals simp

@[simp] theorem log_mbx (s : State) (cls : LogClass) (code arg : Nat) (word : Word) (reason : Nat) :
    (log s cls code arg word reason).zewen.mbx = s.zewen.mbx := by
  have fr1 := @addAlarm_frame; have fr2 := @addEvent_frame; have fr3 := @addTrace_frame; have fr4 := @alarmTrigger_frame; have fr5 := @withLogs_frame
  unfold log
  dsimp only
  repeat' split
  all_goals simp [fr1, fr2, fr3, fr4, fr5]

@[simp] theorem trace_mbx (s : State) (b code arg word reason : Nat) : (trace s b code arg word reason).zewen.mbx = s.zewen.mbx := by
  unfold trace
  split <;> simp

@[simp] theorem writeErr_mbx (s : State) (w : Word) : (writeErr s w).zewen.mbx = s.zewen.mbx := by
  unfold writeErr
  dsimp only
  repeat' split
  all_goals simp

@[simp] theorem error_mbx (s : State) (w : Word) : (error s w).zewen.mbx = s.zewen.mbx := by
  unfold error errorAs
  simp

/-! ### Completions -/

theorem sendCompletion_out (s : State) (b : Mailbox) (c : Completion) : ∃ l, (sendCompletion s b c).out = s.out ++ l := by
  unfold sendCompletion
  split
  · exact ⟨[], by simp⟩
  · exact ⟨_, rfl⟩

@[simp] theorem sendCompletion_mbx (s : State) (b : Mailbox) (c : Completion) : (sendCompletion s b c).zewen.mbx = s.zewen.mbx := by
  unfold sendCompletion
  split <;> rfl

/-- The completion entry of a command (Table 3-5). -/
def completionOf (s : State) (o : Origin) (status : Nat) (result : Bytes) : Completion :=
  { mailbox := o.mbx, txid := o.txid, status := status, opcode := o.opcode
    phase := (((mbx s o.mbx).cplTail / 64 + 1024 - (mbx s o.mbx).phaseBase / 64) % 1024) % 2 == 0
    inBulk := decide (40 < result.length), resultLen := result.length, doneTime := now s, result := result }

/-- What a completion changes in its mailbox: the TXID is no longer in flight, the tail of the ring goes on, a long result stands in the
bulk window. -/
def completedBox (s : State) (o : Origin) (status : Nat) (result : Bytes) (b : Mailbox) : Mailbox :=
  let udp := viaUdp (mbx s o.mbx)
  let tail := ((mbx s o.mbx).cplTail + 1) % 65536
  { b with
    inFlight := b.inFlight.erase o
    cplTail := tail
    cplHead := if udp then tail else b.cplHead
    cplRing := if udp then b.cplRing else tput b.cplRing ((mbx s o.mbx).cplTail % 64) (completionOf s o status result)
    window := if udp || !decide (40 < result.length) then b.window else windowPut b.window o.bulkOffset result
    kept := if udp && (mbx s o.mbx).state != .closed then b.kept ++ [completionOf s o status result] else b.kept }

/-- A completion leaves the block; what follows it are interrupt messages and the like. -/
theorem complete_out (s : State) (o : Origin) (status : Nat) (result : Bytes) (h : s.mode.resetFinal = false) :
    ∃ l, (complete s o status result).out = s.out ++ .completion (completionOf s o status result) :: l := by
  have key : ∀ a : State, (∃ l, a.out = s.out ++ .completion (completionOf s o status result) :: l) →
      ∃ l, (if viaUdp (mbx s o.mbx) = true then trace a 0 0x0100 o.opcode (o.txid.toNat * 65536 + status)
        else sendVector (trace a 0 0x0100 o.opcode (o.txid.toNat * 65536 + status)) o.mbx).out =
          s.out ++ .completion (completionOf s o status result) :: l := by
    rintro a ⟨k, ha⟩
    have h1 := trace_out a 0 0x0100 o.opcode (o.txid.toNat * 65536 + status) 0
    have h2 : ∃ l, (if viaUdp (mbx s o.mbx) = true then trace a 0 0x0100 o.opcode (o.txid.toNat * 65536 + status)
        else sendVector (trace a 0 0x0100 o.opcode (o.txid.toNat * 65536 + status)) o.mbx).out = a.out ++ l := by
      split
      · exact h1
      · exact out_trans h1 (sendVector_out _ _)
    obtain ⟨l, hl⟩ := h2
    exact ⟨k ++ l, by rw [hl, ha, List.append_assoc, List.cons_append]⟩
  unfold complete
  rw [if_neg (by simp [h])]
  refine key _ ?_
  obtain ⟨l, hl⟩ := sendCompletion_out (emit (setMbx s o.mbx (completedBox s o status result)) (.completion (completionOf s o status result)))
    (mbx s o.mbx) (completionOf s o status result)
  exact ⟨l, hl.trans (by simp)⟩

/-- All that a completion changes in the mailboxes. -/
theorem complete_boxes_eq (s : State) (o : Origin) (status : Nat) (result : Bytes) (h : s.mode.resetFinal = false) :
    (complete s o status result).zewen.mbx = upd s.zewen.mbx o.mbx (completedBox s o status result) := by
  have key : ∀ a : State, (if viaUdp (mbx s o.mbx) = true then trace a 0 0x0100 o.opcode (o.txid.toNat * 65536 + status)
      else sendVector (trace a 0 0x0100 o.opcode (o.txid.toNat * 65536 + status)) o.mbx).zewen.mbx = a.zewen.mbx := by
    intro a
    split <;> simp
  unfold complete
  rw [if_neg (by simp [h])]
  exact (key _).trans (sendCompletion_mbx _ _ _)

/-- The mailbox a completion is posted in. -/
theorem complete_mbx_same (s : State) (o : Origin) (status : Nat) (result : Bytes) (hf : s.mode.resetFinal = false)
    (h : o.mbx < s.zewen.mbx.length) : mbx (complete s o status result) o.mbx = completedBox s o status result (mbx s o.mbx) := by
  unfold mbx
  rw [complete_boxes_eq s o status result hf]
  exact nth_upd_same _ _ _ _ h

theorem complete_mbx_other (s : State) (o : Origin) (status : Nat) (result : Bytes) (k : Nat) (h : k ≠ o.mbx) :
    mbx (complete s o status result) k = mbx s k := by
  cases hf : s.mode.resetFinal with
  | false =>
    unfold mbx
    rw [complete_boxes_eq s o status result hf]
    exact nth_upd_other _ _ _ _ _ h
  | true => simp [complete, hf]

@[simp] theorem complete_boxes (s : State) (o : Origin) (status : Nat) (result : Bytes) :
    (complete s o status result).zewen.mbx.length = s.zewen.mbx.length := by
  cases hf : s.mode.resetFinal with
  | false => rw [complete_boxes_eq s o status result hf, upd_length]
  | true => simp [complete, hf]

end Sys2Proof.Machine
end

