-- ==== Sys2Proof/Laws/Commands.lean ====
section
/-! SUPPORT. What the mailbox commands share: an admitted entry runs its command's effect or completes with the status it is judged to
have, and a completion posted is one of the outputs. -/

set_option Elab.async false
set_option linter.unusedSimpArgs false

namespace Sys2Proof.Machine

/-! ### Bits -/

theorem getLsbD_clear {w : Nat} (x : BitVec w) (n : Nat) : (x &&& ~~~(1#w <<< n)).getLsbD n = false := by
  by_cases h : n < w
  · simp [h]
  · rw [BitVec.getLsbD_of_ge _ _ (by omega)]

theorem getLsbD_clear_other {w : Nat} (x : BitVec w) (n k : Nat) (h : k ≠ n) : (x &&& ~~~(1#w <<< n)).getLsbD k = x.getLsbD k := by
  by_cases hk : k < w
  · simp only [BitVec.getLsbD_and, BitVec.getLsbD_not, BitVec.getLsbD_shiftLeft, hk, decide_true, Bool.true_and, BitVec.getLsbD_one]
    by_cases hn : k < n
    · simp [hn]
    · have : k - n ≠ 0 := by omega
      simp [hn, this]
  · rw [BitVec.getLsbD_of_ge _ _ (by omega), BitVec.getLsbD_of_ge _ _ (by omega)]

theorem getLsbD_set_other {w : Nat} (x : BitVec w) (n k : Nat) (h : k ≠ n) : (x ||| (1#w <<< n)).getLsbD k = x.getLsbD k := by
  by_cases hk : k < w
  · simp only [BitVec.getLsbD_or, BitVec.getLsbD_shiftLeft, hk, decide_true, Bool.true_and, BitVec.getLsbD_one]
    by_cases hn : k < n
    · simp [hn]
    · have : k - n ≠ 0 := by omega
      simp [hn, this]
  · rw [BitVec.getLsbD_of_ge _ _ (by omega), BitVec.getLsbD_of_ge _ _ (by omega)]

theorem getLsbD_set {w : Nat} (x : BitVec w) (n : Nat) (h : n < w) : (x ||| (1#w <<< n)).getLsbD n = true := by
  simp [h]

/-! ### A command begins -/

theorem mbx_eq {s t : State} (h : t.zewen = s.zewen) (m : Nat) : mbx t m = mbx s m := by unfold mbx; rw [h]

theorem mbx_of {s t : State} (h : t.zewen.mbx = s.zewen.mbx) (m : Nat) : mbx t m = mbx s m := by unfold mbx; rw [h]

@[simp] theorem begin_mbx (clk : Nat) (s : State) (m : Nat) : mbx (begin clk s) m = mbx s m :=
  mbx_eq (begin_frame clk s).2.2.1 m

@[simp] theorem begin_out (clk : Nat) (s : State) : (begin clk s).out = [] := by
  unfold begin advance
  dsimp only
  split <;> rfl

/-- Of what AON holds only its timer goes on. -/
theorem begin_aon (clk : Nat) (s : State) : (begin clk s).aon = { s.aon with timer := s.aon.timer + 4 * clk } := by
  unfold begin advance
  dsimp only
  split <;> rfl

@[simp] theorem begin_epochs (clk : Nat) (s : State) : (begin clk s).aon.epochs = s.aon.epochs := by rw [begin_aon]

@[simp] theorem begin_counter (clk : Nat) (s : State) : (begin clk s).aon.sessionCounter = s.aon.sessionCounter := by rw [begin_aon]

/-- Of herd time the count, the virtual clocks and the clock pins go on. -/
theorem begin_herd (clk : Nat) (s : State) : ∃ h f e r ds p c, (begin clk s).herd =
    { s.herd with ht := h, frac := f, edges := e, slewRem := r, domains := ds, ppsOut := p, clk10Out := c } := by
  unfold begin advance
  dsimp only
  split
  · exact ⟨_, _, _, _, _, _, _, rfl⟩
  · exact ⟨_, _, _, _, _, _, _, rfl⟩

@[simp] theorem begin_running (clk : Nat) (s : State) : (begin clk s).herd.running = s.herd.running := by
  obtain ⟨_, _, _, _, _, _, _, h⟩ := begin_herd clk s
  rw [h]

@[simp] theorem begin_tick (clk : Nat) (s : State) : (begin clk s).herd.tick = s.herd.tick := by
  obtain ⟨_, _, _, _, _, _, _, h⟩ := begin_herd clk s
  rw [h]

@[simp] theorem begin_epochOf (clk : Nat) (s : State) (m : Nat) : epochOf (begin clk s) m = epochOf s m := by
  unfold epochOf
  rw [begin_epochs]

theorem now_eq {s t : State} (h : t.herd = s.herd) (g : t.aon = s.aon) : now t = now s := by unfold now; rw [h, g]

@[simp] theorem complete_epochOf (s : State) (o : Origin) (status : Nat) (result : Bytes) (m : Nat) :
    epochOf (complete s o status result) m = epochOf s m := by
  have fr1 := @complete_frame
  unfold epochOf
  simp [fr1]

@[simp] theorem leBytes_length (n v : Nat) : (leBytes n v).length = n := by
  induction n generalizing v with
  | zero => rfl
  | succ n ih => simp [leBytes, ih]

/-! ### The entry is in flight -/

@[simp] theorem entered_out (clk : Nat) (s : State) (via : Transport) (e : Entry) : (entered clk s via e).out = [] := by
  have fr1 := @begin_frame; have fr2 := @setMbx_frame
  unfold entered enterFlight consumeEntry
  simp [fr1, fr2]

@[simp] theorem entered_herd (clk : Nat) (s : State) (via : Transport) (e : Entry) : (entered clk s via e).herd = (begin clk s).herd := by
  have fr1 := @consumeEntry_frame; have fr2 := @enterFlight_frame
  unfold entered
  simp [fr1, fr2]

@[simp] theorem entered_aon (clk : Nat) (s : State) (via : Transport) (e : Entry) : (entered clk s via e).aon = (begin clk s).aon := by
  have fr1 := @consumeEntry_frame; have fr2 := @enterFlight_frame
  unfold entered
  simp [fr1, fr2]

@[simp] theorem entered_now (clk : Nat) (s : State) (via : Transport) (e : Entry) : now (entered clk s via e) = now (begin clk s) :=
  now_eq (by simp) (by simp)

@[simp] theorem entered_epochOf (clk : Nat) (s : State) (via : Transport) (e : Entry) (m : Nat) :
    epochOf (entered clk s via e) m = epochOf s m := by
  unfold epochOf
  simp

@[simp] theorem entered_mode (clk : Nat) (s : State) (via : Transport) (e : Entry) : (entered clk s via e).mode = s.mode := by
  have fr1 := @begin_frame; have fr2 := @consumeEntry_frame; have fr3 := @enterFlight_frame
  unfold entered
  simp [fr1, fr2, fr3]

@[simp] theorem entered_start (clk : Nat) (s : State) (via : Transport) (e : Entry) : (entered clk s via e).start = s.start := by
  have fr1 := @begin_frame; have fr2 := @consumeEntry_frame; have fr3 := @enterFlight_frame
  unfold entered
  simp [fr1, fr2, fr3]

@[simp] theorem entered_writes (clk : Nat) (s : State) (via : Transport) (e : Entry) : (entered clk s via e).writes = s.writes := by
  have fr1 := @begin_frame; have fr2 := @consumeEntry_frame; have fr3 := @enterFlight_frame
  unfold entered
  simp [fr1, fr2, fr3]

@[simp] theorem entered_image (clk : Nat) (s : State) (via : Transport) (e : Entry) : (entered clk s via e).image = s.image := by
  have fr1 := @begin_frame; have fr2 := @consumeEntry_frame; have fr3 := @enterFlight_frame
  unfold entered
  simp [fr1, fr2, fr3]

@[simp] theorem entered_reg (clk : Nat) (s : State) (via : Transport) (e : Entry) : (entered clk s via e).reg = s.reg := by
  have fr1 := @begin_frame; have fr2 := @consumeEntry_frame; have fr3 := @enterFlight_frame
  unfold entered
  simp [fr1, fr2, fr3]

@[simp] theorem entered_objs (clk : Nat) (s : State) (via : Transport) (e : Entry) : (entered clk s via e).objs = s.objs := by
  have fr1 := @begin_frame; have fr2 := @consumeEntry_frame; have fr3 := @enterFlight_frame
  unfold entered
  simp [fr1, fr2, fr3]

@[simp] theorem entered_net (clk : Nat) (s : State) (via : Transport) (e : Entry) : (entered clk s via e).net = s.net := by
  have fr1 := @begin_frame; have fr2 := @consumeEntry_frame; have fr3 := @enterFlight_frame
  unfold entered
  simp [fr1, fr2, fr3]

@[simp] theorem entered_plan (clk : Nat) (s : State) (via : Transport) (e : Entry) : (entered clk s via e).plan = s.plan := by
  have fr1 := @begin_frame; have fr2 := @consumeEntry_frame; have fr3 := @enterFlight_frame
  unfold entered
  simp [fr1, fr2, fr3]

@[simp] theorem entered_solver (clk : Nat) (s : State) (via : Transport) (e : Entry) : (entered clk s via e).solver = s.solver := by
  have fr1 := @begin_frame; have fr2 := @consumeEntry_frame; have fr3 := @enterFlight_frame
  unfold entered
  simp [fr1, fr2, fr3]

@[simp] theorem entered_piste (clk : Nat) (s : State) (via : Transport) (e : Entry) : (entered clk s via e).piste = s.piste := by
  have fr1 := @begin_frame; have fr2 := @consumeEntry_frame; have fr3 := @enterFlight_frame
  unfold entered
  simp [fr1, fr2, fr3]

@[simp] theorem entered_prof (clk : Nat) (s : State) (via : Transport) (e : Entry) : (entered clk s via e).prof = s.prof := by
  have fr1 := @begin_frame; have fr2 := @consumeEntry_frame; have fr3 := @enterFlight_frame
  unfold entered
  simp [fr1, fr2, fr3]

@[simp] theorem entered_ctl (clk : Nat) (s : State) (via : Transport) (e : Entry) : (entered clk s via e).ctl = s.ctl := by
  have fr1 := @begin_frame; have fr2 := @consumeEntry_frame; have fr3 := @enterFlight_frame
  unfold entered
  simp [fr1, fr2, fr3]

@[simp] theorem entered_sched (clk : Nat) (s : State) (via : Transport) (e : Entry) : (entered clk s via e).sched = s.sched := by
  have fr1 := @begin_frame; have fr2 := @consumeEntry_frame; have fr3 := @enterFlight_frame
  unfold entered
  simp [fr1, fr2, fr3]

@[simp] theorem entered_dsp (clk : Nat) (s : State) (via : Transport) (e : Entry) : (entered clk s via e).dsp = s.dsp := by
  have fr1 := @begin_frame; have fr2 := @consumeEntry_frame; have fr3 := @enterFlight_frame
  unfold entered
  simp [fr1, fr2, fr3]

@[simp] theorem entered_sep (clk : Nat) (s : State) (via : Transport) (e : Entry) : (entered clk s via e).sep = s.sep := by
  have fr1 := @begin_frame; have fr2 := @consumeEntry_frame; have fr3 := @enterFlight_frame
  unfold entered
  simp [fr1, fr2, fr3]

@[simp] theorem entered_safety (clk : Nat) (s : State) (via : Transport) (e : Entry) : (entered clk s via e).safety = s.safety := by
  have fr1 := @begin_frame; have fr2 := @consumeEntry_frame; have fr3 := @enterFlight_frame
  unfold entered
  simp [fr1, fr2, fr3]

@[simp] theorem entered_cham (clk : Nat) (s : State) (via : Transport) (e : Entry) : (entered clk s via e).cham = s.cham := by
  have fr1 := @begin_frame; have fr2 := @consumeEntry_frame; have fr3 := @enterFlight_frame
  unfold entered
  simp [fr1, fr2, fr3]

@[simp] theorem entered_field (clk : Nat) (s : State) (via : Transport) (e : Entry) : (entered clk s via e).field = s.field := by
  have fr1 := @begin_frame; have fr2 := @consumeEntry_frame; have fr3 := @enterFlight_frame
  unfold entered
  simp [fr1, fr2, fr3]

@[simp] theorem entered_acq (clk : Nat) (s : State) (via : Transport) (e : Entry) : (entered clk s via e).acq = s.acq := by
  have fr1 := @begin_frame; have fr2 := @consumeEntry_frame; have fr3 := @enterFlight_frame
  unfold entered
  simp [fr1, fr2, fr3]

@[simp] theorem entered_logs (clk : Nat) (s : State) (via : Transport) (e : Entry) : (entered clk s via e).logs = s.logs := by
  have fr1 := @begin_frame; have fr2 := @consumeEntry_frame; have fr3 := @enterFlight_frame
  unfold entered
  simp [fr1, fr2, fr3]

@[simp] theorem entered_clocks (clk : Nat) (s : State) (via : Transport) (e : Entry) : (entered clk s via e).clocks = s.clocks := by
  have fr1 := @begin_frame; have fr2 := @consumeEntry_frame; have fr3 := @enterFlight_frame
  unfold entered
  simp [fr1, fr2, fr3]

@[simp] theorem entered_power (clk : Nat) (s : State) (via : Transport) (e : Entry) : (entered clk s via e).power = s.power := by
  have fr1 := @begin_frame; have fr2 := @consumeEntry_frame; have fr3 := @enterFlight_frame
  unfold entered
  simp [fr1, fr2, fr3]

@[simp] theorem entered_pair (clk : Nat) (s : State) (via : Transport) (e : Entry) : (entered clk s via e).pair = s.pair := by
  have fr1 := @begin_frame; have fr2 := @consumeEntry_frame; have fr3 := @enterFlight_frame
  unfold entered
  simp [fr1, fr2, fr3]

@[simp] theorem entered_sec (clk : Nat) (s : State) (via : Transport) (e : Entry) : (entered clk s via e).sec = s.sec := by
  have fr1 := @begin_frame; have fr2 := @consumeEntry_frame; have fr3 := @enterFlight_frame
  unfold entered
  simp [fr1, fr2, fr3]

@[simp] theorem entered_hw (clk : Nat) (s : State) (via : Transport) (e : Entry) : (entered clk s via e).hw = s.hw := by
  have fr1 := @begin_frame; have fr2 := @consumeEntry_frame; have fr3 := @enterFlight_frame
  unfold entered
  simp [fr1, fr2, fr3]

@[simp] theorem entered_nor (clk : Nat) (s : State) (via : Transport) (e : Entry) : (entered clk s via e).nor = s.nor := by
  have fr1 := @begin_frame; have fr2 := @consumeEntry_frame; have fr3 := @enterFlight_frame
  unfold entered
  simp [fr1, fr2, fr3]

@[simp] theorem entered_freeCount (clk : Nat) (s : State) (via : Transport) (e : Entry) : (entered clk s via e).freeCount = s.freeCount := by
  have fr1 := @begin_frame; have fr2 := @consumeEntry_frame; have fr3 := @enterFlight_frame
  unfold entered
  simp [fr1, fr2, fr3]

@[simp] theorem entered_boxes (clk : Nat) (s : State) (via : Transport) (e : Entry) :
    (entered clk s via e).zewen.mbx.length = s.zewen.mbx.length := by
  have fr1 := @begin_frame; have fr2 := @setMbx_frame
  unfold entered enterFlight consumeEntry
  simp [fr1, fr2]

theorem consumeEntry_mbx (s : State) (e : Entry) (k : Nat) : mbx (consumeEntry s e) k =
    mbx (setMbx s e.mbx (fun b => if e.udp then { b with accepted := b.accepted.filter (fun a => a.2.txid != e.txid) }
      else { b with cmdHead := (b.cmdHead + 1) % 65536, cmdRing := tput b.cmdRing (b.cmdHead % 64) e, window := bulkWindow b e })) k :=
  mbx_of rfl k

/-- The mailbox of an entry that is in flight. -/
theorem entered_mbx_same (clk : Nat) (s : State) (via : Transport) (e : Entry) (h : e.mbx < s.zewen.mbx.length) :
    mbx (entered clk s via e) e.mbx = { mbx s e.mbx with
      cmdHead := if e.udp then (mbx s e.mbx).cmdHead else ((mbx s e.mbx).cmdHead + 1) % 65536
      accepted := if e.udp then (mbx s e.mbx).accepted.filter (fun a => a.2.txid != e.txid) else (mbx s e.mbx).accepted
      inFlight := if e.udp then (mbx s e.mbx).inFlight else (mbx s e.mbx).inFlight ++ [originOf e]
      via := if (mbx s e.mbx).state = .closed then via else (mbx s e.mbx).via
      cmdRing := if e.udp then (mbx s e.mbx).cmdRing else tput (mbx s e.mbx).cmdRing ((mbx s e.mbx).cmdHead % 64) e
      window := if e.udp then (mbx s e.mbx).window else bulkWindow (mbx s e.mbx) e } := by
  have fr1 := @begin_frame
  unfold entered enterFlight
  rw [mbx_setMbx_same _ _ _ (by unfold consumeEntry; simpa [fr1] using h)]
  have : mbx (consumeEntry (begin clk s) e) e.mbx = if e.udp then { mbx s e.mbx with accepted := (mbx s e.mbx).accepted.filter (fun a => a.2.txid != e.txid) }
      else { mbx s e.mbx with
        cmdHead := ((mbx s e.mbx).cmdHead + 1) % 65536, cmdRing := tput (mbx s e.mbx).cmdRing ((mbx s e.mbx).cmdHead % 64) e
        window := bulkWindow (mbx s e.mbx) e } := by
    rw [consumeEntry_mbx, mbx_setMbx_same _ _ _ (by simpa [fr1] using h), begin_mbx]
  rw [this]
  cases e.udp <;> simp [fr1]

theorem entered_mbx_other (clk : Nat) (s : State) (via : Transport) (e : Entry) (k : Nat) (h : k ≠ e.mbx) :
    mbx (entered clk s via e) k = mbx s k := by
  unfold entered enterFlight
  rw [mbx_setMbx_other _ _ _ _ h]
  rw [consumeEntry_mbx, mbx_setMbx_other _ _ _ _ h, begin_mbx]

@[simp] theorem entered_inTransition (clk : Nat) (s : State) (via : Transport) (e : Entry) :
    inTransition (entered clk s via e) = inTransition s := by
  unfold inTransition
  simp

@[simp] theorem begin_inTransition (clk : Nat) (s : State) : inTransition (begin clk s) = inTransition s := by
  have fr1 := @begin_frame
  unfold inTransition
  simp [fr1]

@[simp] theorem entered_state (clk : Nat) (s : State) (via : Transport) (e : Entry) (k : Nat) :
    (mbx (entered clk s via e) k).state = (mbx s k).state := by
  by_cases hk : k = e.mbx
  · subst hk
    by_cases h : e.mbx < s.zewen.mbx.length
    · rw [entered_mbx_same _ _ _ _ h]
    · unfold mbx nth
      rw [List.getD_eq_getElem?_getD, List.getD_eq_getElem?_getD, List.getElem?_eq_none (by simpa using h), List.getElem?_eq_none (by simpa using h)]
  · rw [entered_mbx_other _ _ _ _ _ hk]

/-! ### What registers hold (Table 22-4) -/

@[simp] theorem regValue_htNowLo (s : State) (bar : Nat) : regValue s bar 0x0800 = now s % 2 ^ 32 := rfl

@[simp] theorem regValue_acqTrigTimeLo (s : State) (bar : Nat) : regValue s bar 0x0908 = s.acq.capture.trigTime % 2 ^ 32 := rfl

@[simp] theorem regValue_txtsOvf (s : State) (bar : Nat) : regValue s bar 0x0834 = s.herd.txtsOvf := rfl

@[simp] theorem regValue_errCount (s : State) (bar : Nat) : regValue s bar 0x0018 = s.reg.errCount := rfl

@[simp] theorem regValue_gatedAccess (s : State) (bar : Nat) : regValue s bar 0x0A0C = s.reg.gatedAccess := rfl

@[simp] theorem begin_privView (clk : Nat) (s : State) (bar2 : Bool) : privView (begin clk s) bar2 = privView s bar2 := by
  have fr1 := @begin_frame
  unfold privView
  simp [fr1]

theorem doorbellError_mbx (s : State) (m k : Nat) :
    mbx (doorbellError s m) k = mbx (setMbx s m (fun b => { b with dbErr := true })) k := mbx_of rfl k

/-! ### Judged and run -/

/-- An admitted entry that is let through runs its command's effect. -/
theorem command_runs (c : CmdSpec) (priv lenOk : Entry → Bool) (body : Entry → Transport → State → State) (clk : Nat) (e0 e : Entry)
    (via : Transport) (s : State) (h : Admitted (begin clk s) c.opcode e0 via e) (hj : judge c (priv e) (entered clk s via e) e = none)
    (hl : lenOk e = true) : command c priv lenOk body clk e0 s = body e via (entered clk s via e) := by
  unfold entered at hj ⊢
  unfold command
  simp only [h.taken, h.turn, h.kept, hj, h.fits, hl, Bool.not_true, Bool.and_self, if_true, Bool.false_eq_true, if_false]

/-- An admitted entry that R459 stops completes with the status of the check that stops it. -/
theorem command_judged (c : CmdSpec) (priv lenOk : Entry → Bool) (body : Entry → Transport → State → State) (clk : Nat) (e0 e : Entry)
    (via : Transport) (s : State) (st : Nat) (h : Admitted (begin clk s) c.opcode e0 via e)
    (hj : judge c (priv e) (entered clk s via e) e = some st) :
    command c priv lenOk body clk e0 s = complete (entered clk s via e) (originOf e) st := by
  unfold entered at hj ⊢
  unfold command
  simp only [h.taken, h.turn, h.kept, hj, Bool.not_true, Bool.false_eq_true, if_false]

/-- A command completed posts its completion. -/
theorem posts_complete (s : State) (e : Entry) (status : Nat) (result : Bytes) (h : s.mode.resetFinal = false) :
    Posts (complete s (originOf e) status result) e status result := by
  obtain ⟨l, hl⟩ := complete_out s (originOf e) status result h
  exact ⟨completionOf s (originOf e) status result, by rw [hl]; simp, rfl, rfl, rfl, rfl, rfl⟩

/-- What fits is posted as it is. -/
theorem posts_answer (s : State) (e : Entry) (status : Nat) (result : Bytes) (hf : s.mode.resetFinal = false)
    (h : resultFits e result.length = true) : Posts (answer s e status result) e status result := by
  unfold answer
  rw [if_pos h]
  exact posts_complete s e status result hf

theorem posts_as {t : State} {e : Entry} {st st' : Nat} {r r' : Bytes} (h : Posts t e st r) (h1 : st = st') (h2 : r = r') :
    Posts t e st' r' := by
  subst h1
  subst h2
  exact h

theorem fixedLen_iff (n : Nat) (e : Entry) (h : (entryArgs e).length = n) : fixedLen n e = true := by
  unfold fixedLen
  simp [h]

theorem modes_pass (c : CmdSpec) (s : State) (hm : c.modes = [] ∨ c.modes.contains s.mode.mode = true) :
    (!c.modes.isEmpty && !c.modes.contains s.mode.mode) = false := by
  rcases hm with h | h <;> rw [h] <;> simp

theorem transition_pass (c : CmdSpec) (s : State) (ht : c.noTransition = false ∨ inTransition s = false) :
    (c.noTransition && inTransition s) = false := by
  rcases ht with h | h <;> rw [h] <;> simp

/-- R459 lets a command of an open session through. -/
theorem judge_open (c : CmdSpec) (s : State) (e : Entry) (h : (mbx s e.mbx).state ≠ .closed) (hr : s.start.rescue = false)
    (hu : c.unknown = false) (hl : c.loaderOnly = false) (hm : c.modes = [] ∨ c.modes.contains s.mode.mode = true)
    (ht : c.noTransition = false ∨ inTransition s = false) (hb : c.refusedBy s e = false := by rfl) : judge c false s e = none := by
  unfold judge
  dsimp only
  rw [modes_pass c s hm, transition_pass c s ht]
  simp [h, hr, hu, hl, hb]

/-- R459 lets a command that needs a privileged session through in one. -/
theorem judge_priv (c : CmdSpec) (b : Bool) (s : State) (e : Entry) (h : (mbx s e.mbx).state = .privileged) (hr : s.start.rescue = false)
    (hu : c.unknown = false) (hl : c.loaderOnly = false) (hm : c.modes = [] ∨ c.modes.contains s.mode.mode = true)
    (ht : c.noTransition = false ∨ inTransition s = false) (hb : c.refusedBy s e = false := by rfl) : judge c b s e = none := by
  unfold judge
  dsimp only
  rw [modes_pass c s hm, transition_pass c s ht]
  simp [h, hr, hu, hl, hb]

theorem complete_adds (s : State) (o : Origin) (status : Nat) (result : Bytes) : ∃ l, (complete s o status result).out = s.out ++ l := by
  cases hf : s.mode.resetFinal with
  | false =>
    obtain ⟨l, h⟩ := complete_out s o status result hf
    exact ⟨_, h⟩
  | true => exact ⟨[], by simp [complete, hf]⟩

theorem posts_complete_again (s : State) (e : Entry) (o : Origin) (status st : Nat) (result r : Bytes)
    (h : Posts s e status result) : Posts (complete s o st r) e status result := by
  obtain ⟨c, hc, h1⟩ := h
  obtain ⟨l, hl⟩ := complete_adds s o st r
  exact ⟨c, by rw [hl]; simp [hc], h1⟩

theorem resultFits_short (e : Entry) (n : Nat) (h : n ≤ 40) : resultFits e n = true := by
  unfold resultFits
  simp [h]

/-- A mailbox that does not exist reads the same in states of as many. -/
theorem mbx_out {s t : State} (k : Nat) (h : ¬k < s.zewen.mbx.length) (g : t.zewen.mbx.length = s.zewen.mbx.length) : mbx t k = mbx s k := by
  unfold mbx nth
  rw [List.getD_eq_getElem?_getD, List.getD_eq_getElem?_getD, List.getElem?_eq_none (by omega), List.getElem?_eq_none (by omega)]

/-- A completion leaves everything of its mailbox as it is but for the rings, what is in flight and what is kept for a repeat. -/
theorem complete_box (s : State) (o : Origin) (status : Nat) (result : Bytes) (k : Nat) :
    ∃ a b c d f w, mbx (complete s o status result) k =
      { mbx s k with inFlight := a, cplTail := b, cplHead := c, cplRing := d, kept := f, window := w } := by
  by_cases hk : k = o.mbx
  · subst hk
    cases hf : s.mode.resetFinal with
    | true => exact ⟨_, _, _, _, _, _, by simp [complete, hf]; rfl⟩
    | false =>
      by_cases h : o.mbx < s.zewen.mbx.length
      · rw [complete_mbx_same _ _ _ _ hf h]
        exact ⟨_, _, _, _, _, _, rfl⟩
      · rw [mbx_out _ h (by simp)]
        exact ⟨_, _, _, _, _, _, rfl⟩
  · rw [complete_mbx_other _ _ _ _ _ hk]
    exact ⟨_, _, _, _, _, _, rfl⟩

@[simp] theorem complete_state (s : State) (o : Origin) (status : Nat) (result : Bytes) (k : Nat) :
    (mbx (complete s o status result) k).state = (mbx s k).state := by
  obtain ⟨_, _, _, _, _, _, h⟩ := complete_box s o status result k
  rw [h]

/-! ### What completions leave of the mailboxes -/

/-- The sessions are the same: of each mailbox only its rings, what is accepted, in flight or kept differs. -/
def SameSessions (s t : State) : Prop :=
  t.zewen.mbx.length = s.zewen.mbx.length ∧ ∀ k, ∃ a b c d f g w, mbx t k =
    { mbx s k with inFlight := a, cplTail := b, cplHead := c, cplRing := d, kept := f, accepted := g, window := w }

theorem SameSessions.of_mbx {s t : State} (h : t.zewen.mbx = s.zewen.mbx) : SameSessions s t :=
  ⟨by rw [h], fun k => ⟨_, _, _, _, _, _, _, by rw [mbx_of h]⟩⟩

theorem SameSessions.refl (s : State) : SameSessions s s := .of_mbx rfl

theorem SameSessions.trans {s t u : State} (h : SameSessions s t) (g : SameSessions t u) : SameSessions s u := by
  refine ⟨g.1.trans h.1, fun k => ?_⟩
  obtain ⟨a, b, c, d, f, x, w, hk⟩ := h.2 k
  obtain ⟨a', b', c', d', f', x', w', gk⟩ := g.2 k
  exact ⟨a', b', c', d', f', x', w', by rw [gk, hk]⟩

theorem SameSessions.state {s t : State} (h : SameSessions s t) (k : Nat) : (mbx t k).state = (mbx s k).state := by
  obtain ⟨a, b, c, d, f, x, w, hk⟩ := h.2 k
  rw [hk]

theorem SameSessions.closing {s t : State} (h : SameSessions s t) (k : Nat) : (mbx t k).closing = (mbx s k).closing := by
  obtain ⟨a, b, c, d, f, x, w, hk⟩ := h.2 k
  rw [hk]

theorem SameSessions.challenge {s t : State} (h : SameSessions s t) (k : Nat) : (mbx t k).challenge = (mbx s k).challenge := by
  obtain ⟨a, b, c, d, f, x, w, hk⟩ := h.2 k
  rw [hk]

theorem SameSessions.via {s t : State} (h : SameSessions s t) (k : Nat) : (mbx t k).via = (mbx s k).via := by
  obtain ⟨a, b, c, d, f, x, w, hk⟩ := h.2 k
  rw [hk]

theorem SameSessions.sessionId {s t : State} (h : SameSessions s t) (k : Nat) : (mbx t k).sessionId = (mbx s k).sessionId := by
  obtain ⟨a, b, c, d, f, x, w, hk⟩ := h.2 k
  rw [hk]

theorem complete_same (s : State) (o : Origin) (status : Nat) (result : Bytes) : SameSessions s (complete s o status result) := by
  refine ⟨by simp, fun k => ?_⟩
  obtain ⟨a, b, c, d, f, w, h⟩ := complete_box s o status result k
  exact ⟨a, b, c, d, f, (mbx s k).accepted, w, h⟩

theorem foldl_same {α : Type} (f : State → α → State) (hf : ∀ s x, SameSessions s (f s x)) (l : List α) (s : State) :
    SameSessions s (l.foldl f s) := by
  induction l generalizing s with
  | nil => exact .refl s
  | cons x l ih => exact (hf s x).trans (ih _)

theorem completeAll_same (s : State) (os : List Origin) (status : Nat) : SameSessions s (completeAll s os status) :=
  foldl_same _ (fun s o => complete_same s o status []) os s

theorem setMbx_same (s : State) (m : Nat) (f : Mailbox → Mailbox)
    (h : ∀ x, ∃ a b c d g i w, f x = { x with inFlight := a, cplTail := b, cplHead := c, cplRing := d, kept := g, accepted := i, window := w }) :
    SameSessions s (setMbx s m f) := by
  refine ⟨by simp, fun k => ?_⟩
  by_cases hk : k = m
  · subst hk
    by_cases hl : k < s.zewen.mbx.length
    · rw [mbx_setMbx_same _ _ _ hl]
      exact h _
    · exact ⟨_, _, _, _, _, _, _, show _ = mbx s k from mbx_out k hl (by simp)⟩
  · rw [mbx_setMbx_other _ _ _ _ hk]
    exact ⟨_, _, _, _, _, _, _, rfl⟩

theorem withdraw_same (s : State) (o : Origin) {t : State} (h : withdraw s o = some t) : SameSessions s t :=
  .of_mbx (by rw [(withdraw_frame s o h).2.2.1])

theorem cancelAll_same (s : State) (m : Nat) : SameSessions s (cancelAll s m) := by
  unfold cancelAll
  refine ((setMbx_same s m _ (fun x => ⟨_, _, _, _, _, _, _, rfl⟩)).trans (completeAll_same _ _ _)).trans (foldl_same _ (fun s o => ?_) _ _)
  split
  · rename_i t ht
    exact (withdraw_same _ _ ht).trans (complete_same _ _ _ _)
  · exact .refl _

/-- An open session enters CLOSING, and no other session changes. -/
theorem enterClosing_box (s : State) (m : Nat) (closer : Option Origin) (hm : m < s.zewen.mbx.length)
    (h : (mbx s m).state = .opened ∨ (mbx s m).state = .challenged ∨ (mbx s m).state = .privileged) :
    (mbx (enterClosing s m closer) m).state = .closing ∧ (mbx (enterClosing s m closer) m).closing = closer ∧
      (mbx (enterClosing s m closer) m).challenge = none ∧ (enterClosing s m closer).zewen.mbx.length = s.zewen.mbx.length := by
  unfold enterClosing
  rw [if_pos (by simpa [or_assoc] using h)]
  have hs := cancelAll_same (setMbx s m (fun b => { b with state := .closing, closing := closer, challenge := none })) m
  have hb : mbx (setMbx s m (fun b => { b with state := .closing, closing := closer, challenge := none })) m =
      { mbx s m with state := .closing, closing := closer, challenge := none } := mbx_setMbx_same _ _ _ hm
  refine ⟨?_, ?_, ?_, ?_⟩
  · exact (hs.state m).trans (by rw [hb])
  · exact (hs.closing m).trans (by rw [hb])
  · exact (hs.challenge m).trans (by rw [hb])
  · exact hs.1.trans (by simp)

theorem foldl_keeps {α β : Type} (f : State → α → State) (g : State → β) (hf : ∀ s x, g (f s x) = g s) (l : List α) (s : State) :
    g (l.foldl f s) = g s := by
  induction l generalizing s with
  | nil => rfl
  | cons x l ih => exact (ih _).trans (hf s x)

theorem withdraw_leases (s : State) (o : Origin) {t : State} (h : withdraw s o = some t) : t.piste.leases = s.piste.leases := by
  unfold withdraw at h
  repeat' split at h
  all_goals first
    | (cases h; done)
    | (cases h; rfl)

theorem cancelAll_leases (s : State) (m : Nat) : (cancelAll s m).piste.leases = s.piste.leases := by
  have fr1 := @completeAll_frame; have fr2 := @complete_frame; have fr3 := @setMbx_frame
  unfold cancelAll
  refine (foldl_keeps _ (fun x => x.piste.leases) (fun s o => ?_) _ _).trans (by simp [fr1, fr2, fr3])
  split
  · rename_i t ht
    simpa [fr1, fr2, fr3] using withdraw_leases _ _ ht
  · rfl

/-- Closing a session discards its staging area and its kept report, and ends no lease (R66). -/
theorem enterClosing_ends (s : State) (m : Nat) (closer : Option Origin)
    (h : (mbx s m).state = .opened ∨ (mbx s m).state = .challenged ∨ (mbx s m).state = .privileged) :
    (∀ g, (enterClosing s m closer).image.staging = some g → g.mbx ≠ m) ∧ (∀ r ∈ (enterClosing s m closer).sec.reports, r.1 ≠ m) ∧
      (enterClosing s m closer).piste.leases = s.piste.leases := by
  have fr1 := @cancelAll_frame; have fr2 := @setMbx_frame
  unfold enterClosing
  rw [if_pos (by simpa [or_assoc, fr1, fr2] using h)]
  refine ⟨?_, ?_, ?_⟩
  · intro g hg hm
    dsimp only at hg
    split at hg
    · cases hg
    · rename_i hn
      exact hn (by rw [hg]; simp [hm, fr1, fr2])
  · intro r hr
    simp [fr1, fr2] at hr
    exact hr.2
  · exact cancelAll_leases _ _

/-! ### Counters and discards -/

theorem ov_of {s t : State} (h : t.objs = s.objs) (cls inst mem : Nat) : ov t cls inst mem = ov s cls inst mem := by unfold ov; rw [h]

@[simp] theorem begin_ov (clk : Nat) (s : State) (cls inst mem : Nat) : ov (begin clk s) cls inst mem = ov s cls inst mem :=
  ov_of (by have fr1 := @begin_frame; simp [fr1]) _ _ _

@[simp] theorem entered_ov (clk : Nat) (s : State) (via : Transport) (e : Entry) (cls inst mem : Nat) :
    ov (entered clk s via e) cls inst mem = ov s cls inst mem := ov_of (by simp) _ _ _

/-- A counter goes up by one. -/
theorem bump_objs (s : State) (cls inst mem : Nat) :
    (bump s cls inst mem).objs = oput s.objs (okey cls inst mem) (countUp 1 (ov s cls inst mem) s.freeCount) := rfl

@[simp] theorem bump_mbx (s : State) (cls inst mem k : Nat) : mbx (bump s cls inst mem) k = mbx s k :=
  mbx_eq (by have fr1 := @bump_frame; simp [fr1]) k

theorem discard_mbx (s : State) (m : Nat) (h : m < s.zewen.mbx.length) :
    mbx (discard s m) m = { mbx s m with discards := satNat 16 ((mbx s m).discards + 1) } := mbx_setMbx_same _ _ _ h

@[simp] theorem discard_out (s : State) (m : Nat) : (discard s m).out = s.out := rfl

/-- With the trace of completions off a completion changes no object. -/
theorem complete_objs_quiet (s : State) (o : Origin) (status : Nat) (result : Bytes) (h : bit (ov s 0xA0 1 2) 0 = false) :
    (complete s o status result).objs = s.objs := by
  have fr1 := @sendVector_frame; have fr2 := @sendCompletion_frame; have fr3 := @setMbx_frame
  have off : ∀ a : State, a.objs = s.objs → ∀ code arg word reason, trace a 0 code arg word reason = a := by
    intro a ha code arg word reason
    unfold trace
    rw [ov_of ha, h]
    rfl
  unfold complete
  split
  · rfl
  · dsimp only
    rw [off _ (by simp [fr2, fr3, emit])]
    split <;> simp [fr1, fr2, fr3, emit]

/-! ### The count of clocks stays as it is -/

@[simp] theorem sendVector_clock (s : State) (v : Nat) : (sendVector s v).clock = s.clock := by
  unfold sendVector vectorNow
  repeat' split
  all_goals rfl

@[simp] theorem trace_clock (s : State) (b code arg word reason : Nat) : (trace s b code arg word reason).clock = s.clock := by
  have add : ∀ (s : State) e, (addTrace s e).clock = s.clock := by
    intro s e
    unfold addTrace dropTrace
    dsimp only
    repeat' split
    all_goals rfl
  unfold trace
  split
  · exact add s _
  · rfl

@[simp] theorem trace_acq (s : State) (b code arg word reason : Nat) : (trace s b code arg word reason).acq = s.acq := by
  have add : ∀ (s : State) e, (addTrace s e).acq = s.acq := by
    intro s e
    unfold addTrace dropTrace
    dsimp only
    repeat' split
    all_goals rfl
  unfold trace
  split
  · exact add s _
  · rfl

/-- A completion leaves the acquisition alone. -/
@[simp] theorem complete_acq (s : State) (o : Origin) (status : Nat) (result : Bytes) : (complete s o status result).acq = s.acq := by
  have sent : ∀ (s : State) b c, (sendCompletion s b c).acq = s.acq := by
    intro s b c
    unfold sendCompletion
    split <;> rfl
  have fr := @sendVector_frame
  unfold complete
  split
  · rfl
  · dsimp only
    split <;> simp only [fr, trace_acq, sent] <;> rfl

@[simp] theorem complete_clock (s : State) (o : Origin) (status : Nat) (result : Bytes) : (complete s o status result).clock = s.clock := by
  have sent : ∀ (s : State) b c, (sendCompletion s b c).clock = s.clock := by
    intro s b c
    unfold sendCompletion
    split <;> rfl
  unfold complete
  split
  · rfl
  · dsimp only
    split <;> simp only [sendVector_clock, trace_clock, sent] <;> rfl

@[simp] theorem entered_clock (clk : Nat) (s : State) (via : Transport) (e : Entry) : (entered clk s via e).clock = (begin clk s).clock := rfl

/-- Every command of a list completes. -/
theorem completeAll_posts (os : List Origin) (status : Nat) (s : State) (h : s.mode.resetFinal = false) (o : Origin) (ho : o ∈ os) :
    ∃ c, Output.completion c ∈ (completeAll s os status).out ∧ c.mailbox = o.mbx ∧ c.txid = o.txid ∧ c.status = status := by
  have fr1 := @complete_frame
  induction os generalizing s with
  | nil => cases ho
  | cons a l ih =>
    rcases List.mem_cons.1 ho with rfl | ho
    · obtain ⟨l1, g1⟩ := complete_out s o status [] h
      have h2 : ∀ (os : List Origin) (s : State), ∃ l, (completeAll s os status).out = s.out ++ l := by
        intro os
        induction os with
        | nil => exact fun s => ⟨[], (List.append_nil _).symm⟩
        | cons b os ih => exact fun s => out_trans (complete_adds s b status []) (ih _)
      obtain ⟨l2, g2⟩ := h2 l (complete s o status)
      refine ⟨completionOf s o status [], ?_, rfl, rfl, rfl⟩
      show _ ∈ (completeAll (complete s o status) l status).out
      rw [g2, g1]
      simp
    · exact ih (complete s a status) (by simpa [fr1] using h) ho

/-! ### The link stays as it is -/

@[simp] theorem vectorNow_linkUp (s : State) (v : Nat) : (vectorNow s v).zewen.linkUp = s.zewen.linkUp := by
  unfold vectorNow
  split <;> rfl

@[simp] theorem sendVector_linkUp (s : State) (v : Nat) : (sendVector s v).zewen.linkUp = s.zewen.linkUp := by
  unfold sendVector
  repeat' split
  all_goals simp

@[simp] theorem sendVector_boxes (s : State) (v : Nat) : (sendVector s v).zewen.mbx = s.zewen.mbx := by
  unfold sendVector vectorNow
  repeat' split
  all_goals rfl

@[simp] theorem setInt_linkUp (s : State) (n : Nat) : (setInt s n).zewen.linkUp = s.zewen.linkUp := by
  unfold setInt
  dsimp only
  repeat' split
  all_goals simp

@[simp] theorem setInt_boxes (s : State) (n : Nat) : (setInt s n).zewen.mbx = s.zewen.mbx := by
  unfold setInt
  dsimp only
  repeat' split
  all_goals simp

theorem takeStamps_box (s : State) :
    (takeStamps s).zewen.linkUp = s.zewen.linkUp ∧ (takeStamps s).zewen.mbx = s.zewen.mbx := by
  have push : ∀ (s : State) e, (pushStamp s e).zewen.linkUp = s.zewen.linkUp ∧ (pushStamp s e).zewen.mbx = s.zewen.mbx := by
    intro s e
    unfold pushStamp
    dsimp only
    repeat' split
    all_goals simp
  unfold takeStamps
  exact ⟨foldl_keeps _ (fun x => x.zewen.linkUp) (fun s e => (push s e).1) _ _, foldl_keeps _ (fun x => x.zewen.mbx) (fun s e => (push s e).2) _ _⟩

@[simp] theorem takeStamps_privView (s : State) (bar2 : Bool) : privView (takeStamps s) bar2 = privView s bar2 := by
  unfold privView
  rw [(takeStamps_box s).2]

@[simp] theorem log_linkUp (s : State) (cls : LogClass) (code arg : Nat) (word : Word) (reason : Nat) :
    (log s cls code arg word reason).zewen.linkUp = s.zewen.linkUp := by
  have fr1 := @addAlarm_frame; have fr2 := @addEvent_frame; have fr3 := @addTrace_frame; have fr4 := @alarmTrigger_frame; have fr5 := @withLogs_frame
  unfold log
  dsimp only
  repeat' split
  all_goals simp [fr1, fr2, fr3, fr4, fr5]

@[simp] theorem trace_linkUp (s : State) (b code arg word reason : Nat) : (trace s b code arg word reason).zewen.linkUp = s.zewen.linkUp := by
  unfold trace
  split <;> simp

@[simp] theorem sendCompletion_linkUp (s : State) (b : Mailbox) (c : Completion) : (sendCompletion s b c).zewen.linkUp = s.zewen.linkUp := by
  unfold sendCompletion
  split <;> rfl

@[simp] theorem complete_linkUp (s : State) (o : Origin) (status : Nat) (result : Bytes) :
    (complete s o status result).zewen.linkUp = s.zewen.linkUp := by
  unfold complete
  split
  · rfl
  · dsimp only
    split <;> simp [emit]

@[simp] theorem enterClosing_linkUp (s : State) (m : Nat) (closer : Option Origin) :
    (enterClosing s m closer).zewen.linkUp = s.zewen.linkUp := by
  have h : ∀ (s : State) m, (cancelAll s m).zewen.linkUp = s.zewen.linkUp := by
    intro s m
    unfold cancelAll
    refine (foldl_keeps _ (fun x => x.zewen.linkUp) (fun s o => ?_) _ _).trans ?_
    · split
      · rename_i t ht
        rw [complete_linkUp, (withdraw_frame s o ht).2.2.1]
      · rfl
    · exact (foldl_keeps _ (fun x => x.zewen.linkUp) (fun s o => complete_linkUp s o _ _) _ _).trans (by simp)
  unfold enterClosing
  dsimp only
  split
  · exact (h _ _).trans (by simp)
  · rfl

/-- Closing leaves the other sessions alone. -/
theorem enterClosing_other (s : State) (m k : Nat) (closer : Option Origin) (hk : k ≠ m) :
    ∃ a b c d f g w, mbx (enterClosing s m closer) k =
      { mbx s k with inFlight := a, cplTail := b, cplHead := c, cplRing := d, kept := f, accepted := g, window := w } := by
  unfold enterClosing
  dsimp only
  split
  · obtain ⟨a, b, c, d, f, g, w, h⟩ := (cancelAll_same (setMbx s m (fun b => { b with state := .closing, closing := closer, challenge := none })) m).2 k
    rw [mbx_setMbx_other _ _ _ _ hk] at h
    exact ⟨a, b, c, d, f, g, w, h⟩
  · exact ⟨_, _, _, _, _, _, _, rfl⟩

theorem enterClosing_boxes (s : State) (m : Nat) (closer : Option Origin) :
    (enterClosing s m closer).zewen.mbx.length = s.zewen.mbx.length := by
  unfold enterClosing
  dsimp only
  split
  · exact (cancelAll_same _ _).1.trans (by simp)
  · rfl

@[simp] theorem closePcie_linkUp (s : State) : (closePcie s).zewen.linkUp = s.zewen.linkUp := by
  unfold closePcie
  refine foldl_keeps _ (fun x => x.zewen.linkUp) (fun s m => ?_) _ _
  split <;> simp

/-- A session that PCIe carries is CLOSING once the link has gone (R65). -/
theorem closePcie_closes (s : State) (m : Nat) (h8 : s.zewen.mbx.length = 8) (hm : m < 8) (hv : (mbx s m).via = .pcie)
    (h : (mbx s m).state = .opened ∨ (mbx s m).state = .challenged ∨ (mbx s m).state = .privileged) :
    (mbx (closePcie s) m).state = .closing := by
  let f := fun (s : State) (m : Nat) => if (mbx s m).via = .pcie then enterClosing s m none else s
  have step : ∀ s k, m ≠ k → ∃ a b c d g i w, mbx (f s k) m =
      { mbx s m with inFlight := a, cplTail := b, cplHead := c, cplRing := d, kept := g, accepted := i, window := w } := by
    intro s k hk
    show ∃ a b c d g i w, mbx (if (mbx s k).via = .pcie then enterClosing s k none else s) m = _
    split
    · exact enterClosing_other s k m none hk
    · exact ⟨_, _, _, _, _, _, _, rfl⟩
  have len : ∀ s k, (f s k).zewen.mbx.length = s.zewen.mbx.length := by
    intro s k
    show (if (mbx s k).via = .pcie then enterClosing s k none else s).zewen.mbx.length = _
    split
    · exact enterClosing_boxes s k none
    · rfl
  have closed : ∀ (l : List Nat) (s : State), (mbx s m).state = .closing → (mbx (l.foldl f s) m).state = .closing := by
    intro l
    induction l with
    | nil => exact fun s h => h
    | cons k l ih =>
      intro s hs
      refine ih _ ?_
      by_cases hk : m = k
      · subst hk
        show (mbx (if (mbx s m).via = .pcie then enterClosing s m none else s) m).state = _
        split
        · unfold enterClosing
          rw [if_neg (by simp [hs])]
          exact hs
        · exact hs
      · obtain ⟨a, b, c, d, g, i, w, hx⟩ := step s k hk
        rw [hx]
        exact hs
  have go : ∀ (l : List Nat) (s : State), m ∈ l → s.zewen.mbx.length = 8 → (mbx s m).via = .pcie →
      ((mbx s m).state = .opened ∨ (mbx s m).state = .challenged ∨ (mbx s m).state = .privileged) →
      (mbx (l.foldl f s) m).state = .closing := by
    intro l
    induction l with
    | nil => exact fun s h => absurd h List.not_mem_nil
    | cons k l ih =>
      intro s hl h8 hv hs
      by_cases hk : m = k
      · subst hk
        refine closed l _ ?_
        show (mbx (if (mbx s m).via = .pcie then enterClosing s m none else s) m).state = _
        rw [if_pos hv]
        exact (enterClosing_box s m none (by omega) hs).1
      · obtain ⟨a, b, c, d, g, i, w, hx⟩ := step s k hk
        refine ih (f s k) ((List.mem_cons.1 hl).resolve_left hk) ((len s k).trans h8) ?_ ?_
        · rw [hx]
          exact hv
        · rw [hx]
          exact hs
  exact go (List.range 8) s (List.mem_range.2 hm) h8 hv h

/-! ### Outputs of completions -/

theorem foldl_out {α : Type} (f : State → α → State) (hf : ∀ s x, ∃ l, (f s x).out = s.out ++ l) (l : List α) (s : State) :
    ∃ m, (l.foldl f s).out = s.out ++ m := by
  induction l generalizing s with
  | nil => exact ⟨[], by simp⟩
  | cons x l ih => exact out_trans (hf s x) (ih _)

theorem completeAll_out (s : State) (os : List Origin) (status : Nat) : ∃ l, (completeAll s os status).out = s.out ++ l :=
  foldl_out _ (fun s o => complete_adds s o status []) os s

theorem settleWaits_out (s : State) (p : Mode → Bool) (status : Nat) : ∃ l, (settleWaits s p status).out = s.out ++ l :=
  completeAll_out _ _ _

theorem acceptTarget_out (s : State) (t : Mode) (w : Word) : ∃ l, (acceptTarget s t w).out = s.out ++ l := by
  unfold acceptTarget
  dsimp only
  rw [withMode_out]
  split
  · exact settleWaits_out _ _ _
  · exact ⟨[], by simp⟩

/-- What was posted stays posted. -/
theorem posts_mono {s t : State} {e : Entry} {status : Nat} {result : Bytes} (h : Posts s e status result)
    (g : ∃ l, t.out = s.out ++ l) : Posts t e status result := by
  obtain ⟨c, hc, h1⟩ := h
  obtain ⟨l, hl⟩ := g
  exact ⟨c, by rw [hl]; simp [hc], h1⟩

/-- The target taken is pending, and the mode in force does not change yet. -/
theorem acceptTarget_mode (s : State) (t : Mode) (w : Word) : (acceptTarget s t w).mode.accepted = some t ∧
    (acceptTarget s t w).mode.mode = s.mode.mode ∧ (acceptTarget s t w).mode.resetPosted = s.mode.resetPosted ∧
    (acceptTarget s t w).mode.target = s.mode.target ∧ (acceptTarget s t w).mode.isolated = s.mode.isolated := by
  have fr1 := @completeAll_frame
  unfold acceptTarget settleWaits
  dsimp only
  split <;> simp [fr1]

end Sys2Proof.Machine
end

