-- ==== Sys2Proof/Laws/Events.lean ====
section
/-! SUPPORT. What the events share: how a command is judged, what an error word and a trigger change, and how a channel of the safety
system is read back after it was set. -/

set_option Elab.async false
set_option linter.unusedSimpArgs false

namespace Sys2Proof.Machine

/-! ### Judgement -/
theorem privJudge (c : CmdSpec) (b : Bool) (clk : Nat) (s : State) (via : Transport) (e : Entry) (h : Privileged (begin clk s) e)
    (hu : c.unknown = false) (hl : c.loaderOnly = false) (hm : c.modes = [] ∨ c.modes.contains s.mode.mode = true)
    (ht : c.noTransition = false ∨ inTransition s = false) (hb : c.refusedBy (entered clk s via e) e = false := by rfl) :
    judge c b (entered clk s via e) e = none := by
  have fr1 := @begin_frame
  exact judge_priv c b _ _ (by simpa [fr1] using h.1) (by simpa [fr1] using h.2) hu hl (by simpa using hm) (by simpa using ht) hb

theorem openJudge (c : CmdSpec) (clk : Nat) (s : State) (via : Transport) (e : Entry) (h : Open (begin clk s) e)
    (hu : c.unknown = false) (hl : c.loaderOnly = false) (hm : c.modes = [] ∨ c.modes.contains s.mode.mode = true)
    (ht : c.noTransition = false ∨ inTransition s = false) (hb : c.refusedBy (entered clk s via e) e = false := by rfl) :
    judge c false (entered clk s via e) e = none := by
  have fr1 := @begin_frame
  exact judge_open c _ _ (by simpa [fr1] using h.1) (by simpa [fr1] using h.2) hu hl (by simpa using hm) (by simpa using ht) hb

/-! ### Errors and triggers -/
theorem log_mode (s : State) (c : LogClass) (code arg : Nat) (w : Word) (r : Nat) : (log s c code arg w r).mode = s.mode := by
  have fr1 := @addAlarm_frame; have fr2 := @addEvent_frame; have fr3 := @addTrace_frame; have fr4 := @alarmTrigger_frame; have fr5 := @setInt_frame; have fr6 := @withLogs_frame
  unfold log
  dsimp only
  split <;> try split
  all_goals simp [fr1, fr2, fr3, fr4, fr5, fr6]

theorem writeErr_mode (s : State) (w : Word) : ∃ x, (writeErr s w).mode = { s.mode with contained := x } := by
  have fr1 := @setInt_frame
  unfold writeErr
  dsimp only
  split <;> split
  all_goals first
    | exact ⟨_, rfl⟩
    | exact ⟨_, (show ∀ (u : State) n, (setInt u n).mode = u.mode from by intro u n; simp [fr1]) _ _⟩

theorem error_mode (s : State) (w : Word) : ∃ x, (error s w).mode = { s.mode with contained := x } := by
  unfold error errorAs
  rw [log_mode]
  exact writeErr_mode s w

theorem faults_of (s : State) (w : Word) (c : Cause) (hb : s.mode.mode ≠ .boot) (hf : s.mode.mode ≠ .fault) (ht : targetInForce s = none) :
    (faultError s w c).mode.accepted = some .fault := by
  unfold faultError
  obtain ⟨x, e⟩ := error_mode s w
  generalize error s w = u at e
  unfold trigger
  extract_lets wins
  have e1 : targetInForce u = none := by unfold targetInForce at ht ⊢; rw [e]; exact ht
  have hw : wins = true := by simp only [wins, e1]
  rw [if_neg (by rw [e]; simp [hb]), if_pos (by rw [hw]; simp [triggerRow, e, hf])]
  rfl

theorem error_isolated (s : State) (w : Word) : (error s w).mode.isolated = s.mode.isolated := by
  have fr1 := @setInt_frame
  unfold error errorAs
  rw [log_mode]
  unfold writeErr
  dsimp only
  split <;> split <;> simp [fr1, noteErr]

theorem trigger_isolated (s : State) (t : Mode) (w : Word) (c : Cause) : (trigger s t w c).mode.isolated = s.mode.isolated := by
  have fr1 := @noteMode_frame
  unfold trigger
  dsimp only
  have h1 := (acceptTarget_mode s t w).2.2.2.2
  have h2 : (bootTrigger s w c).mode.isolated = s.mode.isolated := by
    unfold bootTrigger faultStartDone
    dsimp only
    split
    · rfl
    · split
      · rfl
      · split
        · exact (acceptTarget_mode s .fault w).2.2.2.2
        · split <;> simp [fr1]
  have h3 : (recordCause s c).mode.isolated = s.mode.isolated := by
    unfold recordCause
    simp [fr1]
  repeat' split
  all_goals assumption

theorem isoBase (s : State) (r b : Nat) (w : Word) : isolated (error (withMode s fun m => { m with isolated := m.isolated ++ [(r, b)] }) w) r b = true := by
  unfold isolated; rw [error_isolated, List.contains_iff_mem]; simp

theorem isoTrig (u : State) (r b : Nat) (t w c) (h : isolated u r b = true) : isolated (trigger u t w c) r b = true := by
  unfold isolated at h ⊢; rw [trigger_isolated]; exact h

theorem isoMode (u : State) (r b : Nat) (f : ModeState → ModeState) (h : isolated u r b = true) (hf : ∀ m, (f m).isolated = m.isolated) : isolated (withMode u f) r b = true := by
  unfold isolated at h ⊢; rw [withMode_mode, hf]; exact h

theorem isolate_isolated (s : State) (r b el : Nat) : isolated (isolate s r b el) r b = true := by
  unfold isolate
  split
  · assumption
  · dsimp only
    split
    · apply isoTrig; apply isoBase
    · split
      · exact isoMode _ _ _ _ (isoBase _ _ _ _) (fun m => rfl)
      · apply isoTrig; apply isoBase
    · apply isoBase

theorem trace_reg (s : State) (m c a w : Nat) (r : Nat) : (trace s m c a w r).reg = s.reg := by
  have fr1 := @bump_frame; have fr2 := @withLogs_frame
  unfold trace log addTrace dropTrace
  dsimp only
  repeat' split
  all_goals simp [fr1, fr2]

theorem complete_reg (s : State) (o : Origin) (status : Nat) (result : Bytes) : (complete s o status result).reg = s.reg := by
  have fr1 := @emit_frame; have fr2 := @sendVector_frame; have fr3 := @setMbx_frame
  have h : ∀ (u : State) b c, (sendCompletion u b c).reg = u.reg := by
    intro u b c
    unfold sendCompletion
    split <;> rfl
  unfold complete
  split
  · rfl
  · dsimp only
    split <;> simp [trace_reg, h, fr1, fr2, fr3]
/-- The error word and the error count, which no interrupt changes. -/
def errPair (s : State) : Word × Nat := (s.reg.errWord, s.reg.errCount)

theorem setInt_err (s : State) (n : Nat) : errPair (setInt s n) = errPair s := by
  have fr1 := @sendVector_frame
  unfold setInt
  split
  · rfl
  · dsimp only; split <;> simp [errPair, fr1]

theorem errPair_reg {s t : State} (h : t.reg = s.reg) : errPair t = errPair s := by unfold errPair; rw [h]

theorem log_err (s : State) (c : LogClass) (code arg : Nat) (w : Word) (r : Nat) : errPair (log s c code arg w r) = errPair s := by
  have fr1 := @addAlarm_frame; have fr2 := @addEvent_frame; have fr3 := @addTrace_frame; have fr4 := @alarmTrigger_frame; have fr5 := @withLogs_frame
  unfold log
  dsimp only
  split
  · rw [errPair_reg ((show ∀ u : State, (alarmTrigger u).reg = u.reg from by intro u; simp [fr1, fr2, fr3, fr4, fr5]) _), setInt_err]
    refine errPair_reg ?_
    split <;> simp [fr1, fr2, fr3, fr4, fr5]
  · refine errPair_reg ?_
    split <;> simp [fr1, fr2, fr3, fr4, fr5]
  · exact errPair_reg (by simp [fr1, fr2, fr3, fr4, fr5])

theorem writeErr_err (s : State) (w : Word) : errPair (writeErr s w) = (errWordNow s w, satNat 32 (s.reg.errCount + 1)) := by
  unfold writeErr
  dsimp only
  split <;> split
  all_goals first
    | rfl
    | (rw [setInt_err]; rfl)

theorem error_err (s : State) (w : Word) : errPair (error s w) = (errWordNow s w, satNat 32 (s.reg.errCount + 1)) := by
  unfold error errorAs
  rw [log_err]
  exact writeErr_err s w

theorem noteMode_err (s : State) (m : Mode) : errPair (noteMode s m) = errPair s := by
  unfold noteMode
  dsimp only
  rw [log_err]
  split
  · rw [setInt_err, setInt_err]
  · rw [setInt_err]

theorem acceptTarget_reg (s : State) (t : Mode) (w : Word) : (acceptTarget s t w).reg = s.reg := by
  have h : ∀ (l : List Origin) st (s : State), (completeAll s l st).reg = s.reg := fun l st s =>
    foldl_keeps _ State.reg (fun _ _ => complete_reg _ _ _ _) l s
  unfold acceptTarget settleWaits
  dsimp only
  split
  · show (completeAll _ _ _).reg = _
    rw [h]; rfl
  · rfl

theorem trigger_err (s : State) (t : Mode) (w : Word) (c : Cause) : errPair (trigger s t w c) = errPair s := by
  unfold trigger
  extract_lets wins
  clear_value wins
  split
  split
  · unfold bootTrigger
    dsimp only
    split
    · rfl
    · split
      · rfl
      · split
        · exact errPair_reg (acceptTarget_reg s .fault w)
        · split
          · show errPair (noteMode _ _) = _
            rw [noteMode_err]; rfl
          · rw [noteMode_err]; rfl
  · rfl
  · split
    · exact errPair_reg (acceptTarget_reg s t w)
    · split <;> rfl

/-- A FAULT error writes its word and counts it. -/
theorem faultError_err (s : State) (w : Word) (c : Cause) : errPair (faultError s w c) = (errWordNow s w, satNat 32 (s.reg.errCount + 1)) := by
  unfold faultError
  rw [trigger_err, error_err]

theorem holdError_err (s : State) (w : Word) (c : Cause) : errPair (holdError s w c) = (errWordNow s w, satNat 32 (s.reg.errCount + 1)) := by
  unfold holdError
  rw [trigger_err, error_err]

/-! ### Safety channels -/
theorem safeCh_set (s : State) (c : Bool) (f) : safeCh (setSafeCh s c f) c = f (safeCh s c) := by cases c <;> rfl

theorem safeCh_other (s : State) (c : Bool) (f) : safeCh (setSafeCh s c f) (!c) = safeCh s (!c) := by cases c <;> rfl

theorem safety_same {s t : State} (h : t.safety = s.safety) (c : Bool) : safeCh t c = safeCh s c := by unfold safeCh; rw [h]

theorem takeStop_safety (s : State) (c : Bool) (a : Nat) (st : StopState) :
    (takeStop s c a st).safety = (setArmStop s c a (fun x => { x with state := st })).safety := by
  have fr1 := @log_frame; have fr2 := @setInt_frame
  unfold takeStop
  dsimp only
  split
  · simp [fr1, fr2]
  · rfl

theorem upd_twice {α : Type} (f g : α → α) : ∀ (l : List α) (i : Nat), upd (upd l i g) i f = upd l i (fun x => f (g x)) := by
  intro l; induction l with
  | nil => intro i; rfl
  | cons b l ih => intro i; cases i with | zero => rfl | succ n => simp [upd, ih]

theorem switchStuck_ch (s : State) (c : Bool) (n : Nat) : ∃ x, safeCh (switchStuck s c n) c = { safeCh s c with switches := x } ∧ safeCh (switchStuck s c n) (!c) = safeCh s (!c) := by
  have fr1 := @bump_frame; have fr2 := @faultError_frame
  unfold switchStuck
  extract_lets w s1
  have e : ∀ u : State, u.safety = s1.safety → ∃ x, safeCh u c = { safeCh s c with switches := x } ∧ safeCh u (!c) = safeCh s (!c) := by
    intro u h
    rw [safety_same h, safety_same h]
    exact ⟨_, safeCh_set _ _ _, safeCh_other _ _ _⟩
  split
  · exact e _ rfl
  · exact e _ (by simp [fr1, fr2])

end Sys2Proof.Machine
end

