-- ==== Sys2Proof/Laws/PerInstr.lean ====
section
/-! SUPPORT. The time family: whatever a command does, herd time and the AON timer are among the parts it may change (R87, R90), since
time goes on before it acts. One lemma per command. -/

set_option Elab.async false
set_option linter.unusedSimpArgs false

namespace Sys2Proof.Laws.TimeGoesOn

open Machine

/-- Herd time and the AON domain are among the parts the command may change. -/
def Statement (i : Instr) : Prop := Part.herd ∈ i.acts ∧ Part.aon ∈ i.acts

theorem nop : ∀ x0 x1, Statement (.nop x0 x1) :=
  fun _ _ => (by decide : Part.herd ∈ (posting : List Part) ∧ Part.aon ∈ (posting : List Part))

theorem openSession : ∀ x0 x1, Statement (.openSession x0 x1) :=
  fun _ _ => (by decide : Part.herd ∈ (posting : List Part) ∧ Part.aon ∈ (posting : List Part))

theorem closeSession : ∀ x0 x1, Statement (.closeSession x0 x1) :=
  fun _ _ => (by decide : Part.herd ∈ (postingAnd [.image, .plan, .piste, .sec] : List Part) ∧ Part.aon ∈ (postingAnd [.image, .plan, .piste, .sec] : List Part))

theorem newEpoch : ∀ x0 x1, Statement (.newEpoch x0 x1) :=
  fun _ _ => (by decide : Part.herd ∈ (posting : List Part) ∧ Part.aon ∈ (posting : List Part))

theorem challenge : ∀ x0 x1, Statement (.challenge x0 x1) :=
  fun _ _ => (by decide : Part.herd ∈ (posting : List Part) ∧ Part.aon ∈ (posting : List Part))

theorem unlock : ∀ x0 x1, Statement (.unlock x0 x1) :=
  fun _ _ => (by decide : Part.herd ∈ (posting : List Part) ∧ Part.aon ∈ (posting : List Part))

theorem cancel : ∀ x0 x1, Statement (.cancel x0 x1) :=
  fun _ _ => (by decide : Part.herd ∈ (postingAnd [.image, .plan, .piste] : List Part) ∧ Part.aon ∈ (postingAnd [.image, .plan, .piste] : List Part))

theorem getStatus : ∀ x0 x1, Statement (.getStatus x0 x1) :=
  fun _ _ => (by decide : Part.herd ∈ (posting : List Part) ∧ Part.aon ∈ (posting : List Part))

theorem reset : ∀ x0 x1, Statement (.reset x0 x1) :=
  fun _ _ => (by decide : Part.herd ∈ (postingAnd [.mode] : List Part) ∧ Part.aon ∈ (postingAnd [.mode] : List Part))

theorem setMode : ∀ x0 x1, Statement (.setMode x0 x1) :=
  fun _ _ => (by decide : Part.herd ∈ (postingAnd [.mode, .start, .image, .piste, .safety, .cham, .power] : List Part) ∧ Part.aon ∈ (postingAnd [.mode, .start, .image, .piste, .safety, .cham, .power] : List Part))

theorem objRead : ∀ x0 x1, Statement (.objRead x0 x1) :=
  fun _ _ => (by decide : Part.herd ∈ (postingAnd [.net, .sched] : List Part) ∧ Part.aon ∈ (postingAnd [.net, .sched] : List Part))

theorem objWrite : ∀ x0 x1, Statement (.objWrite x0 x1) :=
  fun _ _ => (by decide : Part.herd ∈ (postingAnd [.writes] : List Part) ∧ Part.aon ∈ (postingAnd [.writes] : List Part))

theorem imageBegin : ∀ x0 x1, Statement (.imageBegin x0 x1) :=
  fun _ _ => (by decide : Part.herd ∈ (postingAnd [.image] : List Part) ∧ Part.aon ∈ (postingAnd [.image] : List Part))

theorem imageData : ∀ x0 x1, Statement (.imageData x0 x1) :=
  fun _ _ => (by decide : Part.herd ∈ (postingAnd [.image] : List Part) ∧ Part.aon ∈ (postingAnd [.image] : List Part))

theorem imageCommit : ∀ x0 x1, Statement (.imageCommit x0 x1) :=
  fun _ _ => (by decide : Part.herd ∈ (postingAnd [.image] : List Part) ∧ Part.aon ∈ (postingAnd [.image] : List Part))

theorem imageAbort : ∀ x0 x1, Statement (.imageAbort x0 x1) :=
  fun _ _ => (by decide : Part.herd ∈ (postingAnd [.image] : List Part) ∧ Part.aon ∈ (postingAnd [.image] : List Part))

theorem moveJoint : ∀ x0 x1, Statement (.moveJoint x0 x1) :=
  fun _ _ => (by decide : Part.herd ∈ (postingAnd [.prof] : List Part) ∧ Part.aon ∈ (postingAnd [.prof] : List Part))

theorem moveLinear : ∀ x0 x1, Statement (.moveLinear x0 x1) :=
  fun _ _ => (by decide : Part.herd ∈ (postingAnd [.prof] : List Part) ∧ Part.aon ∈ (postingAnd [.prof] : List Part))

theorem moveConveyor : ∀ x0 x1, Statement (.moveConveyor x0 x1) :=
  fun _ _ => (by decide : Part.herd ∈ (postingAnd [.prof] : List Part) ∧ Part.aon ∈ (postingAnd [.prof] : List Part))

theorem stopMove : ∀ x0 x1, Statement (.stopMove x0 x1) :=
  fun _ _ => (by decide : Part.herd ∈ (postingAnd [.prof] : List Part) ∧ Part.aon ∈ (postingAnd [.prof] : List Part))

theorem jog : ∀ x0 x1, Statement (.jog x0 x1) :=
  fun _ _ => (by decide : Part.herd ∈ (postingAnd [.prof] : List Part) ∧ Part.aon ∈ (postingAnd [.prof] : List Part))

theorem teach : ∀ x0 x1, Statement (.teach x0 x1) :=
  fun _ _ => (by decide : Part.herd ∈ (postingAnd [.prof] : List Part) ∧ Part.aon ∈ (postingAnd [.prof] : List Part))

theorem pathRequest : ∀ x0 x1, Statement (.pathRequest x0 x1) :=
  fun _ _ => (by decide : Part.herd ∈ (postingAnd [.plan] : List Part) ∧ Part.aon ∈ (postingAnd [.plan] : List Part))

theorem zoneRequest : ∀ x0 x1, Statement (.zoneRequest x0 x1) :=
  fun _ _ => (by decide : Part.herd ∈ (postingAnd [.piste] : List Part) ∧ Part.aon ∈ (postingAnd [.piste] : List Part))

theorem zoneExtend : ∀ x0 x1, Statement (.zoneExtend x0 x1) :=
  fun _ _ => (by decide : Part.herd ∈ (postingAnd [.piste] : List Part) ∧ Part.aon ∈ (postingAnd [.piste] : List Part))

theorem zoneRelease : ∀ x0 x1, Statement (.zoneRelease x0 x1) :=
  fun _ _ => (by decide : Part.herd ∈ (postingAnd [.piste] : List Part) ∧ Part.aon ∈ (postingAnd [.piste] : List Part))

theorem acqArm : ∀ x0 x1, Statement (.acqArm x0 x1) :=
  fun _ _ => (by decide : Part.herd ∈ (posting : List Part) ∧ Part.aon ∈ (posting : List Part))

theorem acqRead : ∀ x0 x1, Statement (.acqRead x0 x1) :=
  fun _ _ => (by decide : Part.herd ∈ (posting : List Part) ∧ Part.aon ∈ (posting : List Part))

theorem logRead : ∀ x0 x1, Statement (.logRead x0 x1) :=
  fun _ _ => (by decide : Part.herd ∈ (posting : List Part) ∧ Part.aon ∈ (posting : List Part))

theorem attest : ∀ x0 x1 x2, Statement (.attest x0 x1 x2) :=
  fun _ _ _ => (by decide : Part.herd ∈ (postingAnd [.sec] : List Part) ∧ Part.aon ∈ (postingAnd [.sec] : List Part))

theorem keyEnrol : ∀ x0 x1, Statement (.keyEnrol x0 x1) :=
  fun _ _ => (by decide : Part.herd ∈ (postingAnd [.sec] : List Part) ∧ Part.aon ∈ (postingAnd [.sec] : List Part))

theorem loaderInfo : ∀ x0 x1, Statement (.loaderInfo x0 x1) :=
  fun _ _ => (by decide : Part.herd ∈ (posting : List Part) ∧ Part.aon ∈ (posting : List Part))

theorem loaderReadRecord : ∀ x0 x1, Statement (.loaderReadRecord x0 x1) :=
  fun _ _ => (by decide : Part.herd ∈ (posting : List Part) ∧ Part.aon ∈ (posting : List Part))

theorem loaderWriteSlot : ∀ x0 x1, Statement (.loaderWriteSlot x0 x1) :=
  fun _ _ => (by decide : Part.herd ∈ (postingAnd [.sec] : List Part) ∧ Part.aon ∈ (postingAnd [.sec] : List Part))

theorem loaderRestart : ∀ x0 x1, Statement (.loaderRestart x0 x1) := by
  intro x0 x1; exact ⟨by simp [Instr.acts, postingAnd, posting], by simp [Instr.acts, postingAnd, posting]⟩

theorem unknownOpcode : ∀ x0 x1, Statement (.unknownOpcode x0 x1) :=
  fun _ _ => (by decide : Part.herd ∈ (posting : List Part) ∧ Part.aon ∈ (posting : List Part))

theorem udpDatagramRx : ∀ x0 x1 x2 x3 x4 x5, Statement (.udpDatagramRx x0 x1 x2 x3 x4 x5) :=
  fun _ _ _ _ _ _ => (by decide : Part.herd ∈ ([.zewen, .objs, .herd, .aon, .freeCount] : List Part) ∧ Part.aon ∈ ([.zewen, .objs, .herd, .aon, .freeCount] : List Part))

theorem cmdTailWrite : ∀ x0 x1 x2, Statement (.cmdTailWrite x0 x1 x2) :=
  fun _ _ _ => (by decide : Part.herd ∈ ([.zewen, .herd, .aon] : List Part) ∧ Part.aon ∈ ([.zewen, .herd, .aon] : List Part))

theorem cplHeadWrite : ∀ x0 x1 x2, Statement (.cplHeadWrite x0 x1 x2) :=
  fun _ _ _ => (by decide : Part.herd ∈ ([.zewen, .herd, .aon] : List Part) ∧ Part.aon ∈ ([.zewen, .herd, .aon] : List Part))

theorem htNowLoRead : ∀ x0 x1, Statement (.htNowLoRead x0 x1) :=
  fun _ _ => (by decide : Part.herd ∈ ([.reg, .herd, .aon] : List Part) ∧ Part.aon ∈ ([.reg, .herd, .aon] : List Part))

theorem acqTrigTimeLoRead : ∀ x0 x1, Statement (.acqTrigTimeLoRead x0 x1) :=
  fun _ _ => (by decide : Part.herd ∈ ([.reg, .herd, .aon] : List Part) ∧ Part.aon ∈ ([.reg, .herd, .aon] : List Part))

theorem txtsPop : ∀ x0 x1 x2, Statement (.txtsPop x0 x1 x2) :=
  fun _ _ _ => (by decide : Part.herd ∈ ([.zewen, .reg, .herd, .aon, .clocks] : List Part) ∧ Part.aon ∈ ([.zewen, .reg, .herd, .aon, .clocks] : List Part))

theorem txtsOvfRead : ∀ x0 x1, Statement (.txtsOvfRead x0 x1) :=
  fun _ _ => (by decide : Part.herd ∈ ([.reg, .herd, .aon] : List Part) ∧ Part.aon ∈ ([.reg, .herd, .aon] : List Part))

theorem errCountRead : ∀ x0 x1, Statement (.errCountRead x0 x1) :=
  fun _ _ => (by decide : Part.herd ∈ ([.reg, .herd, .aon] : List Part) ∧ Part.aon ∈ ([.reg, .herd, .aon] : List Part))

theorem gatedAccessRead : ∀ x0 x1, Statement (.gatedAccessRead x0 x1) :=
  fun _ _ => (by decide : Part.herd ∈ ([.reg, .herd, .aon] : List Part) ∧ Part.aon ∈ ([.reg, .herd, .aon] : List Part))

theorem clearFirst : ∀ x0 x1 x2, Statement (.clearFirst x0 x1 x2) :=
  fun _ _ _ => (by decide : Part.herd ∈ ([.zewen, .reg, .herd, .aon, .clocks] : List Part) ∧ Part.aon ∈ ([.zewen, .reg, .herd, .aon, .clocks] : List Part))

theorem viewClear : ∀ x0 x1 x2, Statement (.viewClear x0 x1 x2) :=
  fun _ _ _ => (by decide : Part.herd ∈ ([.zewen, .reg, .herd, .aon, .clocks] : List Part) ∧ Part.aon ∈ ([.zewen, .reg, .herd, .aon, .clocks] : List Part))

theorem intStatusClear : ∀ x0 x1 x2, Statement (.intStatusClear x0 x1 x2) :=
  fun _ _ _ => (by decide : Part.herd ∈ ([.zewen, .reg, .herd, .aon, .clocks] : List Part) ∧ Part.aon ∈ ([.zewen, .reg, .herd, .aon, .clocks] : List Part))

theorem intMaskWrite : ∀ x0 x1 x2, Statement (.intMaskWrite x0 x1 x2) :=
  fun _ _ _ => (by decide : Part.herd ∈ ([.zewen, .reg, .herd, .aon, .clocks] : List Part) ∧ Part.aon ∈ ([.zewen, .reg, .herd, .aon, .clocks] : List Part))

theorem solverDoneClear : ∀ x0 x1 x2, Statement (.solverDoneClear x0 x1 x2) :=
  fun _ _ _ => (by decide : Part.herd ∈ ([.zewen, .reg, .herd, .aon, .clocks] : List Part) ∧ Part.aon ∈ ([.zewen, .reg, .herd, .aon, .clocks] : List Part))

theorem registerWrite : ∀ x0 x1 x2 x3 x4, Statement (.registerWrite x0 x1 x2 x3 x4) :=
  fun _ _ _ _ _ => (by decide : Part.herd ∈ ([.zewen, .reg, .herd, .aon, .clocks] : List Part) ∧ Part.aon ∈ ([.zewen, .reg, .herd, .aon, .clocks] : List Part))

theorem objWriteEffect : ∀ x0, Statement (.objWriteEffect x0) := by
  intro x0; exact ⟨by simp [Instr.acts, postingAnd, posting], by simp [Instr.acts, postingAnd, posting]⟩

theorem gateRequestTimeout : ∀ x0, Statement (.gateRequestTimeout x0) :=
  fun _ => (by decide : Part.herd ∈ (postingAnd [.writes, .clocks] : List Part) ∧ Part.aon ∈ (postingAnd [.writes, .clocks] : List Part))

theorem solverAnalysisDone : ∀ x0 x1, Statement (.solverAnalysisDone x0 x1) :=
  fun _ _ => (by decide : Part.herd ∈ ([.herd, .aon, .solver] : List Part) ∧ Part.aon ∈ ([.herd, .aon, .solver] : List Part))

theorem ipmIterationEnd : ∀ x0 x1, Statement (.ipmIterationEnd x0 x1) :=
  fun _ _ => (by decide : Part.herd ∈ ([.herd, .aon, .solver] : List Part) ∧ Part.aon ∈ ([.herd, .aon, .solver] : List Part))

theorem solverRunEnd : ∀ x0 x1, Statement (.solverRunEnd x0 x1) :=
  fun _ _ => (by decide : Part.herd ∈ (postingAnd [.plan, .solver] : List Part) ∧ Part.aon ∈ (postingAnd [.plan, .solver] : List Part))

theorem solveDeadline : ∀ x0 x1 x2, Statement (.solveDeadline x0 x1 x2) :=
  fun _ _ _ => (by decide : Part.herd ∈ ([.herd, .aon, .solver] : List Part) ∧ Part.aon ∈ ([.herd, .aon, .solver] : List Part))

theorem hostRunResume : ∀ x0, Statement (.hostRunResume x0) :=
  fun _ => (by decide : Part.herd ∈ ([.herd, .aon, .solver] : List Part) ∧ Part.aon ∈ ([.herd, .aon, .solver] : List Part))

theorem solverSramUncorrectable : ∀ x0 x1, Statement (.solverSramUncorrectable x0 x1) :=
  fun _ _ => (by decide : Part.herd ∈ (postingAnd [.mode, .start, .solver, .nor] : List Part) ∧ Part.aon ∈ (postingAnd [.mode, .start, .solver, .nor] : List Part))

theorem tickStart : Statement (.tickStart) := by
  exact ⟨by simp [Instr.acts, postingAnd, posting], by simp [Instr.acts, postingAnd, posting]⟩

theorem modeTransitionComplete : ∀ x0, Statement (.modeTransitionComplete x0) :=
  fun _ => (by decide : Part.herd ∈ (postingAnd [.mode] : List Part) ∧ Part.aon ∈ (postingAnd [.mode] : List Part))

theorem profilePass : ∀ x0, Statement (.profilePass x0) :=
  fun _ => (by decide : Part.herd ∈ (postingAnd [.plan, .piste, .prof, .ctl, .sched, .pair] : List Part) ∧ Part.aon ∈ (postingAnd [.plan, .piste, .prof, .ctl, .sched, .pair] : List Part))

theorem arbiterPass : ∀ x0, Statement (.arbiterPass x0) :=
  fun _ => (by decide : Part.herd ∈ (postingAnd [.mode, .piste, .pair] : List Part) ∧ Part.aon ∈ (postingAnd [.mode, .piste, .pair] : List Part))

theorem leaseExpiry : ∀ x0 x1, Statement (.leaseExpiry x0 x1) :=
  fun _ _ => (by decide : Part.herd ∈ ([.objs, .herd, .aon, .piste, .freeCount] : List Part) ∧ Part.aon ∈ ([.objs, .herd, .aon, .piste, .freeCount] : List Part))

theorem plannerSnapshot : ∀ x0, Statement (.plannerSnapshot x0) :=
  fun _ => (by decide : Part.herd ∈ (postingAnd [.plan] : List Part) ∧ Part.aon ∈ (postingAnd [.plan] : List Part))

theorem plannerPost : ∀ x0, Statement (.plannerPost x0) :=
  fun _ => (by decide : Part.herd ∈ (postingAnd [.plan, .solver] : List Part) ∧ Part.aon ∈ (postingAnd [.plan, .solver] : List Part))

theorem commitTest : ∀ x0, Statement (.commitTest x0) :=
  fun _ => (by decide : Part.herd ∈ (postingAnd [.plan, .piste] : List Part) ∧ Part.aon ∈ (postingAnd [.plan, .piste] : List Part))

theorem commitCutoff : ∀ x0, Statement (.commitCutoff x0) :=
  fun _ => (by decide : Part.herd ∈ (postingAnd [.plan] : List Part) ∧ Part.aon ∈ (postingAnd [.plan] : List Part))

theorem separationStep : ∀ x0, Statement (.separationStep x0) :=
  fun _ => (by decide : Part.herd ∈ ([.objs, .herd, .aon, .sep, .freeCount] : List Part) ∧ Part.aon ∈ ([.objs, .herd, .aon, .sep, .freeCount] : List Part))

theorem processorResult : ∀ x0, Statement (.processorResult x0) :=
  fun _ => (by decide : Part.herd ∈ (postingAnd [.mode, .start, .sep, .safety, .cham, .nor] : List Part) ∧ Part.aon ∈ (postingAnd [.mode, .start, .sep, .safety, .cham, .nor] : List Part))

theorem chamoisResult : ∀ x0, Statement (.chamoisResult x0) :=
  fun _ => (by decide : Part.herd ∈ (postingAnd [.mode, .start, .sep, .safety, .cham, .nor] : List Part) ∧ Part.aon ∈ (postingAnd [.mode, .start, .sep, .safety, .cham, .nor] : List Part))

theorem separationCombination : ∀ x0, Statement (.separationCombination x0) :=
  fun _ => (by decide : Part.herd ∈ (postingAnd [.mode, .start, .sep, .nor] : List Part) ∧ Part.aon ∈ (postingAnd [.mode, .start, .sep, .nor] : List Part))

theorem jointStale : ∀ x0 x1 x2, Statement (.jointStale x0 x1 x2) :=
  fun _ _ _ => (by decide : Part.herd ∈ ([.herd, .aon, .sep] : List Part) ∧ Part.aon ∈ ([.herd, .aon, .sep] : List Part))

theorem sensorWorst : ∀ x0 x1, Statement (.sensorWorst x0 x1) :=
  fun _ _ => (by decide : Part.herd ∈ (postingAnd [.sep] : List Part) ∧ Part.aon ∈ (postingAnd [.sep] : List Part))

theorem ss2Release : ∀ x0 x1, Statement (.ss2Release x0 x1) :=
  fun _ _ => (by decide : Part.herd ∈ ([.herd, .aon, .sep] : List Part) ∧ Part.aon ∈ ([.herd, .aon, .sep] : List Part))

theorem downstreamCommitPoint : ∀ x0 x1 x2, Statement (.downstreamCommitPoint x0 x1 x2) :=
  fun _ _ _ => (by decide : Part.herd ∈ ([.objs, .herd, .aon, .net, .safety, .freeCount] : List Part) ∧ Part.aon ∈ ([.objs, .herd, .aon, .net, .safety, .freeCount] : List Part))

theorem processFrameRx : ∀ x0 x1, Statement (.processFrameRx x0 x1) :=
  fun _ _ => (by decide : Part.herd ∈ ([.objs, .herd, .aon, .net, .ctl, .sched, .sep, .safety, .pair, .freeCount] : List Part) ∧ Part.aon ∈ ([.objs, .herd, .aon, .net, .ctl, .sched, .sep, .safety, .pair, .freeCount] : List Part))

theorem safetyFrameRx : ∀ x0 x1, Statement (.safetyFrameRx x0 x1) :=
  fun _ _ => (by decide : Part.herd ∈ ([.objs, .herd, .aon, .net, .ctl, .sched, .sep, .safety, .pair, .freeCount] : List Part) ∧ Part.aon ∈ ([.objs, .herd, .aon, .net, .ctl, .sched, .sep, .safety, .pair, .freeCount] : List Part))

theorem messageRx : ∀ x0 x1, Statement (.messageRx x0 x1) :=
  fun _ _ => (by decide : Part.herd ∈ ([.zewen, .reg, .objs, .herd, .aon, .net, .freeCount] : List Part) ∧ Part.aon ∈ ([.zewen, .reg, .objs, .herd, .aon, .net, .freeCount] : List Part))

theorem delayRespRx : ∀ x0 x1, Statement (.delayRespRx x0 x1) :=
  fun _ _ => (by decide : Part.herd ∈ ([.objs, .herd, .aon, .net, .pair, .freeCount] : List Part) ∧ Part.aon ∈ ([.objs, .herd, .aon, .net, .pair, .freeCount] : List Part))

theorem startupRx : ∀ x0 x1, Statement (.startupRx x0 x1) :=
  fun _ _ => (by decide : Part.herd ∈ ([.objs, .herd, .aon, .net, .freeCount] : List Part) ∧ Part.aon ∈ ([.objs, .herd, .aon, .net, .freeCount] : List Part))

theorem slotWindowClose : ∀ x0 x1, Statement (.slotWindowClose x0 x1) :=
  fun _ _ => (by decide : Part.herd ∈ ([.objs, .herd, .aon, .net, .ctl, .sched, .safety, .freeCount] : List Part) ∧ Part.aon ∈ ([.objs, .herd, .aon, .net, .ctl, .sched, .safety, .freeCount] : List Part))

theorem downstreamNitStart : ∀ x0, Statement (.downstreamNitStart x0) :=
  fun _ => (by decide : Part.herd ∈ ([.herd, .aon, .net] : List Part) ∧ Part.aon ∈ ([.herd, .aon, .net] : List Part))

theorem ringRestoreAt : ∀ x0 x1, Statement (.ringRestoreAt x0 x1) :=
  fun _ _ => (by decide : Part.herd ∈ ([.herd, .aon, .net] : List Part) ∧ Part.aon ∈ ([.herd, .aon, .net] : List Part))

theorem listenTimeout : ∀ x0, Statement (.listenTimeout x0) :=
  fun _ => (by decide : Part.herd ∈ ([.herd, .aon, .net] : List Part) ∧ Part.aon ∈ ([.herd, .aon, .net] : List Part))

theorem startWindowClose : ∀ x0, Statement (.startWindowClose x0) :=
  fun _ => (by decide : Part.herd ∈ ([.herd, .aon, .net] : List Part) ∧ Part.aon ∈ ([.herd, .aon, .net] : List Part))

theorem backoffEnd : ∀ x0, Statement (.backoffEnd x0) :=
  fun _ => (by decide : Part.herd ∈ ([.herd, .aon, .net] : List Part) ∧ Part.aon ∈ ([.herd, .aon, .net] : List Part))

theorem nodeIntegrated : ∀ x0 x1, Statement (.nodeIntegrated x0 x1) :=
  fun _ _ => (by decide : Part.herd ∈ ([.objs, .herd, .aon, .net, .freeCount] : List Part) ∧ Part.aon ∈ ([.objs, .herd, .aon, .net, .freeCount] : List Part))

theorem nodeLost : ∀ x0 x1, Statement (.nodeLost x0 x1) :=
  fun _ _ => (by decide : Part.herd ∈ (postingAnd [.net] : List Part) ∧ Part.aon ∈ (postingAnd [.net] : List Part))

theorem driftWarn : ∀ x0 x1, Statement (.driftWarn x0 x1) :=
  fun _ _ => (by decide : Part.herd ∈ (postingAnd [.net] : List Part) ∧ Part.aon ∈ (postingAnd [.net] : List Part))

theorem safetySingle : ∀ x0 x1, Statement (.safetySingle x0 x1) :=
  fun _ _ => (by decide : Part.herd ∈ (postingAnd [.net] : List Part) ∧ Part.aon ∈ (postingAnd [.net] : List Part))

theorem linkSyncLoss : ∀ x0 x1, Statement (.linkSyncLoss x0 x1) :=
  fun _ _ => (by decide : Part.herd ∈ (postingAnd [.net, .pair] : List Part) ∧ Part.aon ∈ (postingAnd [.net, .pair] : List Part))

theorem operandPost : ∀ x0, Statement (.operandPost x0) :=
  fun _ => (by decide : Part.herd ∈ ([.objs, .herd, .aon, .sched, .freeCount] : List Part) ∧ Part.aon ∈ ([.objs, .herd, .aon, .sched, .freeCount] : List Part))

theorem timedDue : ∀ x0, Statement (.timedDue x0) :=
  fun _ => (by decide : Part.herd ∈ ([.objs, .herd, .aon, .sched, .freeCount] : List Part) ∧ Part.aon ∈ ([.objs, .herd, .aon, .sched, .freeCount] : List Part))

theorem taskDispatch : ∀ x0 x1, Statement (.taskDispatch x0 x1) :=
  fun _ _ => (by decide : Part.herd ∈ ([.objs, .herd, .aon, .sched, .freeCount] : List Part) ∧ Part.aon ∈ ([.objs, .herd, .aon, .sched, .freeCount] : List Part))

theorem loopExecution : ∀ x0 x1, Statement (.loopExecution x0 x1) :=
  fun _ _ => (by decide : Part.herd ∈ (postingAnd [.net, .ctl, .sched, .field] : List Part) ∧ Part.aon ∈ (postingAnd [.net, .ctl, .sched, .field] : List Part))

theorem axisFault : ∀ x0 x1, Statement (.axisFault x0 x1) :=
  fun _ _ => (by decide : Part.herd ∈ (postingAnd [.mode, .start, .piste, .ctl, .nor] : List Part) ∧ Part.aon ∈ (postingAnd [.mode, .start, .piste, .ctl, .nor] : List Part))

theorem matchExpired : ∀ x0, Statement (.matchExpired x0) :=
  fun _ => (by decide : Part.herd ∈ (postingAnd [.mode, .sched] : List Part) ∧ Part.aon ∈ (postingAnd [.mode, .sched] : List Part))

theorem backpressureRelease : ∀ x0, Statement (.backpressureRelease x0) :=
  fun _ => (by decide : Part.herd ∈ ([.objs, .herd, .aon, .sched, .freeCount] : List Part) ∧ Part.aon ∈ ([.objs, .herd, .aon, .sched, .freeCount] : List Part))

theorem kernelRun : ∀ x0 x1 x2, Statement (.kernelRun x0 x1 x2) :=
  fun _ _ _ => (by decide : Part.herd ∈ (postingAnd [.mode, .dsp] : List Part) ∧ Part.aon ∈ (postingAnd [.mode, .dsp] : List Part))

theorem kernelWindowClose : ∀ x0 x1, Statement (.kernelWindowClose x0 x1) :=
  fun _ _ => (by decide : Part.herd ∈ (postingAnd [.mode, .dsp] : List Part) ∧ Part.aon ∈ (postingAnd [.mode, .dsp] : List Part))

theorem processorEvaluation : ∀ x0 x1 x2 x3 x4 x5 x6, Statement (.processorEvaluation x0 x1 x2 x3 x4 x5 x6) :=
  fun _ _ _ _ _ _ _ => (by decide : Part.herd ∈ (postingAnd [.mode, .start, .safety, .pair, .nor] : List Part) ∧ Part.aon ∈ (postingAnd [.mode, .start, .safety, .pair, .nor] : List Part))

theorem chamoisEvaluation : ∀ x0 x1 x2 x3 x4 x5 x6, Statement (.chamoisEvaluation x0 x1 x2 x3 x4 x5 x6) :=
  fun _ _ _ _ _ _ _ => (by decide : Part.herd ∈ (postingAnd [.mode, .start, .safety, .cham, .nor] : List Part) ∧ Part.aon ∈ (postingAnd [.mode, .start, .safety, .cham, .nor] : List Part))

theorem safetyStatusRx : ∀ x0 x1, Statement (.safetyStatusRx x0 x1) :=
  fun _ _ => (by decide : Part.herd ∈ ([.herd, .aon, .safety, .cham] : List Part) ∧ Part.aon ∈ ([.herd, .aon, .safety, .cham] : List Part))

theorem channelSilent : ∀ x0 x1, Statement (.channelSilent x0 x1) :=
  fun _ _ => (by decide : Part.herd ∈ (postingAnd [.mode, .start, .safety, .cham, .nor] : List Part) ∧ Part.aon ∈ (postingAnd [.mode, .start, .safety, .cham, .nor] : List Part))

theorem crossMismatch : ∀ x0 x1 x2, Statement (.crossMismatch x0 x1 x2) :=
  fun _ _ _ => (by decide : Part.herd ∈ (postingAnd [.mode, .start, .safety, .cham, .nor] : List Part) ∧ Part.aon ∈ (postingAnd [.mode, .start, .safety, .cham, .nor] : List Part))

theorem oscillatorMismatch : ∀ x0 x1, Statement (.oscillatorMismatch x0 x1) :=
  fun _ _ => (by decide : Part.herd ∈ (postingAnd [.mode, .start, .safety, .cham, .nor] : List Part) ∧ Part.aon ∈ (postingAnd [.mode, .start, .safety, .cham, .nor] : List Part))

theorem discrepancy : ∀ x0 x1 x2, Statement (.discrepancy x0 x1 x2) :=
  fun _ _ _ => (by decide : Part.herd ∈ (postingAnd [.mode, .start, .safety, .nor] : List Part) ∧ Part.aon ∈ (postingAnd [.mode, .start, .safety, .nor] : List Part))

theorem ss1Timeout : ∀ x0 x1 x2, Statement (.ss1Timeout x0 x1 x2) :=
  fun _ _ _ => (by decide : Part.herd ∈ (postingAnd [.safety] : List Part) ∧ Part.aon ∈ (postingAnd [.safety] : List Part))

theorem netInputStale : ∀ x0 x1 x2, Statement (.netInputStale x0 x1 x2) :=
  fun _ _ _ => (by decide : Part.herd ∈ ([.herd, .aon, .safety] : List Part) ∧ Part.aon ∈ ([.herd, .aon, .safety] : List Part))

theorem darkPulseTest : ∀ x0 x1 x2 x3, Statement (.darkPulseTest x0 x1 x2 x3) :=
  fun _ _ _ _ => (by decide : Part.herd ∈ (postingAnd [.mode, .start, .safety, .nor] : List Part) ∧ Part.aon ∈ (postingAnd [.mode, .start, .safety, .nor] : List Part))

theorem outputDiagnosis : ∀ x0 x1 x2 x3 x4, Statement (.outputDiagnosis x0 x1 x2 x3 x4) :=
  fun _ _ _ _ _ => (by decide : Part.herd ∈ (postingAnd [.mode, .start, .safety, .nor] : List Part) ∧ Part.aon ∈ (postingAnd [.mode, .start, .safety, .nor] : List Part))

theorem outputCurrentLimit : ∀ x0 x1, Statement (.outputCurrentLimit x0 x1) :=
  fun _ _ => (by decide : Part.herd ∈ ([.herd, .aon, .safety] : List Part) ∧ Part.aon ∈ ([.herd, .aon, .safety] : List Part))

theorem sresetEdge : ∀ x0, Statement (.sresetEdge x0) :=
  fun _ => (by decide : Part.herd ∈ ([.mode, .objs, .herd, .aon, .safety, .freeCount] : List Part) ∧ Part.aon ∈ ([.mode, .objs, .herd, .aon, .safety, .freeCount] : List Part))

theorem resetEdgeWindowExpiry : ∀ x0, Statement (.resetEdgeWindowExpiry x0) :=
  fun _ => (by decide : Part.herd ∈ ([.mode, .herd, .aon] : List Part) ∧ Part.aon ∈ ([.mode, .herd, .aon] : List Part))

theorem sw1Change : ∀ x0, Statement (.sw1Change x0) :=
  fun _ => (by decide : Part.herd ∈ (postingAnd [.safety] : List Part) ∧ Part.aon ∈ (postingAnd [.safety] : List Part))

theorem containedErrorRate : ∀ x0 x1 x2, Statement (.containedErrorRate x0 x1 x2) :=
  fun _ _ _ => (by decide : Part.herd ∈ (postingAnd [.mode, .start, .image, .plan, .solver, .piste, .sec, .nor] : List Part) ∧ Part.aon ∈ (postingAnd [.mode, .start, .image, .plan, .solver, .piste, .sec, .nor] : List Part))

theorem supervisorWatchdogExpiry : ∀ x0, Statement (.supervisorWatchdogExpiry x0) := by
  intro x0; exact ⟨by simp [Instr.acts, postingAnd, posting], by simp [Instr.acts, postingAnd, posting]⟩

theorem ddrUncorrectableError : ∀ x0 x1 x2 x3, Statement (.ddrUncorrectableError x0 x1 x2 x3) :=
  fun _ _ _ _ => (by decide : Part.herd ∈ (postingAnd [.mode, .start, .nor] : List Part) ∧ Part.aon ∈ (postingAnd [.mode, .start, .nor] : List Part))

theorem inputFilterStep : ∀ x0 x1, Statement (.inputFilterStep x0 x1) :=
  fun _ _ => (by decide : Part.herd ∈ ([.objs, .herd, .aon, .field, .acq, .freeCount] : List Part) ∧ Part.aon ∈ ([.objs, .herd, .aon, .field, .acq, .freeCount] : List Part))

theorem inputGroupFault : ∀ x0 x1 x2, Statement (.inputGroupFault x0 x1 x2) :=
  fun _ _ _ => (by decide : Part.herd ∈ (postingAnd [.mode, .field, .hw] : List Part) ∧ Part.aon ∈ (postingAnd [.mode, .field, .hw] : List Part))

theorem outputGroupFault : ∀ x0 x1 x2, Statement (.outputGroupFault x0 x1 x2) :=
  fun _ _ _ => (by decide : Part.herd ∈ (postingAnd [.mode, .field, .hw] : List Part) ∧ Part.aon ∈ (postingAnd [.mode, .field, .hw] : List Part))

theorem encoderEdge : ∀ x0 x1 x2 x3, Statement (.encoderEdge x0 x1 x2 x3) :=
  fun _ _ _ _ => (by decide : Part.herd ∈ ([.objs, .herd, .aon, .field] : List Part) ∧ Part.aon ∈ ([.objs, .herd, .aon, .field] : List Part))

theorem encoderIndex : ∀ x0 x1 x2, Statement (.encoderIndex x0 x1 x2) :=
  fun _ _ _ => (by decide : Part.herd ∈ ([.herd, .aon, .field] : List Part) ∧ Part.aon ∈ ([.herd, .aon, .field] : List Part))

theorem lineFault : ∀ x0 x1, Statement (.lineFault x0 x1) :=
  fun _ _ => (by decide : Part.herd ∈ (postingAnd [.mode, .field] : List Part) ∧ Part.aon ∈ (postingAnd [.mode, .field] : List Part))

theorem encoderStandstill : ∀ x0 x1, Statement (.encoderStandstill x0 x1) :=
  fun _ _ => (by decide : Part.herd ∈ ([.herd, .aon, .field] : List Part) ∧ Part.aon ∈ ([.herd, .aon, .field] : List Part))

theorem tickLatch : ∀ x0 x1, Statement (.tickLatch x0 x1) :=
  fun _ _ => (by decide : Part.herd ∈ ([.herd, .aon, .field] : List Part) ∧ Part.aon ∈ ([.herd, .aon, .field] : List Part))

theorem encoderTransactionStart : ∀ x0 x1, Statement (.encoderTransactionStart x0 x1) :=
  fun _ _ => (by decide : Part.herd ∈ ([.herd, .aon, .field] : List Part) ∧ Part.aon ∈ ([.herd, .aon, .field] : List Part))

theorem encoderWordReceived : ∀ x0 x1 x2, Statement (.encoderWordReceived x0 x1 x2) :=
  fun _ _ _ => (by decide : Part.herd ∈ ([.objs, .herd, .aon, .field, .freeCount] : List Part) ∧ Part.aon ∈ ([.objs, .herd, .aon, .field, .freeCount] : List Part))

theorem encoderTimeout : ∀ x0 x1, Statement (.encoderTimeout x0 x1) :=
  fun _ _ => (by decide : Part.herd ∈ ([.objs, .herd, .aon, .field] : List Part) ∧ Part.aon ∈ ([.objs, .herd, .aon, .field] : List Part))

theorem emulatedEdge : ∀ x0 x1, Statement (.emulatedEdge x0 x1) :=
  fun _ _ => (by decide : Part.herd ∈ ([.herd, .aon, .field] : List Part) ∧ Part.aon ∈ ([.herd, .aon, .field] : List Part))

theorem conveyorStale : ∀ x0 x1, Statement (.conveyorStale x0 x1) :=
  fun _ _ => (by decide : Part.herd ∈ ([.herd, .aon, .prof] : List Part) ∧ Part.aon ∈ ([.herd, .aon, .prof] : List Part))

theorem jogTimeout : ∀ x0 x1, Statement (.jogTimeout x0 x1) :=
  fun _ _ => (by decide : Part.herd ∈ ([.herd, .aon, .prof] : List Part) ∧ Part.aon ∈ ([.herd, .aon, .prof] : List Part))

theorem currentSample : ∀ x0 x1 x2 x3, Statement (.currentSample x0 x1 x2 x3) :=
  fun _ _ _ _ => (by decide : Part.herd ∈ ([.herd, .aon, .field] : List Part) ∧ Part.aon ∈ ([.herd, .aon, .field] : List Part))

theorem referenceInstant : ∀ x0 x1, Statement (.referenceInstant x0 x1) :=
  fun _ _ => (by decide : Part.herd ∈ ([.herd, .aon, .field] : List Part) ∧ Part.aon ∈ ([.herd, .aon, .field] : List Part))

theorem auxFeedbackPost : ∀ x0 x1, Statement (.auxFeedbackPost x0 x1) :=
  fun _ _ => (by decide : Part.herd ∈ ([.herd, .aon, .ctl, .sched, .field] : List Part) ∧ Part.aon ∈ ([.herd, .aon, .ctl, .sched, .field] : List Part))

theorem chopperFallback : ∀ x0 x1, Statement (.chopperFallback x0 x1) :=
  fun _ _ => (by decide : Part.herd ∈ ([.objs, .herd, .aon, .field, .freeCount] : List Part) ∧ Part.aon ∈ ([.objs, .herd, .aon, .field, .freeCount] : List Part))

theorem stall : ∀ x0 x1, Statement (.stall x0 x1) :=
  fun _ _ => (by decide : Part.herd ∈ (postingAnd [.mode, .start, .piste, .ctl, .field, .nor] : List Part) ∧ Part.aon ∈ (postingAnd [.mode, .start, .piste, .ctl, .field, .nor] : List Part))

theorem ptpSyncRx : ∀ x0 x1, Statement (.ptpSyncRx x0 x1) :=
  fun _ _ => (by decide : Part.herd ∈ (posting : List Part) ∧ Part.aon ∈ (posting : List Part))

theorem ptpMessageRx : ∀ x0 x1, Statement (.ptpMessageRx x0 x1) :=
  fun _ _ => (by decide : Part.herd ∈ ([.herd, .aon] : List Part) ∧ Part.aon ∈ ([.herd, .aon] : List Part))

theorem sourceLocked : ∀ x0 x1, Statement (.sourceLocked x0 x1) :=
  fun _ _ => (by decide : Part.herd ∈ (posting : List Part) ∧ Part.aon ∈ (posting : List Part))

theorem syncTimeout : ∀ x0 x1, Statement (.syncTimeout x0 x1) :=
  fun _ _ => (by decide : Part.herd ∈ (posting : List Part) ∧ Part.aon ∈ (posting : List Part))

theorem announceReceiptTimeout : ∀ x0 x1, Statement (.announceReceiptTimeout x0 x1) :=
  fun _ _ => (by decide : Part.herd ∈ (posting : List Part) ∧ Part.aon ∈ (posting : List Part))

theorem revertTimer : ∀ x0, Statement (.revertTimer x0) :=
  fun _ => (by decide : Part.herd ∈ ([.herd, .aon] : List Part) ∧ Part.aon ∈ ([.herd, .aon] : List Part))

theorem slewEnd : ∀ x0, Statement (.slewEnd x0) :=
  fun _ => (by decide : Part.herd ∈ ([.herd, .aon] : List Part) ∧ Part.aon ∈ ([.herd, .aon] : List Part))

theorem ppsInEdge : ∀ x0 x1, Statement (.ppsInEdge x0 x1) :=
  fun _ _ => (by decide : Part.herd ∈ (posting : List Part) ∧ Part.aon ∈ (posting : List Part))

theorem ppsTimeout : ∀ x0, Statement (.ppsTimeout x0) :=
  fun _ => (by decide : Part.herd ∈ (posting : List Part) ∧ Part.aon ∈ (posting : List Part))

theorem ppsOutEdge : ∀ x0, Statement (.ppsOutEdge x0) :=
  fun _ => (by decide : Part.herd ∈ ([.herd, .aon] : List Part) ∧ Part.aon ∈ ([.herd, .aon] : List Part))

theorem pairTimeExchange : ∀ x0 x1 x2 x3 x4, Statement (.pairTimeExchange x0 x1 x2 x3 x4) :=
  fun _ _ _ _ _ => (by decide : Part.herd ∈ ([.objs, .herd, .aon] : List Part) ∧ Part.aon ∈ ([.objs, .herd, .aon] : List Part))

theorem aonStore : ∀ x0, Statement (.aonStore x0) :=
  fun _ => (by decide : Part.herd ∈ ([.herd, .aon] : List Part) ∧ Part.aon ∈ ([.herd, .aon] : List Part))

theorem powerOn : ∀ x0 x1 x2, Statement (.powerOn x0 x1 x2) := by
  intro x0 x1 x2; exact ⟨by simp [Instr.acts, postingAnd, posting], by simp [Instr.acts, postingAnd, posting]⟩

theorem brownOut : ∀ x0 x1, Statement (.brownOut x0 x1) := by
  intro x0 x1; exact ⟨by simp [Instr.acts, postingAnd, posting], by simp [Instr.acts, postingAnd, posting]⟩

theorem lowInput : ∀ x0 x1, Statement (.lowInput x0 x1) :=
  fun _ _ => (by decide : Part.herd ∈ (postingAnd [.mode, .hw] : List Part) ∧ Part.aon ∈ (postingAnd [.mode, .hw] : List Part))

theorem highInput : ∀ x0 x1, Statement (.highInput x0 x1) :=
  fun _ _ => (by decide : Part.herd ∈ (postingAnd [.mode, .start, .hw, .nor] : List Part) ∧ Part.aon ∈ (postingAnd [.mode, .start, .hw, .nor] : List Part))

theorem modResetN : ∀ x0, Statement (.modResetN x0) := by
  intro x0; exact ⟨by simp [Instr.acts, postingAnd, posting], by simp [Instr.acts, postingAnd, posting]⟩

theorem commandResetBegin : ∀ x0, Statement (.commandResetBegin x0) := by
  intro x0; exact ⟨by simp [Instr.acts, postingAnd, posting], by simp [Instr.acts, postingAnd, posting]⟩

theorem perstN : ∀ x0 x1, Statement (.perstN x0 x1) :=
  fun _ _ => (by decide : Part.herd ∈ (postingAnd [.image, .plan, .piste, .sec, .hw] : List Part) ∧ Part.aon ∈ (postingAnd [.image, .plan, .piste, .sec, .hw] : List Part))

theorem pcieLinkDown : ∀ x0 x1, Statement (.pcieLinkDown x0 x1) :=
  fun _ _ => (by decide : Part.herd ∈ (postingAnd [.image, .plan, .piste, .sec] : List Part) ∧ Part.aon ∈ (postingAnd [.image, .plan, .piste, .sec] : List Part))

theorem dieTemperature : ∀ x0 x1, Statement (.dieTemperature x0 x1) :=
  fun _ _ => (by decide : Part.herd ∈ (postingAnd [.mode, .start, .hw, .nor] : List Part) ∧ Part.aon ∈ (postingAnd [.mode, .start, .hw, .nor] : List Part))

theorem crystalStable : ∀ x0, Statement (.crystalStable x0) :=
  fun _ => (by decide : Part.herd ∈ ([.herd, .aon, .clocks] : List Part) ∧ Part.aon ∈ ([.herd, .aon, .clocks] : List Part))

theorem clockMonitorWindow : ∀ x0 x1 x2, Statement (.clockMonitorWindow x0 x1 x2) :=
  fun _ _ _ => (by decide : Part.herd ∈ (postingAnd [.mode, .start, .image, .plan, .piste, .clocks, .sec, .nor] : List Part) ∧ Part.aon ∈ (postingAnd [.mode, .start, .image, .plan, .piste, .clocks, .sec, .nor] : List Part))

theorem clockLoss : ∀ x0 x1, Statement (.clockLoss x0 x1) :=
  fun _ _ => (by decide : Part.herd ∈ (postingAnd [.mode, .start, .image, .plan, .piste, .clocks, .sec, .nor] : List Part) ∧ Part.aon ∈ (postingAnd [.mode, .start, .image, .plan, .piste, .clocks, .sec, .nor] : List Part))

theorem pllUnlock : ∀ x0 x1, Statement (.pllUnlock x0 x1) :=
  fun _ _ => (by decide : Part.herd ∈ (postingAnd [.mode, .start, .clocks, .nor] : List Part) ∧ Part.aon ∈ (postingAnd [.mode, .start, .clocks, .nor] : List Part))

theorem clockSourceRecovered : ∀ x0 x1, Statement (.clockSourceRecovered x0 x1) :=
  fun _ _ => (by decide : Part.herd ∈ ([.herd, .aon, .clocks] : List Part) ∧ Part.aon ∈ ([.herd, .aon, .clocks] : List Part))

theorem rcTrim : ∀ x0 x1, Statement (.rcTrim x0 x1) :=
  fun _ _ => (by decide : Part.herd ∈ ([.herd, .aon, .clocks] : List Part) ∧ Part.aon ∈ ([.herd, .aon, .clocks] : List Part))

theorem muxSwitch : ∀ x0, Statement (.muxSwitch x0) :=
  fun _ => (by decide : Part.herd ∈ ([.herd, .aon, .clocks] : List Part) ∧ Part.aon ∈ ([.herd, .aon, .clocks] : List Part))

theorem forcedSwitch : ∀ x0, Statement (.forcedSwitch x0) :=
  fun _ => (by decide : Part.herd ∈ ([.zewen, .reg, .objs, .herd, .aon, .clocks, .freeCount] : List Part) ∧ Part.aon ∈ ([.zewen, .reg, .objs, .herd, .aon, .clocks, .freeCount] : List Part))

theorem pllRelock : ∀ x0 x1, Statement (.pllRelock x0 x1) :=
  fun _ _ => (by decide : Part.herd ∈ ([.herd, .aon, .clocks] : List Part) ∧ Part.aon ∈ ([.herd, .aon, .clocks] : List Part))

theorem domainPowerGood : ∀ x0 x1, Statement (.domainPowerGood x0 x1) :=
  fun _ _ => (by decide : Part.herd ∈ ([.objs, .herd, .aon, .power, .hw] : List Part) ∧ Part.aon ∈ ([.objs, .herd, .aon, .power, .hw] : List Part))

theorem domainPowerGoodTimeout : ∀ x0 x1, Statement (.domainPowerGoodTimeout x0 x1) := by
  intro x0 x1; exact ⟨by simp [Instr.acts, postingAnd, posting], by simp [Instr.acts, postingAnd, posting]⟩

theorem drainTimeout : ∀ x0 x1, Statement (.drainTimeout x0 x1) :=
  fun _ _ => (by decide : Part.herd ∈ ([.objs, .herd, .aon, .freeCount] : List Part) ∧ Part.aon ∈ ([.objs, .herd, .aon, .freeCount] : List Part))

theorem domainOff : ∀ x0 x1, Statement (.domainOff x0 x1) :=
  fun _ _ => (by decide : Part.herd ∈ (postingAnd [.solver, .prof, .ctl, .sched, .dsp, .sep, .field, .power] : List Part) ∧ Part.aon ∈ (postingAnd [.solver, .prof, .ctl, .sched, .dsp, .sep, .field, .power] : List Part))

theorem startAttempt : ∀ x0 x1, Statement (.startAttempt x0 x1) := by
  intro x0 x1; exact ⟨by simp [Instr.acts, postingAnd, posting], by simp [Instr.acts, postingAnd, posting]⟩

theorem startStepTimeout : ∀ x0, Statement (.startStepTimeout x0) := by
  intro x0; exact ⟨by simp [Instr.acts, postingAnd, posting], by simp [Instr.acts, postingAnd, posting]⟩

theorem configCheckDone : ∀ x0, Statement (.configCheckDone x0) := by
  intro x0; exact ⟨by simp [Instr.acts, postingAnd, posting], by simp [Instr.acts, postingAnd, posting]⟩

theorem nonceExpiry : ∀ x0 x1, Statement (.nonceExpiry x0 x1) :=
  fun _ _ => (by decide : Part.herd ∈ ([.zewen, .herd, .aon] : List Part) ∧ Part.aon ∈ ([.zewen, .herd, .aon] : List Part))

theorem lockoutEnd : ∀ x0 x1, Statement (.lockoutEnd x0 x1) :=
  fun _ _ => (by decide : Part.herd ∈ ([.zewen, .herd, .aon] : List Part) ∧ Part.aon ∈ ([.zewen, .herd, .aon] : List Part))

theorem udpIdleTimeout : ∀ x0 x1, Statement (.udpIdleTimeout x0 x1) :=
  fun _ _ => (by decide : Part.herd ∈ (postingAnd [.image, .plan, .piste, .sec] : List Part) ∧ Part.aon ∈ (postingAnd [.image, .plan, .piste, .sec] : List Part))

theorem sessionDrained : ∀ x0 x1, Statement (.sessionDrained x0 x1) :=
  fun _ _ => (by decide : Part.herd ∈ (posting : List Part) ∧ Part.aon ∈ (posting : List Part))

theorem acqSample : ∀ x0 x1, Statement (.acqSample x0 x1) :=
  fun _ _ => (by decide : Part.herd ∈ (postingAnd [.net] : List Part) ∧ Part.aon ∈ (postingAnd [.net] : List Part))

theorem indexTreeReady : ∀ x0, Statement (.indexTreeReady x0) :=
  fun _ => (by decide : Part.herd ∈ ([.herd, .aon, .sec] : List Part) ∧ Part.aon ∈ ([.herd, .aon, .sec] : List Part))

theorem tokenRenewal : ∀ x0, Statement (.tokenRenewal x0) :=
  fun _ => (by decide : Part.herd ∈ ([.objs, .herd, .aon, .net, .pair, .freeCount] : List Part) ∧ Part.aon ∈ ([.objs, .herd, .aon, .net, .pair, .freeCount] : List Part))

theorem tokenMessageRx : ∀ x0 x1, Statement (.tokenMessageRx x0 x1) :=
  fun _ _ => (by decide : Part.herd ∈ ([.herd, .aon, .pair] : List Part) ∧ Part.aon ∈ ([.herd, .aon, .pair] : List Part))

theorem tokenLeaseExpiry : ∀ x0, Statement (.tokenLeaseExpiry x0) :=
  fun _ => (by decide : Part.herd ∈ (postingAnd [.pair] : List Part) ∧ Part.aon ∈ (postingAnd [.pair] : List Part))

theorem takeover : ∀ x0, Statement (.takeover x0) :=
  fun _ => (by decide : Part.herd ∈ (postingAnd [.mode, .net, .plan, .solver, .piste, .prof, .field, .pair] : List Part) ∧ Part.aon ∈ (postingAnd [.mode, .net, .plan, .solver, .piste, .prof, .field, .pair] : List Part))

theorem mirrorSetRx : ∀ x0 x1, Statement (.mirrorSetRx x0 x1) :=
  fun _ _ => (by decide : Part.herd ∈ (postingAnd [.mode, .image, .plan, .pair] : List Part) ∧ Part.aon ∈ (postingAnd [.mode, .image, .plan, .pair] : List Part))

theorem mirrorAgeLimit : ∀ x0, Statement (.mirrorAgeLimit x0) :=
  fun _ => (by decide : Part.herd ∈ (postingAnd [.pair] : List Part) ∧ Part.aon ∈ (postingAnd [.pair] : List Part))

theorem planAckRx : ∀ x0 x1, Statement (.planAckRx x0 x1) :=
  fun _ _ => (by decide : Part.herd ∈ ([.objs, .herd, .aon, .pair] : List Part) ∧ Part.aon ∈ ([.objs, .herd, .aon, .pair] : List Part))

theorem pairSafetyStatusRx : ∀ x0 x1 x2 x3, Statement (.pairSafetyStatusRx x0 x1 x2 x3) :=
  fun _ _ _ _ => (by decide : Part.herd ∈ (postingAnd [.pair] : List Part) ∧ Part.aon ∈ (postingAnd [.pair] : List Part))

theorem peerSilent : ∀ x0, Statement (.peerSilent x0) :=
  fun _ => (by decide : Part.herd ∈ (postingAnd [.pair] : List Part) ∧ Part.aon ∈ (postingAnd [.pair] : List Part))

theorem pairRevertTimer : ∀ x0, Statement (.pairRevertTimer x0) :=
  fun _ => (by decide : Part.herd ∈ ([.herd, .aon] : List Part) ∧ Part.aon ∈ ([.herd, .aon] : List Part))

theorem handoverRequestRx : ∀ x0 x1 x2, Statement (.handoverRequestRx x0 x1 x2) :=
  fun _ _ _ => (by decide : Part.herd ∈ ([.objs, .herd, .aon, .pair] : List Part) ∧ Part.aon ∈ ([.objs, .herd, .aon, .pair] : List Part))

theorem handoverAckTimeout : ∀ x0, Statement (.handoverAckTimeout x0) :=
  fun _ => (by decide : Part.herd ∈ ([.herd, .aon, .pair] : List Part) ∧ Part.aon ∈ ([.herd, .aon, .pair] : List Part))

theorem handoverAt : ∀ x0, Statement (.handoverAt x0) :=
  fun _ => (by decide : Part.herd ∈ (postingAnd [.mode, .net, .plan, .solver, .piste, .prof, .field, .pair] : List Part) ∧ Part.aon ∈ (postingAnd [.mode, .net, .plan, .solver, .piste, .prof, .field, .pair] : List Part))

theorem errorDetected : ∀ x0 x1 x2 x3 x4, Statement (.errorDetected x0 x1 x2 x3 x4) :=
  fun _ _ _ _ _ => (by decide : Part.herd ∈ (postingAnd [.mode, .start, .image, .plan, .solver, .piste, .sec, .hw, .nor] : List Part) ∧ Part.aon ∈ (postingAnd [.mode, .start, .image, .plan, .solver, .piste, .sec, .hw, .nor] : List Part))

theorem ptpTransmitInterval : ∀ x0 x1 x2, Statement (.ptpTransmitInterval x0 x1 x2) :=
  fun _ _ _ => (by decide : Part.herd ∈ ([.zewen, .reg, .herd, .aon] : List Part) ∧ Part.aon ∈ ([.zewen, .reg, .herd, .aon] : List Part))

theorem linkSynchronised : ∀ x0 x1, Statement (.linkSynchronised x0 x1) :=
  fun _ _ => (by decide : Part.herd ∈ ([.herd, .aon, .net, .pair] : List Part) ∧ Part.aon ∈ ([.herd, .aon, .net, .pair] : List Part))

theorem groupFaultCleared : ∀ x0 x1 x2 x3, Statement (.groupFaultCleared x0 x1 x2 x3) :=
  fun _ _ _ _ => (by decide : Part.herd ∈ ([.herd, .aon, .field, .hw] : List Part) ∧ Part.aon ∈ ([.herd, .aon, .field, .hw] : List Part))

theorem vinBackInRange : ∀ x0 x1 x2, Statement (.vinBackInRange x0 x1 x2) :=
  fun _ _ _ => (by decide : Part.herd ∈ ([.herd, .aon, .hw] : List Part) ∧ Part.aon ∈ ([.herd, .aon, .hw] : List Part))

theorem encoderLineRestored : ∀ x0 x1 x2 x3 x4, Statement (.encoderLineRestored x0 x1 x2 x3 x4) :=
  fun _ _ _ _ _ => (by decide : Part.herd ∈ ([.herd, .aon, .field] : List Part) ∧ Part.aon ∈ ([.herd, .aon, .field] : List Part))

theorem phaseAccumulatorCarry : ∀ x0 x1, Statement (.phaseAccumulatorCarry x0 x1) :=
  fun _ _ => (by decide : Part.herd ∈ ([.herd, .aon, .prof, .field] : List Part) ∧ Part.aon ∈ ([.herd, .aon, .prof, .field] : List Part))

theorem vectorSpacingEnd : ∀ x0 x1, Statement (.vectorSpacingEnd x0 x1) :=
  fun _ _ => (by decide : Part.herd ∈ ([.zewen, .herd, .aon] : List Part) ∧ Part.aon ∈ ([.zewen, .herd, .aon] : List Part))

theorem domainFrequencyMeasurement : ∀ x0 x1, Statement (.domainFrequencyMeasurement x0 x1) :=
  fun _ _ => (by decide : Part.herd ∈ ([.herd, .aon, .clocks] : List Part) ∧ Part.aon ∈ ([.herd, .aon, .clocks] : List Part))

end Sys2Proof.Laws.TimeGoesOn
end

