-- ==== Sys2Proof/Tests/Slice0.lean ====
section
/-! SUPPORT. For every statement that has hypotheses, a concrete state and operands that meet them, clause by clause; and the tests. -/

set_option Elab.async false

namespace Sys2Proof.Tests
open Sys2Proof Sys2Proof.Machine

/-! ### Small states and entries -/

/-- A module that has started, in a mode, with some objects set. -/
def up (m : Mode) (objs : List (Nat × Nat) := []) : State :=
  { State.reset with
    objs := objs.foldl (fun o kv => oput o kv.1 kv.2) []
    mode := { State.reset.mode with mode := m }, start := { State.reset.start with done := true }
    power := { State.reset.power with on := 0xFFFF }, hw := { State.reset.hw with hostReady := true }
    zewen := { State.reset.zewen with linkUp := true }, herd := { State.reset.herd with running := true } }

/-- Mailbox 0 as given. -/
def box (b : Mailbox) (s : State) : State := { s with zewen := { s.zewen with mbx := b :: List.replicate 7 {} } }

/-- One entry waits in mailbox 0, whose session is in a state. -/
def sent (st : SessionState) (s : State) : State := box { cmdTail := 1, state := st } s

/-- An entry of mailbox 0 with inline arguments. -/
def cmd (opcode : Nat) (args : Bytes := []) : Entry :=
  { mbx := 0, txid := 0, opcode := opcode, argLen := args.length, args := args }

/-- The same with BULK_OUT and room for n bytes. -/
def cmdOut (opcode n : Nat) (args : Bytes := []) : Entry := { cmd opcode args with flags := 2, bulkLen := n }

/-- The same with BULK_IN data. -/
def cmdIn (opcode : Nat) (args bulk : Bytes) : Entry := { cmd opcode args with flags := 1, bulk := bulk, bulkLen := bulk.length }

/-- The origin of such an entry. -/
def from_ (opcode : Nat) : Origin := { mbx := 0, txid := 0, opcode := opcode }

/-- The state an outcome answers. -/
def after (o : Host.Outcome State Fault Refusal) : State :=
  match o with
  | .next t => t
  | _ => State.reset

/-- A module with an active image, whose clock stands 60 µs into the tick numbered `t`. -/
def live (m : Mode) (objs : List (Nat × Nat) := []) (t : Nat := 16) : State :=
  let s := up m objs
  { s with image := { s.image with activation := 1000000 }, herd := { s.herd with tick := t, ht := 62500 * t + 60000 } }

/-- A write record of an object as bytes, with its type. -/
def wr (k : Nat) (v : Bytes) : Bytes := (objRow k).elim [] (fun r => recordForm k r.ty v)

/-- The same as a record. -/
def wrec (k : Nat) (v : Bytes) : WriteRecord := { key := k, type := (objRow k).elim 0 (·.ty), value := v }

theorem admitted_of {s : State} {opcode : Nat} {e0 : Entry} {via : Transport} {e : Entry}
    (h : takenEntry opcode s e0 = some (via, e) ∧ turnOf s e.mbx = true ∧ entryFault s via e = none ∧ e.mbx < s.zewen.mbx.length ∧
      lengthsFit e = true ∧ s.mode.resetFinal = false) : Admitted s opcode e0 via e :=
  ⟨h.1, h.2.1, h.2.2.1, h.2.2.2.1, h.2.2.2.2.1, h.2.2.2.2.2⟩

theorem all_some {α : Type} {o : Option α} {P : α → Prop} (h : ∀ a ∈ o, P a) : ∀ a, o = some a → P a := h

theorem ok_of {ε α : Type} {x : Except ε α} {a : α} (h : x.toOption = some a) : x = .ok a := by
  cases x <;> simp_all [Except.toOption]

theorem error_of {ε α : Type} {x : Except ε α} {a : ε} (h : (match x with | .error b => some b | .ok _ => none) = some a) :
    x = .error a := by
  cases x <;> simp_all

/-- The state a verdict on a frame leaves. -/
def vState (v : Verdict) : State :=
  match v with
  | .accept s _ _ => s
  | .discard s => s

theorem accept_of {v : Verdict} {k : Nat} {start : Int}
    (h : (match v with | .accept _ a b => some (a, b) | .discard _ => none) = some (k, start)) : v = .accept (vState v) k start := by
  cases v <;> simp_all [vState]

theorem nth_nils (a : Nat) : nth [] (List.replicate 8 ([] : List LeaseNeed)) a = [] := by
  unfold nth; rcases Nat.lt_or_ge a 8 with h | h
  · interval_cases a <;> rfl
  · simp [h]

theorem nth_idle (a : Nat) : (nth ({} : ArmPlan) (List.replicate 8 {}) a).pending = [] := by
  unfold nth; rcases Nat.lt_or_ge a 8 with h | h
  · interval_cases a <;> rfl
  · simp [h]

theorem unpack_nan (p : Nat) (h : p < 2 ^ 51) : unpack fmt64 (0x7FF8000000000000 + p) = .nan := by
  have h1 : (0x7FF8000000000000 + p) / 2 ^ fmt64.mb % 2 ^ fmt64.eb = 2 ^ fmt64.eb - 1 := by simp only [fmt64]; omega
  have h2 : (0x7FF8000000000000 + p) % 2 ^ fmt64.mb ≠ 0 := by simp only [fmt64]; omega
  unfold unpack
  exact (if_pos h1).trans (if_neg h2)

theorem nan_of_invalid : dIsNan dNan = true := by
  have h : Config.nanPayload64 0 % 2 ^ 51 < 2 ^ 51 := Nat.mod_lt _ (by decide)
  have e : dVal dNan = .nan := by
    have := unpack_nan _ h
    simp only [dVal, dNan, dPack, pack, packNan, fmt64, BitVec.toNat_ofNat] at *
    rw [Nat.mod_eq_of_lt (by norm_num; omega)]
    simpa using this
  simp [dIsNan, e]

theorem bad_of_nan : badColumn [{ col := 0, pivot := dNan, rows := [] }] = some 0 := by
  simp [badColumn, nan_of_invalid, List.findIdx?_cons]

/-! ### Well-formedness refuses -/


/-! ### Ill-formed commands are refused, one for each check -/

theorem test_wf_parts : Entry.wf { cmd 1 with mbx := 8 } = false ∧
    Entry.wf { cmd 1 with opcode := 65536 } = false ∧
    Entry.wf { cmd 1 with argLen := 65536 } = false ∧
    Entry.wf { cmd 1 with bulkOffset := 2 ^ 32 } = false ∧
    Entry.wf { cmd 1 with bulkLen := 2 ^ 32 } = false ∧
    Entry.wf { cmd 1 with args := zeros 225 } = false ∧
    Entry.wf { cmd 1 with bulk := zeros 65537 } = false ∧
    RxFrame.wf { ({ port := 0, capture := 0, header := zeros 12, payload := [] } : RxFrame) with port := 5 } = false ∧
    RxFrame.wf { ({ port := 0, capture := 0, header := zeros 12, payload := [] } : RxFrame) with etherType := 65536 } = false ∧
    RxFrame.wf { ({ port := 0, capture := 0, header := zeros 12, payload := [] } : RxFrame) with header := zeros 11 } = false ∧
    RxFrame.wf { ({ port := 0, capture := 0, header := zeros 12, payload := [] } : RxFrame) with payload := zeros 1489 } = false ∧
    RxFrame.wf { ({ port := 0, capture := 0, header := zeros 12, payload := [] } : RxFrame) with vlan := some 65536 } = false ∧
    PtpMessage.wf { ({ messageType := 0, port := 0, transport := 0, domainNumber := 0, source := 0, capture := 0 } : PtpMessage) with messageType := 16 } = false ∧
    PtpMessage.wf { ({ messageType := 0, port := 0, transport := 0, domainNumber := 0, source := 0, capture := 0 } : PtpMessage) with port := 2 } = false ∧
    PtpMessage.wf { ({ messageType := 0, port := 0, transport := 0, domainNumber := 0, source := 0, capture := 0 } : PtpMessage) with transport := 2 } = false ∧
    PtpMessage.wf { ({ messageType := 0, port := 0, transport := 0, domainNumber := 0, source := 0, capture := 0 } : PtpMessage) with domainNumber := 256 } = false ∧
    PtpMessage.wf { ({ messageType := 0, port := 0, transport := 0, domainNumber := 0, source := 0, capture := 0 } : PtpMessage) with sequenceId := 65536 } = false := by
  and_intros <;> decide +kernel

theorem test_wf_00 : ([.nop 0 { cmd 0x0001 with mbx := 8 },
    .openSession 0 { cmd 0x0001 with mbx := 8 },
    .closeSession 0 { cmd 0x0001 with mbx := 8 },
    .newEpoch 0 { cmd 0x0001 with mbx := 8 },
    .challenge 0 { cmd 0x0001 with mbx := 8 },
    .unlock 0 { cmd 0x0001 with mbx := 8 },
    .cancel 0 { cmd 0x0001 with mbx := 8 },
    .getStatus 0 { cmd 0x0001 with mbx := 8 },
    .reset 0 { cmd 0x0001 with mbx := 8 },
    .setMode 0 { cmd 0x0001 with mbx := 8 },
    .objRead 0 { cmd 0x0001 with mbx := 8 },
    .objWrite 0 { cmd 0x0001 with mbx := 8 },
    .imageBegin 0 { cmd 0x0001 with mbx := 8 },
    .imageData 0 { cmd 0x0001 with mbx := 8 },
    .imageCommit 0 { cmd 0x0001 with mbx := 8 },
    .imageAbort 0 { cmd 0x0001 with mbx := 8 }] : List Instr).all (fun i => !i.wf) = true := by decide +kernel

theorem test_wf_01 : ([.moveJoint 0 { cmd 0x0001 with mbx := 8 },
    .moveLinear 0 { cmd 0x0001 with mbx := 8 },
    .moveConveyor 0 { cmd 0x0001 with mbx := 8 },
    .stopMove 0 { cmd 0x0001 with mbx := 8 },
    .jog 0 { cmd 0x0001 with mbx := 8 },
    .teach 0 { cmd 0x0001 with mbx := 8 },
    .pathRequest 0 { cmd 0x0001 with mbx := 8 },
    .zoneRequest 0 { cmd 0x0001 with mbx := 8 },
    .zoneExtend 0 { cmd 0x0001 with mbx := 8 },
    .zoneRelease 0 { cmd 0x0001 with mbx := 8 },
    .acqArm 0 { cmd 0x0001 with mbx := 8 },
    .acqRead 0 { cmd 0x0001 with mbx := 8 },
    .logRead 0 { cmd 0x0001 with mbx := 8 },
    .attest 0 { cmd 0x0001 with mbx := 8 } false,
    .keyEnrol 0 { cmd 0x0001 with mbx := 8 },
    .loaderInfo 0 { cmd 0x0001 with mbx := 8 }] : List Instr).all (fun i => !i.wf) = true := by decide +kernel

theorem test_wf_02 : ([.loaderReadRecord 0 { cmd 0x0001 with mbx := 8 },
    .loaderWriteSlot 0 { cmd 0x0001 with mbx := 8 },
    .loaderRestart 0 { cmd 0x0001 with mbx := 8 },
    .unknownOpcode 0 { cmd 0x0001 with mbx := 8 },
    .udpDatagramRx 0 2 0 0 false [],
    .udpDatagramRx 0 0 4294967296 0 false [],
    .udpDatagramRx 0 0 0 65536 false [],
    .udpDatagramRx 0 0 0 0 false (List.replicate 1313 (0 : Byte)),
    .cmdTailWrite 0 8 0,
    .cmdTailWrite 0 0 65536,
    .cplHeadWrite 0 8 0,
    .cplHeadWrite 0 0 65536,
    .txtsPop 0 false 4294967296,
    .clearFirst 0 false 4294967296,
    .viewClear 0 false 4294967296,
    .intStatusClear 0 false 4294967296] : List Instr).all (fun i => !i.wf) = true := by decide +kernel

theorem test_wf_03 : ([.intMaskWrite 0 false 4294967296,
    .solverDoneClear 0 false 4294967296,
    .registerWrite 0 false 65536 0 0,
    .registerWrite 0 false 0 16 0,
    .registerWrite 0 false 0 0 4294967296,
    .solverAnalysisDone 0 8,
    .solverRunEnd 0 8,
    .solverSramUncorrectable 0 65536,
    .leaseExpiry 0 4294967296,
    .jointStale 0 false 8,
    .sensorWorst 0 16,
    .ss2Release 0 8,
    .downstreamCommitPoint 0 false 4096,
    .processFrameRx 0 { port := 5, capture := 0, header := zeros 12, payload := [] },
    .safetyFrameRx 0 { port := 5, capture := 0, header := zeros 12, payload := [] },
    .messageRx 0 { port := 5, capture := 0, header := zeros 12, payload := [] }] : List Instr).all (fun i => !i.wf) = true := by decide +kernel

theorem test_wf_04 : ([.delayRespRx 0 { port := 5, capture := 0, header := zeros 12, payload := [] },
    .startupRx 0 { port := 5, capture := 0, header := zeros 12, payload := [] },
    .slotWindowClose 0 256,
    .ringRestoreAt 0 2,
    .nodeIntegrated 0 256,
    .nodeLost 0 256,
    .driftWarn 0 256,
    .safetySingle 0 256,
    .linkSyncLoss 0 5,
    .taskDispatch 0 16,
    .loopExecution 0 16,
    .axisFault 0 256,
    .kernelRun 0 4 0,
    .kernelWindowClose 0 4,
    .processorEvaluation 0 65536 0 false 0 0 [],
    .processorEvaluation 0 0 65536 false 0 0 []] : List Instr).all (fun i => !i.wf) = true := by decide +kernel

theorem test_wf_05 : ([.processorEvaluation 0 0 0 false 256 0 [],
    .processorEvaluation 0 0 0 false 0 256 [],
    .processorEvaluation 0 0 0 false 0 0 (List.replicate 9 0),
    .chamoisEvaluation 0 65536 0 false 0 0 [],
    .chamoisEvaluation 0 0 65536 false 0 0 [],
    .chamoisEvaluation 0 0 0 false 256 0 [],
    .chamoisEvaluation 0 0 0 false 0 256 [],
    .chamoisEvaluation 0 0 0 false 0 0 (List.replicate 9 0),
    .crossMismatch 0 false 256,
    .discrepancy 0 false 16,
    .ss1Timeout 0 false 8,
    .netInputStale 0 false 64,
    .darkPulseTest 0 false 8 false,
    .outputDiagnosis 0 false 8 0 false,
    .outputDiagnosis 0 false 0 4 false,
    .outputCurrentLimit 0 8] : List Instr).all (fun i => !i.wf) = true := by decide +kernel

theorem test_wf_06 : ([.containedErrorRate 0 8 0,
    .containedErrorRate 0 0 32,
    .ddrUncorrectableError 0 7 0 0,
    .inputFilterStep 0 4294967296,
    .inputGroupFault 0 4 0,
    .inputGroupFault 0 0 16384,
    .outputGroupFault 0 2 0,
    .outputGroupFault 0 0 16384,
    .encoderEdge 0 8 false false,
    .encoderIndex 0 8 false,
    .lineFault 0 8,
    .encoderStandstill 0 8,
    .tickLatch 0 8,
    .encoderTransactionStart 0 8,
    .encoderWordReceived 0 8 {},
    .encoderWordReceived 0 0 { bits := List.replicate 65 false }] : List Instr).all (fun i => !i.wf) = true := by decide +kernel

theorem test_wf_07 : ([.encoderWordReceived 0 0 { bytes := List.replicate 11 0 },
    .encoderTimeout 0 8,
    .emulatedEdge 0 8,
    .conveyorStale 0 8,
    .jogTimeout 0 80,
    .currentSample 0 8 0 0,
    .currentSample 0 0 4096 0,
    .currentSample 0 0 0 4096,
    .referenceInstant 0 8,
    .auxFeedbackPost 0 8,
    .chopperFallback 0 8,
    .stall 0 8,
    .ptpSyncRx 0 { messageType := 0, port := 2, transport := 2, domainNumber := 0, source := 0, capture := 0 },
    .ptpMessageRx 0 { messageType := 0, port := 2, transport := 2, domainNumber := 0, source := 0, capture := 0 },
    .sourceLocked 0 4,
    .syncTimeout 0 2] : List Instr).all (fun i => !i.wf) = true := by decide +kernel

theorem test_wf_08 : ([.announceReceiptTimeout 0 2,
    .powerOn 0 16384 false,
    .brownOut 0 16384,
    .lowInput 0 16384,
    .highInput 0 16384,
    .clockMonitorWindow 0 4 0,
    .clockLoss 0 4,
    .pllUnlock 0 5,
    .clockSourceRecovered 0 4,
    .pllRelock 0 5,
    .domainPowerGood 0 16,
    .domainPowerGoodTimeout 0 16,
    .drainTimeout 0 16,
    .domainOff 0 16,
    .startAttempt 0 [.failed 8 0],
    .startAttempt 0 [.failed 0 32]] : List Instr).all (fun i => !i.wf) = true := by decide +kernel

theorem test_wf_09 : ([.startAttempt 0 [.noPower 0],
    .startAttempt 0 [.noPower 16],
    .nonceExpiry 0 8,
    .lockoutEnd 0 8,
    .udpIdleTimeout 0 8,
    .sessionDrained 0 8,
    .tokenMessageRx 0 { epoch := 4294967296 },
    .tokenMessageRx 0 { holder := 3 },
    .mirrorSetRx 0 { tick := 4294967296 },
    .planAckRx 0 4294967296,
    .pairSafetyStatusRx 0 false [6] false,
    .handoverRequestRx 0 4 0,
    .errorDetected 0 .corrected 8 0 0,
    .errorDetected 0 .corrected 0 32 0,
    .errorDetected 0 .corrected 0 0 65536,
    .ptpTransmitInterval 0 2 0] : List Instr).all (fun i => !i.wf) = true := by decide +kernel

theorem test_wf_10 : ([.ptpTransmitInterval 0 0 4,
    .linkSynchronised 0 5,
    .groupFaultCleared 0 false 4 0,
    .groupFaultCleared 0 false 0 16384,
    .vinBackInRange 0 65792 0,
    .vinBackInRange 0 0 16384,
    .encoderLineRestored 0 8 false false false,
    .phaseAccumulatorCarry 0 8,
    .vectorSpacingEnd 0 32,
    .domainFrequencyMeasurement 0 (List.replicate 11 0)] : List Instr).all (fun i => !i.wf) = true := by decide +kernel

theorem test_wf_good : ([.nop 0 (cmd 1), .tickStart, .processFrameRx 0 { port := 0, capture := 0, header := zeros 12, payload := [] }, .ptpSyncRx 0 { messageType := 0, port := 0, transport := 0, domainNumber := 0, source := 0, capture := 0 }, .vectorSpacingEnd 0 31] : List Instr).all Instr.wf = true := by
  decide +kernel

/-! ### Worked examples of the spec -/

/-- R77's example: `cell.arm_mask` set to 0xFF. -/
theorem test_record_of_arm_mask : wr 0x100000 [0xFF] = [0x00, 0x00, 0x10, 0x01, 0x01, 0x00, 0, 0, 0xFF, 0, 0, 0] := by decide +kernel

/-- R178's example: the key and type of a delta record of slot 3. -/
theorem test_delta_record :
    (parseRecords ([0x10, 0x13, 0x31, 0x0C, 0x10, 0, 0, 0, 0x0C, 0, 0, 0x30, 0, 0, 0, 0] ++ leBytes 8 0xC004000000000000)).map
      (fun l => l.map (fun r => (r.1, r.2.key, r.2.type, r.2.value.length))) = some [(0, 0x311310, 0x0C, 16)] := by decide +kernel

/-- R109's figures for the example cell. -/
theorem test_mini_slots : miniSlots 62500 67 = 297 ∧ miniSlots 62500 72 = 275 ∧ nitPs 62500 67 = 2071200 ∧ nitPs 62500 72 = 2084000 := by decide

/-- The example of chapter 13: the key of `dsp.enable` of kernel slot 2. -/
theorem test_key_of_dsp_enable : okey 0x10 0x0A 3 = 0x100A03 := by decide

/-- R236's example: 37.5 steps per tick of 62.5 µs, 600 kHz. -/
theorem test_vel_word : velWord 0x41224F8000000000 = 675539944106 := by decide +kernel

/-- SHA-256 of "abc" (FIPS 180-4), as R67 uses it. -/
theorem test_sha256_abc : beBytes 32 0xBA7816BF8F01CFEA414140DE5DAE2223B00361A396177A9CB410FF61F20015AD = sha256 [0x61, 0x62, 0x63] := by
  decide +kernel

/-- The constants of SHA-256 as FIPS 180-4 defines them: bits of the cube and square roots of the first primes. -/
theorem test_cube_root_bits :
    let primes := (List.range 312).filter (fun n => decide (2 ≤ n) && (List.range n).all (fun d => decide (d < 2) || n % d != 0))
    primes.length = 64 ∧
      (primes.zip roundConstants).all (fun e => (List.range 7).any (fun k =>
        decide ((k * 2 ^ 32 + e.2.toNat) ^ 3 ≤ e.1 * 2 ^ 96) && decide (e.1 * 2 ^ 96 < (k * 2 ^ 32 + e.2.toNat + 1) ^ 3))) = true ∧
      (primes.zip (wordsOf 8 squareRootBits)).all (fun e => (List.range 5).any (fun k =>
        decide ((k * 2 ^ 32 + e.2.toNat) ^ 2 ≤ e.1 * 2 ^ 64) && decide (e.1 * 2 ^ 64 < (k * 2 ^ 32 + e.2.toNat + 1) ^ 2))) = true := by
  decide +kernel

/-- Reading TXTS_OVF clears it (Table 22-4), and the value read leaves the block. -/
theorem test_txts_ovf_read :
    let s := { up .run with herd := { (up .run).herd with txtsOvf := 5 } }
    let t := after (exec (.txtsOvfRead 0 false) s)
    t.out = [.value 5] ∧ t.herd.txtsOvf = 0 := by decide +kernel

/-- An admitted NOP completes with OK (R81). -/
theorem test_nop : (after (exec (.nop 0 (cmd 0x0001)) (sent .opened (up .configure)))).out.length = 1 := by decide +kernel

/-- Table 2-3: HOLD cannot be left for RUN where COMMISSION is to be resumed. -/
theorem test_hold_resume :
    rowOpen { up .hold with mode := { (up .hold).mode with resume := some .commission } } .run = false := by decide +kernel

/-! ### A configuration that passes the check -/

theorem mem_insertBy {α : Type} {lt : α → α → Bool} {x a : α} {l : List α} (h : a ∈ insertBy lt x l) : a = x ∨ a ∈ l := by
  induction l with
  | nil => simpa [insertBy] using h
  | cons b l ih =>
    simp only [insertBy] at h
    split at h
    · simpa using h
    · rcases List.mem_cons.mp h with h | h
      · exact .inr (h ▸ List.mem_cons_self)
      · exact (ih h).imp id (List.mem_cons_of_mem _)

theorem mem_sortBy {α : Type} {lt : α → α → Bool} {l : List α} {a : α} (h : a ∈ sortBy lt l) : a ∈ l := by
  suffices ∀ acc, a ∈ l.foldl (fun acc a => insertBy lt a acc) acc → a ∈ l ∨ a ∈ acc from (this [] h).resolve_right (by simp)
  clear h
  induction l with
  | nil => exact fun acc h => .inr h
  | cons b l ih =>
    intro acc h
    rcases ih _ h with h | h
    · exact .inl (List.mem_cons_of_mem _ h)
    · rcases mem_insertBy h with rfl | h
      · exact .inl List.mem_cons_self
      · exact .inr h

/-- An object of a class in use holds a value outside its range. -/
def outOfRange (g : State) (k : Nat × ObjRow) : Bool := itemUsed g.objs k.1 && !rangeOk g g.objs k.2 k.1 (leBytes k.2.len1 (oval g.objs k.1))

/-- Nothing of class 0x21 is in use. -/
def noChannels (g : State) : Prop := ∀ i < 80, channelUsed g.objs i = false ∧ ob g.objs 0x21 i 0x40 ≠ 1 ∧ ob g.objs 0x21 i 0x60 ≠ 1

theorem unused_21 {g : State} (hu : noChannels g) {k : Nat × ObjRow} (h : k ∈ storedKeys 0x21) : outOfRange g k = false := by
  have hr : ∀ r ∈ objClass 0x21, r.m1 < 256 ∧ r.i1 < 80 := by decide +kernel
  simp only [storedKeys, List.mem_flatMap, List.mem_map, List.mem_range] at h
  obtain ⟨i, _, m, hm, rfl⟩ := h
  have hm := mem_sortBy hm
  simp only [List.mem_flatMap, List.mem_map, List.mem_range, List.mem_filter, Bool.and_eq_true, decide_eq_true_eq] at hm
  obtain ⟨r, ⟨⟨hc, _⟩, _, hi⟩, d, hd, rfl⟩ := hm
  have hb := hr r hc
  obtain ⟨h1, h2, h3⟩ := hu i (by omega)
  have e1 : okey 0x21 i (r.m0 + d) / 65536 = 0x21 := by unfold okey; omega
  have e2 : okey 0x21 i (r.m0 + d) / 256 % 256 = i := by unfold okey; omega
  simp [outOfRange, itemUsed, e1, e2, h1, h2, h3]

theorem range_ok {g : State} (hu : noChannels g)
    (ha : ([0x10, 0x20, 0x30, 0x31, 0x40].flatMap storedKeys).all (fun k => !outOfRange g k) = true)
    (hb : ([0x50, 0x60, 0x70, 0x80].flatMap storedKeys).all (fun k => !outOfRange g k) = true)
    (hc : ([0x90, 0xA0, 0xB0, 0xC0, 0xD0].flatMap storedKeys).all (fun k => !outOfRange g k) = true) : rangeFinding g = none := by
  simp only [List.all_eq_true, List.mem_flatMap, Bool.not_eq_true'] at ha hb hc
  simp only [rangeFinding, Option.map_eq_none_iff, List.find?_eq_none, List.mem_flatMap, Bool.not_eq_true]
  rintro k ⟨c, hcl, hk⟩
  show outOfRange g k = false
  simp only [objClasses, List.mem_cons, List.not_mem_nil, or_false] at hcl
  rcases hcl with h | h | h | h | h | h | h | h | h | h | h | h | h | h | h <;>
    first
      | exact unused_21 hu (h ▸ hk)
      | (refine ha k ⟨c, ?_, hk⟩; subst h; decide)
      | (refine hb k ⟨c, ?_, hk⟩; subst h; decide)
      | (refine hc k ⟨c, ?_, hk⟩; subst h; decide)

theorem config_ok {s g : State} {c : Commit} {taken : Option (Bytes × Nat × Nat)} (hg : stagedState s c = g) (h1 : check1 c.image = none)
    (h2 : check2 s c.image = none) (h3 : firstRecord g { s with objs := g.objs } 0 (imageRecords c.image) = none) (hr : rangeFinding g = none)
    (h4 : ruleFinding g (stagedSet s c.image) ((imageRecords c.image).map (·.2)) = none) (h5 : check4 s g c.image = .ok taken)
    (h6 : [check5, check6, check7, check8, check9].findSome? (fun x => x g) = none) : configCheck s c = .ok taken := by
  simp [configCheck, h1, h2, hg, check3, h3, consistencyKey, hr, h4, h5, h6]

theorem none_of {α : Type} {o : Option α} (h : o.isNone = true) : o = none := Option.isNone_iff_eq_none.mp h

/-- An image with no record, under whose base the check finds nothing. -/
def emptyImage : Bytes := leBytes 4 0x4D49435A ++ [1, 0, 0, 0] ++ leBytes 4 96 ++ leBytes 4 96 ++ zeros 48 ++ beBytes 32 0x9e41c65d3dcebfc15bba88eec8acffe0b53ac7dcce896c5a20b571aea8b54633

/-- A set in force, its reaction time and its SAFE_CMD slot. -/
def passing (checkOnly : Bool) : Commit :=
  { origin := some (from_ 0x32), checkOnly := checkOnly, image := emptyImage,
    base := (up .configure [(0x508002, 0x41200000), (0x700001, 1), (0x700003, 0x9000000002FF), (0x700020, 1)]).objs }

/-- A module in CONFIGURE that checks it. -/
def checking (checkOnly : Bool) : State :=
  { up .configure with
    objs := (passing checkOnly).base, safety := { State.reset.safety with inForce := true },
    image := { State.reset.image with commit := some (passing checkOnly) } }

theorem checking_range_true : rangeFinding (stagedState (begin 0 (checking true)) (passing true)) = none :=
  range_ok (by unfold noChannels; decide +kernel) (by decide +kernel) (by decide +kernel) (by decide +kernel)

theorem checking_range_false : rangeFinding (stagedState (begin 0 (checking false)) (passing false)) = none :=
  range_ok (by unfold noChannels; decide +kernel) (by decide +kernel) (by decide +kernel) (by decide +kernel)

theorem checking_ok_true : configCheck (begin 0 (checking true)) (passing true) = .ok none :=
  config_ok rfl (none_of (by decide +kernel)) (none_of (by decide +kernel)) (none_of (by decide +kernel)) checking_range_true
    (none_of (by decide +kernel)) (ok_of (by decide +kernel)) (none_of (by decide +kernel))

theorem checking_ok_false : configCheck (begin 0 (checking false)) (passing false) = .ok none :=
  config_ok rfl (none_of (by decide +kernel)) (none_of (by decide +kernel)) (none_of (by decide +kernel)) checking_range_false
    (none_of (by decide +kernel)) (ok_of (by decide +kernel)) (none_of (by decide +kernel))

/-! ### Witnesses -/

theorem test_meets_EmptyQueueIdles_0 :
    ∃ (s : State), s.pending = [] :=
  ⟨State.reset, by decide +kernel⟩

theorem test_meets_EveryCommandAnswers_1 :
    ∃ (c : Instr) (s : State) (t : State), exec c s = .next t :=
  ⟨(.vectorSpacingEnd 0 0), State.reset, (after (exec (.vectorSpacingEnd 0 0) State.reset)), rfl⟩

theorem test_meets_ResetState_4 :
    ∃ (m : _), m < 8 :=
  ⟨7, by decide +kernel⟩

theorem test_meets_ResetState_19 :
    ∃ (offset : _), offset ∈ [0x0004, 0x0008, 0x000C, 0x0010, 0x0014, 0x0018, 0x001C, 0x0020, 0x0028, 0x0040, 0x0044, 0x0810, 0x0820, 0x0824, 0x0828, 0x082C, 0x0830, 0x0834, 0x0900, 0x0904, 0x0908, 0x090C, 0x0A04, 0x0A0C, 0xF800, 0xF804] :=
  ⟨0x0004, by decide +kernel⟩

theorem test_meets_ResetState_20 :
    ∃ (m : _) (field : _), m < 8 ∧ field < 4 :=
  ⟨7, 3, by decide +kernel, by decide +kernel⟩

theorem test_meets_FloorOnlyRises_0 :
    ∃ (s : State) (t : State), FloorInv s ∧ step s = .next t :=
  ⟨{ State.reset with pending := [.vectorSpacingEnd 0 0] }, (after (step { State.reset with pending := [.vectorSpacingEnd 0 0] })), by unfold FloorInv; decide +kernel, rfl⟩

theorem test_meets_KeysOnlyByEnrol_0 :
    ∃ (s : State) (t : State), step s = .next t ∧ (∀ clk e rest, s.pending ≠ .keyEnrol clk e :: rest) :=
  ⟨{ State.reset with pending := [.vectorSpacingEnd 0 0] }, (after (step { State.reset with pending := [.vectorSpacingEnd 0 0] })), rfl, nofun⟩

theorem test_meets_StoLatchLasts_0 :
    ∃ (s : State) (t : State), step s = .next t ∧ (∀ clk e rest, s.pending ≠ .setMode clk e :: rest) ∧ (∀ clk mv r rest, s.pending ≠ .powerOn clk mv r :: rest) ∧ s.cham.stoLatch = true :=
  ⟨{ State.reset with pending := [.vectorSpacingEnd 0 0], cham := { State.reset.cham with stoLatch := true } }, (after (step { State.reset with pending := [.vectorSpacingEnd 0 0], cham := { State.reset.cham with stoLatch := true } })), rfl, nofun, nofun, by decide +kernel⟩

theorem test_meets_PartsLeftAlone_0 :
    ∃ (c : Instr) (s : State) (t : State) (p : Part), exec c s = .next t ∧ p ∉ c.acts :=
  ⟨(.vectorSpacingEnd 0 0), State.reset, (after (exec (.vectorSpacingEnd 0 0) State.reset)), .mode, rfl, by decide +kernel⟩

theorem test_meets_SessionsOpen_0 :
    ∃ (clk : Nat) (e0 : Entry) (e : Entry) (via : Transport) (s : State), Admitted (begin clk s) 0x0002 e0 via e ∧ (mbx (begin clk s) e.mbx).state = .closed ∧ (entryArgs e).length = 0 ∧ e.mbx < s.aon.epochs.length :=
  ⟨0, (cmd 0x0002 []), (cmd 0x0002 []), .pcie, (sent .closed (up .configure)), admitted_of (by decide +kernel), by decide +kernel, by decide +kernel, by decide +kernel⟩

theorem test_meets_SessionsOpen_1 :
    ∃ (clk : Nat) (e0 : Entry) (e : Entry) (via : Transport) (s : State), Admitted (begin clk s) 0x0002 e0 via e ∧ (mbx (begin clk s) e.mbx).state ≠ .closed ∧ (entryArgs e).length = 0 :=
  ⟨0, (cmd 0x0002 []), (cmd 0x0002 []), .pcie, (sent .opened (up .configure)), admitted_of (by decide +kernel), by decide +kernel, by decide +kernel⟩

theorem test_meets_PlainCommands_0 :
    ∃ (clk : Nat) (e0 : Entry) (e : Entry) (via : Transport) (s : State), Admitted (begin clk s) 0x0001 e0 via e ∧ (mbx (begin clk s) e.mbx).state ≠ .closed ∧ (entryArgs e).length = 0 :=
  ⟨0, (cmd 0x0001 []), (cmd 0x0001 []), .pcie, (sent .opened (up .configure)), admitted_of (by decide +kernel), by decide +kernel, by decide +kernel⟩

theorem test_meets_PlainCommands_1 :
    ∃ (clk : Nat) (e0 : Entry) (e : Entry) (via : Transport) (s : State), Admitted (begin clk s) 0x0010 e0 via e ∧ Open (begin clk s) e ∧ (entryArgs e).length = 0 :=
  ⟨0, (cmd 0x0010 []), (cmd 0x0010 []), .pcie, (sent .opened (up .configure)), admitted_of (by decide +kernel), ⟨by decide +kernel, by decide +kernel⟩, by decide +kernel⟩

theorem test_meets_PlainCommands_2 :
    ∃ (clk : Nat) (e0 : Entry) (e : Entry) (via : Transport) (s : State), Admitted (begin clk s) e0.opcode e0 via e ∧ Open (begin clk s) e ∧ e0.opcode ∉ knownOpcodes :=
  ⟨0, (cmd 0x0008 []), (cmd 0x0008 []), .pcie, (sent .opened (up .configure)), admitted_of (by decide +kernel), ⟨by decide +kernel, by decide +kernel⟩, by decide +kernel⟩

theorem test_meets_EpochsAndClosing_0 :
    ∃ (clk : Nat) (e0 : Entry) (e : Entry) (via : Transport) (s : State), Admitted (begin clk s) 0x0004 e0 via e ∧ (mbx (begin clk s) e.mbx).state ≠ .closed ∧ (entryArgs e).length = 0 ∧ e.mbx < s.aon.epochs.length ∧ (∀ o ∈ (mbx s e.mbx).inFlight, o = originOf e) :=
  ⟨0, (cmd 0x0004 []), (cmd 0x0004 []), .pcie, (sent .opened (up .configure)), admitted_of (by decide +kernel), by decide +kernel, by decide +kernel, by decide +kernel, by decide +kernel⟩

theorem test_meets_EpochsAndClosing_1 :
    ∃ (clk : Nat) (e0 : Entry) (e : Entry) (via : Transport) (s : State), Admitted (begin clk s) 0x0004 e0 via e ∧ (mbx (begin clk s) e.mbx).state ≠ .closed ∧ (entryArgs e).length = 0 ∧ e.mbx < s.aon.epochs.length ∧ (∃ o ∈ (mbx s e.mbx).inFlight, o ≠ originOf e) :=
  ⟨0, (cmd 0x0004), (cmd 0x0004), .pcie, (box { cmdTail := 1, state := .opened, inFlight := [{ mbx := 0, txid := 1, opcode := 0x46 }] } (up .run)), admitted_of (by decide +kernel), by decide +kernel, by decide +kernel, by decide +kernel, by decide +kernel⟩

theorem test_meets_EpochsAndClosing_2 :
    ∃ (clk : Nat) (e0 : Entry) (e : Entry) (via : Transport) (s : State), Admitted (begin clk s) 0x0003 e0 via e ∧ (mbx (begin clk s) e.mbx).state ≠ .closed ∧ (entryArgs e).length = 0 :=
  ⟨0, (cmd 0x0003 []), (cmd 0x0003 []), .pcie, (sent .opened (up .configure)), admitted_of (by decide +kernel), by decide +kernel, by decide +kernel⟩

theorem test_meets_ChallengeIssues_0 :
    ∃ (clk : Nat) (e0 : Entry) (e : Entry) (via : Transport) (s : State), Admitted (begin clk s) 0x0005 e0 via e ∧ (mbx (begin clk s) e.mbx).state ≠ .closed ∧ (entryArgs e).length = 1 ∧ (mbx s e.mbx).state ≠ .privileged ∧ (challengeKey s (le (entryArgs e) 0 1)).isSome = true ∧ (∀ f, (mbx s e.mbx).lockoutEnd = some f → f ≤ now (begin clk s)) :=
  ⟨0, (cmd 0x0005 [0]), (cmd 0x0005 [0]), .pcie, (sent .opened (up .configure)), admitted_of (by decide +kernel), by decide +kernel, by decide +kernel, by decide +kernel, by decide +kernel, all_some (by decide +kernel)⟩

theorem test_meets_UnlockJudged_0 :
    ∃ (clk : Nat) (e0 : Entry) (e : Entry) (via : Transport) (s : State) (c : Challenge) (key : Bytes), Admitted (begin clk s) 0x0006 e0 via e ∧ (entryArgs e).length = 64 ∧ (mbx s e.mbx).state = .challenged ∧ (mbx s e.mbx).challenge = some c ∧ now (begin clk s) < c.time + 5000000000 ∧ key = (if c.slot = 0 then zeros 32 else ((nth none s.sec.hmac (c.slot - 1)).map (·.key)).getD []) ∧ slice (entryArgs e) 32 32 = hmac256 key ([0] ++ c.nonce ++ slice (entryArgs e) 0 32 ++ leBytes 1 e.mbx ++ leBytes 1 (epochOf s e.mbx) ++ leBytes 4 (mbx s e.mbx).sessionId) ∧ (c.slot = 0 → seal11 s = true) :=
  ⟨0, (cmd 0x0006 (zeros 32 ++ hmac256 (zeros 32) ([0] ++ zeros 32 ++ zeros 32 ++ [0, 0, 0, 0, 0, 0]))), (cmd 0x0006 (zeros 32 ++ hmac256 (zeros 32) ([0] ++ zeros 32 ++ zeros 32 ++ [0, 0, 0, 0, 0, 0]))), .pcie, (box { cmdTail := 1, state := .challenged, challenge := some { nonce := zeros 32, time := 0, slot := 0 } } ({ up .configure with safety := { State.reset.safety with processor := { State.reset.safety.processor with sw1 := 1 }, chamois := { State.reset.safety.chamois with sw1 := 1 } } })), { nonce := zeros 32, time := 0, slot := 0 }, (zeros 32), admitted_of (by decide +kernel), by decide +kernel, by decide +kernel, by decide +kernel, by decide +kernel, by decide +kernel, by decide +kernel, by decide +kernel⟩

theorem test_meets_UnlockJudged_1 :
    ∃ (clk : Nat) (e0 : Entry) (e : Entry) (via : Transport) (s : State) (c : Challenge) (key : Bytes), Admitted (begin clk s) 0x0006 e0 via e ∧ (entryArgs e).length = 64 ∧ (mbx s e.mbx).state = .challenged ∧ (mbx s e.mbx).challenge = some c ∧ now (begin clk s) < c.time + 5000000000 ∧ key = (if c.slot = 0 then zeros 32 else ((nth none s.sec.hmac (c.slot - 1)).map (·.key)).getD []) ∧ slice (entryArgs e) 32 32 ≠ hmac256 key ([0] ++ c.nonce ++ slice (entryArgs e) 0 32 ++ leBytes 1 e.mbx ++ leBytes 1 (epochOf s e.mbx) ++ leBytes 4 (mbx s e.mbx).sessionId) :=
  ⟨0, (cmd 0x0006 (zeros 64)), (cmd 0x0006 (zeros 64)), .pcie, (box { cmdTail := 1, state := .challenged, challenge := some { nonce := zeros 32, time := 0, slot := 0 } } (up .configure)), { nonce := zeros 32, time := 0, slot := 0 }, (zeros 32), admitted_of (by decide +kernel), by decide +kernel, by decide +kernel, by decide +kernel, by decide +kernel, by decide +kernel, by decide +kernel⟩

theorem test_meets_CancelAnswers_0 :
    ∃ (clk : Nat) (e0 : Entry) (e : Entry) (via : Transport) (s : State), let target := BitVec.ofNat 16 (le (entryArgs e) 0 2); Admitted (begin clk s) 0x0007 e0 via e ∧ Open (begin clk s) e ∧ (entryArgs e).length = 2 ∧ target = e.txid :=
  ⟨0, (cmd 0x0007 [0, 0]), (cmd 0x0007 [0, 0]), .pcie, (sent .opened (up .configure)), admitted_of (by decide +kernel), ⟨by decide +kernel, by decide +kernel⟩, by decide +kernel, by decide +kernel⟩

theorem test_meets_CancelAnswers_1 :
    ∃ (clk : Nat) (e0 : Entry) (e : Entry) (via : Transport) (s : State), let u := entered clk s via e; let target := BitVec.ofNat 16 (le (entryArgs e) 0 2); Admitted (begin clk s) 0x0007 e0 via e ∧ Open (begin clk s) e ∧ (entryArgs e).length = 2 ∧ target ≠ e.txid ∧ ((mbx u e.mbx).inFlight.find? (fun f => f.txid = target) = none) :=
  ⟨0, (cmd 0x0007 [1, 0]), (cmd 0x0007 [1, 0]), .pcie, (sent .opened (up .configure)), admitted_of (by decide +kernel), ⟨by decide +kernel, by decide +kernel⟩, by decide +kernel, by decide +kernel, by decide +kernel⟩

theorem test_meets_CancelAnswers_2 :
    ∃ (clk : Nat) (e0 : Entry) (e : Entry) (via : Transport) (s : State) (o : _), let u := entered clk s via e; let target := BitVec.ofNat 16 (le (entryArgs e) 0 2); Admitted (begin clk s) 0x0007 e0 via e ∧ Open (begin clk s) e ∧ (entryArgs e).length = 2 ∧ target ≠ e.txid ∧ ((mbx u e.mbx).inFlight.find? (fun f => f.txid = target) = some o) ∧ (∀ a ∈ (mbx u e.mbx).accepted, a.2.txid ≠ target) ∧ withdraw u o = none :=
  ⟨0, (cmd 0x0007 [1, 0]), (cmd 0x0007 [1, 0]), .pcie, (box { cmdTail := 1, state := .opened, inFlight := [{ mbx := 0, txid := 1, opcode := 0x46 }] } (up .run)), { mbx := 0, txid := 1, opcode := 0x46 }, admitted_of (by decide +kernel), ⟨by decide +kernel, by decide +kernel⟩, by decide +kernel, by decide +kernel, by decide +kernel, by decide +kernel, by decide +kernel⟩

theorem test_meets_CancelAnswers_3 :
    ∃ (clk : Nat) (e0 : Entry) (e : Entry) (via : Transport) (s : State) (o : _), let u := entered clk s via e; let target := BitVec.ofNat 16 (le (entryArgs e) 0 2); Admitted (begin clk s) 0x0007 e0 via e ∧ Open (begin clk s) e ∧ (entryArgs e).length = 2 ∧ target ≠ e.txid ∧ ((mbx u e.mbx).inFlight.find? (fun f => f.txid = target) = some o) ∧ (∃ a ∈ (mbx u e.mbx).accepted, a.2.txid = target) :=
  ⟨0, (cmd 0x0007 [1, 0]), (cmd 0x0007 [1, 0]), .pcie, (box { cmdTail := 1, state := .opened, inFlight := [{ mbx := 0, txid := 1, opcode := 0x46 }], accepted := [(.udp 0 0 0, { cmd 0x46 with txid := 1 })] } (up .run)), { mbx := 0, txid := 1, opcode := 0x46 }, admitted_of (by decide +kernel), ⟨by decide +kernel, by decide +kernel⟩, by decide +kernel, by decide +kernel, by decide +kernel, by decide +kernel⟩

theorem test_meets_CancelAnswers_4 :
    ∃ (clk : Nat) (e0 : Entry) (e : Entry) (via : Transport) (s : State) (o : _) (v : _), let u := entered clk s via e; let target := BitVec.ofNat 16 (le (entryArgs e) 0 2); Admitted (begin clk s) 0x0007 e0 via e ∧ Open (begin clk s) e ∧ (entryArgs e).length = 2 ∧ target ≠ e.txid ∧ ((mbx u e.mbx).inFlight.find? (fun f => f.txid = target) = some o) ∧ (∀ a ∈ (mbx u e.mbx).accepted, a.2.txid ≠ target) ∧ withdraw u o = some v :=
  ⟨0, (cmd 0x0007 [1, 0]), (cmd 0x0007 [1, 0]), .pcie, (box { cmdTail := 1, state := .opened, inFlight := [{ mbx := 0, txid := 1, opcode := 0x46 }] } { up .run with plan := { State.reset.plan with waits := [{ origin := { mbx := 0, txid := 1, opcode := 0x46 }, arm := 0, replace := false, pathId := 0, at_ := 0, points := [] }] } }), { mbx := 0, txid := 1, opcode := 0x46 }, ((withdraw (entered 0 (box { cmdTail := 1, state := .opened, inFlight := [{ mbx := 0, txid := 1, opcode := 0x46 }] } { up .run with plan := { State.reset.plan with waits := [{ origin := { mbx := 0, txid := 1, opcode := 0x46 }, arm := 0, replace := false, pathId := 0, at_ := 0, points := [] }] } }) .pcie (cmd 0x0007 [1, 0])) { mbx := 0, txid := 1, opcode := 0x46 }).getD State.reset), admitted_of (by decide +kernel), ⟨by decide +kernel, by decide +kernel⟩, by decide +kernel, by decide +kernel, by decide +kernel, by decide +kernel, by decide +kernel⟩

theorem test_meets_DoorbellsAndVectors_0 :
    ∃ (m : Nat) (value : Nat) (s : State), s.zewen.linkUp = true ∧ m < s.zewen.mbx.length ∧ value < 65536 :=
  ⟨7, 64, (up .configure), by decide +kernel, by decide +kernel, by decide +kernel⟩

theorem test_meets_DoorbellsAndVectors_1 :
    ∃ (m : Nat) (value : Nat) (s : State), s.zewen.linkUp = true ∧ m < s.zewen.mbx.length ∧ value < 65536 :=
  ⟨7, 1, (up .configure), by decide +kernel, by decide +kernel, by decide +kernel⟩

theorem test_meets_DoorbellsAndVectors_2 :
    ∃ (clk : Nat) (v : Nat) (s : State), let s1 := begin clk s; v < 32 ∧ s.zewen.msix.spacing.getLsbD v = true ∧ s1.clock < nth 0 s.zewen.msix.sent v + 250 :=
  ⟨0, 31, ({ up .configure with zewen := { (up .configure).zewen with msix := { table := List.replicate 32 { masked := false }, spacing := 0x80000000 } } }), by decide +kernel, by decide +kernel, by decide +kernel⟩

theorem test_meets_DoorbellsAndVectors_3 :
    ∃ (clk : Nat) (v : Nat) (s : State), let s1 := begin clk s; v < 32 ∧ nth 0 s.zewen.msix.sent v + 250 ≤ s1.clock ∧ s.zewen.msix.deferred.getLsbD v = true ∧ s.zewen.linkUp = true ∧ vectorMasked s v = false ∧ (v < 8 → (mbx s v).cplTail ≠ (mbx s v).cplHead) ∧ v < s.zewen.msix.sent.length :=
  ⟨0, 31, ({ up .configure with zewen := { (up .configure).zewen with msix := { table := List.replicate 32 { masked := false }, deferred := 0x80000000 } }, clock := 250 }), by decide +kernel, by decide +kernel, by decide +kernel, by decide +kernel, by decide +kernel, by decide +kernel, by decide +kernel⟩

theorem test_meets_DoorbellsAndVectors_4 :
    ∃ (clk : Nat) (v : Nat) (s : State), let s1 := begin clk s; v < 32 ∧ nth 0 s.zewen.msix.sent v + 250 ≤ s1.clock ∧ s.zewen.msix.deferred.getLsbD v = false :=
  ⟨0, 31, ({ up .configure with clock := 250 }), by decide +kernel, by decide +kernel, by decide +kernel⟩

theorem test_meets_SessionsEnd_0 :
    ∃ (clk : Nat) (m : Nat) (s : State) (c : Challenge), m < s.zewen.mbx.length ∧ (mbx s m).challenge = some c ∧ (mbx s m).state = .challenged ∧ c.time + 5000000000 ≤ now (begin clk s) :=
  ⟨1250000000, 0, (box { state := .challenged, challenge := some { nonce := [], time := 0, slot := 0 } } { up .configure with herd := { (up .configure).herd with ht := 5000000000 } }), { nonce := [], time := 0, slot := 0 }, by decide +kernel, by decide +kernel, by decide +kernel, by decide +kernel⟩

theorem test_meets_SessionsEnd_1 :
    ∃ (clk : Nat) (m : Nat) (f : Nat) (s : State), m < s.zewen.mbx.length ∧ (mbx s m).lockoutEnd = some f ∧ f ≤ now (begin clk s) :=
  ⟨0, 0, 0, (box { lockoutEnd := some 0 } (up .configure)), by decide +kernel, by decide +kernel, by decide +kernel⟩

theorem test_meets_SessionsEnd_2 :
    ∃ (clk : Nat) (m : Nat) (s : State), m < s.zewen.mbx.length ∧ viaUdp (mbx s m) = true ∧ ((mbx s m).state = .opened ∨ (mbx s m).state = .challenged ∨ (mbx s m).state = .privileged) ∧ (mbx s m).lastDatagram + ov s 0xD0 (0x80 + m) 5 * 1000000 ≤ now (begin clk s) :=
  ⟨0, 0, (box { state := .opened, via := .udp 0 0 0 } { up .configure with herd := { (up .configure).herd with ht := 100000000000 } }), by decide +kernel, by decide +kernel, by decide +kernel, by decide +kernel⟩

theorem test_meets_SessionsEnd_3 :
    ∃ (m : Nat) (s : State), m < s.zewen.mbx.length ∧ (mbx s m).state = .closing ∧ (mbx s m).closing = none ∧ (mbx s m).inFlight = [] :=
  ⟨0, (sent .closing (up .configure)), by decide +kernel, by decide +kernel, by decide +kernel, by decide +kernel⟩

theorem test_meets_SessionsEnd_4 :
    ∃ (m : Nat) (s : State) (o : Origin), m < s.zewen.mbx.length ∧ (mbx s m).state = .closing ∧ (mbx s m).closing = some o ∧ o.mbx = m ∧ (mbx s m).inFlight = [o] ∧ s.mode.resetFinal = false :=
  ⟨0, (box { state := .closing, closing := some (from_ 3), inFlight := [from_ 3] } (up .configure)), (from_ 3), by decide +kernel, by decide +kernel, by decide +kernel, by decide +kernel, by decide +kernel, by decide +kernel⟩

theorem test_meets_PcieLink_1 :
    ∃ (s : State), s.hw.hostReady = true ∧ domainOn s 12 = true ∧ isolated s 3 3 = false :=
  ⟨(up .configure), by decide +kernel, by decide +kernel, by decide +kernel⟩

theorem test_meets_PcieLink_4 :
    ∃ (m : Nat) (s : State), s.zewen.mbx.length = 8 ∧ m < 8 ∧ (mbx s m).via = .pcie ∧ ((mbx s m).state = .opened ∨ (mbx s m).state = .challenged ∨ (mbx s m).state = .privileged) :=
  ⟨0, (sent .opened (up .configure)), by decide +kernel, by decide +kernel, by decide +kernel, by decide +kernel⟩

theorem test_meets_DatagramWindow_0 :
    ∃ (clk : Nat) (port : Nat) (addr : Nat) (udpPort : Nat) (data : Bytes) (s : State), let s1 := begin clk s; let e := datagramEntry data; let b := mbx s e.mbx; let q := txSeq e.txid; serving s1 (if s.start.rescue then e.mbx else 0) true = true ∧ (s.start.rescue = true → port = 0) ∧ data.length ≤ 1472 ∧ le data 0 2 = 0x5A57 ∧ le data 2 1 = 1 ∧ datagramOk data = true ∧ e.mbx < s.zewen.mbx.length ∧ (b.state = .opened ∨ b.state = .challenged ∨ (b.state = .privileged ∧ slice data 16 16 = datagramTag b.sk data)) ∧ b.via = .udp port addr udpPort ∧ le data 8 4 = b.sessionId ∧ txEpoch e.txid = epochOf s e.mbx ∧ (b.windowHigh = none ∨ (∃ h, b.windowHigh = some h ∧ (h < q ∨ (h - q < 64 ∧ b.seen.contains q = false)))) :=
  ⟨0, 0, 0, 0, (([0x57, 0x5A, 1, 1, 0, 1, 0, 0, 0, 0, 0, 0] : Bytes) ++ zeros 20 ++ leBytes 2 5 ++ [1] ++ zeros 253), (box { state := .opened, via := .udp 0 0 0, windowHigh := some 4, seen := [4] } (up .configure)), by decide +kernel, by decide +kernel, by decide +kernel, by decide +kernel, by decide +kernel, by decide +kernel, by decide +kernel, by decide +kernel, by decide +kernel, by decide +kernel, by decide +kernel, by decide +kernel⟩

theorem test_meets_DatagramWindow_1 :
    ∃ (clk : Nat) (port : Nat) (addr : Nat) (udpPort : Nat) (data : Bytes) (s : State) (h : _), let s1 := begin clk s; let e := datagramEntry data; let b := mbx s e.mbx; let q := txSeq e.txid; serving s1 (if s.start.rescue then e.mbx else 0) true = true ∧ (s.start.rescue = true → port = 0) ∧ data.length ≤ 1472 ∧ le data 0 2 = 0x5A57 ∧ le data 2 1 = 1 ∧ datagramOk data = true ∧ e.mbx < s.zewen.mbx.length ∧ (b.state = .opened ∨ b.state = .challenged ∨ (b.state = .privileged ∧ slice data 16 16 = datagramTag b.sk data)) ∧ b.via = .udp port addr udpPort ∧ le data 8 4 = b.sessionId ∧ txEpoch e.txid = epochOf s e.mbx ∧ b.windowHigh = some h ∧ q ≤ h ∧ h - q < 64 ∧ b.seen.contains q = true :=
  ⟨0, 0, 0, 0, (([0x57, 0x5A, 1, 1, 0, 1, 0, 0, 0, 0, 0, 0] : Bytes) ++ zeros 20 ++ leBytes 2 5 ++ [1] ++ zeros 253), (box { state := .opened, via := .udp 0 0 0, windowHigh := some 68, seen := [68, 5] } (up .configure)), 68, by decide +kernel, by decide +kernel, by decide +kernel, by decide +kernel, by decide +kernel, by decide +kernel, by decide +kernel, by decide +kernel, by decide +kernel, by decide +kernel, by decide +kernel, by decide +kernel, by decide +kernel, by decide +kernel, by decide +kernel⟩

theorem test_meets_DatagramWindow_2 :
    ∃ (clk : Nat) (port : Nat) (addr : Nat) (udpPort : Nat) (data : Bytes) (s : State) (h : _), let s1 := begin clk s; let e := datagramEntry data; let b := mbx s e.mbx; let q := txSeq e.txid; serving s1 (if s.start.rescue then e.mbx else 0) true = true ∧ (s.start.rescue = true → port = 0) ∧ data.length ≤ 1472 ∧ le data 0 2 = 0x5A57 ∧ le data 2 1 = 1 ∧ datagramOk data = true ∧ e.mbx < s.zewen.mbx.length ∧ (b.state = .opened ∨ b.state = .challenged ∨ (b.state = .privileged ∧ slice data 16 16 = datagramTag b.sk data)) ∧ b.via = .udp port addr udpPort ∧ le data 8 4 = b.sessionId ∧ txEpoch e.txid = epochOf s e.mbx ∧ b.windowHigh = some h ∧ 64 ≤ h - q :=
  ⟨0, 0, 0, 0, (([0x57, 0x5A, 1, 1, 0, 1, 0, 0, 0, 0, 0, 0] : Bytes) ++ zeros 20 ++ leBytes 2 5 ++ [1] ++ zeros 253), (box { state := .opened, via := .udp 0 0 0, windowHigh := some 69, seen := [69] } (up .configure)), 69, by decide +kernel, by decide +kernel, by decide +kernel, by decide +kernel, by decide +kernel, by decide +kernel, by decide +kernel, by decide +kernel, by decide +kernel, by decide +kernel, by decide +kernel, by decide +kernel, by decide +kernel⟩

theorem test_meets_StaleEpochDiscarded_0 :
    ∃ (clk : Nat) (e0 : Entry) (e : Entry) (via : Transport) (s : State), takenEntry 0x0012 (begin clk s) e0 = some (via, e) ∧ turnOf (begin clk s) e.mbx = true ∧ e.mbx < s.zewen.mbx.length ∧ (mbx s e.mbx).state ≠ .closed ∧ (mbx s e.mbx).state ≠ .closing ∧ (mbx s e.mbx).via = via ∧ txEpoch e.txid ≠ epochOf s e.mbx :=
  ⟨0, { cmd 0x0012 [1] with txid := 0x1000 }, { cmd 0x0012 [1] with txid := 0x1000 }, .pcie, (sent .privileged (up .configure)), by decide +kernel, by decide +kernel, by decide +kernel, by decide +kernel, by decide +kernel, by decide +kernel, by decide +kernel⟩

theorem test_meets_ReadsLatchAndClear_0 :
    ∃ (clk : Nat) (s : State), let s1 := begin clk s; s.reg.htHi.length = 2 ∧ s.reg.htFrac.length = 2 ∧ s.reg.acqHi.length = 2 ∧ Reached s1 0x0800 :=
  ⟨0, (up .configure), by decide +kernel, by decide +kernel, by decide +kernel, ⟨by decide +kernel, by decide +kernel⟩⟩

theorem test_meets_ReadsLatchAndClear_1 :
    ∃ (clk : Nat) (s : State), let s1 := begin clk s; s.reg.htHi.length = 2 ∧ s.reg.htFrac.length = 2 ∧ s.reg.acqHi.length = 2 ∧ Reached s1 0x0908 :=
  ⟨0, (up .configure), by decide +kernel, by decide +kernel, by decide +kernel, ⟨by decide +kernel, by decide +kernel⟩⟩

theorem test_meets_ReadsLatchAndClear_2 :
    ∃ (clk : Nat) (s : State), let s1 := begin clk s; Reached s1 0x0018 :=
  ⟨0, (up .configure), ⟨by decide +kernel, by decide +kernel⟩⟩

theorem test_meets_ReadsLatchAndClear_3 :
    ∃ (clk : Nat) (s : State), let s1 := begin clk s; Reached s1 0x0A0C :=
  ⟨0, (up .configure), ⟨by decide +kernel, by decide +kernel⟩⟩

theorem test_meets_ReadsLatchAndClear_4 :
    ∃ (clk : Nat) (s : State), let s1 := begin clk s; Reached s1 0x0834 :=
  ⟨0, (up .configure), ⟨by decide +kernel, by decide +kernel⟩⟩

theorem test_meets_OnesClear_0 :
    ∃ (clk : Nat) (s : State), let s1 := begin clk s; s.zewen.linkUp = true ∧ privView s true = true ∧ Reached s1 0x0830 :=
  ⟨0, (box { state := .privileged } (up .configure)), by decide +kernel, by decide +kernel, ⟨by decide +kernel, by decide +kernel⟩⟩

theorem test_meets_OnesClear_1 :
    ∃ (s : State), s.zewen.linkUp = true ∧ privView s true = true :=
  ⟨(box { state := .privileged } (up .configure)), by decide +kernel, by decide +kernel⟩

theorem test_meets_OnesClear_2 :
    ∃ (s : State), s.zewen.linkUp = true ∧ privView s true = true :=
  ⟨(box { state := .privileged } (up .configure)), by decide +kernel, by decide +kernel⟩

theorem test_meets_OnesClear_3 :
    ∃ (s : State), s.zewen.linkUp = true ∧ privView s true = true :=
  ⟨(box { state := .privileged } (up .configure)), by decide +kernel, by decide +kernel⟩

theorem test_meets_OnesClear_4 :
    ∃ (s : State), s.zewen.linkUp = true ∧ privView s true = true :=
  ⟨(box { state := .privileged } (up .configure)), by decide +kernel, by decide +kernel⟩

theorem test_meets_MaskWrites_0 :
    ∃ (s : State), s.zewen.linkUp = true ∧ privView s true = true :=
  ⟨(box { state := .privileged } (up .configure)), by decide +kernel, by decide +kernel⟩

theorem test_meets_MaskWrites_1 :
    ∃ (clk : Nat) (v : Nat) (s : State) (n : _), s.zewen.linkUp = true ∧ privView s true = true ∧ n < 10 ∧ s.reg.intMask.getLsbD n = true ∧ (BitVec.ofNat 10 v &&& 0x3FE).getLsbD n = false ∧ s.reg.intStatus.getLsbD n = true ∧ spacingRuns (begin clk s) (8 + n) = false ∧ vectorMasked s (8 + n) = false :=
  ⟨0, 0, { (box { state := .privileged } ({ up .configure with zewen := { (up .configure).zewen with msix := { table := List.replicate 32 { masked := false }, deferred := 0 } } }) : State) with reg := { State.reset.reg with intStatus := 0x200, intMask := 0x3FE } }, 9, by decide +kernel, by decide +kernel, by decide +kernel, by decide +kernel, by decide +kernel, by decide +kernel, by decide +kernel, by decide +kernel⟩

theorem test_meets_MaskWrites_2 :
    ∃ (v : Nat) (s : State), s.zewen.linkUp = true ∧ privView s true = true ∧ (∀ n, n < 10 → s.reg.intMask.getLsbD n = true → (BitVec.ofNat 10 v &&& 0x3FE).getLsbD n = false → s.reg.intStatus.getLsbD n = false) :=
  ⟨0, (box { state := .privileged } (up .configure)), by decide +kernel, by decide +kernel, by decide +kernel⟩

theorem test_meets_RegisterWrites_0 :
    ∃ (en : Nat), en % 16 ≠ 15 :=
  ⟨3, by decide +kernel⟩

theorem test_meets_RegisterWrites_1 :
    ∃ (clk : Nat) (en : Nat) (v : Nat) (s : State), let s1 := begin clk s; en % 16 = 15 ∧ v < 2 ^ 32 ∧ s.zewen.linkUp = true ∧ privView s true = true ∧ Reached s1 0x0A04 :=
  ⟨0, 15, 1, (box { state := .privileged } (up .configure)), by decide +kernel, by decide +kernel, by decide +kernel, by decide +kernel, ⟨by decide +kernel, by decide +kernel⟩⟩

theorem test_meets_RegisterWrites_2 :
    ∃ (clk : Nat) (en : Nat) (v : Nat) (s : State), let s1 := begin clk s; en % 16 = 15 ∧ v < 2 ^ 32 ∧ s.zewen.linkUp = true ∧ privView s true = true ∧ Reached s1 0x080C ∧ v / 2 ^ 15 % 2 = 1 :=
  ⟨0, 15, 0x8000, (box { state := .privileged } (up .configure)), by decide +kernel, by decide +kernel, by decide +kernel, by decide +kernel, ⟨by decide +kernel, by decide +kernel⟩, by decide +kernel⟩

theorem test_meets_RegisterWrites_3 :
    ∃ (clk : Nat) (en : Nat) (v : Nat) (s : State) (m : _), let s1 := begin clk s; en % 16 = 15 ∧ v < 2 ^ 32 ∧ s.zewen.linkUp = true ∧ m < 8 ∧ Reached s1 (0x0100 + 16 * m) :=
  ⟨0, 15, 1, (up .configure), 7, by decide +kernel, by decide +kernel, by decide +kernel, by decide +kernel, ⟨by decide +kernel, by decide +kernel⟩⟩

theorem test_meets_ViewsAndGatesProtect_0 :
    ∃ (clk : Nat) (v : Nat) (bar2 : Bool) (s : State) (c : _), s.zewen.linkUp = true ∧ privView s bar2 = false ∧ c ∈ [Instr.clearFirst clk bar2 v, .viewClear clk bar2 v, .intStatusClear clk bar2 v, .intMaskWrite clk bar2 v, .solverDoneClear clk bar2 v] :=
  ⟨0, 1, false, (up .configure), (.clearFirst 0 false 1), by decide +kernel, by decide +kernel, by decide +kernel⟩

theorem test_meets_ViewsAndGatesProtect_1 :
    ∃ (bar2 : Bool) (s : State), s.zewen.linkUp = true ∧ privView s bar2 = false :=
  ⟨false, (up .configure), by decide +kernel, by decide +kernel⟩

theorem test_meets_ViewsAndGatesProtect_2 :
    ∃ (bar2 : Bool) (s : State), s.zewen.linkUp = true ∧ privView s bar2 = false ∧ serverDown s (some (3, 5, 9)) = true :=
  ⟨false, ({ up .configure with power := { State.reset.power with on := 0xFDFF } }), by decide +kernel, by decide +kernel, by decide +kernel⟩

theorem test_meets_ViewsAndGatesProtect_3 :
    ∃ (m : Nat) (bar2 : Bool) (s : State), s.zewen.linkUp = true ∧ privView s bar2 = false ∧ m < 8 ∧ serverDown s (some (3, 3, 12)) = true :=
  ⟨7, false, ({ up .configure with power := { State.reset.power with on := 0xEFFF } }), by decide +kernel, by decide +kernel, by decide +kernel, by decide +kernel⟩

theorem test_meets_ViewsAndGatesProtect_4 :
    ∃ (s : State), s.zewen.linkUp = true ∧ privView s true = true ∧ serverDown s (some (3, 5, 9)) = true :=
  ⟨(box { state := .privileged } ({ up .configure with power := { State.reset.power with on := 0xFDFF } })), by decide +kernel, by decide +kernel, by decide +kernel⟩

theorem test_meets_ViewsAndGatesProtect_5 :
    ∃ (s : State), s.zewen.linkUp = true ∧ privView s true = true ∧ serverDown s (some (3, 5, 9)) = true :=
  ⟨(box { state := .privileged } ({ up .configure with power := { State.reset.power with on := 0xFDFF } })), by decide +kernel, by decide +kernel, by decide +kernel⟩

theorem test_meets_ObjectsRead_0 :
    ∃ (clk : Nat) (e0 : Entry) (e : Entry) (via : Transport) (s : State), let u := entered clk s via e; let ks := readKeys (entryArgs e); let priv := sessionPriv u e.mbx; let size := sumNat (ks.map (fun k => match objRow k with | some row => readSize u priv row k | none => 0)); Admitted (begin clk s) 0x0020 e0 via e ∧ Open (begin clk s) e ∧ objReadLen e = true ∧ ks ≠ [] ∧ ks.length ≤ 54 ∧ (∀ k ∈ ks, (objRow k).isSome = true) ∧ (priv = true → ∀ k ∈ ks, objectDown u k = false) ∧ resultFits e size = true :=
  ⟨0, (cmd 0x0020 [1, 0, 0, 0, 0x00, 0, 0x10, 0]), (cmd 0x0020 [1, 0, 0, 0, 0x00, 0, 0x10, 0]), .pcie, (sent .privileged (up .configure)), admitted_of (by decide +kernel), ⟨by decide +kernel, by decide +kernel⟩, by decide +kernel, by decide +kernel, by decide +kernel, by decide +kernel, by decide +kernel, by decide +kernel⟩

theorem test_meets_ObjectsRead_1 :
    ∃ (clk : Nat) (e0 : Entry) (e : Entry) (via : Transport) (s : State) (k : _) (row : _), let u := entered clk s via e; let ks := readKeys (entryArgs e); let priv := sessionPriv u e.mbx; let size := sumNat (ks.map (fun k => match objRow k with | some row => readSize u priv row k | none => 0)); Admitted (begin clk s) 0x0020 e0 via e ∧ Open (begin clk s) e ∧ objReadLen e = true ∧ ks = [k] ∧ objRow k = some row ∧ readCase u priv row k = .full ∧ resultFits e size = true :=
  ⟨0, (cmd 0x0020 [1, 0, 0, 0, 0x00, 0, 0x10, 0]), (cmd 0x0020 [1, 0, 0, 0, 0x00, 0, 0x10, 0]), .pcie, (sent .privileged (up .configure)), 0x100000, ((objRow 0x100000).get (by decide +kernel)), admitted_of (by decide +kernel), ⟨by decide +kernel, by decide +kernel⟩, by decide +kernel, by decide +kernel, (Option.some_get _).symm, by decide +kernel, by decide +kernel⟩

theorem test_meets_ObjectsRead_2 :
    ∃ (clk : Nat) (e0 : Entry) (e : Entry) (via : Transport) (s : State) (k : _) (row : _), let u := entered clk s via e; let ks := readKeys (entryArgs e); let priv := sessionPriv u e.mbx; let size := sumNat (ks.map (fun k => match objRow k with | some row => readSize u priv row k | none => 0)); let objs := oput s.objs k (min (freshCount u k) (oval s.objs k)); Admitted (begin clk s) 0x0020 e0 via e ∧ Open (begin clk s) e ∧ objReadLen e = true ∧ ks = [k] ∧ objRow k = some row ∧ row.acc = .rc ∧ derived u k = none ∧ readCase u priv row k = .full ∧ k ≠ 0x70000C ∧ k ≠ 0x100106 ∧ (k / 65536 ≠ 0x10 ∨ k / 256 < 0x1010 ∨ k % 256 ≠ 1) ∧ resultFits e size = true ∧ bit (oval objs (okey 0xA0 1 2)) 0 = false :=
  ⟨0, (cmd 0x0020 [1, 0, 0, 0, 0x08, 0x80, 0x60, 0]), (cmd 0x0020 [1, 0, 0, 0, 0x08, 0x80, 0x60, 0]), .pcie, (sent .privileged (up .configure)), 0x608008, ((objRow 0x608008).get (by decide +kernel)), admitted_of (by decide +kernel), ⟨by decide +kernel, by decide +kernel⟩, by decide +kernel, by decide +kernel, (Option.some_get _).symm, by decide +kernel, by decide +kernel, by decide +kernel, by decide +kernel, by decide +kernel, by decide +kernel, by decide +kernel, by decide +kernel⟩

theorem test_meets_ObjectsRead_3 :
    ∃ (clk : Nat) (e0 : Entry) (e : Entry) (via : Transport) (s : State), let ks := readKeys (entryArgs e); Admitted (begin clk s) 0x0020 e0 via e ∧ Open (begin clk s) e ∧ objReadLen e = true ∧ (ks = [] ∨ 54 < ks.length) :=
  ⟨0, (cmd 0x0020 [0, 0, 0, 0]), (cmd 0x0020 [0, 0, 0, 0]), .pcie, (sent .privileged (up .configure)), admitted_of (by decide +kernel), ⟨by decide +kernel, by decide +kernel⟩, by decide +kernel, by decide +kernel⟩

theorem test_meets_ObjectsRead_4 :
    ∃ (clk : Nat) (e0 : Entry) (e : Entry) (via : Transport) (s : State) (k : _), let ks := readKeys (entryArgs e); Admitted (begin clk s) 0x0020 e0 via e ∧ Open (begin clk s) e ∧ objReadLen e = true ∧ ks ≠ [] ∧ ks.length ≤ 54 ∧ ((indexed ks).find? (fun k => (objRow k.2).isNone) = some k) :=
  ⟨0, (cmd 0x0020 [1, 0, 0, 0, 0, 0, 0xEE, 0]), (cmd 0x0020 [1, 0, 0, 0, 0, 0, 0xEE, 0]), .pcie, (sent .privileged (up .configure)), (0, 0xEE0000), admitted_of (by decide +kernel), ⟨by decide +kernel, by decide +kernel⟩, by decide +kernel, by decide +kernel, by decide +kernel, by decide +kernel⟩

theorem test_meets_ObjectsRead_5 :
    ∃ (clk : Nat) (e0 : Entry) (e : Entry) (via : Transport) (s : State), let u := entered clk s via e; let ks := readKeys (entryArgs e); let priv := sessionPriv u e.mbx; let size := sumNat (ks.map (fun k => match objRow k with | some row => readSize u priv row k | none => 0)); Admitted (begin clk s) 0x0020 e0 via e ∧ Open (begin clk s) e ∧ objReadLen e = true ∧ ks ≠ [] ∧ ks.length ≤ 54 ∧ (∀ k ∈ ks, (objRow k).isSome = true) ∧ resultFits e size = false :=
  ⟨0, (cmd 0x0020 ([6, 0, 0, 0] ++ [0, 0, 0x10, 0] ++ [0, 0, 0x10, 0] ++ [0, 0, 0x10, 0] ++ [0, 0, 0x10, 0] ++ [0, 0, 0x10, 0] ++ [0, 0, 0x10, 0])), (cmd 0x0020 ([6, 0, 0, 0] ++ [0, 0, 0x10, 0] ++ [0, 0, 0x10, 0] ++ [0, 0, 0x10, 0] ++ [0, 0, 0x10, 0] ++ [0, 0, 0x10, 0] ++ [0, 0, 0x10, 0])), .pcie, (sent .privileged (up .configure)), admitted_of (by decide +kernel), ⟨by decide +kernel, by decide +kernel⟩, by decide +kernel, by decide +kernel, by decide +kernel, by decide +kernel, by decide +kernel⟩

theorem test_meets_ObjectsRead_6 :
    ∃ (clk : Nat) (e0 : Entry) (e : Entry) (via : Transport) (s : State) (k : _), let u := entered clk s via e; let ks := readKeys (entryArgs e); let priv := sessionPriv u e.mbx; let size := sumNat (ks.map (fun k => match objRow k with | some row => readSize u priv row k | none => 0)); Admitted (begin clk s) 0x0020 e0 via e ∧ Open (begin clk s) e ∧ objReadLen e = true ∧ ks ≠ [] ∧ ks.length ≤ 54 ∧ (∀ k ∈ ks, (objRow k).isSome = true) ∧ resultFits e size = true ∧ priv = true ∧ (ks.find? (fun k => objectDown u k) = some k) :=
  ⟨0, (cmd 0x0020 [1, 0, 0, 0, 0x00, 0, 0x80, 0]), (cmd 0x0020 [1, 0, 0, 0, 0x00, 0, 0x80, 0]), .pcie, (sent .privileged ({ up .configure with power := { State.reset.power with on := 0xFDFF } })), 0x800000, admitted_of (by decide +kernel), ⟨by decide +kernel, by decide +kernel⟩, by decide +kernel, by decide +kernel, by decide +kernel, by decide +kernel, by decide +kernel, by decide +kernel, by decide +kernel⟩

theorem test_meets_ObjectWritesWait_0 :
    ∃ (clk : Nat) (e0 : Entry) (e : Entry) (via : Transport) (s : State) (p : Nat × WriteRecord) (ps : List (Nat × WriteRecord)), let u := entered clk s via e; let priv := sessionPriv u e.mbx; let rs := (p :: ps).map (·.2); let applied := rs.filter (fun r => judgeForm u priv true r != some stViewLimited); let final := stageObjs (u.writes.foldl (fun f q => stageObjs f q.records) u.objs) applied; Admitted (begin clk s) 0x0021 e0 via e ∧ Open (begin clk s) e ∧ parseRecords (entryArgs e) = some (p :: ps) ∧ firstFailing u priv final 0 [] rs = none :=
  ⟨0, (cmd 0x0021 (wr 0xA00102 [0])), (cmd 0x0021 (wr 0xA00102 [0])), .pcie, (sent .privileged (up .configure)), (0, wrec 0xA00102 [0]), [], admitted_of (by decide +kernel), ⟨by decide +kernel, by decide +kernel⟩, by decide +kernel, by decide +kernel⟩

theorem test_meets_ObjectWritesWait_1 :
    ∃ (clk : Nat) (e0 : Entry) (e : Entry) (via : Transport) (s : State) (p : Nat × WriteRecord) (ps : List (Nat × WriteRecord)) (i : _) (r : _) (st : _) (key : _), let u := entered clk s via e; let priv := sessionPriv u e.mbx; let rs := (p :: ps).map (·.2); let applied := rs.filter (fun r => judgeForm u priv true r != some stViewLimited); let final := stageObjs (u.writes.foldl (fun f q => stageObjs f q.records) u.objs) applied; Admitted (begin clk s) 0x0021 e0 via e ∧ Open (begin clk s) e ∧ parseRecords (entryArgs e) = some (p :: ps) ∧ firstFailing u priv final 0 [] rs = some (i, r, st, key) :=
  ⟨0, (cmd 0x0021 (recordForm 0xEE0000 1 [0])), (cmd 0x0021 (recordForm 0xEE0000 1 [0])), .pcie, (sent .privileged (up .configure)), (0, { key := 0xEE0000, type := 1, value := [0] }), [], 0, { key := 0xEE0000, type := 1, value := [0] }, stNoObject, false, admitted_of (by decide +kernel), ⟨by decide +kernel, by decide +kernel⟩, by decide +kernel, by decide +kernel⟩

theorem test_meets_ObjectWritesWait_2 :
    ∃ (clk : Nat) (e0 : Entry) (e : Entry) (via : Transport) (s : State), Admitted (begin clk s) 0x0021 e0 via e ∧ Open (begin clk s) e ∧ (parseRecords (entryArgs e)).getD [] = [] :=
  ⟨0, (cmd 0x0021 []), (cmd 0x0021 []), .pcie, (sent .privileged (up .configure)), admitted_of (by decide +kernel), ⟨by decide +kernel, by decide +kernel⟩, by decide +kernel⟩

theorem test_meets_ObjectWritesApplied_0 :
    ∃ (clk : Nat) (s : State) (q : QueuedWrite) (rest : List QueuedWrite) (r : WriteRecord), let objs := oput s.objs r.key (leNat r.value); s.writes = q :: rest ∧ q.records = [r] ∧ s.herd.running = true ∧ s.solver.waits = [] ∧ actionOf { begin clk s with writes := rest } r = none ∧ startsRun r = false ∧ r.key / 65536 ∉ [0x80, 0x90] ∧ s.mode.resetFinal = false ∧ q.due = true ∧ bit (oval objs (okey 0xA0 1 2)) 0 = false :=
  ⟨0, ({ up .configure with writes := [{ origin := from_ 0x21, records := [wrec 0xA00102 [4]], limited := false, due := true }] }), { origin := from_ 0x21, records := [wrec 0xA00102 [4]], limited := false, due := true }, [], (wrec 0xA00102 [4]), by decide +kernel, by decide +kernel, by decide +kernel, by decide +kernel, by decide +kernel, by decide +kernel, by decide +kernel, by decide +kernel, by decide +kernel, by decide +kernel⟩

theorem test_meets_ObjectWritesApplied_1 :
    ∃ (clk : Nat) (s : State) (q : QueuedWrite) (rest : List QueuedWrite) (r : WriteRecord), s.writes = q :: rest ∧ q.records = [r] ∧ s.herd.running = true ∧ s.solver.waits = [] ∧ actionOf { begin clk s with writes := rest } r = none ∧ startsRun r = false ∧ r.key / 65536 ∉ [0x80, 0x90] ∧ s.mode.resetFinal = false ∧ q.due = false :=
  ⟨0, ({ up .configure with writes := [{ origin := from_ 0x21, records := [wrec 0xA00102 [4]], limited := false, due := false }] }), { origin := from_ 0x21, records := [wrec 0xA00102 [4]], limited := false, due := false }, [], (wrec 0xA00102 [4]), by decide +kernel, by decide +kernel, by decide +kernel, by decide +kernel, by decide +kernel, by decide +kernel, by decide +kernel, by decide +kernel, by decide +kernel⟩

theorem test_meets_ObjectWritesApplied_2 :
    ∃ (s : State) (q : QueuedWrite) (rest : List QueuedWrite), s.writes = q :: rest ∧ q.records.any closesGate = true ∧ s.mode.resetFinal = false :=
  ⟨({ up .configure with writes := [{ origin := from_ 0x21, records := [{ key := 0xB02002, type := 1, value := [1] }], limited := false }] }), { origin := from_ 0x21, records := [{ key := 0xB02002, type := 1, value := [1] }], limited := false }, [], by decide +kernel, by decide +kernel, by decide +kernel⟩

theorem test_meets_ImagesLoaded_0 :
    ∃ (clk : Nat) (e0 : Entry) (e : Entry) (via : Transport) (s : State), Admitted (begin clk s) 0x0030 e0 via e ∧ Privileged (begin clk s) e ∧ s.mode.mode = .configure ∧ inTransition s = false ∧ (entryArgs e).length = 16 ∧ 96 ≤ le (entryArgs e) 0 4 ∧ le (entryArgs e) 0 4 ≤ 33554432 ∧ s.start.storedCheck = false ∧ (∀ g, s.image.staging = some g → g.mbx = e.mbx) ∧ (∀ c o, s.image.commit = some c → c.origin = some o → o.mbx ≠ e.mbx) :=
  ⟨0, (cmd 0x0030 (leBytes 4 96 ++ zeros 12)), (cmd 0x0030 (leBytes 4 96 ++ zeros 12)), .pcie, (sent .privileged (up .configure)), admitted_of (by decide +kernel), ⟨by decide +kernel, by decide +kernel⟩, by decide +kernel, by decide +kernel, by decide +kernel, by decide +kernel, by decide +kernel, by decide +kernel, all_some (by decide +kernel), fun _ _ h => nomatch h⟩

theorem test_meets_ImagesLoaded_1 :
    ∃ (clk : Nat) (e0 : Entry) (e : Entry) (via : Transport) (s : State) (g : Staging), Admitted (begin clk s) 0x0031 e0 via e ∧ Privileged (begin clk s) e ∧ s.mode.mode = .configure ∧ inTransition s = false ∧ (if e.flags.getLsbD 0 then e.argLen = 8 ∨ (e.argLen = 0 ∧ 8 ≤ e.bulkLen) else 8 ≤ e.argLen) ∧ s.image.staging = some g ∧ g.mbx = e.mbx ∧ (imageChunk e).1 + (imageChunk e).2.length ≤ g.total :=
  ⟨0, (cmd 0x0031 (leBytes 4 92 ++ zeros 4 ++ [1, 2, 3, 4])), (cmd 0x0031 (leBytes 4 92 ++ zeros 4 ++ [1, 2, 3, 4])), .pcie, (sent .privileged ({ up .configure with image := { State.reset.image with staging := some { mbx := 0, total := 96, imageId := 1, base := [] } } })), { mbx := 0, total := 96, imageId := 1, base := [] }, admitted_of (by decide +kernel), ⟨by decide +kernel, by decide +kernel⟩, by decide +kernel, by decide +kernel, by decide +kernel, by decide +kernel, by decide +kernel, by decide +kernel⟩

theorem test_meets_ImagesLoaded_2 :
    ∃ (clk : Nat) (e0 : Entry) (e : Entry) (via : Transport) (s : State) (g : Staging), Admitted (begin clk s) 0x0032 e0 via e ∧ Privileged (begin clk s) e ∧ s.mode.mode = .configure ∧ inTransition s = false ∧ (entryArgs e).length = 1 ∧ s.start.storedCheck = false ∧ s.image.staging = some g ∧ g.mbx = e.mbx ∧ s.image.commit = none :=
  ⟨0, (cmd 0x0032 [1]), (cmd 0x0032 [1]), .pcie, (sent .privileged ({ up .configure with image := { State.reset.image with staging := some { mbx := 0, total := 96, imageId := 1, base := [] } } })), { mbx := 0, total := 96, imageId := 1, base := [] }, admitted_of (by decide +kernel), ⟨by decide +kernel, by decide +kernel⟩, by decide +kernel, by decide +kernel, by decide +kernel, by decide +kernel, by decide +kernel, by decide +kernel, by decide +kernel⟩

theorem test_meets_ImagesLoaded_3 :
    ∃ (clk : Nat) (e0 : Entry) (e : Entry) (via : Transport) (s : State) (c : _) (o : _), Admitted (begin clk s) 0x0033 e0 via e ∧ Privileged (begin clk s) e ∧ s.mode.mode = .configure ∧ (entryArgs e).length = 0 ∧ s.image.commit = some c ∧ c.origin = some o ∧ o.mbx = e.mbx :=
  ⟨0, (cmd 0x0033 []), (cmd 0x0033 []), .pcie, (sent .privileged ({ up .configure with image := { State.reset.image with commit := some { origin := some (from_ 0x32), checkOnly := true, image := [], base := [] } } })), { origin := some (from_ 0x32), checkOnly := true, image := [], base := [] }, (from_ 0x32), admitted_of (by decide +kernel), ⟨by decide +kernel, by decide +kernel⟩, by decide +kernel, by decide +kernel, by decide +kernel, by decide +kernel, by decide +kernel⟩

theorem test_meets_ImagesLoaded_4 :
    ∃ (clk : Nat) (e0 : Entry) (e : Entry) (via : Transport) (s : State), Admitted (begin clk s) 0x0033 e0 via e ∧ Privileged (begin clk s) e ∧ s.mode.mode = .configure ∧ (entryArgs e).length = 0 ∧ (∀ c o, s.image.commit = some c → c.origin = some o → o.mbx ≠ e.mbx) :=
  ⟨0, (cmd 0x0033 []), (cmd 0x0033 []), .pcie, (sent .privileged (up .configure)), admitted_of (by decide +kernel), ⟨by decide +kernel, by decide +kernel⟩, by decide +kernel, by decide +kernel, fun _ _ h => nomatch h⟩

theorem test_meets_ImagesChecked_0 :
    ∃ (clk : Nat) (s : State) (c : Commit) (o : Origin) (f : _), s.image.commit = some c ∧ c.passed = false ∧ s.mode.mode = .configure ∧ s.mode.resetFinal = false ∧ c.origin = some o ∧ configCheck (begin clk s) c = .error f :=
  ⟨0, ({ up .configure with image := { State.reset.image with commit := some { origin := some (from_ 0x32), checkOnly := true, image := [], base := [] } } }), { origin := some (from_ 0x32), checkOnly := true, image := [], base := [] }, (from_ 0x32), ((check1 []).getD { check := 0, kind := 0 }), by decide +kernel, by decide +kernel, by decide +kernel, by decide +kernel, by decide +kernel, rfl⟩

theorem test_meets_ImagesChecked_1 :
    ∃ (clk : Nat) (s : State) (c : Commit) (o : Origin) (taken : _), s.image.commit = some c ∧ c.passed = false ∧ s.mode.mode = .configure ∧ s.mode.resetFinal = false ∧ c.origin = some o ∧ configCheck (begin clk s) c = .ok taken ∧ c.checkOnly = true :=
  ⟨0, (checking true), (passing true), (from_ 0x32), none, by decide +kernel, by decide +kernel, by decide +kernel, by decide +kernel, by decide +kernel, checking_ok_true, by decide +kernel⟩

theorem test_meets_ImagesChecked_2 :
    ∃ (clk : Nat) (s : State) (c : Commit) (o : Origin) (taken : _), s.image.commit = some c ∧ c.passed = false ∧ s.mode.mode = .configure ∧ s.mode.resetFinal = false ∧ c.origin = some o ∧ configCheck (begin clk s) c = .ok taken ∧ c.checkOnly = false ∧ c.peer = false :=
  ⟨0, (checking false), (passing false), (from_ 0x32), none, by decide +kernel, by decide +kernel, by decide +kernel, by decide +kernel, by decide +kernel, checking_ok_false, by decide +kernel, by decide +kernel⟩

theorem test_meets_SetModeJudged_0 :
    ∃ (clk : Nat) (e0 : Entry) (e : Entry) (via : Transport) (s : State), let code := le (entryArgs e) 0 1; Admitted (begin clk s) 0x0012 e0 via e ∧ Open (begin clk s) e ∧ (entryArgs e).length = 1 ∧ ((mbx s e.mbx).state = .privileged ∨ le (entryArgs e) 0 1 = 4) ∧ inTransition s = false ∧ 6 ≤ code :=
  ⟨0, (cmd 0x0012 [6]), (cmd 0x0012 [6]), .pcie, (sent .privileged (up .configure)), admitted_of (by decide +kernel), ⟨by decide +kernel, by decide +kernel⟩, by decide +kernel, by decide +kernel, by decide +kernel, by decide +kernel⟩

theorem test_meets_SetModeJudged_1 :
    ∃ (clk : Nat) (e0 : Entry) (e : Entry) (via : Transport) (s : State) (x : _), let code := le (entryArgs e) 0 1; let m := modeOf code; Admitted (begin clk s) 0x0012 e0 via e ∧ Open (begin clk s) e ∧ (entryArgs e).length = 1 ∧ ((mbx s e.mbx).state = .privileged ∨ le (entryArgs e) 0 1 = 4) ∧ targetInForce s = some x ∧ modeRank m ≤ modeRank x :=
  ⟨0, (cmd 0x0012 [4]), (cmd 0x0012 [4]), .pcie, (sent .opened ({ up .run with mode := { (up .run).mode with target := some .fault } })), .fault, admitted_of (by decide +kernel), ⟨by decide +kernel, by decide +kernel⟩, by decide +kernel, by decide +kernel, by decide +kernel, by decide +kernel⟩

theorem test_meets_SetModeJudged_2 :
    ∃ (clk : Nat) (e0 : Entry) (e : Entry) (via : Transport) (s : State), let code := le (entryArgs e) 0 1; let m := modeOf code; Admitted (begin clk s) 0x0012 e0 via e ∧ Open (begin clk s) e ∧ (entryArgs e).length = 1 ∧ ((mbx s e.mbx).state = .privileged ∨ le (entryArgs e) 0 1 = 4) ∧ code < 6 ∧ m = s.mode.mode ∧ inTransition s = false :=
  ⟨0, (cmd 0x0012 [1]), (cmd 0x0012 [1]), .pcie, (sent .privileged (up .configure)), admitted_of (by decide +kernel), ⟨by decide +kernel, by decide +kernel⟩, by decide +kernel, by decide +kernel, by decide +kernel, by decide +kernel, by decide +kernel⟩

theorem test_meets_SetModeJudged_3 :
    ∃ (clk : Nat) (e0 : Entry) (e : Entry) (via : Transport) (s : State), let u := entered clk s via e; let code := le (entryArgs e) 0 1; let m := modeOf code; Admitted (begin clk s) 0x0012 e0 via e ∧ Open (begin clk s) e ∧ (entryArgs e).length = 1 ∧ ((mbx s e.mbx).state = .privileged ∨ le (entryArgs e) 0 1 = 4) ∧ code < 6 ∧ m ≠ s.mode.mode ∧ inTransition s = false ∧ rowOpen u m = true ∧ ¬(m = .configure ∧ s.mode.mode = .fault) :=
  ⟨0, (cmd 0x0012 [4]), (cmd 0x0012 [4]), .pcie, (sent .opened (up .run)), admitted_of (by decide +kernel), ⟨by decide +kernel, by decide +kernel⟩, by decide +kernel, by decide +kernel, by decide +kernel, by decide +kernel, by decide +kernel, by decide +kernel, by decide +kernel⟩

theorem test_meets_SetModeJudged_4 :
    ∃ (clk : Nat) (e0 : Entry) (e : Entry) (via : Transport) (s : State) (x : _), let u := entered clk s via e; let code := le (entryArgs e) 0 1; let m := modeOf code; Admitted (begin clk s) 0x0012 e0 via e ∧ Open (begin clk s) e ∧ (entryArgs e).length = 1 ∧ ((mbx s e.mbx).state = .privileged ∨ le (entryArgs e) 0 1 = 4) ∧ code < 6 ∧ targetInForce s = some x ∧ modeRank x < modeRank m ∧ rowOpen u m = true :=
  ⟨0, (cmd 0x0012 [4]), (cmd 0x0012 [4]), .pcie, (sent .opened ({ up .run with mode := { (up .run).mode with target := some .commission } })), .commission, admitted_of (by decide +kernel), ⟨by decide +kernel, by decide +kernel⟩, by decide +kernel, by decide +kernel, by decide +kernel, by decide +kernel, by decide +kernel, by decide +kernel⟩

theorem test_meets_SetModeJudged_5 :
    ∃ (clk : Nat) (e0 : Entry) (e : Entry) (via : Transport) (s : State), let u := entered clk s via e; let code := le (entryArgs e) 0 1; let m := modeOf code; Admitted (begin clk s) 0x0012 e0 via e ∧ Open (begin clk s) e ∧ (entryArgs e).length = 1 ∧ ((mbx s e.mbx).state = .privileged ∨ le (entryArgs e) 0 1 = 4) ∧ code < 6 ∧ m ≠ s.mode.mode ∧ inTransition s = false ∧ rowOpen u m = false ∧ ¬(m = .configure ∧ s.mode.mode = .fault) :=
  ⟨0, (cmd 0x0012 [3]), (cmd 0x0012 [3]), .pcie, (sent .privileged (up .configure)), admitted_of (by decide +kernel), ⟨by decide +kernel, by decide +kernel⟩, by decide +kernel, by decide +kernel, by decide +kernel, by decide +kernel, by decide +kernel, by decide +kernel, by decide +kernel⟩

theorem test_meets_FaultLeft_0 :
    ∃ (clk : Nat) (e0 : Entry) (e : Entry) (via : Transport) (s : State), Admitted (begin clk s) 0x0012 e0 via e ∧ Privileged (begin clk s) e ∧ (entryArgs e).length = 1 ∧ le (entryArgs e) 0 1 = 1 ∧ s.mode.mode = .fault ∧ inTransition s = false ∧ (∀ x, s.mode.resetEdge = some x → x + 10000000000 ≤ now (begin clk s)) :=
  ⟨0, (cmd 0x0012 [1]), (cmd 0x0012 [1]), .pcie, (sent .privileged (up .fault)), admitted_of (by decide +kernel), ⟨by decide +kernel, by decide +kernel⟩, by decide +kernel, by decide +kernel, by decide +kernel, by decide +kernel, all_some (by decide +kernel)⟩

theorem test_meets_FaultLeft_1 :
    ∃ (clk : Nat) (e0 : Entry) (e : Entry) (via : Transport) (s : State) (x : _), let u := entered clk s via e; Admitted (begin clk s) 0x0012 e0 via e ∧ Privileged (begin clk s) e ∧ (entryArgs e).length = 1 ∧ le (entryArgs e) 0 1 = 1 ∧ s.mode.mode = .fault ∧ inTransition s = false ∧ s.mode.resetEdge = some x ∧ now (begin clk s) < x + 10000000000 ∧ faultLasts u = true :=
  ⟨0, (cmd 0x0012 [1]), (cmd 0x0012 [1]), .pcie, (sent .privileged ({ up .fault with mode := { (up .fault).mode with resetEdge := some 0 , causes := [.untilReset], isolated := [(4, 0)] } })), 0, admitted_of (by decide +kernel), ⟨by decide +kernel, by decide +kernel⟩, by decide +kernel, by decide +kernel, by decide +kernel, by decide +kernel, by decide +kernel, by decide +kernel, by decide +kernel⟩

theorem test_meets_FaultLeft_2 :
    ∃ (clk : Nat) (e0 : Entry) (e : Entry) (via : Transport) (s : State) (x : _), let u := entered clk s via e; Admitted (begin clk s) 0x0012 e0 via e ∧ Privileged (begin clk s) e ∧ (entryArgs e).length = 1 ∧ le (entryArgs e) 0 1 = 1 ∧ s.mode.mode = .fault ∧ inTransition s = false ∧ s.mode.resetEdge = some x ∧ now (begin clk s) < x + 10000000000 ∧ faultLasts u = false ∧ s.mode.faultInBoot = false :=
  ⟨0, (cmd 0x0012 [1]), (cmd 0x0012 [1]), .pcie, (sent .privileged ({ up .fault with mode := { (up .fault).mode with resetEdge := some 0  } })), 0, admitted_of (by decide +kernel), ⟨by decide +kernel, by decide +kernel⟩, by decide +kernel, by decide +kernel, by decide +kernel, by decide +kernel, by decide +kernel, by decide +kernel, by decide +kernel, by decide +kernel⟩

theorem test_meets_FaultLeft_3 :
    ∃ (clk : Nat) (e0 : Entry) (e : Entry) (via : Transport) (s : State) (x : _), let u := entered clk s via e; Admitted (begin clk s) 0x0012 e0 via e ∧ Privileged (begin clk s) e ∧ (entryArgs e).length = 1 ∧ le (entryArgs e) 0 1 = 1 ∧ s.mode.mode = .fault ∧ inTransition s = false ∧ s.mode.resetEdge = some x ∧ now (begin clk s) < x + 10000000000 ∧ faultLasts u = false ∧ s.mode.faultInBoot = true ∧ s.herd.running = true :=
  ⟨0, (cmd 0x0012 [1]), (cmd 0x0012 [1]), .pcie, (sent .privileged ({ up .fault with mode := { (up .fault).mode with resetEdge := some 0, faultInBoot := true } })), 0, admitted_of (by decide +kernel), ⟨by decide +kernel, by decide +kernel⟩, by decide +kernel, by decide +kernel, by decide +kernel, by decide +kernel, by decide +kernel, by decide +kernel, by decide +kernel, by decide +kernel, by decide +kernel⟩

theorem test_meets_FaultLeft_4 :
    ∃ (clk : Nat) (e0 : Entry) (e : Entry) (via : Transport) (s : State) (x : _), let u := entered clk s via e; Admitted (begin clk s) 0x0012 e0 via e ∧ Privileged (begin clk s) e ∧ (entryArgs e).length = 1 ∧ le (entryArgs e) 0 1 = 1 ∧ s.mode.mode = .fault ∧ inTransition s = false ∧ s.mode.resetEdge = some x ∧ now (begin clk s) < x + 10000000000 ∧ faultLasts u = false ∧ s.mode.faultInBoot = true ∧ s.herd.running = false :=
  ⟨0, (cmd 0x0012 [1]), (cmd 0x0012 [1]), .pcie, (sent .privileged ({ up .fault with mode := { (up .fault).mode with resetEdge := some 0, faultInBoot := true }, herd := { (up .fault).herd with running := false } })), 0, admitted_of (by decide +kernel), ⟨by decide +kernel, by decide +kernel⟩, by decide +kernel, by decide +kernel, by decide +kernel, by decide +kernel, by decide +kernel, by decide +kernel, by decide +kernel, by decide +kernel, by decide +kernel⟩

theorem test_meets_ResetsAndTransitions_0 :
    ∃ (clk : Nat) (e0 : Entry) (e : Entry) (via : Transport) (s : State), Admitted (begin clk s) 0x0011 e0 via e ∧ Privileged (begin clk s) e ∧ (entryArgs e).length = 0 ∧ s.mode.resetPosted = none :=
  ⟨0, (cmd 0x0011 []), (cmd 0x0011 []), .pcie, (sent .privileged (up .configure)), admitted_of (by decide +kernel), ⟨by decide +kernel, by decide +kernel⟩, by decide +kernel, by decide +kernel⟩

theorem test_meets_ResetsAndTransitions_1 :
    ∃ (clk : Nat) (e0 : Entry) (e : Entry) (via : Transport) (s : State), Admitted (begin clk s) 0x0011 e0 via e ∧ Privileged (begin clk s) e ∧ (entryArgs e).length = 0 ∧ s.mode.resetPosted.isSome = true :=
  ⟨0, (cmd 0x0011 []), (cmd 0x0011 []), .pcie, (sent .privileged ({ up .run with mode := { (up .run).mode with resetPosted := some 0 }, clock := 0 })), admitted_of (by decide +kernel), ⟨by decide +kernel, by decide +kernel⟩, by decide +kernel, by decide +kernel⟩

theorem test_meets_ResetsAndTransitions_2 :
    ∃ (clk : Nat) (c : Nat) (s : State), s.mode.resetPosted = some c ∧ (begin clk s).clock < c + 25000 :=
  ⟨0, 0, ({ up .run with mode := { (up .run).mode with resetPosted := some 0 }, clock := 24999 }), by decide +kernel, by decide +kernel⟩

theorem test_meets_ResetsAndTransitions_3 :
    ∃ (clk : Nat) (c : Nat) (s : State), s.mode.resetPosted = some c ∧ c + 25000 ≤ (begin clk s).clock ∧ s.start.running = false :=
  ⟨0, 0, ({ up .run with mode := { (up .run).mode with resetPosted := some 0 }, clock := 25000 }), by decide +kernel, by decide +kernel, by decide +kernel⟩

theorem test_meets_ResetsAndTransitions_4 :
    ∃ (s : State), s.mode.resetFinal = true :=
  ⟨{ State.reset with mode := { State.reset.mode with resetFinal := true } }, by decide +kernel⟩

theorem test_meets_ResetsAndTransitions_5 :
    ∃ (clk : Nat) (s : State) (x : Mode), s.mode.target = some x ∧ s.mode.complete = false ∧ targetReached (begin clk s) x = true ∧ s.mode.resetFinal = false :=
  ⟨0, ({ up .configure with mode := { (up .configure).mode with target := some .configure } }), .configure, by decide +kernel, by decide +kernel, by decide +kernel, by decide +kernel⟩

theorem test_meets_ResetsAndTransitions_6 :
    ∃ (clk : Nat) (s : State) (x : Mode), s.mode.target = some x ∧ s.mode.complete = false ∧ targetReached (begin clk s) x = false :=
  ⟨0, ({ up .configure with mode := { (up .configure).mode with target := some .boot } }), .boot, by decide +kernel, by decide +kernel, by decide +kernel⟩

theorem test_meets_ResetsAndTransitions_7 :
    ∃ (clk : Nat) (x : Nat) (s : State), s.mode.resetEdge = some x ∧ x + 10000000000 ≤ now (begin clk s) :=
  ⟨0, 0, ({ up .fault with mode := { (up .fault).mode with resetEdge := some 0 }, herd := { (up .fault).herd with ht := 10000000000 } }), by decide +kernel, by decide +kernel⟩

theorem test_meets_MotionCommandsWait_0 :
    ∃ (clk : Nat) (e0 : Entry) (e : Entry) (via : Transport) (s : State), let u := entered clk s via e; let a := entryArgs e; let f := fun i => (BitVec.ofNat 32 (le a i 4) : F32); let ch := le a 0 1; let t0 := toCounts s.objs ch (BitVec.ofNat 64 (le a 16 8)); let target := if bit (le a 1 1) 0 then dAdd (q32ToD (targetOf u ch)) t0 else t0; Privileged (begin clk s) e ∧ inTransition s = false ∧ profDown (entered clk s via e) = false ∧ Admitted (begin clk s) 0x0040 e0 via e ∧ motionModes.contains s.mode.mode = true ∧ a.length = 24 ∧ chanPresent s.objs ch = true ∧ argLimitOk u ch 3 (f 4) = true ∧ argLimitOk u ch 4 (f 8) = true ∧ argLimitOk u ch 5 (f 12) = true ∧ insideSoft s.objs ch target = true :=
  ⟨0, (cmd 0x0040 (zeros 24)), (cmd 0x0040 (zeros 24)), .pcie, (sent .privileged (up .run [(0x100000, 1), (0x100001, 1)])), ⟨by decide +kernel, by decide +kernel⟩, by decide +kernel, by decide +kernel, admitted_of (by decide +kernel), by decide +kernel, by decide +kernel, by decide +kernel, by decide +kernel, by decide +kernel, by decide +kernel, by decide +kernel⟩

theorem test_meets_MotionCommandsWait_1 :
    ∃ (clk : Nat) (e0 : Entry) (e : Entry) (via : Transport) (s : State), let u := entered clk s via e; let a := entryArgs e; let f := fun i => (BitVec.ofNat 32 (le a i 4) : F32); let arm := le a 0 1; let target := ((List.range 8).map (fun j => arm * 8 + j)).map (fun ch => let x := toCounts s.objs ch (BitVec.ofNat 64 (le a (8 + 8 * (ch % 8)) 8)); if bit (le a 1 1) 0 then dAdd (q32ToD (targetOf u ch)) x else x); Privileged (begin clk s) e ∧ inTransition s = false ∧ profDown (entered clk s via e) = false ∧ Admitted (begin clk s) 0x0041 e0 via e ∧ motionModes.contains s.mode.mode = true ∧ a.length = 72 ∧ arm < 8 ∧ armPresent s.objs arm = true ∧ fLt 0 (f 4) = true ∧ fLe (f 4) (fOfInt 1) = true ∧ ((((List.range 8).map (fun j => arm * 8 + j)).filter (jointPresent s.objs)).all (fun ch => insideSoft s.objs ch (nth 0 target (ch % 8))) = true) :=
  ⟨0, (cmd 0x0041 (zeros 4 ++ leBytes 4 0x3F800000 ++ zeros 64)), (cmd 0x0041 (zeros 4 ++ leBytes 4 0x3F800000 ++ zeros 64)), .pcie, (sent .privileged (up .run [(0x100000, 1), (0x100001, 1)])), ⟨by decide +kernel, by decide +kernel⟩, by decide +kernel, by decide +kernel, admitted_of (by decide +kernel), by decide +kernel, by decide +kernel, by decide +kernel, by decide +kernel, by decide +kernel, by decide +kernel, by decide +kernel⟩

theorem test_meets_MotionCommandsWait_2 :
    ∃ (clk : Nat) (e0 : Entry) (e : Entry) (via : Transport) (s : State), let a := entryArgs e; let ch := le a 0 1; let ratio := BitVec.ofNat 64 (le a 8 8); let endPos := toCounts s.objs ch (BitVec.ofNat 64 (le a 24 8)); Privileged (begin clk s) e ∧ inTransition s = false ∧ profDown (entered clk s via e) = false ∧ Admitted (begin clk s) 0x0042 e0 via e ∧ s.mode.mode = .run ∧ a.length = 32 ∧ chanPresent s.objs ch = true ∧ le a 1 1 < 8 ∧ dEq ratio 0 = false ∧ dFinite ratio = true ∧ insideSoft s.objs ch endPos = true :=
  ⟨0, (cmd 0x0042 (zeros 8 ++ leBytes 8 0x3FF0000000000000 ++ zeros 16)), (cmd 0x0042 (zeros 8 ++ leBytes 8 0x3FF0000000000000 ++ zeros 16)), .pcie, (sent .privileged (up .run [(0x100000, 1), (0x100001, 1)])), ⟨by decide +kernel, by decide +kernel⟩, by decide +kernel, by decide +kernel, admitted_of (by decide +kernel), by decide +kernel, by decide +kernel, by decide +kernel, by decide +kernel, by decide +kernel, by decide +kernel, by decide +kernel⟩

theorem test_meets_MotionCommandsWait_3 :
    ∃ (clk : Nat) (e0 : Entry) (e : Entry) (via : Transport) (s : State), let a := entryArgs e; Privileged (begin clk s) e ∧ profDown (entered clk s via e) = false ∧ Admitted (begin clk s) 0x0044 e0 via e ∧ s.mode.mode = .commission ∧ inTransition s = false ∧ a.length = 8 ∧ chanPresent s.objs (le a 0 1) = true ∧ -1 ≤ sext 8 (le a 1 1) ∧ sext 8 (le a 1 1) ≤ 1 ∧ fLe 0 (BitVec.ofNat 32 (le a 4 4)) = true ∧ fLe (BitVec.ofNat 32 (le a 4 4)) (obF s.objs 0x21 (le a 0 1) 6) = true :=
  ⟨0, (cmd 0x0044 ([0, 255] ++ zeros 6)), (cmd 0x0044 ([0, 255] ++ zeros 6)), .pcie, (sent .privileged (up .commission [(0x100000, 1), (0x100001, 1)])), ⟨by decide +kernel, by decide +kernel⟩, by decide +kernel, admitted_of (by decide +kernel), by decide +kernel, by decide +kernel, by decide +kernel, by decide +kernel, by decide +kernel, by decide +kernel, by decide +kernel, by decide +kernel⟩

theorem test_meets_MotionCommandsWait_4 :
    ∃ (clk : Nat) (e0 : Entry) (e : Entry) (via : Transport) (s : State), let a := entryArgs e; Privileged (begin clk s) e ∧ profDown (entered clk s via e) = false ∧ Admitted (begin clk s) 0x0043 e0 via e ∧ motionModes.contains s.mode.mode = true ∧ a.length = 2 ∧ ((le a 0 1 = 0 ∧ chanPresent s.objs (le a 1 1) = true) ∨ (le a 0 1 = 1 ∧ le a 1 1 < 8 ∧ armPresent s.objs (le a 1 1) = true)) :=
  ⟨0, (cmd 0x0043 [1, 0]), (cmd 0x0043 [1, 0]), .pcie, (sent .privileged (up .run [(0x100000, 1), (0x100001, 1)])), ⟨by decide +kernel, by decide +kernel⟩, by decide +kernel, admitted_of (by decide +kernel), by decide +kernel, by decide +kernel, by decide +kernel⟩

theorem test_meets_MotionCommandsWait_5 :
    ∃ (clk : Nat) (e0 : Entry) (e : Entry) (via : Transport) (s : State), let a := entryArgs e; Privileged (begin clk s) e ∧ profDown (entered clk s via e) = false ∧ Admitted (begin clk s) 0x0045 e0 via e ∧ s.mode.mode = .commission ∧ inTransition s = false ∧ a.length = 1 ∧ resultFits e 72 = true ∧ le a 0 1 < 8 ∧ armPresent s.objs (le a 0 1) = true :=
  ⟨0, (cmdOut 0x0045 72 [0]), (cmdOut 0x0045 72 [0]), .pcie, (sent .privileged (up .commission [(0x100000, 1), (0x100001, 1)])), ⟨by decide +kernel, by decide +kernel⟩, by decide +kernel, admitted_of (by decide +kernel), by decide +kernel, by decide +kernel, by decide +kernel, by decide +kernel, by decide +kernel, by decide +kernel⟩

theorem test_meets_ZonesAndPathsWait_0 :
    ∃ (clk : Nat) (e0 : Entry) (e : Entry) (via : Transport) (s : State), let a := entryArgs e; Privileged (begin clk s) e ∧ inTransition s = false ∧ motionModes.contains s.mode.mode = true ∧ blockDown s 2 4 7 = false ∧ Admitted (begin clk s) 0x0050 e0 via e ∧ a.length = 24 ∧ zoneRequestOk (entered clk s via e) (le a 0 1) (le a 1 1) (le a 8 8) (le a 16 8) = true ∧ (bit (le a 3 1) 0 = true → pendingCount s < 512) :=
  ⟨0, (cmd 0x0050 ([0, 1] ++ zeros 6 ++ leBytes 8 0 ++ leBytes 8 2000000000)), (cmd 0x0050 ([0, 1] ++ zeros 6 ++ leBytes 8 0 ++ leBytes 8 2000000000)), .pcie, (sent .privileged (up .run [(0x100000, 1), (0x100001, 1), (0x400100, 1)])), ⟨by decide +kernel, by decide +kernel⟩, by decide +kernel, by decide +kernel, by decide +kernel, admitted_of (by decide +kernel), by decide +kernel, by decide +kernel, by decide +kernel⟩

theorem test_meets_ZonesAndPathsWait_1 :
    ∃ (clk : Nat) (e0 : Entry) (e : Entry) (via : Transport) (s : State) (l : _), let a := entryArgs e; Privileged (begin clk s) e ∧ inTransition s = false ∧ motionModes.contains s.mode.mode = true ∧ blockDown s 2 4 7 = false ∧ Admitted (begin clk s) 0x0051 e0 via e ∧ a.length = 16 ∧ (s.piste.leases.find? (fun l => l.id = le a 0 4) = some l) ∧ l.finish < le a 8 8 ∧ le a 8 8 - l.finish ≤ 2000000000 :=
  ⟨0, (cmd 0x0051 (leBytes 4 1 ++ zeros 4 ++ leBytes 8 2000000010)), (cmd 0x0051 (leBytes 4 1 ++ zeros 4 ++ leBytes 8 2000000010)), .pcie, (sent .privileged ({ up .run [(0x100000, 1), (0x100001, 1), (0x400100, 1)] with piste := { State.reset.piste with leases := [{ id := 1, arm := 0, zone := 1, start := 0, finish := 10 }] } })), { id := 1, arm := 0, zone := 1, start := 0, finish := 10 }, ⟨by decide +kernel, by decide +kernel⟩, by decide +kernel, by decide +kernel, by decide +kernel, admitted_of (by decide +kernel), by decide +kernel, by decide +kernel, by decide +kernel, by decide +kernel⟩

theorem test_meets_ZonesAndPathsWait_2 :
    ∃ (clk : Nat) (e0 : Entry) (e : Entry) (via : Transport) (s : State) (l : _), let a := entryArgs e; Privileged (begin clk s) e ∧ inTransition s = false ∧ motionModes.contains s.mode.mode = true ∧ blockDown s 2 4 7 = false ∧ l ∈ s.piste.leases ∧ Admitted (begin clk s) 0x0052 e0 via e ∧ a.length = 4 ∧ l.id = le a 0 4 ∧ armPresent s.objs l.arm = true :=
  ⟨0, (cmd 0x0052 (leBytes 4 1)), (cmd 0x0052 (leBytes 4 1)), .pcie, (sent .privileged ({ up .run [(0x100000, 1), (0x100001, 1), (0x400100, 1)] with piste := { State.reset.piste with leases := [{ id := 1, arm := 0, zone := 1, start := 0, finish := 10 }] } })), { id := 1, arm := 0, zone := 1, start := 0, finish := 10 }, ⟨by decide +kernel, by decide +kernel⟩, by decide +kernel, by decide +kernel, by decide +kernel, by decide +kernel, admitted_of (by decide +kernel), by decide +kernel, by decide +kernel, by decide +kernel⟩

theorem test_meets_ZonesAndPathsWait_3 :
    ∃ (clk : Nat) (e0 : Entry) (e : Entry) (via : Transport) (s : State), let a := entryArgs e; let pts := pathPoints a (le a 2 2); Admitted (begin clk s) 0x0046 e0 via e ∧ Privileged (begin clk s) e ∧ s.mode.mode = .run ∧ a.length = 8 + 36 * le a 2 2 ∧ (plannedArms s.objs).contains (le a 0 1) = true ∧ 1 ≤ le a 2 2 ∧ le a 2 2 ≤ 256 ∧ ((pts.drop 1).all (fun p => p.1 != 0) = true) ∧ (pts.all (fun p => pointOk (entered clk s via e) (le a 0 1) p.2) = true) ∧ (if bit (le a 1 1) 0 then 0 else pathLevel (entered clk s via e) (le a 0 1)) + le a 2 2 ≤ 1024 :=
  ⟨0, (cmd 0x0046 ([0, 0] ++ leBytes 2 1 ++ zeros 40)), (cmd 0x0046 ([0, 0] ++ leBytes 2 1 ++ zeros 40)), .pcie, (sent .privileged (up .run [(0x100000, 1), (0x100001, 1), (0x300006, 1)])), admitted_of (by decide +kernel), ⟨by decide +kernel, by decide +kernel⟩, by decide +kernel, by decide +kernel, by decide +kernel, by decide +kernel, by decide +kernel, by decide +kernel, by decide +kernel, by decide +kernel⟩

theorem test_meets_CapturesTaken_0 :
    ∃ (clk : Nat) (e0 : Entry) (e : Entry) (via : Transport) (s : State), let u := entered clk s via e; let a := entryArgs e; let starts := le a 0 1 = 0 ∨ (le a 0 1 = 1 ∧ acqAhead s ≠ .armed ∧ acqAhead s ≠ .triggered); Open (begin clk s) e ∧ s.mode.mode ≠ .boot ∧ Admitted (begin clk s) 0x0060 e0 via e ∧ Privileged (begin clk s) e ∧ a.length = 4 ∧ acqDown s = false ∧ le a 0 1 < 3 ∧ (starts → armOk u = true) :=
  ⟨0, (cmd 0x0060 (zeros 4)), (cmd 0x0060 (zeros 4)), .pcie, (sent .privileged (up .configure [(0xA04000, 1)])), ⟨by decide +kernel, by decide +kernel⟩, by decide +kernel, admitted_of (by decide +kernel), ⟨by decide +kernel, by decide +kernel⟩, by decide +kernel, by decide +kernel, by decide +kernel, by decide +kernel⟩

theorem test_meets_CapturesTaken_1 :
    ∃ (clk : Nat) (e0 : Entry) (e : Entry) (via : Transport) (s : State), let a := entryArgs e; let b := captureBytes s.acq.capture; Open (begin clk s) e ∧ s.mode.mode ≠ .boot ∧ Admitted (begin clk s) 0x0061 e0 via e ∧ a.length = 8 ∧ bulkOut e = true ∧ acqDown s = false ∧ resultFits e (le a 4 4) = true ∧ s.acq.waits = [] ∧ (s.acq.capture.state = .done ∨ s.acq.capture.state = .aborted) ∧ le a 0 4 + le a 4 4 ≤ b.length :=
  ⟨0, (cmdOut 0x0061 41 (leBytes 4 0 ++ leBytes 4 41)), (cmdOut 0x0061 41 (leBytes 4 0 ++ leBytes 4 41)), .pcie, (sent .opened ({ up .run with acq := { State.reset.acq with capture := { State.reset.acq.capture with state := .done } } })), ⟨by decide +kernel, by decide +kernel⟩, by decide +kernel, admitted_of (by decide +kernel), by decide +kernel, by decide +kernel, by decide +kernel, by decide +kernel, by decide +kernel, by decide +kernel, by decide +kernel⟩

theorem test_meets_CapturesTaken_2 :
    ∃ (clk : Nat) (e0 : Entry) (e : Entry) (via : Transport) (s : State), let a := entryArgs e; Open (begin clk s) e ∧ s.mode.mode ≠ .boot ∧ Admitted (begin clk s) 0x0061 e0 via e ∧ a.length = 8 ∧ bulkOut e = true ∧ acqDown s = false ∧ resultFits e (le a 4 4) = true ∧ s.acq.waits = [] ∧ (s.acq.capture.state = .triggered ∨ s.acq.capture.state = .armed) :=
  ⟨0, (cmdOut 0x0061 41 (leBytes 4 0 ++ leBytes 4 41)), (cmdOut 0x0061 41 (leBytes 4 0 ++ leBytes 4 41)), .pcie, (sent .opened ({ up .run with acq := { State.reset.acq with capture := { State.reset.acq.capture with state := .triggered } } })), ⟨by decide +kernel, by decide +kernel⟩, by decide +kernel, admitted_of (by decide +kernel), by decide +kernel, by decide +kernel, by decide +kernel, by decide +kernel, by decide +kernel, by decide +kernel⟩

theorem test_meets_CapturesTaken_3 :
    ∃ (clk : Nat) (e0 : Entry) (e : Entry) (via : Transport) (s : State), let u := entered clk s via e; let a := entryArgs e; let kept := if bit (le a 1 1) 0 then (classEntries u (le a 0 1)).filter (fun x => !acked (le a 4 4) x) else classEntries u (le a 0 1); Open (begin clk s) e ∧ s.mode.mode ≠ .boot ∧ Admitted (begin clk s) 0x0062 e0 via e ∧ a.length = 8 ∧ (1 < le a 2 2 → bulkOut e = true) ∧ le a 0 1 < 3 ∧ le a 2 2 ≤ 2048 ∧ (e.udp = true → le a 2 2 ≤ 32) ∧ resultFits e (32 * min (le a 2 2) kept.length) = true :=
  ⟨0, (cmdOut 0x0062 1024 ([0, 0, 32, 0] ++ zeros 4)), (cmdOut 0x0062 1024 ([0, 0, 32, 0] ++ zeros 4)), .pcie, (sent .opened (up .run)), ⟨by decide +kernel, by decide +kernel⟩, by decide +kernel, admitted_of (by decide +kernel), by decide +kernel, by decide +kernel, by decide +kernel, by decide +kernel, by decide +kernel, by decide +kernel⟩

theorem test_meets_CapturesTaken_4 :
    ∃ (clk : Nat) (k0 : Nat) (room : Bool) (s : State), let c := s.acq.capture; c.state = .triggered ∧ c.trigIndex = some k0 ∧ c.t0 + c.next * c.period ≤ now (begin clk s) ∧ acqDown s = false ∧ c.next + 1 < k0 + postRows c ∧ (room = true ∨ (∃ gs, gapRow false c.gaps c.next = some gs)) :=
  ⟨0, 0, true, ({ up .run with acq := { State.reset.acq with capture := { State.reset.acq.capture with state := .triggered, trigIndex := some 0, capacity := 8, period := 1, next := 0 } } }), by decide +kernel, by decide +kernel, by decide +kernel, by decide +kernel, by decide +kernel, .inl rfl⟩

theorem test_meets_CapturesTaken_5 :
    ∃ (clk : Nat) (k0 : Nat) (room : Bool) (s : State), let c := s.acq.capture; c.state = .triggered ∧ c.trigIndex = some k0 ∧ c.t0 + c.next * c.period ≤ now (begin clk s) ∧ acqDown s = false ∧ c.next + 1 = k0 + postRows c ∧ room = true :=
  ⟨0, 0, true, ({ up .run with acq := { State.reset.acq with capture := { State.reset.acq.capture with state := .triggered, trigIndex := some 0, capacity := 1, period := 1, next := 0 } } }), by decide +kernel, by decide +kernel, by decide +kernel, by decide +kernel, by decide +kernel, by decide +kernel⟩

theorem test_meets_AttestSigns_0 :
    ∃ (clk : Nat) (e0 : Entry) (e : Entry) (via : Transport) (s : State), Admitted (begin clk s) 0x0080 e0 via e ∧ Open (begin clk s) e ∧ s.mode.mode ≠ .boot ∧ bulkOut e = true ∧ (entryArgs e).length = 40 ∧ le (entryArgs e) 0 1 % 4 = 0 ∧ le (entryArgs e) 4 4 + e.bulkLen ≤ 3532 ∧ indexMode s = .ready ∧ s.sec.index.next < s.sec.index.reservedEnd :=
  ⟨0, (cmdOut 0x0080 3532 (zeros 40)), (cmdOut 0x0080 3532 (zeros 40)), .pcie, (sent .opened ({ up .run with sec := { State.reset.sec with index := { State.reset.sec.index with treeReady := true, reservedEnd := 256 } } })), admitted_of (by decide +kernel), ⟨by decide +kernel, by decide +kernel⟩, by decide +kernel, by decide +kernel, by decide +kernel, by decide +kernel, by decide +kernel, by decide +kernel, by decide +kernel⟩

theorem test_meets_AttestSigns_1 :
    ∃ (clk : Nat) (e0 : Entry) (e : Entry) (via : Transport) (s : State), Admitted (begin clk s) 0x0080 e0 via e ∧ Open (begin clk s) e ∧ s.mode.mode ≠ .boot ∧ bulkOut e = true ∧ (entryArgs e).length = 40 ∧ le (entryArgs e) 0 1 % 4 = 0 ∧ le (entryArgs e) 4 4 + e.bulkLen ≤ 3532 ∧ indexMode s = .ready ∧ s.sec.index.reservedEnd ≤ s.sec.index.next :=
  ⟨0, (cmdOut 0x0080 3532 (zeros 40)), (cmdOut 0x0080 3532 (zeros 40)), .pcie, (sent .opened ({ up .run with sec := { State.reset.sec with index := { State.reset.sec.index with treeReady := true } } })), admitted_of (by decide +kernel), ⟨by decide +kernel, by decide +kernel⟩, by decide +kernel, by decide +kernel, by decide +kernel, by decide +kernel, by decide +kernel, by decide +kernel, by decide +kernel⟩

theorem test_meets_AttestSigns_2 :
    ∃ (clk : Nat) (e0 : Entry) (e : Entry) (via : Transport) (s : State), Admitted (begin clk s) 0x0080 e0 via e ∧ Open (begin clk s) e ∧ s.mode.mode ≠ .boot ∧ bulkOut e = true ∧ (entryArgs e).length = 40 ∧ le (entryArgs e) 0 1 % 4 = 0 ∧ le (entryArgs e) 4 4 + e.bulkLen ≤ 3532 ∧ (indexMode s = .lost ∨ indexMode s = .exhausted) :=
  ⟨0, (cmdOut 0x0080 3532 (zeros 40)), (cmdOut 0x0080 3532 (zeros 40)), .pcie, (sent .opened ({ up .run with sec := { State.reset.sec with index := { State.reset.sec.index with lost := true } } })), admitted_of (by decide +kernel), ⟨by decide +kernel, by decide +kernel⟩, by decide +kernel, by decide +kernel, by decide +kernel, by decide +kernel, by decide +kernel, by decide +kernel⟩

theorem test_meets_AttestSigns_3 :
    ∃ (clk : Nat) (e0 : Entry) (e : Entry) (via : Transport) (s : State), Admitted (begin clk s) 0x0080 e0 via e ∧ Open (begin clk s) e ∧ s.mode.mode ≠ .boot ∧ bulkOut e = true ∧ (entryArgs e).length = 40 ∧ le (entryArgs e) 0 1 % 4 = 0 ∧ le (entryArgs e) 4 4 + e.bulkLen ≤ 3532 ∧ indexMode s = .preparing :=
  ⟨0, (cmdOut 0x0080 3532 (zeros 40)), (cmdOut 0x0080 3532 (zeros 40)), .pcie, (sent .opened ({ up .run with sec := { State.reset.sec with index := { State.reset.sec.index with next := 5, reservedEnd := 256 } } })), admitted_of (by decide +kernel), ⟨by decide +kernel, by decide +kernel⟩, by decide +kernel, by decide +kernel, by decide +kernel, by decide +kernel, by decide +kernel, by decide +kernel⟩

theorem test_meets_KeysEnrolled_0 :
    ∃ (clk : Nat) (e0 : Entry) (e : Entry) (via : Transport) (s : State), let a := entryArgs e; let n := le a 1 1; Admitted (begin clk s) 0x0081 e0 via e ∧ Privileged (begin clk s) e ∧ s.mode.mode = .configure ∧ seal11 s = true ∧ a.length = 68 ∧ le a 0 1 = 1 ∧ n < 2 ∧ le a 2 2 < 2 ∧ hssKeyOk (slice a 8 60) = true ∧ nth none s.sec.customer n = none :=
  ⟨0, (cmd 0x0081 ([1, 0, 0, 0] ++ zeros 4 ++ (beBytes 4 1 ++ beBytes 4 5 ++ beBytes 4 1 ++ zeros 48))), (cmd 0x0081 ([1, 0, 0, 0] ++ zeros 4 ++ (beBytes 4 1 ++ beBytes 4 5 ++ beBytes 4 1 ++ zeros 48))), .pcie, (sent .privileged ({ up .configure with safety := { State.reset.safety with processor := { State.reset.safety.processor with sw1 := 1 }, chamois := { State.reset.safety.chamois with sw1 := 1 } } })), admitted_of (by decide +kernel), ⟨by decide +kernel, by decide +kernel⟩, by decide +kernel, by decide +kernel, by decide +kernel, by decide +kernel, by decide +kernel, by decide +kernel, by decide +kernel, by decide +kernel⟩

theorem test_meets_KeysEnrolled_1 :
    ∃ (clk : Nat) (e0 : Entry) (e : Entry) (via : Transport) (s : State), let a := entryArgs e; let n := le a 1 1; Admitted (begin clk s) 0x0081 e0 via e ∧ Privileged (begin clk s) e ∧ s.mode.mode = .configure ∧ seal11 s = true ∧ a.length = 8 ∧ le a 0 1 = 2 ∧ n < 2 ∧ le a 2 2 = 0 :=
  ⟨0, (cmd 0x0081 ([2, 1, 0, 0] ++ zeros 4)), (cmd 0x0081 ([2, 1, 0, 0] ++ zeros 4)), .pcie, (sent .privileged ({ up .configure with safety := { State.reset.safety with processor := { State.reset.safety.processor with sw1 := 1 }, chamois := { State.reset.safety.chamois with sw1 := 1 } } })), admitted_of (by decide +kernel), ⟨by decide +kernel, by decide +kernel⟩, by decide +kernel, by decide +kernel, by decide +kernel, by decide +kernel, by decide +kernel, by decide +kernel⟩

theorem test_meets_KeysEnrolled_2 :
    ∃ (clk : Nat) (e0 : Entry) (e : Entry) (via : Transport) (s : State), let a := entryArgs e; let n := le a 1 1; Admitted (begin clk s) 0x0081 e0 via e ∧ Privileged (begin clk s) e ∧ s.mode.mode = .configure ∧ seal11 s = true ∧ a.length = 40 ∧ le a 0 1 = 3 ∧ 1 ≤ n ∧ n ≤ 8 ∧ le a 2 2 < 4 :=
  ⟨0, (cmd 0x0081 ([3, 8, 3, 0] ++ zeros 36)), (cmd 0x0081 ([3, 8, 3, 0] ++ zeros 36)), .pcie, (sent .privileged ({ up .configure with safety := { State.reset.safety with processor := { State.reset.safety.processor with sw1 := 1 }, chamois := { State.reset.safety.chamois with sw1 := 1 } } })), admitted_of (by decide +kernel), ⟨by decide +kernel, by decide +kernel⟩, by decide +kernel, by decide +kernel, by decide +kernel, by decide +kernel, by decide +kernel, by decide +kernel, by decide +kernel⟩

theorem test_meets_KeysEnrolled_3 :
    ∃ (clk : Nat) (e0 : Entry) (e : Entry) (via : Transport) (s : State), let a := entryArgs e; let n := le a 1 1; Admitted (begin clk s) 0x0081 e0 via e ∧ Privileged (begin clk s) e ∧ s.mode.mode = .configure ∧ seal11 s = true ∧ a.length = 8 ∧ le a 0 1 = 4 ∧ 1 ≤ n ∧ n ≤ 8 ∧ le a 2 2 = 0 :=
  ⟨0, (cmd 0x0081 ([4, 1, 0, 0] ++ zeros 4)), (cmd 0x0081 ([4, 1, 0, 0] ++ zeros 4)), .pcie, (sent .privileged ({ up .configure with safety := { State.reset.safety with processor := { State.reset.safety.processor with sw1 := 1 }, chamois := { State.reset.safety.chamois with sw1 := 1 } } })), admitted_of (by decide +kernel), ⟨by decide +kernel, by decide +kernel⟩, by decide +kernel, by decide +kernel, by decide +kernel, by decide +kernel, by decide +kernel, by decide +kernel, by decide +kernel⟩

theorem test_meets_KeysEnrolled_4 :
    ∃ (clk : Nat) (e0 : Entry) (e : Entry) (via : Transport) (s : State), let a := entryArgs e; let n := le a 1 1; Admitted (begin clk s) 0x0081 e0 via e ∧ Privileged (begin clk s) e ∧ s.mode.mode = .configure ∧ seal11 s = false ∧ a.length = 8 ∧ (le a 0 1 = 2 ∧ n < 2 ∨ le a 0 1 = 4 ∧ 1 ≤ n ∧ n ≤ 8) ∧ le a 2 2 = 0 :=
  ⟨0, (cmd 0x0081 ([4, 8, 0, 0] ++ zeros 4)), (cmd 0x0081 ([4, 8, 0, 0] ++ zeros 4)), .pcie, (sent .privileged (up .configure)), admitted_of (by decide +kernel), ⟨by decide +kernel, by decide +kernel⟩, by decide +kernel, by decide +kernel, by decide +kernel, by decide +kernel, by decide +kernel⟩

theorem test_meets_LoaderCommands_0 :
    ∃ (clk : Nat) (e0 : Entry) (e : Entry) (via : Transport) (s : State), (mbx (begin clk s) e.mbx).state = .privileged ∧ s.start.rescue = true ∧ Admitted (begin clk s) 0x00F0 e0 via e ∧ (entryArgs e).length = 0 :=
  ⟨0, (cmd 0x00F0 []), (cmd 0x00F0 []), .pcie, (sent .privileged ({ up .boot with start := { (up .boot).start with rescue := true } })), by decide +kernel, by decide +kernel, admitted_of (by decide +kernel), by decide +kernel⟩

theorem test_meets_LoaderCommands_1 :
    ∃ (clk : Nat) (e0 : Entry) (e : Entry) (via : Transport) (s : State), (mbx (begin clk s) e.mbx).state = .privileged ∧ s.start.rescue = true ∧ Admitted (begin clk s) 0x00F1 e0 via e ∧ (entryArgs e).length = 0 ∧ bulkOut e = true ∧ resultFits e 48 = true ∧ s.start.record.steps.length = 14 :=
  ⟨0, (cmdOut 0x00F1 48), (cmdOut 0x00F1 48), .pcie, (sent .privileged ({ up .boot with start := { (up .boot).start with rescue := true } })), by decide +kernel, by decide +kernel, admitted_of (by decide +kernel), by decide +kernel, by decide +kernel, by decide +kernel, by decide +kernel⟩

theorem test_meets_LoaderCommands_2 :
    ∃ (clk : Nat) (e0 : Entry) (e : Entry) (via : Transport) (s : State), (mbx (begin clk s) e.mbx).state = .privileged ∧ s.start.rescue = true ∧ Admitted (begin clk s) 0x00F2 e0 via e ∧ e.argLen = 8 ∧ le (inlineArgs e) 0 1 < 2 ∧ bit (le (inlineArgs e) 1 1) 0 = false ∧ 0 < le (inlineArgs e) 4 4 ∧ bulkData e ≠ [] ∧ le (inlineArgs e) 4 4 + (bulkData e).length ≤ 4194304 :=
  ⟨0, (cmdIn 0x00F2 [1, 0, 0, 0, 0xFF, 0xFF, 0x3F, 0] [7]), (cmdIn 0x00F2 [1, 0, 0, 0, 0xFF, 0xFF, 0x3F, 0] [7]), .pcie, (sent .privileged ({ up .boot with start := { (up .boot).start with rescue := true } })), by decide +kernel, by decide +kernel, admitted_of (by decide +kernel), by decide +kernel, by decide +kernel, by decide +kernel, by decide +kernel, by decide +kernel, by decide +kernel⟩

theorem test_meets_LoaderCommands_3 :
    ∃ (clk : Nat) (e0 : Entry) (e : Entry) (via : Transport) (s : State), (mbx (begin clk s) e.mbx).state = .privileged ∧ s.start.rescue = true ∧ Admitted (begin clk s) 0x00F3 e0 via e ∧ (entryArgs e).length = 0 :=
  ⟨0, (cmd 0x00F3 []), (cmd 0x00F3 []), .pcie, (sent .privileged ({ up .boot with start := { (up .boot).start with rescue := true } })), by decide +kernel, by decide +kernel, admitted_of (by decide +kernel), by decide +kernel⟩

theorem test_meets_LoaderCommands_4 :
    ∃ (clk : Nat) (e0 : Entry) (e : Entry) (via : Transport) (s : State), Admitted (begin clk s) 0x00F0 e0 via e ∧ Privileged (begin clk s) e :=
  ⟨0, (cmd 0x00F0 []), (cmd 0x00F0 []), .pcie, (sent .privileged (up .configure)), admitted_of (by decide +kernel), ⟨by decide +kernel, by decide +kernel⟩⟩

theorem test_meets_LoaderCommands_5 :
    ∃ (s : State), indexMode s = .preparing ∧ s.start.record.startSeq ≠ 0 ∧ s.start.rescue = false :=
  ⟨({ up .run with start := { (up .run).start with record := { startSeq := 1 } } }), by decide +kernel, by decide +kernel, by decide +kernel⟩

theorem test_meets_StructureAnalysed_0 :
    ∃ (i : Nat) (s : State) (st : _), let g := slotOf s i; let bs := overlay (le (overlay 8 g.chunks) 4 4) g.chunks; i < s.solver.slots.length ∧ g.load = .analysing ∧ (g.structure? = some st ∨ (g.structure? = none ∧ parseStructure bs = .ok st)) :=
  ⟨0, ({ up .run with solver := { State.reset.solver with slots := { load := .analysing, chunks := [(0, (leBytes 4 0x58454249 ++ leBytes 4 68 ++ leBytes 4 1 ++ zeros 20 ++ leBytes 4 1 ++ zeros 32))] } :: List.replicate 7 {} } }), { nVar := 1, nEq := 0, nIneq := 0, pCol := [0, 0], pRow := [], aCol := [0, 0], aRow := [], gCol := [0, 0], gRow := [], perm := [0] }, by decide +kernel, by decide +kernel, .inr ⟨by decide +kernel, ok_of (by decide +kernel)⟩⟩

theorem test_meets_StructureAnalysed_1 :
    ∃ (i : Nat) (s : State) (n : _), let g := slotOf s i; let bs := overlay (le (overlay 8 g.chunks) 4 4) g.chunks; i < s.solver.slots.length ∧ g.load = .analysing ∧ g.structure? = none ∧ parseStructure bs = .error n :=
  ⟨0, ({ up .run with solver := { State.reset.solver with slots := { load := .analysing, chunks := [] } :: List.replicate 7 {} } }), 1, by decide +kernel, by decide +kernel, by decide +kernel, error_of (by decide +kernel)⟩

theorem test_meets_StructureAnalysed_2 :
    ∃ (i : Nat) (s : State), let g := slotOf s i; i < s.solver.slots.length ∧ g.load ≠ .analysing :=
  ⟨7, (up .run), by decide +kernel, by decide +kernel⟩

theorem test_meets_SolverRuns_0 :
    ∃ (clk : Nat) (s : State) (r : SolverRun) (st : Structure), s.solver.current = some r ∧ (slotOf s r.slot).structure? = some st ∧ r.op = .ipm ∧ r.ended = none ∧ r.started = true ∧ r.slot < s.solver.slots.length ∧ runLate (begin clk s) r = true :=
  ⟨0, ({ up .run with solver := { State.reset.solver with slots := { structure? := some { nVar := 1, nEq := 0, nIneq := 0, pCol := [0, 0], pRow := [], aCol := [0, 0], aRow := [], gCol := [0, 0], gRow := [], perm := [0] } } :: List.replicate 7 {} , current := some { slot := 0, op := .ipm, planner := false, warm := false, warmSlot := 0, deadline := 5, tag := 0, started := true }} , herd := { (up .run).herd with ht := 5 } }), { slot := 0, op := .ipm, planner := false, warm := false, warmSlot := 0, deadline := 5, tag := 0, started := true }, { nVar := 1, nEq := 0, nIneq := 0, pCol := [0, 0], pRow := [], aCol := [0, 0], aRow := [], gCol := [0, 0], gRow := [], perm := [0] }, by decide +kernel, by decide +kernel, by decide +kernel, by decide +kernel, by decide +kernel, by decide +kernel, by decide +kernel⟩

theorem test_meets_SolverRuns_1 :
    ∃ (clk : Nat) (s : State) (r : SolverRun) (st : Structure) (col : _), let fs := (loopFactor s st r).2; s.solver.current = some r ∧ (slotOf s r.slot).structure? = some st ∧ r.op = .ipm ∧ r.ended = none ∧ r.started = true ∧ r.slot < s.solver.slots.length ∧ runLate (begin clk s) r = false ∧ badColumn fs = some col :=
  ⟨0, ({ up .run [(0x31100E, 0)] with solver := { State.reset.solver with slots := { structure? := some { nVar := 1, nEq := 0, nIneq := 0, pCol := [0, 0], pRow := [], aCol := [0, 0], aRow := [], gCol := [0, 0], gRow := [], perm := [0] } } :: List.replicate 7 {}, current := some { slot := 0, op := .ipm, planner := false, warm := false, warmSlot := 0, deadline := 0, tag := 0, started := true } } }), { slot := 0, op := .ipm, planner := false, warm := false, warmSlot := 0, deadline := 0, tag := 0, started := true }, { nVar := 1, nEq := 0, nIneq := 0, pCol := [0, 0], pRow := [], aCol := [0, 0], aRow := [], gCol := [0, 0], gRow := [], perm := [0] }, 0, by decide +kernel, by decide +kernel, by decide +kernel, by decide +kernel, by decide +kernel, by decide +kernel, by decide +kernel, bad_of_nan⟩

theorem test_meets_SolverRuns_2 :
    ∃ (clk : Nat) (s : State) (r : SolverRun) (st : Structure), let k := (loopFactor s st r).1; let fs := (loopFactor s st r).2; let step := ipmStep st r.values r.iterate r.gap fs; let rest := residuals st r.values step.1; let finite := k.all (fun c => c.all (fun e => dFinite e.2)) && fs.all (fun f => f.rows.all (fun e => dFinite e.2)) && step.2.all dFinite && (iterateList step.1).all dFinite && (dFinite rest.1 && dFinite rest.2.1 && dFinite rest.2.2); s.solver.current = some r ∧ (slotOf s r.slot).structure? = some st ∧ r.op = .ipm ∧ r.ended = none ∧ r.started = true ∧ r.slot < s.solver.slots.length ∧ runLate (begin clk s) r = false ∧ badColumn fs = none ∧ finite = false :=
  ⟨0, ({ up .run with solver := { State.reset.solver with slots := { structure? := some { nVar := 0, nEq := 0, nIneq := 1, pCol := [0], pRow := [], aCol := [0], aRow := [], gCol := [0], gRow := [], perm := [] } } :: List.replicate 7 {}, current := some { slot := 0, op := .ipm, planner := false, warm := false, warmSlot := 0, deadline := 0, iterate := { s := [dOne], zl := [dOne] }, values := { l := [dNeg dOne] }, tag := 0, started := true } } }), { slot := 0, op := .ipm, planner := false, warm := false, warmSlot := 0, deadline := 0, iterate := { s := [dOne], zl := [dOne] }, values := { l := [dNeg dOne] }, tag := 0, started := true }, { nVar := 0, nEq := 0, nIneq := 1, pCol := [0], pRow := [], aCol := [0], aRow := [], gCol := [0], gRow := [], perm := [] }, by decide +kernel, by decide +kernel, by decide +kernel, by decide +kernel, by decide +kernel, by decide +kernel, by decide +kernel, by decide +kernel, by decide +kernel⟩

theorem test_meets_SolverRuns_3 :
    ∃ (clk : Nat) (s : State) (r : SolverRun) (st : Structure), let k := (loopFactor s st r).1; let fs := (loopFactor s st r).2; let step := ipmStep st r.values r.iterate r.gap fs; let rest := residuals st r.values step.1; let finite := k.all (fun c => c.all (fun e => dFinite e.2)) && fs.all (fun f => f.rows.all (fun e => dFinite e.2)) && step.2.all dFinite && (iterateList step.1).all dFinite && (dFinite rest.1 && dFinite rest.2.1 && dFinite rest.2.2); s.solver.current = some r ∧ (slotOf s r.slot).structure? = some st ∧ r.op = .ipm ∧ r.ended = none ∧ r.started = true ∧ r.slot < s.solver.slots.length ∧ runLate (begin clk s) r = false ∧ badColumn fs = none ∧ finite = true :=
  ⟨0, ({ up .run with solver := { State.reset.solver with slots := { structure? := some { nVar := 0, nEq := 0, nIneq := 0, pCol := [0], pRow := [], aCol := [0], aRow := [], gCol := [0], gRow := [], perm := [] } } :: List.replicate 7 {}, current := some { slot := 0, op := .ipm, planner := false, warm := false, warmSlot := 0, deadline := 0, tag := 0, started := true } } }), { slot := 0, op := .ipm, planner := false, warm := false, warmSlot := 0, deadline := 0, tag := 0, started := true }, { nVar := 0, nEq := 0, nIneq := 0, pCol := [0], pRow := [], aCol := [0], aRow := [], gCol := [0], gRow := [], perm := [] }, by decide +kernel, by decide +kernel, by decide +kernel, by decide +kernel, by decide +kernel, by decide +kernel, by decide +kernel, by decide +kernel, by decide +kernel⟩

theorem test_meets_SolverRuns_4 :
    ∃ (clk : Nat) (suspended : Bool) (s : State) (r : SolverRun), (if suspended then s.solver.parked else s.solver.current) = some r ∧ r.ended = none ∧ runLate (begin clk s) r = true :=
  ⟨0, false, ({ up .run with solver := { State.reset.solver with slots := { structure? := some { nVar := 1, nEq := 0, nIneq := 0, pCol := [0, 0], pRow := [], aCol := [0, 0], aRow := [], gCol := [0, 0], gRow := [], perm := [0] } } :: List.replicate 7 {} , current := some { slot := 0, op := .ipm, planner := false, warm := false, warmSlot := 0, deadline := 5, tag := 0, started := true }} , herd := { (up .run).herd with ht := 5 } }), { slot := 0, op := .ipm, planner := false, warm := false, warmSlot := 0, deadline := 5, tag := 0, started := true }, by decide +kernel, by decide +kernel, by decide +kernel⟩

theorem test_meets_SolverRuns_5 :
    ∃ (s : State) (r : SolverRun), s.solver.current = none ∧ s.solver.parked = some r ∧ r.ended = none :=
  ⟨({ up .run with solver := { State.reset.solver with slots := {  } :: List.replicate 7 {} , parked := some { slot := 0, op := .ipm, planner := false, warm := false, warmSlot := 0, deadline := 0, tag := 0, started := true }} }), { slot := 0, op := .ipm, planner := false, warm := false, warmSlot := 0, deadline := 0, tag := 0, started := true }, by decide +kernel, by decide +kernel, by decide +kernel⟩

theorem test_meets_SolverRuns_6 :
    ∃ (r : SolverRun), r.ended = none :=
  ⟨{ slot := 0, op := .ipm, planner := false, warm := false, warmSlot := 0, deadline := 0, tag := 0, started := true }, by decide +kernel⟩

theorem test_meets_SolverRuns_7 :
    ∃ (s : State) (r : SolverRun) (code : _), s.solver.current = some r ∧ r.slot < s.solver.slots.length ∧ r.slot < 8 ∧ s.solver.parked = none ∧ s.solver.queue = [] ∧ r.ended = some code :=
  ⟨({ up .run with solver := { State.reset.solver with slots := { structure? := some { nVar := 1, nEq := 0, nIneq := 0, pCol := [0, 0], pRow := [], aCol := [0, 0], aRow := [], gCol := [0, 0], gRow := [], perm := [0] } } :: List.replicate 7 {} , current := some { slot := 0, op := .ipm, planner := false, warm := false, warmSlot := 0, deadline := 0, tag := 0, started := true, ended := some 0 }} , herd := { (up .run).herd with ht := 5 } }), { slot := 0, op := .ipm, planner := false, warm := false, warmSlot := 0, deadline := 0, tag := 0, started := true, ended := some 0 }, 0, by decide +kernel, by decide +kernel, by decide +kernel, by decide +kernel, by decide +kernel, by decide +kernel⟩

theorem test_meets_SolverRuns_8 :
    ∃ (clk : Nat) (s : State) (r : SolverRun) (st : _), s.solver.current = some r ∧ r.slot < s.solver.slots.length ∧ r.slot < 8 ∧ s.solver.parked = none ∧ s.solver.queue = [] ∧ r.ended = none ∧ r.started = true ∧ (slotOf s r.slot).structure? = some st ∧ runLate (begin clk s) r = false ∧ r.op = .factor :=
  ⟨0, ({ up .run with solver := { State.reset.solver with slots := { structure? := some { nVar := 1, nEq := 0, nIneq := 0, pCol := [0, 0], pRow := [], aCol := [0, 0], aRow := [], gCol := [0, 0], gRow := [], perm := [0] } } :: List.replicate 7 {} , current := some { slot := 0, op := .factor, planner := false, warm := false, warmSlot := 0, deadline := 0, tag := 0, started := true }} , herd := { (up .run).herd with ht := 5 } }), { slot := 0, op := .factor, planner := false, warm := false, warmSlot := 0, deadline := 0, tag := 0, started := true }, { nVar := 1, nEq := 0, nIneq := 0, pCol := [0, 0], pRow := [], aCol := [0, 0], aRow := [], gCol := [0, 0], gRow := [], perm := [0] }, by decide +kernel, by decide +kernel, by decide +kernel, by decide +kernel, by decide +kernel, by decide +kernel, by decide +kernel, by decide +kernel, by decide +kernel, by decide +kernel⟩

theorem test_meets_SolverRuns_9 :
    ∃ (clk : Nat) (s : State) (r : SolverRun) (st : _), s.solver.current = some r ∧ r.slot < s.solver.slots.length ∧ r.slot < 8 ∧ s.solver.parked = none ∧ s.solver.queue = [] ∧ r.ended = none ∧ r.started = true ∧ (slotOf s r.slot).structure? = some st ∧ runLate (begin clk s) r = false ∧ (r.op = .solve ∨ r.op = .spmv) :=
  ⟨0, ({ up .run with solver := { State.reset.solver with slots := { structure? := some { nVar := 1, nEq := 0, nIneq := 0, pCol := [0, 0], pRow := [], aCol := [0, 0], aRow := [], gCol := [0, 0], gRow := [], perm := [0] } } :: List.replicate 7 {} , current := some { slot := 0, op := .spmv, planner := false, warm := false, warmSlot := 0, deadline := 0, tag := 0, started := true }} , herd := { (up .run).herd with ht := 5 } }), { slot := 0, op := .spmv, planner := false, warm := false, warmSlot := 0, deadline := 0, tag := 0, started := true }, { nVar := 1, nEq := 0, nIneq := 0, pCol := [0, 0], pRow := [], aCol := [0, 0], aRow := [], gCol := [0, 0], gRow := [], perm := [0] }, by decide +kernel, by decide +kernel, by decide +kernel, by decide +kernel, by decide +kernel, by decide +kernel, by decide +kernel, by decide +kernel, by decide +kernel, by decide +kernel⟩

theorem test_meets_TicksStart_0 :
    ∃ (s : State), s.herd.running = true ∧ s.herd.stepPending = none ∧ s.herd.slewRem = 0 ∧ s.image.commit = none ∧ imageActive s = false ∧ -2147483648 ≤ adjServo s ∧ nextTick s < 2 ^ 65 :=
  ⟨(up .configure), by decide +kernel, by decide +kernel, by decide +kernel, by decide +kernel, by decide +kernel, by decide +kernel, by decide +kernel⟩

theorem test_meets_TicksStart_1 :
    ∃ (s : State), s.herd.running = false :=
  ⟨State.reset, by decide +kernel⟩

theorem test_meets_PlanPeriod_0 :
    ∃ (clk : Nat) (s : State), let s1 := begin clk s; s.herd.running = true ∧ drives s1 = true ∧ domainOn s 7 = true ∧ periodAt s1 (tickStart s1) = true ∧ s.plan.periodStart ≠ tickStart s1 ∧ atTickStart s1 = true ∧ (s.mode.mode = .commission ∨ s.mode.mode = .run) ∧ modeTarget s = s.mode.mode :=
  ⟨0, (live .run), by decide +kernel, by decide +kernel, by decide +kernel, by decide +kernel, by decide +kernel, by decide +kernel, by decide +kernel, by decide +kernel⟩

theorem test_meets_PlanPeriod_1 :
    ∃ (s : State) (snap : Snapshot) (st : _), let g := slotOf s s.plan.slot; s.plan.phase = .posting ∧ s.plan.snapshot = some snap ∧ solverIsolated s = false ∧ domainOn s 5 = true ∧ g.load = .resident ∧ g.structure? = some st ∧ g.staged = [] ∧ s.plan.slot < s.solver.slots.length ∧ s.solver.current = none :=
  ⟨({ live .run [] 16 with plan := { State.reset.plan with phase := .posting, snapshot := some { time := 1000000, mode := .run, arms := [], leases := [] } }, solver := { State.reset.solver with slots := { load := .resident, structure? := some { nVar := 1, nEq := 0, nIneq := 0, pCol := [0, 0], pRow := [], aCol := [0, 0], aRow := [], gCol := [0, 0], gRow := [], perm := [0] } } :: List.replicate 7 {} } }), { time := 1000000, mode := .run, arms := [], leases := [] }, { nVar := 1, nEq := 0, nIneq := 0, pCol := [0, 0], pRow := [], aCol := [0, 0], aRow := [], gCol := [0, 0], gRow := [], perm := [0] }, by decide +kernel, by decide +kernel, by decide +kernel, by decide +kernel, by decide +kernel, by decide +kernel, by decide +kernel, by decide +kernel, by decide +kernel⟩

theorem test_meets_PlanPeriod_2 :
    ∃ (s : State) (snap : Snapshot), let g := slotOf s s.plan.slot; s.plan.phase = .posting ∧ s.plan.snapshot = some snap ∧ (solverIsolated s = true ∨ domainOn s 5 = false ∨ g.load ≠ .resident) :=
  ⟨({ live .run [] 16 with plan := { State.reset.plan with phase := .posting, snapshot := some { time := 1000000, mode := .run, arms := [], leases := [] } }, solver := { State.reset.solver with slots := {  } :: List.replicate 7 {} } }), { time := 1000000, mode := .run, arms := [], leases := [] }, by decide +kernel, by decide +kernel, by decide +kernel⟩

theorem test_meets_PlanPeriod_3 :
    ∃ (clk : Nat) (s : State) (snap : Snapshot), let s1 := begin clk s; s.plan.phase = .testing ∧ s.plan.snapshot = some snap ∧ cutOff s1 = true :=
  ⟨0, ({ live .run [] 15 with plan := { State.reset.plan with phase := .testing, snapshot := some { time := 1000000, mode := .run, arms := [], leases := [] } }, solver := { State.reset.solver with slots := {  } :: List.replicate 7 {} } }), { time := 1000000, mode := .run, arms := [], leases := [] }, by decide +kernel, by decide +kernel, by decide +kernel⟩

theorem test_meets_PlanPeriod_4 :
    ∃ (clk : Nat) (s : State) (snap : Snapshot), let s1 := begin clk s; let g := slotOf s s.plan.slot; let code := statusCode s1 g.result; s.plan.phase = .testing ∧ s.plan.snapshot = some snap ∧ cutOff s1 = false ∧ 2 ≤ code :=
  ⟨0, ({ live .run [] 16 with plan := { State.reset.plan with phase := .testing, snapshot := some { time := 1000000, mode := .run, arms := [], leases := [] } }, solver := { State.reset.solver with slots := { result := { code := 3 } } :: List.replicate 7 {} } }), { time := 1000000, mode := .run, arms := [], leases := [] }, by decide +kernel, by decide +kernel, by decide +kernel, by decide +kernel⟩

theorem test_meets_PlanPeriod_5 :
    ∃ (clk : Nat) (s : State) (snap : Snapshot), let s1 := begin clk s; let g := slotOf s s.plan.slot; let code := statusCode s1 g.result; s.plan.phase = .testing ∧ s.plan.snapshot = some snap ∧ cutOff s1 = false ∧ code < 2 ∧ (iterateList g.iterate).all dFinite = false :=
  ⟨0, ({ live .run [] 16 with plan := { State.reset.plan with phase := .testing, snapshot := some { time := 1000000, mode := .run, arms := [], leases := [] } }, solver := { State.reset.solver with slots := { iterate := { x := [0x7FF0000000000000] } } :: List.replicate 7 {} } }), { time := 1000000, mode := .run, arms := [], leases := [] }, by decide +kernel, by decide +kernel, by decide +kernel, by decide +kernel, by decide +kernel⟩

theorem test_meets_PlanPeriod_6 :
    ∃ (clk : Nat) (s : State) (snap : Snapshot), let s1 := begin clk s; let g := slotOf s s.plan.slot; let code := statusCode s1 g.result; let E := snap.time + periodNs snap.objs; let seq := (s.plan.lastSeq + 1) % 2 ^ 32; let test := testArm { s1 with objs := snap.objs } E seq code g.iterate.x; s.plan.phase = .testing ∧ s.plan.snapshot = some snap ∧ cutOff s1 = false ∧ code < 2 ∧ (iterateList g.iterate).all dFinite = true ∧ (∃ sn ∈ snap.arms, test sn = none) :=
  ⟨0, ({ live .run [] 16 with plan := { State.reset.plan with phase := .testing, snapshot := some { time := 1000000, mode := .run, arms := [{ arm := 0, origin := 0, sigma := 0, knot0 := [], pinned := false, vlim := 0 }], leases := [] } }, solver := { State.reset.solver with slots := {  } :: List.replicate 7 {} } }), { time := 1000000, mode := .run, arms := [{ arm := 0, origin := 0, sigma := 0, knot0 := [], pinned := false, vlim := 0 }], leases := [] }, by decide +kernel, by decide +kernel, by decide +kernel, by decide +kernel, by decide +kernel, ⟨_, List.mem_singleton.mpr rfl, rfl⟩⟩

theorem test_meets_PlanPeriod_7 :
    ∃ (clk : Nat) (s : State) (snap : Snapshot), let s1 := begin clk s; let g := slotOf s s.plan.slot; let code := statusCode s1 g.result; let E := snap.time + periodNs snap.objs; let seq := (s.plan.lastSeq + 1) % 2 ^ 32; let test := testArm { s1 with objs := snap.objs } E seq code g.iterate.x; s.plan.phase = .testing ∧ s.plan.snapshot = some snap ∧ cutOff s1 = false ∧ code < 2 ∧ (iterateList g.iterate).all dFinite = true ∧ (∀ sn ∈ snap.arms, (test sn).isSome = true) :=
  ⟨0, ({ live .run with plan := { State.reset.plan with phase := .testing, snapshot := some { time := 1000000, mode := .run, arms := [], leases := [] } } }), { time := 1000000, mode := .run, arms := [], leases := [] }, by decide +kernel, by decide +kernel, by decide +kernel, by decide +kernel, by decide +kernel, by decide +kernel⟩

theorem test_meets_PlanPeriod_8 :
    ∃ (clk : Nat) (s : State), cutOff (begin clk s) = true ∧ (s.plan.phase = .posting ∨ s.plan.phase = .solving ∨ s.plan.phase = .testing) :=
  ⟨0, ({ live .run [] 15 with plan := { State.reset.plan with phase := .solving } }), by decide +kernel, by decide +kernel⟩

theorem test_meets_ArbiterPasses_0 :
    ∃ (clk : Nat) (s : State), let s1 := begin clk s; let tp := passStart s1; arbiterUp s1 = true ∧ tp ≤ now s1 ∧ s.piste.passTick ≠ some s.herd.tick :=
  ⟨0, (live .run), by decide +kernel, by decide +kernel, by decide +kernel⟩

theorem test_meets_ArbiterPasses_1 :
    ∃ (clk : Nat) (s : State) (r : _), let s1 := begin clk s; let tp := passStart s1; arbiterUp s1 = true ∧ tp ≤ now s1 ∧ s.piste.passTick ≠ some s.herd.tick ∧ s.piste.requests = [r] ∧ s.piste.releases = [] ∧ s.piste.extensions = [] ∧ (∀ a, nth [] s.piste.sets a = []) ∧ (∀ a, nth [] s.piste.nextSets a = []) ∧ (∀ a, (armPlan s a).pending = []) ∧ holdLasts s = false ∧ armHeld s r.arm = false ∧ (r.origin.isSome = true → r.at_ < tp) ∧ tp < r.finish ∧ r.start < r.finish ∧ (∀ l ∈ s.piste.leases, l.kept = true ∨ tp < l.finish) ∧ (∀ l ∈ s.piste.leases, ¬(l.arm = r.arm ∧ l.zone = r.zone)) ∧ s.piste.leases.length < 1024 ∧ blockers s1 r.arm r.zone (max r.start tp) r.finish = [] :=
  ⟨0, ({ live .run with piste := { State.reset.piste with requests := [{ origin := none, arm := 0, zone := 1, priority := 0, wait := true, start := 0, finish := 2000000, at_ := 0, order := 0 }] } }), { origin := none, arm := 0, zone := 1, priority := 0, wait := true, start := 0, finish := 2000000, at_ := 0, order := 0 }, by decide +kernel, by decide +kernel, by decide +kernel, by decide +kernel, by decide +kernel, by decide +kernel, nth_nils, nth_nils, nth_idle, by decide +kernel, by decide +kernel, by decide +kernel, by decide +kernel, by decide +kernel, by decide +kernel, by decide +kernel, by decide +kernel, by decide +kernel⟩

theorem test_meets_ProfilePasses_0 :
    ∃ (clk : Nat) (s : State), let s1 := begin clk s; profUp s1 = true ∧ profStart s1 s.herd.tick ≤ now s1 ∧ s.prof.passTick ≠ some s.herd.tick :=
  ⟨0, (live .run), by decide +kernel, by decide +kernel, by decide +kernel⟩

theorem test_meets_ProfilePasses_1 :
    ∃ (clk : Nat) (s : State) (ch : Nat) (d : _) (lim : _) (p : _) (last : _), let s1 := begin clk s; (chan s ch).motion = some (.jog d lim p last) ∧ last + ov s 0x10 0 0x22 * 1000000 ≤ now s1 :=
  ⟨0, ({ live .commission with prof := { State.reset.prof with channels := [(3, { motion := some (.jog 0 {} {} 0) })] }, herd := { (live .commission).herd with ht := 100000000000 } }), 3, 0, {}, {}, 0, by decide +kernel, by decide +kernel⟩

theorem test_meets_ProfilePasses_2 :
    ∃ (s : State) (c : Nat), c < 8 ∧ ov s 0x21 (72 + c) 0x11 < 8 ∧ ov s 0x21 (72 + c) 0x12 < (nth {} s.field.encoders (ov s 0x21 (72 + c) 0x11)).age :=
  ⟨({ live .run [(0x214F11, 0), (0x214F12, 4)] with field := { State.reset.field with encoders := List.replicate 8 { age := 5 } } }), 7, by decide +kernel, by decide +kernel, by decide +kernel⟩

theorem test_meets_SeparationSteps_0 :
    ∃ (clk : Nat) (s : State), let s1 := begin clk s; sepRuns s1 = true ∧ sepTick s1 = true ∧ s.sep.stepTick ≠ some s.herd.tick ∧ sepStart s1 ≤ now s1 :=
  ⟨0, (live .run), by decide +kernel, by decide +kernel, by decide +kernel, by decide +kernel⟩

theorem test_meets_SeparationSteps_1 :
    ∃ (s : State) (ch : Bool) (a : Nat), a < 8 ∧ s.sep.demandP.length = 8 ∧ s.sep.demandC.length = 8 ∧ (if ch then s.sep.staleDueC else s.sep.staleDueP).getLsbD a = true :=
  ⟨({ live .run with sep := { State.reset.sep with staleDueC := 0x80 } }), true, 7, by decide +kernel, by decide +kernel, by decide +kernel, by decide +kernel⟩

theorem test_meets_SeparationSteps_2 :
    ∃ (s : State) (k : Nat), k < 16 ∧ s.sep.worstDue.getLsbD k = true :=
  ⟨({ live .run with sep := { State.reset.sep with worstDue := 0x8000 } }), 15, by decide +kernel, by decide +kernel⟩

theorem test_meets_SeparationSteps_3 :
    ∃ (clk : Nat) (s : State), let s1 := begin clk s; s.sep.active = true ∧ s.sep.processor = none ∧ domainOn s 8 = true ∧ isolated s 2 3 = false ∧ kinReady s1 = true ∧ s.sep.demandP.length = 8 :=
  ⟨0, ({ live .run with sep := { State.reset.sep with active := true } }), by decide +kernel, by decide +kernel, by decide +kernel, by decide +kernel, by decide +kernel, by decide +kernel⟩

theorem test_meets_SeparationSteps_4 :
    ∃ (s : State), s.sep.active = true ∧ s.sep.chamois = none ∧ s.sep.demandC.length = 8 :=
  ⟨({ live .run with sep := { State.reset.sep with active := true } }), by decide +kernel, by decide +kernel, by decide +kernel⟩

theorem test_meets_SeparationSteps_5 :
    ∃ (clk : Nat) (s : State), let s1 := begin clk s; s.sep.active = true ∧ s.sep.latch.time + max (sepTimeP s.objs) (sepTimeC s.objs) + 200 ≤ now s1 ∧ s.sep.results.length = 8 :=
  ⟨0, ({ live .run with sep := { State.reset.sep with active := true } }), by decide +kernel, by decide +kernel, by decide +kernel⟩

theorem test_meets_SeparationSteps_6 :
    ∃ (s : State) (a : Nat), a < 8 ∧ s.sep.demandP.length = 8 ∧ s.sep.demandC.length = 8 ∧ ov s 0x50 0x80 0x0C ≤ (nth {} s.sep.results a).clearRun :=
  ⟨({ live .run with sep := { State.reset.sep with results := List.replicate 8 { clearRun := 100000 } } }), 7, by decide +kernel, by decide +kernel, by decide +kernel, by decide +kernel⟩

theorem test_meets_ChannelsEvaluate_0 :
    ∃ (clk : Nat) (s : State), s.herd.running = true ∧ s.safety.processor.slot ≠ some (now (begin clk s) / 250000) ∧ s.safety.processor.arms.length = 8 :=
  ⟨0, (live .run), by decide +kernel, by decide +kernel, by decide +kernel⟩

theorem test_meets_ChannelsEvaluate_1 :
    ∃ (s : State), s.safety.chamois.arms.length = 8 :=
  ⟨State.reset, by decide +kernel⟩

theorem test_meets_ChannelsEvaluate_4 :
    ∃ (by_ : Bool) (s : State), 2 ≤ (safeCh s by_).silentRun ∧ (safeCh s by_).silent = false :=
  ⟨false, ({ live .run with safety := { State.reset.safety with processor := { State.reset.safety.processor with silentRun := 2 } } }), by decide +kernel, by decide +kernel⟩

theorem test_meets_ChannelsEvaluate_5 :
    ∃ (by_ : Bool) (s : State) (v : _) (n : _), (v, n) ∈ (safeCh s by_).mismatch ∧ 8 < n ∧ v ∉ (safeCh s by_).mismatched :=
  ⟨true, ({ live .run with safety := { State.reset.safety with chamois := { State.reset.safety.chamois with mismatch := [(3, 9)] } } }), 3, 9, by decide +kernel, by decide +kernel, by decide +kernel⟩

theorem test_meets_ChannelsEvaluate_6 :
    ∃ (by_ : Bool) (s : State), (safeCh s by_).oscDue = true :=
  ⟨true, ({ live .run with safety := { State.reset.safety with chamois := { State.reset.safety.chamois with oscDue := true } } }), by decide +kernel⟩

theorem test_meets_SafeInputsOutputs_0 :
    ∃ (ch : Bool) (s : State) (n : _), n < 16 ∧ (safeCh s ch).inputs.length = 16 ∧ (nth {} (safeCh s ch).inputs n).due = true :=
  ⟨true, ({ live .run with safety := { State.reset.safety with chamois := { State.reset.safety.chamois with inputs := List.replicate 15 {} ++ [{ due := true }] } } }), 15, by decide +kernel, by decide +kernel, by decide +kernel⟩

theorem test_meets_SafeInputsOutputs_1 :
    ∃ (ch : Bool) (s : State) (a : _), a < 8 ∧ (safeCh s ch).arms.length = 8 ∧ (armStop s ch a).timeout = true :=
  ⟨false, ({ live .run with safety := { State.reset.safety with processor := { State.reset.safety.processor with arms := List.replicate 7 {} ++ [{ timeout := true }] } } }), 7, by decide +kernel, by decide +kernel, by decide +kernel⟩

theorem test_meets_SafeInputsOutputs_2 :
    ∃ (ch : Bool) (s : State) (e : _), e ∈ usedNets s.objs ∧ ob s.objs 0x60 (0x40 + e) 4 < (tget {} (safeCh s ch).nets e).age :=
  ⟨true, (live .run [(0x607F00, 1), (0x607F01, 1)]), 63, by decide +kernel, by decide +kernel⟩

theorem test_meets_SafeInputsOutputs_3 :
    ∃ (s : State) (n : _), n < 8 ∧ s.safety.processor.switches.length = 8 ∧ s.safety.chamois.switches.length = 8 ∧ energised s n = true :=
  ⟨({ live .run with safety := { State.reset.safety with processor := { State.reset.safety.processor with switches := List.replicate 8 { closed := true } }, chamois := { State.reset.safety.chamois with switches := List.replicate 8 { closed := true } } } }), 7, by decide +kernel, by decide +kernel, by decide +kernel, by decide +kernel⟩

theorem test_meets_SafeInputsOutputs_4 :
    ∃ (s : State) (n : _), n < 8 ∧ s.safety.processor.switches.length = 8 ∧ s.safety.chamois.switches.length = 8 ∧ energised s n = true :=
  ⟨({ live .run with safety := { State.reset.safety with processor := { State.reset.safety.processor with switches := List.replicate 8 { closed := true } }, chamois := { State.reset.safety.chamois with switches := List.replicate 8 { closed := true } } } }), 7, by decide +kernel, by decide +kernel, by decide +kernel, by decide +kernel⟩

theorem test_meets_SafeInputsOutputs_5 :
    ∃ (s : State) (n : _), n < 8 ∧ s.safety.processor.switches.length = 8 ∧ s.safety.chamois.switches.length = 8 ∧ energised s n = true :=
  ⟨({ live .run with safety := { State.reset.safety with processor := { State.reset.safety.processor with switches := List.replicate 8 { closed := true } }, chamois := { State.reset.safety.chamois with switches := List.replicate 8 { closed := true } } } }), 7, by decide +kernel, by decide +kernel, by decide +kernel, by decide +kernel⟩

theorem test_meets_SafeInputsOutputs_6 :
    ∃ (ch : Bool) (s : State) (n : _), n < 8 ∧ s.safety.processor.switches.length = 8 ∧ s.safety.chamois.switches.length = 8 ∧ outFunction s.objs n ≠ 0 ∧ (nth {} (safeCh s ch).switches n).overTemp = false :=
  ⟨true, (live .run [(0x601700, 1)]), 7, by decide +kernel, by decide +kernel, by decide +kernel, by decide +kernel, by decide +kernel⟩

theorem test_meets_SafeInputsOutputs_7 :
    ∃ (s : State) (x : _), s.safety.edgeDue = some x :=
  ⟨({ live .run with safety := { State.reset.safety with edgeDue := some 5 } }), 5, by decide +kernel⟩

theorem test_meets_SafeInputsOutputs_8 :
    ∃ (s : State), s.safety.processor.sw1 ≠ s.safety.processor.sw1Shown :=
  ⟨({ live .run with safety := { State.reset.safety with processor := { State.reset.safety.processor with sw1 := 1 } } }), by decide +kernel⟩

theorem test_meets_TahixaFrames_0 :
    ∃ (clk : Nat) (s : State) (k : _), let s1 := begin clk s; netLeads s1 = true ∧ k ∈ downInForce s1 ∧ (downOf s k).sent ≠ some (staticCommit s1 k).1 ∧ (staticCommit s1 k).2 ≤ now s1 :=
  ⟨0, ({ up .run with net := { State.reset.net with net := .running }, herd := { (up .run).herd with ht := 62500 } }), 0, by decide +kernel, by decide +kernel, by decide +kernel, by decide +kernel⟩

theorem test_meets_TahixaFrames_1 :
    ∃ (clk : Nat) (s : State) (f : RxFrame) (s2 : _) (k : _) (start : _), let s1 := begin clk s; let r := received (noteForeign s1 f) f; r.2 = true ∧ netRuns s = true ∧ portServes r.1 f.port = true ∧ checkStatic r.1 f 1 = .accept s2 k start ∧ copyOf (upOf s k) (1 - f.port / 2) = none :=
  ⟨0, ({ live .run [(0x700002, 1), (0x700004, 0x0103)] 16 with net := { State.reset.net with net := .running } }), { port := 0, capture := 4000104, header := [0x11, 0, 3, 0, 0, 16, 0, 0, 0, 60, 0, 0], payload := zeros 60 }, (vState (checkStatic (received (noteForeign (begin 0 ({ live .run [(0x700002, 1), (0x700004, 0x0103)] 16 with net := { State.reset.net with net := .running } })) { port := 0, capture := 4000104, header := [0x11, 0, 3, 0, 0, 16, 0, 0, 0, 60, 0, 0], payload := zeros 60 }) { port := 0, capture := 4000104, header := [0x11, 0, 3, 0, 0, 16, 0, 0, 0, 60, 0, 0], payload := zeros 60 }).1 { port := 0, capture := 4000104, header := [0x11, 0, 3, 0, 0, 16, 0, 0, 0, 60, 0, 0], payload := zeros 60 } 1)), 0, 10000004, by decide +kernel, by decide +kernel, by decide +kernel, accept_of (by decide +kernel), by decide +kernel⟩

theorem test_meets_TahixaFrames_2 :
    ∃ (clk : Nat) (s : State) (f : RxFrame) (s2 : _) (k : _) (start : _) (c : SlotCopy), let s1 := begin clk s; let r := received (noteForeign s1 f) f; let o := trailerAt r.1 k f; r.2 = true ∧ netRuns s = true ∧ portServes r.1 f.port = true ∧ checkStatic r.1 f 2 = .accept s2 k start ∧ be f.payload (o + 4) 4 = safeCrc s.safety.connectionId f.header (f.payload.take (o + 4)) ∧ be f.payload (o + 2) 1 = hdrSrc f ∧ seqOk s1 (if f.port / 2 = 0 then (upOf s k).seqA else (upOf s k).seqB) (be f.payload o 2) = true ∧ copyOf (upOf s k) (1 - f.port / 2) = some c ∧ (upOf s k).posted = false ∧ (upOf s k).closed = false :=
  ⟨0, ({ live .run [(0x700002, 1), (0x700004, 0x0203)] 16 with net := { State.reset.net with net := .running, up := [(0, { copyB := some { start := 0, payload := zeros 60, len := 60, age := 0, notReady := false, seq := 0 } })] } }), { port := 0, capture := 4000104, header := [0x12, 0, 3, 0, 0, 16, 0, 0, 0, 60, 0, 0], payload := (zeros 54 ++ [3, 0]) ++ beBytes 4 (safeCrc 0 [0x12, 0, 3, 0, 0, 16, 0, 0, 0, 60, 0, 0] (zeros 54 ++ [3, 0])) }, (vState (checkStatic (received (noteForeign (begin 0 ({ live .run [(0x700002, 1), (0x700004, 0x0203)] 16 with net := { State.reset.net with net := .running, up := [(0, { copyB := some { start := 0, payload := zeros 60, len := 60, age := 0, notReady := false, seq := 0 } })] } })) { port := 0, capture := 4000104, header := [0x12, 0, 3, 0, 0, 16, 0, 0, 0, 60, 0, 0], payload := (zeros 54 ++ [3, 0]) ++ beBytes 4 (safeCrc 0 [0x12, 0, 3, 0, 0, 16, 0, 0, 0, 60, 0, 0] (zeros 54 ++ [3, 0])) }) { port := 0, capture := 4000104, header := [0x12, 0, 3, 0, 0, 16, 0, 0, 0, 60, 0, 0], payload := (zeros 54 ++ [3, 0]) ++ beBytes 4 (safeCrc 0 [0x12, 0, 3, 0, 0, 16, 0, 0, 0, 60, 0, 0] (zeros 54 ++ [3, 0])) }).1 { port := 0, capture := 4000104, header := [0x12, 0, 3, 0, 0, 16, 0, 0, 0, 60, 0, 0], payload := (zeros 54 ++ [3, 0]) ++ beBytes 4 (safeCrc 0 [0x12, 0, 3, 0, 0, 16, 0, 0, 0, 60, 0, 0] (zeros 54 ++ [3, 0])) } 2)), 0, 10000004, { start := 0, payload := zeros 60, len := 60, age := 0, notReady := false, seq := 0 }, by decide +kernel, by decide +kernel, by decide +kernel, accept_of (by decide +kernel), by decide +kernel, by decide +kernel, by decide +kernel, by decide +kernel, by decide +kernel, by decide +kernel⟩

theorem test_meets_TahixaFrames_3 :
    ∃ (clk : Nat) (s : State) (f : RxFrame), let s1 := begin clk s; let r := received s1 f; r.2 = true ∧ (checkDynamic r.1 f).2 = true ∧ hdrType f = 3 ∧ bit (hdrFlags f) 3 = true ∧ netRuns s = true ∧ (s.net.dynCopies.find? (fun c => c.1 = hdrSlot f) = none) ∧ s.net.hostRx.length < 16 :=
  ⟨0, ({ live .run [(0x700002, 1), (0x700004, 0x0103)] 16 with net := { State.reset.net with net := .running, grantNow := [{ node := 3, length := 20, start := 0 }], measuring := 3, reqStart := some 10000000 } }), { port := 0, capture := 4001896, header := [0x13, 8, 3, 0, 0, 16, 0x80, 0, 0, 60, 0, 0], payload := zeros 60 }, by decide +kernel, by decide +kernel, by decide +kernel, by decide +kernel, by decide +kernel, by decide +kernel, by decide +kernel⟩

theorem test_meets_TahixaFrames_4 :
    ∃ (clk : Nat) (s : State) (f : RxFrame) (req : _), let s1 := begin clk s; let r := received s1 f; r.2 = true ∧ (checkDynamic r.1 f).2 = true ∧ hdrType f = 6 ∧ hdrSrc f = s.net.measuring ∧ s.net.reqStart = some req :=
  ⟨0, ({ live .run [(0x700002, 1), (0x700004, 0x0103)] 16 with net := { State.reset.net with net := .running, grantNow := [{ node := 3, length := 20, start := 0 }], measuring := 3, reqStart := some 10000000 } }), { port := 0, capture := 4001896, header := [0x16, 0, 3, 0, 0, 16, 0x80, 0, 0, 60, 0, 0], payload := zeros 60 }, 10000000, by decide +kernel, by decide +kernel, by decide +kernel, by decide +kernel, by decide +kernel⟩

theorem test_meets_TahixaFrames_5 :
    ∃ (clk : Nat) (s : State) (k : _), let s1 := begin clk s; netRuns s = true ∧ imageActive s1 = true ∧ k ∈ upSlots s.objs ∧ (upOf s k).closed = false ∧ slotClose s1 k ≤ (now s1 : Int) * 10 ∧ (upOf s k).copyA = none ∧ (upOf s k).copyB = none ∧ (upOf s k).posted = false :=
  ⟨0, ({ live .run [(0x700002, 1), (0x700004, 0x0103)] 16 with net := { State.reset.net with net := .follow } }), 0, by decide +kernel, by decide +kernel, by decide +kernel, by decide +kernel, by decide +kernel, by decide +kernel, by decide +kernel, by decide +kernel⟩

theorem test_meets_TahixaFrames_6 :
    ∃ (s : State) (k : _), (upOf s k).singleDue = true :=
  ⟨({ live .run [] 16 with net := { State.reset.net with up := [(119, { singleDue := true })] } }), 119, by decide +kernel⟩

theorem test_meets_TahixaStates_0 :
    ∃ (clk : Nat) (s : State) (f : RxFrame), let s1 := begin clk s; let r := received s1 f; r.2 = true ∧ hdrType f = 7 ∧ hdrSrc f = otherId s ∧ bit (be f.payload 17 1) 0 = false ∧ partner r.1 = true ∧ (bit (hdrFlags f) 1 = true → tagOk r.1 f = true) ∧ (∀ c, s.net.startup = some c → c.header ≠ f.header) ∧ s.net.net = .listen :=
  ⟨0, ({ live .run [(0xC00000, 1)] 16 with net := { State.reset.net with net := .listen } }), { port := 0, capture := 4000104, header := [0x17, 0, 2, 0, 0, 16, 0, 0, 0, 60, 0, 0], payload := zeros 60 }, by decide +kernel, by decide +kernel, by decide +kernel, by decide +kernel, by decide +kernel, by decide +kernel, all_some (by decide +kernel), by decide +kernel⟩

theorem test_meets_TahixaStates_1 :
    ∃ (clk : Nat) (s : State) (f : RxFrame) (w : _), let s1 := begin clk s; let r := received s1 f; r.2 = true ∧ hdrType f = 7 ∧ hdrSrc f = otherId s ∧ bit (be f.payload 17 1) 0 = false ∧ partner r.1 = true ∧ (bit (hdrFlags f) 1 = true → tagOk r.1 f = true) ∧ (∀ c, s.net.startup = some c → c.header ≠ f.header) ∧ s.net.net = .coldstart ∧ s.net.windowStart = some w ∧ (w : Int) ≤ frameStart r.1 f ∧ frameStart r.1 f < w + tickNs s * 10 ∧ be f.payload 16 1 = 0 ∧ s.net.round = 0 :=
  ⟨0, ({ live .run [(0xC00000, 1)] 16 with net := { State.reset.net with net := .coldstart, windowStart := some 10000000 } }), { port := 0, capture := 4000104, header := [0x17, 0, 2, 0, 0, 16, 0, 0, 0, 60, 0, 0], payload := zeros 60 }, 10000000, by decide +kernel, by decide +kernel, by decide +kernel, by decide +kernel, by decide +kernel, by decide +kernel, all_some (by decide +kernel), by decide +kernel, by decide +kernel, by decide +kernel, by decide +kernel, by decide +kernel, by decide +kernel⟩

theorem test_meets_TahixaStates_2 :
    ∃ (s : State), s.net.net = .listen ∧ 8 ≤ s.net.listenCycles :=
  ⟨({ live .run [] 16 with net := { State.reset.net with net := .listen, listenCycles := 8 } }), by decide +kernel, by decide +kernel⟩

theorem test_meets_TahixaStates_3 :
    ∃ (clk : Nat) (s : State) (w : _), let s1 := begin clk s; s.net.net = .coldstart ∧ s.net.windowStart = some w ∧ w + tickNs s * 10 ≤ now s1 * 10 :=
  ⟨0, ({ live .run [] 16 with net := { State.reset.net with net := .coldstart, windowStart := some 0 } }), 0, by decide +kernel, by decide +kernel, by decide +kernel⟩

theorem test_meets_TahixaStates_4 :
    ∃ (clk : Nat) (s : State) (e : _), let s1 := begin clk s; s.net.net = .backoff ∧ s.net.backoffEnd = some e ∧ e ≤ now s1 * 10 :=
  ⟨0, ({ live .run [] 16 with net := { State.reset.net with net := .backoff, backoffEnd := some 10600000 } }), 10600000, by decide +kernel, by decide +kernel, by decide +kernel⟩

theorem test_meets_TahixaStates_5 :
    ∃ (s : State) (n : _), nodePresent s.objs n = true ∧ (nodeOf s n).state = .syncing ∧ 2 ≤ (nodeOf s n).measured ∧ (slotsOf s n = [] ∨ 16 ≤ (nodeOf s n).cleanTicks) :=
  ⟨({ live .run [(0x70FE00, 1)] 16 with net := { State.reset.net with nodes := [(254, { state := .syncing, measured := 2 })] } }), 254, by decide +kernel, by decide +kernel, by decide +kernel, by decide +kernel⟩

theorem test_meets_TahixaStates_6 :
    ∃ (s : State) (n : _), nodePresent s.objs n = true ∧ (nodeOf s n).state = .integrated ∧ (if (slotsOf s n).isEmpty then 2 ≤ (nodeOf s n).unanswered else ov s 0x70 0 0x26 ≤ (nodeOf s n).silentTicks) :=
  ⟨({ live .run [(0x70FE00, 1)] 16 with net := { State.reset.net with nodes := [(254, { state := .integrated, unanswered := 2 })] } }), 254, by decide +kernel, by decide +kernel, by decide +kernel⟩

theorem test_meets_TahixaStates_7 :
    ∃ (s : State) (n : _), (nodeOf s n).driftDue = true :=
  ⟨({ live .run [] 16 with net := { State.reset.net with nodes := [(254, { driftDue := true })] } }), 254, by decide +kernel⟩

theorem test_meets_TahixaStates_8 :
    ∃ (clk : Nat) (s : State), let s1 := begin clk s; netLeads s1 = true ∧ ringMode s.objs = true ∧ (∃ k, (downOf s 0).sent = some k ∧ s.herd.tick ≤ k) ∧ tickStart s1 * 10 + 4480 * staticDown s + 1024 * miniSlots (tickNs s) (staticDown s) ≤ now s1 * 10 ∧ 0 < s.net.rings.length ∧ ringOpen s1 0 = false ∧ (nth {} s.net.rings 0).closureSeen = false :=
  ⟨0, ({ live .run [(0x700020, 2)] with net := { State.reset.net with net := .running, down := [(0, { sent := some 17 })] }, herd := { (live .run).herd with ht := 1062000 } }), by decide +kernel, by decide +kernel, ⟨17, by decide +kernel⟩, by decide +kernel, by decide +kernel, by decide +kernel, by decide +kernel⟩

theorem test_meets_TahixaStates_9 :
    ∃ (s : State) (r : _) (k : _), r < s.net.rings.length ∧ (nth {} s.net.rings r).restoreAt = some k ∧ k ≤ s.herd.tick :=
  ⟨({ live .run [] 16 with net := { State.reset.net with rings := [{}, { restoreAt := some 16 }] } }), 1, 16, by decide +kernel, by decide +kernel, by decide +kernel⟩

theorem test_meets_TahixaStates_10 :
    ∃ (s : State) (p : _), p < 5 ∧ s.net.linkUp.getLsbD p = true :=
  ⟨({ live .run [] 16 with net := { State.reset.net with linkUp := 0x1F } }), 4, by decide +kernel, by decide +kernel⟩

theorem test_meets_TahixaStates_11 :
    ∃ (s : State) (p : _), p < 5 ∧ domainOn s 9 = true :=
  ⟨(up .run), 4, by decide +kernel, by decide +kernel⟩

theorem test_meets_TasksRun_0 :
    ∃ (clk : Nat) (s : State) (p : _) (rest : _), let s1 := begin clk s; sortBy postBefore s.sched.posts = p :: rest ∧ p.at_ ≤ now s1 ∧ schedUp s = true :=
  ⟨0, ({ live .run [] 16 with sched := { State.reset.sched with posts := [{ source := 0x1000, tag := 16, value := .data [], age := 0, at_ := 0 }] } }), { source := 0x1000, tag := 16, value := .data [], age := 0, at_ := 0 }, [], by decide +kernel, by decide +kernel, by decide +kernel⟩

theorem test_meets_TasksRun_1 :
    ∃ (s : State), schedUp s = true :=
  ⟨(live .run), by decide +kernel⟩

theorem test_meets_TasksRun_2 :
    ∃ (clk : Nat) (s : State) (c : _) (x : _), let s1 := begin clk s; c < 16 ∧ s.sched.cores.length = 16 ∧ schedUp s = true ∧ coreFree s1 c = true ∧ (nth {} s.sched.cores c).running.all (·.done) = true ∧ lowerFirst s1 c = false ∧ pickFor s1 c = some x :=
  ⟨0, ({ live .run [] 16 with sched := { State.reset.sched with descriptors := [{ target := 15 }], store := [{ descriptor := 0, tag := 16, operands := [], ready := some 0 }] } }), 15, { descriptor := 0, tag := 16, operands := [], ready := some 0 }, by decide +kernel, by decide +kernel, by decide +kernel, by decide +kernel, by decide +kernel, by decide +kernel, by decide +kernel⟩

theorem test_meets_TasksRun_3 :
    ∃ (s : State) (x : _), (s.sched.store.find? (fun x => decide (x.tag + 16 < s.herd.tick)) = some x) :=
  ⟨({ live .run [] 17 with sched := { State.reset.sched with store := [{ descriptor := 0, tag := 0, operands := [] }] } }), { descriptor := 0, tag := 0, operands := [] }, by decide +kernel⟩

theorem test_meets_TasksRun_4 :
    ∃ (clk : Nat) (s : State) (h : Nat × Nat × Operand × Nat × Nat) (rest : _), let s1 := begin clk s; let p := { source := h.1, tag := h.2.1, value := h.2.2.1, age := h.2.2.2.1, at_ := h.2.2.2.2 }; s.sched.held = h :: rest ∧ needsRoom s1 p = true :=
  ⟨0, ({ live .run [] 16 with sched := { State.reset.sched with descriptors := [{ operands := [(0x1000, 1)] }], held := [(0x1000, 16, .data [], 0, 0)], store := List.replicate 4096 { descriptor := 0, tag := 0, operands := [] } } }), (0x1000, 16, .data [], 0, 0), [], by decide +kernel, by decide +kernel⟩

theorem test_meets_TasksRun_5 :
    ∃ (clk : Nat) (s : State) (h : Nat × Nat × Operand × Nat × Nat) (rest : _), let s1 := begin clk s; let p := { source := h.1, tag := h.2.1, value := h.2.2.1, age := h.2.2.2.1, at_ := h.2.2.2.2 }; s.sched.held = h :: rest ∧ needsRoom s1 p = false :=
  ⟨0, ({ live .run [] 16 with sched := { State.reset.sched with held := [(0x1000, 16, .data [], 0, 0)] } }), (0x1000, 16, .data [], 0, 0), [], by decide +kernel, by decide +kernel⟩

theorem test_meets_LoopsAndKernels_0 :
    ∃ (clk : Nat) (s : State) (c : _) (r : _) (x : _), let s1 := begin clk s; c < s.sched.cores.length ∧ (nth {} s.sched.cores c).running = some r ∧ loopInput s1 r = some x ∧ r.done = false ∧ isolated s 2 1 = false ∧ gated s 2 1 = false ∧ r.start + timeOut (loopDims x.objs x.ch x.off) ≤ now s1 :=
  ⟨0, ({ live .run [] 16 with sched := { State.reset.sched with descriptors := [{ kind := 1 }], cores := { running := some { inst := { descriptor := 0, tag := 16, operands := [(0x1000, .feedback {}, 0), (0x2000, .setpoint {}, 0)] }, start := 0, finish := 0 } } :: List.replicate 15 {} } }), 0, { inst := { descriptor := 0, tag := 16, operands := [(0x1000, .feedback {}, 0), (0x2000, .setpoint {}, 0)] }, start := 0, finish := 0 }, ((loopInput (begin 0 ({ live .run [] 16 with sched := { State.reset.sched with descriptors := [{ kind := 1 }], cores := { running := some { inst := { descriptor := 0, tag := 16, operands := [(0x1000, .feedback {}, 0), (0x2000, .setpoint {}, 0)] }, start := 0, finish := 0 } } :: List.replicate 15 {} } })) { inst := { descriptor := 0, tag := 16, operands := [(0x1000, .feedback {}, 0), (0x2000, .setpoint {}, 0)] }, start := 0, finish := 0 }).get (by decide +kernel)), by decide +kernel, by decide +kernel, (Option.some_get _).symm, by decide +kernel, by decide +kernel, by decide +kernel, by decide +kernel⟩

theorem test_meets_LoopsAndKernels_1 :
    ∃ (s : State) (l : _) (c : _), (loopState s l).due = some c :=
  ⟨({ live .run with ctl := { State.reset.ctl with loops := [(191, { due := some .age })] } }), 191, .age, by decide +kernel⟩

theorem test_meets_LoopsAndKernels_2 :
    ∃ (clk : Nat) (s : State) (k : _), let s1 := begin clk s; dspUp s = true ∧ kernelDue s1 k = true ∧ (∀ j, j < k → kernelDue s1 j = false) ∧ max (windowOpen s1) s.dsp.busyUntil ≤ now s1 ∧ now s1 < windowClose s1 ∧ s.dsp.busyUntil < windowClose s1 ∧ k < s.dsp.kernels.length :=
  ⟨0, ({ live .run [(0x100400, 50000), (0x100401, 11000), (0x100B03, 1)] with dsp := { State.reset.dsp with kernels := [{}, {}, {}, { load := .resident }] } }), 3, by decide +kernel, by decide +kernel, by decide +kernel, by decide +kernel, by decide +kernel, by decide +kernel, by decide +kernel⟩

theorem test_meets_LoopsAndKernels_3 :
    ∃ (clk : Nat) (s : State) (k : _) (m : _), let s1 := begin clk s; (kernelOf s k).overrun = some m ∧ (m ≠ s.herd.tick ∨ windowClose s1 ≤ now s1) :=
  ⟨0, ({ live .run with dsp := { State.reset.dsp with kernels := [{}, {}, {}, { overrun := some 15 }] } }), 3, 15, by decide +kernel, by decide +kernel⟩

theorem test_meets_ErrorsAndInputs_0 :
    ∃ (s : State) (r : _) (b : _), blockKnown r b = true ∧ isolated s r b = false ∧ s.hw.brownOut = false :=
  ⟨(up .run), 4, 3, by decide +kernel, by decide +kernel, by decide +kernel⟩

theorem test_meets_ErrorsAndInputs_1 :
    ∃ (s : State) (r : _) (b : _), blockKnown r b = true ∧ isolated s r b = false ∧ s.hw.brownOut = false :=
  ⟨(up .run), 4, 3, by decide +kernel, by decide +kernel, by decide +kernel⟩

theorem test_meets_ErrorsAndInputs_2 :
    ∃ (s : State) (r : _) (b : _), blockKnown r b = true ∧ isolated s r b = false ∧ s.hw.brownOut = false ∧ r ≤ 4 :=
  ⟨(up .run), 4, 3, by decide +kernel, by decide +kernel, by decide +kernel, by decide +kernel⟩

theorem test_meets_ErrorsAndInputs_3 :
    ∃ (s : State) (r : _) (b : _), blockKnown r b = true ∧ isolated s r b = false ∧ s.hw.brownOut = false ∧ (r = 5 ∨ r = 6 ∨ r = 7) :=
  ⟨(up .run), 5, 0, by decide +kernel, by decide +kernel, by decide +kernel, by decide +kernel⟩

theorem test_meets_ErrorsAndInputs_4 :
    ∃ (s : State) (r : _) (b : _), blockKnown r b = true ∧ isolated s r b = false ∧ s.hw.brownOut = false :=
  ⟨(up .run), 4, 3, by decide +kernel, by decide +kernel, by decide +kernel⟩

theorem test_meets_ErrorsAndInputs_5 :
    ∃ (clk : Nat) (s : State) (r : _) (b : _), let s1 := begin clk s; blockKnown r b = true ∧ isolated s r b = false ∧ s.hw.brownOut = false ∧ r ≤ 4 ∧ 16 ≤ containedCount s1 r b :=
  ⟨0, ({ up .run with mode := { (up .run).mode with contained := List.replicate 16 (4, 3, 0) } }), 4, 3, by decide +kernel, by decide +kernel, by decide +kernel, by decide +kernel, by decide +kernel⟩

theorem test_meets_ErrorsAndInputs_6 :
    ∃ (s : State) (area : _), (domainOn s 14 = true ∨ s.start.running = true) ∧ area ≤ 2 :=
  ⟨(up .run), 2, by decide +kernel, by decide +kernel⟩

theorem test_meets_ErrorsAndInputs_7 :
    ∃ (s : State) (area : _), (domainOn s 14 = true ∨ s.start.running = true) ∧ area = 4 :=
  ⟨(up .run), 4, by decide +kernel, by decide +kernel⟩

theorem test_meets_ErrorsAndInputs_8 :
    ∃ (s : State), fieldUp s 0 = true :=
  ⟨(up .run), by decide +kernel⟩

theorem test_meets_ErrorsAndInputs_9 :
    ∃ (s : State) (g : _) (mv : _), fieldUp s 0 = true ∧ g < 4 ∧ mv < 18000 :=
  ⟨(up .run), 3, 17999, by decide +kernel, by decide +kernel, by decide +kernel⟩

theorem test_meets_ErrorsAndInputs_10 :
    ∃ (s : State) (g : _), fieldUp s 0 = true ∧ g < 2 :=
  ⟨(up .run), 1, by decide +kernel, by decide +kernel⟩

theorem test_meets_ErrorsAndInputs_11 :
    ∃ (s : State) (g : _) (mv : _), fieldUp s 0 = true ∧ 18000 ≤ mv ∧ g < 4 :=
  ⟨(up .run), 3, 18000, by decide +kernel, by decide +kernel, by decide +kernel⟩

theorem test_meets_ErrorsAndInputs_12 :
    ∃ (s : State) (g : _) (mv : _), fieldUp s 0 = true ∧ 18000 ≤ mv ∧ g < 2 :=
  ⟨(up .run), 1, 18000, by decide +kernel, by decide +kernel, by decide +kernel⟩

theorem test_meets_EncodersCount_0 :
    ∃ (e : Nat) (s : State) (a : _) (b : _), let x := encOf s e; fieldUp s 2 = true ∧ e < s.field.encoders.length ∧ eo s e 0 = 1 ∧ x.lineFault = false ∧ (x.a, x.b) ≠ (a, b) :=
  ⟨7, ({ live .run [(0x901700, 1)] with field := { State.reset.field with encoders := List.replicate 7 {} ++ [{  }] } }), true, false, by decide +kernel, by decide +kernel, by decide +kernel, by decide +kernel, by decide +kernel⟩

theorem test_meets_EncodersCount_1 :
    ∃ (e : Nat) (s : State), let x := encOf s e; fieldUp s 2 = true ∧ e < s.field.encoders.length ∧ eo s e 0 = 1 ∧ x.lineFault = false ∧ x.a = true ∧ x.b = true ∧ x.z = false :=
  ⟨7, ({ live .run [(0x901700, 1)] with field := { State.reset.field with encoders := List.replicate 7 {} ++ [{ a := true, b := true }] } }), by decide +kernel, by decide +kernel, by decide +kernel, by decide +kernel, by decide +kernel, by decide +kernel, by decide +kernel⟩

theorem test_meets_EncodersCount_2 :
    ∃ (e : Nat) (s : State), let x := encOf s e; fieldUp s 2 = true ∧ e < s.field.encoders.length ∧ eo s e 0 ≠ 0 ∧ x.lineFault = false :=
  ⟨7, ({ live .run [(0x901700, 1)] with field := { State.reset.field with encoders := List.replicate 7 {} ++ [{  }] } }), by decide +kernel, by decide +kernel, by decide +kernel, by decide +kernel⟩

theorem test_meets_EncodersCount_3 :
    ∃ (e : Nat) (s : State), let x := encOf s e; fieldUp s 2 = true ∧ e < s.field.encoders.length ∧ x.lineFault = true :=
  ⟨7, ({ live .run [(0x901700, 1)] with field := { State.reset.field with encoders := List.replicate 7 {} ++ [{ lineFault := true }] } }), by decide +kernel, by decide +kernel, by decide +kernel⟩

theorem test_meets_EncodersCount_4 :
    ∃ (clk : Nat) (e : Nat) (s : State), let s1 := begin clk s; let x := encOf s e; fieldUp s 2 = true ∧ e < s.field.encoders.length ∧ eo s e 0 ≠ 0 ∧ x.lastChange + standNs s e ≤ now s1 :=
  ⟨0, 7, ({ live .run [(0x901700, 1)] with herd := { (live .run).herd with ht := 100000000 } }), by decide +kernel, by decide +kernel, by decide +kernel, by decide +kernel⟩

theorem test_meets_EncodersCount_5 :
    ∃ (clk : Nat) (e : Nat) (s : State), let s1 := begin clk s; let x := encOf s e; fieldUp s 2 = true ∧ e < s.field.encoders.length ∧ s.herd.running = true ∧ eo s e 0 = 1 ∧ x.latchTick ≠ some s.herd.tick ∧ tickStart s1 + eo s e 9 ≤ now s1 :=
  ⟨0, 7, ({ live .run [(0x901700, 1)] with field := { State.reset.field with encoders := List.replicate 7 {} ++ [{  }] } }), by decide +kernel, by decide +kernel, by decide +kernel, by decide +kernel, by decide +kernel, by decide +kernel⟩

theorem test_meets_EncodersCount_6 :
    ∃ (clk : Nat) (e : Nat) (s : State), let s1 := begin clk s; fieldUp s 2 = true ∧ e < s.field.encoders.length ∧ s.herd.running = true ∧ tickStart s1 + eo s e 9 ≤ now s1 ∧ eo s e 0 = 2 :=
  ⟨0, 7, ({ live .run [(0x901700, 2)] with field := { State.reset.field with encoders := List.replicate 7 {} ++ [{  }] } }), by decide +kernel, by decide +kernel, by decide +kernel, by decide +kernel, by decide +kernel⟩

theorem test_meets_EncodersCount_7 :
    ∃ (clk : Nat) (e : Nat) (s : State), let s1 := begin clk s; fieldUp s 2 = true ∧ e < s.field.encoders.length ∧ s.herd.running = true ∧ tickStart s1 + eo s e 9 ≤ now s1 ∧ eo s e 0 = 3 :=
  ⟨0, 7, ({ live .run [(0x901700, 3)] with field := { State.reset.field with encoders := List.replicate 7 {} ++ [{  }] } }), by decide +kernel, by decide +kernel, by decide +kernel, by decide +kernel, by decide +kernel⟩

theorem test_meets_EncodersCount_8 :
    ∃ (e : Nat) (s : State) (ref : _) (reply : EncoderReply), let x := encOf s e; let w := if eo s e 0 = 2 then ssiWord s e reply else linkWord s e reply; fieldUp s 2 = true ∧ e < s.field.encoders.length ∧ x.transaction = some ref ∧ 2 ≤ eo s e 0 ∧ w.2 = [] ∧ x.lineFault = false :=
  ⟨7, ({ live .run [(0x901700, 2)] with field := { State.reset.field with encoders := List.replicate 7 {} ++ [{ transaction := some 0 }] } }), 0, { bits := List.replicate 25 false }, by decide +kernel, by decide +kernel, by decide +kernel, by decide +kernel, by decide +kernel, by decide +kernel⟩

theorem test_meets_EncodersCount_9 :
    ∃ (e : Nat) (s : State) (ref : _) (reply : EncoderReply), let x := encOf s e; let w := if eo s e 0 = 2 then ssiWord s e reply else linkWord s e reply; fieldUp s 2 = true ∧ e < s.field.encoders.length ∧ x.transaction = some ref ∧ 2 ≤ eo s e 0 ∧ w.2 ≠ [] :=
  ⟨7, ({ live .run [(0x901700, 2)] with field := { State.reset.field with encoders := List.replicate 7 {} ++ [{ transaction := some 0 }] } }), 0, { idle := false }, by decide +kernel, by decide +kernel, by decide +kernel, by decide +kernel, by decide +kernel⟩

theorem test_meets_EncodersCount_10 :
    ∃ (clk : Nat) (e : Nat) (s : State) (ref : _), let s1 := begin clk s; let x := encOf s e; fieldUp s 2 = true ∧ e < s.field.encoders.length ∧ x.transaction = some ref ∧ eo s e 0 = 3 ∧ ref + eo s e 0x17 * 1000 ≤ now s1 :=
  ⟨0, 7, ({ live .run [(0x901700, 3)] with field := { State.reset.field with encoders := List.replicate 7 {} ++ [{ transaction := some 0 }] } }), 0, by decide +kernel, by decide +kernel, by decide +kernel, by decide +kernel, by decide +kernel⟩

theorem test_meets_EncodersCount_11 :
    ∃ (clk : Nat) (e : Nat) (s : State) (d : _) (r : _), let s1 := begin clk s; let x := encOf s e; fieldUp s 2 = true ∧ e < s.field.encoders.length ∧ eo s e 0x0F = 2 ∧ x.emuQueue = d :: r ∧ d ≠ 0 ∧ (x.lastEmu = 0 ∨ x.lastEmu + 50 ≤ now s1) :=
  ⟨0, 7, ({ live .run [(0x90170F, 2)] with field := { State.reset.field with encoders := List.replicate 7 {} ++ [{ emuQueue := [1] }] } }), 1, [], by decide +kernel, by decide +kernel, by decide +kernel, by decide +kernel, by decide +kernel, by decide +kernel⟩

theorem test_meets_AuxiliaryAxes_0 :
    ∃ (clk : Nat) (k : Nat) (s : State), let s1 := begin clk s; fieldUp s 1 = true ∧ k < 8 ∧ s.field.axes.length = 8 ∧ accNow s1 k ≠ (accOf s k).count :=
  ⟨0, 7, ({ live .run with prof := { State.reset.prof with accs := [(7, { count := 5 })] } }), by decide +kernel, by decide +kernel, by decide +kernel, by decide +kernel⟩

theorem test_meets_AuxiliaryAxes_1 :
    ∃ (k : Nat) (s : State), fieldUp s 1 = true ∧ k < 8 ∧ s.field.axes.length = 8 :=
  ⟨7, (live .run), by decide +kernel, by decide +kernel, by decide +kernel⟩

theorem test_meets_AuxiliaryAxes_2 :
    ∃ (clk : Nat) (k : Nat) (s : State) (c : _) (u : _), let s1 := begin clk s; fieldUp s 1 = true ∧ k < 8 ∧ s.field.axes.length = 8 ∧ auxLoop s k = true ∧ (((axisOf s k).outputs.filter (fun o => decide (o.1 + 40 ≤ tickStart s1 + (now s1 - tickStart s1) / 2000 * 2000))).getLast? = some (c, u)) :=
  ⟨0, 7, ({ live .run [(0x214740, 1)] with field := { State.reset.field with axes := List.replicate 7 {} ++ [{ outputs := [(0, 0)] }] } }), 0, 0, by decide +kernel, by decide +kernel, by decide +kernel, by decide +kernel, by decide +kernel⟩

theorem test_meets_AuxiliaryAxes_3 :
    ∃ (k : Nat) (s : State) (h : _), fieldUp s 1 = true ∧ k < 8 ∧ s.field.axes.length = 8 ∧ (axisOf s k).chopDue = some h :=
  ⟨7, ({ live .run [] with field := { State.reset.field with axes := List.replicate 7 {} ++ [{ chopDue := some true }] } }), true, by decide +kernel, by decide +kernel, by decide +kernel, by decide +kernel⟩

theorem test_meets_AuxiliaryAxes_4 :
    ∃ (k : Nat) (s : State), fieldUp s 1 = true ∧ k < 8 ∧ s.field.axes.length = 8 ∧ (axisOf s k).stallDue = true :=
  ⟨7, ({ live .run [] with field := { State.reset.field with axes := List.replicate 7 {} ++ [{ stallDue := true }] } }), by decide +kernel, by decide +kernel, by decide +kernel, by decide +kernel⟩

theorem test_meets_AuxiliaryAxes_5 :
    ∃ (clk : Nat) (k : Nat) (s : State), let s1 := begin clk s; let e := ao s k 3; let absolute := decide (e < 8) && decide (2 ≤ eo s e 0); fieldUp s 1 = true ∧ k < 8 ∧ s.field.axes.length = 8 ∧ s.herd.running = true ∧ (axisOf s k).fbTick ≠ some s.herd.tick ∧ tickStart s1 + ao s k 5 ≤ now s1 ∧ (absolute = true → (encOf s e).latchTick = some s.herd.tick) :=
  ⟨0, 7, ({ live .run [(0x902700, 1)] with field := { State.reset.field with axes := List.replicate 7 {} ++ [{  }] } }), by decide +kernel, by decide +kernel, by decide +kernel, by decide +kernel, by decide +kernel, by decide +kernel, by decide +kernel⟩

theorem test_meets_HerdTimeSources_0 :
    ∃ (d : Nat) (s : State) (m : _) (a : _), d < 2 ∧ s.herd.domains.length = 2 ∧ takesPtp s m = true ∧ m.messageType = 0 ∧ forDomain s m d = true ∧ forDomain s m (1 - d) = false ∧ domainRole s d = 1 ∧ (domainOf s d).parent = some a ∧ a.sender = m.source ∧ (domainOf s d).state = .listening ∧ (timeSource s = 1 → s.herd.selected ≠ some d) :=
  ⟨1, ({ up .run [(0x801100, 127), (0x801101, 1), (0x801102, 1), (0x801104, 1)] with herd := { (up .run).herd with ht := 100000000000, domains := [{}, { state := .listening, parent := some { priority1 := 0, clockClass := 6, accuracy := 0, variance := 0, priority2 := 0, gm := 1, stepsRemoved := 0, sender := 7, interval := 0 } }] } }), { messageType := 0, port := 1, transport := 1, domainNumber := 127, source := 7, capture := 400000000000 }, { priority1 := 0, clockClass := 6, accuracy := 0, variance := 0, priority2 := 0, gm := 1, stepsRemoved := 0, sender := 7, interval := 0 }, by decide +kernel, by decide +kernel, by decide +kernel, by decide +kernel, by decide +kernel, by decide +kernel, by decide +kernel, by decide +kernel, by decide +kernel, by decide +kernel, by decide +kernel⟩

theorem test_meets_HerdTimeSources_1 :
    ∃ (d : Nat) (s : State) (m : _), d < 2 ∧ s.herd.domains.length = 2 ∧ takesPtp s m = true ∧ m.messageType = 1 ∧ forDomain s m d = true ∧ forDomain s m (1 - d) = false ∧ domainRole s d = 2 ∧ ov s 0x80 (0x10 + d) 3 = 0 :=
  ⟨1, ({ up .run [(0x801100, 127), (0x801101, 1), (0x801102, 2), (0x801104, 1)] with herd := { (up .run).herd with ht := 100000000000, domains := [{}, {}] } }), { messageType := 1, port := 1, transport := 1, domainNumber := 127, source := 7, capture := 400000000000 }, by decide +kernel, by decide +kernel, by decide +kernel, by decide +kernel, by decide +kernel, by decide +kernel, by decide +kernel, by decide +kernel⟩

theorem test_meets_HerdTimeSources_2 :
    ∃ (clk : Nat) (d : Nat) (s : State), let s1 := begin clk s; d < 2 ∧ s.herd.domains.length = 2 ∧ s.herd.running = true ∧ ptpDown s = false ∧ domainRole s d = 2 ∧ ov s 0x80 0 0x14 ≠ 1 ∧ (∀ x, (domainOf s d).syncSent = some x → x + logInterval (sext 16 (ov s 0x80 (0x10 + d) 5)) ≤ now s1) :=
  ⟨0, 1, ({ up .run [(0x801102, 2)] with herd := { (up .run).herd with ht := 100000000000, domains := [{}, {}] } }), by decide +kernel, by decide +kernel, by decide +kernel, by decide +kernel, by decide +kernel, by decide +kernel, all_some (by decide +kernel)⟩

theorem test_meets_HerdTimeSources_3 :
    ∃ (d : Nat) (s : State), d < 2 ∧ s.herd.domains.length = 2 ∧ (domainOf s d).lockRun = 16 ∧ (domainOf s d).state = .uncalibrated :=
  ⟨1, ({ up .run [] with herd := { (up .run).herd with ht := 100000000000, domains := [{}, { state := .uncalibrated, lockRun := 16 }] } }), by decide +kernel, by decide +kernel, by decide +kernel, by decide +kernel⟩

theorem test_meets_HerdTimeSources_4 :
    ∃ (d : Nat) (s : State), d < 2 ∧ s.herd.domains.length = 2 ∧ s.herd.lockRun = 16 ∧ s.herd.state = .acquiring :=
  ⟨0, ({ up .run [] with herd := { (up .run).herd with ht := 100000000000, state := .acquiring, lockRun := 16 } }), by decide +kernel, by decide +kernel, by decide +kernel, by decide +kernel⟩

theorem test_meets_HerdTimeSources_5 :
    ∃ (clk : Nat) (d : Nat) (s : State) (x : _), let s1 := begin clk s; d < 2 ∧ s.herd.domains.length = 2 ∧ measuring s d = true ∧ (domainOf s d).lastSync = some x ∧ x + 3 * logInterval (sext 16 (ov s 0x80 (0x10 + d) 5)) ≤ now s1 :=
  ⟨0, 1, ({ up .run [(0x801102, 1)] with herd := { (up .run).herd with ht := 100000000000, domains := [{}, { state := .locked, lastSync := some 0 }] } }), 0, by decide +kernel, by decide +kernel, by decide +kernel, by decide +kernel, by decide +kernel⟩

theorem test_meets_HerdTimeSources_6 :
    ∃ (clk : Nat) (d : Nat) (s : State) (x : _), let s1 := begin clk s; d < 2 ∧ s.herd.domains.length = 2 ∧ domainRole s d = 1 ∧ (domainOf s d).lastAnnounce = some x ∧ x + 3 * logInterval (domainOf s d).announceInterval ≤ now s1 :=
  ⟨0, 1, ({ up .run [(0x801102, 1)] with herd := { (up .run).herd with ht := 100000000000, domains := [{}, { lastAnnounce := some 97000000000 }] } }), 97000000000, by decide +kernel, by decide +kernel, by decide +kernel, by decide +kernel, by decide +kernel⟩

theorem test_meets_HerdTimeSources_7 :
    ∃ (clk : Nat) (s : State) (x : _), let s1 := begin clk s; timeSource s = 1 ∧ ov s 0x80 0 8 ≠ 0 ∧ domainLocked s (ov s 0x80 0 7) = true ∧ s.herd.selected = some (1 - ov s 0x80 0 7) ∧ (domainOf s (ov s 0x80 0 7)).lockedSince = some x ∧ x + ov s 0x80 0 8 * 1000000000 ≤ now s1 :=
  ⟨0, ({ up .run [(0x800000, 1), (0x801002, 1)] with herd := { (up .run).herd with ht := 100000000000, selected := some 1, domains := [{ state := .locked, lockedSince := some 40000000000 }, {}] } }), 40000000000, by decide +kernel, by decide +kernel, by decide +kernel, by decide +kernel, by decide +kernel, by decide +kernel⟩

theorem test_meets_HerdTimeSources_8 :
    ∃ (clk : Nat) (s : State), let s1 := begin clk s; s1.herd.slewRem = 0 :=
  ⟨0, (live .run), by decide +kernel⟩

theorem test_meets_HerdTimeSources_9 :
    ∃ (s : State), s.herd.running = true ∧ isolated s 3 5 = false ∧ timeSource s ≠ 2 :=
  ⟨(live .run), by decide +kernel, by decide +kernel, by decide +kernel⟩

theorem test_meets_HerdTimeSources_10 :
    ∃ (clk : Nat) (s : State) (q : _), let s1 := begin clk s; s.herd.running = true ∧ isolated s 3 5 = false ∧ timeSource s = 2 ∧ s.herd.state ≠ .locked ∧ ppsClosed s1 (nearestNs q) = false :=
  ⟨0, ({ up .run [(0x800000, 2)] with herd := { (up .run).herd with ht := 100000000000, ppsSecond := none } }), 98500000000, by decide +kernel, by decide +kernel, by decide +kernel, by decide +kernel, by decide +kernel⟩

theorem test_meets_HerdTimeSources_11 :
    ∃ (clk : Nat) (s : State) (x : _), let s1 := begin clk s; s.herd.lastPps = some x ∧ x + 1500000000 ≤ now s1 :=
  ⟨0, ({ up .run [] with herd := { (up .run).herd with ht := 100000000000, lastPps := some 98500000000 } }), 98500000000, by decide +kernel, by decide +kernel⟩

theorem test_meets_HerdTimeSources_12 :
    ∃ (clk : Nat) (s : State), let s1 := begin clk s; let e := nextPps s1; s.herd.running = true ∧ isolated s 3 5 = false ∧ e.2 ≤ clocksTo s1 (nextTick s1) :=
  ⟨0, ({ up .run [] with herd := { (up .run).herd with ht := 100000000000, ppsSecond := none } }), by decide +kernel, by decide +kernel, by decide +kernel⟩

theorem test_meets_HerdTimeSources_13 :
    ∃ (clk : Nat) (s : State), let s1 := begin clk s; let k := (herdPos s1.herd - sext 16 (ov s 0x80 0 0x11) * 2 ^ 30) / (1000000000 * fracUnit); s.herd.ppsSecond = some k.toNat :=
  ⟨0, ({ up .run [] with herd := { (up .run).herd with ht := 100000000000, ppsSecond := some 100 } }), by decide +kernel⟩

theorem test_meets_HerdTimeSources_14 :
    ∃ (s : State), s.herd.running = true ∧ timeSource s = 3 ∧ pairDown s = false ∧ isolated s 3 5 = false ∧ s.herd.following = true ∧ s.herd.state = .acquiring :=
  ⟨({ up .run [(0x800000, 3)] with herd := { (up .run).herd with ht := 100000000000, following := true, state := .acquiring } }), by decide +kernel, by decide +kernel, by decide +kernel, by decide +kernel, by decide +kernel, by decide +kernel⟩

theorem test_meets_HerdTimeSources_15 :
    ∃ (clk : Nat) (s : State), let s1 := begin clk s; s.herd.running = true ∧ (∀ v, s.aon.herd = some v → v.1 + 1000000 ≤ now s1 ∨ now s1 < v.1) :=
  ⟨0, ({ live .run with aon := { State.reset.aon with herd := some (60000, 0) } }), by decide +kernel, all_some (by decide +kernel)⟩

theorem test_meets_ResetsAndSupplies_0 :
    ∃ (s : State), s.hw.brownOut = false :=
  ⟨(up .run), by decide +kernel⟩

theorem test_meets_ResetsAndSupplies_1 :
    ∃ (s : State), domainOn s 1 = true :=
  ⟨(up .run), by decide +kernel⟩

theorem test_meets_ResetsAndSupplies_2 :
    ∃ (mv : Nat), mv < 10200 :=
  ⟨10199, by decide +kernel⟩

theorem test_meets_ResetsAndSupplies_3 :
    ∃ (mv : Nat) (s : State), 10800 ≤ mv ∧ s.hw.brownOut = true :=
  ⟨10800, ({ up .boot with hw := { State.reset.hw with brownOut := true } }), by decide +kernel, by decide +kernel⟩

theorem test_meets_ResetsAndSupplies_4 :
    ∃ (mv : Nat), 10800 ≤ mv :=
  ⟨10800, by decide +kernel⟩

theorem test_meets_ResetsAndSupplies_5 :
    ∃ (mv : Nat) (s : State), 10200 ≤ mv ∧ mv < 10800 ∧ s.hw.brownOut = false :=
  ⟨10200, (up .run), by decide +kernel, by decide +kernel, by decide +kernel⟩

theorem test_meets_ResetsAndSupplies_6 :
    ∃ (mv : Nat) (s : State), 13600 < mv ∧ s.hw.brownOut = false :=
  ⟨13601, (up .run), by decide +kernel, by decide +kernel⟩

theorem test_meets_ResetsAndSupplies_7 :
    ∃ (mv : Nat) (s : State), 10800 ≤ mv ∧ mv ≤ 13200 ∧ s.hw.brownOut = false :=
  ⟨13200, (up .run), by decide +kernel, by decide +kernel, by decide +kernel⟩

theorem test_meets_ResetsAndSupplies_8 :
    ∃ (n : _), n ≠ 0 :=
  ⟨1, by decide +kernel⟩

theorem test_meets_ClocksWatched_0 :
    ∃ (clk : Nat) (s : State), let s1 := begin clk s; inB03 s = true ∧ s.start.since + 250000 ≤ s1.clock ∧ s1.clock ≤ s.start.since + 1125000 ∧ s.clocks.reference = .rc ∧ s.clocks.lost = none ∧ s.clocks.switching = none ∧ s.clocks.next = none :=
  ⟨0, ({ State.reset with start := { State.reset.start with running := true, step := 2 }, clock := 250000 }), by decide +kernel, by decide +kernel, by decide +kernel, by decide +kernel, by decide +kernel, by decide +kernel, by decide +kernel⟩

theorem test_meets_ClocksWatched_1 :
    ∃ (s : State) (r : _), s.clocks.switching = some r :=
  ⟨({ up .run with clocks := { State.reset.clocks with switching := some .crystal } }), .crystal, by decide +kernel⟩

theorem test_meets_ClocksWatched_2 :
    ∃ (s : State) (r : _), s.clocks.switching = some r :=
  ⟨({ up .run with clocks := { State.reset.clocks with switching := some .crystal } }), .crystal, by decide +kernel⟩

theorem test_meets_ClocksWatched_3 :
    ∃ (clk : Nat) (s : State) (n : _), let s1 := begin clk s; n < 5 ∧ s.clocks.switching = none ∧ (inB03 s = true → s1.clock ≤ nth 0 s.clocks.okSince 0 + 125000) :=
  ⟨0, (up .run), 4, by decide +kernel, by decide +kernel, by decide +kernel⟩

theorem test_meets_ClocksWatched_4 :
    ∃ (s : State) (n : _), n < 5 ∧ s.clocks.pllHoldover.getLsbD n = false ∧ s.clocks.pllLock.getLsbD n = true :=
  ⟨({ up .run with clocks := { State.reset.clocks with pllLock := 0x1F } }), 4, by decide +kernel, by decide +kernel, by decide +kernel⟩

theorem test_meets_ClocksWatched_5 :
    ∃ (s : State) (n : _), n < 4 ∧ s.clocks.ok.getLsbD n = true :=
  ⟨({ up .run with clocks := { State.reset.clocks with ok := 0xF } }), 3, by decide +kernel, by decide +kernel⟩

theorem test_meets_ClocksWatched_6 :
    ∃ (s : State) (n : _) (c : Nat), n < 4 ∧ 200 * ((c : Int) - expectedEdges n).natAbs ≤ expectedEdges n ∧ s.clocks.badWindows.length = 4 :=
  ⟨(up .run), 3, 10000, by decide +kernel, by decide +kernel, by decide +kernel⟩

theorem test_meets_ClocksWatched_7 :
    ∃ (s : State) (n : _) (c : Nat), n < 4 ∧ expectedEdges n < 200 * ((c : Int) - expectedEdges n).natAbs ∧ nth 0 s.clocks.badWindows n = 3 ∧ s.clocks.ok.getLsbD n = true :=
  ⟨({ up .run with clocks := { State.reset.clocks with ok := 0xF, badWindows := [0, 0, 0, 3] } }), 3, 0, by decide +kernel, by decide +kernel, by decide +kernel, by decide +kernel⟩

theorem test_meets_ClocksWatched_8 :
    ∃ (clk : Nat) (s : State) (n : _), let s1 := begin clk s; n < 4 ∧ s.clocks.gone.getLsbD n = true ∧ nth 0 s.clocks.badSince n + clkSecond ≤ s1.clock :=
  ⟨0, ({ up .run with clocks := { State.reset.clocks with gone := 8 }, clock := 250000000 }), 3, by decide +kernel, by decide +kernel, by decide +kernel⟩

theorem test_meets_ClocksWatched_9 :
    ∃ (s : State), s.clocks.reference ≠ .rc ∧ s.clocks.ok.getLsbD (refCode s.clocks.reference) = true :=
  ⟨({ up .run with clocks := { State.reset.clocks with reference := .crystal, ok := 1 } }), by decide +kernel, by decide +kernel⟩

theorem test_meets_DomainsAndStart_0 :
    ∃ (d : Nat) (s : State) (rest : _), d < 16 ∧ s.power.toOff = d :: rest :=
  ⟨15, ({ up .run with power := { State.reset.power with toOff := [15] } }), [], by decide +kernel, by decide +kernel⟩

theorem test_meets_DomainsAndStart_1 :
    ∃ (d : Nat) (s : State) (rest : _), d < 16 ∧ s.power.toOff = [] ∧ s.power.toOn = [d] :: rest :=
  ⟨15, ({ up .run with power := { State.reset.power with toOn := [[15]] } }), [], by decide +kernel, by decide +kernel, by decide +kernel⟩

theorem test_meets_DomainsAndStart_2 :
    ∃ (d : Nat) (s : State) (rest : _), s.power.toOff = d :: rest :=
  ⟨15, ({ up .run with power := { State.reset.power with toOff := [15] } }), [], by decide +kernel⟩

theorem test_meets_DomainsAndStart_3 :
    ∃ (d : Nat) (s : State), 1 ≤ d ∧ d ≤ 15 ∧ s.start.running = false :=
  ⟨15, (up .run), by decide +kernel, by decide +kernel, by decide +kernel⟩

theorem test_meets_DomainsAndStart_4 :
    ∃ (s : State), s.start.done = false ∧ s.start.rescue = false ∧ s.start.running = false ∧ s.start.failDue = false ∧ s.hw.brownOut = false :=
  ⟨State.reset, by decide +kernel, by decide +kernel, by decide +kernel, by decide +kernel, by decide +kernel⟩

theorem test_meets_DomainsAndStart_5 :
    ∃ (s : State), s.start.done = false ∧ s.start.rescue = false ∧ s.start.running = false ∧ s.start.failDue = false ∧ s.hw.brownOut = false :=
  ⟨State.reset, by decide +kernel, by decide +kernel, by decide +kernel, by decide +kernel, by decide +kernel⟩

theorem test_meets_DomainsAndStart_6 :
    ∃ (clk : Nat) (s : State), let s1 := begin clk s; s.start.running = true ∧ s.start.step < 6 ∧ s.mode.mode = .boot ∧ budgetNs s1 (stepNow s1) ≤ stepSpent s1 ∧ s.start.step = 2 ∧ s.start.rescueStart = true :=
  ⟨0, ({ State.reset with start := { State.reset.start with running := true, step := 2, rescueStart := true }, clock := 1500000 }), by decide +kernel, by decide +kernel, by decide +kernel, by decide +kernel, by decide +kernel⟩

theorem test_meets_DomainsAndStart_7 :
    ∃ (clk : Nat) (s : State), let s1 := begin clk s; s.start.running = true ∧ s.start.step < 6 ∧ s.mode.mode = .boot ∧ budgetNs s1 (stepNow s1) ≤ stepSpent s1 ∧ ¬(s.start.step = 2 ∧ s.start.rescueStart = true) :=
  ⟨0, ({ State.reset with start := { State.reset.start with running := true, step := 5 }, clock := 1250000 }), by decide +kernel, by decide +kernel, by decide +kernel, by decide +kernel, by decide +kernel⟩

theorem test_meets_PairWorks_0 :
    ∃ (clk : Nat) (s : State), let s1 := begin clk s; pairOn s.objs = true ∧ imageActive s = true ∧ s.pair.role = .holder ∧ mayRenew s = true ∧ now s1 < s.pair.token.leaseEnd ∧ s.pair.handOver = none ∧ pairDown s = false :=
  ⟨0, ({ live .run [(0xC00000, 1)] with pair := { State.reset.pair with role := .holder, token := { leaseEnd := 1060001 } }, net := { State.reset.net with linkUp := 1 } }), by decide +kernel, by decide +kernel, by decide +kernel, by decide +kernel, by decide +kernel, by decide +kernel, by decide +kernel⟩

theorem test_meets_PairWorks_1 :
    ∃ (s : State), pairOn s.objs = true ∧ imageActive s = true ∧ s.pair.role = .standby ∧ s.pair.renewalSeen = false :=
  ⟨({ live .run [(0xC00000, 1)] with pair := { State.reset.pair with role := .standby } }), by decide +kernel, by decide +kernel, by decide +kernel, by decide +kernel⟩

theorem test_meets_PairWorks_2 :
    ∃ (s : State), pairOn s.objs = true ∧ s.pair.role ≠ .holder ∧ ((pairDown s && [0, 1].all (fun b => blockDown s 3 b 9)) = false) :=
  ⟨({ live .run [(0xC00000, 1)] with pair := { State.reset.pair with role := .standby } }), by decide +kernel, by decide +kernel, by decide +kernel⟩

theorem test_meets_PairWorks_3 :
    ∃ (clk : Nat) (s : State), let s1 := begin clk s; pairOn s.objs = true ∧ s.pair.role = .holder ∧ s.pair.token.leaseEnd ≤ tickStart s1 :=
  ⟨0, ({ live .run [(0xC00000, 1)] with pair := { State.reset.pair with role := .holder, token := { leaseEnd := 1000000 } } }), by decide +kernel, by decide +kernel, by decide +kernel⟩

theorem test_meets_PairWorks_4 :
    ∃ (clk : Nat) (s : State), let s1 := begin clk s; pairOn s.objs = true ∧ s.herd.running = true ∧ mayTake s1 = true :=
  ⟨0, ({ live .run [(0xC00000, 1)] with pair := { State.reset.pair with role := .standby, latestEnd := 937500 } }), by decide +kernel, by decide +kernel, by decide +kernel⟩

theorem test_meets_PairWorks_5 :
    ∃ (s : State), pairOn s.objs = true ∧ s.pair.role ≠ .holder ∧ pairDown s = false :=
  ⟨({ live .run [(0xC00000, 1)] with pair := { State.reset.pair with role := .standby } }), by decide +kernel, by decide +kernel, by decide +kernel⟩

theorem test_meets_PairWorks_6 :
    ∃ (clk : Nat) (s : State), let s1 := begin clk s; pairOn s.objs = true ∧ s.pair.role = .standby ∧ imageActive s = true ∧ ov s 0xC0 0 4 < mirrorAge s1 :=
  ⟨0, ({ live .run [(0xC00000, 1)] with pair := { State.reset.pair with role := .standby } }), by decide +kernel, by decide +kernel, by decide +kernel, by decide +kernel⟩

theorem test_meets_PairWorks_7 :
    ∃ (s : State), pairOn s.objs = true ∧ s.pair.role = .holder ∧ pairDown s = false :=
  ⟨({ live .run [(0xC00000, 1)] with pair := { State.reset.pair with role := .holder } }), by decide +kernel, by decide +kernel, by decide +kernel⟩

theorem test_meets_PairWorks_8 :
    ∃ (s : State), pairOn s.objs = true ∧ pairDown s = false :=
  ⟨({ live .run [(0xC00000, 1)] with pair := { State.reset.pair with role := .holder } }), by decide +kernel, by decide +kernel⟩

theorem test_meets_PairWorks_9 :
    ∃ (s : State), pairOn s.objs = true ∧ s.pair.peerSilent = false ∧ 8 ≤ s.pair.peerRun :=
  ⟨({ live .run [(0xC00000, 1)] with pair := { State.reset.pair with role := .holder, peerSilent := false, peerRun := 8 } }), by decide +kernel, by decide +kernel, by decide +kernel⟩

theorem test_meets_PairWorks_10 :
    ∃ (clk : Nat) (s : State) (x : _), let s1 := begin clk s; pairOn s.objs = true ∧ s.pair.role = .standby ∧ nodeId s = ov s 0xC0 0 1 ∧ ov s 0xC0 0 3 ≠ 0 ∧ s.pair.handOver = none ∧ s.pair.standbySince = some x ∧ x + ov s 0xC0 0 3 * 1000000000 ≤ now s1 ∧ pairDown s = false :=
  ⟨0, ({ live .run [(0xC00000, 1), (0xC00001, 1), (0xC00003, 1)] with pair := { State.reset.pair with role := .standby, standbySince := some 0 }, herd := { (live .run).herd with ht := 1000000000 } }), 0, by decide +kernel, by decide +kernel, by decide +kernel, by decide +kernel, by decide +kernel, by decide +kernel, by decide +kernel, by decide +kernel⟩

theorem test_meets_PairWorks_11 :
    ∃ (s : State), pairOn s.objs = true ∧ pairDown s = false ∧ s.pair.role = .holder ∧ (∀ h, s.pair.handOver = some h → h.acked = false) :=
  ⟨({ live .run [(0xC00000, 1)] with pair := { State.reset.pair with role := .holder } }), by decide +kernel, by decide +kernel, by decide +kernel, all_some (by decide +kernel)⟩

theorem test_meets_PairWorks_12 :
    ∃ (s : State), pairOn s.objs = true ∧ pairDown s = false ∧ s.pair.role = .standby :=
  ⟨({ live .run [(0xC00000, 1)] with pair := { State.reset.pair with role := .standby } }), by decide +kernel, by decide +kernel, by decide +kernel⟩

theorem test_meets_PairWorks_13 :
    ∃ (clk : Nat) (s : State) (h : _), let s1 := begin clk s; let s2 := countFrame s1 4; pairOn s.objs = true ∧ pairDown s = false ∧ s.pair.role = .holder ∧ s.pair.handOver = some h ∧ now s2 + 1000000 ≤ h.instant :=
  ⟨0, ({ live .run [(0xC00000, 1)] with pair := { State.reset.pair with role := .holder, handOver := some { instant := 2060000 } } }), { instant := 2060000 }, by decide +kernel, by decide +kernel, by decide +kernel, by decide +kernel, by decide +kernel⟩

theorem test_meets_PairWorks_14 :
    ∃ (s : State), pairOn s.objs = true ∧ pairDown s = false ∧ s.pair.role = .standby :=
  ⟨({ live .run [(0xC00000, 1)] with pair := { State.reset.pair with role := .standby } }), by decide +kernel, by decide +kernel, by decide +kernel⟩

theorem test_meets_PairWorks_15 :
    ∃ (clk : Nat) (s : State) (h : _), let s1 := begin clk s; pairOn s.objs = true ∧ s.pair.role = .holder ∧ s.pair.handOver = some h ∧ h.acked = false ∧ h.instant ≤ now s1 + 1000000 :=
  ⟨0, ({ live .run [(0xC00000, 1)] with pair := { State.reset.pair with role := .holder, handOver := some { instant := 2060000 } } }), { instant := 2060000 }, by decide +kernel, by decide +kernel, by decide +kernel, by decide +kernel, by decide +kernel⟩

theorem test_meets_PairWorks_16 :
    ∃ (clk : Nat) (s : State) (h : _), let s1 := begin clk s; pairOn s.objs = true ∧ s.pair.handOver = some h ∧ h.acked = true ∧ h.instant ≤ tickStart s1 ∧ s.pair.role = .holder ∧ h.requester = false :=
  ⟨0, ({ live .run [(0xC00000, 1)] with pair := { State.reset.pair with role := .holder, handOver := some { instant := 1000000, acked := true } } }), { instant := 1000000, acked := true }, by decide +kernel, by decide +kernel, by decide +kernel, by decide +kernel, by decide +kernel, by decide +kernel⟩

theorem test_meets_PairWorks_17 :
    ∃ (clk : Nat) (s : State) (h : _), let s1 := begin clk s; pairOn s.objs = true ∧ s.pair.handOver = some h ∧ h.acked = true ∧ h.instant ≤ tickStart s1 ∧ s.pair.role = .standby ∧ h.requester = true :=
  ⟨0, ({ live .run [(0xC00000, 1)] with pair := { State.reset.pair with role := .standby, handOver := some { instant := 1000000, acked := true, requester := true } } }), { instant := 1000000, acked := true, requester := true }, by decide +kernel, by decide +kernel, by decide +kernel, by decide +kernel, by decide +kernel, by decide +kernel⟩

end Sys2Proof.Tests
end

section
/-! Proofs about the Zewen interface (03_zewen_interface.md): doorbells and vector spacing (R61, R64), and the acceptance window of a UDP
session (R73). -/

namespace Sys2Proof.Machine

/-! ### Doorbells (R61) -/

@[simp] theorem begin_zewen (clk : Nat) (s : State) : (begin clk s).zewen = s.zewen := (begin_frame clk s).2.2.1

theorem doorbellError_mbx_same (s : State) (m : Nat) (h : m < s.zewen.mbx.length) :
    mbx (doorbellError s m) m = { mbx s m with dbErr := true } := by
  unfold doorbellError
  rw [mbx_eq (withFresh_zewen _ _), mbx_setMbx_same _ _ _ h]

theorem doorbellError_mbx_other (s : State) (m k : Nat) (h : k ≠ m) : mbx (doorbellError s m) k = mbx s k := by
  unfold doorbellError
  rw [mbx_eq (withFresh_zewen _ _), mbx_setMbx_other _ _ _ _ h]

/-- A doorbell write changes its own mailbox: as it says where it is taken, DB_ERR alone where it is not. -/
theorem doorbell_mbx_same (s : State) (m : Nat) (p : Prop) [Decidable p] (f : Mailbox → Mailbox) (h : m < s.zewen.mbx.length) :
    mbx (if p then setMbx s m f else doorbellError s m) m = if p then f (mbx s m) else { mbx s m with dbErr := true } := by
  split
  · exact mbx_setMbx_same _ _ _ h
  · exact doorbellError_mbx_same _ _ h

theorem doorbell_mbx_other (s : State) (m k : Nat) (p : Prop) [Decidable p] (f : Mailbox → Mailbox) (h : k ≠ m) :
    mbx (if p then setMbx s m f else doorbellError s m) k = mbx s k := by
  split
  · exact mbx_setMbx_other _ _ _ _ h
  · exact doorbellError_mbx_other _ _ _ h

theorem writeCmdTail_mbx_same (s : State) (m value : Nat) (h : m < s.zewen.mbx.length) (hv : value < 65536) :
    mbx (writeCmdTail s m value) m =
      if (value + 65536 - (mbx s m).cmdHead) % 65536 ≤ 64 then { mbx s m with cmdTail := value } else { mbx s m with dbErr := true } := by
  unfold writeCmdTail
  rw [Nat.mod_eq_of_lt hv]
  exact doorbell_mbx_same _ _ _ _ h

theorem writeCmdTail_mbx_other (s : State) (m k value : Nat) (h : k ≠ m) : mbx (writeCmdTail s m value) k = mbx s k :=
  doorbell_mbx_other _ _ _ _ _ h

theorem writeCplHead_mbx_same (s : State) (m value : Nat) (h : m < s.zewen.mbx.length) (hv : value < 65536) :
    mbx (writeCplHead s m value) m =
      if (value + 65536 - (mbx s m).cplHead) % 65536 ≤ ((mbx s m).cplTail + 65536 - (mbx s m).cplHead) % 65536 then
        { mbx s m with cplHead := value } else { mbx s m with dbErr := true } := by
  unfold writeCplHead
  rw [Nat.mod_eq_of_lt hv]
  exact doorbell_mbx_same _ _ _ _ h

theorem writeCplHead_mbx_other (s : State) (m k value : Nat) (h : k ≠ m) : mbx (writeCplHead s m value) k = mbx s k :=
  doorbell_mbx_other _ _ _ _ _ h

theorem exec_cmdTailWrite_linkUp (clk m value : Nat) (s : State) (h : s.zewen.linkUp = true) :
    exec (.cmdTailWrite clk m value) s = .next (writeCmdTail (begin clk s) m value) := by
  simp [exec, execCmdTailWrite, h]

theorem exec_cplHeadWrite_linkUp (clk m value : Nat) (s : State) (h : s.zewen.linkUp = true) :
    exec (.cplHeadWrite clk m value) s = .next (writeCplHead (begin clk s) m value) := by
  simp [exec, execCplHeadWrite, h]

/-! ### Vector spacing (R64) -/

/-- The spacing of a vector has ended and no message is held back on it. -/
def endSpacing (s : State) (v : Nat) : State :=
  withMsix s (fun m => { m with spacing := m.spacing &&& ~~~(1#32 <<< v), deferred := m.deferred &&& ~~~(1#32 <<< v) })

@[simp] theorem endSpacing_mbx (s : State) (v : Nat) : (endSpacing s v).zewen.mbx = s.zewen.mbx := rfl

@[simp] theorem endSpacing_sent (s : State) (v : Nat) : (endSpacing s v).zewen.msix.sent = s.zewen.msix.sent := rfl

@[simp] theorem endSpacing_out (s : State) (v : Nat) : (endSpacing s v).out = s.out := rfl

@[simp] theorem endSpacing_clock (s : State) (v : Nat) : (endSpacing s v).clock = s.clock := rfl

@[simp] theorem endSpacing_masked (s : State) (v w : Nat) : vectorMasked (endSpacing s v) w = vectorMasked s w := rfl

theorem endSpacing_spacing (s : State) (v : Nat) : (endSpacing s v).zewen.msix.spacing.getLsbD v = false := getLsbD_clear _ _

theorem endSpacing_deferred (s : State) (v : Nat) : (endSpacing s v).zewen.msix.deferred.getLsbD v = false := getLsbD_clear _ _

/-- The message of a vector that is not masked goes out, and the spacing of the vector starts at this clock. -/
theorem vectorNow_unmasked (s : State) (v : Nat) (hm : vectorMasked s v = false) (hv : v < 32) (hs : v < s.zewen.msix.sent.length) :
    (vectorNow s v).out = s.out ++ [.vector v] ∧ (vectorNow s v).zewen.msix.deferred = s.zewen.msix.deferred ∧
      (vectorNow s v).zewen.msix.spacing.getLsbD v = true ∧ nth 0 (vectorNow s v).zewen.msix.sent v = s.clock := by
  unfold vectorNow
  rw [if_neg (by simp [hm])]
  exact ⟨rfl, rfl, getLsbD_set _ _ hv, nth_upd_same _ _ _ _ hs⟩

@[simp] theorem begin_masked (clk : Nat) (s : State) (v : Nat) : vectorMasked (begin clk s) v = vectorMasked s v := by
  unfold vectorMasked
  rw [begin_zewen]

/-- The spacing runs no longer once 250 clocks have passed since the last message. -/
theorem spacingRuns_over (s : State) (v : Nat) (h : nth 0 s.zewen.msix.sent v + 250 ≤ s.clock) : spacingRuns s v = false := by
  simp [spacingRuns, h]

theorem exec_vectorSpacingEnd_early (clk v : Nat) (s : State) (h : spacingRuns (begin clk s) v = true) :
    exec (.vectorSpacingEnd clk v) s = .next (begin clk s) := by
  simp [exec, execVectorSpacingEnd, h]

theorem exec_vectorSpacingEnd_idle (clk v : Nat) (s : State) (h : spacingRuns (begin clk s) v = false)
    (hd : s.zewen.msix.deferred.getLsbD v = false) : exec (.vectorSpacingEnd clk v) s = .next (endSpacing (begin clk s) v) := by
  simp [exec, execVectorSpacingEnd, h, hd, endSpacing]

/-- A message held back is sent: of a mailbox's vector only while a completion is not yet consumed. -/
theorem exec_vectorSpacingEnd_held (clk v : Nat) (s : State) (h : spacingRuns (begin clk s) v = false)
    (hd : s.zewen.msix.deferred.getLsbD v = true) (hl : s.zewen.linkUp = true) (hc : v < 8 → (mbx s v).cplTail ≠ (mbx s v).cplHead) :
    exec (.vectorSpacingEnd clk v) s = .next (vectorNow (endSpacing (begin clk s) v) v) := by
  have hb : mbx (endSpacing (begin clk s) v) v = mbx s v := (mbx_of (endSpacing_mbx _ v) v).trans (begin_mbx clk s v)
  have due : (if v < 8 then (mbx (endSpacing (begin clk s) v) v).cplTail != (mbx (endSpacing (begin clk s) v) v).cplHead else true) = true := by
    rw [hb]
    split
    · next hv => exact bne_iff_ne.2 (hc hv)
    · rfl
  unfold endSpacing at due ⊢
  simp [exec, execVectorSpacingEnd, h, hd, hl, due]

/-- Settles O16: a doorbell write is one conditional change of its own mailbox; the end of the spacing has three cases (sooner, a message
held back, none), and a message sent starts the spacing again. -/
theorem doorbellsAndVectors : Obligations.DoorbellsAndVectors := by
  unfold Obligations.DoorbellsAndVectors
  refine ⟨fun clk m value s hl hm hv => ⟨?cmdTail, ?cplHead⟩, fun clk v s hv => ⟨?early, ?held, ?idle⟩⟩
  case cmdTail =>
    refine ⟨_, exec_cmdTailWrite_linkUp clk m value s hl, fun k hk => ?_, ?_⟩
    · rw [writeCmdTail_mbx_other _ _ _ _ hk, begin_mbx]
    · rw [writeCmdTail_mbx_same _ _ _ (by simpa using hm) hv, begin_mbx]
  case cplHead =>
    refine ⟨_, exec_cplHeadWrite_linkUp clk m value s hl, fun k hk => ?_, ?_⟩
    · rw [writeCplHead_mbx_other _ _ _ _ hk, begin_mbx]
    · rw [writeCplHead_mbx_same _ _ _ (by simpa using hm) hv, begin_mbx]
  case early =>
    intro hs hc
    exact exec_vectorSpacingEnd_early clk v s (by simp [spacingRuns, hs, hc])
  case held =>
    intro hc hd hl hm hu hlen
    have ended : spacingRuns (begin clk s) v = false := spacingRuns_over _ _ (by simpa using hc)
    obtain ⟨hout, hdef, hspc, hsent⟩ := vectorNow_unmasked (endSpacing (begin clk s) v) v (by simpa using hm) hv (by simpa using hlen)
    refine ⟨_, exec_vectorSpacingEnd_held clk v s ended hd hl hu, by simpa using hout, ?_, hspc, by simpa using hsent, by simp⟩
    rw [hdef, endSpacing_deferred]
  case idle =>
    intro hc hd
    have ended : spacingRuns (begin clk s) v = false := spacingRuns_over _ _ (by simpa using hc)
    exact ⟨_, exec_vectorSpacingEnd_idle clk v s ended hd, by simp, endSpacing_spacing _ _, by simp⟩

/-! ### Datagrams of an open session (R57, R69, R73) -/

/-- What a mailbox's state and key ask of a datagram: an open session, and the right tag where it is privileged (R69). -/
def sessionTakes (b : Mailbox) (d : Bytes) : Prop :=
  b.state = .opened ∨ b.state = .challenged ∨ (b.state = .privileged ∧ slice d 16 16 = datagramTag b.sk d)

/-- A datagram that the block judges by epoch and window: it is served, well formed, and of the session that its mailbox holds (R57, R58,
R69). -/
structure ValidDatagram (s : State) (port addr udpPort : Nat) (d : Bytes) : Prop where
  served : serving s (if s.start.rescue then (datagramEntry d).mbx else 0) true = true
  rescuePort : s.start.rescue = true → port = 0
  short : d.length ≤ 1472
  magic : le d 0 2 = 0x5A57
  version : le d 2 1 = 1
  wellFormed : datagramOk d = true
  session : sessionTakes (mbx s (datagramEntry d).mbx) d
  bound : (mbx s (datagramEntry d).mbx).via = .udp port addr udpPort
  sessionId : le d 8 4 = (mbx s (datagramEntry d).mbx).sessionId

theorem datagramOk_mbx (d : Bytes) (h : datagramOk d = true) : (datagramEntry d).mbx < 8 := by
  simp only [datagramOk, Bool.and_eq_true, decide_eq_true_eq] at h
  exact h.1.1.1.2

/-- The herd time of a valid datagram is kept (R69). -/
def noteDatagram (s : State) (m : Nat) : State := setMbx s m (fun b => { b with lastDatagram := now s })

theorem sessionTakes_live (b : Mailbox) (d : Bytes) (h : sessionTakes b d) : b.state ≠ .closed ∧ b.state ≠ .closing := by
  rcases h with h | h | ⟨h, -⟩ <;> simp [h]

theorem sessionTakes_tag (b : Mailbox) (d : Bytes) (h : sessionTakes b d) :
    (b.state = .privileged && slice d 16 16 != datagramTag b.sk d) = false := by
  rcases h with h | h | ⟨h, ht⟩
  · simp [h]
  · simp [h]
  · simp [ht]

theorem datagramRx_valid (s : State) (port addr udpPort : Nat) (d : Bytes) (h : ValidDatagram s port addr udpPort d) :
    datagramRx s port addr udpPort false d =
      datagramJudge (noteDatagram s (datagramEntry d).mbx) (.udp port addr udpPort) (datagramEntry d) := by
  have hm := datagramOk_mbx d h.wellFormed
  obtain ⟨notClosed, notClosing⟩ := sessionTakes_live _ _ h.session
  have port0 : (s.start.rescue && port != 0) = false := by
    cases hr : s.start.rescue with
    | false => rfl
    | true => simp [h.rescuePort hr]
  have fits : ¬1500 < d.length + 28 := Nat.not_lt.2 (Nat.add_le_add_right h.short 28)
  unfold datagramRx
  extract_lets e m b via reject
  rw [if_neg (by simp [m, e, h.served, port0]), if_neg (Nat.not_le.2 hm),
    if_neg (by simp [fits, h.magic, h.version, h.wellFormed]), if_neg (by simp [b, m, e, notClosed]), if_neg notClosed,
    if_neg (by simp [b, m, e, via, h.bound, h.sessionId]), if_neg (by simp [b, m, e, sessionTakes_tag _ _ h.session])]
  exact if_neg notClosing

theorem mbx_noteDatagram (s : State) (m : Nat) (h : m < s.zewen.mbx.length) :
    mbx (noteDatagram s m) m = { mbx s m with lastDatagram := now s } := mbx_setMbx_same _ _ _ h

/-! ### The acceptance window (R73) -/

/-- The window takes a sequence number: it is empty, the number is above the highest, or less than 64 below it and not accepted yet. -/
def windowTakes (b : Mailbox) (q : Nat) : Prop :=
  b.windowHigh = none ∨ ∃ h, b.windowHigh = some h ∧ (h < q ∨ (h - q < 64 ∧ b.seen.contains q = false))

/-- A mailbox after a datagram's entry was accepted. -/
def acceptBox (via : Transport) (e : Entry) (b : Mailbox) : Mailbox :=
  { windowAccept b (txSeq e.txid) with accepted := b.accepted ++ [(via, e)], inFlight := b.inFlight ++ [originOf e] }

/-- A duplicate is answered: the completion of its TXID, while it is kept, goes out again (R74). -/
def resendKept (s : State) (b : Mailbox) (t : BitVec 16) : State :=
  match b.kept.find? (fun c => c.txid = t) with
  | some c => sendCompletion (emit s (.resend c)) b c
  | none => s

theorem datagramJudge_accepts (s : State) (via : Transport) (e : Entry) (he : txEpoch e.txid = epochOf s e.mbx)
    (hw : windowTakes (mbx s e.mbx) (txSeq e.txid)) : datagramJudge s via e = setMbx s e.mbx (acceptBox via e) := by
  unfold datagramJudge
  extract_lets m b sq accept
  rw [if_neg (by simp [m, he])]
  rcases hw with hn | ⟨h, hh, hlt | ⟨hin, hnew⟩⟩
  · simp only [b, m, hn]
    rfl
  · simp only [b, m, sq, hh, if_pos hlt]
    rfl
  · simp only [b, m, sq, hh, if_pos hin, hnew, Bool.false_eq_true, if_false, ite_self]
    rfl

theorem datagramJudge_duplicate (s : State) (via : Transport) (e : Entry) (he : txEpoch e.txid = epochOf s e.mbx) (h : Nat)
    (hh : (mbx s e.mbx).windowHigh = some h) (hle : txSeq e.txid ≤ h) (hin : h - txSeq e.txid < 64)
    (hseen : (mbx s e.mbx).seen.contains (txSeq e.txid) = true) :
    datagramJudge s via e = resendKept (bump (discard s e.mbx) 0xD0 (0x80 + e.mbx) 1) (mbx s e.mbx) e.txid := by
  unfold datagramJudge
  extract_lets m b sq accept
  rw [if_neg (by simp [m, he])]
  simp only [b, m, sq, hh, if_neg (Nat.not_lt.2 hle), if_pos hin, if_pos hseen]
  rfl

theorem datagramJudge_old (s : State) (via : Transport) (e : Entry) (he : txEpoch e.txid = epochOf s e.mbx) (h : Nat)
    (hh : (mbx s e.mbx).windowHigh = some h) (hold : 64 ≤ h - txSeq e.txid) :
    datagramJudge s via e = bump (discard s e.mbx) 0xD0 (0x80 + e.mbx) 2 := by
  unfold datagramJudge
  extract_lets m b sq accept
  rw [if_neg (by simp [m, he])]
  simp only [b, m, sq, hh, if_neg (show ¬h < txSeq e.txid by omega), if_neg (Nat.not_lt.2 hold)]

/-! ### What a discarded datagram leaves -/

/-- The discard of a datagram, counted in DISCARDS and in a counter of its mailbox's object. -/
theorem bump_discard_mbx (s : State) (m cls inst mem : Nat) (h : m < s.zewen.mbx.length) :
    mbx (bump (discard s m) cls inst mem) m = { mbx s m with discards := satNat 16 ((mbx s m).discards + 1) } := by
  rw [bump_mbx, discard_mbx s m h]

theorem bump_discard_objs (s : State) (m cls inst mem : Nat) :
    (bump (discard s m) cls inst mem).objs = oput s.objs (okey cls inst mem) (countUp 1 (ov s cls inst mem) s.freeCount) := rfl

theorem resendKept_zewen (s : State) (b : Mailbox) (t : BitVec 16) : (resendKept s b t).zewen = s.zewen := by
  have fr1 := @sendCompletion_frame; have fr2 := @emit_frame
  unfold resendKept
  split <;> simp [fr1, fr2]

theorem resendKept_objs (s : State) (b : Mailbox) (t : BitVec 16) : (resendKept s b t).objs = s.objs := by
  have fr1 := @sendCompletion_frame; have fr2 := @emit_frame
  unfold resendKept
  split <;> simp [fr1, fr2]

theorem resendKept_sends (s : State) (b : Mailbox) (t : BitVec 16) (c : Completion) (h : b.kept.find? (fun c => c.txid = t) = some c) :
    .resend c ∈ (resendKept s b t).out := by
  obtain ⟨l, hl⟩ := sendCompletion_out (emit s (.resend c)) b c
  simp [resendKept, h, hl]

/-! ### The window of a session -/

/-- A valid datagram is judged in the state in which its time has been kept. -/
theorem exec_udpDatagramRx_valid (clk port addr udpPort : Nat) (d : Bytes) (s : State)
    (h : ValidDatagram (begin clk s) port addr udpPort d) :
    exec (.udpDatagramRx clk port addr udpPort false d) s =
      .next (datagramJudge (noteDatagram (begin clk s) (datagramEntry d).mbx) (.udp port addr udpPort) (datagramEntry d)) :=
  congrArg _ (datagramRx_valid _ _ _ _ _ h)

theorem noteDatagram_begin_objs (clk m : Nat) (s : State) : (noteDatagram (begin clk s) m).objs = s.objs := by
  have fr1 := @begin_frame
  simp [noteDatagram, setMbx, fr1]

theorem noteDatagram_begin_freeCount (clk m : Nat) (s : State) : (noteDatagram (begin clk s) m).freeCount = s.freeCount := by
  have fr1 := @begin_frame
  simp [noteDatagram, setMbx, fr1]

/-- Settles O19: a valid datagram of the session's epoch is judged by the window alone, which takes it, finds it accepted before, or finds
it too old. -/
theorem datagramWindow : Obligations.DatagramWindow := by
  unfold Obligations.DatagramWindow
  intro clk port addr udpPort data s s1 e b q hserve hport hlen hmagic hver hok hm hstate hvia hsid hepoch
  have valid : ValidDatagram s1 port addr udpPort data := by
    have fr1 := @begin_frame
    have hb : mbx s1 e.mbx = b := begin_mbx clk s e.mbx
    refine ⟨?_, ?_, hlen, hmagic, hver, hok, hb ▸ hstate, hb ▸ hvia, hb ▸ hsid⟩
    · simpa [s1, fr1] using hserve
    · simpa [s1, fr1] using hport
  have run := exec_udpDatagramRx_valid clk port addr udpPort data s valid
  let u := noteDatagram s1 e.mbx
  have hmu : e.mbx < u.zewen.mbx.length := by simpa [u, noteDatagram, s1] using hm
  have hu : mbx u e.mbx = { b with lastDatagram := now s1 } := by
    rw [mbx_noteDatagram s1 e.mbx (by simpa [s1] using hm), begin_mbx]
  have he : txEpoch e.txid = epochOf u e.mbx := hepoch.trans (begin_epochOf clk s e.mbx).symm
  have counted : ∀ mem, (bump (discard u e.mbx) 0xD0 (0x80 + e.mbx) mem).objs =
      oput s.objs (okey 0xD0 (0x80 + e.mbx) mem) (countUp 1 (ov s 0xD0 (0x80 + e.mbx) mem) s.freeCount) := fun mem => by
    have ho : u.objs = s.objs := noteDatagram_begin_objs clk e.mbx s
    rw [bump_discard_objs, ov_of ho, ho, show u.freeCount = s.freeCount from noteDatagram_begin_freeCount clk e.mbx s]
  refine ⟨fun hw => ?accepted, fun h hh hle hin hseen => ?duplicate, fun h hh hold => ?old⟩
  case accepted =>
    have hbox : mbx (setMbx u e.mbx (acceptBox (.udp port addr udpPort) e)) e.mbx = _ := mbx_setMbx_same _ _ _ hmu
    refine ⟨_, run.trans (congrArg _ (datagramJudge_accepts u _ e he (by rw [hu]; exact hw))), ?_⟩
    rw [hbox, hu]
    exact ⟨rfl, List.mem_cons_self, rfl, rfl⟩
  case duplicate =>
    refine ⟨_, run.trans (congrArg _ (datagramJudge_duplicate u _ e he h (by rw [hu]; exact hh) hle hin (by rw [hu]; exact hseen))), ?_⟩
    rw [mbx_eq (resendKept_zewen _ _ _), bump_discard_mbx u _ _ _ _ hmu, resendKept_objs, counted, hu]
    exact ⟨rfl, rfl, hh, rfl, rfl, fun c hc => resendKept_sends _ _ _ c hc, rfl⟩
  case old =>
    refine ⟨_, run.trans (congrArg _ (datagramJudge_old u _ e he h (by rw [hu]; exact hh) hold)), ?_⟩
    rw [bump_discard_mbx u _ _ _ _ hmu, counted, hu]
    exact ⟨rfl, rfl, hh, rfl, rfl, begin_out clk s, rfl⟩

end Sys2Proof.Machine
end

section
/-! Proofs about the whole block (95_what_each_step_holds.md): one step, what every command keeps, and the state after reset. -/

namespace Sys2Proof.Machine

/-! ### A step and its command -/

theorem step_nil (s : State) (h : s.pending = []) : step s = .next s := by
  unfold step
  rw [h]

theorem step_cons (s : State) (c : Instr) (rest : List Instr) (h : s.pending = c :: rest) :
    step s = exec c { s with pending := rest } := by
  unfold step
  rw [h]

/-- A step idles or runs the command at the front of the queue. -/
theorem step_cases {s t : State} (h : step s = .next t) :
    t = s ∨ ∃ c rest, s.pending = c :: rest ∧ exec c { s with pending := rest } = .next t := by
  cases hp : s.pending with
  | nil =>
    rw [step_nil s hp, Host.Outcome.next.injEq] at h
    exact .inl h.symm
  | cons c rest => exact .inr ⟨c, rest, rfl, (step_cons s c rest hp).symm.trans h⟩

/-- Settles O1: a step reads the queue's front and nothing else decides which command runs. -/
theorem stepTakesFront : Obligations.StepTakesFront := by
  unfold Obligations.StepTakesFront
  exact fun c rest s => step_cons _ c rest rfl

/-- Settles O2: with an empty queue a step answers the same state. -/
theorem emptyQueueIdles : Obligations.EmptyQueueIdles := by
  unfold Obligations.EmptyQueueIdles
  exact step_nil

/-! ### What every command answers and keeps -/

/-- Every arm of the dispatch answers a next state. -/
theorem exec_answers (c : Instr) (s : State) : ∃ t, exec c s = .next t := by
  cases c <;> exact ⟨_, rfl⟩

/-- Settles O3: every arm answers, and the queue is among what every command keeps. -/
theorem everyCommandAnswers : Obligations.EveryCommandAnswers := by
  unfold Obligations.EveryCommandAnswers
  exact ⟨exec_answers, fun c s t h => (fixed_of c s t h).pending⟩

/-! ### The security floor, the keys and the STO latch -/

/-- Settles O5: no fuse of the floor is blown at reset. -/
theorem floorInvAtReset : Obligations.FloorInvAtReset := Nat.zero_le 64

/-- Settles O6: every command leaves the OTP memory alone but for the floor, which rises within its fuses. -/
theorem floorOnlyRises : Obligations.FloorOnlyRises := by
  unfold Obligations.FloorOnlyRises FloorInv
  intro s t hf h
  rcases step_cases h with rfl | ⟨c, rest, -, hc⟩
  · exact ⟨hf, Nat.le_refl _, rfl⟩
  · have fixed := fixed_of c _ t hc
    obtain ⟨rises, within⟩ := fixed.floor hf
    exact ⟨within, rises, fixed.otp⟩

/-- SET_MODE does not list the security state among its parts. -/
theorem exec_setMode_sec {clk : Nat} {e : Entry} {s t : State} (h : exec (.setMode clk e) s = .next t) : t.sec = s.sec :=
  setMode_parts h .sec (by decide : Part.sec ∉ postingAnd [.mode, .start, .image, .piste, .safety, .cham, .power])

/-- KEY_ENROL does not list Chamois among its parts. -/
theorem exec_keyEnrol_cham {clk : Nat} {e : Entry} {s t : State} (h : exec (.keyEnrol clk e) s = .next t) : t.cham = s.cham :=
  keyEnrol_parts h .cham (by decide : Part.cham ∉ postingAnd [.sec])

/-- POWER_ON keeps the keys, which lie in OTP and NOR. -/
theorem exec_powerOn_keys {clk mv : Nat} {removed : Bool} {s t : State} (h : exec (.powerOn clk mv removed) s = .next t) :
    t.sec.customer = s.sec.customer ∧ t.sec.hmac = s.sec.hmac := by
  have begun : (begin clk s).sec = s.sec := by simp [begin_frame]
  have lost := coreLost_keys (begin clk s)
  rw [begun] at lost
  cases h
  dsimp only
  split
  · rw [begun]
    exact ⟨rfl, rfl⟩
  · split <;> exact lost

/-- Every command but KEY_ENROL keeps the keys. -/
theorem exec_keys {c : Instr} {s t : State} (h : exec c s = .next t) (hk : ∀ clk e, c ≠ .keyEnrol clk e) :
    t.sec.customer = s.sec.customer ∧ t.sec.hmac = s.sec.hmac := by
  cases c
  case keyEnrol clk e => exact absurd rfl (hk clk e)
  case setMode => rw [exec_setMode_sec h]; exact ⟨rfl, rfl⟩
  case powerOn => exact exec_powerOn_keys h
  all_goals
    have follows := follows_of _ _ _ h nofun nofun nofun
    exact ⟨follows.customer, follows.hmac⟩

/-- Settles O7: of the three commands that do not follow the general rule, KEY_ENROL alone changes a key. -/
theorem keysOnlyByEnrol : Obligations.KeysOnlyByEnrol := by
  unfold Obligations.KeysOnlyByEnrol
  intro s t h hk
  rcases step_cases h with rfl | ⟨c, rest, hp, hc⟩
  · exact ⟨rfl, rfl⟩
  · have keys := exec_keys hc fun clk e he => hk clk e rest (he ▸ hp)
    exact keys

/-- Every command but SET_MODE and POWER_ON keeps Chamois's STO latch set. -/
theorem exec_stoLatch {c : Instr} {s t : State} (h : exec c s = .next t) (hm : ∀ clk e, c ≠ .setMode clk e)
    (hp : ∀ clk mv r, c ≠ .powerOn clk mv r) (hs : s.cham.stoLatch = true) : t.cham.stoLatch = true := by
  by_cases hk : ∃ clk e, c = .keyEnrol clk e
  · obtain ⟨clk, e, rfl⟩ := hk
    rw [exec_keyEnrol_cham h, hs]
  · exact (follows_of c s t h (fun clk e he => hk ⟨clk, e, he⟩) hm hp).sto hs

/-- Settles O8: KEY_ENROL leaves Chamois alone, and every other command follows the general rule. -/
theorem stoLatchLasts : Obligations.StoLatchLasts := by
  unfold Obligations.StoLatchLasts
  intro s t h hm hp hs
  rcases step_cases h with rfl | ⟨c, rest, hc, he⟩
  · exact hs
  · exact exec_stoLatch he (fun clk e h => hm clk e rest (h ▸ hc)) (fun clk mv r h => hp clk mv r rest (h ▸ hc)) hs

/-! ### The frame of every command -/

/-- Settles O9, command by command. -/
theorem partsLeftAlone : Obligations.PartsLeftAlone := by
  unfold Obligations.PartsLeftAlone
  intro c s t h
  cases c
  case nop => exact nop_parts h
  case openSession => exact openSession_parts h
  case closeSession => exact closeSession_parts h
  case newEpoch => exact newEpoch_parts h
  case challenge => exact challenge_parts h
  case unlock => exact unlock_parts h
  case cancel => exact cancel_parts h
  case getStatus => exact getStatus_parts h
  case reset => exact reset_parts h
  case setMode => exact setMode_parts h
  case objRead => exact objRead_parts h
  case objWrite => exact objWrite_parts h
  case imageBegin => exact imageBegin_parts h
  case imageData => exact imageData_parts h
  case imageCommit => exact imageCommit_parts h
  case imageAbort => exact imageAbort_parts h
  case moveJoint => exact moveJoint_parts h
  case moveLinear => exact moveLinear_parts h
  case moveConveyor => exact moveConveyor_parts h
  case stopMove => exact stopMove_parts h
  case jog => exact jog_parts h
  case teach => exact teach_parts h
  case pathRequest => exact pathRequest_parts h
  case zoneRequest => exact zoneRequest_parts h
  case zoneExtend => exact zoneExtend_parts h
  case zoneRelease => exact zoneRelease_parts h
  case acqArm => exact acqArm_parts h
  case acqRead => exact acqRead_parts h
  case logRead => exact logRead_parts h
  case attest => exact attest_parts h
  case keyEnrol => exact keyEnrol_parts h
  case loaderInfo => exact loaderInfo_parts h
  case loaderReadRecord => exact loaderReadRecord_parts h
  case loaderWriteSlot => exact loaderWriteSlot_parts h
  case loaderRestart => exact loaderRestart_parts h
  case unknownOpcode => exact unknownOpcode_parts h
  case udpDatagramRx => exact udpDatagramRx_parts h
  case cmdTailWrite => exact cmdTailWrite_parts h
  case cplHeadWrite => exact cplHeadWrite_parts h
  case htNowLoRead => exact htNowLoRead_parts h
  case acqTrigTimeLoRead => exact acqTrigTimeLoRead_parts h
  case txtsPop => exact txtsPop_parts h
  case txtsOvfRead => exact txtsOvfRead_parts h
  case errCountRead => exact errCountRead_parts h
  case gatedAccessRead => exact gatedAccessRead_parts h
  case clearFirst => exact clearFirst_parts h
  case viewClear => exact viewClear_parts h
  case intStatusClear => exact intStatusClear_parts h
  case intMaskWrite => exact intMaskWrite_parts h
  case solverDoneClear => exact solverDoneClear_parts h
  case registerWrite => exact registerWrite_parts h
  case objWriteEffect => exact objWriteEffect_parts h
  case gateRequestTimeout => exact gateRequestTimeout_parts h
  case solverAnalysisDone => exact solverAnalysisDone_parts h
  case ipmIterationEnd => exact ipmIterationEnd_parts h
  case solverRunEnd => exact solverRunEnd_parts h
  case solveDeadline => exact solveDeadline_parts h
  case hostRunResume => exact hostRunResume_parts h
  case solverSramUncorrectable => exact solverSramUncorrectable_parts h
  case tickStart => exact tickStart_parts h
  case modeTransitionComplete => exact modeTransitionComplete_parts h
  case profilePass => exact profilePass_parts h
  case arbiterPass => exact arbiterPass_parts h
  case leaseExpiry => exact leaseExpiry_parts h
  case plannerSnapshot => exact plannerSnapshot_parts h
  case plannerPost => exact plannerPost_parts h
  case commitTest => exact commitTest_parts h
  case commitCutoff => exact commitCutoff_parts h
  case separationStep => exact separationStep_parts h
  case processorResult => exact processorResult_parts h
  case chamoisResult => exact chamoisResult_parts h
  case separationCombination => exact separationCombination_parts h
  case jointStale => exact jointStale_parts h
  case sensorWorst => exact sensorWorst_parts h
  case ss2Release => exact ss2Release_parts h
  case downstreamCommitPoint => exact downstreamCommitPoint_parts h
  case processFrameRx => exact processFrameRx_parts h
  case safetyFrameRx => exact safetyFrameRx_parts h
  case messageRx => exact messageRx_parts h
  case delayRespRx => exact delayRespRx_parts h
  case startupRx => exact startupRx_parts h
  case slotWindowClose => exact slotWindowClose_parts h
  case downstreamNitStart => exact downstreamNitStart_parts h
  case ringRestoreAt => exact ringRestoreAt_parts h
  case listenTimeout => exact listenTimeout_parts h
  case startWindowClose => exact startWindowClose_parts h
  case backoffEnd => exact backoffEnd_parts h
  case nodeIntegrated => exact nodeIntegrated_parts h
  case nodeLost => exact nodeLost_parts h
  case driftWarn => exact driftWarn_parts h
  case safetySingle => exact safetySingle_parts h
  case linkSyncLoss => exact linkSyncLoss_parts h
  case operandPost => exact operandPost_parts h
  case timedDue => exact timedDue_parts h
  case taskDispatch => exact taskDispatch_parts h
  case loopExecution => exact loopExecution_parts h
  case axisFault => exact axisFault_parts h
  case matchExpired => exact matchExpired_parts h
  case backpressureRelease => exact backpressureRelease_parts h
  case kernelRun => exact kernelRun_parts h
  case kernelWindowClose => exact kernelWindowClose_parts h
  case processorEvaluation => exact processorEvaluation_parts h
  case chamoisEvaluation => exact chamoisEvaluation_parts h
  case safetyStatusRx => exact safetyStatusRx_parts h
  case channelSilent => exact channelSilent_parts h
  case crossMismatch => exact crossMismatch_parts h
  case oscillatorMismatch => exact oscillatorMismatch_parts h
  case discrepancy => exact discrepancy_parts h
  case ss1Timeout => exact ss1Timeout_parts h
  case netInputStale => exact netInputStale_parts h
  case darkPulseTest => exact darkPulseTest_parts h
  case outputDiagnosis => exact outputDiagnosis_parts h
  case outputCurrentLimit => exact outputCurrentLimit_parts h
  case sresetEdge => exact sresetEdge_parts h
  case resetEdgeWindowExpiry => exact resetEdgeWindowExpiry_parts h
  case sw1Change => exact sw1Change_parts h
  case containedErrorRate => exact containedErrorRate_parts h
  case supervisorWatchdogExpiry => exact supervisorWatchdogExpiry_parts h
  case ddrUncorrectableError => exact ddrUncorrectableError_parts h
  case inputFilterStep => exact inputFilterStep_parts h
  case inputGroupFault => exact inputGroupFault_parts h
  case outputGroupFault => exact outputGroupFault_parts h
  case encoderEdge => exact encoderEdge_parts h
  case encoderIndex => exact encoderIndex_parts h
  case lineFault => exact lineFault_parts h
  case encoderStandstill => exact encoderStandstill_parts h
  case tickLatch => exact tickLatch_parts h
  case encoderTransactionStart => exact encoderTransactionStart_parts h
  case encoderWordReceived => exact encoderWordReceived_parts h
  case encoderTimeout => exact encoderTimeout_parts h
  case emulatedEdge => exact emulatedEdge_parts h
  case conveyorStale => exact conveyorStale_parts h
  case jogTimeout => exact jogTimeout_parts h
  case currentSample => exact currentSample_parts h
  case referenceInstant => exact referenceInstant_parts h
  case auxFeedbackPost => exact auxFeedbackPost_parts h
  case chopperFallback => exact chopperFallback_parts h
  case stall => exact stall_parts h
  case ptpSyncRx => exact ptpSyncRx_parts h
  case ptpMessageRx => exact ptpMessageRx_parts h
  case sourceLocked => exact sourceLocked_parts h
  case syncTimeout => exact syncTimeout_parts h
  case announceReceiptTimeout => exact announceReceiptTimeout_parts h
  case revertTimer => exact revertTimer_parts h
  case slewEnd => exact slewEnd_parts h
  case ppsInEdge => exact ppsInEdge_parts h
  case ppsTimeout => exact ppsTimeout_parts h
  case ppsOutEdge => exact ppsOutEdge_parts h
  case pairTimeExchange => exact pairTimeExchange_parts h
  case aonStore => exact aonStore_parts h
  case powerOn => exact powerOn_parts h
  case brownOut => exact brownOut_parts h
  case lowInput => exact lowInput_parts h
  case highInput => exact highInput_parts h
  case modResetN => exact modResetN_parts h
  case commandResetBegin => exact commandResetBegin_parts h
  case perstN => exact perstN_parts h
  case pcieLinkDown => exact pcieLinkDown_parts h
  case dieTemperature => exact dieTemperature_parts h
  case crystalStable => exact crystalStable_parts h
  case clockMonitorWindow => exact clockMonitorWindow_parts h
  case clockLoss => exact clockLoss_parts h
  case pllUnlock => exact pllUnlock_parts h
  case clockSourceRecovered => exact clockSourceRecovered_parts h
  case rcTrim => exact rcTrim_parts h
  case muxSwitch => exact muxSwitch_parts h
  case forcedSwitch => exact forcedSwitch_parts h
  case pllRelock => exact pllRelock_parts h
  case domainPowerGood => exact domainPowerGood_parts h
  case domainPowerGoodTimeout => exact domainPowerGoodTimeout_parts h
  case drainTimeout => exact drainTimeout_parts h
  case domainOff => exact domainOff_parts h
  case startAttempt => exact startAttempt_parts h
  case startStepTimeout => exact startStepTimeout_parts h
  case configCheckDone => exact configCheckDone_parts h
  case nonceExpiry => exact nonceExpiry_parts h
  case lockoutEnd => exact lockoutEnd_parts h
  case udpIdleTimeout => exact udpIdleTimeout_parts h
  case sessionDrained => exact sessionDrained_parts h
  case acqSample => exact acqSample_parts h
  case indexTreeReady => exact indexTreeReady_parts h
  case tokenRenewal => exact tokenRenewal_parts h
  case tokenMessageRx => exact tokenMessageRx_parts h
  case tokenLeaseExpiry => exact tokenLeaseExpiry_parts h
  case takeover => exact takeover_parts h
  case mirrorSetRx => exact mirrorSetRx_parts h
  case mirrorAgeLimit => exact mirrorAgeLimit_parts h
  case planAckRx => exact planAckRx_parts h
  case pairSafetyStatusRx => exact pairSafetyStatusRx_parts h
  case peerSilent => exact peerSilent_parts h
  case pairRevertTimer => exact pairRevertTimer_parts h
  case handoverRequestRx => exact handoverRequestRx_parts h
  case handoverAckTimeout => exact handoverAckTimeout_parts h
  case handoverAt => exact handoverAt_parts h
  case errorDetected => exact errorDetected_parts h
  case ptpTransmitInterval => exact ptpTransmitInterval_parts h
  case linkSynchronised => exact linkSynchronised_parts h
  case groupFaultCleared => exact groupFaultCleared_parts h
  case vinBackInRange => exact vinBackInRange_parts h
  case encoderLineRestored => exact encoderLineRestored_parts h
  case phaseAccumulatorCarry => exact phaseAccumulatorCarry_parts h
  case vectorSpacingEnd => exact vectorSpacingEnd_parts h
  case domainFrequencyMeasurement => exact domainFrequencyMeasurement_parts h

/-! ### The state after reset -/

/-- A list of equal values reads the same at every place, given the same default. -/
theorem nth_replicate {α : Type} (d : α) (n i : Nat) : nth d (List.replicate n d) i = d := by
  unfold nth
  rw [List.getD_eq_getElem?_getD, List.getElem?_replicate]
  split <;> rfl

theorem reset_mbx (m : Nat) : mbx State.reset m = {} := nth_replicate (α := Mailbox) {} 8 m

/-- Settles O4: every field of the reset state has its default, and each register reads from those. -/
theorem resetState : Obligations.ResetState := by
  unfold Obligations.ResetState
  refine ⟨⟨rfl, rfl, rfl, rfl, fun m _ => ?_, rfl, by decide, rfl, rfl, rfl, rfl, rfl, rfl, rfl⟩,
    fun bar => ⟨rfl, rfl, rfl, rfl, rfl, ?latched, ?boxes⟩⟩
  · rw [reset_mbx]
    exact ⟨rfl, rfl, rfl, rfl⟩
  case latched =>
    have adj : (BitVec.ofInt 32 (adjTotal State.reset)).toNat = 0 := by decide +kernel
    simp only [List.forall_mem_cons, List.not_mem_nil, false_implies, implies_true, and_true]
    exact ⟨rfl, rfl, rfl, rfl, rfl, rfl, rfl, rfl, rfl, rfl, rfl, adj, rfl, rfl, rfl, rfl, rfl, rfl, rfl, rfl, rfl,
      nth_replicate 0 2 bar, rfl, rfl, rfl, rfl⟩
  case boxes =>
    intro m hm f hf
    interval_cases m <;> interval_cases f <;> rfl

end Sys2Proof.Machine
end

section
/-! Proofs about sessions and mailboxes (03_zewen_interface.md): what an admitted command of a session does, and how sessions end. -/

namespace Sys2Proof.Machine

/-! ### Admitted entries -/

/-- An entry that is not discarded is not one of a session in CLOSING. -/
theorem Admitted.live {s : State} {op : Nat} {e0 e : Entry} {via : Transport} (h : Admitted s op e0 via e) :
    (mbx s e.mbx).state ≠ .closing := by
  intro hc
  have kept := h.kept
  simp [entryFault, hc] at kept

/-- R459 lets a command of an open session through that is executed in every start and every mode. -/
theorem judge_session (c : CmdSpec) (s : State) (e : Entry) (hs : (mbx s e.mbx).state ≠ .closed ∨ c.opcode = 0x0002)
    (hr : c.rescue = true) (hu : c.unknown = false) (hl : c.loaderOnly = false) (hm : c.modes = []) (ht : c.noTransition = false)
    (hb : c.refusedBy s e = false := by rfl) : judge c false s e = none := by
  unfold judge
  dsimp only
  rw [modes_pass c s (.inl hm), transition_pass c s (.inl ht)]
  rcases hs with h | h <;> simp [h, hr, hu, hl, hb]

/-- A command of a session that is admitted runs its effect. -/
theorem command_session (c : CmdSpec) (lenOk : Entry → Bool) (body : Entry → Transport → State → State) (clk : Nat) (e0 e : Entry)
    (via : Transport) (s : State) (h : Admitted (begin clk s) c.opcode e0 via e)
    (hs : (mbx s e.mbx).state ≠ .closed ∨ c.opcode = 0x0002) (hlen : lenOk e = true) (hr : c.rescue = true := by rfl)
    (hu : c.unknown = false := by rfl) (hl : c.loaderOnly = false := by rfl) (hm : c.modes = [] := by rfl)
    (ht : c.noTransition = false := by rfl) (hb : ∀ s e, c.refusedBy s e = false := by intros; rfl) :
    command c (fun _ => false) lenOk body clk e0 s = body e via (entered clk s via e) :=
  command_runs c _ lenOk body clk e0 e via s h (judge_session c _ e (by simpa using hs) hr hu hl hm ht (hb _ _)) hlen

theorem Admitted.box_entered {clk op : Nat} {s : State} {e0 e : Entry} {via : Transport} (h : Admitted (begin clk s) op e0 via e) :
    e.mbx < (entered clk s via e).zewen.mbx.length := by
  simpa using h.box

theorem Admitted.unsealed {clk op : Nat} {s : State} {e0 e : Entry} {via : Transport} (h : Admitted (begin clk s) op e0 via e) :
    (entered clk s via e).mode.resetFinal = false := by
  simpa [begin_frame] using h.open_

/-! ### Opening (R65) -/

theorem nextSessionId_ne_zero (n : Nat) : nextSessionId n ≠ 0 := by
  unfold nextSessionId
  split
  · exact Nat.one_ne_zero
  · next h => exact h

theorem openSession_opens (e : Entry) (via : Transport) (s : State) (hc : (mbx s e.mbx).state = .closed)
    (hm : e.mbx < s.zewen.mbx.length) (he : e.mbx < s.aon.epochs.length) (hf : s.mode.resetFinal = false) :
    let t := openSession e via s
    (mbx t e.mbx).state = .opened ∧ (mbx t e.mbx).via = via ∧ epochOf t e.mbx = (epochOf s e.mbx + 1) % 16 ∧
      t.aon.sessionCounter = nextSessionId s.aon.sessionCounter ∧ (mbx t e.mbx).sessionId = t.aon.sessionCounter ∧
      Posts t e 0x0000 (leBytes 1 (epochOf t e.mbx) ++ leBytes 4 t.aon.sessionCounter) := by
  unfold openSession
  rw [if_neg (by simp [hc])]
  extract_lets ep sid aon s1 s2 t
  have hb : mbx s2 e.mbx = _ := mbx_setMbx_same s1 e.mbx _ hm
  have hep : epochOf s2 e.mbx = ep := nth_upd_same _ _ _ _ he
  have hid : t.aon.sessionCounter = sid := by simp [t, complete_frame, s2, s1, setMbx]
  obtain ⟨_, _, _, _, _, _, box⟩ := complete_box s2 (originOf e) stOk (leBytes 1 ep ++ leBytes 4 sid) e.mbx
  rw [show epochOf t e.mbx = ep from (complete_epochOf _ _ _ _ _).trans hep, hid, box, hb]
  exact ⟨rfl, rfl, rfl, rfl, rfl, posts_complete s2 e _ _ hf⟩

theorem openSession_busy (e : Entry) (via : Transport) (s : State) (hc : (mbx s e.mbx).state ≠ .closed) :
    openSession e via s = complete s (originOf e) stBusy := by
  unfold openSession
  rw [if_pos (by simp [hc])]

theorem exec_openSession_admitted (clk : Nat) (e0 e : Entry) (via : Transport) (s : State) (h : Admitted (begin clk s) 0x0002 e0 via e)
    (hl : (entryArgs e).length = 0) : exec (.openSession clk e0) s = .next (openSession e via (entered clk s via e)) :=
  congrArg Host.Outcome.next (command_session _ _ _ clk e0 e via s h (.inr rfl) (fixedLen_iff 0 e hl))

/-- Settles O10: a CLOSED mailbox opens with the next epoch and SESSION_ID; another answers BUSY, which changes no session. -/
theorem sessionsOpen : Obligations.SessionsOpen := by
  unfold Obligations.SessionsOpen
  refine ⟨fun clk e0 e via s h hc hl he => ?opens, fun clk e0 e via s h hc hl => ?busy⟩
  case opens =>
    obtain ⟨hstate, hvia, hep, hid, hsid, hpost⟩ := openSession_opens e via (entered clk s via e) (by simpa using hc)
      h.box_entered (by simpa using he) h.unsealed
    rw [entered_epochOf] at hep
    rw [entered_aon, begin_counter] at hid
    exact ⟨_, exec_openSession_admitted clk e0 e via s h hl, hstate, hvia, hep, hid, hid ▸ nextSessionId_ne_zero _, hsid, hpost⟩
  case busy =>
    refine ⟨_, exec_openSession_admitted clk e0 e via s h hl, ?_⟩
    rw [openSession_busy _ _ _ (by simpa using hc)]
    have same := complete_same (entered clk s via e) (originOf e) stBusy []
    refine ⟨by simp, ?_, by simp [complete_frame], by simp [complete_frame], posts_complete _ e _ _ h.unsealed⟩
    rw [same.sessionId, entered_mbx_same _ _ _ _ (by simpa using h.box)]

/-! ### Commands that complete at once (R81) -/

/-- Settles O11: each of the three completes with what it is judged to have. -/
theorem plainCommands : Obligations.PlainCommands := by
  unfold Obligations.PlainCommands
  refine ⟨fun clk e0 e via s h hs hl => ?nop, fun clk e0 e via s h ho hl => ?status, fun clk e0 e via s h ho hk => ?unknown⟩
  case nop =>
    exact ⟨_, congrArg Host.Outcome.next (command_session _ _ _ clk e0 e via s h (.inl (by simpa using hs)) (fixedLen_iff 0 e hl)),
      posts_complete _ e _ _ h.unsealed⟩
  case status =>
    refine ⟨_, congrArg Host.Outcome.next (command_runs _ _ _ _ clk e0 e via s h (openJudge _ clk s via e ho rfl rfl (.inl rfl) (.inl rfl))
      (fixedLen_iff 0 e hl)), posts_as (posts_complete _ e _ _ h.unsealed) rfl ?_⟩
    simp [statusBytes, modeTarget, tickCount]
  case unknown =>
    have judged : judge { opcode := e0.opcode, unknown := true } false (entered clk s via e) e = some stBadOpcode := by
      have hopen : (mbx s e.mbx).state ≠ .closed := by simpa using ho.1
      have hres : s.start.rescue = false := by simpa [begin_frame] using ho.2
      simp [judge, hopen, hres]
    have run : exec (.unknownOpcode clk e0) s = .next (complete (entered clk s via e) (originOf e) stBadOpcode) := by
      have notKnown : knownOpcodes.contains e0.opcode = false := by simpa using hk
      simp only [exec, execUnknownOpcode, notKnown, Bool.false_eq_true, if_false]
      exact congrArg Host.Outcome.next (command_judged _ _ _ _ clk e0 e via s _ h judged)
    exact ⟨_, run, posts_complete _ e _ _ h.unsealed⟩

/-! ### Epochs and closing (R65, R66, R70) -/

/-- A mailbox takes an epoch, and its window is cleared (R70). -/
def renewed (s : State) (m ep : Nat) : State :=
  setMbx { s with aon := { s.aon with epochs := upd s.aon.epochs m (fun _ => ep) } } m
    (fun b => { b with windowHigh := none, seen := [], kept := [] })

theorem renewed_mbx (s : State) (m ep : Nat) (h : m < s.zewen.mbx.length) :
    mbx (renewed s m ep) m = { mbx s m with windowHigh := none, seen := [], kept := [] } := mbx_setMbx_same _ _ _ h

theorem renewed_epoch (s : State) (m ep : Nat) (h : m < s.aon.epochs.length) : epochOf (renewed s m ep) m = ep := nth_upd_same _ _ _ _ h

theorem newEpoch_alone (e : Entry) (via : Transport) (s : State) (h : ∀ o ∈ (mbx s e.mbx).inFlight, o = originOf e) :
    newEpoch e via s = complete (renewed s e.mbx ((epochOf s e.mbx + 1) % 16)) (originOf e) stOk
      (leBytes 1 ((epochOf s e.mbx + 1) % 16)) := by
  unfold newEpoch
  exact if_neg (by simpa using h)

theorem newEpoch_busy (e : Entry) (via : Transport) (s : State) (h : ∃ o ∈ (mbx s e.mbx).inFlight, o ≠ originOf e) :
    newEpoch e via s = complete s (originOf e) stBusy := by
  unfold newEpoch
  exact if_pos (by simpa using h)

theorem exec_newEpoch_admitted (clk : Nat) (e0 e : Entry) (via : Transport) (s : State) (h : Admitted (begin clk s) 0x0004 e0 via e)
    (hs : (mbx s e.mbx).state ≠ .closed) (hl : (entryArgs e).length = 0) :
    exec (.newEpoch clk e0) s = .next (newEpoch e via (entered clk s via e)) :=
  congrArg Host.Outcome.next (command_session _ _ _ clk e0 e via s h (.inl hs) (fixedLen_iff 0 e hl))

theorem exec_closeSession_admitted (clk : Nat) (e0 e : Entry) (via : Transport) (s : State) (h : Admitted (begin clk s) 0x0003 e0 via e)
    (hs : (mbx s e.mbx).state ≠ .closed) (hl : (entryArgs e).length = 0) :
    exec (.closeSession clk e0) s = .next (enterClosing (entered clk s via e) e.mbx (some (originOf e))) :=
  congrArg Host.Outcome.next (command_session _ _ _ clk e0 e via s h (.inl hs) (fixedLen_iff 0 e hl))

/-- A session that is neither CLOSED nor CLOSING is open in one of three ways (Table 3-9). -/
theorem session_open (b : Mailbox) (h : b.state ≠ .closed) (g : b.state ≠ .closing) :
    b.state = .opened ∨ b.state = .challenged ∨ b.state = .privileged := by
  cases hb : b.state <;> simp_all

/-- The commands of a mailbox in flight once an entry has joined them. -/
theorem entered_inFlight (clk : Nat) (s : State) (via : Transport) (e : Entry) (h : e.mbx < s.zewen.mbx.length) :
    (mbx (entered clk s via e) e.mbx).inFlight = if e.udp then (mbx s e.mbx).inFlight else (mbx s e.mbx).inFlight ++ [originOf e] := by
  rw [entered_mbx_same _ _ _ _ h]

/-- Settles O12: NEW_EPOCH by the commands in flight; CLOSE_SESSION by what entering CLOSING does. -/
theorem epochsAndClosing : Obligations.EpochsAndClosing := by
  unfold Obligations.EpochsAndClosing
  refine ⟨fun clk e0 e via s h hs hl he => ?epoch, fun clk e0 e via s h hs hl => ?close⟩
  case epoch =>
    have hm : e.mbx < s.zewen.mbx.length := by simpa using h.box
    have hs : (mbx s e.mbx).state ≠ .closed := by simpa using hs
    have run := exec_newEpoch_admitted clk e0 e via s h hs hl
    have flight := entered_inFlight clk s via e hm
    refine ⟨fun hone => ?alone, fun hmore => ?others⟩
    case alone =>
      have alone : ∀ o ∈ (mbx (entered clk s via e) e.mbx).inFlight, o = originOf e := by
        rw [flight]
        split
        · exact hone
        · simpa [or_imp, forall_and] using hone
      have boxed := renewed_mbx (entered clk s via e) e.mbx ((epochOf s e.mbx + 1) % 16) h.box_entered
      have renews : epochOf (renewed (entered clk s via e) e.mbx ((epochOf s e.mbx + 1) % 16)) e.mbx = (epochOf s e.mbx + 1) % 16 :=
        renewed_epoch _ _ _ (by simpa using he)
      rw [newEpoch_alone _ _ _ alone, entered_epochOf] at run
      obtain ⟨_, _, _, _, _, _, box⟩ := complete_box (renewed (entered clk s via e) e.mbx ((epochOf s e.mbx + 1) % 16)) (originOf e) stOk
        (leBytes 1 ((epochOf s e.mbx + 1) % 16)) e.mbx
      refine ⟨_, run, ?_⟩
      rw [complete_epochOf, renews, box, boxed, entered_mbx_same _ _ _ _ hm]
      exact ⟨rfl, rfl, rfl, rfl, rfl, rfl, posts_complete _ e _ _ h.unsealed⟩
    case others =>
      have more : ∃ o ∈ (mbx (entered clk s via e) e.mbx).inFlight, o ≠ originOf e := by
        obtain ⟨o, ho, hne⟩ := hmore
        refine ⟨o, ?_, hne⟩
        rw [flight]
        split
        · exact ho
        · exact List.mem_append_left _ ho
      rw [newEpoch_busy _ _ _ more] at run
      exact ⟨_, run, by simp [complete_frame], posts_complete _ e _ _ h.unsealed⟩
  case close =>
    have hopen : (mbx (entered clk s via e) e.mbx).state = .opened ∨ (mbx (entered clk s via e) e.mbx).state = .challenged ∨
        (mbx (entered clk s via e) e.mbx).state = .privileged := by
      have := session_open (mbx (begin clk s) e.mbx) hs h.live
      simpa using this
    obtain ⟨hstate, hcloser, -, -⟩ := enterClosing_box _ e.mbx (some (originOf e)) h.box_entered hopen
    obtain ⟨hstage, hrep, hlease⟩ := enterClosing_ends _ e.mbx (some (originOf e)) hopen
    exact ⟨_, exec_closeSession_admitted clk e0 e via s h (by simpa using hs) hl, hstate, hcloser, hstage, hrep,
      by simp [enterClosing_frame], by rw [hlease, entered_piste]⟩

/-! ### Challenges and unlocking (R65, R67, R68, R423) -/

theorem freshNonce_length (s : State) : (freshNonce s).length = 32 := by simp [freshNonce]

theorem challenge_issues (e : Entry) (via : Transport) (s : State) (hk : (challengeKey s (le (entryArgs e) 0 1)).isSome = true)
    (hp : (mbx s e.mbx).state ≠ .privileged) (hlock : ∀ f, (mbx s e.mbx).lockoutEnd = some f → f ≤ now s)
    (hm : e.mbx < s.zewen.mbx.length) (hf : s.mode.resetFinal = false) :
    let t := challenge e via s
    (mbx t e.mbx).state = .challenged ∧
      (mbx t e.mbx).challenge = some { nonce := freshNonce s, time := now s, slot := le (entryArgs e) 0 1 } ∧
      Posts t e 0x0000 (freshNonce s) := by
  have free : (mbx s e.mbx).lockoutEnd.any (fun t => decide (now s < t)) = false := by
    cases h : (mbx s e.mbx).lockoutEnd with
    | none => rfl
    | some f => simpa using hlock f h
  unfold challenge
  dsimp only
  rw [if_neg (by simp [Option.isSome_iff_ne_none.1 hk]), if_neg hp, if_neg (by simp [free])]
  generalize hs1 : setMbx _ _ _ = s1
  have hb : mbx s1 e.mbx = { mbx s e.mbx with
      state := .challenged, challenge := some { nonce := freshNonce s, time := now s, slot := le (entryArgs e) 0 1 } } := by
    subst hs1
    exact mbx_setMbx_same _ _ _ hm
  have hf1 : s1.mode.resetFinal = false := by
    subst hs1
    exact hf
  obtain ⟨_, _, _, _, _, _, box⟩ := complete_box s1 (originOf e) stOk (freshNonce s) e.mbx
  rw [box, hb]
  exact ⟨rfl, rfl, posts_complete s1 e _ _ hf1⟩

/-- Settles O13: with a usable key slot, no privilege and no lockout the last branch of CHALLENGE is taken. -/
theorem challengeIssues : Obligations.ChallengeIssues := by
  unfold Obligations.ChallengeIssues
  intro clk e0 e via s h hs hl hp hk hlock
  have hm : e.mbx < s.zewen.mbx.length := by simpa using h.box
  have key : challengeKey (entered clk s via e) (le (entryArgs e) 0 1) = challengeKey s (le (entryArgs e) 0 1) := by
    simp [challengeKey, unprovisioned]
  obtain ⟨hstate, hchal, hpost⟩ := challenge_issues e via (entered clk s via e) (key ▸ hk) (by simpa using hp)
    (by rw [entered_mbx_same _ _ _ _ hm, entered_now]; exact hlock) h.box_entered h.unsealed
  rw [entered_now] at hchal
  exact ⟨_, freshNonce (entered clk s via e), congrArg Host.Outcome.next (command_session _ _ _ clk e0 e via s h (.inl (by simpa using hs)) (fixedLen_iff 1 e hl)),
    freshNonce_length _, hstate, hchal, hpost⟩

/-- The key that a key slot names for the MAC of UNLOCK; slot 0 is that of a module without keys (R423). -/
def slotKey (s : State) (slot : Nat) : Bytes :=
  if slot = 0 then zeros 32 else ((nth none s.sec.hmac (slot - 1)).map (·.key)).getD []

/-- An UNLOCK that is judged by its MAC: the challenge is outstanding and less than 5 s old. -/
structure Unlocks (e : Entry) (s : State) (c : Challenge) : Prop where
  state : (mbx s e.mbx).state = .challenged
  challenge : (mbx s e.mbx).challenge = some c
  inTime : now s < c.time + 5000000000
  box : e.mbx < s.zewen.mbx.length
  open_ : s.mode.resetFinal = false

theorem unlock_right (e : Entry) (via : Transport) (s : State) (c : Challenge) (h : Unlocks e s c)
    (hmac : slice (entryArgs e) 32 32 = hmac256 (slotKey s c.slot) (0 :: macTail s e.mbx c.nonce (slice (entryArgs e) 0 32)))
    (hseal : c.slot = 0 → seal11 s = true) :
    let t := unlock e via s
    (mbx t e.mbx).state = .privileged ∧ (mbx t e.mbx).challenge = none ∧ (mbx t e.mbx).wrongUnlocks = 0 ∧
      (mbx t e.mbx).sk = hmac256 (slotKey s c.slot) (1 :: macTail s e.mbx c.nonce (slice (entryArgs e) 0 32)) ∧ Posts t e 0x0000 [] := by
  have unsealed : (decide (c.slot = 0) && !seal11 s) = false := by
    by_cases hc : c.slot = 0 <;> simp [hc, hseal]
  unfold unlock
  simp only [h.challenge]
  rw [if_neg (by simp [h.state, h.inTime]), if_neg (by rw [hmac]; simp [slotKey]), if_neg (by simp [unsealed])]
  generalize hs1 : setMbx _ _ _ = s1
  have hb : mbx s1 e.mbx = _ := hs1 ▸ mbx_setMbx_same s e.mbx _ h.box
  obtain ⟨_, _, _, _, _, _, box⟩ := complete_box s1 (originOf e) stOk [] e.mbx
  rw [box, hb]
  exact ⟨rfl, rfl, rfl, rfl, posts_complete s1 e _ _ (hs1 ▸ h.open_)⟩

theorem unlock_wrong (e : Entry) (via : Transport) (s : State) (c : Challenge) (h : Unlocks e s c)
    (hmac : slice (entryArgs e) 32 32 ≠ hmac256 (slotKey s c.slot) (0 :: macTail s e.mbx c.nonce (slice (entryArgs e) 0 32))) :
    let t := unlock e via s
    let runs := (mbx s e.mbx).wrongUnlocks + 1
    (mbx t e.mbx).state = .opened ∧ (mbx t e.mbx).challenge = none ∧ Posts t e 0x0207 [] ∧
      (mbx t e.mbx).wrongUnlocks = (if 3 ≤ runs then 0 else runs) ∧
      (mbx t e.mbx).lockoutEnd = (if 3 ≤ runs then some (now s + 10000000000) else (mbx s e.mbx).lockoutEnd) := by
  unfold unlock
  simp only [h.challenge]
  rw [if_neg (by simp [h.state, h.inTime]), if_pos (by simpa [slotKey] using fun he => hmac he.symm)]
  generalize hs1 : setMbx _ _ _ = s1
  have hb : mbx s1 e.mbx = _ := hs1 ▸ mbx_setMbx_same (bump s 0xD0 (0x80 + e.mbx) 0) e.mbx _ (by simpa [bump_frame] using h.box)
  have hf : s1.mode.resetFinal = false := by
    subst hs1
    simpa [setMbx_frame, bump_frame] using h.open_
  obtain ⟨_, _, _, _, _, _, box⟩ := complete_box s1 (originOf e) stAuthFailed [] e.mbx
  rw [box, hb, bump_mbx]
  exact ⟨rfl, rfl, posts_complete s1 e _ _ hf, rfl, rfl⟩

theorem exec_unlock_admitted (clk : Nat) (e0 e : Entry) (via : Transport) (s : State) (h : Admitted (begin clk s) 0x0006 e0 via e)
    (hs : (mbx s e.mbx).state ≠ .closed) (hl : (entryArgs e).length = 64) :
    exec (.unlock clk e0) s = .next (unlock e via (entered clk s via e)) :=
  congrArg Host.Outcome.next (command_session _ _ _ clk e0 e via s h (.inl hs) (fixedLen_iff 64 e hl))

/-- The message of the MAC and of the session key, as R67 spells it. -/
theorem entered_macTail (clk : Nat) (s : State) (via : Transport) (e : Entry) (nm nh : Bytes) (h : e.mbx < s.zewen.mbx.length) :
    macTail (entered clk s via e) e.mbx nm nh =
      nm ++ nh ++ leBytes 1 e.mbx ++ leBytes 1 (epochOf s e.mbx) ++ leBytes 4 (mbx s e.mbx).sessionId := by
  unfold macTail
  rw [entered_epochOf, entered_mbx_same _ _ _ _ h]

/-- Settles O14: UNLOCK in time goes by its MAC; the third wrong one in a row is the one after two. -/
theorem unlockJudged : Obligations.UnlockJudged := by
  unfold Obligations.UnlockJudged
  have begun : ∀ (clk : Nat) (e0 e : Entry) (via : Transport) (s : State) (c : Challenge), Admitted (begin clk s) 0x0006 e0 via e →
      (mbx s e.mbx).state = .challenged → (mbx s e.mbx).challenge = some c → now (begin clk s) < c.time + 5000000000 →
      Unlocks e (entered clk s via e) c := fun clk e0 e via s c h hs hc ht => by
    have hm : e.mbx < s.zewen.mbx.length := by simpa using h.box
    refine ⟨by simpa using hs, ?_, by simpa using ht, h.box_entered, h.unsealed⟩
    rw [entered_mbx_same _ _ _ _ hm]
    exact hc
  refine ⟨fun clk e0 e via s c key h hl hs hc ht hkey hmac hseal => ?right, fun clk e0 e via s c key h hl hs hc ht hkey hmac => ?wrong⟩
  all_goals
    have hm : e.mbx < s.zewen.mbx.length := by simpa using h.box
    have run := exec_unlock_admitted clk e0 e via s h (by simp [hs]) hl
    have hk : slotKey (entered clk s via e) c.slot = key := by rw [hkey, slotKey, entered_sec]
    have tail := entered_macTail clk s via e c.nonce (slice (entryArgs e) 0 32) hm
  case right =>
    obtain ⟨hstate, hchal, hruns, hsk, hpost⟩ := unlock_right e via _ c (begun clk e0 e via s c h hs hc ht)
      (by rw [hk, tail, hmac]; simp) (by simpa [seal11] using hseal)
    refine ⟨_, run, hstate, hchal, hruns, ?_, hpost⟩
    rw [hsk, hk, tail]
    simp
  case wrong =>
    obtain ⟨hstate, hchal, hpost, hruns, hlock⟩ := unlock_wrong e via _ c (begun clk e0 e via s c h hs hc ht)
      (by rw [hk, tail]; simpa using hmac)
    rw [entered_now] at hlock
    rw [entered_mbx_same _ _ _ _ hm] at hruns hlock
    refine ⟨_, run, hstate, hchal, hpost, fun hlt => ?_, fun hge => ?_⟩
    · rw [if_neg (by simp only; omega)] at hruns hlock
      exact ⟨hruns, hlock⟩
    · rw [if_pos (by simp only; omega)] at hruns hlock
      exact ⟨hruns, hlock⟩

end Sys2Proof.Machine
end

section
/-! Proofs about CANCEL (R72), the ends of sessions (R65, R66, R68, R69), the PCIe link (R434, R455) and entries of another epoch (R70). -/

namespace Sys2Proof.Machine

/-! ### CANCEL (R72) -/

/-- A command withdrawn and the one that withdraws it: the first completion comes before the second. -/
theorem complete_twice (s : State) (o o' : Origin) (st st' : Nat) (h : s.mode.resetFinal = false) :
    ∃ (l r : List Output) (m c : Completion), (complete (complete s o st) o' st').out = l ++ .completion m :: r ∧ m.mailbox = o.mbx ∧
      m.txid = o.txid ∧ m.status = st ∧ .completion c ∈ r ∧ c.mailbox = o'.mbx ∧ c.txid = o'.txid ∧ c.status = st' := by
  obtain ⟨l1, h1⟩ := complete_out s o st [] h
  obtain ⟨l2, h2⟩ := complete_out (complete s o st) o' st' [] (by simpa [complete_frame] using h)
  refine ⟨s.out, l1 ++ .completion (completionOf (complete s o st) o' st' []) :: l2, completionOf s o st [],
    completionOf (complete s o st) o' st' [], ?_, rfl, rfl, rfl, by simp, rfl, rfl, rfl⟩
  rw [h2, h1, List.append_assoc, List.cons_append]

/-- What CANCEL is for: the TXID its argument names. -/
def cancelTarget (e : Entry) : BitVec 16 := BitVec.ofNat 16 (le (entryArgs e) 0 2)

theorem cancel_own (e : Entry) (via : Transport) (s : State) (h : cancelTarget e = e.txid) :
    cancel e via s = complete s (originOf e) stBadArgument := by
  unfold cancel
  exact if_pos h

theorem cancel_unknown (e : Entry) (via : Transport) (s : State) (h : cancelTarget e ≠ e.txid)
    (hn : (mbx s e.mbx).inFlight.find? (fun f => f.txid = cancelTarget e) = none) :
    cancel e via s = complete s (originOf e) stNotFound := by
  unfold cancel
  unfold cancelTarget at h hn
  dsimp only
  rw [if_neg h, hn]

theorem cancel_late (e : Entry) (via : Transport) (s : State) (o : Origin) (h : cancelTarget e ≠ e.txid)
    (ho : (mbx s e.mbx).inFlight.find? (fun f => f.txid = cancelTarget e) = some o)
    (ha : ∀ a ∈ (mbx s e.mbx).accepted, a.2.txid ≠ cancelTarget e) (hw : withdraw s o = none) :
    cancel e via s = complete s (originOf e) stCancelTooLate := by
  unfold cancel
  unfold cancelTarget at h ho ha
  dsimp only
  rw [if_neg h, ho]
  dsimp only
  rw [if_neg (by simpa using ha), hw]

theorem cancel_withdrawn (e : Entry) (via : Transport) (s v : State) (o : Origin) (h : cancelTarget e ≠ e.txid)
    (ho : (mbx s e.mbx).inFlight.find? (fun f => f.txid = cancelTarget e) = some o)
    (ha : ∀ a ∈ (mbx s e.mbx).accepted, a.2.txid ≠ cancelTarget e) (hw : withdraw s o = some v) :
    cancel e via s = complete (complete v o stCancelled) (originOf e) stOk := by
  unfold cancel
  unfold cancelTarget at h ho ha
  dsimp only
  rw [if_neg h, ho]
  dsimp only
  rw [if_neg (by simpa using ha), hw]

/-- A command accepted over UDP leaves the accepted queue. -/
def dropAccepted (s : State) (m : Nat) (txid : BitVec 16) : State :=
  setMbx s m (fun b => { b with accepted := b.accepted.filter (fun a => a.2.txid != txid) })

theorem cancel_accepted (e : Entry) (via : Transport) (s : State) (o : Origin) (h : cancelTarget e ≠ e.txid)
    (ho : (mbx s e.mbx).inFlight.find? (fun f => f.txid = cancelTarget e) = some o)
    (ha : ∃ a ∈ (mbx s e.mbx).accepted, a.2.txid = cancelTarget e) :
    cancel e via s = complete (complete (dropAccepted s e.mbx (cancelTarget e)) o stCancelled) (originOf e) stOk := by
  unfold cancel
  unfold cancelTarget at h ho ha
  dsimp only
  rw [if_neg h, ho]
  dsimp only
  rw [if_pos (by simpa using ha)]
  rfl

/-- Settles O15: one branch of CANCEL for each clause; a command withdrawn completes before CANCEL does. -/
theorem cancelAnswers : Obligations.CancelAnswers := by
  unfold Obligations.CancelAnswers
  intro clk e0 e via s h hopen hl u target
  have run : exec (.cancel clk e0) s = .next (cancel e via u) :=
    congrArg Host.Outcome.next (command_session _ _ _ clk e0 e via s h (.inl (by simpa using hopen.1)) (fixedLen_iff 2 e hl))
  have once : ∀ st : Nat, cancel e via u = complete u (originOf e) st →
      ∃ t, exec (.cancel clk e0) s = .next t ∧ t.plan = s.plan ∧ t.piste = s.piste ∧ t.image = s.image ∧ Posts t e st [] :=
    fun st hc => ⟨_, run, by simp [hc, complete_frame, u], by simp [hc, complete_frame, u], by simp [hc, complete_frame, u],
      hc ▸ posts_complete u e st [] h.unsealed⟩
  have twice : ∀ (v : State) (o : Origin), v.mode = u.mode → cancel e via u = complete (complete v o stCancelled) (originOf e) stOk →
      ∃ (t : State) (l r : List Output) (m : Completion), exec (.cancel clk e0) s = .next t ∧ t.plan = v.plan ∧ t.piste = v.piste ∧
        t.image = v.image ∧ (mbx t e.mbx).accepted = (mbx v e.mbx).accepted ∧ t.out = l ++ .completion m :: r ∧ m.mailbox = o.mbx ∧
        m.txid = o.txid ∧ m.status = 0x0300 ∧ ∃ c, .completion c ∈ r ∧ c.mailbox = e.mbx ∧ c.txid = e.txid ∧ c.status = 0x0000 := by
    intro v o hv hc
    obtain ⟨l, r, m, c, hout, hm, hx, hs, hin, hcm, hcx, hcs⟩ := complete_twice v o (originOf e) stCancelled stOk (by rw [hv]; exact h.unsealed)
    obtain ⟨_, _, _, _, _, _, box1⟩ := complete_box v o stCancelled [] e.mbx
    obtain ⟨_, _, _, _, _, _, box2⟩ := complete_box (complete v o stCancelled) (originOf e) stOk [] e.mbx
    refine ⟨_, l, r, m, run, ?_, ?_, ?_, ?_, hc ▸ hout, hm, hx, hs, c, hin, hcm, hcx, hcs⟩
    · simp [hc, complete_frame]
    · simp [hc, complete_frame]
    · simp [hc, complete_frame]
    · rw [hc, box2, box1]
  refine ⟨fun hown => ?own, fun hne hn => ?unknown, fun o hne ho ha hw => ?late, fun o hne ho ha => ?accepted,
    fun o v hne ho ha hw => ?withdrawn⟩
  case own => exact once _ (cancel_own e via u hown)
  case unknown => exact once _ (cancel_unknown e via u hne hn)
  case late => exact once _ (cancel_late e via u o hne ho ha hw)
  case accepted =>
    obtain ⟨t, l, r, m, ht, hp, hz, hi, hacc, hrest⟩ := twice (dropAccepted u e.mbx target) o rfl (cancel_accepted e via u o hne ho ha)
    refine ⟨t, l, r, m, ht, hp.trans (entered_plan clk s via e), hz.trans (entered_piste clk s via e),
      hi.trans (entered_image clk s via e), ?_, hrest⟩
    rw [hacc, dropAccepted, mbx_setMbx_same _ _ _ h.box_entered]
    intro a ha'
    simpa using (List.mem_filter.1 ha').2
  case withdrawn =>
    obtain ⟨t, l, r, m, ht, hp, hz, hi, -, hrest⟩ := twice v o (withdraw_frame u o hw).1 (cancel_withdrawn e via u v o hne ho ha hw)
    exact ⟨t, l, r, m, ht, hp, hz, hi, hrest⟩

/-! ### Sessions end (R65, R66, R68, R69) -/

theorem exec_nonceExpiry_due (clk m : Nat) (s : State) (c : Challenge) (hc : (mbx s m).challenge = some c)
    (ht : c.time + 5000000000 ≤ now (begin clk s)) : exec (.nonceExpiry clk m) s =
      .next (setMbx (begin clk s) m (fun b => { b with challenge := none, state := if b.state = .challenged then .opened else b.state })) := by
  have due : (mbx (begin clk s) m).challenge.any (fun c => decide (c.time + 5000000000 ≤ now (begin clk s))) = true := by
    rw [begin_mbx, hc, Option.any_some]
    exact decide_eq_true ht
  exact congrArg Host.Outcome.next (if_pos due)

theorem exec_lockoutEnd_due (clk m f : Nat) (s : State) (hf : (mbx s m).lockoutEnd = some f) (ht : f ≤ now (begin clk s)) :
    exec (.lockoutEnd clk m) s = .next (setMbx (begin clk s) m (fun b => { b with lockoutEnd := none })) := by
  have due : (mbx (begin clk s) m).lockoutEnd.any (fun t => decide (t ≤ now (begin clk s))) = true := by simp [hf, ht]
  exact congrArg Host.Outcome.next (if_pos due)

theorem exec_udpIdleTimeout_due (clk m : Nat) (s : State) (hv : viaUdp (mbx s m) = true)
    (ht : (mbx s m).lastDatagram + ov s 0xD0 (0x80 + m) 5 * 1000000 ≤ now (begin clk s)) :
    exec (.udpIdleTimeout clk m) s = .next (enterClosing (begin clk s) m none) := by
  refine congrArg Host.Outcome.next (if_pos ?_)
  simp [hv, ht]

/-- A mailbox without a session (R65). -/
def closedBox (b : Mailbox) : Mailbox :=
  { b with state := .closed, closing := none, sk := [], challenge := none, windowHigh := none, seen := [], kept := [] }

theorem sessionDrained_alone (s : State) (m : Nat) (hs : (mbx s m).state = .closing) (hc : (mbx s m).closing = none)
    (hf : (mbx s m).inFlight = []) : sessionDrained s m = setMbx s m closedBox := by
  unfold sessionDrained
  dsimp only
  rw [if_pos (by simp [hs, hf]), hc]
  rfl

theorem sessionDrained_closer (s : State) (m : Nat) (o : Origin) (hs : (mbx s m).state = .closing) (hc : (mbx s m).closing = some o)
    (hf : (mbx s m).inFlight = [o]) : sessionDrained s m = setMbx (complete s o stOk) m closedBox := by
  unfold sessionDrained
  dsimp only
  rw [if_pos (by simp [hs, hf, hc]), hc]
  rfl

/-- Settles O17: each clock's event acts once its time has come, and a drained session is closed after its closer has completed. -/
theorem sessionsEnd : Obligations.SessionsEnd := by
  unfold Obligations.SessionsEnd
  refine ⟨⟨fun clk m s c hm hc hs ht => ?nonce, fun clk m f s hm hf ht => ?lockout, fun clk m s hm hv hs ht => ?idle⟩,
    fun clk m s hm hs hc hf => ?alone, fun clk m s o hm hs hc ho hf hr => ?closer⟩
  case nonce =>
    refine ⟨_, exec_nonceExpiry_due clk m s c hc ht, ?_, fun k hk => ?_⟩
    · rw [mbx_setMbx_same _ _ _ (by simpa using hm), begin_mbx]
      simp [hs]
    · rw [mbx_setMbx_other _ _ _ _ hk, begin_mbx]
  case lockout =>
    refine ⟨_, exec_lockoutEnd_due clk m f s hf ht, ?_, fun k hk => ?_⟩
    · rw [mbx_setMbx_same _ _ _ (by simpa using hm), begin_mbx]
    · rw [mbx_setMbx_other _ _ _ _ hk, begin_mbx]
  case idle =>
    obtain ⟨hstate, hcloser, -, -⟩ := enterClosing_box (begin clk s) m none (by simpa using hm) (by simpa using hs)
    exact ⟨_, exec_udpIdleTimeout_due clk m s hv ht, hstate, hcloser, by simp [enterClosing_frame, begin_frame]⟩
  case alone =>
    have hd := sessionDrained_alone (begin clk s) m (by simpa using hs) (by simpa using hc) (by simpa using hf)
    have hb : mbx (sessionDrained (begin clk s) m) m = closedBox (mbx s m) := by
      rw [hd, mbx_setMbx_same _ _ _ (by simpa using hm), begin_mbx]
    exact ⟨_, rfl, by rw [hb]; rfl, by rw [hb]; rfl, by rw [hb]; rfl, by rw [hd, setMbx_out, begin_out]⟩
  case closer =>
    have hr' : (begin clk s).mode.resetFinal = false := by simpa [begin_frame] using hr
    have hd := sessionDrained_closer (begin clk s) m o (by simpa using hs) (by simpa using hc) (by simpa using hf)
    have hb : mbx (sessionDrained (begin clk s) m) m = closedBox (completedBox (begin clk s) o stOk [] (mbx s m)) := by
      subst ho
      rw [hd, mbx_setMbx_same _ _ _ (by simpa using hm), complete_mbx_same _ _ _ _ hr' (by simpa using hm), begin_mbx]
    obtain ⟨l, hout⟩ := complete_out (begin clk s) o stOk [] hr'
    refine ⟨_, completionOf (begin clk s) o stOk [], rfl, by rw [hb]; rfl, by rw [hb]; rfl, by rw [hb]; rfl, ?_, ?_, ho, rfl, rfl⟩
    · rw [hb]
      simp [closedBox, completedBox, hf]
    · rw [hd, setMbx_out, hout]
      simp

/-! ### The PCIe link (R65, R434, R455) -/

/-- The link is gone unless the reset is of the function alone. -/
theorem pcieDown_linkUp (s : State) (flr : Bool) : (pcieDown s flr).zewen.linkUp = (flr && s.zewen.linkUp) := by
  unfold pcieDown
  cases flr <;> simp

theorem pcieDown_unlinked (s : State) : (pcieDown s false).zewen.linkUp = false := by
  rw [pcieDown_linkUp, Bool.false_and]

theorem pcieDown_msix (s : State) : (pcieDown s true).zewen.msix = {} := rfl

/-- The PCIe sessions are those that closing leaves. -/
theorem pcieDown_mbx (s : State) (flr : Bool) : (pcieDown s flr).zewen.mbx = (closePcie s).zewen.mbx := by
  unfold pcieDown
  cases flr <;> simp

/-- A session that PCIe carries is CLOSING once the link has gone, however it went. -/
theorem pcieDown_closes (s : State) (flr : Bool) (m : Nat) (h8 : s.zewen.mbx.length = 8) (hm : m < 8) (hv : (mbx s m).via = .pcie)
    (h : (mbx s m).state = .opened ∨ (mbx s m).state = .challenged ∨ (mbx s m).state = .privileged) :
    (mbx (pcieDown s flr) m).state = .closing := by
  rw [mbx_of (pcieDown_mbx s flr)]
  exact closePcie_closes s m h8 hm hv h

theorem exec_perstN_low (clk : Nat) (s : State) : exec (.perstN clk true) s =
    .next { pcieDown (begin clk s) false with hw := { (begin clk s).hw with perstLow := true } } := rfl

theorem exec_pcieLinkDown (clk : Nat) (flr : Bool) (s : State) : exec (.pcieLinkDown clk flr) s = .next (pcieDown (begin clk s) flr) := rfl

/-- Settles O18: every way down closes the PCIe sessions; a function-level reset clears MSI-X and keeps the link. -/
theorem pcieLink : Obligations.PcieLink := by
  unfold Obligations.PcieLink
  refine ⟨fun clk s => ⟨_, exec_perstN_low clk s, pcieDown_unlinked (begin clk s), rfl⟩, fun clk s hh hd hi => ?released,
    fun clk s => ⟨_, exec_pcieLinkDown clk false s, pcieDown_unlinked (begin clk s)⟩,
    fun clk s => ⟨_, exec_pcieLinkDown clk true s, ?functionReset, pcieDown_msix (begin clk s)⟩,
    fun clk m flr s h8 hm hv hs => ⟨_, exec_pcieLinkDown clk flr s,
      pcieDown_closes _ flr m (by simpa using h8) hm (by simpa using hv) (by simpa using hs)⟩⟩
  case released =>
    have on : domainOn (begin clk s) 12 = true := by simpa [domainOn, begin_frame] using hd
    have there : isolated (begin clk s) 3 3 = false := by simpa [isolated, begin_frame] using hi
    exact ⟨_, rfl, by simp [begin_frame, hh, on, there], rfl, by simp⟩
  case functionReset => rw [pcieDown_linkUp, Bool.true_and, begin_zewen]

/-! ### Entries of another epoch (R70) -/

/-- An entry of another epoch than its session's is a fault that is counted (R70). -/
theorem entryFault_epoch (s : State) (via : Transport) (e : Entry) (hc : (mbx s e.mbx).state ≠ .closed) (hg : (mbx s e.mbx).state ≠ .closing)
    (hv : (mbx s e.mbx).via = via) (he : txEpoch e.txid ≠ epochOf s e.mbx) : entryFault s via e = some (some 3) := by
  unfold entryFault
  simp [hc, hg, hv, he]

/-- A taken entry with a fault is counted and does nothing else. -/
theorem command_faulty (c : CmdSpec) (priv lenOk : Entry → Bool) (body : Entry → Transport → State → State) (clk : Nat) (e0 e : Entry)
    (via : Transport) (s : State) (counter : Option Nat) (ht : takenEntry c.opcode (begin clk s) e0 = some (via, e))
    (hturn : turnOf (begin clk s) e.mbx = true) (hf : entryFault (begin clk s) via e = some counter) :
    command c priv lenOk body clk e0 s = dropEntry (leaveFlight (consumeEntry (begin clk s) e) e) e.mbx counter := by
  unfold command
  simp only [ht, hturn, hf, Bool.not_true, Bool.false_eq_true, if_false]

/-- What a discarded entry leaves its mailbox's count of discards. -/
theorem leaveFlight_discards (s : State) (e : Entry) (h : e.mbx < s.zewen.mbx.length) :
    (mbx (leaveFlight (consumeEntry s e) e) e.mbx).discards = (mbx s e.mbx).discards ∧
      (leaveFlight (consumeEntry s e) e).zewen.mbx.length = s.zewen.mbx.length := by
  have consumed : (mbx (consumeEntry s e) e.mbx).discards = (mbx s e.mbx).discards := by
    rw [consumeEntry_mbx, mbx_setMbx_same _ _ _ h]
    split <;> rfl
  have boxes : (consumeEntry s e).zewen.mbx.length = s.zewen.mbx.length := by simp [consumeEntry, setMbx]
  unfold leaveFlight
  split
  · rw [mbx_setMbx_same _ _ _ (by omega)]
    exact ⟨consumed, by simpa using boxes⟩
  · exact ⟨consumed, boxes⟩

/-- Settles O20: the entry has a fault of R70, which is counted twice over, and nothing is executed. -/
theorem staleEpochDiscarded : Obligations.StaleEpochDiscarded := by
  unfold Obligations.StaleEpochDiscarded
  intro clk e0 e via s ht hturn hm hc hg hv he
  have fault := entryFault_epoch (begin clk s) via e (by simpa using hc) (by simpa using hg) (by simpa using hv) (by simpa using he)
  let u := leaveFlight (consumeEntry (begin clk s) e) e
  have run : exec (.setMode clk e0) s = .next (bump (discard u e.mbx) 0xD0 (0x80 + e.mbx) 3) :=
    congrArg Host.Outcome.next (command_faulty _ _ _ _ clk e0 e via s _ ht hturn fault)
  obtain ⟨hdisc, hlen⟩ := leaveFlight_discards (begin clk s) e (by simpa using hm)
  have hobjs : u.objs = s.objs := by simp [u, leaveFlight_frame, consumeEntry_frame, begin_frame]
  have hfree : u.freeCount = s.freeCount := by simp [u, leaveFlight_frame, consumeEntry_frame, begin_frame]
  refine ⟨_, run, ?_, ?_, ?_, ?_⟩
  · rw [bump_discard_mbx u _ _ _ _ (by rw [hlen]; simpa using hm), hdisc, begin_mbx]
  · simp [u, bump_frame, discard_frame, leaveFlight_frame, consumeEntry_frame, begin_frame]
  · have hout : u.out = [] := by
      show (leaveFlight _ _).out = _
      unfold leaveFlight
      split <;> exact begin_out clk s
    rw [bump_out, discard_out, hout]
  · rw [bump_discard_objs, ov_of hobjs, hobjs, hfree]

end Sys2Proof.Machine
end

section
/-! Proofs about the registers (22_register_map.md): reads that latch and clear, writes of ones, masks, and what views and gates keep
(R56, R76, R87, R101, R393, R446 to R454). -/

namespace Sys2Proof.Machine

/-! ### Accesses (R76, R393, R448) -/

theorem readReg_reached (s : State) (b : Server) (bar2 : Bool) (act : State → Nat × State) (hl : s.zewen.linkUp = true)
    (hd : serverDown s b = false) : readReg s b bar2 act = emit (act s).2 (.value (act s).1) := by
  simp [readReg, hl, hd]

theorem readReg_down (s : State) (b : Server) (bar2 : Bool) (act : State → Nat × State) (hl : s.zewen.linkUp = true)
    (hd : serverDown s b = true) :
    readReg s b bar2 act = if privView s bar2 then emit s .completerAbort else emit (countGated s) (.value 0) := by
  simp [readReg, hl, hd]

theorem writeReg_reached (s : State) (b : Server) (bar2 priv : Bool) (act : State → State) (hl : s.zewen.linkUp = true)
    (hp : priv = false ∨ privView s bar2 = true) (hd : serverDown s b = false) : writeReg s b bar2 priv act = act s := by
  rcases hp with h | h <;> simp [writeReg, hl, hd, h]

theorem writeReg_denied (s : State) (b : Server) (bar2 : Bool) (act : State → State) (hl : s.zewen.linkUp = true)
    (hp : privView s bar2 = false) : writeReg s b bar2 true act = countDenied s := by
  simp [writeReg, hl, hp]

theorem writeReg_down (s : State) (b : Server) (bar2 priv : Bool) (act : State → State) (hl : s.zewen.linkUp = true)
    (hp : priv = false ∨ privView s bar2 = true) (hd : serverDown s b = true) :
    writeReg s b bar2 priv act = if privView s bar2 then clkEvent s 7 else countGated s := by
  rcases hp with h | h <;> simp [writeReg, hl, hd, h]

theorem begin_serverDown (clk : Nat) (s : State) (b : Server) : serverDown (begin clk s) b = serverDown s b := by
  unfold serverDown blockDown isolated gated domainOn
  simp [begin_frame]

theorem emit_begin_out (clk : Nat) (s t : State) (o : Output) (h : t.out = (begin clk s).out) : (emit t o).out = [o] := by
  rw [emit_out, h, begin_out, List.nil_append]

/-! ### Reads that latch and reads that clear (R14, R87, R101, R393, R449, R452) -/

/-- The other BAR has the other place of a latch. -/
theorem barIndex_other (p : Bool) : barIndex (!p) ≠ barIndex p := by cases p <;> decide

theorem barIndex_lt (p : Bool) : barIndex p < 2 := by cases p <;> decide

/-- A latch written for one BAR. -/
theorem latch_pair (l : List Nat) (p : Bool) (v : Nat) (h : l.length = 2) :
    nth 0 (upd l (barIndex p) (fun _ => v)) (barIndex p) = v ∧ nth 0 (upd l (barIndex p) (fun _ => v)) (barIndex !p) = nth 0 l (barIndex !p) :=
  ⟨nth_upd_same _ _ _ _ (h ▸ barIndex_lt p), nth_upd_other _ _ _ _ _ (barIndex_other p)⟩

/-- The time latched for a BAR (R87). -/
def latchTime (p : Bool) (s : State) : State :=
  withReg s (fun r => { r with
    htHi := upd r.htHi (barIndex p) (fun _ => now s / 2 ^ 32 % 2 ^ 32)
    htFrac := upd r.htFrac (barIndex p) (fun _ => if s.herd.running then s.herd.frac else 0) })

/-- The trigger time latched for a BAR (R449). -/
def latchTrigger (p : Bool) (s : State) : State :=
  withReg s (fun r => { r with acqHi := upd r.acqHi (barIndex p) (fun _ => s.acq.capture.trigTime / 2 ^ 32 % 2 ^ 32) })

theorem exec_htNowLoRead_reached (clk : Nat) (p : Bool) (s : State) (h : Reached (begin clk s) 0x0800) :
    exec (.htNowLoRead clk p) s = .next (emit (latchTime p (begin clk s)) (.value (now (begin clk s) % 2 ^ 32))) :=
  congrArg Host.Outcome.next (readReg_reached _ _ p _ h.1 h.2)

theorem exec_acqTrigTimeLoRead_reached (clk : Nat) (p : Bool) (s : State) (h : Reached (begin clk s) 0x0908) :
    exec (.acqTrigTimeLoRead clk p) s =
      .next (emit (latchTrigger p (begin clk s)) (.value ((begin clk s).acq.capture.trigTime % 2 ^ 32))) :=
  congrArg Host.Outcome.next (readReg_reached _ _ p _ h.1 h.2)

/-- Settles O21: each read that reaches its register emits its value, and changes what R449, R452, R393 or R101 say. -/
theorem readsLatchAndClear : Obligations.ReadsLatchAndClear := by
  unfold Obligations.ReadsLatchAndClear
  refine ⟨fun clk p s hi fr aq => ⟨fun h => ?time, fun h => ?trigger⟩, fun clk p s => ⟨fun h => ?errCount, fun h => ?gated, fun h => ?overflow⟩⟩
  case time =>
    obtain ⟨hi1, hi2⟩ := latch_pair s.reg.htHi p (now (begin clk s) / 2 ^ 32 % 2 ^ 32) hi
    obtain ⟨fr1, fr2⟩ := latch_pair s.reg.htFrac p (if (begin clk s).herd.running then (begin clk s).herd.frac else 0) fr
    refine ⟨_, exec_htNowLoRead_reached clk p s h, emit_begin_out clk s _ _ rfl, rfl, ?_⟩
    dsimp only [emit, latchTime, withReg]
    rw [show (begin clk s).reg = s.reg by simp [begin_frame]]
    exact ⟨hi1, fr1, hi2, fr2, rfl⟩
  case trigger =>
    obtain ⟨aq1, aq2⟩ := latch_pair s.reg.acqHi p (s.acq.capture.trigTime / 2 ^ 32 % 2 ^ 32) aq
    have hacq : (begin clk s).acq = s.acq := by simp [begin_frame]
    refine ⟨_, exec_acqTrigTimeLoRead_reached clk p s h, by rw [emit_begin_out clk s (latchTrigger p _) _ rfl, hacq], hacq, ?_⟩
    dsimp only [emit, latchTrigger, withReg]
    rw [show (begin clk s).reg = s.reg by simp [begin_frame], hacq]
    exact ⟨aq1, aq2, rfl, rfl⟩
  case errCount =>
    refine congrArg Host.Outcome.next ((readReg_reached _ _ p _ h.1 h.2).trans ?_)
    simp [emit, withReg, begin_frame]
  case gated =>
    refine congrArg Host.Outcome.next ((readReg_reached _ _ p _ h.1 h.2).trans ?_)
    simp [emit, withReg, begin_frame]
  case overflow =>
    refine congrArg Host.Outcome.next ((readReg_reached _ _ p _ h.1 h.2).trans ?_)
    simp [emit]

/-! ### Writes of ones (R101, R450, R452 to R454) -/

theorem bit_zero (v : Nat) : bit v 0 = decide (v % 2 = 1) := by
  simp [bit, Bool.beq_eq_decide_eq]

/-- A register that is always powered is written through the privileged view. -/
theorem writeReg_powered (clk : Nat) (s : State) (off : Nat) (act : State → State) (hs : servedBy off = none) (hl : s.zewen.linkUp = true)
    (hp : privView s true = true) : writeReg (begin clk s) (servedBy off) true true act = act (begin clk s) :=
  writeReg_reached _ _ _ _ _ (by simpa using hl) (.inr (by simpa using hp)) (by rw [hs]; rfl)

theorem foldl_sendVector_reg (l : List Nat) (s : State) : (l.foldl (fun s n => sendVector s (8 + n)) s).reg = s.reg :=
  foldl_keeps _ State.reg (fun s n => by simp [sendVector_frame]) l s

theorem clearInt_reg (v : Nat) (s : State) :
    (clearInt v s).reg = { s.reg with intStatus := s.reg.intStatus &&& ~~~(BitVec.ofNat 10 v &&& ~~~s.fresh.ints) } := by
  unfold clearInt
  exact foldl_sendVector_reg _ _

/-- With no event of the same clock that found its bit set, a clear sends nothing. -/
theorem clearInt_quiet (v : Nat) (s : State) (h : s.fresh.intsAgain = 0) :
    clearInt v s = { s with reg := (clearInt v s).reg, fresh := (clearInt v s).fresh } := by
  unfold clearInt
  simp [h, withFresh, withReg]

/-- Settles O22: each write reaches its register, where bit 0 or each bit decides. -/
theorem onesClear : Obligations.OnesClear := by
  unfold Obligations.OnesClear
  intro clk v s hl hp s1 s2
  refine ⟨fun ⟨_, hd⟩ => ?stamps, ?first, ?denied, ?ints, ?done⟩
  case stamps =>
    have down : serverDown s2 (servedBy 0x0830) = false := by
      rw [← hd]
      simp [serverDown, blockDown, isolated, gated, domainOn, s2, takeStamps_frame]
    have run := writeReg_reached s2 (servedBy 0x0830) true true (popStamp v) (by simpa [s2, s1, takeStamps_box] using hl)
      (.inr (by simpa [s2, s1] using hp)) down
    refine congrArg Host.Outcome.next (run.trans ?_)
    unfold popStamp
    rw [bit_zero]
    by_cases h : v % 2 = 1 <;> simp [h]
  case first =>
    refine ⟨(clearFirst v s1).fresh, congrArg Host.Outcome.next ((writeReg_powered clk s 0x001C _ rfl hl hp).trans ?_)⟩
    unfold clearFirst
    rw [bit_zero]
    by_cases h : v % 2 = 1 <;> simp only [h, decide_true, decide_false, if_true, if_false, Bool.false_eq_true] <;> rfl
  case denied =>
    refine congrArg Host.Outcome.next ((writeReg_powered clk s 0x0044 _ rfl hl hp).trans ?_)
    unfold viewClear
    rw [bit_zero]
    by_cases h : v % 2 = 1 <;> simp only [h, decide_true, decide_false, if_true, if_false, Bool.false_eq_true] <;> rfl
  case ints =>
    refine ⟨_, congrArg Host.Outcome.next (writeReg_powered clk s 0x0020 _ rfl hl hp), ?_, fun hq => clearInt_quiet v s1 hq⟩
    rw [clearInt_reg]
    simp [begin_frame, s1]
  case done => exact congrArg Host.Outcome.next (writeReg_powered clk s 0x0028 _ rfl hl hp)

/-! ### INT_MASK (R454) -/

theorem sendVector_masked (s : State) (v w : Nat) : vectorMasked (sendVector s v) w = vectorMasked s w := by
  unfold sendVector vectorNow
  repeat' split
  all_goals rfl

/-- A message sent or held back on one vector leaves the spacing of another as it is. -/
theorem sendVector_spacing_other (s : State) (v w : Nat) (h : w ≠ v) : spacingRuns (sendVector s v) w = spacingRuns s w := by
  unfold sendVector
  split
  · rfl
  split
  · rfl
  unfold vectorNow
  split
  · rfl
  · show ((s.zewen.msix.spacing ||| 1#32 <<< v).getLsbD w && decide (s.clock < nth 0 (upd s.zewen.msix.sent v _) w + 250)) = _
    rw [getLsbD_set_other _ _ _ h, nth_upd_other _ _ _ _ _ h]
    rfl

theorem sendVector_sends (s : State) (v : Nat) (hl : s.zewen.linkUp = true) (hs : spacingRuns s v = false) (hm : vectorMasked s v = false) :
    .vector v ∈ (sendVector s v).out := by
  simp [sendVector, hl, hs, vectorNow, hm, emit]

theorem foldl_sendVector_out (l : List Nat) (s : State) : ∃ m, (l.foldl (fun s n => sendVector s (8 + n)) s).out = s.out ++ m :=
  foldl_out _ (fun s n => sendVector_out s (8 + n)) l s

/-- Of the vectors sent in turn each that is free goes out, since one vector's message leaves the others free. -/
theorem foldl_sendVector_sends (l : List Nat) (s : State) (n : Nat) (hn : n ∈ l) (hl : s.zewen.linkUp = true)
    (hs : spacingRuns s (8 + n) = false) (hm : vectorMasked s (8 + n) = false) :
    .vector (8 + n) ∈ (l.foldl (fun s n => sendVector s (8 + n)) s).out := by
  induction l generalizing s with
  | nil => cases hn
  | cons k l ih =>
    rw [List.foldl_cons]
    by_cases hk : n = k
    · subst hk
      obtain ⟨m, hout⟩ := foldl_sendVector_out l (sendVector s (8 + n))
      rw [hout]
      exact List.mem_append_left _ (sendVector_sends s _ hl hs hm)
    · refine ih _ ((List.mem_cons.1 hn).resolve_left hk) (by simpa using hl) ?_ ?_
      · rwa [sendVector_spacing_other _ _ _ (by omega)]
      · rwa [sendVector_masked]

/-- The bits that a mask frees while they are pending. -/
def freedBits (s : State) (m : BitVec 10) : List Nat :=
  (List.range 10).filter (fun n => s.reg.intMask.getLsbD n && !m.getLsbD n && s.reg.intStatus.getLsbD n)

theorem writeMask_eq (v : Nat) (s : State) : writeMask v s =
    (freedBits s (BitVec.ofNat 10 v &&& 0x3FE)).foldl (fun s n => sendVector s (8 + n))
      (withReg s (fun r => { r with intMask := BitVec.ofNat 10 v &&& 0x3FE })) := rfl

theorem exec_intMaskWrite_privileged (clk v : Nat) (s : State) (hl : s.zewen.linkUp = true) (hp : privView s true = true) :
    exec (.intMaskWrite clk true v) s = .next (writeMask v (begin clk s)) :=
  congrArg Host.Outcome.next (writeReg_powered clk s 0x0024 _ rfl hl hp)

/-- Settles O23: the vectors of the bits freed while pending are sent in turn, and with none of them nothing is sent. -/
theorem maskWrites : Obligations.MaskWrites := by
  unfold Obligations.MaskWrites
  intro clk v s hl hp
  have run := exec_intMaskWrite_privileged clk v s hl hp
  refine ⟨⟨_, run, ?mask⟩, fun n hn hold hnew hset hs hm => ⟨_, run, ?sent⟩, fun hnone => ⟨_, run, ?quiet⟩⟩
  case mask =>
    rw [writeMask_eq, foldl_sendVector_reg, withReg_reg]
    simp [begin_frame]
  case sent =>
    rw [writeMask_eq]
    refine foldl_sendVector_sends _ _ n ?_ ((congrArg _ (begin_zewen clk s)).trans hl) hs
      ((begin_masked clk s (8 + n)).trans hm)
    refine List.mem_filter.2 ⟨List.mem_range.2 hn, ?_⟩
    simp only [begin_frame, hold, hset, hnew, Bool.not_false, Bool.and_self]
  case quiet =>
    have none : freedBits (begin clk s) (BitVec.ofNat 10 v &&& 0x3FE) = [] := by
      refine List.filter_eq_nil_iff.2 fun n hn => ?_
      have := hnone n (List.mem_range.1 hn)
      cases h1 : s.reg.intMask.getLsbD n <;> cases h2 : (BitVec.ofNat 10 v &&& 0x3FE).getLsbD n <;> simp_all [begin_frame]
    rw [writeMask_eq, none]
    exact ⟨begin_out clk s, begin_zewen clk s⟩

/-! ### Whole and partial writes (R446, R450) -/

theorem exec_registerWrite_partial (clk off en v : Nat) (p : Bool) (s : State) (h : en % 16 ≠ 15) :
    exec (.registerWrite clk p off en v) s = .next (begin clk s) :=
  congrArg Host.Outcome.next (if_pos (by simp [h]))

/-- A whole doubleword goes to the register at its offset. -/
theorem exec_registerWrite_whole (clk off en v : Nat) (p priv : Bool) (act : State → State) (s : State) (h : en % 16 = 15) (ho : off % 4 = 0)
    (hv : v < 2 ^ 32) (he : regEffect off v = some (priv, act)) :
    exec (.registerWrite clk p off en v) s = .next (writeReg (begin clk s) (servedBy off) p priv act) := by
  refine congrArg Host.Outcome.next ((if_neg (by simp [h, ho])).trans ?_)
  rw [Nat.mod_eq_of_lt hv, he]

theorem clearClk_clocks (v : Nat) (s : State) :
    (clearClk v s).clocks = { s.clocks with event := s.clocks.event &&& ~~~(BitVec.ofNat 8 v &&& ~~~s.fresh.clkEvent) } := by
  unfold clearClk
  dsimp only
  split
  · rw [show ∀ (s : State) n, (setInt s n).clocks = s.clocks from fun s n => by simp [setInt_frame]]
    rfl
  · rfl

/-- The doorbells of mailbox m lie at 0x0100 + 16 m and 4 behind it (Table 22-4). -/
theorem regEffect_doorbells (m v : Nat) (h : m < 8) :
    regEffect (0x0100 + 16 * m) v = some (false, fun s => writeCmdTail s m v) ∧
      regEffect (0x0104 + 16 * m) v = some (false, fun s => writeCplHead s m v) := by
  interval_cases m <;> exact ⟨rfl, rfl⟩

theorem servedBy_mailbox (off : Nat) (h1 : 0x0100 ≤ off) (h2 : off < 0x0180) : servedBy off = some (3, 3, 12) := by
  simp [servedBy, h1, h2]

theorem bit_fifteen (v : Nat) (h : v / 2 ^ 15 % 2 = 1) : bit v 15 = true := by
  unfold bit
  rw [h]
  rfl

/-- Settles O24: a partial write ends at once, a whole one is the write of the register at its offset. -/
theorem registerWrites : Obligations.RegisterWrites := by
  unfold Obligations.RegisterWrites
  intro clk off en v p s s1
  refine ⟨exec_registerWrite_partial clk off en v p s, fun hen hv hl => ⟨fun hp hr => ?event, fun hp hr hb => ?stepped, fun m hm hr => ?doorbells⟩⟩
  case event =>
    have hp1 : privView s1 true = true := by simpa [s1] using hp
    refine ⟨_, exec_registerWrite_whole clk 0x0A04 en v true _ _ s hen rfl hv rfl, ?_⟩
    rw [writeReg_reached _ _ _ _ _ hr.1 (.inr hp1) hr.2, clearClk_clocks]
    simp [begin_frame, s1]
  case stepped =>
    have hp1 : privView s1 true = true := by simpa [s1] using hp
    rw [exec_registerWrite_whole clk 0x080C en v true _ _ s hen rfl hv rfl, writeReg_reached _ _ _ _ _ hr.1 (.inr hp1) hr.2,
      if_pos (bit_fifteen v hb)]
  case doorbells =>
    obtain ⟨tail, head⟩ := regEffect_doorbells m v hm
    have down : ∀ off, 0x0100 ≤ off → off < 0x0180 → serverDown s1 (servedBy off) = false := fun off h1 h2 => by
      have := hr.2
      rwa [servedBy_mailbox _ (by omega) (by omega)] at this ⊢
    rw [exec_registerWrite_whole clk _ en v p _ _ s hen (by omega) hv tail, exec_registerWrite_whole clk _ en v p _ _ s hen (by omega) hv head,
      writeReg_reached _ _ _ _ _ hr.1 (.inl rfl) (down _ (by omega) (by omega)),
      writeReg_reached _ _ _ _ _ hr.1 (.inl rfl) (down _ (by omega) (by omega)), exec_cmdTailWrite_linkUp _ _ _ _ hl,
      exec_cplHeadWrite_linkUp _ _ _ _ hl]
    exact ⟨rfl, rfl⟩

/-! ### Views and gates (R56, R76, R393) -/

theorem clkEvent_sets (s : State) (n : Nat) (h : n < 8) : (clkEvent s n).clocks.event.getLsbD n = true := by
  have set : (s.clocks.event ||| 1#8 <<< n).getLsbD n = true := getLsbD_set _ _ h
  unfold clkEvent
  dsimp only
  split
  · exact set
  · rw [show ∀ (s : State) n, (setInt s n).clocks = s.clocks from fun s n => by simp [setInt_frame]]
    exact set

/-- An unprivileged access to a block that is down is counted. -/
theorem countGated_reg (s : State) : (countGated s).reg = { s.reg with gatedAccess := satNat 32 (s.reg.gatedAccess + 1) } := rfl

theorem exec_htNowLoRead_down (clk : Nat) (p : Bool) (s : State) (hl : s.zewen.linkUp = true) (hd : serverDown s (some (3, 5, 9)) = true) :
    exec (.htNowLoRead clk p) s =
      .next (if privView s p then emit (begin clk s) .completerAbort else emit (countGated (begin clk s)) (.value 0)) := by
  refine congrArg Host.Outcome.next ((readReg_down _ _ p _ (by simpa using hl) ((begin_serverDown ..).trans hd)).trans ?_)
  rw [begin_privView]

/-- A write through the unprivileged view to a register that is privileged only. -/
theorem writeReg_begin_denied (clk : Nat) (bar2 : Bool) (s : State) (b : Server) (act : State → State) (hl : s.zewen.linkUp = true)
    (hp : privView s bar2 = false) : writeReg (begin clk s) b bar2 true act = countDenied (begin clk s) :=
  writeReg_denied _ _ _ _ (by simpa using hl) (by simpa using hp)

/-- Settles O25: the view is judged before the block, and each access that does not get through is counted in its own register. -/
theorem viewsAndGatesProtect : Obligations.ViewsAndGatesProtect := by
  unfold Obligations.ViewsAndGatesProtect
  refine ⟨fun clk v bar2 s hl hp => ⟨?denied, ?stamps⟩, fun clk v m bar2 s hl hp => ⟨fun hd => ?read, fun hm hd => ?write⟩,
    fun clk v s hl hp hd => ⟨?abort, ?dropped⟩⟩
  case denied =>
    have denied := fun b act => congrArg (Host.Outcome.next (φ := Fault) (ρ := Refusal)) (writeReg_begin_denied clk bar2 s b act hl hp)
    simp only [List.forall_mem_cons, List.not_mem_nil, false_implies, implies_true, and_true]
    exact ⟨denied _ _, denied _ _, denied _ _, denied _ _, denied _ _⟩
  case stamps =>
    exact congrArg Host.Outcome.next (writeReg_denied _ _ _ _ (by simpa [takeStamps_box] using hl) (by simpa using hp))
  case read =>
    refine ⟨_, exec_htNowLoRead_down clk bar2 s hl hd, ?_⟩
    rw [hp, if_neg (by simp)]
    refine ⟨emit_begin_out clk s (countGated _) _ rfl, ?_⟩
    simp [emit, countGated_reg, begin_frame]
  case write =>
    have served : servedBy (0x0100 + 16 * m) = some (3, 3, 12) := servedBy_mailbox _ (by omega) (by omega)
    have down : serverDown (begin clk s) (servedBy (0x0100 + 16 * m)) = true := by rw [served, begin_serverDown]; exact hd
    have whole : ∀ x, regEffect (0x0100 + 16 * m) x = some (false, fun s => writeCmdTail s m x) := fun x => (regEffect_doorbells m x hm).1
    have run : exec (.registerWrite clk bar2 (0x0100 + 16 * m) 15 v) s = .next (countGated (begin clk s)) := by
      refine congrArg Host.Outcome.next ((if_neg (by simp; omega)).trans ?_)
      rw [whole]
      dsimp only
      rw [writeReg_down _ _ _ _ _ (by simpa using hl) (.inl rfl) down, begin_privView, hp, if_neg (by simp)]
    refine ⟨_, run, begin_zewen clk s, begin_out clk s, ?_⟩
    simp [countGated_reg, begin_frame]
  case abort =>
    refine ⟨_, exec_htNowLoRead_down clk true s hl hd, ?_⟩
    rw [hp, if_pos rfl]
    exact ⟨emit_begin_out clk s _ _ rfl, by simp [emit, begin_frame]⟩
  case dropped =>
    have run : exec (.registerWrite clk true 0x080C 15 v) s = .next (clkEvent (begin clk s) 7) := by
      refine congrArg Host.Outcome.next ((if_neg (by decide)).trans ?_)
      exact (writeReg_down _ (servedBy 0x080C) _ _ _ (by simpa using hl) (.inr (by simpa using hp)) ((begin_serverDown ..).trans hd)).trans
        (if_pos (by simpa using hp))
    obtain ⟨_, _, _, _, _, _, _, herd⟩ := begin_herd clk s
    exact ⟨_, run, by simp [clkEvent_frame, herd], clkEvent_sets _ 7 (by decide)⟩

end Sys2Proof.Machine
end

section
/-! Proofs about the object commands (03_zewen_interface.md R76 to R82): reading, judging and applying records. -/

namespace Sys2Proof.Machine

/-! ### OBJ_READ (R80) -/

/-- Bytes of the result of an OBJ_READ of these keys. -/
def readBytes (s : State) (priv : Bool) (ks : List Nat) : Nat :=
  sumNat (ks.map (fun k => match objRow k with | some row => readSize s priv row k | none => 0))

theorem keys_counted (ks : List Nat) (h0 : ks ≠ []) (hn : ks.length ≤ 54) : ¬(ks.isEmpty || decide (54 < ks.length)) = true := by
  simp [h0, hn]

theorem keys_uncounted (ks : List Nat) (h : ks = [] ∨ 54 < ks.length) : (ks.isEmpty || decide (54 < ks.length)) = true := by
  simpa using h

theorem keys_defined (ks : List Nat) (h : ∀ k ∈ ks, (objRow k).isSome = true) :
    (indexed ks).find? (fun k => (objRow k.2).isNone) = none := by
  rw [List.find?_eq_none]
  intro p hp
  have hmem : p.2 ∈ ks := (List.of_mem_zip hp).2
  simpa [← Option.isSome_iff_ne_none] using h p.2 hmem

theorem objRead_reads (e : Entry) (via : Transport) (u : State) (ks : List Nat) (hks : readKeys (entryArgs e) = ks) (h0 : ks ≠ [])
    (hn : ks.length ≤ 54) (hd : ∀ k ∈ ks, (objRow k).isSome = true) (hf : resultFits e (readBytes u (sessionPriv u e.mbx) ks) = true)
    (hu : sessionPriv u e.mbx = true → ∀ k ∈ ks, objectDown u k = false) :
    let r := ks.foldl (readOne (sessionPriv u e.mbx)) (u, [], false)
    objRead e via u = complete r.1 (originOf e) (if r.2.2 then stViewLimited else stOk) r.2.1 := by
  subst hks
  have up : (readKeys (entryArgs e)).find? (fun k => sessionPriv u e.mbx && objectDown u k) = none := by
    rw [List.find?_eq_none]
    intro k hk
    cases hp : sessionPriv u e.mbx <;> simp_all
  unfold objRead
  dsimp only
  rw [if_neg (keys_counted _ h0 hn), keys_defined _ hd]
  refine (if_neg (show ¬(!resultFits e (readBytes u _ _)) = true by simp [hf])).trans ?_
  rw [up]

theorem objRead_uncounted (e : Entry) (via : Transport) (u : State) (h : readKeys (entryArgs e) = [] ∨ 54 < (readKeys (entryArgs e)).length) :
    objRead e via u = complete u (originOf e) stBadArgument := by
  unfold objRead
  exact if_pos (keys_uncounted _ h)

theorem objRead_undefined (e : Entry) (via : Transport) (u : State) (k : Nat × Nat) (h0 : readKeys (entryArgs e) ≠ [])
    (hn : (readKeys (entryArgs e)).length ≤ 54) (hk : (indexed (readKeys (entryArgs e))).find? (fun k => (objRow k.2).isNone) = some k) :
    objRead e via u = complete u (originOf e) stNoObject (leBytes 4 k.1) := by
  unfold objRead
  dsimp only
  rw [if_neg (keys_counted _ h0 hn), hk]

theorem objRead_long (e : Entry) (via : Transport) (u : State) (h0 : readKeys (entryArgs e) ≠ [])
    (hn : (readKeys (entryArgs e)).length ≤ 54) (hd : ∀ k ∈ readKeys (entryArgs e), (objRow k).isSome = true)
    (hf : resultFits e (readBytes u (sessionPriv u e.mbx) (readKeys (entryArgs e))) = false) :
    objRead e via u = complete u (originOf e) stBadLength := by
  unfold objRead
  dsimp only
  rw [if_neg (keys_counted _ h0 hn), keys_defined _ hd]
  exact if_pos (show (!resultFits e (readBytes u _ _)) = true by rw [hf]; rfl)

theorem objRead_down (e : Entry) (via : Transport) (u : State) (k : Nat) (h0 : readKeys (entryArgs e) ≠ [])
    (hn : (readKeys (entryArgs e)).length ≤ 54) (hd : ∀ k ∈ readKeys (entryArgs e), (objRow k).isSome = true)
    (hf : resultFits e (readBytes u (sessionPriv u e.mbx) (readKeys (entryArgs e))) = true) (hp : sessionPriv u e.mbx = true)
    (hk : (readKeys (entryArgs e)).find? (fun k => objectDown u k) = some k) :
    objRead e via u = complete u (originOf e) stPrecondition (leBytes 4 k) := by
  unfold objRead
  dsimp only
  rw [if_neg (keys_counted _ h0 hn), keys_defined _ hd]
  refine (if_neg (show ¬(!resultFits e (readBytes u _ _)) = true by simp [hf])).trans ?_
  simp only [hp, Bool.true_and, hk]

/-- A key that is read in full (R80). -/
theorem readOne_full (priv : Bool) (u : State) (k : Nat) (row : ObjRow) (hr : objRow k = some row) (hc : readCase u priv row k = .full) :
    readOne priv (u, [], false) k = (readEffect u row k, recordForm k row.ty (readValue u row k), false) := by
  unfold readOne
  simp [hr, hc]

theorem readCase_full_up {u : State} {priv : Bool} {row : ObjRow} {k : Nat} (h : readCase u priv row k = .full) : objectDown u k = false := by
  unfold readCase at h
  split at h
  · nomatch h
  · split at h
    · nomatch h
    · next hd => simpa using hd

/-- A counter of the object memory keeps what was counted in the same clock (R14). -/
theorem readEffect_counter (u : State) (row : ObjRow) (k : Nat) (ha : row.acc = .rc) (h1 : k ≠ 0x70000C) (h2 : k ≠ 0x100106)
    (h3 : k / 65536 ≠ 0x10 ∨ k / 256 < 0x1010 ∨ k % 256 ≠ 1) :
    readEffect u row k = { u with objs := oput u.objs k (min (freshCount u k) (oval u.objs k)) } := by
  unfold readEffect
  rw [if_neg (by simp [ha]), if_neg h1, if_neg h2, if_neg]
  simp only [Bool.and_eq_true, decide_eq_true_eq]
  omega

/-- One key alone is read in full and completes with its record. -/
theorem objRead_one (e : Entry) (via : Transport) (u : State) (k : Nat) (row : ObjRow) (hks : readKeys (entryArgs e) = [k])
    (hr : objRow k = some row) (hc : readCase u (sessionPriv u e.mbx) row k = .full)
    (hf : resultFits e (readBytes u (sessionPriv u e.mbx) [k]) = true) :
    objRead e via u = complete (readEffect u row k) (originOf e) stOk (recordForm k row.ty (readValue u row k)) := by
  rw [objRead_reads e via u [k] hks (by simp) (by simp) (by simp [hr]) hf (by simpa using fun _ => readCase_full_up hc)]
  simp [readOne_full _ _ _ _ hr hc]

theorem exec_objRead_admitted (clk : Nat) (e0 e : Entry) (via : Transport) (s : State) (h : Admitted (begin clk s) 0x0020 e0 via e)
    (ho : Open (begin clk s) e) (hl : objReadLen e = true) : exec (.objRead clk e0) s = .next (objRead e via (entered clk s via e)) :=
  congrArg Host.Outcome.next (command_runs _ _ _ _ clk e0 e via s h (openJudge _ clk s via e ho rfl rfl (.inl rfl) (.inl rfl)) hl)

/-- What a completion at once leaves of the parts a read may change. -/
theorem complete_entered_unread (clk : Nat) (s : State) (via : Transport) (e : Entry) (status : Nat) (result : Bytes)
    (hf : (entered clk s via e).mode.resetFinal = false) :
    let t := complete (entered clk s via e) (originOf e) status result
    t.net = s.net ∧ t.sched = s.sched ∧ (bit (ov s 0xA0 1 2) 0 = false → t.objs = s.objs) ∧ Posts t e status result := by
  refine ⟨by simp [complete_frame], by simp [complete_frame], fun hq => ?_, posts_complete _ e _ _ hf⟩
  rw [complete_objs_quiet _ _ _ _ (by simpa using hq), entered_objs]

/-- Settles O26: each way an OBJ_READ ends, by the branch of `objRead` it takes. -/
theorem objectsRead : Obligations.ObjectsRead := by
  unfold Obligations.ObjectsRead
  intro clk e0 e via s h ho hl u ks priv r size
  have run := exec_objRead_admitted clk e0 e via s h ho hl
  have unsealed : u.mode.resetFinal = false := h.unsealed
  refine ⟨fun h0 hn hd hu hf => ?reads, fun k row hk hr hc hf => ?one, fun k row hk hr ha hv hc h1 h2 h3 hf hq => ?counter,
    fun hk => ?uncounted, fun k h0 hn hk => ?undefined, fun h0 hn hd hf => ?long, fun k h0 hn hd hf hp hk => ?down⟩
  case reads =>
    rw [objRead_reads e via u ks rfl h0 hn hd hf hu] at run
    have mode : r.1.mode = u.mode := (readOne_folds priv ks (u, [], false)).1
    exact ⟨_, run, posts_complete _ e _ _ (mode ▸ unsealed)⟩
  case one =>
    rw [objRead_one e via u k row hk hr hc (by rw [← hk]; exact hf)] at run
    exact ⟨_, run, posts_complete _ e _ _ (by rw [(readEffect_frame u row k).1]; exact unsealed)⟩
  case counter =>
    rw [objRead_one e via u k row hk hr hc (by rw [← hk]; exact hf), readEffect_counter u row k ha h1 h2 h3] at run
    have objsOf : u.objs = s.objs := entered_objs ..
    have value : readValue u row k = leBytes row.len0 (oval s.objs k - freshCount u k) := by
      simp [readValue, ha, hv, objsOf]
    refine ⟨_, run, ?_, posts_as (posts_complete _ e _ _ unsealed) rfl (by rw [value])⟩
    rw [complete_objs_quiet _ _ _ _ (by simpa only [ov, ob, objsOf] using hq)]
    rw [objsOf]
  case uncounted =>
    rw [objRead_uncounted e via _ hk] at run
    exact ⟨_, run, complete_entered_unread clk s via e _ _ unsealed⟩
  case undefined =>
    rw [objRead_undefined e via _ k h0 hn hk] at run
    exact ⟨_, run, complete_entered_unread clk s via e _ _ unsealed⟩
  case long =>
    rw [objRead_long e via _ h0 hn hd hf] at run
    exact ⟨_, run, complete_entered_unread clk s via e _ _ unsealed⟩
  case down =>
    rw [objRead_down e via _ k h0 hn hd hf hp hk] at run
    exact ⟨_, run, complete_entered_unread clk s via e _ _ unsealed⟩

end Sys2Proof.Machine
end

section
/-! Proofs about OBJ_WRITE (03_zewen_interface.md R76 to R79; 18_clocks_and_power.md R392). -/

namespace Sys2Proof.Machine

/-! ### Judging (R78) -/

/-- Counting the records that the view hides. -/
theorem countDenied_fold (l : List Nat) (s : State) :
    let t := l.foldl (fun s _ => countDenied s) s
    t.objs = s.objs ∧ t.out = s.out ∧ t.writes = s.writes :=
  ⟨foldl_keeps (fun s _ => countDenied s) (·.objs) (fun _ _ => rfl) l s, foldl_keeps (fun s _ => countDenied s) (·.out) (fun _ _ => rfl) l s,
    foldl_keeps (fun s _ => countDenied s) (·.writes) (fun _ _ => rfl) l s⟩

/-- Records of an OBJ_WRITE that the view does not hide. -/
def seenRecords (s : State) (priv : Bool) (rs : List WriteRecord) : List WriteRecord :=
  rs.filter (fun r => judgeForm s priv true r != some stViewLimited)

/-- What the objects hold once these records and those that wait ahead of them have taken effect. -/
def stagedObjs (s : State) (rs : List WriteRecord) : List (Nat × Nat) :=
  stageObjs (s.writes.foldl (fun f q => stageObjs f q.records) s.objs) rs

theorem objWrite_queues (e : Entry) (via : Transport) (u : State) (p : Nat × WriteRecord) (ps : List (Nat × WriteRecord))
    (hr : parseRecords (entryArgs e) = some (p :: ps))
    (hf : let rs := (p :: ps).map (·.2)
      firstFailing u (sessionPriv u e.mbx) (stagedObjs u (seenRecords u (sessionPriv u e.mbx) rs)) 0 [] rs = none) :
    let rs := (p :: ps).map (·.2)
    let applied := seenRecords u (sessionPriv u e.mbx) rs
    let t := objWrite e via u
    t.objs = u.objs ∧ t.out = u.out ∧
      t.writes = u.writes ++ [{ origin := originOf e, records := applied, limited := decide (applied.length < rs.length), due := false }] := by
  intro rs applied
  have skips : decide (0 < rs.length - applied.length) = decide (applied.length < rs.length) := decide_eq_decide.2 (by omega)
  have run : objWrite e via u =
      (let s1 := (List.range (rs.length - applied.length)).foldl (fun s _ => countDenied s) u
       { s1 with writes := s1.writes ++ [{ origin := originOf e, records := applied, limited := decide (0 < rs.length - applied.length) }] }) := by
    unfold stagedObjs seenRecords at hf
    unfold objWrite
    rw [hr]
    dsimp only at hf ⊢
    rw [hf]
    rfl
  obtain ⟨hobjs, hout, hwrites⟩ := countDenied_fold (List.range (rs.length - applied.length)) u
  rw [run, skips]
  refine ⟨hobjs, hout, ?_⟩
  dsimp only
  rw [hwrites]

/-- A refused request to close a gate is counted, and nothing else changes before the completion (R391). -/
theorem objWrite_refused (e : Entry) (via : Transport) (u : State) (p : Nat × WriteRecord) (ps : List (Nat × WriteRecord))
    (i : Nat) (r : WriteRecord) (st : Nat) (key : Bool) (hr : parseRecords (entryArgs e) = some (p :: ps))
    (hf : let rs := (p :: ps).map (·.2)
      firstFailing u (sessionPriv u e.mbx) (stagedObjs u (seenRecords u (sessionPriv u e.mbx) rs)) 0 [] rs = some (i, r, st, key)) :
    ∃ u1, u1.writes = u.writes ∧ u1.mode = u.mode ∧
      objWrite e via u = complete u1 (originOf e) st (if key then leBytes 4 r.key else leBytes 4 i ++ leBytes 4 (keyType r)) := by
  refine ⟨if closesGate r && st = stPrecondition && !key then bump u 0xB0 0 9 else u, ?writes, ?mode, ?run⟩
  case writes => split <;> simp [bump_frame]
  case mode => split <;> simp [bump_frame]
  case run =>
    unfold stagedObjs seenRecords at hf
    unfold objWrite
    rw [hr]
    dsimp only at hf ⊢
    rw [hf]

theorem objWrite_formless (e : Entry) (via : Transport) (u : State) (h : (parseRecords (entryArgs e)).getD [] = []) :
    objWrite e via u = complete u (originOf e) stBadLength := by
  unfold objWrite
  cases hp : parseRecords (entryArgs e) with
  | none => rfl
  | some l =>
    have hnil : l = [] := by simpa [hp] using h
    subst hnil
    rfl

theorem exec_objWrite_admitted (clk : Nat) (e0 e : Entry) (via : Transport) (s : State) (h : Admitted (begin clk s) 0x0021 e0 via e)
    (ho : Open (begin clk s) e) : exec (.objWrite clk e0) s = .next (objWrite e via (entered clk s via e)) :=
  congrArg Host.Outcome.next (command_runs _ _ _ _ clk e0 e via s h (openJudge _ clk s via e ho rfl rfl (.inl rfl) (.inl rfl)) rfl)

/-- Settles O27: the records wait together, or the first that fails names the completion. -/
theorem objectWritesWait : Obligations.ObjectWritesWait := by
  unfold Obligations.ObjectWritesWait
  refine ⟨fun clk e0 e via s p ps h ho hr => ⟨fun hf => ?queues, fun i r st key hf => ?refused⟩, fun clk e0 e via s h ho hr => ?formless⟩
  case queues =>
    obtain ⟨hobjs, hout, hwrites⟩ := objWrite_queues e via _ p ps hr hf
    exact ⟨_, exec_objWrite_admitted clk e0 e via s h ho, hobjs.trans (entered_objs ..), hout.trans (entered_out ..),
      hwrites.trans (by rw [entered_writes]; rfl)⟩
  case refused =>
    obtain ⟨u1, hwrites, hmode, run⟩ := objWrite_refused e via _ p ps i r st key hr hf
    refine ⟨_, exec_objWrite_admitted clk e0 e via s h ho, ?_⟩
    rw [run]
    exact ⟨by simp [complete_frame, hwrites], posts_complete _ e _ _ (hmode ▸ h.unsealed)⟩
  case formless =>
    refine ⟨_, exec_objWrite_admitted clk e0 e via s h ho, ?_⟩
    rw [objWrite_formless e via _ hr]
    exact ⟨by simp [complete_frame], posts_complete _ e _ _ h.unsealed⟩

/-! ### Taking effect (R79, R392) -/

/-- What follows a record's value touches no object, no queued write and no mode. -/
theorem applyRecords_plain (s : State) (r : WriteRecord) (ha : actionOf s r = none) (hs : startsRun r = false)
    (hk : r.key / 65536 ∉ [0x80, 0x90]) :
    let t := applyRecords s [r]
    t.objs = oput s.objs r.key (leNat r.value) ∧ t.mode = s.mode ∧ t.solver = s.solver ∧ t.prof = s.prof ∧ t.writes = s.writes := by
  have applied : applyRecords s [r] = clkoutFollow s (retick s { s with objs := oput s.objs r.key (leNat r.value) }) := by
    simp only [List.mem_cons, List.not_mem_nil, or_false, not_or] at hk
    simp [applyRecords, applyRecord, hs, ha, hk.1, hk.2]
  have kept : ∀ x : State, (clkoutFollow s x).objs = x.objs ∧ (clkoutFollow s x).mode = x.mode ∧ (clkoutFollow s x).solver = x.solver ∧
      (clkoutFollow s x).prof = x.prof ∧ (clkoutFollow s x).writes = x.writes := by
    intro x
    unfold clkoutFollow
    split <;> exact ⟨rfl, rfl, rfl, rfl, rfl⟩
  obtain ⟨hobjs, hmode, hsolver, hprof, hwrites⟩ := kept (retick s { s with objs := oput s.objs r.key (leNat r.value) })
  rw [applied]
  dsimp only
  rw [hobjs, hmode, hsolver, hprof, hwrites]
  unfold retick setCycle
  (repeat' split) <;> exact ⟨rfl, rfl, rfl, rfl, rfl⟩

/-- No OBJ_WRITE waits for a run of its own. -/
def emptied (s : State) : State := { s with solver := { s.solver with waits := [] } }

/-- A write that starts no run, with none waiting, completes at once (R179). -/
theorem settleRuns_single (s : State) (o : Origin) (st : Nat) (h : s.solver.waits = []) :
    settleRuns (withSolver s (fun v => { v with waits := v.waits ++ [(o, st, [])] })) = complete (emptied s) o st := by
  simp [settleRuns, withSolver, emptied, h]

theorem runSlots_none (r : WriteRecord) (h : startsRun r = false) : runSlots [r] = [] := by simp [runSlots, h]

/-- The OBJ_WRITE at the front takes effect with its one record. -/
theorem objWriteEffect_due (s : State) (q : QueuedWrite) (rest : List QueuedWrite) (r : WriteRecord) (hw : s.writes = q :: rest)
    (hr : q.records = [r]) (hrun : s.herd.running = true) (hq : q.due = true) (hs : startsRun r = false)
    (hwaits : (applyRecords { s with writes := rest } [r]).solver.waits = []) :
    let a := applyRecords { s with writes := rest } [r]
    objWriteEffect s = complete (emptied a) q.origin (if q.limited then stViewLimited else stOk) := by
  have effect : objWriteEffect s = settleRuns (withSolver (applyRecords { s with writes := rest } q.records) (fun v =>
      { v with waits := v.waits ++ [(q.origin, if q.limited then stViewLimited else stOk, runSlots q.records)] })) := by
    unfold objWriteEffect
    rw [hw]
    exact if_neg (by simp [hrun, hq])
  rw [effect, hr, runSlots_none r hs]
  exact settleRuns_single _ _ _ hwaits

theorem complete_answers (s : State) (o : Origin) (st : Nat) (r : Bytes) (hf : s.mode.resetFinal = false) :
    ∃ c, Output.completion c ∈ (complete s o st r).out ∧ c.mailbox = o.mbx ∧ c.txid = o.txid ∧ c.status = st := by
  obtain ⟨l, h⟩ := complete_out s o st r hf
  exact ⟨completionOf s o st r, by rw [h]; simp, rfl, rfl, rfl⟩

theorem gateTimeout_refuses (s : State) (q : QueuedWrite) (rest : List QueuedWrite) (hw : s.writes = q :: rest)
    (hc : q.records.any closesGate = true) :
    gateTimeout s = complete (clkEvent (bump { s with writes := rest } 0xB0 0 9) 6) q.origin stBusy := by
  unfold gateTimeout
  rw [hw]
  exact if_pos hc

/-- GATE_BUSY is a bit that raises no interrupt of its own. -/
theorem clkEvent_six (s : State) : (clkEvent s 6).clocks = { s.clocks with event := s.clocks.event ||| 0x40 } := by
  unfold clkEvent
  exact congrArg State.clocks (if_pos (by simp))

/-- Settles O28: the record takes effect once its tick has started; a gate request that waited is refused. -/
theorem objectWritesApplied : Obligations.ObjectWritesApplied := by
  unfold Obligations.ObjectWritesApplied
  refine ⟨fun clk s q rest r hw hr hrun hwaits ha hs hk hf => ⟨fun hq hquiet => ?due, fun hq => ?early⟩,
    fun clk s q rest hw hc hf => ?gate⟩
  case due =>
    have hw' : (begin clk s).writes = q :: rest := by simpa [begin_frame] using hw
    obtain ⟨hobjs, hmode, hsolver, hprof, hwrites⟩ := applyRecords_plain { begin clk s with writes := rest } r ha hs hk
    have run := objWriteEffect_due (begin clk s) q rest r hw' hr (by simpa using hrun) hq hs
      (by rw [hsolver]; simpa [begin_frame] using hwaits)
    generalize applyRecords { begin clk s with writes := rest } [r] = a at hobjs hmode hprof hwrites run
    have objsOf : (emptied a).objs = oput s.objs r.key (leNat r.value) := hobjs.trans (by simp [begin_frame])
    obtain ⟨c, hout, hmbx, htxid, hst⟩ := complete_answers (emptied a) q.origin (if q.limited then stViewLimited else stOk) []
      (show a.mode.resetFinal = false by rw [hmode]; simpa [begin_frame] using hf)
    refine ⟨_, c, congrArg Host.Outcome.next run, ?_, ?_, hout, hmbx, htxid, by rw [hst]; rfl, ?_⟩
    · simpa [complete_frame, emptied] using hwrites
    · rw [complete_objs_quiet _ _ _ _ (by rw [ov, ob, objsOf]; exact hquiet), objsOf]
    · simpa [complete_frame, emptied, begin_frame] using hprof
  case early =>
    have hw' : (begin clk s).writes = q :: rest := by simpa [begin_frame] using hw
    show Host.Outcome.next (objWriteEffect (begin clk s)) = _
    unfold objWriteEffect
    rw [hw']
    simp [hq]
  case gate =>
    have hw' : (begin clk s).writes = q :: rest := by simpa [begin_frame] using hw
    obtain ⟨c, hout, hmbx, htxid, hst⟩ := complete_answers (clkEvent (bump { begin clk s with writes := rest } 0xB0 0 9) 6) q.origin stBusy []
      (by simpa [clkEvent_frame, bump_frame, begin_frame] using hf)
    refine ⟨_, c, congrArg Host.Outcome.next (gateTimeout_refuses _ q rest hw' hc), ?_, ?_, ?_, hout, hmbx, htxid, hst⟩
    · simp [complete_frame, clkEvent_frame, bump_frame]
    · simp [complete_frame, clkEvent_six, bump_frame, begin_frame]
    · simp [complete_frame, clkEvent_six, bump_frame, begin_frame]

end Sys2Proof.Machine
end

section
/-! Proofs about loading and checking a cell image (03_zewen_interface.md R86; 02_modes_and_start.md R47, R52). -/

namespace Sys2Proof.Machine

/-! ### Loading (R86) -/

theorem ownStaging_own (s : State) (m : Nat) (g : Staging) (hg : s.image.staging = some g) (hm : g.mbx = m) : ownStaging s m = some g := by
  simp [ownStaging, hg, hm]

/-- The staging area that an IMAGE_BEGIN opens. -/
def openedStaging (e : Entry) (u : State) : Staging :=
  { mbx := e.mbx, total := le (entryArgs e) 0 4, imageId := le (entryArgs e) 8 8, base := u.objs }

theorem imageBegin_opens (e : Entry) (via : Transport) (u : State) (h96 : 96 ≤ le (entryArgs e) 0 4) (hmax : le (entryArgs e) 0 4 ≤ 33554432)
    (hc : u.start.storedCheck = false) (hg : ∀ g, u.image.staging = some g → g.mbx = e.mbx)
    (hk : ∀ c o, u.image.commit = some c → c.origin = some o → o.mbx ≠ e.mbx) :
    imageBegin e via u = complete (withImage u (fun i => { i with staging := some (openedStaging e u) })) (originOf e) stOk := by
  have own : u.image.staging.any (fun g => g.mbx != e.mbx) = false := by
    cases hs : u.image.staging with
    | none => rfl
    | some g => simp [hg g hs]
  have free : u.image.commit.any (fun c => c.origin.any (fun x => x.mbx = e.mbx)) = false := by
    cases hi : u.image.commit with
    | none => rfl
    | some c => cases ho : c.origin with
      | none => simp [ho]
      | some o => simp [ho, hk c o hi ho]
  unfold imageBegin
  dsimp only
  rw [if_neg (by simp; omega), if_neg (by simp [hc, own, free])]
  rfl

theorem imageData_adds (e : Entry) (via : Transport) (u : State) (g : Staging) (hg : u.image.staging = some g) (hm : g.mbx = e.mbx)
    (hfit : (imageChunk e).1 + (imageChunk e).2.length ≤ g.total) :
    imageData e via u = complete (withImage u (fun i => { i with staging := some { g with chunks := imageChunk e :: g.chunks } }))
      (originOf e) stOk := by
  unfold imageData
  dsimp only
  rw [ownStaging_own u e.mbx g hg hm]
  exact if_neg (by omega)

/-- The image that an IMAGE_COMMIT hands to the check. -/
def stagedCommit (e : Entry) (g : Staging) : Commit :=
  { origin := some (originOf e), checkOnly := bit (le (entryArgs e) 0 1) 0, store := !bit (le (entryArgs e) 0 1) 0
    image := (overlay g.total g.chunks).take (deliveredLength g), base := g.base }

theorem imageCommit_hands (e : Entry) (via : Transport) (u : State) (g : Staging) (hc : u.start.storedCheck = false)
    (hg : u.image.staging = some g) (hm : g.mbx = e.mbx) (hk : u.image.commit = none) :
    (imageCommit e via u).image = { u.image with commit := some (stagedCommit e g) } ∧ (imageCommit e via u).objs = u.objs := by
  have run : imageCommit e via u =
      (let s1 := withImage u (fun i => { i with commit := some (stagedCommit e g) })
       if bit (le (entryArgs e) 0 1) 0 then s1 else mirrorImage s1 (some (stagedCommit e g).image) none) := by
    unfold imageCommit
    dsimp only
    rw [if_neg (by simp [hc]), ownStaging_own u e.mbx g hg hm]
    exact if_neg (by simp [hk])
  rw [run]
  dsimp only
  split
  · exact ⟨rfl, rfl⟩
  · exact ⟨by simp [mirrorImage_frame], by simp [mirrorImage_frame, withImage_frame]⟩

/-- The session's staging area is discarded. -/
def unstaged (s : State) (m : Nat) : State := withImage s (fun i => { i with staging := i.staging.filter (fun g => g.mbx != m) })

theorem imageAbort_withdraws (e : Entry) (via : Transport) (u : State) (c : Commit) (o : Origin) (hc : u.image.commit = some c)
    (ho : c.origin = some o) (hm : o.mbx = e.mbx) :
    imageAbort e via u = complete (complete (withImage (unstaged u e.mbx) (fun i => { i with commit := none })) o stCancelled)
      (originOf e) stOk := by
  have mine : (u.image.commit.bind (·.origin)).filter (fun x => x.mbx = e.mbx) = some o := by simp [hc, ho, Option.filter, hm]
  unfold imageAbort unstaged
  simp [mine]

theorem imageAbort_alone (e : Entry) (via : Transport) (u : State)
    (h : ∀ c o, u.image.commit = some c → c.origin = some o → o.mbx ≠ e.mbx) :
    imageAbort e via u = complete (unstaged u e.mbx) (originOf e) stOk := by
  have none : (u.image.commit.bind (·.origin)).filter (fun x => x.mbx = e.mbx) = none := by
    cases hc : u.image.commit with
    | none => rfl
    | some c => cases ho : c.origin with
      | none => simp [ho]
      | some o => simp [ho, Option.filter, h c o hc ho]
  unfold imageAbort unstaged
  simp [none]

/-- Settles O29: each of the four commands changes the staging area and the commit as R86 says. -/
theorem imagesLoaded : Obligations.ImagesLoaded := by
  unfold Obligations.ImagesLoaded
  refine ⟨fun clk e0 e via s h hp hmode htr hl h96 hmax hc hg hk => ?opens, fun clk e0 e via s g h hp hmode htr hl hg hm hfit => ?adds,
    fun clk e0 e via s g h hp hmode htr hl hc hg hm hk => ?hands,
    fun clk e0 e via s h hp hmode hl => ⟨fun c o hc ho hm => ?withdraws, fun hk => ?alone⟩⟩
  case opens =>
    have run : exec (.imageBegin clk e0) s = .next (imageBegin e via (entered clk s via e)) := congrArg Host.Outcome.next
      (command_runs _ _ _ _ clk e0 e via s h (privJudge _ _ clk s via e hp rfl rfl (.inr (by simp [hmode])) (.inr htr)) (fixedLen_iff 16 e hl))
    rw [imageBegin_opens e via _ h96 hmax (by simpa using hc) (by simpa using hg) (by simpa using hk)] at run
    refine ⟨_, run, by simp [complete_frame, openedStaging], fun hq => ?_, posts_complete _ e _ _ h.unsealed⟩
    rw [complete_objs_quiet _ _ _ _ (by simpa [ov, withImage] using hq)]
    simp [withImage]
  case adds =>
    have run : exec (.imageData clk e0) s = .next (imageData e via (entered clk s via e)) := congrArg Host.Outcome.next
      (command_runs _ _ _ _ clk e0 e via s h (privJudge _ _ clk s via e hp rfl rfl (.inr (by simp [hmode])) (.inr htr))
        (by simpa using hl))
    rw [imageData_adds e via _ g (by simpa using hg) hm hfit] at run
    refine ⟨_, run, by simp [complete_frame], fun hq => ?_, posts_complete _ e _ _ h.unsealed⟩
    rw [complete_objs_quiet _ _ _ _ (by simpa [ov, withImage] using hq)]
    simp [withImage]
  case hands =>
    obtain ⟨himage, hobjs⟩ := imageCommit_hands e via (entered clk s via e) g (by simpa using hc) (by simpa using hg) hm (by simpa using hk)
    have run : exec (.imageCommit clk e0) s = .next (imageCommit e via (entered clk s via e)) := congrArg Host.Outcome.next
      (command_runs _ _ _ _ clk e0 e via s h (privJudge _ _ clk s via e hp rfl rfl (.inr (by simp [hmode])) (.inr htr)) (fixedLen_iff 1 e hl))
    exact ⟨_, stagedCommit e g, run, himage.trans (by rw [entered_image]), rfl, by simp [stagedCommit, bit], rfl, rfl, rfl, hobjs.trans (entered_objs ..)⟩
  case withdraws =>
    have run : exec (.imageAbort clk e0) s = .next (imageAbort e via (entered clk s via e)) := congrArg Host.Outcome.next
      (command_runs _ _ _ _ clk e0 e via s h (privJudge _ _ clk s via e hp rfl rfl (.inr (by simp [hmode])) (.inl rfl)) (fixedLen_iff 0 e hl))
    rw [imageAbort_withdraws e via _ c o (by simpa using hc) ho hm] at run
    generalize hu : withImage (unstaged (entered clk s via e) e.mbx) (fun i => { i with commit := none }) = u at run
    have unsealed : u.mode.resetFinal = false := hu ▸ h.unsealed
    have objsOf : u.objs = s.objs := by rw [← hu]; exact entered_objs clk s via e
    have imageOf : u.image = { s.image with staging := s.image.staging.filter (fun g => g.mbx != e.mbx), commit := none } := by
      rw [← hu]; simp [unstaged]
    obtain ⟨k, hk, hmk, htk, hst⟩ := complete_answers u o stCancelled [] unsealed
    obtain ⟨l, hl'⟩ := complete_adds (complete u o stCancelled) (originOf e) stOk []
    refine ⟨_, k, run, by simp [complete_frame, imageOf], by simp [complete_frame, imageOf], fun hq => ?_, ?_, htk, hmk, hst,
      posts_complete _ e _ _ (by simpa [complete_frame] using unsealed)⟩
    · rw [complete_objs_quiet _ _ _ _ ?_, complete_objs_quiet _ _ _ _ (by rw [ov_of objsOf]; exact hq), objsOf]
      rw [ov_of (complete_objs_quiet _ _ _ _ (by rw [ov_of objsOf]; exact hq)), ov_of objsOf]
      exact hq
    · rw [hl']
      exact List.mem_append_left _ hk
  case alone =>
    have run : exec (.imageAbort clk e0) s = .next (imageAbort e via (entered clk s via e)) := congrArg Host.Outcome.next
      (command_runs _ _ _ _ clk e0 e via s h (privJudge _ _ clk s via e hp rfl rfl (.inr (by simp [hmode])) (.inl rfl)) (fixedLen_iff 0 e hl))
    rw [imageAbort_alone e via _ (by simpa using hk)] at run
    refine ⟨_, run, by simp [complete_frame, unstaged], by simp [complete_frame, unstaged], fun hq => ?_, posts_complete _ e _ _ h.unsealed⟩
    rw [complete_objs_quiet _ _ _ _ (by simpa [ov, unstaged, withImage] using hq)]
    simp [unstaged, withImage]

/-! ### The end of the check (R47, R52) -/

theorem exec_configCheckDone_open (clk : Nat) (s : State) (c : Commit) (hc : s.image.commit = some c) (hp : c.passed = false)
    (hm : s.mode.mode = .configure) : exec (.configCheckDone clk) s = .next (match configCheck (begin clk s) c with
      | .error f => imageRefused (begin clk s) c f
      | .ok taken => imagePassed (begin clk s) c taken) := by
  have hc' : (begin clk s).image.commit = some c := by simpa [begin_frame] using hc
  have hm' : (begin clk s).mode.mode = .configure := by simpa [begin_frame] using hm
  show execConfigCheckDone clk s = _
  unfold execConfigCheckDone
  dsimp only
  rw [hc']
  simp only [hp, hm']
  rfl

/-- A host's image that is refused: the report is kept, and its command completes with it. -/
theorem imageRefused_host (s : State) (c : Commit) (o : Origin) (f : Finding) (ho : c.origin = some o) :
    ∃ u, imageRefused s c f = complete u o stConfigRefused (reportBytes f) ∧ u.image = { s.image with commit := none } ∧
      u.mode = { s.mode with refusal := reportBytes f } := by
  unfold imageRefused
  simp only [ho]
  exact ⟨_, rfl, by (repeat' split) <;> rfl, by (repeat' split) <;> rfl⟩

/-- Settles O30: the check refuses the image, or passes it under CHECK_ONLY or for the next tick start. -/
theorem imagesChecked : Obligations.ImagesChecked := by
  unfold Obligations.ImagesChecked
  intro clk s c o hc hp hm hf ho
  have run := exec_configCheckDone_open clk s c hc hp hm
  refine ⟨fun f hchk => ?refused, fun taken hchk honly => ?only, fun taken hchk honly hpeer => ?waits⟩
  all_goals rw [hchk] at run
  case refused =>
    obtain ⟨u, hu, himage, hmode⟩ := imageRefused_host (begin clk s) c o f ho
    simp only [begin_frame] at himage hmode
    obtain ⟨l, hout⟩ := complete_out u o stConfigRefused (reportBytes f) (by rw [hmode]; exact hf)
    refine ⟨_, completionOf u o stConfigRefused (reportBytes f), run.trans (congrArg Host.Outcome.next hu), ?_, ?_, ?_, ?_, rfl, rfl, rfl, rfl⟩
    · simp [complete_frame, himage]
    · simp [complete_frame, hmode]
    · simpa [complete_frame, hmode] using hm
    · rw [hout]
      simp
  case only =>
    have passed : ∃ u, imagePassed (begin clk s) c taken = complete u o stOk ∧ u.image = { s.image with commit := none } ∧ u.mode = s.mode := by
      unfold imagePassed
      simp only [honly, ho]
      exact ⟨_, rfl, by simp [begin_frame], by simp [withImage, begin_frame]⟩
    obtain ⟨u, hu, himage, hmode⟩ := passed
    obtain ⟨k, hout, hmbx, htxid, hst⟩ := complete_answers u o stOk [] (by rw [hmode]; exact hf)
    exact ⟨_, k, run.trans (congrArg Host.Outcome.next hu), by simp [complete_frame, himage], by simp [complete_frame, hmode], hout, htxid, hmbx, hst⟩
  case waits =>
    refine ⟨_, run, ?_, ?_, ?_, ?_⟩
    all_goals simp [imagePassed, honly, hpeer, ho, mirrorImage_frame, withImage, begin_frame]

end Sys2Proof.Machine
end

section
/-! Proofs about SET_MODE, RESET and the transitions of the modes (02_modes_and_start.md R38 to R44). -/

namespace Sys2Proof.Machine

theorem Privileged.isOpen {s : State} {e : Entry} (h : Privileged s e) : Open s e := ⟨by rw [h.1]; decide, h.2⟩

/-! ### Targets in force -/

theorem targetInForce_none (s : State) (h : inTransition s = false) : targetInForce s = none := by
  unfold inTransition at h
  unfold targetInForce
  cases ha : s.mode.accepted <;> simp_all

theorem inTransition_of_target (s : State) (x : Mode) (h : targetInForce s = some x) : inTransition s = true := by
  by_contra hn
  rw [targetInForce_none s (by simpa using hn)] at h
  nomatch h

theorem targetInForce_of {s t : State} (h : t.mode = s.mode) : targetInForce t = targetInForce s := by unfold targetInForce; rw [h]

theorem accepted_none (s : State) (h : inTransition s = false) : s.mode.accepted = none := by
  unfold inTransition at h
  cases ha : s.mode.accepted <;> simp_all

theorem target_none (s : State) (h : inTransition s = false) : s.mode.target = none := by
  unfold inTransition at h
  cases ht : s.mode.target <;> simp_all

/-! ### SET_MODE (R39, R41, R43) -/

theorem judge_setMode (needs : Bool) (u : State) (e : Entry) (ho : (mbx u e.mbx).state ≠ .closed) (hr : u.start.rescue = false)
    (hp : (mbx u e.mbx).state = .privileged ∨ needs = false) :
    judge { opcode := 0x0012, refusedBy := modeRefused } needs u e = if modeRefused u e then some stModeTransition else none := by
  rcases hp with hp | hp <;> simp [judge, ho, hr, hp]

theorem modeRefused_idle (u : State) (e : Entry) (h : targetInForce u = none) : modeRefused u e = false := by simp [modeRefused, h]

theorem modeRefused_target (u : State) (e : Entry) (x : Mode) (h : targetInForce u = some x) (hl : fixedLen 1 e = true) :
    modeRefused u e = decide (modeRank (modeOf (le (entryArgs e) 0 1)) ≤ modeRank x) := by simp [modeRefused, h, hl]

/-- How an admitted SET_MODE runs: it is refused by a transition, or its effect comes. -/
theorem exec_setMode_admitted (clk : Nat) (e0 e : Entry) (via : Transport) (s : State) (h : Admitted (begin clk s) 0x0012 e0 via e)
    (ho : Open (begin clk s) e) (hl : (entryArgs e).length = 1) (hp : (mbx s e.mbx).state = .privileged ∨ le (entryArgs e) 0 1 = 4) :
    let u := entered clk s via e
    exec (.setMode clk e0) s = .next (if modeRefused u e then complete u (originOf e) stModeTransition else setMode e via u) := by
  intro u
  have judged := judge_setMode (le (entryArgs e) 0 1 != 4) u e (by simpa [u] using ho.1) (by simpa [u, begin_frame] using ho.2)
    (by simpa [u] using hp)
  split
  · next hm =>
    exact congrArg Host.Outcome.next (command_judged _ _ _ _ clk e0 e via s _ h (judged.trans (if_pos hm)))
  · next hm =>
    exact congrArg Host.Outcome.next (command_runs _ _ _ _ clk e0 e via s h (judged.trans (if_neg hm)) (fixedLen_iff 1 e hl))

theorem exec_setMode_runs (clk : Nat) (e0 e : Entry) (via : Transport) (s : State) (h : Admitted (begin clk s) 0x0012 e0 via e)
    (ho : Open (begin clk s) e) (hl : (entryArgs e).length = 1) (hp : (mbx s e.mbx).state = .privileged ∨ le (entryArgs e) 0 1 = 4)
    (ht : inTransition s = false) : exec (.setMode clk e0) s = .next (setMode e via (entered clk s via e)) := by
  have run := exec_setMode_admitted clk e0 e via s h ho hl hp
  dsimp only at run
  have idle : targetInForce (entered clk s via e) = none := targetInForce_none _ (by simpa using ht)
  rw [modeRefused_idle _ e idle] at run
  exact run

theorem setMode_unknown (e : Entry) (via : Transport) (u : State) (h : 6 ≤ le (entryArgs e) 0 1) :
    setMode e via u = complete u (originOf e) stBadArgument := if_pos h

theorem setMode_present (e : Entry) (via : Transport) (u : State) (hc : le (entryArgs e) 0 1 < 6)
    (hm : modeOf (le (entryArgs e) 0 1) = u.mode.mode) (ht : inTransition u = false) : setMode e via u = complete u (originOf e) stOk := by
  unfold setMode
  dsimp only
  rw [if_neg (by omega), if_pos (by simp [hm, ht])]

/-- A target other than the present mode, or any during a transition, is judged by its row of Table 2-3. -/
theorem setMode_row (e : Entry) (via : Transport) (u : State) (hc : le (entryArgs e) 0 1 < 6)
    (hm : modeOf (le (entryArgs e) 0 1) ≠ u.mode.mode ∨ inTransition u = true)
    (hf : ¬(modeOf (le (entryArgs e) 0 1) = .configure ∧ u.mode.mode = .fault) ∨ inTransition u = true) :
    setMode e via u = if rowOpen u (modeOf (le (entryArgs e) 0 1)) then acceptMode u (originOf e) (modeOf (le (entryArgs e) 0 1))
      else complete u (originOf e) stPrecondition := by
  unfold setMode
  dsimp only
  rw [if_neg (by omega), if_neg, if_neg]
  · rcases hf with hf | hf
    · simpa [and_imp] using fun h1 h2 => absurd ⟨h1, h2⟩ hf
    · simp [hf]
  · rcases hm with hm | hm <;> simp [hm]

theorem acceptMode_mode (u : State) (o : Origin) (m : Mode) : (acceptMode u o m).mode.accepted = some m ∧
    (acceptMode u o m).mode.mode = u.mode.mode ∧ (acceptMode u o m).mode.target = u.mode.target ∧
    { origin := o, target := m } ∈ (acceptMode u o m).mode.waiting := by
  obtain ⟨hacc, hmode, _, htarget, _⟩ := acceptTarget_mode u m 0
  exact ⟨hacc, hmode, htarget, by simp [acceptMode]⟩

/-- Outside a transition nothing is replaced. -/
theorem acceptTarget_idle (u : State) (m : Mode) (w : Word) (h : u.mode.accepted = none) : acceptTarget u m w =
    withMode u (fun x => { x with accepted := some m, triggerWord := w, resetEdge := if m = .fault then none else x.resetEdge }) := by
  unfold acceptTarget
  rw [h]

theorem complete_entered_mode (clk : Nat) (s : State) (via : Transport) (e : Entry) (status : Nat) (result : Bytes)
    (hf : (entered clk s via e).mode.resetFinal = false) :
    let t := complete (entered clk s via e) (originOf e) status result
    t.mode = s.mode ∧ Posts t e status result := ⟨by simp [complete_frame], posts_complete _ e _ _ hf⟩

/-- Settles O31: the branches of the judgement, in the order of R39. -/
theorem setModeJudged : Obligations.SetModeJudged := by
  unfold Obligations.SetModeJudged
  intro clk e0 e via s h ho hl hp u code m
  have modeOf_u : u.mode = s.mode := entered_mode ..
  have trans_u : inTransition u = inTransition s := entered_inTransition ..
  have target_u : targetInForce u = targetInForce s := targetInForce_of modeOf_u
  have run := exec_setMode_runs clk e0 e via s h ho hl hp
  have judged : exec (.setMode clk e0) s = .next (if modeRefused u e then complete u (originOf e) stModeTransition else setMode e via u) :=
    exec_setMode_admitted clk e0 e via s h ho hl hp
  refine ⟨fun ht hc => ?unknown, fun x hx hr => ?refused, fun hc hm ht => ?present, fun hc hm ht hr hf => ?accepted,
    fun x hc hx hr hrow => ?replaces, fun hc hm ht hr hf => ?closed⟩
  case unknown =>
    have run := run ht
    rw [setMode_unknown e via _ hc] at run
    exact ⟨_, run, complete_entered_mode clk s via e _ _ h.unsealed⟩
  case refused =>
    have refused : modeRefused u e = true := by
      rw [modeRefused_target u e x (target_u.trans hx) (fixedLen_iff 1 e hl)]
      exact decide_eq_true hr
    rw [if_pos refused] at judged
    exact ⟨_, judged, complete_entered_mode clk s via e _ _ h.unsealed⟩
  case present =>
    have run := run ht
    rw [setMode_present e via _ hc (by simpa using hm) (by simpa using ht)] at run
    exact ⟨_, run, complete_entered_mode clk s via e _ _ h.unsealed⟩
  case accepted =>
    have run := run ht
    rw [setMode_row e via _ hc (.inl (by simpa using hm)) (.inl (by simpa using hf)), if_pos hr] at run
    obtain ⟨hacc, hmode, _, _⟩ := acceptMode_mode (entered clk s via e) (originOf e) m
    have idle : (entered clk s via e).mode.accepted = none := accepted_none _ (by simpa using ht)
    refine ⟨_, run, hacc, hmode.trans (by simp), ?_, ?_⟩
    · simp [acceptMode, acceptTarget_idle _ _ _ idle]
    · simp [acceptMode, acceptTarget_idle _ _ _ idle, m, code]
  case replaces =>
    have inTrans : inTransition u = true := trans_u.trans (inTransition_of_target s x hx)
    have notRefused : modeRefused u e = false := by
      rw [modeRefused_target u e x (target_u.trans hx) (fixedLen_iff 1 e hl)]
      exact decide_eq_false (Nat.not_le.2 hr)
    rw [if_neg (by simp [notRefused]), setMode_row e via _ hc (.inr inTrans) (.inr inTrans), if_pos hrow] at judged
    obtain ⟨hacc, hmode, htarget, hwait⟩ := acceptMode_mode (entered clk s via e) (originOf e) m
    exact ⟨_, judged, hacc, hmode.trans (by simp), htarget.trans (by simp), hwait⟩
  case closed =>
    have run := run ht
    rw [setMode_row e via _ hc (.inl (by simpa using hm)) (.inl (by simpa using hf)), if_neg (by simpa using hr)] at run
    exact ⟨_, run, complete_entered_mode clk s via e _ _ h.unsealed⟩

/-! ### Leaving FAULT (R44) -/

/-- The latches are cleared and the reset edge is used up. -/
def unlatched (u : State) : State := withMode (clearLatches u) (fun m => { m with resetEdge := none })

theorem setMode_leaves (e : Entry) (via : Transport) (u : State) (hc : le (entryArgs e) 0 1 = 1) (hm : u.mode.mode = .fault)
    (ht : inTransition u = false) : setMode e via u = leaveFault u (originOf e) := by
  unfold setMode
  simp [hc, modeOf, hm, ht]

theorem leaveFault_edgeless (u : State) (o : Origin) (h : ∀ x, u.mode.resetEdge = some x → x + 10000000000 ≤ now u) :
    leaveFault u o = complete u o stFaultResetMissing := by
  have none : u.mode.resetEdge.any (fun e => decide (now u < e + 10000000000)) = false := by
    cases hx : u.mode.resetEdge with
    | none => rfl
    | some x =>
      rw [Option.any_some]
      exact decide_eq_false (Nat.not_lt.2 (h x hx))
  unfold leaveFault
  exact if_pos (by rw [none]; rfl)

theorem leaveFault_edge (u : State) (o : Origin) (x : Nat) (hx : u.mode.resetEdge = some x) (h : now u < x + 10000000000) :
    leaveFault u o = if faultLasts u then complete u o stPrecondition
      else if (unlatched u).mode.faultInBoot then
        (if (acceptMode (unlatched u) o .boot).herd.running then acceptMode (unlatched u) o .boot
         else startTransition (acceptMode (unlatched u) o .boot))
      else acceptMode (unlatched u) o .configure := by
  have edge : u.mode.resetEdge.any (fun e => decide (now u < e + 10000000000)) = true := by
    rw [hx, Option.any_some]
    exact decide_eq_true h
  unfold leaveFault
  exact if_neg (by rw [edge]; exact Bool.false_ne_true)

/-- What an accepted target leaves of a FAULT that ends. -/
theorem acceptMode_unlatched (u : State) (o : Origin) (m : Mode) (ht : inTransition u = false) :
    let t := acceptMode (unlatched u) o m
    t.mode.accepted = some m ∧ t.mode.target = none ∧ t.cham.stoLatch = false ∧ t.cham.fault = 0 ∧ t.mode.resetEdge = none ∧
      t.herd = u.herd := by
  have idle : (unlatched u).mode.accepted = none := accepted_none u ht
  have still : (unlatched u).mode.target = none := target_none u ht
  unfold acceptMode
  rw [acceptTarget_idle _ _ _ idle]
  exact ⟨rfl, still, rfl, rfl, ite_self none, rfl⟩

theorem settleWaits_keeps (s : State) (p : Mode → Bool) (status : Nat) :
    let t := settleWaits s p status
    t.mode = { s.mode with waiting := s.mode.waiting.filter (fun w => !p w.target) } ∧ t.cham = s.cham := by
  unfold settleWaits
  exact ⟨by simp [completeAll_frame], by simp [completeAll_frame, withMode]⟩

/-- The transition to BOOT begins by posting the reset. -/
theorem startTransition_boot (u : State) (ha : u.mode.accepted = some .boot) (ht : u.mode.target = none) :
    let t := startTransition u
    t.mode.target = some .boot ∧ t.mode.resetPosted.isSome = true ∧ t.cham = u.cham ∧ t.mode.resetEdge = u.mode.resetEdge := by
  have run : startTransition u = targetEntry (setInt (withMode u (fun m =>
      { m with accepted := none, target := some .boot, complete := false, targetWord := m.triggerWord })) 1) .boot := by
    unfold startTransition
    rw [ha, ht]
    rfl
  rw [run]
  unfold targetEntry
  dsimp only
  obtain ⟨hmode, hcham⟩ := settleWaits_keeps (abandonCommit (setInt (withMode u (fun m =>
      { m with accepted := none, target := some .boot, complete := false, targetWord := m.triggerWord })) 1)) (fun m => m = .boot) stOk
  refine ⟨?_, rfl, ?_, ?_⟩
  · simp [hmode, abandonCommit_frame, setInt_frame]
  · simpa [abandonCommit_frame, setInt_frame, withMode] using hcham
  · simp [hmode, abandonCommit_frame, setInt_frame]

/-- Settles O32: without an edge, with a cause that lasts, and the three ways out. -/
theorem faultLeft : Obligations.FaultLeft := by
  unfold Obligations.FaultLeft
  intro clk e0 e via s h hp hl hc hm ht u
  have run := exec_setMode_runs clk e0 e via s h hp.isOpen hl (.inl (by simpa using hp.1)) ht
  rw [setMode_leaves e via _ hc (by simpa using hm) (by simpa using ht)] at run
  have trans_u : inTransition u = false := by simpa [u] using ht
  refine ⟨fun hx => ?edgeless, fun x hx hn hlast => ?lasts, fun x hx hn hlast => ?leaves⟩
  case edgeless =>
    rw [leaveFault_edgeless _ _ (by rw [entered_mode, entered_now]; exact hx)] at run
    exact ⟨_, run, by simp [complete_frame], by simp [complete_frame], posts_complete _ e _ _ h.unsealed⟩
  all_goals rw [leaveFault_edge u _ x (by rw [entered_mode]; exact hx) (by rw [entered_now]; exact hn)] at run
  case lasts =>
    rw [if_pos hlast] at run
    exact ⟨_, run, by simp [complete_frame, u], by simp [complete_frame, u], posts_complete _ e _ _ h.unsealed⟩
  case leaves =>
    rw [if_neg (by simp [hlast])] at run
    have inBoot : (unlatched u).mode.faultInBoot = s.mode.faultInBoot := by simp [unlatched, clearLatches, u]
    refine ⟨fun hb => ?configure, fun hb hr => ?boot, fun hb hr => ?atOnce⟩
    case configure =>
      rw [if_neg (by simp [inBoot, hb])] at run
      obtain ⟨hacc, _, hsto, hfault, hedge, _⟩ := acceptMode_unlatched u (originOf e) .configure trans_u
      exact ⟨_, run, hacc, hsto, hfault, hedge⟩
    all_goals
      obtain ⟨hacc, htarget, hsto, hfault, hedge, hherd⟩ := acceptMode_unlatched u (originOf e) .boot trans_u
      rw [if_pos (by simp [inBoot, hb])] at run
    case boot =>
      rw [if_pos (by rw [hherd]; simpa [u] using hr)] at run
      exact ⟨_, run, hacc, hsto, hfault, hedge⟩
    case atOnce =>
      rw [if_neg (by rw [hherd]; simpa [u] using hr)] at run
      obtain ⟨hboot, hposted, hcham, hedge'⟩ := startTransition_boot _ hacc htarget
      exact ⟨_, run, hboot, hposted, by rw [hcham]; exact hsto, by rw [hcham]; exact hfault, by rw [hedge']; exact hedge⟩

/-! ### RESET and the end of a transition (R38, R40, R44) -/

theorem resetCommand_posts (e : Entry) (via : Transport) (u : State) (h : u.mode.resetPosted = none) :
    resetCommand e via u =
      withMode (acceptTarget (complete u (originOf e) stOk) .boot 0) (fun m => { m with resetPosted := some u.clock }) := by
  unfold resetCommand
  simp [complete_frame, h]

theorem resetCommand_again (e : Entry) (via : Transport) (u : State) (h : u.mode.resetPosted.isSome = true) :
    resetCommand e via u = complete u (originOf e) stOk := by
  unfold resetCommand
  simp [complete_frame, h]

theorem exec_reset_admitted (clk : Nat) (e0 e : Entry) (via : Transport) (s : State) (h : Admitted (begin clk s) 0x0011 e0 via e)
    (hp : Privileged (begin clk s) e) (hl : (entryArgs e).length = 0) :
    exec (.reset clk e0) s = .next (resetCommand e via (entered clk s via e)) :=
  congrArg Host.Outcome.next (command_runs _ _ _ _ clk e0 e via s h (privJudge _ _ clk s via e hp rfl rfl (.inl rfl) (.inl rfl)) (fixedLen_iff 0 e hl))

theorem exec_commandResetBegin_early (clk c : Nat) (s : State) (h : s.mode.resetPosted = some c) (hc : (begin clk s).clock < c + 25000) :
    exec (.commandResetBegin clk) s = .next (begin clk s) := by
  have early : (begin clk s).mode.resetPosted.any (fun c => decide (c + 25000 ≤ (begin clk s).clock)) = false := by
    simp only [begin_frame, h, Option.any_some]
    exact decide_eq_false (by omega)
  exact congrArg Host.Outcome.next (if_neg (by rw [early]; exact Bool.false_ne_true))

theorem exec_commandResetBegin_due (clk c : Nat) (s : State) (h : s.mode.resetPosted = some c) (hc : c + 25000 ≤ (begin clk s).clock)
    (hr : s.start.running = false) : exec (.commandResetBegin clk) s = .next (moduleReset (begin clk s)) := by
  have due : (begin clk s).mode.resetPosted.any (fun c => decide (c + 25000 ≤ (begin clk s).clock)) = true := by
    simp only [begin_frame, h, Option.any_some]
    exact decide_eq_true hc
  have idle : ¬(begin clk s).start.running = true := by simp [begin_frame, hr]
  exact congrArg Host.Outcome.next ((if_pos due).trans (if_neg idle))

theorem moduleReset_mbx (s : State) (m : Nat) : mbx (moduleReset s) m = {} :=
  (mbx_eq (s := State.reset) (t := moduleReset s) rfl m).trans (reset_mbx m)

theorem modeTransitionComplete_reached (s : State) (x : Mode) (hx : s.mode.target = some x) (hc : s.mode.complete = false)
    (hr : targetReached s x = true) :
    modeTransitionComplete s = settleWaits (withMode s (fun m => { m with complete := true })) (fun m => m = x) stOk := by
  unfold modeTransitionComplete
  rw [hx]
  exact if_neg (by simp [hc, hr])

theorem modeTransitionComplete_open (s : State) (x : Mode) (hx : s.mode.target = some x) (hr : targetReached s x = false) :
    modeTransitionComplete s = s := by
  unfold modeTransitionComplete
  rw [hx]
  exact if_pos (by simp [hr])

/-- Every SET_MODE that waits for the target completes. -/
theorem settleWaits_posts (s : State) (p : Mode → Bool) (status : Nat) (hf : s.mode.resetFinal = false) (w : ModeWait)
    (hw : w ∈ s.mode.waiting) (hp : p w.target = true) :
    ∃ c, Output.completion c ∈ (settleWaits s p status).out ∧ c.mailbox = w.origin.mbx ∧ c.txid = w.origin.txid ∧ c.status = status := by
  unfold settleWaits
  have waits : w.origin ∈ (s.mode.waiting.filter (fun w => p w.target)).map (·.origin) :=
    List.mem_map_of_mem (List.mem_filter.2 ⟨hw, hp⟩)
  exact completeAll_posts _ status (withMode s (fun m => { m with waiting := m.waiting.filter (fun w => !p w.target) })) hf w.origin waits

/-- Settles O33: RESET, the reset it posts, the end of a transition and of a reset edge. -/
theorem resetsAndTransitions : Obligations.ResetsAndTransitions := by
  unfold Obligations.ResetsAndTransitions
  refine ⟨⟨fun clk e0 e via s h hp hl => ⟨fun hn => ?posts, fun hn => ?again⟩, exec_commandResetBegin_early,
    fun clk c s hc hdue hr => ?resets, fun s o status result hf => if_pos hf⟩,
    fun clk s x hx hc => ⟨fun hr hf => ?reached, fun hr => ?unreached⟩, fun clk x s hx hn => ?edge⟩
  case posts =>
    have run := exec_reset_admitted clk e0 e via s h hp hl
    rw [resetCommand_posts e via _ (by simpa using hn)] at run
    obtain ⟨hacc, hmode, _⟩ := acceptTarget_mode (complete (entered clk s via e) (originOf e) stOk) .boot 0
    refine ⟨_, run, hacc, hmode.trans (by simp [complete_frame]), by simp, ?_⟩
    exact posts_mono (posts_complete _ e stOk [] h.unsealed) (acceptTarget_out (complete (entered clk s via e) (originOf e) stOk) .boot 0)
  case again =>
    have run := exec_reset_admitted clk e0 e via s h hp hl
    rw [resetCommand_again e via _ (by simpa using hn)] at run
    exact ⟨_, run, complete_entered_mode clk s via e _ _ h.unsealed⟩
  case resets =>
    refine ⟨_, exec_commandResetBegin_due clk c s hc hdue hr, rfl, fun m _ => congrArg Mailbox.state (moduleReset_mbx _ m), ?_, ?_, ?_, ?_,
      List.mem_append_right _ (List.mem_singleton.2 rfl)⟩
    · show (begin clk s).cham.stoLatch = s.cham.stoLatch
      simp [begin_frame]
    · show (begin clk s).sec.hmac = s.sec.hmac
      simp [begin_frame]
    · show (begin clk s).sec.customer = s.sec.customer
      simp [begin_frame]
    · exact begin_epochs clk s
  case reached =>
    have modeOf_b : (begin clk s).mode = s.mode := (begin_frame clk s).1
    have run : exec (.modeTransitionComplete clk) s = _ := congrArg Host.Outcome.next
      (modeTransitionComplete_reached (begin clk s) x (by rw [modeOf_b]; exact hx) (by rw [modeOf_b]; exact hc) hr)
    obtain ⟨hmode, _⟩ := settleWaits_keeps (withMode (begin clk s) (fun m => { m with complete := true })) (fun m => m = x) stOk
    refine ⟨_, run, by rw [hmode]; rfl, by rw [hmode]; simp [modeOf_b], fun w hw => ?_, fun w hw ht => ?_⟩
    · rw [hmode] at hw
      simpa using (List.mem_filter.1 hw).2
    · exact settleWaits_posts _ _ _ (by simpa [modeOf_b] using hf) w (by simpa [modeOf_b] using hw) (decide_eq_true ht)
  case unreached =>
    exact congrArg Host.Outcome.next (modeTransitionComplete_open (begin clk s) x (by rw [(begin_frame clk s).1]; exact hx) hr)
  case edge =>
    have due : (begin clk s).mode.resetEdge.any (fun e => decide (e + 10000000000 ≤ now (begin clk s))) = true := by
      rw [(begin_frame clk s).1, hx, Option.any_some]
      exact decide_eq_true hn
    exact congrArg Host.Outcome.next (if_pos due)

end Sys2Proof.Machine
end

section
/-! Proofs about the commands that wait for a pass: motion (10_motion_profiles.md R224 to R232), zones (09_piste_reservation.md R200 to R204)
and paths (07_cell_planning.md R162). -/

namespace Sys2Proof.Machine

/-! ### Moves (R224 to R231) -/

/-- A queued move changes nothing but the queue. -/
theorem queueMove_queues (u : State) (o : Origin) (chs : List Nat) (args : MoveArgs) :
    ∃ w, (queueMove u o chs args).prof = { u.prof with moves := u.prof.moves ++ [w] } ∧ w.origin = o ∧ w.args = args ∧
      w.due = now u + ov u 0x10 0 0x21 * 1000 ∧ (queueMove u o chs args).out = u.out ∧ (queueMove u o chs args).piste = u.piste ∧
      (queueMove u o chs args).ctl = u.ctl := ⟨_, rfl, rfl, rfl, rfl, rfl, rfl, rfl⟩

/-- A move queued by an admitted command. -/
theorem queueMove_entered (clk : Nat) (s : State) (via : Transport) (e : Entry) (chs : List Nat) (args : MoveArgs) :
    let t := queueMove (entered clk s via e) (originOf e) chs args
    ∃ w, t.prof = { s.prof with moves := s.prof.moves ++ [w] } ∧ w.origin = originOf e ∧ w.args = args ∧
      w.due = now (begin clk s) + ov s 0x10 0 0x21 * 1000 ∧ t.out = [] ∧ t.piste = s.piste ∧ t.ctl = s.ctl := by
  obtain ⟨w, hprof, ho, ha, hdue, hout, hpiste, hctl⟩ := queueMove_queues (entered clk s via e) (originOf e) chs args
  exact ⟨w, by rw [hprof, entered_prof], ho, ha, by rw [hdue, entered_now, entered_ov], by rw [hout, entered_out],
    by rw [hpiste, entered_piste], by rw [hctl, entered_ctl]⟩

theorem moveJoint_queues (e : Entry) (via : Transport) (u : State) (hd : profDown u = false) :
    let a := entryArgs e
    let f := fun i => (BitVec.ofNat 32 (le a i 4) : F32)
    let ch := le a 0 1
    let t0 := toCounts u.objs ch (BitVec.ofNat 64 (le a 16 8))
    let target := if bit (le a 1 1) 0 then dAdd (q32ToD (targetOf u ch)) t0 else t0
    chanPresent u.objs ch = true → argLimitOk u ch 3 (f 4) = true → argLimitOk u ch 4 (f 8) = true → argLimitOk u ch 5 (f 12) = true →
      insideSoft u.objs ch target = true →
      moveJoint e via u = queueMove u (originOf e) [ch] (.joint ch false (f 4) (f 8) (f 12) target) := by
  intro a f ch t0 target hc h3 h4 h5 hs
  have refused : ¬(!chanPresent u.objs ch || !argLimitOk u ch 3 (f 4) || !argLimitOk u ch 4 (f 8) || !argLimitOk u ch 5 (f 12) ||
      !insideSoft u.objs ch target) = true := by simp [hc, h3, h4, h5, hs]
  unfold moveJoint
  exact (if_neg refused).trans (if_neg (by simp [hd]))

theorem moveLinear_queues (e : Entry) (via : Transport) (u : State) (hd : profDown u = false) :
    let a := entryArgs e
    let arm := le a 0 1
    let scale := (BitVec.ofNat 32 (le a 4 4) : F32)
    let chs := (List.range 8).map (fun j => arm * 8 + j)
    let target := chs.map (fun ch =>
      let t := toCounts u.objs ch (BitVec.ofNat 64 (le a (8 + 8 * (ch % 8)) 8))
      if bit (le a 1 1) 0 then dAdd (q32ToD (targetOf u ch)) t else t)
    arm < 8 → armPresent u.objs arm = true → fLt 0 scale = true → fLe scale (fOfInt 1) = true →
      (chs.filter (jointPresent u.objs)).all (fun ch => insideSoft u.objs ch (nth 0 target (ch % 8))) = true →
      moveLinear e via u = queueMove u (originOf e) (chs.filter (jointPresent u.objs)) (.linear arm false scale target) := by
  intro a arm scale chs target ha hp h0 h1 hs
  have refused : ¬(8 ≤ arm || !armPresent u.objs arm || !fLt 0 scale || !fLe scale (fOfInt 1) ||
      !(chs.filter (jointPresent u.objs)).all (fun ch => insideSoft u.objs ch (nth 0 target (ch % 8)))) = true := by
    rw [hs, hp, h0, h1]
    simp [ha]
  unfold moveLinear
  exact (if_neg refused).trans (if_neg (by simp [hd]))

theorem moveConveyor_queues (e : Entry) (via : Transport) (u : State) (hd : profDown u = false) :
    let a := entryArgs e
    let ch := le a 0 1
    let ratio : F64 := BitVec.ofNat 64 (le a 8 8)
    let endPos := toCounts u.objs ch (BitVec.ofNat 64 (le a 24 8))
    chanPresent u.objs ch = true → le a 1 1 < 8 → dEq ratio 0 = false → dFinite ratio = true → insideSoft u.objs ch endPos = true →
      moveConveyor e via u = queueMove u (originOf e) [ch] (.conveyor ch (le a 1 1) ratio (sext 64 (le a 16 8)) endPos) := by
  intro a ch ratio endPos hc h8 h0 hf hs
  have refused : ¬(!chanPresent u.objs ch || 8 ≤ le a 1 1 || dEq ratio 0 || !dFinite ratio || !insideSoft u.objs ch endPos) = true := by
    rw [hc, h0, hf, hs]
    simp [h8]
  unfold moveConveyor
  exact (if_neg refused).trans (if_neg (by simp [hd]))

/-- A jog in progress is renewed before the JOG is queued. -/
theorem jog_queues (e : Entry) (via : Transport) (u : State) (hd : profDown u = false) :
    let a := entryArgs e
    let ch := le a 0 1
    let dir := sext 8 (le a 1 1)
    let speed : F32 := BitVec.ofNat 32 (le a 4 4)
    chanPresent u.objs ch = true → -1 ≤ dir → dir ≤ 1 → fLe 0 speed = true → fLe speed (obF u.objs 0x21 ch 6) = true →
      ∃ v, v.prof.moves = u.prof.moves ∧ v.out = u.out ∧ jog e via u = queueMove v (originOf e) [ch] (.jog ch dir speed) := by
  intro a ch dir speed hc hlo hhi h0 hs
  have refused : ¬(!chanPresent u.objs ch || dir < -1 || 1 < dir || !fLe 0 speed || !fLe speed (obF u.objs 0x21 ch 6)) = true := by
    rw [hc, h0, hs]
    simp [hlo, hhi]
  refine ⟨setChan u ch _, ?_, ?_, by unfold jog; exact (if_neg refused).trans (if_neg (by simp [hd]))⟩ <;> rfl

theorem teach_queues (e : Entry) (via : Transport) (u : State) (hd : profDown u = false) (hf : resultFits e 72 = true)
    (ha : le (entryArgs e) 0 1 < 8) (hp : armPresent u.objs (le (entryArgs e) 0 1) = true) :
    teach e via u = withProf u (fun p => { p with teaches := p.teaches ++ [(originOf e, le (entryArgs e) 0 1, now u)] }) := by
  unfold teach
  dsimp only
  rw [if_neg (by simp [hf]), if_neg (by simp [hp, ha]), if_neg (by simp [hd])]

theorem stopMove_queues (e : Entry) (via : Transport) (u : State) (hd : profDown u = false)
    (h : (le (entryArgs e) 0 1 = 0 ∧ chanPresent u.objs (le (entryArgs e) 1 1) = true) ∨
      (le (entryArgs e) 0 1 = 1 ∧ le (entryArgs e) 1 1 < 8 ∧ armPresent u.objs (le (entryArgs e) 1 1) = true)) :
    stopMove e via u =
      withProf u (fun p => { p with stops := p.stops ++ [(originOf e, le (entryArgs e) 0 1, le (entryArgs e) 1 1, now u)] }) := by
  unfold stopMove
  dsimp only
  rw [if_neg, if_neg (by simp [hd])]
  rcases h with ⟨hk, hc⟩ | ⟨hk, h8, hp⟩
  · simp [hk, hc]
  · simp [hk, h8, hp]

/-- Settles O34: each command is queued for its pass, and nothing else has changed. -/
theorem motionCommandsWait : Obligations.MotionCommandsWait := by
  unfold Obligations.MotionCommandsWait
  refine ⟨fun clk e0 e via s hp ht hd => ⟨fun h hm hl => ?joint, fun h hm hl => ?linear, fun h hm hl => ?conveyor⟩,
    fun clk e0 e via s hp hd => ⟨fun h hm ht hl => ?jog, fun h hm hl => ?stop, fun h hm ht hl hf => ?teach⟩⟩
  all_goals have objsOf : (entered clk s via e).objs = s.objs := entered_objs ..
  case joint =>
    intro ch t0 target hc h3 h4 h5 hs
    have run : exec (.moveJoint clk e0) s = .next (moveJoint e via (entered clk s via e)) := congrArg Host.Outcome.next
      (command_runs _ _ _ _ clk e0 e via s h (privJudge _ _ clk s via e hp rfl rfl (.inr hm) (.inr ht)) (fixedLen_iff 24 e hl))
    have queues := moveJoint_queues e via (entered clk s via e) hd
    simp only [objsOf] at queues
    exact ⟨_, run.trans (congrArg Host.Outcome.next (queues hc h3 h4 h5 hs)), queueMove_entered clk s via e _ _⟩
  case linear =>
    intro arm target ha harm h0 h1 hs
    have run : exec (.moveLinear clk e0) s = .next (moveLinear e via (entered clk s via e)) := congrArg Host.Outcome.next
      (command_runs _ _ _ _ clk e0 e via s h (privJudge _ _ clk s via e hp rfl rfl (.inr hm) (.inr ht)) (fixedLen_iff 72 e hl))
    have queues := moveLinear_queues e via (entered clk s via e) hd
    simp only [objsOf] at queues
    exact ⟨_, run.trans (congrArg Host.Outcome.next (queues ha harm h0 h1 hs)), queueMove_entered clk s via e _ _⟩
  case conveyor =>
    intro ch ratio endPos hc h8 h0 hf hs
    have run : exec (.moveConveyor clk e0) s = .next (moveConveyor e via (entered clk s via e)) := congrArg Host.Outcome.next
      (command_runs _ _ _ _ clk e0 e via s h (privJudge _ _ clk s via e hp rfl rfl (.inr (by simp [hm])) (.inr ht)) (fixedLen_iff 32 e hl))
    have queues := moveConveyor_queues e via (entered clk s via e) hd
    simp only [objsOf] at queues
    exact ⟨_, run.trans (congrArg Host.Outcome.next (queues hc h8 h0 hf hs)), queueMove_entered clk s via e _ _⟩
  case jog =>
    intro hc hlo hhi h0 hs
    have run : exec (.jog clk e0) s = .next (jog e via (entered clk s via e)) := congrArg Host.Outcome.next
      (command_runs _ _ _ _ clk e0 e via s h (privJudge _ _ clk s via e hp rfl rfl (.inr (by simp [hm])) (.inr ht)) (fixedLen_iff 8 e hl))
    have queues := jog_queues e via (entered clk s via e) hd
    simp only [objsOf] at queues
    obtain ⟨v, hmoves, hout, hv⟩ := queues hc hlo hhi h0 hs
    obtain ⟨w, hprof, ho, ha, _, hout', _⟩ := queueMove_queues v (originOf e) [le (entryArgs e) 0 1] _
    exact ⟨_, w, run.trans (congrArg Host.Outcome.next hv), by rw [hprof]; simp [hmoves], ho, ha, by rw [hout', hout, entered_out]⟩
  case stop =>
    intro hk
    have run : exec (.stopMove clk e0) s = .next (stopMove e via (entered clk s via e)) := congrArg Host.Outcome.next
      (command_runs _ _ _ _ clk e0 e via s h (privJudge _ _ clk s via e hp rfl rfl (.inr hm) (.inl rfl)) (fixedLen_iff 2 e hl))
    rw [stopMove_queues e via _ hd (by rw [objsOf]; exact hk)] at run
    exact ⟨_, run, by simp, by simp⟩
  case teach =>
    intro ha hpr
    have run : exec (.teach clk e0) s = .next (teach e via (entered clk s via e)) := congrArg Host.Outcome.next
      (command_runs _ _ _ _ clk e0 e via s h (privJudge _ _ clk s via e hp rfl rfl (.inr (by simp [hm])) (.inr ht)) (fixedLen_iff 1 e hl))
    rw [teach_queues e via _ hd hf ha (by rw [objsOf]; exact hpr)] at run
    exact ⟨_, run, by simp, by simp⟩

/-! ### Zones (R200 to R204) -/

theorem blockDown_of {s t : State} (hm : t.mode = s.mode) (hc : t.clocks = s.clocks) (hp : t.power = s.power) (r b d : Nat) :
    blockDown t r b d = blockDown s r b d := by
  unfold blockDown isolated gated domainOn
  rw [hm, hc, hp]

theorem zoneRequest_queues (e : Entry) (via : Transport) (u : State) (hd : blockDown u 2 4 7 = false)
    (hok : zoneRequestOk u (le (entryArgs e) 0 1) (le (entryArgs e) 1 1) (le (entryArgs e) 8 8) (le (entryArgs e) 16 8) = true)
    (hroom : bit (le (entryArgs e) 3 1) 0 = true → pendingCount u < 512) :
    zoneRequest e via u = withPiste u (fun q => { q with
      orderCount := q.orderCount + 1
      requests := q.requests ++ [{ origin := some (originOf e), arm := le (entryArgs e) 0 1, zone := le (entryArgs e) 1 1
                                   priority := le (entryArgs e) 2 1, wait := bit (le (entryArgs e) 3 1) 0, start := le (entryArgs e) 8 8
                                   finish := le (entryArgs e) 16 8, at_ := now u, order := q.orderCount }] }) := by
  have room : ¬(bit (le (entryArgs e) 3 1) 0 && decide (512 ≤ pendingCount u)) = true := by
    simpa using fun h => hroom h
  unfold zoneRequest
  dsimp only
  rw [if_neg (by simp [hok]), if_neg (by simp [hd]), if_neg room]

theorem zoneExtend_queues (e : Entry) (via : Transport) (u : State) (l : Lease) (hd : blockDown u 2 4 7 = false)
    (hl : u.piste.leases.find? (fun l => l.id = le (entryArgs e) 0 4) = some l) (h1 : l.finish < le (entryArgs e) 8 8)
    (h2 : le (entryArgs e) 8 8 - l.finish ≤ 2000000000) :
    zoneExtend e via u = withPiste u (fun q => { q with
      orderCount := q.orderCount + 1
      extensions := q.extensions ++ [{ origin := some (originOf e), arm := l.arm, lease := l.id, newEnd := le (entryArgs e) 8 8
                                       at_ := now u, order := q.orderCount }] }) := by
  have inRange : ¬(le (entryArgs e) 8 8 ≤ l.finish || 2000000000 < le (entryArgs e) 8 8 - l.finish) = true := by
    simp only [Bool.or_eq_true, decide_eq_true_eq]
    omega
  unfold zoneExtend
  dsimp only
  rw [hl]
  exact (if_neg inRange).trans (if_neg (by simp [hd]))

theorem zoneRelease_queues (e : Entry) (via : Transport) (u : State) (l : Lease) (hd : blockDown u 2 4 7 = false)
    (hl : l ∈ u.piste.leases) (hid : l.id = le (entryArgs e) 0 4) (hp : armPresent u.objs l.arm = true) :
    zoneRelease e via u =
      complete (withPiste u (fun q => { q with releases := q.releases ++ [(le (entryArgs e) 0 4, now u)] })) (originOf e) stOk := by
  have known : u.piste.leases.any (fun l => l.id = le (entryArgs e) 0 4 && armPresent u.objs l.arm) = true :=
    List.any_eq_true.2 ⟨l, hl, by simp [hid, hp]⟩
  unfold zoneRelease
  dsimp only
  rw [if_neg (by simp [known]), if_neg (by simp [hd])]

/-! ### Paths (R162) -/

theorem pathRequest_queues (e : Entry) (via : Transport) (u : State) :
    let a := entryArgs e
    let pts := pathPoints a (le a 2 2)
    (plannedArms u.objs).contains (le a 0 1) = true → 1 ≤ le a 2 2 → le a 2 2 ≤ 256 →
    (pts.drop 1).all (fun p => p.1 != 0) = true → pts.all (fun p => pointOk u (le a 0 1) p.2) = true →
    (if bit (le a 1 1) 0 then 0 else pathLevel u (le a 0 1)) + le a 2 2 ≤ 1024 →
    pathRequest e via u = withPlan u (fun p => { p with
      waits := p.waits ++ [{ origin := originOf e, arm := le a 0 1, replace := bit (le a 1 1) 0, pathId := le a 4 4, at_ := now u, points := pts }] }) := by
  intro a pts ha h1 h256 hz hok hfit
  have later : (pts.drop 1).any (fun p => p.1 = 0) = false := by
    simpa [List.any_eq_false, List.all_eq_true] using hz
  have refused : ¬(!(plannedArms u.objs).contains (le a 0 1) || le a 2 2 = 0 || 256 < le a 2 2 || (pts.drop 1).any (fun p => p.1 = 0) ||
      !pts.all (fun p => pointOk u (le a 0 1) p.2)) = true := by
    rw [ha, later, hok]
    simp
    omega
  unfold pathRequest
  exact (if_neg refused).trans (if_neg (Nat.not_lt.2 hfit))

/-- Settles O35: the zone commands wait for the pass, the path for the snapshot. -/
theorem zonesAndPathsWait : Obligations.ZonesAndPathsWait := by
  unfold Obligations.ZonesAndPathsWait
  refine ⟨fun clk e0 e via s hp ht hm hd => ⟨fun h hl hok hroom => ?request, fun l h hl hf h1 h2 => ?extend, fun l hlm h hl hid hpr => ?release⟩,
    fun clk e0 e via s h hp hm hl ha h1 h256 hz hok hfit => ?path⟩
  case path =>
    have objsOf : (entered clk s via e).objs = s.objs := entered_objs ..
    have run : exec (.pathRequest clk e0) s = .next (pathRequest e via (entered clk s via e)) := congrArg Host.Outcome.next
      (command_runs _ _ _ _ clk e0 e via s h (privJudge _ _ clk s via e hp rfl rfl (.inr (by simp [hm])) (.inl rfl)) (by simp [hl]))
    rw [pathRequest_queues e via _ (by rw [objsOf]; exact ha) h1 h256 hz hok hfit] at run
    exact ⟨_, run, by simp, by simp [withPlan], by simp⟩
  all_goals have down : blockDown (entered clk s via e) 2 4 7 = false := (blockDown_of (by simp) (by simp) (by simp) 2 4 7).trans hd
  case request =>
    have run : exec (.zoneRequest clk e0) s = .next (zoneRequest e via (entered clk s via e)) := congrArg Host.Outcome.next
      (command_runs _ _ _ _ clk e0 e via s h (privJudge _ _ clk s via e hp rfl rfl (.inr hm) (.inr ht)) (fixedLen_iff 24 e hl))
    rw [zoneRequest_queues e via _ down hok (by simpa [pendingCount] using hroom)] at run
    exact ⟨_, _, run, by simp, by simp, by simp; rfl, rfl, rfl, rfl, rfl, rfl, rfl, rfl, entered_now clk s via e⟩
  case extend =>
    have run : exec (.zoneExtend clk e0) s = .next (zoneExtend e via (entered clk s via e)) := congrArg Host.Outcome.next
      (command_runs _ _ _ _ clk e0 e via s h (privJudge _ _ clk s via e hp rfl rfl (.inr hm) (.inr ht)) (fixedLen_iff 16 e hl))
    rw [zoneExtend_queues e via _ l down (by simpa using hf) h1 h2] at run
    have lease : l.id = le (entryArgs e) 0 4 := by simpa using List.find?_some hf
    exact ⟨_, _, run, by simp, by simp, by simp; rfl, rfl, lease, rfl⟩
  case release =>
    have run : exec (.zoneRelease clk e0) s = .next (zoneRelease e via (entered clk s via e)) := congrArg Host.Outcome.next
      (command_runs _ _ _ _ clk e0 e via s h (privJudge _ _ clk s via e hp rfl rfl (.inr hm) (.inr ht)) (fixedLen_iff 4 e hl))
    rw [zoneRelease_queues e via _ l down (by simpa using hlm) hid (by simpa using hpr)] at run
    exact ⟨_, run, by simp [complete_frame], posts_complete _ e _ _ h.unsealed⟩

end Sys2Proof.Machine
end

section
/-! Proofs about captures and logs (17_acquisition_and_logs.md R364 to R379). -/

namespace Sys2Proof.Machine

theorem everyMode_but_boot (m : Mode) (h : m ≠ .boot) : ([.configure, .commission, .run, .hold, .fault] : List Mode).contains m = true := by
  cases m with
  | boot => exact absurd rfl h
  | _ => rfl

theorem entered_acqDown (clk : Nat) (s : State) (via : Transport) (e : Entry) : acqDown (entered clk s via e) = acqDown s :=
  blockDown_of (by simp) (by simp) (by simp) 4 3 13

/-! ### ACQ_ARM (R367) -/

/-- The capture ID of an ACQ_ARM, which is a new one where the action starts a capture. -/
def armId (u : State) (starts : Bool) : Nat := if starts then u.acq.lastId + 1 else u.acq.lastId

/-- An ACQ_ARM is queued for the next tick start. -/
def armQueued (u : State) (starts : Bool) (action : Nat) : State :=
  { u with acq := { u.acq with lastId := armId u starts, actions := u.acq.actions ++ [{ kind := action, captureId := armId u starts }] } }

theorem acqArm_queues (e : Entry) (via : Transport) (u : State) (starts : Bool)
    (hs : starts = true ↔ le (entryArgs e) 0 1 = 0 ∨ (le (entryArgs e) 0 1 = 1 ∧ acqAhead u ≠ .armed ∧ acqAhead u ≠ .triggered))
    (h3 : le (entryArgs e) 0 1 < 3) (hd : acqDown u = false) (hok : starts = true → armOk u = true) :
    acqArm e via u = answer (armQueued u starts (le (entryArgs e) 0 1)) e stOk
      (leBytes 4 (armId u starts) ++ leBytes 4 0 ++ leBytes 8 (nextTick u)) := by
  have judged : (le (entryArgs e) 0 1 = 0 || (le (entryArgs e) 0 1 = 1 && acqAhead u != .armed && acqAhead u != .triggered)) = starts := by
    rw [Bool.eq_iff_iff, hs]
    simp [and_assoc]
  have kind : (if (starts && decide (le (entryArgs e) 0 1 = 1)) = true then 1 else le (entryArgs e) 0 1) = le (entryArgs e) 0 1 := by
    split <;> simp_all
  unfold acqArm
  dsimp only
  rw [judged, if_neg (by cases starts <;> simp_all), if_neg (by simp [hd]), kind]
  rfl

theorem answer_acq (s : State) (e : Entry) (status : Nat) (result : Bytes) : (answer s e status result).acq = s.acq := by
  unfold answer
  split <;> exact complete_acq ..

theorem exec_acqArm_admitted (clk : Nat) (e0 e : Entry) (via : Transport) (s : State) (h : Admitted (begin clk s) 0x0060 e0 via e)
    (hp : Privileged (begin clk s) e) (hm : s.mode.mode ≠ .boot) (hl : (entryArgs e).length = 4) :
    exec (.acqArm clk e0) s = .next (acqArm e via (entered clk s via e)) :=
  congrArg Host.Outcome.next (command_runs _ _ _ _ clk e0 e via s h
    (privJudge _ _ clk s via e hp rfl rfl (.inr (everyMode_but_boot _ hm)) (.inl rfl)) (fixedLen_iff 4 e hl))

/-! ### ACQ_READ (R372) -/

theorem acqRead_settles (e : Entry) (via : Transport) (u : State) (hd : acqDown u = false) (hf : resultFits e (le (entryArgs e) 4 4) = true)
    (hw : u.acq.waits = []) : acqRead e via u =
      settleReads { u with acq := { u.acq with waits := [{ origin := originOf e, offset := le (entryArgs e) 0 4, length := le (entryArgs e) 4 4 }] } } := by
  unfold acqRead
  dsimp only
  rw [if_neg (by simp [hd]), if_neg (by simp [hf]), hw]
  rfl

theorem acqRead_ended (e : Entry) (via : Transport) (u : State) (hd : acqDown u = false) (hf : resultFits e (le (entryArgs e) 4 4) = true)
    (hw : u.acq.waits = []) (hs : u.acq.capture.state = .done ∨ u.acq.capture.state = .aborted)
    (hb : le (entryArgs e) 0 4 + le (entryArgs e) 4 4 ≤ (captureBytes u.acq.capture).length) :
    acqRead e via u = complete u (originOf e) stOk (slice (captureBytes u.acq.capture) (le (entryArgs e) 0 4) (le (entryArgs e) 4 4)) := by
  have unchanged : ({ u with acq := { u.acq with waits := [] } } : State) = u := by rw [← hw]
  rw [acqRead_settles e via u hd hf hw]
  unfold settleReads
  rw [if_pos (by rcases hs with hs | hs <;> simp [hs])]
  show answerRead { u with acq := { u.acq with waits := [] } } _ = _
  rw [unchanged]
  unfold answerRead
  exact if_neg (Nat.not_lt.2 hb)

theorem acqRead_waits (e : Entry) (via : Transport) (u : State) (hd : acqDown u = false) (hf : resultFits e (le (entryArgs e) 4 4) = true)
    (hw : u.acq.waits = []) (hs : u.acq.capture.state = .triggered ∨ u.acq.capture.state = .armed) : acqRead e via u =
      { u with acq := { u.acq with waits := [{ origin := originOf e, offset := le (entryArgs e) 0 4, length := le (entryArgs e) 4 4 }] } } := by
  rw [acqRead_settles e via u hd hf hw]
  unfold settleReads
  exact if_neg (by rcases hs with hs | hs <;> simp [hs])

/-! ### LOG_READ (R379) -/

theorem joinBytes_length (n : Nat) (l : List Bytes) (h : ∀ b ∈ l, b.length = n) : (joinBytes l).length = n * l.length := by
  induction l with
  | nil => rfl
  | cons b l ih =>
    have hb := h b List.mem_cons_self
    have hl := ih (fun x hx => h x (List.mem_cons_of_mem _ hx))
    simp only [joinBytes, List.foldr_cons, List.length_append, List.length_cons] at hl ⊢
    rw [hb, hl]
    ring

theorem entryBytes_length (cls : Nat) (x : LogEntry) : (entryBytes cls x).length = 32 := by simp [entryBytes]

/-- Entries of a class that an acknowledgement leaves. -/
def keptEntries (u : State) (e : Entry) : List LogEntry :=
  let l := classEntries u (le (entryArgs e) 0 1)
  if bit (le (entryArgs e) 1 1) 0 then l.filter (fun x => !acked (le (entryArgs e) 4 4) x) else l

/-- What a LOG_READ consumes and marks lies in the logs alone. -/
theorem logRead_answers (e : Entry) (via : Transport) (u : State) (hc : le (entryArgs e) 0 1 < 3) (hn : le (entryArgs e) 2 2 ≤ 2048)
    (hu : e.udp = true → le (entryArgs e) 2 2 ≤ 32) (hf : resultFits e (32 * min (le (entryArgs e) 2 2) (keptEntries u e).length) = true) :
    ∃ v, v.mode = u.mode ∧ logRead e via u =
      answer v e stOk (joinBytes (((keptEntries u e).take (le (entryArgs e) 2 2)).map (entryBytes (le (entryArgs e) 0 1)))) := by
  have inRange : ¬(3 ≤ le (entryArgs e) 0 1 || 2048 < le (entryArgs e) 2 2 || (e.udp && 32 < le (entryArgs e) 2 2)) = true := by
    simp [hc, hn]
    exact hu
  have fits : ¬(!resultFits e (32 * min (le (entryArgs e) 2 2) (keptEntries u e).length)) = true := by simp [hf]
  unfold logRead
  refine ⟨_, ?_, (if_neg inRange).trans (if_neg fits)⟩
  exact (apply_ite State.mode _ _ _).trans (ite_self u.mode)

/-! ### ACQ_SAMPLE (R364, R366, R370) -/

/-- All rows from the trigger onward are in. -/
def captureFull (c : Capture) : Bool := c.trigIndex.any (fun k0 => decide (k0 + postRows c ≤ c.next))

/-- The index of the next sample follows. -/
def nextSample (s : State) : State := withCapture s (fun c => { c with next := c.next + 1 })

/-- The value of the trigger signal at the next sample. -/
def triggerValue (s : State) : Option F64 :=
  if 1 ≤ ao0 s 6 && ao0 s 6 ≤ 3 then
    (if sigKind (nth 0 s.acq.capture.signals (ao0 s 7)) = 0 then none
     else some (sampleSignal s s.acq.capture.fast (nth 0 s.acq.capture.signals (ao0 s 7))).2)
  else none

/-- The trigger signal of the sample is noted. -/
def notedSample (s : State) : State :=
  withCapture s (fun c => { c with lastValue := triggerValue s, events := c.events.filter (fun e => e.force) })

/-- A sample of a TRIGGERED capture stores its row. -/
theorem takeSample_triggered (s : State) (room : Bool) (ht : s.acq.capture.state = .triggered) (hf : captureFull s.acq.capture = false) :
    takeSample s room =
      let s4 := nextSample (storeRow (notedSample s) room (sampleRow (notedSample s) (notedSample s).acq.capture))
      if captureBusy s4 && captureFull s4.acq.capture then captureEnds s4 .done else s4 := by
  have unarmed : ¬(s.acq.capture.state == AcqMode.armed) = true := by simp [ht]
  unfold takeSample
  dsimp only
  rw [if_neg unarmed]
  exact if_neg (show ¬captureFull s.acq.capture = true by simp [hf])

theorem storeRow_room (s : State) (row : Bytes) (ht : s.acq.capture.state = .triggered) :
    storeRow s true row = withCapture s (fun c => { c with rows := c.rows ++ [(c.next, row)] }) := by
  unfold storeRow
  simp [ht, withCapture]

theorem storeRow_gap (s : State) (row : Bytes) (gs : List (Nat × Nat × Bool)) (h : gapRow false s.acq.capture.gaps s.acq.capture.next = some gs) :
    storeRow s false row = withCapture s (fun c => { c with gaps := gs }) := by
  unfold storeRow
  simp [h]

theorem settleReads_capture (s : State) : (settleReads s).acq.capture = s.acq.capture := by
  unfold settleReads
  split
  · have answered : ∀ (s : State) (w : AcqWait), (answerRead s w).acq.capture = s.acq.capture := by
      intro s w
      unfold answerRead
      dsimp only
      split <;> simp
    exact foldl_keeps answerRead (·.acq.capture) answered _ _
  · rfl

theorem captureEnds_capture (s : State) (how : AcqMode) :
    (captureEnds s how).acq.capture = { s.acq.capture with state := how, events := [] } := by
  unfold captureEnds
  dsimp only
  rw [settleReads_capture]
  split <;> simp [setInt_frame, bump_frame, withCapture]

theorem exec_acqSample_due (clk : Nat) (room : Bool) (s : State) (hs : s.acq.capture.state = .triggered)
    (ht : s.acq.capture.t0 + s.acq.capture.next * s.acq.capture.period ≤ now (begin clk s)) (hd : acqDown s = false) :
    exec (.acqSample clk room) s = .next (takeSample (begin clk s) room) := by
  have acqOf : (begin clk s).acq = s.acq := by simp [begin_frame]
  have down : acqDown (begin clk s) = false :=
    (blockDown_of (by simp [begin_frame]) (by simp [begin_frame]) (by simp [begin_frame]) 4 3 13).trans hd
  have due : (captureBusy (begin clk s) && decide ((begin clk s).acq.capture.t0 + (begin clk s).acq.capture.next * (begin clk s).acq.capture.period
      ≤ now (begin clk s)) && !acqDown (begin clk s)) = true := by
    rw [acqOf, decide_eq_true ht, down]
    simp [captureBusy, acqOf, hs]
  exact congrArg Host.Outcome.next (if_pos due)

/-- Settles O36: each command and each sample, by the state of the capture. -/
theorem capturesTaken : Obligations.CapturesTaken := by
  unfold Obligations.CapturesTaken
  refine ⟨fun clk e0 e via s ho hm => ⟨fun h hp hl hd h3 hok => ?arm,
    fun h hl hb hd hf hw => ⟨fun hs hlen => ?ended, fun hs => ?waits⟩, fun h hl hb hc hn hu hf => ?log⟩,
    fun clk k0 room s hs hk ht hd => ⟨fun hnext hroom => ?goesOn, fun hnext hroom => ?last⟩⟩
  case arm =>
    have aheadOf : acqAhead (entered clk s via e) = acqAhead s := by unfold acqAhead; rw [entered_acq]
    have acqOf : (entered clk s via e).acq = s.acq := entered_acq ..
    have armed : ∀ starts : Bool,
        (starts = true ↔ le (entryArgs e) 0 1 = 0 ∨ (le (entryArgs e) 0 1 = 1 ∧ acqAhead s ≠ .armed ∧ acqAhead s ≠ .triggered)) →
        ∃ t, exec (.acqArm clk e0) s = .next t ∧ t.acq.lastId = (if starts then s.acq.lastId + 1 else s.acq.lastId) ∧
          t.acq.actions = s.acq.actions ++ [{ kind := le (entryArgs e) 0 1, captureId := if starts then s.acq.lastId + 1 else s.acq.lastId }] ∧
          t.acq.capture = s.acq.capture ∧ Posts t e 0x0000
            (leBytes 4 (if starts then s.acq.lastId + 1 else s.acq.lastId) ++ leBytes 4 0 ++ leBytes 8 (nextTick (entered clk s via e))) := by
      intro starts hs
      have run := exec_acqArm_admitted clk e0 e via s h hp hm hl
      rw [acqArm_queues e via _ starts (by rw [aheadOf]; exact hs) h3 ((entered_acqDown ..).trans hd) (fun hst => hok (hs.1 hst))] at run
      refine ⟨_, run, ?_, ?_, ?_, ?_⟩
      · rw [answer_acq]; simp [armQueued, armId]
      · rw [answer_acq]; simp [armQueued, armId]
      · rw [answer_acq]; simp [armQueued]
      · refine posts_as (posts_answer _ e _ _ h.unsealed (resultFits_short e _ (by simp))) rfl ?_
        rw [armId, acqOf]
    by_cases starts : le (entryArgs e) 0 1 = 0 ∨ (le (entryArgs e) 0 1 = 1 ∧ acqAhead s ≠ .armed ∧ acqAhead s ≠ .triggered)
    case pos => simpa [starts] using armed true (by simp [starts])
    case neg => simpa [starts] using armed false (by simp [starts])
  case ended =>
    have run : exec (.acqRead clk e0) s = .next (acqRead e via (entered clk s via e)) := congrArg Host.Outcome.next
      (command_runs _ _ _ _ clk e0 e via s h (openJudge _ clk s via e ho rfl rfl (.inr (everyMode_but_boot _ hm)) (.inl rfl))
        (by rw [fixedLen_iff 8 e hl, hb]; rfl))
    rw [acqRead_ended e via _ ((entered_acqDown ..).trans hd) hf (by simpa using hw) (by simpa using hs) (by simpa using hlen)] at run
    exact ⟨_, run, by simp, posts_as (posts_complete _ e _ _ h.unsealed) rfl (by rw [entered_acq])⟩
  case waits =>
    have run : exec (.acqRead clk e0) s = .next (acqRead e via (entered clk s via e)) := congrArg Host.Outcome.next
      (command_runs _ _ _ _ clk e0 e via s h (openJudge _ clk s via e ho rfl rfl (.inr (everyMode_but_boot _ hm)) (.inl rfl))
        (by rw [fixedLen_iff 8 e hl, hb]; rfl))
    rw [acqRead_waits e via _ ((entered_acqDown ..).trans hd) hf (by simpa using hw) (by simpa using hs)] at run
    exact ⟨_, run, by simp, by simp⟩
  case log =>
    have run : exec (.logRead clk e0) s = .next (logRead e via (entered clk s via e)) := congrArg Host.Outcome.next
      (command_runs _ _ _ _ clk e0 e via s h (openJudge _ clk s via e ho rfl rfl (.inr (everyMode_but_boot _ hm)) (.inl rfl))
        (by rw [fixedLen_iff 8 e hl]; by_cases h1 : le (entryArgs e) 2 2 ≤ 1 <;> simp [h1]; exact hb (by omega)))
    obtain ⟨v, hmode, hv⟩ := logRead_answers e via (entered clk s via e) hc hn hu hf
    refine ⟨_, run.trans (congrArg Host.Outcome.next hv), posts_answer v e _ _ (hmode ▸ h.unsealed) ?_⟩
    have each : ∀ b ∈ ((keptEntries (entered clk s via e) e).take (le (entryArgs e) 2 2)).map (entryBytes (le (entryArgs e) 0 1)),
        b.length = 32 := by
      intro b hb
      obtain ⟨x, _, rfl⟩ := List.mem_map.1 hb
      exact entryBytes_length _ x
    rw [joinBytes_length 32 _ each, List.length_map, List.length_take]
    exact hf
  all_goals
    have acqOf : (begin clk s).acq = s.acq := by simp [begin_frame]
    have run := exec_acqSample_due clk room s hs ht hd
    rw [takeSample_triggered (begin clk s) room (by rw [acqOf]; exact hs)
      (by rw [acqOf]; simp only [captureFull, hk, Option.any_some]; exact decide_eq_false (by omega))] at run
    have stateOf : (notedSample (begin clk s)).acq.capture.state = .triggered := (congrArg (·.capture.state) acqOf).trans hs
    have nextOf : (notedSample (begin clk s)).acq.capture.next = s.acq.capture.next := congrArg (·.capture.next) acqOf
    have rowsOf : (notedSample (begin clk s)).acq.capture.rows = s.acq.capture.rows := congrArg (·.capture.rows) acqOf
    have gapsOf : (notedSample (begin clk s)).acq.capture.gaps = s.acq.capture.gaps := congrArg (·.capture.gaps) acqOf
    have trigOf : (notedSample (begin clk s)).acq.capture.trigIndex = some k0 := (congrArg (·.capture.trigIndex) acqOf).trans hk
    have postOf : postRows (notedSample (begin clk s)).acq.capture = postRows s.acq.capture := congrArg (fun a => postRows a.capture) acqOf
    generalize notedSample (begin clk s) = n at run stateOf nextOf rowsOf gapsOf trigOf postOf
  case goesOn =>
    have opens : ∀ x : State, x.acq.capture.trigIndex = n.acq.capture.trigIndex → postRows x.acq.capture = postRows n.acq.capture →
        x.acq.capture.next = n.acq.capture.next + 1 → ¬(captureBusy x && captureFull x.acq.capture) = true := by
      intro x h1 h2 h3
      have notFull : captureFull x.acq.capture = false := by
        simp only [captureFull, h1, h2, h3, trigOf, postOf, nextOf, Option.any_some]
        exact decide_eq_false (by omega)
      simp [notFull]
    cases room with
    | true =>
      rw [storeRow_room _ _ stateOf] at run
      dsimp only at run
      rw [if_neg (by apply opens <;> rfl)] at run
      exact ⟨_, run, congrArg (· + 1) nextOf, stateOf, fun _ => ⟨_, by rw [← rowsOf, ← nextOf]; rfl⟩, fun h => Bool.noConfusion h⟩
    | false =>
      obtain ⟨gs, hg⟩ := hroom.resolve_left (by simp)
      rw [storeRow_gap _ _ gs (by rw [gapsOf, nextOf]; exact hg)] at run
      dsimp only at run
      rw [if_neg (by apply opens <;> rfl)] at run
      exact ⟨_, run, congrArg (· + 1) nextOf, stateOf, fun h => Bool.noConfusion h, fun _ => ⟨rowsOf, hg⟩⟩
  case last =>
    subst hroom
    rw [storeRow_room _ _ stateOf] at run
    generalize hr : sampleRow n n.acq.capture = row at run
    generalize hx : nextSample (withCapture n fun c => { c with rows := c.rows ++ [(c.next, row)] }) = x at run
    have captureOf : x.acq.capture = { n.acq.capture with rows := n.acq.capture.rows ++ [(n.acq.capture.next, row)], next := n.acq.capture.next + 1 } := by
      rw [← hx]
      rfl
    have ends : (captureBusy x && captureFull x.acq.capture) = true := by
      have full : captureFull x.acq.capture = true := by
        simp only [captureFull, captureOf, trigOf, Option.any_some]
        exact decide_eq_true (by show k0 + postRows n.acq.capture ≤ _; rw [postOf, nextOf]; omega)
      rw [full, captureBusy, captureOf, stateOf]
      rfl
    dsimp only at run
    rw [if_pos ends] at run
    refine ⟨_, row, run, by rw [captureEnds_capture], ?_⟩
    rw [captureEnds_capture, captureOf, ← rowsOf, ← nextOf]

end Sys2Proof.Machine
end

section
/-! Proofs about attestation, key enrolment and the rescue loader (20_security.md R417 to R427; 02_modes_and_start.md R51). -/

namespace Sys2Proof.Machine

/-! ### Bytes -/

theorem slice_length (b : Bytes) (o n : Nat) : (slice b o n).length = n := by
  unfold slice zeros
  simp

/-- A result as long as the BULK_LEN of an admitted entry fits its window (R57). -/
theorem Admitted.bulk_fits {s : State} {op : Nat} {e0 e : Entry} {via : Transport} (h : Admitted s op e0 via e) (hb : bulkOut e = true) :
    resultFits e e.bulkLen = true := by
  have fits := h.fits
  unfold lengthsFit at fits
  unfold bulkOut at hb
  unfold resultFits bulkOut
  rw [hb] at fits ⊢
  cases hu : e.udp <;> simp_all

theorem bit_low (v : Nat) (h : v % 4 = 0) : bit v 0 = false ∧ bit v 1 = false := by
  unfold bit
  constructor
  · simp; omega
  · simp; omega

/-! ### Attestation (R425 to R427) -/

theorem indexMode_of {s t : State} (h : t.sec.index = s.sec.index) : indexMode t = indexMode s := by unfold indexMode; rw [h]

theorem attest_new (e : Entry) (via : Transport) (ok : Bool) (u : State) (hf : le (entryArgs e) 0 1 % 4 = 0)
    (hr : le (entryArgs e) 4 4 + e.bulkLen ≤ 3532) : attest ok e via u = newReport e (le (entryArgs e) 4 4) ok u := by
  obtain ⟨h0, h1⟩ := bit_low _ hf
  unfold attest
  dsimp only
  rw [if_neg (by simp [h0]), if_neg (by simp [h1]), if_neg (by omega)]

/-- The report that a session asks for, over the state in which its index is reserved. -/
def signedReport (e : Entry) (u v : State) : Bytes :=
  reportBody v ((mbx u e.mbx).state == .privileged) (slice (entryArgs e) 8 32) ++ identitySignature v

theorem newReport_signs (e : Entry) (off : Nat) (ok : Bool) (u v : State) (hm : indexMode u = .ready) (hr : reserveIndex u ok = (v, true)) :
    ∃ w, newReport e off ok u = answer w e stOk (slice (signedReport e u v) off e.bulkLen) ∧ w.mode = v.mode ∧ w.aon = v.aon ∧
      w.sec = { v.sec with
        index := { v.sec.index with next := v.sec.index.next + 1, treeReady := v.sec.index.treeReady && (v.sec.index.next + 1) % 32768 != 0 }
        reports := (v.sec.reports.filter (fun r => r.1 != e.mbx)) ++ [(e.mbx, signedReport e u v)] } := by
  unfold newReport
  dsimp only
  rw [if_neg (by simp [hm]), if_neg (by simp [hm]), hr]
  exact ⟨_, rfl, rfl, rfl, rfl⟩

theorem newReport_fails (e : Entry) (off : Nat) (u v : State) (hm : indexMode u = .ready) (hr : reserveIndex u false = (v, false)) :
    ∃ w b, newReport e off false u = complete w (originOf e) stInternalError b ∧ w.mode = v.mode ∧ w.aon = v.aon ∧ w.sec = v.sec := by
  unfold newReport
  dsimp only
  rw [if_neg (by simp [hm]), if_neg (by simp [hm]), hr]
  exact ⟨_, _, rfl, rfl, rfl, rfl⟩

theorem newReport_unready (e : Entry) (off : Nat) (ok : Bool) (u : State) :
    (indexMode u = .lost ∨ indexMode u = .exhausted → newReport e off ok u = complete u (originOf e) stExhausted) ∧
    (indexMode u = .preparing → newReport e off ok u = complete u (originOf e) stBusy) := by
  refine ⟨fun h => if_pos (by simpa using h), fun h => ?_⟩
  unfold newReport
  dsimp only
  rw [if_neg (by simp [h]), if_pos h]

theorem reserveIndex_held (u : State) (ok : Bool) (h : u.sec.index.next < u.sec.index.reservedEnd) : reserveIndex u ok = (u, true) := if_pos h

theorem reserveIndex_next (u : State) (ok : Bool) (h : u.sec.index.reservedEnd ≤ u.sec.index.next) : ∃ v, reserveIndex u ok = (v, ok) ∧
    v.mode = u.mode ∧ v.aon.reservedEnd = some (u.sec.index.reservedEnd + 256) ∧
    (ok = true → v.sec = { u.sec with
      norReserved := some (u.sec.index.reservedEnd + 256), index := { u.sec.index with reservedEnd := u.sec.index.reservedEnd + 256 } }) ∧
    (ok = false → v.sec = u.sec) := by
  unfold reserveIndex
  dsimp only
  rw [if_neg (by omega)]
  cases ok
  · exact ⟨_, rfl, rfl, rfl, fun h => Bool.noConfusion h, fun _ => rfl⟩
  · exact ⟨_, rfl, rfl, rfl, fun _ => rfl, fun h => Bool.noConfusion h⟩

/-- Settles O37: an index that is reserved signs; the next reservation comes first; a store that is not READY signs nothing. -/
theorem attestSigns : Obligations.AttestSigns := by
  unfold Obligations.AttestSigns
  intro clk e0 e via ok s h ho hm hb hl hfl hr u off
  have secOf : u.sec = s.sec := entered_sec ..
  have modeOf : indexMode u = indexMode s := indexMode_of (by rw [secOf])
  have run : exec (.attest clk e0 ok) s = .next (attest ok e via u) := congrArg Host.Outcome.next
    (command_runs _ _ _ _ clk e0 e via s h (openJudge _ clk s via e ho rfl rfl (.inr (everyMode_but_boot _ hm)) (.inl rfl))
      (by rw [fixedLen_iff 40 e hl, hb]; rfl))
  rw [attest_new e via ok u hfl hr] at run
  have fits : ∀ b : Bytes, resultFits e (slice b off e.bulkLen).length = true := fun b => by
    rw [slice_length]
    exact h.bulk_fits hb
  have secUnchanged : ∀ status, (complete u (originOf e) status).sec = s.sec := fun status => by simp [complete_frame, secOf]
  refine ⟨fun hrd hn => ?held, fun hrd hn => ?reserves, fun hlost => ?lost, fun hprep => ?preparing⟩
  case held =>
    obtain ⟨w, hw, hmode, haon, hsec⟩ := newReport_signs e off ok u u (modeOf.trans hrd) (reserveIndex_held u ok (by rw [secOf]; exact hn))
    refine ⟨_, identitySignature u, run.trans (congrArg Host.Outcome.next hw), by simp [identitySignature], ?_, ?_, ?_, ?_,
      posts_answer w e _ _ (hmode ▸ h.unsealed) (fits _)⟩
    · simp [answer_frame, hsec, secOf]
    · simp [answer_frame, hsec, secOf]
    · simp [answer_frame, haon, u, begin_aon]
    · simp [answer_frame, hsec, signedReport]
  case reserves =>
    obtain ⟨v, hv, hvmode, hvaon, hgood, hbad⟩ := reserveIndex_next u ok (by rw [secOf]; exact hn)
    cases ok with
    | true =>
      obtain ⟨w, hw, hmode, haon, hsec⟩ := newReport_signs e off true u v (modeOf.trans hrd) hv
      refine ⟨_, run.trans (congrArg Host.Outcome.next hw), ?_, fun _ => ?_, fun hf => Bool.noConfusion hf⟩
      · simp [answer_frame, haon, hvaon, secOf]
      · simp [answer_frame, hsec, hgood rfl, secOf]
    | false =>
      obtain ⟨w, b, hw, hmode, haon, hsec⟩ := newReport_fails e off u v (modeOf.trans hrd) hv
      refine ⟨_, run.trans (congrArg Host.Outcome.next hw), ?_, fun hf => Bool.noConfusion hf, fun _ => ⟨?_, b, posts_complete w e _ _ ?_⟩⟩
      · simp [complete_frame, haon, hvaon, secOf]
      · simp [complete_frame, hsec, hbad rfl, secOf]
      · rw [hmode, hvmode]
        exact h.unsealed
  case lost =>
    rw [(newReport_unready e _ ok u).1 (by rw [modeOf]; exact hlost)] at run
    exact ⟨_, run, secUnchanged _, posts_complete u e _ _ h.unsealed⟩
  case preparing =>
    rw [(newReport_unready e _ ok u).2 (modeOf.trans hprep)] at run
    exact ⟨_, run, secUnchanged _, posts_complete u e _ _ h.unsealed⟩

/-! ### Key enrolment (R420, R422) -/

/-- A KEY_ENROL whose arguments are in range changes its slot, where SW1.1 is ON and its slot may be set. -/
theorem keyEnrol_enrols (e : Entry) (via : Transport) (u : State) (h1 : 1 ≤ le (entryArgs e) 0 1) (h4 : le (entryArgs e) 0 1 ≤ 4)
    (hl : (entryArgs e).length = enrolLength (le (entryArgs e) 0 1))
    (hok : enrolOk (le (entryArgs e) 0 1) (le (entryArgs e) 1 1) (le (entryArgs e) 2 2) (entryArgs e) = true) :
    (seal11 u = true → (le (entryArgs e) 0 1 = 1 → nth none u.sec.customer (le (entryArgs e) 1 1) = none) →
      keyEnrol e via u = complete (enrol u (le (entryArgs e) 0 1) (le (entryArgs e) 1 1) (le (entryArgs e) 2 2) ((entryArgs e).drop 8)
        (mbx u e.mbx).sk e.txid) (originOf e) stOk) ∧
    (seal11 u = false → keyEnrol e via u = complete u (originOf e) stPrecondition) := by
  have known : ¬(decide (le (entryArgs e) 0 1 < 1) || decide (4 < le (entryArgs e) 0 1)) = true := by
    simp only [Bool.or_eq_true, decide_eq_true_eq]
    omega
  refine ⟨fun hs hfree => ?_, fun hs => ?_⟩
  all_goals
    unfold keyEnrol
    dsimp only
    rw [if_neg known, if_neg (by simp [hl]), if_neg (by simp [hok])]
  · rw [if_neg (by simp [hs]), if_neg]
    by_cases ha : le (entryArgs e) 0 1 = 1
    · simp [ha, hfree ha]
    · simp [ha]
  · rw [if_pos (by simp [hs])]

theorem entered_sk (clk : Nat) (s : State) (via : Transport) (e : Entry) (h : e.mbx < s.zewen.mbx.length) :
    (mbx (entered clk s via e) e.mbx).sk = (mbx s e.mbx).sk := by
  rw [entered_mbx_same clk s via e h]

/-- Settles O38: each action where its arguments are in range, and none with SW1.1 OFF. -/
theorem keysEnrolled : Obligations.KeysEnrolled := by
  unfold Obligations.KeysEnrolled
  intro clk e0 e via s h hp hm a n done
  have run : exec (.keyEnrol clk e0) s = .next (keyEnrol e via (entered clk s via e)) := congrArg Host.Outcome.next
    (command_runs _ _ _ _ clk e0 e via s h (privJudge _ _ clk s via e hp rfl rfl (.inr (by simp [hm])) (.inl rfl)) rfl)
  have sealOf : seal11 (entered clk s via e) = seal11 s := by simp [seal11]
  have skOf := entered_sk clk s via e (by simpa using h.box)
  have enrolled : ∀ k, 1 ≤ le a 0 1 → le a 0 1 ≤ 4 → a.length = enrolLength (le a 0 1) → enrolOk (le a 0 1) n (le a 2 2) a = true →
      seal11 s = true → (le a 0 1 = 1 → nth none s.sec.customer n = none) →
      (enrol (entered clk s via e) (le a 0 1) n (le a 2 2) (a.drop 8) (mbx s e.mbx).sk e.txid).sec = k → done k := by
    intro k h1 h4 hl hok hs hfree hk
    rw [(keyEnrol_enrols e via _ h1 h4 hl hok).1 (sealOf.trans hs) (by simpa using hfree), skOf] at run
    refine ⟨_, run, by simpa [complete_frame] using hk, posts_complete _ e _ _ ?_⟩
    rw [(enrol_frame _ _ _ _ _ _ _).1]
    exact h.unsealed
  refine ⟨fun hs => ⟨fun hl ha hn hf hkey hfree => ?setCustomer, fun hl ha hn hf => ?clearCustomer, fun hl ha hn hn8 hf => ?setHmac,
    fun hl ha hn hn8 hf => ?clearHmac⟩, fun hs hl ha hf => ?sealed⟩
  case setCustomer =>
    exact enrolled _ (by omega) (by omega) (by rw [ha]; exact hl) (by simp [ha, enrolOk, hn, hf, hkey]) hs (fun _ => hfree)
      (by simp [ha, enrol, n, a])
  case clearCustomer =>
    exact enrolled _ (by omega) (by omega) (by rw [ha]; exact hl) (by simp [ha, enrolOk, hn, hf]) hs (fun h1 => by omega)
      (by simp [ha, enrol, n, a])
  case setHmac =>
    exact enrolled _ (by omega) (by omega) (by rw [ha]; exact hl) (by simp [ha, enrolOk, hn, hn8, hf]) hs (fun h1 => by omega)
      (by simp [ha, enrol, n, a])
  case clearHmac =>
    exact enrolled _ (by omega) (by omega) (by rw [ha]; exact hl) (by simp [ha, enrolOk, hn, hn8, hf]) hs (fun h1 => by omega)
      (by simp [ha, enrol, n, a])
  case sealed =>
    have action : (le a 0 1 = 2 ∨ le a 0 1 = 4) ∧ enrolLength (le a 0 1) = 8 ∧ enrolOk (le a 0 1) n (le a 2 2) a = true := by
      rcases ha with ⟨h2, hn⟩ | ⟨h4, hn, hn8⟩
      · exact ⟨.inl h2, by rw [h2]; rfl, by simp [h2, enrolOk, hn, hf]⟩
      · exact ⟨.inr h4, by rw [h4]; rfl, by simp [h4, enrolOk, hn, hn8, hf]⟩
    obtain ⟨hact, hlen, hok⟩ := action
    change le (entryArgs e) 0 1 = 2 ∨ le (entryArgs e) 0 1 = 4 at hact
    rw [(keyEnrol_enrols e via _ (by omega) (by omega) (hl.trans hlen.symm) hok).2 (sealOf.trans hs)] at run
    exact ⟨_, run, by simp [complete_frame], posts_complete _ e _ _ h.unsealed⟩

/-! ### The rescue loader (R51, R418) -/

theorem judge_loader (op : Nat) (u : State) (e : Entry) (hp : (mbx u e.mbx).state = .privileged) (hr : u.start.rescue = true) :
    judge (loaderSpec op) true u e = none := by
  simp [judge, loaderSpec, hp, hr]

theorem judge_loader_outside (op : Nat) (u : State) (e : Entry) (hp : (mbx u e.mbx).state = .privileged) (hr : u.start.rescue = false) :
    judge (loaderSpec op) true u e = some stModeRestricted := by
  simp [judge, loaderSpec, hp, hr]

/-- A loader command runs in a privileged session of a rescue start. -/
theorem command_loader (op : Nat) (lenOk : Entry → Bool) (body : Entry → Transport → State → State) (clk : Nat) (e0 e : Entry)
    (via : Transport) (s : State) (h : Admitted (begin clk s) op e0 via e) (hp : (mbx (begin clk s) e.mbx).state = .privileged)
    (hr : s.start.rescue = true) (hl : lenOk e = true) :
    command (loaderSpec op) (fun _ => true) lenOk body clk e0 s = body e via (entered clk s via e) :=
  command_runs _ _ _ _ clk e0 e via s h (judge_loader op _ e (by simpa using hp) (by simpa using hr)) hl

theorem loaderInfoBytes_of {s t : State} (h : t.sec = s.sec) : loaderInfoBytes t = loaderInfoBytes s := by
  unfold loaderInfoBytes firmware
  rw [h]

theorem recordBytes_length (r : StartRecord) (h : r.steps.length = 14) : (recordBytes r).length = 48 := by
  have steps : (joinBytes (r.steps.map (fun p => leBytes 1 p.1 ++ leBytes 1 (outcomeCode p.2)))).length = 2 * 14 := by
    rw [joinBytes_length 2 _ (by intro b hb; obtain ⟨p, _, rfl⟩ := List.mem_map.1 hb; simp), List.length_map, h]
  unfold recordBytes
  simp [steps]

theorem loaderWriteSlot_writes (e : Entry) (via : Transport) (u : State) (hs : le (inlineArgs e) 0 1 < 2)
    (hv : bit (le (inlineArgs e) 1 1) 0 = false) (h0 : 0 < le (inlineArgs e) 4 4) (hd : bulkData e ≠ [])
    (hmax : le (inlineArgs e) 4 4 + (bulkData e).length ≤ 4194304) : loaderWriteSlot e via u =
      complete (setFirmware u (le (inlineArgs e) 0 1) (fun f => { f with bytes := writeAt f.bytes (le (inlineArgs e) 4 4) (bulkData e) }))
        (originOf e) stOk := by
  have data : loaderData u (le (inlineArgs e) 0 1) (le (inlineArgs e) 4 4) (bulkData e) =
      setFirmware u (le (inlineArgs e) 0 1) (fun f => { f with bytes := writeAt f.bytes (le (inlineArgs e) 4 4) (bulkData e) }) := by
    unfold loaderData
    rw [if_neg (by simp [hd]), if_neg (by omega)]
  have inRange : ¬(decide (1 < le (inlineArgs e) 0 1) || decide (4194304 < le (inlineArgs e) 4 4 + (bulkData e).length)) = true := by
    simp only [Bool.or_eq_true, decide_eq_true_eq]
    omega
  unfold loaderWriteSlot
  dsimp only
  rw [if_neg inRange, data, if_pos (by simp [hv])]

/-- The restart leaves a record without failed starts, and resets the module. -/
theorem loaderRestart_resets (e : Entry) (via : Transport) (u : State) (hf : u.mode.resetFinal = false) :
    let t := loaderRestart e via u
    Posts t e 0x0000 [] ∧ Output.moduleReset ∈ t.out ∧ t.aon.record = some { u.start.record with consecFailed := 0 } ∧
      t.nor.record = some { u.start.record with consecFailed := 0 } ∧ t.mode.mode = .boot ∧ (∀ m, (mbx t m).state = .closed) ∧ t.cham = u.cham := by
  have recordOf : (complete u (originOf e) stOk).start = u.start := by simp [complete_frame]
  refine ⟨posts_mono (posts_complete u e stOk [] hf) ⟨[.moduleReset], rfl⟩, List.mem_append_right _ (List.mem_singleton.2 rfl), ?_, ?_, rfl,
    fun m => congrArg Mailbox.state (moduleReset_mbx _ m), ?_⟩
  · exact congrArg (fun b : StartState => some { b.record with consecFailed := 0 }) recordOf
  · exact congrArg (fun b : StartState => some { b.record with consecFailed := 0 }) recordOf
  · show (complete u (originOf e) stOk).cham = u.cham
    simp [complete_frame]

theorem indexTreeReady_ready (s : State) (h : indexMode s = .preparing) :
    indexMode (withSec s (fun k => { k with index := { k.index with treeReady := true } })) = .ready := by
  unfold indexMode at h ⊢
  simp only [withSec_sec]
  split at h
  · nomatch h
  · next hl =>
    rw [if_neg hl]
    split at h
    · nomatch h
    · next hx => rw [if_neg hx, if_true]

/-- Settles O39: the four commands of a rescue start, one outside, and the tree of the index store. -/
theorem loaderCommands : Obligations.LoaderCommands := by
  unfold Obligations.LoaderCommands
  refine ⟨fun clk e0 e via s hp hr => ⟨fun h hl => ?info, fun h hl hb hf hst => ?readRecord, fun h hl hs hv h0 hd hmax => ?writeSlot,
    fun h hl => ?restart⟩, fun clk e0 e via s h hp => ?outside, fun clk s hprep hseq hres => ?tree⟩
  case info =>
    have run : exec (.loaderInfo clk e0) s = .next _ := congrArg Host.Outcome.next (command_loader 0x00F0 (fixedLen 0)
      (fun e _ s => complete s (originOf e) stOk (loaderInfoBytes s)) clk e0 e via s h hp hr (fixedLen_iff 0 e hl))
    exact ⟨_, run, by simp [complete_frame], posts_as (posts_complete _ e _ _ h.unsealed) rfl (loaderInfoBytes_of (by simp))⟩
  case readRecord =>
    have run : exec (.loaderReadRecord clk e0) s = .next _ := congrArg Host.Outcome.next (command_loader 0x00F1 (fun e => fixedLen 0 e && bulkOut e)
      (fun e _ s => answer s e stOk (recordBytes s.start.record)) clk e0 e via s h hp hr (by rw [fixedLen_iff 0 e hl, hb]; rfl))
    refine ⟨_, run, by simp [answer_frame], posts_as (posts_answer _ e _ _ h.unsealed ?_) rfl (by simp)⟩
    rw [recordBytes_length _ (by simpa using hst)]
    exact hf
  case writeSlot =>
    have run : exec (.loaderWriteSlot clk e0) s = .next (loaderWriteSlot e via (entered clk s via e)) :=
      congrArg Host.Outcome.next (command_loader 0x00F2 (fun e => e.argLen == 8) loaderWriteSlot clk e0 e via s h hp hr (by simp [hl]))
    rw [loaderWriteSlot_writes e via _ hs hv h0 hd hmax] at run
    exact ⟨_, run, posts_complete _ e _ _ h.unsealed, by simp [complete_frame, setFirmware]⟩
  case restart =>
    have run : exec (.loaderRestart clk e0) s = .next (loaderRestart e via (entered clk s via e)) :=
      congrArg Host.Outcome.next (command_loader 0x00F3 (fixedLen 0) loaderRestart clk e0 e via s h hp hr (fixedLen_iff 0 e hl))
    obtain ⟨hpost, hreset, haon, hnor, hmode, hbox, hcham⟩ := loaderRestart_resets e via (entered clk s via e) h.unsealed
    simp only [entered_start, entered_cham] at haon hnor hcham
    exact ⟨_, run, hpost, hreset, haon, hnor, hmode, fun m _ => hbox m, hcham⟩
  case outside =>
    have judged := judge_loader_outside 0x00F0 (entered clk s via e) e (by simpa using hp.1) (by simpa [begin_frame] using hp.2)
    exact ⟨_, congrArg Host.Outcome.next (command_judged _ _ _ _ clk e0 e via s _ h judged), by simp [complete_frame],
      posts_complete _ e _ _ h.unsealed⟩
  case tree =>
    have prepOf : indexMode (begin clk s) = .preparing := (indexMode_of (by simp [begin_frame])).trans hprep
    have due : (indexMode (begin clk s) = .preparing && (begin clk s).start.record.startSeq != 0 && !(begin clk s).start.rescue) = true := by
      simp [prepOf, begin_frame, hseq, hres]
    exact ⟨_, congrArg Host.Outcome.next (if_pos due), indexTreeReady_ready _ prepOf, by simp [begin_frame], by simp [begin_frame]⟩

end Sys2Proof.Machine
end

section
/-! Proofs about the solver array (08_ibex_solver_array.md R169 to R188). -/

namespace Sys2Proof.Machine

/-! ### Slots -/

theorem slotOf_setSlot_same (s : State) (i : Nat) (f : SolverSlot → SolverSlot) (h : i < s.solver.slots.length) :
    slotOf (setSlot s i f) i = f (slotOf s i) := nth_upd_same _ _ _ _ h

theorem slotOf_setSlot_other (s : State) (i j : Nat) (f : SolverSlot → SolverSlot) (h : j ≠ i) : slotOf (setSlot s i f) j = slotOf s j :=
  nth_upd_other _ _ _ _ _ h

theorem slotOf_of {s t : State} (h : t.solver = s.solver) (i : Nat) : slotOf t i = slotOf s i := by unfold slotOf; rw [h]

theorem begin_solver (clk : Nat) (s : State) : (begin clk s).solver = s.solver := by simp [begin_frame]

@[simp] theorem begin_slotOf (clk : Nat) (s : State) (i : Nat) : slotOf (begin clk s) i = slotOf s i := slotOf_of (begin_solver clk s) i

/-! ### The end of an analysis (R172, R175) -/

/-- A slot refused with an error. -/
def refusedSlot (n : Nat) (g : SolverSlot) : SolverSlot := { emptySlot g.result with load := .refused, loadError := n }

/-- A slot that holds a structure that was analysed. -/
def residentSlot (st : Structure) (g : SolverSlot) : SolverSlot :=
  { emptySlot { g.result with seq := 0 } with
    load := .resident, structure? := some st, id := structureId st, nnzL := sumNat (colCounts st), flops := factorFlops (colCounts st)
    sram := sramNeed st (sumNat (colCounts st)), values := freshValues st }

/-- The bytes of the description in a slot. -/
def slotBytes (g : SolverSlot) : Bytes := overlay (le (overlay 8 g.chunks) 4 4) g.chunks

/-- How the slot stands after the analysis of a structure. -/
def analysedSlot (free : Nat) (st : Structure) : SolverSlot → SolverSlot :=
  if !dimensionsFit st.nVar st.nEq st.nIneq st.pRow.length st.aRow.length st.gRow.length then refusedSlot 2
  else if 262144 < sumNat (colCounts st) then refusedSlot 4
  else if free < sramNeed st (sumNat (colCounts st)) then refusedSlot 5
  else residentSlot st

theorem analysisDone_ok (s : State) (i : Nat) (st : Structure) (hl : (slotOf s i).load = .analysing)
    (h : (slotOf s i).structure? = some st ∨ ((slotOf s i).structure? = none ∧ parseStructure (slotBytes (slotOf s i)) = .ok st)) :
    analysisDone s i = setSlot s i (analysedSlot (sramFree s) st) := by
  unfold slotBytes at h
  unfold analysisDone analysedSlot
  dsimp only
  rw [if_neg (by simp [hl])]
  rcases h with h | ⟨h, hp⟩
  · rw [h]
    dsimp only
    (repeat' split) <;> rfl
  · rw [h]
    dsimp only
    rw [hp]
    dsimp only
    (repeat' split) <;> rfl

theorem analysisDone_error (s : State) (i n : Nat) (hl : (slotOf s i).load = .analysing) (h : (slotOf s i).structure? = none)
    (hp : parseStructure (slotBytes (slotOf s i)) = .error n) : analysisDone s i = setSlot s i (refusedSlot n) := by
  unfold slotBytes at hp
  unfold analysisDone
  dsimp only
  rw [if_neg (by simp [hl]), h]
  dsimp only
  rw [hp]
  rfl

/-- Settles O40: the outcome of the analysis is that of `analysedSlot`. -/
theorem structureAnalysed : Obligations.StructureAnalysed := by
  unfold Obligations.StructureAnalysed
  intro clk i s hi g bs
  have inSlots : i < (begin clk s).solver.slots.length := by rw [begin_solver]; exact hi
  have freeOf : sramFree (begin clk s) = sramFree s := by unfold sramFree; rw [begin_solver]
  refine ⟨fun st hl hst => ?analysed, fun n hl hn hp => ?spells, fun hl => congrArg Host.Outcome.next (if_pos (by simpa using hl))⟩
  case analysed =>
    intro nnz fits
    have run : exec (.solverAnalysisDone clk i) s = .next (setSlot (begin clk s) i (analysedSlot (sramFree s) st)) := congrArg Host.Outcome.next
      (freeOf ▸ analysisDone_ok (begin clk s) i st (by simpa using hl) (by rw [begin_slotOf]; exact hst))
    refine ⟨_, run, fun j hj => (slotOf_setSlot_other _ _ _ _ hj).trans (begin_slotOf ..), ?_⟩
    rw [slotOf_setSlot_same _ _ _ inSlots]
    unfold analysedSlot
    refine ⟨fun hf hn hs => ?_, fun hf => ?_, fun hf hn => ?_, fun hf hn hs => ?_⟩
    · rw [if_neg (show ¬(!fits) = true by simp [hf]), if_neg (Nat.not_lt.2 hn), if_neg (Nat.not_lt.2 hs)]
      exact ⟨rfl, rfl, rfl, rfl, rfl⟩
    · rw [if_pos (show (!fits) = true by simp [hf])]
      exact ⟨rfl, rfl⟩
    · rw [if_neg (show ¬(!fits) = true by simp [hf]), if_pos hn]
      exact ⟨rfl, rfl⟩
    · rw [if_neg (show ¬(!fits) = true by simp [hf]), if_neg (Nat.not_lt.2 hn), if_pos hs]
      exact ⟨rfl, rfl⟩
  case spells =>
    have run : exec (.solverAnalysisDone clk i) s = .next (setSlot (begin clk s) i (refusedSlot n)) := congrArg Host.Outcome.next
      (analysisDone_error (begin clk s) i n (by simpa using hl) (by simpa using hn) (by rw [begin_slotOf]; exact hp))
    refine ⟨_, run, ?_, ?_, fun j hj => (slotOf_setSlot_other _ _ _ _ hj).trans (begin_slotOf ..)⟩
    · rw [slotOf_setSlot_same _ _ _ inSlots]; rfl
    · rw [slotOf_setSlot_same _ _ _ inSlots]; rfl

end Sys2Proof.Machine
end

section
/-! Proofs about the runs of the solver array (08_ibex_solver_array.md R169, R179 to R188). -/

namespace Sys2Proof.Machine

/-! ### The options and the loop do not see the clock -/

@[simp] theorem begin_slotF (clk : Nat) (s : State) (i m : Nat) : slotF (begin clk s) i m = slotF s i m := by
  unfold slotF
  simp [begin_frame]

@[simp] theorem begin_slotN (clk : Nat) (s : State) (i m : Nat) : slotN (begin clk s) i m = slotN s i m := begin_ov ..

@[simp] theorem begin_loopFactor (clk : Nat) (s : State) (st : Structure) (r : SolverRun) :
    loopFactor (begin clk s) st r = loopFactor s st r := by
  unfold loopFactor
  simp

/-! ### The loop (R181 to R185) -/

/-- A run executes. -/
def executing (s : State) (r : SolverRun) : State := withSolver s (fun v => { v with current := some r })

/-- Every number of an iteration is finite (R184). -/
def iterationFinite (k : KktMatrix) (fs : List FactorColumn) (step : Iterate × List F64) (q : SolverRun) : Bool :=
  k.all (fun c => c.all (fun e => dFinite e.2)) && fs.all (fun f => f.rows.all (fun e => dFinite e.2)) && step.2.all dFinite &&
    (iterateList step.1).all dFinite && residualsFinite q

/-- The run after the step of an iteration. -/
def steppedRun (st : Structure) (r : SolverRun) (fs : List FactorColumn) : SolverRun :=
  withIterate st { r with wrongSign := r.wrongSign + wrongSigns st fs } (ipmStep st r.values r.iterate r.gap fs).1

section Loop
variable (u : State) (ns : Nat) (r : SolverRun) (st : Structure) (k : KktMatrix) (fs : List FactorColumn)

/-- An IPM run executes in its loop, whose matrix and factor these are. -/
structure InLoop : Prop where
  current : u.solver.current = some r
  structured : (slotOf u r.slot).structure? = some st
  ipm : r.op = .ipm
  open_ : r.ended = none
  started : r.started = true
  factor : loopFactor u st r = (k, fs)

variable {u r st k fs}

theorem iterationEnd_late (h : InLoop u r st k fs) (hl : runLate u r = true) : iterationEnd u ns =
    executing (recordFactor u r.slot k fs) { r with wrongSign := r.wrongSign + wrongSigns st fs, ended := some 1 } := by
  unfold iterationEnd
  rw [h.current]
  dsimp only
  rw [h.structured]
  dsimp only
  rw [if_neg (by simp [h.ipm, h.open_, h.started]), h.factor]
  exact if_pos hl

theorem iterationEnd_pivot (h : InLoop u r st k fs) (hl : runLate u r = false) (col : Nat) (hb : badColumn fs = some col) : iterationEnd u ns =
    executing (recordFactor u r.slot k fs) { steppedRun st r fs with ended := some 4, pivotCol := col, pivotVar := nth 0 st.perm col } := by
  unfold iterationEnd
  rw [h.current]
  dsimp only
  rw [h.structured]
  dsimp only
  rw [if_neg (by simp [h.ipm, h.open_, h.started]), h.factor]
  dsimp only
  rw [if_neg (by simp [hl]), hb]
  rfl

theorem iterationEnd_infinite (h : InLoop u r st k fs) (hl : runLate u r = false) (hb : badColumn fs = none)
    (hf : iterationFinite k fs (ipmStep st r.values r.iterate r.gap fs) (steppedRun st r fs) = false) :
    iterationEnd u ns = executing (recordFactor u r.slot k fs) { steppedRun st r fs with ended := some 5 } := by
  unfold iterationEnd
  rw [h.current]
  dsimp only
  rw [h.structured]
  dsimp only
  rw [if_neg (by simp [h.ipm, h.open_, h.started]), h.factor]
  dsimp only
  rw [if_neg (by simp [hl]), hb]
  exact if_pos (show (!iterationFinite k fs _ (steppedRun st r fs)) = true by rw [hf]; rfl)

/-- The run that an iteration leaves. -/
def iteratedRun (st : Structure) (r : SolverRun) (fs : List FactorColumn) (ns : Nat) : SolverRun :=
  { steppedRun st r fs with iterations := r.iterations + 1, lastFactorNs := some ns }

/-- The array after an iteration whose tests are still to be made. -/
def iteratedState (u : State) (st : Structure) (r : SolverRun) (k : KktMatrix) (fs : List FactorColumn) (ns : Nat) : State :=
  setSlot (executing (recordFactor u r.slot k fs) (iteratedRun st r fs ns)) r.slot
    (fun g => { g with warm := some (ipmStep st r.values r.iterate r.gap fs).1 })

theorem iterationEnd_iterates (h : InLoop u r st k fs) (hl : runLate u r = false) (hb : badColumn fs = none)
    (hf : iterationFinite k fs (ipmStep st r.values r.iterate r.gap fs) (steppedRun st r fs) = true) :
    iterationEnd u ns = match loopTests (iteratedState u st r k fs ns) (iteratedRun st r fs ns) with
      | some (c, gd) => stopCurrent (iteratedState u st r k fs ns) c gd
      | none => iteratedState u st r k fs ns := by
  unfold iterationEnd
  rw [h.current]
  dsimp only
  rw [h.structured]
  dsimp only
  rw [if_neg (by simp [h.ipm, h.open_, h.started]), h.factor]
  dsimp only
  rw [if_neg (by simp [hl]), hb]
  exact if_neg (show ¬(!iterationFinite k fs _ (steppedRun st r fs)) = true by rw [hf]; simp)

end Loop

theorem stopCurrent_current (s : State) (c : Nat) (gd : Bool) (r : SolverRun) (h : s.solver.current = some r) (he : r.ended = none) :
    (stopCurrent s c gd).solver = { s.solver with current := some { r with ended := some c, guardStop := gd } } := by
  unfold stopCurrent
  simp [h, he]

theorem slot_recordFactor (s : State) (i : Nat) (k : KktMatrix) (fs : List FactorColumn) (h : i < s.solver.slots.length) :
    slotOf (recordFactor s i k fs) i = { slotOf s i with lastK := some k, factor := if (badColumn fs).isSome then none else some fs } :=
  slotOf_setSlot_same s i _ h

theorem executing_slotOf (s : State) (r : SolverRun) (i : Nat) : slotOf (executing s r) i = slotOf s i := rfl

/-- What the tests after an iteration end a run with, where it converges or meets the last iteration allowed (R181, R182). -/
theorem loopTests_converged (s : State) (r : SolverRun)
    (h : (dLe r.rPrimal (slotF s r.slot 0x0B) && dLe r.rDual (slotF s r.slot 0x0C) && dLe r.gap (slotF s r.slot 0x0D)) = true) :
    loopTests s r = some (0, false) := if_pos h

theorem loopTests_limit (s : State) (r : SolverRun)
    (h : (dLe r.rPrimal (slotF s r.slot 0x0B) && dLe r.rDual (slotF s r.slot 0x0C) && dLe r.gap (slotF s r.slot 0x0D)) = false)
    (hi : (dLt (slotF s r.slot 0x17) (sDot [(normInf r.iterate.y, dOne), (normInf (signedDual r.iterate.zl r.iterate.zu), dOne),
      (normInf (signedDual r.iterate.xl r.iterate.xu), dOne)]) && dLt (slotF s r.slot 0x0B) r.rPrimal) = false)
    (hl : slotN s r.slot 0x0A ≤ r.iterations) : loopTests s r = some (2, false) := by
  unfold loopTests
  dsimp only
  rw [if_neg (by rw [h]; simp), if_neg (by rw [Bool.and_assoc, hi]; simp), if_pos hl]

/-- After an iteration the run goes on from its new iterate, ended where the tests end it. -/
theorem iterationEnd_run (u : State) (ns : Nat) (r : SolverRun) (st : Structure) (k : KktMatrix) (fs : List FactorColumn)
    (h : InLoop u r st k fs) (hi : r.slot < u.solver.slots.length) (hl : runLate u r = false) (hb : badColumn fs = none)
    (hf : iterationFinite k fs (ipmStep st r.values r.iterate r.gap fs) (steppedRun st r fs) = true) :
    let t := iterationEnd u ns
    ∃ q, t.solver.current = some q ∧ q.iterate = (ipmStep st r.values r.iterate r.gap fs).1 ∧ q.iterations = r.iterations + 1 ∧
      (slotOf t r.slot).warm = some (ipmStep st r.values r.iterate r.gap fs).1 ∧ (slotOf t r.slot).factor = some fs ∧
      q.ended = (loopTests (iteratedState u st r k fs ns) (iteratedRun st r fs ns)).map (·.1) := by
  have current : (iteratedState u st r k fs ns).solver.current = some (iteratedRun st r fs ns) := rfl
  have opened : (iteratedRun st r fs ns).ended = none := h.open_
  have slot : slotOf (iteratedState u st r k fs ns) r.slot = { slotOf (recordFactor u r.slot k fs) r.slot with
      warm := some (ipmStep st r.values r.iterate r.gap fs).1 } := slotOf_setSlot_same _ _ _ (by
    show r.slot < (recordFactor u r.slot k fs).solver.slots.length
    simpa [recordFactor, setSlot] using hi)
  rw [slot_recordFactor u r.slot k fs hi] at slot
  dsimp only
  rw [iterationEnd_iterates ns h hl hb hf]
  cases loopTests (iteratedState u st r k fs ns) (iteratedRun st r fs ns) with
  | none => exact ⟨_, current, rfl, rfl, by rw [slot], by rw [slot]; simp [hb], opened⟩
  | some c =>
    have stopped := stopCurrent_current (iteratedState u st r k fs ns) c.1 c.2 _ current opened
    have slotStopped : slotOf (stopCurrent (iteratedState u st r k fs ns) c.1 c.2) r.slot = slotOf (iteratedState u st r k fs ns) r.slot := by
      unfold slotOf
      rw [stopped]
    exact ⟨_, by rw [stopped], rfl, rfl, by rw [slotStopped, slot], by rw [slotStopped, slot]; simp [hb], rfl⟩

/-! ### Deadlines, suspension and isolation (R169, R180, R185) -/

/-- A late run is put back in its place. -/
def putLate (s : State) (suspended : Bool) (r : SolverRun) : State :=
  withSolver s (fun v => if suspended then { v with parked := some r } else { v with current := some r })

/-- At its deadline a run ends with the code of its operation, whatever becomes of its factorisation. -/
theorem solveDeadline_late (u : State) (inFactor suspended : Bool) (r : SolverRun)
    (h : (if suspended then u.solver.parked else u.solver.current) = some r) (he : r.ended = none) (hl : runLate u r = true) :
    ∃ v q, solveDeadline u inFactor suspended = putLate v suspended q ∧ v.solver.current = u.solver.current ∧
      v.solver.parked = u.solver.parked ∧ q.iterations = r.iterations ∧ q.ended = (lateRun inFactor r).ended := by
  unfold solveDeadline
  rw [h]
  dsimp only
  rw [if_neg (by simp [he, hl])]
  cases hop : r.op with
  | ipm =>
    cases hst : (slotOf u r.slot).structure? with
    | none => exact ⟨u, _, rfl, rfl, rfl, by simp [lateRun, hop], rfl⟩
    | some st =>
      cases inFactor with
      | true => exact ⟨u, _, rfl, rfl, rfl, by simp [lateRun, hop], rfl⟩
      | false => exact ⟨_, _, rfl, rfl, rfl, by simp [lateRun], by simp [lateRun, hop]⟩
  | _ => exact ⟨u, _, rfl, rfl, rfl, by simp [lateRun, hop], rfl⟩

theorem lateRun_ended (inFactor : Bool) (r : SolverRun) : (lateRun inFactor r).ended = some (match r.op with
    | .ipm => if inFactor then 6 else 1
    | .factor => 6
    | _ => 10) := by
  unfold lateRun
  cases r.op <;> rfl

theorem hostResume_resumes (u : State) (r : SolverRun) (hc : u.solver.current = none) (hp : u.solver.parked = some r) (he : r.ended = none) :
    hostResume u = withSolver u (fun v => { v with current := some r, parked := none }) := by
  unfold hostResume
  rw [hc, hp]
  exact if_neg (by simp [he])

theorem runsIsolated_solver (u : State) (r : SolverRun) (he : r.ended = none) :
    (u.solver.current = some r → (runsIsolated u).solver.current = some { r with ended := some 7 }) ∧
    (u.solver.parked = some r → (runsIsolated u).solver.parked = some { r with ended := some 7 }) := by
  unfold runsIsolated
  exact ⟨fun h => by simp [h, he], fun h => by simp [h, he]⟩

/-! ### The end of a run (R155, R179, R188) -/

/-- The record of a run is written, and its place is free. -/
def recordedRun (s : State) (r : SolverRun) : State :=
  let s2 := setSlot s r.slot (fun g => { g with
    result := resultOf s r (r.ended.getD 9), iterate := if r.op = .ipm && r.started then r.iterate else g.iterate })
  bump (withSolver s2 (fun v => { v with current := none })) 0x31 (0x10 + r.slot) 0x18

/-- Its end is made known: to the planner, or by the slot's bit of SOLVER_DONE. -/
def announcedRun (s : State) (r : SolverRun) : State :=
  if r.planner then { s with plan := { s.plan with phase := if s.plan.phase = .solving then .testing else s.plan.phase } }
  else solverDone s r.slot

theorem runEnd_current (u v : State) (r q : SolverRun) (hc : u.solver.current = some r) (hp : u.solver.parked = none)
    (hd : r.ended.isSome = true ∨ (r.started = true ∧ r.op ≠ .ipm)) (hw : plainWork u r = (v, q)) (hs : q.slot = r.slot) :
    runEnd u r.slot = settleRuns (startNext (announcedRun (recordedRun v q) q)) := by
  have due : (decide (r.slot = r.slot) && (r.ended.isSome || (true && r.started && r.op != .ipm))) = true := by
    rcases hd with h | ⟨h, ho⟩
    · simp [h]
    · simp [h, ho]
  unfold runEnd
  rw [hc, hp]
  dsimp only
  rw [if_pos due]
  dsimp only
  rw [hw]
  unfold announcedRun recordedRun
  rw [hs]
  rfl

theorem plainWork_ended (u : State) (r : SolverRun) (c : Nat) (h : r.ended = some c) : plainWork u r = (u, r) := by
  unfold plainWork
  dsimp only
  rw [h]
  cases (slotOf u r.slot).structure? <;> rfl

theorem plainWork_factor (u : State) (r : SolverRun) (st : Structure) (he : r.ended = none) (hst : (slotOf u r.slot).structure? = some st)
    (hl : runLate u r = false) (ho : r.op = .factor) :
    let fs := factorise st (factorMatrix st r.values)
    ∃ q, plainWork u r = (recordFactor u r.slot (factorMatrix st r.values) fs, q) ∧ q.slot = r.slot ∧
      q.ended = some (if (badColumn fs).isSome then 4 else 9) := by
  unfold plainWork
  dsimp only
  rw [hst, he]
  dsimp only
  rw [if_neg (by simp [hl]), if_pos ho]
  cases hb : badColumn (factorise st (factorMatrix st r.values)) with
  | none => exact ⟨_, rfl, rfl, rfl⟩
  | some col => exact ⟨_, rfl, rfl, rfl⟩

theorem plainWork_vector (u : State) (r : SolverRun) (st : Structure) (he : r.ended = none) (hst : (slotOf u r.slot).structure? = some st)
    (hl : runLate u r = false) (ho : r.op = .solve ∨ r.op = .spmv) :
    ∃ v, plainWork u r = (v, { r with ended := some 9 }) ∧ v.solver =
      (setSlot u r.slot (fun g => { g with w := vectorResult st g r u.freeCount })).solver := by
  unfold plainWork
  dsimp only
  rw [hst, he]
  dsimp only
  rw [if_neg (by simp [hl]), if_neg (by rcases ho with h | h <;> simp [h])]
  exact ⟨_, rfl, rfl⟩

/-- Nothing waits to start. -/
theorem startNext_idle (s : State) (h : s.solver.queue = []) : startNext s = s := by
  unfold startNext
  rw [h]
  cases s.solver.current <;> cases s.solver.parked <;> rfl

theorem settleRuns_slots (s : State) : (settleRuns s).solver.slots = s.solver.slots ∧ (settleRuns s).solver.current = s.solver.current ∧
    (settleRuns s).reg = s.reg ∧ (settleRuns s).plan = s.plan := by
  unfold settleRuns
  have kept : ∀ (l : List (Origin × Nat × List Nat)) (x : State), (l.foldl (fun s w => complete s w.1 w.2.1) x).solver = x.solver :=
    fun l x => foldl_keeps _ (·.solver) (fun s w => by simp [complete_frame]) l x
  refine ⟨by rw [kept], by rw [kept], ?_, ?_⟩
  · exact foldl_keeps _ (·.reg) (fun s w => complete_reg ..) _ _
  · exact foldl_keeps _ (·.plan) (fun s w => by simp [complete_frame]) _ _

theorem setInt_done (s : State) (n : Nat) : (setInt s n).reg.solverDone = s.reg.solverDone := by
  unfold setInt
  dsimp only
  split
  · rfl
  · split
    · rfl
    · simp [sendVector_frame]

theorem solverDone_bit (s : State) (i : Nat) (h : i < 8) : (solverDone s i).reg.solverDone.getLsbD i = true := by
  unfold solverDone
  dsimp only
  split
  · assumption
  · rw [setInt_done]
    exact getLsbD_set _ _ h

/-- What the end of a run leaves of the array, the registers and the planner. -/
theorem announced_recorded (s : State) (r : SolverRun) :
    let t := announcedRun (recordedRun s r) r
    t.solver = { s.solver with current := none, slots := upd s.solver.slots r.slot (fun g => { g with
      result := resultOf s r (r.ended.getD 9), iterate := if r.op = .ipm && r.started then r.iterate else g.iterate }) } ∧
    (r.planner = true → s.plan.phase = .solving → t.plan.phase = .testing) := by
  dsimp only
  unfold announcedRun
  split
  · next h =>
    have planOf : (recordedRun s r).plan = s.plan := rfl
    exact ⟨rfl, fun _ hp => if_pos (by rw [planOf]; exact hp)⟩
  · next h =>
    refine ⟨?_, fun hp => absurd hp h⟩
    simp [solverDone_frame, recordedRun, bump_frame, setSlot]

/-- The end of a run whose work leaves the array `v` and the run `q`. -/
theorem exec_solverRunEnd_current (clk : Nat) (s v : State) (r q : SolverRun) (hc : s.solver.current = some r) (hi : r.slot < v.solver.slots.length)
    (h8 : r.slot < 8) (hp : s.solver.parked = none) (hd : r.ended.isSome = true ∨ (r.started = true ∧ r.op ≠ .ipm))
    (hw : plainWork (begin clk s) r = (v, q)) (hs : q.slot = r.slot) (hv : v.solver.queue = []) :
    ∃ t, exec (.solverRunEnd clk r.slot) s = .next t ∧ t.solver.current = none ∧
      slotOf t r.slot = { slotOf v r.slot with
        result := resultOf v q (q.ended.getD 9), iterate := if q.op = .ipm && q.started then q.iterate else (slotOf v r.slot).iterate } ∧
      (∀ j, j ≠ r.slot → slotOf t j = slotOf v j) ∧ (q.planner = false → t.reg.solverDone.getLsbD r.slot = true) ∧
      (q.planner = true → v.plan.phase = .solving → t.plan.phase = .testing) := by
  have run : exec (.solverRunEnd clk r.slot) s = .next (settleRuns (startNext (announcedRun (recordedRun v q) q))) := congrArg Host.Outcome.next
    (runEnd_current (begin clk s) v r q (by rw [begin_solver]; exact hc) (by rw [begin_solver]; exact hp) hd hw hs)
  obtain ⟨hsolver, hphase⟩ := announced_recorded v q
  rw [hs] at hsolver
  have done : q.planner = false → (announcedRun (recordedRun v q) q).reg.solverDone.getLsbD r.slot = true := by
    intro hpl
    unfold announcedRun
    rw [if_neg (by simp [hpl]), hs]
    exact solverDone_bit _ _ h8
  generalize announcedRun (recordedRun v q) q = x at run hsolver hphase done
  rw [startNext_idle x (by rw [hsolver]; exact hv)] at run
  obtain ⟨hslots, hcurrent, hreg, hplan⟩ := settleRuns_slots x
  have slots : (settleRuns x).solver.slots = upd v.solver.slots r.slot _ := hslots.trans (congrArg SolverState.slots hsolver)
  refine ⟨_, run, by rw [hcurrent, hsolver], ?_, fun j hj => ?_, by rw [hreg]; exact done, by rw [hplan]; exact hphase⟩
  · unfold slotOf
    rw [slots, nth_upd_same _ _ _ _ hi]
  · unfold slotOf
    rw [slots, nth_upd_other _ _ _ _ _ hj]

/-- Settles O41: the end of an iteration, a deadline, a resumption, an isolation and the end of a run. -/
theorem solverRuns : Obligations.SolverRuns := by
  unfold Obligations.SolverRuns
  refine ⟨fun clk ns s r st hc hst hop he hstart hi => ?iteration, fun clk inFactor suspended s r h he hl => ?deadline,
    fun clk s r hc hp he => ?resume, fun clk element s r he => ?isolation,
    fun clk s r hc hi h8 hp hq => ⟨fun code he => ?ended, fun st he hstart hst hl => ⟨fun ho => ?factor, fun ho => ?vector⟩⟩⟩
  case iteration =>
    intro k fs step rest finite
    have loop : InLoop (begin clk s) r st k fs :=
      ⟨by rw [begin_solver]; exact hc, by rw [begin_slotOf]; exact hst, hop, he, hstart, by rw [begin_loopFactor]⟩
    have inSlots : r.slot < (begin clk s).solver.slots.length := by rw [begin_solver]; exact hi
    have options : ∀ m, slotF (iteratedState (begin clk s) st r k fs ns) r.slot m = slotF s r.slot m := fun m => begin_slotF clk s r.slot m
    have limit : slotN (iteratedState (begin clk s) st r k fs ns) r.slot 0x0A = slotN s r.slot 0x0A := begin_slotN clk s r.slot 0x0A
    refine ⟨fun hl => ?late, fun hl => ⟨fun col hb => ?pivot, fun hb hf => ?infinite, fun hb hf => ?iterates⟩⟩
    case late =>
      exact ⟨_, _, congrArg Host.Outcome.next (iterationEnd_late ns loop hl), rfl, rfl, rfl, rfl⟩
    case pivot =>
      refine ⟨_, _, congrArg Host.Outcome.next (iterationEnd_pivot ns loop hl col hb), rfl, rfl, rfl, rfl, rfl, ?_⟩
      rw [executing_slotOf, slot_recordFactor _ _ _ _ inSlots]
      simp [hb]
    case infinite =>
      exact ⟨_, _, congrArg Host.Outcome.next (iterationEnd_infinite ns loop hl hb hf), rfl, rfl, rfl⟩
    case iterates =>
      intro conv infeasible
      obtain ⟨q, hcur, hit, hcount, hwarm, hfactor, hend⟩ := iterationEnd_run (begin clk s) ns r st k fs loop inSlots hl hb hf
      refine ⟨_, q, rfl, hcur, hit, hcount, hwarm, hfactor, fun hconv => ?_, fun hconv hinf hlim => ?_⟩
      · rw [hend, loopTests_converged]
        · rfl
        · show (dLe _ (slotF _ r.slot 0x0B) && dLe _ (slotF _ r.slot 0x0C) && dLe _ (slotF _ r.slot 0x0D)) = true
          rw [options, options, options]
          exact hconv
      · rw [hend, loopTests_limit]
        · rfl
        · show (dLe _ (slotF _ r.slot 0x0B) && dLe _ (slotF _ r.slot 0x0C) && dLe _ (slotF _ r.slot 0x0D)) = false
          rw [options, options, options]
          exact hconv
        · show (dLt (slotF _ r.slot 0x17) _ && dLt (slotF _ r.slot 0x0B) _) = false
          rw [options, options]
          exact hinf
        · show slotN _ r.slot 0x0A ≤ r.iterations + 1
          rw [limit]
          exact hlim
  case deadline =>
    obtain ⟨v, q, run, hcur, hpark, hit, hend⟩ := solveDeadline_late (begin clk s) inFactor suspended r
      (by rw [begin_solver]; exact h) he hl
    rw [begin_solver] at hcur hpark
    refine ⟨_, q, congrArg Host.Outcome.next run, ?_, hit, hend.trans (lateRun_ended inFactor r)⟩
    cases suspended
    · exact ⟨rfl, hpark⟩
    · exact ⟨rfl, hcur⟩
  case resume =>
    have run : exec (.hostRunResume clk) s = .next _ := congrArg Host.Outcome.next
      (hostResume_resumes (begin clk s) r (by rw [begin_solver]; exact hc) (by rw [begin_solver]; exact hp) he)
    exact ⟨_, run, by rw [withSolver_solver, begin_solver]⟩
  case isolation =>
    have solverOf : (isolate (begin clk s) 1 4 element).solver = s.solver := by simp [isolate_frame, begin_frame]
    obtain ⟨hcur, hpark⟩ := runsIsolated_solver (isolate (begin clk s) 1 4 element) r he
    rw [solverOf] at hcur hpark
    exact ⟨runsIsolated (isolate (begin clk s) 1 4 element), rfl, isolate_isolated _ 1 4 element, hcur, hpark⟩
  case ended =>
    obtain ⟨t, run, hcur, hslot, hother, hdone, hphase⟩ := exec_solverRunEnd_current clk s (begin clk s) r r hc
      (by rw [begin_solver]; exact hi) h8 hp (.inl (by simp [he])) (plainWork_ended _ r code he) rfl (by rw [begin_solver]; exact hq)
    refine ⟨t, run, hcur, ?_, ?_, ?_, ?_, fun j hj => (hother j hj).trans (begin_slotOf ..), hdone, fun hpl hph => hphase hpl (by simpa [begin_frame] using hph)⟩
    all_goals
      rw [hslot]
      simp [resultOf, he]
  case factor =>
    intro fs
    obtain ⟨q, hw, hs, hend⟩ := plainWork_factor (begin clk s) r st he (by rw [begin_slotOf]; exact hst) hl ho
    have inSlots : r.slot < (begin clk s).solver.slots.length := by rw [begin_solver]; exact hi
    obtain ⟨t, run, _, hslot, _⟩ := exec_solverRunEnd_current clk s _ r q hc (by simpa [recordFactor, setSlot] using inSlots) h8 hp
      (.inr ⟨hstart, by simp [ho]⟩) hw hs (by simpa [recordFactor, setSlot, begin_solver] using hq)
    refine ⟨t, run, ?_, ?_⟩
    · rw [hslot, hend]
      rfl
    · rw [hslot, slot_recordFactor _ _ _ _ inSlots]
  case vector =>
    obtain ⟨v, hw, hsolver⟩ := plainWork_vector (begin clk s) r st he (by rw [begin_slotOf]; exact hst) hl ho
    have inSlots : r.slot < (begin clk s).solver.slots.length := by rw [begin_solver]; exact hi
    obtain ⟨t, run, _, hslot, _⟩ := exec_solverRunEnd_current clk s v r _ hc (by rw [hsolver]; simpa [setSlot] using inSlots) h8 hp
      (.inr ⟨hstart, by rcases ho with h | h <;> simp [h]⟩) hw rfl (by rw [hsolver]; simpa [setSlot, begin_solver] using hq)
    refine ⟨t, run, ?_, ?_⟩
    · rw [hslot]
      rfl
    · rw [hslot, slotOf_of hsolver, slotOf_setSlot_same _ _ _ inSlots]
      simp [begin_frame]

end Sys2Proof.Machine
end

section
/-! Proofs about the tick start (04_herd_time.md R88, R89; 00_scope.md R9). -/

namespace Sys2Proof.Machine

/-! ### Clocks until an instant (R88, R89) -/

/-- Bisection finds the fewest clocks after which a rising function of them has reached a target. -/
theorem clocksGo_least (s : State) (target : Int) (g : Nat → Int) (hg : ∀ m, herdPos s.herd + (herdAfter s m).1 = g m)
    (hmono : ∀ m k, m ≤ k → g m ≤ g k) : ∀ (fuel lo hi : Nat), lo ≤ hi → hi - lo < 2 ^ fuel → target ≤ g hi → (∀ m < lo, g m < target) →
      target ≤ g (clocksGo s target fuel lo hi) ∧ ∀ m < clocksGo s target fuel lo hi, g m < target := by
  intro fuel
  induction fuel with
  | zero =>
    intro lo hi hle hgap hhi hlo
    have closed : hi = lo := by omega
    subst closed
    exact ⟨hhi, hlo⟩
  | succ fuel ih =>
    intro lo hi hle hgap hhi hlo
    unfold clocksGo
    split
    · next h => exact ⟨hhi, fun m hm => hlo m (by omega)⟩
    · next h =>
      have half : 2 ^ (fuel + 1) = 2 * 2 ^ fuel := by ring
      dsimp only
      rw [hg]
      split
      · next hmid => exact ih lo ((lo + hi) / 2) (by omega) (by omega) hmid hlo
      · next hmid =>
        refine ih ((lo + hi) / 2 + 1) hi (by omega) (by omega) hhi (fun m hm => ?_)
        exact lt_of_le_of_lt (hmono m _ (by omega)) (not_le.1 hmid)

/-- HT:HT_FRAC after n clocks that no slew adjusts. -/
def steadyAfter (s : State) (n : Nat) : Int := herdPos s.herd + (4 * fracUnit + adjServo s) * n

theorem herdAfter_steady (s : State) (n : Nat) (h : s.herd.slewRem = 0) : herdAfter s n = ((4 * fracUnit + adjServo s) * n, 0) := by
  unfold herdAfter
  simp [h]

theorem herdPos_nonneg (h : HerdState) : 0 ≤ herdPos h := by
  unfold herdPos fracUnit
  omega

theorem clocksTo_least (s : State) (t : Nat) (hs : s.herd.slewRem = 0) (ha : -2147483648 ≤ adjServo s) (ht : t < 2 ^ 65) :
    (t : Int) * fracUnit ≤ steadyAfter s (clocksTo s t) ∧ ∀ m < clocksTo s t, steadyAfter s m < (t : Int) * fracUnit := by
  have pos := herdPos_nonneg s.herd
  have rate : 3 * fracUnit ≤ 4 * fracUnit + adjServo s := by
    unfold fracUnit
    omega
  have mono : ∀ m k, m ≤ k → steadyAfter s m ≤ steadyAfter s k := by
    intro m k hmk
    have nonneg : (0 : Int) ≤ 4 * fracUnit + adjServo s := by
      unfold fracUnit
      omega
    have := mul_le_mul_of_nonneg_left (Int.ofNat_le.2 hmk) nonneg
    unfold steadyAfter
    omega
  unfold clocksTo clocksUntil
  dsimp only
  split
  · next h =>
    refine ⟨?_, fun m hm => absurd hm (Nat.not_lt_zero m)⟩
    unfold steadyAfter
    simp only [Nat.cast_zero, mul_zero]
    omega
  · next h =>
    refine clocksGo_least s _ (steadyAfter s) (fun m => by rw [herdAfter_steady s m hs]; rfl) mono 70 0 _ (Nat.zero_le _) ?_ ?_
      (fun m hm => absurd hm (Nat.not_lt_zero m))
    · unfold fracUnit at h ⊢
      omega
    · have bound := mul_le_mul_of_nonneg_right rate
        (Int.natCast_nonneg ((((t : Int) * fracUnit - herdPos s.herd) / (3 * fracUnit)).toNat + 2))
      have enough : (t : Int) * fracUnit - herdPos s.herd ≤
          3 * fracUnit * ((((t : Int) * fracUnit - herdPos s.herd) / (3 * fracUnit)).toNat + 2 : Nat) := by
        unfold fracUnit at h ⊢
        omega
      unfold steadyAfter
      omega

/-! ### What a tick start leaves of herd time -/

/-- HT, HT_FRAC's carry, the tick counter and whether herd time runs; no step waits. -/
def ticking (s : State) : Nat × Nat × Bool × Option Int := (s.herd.ht, s.herd.tick, s.herd.running, s.herd.stepPending)

theorem ticking_of {s t : State} (h : t.herd = s.herd) : ticking t = ticking s := by unfold ticking; rw [h]

theorem pushStamp_ticking (s : State) (e : TxStamp) : ticking (pushStamp s e) = ticking s := by
  unfold pushStamp
  split
  · rfl
  · unfold ticking
    simp [setInt_frame]

theorem takeStamps_ticking (s : State) : ticking (takeStamps s) = ticking s := by
  unfold takeStamps
  rw [foldl_keeps pushStamp ticking pushStamp_ticking]
  rfl

theorem holdRate_ticking (s : State) : ticking (holdRate s) = ticking s := by
  unfold holdRate
  split <;> rfl

theorem herdStep_idle (s : State) (h : s.herd.stepPending = none) : herdStep s = s := by
  unfold herdStep
  rw [h]

theorem modeEntry_ticking (s : State) (m : Mode) : ticking (modeEntry s m) = ticking s := by
  unfold modeEntry
  split
  · unfold ticking
    simp [sepAnew_frame, endArmHolds_frame]
  · exact ticking_of (by simp [sepAnew_frame, endArmHolds_frame, outputsFault_frame])
  · rfl

theorem takeMode_ticking (s : State) (m : Mode) : ticking (takeMode s m) = ticking s := by
  unfold takeMode
  dsimp only
  have noted : ∀ x : State, ticking (noteMode x m) = ticking x := fun x => ticking_of (by simp [noteMode_frame])
  rw [noted, modeEntry_ticking]
  split
  · exact ticking_of (by simp [pisteHoldEnd_frame, withMode])
  · rfl

theorem modeTick_ticking (s : State) : ticking (modeTick s) = ticking s := by
  have started : ∀ x : State, ticking (startTransition x) = ticking x := fun x => ticking_of (by simp [startTransition_frame])
  unfold modeTick
  dsimp only
  rw [started]
  split
  · split
    · exact takeMode_ticking ..
    · rfl
  · rfl

/-! ### Without an image -/

theorem abandonCommit_none (s : State) (h : s.image.commit = none) : abandonCommit s = s := by
  unfold abandonCommit
  rw [h]

/-- With no IMAGE_COMMIT in flight a target that is entered leaves the images alone. -/
theorem targetEntry_image (s : State) (m : Mode) (h : s.image.commit = none) : (targetEntry s m).image = s.image := by
  unfold targetEntry
  split
  · simp [pisteHold_frame]
  · simp [pisteClear_frame]
  · rw [abandonCommit_none _ (by simpa [pisteClear_frame] using h)]
    simp [pisteClear_frame]
  · rw [abandonCommit_none _ h]
    simp [withMode, settleWaits_frame]
  · rfl

/-- The SET_MODE of a target that is replaced completes (R41). -/
def superseded (s : State) (m : Mode) : State :=
  match s.mode.target with
  | some old => settleWaits s (fun x => x = old && x != m) stSuperseded
  | none => s

theorem superseded_image (s : State) (m : Mode) : (superseded s m).image = s.image := by
  unfold superseded
  split <;> simp [settleWaits_frame]

theorem startTransition_image (s : State) (h : s.image.commit = none) : (startTransition s).image = s.image := by
  cases hm : s.mode.accepted with
  | none =>
    unfold startTransition
    rw [hm]
  | some m =>
    have run : startTransition s = switchFor (targetEntry (setInt (withMode (superseded s m) (fun x =>
        { x with accepted := none, target := some m, complete := false, targetWord := x.triggerWord })) 1) m) m := by
      unfold startTransition
      rw [hm]
      rfl
    have before : (setInt (withMode (superseded s m) (fun x =>
        { x with accepted := none, target := some m, complete := false, targetWord := x.triggerWord })) 1).image = s.image := by
      simp [setInt_frame, withMode, superseded_image]
    rw [run, (by simp [switchFor_frame] : ∀ x : State, (switchFor x m).image = x.image), targetEntry_image _ _ (by rw [before]; exact h), before]

theorem modeTick_image (s : State) (h : s.image.commit = none) : (modeTick s).image = s.image := by
  unfold modeTick
  dsimp only
  split
  · split
    · rw [startTransition_image _ (by simpa [takeMode_frame] using h)]
      simp [takeMode_frame]
    · exact startTransition_image _ h
  · exact startTransition_image _ h

theorem imageActivation_none (s : State) (h : s.image.commit = none) : imageActivation s = s := by
  unfold imageActivation
  rw [h]

theorem captureBusy_aborted (s : State) : (captureBusy s && s.acq.capture.state == .aborted) = false := by
  unfold captureBusy
  cases s.acq.capture.state <;> rfl

theorem activationTickStart_none (s : State) (h : s.image.commit = none) : activationTickStart s = s := by
  unfold activationTickStart
  dsimp only
  rw [imageActivation_none s h, captureBusy_aborted]
  rfl

theorem periodTick_inactive (s : State) (h : imageActive s = false) : periodTick s = s := by
  unfold periodTick periodAt
  exact if_neg (by simp [h])

theorem judgeRole_inactive (s : State) (h : imageActive s = false) : judgeRole s = s := by
  unfold judgeRole
  exact if_neg (by simp [h])

/-- The tick has begun, and what it brings begins. -/
def tickBegun (s : State) (tick : Nat) : State :=
  withHerd (encAges (netTickEnd (takeStamps (writesDue s)))) (fun h => { h with tick := tick, edges := 0 })

theorem tickBegun_time (s : State) (tick : Nat) :
    ticking (tickBegun s tick) = (s.herd.ht, tick, s.herd.running, s.herd.stepPending) ∧ (tickBegun s tick).image = s.image ∧
      (tickBegun s tick).aon = s.aon := by
  have stamped : ticking (encAges (netTickEnd (takeStamps (writesDue s)))) = ticking s := by
    rw [ticking_of (by simp [encAges_frame, netTickEnd_frame] : _ = (takeStamps (writesDue s)).herd), takeStamps_ticking]
    exact ticking_of (by simp [writesDue_frame])
  refine ⟨?_, ?_, ?_⟩
  · unfold ticking at stamped
    simp only [Prod.mk.injEq] at stamped
    obtain ⟨hht, _, hrun, hstep⟩ := stamped
    unfold ticking tickBegun
    rw [withHerd_herd, hht, hrun, hstep]
  · simp [tickBegun, withHerd, encAges_frame, netTickEnd_frame, takeStamps_frame, writesDue_frame]
  · simp [tickBegun, withHerd, encAges_frame, netTickEnd_frame, takeStamps_frame, writesDue_frame]

/-- What a tick start does once the tick counter has gone up: herd time stands, where nothing waits and no image is active. -/
def tickEffects (s : State) (edges : Nat) : State :=
  acqTick (judgeRole (rollWindow (driveOutputs (auxTicks edges (periodTick (activationTickStart (modeTick (netTickStart
    (holdRate (herdStep s))))))))))

theorem tickEffects_time (s : State) (edges : Nat) (hp : s.herd.stepPending = none) (hc : s.image.commit = none) (ha : imageActive s = false) :
    ticking (tickEffects s edges) = ticking s ∧ (tickEffects s edges).aon = s.aon := by
  have activeOf : ∀ x : State, x.image = s.image → imageActive x = false := fun x hx => by
    unfold imageActive at ha ⊢
    rw [hx]
    exact ha
  have heldImage : (netTickStart (holdRate s)).image = s.image := by simp [netTickStart_frame, holdRate_frame]
  have modeImage : (modeTick (netTickStart (holdRate s))).image = s.image :=
    (modeTick_image _ (by rw [heldImage]; exact hc)).trans heldImage
  have lateImage : (rollWindow (driveOutputs (auxTicks edges (modeTick (netTickStart (holdRate s)))))).image = s.image := by
    simp only [rollWindow_frame, driveOutputs_frame, auxTicks_frame]
    exact modeImage
  unfold tickEffects
  rw [herdStep_idle s hp, activationTickStart_none _ (by rw [modeImage]; exact hc),
    periodTick_inactive _ (activeOf _ modeImage), judgeRole_inactive _ (activeOf _ lateImage)]
  refine ⟨?_, by simp [acqTick_frame, rollWindow_frame, driveOutputs_frame, auxTicks_frame, modeTick_frame,
    netTickStart_frame, holdRate_frame]⟩
  rw [ticking_of (by simp [acqTick_frame, rollWindow_frame, driveOutputs_frame, auxTicks_frame] :
    _ = (modeTick (netTickStart (holdRate s))).herd), modeTick_ticking]
  exact (ticking_of (by simp [netTickStart_frame])).trans (holdRate_ticking s)

theorem tickStarts_eq (s : State) : ∃ edges, tickStarts s = tickEffects (tickBegun (toTickStart s) (tickAfter s)) edges := ⟨_, rfl⟩

/-- Clocks that pass, with no slew under way. -/
theorem passClocks_time (s : State) (n : Nat) (hs : s.herd.slewRem = 0) :
    (passClocks s n).herd.ht = (steadyAfter s n).toNat / 2 ^ 32 % 2 ^ 64 ∧ (passClocks s n).herd.running = s.herd.running ∧
      (passClocks s n).herd.stepPending = s.herd.stepPending ∧ (passClocks s n).image = s.image ∧
      (passClocks s n).aon.timer = s.aon.timer + 4 * n := by
  refine ⟨?_, rfl, rfl, rfl, rfl⟩
  have adj : adjServo (countClocks n s) = adjServo s := rfl
  unfold passClocks addClocks
  dsimp only
  rw [herdAfter_steady (countClocks n s) n hs, adj]
  rfl

/-- Settles O42: the fewest clocks to the next tick start, and what the tick start leaves of them. -/
theorem ticksStart : Obligations.TicksStart := by
  unfold Obligations.TicksStart
  refine ⟨fun s hr hp hs hc ha hadj ht => ?runs, fun s hr => ?rests⟩
  case runs =>
    intro after
    let u : State := { s with out := [] }
    have run : exec .tickStart s = .next (tickStarts u) := congrArg Host.Outcome.next (if_pos hr)
    obtain ⟨edges, heq⟩ := tickStarts_eq u
    obtain ⟨hht, hrun, hstep, himage, htimer⟩ := passClocks_time u (clocksTo u (nextTick u)) hs
    obtain ⟨hbegun, hbegunImage, hbegunAon⟩ := tickBegun_time (toTickStart u) (tickAfter u)
    unfold toTickStart at heq hbegun hbegunImage hbegunAon
    generalize passClocks u (clocksTo u (nextTick u)) = x at heq hht hrun hstep himage htimer hbegun hbegunImage hbegunAon
    generalize tickBegun x (tickAfter u) = y at heq hbegun hbegunImage hbegunAon
    have stepOf : y.herd.stepPending = none := (congrArg (·.2.2.2) hbegun).trans (hstep.trans hp)
    have imageOf : y.image = s.image := hbegunImage.trans himage
    obtain ⟨htime, haon⟩ := tickEffects_time y edges stepOf (by rw [imageOf]; exact hc) (by unfold imageActive at ha ⊢; rw [imageOf]; exact ha)
    rw [← heq] at htime haon
    have all := htime.trans hbegun
    obtain ⟨hreach, hleast⟩ := clocksTo_least u (nextTick u) hs hadj ht
    refine ⟨_, clocksTo u (nextTick u), run, hreach, hleast, ?_, ?_, ?_, ?_⟩
    · exact (congrArg (·.1) all).trans hht
    · exact congrArg (·.2.1) all
    · exact (congrArg (·.2.2.1) all).trans (hrun.trans hr)
    · exact (congrArg AonState.timer (haon.trans hbegunAon)).trans htimer
  case rests =>
    exact congrArg Host.Outcome.next (if_neg (by simp [hr]))

end Sys2Proof.Machine
end

section
/-! Proofs about a re-planning period (07_cell_planning.md R155 to R162). -/

namespace Sys2Proof.Machine

/-! ### What ends a period (R159) -/

theorem begin_plan (clk : Nat) (s : State) : (begin clk s).plan = s.plan := by simp [begin_frame]

theorem begin_piste (clk : Nat) (s : State) : (begin clk s).piste = s.piste := by simp [begin_frame]

theorem planFails_plan (s : State) (n : Nat) :
    (planFails s n).plan.phase = .ended ∧ (planFails s n).plan.lastResult = n ∧ (planFails s n).plan.committed = s.plan.committed := by
  unfold planFails
  dsimp only
  split <;> simp [withPlan, log_frame, trace_frame, bump_frame, bumpAt_frame]

/-- A period that fails ends with its code, and leaves the committed plan, the solver and the leases. -/
theorem planFails_begin (clk : Nat) (s : State) (n : Nat) :
    (planFails (begin clk s) n).plan.phase = .ended ∧ (planFails (begin clk s) n).plan.lastResult = n ∧
      (planFails (begin clk s) n).plan.committed = s.plan.committed ∧ (planFails (begin clk s) n).piste = s.piste ∧
      (planFails (begin clk s) n).solver = s.solver := by
  obtain ⟨phase, result, committed⟩ := planFails_plan (begin clk s) n
  exact ⟨phase, result, by rw [committed, begin_plan], by simp [planFails_frame, begin_frame], by simp [planFails_frame, begin_frame]⟩

/-! ### The snapshot (R156, R162) -/

theorem takePath_waits (snap : Snapshot) (s : State) (w : PathWait) : (takePath snap s w).plan.waits = s.plan.waits := by
  unfold takePath
  simp [complete_frame, setArmPlan]

theorem plannerSnapshot_plan (s : State) : (plannerSnapshot s).plan.snapshot = some
      { time := tickStart s, mode := s.mode.mode, objs := s.objs, leases := s.piste.passRows, arms := (plannedArms s.objs).filterMap (armSnapshot s) } ∧
    (plannerSnapshot s).plan.periodStart = tickStart s ∧ (plannerSnapshot s).plan.phase = .posting ∧
    (plannerSnapshot s).plan.waits = s.plan.waits.filter (fun w => decide (tickStart s ≤ w.at_)) := by
  refine ⟨rfl, rfl, rfl, ?_⟩
  unfold plannerSnapshot
  dsimp only [withPlan]
  rw [foldl_keeps _ (·.plan.waits) (takePath_waits _)]
  dsimp only
  rw [foldl_keeps _ (·.plan.waits) (fun s a => by split <;> rfl)]
  exact List.filter_congr fun w _ => by simp [← decide_not]

theorem exec_plannerSnapshot (clk : Nat) (s : State) (hr : s.herd.running = true) (hd : drives (begin clk s) = true) (hp : domainOn s 7 = true)
    (hat : periodAt (begin clk s) (tickStart (begin clk s)) = true) (hnew : s.plan.periodStart ≠ tickStart (begin clk s))
    (hts : atTickStart (begin clk s) = true) (hm : s.mode.mode = .commission ∨ s.mode.mode = .run) (ht : modeTarget s = s.mode.mode) :
    exec (.plannerSnapshot clk) s = .next (plannerSnapshot (begin clk s)) := by
  have running : (begin clk s).herd.running = true := by rw [begin_running, hr]
  have mode : (begin clk s).mode = s.mode := by simp [begin_frame]
  have power : domainOn (begin clk s) 7 = true := by
    unfold domainOn
    rw [(by simp [begin_frame] : (begin clk s).power = s.power)]
    exact hp
  have target : modeTarget (begin clk s) = (begin clk s).mode.mode := by
    unfold modeTarget
    rw [mode]
    exact ht
  refine congrArg Host.Outcome.next (if_pos ?_)
  rw [running, hd, power, hat, hts, begin_plan, target, mode]
  simpa [hnew] using hm

/-! ### Posting (R155, R180) -/

/-- What the planner asks of the run it starts, which every part of its start keeps. -/
def AsAsked (q r : SolverRun) (vals : SolverValues) : Prop :=
  q.planner = r.planner ∧ q.op = r.op ∧ q.slot = r.slot ∧ q.deadline = r.deadline ∧ q.started = true ∧ q.values = vals

/-- The tests after iteration 0 may end the run, and keep it as the one that executes. -/
theorem loopTested_current (s : State) (q r : SolverRun) (vals : SolverValues) (he : q.ended = none) (ha : AsAsked q r vals) :
    ∃ p, (match loopTests (executing s q) q with
      | some (c, gd) => stopCurrent (executing s q) c gd
      | none => executing s q).solver.current = some p ∧ AsAsked p r vals := by
  split
  · next c gd _ => exact ⟨{ q with ended := some c, guardStop := gd }, congrArg (·.current) (stopCurrent_current _ _ _ q rfl he), ha⟩
  · exact ⟨q, rfl, ha⟩

/-- Whatever iteration 0 finds, the run is the one that executes. -/
theorem iterationZero_current (s : State) (st : Structure) (id : Nat) (r : SolverRun) (he : r.ended = none) (hs : r.started = true) :
    ∃ q, (iterationZero s st id r).solver.current = some q ∧ AsAsked q r r.values := by
  unfold iterationZero
  dsimp only
  refine iteInduction (motive := fun x : State => ∃ q, x.solver.current = some q ∧ AsAsked q r r.values) (fun _ => ?late) (fun _ => ?timely)
  case late => exact ⟨_, rfl, rfl, rfl, rfl, rfl, hs, rfl⟩
  case timely =>
    refine iteInduction (motive := fun x : State => ∃ q, x.solver.current = some q ∧ AsAsked q r r.values) (fun _ => ?crossed) (fun _ => ?sound)
    case crossed => exact ⟨_, rfl, rfl, rfl, rfl, rfl, hs, rfl⟩
    case sound =>
      refine iteInduction (motive := fun x : State => ∃ q, x.solver.current = some q ∧ AsAsked q r r.values) (fun _ => ?nan) (fun _ => ?finite)
      case nan => exact ⟨_, rfl, rfl, rfl, rfl, rfl, hs, rfl⟩
      case finite => exact loopTested_current s _ r r.values he ⟨rfl, rfl, rfl, rfl, hs, rfl⟩

/-- An IPM run on a resident slot with nothing staged starts with the values of the slot. -/
theorem startRun_ipm (s : State) (r : SolverRun) (st : Structure) (he : r.ended = none) (ho : r.op = .ipm) (hi : solverIsolated s = false)
    (hl : (slotOf s r.slot).load = .resident) (hst : (slotOf s r.slot).structure? = some st) (hd : (slotOf s r.slot).staged = []) :
    ∃ q, (startRun s r).solver.current = some q ∧ AsAsked q r (slotOf s r.slot).values := by
  unfold startRun
  simp only [he, hi, hl, hst, hd, ho, Option.isSome_none, Bool.false_eq_true, if_false, List.foldl_nil]
  obtain ⟨q, current, planner, op, rest⟩ := iterationZero_current (setSlot s r.slot (fun g => { g with values := (slotOf s r.slot).values, staged := [] })) st
    (slotOf s r.slot).id { r with op := .ipm, started := true, startTime := now s, values := (slotOf s r.slot).values, ended := none }
    rfl rfl
  exact ⟨q, current, planner, op.trans ho.symm, rest⟩

/-- The run the planner posts. -/
def plannerRun (s : State) (slot deadline : Nat) : SolverRun :=
  { slot := slot, op := .ipm, planner := true, warm := true, warmSlot := slot, deadline := deadline, tag := 0, since := now s }

theorem startPlanner_idle (s : State) (slot deadline : Nat) (h : s.solver.current = none) :
    startPlanner s slot deadline = startRun s (plannerRun s slot deadline) := by
  unfold startPlanner
  rw [h]
  rfl

/-- The state in which the planner's run starts: its problem is in its slot. -/
def postedState (s : State) (snap : Snapshot) : State :=
  withPlan (withSolver (setSlot s s.plan.slot (fun g => { g with values := problemValues s snap g.values }))
    (fun v => { v with current := v.current.filter (fun r => !r.planner) })) (fun p => { p with phase := .solving })

theorem plannerPost_starts (s : State) (snap : Snapshot) (hs : s.plan.snapshot = some snap) (hr : s.plan.resident = true)
    (hi : solverIsolated s = false) (hp : domainOn s 5 = true) (hl : (slotOf s s.plan.slot).load = .resident) :
    plannerPost s = startPlanner (postedState s snap) s.plan.slot (s.plan.periodStart + ob snap.objs 0x30 0 2 * 1000) := by
  unfold plannerPost
  dsimp only
  rw [hs]
  dsimp only
  rw [hr, hi, hp, hl]
  rfl

theorem plannerPost_fails (s : State) (snap : Snapshot) (hs : s.plan.snapshot = some snap)
    (h : s.plan.resident = false ∨ solverIsolated s = true ∨ domainOn s 5 = false ∨ (slotOf s s.plan.slot).load ≠ .resident) :
    plannerPost s = planFails s 9 := by
  unfold plannerPost
  dsimp only
  rw [hs]
  refine if_pos ?_
  simp only [Bool.or_eq_true, Bool.not_eq_true', bne_iff_ne]
  tauto

theorem postedState_slot (s : State) (snap : Snapshot) (h : s.plan.slot < s.solver.slots.length) :
    slotOf (postedState s snap) s.plan.slot =
      { slotOf s s.plan.slot with values := problemValues s snap (slotOf s s.plan.slot).values } :=
  slotOf_setSlot_same s s.plan.slot _ h

theorem plannerPost_current (s : State) (snap : Snapshot) (st : Structure) (hs : s.plan.snapshot = some snap) (hr : s.plan.resident = true)
    (hi : solverIsolated s = false) (hp : domainOn s 5 = true) (hl : (slotOf s s.plan.slot).load = .resident)
    (hst : (slotOf s s.plan.slot).structure? = some st) (hd : (slotOf s s.plan.slot).staged = [])
    (hlen : s.plan.slot < s.solver.slots.length) (hc : s.solver.current = none) :
    (plannerPost s).plan.phase = .solving ∧ ∃ q, (plannerPost s).solver.current = some q ∧
      AsAsked q (plannerRun s s.plan.slot (s.plan.periodStart + ob snap.objs 0x30 0 2 * 1000))
        (problemValues s snap (slotOf s s.plan.slot).values) := by
  have idle : (postedState s snap).solver.current = none := by
    show s.solver.current.filter _ = none
    rw [hc]
    rfl
  have slot := postedState_slot s snap hlen
  rw [plannerPost_starts s snap hs hr hi hp hl]
  constructor
  · rw [(by simp [startPlanner_frame] : (startPlanner (postedState s snap) _ _).plan = (postedState s snap).plan)]
    rfl
  · rw [startPlanner_idle _ _ _ idle]
    obtain ⟨q, current, asked⟩ := startRun_ipm (postedState s snap) (plannerRun s s.plan.slot _) st rfl rfl hi
      ((congrArg (·.load) slot).trans hl) ((congrArg (·.structure?) slot).trans hst) ((congrArg (·.staged) slot).trans hd)
    exact ⟨q, current, (congrArg (AsAsked q _) (congrArg (·.values) slot)).mp asked⟩

theorem begin_solverIsolated (clk : Nat) (s : State) : solverIsolated (begin clk s) = solverIsolated s := by
  unfold solverIsolated isolated
  rw [(by simp [begin_frame] : (begin clk s).mode = s.mode)]

theorem begin_domainOn (clk : Nat) (s : State) (d : Nat) : domainOn (begin clk s) d = domainOn s d := by
  unfold domainOn
  rw [(by simp [begin_frame] : (begin clk s).power = s.power)]

theorem exec_plannerPost (clk : Nat) (s : State) (h : s.plan.phase = .posting) :
    exec (.plannerPost clk) s = .next (plannerPost (begin clk s)) :=
  congrArg Host.Outcome.next (if_pos ((congrArg (·.phase) (begin_plan clk s)).trans h))

/-! ### The commit test (R158) -/

theorem exec_commitTest_late (clk : Nat) (s : State) (h : s.plan.phase = .testing) (hc : cutOff (begin clk s) = true) :
    exec (.commitTest clk) s = .next (planFails (begin clk s) 7) :=
  congrArg Host.Outcome.next ((if_pos ((congrArg (·.phase) (begin_plan clk s)).trans h)).trans (if_pos hc))

theorem exec_commitTest (clk : Nat) (s : State) (h : s.plan.phase = .testing) (hc : cutOff (begin clk s) = false) :
    exec (.commitTest clk) s = .next (commitTest (begin clk s)) :=
  congrArg Host.Outcome.next ((if_pos ((congrArg (·.phase) (begin_plan clk s)).trans h)).trans (if_neg (by rw [hc]; exact Bool.false_ne_true)))

section Test
variable (u : State) (snap : Snapshot) (g : SolverSlot)

/-- The test of one arm of a snapshot, as the commit test makes it. -/
def armTest (sn : ArmSnapshot) : Option ArmPassed :=
  testArm { u with objs := snap.objs } (snap.time + periodNs snap.objs) ((u.plan.lastSeq + 1) % 2 ^ 32) (statusCode u g.result) g.iterate.x sn

variable (hs : u.plan.snapshot = some snap) (hg : slotOf u u.plan.slot = g)
include hs hg

theorem commitTest_code (h : 2 ≤ statusCode u g.result) : commitTest u = planFails u (statusCode u g.result) := by
  unfold commitTest
  rw [hs]
  dsimp only
  rw [hg]
  exact if_pos h

theorem commitTest_nan (h : statusCode u g.result < 2) (hn : (iterateList g.iterate).all dFinite = false) : commitTest u = planFails u 3 := by
  unfold commitTest
  rw [hs]
  dsimp only
  rw [hg, if_neg (not_le.2 h), hn]
  rfl

theorem commitTest_arms (h : statusCode u g.result < 2) (hn : (iterateList g.iterate).all dFinite = true) :
    commitTest u = if (snap.arms.map (armTest u snap g)).all (·.isSome) then
      planCommits u snap (snap.time + periodNs snap.objs) ((u.plan.lastSeq + 1) % 2 ^ 32) (statusCode u g.result)
        ((snap.arms.map (armTest u snap g)).filterMap id) else planFails u 6 := by
  unfold commitTest
  rw [hs]
  dsimp only
  rw [hg, if_neg (not_le.2 h), hn]
  rfl

theorem commitTest_check (h : statusCode u g.result < 2) (hn : (iterateList g.iterate).all dFinite = true)
    (ha : ∃ sn ∈ snap.arms, armTest u snap g sn = none) : commitTest u = planFails u 6 := by
  obtain ⟨sn, mem, failed⟩ := ha
  rw [commitTest_arms u snap g hs hg h hn]
  refine if_neg fun all => ?_
  have passed := List.all_eq_true.1 all _ (List.mem_map_of_mem mem)
  rw [failed] at passed
  exact Bool.false_ne_true passed

theorem commitTest_commits (h : statusCode u g.result < 2) (hn : (iterateList g.iterate).all dFinite = true)
    (ha : ∀ sn ∈ snap.arms, (armTest u snap g sn).isSome = true) :
    commitTest u = planCommits u snap (snap.time + periodNs snap.objs) ((u.plan.lastSeq + 1) % 2 ^ 32) (statusCode u g.result)
      (snap.arms.filterMap (armTest u snap g)) := by
  rw [commitTest_arms u snap g hs hg h hn, if_pos (by simpa using ha), List.filterMap_map]
  rfl

end Test

/-- A commit keeps its plan, its code and its sequence number while it asks for its leases. -/
theorem planCommits_plan (s : State) (snap : Snapshot) (E seq code : Nat) (rs : List ArmPassed) :
    (planCommits s snap E seq code rs).plan.phase = .ended ∧ (planCommits s snap E seq code rs).plan.committedCode = code ∧
      (planCommits s snap E seq code rs).plan.lastSeq = seq ∧
      (planCommits s snap E seq code rs).plan.committed = some (snap.mode, rs.map (·.record)) := by
  have kept : ∀ {β : Type} (g : PlanState → β), (∀ (p : PlanState) l, g { p with arms := l } = g p) → ∀ (l : List ArmPassed) (x : State),
      g (l.foldl (fun s r => setArmPlan s r.arm.arm (fun p => { p with look := r.look })) x).plan = g x.plan :=
    fun g hg l x => foldl_keeps (fun s (r : ArmPassed) => setArmPlan s r.arm.arm (fun p => { p with look := r.look })) (fun y => g y.plan)
      (fun s r => hg ..) l x
  unfold planCommits
  dsimp only
  rw [foldl_keeps (askLeases snap E) (·.plan) (fun s x => by simp [askLeases_frame])]
  refine ⟨kept (·.phase) (fun _ _ => rfl) _ _, kept (·.committedCode) (fun _ _ => rfl) _ _, kept (·.lastSeq) (fun _ _ => rfl) _ _,
    kept (·.committed) (fun _ _ => rfl) _ _⟩

/-- Settles O43: the branches of the snapshot, the posting, the commit test and the cut-off, one by one. -/
theorem planPeriod : Obligations.PlanPeriod := by
  unfold Obligations.PlanPeriod
  refine ⟨?snapshot, ?posting, ?testing, ?late⟩
  case snapshot =>
    intro clk s s1 hr hd hp hat hnew hts hm ht
    obtain ⟨snapshot, start, phase, waits⟩ := plannerSnapshot_plan s1
    refine ⟨_, exec_plannerSnapshot clk s hr hd hp hat hnew hts hm ht, ?_, start, phase, ?_, ?_, ?_⟩
    · rw [snapshot]
      simp [s1, begin_frame]
    · rw [waits, begin_plan]
    · simp [plannerSnapshot_frame, begin_frame]
    · simp [plannerSnapshot_frame, begin_frame]
  case posting =>
    intro clk s snap hph hsn g
    have plan := begin_plan clk s
    have slot : slotOf (begin clk s) (begin clk s).plan.slot = g := by rw [begin_slotOf, plan]
    have run := exec_plannerPost clk s hph
    refine ⟨fun st hr hi hp hl hst hd hlen hc => ?_, fun h => ?_⟩
    · obtain ⟨phase, q, current, planner, op, slotq, deadline, started, values⟩ := plannerPost_current (begin clk s) snap st
        (by rw [plan, hsn]) (by rw [plan, hr]) (by rw [begin_solverIsolated, hi]) (by rw [begin_domainOn, hp]) (by rw [slot, hl])
        (by rw [slot, hst]) (by rw [slot, hd]) (by rw [plan, begin_solver]; exact hlen) (by rw [begin_solver, hc])
      exact ⟨_, q, run, phase, current, planner, op, by rw [slotq, ← plan]; rfl, by rw [deadline, ← plan]; rfl, started, by rw [values, slot]⟩
    · obtain ⟨phase, result, committed, -, solver⟩ := planFails_begin clk s 9
      rw [plannerPost_fails (begin clk s) snap (by rw [plan, hsn])
        (by rw [begin_solverIsolated, begin_domainOn, slot, plan]; exact h)] at run
      exact ⟨_, run, phase, result, committed, solver⟩
  case testing =>
    intro clk s snap s1 g code hph hsn E seq test fails
    have plan : s1.plan = s.plan := begin_plan clk s
    have snapshot : s1.plan.snapshot = some snap := by rw [plan, hsn]
    have slot : slotOf s1 s1.plan.slot = g := by rw [begin_slotOf, plan]
    have same : armTest s1 snap g = test := congrArg (fun p : PlanState =>
      testArm { s1 with objs := snap.objs } E ((p.lastSeq + 1) % 2 ^ 32) code g.iterate.x) plan
    have failed : ∀ n, exec (.commitTest clk) s = .next (planFails s1 n) → fails n := fun n run => by
      obtain ⟨phase, result, committed, piste, -⟩ := planFails_begin clk s n
      exact ⟨_, run, phase, result, committed, piste⟩
    refine ⟨fun hc => failed 7 (exec_commitTest_late clk s hph hc), fun hc h => failed _ ?_, fun hc h hn => failed _ ?_,
      fun hc h hn ha => failed _ ?_, fun hc h hn ha => ?_⟩
    · rw [exec_commitTest clk s hph hc, commitTest_code s1 snap g snapshot slot h]
    · rw [exec_commitTest clk s hph hc, commitTest_nan s1 snap g snapshot slot h hn]
    · rw [exec_commitTest clk s hph hc, commitTest_check s1 snap g snapshot slot h hn (by rw [same]; exact ha)]
    · obtain ⟨phase, pcode, pseq, committed⟩ := planCommits_plan s1 snap E ((s1.plan.lastSeq + 1) % 2 ^ 32) code (snap.arms.filterMap test)
      refine ⟨_, (exec_commitTest clk s hph hc).trans (congrArg Host.Outcome.next
        (commitTest_commits s1 snap g snapshot slot h hn (by rw [same]; exact ha))), ?_⟩
      rw [same]
      exact ⟨phase, pcode, by rw [pseq, plan], committed⟩
  case late =>
    intro clk s hc hph
    obtain ⟨phase, result, committed, piste, -⟩ := planFails_begin clk s 7
    refine ⟨_, congrArg Host.Outcome.next (if_pos ?_), phase, result, committed, piste⟩
    rw [hc, begin_plan]
    simpa [or_assoc] using hph

end Sys2Proof.Machine
end

section
/-! Proofs about the arbiter pass (09_piste_reservation.md R205, R206, R209). -/

namespace Sys2Proof.Machine

theorem mem_insertBy_of {α : Type} {lt : α → α → Bool} {x a : α} {l : List α} (h : a = x ∨ a ∈ l) : a ∈ insertBy lt x l := by
  induction l with
  | nil => simpa [insertBy] using h
  | cons b l ih =>
    unfold insertBy
    split
    · simpa using h
    · rcases h with h | h
      · exact List.mem_cons_of_mem _ (ih (.inl h))
      · rcases List.mem_cons.1 h with h | h
        · exact h ▸ List.mem_cons_self
        · exact List.mem_cons_of_mem _ (ih (.inr h))

/-! ### Expiry -/

theorem expireLeases_piste (s : State) (t : Nat) (p : Lease → Bool) : (expireLeases s t p).piste =
    { s.piste with leases := s.piste.leases.filter (fun l => !(p l && decide (l.finish ≤ t) && !l.kept)) } := by
  unfold expireLeases
  dsimp only
  rw [foldl_keeps _ (·.piste) (fun s _ => by simp [bump_frame])]
  rfl

theorem expireLeases_none (s : State) (t : Nat) (p : Lease → Bool) (h : ∀ l ∈ s.piste.leases, l.kept = true ∨ t < l.finish) :
    expireLeases s t p = s := by
  have none : s.piste.leases.filter (fun l => p l && decide (l.finish ≤ t) && !l.kept) = [] :=
    List.filter_eq_nil_iff.2 fun l hl => by
      rcases h l hl with kept | later
      · simp [kept]
      · simp [not_le.2 later]
  have all : s.piste.leases.filter (fun l => !(p l && decide (l.finish ≤ t) && !l.kept)) = s.piste.leases :=
    List.filter_eq_self.2 fun l hl => by
      rcases h l hl with kept | later
      · simp [kept]
      · simp [not_le.2 later]
  unfold expireLeases
  dsimp only [withPiste]
  rw [none, all]
  rfl

/-! ### The check of every tick (R209) -/

/-- Nothing is needed of an arm without a lease set, and so nothing is missing. -/
theorem nextSet_empty (s : State) (a : Nat) (hs : nth [] s.piste.sets a = []) (hn : nth [] s.piste.nextSets a = [])
    (hp : (armPlan s a).pending = []) : nextSet s a = [] := by
  have pending : (nth ({} : ArmPlan) s.plan.arms a).pending = [] := hp
  unfold nextSet
  rw [pending, hn, hs]
  exact ite_self _

theorem missingZones_empty (s : State) (a tp : Nat) (h : nextSet s a = []) : missingZones s a tp = [] := by
  unfold missingZones
  rw [h]
  rfl

theorem checkArm_idle (tp : Nat) (s : State) (a : Nat) (h : nextSet s a = []) : checkArm tp s a = s := by
  unfold checkArm
  rw [missingZones_empty s a tp h]
  exact ite_self _

/-! ### The stages of a pass (R205) -/

/-- Expiry and releases. -/
def passReleases (tp : Nat) (s : State) : State :=
  let s1 := expireLeases (withPiste s (fun q => { q with passLeases := q.leases, passHomes := q.homesHeld })) tp (fun _ => true)
  (s1.piste.releases.filter (fun r => decide (r.2 < tp))).foldl (fun s r => applyRelease s r.1)
    (withPiste s1 (fun q => { q with releases := q.releases.filter (fun r => !decide (r.2 < tp)) }))

/-- Extensions and requests. -/
def passGrants (tp : Nat) (s2 : State) : State :=
  if holdLasts s2 then s2
  else
    let exts := sortBy (fun (x y : ZoneExtension) => decide (x.arm < y.arm) || (x.arm == y.arm && decide (x.order < y.order)))
      (s2.piste.extensions.filter (fun x => decide (x.at_ < tp)))
    let s3 := exts.foldl (judgeExtension tp)
      (withPiste s2 (fun q => { q with extensions := q.extensions.filter (fun x => !decide (x.at_ < tp)) }))
    let cands := sortBy (ranksAbove s3.piste) (s3.piste.requests.filter (fun r => r.origin.isNone || decide (r.at_ < tp)))
    let g := cands.foldl (arbitrate tp) { s := s3 }
    withPiste g.s (fun q => { q with credits := newCredits q g.refused g.granted })

/-- The check of every arm, the completions and what the pass keeps of itself. -/
def passEnd (tp tick : Nat) (s4 : State) : State :=
  let s6 := (List.range 8).foldl (checkArm tp) (withPiste s4 (fun q => { q with checkedSets := (List.range 8).map (nextSet s4) }))
  mirrorPiste (withPiste (postDone s6) (fun q => { q with lastPass := tp, passTick := some tick, passRows := zoneRows (postDone s6) }))

theorem arbiterPass_stages (tp : Nat) (s : State) : arbiterPass tp s = passEnd tp s.herd.tick (passGrants tp (passReleases tp s)) := rfl

theorem passReleases_quiet (tp : Nat) (s : State) (h : ∀ l ∈ s.piste.leases, l.kept = true ∨ tp < l.finish) (hr : s.piste.releases = []) :
    passReleases tp s = withPiste s (fun q => { q with passLeases := q.leases, passHomes := q.homesHeld, releases := [] }) := by
  unfold passReleases
  rw [expireLeases_none (withPiste s (fun q => { q with passLeases := q.leases, passHomes := q.homesHeld })) tp _ h]
  dsimp only [withPiste]
  rw [hr]
  rfl

/-- A request that nothing blocks, on a zone of which its arm has no lease yet, is granted from the later of its start and the pass (R206). -/
theorem arbitrate_grants (tp : Nat) (g : ArbState) (r : ZoneRequest) (hh : armHeld g.s r.arm = false) (hf : tp < r.finish) (hs : r.start < r.finish)
    (hb : blockers g.s r.arm r.zone (max r.start tp) r.finish = []) (ho : armLeases g.s r.arm r.zone = []) (hl : g.s.piste.leases.length < 1024) :
    (arbitrate tp g r).s =
      let r2 := grant (dropRequest g.s r)
        { id := 0, arm := r.arm, zone := r.zone, planner := r.origin.isNone, start := max r.start tp, finish := r.finish }
      completeLease r2.1 r.origin r2.2 := by
  have late : ¬ r.finish ≤ raiseStart [] (max r.start tp) r.finish := not_le.2 (max_lt hs hf)
  unfold arbitrate
  dsimp only
  rw [hh, if_neg Bool.false_ne_true, if_neg (not_le.2 hf), hb, ho]
  dsimp only
  rw [if_neg late, if_neg (by simp), if_neg (not_le.2 hl)]
  rfl

/-- What a grant leaves of the tables. -/
theorem granted_piste (s : State) (r : ZoneRequest) (l0 : Lease) (o : Option Origin) (rest : List ZoneRequest)
    (h : s.piste.requests.filter (fun x => x.order != r.order) = rest) :
    ∃ done, (completeLease (grant (dropRequest s r) l0).1 o (grant (dropRequest s r) l0).2).piste = { s.piste with
      requests := rest, lastId := nextLeaseId s.piste.lastId, done := done
      leases := insertBy (fun x y => decide (x.id < y.id)) { l0 with id := nextLeaseId s.piste.lastId } s.piste.leases } := by
  have entered : (grant (dropRequest s r) l0).1.piste = { s.piste with
      requests := rest, lastId := nextLeaseId s.piste.lastId
      leases := insertBy (fun x y => decide (x.id < y.id)) { l0 with id := nextLeaseId s.piste.lastId } s.piste.leases } := by
    unfold grant
    simp [trace_frame, bump_frame, withPiste, dropRequest, h]
  unfold completeLease postLater
  cases o with
  | none => exact ⟨s.piste.done, entered⟩
  | some og => exact ⟨_, congrArg (fun q : PisteState => { q with done := q.done ++ [(og, stOk, leaseBytes (grant (dropRequest s r) l0).2)] }) entered⟩

section Grant
variable (tp : Nat) (s : State) (r : ZoneRequest) (hq : s.piste.requests = [r]) (he : s.piste.extensions = []) (hold : holdLasts s = false)
  (hdue : r.origin.isSome = true → r.at_ < tp)
include hq he hold hdue

theorem passGrants_single : ∃ credits : PisteState → List ((Nat × Nat) × Nat), passGrants tp s =
    withPiste (arbitrate tp { s := withPiste s (fun q => { q with extensions := [] }) } r).s (fun q => { q with credits := credits q }) := by
  have due : ([r].filter (fun r => r.origin.isNone || decide (r.at_ < tp))) = [r] :=
    List.filter_eq_self.2 fun x hx => by
      rw [List.mem_singleton.1 hx]
      cases ho : r.origin with
      | none => rfl
      | some o => simp [hdue (by rw [ho]; rfl)]
  unfold passGrants
  rw [if_neg (by rw [hold]; exact Bool.false_ne_true)]
  dsimp only [withPiste]
  rw [he]
  dsimp only [List.filter_nil, sortBy, List.foldl_nil]
  rw [hq, due]
  exact ⟨fun q => newCredits q (arbitrate tp { s := _ } r).refused (arbitrate tp { s := _ } r).granted, rfl⟩

variable (hheld : armHeld s r.arm = false) (hf : tp < r.finish) (hs : r.start < r.finish)
  (hb : blockers s r.arm r.zone (max r.start tp) r.finish = []) (ho : armLeases s r.arm r.zone = []) (hl : s.piste.leases.length < 1024)
include hheld hf hs hb ho hl

/-- The tables after the grants of a pass with one request, which is granted. -/
theorem passGrants_piste : ∃ done credits, (passGrants tp s).piste = { s.piste with
      extensions := [], requests := [], lastId := nextLeaseId s.piste.lastId, done := done, credits := credits
      leases := insertBy (fun x y => decide (x.id < y.id)) { id := nextLeaseId s.piste.lastId, arm := r.arm, zone := r.zone
                                                             planner := r.origin.isNone, start := max r.start tp, finish := r.finish } s.piste.leases } ∧
    (passGrants tp s).plan = s.plan := by
  obtain ⟨credits, passed⟩ := passGrants_single tp s r hq he hold hdue
  have own : s.piste.requests.filter (fun x => x.order != r.order) = [] := by
    rw [hq]
    simp
  obtain ⟨done, piste⟩ := granted_piste (withPiste s (fun q => { q with extensions := [] })) r
    { id := 0, arm := r.arm, zone := r.zone, planner := r.origin.isNone, start := max r.start tp, finish := r.finish } r.origin [] own
  rw [passed, arbitrate_grants tp { s := withPiste s (fun q => { q with extensions := [] }) } r hheld hf hs hb ho hl]
  refine ⟨done, _, congrArg (fun q : PisteState => { q with credits := credits q }) piste, ?_⟩
  simp [withPiste_frame, completeLease_frame, grant_frame, dropRequest_frame]

end Grant

/-- A pass in which no lease set asks for anything ends without a violation. -/
theorem passEnd_quiet (tp tick : Nat) (s : State) (h : ∀ a, nextSet s a = []) :
    ∃ sets rows, (passEnd tp tick s).piste =
      { s.piste with checkedSets := sets, done := [], lastPass := tp, passTick := some tick, passRows := rows } := by
  have still : ∀ (l : List Nat) (q : List (List LeaseNeed)), l.foldl (checkArm tp) (withPiste s (fun p => { p with checkedSets := q })) =
      withPiste s (fun p => { p with checkedSets := q }) := by
    intro l q
    induction l with
    | nil => rfl
    | cons a l ih => rw [List.foldl_cons, checkArm_idle tp (withPiste s (fun p => { p with checkedSets := q })) a (h a), ih]
  unfold passEnd
  dsimp only
  rw [still, (by simp [mirrorPiste_frame] : ∀ x, (mirrorPiste x).piste = x.piste)]
  dsimp only [withPiste]
  have posted : ∀ x : State, (postDone x).piste = { x.piste with done := [] } := fun x => by
    unfold postDone
    rw [foldl_keeps _ (·.piste) (fun s d => by simp [complete_frame])]
    rfl
  rw [posted]
  exact ⟨_, _, rfl⟩

theorem armLeases_empty (s : State) (a z : Nat) (h : ∀ l ∈ s.piste.leases, ¬(l.arm = a ∧ l.zone = z)) : armLeases s a z = [] := by
  unfold armLeases
  rw [List.filter_eq_nil_iff.2 fun l hl => by simpa using h l hl]
  rfl

/-- Settles O44: the leases that expire are filtered out, and a single unblocked request goes through the stages of a pass. -/
theorem arbiterPasses : Obligations.ArbiterPasses := by
  unfold Obligations.ArbiterPasses
  intro clk s s1 tp hup hnow htick
  have piste : s1.piste = s.piste := begin_piste clk s
  have tick : s1.herd.tick = s.herd.tick := begin_tick clk s
  have due : (arbiterUp s1 && decide (passStart s1 ≤ now s1) && s1.piste.passTick != some s1.herd.tick) = true := by
    rw [hup, piste, tick, decide_eq_true hnow, Bool.true_and, Bool.true_and]
    exact bne_iff_ne.2 htick
  refine ⟨fun id => ⟨_, congrArg Host.Outcome.next (if_pos due), ?_⟩, ?grant⟩
  · rw [expireLeases_piste, piste]
  case grant =>
    intro r hq hrel hext hsets hnext hpend hhold hheld hdue hf hs hkept hown hlen hblock
    have quiet := passReleases_quiet tp s1 (by rw [piste]; exact hkept) (by rw [piste]; exact hrel)
    have mode : s1.mode = s.mode := by simp [s1, begin_frame]
    have hold : holdLasts s1 = false := by
      unfold holdLasts
      rw [mode]
      exact hhold
    have held : armHeld s1 r.arm = false := by
      unfold armHeld
      rw [mode]
      exact hheld
    obtain ⟨done, credits, granted, plan⟩ := passGrants_piste tp (withPiste s1 (fun q =>
      { q with passLeases := q.leases, passHomes := q.homesHeld, releases := [] })) r (by rw [← hq, ← piste]; rfl) (by rw [← hext, ← piste]; rfl) hold hdue
      held hf hs hblock (armLeases_empty _ _ _ (by rw [← piste] at hown; exact hown)) (by rw [← piste] at hlen; exact hlen)
    have sets : (passGrants tp (passReleases tp s1)).piste.sets = s.piste.sets := by
      rw [quiet, granted, ← piste]
      rfl
    have nextSets : (passGrants tp (passReleases tp s1)).piste.nextSets = s.piste.nextSets := by
      rw [quiet, granted, ← piste]
      rfl
    have arms : (passGrants tp (passReleases tp s1)).plan.arms = s.plan.arms := by
      rw [quiet, plan]
      exact congrArg (·.arms) (begin_plan clk s)
    have empty : ∀ a, nextSet (passGrants tp (passReleases tp s1)) a = [] := fun a => nextSet_empty _ a ((congrArg (nth [] · a) sets).trans (hsets a))
      ((congrArg (nth [] · a) nextSets).trans (hnext a)) ((congrArg (fun l => (nth ({} : ArmPlan) l a).pending) arms).trans (hpend a))
    have lastId : s1.piste.lastId = s.piste.lastId := congrArg (·.lastId) piste
    obtain ⟨checked, rows, ended⟩ := passEnd_quiet tp s1.herd.tick _ empty
    rw [quiet, granted] at ended
    refine ⟨_, congrArg Host.Outcome.next ((if_pos due).trans (arbiterPass_stages _ s1)), ?_⟩
    rw [quiet, ended]
    refine ⟨rfl, rfl, congrArg some tick, congrArg nextLeaseId lastId, fun l hl => ?_, _,
      mem_insertBy_of (.inl rfl), congrArg nextLeaseId lastId, rfl, rfl, rfl, rfl⟩
    exact mem_insertBy_of (.inr (by rw [← piste] at hl; exact hl))

end Sys2Proof.Machine
end

section
/-! Proofs about the profile generator (10_motion_profiles.md R217 to R235). -/

namespace Sys2Proof.Machine

theorem begin_prof (clk : Nat) (s : State) : (begin clk s).prof = s.prof := by simp [begin_frame]

theorem chan_of {s t : State} (h : t.prof = s.prof) (ch : Nat) : chan t ch = chan s ch := congrArg (fun p : ProfileState => tget ({} : Channel) p.channels ch) h

@[simp] theorem begin_chan (clk : Nat) (s : State) (ch : Nat) : chan (begin clk s) ch = chan s ch := chan_of (begin_prof clk s) ch

theorem chan_setChan_same (s : State) (ch : Nat) (f : Channel → Channel) : chan (setChan s ch f) ch = f (chan s ch) :=
  tget_tset_same ({} : Channel) s.prof.channels ch _

theorem chan_setChan_other (s : State) (ch k : Nat) (f : Channel → Channel) (hf : f (chan s ch) ≠ {}) (h : k ≠ ch) :
    chan (setChan s ch f) k = chan s k :=
  (congrArg (tget ({} : Channel) · k) (if_neg hf)).trans (tget_tput_other _ s.prof.channels ch k _ h)

/-! ### What the parts of a pass keep: the moves that wait and the leases -/

/-- The moves that wait for a later pass, and the leases. -/
def passKept (s : State) : List MoveWait × List Lease := (s.prof.moves, s.piste.leases)

@[simp] theorem setChan_passKept (s : State) (ch : Nat) (f : Channel → Channel) : passKept (setChan s ch f) = passKept s := rfl

@[simp] theorem setArmMot_passKept (s : State) (a : Nat) (f : ArmMotion → ArmMotion) : passKept (setArmMot s a f) = passKept s := rfl

@[simp] theorem setArmPlan_passKept (s : State) (a : Nat) (f : ArmPlan → ArmPlan) : passKept (setArmPlan s a f) = passKept s := rfl

@[simp] theorem setMotion_passKept (s : State) (ch : Nat) (m : Motion) (id : Nat) (t : Int) : passKept (setMotion s ch m id t) = passKept s := rfl

@[simp] theorem refuseMove_passKept (s : State) (o : Origin) (ch : Nat) (r : MoveNo) : passKept (refuseMove s o ch r) = passKept s := by
  simp [passKept, refuseMove_frame]

@[simp] theorem complete_passKept (s : State) (o : Origin) (st : Nat) (r : Bytes) : passKept (complete s o st r) = passKept s := by
  simp [passKept, complete_frame]

@[simp] theorem acceptMove_passKept (s : State) (o : Origin) (ch : Nat) (e : Option Nat) : passKept (acceptMove s o ch e) = passKept s := by
  unfold acceptMove
  simp [passKept, complete_frame, trace_frame, bump_frame, withProf]

@[simp] theorem armMoves_passKept (s : State) (ch a : Nat) (set : List LeaseNeed) (src : ArmSource) :
    passKept (armMoves s ch a set src) = passKept s := by
  unfold armMoves
  dsimp only
  split <;> rfl

theorem foldl_passKept {α : Type} (f : State → α → State) (hf : ∀ s x, passKept (f s x) = passKept s) (l : List α) (s : State) :
    passKept (l.foldl f s) = passKept s := foldl_keeps f passKept hf l s

theorem acceptJoint_passKept (s : State) (w : MoveWait) (ch : Nat) (v a j : F32) (t : F64) (t0 : Nat) :
    passKept (acceptJoint s w ch v a j t t0) = passKept s := by
  unfold acceptJoint
  dsimp only
  (repeat' split) <;> simp

theorem acceptLinear_passKept (s : State) (w : MoveWait) (a : Nat) (sc : F32) (t : List F64) (t0 : Nat) :
    passKept (acceptLinear s w a sc t t0) = passKept s := by
  have joints : ∀ (l : List Nat) (x : State), passKept (l.foldl (fun y ch => setChan y ch (fun c =>
      { c with moveId := nextMoveId y, target := dToQ32 (nth 0 t (ch % 8)) })) x) = passKept x := foldl_passKept _ fun s ch => setChan_passKept ..
  unfold acceptLinear
  dsimp only
  (repeat' split) <;> simp only [refuseMove_passKept, acceptMove_passKept, armMoves_passKept, setArmMot_passKept, joints]

theorem acceptConveyor_passKept (s : State) (w : MoveWait) (ch conv : Nat) (ratio : F64) (off : Int) (en : F64) (t0 : Nat) :
    passKept (acceptConveyor s w ch conv ratio off en t0) = passKept s := by
  unfold acceptConveyor
  dsimp only
  (repeat' split) <;> simp

theorem acceptArmJog_passKept (s trial : State) (o : Origin) (ch a θ dur t0 : Nat) (h : passKept trial = passKept s) :
    passKept (acceptArmJog s trial o ch a θ dur t0) = passKept s := by
  unfold acceptArmJog
  split <;> simp [h]

theorem acceptJog_passKept (s : State) (w : MoveWait) (ch : Nat) (d : Int) (sp : F32) (t0 : Nat) :
    passKept (acceptJog s w ch d sp t0) = passKept s := by
  have armJog := fun m a θ dur => acceptArmJog_passKept s (setMotion s ch m (nextMoveId s) 0) w.origin ch a θ dur t0 rfl
  unfold acceptJog
  dsimp only
  (repeat' split) <;> simp [armJog]

theorem startStop_passKept (s : State) (ch t0 : Nat) (rel : Bool) : passKept (startStop s ch t0 rel) = passKept s := by
  unfold startStop
  dsimp only
  split <;> simp

theorem applyStop_passKept (t0 : Nat) (s : State) (c : Origin × Nat × Nat × Nat) : passKept (applyStop t0 s c) = passKept s := by
  have stops : ∀ (l : List Nat) (x : State), passKept (l.foldl (fun s ch => startStop s ch t0 false) x) = passKept x :=
    foldl_passKept _ fun s ch => startStop_passKept s ch t0 false
  unfold applyStop stopLinear
  dsimp only
  (repeat' split) <;> simp [stops, startStop_passKept]

theorem applyEvent_passKept (t0 : Nat) (s : State) (e : Nat × PassEvent) : passKept (applyEvent t0 s e) = passKept s := by
  unfold applyEvent
  split
  · unfold applyMove
    dsimp only
    split
    · exact refuseMove_passKept ..
    · split
      · exact acceptJoint_passKept ..
      · exact acceptLinear_passKept ..
      · exact acceptConveyor_passKept ..
      · exact acceptJog_passKept ..
  · exact applyStop_passKept ..

theorem conveyorStep_passKept (t0 : Nat) (s : State) (c : Nat) : passKept (conveyorStep t0 s c) = passKept s := by
  unfold conveyorStep
  dsimp only
  (repeat' split) <;> simp

theorem stopRaised_passKept (t0 : Nat) (s : State) (ch : Nat) : passKept (stopRaised t0 s ch) = passKept s := by
  unfold stopRaised
  dsimp only
  (repeat' split) <;> simp

theorem linearRaised_passKept (s : State) (a : Nat) : passKept (linearRaised s a) = passKept s := by
  unfold linearRaised
  dsimp only
  (repeat' split) <;> simp

theorem takePlan_passKept (s : State) (a : Nat) : passKept (takePlan s a) = passKept s := by
  unfold takePlan
  dsimp only
  split
  · rfl
  · split <;> rfl

theorem postSetpoint_passKept (s : State) (ch tag src flags : Nat) : passKept (postSetpoint s ch tag src flags) = passKept s := rfl

theorem sampleChan_passKept (t0 tag : Nat) (s : State) (ch : Nat) : passKept (sampleChan t0 tag s ch) = passKept s := by
  unfold sampleChan
  dsimp only
  split
  · rfl
  · rw [postSetpoint_passKept]
    split <;> simp [passKept, log_frame, bump_frame, setChan, withProf]

theorem sampleConveyor_passKept (tag : Nat) (s : State) (c : Nat) : passKept (sampleConveyor tag s c) = passKept s := by
  unfold sampleConveyor
  dsimp only
  rw [postSetpoint_passKept, setChan_passKept]

theorem finishChan_passKept (t0 : Nat) (s : State) (ch : Nat) : passKept (finishChan t0 s ch) = passKept s := by
  unfold finishChan
  dsimp only
  (repeat' split) <;> simp

theorem finishLinear_passKept (s : State) (a : Nat) : passKept (finishLinear s a) = passKept s := by
  unfold finishLinear
  dsimp only
  split
  · split
    · rw [setArmMot_passKept]
      exact foldl_passKept _ (fun s j => by split <;> rfl) _ _
    · rfl
  · rfl

theorem settleSource_passKept (s : State) (a : Nat) : passKept (settleSource s a) = passKept s := by
  unfold settleSource
  dsimp only
  split <;> simp

/-- The moves that wait stay, and no lease is granted. -/
def PassGoesOn (s t : State) : Prop := t.prof.moves = s.prof.moves ∧ ∀ l ∈ t.piste.leases, l ∈ s.piste.leases

theorem PassGoesOn.of_kept {s t : State} (h : passKept t = passKept s) : PassGoesOn s t :=
  ⟨congrArg Prod.fst h, fun l => (congrArg (l ∈ ·) (congrArg Prod.snd h)).mp⟩

theorem PassGoesOn.trans {s t u : State} (h : PassGoesOn s t) (k : PassGoesOn t u) : PassGoesOn s u := ⟨k.1.trans h.1, fun l hl => h.2 l (k.2 l hl)⟩

theorem PassGoesOn.fold {α : Type} (f : State → α → State) (hf : ∀ s x, PassGoesOn s (f s x)) (l : List α) : ∀ s, PassGoesOn s (l.foldl f s) := by
  induction l with
  | nil => exact fun s => .of_kept rfl
  | cons x l ih => exact fun s => (hf s x).trans (ih _)

theorem PassGoesOn.fold_kept {α : Type} (f : State → α → State) (hf : ∀ s x, passKept (f s x) = passKept s) (l : List α) (s : State) :
    PassGoesOn s (l.foldl f s) := .of_kept (foldl_passKept f hf l s)

/-- A ramp that ends releases leases at most. -/
theorem endRamp_goesOn (s : State) (a : Nat) : PassGoesOn s (endRamp s a) := by
  have released : ∀ x : State, PassGoesOn x (releaseStanding x a) := fun x => ⟨rfl, fun l hl => (List.mem_filter.1 hl).1⟩
  have stopped : PassGoesOn s (setArmPlan (setArmMot ((armChans s.objs a).foldl (fun s ch => setChan s ch (fun c => { c with motion := none })) s) a
      (fun m => { m with source := .stopped, ramp := false, linear := none, moveDone := false })) a
      (fun p => { p with following := none, pending := [] })) := .of_kept (foldl_passKept
        (fun s ch => setChan s ch (fun c => { c with motion := none })) (fun s ch => setChan_passKept ..) _ _)
  unfold endRamp
  dsimp only
  split
  · exact stopped.trans (released _)
  · exact stopped

/-! ### The stages of a pass (R218) -/

/-- What is due leaves its queue. -/
def passTaken (tp : Nat) (s : State) : State :=
  withProf s (fun p => { p with
    moves := p.moves.filter (fun w => !decide (w.due ≤ tp)), stops := p.stops.filter (fun c => !decide (c.2.2.2 < tp))
    teaches := p.teaches.filter (fun c => !decide (c.2.2 < tp)) })

/-- Steps 1 to 3: rates, ends of ramps, conveyors. -/
def passRates (s0 : State) (t0 : Nat) (arms : List Nat) : State :=
  (List.range 8).foldl (conveyorStep t0) (arms.foldl stoStop
    (arms.foldl (fun s a => if (armMot s a).ramp && dEq (armMot s a).rho 0 then endRamp s a else s) (arms.foldl (rateStep t0) s0)))

/-- The stops a channel meets at the pass. -/
def passStops (t0 : Nat) (s : State) (ch : Nat) : State :=
  match followEnds s ch with
  | some rel => startStop s ch t0 rel
  | none => if jogStops s ch t0 then startStop s ch t0 false else stopRaised t0 s ch

/-- Stops, moves and plans that begin at the pass. -/
def passMotions (s4 : State) (t0 : Nat) (arms chs free : List Nat) (due : List MoveWait) (stops : List (Origin × Nat × Nat × Nat)) : State :=
  let s5 := if holdLasts s4 || s4.mode.accepted = some .hold then free.foldl (fun s ch => startStop s ch t0 false) s4 else s4
  arms.foldl takePlan ((passEvents due stops).foldl (applyEvent t0) (chs.foldl (passStops t0) (arms.foldl linearRaised s5)))

/-- The setpoints of every channel. -/
def passSamples (s8 : State) (t0 tag : Nat) : State :=
  (List.range 8).foldl (sampleConveyor tag) ((List.range 72).foldl (sampleChan t0 tag) s8)

/-- Motions that have ended, and teaches. -/
def passSettled (s10 : State) (t0 : Nat) (arms chs : List Nat) (teaches : List (Origin × Nat × Nat)) : State :=
  teaches.foldl (applyTeach t0) (arms.foldl settleSource (arms.foldl finishLinear (chs.foldl (finishChan t0) s10)))

theorem passRates_goesOn (s0 : State) (t0 : Nat) (arms : List Nat) : PassGoesOn s0 (passRates s0 t0 arms) := by
  have rates : PassGoesOn s0 (arms.foldl (rateStep t0) s0) := .fold_kept (rateStep t0) (fun s a => rfl) _ _
  have ramps : ∀ x, PassGoesOn x (arms.foldl (fun s a => if (armMot s a).ramp && dEq (armMot s a).rho 0 then endRamp s a else s) x) :=
    .fold _ (fun s a => by
      split
      · exact endRamp_goesOn s a
      · exact .of_kept rfl) _
  have stands : ∀ x, PassGoesOn x (arms.foldl stoStop x) := .fold _ (fun s a => by
    unfold stoStop
    split
    · exact endRamp_goesOn s a
    · exact .of_kept rfl) _
  exact ((rates.trans (ramps _)).trans (stands _)).trans (.fold_kept _ (conveyorStep_passKept t0) _ _)

theorem passStops_passKept (t0 : Nat) (s : State) (ch : Nat) : passKept (passStops t0 s ch) = passKept s := by
  unfold passStops
  split
  · exact startStop_passKept ..
  · split
    · exact startStop_passKept ..
    · exact stopRaised_passKept ..

theorem passMotions_goesOn (s4 : State) (t0 : Nat) (arms chs free : List Nat) (due : List MoveWait)
    (stops : List (Origin × Nat × Nat × Nat)) : PassGoesOn s4 (passMotions s4 t0 arms chs free due stops) := by
  have held : ∀ (c : Prop) [Decidable c] (l : List Nat), passKept (if c then l.foldl (fun s ch => startStop s ch t0 false) s4 else s4) = passKept s4 :=
    fun c _ l => by
      split
      · exact foldl_passKept _ (fun s ch => startStop_passKept s ch t0 false) l s4
      · rfl
  refine .of_kept ?_
  unfold passMotions
  dsimp only
  rw [foldl_passKept takePlan takePlan_passKept, foldl_passKept (applyEvent t0) (applyEvent_passKept t0),
    foldl_passKept (passStops t0) (passStops_passKept t0), foldl_passKept linearRaised linearRaised_passKept]
  exact held _ _

theorem passSamples_goesOn (s8 : State) (t0 tag : Nat) : PassGoesOn s8 (passSamples s8 t0 tag) :=
  PassGoesOn.trans (.fold_kept (sampleChan t0 tag) (sampleChan_passKept t0 tag) _ _)
    (.fold_kept (sampleConveyor tag) (sampleConveyor_passKept tag) _ _)

theorem passSettled_goesOn (s10 : State) (t0 : Nat) (arms chs : List Nat) (teaches : List (Origin × Nat × Nat)) :
    PassGoesOn s10 (passSettled s10 t0 arms chs teaches) := by
  have ended : PassGoesOn s10 (chs.foldl (finishChan t0) s10) := .fold_kept _ (finishChan_passKept t0) _ _
  exact ((ended.trans (.fold_kept _ finishLinear_passKept _ _)).trans (.fold_kept _ settleSource_passKept _ _)).trans
    (.fold_kept _ (fun s t => complete_passKept ..) _ _)

/-! ### The setpoints of a pass -/

theorem postSetpoint_setpoints (s : State) (ch tag src flags : Nat) :
    ∃ sp : Setpoint, sp.tick = tag ∧ (postSetpoint s ch tag src flags).ctl.setpoints = tput s.ctl.setpoints ch sp := ⟨_, rfl, rfl⟩

theorem sampleChan_setpoints (t0 tag : Nat) (s : State) (ch : Nat) :
    ∃ sp : Setpoint, sp.tick = tag ∧ (sampleChan t0 tag s ch).ctl.setpoints = tput s.ctl.setpoints ch sp := by
  unfold sampleChan
  split
  · exact postSetpoint_setpoints ..
  · dsimp only
    obtain ⟨sp, tick, put⟩ := postSetpoint_setpoints _ ch tag _ _
    refine ⟨sp, tick, put.trans ?_⟩
    split <;> simp [log_frame, bump_frame, setChan, withProf]

/-- Each channel of a list gets a setpoint of the tick, and one that has one keeps it or gets another of the same tick. -/
theorem foldl_setpoints (f : State → Nat → State) (g : Nat → Nat) (tag : Nat)
    (hf : ∀ s c, ∃ sp : Setpoint, sp.tick = tag ∧ (f s c).ctl.setpoints = tput s.ctl.setpoints (g c) sp) (l : List Nat) :
    ∀ (s : State) (ch : Nat), ch ∈ l.map g ∨ (tget ({} : Setpoint) s.ctl.setpoints ch).tick = tag →
      (tget ({} : Setpoint) (l.foldl f s).ctl.setpoints ch).tick = tag := by
  induction l with
  | nil => exact fun s ch h => h.resolve_left (List.not_mem_nil)
  | cons c l ih =>
    intro s ch h
    obtain ⟨sp, tick, put⟩ := hf s c
    refine ih (f s c) ch ?_
    rw [put]
    by_cases here : ch = g c
    · right
      rw [here, tget_tput_same, tick]
    · rw [tget_tput_other _ _ _ _ _ here]
      exact h.imp_left fun h => (List.mem_cons.1 h).resolve_left here

theorem passSamples_setpoints (s8 : State) (t0 tag ch : Nat) (h : ch < 80) :
    (tget ({} : Setpoint) (passSamples s8 t0 tag).ctl.setpoints ch).tick = tag := by
  refine foldl_setpoints (sampleConveyor tag) (72 + ·) tag (fun s c => postSetpoint_setpoints ..) _ _ ch ?_
  by_cases conv : 72 ≤ ch
  · exact .inl (List.mem_map.2 ⟨ch - 72, List.mem_range.2 (by omega), by omega⟩)
  · exact .inr (foldl_setpoints (sampleChan t0 tag) id tag (sampleChan_setpoints t0 tag) _ _ ch
      (.inl (List.mem_map.2 ⟨ch, List.mem_range.2 (by omega), rfl⟩)))

theorem passSettled_ctl (s10 : State) (t0 : Nat) (arms chs : List Nat) (teaches : List (Origin × Nat × Nat)) :
    (passSettled s10 t0 arms chs teaches).ctl = s10.ctl := by
  unfold passSettled
  rw [foldl_keeps (applyTeach t0) (·.ctl) (fun s t => by simp [applyTeach, complete_frame]),
    foldl_keeps settleSource (·.ctl) (fun s a => by simp [settleSource_frame]),
    foldl_keeps finishLinear (·.ctl) (fun s a => by simp [finishLinear_frame]),
    foldl_keeps (finishChan t0) (·.ctl) (fun s a => by simp [finishChan_frame])]

/-! ### The events -/

theorem profilePass_stages (tp : Nat) (s : State) :
    let arms := (List.range 8).filter (armPresent s.objs)
    let chs := (List.range 72).filter (chanPresent s.objs)
    let moved := passMotions (passRates (passTaken tp s) (nextTick s) arms) (nextTick s) arms chs (chs.filter (fun ch => (chanArm s.objs ch).isNone))
      (s.prof.moves.filter (fun w => decide (w.due ≤ tp))) (s.prof.stops.filter (fun c => decide (c.2.2.2 < tp)))
    profilePass tp s = withProf (passSettled (passSamples moved (nextTick s) (s.herd.tick + 1)) (nextTick s) arms chs
      (s.prof.teaches.filter (fun c => decide (c.2.2 < tp)))) (fun p => { p with passTick := some s.herd.tick }) := by
  unfold profilePass passMotions passRates passTaken passSamples passSettled
  dsimp only
  rfl

/-- A pass takes the moves that are due, gives every channel its setpoint and grants no lease. -/
theorem profilePass_spec (tp : Nat) (s : State) : (profilePass tp s).prof.passTick = some s.herd.tick ∧
    (profilePass tp s).prof.moves = s.prof.moves.filter (fun w => !decide (w.due ≤ tp)) ∧
    (∀ ch, ch < 80 → (tget ({} : Setpoint) (profilePass tp s).ctl.setpoints ch).tick = s.herd.tick + 1) ∧
    ∀ l ∈ (profilePass tp s).piste.leases, l ∈ s.piste.leases := by
  rw [profilePass_stages]
  generalize (List.range 8).filter (armPresent s.objs) = arms
  generalize (List.range 72).filter (chanPresent s.objs) = chs
  generalize chs.filter (fun ch => (chanArm s.objs ch).isNone) = free
  have moved := (passRates_goesOn (passTaken tp s) (nextTick s) arms).trans (passMotions_goesOn _ (nextTick s) arms chs free
    (s.prof.moves.filter (fun w => decide (w.due ≤ tp))) (s.prof.stops.filter (fun c => decide (c.2.2.2 < tp))))
  generalize passMotions _ _ _ _ _ _ _ = s8 at moved ⊢
  obtain ⟨moves, leases⟩ := (moved.trans (passSamples_goesOn s8 (nextTick s) (s.herd.tick + 1))).trans
    (passSettled_goesOn _ (nextTick s) arms chs (s.prof.teaches.filter (fun c => decide (c.2.2 < tp))))
  refine ⟨rfl, moves, fun ch h => ?_, leases⟩
  dsimp only [withProf]
  rw [passSettled_ctl]
  exact passSamples_setpoints s8 _ _ ch h

/-- The stop of a jog starts with the limits of the jog. -/
theorem startStop_jog (s : State) (ch t0 : Nat) (d : F64) (lim : Limits) (p : Profile) (last : Nat)
    (h : (chan s ch).motion = some (.jog d lim p last)) :
    ∃ q, startStop s ch t0 false = setChan s ch (fun c => { c with motion := some (.stop false lim q) }) := by
  unfold startStop
  dsimp only
  rw [h]
  exact ⟨_, rfl⟩

/-- Settles O45: the stages of a pass, the stop of a jog and the hold of a conveyor. -/
theorem profilePasses : Obligations.ProfilePasses := by
  unfold Obligations.ProfilePasses
  intro clk s s1
  refine ⟨fun hup hnow htick => ?pass, fun ch d lim p last hm hd => ?jog, fun c hc hen hage => ?conveyor⟩
  case pass =>
    have tick : s1.herd.tick = s.herd.tick := begin_tick clk s
    have prof : s1.prof = s.prof := begin_prof clk s
    have due : (profUp s1 && decide (profStart s1 s1.herd.tick ≤ now s1) && s1.prof.passTick != some s1.herd.tick) = true := by
      rw [hup, tick, prof, decide_eq_true hnow, Bool.true_and, Bool.true_and]
      exact bne_iff_ne.2 htick
    obtain ⟨passTick, moves, setpoints, leases⟩ := profilePass_spec (profStart s1 s1.herd.tick) s1
    have run : exec (.profilePass clk) s = .next (mirrorSend (profilePass (profStart s1 s1.herd.tick) s1)) := congrArg Host.Outcome.next (if_pos due)
    have sent : ∀ x, (mirrorSend x).prof = x.prof ∧ (mirrorSend x).ctl = x.ctl ∧ (mirrorSend x).piste = x.piste := fun x => by
      simp [mirrorSend_frame]
    obtain ⟨sprof, sctl, spiste⟩ := sent (profilePass (profStart s1 s1.herd.tick) s1)
    refine ⟨_, run, ?_, ?_, ?_, ?_⟩
    · rw [sprof, passTick, tick]
    · rw [sprof, moves, prof, tick]
    · rw [sctl, ← tick]
      exact setpoints
    · rw [spiste, ← begin_piste clk s]
      exact leases
  case jog =>
    have motion : (chan s1 ch).motion = some (.jog d lim p last) := by rw [begin_chan, hm]
    obtain ⟨q, stop⟩ := startStop_jog s1 ch (nextTick s1) d lim p last motion
    have run : exec (.jogTimeout clk ch) s = .next (startStop s1 ch (nextTick s1) false) := by
      show Host.Outcome.next (match (chan s1 ch).motion with
        | some (.jog _ _ _ last) => if last + ov s1 0x10 0 0x22 * 1000000 ≤ now s1 then startStop s1 ch (nextTick s1) false else s1
        | _ => s1) = _
      rw [motion, begin_ov]
      dsimp only
      rw [if_pos hd]
    refine ⟨_, q, run, ?_, fun k hk => ?_⟩
    · rw [stop, chan_setChan_same]
    · rw [stop, chan_setChan_other _ _ _ _ (fun h => Option.some_ne_none _ (congrArg (·.motion) h)) hk, begin_chan]
  case conveyor =>
    have field : s1.field = s.field := by simp [s1, begin_frame]
    have old : (decide (c < 8) && decide (ov s1 0x21 (72 + c) 0x11 < 8) &&
        decide (ov s1 0x21 (72 + c) 0x12 < (nth {} s1.field.encoders (ov s1 0x21 (72 + c) 0x11)).age)) = true := by
      rw [field, begin_ov, begin_ov, decide_eq_true hc, decide_eq_true hen, decide_eq_true hage]
      rfl
    have run : exec (.conveyorStale clk c) s = .next (setChan s1 (72 + c) (fun k => { k with
        vel := 0, acc := 0, convAge := (nth {} s1.field.encoders (ov s1 0x21 (72 + c) 0x11)).age, convStale := true })) :=
      congrArg Host.Outcome.next (if_pos old)
    refine ⟨_, run, ?_, ?_, ?_, ?_, fun k hk => ?_⟩
    · rw [chan_setChan_same]
    · rw [chan_setChan_same]
    · rw [chan_setChan_same, begin_chan]
    · rw [chan_setChan_same]
    · rw [chan_setChan_other _ _ _ _ (fun h => absurd (congrArg (·.convStale) h) (by simp)) hk, begin_chan]

end Sys2Proof.Machine
end

section
/-! Proofs about separation monitoring (14_separation_monitoring.md R286 to R303). -/

namespace Sys2Proof.Machine

theorem begin_sep (clk : Nat) (s : State) : (begin clk s).sep = s.sep := by simp [begin_frame]

theorem begin_objs (clk : Nat) (s : State) : (begin clk s).objs = s.objs := by simp [begin_frame]

/-! ### The step -/

theorem separationStep_sep (s : State) : ∃ persons ageP ageC worst worstDue staleP staleC, (separationStep s).sep = { s.sep with
    latch := { time := sepStart s, jointsP := s.sep.jointsP, jointsC := s.sep.jointsC, persons := persons, ageP := ageP, ageC := ageC }
    active := true, processor := none, chamois := none, worst := worst, worstDue := worstDue, staleDueP := staleP, staleDueC := staleC
    stepTick := some s.herd.tick } := by
  unfold separationStep
  dsimp only
  rw [(by simp [bumpN_frame] : ∀ (x : State) c i m n, (bumpN x c i m n).sep = x.sep)]
  exact ⟨_, _, _, _, _, _, _, rfl⟩

/-! ### Demands (R303) -/

/-- Each element below n changed by its own function. -/
theorem foldl_upd_nth {α : Type} (d : α) (f : Nat → α → α) (l : List α) (n : Nat) :
    ((List.range n).foldl (fun l a => upd l a (f a)) l).length = l.length ∧
    ∀ a, a < l.length → nth d ((List.range n).foldl (fun l a => upd l a (f a)) l) a = if a < n then f a (nth d l a) else nth d l a := by
  induction n with
  | zero => exact ⟨rfl, fun a _ => rfl⟩
  | succ n ih =>
    obtain ⟨length, element⟩ := ih
    rw [List.range_succ, List.foldl_append]
    refine ⟨(upd_length ..).trans length, fun a ha => ?_⟩
    rw [List.foldl_cons, List.foldl_nil]
    by_cases here : a = n
    · subst here
      rw [nth_upd_same _ _ _ _ (by rw [length]; exact ha), element a ha, if_neg (lt_irrefl a), if_pos (Nat.lt_succ_self a)]
    · rw [nth_upd_other _ _ _ _ _ here, element a ha]
      exact if_congr (by omega) rfl rfl

/-- The demands of a channel with those of its results added. -/
def addedDemands (rs : List SepResult) (l : List SepDemand) : List SepDemand :=
  (List.range 8).foldl (fun l a => upd l a (demandMax (nth {} rs a).demand)) l

theorem addedDemands_nth (rs : List SepResult) (l : List SepDemand) (a : Nat) (ha : a < 8) (hl : l.length = 8) :
    nth .none (addedDemands rs l) a = demandMax (nth {} rs a).demand (nth .none l a) :=
  ((foldl_upd_nth .none (fun a => demandMax (nth ({} : SepResult) rs a).demand) l 8).2 a (by omega)).trans (if_pos ha)

theorem channelResult_sep (s : State) (c : Bool) (rs : List SepResult) : (channelResult s c rs).sep =
    if c then { s.sep with demandC := addedDemands rs s.sep.demandC } else { s.sep with demandP := addedDemands rs s.sep.demandP } := by
  unfold channelResult
  rw [foldl_keeps (monitorArm c rs) (·.sep) (fun s a => by simp [monitorArm_frame])]
  have demands : ∀ (l : List Nat) (x : State), (l.foldl (fun s a => demand s c a (nth {} rs a).demand) x).sep =
      if c then { x.sep with demandC := l.foldl (fun l a => upd l a (demandMax (nth {} rs a).demand)) x.sep.demandC }
      else { x.sep with demandP := l.foldl (fun l a => upd l a (demandMax (nth {} rs a).demand)) x.sep.demandP } := by
    intro l
    induction l with
    | nil => exact fun x => by cases c <;> rfl
    | cons a l ih =>
      intro x
      rw [List.foldl_cons, ih]
      cases c <;> rfl
  exact demands _ s

/-! ### What is due (R288, R290) -/

/-- A stale record of a channel is taken: the demand for the arm is SS1. -/
theorem exec_jointStale_due (clk : Nat) (c : Bool) (a : Nat) (s : State)
    (h : (if c then s.sep.staleDueC else s.sep.staleDueP).getLsbD a = true) : ∃ t, exec (.jointStale clk c a) s = .next t ∧ t.sep =
      if c then { s.sep with demandC := upd s.sep.demandC a (demandMax .ss1), staleDueC := s.sep.staleDueC &&& ~~~(1#8 <<< a) }
      else { s.sep with demandP := upd s.sep.demandP a (demandMax .ss1), staleDueP := s.sep.staleDueP &&& ~~~(1#8 <<< a) } := by
  have due : (if c then (begin clk s).sep.staleDueC else (begin clk s).sep.staleDueP).getLsbD a = true := by rwa [begin_sep]
  refine ⟨_, congrArg Host.Outcome.next (if_pos due), ?_⟩
  cases c <;> simp [demand, withSep, begin_sep]

theorem exec_sensorWorst_due (clk k : Nat) (s : State) (h : s.sep.worstDue.getLsbD k = true) : ∃ t, exec (.sensorWorst clk k) s = .next t ∧
    t.sep = { s.sep with worstDue := s.sep.worstDue &&& ~~~(1#16 <<< k), worst := s.sep.worst ||| (1#16 <<< k) } := by
  have due : (begin clk s).sep.worstDue.getLsbD k = true := by rwa [begin_sep]
  refine ⟨_, congrArg Host.Outcome.next (if_pos due), ?_⟩
  split <;> simp [log_frame, bump_frame, withSep, begin_sep]

/-! ### Combination (R298, R303) -/

/-- What the combination of an arm gives it. -/
def Combined (v : SepState) (ps cs : List SepResult) (a : Nat) (r : ArmResult) : Prop :=
  r.stepTime = v.latch.time ∧ r.demand = demandMax (nth .none v.demandP a) (nth .none v.demandC a) ∧
  (nth .none v.demandP a ≠ .none ∨ nth .none v.demandC a ≠ .none → r.scale = 0) ∧
  (nth .none v.demandP a = .none → nth .none v.demandC a = .none → v.firstStep = false →
    min (nth {} v.results a).scale (min (nth {} ps a).target (nth {} cs a).target) ≤ r.scale ∧
      r.scale ≤ max (nth {} v.results a).scale (min (nth {} ps a).target (nth {} cs a).target))

theorem demandMax_none (p c : SepDemand) (h : p ≠ .none ∨ c ≠ .none) : demandMax p c ≠ .none := by
  cases p <;> cases c <;> simp_all [demandMax]

/-- A step toward the target does not pass it. -/
theorem scaleStep_between (old target fall rise : Nat) :
    min old target ≤ (if target < old then max target (old - fall) else min target (old + rise)) ∧
      (if target < old then max target (old - fall) else min target (old + rise)) ≤ max old target := by
  split <;> constructor <;> omega

theorem combineArm_sep (ps cs : List SepResult) (s : State) (a : Nat) :
    ∃ r, (combineArm ps cs s a).sep = { s.sep with results := upd s.sep.results a (fun _ => r) } ∧ Combined s.sep ps cs a r := by
  refine ⟨_, rfl, rfl, rfl, fun h => ?_, fun hp hc hf => ?_⟩
  · have some : (demandMax (nth .none s.sep.demandP a) (nth .none s.sep.demandC a) != .none) = true := bne_iff_ne.2 (demandMax_none _ _ h)
    exact if_pos (by rw [some, Bool.true_or])
  · have moved := scaleStep_between (nth {} s.sep.results a).scale (min (nth {} ps a).target (nth {} cs a).target) (ov s 0x50 0x80 0x0A)
      (ov s 0x50 0x80 0x0B)
    dsimp only
    rw [hp, hc, hf]
    exact moved

/-- Every arm of a list is combined once. -/
theorem foldl_combine (ps cs : List SepResult) (l : List Nat) (hl : l.Nodup) : ∀ s : State, (∀ a ∈ l, a < s.sep.results.length) →
    ∃ rs, (l.foldl (combineArm ps cs) s).sep = { s.sep with results := rs } ∧ (∀ a ∈ l, Combined s.sep ps cs a (nth {} rs a)) ∧
      ∀ a, a ∉ l → nth {} rs a = nth {} s.sep.results a := by
  induction l with
  | nil => exact fun s _ => ⟨s.sep.results, rfl, fun a h => absurd h List.not_mem_nil, fun a _ => rfl⟩
  | cons a l ih =>
    intro s hs
    obtain ⟨fresh, rest⟩ := List.nodup_cons.1 hl
    obtain ⟨r, step, combined⟩ := combineArm_sep ps cs s a
    obtain ⟨rs, sep, all, others⟩ := ih rest (combineArm ps cs s a) (fun b hb => by
      rw [step]
      simpa using hs b (List.mem_cons_of_mem _ hb))
    rw [step] at sep all others
    refine ⟨rs, sep, fun b hb => ?_, fun b hb => ?_⟩
    · rcases List.mem_cons.1 hb with rfl | hb
      · rw [others b fresh, nth_upd_same _ _ _ _ (hs b List.mem_cons_self)]
        exact combined
      · have other : b ≠ a := fun h => fresh (h ▸ hb)
        have kept := all b hb
        unfold Combined at kept ⊢
        rwa [nth_upd_other _ _ _ _ _ other] at kept
    · obtain ⟨other, out⟩ := not_or.1 (mt List.mem_cons.2 hb)
      rw [others b out, nth_upd_other _ _ _ _ _ other]

theorem sepArms_nodup (objs : List (Nat × Nat)) : (sepArms objs).Nodup := List.nodup_range.filter _

theorem sepArms_lt (objs : List (Nat × Nat)) {a : Nat} (h : a ∈ sepArms objs) : a < 8 := List.mem_range.1 (List.mem_filter.1 h).1

theorem combine_sep (s : State) (h : s.sep.results.length = 8) : (combine s).sep.active = false ∧ (combine s).sep.demandP = s.sep.demandP ∧
    (combine s).sep.demandC = s.sep.demandC ∧ ∀ a ∈ sepArms s.objs, Combined s.sep (s.sep.processor.getD (List.replicate 8 missingResult))
      (s.sep.chamois.getD (List.replicate 8 missingResult)) a (nth {} (combine s).sep.results a) := by
  have start : (diversity (withSep s (fun p => { p with active := false })) (sepArms s.objs) (s.sep.processor.getD (List.replicate 8 missingResult))
      (s.sep.chamois.getD (List.replicate 8 missingResult))).sep = { s.sep with active := false } := by
    rw [(by simp [diversity_frame] : ∀ x arms ps cs, (diversity x arms ps cs).sep = x.sep)]
    rfl
  obtain ⟨rs, sep, all, -⟩ := foldl_combine (s.sep.processor.getD (List.replicate 8 missingResult)) (s.sep.chamois.getD (List.replicate 8 missingResult))
    (sepArms s.objs) (sepArms_nodup _) (diversity (withSep s (fun p => { p with active := false })) (sepArms s.objs)
      (s.sep.processor.getD (List.replicate 8 missingResult)) (s.sep.chamois.getD (List.replicate 8 missingResult)))
    (fun a ha => by rw [start]; exact h.symm ▸ sepArms_lt _ ha)
  rw [start] at sep all
  have ended : (combine s).sep = { s.sep with active := false, results := rs, firstStep := false, doneTick := (combine s).sep.doneTick } := by
    unfold combine
    dsimp only
    rw [(by simp [bump_frame] : ∀ (x : State) c i m, (bump x c i m).sep = x.sep)]
    dsimp only [withSep] at sep ⊢
    rw [sep]
  rw [ended]
  exact ⟨rfl, rfl, rfl, all⟩

/-- Settles O46: the step, its due reports, the results, the combination and the release, one by one. -/
theorem separationSteps : Obligations.SeparationSteps := by
  unfold Obligations.SeparationSteps
  intro clk s s1
  have sep : s1.sep = s.sep := begin_sep clk s
  have objs : s1.objs = s.objs := begin_objs clk s
  refine ⟨fun hr ht hn hs => ?step, fun ch a ha hlp hlc hd => ?stale, fun k hk hd => ?worst, fun hac hnone hp hi hkin hl => ?processor,
    fun hac hnone hl => ?chamois, fun hac hat hl => ?combination, fun a ha hlp hlc hclear => ?release⟩
  case step =>
    obtain ⟨_, _, _, _, _, _, _, stepped⟩ := separationStep_sep s1
    have tick : s1.herd.tick = s.herd.tick := begin_tick clk s
    have run : exec (.separationStep clk) s = .next (separationStep s1) := congrArg Host.Outcome.next (if_pos (by
      rw [hr, ht, decide_eq_true hs, sep, tick, bne_iff_ne.2 hn]
      rfl))
    refine ⟨_, run, ?_⟩
    rw [stepped, tick, sep]
    exact ⟨rfl, rfl, rfl, rfl, rfl, rfl, rfl, rfl, rfl, rfl⟩
  case stale =>
    obtain ⟨t, run, taken⟩ := exec_jointStale_due clk ch a s hd
    refine ⟨t, run, ?_⟩
    rw [taken]
    cases ch with
    | false => exact ⟨nth_upd_same _ _ _ _ (by omega), getLsbD_clear _ _⟩
    | true => exact ⟨nth_upd_same _ _ _ _ (by omega), getLsbD_clear _ _⟩
  case worst =>
    obtain ⟨t, run, taken⟩ := exec_sensorWorst_due clk k s hd
    refine ⟨t, run, ?_⟩
    rw [taken]
    exact ⟨getLsbD_set _ k hk, getLsbD_clear _ k⟩
  case processor =>
    have run : exec (.processorResult clk) s =
        .next (channelResult (withSep s1 (fun p => { p with processor := some (sepResults s1 processorArm) })) false (sepResults s1 processorArm)) :=
      congrArg Host.Outcome.next (if_pos (by
        have iso : isolated s1 2 3 = false := by
          unfold isolated
          rw [(by simp [s1, begin_frame] : s1.mode = s.mode)]
          exact hi
        rw [sep, hac, hnone, begin_domainOn, hp, iso, hkin]
        rfl))
    refine ⟨_, run, ?_⟩
    rw [channelResult_sep]
    refine ⟨rfl, congrArg (·.demandC) sep, fun a ha => ?_⟩
    refine (addedDemands_nth _ s1.sep.demandP a ha (by rw [sep, hl])).trans ?_
    rw [sep]
  case chamois =>
    have run : exec (.chamoisResult clk) s =
        .next (channelResult (withSep s1 (fun p => { p with chamois := some (sepResults s1 chamoisArm) })) true (sepResults s1 chamoisArm)) :=
      congrArg Host.Outcome.next (if_pos (by
        rw [sep, hac, hnone]
        rfl))
    refine ⟨_, run, ?_⟩
    rw [channelResult_sep]
    refine ⟨rfl, congrArg (·.demandP) sep, fun a ha => ?_⟩
    refine (addedDemands_nth _ s1.sep.demandC a ha (by rw [sep, hl])).trans ?_
    rw [sep]
  case combination =>
    intro rs
    have run : exec (.separationCombination clk) s = .next (combine s1) := congrArg Host.Outcome.next (if_pos (by
      rw [sep, objs, hac, decide_eq_true hat]
      rfl))
    obtain ⟨active, demandP, demandC, combined⟩ := combine_sep s1 (by rw [sep, hl])
    rw [sep, objs] at combined
    exact ⟨_, run, active, by rw [demandP, sep], by rw [demandC, sep], combined⟩
  case release =>
    have run : exec (.ss2Release clk a) s = .next (withSep s1 (fun p =>
        { p with demandP := upd p.demandP a (fun _ => .none), demandC := upd p.demandC a (fun _ => .none) })) :=
      congrArg Host.Outcome.next (if_pos (by rw [begin_ov, sep]; exact hclear))
    refine ⟨_, run, ?_⟩
    dsimp only [withSep]
    rw [sep]
    exact ⟨nth_upd_same _ _ _ _ (by omega), nth_upd_same _ _ _ _ (by omega), fun b hb => ⟨nth_upd_other _ _ _ _ _ hb, nth_upd_other _ _ _ _ _ hb⟩⟩

end Sys2Proof.Machine
end

section
/-! Proofs about the evaluations of the safety channels (15_safety_channels.md R309 to R313). -/

namespace Sys2Proof.Machine

theorem begin_safety (clk : Nat) (s : State) : (begin clk s).safety = s.safety := by simp [begin_frame]

theorem begin_cham (clk : Nat) (s : State) : (begin clk s).cham = s.cham := by simp [begin_frame]

theorem begin_mode (clk : Nat) (s : State) : (begin clk s).mode = s.mode := by simp [begin_frame]

@[simp] theorem begin_safeCh (clk : Nat) (s : State) (c : Bool) : safeCh (begin clk s) c = safeCh s c := safety_same (begin_safety clk s) c

/-! ### The modes whose demand is STO (R313, R40) -/

/-- The mode that governs is BOOT, CONFIGURE or FAULT, by what has been accepted or by what is aimed at. -/
def StoMode (s : State) : Prop :=
  s.mode.accepted = some .fault ∨ modeTarget s = .boot ∨ modeTarget s = .configure ∨ modeTarget s = .fault

theorem stoMode_iff (s : State) : demandMode s = .boot ∨ demandMode s = .configure ∨ demandMode s = .fault ↔ StoMode s := by
  unfold demandMode StoMode
  dsimp only
  by_cases accepted : s.mode.accepted = some .fault
  · simp [accepted]
  · rw [if_neg accepted]
    split
    · next h => simp [accepted]
    · next h =>
      split
      · simp [accepted] at h ⊢
        tauto
      · simp [accepted]

theorem StoMode.of_mode {s t : State} (h : StoMode s) (he : t.mode = s.mode) : StoMode t := by
  unfold StoMode modeTarget at h ⊢
  rwa [he]

/-- A trigger of HOLD leaves what is in force and what is aimed at, and does not take back a FAULT. -/
theorem trigger_hold_mode (s : State) (w : Word) (c : Cause) : (trigger s .hold w c).mode.mode = s.mode.mode ∧
    (trigger s .hold w c).mode.target = s.mode.target ∧
    (s.mode.accepted = some .fault → (trigger s .hold w c).mode.accepted = some .fault) := by
  obtain ⟨-, mode, -, target, -⟩ := acceptTarget_mode s .hold w
  unfold trigger
  extract_lets wins
  split
  · exact ⟨rfl, rfl, id⟩
  · split
    · next h =>
      refine ⟨mode, target, fun fault => ?_⟩
      have force : targetInForce s = some .fault := by
        unfold targetInForce
        rw [fault]
      have outranked : wins = false := by
        simp only [wins, force]
        rfl
      rw [outranked, Bool.and_false] at h
      exact absurd h Bool.false_ne_true
    · split
      · exact ⟨rfl, rfl, id⟩
      · exact ⟨rfl, rfl, id⟩

theorem StoMode.trigger_hold {s : State} (h : StoMode s) (w : Word) (c : Cause) : StoMode (trigger s .hold w c) := by
  obtain ⟨mode, target, fault⟩ := trigger_hold_mode s w c
  unfold StoMode modeTarget at h ⊢
  rw [mode, target]
  exact h.imp_left fault

theorem StoMode.askHold {s : State} (h : StoMode s) (r : Cause × Bool) : StoMode (askHold s r) := by
  unfold Machine.askHold
  dsimp only
  split
  · exact h
  · split
    · exact h
    · split
      · exact StoMode.trigger_hold (s := { s with safety := { s.safety with holdInputs := s.safety.holdInputs ++ [r.1] } }) h 0 r.1
      · exact h

/-! ### What an evaluation leaves of its channel -/

/-- What a channel has counted and sampled, and the mode it was told. -/
def sampled (c : Channel2) : Nat × BitVec 8 × Bool × Mode := (c.evals, c.sw1, c.sreset, c.peerDemand)

/-- A channel keeps its samples and the stop states of its arms. -/
def KeepsArms (c : Bool) (s t : State) : Prop := sampled (safeCh t c) = sampled (safeCh s c) ∧ (safeCh t c).arms = (safeCh s c).arms

theorem KeepsArms.of_eq {c : Bool} {s t : State} (h : safeCh t c = safeCh s c) : KeepsArms c s t := by
  unfold KeepsArms
  rw [h]
  exact ⟨rfl, rfl⟩

theorem KeepsArms.trans {c : Bool} {s t u : State} (h : KeepsArms c s t) (k : KeepsArms c t u) : KeepsArms c s u := ⟨k.1.trans h.1, k.2.trans h.2⟩

theorem KeepsArms.set {c : Bool} (s : State) (f : Channel2 → Channel2) (hs : ∀ x, sampled (f x) = sampled x) (ha : ∀ x, (f x).arms = x.arms) :
    KeepsArms c s (setSafeCh s c f) := by
  unfold KeepsArms
  rw [safeCh_set]
  exact ⟨hs _, ha _⟩

theorem KeepsArms.fold {c : Bool} {α : Type} (f : State → α → State) (hf : ∀ s x, KeepsArms c s (f s x)) (l : List α) :
    ∀ s, KeepsArms c s (l.foldl f s) := by
  induction l with
  | nil => exact fun s => .of_eq rfl
  | cons x l ih => exact fun s => (hf s x).trans (ih _)

theorem bump_keepsArms (c : Bool) (s : State) (cls i m : Nat) : KeepsArms c s (bump s cls i m) := .of_eq (safety_same (by simp [bump_frame]) c)

theorem pairEdges_keepsArms (c : Bool) (s : State) : KeepsArms c s (pairEdges s) := by
  unfold pairEdges
  split
  · split
    · cases c <;> exact ⟨rfl, rfl⟩
    · exact .of_eq rfl
  · exact .of_eq rfl

theorem expireEdge_keepsArms (c : Bool) (s : State) : KeepsArms c s (expireEdge s c) := by
  have off : KeepsArms c s (setSafeCh s c (fun c => { c with reset := { c.reset with edge := none } })) := .set s _ (fun _ => rfl) (fun _ => rfl)
  unfold expireEdge
  dsimp only
  split
  · split
    · exact off
    · exact off.trans (bump_keepsArms ..)
  · exact .of_eq rfl

theorem stepSecond_keeps (x : Channel2) : sampled (stepSecond x) = sampled x ∧ (stepSecond x).arms = x.arms := by
  unfold stepSecond
  dsimp only
  (repeat' split) <;> exact ⟨rfl, rfl⟩

theorem trigger_safety (s : State) (m : Mode) (w : Word) (c : Cause) : (trigger s m w c).safety = s.safety := by simp [trigger_frame]

theorem askHold_keepsArms (c : Bool) (s : State) (r : Cause × Bool) : KeepsArms c s (askHold s r) := by
  have put : ∀ l, KeepsArms c s { s with safety := { s.safety with holdInputs := l } } := fun l => by cases c <;> exact ⟨rfl, rfl⟩
  unfold askHold
  dsimp only
  split
  · exact put _
  · split
    · exact .of_eq rfl
    · split
      · exact (put _).trans (.of_eq (safety_same (trigger_safety ..) c))
      · exact .of_eq rfl

theorem switchStuck_keepsArms (c : Bool) (s : State) (n : Nat) : KeepsArms c s (switchStuck s c n) := by
  obtain ⟨x, channel, -⟩ := switchStuck_ch s c n
  unfold KeepsArms
  rw [channel]
  exact ⟨rfl, rfl⟩

theorem stepSwitch_keepsArms (c : Bool) (rb : Nat) (cs : List Nat) (s : State) (n : Nat) : KeepsArms c s (stepSwitch c rb cs s n) := by
  have set : ∀ (x : State) (f : SafeSwitch → SafeSwitch), KeepsArms c x (setSafeCh x c (fun c => { c with switches := upd c.switches n f })) :=
    fun x f => .set x _ (fun _ => rfl) (fun _ => rfl)
  unfold stepSwitch
  dsimp only
  refine KeepsArms.trans ?_ (set _ _)
  split
  · exact .of_eq rfl
  · split
    · exact switchStuck_keepsArms c s n
    · exact set s _

/-! ### The strongest demand (R312) -/

theorem maxNat_ge (l : List Nat) (n : Nat) (h : n ∈ l) : n ≤ maxNat l := by
  suffices ∀ m, m ≤ l.foldl max m ∧ ∀ k ∈ l, k ≤ l.foldl max m from (this 0).2 n h
  clear h
  induction l with
  | nil => exact fun m => ⟨le_refl m, fun k hk => absurd hk List.not_mem_nil⟩
  | cons a l ih =>
    intro m
    obtain ⟨first, rest⟩ := ih (max m a)
    exact ⟨(le_max_left m a).trans first, fun k hk => (List.mem_cons.1 hk).elim (fun h => h ▸ (le_max_right m a).trans first) (rest k)⟩

theorem maxNat_le (l : List Nat) (n : Nat) (h : ∀ k ∈ l, k ≤ n) : maxNat l ≤ n := by
  suffices ∀ m, m ≤ n → l.foldl max m ≤ n from this 0 (Nat.zero_le n)
  induction l with
  | nil => exact fun m hm => hm
  | cons a l ih => exact fun m hm => ih (fun k hk => h k (List.mem_cons_of_mem _ hk)) _ (max_le hm (h a List.mem_cons_self))

theorem stopRank_le (code : Nat) : stopRank code ≤ 4 := by
  unfold stopRank
  split
  · exact le_refl 4
  · split <;> decide

/-- No source ranks above STO. -/
theorem armDemands_le (s : State) (c : Bool) (a : Nat) : ∀ r ∈ armDemands s c a, r.2 ≤ 4 := by
  have stop := stopRank_le
  have input : ∀ (f : Nat) (comm on latched : Bool) (code : Nat), ∀ r ∈ (if f = 1 then (if latched then [(5, stopRank code)] else [])
      else if f = 2 then (if on then [] else [(6, stopRank code)]) else if f = 3 then (if on then [] else [(7, 2)])
      else if (decide (f = 4) && comm) = true then (if on then [] else [(8, 2)]) else []), r.2 ≤ 4 := by
    intro f comm on latched code r hr
    split at hr
    · split at hr <;> simp_all
    · split at hr
      · split at hr <;> simp_all
      · split at hr
        · split at hr <;> simp_all
        · split at hr
          · split at hr <;> simp_all
          · exact absurd hr List.not_mem_nil
  have single : ∀ (p : Prop) [Decidable p] (k n : Nat), n ≤ 4 → ∀ r ∈ (if p then [(k, n)] else []), r.2 ≤ 4 := by
    intro p _ k n hn r hr
    split at hr
    · rw [List.mem_singleton.1 hr]
      exact hn
    · exact absurd hr List.not_mem_nil
  intro r hr
  unfold armDemands at hr
  simp only [List.mem_append, List.mem_flatMap] at hr
  rcases hr with (((((((((h | h) | h) | h) | h) | ⟨_, -, h⟩) | ⟨_, -, h⟩) | h) | h) | h) | h
  · exact single _ _ _ (by decide) r h
  · exact single _ _ _ (by decide) r h
  · exact single _ _ _ (by decide) r h
  · exact single _ _ _ (by decide) r h
  · exact single _ _ _ (by decide) r h
  · exact input _ _ _ _ _ r h
  · exact input _ _ _ _ _ r h
  · split at h <;> simp_all
  · exact single _ _ _ (by decide) r h
  · exact single _ _ _ (by decide) r h
  · exact single _ _ _ (by decide) r h

/-- A source of rank STO is named for every arm of the channel (Table 15-2). -/
def StoSource (c : Bool) (s : State) : Prop :=
  if c then s.cham.startLatch = true ∨ s.cham.stoLatch = true ∨ s.safety.chamois.peerDemand = .boot ∨ s.safety.chamois.peerDemand = .configure ∨
    s.safety.chamois.peerDemand = .fault
  else StoMode s

theorem armDemands_sto (s : State) (c : Bool) (a : Nat) (h : StoSource c s) : ∃ k, (k, 4) ∈ armDemands s c a := by
  have view : ∀ (p : Prop) [Decidable p], p → (0, 4) ∈ (if p then [(0, 4)] else []) := fun p _ hp => by simp [hp]
  unfold armDemands
  simp only [List.mem_append]
  cases c with
  | false =>
    refine ⟨0, ?_⟩
    iterate 10 left
    refine view _ ?_
    have mode := (stoMode_iff s).2 h
    simpa [viewMode, or_assoc] using mode
  | true =>
    rcases h with start | latched | told
    · refine ⟨1, ?_⟩
      iterate 9 left
      right
      simp [start]
    · refine ⟨if 40 ≤ wordElement s.cham.fault && wordElement s.cham.fault < 48 then 11 else 12, ?_⟩
      left
      right
      simp [latched]
    · refine ⟨0, ?_⟩
      iterate 10 left
      refine view _ ?_
      simpa [viewMode, or_assoc] using told

theorem nextStop_sto (x : ArmStop) : (nextStop 4 x).1 = .sto := by
  unfold nextStop
  split <;> rfl

/-! ### The stop states of an evaluation (R312) -/

theorem stopRank_max (s : State) (c : Bool) (a : Nat) (h : StoSource c s) : maxNat ((armDemands s c a).map (·.2)) = 4 := by
  obtain ⟨k, mem⟩ := armDemands_sto s c a h
  exact le_antisymm (maxNat_le _ _ fun r hr => by
    obtain ⟨d, hd, rfl⟩ := List.mem_map.1 hr
    exact armDemands_le s c a d hd) (maxNat_ge _ _ (List.mem_map.2 ⟨_, mem, rfl⟩))

theorem StoSource.set {c : Bool} {s : State} (h : StoSource c s) (a : Nat) (f : ArmStop → ArmStop) : StoSource c (setArmStop s c a f) := by
  cases c <;> exact h

theorem stepArm_set (c : Bool) (t : Nat) (s : State) (a : Nat) : ∃ f : ArmStop → ArmStop,
    safeCh (stepArm c t s a) c = { safeCh s c with arms := upd (safeCh s c).arms a f } ∧ (StoSource c s → ∀ x, (f x).state = .sto) := by
  have twice : ∀ (x : State) (f g : ArmStop → ArmStop), safeCh (setArmStop (setArmStop x c a f) c a g) c =
      { safeCh x c with arms := upd (safeCh x c).arms a (fun y => g (f y)) } := fun x f g => by
    unfold setArmStop
    rw [safeCh_set, safeCh_set]
    dsimp only
    rw [upd_twice]
  unfold stepArm
  extract_lets s0 ds d src old n s1
  split
  · exact ⟨_, twice s _ _, fun _ _ => rfl⟩
  · have final : safeCh (takeStop s1 c a n.1) c = safeCh (setArmStop s1 c a (fun x => { x with state := n.1 })) c :=
      safety_same (takeStop_safety s1 c a n.1) c
    have step : safeCh (setArmStop s1 c a (fun x => { x with state := n.1 })) c = { safeCh s0 c with arms := upd (safeCh s0 c).arms a (fun y =>
        { y with sources := src, endsInSto := if n.2 then false else y.endsInSto || (decide (d = 3) && old.state = .ss2)
                 demandTime := if n.2 then t else y.demandTime, v0 := if n.2 then y.lastSpeed else y.v0
                 sosPos := if n.1 = .sos && old.state = .sto then [] else y.sosPos, timeout := y.timeout && n.1 = old.state, state := n.1 }) } :=
      twice s0 _ _
    have first : safeCh s0 c = { safeCh s c with arms := upd (safeCh s c).arms a (fun x =>
        { x with violated := x.violated || x.violation, violation := false }) } := safeCh_set s c _
    rw [final, step, first]
    dsimp only
    rw [upd_twice]
    refine ⟨_, rfl, fun h x => ?_⟩
    have rank : d = 4 := stopRank_max s0 c a (h.set a _)
    show n.1 = .sto
    simp only [n, rank]
    exact nextStop_sto old

theorem stepArm_source (c : Bool) (t : Nat) (s : State) (a : Nat) (h : StoSource c s) : StoSource c (stepArm c t s a) := by
  cases c with
  | false => exact StoMode.of_mode h (by simp [stepArm_frame])
  | true =>
    obtain ⟨f, channel, -⟩ := stepArm_set true t s a
    have told : (stepArm true t s a).safety.chamois.peerDemand = s.safety.chamois.peerDemand := congrArg (·.peerDemand) channel
    have cham : (stepArm true t s a).cham = s.cham := by simp [stepArm_frame]
    unfold StoSource at h ⊢
    rw [told, cham]
    exact h

/-- Every arm of an evaluation takes STO where a source of that rank is named. -/
theorem foldl_stepArm (c : Bool) (t n : Nat) (s : State) : let u := (List.range n).foldl (stepArm c t) s
    sampled (safeCh u c) = sampled (safeCh s c) ∧ (safeCh u c).arms.length = (safeCh s c).arms.length ∧
    (StoSource c s → StoSource c u ∧ ∀ k, k < n → k < (safeCh s c).arms.length → (armStop u c k).state = .sto) := by
  induction n with
  | zero => exact ⟨rfl, rfl, fun h => ⟨h, fun k hk => absurd hk (Nat.not_lt_zero k)⟩⟩
  | succ n ih =>
    obtain ⟨samples, length, sto⟩ := ih
    rw [List.range_succ, List.foldl_append, List.foldl_cons, List.foldl_nil]
    generalize (List.range n).foldl (stepArm c t) s = u at samples length sto
    obtain ⟨f, channel, state⟩ := stepArm_set c t u n
    refine ⟨?_, ?_, fun h => ⟨stepArm_source c t u n (sto h).1, fun k hk hl => ?_⟩⟩
    · rw [channel, ← samples]
      rfl
    · rw [channel, ← length]
      exact upd_length ..
    · have arms : (safeCh (stepArm c t u n) c).arms = upd (safeCh u c).arms n f := by rw [channel]
      unfold armStop
      rw [arms]
      by_cases here : k = n
      · rw [here, nth_upd_same _ _ _ _ (by rw [length, ← here]; exact hl)]
        exact state (sto h).1 _
      · rw [nth_upd_other _ _ _ _ _ here]
        exact (sto h).2 k (by omega) hl

end Sys2Proof.Machine
end

section
/-! Proofs about the events of the safety channels: evaluations, status messages and what a channel finds wrong in the other
(15_safety_channels.md R309 to R313). -/

namespace Sys2Proof.Machine

/-! ### An evaluation -/

/-- The samples of an evaluation. -/
def takenSamples (c : Bool) (x : Samples) (s : State) : State :=
  setSafeCh s c (fun c =>
    let silentRun := if c.fresh then 0 else c.silentRun + 1
    let heard := if c.fresh then min 2 (c.heardRun + 1) else 0
    let r := stepReset c.evals (now s) x.sreset c.reset
    { c with
      evals := c.evals + 1, silentRun := silentRun, heardRun := heard, fresh := false, silent := c.silent && decide (heard < 2)
      inputs := (indexed c.inputs).map (fun i => stepInput s.objs i.1 (bit x.a i.1) (bit x.b i.1) i.2)
      nets := (usedNets s.objs).map (fun e => (e, stepNet s.objs e (tget {} c.nets e)))
      sreset := x.sreset, sw1 := BitVec.ofNat 8 x.sw1, reset := r.1 })

/-- The edges of SRESET, the second and the comparison. -/
def comparedSamples (c rejected : Bool) (s1 : State) : State :=
  let s2 := if rejected && !c then bump s1 0x60 0x80 9 else s1
  let s3 := setSafeCh (expireEdge (pairEdges s2) c) c stepSecond
  if (safeCh s3 c).silentRun = 0 then setSafeCh s3 c (stepCross (crossValues s3 c)) else s3

/-- The HOLD requests, of the processor channel. -/
def askedHolds (c : Bool) (s4 : State) : State := if c then s4 else (holdRequests s4).foldl askHold s4

/-- The commands to the drives. -/
def commanded (c : Bool) (s7 : State) : State :=
  setSafeCh s7 c (fun x => { x with commandNew := true, command := (List.range 8).map (fun a => if armPresent s7.objs a then governed s7 c a else 5) })

theorem evaluate_stages (c : Bool) (x : Samples) (s : State) : evaluate c x s = commanded c ((List.range 8).foldl
    (stepSwitch c x.readback x.currents) ((List.range 8).foldl (stepArm c (now s)) (askedHolds c
      (comparedSamples c (stepReset 0 (now s) x.sreset (safeCh s c).reset).2 (takenSamples c x s))))) := rfl

theorem commanded_keepsArms (c : Bool) (s : State) : KeepsArms c s (commanded c s) := .set s _ (fun _ => rfl) (fun _ => rfl)

theorem comparedSamples_keepsArms (c rejected : Bool) (s : State) : KeepsArms c s (comparedSamples c rejected s) := by
  unfold comparedSamples
  extract_lets s2 s3
  have bumped : KeepsArms c s s2 := by
    simp only [s2]
    split
    · exact bump_keepsArms ..
    · exact .of_eq rfl
  have second : KeepsArms c s s3 := ((bumped.trans (pairEdges_keepsArms c _)).trans (expireEdge_keepsArms c _)).trans
    (.set _ stepSecond (fun x => (stepSecond_keeps x).1) (fun x => (stepSecond_keeps x).2))
  split
  · exact second.trans (.set s3 (stepCross (crossValues s3 c)) (fun _ => rfl) (fun _ => rfl))
  · exact second

theorem askedHolds_keepsArms (c : Bool) (s : State) : KeepsArms c s (askedHolds c s) := by
  unfold askedHolds
  split
  · exact .of_eq rfl
  · exact .fold askHold (askHold_keepsArms c) _ _

theorem comparedSamples_mode (c rejected : Bool) (s : State) :
    (comparedSamples c rejected s).mode = s.mode ∧ (comparedSamples c rejected s).cham = s.cham := by
  unfold comparedSamples
  dsimp only
  split <;> simp [setSafeCh_frame, expireEdge_frame, pairEdges_frame, bump_frame]

theorem askedHolds_sto (s : State) (h : StoMode s) : StoMode (askedHolds false s) := by
  unfold askedHolds
  rw [if_neg Bool.false_ne_true]
  generalize holdRequests s = l
  induction l generalizing s with
  | nil => exact h
  | cons r l ih => exact ih _ (h.askHold r)

/-- A source of rank STO outlasts the samples. -/
theorem askedHolds_source (c rejected : Bool) (x : Samples) (s : State) (h : StoSource c s) :
    StoSource c (askedHolds c (comparedSamples c rejected (takenSamples c x s))) := by
  obtain ⟨mode, cham⟩ := comparedSamples_mode c rejected (takenSamples c x s)
  cases c with
  | false => exact askedHolds_sto _ (StoMode.of_mode h mode)
  | true =>
    obtain ⟨samples, -⟩ := comparedSamples_keepsArms true rejected (takenSamples true x s)
    have told := congrArg (·.2.2.2) samples
    unfold StoSource at h ⊢
    rw [show askedHolds true (comparedSamples true rejected (takenSamples true x s)) = comparedSamples true rejected (takenSamples true x s) from rfl, cham,
      show (comparedSamples true rejected (takenSamples true x s)).safety.chamois.peerDemand = s.safety.chamois.peerDemand from told]
    exact h

/-- An evaluation takes its samples, and puts every arm into STO where a source of that rank is named. -/
theorem evaluate_spec (c : Bool) (x : Samples) (s : State) (hl : (safeCh s c).arms.length = 8) :
    sampled (safeCh (evaluate c x s) c) = ((safeCh s c).evals + 1, BitVec.ofNat 8 x.sw1, x.sreset, (safeCh s c).peerDemand) ∧
    (StoSource c s → ∀ k, k < 8 → (armStop (evaluate c x s) c k).state = .sto) := by
  have stages := evaluate_stages c x s
  generalize (stepReset 0 (now s) x.sreset (safeCh s c).reset).2 = rejected at stages
  have heard := (comparedSamples_keepsArms c rejected (takenSamples c x s)).trans (askedHolds_keepsArms c _)
  have first : safeCh (takenSamples c x s) c = _ := safeCh_set s c _
  obtain ⟨samples, length, sto⟩ := foldl_stepArm c (now s) 8 (askedHolds c (comparedSamples c rejected (takenSamples c x s)))
  have switched := (KeepsArms.fold (stepSwitch c x.readback x.currents) (stepSwitch_keepsArms c x.readback x.currents) (List.range 8)
    ((List.range 8).foldl (stepArm c (now s)) (askedHolds c (comparedSamples c rejected (takenSamples c x s))))).trans
    (commanded_keepsArms c _)
  have arms8 : (safeCh (askedHolds c (comparedSamples c rejected (takenSamples c x s))) c).arms.length = 8 := by
    rw [heard.2, first]
    exact hl
  rw [stages]
  refine ⟨?_, fun h k hk => ?_⟩
  · rw [switched.1, samples, heard.1, first]
    rfl
  · unfold armStop
    rw [switched.2]
    exact (sto (askedHolds_source c rejected x s h)).2 k hk (by rw [arms8]; exact hk)

/-- The state of PROCESSOR_EVALUATION once its evaluation is done. -/
def processorEvaluated (period : Nat) (s2 : State) : State :=
  let s3 := setSafeCh s2 false (fun c => { c with slot := some period })
  let s4 := { s3 with pair := { s3.pair with peerRun := s3.pair.peerRun + b2n (pairOn s3.objs) } }
  if pairOn s4.objs && !pairDown s4 then emit s4 (.stops (s4.safety.processor.arms.map (·.state))) else s4

theorem processorEvaluated_safety (period : Nat) (s2 : State) : (processorEvaluated period s2).safety =
    { s2.safety with processor := { s2.safety.processor with slot := some period } } ∧ (processorEvaluated period s2).cham = s2.cham := by
  unfold processorEvaluated
  dsimp only
  split <;> exact ⟨rfl, rfl⟩

theorem exec_processorEvaluation (clk a b : Nat) (sr : Bool) (sw rb : Nat) (cs : List Nat) (s : State) (hr : s.herd.running = true)
    (hslot : s.safety.processor.slot ≠ some (now (begin clk s) / 250000)) : exec (.processorEvaluation clk a b sr sw rb cs) s =
      .next (processorEvaluated (now (begin clk s) / 250000) (evaluate false ⟨a, b, sr, sw, rb, cs⟩ (begin clk s))) :=
  congrArg Host.Outcome.next (if_pos (by
    rw [begin_running, hr, begin_safety, Bool.true_and]
    exact bne_iff_ne.2 hslot))

/-- The state of CHAMOIS_EVALUATION once its evaluation is done. -/
def chamoisEvaluated (s2 : State) : State := { s2 with cham := { s2.cham with ended := s2.cham.ended || chamoisEnded s2 } }

/-! ### Status messages -/

/-- The processor channel hears Chamois. -/
def heardChamois (s : State) : State :=
  setSafeCh s false (fun c => { c with fresh := true, messages := c.messages + 1, peer := viewOf s.safety.chamois })

/-- Chamois hears the processor channel, with the mode, the mode that governs and the arm holds. -/
def heardProcessor (s : State) : State :=
  setSafeCh s true (fun c => { c with
    fresh := true, messages := c.messages + 1, peer := viewOf s.safety.processor, peerDemand := demandMode s, peerMode := s.mode.mode
    peerHold := BitVec.ofNat 8 (holdMask s) })

/-- Chamois takes over the violations of the processor channel. -/
def latchViolations (s : State) : State :=
  (List.range 8).foldl (fun s a =>
    if (armStop s false a).violation || (armStop s false a).violated then (if s.cham.stoLatch then s else chamoisLatch s (chamoisWord (40 + a))) else s) s

theorem exec_statusToProcessor (clk : Nat) (s : State) : exec (.safetyStatusRx clk false) s = .next (heardChamois (begin clk s)) := rfl

theorem exec_statusToChamois (clk : Nat) (s : State) : exec (.safetyStatusRx clk true) s = .next (latchViolations (heardProcessor (begin clk s))) := rfl

theorem latchViolations_safety (s : State) : (latchViolations s).safety = s.safety :=
  foldl_keeps _ (·.safety) (fun s a => by
    split
    · split <;> rfl
    · rfl) _ s

theorem demandMode_of {s t : State} (h : t.mode = s.mode) : demandMode t = demandMode s := by
  unfold demandMode modeTarget
  rw [h]

/-! ### Faults that a channel finds in the other (R310, R311) -/

/-- FAULT is accepted where nothing keeps it. -/
def FaultFollows (s t : State) : Prop := s.mode.mode ≠ .boot → s.mode.mode ≠ .fault → targetInForce s = none → t.mode.accepted = some .fault

theorem faultFollows_of {s u : State} (h : u.mode = s.mode) (w : Word) (c : Cause) : FaultFollows s (faultError u w c) := fun hb hf ht =>
  faults_of u w c (by rw [h]; exact hb) (by rw [h]; exact hf) (by unfold targetInForce at ht ⊢; rw [h]; exact ht)

theorem faultError_safeCh (s : State) (w : Word) (c : Cause) (ch : Bool) : safeCh (faultError s w c) ch = safeCh s ch :=
  safety_same (by simp [faultError_frame]) ch

theorem faultError_cham (s : State) (w : Word) (c : Cause) : (faultError s w c).cham = s.cham := by simp [faultError_frame]

/-- A channel silent to another: its switches open. -/
def silenced (c : Channel2) : Channel2 := { c with silent := true, heardRun := 0, switches := c.switches.map (fun w => { w with closed := false }) }

theorem silenced_open (c : Channel2) : ∀ w ∈ (silenced c).switches, w.closed = false := fun w hw => by
  obtain ⟨v, -, rfl⟩ := List.mem_map.1 hw
  rfl

theorem silentToChamois_safety (s : State) (moving : Bool) : (silentToChamois s moving).safety = s.safety := by simp [silentToChamois_frame]

theorem silentToChamois_latches (s : State) : silentToChamois s true =
    if s.mode.mode = .boot then chamoisLatch s (errWord 2 6 0 3 false 60)
    else faultError (chamoisLatch s (errWord 2 6 0 3 false 60)) (errWord 2 6 0 3 false 60) (.silent true) := rfl

theorem silentToChamois_moving (s : State) : (silentToChamois s true).cham.stoLatch = true ∧ FaultFollows s (silentToChamois s true) := by
  have mode : ∀ w, (chamoisLatch s w).mode = s.mode := fun w => by simp [chamoisLatch_frame]
  rw [silentToChamois_latches]
  generalize errWord 2 6 0 3 false 60 = w
  split
  · next boot => exact ⟨rfl, fun hb => absurd boot hb⟩
  · exact ⟨congrArg (·.stoLatch) (faultError_cham _ w _), faultFollows_of (mode w) w _⟩

/-- The channel that falls silent is opened. -/
def silencedState (s : State) (c : Bool) : State := openAll (setSafeCh s c (fun c => { c with silent := true, heardRun := 0 })) c

theorem silencedState_ch (s : State) (c : Bool) : safeCh (silencedState s c) c = silenced (safeCh s c) := by
  unfold silencedState openAll
  rw [safeCh_set, safeCh_set]
  rfl

/-- The mode that Chamois was told moves the cell. -/
def toldMoving (c : Channel2) : Bool := c.peerMode = .commission || c.peerMode = .run || c.peerMode = .hold

theorem exec_silentToChamois (clk : Nat) (s : State) (hr : 2 ≤ (safeCh s true).silentRun) (hs : (safeCh s true).silent = false) :
    exec (.channelSilent clk true) s = .next (silentToChamois (silencedState (begin clk s) true) (toldMoving (begin clk s).safety.chamois)) :=
  congrArg Host.Outcome.next ((if_pos (by
    rw [begin_safeCh, hs, decide_eq_true hr]
    rfl)).trans (if_pos rfl))

theorem exec_silentToProcessor (clk : Nat) (s : State) (hr : 2 ≤ (safeCh s false).silentRun) (hs : (safeCh s false).silent = false) :
    exec (.channelSilent clk false) s = .next (faultError (setSafeCh (silencedState (begin clk s) false) false (fun c =>
      { c with faultStop := true })) (ioWord false 61) (.silent false)) :=
  congrArg Host.Outcome.next ((if_pos (by
    rw [begin_safeCh, hs, decide_eq_true hr]
    rfl)).trans (if_neg Bool.false_ne_true))

/-- A channel that has found a value that differs too long. -/
def mismatchMark (v : Nat) (c : Channel2) : Channel2 := { c with mismatched := c.mismatched ++ [v], faultStop := true }

/-- A channel that has found the other's oscillator out of range. -/
def oscillatorMark (c : Channel2) : Channel2 := { c with oscDue := false, oscillator := true, faultStop := true }

/-- A fault of a channel found by the other: the channel's own mark, Chamois's latch and FAULT. -/
theorem channelFault (s u : State) (c : Bool) (w v : Word) (cause : Cause) (hm : u.mode = s.mode) :
    safeCh (faultError (chamoisLatch u w) v cause) c = safeCh u c ∧ (faultError (chamoisLatch u w) v cause).cham.stoLatch = true ∧
      FaultFollows s (faultError (chamoisLatch u w) v cause) :=
  ⟨(faultError_safeCh _ v cause c).trans (safety_same rfl c), congrArg (·.stoLatch) (faultError_cham _ v cause),
    faultFollows_of (u := chamoisLatch u w) hm v cause⟩

/-- Settles O47: an evaluation is followed through its stages, a status message and a fault by the channel they set. -/
theorem channelsEvaluate : Obligations.ChannelsEvaluate := by
  unfold Obligations.ChannelsEvaluate
  refine ⟨?evaluations, ?faults⟩
  case evaluations =>
    intro clk a b sr sw rb cs s
    refine ⟨fun hr hslot hl => ?processor, fun hl => ?chamois, ?toProcessor, ?toChamois⟩
    case processor =>
      obtain ⟨samples, sto⟩ := evaluate_spec false ⟨a, b, sr, sw, rb, cs⟩ (begin clk s) (by rw [begin_safeCh]; exact hl)
      have run := exec_processorEvaluation clk a b sr sw rb cs s hr hslot
      have cham : (evaluate false ⟨a, b, sr, sw, rb, cs⟩ (begin clk s)).cham = s.cham := by simp [evaluate_frame, begin_frame]
      generalize evaluate false ⟨a, b, sr, sw, rb, cs⟩ (begin clk s) = u at samples sto run cham
      obtain ⟨safety, kept⟩ := processorEvaluated_safety (now (begin clk s) / 250000) u
      rw [begin_safeCh] at samples
      refine ⟨_, run, ?_, ?_, ?_, ?_, kept.trans cham, fun hm k hk => ?_⟩
      · rw [safety]
        exact congrArg (·.1) samples
      · rw [safety]
      · rw [safety]
        exact congrArg (·.2.1) samples
      · rw [safety]
        exact congrArg (·.2.2.1) samples
      · have state := sto (StoMode.of_mode ((stoMode_iff s).1 hm) (begin_mode clk s)) k hk
        unfold armStop safeCh at state ⊢
        rw [safety]
        exact state
    case chamois =>
      obtain ⟨samples, sto⟩ := evaluate_spec true ⟨a, b, sr, sw, rb, cs⟩ (begin clk s) (by rw [begin_safeCh]; exact hl)
      have cham : (evaluate true ⟨a, b, sr, sw, rb, cs⟩ (begin clk s)).cham = s.cham := by simp [evaluate_frame, begin_frame]
      have run : exec (.chamoisEvaluation clk a b sr sw rb cs) s = .next (chamoisEvaluated (evaluate true ⟨a, b, sr, sw, rb, cs⟩ (begin clk s))) := rfl
      generalize evaluate true ⟨a, b, sr, sw, rb, cs⟩ (begin clk s) = u at samples sto run cham
      rw [begin_safeCh] at samples
      refine ⟨_, run, congrArg (·.1) samples, congrArg (·.2.1) samples, congrArg (·.2.2.1) samples, congrArg (·.stoLatch) cham, fun h k hk => ?_⟩
      refine sto ?_ k hk
      unfold StoSource
      rw [begin_cham, begin_safety]
      exact h
    case toProcessor =>
      refine ⟨_, exec_statusToProcessor clk s, ?_⟩
      unfold heardChamois setSafeCh
      rw [begin_safety, begin_cham]
      exact ⟨rfl, rfl, rfl, rfl, rfl⟩
    case toChamois =>
      refine ⟨_, exec_statusToChamois clk s, ?_⟩
      rw [latchViolations_safety]
      unfold heardProcessor setSafeCh
      rw [begin_safety, begin_mode, demandMode_of (begin_mode clk s)]
      exact ⟨rfl, rfl, rfl, rfl, rfl, rfl⟩
  case faults =>
    intro clk by_ s faults
    have mode := begin_mode clk s
    refine ⟨fun hr hs => ?silent, fun v n hv hn hnew => ?cross, fun hd => ?oscillator⟩
    case silent =>
      have channel := silencedState_ch (begin clk s) by_
      have opened : (silencedState (begin clk s) by_).mode = s.mode := mode
      rw [begin_safeCh] at channel
      cases by_ with
      | true =>
        have run := exec_silentToChamois clk s hr hs
        rw [begin_safety] at run
        generalize silencedState (begin clk s) true = u at run channel opened
        have kept := (safety_same (silentToChamois_safety u (toldMoving s.safety.chamois)) true).trans channel
        refine ⟨_, run, congrArg (·.silent) kept, ?_, fun _ hm => ?_, fun h => absurd h (by decide)⟩
        · rw [kept]
          exact silenced_open _
        · have moving : toldMoving s.safety.chamois = true := by simpa [toldMoving, or_assoc] using hm
          obtain ⟨latched, follows⟩ := silentToChamois_moving u
          rw [moving]
          refine ⟨latched, fun hb hf ht => follows (by rw [opened]; exact hb) (by rw [opened]; exact hf) ?_⟩
          unfold targetInForce at ht ⊢
          rw [opened]
          exact ht
      | false =>
        have run := exec_silentToProcessor clk s hr hs
        generalize silencedState (begin clk s) false = u at run channel opened
        have kept : safeCh (faultError (setSafeCh u false (fun c => { c with faultStop := true })) (ioWord false 61) (.silent false)) false =
            { silenced (safeCh s false) with faultStop := true } := by
          rw [faultError_safeCh, safeCh_set, channel]
        refine ⟨_, run, congrArg (·.silent) kept, ?_, fun h => absurd h (by decide), fun _ => ⟨congrArg (·.faultStop) kept, ?_⟩⟩
        · rw [kept]
          exact silenced_open (safeCh s false)
        · exact faultFollows_of (u := setSafeCh u false (fun c => { c with faultStop := true })) opened _ _
    case cross =>
      have due : ((safeCh (begin clk s) by_).mismatch.any (fun r => r.1 = v && decide (8 < r.2)) &&
          !(safeCh (begin clk s) by_).mismatched.contains v) = true := by
        rw [begin_safeCh, List.any_eq_true.2 ⟨(v, n), hv, by simp [hn]⟩]
        simpa using hnew
      have run : exec (.crossMismatch clk by_ v) s = .next (faultError (chamoisLatch (bump (setSafeCh (begin clk s) by_ (mismatchMark v))
          0x60 0x80 0x0B) (chamoisWord 62)) (ioWord by_ 62) (.crossMismatch v)) := congrArg Host.Outcome.next (if_pos due)
      have marked : safeCh (bump (setSafeCh (begin clk s) by_ (mismatchMark v)) 0x60 0x80 0x0B) by_ = mismatchMark v (safeCh s by_) := by
        rw [safety_same (show (bump (setSafeCh (begin clk s) by_ (mismatchMark v)) 0x60 0x80 0x0B).safety = (setSafeCh (begin clk s) by_
          (mismatchMark v)).safety by simp [bump_frame]), safeCh_set, begin_safeCh]
      have opened : (bump (setSafeCh (begin clk s) by_ (mismatchMark v)) 0x60 0x80 0x0B).mode = s.mode := by
        simp [bump_frame, setSafeCh_frame, begin_frame]
      generalize bump (setSafeCh (begin clk s) by_ (mismatchMark v)) 0x60 0x80 0x0B = u at run marked opened
      obtain ⟨channel, latched, follows⟩ := channelFault s u by_ (chamoisWord 62) (ioWord by_ 62) (.crossMismatch v) opened
      refine ⟨_, run, ?_, ?_, latched, follows⟩
      · rw [channel, marked]
        exact List.mem_append_right _ (List.mem_singleton_self v)
      · rw [channel, marked]
        rfl
    case oscillator =>
      have due : (safeCh (begin clk s) by_).oscDue = true := by rw [begin_safeCh, hd]
      have run : exec (.oscillatorMismatch clk by_) s = .next (faultError (chamoisLatch (setSafeCh (begin clk s) by_ oscillatorMark) (chamoisWord 63))
          (ioWord by_ 63) (.oscMismatch by_)) := congrArg Host.Outcome.next (if_pos due)
      obtain ⟨channel, latched, follows⟩ := channelFault s (setSafeCh (begin clk s) by_ oscillatorMark) by_ (chamoisWord 63) (ioWord by_ 63)
        (.oscMismatch by_) mode
      rw [safeCh_set] at channel
      exact ⟨_, run, congrArg (·.oscDue) channel, congrArg (·.oscillator) channel, congrArg (·.faultStop) channel, latched, follows⟩

end Sys2Proof.Machine
end

section
/-! Proofs about safe inputs and outputs (15_safety_channels.md R314 to R333). -/

namespace Sys2Proof.Machine

theorem begin_reg (clk : Nat) (s : State) : (begin clk s).reg = s.reg := by simp [begin_frame]

/-! ### The error word (R452) -/

theorem errWordNow_of {s t : State} (hr : t.reg = s.reg) (hf : t.fresh.errMin = s.fresh.errMin) (w : Word) : errWordNow t w = errWordNow s w := by
  unfold errWordNow
  rw [hr, hf]

theorem bump_errMin (s : State) (c i m : Nat) : (bump s c i m).fresh.errMin = s.fresh.errMin := rfl

theorem bump_reg (s : State) (c i m : Nat) : (bump s c i m).reg = s.reg := by simp [bump_frame]

theorem bump_safety (s : State) (c i m : Nat) : (bump s c i m).safety = s.safety := by simp [bump_frame]

/-- A FAULT error that follows a step without errors of its own. -/
theorem faultError_word (u s : State) (w : Word) (c : Cause) (hr : u.reg = s.reg) (hf : u.fresh.errMin = s.fresh.errMin) :
    (faultError u w c).reg.errWord = errWordNow s w ∧ (faultError u w c).reg.errCount = satNat 32 (s.reg.errCount + 1) := by
  have pair := faultError_err u w c
  exact ⟨(congrArg Prod.fst pair).trans (errWordNow_of hr hf w), (congrArg Prod.snd pair).trans (by rw [hr])⟩

/-! ### Elements of a channel -/

theorem inputs_set (s : State) (c : Bool) (n : Nat) (f : SafeInput → SafeInput) (h : n < (safeCh s c).inputs.length) :
    nth {} (safeCh (setSafeCh s c (fun x => { x with inputs := upd x.inputs n f })) c).inputs n = f (nth {} (safeCh s c).inputs n) := by
  rw [safeCh_set]
  exact nth_upd_same _ _ _ _ h

theorem switches_set (s : State) (c : Bool) (n : Nat) (f : SafeSwitch → SafeSwitch) (h : n < (safeCh s c).switches.length) :
    nth {} (safeCh (setSafeCh s c (fun x => { x with switches := upd x.switches n f })) c).switches n = f (nth {} (safeCh s c).switches n) := by
  rw [safeCh_set]
  exact nth_upd_same _ _ _ _ h

theorem armStop_set (s : State) (c : Bool) (a : Nat) (f : ArmStop → ArmStop) (h : a < (safeCh s c).arms.length) :
    armStop (setArmStop s c a f) c a = f (armStop s c a) := by
  unfold armStop setArmStop
  rw [safeCh_set]
  exact nth_upd_same _ _ _ _ h

theorem armStop_takeStop (s : State) (c : Bool) (a : Nat) (st : StopState) (h : a < (safeCh s c).arms.length) :
    armStop (takeStop s c a st) c a = { armStop s c a with state := st } := by
  have same : armStop (takeStop s c a st) c a = armStop (setArmStop s c a (fun x => { x with state := st })) c a := by
    unfold armStop
    rw [safety_same (takeStop_safety s c a st)]
  rw [same, armStop_set _ _ _ _ h]

theorem nth_map_indexed {α β : Type} (d : α) (e : β) (f : Nat × α → β) (l : List α) (n : Nat) (h : n < l.length) :
    nth e ((indexed l).map f) n = f (n, nth d l n) := by
  have inZip : n < ((List.range l.length).zip l).length := by simpa using h
  unfold nth indexed
  rw [List.getD_eq_getElem _ _ (by simpa using inZip), List.getD_eq_getElem _ _ h, List.getElem_map, List.getElem_zip, List.getElem_range]

/-! ### Outputs (R325 to R327) -/

/-- An output is energised where both its switches are closed. -/
theorem energised_closed (s : State) (n : Nat) (h : energised s n = true) (c : Bool) : (nth {} (safeCh s c).switches n).closed = true := by
  obtain ⟨processor, chamois⟩ := Bool.and_eq_true_iff.1 h
  cases c with
  | false => exact processor
  | true => exact chamois

theorem energised_open (s : State) (n : Nat) (c : Bool) (h : (nth {} (safeCh s c).switches n).closed = false) : energised s n = false := by
  unfold energised
  cases c with
  | false => exact Bool.and_eq_false_iff.2 (.inl h)
  | true => exact Bool.and_eq_false_iff.2 (.inr h)

theorem energised_begin (clk : Nat) (s : State) (n : Nat) : energised (begin clk s) n = energised s n := by
  unfold energised
  rw [begin_safety]

theorem switchStuck_safety (s : State) (c : Bool) (n : Nat) : (switchStuck s c n).safety =
    (setSafeCh s c (fun x => { x with switches := upd x.switches n (fun w => { w with stuck := true, stuckNow := true, closed := false }) })).safety := by
  unfold switchStuck
  dsimp only
  split
  · rfl
  · simp [faultError_frame, bump_frame]

/-- Both switches of an output open under its current limit. -/
def limitSwitch (n : Nat) (c : Channel2) : Channel2 := { c with switches := upd c.switches n (fun w => { w with closed := false, limited := true }) }

theorem exec_darkPulse_high (clk n : Nat) (c : Bool) (s : State) (h : energised s n = true) :
    exec (.darkPulseTest clk c n true) s = .next (switchStuck (begin clk s) c n) :=
  congrArg Host.Outcome.next ((if_pos (by rw [energised_begin]; exact h)).trans (if_pos rfl))

theorem exec_darkPulse_low (clk n : Nat) (c : Bool) (s : State) (h : energised s n = true) : exec (.darkPulseTest clk c n false) s =
    .next (setSafeCh (begin clk s) c (fun x => { x with switches := upd x.switches n (fun w => { w with stuckNow := false }) })) :=
  congrArg Host.Outcome.next ((if_pos (by rw [energised_begin]; exact h)).trans (if_neg Bool.false_ne_true))

theorem exec_currentLimit (clk n : Nat) (s : State) (h : energised s n = true) :
    exec (.outputCurrentLimit clk n) s = .next (setSafeCh (setSafeCh (begin clk s) false (limitSwitch n)) true (limitSwitch n)) :=
  congrArg Host.Outcome.next (if_pos (by rw [energised_begin]; exact h))

/-- The switch of an output that is found too hot. -/
def hotSwitch (s : State) (c : Bool) (n : Nat) : State :=
  setSafeCh s c (fun x => { x with switches := upd x.switches n (fun w => { w with hotNow := true, overTemp := true, closed := false }) })

theorem hotSwitch_counted (s : State) (c : Bool) (n : Nat) : (bump (hotSwitch s c n) 0x60 (0x10 + n) 5).reg = s.reg ∧
    (bump (hotSwitch s c n) 0x60 (0x10 + n) 5).fresh.errMin = s.fresh.errMin ∧
    safeCh (bump (hotSwitch s c n) 0x60 (0x10 + n) 5) c = safeCh (hotSwitch s c n) c :=
  ⟨bump_reg (hotSwitch s c n) _ _ _, rfl, safety_same (bump_safety (hotSwitch s c n) _ _ _) c⟩

theorem outputDiagnosis_hot (c : Bool) (n : Nat) (s : State) (hf : outFunction s.objs n ≠ 0) (h : (nth {} (safeCh s c).switches n).overTemp = false) :
    outputDiagnosis c n 2 true s = faultError (bump (hotSwitch s c n) 0x60 (0x10 + n) 5) (ioWord c (16 + n)) (.overTemp n) := by
  unfold outputDiagnosis
  dsimp only
  rw [if_neg hf, if_pos rfl, h]
  rfl

/-! ### The safety reset (R329) -/

theorem releaseLatches_latched (objs : List (Nat × Nat)) (gone : Nat → Bool) (c : Channel2) (n : Nat) (h : n < c.inputs.length)
    (hon : (nth {} c.inputs n).on = true) : (nth {} (releaseLatches objs gone c).inputs n).latched = false := by
  have released : nth ({} : SafeInput) (releaseLatches objs gone c).inputs n = _ := nth_map_indexed ({} : SafeInput) _ _ c.inputs n h
  rw [released]
  dsimp only
  rw [hon, Bool.not_true, Bool.and_false]

/-- Both channels with their latches released by a reset edge. -/
def resetReleased (s : State) (x : Nat) : State :=
  { s with safety := { s.safety with
    processor := releaseLatches s.objs (fun n => !causePresent s (.discrepancy n)) s.safety.processor
    chamois := releaseLatches s.objs (fun n => !causePresent s (.discrepancy n)) s.safety.chamois, edgeDue := none, lastReset := x } }

theorem sresetEdge_due (s : State) (x : Nat) (h : s.safety.edgeDue = some x) : sresetEdge s =
    if (bump (resetReleased s x) 0x60 0x80 8).mode.mode = .fault && !faultLasts (bump (resetReleased s x) 0x60 0x80 8)
    then withMode (bump (resetReleased s x) 0x60 0x80 8) (fun m => { m with resetEdge := some x }) else bump (resetReleased s x) 0x60 0x80 8 := by
  unfold sresetEdge
  rw [h]
  rfl

theorem sresetEdge_safety (s : State) (x : Nat) (h : s.safety.edgeDue = some x) : (sresetEdge s).safety = (resetReleased s x).safety := by
  have bumped := bump_safety (resetReleased s x) 0x60 0x80 8
  rw [sresetEdge_due s x h]
  generalize bump (resetReleased s x) 0x60 0x80 8 = u at bumped
  split
  · exact bumped
  · exact bumped

/-- A network input past its age limit is replaced by one that is OFF. -/
theorem exec_netInputStale (clk e : Nat) (c : Bool) (s : State) (he : e ∈ usedNets s.objs)
    (h : ob s.objs 0x60 (0x40 + e) 4 < (tget {} (safeCh s c).nets e).age) : ∃ y : NetInput,
    exec (.netInputStale clk c e) s = .next (setSafeCh (begin clk s) c (fun x => { x with nets := tput x.nets e y })) ∧ y.on = false ∧ y.stale = true ∧
      (netFunction s.objs e = 1 → y.latched = true) := by
  refine ⟨_, congrArg Host.Outcome.next (if_pos ?_), rfl, rfl, fun hf => ?_⟩
  · rw [begin_objs, begin_safeCh, decide_eq_true h, Bool.and_true]
    simpa using he
  · dsimp only
    rw [begin_objs, decide_eq_true hf, Bool.or_true]

/-! ### Discrepancies and seal switches -/

/-- The report of a discrepancy is taken. -/
def discrepancyTaken (s : State) (c : Bool) (n : Nat) : State :=
  setSafeCh s c (fun x => { x with inputs := upd x.inputs n (fun i => { i with due := false }) })

/-- It is counted unless the other channel has reported it. -/
def discrepancyCounted (s : State) (c : Bool) (n : Nat) : State :=
  if (nth {} (safeCh s (!c)).inputs n).discrepancy && !(nth {} (safeCh s (!c)).inputs n).due then discrepancyTaken s c n
  else bump (discrepancyTaken s c n) 0x60 n 6

theorem exec_discrepancy (clk n : Nat) (c : Bool) (s : State) (h : (nth {} (safeCh s c).inputs n).due = true) :
    exec (.discrepancy clk c n) s = .next (faultError (discrepancyCounted (begin clk s) c n) (ioWord c n) (.discrepancy n)) :=
  congrArg Host.Outcome.next (if_pos (by rw [begin_safeCh, h]))

theorem discrepancyCounted_spec (s : State) (c : Bool) (n : Nat) (h : n < (safeCh s c).inputs.length) :
    (discrepancyCounted s c n).reg = s.reg ∧ (discrepancyCounted s c n).fresh.errMin = s.fresh.errMin ∧
      (nth {} (safeCh (discrepancyCounted s c n) c).inputs n).due = false := by
  have set : nth {} (safeCh (discrepancyTaken s c n) c).inputs n = _ := inputs_set s c n (fun i => { i with due := false }) h
  unfold discrepancyCounted
  split
  · exact ⟨rfl, rfl, by rw [set]⟩
  · exact ⟨bump_reg .., rfl, by rw [safety_same (bump_safety ..), set]⟩

/-- The seal switches of the processor channel are shown. -/
def sealShown (c : Channel2) : Channel2 := { c with sw1Shown := c.sw1 }

theorem exec_sw1Change (clk : Nat) (s : State) (h : s.safety.processor.sw1 ≠ s.safety.processor.sw1Shown) : exec (.sw1Change clk) s =
    .next (log (setSafeCh (begin clk s) false sealShown) .event 0x0025 (begin clk s).safety.processor.sw1.toNat 0) :=
  congrArg Host.Outcome.next (if_pos (by
    rw [begin_safety]
    exact bne_iff_ne.2 h))

/-- Settles O48: each event by the element of the channel it sets. -/
theorem safeInputsOutputs : Obligations.SafeInputsOutputs := by
  unfold Obligations.SafeInputsOutputs
  intro clk ch s
  have safety := begin_safety clk s
  refine ⟨fun n hn hl hd => ?discrepancy, fun a ha hl ht => ?timeout, fun e he hage => ?net, fun n hn hlp hlc => ⟨fun hen => ⟨?high, ?low, ?limit⟩,
    fun hf hot => ?diagnosis⟩, fun x hx => ?reset, fun hsw => ?switch⟩
  case discrepancy =>
    obtain ⟨hreg, hmin, off⟩ := discrepancyCounted_spec (begin clk s) ch n (by rw [begin_safeCh, hl]; exact hn)
    obtain ⟨word, count⟩ := faultError_word _ (begin clk s) (ioWord ch n) (.discrepancy n) hreg hmin
    exact ⟨_, exec_discrepancy clk n ch s hd, by rw [faultError_safeCh, off], word, by rw [count, begin_reg]⟩
  case timeout =>
    have due : (armStop (begin clk s) ch a).timeout = true := by
      unfold armStop
      rw [begin_safeCh]
      exact ht
    have len : a < (safeCh (begin clk s) ch).arms.length := by rw [begin_safeCh, hl]; exact ha
    have run : exec (.ss1Timeout clk ch a) s = .next (takeStop (setArmStop (begin clk s) ch a (fun x => { x with timeout := false })) ch a .sto) :=
      congrArg Host.Outcome.next (if_pos due)
    have stopped := armStop_takeStop (setArmStop (begin clk s) ch a (fun x => { x with timeout := false })) ch a .sto (by
      unfold setArmStop
      rw [safeCh_set]
      exact (upd_length ..).symm ▸ len)
    rw [armStop_set _ _ _ _ len] at stopped
    refine ⟨_, run, by rw [stopped], by rw [stopped], ?_⟩
    rw [stopped]
    unfold armStop
    rw [begin_safeCh]
  case net =>
    obtain ⟨y, run, off, stale, latched⟩ := exec_netInputStale clk e ch s he hage
    refine ⟨_, run, ?_⟩
    rw [safeCh_set]
    dsimp only
    rw [tget_tput_same]
    exact ⟨off, stale, latched⟩
  case high =>
    have set := switches_set (begin clk s) ch n (fun w => { w with stuck := true, stuckNow := true, closed := false }) (by
      rw [begin_safeCh]
      cases ch
      · exact hlp.symm ▸ hn
      · exact hlc.symm ▸ hn)
    have stuck : nth {} (safeCh (switchStuck (begin clk s) ch n) ch).switches n = _ :=
      (congrArg (fun c : Channel2 => nth {} c.switches n) (safety_same (switchStuck_safety ..) ch)).trans set
    refine ⟨_, exec_darkPulse_high clk n ch s hen, by rw [stuck], by rw [stuck], energised_open _ _ ch (by rw [stuck])⟩
  case low =>
    have set := switches_set (begin clk s) ch n (fun w => { w with stuckNow := false }) (by
      rw [begin_safeCh]
      cases ch
      · exact hlp.symm ▸ hn
      · exact hlc.symm ▸ hn)
    refine ⟨_, exec_darkPulse_low clk n ch s hen, by rw [set], ?_, begin_mode clk s⟩
    rw [set, begin_safeCh]
    exact energised_closed s n hen ch
  case limit =>
    have cut : ∀ (c : Channel2), n < c.switches.length → nth {} (limitSwitch n c).switches n = { nth {} c.switches n with closed := false, limited := true } :=
      fun c hc => nth_upd_same _ _ _ _ hc
    have processor := cut (begin clk s).safety.processor (by rw [safety, hlp]; exact hn)
    have chamois := cut (begin clk s).safety.chamois (by rw [safety, hlc]; exact hn)
    exact ⟨_, exec_currentLimit clk n s hen, energised_open _ _ false (congrArg (·.closed) processor), congrArg (·.limited) processor,
      congrArg (·.limited) chamois⟩
  case diagnosis =>
    have set := switches_set (begin clk s) ch n (fun w => { w with hotNow := true, overTemp := true, closed := false }) (by
      rw [begin_safeCh]
      cases ch
      · exact hlp.symm ▸ hn
      · exact hlc.symm ▸ hn)
    have run : exec (.outputDiagnosis clk ch n 2 true) s = .next (faultError (bump (hotSwitch (begin clk s) ch n) 0x60 (0x10 + n) 5)
        (ioWord ch (16 + n)) (.overTemp n)) :=
      congrArg Host.Outcome.next (outputDiagnosis_hot ch n (begin clk s) (by rw [begin_objs]; exact hf) (by rw [begin_safeCh]; exact hot))
    obtain ⟨reg, errMin, channel⟩ := hotSwitch_counted (begin clk s) ch n
    generalize bump (hotSwitch (begin clk s) ch n) 0x60 (0x10 + n) 5 = u at run reg errMin channel
    have opened : nth {} (safeCh (faultError u (ioWord ch (16 + n)) (.overTemp n)) ch).switches n = _ :=
      (congrArg (fun c : Channel2 => nth {} c.switches n) ((faultError_safeCh u (ioWord ch (16 + n)) (.overTemp n) ch).trans channel)).trans set
    exact ⟨_, run, by rw [opened], by rw [opened], (faultError_word u (begin clk s) (ioWord ch (16 + n)) (.overTemp n) reg errMin).1⟩
  case reset =>
    have run : exec (.sresetEdge clk) s = .next (sresetEdge (begin clk s)) := rfl
    have released := sresetEdge_safety (begin clk s) x (by rw [safety]; exact hx)
    refine ⟨_, run, ?_⟩
    rw [released]
    refine ⟨rfl, rfl, fun n hn hl hon => ?_⟩
    unfold resetReleased
    rw [safety]
    exact releaseLatches_latched _ _ _ n (by rw [hl]; exact hn) hon
  case switch =>
    have shown : ∀ u c a w, (log u .event c a w).safety = u.safety := fun u c a w => by simp [log_frame]
    refine ⟨_, exec_sw1Change clk s hsw, ?_⟩
    rw [shown]
    unfold setSafeCh
    rw [safety]
    exact ⟨rfl, rfl, rfl⟩

end Sys2Proof.Machine
end

section
/-! Proofs about the frames of the Tahixa cycle (05_tahixa_schedule.md R107 to R124, 06_tahixa_startup_and_redundancy.md R137, R138). -/

namespace Sys2Proof.Machine

/-! ### Slots and nodes -/

theorem begin_net (clk : Nat) (s : State) : (begin clk s).net = s.net := by simp [begin_frame]

theorem upOf_of {s t : State} (h : t.net.up = s.net.up) (k : Nat) : upOf t k = upOf s k := by
  unfold upOf
  rw [h]

theorem upOf_setUp (s : State) (k : Nat) (f : UpSlot → UpSlot) : upOf (setUp s k f) k = f (upOf s k) :=
  tget_tset_same _ _ _ _

theorem nodeOf_of {s t : State} (h : t.net.nodes = s.net.nodes) (n : Nat) : nodeOf t n = nodeOf s n := by
  unfold nodeOf
  rw [h]

theorem nodeOf_setNode (s : State) (n : Nat) (f : NodeState → NodeState) : nodeOf (setNode s n f) n = f (nodeOf s n) :=
  tget_tset_same _ _ _ _

theorem downOf_setDown (s : State) (k : Nat) (f : DownSlot → DownSlot) : downOf (setDown s k f) k = f (downOf s k) :=
  tget_tset_same _ _ _ _

theorem bump_net (s : State) (c i m : Nat) : (bump s c i m).net = s.net := by simp [bump_frame]

theorem bumpAt_net (s : State) (c i m n : Nat) : (bumpAt s c i m n).net = s.net := by simp [bumpAt_frame]

theorem setSafeCh_net (s : State) (c : Bool) (f : Channel2 → Channel2) : (setSafeCh s c f).net = s.net := rfl

/-! ### A frame at its port -/

theorem noteForeign_net (s : State) (f : RxFrame) : (noteForeign s f).net = s.net := by simp [noteForeign_frame]

theorem noteForeign_herd (s : State) (f : RxFrame) : (noteForeign s f).herd = s.herd := by simp [noteForeign_frame]

theorem noteForeign_safety (s : State) (f : RxFrame) : (noteForeign s f).safety = s.safety := by simp [noteForeign_frame]

/-- A frame at its port changes of the network nothing but the loop delays of its rings. -/
theorem received_net (s : State) (f : RxFrame) : ∃ rings, (received s f).1.net = { s.net with rings := rings } := by
  have counted : (countPort s f).net = s.net := by simp [countPort_frame]
  have form (u : State) : (frameForm u f).1.net = u.net := by simp [frameForm_frame]
  have closure (u : State) : ∃ rings, (closureCopy u f).net = { u.net with rings := rings } := by
    unfold closureCopy
    dsimp only
    split
    · exact ⟨_, rfl⟩
    · exact ⟨_, rfl⟩
  have noted : ∃ rings, (if closurePort s f.port then closureCopy (countPort s f) f else countPort s f).net = { s.net with rings := rings } := by
    split
    · obtain ⟨rings, h⟩ := closure (countPort s f)
      exact ⟨rings, by rw [h, counted]⟩
    · exact ⟨s.net.rings, counted⟩
  unfold received
  dsimp only
  split
  · exact ⟨s.net.rings, rfl⟩
  · split
    · exact noted
    · rw [form]
      exact noted

theorem received_herd (s : State) (f : RxFrame) : (received s f).1.herd = s.herd := by simp [received_frame]

theorem received_safety (s : State) (f : RxFrame) : (received s f).1.safety = s.safety := by simp [received_frame]

theorem received_up (s : State) (f : RxFrame) : (received s f).1.net.up = s.net.up := by
  obtain ⟨rings, h⟩ := received_net s f
  rw [h]

theorem received_runs (s : State) (f : RxFrame) : netRuns (received s f).1 = netRuns s := by
  obtain ⟨rings, h⟩ := received_net s f
  unfold netRuns
  rw [h]

theorem noteForeign_runs (s : State) (f : RxFrame) : netRuns (noteForeign s f) = netRuns s := by
  unfold netRuns
  rw [noteForeign_net]

theorem begin_runs (clk : Nat) (s : State) : netRuns (begin clk s) = netRuns s := by
  unfold netRuns
  rw [begin_net]

/-- A frame that is accepted leaves the state as it came to the check. -/
theorem checkStatic_same {s s2 : State} {f : RxFrame} {kind k : Nat} {start : Int} (h : checkStatic s f kind = .accept s2 k start) :
    s2 = s := by
  unfold checkStatic at h
  dsimp only at h
  split at h
  · cases h
  · split at h
    · cases h
    · split at h
      · cases h
      · cases h; rfl

/-! ### What a slot keeps -/

theorem putCopy_up (s : State) (k line : Nat) (c : SlotCopy) :
    ∃ a b, upOf (putCopy s k line c) k = { upOf s k with copyA := a, copyB := b } := by
  rw [putCopy, upOf_setUp]
  split
  · exact ⟨_, _, rfl⟩
  · exact ⟨_, _, rfl⟩

theorem noteCopy_up (s : State) (k : Nat) (f : RxFrame) (first : Bool) : (noteCopy s k f first).net.up = s.net.up := by
  unfold noteCopy jointRecord
  dsimp only
  split
  · rfl
  · rfl

theorem postSafeIn_net (s : State) (e : Nat) (p : Bytes) (age : Nat) : (postSafeIn s e p age).net = s.net := by
  unfold postSafeIn
  dsimp only
  split
  · rw [bump_net, setSafeCh_net, setSafeCh_net]
  · rfl

theorem postSlot_up (s : State) (k at_ : Nat) : upOf (postSlot s k at_) k = { upOf s k with posted := true } := by
  have net : (postSlot s k at_).net = (setUp s k (fun u => { u with posted := true })).net := by
    unfold postSlot
    dsimp only
    split
    · rfl
    · exact postSafeIn_net _ _ _ _
    · rfl
  rw [upOf_of (congrArg TahixaState.up net), upOf_setUp]

/-- What putting a frame makes of its slot (R121, R123). -/
def heldSlot (s : State) (c : SlotCopy) (u : UpSlot) : UpSlot :=
  if c.notReady then { u with held := c.payload, holds := true }
  else { u with held := c.payload, payload := c.payload, freshTick := some s.herd.tick, freshAge := c.age, holds := true, len := c.len }

theorem holdFrame_up (s : State) (k : Nat) (c : SlotCopy) : upOf (holdFrame s k c) k = heldSlot s c (upOf s k) := by
  have net : (if (upOf s k).holds then bumpAt s 0x70 0 0x12 k else s).net = s.net := by
    split
    · exact bumpAt_net _ _ _ _ _
    · rfl
  have herd : (if (upOf s k).holds then bumpAt s 0x70 0 0x12 k else s).herd = s.herd := by
    split
    · simp [bumpAt_frame]
    · rfl
  rw [holdFrame, putFrame, upOf_setUp, upOf_of (congrArg TahixaState.up net), herd, heldSlot]

theorem missSlot_up (s : State) (k at_ : Nat) : upOf (missSlot s k at_) k = { upOf s k with posted := true } := by
  rw [missSlot, postSlot_up, upOf_of (congrArg TahixaState.up (bumpAt_net _ _ _ _ _))]

theorem noteAccepted_up (s : State) (k : Nat) (f : RxFrame) (start : Int) : (noteAccepted s k f start).net.up = s.net.up := rfl

theorem takeRequest_up (s : State) (n dyn at_ : Nat) : (takeRequest s n dyn at_).net.up = s.net.up := rfl

theorem noteAccepted_herd (s : State) (k : Nat) (f : RxFrame) (start : Int) : (noteAccepted s k f start).herd = s.herd := rfl

/-- A frame at its port, with a foreign one noted. -/
def arrived (clk : Nat) (s : State) (f : RxFrame) : State := (received (noteForeign (begin clk s) f) f).1

theorem arrived_upOf (clk : Nat) (s : State) (f : RxFrame) (k : Nat) : upOf (arrived clk s f) k = upOf s k := by
  refine upOf_of ?_ k
  rw [arrived, received_up, noteForeign_net, begin_net]

theorem arrived_herd (clk : Nat) (s : State) (f : RxFrame) : (arrived clk s f).herd = (begin clk s).herd := by
  rw [arrived, received_herd, noteForeign_herd]

theorem arrived_safety (clk : Nat) (s : State) (f : RxFrame) : (arrived clk s f).safety = s.safety := by
  rw [arrived, received_safety, noteForeign_safety, begin_safety]

theorem arrived_runs (clk : Nat) (s : State) (f : RxFrame) : netRuns (arrived clk s f) = netRuns s := by
  rw [arrived, received_runs, noteForeign_runs, begin_runs]

/-! ### PROCESS_FRAME_RX (R107, R121, R123) -/

/-- The first copy of a slot, recorded on its line with what it brings besides its data. -/
def firstCopy (s : State) (k : Nat) (f : RxFrame) (start : Int) : State :=
  takeRequest (noteCopy (putCopy s k (f.port / 2) (copyFrom f start)) k f true) (hdrSrc f) (copyFrom f start).dyn (start + postLag s k).toNat

theorem firstCopy_up (s : State) (k : Nat) (f : RxFrame) (start : Int) :
    ∃ a b, upOf (firstCopy s k f start) k = { upOf s k with copyA := a, copyB := b } := by
  obtain ⟨a, b, put⟩ := putCopy_up s k (f.port / 2) (copyFrom f start)
  exact ⟨a, b, (upOf_of (noteCopy_up _ k f _) k).trans put⟩

theorem firstCopy_herd (s : State) (k : Nat) (f : RxFrame) (start : Int) : (firstCopy s k f start).herd = s.herd := by
  simp [firstCopy, takeRequest_frame, noteCopy_frame, putCopy_frame]

/-- The first copy of a slot is held and its operand posted. -/
theorem takeProcess_first (s : State) (k : Nat) (f : RxFrame) (start : Int) (hother : copyOf (upOf s k) (1 - f.port / 2) = none) :
    takeProcess s k f start = postSlot (holdFrame (firstCopy s k f start) k (copyFrom f start)) k (postAt s k start) := by
  unfold takeProcess
  dsimp only
  rw [hother]
  rfl

theorem exec_process (clk : Nat) (s : State) (f : RxFrame) {s2 : State} {k : Nat} {start : Int}
    (hr : (received (noteForeign (begin clk s) f) f).2 = true) (hruns : netRuns s = true) (hserves : portServes (arrived clk s f) f.port = true)
    (haccept : checkStatic (arrived clk s f) f 1 = .accept s2 k start) :
    exec (.processFrameRx clk f) s = .next (takeProcess (noteAccepted (arrived clk s f) k f start) k f start) := by
  show execProcessFrameRx clk f s = _
  have runs := (arrived_runs clk s f).trans hruns
  unfold execProcessFrameRx
  unfold arrived at *
  dsimp only
  rw [haccept, checkStatic_same haccept, hr]
  exact congrArg Host.Outcome.next (if_pos (Bool.and_eq_true_iff.mpr ⟨runs, hserves⟩))

theorem process_taken (clk : Nat) (s : State) (f : RxFrame) {s2 : State} {k : Nat} {start : Int}
    (hr : (received (noteForeign (begin clk s) f) f).2 = true) (hruns : netRuns s = true) (hserves : portServes (arrived clk s f) f.port = true)
    (haccept : checkStatic (arrived clk s f) f 1 = .accept s2 k start) (hother : copyOf (upOf s k) (1 - f.port / 2) = none) :
    ∃ t, exec (.processFrameRx clk f) s = .next t ∧ (upOf t k).posted = true ∧ (upOf t k).holds = true ∧ (upOf t k).held = f.payload ∧
      (bit (hdrFlags f) 0 = false →
        (upOf t k).payload = f.payload ∧ (upOf t k).freshTick = some (begin clk s).herd.tick ∧ (upOf t k).freshAge = hdrAge f) ∧
      (bit (hdrFlags f) 0 = true →
        (upOf t k).payload = (upOf s k).payload ∧ (upOf t k).freshTick = (upOf s k).freshTick) := by
  refine ⟨_, exec_process clk s f hr hruns hserves haccept, ?_⟩
  have kept : upOf (noteAccepted (arrived clk s f) k f start) k = upOf s k := by
    rw [upOf_of (noteAccepted_up _ _ _ _), arrived_upOf]
  have herd : (firstCopy (noteAccepted (arrived clk s f) k f start) k f start).herd = (begin clk s).herd := by
    rw [firstCopy_herd, noteAccepted_herd, arrived_herd]
  obtain ⟨a, b, up⟩ := firstCopy_up (noteAccepted (arrived clk s f) k f start) k f start
  rw [takeProcess_first _ k f start (by rw [kept]; exact hother), postSlot_up, holdFrame_up, up, kept]
  cases ready : bit (hdrFlags f) 0 with
  | false =>
    have notReady : (copyFrom f start).notReady = false := ready
    rw [heldSlot, notReady, herd]
    exact ⟨rfl, rfl, rfl, fun _ => ⟨rfl, rfl, rfl⟩, fun h => absurd h (by decide)⟩
  | true =>
    have notReady : (copyFrom f start).notReady = true := ready
    rw [heldSlot, notReady]
    exact ⟨rfl, rfl, rfl, fun h => absurd h (by decide), fun _ => ⟨rfl, rfl⟩⟩

/-! ### SAFETY_FRAME_RX (R124, R125, R138) -/

/-- The copy a safety frame is. -/
def safeCopy (s : State) (k : Nat) (f : RxFrame) (start : Int) : SlotCopy :=
  { copyFrom f start with seq := be f.payload (trailerAt s k f) 2 }

/-- The second copy of a safety slot, recorded on its line with its sequence number and what it brings besides its data. -/
def secondCopy (s : State) (k : Nat) (f : RxFrame) (start : Int) : State :=
  let q := be f.payload (trailerAt s k f) 2
  noteCopy (setUp (putCopy (noteAccepted s k f start) k (f.port / 2) (safeCopy s k f start)) k
    (fun u => if f.port / 2 = 0 then { u with seqA := some (q, s.herd.tick) } else { u with seqB := some (q, s.herd.tick) })) k f false

theorem secondCopy_up (s : State) (k : Nat) (f : RxFrame) (start : Int) :
    ∃ a b qa qb, upOf (secondCopy s k f start) k = { upOf s k with copyA := a, copyB := b, seqA := qa, seqB := qb } := by
  obtain ⟨a, b, put⟩ := putCopy_up (noteAccepted s k f start) k (f.port / 2) (safeCopy s k f start)
  rw [secondCopy, upOf_of (noteCopy_up _ _ _ _), upOf_setUp, put, upOf_of (noteAccepted_up _ _ _ _)]
  split
  · exact ⟨a, b, _, _, rfl⟩
  · exact ⟨a, b, _, _, rfl⟩

theorem secondCopy_herd (s : State) (k : Nat) (f : RxFrame) (start : Int) : (secondCopy s k f start).herd = s.herd := by
  simp [secondCopy, noteCopy_frame, putCopy_frame, setUp_frame, noteAccepted_frame]

/-- A safety frame that passes its own checks is compared with the copy that came before it. -/
theorem takeSafety_second (s : State) (k : Nat) (f : RxFrame) (start : Int) (c : SlotCopy)
    (hcrc : be f.payload (trailerAt s k f + 4) 4 = safeCrc s.safety.connectionId f.header (f.payload.take (trailerAt s k f + 4)))
    (hsrc : be f.payload (trailerAt s k f + 2) 1 = hdrSrc f)
    (hseq : seqOk s (if f.port / 2 = 0 then (upOf s k).seqA else (upOf s k).seqB) (be f.payload (trailerAt s k f) 2) = true)
    (hc : copyOf (upOf s k) (1 - f.port / 2) = some c) (hp : (upOf s k).posted = false) (hcl : (upOf s k).closed = false) :
    takeSafety s k f start = pairCopies (secondCopy s k f start) k (if f.port / 2 = 0 then safeCopy s k f start else c)
      (if f.port / 2 = 0 then c else safeCopy s k f start) (postAt s k start) := by
  unfold takeSafety
  dsimp only
  rw [hcrc, hsrc, hseq, hc, hp, hcl]
  simp only [bne_self_eq_false, Bool.or_self, Bool.false_eq_true, if_false, Bool.not_true]
  rfl

/-- Both copies agree: the slot holds the frame and its operand is posted. -/
theorem pairCopies_agree (s : State) (k : Nat) (a b : SlotCopy) (at_ : Nat) (h : a.payload = b.payload) :
    upOf (pairCopies s k a b at_) k = { heldSlot s a { upOf s k with singleRun := 0, singleDue := false } with posted := true } := by
  have up (n dyn t : Nat) : upOf (takeRequest (setUp s k (fun u => { u with singleRun := 0, singleDue := false })) n dyn t) k =
      { upOf s k with singleRun := 0, singleDue := false } :=
    (upOf_of (takeRequest_up _ _ _ _) k).trans (upOf_setUp _ _ _)
  unfold pairCopies
  dsimp only
  rw [if_pos (beq_iff_eq.mpr h), postSlot_up, holdFrame_up, up]
  rfl

/-- Copies that differ leave the slot's payload. -/
theorem pairCopies_differ (s : State) (k : Nat) (a b : SlotCopy) (at_ : Nat) (h : a.payload ≠ b.payload) :
    upOf (pairCopies s k a b at_) k = { upOf s k with mismatch := true, posted := true } := by
  unfold pairCopies
  dsimp only
  rw [if_neg (fun e => h (beq_iff_eq.mp e)), missSlot_up, upOf_of (congrArg TahixaState.up (bump_net _ _ _ _)), upOf_setUp]

theorem exec_safety (clk : Nat) (s : State) (f : RxFrame) {s2 : State} {k : Nat} {start : Int}
    (hr : (received (noteForeign (begin clk s) f) f).2 = true) (hruns : netRuns s = true) (hserves : portServes (arrived clk s f) f.port = true)
    (haccept : checkStatic (arrived clk s f) f 2 = .accept s2 k start) :
    exec (.safetyFrameRx clk f) s = .next (takeSafety (arrived clk s f) k f start) := by
  show execSafetyFrameRx clk f s = _
  have runs := (arrived_runs clk s f).trans hruns
  unfold execSafetyFrameRx
  unfold arrived at *
  dsimp only
  rw [haccept, checkStatic_same haccept, hr]
  exact congrArg Host.Outcome.next (if_pos (Bool.and_eq_true_iff.mpr ⟨runs, hserves⟩))

theorem seqOk_of {s t : State} (h : t.herd = s.herd) (last : Option (Nat × Nat)) (q : Nat) : seqOk t last q = seqOk s last q := by
  unfold seqOk
  rw [h]

theorem safety_taken (clk : Nat) (s : State) (f : RxFrame) {s2 : State} {k : Nat} {start : Int} (c : SlotCopy)
    (hr : (received (noteForeign (begin clk s) f) f).2 = true) (hruns : netRuns s = true) (hserves : portServes (arrived clk s f) f.port = true)
    (haccept : checkStatic (arrived clk s f) f 2 = .accept s2 k start)
    (hcrc : be f.payload (trailerAt (arrived clk s f) k f + 4) 4 =
      safeCrc s.safety.connectionId f.header (f.payload.take (trailerAt (arrived clk s f) k f + 4)))
    (hsrc : be f.payload (trailerAt (arrived clk s f) k f + 2) 1 = hdrSrc f)
    (hseq : seqOk (begin clk s) (if f.port / 2 = 0 then (upOf s k).seqA else (upOf s k).seqB)
      (be f.payload (trailerAt (arrived clk s f) k f) 2) = true)
    (hc : copyOf (upOf s k) (1 - f.port / 2) = some c) (hp : (upOf s k).posted = false) (hcl : (upOf s k).closed = false) :
    ∃ t, exec (.safetyFrameRx clk f) s = .next t ∧ (upOf t k).posted = true ∧
      (c.payload = f.payload → c.notReady = false → bit (hdrFlags f) 0 = false →
        (upOf t k).payload = f.payload ∧ (upOf t k).freshTick = some (begin clk s).herd.tick ∧ (upOf t k).singleRun = 0) ∧
      (c.payload ≠ f.payload → (upOf t k).mismatch = true ∧ (upOf t k).payload = (upOf s k).payload ∧
        (upOf t k).freshTick = (upOf s k).freshTick) := by
  refine ⟨_, exec_safety clk s f hr hruns hserves haccept, ?_⟩
  have kept := arrived_upOf clk s f k
  rw [takeSafety_second _ k f start c (by rw [arrived_safety]; exact hcrc) hsrc (by rw [kept, seqOk_of (arrived_herd clk s f)]; exact hseq)
    (by rw [kept]; exact hc) (by rw [kept]; exact hp) (by rw [kept]; exact hcl)]
  obtain ⟨a, b, qa, qb, up⟩ := secondCopy_up (arrived clk s f) k f start
  have herd : (secondCopy (arrived clk s f) k f start).herd = (begin clk s).herd := by rw [secondCopy_herd, arrived_herd]
  have own : (safeCopy (arrived clk s f) k f start).payload = f.payload := rfl
  have flag : (safeCopy (arrived clk s f) k f start).notReady = bit (hdrFlags f) 0 := rfl
  by_cases same : c.payload = f.payload
  · have agree : (if f.port / 2 = 0 then safeCopy (arrived clk s f) k f start else c).payload =
        (if f.port / 2 = 0 then c else safeCopy (arrived clk s f) k f start).payload := by
      split
      · exact own.trans same.symm
      · exact same.trans own.symm
    have payload : (if f.port / 2 = 0 then safeCopy (arrived clk s f) k f start else c).payload = f.payload := by
      split
      · exact own
      · exact same
    rw [pairCopies_agree _ _ _ _ _ agree, up, kept]
    refine ⟨rfl, fun _ hn hb => ?_, fun h => absurd same h⟩
    have ready : (if f.port / 2 = 0 then safeCopy (arrived clk s f) k f start else c).notReady = false := by
      split
      · exact flag.trans hb
      · exact hn
    rw [heldSlot, ready]
    exact ⟨payload, congrArg (fun h : HerdState => some h.tick) herd, rfl⟩
  · have differ : (if f.port / 2 = 0 then safeCopy (arrived clk s f) k f start else c).payload ≠
        (if f.port / 2 = 0 then c else safeCopy (arrived clk s f) k f start).payload := by
      split
      · exact fun h => same (h.symm.trans own)
      · exact fun h => same (h.trans own)
    rw [pairCopies_differ _ _ _ _ _ differ, up, kept]
    exact ⟨rfl, fun h => absurd h same, fun _ => ⟨rfl, rfl, rfl⟩⟩

/-! ### Upstream dynamic frames (R111, R120) -/

theorem noteOffset_dyn (s : State) (n : Nat) (d w : Int) : ∃ nodes, (noteOffset s n d w).net = { s.net with nodes := nodes } := ⟨_, rfl⟩

/-- A dynamic frame that is accepted leaves its offset with its node. -/
theorem checkDynamic_passed {s : State} {f : RxFrame} (h : (checkDynamic s f).2 = true) :
    (checkDynamic s f).1 = noteOffset s (hdrSrc f) (frameStart s f - miniAction s f.port (hdrSlot f)) 480 := by
  unfold checkDynamic at h ⊢
  dsimp only at h ⊢
  split at h
  · cases h
  · split at h
    · cases h
    · split at h
      · cases h
      · split at h
        · cases h
        · rename_i form window tag serves
          rw [if_neg form, if_neg window, if_neg tag, if_neg serves]

theorem setInt_status (s : State) (n : Nat) (h : n < 10) : (setInt s n).reg.intStatus.getLsbD n = true := by
  unfold setInt
  dsimp only
  split
  · next set => exact set
  · have set : (s.reg.intStatus ||| 1#10 <<< n).getLsbD n = true := getLsbD_set _ _ h
    split
    · exact set
    · simp only [sendVector_frame]
      exact set

/-- The state of a dynamic frame at its port after its checks. -/
theorem dynamic_net (clk : Nat) (s : State) (f : RxFrame) (h : (checkDynamic (received (begin clk s) f).1 f).2 = true) :
    ∃ rings nodes, (checkDynamic (received (begin clk s) f).1 f).1.net = { s.net with rings := rings, nodes := nodes } := by
  obtain ⟨rings, net⟩ := received_net (begin clk s) f
  rw [checkDynamic_passed h]
  obtain ⟨nodes, noted⟩ := noteOffset_dyn (received (begin clk s) f).1 (hdrSrc f)
    (frameStart (received (begin clk s) f).1 f - miniAction (received (begin clk s) f).1 f.port (hdrSlot f)) 480
  exact ⟨rings, nodes, by rw [noted, net, begin_net]⟩

theorem exec_message (clk : Nat) (s : State) (f : RxFrame) (hr : (received (begin clk s) f).2 = true) (htype : hdrType f = 3)
    (hpass : (checkDynamic (received (begin clk s) f).1 f).2 = true) (hruns : netRuns s = true) :
    exec (.messageRx clk f) s = .next (messageRx (checkDynamic (received (begin clk s) f).1 f).1 f) := by
  show execMessageRx clk f s = _
  have runs : netRuns (checkDynamic (received (begin clk s) f).1 f).1 = true := by
    obtain ⟨rings, nodes, net⟩ := dynamic_net clk s f hpass
    unfold netRuns at *
    rw [net]
    exact hruns
  unfold execMessageRx
  dsimp only
  rw [hr, htype]
  exact congrArg Host.Outcome.next (if_pos (Bool.and_eq_true_iff.mpr ⟨hpass, runs⟩))

/-- A host frame that is the first copy of its slot enters the receive queue. -/
theorem messageRx_first (s : State) (f : RxFrame) (hhost : bit (hdrFlags f) 3 = true)
    (hfirst : s.net.dynCopies.find? (fun c => c.1 = hdrSlot f) = none) (hroom : s.net.hostRx.length < 16) :
    ∃ m, (messageRx s f).net.hostRx = s.net.hostRx ++ [m] ∧ m.src = hdrSrc f ∧ m.flags = hdrFlags f ∧
      m.data = slice f.payload 0 (hdrLen f) ∧ (messageRx s f).reg.intStatus.getLsbD 7 = true := by
  refine ⟨{ src := hdrSrc f, flags := hdrFlags f, rxTime := (nearestDiv (frameStart s f) 10).toNat, data := slice f.payload 0 (hdrLen f) },
    ?_, rfl, rfl, rfl, ?_⟩
  all_goals
    unfold messageRx
    dsimp only
    rw [hfirst]
    dsimp only
    rw [if_pos hhost, queueHost, if_neg (by exact Nat.not_le_of_lt hroom)]
  · simp only [setInt_frame]
    rfl
  · exact setInt_status _ 7 (by decide)

theorem message_queued (clk : Nat) (s : State) (f : RxFrame) (hr : (received (begin clk s) f).2 = true)
    (hpass : (checkDynamic (received (begin clk s) f).1 f).2 = true) (htype : hdrType f = 3) (hhost : bit (hdrFlags f) 3 = true)
    (hruns : netRuns s = true) (hfirst : s.net.dynCopies.find? (fun c => c.1 = hdrSlot f) = none) (hroom : s.net.hostRx.length < 16) :
    ∃ t m, exec (.messageRx clk f) s = .next t ∧ t.net.hostRx = s.net.hostRx ++ [m] ∧ m.src = hdrSrc f ∧ m.flags = hdrFlags f ∧
      m.data = slice f.payload 0 (hdrLen f) ∧ t.reg.intStatus.getLsbD 7 = true := by
  obtain ⟨rings, nodes, net⟩ := dynamic_net clk s f hpass
  have run := exec_message clk s f hr htype hpass hruns
  generalize (checkDynamic (received (begin clk s) f).1 f).1 = u at net run
  obtain ⟨m, queued, rest⟩ := messageRx_first u f hhost (by rw [net]; exact hfirst) (by rw [net]; exact hroom)
  exact ⟨_, m, run, queued.trans (by rw [net]), rest⟩

/-- An answer at its node: an absent or lost node is SYNCING again, and the answer counts once as a measurement (R111, R134). -/
def answeredNode (first : Bool) (x : NodeState) : NodeState :=
  { x with state := if x.state = .absent || x.state = .lost then .syncing else x.state
           measured := if first then x.measured + 1 else x.measured, unanswered := 0 }

/-- Nothing but the delays that a measurement keeps differs. -/
def SameButDelays (x y : NodeState) : Prop := x.state = y.state ∧ x.measured = y.measured ∧ x.unanswered = y.unanswered

theorem noteOffset_node (s : State) (n : Nat) (d w : Int) : SameButDelays (nodeOf (noteOffset s n d w) n) (nodeOf s n) := by
  unfold noteOffset noteDrift
  rw [nodeOf_setNode, nodeOf_setNode]
  split
  · exact ⟨rfl, rfl, rfl⟩
  · exact ⟨rfl, rfl, rfl⟩

theorem measure_node (s : State) (f : RxFrame) (req : Nat) :
    (measure s f req).net.answered = true ∧
      SameButDelays (nodeOf (measure s f req) (hdrSrc f)) (answeredNode (!s.net.answered) (nodeOf s (hdrSrc f))) := by
  have jump (u : State) (n : Nat) (j : Bool) : (noteJump u n j).net = u.net := by simp [noteJump_frame]
  have counted : nodeOf (setNode (withNet s (fun t => { t with answered := true })) (hdrSrc f) (answeredNode (!s.net.answered))) (hdrSrc f) =
      answeredNode (!s.net.answered) (nodeOf s (hdrSrc f)) := nodeOf_setNode _ _ _
  have delays (g : NodeState → NodeState) (hg : ∀ x, SameButDelays (g x) x) :
      let u := setNode (setNode (withNet s (fun t => { t with answered := true })) (hdrSrc f) (answeredNode (!s.net.answered))) (hdrSrc f) g
      u.net.answered = true ∧ SameButDelays (nodeOf u (hdrSrc f)) (answeredNode (!s.net.answered) (nodeOf s (hdrSrc f))) := by
    refine ⟨rfl, ?_⟩
    rw [nodeOf_setNode, counted]
    exact hg _
  unfold measure
  dsimp only
  split
  · exact delays _ fun _ => ⟨rfl, rfl, rfl⟩
  · split
    · exact delays _ fun _ => ⟨rfl, rfl, rfl⟩
    · split
      · rw [jump, nodeOf_of (congrArg TahixaState.nodes (jump _ _ _))]
        exact delays _ fun _ => ⟨rfl, rfl, rfl⟩
      · rw [jump, nodeOf_of (congrArg TahixaState.nodes (jump _ _ _))]
        exact delays _ fun _ => ⟨rfl, rfl, rfl⟩

/-- An answer that passes its checks: its offset is its node's, and its copy is recorded. -/
def answerNoted (s : State) (f : RxFrame) (start : Nat) : State :=
  withNet (noteOffset s (hdrSrc f) (frameStart s f - miniAction s f.port (hdrSlot f)) 480)
    (fun t => { t with dynCopies := t.dynCopies ++ [(hdrSlot f, f.port / 2, start, [])] })

theorem noteOffset_answered (s : State) (n : Nat) (d w : Int) : (noteOffset s n d w).net.answered = s.net.answered := rfl

theorem dynCopies_node (s : State) (l : List (Nat × Nat × Nat × Bytes)) (n : Nat) :
    nodeOf (withNet s (fun t => { t with dynCopies := t.dynCopies ++ l })) n = nodeOf s n := rfl

theorem answerNoted_node (s : State) (f : RxFrame) (start : Nat) :
    SameButDelays (nodeOf (answerNoted s f start) (hdrSrc f)) (nodeOf s (hdrSrc f)) := by
  rw [answerNoted, dynCopies_node]
  exact noteOffset_node s _ _ _

theorem answerNoted_answered (s : State) (f : RxFrame) (start : Nat) : (answerNoted s f start).net.answered = s.net.answered := by
  simp only [answerNoted, withNet_net, noteOffset_answered]

theorem exec_delayResp (clk : Nat) (s : State) (f : RxFrame) (req : Nat) (hr : (received (begin clk s) f).2 = true) (htype : hdrType f = 6)
    (hsrc : hdrSrc f = s.net.measuring) (hreq : s.net.reqStart = some req)
    (hpass : (checkDynamic (received (begin clk s) f).1 f).2 = true) :
    exec (.delayRespRx clk f) s = .next (noteD12 (measure (answerNoted (received (begin clk s) f).1 f (frameStart (begin clk s) f).toNat) f req)) := by
  have own : (hdrType f != 6 || hdrSrc f != (begin clk s).net.measuring) = false := by
    rw [begin_net, htype, hsrc]
    simp
  show execDelayRespRx clk f s = _
  unfold execDelayRespRx
  dsimp only
  rw [own, hr, hpass, begin_net, hreq, checkDynamic_passed hpass]
  rfl

theorem delayResp_counts (clk : Nat) (s : State) (f : RxFrame) (req : Nat) (hr : (received (begin clk s) f).2 = true)
    (hpass : (checkDynamic (received (begin clk s) f).1 f).2 = true) (htype : hdrType f = 6) (hsrc : hdrSrc f = s.net.measuring)
    (hreq : s.net.reqStart = some req) :
    ∃ t, exec (.delayRespRx clk f) s = .next t ∧ t.net.answered = true ∧ (nodeOf t (hdrSrc f)).unanswered = 0 ∧
      (nodeOf t (hdrSrc f)).state = (if (nodeOf s (hdrSrc f)).state = .absent ∨ (nodeOf s (hdrSrc f)).state = .lost then .syncing
        else (nodeOf s (hdrSrc f)).state) ∧
      (nodeOf t (hdrSrc f)).measured = (nodeOf s (hdrSrc f)).measured + (if s.net.answered then 0 else 1) := by
  have run := exec_delayResp clk s f req hr htype hsrc hreq hpass
  obtain ⟨rings, net⟩ := received_net (begin clk s) f
  have nodes : nodeOf (received (begin clk s) f).1 (hdrSrc f) = nodeOf s (hdrSrc f) := nodeOf_of (by rw [net, begin_net]) _
  have answered : (received (begin clk s) f).1.net.answered = s.net.answered := by rw [net, begin_net]
  have before := answerNoted_node (received (begin clk s) f).1 f (frameStart (begin clk s) f).toNat
  have still := answerNoted_answered (received (begin clk s) f).1 f (frameStart (begin clk s) f).toNat
  rw [nodes] at before
  rw [answered] at still
  generalize answerNoted _ f _ = v at run before still
  obtain ⟨now, state, count, unanswered⟩ := measure_node v f req
  obtain ⟨hstate, hcount, -⟩ := before
  refine ⟨_, run, ?_⟩
  have net12 : (noteD12 (measure v f req)).net = (measure v f req).net := by simp [noteD12_frame]
  rw [nodeOf_of (congrArg TahixaState.nodes net12), net12, state, count, unanswered, answeredNode, hstate, hcount, still]
  refine ⟨now, rfl, ?_, ?_⟩
  · simp
  · cases s.net.answered <;> rfl

/-! ### SLOT_WINDOW_CLOSE (R121, R242) and SAFETY_SINGLE (R324) -/

/-- A slot that no frame has reached posts the payload held before. -/
theorem windowShut_missed (s : State) (k : Nat) (hp : (upOf s k).posted = false) (ha : (upOf s k).copyA = none) (hb : (upOf s k).copyB = none) :
    upOf (windowShut s k) k = { upOf s k with closed := true, posted := true } := by
  have missed : windowShut s k = missSlot (setUp s k (fun u => { u with closed := true })) k (slotClose s k / 10).toNat := by
    unfold windowShut
    dsimp only
    rw [hp, ha, hb]
    rfl
  rw [missed, missSlot_up, upOf_setUp]

theorem exec_slotWindow (clk k : Nat) (s : State) (hruns : netRuns s = true) (hactive : imageActive (begin clk s) = true)
    (hk : k ∈ upSlots s.objs) (hopen : (upOf s k).closed = false) (hdue : slotClose (begin clk s) k ≤ (now (begin clk s) : Int) * 10) :
    exec (.slotWindowClose clk k) s = .next (windowShut (begin clk s) k) := by
  show execSlotWindowClose clk k s = _
  unfold execSlotWindowClose
  dsimp only
  rw [begin_runs, hruns, hactive, begin_objs, upOf_of (congrArg TahixaState.up (begin_net clk s)), hopen,
    List.contains_iff_mem.mpr hk, decide_eq_true hdue]
  rfl

theorem window_missed (clk k : Nat) (s : State) (hruns : netRuns s = true) (hactive : imageActive (begin clk s) = true)
    (hk : k ∈ upSlots s.objs) (hopen : (upOf s k).closed = false) (hdue : slotClose (begin clk s) k ≤ (now (begin clk s) : Int) * 10)
    (ha : (upOf s k).copyA = none) (hb : (upOf s k).copyB = none) (hp : (upOf s k).posted = false) :
    ∃ t, exec (.slotWindowClose clk k) s = .next t ∧ (upOf t k).closed = true ∧ (upOf t k).posted = true ∧
      (upOf t k).payload = (upOf s k).payload ∧ (upOf t k).freshTick = (upOf s k).freshTick := by
  refine ⟨_, exec_slotWindow clk k s hruns hactive hk hopen hdue, ?_⟩
  have same : upOf (begin clk s) k = upOf s k := upOf_of (congrArg TahixaState.up (begin_net clk s)) k
  rw [windowShut_missed _ k (by rw [same]; exact hp) (by rw [same]; exact ha) (by rw [same]; exact hb), same]
  exact ⟨rfl, rfl, rfl, rfl⟩

theorem single_reported (clk k : Nat) (s : State) (h : (upOf s k).singleDue = true) :
    ∃ t, exec (.safetySingle clk k) s = .next t ∧ (upOf t k).singleDue = false ∧ (upOf t k).payload = (upOf s k).payload := by
  have same : upOf (begin clk s) k = upOf s k := upOf_of (congrArg TahixaState.up (begin_net clk s)) k
  have run : exec (.safetySingle clk k) s =
      .next (log (setUp (begin clk s) k (fun u => { u with singleDue := false })) .event 0x0013 k 0) :=
    congrArg Host.Outcome.next (if_pos (by rw [same]; exact h))
  refine ⟨_, run, ?_⟩
  rw [upOf_of (s := setUp (begin clk s) k (fun u => { u with singleDue := false })) (by simp [log_frame]), upOf_setUp, same]
  exact ⟨rfl, rfl⟩

/-! ### DOWNSTREAM_COMMIT_POINT (R110, R122) -/

/-- What a downstream slot carries is taken without a frame sent. -/
theorem takeDown_out (s : State) (k tick : Nat) : (takeDown s k tick).1.out = s.out := by
  unfold takeDown
  dsimp only
  split
  · split
    · rfl
    · split
      · rfl
      · rfl
  · split
    · split
      · rfl
      · rfl
    · split
      · rfl
      · rfl

/-- A frame leaves by each port, at the action point shifted for the port. -/
theorem sendBy_out (ports : List Nat) (s : State) (action : Nat) (hdr pay : Bytes) :
    (sendBy ports s action hdr pay).out = s.out ++
      ports.map (fun p => wireFrame (sendBy ports s action hdr pay) p ((action : Int) + shiftDown (sendBy ports s action hdr pay) p).toNat hdr pay) := by
  have kept : ∀ (ports : List Nat) (s : State), ∃ out, sendBy ports s action hdr pay = { s with out := out } := by
    intro ports
    induction ports with
    | nil => exact fun s => ⟨s.out, rfl⟩
    | cons p ports ih =>
      intro s
      obtain ⟨out, h⟩ := ih (emit s (wireFrame s p ((action : Int) + shiftDown s p).toNat hdr pay))
      exact ⟨out, h⟩
  have sent : ∀ (ports : List Nat) (s : State), (sendBy ports s action hdr pay).out =
      s.out ++ ports.map (fun p => wireFrame s p ((action : Int) + shiftDown s p).toNat hdr pay) := by
    intro ports
    induction ports with
    | nil => exact fun s => (List.append_nil _).symm
    | cons p ports ih =>
      intro s
      refine (ih (emit s (wireFrame s p ((action : Int) + shiftDown s p).toNat hdr pay))).trans ?_
      exact List.append_assoc _ _ _
  obtain ⟨out, h⟩ := kept ports s
  rw [sent, h]
  rfl

theorem sendBy_net (ports : List Nat) (s : State) (action : Nat) (hdr pay : Bytes) : (sendBy ports s action hdr pay).net = s.net := by
  simp [sendBy_frame]

/-- A static slot at its commit point is sent for its tick, one frame by each port of the mode. -/
theorem sendStatic_sends (s : State) (k tick : Nat) (hout : s.out = []) :
    ∃ hdr pay, (downOf (sendStatic s k tick) k).sent = some tick ∧ (sendStatic s k tick).out = (sendPortsAt s tick).map (fun p =>
      wireFrame (sendStatic s k tick) p
        (((tick * tickNs s * 10 + 4480 * k : Nat) : Int) + shiftDown (sendStatic s k tick) p).toNat hdr pay) := by
  have sent (u : State) (f : DownSlot → DownSlot) (hu : u.out = []) (hf : ∀ d, (f d).sent = some tick) (action : Nat) (hdr pay : Bytes) :
      let t := sendBy (sendPortsAt s tick) (setDown u k f) action hdr pay
      (downOf t k).sent = some tick ∧
        t.out = (sendPortsAt s tick).map (fun p => wireFrame t p ((action : Int) + shiftDown t p).toNat hdr pay) := by
    refine ⟨?_, ?_⟩
    · rw [downOf, sendBy_net]
      exact (congrArg DownSlot.sent (downOf_setDown u k f)).trans (hf _)
    · rw [sendBy_out, show (setDown u k f).out = u.out from rfl, hu, List.nil_append]
  unfold sendStatic
  dsimp only
  split
  · exact ⟨_, _, sent s _ hout (fun _ => rfl) _ _ _⟩
  · exact ⟨_, _, sent _ _ ((takeDown_out s k tick).trans hout) (fun _ => rfl) _ _ _⟩

theorem exec_commitPoint (clk k : Nat) (s : State) (hleads : netLeads (begin clk s) = true) (hk : k ∈ downInForce (begin clk s))
    (hsent : (downOf s k).sent ≠ some (staticCommit (begin clk s) k).1) (hdue : (staticCommit (begin clk s) k).2 ≤ now (begin clk s)) :
    exec (.downstreamCommitPoint clk false k) s = .next (sendStatic (begin clk s) k (staticCommit (begin clk s) k).1) := by
  have same : downOf (begin clk s) k = downOf s k := by
    unfold downOf
    rw [begin_net]
  show execDownstreamCommitPoint clk false k s = _
  unfold execDownstreamCommitPoint commitPoint
  dsimp only
  rw [hleads, same, List.contains_iff_mem.mpr hk, bne_iff_ne.mpr hsent, decide_eq_true hdue]
  rfl

/-- Settles O49: each frame of the cycle by the rule of its slot or of its node. -/
theorem tahixaFrames : Obligations.TahixaFrames := by
  unfold Obligations.TahixaFrames
  intro clk s s1
  refine ⟨?_, ?_, ?_, ?_, ?_⟩
  · intro k hleads hk hsent hdue tick
    obtain ⟨hdr, pay, sent, out⟩ := sendStatic_sends s1 k tick (begin_out clk s)
    exact ⟨_, hdr, pay, exec_commitPoint clk k s hleads hk hsent hdue, sent, out⟩
  · intro f r hr hruns hserves
    refine ⟨?_, ?_⟩
    · intro s2 k start haccept hother
      exact process_taken clk s f hr hruns hserves haccept hother
    · intro s2 k start c haccept o hcrc hsrc hseq hc hp hcl
      exact safety_taken clk s f c hr hruns hserves haccept hcrc hsrc hseq hc hp hcl
  · intro f r hr hpass
    refine ⟨?_, ?_⟩
    · intro htype hhost hruns hfirst hroom
      exact message_queued clk s f hr hpass htype hhost hruns hfirst hroom
    · intro req htype hsrc hreq
      exact delayResp_counts clk s f req hr hpass htype hsrc hreq
  · intro k hruns hactive hk hopen hdue ha hb hp
    exact window_missed clk k s hruns hactive hk hopen hdue ha hb hp
  · intro k h
    exact single_reported clk k s h

end Sys2Proof.Machine
end

section
/-! Proofs about the states of the Tahixa network: start-up, nodes, rings and links
(06_tahixa_startup_and_redundancy.md R128 to R145). -/

namespace Sys2Proof.Machine

/-! ### STARTUP_RX (R128, R131) -/

/-- A frame that passes its port leaves the start-up state as it was. -/
def Heard (s u : State) : Prop := u.start = s.start ∧ ∃ rings, u.net = { s.net with rings := rings }

theorem received_heard (clk : Nat) (s : State) (f : RxFrame) : Heard s (received (begin clk s) f).1 := by
  obtain ⟨rings, net⟩ := received_net (begin clk s) f
  exact ⟨by simp [received_frame, begin_frame], rings, by rw [net, begin_net]⟩

theorem nodeId_of {s u : State} (h : u.start = s.start) : nodeId u = nodeId s := by
  unfold nodeId
  rw [h]

theorem otherId_ne (s : State) : otherId s ≠ nodeId s := by
  unfold otherId nodeId
  split <;> decide

/-- A STARTUP noted as the first copy of its cycle. -/
def startupNoted (s : State) (f : RxFrame) : State :=
  withNet s (fun t => { t with
    startup := some { header := f.header, line := f.port / 2, start := frameStart s f, data := slice f.payload 0 (hdrLen f) } })

theorem startupNoted_own (s : State) (f : RxFrame) :
    otherId (startupNoted s f) = otherId s ∧ partner (startupNoted s f) = partner s ∧ frameStart (startupNoted s f) f = frameStart s f :=
  ⟨rfl, rfl, rfl⟩

/-- The first STARTUP of the other module is judged by the state the network is in. -/
theorem startupRx_module (s : State) (f : RxFrame) (htype : hdrType f = 7) (hsrc : hdrSrc f = otherId s) (hprov : bit (be f.payload 17 1) 0 = false)
    (hpartner : partner s = true) (htag : bit (hdrFlags f) 1 = true → tagOk s f = true)
    (hfirst : ∀ c, s.net.startup = some c → c.header ≠ f.header) :
    startupRx s f = moduleStartup (startupNoted s f) (hdrSrc f) (be f.payload 16 1) (frameStart s f) := by
  have tag : (bit (hdrFlags f) 1 && !tagOk s f) = false := by
    cases tagged : bit (hdrFlags f) 1 with
    | false => rfl
    | true => rw [htag tagged]; rfl
  have none : s.net.startup.filter (fun c => c.header = f.header && decide ((frameStart s f - c.start).natAbs < tickNs s * 10)) = none := by
    cases h : s.net.startup with
    | none => rfl
    | some c =>
      rw [Option.filter_eq_none_iff]
      intro d hd
      cases hd
      simp [hfirst c h]
  unfold startupRx
  rw [if_neg (by rw [htype]; decide), if_neg (by rw [hsrc]; exact otherId_ne s), tag, none]
  obtain ⟨other, same, start⟩ := startupNoted_own s f
  have ours : (decide (hdrSrc f = otherId (startupNoted s f)) && !bit (be f.payload 17 1) 0 && partner (startupNoted s f)) = true := by
    rw [other, same, hprov, hpartner, decide_eq_true hsrc]
    rfl
  rw [← start]
  exact if_pos ours

/-- In LISTEN the module follows the module that leads; in COLDSTART two modules with ROUND 0 both back off. -/
theorem startup_judged (clk : Nat) (s : State) (f : RxFrame) (hr : (received (begin clk s) f).2 = true) (htype : hdrType f = 7)
    (hsrc : hdrSrc f = otherId s) (hprov : bit (be f.payload 17 1) 0 = false) (hpartner : partner (received (begin clk s) f).1 = true)
    (htag : bit (hdrFlags f) 1 = true → tagOk (received (begin clk s) f).1 f = true)
    (hfirst : ∀ c, s.net.startup = some c → c.header ≠ f.header) :
    (s.net.net = .listen →
      ∃ t, exec (.startupRx clk f) s = .next t ∧ t.net.net = .follow ∧ t.net.leader = hdrSrc f) ∧
    (∀ w, s.net.net = .coldstart → s.net.windowStart = some w → (w : Int) ≤ frameStart (received (begin clk s) f).1 f →
      frameStart (received (begin clk s) f).1 f < w + tickNs s * 10 → be f.payload 16 1 = 0 → s.net.round = 0 →
      ∃ t, exec (.startupRx clk f) s = .next t ∧ t.net.net = .backoff ∧
        t.net.backoffEnd = some ((frameStart (received (begin clk s) f).1 f).toNat + tickNs s * 10 + 3 * nodeId s * 1024)) := by
  have run : exec (.startupRx clk f) s = .next (startupRx (received (begin clk s) f).1 f) := congrArg Host.Outcome.next (if_pos hr)
  obtain ⟨start, rings, net⟩ := received_heard clk s f
  generalize (received (begin clk s) f).1 = u at *
  have id : nodeId u = nodeId s := nodeId_of start
  have judged := startupRx_module u f htype (by rw [otherId, id]; exact hsrc) hprov hpartner htag (by rw [net]; exact hfirst)
  rw [judged] at run
  have mode : (startupNoted u f).net.net = s.net.net := by
    show u.net.net = _
    rw [net]
  refine ⟨fun hl => ⟨_, run, ?_⟩, fun w hc hw hle hlt hround hr0 => ⟨_, run, ?_⟩⟩
  · unfold moduleStartup
    rw [mode, hl]
    exact ⟨rfl, rfl⟩
  · have window : (startupNoted u f).net.windowStart = some w := (congrArg TahixaState.windowStart net).trans hw
    have round : (startupNoted u f).net.round = 0 := (congrArg TahixaState.round net).trans hr0
    have cycle : tickNs (startupNoted u f) = tickNs s := by
      show u.net.cycleNs = _
      rw [net]
      rfl
    have own : nodeId (startupNoted u f) = nodeId s := id
    unfold moduleStartup
    rw [mode, hc]
    dsimp only
    rw [window, round, cycle, own, hround, if_neg (by simp [hle, hlt]), if_pos (by decide), bump_net]
    exact ⟨rfl, rfl⟩

/-! ### LISTEN, COLDSTART and BACKOFF (R130, R131) -/

theorem listen_timeout (clk : Nat) (s : State) (hl : s.net.net = .listen) (hc : 8 ≤ s.net.listenCycles) :
    ∃ t, exec (.listenTimeout clk) s = .next t ∧ t.net = { s.net with
      net := .coldstart, round := 0, windowStart := none, backoffEnd := none, provisional := false } := by
  have run : exec (.listenTimeout clk) s = .next (coldStart' (begin clk s) 0) :=
    congrArg Host.Outcome.next (if_pos (by rw [begin_net, hl, decide_eq_true hc]; decide))
  refine ⟨_, run, ?_⟩
  simp only [coldStart', withNet_net, begin_net]

theorem settleStart_net (s : State) : ∃ m, (settleStart s).net = { s.net with net := m } ∧ (m = s.net.net ∨ m = .running) := by
  unfold settleStart
  split
  · exact ⟨.running, rfl, Or.inr rfl⟩
  · exact ⟨s.net.net, rfl, Or.inl rfl⟩

/-- Without an active image STARTING leaves to RUNNING. -/
theorem settleStart_running (s : State) (h : s.net.net = .starting) (hi : imageActive s = false) : (settleStart s).net.net = .running := by
  unfold settleStart
  rw [if_pos (by rw [h, hi]; rfl)]
  rfl

theorem begin_active (clk : Nat) (s : State) : imageActive (begin clk s) = imageActive s := by
  unfold imageActive
  rw [show (begin clk s).image = s.image by simp [begin_frame]]

theorem window_closed (clk : Nat) (s : State) (w : Nat) (hc : s.net.net = .coldstart) (hw : s.net.windowStart = some w)
    (hdue : w + tickNs s * 10 ≤ now (begin clk s) * 10) :
    ∃ t, exec (.startWindowClose clk) s = .next t ∧ t.net.leader = nodeId s ∧ t.net.windowStart = none ∧
      (imageActive s = false → t.net.net = .running) ∧ (t.net.net = .starting ∨ t.net.net = .running) := by
  have cycle : tickNs (begin clk s) = tickNs s := by rw [tickNs, begin_net]; rfl
  have run : exec (.startWindowClose clk) s = .next (settleStart (withNet (begin clk s)
      (fun t => { t with net := .starting, leader := nodeId (begin clk s), windowStart := none }))) :=
    congrArg Host.Outcome.next (if_pos (by
      rw [begin_net, hc, hw, cycle, Option.any_some, decide_eq_true hdue]
      decide))
  have id : nodeId (begin clk s) = nodeId s := nodeId_of (by simp [begin_frame])
  have image : imageActive (withNet (begin clk s)
      (fun t => { t with net := .starting, leader := nodeId (begin clk s), windowStart := none })) = imageActive s := by
    exact begin_active clk s
  obtain ⟨m, net, which⟩ := settleStart_net (withNet (begin clk s)
    (fun t => { t with net := .starting, leader := nodeId (begin clk s), windowStart := none }))
  refine ⟨_, run, ?_, ?_, fun hi => settleStart_running _ rfl (image.trans hi), ?_⟩
  · rw [net, ← id]
    rfl
  · rw [net]
    rfl
  · rw [net]
    exact which

/-- COLDSTART after a back-off: its STARTUP of ROUND 1 opens the window. -/
def resumed (s : State) (e : Nat) : State := withNet (coldStart' s 1) (fun t => { t with windowStart := some e })

theorem exec_backoffEnd (clk : Nat) (s : State) (e : Nat) (hb : s.net.net = .backoff) (he : s.net.backoffEnd = some e)
    (hdue : e ≤ now (begin clk s) * 10) :
    exec (.backoffEnd clk) s = .next (sendBy (sendPorts (begin clk s)) (resumed (begin clk s) e) e
      (header (begin clk s) 7 0 0xFF (begin clk s).herd.tick 32768 28 0) (startupPayload (resumed (begin clk s) e))) := by
  show execBackoffEnd clk s = _
  unfold execBackoffEnd
  dsimp only
  rw [begin_net, hb, he]
  exact congrArg Host.Outcome.next (if_pos hdue)

theorem backoff_ends (clk : Nat) (s : State) (e : Nat) (hb : s.net.net = .backoff) (he : s.net.backoffEnd = some e)
    (hdue : e ≤ now (begin clk s) * 10) :
    ∃ t pay, exec (.backoffEnd clk) s = .next t ∧ t.net.net = .coldstart ∧ t.net.round = 1 ∧ t.net.windowStart = some e ∧
      t.out = (sendPorts (begin clk s)).map (fun p => wireFrame t p ((e : Int) + shiftDown t p).toNat
        (header (begin clk s) 7 0 0xFF (begin clk s).herd.tick 32768 28 0) pay) := by
  refine ⟨_, startupPayload (resumed (begin clk s) e), exec_backoffEnd clk s e hb he hdue, ?_, ?_, ?_, ?_⟩
  · rw [sendBy_net]
    rfl
  · rw [sendBy_net]
    rfl
  · rw [sendBy_net]
    rfl
  · rw [sendBy_out, show (resumed (begin clk s) e).out = (begin clk s).out from rfl, begin_out, List.nil_append]

/-! ### Nodes (R114, R134) -/

theorem nodeOf_setNode_other (s : State) (n m : Nat) (f : NodeState → NodeState) (hm : m ≠ n) (hf : f (nodeOf s n) ≠ {}) :
    nodeOf (setNode s n f) m = nodeOf s m := by
  show tget {} (tset {} s.net.nodes n (f (nodeOf s n))) m = _
  rw [tset, if_neg hf]
  exact tget_tput_other _ _ _ _ _ hm

theorem begin_nodeOf (clk : Nat) (s : State) (n : Nat) : nodeOf (begin clk s) n = nodeOf s n :=
  nodeOf_of (congrArg TahixaState.nodes (begin_net clk s)) n

theorem begin_slotsOf (clk : Nat) (s : State) (n : Nat) : slotsOf (begin clk s) n = slotsOf s n := by
  unfold slotsOf
  rw [begin_active, begin_objs]

theorem node_integrates (clk n : Nat) (s : State) (hn : nodePresent s.objs n = true) (hs : (nodeOf s n).state = .syncing)
    (hm : 2 ≤ (nodeOf s n).measured) (hc : slotsOf s n = [] ∨ 16 ≤ (nodeOf s n).cleanTicks) :
    ∃ t, exec (.nodeIntegrated clk n) s = .next t ∧ (nodeOf t n).state = .integrated ∧ ∀ m, m ≠ n → nodeOf t m = nodeOf s m := by
  have clean : ((slotsOf s n).isEmpty || decide (16 ≤ (nodeOf s n).cleanTicks)) = true := by
    rw [Bool.or_eq_true, List.isEmpty_iff, decide_eq_true_iff]
    exact hc
  have run : exec (.nodeIntegrated clk n) s =
      .next (settleStart (bump (setNode (begin clk s) n (fun x => { x with state := .integrated, silentTicks := 0 })) 0x70 n 0x11)) :=
    congrArg Host.Outcome.next (if_pos (by
      rw [begin_nodeOf, begin_slotsOf, begin_objs, hn, hs, clean, decide_eq_true hm]
      decide))
  have nodes (m : Nat) : nodeOf (settleStart (bump (setNode (begin clk s) n (fun x => { x with state := .integrated, silentTicks := 0 }))
      0x70 n 0x11)) m = nodeOf (setNode (begin clk s) n (fun x => { x with state := .integrated, silentTicks := 0 })) m := by
    obtain ⟨_, net, -⟩ := settleStart_net (bump (setNode (begin clk s) n (fun x => { x with state := .integrated, silentTicks := 0 })) 0x70 n 0x11)
    exact nodeOf_of (by rw [net, bump_net]) m
  refine ⟨_, run, ?_, fun m hmn => ?_⟩
  · rw [nodes, nodeOf_setNode]
  · rw [nodes, nodeOf_setNode_other _ _ _ _ hmn (fun h => absurd (congrArg NodeState.state h) (by decide : NodeMode.integrated ≠ .absent)), begin_nodeOf]

theorem node_lost (clk n : Nat) (s : State) (hn : nodePresent s.objs n = true) (hs : (nodeOf s n).state = .integrated)
    (hdue : if (slotsOf s n).isEmpty then 2 ≤ (nodeOf s n).unanswered else ov s 0x70 0 0x26 ≤ (nodeOf s n).silentTicks) :
    ∃ t, exec (.nodeLost clk n) s = .next t ∧ (nodeOf t n).state = .lost ∧ ∀ m, m ≠ n → nodeOf t m = nodeOf s m := by
  have due : (if (slotsOf s n).isEmpty then decide (2 ≤ (nodeOf s n).unanswered) else decide (ov s 0x70 0 0x26 ≤ (nodeOf s n).silentTicks)) = true := by
    split at hdue
    · next h => rw [if_pos h]; exact decide_eq_true hdue
    · next h => rw [if_neg h]; exact decide_eq_true hdue
  have run : exec (.nodeLost clk n) s = .next (log (bump (setNode (begin clk s) n
      (fun x => { x with state := .lost, measured := 0, cleanTicks := 0 })) 0x70 n 0x12) .event 0x0012 n 0) :=
    congrArg Host.Outcome.next (if_pos (by
      rw [begin_nodeOf, begin_slotsOf, begin_ov, begin_objs, hn, hs, due]
      decide))
  have nodes (m : Nat) : nodeOf (log (bump (setNode (begin clk s) n (fun x => { x with state := .lost, measured := 0, cleanTicks := 0 }))
      0x70 n 0x12) .event 0x0012 n 0) m = nodeOf (setNode (begin clk s) n (fun x => { x with state := .lost, measured := 0, cleanTicks := 0 })) m :=
    nodeOf_of (by simp [log_frame, bump_frame]) m
  refine ⟨_, run, ?_, fun m hmn => ?_⟩
  · rw [nodes, nodeOf_setNode]
  · rw [nodes, nodeOf_setNode_other _ _ _ _ hmn (fun h => absurd (congrArg NodeState.state h) (by decide : NodeMode.lost ≠ .absent)), begin_nodeOf]

theorem drift_reported (clk n : Nat) (s : State) (h : (nodeOf s n).driftDue = true) :
    ∃ t, exec (.driftWarn clk n) s = .next t ∧ (nodeOf t n).driftDue = false ∧ (nodeOf t n).state = (nodeOf s n).state := by
  have run : exec (.driftWarn clk n) s =
      .next (log (setOb (setNode (begin clk s) n (fun x => { x with driftDue := false })) 0x70 n 7 1) .event 0x0011 n 0) :=
    congrArg Host.Outcome.next (if_pos (by rw [begin_nodeOf]; exact h))
  refine ⟨_, run, ?_⟩
  rw [nodeOf_of (s := setNode (begin clk s) n (fun x => { x with driftDue := false })) (by simp [log_frame, setOb_frame]), nodeOf_setNode, begin_nodeOf]
  exact ⟨rfl, rfl⟩

/-! ### Rings and links (R139, R142, R145) -/

theorem foldl_nodes_rings (l : List Nat) (g : NodeState → NodeState) (s : State) :
    (l.foldl (fun s n => setNode s n g) s).net.rings = s.net.rings :=
  foldl_keeps (fun s n => setNode s n g) (fun s => s.net.rings) (fun _ _ => rfl) l s

theorem cutNodes_rings (s : State) (line : Nat) : (cutNodes s line).net.rings = s.net.rings := by
  unfold cutNodes
  exact foldl_nodes_rings _ _ s

/-- A ring judged keeps whether it is open, and no other ring changes. -/
theorem judgeRing_rings (s : State) (r q : Nat) (hq : q < s.net.rings.length) :
    (judgeRing s r).net.rings.length = s.net.rings.length ∧ (nth {} (judgeRing s r).net.rings q).isOpen = (nth {} s.net.rings q).isOpen ∧
      ((nth {} s.net.rings q).opening = true → (nth {} (judgeRing s r).net.rings q).opening = true) := by
  unfold judgeRing
  dsimp only
  split
  · exact ⟨rfl, rfl, id⟩
  · rw [cutNodes_rings]
    have rings : (withNet s (fun t => { t with rings := upd t.rings r (fun x => { x with opening := true }) })).net.rings =
      upd s.net.rings r (fun x => { x with opening := true }) := rfl
    rw [rings]
    refine ⟨upd_length _ _ _, ?_⟩
    by_cases h : q = r
    · subst h
      rw [nth_upd_same _ _ _ _ hq]
      exact ⟨rfl, fun _ => rfl⟩
    · rw [nth_upd_other _ _ _ _ _ h]
      exact ⟨rfl, id⟩

/-- A closed ring whose closure copy did not come opens from the next tick. -/
theorem judgeRing_opens (s : State) (r : Nat) (hr : r < s.net.rings.length) (ho : ringOpen s r = false)
    (hc : (nth {} s.net.rings r).closureSeen = false) : (nth {} (judgeRing s r).net.rings r).opening = true := by
  unfold judgeRing
  dsimp only
  rw [ho, hc]
  split
  · next h => simpa using h
  · rw [cutNodes_rings]
    exact congrArg RingState.opening (nth_upd_same _ _ _ _ hr)

theorem exec_nitStart (clk : Nat) (s : State) (hleads : netLeads (begin clk s) = true) (hring : ringMode s.objs = true)
    (hsent : ∃ k, (downOf s 0).sent = some k ∧ s.herd.tick ≤ k)
    (hdue : tickStart (begin clk s) * 10 + 4480 * staticDown s + 1024 * miniSlots (tickNs s) (staticDown s) ≤ now (begin clk s) * 10) :
    exec (.downstreamNitStart clk) s =
      .next ((if ov (begin clk s) 0x70 0 0x20 = 3 then [0, 1] else [0]).foldl judgeRing (begin clk s)) := by
  obtain ⟨k, hk, htick⟩ := hsent
  have static : staticDown (begin clk s) = staticDown s := by
    unfold staticDown
    rw [begin_active, begin_ov]
  have cycle : tickNs (begin clk s) = tickNs s := by
    unfold tickNs
    rw [begin_net]
  have down : downOf (begin clk s) 0 = downOf s 0 := by
    unfold downOf
    rw [begin_net]
  rw [← static, ← cycle] at hdue
  refine congrArg Host.Outcome.next (if_pos ?_)
  rw [hleads, begin_objs, hring, down, hk, Option.any_some, begin_tick, decide_eq_true htick, decide_eq_true hdue]
  rfl

theorem ring_opens (clk : Nat) (s : State) (hleads : netLeads (begin clk s) = true) (hring : ringMode s.objs = true)
    (hsent : ∃ k, (downOf s 0).sent = some k ∧ s.herd.tick ≤ k)
    (hdue : tickStart (begin clk s) * 10 + 4480 * staticDown s + 1024 * miniSlots (tickNs s) (staticDown s) ≤ now (begin clk s) * 10)
    (hlen : 0 < s.net.rings.length) (ho : ringOpen (begin clk s) 0 = false) (hc : (nth {} s.net.rings 0).closureSeen = false) :
    ∃ t, exec (.downstreamNitStart clk) s = .next t ∧ (nth {} t.net.rings 0).opening = true ∧
      (nth {} t.net.rings 0).isOpen = (nth {} s.net.rings 0).isOpen := by
  refine ⟨_, exec_nitStart clk s hleads hring hsent hdue, ?_⟩
  have rings := congrArg TahixaState.rings (begin_net clk s)
  rw [← rings] at hlen hc ⊢
  obtain ⟨length, same, -⟩ := judgeRing_rings (begin clk s) 0 0 hlen
  have opens := judgeRing_opens (begin clk s) 0 hlen ho hc
  split
  · obtain ⟨-, still, kept⟩ := judgeRing_rings (judgeRing (begin clk s) 0) 1 0 (by rw [length]; exact hlen)
    exact ⟨kept opens, still.trans same⟩
  · exact ⟨opens, same⟩

theorem ring_restored (clk r k : Nat) (s : State) (hr : r < s.net.rings.length) (hk : (nth {} s.net.rings r).restoreAt = some k)
    (htick : k ≤ s.herd.tick) :
    ∃ t, exec (.ringRestoreAt clk r) s = .next t ∧ (nth {} t.net.rings r).isOpen = false ∧ (nth {} t.net.rings r).restoreAt = none := by
  have run : exec (.ringRestoreAt clk r) s = .next (withNet (begin clk s) (fun t => { t with
      rings := upd t.rings r (fun x => { x with isOpen := false, restoreAt := none })
      nodes := t.nodes.map (fun n => (n.1, if r = 0 then { n.2 with cutA := false } else { n.2 with cutB := false })) })) :=
    congrArg Host.Outcome.next (if_pos (by rw [begin_net, hk, Option.any_some, begin_tick, decide_eq_true htick]))
  refine ⟨_, run, ?_⟩
  rw [withNet_net, begin_net]
  dsimp only
  rw [nth_upd_same _ _ _ _ hr]
  exact ⟨rfl, rfl⟩

/-- A link that is lost: the network knows it, and the pair where it is the pair port. -/
theorem link_lost (clk p : Nat) (s : State) (hup : s.net.linkUp.getLsbD p = true) :
    ∃ t, exec (.linkSyncLoss clk p) s = .next t ∧ t.net.linkUp = s.net.linkUp &&& ~~~(1#5 <<< p) ∧
      t.pair.link = (if p = 4 then false else s.pair.link) := by
  have pair : (begin clk s).pair = s.pair := by simp [begin_frame]
  refine ⟨_, congrArg Host.Outcome.next (if_pos (by rw [begin_net]; exact hup)), ?_⟩
  have lost (u : State) (c : Bool) : (if c then lineLost u else u).net = u.net ∧ (if c then lineLost u else u).pair = u.pair := by
    cases c <;> simp [lineLost_frame]
  dsimp only
  obtain ⟨net, link⟩ := lost _ _
  rw [net, link]
  split
  · split
    · simp [loseSource_frame, bumpAt_frame, begin_net]
    · simp [bumpAt_frame, begin_net]
  · simp only [bumpAt_frame]
    exact ⟨congrArg (fun n : TahixaState => n.linkUp &&& ~~~(1#5 <<< p)) (begin_net clk s), congrArg PairState.link pair⟩

theorem link_back (clk p : Nat) (s : State) (hp : p < 5) (hd : domainOn s 9 = true) :
    ∃ t, exec (.linkSynchronised clk p) s = .next t ∧ t.net.linkUp = s.net.linkUp ||| (1#5 <<< p) ∧
      t.pair.link = (if p = 4 then true else s.pair.link) := by
  have pair : (begin clk s).pair = s.pair := by simp [begin_frame]
  refine ⟨_, congrArg Host.Outcome.next (if_pos (by rw [begin_domainOn, hd, decide_eq_true hp]; rfl)), ?_⟩
  dsimp only
  split
  · exact ⟨congrArg (fun n : TahixaState => n.linkUp ||| (1#5 <<< p)) (begin_net clk s), rfl⟩
  · exact ⟨congrArg (fun n : TahixaState => n.linkUp ||| (1#5 <<< p)) (begin_net clk s), congrArg PairState.link pair⟩

/-- Settles O50: each event of the network's states by its row. -/
theorem tahixaStates : Obligations.TahixaStates := by
  unfold Obligations.TahixaStates
  intro clk s s1
  refine ⟨?_, listen_timeout clk s, window_closed clk s, backoff_ends clk s, (node_integrates clk · s), (node_lost clk · s), (drift_reported clk · s),
    ring_opens clk s, (ring_restored clk · · s), fun p _ => link_lost clk p s, (link_back clk · s)⟩
  intro f r hr htype hsrc hprov hpartner htag hfirst
  exact startup_judged clk s f hr htype hsrc hprov hpartner htag hfirst

end Sys2Proof.Machine
end

section
/-! Proofs about the task scheduler and its matching store (12_task_scheduler.md R260 to R266). -/

namespace Sys2Proof.Machine

theorem begin_sched (clk : Nat) (s : State) : (begin clk s).sched = s.sched := by simp [begin_frame]

/-! ### Sorting -/

theorem insertBy_perm {α : Type} (lt : α → α → Bool) (a : α) (l : List α) : (insertBy lt a l).Perm (a :: l) := by
  induction l with
  | nil => exact .refl _
  | cons b l ih =>
    rw [insertBy]
    split
    · exact .refl _
    · exact (ih.cons b).trans (.swap a b l)

theorem sortBy_perm {α : Type} (lt : α → α → Bool) (l : List α) : (sortBy lt l).Perm l := by
  have fold : ∀ (l acc : List α), (l.foldl (fun acc a => insertBy lt a acc) acc).Perm (l ++ acc) := by
    intro l
    induction l with
    | nil => exact fun acc => .refl _
    | cons a l ih => exact fun acc => (ih _).trans (((insertBy_perm lt a acc).append_left l).trans List.perm_middle)
  exact (fold l []).trans (.of_eq (List.append_nil l))

/-! ### Entries of the store -/

/-- The store has an entry of a descriptor and a tag with a property. -/
def HasEntry (s : State) (i tag : Nat) (P : Instance → Prop) : Prop := ∃ x ∈ s.sched.store, x.descriptor = i ∧ x.tag = tag ∧ P x

theorem settle_keeps (d : Descriptor) (t : Nat) (x : Instance) :
    (settle d t x).descriptor = x.descriptor ∧ (settle d t x).tag = x.tag ∧ (settle d t x).operands = x.operands ∧ (settle d t x).due = x.due := by
  unfold settle
  split
  · exact ⟨rfl, rfl, rfl, rfl⟩
  · exact ⟨rfl, rfl, rfl, rfl⟩

theorem hasEntry_of_entryOf {s : State} {i tag : Nat} {x : Instance} (h : entryOf s i tag = some x) : HasEntry s i tag (fun _ => True) := by
  have found := List.find?_some h
  rw [Bool.and_eq_true, decide_eq_true_iff, decide_eq_true_iff] at found
  exact ⟨x, List.mem_of_find?_eq_some h, found.1, found.2, trivial⟩

theorem entryOf_none {s : State} {i tag : Nat} (h : entryOf s i tag = none) : ¬ HasEntry s i tag (fun _ => True) := by
  intro ⟨x, hx, hi, ht, _⟩
  have := List.find?_eq_none.mp h x hx
  simp [hi, ht] at this

/-- The entry of a descriptor and a tag becomes what the change makes of it. -/
theorem hasEntry_updEntry {s : State} {i tag : Nat} {f : Instance → Instance} {P : Instance → Prop}
    (h : HasEntry s i tag (fun _ => True)) (hf : ∀ x, (f x).descriptor = x.descriptor ∧ (f x).tag = x.tag ∧ P (f x)) :
    HasEntry (updEntry s i tag f) i tag P := by
  obtain ⟨x, hx, hi, ht, -⟩ := h
  obtain ⟨hd, htag, hp⟩ := hf x
  refine ⟨f x, List.mem_map.mpr ⟨x, hx, if_pos ?_⟩, hd.trans hi, htag.trans ht, hp⟩
  simp [hi, ht]

/-- A change of entries that keeps a property keeps every entry that has it. -/
theorem hasEntry_updEntry_keeps {s : State} {i tag j t : Nat} {f : Instance → Instance} {P : Instance → Prop}
    (h : HasEntry s j t P) (hf : ∀ x, (f x).descriptor = x.descriptor ∧ (f x).tag = x.tag ∧ (P x → P (f x))) :
    HasEntry (updEntry s i tag f) j t P := by
  obtain ⟨x, hx, hj, ht, hp⟩ := h
  obtain ⟨hd, htag, keep⟩ := hf x
  refine ⟨_, List.mem_map.mpr ⟨x, hx, rfl⟩, ?_⟩
  split
  · exact ⟨hd.trans hj, htag.trans ht, keep hp⟩
  · exact ⟨hj, ht, hp⟩

theorem hasEntry_allocate {s : State} {x : Instance} {P : Instance → Prop} (h : P x) : HasEntry (allocate s x) x.descriptor x.tag P :=
  ⟨x, List.mem_append_right _ (List.mem_singleton.mpr rfl), rfl, rfl, h⟩

theorem hasEntry_allocate_keeps {s : State} {x : Instance} {j t : Nat} {P : Instance → Prop} (h : HasEntry s j t P) :
    HasEntry (allocate s x) j t P := by
  obtain ⟨y, hy, rest⟩ := h
  exact ⟨y, List.mem_append_left _ hy, rest⟩

theorem hasEntry_of {s t : State} (hs : t.sched.store = s.sched.store) {i tag : Nat} {P : Instance → Prop} (h : HasEntry s i tag P) :
    HasEntry t i tag P := by
  unfold HasEntry
  rw [hs]
  exact h

theorem bump_sched (s : State) (c i m : Nat) : (bump s c i m).sched = s.sched := by simp [bump_frame]

/-! ### Operands (R260, R261, R265) -/

/-- An operand a task run holds. -/
def HoldsOperand (p : Post) (x : Instance) : Prop := (p.source, p.value, p.age) ∈ x.operands

theorem enterOperand_holds (p : Post) (s : State) (i : Nat) : HasEntry (enterOperand p s i) i p.tag (HoldsOperand p) := by
  unfold enterOperand
  dsimp only
  split
  · next x hx =>
    have entered : HasEntry (updEntry s i p.tag (fun x => settle (nth {} s.sched.descriptors i) (now s)
        { x with operands := x.operands.filter (fun o => o.1 != p.source) ++ [(p.source, p.value, p.age)] })) i p.tag (HoldsOperand p) := by
      refine hasEntry_updEntry (hasEntry_of_entryOf hx) (fun x => ?_)
      obtain ⟨hd, ht, ho, -⟩ := settle_keeps (nth {} s.sched.descriptors i) (now s)
        { x with operands := x.operands.filter (fun o => o.1 != p.source) ++ [(p.source, p.value, p.age)] }
      exact ⟨hd, ht, by rw [HoldsOperand, ho]; exact List.mem_append_right _ (List.mem_singleton.mpr rfl)⟩
    split
    · exact hasEntry_of (congrArg SchedState.store (bump_sched _ _ _ _)) entered
    · exact entered
  · obtain ⟨hd, ht, ho, -⟩ := settle_keeps (nth {} s.sched.descriptors i) (now s)
      { descriptor := i, tag := p.tag, operands := [(p.source, p.value, p.age)], due := !(nth {} s.sched.descriptors i).timed }
    have entered := hasEntry_allocate (s := s) (P := HoldsOperand p) (x := settle (nth {} s.sched.descriptors i) (now s)
      { descriptor := i, tag := p.tag, operands := [(p.source, p.value, p.age)], due := !(nth {} s.sched.descriptors i).timed })
      (by rw [HoldsOperand, ho]; exact List.mem_singleton.mpr rfl)
    rw [hd, ht] at entered
    exact entered

theorem enterOperand_keeps (p : Post) (s : State) (i j : Nat) (h : HasEntry s j p.tag (HoldsOperand p)) :
    HasEntry (enterOperand p s i) j p.tag (HoldsOperand p) := by
  unfold enterOperand
  dsimp only
  split
  · have entered : HasEntry (updEntry s i p.tag (fun x => settle (nth {} s.sched.descriptors i) (now s)
        { x with operands := x.operands.filter (fun o => o.1 != p.source) ++ [(p.source, p.value, p.age)] })) j p.tag (HoldsOperand p) := by
      refine hasEntry_updEntry_keeps h (fun x => ?_)
      obtain ⟨hd, ht, ho, -⟩ := settle_keeps (nth {} s.sched.descriptors i) (now s)
        { x with operands := x.operands.filter (fun o => o.1 != p.source) ++ [(p.source, p.value, p.age)] }
      exact ⟨hd, ht, fun _ => by rw [HoldsOperand, ho]; exact List.mem_append_right _ (List.mem_singleton.mpr rfl)⟩
    split
    · exact hasEntry_of (congrArg SchedState.store (bump_sched _ _ _ _)) entered
    · exact entered
  · exact hasEntry_allocate_keeps h

theorem foldl_enterOperand_keeps (p : Post) (l : List Nat) (s : State) (j : Nat) (h : HasEntry s j p.tag (HoldsOperand p)) :
    HasEntry (l.foldl (enterOperand p) s) j p.tag (HoldsOperand p) := by
  induction l generalizing s with
  | nil => exact h
  | cons i l ih => exact ih _ (enterOperand_keeps p s i j h)

theorem foldl_enterOperand (p : Post) (l : List Nat) (s : State) :
    ∀ i ∈ l, HasEntry (l.foldl (enterOperand p) s) i p.tag (HoldsOperand p) := by
  induction l generalizing s with
  | nil => exact fun i hi => absurd hi List.not_mem_nil
  | cons i l ih =>
    intro j hj
    rcases List.mem_cons.mp hj with rfl | hj
    · exact foldl_enterOperand_keeps p l _ _ (enterOperand_holds p s j)
    · exact ih _ j hj

/-- What entering an operand leaves of the scheduler. -/
theorem enterOperand_rest (p : Post) (s : State) (i : Nat) :
    (enterOperand p s i).sched.posts = s.sched.posts ∧ (enterOperand p s i).sched.held = s.sched.held := by
  unfold enterOperand
  dsimp only
  split
  · split
    · rw [bump_sched]
      exact ⟨rfl, rfl⟩
    · exact ⟨rfl, rfl⟩
  · exact ⟨rfl, rfl⟩

/-- Every task run that takes an operand holds it once it is written. -/
theorem writeOperand_taken (s : State) (p : Post) :
    (∀ i ∈ takers s p, HasEntry (writeOperand s p) i p.tag (HoldsOperand p)) ∧ (writeOperand s p).sched.posts = s.sched.posts ∧
      (writeOperand s p).sched.held = s.sched.held := by
  have soft : (keepSoft s p).sched.posts = s.sched.posts ∧ (keepSoft s p).sched.held = s.sched.held := by
    unfold keepSoft
    split
    · exact ⟨rfl, rfl⟩
    · exact ⟨rfl, rfl⟩
  refine ⟨fun i hi => hasEntry_of rfl (foldl_enterOperand p _ (keepSoft s p) i hi), ?_, ?_⟩
  · exact (foldl_keeps (enterOperand p) (fun s => s.sched.posts) (fun u i => (enterOperand_rest p u i).1) _ _).trans soft.1
  · exact (foldl_keeps (enterOperand p) (fun s => s.sched.held) (fun u i => (enterOperand_rest p u i).2) _ _).trans soft.2

theorem begin_schedUp (clk : Nat) (s : State) : schedUp (begin clk s) = schedUp s := by
  have iso : isolated (begin clk s) 0 17 = isolated s 0 17 := by
    unfold isolated
    rw [begin_mode]
  have gate : gated (begin clk s) 0 17 = gated s 0 17 := by
    unfold gated
    rw [show (begin clk s).clocks = s.clocks by simp [begin_frame]]
  unfold schedUp
  rw [begin_active, begin_domainOn, begin_domainOn, iso, gate]

/-- An operand that is written, or held back by a full store. -/
theorem takePost_taken (s : State) (p : Post) (hup : schedUp s = true) :
    (takePost s p).sched.posts = s.sched.posts ∧
    (needsRoom s p = true → (p.source, p.tag, p.value, p.age, now s) ∈ (takePost s p).sched.held ∧ (takePost s p).sched.store = s.sched.store) ∧
    (needsRoom s p = false → (takePost s p).sched.held = s.sched.held ∧ ∀ i ∈ takers s p, HasEntry (takePost s p) i p.tag (HoldsOperand p)) := by
  unfold takePost
  rw [hup, if_neg (by decide)]
  cases room : needsRoom s p with
  | true =>
    rw [if_pos rfl]
    dsimp only
    rw [bump_sched]
    exact ⟨rfl, fun _ => ⟨List.mem_append_right _ (List.mem_singleton.mpr rfl), rfl⟩, fun h => absurd h (by decide)⟩
  | false =>
    obtain ⟨taken, posts, held⟩ := writeOperand_taken s p
    rw [if_neg (by decide)]
    exact ⟨posts, fun h => absurd h (by decide), fun _ => ⟨held, taken⟩⟩

theorem operand_posted (clk : Nat) (s : State) (p : Post) (rest : List Post) (hp : sortBy postBefore s.sched.posts = p :: rest)
    (hat : p.at_ ≤ now (begin clk s)) (hup : schedUp s = true) :
    ∃ t, exec (.operandPost clk) s = .next t ∧ t.sched.posts = rest ∧
      (needsRoom (begin clk s) p = true →
        (p.source, p.tag, p.value, p.age, now (begin clk s)) ∈ t.sched.held ∧ t.sched.store = s.sched.store) ∧
      (needsRoom (begin clk s) p = false → t.sched.held = s.sched.held ∧
        ∀ i ∈ takers (begin clk s) p, HasEntry t i p.tag (HoldsOperand p)) := by
  have run : exec (.operandPost clk) s = .next (takePost (withSched (begin clk s) (fun c => { c with posts := rest })) p) := by
    show execOperandPost clk s = _
    unfold execOperandPost
    dsimp only
    rw [begin_sched, hp]
    exact congrArg Host.Outcome.next (if_pos hat)
  obtain ⟨posts, full, free⟩ := takePost_taken (withSched (begin clk s) (fun c => { c with posts := rest })) p ((begin_schedUp clk s).trans hup)
  have sched := begin_sched clk s
  refine ⟨_, run, posts, fun h => ?_, fun h => ?_⟩
  · obtain ⟨held, store⟩ := full h
    exact ⟨held, Eq.trans (b := (begin clk s).sched.store) store (by rw [sched])⟩
  · obtain ⟨held, taken⟩ := free h
    exact ⟨Eq.trans (b := (begin clk s).sched.held) held (by rw [sched]), taken⟩

/-- The operand held back longest stays without room, and is written once there is room. -/
theorem held_released (clk : Nat) (s : State) (h : Nat × Nat × Operand × Nat × Nat) (rest : List (Nat × Nat × Operand × Nat × Nat))
    (hheld : s.sched.held = h :: rest) :
    let p : Post := { source := h.1, tag := h.2.1, value := h.2.2.1, age := h.2.2.2.1, at_ := h.2.2.2.2 }
    (needsRoom (begin clk s) p = true → exec (.backpressureRelease clk) s = .next (begin clk s)) ∧
    (needsRoom (begin clk s) p = false → ∃ t, exec (.backpressureRelease clk) s = .next t ∧ t.sched.held = rest ∧
      ∀ i ∈ takers (begin clk s) p, HasEntry t i p.tag (HoldsOperand p)) := by
  intro p
  have run : exec (.backpressureRelease clk) s = .next (if needsRoom (begin clk s) p then begin clk s else
      let s2 := writeOperand (withSched (begin clk s) (fun c => { c with held := rest })) p
      if fromNet p.source then s2 else setOb s2 0x10 1 8 (max (ov s2 0x10 1 8) (satNat 32 (now (begin clk s) - p.at_)))) := by
    show execBackpressureRelease clk s = _
    unfold execBackpressureRelease
    dsimp only
    rw [begin_sched, hheld]
  refine ⟨fun full => ?_, fun free => ?_⟩
  · rw [run, full]
    rfl
  · obtain ⟨taken, -, held⟩ := writeOperand_taken (withSched (begin clk s) (fun c => { c with held := rest })) p
    rw [free, if_neg (by decide)] at run
    refine ⟨_, run, ?_⟩
    dsimp only
    split
    · exact ⟨held, taken⟩
    · exact ⟨held, taken⟩

/-! ### TIMED task runs (R264) -/

def IsDue (x : Instance) : Prop := x.due = true

theorem releaseTimed_due (s : State) (r : Nat × Nat)
    (h : HasEntry s r.2 s.herd.tick (fun _ => True) ∨ s.sched.store.length < storeSize) :
    HasEntry (releaseTimed s r) r.2 s.herd.tick IsDue := by
  unfold releaseTimed
  dsimp only
  split
  · next x hx =>
    refine hasEntry_updEntry (hasEntry_of_entryOf hx) (fun x => ?_)
    obtain ⟨hd, ht, -, hdue⟩ := settle_keeps (nth {} s.sched.descriptors r.2) (max r.1 (now s)) { x with due := true }
    exact ⟨hd, ht, hdue⟩
  · next hnone =>
    have room : s.sched.store.length < storeSize := h.resolve_left (entryOf_none hnone)
    rw [if_neg (Nat.not_le_of_lt room)]
    obtain ⟨hd, ht, -, hdue⟩ := settle_keeps (nth {} s.sched.descriptors r.2) r.1
      { descriptor := r.2, tag := s.herd.tick, operands := [], due := true }
    have entered := hasEntry_allocate (s := s) (P := IsDue) (x := settle (nth {} s.sched.descriptors r.2) r.1
      { descriptor := r.2, tag := s.herd.tick, operands := [], due := true }) hdue
    rw [hd, ht] at entered
    exact entered

theorem releaseTimed_keeps {s : State} {r : Nat × Nat} {j t : Nat} {P : Instance → Prop} (h : HasEntry s j t P)
    (hP : ∀ x y, y.due = true → P x → P y) : HasEntry (releaseTimed s r) j t P := by
  unfold releaseTimed
  dsimp only
  split
  · refine hasEntry_updEntry_keeps h (fun x => ?_)
    obtain ⟨hd, ht, -, hdue⟩ := settle_keeps (nth {} s.sched.descriptors r.2) (max r.1 (now s)) { x with due := true }
    exact ⟨hd, ht, hP _ _ hdue⟩
  · split
    · exact hasEntry_of (congrArg SchedState.store (bump_sched _ _ _ _)) h
    · exact hasEntry_allocate_keeps h

/-- A release takes at most one entry of the store, and leaves the tick. -/
theorem releaseTimed_size (s : State) (r : Nat × Nat) :
    (releaseTimed s r).sched.store.length ≤ s.sched.store.length + 1 ∧ (releaseTimed s r).herd = s.herd := by
  refine ⟨?_, by simp [releaseTimed_frame]⟩
  unfold releaseTimed
  dsimp only
  split
  · exact (List.length_map _).trans_le (Nat.le_succ _)
  · split
    · rw [bump_sched]
      exact Nat.le_succ _
    · exact (List.length_append ..).le

/-- No entry but that of the released descriptor and the tick changes. -/
theorem releaseTimed_other {s : State} {r : Nat × Nat} {x : Instance} (hx : x ∈ s.sched.store)
    (h : r.2 = x.descriptor → x.tag ≠ s.herd.tick) : x ∈ (releaseTimed s r).sched.store := by
  unfold releaseTimed
  dsimp only
  split
  · refine List.mem_map.mpr ⟨x, hx, if_neg ?_⟩
    rw [Bool.and_eq_true, decide_eq_true_iff, decide_eq_true_iff]
    exact fun both => h both.1.symm both.2
  · split
    · rw [bump_sched]
      exact hx
    · exact List.mem_append_left _ hx

theorem foldl_releaseTimed_keeps (l : List (Nat × Nat)) (s : State) (j t : Nat) (h : HasEntry s j t IsDue) :
    HasEntry (l.foldl releaseTimed s) j t IsDue := by
  induction l generalizing s with
  | nil => exact h
  | cons r l ih => exact ih _ (releaseTimed_keeps h (fun _ _ hy _ => hy))

/-- Every task run that falls due and has an entry, or room for one, is marked so. -/
theorem foldl_releaseTimed_due (l : List (Nat × Nat)) (s : State) :
    ∀ d ∈ l, HasEntry s d.2 s.herd.tick (fun _ => True) ∨ s.sched.store.length + l.length ≤ storeSize →
      HasEntry (l.foldl releaseTimed s) d.2 s.herd.tick IsDue := by
  induction l generalizing s with
  | nil => exact fun d hd => absurd hd List.not_mem_nil
  | cons r l ih =>
    intro d hd h
    obtain ⟨size, herd⟩ := releaseTimed_size s r
    rcases List.mem_cons.mp hd with rfl | hd
    · refine foldl_releaseTimed_keeps l _ _ _ (releaseTimed_due s d (h.imp_right fun room => ?_))
      rw [List.length_cons] at room
      omega
    · have later := ih (releaseTimed s r) d hd
      rw [herd] at later
      refine later (h.imp (fun has => releaseTimed_keeps has (fun _ _ _ _ => trivial)) fun room => ?_)
      rw [List.length_cons] at room
      omega

theorem foldl_releaseTimed_other (l : List (Nat × Nat)) (s : State) (x : Instance) (hx : x ∈ s.sched.store)
    (h : ∀ r ∈ l, r.2 = x.descriptor → x.tag ≠ s.herd.tick) : x ∈ (l.foldl releaseTimed s).sched.store := by
  induction l generalizing s with
  | nil => exact hx
  | cons r l ih =>
    refine ih _ (releaseTimed_other hx (h r List.mem_cons_self)) ?_
    rw [(releaseTimed_size s r).2]
    exact fun q hq => h q (List.mem_cons_of_mem _ hq)

theorem timed_due (clk : Nat) (s : State) (hup : schedUp s = true) :
    ∃ t, exec (.timedDue clk) s = .next t ∧
      (∀ d ∈ dueTimed (begin clk s), (entryOf s d.2 s.herd.tick).isSome = true ∨ s.sched.store.length + (dueTimed (begin clk s)).length ≤ storeSize →
        ∃ x ∈ t.sched.store, x.descriptor = d.2 ∧ x.tag = s.herd.tick ∧ x.due = true) ∧
      ∀ x ∈ s.sched.store, (∀ d ∈ dueTimed (begin clk s), d.2 = x.descriptor → x.tag ≠ s.herd.tick) → x ∈ t.sched.store := by
  have run : exec (.timedDue clk) s =
      .next (noteDepths ((sortBy (timedBefore (begin clk s)) (dueTimed (begin clk s))).foldl releaseTimed (begin clk s))) :=
    congrArg Host.Outcome.next (if_pos ((begin_schedUp clk s).trans hup))
  have perm := sortBy_perm (timedBefore (begin clk s)) (dueTimed (begin clk s))
  have store := congrArg SchedState.store (begin_sched clk s)
  have tick := begin_tick clk s
  refine ⟨_, run, fun d hd h => ?_, fun x hx h => ?_⟩
  · have due := foldl_releaseTimed_due _ (begin clk s) d (perm.mem_iff.mpr hd)
    rw [tick, store, perm.length_eq] at due
    refine hasEntry_of (P := IsDue) rfl (due (h.imp_left fun some => ?_))
    obtain ⟨x, hx⟩ := Option.isSome_iff_exists.mp some
    exact hasEntry_of store (hasEntry_of_entryOf hx)
  · refine foldl_releaseTimed_other _ (begin clk s) x (store.symm ▸ hx) fun r hr => ?_
    rw [tick]
    exact h r (perm.mem_iff.mp hr)

/-! ### Dispatch and expiry (R262, R266) -/

theorem task_dispatched (clk c : Nat) (s : State) (x : Instance) (hc : c < 16) (hlen : s.sched.cores.length = 16) (hup : schedUp s = true)
    (hfree : coreFree (begin clk s) c = true) (hdone : (nth {} s.sched.cores c).running.all (·.done) = true)
    (hlower : lowerFirst (begin clk s) c = false) (hpick : pickFor (begin clk s) c = some x) :
    ∃ t r, exec (.taskDispatch clk c) s = .next t ∧ (nth {} t.sched.cores c).running = some r ∧ r.inst.descriptor = x.descriptor ∧
      r.inst.tag = x.tag ∧ r.start = now (begin clk s) ∧ r.finish = now (begin clk s) + (nth {} s.sched.descriptors x.descriptor).wcet ∧
      t.sched.store = s.sched.store.filter (fun y => !(y.descriptor = x.descriptor && y.tag = x.tag)) ∧
      ∀ k, k ≠ c → nth {} t.sched.cores k = nth {} s.sched.cores k := by
  have sched := begin_sched clk s
  have run : exec (.taskDispatch clk c) s = .next (startTask (begin clk s) c x) := by
    show execTaskDispatch clk c s = _
    unfold execTaskDispatch
    dsimp only
    rw [hpick, if_pos (by rw [begin_schedUp, hup, hfree, sched, hdone, hlower, decide_eq_true hc]; rfl)]
  have task : ∃ r g, (startTask (begin clk s) c x).sched.cores = upd (begin clk s).sched.cores c g ∧
      (∀ k, (g k).running = some r) ∧ r.inst = withSoft (begin clk s) x ∧ r.start = now (begin clk s) ∧
      r.finish = now (begin clk s) + (nth {} (begin clk s).sched.descriptors x.descriptor).wcet ∧
      (startTask (begin clk s) c x).sched.store = (begin clk s).sched.store.filter (fun y => !(y.descriptor = x.descriptor && y.tag = x.tag)) := by
    unfold startTask
    dsimp only
    rw [bump_sched]
    exact ⟨_, _, rfl, fun _ => rfl, rfl, rfl, rfl, rfl⟩
  obtain ⟨r, g, cores, running, inst, start, finish, store⟩ := task
  rw [sched] at cores finish store
  refine ⟨_, r, run, ?_, by rw [inst]; rfl, by rw [inst]; rfl, start, finish, store, fun k hk => ?_⟩
  · rw [cores, nth_upd_same _ _ _ _ (by rw [hlen]; exact hc)]
    exact running _
  · rw [cores, nth_upd_other _ _ _ _ _ hk]

theorem match_expired (clk : Nat) (s : State) (x : Instance) (hx : s.sched.store.find? (fun x => decide (x.tag + 16 < s.herd.tick)) = some x) :
    ∃ t, exec (.matchExpired clk) s = .next t ∧
      t.sched.store = s.sched.store.filter (fun y => !(y.descriptor = x.descriptor && y.tag = x.tag)) ∧
      t.reg.errWord = errWordNow (begin clk s) (errWord 1 0 17 0 false x.descriptor) := by
  have run : exec (.matchExpired clk) s = .next (error (bump (withSched (begin clk s) (fun c => { c with
      store := c.store.filter (fun y => !(y.descriptor = x.descriptor && y.tag = x.tag)) })) 0x10 1 0x0A) (errWord 1 0 17 0 false x.descriptor)) := by
    show execMatchExpired clk s = _
    unfold execMatchExpired
    dsimp only
    rw [begin_tick, begin_sched, hx]
  refine ⟨_, run, ?_, ?_⟩
  · rw [show (error _ _).sched = _ from by simp only [error_frame, bump_frame]; rfl, withSched_sched, begin_sched]
  · exact (congrArg Prod.fst (error_err _ _)).trans (errWordNow_of (bump_reg _ _ _ _) rfl _)

/-- Settles O51: the scheduler's events, by the entries of the store. -/
theorem tasksRun : Obligations.TasksRun := by
  unfold Obligations.TasksRun
  intro clk s s1 taken
  refine ⟨operand_posted clk s, timed_due clk s, fun c x => task_dispatched clk c s x, match_expired clk s, fun h rest hheld => ?_⟩
  exact held_released clk s h rest hheld

end Sys2Proof.Machine
end

section
/-! Proofs about loop executions, axis faults and kernel runs (11_control_engine.md R243, R250; 13_dsp_datapath.md R282 to R284). -/

namespace Sys2Proof.Machine

/-! ### LOOP_EXECUTION (R243) -/

/-- The index of the loop an execution belongs to. -/
def loopIndex (x : LoopIn) : Nat := (if x.off = 0x60 then 128 else 0) + x.ch

theorem placeOutput_cores (s : State) (x : LoopIn) (flags compute h : Nat) (us : List F32) :
    (placeOutput s x flags compute h us).1.sched.cores = s.sched.cores := by
  unfold placeOutput
  dsimp only
  split
  · rfl
  · split
    · rfl
    · split
      · rfl
      · dsimp only
        split <;> rfl

/-- An execution keeps its output and its setpoint, the origin of the next, and takes no core. -/
theorem executeLoop_done (s : State) (x : LoopIn) (compute : Nat) :
    (executeLoop s x compute).sched.cores = s.sched.cores ∧
      (loopState (executeLoop s x compute) (loopIndex x)).ran = true ∧ (loopState (executeLoop s x compute) (loopIndex x)).oPrev = x.sp.pos ∧
      (loopState (executeLoop s x compute) (loopIndex x)).us =
        (computeOut (loopState s (loopIndex x)) x x.sp.pos (setpointRaw s x.sp x.fb.sampleTime)).us := by
  unfold executeLoop
  extract_lets i st d h o due0 flags r dly bin xh1 badX xh2 due finite clean late fl s1 m s2 s3 s4 s5
  have e2 : s2.ctl = s1.ctl ∧ s2.sched = s1.sched := by simp [s2, bump_frame]
  have e3 : s3.ctl = s2.ctl ∧ s3.sched = s2.sched := by
    dsimp only [s3, bin]
    split <;> simp [bump_frame, bumpAt_frame]
  have e4 : s4.ctl = s3.ctl ∧ s4.sched = s3.sched := by
    dsimp only [s4]
    split <;> simp [bump_frame]
  have e5 : s5.ctl = s4.ctl ∧ s5.sched = s4.sched := by
    dsimp only [s5]
    split <;> simp [bump_frame]
  have e6 : (if 0 < x.fb.age || late then trace s5 4 0x0104 x.ch fl.toNat else s5).ctl = s5.ctl ∧
      (if 0 < x.fb.age || late then trace s5 4 0x0104 x.ch fl.toNat else s5).sched = s5.sched := by
    split <;> simp [trace_frame]
  have ctl := e6.1.trans (e5.1.trans (e4.1.trans (e3.1.trans e2.1)))
  have sched := e6.2.trans (e5.2.trans (e4.2.trans (e3.2.trans e2.2)))
  refine ⟨?_, ?_⟩
  · rw [sched]
    exact placeOutput_cores _ _ _ _ _ _
  · unfold loopState
    rw [ctl, show s1.ctl.loops = tset {} r.1.ctl.loops i _ from rfl, show loopIndex x = i from rfl, tget_tset_same]
    exact ⟨rfl, rfl, rfl⟩

theorem loop_executed (clk c : Nat) (s : State) (r : Running) (x : LoopIn) (hc : c < s.sched.cores.length)
    (hr : (nth {} s.sched.cores c).running = some r) (hx : loopInput (begin clk s) r = some x) (hd : r.done = false)
    (hi : isolated s 2 1 = false) (hg : gated s 2 1 = false)
    (hdue : r.start + timeOut (loopDims x.objs x.ch x.off) ≤ now (begin clk s)) :
    ∃ t, exec (.loopExecution clk c) s = .next t ∧ (nth {} t.sched.cores c).running = some { r with done := true } ∧
      (loopState t (loopIndex x)).ran = true ∧ (loopState t (loopIndex x)).oPrev = x.sp.pos ∧
      (loopState t (loopIndex x)).us =
        (computeOut (loopState s (loopIndex x)) x x.sp.pos (setpointRaw (begin clk s) x.sp x.fb.sampleTime)).us := by
  have sched := begin_sched clk s
  have loops : loopState (begin clk s) (loopIndex x) = loopState s (loopIndex x) := by
    unfold loopState
    rw [show (begin clk s).ctl = s.ctl by simp [begin_frame]]
  have iso : isolated (begin clk s) 2 1 = false := by
    rw [isolated, begin_mode]
    exact hi
  have gate : gated (begin clk s) 2 1 = false := by
    rw [gated, show (begin clk s).clocks = s.clocks by simp [begin_frame]]
    exact hg
  have run : exec (.loopExecution clk c) s = .next (executeLoop { withSched (begin clk s) (fun q => { q with
      cores := upd q.cores c (fun k => { k with running := some { r with done := true } }) }) with freeCount := (begin clk s).freeCount + 2 }
      x (r.start + timeOut (loopDims x.objs x.ch x.off))) := by
    show execLoopExecution clk c s = _
    unfold execLoopExecution
    dsimp only
    rw [sched, hr]
    dsimp only
    rw [hx]
    dsimp only
    rw [hd, iso, gate, decide_eq_false (Nat.not_lt_of_le hdue)]
    rfl
  obtain ⟨cores, ran, origin, us⟩ := executeLoop_done { withSched (begin clk s) (fun q => { q with
      cores := upd q.cores c (fun k => { k with running := some { r with done := true } }) }) with freeCount := (begin clk s).freeCount + 2 }
      x (r.start + timeOut (loopDims x.objs x.ch x.off))
  refine ⟨_, run, ?_, ?_⟩
  · rw [cores]
    refine congrArg CoreState.running (nth_upd_same _ _ _ _ ?_)
    rw [sched]
    exact hc
  · rw [← loops]
    exact ⟨ran, origin, us⟩

/-! ### AXIS_FAULT (R250) -/

theorem axis_fault (clk l : Nat) (s : State) (c : LoopFault) (h : (loopState s l).due = some c) :
    ∃ t, exec (.axisFault clk l) s = .next t ∧ (loopState t l).fault = true ∧ (loopState t l).cause = some c ∧ (loopState t l).due = none := by
  have loops : loopState (begin clk s) l = loopState s l := by
    unfold loopState
    rw [show (begin clk s).ctl = s.ctl by simp [begin_frame]]
  have run : exec (.axisFault clk l) s = .next (axisReaction (setLoop (begin clk s) l (fun l => { l with due := none, fault := true, cause := some c }))
      (l % 128) (fun r => errWord 1 2 1 r false l) (.axisFault (l % 128) (l / 128))) := by
    show execAxisFault clk l s = _
    unfold execAxisFault
    dsimp only
    rw [loops, h]
  have state : loopState (axisReaction (setLoop (begin clk s) l (fun l => { l with due := none, fault := true, cause := some c }))
      (l % 128) (fun r => errWord 1 2 1 r false l) (.axisFault (l % 128) (l / 128))) l =
      { loopState (begin clk s) l with due := none, fault := true, cause := some c } := by
    unfold loopState
    rw [show (axisReaction _ _ _ _).ctl = _ from by simp only [axisReaction_frame]; rfl]
    exact tget_tset_same _ _ _ _
  refine ⟨_, run, ?_⟩
  rw [state]
  exact ⟨rfl, rfl, rfl⟩

/-! ### Kernel runs (R282 to R284) -/

theorem begin_dsp (clk : Nat) (s : State) : (begin clk s).dsp = s.dsp := by simp [begin_frame]

theorem kernelOf_of {s t : State} (h : t.dsp.kernels = s.dsp.kernels) (k : Nat) : kernelOf t k = kernelOf s k := by
  unfold kernelOf
  rw [h]

/-- A run writes its own slot, whose tick it takes, and ends after the run before it. -/
def RunsOnce (s t : State) (k : Nat) : Prop :=
  (∃ f, t.dsp.kernels = upd s.dsp.kernels k f ∧ ∀ g, (f g).lastTick = some s.herd.tick) ∧ s.dsp.busyUntil ≤ t.dsp.busyUntil

theorem kernelRun_once (s : State) (k retries : Nat) (h : s.dsp.busyUntil < windowClose s) : RunsOnce s (kernelRun s k retries) k := by
  have start : s.dsp.busyUntil ≤ max (windowOpen s) s.dsp.busyUntil := Nat.le_max_right _ _
  unfold kernelRun
  extract_lets g begins words dm exec0 room r s0 s1 finish flags
  split
  · unfold RunsOnce
    simp only [error_frame, setOb_frame]
    refine ⟨⟨_, rfl, fun _ => rfl⟩, ?_⟩
    show s.dsp.busyUntil ≤ exec0 + 2 * (r.cycle + retries)
    omega
  · split
    · unfold RunsOnce
      simp only [bump_frame]
      refine ⟨⟨_, rfl, fun _ => rfl⟩, ?_⟩
      show s.dsp.busyUntil ≤ exec0 + 2 * (g.execCycles + retries) + 4 * g.outCount
      omega
    · refine ⟨⟨_, rfl, fun _ => rfl⟩, ?_⟩
      exact Nat.le_of_lt h

theorem begin_kernelOf (clk : Nat) (s : State) (k : Nat) : kernelOf (begin clk s) k = kernelOf s k :=
  kernelOf_of (congrArg DspState.kernels (begin_dsp clk s)) k

theorem kernel_runs (clk k n : Nat) (s : State) (hup : dspUp s = true) (hdue : kernelDue (begin clk s) k = true)
    (hlow : ∀ j, j < k → kernelDue (begin clk s) j = false) (hopen : max (windowOpen (begin clk s)) s.dsp.busyUntil ≤ now (begin clk s))
    (hclose : now (begin clk s) < windowClose (begin clk s)) (hbusy : s.dsp.busyUntil < windowClose (begin clk s))
    (hk : k < s.dsp.kernels.length) :
    ∃ t, exec (.kernelRun clk k n) s = .next t ∧ (kernelOf t k).lastTick = some s.herd.tick ∧ s.dsp.busyUntil ≤ t.dsp.busyUntil ∧
      ∀ j, j ≠ k → kernelOf t j = kernelOf s j := by
  have up : dspUp (begin clk s) = true := by
    rw [dspUp, begin_domainOn, isolated, begin_mode, gated, show (begin clk s).clocks = s.clocks by simp [begin_frame]]
    exact hup
  have lowest : ((List.range k).all (fun j => !kernelDue (begin clk s) j)) = true := by
    rw [List.all_eq_true]
    intro j hj
    rw [hlow j (List.mem_range.mp hj)]
    rfl
  have dsp := begin_dsp clk s
  have run : exec (.kernelRun clk k n) s = .next (kernelRun (begin clk s) k n) :=
    congrArg Host.Outcome.next (if_pos (by
      rw [up, hdue, lowest, dsp, decide_eq_true hopen, decide_eq_true hclose, decide_eq_true hbusy]
      rfl))
  obtain ⟨⟨f, kernels, tick⟩, busy⟩ := kernelRun_once (begin clk s) k n (by rw [dsp]; exact hbusy)
  rw [dsp] at kernels busy
  rw [begin_tick] at tick
  refine ⟨_, run, ?_, busy, fun j hj => ?_⟩
  · rw [kernelOf, kernels, nth_upd_same _ _ _ _ hk]
    exact tick _
  · rw [kernelOf, kernels, nth_upd_other _ _ _ _ _ hj, kernelOf]

theorem kernel_aborted (clk k m : Nat) (s : State) (hm : (kernelOf s k).overrun = some m)
    (hend : m ≠ s.herd.tick ∨ windowClose (begin clk s) ≤ now (begin clk s)) :
    ∃ t, exec (.kernelWindowClose clk k) s = .next t ∧ (kernelOf t k).overrun = none ∧
      t.reg.errWord = errWordNow (begin clk s) (kernelWord k) := by
  have late : (m != s.herd.tick || decide (windowClose (begin clk s) ≤ now (begin clk s))) = true := by
    rw [Bool.or_eq_true, bne_iff_ne, decide_eq_true_iff]
    exact hend
  have run : exec (.kernelWindowClose clk k) s =
      .next (error (bump (setKernel (begin clk s) k (fun g => { g with overrun := none })) 0x10 (8 + k) 0x0B) (kernelWord k)) :=
    congrArg Host.Outcome.next (if_pos (by rw [begin_kernelOf, hm, Option.any_some, begin_tick]; exact late))
  have hk : k < (begin clk s).dsp.kernels.length := by
    rw [begin_dsp]
    refine Nat.lt_of_not_le fun out => ?_
    rw [kernelOf, nth, List.getD_eq_default _ _ out] at hm
    cases hm
  refine ⟨_, run, ?_, (congrArg Prod.fst (error_err _ _)).trans (errWordNow_of (bump_reg _ _ _ _) rfl _)⟩
  rw [kernelOf, show (error _ _).dsp = _ from by simp only [error_frame, bump_frame]; rfl]
  exact congrArg KernelSlot.overrun (nth_upd_same _ _ _ _ hk)

/-- Settles O52: loops and kernels, each event by its rule. -/
theorem loopsAndKernels : Obligations.LoopsAndKernels := by
  unfold Obligations.LoopsAndKernels
  intro clk s s1
  refine ⟨fun c r x => loop_executed clk c s r x, fun l c => axis_fault clk l s c, fun k n => kernel_runs clk k n s, fun k m => kernel_aborted clk k m s⟩

end Sys2Proof.Machine
end

section
/-! Proofs about errors that the hardware finds of itself, and standard inputs and outputs (01_cell_architecture.md R17, R18;
02_modes_and_start.md R54; 16_field_io_feedback_aux.md R337 to R340). -/

namespace Sys2Proof.Machine

/-! ### Error words -/

theorem errorAs_err (s : State) (w : Word) (code arg : Nat) (cls : LogClass) :
    errPair (errorAs s w code arg cls) = (errWordNow s w, satNat 32 (s.reg.errCount + 1)) := by
  unfold errorAs
  rw [log_err]
  exact writeErr_err s w

/-- An error that follows a step without errors of its own. -/
theorem error_word (u s : State) (w : Word) (hr : u.reg = s.reg) (hf : u.fresh.errMin = s.fresh.errMin) :
    (error u w).reg.errWord = errWordNow s w :=
  (congrArg Prod.fst (error_err u w)).trans (errWordNow_of hr hf w)

theorem errorAs_word (u s : State) (w : Word) (code arg : Nat) (cls : LogClass) (hr : u.reg = s.reg) (hf : u.fresh.errMin = s.fresh.errMin) :
    (errorAs u w code arg cls).reg.errWord = errWordNow s w :=
  (congrArg Prod.fst (errorAs_err u w code arg cls)).trans (errWordNow_of hr hf w)

/-- A DDR word without a reaction. -/
theorem wordReaction_none (e : Nat) : wordReaction (errWord 3 5 1 0 false e) = 0 := by
  unfold wordReaction errWord bits b2n
  rw [BitVec.toNat_ofNat]
  simp only [Bool.false_eq_true, if_false]
  omega

/-! ### ERROR_DETECTED and CONTAINED_ERROR_RATE (R17, R54) -/

theorem begin_hw (clk : Nat) (s : State) : (begin clk s).hw = s.hw := by simp [begin_frame]

theorem begin_isolated (clk : Nat) (s : State) (r b : Nat) : isolated (begin clk s) r b = isolated s r b := by
  unfold isolated
  rw [begin_mode]

theorem countCorrected_reg (s : State) (r b : Nat) : (countCorrected s r b).reg = s.reg ∧ (countCorrected s r b).mode = s.mode := by
  unfold countCorrected
  split
  · simp [bump_frame]
  · split
    · simp [bump_frame]
    · exact ⟨rfl, rfl⟩

theorem blockFails_isolated (s : State) (r b e : Nat) : isolated (blockFails s r b e) r b = true := by
  unfold blockFails
  dsimp only
  split
  · rw [isolated, show (runsIsolated (isolate s r b e)).mode = _ from by simp only [runsIsolated_frame]; rfl]
    exact isolate_isolated s r b e
  · split
    · rw [isolated, show (pcieDown (isolate s r b e) false).mode = _ from by simp only [pcieDown_frame]; rfl]
      exact isolate_isolated s r b e
    · exact isolate_isolated s r b e

/-- What becomes of a detected error of a known block. -/
def detected (s : State) (kind : ErrorKind) (r b x : Nat) : State :=
  match kind with
  | .corrected => countCorrected (error s (errWord (partLevel r 0) r b 0 false x)) r b
  | .retried => error s (errWord (partLevel r 1) r b 0 false x)
  | .uncorrected => if r ≤ 4 then blockFails s r b x else partFails s r b x
  | .regulator =>
    faultError (withHw s (fun h => { h with supplyOut := if h.supplyOut.contains (256 + x) then h.supplyOut else h.supplyOut ++ [256 + x] }))
      (errWord 3 7 2 3 false x) .regulator

theorem exec_errorDetected (clk r b x : Nat) (kind : ErrorKind) (s : State) (hk : blockKnown r b = true) (hi : isolated s r b = false)
    (hb : s.hw.brownOut = false) : exec (.errorDetected clk kind r b x) s = .next (detected (begin clk s) kind r b x) := by
  show execErrorDetected clk kind r b x s = _
  unfold execErrorDetected
  dsimp only
  rw [hk, begin_isolated, hi, begin_hw, hb]
  rfl

/-- A part that fails, with what its failure breaks. -/
def partBroken (s : State) (r b : Nat) : State := if r = 5 && b = 4 then { s with aon := { s.aon with crcOk := false } } else s

theorem partBroken_reg (s : State) (r b : Nat) : (partBroken s r b).reg = s.reg ∧ (partBroken s r b).fresh = s.fresh := by
  unfold partBroken
  split
  · exact ⟨rfl, rfl⟩
  · exact ⟨rfl, rfl⟩

/-- The reaction to a part that fails: FAULT, or a contained word for codes 7 but the regulators. -/
def partReaction (s : State) (r b : Nat) (w : Nat → Word) : State :=
  match r with
  | 5 => faultError s (w 3) .untilReset
  | 6 => faultError s (w 3) .momentary
  | _ => if b = 2 then faultError s (w 3) .regulator else error s (w 0)

theorem partFails_eq (s : State) (r b x : Nat) :
    partFails s r b x = partReaction (partBroken s r b) r b (fun k => errWord (partLevel r 3) r b k false x) := rfl

theorem partReaction_word (u s : State) (r b : Nat) (w : Nat → Word) (hr : r = 5 ∨ r = 6 ∨ r = 7) (hreg : u.reg = s.reg)
    (hfresh : u.fresh = s.fresh) : (partReaction u r b w).reg.errWord = errWordNow s (w (if r = 7 ∧ b ≠ 2 then 0 else 3)) := by
  have word (c : Cause) := (faultError_word u s (w 3) c hreg (congrArg ClockNew.errMin hfresh)).1
  unfold partReaction
  rcases hr with rfl | rfl | rfl
  · have fault : (if 5 = 7 ∧ b ≠ 2 then 0 else 3) = 3 := if_neg (fun h => absurd h.1 (by decide))
    rw [fault]
    exact word _
  · have fault : (if 6 = 7 ∧ b ≠ 2 then 0 else 3) = 3 := if_neg (fun h => absurd h.1 (by decide))
    rw [fault]
    exact word _
  · show (if b = 2 then faultError u (w 3) .regulator else error u (w 0)).reg.errWord = _
    by_cases hb : b = 2
    · have fault : (if 7 = 7 ∧ b ≠ 2 then 0 else 3) = 3 := if_neg (fun h => h.2 hb)
      rw [fault, if_pos hb]
      exact word _
    · have contained : (if 7 = 7 ∧ b ≠ 2 then 0 else 3) = 0 := if_pos ⟨rfl, hb⟩
      rw [contained, if_neg hb]
      exact error_word u s _ hreg (congrArg ClockNew.errMin hfresh)

/-- A part outside the five regions fails: the word of its part, without or with FAULT. -/
theorem partFails_word (s : State) (r b x : Nat) (hr : r = 5 ∨ r = 6 ∨ r = 7) :
    (partFails s r b x).reg.errWord = errWordNow s (errWord (partLevel r 3) r b (if r = 7 ∧ b ≠ 2 then 0 else 3) false x) := by
  obtain ⟨reg, fresh⟩ := partBroken_reg s r b
  rw [partFails_eq, partReaction_word _ s r b _ hr reg fresh]

/-- An error of a known block that is neither isolated nor in a brown-out, by its kind. -/
theorem error_detected (clk r b x : Nat) (s : State) (hk : blockKnown r b = true) (hi : isolated s r b = false) (hb : s.hw.brownOut = false) :
    (∃ t, exec (.errorDetected clk .corrected r b x) s = .next t ∧
      t.reg.errWord = errWordNow (begin clk s) (errWord (partLevel r 0) r b 0 false x) ∧ t.mode.isolated = s.mode.isolated) ∧
    (∃ t, exec (.errorDetected clk .retried r b x) s = .next t ∧
      t.reg.errWord = errWordNow (begin clk s) (errWord (partLevel r 1) r b 0 false x) ∧ t.mode.isolated = s.mode.isolated) ∧
    (r ≤ 4 → ∃ t, exec (.errorDetected clk .uncorrected r b x) s = .next t ∧ isolated t r b = true) ∧
    (r = 5 ∨ r = 6 ∨ r = 7 → ∃ t, exec (.errorDetected clk .uncorrected r b x) s = .next t ∧
      t.reg.errWord = errWordNow (begin clk s) (errWord (partLevel r 3) r b (if r = 7 ∧ b ≠ 2 then 0 else 3) false x)) ∧
    (∃ t, exec (.errorDetected clk .regulator r b x) s = .next t ∧ (256 + x) ∈ t.hw.supplyOut ∧
      t.reg.errWord = errWordNow (begin clk s) (errWord 3 7 2 3 false x)) := by
  have run (kind : ErrorKind) := exec_errorDetected clk r b x kind s hk hi hb
  have iso (w : Word) : (error (begin clk s) w).mode.isolated = s.mode.isolated := by rw [error_isolated, begin_mode]
  refine ⟨⟨_, run .corrected, ?_, ?_⟩, ⟨_, run .retried, error_word _ _ _ rfl rfl, iso _⟩, fun hr => ⟨_, run .uncorrected, ?_⟩,
    fun hr => ⟨_, run .uncorrected, ?_⟩, ⟨_, run .regulator, ?_, (faultError_word _ _ _ _ rfl rfl).1⟩⟩
  · rw [detected, (countCorrected_reg _ _ _).1]
    exact error_word _ _ _ rfl rfl
  · rw [detected, (countCorrected_reg _ _ _).2]
    exact iso _
  · rw [detected, if_pos hr]
    exact blockFails_isolated _ _ _ _
  · rw [detected, if_neg (by omega)]
    exact partFails_word _ _ _ _ hr
  · rw [detected, show (faultError _ _ _).hw = _ from by simp only [faultError_frame]; rfl]
    show (256 + x) ∈ (if (begin clk s).hw.supplyOut.contains (256 + x) then _ else _)
    split
    · next h => exact List.contains_iff_mem.mp h
    · exact List.mem_append_right _ (List.mem_singleton.mpr rfl)

theorem contained_rate (clk r b : Nat) (s : State) (hr : r ≤ 4) (hn : 16 ≤ containedCount (begin clk s) r b) (hi : isolated s r b = false) :
    ∃ t, exec (.containedErrorRate clk r b) s = .next t ∧ isolated t r b = true := by
  have run : exec (.containedErrorRate clk r b) s = .next (blockFails { begin clk s with freeCount := (begin clk s).freeCount + 1 } r b
      (Config.freeValue (begin clk s).freeCount)) :=
    congrArg Host.Outcome.next (if_neg (by
      rw [begin_isolated, hi, decide_eq_false (Nat.not_lt_of_le hr), decide_eq_false (Nat.not_lt_of_le hn)]
      decide))
  exact ⟨_, run, blockFails_isolated _ _ _ _⟩

/-! ### DDR_UNCORRECTABLE_ERROR (R54, R375) -/

/-- An event leaves the alarms as they are. -/
theorem addEvent_alarms (s : State) (e : LogEntry) : (addEvent s e).logs.alarms = s.logs.alarms := by
  have drop : (dropEvent s).logs.alarms = s.logs.alarms := by
    unfold dropEvent
    dsimp only
    split
    · split
      · simp [bump_frame]
      · simp [bumpN_frame]
    · rfl
  unfold addEvent
  dsimp only
  split
  · rfl
  · split
    · split
      · split
        · simp [bump_frame]
        · simp [bumpN_frame]
      · rfl
    · exact drop

/-- An error word without a reaction enters the events alone. -/
theorem error_alarms (s : State) (w : Word) (h : wordReaction w = 0) : (error s w).logs.alarms = s.logs.alarms := by
  have written : (writeErr s w).logs = s.logs := by
    unfold writeErr
    dsimp only
    rw [if_pos h]
    split
    · rfl
    · rfl
  unfold error errorAs log
  rw [if_pos h]
  dsimp only
  split
  · show (writeErr s w).logs.alarms = _
    rw [written]
  · rw [addEvent_alarms, written]

/-- Entries that cannot be read are replaced by one marker; the others stay. -/
theorem entriesLost_mem (t seq first n : Nat) (l m : List LogEntry) (h : entriesLost t seq first n l = some m) :
    (∀ e ∈ m, e.ecc = true ∨ (e ∈ l ∧ ¬(first ≤ e.seq ∧ e.seq < first + n))) ∧
      ∀ e ∈ l, ¬(first ≤ e.seq ∧ e.seq < first + n) → e ∈ m := by
  have kept (e : LogEntry) : (!(decide (first ≤ e.seq) && decide (e.seq < first + n))) = true ↔ ¬(first ≤ e.seq ∧ e.seq < first + n) := by
    rw [Bool.not_eq_true', Bool.eq_false_iff, Ne, Bool.and_eq_true, decide_eq_true_iff, decide_eq_true_iff]
  unfold entriesLost at h
  extract_lets hit k before after at h
  have split_l : before ++ l.drop before.length = l := by
    have whole := List.takeWhile_append_dropWhile (p := fun e => !hit e) (l := l)
    have rest : l.drop before.length = l.dropWhile (fun e => !hit e) :=
      (congrArg (List.drop before.length) whole.symm).trans List.drop_left
    rw [rest]
    exact whole
  split at h
  · cases h
  · obtain rfl := Option.some.inj h
    refine ⟨fun e he => ?_, fun e he hn => ?_⟩
    · rcases List.mem_append.mp he with hb | he
      · exact Or.inr ⟨(List.takeWhile_sublist _).mem hb, (kept e).mp (List.mem_takeWhile_imp (p := fun e => !hit e) hb)⟩
      · rcases List.mem_cons.mp he with rfl | ha
        · exact Or.inl rfl
        · obtain ⟨hd, hk⟩ := List.mem_filter.mp ha
          exact Or.inr ⟨List.mem_of_mem_drop hd, (kept e).mp hk⟩
    · rw [← split_l] at he
      rcases List.mem_append.mp he with hb | hd
      · exact List.mem_append_left _ hb
      · exact List.mem_append_right _ (List.mem_cons_of_mem _ (List.mem_filter.mpr ⟨hd, (kept e).mpr hn⟩))

theorem entriesLost_none (t seq first n : Nat) (l : List LogEntry) (h : entriesLost t seq first n l = none) :
    ∀ e ∈ l, ¬(first ≤ e.seq ∧ e.seq < first + n) := by
  unfold entriesLost at h
  extract_lets hit k before after at h
  split at h
  · next hk =>
    intro e he both
    have := List.filter_eq_nil_iff.mp (List.eq_nil_of_length_eq_zero hk) e he
    simp [hit, both.1, both.2] at this
  · cases h

/-- The alarms whose memory is lost. -/
theorem alarmsLost (s : State) (first n : Nat) :
    (∀ e ∈ (logLost s 0 first n).logs.alarms, e.ecc = true ∨ (e ∈ s.logs.alarms ∧ ¬(first ≤ e.seq ∧ e.seq < first + n))) ∧
      (∀ e ∈ s.logs.alarms, ¬(first ≤ e.seq ∧ e.seq < first + n) → e ∈ (logLost s 0 first n).logs.alarms) ∧
      (logLost s 0 first n).reg = s.reg ∧ (logLost s 0 first n).fresh = s.fresh := by
  cases h : entriesLost (now s) s.logs.seqAlarm first n s.logs.alarms with
  | some l =>
    have lost : logLost s 0 first n = withLogs s (fun g => { g with alarms := l, seqAlarm := g.seqAlarm + 1 }) := by
      unfold logLost
      dsimp only
      rw [h]
      rfl
    rw [lost]
    obtain ⟨only, all⟩ := entriesLost_mem _ _ _ _ _ _ h
    exact ⟨only, all, rfl, rfl⟩
  | none =>
    have lost : logLost s 0 first n = s := by
      unfold logLost
      dsimp only
      rw [h]
      rfl
    rw [lost]
    have none := entriesLost_none _ _ _ _ _ h
    exact ⟨fun e he => Or.inr ⟨he, none e he⟩, fun e he _ => he, rfl, rfl⟩

theorem ddr_served (clk : Nat) (s : State) (h : domainOn s 14 = true ∨ s.start.running = true) :
    (!domainOn (begin clk s) 14 && !(begin clk s).start.running) = false := by
  rw [begin_domainOn, show (begin clk s).start = s.start by simp [begin_frame]]
  rcases h with h | h <;> simp [h]

/-- The step of a DDR error, whose free element is taken. -/
def ddrNoted (clk : Nat) (s : State) : State := { begin clk s with freeCount := (begin clk s).freeCount + 1 }

theorem ddr_code (clk area first n : Nat) (s : State) (h : domainOn s 14 = true ∨ s.start.running = true) (ha : area ≤ 2) :
    ∃ t e, exec (.ddrUncorrectableError clk area first n) s = .next t ∧ t.reg.errWord = errWordNow (begin clk s) (errWord 3 5 1 3 false e) := by
  have run : exec (.ddrUncorrectableError clk area first n) s =
      .next (faultError (ddrNoted clk s) (errWord 3 5 1 3 false (Config.freeValue (begin clk s).freeCount)) .untilReset) := by
    show execDdrUncorrectableError clk area first n s = _
    unfold execDdrUncorrectableError
    dsimp only
    rw [ddr_served clk s h, if_pos ha]
    rfl
  exact ⟨_, _, run, (faultError_word _ _ _ _ rfl rfl).1⟩

theorem ddr_alarms (clk first n : Nat) (s : State) (h : domainOn s 14 = true ∨ s.start.running = true) :
    ∃ t e, exec (.ddrUncorrectableError clk 4 first n) s = .next t ∧ t.reg.errWord = errWordNow (begin clk s) (errWord 3 5 1 0 false e) ∧
      (∀ e ∈ t.logs.alarms, e.ecc = true ∨ (e ∈ s.logs.alarms ∧ ¬(first ≤ e.seq ∧ e.seq < first + n))) ∧
      ∀ e ∈ s.logs.alarms, ¬(first ≤ e.seq ∧ e.seq < first + n) → e ∈ t.logs.alarms := by
  have run : exec (.ddrUncorrectableError clk 4 first n) s =
      .next (error (logLost (ddrNoted clk s) 0 first n) (errWord 3 5 1 0 false (Config.freeValue (begin clk s).freeCount))) := by
    show execDdrUncorrectableError clk 4 first n s = _
    unfold execDdrUncorrectableError
    dsimp only
    rw [ddr_served clk s h]
    rfl
  obtain ⟨only, all, reg, fresh⟩ := alarmsLost (ddrNoted clk s) first n
  have same : (ddrNoted clk s).logs = s.logs := by
    show (begin clk s).logs = _
    simp [begin_frame]
  rw [same] at only all
  refine ⟨_, _, run, error_word _ _ _ reg (congrArg ClockNew.errMin fresh), ?_⟩
  rw [error_alarms _ _ (wordReaction_none _)]
  exact ⟨only, all⟩

/-! ### Standard inputs (R337) -/

theorem begin_field (clk : Nat) (s : State) : (begin clk s).field = s.field := by simp [begin_frame]

theorem begin_gated (clk : Nat) (s : State) (r b : Nat) : gated (begin clk s) r b = gated s r b := by
  unfold gated
  rw [show (begin clk s).clocks = s.clocks by simp [begin_frame]]

theorem begin_fieldUp (clk : Nat) (s : State) (b : Nat) : fieldUp (begin clk s) b = fieldUp s b := by
  unfold fieldUp
  rw [begin_domainOn, begin_isolated, begin_gated]

/-- A table over an ascending list gives each of its keys its entry. -/
theorem tget_inputTable (f : Nat → StdInput) (l : List Nat) (hl : l.Pairwise (· < ·)) :
    ∀ n ∈ l, tget {} (inputTable f l) n = f n := by
  have absent : ∀ (l : List Nat) (n : Nat), (∀ m ∈ l, n < m) → tget {} (inputTable f l) n = {} := by
    intro l n h
    induction l with
    | nil => rfl
    | cons m l ih =>
      have below := h m List.mem_cons_self
      show tget {} (if f m = {} then inputTable f l else (m, f m) :: inputTable f l) n = {}
      split
      · exact ih (fun k hk => h k (List.mem_cons_of_mem _ hk))
      · rw [tget, if_neg (Nat.ne_of_gt below), if_pos below]
  induction l with
  | nil => exact fun n hn => absurd hn List.not_mem_nil
  | cons m l ih =>
    intro n hn
    obtain ⟨above, rest⟩ := List.pairwise_cons.mp hl
    show tget {} (if f m = {} then inputTable f l else (m, f m) :: inputTable f l) n = f n
    rcases List.mem_cons.mp hn with rfl | hn
    · split
      · next h => rw [h, absent l n above]
      · rw [tget, if_pos rfl]
    · have lt := above n hn
      split
      · exact ih rest n hn
      · rw [tget, if_neg (Nat.ne_of_lt lt), if_neg (Nat.lt_asymm lt)]
        exact ih rest n hn

theorem inputMoved_inputs (t : Nat) (s : State) (n : Nat) (was is : Bool) : (inputMoved t s n was is).field.inputs = s.field.inputs := by
  have probes (u : State) : (probeLatch u n t).field.inputs = u.field.inputs := by
    unfold probeLatch
    refine foldl_keeps _ (fun s => s.field.inputs) (fun u e => ?_) _ _
    split
    · simp [bump_frame, setEnc]
    · rfl
  have moved : (inputTrigger (bump s 0x90 (0x40 + n) 4) n t is).field = s.field := by simp [inputTrigger_frame, bump_frame]
  unfold inputMoved
  dsimp only
  split
  · rfl
  · split
    · rw [probes, moved]
    · rw [moved]

theorem inputs_filtered (clk raw : Nat) (s : State) (hup : fieldUp s 0 = true) :
    ∃ t, exec (.inputFilterStep clk raw) s = .next t ∧
      ∀ n, n < 32 → inputOf t n = filterInput s.objs n (now (begin clk s) / 10000 * 10000) (bit raw n && !s.field.inGroup.getLsbD (n / 8)) (inputOf s n) := by
  have field := begin_field clk s
  have objs := begin_objs clk s
  have old (n : Nat) : inputOf (begin clk s) n = inputOf s n := by rw [inputOf, field, inputOf]
  refine ⟨_, congrArg Host.Outcome.next (if_pos ((begin_fieldUp clk s 0).trans hup)), fun n hn => ?_⟩
  rw [inputOf, foldl_keeps _ (fun s : State => s.field.inputs) (fun u n => inputMoved_inputs _ u n _ _)]
  rw [withField_field]
  dsimp only
  rw [tget_inputTable _ _ List.pairwise_lt_range n (List.mem_range.mpr hn)]
  rw [field, objs, old]

/-! ### Group faults (R338, R340) -/

/-- Setting a bit that is set changes nothing. -/
theorem or_bit_set {w : Nat} (x : BitVec w) (g : Nat) (h : x.getLsbD g = true) : x ||| (1#w <<< g) = x := by
  refine BitVec.eq_of_getLsbD_eq fun i hi => ?_
  rw [BitVec.getLsbD_or, BitVec.getLsbD_shiftLeft, BitVec.getLsbD_one]
  by_cases hg : i = g
  · subst hg
    rw [h, Bool.true_or]
  · have off : (decide (i < w) && !decide (i < g) && (decide (0 < w) && decide (i - g = 0))) = false := by
      rcases Nat.lt_or_ge i g with lt | ge
      · simp [lt]
      · have : i - g ≠ 0 := by omega
        simp [this]
    rw [off, Bool.or_false]

theorem groupFault_word (u s : State) (element g : Nat) (hr : u.reg = s.reg) (hf : u.fresh = s.fresh) :
    (groupFault u element g).reg.errWord = errWordNow s (errWord 1 4 0 0 false element) ∧ (groupFault u element g).field = u.field := by
  refine ⟨errorAs_word _ s _ _ _ _ ((bump_reg _ _ _ _).trans hr)
    ((bump_errMin _ _ _ _).trans (congrArg ClockNew.errMin hf)), ?_⟩
  simp [groupFault_frame]

theorem input_group_fault (clk g mv : Nat) (s : State) (hup : fieldUp s 0 = true) (hg : g < 4) (hmv : mv < 18000) :
    ∃ t, exec (.inputGroupFault clk g mv) s = .next t ∧ t.field.inGroup = s.field.inGroup ||| (1#4 <<< g) ∧
      (s.field.inGroup.getLsbD g = true → t.reg = s.reg) ∧
      (s.field.inGroup.getLsbD g = false → t.reg.errWord = errWordNow (begin clk s) (errWord 1 4 0 0 false (32 + g))) := by
  have field := begin_field clk s
  have up : (!fieldUp (begin clk s) 0 || decide (4 ≤ g) || decide (18000 ≤ mv)) = false := by
    rw [begin_fieldUp, hup, decide_eq_false (Nat.not_le_of_lt hg), decide_eq_false (Nat.not_le_of_lt hmv)]
    rfl
  have run : exec (.inputGroupFault clk g mv) s = .next (if (begin clk s).field.inGroup.getLsbD g
      then setSupply (begin clk s) (groupSupply false g) mv
      else groupFault (withField (setSupply (begin clk s) (groupSupply false g) mv) (fun d => { d with inGroup := d.inGroup ||| (1#4 <<< g) })) (32 + g) g) :=
    congrArg Host.Outcome.next (if_neg (by rw [up]; decide))
  refine ⟨_, run, ?_⟩
  rw [field]
  cases set : s.field.inGroup.getLsbD g with
  | true =>
    rw [if_pos rfl, or_bit_set _ _ set]
    exact ⟨congrArg FieldState.inGroup field, fun _ => begin_reg clk s, fun h => absurd h (by decide)⟩
  | false =>
    rw [if_neg (by decide)]
    obtain ⟨word, same⟩ := groupFault_word (withField (setSupply (begin clk s) (groupSupply false g) mv)
      (fun d => { d with inGroup := d.inGroup ||| (1#4 <<< g) })) (begin clk s) (32 + g) g rfl rfl
    refine ⟨?_, fun h => absurd h (by decide), fun _ => word⟩
    rw [same, ← field]
    rfl

theorem output_group_fault (clk g mv : Nat) (s : State) (hup : fieldUp s 0 = true) (hg : g < 2) :
    ∃ t, exec (.outputGroupFault clk g mv) s = .next t ∧ t.field.outGroup = s.field.outGroup ||| (1#2 <<< g) ∧
      (s.field.outGroup.getLsbD g = true → t.reg = s.reg) ∧
      (s.field.outGroup.getLsbD g = false → t.reg.errWord = errWordNow (begin clk s) (errWord 1 4 0 0 false (36 + g))) := by
  have field := begin_field clk s
  have up : (!fieldUp (begin clk s) 0 || decide (2 ≤ g)) = false := by
    rw [begin_fieldUp, hup, decide_eq_false (Nat.not_le_of_lt hg)]
    rfl
  have run : exec (.outputGroupFault clk g mv) s = .next (if (begin clk s).field.outGroup.getLsbD g
      then setSupply (begin clk s) (groupSupply true g) mv
      else groupFault (withField (setSupply (begin clk s) (groupSupply true g) mv) (fun d => { d with outGroup := d.outGroup ||| (1#2 <<< g) })) (36 + g) g) :=
    congrArg Host.Outcome.next (if_neg (by rw [up]; decide))
  refine ⟨_, run, ?_⟩
  rw [field]
  cases set : s.field.outGroup.getLsbD g with
  | true =>
    rw [if_pos rfl, or_bit_set _ _ set]
    exact ⟨congrArg FieldState.outGroup field, fun _ => begin_reg clk s, fun h => absurd h (by decide)⟩
  | false =>
    rw [if_neg (by decide)]
    obtain ⟨word, same⟩ := groupFault_word (withField (setSupply (begin clk s) (groupSupply true g) mv)
      (fun d => { d with outGroup := d.outGroup ||| (1#2 <<< g) })) (begin clk s) (36 + g) g rfl rfl
    refine ⟨?_, fun h => absurd h (by decide), fun _ => word⟩
    rw [same, ← field]
    rfl

theorem group_cleared (clk g mv : Nat) (output : Bool) (s : State) (hup : fieldUp s 0 = true) (hmv : 18000 ≤ mv) (hg : g < if output then 2 else 4) :
    exec (.groupFaultCleared clk output g mv) s = .next (withField (setSupply (begin clk s) (groupSupply output g) mv) (fun d =>
      if output then { d with outGroup := d.outGroup &&& ~~~(1#2 <<< g) } else { d with inGroup := d.inGroup &&& ~~~(1#4 <<< g) })) :=
  congrArg Host.Outcome.next (if_neg (by
    rw [begin_fieldUp, hup, decide_eq_false (Nat.not_lt_of_le hmv), decide_eq_false (Nat.not_le_of_lt hg)]
    decide))

/-- Settles O53: detected errors by the table of their part, standard inputs by their filter and groups. -/
theorem errorsAndInputs : Obligations.ErrorsAndInputs := by
  unfold Obligations.ErrorsAndInputs
  refine ⟨fun clk s => ⟨fun r b x hk hi hb => ?_, fun area first n h => ⟨ddr_code clk area first n s h, ?_⟩⟩, ?_⟩
  · obtain ⟨corrected, retried, block, part, regulator⟩ := error_detected clk r b x s hk hi hb
    exact ⟨corrected, retried, block, part, regulator, fun hr hn => contained_rate clk r b s hr hn hi⟩
  · rintro rfl
    exact ddr_alarms clk first n s h
  · intro clk s s1 hup
    have field := begin_field clk s
    refine ⟨fun raw => inputs_filtered clk raw s hup, fun g mv => input_group_fault clk g mv s hup, fun g mv => output_group_fault clk g mv s hup,
      fun g mv hmv => ⟨fun hg => ?_, fun hg => ?_⟩⟩
    · exact ⟨_, group_cleared clk g mv false s hup hmv hg, congrArg (fun d : FieldState => d.inGroup &&& ~~~(1#4 <<< g)) field,
        show (begin clk s).field.outGroup = _ by rw [field]⟩
    · exact ⟨_, group_cleared clk g mv true s hup hmv hg, congrArg (fun d : FieldState => d.outGroup &&& ~~~(1#2 <<< g)) field,
        show (begin clk s).field.inGroup = _ by rw [field]⟩

end Sys2Proof.Machine
end

section
/-! Proofs about the encoder interfaces (16_field_io_feedback_aux.md R343 to R352). -/

namespace Sys2Proof.Machine

/-! ### Interfaces -/

theorem encOf_of {s t : State} (h : t.field = s.field) (e : Nat) : encOf t e = encOf s e := by
  unfold encOf
  rw [h]

theorem encOf_setEnc (s : State) (e : Nat) (f : Encoder → Encoder) (h : e < s.field.encoders.length) : encOf (setEnc s e f) e = f (encOf s e) :=
  nth_upd_same _ _ _ _ h

theorem setEnc_length (s : State) (e : Nat) (f : Encoder → Encoder) : (setEnc s e f).field.encoders.length = s.field.encoders.length :=
  upd_length _ _ _

theorem encError_field (s : State) (e i : Nat) : (encError s e i).field = s.field := by simp [encError_frame]

theorem encErrors_field (l : List Nat) (e : Nat) (g : Nat → Nat) (s : State) : (l.foldl (fun s i => encError s e (g i)) s).field = s.field :=
  foldl_keeps (fun s i => encError s e (g i)) State.field (fun _ _ => encError_field _ _ _) l s

theorem passLevels_field (s : State) (e : Nat) : (passLevels s e).field = s.field := by
  unfold passLevels
  dsimp only
  split <;> rfl

theorem encOf_emit (s : State) (o : Output) (e : Nat) : encOf (emit s o) e = encOf s e := rfl

theorem begin_encOf (clk : Nat) (s : State) (e : Nat) : encOf (begin clk s) e = encOf s e := encOf_of (begin_field clk s) e

theorem begin_eo (clk : Nat) (s : State) (e m : Nat) : eo (begin clk s) e m = eo s e m := begin_ov clk s _ _ _

/-- A move takes the position and leaves the levels, the raw count, the word and the latch. -/
theorem movePos_enc (s : State) (e : Nat) (p : Int) (up : Bool) (t : Nat) (h : e < s.field.encoders.length) :
    (∃ u st lc q ch, encOf (movePos s e p up t) e =
      { encOf s e with p := p, up := u, standstill := st, lastChange := lc, emuQueue := q, changes := ch }) ∧
      (movePos s e p up t).field.encoders.length = s.field.encoders.length := by
  unfold movePos
  dsimp only
  split
  · next same => exact ⟨⟨(encOf s e).up, (encOf s e).standstill, (encOf s e).lastChange, (encOf s e).emuQueue, (encOf s e).changes,
      by rw [same]⟩, rfl⟩
  · refine ⟨?_, ?_⟩
    · rw [encOf_of (encErrors_field _ _ (fun _ => 6) _), encOf_setEnc _ _ _ h]
      exact ⟨_, _, _, _, _, rfl⟩
    · rw [encErrors_field _ _ (fun _ => 6), setEnc_length]

/-! ### ENCODER_EDGE (R343, R344) -/

theorem quadPhase_lt (a b : Bool) : quadPhase a b < 4 := by cases a <;> cases b <;> decide

/-- An edge of A or B counted, or two at once noted as an error. -/
def edgeCounted (s : State) (x : Encoder) (e : Nat) (a b : Bool) (step : Nat) : State :=
  let s2 := setEnc s e (fun x => { x with a := a, b := b })
  if step = 2 then encError (setEnc s2 e (fun x => { x with dirty := true })) e 0
  else
    let r := if step = 1 then x.r + 1 else x.r - 1
    let h := hysteresis (eo s e 2 == 1) x.p r x.up
    setEnc (movePos (setEnc s2 e (fun x => { x with r := r })) e h.1 h.2 (now s2)) e (fun x => { x with up := h.2 })

theorem edgeCounted_enc (s : State) (e : Nat) (a b : Bool) (step : Nat) (h : e < s.field.encoders.length) :
    (encOf (edgeCounted s (encOf s e) e a b step) e).a = a ∧ (encOf (edgeCounted s (encOf s e) e a b step) e).b = b ∧
    (step = 2 → (encOf (edgeCounted s (encOf s e) e a b step) e).r = (encOf s e).r ∧
      (encOf (edgeCounted s (encOf s e) e a b step) e).p = (encOf s e).p ∧ (encOf (edgeCounted s (encOf s e) e a b step) e).dirty = true) ∧
    (step ≠ 2 → (encOf (edgeCounted s (encOf s e) e a b step) e).r = (if step = 1 then (encOf s e).r + 1 else (encOf s e).r - 1) ∧
      (eo s e 2 ≠ 1 → (encOf (edgeCounted s (encOf s e) e a b step) e).p = if step = 1 then (encOf s e).r + 1 else (encOf s e).r - 1)) := by
  unfold edgeCounted
  extract_lets s2 r hy
  have len : e < s2.field.encoders.length := by rw [setEnc_length]; exact h
  have taken : encOf s2 e = { encOf s e with a := a, b := b } := encOf_setEnc _ _ _ h
  by_cases two : step = 2
  · rw [if_pos two, encOf_of (encError_field _ _ _), encOf_setEnc _ _ _ len, taken]
    exact ⟨rfl, rfl, fun _ => ⟨rfl, rfl, rfl⟩, fun n => absurd two n⟩
  · have lenR : e < (setEnc s2 e (fun x => { x with r := r })).field.encoders.length := by rw [setEnc_length]; exact len
    obtain ⟨⟨u, st, lc, q, ch, moved⟩, lenM⟩ := movePos_enc (setEnc s2 e (fun x => { x with r := r })) e hy.1 hy.2 (now s2) lenR
    rw [if_neg two, encOf_setEnc _ _ _ (by rw [lenM]; exact lenR), moved, encOf_setEnc _ _ _ len, taken]
    refine ⟨rfl, rfl, fun y => absurd y two, fun _ => ⟨rfl, fun off => ?_⟩⟩
    show (hysteresis (eo s e 2 == 1) (encOf s e).p r (encOf s e).up).1 = r
    rw [beq_eq_false_iff_ne.mpr off]
    rfl

theorem encoder_edge (clk e : Nat) (s : State) (a b : Bool) (hup : fieldUp s 2 = true) (he : e < s.field.encoders.length) (hk : eo s e 0 = 1)
    (hl : (encOf s e).lineFault = false) (hab : ((encOf s e).a, (encOf s e).b) ≠ (a, b)) :
    ∃ t, exec (.encoderEdge clk e a b) s = .next t ∧ (encOf t e).a = a ∧ (encOf t e).b = b ∧
      (quadPhase a b = (quadPhase (encOf s e).a (encOf s e).b + 1) % 4 →
        (encOf t e).r = (encOf s e).r + 1 ∧ (eo s e 2 ≠ 1 → (encOf t e).p = (encOf s e).r + 1)) ∧
      (quadPhase (encOf s e).a (encOf s e).b = (quadPhase a b + 1) % 4 →
        (encOf t e).r = (encOf s e).r - 1 ∧ (eo s e 2 ≠ 1 → (encOf t e).p = (encOf s e).r - 1)) ∧
      (quadPhase a b = (quadPhase (encOf s e).a (encOf s e).b + 2) % 4 →
        (encOf t e).r = (encOf s e).r ∧ (encOf t e).p = (encOf s e).p ∧ (encOf t e).dirty = true) := by
  have moved : (decide ((encOf s e).a = a) && decide ((encOf s e).b = b)) = false := by
    rw [Bool.and_eq_false_iff, decide_eq_false_iff_not, decide_eq_false_iff_not]
    exact Classical.not_and_iff_not_or_not.mp fun both => hab (by rw [both.1, both.2])
  have run : exec (.encoderEdge clk e a b) s = .next (passLevels (edgeCounted (begin clk s) (encOf (begin clk s) e) e a b
      ((quadPhase a b + 4 - quadPhase (encOf (begin clk s) e).a (encOf (begin clk s) e).b) % 4)) e) :=
    congrArg Host.Outcome.next (if_neg (by
      rw [begin_fieldUp, hup, begin_eo, hk, begin_encOf, hl, moved]
      decide))
  obtain ⟨levelA, levelB, two, one⟩ := edgeCounted_enc (begin clk s) e a b
    ((quadPhase a b + 4 - quadPhase (encOf (begin clk s) e).a (encOf (begin clk s) e).b) % 4) (by rw [begin_field]; exact he)
  refine ⟨_, run, ?_⟩
  rw [encOf_of (passLevels_field _ _)]
  rw [begin_encOf] at levelA levelB two one ⊢
  rw [begin_eo] at one
  have boundNew := quadPhase_lt a b
  have boundOld := quadPhase_lt (encOf s e).a (encOf s e).b
  refine ⟨levelA, levelB, fun hq => ?_, fun hq => ?_, fun hq => two (by omega)⟩
  · have step : (quadPhase a b + 4 - quadPhase (encOf s e).a (encOf s e).b) % 4 = 1 := by omega
    rw [step] at one ⊢
    exact one (by decide)
  · have step : (quadPhase a b + 4 - quadPhase (encOf s e).a (encOf s e).b) % 4 = 3 := by omega
    rw [step] at one ⊢
    exact one (by decide)

/-! ### Index, line faults, standstill and latches of an ABZ interface (R343, R345, R346, R350) -/

theorem encoder_index (clk e : Nat) (s : State) (hup : fieldUp s 2 = true) (he : e < s.field.encoders.length) (hk : eo s e 0 = 1)
    (hl : (encOf s e).lineFault = false) (ha : (encOf s e).a = true) (hb : (encOf s e).b = true) (hz : (encOf s e).z = false) :
    ∃ t, exec (.encoderIndex clk e true) s = .next t ∧ (encOf t e).indexTime = now (begin clk s) ∧ (encOf t e).z = true ∧
      (eo s e 5 = 1 → (encOf t e).p = sext 64 (eo s e 6) ∧ (encOf t e).r = sext 64 (eo s e 6)) ∧
      (eo s e 5 = 0 → (encOf t e).p = (encOf s e).p) := by
  have run : exec (.encoderIndex clk e true) s =
      .next (passLevels (takeIndex (setEnc (begin clk s) e (fun x => { x with z := true })) e) e) := by
    show execEncoderIndex clk e true s = _
    unfold execEncoderIndex
    dsimp only
    rw [begin_fieldUp, hup, begin_eo, hk, begin_encOf, hl, ha, hb, hz]
    rfl
  have len : e < (begin clk s).field.encoders.length := by rw [begin_field]; exact he
  have lenZ : e < (setEnc (begin clk s) e (fun x => { x with z := true })).field.encoders.length := by rw [setEnc_length]; exact len
  have mode (m : Nat) : eo (setEnc (begin clk s) e (fun x => { x with z := true })) e m = eo s e m := begin_eo clk s e m
  refine ⟨_, run, ?_⟩
  rw [encOf_of (passLevels_field _ _), takeIndex, encOf_setEnc _ _ _ lenZ, encOf_setEnc _ _ _ len, begin_encOf, mode, mode]
  refine ⟨rfl, rfl, fun one => ?_, fun zero => ?_⟩
  · rw [one]
    exact ⟨rfl, rfl⟩
  · rw [zero]
    rfl

theorem encError_reg (s : State) (e i : Nat) : (encError s e i).reg = s.reg := by simp [encError_frame]

theorem encError_errMin (s : State) (e i : Nat) : (encError s e i).fresh.errMin = s.fresh.errMin := by
  unfold encError bumpAt
  dsimp only
  split
  · rfl
  · rfl

theorem line_fault (clk e : Nat) (s : State) (hup : fieldUp s 2 = true) (he : e < s.field.encoders.length) (hk : eo s e 0 ≠ 0)
    (hl : (encOf s e).lineFault = false) :
    ∃ t, exec (.lineFault clk e) s = .next t ∧ (encOf t e).lineFault = true ∧ (encOf t e).dirty = true ∧ (encOf t e).p = (encOf s e).p ∧
      t.reg.errWord = errWordNow (begin clk s) (errWord 1 4 2 0 false e) := by
  have run : exec (.lineFault clk e) s = .next (error (encError (setEnc (begin clk s) e (fun x => { x with lineFault := true, dirty := true })) e 1)
      (errWord 1 4 2 0 false e)) :=
    congrArg Host.Outcome.next (if_neg (by
      rw [begin_fieldUp, hup, begin_eo, begin_encOf, hl, decide_eq_false hk]
      decide))
  refine ⟨_, run, ?_⟩
  rw [encOf_of (s := setEnc (begin clk s) e (fun x => { x with lineFault := true, dirty := true })) (by simp [error_frame, encError_frame]),
    encOf_setEnc _ _ _ (by rw [begin_field]; exact he), begin_encOf]
  exact ⟨rfl, rfl, rfl, error_word _ (begin clk s) _ (encError_reg _ _ _) (encError_errMin _ _ _)⟩

theorem line_restored (clk e : Nat) (s : State) (a b z : Bool) (hup : fieldUp s 2 = true) (he : e < s.field.encoders.length)
    (hl : (encOf s e).lineFault = true) :
    ∃ t, exec (.encoderLineRestored clk e a b z) s = .next t ∧
      encOf t e = { encOf s e with lineFault := false, word := none, a := a, b := b, z := z } := by
  have run : exec (.encoderLineRestored clk e a b z) s =
      .next (passLevels (setEnc (begin clk s) e (fun x => { x with lineFault := false, word := none, a := a, b := b, z := z })) e) :=
    congrArg Host.Outcome.next (if_neg (by
      rw [begin_fieldUp, hup, begin_encOf, hl]
      decide))
  refine ⟨_, run, ?_⟩
  rw [encOf_of (passLevels_field _ _), encOf_setEnc _ _ _ (by rw [begin_field]; exact he), begin_encOf]

theorem begin_standNs (clk : Nat) (s : State) (e : Nat) : standNs (begin clk s) e = standNs s e := by
  unfold standNs
  rw [begin_eo]

theorem encoder_stands (clk e : Nat) (s : State) (hup : fieldUp s 2 = true) (he : e < s.field.encoders.length) (hk : eo s e 0 ≠ 0)
    (ht : (encOf s e).lastChange + standNs s e ≤ now (begin clk s)) :
    ∃ t, exec (.encoderStandstill clk e) s = .next t ∧ encOf t e = { encOf s e with standstill := true } := by
  have run : exec (.encoderStandstill clk e) s = .next (setEnc (begin clk s) e (fun x => { x with standstill := true })) :=
    congrArg Host.Outcome.next (if_neg (by
      rw [begin_fieldUp, hup, begin_eo, begin_encOf, begin_standNs, decide_eq_false hk, decide_eq_false (Nat.not_lt_of_le ht)]
      decide))
  refine ⟨_, run, ?_⟩
  rw [encOf_setEnc _ _ _ (by rw [begin_field]; exact he), begin_encOf]

theorem latchTick_enc (s : State) (e : Nat) (v : Option EncLatch) (h : e < s.field.encoders.length) :
    encOf (latchTick s e v) e = { encOf s e with
      latch := v.getD (encOf s e).latch, fresh := v.isSome, dirty := false, latchTick := some s.herd.tick
      age := if v.isSome then 0 else min 255 ((encOf s e).age + 1) } := encOf_setEnc _ _ _ h

theorem tick_latched (clk e : Nat) (s : State) (hup : fieldUp s 2 = true) (he : e < s.field.encoders.length) (hrun : s.herd.running = true)
    (hk : eo s e 0 = 1) (hl : (encOf s e).latchTick ≠ some s.herd.tick) (ht : tickStart (begin clk s) + eo s e 9 ≤ now (begin clk s)) :
    ∃ t, exec (.tickLatch clk e) s = .next t ∧ (encOf t e).latchTick = some s.herd.tick ∧ (encOf t e).dirty = false ∧
      ((encOf s e).dirty = false → (encOf s e).lineFault = false →
        (encOf t e).latch.p = (encOf s e).p ∧ (encOf t e).fresh = true ∧ (encOf t e).age = 0) ∧
      ((encOf s e).dirty = true ∨ (encOf s e).lineFault = true →
        (encOf t e).latch = (encOf s e).latch ∧ (encOf t e).fresh = false ∧ (encOf t e).age = min 255 ((encOf s e).age + 1)) := by
  have run : exec (.tickLatch clk e) s = .next (latchTick (begin clk s) e (if (encOf s e).dirty || (encOf s e).lineFault then none
      else some { p := (encOf s e).p, v := encSpeed (begin clk s) e (tickStart (begin clk s) + eo s e 9), t := tickStart (begin clk s) + eo s e 9 })) := by
    show execTickLatch clk e s = _
    unfold execTickLatch
    dsimp only
    rw [begin_running, begin_tick, begin_fieldUp, begin_eo, begin_eo, begin_encOf, hup, hrun, hk, decide_eq_false hl, decide_eq_false (Nat.not_lt_of_le ht)]
    rfl
  refine ⟨_, run, ?_⟩
  rw [latchTick_enc _ _ _ (by rw [begin_field]; exact he), begin_encOf, begin_tick]
  refine ⟨rfl, rfl, fun hd hf => ?_, fun bad => ?_⟩
  · rw [hd, hf]
    exact ⟨rfl, rfl, rfl⟩
  · have stale : ((encOf s e).dirty || (encOf s e).lineFault) = true := Bool.or_eq_true_iff.mpr bad
    rw [stale]
    exact ⟨rfl, rfl, rfl⟩

/-! ### Transactions of an absolute interface (R347 to R350) -/

theorem transaction_starts (clk e : Nat) (s : State) (hup : fieldUp s 2 = true) (he : e < s.field.encoders.length) (hrun : s.herd.running = true)
    (ht : tickStart (begin clk s) + eo s e 9 ≤ now (begin clk s)) :
    (eo s e 0 = 2 → ∃ t, exec (.encoderTransactionStart clk e) s = .next t ∧ (encOf t e).transaction = some (tickStart (begin clk s) + eo s e 9) ∧
      t.out = [.request e []]) ∧
    (eo s e 0 = 3 → ∃ t, exec (.encoderTransactionStart clk e) s = .next t ∧
      (encOf t e).transaction = some (tickStart (begin clk s) + eo s e 9 + 40 * linkBit s e) ∧ t.out = [.request e (linkRequest s e)]) := by
  have link : linkBit (begin clk s) e = linkBit s e := by
    unfold linkBit
    rw [begin_eo]
  have request : linkRequest (begin clk s) e = linkRequest s e := by
    unfold linkRequest
    rw [begin_eo]
  have sent (ref : Nat) (bytes : Bytes) :
      (encOf (emit (setEnc (begin clk s) e (fun x => { x with transaction := some ref })) (.request e bytes)) e).transaction = some ref ∧
      (emit (setEnc (begin clk s) e (fun x => { x with transaction := some ref })) (.request e bytes)).out = [.request e bytes] := by
    refine ⟨?_, ?_⟩
    · rw [encOf_emit, encOf_setEnc _ _ _ (by rw [begin_field]; exact he)]
    · show (begin clk s).out ++ [_] = _
      rw [begin_out]
      rfl
  refine ⟨fun hk => ?_, fun hk => ?_⟩
  · have run : exec (.encoderTransactionStart clk e) s = .next (emit (setEnc (begin clk s) e
        (fun x => { x with transaction := some (tickStart (begin clk s) + eo s e 9) })) (.request e [])) := by
      show execEncoderTransactionStart clk e s = _
      unfold execEncoderTransactionStart
      dsimp only
      rw [begin_running, begin_fieldUp, begin_eo, begin_eo, hup, hrun, hk, decide_eq_false (Nat.not_lt_of_le ht)]
      rfl
    exact ⟨_, run, sent _ _⟩
  · have run : exec (.encoderTransactionStart clk e) s = .next (emit (setEnc (begin clk s) e
        (fun x => { x with transaction := some (tickStart (begin clk s) + eo s e 9 + 40 * linkBit s e) })) (.request e (linkRequest s e))) := by
      show execEncoderTransactionStart clk e s = _
      unfold execEncoderTransactionStart
      dsimp only
      rw [begin_running, begin_fieldUp, begin_eo, begin_eo, hup, hrun, hk, decide_eq_false (Nat.not_lt_of_le ht), link, request]
      rfl
    exact ⟨_, run, sent _ _⟩

/-- A valid word gives its latch and its position. -/
theorem takeWord_enc (s : State) (e n w ref : Nat) (h : e < s.field.encoders.length) :
    (encOf (takeWord s e n w ref) e).transaction = none ∧ (encOf (takeWord s e n w ref) e).fresh = true ∧
      (encOf (takeWord s e n w ref) e).latch.t = ((ref : Int) + sext 32 (eo s e 0x18)).toNat ∧
      ((encOf s e).word = none → (encOf (takeWord s e n w ref) e).p = (w : Int) ∧ (encOf (takeWord s e n w ref) e).latch.p = (w : Int)) := by
  unfold takeWord
  extract_lets x t r s1 s2
  obtain ⟨⟨u, st, lc, q, ch, moved⟩, len⟩ := movePos_enc { s with freeCount := s.freeCount + 1 } e r.1 (decide (x.p ≤ r.1)) (now s) h
  have len1 : e < s1.field.encoders.length := by rw [len]; exact h
  have len2 : e < s2.field.encoders.length := by rw [setEnc_length]; exact len1
  have first (hn : x.word = none) : r.1 = (w : Int) := by
    dsimp only [r]
    rw [hn]
  have place : (encOf s2 e).p = r.1 := by rw [encOf_setEnc _ _ _ len1, moved]
  rw [latchTick_enc _ _ _ len2, show (encOf s2 e).transaction = none by rw [encOf_setEnc _ _ _ len1]]
  exact ⟨rfl, rfl, rfl, fun hn => ⟨place.trans (first hn), first hn⟩⟩

theorem word_received (clk e ref : Nat) (s : State) (reply : EncoderReply) (hup : fieldUp s 2 = true) (he : e < s.field.encoders.length)
    (hx : (encOf s e).transaction = some ref) (hk : 2 ≤ eo s e 0) :
    let w := if eo s e 0 = 2 then ssiWord s e reply else linkWord s e reply
    (w.2 = [] → (encOf s e).lineFault = false →
      ∃ t, exec (.encoderWordReceived clk e reply) s = .next t ∧ (encOf t e).transaction = none ∧ (encOf t e).fresh = true ∧
        (encOf t e).latch.t = ((ref : Int) + sext 32 (eo s e 0x18)).toNat ∧
        ((encOf s e).word = none → (encOf t e).p = (w.1 : Int) ∧ (encOf t e).latch.p = (w.1 : Int))) ∧
    (w.2 ≠ [] →
      ∃ t, exec (.encoderWordReceived clk e reply) s = .next t ∧ (encOf t e).transaction = none ∧ (encOf t e).fresh = false ∧
        (encOf t e).latch = (encOf s e).latch ∧ (encOf t e).p = (encOf s e).p) := by
  intro w
  have ssi : ssiWord (begin clk s) e reply = ssiWord s e reply := by
    unfold ssiWord
    simp only [begin_eo]
  have link : linkWord (begin clk s) e reply = linkWord s e reply := by
    unfold linkWord
    simp only [begin_eo]
  have run : exec (.encoderWordReceived clk e reply) s = .next (if w.2.isEmpty && !(encOf s e).lineFault
      then takeWord (w.2.foldl (fun s i => encError s e i) (begin clk s)) e (if eo s e 0 = 2 then eo s e 0x12 else 40) w.1 ref
      else latchTick (setEnc (w.2.foldl (fun s i => encError s e i) (begin clk s)) e (fun x => { x with transaction := none })) e none) := by
    show execEncoderWordReceived clk e reply s = _
    unfold execEncoderWordReceived
    dsimp only
    rw [begin_encOf, hx]
    dsimp only
    rw [begin_fieldUp, begin_eo, begin_eo, hup, decide_eq_false (Nat.not_lt_of_le hk), ssi, link]
    rfl
  have field : (w.2.foldl (fun s i => encError s e i) (begin clk s)).field = s.field :=
    (encErrors_field w.2 e id (begin clk s)).trans (begin_field clk s)
  refine ⟨fun good hf => ?_, fun bad => ?_⟩
  · rw [good, hf] at run
    replace run : exec (.encoderWordReceived clk e reply) s =
      .next (takeWord (begin clk s) e (if eo s e 0 = 2 then eo s e 0x12 else 40) w.1 ref) := run
    have eo18 : eo (begin clk s) e 0x18 = eo s e 0x18 := begin_eo clk s e 0x18
    obtain ⟨ended, fresh, time, value⟩ := takeWord_enc (begin clk s) e (if eo s e 0 = 2 then eo s e 0x12 else 40) w.1 ref (by rw [begin_field]; exact he)
    rw [begin_encOf] at value
    exact ⟨_, run, ended, fresh, by rw [time, eo18], value⟩
  · have nonempty : w.2.isEmpty = false := by
      rw [Bool.eq_false_iff, Ne, List.isEmpty_iff]
      exact bad
    rw [nonempty, Bool.false_and, if_neg Bool.false_ne_true] at run
    have len : e < (w.2.foldl (fun s i => encError s e i) (begin clk s)).field.encoders.length := by rw [field]; exact he
    refine ⟨_, run, ?_⟩
    rw [latchTick_enc _ _ _ (by rw [setEnc_length]; exact len), encOf_setEnc _ _ _ len, encOf_of field]
    exact ⟨rfl, rfl, rfl, rfl⟩

theorem encoder_timeout (clk e ref : Nat) (s : State) (hup : fieldUp s 2 = true) (he : e < s.field.encoders.length)
    (hx : (encOf s e).transaction = some ref) (hk : eo s e 0 = 3) (ht : ref + eo s e 0x17 * 1000 ≤ now (begin clk s)) :
    ∃ t, exec (.encoderTimeout clk e) s = .next t ∧ (encOf t e).transaction = none ∧ (encOf t e).fresh = false ∧
      (encOf t e).age = min 255 ((encOf s e).age + 1) := by
  have run : exec (.encoderTimeout clk e) s =
      .next (latchTick (setEnc (encError (begin clk s) e 4) e (fun x => { x with transaction := none })) e none) := by
    show execEncoderTimeout clk e s = _
    unfold execEncoderTimeout
    dsimp only
    rw [begin_encOf, hx]
    dsimp only
    rw [begin_fieldUp, begin_eo, begin_eo, hup, hk, decide_eq_false (Nat.not_lt_of_le ht)]
    rfl
  have field : (encError (begin clk s) e 4).field = s.field := (encError_field _ _ _).trans (begin_field clk s)
  have len : e < (encError (begin clk s) e 4).field.encoders.length := by rw [field]; exact he
  refine ⟨_, run, ?_⟩
  rw [latchTick_enc _ _ _ (by rw [setEnc_length]; exact len), encOf_setEnc _ _ _ len, encOf_of field]
  exact ⟨rfl, rfl, rfl⟩

/-! ### EMULATED_EDGE (R352) -/

theorem sumNat_cons (a : Nat) (l : List Nat) : sumNat (a :: l) = a + sumNat l := by
  show l.foldl (· + ·) (0 + a) = a + l.foldl (· + ·) 0
  rw [Nat.add_comm 0 a]
  exact List.foldl_assoc

/-- The first count of a queue leaves it, in its own direction. -/
theorem emuTake_count (d : Int) (r : List Int) (hd : d ≠ 0) :
    (emuTake (d :: r)).1 ≠ 0 ∧ (0 < (emuTake (d :: r)).1 ↔ 0 < d) ∧ emuCount (emuTake (d :: r)).2 + 1 = emuCount (d :: r) := by
  have count (x : Int) (l : List Int) : emuCount (x :: l) = x.natAbs + emuCount l := by
    unfold emuCount
    rw [List.map_cons, sumNat_cons]
  rw [emuTake]
  by_cases one : d.natAbs ≤ 1
  · rw [if_pos one]
    refine ⟨hd, Iff.rfl, ?_⟩
    rw [count]
    show emuCount r + 1 = _
    omega
  · rw [if_neg one]
    by_cases neg : d < 0
    · rw [if_pos neg, if_pos neg]
      refine ⟨(by decide : (-1 : Int) ≠ 0), ⟨fun h => absurd h (by decide : ¬ (0 : Int) < -1), fun h => by omega⟩, ?_⟩
      show emuCount ((d + 1) :: r) + 1 = _
      rw [count, count]
      omega
    · rw [if_neg neg, if_neg neg]
      refine ⟨(by decide : (1 : Int) ≠ 0), ⟨fun _ => by omega, fun _ => (by decide : (0 : Int) < 1)⟩, ?_⟩
      show emuCount ((d - 1) :: r) + 1 = _
      rw [count, count]
      omega

theorem quadPhase_levels (n : Nat) : quadPhase (quadLevels n).1 (quadLevels n).2 = n % 4 := by
  have bound : n % 4 < 4 := Nat.mod_lt _ (by decide)
  unfold quadLevels
  generalize n % 4 = m at bound ⊢
  interval_cases m <;> rfl

theorem emulated_edge (clk e : Nat) (s : State) (d : Int) (r : List Int) (hup : fieldUp s 2 = true) (he : e < s.field.encoders.length)
    (hm : eo s e 0x0F = 2) (hq : (encOf s e).emuQueue = d :: r) (hd : d ≠ 0)
    (ht : (encOf s e).lastEmu = 0 ∨ (encOf s e).lastEmu + 50 ≤ now (begin clk s)) :
    ∃ t, exec (.emulatedEdge clk e) s = .next t ∧ (encOf t e).lastEmu = now (begin clk s) ∧
      emuCount (encOf t e).emuQueue + 1 = emuCount (encOf s e).emuQueue ∧
      quadPhase (encOf t e).qa (encOf t e).qb = (quadPhase (encOf s e).qa (encOf s e).qb + (if 0 < d then 1 else 3)) % 4 := by
  obtain ⟨nonzero, sign, count⟩ := emuTake_count d r hd
  have power : domainOn s 15 = true := by
    unfold fieldUp at hup
    simp only [Bool.and_eq_true] at hup
    exact hup.1.1
  have spaced : ((encOf s e).lastEmu != 0 && decide (now (begin clk s) < (encOf s e).lastEmu + 50)) = false := by
    rcases ht with h | h
    · rw [h]; rfl
    · rw [decide_eq_false (Nat.not_lt_of_le h), Bool.and_false]
  have gate : (!domainOn (begin clk s) 15 || eo (begin clk s) e 0x0F != 2 || decide ((emuTake (encOf (begin clk s) e).emuQueue).1 = 0) ||
      ((encOf (begin clk s) e).lastEmu != 0 && decide (now (begin clk s) < (encOf (begin clk s) e).lastEmu + 50))) = false := by
    rw [begin_domainOn, power, begin_eo, hm, begin_encOf, spaced, hq, decide_eq_false nonzero]
    rfl
  have run : ∃ z o, exec (.emulatedEdge clk e) s = .next (emit (setEnc (begin clk s) e (fun x => { x with
      emuQueue := (emuTake (encOf (begin clk s) e).emuQueue).2
      qa := (quadLevels (quadPhase (encOf (begin clk s) e).qa (encOf (begin clk s) e).qb + (if 0 < (emuTake (encOf (begin clk s) e).emuQueue).1 then 1 else 3))).1
      qb := (quadLevels (quadPhase (encOf (begin clk s) e).qa (encOf (begin clk s) e).qb + (if 0 < (emuTake (encOf (begin clk s) e).emuQueue).1 then 1 else 3))).2
      qz := z, lastEmu := now (begin clk s) })) o) :=
    ⟨_, _, congrArg Host.Outcome.next (if_neg (by rw [gate]; decide))⟩
  obtain ⟨z, o, run⟩ := run
  refine ⟨_, run, ?_⟩
  rw [encOf_emit, encOf_setEnc _ _ _ (by rw [begin_field]; exact he)]
  dsimp only
  rw [quadPhase_levels, begin_encOf, hq]
  refine ⟨rfl, count, ?_⟩
  simp only [sign]

/-- Settles O54: each event of an encoder interface by its rule. -/
theorem encodersCount : Obligations.EncodersCount := by
  unfold Obligations.EncodersCount
  intro clk e s s1 x hup he
  refine ⟨fun hk hl => ⟨fun a b hab => encoder_edge clk e s a b hup he hk hl hab, fun ha hb hz => encoder_index clk e s hup he hk hl ha hb hz⟩,
    fun hk hl => line_fault clk e s hup he hk hl, fun a b z hl => line_restored clk e s a b z hup he hl,
    fun hk ht => encoder_stands clk e s hup he hk ht, fun hrun hk hl ht => tick_latched clk e s hup he hrun hk hl ht,
    fun hrun ht => transaction_starts clk e s hup he hrun ht, fun ref reply hx hk => word_received clk e ref s reply hup he hx hk,
    fun ref hx hk ht => encoder_timeout clk e ref s hup he hx hk ht, fun d r hm hq hd ht => emulated_edge clk e s d r hup he hm hq hd ht⟩

end Sys2Proof.Machine
end

section
/-! Proofs about the auxiliary axes (16_field_io_feedback_aux.md R354 to R362, 10_motion_profiles.md R236). -/

namespace Sys2Proof.Machine

/-! ### Axes -/

theorem axisOf_of {s t : State} (h : t.field = s.field) (k : Nat) : axisOf t k = axisOf s k := by
  unfold axisOf
  rw [h]

theorem axisOf_setAxis (s : State) (k : Nat) (f : AuxAxis → AuxAxis) (h : k < s.field.axes.length) : axisOf (setAxis s k f) k = f (axisOf s k) :=
  nth_upd_same _ _ _ _ h

theorem setAxis_length (s : State) (k : Nat) (f : AuxAxis → AuxAxis) : (setAxis s k f).field.axes.length = s.field.axes.length :=
  upd_length _ _ _

theorem begin_axisOf (clk : Nat) (s : State) (k : Nat) : axisOf (begin clk s) k = axisOf s k := axisOf_of (begin_field clk s) k

theorem begin_ao (clk : Nat) (s : State) (k m : Nat) : ao (begin clk s) k m = ao s k m := begin_ov clk s _ _ _

theorem begin_aoF (clk : Nat) (s : State) (k m : Nat) : aoF (begin clk s) k m = aoF s k m := by
  unfold aoF
  rw [begin_objs]

theorem begin_accOf (clk : Nat) (s : State) (k : Nat) : accOf (begin clk s) k = accOf s k := by
  unfold accOf
  rw [begin_prof]

theorem begin_drives (clk : Nat) (s : State) : drives (begin clk s) = drives s := by
  unfold drives
  rw [begin_objs, show (begin clk s).pair = s.pair by simp [begin_frame]]

theorem begin_auxEnabled (clk : Nat) (s : State) (k : Nat) : auxEnabled (begin clk s) k = auxEnabled s k := by
  unfold auxEnabled
  rw [begin_ov, begin_ao, begin_ao, begin_mode, begin_safety, begin_fieldUp, begin_drives]

theorem begin_auxDrives (clk : Nat) (s : State) (k : Nat) : auxDrives (begin clk s) k = auxDrives s k := by
  unfold auxDrives
  rw [begin_auxEnabled, begin_ao]

theorem begin_auxLoop (clk : Nat) (s : State) (k : Nat) : auxLoop (begin clk s) k = auxLoop s k := by
  unfold auxLoop
  rw [begin_ov]

/-- New targets leave the direction and the reference of their axis, and the accumulators. -/
theorem setTargets_axis (s : State) (k : Nat) (h : k < s.field.axes.length) :
    (axisOf (setTargets s k) k).dir = (axisOf s k).dir ∧ (axisOf (setTargets s k) k).iRef = (axisOf s k).iRef ∧ (setTargets s k).prof = s.prof := by
  unfold setTargets
  dsimp only
  split
  · rw [axisOf_setAxis _ _ _ h]
    exact ⟨rfl, rfl, rfl⟩
  · exact ⟨rfl, rfl, rfl⟩

/-! ### PHASE_ACCUMULATOR_CARRY (R236, R354) -/

/-- One count: the accumulator steps, and the axis takes the direction. -/
def axisStepped (s : State) (k : Nat) (up : Bool) : State :=
  setAxis (setAcc s k (fun a => { a with count := if up then a.count + 1 else a.count - 1 })) k (fun x => { x with dir := up })

theorem axisStepped_acc (s : State) (k : Nat) (up : Bool) :
    (accOf (axisStepped s k up) k).count = if up then (accOf s k).count + 1 else (accOf s k).count - 1 :=
  congrArg PhaseAcc.count (tget_tset_same _ _ _ _)

theorem accumulator_carries (clk k : Nat) (s : State) (hup : fieldUp s 1 = true) (hk : k < 8) (hlen : s.field.axes.length = 8)
    (hc : accNow (begin clk s) k ≠ (accOf s k).count) :
    let up := decide ((accOf s k).count < accNow (begin clk s) k)
    ∃ t, exec (.phaseAccumulatorCarry clk k) s = .next t ∧
      (accOf t k).count = (if up then (accOf s k).count + 1 else (accOf s k).count - 1) ∧ (axisOf t k).dir = up ∧
      (ao s k 0 = 2 → auxEnabled s k = true →
        t.out = [.stepPulse k up (now (begin clk s) + ao s k 0x1D) (ov s 0x21 (64 + k) 0x10)]) := by
  intro up
  have len : k < (begin clk s).field.axes.length := by rw [begin_field, hlen]; exact hk
  have lenS : k < (axisStepped (begin clk s) k up).field.axes.length := by
    show k < (upd (begin clk s).field.axes k _).length
    rw [upd_length]
    exact len
  have gate : (decide (8 ≤ k) || decide (accNow (begin clk s) k = (accOf (begin clk s) k).count) || !fieldUp (begin clk s) 1) = false := by
    rw [begin_accOf, begin_fieldUp, hup, decide_eq_false (Nat.not_le_of_lt hk), decide_eq_false hc]
    rfl
  have run : exec (.phaseAccumulatorCarry clk k) s = .next (if ao s k 0 = 2
      then (if auxEnabled s k then emit (axisStepped (begin clk s) k up) (.stepPulse k up (now (begin clk s) + ao s k 0x1D) (ov s 0x21 (64 + k) 0x10))
        else axisStepped (begin clk s) k up)
      else setTargets (axisStepped (begin clk s) k up) k) := by
    have pulse : ao (axisStepped (begin clk s) k up) k 0x1D = ao s k 0x1D := begin_ao clk s k 0x1D
    have width : ov (axisStepped (begin clk s) k up) 0x21 (64 + k) 0x10 = ov s 0x21 (64 + k) 0x10 := begin_ov clk s _ _ _
    refine (congrArg Host.Outcome.next (if_neg (by rw [gate]; decide))).trans ?_
    rw [begin_accOf, begin_ao, begin_auxEnabled, ← pulse, ← width]
    rfl
  have count := axisStepped_acc (begin clk s) k up
  rw [begin_accOf] at count
  have dir : (axisOf (axisStepped (begin clk s) k up) k).dir = up := congrArg AuxAxis.dir (axisOf_setAxis _ _ _ len)
  refine ⟨_, run, ?_⟩
  by_cases two : ao s k 0 = 2
  · rw [if_pos two]
    cases enabled : auxEnabled s k with
    | true =>
      refine ⟨count, dir, fun _ _ => ?_⟩
      show (begin clk s).out ++ [_] = _
      rw [begin_out]
      rfl
    | false => exact ⟨count, dir, fun _ h => absurd h (by decide)⟩
  · rw [if_neg two]
    obtain ⟨sameDir, -, prof⟩ := setTargets_axis (axisStepped (begin clk s) k up) k lenS
    refine ⟨?_, sameDir.trans dir, fun h => absurd h two⟩
    rw [accOf, prof]
    exact count

/-! ### CURRENT_SAMPLE (R354, R357, R358) -/

/-- The chopper switches a bridge and leaves the sums of the tick. -/
theorem chopPhase_sums (s : State) (k t : Nat) (hyst : Bool) (v : Int) (p : BridgePhase) :
    (chopPhase s k t hyst v p).sample = p.sample ∧ (chopPhase s k t hyst v p).count = p.count ∧ (chopPhase s k t hyst v p).sum = p.sum := by
  unfold chopPhase
  dsimp only
  split
  · split
    · exact ⟨rfl, rfl, rfl⟩
    · exact ⟨rfl, rfl, rfl⟩
  · split
    · exact ⟨rfl, rfl, rfl⟩
    · exact ⟨rfl, rfl, rfl⟩
  · split
    · exact ⟨rfl, rfl, rfl⟩
    · exact ⟨rfl, rfl, rfl⟩
  · split
    · exact ⟨rfl, rfl, rfl⟩
    · split
      · exact ⟨rfl, rfl, rfl⟩
      · exact ⟨rfl, rfl, rfl⟩

theorem samplePhase_sums (s : State) (k t : Nat) (v : Int) (p : BridgePhase) :
    (samplePhase s k t v p).sample = v ∧ (samplePhase s k t v p).count = p.count + 1 ∧ (samplePhase s k t v p).sum = p.sum + v ∧
      (auxDrives s k = false → (samplePhase s k t v p).bridge = .off) := by
  unfold samplePhase
  dsimp only
  cases drives : auxDrives s k with
  | false => exact ⟨rfl, rfl, rfl, fun _ => rfl⟩
  | true =>
    rw [if_neg (by decide)]
    split
    · exact ⟨rfl, rfl, rfl, fun h => absurd h (by decide)⟩
    · obtain ⟨sample, count, sum⟩ := chopPhase_sums s k t (axisOf s k).hysteresis v (addSample v (driveTime t p))
      exact ⟨sample, count, sum, fun h => absurd h (by decide)⟩

theorem current_sampled (clk k a b : Nat) (s : State) (hup : fieldUp s 1 = true) (hk : k < 8) (hlen : s.field.axes.length = 8) :
    ∃ t, exec (.currentSample clk k a b) s = .next t ∧ (axisOf t k).phaseA.sample = ((a % 4096 : Nat) : Int) - 2048 ∧
      (axisOf t k).phaseB.sample = ((b % 4096 : Nat) : Int) - 2048 ∧ (axisOf t k).phaseA.count = (axisOf s k).phaseA.count + 1 ∧
      (axisOf t k).phaseA.sum = (axisOf s k).phaseA.sum + (((a % 4096 : Nat) : Int) - 2048) ∧
      (axisOf t k).phaseB.count = (axisOf s k).phaseB.count + 1 ∧
      (axisOf t k).phaseB.sum = (axisOf s k).phaseB.sum + (((b % 4096 : Nat) : Int) - 2048) ∧
      (auxDrives s k = false → (axisOf t k).phaseA.bridge = .off ∧ (axisOf t k).phaseB.bridge = .off) := by
  have len : k < (begin clk s).field.axes.length := by rw [begin_field, hlen]; exact hk
  have run : exec (.currentSample clk k a b) s = .next (setAxis (begin clk s) k (fun x => { x with
      phaseA := samplePhase (begin clk s) k (now (begin clk s)) (((a % 4096 : Nat) : Int) - 2048) x.phaseA
      phaseB := samplePhase (begin clk s) k (now (begin clk s)) (((b % 4096 : Nat) : Int) - 2048) x.phaseB })) :=
    congrArg Host.Outcome.next (if_neg (by
      rw [begin_fieldUp, hup, decide_eq_false (Nat.not_le_of_lt hk)]
      decide))
  refine ⟨_, run, ?_⟩
  rw [axisOf_setAxis _ _ _ len, begin_axisOf]
  obtain ⟨sampleA, countA, sumA, offA⟩ := samplePhase_sums (begin clk s) k (now (begin clk s)) (((a % 4096 : Nat) : Int) - 2048) (axisOf s k).phaseA
  obtain ⟨sampleB, countB, sumB, offB⟩ := samplePhase_sums (begin clk s) k (now (begin clk s)) (((b % 4096 : Nat) : Int) - 2048) (axisOf s k).phaseB
  rw [begin_auxDrives] at offA offB
  exact ⟨sampleA, sampleB, countA, sumA, countB, sumB, fun h => ⟨offA h, offB h⟩⟩

/-! ### REFERENCE_INSTANT, CHOPPER_FALLBACK and STALL (R356, R359, R361) -/

theorem reference_taken (clk k c : Nat) (u : F32) (s : State) (hup : fieldUp s 1 = true) (hk : k < 8) (hlen : s.field.axes.length = 8)
    (hloop : auxLoop s k = true)
    (hout : ((axisOf s k).outputs.filter (fun o => decide (o.1 + 40 ≤ tickStart (begin clk s) +
      (now (begin clk s) - tickStart (begin clk s)) / 2000 * 2000))).getLast? = some (c, u)) :
    ∃ t, exec (.referenceInstant clk k) s = .next t ∧ (axisOf t k).iRef = fClamp 0 (aoF s k 8) u := by
  have len : k < (begin clk s).field.axes.length := by rw [begin_field, hlen]; exact hk
  have run : exec (.referenceInstant clk k) s = .next (setTargets (setAxis (begin clk s) k (fun x => { x with
      iRef := fClamp 0 (aoF s k 8) u, outputs := x.outputs.filter (fun o => decide (tickStart (begin clk s) +
        (now (begin clk s) - tickStart (begin clk s)) / 2000 * 2000 < o.1 + 40)) })) k) := by
    show execReferenceInstant clk k s = _
    unfold execReferenceInstant
    dsimp only
    rw [begin_axisOf, begin_fieldUp, begin_auxLoop, begin_aoF, hup, hloop, hout]
    rfl
  refine ⟨_, run, ?_⟩
  rw [(setTargets_axis _ k (by rw [setAxis_length]; exact len)).2.1, axisOf_setAxis _ _ _ len]

theorem chopper_changed (clk k : Nat) (s : State) (h : Bool) (hk : k < 8) (hlen : s.field.axes.length = 8) (hdue : (axisOf s k).chopDue = some h) :
    ∃ t, exec (.chopperFallback clk k) s = .next t ∧ (axisOf t k).hysteresis = h ∧ (axisOf t k).chopDue = none := by
  have len : k < (begin clk s).field.axes.length := by rw [begin_field, hlen]; exact hk
  have run : ∃ v : AuxAxis → F64, exec (.chopperFallback clk k) s = .next (if h then bump (setAxis (begin clk s) k (fun x => { x with
      hysteresis := h, chopDue := none, fallbackRun := 0, slowRun := 0, entryVel := v x })) 0x90 (0x20 + k) 0x23
      else setAxis (begin clk s) k (fun x => { x with hysteresis := h, chopDue := none, fallbackRun := 0, slowRun := 0, entryVel := v x })) := by
    refine ⟨fun x => if h then x.vel else x.entryVel, ?_⟩
    show execChopperFallback clk k s = _
    unfold execChopperFallback
    dsimp only
    rw [begin_axisOf, hdue]
  obtain ⟨v, run⟩ := run
  refine ⟨_, run, ?_⟩
  rw [axisOf_of (s := setAxis (begin clk s) k (fun x => { x with hysteresis := h, chopDue := none, fallbackRun := 0, slowRun := 0, entryVel := v x }))
    (by split <;> simp [bump_frame]), axisOf_setAxis _ _ _ len]
  exact ⟨rfl, rfl⟩

/-- The reaction of an axis fault leaves the field region where saying its word does. -/
theorem axisReactionAs_field (say : State → Word → State) (hsay : ∀ s w, (say s w).field = s.field) (s : State) (ch : Nat) (w : Nat → Word)
    (c : Cause) : (axisReactionAs say s ch w c).field = s.field := by
  unfold axisReactionAs
  dsimp only
  split
  · simp [armHold_frame, hsay]
  · simp [trigger_frame, hsay]

theorem stall_noted (clk k : Nat) (s : State) (hk : k < 8) (hlen : s.field.axes.length = 8) (hdue : (axisOf s k).stallDue = true) :
    ∃ t, exec (.stall clk k) s = .next t ∧ (axisOf t k).stall = true ∧ (axisOf t k).stallDue = false := by
  have len : k < (begin clk s).field.axes.length := by rw [begin_field, hlen]; exact hk
  have noted : ∃ t, exec (.stall clk k) s = .next t ∧
      t.field = (setAxis (begin clk s) k (fun x => { x with stall := true, stallDue := false })).field := by
    refine ⟨_, congrArg Host.Outcome.next (if_neg (by rw [begin_axisOf, hdue]; decide)), ?_⟩
    have said (u : State) (w : Word) : (errorAs u w 0x0023 k .event).field = u.field := by simp [errorAs_frame]
    dsimp only
    split
    · split
      · rw [axisReactionAs_field _ said]
        simp [setLoop_frame, bump_frame]
      · rw [axisReactionAs_field _ said]
        simp [bump_frame]
    · simp [log_frame, bump_frame]
  obtain ⟨t, run, field⟩ := noted
  refine ⟨t, run, ?_⟩
  rw [axisOf_of field, axisOf_setAxis _ _ _ len]
  exact ⟨rfl, rfl⟩

/-! ### AUX_FEEDBACK_POST (R362) -/

/-- The axis takes its feedback from an absolute encoder. -/
def auxAbsolute (s : State) (k : Nat) : Bool := decide (ao s k 3 < 8) && decide (2 ≤ eo s (ao s k 3) 0)

/-- The feedback of an axis at its sample instant, or at the tick latch of an absolute encoder. -/
def auxFeedback (s : State) (k : Nat) : Feedback :=
  let e := ao s k 3
  let x := axisOf s k
  let p : Int := if 8 ≤ e then accNow s k * 2 ^ 32
    else vRne (vMul (vMul (vInt (if auxAbsolute s k then (encOf s e).latch.p else (encOf s e).p)) (dVal (obD s.objs 0x90 (0x20 + k) 4))) (vInt 1 32))
  { sampleTime := if auxAbsolute s k then (encOf s e).latch.t else tickStart s + ao s k 5, torqueOn := auxEnabled s k
    driveFault := x.stall && ao s k 0x1C == 1, position := sext 64 (wrap 64 p), y1 := x.meanA, y2 := x.meanB, y3 := x.loadAngle
    vdc := aoF s k 0x15, age := if 8 ≤ e then 0 else (encOf s e).age }

/-- The post of a feedback to the matching store, 400 ns later. -/
def auxPost (s : State) (k : Nat) (fb : Feedback) : Post :=
  { source := 0x1000 + 64 + k, tag := s.herd.tick, value := .feedback fb, age := fb.age
    at_ := (if auxAbsolute s k then now s else tickStart s + ao s k 5) + 400 }

/-- The feedback taken: noted for the tick, kept as the newest, and posted. -/
def auxFeedbackPosted (s : State) (k : Nat) : State :=
  let s2 := setAxis s k (fun x => { x with fbTick := some s.herd.tick })
  withSched { s2 with ctl := { s2.ctl with feedback := tput s2.ctl.feedback (64 + k) (auxFeedback s k) } }
    (fun c => { c with posts := c.posts ++ [auxPost s k (auxFeedback s k)] })

theorem exec_auxFeedback (clk k : Nat) (s : State) (h : (!(begin clk s).herd.running || !fieldUp (begin clk s) 1 || decide (8 ≤ k) ||
    decide ((axisOf (begin clk s) k).fbTick = some (begin clk s).herd.tick) || decide (now (begin clk s) < tickStart (begin clk s) + ao (begin clk s) k 5) ||
    (auxAbsolute (begin clk s) k && (encOf (begin clk s) (ao (begin clk s) k 3)).latchTick != some (begin clk s).herd.tick)) = false) :
    exec (.auxFeedbackPost clk k) s = .next (auxFeedbackPosted (begin clk s) k) :=
  congrArg Host.Outcome.next (if_neg (fun on => absurd (on.symm.trans h) (by decide)))

theorem begin_auxAbsolute (clk : Nat) (s : State) (k : Nat) : auxAbsolute (begin clk s) k = auxAbsolute s k := by
  unfold auxAbsolute
  rw [begin_ao, begin_eo]

theorem feedback_posted (clk k : Nat) (s : State) (hup : fieldUp s 1 = true) (hk : k < 8) (hlen : s.field.axes.length = 8)
    (hrun : s.herd.running = true) (hfb : (axisOf s k).fbTick ≠ some s.herd.tick) (ht : tickStart (begin clk s) + ao s k 5 ≤ now (begin clk s))
    (habs : auxAbsolute s k = true → (encOf s (ao s k 3)).latchTick = some s.herd.tick) :
    ∃ t fb, exec (.auxFeedbackPost clk k) s = .next t ∧ tget {} t.ctl.feedback (64 + k) = fb ∧ (axisOf t k).fbTick = some s.herd.tick ∧
      (8 ≤ ao s k 3 → fb.position = sext 64 (wrap 64 (accNow (begin clk s) k * 2 ^ 32)) ∧ fb.age = 0) ∧
      (ao s k 3 < 8 → fb.age = (encOf s (ao s k 3)).age) ∧
      fb.sampleTime = (if auxAbsolute s k then (encOf s (ao s k 3)).latch.t else tickStart (begin clk s) + ao s k 5) ∧ fb.torqueOn = auxEnabled s k ∧
      ∃ p ∈ t.sched.posts, p.source = 0x1000 + 64 + k ∧ p.tag = s.herd.tick ∧
        p.at_ = (if auxAbsolute s k then now (begin clk s) else tickStart (begin clk s) + ao s k 5) + 400 := by
  have len : k < (begin clk s).field.axes.length := by rw [begin_field, hlen]; exact hk
  have latched : (auxAbsolute s k && (encOf s (ao s k 3)).latchTick != some s.herd.tick) = false := by
    cases absolute : auxAbsolute s k with
    | false => rfl
    | true =>
      rw [habs absolute]
      exact bne_self_eq_false _
  have run := exec_auxFeedback clk k s (by
    rw [begin_running, begin_tick, begin_fieldUp, begin_axisOf, begin_ao, begin_ao, begin_auxAbsolute, begin_encOf, hrun, hup, latched,
      decide_eq_false (Nat.not_le_of_lt hk), decide_eq_false hfb, decide_eq_false (Nat.not_lt_of_le ht)]
    rfl)
  have tick : (axisOf (auxFeedbackPosted (begin clk s) k) k).fbTick = some (begin clk s).herd.tick :=
    congrArg AuxAxis.fbTick (axisOf_setAxis (begin clk s) k _ len)
  rw [begin_tick] at tick
  refine ⟨_, auxFeedback (begin clk s) k, run, tget_tput_same _ _ _ _, tick, fun out => ?_, fun inside => ?_, ?_, begin_auxEnabled clk s k,
    auxPost (begin clk s) k (auxFeedback (begin clk s) k), List.mem_append_right _ (List.mem_singleton.mpr rfl), rfl, begin_tick clk s, ?_⟩
  · unfold auxFeedback
    dsimp only
    rw [begin_ao, if_pos out, if_pos out]
    exact ⟨rfl, rfl⟩
  · unfold auxFeedback
    dsimp only
    rw [begin_ao, if_neg (Nat.not_le_of_lt inside), begin_encOf]
  · unfold auxFeedback
    dsimp only
    rw [begin_auxAbsolute, begin_ao, begin_ao, begin_encOf]
  · unfold auxPost
    dsimp only
    rw [begin_auxAbsolute, begin_ao]

/-- Settles O55: each event of an auxiliary axis by its rule. -/
theorem auxiliaryAxes : Obligations.AuxiliaryAxes := by
  unfold Obligations.AuxiliaryAxes
  intro clk k s s1 hup hk hlen
  refine ⟨accumulator_carries clk k s hup hk hlen, fun a b => current_sampled clk k a b s hup hk hlen,
    fun c u hloop hout => reference_taken clk k c u s hup hk hlen hloop hout, fun h hdue => chopper_changed clk k s h hk hlen hdue,
    stall_noted clk k s hk hlen, ?_⟩
  intro e absolute hrun hfb ht habs
  exact feedback_posted clk k s hup hk hlen hrun hfb ht habs

end Sys2Proof.Machine
end

section
/-! Proofs about herd time: its sources, its PTP domains, holdover and the pins (04_herd_time.md R89 to R102). -/

namespace Sys2Proof.Machine

/-! ### A command's beginning, seen by herd time -/

theorem nth_map_default {α : Type} (d : α) (f : α → α) (h : f d = d) (l : List α) (i : Nat) : nth d (l.map f) i = f (nth d l i) := by
  unfold nth
  rw [List.getD_eq_getElem?_getD, List.getD_eq_getElem?_getD, List.getElem?_map]
  cases l[i]? with
  | none => exact h.symm
  | some a => rfl

/-- The virtual clocks go on, or stand with herd time. -/
theorem begin_domains (clk : Nat) (s : State) :
    (begin clk s).herd.domains = s.herd.domains ∨ ∃ n, (begin clk s).herd.domains = s.herd.domains.map (virtAfter n) := by
  unfold begin advance
  dsimp only
  split
  · exact .inr ⟨_, rfl⟩
  · exact .inl rfl

/-- Of a domain the virtual clock alone goes on. -/
theorem begin_domainOf (clk : Nat) (s : State) (d : Nat) : ∃ v, domainOf (begin clk s) d = { domainOf s d with virt := v } := by
  unfold domainOf
  rcases begin_domains clk s with same | ⟨n, passed⟩
  · exact ⟨_, by rw [same]⟩
  · rw [passed, nth_map_default _ _ rfl]
    exact ⟨_, rfl⟩

theorem begin_domainCount (clk : Nat) (s : State) : (begin clk s).herd.domains.length = s.herd.domains.length := by
  rcases begin_domains clk s with same | ⟨n, passed⟩
  · rw [same]
  · rw [passed, List.length_map]

/-- What herd time knows of its source stays when a command begins. -/
structure SourceKept (s t : State) : Prop where
  selected : t.herd.selected = s.herd.selected
  lockRun : t.herd.lockRun = s.herd.lockRun
  state : t.herd.state = s.herd.state
  following : t.herd.following = s.herd.following
  lastPps : t.herd.lastPps = s.herd.lastPps
  ppsSecond : t.herd.ppsSecond = s.herd.ppsSecond
  integral : t.herd.integral = s.herd.integral

theorem begin_source (clk : Nat) (s : State) : SourceKept s (begin clk s) := by
  obtain ⟨_, _, _, _, _, _, _, h⟩ := begin_herd clk s
  constructor <;> rw [h]

theorem timeSource_of {s t : State} (ho : t.objs = s.objs) (hp : t.pair = s.pair) : timeSource t = timeSource s := by
  unfold timeSource
  rw [ho, hp, ov_of ho]

theorem begin_pair (clk : Nat) (s : State) : (begin clk s).pair = s.pair := by simp [begin_frame]

theorem begin_timeSource (clk : Nat) (s : State) : timeSource (begin clk s) = timeSource s := timeSource_of (begin_objs clk s) (begin_pair clk s)

theorem begin_domainRole (clk : Nat) (s : State) (d : Nat) : domainRole (begin clk s) d = domainRole s d := begin_ov clk s _ _ _

theorem begin_blockDown (clk : Nat) (s : State) (r b d : Nat) : blockDown (begin clk s) r b d = blockDown s r b d := by
  unfold blockDown
  rw [begin_isolated, begin_gated, begin_domainOn]

theorem begin_ptpDown (clk : Nat) (s : State) : ptpDown (begin clk s) = ptpDown s := by
  unfold ptpDown
  rw [begin_blockDown, begin_isolated]

theorem begin_takesPtp (clk : Nat) (s : State) (m : PtpMessage) : takesPtp (begin clk s) m = takesPtp s m := by
  unfold takesPtp
  rw [begin_running, begin_ptpDown]

theorem forDomain_of {s t : State} (h : t.objs = s.objs) (m : PtpMessage) (d : Nat) : forDomain t m d = forDomain s m d := by
  unfold forDomain domainRole
  simp only [ov_of h]

theorem rxStamp_of {s t : State} (h : t.objs = s.objs) (p c : Nat) : rxStamp t p c = rxStamp s p c := by
  unfold rxStamp
  rw [ov_of h]

theorem asymOf_of {s t : State} (h : t.objs = s.objs) (p : Nat) : asymOf t p = asymOf s p := by
  unfold asymOf
  rw [ov_of h]

/-! ### Domains -/

theorem domainOf_of {s t : State} (h : t.herd.domains = s.herd.domains) (d : Nat) : domainOf t d = domainOf s d := by
  unfold domainOf
  rw [h]

theorem domainOf_setDomain (s : State) (d : Nat) (f : PtpDomain → PtpDomain) (h : d < s.herd.domains.length) :
    domainOf (setDomain s d f) d = f (domainOf s d) := nth_upd_same _ _ _ _ h

theorem removeOffset_domains (s : State) (o : Int) : (removeOffset s o).herd.domains = s.herd.domains := by
  unfold removeOffset
  split <;> rfl

theorem followDomain_domains (s : State) (d : Nat) : (followDomain s d).herd.domains = s.herd.domains := by
  unfold followDomain setRate
  exact removeOffset_domains _ _

theorem holdRate_herd (s : State) : ∃ a, (holdRate s).herd = { s.herd with servoAdj := a } := by
  unfold holdRate
  split
  · exact ⟨_, rfl⟩
  · exact ⟨_, rfl⟩

theorem holdRate_log (s : State) (c : LogClass) (code arg : Nat) (w : Word) :
    (holdRate (log s c code arg w)).herd.domains = s.herd.domains ∧ (holdRate (log s c code arg w)).herd.lastPps = s.herd.lastPps ∧
      (holdRate (log s c code arg w)).herd.state = s.herd.state := by
  obtain ⟨a, h⟩ := holdRate_herd (log s c code arg w)
  rw [h, show (log s c code arg w).herd = s.herd by simp [log_frame]]
  exact ⟨rfl, rfl, rfl⟩

/-- Holdover stops following, and keeps the domains and the last edge of PPS_IN. -/
theorem enterHoldover_herd (s : State) : (enterHoldover s).herd.domains = s.herd.domains ∧ (enterHoldover s).herd.lastPps = s.herd.lastPps ∧
    (enterHoldover s).herd.state = .holdover := by
  unfold enterHoldover
  split
  · rename_i held
    exact ⟨rfl, rfl, held⟩
  · dsimp only
    exact ⟨(holdRate_log _ _ _ _ _).1, (holdRate_log _ _ _ _ _).2.1, (holdRate_log _ _ _ _ _).2.2⟩

theorem reselect_domains (s : State) : (reselect s).herd.domains = s.herd.domains := by
  unfold reselect
  dsimp only
  split
  · rfl
  · split
    · rfl
    · split
      · exact followDomain_domains _ _
      · split
        · exact followDomain_domains _ _
        · exact (enterHoldover_herd s).1

/-- A domain that is LOST (R96). -/
def lostDomain (p : PtpDomain) : PtpDomain := { p with state := .lost, lockRun := 0, lockedSince := none, lastSync := none, lastMeasure := none }

theorem domainOf_loseDomain (s : State) (d : Nat) (h : d < s.herd.domains.length) : domainOf (loseDomain s d) d = lostDomain (domainOf s d) := by
  have bumped : (bump (setDomain s d lostDomain) 0x80 (0x10 + d) 0x0C).herd = (setDomain s d lostDomain).herd := by simp [bump_frame]
  calc domainOf (loseDomain s d) d
      = domainOf (bump (setDomain s d lostDomain) 0x80 (0x10 + d) 0x0C) d := domainOf_of (reselect_domains _) d
    _ = domainOf (setDomain s d lostDomain) d := domainOf_of (congrArg HerdState.domains bumped) d
    _ = lostDomain (domainOf s d) := domainOf_setDomain _ _ _ h

/-! ### What a source does when it is followed -/

theorem setRate_herd (s : State) (p : F64) : (setRate s p).herd = { s.herd with servoAdj := ppbAdj p } := rfl

/-- A slew or a step takes the offset away and leaves the source alone. -/
theorem removeOffset_herd (s : State) (o : Int) : ∃ p r t, (removeOffset s o).herd = { s.herd with stepPending := p, slewRem := r, slewTerm := t } := by
  unfold removeOffset
  split
  · exact ⟨_, _, _, rfl⟩
  · exact ⟨_, _, _, rfl⟩

/-- Herd time that starts to follow a domain takes its integral. -/
theorem followDomain_herd (s : State) (d : Nat) : (followDomain s d).herd.selected = some d ∧ (followDomain s d).herd.state = .acquiring ∧
    (followDomain s d).herd.integral = (domainOf s d).integral := by
  unfold followDomain
  dsimp only
  rw [setRate_herd]
  dsimp only
  obtain ⟨p, r, t, h⟩ := removeOffset_herd (withHerd s (fun h => { h with
    selected := some d, following := true, integral := (domainOf s d).integral, state := .acquiring, lockRun := 0, holdover := none
    lastMeasure := (domainOf s d).lastMeasure, lastOffset := offsetNow s d })) (offsetNow s d)
  rw [h]
  exact ⟨rfl, rfl, rfl⟩

theorem timeSource_setDomain (s : State) (d : Nat) (f : PtpDomain → PtpDomain) : timeSource (setDomain s d f) = timeSource s := timeSource_of rfl rfl

/-! ### Syncs (R95, R99) -/

/-- A domain that takes a Sync: its state, virtual clock, integral, rate, lock run, offset and stamps. -/
def syncedDomain (mode : DomainMode) (virt : Int) (integral : F64) (adj : Int) (run : Nat) (o : Int) (stamp : Nat) (t1 t2 : Int) (at' : Nat)
    (p : PtpDomain) : PtpDomain :=
  { p with state := mode, virt := some virt, integral := integral, virtAdj := adj, lockRun := run, offset := o, lastSync := some stamp
           lastT1 := t1, lastT2 := t2, lastMeasure := some at' }

/-- The first Sync that a LISTENING domain takes is measured there alone. -/
theorem takeSync_listening (m : PtpMessage) (s : State) (d stamp : Nat) (listening : (domainOf s d).state = .listening)
    (unfollowed : timeSource s = 1 → s.herd.selected ≠ some d) : ∃ v i a r, takeSync m s d stamp = setDomain s d (syncedDomain .uncalibrated v i a r
      ((stamp : Int) * 65536 - m.timestamp - ((domainOf s d).meanPath + asymOf s (5 + m.port)) - m.correction) stamp (m.timestamp + m.correction)
      ((stamp : Int) * 65536) (now s)) := by
  have again : ((domainOf s d).virt.isNone || (domainOf s d).state = .listening || (domainOf s d).state = .lost) = true := by simp [listening]
  unfold takeSync
  dsimp only
  simp only [again, if_true]
  rw [if_neg (by simp), if_neg]
  · exact ⟨_, _, _, _, rfl⟩
  · rw [timeSource_setDomain]
    intro followed
    simp only [Bool.and_eq_true, decide_eq_true_eq] at followed
    exact unfollowed followed.1 followed.2

theorem domainSync_other (m : PtpMessage) (s : State) (d : Nat) (h : forDomain s m d = false) : domainSync m s d = s := by
  unfold domainSync
  rw [h]
  rfl

theorem domainMessage_other (m : PtpMessage) (s : State) (d : Nat) (h : forDomain s m d = false) : domainMessage m s d = s := by
  unfold domainMessage
  dsimp only
  rw [h]
  rfl

/-- Of the two domains the one a message is for takes it. -/
theorem foldDomains (f : State → Nat → State) (s t : State) (d : Nat) (h : d < 2) (own : f s d = t) (before : f s (1 - d) = s) (after : f t (1 - d) = t) :
    [0, 1].foldl f s = t := by
  simp only [List.foldl_cons, List.foldl_nil]
  obtain rfl | rfl : d = 0 ∨ d = 1 := by omega
  · rw [own]
    exact after
  · rw [show f s 0 = s from before]
    exact own

theorem domainSync_own (m : PtpMessage) (s : State) (d : Nat) (a : Announce) (own : forDomain s m d = true) (role : domainRole s d = 1)
    (parent : (domainOf s d).parent = some a) (sender : a.sender = m.source) (listening : (domainOf s d).state = .listening) :
    domainSync m s d = takeSync m s d (rxStamp s (5 + m.port) m.capture) := by
  have opened : ∀ t, syncClosed s d t = false := by
    intro t
    unfold syncClosed measuring
    simp [listening]
  unfold domainSync
  dsimp only
  rw [own, role, parent, opened]
  simp [sender]

/-- PTP_SYNC_RX: a Sync of the parent measures a LISTENING domain. -/
theorem listening_measured (clk d : Nat) (s : State) (m : PtpMessage) (a : Announce) (hd : d < 2) (count : s.herd.domains.length = 2)
    (takes : takesPtp s m = true) (sync : m.messageType = 0) (own : forDomain s m d = true) (other : forDomain s m (1 - d) = false)
    (role : domainRole s d = 1) (parent : (domainOf s d).parent = some a) (sender : a.sender = m.source)
    (listening : (domainOf s d).state = .listening) (unfollowed : timeSource s = 1 → s.herd.selected ≠ some d) :
    ∃ t, exec (.ptpSyncRx clk m) s = .next t ∧ (domainOf t d).state = .uncalibrated ∧
      (domainOf t d).lastSync = some (rxStamp s (5 + m.port) m.capture) ∧ (domainOf t d).lastMeasure = some (now (begin clk s)) ∧
      (domainOf t d).offset = (rxStamp s (5 + m.port) m.capture : Int) * 65536 - m.timestamp -
        ((domainOf s d).meanPath + asymOf s (5 + m.port)) - m.correction := by
  obtain ⟨w, begun⟩ := begin_domainOf clk s d
  have ho := begin_objs clk s
  obtain ⟨v, i, adj, r, taken⟩ := takeSync_listening m (begin clk s) d (rxStamp s (5 + m.port) m.capture) (by rw [begun]; exact listening)
    (by rw [begin_timeSource, (begin_source clk s).selected]; exact unfollowed)
  have measured : [0, 1].foldl (domainSync m) (begin clk s) = takeSync m (begin clk s) d (rxStamp s (5 + m.port) m.capture) := by
    refine foldDomains _ _ _ d hd ?_ (domainSync_other _ _ _ (by rw [forDomain_of ho]; exact other)) (domainSync_other _ _ _ ?_)
    · rw [domainSync_own m _ d a (by rw [forDomain_of ho]; exact own) (by rw [begin_domainRole]; exact role) (by rw [begun]; exact parent) sender
        (by rw [begun]; exact listening), rxStamp_of ho]
    · rw [taken, forDomain_of (t := setDomain _ _ _) (s := s) ho]
      exact other
  have run : exec (.ptpSyncRx clk m) s = .next ([0, 1].foldl (domainSync m) (begin clk s)) :=
    congrArg Host.Outcome.next (if_pos (by rw [begin_takesPtp, takes, sync]; rfl))
  refine ⟨_, run, ?_⟩
  rw [measured, taken, domainOf_setDomain _ _ _ (by rw [begin_domainCount, count]; exact hd), begun, asymOf_of ho]
  exact ⟨rfl, rfl, rfl, rfl⟩

/-! ### Messages and Syncs that a GRANDMASTER sends (R94, R98, R101) -/

/-- PTP_MESSAGE_RX: a GRANDMASTER answers a Delay_Req with its port timestamp. -/
theorem delayReq_answered (clk d : Nat) (s : State) (m : PtpMessage) (hd : d < 2) (takes : takesPtp s m = true) (request : m.messageType = 1)
    (own : forDomain s m d = true) (other : forDomain s m (1 - d) = false) (role : domainRole s d = 2) (mech : ov s 0x80 (0x10 + d) 3 = 0) :
    ∃ t, exec (.ptpMessageRx clk m) s = .next t ∧
      t.out = [.ptp d m.port 9 m.sequenceId [(rxStamp s (5 + m.port) m.capture : Int) * 65536 - m.correction, m.source]] := by
  have ho := begin_objs clk s
  have answered : [0, 1].foldl (domainMessage m) (begin clk s) = emit (begin clk s)
      (.ptp d m.port 9 m.sequenceId [(rxStamp s (5 + m.port) m.capture : Int) * 65536 - m.correction, m.source]) := by
    refine foldDomains _ _ _ d hd ?_ (domainMessage_other _ _ _ (by rw [forDomain_of ho]; exact other))
      (domainMessage_other _ _ _ (by rw [forDomain_of (t := emit _ _) (s := s) ho]; exact other))
    unfold domainMessage
    dsimp only
    rw [request, forDomain_of ho, own, begin_domainRole, role, begin_ov, mech, rxStamp_of ho]
    rfl
  have run : exec (.ptpMessageRx clk m) s = .next ([0, 1].foldl (domainMessage m) (begin clk s)) :=
    congrArg Host.Outcome.next (if_pos (by rw [begin_takesPtp, takes]))
  refine ⟨_, run, ?_⟩
  rw [answered]
  show (begin clk s).out ++ _ = _
  rw [begin_out]
  rfl

/-- Taking timestamps changes of herd time the queue alone. -/
theorem pushStamp_herd (s : State) (e : TxStamp) :
    ∃ a b c, (pushStamp s e).herd = { s.herd with txts := a, txtsOvf := b, txtsTotal := c } := by
  unfold pushStamp
  split
  · exact ⟨_, _, _, rfl⟩
  · rw [show ∀ u, (setInt u 4).herd = u.herd from fun u => by simp [setInt_frame]]
    exact ⟨_, _, _, rfl⟩

theorem takeStamps_keeps {β : Type} (g : HerdState → β) (hg : ∀ h a b c e, g { h with txts := a, txtsOvf := b, txtsTotal := c, txtsDue := e } = g h)
    (s : State) : g (takeStamps s).herd = g s.herd := by
  unfold takeStamps
  rw [foldl_keeps pushStamp (fun t => g t.herd) (fun t e => by
    obtain ⟨a, b, c, h⟩ := pushStamp_herd t e
    show g (pushStamp t e).herd = _
    rw [h]
    exact hg t.herd a b c t.herd.txtsDue)]
  exact hg s.herd _ _ _ _

theorem takeStamps_objs (s : State) : (takeStamps s).objs = s.objs := by simp [takeStamps_frame]

theorem takeStamps_now (s : State) : now (takeStamps s) = now s := by
  unfold now
  rw [takeStamps_keeps (·.running) (fun _ _ _ _ _ => rfl), takeStamps_keeps (·.ht) (fun _ _ _ _ _ => rfl),
    show (takeStamps s).aon = s.aon by simp [takeStamps_frame]]

theorem takeStamps_domains (s : State) : (takeStamps s).herd.domains = s.herd.domains := takeStamps_keeps (·.domains) (fun _ _ _ _ _ => rfl) s

theorem takeStamps_txStamp (s : State) (p : Nat) : txStamp (takeStamps s) p = txStamp s p := by
  unfold txStamp egressQ
  rw [takeStamps_keeps herdPos (fun _ _ _ _ _ => rfl), ov_of (takeStamps_objs s)]

/-- A domain whose Sync has been sent. -/
def syncSent (at' : Nat) (p : PtpDomain) : PtpDomain := { p with syncSeq := (p.syncSeq + 1) % 65536, syncSent := some at' }

/-- The two-step Sync, while no timestamp of PTP is queued. -/
theorem sendSync_unqueued (s : State) (d : Nat) (queued : ov s 0x80 0 0x14 ≠ 1) :
    (sendSync s d).herd = (setDomain s d (syncSent (now s))).herd ∧
      (sendSync s d).out = s.out ++ [.ptp d (ov s 0x80 (0x10 + d) 1) 0 (domainOf s d).syncSeq [],
        .ptp d (ov s 0x80 (0x10 + d) 1) 8 (domainOf s d).syncSeq [(txStamp s (5 + ov s 0x80 (0x10 + d) 1) : Int) * 65536]] := by
  unfold sendSync sendEvent
  dsimp only
  rw [if_neg (by exact queued)]
  exact ⟨rfl, List.append_assoc ..⟩

/-- PTP_TRANSMIT_INTERVAL: a Sync whose interval has passed. -/
theorem sync_sent (clk d : Nat) (s : State) (hd : d < 2) (count : s.herd.domains.length = 2) (running : s.herd.running = true)
    (up : ptpDown s = false) (role : domainRole s d = 2) (queued : ov s 0x80 0 0x14 ≠ 1)
    (due : ∀ x, (domainOf s d).syncSent = some x → x + logInterval (sext 16 (ov s 0x80 (0x10 + d) 5)) ≤ now (begin clk s)) :
    ∃ t, exec (.ptpTransmitInterval clk d 0) s = .next t ∧ (domainOf t d).syncSeq = ((domainOf s d).syncSeq + 1) % 65536 ∧
      (domainOf t d).syncSent = some (now (begin clk s)) ∧
      t.out = (takeStamps (begin clk s)).out ++ [.ptp d (ov s 0x80 (0x10 + d) 1) 0 (domainOf s d).syncSeq [],
        .ptp d (ov s 0x80 (0x10 + d) 1) 8 (domainOf s d).syncSeq [(txStamp (begin clk s) (5 + ov s 0x80 (0x10 + d) 1) : Int) * 65536]] := by
  obtain ⟨w, begun⟩ := begin_domainOf clk s d
  have ho : (takeStamps (begin clk s)).objs = s.objs := (takeStamps_objs _).trans (begin_objs clk s)
  have seen : domainOf (takeStamps (begin clk s)) d = { domainOf s d with virt := w } := (domainOf_of (takeStamps_domains _) d).trans begun
  have sends : transmit (takeStamps (begin clk s)) d 0 = sendSync (takeStamps (begin clk s)) d := by
    refine if_pos ?_
    rw [seen, show domainRole (takeStamps (begin clk s)) d = 2 from (ov_of ho _ _ _).trans role, ov_of ho]
    unfold intervalOver
    rw [takeStamps_now]
    cases sent : (domainOf s d).syncSent with
    | none => rfl
    | some x => simpa using due x sent
  have run : exec (.ptpTransmitInterval clk d 0) s = .next (transmit (takeStamps (begin clk s)) d 0) :=
    congrArg Host.Outcome.next (if_pos (by rw [begin_running, running, begin_ptpDown, up, decide_eq_true hd]; rfl))
  refine ⟨_, run, ?_⟩
  obtain ⟨herd, out⟩ := sendSync_unqueued (takeStamps (begin clk s)) d (by rw [ov_of ho]; exact queued)
  rw [sends, out, domainOf_of (congrArg HerdState.domains herd),
    domainOf_setDomain _ _ _ (by rw [takeStamps_domains, begin_domainCount, count]; exact hd), seen, takeStamps_now, takeStamps_txStamp, ov_of ho]
  exact ⟨rfl, rfl, rfl⟩

/-! ### Locks and losses (R93, R96) -/

/-- A domain that has become LOCKED. -/
def lockedDomain (at' : Nat) (p : PtpDomain) : PtpDomain :=
  { p with state := .locked, lockedSince := some at', relocked := p.everLocked, everLocked := true }

/-- The preferred domain at its first lock is followed. -/
theorem reselect_firstLock (s : State) (d : Nat) (source : timeSource s = 1) (role : domainRole s d = 1) (preferred : ov s 0x80 0 7 = d)
    (locked : (domainOf s d).state = .locked) (first : (domainOf s d).relocked = false) : (reselect s).herd.selected = some d := by
  have isLocked : domainLocked s d = true := by
    unfold domainLocked
    rw [role, locked]
    rfl
  have may : mayReplace s d = true := by
    unfold mayReplace
    dsimp only
    rw [isLocked, first]
    rfl
  unfold reselect
  dsimp only
  rw [preferred, source, if_neg (by decide), isLocked, may, if_pos rfl]
  simp only [Bool.not_true, Bool.or_false]
  by_cases kept : (s.herd.selected.any fun x => domainLocked s x && (x == d)) = true
  · rw [if_pos kept]
    cases sel : s.herd.selected with
    | none => rw [sel] at kept; cases kept
    | some x =>
      rw [sel, Option.any_some, Bool.and_eq_true, beq_iff_eq] at kept
      rw [kept.2]
  · rw [if_neg kept]
    exact (followDomain_herd s d).1

/-- SOURCE_LOCKED for a domain: 16 measurements in a row. -/
theorem domain_locked (clk d : Nat) (s : State) (hd : d < 2) (count : s.herd.domains.length = 2) (run16 : (domainOf s d).lockRun = 16)
    (uncal : (domainOf s d).state = .uncalibrated) :
    ∃ t, exec (.sourceLocked clk d) s = .next t ∧ (domainOf t d).state = .locked ∧ (domainOf t d).lockedSince = some (now (begin clk s)) ∧
      (timeSource s = 1 → domainRole s d = 1 → ov s 0x80 0 7 = d → (domainOf s d).everLocked = false → t.herd.selected = some d) := by
  obtain ⟨w, begun⟩ := begin_domainOf clk s d
  have locks : sourceLocked (begin clk s) d = reselect (setDomain (begin clk s) d (lockedDomain (now (begin clk s)))) := by
    unfold sourceLocked
    rw [if_pos hd]
    exact if_pos (by rw [begun, run16, uncal]; rfl)
  have own : domainOf (setDomain (begin clk s) d (lockedDomain (now (begin clk s)))) d =
      lockedDomain (now (begin clk s)) { domainOf s d with virt := w } := by
    rw [domainOf_setDomain _ _ _ (by rw [begin_domainCount, count]; exact hd), begun]
  refine ⟨_, rfl, ?_⟩
  rw [locks, domainOf_of (reselect_domains _), own]
  refine ⟨rfl, rfl, fun source role preferred first => ?_⟩
  refine reselect_firstLock _ d ?_ ((begin_domainRole clk s d).trans role) ((begin_ov clk s _ _ _).trans preferred) (by rw [own]; rfl)
    (by rw [own]; exact first)
  rw [timeSource_setDomain, begin_timeSource]
  exact source

/-- SOURCE_LOCKED for the source that herd time follows. -/
theorem herd_locked (clk : Nat) (s : State) (run16 : s.herd.lockRun = 16) (acquiring : s.herd.state = .acquiring) :
    ∃ t, exec (.sourceLocked clk 2) s = .next t ∧ t.herd.state = .locked := by
  have run : exec (.sourceLocked clk 2) s = .next (withHerd (begin clk s) (fun h => { h with state := .locked })) :=
    congrArg Host.Outcome.next ((if_neg (by decide)).trans
      (if_pos (by rw [(begin_source clk s).lockRun, run16, (begin_source clk s).state, acquiring]; rfl)))
  exact ⟨_, run, rfl⟩

/-- SYNC_TIMEOUT: no Sync for three intervals. -/
theorem sync_timed (clk d x : Nat) (s : State) (hd : d < 2) (count : s.herd.domains.length = 2) (measures : measuring s d = true)
    (last : (domainOf s d).lastSync = some x) (due : x + 3 * logInterval (sext 16 (ov s 0x80 (0x10 + d) 5)) ≤ now (begin clk s)) :
    ∃ t, exec (.syncTimeout clk d) s = .next t ∧ (domainOf t d).state = .lost ∧ (domainOf t d).lastSync = none := by
  obtain ⟨w, begun⟩ := begin_domainOf clk s d
  have still : measuring (begin clk s) d = true := by
    unfold measuring
    rw [begin_domainRole, begun]
    exact measures
  have closed : syncClosed (begin clk s) d (now (begin clk s)) = true := by
    unfold syncClosed
    rw [still, begun, begin_ov]
    dsimp only
    rw [last, Option.any_some, decide_eq_true due]
    rfl
  have run : exec (.syncTimeout clk d) s = .next (loseDomain (begin clk s) d) :=
    congrArg Host.Outcome.next (if_pos (by rw [decide_eq_true hd, closed]; rfl))
  refine ⟨_, run, ?_⟩
  rw [domainOf_loseDomain _ _ (by rw [begin_domainCount, count]; exact hd)]
  exact ⟨rfl, rfl⟩

/-- A domain whose parent is forgotten. -/
def orphaned (p : PtpDomain) : PtpDomain := { p with parent := none, lastAnnounce := none }

/-- ANNOUNCE_RECEIPT_TIMEOUT: no Announce for three intervals. -/
theorem parent_forgotten (clk d x : Nat) (s : State) (hd : d < 2) (count : s.herd.domains.length = 2) (role : domainRole s d = 1)
    (last : (domainOf s d).lastAnnounce = some x) (due : x + 3 * logInterval (domainOf s d).announceInterval ≤ now (begin clk s)) :
    ∃ t, exec (.announceReceiptTimeout clk d) s = .next t ∧ (domainOf t d).parent = none ∧ (domainOf t d).lastAnnounce = none := by
  obtain ⟨w, begun⟩ := begin_domainOf clk s d
  have count' : d < (begin clk s).herd.domains.length := by rw [begin_domainCount, count]; exact hd
  have own : domainOf (setDomain (begin clk s) d orphaned) d = orphaned { domainOf s d with virt := w } := by
    rw [domainOf_setDomain _ _ _ count', begun]
  have run : exec (.announceReceiptTimeout clk d) s = .next (if measuring (begin clk s) d then
      loseDomain (setDomain (begin clk s) d orphaned) d else setDomain (begin clk s) d orphaned) := by
    refine congrArg Host.Outcome.next (if_pos ?_)
    rw [begun, begin_domainRole, role, decide_eq_true hd]
    dsimp only
    rw [last, Option.any_some, decide_eq_true due]
    rfl
  refine ⟨_, run, ?_⟩
  split
  · rw [domainOf_loseDomain _ _ ((upd_length _ _ _).symm ▸ count'), own]
    exact ⟨rfl, rfl⟩
  · rw [own]
    exact ⟨rfl, rfl⟩

/-- REVERT_TIMER: the preferred domain is followed again. -/
theorem preferred_reverted (clk x : Nat) (s : State) (source : timeSource s = 1) (reverts : ov s 0x80 0 8 ≠ 0)
    (locked : domainLocked s (ov s 0x80 0 7) = true) (selected : s.herd.selected = some (1 - ov s 0x80 0 7))
    (since : (domainOf s (ov s 0x80 0 7)).lockedSince = some x) (due : x + ov s 0x80 0 8 * 1000000000 ≤ now (begin clk s)) :
    ∃ t, exec (.revertTimer clk) s = .next t ∧ t.herd.selected = some (ov s 0x80 0 7) ∧ t.herd.state = .acquiring ∧
      t.herd.integral = (domainOf s (ov s 0x80 0 7)).integral := by
  obtain ⟨w, begun⟩ := begin_domainOf clk s (ov s 0x80 0 7)
  have isLocked : domainLocked (begin clk s) (ov s 0x80 0 7) = true := by
    unfold domainLocked
    rw [begin_domainRole, begun]
    exact locked
  have may : mayReplace (begin clk s) (ov s 0x80 0 7) = true := by
    unfold mayReplace
    dsimp only
    rw [isLocked, begun, begin_ov]
    dsimp only
    rw [since, Option.any_some, decide_eq_true due, bne_iff_ne.mpr reverts, Bool.and_self, Bool.or_true, Bool.and_self]
  have run : exec (.revertTimer clk) s = .next (followDomain (begin clk s) (ov s 0x80 0 7)) := by
    show execRevertTimer clk s = _
    unfold execRevertTimer
    dsimp only
    rw [begin_ov, begin_timeSource, source, may, (begin_source clk s).selected, selected]
    exact congrArg Host.Outcome.next (if_pos (by simp))
  obtain ⟨sel, st, int⟩ := followDomain_herd (begin clk s) (ov s 0x80 0 7)
  exact ⟨_, run, sel, st, int.trans (by rw [begun])⟩

/-! ### EXTREF, the pins and the pair port (R91, R102) -/

/-- PPS_IN_EDGE where the source is not EXTREF: the edge is kept. -/
theorem takePps_unmeasured (s : State) (stamp : Nat) (source : timeSource s ≠ 2) :
    takePps s stamp = withHerd s (fun h => { h with lastPps := some stamp, ppsRejectRun := 0 }) := by
  unfold takePps
  dsimp only
  exact if_pos (bne_iff_ne.mpr source)

theorem timeSource_withHerd (s : State) (f : HerdState → HerdState) : timeSource (withHerd s f) = timeSource s := timeSource_of rfl rfl

theorem ppsLost_unfollowed (s : State) (source : timeSource s ≠ 2) : ppsLost s = withHerd s (fun h => { h with lastPps := none }) := by
  unfold ppsLost
  dsimp only
  rw [timeSource_withHerd, decide_eq_false source]
  rfl

theorem ppsEdge_unmeasured (s : State) (q : Nat) (source : timeSource s ≠ 2) :
    (ppsEdge s q).herd = { s.herd with lastPps := some (nearestNs q), ppsRejectRun := 0 } := by
  unfold ppsEdge
  dsimp only
  split
  · rw [ppsLost_unfollowed s source, takePps_unmeasured _ _ (by rw [timeSource_withHerd]; exact source)]
    rfl
  · rw [takePps_unmeasured _ _ source]
    rfl

/-- Before a measurement is judged herd time follows its source. -/
def followingFrom (s : State) (o : Int) : State :=
  if s.herd.following then s else
    removeOffset (withHerd s (fun h => { h with following := true, lockRun := 0, state := .acquiring, holdover := none })) o

theorem followingFrom_herd (s : State) (o : Int) : (followingFrom s o).herd.following = true ∧ (followingFrom s o).herd.lastPps = s.herd.lastPps ∧
    (followingFrom s o).herd.ppsRejectRun = s.herd.ppsRejectRun := by
  unfold followingFrom
  split
  · rename_i follows
    exact ⟨follows, rfl, rfl⟩
  · obtain ⟨p, r, t, h⟩ :=
      removeOffset_herd (withHerd s (fun h => { h with following := true, lockRun := 0, state := .acquiring, holdover := none })) o
    rw [h]
    exact ⟨rfl, rfl, rfl⟩

/-- What a measurement writes beside what followed before it. -/
theorem herdMeasure_herd (s : State) (o : Int) : ∃ a i r l n m, (herdMeasure s o).herd =
    { (followingFrom s o).herd with servoAdj := a, integral := i, lockRun := r, history := l, lockedNs := n, state := m
                                    lastOffset := o, lastMeasure := some (now s) } := by
  unfold herdMeasure
  extract_lets s1 th r locked s2 s3 s4
  have noted : ∃ l n, s3.herd = { s2.herd with history := l, lockedNs := n } := by
    dsimp only [s3]
    split
    · exact ⟨_, _, rfl⟩
    · exact ⟨_, _, rfl⟩
  obtain ⟨l, n, noted⟩ := noted
  have measured : s4.herd = { s2.herd with history := l, lockedNs := n, lastMeasure := some (now s) } :=
    congrArg (fun h : HerdState => { h with lastMeasure := some (now s) }) noted
  have judged : s2.herd = { (followingFrom s o).herd with
    servoAdj := ppbAdj r.2, integral := r.1, lockRun := lockCount s1 th locked s1.herd.lockRun, lastOffset := o } := rfl
  rw [judged] at measured
  split
  · show ∃ a i r l n m, ({ s4.herd with state := .acquiring, lockRun := 0 } : HerdState) = _
    rw [measured]
    exact ⟨_, _, _, _, _, _, rfl⟩
  · rw [measured]
    exact ⟨_, _, _, _, _, _, rfl⟩

theorem herdMeasure_follows (s : State) (o : Int) : (herdMeasure s o).herd.following = true ∧ (herdMeasure s o).herd.lastMeasure = some (now s) ∧
    (herdMeasure s o).herd.lastOffset = o ∧ (herdMeasure s o).herd.lastPps = s.herd.lastPps ∧
    (herdMeasure s o).herd.ppsRejectRun = s.herd.ppsRejectRun := by
  obtain ⟨a, i, r, l, n, m, h⟩ := herdMeasure_herd s o
  obtain ⟨follows, pps, rejects⟩ := followingFrom_herd s o
  rw [h]
  exact ⟨follows, rfl, rfl, pps, rejects⟩

/-- An edge of a source EXTREF that is not LOCKED is a measurement. -/
theorem takePps_measures (s : State) (stamp : Nat) (source : timeSource s = 2) (unlocked : s.herd.state ≠ .locked) :
    ∃ o, takePps s stamp = herdMeasure (withHerd s (fun h => { h with lastPps := some stamp, ppsRejectRun := 0 })) o := by
  unfold takePps
  dsimp only
  rw [source, decide_eq_false unlocked, Bool.false_and, if_neg (by decide), if_neg (by decide)]
  exact ⟨_, rfl⟩

/-- PPS_IN_EDGE where the source is EXTREF, which is not LOCKED: the edge measures herd time. -/
theorem ppsEdge_measures (s : State) (q : Nat) (source : timeSource s = 2) (unlocked : s.herd.state ≠ .locked)
    (opened : ppsClosed s (nearestNs q) = false) : (ppsEdge s q).herd.lastPps = some (nearestNs q) ∧ (ppsEdge s q).herd.ppsRejectRun = 0 ∧
      (ppsEdge s q).herd.lastMeasure = some (now s) ∧ (ppsEdge s q).herd.following = true := by
  have edge : ppsEdge s q = takePps s (nearestNs q) := by
    unfold ppsEdge
    dsimp only
    rw [opened]
    rfl
  obtain ⟨o, measures⟩ := takePps_measures s (nearestNs q) source unlocked
  rw [edge, measures]
  obtain ⟨follows, measured, -, pps, rejects⟩ := herdMeasure_follows (withHerd s (fun h => { h with lastPps := some (nearestNs q), ppsRejectRun := 0 })) o
  exact ⟨pps, rejects, measured, follows⟩

/-- PPS_IN_EDGE with the herd-time unit at work. -/
theorem ppsInEdge_runs (clk q : Nat) (s : State) (running : s.herd.running = true) (up : isolated s 3 5 = false) :
    exec (.ppsInEdge clk q) s = .next (ppsEdge (begin clk s) q) :=
  congrArg Host.Outcome.next (if_pos (by rw [begin_running, running, begin_isolated, up]; rfl))

/-- PPS_TIMEOUT: 1.5 s without an edge. -/
theorem pps_timed (clk x : Nat) (s : State) (last : s.herd.lastPps = some x) (due : x + 1500000000 ≤ now (begin clk s)) :
    ∃ t, exec (.ppsTimeout clk) s = .next t ∧ t.herd.lastPps = none ∧ (timeSource s = 2 → s.herd.following = true → t.herd.state = .holdover) := by
  have closed : ppsClosed (begin clk s) (now (begin clk s)) = true := by
    unfold ppsClosed
    rw [(begin_source clk s).lastPps, last, Option.any_some, decide_eq_true due]
  have run : exec (.ppsTimeout clk) s = .next (ppsLost (begin clk s)) := congrArg Host.Outcome.next (if_pos closed)
  refine ⟨_, run, ?_⟩
  unfold ppsLost loseSource
  dsimp only
  rw [timeSource_withHerd, begin_timeSource]
  obtain ⟨-, pps, held⟩ := enterHoldover_herd (withHerd (begin clk s) (fun h => { h with lastPps := none }))
  split
  · exact ⟨pps, fun _ _ => held⟩
  · rename_i off
    refine ⟨rfl, fun source following => (off ?_).elim⟩
    rw [source, show (withHerd (begin clk s) (fun h => { h with lastPps := none })).herd.following = s.herd.following from (begin_source clk s).following,
      following]
    rfl

/-- PPS_OUT_EDGE: herd time goes on to the edge. -/
theorem pps_given (clk : Nat) (s : State) (running : s.herd.running = true) (up : isolated s 3 5 = false)
    (before : (nextPps (begin clk s)).2 ≤ clocksTo (begin clk s) (nextTick (begin clk s))) :
    ∃ t, exec (.ppsOutEdge clk) s = .next t ∧ t.out = [.pps (now (advance (nextPps (begin clk s)).2 (begin clk s)))] ∧
      t.herd = { (advance (nextPps (begin clk s)).2 (begin clk s)).herd with ppsSecond := some (nextPps (begin clk s)).1.toNat } := by
  have run : exec (.ppsOutEdge clk) s = .next (emit (withHerd (advance (nextPps (begin clk s)).2 (begin clk s))
      (fun h => { h with ppsSecond := some (nextPps (begin clk s)).1.toNat })) (.pps (now (advance (nextPps (begin clk s)).2 (begin clk s))))) :=
    congrArg Host.Outcome.next (if_pos (by rw [begin_running, running, begin_isolated, up, decide_eq_true before]; rfl))
  refine ⟨_, run, ?_, rfl⟩
  have silent : (advance (nextPps (begin clk s)).2 (begin clk s)).out = [] := by
    generalize (nextPps (begin clk s)).2 = n
    have : (advance n (begin clk s)).out = (begin clk s).out := by
      unfold advance
      dsimp only
      split <;> rfl
    rw [this, begin_out]
  show (advance _ _).out ++ _ = _
  rw [silent]
  rfl

/-- A second whose edge was given is not given again. -/
theorem nextPps_given (s : State) (k : Int) (here : k = (herdPos s.herd - sext 16 (ov s 0x80 0 0x11) * 2 ^ 30) / (1000000000 * fracUnit))
    (given : s.herd.ppsSecond = some k.toNat) : (nextPps s).1 = k + 1 := by
  unfold nextPps
  dsimp only
  rw [← here, given, bne_self_eq_false, Bool.and_false, Bool.false_and]
  rfl

/-- AON_STORE: a millisecond has passed. -/
theorem aon_stored (clk : Nat) (s : State) (running : s.herd.running = true)
    (due : ∀ v, s.aon.herd = some v → v.1 + 1000000 ≤ now (begin clk s) ∨ now (begin clk s) < v.1) :
    ∃ t, exec (.aonStore clk) s = .next t ∧ t.aon.herd = some (now (begin clk s), s.herd.integral) ∧ t.aon.timer = 0 ∧
      t.herd = (begin clk s).herd := by
  have run : exec (.aonStore clk) s = .next { begin clk s with
      aon := { (begin clk s).aon with herd := some (now (begin clk s), (begin clk s).herd.integral), timer := 0 } } := by
    refine congrArg Host.Outcome.next (if_pos ?_)
    rw [begin_running, running, show (begin clk s).aon.herd = s.aon.herd by rw [begin_aon]]
    cases stored : s.aon.herd with
    | none => rfl
    | some v =>
      rw [Option.all_some, Bool.true_and, Bool.or_eq_true, decide_eq_true_eq, decide_eq_true_eq]
      exact due v stored
  refine ⟨_, run, ?_, rfl, rfl⟩
  rw [(begin_source clk s).integral]

/-! ### The time exchange of a pair (R91) -/

theorem olisted_tput_above (objs : List (Nat × Nat)) (k v i : Nat) (h : k < i) : olisted (tput objs k v) i = olisted objs i := by
  have skip : ∀ r, olisted ((k, v) :: r) i = olisted r i := fun r => by simp [olisted, h.ne, h.le]
  induction objs with
  | nil => exact skip []
  | cons e r ih =>
    unfold tput
    split
    · rename_i same
      rw [skip]
      simp [olisted, same, h.ne, h.le]
    · split
      · exact skip _
      · simp only [olisted, ih]

theorem olisted_tdel_above (objs : List (Nat × Nat)) (k i : Nat) (h : k < i) : olisted (tdel objs k) i = olisted objs i := by
  induction objs with
  | nil => rfl
  | cons e r ih =>
    unfold tdel at ih ⊢
    rw [List.filter_cons]
    split
    · simp only [olisted, ih]
    · rename_i dropped
      have same : e.1 = k := by simpa using dropped
      rw [ih]
      simp [olisted, same, h.ne, h.le]

theorem olisted_oput_above (objs : List (Nat × Nat)) (k v i : Nat) (h : k < i) : olisted (oput objs k v) i = olisted objs i := by
  unfold oput
  split
  · exact olisted_tdel_above objs k i h
  · exact olisted_tput_above objs k v i h

/-- The latencies of a port do not depend on another object where none of them is listed. -/
theorem ounlisted_latency (objs : List (Nat × Nat)) (m : Nat) (h : m < 3) : ounlisted objs (okey 0x80 0x24 m) = odefault (okey 0x80 0x24 m) := by
  have range : 0x802400 ≤ okey 0x80 0x24 m ∧ okey 0x80 0x24 m < 0x802403 := by unfold okey; omega
  generalize okey 0x80 0x24 m = k at range
  have apart : ∀ a b, a < 0x802400 ∨ 0x802402 < a → b < 0x802400 ∨ 0x802402 < b → ¬(k = a || k = b) = true := by
    intro a b ha hb
    rw [Bool.or_eq_true, decide_eq_true_eq, decide_eq_true_eq]
    omega
  unfold ounlisted
  dsimp only
  rw [if_neg (by omega), if_neg (by omega), if_neg (apart _ _ (by decide) (by decide)), if_neg (apart _ _ (by decide) (by decide)),
    if_neg (apart _ _ (by decide) (by decide)), if_neg]
  rw [Bool.and_eq_true, decide_eq_true_eq]
  omega

theorem setOb_latency (s : State) (v m : Nat) (h : m < 3) : ov (setOb s 0x70 0 0x2F v) 0x80 0x24 m = ov s 0x80 0x24 m := by
  have above : okey 0x70 0 0x2F < okey 0x80 0x24 m := by unfold okey; omega
  have listed := olisted_oput_above s.objs _ v _ above
  have default := ounlisted_latency s.objs m h
  have default' := ounlisted_latency (oput s.objs (okey 0x70 0 0x2F) v) m h
  unfold ov ob oval
  rw [setOb_objs, listed, default, default']

/-- A frame counted at the pair port leaves the port's latencies alone. -/
theorem countFrame_latency (s : State) (m : Nat) (h : m < 3) : ov (countFrame s 4) 0x80 0x24 m = ov s 0x80 0x24 m := setOb_latency s _ m h

/-- The offset that R91 takes from the four times of an exchange. -/
def exchangeOffset (s : State) (send receive reply arrive : Nat) : Int :=
  let t1 := (send : Int) * 65536
  let t2 := (rxStamp s 4 receive : Int) * 65536
  let t3 := (nearestNs ((reply : Int) + egressQ s 4) : Int) * 65536
  let t4 := (arrive : Int) * 65536
  t2 - t1 - ((t2 - t1 + t4 - t3) / 2 + asymOf s 4)

theorem exchangeOffset_of {s t : State} (h : ∀ m, m < 3 → ov t 0x80 0x24 m = ov s 0x80 0x24 m) (a b c d : Nat) :
    exchangeOffset t a b c d = exchangeOffset s a b c d := by
  unfold exchangeOffset rxStamp egressQ asymOf
  rw [show ov t 0x80 (0x20 + 4) 0 = _ from h 0 (by decide), show ov t 0x80 (0x20 + 4) 1 = _ from h 1 (by decide),
    show ov t 0x80 (0x20 + 4) 2 = _ from h 2 (by decide)]

/-- PAIR_TIME_EXCHANGE: an exchange is measured. -/
theorem exchange_measured (clk a b c d : Nat) (s : State) (running : s.herd.running = true) (source : timeSource s = 3) (port : pairDown s = false)
    (up : isolated s 3 5 = false) : ∃ t, exec (.pairTimeExchange clk a b c d) s = .next t ∧ t.herd.lastMeasure = some (now (begin clk s)) ∧
      t.herd.following = true ∧ t.herd.lastOffset = exchangeOffset s a b c d := by
  have run : exec (.pairTimeExchange clk a b c d) s =
      .next (herdMeasure (countFrame (begin clk s) 4) (exchangeOffset (countFrame (begin clk s) 4) a b c d)) :=
    congrArg Host.Outcome.next (if_pos (by
      unfold pairDown at port ⊢
      rw [begin_running, running, begin_timeSource, source, begin_blockDown, port, begin_isolated, up]
      rfl))
  obtain ⟨follows, measured, offset, -, -⟩ :=
    herdMeasure_follows (countFrame (begin clk s) 4) (exchangeOffset (countFrame (begin clk s) 4) a b c d)
  refine ⟨_, run, measured.trans ?_, follows, offset.trans ?_⟩
  · rw [now_eq (s := begin clk s) (by simp [countFrame_frame]) (by simp [countFrame_frame])]
  · rw [exchangeOffset_of fun m h => (countFrame_latency _ m h).trans (begin_ov ..)]

/-- SLEW_END: a slew that has ended. -/
theorem slew_ended (clk : Nat) (s : State) (ended : (begin clk s).herd.slewRem = 0) :
    ∃ t, exec (.slewEnd clk) s = .next t ∧ t.herd = { (begin clk s).herd with slewTerm := 0 } :=
  ⟨_, congrArg Host.Outcome.next (if_pos ended), rfl⟩

/-- Settles O56: each event of herd time is judged at the instant at which its command begins; of a domain only the virtual clock has gone on
by then. -/
theorem herdTimeSources : Obligations.HerdTimeSources := by
  unfold Obligations.HerdTimeSources
  refine ⟨fun clk d s => ?_, fun clk s => ?_⟩
  · intro s1 hd count
    exact ⟨fun m a takes sync own other role parent sender listening unfollowed =>
        listening_measured clk d s m a hd count takes sync own other role parent sender listening unfollowed,
      fun m takes request own other role mech => delayReq_answered clk d s m hd takes request own other role mech,
      fun running up role queued due => sync_sent clk d s hd count running up role queued due,
      fun run16 uncal => domain_locked clk d s hd count run16 uncal,
      fun run16 acquiring => herd_locked clk s run16 acquiring,
      fun x measures last due => sync_timed clk d x s hd count measures last due,
      fun x role last due => parent_forgotten clk d x s hd count role last due⟩
  · intro s1
    refine ⟨fun x source reverts locked selected since due => preferred_reverted clk x s source reverts locked selected since due,
      slew_ended clk s, fun q running up => ⟨fun source => ?_, fun source unlocked opened => ?_⟩,
      fun x last due => pps_timed clk x s last due, ⟨pps_given clk s, fun given => ?_⟩,
      fun a b c d running source port up _ _ => exchange_measured clk a b c d s running source port up, aon_stored clk s⟩
    · exact ⟨_, ppsInEdge_runs clk q s running up, ppsEdge_unmeasured _ q (by rw [begin_timeSource]; exact source)⟩
    · obtain ⟨pps, rejects, measured, follows⟩ := ppsEdge_measures (begin clk s) q (by rw [begin_timeSource]; exact source)
        (by rw [(begin_source clk s).state]; exact unlocked) opened
      exact ⟨_, ppsInEdge_runs clk q s running up, pps, rejects, measured, follows⟩
    · exact nextPps_given s1 _ (by rw [begin_ov]) (by rw [(begin_source clk s).ppsSecond]; exact given)

end Sys2Proof.Machine
end

section
/-! Proofs about resets and supplies (21_module_hardware.md R432 to R434, R443, R460; 02_modes_and_start.md R38). -/

namespace Sys2Proof.Machine

/-! ### The reset of the core die (R38, R457) -/

/-- What every reset of the core die leaves, and what it takes over of the state before it. -/
def BareAfter (s t : State) : Prop :=
  t.mode.mode = .boot ∧ t.mode.accepted = none ∧ t.mode.target = none ∧ (∀ m, m < 8 → (mbx t m).state = .closed) ∧
    imageActive t = false ∧ t.reg.intStatus = 0 ∧ t.herd.running = false ∧ t.sec.hmac = s.sec.hmac ∧ t.sec.customer = s.sec.customer ∧
    t.sec.otp = s.sec.otp ∧ t.nor.image = s.nor.image ∧ t.pending = s.pending

/-- What a reset takes over is the same in two states. -/
structure ResetKept (s t : State) : Prop where
  sec : t.sec = s.sec
  image : t.nor.image = s.nor.image
  pending : t.pending = s.pending

theorem moduleReset_bare (s u : State) (h : ResetKept s u) : BareAfter s (moduleReset u) := by
  obtain ⟨sec, image, pending⟩ := h
  have hmac : (moduleReset u).sec.hmac = u.sec.hmac := rfl
  have customer : (moduleReset u).sec.customer = u.sec.customer := rfl
  have otp : (moduleReset u).sec.otp = u.sec.otp := rfl
  rw [sec] at hmac customer otp
  exact ⟨rfl, rfl, rfl, fun m _ => congrArg Mailbox.state (moduleReset_mbx u m), rfl, rfl, rfl, hmac, customer, otp, image, pending⟩

/-- An attempt cut short mirrors its record before the reset, and nothing else. -/
theorem cutShort_reset (s : State) : ∃ u, cutShort s = moduleReset u ∧ ResetKept s u ∧ u.cham = s.cham ∧ u.aon = s.aon := by
  unfold cutShort attemptFails
  split
  · split
    · exact ⟨_, rfl, ⟨rfl, rfl, rfl⟩, rfl, rfl⟩
    · exact ⟨_, rfl, ⟨rfl, rfl, rfl⟩, rfl, rfl⟩
  · exact ⟨_, rfl, ⟨rfl, rfl, rfl⟩, rfl, rfl⟩

theorem begin_resetKept (clk : Nat) (s : State) : ResetKept s (begin clk s) :=
  ⟨by simp [begin_frame], by rw [show (begin clk s).nor = s.nor by simp [begin_frame]], congrArg Kept.pending (begin_kept clk s)⟩

theorem ResetKept.trans {s t u : State} (h : ResetKept s t) (g : ResetKept t u) : ResetKept s u :=
  ⟨g.sec.trans h.sec, g.image.trans h.image, g.pending.trans h.pending⟩

theorem begin_nor (clk : Nat) (s : State) : (begin clk s).nor = s.nor := by simp [begin_frame]

theorem error_resetKept (s : State) (w : Word) : ResetKept s (error s w) :=
  ⟨by simp [error_frame], by rw [show (error s w).nor = s.nor by simp [error_frame]], congrArg Kept.pending (error_kept s w)⟩

/-- A reset that keeps Chamois and AON. -/
theorem cutShort_bare (s u : State) (h : ResetKept s u) : BareAfter s (cutShort u) ∧ (cutShort u).cham = u.cham ∧ (cutShort u).aon = u.aon := by
  obtain ⟨v, reset, keeps, cham, aon⟩ := cutShort_reset u
  rw [reset]
  exact ⟨moduleReset_bare s v (h.trans keeps), cham, aon⟩

/-- MOD_RESET_N. -/
theorem modReset_bare (clk : Nat) (s : State) (supplied : s.hw.brownOut = false) :
    ∃ t, exec (.modResetN clk) s = .next t ∧ BareAfter s t ∧ t.cham = s.cham ∧ t.aon = (begin clk s).aon := by
  have run : exec (.modResetN clk) s = .next (cutShort (begin clk s)) :=
    congrArg Host.Outcome.next (if_neg (by rw [begin_hw, supplied]; decide))
  obtain ⟨bare, cham, aon⟩ := cutShort_bare s (begin clk s) (begin_resetKept clk s)
  exact ⟨_, run, bare, cham.trans (begin_cham clk s), aon⟩

/-- SUPERVISOR_WATCHDOG_EXPIRY, once PD1 is on. -/
theorem watchdog_bare (clk : Nat) (s : State) (on : domainOn s 1 = true) :
    ∃ t, exec (.supervisorWatchdogExpiry clk) s = .next t ∧ BareAfter s t ∧ t.cham = s.cham ∧ t.aon = (begin clk s).aon := by
  have run : exec (.supervisorWatchdogExpiry clk) s = .next (cutShort (error (begin clk s) (errWord 3 0 0 3 false 0))) :=
    congrArg Host.Outcome.next (if_pos (by rw [begin_domainOn, on]))
  obtain ⟨bare, cham, aon⟩ := cutShort_bare s (error (begin clk s) (errWord 3 0 0 3 false 0)) ((begin_resetKept clk s).trans (error_resetKept _ _))
  refine ⟨_, run, bare, cham.trans ?_, aon.trans ?_⟩
  · rw [show (error (begin clk s) _).cham = (begin clk s).cham by simp [error_frame], begin_cham]
  · simp [error_frame]

/-! ### The supplies (R432, R433, R460) -/

/-- Losing the core's supply is a reset. -/
theorem coreLost_bare (s u : State) (h : ResetKept s u) : BareAfter s (coreLost u) := by
  obtain ⟨-, -, -, boxes, image, ints, running, hmac, customer, otp, nor, pending⟩ := moduleReset_bare s u h
  exact ⟨rfl, rfl, rfl, boxes, image, ints, running, hmac, customer, otp, nor, pending⟩

theorem vinGood_low (mv : Nat) (h : mv < 10800) : vinGood mv = false := by
  unfold vinGood
  rw [decide_eq_false (by omega), Bool.false_and]

theorem vinGood_high (mv : Nat) (h : 13200 < mv) : vinGood mv = false := by
  unfold vinGood
  rw [decide_eq_false (p := mv ≤ 13200) (by omega), Bool.and_false]

theorem vinGood_range (mv : Nat) (low : 10800 ≤ mv) (high : mv ≤ 13200) : vinGood mv = true := by
  unfold vinGood
  rw [decide_eq_true low, decide_eq_true high]
  rfl

/-- BROWN_OUT. -/
theorem brownOut_bare (clk mv : Nat) (s : State) (low : mv < 10200) :
    ∃ t, exec (.brownOut clk mv) s = .next t ∧ BareAfter s t ∧ t.hw.brownOut = true ∧ t.power.on = 0 ∧ t.aon = {} ∧ t.cham = s.cham ∧
      t.hw.vin = mv ∧ t.hw.modPg = false := by
  have run : exec (.brownOut clk mv) s = .next (setVin { coreLost (begin clk s) with
      hw := { (coreLost (begin clk s)).hw with brownOut := true }, power := { (coreLost (begin clk s)).power with on := 0 } } mv) :=
    congrArg Host.Outcome.next (if_neg (by omega))
  have bare := coreLost_bare s (begin clk s) (begin_resetKept clk s)
  refine ⟨_, run, bare, rfl, rfl, rfl, begin_cham clk s, rfl, ?_⟩
  show (vinGood mv && !true) = false
  exact Bool.and_false _

/-- POWER_ON, once the input is back. -/
theorem powerOn_runs (clk mv : Nat) (s : State) (removed : Bool) (high : 10800 ≤ mv) (due : (removed || s.hw.brownOut) = true) :
    exec (.powerOn clk mv removed) s = .next (setVin (withHw (if removed then
      { coreLost (begin clk s) with cham := { digest := (coreLost (begin clk s)).cham.digest }, safety := {} } else coreLost (begin clk s))
      (fun h => { h with brownOut := false, vinHigh := false, supplyOut := [] })) mv) :=
  congrArg Host.Outcome.next (if_neg (by rw [begin_hw, due, decide_eq_false (by omega : ¬mv < 10800)]; decide))

/-- POWER_ON after a brown-out. -/
theorem powerOn_bare (clk mv : Nat) (s : State) (high : 10800 ≤ mv) (lost : s.hw.brownOut = true) :
    ∃ t, exec (.powerOn clk mv false) s = .next t ∧ BareAfter s t ∧ t.hw.brownOut = false ∧ t.aon = {} ∧ t.cham = s.cham ∧ t.hw.vin = mv :=
  ⟨_, powerOn_runs clk mv s false high lost, coreLost_bare s (begin clk s) (begin_resetKept clk s), rfl, rfl, begin_cham clk s, rfl⟩

/-- POWER_ON after the input was removed. -/
theorem powerOn_removed (clk mv : Nat) (s : State) (high : 10800 ≤ mv) :
    ∃ t, exec (.powerOn clk mv true) s = .next t ∧ BareAfter s t ∧ t.hw.brownOut = false ∧ t.aon = {} ∧ t.hw.vin = mv ∧
      t.cham.startLatch = true ∧ t.cham.stoLatch = false ∧ t.cham.digest = s.cham.digest :=
  ⟨_, powerOn_runs clk mv s true high rfl, coreLost_bare s (begin clk s) (begin_resetKept clk s), rfl, rfl, rfl, rfl, rfl,
    show (begin clk s).cham.digest = _ by rw [begin_cham]⟩

theorem error_hw (s : State) (w : Word) : (error s w).hw = s.hw := by simp [error_frame]

theorem faultError_hw (s : State) (w : Word) (c : Cause) : (faultError s w c).hw = s.hw := by simp [faultError_frame]

/-- LOW_INPUT. -/
theorem lowInput_noted (clk mv : Nat) (s : State) (low : 10200 ≤ mv) (high : mv < 10800) (supplied : s.hw.brownOut = false) :
    ∃ t, exec (.lowInput clk mv) s = .next t ∧ t.hw.vin = mv ∧ t.hw.modPg = false ∧ t.reg.errWord = errWordNow (begin clk s) (vinWord 0) := by
  have run : exec (.lowInput clk mv) s = .next (error (setVin (begin clk s) mv) (vinWord 0)) :=
    congrArg Host.Outcome.next (if_neg (by
      rw [begin_hw, supplied, decide_eq_false (by omega : ¬mv < 10200), decide_eq_false (by omega : ¬10800 ≤ mv)]; decide))
  refine ⟨_, run, ?_, ?_, error_word _ (begin clk s) _ rfl rfl⟩
  · rw [error_hw]
    rfl
  · rw [error_hw]
    show (vinGood mv && _) = false
    rw [vinGood_low mv high, Bool.false_and]

/-- HIGH_INPUT. -/
theorem highInput_noted (clk mv : Nat) (s : State) (high : 13600 < mv) (supplied : s.hw.brownOut = false) :
    ∃ t, exec (.highInput clk mv) s = .next t ∧ t.hw.vin = mv ∧ t.hw.vinHigh = true ∧ t.hw.modPg = false := by
  have run : exec (.highInput clk mv) s =
      .next (faultError (withHw (setVin (begin clk s) mv) (fun h => { h with vinHigh := true })) (vinWord 3) .regulator) :=
    congrArg Host.Outcome.next (if_neg (by rw [begin_hw, supplied, decide_eq_false (by omega : ¬mv ≤ 13600)]; decide))
  refine ⟨_, run, ?_⟩
  rw [faultError_hw]
  refine ⟨rfl, rfl, ?_⟩
  show (vinGood mv && _) = false
  rw [vinGood_high mv (by omega), Bool.false_and]

/-- VIN_BACK_IN_RANGE of the input. -/
theorem input_back (clk mv : Nat) (s : State) (low : 10800 ≤ mv) (high : mv ≤ 13200) (supplied : s.hw.brownOut = false) :
    ∃ t, exec (.vinBackInRange clk 0 mv) s = .next t ∧ t.hw.vin = mv ∧ t.hw.vinHigh = false ∧ t.hw.modPg = true := by
  have run : exec (.vinBackInRange clk 0 mv) s = .next (withHw (setVin (begin clk s) mv) (fun h => { h with vinHigh := false })) :=
    congrArg Host.Outcome.next ((if_pos rfl).trans (if_pos (by rw [begin_hw, supplied, vinGood_range mv low high]; rfl)))
  refine ⟨_, run, rfl, rfl, ?_⟩
  show (vinGood mv && !(begin clk s).hw.brownOut) = true
  rw [begin_hw, supplied, vinGood_range mv low high]
  rfl

/-- VIN_BACK_IN_RANGE of a regulator. -/
theorem regulator_back (clk mv n : Nat) (s : State) (h : n ≠ 0) :
    ∃ t, exec (.vinBackInRange clk n mv) s = .next t ∧ n ∉ t.hw.supplyOut ∧ t.hw.vin = s.hw.vin := by
  have run : exec (.vinBackInRange clk n mv) s = .next (withHw (begin clk s) (fun h => { h with supplyOut := h.supplyOut.filter (fun d => d != n) })) :=
    congrArg Host.Outcome.next (if_neg h)
  refine ⟨_, run, ?_, show (begin clk s).hw.vin = _ by rw [begin_hw]⟩
  intro still
  simpa using (List.mem_filter.mp still).2

/-- DIE_TEMPERATURE writes the temperature and both thresholds; its errors leave them. -/
theorem dieTemperature_hw (clk : Nat) (x : Int) (s : State) : ∃ t, exec (.dieTemperature clk x) s = .next t ∧ t.hw.dieTemp = x ∧
    t.hw.thermLow = (if s.hw.thermLow then decide (1050 ≤ x) else decide (1100 < x)) ∧
    t.hw.overTemp = (if s.hw.overTemp then decide (1200 ≤ x) else decide (1250 < x)) := by
  show ∃ t, execDieTemperature clk x s = .next t ∧ _
  unfold execDieTemperature
  extract_lets s1 therm hot s2 s3
  refine ⟨_, rfl, ?_⟩
  have taken : s3.hw = s2.hw := by
    dsimp only [s3]
    split
    · exact error_hw _ _
    · rfl
  have noted : s2.hw.dieTemp = x ∧ s2.hw.thermLow = (if s.hw.thermLow then decide (1050 ≤ x) else decide (1100 < x)) ∧
      s2.hw.overTemp = (if s.hw.overTemp then decide (1200 ≤ x) else decide (1250 < x)) := by
    rw [← begin_hw clk s]
    exact ⟨rfl, rfl, rfl⟩
  rw [← taken] at noted
  split
  · rw [faultError_hw]
    exact noted
  · exact noted

/-- Settles O57: every reset of the core die is `moduleReset` of a state that differs from the one before in what a reset clears. -/
theorem resetsAndSupplies : Obligations.ResetsAndSupplies := by
  unfold Obligations.ResetsAndSupplies
  intro clk mv s s1 bare
  refine ⟨modReset_bare clk s, watchdog_bare clk s, brownOut_bare clk mv s, powerOn_bare clk mv s, powerOn_removed clk mv s, lowInput_noted clk mv s,
    highInput_noted clk mv s, input_back clk mv s, fun n => regulator_back clk mv n s, fun x => dieTemperature_hw clk x s⟩

end Sys2Proof.Machine
end

section
/-! Proofs about the clock sources, their monitors, the PLLs and the reference multiplexer (18_clocks_and_power.md R382 to R398). -/

namespace Sys2Proof.Machine

/-! ### What leaves the clocks alone -/

theorem begin_clocks (clk : Nat) (s : State) : (begin clk s).clocks = s.clocks := by simp [begin_frame]

theorem begin_start (clk : Nat) (s : State) : (begin clk s).start = s.start := by simp [begin_frame]

theorem bump_clocks (s : State) (c i m : Nat) : (bump s c i m).clocks = s.clocks := by simp [bump_frame]

theorem error_clocks (s : State) (w : Word) : (error s w).clocks = s.clocks := by simp [error_frame]

theorem faultError_clocks (s : State) (w : Word) (c : Cause) : (faultError s w c).clocks = s.clocks := by simp [faultError_frame]

/-- A clock event sets its bit and nothing else of the clocks. -/
theorem clkEvent_clocks (s : State) (n : Nat) : (clkEvent s n).clocks = { s.clocks with event := s.clocks.event ||| (1#8 <<< n) } := by
  unfold clkEvent
  dsimp only
  split
  · rfl
  · rw [show ∀ (s : State) n, (setInt s n).clocks = s.clocks from fun s n => by simp [setInt_frame]]
    rfl

/-! ### Error words after a clock event (R452) -/

theorem errWordNow_pair {s t : State} (hp : errPair t = errPair s) (hf : t.fresh.errMin = s.fresh.errMin) (w : Word) :
    errWordNow t w = errWordNow s w := by
  unfold errWordNow
  rw [hf, show t.reg.errWord = s.reg.errWord from congrArg Prod.fst hp]

theorem vectorNow_errMin (s : State) (v : Nat) : (vectorNow s v).fresh.errMin = s.fresh.errMin := by
  unfold vectorNow
  split <;> rfl

theorem sendVector_errMin (s : State) (v : Nat) : (sendVector s v).fresh.errMin = s.fresh.errMin := by
  unfold sendVector
  split
  · rfl
  · split
    · rfl
    · exact vectorNow_errMin s v

theorem setInt_errMin (s : State) (n : Nat) : (setInt s n).fresh.errMin = s.fresh.errMin := by
  unfold setInt
  dsimp only
  split
  · rfl
  · split
    · rfl
    · exact sendVector_errMin _ _

theorem clkEvent_errMin (s : State) (n : Nat) : (clkEvent s n).fresh.errMin = s.fresh.errMin := by
  unfold clkEvent
  dsimp only
  split
  · rfl
  · exact setInt_errMin _ _

theorem clkEvent_err (s : State) (n : Nat) : errPair (clkEvent s n) = errPair s := by
  unfold clkEvent
  dsimp only
  split
  · rfl
  · exact setInt_err _ _

/-! ### The reference multiplexer (R382, R389) -/

/-- CRYSTAL_STABLE in its window of B03. -/
theorem crystal_stable (clk : Nat) (s : State) (b03 : inB03 s = true) (early : s.start.since + 250000 ≤ (begin clk s).clock)
    (late : (begin clk s).clock ≤ s.start.since + 1125000) (rc : s.clocks.reference = .rc) (kept : s.clocks.lost = none)
    (idle : s.clocks.switching = none) (free : s.clocks.next = none) :
    ∃ t, exec (.crystalStable clk) s = .next t ∧ t.clocks.switching = some .crystal ∧ t.clocks.ok.getLsbD 0 = true ∧ t.clocks.reference = .rc := by
  have hc := begin_clocks clk s
  have inStep : inB03 (begin clk s) = true := by
    unfold inB03
    rw [begin_start]
    exact b03
  have run : exec (.crystalStable clk) s = .next (switchTo (withClocks (begin clk s) (fun c => { c with
      ok := c.ok ||| 1, gone := c.gone &&& ~~~1#4, okSince := upd c.okSince 0 (fun _ => (begin clk s).clock) })) .crystal) := by
    refine congrArg Host.Outcome.next (if_neg ?_)
    rw [inStep, hc, rc, kept, begin_start, decide_eq_false (by omega : ¬(begin clk s).clock - s.start.since < 250000),
      decide_eq_false (by omega : ¬1125000 < (begin clk s).clock - s.start.since)]
    decide
  have ahead : ∀ f : BitVec 4 → BitVec 4, ∀ g l, refAhead { s.clocks with ok := f s.clocks.ok, gone := g, okSince := l } = .rc := by
    intro f g l
    unfold refAhead
    rw [free, idle]
    exact rc
  refine ⟨_, run, ?_⟩
  unfold switchTo
  rw [withClocks_clocks, hc, ahead (· ||| 1), if_neg (by decide), withClocks_clocks, withClocks_clocks, hc]
  dsimp only
  rw [idle]
  exact ⟨rfl, getLsbD_set _ 0 (by decide), rc⟩

/-- The clocks after a switch that has ended. -/
theorem switchDone_reference (s : State) (r : ClockRef) (h : s.clocks.switching = some r) :
    (switchDone s).clocks.reference = r ∧ (switchDone s).clocks.next = none := by
  unfold switchDone
  rw [withClocks_clocks, h]
  exact ⟨rfl, rfl⟩

/-- MUX_SWITCH. -/
theorem switch_ended (clk : Nat) (s : State) (r : ClockRef) (h : s.clocks.switching = some r) :
    ∃ t, exec (.muxSwitch clk) s = .next t ∧ t.clocks.reference = r ∧ t.clocks.next = none :=
  ⟨_, rfl, switchDone_reference _ r (by rw [begin_clocks]; exact h)⟩

/-- FORCED_SWITCH. -/
theorem switch_forced (clk : Nat) (s : State) (r : ClockRef) (h : s.clocks.switching = some r) :
    ∃ t, exec (.forcedSwitch clk) s = .next t ∧ t.clocks.reference = r ∧ t.clocks.event.getLsbD 5 = true := by
  have run : exec (.forcedSwitch clk) s = .next (bump (clkEvent (switchDone (begin clk s)) 5) 0xB0 0 2) :=
    congrArg Host.Outcome.next (if_neg (by rw [begin_clocks, h]; exact Bool.false_ne_true))
  refine ⟨_, run, ?_⟩
  rw [bump_clocks, clkEvent_clocks]
  exact ⟨(switchDone_reference _ r (by rw [begin_clocks]; exact h)).1, getLsbD_set _ 5 (by decide)⟩

/-! ### PLLs (R387) -/

/-- PLL_RELOCK. -/
theorem pll_relocked (clk n : Nat) (s : State) (hn : n < 5) (idle : s.clocks.switching = none)
    (soon : inB03 s = true → (begin clk s).clock ≤ nth 0 s.clocks.okSince 0 + 125000) :
    ∃ t, exec (.pllRelock clk n) s = .next t ∧ t.clocks = { s.clocks with
      pllLock := s.clocks.pllLock ||| (1#5 <<< n), pllHoldover := s.clocks.pllHoldover &&& ~~~(1#5 <<< n) } := by
  have inStep : inB03 (begin clk s) = inB03 s := by
    unfold inB03
    rw [begin_start]
  have inTime : (inB03 s && decide (nth 0 s.clocks.okSince 0 + 125000 < (begin clk s).clock)) = false := by
    cases h : inB03 s with
    | false => rfl
    | true => rw [Bool.true_and, decide_eq_false_iff_not, not_lt]; exact soon h
  have run : exec (.pllRelock clk n) s = .next (withClocks (begin clk s) (fun c => { c with
      pllLock := c.pllLock ||| (1#5 <<< n), pllHoldover := c.pllHoldover &&& ~~~(1#5 <<< n) })) :=
    congrArg Host.Outcome.next (if_neg (by
      rw [inStep, begin_clocks, idle, inTime, decide_eq_false (by omega : ¬5 ≤ n)]
      decide))
  refine ⟨_, run, ?_⟩
  rw [withClocks_clocks, begin_clocks]

/-- PLL_UNLOCK. -/
theorem pll_unlocked (clk n : Nat) (s : State) (hn : n < 5) (active : s.clocks.pllHoldover.getLsbD n = false)
    (locked : s.clocks.pllLock.getLsbD n = true) : ∃ t, exec (.pllUnlock clk n) s = .next t ∧ t.clocks.pllLock.getLsbD n = false ∧
      t.clocks.event.getLsbD 4 = true ∧ t.reg.errWord = errWordNow (begin clk s) (clockWord 3 (8 + n)) := by
  have run : exec (.pllUnlock clk n) s = .next (faultError (bump (withClocks (clkEvent (begin clk s) 4)
      (fun c => { c with pllLock := c.pllLock &&& ~~~(1#5 <<< n) })) 0xB0 0 1) (clockWord 3 (8 + n)) .momentary) :=
    congrArg Host.Outcome.next (if_neg (by rw [begin_clocks, active, locked, decide_eq_false (by omega : ¬5 ≤ n)]; decide))
  refine ⟨_, run, ?_⟩
  rw [faultError_clocks, bump_clocks, withClocks_clocks, clkEvent_clocks]
  refine ⟨getLsbD_clear _ n, getLsbD_set _ 4 (by decide), ?_⟩
  refine (congrArg Prod.fst (faultError_err _ _ _)).trans (errWordNow_pair ?_ ?_ _)
  · rw [errPair_reg (bump_reg _ _ _ _)]
    exact clkEvent_err _ 4
  · rw [bump_errMin]
    exact clkEvent_errMin _ 4

/-! ### Sources (R386, R387) -/

/-- A source counts as lost. -/
structure SourceLost (c : ClockState) (n : Nat) : Prop where
  ok : c.ok.getLsbD n = false
  gone : c.gone.getLsbD n = true
  event : c.event.getLsbD n = true

theorem markLoss_lost (s : State) (n : Nat) (hn : n < 4) : SourceLost (markLoss s n).clocks n := by
  unfold markLoss
  rw [bump_clocks, withClocks_clocks, clkEvent_clocks]
  exact ⟨getLsbD_clear _ n, getLsbD_set _ n hn, getLsbD_set _ n (by omega)⟩

theorem switchTo_lost (s : State) (r : ClockRef) (n : Nat) (h : SourceLost s.clocks n) : SourceLost (switchTo s r).clocks n := by
  unfold switchTo
  split
  · exact h
  · rw [withClocks_clocks]
    split
    · exact ⟨h.ok, h.gone, h.event⟩
    · exact ⟨h.ok, h.gone, h.event⟩

theorem errorTrigger_clocks (s : State) (m : Mode) (w : Word) (code arg : Nat) (l : LogClass) (c : Cause) :
    (errorTrigger s m w code arg l c).clocks = s.clocks := by simp [errorTrigger_frame]

/-- What a lost source leads to leaves it lost. -/
theorem loseClock_lost (s : State) (n : Nat) (hn : n < 4) : SourceLost (loseClock s n).clocks n := by
  have marked := markLoss_lost s n hn
  unfold loseClock
  dsimp only
  split
  · rename_i r _
    have switched := switchTo_lost (withClocks (markLoss s n) (fun c => { c with lost := some r, pllHoldover := 0x1F, pllLock := 0 })) .rc n
      ⟨marked.ok, marked.gone, marked.event⟩
    rw [errorTrigger_clocks]
    split
    · rw [show ∀ u : State, (loseSource u).clocks = u.clocks from fun u => by simp [loseSource_frame]]
      exact switched
    · exact switched
  · split
    · rw [faultError_clocks]
      exact marked
    · split
      · rw [error_clocks, show (pcieDown (markLoss s n) false).clocks = (markLoss s n).clocks by simp [pcieDown_frame]]
        exact marked
      · rw [error_clocks]
        exact marked

/-- CLOCK_LOSS. -/
theorem source_lost (clk n : Nat) (s : State) (hn : n < 4) (ok : s.clocks.ok.getLsbD n = true) :
    ∃ t, exec (.clockLoss clk n) s = .next t ∧ t.clocks.ok.getLsbD n = false ∧ t.clocks.gone.getLsbD n = true ∧ t.clocks.event.getLsbD n = true := by
  have run : exec (.clockLoss clk n) s = .next (loseClock (begin clk s) n) :=
    congrArg Host.Outcome.next (if_neg (by rw [begin_clocks, ok, decide_eq_false (by omega : ¬4 ≤ n)]; decide))
  obtain ⟨down, gone, event⟩ := loseClock_lost (begin clk s) n hn
  exact ⟨_, run, down, gone, event⟩

/-- CLOCK_MONITOR_WINDOW: a good window. -/
theorem window_good (clk n c : Nat) (s : State) (hn : n < 4) (good : 200 * ((c : Int) - expectedEdges n).natAbs ≤ expectedEdges n)
    (four : s.clocks.badWindows.length = 4) : ∃ t, exec (.clockMonitorWindow clk n c) s = .next t ∧ nth 0 t.clocks.badWindows n = 0 ∧
      (s.clocks.gone.getLsbD n = false → t.clocks.ok.getLsbD n = true) := by
  have run : exec (.clockMonitorWindow clk n c) s = .next (withClocks (begin clk s) (fun c => { c with
      badWindows := upd c.badWindows n (fun _ => 0), ok := if c.gone.getLsbD n then c.ok else c.ok ||| (1#4 <<< n) })) :=
    congrArg Host.Outcome.next ((if_neg (by omega)).trans (if_neg (by rw [decide_eq_false (not_lt.mpr good)]; decide)))
  refine ⟨_, run, ?_⟩
  rw [withClocks_clocks, begin_clocks]
  refine ⟨nth_upd_same _ _ _ _ (by omega), fun here => ?_⟩
  dsimp only
  rw [here]
  exact getLsbD_set _ n hn

/-- CLOCK_MONITOR_WINDOW: the fourth bad window in a row. -/
theorem window_fourth (clk n c : Nat) (s : State) (hn : n < 4) (bad : expectedEdges n < 200 * ((c : Int) - expectedEdges n).natAbs)
    (three : nth 0 s.clocks.badWindows n = 3) (ok : s.clocks.ok.getLsbD n = true) :
    ∃ t, exec (.clockMonitorWindow clk n c) s = .next t ∧ t.clocks.ok.getLsbD n = false ∧ t.clocks.gone.getLsbD n = true := by
  have run : ∃ u, exec (.clockMonitorWindow clk n c) s = .next (loseClock u n) := by
    show ∃ u, execClockMonitorWindow clk n c s = _
    unfold execClockMonitorWindow
    dsimp only
    rw [if_neg (by omega), if_pos (decide_eq_true bad), begin_clocks, three, ok]
    exact ⟨_, rfl⟩
  obtain ⟨u, run⟩ := run
  obtain ⟨down, gone, -⟩ := loseClock_lost u n hn
  exact ⟨_, run, down, gone⟩

/-- CLOCK_SOURCE_RECOVERED. -/
theorem source_recovered (clk n : Nat) (s : State) (hn : n < 4) (gone : s.clocks.gone.getLsbD n = true)
    (due : nth 0 s.clocks.badSince n + clkSecond ≤ (begin clk s).clock) :
    ∃ t, exec (.clockSourceRecovered clk n) s = .next t ∧ t.clocks.ok.getLsbD n = true ∧ t.clocks.gone.getLsbD n = false := by
  have run : exec (.clockSourceRecovered clk n) s = .next (withClocks (begin clk s) (fun c => { c with
      ok := c.ok ||| (1#4 <<< n), gone := c.gone &&& ~~~(1#4 <<< n), okSince := upd c.okSince n (fun _ => (begin clk s).clock) })) :=
    congrArg Host.Outcome.next (if_neg (by
      rw [begin_clocks, gone, decide_eq_false (by omega : ¬4 ≤ n), decide_eq_false (not_lt.mpr due)]; decide))
  refine ⟨_, run, ?_⟩
  rw [withClocks_clocks]
  exact ⟨getLsbD_set _ n hn, getLsbD_clear _ n⟩

/-! ### Measurements (R383, R398) -/

/-- RC_TRIM while the reference is good. -/
theorem trim_taken (clk : Nat) (x : Int) (s : State) (notRc : s.clocks.reference ≠ .rc)
    (good : s.clocks.ok.getLsbD (refCode s.clocks.reference) = true) :
    ∃ t, exec (.rcTrim clk x) s = .next t ∧ t.clocks = { s.clocks with rcTrim := x } := by
  have run : exec (.rcTrim clk x) s = .next (withClocks (begin clk s) (fun c => { c with rcTrim := x })) :=
    congrArg Host.Outcome.next (if_neg (by rw [begin_clocks, good, decide_eq_false notRc]; decide))
  exact ⟨_, run, by rw [withClocks_clocks, begin_clocks]⟩

theorem nth_range_map (f : Nat → Nat) (n i : Nat) (h : i < n) : nth 0 ((List.range n).map f) i = f i := by
  unfold nth
  rw [List.getD_eq_getElem _ _ (by simpa using h), List.getElem_map, List.getElem_range]

/-- Settles O58: each clock event is judged by its own guard, and no reaction to it changes the clocks again. -/
theorem clocksWatched : Obligations.ClocksWatched := by
  unfold Obligations.ClocksWatched
  intro clk s s1
  refine ⟨crystal_stable clk s, fun r h => ⟨switch_ended clk s r h, switch_forced clk s r h⟩,
    fun n hn => ⟨pll_relocked clk n s hn, pll_unlocked clk n s hn⟩,
    fun n hn => ⟨source_lost clk n s hn, fun c good four => window_good clk n c s hn good four,
      fun c bad three ok => window_fourth clk n c s hn bad three ok, source_recovered clk n s hn⟩,
    fun x => trim_taken clk x s, fun l => ⟨_, rfl, ?_, fun i hi => nth_range_map (fun i => nth 0 l i % 2 ^ 32) 10 i hi⟩⟩
  rw [withClocks_clocks, List.length_map, List.length_range]

end Sys2Proof.Machine
end

section
/-! Proofs about power domains and start attempts (18_clocks_and_power.md R394, R395; 02_modes_and_start.md R45 to R51). -/

namespace Sys2Proof.Machine

/-! ### Power domains (R394, R395) -/

theorem begin_power (clk : Nat) (s : State) : (begin clk s).power = s.power := by simp [begin_frame]

theorem domainLoses_power (s : State) (d : Nat) : (domainLoses s d).power = s.power := by simp [domainLoses_frame]

theorem domainUp_power (s : State) (d : Nat) : (domainUp s d).power = { s.power with on := s.power.on ||| (1#16 <<< d) } := by
  unfold domainUp
  rw [show ∀ (u : State) a b c e, (bumpAt u a b c e).power = u.power from fun u a b c e => by simp [bumpAt_frame]]
  rfl

/-- DOMAIN_OFF: the head of the sequence. -/
theorem domain_off (clk d : Nat) (s : State) (rest : List Nat) (head : s.power.toOff = d :: rest) :
    ∃ t, exec (.domainOff clk d) s = .next t ∧ t.power.on = s.power.on &&& ~~~(1#16 <<< d) ∧ t.power.toOff = rest := by
  have run : exec (.domainOff clk d) s = .next (withPower (domainLoses (withPower (begin clk s)
      (fun p => { p with on := p.on &&& ~~~(1#16 <<< d), toOff := p.toOff.drop 1 })) d) (fun p => { p with switching := nextSwitching p })) :=
    congrArg Host.Outcome.next (if_neg (by rw [begin_power, head, List.head?_cons, bne_self_eq_false]; exact Bool.false_ne_true))
  refine ⟨_, run, ?_⟩
  rw [withPower_power, domainLoses_power, withPower_power, begin_power, head]
  exact ⟨rfl, rfl⟩

/-- A domain of the group that ramps is up. -/
def ramped (s : State) (d : Nat) (rest : List Nat) : State :=
  withPower (withPower (domainUp { s with hw := { s.hw with supplyOut := s.hw.supplyOut.filter (fun x => x != d) } } d)
    (fun p => { p with toOn := if rest.isEmpty then p.toOn.drop 1 else rest :: p.toOn.drop 1 })) (fun p => { p with switching := nextSwitching p })

theorem ramped_hw (s : State) (d : Nat) (rest : List Nat) :
    (ramped s d rest).hw = { s.hw with supplyOut := s.hw.supplyOut.filter (fun x => x != d) } := by
  unfold ramped
  simp [withPower_frame, domainUp_frame]

theorem ramped_last (s : State) (d : Nat) : (ramped s d []).power.on = s.power.on ||| (1#16 <<< d) ∧ (ramped s d []).power.toOn = s.power.toOn.drop 1 := by
  unfold ramped
  rw [withPower_power, withPower_power, domainUp_power]
  exact ⟨rfl, rfl⟩

/-- DOMAIN_POWER_GOOD: the only domain of the group that ramps. -/
theorem domain_on (clk d : Nat) (s : State) (rest : List (List Nat)) (quiet : s.power.toOff = []) (head : s.power.toOn = [d] :: rest) :
    ∃ t, exec (.domainPowerGood clk d) s = .next t ∧ t.power.on = s.power.on ||| (1#16 <<< d) ∧ t.power.toOn = rest ∧ d ∉ t.hw.supplyOut := by
  have group : (begin clk s).power.toOn.headD [] = [d] := by rw [begin_power, head]; rfl
  have run : exec (.domainPowerGood clk d) s =
      .next (ramped (begin clk s) d (((begin clk s).power.toOn.headD []).filter (fun x => x != d))) :=
    congrArg Host.Outcome.next (if_neg (by rw [group, begin_power, quiet]; simp))
  rw [group, show [d].filter (fun x => x != d) = [] by simp] at run
  obtain ⟨on, toOn⟩ := ramped_last (begin clk s) d
  refine ⟨_, run, by rw [on, begin_power], by rw [toOn, begin_power, head]; rfl, fun still => ?_⟩
  rw [ramped_hw] at still
  simpa using (List.mem_filter.mp still).2

/-- DRAIN_TIMEOUT: the drain of the domain that is switched off is counted. -/
theorem drain_counted (clk d : Nat) (s : State) (rest : List Nat) (head : s.power.toOff = d :: rest) :
    ∃ t, exec (.drainTimeout clk d) s = .next t ∧ t.power = s.power ∧
      t.objs = oput s.objs (okey 0xB0 1 3) (countUp 1 (ov s 0xB0 1 3) s.freeCount) := by
  have run : exec (.drainTimeout clk d) s = .next (bump (begin clk s) 0xB0 1 3) :=
    congrArg Host.Outcome.next (if_pos (by rw [begin_power, head]; rfl))
  refine ⟨_, run, ?_, ?_⟩
  · rw [← begin_power clk s]
    simp [bump_frame]
  · rw [bump_objs, begin_ov, begin_objs, show (begin clk s).freeCount = s.freeCount by simp [begin_frame]]

/-- A regulator counts among the supplies that are out. -/
def supplyNoted (s : State) (d : Nat) : State :=
  { s with hw := { s.hw with supplyOut := if s.hw.supplyOut.contains d then s.hw.supplyOut else s.hw.supplyOut ++ [d] } }

theorem supplyNoted_out (s : State) (d : Nat) : d ∈ (supplyNoted s d).hw.supplyOut := by
  unfold supplyNoted
  dsimp only
  split
  · rename_i listed
    simpa using listed
  · simp

/-- A regulator that does not come up is noted among the supplies that are out, with its error word. -/
theorem powerGoodTimeout_noted (s : State) (d : Nat) : d ∈ (powerGoodTimeout s d).hw.supplyOut ∧
    (powerGoodTimeout s d).reg.errWord = errWordNow s (errWord 3 5 2 3 false (0x100 + d)) := by
  have noted : powerGoodTimeout s d = faultError (supplyNoted s d) (errWord 3 5 2 3 false (0x100 + d)) .regulator := rfl
  rw [noted, faultError_hw]
  exact ⟨supplyNoted_out s d, (faultError_word (supplyNoted s d) s _ _ rfl rfl).1⟩

/-- DOMAIN_POWER_GOOD_TIMEOUT outside a start attempt. -/
theorem domain_failed (clk d : Nat) (s : State) (low : 1 ≤ d) (high : d ≤ 15) (idle : s.start.running = false) :
    ∃ t, exec (.domainPowerGoodTimeout clk d) s = .next t ∧ d ∈ t.hw.supplyOut ∧
      t.reg.errWord = errWordNow (begin clk s) (errWord 3 5 2 3 false (0x100 + d)) := by
  have run : exec (.domainPowerGoodTimeout clk d) s = .next (powerGoodTimeout (begin clk s) d) :=
    congrArg Host.Outcome.next ((if_neg (by rw [begin_start, idle]; exact Bool.false_ne_true)).trans
      (if_pos (by rw [decide_eq_true low, decide_eq_true high]; rfl)))
  obtain ⟨out, word⟩ := powerGoodTimeout_noted (begin clk s) d
  exact ⟨_, run, out, word⟩

/-! ### Start attempts (R45, R48 to R51) -/

/-- The marks of a step write the record alone. -/
theorem editRecord_start (s : State) (f : StartRecord → StartRecord) : (editRecord s f).start = { s.start with record := f s.start.record } := rfl

theorem mirrorRecord_start (s : State) : (mirrorRecord s).start = s.start := rfl

theorem markStep_start (s : State) (k tries : Nat) (o : StepOutcome) : ∃ l, (markStep s k tries o).start =
    { s.start with record := { s.start.record with steps := l } } := by
  unfold markStep
  split
  · exact ⟨_, rfl⟩
  · exact ⟨_, rfl⟩

theorem noteFailWord_start (s : State) (k : Nat) (w : Word) : ∃ r, (noteFailWord s k w).start = { s.start with record := r } := by
  unfold noteFailWord
  split
  · exact ⟨_, rfl⟩
  · exact ⟨_, rfl⟩

theorem noteFirstFailed_start (s : State) (k : Nat) : ∃ r, (noteFirstFailed s k).start = { s.start with record := r } := by
  unfold noteFirstFailed
  split
  · exact ⟨_, rfl⟩
  · exact ⟨_, rfl⟩

/-- A failed step is noted in the record alone. -/
theorem failNoted (s : State) (k tries : Nat) (o : StepOutcome) (w : Word) :
    ∃ r, (noteFirstFailed (noteFailWord (markStep s k tries o) k w) k).start = { s.start with record := r } ∧
      (noteFirstFailed (noteFailWord (markStep s k tries o) k w) k).mode = s.mode := by
  obtain ⟨_, first⟩ := noteFirstFailed_start (noteFailWord (markStep s k tries o) k w) k
  obtain ⟨_, word⟩ := noteFailWord_start (markStep s k tries o) k w
  obtain ⟨_, mark⟩ := markStep_start s k tries o
  refine ⟨_, by rw [first, word, mark], by simp [noteFirstFailed_frame, noteFailWord_frame, markStep_frame]⟩

/-- B03 of a rescue start that fails goes on with PCIe alone. -/
theorem stepFails_rescue (s : State) (tries : Nat) (o : StepOutcome) (w : Word) (rescue : s.start.rescueStart = true) :
    (stepFails s 3 tries o w).start.rescue = true ∧ (stepFails s 3 tries o w).start.rescuePcieOnly = true ∧
      (stepFails s 3 tries o w).start.running = false := by
  obtain ⟨r, start, -⟩ := failNoted s 3 tries o w
  unfold stepFails
  dsimp only
  rw [start, rescue, if_pos (by rfl)]
  have went : ∀ u : State, (rescueStart u false).start = { u.start with rescue := true, rescuePcieOnly := true, running := false } := by
    intro u
    unfold rescueStart
    dsimp only
    rw [show ∀ v : State, (domainUp v 12).start = v.start from fun v => by simp [domainUp_frame]]
    rfl
  rw [went]
  exact ⟨rfl, rfl, rfl⟩

/-- Another step that fails outside FAULT ends in a module reset. -/
theorem stepFails_reset (s : State) (k tries : Nat) (o : StepOutcome) (w : Word) (other : ¬(k = 3 ∧ s.start.rescueStart = true))
    (mode : s.mode.mode ≠ .fault) : ∃ u, stepFails s k tries o w = moduleReset u := by
  obtain ⟨r, start, same⟩ := failNoted s k tries o w
  unfold stepFails
  dsimp only
  rw [start, same, if_neg (by simpa using other), decide_eq_false mode, Bool.false_and, Bool.false_and, if_neg (by exact Bool.false_ne_true)]
  unfold attemptFails
  split
  · exact ⟨_, rfl⟩
  · exact ⟨_, rfl⟩

theorem stepUp_start (s : State) (k : Nat) (d : Option Nat) : (stepUp s k d).start = s.start := by simp [stepUp_frame]

theorem stepUp_mode (s : State) (k : Nat) (d : Option Nat) : (stepUp s k d).mode = s.mode := by simp [stepUp_frame]

/-- A step before B07 that runs out of time fails. -/
theorem stepEnds_timeout (s : State) (running : s.start.running = true) (early : s.start.step < 6) :
    ∃ u tries o w, stepEnds s .timeout = stepFails u (stepNow s) tries o w ∧ u.start = s.start ∧ u.mode = s.mode := by
  have late : stepNow s < 7 := by unfold stepNow; omega
  have seven : ¬stepNow s = 7 := by omega
  have nine : ¬stepNow s = 9 := by omega
  unfold stepEnds
  dsimp only
  rw [running, if_neg (by decide)]
  by_cases due : s.start.failDue = true
  · rw [if_pos due]
    exact ⟨s, _, _, _, rfl, rfl, rfl⟩
  · rw [if_neg due, if_neg seven, if_neg nine, ite_self, if_neg (by decide)]
    refine ⟨_, _, _, _, rfl, ?_, ?_⟩
    · dsimp only
      split
      · exact stepUp_start _ _ _
      · rfl
    · dsimp only
      split
      · exact stepUp_mode _ _ _
      · rfl

/-- START_STEP_TIMEOUT: the step has used up its budget. -/
theorem stepTimeout_runs (clk : Nat) (s : State) (spent : budgetNs (begin clk s) (stepNow (begin clk s)) ≤ stepSpent (begin clk s)) :
    exec (.startStepTimeout clk) s = .next (stepEnds (begin clk s) .timeout) := congrArg Host.Outcome.next (if_pos spent)

theorem step_rescued (clk : Nat) (s : State) (running : s.start.running = true)
    (spent : budgetNs (begin clk s) (stepNow (begin clk s)) ≤ stepSpent (begin clk s)) (b03 : s.start.step = 2 ∧ s.start.rescueStart = true) :
    ∃ t, exec (.startStepTimeout clk) s = .next t ∧ t.start.rescue = true ∧ t.start.rescuePcieOnly = true ∧ t.start.running = false := by
  have hs := begin_start clk s
  obtain ⟨u, tries, o, w, fails, start, -⟩ := stepEnds_timeout (begin clk s) (by rw [hs]; exact running) (by rw [hs]; omega)
  have third : stepNow (begin clk s) = 3 := by unfold stepNow; rw [hs, b03.1]
  refine ⟨_, stepTimeout_runs clk s spent, ?_⟩
  rw [fails, third]
  exact stepFails_rescue u tries o w (by rw [start, hs]; exact b03.2)

theorem step_reset (clk : Nat) (s : State) (running : s.start.running = true) (early : s.start.step < 6) (boot : s.mode.mode = .boot)
    (spent : budgetNs (begin clk s) (stepNow (begin clk s)) ≤ stepSpent (begin clk s)) (other : ¬(s.start.step = 2 ∧ s.start.rescueStart = true)) :
    ∃ t, exec (.startStepTimeout clk) s = .next t ∧ Output.moduleReset ∈ t.out ∧ t.mode.mode = .boot ∧ t.start.running = false := by
  have hs := begin_start clk s
  obtain ⟨u, tries, o, w, fails, start, mode⟩ := stepEnds_timeout (begin clk s) (by rw [hs]; exact running) (by rw [hs]; exact early)
  obtain ⟨v, reset⟩ := stepFails_reset u (stepNow (begin clk s)) tries o w (by
      rw [start, hs]
      unfold stepNow
      rw [hs]
      intro third
      exact other ⟨by omega, third.2⟩)
    (by rw [mode, begin_mode, boot]; decide)
  refine ⟨_, stepTimeout_runs clk s spent, ?_⟩
  rw [fails, reset]
  exact ⟨List.mem_append_right _ (List.mem_singleton.mpr rfl), rfl, rfl⟩

/-- An attempt that begins. -/
def attemptBegun (s : State) : State := stampStep (withStart s (fun b => { b with running := true, step := 0 }))

/-- START_ATTEMPT where nothing has started. -/
theorem startAttempt_runs (clk : Nat) (l : List StepResult) (s : State) (fresh : s.start.done = false) (normal : s.start.rescue = false)
    (idle : s.start.running = false) (supplied : s.hw.brownOut = false) :
    exec (.startAttempt clk l) s = .next (l.foldl stepEnds (attemptBegun (begin clk s))) := by
  show execStartAttempt clk l s = _
  unfold execStartAttempt
  dsimp only
  rw [begin_start, begin_hw, fresh, normal, supplied, idle]
  rfl

/-- The record that B02 finds. -/
def foundRecord (s : State) : StartRecord := ((if s.aon.crcOk then s.aon.record else none).orElse (fun _ => s.nor.record)).getD {}

theorem checkRetention_found (s : State) :
    ((checkRetention s).aon.record.orElse (fun _ => (checkRetention s).nor.record)).getD {} = foundRecord s := by
  unfold checkRetention foundRecord
  cases s.aon.crcOk with
  | true => rfl
  | false => rfl

theorem loadIndex_start (s : State) : (loadIndex s).start = s.start := by simp [loadIndex_frame]

theorem checkRetention_start (s : State) : (checkRetention s).start = s.start := by simp [checkRetention_frame]

/-- B02 begins: the record is loaded, and the attempt counted unless a rescue start follows. -/
theorem loadRecord_start (s : State) : ∃ p r, (loadRecord s).start = { s.start with
      loaded := foundRecord s, record := r, pairId := p, rescueStart := decide (3 ≤ (foundRecord s).consecFailed) } ∧
    (decide (3 ≤ (foundRecord s).consecFailed) = false →
      r = { consecFailed := satNat 8 ((foundRecord s).consecFailed + 1), startSeq := ((foundRecord s).startSeq + 1) % 2 ^ 32 }) := by
  unfold loadRecord
  dsimp only
  rw [checkRetention_found, loadIndex_start]
  generalize (if (checkRetention s).hw.pairIdLow then 2 else 1) = p
  split
  · rename_i rescue
    refine ⟨p, foundRecord s, ?_, fun few => absurd (few.symm.trans rescue) Bool.false_ne_true⟩
    rw [loadIndex_start, withStart_start, checkRetention_start]
  · refine ⟨p, _, ?_, fun _ => rfl⟩
    rw [mirrorRecord_start, editRecord_start, loadIndex_start, withStart_start, checkRetention_start]

/-- The first step has no work, leaves no trace, and goes over to B02. -/
theorem firstStep_passes (s : State) (running : s.start.running = true) (first : s.start.step = 0) (early : stepSpent s ≤ budgetNs s 1)
    (sound : s.start.failDue = false) : stepEnds s .ok = beginStep (withStart s (fun b => { b with step := 1 })) 2 := by
  have one : stepNow s = 1 := by unfold stepNow; rw [first]
  unfold stepEnds
  dsimp only
  rw [running, sound, one, if_neg (not_lt.mpr early)]
  rfl

/-- B02 begins with the record loaded and its own entry marked. -/
theorem secondStep_begins (s : State) : ∃ (p c : Nat) (r : StartRecord) (l : List (Nat × StepOutcome)), (beginStep s 2).start = { s.start with
      loaded := foundRecord s, record := { r with steps := l }, pairId := p, rescueStart := decide (3 ≤ (foundRecord s).consecFailed), since := c } ∧
    (decide (3 ≤ (foundRecord s).consecFailed) = false →
      r = { consecFailed := satNat 8 ((foundRecord s).consecFailed + 1), startSeq := ((foundRecord s).startSeq + 1) % 2 ^ 32 }) := by
  obtain ⟨p, r, loaded, counted⟩ := loadRecord_start s
  obtain ⟨l, marked⟩ := markStep_start (stampStep (loadRecord s)) 2 1 .running
  refine ⟨p, (loadRecord s).clock, r, l, ?_, counted⟩
  show (markStep (stampStep (loadRecord s)) 2 1 .running).start = _
  rw [marked, show (stampStep (loadRecord s)).start = { (loadRecord s).start with since := (loadRecord s).clock } from rfl, loaded]

/-- START_ATTEMPT with a good result of B01. -/
theorem secondStep_reached (clk : Nat) (s : State) (fresh : s.start.done = false) (normal : s.start.rescue = false)
    (idle : s.start.running = false) (sound : s.start.failDue = false) (supplied : s.hw.brownOut = false) :
    ∃ t, exec (.startAttempt clk [.ok]) s = .next t ∧ t.start.running = true ∧ t.start.step = 1 ∧ t.start.loaded = foundRecord s ∧
      t.start.rescueStart = decide (3 ≤ t.start.loaded.consecFailed) ∧
      (t.start.rescueStart = false → t.start.record.consecFailed = satNat 8 (t.start.loaded.consecFailed + 1) ∧
        t.start.record.startSeq = (t.start.loaded.startSeq + 1) % 2 ^ 32) := by
  have hs := begin_start clk s
  have inTime : stepSpent (attemptBegun (begin clk s)) ≤ budgetNs (attemptBegun (begin clk s)) 1 := by
    have none : stepSpent (attemptBegun (begin clk s)) = 4 * ((begin clk s).clock - (begin clk s).clock) := rfl
    rw [none, Nat.sub_self]
    exact Nat.zero_le _
  have found : foundRecord (withStart (attemptBegun (begin clk s)) (fun b => { b with step := 1 })) = foundRecord s := by
    show foundRecord (begin clk s) = foundRecord s
    unfold foundRecord
    rw [begin_aon, begin_nor]
  obtain ⟨p, c, r, l, start, counted⟩ := secondStep_begins (withStart (attemptBegun (begin clk s)) (fun b => { b with step := 1 }))
  rw [found] at start counted
  refine ⟨_, startAttempt_runs clk [.ok] s fresh normal idle supplied, ?_⟩
  rw [List.foldl_cons, List.foldl_nil, firstStep_passes _ rfl rfl inTime ((congrArg StartState.failDue hs).trans sound), start]
  refine ⟨rfl, rfl, rfl, rfl, fun few => ?_⟩
  rw [counted few]
  exact ⟨rfl, rfl⟩

/-- Settles O59: a domain goes off and on by the head of its sequence; a start attempt is its steps in order, of which B01 leaves no trace, B02
begins with the record, and one that fails outside FAULT ends in a module reset. -/
theorem domainsAndStart : Obligations.DomainsAndStart := by
  unfold Obligations.DomainsAndStart
  intro clk d s s1
  refine ⟨fun rest _ head => domain_off clk d s rest head, fun rest _ quiet head => domain_on clk d s rest quiet head,
    fun rest head => drain_counted clk d s rest head, domain_failed clk d s, fun fresh normal idle sound supplied => ⟨?_, ?_⟩,
    fun running early boot spent => ⟨step_rescued clk s running spent, step_reset clk s running early boot spent⟩⟩
  · exact ⟨_, startAttempt_runs clk [] s fresh normal idle supplied, rfl, rfl⟩
  · exact secondStep_reached clk s fresh normal idle sound supplied

end Sys2Proof.Machine
end

section
/-! Proofs about the redundant pair (19_redundant_pair.md R401 to R410; 00_scope.md R5). -/

namespace Sys2Proof.Machine

/-! ### What a command's beginning and the pair port leave alone -/

theorem begin_freeCount (clk : Nat) (s : State) : (begin clk s).freeCount = s.freeCount := by simp [begin_frame]

theorem begin_pairOn (clk : Nat) (s : State) : pairOn (begin clk s).objs = pairOn s.objs := by rw [begin_objs]

theorem begin_pairDown (clk : Nat) (s : State) : pairDown (begin clk s) = pairDown s := begin_blockDown clk s 3 2 9

theorem begin_nodeId (clk : Nat) (s : State) : nodeId (begin clk s) = nodeId s := nodeId_of (begin_start clk s)

theorem otherId_of {s t : State} (h : t.start = s.start) : otherId t = otherId s := by
  unfold otherId
  rw [nodeId_of h]

theorem begin_leaseNs (clk : Nat) (s : State) : leaseNs (begin clk s) = leaseNs s := by
  unfold leaseNs
  rw [begin_ov]

theorem begin_mayRenew (clk : Nat) (s : State) : mayRenew (begin clk s) = mayRenew s := by
  unfold mayRenew
  simp only [begin_isolated, begin_mode, begin_net]

/-- The pair port is down or up by the mode's isolations, the gates and the domains. -/
theorem pairDown_of {s t : State} (hm : t.mode = s.mode) (hc : t.clocks = s.clocks) (hp : t.power = s.power) : pairDown t = pairDown s :=
  blockDown_of hm hc hp 3 2 9

theorem countFrame_pairDown (s : State) (p : Nat) : pairDown (countFrame s p) = pairDown s :=
  pairDown_of (by simp [countFrame_frame]) (by simp [countFrame_frame]) (by simp [countFrame_frame])

theorem countFrame_pair (s : State) (p : Nat) : (countFrame s p).pair = s.pair := by simp [countFrame_frame]

theorem countFrame_herd (s : State) (p : Nat) : (countFrame s p).herd = s.herd := by simp [countFrame_frame]

theorem countFrame_out (s : State) (p : Nat) : (countFrame s p).out = s.out := rfl

theorem pairEmit_up (s : State) (o : Output) (up : pairDown s = false) : pairEmit s o = emit s o := if_neg (by rw [up]; exact Bool.false_ne_true)

/-- A message over the pair port of a module of a pair, while the port works. -/
theorem overPair_up (s : State) (f : State → State) (on : pairOn s.objs = true) (up : pairDown s = false) : overPair s f = f (countFrame s 4) :=
  if_neg (by rw [on, up]; exact Bool.false_ne_true)

theorem overPair_begin (clk : Nat) (s : State) (f : State → State) (on : pairOn s.objs = true) (up : pairDown s = false) :
    overPair (begin clk s) f = f (countFrame (begin clk s) 4) :=
  overPair_up _ f (by rw [begin_pairOn, on]) (by rw [begin_pairDown, up])

/-! ### Roles (R402, R408) -/

/-- A new role is the role and the instant since which the module has been STANDBY. -/
theorem setRole_pair (s : State) (r : PairRole) : ∃ x, (setRole s r).pair = { s.pair with role := r, standbySince := x } := by
  unfold setRole
  split
  · rename_i same
    exact ⟨s.pair.standbySince, by rw [← same]⟩
  · refine ⟨if r = .standby then some (now s) else none, ?_⟩
    rw [show ∀ old u, (retime old u).pair = u.pair from fun old u => by simp [retime_frame], show ∀ u n, (setInt u n).pair = u.pair from
      fun u n => by simp [setInt_frame]]
    rfl

theorem setRole_net (s : State) (r : PairRole) : (setRole s r).net = s.net := by simp [setRole_frame]

theorem judgeRole_pair (s : State) : ∃ r x, (judgeRole s).pair = { s.pair with role := r, standbySince := x } := by
  unfold judgeRole
  split
  · obtain ⟨x, h⟩ := setRole_pair s (if standbyOk s then .standby else .notReady)
    exact ⟨_, x, h⟩
  · exact ⟨s.pair.role, s.pair.standbySince, rfl⟩

/-- Judging the role leaves everything else of the pair. -/
theorem judgeRole_keeps {β : Type} (g : PairState → β) (hg : ∀ p r x, g { p with role := r, standbySince := x } = g p) (s : State) :
    g (judgeRole s).pair = g s.pair := by
  obtain ⟨r, x, h⟩ := judgeRole_pair s
  rw [h, hg]

/-- The role of a module that gives up the token. -/
theorem roleWithout (b : Bool) : (if b then PairRole.standby else .notReady) = .standby ∨ (if b then PairRole.standby else .notReady) = .notReady := by
  cases b
  · exact .inr rfl
  · exact .inl rfl

/-! ### The token (R401 to R403) -/

/-- TOKEN_RENEWAL of the holder. -/
theorem token_renewed (clk : Nat) (s : State) (on : pairOn s.objs = true) (active : imageActive s = true) (holds : s.pair.role = .holder)
    (may : mayRenew s = true) (inTime : now (begin clk s) < s.pair.token.leaseEnd) (steady : s.pair.handOver = none) (up : pairDown s = false) :
    ∃ t, exec (.tokenRenewal clk) s = .next t ∧
      t.pair.token = { s.pair.token with leaseEnd := now (begin clk s) / 500000 * 500000 + leaseNs s } ∧
      t.pair.latestEnd = t.pair.token.leaseEnd ∧ t.out = [.token t.pair.token] ∧
      t.net.firmwareTx = s.net.firmwareTx ++
        [{ dst := otherId s, tsReq := false, tagged := false, frameId := 0, data := tokenPayload t.pair.token }] := by
  show ∃ t, execTokenRenewal clk s = .next t ∧ _
  unfold execTokenRenewal
  dsimp only
  rw [begin_pairOn, on, begin_active, active, if_neg (by decide), begin_mayRenew, may, begin_pair, if_pos holds,
    decide_eq_false (not_le.mpr inTime), if_neg (by decide), steady, begin_leaseNs]
  refine ⟨_, rfl, ?_⟩
  rw [pairEmit_up _ _ ((pairDown_of (t := { withPair (begin clk s) _ with net := _ }) rfl rfl rfl).trans ((begin_pairDown clk s).trans up))]
  refine ⟨rfl, rfl, ?_, ?_⟩
  · show (begin clk s).out ++ _ = _
    rw [begin_out]
    rfl
  · rw [← otherId_of (begin_start clk s), ← begin_net clk s]
    rfl

/-- A counter goes up from what it was, where nothing else has changed the objects. -/
theorem bump_counts {s t : State} (ho : t.objs = s.objs) (hf : t.freeCount = s.freeCount) (c i m : Nat) :
    (bump t c i m).objs = oput s.objs (okey c i m) (countUp 1 (ov s c i m) s.freeCount) := by
  rw [bump_objs, ov_of ho, ho, hf]

/-- TOKEN_RENEWAL of a standby that has not seen the renewal. -/
theorem renewal_missed (clk : Nat) (s : State) (on : pairOn s.objs = true) (active : imageActive s = true) (role : s.pair.role = .standby)
    (unseen : s.pair.renewalSeen = false) : ∃ t, exec (.tokenRenewal clk) s = .next t ∧ t.pair = s.pair ∧
      t.objs = oput s.objs (okey 0xC0 0 0x0C) (countUp 1 (ov s 0xC0 0 0x0C) s.freeCount) := by
  have run : exec (.tokenRenewal clk) s = .next (bump (withPair (begin clk s) (fun p => { p with renewalSeen := false })) 0xC0 0 0x0C) := by
    show execTokenRenewal clk s = _
    unfold execTokenRenewal
    dsimp only
    rw [begin_pairOn, on, begin_active, active, if_neg (by decide), begin_pair, role, unseen]
    rfl
  refine ⟨_, run, ?_, ?_⟩
  · rw [show ∀ u : State, (bump u 0xC0 0 0x0C).pair = u.pair from fun u => by simp [bump_frame], withPair_pair, begin_pair, ← unseen]
  · exact bump_counts (begin_objs clk s) (begin_freeCount clk s) 0xC0 0 0x0C

/-- TOKEN_MESSAGE_RX by the pair port or a ring. -/
theorem token_heard (clk : Nat) (s : State) (tok : Token) (on : pairOn s.objs = true) (role : s.pair.role ≠ .holder)
    (heard : (pairDown s && [0, 1].all (fun b => blockDown s 3 b 9)) = false) :
    ∃ t, exec (.tokenMessageRx clk tok) s = .next t ∧ t.pair.latestEnd = max s.pair.latestEnd tok.leaseEnd ∧
      t.pair.token = (if s.pair.latestEnd < tok.leaseEnd then tok else s.pair.token) ∧ t.pair.role = s.pair.role := by
  have run : exec (.tokenMessageRx clk tok) s = .next (withPair (begin clk s) (fun p => { p with
      token := if p.latestEnd < tok.leaseEnd then tok else p.token, latestEnd := max p.latestEnd tok.leaseEnd, renewalSeen := true })) :=
    congrArg Host.Outcome.next (if_neg (by
      simp only [begin_blockDown]
      rw [begin_pairOn, on, begin_pair, decide_eq_false role, begin_pairDown, heard]
      decide))
  refine ⟨_, run, ?_⟩
  rw [withPair_pair, begin_pair]
  exact ⟨rfl, rfl, rfl⟩

/-- TOKEN_LEASE_EXPIRY. -/
theorem lease_expired (clk : Nat) (s : State) (on : pairOn s.objs = true) (holds : s.pair.role = .holder)
    (out : s.pair.token.leaseEnd ≤ tickStart (begin clk s)) :
    ∃ t, exec (.tokenLeaseExpiry clk) s = .next t ∧ (t.pair.role = .standby ∨ t.pair.role = .notReady) ∧ t.pair.handOver = none := by
  have run : exec (.tokenLeaseExpiry clk) s = .next (setRole (withPair (begin clk s) (fun p => { p with handOver := none }))
      (if standbyOk (begin clk s) then .standby else .notReady)) :=
    congrArg Host.Outcome.next (if_pos (by rw [begin_pairOn, on, begin_pair, decide_eq_true holds, decide_eq_true out]; rfl))
  obtain ⟨x, pair⟩ := setRole_pair (withPair (begin clk s) (fun p => { p with handOver := none }))
    (if standbyOk (begin clk s) then .standby else .notReady)
  refine ⟨_, run, ?_⟩
  rw [pair]
  exact ⟨roleWithout _, rfl⟩

/-! ### Taking the token (R404) -/

theorem takeArm_pair (ticks : Nat) (s : State) (a : Nat × Nat × Nat × ArmSource) : (takeArm ticks s a).pair = s.pair := by simp [takeArm_frame]

theorem takeArm_net (ticks : Nat) (s : State) (a : Nat × Nat × Nat × ArmSource) : (takeArm ticks s a).net = s.net := by simp [takeArm_frame]

theorem takeChannel_pair (b : Bool) (t : Nat) (s : State) (c : Nat × Setpoint) : (takeChannel b t s c).pair = s.pair := by simp [takeChannel_frame]

theorem takeChannel_net (b : Bool) (t : Nat) (s : State) (c : Nat × Setpoint) : (takeChannel b t s c).net = s.net := by simp [takeChannel_frame]

/-- An arm is held or not as its mirror has it (R404 step 7). -/
def takeHold (s : State) (h : Nat × Bool) : State := withMode s (fun k => { k with arms := upd k.arms h.1 (fun a => { a with held := h.2 }) })

theorem takeHolds_keep (l : List (Nat × Bool)) (s : State) : (l.foldl takeHold s).pair = s.pair ∧ (l.foldl takeHold s).net = s.net :=
  ⟨foldl_keeps takeHold State.pair (fun _ _ => rfl) l s, foldl_keeps takeHold State.net (fun _ _ => rfl) l s⟩

/-- The module that takes the token holds it with the next epoch, and its network runs. -/
theorem takeToken_pair (s : State) (t : Nat) (stops : Bool) : (takeToken s t stops).pair.role = .holder ∧ (takeToken s t stops).pair.token =
      { epoch := (s.pair.token.epoch + 1) % 2 ^ 32, holder := nodeId s, leaseEnd := t + leaseNs s } ∧ (takeToken s t stops).net.net = .running := by
  unfold takeToken
  extract_lets m epoch fin s1 delay net s2 herd s3 ticks s4 s5 piste s6 plan solver field s7
  obtain ⟨pairHeld, netHeld⟩ := takeHolds_keep m.holds s7
  change (m.holds.foldl takeHold s7).pair.role = _ ∧ (m.holds.foldl takeHold s7).pair.token = _ ∧ (m.holds.foldl takeHold s7).net.net = _
  rw [pairHeld, netHeld]
  have pair : s7.pair = s3.pair :=
    (foldl_keeps _ State.pair (takeChannel_pair stops t) _ s4).trans (foldl_keeps _ State.pair (takeArm_pair ticks) _ s3)
  have net : s7.net = s3.net :=
    (foldl_keeps _ State.net (takeChannel_net stops t) _ s4).trans (foldl_keeps _ State.net (takeArm_net ticks) _ s3)
  obtain ⟨x, role⟩ := setRole_pair { s2 with herd := { s2.herd with integral := (m.servo.map (·.integral)).getD s2.herd.integral } } .holder
  have same : s3.net = s2.net := setRole_net _ _
  rw [pair, net, same, role]
  exact ⟨rfl, rfl, rfl⟩

/-- TAKEOVER. -/
theorem token_taken (clk : Nat) (s : State) (running : s.herd.running = true) (may : mayTake (begin clk s) = true) :
    ∃ t, exec (.takeover clk) s = .next t ∧ t.pair.role = .holder ∧ t.pair.token.epoch = (s.pair.token.epoch + 1) % 2 ^ 32 ∧
      t.pair.token.holder = nodeId s ∧ t.pair.token.leaseEnd = tickStart (begin clk s) + leaseNs s ∧ t.net.net = .running := by
  have run : exec (.takeover clk) s =
      .next (error (bump (takeToken (begin clk s) (tickStart (begin clk s)) true) 0xC0 0 0x0D) (errWord 2 3 2 0 false 1)) :=
    congrArg Host.Outcome.next (if_pos (by rw [begin_running, running, may]; rfl))
  obtain ⟨role, token, net⟩ := takeToken_pair (begin clk s) (tickStart (begin clk s)) true
  refine ⟨_, run, ?_⟩
  rw [show ∀ u w, (error u w).pair = u.pair from fun u w => by simp [error_frame], show ∀ u w, (error u w).net = u.net from fun u w => by simp [error_frame],
    show ∀ u : State, (bump u 0xC0 0 0x0D).pair = u.pair from fun u => by simp [bump_frame], bump_net, role, token, net, begin_pair, begin_nodeId,
    begin_leaseNs]
  exact ⟨rfl, rfl, rfl, rfl, rfl⟩

/-! ### Mirroring (R406 to R408) -/

/-- What a set leads to beside the mirror leaves the pair's data alone. -/
theorem peerCheck_pair (s : State) (b : Bytes) : (peerCheck s b).pair = s.pair := by simp [peerCheck_frame]

theorem followMode_pair (s : State) (m : Mode × Option Mode × Option Mode) : (followMode s m).pair = s.pair := by simp [followMode_frame]

theorem pairEmit_pair (s : State) (o : Output) : (pairEmit s o).pair = s.pair := by simp [pairEmit_frame]

theorem widenTick_of {s t : State} (hr : t.herd.running = s.herd.running) (ht : t.herd.tick = s.herd.tick) (v : Nat) : widenTick t v = widenTick s v := by
  unfold widenTick tickCount
  rw [hr, ht]

/-- MIRROR_SET_RX. -/
theorem set_mirrored (clk : Nat) (s : State) (set : MirrorSet) (on : pairOn s.objs = true) (role : s.pair.role ≠ .holder) (up : pairDown s = false) :
    ∃ t, exec (.mirrorSetRx clk set) s = .next t ∧ t.pair.mirror = mirrorMerge s.pair.mirror set ∧
      t.pair.mirrorTick = (if set.ends then some (widenTick s set.tick) else s.pair.mirrorTick) := by
  have counted : (countFrame (begin clk s) 4).pair = s.pair := (countFrame_pair _ _).trans (begin_pair clk s)
  have ticks : widenTick (countFrame (begin clk s) 4) set.tick = widenTick s set.tick :=
    widenTick_of (by rw [countFrame_herd, begin_running]) (by rw [countFrame_herd, begin_tick]) _
  show ∃ t, execMirrorSetRx clk set s = .next t ∧ _
  unfold execMirrorSetRx
  show ∃ t, Host.Outcome.next (overPair (begin clk s) _) = _ ∧ _
  rw [overPair_begin clk s _ on up, if_neg (by rw [counted]; exact role)]
  refine ⟨_, rfl, ?_⟩
  extract_lets s2 s3 s4 plan s5
  have checked : s3.pair = s2.pair := by
    dsimp only [s3]
    split
    · exact peerCheck_pair _ _
    · rfl
  have followed : s4.pair = s2.pair := by
    refine Eq.trans ?_ checked
    dsimp only [s4]
    split
    · exact followMode_pair _ _
    · rfl
  have acknowledged : s5.pair = s2.pair := by
    refine Eq.trans ?_ followed
    dsimp only [s5]
    split
    · exact pairEmit_pair _ _
    · rfl
  have merged : s2.pair.mirror = mirrorMerge s.pair.mirror set ∧
      s2.pair.mirrorTick = (if set.ends then some (widenTick s set.tick) else s.pair.mirrorTick) := by
    dsimp only [s2]
    rw [withPair_pair, counted, ticks]
    exact ⟨rfl, rfl⟩
  rw [judgeRole_keeps (·.mirror) (fun _ _ _ => rfl), judgeRole_keeps (·.mirrorTick) (fun _ _ _ => rfl), acknowledged]
  exact merged

/-- MIRROR_AGE_LIMIT. -/
theorem mirror_aged (clk : Nat) (s : State) (on : pairOn s.objs = true) (role : s.pair.role = .standby) (active : imageActive s = true)
    (old : ov s 0xC0 0 4 < mirrorAge (begin clk s)) : ∃ t, exec (.mirrorAgeLimit clk) s = .next t ∧ t.pair.role = .notReady := by
  have run : exec (.mirrorAgeLimit clk) s = .next (judgeRole (begin clk s)) :=
    congrArg Host.Outcome.next (if_pos (by rw [begin_pairOn, on, begin_ov, decide_eq_true old]; rfl))
  have unfit : standbyOk (begin clk s) = false := by
    unfold standbyOk
    rw [begin_ov, decide_eq_false (not_le.mpr old)]
    rfl
  have judged : judgeRole (begin clk s) = setRole (begin clk s) .notReady := by
    unfold judgeRole
    rw [unfit, begin_pairOn, on, begin_pair, role, begin_active, active]
    rfl
  obtain ⟨x, pair⟩ := setRole_pair (begin clk s) .notReady
  refine ⟨_, run, ?_⟩
  rw [judged, pair]

/-- PLAN_ACK_RX. -/
theorem plan_acked (clk n : Nat) (s : State) (on : pairOn s.objs = true) (role : s.pair.role = .holder) (up : pairDown s = false) :
    ∃ t, exec (.planAckRx clk n) s = .next t ∧ n ∈ t.pair.acked ∧ ∀ m ∈ s.pair.acked, m ∈ t.pair.acked := by
  have counted : (countFrame (begin clk s) 4).pair = s.pair := (countFrame_pair _ _).trans (begin_pair clk s)
  show ∃ t, Host.Outcome.next (overPair (begin clk s) _) = _ ∧ _
  rw [overPair_begin clk s _ on up]
  generalize countFrame (begin clk s) 4 = u at counted
  rw [if_pos (by rw [counted, role])]
  refine ⟨_, rfl, ?_⟩
  rw [withPair_pair, counted]
  dsimp only
  split
  · rename_i known
    exact ⟨by simpa using known, fun m hm => hm⟩
  · exact ⟨List.mem_append_right _ (List.mem_singleton.mpr rfl), fun m hm => List.mem_append_left _ hm⟩

/-! ### Safety status (R409) -/

/-- PAIR_SAFETY_STATUS_RX with a right CRC. -/
theorem status_taken (clk : Nat) (s : State) (l : List Nat) (sb : Bool) (on : pairOn s.objs = true) (up : pairDown s = false) :
    ∃ t, exec (.pairSafetyStatusRx clk true l sb) s = .next t ∧ t.pair.peerStops = (List.range 8).map (fun a => stopOfCode (nth 5 l a)) ∧
      t.pair.peerRun = 0 ∧ t.pair.peerSilent = false ∧ t.pair.peerStandby = sb := by
  show ∃ t, Host.Outcome.next (overPair (begin clk s) _) = _ ∧ _
  rw [overPair_begin clk s _ on up]
  generalize countFrame (begin clk s) 4 = u
  rw [if_neg (by decide)]
  refine ⟨_, rfl, ?_⟩
  rw [judgeRole_keeps (·.peerStops) (fun _ _ _ => rfl), judgeRole_keeps (·.peerRun) (fun _ _ _ => rfl),
    judgeRole_keeps (·.peerSilent) (fun _ _ _ => rfl), judgeRole_keeps (·.peerStandby) (fun _ _ _ => rfl), withPair_pair]
  exact ⟨rfl, rfl, rfl, rfl⟩

/-- PEER_SILENT. -/
theorem peer_silent (clk : Nat) (s : State) (on : pairOn s.objs = true) (heard : s.pair.peerSilent = false) (long : 8 ≤ s.pair.peerRun) :
    ∃ t, exec (.peerSilent clk) s = .next t ∧ t.pair.peerSilent = true ∧ t.pair.peerStandby = false := by
  have run : exec (.peerSilent clk) s = .next (judgeRole (withPair (begin clk s) (fun p => { p with peerSilent := true, peerStandby := false }))) :=
    congrArg Host.Outcome.next (if_pos (by rw [begin_pairOn, on, begin_pair, heard, decide_eq_true long]; rfl))
  refine ⟨_, run, ?_⟩
  rw [judgeRole_keeps (·.peerSilent) (fun _ _ _ => rfl), judgeRole_keeps (·.peerStandby) (fun _ _ _ => rfl), withPair_pair]
  exact ⟨rfl, rfl⟩

/-! ### Hand-over (R410) -/

/-- PAIR_REVERT_TIMER of the designated primary. -/
theorem primary_asks (clk x : Nat) (s : State) (on : pairOn s.objs = true) (role : s.pair.role = .standby) (primary : nodeId s = ov s 0xC0 0 1)
    (reverts : ov s 0xC0 0 3 ≠ 0) (steady : s.pair.handOver = none) (since : s.pair.standbySince = some x)
    (due : x + ov s 0xC0 0 3 * 1000000000 ≤ now (begin clk s)) (up : pairDown s = false) :
    ∃ t, exec (.pairRevertTimer clk) s = .next t ∧ t.out = [.handOver 0 0] ∧ t.pair = s.pair := by
  have waits : (ov s 0xC0 0 3 * 1000000000 != 0) = true := bne_iff_ne.mpr (Nat.mul_ne_zero reverts (by decide))
  have run : exec (.pairRevertTimer clk) s = .next (emit (begin clk s) (.handOver 0 0)) := by
    show execPairRevertTimer clk s = _
    unfold execPairRevertTimer
    dsimp only
    rw [begin_pairOn, on, begin_pair, role, begin_nodeId, begin_ov, begin_ov, decide_eq_true primary, waits, steady, since, Option.any_some,
      decide_eq_true due, pairEmit_up _ _ ((begin_pairDown clk s).trans up)]
    rfl
  refine ⟨_, run, ?_, begin_pair clk s⟩
  show (begin clk s).out ++ _ = _
  rw [begin_out]
  rfl

/-- What the pair port brings finds the pair's data as they were, nothing sent yet, and the port at work. -/
structure PortState (s u : State) : Prop where
  pair : u.pair = s.pair
  out : u.out = []
  up : pairDown u = false

theorem counted_port (clk : Nat) (s : State) (up : pairDown s = false) : PortState s (countFrame (begin clk s) 4) :=
  ⟨(countFrame_pair _ _).trans (begin_pair clk s), (countFrame_out _ _).trans (begin_out clk s),
    (countFrame_pairDown _ _).trans ((begin_pairDown clk s).trans up)⟩

/-- A message of the exchange is answered over the pair port. -/
theorem PortState.answer {s u : State} (h : PortState s u) (f : PairState → PairState) (o : Output) :
    (pairEmit (withPair u f) o).out = [o] ∧ (pairEmit (withPair u f) o).pair = f s.pair := by
  rw [pairEmit_up _ _ ((pairDown_of (t := withPair u f) (s := u) rfl rfl rfl).trans h.up)]
  constructor
  · show u.out ++ [o] = [o]
    rw [h.out]
    rfl
  · show f u.pair = f s.pair
    rw [h.pair]

theorem PortState.send {s u : State} (h : PortState s u) (o : Output) : (pairEmit u o).out = [o] ∧ (pairEmit u o).pair = s.pair := by
  rw [pairEmit_up _ _ h.up]
  constructor
  · show u.out ++ [o] = [o]
    rw [h.out]
    rfl
  · exact h.pair

/-- HANDOVER_REQUEST_RX: a request to the holder. -/
theorem request_answered (clk : Nat) (s : State) (on : pairOn s.objs = true) (up : pairDown s = false) (role : s.pair.role = .holder)
    (open_ : ∀ h, s.pair.handOver = some h → h.acked = false) : ∃ t, exec (.handoverRequestRx clk 0 0) s = .next t ∧
      t.pair.handOver = some { instant := secondPeriod (countFrame (begin clk s) 4) (now (countFrame (begin clk s) 4)) } ∧
      t.out = [.handOver 1 (secondPeriod (countFrame (begin clk s) 4) (now (countFrame (begin clk s) 4)))] := by
  have unacked : (s.pair.handOver.any fun h => h.acked) = false := by
    cases asked : s.pair.handOver with
    | none => rfl
    | some h => exact open_ h asked
  have port := counted_port clk s up
  show ∃ t, Host.Outcome.next (overPair (begin clk s) _) = _ ∧ _
  rw [overPair_begin clk s _ on up]
  generalize countFrame (begin clk s) 4 = u at port ⊢
  rw [if_pos (by rw [port.pair, begin_pair, unacked, role]; rfl)]
  obtain ⟨out, pair⟩ := port.answer (fun p => { p with handOver := some { instant := secondPeriod u (now u) } }) (.handOver 1 (secondPeriod u (now u)))
  exact ⟨_, rfl, congrArg PairState.handOver pair, out⟩

/-- HANDOVER_REQUEST_RX: the answer to the standby. -/
theorem answer_acknowledged (clk h : Nat) (s : State) (on : pairOn s.objs = true) (up : pairDown s = false) (role : s.pair.role = .standby) :
    ∃ t, exec (.handoverRequestRx clk 1 h) s = .next t ∧ t.pair.handOver = some { instant := h, acked := true, requester := true } ∧
      t.out = [.handOver 2 h] := by
  have port := counted_port clk s up
  show ∃ t, Host.Outcome.next (overPair (begin clk s) _) = _ ∧ _
  rw [overPair_begin clk s _ on up]
  generalize countFrame (begin clk s) 4 = u at port ⊢
  rw [if_neg (by simp), if_pos (by rw [begin_pair, role]; rfl)]
  obtain ⟨out, pair⟩ := port.answer (fun p => { p with handOver := some { instant := h, acked := true, requester := true } }) (.handOver 2 h)
  exact ⟨_, rfl, congrArg PairState.handOver pair, out⟩

/-- HANDOVER_REQUEST_RX: the acknowledgement to the holder, no later than 1 ms before the instant. -/
theorem acknowledgement_noted (clk : Nat) (s : State) (h : HandOver) (on : pairOn s.objs = true) (up : pairDown s = false)
    (role : s.pair.role = .holder) (asked : s.pair.handOver = some h) (inTime : now (countFrame (begin clk s) 4) + 1000000 ≤ h.instant) :
    ∃ t, exec (.handoverRequestRx clk 2 h.instant) s = .next t ∧ t.pair.handOver = some { h with acked := true } := by
  have port := counted_port clk s up
  show ∃ t, Host.Outcome.next (overPair (begin clk s) _) = _ ∧ _
  rw [overPair_begin clk s _ on up]
  generalize countFrame (begin clk s) 4 = u at port inTime ⊢
  rw [if_neg (by simp), if_neg (by simp), if_pos (by rw [begin_pair, role]; rfl)]
  refine ⟨_, rfl, ?_⟩
  rw [withPair_pair, port.pair]
  dsimp only
  rw [asked, Option.map_some, decide_eq_true inTime]
  simp

/-- HANDOVER_REQUEST_RX: the word of a swap to the standby. -/
theorem swap_requested (clk h : Nat) (s : State) (on : pairOn s.objs = true) (up : pairDown s = false) (role : s.pair.role = .standby) :
    ∃ t, exec (.handoverRequestRx clk 3 h) s = .next t ∧ t.pair = s.pair ∧ t.out = [.handOver 0 0] := by
  have port := counted_port clk s up
  show ∃ t, Host.Outcome.next (overPair (begin clk s) _) = _ ∧ _
  rw [overPair_begin clk s _ on up]
  generalize countFrame (begin clk s) 4 = u at port ⊢
  rw [if_neg (by simp), if_neg (by simp), if_neg (by simp), if_pos (by rw [begin_pair, role]; rfl)]
  obtain ⟨out, pair⟩ := port.send (.handOver 0 0)
  exact ⟨_, rfl, pair, out⟩

/-- HANDOVER_ACK_TIMEOUT. -/
theorem handOver_dropped (clk : Nat) (s : State) (h : HandOver) (role : s.pair.role = .holder) (asked : s.pair.handOver = some h)
    (unacked : h.acked = false) (late : h.instant ≤ now (begin clk s) + 1000000) :
    ∃ t, exec (.handoverAckTimeout clk) s = .next t ∧ t.pair.handOver = none ∧ t.pair.role = .holder := by
  have run : exec (.handoverAckTimeout clk) s = .next (withPair (begin clk s) (fun p => { p with handOver := none, swap := false })) := by
    show execHandoverAckTimeout clk s = _
    unfold execHandoverAckTimeout
    dsimp only
    rw [begin_pair, asked]
    dsimp only
    rw [role, unacked, decide_eq_true late]
    rfl
  refine ⟨_, run, ?_⟩
  rw [withPair_pair, begin_pair]
  exact ⟨rfl, role⟩

/-- What the holder of before keeps of the pair when it has handed over (R410 step 6). -/
def handedOver (s : State) (h : HandOver) (p : PairState) : PairState :=
  { p with handOver := none, swap := false, latestEnd := h.instant, mirrorTick := some s.herd.tick
           peerImage := some (s.image.digest, s.image.activation)
           token := { p.token with epoch := (p.token.epoch + 1) % 2 ^ 32, holder := otherId s } }

/-- HANDOVER_AT at the holder. -/
theorem holder_handsOver (clk : Nat) (s : State) (h : HandOver) (on : pairOn s.objs = true) (asked : s.pair.handOver = some h) (acked : h.acked = true)
    (due : h.instant ≤ tickStart (begin clk s)) (role : s.pair.role = .holder) (own : h.requester = false) :
    ∃ t, exec (.handoverAt clk) s = .next t ∧ (t.pair.role = .standby ∨ t.pair.role = .notReady) ∧ t.pair.token.holder = otherId s ∧
      t.pair.token.epoch = (s.pair.token.epoch + 1) % 2 ^ 32 := by
  have run : ∃ u : State, u.pair = handedOver (begin clk s) h s.pair ∧
      exec (.handoverAt clk) s = .next (bump (setRole u (if standbyOk u then .standby else .notReady)) 0xC0 0 0x0E) := by
    show ∃ u : State, _ ∧ execHandoverAt clk s = _
    unfold execHandoverAt
    dsimp only
    rw [begin_pair, asked]
    dsimp only
    rw [acked, decide_eq_false (not_lt.mpr due), begin_pairOn, on, if_neg (by decide), own, if_neg (by decide), if_pos role]
    refine ⟨_, ?_, rfl⟩
    show handedOver (begin clk s) h (begin clk s).pair = _
    rw [begin_pair]
  obtain ⟨u, pair, run⟩ := run
  obtain ⟨x, became⟩ := setRole_pair u (if standbyOk u then .standby else .notReady)
  refine ⟨_, run, ?_⟩
  rw [show ∀ v : State, (bump v 0xC0 0 0x0E).pair = v.pair from fun v => by simp [bump_frame], became, pair]
  exact ⟨roleWithout _, otherId_of (begin_start clk s), rfl⟩

/-- HANDOVER_AT at the requester. -/
theorem requester_takes (clk : Nat) (s : State) (h : HandOver) (on : pairOn s.objs = true) (asked : s.pair.handOver = some h) (acked : h.acked = true)
    (due : h.instant ≤ tickStart (begin clk s)) (role : s.pair.role = .standby) (requester : h.requester = true) :
    ∃ t, exec (.handoverAt clk) s = .next t ∧ t.pair.role = .holder ∧
      t.pair.token = { epoch := (s.pair.token.epoch + 1) % 2 ^ 32, holder := nodeId s, leaseEnd := h.instant + leaseNs s } := by
  have run : exec (.handoverAt clk) s = .next (bump (takeToken (begin clk s) h.instant false) 0xC0 0 0x0E) := by
    show execHandoverAt clk s = _
    unfold execHandoverAt
    dsimp only
    rw [begin_pair, asked]
    dsimp only
    rw [acked, decide_eq_false (not_lt.mpr due), begin_pairOn, on, if_neg (by decide), if_pos requester, if_pos role]
  obtain ⟨became, token, -⟩ := takeToken_pair (begin clk s) h.instant false
  refine ⟨_, run, ?_⟩
  rw [show ∀ v : State, (bump v 0xC0 0 0x0E).pair = v.pair from fun v => by simp [bump_frame], became, token, begin_pair, begin_nodeId, begin_leaseNs]
  exact ⟨rfl, rfl⟩

/-- Settles O60: what a pair command writes of the pair's data is read off its own step; judging the role writes the role alone. -/
theorem pairWorks : Obligations.PairWorks := by
  unfold Obligations.PairWorks
  intro clk s s1 on
  refine ⟨fun active => ⟨token_renewed clk s on active, renewal_missed clk s on active⟩, fun tok => token_heard clk s tok on, lease_expired clk s on,
    token_taken clk s, fun set => set_mirrored clk s set on, fun role active => mirror_aged clk s on role active, fun n => plan_acked clk n s on,
    fun l sb up => status_taken clk s l sb on up, peer_silent clk s on, fun x => primary_asks clk x s on, fun up => ?_,
    fun h => handOver_dropped clk s h, fun h asked acked due => ⟨holder_handsOver clk s h on asked acked due, requester_takes clk s h on asked acked due⟩⟩
  exact ⟨request_answered clk s on up, fun h => answer_acknowledged clk h s on up, fun h => acknowledgement_noted clk s h on up,
    fun h => swap_requested clk h s on up⟩

end Sys2Proof.Machine
end
